-- ==== Sys2Proof/Word.lean ====
section
/-!
DEFINITION. The word types of the WZ8 and the plainest arithmetic on them (R5 to R8): bytes, 32-bit
words, bit fields of a number, little-endian assembly, and the wrapping comparison of R8.
-/

-- One declaration at a time: the threads of a parallel elaboration take memory together.
set_option Elab.async false

namespace Sys2Proof

/-- One byte. -/
abbrev Byte := BitVec 8

/-- One 32-bit word: a register, a flag generation, a sequence number. -/
abbrev Word := BitVec 32

/-- A 64-byte command packet (R16). -/
abbrev Packet := BitVec 512

/-- The bits `[hi:lo]` of a number. -/
def bits (x hi lo : Nat) : Nat := (x >>> lo) % 2 ^ (hi + 1 - lo)

/-- Bit `i` of a number. -/
def bit (x i : Nat) : Bool := x.testBit i

/-- One as a number, for packing a flag into a field. -/
def b2n (b : Bool) : Nat := if b then 1 else 0

/-- The value a counter of `w` bits holds after adding, saturating at all ones. -/
def satAdd (w x n : Nat) : Nat := min (x + n) (2 ^ w - 1)

/-- The number that a list of bytes spells, the first byte least significant (R16). -/
def leNat : List Byte → Nat
  | [] => 0
  | b :: bs => b.toNat + 256 * leNat bs

/-- The `n` bytes of a number, least significant first (R16). -/
def leBytes : Nat → Nat → List Byte
  | 0, _ => []
  | n + 1, x => BitVec.ofNat 8 x :: leBytes n (x / 256)

/-- R8: `a` is at or after `b` in a wrapping count of 32 bits. -/
def atOrAfter (a b : Word) : Bool := (a - b).toNat < 2 ^ 31

/-- The two's complement value of the low `w` bits of `x`. -/
def signed (w x : Nat) : Int :=
  let y := x % 2 ^ w
  if y < 2 ^ (w - 1) then (y : Int) else (y : Int) - (2 ^ w : Nat)

/-- The `w`-bit two's complement code of an integer. -/
def toCode (w : Nat) (x : Int) : Nat := (x % ((2 ^ w : Nat) : Int)).toNat

/-- Round up to a multiple of `k`. -/
def roundUp (x k : Nat) : Nat := (x + k - 1) / k * k

/-- Division rounding up. -/
def ceilDiv (x k : Nat) : Nat := (x + k - 1) / k

end Sys2Proof
end

