-- ==== Sys2Proof/Config.lean ====
section
/-!
DEFINITION. What a part fixes for good (R1, R2, R11, R12): the variant and its unit counts. And the free
values: constants without a body, for what the spec leaves open; nothing can be proved of their values.
-/

-- One declaration at a time: the threads of a parallel elaboration take memory together.
set_option Elab.async false

namespace Sys2Proof

/-- The four variants of R1. -/
inductive Variant where
  | h8a | h4a | h4 | h2
  deriving DecidableEq, Repr

namespace Config

/-- R1: compute dies of the variant. -/
def dies : Variant → Nat
  | .h8a => 8 | .h4a => 4 | .h4 => 4 | .h2 => 2

/-- R1: neural engines, two to a compute die. -/
def engines (v : Variant) : Nat := 2 * dies v

/-- R1: whether the package holds the matching die. -/
def hasMe : Variant → Bool
  | .h2 => false | _ => true

/-- R1: DRAM ports bonded out. -/
def ports : Variant → Nat
  | .h8a => 8 | .h4a => 8 | .h4 => 4 | .h2 => 4

/-- R1: DP outputs bonded out. -/
def outputs : Variant → Nat
  | .h8a => 4 | .h4a => 4 | .h4 => 2 | .h2 => 2

/-- R372: the variant code of `HUB_SYS.VARIANT`. -/
def code : Variant → Nat
  | .h8a => 4 | .h4a => 3 | .h4 => 2 | .h2 => 1

/-- The variant of an R372 code. -/
def ofCode : Nat → Option Variant
  | 4 => some .h8a | 3 => some .h4a | 2 => some .h4 | 1 => some .h2 | _ => none

/-- The place of the variant in the order H8A, H4A, H4, H2 in which the spec lists per-variant values. -/
def index : Variant → Nat
  | .h8a => 0 | .h4a => 1 | .h4 => 2 | .h2 => 3

/-- FREE VALUE. A bit pattern the spec leaves open, drawn with a count that the step advances. -/
opaque freeValue : Nat → Nat

/-- FREE VALUE. The F32 result of a VE_FUNC function on an operand for which R100 states none, and of
GELU, whose defining formula the spec does not give: function number and operand code. -/
opaque veFunc : Nat → Nat → Nat

/-- FREE VALUE. The bytes of the RSA signature of a quote (R321): made with a key the spec does not give. -/
opaque signature : List Byte → List Byte

/-- FREE VALUE. What the raster engine interpolates or samples where R224 to R226 state no value: an infinite
operand, or a texture entry with a field out of its range. The list is the operands. -/
opaque rasterFree : List Nat → Nat

/-- FREE VALUE. Whether a measured or estimated quantity that is not a whole number is rounded up where a register of the PWR page shows
it: R404, R421 and R426 state no rounding. -/
opaque powerRound : Rat → Bool

/-- FREE VALUE. The factor (V / 0.75 V)^X of R402 for a voltage in mV and the F32 code of X: used where that power is no rational number, of which
the spec does not say how to compute it. -/
opaque leakage : Nat → Nat → Rat

/-- FREE VALUE. What an activity weight is taken as when its F32 code is no finite number (R403). -/
opaque weight : Nat → Rat

end Config

end Sys2Proof
end

