-- ==== Sys2Proof/Machine/Types.lean ====
section
/-!
DEFINITION. The kinds of data the state is made of on the command path: statuses, places a command can
wait in, accepted commands, steps, tile groups, jobs, engines and their contexts, apertures, rings, flags,
pages.
-/

-- One declaration at a time: the threads of a parallel elaboration take memory together.
set_option Elab.async false

namespace Sys2Proof.Machine

/-- The completion statuses of R18. -/
inductive Status where
  | ok | ecc | dieLost | timeout | unitDisabled | badOperand | format | absentUnit | late | powerStop
  | version | link
  deriving DecidableEq, Repr

/-- R18: the code of a status. -/
def Status.code : Status → Nat
  | .ok => 0 | .ecc => 1 | .dieLost => 2 | .timeout => 3 | .unitDisabled => 4 | .badOperand => 5
  | .format => 6 | .absentUnit => 7 | .late => 8 | .powerStop => 9 | .version => 0xA | .link => 0xB

/-- The status of an R18 code. -/
def Status.ofCode : Nat → Status
  | 1 => .ecc | 2 => .dieLost | 3 => .timeout | 4 => .unitDisabled | 5 => .badOperand | 6 => .format
  | 7 => .absentUnit | 8 => .late | 9 => .powerStop | 0xA => .version | 0xB => .link | _ => .ok

/-- The queues of R29 that a command is admitted to. -/
inductive Queue where
  | context (engine job : Nat)
  | post (die : Nat)
  | dma (channel : Nat)
  | me
  | raster
  | display
  | audit
  deriving DecidableEq, Repr

/-- Where an accepted command stands. `recorded` is a command whose record has been produced and which is
kept only because its tile group may run again (R30, R435). -/
inductive Place where
  | pending
  | queued (q : Queue)
  | ended (status : Status) (cause : Nat)
  | recorded (status : Status)
  deriving DecidableEq, Repr

/-- R31: the completion buffer entry a command holds: none, one reserved to its ring, or a shared one. -/
inductive Entry where
  | none | own | shared
  deriving DecidableEq, Repr

/-- R444: what the fault log is to say of a COMMAND fault: when it was detected, the address of the error, and the commands that it ended. -/
structure FaultNote where
  time : Nat
  addr : Nat
  commands : Nat
  deriving DecidableEq, Repr

/-- An accepted command (R330). `uid` counts acceptances; `step` is the `uid` of the STEP_OPEN of the step
it belongs to (R23); `epoch` is the epoch it latched (R131); `turn` is its place in the order of admissions, 0 before its admission;
`store` is the index of its pending-store entry while `heldEntry` is set (R105); `fault` is the COMMAND fault that ended it, to be logged with
its record (R428, R444). -/
structure Cmd where
  uid : Nat
  apt : Nat
  ring : Nat
  seq : Word
  pkt : Packet
  job : Nat
  cls : Nat
  step : Option Nat
  rejected : Bool
  place : Place
  entry : Entry
  heldEntry : Bool
  epoch : Nat
  acceptedAt : Nat
  turn : Nat
  store : Nat
  replay : Bool
  fetched : Bool
  progress : Nat
  data : List Byte
  fault : Option FaultNote
  deriving DecidableEq, Repr

/-- An open or held step (R23 to R26). `auxWait` holds the AUX extensions of R16 that await their
turn; `isVariable` is set once a V command of the step has completed (R316). -/
structure Step where
  uid : Nat
  job : Nat
  apt : Nat
  opened : Bool
  isSealed : Bool
  closed : Bool
  deadline : Nat
  rowPitch : Nat
  tileCount : Nat
  stepId : Nat
  number : Nat
  epoch : Nat
  guardRows : List Nat
  lateRows : List Nat
  cancelled : Nat
  worst : Nat
  frame : Option Nat
  columns : Nat
  aux : List Byte
  auxWait : List (Nat × List Byte)
  turnHeld : Bool
  isVariable : Bool
  deriving DecidableEq, Repr

/-- A tile group with an accepted or a cancelled command (R24, R33, R34, R435). `live` is from its dispatch to its end,
`placed` tells that it has been dispatched, `balance` is BALANCE of its job at the dispatch (R50), `endedAt` the tick in which the
last of its accepted commands completed (R45, R68), and `committed` tells that the tile's pixels are in the canvas buffer (R53). -/
structure Group where
  step : Nat
  tile : Nat
  engine : Nat
  slot : Option Nat
  live : Bool
  cancelled : Bool
  guarded : Bool
  moved : Bool
  failed : Nat
  placed : Bool
  balance : Bool
  endedAt : Option Nat
  committed : Bool
  deriving DecidableEq, Repr

/-- A job (R19, R34, R50, R131, R133, R170, R309, R312). `cfg`, `apts` and `land` are the registers
JOB_CFG, JOB_APT and JOB_LAND; `placed` is set once a VE_XREDUCE of the job ran in the placement order (R316). -/
structure Job where
  cfg : Word
  apts : Word
  land : Word
  repro : Bool
  steps : Nat
  lastEpoch : Nat
  turnSteps : Nat
  turnPending : Option Nat
  turnsDone : Nat
  scaleDir : Bool
  adaptDir : Bool
  adaptJob : Nat
  prog : List Byte
  weights : List Byte
  progSealed : Bool
  weightsSealed : Bool
  dWeights : List (Nat × List Byte)
  placed : Bool
  deriving DecidableEq, Repr

/-- One accumulator row (R81): type tag, POISON, and the columns that are not zero. -/
structure AccRow where
  float : Bool
  poison : Bool
  cells : List (Nat × Nat)
  deriving DecidableEq, Repr

/-- One statistic slot (R85, R110). -/
structure StatSlot where
  tagged : Bool
  job : Nat
  conflict : Bool
  count : Nat
  clips : Nat
  sse : Nat
  deriving DecidableEq, Repr

/-- A resident context (R37 to R43). -/
structure CtxSlot where
  slot : Nat
  job : Nat
  blockedSince : Option Nat
  emptySince : Option Nat
  rewound : Bool
  deriving DecidableEq, Repr

/-- An engine: its contexts, accumulator memory, shadow plane, statistic slots and power (R37, R80, R81,
R85, R107). `known` lists the jobs whose context has been resident since their VALID was set, and `lost`
those whose persistent rows were discarded without a save (R39). `ousted` tells that a context of higher class has taken the slot of the
running one, and that the engine has not turned to a context since (R40); `exempt` that its next command starts by a pre-emption or swap,
without waiting for the issue account (R406). -/
structure Engine where
  slots : List CtxSlot
  running : Option Nat
  lastSlot : Nat
  acc : List (Nat × AccRow)
  planeOf : Option Nat
  stats : List (Nat × StatSlot)
  gated : Bool
  readyAt : Nat
  idleSince : Option Nat
  known : List Nat
  lost : List Nat
  saved : List Nat
  ousted : Bool
  exempt : Bool
  deriving DecidableEq, Repr

/-- A transfer in flight (R89, R90): the engine, the job, LAND_FLAG and LAND_GEN, the command that issued it, its
source, its landing place as a device address, its length, and whether a moved group issued it (R435). -/
structure Fetch where
  engine : Nat
  job : Nat
  flag : Nat
  gen : Word
  uid : Nat
  src : Nat
  dst : Nat
  length : Nat
  again : Bool
  deriving DecidableEq, Repr

/-- A peer that has joined a collective (R306): the engine, the command, COUNT, the DST format, whether it asks
for the placement order with V set, and its leaves by global index, as F32 codes. -/
structure CollPeer where
  engine : Nat
  uid : Nat
  count : Nat
  dst : Nat
  placed : Bool
  leaves : List (Nat × List Nat)
  deriving DecidableEq, Repr

/-- A collective of VE_XREDUCE commands (R306 to R309): its job and PEERS, the peers that have joined, the engines
whose command is over, how it failed, the sum once every peer has joined, and whether it used the placement order. -/
structure Coll where
  job : Nat
  peers : Nat
  joined : List CollPeer
  done : List Nat
  fail : Option (Status × Nat)
  sum : Option (List Nat)
  placed : Bool
  deriving DecidableEq, Repr

/-- A hardware flag (R286, R432). -/
structure FlagEntry where
  gen : Word
  produced : Bool
  producer : Nat
  poison : Bool
  deriving DecidableEq, Repr

/-- A command aperture (R329 to R334). -/
structure Aperture where
  en : Bool
  ring : Nat
  consumed : Word
  credLo : Word
  credHi : Word
  credWritten : Word
  advancedAt : Option Nat
  heldSince : Option Nat
  deriving DecidableEq, Repr

/-- One landing slot of an aperture: 64 bytes of BAR2, whether it has landed, and whether a word of it is uncorrectable (R284). -/
structure AptSlot where
  data : Packet
  landed : Bool
  bad : Bool
  deriving DecidableEq, Repr

/-- A completion ring (R336, R339). -/
structure Ring where
  baseLo : Word
  baseHi : Word
  ctrl : Word
  prod : Word
  cons : Word
  unreported : Nat
  firstAt : Option Nat
  fullSince : Option Nat
  deriving DecidableEq, Repr

/-- A completion record that has been produced and not yet written to its ring (R335). -/
structure Rec where
  ring : Nat
  seq : Word
  apt : Nat
  job : Nat
  status : Nat
  cause : Nat
  time : Nat
  entry : Entry
  deriving DecidableEq, Repr

/-- The stored part of a page's common header (R363). `faulted` and `disabling` are what `BLK_STATE` cannot be computed
from. -/
structure Page where
  enable : Bool
  drain : Bool
  extra : Word
  raw : Word
  irqEn : Word
  errValid : Bool
  errOver : Bool
  errCode : Nat
  errInfo : Word
  errAddr : Nat
  src : Nat
  faulted : Bool
  disabling : Bool
  deriving DecidableEq, Repr

/-- A source frame that ingest writes or has written (R345 to R352): its SRC_SEQ, its buffer, the fill value it
began at, its size, its HDCP state and type, its time stamp, the colorimetry and range its VSC SDP declares, its
captured SDPs, its bound hint descriptor, the depth that ingest uses of it, as F32 codes (R58), and its digests (R314). `gone` is set
once its buffer is written again. -/
structure SrcFrame where
  seq : Word
  buf : Nat
  gen : Word
  w : Nat
  h : Nat
  prot : Bool
  ctype : Bool
  time : Nat
  bt2020 : Bool
  full : Bool
  sdps : List (List Byte)
  hint : Option (List Byte)
  depth : List Nat
  dSrc : List Byte
  dHint : List Byte
  complete : Bool
  gone : Bool
  deriving DecidableEq, Repr

/-- The ingest block (R345 to R352): the stream, the next SRC_SEQ, the frame being written, and the frames written,
newest first. -/
structure Ingest where
  locked : Bool
  supported : Bool
  prot : Bool
  ctype : Bool
  enc : Nat
  bpc : Nat
  w : Nat
  h : Nat
  seq : Word
  cur : Option SrcFrame
  frames : List SrcFrame
  deriving DecidableEq, Repr

/-- A reference in the list of a bin (R227): the record of the primitive, the record chunk that the record lies in, and the reference
chunk that the reference lies in, by their numbers in bin memory. -/
structure BinRef where
  record : Packet
  recordAt : Nat
  listAt : Nat
  deriving DecidableEq, Repr

/-- What a pass or an RS_WARP holds in bin memory (R227): the references of each bin, newest first, the record chunk that is being
filled with the number of records in it, and the chunk that a record has taken before a chunk for its first reference was free. -/
structure BinLists where
  lists : List (Nat × List BinRef)
  chunk : Nat
  fill : Nat
  ahead : Option Nat
  deriving DecidableEq, Repr

/-- A raster pass (R223, R224, R232). `closer` is its RS_PASS_CLOSE once the geometry stage has reached it; `flushed` holds the bins
whose colour and depth have been written by a partial flush; `doneBins` those finished after the close; `fail` is the CAUSE of the first
uncorrectable error that a bin has met, and what the fault log is to say of it. -/
structure RPass where
  uid : Nat
  job : Nat
  apt : Nat
  step : Option Nat
  canvas : Bool
  frame : Option Nat
  load : Bool
  fmt : Nat
  clear : Nat
  clearZ : Nat
  w : Nat
  h : Nat
  target : Nat
  pitch : Nat
  spill : Nat
  tex : Nat
  texCount : Nat
  bins : BinLists
  flushed : List Nat
  closer : Option Nat
  doneBins : List Nat
  fail : Option (Nat × FaultNote)
  deriving DecidableEq, Repr

/-- An RS_WARP or RS_MASK that the geometry stage has begun (R220, R231, R237, R239): its descriptor, and the range record of an RS_WARP;
the triangles that it has taken, and the references made of the next one; what it holds in bin memory; the items of the present round that
have not run, and whether the round is the last; and the depth kept from earlier rounds, as F32 codes in row order.
Items of an RS_WARP are 16 per candidate, in bin order. `turn` is the admission that the work belongs to. -/
structure RTile where
  uid : Nat
  turn : Nat
  mask : Bool
  desc : Packet
  range : Nat
  taken : Nat × Nat
  bins : BinLists
  todo : List Nat
  last : Bool
  depth : List (Nat × List Nat)
  deriving DecidableEq, Repr

/-- The raster engine (R216 to R246): its passes, its begun RS_WARPs and RS_MASKs, its grown pages, the commands stalled on a grow fault and since when,
the parked ones, how far each RS_DRAW has come (records, and references of the next record), the chunks of bin memory with an uncorrectable error (R241), and the OSD tiles and OSD_BINNED of bound frames whose table is not yet prepared. -/
structure Raster where
  passes : List RPass
  tiles : List RTile
  pages : List Nat
  need : Nat
  stalled : List (Nat × Nat)
  parked : List Nat
  draws : List (Nat × (Nat × Nat))
  badChunks : List Nat
  marks : List (Nat × (List Nat × Bool))
  deriving DecidableEq, Repr

/-- What DBG_CORE does with a management core (R460): its registers by number. -/
inductive CoreOp where
  | halt | step | resume | read (reg : Nat) | write (reg value : Nat)
  deriving DecidableEq, Repr

/-- The blocks of R369. -/
inductive Blk where
  | hubSys | basecamp | hif | cfe | sched | dma | memc | hsram | raster | disp | dptx | ingest | pwr | sec
  | welt | perf | fault | flags | cdSys | ne | ve | xp | tmem | post | mdSys | me
  deriving DecidableEq, Repr

/-- R369: the type code of a block. -/
def Blk.code : Blk → Nat
  | .hubSys => 0x01 | .basecamp => 0x02 | .hif => 0x03 | .cfe => 0x04 | .sched => 0x05 | .dma => 0x06
  | .memc => 0x07 | .hsram => 0x08 | .raster => 0x09 | .disp => 0x0A | .dptx => 0x0B | .ingest => 0x0C
  | .pwr => 0x0D | .sec => 0x0E | .welt => 0x0F | .perf => 0x10 | .fault => 0x11 | .flags => 0x12
  | .cdSys => 0x20 | .ne => 0x21 | .ve => 0x22 | .xp => 0x23 | .tmem => 0x24 | .post => 0x25
  | .mdSys => 0x30 | .me => 0x31

/-- The groups of inputs with a glitch filter each (R483, R485). -/
inductive FilterGroup where
  | sync | cool | wake | rst | hpd | gpio
  deriving DecidableEq, Repr

end Sys2Proof.Machine
end

