-- ==== Sys2Proof/Syntax.lean ====
section
/-!
DEFINITION. The commands of the device, one constructor for each row of the table of operations and events, with the operands that tell one
occurrence from another: numbers of units, jobs and registers, written values, and what the environment decides (a training that fails, a
sample, a pixel). The table gives no bits. A packet command is named by `uid`, the number under which it was accepted.
-/

-- One declaration at a time: the threads of a parallel elaboration take memory together.
set_option Elab.async false

namespace Sys2Proof

open Machine

/-- Where an ECC error lies (R84, R214, R227, R283, R284, R295): a word of memory at a device address, a row of a context slot's
accumulator memory, a chunk of bin memory, a word of the display line buffers, of command SRAM or of the matching engine's match
memory, or a transfer of a DRAM port. -/
inductive EccSite where
  | word (addr : Nat)
  | acc (engine slot row : Nat)
  | bin (chunk : Nat)
  | line (off : Nat)
  | store (off : Nat)
  | matchMem (off : Nat)
  | link (port : Nat)
  deriving DecidableEq, Repr

/-- An access of the host through a BAR to what is no register: a write or a read of `len` bytes through BAR4 (R327), or a read through
BAR2 (R328); what is written through BAR2 is an aperture slot (R329). -/
inductive BarAccess where
  | write (bytes : List Byte)
  | read (len : Nat)
  | readBar2 (len : Nat)
  deriving DecidableEq, Repr

/-- A command of the device. -/
inductive Instr where
  /-- APERTURE_SLOT_WRITE (R329). -/
  | apertureSlotWrite (apt slot off : Nat) (bytes : List Byte)
  /-- PACKET_ACCEPT (R330). -/
  | packetAccept (apt : Nat)
  /-- APT_HELD_TIMEOUT (R48). -/
  | aptHeldTimeout (apt : Nat)
  /-- COMMAND_ADMIT (R31). -/
  | commandAdmit (uid : Nat)
  /-- TILE_DISPATCH (R34). -/
  | tileDispatch (step tile : Nat)
  /-- CONTEXT_SWAP (R39). -/
  | contextSwap (engine job : Nat)
  /-- PREEMPT (R40). -/
  | preempt (engine ticks : Nat)
  /-- BLOCKED_SWAP (R43). -/
  | blockedSwap (engine : Nat)
  /-- ENGINE_GATE (R107). -/
  | engineGate (engine : Nat)
  /-- STEP_OPEN (R27). -/
  | stepOpen (uid : Nat)
  /-- FLAG_WAIT (R27). -/
  | flagWait (uid : Nat)
  /-- FLAG_WAIT_TIMEOUT (R27). -/
  | flagWaitTimeout (uid : Nat)
  /-- FLAG_ADVANCE (R27). -/
  | flagAdvance (uid : Nat)
  /-- NOP (R27). -/
  | nop (uid : Nat)
  /-- NE_GEMM (R94). -/
  | neGemm (uid : Nat)
  /-- FETCH_LANDED (R90). -/
  | fetchLanded (uid : Nat) (ok : Bool)
  /-- NE_ACC_CLEAR (R98). -/
  | neAccClear (uid : Nat)
  /-- NE_ACC_DRAIN (R98). -/
  | neAccDrain (uid : Nat)
  /-- NE_ACC_STORE (R98). -/
  | neAccStore (uid : Nat)
  /-- NE_ACC_LOAD (R98). -/
  | neAccLoad (uid : Nat)
  /-- VE_EWISE (R100). -/
  | veEwise (uid : Nat)
  /-- VE_FUNC (R100). -/
  | veFunc (uid : Nat)
  /-- VE_REDUCE (R100). -/
  | veReduce (uid : Nat)
  /-- VE_KSEL (R100). -/
  | veKsel (uid : Nat)
  /-- VE_DWCONV (R149). -/
  | veDwconv (uid : Nat)
  /-- VE_MERGE (R128). -/
  | veMerge (uid : Nat)
  /-- VE_OPTIM (R178). -/
  | veOptim (uid : Nat)
  /-- VE_XREDUCE (R306). -/
  | veXreduce (uid : Nat)
  /-- XP_EXPAND (R143). -/
  | xpExpand (uid : Nat)
  /-- XP_S2C (R147). -/
  | xpS2c (uid : Nat)
  /-- XP_C2S (R147). -/
  | xpC2s (uid : Nat)
  /-- XP_UPSAMPLE (R153). -/
  | xpUpsample (uid : Nat)
  /-- XP_COPY (R103). -/
  | xpCopy (uid : Nat)
  /-- POST_DECODE (R159). -/
  | postDecode (uid : Nat)
  /-- POST_SUPPRESS (R162). -/
  | postSuppress (uid : Nat)
  /-- DMA_COPY (R340). -/
  | dmaCopy (uid : Nat)
  /-- ME_FLOW (R207). -/
  | meFlow (uid : Nat)
  /-- ME_DISPARITY (R207). -/
  | meDisparity (uid : Nat)
  /-- ME_ROW_STAGE (R201). -/
  | meRowStage
  /-- STAGING_RETENTION_SPILL (R203). -/
  | stagingRetentionSpill (vslot : Nat)
  /-- ME_RING_TIMEOUT (R208). -/
  | meRingTimeout
  /-- ME_RING_STALL (R212). -/
  | meRingStall
  /-- RS_PASS_OPEN (R223). -/
  | rsPassOpen (uid : Nat)
  /-- RS_DRAW (R222). -/
  | rsDraw (uid : Nat)
  /-- GROW_TIMEOUT (R229). -/
  | growTimeout (uid : Nat)
  /-- RASTER_UNPARK (R228). -/
  | rasterUnpark (uid : Nat)
  /-- RS_PASS_CLOSE (R223). -/
  | rsPassClose (uid : Nat)
  /-- RS_WARP (R237). -/
  | rsWarp (uid : Nat)
  /-- RS_MASK (R239). -/
  | rsMask (uid : Nat)
  /-- RASTER_BIN_ITEM (R220). -/
  | rasterBinItem (core : Nat)
  /-- DISP_META (R268). -/
  | dispMeta (uid : Nat)
  /-- DISP_FRAME_WAIT (R268). -/
  | dispFrameWait (uid : Nat)
  /-- DISP_COMMIT (R269). -/
  | dispCommit (uid : Nat)
  /-- TILE_STORE_COPY (R269). -/
  | tileStoreCopy (slot : Nat)
  /-- HINT_PHASE (R408). -/
  | hintPhase (uid : Nat)
  /-- AUDIT_MEASURE (R312). -/
  | auditMeasure (uid : Nat)
  /-- AUDIT_QUOTE (R321). -/
  | auditQuote (uid : Nat)
  /-- UNIT_WATCHDOG_EXPIRY (R93). -/
  | unitWatchdogExpiry (uid : Nat)
  /-- BLOCK_FAULT (R433). -/
  | blockFault (blk : Blk) (inst : Nat) (watchdog : Bool) (running : Option Nat)
  /-- COMPLETION_RECORD_WRITE (R336). -/
  | completionRecordWrite (uid : Nat)
  /-- RING_FULL_TIMEOUT (R355). -/
  | ringFullTimeout (ring : Nat)
  /-- MSIX_RING_TIMER (R339). -/
  | msixRingTimer (ring : Nat)
  /-- CREDIT_WRITEBACK (R332). -/
  | creditWriteback (apt : Nat)
  /-- GUARD_FIRE (R45). -/
  | guardFire (step row : Nat)
  /-- ROW_DEADLINE (R47). -/
  | rowDeadline (step : Option Nat) (row : Nat)
  /-- CALENDAR_PUBLISH (R252). -/
  | calendarPublish
  /-- FRAME_BIND (R254). -/
  | frameBind (frame : Nat)
  /-- FRAME_SCAN_START (R262). -/
  | frameScanStart
  /-- LINE_SCAN (R260). -/
  | lineScan (output y buffered level : Nat)
  /-- SCAN_OUT_END (R254). -/
  | scanOutEnd
  /-- CAIRN_RECORD_WRITE (R317). -/
  | cairnRecordWrite
  /-- FRAME_SYNC_EDGE (R256). -/
  | frameSyncEdge
  /-- GENLOCK_HOLDOVER (R257). -/
  | genlockHoldover
  /-- CFG_TAKE_EFFECT (R271). -/
  | cfgTakeEffect
  /-- DISP_TIMING_STOP (R272). -/
  | dispTimingStop
  /-- HPD_CHANGE (R265). -/
  | hpdChange (output : Nat) (present : Bool)
  /-- DP_LINK_TRAIN_END (R265). -/
  | dpLinkTrainEnd (output : Nat) (ok : Bool)
  /-- AUX_REPLY (R266). -/
  | auxReply (output : Nat) (reply : Option (Nat × List Byte))
  /-- TURN (R136). -/
  | turn (job : Nat)
  /-- DP_FRAME_START (R347). -/
  | dpFrameStart (bt2020 full : Bool) (sdps : List (List Byte))
  /-- INGEST_FRAME_COMPLETE (R347). -/
  | ingestFrameComplete (pixels : List (Nat × Nat × Nat))
  /-- FLAG_ECC_POISON (R432). -/
  | flagEccPoison (flag : Nat)
  /-- WELT_CRC_ERROR (R292). -/
  | weltCrcError (mod : Nat) (ok : Bool) (held : Nat)
  /-- WELT_RETRAIN_END (R292). -/
  | weltRetrainEnd (mod : Nat) (up : Bool) (repaired : Nat) (exhausted : Bool)
  /-- DIE_LOSS (R437). -/
  | dieLoss (die : Nat) (unit : Option Nat)
  /-- HEARTBEAT_TIMEOUT (R436). -/
  | heartbeatTimeout (die since : Nat)
  /-- HUB_FW_WATCHDOG (R441). -/
  | hubFwWatchdog (core : Nat)
  /-- FATAL_FAULT (R442). -/
  | fatalFault (blk : Blk) (port : Nat)
  /-- POWER_ESTIMATE (R402). -/
  | powerEstimate (hub : List Nat) (md : Nat) (counts : List (List Nat))
  /-- VR_VOLTAGE_CONFIRMED (R407). -/
  | vrVoltageConfirmed (die : Nat)
  /-- CAP_UPDATE (R404). -/
  | capUpdate (samples : List (Option Nat))
  /-- THERMAL_TICK (R416). -/
  | thermalTick (temps : List Int)
  /-- CRITICAL_TRIP (R416). -/
  | criticalTrip
  /-- COOL_FLOW_OK_FALL (R418). -/
  | coolFlowOkFall
  /-- COOLANT_STOP (R418). -/
  | coolantStop
  /-- COOL_FLOW_OK_RISE (R419). -/
  | coolFlowOkRise
  /-- DIE_RESTART (R419). -/
  | dieRestart (thermal : Bool)
  /-- SCRUB_READ (R283). -/
  | scrubRead (site : EccSite) (kind : Nat)
  /-- DRAM_REFRESH (R296). -/
  | dramRefresh (channel : Nat) (urgent : Bool)
  /-- DRAM_TCR_READ (R296). -/
  | dramTcrRead (port rate : Nat)
  /-- DRAM_WCK_OSC_READ (R297). -/
  | dramWckOscRead (port : Nat)
  /-- USB4_LINK_DOWN (R353). -/
  | usb4LinkDown (whole : Bool)
  /-- USB4_LINK_UP (R354). -/
  | usb4LinkUp (training : Bool) (mode : Nat) (dp : Bool)
  /-- BAR4_ACCESS (R327). -/
  | bar4Access (off : Nat) (access : BarAccess)
  /-- REGISTER_WRITE (R361). -/
  | registerWrite (off size value : Nat)
  /-- LO_READ_LATCH (R362). -/
  | loReadLatch (off size : Nat)
  /-- IRQ_STAT_CLEAR (R364). -/
  | irqStatClear (blk : Blk) (inst mask : Nat)
  /-- ERR_VALID_CLEAR (R365). -/
  | errValidClear (blk : Blk) (inst : Nat)
  /-- BLOCK_ENABLE_SET (R367). -/
  | blockEnableSet (blk : Blk) (inst : Nat)
  /-- BLOCK_ENABLE_CLEAR (R367). -/
  | blockEnableClear (blk : Blk) (inst : Nat)
  /-- BLOCK_DRAIN_SET (R367). -/
  | blockDrainSet (blk : Blk) (inst : Nat)
  /-- BLOCK_DRAIN_END (R367). -/
  | blockDrainEnd (blk : Blk) (inst : Nat)
  /-- SOFT_RESET (R368). -/
  | softReset (blk : Blk) (inst : Nat)
  /-- COUNT_CLR (R50). -/
  | countClr (blk : Blk) (inst : Nat)
  /-- PREEMPT_MAX_CLR (R50). -/
  | preemptMaxClr
  /-- DIE_TEMP_MAX_CLR (R374). -/
  | dieTempMaxClr (die : Nat)
  /-- JOB_VALID_SET (R19). -/
  | jobValidSet (value : Nat)
  /-- JOB_VALID_CLEAR (R22). -/
  | jobValidClear (value : Nat)
  /-- CTX_SAVE (R110). -/
  | ctxSave (engine slot : Nat)
  /-- MSE_CLEAR_ALL (R110). -/
  | mseClearAll (engine : Nat)
  /-- MSE_CLEAR_SEL (R110). -/
  | mseClearSel (engine : Nat)
  /-- FLAG_GEN_WRITE (R288). -/
  | flagGenWrite (value : Nat)
  /-- TMEM_WINDOW_WRITE (R281). -/
  | tmemWindowWrite (die which value : Nat)
  /-- PART_CTRL_WRITE (R284). -/
  | partCtrlWrite (value : Nat)
  /-- BIN_CTRL_WRITE (R246). -/
  | binCtrlWrite (value : Nat)
  /-- GROW_PAGE_ADD (R229). -/
  | growPageAdd (value : Nat)
  /-- STAGE_CTRL_WRITE (R213). -/
  | stageCtrlWrite (value : Nat)
  /-- CFG_COMMIT (R271). -/
  | cfgCommit
  /-- DPTX_RETRAIN (R276). -/
  | dptxRetrain (output : Nat)
  /-- HDCP_REAUTH (R276). -/
  | hdcpReauth (output : Nat)
  /-- AUX_START (R266). -/
  | auxStart (output value : Nat)
  /-- WELT_RETRAIN (R302). -/
  | weltRetrain (mod : Nat)
  /-- APT_CTRL_WRITE (R334). -/
  | aptCtrlWrite (value : Nat)
  /-- APT_CONSUMED_WRITE (R334). -/
  | aptConsumedWrite (value : Nat)
  /-- RING_CONS_WRITE (R337). -/
  | ringConsWrite (value : Nat)
  /-- LINK_RESUME (R354). -/
  | linkResume
  /-- DMA_CHANNEL_DISABLE (R358). -/
  | dmaChannelDisable (channel : Nat)
  /-- HINT_PROD_WRITE (R351). -/
  | hintProdWrite (value : Nat)
  /-- BUF_CTRL_WRITE (R289). -/
  | bufCtrlWrite (value : Nat)
  /-- DEV_RESET (R443). -/
  | devReset (value : Nat)
  /-- DEVICE_RESET_ACT (R373). -/
  | deviceResetAct
  /-- STATE_CTRL_HOLD_SET (R381). -/
  | stateCtrlHoldSet (hold : Bool)
  /-- HOLD_RESUME (R381). -/
  | holdResume
  /-- UPD_READ_FLASH (R398). -/
  | updReadFlash (len : Nat) (fail : Bool)
  /-- UPD_ERASE (R398). -/
  | updErase (len : Nat) (fail : Bool)
  /-- UPD_PROGRAM (R398). -/
  | updProgram (len : Nat) (fail : Bool)
  /-- UPD_READ_ID (R398). -/
  | updReadId (len : Nat)
  /-- UPD_RAISE_SVN (R398). -/
  | updRaiseSvn
  /-- UPD_SET_CUST_KEY (R398). -/
  | updSetCustKey
  /-- CAIRN_ENABLE (R319). -/
  | cairnEnable (value : Nat)
  /-- DISAGREE_CLEAR (R413). -/
  | disagreeClear
  /-- SHARE_ORDER_WRITE (R425). -/
  | shareOrderWrite (value : Nat)
  /-- SLEEP (R423). -/
  | sleep (value : Nat)
  /-- RETIRE (R436). -/
  | retire (value : Nat)
  /-- CNT_CFG_WRITE (R449). -/
  | cntCfgWrite (die value : Nat)
  /-- CNT_CLR_ALL (R466). -/
  | cntClrAll (die : Nat)
  /-- CNT_CLR_SEL (R466). -/
  | cntClrSel (die : Nat)
  /-- SNAP_NOW (R454). -/
  | snapNow (die : Nat)
  /-- SNAP_ARM (R454). -/
  | snapArm (die : Nat)
  /-- SNAP_ARM_ALL (R455). -/
  | snapArmAll
  /-- SNAP_FIRE (R454). -/
  | snapFire (die : Nat)
  /-- TRACE_ENABLE (R459). -/
  | traceEnable (value : Nat)
  /-- DBG_CTRL_CLOSE (R461). -/
  | dbgCtrlClose
  /-- DBG_CTRL_LOCKOUT (R461). -/
  | dbgCtrlLockout
  /-- JTAG_BYPASS (R460). -/
  | jtagBypass
  /-- JTAG_IDCODE (R460). -/
  | jtagIdcode
  /-- JTAG_SAMPLE_PRELOAD (R460). -/
  | jtagSamplePreload (data : List Byte)
  /-- JTAG_EXTEST (R460). -/
  | jtagExtest (data : List Byte)
  /-- DBG_CHALLENGE (R462). -/
  | dbgChallenge
  /-- DBG_TOKEN (R461). -/
  | dbgToken (token : List Byte)
  /-- DBG_CLOSE (R461). -/
  | dbgClose
  /-- DBG_MEM (R460). -/
  | dbgMem (device : Bool) (addr : Nat) (value : Option Nat)
  /-- DBG_CORE (R463). -/
  | dbgCore (core : Nat) (op : CoreOp)
  /-- BW_BLOCK_WRITE (R481). -/
  | bwBlockWrite (code value : Nat) (pecOk : Bool)
  /-- BW_STATUS_READ (R481). -/
  | bwStatusRead (code gpio : Nat)
  /-- RESET_ASSERT (R475). -/
  | resetAssert (byPwrGood : Bool)
  /-- COLD_BOOT (R389). -/
  | coldBoot (ticks : Nat) (dramTemp : Int) (badPorts ucFail badDies : Nat)
  /-- WAKE (R390). -/
  | wake (ticks : Nat) (mismatch : Bool) (dramTemp : Int) (badPorts ucFail badDies : Nat)
  /-- WAKE_N_FALL (R424). -/
  | wakeNFall
  /-- USB4_WAKE_SIGNAL (R424). -/
  | usb4WakeSignal
  /-- ALARM (R424). -/
  | alarm
  /-- SUPPLY_LOSS (R380). -/
  | supplyLoss (baseCamp : Bool)
  /-- RING_CTRL_WRITE (R336). -/
  | ringCtrlWrite (value : Nat)
  /-- MSIX_VECTOR_UNMASK (R339). -/
  | msixVectorUnmask (vector : Option Nat)
  /-- STREAM_LOCK (R345). -/
  | streamLock (enc bpc w h rate : Nat) (progressive prot ctype : Bool)
  /-- STREAM_LOST (R359). -/
  | streamLost (tunnel : Bool)
  /-- HDCP_AUTH_END (R267). -/
  | hdcpAuthEnd (output result : Nat) (ids : List Nat)
  /-- DP_LINK_FAIL (R265). -/
  | dpLinkFail (output : Nat)
  /-- XTAL32_START (R480). -/
  | xtal32Start
  /-- PWR_GOOD_RISE (R475). -/
  | pwrGoodRise
  /-- BLOCK_DRAIN_CLEAR (R367). -/
  | blockDrainClear (blk : Blk) (inst : Nat)
  /-- COUNTER_SATURATE (R453). -/
  | counterSaturate (die page k : Nat)
  deriving DecidableEq, Repr

end Sys2Proof
end

