-- ==== Sys2Proof/WellFormed.lean ====
section
/-!
DEFINITION. Which commands can arise: operands within the widths and counts of what they name (R1, R10, R326, R361). A meaning is total all the
same; a command that names a unit past these bounds changes nothing of that unit.
-/

-- One declaration at a time: the threads of a parallel elaboration take memory together.
set_option Elab.async false

namespace Sys2Proof

open Machine

/-- The number of a unit, register or field value within its bound. -/
def unitOk (bound n : Nat) : Bool := n < bound

/-- A 32-bit word. -/
def wordOk (v : Nat) : Bool := v < 2 ^ 32

/-- A device address, or an offset in a BAR (R277, R326). -/
def addressOk (a : Nat) : Bool := a < 2 ^ 48

/-- The DIE code of a PERF page (R363): a compute die, the hub, or the matching die. -/
def dieCodeOk (d : Nat) : Bool := d < 8 || d == 0x40 || d == 0x80

/-- A page that the page index lists (R375, R376). -/
def pageOk (b : Blk) (i : Nat) : Bool :=
  match b with
  | .memc | .cdSys | .tmem | .post => i < 8
  | .dptx => i < 4
  | .welt => i < 25
  | .ne | .ve | .xp => i < 16
  | .perf => dieCodeOk i
  | .hubSys | .basecamp | .hif | .cfe | .sched | .dma | .hsram | .raster | .disp | .ingest | .pwr | .sec | .fault | .flags | .mdSys | .me =>
    i == 0

/-- A place that can hold an ECC error. -/
def siteOk : EccSite → Bool
  | .word a => addressOk a
  | .acc g k r => unitOk 16 g && unitOk 4 k && unitOk 512 r
  | .bin c => unitOk 65536 c
  | .line off => unitOk (2 ^ 22) off
  | .store off => unitOk (2 ^ 21) off
  | .matchMem off => unitOk (2 ^ 32) off
  | .link p => unitOk 8 p

/-- A command whose operands are in range. -/
def Instr.wellFormed (c : Instr) : Bool :=
  match c with
  | .apertureSlotWrite apt slot off bytes => unitOk 16 apt && unitOk 1024 slot && unitOk 64 off && (off + bytes.length ≤ 64)
  | .packetAccept apt => unitOk 16 apt
  | .aptHeldTimeout apt => unitOk 16 apt
  | .commandAdmit _ => true
  | .tileDispatch _ _ => true
  | .contextSwap engine job => unitOk 16 engine && unitOk 64 job
  | .preempt engine _ => unitOk 16 engine
  | .blockedSwap engine => unitOk 16 engine
  | .engineGate engine => unitOk 16 engine
  | .stepOpen _ => true
  | .flagWait _ => true
  | .flagWaitTimeout _ => true
  | .flagAdvance _ => true
  | .nop _ => true
  | .neGemm _ => true
  | .fetchLanded _ _ => true
  | .neAccClear _ => true
  | .neAccDrain _ => true
  | .neAccStore _ => true
  | .neAccLoad _ => true
  | .veEwise _ => true
  | .veFunc _ => true
  | .veReduce _ => true
  | .veKsel _ => true
  | .veDwconv _ => true
  | .veMerge _ => true
  | .veOptim _ => true
  | .veXreduce _ => true
  | .xpExpand _ => true
  | .xpS2c _ => true
  | .xpC2s _ => true
  | .xpUpsample _ => true
  | .xpCopy _ => true
  | .postDecode _ => true
  | .postSuppress _ => true
  | .dmaCopy _ => true
  | .meFlow _ => true
  | .meDisparity _ => true
  | .meRowStage => true
  | .stagingRetentionSpill vslot => unitOk 1024 vslot
  | .meRingTimeout => true
  | .meRingStall => true
  | .rsPassOpen _ => true
  | .rsDraw _ => true
  | .growTimeout _ => true
  | .rasterUnpark _ => true
  | .rsPassClose _ => true
  | .rsWarp _ => true
  | .rsMask _ => true
  | .rasterBinItem core => unitOk 8 core
  | .dispMeta _ => true
  | .dispFrameWait _ => true
  | .dispCommit _ => true
  | .tileStoreCopy slot => unitOk 256 slot
  | .hintPhase _ => true
  | .auditMeasure _ => true
  | .auditQuote _ => true
  | .unitWatchdogExpiry _ => true
  | .blockFault blk inst _ _ => pageOk blk inst
  | .completionRecordWrite _ => true
  | .ringFullTimeout ring => unitOk 16 ring
  | .msixRingTimer ring => unitOk 16 ring
  | .creditWriteback apt => unitOk 16 apt
  | .guardFire _ _ => true
  | .rowDeadline _ _ => true
  | .calendarPublish => true
  | .frameBind _ => true
  | .frameScanStart => true
  | .lineScan output y _ _ => unitOk 4 output && unitOk 4320 y
  | .scanOutEnd => true
  | .cairnRecordWrite => true
  | .frameSyncEdge => true
  | .genlockHoldover => true
  | .cfgTakeEffect => true
  | .dispTimingStop => true
  | .hpdChange output _ => unitOk 4 output
  | .dpLinkTrainEnd output _ => unitOk 4 output
  | .auxReply output _ => unitOk 4 output
  | .turn job => unitOk 64 job
  | .dpFrameStart _ _ _ => true
  | .ingestFrameComplete _ => true
  | .flagEccPoison flag => unitOk 4096 flag
  | .weltCrcError mod _ _ => unitOk 25 mod
  | .weltRetrainEnd mod _ repaired _ => unitOk 25 mod && unitOk 256 repaired
  | .dieLoss die unit => unitOk 9 die && unit.all (unitOk (if die < 8 then 2 else 1))
  | .heartbeatTimeout die _ => unitOk 9 die
  | .hubFwWatchdog core => core < 2
  | .fatalFault _ port => unitOk 8 port
  | .powerEstimate _ _ _ => true
  | .vrVoltageConfirmed die => unitOk 9 die
  | .capUpdate _ => true
  | .thermalTick _ => true
  | .criticalTrip => true
  | .coolFlowOkFall => true
  | .coolantStop => true
  | .coolFlowOkRise => true
  | .dieRestart _ => true
  | .scrubRead site kind => siteOk site && unitOk 3 kind
  | .dramRefresh channel _ => unitOk 16 channel
  | .dramTcrRead port rate => unitOk 8 port && unitOk 3 rate
  | .dramWckOscRead port => unitOk 8 port
  | .usb4LinkDown _ => true
  | .usb4LinkUp _ mode _ => unitOk 3 mode
  | .bar4Access off _ => addressOk off
  | .registerWrite off size value => unitOk 0x4000000 off && (size ≤ 8) && (value < 2 ^ (8 * size))
  | .loReadLatch off size => unitOk 0x4000000 off && (size ≤ 8)
  | .irqStatClear blk inst mask => pageOk blk inst && wordOk mask
  | .errValidClear blk inst => pageOk blk inst
  | .blockEnableSet blk inst => pageOk blk inst
  | .blockEnableClear blk inst => pageOk blk inst
  | .blockDrainSet blk inst => pageOk blk inst
  | .blockDrainEnd blk inst => pageOk blk inst
  | .softReset blk inst => pageOk blk inst
  | .countClr blk inst => pageOk blk inst
  | .preemptMaxClr => true
  | .dieTempMaxClr die => unitOk 9 die
  | .jobValidSet value => wordOk value
  | .jobValidClear value => wordOk value
  | .ctxSave engine slot => unitOk 16 engine && unitOk 4 slot
  | .mseClearAll engine => unitOk 16 engine
  | .mseClearSel engine => unitOk 16 engine
  | .flagGenWrite value => wordOk value
  | .tmemWindowWrite die which value => unitOk 8 die && unitOk 3 which && wordOk value
  | .partCtrlWrite value => wordOk value
  | .binCtrlWrite value => wordOk value
  | .growPageAdd value => wordOk value
  | .stageCtrlWrite value => wordOk value
  | .cfgCommit => true
  | .dptxRetrain output => unitOk 4 output
  | .hdcpReauth output => unitOk 4 output
  | .auxStart output value => unitOk 4 output && wordOk value
  | .weltRetrain mod => unitOk 25 mod
  | .aptCtrlWrite value => wordOk value
  | .aptConsumedWrite value => wordOk value
  | .ringConsWrite value => wordOk value
  | .linkResume => true
  | .dmaChannelDisable channel => unitOk 8 channel
  | .hintProdWrite value => wordOk value
  | .bufCtrlWrite value => wordOk value
  | .devReset value => wordOk value
  | .deviceResetAct => true
  | .stateCtrlHoldSet _ => true
  | .holdResume => true
  | .updReadFlash len _ => unitOk 64 len
  | .updErase len _ => unitOk 64 len
  | .updProgram len _ => unitOk 64 len
  | .updReadId len => unitOk 64 len
  | .updRaiseSvn => true
  | .updSetCustKey => true
  | .cairnEnable value => wordOk value
  | .disagreeClear => true
  | .shareOrderWrite value => wordOk value
  | .sleep value => wordOk value
  | .retire value => wordOk value
  | .cntCfgWrite die value => dieCodeOk die && wordOk value
  | .cntClrAll die => dieCodeOk die
  | .cntClrSel die => dieCodeOk die
  | .snapNow die => dieCodeOk die
  | .snapArm die => dieCodeOk die
  | .snapArmAll => true
  | .snapFire die => dieCodeOk die
  | .traceEnable value => wordOk value
  | .dbgCtrlClose => true
  | .dbgCtrlLockout => true
  | .jtagBypass => true
  | .jtagIdcode => true
  | .jtagSamplePreload _ => true
  | .jtagExtest _ => true
  | .dbgChallenge => true
  | .dbgToken token => token.length == 1024
  | .dbgClose => true
  | .dbgMem _ addr value => addressOk addr && value.all wordOk
  | .dbgCore core _ => core < 2
  | .bwBlockWrite code value _ => unitOk 256 code && wordOk value
  | .bwStatusRead code gpio => unitOk 256 code && unitOk 0x10000 gpio
  | .resetAssert _ => true
  | .coldBoot _ _ _ _ _ => true
  | .wake _ _ _ _ _ _ => true
  | .wakeNFall => true
  | .usb4WakeSignal => true
  | .alarm => true
  | .supplyLoss _ => true
  | .ringCtrlWrite value => wordOk value
  | .msixVectorUnmask vector => vector.all (unitOk 32)
  | .streamLock _ _ _ _ _ _ _ _ => true
  | .streamLost _ => true
  | .hdcpAuthEnd output result _ => unitOk 4 output && unitOk 4 result
  | .dpLinkFail output => unitOk 4 output
  | .xtal32Start => true
  | .pwrGoodRise => true
  | .blockDrainClear blk inst => pageOk blk inst
  | .counterSaturate die page k => dieCodeOk die && unitOk 64 page && unitOk 8 k

end Sys2Proof
end

