-- ==== Sys2Proof/Machine/RegTable.lean ====
section
/-!
DEFINITION. The block registers of every page, offset by offset: which bits software can write and what
they hold at reset in the order H8A, H4A, H4, H2 (the register tables of the chapters). What a write or a
read does beyond that is in the block's own file and in Registers.lean.
-/

-- One declaration at a time: the threads of a parallel elaboration take memory together.
set_option Elab.async false

namespace Sys2Proof.Machine

/-- One register of a page: its offset, its RW bits, and its reset values. A single reset value is that of
every variant. -/
structure RegDef where
  off : Nat
  rw : Nat
  reset : List Nat
  deriving DecidableEq, Repr

/-- The registers of the SCHED page. -/
def schedRegs : List RegDef :=
  [⟨0x040, 0x0000ffff, [0x12c]⟩, -- GUARD_CTRL
   ⟨0x044, 0x0000003f, [0x14]⟩, -- SWAP_CTRL
   ⟨0x048, 0x0000ffff, [0x64]⟩, -- WAIT_TIMEOUT
   ⟨0x04c, 0x0000003f, [0x0]⟩, -- JOB_SEL
   ⟨0x050, 0xf000ffff, [0x20000000]⟩, -- JOB_CFG
   ⟨0x054, 0x0000ffff, [0x0]⟩, -- JOB_APT
   ⟨0x058, 0x00000000, [0x0]⟩, -- JOB_STATE
   ⟨0x05c, 0x00000000, [0x0]⟩, -- JOB_RESIDENT
   ⟨0x060, 0x00000000, [0x0]⟩, -- LATE_TILES
   ⟨0x064, 0x00000000, [0x0]⟩, -- GUARD_EVENTS
   ⟨0x068, 0x00000000, [0x0]⟩, -- BLOCK_SWAPS
   ⟨0x06c, 0x00000000, [0x0]⟩, -- PREEMPT_MAX
   ⟨0x070, 0x00000000, [0x3800]⟩, -- PENDING_FREE
   ⟨0x074, 0x00000000, [0x0]⟩, -- COUNT_CLR
   ⟨0x078, 0x80000f3f, [0x200]⟩] -- JOB_LAND

/-- The registers of the NE page. -/
def neRegs : List RegDef :=
  [⟨0x040, 0x00000000, [0x0]⟩, -- NE_STATUS
   ⟨0x044, 0x0000ffff, [0x14]⟩, -- WDOG_CTRL
   ⟨0x048, 0x00000003, [0x0]⟩, -- CTX_SAVE_CTRL
   ⟨0x04c, 0x00000000, [0x0]⟩, -- CTX_SLOT_INFO
   ⟨0x050, 0x0000003f, [0x0]⟩, -- SAVE_SEL
   ⟨0x054, 0x8ffff000, [0x0]⟩, -- SAVE_BASE
   ⟨0x058, 0x0000ffff, [0x32]⟩, -- GATE_CTRL
   ⟨0x060, 0x00000007, [0x0]⟩, -- MSE_SEL
   ⟨0x064, 0x00000000, [0x0]⟩, -- MSE_INFO
   ⟨0x068, 0x00000000, [0x0]⟩, -- MSE_COUNT
   ⟨0x06c, 0x00000000, [0x0]⟩, -- MSE_CLIPS
   ⟨0x070, 0x00000000, [0x0]⟩, -- MSE_SSE_LO
   ⟨0x074, 0x00000000, [0x0]⟩, -- MSE_SSE_HI
   ⟨0x078, 0x00000000, [0x0]⟩, -- MSE_CLR
   ⟨0x07c, 0x00000000, [0x0]⟩] -- ECC_CORR_COUNT

/-- The registers of the VE page. -/
def veRegs : List RegDef :=
  [⟨0x040, 0x00000000, [0x0]⟩, -- VE_STATUS
   ⟨0x044, 0x0000ffff, [0x14]⟩, -- WDOG_CTRL
   ⟨0x048, 0x00000000, [0x0]⟩, -- ECC_CORR_COUNT
   ⟨0x04c, 0x00000000, [0x0]⟩] -- XRED_COUNT

/-- The registers of the XP page. -/
def xpRegs : List RegDef :=
  [⟨0x040, 0x00000000, [0x0]⟩, -- XP_STATUS
   ⟨0x044, 0x0000ffff, [0x14]⟩, -- WDOG_CTRL
   ⟨0x048, 0x00000000, [0x0]⟩] -- ECC_CORR_COUNT

/-- The registers of the POST page. -/
def postRegs : List RegDef :=
  [⟨0x040, 0x00000000, [0x0]⟩, -- POST_STATUS
   ⟨0x044, 0x0000ffff, [0x32]⟩, -- WDOG_CTRL
   ⟨0x048, 0x00000000, [0x0]⟩, -- CAND_IN
   ⟨0x04c, 0x00000000, [0x0]⟩, -- BOXES_OUT
   ⟨0x050, 0x00000000, [0x0]⟩, -- TRUNC_COUNT
   ⟨0x054, 0x00000000, [0x0]⟩, -- ECC_CORR_COUNT
   ⟨0x058, 0x00000000, [0x0]⟩] -- COUNT_CLR

/-- The registers of the ME page. -/
def meRegs : List RegDef :=
  [⟨0x040, 0x00000000, [0x0]⟩, -- ME_STATUS
   ⟨0x044, 0x0000ffff, [0x14]⟩, -- WDOG_CTRL
   ⟨0x048, 0xffffffff, [0x800]⟩, -- ME_TEX_THRESH
   ⟨0x04c, 0x8fffff0f, [0x803d03]⟩, -- STAGE_CTRL
   ⟨0x050, 0x00000000, [0x430043]⟩, -- STAGE_INFO
   ⟨0x054, 0xffff0000, [0x0]⟩, -- SPILL_BASE_LO
   ⟨0x058, 0x0000ffff, [0x0]⟩, -- SPILL_BASE_HI
   ⟨0x05c, 0x00000000, [0x0]⟩, -- STAGE_WIN_LO
   ⟨0x060, 0x00000000, [0x100]⟩, -- STAGE_WIN_HI
   ⟨0x064, 0x00000000, [0x0]⟩, -- PAIRS
   ⟨0x068, 0x00000000, [0x0]⟩, -- SPILL_COUNT
   ⟨0x06c, 0x00000000, [0x0]⟩, -- STALL_US
   ⟨0x070, 0x00000000, [0x0]⟩, -- ECC_CORR_COUNT
   ⟨0x074, 0x00000000, [0x0]⟩] -- COUNT_CLR

/-- The registers of the RASTER page. -/
def rasterRegs : List RegDef :=
  [⟨0x040, 0x00000000, [0x0]⟩, -- RASTER_STATUS
   ⟨0x044, 0x0000ffff, [0x64]⟩, -- WDOG_CTRL
   ⟨0x048, 0x0fff3f01, [0x2001000]⟩, -- BIN_CTRL
   ⟨0x04c, 0x0000ffff, [0xc8]⟩, -- GROW_TIMEOUT
   ⟨0x050, 0x00000000, [0x10001000]⟩, -- BIN_INFO
   ⟨0x054, 0xffff0000, [0x0]⟩, -- GROW_PAGE_LO
   ⟨0x058, 0x00000000, [0x0]⟩, -- GROW_PAGE_HI
   ⟨0x05c, 0x00000000, [0x0]⟩, -- GROW_INFO
   ⟨0x060, 0x00000000, [0x0]⟩, -- PRIMS
   ⟨0x064, 0x00000000, [0x0]⟩, -- FLUSHES
   ⟨0x068, 0x00000000, [0x0]⟩, -- GROW_TIMEOUTS
   ⟨0x06c, 0x00000000, [0x0]⟩, -- PRIM_SKIPS
   ⟨0x070, 0x00000000, [0x0]⟩, -- MASK_SKIPS
   ⟨0x074, 0x00000000, [0x0]⟩, -- ECC_CORR_COUNT
   ⟨0x078, 0x00000000, [0x0]⟩] -- COUNT_CLR

/-- The registers of the DISP page. -/
def dispRegs : List RegDef :=
  [⟨0x040, 0x00000000, [0x0]⟩, -- DISP_STATUS
   ⟨0x044, 0x00000000, [0x0]⟩, -- OUT_FRAME_LO
   ⟨0x048, 0x00000000, [0x0]⟩, -- OUT_FRAME_HI
   ⟨0x04c, 0xffffffff, [0xf000870]⟩, -- CANVAS_SIZE
   ⟨0x050, 0x00007f17, [0x3]⟩, -- CANVAS_CTRL
   ⟨0x054, 0xffff0000, [0x0]⟩, -- CANVAS_BASE_LO
   ⟨0x058, 0x0000ffff, [0x0]⟩, -- CANVAS_BASE_HI
   ⟨0x05c, 0xffffffff, [0x3c00]⟩, -- CANVAS_PITCH
   ⟨0x060, 0xffffffff, [0x2000000]⟩, -- BUF_STRIDE
   ⟨0x064, 0xffff0000, [0x0]⟩, -- TILE_STATE_BASE_LO
   ⟨0x068, 0x0000ffff, [0x0]⟩, -- TILE_STATE_BASE_HI
   ⟨0x06c, 0xffffffff, [0x11300f00]⟩, -- TIMING_H
   ⟨0x070, 0xffffffff, [0x8ca0870]⟩, -- TIMING_V
   ⟨0x074, 0xffff7fff, [0x81800058]⟩, -- TIMING_HS
   ⟨0x078, 0xffff7fff, [0x8052000a]⟩, -- TIMING_VS
   ⟨0x07c, 0xffffffff, [0x91050]⟩, -- PCLK_KHZ
   ⟨0x080, 0xc0ffffff, [0x120000]⟩, -- SYNC_CTRL
   ⟨0x084, 0x0000000f, [0x6]⟩, -- FETCH_CTRL
   ⟨0x088, 0x00000001, [0x0]⟩, -- HOLD_CTRL
   ⟨0x08c, 0x00000003, [0x1]⟩] ++ -- META_CTRL
  [⟨0x090, 0x3fff3fff, [0x0]⟩, -- WIN_ORIGIN0
   ⟨0x094, 0x3fff3fff, [0x0]⟩, -- WIN_ORIGIN1
   ⟨0x098, 0x3fff3fff, [0x0]⟩, -- WIN_ORIGIN2
   ⟨0x09c, 0x3fff3fff, [0x0]⟩, -- WIN_ORIGIN3
   ⟨0x0a0, 0x00000003, [0x0]⟩, -- CAL_SEL
   ⟨0x0a4, 0x00000000, [0x0]⟩, -- CAL_FRAME_LO
   ⟨0x0a8, 0x00000000, [0x0]⟩, -- CAL_FRAME_HI
   ⟨0x0ac, 0x00000000, [0x0]⟩, -- CAL_DEADLINE_LO
   ⟨0x0b0, 0x00000000, [0x0]⟩, -- CAL_DEADLINE_HI
   ⟨0x0b4, 0x00000000, [0x0]⟩, -- CAL_ROW_PITCH
   ⟨0x0b8, 0x00000000, [0x0]⟩, -- CFG_COMMIT
   ⟨0x0bc, 0x00000000, [0x0]⟩, -- FRAMES
   ⟨0x0c0, 0x00000000, [0x0]⟩, -- STANDIN_SHIFT
   ⟨0x0c4, 0x00000000, [0x0]⟩, -- STANDIN_STILL
   ⟨0x0c8, 0x00000000, [0x0]⟩, -- STANDIN_SOURCE
   ⟨0x0cc, 0x00000000, [0x0]⟩, -- STANDIN_BLACK
   ⟨0x0d0, 0x00000000, [0x0]⟩, -- URGENT_COUNT
   ⟨0x0d4, 0x00000000, [0x0]⟩, -- ECC_CORR_COUNT
   ⟨0x0d8, 0x00000000, [0x0]⟩, -- COUNT_CLR
   ⟨0x0dc, 0xffff0000, [0x0]⟩] ++ -- TILE_STORE_BASE_LO
  [⟨0x0e0, 0x0000ffff, [0x0]⟩, -- TILE_STORE_BASE_HI
   ⟨0x0e4, 0x000001ff, [0x40]⟩] -- TILE_STORE_CTRL

/-- The registers of the DPTX page. -/
def dptxRegs : List RegDef :=
  [⟨0x040, 0x00000000, [0x0]⟩, -- LINK_STATUS
   ⟨0x044, 0x000000fc, [0xd4]⟩, -- LINK_CTRL
   ⟨0x048, 0x0000ff3f, [0xa]⟩, -- PIX_FMT
   ⟨0x04c, 0x0000000f, [0x0]⟩, -- CSC_SEL
   ⟨0x050, 0xffffffff, [0x0]⟩, -- CSC_DATA
   ⟨0x054, 0xbfffffff, [0x800806c]⟩, -- DSC_CTRL
   ⟨0x058, 0x00000001, [0x0]⟩, -- HDCP_CTRL
   ⟨0x05c, 0x0fffffff, [0x0]⟩, -- AUX_CTRL
   ⟨0x060, 0xffffffff, [0x0]⟩, -- AUX_DATA0
   ⟨0x064, 0xffffffff, [0x0]⟩, -- AUX_DATA1
   ⟨0x068, 0xffffffff, [0x0]⟩, -- AUX_DATA2
   ⟨0x06c, 0xffffffff, [0x0]⟩, -- AUX_DATA3
   ⟨0x070, 0x00000000, [0x0]⟩, -- UNDERRUNS
   ⟨0x074, 0x00000000, [0x0]⟩, -- LINK_LOSSES
   ⟨0x078, 0x00000000, [0x0]⟩] -- COUNT_CLR

/-- The registers of the TMEM page. -/
def tmemRegs : List RegDef :=
  [⟨0x040, 0x0000003f, [0x0]⟩, -- JOB_SEL
   ⟨0x044, 0x801fffff, [0x0]⟩, -- EWIN0
   ⟨0x048, 0x801fffff, [0x0]⟩, -- EWIN1
   ⟨0x04c, 0x801fffff, [0x0]⟩, -- DWIN
   ⟨0x050, 0x8000ffff, [0x80000018]⟩, -- SCRUB_CTRL
   ⟨0x054, 0x00000000, [0x0]⟩, -- ECC_CORR_COUNT
   ⟨0x058, 0x00000000, [0x0]⟩] -- ECC_UNCORR_COUNT

/-- The registers of the HSRAM page. -/
def hsramRegs : List RegDef :=
  [⟨0x040, 0x00001f00, [0x1a001000, 0x1a001000, 0x1a001000, 0x2a000000]⟩, -- PART_CTRL
   ⟨0x044, 0x00000000, [0x0]⟩, -- ECC_CORR_COUNT
   ⟨0x048, 0x00000000, [0x0]⟩] -- ECC_UNCORR_COUNT

/-- The registers of the FLAGS page. -/
def flagsRegs : List RegDef :=
  [⟨0x040, 0x00000fff, [0x0]⟩, -- FLAG_SEL
   ⟨0x044, 0xffffffff, [0x0]⟩, -- FLAG_GEN
   ⟨0x048, 0x00000000, [0x0]⟩] -- FLAG_INFO

/-- The registers of the WELT page. -/
def weltRegs : List RegDef :=
  [⟨0x040, 0x00000000, [0x0]⟩, -- LINK_STATUS
   ⟨0x044, 0x00000000, [0x0]⟩, -- LINK_CTRL
   ⟨0x048, 0x000000ff, [0x8]⟩, -- REPLAY_CTRL
   ⟨0x04c, 0x00000000, [0x0]⟩, -- CRC_ERRS
   ⟨0x050, 0x00000000, [0x0]⟩, -- REPLAYS
   ⟨0x054, 0x00000000, [0x0]⟩, -- RETRAINS
   ⟨0x058, 0x00000000, [0x0]⟩] -- FLITS_HELD_MAX

/-- The registers of the MEMC page. -/
def memcRegs : List RegDef :=
  [⟨0x040, 0x00000000, [0x0]⟩, -- MEMC_STATUS
   ⟨0x044, 0x80000007, [0x80000001]⟩, -- IECC_CTRL
   ⟨0x048, 0x000000ff, [0x5]⟩, -- ARB_CTRL
   ⟨0x04c, 0x80000000, [0x80000000]⟩, -- REFRESH
   ⟨0x050, 0x00000000, [0x0]⟩, -- ECC_CORR_COUNT
   ⟨0x054, 0x00000000, [0x0]⟩, -- ECC_UNCORR_COUNT
   ⟨0x058, 0x00000000, [0x0]⟩, -- LINK_ECC_COUNT
   ⟨0x05c, 0x00000000, [0x0]⟩] -- URGENT_MAX_NS

/-- The registers of the SEC page. -/
def secRegs : List RegDef :=
  [⟨0x040, 0x00000000, [0x0]⟩, -- BOOT_STATUS
   ⟨0x044, 0x00000000, [0x0]⟩, -- RECOVERY_CAUSE
   ⟨0x048, 0x00000000, [0x0]⟩, -- INSOLE_STATUS
   ⟨0x04c, 0x00000000, [0x0]⟩, -- HUB_FW_VER
   ⟨0x050, 0x00000000, [0x0]⟩, -- MANIFEST_VER
   ⟨0x054, 0x00000000, [0x0]⟩, -- INSOLE_VER
   ⟨0x058, 0x00000000, [0x0]⟩, -- NV_STATUS
   ⟨0x05c, 0x00000005, [0x0]⟩, -- STATE_CTRL
   ⟨0x060, 0x00000000, [0x0]⟩, -- HOLD_CAUSE
   ⟨0x064, 0x0000003f, [0x20]⟩, -- UPD_CMD
   ⟨0x068, 0xffffffff, [0x0]⟩, -- UPD_ADDR
   ⟨0x06c, 0x00000000, [0x0]⟩, -- BOOT_COUNT
   ⟨0x070, 0x00000000, [0x0]⟩, -- FLASH_ERRS
   ⟨0x074, 0x00000000, [0x0]⟩, -- COUNT_CLR
   ⟨0x100, 0xe0000000, [0x0]⟩, -- AUDIT_CTRL
   ⟨0x104, 0xffff0000, [0x0]⟩, -- CAIRN_BASE_LO
   ⟨0x108, 0x0000ffff, [0x0]⟩, -- CAIRN_BASE_HI
   ⟨0x10c, 0x0000000f, [0x8]⟩, -- CAIRN_LEN
   ⟨0x110, 0xffffffff, [0x0]⟩, -- CAIRN_CONS
   ⟨0x114, 0x00000000, [0x0]⟩] ++ -- CAIRN_PROD
  [⟨0x118, 0x00000000, [0x0]⟩, -- CAIRN_DROPS
   ⟨0x11c, 0xffff0000, [0x0]⟩, -- TILE_DIG_BASE_LO
   ⟨0x120, 0x0000ffff, [0x0]⟩] -- TILE_DIG_BASE_HI

/-- The registers of the HIF page. -/
def hifRegs : List RegDef :=
  [⟨0x040, 0x00000000, [0x0]⟩, -- LINK_STATUS
   ⟨0x044, 0x00000003, [0x2]⟩, -- LINK_CTRL
   ⟨0x048, 0xffff0000, [0x0]⟩, -- BACKLOG_LO
   ⟨0x04c, 0x0000ffff, [0x0]⟩, -- BACKLOG_HI
   ⟨0x050, 0x00000000, [0x0]⟩, -- BACKLOG_INFO
   ⟨0x054, 0x00000000, [0x0]⟩, -- LINK_LOSSES
   ⟨0x058, 0x00000000, [0x0]⟩, -- DOWN_US
   ⟨0x05c, 0x00000000, [0x0]⟩] -- COUNT_CLR

/-- The registers of the CFE page. -/
def cfeRegs : List RegDef :=
  [⟨0x040, 0x0000000f, [0x0]⟩, -- APT_SEL
   ⟨0x044, 0x800f0000, [0x0]⟩, -- APT_CTRL
   ⟨0x048, 0xffffffff, [0x0]⟩, -- APT_CONSUMED
   ⟨0x04c, 0xfffffffd, [0x0]⟩, -- APT_CRED_LO
   ⟨0x050, 0xffffffff, [0x0]⟩, -- APT_CRED_HI
   ⟨0x054, 0xfffff000, [0x0]⟩, -- RING_BASE_LO
   ⟨0x058, 0xffffffff, [0x0]⟩, -- RING_BASE_HI
   ⟨0x05c, 0x801fffff, [0xa0a10]⟩, -- RING_CTRL
   ⟨0x060, 0xffffffff, [0x0]⟩, -- RING_PROD
   ⟨0x064, 0xffffffff, [0x0]⟩, -- RING_CONS
   ⟨0x068, 0x00000000, [0x0]⟩, -- SEQ_ERRS
   ⟨0x06c, 0x00000000, [0x0]⟩] -- COUNT_CLR

/-- The registers of the DMA page. -/
def dmaRegs : List RegDef :=
  [⟨0x040, 0x00000007, [0x0]⟩, -- CH_SEL
   ⟨0x044, 0x80000003, [0x80000002]⟩, -- CH_CTRL
   ⟨0x048, 0x00000000, [0x0]⟩, -- CH_STATUS
   ⟨0x04c, 0x00000000, [0x0]⟩, -- CH_KIB
   ⟨0x050, 0x0000ffff, [0x64]⟩, -- WDOG_CTRL
   ⟨0x054, 0x00000000, [0x0]⟩] -- COUNT_CLR

/-- The registers of the INGEST page. -/
def ingestRegs : List RegDef :=
  [⟨0x040, 0x00000000, [0x0]⟩, -- IN_STATUS
   ⟨0x044, 0x00000000, [0x0]⟩, -- IN_SIZE
   ⟨0x048, 0x0fff001f, [0x4]⟩, -- BUF_CTRL
   ⟨0x04c, 0xffff0000, [0x0]⟩, -- BUF_BASE_LO
   ⟨0x050, 0x0000ffff, [0x0]⟩, -- BUF_BASE_HI
   ⟨0x054, 0xffffffff, [0x4490000]⟩, -- BUF_STRIDE
   ⟨0x058, 0xffff0000, [0x0]⟩, -- HINT_BASE_LO
   ⟨0x05c, 0x0000ffff, [0x0]⟩, -- HINT_BASE_HI
   ⟨0x060, 0x0000000f, [0x6]⟩, -- HINT_CTRL
   ⟨0x064, 0xffffffff, [0x0]⟩, -- HINT_PROD
   ⟨0x068, 0x00000000, [0x0]⟩, -- HINT_CONS
   ⟨0x06c, 0x00000000, [0x0]⟩, -- SEQ
   ⟨0x070, 0x00000000, [0x0]⟩, -- FRAMES
   ⟨0x074, 0x00000000, [0x0]⟩, -- DISCARDS
   ⟨0x078, 0x00000000, [0x0]⟩, -- HINT_DISCARDS
   ⟨0x07c, 0x00000000, [0x0]⟩, -- SDP_DROPS
   ⟨0x080, 0x00000000, [0x0]⟩] -- COUNT_CLR

/-- The registers of the HUB_SYS page. -/
def hubSysRegs : List RegDef :=
  [⟨0x040, 0x00000000, [0x1ff, 0x10f, 0x10f, 0x3]⟩, -- DIE_MAP
   ⟨0x044, 0x00000000, [0xfff, 0xfff, 0x30f, 0x30f]⟩, -- UNIT_MAP
   ⟨0x048, 0x00000000, [0x4, 0x3, 0x2, 0x1]⟩, -- VARIANT
   ⟨0x04c, 0x00000000, [0x0]⟩, -- SERIAL_LO
   ⟨0x050, 0x00000000, [0x0]⟩, -- SERIAL_HI
   ⟨0x054, 0x00000000, [0x0]⟩, -- DEV_STATE
   ⟨0x058, 0x00000000, [0x0]⟩, -- DEV_RESET
   ⟨0x05c, 0x00000000, [0x0]⟩, -- TIME_LO
   ⟨0x060, 0x00000000, [0x0]⟩, -- TIME_HI
   ⟨0x064, 0xffffffff, [0x0]⟩] -- SCRATCH

/-- The registers of the CD_SYS page. -/
def cdSysRegs : List RegDef :=
  [⟨0x040, 0x00000000, [0x0]⟩, -- DIE_STATUS
   ⟨0x044, 0x00000000, [0x0]⟩, -- DIE_TEMP
   ⟨0x048, 0x00000000, [0x0]⟩, -- DIE_TEMP_MAX
   ⟨0x04c, 0x00000000, [0x0]⟩, -- UC_VER
   ⟨0x050, 0x00000000, [0x0]⟩, -- DIE_UID_LO
   ⟨0x054, 0x00000000, [0x0]⟩] -- DIE_UID_HI

/-- The registers of the PWR page. -/
def pwrRegs : List RegDef :=
  [⟨0x040, 0x00000000, [0x0]⟩, -- PWR_STATUS
   ⟨0x044, 0x0fffffff, [0x4400140, 0x44000b4, 0x4400096, 0x440004b]⟩, -- CAP_CTRL
   ⟨0x048, 0x000000ff, [0xe4]⟩, -- SHARE_ORDER
   ⟨0x04c, 0x000000ff, [0x14]⟩, -- RAMP_CTRL
   ⟨0x050, 0x000000ff, [0x0]⟩, -- HOST_THROTTLE
   ⟨0x054, 0x000000ff, [0x736964]⟩, -- THERM_CTRL
   ⟨0x058, 0xffff00ff, [0x3e8000a]⟩, -- COOL_CTRL
   ⟨0x05c, 0x0000000f, [0x0]⟩, -- VR_SEL
   ⟨0x060, 0x8fff00ff, [0x0]⟩, -- VR_CFG
   ⟨0x064, 0x00000000, [0x0]⟩, -- P_EST
   ⟨0x068, 0x00000000, [0x0]⟩, -- P_MEAS
   ⟨0x06c, 0x00000000, [0x0]⟩, -- P_AVG
   ⟨0x070, 0x00000000, [0x0]⟩, -- HUB_TEMP
   ⟨0x074, 0x00000000, [0x0]⟩, -- DISAGREE
   ⟨0x078, 0x00000007, [0x0]⟩, -- REASON_SEL
   ⟨0x07c, 0x00000000, [0x0]⟩, -- REASON_US_LO
   ⟨0x080, 0x00000000, [0x0]⟩, -- REASON_US_HI
   ⟨0x084, 0x00000000, [0x0]⟩, -- ENERGY_LO
   ⟨0x088, 0x00000000, [0x0]⟩, -- ENERGY_HI
   ⟨0x08c, 0x00000000, [0x0]⟩] ++ -- ENERGY_MEAS_LO
  [⟨0x090, 0x00000000, [0x0]⟩, -- ENERGY_MEAS_HI
   ⟨0x094, 0x00000000, [0x0]⟩, -- COOL_GLITCHES
   ⟨0x098, 0x00000000, [0x0]⟩, -- STOPS
   ⟨0x09c, 0x00000000, [0x0]⟩, -- COUNT_CLR
   ⟨0x0a0, 0x00000000, [0x0]⟩] -- HINTS

/-- The registers of the BASECAMP page. -/
def basecampRegs : List RegDef :=
  [⟨0x040, 0x00000000, [0x0]⟩, -- BC_STATUS
   ⟨0x044, 0x00000006, [0x6]⟩, -- SLEEP_CTRL
   ⟨0x048, 0x00000007, [0x7]⟩, -- WAKE_EN
   ⟨0x04c, 0xffffffff, [0xffffffff]⟩, -- ALARM_LO
   ⟨0x050, 0xffffffff, [0xffffffff]⟩, -- ALARM_HI
   ⟨0x054, 0x00000000, [0x0]⟩] -- SLEEPS

/-- The registers of the FAULT page. -/
def faultRegs : List RegDef :=
  [⟨0x040, 0x00000000, [0x0]⟩, -- FAULT_STATUS
   ⟨0x044, 0x00ff0003, [0x320001]⟩, -- FAULT_CTRL
   ⟨0x048, 0x00000000, [0x0]⟩, -- RETIRE
   ⟨0x04c, 0x00000000, [0x0]⟩, -- LOG_HEAD
   ⟨0x050, 0x000000ff, [0x0]⟩, -- LOG_SEL
   ⟨0x054, 0x00000000, [0x0]⟩, -- LOG_DATA0
   ⟨0x058, 0x00000000, [0x0]⟩, -- LOG_DATA1
   ⟨0x05c, 0x00000000, [0x0]⟩, -- LOG_DATA2
   ⟨0x060, 0x00000000, [0x0]⟩, -- LOG_DATA3
   ⟨0x064, 0x00000000, [0x0]⟩, -- LOG_DATA4
   ⟨0x068, 0x00000000, [0x0]⟩, -- LOG_DATA5
   ⟨0x06c, 0x00000000, [0x0]⟩, -- LOG_DATA6
   ⟨0x070, 0x00000000, [0x0]⟩, -- LOG_DATA7
   ⟨0x074, 0xffff0000, [0x0]⟩, -- LOG_BASE_LO
   ⟨0x078, 0x0000ffff, [0x0]⟩, -- LOG_BASE_HI
   ⟨0x07c, 0x00000000, [0x0]⟩, -- CMD_FAULTS
   ⟨0x080, 0x00000000, [0x0]⟩, -- BLOCK_FAULTS
   ⟨0x084, 0x00000000, [0x0]⟩, -- DIE_FAULTS
   ⟨0x088, 0x00000000, [0x0]⟩, -- RETRAINS
   ⟨0x08c, 0x00000000, [0x0]⟩] ++ -- MOVED_GROUPS
  [⟨0x090, 0x00000000, [0x0]⟩, -- INT_MAX_US
   ⟨0x094, 0x00000000, [0x0]⟩] -- COUNT_CLR

/-- The registers of the PERF page. -/
def perfRegs : List RegDef :=
  [⟨0x040, 0x00003f07, [0x0]⟩, -- CNT_SEL
   ⟨0x044, 0xe03f00ff, [0x0]⟩, -- CNT_CFG
   ⟨0x048, 0x00000000, [0x0]⟩, -- CNT_LO
   ⟨0x04c, 0x00000000, [0x0]⟩, -- CNT_HI
   ⟨0x050, 0x00000000, [0x0]⟩, -- SNAP_CTRL
   ⟨0x054, 0xffffffff, [0x0]⟩, -- SNAP_TIME_LO
   ⟨0x058, 0xffffffff, [0x0]⟩, -- SNAP_TIME_HI
   ⟨0x05c, 0x00000000, [0x0]⟩, -- SNAP_STAMP_LO
   ⟨0x060, 0x00000000, [0x0]⟩, -- SNAP_STAMP_HI
   ⟨0x064, 0x00000000, [0x0]⟩, -- SNAP_LO
   ⟨0x068, 0x00000000, [0x0]⟩, -- SNAP_HI
   ⟨0x06c, 0x00000000, [0x0]⟩, -- OVF_MAP
   ⟨0x070, 0x00000000, [0x0]⟩, -- OVF_PAGES_LO
   ⟨0x074, 0x00000000, [0x0]⟩, -- OVF_PAGES_HI
   ⟨0x078, 0x00000000, [0x0]⟩, -- CNT_CLR
   ⟨0x080, 0x9f00000f, [0xc00000f]⟩, -- TRACE_CTRL
   ⟨0x084, 0xffff0000, [0x0]⟩, -- TRACE_BASE_LO
   ⟨0x088, 0x0000ffff, [0x0]⟩, -- TRACE_BASE_HI
   ⟨0x08c, 0x0000ffff, [0xffff]⟩, -- TRACE_APT
   ⟨0x090, 0xffffffff, [0xffffffff]⟩] ++ -- TRACE_JOB_LO
  [⟨0x094, 0xffffffff, [0xffffffff]⟩, -- TRACE_JOB_HI
   ⟨0x098, 0x00000000, [0x0]⟩, -- TRACE_PROD
   ⟨0x09c, 0xffffffff, [0x0]⟩, -- TRACE_CONS
   ⟨0x0a0, 0x00000000, [0x0]⟩, -- TRACE_DROPS
   ⟨0x0a4, 0x00000000, [0x0]⟩, -- DBG_STATUS
   ⟨0x0a8, 0x00000000, [0x0]⟩, -- DBG_CTRL
   ⟨0x0ac, 0x00000000, [0x0]⟩] -- DBG_OPENS

/-- The registers of a block's page. MD_SYS has those of CD_SYS (R374). -/
def Blk.regs : Blk → List RegDef
  | .sched => schedRegs
  | .ne => neRegs
  | .ve => veRegs
  | .xp => xpRegs
  | .post => postRegs
  | .me => meRegs
  | .raster => rasterRegs
  | .disp => dispRegs
  | .dptx => dptxRegs
  | .tmem => tmemRegs
  | .hsram => hsramRegs
  | .flags => flagsRegs
  | .welt => weltRegs
  | .memc => memcRegs
  | .sec => secRegs
  | .hif => hifRegs
  | .cfe => cfeRegs
  | .dma => dmaRegs
  | .ingest => ingestRegs
  | .hubSys => hubSysRegs
  | .cdSys => cdSysRegs
  | .pwr => pwrRegs
  | .basecamp => basecampRegs
  | .fault => faultRegs
  | .perf => perfRegs
  | .mdSys => cdSysRegs

/-- The definition of the register at an offset of a page. -/
def Blk.regAt (b : Blk) (off : Nat) : Option RegDef := b.regs.find? fun d => d.off == off

/-- The reset value of a register on a variant. -/
def RegDef.resetOn (d : RegDef) (v : Variant) : Nat :=
  match d.reset with
  | [x] => x
  | xs => xs.getD (Config.index v) 0

end Sys2Proof.Machine
end

