-- ==== Sys2Proof/Machine/Mem.lean ====
section
/-!
DEFINITION. Sparse memories as lists of (address, byte) pairs in one canonical form, sparse maps with a
default, and the read and write of runs of bytes. What an unlisted address reads as is the memory's
`dflt` byte: 0 for the device's and the host's memory, 0xFF for an erased flash.
-/

-- One declaration at a time: the threads of a parallel elaboration take memory together.
set_option Elab.async false

namespace Sys2Proof.Machine

/-- A byte memory: the cells that differ from what an unlisted address reads as. -/
abbrev Memory := List Host.Cell

/-- Addresses strictly rise from `lo`, and no listed byte is the default. -/
def Memory.wfFrom (dflt : Byte) : Nat → Memory → Bool
  | _, [] => true
  | lo, (a, b) :: rest => lo ≤ a && b != dflt && Memory.wfFrom dflt (a + 1) rest

/-- The canonical form of a memory. -/
def Memory.wf (dflt : Byte) (m : Memory) : Bool := m.wfFrom dflt 0

/-- The byte at an address. -/
def Memory.read (dflt : Byte) : Memory → Nat → Byte
  | [], _ => dflt
  | (a, b) :: rest, x => if a == x then b else Memory.read dflt rest x

/-- The bytes at `n` addresses from `a` on, from a list that holds no cell below `a`. -/
def Memory.runFrom (dflt : Byte) : Memory → Nat → Nat → List Byte
  | _, _, 0 => []
  | [], _, n + 1 => List.replicate (n + 1) dflt
  | (x, b) :: rest, a, n + 1 =>
    if x == a then b :: Memory.runFrom dflt rest (a + 1) n
    else dflt :: Memory.runFrom dflt ((x, b) :: rest) (a + 1) n

/-- The `n` bytes from address `a` on. -/
def Memory.readRun (dflt : Byte) (m : Memory) (a n : Nat) : List Byte :=
  Memory.runFrom dflt (m.dropWhile fun c => c.1 < a) a n

/-- The cells that a run of bytes makes at address `a`. -/
def cellsOf (dflt : Byte) : Nat → List Byte → Memory
  | _, [] => []
  | a, b :: bs => if b == dflt then cellsOf dflt (a + 1) bs else (a, b) :: cellsOf dflt (a + 1) bs

/-- The memory after the bytes `bs` are written from address `a` on. -/
def Memory.writeRun (dflt : Byte) (m : Memory) (a : Nat) (bs : List Byte) : Memory :=
  (m.takeWhile fun c => c.1 < a) ++ cellsOf dflt a bs ++
    (m.dropWhile fun c => c.1 < a + bs.length)

/-- The memory after one byte is written. -/
def Memory.write (dflt : Byte) (m : Memory) (a : Nat) (b : Byte) : Memory := m.writeRun dflt a [b]

/-- The memory after the cells of `[src, src + n)` are copied to `[dst, dst + n)`. -/
def Memory.copyRun (m : Memory) (src dst n : Nat) : Memory :=
  let moved := ((m.dropWhile fun c => c.1 < src).takeWhile fun c => c.1 < src + n).map
    fun c => (c.1 - src + dst, c.2)
  (m.takeWhile fun c => c.1 < dst) ++ moved ++ (m.dropWhile fun c => c.1 < dst + n)

/-- The memory with nothing listed in `[a, a + n)`. -/
def Memory.clearRun (m : Memory) (a n : Nat) : Memory :=
  (m.takeWhile fun c => c.1 < a) ++ (m.dropWhile fun c => c.1 < a + n)

/-! ### Sparse maps -/

/-- A map from numbers to data, kept in rising order of its keys. -/
abbrev SMap (α : Type) := List (Nat × α)

/-- The entry at a key. -/
def SMap.find? {α : Type} : SMap α → Nat → Option α
  | [], _ => none
  | (k, v) :: rest, x => if k == x then some v else SMap.find? rest x

/-- The entry at a key, or a default. -/
def SMap.get {α : Type} (m : SMap α) (x : Nat) (d : α) : α := (m.find? x).getD d

/-- The map with the entry at a key set. -/
def SMap.set {α : Type} : SMap α → Nat → α → SMap α
  | [], x, v => [(x, v)]
  | (k, w) :: rest, x, v =>
    if x < k then (x, v) :: (k, w) :: rest
    else if x == k then (x, v) :: rest
    else (k, w) :: SMap.set rest x v

/-- The map without the entry at a key. -/
def SMap.erase {α : Type} (m : SMap α) (x : Nat) : SMap α := m.filter fun p => p.1 != x

/-- The map without the entries whose key satisfies `p`. -/
def SMap.dropKeys {α : Type} (m : SMap α) (p : Nat → Bool) : SMap α := m.filter fun e => !p e.1

end Sys2Proof.Machine
end

