-- ==== Sys2Proof/Machine/State.lean ====
section
/-!
DEFINITION. The state of the device as plain data, its faults and refusals, and the state at reset.
-/

-- One declaration at a time: the threads of a parallel elaboration take memory together.
set_option Elab.async false

namespace Sys2Proof.Machine

/-- How a step can stop with a fault: it cannot. The spec gives every command of the table an effect, and of a rule that software breaks
without a stated outcome it says that the device goes on (R9), so nothing is raised. Safe: there is no fault to claim anything of. -/
inductive Fault where
  deriving DecidableEq, Repr

/-- How a step can refuse a command. -/
inductive Refusal where
  /-- Answered by the arm of a command that has no meaning yet. Safe: nothing is claimed of it. -/
  | notModelled (mnemonic : String)
  deriving DecidableEq, Repr

/-- What the package identity record tells of the part (R372, R374, R382); `cds`, `md`, `ports` and `outputs` are its presence bits. -/
structure Part where
  variant : Variant
  grade : Nat
  pkgRev : Nat
  serial : Nat
  uids : List Nat
  dense : Bool
  cds : Nat
  md : Nat
  ports : Nat
  outputs : Nat
  deriving DecidableEq, Repr

/-- The USB4 link (R324, R353, R354, R356). -/
structure Link where
  state : Nat
  mode : Nat
  pcieUp : Bool
  dpUp : Bool
  session : Nat
  resumed : Bool
  toBacklog : Bool
  downAt : Nat
  deriving DecidableEq, Repr

/-- The MSI-X table, function mask and pending bits (R338, R339). `level` holds the last OR of each block
vector. -/
structure Msix where
  table : SMap Word
  fmask : Bool
  pba : Word
  level : Word
  sent : Nat
  deriving DecidableEq, Repr

/-- A DMA channel (R340, R358): whether it takes commands, its DRAM class, and the bytes that it has moved. -/
structure DmaChannel where
  en : Bool
  dramClass : Nat
  bytes : Nat
  deriving DecidableEq, Repr

/-- A staged row of the ME staging window (R201, R203), kept by virtual slot: the ring it belongs to, its
generation in the ring, when it was filled, and whether only its DRAM spill copy holds it. -/
structure StageRow where
  flag : Nat
  gen : Word
  filledAt : Nat
  spilled : Bool
  deriving DecidableEq, Repr

/-- The matching engine: the running command, the runs of bytes of each of its staged rows, how many are staged, since
when it waits for return credit, since when it stalls, whether it stops at the end of its current row (R206), and the staging window
(R201 to R213). -/
structure MeState where
  uid : Option Nat
  rows : List (List (Nat × List Byte))
  staged : Nat
  waitSince : Option Nat
  stallFrom : Option Nat
  late : Bool
  window : SMap StageRow
  deriving DecidableEq, Repr

/-- A planned frame (R251, R252): its deadline, the tick of its scan start, its row pitch, its vertical total, its
exact scan start as a fraction of ticks, and whether it has been published in the calendar. -/
structure CalEntry where
  frame : Nat
  deadline : Nat
  scanStart : Nat
  rowPitch : Nat
  vTotal : Nat
  num : Nat
  den : Nat
  published : Bool
  deriving DecidableEq, Repr

/-- A tile that waits in a tile store slot (R269). -/
structure StoredTile where
  slot : Nat
  frame : Nat
  tile : Nat
  deriving DecidableEq, Repr

/-- The stand-in source frame that a header names (R69): its address, its width and height, and its pitch. -/
structure StandInSrc where
  addr : Nat
  w : Nat
  h : Nat
  pitch : Nat
  deriving DecidableEq, Repr

/-- Genlock (R256, R257): SYNC_STATE, the residual in lines times the numerator of the line time, SYNC_ERR, the edges
within one line in a row, and the time of the last edge. -/
structure Genlock where
  sync : Nat
  residual : Int
  lastErr : Int
  good : Nat
  lastEdge : Nat
  deriving DecidableEq, Repr

/-- A metadata set and the frame from which it is sent (R262). -/
structure MetaSet where
  frame : Nat
  records : List (List Byte)
  deriving DecidableEq, Repr

/-- The display engine (R247 to R275). `begun` counts the frames whose fetch has begun, and `scanned` those whose
scan-out has ended; `entries` are the planned frames from the one being fetched on, and `cal` the calendar's four entries;
`anchor` is the exact start of the next frame to be planned when none is; `rowsDone` counts the rows of the frame being
fetched whose deadline has been acted on, and `scanBegun` tells that its first active line has been sent; `active` is the
configuration in force and `committed` one that awaits effect; `bound` are the frames with a bound step, and that step;
`rowSrc` is the stand-in source that the header named at the deadline of each row of that frame (R69);
`noPrev` is the frame for which F - 1 does not count (R70, R270); `hold` is set in HOLD, `holdFrom` the first frame that
shows buffer `holdBuf`, and `held` that the frame being fetched does; `sent` is the set of SDPs last sent; `urgent` are the
fetch streams in URGENT, and `frameOut` is when FRAME_OUT last rose. -/
structure Disp where
  running : Bool
  stopping : Bool
  begun : Nat
  entries : List CalEntry
  cal : SMap CalEntry
  anchor : Nat × Nat
  scanned : Nat
  rowsDone : Nat
  scanBegun : Bool
  rowSrc : SMap StandInSrc
  active : SMap Word
  committed : Option (SMap Word)
  bound : List (Nat × Nat)
  noPrev : Option Nat
  hold : Bool
  holdFrom : Nat
  holdBuf : Option Nat
  held : Bool
  store : List StoredTile
  genlock : Genlock
  metas : List MetaSet
  captured : List (List Byte)
  sent : List (List Byte)
  urgent : List Nat
  frameOut : Option Nat
  deriving DecidableEq, Repr

/-- A DP output (R263 to R267, R276). `rate`, `lanes` and `dsc` are those trained; `streaming` is whether it sends
video, `resumes` that it does so from the next frame; `csc` is the shadow CSC table; `vsc`, the main stream attributes `msa` (R250) and
`line` are what it last sent, and with DSC on `coded` is the coded line in place of the codes of `line`; `fec` and `ssc` are whether the
link runs with forward error correction and down-spread (R263); `ids` are the receiver IDs that its last authentication reported (R267). -/
structure DpOut where
  hpd : Bool
  trained : Bool
  training : Bool
  rate : Nat
  lanes : Nat
  dsc : Bool
  streaming : Bool
  resumes : Bool
  hdcp : Nat
  blocked : Bool
  encrypting : Bool
  csc : SMap Word
  auxBusy : Bool
  auxResult : Nat
  vsc : List Nat
  line : List Nat
  msa : List Nat
  fec : Bool
  ssc : Bool
  coded : Option Nat
  ids : List Nat
  deriving DecidableEq, Repr

/-- The input levels and output drives that the spec names (R416, R424, R468, R471, R475, R480, R481): the filtered levels of RESET_N,
PWR_GOOD, COOL_FLOW_OK and of the GPIO balls; whether the rails that CORE_EN enables are supplied, and `bc` Base Camp; whether the 32.768 kHz crystal runs, the latch of
THERM_TRIP_N and THERM_ALERT_N and SMB_ALERT_N are asserted; the rail enables; the spread settings in force (core, timing,
die, DRAM); the boundary scan register; and when the filtered level of an input last changed, by filter group and number (R483). -/
structure Pins where
  supply : Bool
  bc : Bool
  resetN : Bool
  pwrGood : Bool
  coolOk : Bool
  gpioIn : Nat
  xtal32 : Bool
  trip : Bool
  alert : Bool
  smbAlert : Bool
  coreEn : Bool
  dramEn : Bool
  retEn : Bool
  vrEn : Nat
  coreSsc : Nat
  tmgSsc : Nat
  dieSsc : Nat
  dramSsc : Nat
  scan : List Byte
  edges : SMap Nat
  deriving DecidableEq, Repr

/-- A command HINT_PHASE in force (R408): its dies as a mask, the point, from when until when, the end of its lead time,
its energy in mJ and its length in µs. -/
structure Hint where
  dies : Nat
  level : Nat
  acceptedAt : Nat
  start : Nat
  finish : Nat
  leadEnd : Nat
  energy : Nat
  length : Nat
  deriving DecidableEq, Repr

/-- What the power manager keeps of a die (R407, R409, R411, R416, R474): the point in force, the point whose voltage the regulator
has confirmed (none before its first confirmation), since when a lower point has sufficed, the rail currents of the last 10 µs in mA, newest
first, b_ramp, b_therm in 1/16, the throttle that a collective holds it at with the reasons of R421 that it comes from as a mask, and the
stitch that runs on each of its two engines, in 1/16 of the array. -/
structure DiePower where
  opp : Nat
  confirmed : Option Nat
  lowSince : Option Nat
  amps : List Rat
  ramp : Rat
  therm : Nat
  coll : Rat
  collFor : Nat
  stitch : Nat × Nat
  deriving DecidableEq, Repr

/-- The power manager (R402 to R422). `acc` and `samples` add up the estimates of a 1 ms interval by domain in mW; `ring` holds
its means, newest first; `shed` is D in mW, `frac` the throttle fractions of the domains, `dom` their last 1 ms powers; `reasons`
are the durations of R421 in µs; `energy` counts nJ and `energyMeas` µJ; temperatures are in 1/16 °C, with 8 the
matching die and 9 the hub; `coolLow` is when COOL_FLOW_OK fell, `coolBack` since when it is high again after a stop, and
`cooled` since when every die is below THROTTLE_C - 10 °C; `diesStopped` tells that the dies are stopped under R418. -/
structure Pwr where
  acc : List Rat
  samples : Nat
  ring : List Rat
  shed : Rat
  frac : List Rat
  dom : List Rat
  est : Rat
  meas : Rat
  avg : Rat
  lastEst : Nat
  lastCap : Nat
  lastTherm : Nat
  invalid : Nat
  differ : Nat
  pmbusOk : Bool
  sticky : Bool
  diffMax : Rat
  hints : List Hint
  reasons : List Nat
  energy : Rat
  energyMeas : Nat
  temps : SMap Int
  coolLow : Option Nat
  coolBack : Option Nat
  cooled : Option Nat
  diesStopped : Bool
  dies : SMap DiePower
  vr : SMap Word
  deriving DecidableEq, Repr

/-- What a boot has read and decided, as far as it came (R386 to R396): the slot and the Insole copy in use, POLICY, UNTESTED_PAIR and
ME_INCOMPAT, the contents of HUB_FW_VER, MANIFEST_VER, INSOLE_VER, INSOLE_STATUS and of UC_VER of compute and matching dies, the SVN of the hub
firmware, and the digests of R321 in the order of a quote. -/
structure BootPlan where
  slot : Nat
  copy : Option Nat
  policy : Nat
  untested : Bool
  meIncompat : Bool
  fwVer : Nat
  manifestVer : Nat
  insoleVer : Nat
  insoleStatus : Nat
  engineVer : Nat
  matchVer : Nat
  svn : Nat
  digests : List (List Byte)
  deriving DecidableEq, Repr

/-- An operation of `SEC.UPD_CMD` in progress (R398): OP, UPD_ADDR, its length in bytes, and whether the flash device will report an
error. -/
structure UpdOp where
  op : Nat
  addr : Nat
  bytes : Nat
  fail : Bool
  deriving DecidableEq, Repr

/-- Boot, firmware and non-volatile state (R382 to R401): the factory key hash in the ROM, flash and the package identity record; MIN_SVN,
the customer key hash; whether the record and a hub firmware were accepted, and the plan of the last boot; the path that the boot to come takes
(0 cold, 1 wake, 2 device reset), its time zero, whether it still waits for PWR_GOOD, whether firmware memory and DRAM were
retained, and the boots since the last cold path; the result of the last update operation and the one in progress; the update window; the last quote; and the
DRAM temperature in °C of the last training (R297). -/
structure Boot where
  romKey : List Byte
  flash : Memory
  nor : Memory
  minSvn : Nat
  custKey : Option (List Byte)
  identOk : Bool
  fwOk : Bool
  plan : BootPlan
  path : Option Nat
  timeZero : Nat
  waitGood : Bool
  kept : Bool
  boots : Nat
  updResult : Nat
  upd : Option UpdOp
  window : List Byte
  quote : List Byte
  dramTemp : Int
  deriving DecidableEq, Repr

/-- A Welt module (R290, R292, R302): STATE, lanes repaired, consecutive failed replays, and since when it
retrains. -/
structure WeltModule where
  state : Nat
  repaired : Nat
  fails : Nat
  since : Nat
  deriving DecidableEq, Repr

/-- What a cairn record that is due holds of its frame, captured at the end of the frame's scan-out (R315 to R317): the frame, the
first 64 bytes, the digests from D_PROG to D_AUX in the record's order, the KIND map, and the tile digests once every line has been sent. -/
structure CairnDue where
  frame : Nat
  front : List Byte
  digests : List (List Byte)
  kinds : List Byte
  tiles : Option (List (List Byte))
  deriving DecidableEq, Repr

/-- Cairn recording (R316 to R319): RECORD_SEQ of the next record, D_FRAME of the newest, what the next record's GAP and AFTER_HOLD
say, the first frame recorded, the records that are due, and the pixels that the display engine has sent of the frame being fetched, line by
line (R315): line `y` of output `i` under 16384 i + y. -/
structure Cairn where
  seq : Nat
  newest : List Byte
  gap : Bool
  afterHold : Bool
  firstFrame : Nat
  due : List CairnDue
  lines : SMap (List Nat)
  deriving DecidableEq, Repr

/-- A performance counter (R449, R453, R454): its configuration, its value and OVF, and its snapshot. -/
structure Ctr where
  cfg : Nat
  count : Nat
  ovf : Bool
  snap : Nat
  snapOvf : Bool
  deriving DecidableEq, Repr

/-- Debug access and the JTAG port (R460 to R463): the instruction selected, the data last shifted out, whether access is open and
how, the challenge (none once used), the failures, and the management cores that are halted, with their registers. -/
structure Debug where
  ir : Nat
  tdo : List Byte
  isOpen : Bool
  lockout : Bool
  cust : Bool
  scope : Nat
  challenge : Option (List Byte)
  fails : Nat
  halted : List Nat
  coreRegs : SMap Word
  deriving DecidableEq, Repr

/-- The state of the device. `pending` is the queue of commands from outside; `freeCount` counts the free values used; `now` is the
time base; `devState` the code of R378; `readData` the bytes that the last read answered; `refresh` the
postponed refreshes by DRAM channel (R296); `badWords` are the words of memory with an uncorrectable error and `softWords` those with a
single-bit error that no read has met yet (R283); `traceFill` is what the buffer of the trace unit held at time `traceAt`, in hundredths
of a record (R459); `lastFw` when the management cores last restarted (R441); `sleeping` the wake sources latched while the entry to
BASECAMP waits for records (R423); `issue` the issue accounts of the engines, the ME (16) and the POSTs (from 32) in cycles (R406);
`timeFrac` the fraction of a tick that BASECAMP carries, in 1/128 (R424). -/
structure State where
  pending : List Instr
  part : Part
  now : Nat
  freeCount : Nat
  devState : Nat
  holdCauses : Nat
  cdLost : Nat
  mdLost : Bool
  cmds : List Cmd
  nextUid : Nat
  steps : List Step
  groups : List Group
  fetches : List Fetch
  colls : List Coll
  jobs : SMap Job
  engines : SMap Engine
  flags : SMap FlagEntry
  windows : SMap Word
  saveBase : SMap Word
  apts : SMap Aperture
  aptSlots : SMap AptSlot
  rings : SMap Ring
  waiting : List Rec
  backlog : List Rec
  link : Link
  msix : Msix
  dma : SMap DmaChannel
  stopped : Bool
  resetPending : Bool
  pages : SMap Page
  regs : SMap Word
  latch : SMap Word
  mem : Memory
  hostMem : Memory
  badWords : List Nat
  softWords : List Nat
  insole : SMap Word
  protEff : Nat
  me : MeState
  ingest : Ingest
  raster : Raster
  disp : Disp
  outs : SMap DpOut
  traceGap : Bool
  traceFill : Nat
  traceAt : Nat
  log : SMap (List Byte)
  readData : List Byte
  pins : Pins
  bw : SMap Word
  pwr : Pwr
  boot : Boot
  welt : SMap WeltModule
  refresh : SMap Nat
  cairn : Cairn
  ctrs : SMap Ctr
  snaps : SMap Nat
  dbg : Debug
  lastFw : Option Nat
  sleeping : Option Nat
  issue : SMap Rat
  timeFrac : Nat
  deriving DecidableEq, Repr

/-! ### The state at reset -/

/-- The package identity of the part that the model starts as: an H8A of grade C, with 16 Gbit DRAM, and build level, serial number
and die identities 0, since the spec gives none (assumption 1). -/
def Part.reset : Part := ⟨.h8a, 0, 0, 0, List.replicate 10 0, false, 0xFF, 1, 0xFF, 0xF⟩

/-- The link after reset: down, with nothing held back. -/
def Link.reset : Link := ⟨0, 0, false, false, 0, true, false, 0⟩

def MeState.reset : MeState := ⟨none, [], 0, none, none, false, []⟩

def Ingest.reset : Ingest := ⟨false, false, false, false, 0, 0, 0, 0, 0, none, []⟩

def Raster.reset : Raster := ⟨[], [], [], 0, [], [], [], [], []⟩

def Disp.reset : Disp :=
  { running := false, stopping := false, begun := 0, entries := [], cal := [], anchor := (0, 1), scanned := 0, rowsDone := 0
    scanBegun := false, rowSrc := [], active := [], committed := none, bound := [], noPrev := none, hold := false, holdFrom := 0
    holdBuf := none, held := false, store := [], genlock := ⟨0, 0, 0, 0, 0⟩, metas := [], captured := [], sent := []
    urgent := [], frameOut := none }

/-- The pins when the device has just left reset: supplies good, RESET_N and PWR_GOOD high, coolant flowing (assumption 1). -/
def Pins.reset : Pins :=
  { supply := true, bc := true, resetN := true, pwrGood := true, coolOk := true, gpioIn := 0, xtal32 := false, trip := false, alert := false
    smbAlert := false, coreEn := true, dramEn := true, retEn := true, vrEn := 0, coreSsc := 2, tmgSsc := 2, dieSsc := 2
    dramSsc := 0, scan := [], edges := [] }

def Pwr.reset : Pwr :=
  { acc := [0, 0, 0, 0], samples := 0, ring := [], shed := 0, frac := [0, 0, 0, 0], dom := [0, 0, 0, 0], est := 0, meas := 0
    avg := 0, lastEst := 0, lastCap := 0, lastTherm := 0, invalid := 0, differ := 0, pmbusOk := false, sticky := false
    diffMax := 0, hints := [], reasons := [0, 0, 0, 0, 0, 0], energy := 0, energyMeas := 0, temps := [], coolLow := none
    coolBack := none, cooled := none, diesStopped := false, dies := [], vr := [] }

/-- Nothing read yet. -/
def BootPlan.none : BootPlan := ⟨0, .none, 0, false, false, 0, 0, 0, 0, 0, 0, 0, List.replicate 6 (List.replicate 32 0)⟩

/-- Non-volatile memory is empty: the spec gives the content of no part (assumption 1). The cold boot is still to run. -/
def Boot.reset : Boot :=
  { romKey := List.replicate 32 0, flash := [], nor := [], minSvn := 0, custKey := none, identOk := false, fwOk := false
    plan := BootPlan.none, path := some 0, timeZero := 0, waitGood := false, kept := false, boots := 0, updResult := 0, upd := none
    window := List.replicate 2048 0, quote := List.replicate 1024 0, dramTemp := 0 }

def Cairn.reset : Cairn := ⟨0, List.replicate 32 0, false, false, 0, [], []⟩

def Debug.reset : Debug :=
  { ir := 1, tdo := [], isOpen := false, lockout := false, cust := false, scope := 0, challenge := none, fails := 0
    halted := [], coreRegs := [] }

/-- The device right after reset (R380, R389, R475): WAKING, with the cold boot still to run. -/
def State.reset : State :=
  { pending := [], part := Part.reset, now := 0, freeCount := 0, devState := 2, holdCauses := 0, cdLost := 0, mdLost := false
    cmds := [], nextUid := 0, steps := [], groups := [], fetches := [], colls := [], jobs := [], engines := [], flags := []
    windows := [], saveBase := [], apts := [], aptSlots := [], rings := [], waiting := [], backlog := [], link := Link.reset
    msix := ⟨[], false, 0, 0, 0⟩, dma := [], stopped := false, resetPending := false, pages := [], regs := [], latch := []
    mem := [], hostMem := [], badWords := [], softWords := [], insole := [], protEff := 0, me := MeState.reset, ingest := Ingest.reset
    raster := Raster.reset, disp := Disp.reset, outs := [], traceGap := false, traceFill := 0, traceAt := 0, log := [], readData := [], pins := Pins.reset
    bw := [], pwr := Pwr.reset, boot := Boot.reset, welt := [], refresh := [], cairn := Cairn.reset, ctrs := [], snaps := []
    dbg := Debug.reset, lastFw := none, sleeping := none, issue := [], timeFrac := 0 }

end Sys2Proof.Machine
end

