-- ==== Sys2Proof/Machine/Ops.lean ====
section
/-!
DEFINITION. The named operations over the state: pages and registers (R360 to R376), errors and interrupts
(R364, R365, R339), device addresses (R277), memory with its ECC words (R283), and host memory (R353, R354).
-/

-- One declaration at a time: the threads of a parallel elaboration take memory together.
set_option Elab.async false

namespace Sys2Proof.Machine

/-! ### The time base (R8) -/

/-- R8: time `a` of the 64-bit time base is at or after time `b`. -/
def timeReached (a b : Nat) : Bool := (a % 2 ^ 64 + 2 ^ 64 - b % 2 ^ 64) % 2 ^ 64 < 2 ^ 63

/-- The ticks from time `b` to a later time `a`. -/
def ticksSince (a b : Nat) : Nat := (a % 2 ^ 64 + 2 ^ 64 - b % 2 ^ 64) % 2 ^ 64

/-- The signed distance from time `b` to time `a`. -/
def timeFrom (b a : Nat) : Int := signed 64 (a % 2 ^ 64 + 2 ^ 64 - b % 2 ^ 64)

/-- The later of two times. -/
def laterTime (a b : Nat) : Nat := if timeReached a b then a else b

/-! ### The address map of BAR0 (R360, R375, R376) -/

/-- The base of compute die `n`'s region. -/
def dieBase (n : Nat) : Nat := 0x400000 * (n + 1)

/-- The BAR0 offset of a block's page; the instance of PERF is the DIE code of its die. -/
def Blk.base (b : Blk) (i : Nat) : Nat :=
  match b with
  | .hubSys => 0x0000
  | .basecamp => 0x1000
  | .hif => 0x2000
  | .cfe => 0x3000
  | .sched => 0x4000
  | .dma => 0x5000
  | .hsram => 0x6000
  | .flags => 0x7000
  | .raster => 0x8000
  | .disp => 0x9000
  | .ingest => 0xA000
  | .pwr => 0xB000
  | .sec => 0xC000
  | .fault => 0xD000
  | .perf => if i == 0x40 then 0xE000 else if i == 0x80 then 0x2802000 else dieBase i + 0x3000
  | .memc => 0x10000 + i * 0x1000
  | .dptx => 0x18000 + i * 0x1000
  | .welt => 0x20000 + i * 0x1000
  | .cdSys => dieBase i
  | .tmem => dieBase i + 0x1000
  | .post => dieBase i + 0x2000
  | .ne => dieBase (i / 2) + 0x4000 + (i % 2) * 0x1000
  | .ve => dieBase (i / 2) + 0x6000 + (i % 2) * 0x1000
  | .xp => dieBase (i / 2) + 0x8000 + (i % 2) * 0x1000
  | .mdSys => 0x2800000
  | .me => 0x2801000

/-- The block whose page is page `p` of the hub region. -/
def hubPage (p : Nat) : Option (Blk × Nat) :=
  match p with
  | 0x0 => some (.hubSys, 0)
  | 0x1 => some (.basecamp, 0)
  | 0x2 => some (.hif, 0)
  | 0x3 => some (.cfe, 0)
  | 0x4 => some (.sched, 0)
  | 0x5 => some (.dma, 0)
  | 0x6 => some (.hsram, 0)
  | 0x7 => some (.flags, 0)
  | 0x8 => some (.raster, 0)
  | 0x9 => some (.disp, 0)
  | 0xA => some (.ingest, 0)
  | 0xB => some (.pwr, 0)
  | 0xC => some (.sec, 0)
  | 0xD => some (.fault, 0)
  | 0xE => some (.perf, 0x40)
  | _ =>
    if 0x10 ≤ p && p < 0x18 then some (.memc, p - 0x10)
    else if 0x18 ≤ p && p < 0x1C then some (.dptx, p - 0x18)
    else if 0x20 ≤ p && p < 0x39 then some (.welt, p - 0x20)
    else none

/-- The block whose page is page `p` of compute die `n`'s region. -/
def diePage (n p : Nat) : Option (Blk × Nat) :=
  match p with
  | 0 => some (.cdSys, n)
  | 1 => some (.tmem, n)
  | 2 => some (.post, n)
  | 3 => some (.perf, n)
  | 4 => some (.ne, 2 * n)
  | 5 => some (.ne, 2 * n + 1)
  | 6 => some (.ve, 2 * n)
  | 7 => some (.ve, 2 * n + 1)
  | 8 => some (.xp, 2 * n)
  | 9 => some (.xp, 2 * n + 1)
  | _ => none

/-- R360: the page that a BAR0 offset falls in; none in an unused range or page slot. -/
def pageAt (off : Nat) : Option (Blk × Nat) :=
  let region := off / 0x400000
  let p := off % 0x400000 / 0x1000
  if region == 0 then hubPage p
  else if region ≤ 8 then diePage (region - 1) p
  else if region == 10 then
    (match p with
     | 0 => some (.mdSys, 0)
     | 1 => some (.me, 0)
     | 2 => some (.perf, 0x80)
     | _ => none)
  else none

/-- R338: the MSI-X vector of a block. -/
def Blk.vector : Blk → Nat
  | .fault => 0 | .hubSys => 0 | .hif => 1 | .dma => 18 | .ingest => 19 | .disp => 20 | .dptx => 20
  | .raster => 21 | .sched => 22 | .cfe => 22 | .pwr => 23 | .basecamp => 23 | .sec => 24 | .me => 25
  | .mdSys => 25 | .ne => 26 | .ve => 26 | .xp => 26 | .post => 26 | .tmem => 26 | .cdSys => 26
  | .hsram => 27 | .flags => 27 | .memc => 27 | .welt => 27 | .perf => 27

/-- R375, R376: whether software can write the block's ENABLE. -/
def Blk.enableWritable : Blk → Bool
  | .dma | .raster | .disp | .ingest | .dptx | .post | .ne | .me => true
  | _ => false

/-- R375, R376: whether the block honours DRAIN. -/
def Blk.drainHonoured : Blk → Bool
  | .dma | .raster | .post | .ne | .me => true
  | _ => false

/-- The factory value of ENABLE. -/
def Blk.enableReset : Blk → Bool
  | .disp | .ingest | .dptx => false
  | _ => true

/-! ### Units and their presence (R1, R2, R371) -/

/-- The variant of the part. -/
def State.variant (s : State) : Variant := s.part.variant

/-- Compute die `n` is in the package and not lost. -/
def State.dieUsable (s : State) (n : Nat) : Bool :=
  n < Config.dies s.variant && !s.cdLost.testBit n

/-- The matching die is in the package and not lost. -/
def State.mdUsable (s : State) : Bool := Config.hasMe s.variant && !s.mdLost

/-- Engine `g` is in the package. -/
def State.enginePresent (s : State) (g : Nat) : Bool := g < Config.engines s.variant

/-- R290, R375: WELT module `m` has both of its ends in the package. -/
def State.modulePresent (s : State) (m : Nat) : Bool :=
  if m < 16 then m / 2 < Config.dies s.variant
  else if m < 24 then m - 16 < Config.dies s.variant
  else m == 24 && Config.hasMe s.variant

/-- R2, R371: the unit of a page is present and its die is not lost. -/
def State.blockPresent (s : State) (b : Blk) (i : Nat) : Bool :=
  match b with
  | .cdSys | .tmem | .post => s.dieUsable i
  | .ne | .ve | .xp => s.dieUsable (i / 2)
  | .perf => if i == 0x40 then true else if i == 0x80 then s.mdUsable else s.dieUsable i
  | .mdSys | .me => s.mdUsable
  | .memc => i < Config.ports s.variant
  | .dptx => i < Config.outputs s.variant
  | .welt => s.modulePresent i
  | _ => true

/-! ### Registers and headers -/

/-- The reset value of a register: the factory value overlaid by the Insole record applied at boot. -/
def State.resetValue (s : State) (b : Blk) (i off : Nat) : Nat :=
  match s.insole.find? (b.base i + off) with
  | some v => v.toNat
  | none => match b.regAt off with
    | some d => d.resetOn s.variant
    | none => 0

/-- The stored value of a register. -/
def State.reg (s : State) (b : Blk) (i off : Nat) : Nat :=
  match s.regs.find? (b.base i + off) with
  | some v => v.toNat
  | none => s.resetValue b i off

/-- The state with a register's stored value set. -/
def State.setReg (s : State) (b : Blk) (i off v : Nat) : State :=
  { s with regs := s.regs.set (b.base i + off) (BitVec.ofNat 32 v) }

/-- A counter register counts `n`, saturating at all ones. -/
def State.bump (s : State) (b : Blk) (i off n : Nat) : State :=
  s.setReg b i off (satAdd 32 (s.reg b i off) n)

/-- A counter register keeps the largest value seen, saturating at `top`. -/
def State.bumpMax (s : State) (b : Blk) (i off v top : Nat) : State :=
  s.setReg b i off (max (s.reg b i off) (min v top))

/-- The header of a page at reset. `extra` holds the block-specific bits of BLK_CTRL. -/
def State.pageReset (s : State) (b : Blk) (i : Nat) : Page :=
  let extra := if b == .ne then (8 : Word) else 0
  let src := if s.insole.any fun e => e.1 / 0x1000 == b.base i / 0x1000 then 1 else 0
  match s.insole.find? (b.base i + 0x00C) with
  | some v => ⟨if b.enableWritable then v.getLsbD 0 else true, false, v &&& 8, 0, 0, false, false, 0, 0, 0, src,
      false, false⟩
  | none => ⟨b.enableReset, false, extra, 0, 0, false, false, 0, 0, 0, src, false, false⟩

/-- The stored header of a page. -/
def State.page (s : State) (b : Blk) (i : Nat) : Page := s.pages.get (b.base i) (s.pageReset b i)

/-- The state with a page's header set. -/
def State.putPage (s : State) (b : Blk) (i : Nat) (p : Page) : State :=
  { s with pages := s.pages.set (b.base i) p }

/-! ### Host memory (R353, R354) -/

/-- The device may write host memory: the PCIe tunnel is up and RESUME has been written since the last
outage (R354). -/
def State.hostOk (s : State) : Bool := s.link.pcieUp && s.link.resumed

/-- Bytes written to host memory. -/
def State.hostPut (s : State) (a : Nat) (bs : List Byte) : State :=
  { s with hostMem := s.hostMem.writeRun 0 a bs }

/-- Bytes read from host memory. -/
def State.hostGet (s : State) (a n : Nat) : List Byte := s.hostMem.readRun 0 a n

/-! ### MSI-X (R338, R339) -/

/-- Word `w` of MSI-X table entry `v`; at reset every entry is masked. -/
def State.msixWord (s : State) (v w : Nat) : Word :=
  s.msix.table.get (4 * v + w) (if w == 3 then 1 else 0)

/-- R339: vector `v` or the function is masked, or no message can leave. -/
def State.vectorMasked (s : State) (v : Nat) : Bool :=
  s.msix.fmask || (s.msixWord v 3).getLsbD 0 || !s.hostOk

/-- The message of vector `v` is written to host memory. -/
def State.sendMessage (s : State) (v : Nat) : State :=
  let a := (s.msixWord v 0).toNat + 2 ^ 32 * (s.msixWord v 1).toNat
  { (s.hostPut a (leBytes 4 (s.msixWord v 2).toNat)) with
    msix := { s.msix with pba := s.msix.pba &&& ~~~((1 : Word) <<< v), sent := s.msix.sent + 1 } }

/-- R339: vector `v` is signalled, or its PBA bit is set while it is masked. -/
def State.signal (s : State) (v : Nat) : State :=
  if s.vectorMasked v then { s with msix := { s.msix with pba := s.msix.pba ||| (1 <<< v) } }
  else s.sendMessage v

/-- The OR of the STAT bits of the blocks of a vector. -/
def State.vectorLevel (s : State) (v : Nat) : Bool :=
  s.pages.any fun e =>
    match pageAt e.1 with
    | some (b, _) => b.vector == v && (e.2.raw &&& e.2.irqEn) != 0
    | none => false

/-- R339: a block's vector is signalled when its OR changes from 0 to 1. -/
def State.evalVector (s : State) (v : Nat) : State :=
  let l := s.vectorLevel v
  if l == s.msix.level.getLsbD v then s
  else
    let t := { s with msix := { s.msix with level := s.msix.level ^^^ (1 <<< v) } }
    if l then t.signal v else t

/-! ### Events and errors of a block (R364, R365) -/

/-- An event sets RAW bits of a block. -/
def State.irq (s : State) (b : Blk) (i : Nat) (mask : Word) : State :=
  let p := s.page b i
  (s.putPage b i { p with raw := p.raw ||| mask }).evalVector b.vector

/-- R365: a block records an error. -/
def State.err (s : State) (b : Blk) (i code info addr : Nat) : State :=
  let p := s.page b i
  s.putPage b i { p with
    errValid := true
    errOver := p.errOver || p.errValid
    errCode := code
    errInfo := BitVec.ofNat 32 info
    errAddr := addr }

/-! ### Device addresses (R277, R284, R294) -/

/-- R293: installed DRAM in GiB. -/
def State.installedGiB (s : State) : Nat := Config.ports s.variant * (if s.part.dense then 8 else 4)

/-- R294: addressable DRAM in bytes. -/
def State.dramBytes (s : State) : Nat := (s.installedGiB - s.protEff) * 2 ^ 30

/-- R294: the effective protected size that IECC_CTRL asks for. -/
def State.protOf (s : State) : Nat :=
  let c := s.reg .memc 0 0x044
  if c.testBit 31 then min (c % 8) (s.installedGiB / 9) else 0

/-- R284: the general partition of hub SRAM in bytes. -/
def State.generalBytes (s : State) : Nat :=
  (58 - min 24 (bits (s.reg .hsram 0 0x040) 12 8) - max 8 (min 32 (bits (s.reg .raster 0 0x048) 13 8))) * 2 ^ 20

/-- R201, R215: bytes of a staging slot; SLOT_4K below 16 acts as 16. -/
def State.slotBytes (s : State) : Nat := max 16 (bits (s.reg .me 0 0x04C) 15 8) * 4096

/-- R215: virtual slots of the staging window, 16 to 1,024. -/
def State.vslots (s : State) : Nat := max 16 (min 1024 (bits (s.reg .me 0 0x04C) 27 16))

def dramBase : Nat := 0
def hubSramBase : Nat := 0x8000000000
def stagingBase : Nat := 0x10000000000
/-- R277: the base of compute die `n`'s tile memory. -/
def tmemBase (n : Nat) : Nat := 0x20000000000 + n * 0x10000000

/-- What a device address names (R277). -/
inductive Target where
  | dram | hubSram | staging | tmem (die : Nat)
  deriving DecidableEq, Repr

/-- The target that `n` bytes at address `a` lie in; none when they name nothing or an absent die. -/
def State.target (s : State) (a n : Nat) : Option Target :=
  if a + n ≤ s.dramBytes then some .dram
  else if hubSramBase ≤ a && a + n ≤ hubSramBase + s.generalBytes then some .hubSram
  else if stagingBase ≤ a && a + n ≤ stagingBase + s.vslots * s.slotBytes then some .staging
  else if tmemBase 0 ≤ a then
    let d := (a - tmemBase 0) / 0x10000000
    if d < Config.dies s.variant && (a - tmemBase d) + n ≤ 0xC000000 then some (.tmem d) else none
  else none

/-- R203: a staged row is unreturned: its return flag has not passed it. -/
def State.unreturned (s : State) (r : StageRow) : Bool :=
  !atOrAfter (match s.flags.find? (r.flag + 1) with | some f => f.gen | none => 0) r.gen

/-- R203: a staged row holds a physical slot. -/
def State.stageHeld (s : State) (r : StageRow) : Bool := !r.spilled && s.unreturned r

/-- R213: the spill area. -/
def State.spillBase (s : State) : Nat :=
  bits (s.reg .me 0 0x054) 31 16 * 2 ^ 16 + bits (s.reg .me 0 0x058) 15 0 * 2 ^ 32

/-- R203, R204: where the bytes of a staging address are held: in a physical slot, or in the slot's spill copy. -/
def State.stagePlace (s : State) (a : Nat) : Nat :=
  let off := a - stagingBase
  match s.me.window.find? (off / s.slotBytes) with
  | some r => if s.stageHeld r then a else s.spillBase + off
  | none => s.spillBase + off

/-- R204: the address lies in the staging window, whose reads are served 64 B at a time. -/
def inStaging (a : Nat) : Bool := stagingBase ≤ a && a < tmemBase 0

/-- The 64 B pieces of `[a, a + n)`, of which the first and the last may be shorter. -/
def pieces64 (a n : Nat) : List (Nat × Nat) :=
  (List.range (ceilDiv (a % 64 + n) 64)).map fun k =>
    let lo := max a (a / 64 * 64 + 64 * k)
    (lo, min (a + n) (a / 64 * 64 + 64 * (k + 1)) - lo)

/-- R204: where the bytes of `[a, a + n)` are held, in order. -/
def State.spans (s : State) (a n : Nat) : List (Nat × Nat) :=
  if inStaging a then (pieces64 a n).map fun p => (s.stagePlace p.1, p.2) else [(a, n)]

/-- Bytes read at a device address; without a matching die the staging window reads zeros (R211). -/
def State.devGet (s : State) (a n : Nat) : List Byte :=
  if inStaging a then
    (if Config.hasMe s.variant then (s.spans a n).flatMap fun p => s.mem.readRun 0 p.1 p.2 else List.replicate n 0)
  else s.mem.readRun 0 a n

/-- The words that do not lie wholly in `[a, a + n)`. -/
def keepOutside (ws : List Nat) (a n : Nat) : List Nat := ws.filter fun w => !(a ≤ 8 * w && 8 * w + 8 ≤ a + n)

/-- The words of `[a, a + n)` as the words of a copy at `b`, and those of a list outside the copy. -/
def copyWords (ws : List Nat) (a b n : Nat) : List Nat :=
  keepOutside ws b n ++ (ws.filter fun w => a ≤ 8 * w && 8 * w < a + n).map fun w => w - a / 8 + b / 8

/-- Bytes written at a device address. A word that is wholly rewritten holds no error any more (R283). -/
def State.devPut (s : State) (a : Nat) (bs : List Byte) : State :=
  { s with
    mem := s.mem.writeRun 0 a bs
    badWords := keepOutside s.badWords a bs.length
    softWords := keepOutside s.softWords a bs.length }

/-- A number of `n` bytes read at a device address. -/
def State.devNat (s : State) (a n : Nat) : Nat := leNat (s.devGet a n)

/-- R283, R295: word `w` is checked and lies in part in `[a, a + n)`. DRAM is checked only in its protected part. -/
def State.checkedIn (s : State) (a n w : Nat) : Bool :=
  a < 8 * w + 8 && 8 * w < a + n && (hubSramBase ≤ 8 * w || 8 * w < s.protEff * 8 * 2 ^ 30)

/-- The words of a list that a read of `[a, a + n)` meets and that are checked. -/
def State.meets (s : State) (ws : List Nat) (a n : Nat) : List Nat :=
  ws.filter fun w => (s.spans a n).any fun p => s.checkedIn p.1 p.2 w

/-- R283, R295: a read of `[a, a + n)` meets an uncorrectable word. -/
def State.badIn (s : State) (a n : Nat) : Bool := !(s.meets s.badWords a n).isEmpty

/-- The address of the lowest uncorrectable word that a read of `[a, a + n)` meets. -/
def State.firstBad (s : State) (a n : Nat) : Option Nat := ((s.meets s.badWords a n).map (8 * ·)).min?

/-- R294: the port that holds a DRAM device address. -/
def State.portOf (s : State) (a : Nat) : Nat := a / 256 % Config.ports s.variant

/-- R283, R284, R303: the block that counts a corrected error of the memory at a device address, its instance, the counter, and the bit
of IRQ ECC_CORR. -/
def State.eccHome (s : State) (a : Nat) : Option (Blk × Nat × Nat × Nat) :=
  match s.target a 1 with
  | some (.tmem d) => some (.tmem, d, 0x054, 0)
  | some .hubSram | some .staging => some (.hsram, 0, 0x044, 0)
  | some .dram => some (.memc, s.portOf a, 0x050, 1)
  | none => none

/-- The ECC_CORR_COUNT of a unit, which counts the corrected errors that its reads meet (R111, R112, R166, R215, R245, R275). -/
def Blk.eccCorr : Blk → Option Nat
  | .ne => some 0x07C
  | .ve | .xp => some 0x048
  | .post => some 0x054
  | .me => some 0x070
  | .raster => some 0x074
  | .disp => some 0x0D4
  | _ => none

/-- The state with every byte in `[a, a + n)` zero. -/
def State.devClear (s : State) (a n : Nat) : State :=
  { s with
    mem := s.mem.clearRun a n
    badWords := keepOutside s.badWords a n
    softWords := keepOutside s.softWords a n }

/-! ### Jobs (R19 to R22, R34) -/

/-- A job that software has never set up. -/
def Job.fresh : Job :=
  ⟨0x20000000, 0, 0x200, false, 0, 0, 0, none, 0, false, false, 0, List.replicate 32 0,
    List.replicate 32 0, false, false, [], false⟩

def State.job (s : State) (j : Nat) : Job := s.jobs.get j Job.fresh

def State.putJob (s : State) (j : Nat) (x : Job) : State := { s with jobs := s.jobs.set j x }

/-- `JOB_CFG.VALID`. -/
def Job.valid (j : Job) : Bool := j.cfg.getLsbD 31
/-- `JOB_CFG.BALANCE`. -/
def Job.balance (j : Job) : Bool := j.cfg.getLsbD 30
/-- `JOB_CFG.CLASS`, the ceiling class. -/
def Job.ceiling (j : Job) : Nat := bits j.cfg.toNat 29 28
/-- `JOB_CFG.ENGINE_MASK`. -/
def Job.mask (j : Job) : Nat := bits j.cfg.toNat 15 0
/-- `JOB_LAND.EN`. -/
def Job.landEn (j : Job) : Bool := j.land.getLsbD 31
/-- R34, R50: landing slots per engine: 0 acts as 1, values above 4 act as 4. -/
def Job.landSlots (j : Job) : Nat := max 1 (min 4 (bits j.land.toNat 11 8))
/-- `JOB_LAND.BASE_MIB`. -/
def Job.landBase (j : Job) : Nat := bits j.land.toNat 5 0

/-- R36: the engines of a job's ENGINE_MASK that are present and whose die is not lost. -/
def State.jobEngines (s : State) (j : Nat) : List Nat :=
  (List.range (Config.engines s.variant)).filter fun g =>
    (s.job j).mask.testBit g && s.dieUsable (g / 2)

/-- The dies of those engines, each once. -/
def State.jobDies (s : State) (j : Nat) : List Nat :=
  (List.range (Config.dies s.variant)).filter fun d =>
    (s.jobEngines j).any fun g => g / 2 == d

/-- A DMA channel at reset: enabled, with DRAM_CLASS 2 (R358). -/
def DmaChannel.fresh : DmaChannel := ⟨true, 2, 0⟩

/-! ### Engines -/

def Engine.fresh : Engine := ⟨[], none, 0, [], none, [], false, 0, some 0, [], [], [], false, false⟩

def State.engine (s : State) (g : Nat) : Engine := s.engines.get g Engine.fresh

def State.putEngine (s : State) (g : Nat) (e : Engine) : State := { s with engines := s.engines.set g e }

/-- The slot that holds a job's context on an engine. -/
def Engine.slotOf (e : Engine) (job : Nat) : Option CtxSlot := e.slots.find? fun c => c.job == job

def AccRow.fresh : AccRow := ⟨false, false, []⟩

/-- Accumulator row `r` of context slot `k` (R81). -/
def Engine.row (e : Engine) (k r : Nat) : AccRow := SMap.get e.acc (512 * k + r) AccRow.fresh

def Engine.putRow (e : Engine) (k r : Nat) (x : AccRow) : Engine :=
  { e with acc := SMap.set e.acc (512 * k + r) x }

def StatSlot.fresh : StatSlot := ⟨false, 0, false, 0, 0, 0⟩

/-- Statistic slot `k` (R85). -/
def Engine.stat (e : Engine) (k : Nat) : StatSlot := SMap.get e.stats k StatSlot.fresh

/-! ### Windows (R88, R281) -/

/-- The window register of a job on a die: 0 EWIN0, 1 EWIN1, 2 DWIN. -/
def State.window (s : State) (die job which : Nat) : Word := s.windows.get (die * 256 + job * 4 + which) 0

/-- `EN` of a window register. -/
def windowEn (w : Word) : Bool := w.getLsbD 31
/-- SIZE in bytes. -/
def windowBytes (w : Word) : Nat := bits w.toNat 20 10 * 65536
/-- BASE in bytes within its bank group. -/
def windowStart (w : Word) : Nat := bits w.toNat 9 0 * 65536

/-- R88: the device address that `n` bytes at window address `a` lie at, for a job on an engine. -/
def State.resolve (s : State) (engine job a n : Nat) : Option Nat :=
  let die := engine / 2
  let isDie := a.testBit 27
  let which := if isDie then 2 else engine % 2
  let w := s.window die job which
  let off := a % 2 ^ 27
  if windowEn w && off + n ≤ windowBytes w then
    some (tmemBase die + which * 0x4000000 + windowStart w + off)
  else none

/-- R281: `n` bytes of tile memory at a device address lie within a window of the job on that die. -/
def State.inJobWindow (s : State) (job die a n : Nat) : Bool :=
  [0, 1, 2].any fun which =>
    let w := s.window die job which
    let lo := tmemBase die + which * 0x4000000 + windowStart w
    windowEn w && lo ≤ a && a + n ≤ lo + windowBytes w

/-- Ticks of the 100 MHz time base in a microsecond and a millisecond. -/
def usTicks : Nat := 100
def msTicks : Nat := 100000

/-- R441: the management cores restart, which takes 2 ms. -/
def State.restarting (s : State) : Bool := s.lastFw.any fun t => !timeReached s.now (t + 2 * msTicks)

/-- R441, R463, R464: the firmware functions pause: the management cores restart, or debug holds one of them (which core serves which
function is not given; DESIGN CHOICE, assumption 71). -/
def State.fwPaused (s : State) : Bool := s.restarting || !s.dbg.halted.isEmpty

/-! ### The device state (R378, R379) -/

/-- The device state changes: IRQ STATE_CHANGE (R372), and SMB_ALERT_N (R481). -/
def State.setDevState (s : State) (d : Nat) : State :=
  if s.devState == d then s
  else { s with devState := d, pins := { s.pins with smbAlert := true } }.irq .hubSys 0 0b01

/-- R378: a job is valid, or DISP is enabled. -/
def State.busy (s : State) : Bool := (s.jobs.any fun e => e.2.valid) || (s.page .disp 0).enable

/-- R380: READY and LIVE follow from what is valid and enabled. -/
def State.settleState (s : State) : State :=
  if s.devState == 3 || s.devState == 4 then s.setDevState (if s.busy then 4 else 3) else s

/-- R379: the page of a block answers in the present state of the device. -/
def State.pageAnswers (s : State) (b : Blk) : Bool :=
  match s.devState with
  | 2 => b == .hubSys || b == .hif || b == .sec
  | 3 | 4 | 5 => true
  | 6 => b == .hubSys || b == .hif || b == .cfe || b == .sec
  | _ => false

/-- R2, R371, R379: accesses to a page act. -/
def State.answers (s : State) (b : Blk) (i : Nat) : Bool := s.pageAnswers b && s.blockPresent b i

/-- A write from the host reaches a page: the PCIe tunnel is up (R326). -/
def State.hostWrites (s : State) (b : Blk) (i : Nat) : Bool := s.link.pcieUp && s.answers b i

/-- R366: software has written an RW field of a page. -/
def State.touch (s : State) (b : Blk) (i : Nat) : State := s.putPage b i { s.page b i with src := 2 }

/-- What a write from the host does, when it reaches its page. -/
def State.host (s : State) (b : Blk) (i : Nat) (f : State → State) : State :=
  if s.hostWrites b i then f (s.touch b i) else s

/-- The same for a register without an RW field, whose write leaves SRC as it is (R366). -/
def State.hostWo (s : State) (b : Blk) (i : Nat) (f : State → State) : State := if s.hostWrites b i then f s else s

/-! ### The board window (R485) -/

/-- R485: the reset values of the board window's registers. -/
def bwReset : Nat → Nat
  | 0x00 => 0x00575A38
  | 0x03 => 0x0A
  | 0x05 => 0x05050505
  | 0x06 => 0x0505
  | _ => 0

/-- The stored value of a register of the board window. -/
def State.bwReg (s : State) (k : Nat) : Nat := (s.bw.get k (BitVec.ofNat 32 (bwReset k))).toNat

/-! ### Welt modules (R290, R292) -/

def WeltModule.fresh : WeltModule := ⟨0, 0, 0, 0⟩

def State.module (s : State) (m : Nat) : WeltModule := s.welt.get m WeltModule.fresh

def State.putModule (s : State) (m : Nat) (x : WeltModule) : State := { s with welt := s.welt.set m x }

/-- Module `m` is being trained. -/
def State.training (s : State) (m : Nat) : Bool := (s.module m).state == 1

/-- Neither hub module of die `n` is UP, and one is being trained. -/
def State.dieCut (s : State) (n : Nat) : Bool :=
  (s.module (2 * n)).state != 2 && (s.module (2 * n + 1)).state != 2 && (s.training (2 * n) || s.training (2 * n + 1))

/-- R291, R302: the state of a route, which is the least of its modules': 2 UP, 1 held while one is trained, 0 DOWN. -/
def State.pathState (s : State) (ms : List Nat) : Nat := ms.foldl (fun k m => min k (s.module m).state) 2

/-- R291: the route between the hub and compute die `n`, over either module of the pair. -/
def State.hubRoute (s : State) (n : Nat) : Nat := max (s.pathState [2 * n]) (s.pathState [2 * n + 1])

/-- R290: the ring modules from die `a` to die `b` in the direction of rising numbers, of `n` dies. -/
def ringPath (n a b : Nat) : List Nat := (List.range ((b + n - a) % n)).map fun k => 16 + (a + k) % n

/-- R291: the route between two compute dies: either direction of the ring, or through the hub. -/
def State.dieRoute (s : State) (a b : Nat) : Nat :=
  if a == b then 2
  else
    let n := max 1 (Config.dies s.variant)
    max (max (s.pathState (ringPath n a b)) (s.pathState (ringPath n b a))) (min (s.hubRoute a) (s.hubRoute b))

/-- R291: the route of a transfer between a target and compute die `n`. -/
def State.routeTo (s : State) (t : Target) (n : Nat) : Nat :=
  match t with
  | .tmem d => s.dieRoute d n
  | _ => s.hubRoute n

/-- R291: the route to the matching die. -/
def State.meRoute (s : State) : Nat := s.pathState [24]

/-- The power manager runs. -/
def State.powered (s : State) : Bool := 3 ≤ s.devState && s.devState ≤ 5

/-- R374: STATE of compute die `k`, or of the matching die for 8. -/
def State.dieState (s : State) (k : Nat) : Nat :=
  if k < 8 then bits (s.reg .cdSys k 0x040) 31 30 else bits (s.reg .mdSys 0 0x040) 31 30

/-- R367: the die or island of the block is not powered or not up. -/
def State.blockOff (s : State) (b : Blk) (i : Nat) : Bool :=
  match b with
  | .ne => s.dieState (i / 2) != 2
  | .post => s.dieState i != 2
  | .me => s.dieState 8 != 2
  | _ => !s.powered

/-! ### Performance counters (R448 to R453) -/

def Ctr.fresh : Ctr := ⟨0, 0, false, 0, false⟩

/-- R453: the value at which a counter stays. -/
def ctrTop : Nat := 2 ^ 48 - 1

/-- The DIE code of a page (R363): of the die whose PERF block counts its events. -/
def Blk.dieCode (b : Blk) (i : Nat) : Nat :=
  let r := b.base i / 0x400000
  if r == 0 then 0x40 else if r == 10 then 0x80 else r - 1

/-- R448: the page index of a block within its die region. -/
def Blk.pageIndex (b : Blk) (i : Nat) : Nat := b.base i % 0x400000 / 0x1000

/-- Where counter `k` of a page index of a die is kept. -/
def ctrKey (die page k : Nat) : Nat := (die * 64 + page) * 8 + k

def State.ctr (s : State) (key : Nat) : Ctr := s.ctrs.get key Ctr.fresh

def State.putCtr (s : State) (key : Nat) (c : Ctr) : State := { s with ctrs := s.ctrs.set key c }

/-- R451: the pulse events of a block from 0x10 on. -/
def Blk.pulses : Blk → Nat
  | .cfe | .dma | .disp | .xp | .post => 2
  | .sched | .memc | .ne => 5
  | .hsram | .raster | .ingest | .tmem | .me => 3
  | .welt => 4
  | .ve => 1
  | _ => 0

/-- R451: the state events of a block from 0x20 on. -/
def Blk.states : Blk → Nat
  | .cfe | .dma | .disp | .ingest | .welt | .tmem | .post => 1
  | .sched | .raster | .memc | .xp | .me => 2
  | .ve => 3
  | .ne => 6
  | _ => 0

/-- R451: a code that counts something in a block. -/
def Blk.listed (b : Blk) (e : Nat) : Bool := e < 2 || (0x10 ≤ e && e < 0x10 + b.pulses) || (0x20 ≤ e && e < 0x20 + b.states)

/-- The events whose every occurrence is one of the model's steps: pulse events, and with MODE 0 the beginnings of states that State
holds. How often the others occur depends on timing that the model does not hold: their counts are free values (assumption 59). -/
def Blk.exactEvent (b : Blk) (e : Nat) (edge : Bool) : Bool :=
  match b with
  | .cfe | .disp => e == 0x10 || e == 0x11 || (edge && e == 0x20)
  | .sched => 0x10 ≤ e && e ≤ 0x14
  | .dma | .xp | .post => e == 0x10 || e == 0x11
  | .hsram => e == 0x12
  | .raster => e == 0x10 || e == 0x12 || (edge && (e == 0x20 || e == 0x21))
  | .ingest => (0x10 ≤ e && e ≤ 0x12) || (edge && e == 0x20)
  | .memc => e == 0x13
  | .welt => e == 0x12 || e == 0x13 || (edge && e == 0x20)
  | .tmem => e == 0x11 || e == 0x12
  | .ne => 0x11 ≤ e && e ≤ 0x14
  | .ve => e == 0x10 || (edge && e == 0x21)
  | .me => (0x10 ≤ e && e ≤ 0x12) || (edge && (e == 0x20 || e == 0x21))
  | _ => false

/-- R449, R450, R452: a counter of a block counts an event whose count the model does not hold. -/
def Ctr.isOpen (c : Ctr) (b : Blk) : Bool :=
  let e := c.cfg % 256
  c.cfg.testBit 31 && !c.ovf && b.listed e && !b.exactEvent e (!c.cfg.testBit 30) &&
    (!c.cfg.testBit 29 || (0x10 ≤ e && [Blk.sched, .dma, .ne, .ve, .xp, .post, .me].contains b) ||
      (b == .raster && e == 0x11))

/-- R449, R450, R452: the counter counts an event of a command of a job, or of none. With MODE 1 a state event counts cycles, not its
beginnings. -/
def Ctr.counts (c : Ctr) (event : Nat) (job : Option Nat) : Bool :=
  c.cfg.testBit 31 && c.cfg % 256 == event && (!c.cfg.testBit 29 || job == some (bits c.cfg 21 16)) &&
    (event < 0x20 || !c.cfg.testBit 30)

/-- R450: a block is unpowered: its die or the device is, or it is an engine that is power-gated (R107). -/
def State.unpowered (s : State) (b : Blk) (i : Nat) : Bool :=
  match b with
  | .ne | .ve | .xp => s.dieState (i / 2) < 2 || (s.engine i).gated
  | .tmem | .post => s.dieState i < 2
  | .me => s.dieState 8 < 2
  | _ => s.devState < 2

/-- R453: a counter saturates: OVF, and IRQ OVF. -/
def State.saturate (s : State) (die key : Nat) : State :=
  (s.putCtr key { s.ctr key with count := ctrTop, ovf := true }).irq .perf die 0b01

/-- R450: `n` events of a block, which belong to a command of a job or to none; none is counted while the block is unpowered. -/
def State.pulse (s : State) (b : Blk) (i event n : Nat) (job : Option Nat) : State :=
  let die := b.dieCode i
  if s.unpowered b i then s
  else (List.range 8).foldl (fun (t : State) k =>
    let key := ctrKey die (b.pageIndex i) k
    let c := t.ctr key
    if n == 0 || c.ovf || !c.counts event job then t
    else if ctrTop ≤ c.count + n then t.saturate die key
    else t.putCtr key { c with count := c.count + n }) s

/-- R450: a state of a block holds that may have held `before`: its beginning is an event. -/
def State.edge (s : State) (b : Blk) (i event : Nat) (before : Bool) (job : Option Nat) : State :=
  if before then s else s.pulse b i event 1 job

/-- R452: a command of a job runs in a block: a counter of that job whose event's count the model does not hold may count from now on. Until then
it is 0, which its stored count of 0 tells. -/
def State.ranFor (s : State) (b : Blk) (i job : Nat) : State :=
  (List.range 8).foldl (fun (t : State) k =>
    let key := ctrKey (b.dieCode i) (b.pageIndex i) k
    let c := t.ctr key
    if c.isOpen b && c.cfg.testBit 29 && bits c.cfg 21 16 == job && c.count == 0 then t.putCtr key { c with count := 1 } else t) s

/-! ### Free values -/

/-- The next free value, and the state whose count has moved past it. -/
def State.free (s : State) : Nat × State :=
  (Config.freeValue s.freeCount, { s with freeCount := s.freeCount + 1 })

/-- R9: a change that software must not make here either takes or does not, by a free value. The device puts nothing of its own in its
place, so that it names no buffer that software has not named (assumptions 10 and 11). -/
def State.mayTake (s : State) (f : State → State) : State :=
  let x := s.free
  if x.1.testBit 0 then f x.2 else x.2

end Sys2Proof.Machine
end

