-- ==== Sys2Proof/Machine/Flags.lean ====
section
/-!
DEFINITION. The hardware flag table (R286 to R289, R432): reads, waits, advances, and poison.
-/

-- One declaration at a time: the threads of a parallel elaboration take memory together.
set_option Elab.async false

namespace Sys2Proof.Machine

def FlagEntry.fresh : FlagEntry := ⟨0, false, 0, false⟩

/-- Flag `f`; every flag reads 0 after a device reset (R288). -/
def State.flag (s : State) (f : Nat) : FlagEntry := s.flags.get f FlagEntry.fresh

/-- R287: a wait on flag `f` for `gen` is satisfied. -/
def State.flagReached (s : State) (f : Nat) (gen : Word) : Bool := atOrAfter (s.flag f).gen gen

/-- Flag `f` set. A staged row that its return flag has now passed is returned for good: the window forgets it (R203, R204). -/
def State.putFlag (s : State) (f : Nat) (e : FlagEntry) : State :=
  let t := { s with flags := s.flags.set f e }
  { t with me := { t.me with window := t.me.window.filter fun r => t.unreturned r.2 } }

/-- R286, R432: flag `f` advances by `n` modulo 2^32 for a job; an advance to a poisoned flag is discarded. -/
def State.advance (s : State) (job f n : Nat) : State :=
  let e := s.flag f
  if e.poison then s
  else s.putFlag f ⟨e.gen + BitVec.ofNat 32 n, true, job, false⟩

/-- R288: software sets flag `f`: PRODUCED and any poison clear. -/
def State.writeFlag (s : State) (f : Nat) (v : Word) : State :=
  s.putFlag f ⟨v, false, (s.flag f).producer, false⟩

/-- R432: an uncorrectable error poisons flag `f`. -/
def State.poisonFlag (s : State) (f : Nat) : State :=
  { s with flags := s.flags.set f { s.flag f with poison := true } }

end Sys2Proof.Machine
end

