-- ==== Sys2Proof/Machine/Operands.lean ====
section
/-!
DEFINITION. The operands of a packet (R16, R17, R87 to R89): its common fields, its unit, its tile, its waits
and the flags it was compiled to advance.
-/

-- One declaration at a time: the threads of a parallel elaboration take memory together.
set_option Elab.async false

namespace Sys2Proof.Machine

/-- A field of a packet: `n` bytes from byte `off`, little-endian (R16). -/
def pktNum (p : Packet) (off n : Nat) : Nat := (p.toNat >>> (8 * off)) % 2 ^ (8 * n)

/-- A field of a command's packet. -/
def Cmd.num (c : Cmd) (off n : Nat) : Nat := pktNum c.pkt off n

/-- The bytes of a packet. -/
def pktBytes (p : Packet) : List Byte := leBytes 64 p.toNat

/-- OPCODE of R16. -/
def pktOpcode (p : Packet) : Nat := pktNum p 0 2
def Cmd.opcode (c : Cmd) : Nat := pktOpcode c.pkt
/-- FLAGS of R16. -/
def pktFlags (p : Packet) : Nat := pktNum p 3 1
def Cmd.lastInStep (c : Cmd) : Bool := (pktFlags c.pkt).testBit 5
def Cmd.digest (c : Cmd) : Bool := (pktFlags c.pkt).testBit 3
def Cmd.fenceOut (c : Cmd) : Bool := (pktFlags c.pkt).testBit 2
def Cmd.fenceIn (c : Cmd) : Bool := (pktFlags c.pkt).testBit 1
def Cmd.vFlag (c : Cmd) : Bool := (pktFlags c.pkt).testBit 0

/-- The executors of R17. -/
inductive OpUnit where
  | ctl | ne | ve | post | xp | dma | me | raster | disp | power | audit
  deriving DecidableEq, Repr

/-- R17: the executor of an OPCODE; none when it names no operation. -/
def opUnit (op : Nat) : Option OpUnit :=
  let o := op % 4096
  match op / 4096 with
  | 0 => if 1 ≤ o && o ≤ 4 then some .ctl else none
  | 1 => if 1 ≤ o && o ≤ 5 then some .ne else none
  | 2 => if 1 ≤ o && o ≤ 8 then some .ve else if o == 0x801 || o == 0x802 then some .post else none
  | 3 => if 1 ≤ o && o ≤ 5 then some .xp else none
  | 4 => if o == 1 then some .dma else none
  | 5 => if 1 ≤ o && o ≤ 2 then some .me else none
  | 6 => if 1 ≤ o && o ≤ 5 then some .raster else none
  | 7 => if 1 ≤ o && o ≤ 3 then some .disp else none
  | 8 => if o == 1 then some .power else none
  | 9 => if 1 ≤ o && o ≤ 2 then some .audit else none
  | _ => none

def Cmd.unit (c : Cmd) : Option OpUnit := opUnit c.opcode

/-- Whether the bytes 8-19 of a command follow R87. -/
def Cmd.commonWait (c : Cmd) : Bool :=
  match c.unit with
  | some .ne | some .ve | some .xp | some .post | some .raster => true
  | some .disp => c.opcode == 0x7003
  | _ => false

/-- R24, R221, R268, R340: the tile index a command carries, 0xFFFF for none. -/
def Cmd.tile (c : Cmd) : Nat := if c.commonWait then c.num 8 2 else 0xFFFF

/-- Byte 10 [3:0] of R87: the compiled engine. -/
def Cmd.compiledEngine (c : Cmd) : Nat := c.num 10 1 % 16

/-- Where a command's WAIT field starts, if it has one (R87, R340). -/
def Cmd.waitOffset (c : Cmd) : Option Nat :=
  if c.commonWait then some 12 else if c.unit == some .dma then some 20 else none

/-- The flag and generation of a command's WAIT, when enabled; of a FLAG_WAIT, its operands (R27). -/
def Cmd.wait (c : Cmd) : Option (Nat × Word) :=
  if c.opcode == 0x0002 then some (c.num 8 2 % 4096, BitVec.ofNat 32 (c.num 12 4))
  else match c.waitOffset with
    | some o =>
      if (c.num o 2).testBit 15 then some (c.num o 2 % 4096, BitVec.ofNat 32 (c.num (o + 4) 4)) else none
    | none => none

/-- The flag of a command's ADV, when enabled. -/
def Cmd.adv (c : Cmd) : Option Nat :=
  match c.waitOffset with
  | some o => if (c.num (o + 2) 2).testBit 15 then some (c.num (o + 2) 2 % 4096) else none
  | none => none

/-- Whether a command runs in a context of an engine. -/
def Cmd.onEngine (c : Cmd) : Bool :=
  match c.unit with
  | some .ne | some .ve | some .xp => true
  | _ => false

/-- Whether a command belongs to a tile group when it is in a step (R24, R52). -/
def Cmd.tiled (c : Cmd) : Bool := c.step.isSome && !c.rejected && c.tile != 0xFFFF

/-- R87: byte 20-23 FETCH of an engine command: the window address of its fetch descriptor. -/
def Cmd.fetchAt (c : Cmd) : Option Nat :=
  if (c.onEngine || c.unit == some .post) && (c.num 20 4).testBit 31 then some (c.num 20 4 % 2 ^ 28) else none

/-- A format and window address field (R94, R99): [31:28] format, [27:0] address. -/
def Cmd.fmtField (c : Cmd) (off : Nat) : Nat := c.num off 4 / 2 ^ 28
def Cmd.addrField (c : Cmd) (off : Nat) : Nat := c.num off 4 % 2 ^ 28

/-- R501, R91: of several failing checks the one with the numerically lowest CAUSE. -/
def lowestCause : List (Status × Nat) → Option (Status × Nat)
  | [] => none
  | x :: xs =>
    match lowestCause xs with
    | none => some x
    | some y => if x.2 ≤ y.2 then some x else some y

/-- One failing check. -/
def failIf (b : Bool) (st : Status) (cause : Nat) : List (Status × Nat) := if b then [(st, cause)] else []

/-- RSVD bits of the common bytes 8-19 or 8-23 of R87 are zero. -/
def Cmd.commonRsvd (c : Cmd) (fetch : Bool) : Bool :=
  c.num 10 1 / 16 == 0 && c.num 11 1 == 0 && bits (c.num 12 2) 14 12 == 0 && bits (c.num 14 2) 14 12 == 0 &&
    (if fetch then bits (c.num 20 4) 30 28 == 0 else c.num 20 4 == 0)

end Sys2Proof.Machine
end

