-- ==== Sys2Proof/Machine/FrameOps.lean ====
section
/-!
DEFINITION. The canvas configuration in force and the tile state tables (R66 to R69, R247 to R254). A table is
kept in DRAM; the live copy on chip and the DRAM copy are one (DESIGN CHOICE, assumption 12).
-/

-- One declaration at a time: the threads of a parallel elaboration take memory together.
set_option Elab.async false

namespace Sys2Proof.Machine

/-- A display register of the configuration in force. -/
def State.dcfg (s : State) (off : Nat) : Nat :=
  match s.disp.active.find? (Blk.disp.base 0 + off) with
  | some v => v.toNat
  | none => s.resetValue .disp 0 off

/-- An address held in a _LO and _HI pair of the layout of `ME.SPILL_BASE`. -/
def pairAddr (lo hi : Nat) : Nat := bits lo 31 16 * 2 ^ 16 + bits hi 15 0 * 2 ^ 32

def State.canvasW (s : State) : Nat := bits (s.dcfg 0x04C) 31 16
def State.canvasH (s : State) : Nat := bits (s.dcfg 0x04C) 15 0
/-- R247: the number of canvas buffers. -/
def State.buffers (s : State) : Nat := if bits (s.dcfg 0x050) 2 0 == 4 then 4 else 3
def State.canvasJobEn (s : State) : Bool := (s.dcfg 0x050).testBit 14
def State.canvasJob (s : State) : Nat := bits (s.dcfg 0x050) 13 8
/-- R248: WINDOW layout. -/
def State.windowLayout (s : State) : Bool := (s.dcfg 0x050).testBit 4
def State.canvasBase (s : State) : Nat := pairAddr (s.dcfg 0x054) (s.dcfg 0x058)
def State.canvasPitch (s : State) : Nat := s.dcfg 0x05C
def State.bufStride (s : State) : Nat := s.dcfg 0x060
def State.stateBase (s : State) : Nat := pairAddr (s.dcfg 0x064) (s.dcfg 0x068)
def State.storeBase (s : State) : Nat := pairAddr (s.dcfg 0x0DC) (s.dcfg 0x0E0)
/-- R275: tile store slots, 16 to 256. -/
def State.storeSlots (s : State) : Nat := max 16 (min 256 (bits (s.dcfg 0x0E4) 8 0))
/-- R24: the canvas width and height in tiles of 256 by 256. -/
def State.columns (s : State) : Nat := ceilDiv s.canvasW 256
def State.rows (s : State) : Nat := ceilDiv s.canvasH 256
def State.tileCount (s : State) : Nat := s.columns * s.rows
/-- R251: the line time is `lineNum / lineDen` ticks of 10 ns. -/
def State.lineNum (s : State) : Nat := bits (s.dcfg 0x06C) 31 16 * 100000
def State.lineDen (s : State) : Nat := max 1 (s.dcfg 0x07C)
def State.hActive (s : State) : Nat := bits (s.dcfg 0x06C) 15 0
def State.vActive (s : State) : Nat := bits (s.dcfg 0x070) 15 0
def State.vTotal (s : State) : Nat := bits (s.dcfg 0x070) 31 16

/-- The tile state table of frame `f`'s buffer. -/
def State.table (s : State) (f : Nat) : Nat := s.stateBase + f % s.buffers * 16384

/-- R69: a header field of the table of frame `f`. -/
def State.head (s : State) (f off n : Nat) : Nat := s.devNat (s.table f + off) n

/-- R69: a header field written. -/
def State.putHead (s : State) (f off n v : Nat) : State := s.devPut (s.table f + off) (leBytes n v)

/-- R66: tile entry `t` of the table of frame `f`. -/
def State.entry (s : State) (f t : Nat) : Nat := s.devNat (s.table f + 64 + 8 * t) 8

/-- R66: a tile entry written. -/
def State.putEntry (s : State) (f t v : Nat) : State := s.devPut (s.table f + 64 + 8 * t) (leBytes 8 v)

/-- Bits `[hi:lo]` of `x` replaced by `v`. -/
def setBits (x hi lo v : Nat) : Nat :=
  x - (bits x hi lo) <<< lo + (v % 2 ^ (hi + 1 - lo)) <<< lo

/-- R67: STATE of a tile entry. -/
def entryState (e : Nat) : Nat := bits e 63 60

/-- R67: the state of a tile entry set. -/
def State.setTileState (s : State) (f t st : Nat) : State :=
  s.putEntry f t (setBits (s.entry f t) 63 60 st)

/-- BOUND of the header of frame `f`'s buffer, when that buffer holds frame `f`. -/
def State.boundHeader (s : State) (f : Nat) : Bool :=
  s.head f 0 8 == f && (s.head f 27 1).testBit 4

/-- R254: scan-out of frame `f` has ended; frames before 0 count as ended. -/
def State.scanEnded (s : State) (f : Int) : Bool := f < (s.disp.scanned : Int)

/-- R53, R254: scan-out of frame G - B + 1 has ended. -/
def State.directPath (s : State) (g : Nat) : Bool :=
  s.scanEnded ((g : Int) - (s.buffers : Int) + 1)

/-- R51: the frame a STEP_OPEN of the canvas job is bound to, if any. In HOLD none is bound, also where the entry was published before (DESIGN
CHOICE, assumption 72). -/
def State.bindable (s : State) (job deadline pitch tiles : Nat) : Option Nat :=
  if s.canvasJobEn && s.canvasJob == job && (s.job job).ceiling == 0 && tiles == s.tileCount &&
      s.disp.running && !s.disp.hold then
    (s.disp.entries.find? fun e =>
      s.disp.begun ≤ e.frame && e.published && e.deadline == deadline && e.rowPitch == pitch &&
        !(s.disp.bound.any fun b => b.1 == e.frame)).map (·.frame)
  else none

/-- R268: the frame of a canvas tile whose row is `r` by `columns` tiles. -/
def State.rowOf (s : State) (t : Nat) : Nat := t / max 1 s.columns

/-- `n` bytes of DRAM, 64 B aligned. -/
def State.dramRange (s : State) (a n : Nat) : Bool := a % 64 == 0 && s.target a n == some .dram

/-- `n` bytes at a device address, 64 B aligned. -/
def State.devRange (s : State) (a n : Nat) : Bool := a % 64 == 0 && a < 2 ^ 48 && (s.target a n).isSome

/-- R269: a tile store slot that holds no tile. -/
def State.freeStoreSlot (s : State) : Option Nat :=
  (List.range s.storeSlots).find? fun k => !(s.disp.store.any fun t => t.slot == k)

/-- R269: the tile store slots that hold no tile. -/
def State.freeStoreSlots (s : State) : Nat := s.storeSlots - s.disp.store.length

end Sys2Proof.Machine
end

