-- ==== Sys2Proof/Machine/Trace.lean ====
section
/-!
DEFINITION. The trace unit (R457 to R459), the fault log (R444) and the TAINT of an adapter directory (R187):
what a command's life leaves in memory besides its own effect.
-/

-- One declaration at a time: the threads of a parallel elaboration take memory together.
set_option Elab.async false

namespace Sys2Proof.Machine

/-- The block that reports for a command, for its trace records (R458). -/
def State.unitBlock (s : State) (c : Cmd) : Blk × Nat :=
  let g := match s.groups.find? fun x => some x.step == c.step && x.tile == c.tile && x.live with
    | some x => x.engine
    | none => c.compiledEngine
  match c.unit with
  | some .ne => (.ne, g)
  | some .ve => (.ve, g)
  | some .xp => (.xp, g)
  | some .post => (.post, c.compiledEngine / 2)
  | some .dma => (.dma, 0)
  | some .me => (.me, 0)
  | some .raster => (.raster, 0)
  | some .disp => (.disp, 0)
  | some .power => (.pwr, 0)
  | some .audit => (.sec, 0)
  | _ => (.sched, 0)

/-- R458: STEP_ID of the step of a command, to which its STEP_OPEN belongs too (R23, R26); 0 outside a step. -/
def State.stepIdOf (s : State) (c : Cmd) : Nat :=
  match s.steps.find? fun x => some x.uid == c.step || (c.step.isNone && x.uid == c.uid) with
  | some x => x.stepId
  | none => 0

/-- R459: what the trace unit's buffer holds now, in hundredths of a record: it writes 16 records a µs, the most that R459 gives it (DESIGN
CHOICE, assumption 73). -/
def State.traceHolds (s : State) : Nat := s.traceFill - 16 * ticksSince s.now s.traceAt

/-- R457, R459: a trace record of a command: kind 0 ACCEPT, 1 ADMIT, 2 START, 3 COMPLETE. It is dropped while the ring is full, or the buffer
of 128 records. -/
def State.trace (s : State) (c : Cmd) (kind status cause : Nat) : State :=
  let ctrl := s.reg .perf 0x40 0x080
  let jobs := s.reg .perf 0x40 0x090 + 2 ^ 32 * s.reg .perf 0x40 0x094
  if !ctrl.testBit 31 || !ctrl.testBit kind || !(s.reg .perf 0x40 0x08C).testBit c.apt ||
      !jobs.testBit c.job then s
  else
    let size := 2 ^ max 8 (min 20 (bits ctrl 28 24))
    let prod := s.reg .perf 0x40 0x098
    let cons := s.reg .perf 0x40 0x09C
    if size ≤ (prod + 2 ^ 32 - cons) % 2 ^ 32 || 12700 < s.traceHolds then
      { (s.bump .perf 0x40 0x0A0 1) with traceGap := true }.irq .perf 0x40 0b100
    else
      let u := s.unitBlock c
      let bs := leBytes 8 s.now ++ leBytes 4 c.seq.toNat ++
        leBytes 1 (kind + (if c.replay then 64 else 0) + (if s.traceGap then 128 else 0)) ++
        leBytes 1 c.apt ++ leBytes 1 c.job ++ leBytes 1 (if kind == 3 then status else 0) ++
        leBytes 2 c.opcode ++ leBytes 1 (if kind == 0 then 0 else u.1.code) ++
        leBytes 1 (if kind == 0 then 0 else u.2) ++ leBytes 2 c.tile ++
        leBytes 1 (if kind == 3 then cause else 0) ++ [0] ++ leBytes 4 (s.stepIdOf c) ++ [0, 0, 0, 0]
      let a := pairAddr (s.reg .perf 0x40 0x084) (s.reg .perf 0x40 0x088) + prod % size * 32
      { ((s.devPut a bs).setReg .perf 0x40 0x098 (prod + 1)) with
        traceGap := false, traceFill := s.traceHolds + 100, traceAt := s.now }

/-- R452, R457: a command starts. -/
def State.starts (s : State) (c : Cmd) : State :=
  let u := s.unitBlock c
  (s.trace c 2 0 0).ranFor u.1 u.2 c.job

/-- R363: BLK_ID of a page, whether or not its unit is still present. -/
def Blk.idOf (b : Blk) (i : Nat) : Nat :=
  let inst := match b with
    | .perf => if i < 8 then i else 0
    | _ => i
  let die := match b with
    | .cdSys | .tmem | .post => i
    | .ne | .ve | .xp => i / 2
    | .perf => i
    | .mdSys | .me => 0x80
    | _ => 0x40
  b.code * 2 ^ 24 + inst * 2 ^ 16 + die * 2 ^ 8

/-- The offset of the counter of a fault class in the FAULT page (R447). -/
def classCounter : Nat → Option Nat
  | 1 => some 0x07C
  | 2 => some 0x080
  | 4 => some 0x084
  | 3 => some 0x088
  | _ => none

/-- The interrupt bits of FAULT that an entry of a class sets: LOG, and CMD_FAULT or BLOCK_FAULT (R446). -/
def classIrq : Nat → Word
  | 1 => 0b00011
  | 2 => 0b00101
  | 4 => 0b01001
  | 6 => 0b10001
  | _ => 0b00001

/-- R444: a fault log entry of a fault detected at `time` is written: on chip, to DRAM where LOG_BASE is set, and counted; `us` is the
interruption in µs. -/
def State.logFaultAt (s : State) (time : Nat) (b : Blk) (i cls action addr commands moved us : Nat) : State :=
  if cls == 0 && !(s.reg .fault 0 0x044).testBit 1 then s
  else
    let p := s.page b i
    let h := s.reg .fault 0 0x04C
    let bs := leBytes 8 time ++ leBytes 4 (b.idOf i) ++ leBytes 1 cls ++ leBytes 1 action ++
      leBytes 2 p.errCode ++ leBytes 8 addr ++ leBytes 4 p.errInfo.toNat ++
      leBytes 2 (min commands 0xFFFF) ++ leBytes 1 (min moved 255) ++ leBytes 1 (min (us / 10) 255)
    let base := pairAddr (s.reg .fault 0 0x074) (s.reg .fault 0 0x078)
    let s1 := if base == 0 then s else s.devPut (base + h % 2048 * 32) bs
    let s2 := { s1 with log := s1.log.set (h % 256) bs }
    let s3 := s2.setReg .fault 0 0x04C (h + 1)
    let s4 := s3.setReg .fault 0 0x040 (setBits (s3.reg .fault 0 0x040) 7 0 cls)
    let s5 := match classCounter cls with
      | some o => s4.bump .fault 0 o 1
      | none => s4
    (s5.bumpMax .fault 0 0x090 us 0xFFFFFFFF).irq .fault 0 (classIrq cls)

/-- R444: the entry of a fault detected now. -/
def State.logFault (s : State) (b : Blk) (i cls action addr commands moved us : Nat) : State :=
  s.logFaultAt s.now b i cls action addr commands moved us

/-! ### Corrected errors (R283, R295, R428, R444) -/

/-- R283: the single-bit error in word `w` is corrected, written back, counted, and logged where LOG_CORR is set. -/
def State.correctWord (s : State) (w : Nat) : State :=
  let t := { s with softWords := s.softWords.filter (· != w) }
  (s.eccHome (8 * w)).elim t fun (b, i, off, irq) =>
    -- R451: of TMEM and HSRAM; MEMC counts the corrections of its link instead
    let u := if b == .memc then t else t.pulse b i 0x12 1 none
    ((u.bump b i off 1).irq b i (1 <<< irq)).logFault b i 0 0 (8 * w) 0 0 0

/-- A unit counts a corrected error that it has seen: its counter, and IRQ ECC_CORR; DISP has the counter alone. -/
def State.unitCorr (s : State) (b : Blk) (i : Nat) : State :=
  match b.eccCorr with
  | some off => if b == .disp then s.bump b i off 1 else (s.bump b i off 1).irq b i 0b10
  | none => s

/-- R283, R295: a read of a range by a unit corrects and counts the single-bit errors that it meets. -/
def State.correctRead (s : State) (b : Blk) (i a n : Nat) : State :=
  (s.meets s.softWords a n).foldl (fun (t : State) w => (t.correctWord w).unitCorr b i) s

/-- The same for a list of ranges. -/
def State.correctReads (s : State) (b : Blk) (i : Nat) (rs : List (Nat × Nat)) : State :=
  rs.foldl (fun (t : State) r => t.correctRead b i r.1 r.2) s

/-- The device addresses of the directories of a job, one on each die of its ENGINE_MASK, the lowest die's first
(R134, R136). -/
def State.dirBases (s : State) (job : Nat) : List Nat :=
  (s.jobDies job).filterMap fun d => s.resolve (2 * d) job 0x8000000 8192

/-- The directory that is read: the lowest die's (R134). -/
def State.dirBase (s : State) (job : Nat) : Option Nat :=
  match s.jobDies job with
  | [] => none
  | d :: _ => s.resolve (2 * d) job 0x8000000 8192

/-- A field of a job's directories written by the device, on every die alike (R136). -/
def State.putDir (s : State) (job off : Nat) (bs : List Byte) : State :=
  (s.dirBases job).foldl (fun t a => t.devPut (a + off) bs) s

/-- R187: the jobs whose adapter directory names `job` as ADAPT_JOB, as it was read when VALID was set (R173), receive TAINT. -/
def State.taint (s : State) (job : Nat) : State :=
  s.jobs.foldl (fun t e =>
    if e.2.valid && e.2.adaptDir && e.2.adaptJob == job then
      match t.dirBase e.1 with
      | some a => t.putDir e.1 (0x1000 + 21) (leBytes 1 (t.devNat (a + 0x1000 + 21) 1 ||| 1))
      | none => t
    else t) s

end Sys2Proof.Machine
end

