-- ==== Sys2Proof/Machine/Sched.lean ====
section
/-!
DEFINITION. The scheduler (R16 to R48): who may start and when, which context an engine chooses, how a command
ends, and what its completion does to flags, steps, tile groups and rings.
-/

-- One declaration at a time: the threads of a parallel elaboration take memory together.
set_option Elab.async false

namespace Sys2Proof.Machine

/-! ### Commands, steps and groups by name -/

def State.cmd? (s : State) (uid : Nat) : Option Cmd := s.cmds.find? fun c => c.uid == uid

def State.putCmd (s : State) (c : Cmd) : State :=
  { s with cmds := s.cmds.map fun d => if d.uid == c.uid then c else d }

def State.step? (s : State) (uid : Nat) : Option Step := s.steps.find? fun x => x.uid == uid

def State.putStep (s : State) (x : Step) : State :=
  { s with steps := s.steps.map fun y => if y.uid == x.uid then x else y }

def State.group? (s : State) (step tile : Nat) : Option Group :=
  s.groups.find? fun g => g.step == step && g.tile == tile

/-- A tile group of which nothing has been dispatched. -/
def Group.fresh (step tile : Nat) : Group := ⟨step, tile, 0, none, false, false, false, false, 0, false, false, none, false⟩

def State.putGroup (s : State) (g : Group) : State :=
  { s with groups := g :: s.groups.filter fun h => !(h.step == g.step && h.tile == g.tile) }

/-- The step a command belongs to. -/
def State.stepOf (s : State) (c : Cmd) : Option Step := c.step.bind s.step?

/-- The tile group a command belongs to. -/
def State.groupOf (s : State) (c : Cmd) : Option Group :=
  if c.tiled then c.step.bind fun u => s.group? u c.tile else none

/-- Whether no record of a command has been produced yet. -/
def Cmd.live (c : Cmd) : Bool :=
  match c.place with
  | .recorded _ => false
  | _ => true

/-- Whether a command waits to start: pending or in a queue. -/
def Cmd.unstarted (c : Cmd) : Bool :=
  match c.place with
  | .pending | .queued _ => true
  | _ => false

/-- R26: a STEP_OPEN counts as completed, for fences, once its step has opened. -/
def State.incomplete (s : State) (c : Cmd) : Bool :=
  c.live && !(c.opcode == 1 && (match s.step? c.uid with | some x => x.opened | none => false))

/-- R16, R27: an earlier command of the job in the aperture holds this one back: by this one's FENCE_IN, by the
earlier one's FENCE_OUT, or because it is a FLAG_WAIT. -/
def State.fenced (s : State) (c : Cmd) : Bool :=
  s.cmds.any fun d =>
    d.uid < c.uid && d.job == c.job && d.apt == c.apt && !d.rejected && s.incomplete d &&
      (c.fenceIn || c.opcode == 3 || d.fenceOut || d.opcode == 2)

/-- R23: the step of the command has opened, or it belongs to none. -/
def State.stepReady (s : State) (c : Cmd) : Bool :=
  match s.stepOf c with
  | some x => x.opened
  | none => c.step.isNone

/-! ### Deadlines (R25, R38) -/

/-- R25: the deadline of tile row `r` of a step. -/
def Step.rowDeadline (x : Step) (r : Nat) : Nat := (x.deadline + (r * x.rowPitch) / 16) % 2 ^ 64

/-- R251: the rows of a step bound to a frame of row pitch 0 are guarded and cancelled as one. -/
def Step.oneRow (x : Step) : Bool := x.frame.isSome && x.rowPitch == 0

/-- The tile row of a tile of a step. -/
def Step.rowOf (x : Step) (t : Nat) : Nat := t / max 1 x.columns

/-- R28: the last tile row of a step. -/
def Step.lastRow (x : Step) : Nat := (x.tileCount - 1) / max 1 x.columns

/-- The rows that are guarded and cancelled together with row `r`. -/
def Step.rowsWith (x : Step) (r : Nat) : List Nat := if x.oneRow then List.range (x.lastRow + 1) else [r]

/-- R38: the deadline a command is ranked by; none outside a step. -/
def State.deadlineOf (s : State) (c : Cmd) : Option Nat :=
  (s.stepOf c).map fun x => if c.tile == 0xFFFF then x.deadline else x.rowDeadline (x.rowOf c.tile)

/-- R38: one deadline ranks before another; no deadline comes last. -/
def deadlineLt : Option Nat → Option Nat → Bool
  | some a, some b => !timeReached a b
  | some _, none => true
  | none, _ => false

/-! ### Queues and credits (R29 to R31) -/

/-- The commands in a queue, in acceptance order. -/
def State.inQueue (s : State) (q : Queue) : List Cmd := s.cmds.filter fun c => c.place == .queued q

/-- A command put into a list in the order of admissions. -/
def insertTurn (c : Cmd) : List Cmd → List Cmd
  | [] => [c]
  | d :: ds => if c.turn < d.turn then c :: d :: ds else d :: insertTurn c ds

/-- R157, R268, R312: the commands in a queue in the order of their admission. -/
def State.fifo (s : State) (q : Queue) : List Cmd := (s.inQueue q).foldl (fun l c => insertTurn c l) []

/-- The number of the next admission. -/
def State.nextTurn (s : State) : Nat := s.cmds.foldl (fun n c => max n c.turn) 0 + 1

/-- R29, R312, R340: the credit of a queue. -/
def Queue.capacity : Queue → Nat
  | .context _ _ => 32
  | .post _ => 64
  | .dma _ => 64
  | .me => 64
  | .raster => 256
  | .display => 64
  | .audit => 16

/-- Pending-store entries held by commands of an aperture. -/
def State.pendingOf (s : State) (apt : Nat) : Nat :=
  (s.cmds.filter fun c => c.heldEntry && c.apt == apt).length

/-- R29: pending-store entries taken from the part that is not reserved. -/
def State.pendingShared (s : State) : Nat :=
  ((List.range 16).map fun a => s.pendingOf a - 32).sum

/-- R30: an aperture has a pending-store credit. -/
def State.pendingCredit (s : State) (apt : Nat) : Bool :=
  s.pendingOf apt < 32 || s.pendingShared < 14336 - 16 * 32

/-- The lowest index of the pending store that no command holds (R105; the spec does not say how entries are numbered: DESIGN CHOICE,
assumption 68). -/
def State.freeStore (s : State) : Nat :=
  ((List.range (s.cmds.length + 1)).find? fun k => !(s.cmds.any fun c => c.heldEntry && c.store == k)).getD 0

/-- A command takes a pending-store entry, unless it holds one. -/
def State.hold (s : State) (uid : Nat) : State :=
  match s.cmd? uid with
  | some c => if c.heldEntry then s else s.putCmd { c with heldEntry := true, store := s.freeStore }
  | none => s

/-- R50: free entries of the pending store. -/
def State.pendingFree (s : State) : Nat := 14336 - (s.cmds.filter fun c => c.heldEntry).length

/-- Reserved completion-buffer entries of a ring that are taken. -/
def State.ownUsed (s : State) (ring : Nat) : Nat :=
  (s.cmds.filter fun c => c.entry == .own && c.ring == ring).length +
    (s.waiting.filter fun r => r.entry == .own && r.ring == ring).length

/-- Shared completion-buffer entries that are taken. -/
def State.sharedUsed (s : State) : Nat :=
  (s.cmds.filter fun c => c.entry == .shared).length +
    (s.waiting.filter fun r => r.entry == .shared).length

/-- R31: the entry a command of a ring can take. -/
def State.freeEntry (s : State) (ring : Nat) : Option Entry :=
  if s.ownUsed ring < 256 then some .own else if s.sharedUsed < 4096 then some .shared else none

/-! ### Blocks that hold commands -/

/-- The block whose ENABLE and DRAIN govern a command that would run on engine `g`. -/
def Cmd.block (c : Cmd) (g : Nat) : Option (Blk × Nat) :=
  match c.unit with
  | some .ne | some .ve | some .xp => some (.ne, g)
  | some .post => some (.post, c.compiledEngine / 2)
  | some .dma => some (.dma, 0)
  | some .me => some (.me, 0)
  | some .raster => some (.raster, 0)
  | some .disp => some (.disp, 0)
  | _ => none

/-- The engine a command runs on: the one its group was dispatched to, else the compiled one (R32, R33). -/
def State.engineOf (s : State) (c : Cmd) : Nat :=
  match s.groupOf c with
  | some g => if g.live then g.engine else c.compiledEngine
  | none => c.compiledEngine

/-- R374: UC_OK of the die that a command's unit is on. -/
def State.ucOk (s : State) (c : Cmd) (g : Nat) : Bool :=
  match c.unit with
  | some .ne | some .ve | some .xp => (s.reg .cdSys (g / 2) 0x040).testBit 29
  | some .post => (s.reg .cdSys (c.compiledEngine / 2) 0x040).testBit 29
  | some .me => (s.reg .mdSys 0 0x040).testBit 29
  | _ => true

/-- R2, R36, R367, R371, R379, R396, R437, R438: the status with which a command ends without running, given the
engine it would run on. -/
def State.turnedAway (s : State) (c : Cmd) (g : Nat) : Option Status :=
  let held := s.devState == 5
  let stopped := match c.unit with
    | some .ne | some .ve | some .xp | some .post | some .me | some .raster => true
    | _ => c.opcode == 0x7003
  let die := if c.unit == some .post then c.compiledEngine / 2 else g / 2
  if s.devState == 6 then (if c.opcode == 0x9002 then none else some .version)
  else if held && stopped then some .powerStop
  else
    let onDie := if Config.dies s.variant ≤ die then some Status.absentUnit
      else if s.cdLost.testBit die then some Status.dieLost else none
    let away : Option Status := match c.unit with
      | some .ne | some .ve | some .xp | some .post => onDie
      -- R241: an RS_WARP lands on its engine's die
      | some .raster => if c.opcode == 0x6004 then onDie else none
      -- R268: a DISP_COMMIT reads the tile memory of its engine's die
      | some .disp => if c.opcode == 0x7003 && s.cdLost.testBit die then some .dieLost else none
      | some .me =>
        if !Config.hasMe s.variant then some .absentUnit else if s.mdLost then some .dieLost else none
      | _ => none
    match away with
    | some st => some st
    | none =>
      match c.block g with
      | some (b, i) =>
        let p := s.page b i
        if !p.enable then some .unitDisabled
        else if !s.ucOk c g then some .version else none
      | none => none

/-! ### Waits (R41, R43, R90, R435) -/

/-- R435: a wait on a flag that a command of the same moved group advances is treated as satisfied. -/
def State.ownGroupFlag (s : State) (c : Cmd) (f : Nat) : Bool :=
  match s.groupOf c with
  | some g => g.moved && s.cmds.any fun d => d.tiled && d.step == c.step && d.tile == c.tile && d.adv == some f
  | none => false

/-- A command's WAIT is satisfied, or its flag is poisoned so that the command ends at once (R432). -/
def State.waitMet (s : State) (c : Cmd) : Bool :=
  match c.wait with
  | none => true
  | some (f, g) => (s.flag f).poison || s.flagReached f g || s.ownGroupFlag c f

/-- R432: a command waits on a poisoned flag. -/
def State.waitPoisoned (s : State) (c : Cmd) : Bool :=
  match c.wait with
  | none => false
  | some (f, _) => (s.flag f).poison

/-- R34, R88: the device address of `n` bytes at a window address of a command on engine `g`: an engine-window
address in landing slot 0 names the slot granted to the command's group. -/
def State.addr (s : State) (c : Cmd) (g a n : Nat) : Option Nat :=
  let lo := (s.job c.job).landBase * 2 ^ 20
  let off := a % 2 ^ 27
  let slot := match s.groupOf c with
    | some x => if x.live then x.slot.getD 0 else 0
    | none => 0
  if !a.testBit 27 && (s.job c.job).landEn && lo ≤ off && off < lo + 2 ^ 20 then
    s.resolve g c.job (a + slot * 2 ^ 20) n
  else s.resolve g c.job a n

/-- R89: a fetch descriptor as its bytes spell it. -/
structure FetchDesc where
  src : Nat
  dst : Nat
  length : Nat
  flag : Nat
  gen : Word
  rsvdZero : Bool
  deriving DecidableEq, Repr

/-- R89: where the fetch descriptor of a command on engine `g` lies, when its address is aligned and lies in the window. -/
def State.descAt (s : State) (c : Cmd) (g : Nat) : Option Nat :=
  c.fetchAt.bind fun a => if a % 32 != 0 then none else s.addr c g a 32

/-- The fetch descriptor of a command on engine `g`. -/
def State.fetchDesc (s : State) (c : Cmd) (g : Nat) : Option FetchDesc :=
  (s.descAt c g).map fun d => ⟨s.devNat d 8, s.devNat (d + 8) 4, s.devNat (d + 12) 4, s.devNat (d + 16) 2 % 4096,
    BitVec.ofNat 32 (s.devNat (d + 20) 4),
    s.devNat (d + 16) 2 / 4096 == 0 && s.devNat (d + 18) 2 == 0 && s.devNat (d + 24) 8 == 0⟩

/-- The command's tile group has moved (R435). -/
def State.hasMoved (s : State) (c : Cmd) : Bool :=
  match s.groupOf c with
  | some x => x.moved
  | none => false

/-- R90, R435: the data of the command's fetch has landed; a group that has moved fetches again. -/
def State.landed (s : State) (c : Cmd) (g : Nat) : Bool :=
  match s.fetchDesc c g with
  | none => true
  | some d => if s.hasMoved c then c.fetched else s.flagReached d.flag d.gen || (s.flag d.flag).poison

/-- R90: the transfer is already in flight. -/
def State.inFlight (s : State) (c : Cmd) (g : Nat) : Bool :=
  match s.fetchDesc c g with
  | none => false
  | some d => s.fetches.any fun f => f.job == c.job && f.flag == d.flag && f.gen == d.gen &&
      (f.engine == g || !s.hasMoved c)

/-- R306: a VE_XREDUCE that has joined its collective waits until the peers' sum or their failure is known. -/
def State.collWaits (s : State) (c : Cmd) : Bool :=
  s.colls.any fun x => (x.joined.any fun p => p.uid == c.uid) && x.sum.isNone && x.fail.isNone

/-- R435: in a moved group a command starts only after the previous one of the group. -/
def State.groupTurn (s : State) (c : Cmd) : Bool :=
  match s.groupOf c with
  | some g => !g.moved || !(s.cmds.any fun d => d.tiled && d.step == c.step && d.tile == c.tile &&
      d.uid < c.uid && (match d.place with | .pending | .queued _ => true | _ => false))
  | none => true

/-- A queued engine command can start, or can issue its fetch (R38). -/
def State.ready (s : State) (c : Cmd) (g : Nat) : Bool :=
  !s.fenced c && s.stepReady c && s.groupTurn c && s.waitMet c && (s.landed c g || !s.inFlight c g) &&
    !s.collWaits c

/-! ### The choice of a context (R38, R86) -/

/-- The earliest queued command of one unit in a context. -/
def State.classHead (s : State) (g job : Nat) (u : OpUnit) : Option Cmd :=
  (s.inQueue (.context g job)).find? fun c => c.unit == some u

/-- The earliest queued command of each unit in a context. -/
def State.classHeads (s : State) (g job : Nat) : List Cmd :=
  [OpUnit.ne, .ve, .xp].filterMap fun u => s.classHead g job u

/-- R45: every accepted command of a tile group has completed. -/
def State.groupIdle (s : State) (step tile : Nat) : Bool :=
  !(s.cmds.any fun c => c.step == some step && c.tile == tile && c.tiled && c.live)

/-- R45: an engine that holds a guarded tile group, neither finished nor cancelled, is barred to BACKGROUND and NORMAL commands. -/
def State.barred (s : State) (g : Nat) : Bool :=
  s.groups.any fun x => x.engine == g && x.live && x.guarded && !x.cancelled && !s.groupIdle x.step x.tile

/-- R28: the tile index of a command is not one of its step's. -/
def State.tileBad (s : State) (c : Cmd) : Bool :=
  match s.stepOf c with
  | some x => c.tile != 0xFFFF && x.tileCount ≤ c.tile
  | none => false

/-- The heads of a context whose waits are satisfied. -/
def State.freeHeads (s : State) (g job : Nat) : List Cmd := (s.classHeads g job).filter fun c => s.ready c g

/-- The heads of a context that can start now. A command whose tile index is not one of its step's is never ranked (R38). -/
def State.readyHeads (s : State) (g job : Nat) : List Cmd :=
  (s.freeHeads g job).filter fun c => !(2 ≤ c.cls && s.barred g) && !s.tileBad c

/-- R38: a context is runnable. -/
def State.runnable (s : State) (g job : Nat) : Bool := !(s.readyHeads g job).isEmpty

/-- R38: command `a` goes before command `b`: by class, then by deadline. -/
def State.ranksBefore (s : State) (a b : Cmd) : Bool :=
  a.cls < b.cls || (a.cls == b.cls && deadlineLt (s.deadlineOf a) (s.deadlineOf b))

/-- The best-ranked command of a list, the earlier on a tie. -/
def State.bestOf (s : State) : List Cmd → Option Cmd
  | [] => none
  | c :: cs =>
    match s.bestOf cs with
    | none => some c
    | some d => if s.ranksBefore d c then some d else some c

/-- R38: the context the engine selects at a command boundary, ties round robin over the slots. -/
def State.chosen (s : State) (g : Nat) : Option CtxSlot :=
  let e := s.engine g
  let order := (List.range 4).map fun k => (e.lastSlot + 1 + k) % 4
  let slots := order.filterMap fun k => e.slots.find? fun c => c.slot == k
  let best := slots.foldl (fun (acc : Option (CtxSlot × Cmd)) c =>
    match s.bestOf (s.readyHeads g c.job) with
    | none => acc
    | some h =>
      match acc with
      | none => some (c, h)
      | some (c0, h0) => if s.ranksBefore h h0 then some (c, h) else some (c0, h0)) none
  best.map (·.1)

/-! ### Ends of commands -/

/-- A command that has not ended yet ends with a status (R430). -/
def State.endCmd (s : State) (uid : Nat) (st : Status) (cause : Nat) : State :=
  { s with cmds := s.cmds.map fun c =>
      if c.uid == uid && c.unstarted then { c with place := .ended st cause } else c }

/-- Every unstarted command that satisfies `p` ends with a status. -/
def State.endAll (s : State) (p : Cmd → Bool) (st : Status) (cause : Nat) : State :=
  { s with cmds := s.cmds.map fun c => if c.unstarted && p c then { c with place := .ended st cause } else c }

/-- R428, R444: a command ends by a COMMAND fault of which the log is to say what a note says. -/
def State.faultWith (s : State) (uid : Nat) (st : Status) (cause : Nat) (note : FaultNote) : State :=
  { s with cmds := s.cmds.map fun c =>
      if c.uid == uid && c.unstarted then { c with place := .ended st cause, fault := some note } else c }

/-- R428, R444: a command ends by a COMMAND fault at an address, detected now. -/
def State.faultCmd (s : State) (uid : Nat) (st : Status) (cause addr : Nat) : State :=
  s.faultWith uid st cause ⟨s.now, addr, 1⟩

/-- The number of unstarted commands that satisfy `p`. -/
def State.countLive (s : State) (p : Cmd → Bool) : Nat := (s.cmds.filter fun c => c.unstarted && p c).length

/-- R428, R444: every unstarted command that satisfies `p` ends by one COMMAND fault at an address, detected now; the earliest of them keeps
the note. -/
def State.faultAll (s : State) (p : Cmd → Bool) (st : Status) (cause addr : Nat) : State :=
  let n := s.countLive p
  match s.cmds.find? fun c => c.unstarted && p c with
  | some c =>
    let t := s.endAll p st cause
    { t with cmds := t.cmds.map fun d => if d.uid == c.uid then { d with fault := some ⟨s.now, addr, n⟩ } else d }
  | none => s

/-! ### Block times (R39, R43, R107) -/

/-- The times since which the contexts of an engine have been blocked or empty, brought up to date. -/
def State.trackEngine (s : State) (g : Nat) (e : Engine) : Engine :=
  let slots := e.slots.map fun c =>
    let q := s.inQueue (.context g c.job)
    let blocked := !q.isEmpty && (s.freeHeads g c.job).isEmpty
    { c with
      blockedSince := if blocked then some (c.blockedSince.getD s.now) else none
      emptySince := if q.isEmpty then some (c.emptySince.getD s.now) else none }
  let idle := e.slots.all fun c => !s.runnable g c.job
  { e with slots := slots, idleSince := if idle then some (e.idleSince.getD s.now) else none }

/-- Those times for every engine. -/
def State.track (s : State) : State :=
  { s with engines := s.engines.map fun p => (p.1, s.trackEngine p.1 p.2) }

/-! ### Rings (R335, R336, R339, R353) -/

def Ring.fresh : Ring := ⟨0, 0, 0x000A0A10, 0, 0, 0, none, none⟩

def State.ring (s : State) (m : Nat) : Ring := s.rings.get m Ring.fresh

def State.putRing (s : State) (m : Nat) (r : Ring) : State := { s with rings := s.rings.set m r }

def Ring.en (r : Ring) : Bool := r.ctrl.getLsbD 31
/-- R357: LOG2, 6 to 16. -/
def Ring.log2 (r : Ring) : Nat := max 6 (min 16 (bits r.ctrl.toNat 20 16))
/-- R357: THRESH; 0 acts as 1. -/
def Ring.thresh (r : Ring) : Nat := max 1 (bits r.ctrl.toNat 7 0)
def Ring.timerUs (r : Ring) : Nat := bits r.ctrl.toNat 15 8
def Ring.base (r : Ring) : Nat := r.baseLo.toNat + 2 ^ 32 * r.baseHi.toNat

/-- R336: the ring has room for a record. -/
def Ring.hasRoom (r : Ring) : Bool := r.en && (r.prod - r.cons).toNat < 2 ^ r.log2

/-- R335: the bytes of a record with a PHASE bit. -/
def Rec.bytes (r : Rec) (phase : Bool) : List Byte :=
  leBytes 4 r.seq.toNat ++ leBytes 1 (r.apt + (if phase then 128 else 0)) ++ leBytes 1 r.job ++
    leBytes 1 r.status ++ leBytes 1 r.cause ++ leBytes 8 r.time

/-- R336, R339: a record is written to its ring, which has room; a message follows once THRESH are unreported,
or at once with TIMER_US 0. -/
def State.writeRec (s : State) (r : Rec) : State :=
  let g := s.ring r.ring
  let p := g.prod.toNat
  let phase := !p.testBit g.log2
  let s1 := s.hostPut (g.base + p % 2 ^ g.log2 * 16) (r.bytes phase)
  let n := g.unreported + 1
  if g.thresh ≤ n || g.timerUs == 0 then
    (s1.putRing r.ring { g with prod := g.prod + 1, unreported := 0, firstAt := none }).signal (2 + r.ring)
  else
    s1.putRing r.ring { g with
      prod := g.prod + 1
      unreported := n
      firstAt := some (g.firstAt.getD s.now) }

/-- The time since which a ring has been full with records waiting for it (R355). -/
def State.trackFull (s : State) (m : Nat) : State :=
  let g := s.ring m
  let full := !g.hasRoom && (s.backlog ++ s.waiting).any fun r => r.ring == m
  s.putRing m { g with fullSince := if full then some (g.fullSince.getD s.now) else none }

/-- The state without the record of ring `m` that is written next, and that record: the backlog goes ahead of the records that
wait in the completion buffer (R354). -/
def State.takeRec (s : State) (m : Nat) : Option (State × Rec) :=
  match s.backlog.find? fun r => r.ring == m with
  | some r => some ({ s with backlog := s.backlog.erase r }, r)
  | none =>
    match s.waiting.find? fun r => r.ring == m with
    | some r => some ({ s with waiting := s.waiting.erase r }, r)
    | none => none

/-- R336: the records of ring `m` that wait are written, in production order, while it has room. -/
def State.drainRing (m : Nat) : Nat → State → State
  | 0, s => s
  | n + 1, s =>
    match s.takeRec m with
    | none => s
    | some p =>
      if s.hostOk && (s.ring m).hasRoom then State.drainRing m n (p.1.writeRec p.2) else s

/-- Ring `m` writes what it can, and its full time is brought up to date. -/
def State.pumpRing (s : State) (m : Nat) : State :=
  (State.drainRing m (s.waiting.length + s.backlog.length) s).trackFull m

/-- R353: the backlog's base; none when it is 0 or does not lie wholly in addressable DRAM. -/
def State.backlogBase (s : State) : Option Nat :=
  let a := pairAddr (s.reg .hif 0 0x048) (s.reg .hif 0 0x04C)
  if a == 0 || s.dramBytes < a + 2 ^ 20 then none else some a

/-- R353: a record goes to the backlog at an address; it holds no entry of the completion buffer there. -/
def State.logBack (s : State) (a : Nat) (r : Rec) : State :=
  let t := { (s.devPut (a + 16 * s.backlog.length) (r.bytes false)) with backlog := s.backlog ++ [{ r with entry := .none }] }
  if s.backlog.isEmpty then t.irq .hif 0 0b0100 else t

/-- A produced record leaves for its ring, waits for it, or goes to the backlog (R336, R353). -/
def State.deliver (s : State) (r : Rec) : State :=
  if s.link.toBacklog then
    match s.backlogBase with
    | some a => s.logBack a r
    | none => { s with waiting := s.waiting ++ [r] }
  else { s with waiting := s.waiting ++ [r] }.pumpRing r.ring

/-! ### Completion (R26, R30, R34, R44, R67) -/

/-- R502: the rows that a failed ME command still owes its fill flag. -/
def State.meOwed (s : State) (c : Cmd) : Nat :=
  let a := c.num 8 8
  let h := s.devNat (a + 4) 2
  let good := (s.target a 64).isSome && !s.badIn a 64 && s.devNat a 2 == 0x0010 && 64 ≤ h && h ≤ 4320
  (if good then ceilDiv h 128 else 1) - c.progress

/-- R27, R44, R502: the flags and amounts that a command advances when its record is produced. -/
def State.owedFlags (s : State) (c : Cmd) (st : Status) : List (Nat × Nat) :=
  if c.rejected then []
  else if c.opcode == 3 then
    let n := c.num 12 4
    if 1 ≤ n && n < 2 ^ 31 then [(c.num 8 2 % 4096, n)] else []
  else if c.unit == some .me then
    if st == .ok then [] else
      let n := s.meOwed c
      if n == 0 then [] else [(c.num 24 2 % 4096, n)]
  else match c.adv with
    | some f => [(f, 1)]
    | none => []

/-- The flag advances of a completion. -/
def State.advanceAll (s : State) (job : Nat) (fs : List (Nat × Nat)) : State :=
  fs.foldl (fun t p => t.advance job p.1 p.2) s

/-- R16, R312: a measurement extended by a digest. A 33rd byte means that CLEAR sets it to zeros first. -/
def extend (d x : List Byte) : List Byte := sha256 ((if x.length == 33 then List.replicate 32 0 else d) ++ x.take 32)

/-- R16: the AUX extensions of a step that wait are applied, in SEQ order, up to the first that is still owed. -/
def applyAux (owed : Nat → Bool) : Nat → List Byte → List (Nat × List Byte) → List Byte × List (Nat × List Byte)
  | 0, d, w => (d, w)
  | n + 1, d, w =>
    match w with
    | [] => (d, [])
    | (u, x) :: rest =>
      if owed u then (d, (u, x) :: rest) else applyAux owed n (extend d x) rest

/-- The step whose AUX a command extends by DIGEST (R16): the one it belongs to, or, of a STEP_OPEN that is no command of a step still
open, the step it begins. -/
def State.auxStep (s : State) (c : Cmd) : Option Nat :=
  match c.step with
  | some u => some u
  | none => (s.step? c.uid).map (·.uid)

/-- Whether an earlier command of the step still owes an AUX extension before command `uid`'s. A replayed command has had its extension
applied when it completed first (R435). -/
def State.auxOwed (s : State) (step uid : Nat) : Bool :=
  s.cmds.any fun d => (d.step == some step || d.uid == step) && d.uid < uid && d.live && !d.replay && !d.rejected &&
    (d.digest || (d.opcode == 0x9001 && d.num 20 1 % 4 == 2))

/-- R16, R312: an AUX extension by a 32-byte digest, applied once every earlier one of the step has been. -/
def State.extendAux (s : State) (step uid : Nat) (x : List Byte) : State :=
  match s.step? step with
  | none => s
  | some st =>
    let w := st.auxWait.takeWhile (fun p => p.1 < uid) ++ [(uid, x)] ++ st.auxWait.dropWhile fun p => p.1 < uid
    let r := applyAux (s.auxOwed step) w.length st.aux w
    s.putStep { st with aux := r.1, auxWait := r.2 }

/-- The AUX extensions of a step that a command no longer holds up are applied. -/
def State.settleAux (s : State) (step : Nat) : State :=
  match s.step? step with
  | none => s
  | some st =>
    let r := applyAux (s.auxOwed step) st.auxWait.length st.aux st.auxWait
    s.putStep { st with aux := r.1, auxWait := r.2 }

/-- R30, R34: a tile group has ended: it is cancelled or its step takes no further command, and every accepted command of it has
completed. -/
def State.groupOver (s : State) (step tile : Nat) : Bool :=
  match s.step? step, s.group? step tile with
  | some x, some g => (x.isSealed || x.lateRows.contains x.lastRow || g.cancelled) && s.groupIdle step tile
  | _, _ => false

/-- R67: a bound tile of whose group every accepted command has completed becomes FINISHED once its pixels are in the canvas buffer, or
FAILED with the status that ended it; a tile past its row deadline keeps its state. -/
def State.settleTile (s : State) (x : Step) (g : Group) : State :=
  match x.frame with
  | none => s
  | some f =>
    if !s.boundHeader f then s
    else
      let e := s.entry f g.tile
      let st := entryState e
      if st == 9 || st == 10 || st == 7 then s
      else if g.failed != 0 && g.failed != 8 then
        s.putEntry f g.tile (setBits (setBits e 63 60 8) 55 48 g.failed)
      else if st == 5 || st == 6 then s
      else if g.committed && g.failed == 0 && s.groupIdle x.uid g.tile then
        -- R234: READY at once when OSD_BINNED is set and no bin item of the tile is owed
        s.setTileState f g.tile (if (s.head f 27 1).testBit 3 && !e.testBit 46 then 6 else 5)
      else s

/-- R30, R34: the landing slot and the pending-store entries of a tile group that has ended return, and its commands are forgotten. -/
def State.endGroup (s : State) (x : Step) (tile : Nat) : State :=
  match s.group? x.uid tile with
  | none => s
  | some g =>
    if !s.groupOver x.uid tile then s
    else
      let t := s.putGroup { g with live := false, slot := none, endedAt := some (g.endedAt.getD s.now) }
      { t with cmds := t.cmds.filter fun d => !(d.step == some x.uid && d.tile == tile && d.tiled && !d.live) }

/-- R34, R67: the tile of a group is settled, and the group ends, as far as its commands have come. -/
def State.reviewGroup (s : State) (x : Step) (tile : Nat) : State :=
  match s.group? x.uid tile with
  | none => s
  | some g => (s.settleTile x g).endGroup x tile

/-- The same for every tile group of a step: once the step takes no further command. -/
def State.reviewStep (s : State) (step : Nat) : State :=
  match s.step? step with
  | none => s
  | some x => (s.groups.filter fun g => g.step == step).foldl (fun t g => t.reviewGroup x g.tile) s

/-- R30, R34, R67: what the completion of one of its commands does to a tile group. -/
def State.settleGroup (s : State) (c : Cmd) (st : Status) : State :=
  match s.groupOf c, s.stepOf c with
  | some g, some x =>
    (s.putGroup { g with
      failed := if st == .ok || g.failed != 0 then g.failed else st.code
      endedAt := if s.groupIdle x.uid g.tile then some s.now else g.endedAt }).reviewGroup x g.tile
  | _, _ => s

/-- R26: the status the step's commands give its STEP_OPEN so far. -/
def Step.note (x : Step) (st : Status) : Step :=
  if st == .ok then x
  else { x with worst := if x.worst == 0 then st.code else min x.worst st.code }

/-- A command whose record has been produced is kept while its tile group may run again (R435) or its commit is
needed to settle the tile; else it is forgotten. -/
def State.retire (s : State) (c : Cmd) (st : Status) : State :=
  match s.groupOf c with
  | some g => s.putCmd { c with place := .recorded st, entry := .none, heldEntry := c.heldEntry && g.balance, replay := false }
  | none => { s with cmds := s.cmds.filter fun d => d.uid != c.uid }

/-! ### Collectives (R306) -/

/-- R306: the engines of a collective: PEERS without absent engines. -/
def State.collPeers (s : State) (c : Cmd) : List Nat :=
  (List.range (Config.engines s.variant)).filter fun g => (c.num 58 2).testBit g

/-- The collective that a command of an engine belongs to: the earliest of its job and PEERS that the engine has
not had its part in. -/
def State.collFor (s : State) (c : Cmd) (g mask : Nat) : Option Coll :=
  s.colls.find? fun x => x.job == c.job && x.peers == mask && !(x.joined.any fun p => p.engine == g) &&
    !x.done.contains g

/-- PEERS without absent engines, as a mask. -/
def State.collMask (s : State) (c : Cmd) : Nat := (s.collPeers c).foldl (fun m g => m ||| 2 ^ g) 0

/-- R306: an engine's command of a collective is over; a collective all of whose commands are over is forgotten. -/
def State.collOver (s : State) (x : Coll) (g : Nat) (n : Nat) : State :=
  let y := { x with done := g :: x.done.filter (· != g) }
  let rest := s.colls.filter fun z => z != x
  { s with colls := if n ≤ y.done.length then rest else rest ++ [y] }

/-- R306: a VE_XREDUCE that completes with a status other than OK before its leaves have been added ends the
collective with that status; a command whose PEERS does not name its own engine belongs to none. `progress` is 1 once it has joined. -/
def State.collRefuse (s : State) (c : Cmd) (st : Status) : State :=
  if c.opcode != 0x2008 || st == .ok || c.rejected || !(s.collPeers c).contains (s.engineOf c) then s
  else
    let g := s.engineOf c
    let n := (s.collPeers c).length
    let x := if c.progress == 1 then s.colls.find? fun x => (x.joined.any fun p => p.uid == c.uid) && !x.done.contains g
      else some ((s.collFor c g (s.collMask c)).getD ⟨c.job, s.collMask c, [], [], none, none, false⟩)
    match x with
    | none => s
    | some y =>
      if y.sum.isSome then s.collOver y g n
      else
        let z := { y with fail := if y.fail.isNone then some (st, 0) else y.fail }
        { s with colls := (s.colls.filter fun w => w != y) ++ [z] }.collOver z g n

/-- R309, R316: a VE_XREDUCE that completes with `st` ran with the placement order, or failed and would by itself have run with it. -/
def State.placementOrder (s : State) (c : Cmd) (st : Status) : Bool :=
  c.progress == 2 || (st != .ok && c.num 57 1 == 1 && s.variant == .h8a && !(s.job c.job).repro)

/-- R316: whether a command that completes makes its step VARIABLE: it carries V and is no canonical VE_XREDUCE. -/
def State.isVariable (s : State) (c : Cmd) (st : Status) : Bool := c.vFlag && (c.opcode != 0x2008 || s.placementOrder c st)

/-! ### Raster passes (R223, R229, R241) -/

/-- R241: the RS_PASS_CLOSE that ends a pass, the first after it of its job in its aperture, has failed. -/
def State.passFailed (s : State) (p : RPass) : Bool :=
  match s.cmds.find? fun c => c.opcode == 0x6003 && c.job == p.job && c.apt == p.apt && p.uid < c.uid && !c.rejected && c.live with
  | some c => (match c.place with | .ended st _ => st != .ok | _ => false)
  | none => false

/-- The raster passes that are held: a pass whose close has failed is gone (R241). -/
def State.rpasses (s : State) : List RPass := s.raster.passes.filter fun p => !s.passFailed p

/-- A command waits or runs in the raster engine. -/
def State.inRaster (s : State) (uid : Nat) : Bool := (s.inQueue .raster).any fun c => c.uid == uid

/-- The RS_WARPs and RS_MASKs that the geometry stage has begun and that have not ended. -/
def State.rtiles (s : State) : List RTile := s.raster.tiles.filter fun w =>
  (s.inQueue .raster).any fun c => c.uid == w.uid && c.turn == w.turn

/-- R242: the raster engine has a command or a pass. -/
def State.rasterBusy (s : State) : Bool := !(s.inQueue .raster).isEmpty || !s.rpasses.isEmpty

/-- R367: a command of the raster engine has been admitted and its record is not yet produced. -/
def State.rasterOwes (s : State) : Bool :=
  s.cmds.any fun c => c.unit == some .raster && c.turn != 0 && (match c.place with | .ended _ _ => c.entry != .none | _ => false)

/-- R246, R367: RASTER.BLK_STATE reads IDLE. -/
def State.rasterIdle (s : State) : Bool :=
  let p := s.page .raster 0
  s.powered && !s.rasterBusy && !s.rasterOwes && !(p.faulted && p.enable)

/-- R229: what has gone is dropped; when BLK_STATE reads IDLE the grown pages are released. -/
def State.rasterRest (s : State) : State :=
  let t := { s with raster := { s.raster with
    passes := s.rpasses, tiles := s.rtiles
    stalled := s.raster.stalled.filter fun (e : Nat × Nat) => s.inRaster e.1
    parked := s.raster.parked.filter s.inRaster
    draws := s.raster.draws.filter fun (e : Nat × (Nat × Nat)) => s.inRaster e.1 } }
  if !s.rasterIdle || s.raster.pages.isEmpty then t
  else { t with raster := { t.raster with pages := [] } }.irq .raster 0 0b1000000

/-- R67: a bound tile is WARPED once both candidates have landed and the landing flag has advanced. -/
def State.warped (s : State) (c : Cmd) (st : Status) : State :=
  match (s.stepOf c).bind (·.frame) with
  | some f =>
    if c.opcode == 0x6004 && st == .ok && c.tiled && s.boundHeader f && entryState (s.entry f c.tile) == 2 then
      s.setTileState f c.tile 3
    else s
  | none => s

/-- R444: the COMMAND fault that ended a command is logged, with the records that it produces. -/
def State.logNote (s : State) (c : Cmd) : State :=
  match c.fault with
  | some n =>
    let u := s.unitBlock c
    s.logFaultAt n.time u.1 u.2 1 1 n.addr (if c.replay then n.commands - 1 else n.commands) 0 0
  | none => s

/-- A command's record is produced with a status and a cause: R44 flags, R16 DIGEST, R26 accounting, R187 TAINT,
R444 fault log, R457 trace, R30 entries, R34 slot, R336 delivery. -/
def State.produce (s : State) (c : Cmd) (st : Status) (cause : Nat) : State :=
  let r : Rec := ⟨c.ring, c.seq, c.apt, c.job, st.code, cause, s.now, c.entry⟩
  let s0 := if c.unit == some .raster then s.rasterRest else s
  let s1 := ((s0.trace c 3 st.code (cause % 256)).collRefuse c st).advanceAll c.job (s.owedFlags c st)
  let s2 := (s1.warped c st).retire c st
  let s3 := match s2.stepOf c with
    | some x => if c.rejected then s2 else s2.putStep { x.note st with isVariable := x.isVariable || s.isVariable c st }
    | none => s2
  let s4 := match s3.auxStep c with
    | some u => if c.digest && !c.rejected then s3.extendAux u c.uid (sha256 (pktBytes c.pkt))
      else if c.opcode == 0x9001 then s3.settleAux u else s3
    | none => s3
  let s5 := if c.rejected then s4 else s4.settleGroup c st
  let s6 := if st == .ok || c.rejected then s5 else s5.taint c.job
  let u := s.unitBlock c
  -- R451: a command of the NE, the VE or the XP has completed
  let s6 := if c.rejected then s6 else match c.unit with
    | some .ne => s6.pulse .ne u.2 0x13 1 (some c.job)
    | some .ve => s6.pulse .ve u.2 0x10 1 (some c.job)
    | some .xp => s6.pulse .xp u.2 0x11 1 (some c.job)
    | _ => s6
  let s8 := (s6.logNote c).deliver r
  (if c.unit == some .raster then s8.rasterRest else s8).track

/-- A replayed command that has ended counts as completed again; it writes no second record (R435). -/
def State.endReplay (s : State) (c : Cmd) (st : Status) : State :=
  let s1 := s.putCmd { c with place := .recorded st, replay := false, entry := .none }
  ((s1.settleGroup c st).logNote c).track

/-- R26: every command of the step other than its STEP_OPEN has completed and its last has been accepted. -/
def State.stepClosed (s : State) (x : Step) : Bool :=
  x.opened && x.isSealed && !(s.cmds.any fun c => c.step == some x.uid && c.live && !c.rejected)

/-- R93, R409: a command runs on an engine from one step to the next: only a VE_XREDUCE that waits in its collective does. -/
def State.engineRuns (s : State) (g : Nat) : Bool :=
  s.cmds.any fun c => c.opcode == 0x2008 && c.progress == 1 && (match c.place with | .queued (.context h _) => h == g | _ => false)

/-! ### The issue throttle (R405, R406) -/

/-- R426: b_host in 1/256. -/
def State.hostLevel (s : State) : Nat := min 230 (bits (s.reg .pwr 0 0x050) 7 0)

/-- R405: b_cap. -/
def State.bCap (s : State) : Rat := s.pwr.frac.getD 3 0

/-- R406: b_therm and b_ramp of a die, whichever is larger. -/
def State.dieTerm (s : State) (k : Nat) : Rat :=
  match s.pwr.dies.find? k with
  | some d => max ((d.therm : Rat) / 16) d.ramp
  | none => 0

/-- R406: the throttle of a die, but for what a collective asks. -/
def State.ownThrottle (s : State) (k : Nat) : Rat :=
  min (9 / 10) (max s.bCap (max ((s.hostLevel : Rat) / 256) (s.dieTerm k)))

/-- R406, R411: b_d of a die; 8 is the matching die. -/
def State.throttle (s : State) (k : Nat) : Rat :=
  match s.pwr.dies.find? k with
  | some d => max (s.ownThrottle k) d.coll
  | none => s.ownThrottle k

/-- The places of the issue accounts of the ME and of the POST of a die. -/
def meAccount : Nat := 16
def postAccount (die : Nat) : Nat := 32 + die

/-- R406: an issue account stands at or above 0. -/
def State.mayIssue (s : State) (k : Nat) : Bool := decide (0 ≤ s.issue.get k 0)

/-- R406: a command issues its datapath cycles, whose number is a free value. Commands run whole, in a moment of the time base, so that the
account loses what the cycles cost beyond what it gains while they are issued (DESIGN CHOICE, assumption 74). -/
def State.spendIssue (s : State) (k die : Nat) : State :=
  let b := s.throttle die
  if b == 0 then s
  else
    let f := s.free
    { f.2 with issue := f.2.issue.set k (f.2.issue.get k 0 - b * (f.1 : Nat)) }

/-- R406: the account gains `1 - b_d` in each of `cycles` cycles, up to +8,000. -/
def State.gainIssue (s : State) (k die cycles : Nat) : State :=
  { s with issue := s.issue.set k (min 8000 (s.issue.get k 0 + (1 - s.throttle die) * (cycles : Nat))) }

/-- R406: the next command of slot `k` of an engine starts by a pre-emption or swap: it need not wait for the account. -/
def State.exempt (s : State) (g k : Nat) : Bool :=
  let e := s.engine g
  e.exempt || e.ousted || (e.slots.any fun x => e.running == some x.slot && x.slot != k && !(s.inQueue (.context g x.job)).isEmpty)

end Sys2Proof.Machine
end

