-- ==== Sys2Proof/Machine/CommandPath.lean ====
section
/-!
DEFINITION. The command path (R16 to R48, R329 to R339): apertures, acceptance, admission, dispatch, the control
commands, completion records, rings, credits and their timers.
-/

-- One declaration at a time: the threads of a parallel elaboration take memory together.
set_option Elab.async false

namespace Sys2Proof.Machine

/-- The outcome of a step of this machine. -/
abbrev Out := Host.Outcome State Fault Refusal

/-- A timed event happens at its due time: the time base has run on to it (assumption 3). -/
def State.at (s : State) (due : Nat) : State := if timeReached s.now due then s else { s with now := due % 2 ^ 64 }

/-! ### Glitch filters (R483) -/

/-- R485: where the filter time of a group stands: the code of its board window register and the lowest bit of its field. -/
def FilterGroup.field : FilterGroup → Nat × Nat
  | .sync => (0x05, 24)
  | .cool => (0x05, 16)
  | .wake => (0x05, 8)
  | .rst => (0x05, 0)
  | .hpd => (0x06, 8)
  | .gpio => (0x06, 0)

/-- R483, R485: the nominal filter time of a group in ticks, 2 to 20. -/
def State.filterTicks (s : State) (g : FilterGroup) : Nat :=
  max 2 (min 20 (bits (s.bwReg g.field.1) (g.field.2 + 4) g.field.2))

/-- The place of an input among the times of the last changes. -/
def FilterGroup.key (g : FilterGroup) (input : Nat) : Nat := 32 * (g.field.1 * 32 + g.field.2) + input

/-- R483: the filtered level of an input changes, which it does only once the pin has held the new level for the filter time, less 20 %: not
before that time has passed since the last change. -/
def State.filtered (s : State) (g : FilterGroup) (input : Nat) : State :=
  if s.devState == 0 then s
  else
    let t := match s.pins.edges.find? (g.key input) with
      | some t0 => s.at (t0 + s.filterTicks g * 4 / 5)
      | none => s
    { t with pins := { t.pins with edges := t.pins.edges.set (g.key input) t.now } }

/-! ### The running command of the matching engine (R206, R212) -/

/-- The matching engine without a running command (R418, R431). -/
def MeState.dropped (m : MeState) : MeState :=
  { m with uid := none, rows := [], staged := 0, waitSince := none, stallFrom := none, late := false }

/-- R212: the ME goes on after a stall: the time it waited counts. -/
def State.unstall (s : State) : State :=
  let s1 := match s.me.stallFrom with
    | some t => s.bump .me 0 0x06C (ticksSince s.now t / usTicks)
    | none => s
  { s1 with me := { s1.me with waitSince := none, stallFrom := none } }

/-- The matching engine drops its running command. -/
def State.meDrop (s : State) : State :=
  let t := s.unstall
  { t with me := t.me.dropped }

/-- The running ME command. -/
def State.meCmd (s : State) : Option Cmd := (s.me.uid.bind s.cmd?).filter Cmd.unstarted

/-! ### Apertures (R329 to R334) -/

def Aperture.fresh : Aperture := ⟨false, 0, 0, 0, 0, 0, none, none⟩

def State.apt (s : State) (n : Nat) : Aperture := s.apts.get n Aperture.fresh

def State.putApt (s : State) (n : Nat) (a : Aperture) : State := { s with apts := s.apts.set n a }

def AptSlot.fresh : AptSlot := ⟨0, false, false⟩

def State.aptSlot (s : State) (n k : Nat) : AptSlot := s.aptSlots.get (1024 * n + k) AptSlot.fresh

/-- Bytes written over part of a slot. -/
def patchPacket (p : Packet) (off : Nat) (bs : List Byte) : Packet :=
  let b := pktBytes p
  BitVec.ofNat 512 (leNat (b.take off ++ bs ++ b.drop (off + bs.length)))

/-- R329: a host write to an aperture slot; it lands when the write covers byte 63. A landed slot that is written again stays landed, and
takes the bytes or keeps those it had (R9, R355; DEDUCED, assumption 10). -/
def State.slotWrite (s : State) (apt slot off : Nat) (bs : List Byte) : State :=
  let x := s.aptSlot apt slot
  let put := fun (landed : Bool) (t : State) =>
    { t with aptSlots := t.aptSlots.set (1024 * apt + slot) ⟨patchPacket x.data off bs, landed, x.bad && bs.length != 64⟩ }
  if x.landed then s.mayTake (put true) else put (off + bs.length == 64 && !bs.isEmpty) s

/-- APERTURE_SLOT_WRITE (R329): ignored when the aperture is disabled or the write leaves the slot. -/
def execApertureSlotWrite (apt slot off : Nat) (bs : List Byte) (s : State) : Out :=
  if apt < 16 && slot < 1024 && off + bs.length ≤ 64 && (s.apt apt).en then .next (s.slotWrite apt slot off bs)
  else .next s

/-! ### Acceptance (R330, R331, R501) -/

/-- R501 steps 1-4, R379: the CAUSE with which a packet of aperture `apt` is rejected, given the consumed count. An AUDIT_QUOTE runs
whichever job sends it (R312): step 4 is not made for it as a whole, neither for VALID nor for the class and APT_MASK (DESIGN
CHOICE, assumption 66). In RECOVERY every other command ends without a CAUSE, FAILED_VERSION. -/
def State.rejection (s : State) (apt : Nat) (count : Word) (p : Packet) : Option Nat :=
  let j := pktNum p 2 1 % 64
  if pktNum p 4 4 != count.toNat then some 0x70
  else if s.devState == 6 && pktOpcode p != 0x9002 then some 0
  else if bits (pktFlags p) 7 6 != 0 then some 0x04
  else if (opUnit (pktOpcode p)).isNone then some 0x06
  else if pktOpcode p == 0x9002 then none
  else if !(s.job j).valid || pktNum p 2 1 / 64 < (s.job j).ceiling || !((s.job j).apts.getLsbD apt) then some 0x07
  else none

/-- R283, R284, R331, R379: the status and the CAUSE with which the packet of a slot is turned away: an uncorrectable word of command SRAM
ends the command that is read. -/
def State.refusal (s : State) (apt : Nat) (count : Word) (x : AptSlot) : Option (Status × Nat) :=
  if x.bad then some (.ecc, 0x30)
  else (s.rejection apt count x.data).map fun cause => (if cause == 0 then .version else .badOperand, cause)

/-- R23: the step of a job in an aperture whose last command has not been accepted. -/
def State.unsealed (s : State) (job apt : Nat) : Option Step :=
  s.steps.find? fun x => x.job == job && x.apt == apt && !x.isSealed

/-- R27: the failing operand checks of a STEP_OPEN. -/
def State.stepOpenFails (s : State) (c : Cmd) : List (Status × Nat) :=
  failIf (c.num 20 2 == 0 || 2040 < c.num 20 2 || (s.unsealed c.job c.apt).isSome) .badOperand 0x02 ++
    failIf (c.num 22 2 != 0 || c.num 28 8 != 0 || c.num 36 28 != 0) .badOperand 0x04

/-- R107: a gated engine starts its power-up, which takes at most 20 µs. -/
def State.wake (s : State) (g : Nat) : State :=
  let e := s.engine g
  if e.gated then s.putEngine g { e with gated := false, readyAt := s.now + 20 * usTicks } else s

def State.wakeAll (s : State) (gs : List Nat) : State := gs.foldl State.wake s

/-- R131: the epoch that step number `n` of a job latches. -/
def Job.epochOf (j : Job) (n : Nat) : Nat := if j.turnSteps == 0 then 0 else (n / j.turnSteps) % 2 ^ 32

/-- R45: the class at which a command accepted into a step runs: DISPLAY once its guard has fired. -/
def Step.liftedClass (x : Step) (tile cls : Nat) : Nat :=
  if tile == 0xFFFF then (if x.guardRows.isEmpty then cls else 0)
  else if x.guardRows.contains (x.rowOf tile) then 0 else cls

/-- R47: a tile of the step whose row deadline has passed. -/
def Step.lateTile (x : Step) (tile : Nat) : Bool :=
  (tile != 0xFFFF && tile < x.tileCount && x.lateRows.contains (x.rowOf tile)) || x.lateRows.contains x.lastRow

/-- What a DISP_META reads at its acceptance (R268): the metadata block. -/
def State.acceptData (s : State) (p : Packet) : List Byte :=
  if pktOpcode p == 0x7001 then s.devGet (pktNum p 8 8) 576 else []

/-- R268: the row-0 deadline of a frame had passed at acceptance. -/
def State.frameBegun (s : State) (f : Nat) : Bool :=
  f < s.disp.begun || (match s.disp.entries.find? fun e => e.frame == f with
    | some e => timeReached s.now e.deadline
    | none => false)

/-- R268: the bytes of the metadata block at an address that are read at acceptance: the header and COUNT records. -/
def metaReads (a : Nat) (data : List Byte) : List (Nat × Nat) := [(a, 64 + 64 * min 8 (leNat ((data.drop 2).take 2)))]

/-- The failing checks of a DISP_META, made as its block is read (R268). -/
def State.metaFails (s : State) (p : Packet) : List (Status × Nat) :=
  let a := pktNum p 8 8
  let data := s.acceptData p
  let count := leNat ((data.drop 2).take 2)
  let recs := (List.range (min count 8)).map fun k => (data.drop (64 + 64 * k)).take 64
  let zeros := fun (bs : List Byte) => bs.all fun b => b == 0
  failIf (pktNum p 24 40 != 0 || !zeros ((data.drop 4).take 60) || recs.any fun r => !zeros (r.drop 36)) .badOperand 0x04 ++
    failIf (leNat (data.take 2) != 0x000D || 8 < count || bits (s.reg .disp 0 0x08C) 1 0 != 0) .badOperand 0x02 ++
    failIf (!s.devRange a (64 + 64 * min count 8)) .badOperand 0x01

/-- The address of an uncorrectable word of the metadata block that a DISP_META reads. -/
def State.metaBad (s : State) (p : Packet) : Option Nat :=
  (metaReads (pktNum p 8 8) (s.acceptData p)).findSome? fun r => s.firstBad r.1 r.2

/-- R268: what the acceptance of a DISP_META finds, as `progress`: 16 times the CAUSE of a failed check, plus 4; 1 when the row-0 deadline of
its frame had passed; 16 times the address of an uncorrectable word of its block, plus 3; else 0. -/
def State.acceptState (s : State) (p : Packet) : Nat :=
  if pktOpcode p != 0x7001 then 0
  else match lowestCause (s.metaFails p) with
    | some f => 16 * f.2 + 4
    | none =>
      if s.frameBegun (pktNum p 16 8) then 1
      else match s.metaBad p with
        | some a => 16 * a + 3
        | none => 0

/-- The command that a consumed packet makes, before its step is known. -/
def State.newCmd (s : State) (apt : Nat) (a : Aperture) (p : Packet) : Cmd :=
  { uid := s.nextUid, apt := apt, ring := a.ring, seq := BitVec.ofNat 32 (pktNum p 4 4), pkt := p
    job := pktNum p 2 1 % 64, cls := pktNum p 2 1 / 64, step := none, rejected := false, place := .pending
    entry := .none, heldEntry := true, epoch := (s.job (pktNum p 2 1 % 64)).lastEpoch, acceptedAt := s.now
    turn := 0, store := s.freeStore, replay := false, fetched := false
    progress := s.acceptState p, data := s.acceptData p, fault := none }

/-- R23, R51, R131: a STEP_OPEN that passes its check takes its number, its epoch and its frame at acceptance. LAST_IN_STEP set on
the STEP_OPEN itself closes nothing: its step takes the later commands as any other (DESIGN CHOICE, assumption 66). -/
def State.newStep (s : State) (c : Cmd) : State :=
  let j := s.job c.job
  let frame := s.bindable c.job (c.num 8 8) (c.num 16 4) (c.num 20 2)
  let x : Step :=
    { uid := c.uid, job := c.job, apt := c.apt, opened := false, isSealed := false, closed := false
      deadline := c.num 8 8, rowPitch := c.num 16 4, tileCount := c.num 20 2, stepId := c.num 24 4
      number := j.steps, epoch := j.epochOf j.steps, guardRows := [], lateRows := [], cancelled := 0, worst := 0
      frame := frame, columns := s.columns, aux := List.replicate 32 0, auxWait := [], turnHeld := false
      isVariable := false }
  let s1 := s.putJob c.job { j with steps := (j.steps + 1) % 2 ^ 64 }
  { s1 with
    steps := s1.steps ++ [x]
    cmds := s1.cmds ++ [{ c with epoch := x.epoch }]
    disp := match frame with
      | some f => { s1.disp with bound := s1.disp.bound ++ [(f, c.uid)] }
      | none => s1.disp }

/-- R24, R28: the first accepted command of a tile of the step begins the tile's group. -/
def State.startGroup (s : State) (x : Step) (c : Cmd) : State :=
  if c.tiled && c.tile < x.tileCount && (s.group? x.uid c.tile).isNone then s.putGroup (Group.fresh x.uid c.tile) else s

/-- R23: an accepted command joins the step of its job in its aperture, and closes it with LAST_IN_STEP; a step that takes no further
command lets its tile groups end. -/
def State.joinStep (s : State) (c : Cmd) : State :=
  match s.unsealed c.job c.apt with
  | none => { s with cmds := s.cmds ++ [c] }
  | some x =>
    let late := x.lateTile c.tile
    let c1 := { c with
      step := some x.uid
      epoch := x.epoch
      cls := if c.unit == some .me then c.cls else x.liftedClass c.tile c.cls
      place := if late then .ended .late 0 else .pending }
    let t := { s.putStep { x with isSealed := c.lastInStep } with cmds := s.cmds ++ [c1] }.startGroup x c1
    if c.lastInStep then t.reviewStep x.uid else t

/-- R262, R268: the records of a metadata block. -/
def metaRecords (data : List Byte) : List (List Byte) :=
  (List.range (min (leNat ((data.drop 2).take 2)) 8)).map fun k => (data.drop (64 + 64 * k)).take 36

/-- R262, R268, R274: the set of an accepted DISP_META counts from its acceptance on; an uncorrectable word that is then read is recorded. -/
def State.takeMeta (s : State) (c : Cmd) : State :=
  if c.opcode != 0x7001 || !(match s.cmd? c.uid with | some d => d.unstarted | none => false) then s
  else if c.progress == 0 then
    let t : State := { s with disp := { s.disp with metas := s.disp.metas ++ [⟨c.num 16 8, metaRecords c.data⟩] } }
    t.correctReads .disp 0 (metaReads (c.num 8 8) c.data)
  else if c.progress % 16 == 3 then s.err .disp 0 2 0 (c.progress / 16)
  else s

/-- R330: a packet that passes R501 steps 1-4 becomes a pending command. A STEP_OPEN that fails its check keeps the CAUSE of that
check, which is made as the packet is accepted, in `progress`. R426: `PWR.HINTS` counts the HINT_PHASE commands accepted. -/
def State.enter (s : State) (c : Cmd) : State :=
  let s1 := if c.opcode != 1 then s.joinStep c
    else match lowestCause (s.stepOpenFails c) with
      | none => s.newStep c
      | some f => s.joinStep { c with progress := f.2 }
  let s2 := if c.onEngine then s1.wake c.compiledEngine else s1
  let s3 := if c.opcode == 1 then s2.wakeAll (s2.jobEngines c.job) else s2
  let s4 := if c.opcode == 0x8001 then s3.bump .pwr 0 0x0A0 1 else s3
  ((s4.ranFor .sched 0 c.job).trace ((s4.cmd? c.uid).getD c) 0 0 0).takeMeta c

/-- R330: the CFE consumes the next slot of an aperture. -/
def State.consume (s : State) (apt : Nat) (a : Aperture) (x : AptSlot) (e : Entry) : State :=
  let k := a.consumed.toNat % 1024
  let c := s.newCmd apt a x.data
  let s1 := { (s.putApt apt { a with consumed := a.consumed + 1, heldSince := none, advancedAt := some s.now }) with
    aptSlots := s.aptSlots.erase (1024 * apt + k)
    nextUid := s.nextUid + 1 }
  let s1 := s1.pulse .cfe 0 0x10 1 none
  match s.refusal apt a.consumed x with
  | none => s1.enter c
  | some r =>
    let c1 := { c with rejected := true, place := .ended r.1 r.2, entry := e, seq := a.consumed }
    let s2 := if r.2 == 0x70 then ((s1.bump .cfe 0 0x068 1).pulse .cfe 0 0x11 1 none).irq .cfe 0 0b10 else s1
    { s2 with cmds := s2.cmds ++ [c1] }.trace c1 0 0 0

/-- R379, R442, R443: the CFE consumes packets. -/
def State.cfeRuns (s : State) : Bool :=
  !s.stopped && !s.resetPending && 3 ≤ s.devState && s.devState ≤ 6

/-- R30, R31: the aperture can be served: a pending-store credit and, for a rejected packet, a completion entry. -/
def State.acceptCredit (s : State) (apt : Nat) (a : Aperture) (x : AptSlot) : Option Entry :=
  if !s.pendingCredit apt then none
  else if (s.refusal apt a.consumed x).isSome then s.freeEntry a.ring else some .none

/-- PACKET_ACCEPT (R330, R30, R331, R501). -/
def execPacketAccept (apt : Nat) (s : State) : Out :=
  let a := s.apt apt
  let x := s.aptSlot apt (a.consumed.toNat % 1024)
  if !(s.cfeRuns && apt < 16 && a.en && x.landed) then .next s
  else match s.acceptCredit apt a x with
    -- R49: only the lack of a pending-store credit holds the aperture under R30
    | none =>
      if s.pendingCredit apt then .next (s.putApt apt { a with heldSince := none })
      else .next ((s.putApt apt { a with heldSince := some (a.heldSince.getD s.now) }).edge .cfe 0 0x20
        (s.apts.any fun e => e.2.heldSince.isSome) none)
    | some e => .next (s.consume apt a x e).track

/-- APT_HELD_TIMEOUT (R48): an aperture held for lack of credit for more than 1 ms. -/
def execAptHeldTimeout (apt : Nat) (s : State) : Out :=
  match (s.apt apt).heldSince with
  | none => .next s
  | some t => .next ((s.at (t + msTicks + 1)).irq .sched 0 0b01000)

/-! ### Admission (R30, R31, R36) -/

/-- R340: the channel that a DMA_COPY goes to: CHANNEL, or the enabled one with the fewest queued commands. -/
def State.dmaChannelOf (s : State) (c : Cmd) : Nat :=
  if (c.num 18 1).testBit 7 then
    let en := (List.range 8).filter fun k => (s.dma.get k DmaChannel.fresh).en
    (en.foldl (fun (acc : Option (Nat × Nat)) k =>
      let n := (s.inQueue (.dma k)).length
      match acc with
      | none => some (k, n)
      | some (k0, n0) => if n < n0 then some (k, n) else some (k0, n0)) none).elim 0 (·.1)
  else c.num 18 1 % 8

/-- The queue a command goes to; none for a control or power-manager command. -/
def State.queueOf (s : State) (c : Cmd) : Option Queue :=
  match c.unit with
  | some .ne | some .ve | some .xp => some (.context (s.engineOf c) c.job)
  | some .post => some (.post (c.compiledEngine / 2))
  | some .dma => some (.dma (s.dmaChannelOf c))
  | some .me => some .me
  | some .raster => some .raster
  | some .disp => some .display
  | some .audit => some .audit
  | _ => none

/-- R34: a command of a tile group waits for its group's dispatch. -/
def State.dispatched (s : State) (c : Cmd) : Bool :=
  if c.tiled && !s.tileBad c then (match s.groupOf c with | some g => g.live | none => false) else true

/-- R34: the landing slots of the command's job do not lie within the engine window. -/
def State.slotsOutside (s : State) (c : Cmd) : Bool :=
  c.tiled && (s.job c.job).landEn && (match s.groupOf c with | some g => g.live && g.slot.isNone | none => false)

/-- R27: a FLAG_WAIT of the job in the aperture, accepted earlier, is not complete. -/
def State.behindWait (s : State) (c : Cmd) : Bool :=
  s.cmds.any fun d => d.uid < c.uid && d.job == c.job && d.apt == c.apt && d.opcode == 2 && !d.rejected && d.live

/-- An earlier pending command of the job for the same queue, free to be admitted, goes first. -/
def State.behindPeer (s : State) (c : Cmd) (q : Queue) : Bool :=
  s.cmds.any fun d => d.uid < c.uid && d.place == .pending && d.job == c.job && !d.rejected &&
    s.queueOf d == some q && s.dispatched d

/-- R269: the commits in the display queue whose direct path is not open, each of which keeps a tile store slot for itself. -/
def State.reservedSlots (s : State) : Nat :=
  ((s.inQueue .display).filter fun d => d.opcode == 0x7003 &&
    (match (s.stepOf d).bind (·.frame) with | some f => !s.directPath f | none => false)).length

/-- R269: a DISP_COMMIT needs the direct path or a free tile store slot. -/
def State.commitCredit (s : State) (c : Cmd) : Bool :=
  c.opcode != 0x7003 ||
    (match (s.stepOf c).bind (·.frame) with
     | some f => s.directPath f || s.reservedSlots < s.freeStoreSlots
     | none => true)

/-- R37, R39: the context a command goes to is resident; other queues have no contexts. -/
def State.residentFor (s : State) : Queue → Bool
  | .context g j => ((s.engine g).slotOf j).isSome
  | _ => true

/-- R439: a die whose hub modules all retrain cannot be reached; commands for it are held back. -/
def State.unreachable (s : State) (c : Cmd) (g : Nat) : Bool :=
  match c.unit with
  | some .ne | some .ve | some .xp => s.dieCut (g / 2)
  | some .post => s.dieCut (c.compiledEngine / 2)
  | some .me => s.training 24
  | _ => false

/-- R367, R433: the block's DRAIN, or a FAULTED block, holds admission. -/
def State.admissionHeld (s : State) (c : Cmd) (g : Nat) : Bool :=
  s.unreachable c g ||
    (match c.block g with
     | some (b, i) => let p := s.page b i
       p.faulted || (p.drain && b.drainHonoured)
     | none => false)

/-- R340, R358: a disabled DMA channel takes no command. -/
def State.channelOff (s : State) : Queue → Bool
  | .dma k => !(s.dma.get k DmaChannel.fresh).en
  | _ => false

/-- COMMAND_ADMIT (R31): a command enters its unit's queue, or ends without running. -/
def State.takeIn (s : State) (c : Cmd) (q : Queue) (e : Entry) : State :=
  let g := s.engineOf c
  match s.turnedAway c g with
  | some st => s.putCmd { c with place := .ended st 0, entry := e }
  | none =>
    if s.channelOff q then s.putCmd { c with place := .ended .unitDisabled 0, entry := e }
    else if s.slotsOutside c then s.putCmd { c with place := .ended .badOperand 0x01, entry := e }
    else if s.admissionHeld c g || !s.residentFor q || !s.commitCredit c ||
        q.capacity ≤ (s.inQueue q).length then s
    else
      ((((s.putCmd { c with
        place := .queued q
        entry := e
        heldEntry := c.heldEntry && (match s.groupOf c with | some x => x.balance | none => false)
        turn := s.nextTurn }).trace c 1 0 0).wake g).pulse .sched 0 0x10 1 (some c.job)).track

/-- COMMAND_ADMIT (R31). -/
def execCommandAdmit (uid : Nat) (s : State) : Out :=
  match s.cmd? uid with
  | none => .next s
  | some c =>
    match s.queueOf c with
    | none => .next s
    | some q =>
      if c.place == .pending && !s.stopped && s.stepReady c && s.dispatched c && !s.behindWait c &&
          !s.behindPeer c q then
        match (if c.entry == .none && !c.replay then s.freeEntry c.ring else some c.entry) with
        | some e => .next (s.takeIn c q e)
        | none => .next s
      else .next s

/-! ### Dispatch (R33, R34, R36) -/

/-- R33: the dispatched tile groups of an engine, over all jobs. -/
def State.groupsOn (s : State) (g : Nat) : Nat := (s.groups.filter fun x => x.engine == g && x.live).length

/-- R34: the lowest landing slot of a job that is free on an engine. -/
def State.freeLanding (s : State) (job g : Nat) : Option Nat :=
  (List.range (s.job job).landSlots).find? fun k =>
    !(s.groups.any fun x => x.engine == g && x.live && x.slot == some k &&
      (match s.step? x.step with | some y => y.job == job | none => false))

/-- R34: the landing slots lie wholly within the engine window. -/
def State.slotsInWindow (s : State) (job g : Nat) : Bool :=
  (s.resolve g job ((s.job job).landBase * 2 ^ 20) ((s.job job).landSlots * 2 ^ 20)).isSome

/-- R33, R435: an engine can take a tile group of the job. -/
def State.canHost (s : State) (job g : Nat) : Bool :=
  s.dieUsable (g / 2) && (s.page .ne g).enable && !(s.page .ne g).faulted &&
    (!(s.job job).landEn || (s.freeLanding job g).isSome)

/-- R33: the engine of the mask with the fewest dispatched tile groups, ties to the lowest index. -/
def State.leastLoaded (s : State) (gs : List Nat) : Option Nat :=
  (gs.foldl (fun (acc : Option (Nat × Nat)) g =>
    let n := s.groupsOn g
    match acc with
    | none => some (g, n)
    | some (g0, n0) => if n < n0 then some (g, n) else some (g0, n0)) none).map (·.1)

/-- R33, R435: the engine that the scheduler takes of those that can host a tile group: the compiled one, or else the one with the fewest
dispatched groups. -/
def State.firstChoice (s : State) (able : List Nat) (compiled : Nat) : Option Nat :=
  if able.contains compiled then some compiled else s.leastLoaded able

/-- R33: the engine a tile group is dispatched to. With BALANCE 1 only the engines of ENGINE_MASK count, which alone hold the job's landing
slots (R34). A job without landing slots counts as having one free on every engine of its mask (DESIGN CHOICE, assumption 66). -/
def State.placeGroup (s : State) (job compiled : Nat) : Option Nat :=
  if (s.job job).balance then s.firstChoice ((s.jobEngines job).filter (s.canHost job)) compiled
  else if !(s.job job).landEn || (s.freeLanding job compiled).isSome then some compiled else none

/-- The compiled engine of a tile group: that of its first accepted command. -/
def State.groupCompiled (s : State) (step tile : Nat) : Option Nat :=
  (s.cmds.find? fun c => c.step == some step && c.tile == tile && c.tiled).map Cmd.compiledEngine

/-- A tile group with an accepted command that has not been dispatched. -/
def State.undispatched (s : State) (step tile : Nat) : Bool :=
  (s.cmds.any fun c => c.step == some step && c.tile == tile && c.tiled && c.unstarted) &&
    (match s.group? step tile with | some g => !g.placed && !g.cancelled | none => false)

/-- R34: no lower tile of the step that could be dispatched now waits. -/
def State.lowestTile (s : State) (x : Step) (tile : Nat) : Bool :=
  !(s.cmds.any fun c => c.step == some x.uid && c.tiled && c.tile < tile && s.undispatched x.uid c.tile &&
    (match s.groupCompiled x.uid c.tile with
     | some g => (s.placeGroup x.job g).isSome
     | none => false))

/-- R33, R34, R45, R67: tile group `tile` of a step goes to engine `g`. -/
def State.dispatch (s : State) (x : Step) (tile g : Nat) : State :=
  let landing := if (s.job x.job).landEn && s.slotsInWindow x.job g then s.freeLanding x.job g else none
  let guarded := x.guardRows.contains (x.rowOf tile)
  let old := (s.group? x.uid tile).getD (Group.fresh x.uid tile)
  let s1 := (s.putGroup { old with
    engine := g, slot := landing, live := true, guarded := guarded, placed := true, balance := (s.job x.job).balance }).wake g
  match x.frame with
  | some f =>
    let e := s1.entry f tile
    s1.putEntry f tile (setBits (setBits e 63 60 2) 45 42 g)
  | none => s1

/-- TILE_DISPATCH (R34). -/
def execTileDispatch (step tile : Nat) (s : State) : Out :=
  match s.step? step with
  | none => .next s
  | some x =>
    let bound := match x.frame with | some f => s.boundHeader f | none => true
    if !(x.opened && bound && tile < x.tileCount && s.undispatched step tile && s.lowestTile x tile) then .next s
    else
      match (s.groupCompiled step tile).bind (s.placeGroup x.job) with
      | some g => .next (s.dispatch x tile g).track
      | none => .next s

/-! ### Control commands (R27, R45, R136) -/

/-- R45: a guard of tile row `r` of a step fires, with the rows that are guarded together with it. -/
def State.fireGuard (s : State) (x : Step) (r : Nat) : State :=
  let first := x.guardRows.isEmpty
  let rows := x.rowsWith r
  let s1 := s.putStep { x with guardRows := x.guardRows ++ rows }
  let s2 := { s1 with
    cmds := s1.cmds.map fun (c : Cmd) =>
      -- R206: the guard does not lift ME commands
      if c.step == some x.uid && c.unstarted && c.unit != some OpUnit.me &&
          ((c.tile != 0xFFFF && c.tile < x.tileCount && rows.contains (x.rowOf c.tile)) || (first && c.tile == 0xFFFF)) then
        { c with cls := 0 }
      else c
    groups := s1.groups.map fun (g : Group) => if g.step == x.uid && rows.contains (x.rowOf g.tile) then { g with guarded := true } else g }
  ((s2.bump .sched 0 0x064 1).pulse .sched 0 0x13 1 (some x.job)).irq .sched 0 0b00010

/-- R50: the guard time in ticks, 50 to 2,000 µs. -/
def State.guardTicks (s : State) : Nat := max 50 (min 2000 (bits (s.reg .sched 0 0x040) 15 0)) * usTicks

/-- R45: a tile index below TILE_COUNT of row `r` is unfinished. -/
def State.unfinished (s : State) (x : Step) (t : Nat) : Bool :=
  match s.group? x.uid t with
  | some g => !g.cancelled && !s.groupIdle x.uid t
  | none => true

/-- The tile indexes of row `r` of a step and of the rows that go with it. -/
def Step.tilesOf (x : Step) (r : Nat) : List Nat :=
  (x.rowsWith r).flatMap fun k => ((List.range x.columns).map (k * x.columns + ·)).filter (· < x.tileCount)

/-- R45: the step has an unfinished tile group in row `r`. -/
def State.rowUnfinished (s : State) (x : Step) (r : Nat) : Bool := (x.tilesOf r).any (s.unfinished x)

/-- R48: the guards of a step whose time has passed fire at its opening. -/
def State.pastGuards (s : State) (uid : Nat) : State :=
  match s.step? uid with
  | none => s
  | some x =>
    (List.range (x.lastRow + 1)).foldl (fun t r =>
      match t.step? uid with
      | some y => if timeReached (t.now + t.guardTicks) (y.rowDeadline r) && !y.guardRows.contains r && t.rowUnfinished y r
          then t.fireGuard y r else t
      | none => t) s

/-! ### Cancellation (R47) -/

/-- R45, R47, R68: tile group `t` of a step is incomplete at a deadline: no command of it has been accepted, an accepted one has not
completed, or the last completed in the deadline's tick or later. Of a step that has closed only such a late end is left. -/
def State.incompleteAt (s : State) (x : Step) (t due : Nat) : Bool :=
  match s.group? x.uid t with
  | some g => !g.cancelled &&
      (!s.groupIdle x.uid t || (match g.endedAt with | some e => timeReached e due | none => !x.closed))
  | none => !x.closed

/-- R47: the commands that satisfy `p` end FAILED_LATE. R206: the running ME command first finishes its current staged row, unless it
waits and so computes none. -/
def State.endLate (s : State) (p : Cmd → Bool) : State :=
  match s.meCmd with
  | some c =>
    if !p c then s.endAll p .late 0
    else if s.me.stallFrom.isSome then (s.endAll p .late 0).meDrop
    else
      let t := s.endAll (fun d => p d && d.uid != c.uid) .late 0
      { t with me := { t.me with late := true } }
  | none => s.endAll p .late 0

/-- R47, R67: a tile group is cancelled at its row's deadline. -/
def State.cancelGroup (s : State) (x : Step) (t : Nat) : State :=
  let s1 := s.endLate fun c => c.step == some x.uid && c.tile == t
  let g := (s.group? x.uid t).getD (Group.fresh x.uid t)
  let s2 := ((s1.putGroup { g with cancelled := true }).bump .sched 0 0x060 1).pulse .sched 0 0x14 1 (some x.job)
  let s3 := match x.frame with
    | some f => if s2.boundHeader f then s2.putEntry f t (setBits (setBits (s2.entry f t) 63 60 7) 55 48 8) else s2
    | none => s2
  s3.endGroup x t

/-- R69: LATE_COUNT of the frame of a step: the step's tile groups cancelled so far. -/
def State.putLateCount (s : State) (x : Step) (n : Nat) : State :=
  match x.frame with
  | some f => if s.boundHeader f then s.putHead f 30 2 (min n 0xFFFF) else s
  | none => s

/-- R47: the deadline of row `r` of a step, and of the rows that go with it: its incomplete tile groups are cancelled, and at the last row every remaining
command. -/
def State.lateRow (s : State) (x : Step) (r : Nat) : State :=
  let tiles := (x.tilesOf r).filter fun t => s.incompleteAt x t (x.rowDeadline r)
  let s1 := s.putStep { x with lateRows := x.lateRows ++ x.rowsWith r, cancelled := x.cancelled + tiles.length }
  let s2 := (tiles.foldl (fun t k => t.cancelGroup x k) s1).putLateCount x (x.cancelled + tiles.length)
  let s3 := if (x.rowsWith r).contains x.lastRow then (s2.endLate fun c => c.step == some x.uid).reviewStep x.uid else s2
  if tiles.isEmpty then s3 else s3.irq .sched 0 0b1

/-- R48: at the opening of a step, the tile groups of the rows whose deadline is already past are cancelled. -/
def State.pastRows (s : State) (uid : Nat) : State :=
  match s.step? uid with
  | none => s
  | some x =>
    (List.range (x.lastRow + 1)).foldl (fun t r =>
      match t.step? uid with
      | some y => if timeReached t.now (y.rowDeadline r) && !y.lateRows.contains r then t.lateRow y r else t
      | none => t) s

/-- Open steps of a job (R23). -/
def State.openSteps (s : State) (job : Nat) : Nat :=
  (s.steps.filter fun x => x.job == job && x.opened && !x.closed).length

/-- R136 step 7: the turn that must be done before step number `n` opens is not done. -/
def Job.turnOwed (j : Job) (n : Nat) : Bool :=
  j.turnSteps != 0 && n % j.turnSteps == 0 && j.turnsDone < n / j.turnSteps

/-- R23, R26, R131, R136: a step opens. -/
def State.openStep (s : State) (c : Cmd) (x : Step) (e : Entry) : State :=
  let j := s.job c.job
  let s1 := (s.putStep { x with opened := true }).putCmd { c with entry := e, heldEntry := false }
  let s2 := s1.putJob c.job { j with
    lastEpoch := x.epoch
    turnPending := if j.turnSteps != 0 && x.number % j.turnSteps == 0 then some (x.number / j.turnSteps)
      else j.turnPending }
  ((s2.pastGuards x.uid).pastRows x.uid).track

/-- R136 step 7: ERR takes TURN_LATE in the job's scale directory; ERR_ENTRY stays (DESIGN CHOICE, assumption 72). -/
def State.turnLate (s : State) (job : Nat) : State := s.putDir job 16 (leBytes 2 0x04)

/-- STEP_OPEN (R16, R27, R23, R136): opens its step, or holds it; the fences hold it as they hold any command. -/
def execStepOpen (uid : Nat) (s : State) : Out :=
  match s.cmd? uid with
  | none => .next s
  | some c =>
    if !(c.opcode == 1 && c.place == .pending) || s.fenced c || s.stopped then .next s
    else
      match s.freeEntry c.ring, s.step? uid with
      | none, _ => .next s
      | some e, none =>
        let st := if s.devState == 6 then (Status.version, 0) else (Status.badOperand, c.progress)
        .next (s.putCmd { c with place := .ended st.1 st.2, entry := e })
      | some e, some x =>
        if x.opened then .next s
        else if (s.steps.any fun y => y.job == x.job && y.uid < x.uid && !y.opened) || 4 ≤ s.openSteps x.job then
          .next s
        else if (s.job x.job).turnOwed x.number then
          .next (if x.turnHeld then s else (s.putStep { x with turnHeld := true }).turnLate x.job)
        else .next (s.openStep c x e)

/-- A control command that nothing holds back (R16, R23, R27). -/
def State.controlReady (s : State) (c : Cmd) (op : Nat) : Bool :=
  c.opcode == op && c.place == .pending && !s.behindWait c && !s.fenced c && s.stepReady c && !s.stopped

/-- A control command (R27) that passes its checks ends with status `st` once `go` holds; one that fails ends with its lowest CAUSE;
one that has to wait, or has no completion entry, stays. -/
def State.controlAs (s : State) (uid op : Nat) (fails : Cmd → List (Status × Nat)) (go : Cmd → Bool) (st : Status) : State :=
  match s.cmd? uid with
  | none => s
  | some c =>
    if !s.controlReady c op then s
    else
      match s.freeEntry c.ring with
      | none => s
      | some e =>
        if s.devState == 6 then s.putCmd { c with place := .ended .version 0, entry := e }
        else match lowestCause (fails c) with
          | some f => s.putCmd { c with place := .ended f.1 f.2, entry := e }
          | none =>
            if s.waitPoisoned c then s.putCmd { c with place := .ended .ecc 0, entry := e }
            else if go c then s.putCmd { c with place := .ended st 0, entry := e } else s

def State.control (s : State) (uid op : Nat) (fails : Cmd → List (Status × Nat)) (go : Cmd → Bool) : State :=
  s.controlAs uid op fails go .ok

/-- R27: the failing operand checks of a FLAG_WAIT. -/
def flagWaitFails (c : Cmd) : List (Status × Nat) :=
  failIf (c.num 8 2 / 4096 != 0 || c.num 10 2 != 0 || c.num 16 48 != 0) .badOperand 0x04

/-- R27: the flag of a FLAG_WAIT is at or after its GEN. -/
def State.flagWaitMet (s : State) (c : Cmd) : Bool := s.flagReached (c.num 8 2 % 4096) (BitVec.ofNat 32 (c.num 12 4))

/-- FLAG_WAIT (R27): ends once the flag is at or after GEN; until then it holds later commands. -/
def execFlagWait (uid : Nat) (s : State) : Out := .next (s.control uid 2 flagWaitFails s.flagWaitMet)

/-- FLAG_WAIT_TIMEOUT (R27): a FLAG_WAIT that waits, unmet after TIMEOUT_MS; 0 means no timeout (R50). The time counts from the
acceptance of the command (DESIGN CHOICE, assumption 66). -/
def execFlagWaitTimeout (uid : Nat) (s : State) : Out :=
  match s.cmd? uid with
  | none => .next s
  | some c =>
    let ms := bits (s.reg .sched 0 0x048) 15 0
    if ms == 0 || !s.controlReady c 2 || s.flagWaitMet c then .next s
    else .next ((s.at (c.acceptedAt + ms * msTicks)).controlAs uid 2 flagWaitFails (fun _ => true) .timeout)

/-- FLAG_ADVANCE (R27): ends once every earlier command of the job in the aperture has completed; the flag
advances with its record (R286). -/
def execFlagAdvance (uid : Nat) (s : State) : Out :=
  .next (s.control uid 3
    (fun c => failIf (c.num 12 4 == 0 || 2 ^ 31 ≤ c.num 12 4) .badOperand 0x02 ++
      failIf (c.num 8 2 / 4096 != 0 || c.num 10 2 != 0 || c.num 16 48 != 0) .badOperand 0x04)
    (fun _ => true))

/-- NOP (R27). -/
def execNop (uid : Nat) (s : State) : Out :=
  .next (s.control uid 4 (fun c => failIf (c.num 8 56 != 0) .badOperand 0x04) (fun _ => true))

/-! ### Completion records, rings and credits -/

/-- R26: the status and cause of a STEP_OPEN whose step has closed. -/
def Step.verdict (x : Step) : Status × Nat :=
  (if x.cancelled != 0 then .late else Status.ofCode x.worst, min x.cancelled 0xFFFF)

/-- A step and its tile groups are forgotten. -/
def State.dropStep (s : State) (uid : Nat) : State :=
  { s with groups := s.groups.filter fun g => g.step != uid, steps := s.steps.filter fun y => y.uid != uid }

/-- R26: a step that has closed; a bound one is kept, with its tile groups, for its frame. -/
def State.closeStep (s : State) (x : Step) : State :=
  match x.frame, s.step? x.uid with
  | some f, some y =>
    if s.disp.bound.contains (f, x.uid) then s.putStep { y with closed := true } else s.dropStep x.uid
  | _, _ => s.dropStep x.uid

/-- A command with the completion entry it needs for its record. -/
def State.withEntry (s : State) (c : Cmd) : Option Cmd :=
  if c.entry == .none && !c.replay then (s.freeEntry c.ring).map fun e => { c with entry := e } else some c

/-- R80: commands complete in queue order within a context: an earlier command of the context has no record yet. -/
def State.behindContext (s : State) (c : Cmd) : Bool :=
  c.onEngine && c.turn != 0 && !c.replay && s.cmds.any fun d =>
    d.uid < c.uid && d.onEngine && d.turn != 0 && d.job == c.job && s.engineOf d == s.engineOf c &&
      (match d.place with
       | .queued _ => true
       | .ended _ _ => !d.replay
       | _ => false)

/-- COMPLETION_RECORD_WRITE (R336, R26, R30, R44): the record of a command that has ended is produced. -/
def execCompletionRecordWrite (uid : Nat) (s : State) : Out :=
  match (s.cmd? uid).bind fun c => if c.live then s.withEntry c else none with
  | none => .next s
  | some c =>
    match c.place with
    | .ended st cause =>
      .next (if s.behindContext c then s else if c.replay then s.endReplay c st else s.produce c st cause)
    | .pending =>
      (match s.step? uid with
       | some x =>
         if c.opcode == 1 && s.stepClosed x && !x.closed then
           .next ((s.produce c x.verdict.1 x.verdict.2).closeStep x)
         else .next s
       | none => .next s)
    | _ => .next s

/-- RING_FULL_TIMEOUT (R355): a ring full for 1 ms. -/
def execRingFullTimeout (ring : Nat) (s : State) : Out :=
  match (s.ring ring).fullSince with
  | some t => .next ((s.at (t + msTicks)).irq .cfe 0 0b01)
  | none => .next s

/-- MSIX_RING_TIMER (R339): TIMER_US after the first unreported record, the ring's message is sent. -/
def execMsixRingTimer (ring : Nat) (s : State) : Out :=
  let r := s.ring ring
  match r.firstAt with
  | some t =>
    .next (((s.at (t + r.timerUs * usTicks)).putRing ring { r with unreported := 0, firstAt := none }).signal (2 + ring))
  | none => .next s

/-- R332: the consumed count is written to host memory. -/
def State.writeCredit (s : State) (n : Nat) : State :=
  let a := s.apt n
  let addr := (a.credLo.toNat / 4 * 4) + 2 ^ 32 * a.credHi.toNat
  if a.credLo.getLsbD 0 && s.hostOk then
    (s.hostPut addr (leBytes 4 a.consumed.toNat)).putApt n { a with credWritten := a.consumed, advancedAt := none }
  else s

/-- CREDIT_WRITEBACK (R332): after 64 advances, or within 2 µs of one not yet written. -/
def execCreditWriteback (apt : Nat) (s : State) : Out :=
  if (s.apt apt).consumed == (s.apt apt).credWritten then .next s else .next (s.writeCredit apt)

end Sys2Proof.Machine
end

