-- ==== Sys2Proof/Machine/Num.lean ====
section
/-!
DEFINITION. Exact numbers, their rounding, and the fifteen element formats (R113 to R119), with the
F32 arithmetic of the engines (R78, R100, R126) and the narrowing error of R129.
-/

-- One declaration at a time: the threads of a parallel elaboration take memory together.
set_option Elab.async false

namespace Sys2Proof.Machine

/-- An exact value: a NaN, an infinity, or `(-1)^neg * n / d * 2^e` with `d` not zero. Zero keeps its sign. -/
inductive Val where
  | nan
  | inf (neg : Bool)
  | fin (neg : Bool) (n d : Nat) (e : Int)
  deriving DecidableEq, Repr

/-- The exact value of an integer. -/
def Val.ofInt (x : Int) : Val := .fin (x < 0) x.natAbs 1 0

/-- The exact value of a natural number. -/
def Val.ofNat (x : Nat) : Val := .fin false x 1 0

/-- Positive zero. -/
def Val.zero : Val := .fin false 0 1 0

/-- Whether the value is a zero of either sign. -/
def Val.isZero : Val → Bool
  | .fin _ n _ _ => n == 0
  | _ => false

/-- Whether the value is a NaN. -/
def Val.isNan : Val → Bool
  | .nan => true
  | _ => false

/-- The sign of a value. -/
def Val.negative : Val → Bool
  | .nan => false
  | .inf s => s
  | .fin s _ _ _ => s

/-- The value with its sign turned over. -/
def Val.neg : Val → Val
  | .nan => .nan
  | .inf s => .inf (!s)
  | .fin s n d e => .fin (!s) n d e

/-- The magnitude of a value. -/
def Val.abs : Val → Val
  | .nan => .nan
  | .inf _ => .inf false
  | .fin _ n d e => .fin false n d e

/-- `n / d * 2^k` as one fraction of naturals. -/
def scaleFrac (n d : Nat) (k : Int) : Nat × Nat :=
  match k with
  | .ofNat j => (n <<< j, d)
  | .negSucc j => (n, d <<< (j + 1))

/-- `n / d` rounded to nearest, ties to even. -/
def roundFrac (n d : Nat) : Nat :=
  let q := n / d
  let r := n % d
  if 2 * r < d then q else if d < 2 * r then q + 1 else if q % 2 == 0 then q else q + 1

/-- The floor of the binary logarithm of a nonzero fraction. -/
def log2Frac (n d : Nat) : Int :=
  let g : Int := (n.log2 : Int) - (d.log2 : Int)
  let t := scaleFrac n d (-g)
  if t.1 < t.2 then g - 1 else g

/-- A fraction rounded to a multiple of `2^q`: the number of such multiples (R118 rule 1). -/
def roundAt (n d : Nat) (e q : Int) : Nat :=
  let t := scaleFrac n d (e - q)
  roundFrac t.1 t.2

/-- Rounding to nearest, ties to even, at `p` significant bits and no finer than `2^qmin`. -/
def roundPrec (p : Nat) (qmin : Int) (n d : Nat) (e : Int) : Nat × Int :=
  if n == 0 then (0, qmin)
  else
    let q := max (log2Frac n d + e - (p : Int) + 1) qmin
    (roundAt n d e q, q)

/-! ### Exact arithmetic -/

/-- Exact sum of two finite values; an exact zero sum is positive unless both operands are negative. -/
def addFin (s1 : Bool) (n1 d1 : Nat) (e1 : Int) (s2 : Bool) (n2 d2 : Nat) (e2 : Int) : Val :=
  let e := min e1 e2
  let a : Int := (((n1 * d2) <<< (e1 - e).toNat : Nat) : Int) * (if s1 then -1 else 1)
  let b : Int := (((n2 * d1) <<< (e2 - e).toNat : Nat) : Int) * (if s2 then -1 else 1)
  let t := a + b
  if t == 0 then .fin (s1 && s2) 0 1 0 else .fin (t < 0) t.natAbs (d1 * d2) e

/-- Exact sum. Opposite infinities give a NaN. -/
def Val.add : Val → Val → Val
  | .nan, _ => .nan
  | _, .nan => .nan
  | .inf a, .inf b => if a == b then .inf a else .nan
  | .inf a, _ => .inf a
  | _, .inf b => .inf b
  | .fin s1 n1 d1 e1, .fin s2 n2 d2 e2 => addFin s1 n1 d1 e1 s2 n2 d2 e2

/-- Exact difference. -/
def Val.sub (a b : Val) : Val := a.add b.neg

/-- Exact product. Zero times an infinity gives a NaN. -/
def Val.mul : Val → Val → Val
  | .nan, _ => .nan
  | _, .nan => .nan
  | .inf a, .inf b => .inf (a != b)
  | .inf a, .fin s n _ _ => if n == 0 then .nan else .inf (a != s)
  | .fin s n _ _, .inf b => if n == 0 then .nan else .inf (s != b)
  | .fin s1 n1 d1 e1, .fin s2 n2 d2 e2 => .fin (s1 != s2) (n1 * n2) (d1 * d2) (e1 + e2)

/-- Exact quotient. A zero divisor gives an infinity, or a NaN under a zero. -/
def Val.div : Val → Val → Val
  | .nan, _ => .nan
  | _, .nan => .nan
  | .inf _, .inf _ => .nan
  | .inf a, .fin s _ _ _ => .inf (a != s)
  | .fin s _ _ _, .inf b => .fin (s != b) 0 1 0
  | .fin s1 n1 d1 e1, .fin s2 n2 d2 e2 =>
    if n2 == 0 then (if n1 == 0 then .nan else .inf (s1 != s2))
    else .fin (s1 != s2) (n1 * d2) (d1 * n2) (e1 - e2)

/-- Exact comparison of finite values and infinities: a strict order in which the two zeros are equal. -/
def Val.lt : Val → Val → Bool
  | .nan, _ => false
  | _, .nan => false
  | .inf a, .inf b => a && !b
  | .inf a, .fin _ _ _ _ => a
  | .fin _ _ _ _, .inf b => !b
  | .fin s1 n1 d1 e1, .fin s2 n2 d2 e2 =>
    match addFin s1 n1 d1 e1 (!s2) n2 d2 e2 with
    | .fin s n _ _ => s && n != 0
    | _ => false

/-- Equality of values as numbers. -/
def Val.eqv (a b : Val) : Bool := !a.isNan && !b.isNan && !(a.lt b) && !(b.lt a)

/-- `a` is at most `b`; false when either is a NaN. -/
def Val.le (a b : Val) : Bool := !a.isNan && !b.isNan && !(b.lt a)

/-! ### Float codes -/

/-- The shape of a float format (R113, R114): field widths, bias, whether it has infinities, its
largest finite code and the NaN code it writes. -/
structure FloatFmt where
  ebits : Nat
  mbits : Nat
  bias : Nat
  hasInf : Bool
  maxCode : Nat
  nanCode : Nat
  deriving DecidableEq, Repr

def f8a : FloatFmt := ⟨4, 3, 7, false, 0x7E, 0x7F⟩
def f8b : FloatFmt := ⟨5, 2, 15, true, 0x7B, 0x7E⟩
def f16 : FloatFmt := ⟨5, 10, 15, true, 0x7BFF, 0x7E00⟩
def bf16 : FloatFmt := ⟨8, 7, 127, true, 0x7F7F, 0x7FC0⟩
def f32 : FloatFmt := ⟨8, 23, 127, true, 0x7F7FFFFF, 0x7FC00000⟩

/-- The total width of a float format. -/
def FloatFmt.width (f : FloatFmt) : Nat := 1 + f.ebits + f.mbits

/-- The exponent of the smallest subnormal. -/
def FloatFmt.qmin (f : FloatFmt) : Int := 1 - (f.bias : Int) - (f.mbits : Int)

/-- The value of a float code (R113, R114). -/
def FloatFmt.decode (f : FloatFmt) (c : Nat) : Val :=
  let s := c.testBit (f.ebits + f.mbits)
  let mag := c % 2 ^ (f.ebits + f.mbits)
  let m := c % 2 ^ f.mbits
  let x := (c >>> f.mbits) % 2 ^ f.ebits
  if f.maxCode < mag then
    (if f.hasInf && m == 0 then .inf s else .nan)
  else if x == 0 then .fin s m 1 f.qmin
  else .fin s (2 ^ f.mbits + m) 1 ((x : Int) - 1 + f.qmin)

/-- The magnitude code of `n * 2^q` as `roundPrec` gives it, before any bound. -/
def FloatFmt.magCode (f : FloatFmt) (n : Nat) (q : Int) : Nat :=
  let base := (q - f.qmin).toNat
  if n == 0 then 0
  else if base == 0 then n
  else ((base + 1) <<< f.mbits) + n - 2 ^ f.mbits

/-- The sign bit of a code. -/
def FloatFmt.signBit (f : FloatFmt) (s : Bool) : Nat := if s then 2 ^ (f.ebits + f.mbits) else 0

/-- R118: a value narrowed to a float format, and whether it is a clip (rule 5). -/
def FloatFmt.narrow (f : FloatFmt) : Val → Nat × Bool
  | .nan => (f.nanCode, false)
  | .inf s => if f.hasInf then (f.signBit s + f.maxCode + 1, false) else (f.signBit s + f.maxCode, true)
  | .fin s n d e =>
    let r := roundPrec (f.mbits + 1) f.qmin n d e
    let c := f.magCode r.1 r.2
    if f.maxCode < c then (f.signBit s + f.maxCode, true) else (f.signBit s + c, false)

/-- A value rounded to F32 as one arithmetic result: a rounded value beyond the range is an infinity. -/
def Val.r32 : Val → Val
  | .nan => .nan
  | .inf s => .inf s
  | .fin s n d e =>
    let r := roundPrec 24 f32.qmin n d e
    if f32.maxCode < f32.magCode r.1 r.2 then .inf s else .fin s r.1 1 r.2

/-- The F32 code of a value that F32 holds. -/
def Val.code32 (v : Val) : Nat := (f32.narrow v).1

/-- The value of an F32 code. -/
def val32 (c : Nat) : Val := f32.decode c

/-! ### F32 operations, one rounding each (R78, R100, R126) -/

def fadd (a b : Val) : Val := (a.add b).r32
def fsub (a b : Val) : Val := (a.sub b).r32
def fmul (a b : Val) : Val := (a.mul b).r32
def fdiv (a b : Val) : Val := (a.div b).r32
/-- R100: fused multiply-add, one rounding. -/
def ffma (a b c : Val) : Val := ((a.mul b).add c).r32

/-- R100: MAX gives a NaN when either operand is one, and orders -0 below +0. -/
def fmax (a b : Val) : Val :=
  if a.isNan || b.isNan then .nan
  else if a.lt b then b else if b.lt a then a else if a.negative then b else a

/-- R100: MIN, with the same order. -/
def fmin (a b : Val) : Val :=
  if a.isNan || b.isNan then .nan
  else if a.lt b then a else if b.lt a then b else if a.negative then a else b

/-- One step of the bitwise integer square root. -/
def isqrtStep (n r k : Nat) : Nat := if (r + 2 ^ k) * (r + 2 ^ k) ≤ n then r + 2 ^ k else r

/-- The integer square root of `n`, found from bit `k` down. -/
def isqrtFrom (n : Nat) : Nat → Nat → Nat
  | 0, r => isqrtStep n r 0
  | k + 1, r => isqrtFrom n k (isqrtStep n r (k + 1))

/-- The floor of the square root. -/
def isqrt (n : Nat) : Nat := isqrtFrom n (n.log2 / 2 + 1) 0

/-- The square root of a positive fraction to 160 bits and more, with a sticky last bit, so that one
rounding of it is the rounding of the exact root. -/
def sqrtVal (n d : Nat) (e : Int) : Val :=
  let odd : Nat := if e % 2 == 0 then 0 else 1
  let m := ((n <<< (odd + 2 * (160 + d.log2))) / d)
  let exact := m * d == n <<< (odd + 2 * (160 + d.log2))
  let r := isqrt m
  .fin false (2 * r + (if exact && r * r == m then 0 else 1)) 1 ((e - odd) / 2 - 160 - (d.log2 : Int) - 1)

/-- The correctly rounded F32 square root of a value that is not negative. -/
def fsqrt : Val → Val
  | .fin s n d e => if n == 0 then .fin s 0 1 0 else if s then .nan else (sqrtVal n d e).r32
  | .inf s => if s then .nan else .inf false
  | .nan => .nan

/-! ### Elementary functions (R100): fixed point to 192 fraction bits, rounded once -/

/-- The natural logarithm of 2 with 192 fraction bits. -/
def ln2Fix : Nat := 0xb17217f7d1cf79abc9e3b39803f2f6af40f343267298b62d

/-- `sum r^j / j!` from term `t` on, for a fixed-point `r` below 1 with 192 fraction bits. -/
def expSeries (r : Nat) : Nat → Nat → Nat → Nat
  | 0, _, _ => 0
  | k + 1, j, t => t + expSeries r k (j + 1) (((t * r) >>> 192) / (j + 1))

/-- e to a finite power, with about 190 significant bits. -/
def expVal (s : Bool) (n d : Nat) (e : Int) : Val :=
  let f := scaleFrac n d (e + 192)
  let x := f.1 / f.2
  if 192 * 2 ^ 192 ≤ x then (if s then .fin false 1 1 (-1000) else .fin false 1 1 1000)
  else
    let k := x / ln2Fix
    let r := x % ln2Fix
    if s then
      (if r == 0 then .fin false 1 1 (-(k : Int))
       else .fin false (2 * expSeries (ln2Fix - r) 70 0 (2 ^ 192) + 1) 1 (-(k : Int) - 1 - 193))
    else .fin false (2 * expSeries r 70 0 (2 ^ 192) + (if x == 0 && n == 0 then 0 else 1)) 1 ((k : Int) - 193)

/-- `sum z^(2j+1) / (2j+1)` for a fixed-point `z` at most a third. -/
def atanhSeries (z2 : Nat) : Nat → Nat → Nat → Nat
  | 0, _, _ => 0
  | k + 1, j, t => t / (2 * j + 1) + atanhSeries z2 k (j + 1) ((t * z2) >>> 192)

/-- The natural logarithm of a positive fraction. -/
def logVal (n d : Nat) (e : Int) : Val :=
  let g := log2Frac n d
  let m := scaleFrac n d (-g)
  let k := g + e
  if m.1 == m.2 && k == 0 then .zero
  else
    let z := ((m.1 - m.2) <<< 192) / (m.1 + m.2)
    let l : Int := 2 * (atanhSeries ((z * z) >>> 192) 64 0 z : Int) + k * (ln2Fix : Int)
    .fin (l < 0) (2 * l.natAbs + 1) 1 (-193)

/-- EXP of R100, rounded once to F32. POST_DECODE uses the same bits (R159). -/
def fexp : Val → Val
  | .nan => .nan
  | .inf s => if s then .zero else .inf false
  | .fin s n d e => (expVal s n d e).r32

/-- SIGMOID of R100: 1 / (1 + e^-x). -/
def fsigmoid : Val → Val
  | .nan => .nan
  | .inf s => if s then .zero else Val.ofNat 1
  | .fin s n d e =>
    let t := expVal true n d e
    let den := t.add (Val.ofNat 1)
    if s then (t.div den).r32 else ((Val.ofNat 1).div den).r32

/-- TANH of R100. Below 2^-13 the rounded result is the operand. -/
def ftanh : Val → Val
  | .nan => .nan
  | .inf s => .fin s 1 1 0
  | .fin s n d e =>
    if n == 0 then .fin s n d e
    else if log2Frac n d + e < -13 then (Val.fin s n d e).r32
    else
      let u := expVal true n d (e + 1)
      let r := ((Val.ofNat 1).sub u).div (u.add (Val.ofNat 1))
      (if s then r.neg else r).r32

/-- LOG of R100 on a positive operand. -/
def flog : Val → Val
  | .fin false n d e => (logVal n d e).r32
  | .inf false => .inf false
  | _ => .nan

/-- RSQRT of R100 on a positive operand: one rounding of the exact reciprocal root. -/
def frsqrt : Val → Val
  | .fin false n d e => (sqrtVal d n (-e)).r32
  | .inf false => .zero
  | _ => .nan

/-! ### Element formats (R113) -/

/-- The fifteen element formats. -/
inductive Fmt where
  | i4 | u4 | i8 | u8 | i16 | i32 | f8a | f8b | f16 | bf16 | f32 | un10 | un12 | sq | bx4
  deriving DecidableEq, Repr

/-- The format of a code; 0xF names none (R113). -/
def Fmt.ofCode : Nat → Option Fmt
  | 0x0 => some .i4
  | 0x1 => some .u4
  | 0x2 => some .i8
  | 0x3 => some .u8
  | 0x4 => some .i16
  | 0x5 => some .i32
  | 0x6 => some .f8a
  | 0x7 => some .f8b
  | 0x8 => some .f16
  | 0x9 => some .bf16
  | 0xA => some .f32
  | 0xB => some .un10
  | 0xC => some .un12
  | 0xD => some .sq
  | 0xE => some .bx4
  | _ => none

/-- The code of a format. -/
def Fmt.code : Fmt → Nat
  | .i4 => 0x0 | .u4 => 0x1 | .i8 => 0x2 | .u8 => 0x3 | .i16 => 0x4 | .i32 => 0x5 | .f8a => 0x6
  | .f8b => 0x7 | .f16 => 0x8 | .bf16 => 0x9 | .f32 => 0xA | .un10 => 0xB | .un12 => 0xC
  | .sq => 0xD | .bx4 => 0xE

/-- The bits of one element; a BX4 significand has 4. -/
def Fmt.bits : Fmt → Nat
  | .i4 => 4 | .u4 => 4 | .i8 => 8 | .u8 => 8 | .i16 => 16 | .i32 => 32 | .f8a => 8 | .f8b => 8
  | .f16 => 16 | .bf16 => 16 | .f32 => 32 | .un10 => 16 | .un12 => 16 | .sq => 16 | .bx4 => 4

/-- R115: the bytes that `n` packed elements take. -/
def Fmt.bytes (f : Fmt) (n : Nat) : Nat :=
  match f with
  | .bx4 => n / 2 + n / 32
  | _ => ceilDiv (n * f.bits) 8

/-- The float shape of a float format. -/
def Fmt.float : Fmt → Option FloatFmt
  | .f8a => some Machine.f8a
  | .f8b => some Machine.f8b
  | .f16 => some Machine.f16
  | .bf16 => some Machine.bf16
  | .f32 => some Machine.f32
  | _ => none

/-- R120: the formats that carry zero points. -/
def Fmt.hasZero : Fmt → Bool
  | .i4 | .u4 | .i8 | .u8 | .i16 => true
  | _ => false

/-- The integer range of an integer format. -/
def Fmt.intRange : Fmt → Option (Int × Int)
  | .i4 => some (-8, 7)
  | .u4 => some (0, 15)
  | .i8 => some (-128, 127)
  | .u8 => some (0, 255)
  | .i16 => some (-32768, 32767)
  | .i32 => some (-2147483648, 2147483647)
  | _ => none

/-- R113, R116: the value of a code. A BX4 significand is read with exponent byte `x`. -/
def Fmt.value (f : Fmt) (c : Nat) (x : Nat := 127) : Val :=
  match f with
  | .i4 => Val.ofInt (signed 4 c)
  | .u4 => Val.ofNat (c % 16)
  | .i8 => Val.ofInt (signed 8 c)
  | .u8 => Val.ofNat (c % 256)
  | .i16 => Val.ofInt (signed 16 c)
  | .i32 => Val.ofInt (signed 32 c)
  | .f8a => Machine.f8a.decode c
  | .f8b => Machine.f8b.decode c
  | .f16 => Machine.f16.decode c
  | .bf16 => Machine.bf16.decode c
  | .f32 => Machine.f32.decode c
  | .un10 => .fin false (c % 1024) 1023 0
  | .un12 => .fin false (c % 4096) 4095 0
  | .sq =>
    if 0x8000 ≤ c % 65536 && c % 65536 ≤ 0x800F then .nan
    else let q := signed 16 c
      .fin (q < 0) q.natAbs 1 (-4)
  | .bx4 =>
    if x == 255 then .nan
    else let q := signed 4 c
      .fin (q < 0) q.natAbs 1 ((x : Int) - 127)

/-- A value rounded to an integer, ties to even. -/
def roundInt (s : Bool) (n d : Nat) (e : Int) : Int :=
  let r := roundAt n d e 0
  if s then -(r : Int) else (r : Int)

/-- A rounded value held within limits, and whether it was clipped. -/
def clampInt (lo hi x : Int) : Int × Bool :=
  if x < lo then (lo, true) else if hi < x then (hi, true) else (x, false)

/-- R118: an integer narrowing of `v` with `z` added after rounding (R126 step 6, R127). -/
def narrowInt (lo hi z : Int) : Val → Int × Bool
  | .nan => (0, true)
  | .inf s => (if s then lo else hi, true)
  | .fin s n d e => clampInt lo hi (roundInt s n d e + z)

/-- One narrowed element: its code, whether it is a clip, and the value written before the zero point. -/
structure Narrowed where
  code : Nat
  clip : Bool
  back : Val
  deriving DecidableEq, Repr

/-- R118 for every format but BX4, whose elements are narrowed a block at a time. -/
def Fmt.narrow (f : Fmt) (z : Int) (v : Val) : Narrowed :=
  match f.float with
  | some ff =>
    let r := ff.narrow v
    ⟨r.1, r.2, ff.decode r.1⟩
  | none =>
    match f.intRange with
    | some lh =>
      let zz := if f.hasZero || f == .i32 then z else 0
      let r := narrowInt lh.1 lh.2 zz v
      ⟨toCode f.bits r.1, r.2, if v.isNan then .zero else Val.ofInt (r.1 - zz)⟩
    | none =>
      match f with
      | .un10 =>
        let r := narrowInt 0 1023 0 (v.mul (Val.ofNat 1023))
        ⟨r.1.toNat, r.2, .fin false r.1.toNat 1023 0⟩
      | .un12 =>
        let r := narrowInt 0 4095 0 (v.mul (Val.ofNat 4095))
        ⟨r.1.toNat, r.2, .fin false r.1.toNat 4095 0⟩
      | _ =>
        if v.isNan then ⟨0x800F, false, .nan⟩
        else
          let r := narrowInt (-32752) 32767 0 (v.mul (Val.ofNat 16))
          ⟨toCode 16 r.1, r.2, .fin (r.1 < 0) r.1.natAbs 1 (-4)⟩

/-- The largest finite magnitude of a list, as a fraction with a power of two. -/
def maxMag : List Val → Val
  | [] => .zero
  | v :: vs =>
    let m := maxMag vs
    match v with
    | .fin _ n d e => if m.lt (.fin false n d e) then .fin false n d e else m
    | _ => m

/-- The significands of a block at exponent `e`, not yet bounded (R117). -/
def bx4Sigs (e : Int) (vs : List Val) : List Int :=
  vs.map fun v =>
    match v with
    | .nan => 0
    | .inf s => if s then -8 else 7
    | .fin s n d x => roundInt s n d (x - e)

/-- R117: a block of 32 values encoded: the exponent byte and each significand with its clip. R119 calls BX4 to BX4 exact, which this
encoding is not for a block that holds −8: a conversion from BX4 to BX4 keeps its blocks (`bx4Keep`), and everything else is encoded by
R117 (DESIGN CHOICE, assumption 68). -/
def bx4Encode (vs : List Val) : Nat × List Narrowed :=
  if vs.any Val.isNan then
    (255, vs.map fun _ => ⟨0, false, .nan⟩)
  else
    let infinite := vs.any fun v => match v with | .inf _ => true | _ => false
    match maxMag vs with
    | .fin _ n d x =>
      if n == 0 && !infinite then (0, vs.map fun _ => ⟨0, false, .zero⟩)
      else
        let e0 : Int := if n == 0 then 0 else log2Frac n d + x - 2
        let big := (bx4Sigs e0 vs).any fun q => q < -8 || 7 < q
        let e1 := if big then e0 + 1 else e0
        let e2 : Int := if infinite then 127 else max (-127) (min 127 e1)
        (((e2 + 127).toNat), vs.map fun v =>
          let r : Int × Bool := match v with
            | .inf s => (if s then (-8 : Int) else 7, true)
            | .fin s n d x => clampInt (-8) 7 (roundInt s n d (x - e2))
            | .nan => (0, true)
          ⟨toCode 4 r.1, r.2, .fin (r.1 < 0) r.1.natAbs 1 e2⟩)
    | _ => (0, [])

/-- R129: the step of the format at value `v`; `x` is the exponent of a BX4 block. -/
def Fmt.stepExp (f : Fmt) (v : Val) (x : Nat) : Int :=
  match f.float with
  | some ff =>
    match v with
    | .fin _ n d e => if n == 0 then ff.qmin else max (log2Frac n d + e - ff.mbits) ff.qmin
    | _ => ff.qmin
  | none =>
    match f with
    | .sq => -4
    | .bx4 => (x : Int) - 127
    | _ => 0

/-- R129: the squared-error term of one element, with 16 fraction bits. -/
def errorTerm (f : Fmt) (x : Nat) (v back : Val) : Nat :=
  match v, back with
  | .fin s1 n1 d1 e1, .fin s2 n2 d2 e2 =>
    if n1 == 0 then 0
    else
      match addFin s1 n1 d1 e1 (!s2) n2 d2 e2 with
      | .fin _ n d e =>
        let k : Nat := match f with | .un10 => 1023 | .un12 => 4095 | _ => 1
        let m := n * k
        min (roundAt (m * m) (d * d) (2 * (e - f.stepExp v x) + 16) 0) 0xFFFFFFFF
      | _ => 0
  | _, _ => 0

/-- What a run of narrowed elements adds to a statistic slot (R85, R129). -/
structure Stats where
  count : Nat
  clips : Nat
  sse : Nat
  deriving DecidableEq, Repr

def Stats.none : Stats := ⟨0, 0, 0⟩

def Stats.plus (a b : Stats) : Stats := ⟨a.count + b.count, a.clips + b.clips, a.sse + b.sse⟩

/-- The statistic of one watched element. -/
def statOf (f : Fmt) (x : Nat) (v : Val) (r : Narrowed) : Stats :=
  ⟨1, b2n r.clip, if v.isNan then 0 else errorTerm f x v r.back⟩

/-- A list cut into runs of `k`, given enough fuel. -/
def chunks {α : Type} (k : Nat) : Nat → List α → List (List α)
  | 0, _ => []
  | fuel + 1, xs => if xs.isEmpty then [] else xs.take k :: chunks k fuel (xs.drop k)

/-- Nibbles packed two to a byte, the first in the low half (R115). After an odd number of them the upper half of the last byte is written as
zeros (DESIGN CHOICE, assumption 72). -/
def packNibbles : List Nat → List Byte
  | [] => []
  | [a] => [BitVec.ofNat 8 (a % 16)]
  | a :: b :: rest => BitVec.ofNat 8 (a % 16 + 16 * (b % 16)) :: packNibbles rest

/-- R115: the bytes of a run of codes of one format other than BX4. -/
def Fmt.pack (f : Fmt) (cs : List Nat) : List Byte :=
  if f.bits == 4 then packNibbles cs else cs.flatMap fun c => leBytes (f.bits / 8) c

/-- R115: the code of element `i` in packed bytes. -/
def Fmt.codeAt (f : Fmt) (bs : List Byte) (i : Nat) : Nat :=
  if f.bits == 4 then
    let b := (bs.getD (i / 2) 0).toNat
    if i % 2 == 0 then b % 16 else b / 16
  else leNat ((bs.drop (i * (f.bits / 8))).take (f.bits / 8))

/-- R115: the codes of `n` packed elements. -/
def Fmt.unpack (f : Fmt) (bs : List Byte) (n : Nat) : List Nat :=
  (List.range n).map fun i => f.codeAt bs i

/-- The values of `n` packed elements, BX4 blocks included. -/
def Fmt.values (f : Fmt) (bs : List Byte) (n : Nat) : List Val :=
  (List.range n).map fun i =>
    f.value (f.codeAt bs i) (if f == .bx4 then (bs.getD (n / 2 + i / 32) 0).toNat else 127)

/-- R119: `n` BX4 elements converted to BX4: every block is kept, a NaN block with its significands zero (R117). -/
def bx4Keep (bs : List Byte) (n : Nat) : List Byte × Stats :=
  let exp := fun b => (bs.getD (n / 2 + b) 0).toNat
  let codes := (List.range n).map fun i => if exp (i / 32) == 255 then 0 else Fmt.bx4.codeAt bs i
  let vals := Fmt.bx4.values bs n
  (packNibbles codes ++ (List.range (n / 32)).map fun b => BitVec.ofNat 8 (exp b),
    (((List.range n).zip (codes.zip vals)).map fun p => statOf .bx4 (exp (p.1 / 32)) p.2.2 ⟨p.2.1, false, p.2.2⟩).foldl
      Stats.plus Stats.none)

/-- Values narrowed to a format with one zero point each: the packed bytes and what was watched. The
elements whose `watch` is false add nothing (R85), and where `fixed` gives a code it is written instead. -/
def narrowRun (f : Fmt) (vs : List (Val × Int × Option Nat)) : List Byte × Stats :=
  match f with
  | .bx4 =>
    let blocks := (chunks 32 (vs.length + 1) (vs.map (·.1))).map fun b => (b, bx4Encode b)
    let sigs := blocks.flatMap fun b => b.2.2
    let st := (blocks.flatMap fun b => (b.1.zip b.2.2).map fun p => statOf .bx4 b.2.1 p.1 p.2).foldl
      Stats.plus Stats.none
    (packNibbles (sigs.map (·.code)) ++ blocks.map fun b => BitVec.ofNat 8 b.2.1, st)
  | _ =>
    let rs := vs.map fun p =>
      match p.2.2 with
      | some c => (c, Stats.none)
      | none => let r := f.narrow p.2.1 p.1
        (r.code, statOf f 127 p.1 r)
    (f.pack (rs.map (·.1)), (rs.map (·.2)).foldl Stats.plus Stats.none)

/-- A pairwise reduction tree in index order, given fuel (R100, R307). -/
def treePass {α : Type} (op : α → α → α) : List α → List α
  | a :: b :: rest => op a b :: treePass op rest
  | xs => xs

/-- The root of the pairwise tree. -/
def treeReduce {α : Type} (op : α → α → α) : Nat → List α → Option α
  | _, [] => none
  | _, [a] => some a
  | 0, a :: _ => some a
  | fuel + 1, xs => treeReduce op fuel (treePass op xs)

end Sys2Proof.Machine
end

