-- ==== Sys2Proof/Machine/Ingest.lean ====
section
/-!
DEFINITION. The ingest block (R15, R58, R59, R345 to R352, R314): the tunnelled DisplayPort stream, source frame
buffers, the colour conversion and the luma pyramid, and the hint ring.
-/

-- One declaration at a time: the threads of a parallel elaboration take memory together.
set_option Elab.async false

namespace Sys2Proof.Machine

/-! ### Buffers and what they protect (R267, R327, R347) -/

/-- R359: source frame buffers, 3 to 16. -/
def State.srcCount (s : State) : Nat := max 3 (min 16 (bits (s.reg .ingest 0 0x048) 4 0))
/-- R347: the source frame flag; the return flag is the next. -/
def State.srcFlag (s : State) : Nat := bits (s.reg .ingest 0 0x048) 27 16
def State.srcBase (s : State) : Nat := pairAddr (s.reg .ingest 0 0x04C) (s.reg .ingest 0 0x050)
def State.srcStride (s : State) : Nat := s.reg .ingest 0 0x054

/-- R14, R347: a source frame is held until the return flag passes it. -/
def State.srcHeld (s : State) (f : SrcFrame) : Bool := !f.gone && !atOrAfter (s.flag (s.srcFlag + 1)).gen (f.gen + 1)

/-- R267: a held source frame is protected. -/
def State.protectedHeld (s : State) : Bool := (s.ingest.cur.toList ++ s.ingest.frames).any fun f => f.prot && s.srcHeld f

/-- Two runs of bytes share one. -/
def meet (a n b m : Nat) : Bool := a < b + m && b < a + n

/-- R267, R327: a run of DRAM bytes lies in a source frame buffer or in a canvas buffer. -/
def State.inFrameBuffer (s : State) (a n : Nat) : Bool :=
  ((List.range s.srcCount).any fun b => meet a n (s.srcBase + b * s.srcStride) s.srcStride) ||
    ((List.range s.buffers).any fun b => meet a n (s.canvasBase + b * s.bufStride) s.bufStride)

/-! ### The stream (R345) -/

/-- R345: the formats that are ingested. -/
def streamSupported (enc bpc w h rate : Nat) (progressive : Bool) : Bool :=
  enc ≤ 1 && (bpc == 8 || bpc == 10 || bpc == 12) && progressive && 64 ≤ w && w ≤ 7680 && w % 2 == 0 &&
    64 ≤ h && h ≤ 4320 && rate ≤ 2000000000

/-- STREAM_LOCK (R345, R359): while debug access is OPEN the receiver refuses to authenticate, and no stream is protected (R463). ENC 0 is RGB and 1 YCbCr 4:4:4; other encodings are outside the table. -/
def execStreamLock (enc bpc w h rate : Nat) (progressive prot ctype : Bool) (s : State) : Out :=
  if !((s.page .ingest 0).enable && s.link.dpUp) then .next s
  else
    let ok := streamSupported enc bpc w h rate progressive
    let auth := prot && !s.dbg.isOpen
    let s1 := { s with ingest := { s.ingest with
      locked := true, supported := ok, prot := auth, ctype := auth && ctype, enc := enc, bpc := bpc, w := w, h := h } }
    .next (((if ok then s1 else s1.err .ingest 0 1 0 0).edge .ingest 0 0x20 s.ingest.locked none).irq .ingest 0 0b0001)

/-- A source frame is discarded and counted (R15, R347). -/
def State.discardFrame (s : State) : State := ((s.bump .ingest 0 0x074 1).pulse .ingest 0 0x11 1 none).irq .ingest 0 0b0100

/-- R353, R359: the source stream goes away: the frame in progress is discarded and counted. -/
def State.loseStream (s : State) : State :=
  let s1 := if s.ingest.cur.isSome then s.discardFrame else s
  { s1 with ingest := { s1.ingest with locked := false, prot := false, ctype := false, cur := none } }.irq .ingest 0 0b0010

/-- STREAM_LOST (R359): the source stream, or with `tunnel` the DP tunnel, goes away while the link stays up. -/
def execStreamLost (tunnel : Bool) (s : State) : Out :=
  if tunnel && s.link.dpUp then
    .next ({ s with link := { s.link with dpUp := false } }.loseStream.irq .hif 0 0b1000)
  else if s.ingest.locked then .next s.loseStream
  else .next s

/-! ### Frames (R347, R349, R352) -/

/-- R352: the SDPs other than VSC, of which the first 8 are captured. -/
def notVsc (sdps : List (List Byte)) : List (List Byte) := sdps.filter fun p => p.getD 1 0 != 0x07

/-- R347: a frame is written into the buffer of fill value `g`. -/
def State.beginFrame (s : State) (g : Word) (bt2020 full : Bool) (sdps : List (List Byte)) : State :=
  let i := s.ingest
  let buf := g.toNat % s.srcCount
  let others := notVsc sdps
  let f : SrcFrame :=
    { seq := i.seq, buf := buf, gen := g, w := i.w, h := i.h, prot := i.prot, ctype := i.ctype, time := s.now
      bt2020 := bt2020, full := full, sdps := others.take 8, hint := none, depth := [], dSrc := [], dHint := List.replicate 32 0
      complete := false, gone := false }
  let old := i.frames.map fun (x : SrcFrame) => if x.buf == buf then { x with gone := true } else x
  { s with ingest := { i with seq := i.seq + 1, cur := some f, frames := old } }.bump .ingest 0 0x07C (others.length - 8)

/-- DP_FRAME_START (R347, R349, R352): at the first active line of a source frame. -/
def execDpFrameStart (bt2020 full : Bool) (sdps : List (List Byte)) (s : State) : Out :=
  if !((s.page .ingest 0).enable && s.ingest.locked && s.ingest.cur.isNone) then .next s
  else
    let g := (s.flag s.srcFlag).gen
    let r := (s.flag (s.srcFlag + 1)).gen
    if s.ingest.supported && (g - r).toNat < s.srcCount then .next (s.beginFrame g bt2020 full sdps)
    else .next { s with ingest := { s.ingest with seq := s.ingest.seq + 1 } }.discardFrame

/-! ### Pixels (R346) -/

/-- A fraction as an F32 value. -/
def frac32 (n d : Nat) : Val := (Val.fin false n d 0).r32

/-- K_R and K_B of BT.709 and BT.2020, in ten thousandths (PRESUMED). -/
def kR (bt2020 : Bool) : Nat := if bt2020 then 2627 else 2126
def kB (bt2020 : Bool) : Nat := if bt2020 then 593 else 722

/-- A difference of codes over a span, as an F32 value. -/
def codeFrac (c origin span : Nat) : Val := fdiv (Val.ofInt ((c : Int) - (origin : Int))) (Val.ofNat span)

/-- R346: the normalised red, green and blue of an RGB pixel. -/
def rgbOf (bpc : Nat) (p : Nat × Nat × Nat) : List Val :=
  let m := 2 ^ bpc - 1
  [codeFrac p.1 0 m, codeFrac p.2.1 0 m, codeFrac p.2.2 0 m]

/-- R346: the red, green and blue of a Y, Cb, Cr pixel, in F32, in the declared range. -/
def yccOf (bpc : Nat) (bt2020 full : Bool) (p : Nat × Nat × Nat) : List Val :=
  let u := 2 ^ (bpc - 8)
  let y := if full then codeFrac p.1 0 (256 * u - 1) else codeFrac p.1 (16 * u) (219 * u)
  let cb := if full then codeFrac p.2.1 (128 * u) (256 * u - 1) else codeFrac p.2.1 (128 * u) (224 * u)
  let cr := if full then codeFrac p.2.2 (128 * u) (256 * u - 1) else codeFrac p.2.2 (128 * u) (224 * u)
  let r := kR bt2020
  let b := kB bt2020
  let g := 10000 - r - b
  [fadd y (fmul (frac32 (2 * (10000 - r)) 10000) cr),
    fsub (fsub y (fmul (frac32 (2 * b * (10000 - b)) (10000 * g)) cb)) (fmul (frac32 (2 * r * (10000 - r)) (10000 * g)) cr),
    fadd y (fmul (frac32 (2 * (10000 - b)) 10000) cb)]

/-- R346: the UN10 red, green and blue of a pixel. -/
def un10Of (enc bpc : Nat) (p : Nat × Nat × Nat) (v : List Val) : List Nat :=
  if enc == 0 then
    [p.1, p.2.1, p.2.2].map fun c => (roundInt false (c * 1023) (2 ^ bpc - 1) 0).toNat
  else v.map fun x => (Fmt.un10.narrow 0 x).code

/-- R346: the UN10 luma of a pixel. -/
def lumaOf (bt2020 : Bool) (v : List Val) : Nat :=
  let r := kR bt2020
  let b := kB bt2020
  let y := fadd (fadd (fmul (frac32 r 10000) (v.getD 0 .zero)) (fmul (frac32 (10000 - r - b) 10000) (v.getD 1 .zero)))
    (fmul (frac32 b 10000) (v.getD 2 .zero))
  (Fmt.un10.narrow 0 y).code

/-- R346: a row of the next pyramid level from two rows of the level below. -/
def halve : List Nat → List Nat → List Nat
  | a :: b :: xs, c :: d :: ys => (roundInt false (a + b + c + d) 4 0).toNat :: halve xs ys
  | [a], [c] => [(roundInt false (2 * a + 2 * c) 4 0).toNat]
  | _, _ => []

/-- R346: the next pyramid level, the last row repeated at an odd edge. -/
def nextLevel : List (List Nat) → List (List Nat)
  | a :: b :: rest => halve a b :: nextLevel rest
  | [a] => [halve a a]
  | [] => []

/-- R350: the bytes of a row of a plane or level of `w` UN10 elements. -/
def rowPitch (w : Nat) : Nat := ceilDiv (2 * w) 64 * 64

/-- A plane as runs of bytes, row by row. -/
def planeRuns (base pitch : Nat) (rows : List (List Nat)) : List (Nat × List Byte) :=
  (List.range rows.length).zip rows |>.map fun r => (base + r.1 * pitch, Fmt.un10.pack r.2)

/-- R350: width and height of level `l`. -/
def levelW (w l : Nat) : Nat := ceilDiv w (2 ^ l)

/-- R350: where level `l` starts after level 0. -/
def levelOffset (w h : Nat) : Nat → Nat
  | 0 => 0
  | l + 1 => levelOffset w h l + rowPitch (levelW w l) * levelW h l

/-- R350: the pyramid record. -/
def pyramidRecord (f : SrcFrame) (base : Nat) : List Byte :=
  let rgb := base + 4096
  leBytes 2 0x0010 ++ leBytes 2 f.w ++ leBytes 2 f.h ++ leBytes 1 0x0B ++ leBytes 1 5 ++ leBytes 4 f.seq.toNat ++
    leBytes 1 (b2n f.prot + 2 * b2n f.ctype) ++ leBytes 3 0 ++ leBytes 8 f.time ++ leBytes 8 rgb ++
    leBytes 4 (rowPitch f.w) ++ leBytes 4 0 ++ leBytes 8 (rgb + 3 * rowPitch f.w * f.h) ++
    ((List.range 5).flatMap fun l => leBytes 2 (rowPitch (levelW f.w l))) ++ leBytes 6 0

/-- What ingest writes of a frame (R346, R350), and the bytes of its colour planes (R314). -/
def frameRuns (enc bpc : Nat) (f : SrcFrame) (base : Nat) (pixels : List (Nat × Nat × Nat)) :
    List (Nat × List Byte) × List Byte :=
  let px := pixels.map fun p =>
    let v := if enc == 0 then rgbOf bpc p else yccOf bpc f.bt2020 f.full p
    (un10Of enc bpc p v, lumaOf f.bt2020 v)
  let rows := (List.range f.h).map fun y => (px.drop (y * f.w)).take f.w
  let chan := fun k => rows.map fun r => r.map fun p => p.1.getD k 0
  let pitch := rowPitch f.w
  let rgb := base + 4096
  let size := pitch * f.h
  let l0 := rows.map fun r => r.map fun p => p.2
  let l1 := nextLevel l0
  let l2 := nextLevel l1
  let l3 := nextLevel l2
  let luma := rgb + 3 * size
  let at_ := fun l => luma + levelOffset f.w f.h l
  let planes := [chan 0, chan 1, chan 2]
  (planeRuns rgb pitch (chan 0) ++ planeRuns (rgb + size) pitch (chan 1) ++ planeRuns (rgb + 2 * size) pitch (chan 2) ++
    planeRuns luma pitch l0 ++ planeRuns (at_ 1) (rowPitch (levelW f.w 1)) l1 ++
    planeRuns (at_ 2) (rowPitch (levelW f.w 2)) l2 ++ planeRuns (at_ 3) (rowPitch (levelW f.w 3)) l3 ++
    planeRuns (at_ 4) (rowPitch (levelW f.w 4)) (nextLevel l3) ++ [(base, pyramidRecord f base)],
    planes.flatMap fun rs => rs.flatMap fun r => Fmt.un10.pack r)

/-! ### Hints (R58, R59, R351) -/

def State.hintBase (s : State) : Nat := pairAddr (s.reg .ingest 0 0x058) (s.reg .ingest 0 0x05C)
/-- R359: hint slots as a power of two, 4 to 10. -/
def State.hintLog2 (s : State) : Nat := max 4 (min 10 (bits (s.reg .ingest 0 0x060) 3 0))

/-- The bytes of hint descriptor `p`. -/
def State.hintAt (s : State) (p : Nat) : List Byte := s.devGet (s.hintBase + p % 2 ^ s.hintLog2 * 64) 64

/-- A field of a hint descriptor. -/
def hintNum (d : List Byte) (off n : Nat) : Nat := leNat ((d.drop off).take n)

/-- R58, R59: the parts of a descriptor that are invalid, whether or not their flag is set: MV, DEPTH, UI, or the descriptor as a
whole. -/
def hintBad (d : List Byte) : Bool × Bool × Bool × Bool :=
  (2 < hintNum d 6 1 || hintNum d 32 4 % 64 != 0,
    (hintNum d 7 1 != 0x08 && hintNum d 7 1 != 0x0A) || hintNum d 36 4 % 64 != 0,
    hintNum d 40 4 % 64 != 0,
    hintNum d 4 2 / 64 != 0 || hintNum d 44 20 != 0)

/-- R59: what a frame keeps of its descriptor: the parts that are valid. -/
def hintKept (d : List Byte) : Option (List Byte) :=
  let b := hintBad d
  if b.2.2.2 then none
  else
    let drop := b2n b.1 + 2 * b2n b.2.1 + 4 * b2n b.2.2.1
    let fl := hintNum d 4 2
    some (d.take 4 ++ leBytes 2 (fl - (fl &&& drop)) ++ d.drop 6)

/-- A hint descriptor is discarded and counted. -/
def State.discardHint (s : State) : State := ((s.bump .ingest 0 0x078 1).pulse .ingest 0 0x12 1 none).irq .ingest 0 0b1000

/-- R59, R351: HINT_CONS passes the descriptors up to the first of the frame; those ahead of it are discarded, or, where the ring holds
none for the frame (`found` is false), those already past. -/
def State.bindHint (s : State) (seq : Word) (found : Bool) : Nat → State
  | 0 => s
  | n + 1 =>
    let p := s.reg .ingest 0 0x068
    let d := s.hintAt p
    let q := BitVec.ofNat 32 (hintNum d 0 4)
    let s1 := s.setReg .ingest 0 0x068 (p + 1)
    if q == seq then
      let b := hintBad d
      if b.1 || b.2.1 || b.2.2.1 || b.2.2.2 then s1.discardHint else s1
    else if found || atOrAfter seq q then s1.discardHint.bindHint seq found n
    else s

/-- R59: the descriptor of a frame: the first of `n` from number `p` on whose SRC_SEQ is the frame's. -/
def State.hintsFrom (s : State) (seq : Word) (found : Bool) (p : Nat) : Nat → Option (List Byte)
  | 0 => none
  | n + 1 =>
    let d := s.hintAt p
    let q := BitVec.ofNat 32 (hintNum d 0 4)
    if q == seq then some d
    else if found || atOrAfter seq q then s.hintsFrom seq found (p + 1) n
    else none

/-- R351: descriptors between HINT_CONS and HINT_PROD. -/
def State.hintsOwed (s : State) : Nat := (s.reg .ingest 0 0x064 + 2 ^ 32 - s.reg .ingest 0 0x068) % 2 ^ 32

/-- Whether a descriptor that is owed is that of a frame. -/
def State.hintFound (s : State) (seq : Word) : Bool :=
  (List.range (min s.hintsOwed (2 ^ s.hintLog2))).any fun k =>
    BitVec.ofNat 32 (hintNum (s.hintAt (s.reg .ingest 0 0x068 + k)) 0 4) == seq

/-- The state after a frame's hints have been bound (R59). -/
def State.takeHint (s : State) (seq : Word) : State :=
  s.bindHint seq (s.hintFound seq) (min s.hintsOwed (2 ^ s.hintLog2))

/-- The descriptor of a frame, with its invalid parts (R59). -/
def State.hintsOf (s : State) (seq : Word) : Option (List Byte) :=
  s.hintsFrom seq (s.hintFound seq) (s.reg .ingest 0 0x068) (min s.hintsOwed (2 ^ s.hintLog2))

/-- The active bytes of a plane. -/
def State.planeBytes (s : State) (base pitch row h : Nat) : List Byte :=
  (List.range h).flatMap fun y => s.devGet (base + y * pitch) row

/-- R58: the depth that ingest uses of a frame of `w` by `h`: the plane's values, or 1 - d in F32 when REVERSED_Z is set (that the
difference is rounded in F32 is a DESIGN CHOICE, assumption 67). -/
def State.depthOf (s : State) (w h : Nat) (d : List Byte) : List Nat :=
  let fl := hintNum d 4 2
  let fmt := if hintNum d 7 1 == 8 then Fmt.f16 else Fmt.f32
  if !fl.testBit 1 then []
  else (List.range h).flatMap fun y =>
    (fmt.values (s.devGet (hintNum d 16 8 + y * hintNum d 36 4) (fmt.bits / 8 * w)) w).map fun v =>
      (if fl.testBit 4 then fsub (Val.ofNat 1) v else v.r32).code32

/-- R314: the hint digest of a frame of `w` by `h`: of the descriptor `d0` as the ring holds it, with bytes 8 to 31 zero, and of the planes
that are present in `d`, what the frame keeps of it. -/
def State.hintDigest (s : State) (w h : Nat) (d0 d : List Byte) : List Byte :=
  let fl := hintNum d 4 2
  let sc := 2 ^ hintNum d 6 1
  let mv := if fl.testBit 0 then s.planeBytes (hintNum d 8 8) (hintNum d 32 4) (4 * ceilDiv w sc) (ceilDiv h sc) else []
  let dp := if fl.testBit 1 then
      s.planeBytes (hintNum d 16 8) (hintNum d 36 4) ((if hintNum d 7 1 == 8 then 2 else 4) * w) h else []
  let ui := if fl.testBit 2 then s.planeBytes (hintNum d 24 8) (hintNum d 40 4) w h else []
  sha256 (d0.take 8 ++ List.replicate 24 0 ++ d0.drop 32 ++ mv ++ dp ++ ui)

/-- R314: `SEC.AUDIT_CTRL.CAIRN_EN`. -/
def State.cairnEn (s : State) : Bool := (s.reg .sec 0 0x100).testBit 31

/-- The runs of bytes that a frame's pixels make in its buffer, and the bytes of its planes in order. -/
def State.frameBytes (s : State) (f : SrcFrame) (pixels : List (Nat × Nat × Nat)) : List (Nat × List Byte) × List Byte :=
  frameRuns s.ingest.enc s.ingest.bpc f (s.srcBase + f.buf * s.srcStride) pixels

/-- The pixels of a frame are in its buffer, and the frame is counted. -/
def State.frameWritten (s : State) (f : SrcFrame) (pixels : List (Nat × Nat × Nat)) : State :=
  ((((s.frameBytes f pixels).1.foldl (fun (t : State) p => t.devPut p.1 p.2) s)).bump .ingest 0 0x070 1).pulse .ingest 0 0x10 1 none

/-- INGEST_FRAME_COMPLETE (R346, R347, R350, R59, R314): the frame in progress has landed. -/
def State.completeFrame (s : State) (f : SrcFrame) (pixels : List (Nat × Nat × Nat)) : State :=
  let s1 := s.frameWritten f pixels
  let raw := s1.hintsOf f.seq
  let b := raw.bind hintKept
  let g := { f with
    hint := b
    depth := b.elim [] (s1.depthOf f.w f.h)
    complete := true
    dSrc := if s.cairnEn then sha256 (s.frameBytes f pixels).2 else []
    dHint := match b with
      | some d => if s.cairnEn then s1.hintDigest f.w f.h (raw.getD d) d else f.dHint
      | none => f.dHint }
  let s2 := s1.takeHint f.seq
  { s2 with ingest := { s2.ingest with cur := none, frames := g :: s2.ingest.frames } }.advance 0 s.srcFlag 1

/-- INGEST_FRAME_COMPLETE (R347). The operand holds the codes of the frame's pixels, row by row. A frame of which pixels are still to
come is not complete: no partial frame is delivered (R15). -/
def execIngestFrameComplete (pixels : List (Nat × Nat × Nat)) (s : State) : Out :=
  match s.ingest.cur with
  | none => .next s
  | some f => if pixels.length == f.w * f.h then .next (s.completeFrame f pixels).track else .next s

/-! ### Registers (R289, R351, R359) -/

/-- R359, R367: ingest is IDLE: no stream runs. -/
def State.ingestIdle (s : State) : Bool := s.ingest.cur.isNone && !((s.page .ingest 0).enable && s.ingest.locked)

/-- R289, R359: a write of BUF_CTRL. -/
def State.bufCtrlWrite (s : State) (v : Nat) : State :=
  if !s.ingestIdle then s.err .ingest 0 4 0 0
  else if bits v 27 16 == 4095 then
    (s.setReg .ingest 0 0x048 (s.srcFlag * 2 ^ 16 + bits v 4 0)).err .ingest 0 2 0 0
  else s.setReg .ingest 0 0x048 (bits v 27 16 * 2 ^ 16 + bits v 4 0)

/-- BUF_CTRL_WRITE (R289). -/
def execBufCtrlWrite (value : Nat) (s : State) : Out := .next (s.host .ingest 0 fun t => t.bufCtrlWrite value)

/-- HINT_PROD_WRITE (R351): the host publishes descriptors; ingest reads them when it binds a frame. -/
def State.hintProdWrite (s : State) (v : Nat) : State := s.setReg .ingest 0 0x064 v

def execHintProdWrite (value : Nat) (s : State) : Out := .next (s.host .ingest 0 fun t => t.hintProdWrite value)

end Sys2Proof.Machine
end

