-- ==== Sys2Proof/Machine/Array.lean ====
section
/-!
DEFINITION. The operand classes of the array, the operands of NE_GEMM, and the redirection of its planes (R77, R94 to R96, R115,
R170 to R173).
-/

-- One declaration at a time: the threads of a parallel elaboration take memory together.
set_option Elab.async false

namespace Sys2Proof.Machine

/-- The operand classes of R77. -/
inductive NeClass where
  | i4 | bx | i8 | f8 | f16
  deriving DecidableEq, Repr

/-- R77: the class of a format on IN and W. -/
def Fmt.neClass : Fmt → Option NeClass
  | .i4 | .u4 => some .i4
  | .bx4 => some .bx
  | .i8 | .u8 => some .i8
  | .f8a | .f8b => some .f8
  | .f16 | .bf16 => some .f16
  | _ => none

/-- R77: K_max. -/
def NeClass.kMax : NeClass → Nat
  | .i4 => 1024 | .bx => 1024 | .i8 => 512 | .f8 => 512 | .f16 => 256

/-- R77: N_max. -/
def NeClass.nMax : NeClass → Nat
  | .f16 => 256 | _ => 512

/-- R77: bytes of a stored plane. -/
def NeClass.planeBytes : NeClass → Nat
  | .bx => 272 * 1024 | .f16 => 128 * 1024 | _ => 256 * 1024

/-- R115: bytes between the columns of a plane. -/
def NeClass.columnBytes : NeClass → Nat
  | .bx => 544 | _ => 512

/-- R77: the accumulator is F32. -/
def NeClass.isFloat : NeClass → Bool
  | .i4 | .i8 => false | _ => true

/-! ### The operands of NE_GEMM (R94, R95) -/

/-- The fields of an NE_GEMM. -/
structure Gemm where
  inFmt : Nat
  inAddr : Nat
  wFmt : Nat
  wAddr : Nat
  outFmt : Nat
  outAddr : Nat
  scale : Nat
  rescale : Nat
  m : Nat
  mblk : Nat
  kpass : Nat
  act : Nat
  kLast : Nat
  n : Nat
  clear : Bool
  drain : Bool
  transpose : Bool
  accBase : Nat
  inPitch : Nat
  outPitch : Nat
  deriving DecidableEq, Repr

/-- R94: the operand layout of NE_GEMM. -/
def Cmd.gemm (c : Cmd) : Gemm :=
  ⟨c.fmtField 24, c.addrField 24, c.fmtField 28, c.addrField 28, c.fmtField 32, c.addrField 32, c.addrField 36,
    c.addrField 40, c.num 44 2, c.num 46 2, c.num 48 1, c.num 49 1 % 16, c.num 50 2, c.num 52 2,
    (c.num 54 2).testBit 15, (c.num 54 2).testBit 14, (c.num 54 2).testBit 13, c.num 54 2 % 512,
    c.num 56 2 * 64, c.num 58 2 * 64⟩

/-- R94: the vectors of a command, V. -/
def Gemm.vectors (x : Gemm) : Nat := x.m * x.mblk

/-- R95: blocks reuse rows. -/
def Gemm.reuses (x : Gemm) : Bool := x.kpass == 1 && x.drain && x.clear && 2 < x.mblk

/-- R95: the rows used, R. -/
def Gemm.rowsUsed (x : Gemm) : Nat := if x.reuses then 2 * x.m else x.vectors

/-- R95: the accumulator row of vector `j`. -/
def Gemm.row (x : Gemm) (j : Nat) : Nat :=
  if x.reuses then x.accBase + j / x.m % 2 * x.m + j % x.m else x.accBase + j

/-- R146: the elements of an input vector, K. -/
def Gemm.k (x : Gemm) (cl : NeClass) : Nat := (x.kpass - 1) * cl.kMax + x.kLast

/-- The rows of pass `p`. -/
def Gemm.passRows (x : Gemm) (cl : NeClass) (p : Nat) : Nat := if p + 1 == x.kpass then x.kLast else cl.kMax

/-- R96: the class of a command whose IN and W formats it accepts. -/
def Gemm.cls (x : Gemm) : Option NeClass :=
  match Fmt.ofCode x.inFmt, Fmt.ofCode x.wFmt with
  | some a, some b =>
    (match a.neClass, b.neClass with
     | some p, some q => if p == q then some p else none
     | _, _ => none)
  | _, _ => none

/-- R96: the formats are accepted. -/
def Gemm.formatsOk (x : Gemm) : Bool :=
  match x.cls with
  | some cl => !(x.outFmt == 0xE && x.n % 32 != 0) && !(x.transpose && (cl == .i4 || cl == .bx))
  | none => false

/-- R91, R96: a format, code 0xF apart, is not accepted on its operand, or IN and W are of different classes. -/
def Gemm.pairFails (x : Gemm) : Bool :=
  let a := (Fmt.ofCode x.inFmt).bind Fmt.neClass
  let b := (Fmt.ofCode x.wFmt).bind Fmt.neClass
  (x.inFmt != 0xF && a.isNone) || (x.wFmt != 0xF && b.isNone) || (a.isSome && b.isSome && a != b) ||
    (x.outFmt == 0xE && x.n % 32 != 0) || (x.transpose && (b == some .i4 || b == some .bx))

/-- R94, R117: the counts are in range. A command whose IN and W have no common class is judged by the K_max and N_max of the 8-bit
class (DESIGN CHOICE, assumption 68). An ACT code that names no activation fails as a count out of range does (DESIGN CHOICE, assumption 72). -/
def Gemm.shapeOk (x : Gemm) : Bool :=
  let cl := x.cls.getD .i8
  1 ≤ x.m && x.m ≤ 512 && 1 ≤ x.mblk && x.mblk ≤ 256 && 1 ≤ x.kpass && x.kpass ≤ 64 && 1 ≤ x.kLast &&
    x.kLast ≤ cl.kMax && 1 ≤ x.n && x.n ≤ cl.nMax && x.act ≤ 3 && !(cl == .bx && x.kLast % 32 != 0)

/-! ### Adapter planes (R132, R170 to R173) -/

/-- R132: the copy that a command of epoch `e` reads of a structure with COPIES, FROM and CUR. -/
def copyOf (copies : Nat) (since : Word) (cur epoch : Nat) : Nat :=
  if copies != 2 then 0
  else if atOrAfter (BitVec.ofNat 32 epoch) since then cur % 2 else 1 - cur % 2

/-- R172: the plane addresses of a consuming job are redirected to the copy in force: the window address to read
from, or none when the plane range straddles an adapter set. -/
def State.redirect (s : State) (c : Cmd) (g w n : Nat) : Option Nat :=
  if !(s.job c.job).adaptDir then some w
  else match s.resolve g c.job 0x8001000 4096 with
    | none => some w
    | some d =>
      (List.range (s.devNat (d + 2) 2)).foldl (fun (acc : Option Nat) i =>
        let e := d + 64 + 64 * i
        let base := s.devNat e 4
        let bytes := s.devNat (e + 4) 4
        if base ≤ w && w + n ≤ base + bytes then
          acc.map fun _ => w + copyOf 2 (BitVec.ofNat 32 (s.devNat (e + 8) 4)) (s.devNat (e + 12) 1) c.epoch *
            s.devNat (e + 16) 4
        else if w < base + bytes && base < w + n then none
        else acc) (some w)

/-- The bytes of `n` elements of a format code; a code that names no format counts as one byte, so that its address is still checked
(DESIGN CHOICE, assumption 68). -/
def codeBytes (code n : Nat) : Nat := match Fmt.ofCode code with
  | some f => f.bytes n
  | none => 1

/-- The class by which the extents of an operand are judged: its own (R77). -/
def extentClass (code : Nat) : NeClass := ((Fmt.ofCode code).bind Fmt.neClass).getD .i8

/-- R94: the bytes from IN on that an NE_GEMM spans. -/
def Gemm.inExtent (x : Gemm) : Nat := (x.vectors - 1) * x.inPitch + codeBytes x.inFmt (x.k (extentClass x.inFmt))

/-- R77, R94: the bytes from W on. -/
def Gemm.planeExtent (x : Gemm) : Nat := x.kpass * (extentClass x.wFmt).planeBytes

/-- R94: the bytes from OUT on. -/
def Gemm.outExtent (x : Gemm) : Nat := (x.vectors - 1) * x.outPitch + codeBytes x.outFmt x.n

/-- R172: where an NE_GEMM reads its planes: the window address of plane 0; none for a range that straddles an adapter set. -/
def State.gemmPlanes (s : State) (c : Cmd) (g : Nat) : Option Nat := s.redirect c g c.gemm.wAddr c.gemm.planeExtent

end Sys2Proof.Machine
end

