-- ==== Sys2Proof/Machine/Engine.lean ====
section
/-!
DEFINITION. What the operations of an engine share (R77 to R93, R123 to R132, R172): the choice of the command
that starts, the issue of its fetch, the checks common to all, scale tensors and rescale tables, the epilogue, and
how the outcome of an operation reaches the state.
-/

-- One declaration at a time: the threads of a parallel elaboration take memory together.
set_option Elab.async false

namespace Sys2Proof.Machine

/-! ### What an operation does -/

/-- What an operation checks, reads and writes. `reads` are device ranges with the CAUSE of an uncorrectable word
in them; `rowsRead` are accumulator rows it adds into or reads. -/
structure Work where
  fails : List (Status × Nat)
  reads : List (Nat × Nat × Nat)
  rowsRead : List Nat
  rows : List (Nat × AccRow)
  writes : List (Nat × List Byte)
  stats : Stats
  deriving DecidableEq, Repr

/-- The work of an operation that fails its check. -/
def Work.refuse (fs : List (Status × Nat)) : Work := ⟨fs, [], [], [], [], Stats.none⟩

/-- The rows an operation leaves in an engine; scratch rows keep nothing (R81). -/
def Engine.putRows (e : Engine) (slot : Nat) (rows : List (Nat × AccRow)) : Engine :=
  rows.foldl (fun e p => if p.1 < 256 then e.putRow slot p.1 p.2 else e) e

/-- The bytes an operation writes, run by run. -/
def State.putAll (s : State) (ws : List (Nat × List Byte)) : State := ws.foldl (fun t p => t.devPut p.1 p.2) s

/-- R85, R130: the statistic slot that the STATS field at byte `at` of a command names. -/
def State.statSlot (s : State) (c : Cmd) (off : Nat) : Nat :=
  let k := c.num off 1 % 8
  if (s.job c.job).turnSteps == 0 then k else k / 2 * 2 + c.epoch % 2

/-- R85: a watched command adds to a statistic slot of its engine; a slot of another job takes CONFLICT. -/
def State.addStats (s : State) (c : Cmd) (g off : Nat) (x : Stats) : State :=
  if !(c.num off 1).testBit 7 then s
  else
    let k := s.statSlot c off
    let e := s.engine g
    let y := e.stat k
    if y.tagged && y.job != c.job then
      (s.putEngine g { e with stats := SMap.set e.stats k { y with conflict := true } }).irq .ne g 0b1000
    else if x.count == 0 then s
    else
      let z : StatSlot := ⟨true, c.job, y.conflict, satAdd 32 y.count x.count, satAdd 32 y.clips x.clips,
        satAdd 64 y.sse x.sse⟩
      s.putEngine g { e with stats := SMap.set e.stats k z }

/-- The page of the unit that runs a command. -/
def Cmd.unitPage (c : Cmd) : Blk :=
  match c.unit with
  | some .ve => .ve
  | some .xp => .xp
  | some .post => .post
  | _ => .ne

/-- Its instance, for a command that resolves its operands on engine `g`. -/
def Cmd.unitInst (c : Cmd) (g : Nat) : Nat := if c.unit == some .post then c.compiledEngine / 2 else g

/-- The byte of a command that holds its STATS field, for the operations that have one. -/
def Cmd.statsAt (c : Cmd) : Nat := if c.unit == some .ve then 56 else 60

/-- The effect of an operation: rows, bytes and statistics. -/
def State.applyWork (s : State) (c : Cmd) (g slot : Nat) (w : Work) : State :=
  let s1 := s.putEngine g ((s.engine g).putRows slot w.rows)
  -- R451: the XP's words of 64 B
  let n := if c.unit == some .xp then (w.writes.map fun p => (p.1 % 64 + p.2.length + 63) / 64).sum else 0
  ((s1.pulse .xp g 0x10 n (some c.job)).putAll w.writes).addStats c g c.statsAt w.stats

/-- R92: an operation that stops after its datapath has started may have written part of its output: as many of its
runs of bytes and rows as a free value says. -/
def State.applyPart (s : State) (c : Cmd) (g slot : Nat) (w : Work) : State :=
  let f := s.free
  let k := f.1 % (w.rows.length + w.writes.length + 1)
  f.2.applyWork c g slot { w with rows := w.rows.take k, writes := w.writes.take (k - w.rows.length), stats := Stats.none }

/-- R283, R91: the operation reads an uncorrectable word: the CAUSE, and the address of the word. -/
def State.badRead (s : State) (reads : List (Nat × Nat × Nat)) : Option (Nat × Nat) :=
  reads.findSome? fun r => (s.firstBad r.1 r.2.1).map fun a => (r.2.2, a)

/-- R109, R112: the unit of a command counts the errors that it meets in a range of this CAUSE: the NE those of its planes alone. -/
def Cmd.seesEcc (c : Cmd) (cause : Nat) : Bool := c.unit != some .ne || cause == 0x32

/-- R111, R112, R283: the single-bit errors in what an operation reads are corrected and counted. -/
def State.correctWork (s : State) (c : Cmd) (g : Nat) (reads : List (Nat × Nat × Nat)) : State :=
  let own := reads.filter fun r => c.seesEcc r.2.2
  let other := reads.filter fun r => !c.seesEcc r.2.2
  (s.correctReads c.unitPage (c.unitInst g) (own.map fun r => (r.1, r.2.1))).correctReads .tmem (g / 2) (other.map fun r => (r.1, r.2.1))

/-- The address in accumulator memory of row `r` of a context slot, as BLK_ERR_ADDR shows it: rows of 2 KiB, 512 to a slot (R81; the
spec names no numbering: DESIGN CHOICE, assumption 68). -/
def accAddr (slot r : Nat) : Nat := (512 * slot + r) * 2048

/-- R67: the first NE command of a tile group puts its tile in SYNTH. -/
def State.synth (s : State) (c : Cmd) : State :=
  match s.stepOf c with
  | some x =>
    (match x.frame with
     | some f =>
       let st := entryState (s.entry f c.tile)
       if c.tiled && c.unit == some .ne && c.tile < x.tileCount && s.boundHeader f && (st == 2 || st == 3) then
         s.setTileState f c.tile 4
       else s
     | none => s)
  | none => s

/-! ### Fetches (R89, R90, R281) -/

/-- R281: a range of another die's tile memory must lie in a window of the job there. R89 does not list the tile memory of the
command's own die as a source; it is accepted, without a window check (DESIGN CHOICE, assumption 68). -/
def State.reachable (s : State) (job g a n : Nat) : Bool :=
  match s.target a n with
  | none => false
  | some (.tmem d) => d == g / 2 || s.inJobWindow job d a n
  | some _ => true

/-- R88, R89, R281: the failing checks of a command's fetch descriptor. -/
def State.fetchFails (s : State) (c : Cmd) (g : Nat) : List (Status × Nat) :=
  match c.fetchAt, s.fetchDesc c g with
  | none, _ => []
  | some _, none => [(.badOperand, 0x01)]
  | some _, some d =>
    failIf (s.addr c g d.dst d.length).isNone .badOperand 0x01 ++
      failIf (!d.rsvdZero || d.dst % 64 != 0 || 2 ^ 28 ≤ d.dst || d.length % 64 != 0 || d.length < 64 ||
        2 ^ 22 < d.length || 2 ^ 48 ≤ d.src || !s.reachable c.job g d.src d.length) .badOperand 0x20

/-- R90: a command issues its transfer, as its descriptor says. -/
def State.issueFetch (s : State) (c : Cmd) (g : Nat) : State :=
  match s.fetchDesc c g with
  | none => s
  | some d =>
    match s.addr c g d.dst d.length with
    | none => s
    | some a =>
      let t := s.correctWork c g (((s.descAt c g).map fun q => (q, 32, 0x30)).toList)
      { t with fetches := t.fetches ++ [⟨g, c.job, d.flag, d.gen, c.uid, d.src, a, d.length, s.hasMoved c⟩] }

/-- R283: the address of the first uncorrectable word of a command's fetch descriptor. -/
def State.badDesc (s : State) (c : Cmd) (g : Nat) : Option Nat := (s.descAt c g).bind fun d => s.firstBad d 32

/-- R91, R283: a unit whose read meets an uncorrectable word records it, as far as it sees the errors of this CAUSE. -/
def State.unitBad (s : State) (c : Cmd) (g cause addr : Nat) : State :=
  let i := c.unitInst g
  if !c.seesEcc cause then s
  else (s.irq c.unitPage i 0b100).err c.unitPage i 2 0 (if c.unit == some .post then addr - tmemBase i else addr)

/-- R91, R283: a command whose fetch descriptor cannot be read ends FAILED_ECC. -/
def State.endBadDesc (s : State) (c : Cmd) (g a : Nat) : State := (s.faultCmd c.uid .ecc 0x30 a).unitBad c g 0x30 a

/-- The checks common to the commands of an engine (R28, R87, R91). -/
def State.commonFails (s : State) (c : Cmd) (g : Nat) : List (Status × Nat) :=
  failIf (!c.commonRsvd true) .badOperand 0x04 ++ failIf (s.tileBad c) .badOperand 0x05 ++ s.fetchFails c g

/-! ### The command that starts (R38, R80, R86, R107) -/

/-- The command, its engine and its context slot, when it is one that its unit can start now. -/
def State.startable (s : State) (uid op : Nat) : Option (Cmd × Nat × Nat) :=
  match s.cmd? uid with
  | none => none
  | some c =>
    match c.place with
    | .queued (.context g j) =>
      (match (s.engine g).slotOf j, s.chosen g, c.unit with
       | some k, some k2, some u =>
         if c.opcode == op && k.slot == k2.slot && s.classHead g j u == some c && s.ready c g &&
             !(2 ≤ c.cls && s.barred g) && !(s.page .ne g).faulted && (s.exempt g k.slot || s.mayIssue g) then some (c, g, k.slot) else none
       | _, _, _ => none)
    | _ => none

/-- R80, R172: the next NE_GEMM of the context, whose first plane is loaded ahead when its waits are satisfied and the planes that it
reads lie in its window. -/
def State.lookAhead (s : State) (c : Cmd) (g : Nat) : Option Nat :=
  match (s.inQueue (.context g c.job)).find? fun d => d.uid != c.uid && d.opcode == 0x1001 with
  | some d =>
    let planes := (s.gemmPlanes d g).any fun w => (s.addr d g w d.gemm.planeExtent).isSome
    if d.fenceIn || !s.waitMet d || !s.landed d g || !s.stepReady d || !planes then none else some d.uid
  | none => none

/-- The plane that the NE holds ahead once a command has started: an NE_GEMM uses the one held for it and loads the next (R80). -/
def State.loadAhead (s : State) (c : Cmd) (g : Nat) : State :=
  if c.opcode == 0x1001 then s.putEngine g { s.engine g with planeOf := s.lookAhead c g } else s

/-- A command whose planes were loaded ahead has failed its check: the shadow plane holds nothing of use. -/
def State.dropAhead (s : State) (c : Cmd) (g : Nat) : State :=
  let e := s.engine g
  if e.planeOf == some c.uid then s.putEngine g { e with planeOf := none } else s

/-- An operation whose waits are satisfied is checked, runs, and its command ends (R91, R92). -/
def State.runWork (s : State) (c : Cmd) (g slot : Nat) (w : Work) : State :=
  match lowestCause w.fails with
  | some f => (s.dropAhead c g).endCmd c.uid f.1 f.2
  | none =>
    let s1 := ((((s.starts c).spendIssue g (g / 2)).synth c).loadAhead c g).correctWork c g w.reads
    match w.rowsRead.find? fun r => ((s.engine g).row slot r).poison with
    | some r => ((s1.faultCmd c.uid .ecc 0x31 (accAddr slot r)).irq .ne g 0b100).err .ne g 2 0 (accAddr slot r)
    | none =>
      match s.badRead w.reads with
      | some b => ((s1.applyPart c g slot w).faultCmd c.uid .ecc b.1 b.2).unitBad c g b.1 b.2
      | none => (s1.applyWork c g slot w).endCmd c.uid .ok 0

/-- The engine after it has selected a context and one of its commands (R38, R80, R105, R107): a gated engine powers up, a switch of
contexts discards the shadow plane, and a rewound context starts again. -/
def State.select (s : State) (g slot : Nat) : State :=
  let t := s.wake g
  let e := t.engine g
  let job := (e.slots.find? fun k => k.slot == slot).map (·.job)
  ((t.at e.readyAt).edge .ne g 0x11 (e.running == some slot) job).putEngine g { e with
    slots := e.slots.map fun (k : CtxSlot) => if k.slot == slot then { k with rewound := false } else k
    running := some slot
    ousted := false
    exempt := false
    lastSlot := slot
    planeOf := if e.running == some slot then e.planeOf else none }

/-- R90: the command, when it is the next of its unit in the running context of its engine. -/
def State.unitNext (s : State) (uid op : Nat) : Option (Cmd × Nat × Nat) :=
  match s.cmd? uid with
  | none => none
  | some c =>
    match c.place with
    | .queued (.context g j) =>
      (match (s.engine g).slotOf j, c.unit with
       | some k, some u =>
         if c.opcode == op && (s.engine g).running == some k.slot && s.classHead g j u == some c && s.groupTurn c &&
             !(s.page .ne g).faulted then some (c, g, k.slot) else none
       | _, _ => none)
    | _ => none

/-- R90: a command that still waits issues its transfer once it is the next of its unit in the running context. R38: one whose tile
index is not one of its step's is never ranked; it ends as its waits are satisfied. -/
def State.waitingOp (s : State) (uid op : Nat) : State :=
  match s.unitNext uid op with
  | none => s
  | some (c, g, _) =>
    match s.badDesc c g with
    | some a => s.endBadDesc c g a
    | none => if (s.fetchFails c g).isEmpty && !s.landed c g && !s.inFlight c g then s.issueFetch c g else s

/-- R28, R38: a next command of its unit that is never ranked, since its tile index is not one of its step's. -/
def State.unranked (s : State) (uid op : Nat) : Option (Cmd × Nat) :=
  match s.cmd? uid with
  | none => none
  | some c =>
    match c.place, c.unit with
    | .queued (.context g j), some u =>
      if c.opcode == op && s.tileBad c && s.classHead g j u == some c && s.ready c g && !(s.page .ne g).faulted then some (c, g)
      else none
    | _, _ => none

/-- R90, R432: the landing of a command's fetch waits on a poisoned flag; a group that has moved does not wait on that flag (R435). -/
def State.fetchPoisoned (s : State) (c : Cmd) (g : Nat) : Bool :=
  match s.fetchDesc c g with
  | some d => (s.flag d.flag).poison && !s.hasMoved c
  | none => false

/-- A command that is never ranked ends on a poisoned wait, or with the lowest CAUSE of its checks (R28, R91, R432). -/
def State.endUnranked (s : State) (c : Cmd) (g : Nat) (fails : List (Status × Nat)) : State :=
  if s.waitPoisoned c then s.endCmd c.uid .ecc 0
  else match lowestCause (s.commonFails c g ++ fails) with
    | some f => s.endCmd c.uid f.1 f.2
    | none => s

/-- R41, R90, R283, R432: what a command that may start does instead of running, in state `t`: it ends on a poisoned wait or on a descriptor that
cannot be read, or issues its fetch; none when it runs. -/
def State.beforeRun (s t : State) (c : Cmd) (g : Nat) : Option State :=
  if s.waitPoisoned c then some (t.endCmd c.uid .ecc 0)
  else match s.badDesc c g with
    | some a => some (t.endBadDesc c g a)
    | none =>
      if !s.landed c g && (s.fetchFails c g).isEmpty then some (t.issueFetch c g)
      else if s.landed c g && s.fetchPoisoned c g then some (t.endCmd c.uid .ecc 0)
      else none

/-- An NE, VE or XP command at the head of its unit: it ends on a poisoned wait, issues its fetch, or runs. -/
def State.engineOp (s : State) (uid op : Nat) (work : State → Cmd → Nat → Nat → Work) : State :=
  match s.startable uid op, s.unranked uid op with
  | some (c, g, k), _ =>
    let s1 := s.select g k
    let w := work s c g k
    let w1 := { w with fails := s.commonFails c g ++ w.fails }
    ((s.beforeRun s1 c g).getD (s1.runWork c g k w1)).track
  | none, some (c, g) => (s.endUnranked c g (work s c g 0).fails).track
  | none, none => (s.waitingOp uid op).track

/-! ### Operand helpers -/

/-- The bits of bytes 24-63 that an operation uses: pairs of a byte offset and a mask of the bits from there. -/
def usedMask (fs : List (Nat × Nat)) : Nat := fs.foldl (fun m p => m ||| (p.2 <<< (8 * p.1))) 0

/-- The bits of bytes 24-63 that an operation does not use are zero. -/
def Cmd.rsvdZero (c : Cmd) (fs : List (Nat × Nat)) : Bool :=
  let x := c.pkt.toNat >>> 192 <<< 192
  x &&& usedMask fs == x

/-- The check that a window range is aligned to 64 B and lies in its window (R88). -/
def State.rangeFails (s : State) (c : Cmd) (g a n : Nat) : List (Status × Nat) :=
  failIf (a % 64 != 0 || (s.addr c g a n).isNone) .badOperand 0x01

/-- The device address of a window range that has passed its check. -/
def State.place (s : State) (c : Cmd) (g a n : Nat) : Nat := (s.addr c g a n).getD 0

/-- R113: the failing code checks of a list of format fields, and of whether each is accepted (R91, R96, R100). -/
def formatFails (fs : List (Nat × Bool)) : List (Status × Nat) :=
  failIf (fs.any fun p => p.1 == 0xF) .format 0x11 ++ failIf (fs.any fun p => p.1 != 0xF && !p.2) .format 0x10

/-! ### Scale tensors and rescale tables (R123 to R132) -/

/-- The header of a scale tensor or rescale table (R123, R125). -/
structure Table where
  base : Nat
  layout : Nat
  entries : Nat
  copies : Nat
  gran : Nat
  fmt : Nat
  since : Nat
  cur : Nat
  stride : Nat
  deriving DecidableEq, Repr

/-- The header at a device address. -/
def State.tableAt (s : State) (d : Nat) : Table :=
  ⟨d, s.devNat d 2, s.devNat (d + 2) 2, s.devNat (d + 4) 1, s.devNat (d + 5) 1, s.devNat (d + 6) 1,
    s.devNat (d + 8) 4, s.devNat (d + 12) 1, s.devNat (d + 16) 4⟩

/-- The header at a window address of a command, if its 64 bytes lie in the window. -/
def State.table? (s : State) (c : Cmd) (g a : Nat) : Option Table := (s.addr c g a 64).map s.tableAt

/-- The device address of the copy of a table that a command reads. -/
def Table.copyAt (t : Table) (epoch : Nat) : Nat :=
  t.base + 64 + copyOf t.copies (BitVec.ofNat 32 t.since) t.cur epoch * t.stride

/-- The bytes of a table with its copies, whose body takes `body` bytes a copy. -/
def Table.extent (t : Table) (body : Nat) : Nat := 64 + (if t.copies == 2 then t.stride else 0) + body

/-- R124: the failing checks of a scale tensor at window address `a` for `need` entries. -/
def State.scaleFails (s : State) (c : Cmd) (g a fmt granMax need : Nat) : List (Status × Nat) :=
  match s.table? c g a with
  | none => [(.badOperand, 0x01)]
  | some t =>
    failIf (a % 64 != 0 || (s.addr c g a (t.extent (8 * t.entries))).isNone) .badOperand 0x01 ++
      failIf (t.fmt != fmt) .format 0x10 ++
      failIf (t.layout != 2 || t.entries == 0 || t.copies == 0 || 2 < t.copies ||
        (granMax < t.gran && t.gran != 0xFF) || t.entries < need ||
        (t.copies == 2 && (t.stride % 64 != 0 || t.stride < 8 * t.entries))) .badOperand 0x02

/-- R124, R127: the index of the entry for vector or element `i`. -/
def Table.index (t : Table) (i : Nat) : Nat := if t.gran == 0xFF then 0 else i >>> t.gran

/-- The entries that `n` vectors or elements need. -/
def Table.need (t : Table) (n : Nat) : Nat := if t.gran == 0xFF then 1 else ceilDiv n (2 ^ min t.gran 32)

/-- R123: entry `k` of the copy in force: scale and zero point. -/
def State.scaleEntry (s : State) (t : Table) (epoch k : Nat) : Val × Int :=
  let d := t.copyAt epoch + 8 * k
  (val32 (s.devNat d 4), signed 16 (s.devNat (d + 4) 2))

/-- A rescale table as a command reads it (R125). -/
structure Rescale where
  inv : Val
  slope : Val
  lo : Val
  hi : Val
  mul : List Val
  add : List Val
  zout : List Int
  outlier : List Bool
  deriving DecidableEq, Repr

/-- R125: the copy of a rescale table that a command reads. -/
def State.rescaleOf (s : State) (t : Table) (epoch : Nat) : Rescale :=
  let d := t.copyAt epoch
  let e := fun i => d + 64 + 16 * i
  let is := List.range t.entries
  ⟨val32 (s.devNat (d + 4) 4), val32 (s.devNat (d + 8) 4), val32 (s.devNat (d + 12) 4), val32 (s.devNat (d + 16) 4),
    is.map fun i => val32 (s.devNat (e i) 4), is.map fun i => val32 (s.devNat (e i + 4) 4),
    is.map fun i => signed 16 (s.devNat (e i + 8) 2), is.map fun i => (s.devNat (e i + 10) 1).testBit 0⟩

/-- R126: the failing checks of a rescale table at window address `a` for `n` channels and an OUT format. -/
def State.rescaleFails (s : State) (c : Cmd) (g a n out : Nat) : List (Status × Nat) :=
  match s.table? c g a with
  | none => [(.badOperand, 0x01)]
  | some t =>
    let good := t.layout == 3 && t.entries != 0 && t.entries ≤ 512 && n ≤ t.entries && t.copies != 0 && t.copies ≤ 2 &&
      !(t.copies == 2 && (t.stride % 64 != 0 || t.stride < 64 + 16 * t.entries))
    let outliers := if good then ((s.rescaleOf t c.epoch).outlier.filter id).length else 0
    failIf (a % 64 != 0 || (s.addr c g a (t.extent (64 + 16 * t.entries))).isNone) .badOperand 0x01 ++
      failIf (!good || 8 < outliers) .badOperand 0x02 ++
      failIf (good && outliers != 0 && out == 0xE) .format 0x10

/-- R126 steps 3 to 5: what the epilogue makes of `v2` on channel `n`. -/
def Rescale.act (r : Rescale) (code n : Nat) (v2 : Val) : Val :=
  let v3 := fadd (fmul v2 (r.mul.getD n .zero)) (r.add.getD n .zero)
  let v4 := fmul v3 r.inv
  match code with
  | 1 => fmax v4 .zero
  | 2 => if v4.lt .zero || v4.isNan then fmul v4 r.slope else v4
  | 3 => fmin (fmax v4 r.lo) r.hi
  | _ => v4

/-- R126: what channel `n` takes when it is an outlier: its zero point, or +0. A zero point outside the range of OUT is clamped to it (DESIGN
CHOICE, assumption 72). -/
def Rescale.fixed (r : Rescale) (f : Fmt) (n : Nat) : Option Nat :=
  if r.outlier.getD n false then
    some (match f.intRange with
      | some lh => toCode f.bits (clampInt lh.1 lh.2 (r.zout.getD n 0)).1
      | none => 0)
  else none

/-- R126: the epilogue of one accumulator row: its bytes and what it adds to a statistic slot. -/
def Rescale.epilogue (r : Rescale) (code : Nat) (f : Fmt) (sIn : Val) (row : List Val) : List Byte × Stats :=
  narrowRun f ((List.range row.length).map fun n =>
    (r.act code n (fmul (row.getD n .zero) sIn), r.zout.getD n 0, r.fixed f n))

end Sys2Proof.Machine
end

