-- ==== Sys2Proof/Machine/Dma.lean ====
section
/-!
DEFINITION. The DMA block (R340 to R344, R358): DMA_COPY and its descriptors.
-/

-- One declaration at a time: the threads of a parallel elaboration take memory together.
set_option Elab.async false

namespace Sys2Proof.Machine

/-- A DMA channel. -/
def State.channel (s : State) (k : Nat) : DmaChannel := s.dma.get k DmaChannel.fresh

def State.putChannel (s : State) (k : Nat) (c : DmaChannel) : State := { s with dma := s.dma.set k c }

/-- A DMA descriptor as its bytes spell it (R341). -/
structure DmaDesc where
  src : Nat
  dst : Nat
  length : Nat
  rows : Nat
  srcHost : Bool
  dstHost : Bool
  fill : Bool
  rsvdZero : Bool
  srcPitch : Nat
  dstPitch : Nat
  deriving DecidableEq, Repr

/-- The descriptor that 32 bytes spell (R341). -/
def dmaDesc (b : List Byte) : DmaDesc :=
  let f := fun off n => leNat ((b.drop off).take n)
  let fl := f 22 1
  ⟨f 0 8, f 8 8, f 16 4, f 20 2, fl.testBit 0, fl.testBit 1, fl.testBit 2, fl / 8 == 0 && f 23 1 == 0, f 24 4, f 28 4⟩

/-- The address of a source row and of a destination row. -/
def DmaDesc.srcRow (d : DmaDesc) (r : Nat) : Nat := d.src + r * d.srcPitch
def DmaDesc.dstRow (d : DmaDesc) (r : Nat) : Nat := d.dst + r * d.dstPitch

/-- R342: the failing checks of a descriptor. -/
def State.dmaFails (s : State) (d : DmaDesc) : List (Status × Nat) :=
  let rows := List.range d.rows
  let readsDev := !d.fill && !d.srcHost
  failIf ((readsDev && rows.any fun r => (s.target (d.srcRow r) d.length).isNone) ||
      (!d.dstHost && rows.any fun r => (s.target (d.dstRow r) d.length).isNone)) .badOperand 0x01 ++
    failIf ((d.srcHost && d.dstHost) || !d.rsvdZero || d.length == 0 || 2 ^ 28 < d.length || d.rows == 0) .badOperand 0x20 ++
    failIf (readsDev && d.dstHost && s.protectedHeld && rows.any fun r => s.inFrameBuffer (d.srcRow r) d.length)
      .badOperand 0x71

/-- R437: a run of tile memory of a lost die. -/
def State.onLostDie (s : State) (a n : Nat) : Bool :=
  match s.target a n with
  | some (.tmem d) => s.cdLost.testBit d
  | _ => false

/-- The bytes of row `r` that a descriptor moves: a repeated pattern, or a row of the source (R341). -/
def State.dmaRow (s : State) (d : DmaDesc) (r : Nat) : List Byte :=
  if d.fill then ((List.replicate (ceilDiv d.length 4) (leBytes 4 (d.src % 2 ^ 32))).flatten).take d.length
  else if d.srcHost then s.hostGet (d.srcRow r) d.length
  else s.devGet (d.srcRow r) d.length

/-- The first `n` bytes of row `r` are moved. -/
def State.moveRow (s : State) (d : DmaDesc) (r n : Nat) : State :=
  let b := (s.dmaRow d r).take n
  if d.dstHost then s.hostPut (d.dstRow r) b else s.devPut (d.dstRow r) b

/-- The first `n` bytes of a descriptor, row after row, are moved. -/
def State.moveBytes (s : State) (d : DmaDesc) (n : Nat) : State :=
  (List.range d.rows).foldl (fun t r => if r * d.length < n then t.moveRow d r (n - r * d.length) else t) s

/-- The ranges of device memory that a descriptor reads. -/
def State.descReads (d : DmaDesc) : List (Nat × Nat) :=
  if d.fill || d.srcHost then [] else (List.range d.rows).map fun r => (d.srcRow r, d.length)

/-- R343: the first row of a descriptor that reads an uncorrectable word, and the address of that word. -/
def State.badRow (s : State) (d : DmaDesc) : Option (Nat × Nat) :=
  if d.fill || d.srcHost then none
  else (List.range d.rows).findSome? fun r => (s.firstBad (d.srcRow r) d.length).map fun a => (r, a)

/-- R291: the route of a transfer between the hub and a run of device memory. -/
def State.runRoute (s : State) (a n : Nat) : Nat :=
  match s.target a n with
  | some (.tmem d) => s.hubRoute d
  | _ => 2

/-- R291, R343: the worst route of a descriptor's transfers. -/
def State.descRoute (s : State) (d : DmaDesc) : Nat :=
  ((State.descReads d).map fun r => s.runRoute r.1 r.2).foldl min
    (if d.dstHost then 2 else ((List.range d.rows).map fun r => s.runRoute (d.dstRow r) d.length).foldl min 2)

/-- R343: the CAUSE of an uncorrectable word at an address. -/
def eccCause (a : Nat) : Nat := if a < hubSramBase then 0x34 else 0x30

/-- A channel has moved `n` more bytes for a command of a job (R358, R451). -/
def State.countMoved (s : State) (job k n : Nat) : State :=
  let c := s.channel k
  (s.putChannel k { c with bytes := c.bytes + n }).pulse .dma 0 0x10 ((c.bytes + n) / 64 - c.bytes / 64) (some job)

/-- R353: the host side of a descriptor cannot be reached. -/
def State.hostGone (s : State) (d : DmaDesc) : Bool :=
  (d.srcHost && !d.fill && !s.link.pcieUp) || (d.dstHost && !s.hostOk)

/-- R341 to R343: a descriptor is checked and runs; how it ended, when not well. -/
def State.runDesc (s : State) (job k : Nat) (d : DmaDesc) : State × Option (Status × Nat) :=
  match lowestCause (s.dmaFails d) with
  | some f => (s, some f)
  | none =>
    -- R430, R437: a lost die goes before the unit's own status
    if (List.range d.rows).any fun r => (!d.fill && !d.srcHost && s.onLostDie (d.srcRow r) d.length) ||
        (!d.dstHost && s.onLostDie (d.dstRow r) d.length) then (s, some (.dieLost, 0))
    else if s.hostGone d then (s.irq .dma 0 0b010, some (.link, 0x22))
    else if s.descRoute d == 0 then (s, some (.link, 0x21))
    else match s.badRow d with
      | some r =>
        let f := s.free
        let n := f.1 % ((r.1 + 1) * d.length)
        ((((f.2.moveBytes d n).countMoved job k n).err .dma 0 2 0 r.2).irq .dma 0 0b100, some (.ecc, eccCause r.2))
      | none =>
        (((s.moveBytes d (d.rows * d.length)).correctReads .dma 0 (State.descReads d)).countMoved job k (d.rows * d.length), none)

/-- R343, R437: a descriptor of a list cannot be read: the memory that holds it is gone, or cannot be reached. -/
def State.listGone (s : State) (a : Nat) (host : Bool) : Option (Status × Nat) :=
  if host then (if s.link.pcieUp then none else some (.link, 0x22))
  else if s.onLostDie a 32 then some (.dieLost, 0)
  else if s.runRoute a 32 == 0 then some (.link, 0x21)
  else none

/-- R341: `n` descriptors of a list from number `i` on, in order, each read just before it runs. -/
def State.runList (s : State) (job k list : Nat) (host : Bool) (i : Nat) : Nat → State × Option (Status × Nat)
  | 0 => (s, none)
  | n + 1 =>
    let a := list + 32 * i
    match s.listGone a host with
    | some f => (if host then s.irq .dma 0 0b010 else s, some f)
    | none =>
      if !host && s.badIn a 32 then
        ((s.err .dma 0 2 0 ((s.firstBad a 32).getD a)).irq .dma 0 0b100, some (.ecc, eccCause a))
      else
        let t := if host then s else s.correctReads .dma 0 [(a, 32)]
        let r := t.runDesc job k (dmaDesc (if host then s.hostGet a 32 else s.devGet a 32))
        match r.2 with
        | some f => (r.1, some f)
        | none => (r.1.pulse .dma 0 0x11 1 (some job)).runList job k list host (i + 1) n

/-- R343: what a list has done when it stops after `budget` bytes: the descriptors that run before then, and part of the next. -/
def State.listPart (s : State) (job k list : Nat) (host : Bool) (i budget : Nat) : Nat → State
  | 0 => s
  | n + 1 =>
    let a := list + 32 * i
    let d := dmaDesc (if host then s.hostGet a 32 else s.devGet a 32)
    let m := d.rows * d.length
    match s.runDesc job k d with
    | (t, none) => if budget < m then (s.moveBytes d budget).countMoved job k budget else t.listPart job k list host (i + 1) (budget - m) n
    | (_, some _) => s

/-- R340: the failing checks of a DMA_COPY. -/
def State.dmaCopyFails (s : State) (c : Cmd) : List (Status × Nat) :=
  let host := (c.num 19 1).testBit 0
  failIf (c.num 8 8 % 64 != 0 || (!host && (s.target (c.num 8 8) (32 * c.num 16 2)).isNone)) .badOperand 0x01 ++
    failIf (c.num 16 2 == 0 || 4096 < c.num 16 2) .badOperand 0x02 ++
    failIf (bits (c.num 18 1) 6 3 != 0 || c.num 19 1 / 2 != 0 || bits (c.num 20 2) 14 12 != 0 ||
      bits (c.num 22 2) 14 12 != 0 || c.num 28 36 != 0) .badOperand 0x04

/-- R340: the command a channel runs next: the best of those that can start, by R38. -/
def State.dmaNext (s : State) (k : Nat) : Option Cmd :=
  if (s.page .dma 0).faulted then none
  else s.bestOf ((s.inQueue (.dma k)).filter fun c => !s.fenced c && s.stepReady c && s.waitMet c)

/-- R292: a route that a DMA_COPY needs holds its flits. -/
def State.dmaHeld (s : State) (c : Cmd) : Bool :=
  let host := (c.num 19 1).testBit 0
  (List.range (c.num 16 2)).any fun i =>
    let a := c.num 8 8 + 32 * i
    (!host && s.runRoute a 32 == 1) || s.descRoute (dmaDesc (if host then s.hostGet a 32 else s.devGet a 32)) == 1

/-- R340 to R343: a DMA_COPY is checked, and its list runs, unless it waits for a route. -/
def State.dmaRun (s : State) (c : Cmd) (k : Nat) : State :=
  if s.waitPoisoned c then s.endCmd c.uid .ecc 0
  else match lowestCause (s.dmaCopyFails c) with
    | some f => s.endCmd c.uid f.1 f.2
    | none =>
      if s.dmaHeld c then s else
      let r := (s.starts c).runList c.job k (c.num 8 8) ((c.num 19 1).testBit 0) 0 (c.num 16 2)
      match r.2 with
      | some f => if f.1 == .ecc then r.1.faultCmd c.uid f.1 f.2 (r.1.page .dma 0).errAddr else r.1.endCmd c.uid f.1 f.2
      | none => r.1.endCmd c.uid .ok 0

/-- DMA_COPY (R340). -/
def execDmaCopy (uid : Nat) (s : State) : Out :=
  match s.cmd? uid with
  | none => .next s
  | some c =>
    match c.place with
    | .queued (.dma k) => .next (if s.dmaNext k == some c then (s.dmaRun c k).track else s)
    | _ => .next s

/-- R358: clearing CH_CTRL.EN completes the queued commands of a channel FAILED_UNIT_DISABLED. -/
def State.channelCtrl (s : State) (k v : Nat) : State :=
  let c := s.channel k
  let en := v.testBit 31
  let s1 := s.putChannel k { c with en := en, dramClass := v % 4 }
  if c.en && !en then (s1.endAll (fun d => d.place == .queued (.dma k)) .unitDisabled 0).track else s1

/-- DMA_CHANNEL_DISABLE (R358). -/
def execDmaChannelDisable (channel : Nat) (s : State) : Out :=
  if channel < 8 then .next (s.host .dma 0 fun t => t.channelCtrl channel ((t.channel channel).dramClass % 4)) else .next s

end Sys2Proof.Machine
end

