-- ==== Sys2Proof/Machine/Neural.lean ====
section
/-!
DEFINITION. The neural engine operations (R77 to R98, R121, R122, R172): NE_GEMM, NE_ACC_CLEAR, NE_ACC_DRAIN,
NE_ACC_STORE and NE_ACC_LOAD.
-/

-- One declaration at a time: the threads of a parallel elaboration take memory together.
set_option Elab.async false

namespace Sys2Proof.Machine

/-! ### The array (R78, R121, R122) -/

/-- R78: an exact column sum. -/
def dotInt : List Int → List Int → Int
  | a :: as, b :: bs => a * b + dotInt as bs
  | _, _ => 0

/-- R78: a float column sum from `acc` on, rounded to F32 after each addition, in ascending K order. -/
def dotFloat : Val → List Val → List Val → Val
  | acc, a :: as, b :: bs => dotFloat (ffma a b acc) as bs
  | acc, _, _ => acc

/-- A run of BX4 elements by blocks: the significands and the exponent byte. -/
abbrev Blocks := List (List Int × Nat)

/-- R78: block sums, each exact, scaled into the running F32 sum in ascending block order. -/
def dotBlocks : Val → Blocks → Blocks → Val
  | acc, (a, x) :: as, (b, y) :: bs =>
    let t := dotInt a b
    let v := if x == 255 || y == 255 then Val.nan
      else .fin (t < 0) t.natAbs 1 ((x : Int) + (y : Int) - 254)
    dotBlocks (fadd acc v) as bs
  | acc, _, _ => acc

/-- The blocks of a BX4 run of `n` elements (R115). -/
def blocksOf (bs : List Byte) (n : Nat) : Blocks :=
  (List.range (n / 32)).map fun b =>
    ((List.range 32).map fun i => signed 4 (Fmt.bx4.codeAt bs (32 * b + i)), (bs.getD (n / 2 + b) 0).toNat)

/-- A run of operands as the array takes it: integers, floats, or blocks. -/
inductive Lanes where
  | ints (xs : List Int)
  | floats (xs : List Val)
  | blocks (xs : Blocks)
  deriving DecidableEq, Repr

/-- R121: the zero point clamped to the range of the input format. -/
def clampZero (f : Fmt) (z : Int) : Int :=
  match f.intRange with
  | some lh => max lh.1 (min lh.2 z)
  | none => 0

/-- The integer value of a code. -/
def Fmt.int (f : Fmt) (c : Nat) : Int :=
  match f with
  | .u4 | .u8 => (c : Int)
  | _ => signed f.bits c

/-- `n` packed operands of a format, with the zero point removed (R121). -/
def lanesOf (f : Fmt) (bs : List Byte) (n : Nat) (z : Int) : Lanes :=
  match f.neClass with
  | some .bx => .blocks (blocksOf bs n)
  | some .i4 | some .i8 => .ints ((f.unpack bs n).map fun c => f.int c - clampZero f z)
  | _ => .floats (f.values bs n)

/-- The lanes of a pass that begins at element `i` and has `n` rows. -/
def Lanes.slice (x : Lanes) (i n : Nat) : Lanes :=
  match x with
  | .ints xs => .ints ((xs.drop i).take n)
  | .floats xs => .floats ((xs.drop i).take n)
  | .blocks xs => .blocks ((xs.drop (i / 32)).take (n / 32))

/-- The least I32 value and the greatest (R122). -/
def satI32 (x : Int) : Int := (clampInt (-2147483648) 2147483647 x).1

/-- R78, R94, R122: the accumulator code after a pass adds the sum of two runs of operands to code `old`; `write` is
pass 0 with CLEAR. -/
def passCell (write : Bool) (old : Nat) (a b : Lanes) : Nat :=
  match a, b with
  | .ints xs, .ints ys =>
    let t := dotInt xs ys
    toCode 32 (satI32 (if write then t else signed 32 old + t))
  | .floats xs, .floats ys =>
    let t := dotFloat .zero xs ys
    (if write then t else fadd (val32 old) t).code32
  | .blocks xs, .blocks ys =>
    let t := dotBlocks .zero xs ys
    (if write then t else fadd (val32 old) t).code32
  | _, _ => old

/-! ### Accumulator rows (R81) -/

/-- Column `n` of an accumulator row, as a code. -/
def AccRow.cell (r : AccRow) (n : Nat) : Nat := SMap.get r.cells n 0

/-- Column `n` as a value (R126 step 1: I32 converted to F32 with rounding). -/
def AccRow.value (r : AccRow) (n : Nat) : Val :=
  if r.float then val32 (r.cell n) else (Val.ofInt (signed 32 (r.cell n))).r32

/-- A row whose first columns hold `codes`; the others are those of `rest`. -/
def AccRow.build (float : Bool) (codes : List Nat) (rest : SMap Nat) (poison : Bool) : AccRow :=
  ⟨float, poison, ((List.range codes.length).zip codes).filter (fun p => p.2 != 0) ++
    rest.filter fun p => codes.length ≤ p.1⟩

/-! ### NE_GEMM (R94 to R97) -/

/-- R94, R115: column `n` of plane `p` whose bytes start at device address `d`. A stored column has K_max rows, those past the last
one used ignored (R146). -/
def State.planeColumn (s : State) (x : Gemm) (cl : NeClass) (f : Fmt) (d p n : Nat) : Lanes :=
  let rows := x.passRows cl p
  if x.transpose then
    let cs := (List.range rows).map fun k => f.codeAt (s.devGet (d + k * cl.columnBytes) (f.bytes cl.kMax)) n
    match cl with
    | .i4 | .i8 => .ints (cs.map f.int)
    | _ => .floats (cs.map fun q => f.value q)
  else (lanesOf f (s.devGet (d + n * cl.columnBytes) (f.bytes cl.kMax)) cl.kMax 0).slice 0 rows

/-- R78, R94: the accumulator codes of columns 0 to N - 1 after every pass, for input lanes `a`. -/
def Gemm.column (x : Gemm) (cl : NeClass) (a : Lanes) (planes : List Lanes) (old : Nat) : Nat :=
  ((List.range x.kpass).foldl (fun v p =>
    passCell (x.clear && p == 0) v (a.slice (p * cl.kMax) (x.passRows cl p)) (planes.getD p (.ints []))) old)

/-- R94, R126: what an NE_GEMM makes of vector `j`: its row, its output bytes, and its statistics. -/
def State.gemmVector (s : State) (c : Cmd) (g slot : Nat) (x : Gemm) (cl : NeClass) (f : Fmt) (src : Nat)
    (cols : List (List Lanes)) (st : Table) (r : Option (Rescale × Fmt)) (j : Nat) :
    (Nat × AccRow) × List Byte × Stats :=
  let e := s.scaleEntry st c.epoch (st.index j)
  let k := x.k cl
  let a := lanesOf f (s.devGet (src + j * x.inPitch) (f.bytes k)) k e.2
  let old := (s.engine g).row slot (x.row j)
  let codes := (List.range x.n).map fun n => x.column cl a (cols.getD n []) (old.cell n)
  let row := AccRow.build cl.isFloat codes (if x.clear then [] else old.cells) (!x.clear && old.poison)
  match r with
  | none => ((x.row j, row), [], Stats.none)
  | some (t, o) =>
    let out := t.epilogue x.act o e.1 ((List.range x.n).map row.value)
    ((x.row j, row), out.1, out.2)

/-- The bits of an NE_GEMM packet that it uses. -/
def gemmUsed (drain : Bool) : List (Nat × Nat) :=
  [(24, 0xFFFFFFFF), (28, 0xFFFFFFFF), (32, 0xFFFFFFFF), (36, 0x0FFFFFFF),
   (40, if drain then 0x0FFFFFFF else 0xFFFFFFFF), (44, 0xFFFFFFFF), (48, 0x0FFF), (50, 0xFFFFFFFF), (54, 0xE1FF),
   (56, 0xFFFFFFFF), (60, 0x87)]

/-- R82, R95: the accumulator rows are in range. -/
def Gemm.rowsOk (x : Gemm) : Bool :=
  let top := x.accBase + x.rowsUsed
  top ≤ (if x.drain then 512 else 256) && (top ≤ 256 || x.clear)

/-- The rows an NE_GEMM uses. -/
def Gemm.rows (x : Gemm) : List Nat := (List.range x.rowsUsed).map fun i => x.accBase + i

/-- R82 to R96, R124, R126, R172: the failing checks of an NE_GEMM. -/
def State.gemmFails (s : State) (c : Cmd) (g slot : Nat) (x : Gemm) : List (Status × Nat) :=
  let cl := x.cls.getD .i8
  failIf (!c.rsvdZero (gemmUsed x.drain)) .badOperand 0x04 ++
    formatFails [(x.inFmt, true), (x.wFmt, true), (x.outFmt, true)] ++
    failIf x.pairFails .format 0x10 ++
    failIf (!x.shapeOk) .badOperand 0x02 ++
    failIf (!x.rowsOk) .badOperand 0x03 ++
    failIf (x.inAddr % 64 != 0 || x.wAddr % 64 != 0 || x.outAddr % 64 != 0) .badOperand 0x01 ++
    s.rangeFails c g x.inAddr x.inExtent ++
    (match s.gemmPlanes c g with
     | none => [(.badOperand, 0x01)]
     | some w => s.rangeFails c g w x.planeExtent) ++
    (if x.drain then s.rangeFails c g x.outAddr x.outExtent else []) ++
    failIf (x.formatsOk && x.rowsOk && !x.clear && x.rows.any fun r => ((s.engine g).row slot r).float != cl.isFloat) .format 0x12 ++
    s.scaleFails c g x.scale x.inFmt 9 (match s.table? c g x.scale with
      | some t => t.need x.vectors
      | none => 0) ++
    (if x.drain then s.rescaleFails c g x.rescale x.n x.outFmt else [])

/-- The device ranges an NE_GEMM reads. -/
def State.gemmReads (s : State) (c : Cmd) (g : Nat) (x : Gemm) (cl : NeClass) (f : Fmt) (src w : Nat) (st : Table) :
    List (Nat × Nat × Nat) :=
  [(st.base, 64, 0x30), (st.copyAt c.epoch, 8 * st.entries, 0x30)] ++
    (match (if x.drain then s.table? c g x.rescale else none) with
     | some t => [(t.base, 64, 0x30), (t.copyAt c.epoch, 64 + 16 * t.entries, 0x30)]
     | none => []) ++
    ((List.range x.vectors).map fun j => (src + j * x.inPitch, f.bytes (x.k cl), 0x30)) ++
    ((List.range x.kpass).map fun p => (w + p * cl.planeBytes,
      (if x.transpose then x.passRows cl p else x.n) * cl.columnBytes, 0x32))

/-- NE_GEMM (R94): what it checks, reads and writes. -/
def State.gemmWork (s : State) (c : Cmd) (g slot : Nat) : Work :=
  let x := c.gemm
  let fs := s.gemmFails c g slot x
  match fs, x.cls, Fmt.ofCode x.inFmt, Fmt.ofCode x.wFmt, s.table? c g x.scale with
  | [], some cl, some f, some wf, some st =>
    let src := s.place c g x.inAddr 1
    let w := s.place c g ((s.gemmPlanes c g).getD 0) 1
    let out := s.place c g x.outAddr 1
    let r := if x.drain then
        (match s.table? c g x.rescale, Fmt.ofCode x.outFmt with
         | some t, some o => some (s.rescaleOf t c.epoch, o)
         | _, _ => none)
      else none
    let cols := (List.range x.n).map fun n =>
      (List.range x.kpass).map fun p => s.planeColumn x cl wf (w + p * cl.planeBytes) p n
    let res := (List.range x.vectors).map fun j => s.gemmVector c g slot x cl f src cols st r j
    { fails := []
      reads := s.gemmReads c g x cl f src w st
      rowsRead := if x.clear then [] else x.rows
      rows := res.map (·.1)
      writes := if x.drain then ((List.range x.vectors).zip res).map fun p => (out + p.1 * x.outPitch, p.2.2.1) else []
      stats := (res.map (·.2.2)).foldl Stats.plus Stats.none }
  | _, _, _, _, _ => Work.refuse fs

/-- NE_GEMM (R94). -/
def execNeGemm (uid : Nat) (s : State) : Out := .next (s.engineOp uid 0x1001 State.gemmWork)

/-! ### The accumulator operations (R98) -/

/-- NE_ACC_CLEAR (R98, R84): what it does. Rows that are not persistent, ROW0 above 255 among them, give CAUSE 0x03 (R82); a TYPE above 1, for
which no CAUSE is stated, gives 0x02 as a count out of range does (DESIGN CHOICE, assumption 72). -/
def State.accClearWork (_ : State) (c : Cmd) (_ _ : Nat) : Work :=
  let row0 := c.num 24 2
  let rows := c.num 26 2
  let type := c.num 28 1
  let fs := failIf (!c.rsvdZero [(24, 0xFFFFFFFF), (28, 0xFF)]) .badOperand 0x04 ++
    failIf (rows == 0 || 256 < rows || 1 < type) .badOperand 0x02 ++
    failIf (255 < row0 || 256 < row0 + rows) .badOperand 0x03
  if fs.isEmpty then
    { fails := [], reads := [], rowsRead := [], writes := [], stats := Stats.none
      rows := (List.range rows).map fun i => (row0 + i, ⟨type == 1, false, []⟩) }
  else Work.refuse fs

/-- NE_ACC_CLEAR (R98). -/
def execNeAccClear (uid : Nat) (s : State) : Out := .next (s.engineOp uid 0x1002 State.accClearWork)

/-- R98: the checks that NE_ACC_DRAIN, NE_ACC_STORE and NE_ACC_LOAD share: M, N, and rows that are persistent. -/
def Gemm.accFails (x : Gemm) : List (Status × Nat) :=
  failIf (x.m == 0 || 512 < x.m || x.n == 0 || 512 < x.n) .badOperand 0x02 ++
    failIf (256 < x.accBase + x.m) .badOperand 0x03

/-- The rows of an NE_ACC operation. -/
def Gemm.accRows (x : Gemm) : List Nat := (List.range x.m).map fun i => x.accBase + i

/-- NE_ACC_DRAIN (R98, R124, R126): what it does; S_in is 1.0. -/
def State.accDrainWork (s : State) (c : Cmd) (g slot : Nat) : Work :=
  let x := c.gemm
  let shape := x.accFails ++ failIf (3 < x.act) .badOperand 0x02
  let fs := failIf (!c.rsvdZero [(32, 0xFFFFFFFF), (40, 0x0FFFFFFF), (44, 0xFFFF), (49, 0x0F), (52, 0xFFFF),
      (54, 0x01FF), (58, 0xFFFF), (60, 0x87)]) .badOperand 0x04 ++
    formatFails [(x.outFmt, !(x.outFmt == 0xE && x.n % 32 != 0))] ++ shape ++
    failIf (x.outAddr % 64 != 0) .badOperand 0x01 ++
    s.rangeFails c g x.outAddr ((x.m - 1) * x.outPitch + codeBytes x.outFmt x.n) ++
    s.rescaleFails c g x.rescale x.n x.outFmt
  match fs, Fmt.ofCode x.outFmt, s.table? c g x.rescale with
  | [], some o, some t =>
    let r := s.rescaleOf t c.epoch
    let out := s.place c g x.outAddr 1
    let res := x.accRows.map fun k =>
      let row := (s.engine g).row slot k
      r.epilogue x.act o (Val.ofNat 1) ((List.range x.n).map row.value)
    { fails := []
      reads := [(t.base, 64, 0x30), (t.copyAt c.epoch, 64 + 16 * t.entries, 0x30)]
      rowsRead := x.accRows
      rows := []
      writes := ((List.range x.m).zip res).map fun p => (out + p.1 * x.outPitch, p.2.1)
      stats := (res.map (·.2)).foldl Stats.plus Stats.none }
  | _, _, _ => Work.refuse fs

/-- NE_ACC_DRAIN (R98). -/
def execNeAccDrain (uid : Nat) (s : State) : Out := .next (s.engineOp uid 0x1003 State.accDrainWork)

/-- NE_ACC_STORE (R98): a raw copy of rows whose tags are OUT_FMT. -/
def State.accStoreWork (s : State) (c : Cmd) (g slot : Nat) : Work :=
  let x := c.gemm
  let isRaw := x.outFmt == 0x5 || x.outFmt == 0xA
  let fs := failIf (!c.rsvdZero [(32, 0xFFFFFFFF), (44, 0xFFFF), (52, 0xFFFF), (54, 0x01FF), (58, 0xFFFF)])
      .badOperand 0x04 ++
    formatFails [(x.outFmt, isRaw)] ++ x.accFails ++
    failIf (x.outAddr % 64 != 0) .badOperand 0x01 ++
    s.rangeFails c g x.outAddr ((x.m - 1) * x.outPitch + 4 * x.n) ++
    failIf (x.accFails.isEmpty && isRaw && x.accRows.any fun k => ((s.engine g).row slot k).float != (x.outFmt == 0xA)) .format 0x10
  if fs.isEmpty then
    let out := s.place c g x.outAddr 1
    { fails := [], reads := [], rowsRead := x.accRows, rows := [], stats := Stats.none
      writes := (List.range x.m).map fun i =>
        let row := (s.engine g).row slot (x.accBase + i)
        (out + i * x.outPitch, (List.range x.n).flatMap fun n => leBytes 4 (row.cell n)) }
  else Work.refuse fs

/-- NE_ACC_STORE (R98). -/
def execNeAccStore (uid : Nat) (s : State) : Out := .next (s.engineOp uid 0x1004 State.accStoreWork)

/-- NE_ACC_LOAD (R98, R81): a raw copy that sets the rows' tags; columns N to 511 take zero. A poisoned row stays
poisoned (R84). -/
def State.accLoadWork (s : State) (c : Cmd) (g slot : Nat) : Work :=
  let x := c.gemm
  let fs := failIf (!c.rsvdZero [(24, 0xFFFFFFFF), (44, 0xFFFF), (52, 0xFFFF), (54, 0x01FF), (56, 0xFFFF)])
      .badOperand 0x04 ++
    formatFails [(x.inFmt, x.inFmt == 0x5 || x.inFmt == 0xA)] ++ x.accFails ++
    failIf (x.inAddr % 64 != 0) .badOperand 0x01 ++
    s.rangeFails c g x.inAddr ((x.m - 1) * x.inPitch + 4 * x.n)
  if fs.isEmpty then
    let src := s.place c g x.inAddr 1
    { fails := [], rowsRead := [], writes := [], stats := Stats.none
      reads := (List.range x.m).map fun i => (src + i * x.inPitch, 4 * x.n, 0x30)
      rows := (List.range x.m).map fun i =>
        (x.accBase + i, AccRow.build (x.inFmt == 0xA) (Fmt.i32.unpack (s.devGet (src + i * x.inPitch) (4 * x.n)) x.n)
          [] ((s.engine g).row slot (x.accBase + i)).poison) }
  else Work.refuse fs

/-- NE_ACC_LOAD (R98). -/
def execNeAccLoad (uid : Nat) (s : State) : Out := .next (s.engineOp uid 0x1005 State.accLoadWork)

end Sys2Proof.Machine
end

