-- ==== Sys2Proof/Machine/Contexts.lean ====
section
/-!
DEFINITION. The contexts of an engine (R37 to R43, R104 to R107): swap in and out, save areas, pre-emption, the
swap of blocked contexts, power gating, and the landing of fetches (R90).
-/

-- One declaration at a time: the threads of a parallel elaboration take memory together.
set_option Elab.async false

namespace Sys2Proof.Machine

/-! ### Save areas (R104, R105) -/

/-- R104: the save area of a job on the die of engine `g`, when its save base is enabled. -/
def State.saveArea (s : State) (g job : Nat) : Option Nat :=
  let w := s.saveBase.get (g / 2 * 64 + job) 0
  if w.getLsbD 31 then some (tmemBase (g / 2) + bits w.toNat 27 12 * 4096) else none

/-- The device address of the state record of local engine `g mod 2` and of its accumulator rows (R104). -/
def recordAt (area g : Nat) : Nat := area + g % 2 * 0x800
def rowsAt (area g : Nat) : Nat := area + 0x1000 + g % 2 * 0x80000

/-- Bytes that a value gives, or a free value's where there is none. -/
def orFree (o : Option Nat) (f n : Nat) : List Byte := leBytes n (o.getD f)

/-- R105: the entry of UNIT_HEAD for one unit; without a command its fields are free values. -/
def State.unitHeadBytes (s : State) (g job f : Nat) (u : OpUnit) : List Byte :=
  let h := s.classHead g job u
  let d := h.bind fun c => s.fetchDesc c g
  let w := h.bind Cmd.wait
  orFree (h.map fun c => c.seq.toNat) f 4 ++ orFree (w.map fun x => x.2.toNat) f 4 ++ orFree (w.map (·.1)) f 2 ++
    orFree (d.map (·.flag)) f 2 ++ orFree (d.map fun x => x.gen.toNat) f 4 ++ [0, 0, 0, 0]

/-- The persistent rows of a context that satisfy `p`, as the bits of a number. -/
def Engine.rowBits (e : Engine) (slot : Nat) (p : AccRow → Bool) : Nat :=
  (e.acc.filter fun x => 512 * slot ≤ x.1 && x.1 < 512 * slot + 256 && p x.2).foldl
    (fun n x => n ||| 2 ^ (x.1 - 512 * slot)) 0

/-- R42: the head of a unit waits on a flag or on data. -/
def State.headWaits (s : State) (g job : Nat) : Bool :=
  (s.classHeads g job).any fun c => !s.waitMet c || (!s.landed c g && s.inFlight c g) || s.collWaits c

/-- R105: the state record of a context, whose commands hold their pending-store entries again. -/
def State.recordBytes (s : State) (g : Nat) (k : CtxSlot) (f : Nat) : List Byte :=
  let q := s.inQueue (.context g k.job)
  let e := s.engine g
  leBytes 2 1 ++ leBytes 1 k.job ++ leBytes 1 (1 + 2 * b2n (k.rewound || s.headWaits g k.job)) ++
    orFree (q.head?.map fun c => c.seq.toNat) f 4 ++ leBytes 8 s.now ++ orFree (q.head?.map fun c => c.store) (f / 2 ^ 32) 4 ++
    leBytes 2 q.length ++ [0, 0] ++ [OpUnit.ne, .ve, .xp].flatMap (s.unitHeadBytes g k.job f) ++ [0, 0, 0, 0] ++
    leBytes 32 (e.rowBits k.slot AccRow.float) ++ leBytes 32 (e.rowBits k.slot AccRow.poison) ++
    List.replicate 1896 0

/-- The runs of bytes of a context's persistent rows at device address `d`. -/
def Engine.rowRuns (e : Engine) (slot d : Nat) : List (Nat × List Byte) :=
  (e.acc.filter fun x => 512 * slot ≤ x.1 && x.1 < 512 * slot + 256).flatMap fun x =>
    x.2.cells.map fun p => (d + (x.1 - 512 * slot) * 2048 + 4 * p.1, leBytes 4 p.2)

/-- R105: a context is saved to its job's save area. -/
def State.saveContext (s : State) (g area : Nat) (k : CtxSlot) : State :=
  let f := s.free
  (((f.2.pulse .ne g 0x12 1 (some k.job)).devClear (rowsAt area g) 0x80000).putAll ((s.engine g).rowRuns k.slot (rowsAt area g))).devPut
    (recordAt area g) (s.recordBytes g k f.1)

/-- The nonzero words of `[d, d + n)`, by word index. -/
def State.wordsIn (s : State) (d n : Nat) : SMap Nat :=
  ((s.mem.dropWhile fun c => c.1 < d).takeWhile fun c => c.1 < d + n).foldl (fun m c =>
    let w := (c.1 - d) / 4
    m.set w (m.get w 0 + c.2.toNat * 2 ^ (8 * ((c.1 - d) % 4)))) []

/-- R105: row `r` of a saved context. -/
def State.savedRow (s : State) (g area : Nat) (words : SMap Nat) (r : Nat) : AccRow :=
  let rec_ := recordAt area g
  ⟨(s.devNat (rec_ + 88 + r / 8) 1).testBit (r % 8),
    (s.devNat (rec_ + 120 + r / 8) 1).testBit (r % 8) || s.badIn (rowsAt area g + 2048 * r) 2048,
    (words.filter fun p => 512 * r ≤ p.1 && p.1 < 512 * r + 512).map fun p => (p.1 - 512 * r, p.2)⟩

/-- The accumulator rows of a slot set, the other slots' kept. -/
def Engine.setSlotRows (e : Engine) (slot : Nat) (rows : List (Nat × AccRow)) : Engine :=
  ({ e with acc := SMap.dropKeys e.acc fun k => k / 512 == slot }).putRows slot rows

/-! ### Swap (R39) -/

/-- R39, R104: a resident context that may leave its slot: its job has a save base, or it has no command. -/
def State.mayLeave (s : State) (g : Nat) (k : CtxSlot) : Bool :=
  (s.saveArea g k.job).isSome || (s.inQueue (.context g k.job)).isEmpty

/-- R39: a context leaves its slot: it is saved where its job has a save base, else its rows are discarded; its
commands wait in the pending store. -/
def State.swapOut (s : State) (g : Nat) (k : CtxSlot) : State :=
  let s0 := (s.inQueue (.context g k.job)).foldl (fun (t : State) c => t.hold c.uid) s
  let s1 := match s.saveArea g k.job with
    | some a => s0.saveContext g a k
    | none => s0
  let saved := (s.saveArea g k.job).isSome
  let e := s1.engine g
  let e1 := { e with
    slots := e.slots.filter fun x => x.slot != k.slot
    running := if e.running == some k.slot then none else e.running
    planeOf := if e.running == some k.slot then none else e.planeOf
    acc := SMap.dropKeys e.acc fun r => r / 512 == k.slot
    saved := if saved then k.job :: e.saved.filter (· != k.job) else e.saved
    lost := if saved then e.lost else k.job :: e.lost.filter (· != k.job) }
  let s2 := s1.putEngine g e1
  { s2 with cmds := s2.cmds.map fun (c : Cmd) =>
      if c.place == .queued (.context g k.job) then { c with place := .pending, turn := 0 } else c }

/-- R81, R39: the rows a context finds when it becomes resident. -/
def State.incomingRows (s : State) (g job : Nat) : List (Nat × AccRow) :=
  let e := s.engine g
  if e.lost.contains job then (List.range 256).map fun r => (r, ⟨false, true, []⟩)
  else if e.saved.contains job then
    match s.saveArea g job with
    | some a =>
      let w := s.wordsIn (rowsAt a g) 0x80000
      (List.range 256).map fun r => (r, s.savedRow g a w r)
    | none => []
  else []

/-- R39: a context becomes resident in a free slot. -/
def State.swapIn (s : State) (g job slot : Nat) : State :=
  let e := (s.engine g).setSlotRows slot (s.incomingRows g job)
  let s1 := s.putEngine g { e with
    slots := e.slots ++ [⟨slot, job, none, none, false⟩]
    known := job :: e.known.filter (· != job)
    saved := e.saved.filter (· != job)
    lost := e.lost.filter (· != job) }
  match (s.saveArea g job), (s.engine g).saved.contains job with
  | some a, true =>
    let r := recordAt a g
    (s1.correctReads .tmem (g / 2) [(r, 256), (rowsAt a g, 0x80000)]).devPut (r + 3) (leBytes 1 (s.devNat (r + 3) 1 / 2 * 2))
  | _, _ => s1

/-- The free slot of an engine with the lowest number. -/
def Engine.freeSlot (e : Engine) : Option Nat :=
  (List.range 4).find? fun k => !(e.slots.any fun x => x.slot == k)

/-- The pending commands of a job that would enter its context on engine `g`. -/
def State.wanting (s : State) (g job : Nat) : List Cmd :=
  s.cmds.filter fun c => c.place == .pending && c.onEngine && c.job == job && !c.rejected && s.engineOf c == g &&
    s.dispatched c && s.stepReady c && !s.behindWait c && (s.turnedAway c g).isNone

/-- The next commands of a context that is not resident: the earliest of each unit, as of a resident one. -/
def State.wantHeads (s : State) (g job : Nat) : List Cmd :=
  [OpUnit.ne, .ve, .xp].filterMap fun u => (s.wanting g job).find? fun c => c.unit == some u

/-- The best-ranked command of a resident context (R38). -/
def State.slotBest (s : State) (g : Nat) (k : CtxSlot) : Option Cmd := s.bestOf (s.classHeads g k.job)

/-- R39: resident `a` is before `b` in the order of leaving: lower class first, then the later deadline. -/
def State.leavesBefore (s : State) (g : Nat) (a b : CtxSlot) : Bool :=
  match s.slotBest g a, s.slotBest g b with
  | none, some _ => true
  | some x, some y => s.ranksBefore y x
  | _, _ => false

/-- The first of a list under an order; the earlier of equals. -/
def firstBy {α : Type} (lt : α → α → Bool) : List α → Option α
  | [] => none
  | x :: xs =>
    match firstBy lt xs with
    | none => some x
    | some y => if lt y x then some y else some x

/-- R39: the resident that leaves for a context whose next command is `c`: the one empty longest, else the
lowest-class one when `c` has a higher class. -/
def State.leaver (s : State) (g : Nat) (c : Cmd) : Option CtxSlot :=
  let ks := (s.engine g).slots
  let empties := ks.filter fun k => (s.inQueue (.context g k.job)).isEmpty
  match firstBy (fun a b => !timeReached (a.emptySince.getD s.now) (b.emptySince.getD s.now)) empties with
  | some k => some k
  | none =>
    match firstBy (s.leavesBefore g) (ks.filter (s.mayLeave g)) with
    | none => none
    | some k =>
      match s.slotBest g k with
      | some h => if c.cls < h.cls then some k else none
      | none => some k

/-- R40: a context with commands leaves its slot for one of higher class; if it was the running one, a pre-emption has begun. -/
def State.oust (s : State) (g : Nat) (k : CtxSlot) : State :=
  let t := s.swapOut g k
  if (s.engine g).running == some k.slot && !(s.inQueue (.context g k.job)).isEmpty then t.putEngine g { t.engine g with ousted := true }
  else t

/-- CONTEXT_SWAP (R39): the context of a job is swapped in to an engine. -/
def State.contextSwap (s : State) (g job : Nat) : State :=
  if ((s.engine g).slotOf job).isSome || !s.dieUsable (g / 2) || (s.page .ne g).faulted then s
  else
    match s.bestOf (s.wantHeads g job) with
    | none => s
    | some c =>
      match (s.engine g).freeSlot with
      | some k => s.swapIn g job k
      | none =>
        match s.leaver g c with
        | some k => (s.oust g k).swapIn g job k.slot
        | none => s

/-- CONTEXT_SWAP (R39). -/
def execContextSwap (engine job : Nat) (s : State) : Out := .next (s.contextSwap engine job).track

/-! ### Pre-emption (R40, R42) and blocked contexts (R43) -/

/-- R42: the contexts of an engine other than `keep` whose head waits are rewound. -/
def State.rewind (s : State) (g keep : Nat) : State :=
  let e := s.engine g
  let waits := fun (k : CtxSlot) => k.slot != keep && e.running == some k.slot && s.headWaits g k.job
  let t := (e.slots.filter waits).foldl (fun (u : State) k => u.pulse .ne g 0x14 1 (some k.job)) s
  t.putEngine g { e with slots := e.slots.map fun (k : CtxSlot) => if waits k then { k with rewound := true } else k }

/-- R40: the engine runs a context other than that of slot `k`, or has given up the slot of the one it ran to a higher class. -/
def Engine.outruns (e : Engine) (k : Nat) : Bool :=
  match e.running with
  | some r => k != r
  | none => e.ousted

/-- PREEMPT (R40): the engine turns from its running context to one that outranks it, `ticks` after that one
became runnable; of a context that had to be swapped in, `ticks` include the save and the restore. -/
def State.preempt (s : State) (g ticks : Nat) : State :=
  match s.chosen g with
  | some k =>
    if !(s.engine g).outruns k.slot then s
    else
      let s1 := ((s.rewind g k.slot).pulse .sched 0 0x11 1 (some k.job)).pulse .ne g 0x11 1 (some k.job)
      let s2 := s1.putEngine g { s1.engine g with running := some k.slot, planeOf := none, ousted := false, exempt := true }
      let s3 := s2.bumpMax .sched 0 0x06C ticks 0xFFFF
      if 2000 < ticks then (s3.irq .sched 0 0b10000).err .sched 0 2 g 0 else s3
  | none => s

/-- PREEMPT (R40). -/
def execPreempt (engine ticks : Nat) (s : State) : Out := .next (s.preempt engine ticks)

/-- R50: DELAY_US of SWAP_CTRL, 5 to 35 µs, in ticks. -/
def State.swapTicks (s : State) : Nat := max 5 (min 35 (bits (s.reg .sched 0 0x044) 5 0)) * usTicks

/-- The moment since which every resident context of an engine has been blocked. -/
def Engine.allBlockedSince (e : Engine) : Option Nat :=
  if e.slots.isEmpty || e.slots.any fun k => k.blockedSince.isNone then none
  else (e.slots.filterMap (·.blockedSince)).foldl (fun (m : Option Nat) t => some (m.elim t (laterTime t))) none

/-- A next command of a context that is not resident could start at once. -/
def State.wouldRun (s : State) (g : Nat) (c : Cmd) : Bool := s.ready c g && !(2 ≤ c.cls && s.barred g) && !s.tileBad c

/-- R43: one context comes in before another: by class, then by deadline, then by the longer wait, which counts from the acceptance
of its command (DESIGN CHOICE, assumption 66). -/
def State.comesBefore (s : State) (a b : Cmd) : Bool :=
  s.ranksBefore a b || (!s.ranksBefore b a && !timeReached a.acceptedAt b.acceptedAt)

/-- R43: the command of the context to swap in: highest class, earliest deadline, longest wait. -/
def State.swapCandidate (s : State) (g : Nat) : Option Cmd :=
  firstBy s.comesBefore ((List.range 64).filterMap fun j =>
    if ((s.engine g).slotOf j).isSome then none else s.bestOf ((s.wantHeads g j).filter (s.wouldRun g)))

/-- R43: the resident waits on a flag that job `j` produces. -/
def State.waitsOn (s : State) (g j : Nat) (k : CtxSlot) : Bool :=
  (s.classHeads g k.job).any fun c =>
    !s.waitMet c && (match c.wait with
      | some (f, _) => (s.flag f).produced && (s.flag f).producer == j
      | none => false)

/-- BLOCKED_SWAP (R43): with every resident blocked for DELAY_US, one gives its slot to a runnable context. -/
def State.blockedSwap (s : State) (g : Nat) : State :=
  match (s.engine g).allBlockedSince, s.swapCandidate g with
  | some t, some c =>
    let out := (s.engine g).slots.filter (s.mayLeave g)
    let first := out.filter (s.waitsOn g c.job)
    (match firstBy (fun a b => !timeReached (a.blockedSince.getD 0) (b.blockedSince.getD 0))
        (if first.isEmpty then out else first) with
     | none => s
     | some k =>
       let s1 := ((s.at (t + s.swapTicks)).swapOut g k).swapIn g c.job k.slot
       let s1 := s1.putEngine g { s1.engine g with exempt := true }
       ((s1.bump .sched 0 0x068 1).pulse .sched 0 0x12 1 (some c.job)).irq .sched 0 0b00100)
  | _, _ => s

/-- BLOCKED_SWAP (R43). -/
def execBlockedSwap (engine : Nat) (s : State) : Out := .next (s.blockedSwap engine).track

/-! ### Power gating (R107) -/

/-- R107: a job whose ENGINE_MASK names the engine has an open step. -/
def State.stepHolds (s : State) (g : Nat) : Bool :=
  s.steps.any fun x => x.opened && !x.closed && (s.job x.job).mask.testBit g

/-- ENGINE_GATE (R107): an engine idle for DELAY_US gates its power. -/
def State.engineGate (s : State) (g : Nat) : State :=
  let e := s.engine g
  let p := s.page .ne g
  match e.idleSince with
  | some t =>
    let stitch := (s.pwr.dies.find? (g / 2)).any fun d => (if g % 2 == 0 then d.stitch.1 else d.stitch.2) != 0
    -- R409: no gating while stitch is needed
    if p.extra.getLsbD 3 && !e.gated && !s.stepHolds g && s.dieUsable (g / 2) && !p.faulted && !stitch then
      (s.at (t + bits (s.reg .ne g 0x058) 15 0 * usTicks)).putEngine g { e with gated := true, planeOf := none }
    else s
  | none => s

/-- ENGINE_GATE (R107). -/
def execEngineGate (engine : Nat) (s : State) : Out := .next (s.engineGate engine)

/-! ### The end of a transfer (R90) -/

/-- The engine whose windows a queued command's operands resolve in. -/
def Cmd.runsOn (c : Cmd) : Option Nat :=
  match c.place with
  | .queued (.context g _) => some g
  | .queued (.post _) => some c.compiledEngine
  | _ => none

/-- The queued commands that wait for a transfer. -/
def State.waitsFor (s : State) (f : Fetch) (c : Cmd) : Bool :=
  c.job == f.job &&
    (match c.runsOn with
     | some g =>
       (match s.fetchDesc c g with
        | some d => d.flag == f.flag && d.gen == f.gen && (!f.again || c.uid == f.uid)
        | none => false)
     | none => false)

/-- R435: the command that issued a transfer has its data. -/
def State.markFetched (s : State) (uid : Nat) : State :=
  { s with cmds := s.cmds.map fun (c : Cmd) => if c.uid == uid then { c with fetched := true } else c }

/-- R90, R295: all data of a transfer has landed. -/
def State.landFetch (s : State) (f : Fetch) : State :=
  let s1 := (s.correctRead .tmem (f.engine / 2) f.src f.length).devPut f.dst (s.devGet f.src f.length)
  if f.again then s1.markFetched f.uid else s1.advance f.job f.flag 1

/-- R437: the source of a transfer has gone with its die, or names nothing any more. -/
def State.sourceLost (s : State) (f : Fetch) : Bool :=
  match s.target f.src f.length with
  | none => true
  | some (.tmem d) => !s.dieUsable d
  | some _ => false

/-- R291, R292: the state of the route of a transfer. -/
def State.fetchRoute (s : State) (f : Fetch) : Nat := ((s.target f.src f.length).map fun t => s.routeTo t (f.engine / 2)).getD 0

/-- R90, R283, R295: a transfer whose route is UP lands, or meets an uncorrectable word. -/
def State.arrive (s : State) (f : Fetch) : State :=
  match s.firstBad f.src f.length with
  | some a => s.faultAll (s.waitsFor f) .ecc (if s.target f.src f.length == some .dram then 0x34 else 0x30) a
  | none => s.landFetch f

/-- FETCH_LANDED (R90, R292): the transfer that command `uid` issued ends. With `ok` its data lands and its flag advances, once its
route is UP: the flits of a module that is being trained are held. Without, it fails for want of any route, and the commands that wait
for it end. FAILED_DIE_LOST takes precedence (R437). -/
def State.fetchLanded (s : State) (uid : Nat) (ok : Bool) : State :=
  match s.fetches.find? fun f => f.uid == uid with
  | none => s
  | some f =>
    let s1 := { s with fetches := s.fetches.erase f }
    if s.sourceLost f then s1.endAll (s.waitsFor f) .dieLost 0
    else if ok then (if s.fetchRoute f == 2 then s1.arrive f else s)
    else if s.fetchRoute f == 0 then s1.endAll (s.waitsFor f) .link 0x21 else s

/-- FETCH_LANDED (R90). -/
def execFetchLanded (uid : Nat) (ok : Bool) (s : State) : Out := .next (s.fetchLanded uid ok).track

/-! ### What runs (R110, R112) -/

/-- R112: the slot whose command a unit of an engine runs. Commands run whole, so none is between its start and its end: a unit counts
as running while the next command of its class in the running context can start (DESIGN CHOICE, assumption 68). -/
def State.unitRuns (s : State) (g : Nat) (u : OpUnit) : Option Nat :=
  let e := s.engine g
  match e.slots.find? fun k => e.running == some k.slot with
  | some k => (match s.classHead g k.job u with
    | some c => if s.ready c g && s.landed c g && !(s.page .ne g).faulted then some k.slot else none
    | none => none)
  | none => none

/-! ### Register events of the NE page (R85, R105, R110) -/

/-- R367: the state of an engine as `NE.BLK_STATE` codes it. -/
def State.neState (s : State) (g : Nat) : Nat :=
  let p := s.page .ne g
  let busy := s.cmds.any fun c => match c.place with | .queued (.context e _) => e == g | _ => false
  if bits (s.reg .cdSys (g / 2) 0x040) 31 30 != 2 then 0
  else if p.faulted && (p.enable || busy) then 4
  else if busy && (p.drain || p.disabling) then 3
  -- R48: a gated engine sleeps though blocked contexts hold commands
  else if (s.engine g).gated then 5
  else if busy then 2
  else 1

/-- CTX_SAVE (R105, R110): the context in a slot is saved and its slot freed, in state IDLE or DRAINING. -/
def State.ctxSave (s : State) (g slot : Nat) : State :=
  if s.neState g != 1 && s.neState g != 3 then s
  else match (s.engine g).slots.find? fun k => k.slot == slot with
    | some k => if s.mayLeave g k then s.swapOut g k else s
    | none => s

/-- CTX_SAVE (R110): SLOT is written and the context in it is saved. -/
def execCtxSave (engine slot : Nat) (s : State) : Out :=
  .next (s.host .ne engine fun t => ((t.setReg .ne engine 0x048 (slot % 4)).ctxSave engine (slot % 4)).track)

/-- MSE_CLEAR_ALL (R110): every statistic slot of an engine is cleared. -/
def State.mseClearAll (s : State) (g : Nat) : State := s.putEngine g { s.engine g with stats := [] }

/-- MSE_CLEAR_ALL (R110). -/
def execMseClearAll (engine : Nat) (s : State) : Out :=
  if s.hostWrites .ne engine then .next (s.mseClearAll engine) else .next s

/-- MSE_CLEAR_SEL (R110): the slot in `MSE_SEL` is cleared. -/
def State.mseClearSel (s : State) (g : Nat) : State :=
  s.putEngine g { s.engine g with stats := SMap.erase (s.engine g).stats (s.reg .ne g 0x060 % 8) }

/-- MSE_CLEAR_SEL (R110). -/
def execMseClearSel (engine : Nat) (s : State) : Out :=
  if s.hostWrites .ne engine then .next (s.mseClearSel engine) else .next s

end Sys2Proof.Machine
end

