-- ==== Sys2Proof/Machine/Vector.lean ====
section
/-!
DEFINITION. The vector engine operations (R99 to R101, R127, R128, R140, R149, R178, R306 to R309): VE_EWISE,
VE_FUNC, VE_REDUCE, VE_KSEL, VE_DWCONV, VE_MERGE, VE_OPTIM and VE_XREDUCE.
-/

-- One declaration at a time: the threads of a parallel elaboration take memory together.
set_option Elab.async false

namespace Sys2Proof.Machine

/-! ### Operands (R99, R127) -/

def Cmd.veCount (c : Cmd) : Nat := c.num 40 3
def Cmd.opfn (c : Cmd) : Nat := c.num 44 2
def Cmd.group (c : Cmd) : Nat := c.num 46 2
def Cmd.veScale (c : Cmd) : Nat := c.addrField 48
def Cmd.param (c : Cmd) : Nat := c.num 52 4

/-- R99: COUNT is in range. -/
def Cmd.countOk (c : Cmd) : Bool := 1 ≤ c.veCount && c.veCount ≤ 12288000

/-- The format of a format and address field. -/
def Cmd.fmtAt (c : Cmd) (off : Nat) : Fmt := (Fmt.ofCode (c.fmtField off)).getD .i8

/-- R127: DST is I4 to I16, so that half the entries of a scale tensor quantise the result. -/
def Cmd.quantises (c : Cmd) : Bool := c.fmtField 36 ≤ 4

/-- An operand of a VE operation: where its field is, its elements, and the formats it accepts. -/
structure VeOperand where
  off : Nat
  count : Nat
  accepts : Nat → Bool

/-- R100: codes 0x0 to 0xD, and 0x0 to 0xE. -/
def upToD (k : Nat) : Bool := k ≤ 0xD
def upToE (k : Nat) : Bool := k ≤ 0xE

/-- R99: the bits of bytes 24-63 that every VE operation uses. -/
def veUsed (more : List (Nat × Nat)) : List (Nat × Nat) :=
  [(24, 0xFFFFFFFF), (36, 0xFFFFFFFF), (40, 0xFFFFFF)] ++ more

/-- R124, R127: the failing checks of a VE command's scale tensor for `n` elements. -/
def State.veScaleFails (s : State) (c : Cmd) (g n : Nat) : List (Status × Nat) :=
  if c.veScale == 0 then []
  else s.scaleFails c g c.veScale (c.fmtField 24) 23 (match s.table? c g c.veScale with
    | some t => if c.quantises then 2 * t.need n else t.need n
    | none => 0)

/-- R88, R99, R100, R113, R115: the failing checks of a VE command: its reserved bits, its operands, the last of
which is DST, its counts, and its scale tensor for `n` elements when it takes one. -/
def State.veFails (s : State) (c : Cmd) (g : Nat) (used : List (Nat × Nat)) (ops : List VeOperand) (shape : Bool)
    (scaled : Option Nat) : List (Status × Nat) :=
  let whole := shape && !(ops.any fun o => c.fmtField o.off == 0xE && o.count % 32 != 0)
  failIf (!c.rsvdZero used) .badOperand 0x04 ++
    formatFails (ops.map fun o => (c.fmtField o.off, o.accepts (c.fmtField o.off))) ++
    failIf (ops.any fun o => c.addrField o.off % 64 != 0) .badOperand 0x01 ++
    failIf (!whole) .badOperand 0x02 ++
    (ops.flatMap fun o => s.rangeFails c g (c.addrField o.off) (codeBytes (c.fmtField o.off) o.count)) ++
    (match scaled with
     | some n => s.veScaleFails c g n
     | none => [])

/-- The codes of an operand's elements, as bytes. -/
def State.veBytes (s : State) (c : Cmd) (g off n : Nat) : List Byte :=
  s.devGet (s.place c g (c.addrField off) 1) ((c.fmtAt off).bytes n)

/-- The elements of an operand, exactly. -/
def State.veExact (s : State) (c : Cmd) (g off n : Nat) : List Val :=
  (c.fmtAt off).values (s.veBytes c g off n) n

/-- The elements of an operand converted to F32. -/
def State.veValues (s : State) (c : Cmd) (g off n : Nat) : List Val := (s.veExact c g off n).map Val.r32

/-- The scale tensor of a VE command, when SCALE is not zero. -/
def State.veTable (s : State) (c : Cmd) (g : Nat) : Option Table :=
  if c.veScale == 0 then none else s.table? c g c.veScale

/-- R120, R127: one element dequantised with a scale and zero point. -/
def dequant (f : Fmt) (e : Val × Int) (v : Val) : Val :=
  fmul e.1 (if f.hasZero then (v.sub (Val.ofInt e.2)).r32 else v.r32)

/-- R127: element `i` of SRC_A as the operation sees it. -/
def State.deq (s : State) (c : Cmd) (t : Option Table) (i : Nat) (v : Val) : Val :=
  match t with
  | none => v.r32
  | some x => dequant (c.fmtAt 24) (s.scaleEntry x c.epoch (x.index i)) v

/-- R127: the elements of SRC_A as the operation sees them. -/
def State.veSrcA (s : State) (c : Cmd) (g n : Nat) : List Val :=
  ((List.range n).zip (s.veExact c g 24 n)).map fun p => s.deq c (s.veTable c g) p.1 p.2

/-- R127: result `i` before its narrowing, with its zero point. -/
def State.quant (s : State) (c : Cmd) (t : Option Table) (i : Nat) (v : Val) : Val × Int × Option Nat :=
  match t with
  | some x =>
    if c.quantises then
      let e := s.scaleEntry x c.epoch (x.entries / 2 + x.index i)
      (fdiv v e.1, e.2, none)
    else (v, 0, none)
  | none => (v, 0, none)

/-- The ranges a VE command reads: its sources, and its scale tensor. -/
def State.veReads (s : State) (c : Cmd) (g : Nat) (srcs : List VeOperand) : List (Nat × Nat × Nat) :=
  (srcs.map fun o => (s.place c g (c.addrField o.off) 1, (c.fmtAt o.off).bytes o.count, 0x30)) ++
    (match s.veTable c g with
     | some t => [(t.base, 64, 0x30), (t.copyAt c.epoch, 8 * t.entries, 0x30)]
     | none => [])

/-- The work of a VE command that passes its checks and writes `vals` to DST (R118, R127). -/
def State.vePut (s : State) (c : Cmd) (g : Nat) (srcs : List VeOperand) (t : Option Table) (vals : List Val) : Work :=
  let r := narrowRun (c.fmtAt 36) (((List.range vals.length).zip vals).map fun p => s.quant c t p.1 p.2)
  { fails := [], reads := s.veReads c g srcs, rowsRead := [], rows := []
    writes := [(s.place c g (c.addrField 36) 1, r.1)], stats := r.2 }

/-! ### VE_EWISE (R100) -/

/-- R100: an element-wise function of A, B and C. -/
def ewise (fn : Nat) (a b c : Val) : Val :=
  match fn with
  | 0 => fadd a b
  | 1 => fsub a b
  | 2 => fmul a b
  | 3 => ffma a b c
  | 4 => fmax a b
  | 5 => fmin a b
  | _ => a

/-- R100: the sources a function of VE_EWISE reads. -/
def ewiseSrcs (fn n : Nat) : List VeOperand :=
  if fn == 6 then [⟨24, n, upToE⟩]
  else if fn == 3 then [⟨24, n, upToD⟩, ⟨28, n, upToD⟩, ⟨32, n, upToD⟩]
  else [⟨24, n, upToD⟩, ⟨28, n, upToD⟩]

/-- VE_EWISE (R100): what it does. OPFN 7 names no function: it is a parameter outside its range, CAUSE 0x02 (DESIGN CHOICE,
assumption 68). -/
def State.ewiseWork (s : State) (c : Cmd) (g _ : Nat) : Work :=
  let n := c.veCount
  let fn := c.opfn % 8
  let srcs := ewiseSrcs fn n
  let fs := s.veFails c g (veUsed [(28, 0xFFFFFFFFFFFFFFFF), (44, 0x7), (48, 0x0FFFFFFF), (56, 0x87)])
    (srcs ++ [⟨36, n, upToE⟩]) (c.countOk && fn ≤ 6) (some n)
  if !fs.isEmpty then Work.refuse fs
  else
    let t := s.veTable c g
    if fn == 6 && t.isNone && c.fmtField 24 == 0xE && c.fmtField 36 == 0xE then
      let r := bx4Keep (s.veBytes c g 24 n) n
      { fails := [], reads := s.veReads c g srcs, rowsRead := [], rows := []
        writes := [(s.place c g (c.addrField 36) 1, r.1)], stats := r.2 }
    else if fn == 6 then
      -- R118 rule 1: without a scale tensor the exact value is rounded once
      s.vePut c g srcs t (if t.isNone then s.veExact c g 24 n else s.veSrcA c g n)
    else
      let b := s.veValues c g 28 n
      let d := if fn == 3 then s.veValues c g 32 n else []
      s.vePut c g srcs t ((List.range n).zip (s.veSrcA c g n) |>.map fun p =>
        ewise fn p.2 (b.getD p.1 .zero) (d.getD p.1 .zero))

/-- VE_EWISE (R100). -/
def execVeEwise (uid : Nat) (s : State) : Out := .next (s.engineOp uid 0x2001 State.ewiseWork)

/-! ### VE_FUNC (R100) -/

/-- A result for which R100 states no value: a free value. -/
def unstated (fn : Nat) (v : Val) : Val := val32 (Config.veFunc fn v.code32 % 2 ^ 32)

/-- R100: a function of one operand. The spec states no result for the logarithm and the reciprocal root of a value
that is not positive, for the reciprocal of zero, and for GELU: free values. -/
def vefunc (fn : Nat) (v : Val) : Val :=
  if v.isNan then .nan
  else
    match fn with
    | 0 => fexp v
    | 1 => if v.isZero || v.negative then unstated 1 v else flog v
    | 2 => if v.isZero then unstated 2 v else fdiv (Val.ofNat 1) v
    | 3 => if v.isZero || v.negative then unstated 3 v else frsqrt v
    | 4 => fsigmoid v
    | 5 => ftanh v
    | 6 => unstated 6 v
    | _ => v.abs

/-- VE_FUNC (R100): what it does. -/
def State.funcWork (s : State) (c : Cmd) (g _ : Nat) : Work :=
  let n := c.veCount
  let srcs : List VeOperand := [⟨24, n, upToD⟩]
  let fs := s.veFails c g (veUsed [(44, 0x7), (48, 0x0FFFFFFF), (56, 0x87)]) (srcs ++ [⟨36, n, upToE⟩]) c.countOk
    (some n)
  if !fs.isEmpty then Work.refuse fs
  else s.vePut c g srcs (s.veTable c g) ((s.veSrcA c g n).map (vefunc (c.opfn % 8)))

/-- VE_FUNC (R100). -/
def execVeFunc (uid : Nat) (s : State) : Out := .next (s.engineOp uid 0x2002 State.funcWork)

/-! ### VE_REDUCE (R100) -/

/-- R100: one group reduced in a pairwise tree in index order. -/
def reduceGroup (fn : Nat) (xs : List Val) : Val :=
  let ys := if fn == 3 then xs.map fun x => fmul x x else xs
  let op := match fn with
    | 1 => fmax
    | 2 => fmin
    | _ => fadd
  (treeReduce op xs.length ys).getD .zero

/-- VE_REDUCE (R100): what it does. -/
def State.reduceWork (s : State) (c : Cmd) (g _ : Nat) : Work :=
  let n := c.veCount
  let k := c.group
  let srcs : List VeOperand := [⟨24, n, upToD⟩]
  let fs := s.veFails c g (veUsed [(44, 0x3), (46, 0xFFFF), (48, 0x0FFFFFFF), (56, 0x87)])
    (srcs ++ [⟨36, n / max 1 k, fun f => f == 0x5 || f == 0xA⟩])
    (c.countOk && 1 ≤ k && k ≤ 4096 && n % max 1 k == 0) (some n)
  if !fs.isEmpty then Work.refuse fs
  else s.vePut c g srcs none ((chunks k n (s.veSrcA c g n)).map (reduceGroup (c.opfn % 4)))

/-- VE_REDUCE (R100). -/
def execVeReduce (uid : Nat) (s : State) : Out := .next (s.engineOp uid 0x2003 State.reduceWork)

/-! ### VE_KSEL (R100) -/

/-- An element put into a list that rises in value, after its equals. -/
def insertRising (x : Val × Nat) : List (Val × Nat) → List (Val × Nat)
  | [] => [x]
  | y :: ys => if x.1.lt y.1 then x :: y :: ys else y :: insertRising x ys

/-- Elements in rising order, equals in index order. -/
def sortRising (xs : List (Val × Nat)) : List (Val × Nat) := xs.foldl (fun acc x => insertRising x acc) []

/-- R100: the code that VE_KSEL selects from one group of codes. PARAM [15:0] is the code of a 16-bit element; an F32 element takes it with
zeros above (DESIGN CHOICE, assumption 72). -/
def kselect (f : Fmt) (d : Int) (least fallback : Nat) (cs : List Nat) : Nat :=
  let valid := sortRising ((cs.map fun q => (f.value q, q)).filter fun p => !p.1.isNan)
  let n := valid.length
  let pos : Int := ((n - 1) / 2 : Nat) + d
  if n < least || n == 0 || pos < 0 || (n : Int) ≤ pos then fallback
  else (valid.getD pos.toNat (.zero, 0)).2

/-- VE_KSEL (R100): what it does. R100 asks GROUP to divide COUNT of VE_REDUCE alone; a VE_KSEL whose GROUP does not fails with CAUSE
0x02 as well, since its last group would be none of R100's (DESIGN CHOICE, assumption 68). -/
def State.kselWork (s : State) (c : Cmd) (g _ : Nat) : Work :=
  let n := c.veCount
  let k := c.group
  let ok := fun f => f == 0x4 || f == 0x8 || f == 0xA || f == 0xD
  let srcs : List VeOperand := [⟨24, n, ok⟩]
  let fs := s.veFails c g (veUsed [(44, 0xFFFFFFFF), (52, 0xFFFFFFFF)])
    (srcs ++ [⟨36, n / max 1 k, fun f => f == c.fmtField 24⟩])
    (c.countOk && 1 ≤ k && k ≤ 256 && n % max 1 k == 0) none
  if !fs.isEmpty then Work.refuse fs
  else
    let f := c.fmtAt 24
    let cs := f.unpack (s.veBytes c g 24 n) n
    let out := (chunks k n cs).map (kselect f (signed 16 c.opfn) (c.param / 2 ^ 16) (c.param % 2 ^ 16))
    { fails := [], reads := [(s.place c g (c.addrField 24) 1, f.bytes n, 0x30)], rowsRead := [], rows := []
      writes := [(s.place c g (c.addrField 36) 1, f.pack out)], stats := Stats.none }

/-- VE_KSEL (R100). -/
def execVeKsel (uid : Nat) (s : State) : Out := .next (s.engineOp uid 0x2004 State.kselWork)

/-! ### VE_DWCONV (R149) -/

/-- R144: an index resolved by a padding mode, none where the pad value is taken. -/
def padIndex (mode : Nat) (i : Int) (n : Nat) : Option Nat :=
  if 0 ≤ i && i < (n : Int) then some i.toNat
  else match mode with
    | 2 => some (if i < 0 then (-i).toNat else (2 * ((n : Int) - 1) - i).toNat)
    | 3 => some (if i < 0 then 0 else n - 1)
    | _ => none

/-- R149, R150: output element (`y`, `x`) of plane `p`. The products are added in row-major order of the taps, from +0 on; the spec gives no
order (DESIGN CHOICE, assumption 72). -/
def State.dwconvAt (s : State) (c : Cmd) (t : Option Table) (a k : List Val) (h w side mode p y x : Nat) : Val :=
  let r := (side - 1) / 2
  let i := (p * h + y) * w + x
  let padCode := if mode == 1 then c.param % 2 ^ (c.fmtAt 24).bits else 0
  let pad := s.deq c t i ((c.fmtAt 24).value padCode)
  (List.range (side * side)).foldl (fun acc q =>
    let ty := q / side
    let tx := q % side
    let v := match padIndex mode ((y : Int) + ty - r) h, padIndex mode ((x : Int) + tx - r) w with
      | some yy, some xx => a.getD ((p * h + yy) * w + xx) .zero
      | _, _ => pad
    fadd acc (fmul v (k.getD (p * side * side + q) .zero))) .zero

/-- VE_DWCONV (R100, R149): what it does. Its COUNT is a height and a width: of COUNT's range only that height, width and GROUP are not 0 is
asked. The field table's "R127, SRC_A only" is read against SRC_B and SRC_C: a DST of I4 to I16 is quantised by the second half of the
entries, as R127 says, so that twice the entries are needed (DESIGN CHOICE, assumption 72). -/
def State.dwconvWork (s : State) (c : Cmd) (g _ : Nat) : Work :=
  let h := bits (c.num 40 3) 23 12
  let w := bits (c.num 40 3) 11 0
  let side := c.opfn % 16
  let mode := bits c.opfn 5 4
  let n := h * w * c.group
  let src := fun f => f == 0x2 || f == 0x3 || f == 0x4 || f == 0x8 || f == 0x9 || f == 0xA
  let srcs : List VeOperand := [⟨24, n, src⟩, ⟨28, side * side * c.group, src⟩]
  let fs := s.veFails c g (veUsed [(28, 0xFFFFFFFF), (44, 0x3F), (46, 0xFFFF), (48, 0x0FFFFFFF),
      (52, 0xFFFFFFFF), (56, 0x87)])
    (srcs ++ [⟨36, n, fun f => 2 ≤ f && f ≤ 0xD⟩])
    (n != 0 && (side == 1 || side == 3 || side == 5 || side == 7) && (side - 1) / 2 + 1 ≤ min h w) (some n)
  if !fs.isEmpty then Work.refuse fs
  else
    let t := s.veTable c g
    let a := s.veSrcA c g n
    let k := s.veValues c g 28 (side * side * c.group)
    s.vePut c g srcs t ((List.range n).map fun i =>
      s.dwconvAt c t a k h w side mode (i / (h * w)) (i / w % h) (i % w))

/-- VE_DWCONV (R149). -/
def execVeDwconv (uid : Nat) (s : State) : Out := .next (s.engineOp uid 0x2005 State.dwconvWork)

/-! ### VE_MERGE (R128) -/

/-- The bytes that one merged element makes: a nibble keeps the other half of its byte. -/
def State.mergeBytes (s : State) (f : Fmt) (row ch code : Nat) : Nat × List Byte :=
  if f.bits == 4 then
    let a := row + ch / 2
    let old := s.devNat a 1
    (a, leBytes 1 (if ch % 2 == 0 then old / 16 * 16 + code % 16 else old % 16 + 16 * (code % 16)))
  else (row + ch * (f.bits / 8), leBytes (f.bits / 8) code)

/-- R128: the pitch of the planes of SRC_A. -/
def Cmd.mergePitch (c : Cmd) : Nat := roundUp ((c.fmtAt 24).bytes c.veCount) 64

/-- VE_MERGE (R128): its failing checks. -/
def State.mergeFails (s : State) (c : Cmd) (g : Nat) (chans : List Int) : List (Status × Nat) :=
  let n := c.veCount
  let k := c.group
  let shape := c.countOk && 1 ≤ k && k ≤ 8 && c.param % 64 == 0 && c.opfn % 16 ≤ 3
  let af := c.fmtField 24
  failIf (!c.rsvdZero (veUsed [(28, 0xFFFFFFFF), (44, 0xF), (46, 0xFFFF), (48, 0x0FFFFFFF), (52, 0xFFFFFFFF),
      (56, 0x87)])) .badOperand 0x04 ++
    formatFails [(af, af == 0x4 || af == 0x9 || af == 0xA), (c.fmtField 28, c.fmtField 28 == 0x4), (c.fmtField 36, true)] ++
    failIf (c.addrField 24 % 64 != 0 || c.addrField 28 % 64 != 0 || c.addrField 36 % 64 != 0) .badOperand 0x01 ++
    failIf (!shape) .badOperand 0x02 ++
    s.rescaleFails c g c.veScale 0 (c.fmtField 36) ++
    s.rangeFails c g (c.addrField 24) ((k - 1) * c.mergePitch + codeBytes af n) ++
    s.rangeFails c g (c.addrField 28) (2 * k) ++
    s.rangeFails c g (c.addrField 36) ((n - 1) * c.param +
      ceilDiv ((chans.foldl (fun m x => max m (x.toNat + 1)) 0) * (c.fmtAt 36).bits) 8)

/-- VE_MERGE (R128): what it does. -/
def State.mergeWork (s : State) (c : Cmd) (g _ : Nat) : Work :=
  let n := c.veCount
  let k := c.group
  let chans := (Fmt.i16.unpack (s.devGet (s.place c g (c.addrField 28) (2 * k)) (2 * k)) k).map (signed 16)
  let r := match s.table? c g c.veScale with
    | some t => s.rescaleOf t c.epoch
    | none => ⟨.zero, .zero, .zero, .zero, [], [], [], []⟩
  let fs := s.mergeFails c g chans ++ failIf (chans.any fun x => x < 0 || !(r.outlier.getD x.toNat false)) .badOperand 0x02
  if !fs.isEmpty then Work.refuse fs
  else
    let src := s.place c g (c.addrField 24) 1
    let dst := s.place c g (c.addrField 36) 1
    let f := c.fmtAt 24
    let o := c.fmtAt 36
    let cells := (List.range k).flatMap fun p =>
      let ch := (chans.getD p 0).toNat
      let vs := f.values (s.devGet (src + p * c.mergePitch) (f.bytes n)) n
      ((List.range n).zip vs).map fun q =>
        let v := r.act (c.opfn % 16) ch q.2.r32
        (q.1, ch, v, o.narrow (r.zout.getD ch 0) v)
    -- later nibbles of a byte see earlier ones, so that the runs are made one after another
    let out := cells.foldl (fun (acc : State × List (Nat × List Byte)) x =>
      let w := acc.1.mergeBytes o (dst + x.1 * c.param) x.2.1 x.2.2.2.code
      (acc.1.devPut w.1 w.2, acc.2 ++ [w])) (s, [])
    { fails := [], rowsRead := [], rows := [], writes := out.2
      reads := [(src, (k - 1) * c.mergePitch + f.bytes n, 0x30), (s.place c g (c.addrField 28) 1, 2 * k, 0x30)] ++
        (match s.table? c g c.veScale with
         | some t => [(t.base, 64, 0x30), (t.copyAt c.epoch, 64 + 16 * t.entries, 0x30)]
         | none => [])
      stats := (cells.map fun x => statOf o 127 x.2.2.1 x.2.2.2).foldl Stats.plus Stats.none }

/-- VE_MERGE (R128). -/
def execVeMerge (uid : Nat) (s : State) : Out := .next (s.engineOp uid 0x2006 State.mergeWork)

/-! ### VE_OPTIM (R140, R178) -/

/-- R178: what the optimiser step makes of one element: the moment codes and the new weight. -/
structure OptimOut where
  qm : Nat
  qv : Nat
  w : Val
  deriving DecidableEq, Repr

/-- 2 to the power of `-k`. -/
def twoNeg (k : Nat) : Val := .fin false 1 1 (-(k : Int))

/-- R178: one element, for k1, k2, ke and the learning rate, its gradient, moments, channel record and weight. -/
def optimStep (k1 k2 ke : Nat) (lr gr : Val) (qm0 : Int) (qv0 : Nat) (mScale : Val) (mZero : Int) (vScale w0 : Val) :
    OptimOut :=
  let c1 := twoNeg k1
  let c2 := twoNeg k2
  let b1 := fsub (Val.ofNat 1) c1
  let b2 := fsub (Val.ofNat 1) c2
  let m0 := fmul mScale (Val.ofInt (qm0 - mZero))
  let r0 := fmul vScale (Val.ofNat qv0)
  let m := fadd (fmul b1 m0) (fmul c1 gr)
  let v := fadd (fmul b2 (fmul r0 r0)) (fmul c2 (fmul gr gr))
  let r := fsqrt v
  let w := fsub w0 (fmul lr (fdiv m (fadd r (twoNeg (ke + 10)))))
  ⟨(Fmt.i8.narrow mZero (fdiv m mScale)).code, (Fmt.u8.narrow 0 (fdiv r vScale)).code, w⟩

/-- VE_OPTIM (R140, R178): what it does. -/
def State.optimWork (s : State) (c : Cmd) (g _ : Nat) : Work :=
  let n := c.veCount
  let k := c.group
  let k1 := bits c.opfn 3 0
  let k2 := bits c.opfn 7 4
  let ke := bits c.opfn 12 8
  let bBytes := roundUp n 64 + n
  let shape := c.countOk && k != 0 && n % max 1 k == 0 && 1 ≤ k1 && k1 ≤ 8 && 4 ≤ k2
  let fs := failIf (!c.rsvdZero (veUsed [(28, 0xFFFFFFFFFFFFFFFF), (44, 0x1FFF), (46, 0xFFFF), (48, 0x0FFFFFFF),
      (52, 0xFFFFFFFF), (56, 0x87)])) .badOperand 0x04 ++
    formatFails [(c.fmtField 24, c.fmtField 24 == 0x7), (c.fmtField 28, c.fmtField 28 == 0x2), (c.fmtField 32, true),
      (c.fmtField 36, c.fmtField 36 == 0x9)] ++
    failIf (c.addrField 24 % 64 != 0 || c.addrField 28 % 64 != 0 || c.addrField 32 % 64 != 0 ||
      c.addrField 36 % 64 != 0) .badOperand 0x01 ++
    failIf (!shape) .badOperand 0x02 ++
    s.rangeFails c g (c.addrField 24) n ++ s.rangeFails c g (c.addrField 28) bBytes ++
    s.rangeFails c g (c.addrField 32) (16 * k) ++ s.rangeFails c g (c.addrField 36) (2 * n) ++ s.veScaleFails c g n
  if !fs.isEmpty then Work.refuse fs
  else
    let b := s.place c g (c.addrField 28) 1
    let d := s.place c g (c.addrField 32) 1
    let dst := s.place c g (c.addrField 36) 1
    let gr := s.veSrcA c g n
    let res := (List.range n).map fun i =>
      let ch := d + 16 * (i / (n / k))
      optimStep k1 k2 ke (val32 c.param) (gr.getD i .zero) (signed 8 (s.devNat (b + i) 1))
        (s.devNat (b + roundUp n 64 + i) 1) (val32 (s.devNat ch 4)) (signed 16 (s.devNat (ch + 4) 2))
        (val32 (s.devNat (ch + 8) 4)) (bf16.decode (s.devNat (dst + 2 * i) 2))
    let w := narrowRun .bf16 (res.map fun r => (r.w, 0, none))
    { fails := [], rowsRead := [], rows := [], stats := w.2
      reads := s.veReads c g [⟨24, n, upToD⟩] ++ [(b, bBytes, 0x30), (d, 16 * k, 0x30), (dst, 2 * n, 0x30)]
      writes := [(b, res.map fun r => BitVec.ofNat 8 r.qm), (b + roundUp n 64, res.map fun r => BitVec.ofNat 8 r.qv),
        (dst, w.1)] }

/-- VE_OPTIM (R140, R178). -/
def execVeOptim (uid : Nat) (s : State) : Out := .next (s.engineOp uid 0x2007 State.optimWork)

/-! ### VE_XREDUCE (R101, R306 to R309) -/

/-- R306: FIRST and STRIDE of a VE_XREDUCE. -/
def Cmd.first (c : Cmd) : Nat := bits c.opfn 5 0
def Cmd.stride (c : Cmd) : Nat := bits c.opfn 11 6

/-- R306: the pitch of the leaves at SRC_A. -/
def Cmd.leafPitch (c : Cmd) : Nat := roundUp ((c.fmtAt 24).bytes c.veCount) 64

/-- VE_XREDUCE: its checks, before it contributes (R100, R306). -/
def State.xreduceFails (s : State) (c : Cmd) (g : Nat) : List (Status × Nat) :=
  let ok := fun f => f == 0x7 || f == 0xA
  let n := c.veCount
  let shape := c.countOk && 1 ≤ c.group && c.group ≤ 64 && !(c.stride == 0 && 1 < c.group) && c.num 57 1 ≤ 1 &&
    (s.collPeers c).contains g
  failIf (!c.rsvdZero (veUsed [(44, 0x0FFF), (46, 0xFFFF), (56, 0xFFFFFF87)])) .badOperand 0x04 ++
    formatFails [(c.fmtField 24, ok (c.fmtField 24)), (c.fmtField 36, ok (c.fmtField 36))] ++
    failIf (c.addrField 24 % 64 != 0 || c.addrField 36 % 64 != 0) .badOperand 0x01 ++
    failIf (!shape) .badOperand 0x02 ++
    s.rangeFails c g (c.addrField 24) ((c.group - 1) * c.leafPitch + codeBytes (c.fmtField 24) n) ++
    s.rangeFails c g (c.addrField 36) (codeBytes (c.fmtField 36) n)

/-- R306: the leaves of a command, by global index, as F32 codes. -/
def State.leavesOf (s : State) (c : Cmd) (g : Nat) : List (Nat × List Nat) :=
  let f := c.fmtAt 24
  let n := c.veCount
  (List.range c.group).map fun k =>
    (c.first + k * c.stride,
      (f.values (s.devGet (s.place c g (c.addrField 24) 1 + k * c.leafPitch) (f.bytes n)) n).map Val.code32)

/-- Two vectors of F32 codes added element by element. -/
def addLeaves (a b : List Nat) : List Nat := List.zipWith (fun x y => (fadd (val32 x) (val32 y)).code32) a b

/-- R307: the canonical tree. -/
def canonical (xs : List (List Nat)) : List Nat := (treeReduce addLeaves xs.length xs).getD []

/-- Vectors summed in order, the first as it is. -/
def sumInOrder : List (List Nat) → List Nat
  | [] => []
  | x :: xs => xs.foldl addLeaves x

/-- The leaf with a global index. -/
def leafAt (ls : List (Nat × List Nat)) (i : Nat) : List Nat :=
  ((ls.find? fun p => p.1 == i).map (·.2)).getD []

/-- R308: the placement order: each engine's own leaves in index order, then the engines in ring order. -/
def placement (ps : List CollPeer) : List Nat :=
  let engines := (List.range 16).filterMap fun g => ps.find? fun p => p.engine == g
  sumInOrder (engines.map fun p =>
    sumInOrder ((List.range 4096).filterMap fun i => (p.leaves.find? fun q => q.1 == i).map (·.2)))

/-- R306: leaf indices form 0 to L - 1 without gaps or repeats, with L at most 64. -/
def leavesSound (ls : List (Nat × List Nat)) : Bool :=
  ls.length ≤ 64 && (List.range ls.length).all fun i => ls.any fun p => p.1 == i

/-- R306 to R309: every peer has joined: the collective fails, or has its sum. -/
def Coll.settle (x : Coll) (placed : Bool) : Coll :=
  let ls := x.joined.flatMap (·.leaves)
  let same := match x.joined with
    | [] => true
    | p :: ps => ps.all fun q => q.count == p.count && q.dst == p.dst
  if !leavesSound ls || !same then { x with fail := some (.badOperand, 0x02) }
  else if placed && x.joined.all (·.placed) then { x with sum := some (placement x.joined), placed := true }
  else { x with sum := some (canonical ((List.range ls.length).map (leafAt ls))) }

/-- R306, R309: a command joins its collective with its leaves. -/
def State.joinColl (s : State) (c : Cmd) (g : Nat) : State :=
  let mask := s.collMask c
  let old := s.collFor c g mask
  let x := old.getD ⟨c.job, mask, [], [], none, none, false⟩
  let p : CollPeer := ⟨g, c.uid, c.veCount, c.fmtField 36, c.num 57 1 == 1 && c.vFlag, s.leavesOf c g⟩
  let x1 := { x with joined := x.joined ++ [p] }
  let all := (s.collPeers c).all fun e => x1.joined.any fun q => q.engine == e
  let placed := s.variant == .h8a && !(s.job c.job).repro
  let x2 := if x1.fail.isNone && all then x1.settle placed else x1
  { ((s.edge .ve g 0x21 (s.engineRuns g) (some c.job)).putCmd { c with progress := 1 }) with colls := (match old with
      | some o => s.colls.filter fun z => z != o
      | none => s.colls) ++ [x2] }

/-- The work of a VE_XREDUCE whose collective is settled: the sum narrowed to DST (R307). -/
def State.xreducePut (s : State) (c : Cmd) (g : Nat) (sum : List Nat) : Work :=
  let r := narrowRun (c.fmtAt 36) (sum.map fun q => (val32 q, 0, none))
  { fails := [], reads := [], rowsRead := [], rows := []
    writes := [(s.place c g (c.addrField 36) 1, r.1)], stats := r.2 }

/-- R306, R437: a VE_XREDUCE ends with its collective's failure, or writes DST and counts in XRED_COUNT. -/
def State.finishColl (s : State) (c : Cmd) (g slot : Nat) (x : Coll) : State :=
  let s1 := s.collOver x g (s.collPeers c).length
  match x.fail, x.sum with
  | some f, _ => s1.endCmd c.uid f.1 f.2
  | none, some v =>
    let s2 := if x.placed then
        (s1.putCmd { c with progress := 2 }).putJob c.job { s1.job c.job with placed := true }
      else s1
    ((s2.applyWork c g slot (s2.xreducePut c g v)).bump .ve g 0x04C 1).endCmd c.uid .ok 0
  | none, none => s1

/-- What a VE_XREDUCE reads: its leaves. -/
def State.leafReads (s : State) (c : Cmd) (g : Nat) : List (Nat × Nat × Nat) :=
  [(s.place c g (c.addrField 24) 1, (c.group - 1) * c.leafPitch + (c.fmtAt 24).bytes c.veCount, 0x30)]

/-- A VE_XREDUCE that can start: it joins, and ends once its collective is settled (R101, R306). -/
def State.xreduceRun (s : State) (c : Cmd) (g slot : Nat) : State :=
  match s.colls.find? fun x => x.joined.any fun p => p.uid == c.uid with
  | some x => if x.fail.isSome || x.sum.isSome then s.finishColl c g slot x else s
  | none =>
    match lowestCause (s.commonFails c g ++ s.xreduceFails c g) with
    | some f => s.endCmd c.uid f.1 f.2
    | none =>
      if (s.collPeers c).any fun e => !s.dieUsable (e / 2) then s.endCmd c.uid .dieLost 0
      else
        let s0 := ((s.starts c).spendIssue g (g / 2)).correctWork c g (s.leafReads c g)
        match s.badRead (s.leafReads c g) with
        | some b => (s0.faultCmd c.uid .ecc b.1 b.2).unitBad c g b.1 b.2
        | none =>
          let s1 := s0.joinColl c g
          match s1.colls.find? fun x => x.joined.any fun p => p.uid == c.uid with
          | some x => if x.fail.isSome || x.sum.isSome then s1.finishColl c g slot x else s1
          | none => s1

/-- VE_XREDUCE (R100, R306). -/
def State.xreduce (s : State) (uid : Nat) : State :=
  match s.startable uid 0x2008, s.unranked uid 0x2008 with
  | none, some (c, g) => (s.endUnranked c g (s.xreduceFails c g)).track
  | none, none => (s.waitingOp uid 0x2008).track
  | some (c, g, k), _ =>
    let s1 := s.select g k
    -- once it has joined, its data is with the collective
    let joined := s.colls.any fun x => x.joined.any fun p => p.uid == c.uid
    let t := if joined && !s.waitPoisoned c then none else s.beforeRun s1 c g
    (t.getD (s1.xreduceRun c g k)).track

/-- VE_XREDUCE (R100). -/
def execVeXreduce (uid : Nat) (s : State) : Out := .next (s.xreduce uid)

end Sys2Proof.Machine
end

