-- ==== Sys2Proof/Machine/Expander.lean ====
section
/-!
DEFINITION. The expander operations (R102, R103, R143 to R147, R153): XP_EXPAND, XP_S2C, XP_C2S, XP_UPSAMPLE and
XP_COPY.
-/

-- One declaration at a time: the threads of a parallel elaboration take memory together.
set_option Elab.async false

namespace Sys2Proof.Machine

/-- The fields of an XP command (R102). -/
structure Xp where
  fmt : Nat
  src : Nat
  dstFmt : Nat
  dst : Nat
  w : Nat
  h : Nat
  c : Nat
  srcPitch : Nat
  kh : Nat
  kw : Nat
  strideX : Nat
  strideY : Nat
  dilX : Nat
  dilY : Nat
  padMode : Nat
  padTop : Nat
  padBottom : Nat
  padLeft : Nat
  padRight : Nat
  factorX : Nat
  factorY : Nat
  padConst : Nat
  dstPitch : Nat
  transpose : Bool
  bilinear : Bool
  deriving DecidableEq, Repr

/-- R102: the operand layout of an XP command. -/
def Cmd.xp (c : Cmd) : Xp :=
  { fmt := c.fmtField 24, src := c.addrField 24, dstFmt := c.fmtField 28, dst := c.addrField 28
    w := c.num 32 2, h := c.num 34 2, c := c.num 36 2, srcPitch := c.num 38 2 * 64
    kh := c.num 40 1, kw := c.num 41 1, strideX := c.num 42 1 / 16, strideY := c.num 42 1 % 16
    dilX := c.num 43 1 / 16, dilY := c.num 43 1 % 16, padMode := c.num 44 1 % 4
    padTop := c.num 45 1 % 16, padBottom := c.num 45 1 / 16, padLeft := c.num 46 1 % 16, padRight := c.num 46 1 / 16
    factorX := c.num 47 1 / 16, factorY := c.num 47 1 % 16, padConst := c.num 48 4, dstPitch := c.num 52 2 * 64
    transpose := (c.num 54 1).testBit 1, bilinear := (c.num 54 1).testBit 0 }

/-- The shape of what an XP operation writes: planes, rows of a plane, and elements of a row. -/
structure XpOut where
  planes : Nat
  rows : Nat
  elems : Nat
  deriving DecidableEq, Repr

/-- R103: an output side, none where the window does not fit. -/
def outSide (n a b dil k stride : Nat) : Nat :=
  let x : Int := (n : Int) + a + b - dil * (k - 1) - 1
  if x < 0 then 0 else x.toNat / stride + 1

/-- The element format of an XP command. -/
def Xp.format (x : Xp) : Fmt := (Fmt.ofCode x.fmt).getD .i8

/-- R102: the sizes are in range and SRC_PITCH holds a row. -/
def Xp.sizesOk (x : Xp) : Bool :=
  1 ≤ x.w && x.w ≤ 4096 && 1 ≤ x.h && x.h ≤ 4096 && 1 ≤ x.c && x.c ≤ 4096 && x.format.bytes x.w ≤ x.srcPitch

/-- R115: the code of an element, without what a 16-bit container holds above a UN10 or UN12 code: a writer writes zeros there. -/
def Fmt.bare (f : Fmt) (code : Nat) : Nat :=
  match f with
  | .un10 => code % 2 ^ 10
  | .un12 => code % 2 ^ 12
  | _ => code

/-- R103, R143: the output of XP_EXPAND: one row per output pixel. -/
def Xp.expandOut (x : Xp) : XpOut :=
  ⟨1, outSide x.h x.padTop x.padBottom x.dilY x.kh x.strideY * outSide x.w x.padLeft x.padRight x.dilX x.kw x.strideX, x.c * x.kh * x.kw⟩

/-- R103, R143: the sizes of XP_EXPAND. R102 gives the ranges of KH, KW, STRIDE and DIL without saying which
operations they bind: they are checked for XP_EXPAND, the operation that uses them, and a window that fits no output row or column of
the padded plane fails with the same CAUSE 0x02 (DESIGN CHOICE, assumption 68). -/
def Xp.expandOk (x : Xp) : Bool :=
  let o := x.expandOut
  1 ≤ x.kh && x.kh ≤ 16 && 1 ≤ x.kw && x.kw ≤ 16 && 1 ≤ x.strideX && x.strideX ≤ 8 && 1 ≤ x.strideY &&
    x.strideY ≤ 8 && 1 ≤ x.dilX && x.dilX ≤ 8 && 1 ≤ x.dilY && x.dilY ≤ 8 && o.rows != 0 &&
    !(x.format.bits == 4 && o.elems % 2 != 0) && max x.padTop x.padBottom + 1 ≤ x.h && max x.padLeft x.padRight + 1 ≤ x.w

/-- R103: a factor of XP_S2C and XP_C2S. -/
def factorOk (f : Nat) : Bool := f == 2 || f == 4 || f == 8

/-- The factors of XP_S2C and XP_C2S. -/
def Xp.factorsOk (x : Xp) : Bool := factorOk x.factorX && factorOk x.factorY

/-- R103: the output of XP_S2C. -/
def Xp.s2cOut (x : Xp) : XpOut := ⟨x.c * x.factorX * x.factorY, x.h / x.factorY, x.w / x.factorX⟩

/-- R103: the factors of XP_S2C divide W and H. -/
def Xp.s2cOk (x : Xp) : Bool := x.factorsOk && x.w % x.factorX == 0 && x.h % x.factorY == 0

/-- R103: the output of XP_C2S. -/
def Xp.c2sOut (x : Xp) : XpOut := ⟨x.c / (x.factorX * x.factorY), x.h * x.factorY, x.w * x.factorX⟩

/-- R103: C of XP_C2S is divisible by the product of its factors. "As XP_S2C" is read as of the formats and the values of FACTOR: that they
divide H and W is asked of the larger plane, which is the output here, where they always do (DESIGN CHOICE, assumption 72). -/
def Xp.c2sOk (x : Xp) : Bool := x.factorsOk && x.c % (x.factorX * x.factorY) == 0

/-- R103: the output of XP_UPSAMPLE. -/
def Xp.upOut (x : Xp) : XpOut := ⟨x.c, x.h * x.factorY, x.w * x.factorX⟩

/-- R103: the factors of XP_UPSAMPLE. -/
def Xp.upOk (x : Xp) : Bool := 2 ≤ x.factorX && x.factorX ≤ 4 && 2 ≤ x.factorY && x.factorY ≤ 4

/-- R103: the output of XP_COPY. -/
def Xp.copyOut (x : Xp) : XpOut := if x.transpose then ⟨x.c, x.w, x.h⟩ else ⟨x.c, x.h, x.w⟩

/-- The shared checks and the work of an XP operation: whether its sizes are accepted, its output shape, whether its format is accepted, the code of
output element (plane, row, element), and the bytes that end a row of XP_EXPAND with zeros (R102, R103, R143). -/
def State.xpWork (ok : Xp → Bool) (out : Xp → XpOut) (accepts : Xp → Bool) (at_ : Xp → (Nat → Nat → Nat → Nat) → Nat → Nat → Nat → Nat)
    (whole : Bool) (s : State) (c : Cmd) (g _ : Nat) : Work :=
  let x := c.xp
  let f := x.format
  let y := out x
  let good := x.sizesOk && ok x && f.bytes y.elems ≤ x.dstPitch
  let last := if whole then x.dstPitch else f.bytes y.elems
  let fs := failIf (!c.rsvdZero [(24, 0xFFFFFFFFFFFFFFFF), (32, 0xFFFFFFFFFFFFFFFF), (40, 0xFFFFFFFF), (44, 0xFFFFFF03),
      (48, 0xFFFFFFFFFFFF), (54, 0x03)]) .badOperand 0x04 ++
    formatFails [(x.fmt, upToD x.fmt && accepts x), (x.dstFmt, x.dstFmt == x.fmt)] ++
    failIf (!good) .badOperand 0x02 ++
    failIf (s.addr c g x.src ((x.c * x.h - 1) * x.srcPitch + codeBytes x.fmt x.w)).isNone .badOperand 0x01 ++
    failIf (s.addr c g x.dst ((y.planes * y.rows - 1) * x.dstPitch + last)).isNone .badOperand 0x01
  if !fs.isEmpty then Work.refuse fs
  else
    let src := s.place c g x.src 1
    let dst := s.place c g x.dst 1
    let rowsIn := (List.range (x.c * x.h)).map fun r => s.devGet (src + r * x.srcPitch) (f.bytes x.w)
    let code := fun p r i => f.bare (f.codeAt (rowsIn.getD (p * x.h + r) []) i)
    { fails := [], rowsRead := [], rows := [], stats := Stats.none
      reads := (List.range (x.c * x.h)).map fun r => (src + r * x.srcPitch, f.bytes x.w, 0x30)
      writes := (List.range (y.planes * y.rows)).map fun k =>
        let bs := f.pack ((List.range y.elems).map fun i => at_ x code (k / y.rows) (k % y.rows) i)
        (dst + k * x.dstPitch, bs ++ List.replicate (last - bs.length) 0) }

/-- R143, R144: element `e` of the vector of output pixel `k`. -/
def Xp.expandAt (x : Xp) (code : Nat → Nat → Nat → Nat) (_ k e : Nat) : Nat :=
  let ow := outSide x.w x.padLeft x.padRight x.dilX x.kw x.strideX
  let y := k / ow
  let xx := k % ow
  let ch := e / (x.kh * x.kw)
  let i := e / x.kw % x.kh
  let j := e % x.kw
  match padIndex x.padMode ((y * x.strideY + i * x.dilY : Nat) - (x.padTop : Int)) x.h,
      padIndex x.padMode ((xx * x.strideX + j * x.dilX : Nat) - (x.padLeft : Int)) x.w with
  | some r, some q => code ch r q
  | _, _ => if x.padMode == 1 then x.format.bare (x.padConst % 2 ^ x.format.bits) else 0

/-- R147: element of XP_S2C. -/
def Xp.s2cAt (x : Xp) (code : Nat → Nat → Nat → Nat) (p r i : Nat) : Nat :=
  let n := x.factorX * x.factorY
  code (p / n) (r * x.factorY + p % n / x.factorX) (i * x.factorX + p % n % x.factorX)

/-- R147: element of XP_C2S, the inverse mapping. -/
def Xp.c2sAt (x : Xp) (code : Nat → Nat → Nat → Nat) (p r i : Nat) : Nat :=
  let n := x.factorX * x.factorY
  code (p * n + r % x.factorY * x.factorX + i % x.factorX) (r / x.factorY) (i / x.factorX)

/-- R153: the left tap of phase `k` of factor `f`, as an offset, and the weight of the right tap. -/
def upTap (f k : Nat) : Int × Val :=
  match f, k with
  | 2, 0 => (-1, .fin false 3 4 0)
  | 2, _ => (0, .fin false 1 4 0)
  | 3, 0 => (-1, .fin false 2 3 0)
  | 3, 1 => (0, .zero)
  | 3, _ => (0, .fin false 1 3 0)
  | _, 0 => (-1, .fin false 5 8 0)
  | _, 1 => (-1, .fin false 7 8 0)
  | _, 2 => (0, .fin false 1 8 0)
  | _, _ => (0, .fin false 3 8 0)

/-- R153: a × (1 − w) + b × w in F32, each multiply and the add rounded. -/
def lerp (a b w : Val) : Val := fadd (fmul a (fsub (Val.ofNat 1) w)) (fmul b w)

/-- R153: the two source indices of an output index, the edges repeated, and the F32 weight of the second. -/
def upIndex (f n o : Nat) : Nat × Nat × Val :=
  let t := upTap f (o % f)
  let clamp := fun (i : Int) => (max 0 (min i ((n : Int) - 1))).toNat
  (clamp ((o / f : Nat) + t.1), clamp ((o / f : Nat) + t.1 + 1), t.2.r32)

/-- R103: the numerically lowest reserved SQ12.4 code among four taps. -/
def reservedTap (f : Fmt) (cs : List Nat) : Option Nat :=
  let rs := cs.filter fun q => f == .sq && 0x8000 ≤ q && q ≤ 0x800F
  match rs with
  | [] => none
  | x :: xs => some (xs.foldl min x)

/-- R153: element of XP_UPSAMPLE. -/
def Xp.upAt (x : Xp) (code : Nat → Nat → Nat → Nat) (p r i : Nat) : Nat :=
  if !x.bilinear then code p (r / x.factorY) (i / x.factorX)
  else
    let f := x.format
    let rows := upIndex x.factorY x.h r
    let cols := upIndex x.factorX x.w i
    let q := fun a b => code p a b
    let v := fun a b => (f.value (q a b)).r32
    match reservedTap f [q rows.1 cols.1, q rows.1 cols.2.1, q rows.2.1 cols.1, q rows.2.1 cols.2.1] with
    | some c => c
    | none =>
      let top := lerp (v rows.1 cols.1) (v rows.1 cols.2.1) cols.2.2
      let bottom := lerp (v rows.2.1 cols.1) (v rows.2.1 cols.2.1) cols.2.2
      (f.narrow 0 (lerp top bottom rows.2.2)).code

/-- Element of XP_COPY, transposed under TRANSPOSE. -/
def Xp.copyAt (x : Xp) (code : Nat → Nat → Nat → Nat) (p r i : Nat) : Nat :=
  if x.transpose then code p i r else code p r i

/-- XP_EXPAND (R143): what it does. -/
def State.expandWork : State → Cmd → Nat → Nat → Work :=
  State.xpWork Xp.expandOk Xp.expandOut (fun _ => true) Xp.expandAt true

/-- XP_EXPAND (R143). -/
def execXpExpand (uid : Nat) (s : State) : Out := .next (s.engineOp uid 0x3001 State.expandWork)

/-- XP_S2C (R147): what it does. -/
def State.s2cWork : State → Cmd → Nat → Nat → Work := State.xpWork Xp.s2cOk Xp.s2cOut (fun _ => true) Xp.s2cAt false

/-- XP_S2C (R147). -/
def execXpS2c (uid : Nat) (s : State) : Out := .next (s.engineOp uid 0x3002 State.s2cWork)

/-- XP_C2S (R147): what it does. -/
def State.c2sWork : State → Cmd → Nat → Nat → Work := State.xpWork Xp.c2sOk Xp.c2sOut (fun _ => true) Xp.c2sAt false

/-- XP_C2S (R147). -/
def execXpC2s (uid : Nat) (s : State) : Out := .next (s.engineOp uid 0x3003 State.c2sWork)

/-- XP_UPSAMPLE (R153): what it does. -/
def State.upsampleWork : State → Cmd → Nat → Nat → Work :=
  State.xpWork Xp.upOk Xp.upOut (fun x => !x.bilinear || (2 ≤ x.fmt && x.fmt != 4 && x.fmt != 5)) Xp.upAt false

/-- XP_UPSAMPLE (R153). -/
def execXpUpsample (uid : Nat) (s : State) : Out := .next (s.engineOp uid 0x3004 State.upsampleWork)

/-- XP_COPY (R103): what it does. -/
def State.xpCopyWork : State → Cmd → Nat → Nat → Work :=
  State.xpWork (fun _ => true) Xp.copyOut (fun x => !x.transpose || 2 ≤ x.fmt) Xp.copyAt false

/-- XP_COPY (R103). -/
def execXpCopy (uid : Nat) (s : State) : Out := .next (s.engineOp uid 0x3005 State.xpCopyWork)

end Sys2Proof.Machine
end

