-- ==== Sys2Proof/Machine/Post.lean ====
section
/-!
DEFINITION. The detection post unit (R157 to R166): POST_DECODE and POST_SUPPRESS.
-/

-- One declaration at a time: the threads of a parallel elaboration take memory together.
set_option Elab.async false

namespace Sys2Proof.Machine

/-! ### What the unit does with its head -/

/-- What a POST operation checks, reads and writes; its header is written last (R162). -/
structure PostWork where
  fails : List (Status × Nat)
  reads : List (Nat × Nat × Nat)
  body : List (Nat × List Byte)
  header : List (Nat × List Byte)
  cands : Nat
  boxes : Nat
  trunc : Bool
  deriving DecidableEq, Repr

def PostWork.refuse (fs : List (Status × Nat)) : PostWork := ⟨fs, [], [], [], 0, 0, false⟩

/-- The die of a POST command. -/
def Cmd.postDie (c : Cmd) : Nat := c.compiledEngine / 2

/-- R157: the head of a POST queue, when it can start. -/
def State.postHead (s : State) (uid op : Nat) : Option Cmd :=
  match s.cmd? uid with
  | none => none
  | some c =>
    if c.opcode == op && c.place == .queued (.post c.postDie) && (s.fifo (.post c.postDie)).head? == some c &&
        !s.fenced c && s.stepReady c && s.waitMet c && (s.landed c c.compiledEngine || !s.inFlight c c.compiledEngine) &&
        !(s.page .post c.postDie).faulted && s.mayIssue (postAccount c.postDie) then some c else none

/-- R166: the POST of a die runs a command, in the sense of `State.unitRuns`. -/
def State.postRuns (s : State) (d : Nat) : Bool :=
  match (s.fifo (.post d)).head? with
  | some c => (s.postHead c.uid c.opcode).isSome && s.landed c c.compiledEngine
  | none => false

/-- R164: a POST operation that stops early may have written part of its list, and no header. -/
def State.postPart (s : State) (w : PostWork) : State :=
  let f := s.free
  f.2.putAll (w.body.take (f.1 % (w.body.length + 1)))

/-- R163, R292: the state of the route of what a POST command writes to the hub; POST_DECODE writes on its own die. -/
def State.postRoute (s : State) (c : Cmd) : Nat := if c.opcode == 0x2802 then s.hubRoute c.postDie else 2

/-- A POST operation whose waits are satisfied is checked, runs, and its command ends. A write to the hub is held while its modules
are trained, and fails without a route. -/
def State.postRun (s : State) (c : Cmd) (w : PostWork) : State :=
  let d := c.postDie
  match lowestCause w.fails with
  | some f => s.endCmd c.uid f.1 f.2
  | none =>
    if s.postRoute c == 1 then s
    else if s.postRoute c == 0 then ((s.starts c).postPart w).endCmd c.uid .link 0x21
    else
    let s1 := ((s.starts c).spendIssue (postAccount d) d).correctReads .post d (w.reads.map fun r => (r.1, r.2.1))
    match s.badRead w.reads with
    | some b => ((s1.postPart w).faultCmd c.uid .ecc b.1 b.2).unitBad c c.compiledEngine b.1 b.2
    | none =>
      let s2 := ((s1.putAll (w.body ++ w.header)).bump .post d 0x048 w.cands).bump .post d 0x04C w.boxes
      let s2 := (s2.pulse .post d 0x10 w.cands (some c.job)).pulse .post d 0x11 w.boxes (some c.job)
      let s3 := if w.trunc then (s2.bump .post d 0x050 1).irq .post d 0b1000 else s2
      s3.endCmd c.uid .ok 0

/-- A POST command at the head of its queue: it ends on a poisoned wait, issues its fetch, or runs. -/
def State.postOp (s : State) (uid op : Nat) (work : State → Cmd → PostWork) : State :=
  match s.postHead uid op with
  | none => s
  | some c =>
    let g := c.compiledEngine
    let w := work s c
    let w1 := { w with fails := s.commonFails c g ++ w.fails }
    (s.beforeRun s c g).getD (s.postRun c w1)

/-! ### POST_DECODE (R158, R159) -/

/-- A box (R160). -/
structure Box where
  x0 : Val
  y0 : Val
  x1 : Val
  y1 : Val
  score : Val
  cls : Nat
  index : Nat
  deriving DecidableEq, Repr

/-- R160: the 32 bytes of a box. -/
def Box.bytes (b : Box) : List Byte :=
  [b.x0, b.y0, b.x1, b.y1, b.score].flatMap (fun v => leBytes 4 v.code32) ++ leBytes 2 b.cls ++ leBytes 2 b.index ++
    leBytes 8 0

/-- R159 step 1: the best class other than BG; a NaN among the scores prevails, as MAX does (R100). -/
def bestClass (bg : Nat) (scores : List Val) : Option (Nat × Val) :=
  ((List.range scores.length).zip scores).foldl (fun (acc : Option (Nat × Val)) p =>
    if p.1 == bg then acc
    else match acc with
      | none => some p
      | some b => if b.2.isNan then some b else if p.2.isNan || b.2.lt p.2 then some p else some b) none

/-- R159 step 6: a coordinate clamped to an image side. -/
def clampTo (side : Nat) (v : Val) : Val := fmin (fmax v .zero) (Val.ofNat side)

/-- R159: one candidate, from its record, its scores and its anchor; none when it is dropped. -/
def decodeBox (c : Cmd) (i : Nat) (reg scores anchor : List Val) : Option Box :=
  let at_ := fun (l : List Val) k => l.getD k .zero
  match bestClass (c.num 60 2) scores with
  | none => none
  | some (k, sc) =>
    if sc.isNan || sc.lt (val32 (c.num 44 4)) then none
    else
      let vxy := val32 (c.num 48 4)
      let vwh := val32 (c.num 52 4)
      let cx := fadd (at_ anchor 0) (fmul (fmul (at_ reg 0) vxy) (at_ anchor 2))
      let cy := fadd (at_ anchor 1) (fmul (fmul (at_ reg 1) vxy) (at_ anchor 3))
      let w := fmul (at_ anchor 2) (fexp (fmul (at_ reg 2) vwh))
      let h := fmul (at_ anchor 3) (fexp (fmul (at_ reg 3) vwh))
      let half : Val := .fin false 1 2 0
      let x0 := clampTo (c.num 56 2) (fsub cx (fmul half w))
      let x1 := clampTo (c.num 56 2) (fadd cx (fmul half w))
      let y0 := clampTo (c.num 58 2) (fsub cy (fmul half h))
      let y1 := clampTo (c.num 58 2) (fadd cy (fmul half h))
      if x0.isNan || x1.isNan || y0.isNan || y1.isNan then none else some ⟨x0, y0, x1, y1, sc, k, i⟩

/-- POST_DECODE (R158, R159, R163): what it does. -/
def State.decodeWork (s : State) (c : Cmd) : PostWork :=
  let g := c.compiledEngine
  let n := c.num 40 2
  let k := c.num 42 2
  let shape := 1 ≤ n && n ≤ 4096 && 1 ≤ k && k ≤ 256
  let ok := fun f => f == 0x8 || f == 0xA
  let rf := c.fmtAt 24
  let sf := c.fmtAt 28
  let inWindow := fun a m => failIf (s.addr c g a m).isNone .badOperand 0x01
  let fs := failIf (!c.rsvdZero [(24, 0xFFFFFFFFFFFFFFFF), (32, 0x0FFFFFFF0FFFFFFF), (40, 2 ^ 176 - 1)]) .badOperand 0x04 ++
    formatFails [(c.fmtField 24, ok (c.fmtField 24)), (c.fmtField 28, ok (c.fmtField 28))] ++
    failIf (!shape) .badOperand 0x02 ++
    inWindow (c.addrField 24) (codeBytes (c.fmtField 24) (4 * n)) ++ inWindow (c.addrField 28) (codeBytes (c.fmtField 28) (n * k)) ++
    inWindow (c.addrField 32) (16 * n) ++ inWindow (c.addrField 36) (64 + 32 * n)
  if !fs.isEmpty then PostWork.refuse fs
  else
    let reg := s.place c g (c.addrField 24) 1
    let sco := s.place c g (c.addrField 28) 1
    let anc := s.place c g (c.addrField 32) 1
    let out := s.place c g (c.addrField 36) 1
    let boxes := (List.range n).filterMap fun i =>
      decodeBox c i (rf.values (s.devGet (reg + i * rf.bytes 4) (rf.bytes 4)) 4)
        (sf.values (s.devGet (sco + i * sf.bytes k) (sf.bytes k)) k)
        (Fmt.f32.values (s.devGet (anc + 16 * i) 16) 4)
    { fails := [], trunc := false, cands := n, boxes := 0
      reads := [(reg, rf.bytes (4 * n), 0x30), (sco, sf.bytes (n * k), 0x30), (anc, 16 * n, 0x30)]
      body := ((List.range boxes.length).zip boxes).map fun p => (out + 64 + 32 * p.1, p.2.bytes)
      header := [(out, leBytes 2 5 ++ leBytes 2 boxes.length ++ leBytes 60 0)] }

/-- POST_DECODE (R158). -/
def execPostDecode (uid : Nat) (s : State) : Out := .next (s.postOp uid 0x2801 State.decodeWork)

/-! ### POST_SUPPRESS (R161, R162) -/

/-- The box at a device address. -/
def State.boxAt (s : State) (a : Nat) : Box :=
  let v := fun k => val32 (s.devNat (a + 4 * k) 4)
  ⟨v 0, v 1, v 2, v 3, v 4, s.devNat (a + 20) 2, s.devNat (a + 22) 2⟩

/-- R162: box `a` is visited before box `b`. -/
def Box.before (a b : Box) : Bool := b.score.lt a.score || (a.score.eqv b.score && a.index < b.index)

/-- A box put into a list in visiting order. -/
def insertBox (x : Box) : List Box → List Box
  | [] => [x]
  | y :: ys => if x.before y then x :: y :: ys else y :: insertBox x ys

/-- R162: the area of a box. -/
def Box.area (b : Box) : Val := fmul (fsub b.x1 b.x0) (fsub b.y1 b.y0)

/-- R162: kept box `a` suppresses candidate `b`. -/
def Box.suppresses (iou : Val) (perClass : Bool) (a b : Box) : Bool :=
  let iw := fsub (fmin a.x1 b.x1) (fmax a.x0 b.x0)
  let ih := fsub (fmin a.y1 b.y1) (fmax a.y0 b.y0)
  let inter := fmul (fmax iw .zero) (fmax ih .zero)
  let union := fsub (fadd a.area b.area) inter
  (!perClass || a.cls == b.cls) && (fmul iou union).lt inter

/-- R162: the boxes kept, and whether the list was truncated. -/
def suppress (iou : Val) (perClass : Bool) (maxOut : Nat) : List Box → List Box → List Box × Bool
  | kept, [] => (kept, false)
  | kept, b :: bs =>
    if kept.any fun a => a.suppresses iou perClass b then suppress iou perClass maxOut kept bs
    else if maxOut ≤ kept.length then (kept, true)
    else suppress iou perClass maxOut (kept ++ [b]) bs

/-- R161: a range of DRAM or hub SRAM that is 64 B aligned. -/
def State.hubRange (s : State) (a n : Nat) : Bool :=
  a % 64 == 0 && a < 2 ^ 48 && (s.target a n == some .dram || s.target a n == some .hubSram)

/-- POST_SUPPRESS (R161, R162, R163): what it does. -/
def State.suppressWork (s : State) (c : Cmd) : PostWork :=
  let g := c.compiledEngine
  let list := s.addr c g (c.addrField 24) 64
  let n := match list with | some a => s.devNat (a + 2) 2 | none => 0
  let layout := match list with | some a => s.devNat a 2 | none => 5
  let iou := val32 (c.num 36 4)
  let maxOut := c.num 40 2
  let out := c.num 28 8
  let fs := failIf (!c.rsvdZero [(24, 0x0FFFFFFF), (28, 2 ^ 96 - 1), (40, 0xFFFF), (42, 0x01), (44, 0xFFFFFFFF)])
      .badOperand 0x04 ++
    failIf (maxOut == 0 || 256 < maxOut || iou.isNan || !(Val.zero.lt iou) || (Val.ofNat 1).lt iou || layout != 5)
      .badOperand 0x02 ++
    failIf (s.addr c g (c.addrField 24) (64 + 32 * n)).isNone .badOperand 0x01 ++
    failIf (!s.hubRange out (64 + 32 * maxOut)) .badOperand 0x01
  match fs, list with
  | [], some a =>
    let sorted := ((List.range n).map fun i => s.boxAt (a + 64 + 32 * i)).foldl (fun acc b => insertBox b acc) []
    let r := suppress iou ((c.num 42 1).testBit 0) maxOut [] sorted
    { fails := [], cands := 0, boxes := r.1.length, trunc := r.2
      reads := [(a, 64 + 32 * n, 0x30)]
      body := ((List.range r.1.length).zip r.1).map fun p => (out + 64 + 32 * p.1, p.2.bytes)
      header := [(out, leBytes 2 6 ++ leBytes 2 r.1.length ++ leBytes 4 (c.num 44 4) ++ leBytes 2 n ++
        leBytes 1 (b2n r.2) ++ leBytes 53 0)] }
  | _, _ => PostWork.refuse fs

/-- POST_SUPPRESS (R161). -/
def execPostSuppress (uid : Nat) (s : State) : Out := .next (s.postOp uid 0x2802 State.suppressWork)

end Sys2Proof.Machine
end

