-- ==== Sys2Proof/Machine/RasterDraw.lean ====
section
/-!
DEFINITION. What the raster engine computes of a pixel (R216 to R219, R225, R226, R236): coverage under the top-left
rule, linear interpolation, texels, depth and blending.
-/

-- One declaration at a time: the threads of a parallel elaboration take memory together.
set_option Elab.async false

namespace Sys2Proof.Machine

/-! ### Coverage (R218) -/

/-- A finite F32 value as a multiple of 2^-149. -/
def fixed : Val → Option Int
  | .fin s n _ e =>
    let m : Int := ((n <<< (e + 149).toNat : Nat) : Int)
    some (if s then -m else m)
  | _ => none

/-- The centre of pixel column or row `x`, as a multiple of 2^-149. -/
def centre (x : Nat) : Int := (2 * x + 1 : Int) * 2 ^ 148

/-- A triangle in fixed point. -/
structure Tri where
  x0 : Int
  y0 : Int
  x1 : Int
  y1 : Int
  x2 : Int
  y2 : Int
  deriving DecidableEq, Repr

/-- The triangle of three vertices given as (x, y); none when a coordinate is not finite. -/
def Tri.of (a b c : Val × Val) : Option Tri :=
  match fixed a.1, fixed a.2, fixed b.1, fixed b.2, fixed c.1, fixed c.2 with
  | some ax, some ay, some bx, some qy, some cx, some cy => some ⟨ax, ay, bx, qy, cx, cy⟩
  | _, _, _, _, _, _ => none

/-- Twice the signed area. -/
def Tri.area (t : Tri) : Int := (t.x1 - t.x0) * (t.y2 - t.y0) - (t.y1 - t.y0) * (t.x2 - t.x0)

/-- R218: the edge function of edge p to q at a point, turned so that it is positive inside; none when the point is
outside, or on an edge that is neither a top nor a left one. -/
def edgeWeight (neg : Bool) (p q : Int × Int) (x y : Int) : Option Int :=
  let sg : Int := if neg then -1 else 1
  let dx := sg * (q.1 - p.1)
  let dy := sg * (q.2 - p.2)
  let e := dx * (y - p.2) - dy * (x - p.1)
  if 0 < e || (e == 0 && (dy < 0 || (dy == 0 && 0 < dx))) then some e else none

/-- R218: the weights of the three vertices at the centre of pixel (x, y), when the triangle covers it. -/
def Tri.weights (t : Tri) (x y : Nat) : Option (Int × Int × Int) :=
  let neg := t.area < 0
  let a := (t.x0, t.y0)
  let b := (t.x1, t.y1)
  let c := (t.x2, t.y2)
  if t.area == 0 then none
  else match edgeWeight neg b c (centre x) (centre y), edgeWeight neg c a (centre x) (centre y),
      edgeWeight neg a b (centre x) (centre y) with
    | some u, some v, some w => some (u, v, w)
    | _, _, _ => none

/-- The pixel columns or rows of a side of `n` whose centres lie within `[lo, hi]`: the first and the last. -/
def centresIn (lo hi : Int) (n : Nat) : Option (Nat × Nat) :=
  let first := max 0 (-((2 ^ 148 - lo) / 2 ^ 149))
  let last := min ((n : Int) - 1) ((hi - 2 ^ 148) / 2 ^ 149)
  if first ≤ last then some (first.toNat, last.toNat) else none

/-- R227: the bins of 64 by 64 pixels, as (column, row), that a triangle touches in a target of `w` by `h`: those that
hold a pixel centre of its bounding box (assumption 45). -/
def Tri.bins (t : Tri) (w h : Nat) : List (Nat × Nat) :=
  match centresIn (min t.x0 (min t.x1 t.x2)) (max t.x0 (max t.x1 t.x2)) w,
      centresIn (min t.y0 (min t.y1 t.y2)) (max t.y0 (max t.y1 t.y2)) h with
  | some p, some q =>
    (List.range (q.2 / 64 + 1 - q.1 / 64)).flatMap fun j =>
      (List.range (p.2 / 64 + 1 - p.1 / 64)).map fun i => (p.1 / 64 + i, q.1 / 64 + j)
  | _, _ => []

/-! ### Interpolation (R226) -/

/-- The linear interpolation of three finite values, rounded once to F32; with an infinite value, a free value. -/
def blend3 (w : Int × Int × Int) (a b c : Val) : Val :=
  let fin := fun (v : Val) => (fixed v).isSome
  if a == b && b == c then a
  else if fin a && fin b && fin c then
    let sum := (((Val.ofInt w.1).mul a).add ((Val.ofInt w.2.1).mul b)).add ((Val.ofInt w.2.2).mul c)
    (sum.div (Val.ofInt (w.1 + w.2.1 + w.2.2))).r32
  else val32 (Config.rasterFree [0, a.code32, b.code32, c.code32, w.1.natAbs, w.2.1.natAbs, w.2.2.natAbs])

/-! ### Textures (R225) -/

/-- A texture table entry (R225). -/
structure Tex where
  base : Nat
  w : Nat
  h : Nat
  pitch : Nat
  fmt : Nat
  filter : Nat
  deriving DecidableEq, Repr

/-- Every field of the entry is in its range. -/
def Tex.good (t : Tex) : Bool :=
  1 ≤ t.w && t.w ≤ 8192 && 1 ≤ t.h && t.h ≤ 8192 && t.fmt ≤ 1 && t.filter ≤ 1

/-- The bytes of memory a texture takes. -/
def Tex.extent (t : Tex) : Nat := (t.h - 1) * t.pitch + t.w * (if t.fmt == 0 then 4 else 1)

/-- The code of channel `k` of a texel; `rd` reads a byte of device memory. -/
def Tex.code (t : Tex) (rd : Nat → Nat) (k x y : Nat) : Nat :=
  rd (t.base + y * t.pitch + if t.fmt == 0 then 4 * x + k else x)

/-- A coordinate of a texel held within `0` to `n - 1`. -/
def texel (x : Int) (n : Nat) : Nat := min x.toNat (n - 1)

/-- The exact bilinear sum of codes at a position given in units of `1 / d`, with texel centres at integer and a half
and edge texels repeated (R225, R236); it is to be divided by `4 d^2`. -/
def bilinear (code : Nat → Nat → Nat) (w h : Nat) (px py d : Int) : Nat :=
  let ux := 2 * px - d
  let uy := 2 * py - d
  let x := ux / (2 * d)
  let y := uy / (2 * d)
  let fx := (ux % (2 * d)).toNat
  let fy := (uy % (2 * d)).toNat
  let n := (2 * d).toNat
  let c := fun (i j : Int) => code (texel (x + i) w) (texel (y + j) h)
  c 0 0 * (n - fx) * (n - fy) + c 1 0 * fx * (n - fy) + c 0 1 * (n - fx) * fy + c 1 1 * fx * fy

/-- R225: a coordinate clamped to 0 to 1, as a multiple of 2^-149. -/
def unitCoord (v : Val) : Int :=
  match v with
  | .inf s => if s then 0 else 2 ^ 149
  | _ => max 0 (min (2 ^ 149) ((fixed v).getD 0))

/-- R225, R226: channel `k` of the texel at (u, v), as a code divided by 255 and rounded to F32. -/
def Tex.sample (t : Tex) (rd : Nat → Nat) (u v : Val) (k : Nat) : Val :=
  if !t.good || u.isNan || v.isNan then val32 (Config.rasterFree [1, t.base, u.code32, v.code32, k])
  else
    let px := unitCoord u * t.w
    let py := unitCoord v * t.h
    let one : Int := 2 ^ 149
    if t.filter == 0 then
      fdiv (Val.ofNat (t.code rd k (texel (px / one) t.w) (texel (py / one) t.h))) (Val.ofNat 255)
    else (Val.fin false (bilinear (t.code rd k) t.w t.h px py one) 255 (-300)).r32

/-! ### Pixels (R224, R226) -/

/-- R224: the largest code of a channel of a target format. -/
def pxMax (fmt : Nat) : Nat := if fmt == 0 then 1023 else 255

/-- R224: the red, green and blue codes of a pixel. -/
def pxCodes (fmt px : Nat) : List Nat :=
  if fmt == 0 then [bits px 29 20, bits px 19 10, bits px 9 0] else [bits px 7 0, bits px 15 8, bits px 23 16]

/-- R224: a pixel from its channel codes; FMT 1 stores alpha as its fourth channel. -/
def pxPack (fmt : Nat) (c : List Nat) (a : Nat) : Nat :=
  let k := fun i => c.getD i 0
  if fmt == 0 then k 0 * 2 ^ 20 + k 1 * 2 ^ 10 + k 2 else k 0 + k 1 * 2 ^ 8 + k 2 * 2 ^ 16 + a * 2 ^ 24

/-- A value narrowed to a channel code under R118. -/
def pxNarrow (fmt : Nat) (v : Val) : Nat :=
  (narrowInt 0 (pxMax fmt) 0 (v.mul (Val.ofNat (pxMax fmt)))).1.toNat

/-- A primitive record ready to be drawn (R225). -/
structure Prim where
  tri : Option Tri
  z : List Val
  u : List Val
  v : List Val
  colour : Nat
  tex : Option Tex
  blend : Nat
  test : Bool
  write : Bool
  coverage : Bool
  deriving DecidableEq, Repr

/-- The pixel of a bin: its colour and its depth. -/
structure Frag where
  colour : Nat
  z : Val
  deriving DecidableEq, Repr

/-- R226: the source colour and alpha at texture coordinates (u, v). -/
def Prim.source (p : Prim) (rd : Nat → Nat) (u v : Val) : List Val × Val :=
  let code := fun k => fdiv (Val.ofNat (bits p.colour (8 * k + 7) (8 * k))) (Val.ofNat 255)
  match p.tex with
  | none => ([code 0, code 1, code 2], code 3)
  | some t =>
    let s := fun k => fmul (code k) (t.sample rd u v k)
    if p.coverage && t.fmt == 1 then ([code 0, code 1, code 2], s 3) else ([s 0, s 1, s 2], s 3)

/-- R226: one channel after blending. -/
def blendChannel (mode : Nat) (c a t : Val) : Val :=
  match mode with
  | 0 => c
  | 1 => fadd (fmul c a) (fmul t (fsub (Val.ofNat 1) a))
  | _ => fmin (fadd (fmul c a) t) (Val.ofNat 1)

/-- R226: a primitive drawn at a pixel. -/
def Prim.draw (p : Prim) (rd : Nat → Nat) (fmt x y : Nat) (f : Frag) : Frag :=
  match p.tri.bind fun t => t.weights x y with
  | none => f
  | some w =>
    let at_ := fun (l : List Val) => blend3 w (l.getD 0 .zero) (l.getD 1 .zero) (l.getD 2 .zero)
    let z := at_ p.z
    if p.test && !z.lt f.z then f
    else
      let s := p.source rd (at_ p.u) (at_ p.v)
      let t := (pxCodes fmt f.colour).map fun c => fdiv (Val.ofNat c) (Val.ofNat (pxMax fmt))
      let c := (s.1.zip t).map fun q => pxNarrow fmt (blendChannel p.blend q.1 s.2 q.2)
      ⟨pxPack fmt c (pxNarrow fmt s.2), if p.write then z else f.z⟩

/-- R218: the primitives of a bin drawn at a pixel, in submission order. -/
def drawAll (ps : List Prim) (rd : Nat → Nat) (fmt x y : Nat) (f : Frag) : Frag :=
  ps.foldl (fun g p => p.draw rd fmt x y g) f

/-! ### Records (R225) -/

/-- The F32 coordinates X, Y and Z of vertex `k` of a record. -/
def vertexOf (p : Packet) (k : Nat) : Val × Val × Val :=
  (val32 (pktNum p (12 * k) 4), val32 (pktNum p (12 * k + 4) 4), val32 (pktNum p (12 * k + 8) 4))

/-- The texture coordinates of vertex `k`. -/
def uvOf (p : Packet) (k : Nat) : Val × Val := (f16.decode (pktNum p (36 + 4 * k) 2), f16.decode (pktNum p (38 + 4 * k) 2))

/-- The triangle of a record. -/
def triOf (p : Packet) : Option Tri :=
  let v := fun k => ((vertexOf p k).1, (vertexOf p k).2.1)
  Tri.of (v 0) (v 1) (v 2)

/-- R225: a record that is skipped. -/
def badRecord (texCount : Nat) (p : Packet) : Bool :=
  ([0, 1, 2].any fun k =>
    let v := vertexOf p k
    v.1.isNan || v.2.1.isNan || v.2.2.isNan || (uvOf p k).1.isNan || (uvOf p k).2.isNan) ||
    (pktNum p 52 2 != 0xFFFF && texCount ≤ pktNum p 52 2) || 2 < pktNum p 54 1

/-- A record as it is drawn; `tex` gives a texture table entry. -/
def primOf (tex : Nat → Tex) (p : Packet) : Prim :=
  { tri := triOf p
    z := [0, 1, 2].map fun k => (vertexOf p k).2.2
    u := [0, 1, 2].map fun k => (uvOf p k).1
    v := [0, 1, 2].map fun k => (uvOf p k).2
    colour := pktNum p 48 4
    tex := if pktNum p 52 2 == 0xFFFF then none else some (tex (pktNum p 52 2))
    blend := pktNum p 54 1
    test := (pktNum p 55 1).testBit 0, write := (pktNum p 55 1).testBit 1, coverage := (pktNum p 55 1).testBit 2 }

end Sys2Proof.Machine
end

