-- ==== Sys2Proof/Machine/Raster.lean ====
section
/-!
DEFINITION. The raster engine's geometry stage, passes and bin memory (R216 to R234, R240 to R246).
-/

-- One declaration at a time: the threads of a parallel elaboration take memory together.
set_option Elab.async false

namespace Sys2Proof.Machine

/-! ### Passes and their bins (R223, R224, R232) -/

def State.putPass (s : State) (p : RPass) : State :=
  { s with raster := { s.raster with passes := s.raster.passes.map fun q => if q.uid == p.uid then p else q } }

/-- R241, R223: a pass is over; its chunks are freed. -/
def State.dropPass (s : State) (uid : Nat) : State :=
  { s with raster := { s.raster with passes := s.raster.passes.filter fun q => q.uid != uid } }

/-- R223: the pass that the commands of a job in an aperture are in. -/
def State.openPass (s : State) (job apt : Nat) : Option RPass :=
  s.rpasses.find? fun p => p.job == job && p.apt == apt && p.closer.isNone

/-- R224: bins in a row and bins of a pass. -/
def RPass.columns (p : RPass) : Nat := ceilDiv p.w 64
def RPass.binCount (p : RPass) : Nat := p.columns * ceilDiv p.h 64

/-- The references of a bin, newest first. -/
def BinLists.refs (b : BinLists) (k : Nat) : List BinRef := SMap.get b.lists k []
def RPass.refs (p : RPass) (k : Nat) : List BinRef := p.bins.refs k

/-- Nothing in bin memory. -/
def BinLists.fresh : BinLists := ⟨[], 0, 0, none⟩

/-- A bin's chunks are freed. -/
def BinLists.erase (b : BinLists) (k : Nat) : BinLists := { b with lists := SMap.erase b.lists k }

/-- The canvas tile that a bin lies in (R234). -/
def RPass.tileOf (p : RPass) (k : Nat) : Nat := k / max 1 p.columns / 4 * ceilDiv p.w 256 + k % max 1 p.columns / 4

/-- R217: the core that owns a bin. -/
def RPass.coreOf (p : RPass) (k : Nat) : Nat := k % max 1 p.columns % 4 + 4 * (k / max 1 p.columns % 2)

/-- The header of the pass's frame is in its buffer: its tile states count (R234, R254). -/
def State.passBound (s : State) (p : RPass) : Bool :=
  match p.frame with
  | some f => s.boundHeader f
  | none => false

/-- The tile state of a bin of a canvas pass in a bound step. -/
def State.binState (s : State) (p : RPass) (k : Nat) : Nat :=
  match p.frame with
  | some f => if s.boundHeader f then entryState (s.entry f (p.tileOf k)) else 0
  | none => 0

/-- R234: the items of a tile that is CANCELLED, FAILED, SHOWN or STANDIN, or whose row deadline has passed, are
discarded. -/
def State.deadBin (s : State) (p : RPass) (k : Nat) : Bool :=
  p.canvas && p.frame.isSome && (7 ≤ s.binState p k ||
    (match p.step.bind s.step? with
     | some x => x.lateTile (p.tileOf k)
     | none => false))

/-- The bins of a pass that hold references which count. -/
def State.heldBins (s : State) (p : RPass) : List (Nat × List BinRef) :=
  p.bins.lists.filter fun e => !e.2.isEmpty && !s.deadBin p e.1

/-! ### Bin memory (R227) -/

/-- R245: SIZE_MIB, 8 to 32. -/
def State.binMib (s : State) : Nat := max 8 (min 32 (bits (s.reg .raster 0 0x048) 13 8))
/-- R229: grown pages add 16 chunks each. -/
def State.chunks (s : State) : Nat := s.binMib * 256 + 16 * s.raster.pages.length
/-- R227: chunks that serve RS_WARP only, at most a quarter of all. -/
def State.warpReserve (s : State) : Nat := min (bits (s.reg .raster 0 0x048) 27 16) (s.chunks / 4)
/-- R245: MODE; GROW when set. -/
def State.growMode (s : State) : Bool := (s.reg .raster 0 0x048).testBit 0

/-- The chunks that lists of references lie in and refer to, with repeats. -/
def chunksOf (ls : List (Nat × List BinRef)) : List Nat := ls.flatMap fun e => e.2.flatMap fun r => [r.recordAt, r.listAt]

/-- The chunks of a pass or an RS_WARP, with repeats. -/
def BinLists.chunks (b : BinLists) : List Nat := b.ahead.toList ++ chunksOf b.lists

/-- What a pass holds in bin memory: the references that count. -/
def State.heldLists (s : State) (p : RPass) : BinLists := { p.bins with lists := s.heldBins p }

/-- The chunks that are not free, with repeats. -/
def State.takenChunks (s : State) : List Nat :=
  (s.rpasses.flatMap fun p => (s.heldLists p).chunks) ++ s.rtiles.flatMap fun w => w.bins.chunks

/-- Chunks that an ordinary or canvas pass can take: all but the first WARP_RESERVE. -/
def State.freeChunks (s : State) : Nat :=
  s.chunks - s.warpReserve - (s.takenChunks.dedup.filter fun k => s.warpReserve ≤ k).length

/-- The lowest number from `k` on, of `n`, that is not in a list. The spec does not say which free chunk is taken (DESIGN CHOICE,
assumption 56). -/
def firstFree (used : List Nat) : Nat → Nat → Option Nat
  | 0, _ => none
  | n + 1, k => if used.contains k then firstFree used n (k + 1) else some k

/-- R227: the chunk that the record of a reference lies in: the one being filled, the one taken ahead, or a free one. -/
def BinLists.recordChunk (b : BinLists) (used : List Nat) (low top : Nat) (fresh : Bool) : Option Nat × Bool :=
  if (b.lists.any fun e => e.2.any fun r => r.recordAt == b.chunk) && (!fresh || b.fill < 64) then (some b.chunk, true)
  else (b.ahead <|> firstFree used (top - low) low, false)

/-- R227: a record's reference is put into bin `k`, in chunks from `low` below `top`; `fresh` when it is the record's first. The flag tells
that it is: otherwise a chunk is wanting, though the record may have taken its own (R229: binning goes on as soon as one is free). -/
def BinLists.add (b : BinLists) (used : List Nat) (low top : Nat) (x : Packet) (k : Nat) (fresh : Bool) : BinLists × Bool :=
  let old := b.refs k
  match b.recordChunk used low top fresh with
  | (none, _) => (b, false)
  | (some c, same) =>
    let room := old.length % 1024 != 0
    match (if room then (old.head?).map (·.listAt) else firstFree (c :: used) (top - low) low) with
    | none => (if same then b else { b with ahead := some c }, false)
    | some l => (⟨SMap.set b.lists k (⟨x, c, l⟩ :: old), c, if same then b.fill + b2n fresh else 1, if same then b.ahead else none⟩, true)

/-- A chunk that is written anew has no error left (R241). -/
def State.freshChunks (s : State) (used : List Nat) (b : BinLists) : State :=
  { s with raster := { s.raster with badChunks := s.raster.badChunks.filter fun k => used.contains k || !b.chunks.contains k } }

/-- R241: a chunk with an uncorrectable error that references lie in or refer to. -/
def State.badChunk (s : State) (refs : List BinRef) : Option Nat :=
  s.raster.badChunks.find? fun k => refs.any fun r => r.recordAt == k || r.listAt == k

/-- R241: what an item that reads references and ranges of memory meets: the CAUSE, and the address in bin memory for BIN, else that of
the word. -/
def State.itemError (s : State) (refs : List BinRef) (reads : List (Nat × Nat)) : Option (Nat × Nat) :=
  match s.badChunk refs with
  | some k => some (0x35, k * 4096)
  | none => s.badRead (reads.map fun r => (r.1, r.2, eccCause r.1))

/-- R244: an error in bin memory is recorded with its address. -/
def State.chunkError (s : State) (e : Nat × Nat) : State :=
  if e.1 == 0x35 then (s.irq .raster 0 0b100).err .raster 0 2 0 e.2 else s

/-- R444: a pass notes the first error that a bin of it meets. -/
def State.noteBin (s : State) (p : RPass) (e : Nat × Nat) : RPass :=
  { p with fail := some (p.fail.getD (e.1, ⟨s.now, e.2, 1⟩)) }

/-! ### Depth buffers (R216, R231) -/

/-- R217, R222: the core that owns item `k` of an RS_WARP or RS_MASK, whose coordinates are relative to the tile. -/
def tileCore (k : Nat) : Nat := k % 4 + 4 * (k / 4 % 2)

/-- R216: one of the four depth buffers of a core keeps no depth of a round: an item that needs one can start. -/
def State.depthRoom (s : State) (core : Nat) : Bool :=
  ((s.rtiles.flatMap (·.depth)).filter fun e => tileCore e.1 == core).length < 4

/-- R216, R231: an RS_WARP other than `uid` keeps depth in the buffers, which hold that of one RS_WARP. The others then wait (DESIGN
CHOICE, assumption 56). -/
def State.depthBusy (s : State) (uid : Nat) : Bool := s.rtiles.any fun w => w.uid != uid && !w.depth.isEmpty

/-! ### Drawing a bin (R224, R226, R228) -/

/-- R225: entry `k` of a texture table. -/
def State.texAt (s : State) (table k : Nat) : Tex :=
  let a := table + 16 * k
  ⟨s.devNat a 8, s.devNat (a + 8) 2, s.devNat (a + 10) 2, s.devNat (a + 12) 2 * 64, s.devNat (a + 14) 1, s.devNat (a + 15) 1⟩

/-- The canvas or target address of pixel (x, y) of a pass. -/
def RPass.pixelAt (p : RPass) (x y : Nat) : Nat := p.target + y * p.pitch + 4 * x

/-- R228: where the depth of bin `k` is spilled. -/
def RPass.spillAt (p : RPass) (k : Nat) : Nat := p.spill + 16384 * k

/-- What a bin is drawn from and to: its rows of pixels, its depth in row order, and the ranges it reads. -/
structure BinWork where
  rows : List (Nat × List Byte)
  depth : List Byte
  reads : List (Nat × Nat)
  deriving DecidableEq, Repr

/-- Bin `k` of a pass drawn with the references it holds. -/
def State.binWork (s : State) (p : RPass) (k : Nat) : BinWork :=
  let bx := k % max 1 p.columns * 64
  let bh := k / max 1 p.columns * 64
  let reload := p.flushed.contains k
  let loads := p.load || p.canvas || reload
  let recs := (p.refs k).reverse.map (·.record)
  let prims := recs.map (primOf (s.texAt p.tex))
  let rd := fun a => s.devNat a 1
  let px := fun x y =>
    let inside := x < p.w && y < p.h
    let f : Frag := ⟨if loads && inside then s.devNat (p.pixelAt x y) 4 else p.clear,
      if reload then val32 (s.devNat (p.spillAt k + 4 * (64 * (y - bh) + (x - bx))) 4) else val32 p.clearZ⟩
    if inside then drawAll prims rd p.fmt x y f else f
  let rows := (List.range 64).map fun j => (bh + j, (List.range 64).map fun i => px (bx + i) (bh + j))
  let wide := min 64 (p.w - bx)
  let real := (List.range (min 64 (p.h - bh))).map fun j => p.pixelAt bx (bh + j)
  { rows := (rows.filter fun r => r.1 < p.h).map fun r =>
      (p.pixelAt bx r.1, (r.2.take wide).flatMap fun f => leBytes 4 f.colour)
    depth := rows.flatMap fun r => r.2.flatMap fun f => leBytes 4 f.z.code32
    reads := (if loads then real.map fun a => (a, 4 * wide) else []) ++
      (if reload then [(p.spillAt k, 16384)] else []) ++
      (recs.filter fun r => pktNum r 52 2 != 0xFFFF).flatMap fun r =>
        [(p.tex + 16 * pktNum r 52 2, 16), ((s.texAt p.tex (pktNum r 52 2)).base, (s.texAt p.tex (pktNum r 52 2)).extent)] }

/-- The error that bin `k` of a pass meets. -/
def State.binFail (s : State) (p : RPass) (k : Nat) : Option (Nat × Nat) := s.itemError (p.refs k) (s.binWork p k).reads

/-! ### Canvas tiles (R234) -/

/-- R234: OSD of the tile of a bin is set; a frame whose table is not yet prepared keeps the mark. -/
def State.markOsd (s : State) (p : RPass) (k : Nat) : State :=
  match p.frame with
  | none => s
  | some f =>
    let t := p.tileOf k
    if s.boundHeader f then s.putEntry f t (setBits (s.entry f t) 46 46 1)
    else
      let m := SMap.get s.raster.marks f ([], false)
      { s with raster := { s.raster with marks := SMap.set s.raster.marks f (t :: m.1.filter (· != t), m.2) } }

/-- R234: OSD_BINNED of a frame's header is set. -/
def State.markBinned (s : State) (f : Nat) : State :=
  if s.boundHeader f then s.putHead f 27 1 (s.head f 27 1 ||| 8)
  else
    let m := SMap.get s.raster.marks f ([], false)
    { s with raster := { s.raster with marks := SMap.set s.raster.marks f (m.1, true) } }

/-- R234: a tile has no bin item left to run. -/
def State.tileDrawn (s : State) (f t : Nat) : Bool :=
  !(s.rpasses.any fun p => p.canvas && p.frame == some f && p.bins.lists.any fun e => !e.2.isEmpty && p.tileOf e.1 == t)

/-- R234: a tile that is FINISHED with OSD_BINNED set and its bins drawn becomes READY. -/
def State.readyTile (s : State) (f t : Nat) : State :=
  if s.boundHeader f && (s.head f 27 1).testBit 3 && entryState (s.entry f t) == 5 && s.tileDrawn f t then
    s.setTileState f t 6
  else s

def State.readyTiles (s : State) (f : Nat) : State := (List.range s.tileCount).foldl (fun t k => t.readyTile f k) s

/-! ### Ends of passes (R223, R234) -/

/-- Every bin of a closing pass is written or discarded. -/
def State.passDone (s : State) (p : RPass) : Bool :=
  if p.canvas then (s.heldBins p).isEmpty
  else (List.range p.binCount).all fun k =>
    (p.flushed.contains k || p.doneBins.contains k) && (p.refs k).isEmpty

/-- R223: the close of a pass completes once every bin is written or discarded. -/
def State.endPass (s : State) (p : RPass) : State :=
  match p.closer with
  | none => s
  | some u =>
    match p.fail with
    | some f => ((s.faultWith u .ecc f.1 f.2).dropPass p.uid).rasterRest
    | none => if s.passDone p then ((s.endCmd u .ok 0).dropPass p.uid).rasterRest else s

/-- R234: the bin items of dead tiles are discarded. -/
def State.dropDead (s : State) : State :=
  { s with raster := { s.raster with
    passes := s.rpasses.map fun p => { p with bins := { p.bins with lists := p.bins.lists.filter fun e => !s.deadBin p e.1 } } } }

/-- What follows from a change of tile states (R234): dead items are discarded, and closes complete. -/
def State.settleRaster (s : State) : State :=
  let t := s.dropDead
  t.rpasses.foldl (fun u p => u.endPass p) t

/-! ### Partial flushes (R228) -/

/-- R228: the bins of a pass that hold references and can be finished now. -/
def State.flushable (s : State) (p : RPass) : List Nat :=
  ((s.heldBins p).filter fun e => (!p.canvas || s.binState p e.1 == 5) && s.depthRoom (p.coreOf e.1)).map (·.1)

/-- R228: one bin is finished early: its colour and depth are written, and its chunks freed; its tile may be READY now (R234). -/
def State.flushBin (s : State) (uid k : Nat) : State :=
  match s.raster.passes.find? fun p => p.uid == uid with
  | none => s
  | some p =>
    let w := s.binWork p k
    let q := { p with bins := p.bins.erase k, flushed := k :: p.flushed.filter (· != k) }
    match s.binFail p k with
    | some e => (s.putPass (s.noteBin q e)).chunkError e
    | none =>
      let t := (((((s.putAll w.rows).devPut (p.spillAt k) w.depth).putPass q).correctReads .raster 0 w.reads).bump .raster 0 0x064 1).pulse
        .raster 0 0x12 1 none
      match p.frame with
      | some f => t.readyTile f (p.tileOf k)
      | none => t

/-- R228: a partial flush; without a bin to flush, nothing changes. -/
def State.partialFlush (s : State) : State :=
  let all := s.rpasses.flatMap fun p => (s.flushable p).map fun k => (p.uid, k)
  if all.isEmpty then s
  else ((all.foldl (fun t e => t.flushBin e.1 e.2) s).irq .raster 0 0b1000).settleRaster

/-! ### Binning (R225, R227 to R229) -/

/-- R227: a record's reference is put into a bin of a pass; the flag tells that a chunk for it was free. -/
def State.addRef (s : State) (p : RPass) (x : Packet) (k : Nat) (fresh : Bool) : State × Bool :=
  let used := s.takenChunks
  let b := (s.heldLists p).add used s.warpReserve s.chunks x k fresh
  let t := (s.putPass { p with bins := b.1 }).freshChunks used b.1
  (if b.2 && p.canvas && (p.refs k).isEmpty then t.markOsd p k else t, b.2)

/-- How far an RS_DRAW has come. -/
def State.drawn (s : State) (uid : Nat) : Nat × Nat := SMap.get s.raster.draws uid (0, 0)

def State.setDrawn (s : State) (uid : Nat) (d : Nat × Nat) : State :=
  { s with raster := { s.raster with draws := SMap.set s.raster.draws uid d } }

/-- R228: an overflowing command with nothing to flush is parked. -/
def State.park (s : State) (uid : Nat) : State :=
  let s := s.edge .raster 0 0x21 (!s.raster.parked.isEmpty) none
  { s with raster := { s.raster with parked := uid :: s.raster.parked.filter (· != uid) } }

/-- R229: an overflow in GROW mode. The spec does not say how many pages are wanted: a free value. -/
def State.growFault (s : State) (uid : Nat) : State :=
  let f := (s.edge .raster 0 0x20 (!s.raster.stalled.isEmpty) none).free
  { f.2 with raster := { f.2.raster with
    need := f.1 % 256, stalled := (f.2.raster.stalled.filter fun (e : Nat × Nat) => e.1 != uid) ++ [(uid, s.now)] } }.irq .raster 0 0b10000

/-- The reference of a record to one bin, in the open pass of the job in the aperture; the flag tells that it found room. -/
def State.refInto (s : State) (c : Cmd) (x : Packet) (e : Nat × Nat) : State × Bool :=
  match s.openPass c.job c.apt with
  | none => (s, false)
  | some p => s.addRef p x e.2 (e.1 == 0)

/-- One reference of a record; `acc.2` is set once the command has stalled or parked. `late` is the reference whose wait for a grown page is
over, to which R228 applies (R229). -/
def State.refOne (c : Cmd) (late : Option (Nat × Nat)) (x : Packet) (acc : State × Bool) (e : Nat × Nat) : State × Bool :=
  if acc.2 then acc
  else
    let step := fun (t : State) => t.setDrawn c.uid ((t.drawn c.uid).1, e.1 + 1)
    let r := acc.1.refInto c x e
    if r.2 then (step r.1, false)
    else if r.1.growMode && late != some ((r.1.drawn c.uid).1, e.1) then (r.1.growFault c.uid, true)
    else
      let u := r.1.partialFlush.refInto c x e
      if u.2 then (step u.1, false) else (u.1.park c.uid, true)

/-- R225, R227: one record is skipped or binned. -/
def State.recordOne (c : Cmd) (late : Option (Nat × Nat)) (acc : State × Bool) (x : Packet) : State × Bool :=
  if acc.2 then acc
  else
    let s := acc.1
    let d := s.drawn c.uid
    match s.openPass c.job c.apt with
    | none => (s, true)
    | some p =>
      if badRecord p.texCount x then ((s.bump .raster 0 0x06C 1).setDrawn c.uid (d.1 + 1, 0), false)
      else
        let bs := ((triOf x).map fun t => t.bins p.w p.h).getD []
        let es := ((List.range bs.length).zip (bs.map fun b => b.2 * p.columns + b.1)).drop d.2
        let r := es.foldl (State.refOne c late x) (s, false)
        if r.2 then r
        else ((if bs.isEmpty then r.1 else (r.1.bump .raster 0 0x060 1).pulse .raster 0 0x10 1 (some c.job)).setDrawn c.uid (d.1 + 1, 0), false)

/-- R220: the primitives of a batch. -/
def batchSize : Nat := 256

/-- The records of an RS_DRAW that its next batch takes. -/
def State.recordsLeft (s : State) (c : Cmd) : List Packet :=
  let d := s.drawn c.uid
  (List.range (min batchSize (c.num 32 4 - d.1))).map fun i => BitVec.ofNat 512 (s.devNat (c.num 24 8 + 64 * (d.1 + i)) 64)

/-- The bytes of those records. -/
def State.recordReads (s : State) (c : Cmd) : List (Nat × Nat) :=
  let d := s.drawn c.uid
  [(c.num 24 8 + 64 * d.1, 64 * min batchSize (c.num 32 4 - d.1))]

/-- R220, R227: an RS_DRAW bins its next batch, unless it stalls or parks; with its last record binned it ends. `late` is the reference whose
wait for a grown page is over (R229). -/
def State.drawLate (s : State) (c : Cmd) (late : Option (Nat × Nat)) : State :=
  let t := { s with raster := { s.raster with
    stalled := s.raster.stalled.filter fun (e : Nat × Nat) => e.1 != c.uid, parked := s.raster.parked.filter (· != c.uid) } }
  match s.itemError [] (s.recordReads c) with
  | some e => t.faultCmd c.uid .ecc e.1 e.2
  | none =>
    let r := (t.recordsLeft c).foldl (State.recordOne c late) (t.correctReads .raster 0 (s.recordReads c), false)
    if r.2 || (r.1.drawn c.uid).1 < c.num 32 4 then r.1
    else { r.1 with raster := { r.1.raster with draws := SMap.erase r.1.raster.draws c.uid } }.endCmd c.uid .ok 0

/-- R220: an RS_DRAW bins its next batch. -/
def State.drawOn (s : State) (c : Cmd) : State := s.drawLate c none

/-! ### The geometry stage (R220) -/

/-- R220: a command is held by a grow fault or parked. -/
def State.drawHeld (s : State) (uid : Nat) : Bool :=
  s.raster.parked.contains uid || s.raster.stalled.any fun e => e.1 == uid

/-! ### RS_PASS_OPEN (R223, R224, R232) -/

/-- R87, R91, R221, R241: the checks common to the raster commands. -/
def State.rasterFails (s : State) (c : Cmd) (used : List (Nat × Nat)) : List (Status × Nat) :=
  failIf (!c.commonRsvd false || !c.rsvdZero used) .badOperand 0x04 ++
    failIf (s.tileBad c) .badOperand 0x05

/-- The pass that a descriptor asks for. -/
def State.passAt (s : State) (c : Cmd) (d : Nat) : RPass :=
  let n := fun off k => s.devNat (d + off) k
  let canvas := (n 2 1).testBit 0
  let frame := if canvas then (s.stepOf c).bind (·.frame) else none
  { uid := c.uid, job := c.job, apt := c.apt, step := c.step, canvas := canvas, frame := frame
    load := (n 2 1).testBit 1
    fmt := if canvas then 0 else n 3 1
    clear := n 4 4, clearZ := n 8 4
    w := if canvas then s.canvasW else n 12 2
    h := if canvas then s.canvasH else n 14 2
    target := if canvas then s.canvasBase + frame.getD 0 % s.buffers * s.bufStride else n 16 8
    pitch := if canvas then s.canvasPitch else n 24 4
    spill := n 32 8, tex := n 40 8, texCount := n 48 1
    bins := BinLists.fresh, flushed := [], closer := none, doneBins := [], fail := none }

/-- R223, R224, R232: the failing checks of an RS_PASS_OPEN. -/
def State.passOpenFails (s : State) (c : Cmd) : List (Status × Nat) :=
  let d := c.num 24 8
  let p := s.passAt c d
  let n := fun off k => s.devNat (d + off) k
  s.rasterFails c [(24, 2 ^ 64 - 1)] ++
    (if !s.devRange d 64 then [(.badOperand, 0x01)]
     else
       failIf (n 0 2 != 0x000C || p.spill == 0 || 16 < p.texCount ||
         (!p.canvas && (p.w == 0 || 16384 < p.w || p.h == 0 || 16384 < p.h || p.pitch % 64 != 0))) .badOperand 0x02 ++
       failIf (n 2 1 / 4 != 0 || n 28 4 != 0 || n 49 15 != 0) .badOperand 0x04 ++
       failIf (!s.dramRange p.spill (16384 * p.binCount) || (p.tex != 0 && !s.devRange p.tex (16 * p.texCount)) ||
         (!p.canvas && !s.hubRange p.target ((p.h - 1) * p.pitch + 4 * p.w))) .badOperand 0x01 ++
       failIf (!p.canvas && 1 < p.fmt) .format 0x10 ++
       failIf ((s.openPass c.job c.apt).isSome || (p.canvas && !(s.canvasJobEn && s.canvasJob == c.job)))
         .badOperand 0x50)

/-- The begun RS_WARP or RS_MASK of a number. -/
def State.tileWork (s : State) (uid : Nat) : Option RTile := s.rtiles.find? fun w => w.uid == uid

/-- A command that the geometry stage has passed: an RS_PASS_CLOSE, or an RS_WARP or RS_MASK in its last round. -/
def State.pastGeometry (s : State) (uid : Nat) : Bool :=
  (s.rpasses.any fun p => p.closer == some uid) || (match s.tileWork uid with | some w => w.last | none => false)

/-- R231: an RS_WARP waits for the items of its round, or for a chunk. -/
def State.roundWaits (s : State) (uid : Nat) : Bool :=
  match s.tileWork uid with
  | some w => !w.todo.isEmpty || (firstFree s.takenChunks s.chunks 0).isNone
  | none => false

/-- R223: an RS_PASS_OPEN that could open its pass waits while 8 are open. -/
def State.waitsForPass (s : State) (c : Cmd) : Bool :=
  c.opcode == 0x6001 && 8 ≤ s.rpasses.length && !s.waitPoisoned c && (lowestCause (s.passOpenFails c)).isNone

/-- R220, R228, R229, R231: the geometry stage cannot go on with a command now, and does not stop for it. -/
def State.passedOver (s : State) (c : Cmd) : Bool :=
  s.fenced c || !s.stepReady c || !s.waitMet c || s.drawHeld c.uid || s.roundWaits c.uid || s.waitsForPass c ||
    (c.opcode == 0x6004 && s.depthBusy c.uid)

/-- The commands of passes, which keep their order in any case (R218, R223). -/
def Cmd.ofPass (c : Cmd) : Bool := 0x6001 ≤ c.opcode && c.opcode ≤ 0x6003

/-- R220: the commands that the geometry stage can take: of each job and aperture the first in SEQ order, but that one that cannot go on
holds back only a command of the same pass. -/
def State.rasterHeads (s : State) : List Cmd :=
  let q := (s.inQueue .raster).filter fun c => !s.pastGeometry c.uid
  q.filter fun c => !s.passedOver c && !(q.any fun d => d.uid < c.uid && d.job == c.job && d.apt == c.apt &&
    (!s.passedOver d || (d.ofPass && c.ofPass)))

/-- The command that the geometry stage takes next, when it is this one. One whose tile index is not one of its step's is never ranked (R38). -/
def State.rasterHead (s : State) (uid op : Nat) : Option Cmd :=
  let hs := s.rasterHeads
  match hs.find? fun c => c.uid == uid with
  | none => none
  | some c =>
    if c.opcode == op && !(s.page .raster 0).faulted &&
        (s.tileBad c || s.bestOf (hs.filter fun d => !s.tileBad d) == some c) then some c else none

/-- R220: the geometry stage has begun a command: its checks are made. -/
def State.begun (s : State) (uid : Nat) : Bool := (SMap.find? s.raster.draws uid).isSome || (s.tileWork uid).isSome

/-- A raster command is taken: it ends on a poisoned wait or a failed check, or goes on. -/
def State.rasterOp (s : State) (uid op : Nat) (fails : State → Cmd → List (Status × Nat)) (go : State → Cmd → State) : State :=
  match s.rasterHead uid op with
  | none => s
  | some c =>
    let t :=
      if s.begun uid then go s c
      else if s.waitPoisoned c then s.endCmd uid .ecc 0
      else match lowestCause (fails s c) with
        | some f => s.endCmd uid f.1 f.2
        | none => go s c
    t.rasterRest.track

/-- R223: a pass opens. -/
def State.passOpen (s : State) (c : Cmd) : State :=
  let t := s.starts c
  match s.itemError [] [(c.num 24 8, 64)] with
  | some e => t.faultCmd c.uid .ecc e.1 e.2
  | none =>
    { t with raster := { t.raster with passes := t.rpasses ++ [s.passAt c (c.num 24 8)] } }.correctReads .raster 0 [(c.num 24 8, 64)] |>.endCmd c.uid .ok 0

/-- RS_PASS_OPEN (R223). -/
def execRsPassOpen (uid : Nat) (s : State) : Out := .next (s.rasterOp uid 0x6001 State.passOpenFails State.passOpen)

/-! ### RS_DRAW (R222) -/

/-- The failing checks of an RS_DRAW. -/
def State.drawFails (s : State) (c : Cmd) : List (Status × Nat) :=
  let n := c.num 32 4
  s.rasterFails c [(24, 2 ^ 96 - 1)] ++ failIf (n == 0 || 1048576 < n) .badOperand 0x02 ++
    failIf (!s.devRange (c.num 24 8) (64 * n)) .badOperand 0x01 ++
    failIf (s.openPass c.job c.apt).isNone .badOperand 0x50

/-- An RS_DRAW is taken, for its first batch or a later one. -/
def State.drawStart (s : State) (c : Cmd) : State :=
  if s.begun c.uid then s.drawOn c else (s.starts c).drawOn c

/-- RS_DRAW (R222). -/
def execRsDraw (uid : Nat) (s : State) : Out := .next (s.rasterOp uid 0x6002 State.drawFails State.drawStart)

/-! ### Stalls and parking (R228, R229) -/

/-- R229, R433: the stalled or parked RS_DRAW `c` can go on: the engine is not in FAULTED, and a chunk is free. -/
def State.canResume (s : State) (c : Cmd) : Bool := !(s.page .raster 0).faulted && s.inRaster c.uid && 0 < s.freeChunks

/-- R229: stalled commands resume, in order, while a chunk is free. -/
def State.resumeStalled (s : State) : State :=
  s.raster.stalled.foldl (fun t e =>
    match t.cmd? e.1 with
    | some c => if t.canResume c then t.drawOn c else t
    | none => t) s

/-- GROW_TIMEOUT (R229): no page within TIMEOUT_US of the overflow; R228 applies: a partial flush, and without one the command is parked.
The geometry stage of a FAULTED engine does not (R433). -/
def execGrowTimeout (uid : Nat) (s : State) : Out :=
  match s.raster.stalled.find? fun e => e.1 == uid, s.cmd? uid with
  | some e, some c =>
    if !s.inRaster uid || (s.page .raster 0).faulted then .next s
    else
      let us := max 1 (bits (s.reg .raster 0 0x04C) 15 0)
      let t := ((s.at (e.2 + us * usTicks)).bump .raster 0 0x068 1).irq .raster 0 0b100000
      .next (t.drawLate c (some (t.drawn uid))).resumeStalled.track
  | _, _ => .next s

/-- RASTER_UNPARK (R228): a parked command resumes once chunks are free. -/
def execRasterUnpark (uid : Nat) (s : State) : Out :=
  match s.cmd? uid with
  | none => .next s
  | some c =>
    if s.raster.parked.contains uid && s.canResume c then .next (s.drawOn c).track else .next s

/-! ### RS_PASS_CLOSE (R223, R234) -/

def State.passCloseFails (s : State) (c : Cmd) : List (Status × Nat) :=
  s.rasterFails c [] ++ failIf (s.openPass c.job c.apt).isNone .badOperand 0x50

/-- The geometry stage reaches the close of a pass (R234): OSD_BINNED; a canvas pass of no bound step is discarded. -/
def State.passClose (s : State) (c : Cmd) : State :=
  match s.openPass c.job c.apt with
  | none => s
  | some p =>
    let q := { p with closer := some c.uid, bins := if p.canvas && p.frame.isNone then BinLists.fresh else p.bins }
    let t := (s.starts c).putPass q
    let u := match p.frame with
      | some f => (t.markBinned f).readyTiles f
      | none => t
    (u.endPass q).resumeStalled

/-- RS_PASS_CLOSE (R223). -/
def execRsPassClose (uid : Nat) (s : State) : Out := .next (s.rasterOp uid 0x6003 State.passCloseFails State.passClose)

/-! ### Registers (R229, R246) -/

/-- GROW_PAGE_ADD (R229): a write of GROW_PAGE_HI adds the page whose low bits GROW_PAGE_LO holds. -/
def State.growPageAdd (s : State) (hi : Nat) : State :=
  if 64 ≤ s.raster.pages.length then s.err .raster 0 5 0 0
  else
    let a := bits (s.reg .raster 0 0x054) 31 16 * 2 ^ 16 + bits hi 15 0 * 2 ^ 32
    { s with raster := { s.raster with pages := s.raster.pages ++ [a] } }.resumeStalled

/-- GROW_PAGE_ADD (R229). -/
def execGrowPageAdd (value : Nat) (s : State) : Out := .next (s.hostWo .raster 0 fun t => (t.growPageAdd value).track)

end Sys2Proof.Machine
end

