-- ==== Sys2Proof/Machine/Warp.lean ====
section
/-!
DEFINITION. RS_WARP and RS_MASK (R61 to R64, R235 to R239).
-/

-- One declaration at a time: the threads of a parallel elaboration take memory together.
set_option Elab.async false

namespace Sys2Proof.Machine

/-! ### Meshes (R61, R62, R235, R236) -/

/-- A warp descriptor (R235). -/
structure WarpDesc where
  layout : Nat
  rsvd : Nat
  scale : Nat
  mesh : Nat × Nat
  src : Nat × Nat
  ranges : Nat
  mw : Nat
  mh : Nat
  sw : Nat
  sh : Nat
  mpitch : Nat
  spitch : Nat
  deriving DecidableEq, Repr

/-- The 64 bytes at a device address. -/
def State.devPacket (s : State) (a : Nat) : Packet := BitVec.ofNat 512 (s.devNat a 64)

/-- The warp descriptor that 64 bytes hold. -/
def WarpDesc.of (p : Packet) : WarpDesc :=
  let n := fun off k => pktNum p off k
  ⟨n 0 2, n 2 2, n 4 4, (n 8 8, n 16 8), (n 24 8, n 32 8), n 40 8, n 48 2, n 50 2, n 52 2, n 54 2, n 56 4, n 60 4⟩

/-- A mesh vertex (R61) with its source position. -/
structure Vertex where
  x : Val
  y : Val
  z : Val
  order : Nat
  cut : Bool
  sx : Nat
  sy : Nat
  deriving DecidableEq, Repr

/-- R61, R236: vertex (i, j) of a mesh, whose 16 bytes are at byte `off` of a record. -/
def vertexOf16 (p : Packet) (off i j : Nat) : Vertex :=
  ⟨val32 (pktNum p off 4), val32 (pktNum p (off + 4) 4), val32 (pktNum p (off + 8) 4), pktNum p (off + 12) 1,
    (pktNum p (off + 13) 1).testBit 0, 4 * i, 4 * j⟩

/-- R62: an edge between vertices is longer than 2 s L + 2, with `diag` for the source length of a diagonal. -/
def tooLong (s : Int) (diag : Bool) (a b : Vertex) : Bool :=
  match fixed a.x, fixed a.y, fixed b.x, fixed b.y with
  | some ax, some ay, some bx, some y1 =>
    let len := (bx - ax) * (bx - ax) + (y1 - ay) * (y1 - ay)
    if diag then
      -- len > (8 sqrt 2 s + 2)^2, that is d > 32 sqrt 2 s in units of 2^-298
      let d := len - 128 * s * s - 4 * 2 ^ 298
      let r := 2048 * s * s * 2 ^ 298
      if s < 0 && 4 * 2 ^ 298 < 128 * s * s then true
      else if s < 0 then (0 ≤ d || d * d < r) else (0 < d && r < d * d)
    else
      let t := 8 * s + 2 * 2 ^ 149
      t < 0 || t * t < len
  | _, _, _, _ => false

/-- A mesh triangle as it is drawn (R62, R63, R236): the source positions of its corners, and what its pixels carry. -/
structure MeshTri where
  tri : Option Tri
  z : Val × Val × Val
  sx : Nat × Nat × Nat
  sy : Nat × Nat × Nat
  cover : Nat
  order : Nat
  deriving DecidableEq, Repr

/-- R62, R236: the triangle of three vertices; the second edge of `diag` tells which edge is the diagonal. -/
def meshTri (s : Option Int) (upper : Bool) (a b c : Vertex) : MeshTri :=
  let long := match s with
    | some k => if upper then tooLong k false a b || tooLong k false b c || tooLong k true c a
        else tooLong k true a b || tooLong k false b c || tooLong k false c a
    | none => false
  let stretched := a.cut || b.cut || c.cut || long
  let far := fmax (fmax a.z b.z) c.z
  { tri := Tri.of (a.x, a.y) (b.x, b.y) (c.x, c.y)
    z := if stretched then (far, far, far) else (a.z, b.z, c.z)
    sx := (a.sx, b.sx, c.sx), sy := (a.sy, b.sy, c.sy)
    cover := if stretched then 128 else 255
    order := a.order }

/-- R235: the cells of a range record, clamped into the mesh, row by row. -/
def cellsIn (mw mh x0 y0 x1 y1 : Nat) : List (Nat × Nat) :=
  if x1 < x0 || y1 < y0 then []
  else
    let cl := fun v n => min v (n - 2)
    (List.range (cl y1 mh + 1 - cl y0 mh)).flatMap fun j =>
      (List.range (cl x1 mw + 1 - cl x0 mw)).map fun i => (cl x0 mw + i, cl y0 mh + j)

/-- The cells that candidate `k` draws, of a range record of 16 bytes. -/
def WarpDesc.cells (d : WarpDesc) (range k : Nat) : List (Nat × Nat) :=
  let n := fun i => bits range (64 * k + 16 * i + 15) (64 * k + 16 * i)
  cellsIn d.mw d.mh (n 0) (n 1) (n 2) (n 3)

/-- The mesh and the source planes of candidate `k`. -/
def WarpDesc.meshOf (d : WarpDesc) (k : Nat) : Nat := if k == 0 then d.mesh.1 else d.mesh.2
def WarpDesc.srcOf (d : WarpDesc) (k : Nat) : Nat := if k == 0 then d.src.1 else d.src.2

/-- R236: the triangles of both candidates in drawing order: the candidate, the cell, and whether it is the upper triangle. -/
def WarpDesc.tris (d : WarpDesc) (range : Nat) : List (Nat × (Nat × Nat) × Bool) :=
  [0, 1].flatMap fun k => (d.cells range k).flatMap fun c => [(k, c, true), (k, c, false)]

/-- The vertices (i, j) of a triangle of a cell (R236). -/
def cornersOf (c : Nat × Nat) (upper : Bool) : List (Nat × Nat) :=
  [c, if upper then (c.1 + 1, c.2) else (c.1 + 1, c.2 + 1), if upper then (c.1 + 1, c.2 + 1) else (c.1, c.2 + 1)]

/-- The ranges of memory that hold the vertices of a triangle. -/
def WarpDesc.vertexReads (d : WarpDesc) (t : Nat × (Nat × Nat) × Bool) : List (Nat × Nat) :=
  (cornersOf t.2.1 t.2.2).map fun v => (d.meshOf t.1 + v.2 * d.mpitch + 16 * v.1, 16)

/-- The record of a mesh triangle in bin memory (R227): its three vertices, then its cell and which of the two it is. How the hardware
lays it out is not visible. -/
def State.meshRecord (s : State) (d : WarpDesc) (t : Nat × (Nat × Nat) × Bool) : Packet :=
  BitVec.ofNat 512 (leNat ((d.vertexReads t).flatMap (fun r => s.devGet r.1 r.2) ++ leBytes 2 t.2.1.1 ++ leBytes 2 t.2.1.2 ++
    leBytes 1 (b2n t.2.2)))

/-- The triangle that a record holds. -/
def WarpDesc.triOf (d : WarpDesc) (x : Packet) : MeshTri :=
  let upper := pktNum x 52 1 == 1
  let v := (cornersOf (pktNum x 48 2, pktNum x 50 2) upper).zip [0, 16, 32] |>.map fun q => vertexOf16 x q.2 q.1.1 q.1.2
  let zero : Vertex := vertexOf16 0 0 0 0
  meshTri (fixed (val32 d.scale)) upper (v.getD 0 zero) (v.getD 1 zero) (v.getD 2 zero)

/-! ### Pixels (R63, R236, R237) -/

/-- What keeps a pixel: its depth, its triangle, and the weights there. -/
structure Kept where
  z : Val
  tri : MeshTri
  w : Int × Int × Int
  deriving DecidableEq, Repr

/-- R62, R231: the surface that wins canvas pixel (x, y) against a depth `z0` that an earlier round has left, infinity at first. -/
def keptAt (z0 : Val) (ts : List MeshTri) (x y : Nat) : Option Kept :=
  ts.foldl (fun acc m =>
    match m.tri.bind fun t => t.weights x y with
    | none => acc
    | some w =>
      let z := blend3 w m.z.1 m.z.2.1 m.z.2.2
      let old := match acc with
        | some k => k.z
        | none => z0
      if z.lt old then some ⟨z, m, w⟩ else acc) none

/-- R236: the source position of a kept pixel, times the sum of its weights, and that sum. -/
def Kept.position (k : Kept) : Int × Int × Int :=
  let at_ := fun (p : Nat × Nat × Nat) => k.w.1 * (p.1 : Int) + k.w.2.1 * (p.2.1 : Int) + k.w.2.2 * (p.2.2 : Int)
  (at_ k.tri.sx, at_ k.tri.sy, k.w.1 + k.w.2.1 + k.w.2.2)

/-- R236: the UN10 code of source plane `plane` at a kept pixel. -/
def State.warpCode (s : State) (d : WarpDesc) (src plane : Nat) (k : Kept) : Nat :=
  let p := k.position
  let base := src + plane * d.spitch * d.sh
  let code := fun x y => s.devNat (base + y * d.spitch + 2 * x) 2 % 1024
  roundFrac (bilinear code d.sw d.sh p.1 p.2.1 p.2.2) (4 * (p.2.2 * p.2.2).toNat)

/-- R63: the 8 bytes of a candidate pixel that a surface keeps. -/
def State.candidate (s : State) (d : WarpDesc) (src : Nat) (k : Kept) : Nat :=
  s.warpCode d src 2 k + s.warpCode d src 1 k * 2 ^ 10 + s.warpCode d src 0 k * 2 ^ 20 + k.tri.order * 2 ^ 32 +
    k.tri.cover * 2 ^ 40 + (f16.narrow k.z).1 * 2 ^ 48

/-- R63, R237: a pixel that nothing keeps. -/
def emptyCandidate : Nat := 0x7C00 * 2 ^ 48

/-- R236: the texels that a kept pixel reads. -/
def WarpDesc.texels (d : WarpDesc) (k : Nat) (q : Kept) : List (Nat × Nat) :=
  let p := q.position
  let x := (2 * p.1 - p.2.2) / (2 * p.2.2)
  let y := (2 * p.2.1 - p.2.2) / (2 * p.2.2)
  [0, 1, 2].flatMap fun pl => [0, 1].flatMap fun j => [0, 1].map fun i =>
    (d.srcOf k + pl * d.spitch * d.sh + texel (y + j) d.sh * d.spitch + 2 * texel (x + i) d.sw, 2)

/-! ### RS_WARP (R235, R237, R241) -/

/-- The engine and the device address of the landing slot granted to the command's tile group. -/
def State.warpSlot (s : State) (c : Cmd) : Option Nat :=
  match s.groupOf c with
  | some g =>
    if g.live && g.slot.isSome && (s.job c.job).landEn then s.addr c g.engine ((s.job c.job).landBase * 2 ^ 20) (2 ^ 20)
    else none
  | none => none

/-- R28, R34, R235, R237, R241: the failing checks of an RS_WARP. -/
def State.warpFails (s : State) (c : Cmd) : List (Status × Nat) :=
  let a := c.num 24 8
  let d := WarpDesc.of (s.devPacket a)
  let mesh := (d.mh - 1) * d.mpitch + 16 * d.mw
  let inDev := fun p n => p < 2 ^ 48 && (s.target p n).isSome
  s.rasterFails c [(24, 2 ^ 64 - 1), (32, 1)] ++ failIf (s.tileCount ≤ c.tile) .badOperand 0x05 ++
    failIf (!(s.job c.job).landEn) .badOperand 0x02 ++ failIf (s.slotsOutside c) .badOperand 0x01 ++
    (if !inDev a 64 then [(.badOperand, 0x01)]
     else
       failIf (d.layout != 0x000A || d.mw < 2 || 2049 < d.mw || d.mh < 2 || 1153 < d.mh || d.sw < 64 || 7680 < d.sw ||
         d.sh < 64 || 4320 < d.sh || d.mpitch % 64 != 0 || d.spitch % 64 != 0) .badOperand 0x02 ++
       failIf (d.rsvd != 0) .badOperand 0x04 ++
       failIf (!inDev d.mesh.1 mesh || !inDev d.mesh.2 mesh || !inDev d.src.1 (3 * d.spitch * d.sh) ||
         !inDev d.src.2 (3 * d.spitch * d.sh) || !inDev d.ranges (16 * s.tileCount)) .badOperand 0x01)

/-- The state of a begun RS_WARP or RS_MASK is kept. -/
def State.putTile (s : State) (w : RTile) : State :=
  { s with raster := { s.raster with tiles := s.raster.tiles.map fun (v : RTile) => if v.uid == w.uid then w else v } }

/-- An RS_WARP or RS_MASK begins. -/
def State.addTile (s : State) (w : RTile) : State :=
  { s with raster := { s.raster with tiles := s.raster.tiles.filter (fun (v : RTile) => v.uid != w.uid) ++ [w] } }

/-- The work of an RS_WARP or RS_MASK is forgotten. -/
def State.dropTile (s : State) (uid : Nat) : State :=
  { s with raster := { s.raster with tiles := s.raster.tiles.filter fun (v : RTile) => v.uid != uid } }

/-- The work of an RS_WARP or RS_MASK is over. -/
def State.endTile (s : State) (uid : Nat) (st : Status) (cause : Nat) : State := (s.dropTile uid).endCmd uid st cause

/-- R241, R444: it is over by an uncorrectable error: its CAUSE and its address. -/
def State.failTile (s : State) (uid : Nat) (e : Nat × Nat) : State := ((s.dropTile uid).chunkError e).faultCmd uid .ecc e.1 e.2

/-- R217, R227: the items of candidate `k` that a triangle touches in the tile of a command. -/
def State.meshItems (s : State) (c : Cmd) (k : Nat) (m : MeshTri) : List Nat :=
  let col := c.tile % max 1 s.columns
  let row := c.tile / max 1 s.columns
  (((m.tri.map fun t => t.bins s.canvasW s.canvasH).getD []).filter fun b => b.1 / 4 == col && b.2 / 4 == row).map fun b =>
    16 * k + 4 * (b.2 % 4) + b.1 % 4

/-- R227: one reference of a mesh triangle's record; `acc.2` is set once no chunk is free. -/
def State.meshRef (uid : Nat) (x : Packet) (acc : State × Bool) (e : Nat × Nat) : State × Bool :=
  if acc.2 then acc
  else
    let s := acc.1
    match s.tileWork uid with
    | none => (s, true)
    | some w =>
      let b := w.bins.add s.takenChunks 0 s.chunks x e.2 (e.1 == 0)
      ((s.putTile { w with bins := b.1, taken := if b.2 then (w.taken.1, e.1 + 1) else w.taken }).freshChunks s.takenChunks b.1, !b.2)

/-- R220, R227: one triangle of a mesh is binned. -/
def State.meshOne (c : Cmd) (d : WarpDesc) (acc : State × Bool) (t : Nat × (Nat × Nat) × Bool) : State × Bool :=
  if acc.2 then acc
  else
    match acc.1.tileWork c.uid with
    | none => (acc.1, true)
    | some w =>
      let x := acc.1.meshRecord d t
      let ks := acc.1.meshItems c t.1 (d.triOf x)
      let r := (((List.range ks.length).zip ks).drop w.taken.2).foldl (State.meshRef c.uid x) acc
      if r.2 then r
      else
        let u := match r.1.tileWork c.uid with
          | some v => r.1.putTile { v with taken := (w.taken.1 + 1, 0) }
          | none => r.1
        (if ks.isEmpty then u else (u.bump .raster 0 0x060 1).pulse .raster 0 0x10 1 (some c.job), false)

/-- R220, R231: an RS_WARP bins its next batch. When no chunk is free, the items that hold something make up a round; with the last
triangle binned, all 32 items make up the last one. -/
def State.warpOn (s : State) (c : Cmd) (w : RTile) : State :=
  let d := WarpDesc.of w.desc
  let all := if (c.num 32 1).testBit 0 then [] else d.tris w.range
  let ts := (all.drop w.taken.1).take batchSize
  let reads := ts.flatMap d.vertexReads
  match s.itemError [] reads with
  | some e => s.failTile c.uid e
  | none =>
    let r := ts.foldl (State.meshOne c d) (s.correctReads .raster 0 reads, false)
    match r.1.tileWork c.uid with
    | none => r.1
    | some v =>
      if r.2 then r.1.putTile { v with todo := v.bins.lists.map (·.1) }
      else if all.length ≤ v.taken.1 then r.1.putTile { v with todo := List.range 32, last := true }
      else r.1

/-- An RS_WARP is taken, for its first batch or a later one. -/
def State.warp (s : State) (c : Cmd) : State :=
  match s.tileWork c.uid with
  | some w => s.warpOn c w
  | none =>
    let t := s.starts c
    let desc := s.devPacket (c.num 24 8)
    let at_ := (WarpDesc.of desc).ranges + 16 * c.tile
    let reads := (c.num 24 8, 64) :: if (c.num 32 1).testBit 0 then [] else [(at_, 16)]
    match s.itemError [] reads with
    | some e => t.faultCmd c.uid .ecc e.1 e.2
    | none =>
      let w : RTile := ⟨c.uid, c.turn, false, desc, s.devNat at_ 16, (0, 0), BinLists.fresh, [], false, []⟩
      ((t.correctReads .raster 0 reads).addTile w).warpOn c w

/-- What an item of an RS_WARP is drawn from and to: its rows, as the offset within the landing slot and the bytes; its depth in row order;
and the texels that it reads. -/
structure WarpWork where
  runs : List (Nat × List Byte)
  depth : List Nat
  reads : List (Nat × Nat)
  deriving DecidableEq, Repr

/-- Runs of adjacent pixels of 8 bytes, from the pixels that are written. -/
def pixelRuns (at_ : Nat) (px : List (Option Nat)) : List (Nat × List Byte) :=
  if px.all (·.isSome) then [(at_, px.flatMap fun v => leBytes 8 (v.getD 0))]
  else ((List.range px.length).zip px).filterMap fun q => q.2.map fun v => (at_ + 8 * q.1, leBytes 8 v)

/-- F32 infinity. -/
def infCode : Nat := 0x7F800000

/-- R231, R236, R237: item `k` of an RS_WARP with what the round has binned. A pixel that no surface of the round wins is left, and in the
last round one that none has won is written empty. -/
def State.warpWork (s : State) (c : Cmd) (w : RTile) (k : Nat) : WarpWork :=
  let d := WarpDesc.of w.desc
  let cand := k / 16
  let bx := k % 4 * 64
  let bh := k % 16 / 4 * 64
  let x0 := c.tile % max 1 s.columns * 256 + bx
  let y0 := c.tile / max 1 s.columns * 256 + bh
  let ts := (w.bins.refs k).reverse.map fun r => d.triOf r.record
  let old := SMap.get w.depth k []
  let z := fun x y => old.getD (64 * y + x) infCode
  let won := fun x y =>
    if x0 + x < s.canvasW && y0 + y < s.canvasH then keptAt (val32 (z x y)) ts (x0 + x) (y0 + y) else none
  let rows := (List.range 64).map fun y => (List.range 64).map fun x => (z x y, won x y)
  { runs := ((List.range 64).zip rows).flatMap fun r =>
      pixelRuns (524288 * cand + 2048 * (bh + r.1) + 8 * bx) (r.2.map fun q => match q.2 with
        | some e => some (s.candidate d (d.srcOf cand) e)
        | none => if w.last && q.1 == infCode then some emptyCandidate else none)
    depth := rows.flatMap fun r => r.map fun q => match q.2 with
      | some e => e.z.code32
      | none => q.1
    reads := if s.badWords.isEmpty && s.softWords.isEmpty then []
      else rows.flatMap fun r => r.flatMap fun q => (q.2.map (d.texels cand)).getD [] }

/-- R231, R237, R241: an item of an RS_WARP runs to its end. Without a route to its landing die it fails; with the last item of the last
round it ends. -/
def State.warpItem (s : State) (c : Cmd) (w : RTile) (k : Nat) : State :=
  match s.warpSlot c with
  | none => s
  | some base =>
    let x := s.warpWork c w k
    if s.hubRoute (s.engineOf c / 2) == 0 then s.endTile c.uid .link 0x21
    else match s.itemError (w.bins.refs k) x.reads with
    | some e => s.failTile c.uid e
    | none =>
      let todo := w.todo.filter (· != k)
      let v := { w with
        bins := w.bins.erase k, todo := todo, depth := if w.last then SMap.erase w.depth k else SMap.set w.depth k x.depth }
      let t := ((s.putAll (x.runs.map fun r => (base + r.1, r.2))).correctReads .raster 0 x.reads).putTile v
      if w.last && todo.isEmpty then t.endTile c.uid .ok 0 else t

/-- RS_WARP (R237). -/
def execRsWarp (uid : Nat) (s : State) : Out := .next (s.rasterOp uid 0x6004 State.warpFails State.warp)

/-! ### RS_MASK (R64, R238, R239) -/

/-- A mask descriptor (R238). -/
structure MaskDesc where
  layout : Nat
  margin : Nat
  rsvd : Bool
  scale : Nat
  boxes : Nat
  ui : Nat
  marks : Nat
  uiPitch : Nat
  markPitch : Nat
  sw : Nat
  sh : Nat
  map : Nat
  deriving DecidableEq, Repr

/-- The mask descriptor that 64 bytes hold. -/
def MaskDesc.of (p : Packet) : MaskDesc :=
  let n := fun off k => pktNum p off k
  ⟨n 0 2, n 2 1, n 3 1 == 0 && n 44 4 == 0, n 4 4, n 8 8, n 16 8, n 24 8, n 32 4, n 36 4, n 40 2, n 42 2, n 48 16⟩

/-- R239: a run of canvas pixels `[q, q + 2)` overlaps the side `[lo, hi)` of a grown box. -/
def sideMeets (q : Nat) (lo hi : Val) : Bool :=
  lo.lt hi && lo.lt (Val.ofNat (q + 2)) && (Val.ofNat q).lt hi

/-- R239: the sides of a box scaled and grown, in F32. -/
def grown (s m : Val) (b : Box) : (Val × Val) × (Val × Val) :=
  ((fsub (fmul b.x0 s) m, fadd (fmul b.x1 s) m), (fsub (fmul b.y0 s) m, fadd (fmul b.y1 s) m))

/-- R238: the boxes of a descriptor's list whose class is protected; none of a list that is omitted. -/
def State.protectedBoxes (s : State) (d : MaskDesc) : List Box :=
  if d.boxes == 0 || s.devNat d.boxes 2 != 6 then []
  else ((List.range (s.devNat (d.boxes + 2) 2)).map fun i => s.boxAt (d.boxes + 64 + 32 * i)).filter fun b =>
    b.cls < 128 && d.map.testBit b.cls

/-- R239: the source pixels on one axis whose area scaled by `s` overlaps `[q, q + 2)`, for a source side of `n`. -/
def sourceRange (s : Int) (q n : Nat) : List Nat :=
  if s ≤ 0 then []
  else
    let first : Nat := ((q : Int) * 2 ^ 149 / s).toNat
    let last := min ((n : Int) - 1) (-((-(((q : Int) + 2) * 2 ^ 149)) / s) - 1)
    if (first : Int) ≤ last then (List.range (last.toNat + 1 - first)).map fun (k : Nat) => first + k else []

/-- R239: element (u, v) of the mask of the tile whose origin is (tx, ty). -/
def State.maskElement (s : State) (d : MaskDesc) (boxes : List ((Val × Val) × (Val × Val))) (tx ty u v : Nat) : Nat :=
  let x := tx + 2 * u
  let y := ty + 2 * v
  if s.canvasW ≤ x || s.canvasH ≤ y then 0
  else if boxes.any fun b => sideMeets x b.1.1 b.1.2 && sideMeets y b.2.1 b.2.2 then 255
  else
    let sc := (fixed (val32 d.scale)).getD 0
    let px := (sourceRange sc y d.sh).flatMap fun j => (sourceRange sc x d.sw).map fun i => (i, j)
    let ui := if d.ui == 0 then 0 else px.foldl (fun m p => max m (s.devNat (d.ui + p.2 * d.uiPitch + p.1) 1)) 0
    if d.marks != 0 && px.any fun p => s.devNat (d.marks + p.2 * d.markPitch + p.1) 1 != 0 then 255 else ui

/-- The bytes of a box list, 64 when it is omitted. -/
def State.boxListBytes (s : State) (d : MaskDesc) : Nat :=
  if s.devNat d.boxes 2 == 6 then 64 + 32 * s.devNat (d.boxes + 2) 2 else 64

/-- The bytes of a plane. -/
def planeExtent (pitch w h : Nat) : Nat := if h == 0 then 0 else (h - 1) * pitch + w

/-- The ranges that a mask is built from. -/
def State.maskReads (s : State) (a : Nat) (d : MaskDesc) : List (Nat × Nat) :=
  (a, 64) :: ((if d.boxes == 0 then [] else [(d.boxes, s.boxListBytes d)]) ++
    (if d.ui == 0 then [] else [(d.ui, planeExtent d.uiPitch d.sw d.sh)]) ++
    (if d.marks == 0 then [] else [(d.marks, planeExtent d.markPitch d.sw d.sh)]))

/-- R238, R239, R241: the failing checks of an RS_MASK. -/
def State.maskFails (s : State) (c : Cmd) : List (Status × Nat) :=
  let a := c.num 24 8
  let d := MaskDesc.of (s.devPacket a)
  s.rasterFails c [(24, 2 ^ 128 - 1)] ++ failIf (s.tileCount ≤ c.tile) .badOperand 0x05 ++
    failIf (!s.dramRange (c.num 32 8) 16384) .badOperand 0x01 ++
    (if (s.target a 64).isNone then [(.badOperand, 0x01)]
     else
       failIf (d.layout != 0x000B) .badOperand 0x02 ++ failIf (!d.rsvd) .badOperand 0x04 ++
       failIf ((s.maskReads a d).any fun r => 2 ^ 48 ≤ r.1 || (s.target r.1 r.2).isNone) .badOperand 0x01)

/-- R64: PROT of the tile of a bound step is set. -/
def State.markProt (s : State) (c : Cmd) : State :=
  match (s.stepOf c).bind (·.frame) with
  | some f => if s.boundHeader f then s.putEntry f c.tile (setBits (s.entry f c.tile) 47 47 1) else s
  | none => s

/-- R239: an RS_MASK is taken; a box list with another LAYOUT is counted. -/
def State.mask (s : State) (c : Cmd) : State :=
  let desc := s.devPacket (c.num 24 8)
  let d := MaskDesc.of desc
  let reads := (c.num 24 8, 64) :: if d.boxes == 0 then [] else [(d.boxes, s.boxListBytes d)]
  let t := s.starts c
  match s.itemError [] reads with
  | some e => t.faultCmd c.uid .ecc e.1 e.2
  | none =>
    let u := t.correctReads .raster 0 reads
    let v := if d.boxes != 0 && s.devNat d.boxes 2 != 6 then u.bump .raster 0 0x070 1 else u
    v.addTile ⟨c.uid, c.turn, true, desc, 0, (0, 0), BinLists.fresh, List.range 16, true, []⟩

/-- R239: the elements of item `k` of an RS_MASK: 32 rows of 32. -/
def State.maskRows (s : State) (c : Cmd) (d : MaskDesc) (k : Nat) : List (List Nat) :=
  let boxes := (s.protectedBoxes d).map (grown (val32 d.scale) (Val.ofNat d.margin))
  let tx := c.tile % max 1 s.columns * 256
  let ty := c.tile / max 1 s.columns * 256
  (List.range 32).map fun v => (List.range 32).map fun u => s.maskElement d boxes tx ty (32 * (k % 4) + u) (32 * (k / 4) + v)

/-- The bytes of the planes that item `k` of an RS_MASK reads. -/
def State.maskItemReads (s : State) (c : Cmd) (d : MaskDesc) (k : Nat) : List (Nat × Nat) :=
  let sc := (fixed (val32 d.scale)).getD 0
  let xs := (List.range 32).flatMap fun u => sourceRange sc (c.tile % max 1 s.columns * 256 + 2 * (32 * (k % 4) + u)) d.sw
  let ys := (List.range 32).flatMap fun v => sourceRange sc (c.tile / max 1 s.columns * 256 + 2 * (32 * (k / 4) + v)) d.sh
  if s.badWords.isEmpty && s.softWords.isEmpty then []
  else ys.dedup.flatMap fun j => xs.dedup.flatMap fun i =>
    (if d.ui == 0 then [] else [(d.ui + j * d.uiPitch + i, 1)]) ++ (if d.marks == 0 then [] else [(d.marks + j * d.markPitch + i, 1)])

/-- The part of runs of bytes that lies below an address. -/
def runsBelow (cut : Nat) (runs : List (Nat × List Byte)) : List (Nat × List Byte) :=
  (runs.map fun r => (r.1, r.2.take (cut - r.1))).filter fun r => !r.2.isEmpty

/-- R64, R239: the elements of item `k` of an RS_MASK are written, those below an address alone where it is stopped; where one is nonzero,
PROT is set. -/
def State.maskWrite (s : State) (c : Cmd) (d : MaskDesc) (k : Nat) (cut : Option Nat) : State :=
  let all := ((List.range 32).zip (s.maskRows c d k)).map fun r =>
    (c.num 32 8 + 128 * (32 * (k / 4) + r.1) + 32 * (k % 4), r.2.map fun x => BitVec.ofNat 8 x)
  let runs := match cut with
    | some a => runsBelow a all
    | none => all
  let t := (s.putAll runs).correctReads .raster 0 (s.maskItemReads c d k)
  if runs.any fun r => r.2.any fun x => x != 0 then t.markProt c else t

/-- R239: an item of an RS_MASK runs to its end; with the last one it ends. -/
def State.maskItem (s : State) (c : Cmd) (w : RTile) (k : Nat) : State :=
  let d := MaskDesc.of w.desc
  match s.itemError [] (s.maskItemReads c d k) with
  | some e => s.failTile c.uid e
  | none =>
    let todo := w.todo.filter (· != k)
    let t := (s.maskWrite c d k none).putTile { w with todo := todo }
    if todo.isEmpty then t.endTile c.uid .ok 0 else t

/-- RS_MASK (R239). -/
def execRsMask (uid : Nat) (s : State) : Out := .next (s.rasterOp uid 0x6005 State.maskFails State.mask)

end Sys2Proof.Machine
end

