-- ==== Sys2Proof/Machine/RasterItem.lean ====
section
/-!
DEFINITION. The bin items that the raster cores run (R217, R220, R226, R231, R234, R237, R239).
-/

-- One declaration at a time: the threads of a parallel elaboration take memory together.
set_option Elab.async false

namespace Sys2Proof.Machine

/-! ### Bin items (R217, R220, R234) -/

/-- R234: bins of a closing pass whose item can start, on one core. -/
def State.startableBins (s : State) (p : RPass) (core : Nat) : List Nat :=
  if !s.depthRoom core then []
  else if p.canvas then
    ((s.heldBins p).filter fun e => p.coreOf e.1 == core && s.binState p e.1 == 5 && s.passBound p).map (·.1)
  else (List.range p.binCount).filter fun k =>
    p.coreOf k == core && !((p.flushed.contains k || p.doneBins.contains k) && (p.refs k).isEmpty)

/-- R220, R234: the rank of a bin item: class, deadline, arrival of its command, then bin. `pass` is the pass of an RS_PASS_CLOSE's item. -/
structure ItemKey where
  cls : Nat
  deadline : Option Nat
  cmd : Nat
  pass : Option Nat
  bin : Nat
  deriving DecidableEq, Repr

/-- R220: an item starts before another. -/
def ItemKey.before (a b : ItemKey) : Bool :=
  if a.cls != b.cls then a.cls < b.cls
  else if a.deadline != b.deadline then deadlineLt a.deadline b.deadline
  else if a.cmd != b.cmd then a.cmd < b.cmd
  else a.bin < b.bin

/-- R216, R220, R231, R292: the items of an RS_WARP or RS_MASK that can start, on one core: an RS_WARP's while no flit of its route is held,
in a depth buffer of its own or a free one, and those of a round that keeps depth while no other RS_WARP keeps any. -/
def State.startableItems (s : State) (c : Cmd) (w : RTile) (core : Nat) : List Nat :=
  let own := w.todo.filter fun k => tileCore k == core
  if w.mask then own
  else if s.hubRoute (s.engineOf c / 2) == 1 || (!w.last && s.depthBusy w.uid) then []
  else own.filter fun k => s.depthRoom core || w.depth.any fun e => e.1 == k

/-- The deadline of the items of a pass: the row's for a canvas bin, else the step's. -/
def State.binDue (s : State) (c : Cmd) (p : RPass) (k : Nat) : Option Nat :=
  match s.stepOf c with
  | some x => if p.canvas then some (x.rowDeadline (x.rowOf (p.tileOf k))) else some x.deadline
  | none => none

/-- The items of closing passes that a core can start. -/
def State.passItems (s : State) (core : Nat) : List ItemKey :=
  s.rpasses.flatMap fun p =>
    match p.closer.bind s.cmd? with
    | none => []
    | some c => (s.startableBins p core).map fun k => ⟨c.cls, s.binDue c p k, c.uid, some p.uid, k⟩

/-- The items of RS_WARPs and RS_MASKs that a core can start. -/
def State.tileItems (s : State) (core : Nat) : List ItemKey :=
  s.rtiles.flatMap fun w =>
    match s.cmd? w.uid with
    | none => []
    | some c => (s.startableItems c w core).map fun k => ⟨c.cls, s.deadlineOf c, c.uid, none, k⟩

/-- The items that a core can start. -/
def State.items (s : State) (core : Nat) : List ItemKey := s.passItems core ++ s.tileItems core

/-- The best-ranked of a list of items. -/
def bestItem (xs : List ItemKey) : Option ItemKey :=
  xs.foldl (fun acc k =>
    match acc with
    | none => some k
    | some b => if k.before b then some k else some b) none

/-- The item a core starts next. -/
def State.nextItem (s : State) (core : Nat) : Option ItemKey := bestItem (s.items core)

/-- R226, R234: a bin item of a pass runs to its end; with an uncorrectable word its pass's close fails, and the bin is left unwritten. -/
def State.runBin (s : State) (uid k : Nat) : State :=
  match s.rpasses.find? fun p => p.uid == uid with
  | none => s
  | some p =>
    match s.binFail p k with
    | some e => (s.chunkError e).endPass (s.noteBin p e)
    | none =>
      let w := s.binWork p k
      let q := { p with bins := p.bins.erase k, doneBins := k :: p.doneBins }
      let t := ((s.putAll w.rows).putPass q).correctReads .raster 0 w.reads
      let u := match p.frame with
        | some f => t.readyTile f (p.tileOf k)
        | none => t
      u.endPass q

/-- An item runs to its end. -/
def State.runItem (s : State) (i : ItemKey) : State :=
  match i.pass with
  | some p => s.runBin p i.bin
  | none =>
    match s.tileWork i.cmd, s.cmd? i.cmd with
    | some w, some c => if w.mask then s.maskItem c w i.bin else s.warpItem c w i.bin
    | _, _ => s

/-- RASTER_BIN_ITEM (R220): a raster core runs its next bin item. -/
def execRasterBinItem (core : Nat) (s : State) : Out :=
  let t := s.settleRaster
  if (t.page .raster 0).faulted then .next t
  else match t.nextItem core with
    | none => .next t.resumeStalled.track
    | some i => .next (t.runItem i).rasterRest.resumeStalled.track

/-- R93, R241: the items of a command that a core can be at work on, with their cores. -/
def State.cmdItems (s : State) (uid : Nat) : List (Nat × ItemKey) :=
  (List.range 8).flatMap fun core => ((s.items core).filter fun i => i.cmd == uid).map fun i => (core, i)

/-- R245: the geometry stage or a core is busy: a begun command can go on, or a core has an item to run. -/
def State.rasterRuns (s : State) : Bool :=
  (s.rasterHeads.any fun c => s.begun c.uid) || (List.range 8).any fun core => !(s.items core).isEmpty

end Sys2Proof.Machine
end

