-- ==== Sys2Proof/Machine/Turn.lean ====
section
/-!
DEFINITION. Jobs coming and going (R19, R22, R134, R173), and the scale keeper's turns (R130 to R138, R170 to R187,
R313): the scale directory, the adapter directory, verdicts, candidates and D_WEIGHTS.
-/

-- One declaration at a time: the threads of a parallel elaboration take memory together.
set_option Elab.async false

namespace Sys2Proof.Machine

/-! ### Replicas (R136) -/

/-- R136: the device addresses of the replicas of `n` bytes at a window address of a job: one in the window of every
die, or of every engine, of its ENGINE_MASK. The first is the lowest die's or engine's. -/
def State.replicas (s : State) (job w n : Nat) : List Nat :=
  if w.testBit 27 then (s.jobDies job).filterMap fun d => s.resolve (2 * d) job w n
  else (s.jobEngines job).filterMap fun g => s.resolve g job w n

/-- `n` bytes lie in the window of every replica. -/
def State.replicated (s : State) (job w n : Nat) : Bool :=
  if w.testBit 27 then (s.jobDies job).all fun d => (s.resolve (2 * d) job w n).isSome
  else (s.jobEngines job).all fun g => (s.resolve g job w n).isSome

/-- Bytes written to every replica. -/
def State.putReplicas (s : State) (job w off : Nat) (bs : List Byte) : State :=
  (s.replicas job w 64).foldl (fun t a => t.devPut (a + off) bs) s

/-- The header of a scale tensor or rescale table of a job, as its first replica has it. -/
def State.structAt (s : State) (job w : Nat) : Option Table := (s.replicas job w 64).head?.map s.tableAt

/-- R123, R125: the bytes of one copy. -/
def Table.body (t : Table) : Nat := if t.layout == 3 then 64 + 16 * t.entries else 8 * t.entries

/-- Where copy `k` starts after the header; 2 is the staging copy (R137). -/
def Table.copyOff (t : Table) (k : Nat) : Nat := 64 + k * t.stride

/-- R132: the copy of a structure that a command of an epoch reads. -/
def Table.current (t : Table) (epoch : Nat) : Nat := copyOf t.copies (BitVec.ofNat 32 t.since) t.cur epoch

/-- The bytes of copy `k` of a structure. -/
def State.copyBytes (s : State) (t : Table) (k : Nat) : List Byte := s.devGet (t.base + t.copyOff k) t.body

/-! ### The scale directory (R133) -/

/-- An entry of a scale directory. -/
structure DirEntry where
  index : Nat
  table : Option Nat
  links : List Nat
  auto : Bool
  learned : Bool
  slot : Nat
  stage : Nat
  clipHi : Nat
  clipLo : Nat
  mseHi : Nat
  sMin : Nat
  sMax : Nat
  nMin : Nat
  seen : Nat
  deriving DecidableEq, Repr

/-- A window address of R88, or none. -/
def linkAt (x : Nat) : Option Nat := if x == 0xFFFFFFFF then none else some (x % 2 ^ 28)

/-- Entry `i` of the scale directory at a device address. -/
def State.dirEntry (s : State) (d i : Nat) : DirEntry :=
  let e := d + 64 + 64 * i
  let fl := s.devNat (e + 16) 1
  ⟨i, linkAt (s.devNat e 4), [4, 8, 12].filterMap fun o => linkAt (s.devNat (e + o) 4), fl.testBit 0, fl.testBit 1,
    s.devNat (e + 17) 1 % 8, s.devNat (e + 18) 2 % 4096, s.devNat (e + 20) 4, s.devNat (e + 24) 4, s.devNat (e + 28) 4,
    s.devNat (e + 32) 4, s.devNat (e + 36) 4, s.devNat (e + 40) 4, s.devNat (e + 44) 4⟩

/-- The entries of the scale directory at a device address. -/
def State.dirEntries (s : State) (d : Nat) : List DirEntry := (List.range (s.devNat (d + 2) 2)).map (s.dirEntry d)

/-- The structures that an entry names: its table, then its links. -/
def DirEntry.structs (e : DirEntry) : List Nat := e.table.toList ++ e.links

/-- R138, R289: the entry makes its directory bad. -/
def State.badEntry (s : State) (job : Nat) (e : DirEntry) : Bool :=
  e.stage == 4095 || e.structs.any fun w =>
    match s.structAt job w with
    | none => true
    | some t =>
      let top := if e.learned then 2 else if t.copies == 2 then 1 else 0
      !s.replicated job w (t.copyOff top + t.body)

/-- R138: the scale directory at a device address is bad: the entry to report, 0 for its header (DESIGN CHOICE, assumption 72). -/
def State.badScaleDir (s : State) (job d : Nat) : Option Nat :=
  let t := s.devNat (d + 4) 2
  if s.devNat d 2 != 4 || 63 < s.devNat (d + 2) 2 || (t != 0 && (t < 4 || 1024 < t)) then some 0
  else ((s.dirEntries d).find? (s.badEntry job)).map (·.index)

/-! ### The adapter directory (R170, R171, R173) -/

/-- An entry of an adapter directory. -/
structure AdaptEntry where
  index : Nat
  base : Nat
  bytes : Nat
  since : Nat
  cur : Nat
  probe : Bool
  stride : Nat
  scale : Nat
  deriving DecidableEq, Repr

/-- Entry `i` of the adapter directory at a device address. -/
def State.adaptEntry (s : State) (a i : Nat) : AdaptEntry :=
  let e := a + 64 + 64 * i
  let c := s.devNat (e + 12) 1
  ⟨i, s.devNat e 4, s.devNat (e + 4) 4, s.devNat (e + 8) 4, c % 2, c.testBit 1, s.devNat (e + 16) 4, s.devNat (e + 20) 1⟩

/-- The entries of the adapter directory at a device address. -/
def State.adaptEntries (s : State) (a : Nat) : List AdaptEntry := (List.range (s.devNat (a + 2) 2)).map (s.adaptEntry a)

/-- R173: two entries of an adapter directory clash: their extents overlap, or they name one scale entry. -/
def AdaptEntry.clash (x y : AdaptEntry) : Bool :=
  (x.base < y.base + 3 * y.stride && y.base < x.base + 3 * x.stride) || x.scale == y.scale

/-- R173, R289: the adapter directory of a job is bad: the entry to report. `es` are the entries of its scale
directory, none when its TURN_STEPS is 0. -/
def State.badAdaptDir (s : State) (job a : Nat) (es : List DirEntry) : Option Nat :=
  let xs := s.adaptEntries a
  let tol := val32 (s.devNat (a + 8) 4)
  let p := s.devNat (a + 4) 1
  let h := s.devNat (a + 5) 1
  let bound := fun (x : AdaptEntry) => es.find? fun e => e.index == x.scale && e.learned && !e.auto
  if s.devNat a 2 != 7 || 16 < s.devNat (a + 2) 2 || p == 0 || 8 < p || h < 2 || 16 < h ||
      !(Val.zero.le tol && tol.le (Val.ofNat 1)) || s.devNat (a + 12) 2 % 4096 == 4095 ||
      2 ^ 22 < (xs.map (·.bytes)).sum || es.isEmpty && !xs.isEmpty || (s.job job).turnSteps == 0 then some 0
  else
    let stage := (xs.head?.bind bound).map (·.stage)
    (xs.find? fun x => (bound x).isNone || (bound x).map (·.stage) != stage ||
      (xs.any fun y => y.index < x.index && x.clash y) || !x.base.testBit 27 ||
      !s.replicated job x.base (3 * x.stride)).map (·.index)

/-! ### D_WEIGHTS (R313) -/

/-- R313: the digests of a job's structures in force for an epoch. -/
def State.structDigests (s : State) (job epoch : Nat) : List Byte :=
  match s.dirBase job with
  | none => []
  | some d =>
    let one := fun w => match s.structAt job w with
      | some t => sha256 (s.copyBytes t (t.current epoch))
      | none => []
    let scale := if (s.job job).scaleDir then (s.dirEntries d).flatMap fun e => e.structs.flatMap one else []
    let adapt := if (s.job job).adaptDir then
        (s.adaptEntries (d + 0x1000)).flatMap fun x =>
          match (s.replicas job x.base 64).head? with
          | some b =>
            let k := copyOf 2 (BitVec.ofNat 32 x.since) x.cur epoch
            sha256 (s.devGet (b + k * x.stride) x.bytes)
          | none => []
      else []
    scale ++ adapt

/-- R313: the scale keeper computes D_WEIGHTS of a job for an epoch. -/
def State.keepWeights (s : State) (job epoch : Nat) : State :=
  let j := s.job job
  s.putJob job { j with dWeights := (epoch, sha256 (j.weights ++ s.structDigests job epoch)) :: j.dWeights }

/-- D_WEIGHTS of a job for an epoch: the last computed at or before it. -/
def Job.weightsOf (j : Job) (epoch : Nat) : List Byte :=
  ((j.dWeights.find? fun p => atOrAfter (BitVec.ofNat 32 epoch) (BitVec.ofNat 32 p.1)).map (·.2)).getD
    (List.replicate 32 0)

/-! ### Jobs (R19, R22, R134, R173) -/

/-- R134, R138: the scale directory is read when VALID is set. -/
def State.readScaleDir (s : State) (job : Nat) : State :=
  match s.dirBase job with
  | none => s
  | some d =>
    if s.devNat d 2 == 0 then s
    else match s.badScaleDir job d with
      | some i => (s.putDir job 16 (leBytes 2 5)).putDir job 18 (leBytes 2 i)
      | none => s.putJob job { s.job job with scaleDir := true, turnSteps := s.devNat (d + 4) 2 }

/-- R173: the adapter directory is read when VALID is set. -/
def State.readAdaptDir (s : State) (job : Nat) : State :=
  match s.dirBase job with
  | none => s
  | some d =>
    let a := d + 0x1000
    if s.devNat a 2 == 0 then s
    else match s.badAdaptDir job a (if (s.job job).scaleDir then s.dirEntries d else []) with
      | some i => (s.putDir job (0x1000 + 22) (leBytes 1 1)).putDir job (0x1000 + 23) (leBytes 1 i)
      | none => s.putJob job { s.job job with adaptDir := true, adaptJob := s.devNat (a + 6) 1 % 64 }

/-- The engines forget what they kept for a job (R81, R39). -/
def State.forgetJob (s : State) (job : Nat) : State :=
  { s with engines := s.engines.map fun p =>
      let e := p.2
      (p.1, { e with
        slots := e.slots.filter (fun c => c.job != job)
        known := e.known.filter (· != job)
        lost := e.lost.filter (· != job)
        saved := e.saved.filter (· != job) }) }

/-- R309: REPRO as the register holds it, or always off H8A. -/
def State.reproNow (s : State) : Bool := s.variant != .h8a || (s.reg .sec 0 0x100).testBit 29

/-- JOB_VALID_SET: a job comes to exist (R19, R131, R309, R312, R134, R173, R313). -/
def State.createJob (s : State) (job v : Nat) : State :=
  let j := s.job job
  let s1 := (s.forgetJob job).putJob job { Job.fresh with
    cfg := BitVec.ofNat 32 v
    apts := j.apts
    land := j.land
    repro := s.reproNow }
  ((s1.readScaleDir job).readAdaptDir job).keepWeights job 0

/-- R22: commands of a job accepted and not yet completed. -/
def State.queuedOf (s : State) (job : Nat) : Nat := (s.cmds.filter fun c => c.job == job && !c.rejected && c.live && !c.replay).length

/-- JOB_VALID_CLEAR: the job is removed (R22). -/
def State.removeJob (s : State) (job v : Nat) : State :=
  (s.forgetJob job).putJob job { s.job job with
    cfg := BitVec.ofNat 32 v, turnSteps := 0, turnPending := none, scaleDir := false, adaptDir := false }

/-- R9, R21: CLASS or ENGINE_MASK of a valid job is changed, against a rule that software must keep: what the two fields hold from then on
is free, and the device goes on. -/
def State.brokenCfg (s : State) (job v : Nat) : State :=
  let f := s.free
  f.2.putJob job { s.job job with cfg := BitVec.ofNat 32 (setBits (setBits v 29 28 f.1) 15 0 (f.1 / 4)) }

/-- What a write of JOB_CFG does (R19, R21, R22, R50). -/
def State.jobCfgWrite (s : State) (job value : Nat) : State :=
  let v := value &&& 0xF000FFFF
  let j := s.job job
  let old := j.cfg.toNat
  if !j.valid then
    if v.testBit 31 then (s.createJob job v).track.settleState else s.putJob job { j with cfg := BitVec.ofNat 32 v }
  else if !v.testBit 31 then
    if s.queuedOf job != 0 then s.err .sched 0 1 job 0 else (s.removeJob job v).track.settleState
  else if bits v 29 28 != bits old 29 28 || bits v 15 0 != bits old 15 0 then s.brokenCfg job v
  else s.putJob job { j with cfg := BitVec.ofNat 32 v }

/-- `SCHED.JOB_SEL`. -/
def State.jobSel (s : State) : Nat := s.reg .sched 0 0x04C % 64

/-- JOB_VALID_SET (R19): a write of JOB_CFG with VALID set, for the job in JOB_SEL. -/
def execJobValidSet (value : Nat) (s : State) : Out :=
  .next (s.host .sched 0 fun t => t.jobCfgWrite t.jobSel (value ||| 2 ^ 31))

/-- JOB_VALID_CLEAR (R22): a write of JOB_CFG with VALID clear. -/
def execJobValidClear (value : Nat) (s : State) : Out :=
  .next (s.host .sched 0 fun t => t.jobCfgWrite t.jobSel (value % 2 ^ 31))

/-! ### Statistics and the AUTO rule (R136, R138) -/

/-- What the statistic slots of an AUTO entry add up to. -/
structure SlotSum where
  count : Nat
  clips : Nat
  sse : Nat
  saturated : Bool
  conflict : Bool
  deriving DecidableEq, Repr

/-- R138: a register of the slot reads all ones. -/
def StatSlot.allOnes (x : StatSlot) : Bool :=
  x.count == 2 ^ 32 - 1 || x.clips == 2 ^ 32 - 1 || x.sse % 2 ^ 32 == 2 ^ 32 - 1 || x.sse / 2 ^ 32 == 2 ^ 32 - 1

/-- R136 step 2: the slots `k` of the engines of a job, summed in 64 bits. -/
def State.slotSum (s : State) (job k : Nat) : SlotSum :=
  let xs := (s.jobEngines job).map fun g => (s.engine g).stat k
  let own := xs.filter fun x => x.tagged && x.job == job
  ⟨(own.map (·.count)).sum % 2 ^ 64, (own.map (·.clips)).sum % 2 ^ 64, (own.map (·.sse)).sum % 2 ^ 64,
    own.any StatSlot.allOnes, xs.any fun x => x.tagged && x.job != job⟩

/-- R136 step 2: those slots are cleared. -/
def State.clearSlot (s : State) (job k : Nat) : State :=
  (s.jobEngines job).foldl (fun t g =>
    t.putEngine g { t.engine g with stats := SMap.erase (t.engine g).stats k }) s

/-- R138: the new OUT_SCALE of an AUTO entry. -/
def DirEntry.newScale (e : DirEntry) (x : SlotSum) (old : Val) : Val :=
  let raw :=
    if e.clipHi * x.count < x.clips * 2 ^ 32 || e.mseHi * x.count < x.sse then fmul old (.fin false 9 8 0)
    else if x.clips * 2 ^ 32 < e.clipLo * x.count && x.sse ≤ e.mseHi * x.count then fmul old (.fin false 15 16 0)
    else old
  fmin (fmax raw (val32 e.sMin)) (val32 e.sMax)

/-- R136 steps 4 and 5: FROM and CUR of a structure's header, in one write to every replica. -/
def State.putHeader (s : State) (job w : Nat) (since cur : Nat) : State :=
  s.putReplicas job w 8 (leBytes 4 since ++ leBytes 1 cur ++ leBytes 3 0)

/-- R136 step 3: the free copy of a structure receives bytes; the copy in force stays as it is. -/
def State.putCopy (s : State) (job w : Nat) (t : Table) (bs : List Byte) : State := s.putReplicas job w (t.copyOff (1 - t.cur % 2)) bs

/-- R136 step 4: the other copy of each changed structure is in force from the next epoch, however often the directory names it. -/
def State.flip (s : State) (job epoch : Nat) (ws : List Nat) : State :=
  ws.eraseDups.foldl (fun t w =>
    match t.structAt job w with
    | none => t
    | some x => t.putHeader job w ((epoch + 1) % 2 ^ 32) (1 - x.cur % 2)) s

/-- R138: what the copy of a link becomes: every SCALE replaced. -/
def relink (code : Nat) (bs : List Byte) : List Byte :=
  (chunks 8 (bs.length + 1) bs).flatMap fun e => leBytes 4 code ++ e.drop 4

/-- R136 step 3, R138: the free copies of an AUTO entry take a new OUT_SCALE. -/
def State.rescaleEntry (s : State) (job : Nat) (e : DirEntry) (sc : Val) : State :=
  let code := sc.code32
  let inv := (fdiv (Val.ofNat 1) sc).code32
  let s1 := match e.table with
    | none => s
    | some w => (match s.structAt job w with
      | none => s
      | some t => s.putCopy job w t (leBytes 4 code ++ leBytes 4 inv ++ (s.copyBytes t t.cur).drop 8))
  e.links.foldl (fun t w =>
    match t.structAt job w with
    | none => t
    | some x => t.putCopy job w x (relink code (t.copyBytes x x.cur))) s1

/-- R133: ERR and ERR_ENTRY of a scale directory. An error of no entry leaves ERR_ENTRY as it is (TURN_LATE), or names entry 0 (BAD_DIRECTORY
in the header); the spec does not say (DESIGN CHOICE, assumption 72). -/
def State.dirErr (s : State) (job code entry : Nat) : State := s.putDir job 16 (leBytes 2 code ++ leBytes 2 entry)

/-- R138: a structure of the entry has COPIES 1. -/
def State.notDouble (s : State) (job : Nat) (e : DirEntry) : Bool :=
  e.structs.any fun w => match s.structAt job w with
    | some t => t.copies != 2
    | none => true

/-- R138: the AUTO rule for one entry at a turn, and the structures that it changes. -/
def State.autoEntry (s : State) (job : Nat) (e : DirEntry) (x : SlotSum) : State × List Nat :=
  if x.conflict then (s.dirErr job 3 e.index, [])
  else if x.saturated then (s.dirErr job 1 e.index, [])
  else match e.table.bind (s.structAt job) with
    | none => (s, [])
    | some t =>
      let old := s.devNat (t.base + t.copyOff t.cur) 4
      let sc := e.newScale x (val32 old)
      if x.count < max e.nMin 1 || sc.code32 == old then (s, []) else (s.rescaleEntry job e sc, e.structs)

/-! ### Staged updates (R137, R183) -/

/-- R137: the fill generation of an entry's staging rope is after STAGE_SEEN. -/
def State.staged (s : State) (e : DirEntry) : Bool :=
  (s.flag e.stage).gen.toNat != e.seen && s.flagReached e.stage (BitVec.ofNat 32 e.seen)

/-- R137: the staging copies of an entry go to the free copies, and STAGE_SEEN is recorded. -/
def State.applyStaged (s : State) (job : Nat) (e : DirEntry) : State :=
  let s1 := e.structs.foldl (fun t w =>
    match t.structAt job w with
    | none => t
    | some x => t.putCopy job w x (t.copyBytes x 2)) s
  s1.putDir job (64 + 64 * e.index + 44) (leBytes 4 (s.flag e.stage).gen.toNat)

/-- R183: an adapter set receives its staging copy in its free copy on every die, and is on probation. -/
def State.applyAdapter (s : State) (job epoch : Nat) (x : AdaptEntry) : State :=
  let free := 1 - x.cur
  let s1 := (s.replicas job x.base (3 * x.stride)).foldl (fun t a =>
    t.devPut (a + free * x.stride) (t.devGet (a + 2 * x.stride) x.bytes)) s
  s1.putDir job (0x1000 + 64 + 64 * x.index + 8) (leBytes 4 ((epoch + 1) % 2 ^ 32) ++ leBytes 1 (free + 2) ++ leBytes 3 0)

/-! ### Verdicts (R185 to R187) -/

/-- What the adapter side of a turn has come to: the state, the structures whose headers step 4 writes, and whether it has written headers
of adapter sets. -/
structure AdaptPart where
  state : State
  flips : List Nat
  wrote : Bool

/-- Add to a 32-bit device field of the adapter directory. -/
def State.bumpDir (s : State) (job a off : Nat) : State :=
  s.putDir job (0x1000 + off) (leBytes 4 ((s.devNat (a + off) 4 + 1) % 2 ^ 32))

/-- R186: the structures of the scale entries of the PROBE entries. -/
def State.probeStructs (s : State) (d : Nat) : List Nat :=
  let es := s.dirEntries d
  ((s.adaptEntries (d + 0x1000)).filter (·.probe)).flatMap fun x => ((es.find? fun e => e.index == x.scale).map DirEntry.structs).getD []

/-- R186: PROBE entries turn back to their previous copy; the headers of their tables and links follow in step 4. -/
def State.rollBack (s : State) (job epoch d : Nat) : State :=
  let a := d + 0x1000
  let since := (epoch + 1) % 2 ^ 32
  let s1 := ((s.adaptEntries a).filter (·.probe)).foldl (fun t x =>
    t.putDir job (0x1000 + 64 + 64 * x.index + 8) (leBytes 4 since ++ leBytes 1 (1 - x.cur) ++ leBytes 3 0)) s
  (s1.putDir job (0x1000 + 20) (leBytes 1 0)).bumpDir job a 32

/-- R186: a candidate is kept. -/
def State.keepCandidate (s : State) (job a : Nat) : State :=
  let s1 := ((s.adaptEntries a).filter (·.probe)).foldl (fun t x =>
    t.putDir job (0x1000 + 64 + 64 * x.index + 12) (leBytes 1 x.cur)) s
  (s1.putDir job (0x1000 + 20) (leBytes 1 0)).bumpDir job a 28

/-- What the header of an adapter directory says of its candidate. -/
structure Probe where
  probation : Bool
  taint : Bool
  due : Bool
  overdue : Bool
  arrived : Bool
  deriving DecidableEq, Repr

/-- R186, R187: the probe of a job at the turn from an epoch. -/
def State.probe (s : State) (a epoch : Nat) : Probe :=
  let p := s.devNat (a + 4) 1
  let since := s.devNat (a + 36) 4
  let seen := s.devNat (a + 44) 4
  let flag := s.devNat (a + 12) 2 % 4096
  let e := BitVec.ofNat 32 epoch
  ⟨s.devNat (a + 20) 1 == 1, (s.devNat (a + 21) 1).testBit 0, atOrAfter e (BitVec.ofNat 32 (since + p - 1)),
    atOrAfter e (BitVec.ofNat 32 (since + 4 * p - 1)),
    (s.flag flag).gen.toNat != seen && s.flagReached flag (BitVec.ofNat 32 seen)⟩

/-- R186: a verdict is taken at this turn. -/
def Probe.takes (p : Probe) : Bool := p.arrived && (!p.probation || p.due)

/-- R187: no verdict has come in time. -/
def Probe.late (p : Probe) : Bool := !p.takes && p.probation && p.overdue

/-- R186: the verdict record keeps the candidate. -/
def State.keeps (s : State) (a r : Nat) (p : Probe) : Bool :=
  let tol := val32 (s.devNat (a + 8) 4)
  p.probation && !p.taint && 1 ≤ s.devNat (r + 2) 2 && s.devNat (r + 4) 4 == s.devNat (a + 40) 4 && p.due &&
    (val32 (s.devNat (r + 12) 4)).le (fmul (val32 (s.devNat (r + 8) 4)) (fadd (Val.ofNat 1) tol))

/-- R187: the ERR codes of a verdict; the last written stands, and it is TAINTED at every verdict with TAINT set (R189). -/
def State.verdictErrs (s : State) (job r : Nat) (p : Probe) : State :=
  let put := fun (t : State) c => t.putDir job (0x1000 + 22) (leBytes 1 c)
  let s1 := if p.probation then s else put s 4
  let s2 := if s.devNat r 2 == 8 then s1 else put s1 5
  if p.taint then put s2 3 else s2

/-- R186: the scale keeper takes a verdict. -/
def State.takeVerdict (s : State) (job epoch d : Nat) (p : Probe) : AdaptPart :=
  let a := d + 0x1000
  let w := s.devNat (a + 16) 4 % 2 ^ 28
  let flag := s.devNat (a + 12) 2 % 4096
  let r := (s.replicas job w 64).headD 0
  let keep := s.keeps a r p
  let back := !keep && p.probation && p.due
  let s1 := s.verdictErrs job r p
  let s2 := if keep then s1.keepCandidate job a else if back then s1.rollBack job epoch d else s1
  let s3 := (s2.putReplicas job w 16 (leBytes 4 (if keep then 0x3F800000 else 0))).putDir job (0x1000 + 44)
    (leBytes 4 (s.flag flag).gen.toNat)
  ⟨(s3.putDir job (0x1000 + 21) (leBytes 1 0)).advance job (flag + 1) 1, if back then s.probeStructs d else [], back⟩

/-- R187: the candidate is rolled back for want of a verdict. -/
def State.verdictLate (s : State) (job epoch d : Nat) : AdaptPart :=
  ⟨(s.rollBack job epoch d).putDir job (0x1000 + 21) (leBytes 2 0x0201), s.probeStructs d, true⟩

/-- R183: the staged candidate of a job comes into force and goes on probation, if there is one. -/
def State.applyCandidate (s : State) (job epoch d : Nat) : AdaptPart :=
  let a := d + 0x1000
  let xs := s.adaptEntries a
  let es := s.dirEntries d
  let bound := xs.filterMap fun x => (es.find? fun e => e.index == x.scale).map fun e => (x, e)
  let apply := bound.filter fun p => s.staged p.2 && !s.notDouble job p.2
  match apply.head? with
  | none => ⟨s, [], false⟩
  | some h =>
    let s1 := apply.foldl (fun t p => (t.applyStaged job p.2).applyAdapter job epoch p.1) s
    let s2 := (s1.putDir job (0x1000 + 20) (leBytes 1 1)).putDir job (0x1000 + 36)
      (leBytes 4 ((epoch + 1) % 2 ^ 32) ++ leBytes 4 (s.flag h.2.stage).gen.toNat)
    ⟨(s2.bumpDir job a 24).advance job (h.2.stage + 1) 1, apply.flatMap fun p => p.2.structs, true⟩

/-! ### The turn (R136) -/

/-- R183, R186, R187: the adapter side of a turn. -/
def State.adaptTurn (s : State) (job epoch d : Nat) : AdaptPart :=
  if !(s.job job).adaptDir then ⟨s, [], false⟩
  else
    let p := s.probe (d + 0x1000) epoch
    if p.takes then s.takeVerdict job epoch d p
    else if p.late then s.verdictLate job epoch d
    else if !p.probation && !p.taint then s.applyCandidate job epoch d
    else ⟨s, [], false⟩

/-- R183: the scale directory entries bound to adapter sets. -/
def State.boundEntries (s : State) (job d : Nat) : List Nat :=
  if (s.job job).adaptDir then (s.adaptEntries (d + 0x1000)).map (·.scale) else []

/-- R137, R138: one entry of the scale directory at a turn, not bound to an adapter set, and the structures that it changes. `x` are its
statistics, from epoch 1 on. -/
def State.turnEntry (s : State) (job : Nat) (e : DirEntry) (x : Option SlotSum) : State × List Nat :=
  if (e.auto || e.learned) && s.notDouble job e then (s.dirErr job 2 e.index, [])
  else if e.learned && s.staged e then ((s.applyStaged job e).advance job (e.stage + 1) 1, e.structs)
  else match e.auto, x with
    | true, some y => s.autoEntry job e y
    | _, _ => (s, [])

/-- R138, R141: an entry that is bound to an adapter set, which a turn treats with its candidate, is ignored and reported where one of
its structures has COPIES 1. -/
def State.boundEntry (s : State) (job : Nat) (e : DirEntry) : State :=
  if (e.auto || e.learned) && s.notDouble job e then s.dirErr job 2 e.index else s

/-- R136 step 5: FROM of a structure lies 2^30 or more behind an epoch. -/
def farBehind (epoch since : Nat) : Bool :=
  let d := (epoch + 2 ^ 32 - since) % 2 ^ 32
  2 ^ 30 ≤ d && d < 2 ^ 31

/-- R136 step 5: structures whose FROM lies far behind are brought up to the epoch. -/
def State.refreshEntry (s : State) (job epoch : Nat) (e : DirEntry) : State × Bool :=
  e.structs.foldl (fun acc w =>
    match acc.1.structAt job w with
    | some t => if farBehind epoch t.since then (acc.1.putHeader job w epoch (t.cur % 2), true) else acc
    | none => acc) (s, false)

/-- R136 step 5, R183: and adapter entries. -/
def State.refreshAdapter (s : State) (job epoch : Nat) (x : AdaptEntry) : State × Bool :=
  if farBehind epoch x.since then
    (s.putDir job (0x1000 + 64 + 64 * x.index + 8) (leBytes 4 epoch ++ leBytes 1 (x.cur + 2 * b2n x.probe) ++ leBytes 3 0), true)
  else (s, false)

/-- A step over a list that also tells whether any of it did something. -/
def runAll {α : Type} (f : State → α → State × Bool) (xs : List α) (s : State × Bool) : State × Bool :=
  xs.foldl (fun acc x => let r := f acc.1 x
    (r.1, acc.2 || r.2)) s

/-- R136 step 5: the adapter sets that are brought up to the epoch where their FROM lies far behind. -/
def State.refreshList (s : State) (job d : Nat) (x : State × Bool) : List AdaptEntry :=
  if (s.job job).adaptDir then x.1.adaptEntries (d + 0x1000) else []

/-- R136 steps 2 and 3: the entries of the scale directory at a turn, with the sums of their statistics by index, and the structures that
they change; `skip` are the entries bound to adapter sets. -/
def State.turnEntries (s : State) (job : Nat) (es : List DirEntry) (sums : List (Nat × SlotSum)) (skip : List Nat) : State × List Nat :=
  es.foldl (fun (acc : State × List Nat) e =>
    if skip.contains e.index then (acc.1.boundEntry job e, acc.2)
    else
      let r := acc.1.turnEntry job e ((sums.find? fun p => p.1 == e.index).map (·.2))
      (r.1, acc.2 ++ r.2)) (s, [])

/-- R136: the turn of a job from an epoch to the next. TURNS counts on from what the directory holds; the spec does not say where it starts
(DESIGN CHOICE, assumption 72). -/
def State.turn (s : State) (job epoch d : Nat) : State :=
  let es := s.dirEntries d
  let k := fun (e : DirEntry) => e.slot / 2 * 2 + (epoch + 1) % 2
  let autos := if 1 ≤ epoch then es.filter (·.auto) else []
  let sums := autos.map fun e => (e.index, s.slotSum job (k e))
  let s1 := autos.foldl (fun t e => t.clearSlot job (k e)) s
  let r1 := s1.adaptTurn job epoch d
  let r2 := r1.state.turnEntries job es sums (s1.boundEntries job d)
  let flips := r1.flips ++ r2.2
  let r3 := runAll (fun t e => t.refreshEntry job epoch e) es (r2.1.flip job epoch flips, r1.wrote || !flips.isEmpty)
  let r4 := runAll (fun t y => t.refreshAdapter job epoch y) (s.refreshList job d r3) r3
  let s2 := r4.1.putDir job 8 (leBytes 4 ((s.devNat (d + 8) 4 + 1) % 2 ^ 32) ++ leBytes 4 ((epoch + 1) % 2 ^ 32))
  let s3 := s2.putJob job { s2.job job with turnPending := none, turnsDone := epoch + 1 }
  if r4.2 then s3.keepWeights job ((epoch + 1) % 2 ^ 32) else s3

/-- R136 step 2: a command of the job latched at the epoch before is not complete. -/
def State.latchedBefore (s : State) (job epoch : Nat) : Bool :=
  1 ≤ epoch && s.cmds.any fun c => c.job == job && !c.rejected && c.live && c.epoch == (epoch - 1) % 2 ^ 32

/-- TURN (R136): the pending turn of a job, once every command of the epoch before has completed. It is firmware's, so it waits while
that pauses (R441, R464). -/
def execTurn (job : Nat) (s : State) : Out :=
  if s.fwPaused then .next s
  else match (s.job job).turnPending, s.dirBase job with
  | some e, some d => .next (if s.latchedBefore job e then s else (s.turn job e d).track)
  | some e, none => .next (s.putJob job { s.job job with turnPending := none, turnsDone := e + 1 })
  | none, _ => .next s

end Sys2Proof.Machine
end

