-- ==== Sys2Proof/Machine/Display.lean ====
section
/-!
DEFINITION. The display engine (R51 to R53, R66 to R71, R247 to R273): the frame calendar, the tile state tables, stand-in
tiles, scan-out, the tile store, the display commands, genlock, and configuration changes.
-/

-- One declaration at a time: the threads of a parallel elaboration take memory together.
set_option Elab.async false

namespace Sys2Proof.Machine

/-! ### Configuration in force (R271) -/

/-- The registers of DISP that go to shadow copies (R271). -/
def dispShadow : List Nat :=
  [0x04C, 0x050, 0x054, 0x058, 0x05C, 0x060, 0x064, 0x068, 0x06C, 0x070, 0x074, 0x078, 0x07C, 0x090, 0x094, 0x098, 0x09C,
    0x0DC, 0x0E0, 0x0E4]

/-- The registers of a DPTX page that go to shadow copies (R271). -/
def dptxShadow : List Nat := [0x044, 0x048, 0x054]

/-- The registers that take effect at the next frame (R271). -/
def frameShadow : List Nat := [0x080, 0x084, 0x088, 0x08C]

def DpOut.fresh : DpOut :=
  ⟨false, false, false, 0, 0, false, false, false, 0, false, false, [], false, 0, [], [], [], false, false, none, []⟩

def State.out (s : State) (i : Nat) : DpOut := s.outs.get i DpOut.fresh

def State.putOut (s : State) (i : Nat) (o : DpOut) : State := { s with outs := s.outs.set i o }

/-- R276: the factory CSC table is the identity with zero offsets. -/
def cscFactory (k : Nat) : Word := if k == 0 || k == 4 || k == 8 then 0x3F800000 else 0

/-- The shadow copy of entry `k` of an output's CSC table. -/
def DpOut.cscEntry (o : DpOut) (k : Nat) : Word := SMap.get o.csc k (cscFactory k)

/-- Where the configuration in force keeps entry `k` of the CSC table of output `i`: past the page's registers. -/
def cscKey (i k : Nat) : Nat := Blk.dptx.base i + 0x800 + 4 * k

/-- A register of output `i` in the configuration in force. -/
def State.ocfg (s : State) (i off : Nat) : Nat :=
  match s.disp.active.find? (Blk.dptx.base i + off) with
  | some v => v.toNat
  | none => s.resetValue .dptx i off

/-- Entry `k` of the CSC table in force. -/
def State.ocsc (s : State) (i k : Nat) : Nat := (s.disp.active.get (cscKey i k) (cscFactory k)).toNat

/-- R248: outputs that are enabled. -/
def State.outputs (s : State) : List Nat :=
  (List.range (Config.outputs s.variant)).filter fun i => (s.page .dptx i).enable

/-- R271: the shadow set as a configuration. -/
def State.shadowSet (s : State) : SMap Word :=
  let put := fun (m : SMap Word) (b : Blk) (i off : Nat) => m.set (b.base i + off) (BitVec.ofNat 32 (s.reg b i off))
  let m := dispShadow.foldl (fun m o => put m .disp 0 o) s.disp.active
  (List.range (Config.outputs s.variant)).foldl (fun m i =>
    let m1 := dptxShadow.foldl (fun m o => put m .dptx i o) m
    (List.range 12).foldl (fun m k => m.set (cscKey i k) ((s.out i).cscEntry k)) m1) m

/-- R271: the registers that take effect at the next frame are taken over. -/
def State.latchFrame (s : State) : State :=
  let put := fun (m : SMap Word) (b : Blk) (i off : Nat) => m.set (b.base i + off) (BitVec.ofNat 32 (s.reg b i off))
  let m := frameShadow.foldl (fun m o => put m .disp 0 o) s.disp.active
  let n := (List.range (Config.outputs s.variant)).foldl (fun m i => put m .dptx i 0x058) m
  let on := (SMap.get n (Blk.disp.base 0 + 0x080) 0).getLsbD 31
  let g := s.disp.genlock
  let t := { s with disp := { s.disp with
    active := n
    genlock := { g with sync := if on then max 1 g.sync else 0, good := if on then g.good else 0 } } }
  -- R257: leaving LOCKED sets LOCK_LOST
  if g.sync == 2 && !on then t.irq .disp 0 0b10000 else t

/-! ### The calendar (R250 to R252) -/

/-- The sum of two fractions of ticks. -/
def addFrac (a b : Nat × Nat) : Nat × Nat := if a.2 == b.2 then (a.1 + b.1, a.2) else (a.1 * b.2 + b.1 * a.2, a.2 * b.2)

/-- R251: the row pitch of the frames to come. -/
def State.rowPitch16 (s : State) : Nat :=
  if !s.windowLayout || s.outputs.all fun i => bits (s.dcfg (0x090 + 4 * i)) 29 16 == 0 then
    roundFrac (4096 * s.lineNum) s.lineDen
  else 0

/-- R256: MAX_ADJ and SYNC_DIV. -/
def State.maxAdj (s : State) : Nat := bits (s.dcfg 0x080) 19 14
def State.syncDiv (s : State) : Nat := max 1 (min 8 (bits (s.dcfg 0x080) 23 20))
/-- R256: MODE 1 is genlock. -/
def State.genlocked (s : State) : Bool := (s.dcfg 0x080).testBit 31

/-- R256: the correction in lines of a frame that is published now, from the residual in lines times `den`. -/
def adjustment (residual : Int) (den maxAdj : Nat) : Int :=
  max (-(maxAdj : Int)) (min (maxAdj : Int) (-(roundInt (residual < 0) residual.natAbs den 0)))

/-- The next frame to be planned (R251, R256), and the residual after it. -/
def State.nextEntry (s : State) : CalEntry × Int :=
  let prev := s.disp.entries.getLast?
  let start := match prev with
    | some e => addFrac (e.num, e.den) (e.vTotal * s.lineNum, s.lineDen)
    | none => s.disp.anchor
  let f := match prev with
    | some e => e.frame + 1
    | none => s.disp.begun
  let adj := if s.genlocked && !s.fwPaused && (s.disp.genlock.sync == 1 || s.disp.genlock.sync == 2) then
      adjustment s.disp.genlock.residual s.lineNum s.maxAdj else 0
  let early := 16 * s.lineNum * start.2
  ({ frame := f, deadline := (start.1 * s.lineDen - early) / (start.2 * s.lineDen) % 2 ^ 64, scanStart := start.1 / start.2
     rowPitch := s.rowPitch16, vTotal := ((s.vTotal : Int) + adj).toNat, num := start.1, den := start.2
     published := !s.disp.hold }, s.disp.genlock.residual + adj * (s.lineNum : Int))

/-- R252: the calendar entry in DRAM. -/
def State.writeCal (s : State) (e : CalEntry) : State :=
  s.devPut (s.stateBase + s.buffers * 16384 + e.frame % 4 * 32)
    (leBytes 8 e.frame ++ leBytes 8 e.deadline ++ leBytes 8 e.scanStart ++ leBytes 4 e.rowPitch ++ leBytes 4 e.vTotal)

/-- R251, R252, R270: the next frame is planned, and published unless the device is in HOLD. -/
def State.planFrame (s : State) : State :=
  let p := s.nextEntry
  let e := p.1
  let t := { s with disp := { s.disp with
    entries := s.disp.entries ++ [e]
    cal := if e.published then s.disp.cal.set (e.frame % 4) e else s.disp.cal
    genlock := { s.disp.genlock with residual := p.2 } } }
  if e.published then t.writeCal e else t

/-- The number of the next frame to be planned. -/
def State.nextFrame (s : State) : Nat :=
  match s.disp.entries.getLast? with
  | some e => e.frame + 1
  | none => s.disp.begun

/-- CALENDAR_PUBLISH (R252): a frame is published once the fetch of the frame four before it has begun; a committed
configuration stops publication (R271). -/
def execCalendarPublish (s : State) : Out :=
  if s.disp.running && !s.disp.stopping && s.disp.committed.isNone && s.nextFrame < s.disp.begun + 4 then
    .next s.planFrame
  else .next s

/-- The planned entry of a frame. -/
def State.plan (s : State) (f : Nat) : Option CalEntry := s.disp.entries.find? fun e => e.frame == f

/-! ### Tile state tables (R66, R67, R254, R255) -/

/-- R67, R254: the entries of a bound frame's table: OPEN with zero KIND, STATUS, PROT, OSD and SV. -/
def openEntry (f e : Nat) : Nat := setBits (setBits (e % 2 ^ 46 / 2 ^ 42 * 2 ^ 42) 63 60 1) 39 32 (f % 256)

/-- R234: the marks that the raster engine has kept for a frame are set in its table. -/
def State.applyMarks (s : State) (f : Nat) : State :=
  match SMap.find? s.raster.marks f with
  | none => s
  | some m =>
    let t := m.1.foldl (fun (u : State) k => u.putEntry f k (setBits (u.entry f k) 46 46 1)) s
    let u := { t with raster := { t.raster with marks := SMap.erase t.raster.marks f } }
    if m.2 then u.putHead f 27 1 (u.head f 27 1 ||| 8) else u

/-- R47, R67: the tile groups of a step that were cancelled before its frame's table was reset are entered in it. -/
def State.enterLate (s : State) (f step : Nat) : State :=
  (s.groups.filter fun g => g.step == step && g.cancelled).foldl (fun (u : State) g =>
    u.putEntry f g.tile (setBits (setBits (u.entry f g.tile) 63 60 7) 55 48 8)) s

/-- R254: the table of a frame with a bound step is reset, and BOUND set. -/
def State.bindFrame (s : State) (f step : Nat) (e : CalEntry) : State :=
  let t := (List.range s.tileCount).foldl (fun (u : State) k => u.putEntry f k (openEntry f (u.entry f k))) s
  let id := (s.step? step).elim 0 (·.stepId)
  let late := (s.step? step).elim 0 (·.cancelled)
  let u := ((((((t.putHead f 0 8 f).putHead f 8 8 e.deadline).putHead f 28 2 0).putHead f 30 2 (min late 0xFFFF)).putHead f 48 8
    e.scanStart).putHead f 56 4 id).putHead f 27 1 ((t.head f 27 1 &&& 0x07) ||| 0x10)
  (u.enterLate f step).applyMarks f

/-- The bound step of a frame. -/
def State.boundStep (s : State) (f : Nat) : Option Nat := (s.disp.bound.find? fun b => b.1 == f).map (·.2)

/-- FRAME_BIND (R254): after the scan-out of frame G - B + 1. -/
def execFrameBind (frame : Nat) (s : State) : Out :=
  match s.boundStep frame, s.plan frame with
  | some u, some e =>
    if s.disp.running && !s.disp.hold && s.directPath frame && !s.boundHeader frame then .next (s.bindFrame frame u e)
    else .next s
  | _, _ => .next s

/-- R255: the table of a frame without a bound step. -/
def State.prepareUnbound (s : State) (f : Nat) (e : CalEntry) : State :=
  let t := (List.range s.tileCount).foldl (fun (u : State) k => u.putEntry f k (2 ^ 60)) s
  let old := s.devGet (s.table (f - 1)) 64
  let keep := fun a n => (old.drop a).take n
  let head := leBytes 8 f ++ leBytes 8 e.deadline ++ keep 16 11 ++ [0] ++ leBytes 4 0 ++ keep 32 16 ++
    leBytes 8 e.scanStart ++ leBytes 4 0 ++ keep 60 4
  t.devPut (t.table f) (if f == 0 then leBytes 8 f ++ leBytes 8 e.deadline ++ leBytes 32 0 ++ leBytes 8 e.scanStart ++
    leBytes 8 0 else head)

/-- Frames whose scan-out has ended are bound no longer, and closed steps that no frame is bound to are forgotten. -/
def State.tidySteps (s : State) : State :=
  let bound := s.disp.bound.filter fun b => s.disp.scanned ≤ b.1
  let gone := (s.steps.filter fun x => x.closed && !(bound.any fun b => b.2 == x.uid)).map (·.uid)
  gone.foldl State.dropStep { s with disp := { s.disp with bound := bound } }

/-- R270, R271: every table is reset to FREE, and no frame is bound. -/
def State.freeTables (s : State) : State :=
  let one := fun (t : State) (b : Nat) =>
    let a := t.stateBase + b * 16384
    (t.devClear (a + 64) 16320).devPut (a + 27) (leBytes 1 (t.devNat (a + 27) 1 &&& 0xEF))
  let t := (List.range s.buffers).foldl one s
  { t with disp := { t.disp with bound := [], noPrev := some t.disp.begun } }.tidySteps

/-! ### Stand-in tiles (R70, R71) -/

/-- SV_X and SV_Y of a tile entry as codes. -/
def svX (e : Nat) : Nat := bits e 31 16
def svY (e : Nat) : Nat := bits e 15 0
/-- R190: a reserved SQ12.4 code. -/
def svReserved (c : Nat) : Bool := 0x8000 ≤ c && c ≤ 0x800F
/-- R71: a component of a stand-in vector rounded to canvas pixels. -/
def svRound (c : Nat) : Int := let v := signed 16 c
  roundInt (v < 0) v.natAbs 16 0

/-- R70: frame F - 1 counts for frame F: its table is in its buffer and no change of configuration lies between. -/
def State.prevCounts (s : State) (f : Nat) : Bool :=
  0 < f && s.disp.noPrev != some f && s.head (f - 1) 0 8 == f - 1

/-- R70: tile `t` of frame F - 1 is SHOWN. -/
def State.prevShown (s : State) (f t : Nat) : Bool := s.prevCounts f && entryState (s.entry (f - 1) t) == 9

/-- The canvas columns or rows that a shifted read of `[lo, hi)` touches, as the first and the last. -/
def shifted (lo hi n : Nat) (d : Int) : Nat × Nat :=
  let cl := fun (x : Int) => min x.toNat (n - 1)
  (cl ((lo : Int) - d), cl ((hi : Int) - 1 - d))

/-- R70: the tiles that the shifted read of a tile touches are SHOWN in F - 1. -/
def State.shiftShown (s : State) (f t e : Nat) : Bool :=
  let x0 := t % max 1 s.columns * 256
  let y0 := t / max 1 s.columns * 256
  let xs := shifted x0 (min s.canvasW (x0 + 256)) s.canvasW (svRound (svX e))
  let ys := shifted y0 (min s.canvasH (y0 + 256)) s.canvasH (svRound (svY e))
  [ys.1 / 256, ys.2 / 256].all fun j => [xs.1 / 256, xs.2 / 256].all fun i => s.prevShown f (j * s.columns + i)

/-- R70: the stand-in kind of a tile. -/
def State.standInKind (s : State) (f t : Nat) : Nat :=
  let e := s.entry f t
  let far := fun c => 64 * 16 < (signed 16 c).natAbs
  let source := if s.head f 32 8 == 0 then 4 else 3
  if !(s.head f 27 1).testBit 4 || (s.head f 27 1).testBit 0 || !s.prevShown f t then source
  else if e.testBit 47 || e.testBit 46 || svReserved (svX e) || svReserved (svY e) then 2
  else if far (svX e) || far (svY e) || !s.shiftShown f t e then source
  else 1

/-- R68, R70, R73: a tile at the deadline of its row. -/
def State.showTile (s : State) (f t : Nat) : State :=
  let e := s.entry f t
  if entryState e == 6 then s.setTileState f t 9
  else
    let k := s.standInKind f t
    let u := s.putEntry f t (setBits (setBits e 63 60 10) 59 56 k)
    let n := u.head f 28 2
    ((u.putHead f 28 2 (min (n + 1) 0xFFFF)).bump .disp 0 (0x0C0 + 4 * (k - 1)) 1).pulse .disp 0 0x10 1 none

/-- The canvas tiles of row `r`. -/
def State.canvasRow (s : State) (r : Nat) : List Nat := (List.range s.columns).map fun k => r * s.columns + k

/-- R269: stored tiles of a row are discarded at its deadline. -/
def State.dropStored (s : State) (f r : Nat) : State :=
  { s with disp := { s.disp with
    store := s.disp.store.filter fun x => !(x.frame == f && s.rowOf x.tile == r) } }

/-- R68: the display engine acts on row `r` of frame `f`. -/
def State.showRow (s : State) (f r : Nat) : State :=
  let t := (s.canvasRow r).foldl (fun (u : State) k => u.showTile f k) (s.dropStored f r)
  { t with disp := { t.disp with
    rowsDone := r + 1
    rowSrc := t.disp.rowSrc.set r ⟨t.head f 32 8, t.head f 40 2, t.head f 42 2, t.head f 44 4⟩ } }

/-! ### The pixels and the digests of a frame (R315) -/

/-- R248: the canvas origin of what output `i` shows. -/
def State.origin (s : State) (i : Nat) : Nat × Nat :=
  if s.windowLayout then (bits (s.dcfg (0x090 + 4 * i)) 13 0, bits (s.dcfg (0x090 + 4 * i)) 29 16) else (0, 0)

/-- Where line `y` of output `i` is kept: in CLONE layout one stream serves every output (R248, R258). -/
def State.lineKey (s : State) (i y : Nat) : Nat := (if s.windowLayout then 16384 * i else 0) + y

/-- R315, R317: frame `f` is hashed as it is sent: CAIRN_EN is set, and the device is not in HOLD. -/
def State.recordsFrame (s : State) (f : Nat) : Bool :=
  s.cairnEn && s.cairn.firstFrame ≤ f && !s.disp.held && s.devState != 5

/-- R315: the output whose stream hashes canvas pixel (x, y): in WINDOW layout the lowest-numbered enabled one whose window covers it. -/
def State.hashedBy (s : State) (x y : Nat) : Option Nat :=
  if !s.windowLayout then some 0
  else s.outputs.find? fun i =>
    let o := s.origin i
    o.1 ≤ x && x < o.1 + s.hActive && o.2 ≤ y && y < o.2 + s.vActive

/-- R315: canvas pixel (x, y) as it was sent; none when no window covers it, or its line has not been sent. -/
def State.sentPixel (s : State) (x y : Nat) : Option Nat :=
  (s.hashedBy x y).bind fun i =>
    (s.cairn.lines.find? (s.lineKey i (y - (s.origin i).2))).bind fun px => px[x - (s.origin i).1]?

/-- R315: the digest of tile `t` of the frame being scanned. -/
def State.tileDigest (s : State) (t : Nat) : List Byte :=
  let x0 := t % s.columns * 256
  let y0 := t / s.columns * 256
  let rows := (List.range (min 256 (s.canvasH - y0))).flatMap fun y =>
    (List.range (min 256 (s.canvasW - x0))).flatMap fun x => ((s.sentPixel (x0 + x) (y0 + y)).map (leBytes 4)).getD []
  if rows.isEmpty then List.replicate 32 0 else sha256 rows

/-- R315: the last line of every stream of the frame being fetched has been sent. -/
def State.linesSent (s : State) : Bool := s.outputs.all fun i => (s.cairn.lines.find? (s.lineKey i (s.vActive - 1))).isSome

/-- R315: no more of the frame being fetched is sent: its record takes the tile digests. -/
def State.sealCairn (s : State) : State :=
  let tiles := (List.range s.tileCount).map s.tileDigest
  { s with cairn := { s.cairn with
    lines := [], due := s.cairn.due.map fun d => if d.tiles.isNone then { d with tiles := some tiles } else d } }

/-! ### The fetch of a frame (R251, R255, R262, R270) -/

/-- R270: the buffer whose table shows every tile SHOWN for the highest frame number. -/
def State.holdBuffer (s : State) : Option Nat :=
  let whole := (List.range s.buffers).filter fun b =>
    (List.range s.tileCount).all fun t => entryState (s.devNat (s.stateBase + b * 16384 + 64 + 8 * t) 8) == 9
  whole.foldl (fun acc b =>
    match acc with
    | none => some b
    | some c => if s.devNat (s.stateBase + c * 16384) 8 < s.devNat (s.stateBase + b * 16384) 8 then some b else some c) none

/-- R262: the SDP set that ingest captured with its newest source frame. -/
def State.newestCapture (s : State) : List (List Byte) :=
  match s.ingest.frames with
  | f :: _ => f.sdps
  | [] => []

/-- The fetch of frame `f` can begin: it is the next one, planned, and the frame before it has been fetched. -/
def State.canBegin (s : State) (f : Nat) : Bool :=
  s.disp.running && !s.disp.stopping && f == s.disp.begun && s.disp.scanned == s.disp.begun && (s.plan f).isSome

/-- R251, R255, R270: the fetch of frame `f` begins at its deadline. -/
def State.beginFetch (s : State) (f : Nat) (e : CalEntry) : State :=
  let held := s.disp.hold && s.disp.holdFrom ≤ f
  let s1 := (s.sealCairn.at e.deadline).latchFrame
  let t := { s1 with disp := { s1.disp with
    begun := f + 1
    entries := s.disp.entries.filter fun x => f ≤ x.frame
    rowsDone := 0, scanBegun := false, rowSrc := [], held := held
    captured := s.newestCapture
    holdBuf := if (s.reg .disp 0 0x088).testBit 0 then none else s.holdBuffer } }
  let u := t.irq .disp 0 0b1
  if held then u
  else (u.boundStep f).elim (u.prepareUnbound f e) fun step => if u.boundHeader f then u else u.bindFrame f step e

/-- The display engine's part of the deadline of row `r` of frame `f`; none when it is not due. -/
def State.dispRow (s : State) (f r : Nat) : Option State :=
  match s.plan f with
  | none => none
  | some e =>
    if r == 0 then
      (if s.canBegin f then
        let t := s.beginFetch f e
        some (if t.disp.held then t else t.showRow f 0)
      else none)
    else if f + 1 == s.disp.begun && s.disp.rowsDone == r && !s.disp.held && r < s.rows then
      some ((s.at (e.deadline + r * e.rowPitch / 16)).showRow f r)
    else none

/-- The frame that is being fetched. -/
def State.curFrame (s : State) : Option Nat := if s.disp.begun == 0 then none else some (s.disp.begun - 1)

/-! ### Scan start (R261, R262, R265, R267) -/

/-- R267: whether a source frame arrived protected, and its type, by sequence number. -/
def State.sourceProt (s : State) (seq : Nat) : Bool × Bool :=
  match (s.ingest.cur.toList ++ s.ingest.frames).find? fun f => f.seq.toNat == seq with
  | some f => (f.prot, f.prot && f.ctype)
  | none => (false, false)

/-- R267: the protection and the type of what a header's frame shows. -/
def State.headerProt (s : State) (a : Nat) : Bool × Bool :=
  let x := s.sourceProt (s.devNat (a + 16) 4)
  let y := s.sourceProt (s.devNat (a + 20) 4)
  (x.1 || y.1, x.2 || y.2)

/-- R267, R270: the protection and the type of the frame being scanned. -/
def State.frameProt (s : State) : Bool × Bool :=
  if s.disp.held then
    (match s.disp.holdBuf with
     | some b => s.headerProt (s.stateBase + b * 16384)
     | none => (false, false))
  else match s.curFrame with
    | some f => s.headerProt (s.table f)
    | none => (false, false)

/-- R267: an output that is authenticated for a content type. -/
def DpOut.authFor (o : DpOut) (type1 : Bool) : Bool := o.hdcp == 3 || (o.hdcp == 2 && !type1)

/-- R267: an output sends code 0, or encrypts, as the frame being scanned demands. -/
def State.guardOut (s : State) (i : Nat) : State :=
  let p := s.frameProt
  let o := s.out i
  let blocked := p.1 && !o.authFor p.2
  let t := s.putOut i { o with
    blocked := blocked
    encrypting := o.streaming && o.authFor p.2 && (p.1 || (s.ocfg i 0x058).testBit 0) }
  if blocked then t.irq .dptx i 0b1000000 else t

/-- R262: the set of SDPs that frame `f` sends: with SRC 0, that of the last DISP_META accepted for it or an earlier frame. -/
def State.metaFor (s : State) (f : Nat) : List (List Byte) :=
  let src := bits (s.dcfg 0x08C) 1 0
  let set := if src == 0 then
      (match (s.disp.metas.filter fun m => m.frame ≤ f).getLast? with
       | some m => m.records
       | none => [])
    else if src == 1 then s.disp.captured else []
  set.filter fun r => r.getD 1 0 != 0x07

/-- R262: what the VSC SDP of an output says: encoding, bits per component, colorimetry and range. -/
def State.vscOf (s : State) (i : Nat) : List Nat :=
  let p := s.ocfg i 0x048
  [bits p 4 4, bits p 3 0, bits p 15 8, bits p 5 5]

/-- R250: the main stream attributes: active size, totals, and the sync positions and widths of TIMING_HS and TIMING_VS. -/
def State.msaOf (s : State) : List Nat := [s.hActive, s.vActive, bits (s.dcfg 0x06C) 31 16, s.vTotal, s.dcfg 0x074, s.dcfg 0x078]

/-- R250, R262, R265: an output starts the frame: one whose link is trained sends video from its first active line on. -/
def State.startOut (s : State) (i : Nat) : State :=
  let o := s.out i
  let t := s.putOut i { o with
    streaming := o.trained && o.hpd
    resumes := false
    vsc := if o.trained && o.hpd then s.vscOf i else o.vsc
    msa := if o.trained && o.hpd then s.msaOf else o.msa }
  t.guardOut i

/-! ### Display commands (R268) -/

/-- R268: the commands that run in queue order. -/
def State.dispHead (s : State) : Option Cmd :=
  match (s.fifo .display).filter fun c => c.opcode != 0x7003 with
  | c :: _ => if s.fenced c || !s.stepReady c || (s.page .disp 0).faulted then none else some c
  | [] => none

/-- R268: the set of an installed DISP_META has been sent for its frame, or a later frame is due. -/
def State.metaSent (s : State) (c : Cmd) : Bool :=
  c.num 16 8 + 1 < s.disp.begun || (c.num 16 8 + 1 == s.disp.begun && s.disp.scanBegun)

/-- R268: the head of the display queue completes when what it waits for has happened, and so on. -/
def State.pumpDisp : Nat → State → State
  | 0, s => s
  | n + 1, s =>
    match s.dispHead with
    | some c =>
      if (c.opcode == 0x7001 && c.progress == 2 && s.metaSent c) ||
          (c.opcode == 0x7002 && c.progress == 2 && s.scanEnded (c.num 16 8 : Nat)) then
        State.pumpDisp n (s.endCmd c.uid .ok 0)
      else s
    | none => s

def State.pumpDisplay (s : State) : State := State.pumpDisp (s.inQueue .display).length s

/-- A DISP command that is at the head goes on as `go` says, unless it waits already for what completes it. -/
def State.dispOp (s : State) (uid op : Nat) (go : State → Cmd → State) : State :=
  match s.dispHead with
  | none => s
  | some c => if c.uid != uid || c.opcode != op || c.progress == 2 then s.pumpDisplay else (go s c).pumpDisplay

/-- A DISP command has started, and waits for what completes it. -/
def State.dispWaits (s : State) (c : Cmd) : State := (s.starts c).putCmd { c with progress := 2 }

/-- A DISP_META ends as its acceptance found, or waits until its set has been sent (R268). -/
def State.metaOp (s : State) (c : Cmd) : State :=
  if c.progress == 0 then s.dispWaits c
  else if c.progress == 1 then s.endCmd c.uid .late 0
  else if c.progress % 16 == 3 then s.faultWith c.uid .ecc 0x34 ⟨c.acceptedAt, c.progress / 16, 1⟩
  else s.endCmd c.uid .badOperand (c.progress / 16)

/-- DISP_META (R268). -/
def execDispMeta (uid : Nat) (s : State) : Out := .next (s.dispOp uid 0x7001 State.metaOp)

/-- A DISP_FRAME_WAIT is checked, and waits (R268). -/
def State.frameWaitOp (s : State) (c : Cmd) : State :=
  if c.num 8 8 != 0 || c.num 24 40 != 0 then s.endCmd c.uid .badOperand 0x04 else s.dispWaits c

/-- DISP_FRAME_WAIT (R268). -/
def execDispFrameWait (uid : Nat) (s : State) : Out := .next (s.dispOp uid 0x7002 State.frameWaitOp)

/-- FRAME_SCAN_START (R262): the frame being fetched sends its SDPs, and FRAME_OUT pulses. -/
def execFrameScanStart (s : State) : Out :=
  match s.curFrame with
  | none => .next s
  | some f =>
    match s.plan f with
    | none => .next s
    | some e =>
      if s.disp.scanBegun || !s.disp.running then .next s
      else
        let t := s.at e.scanStart
        let u := { t with disp := { t.disp with scanBegun := true, sent := t.metaFor f, frameOut := some e.scanStart } }
        .next ((u.outputs.foldl State.startOut u).pumpDisplay)

/-! ### DISP_COMMIT and the tile store (R269) -/

/-- R269: the rows of a tile that lie within the canvas, as bytes, from its 256 rows of 1 KiB at an address. -/
def State.tileRows (s : State) (t a : Nat) : List (List Byte) :=
  let w := min 256 (s.canvasW - t % max 1 s.columns * 256)
  let h := min 256 (s.canvasH - t / max 1 s.columns * 256)
  (List.range h).map fun y => s.devGet (a + 1024 * y) (4 * w)

/-- Where row `y` of a tile lies in the canvas buffer of frame `f`. -/
def State.canvasAt (s : State) (f t y : Nat) : Nat :=
  s.canvasBase + f % s.buffers * s.bufStride + (t / max 1 s.columns * 256 + y) * s.canvasPitch + t % max 1 s.columns * 1024

/-- R269: rows of a tile are written into the canvas buffer of its frame. -/
def State.writeTile (s : State) (f t : Nat) (rows : List (List Byte)) : State :=
  s.putAll (((List.range rows.length).zip rows).map fun r => (s.canvasAt f t r.1, r.2))

/-- R269: a tile store slot's address. -/
def State.slotAt (s : State) (k : Nat) : Nat := s.storeBase + 262144 * k

/-- The frame of a command's step when its step is bound. -/
def State.frameOf (s : State) (c : Cmd) : Option Nat := (s.stepOf c).bind (·.frame)

/-- The failing checks of a DISP_COMMIT (R268). -/
def State.commitFails (s : State) (c : Cmd) (g : Nat) : List (Status × Nat) :=
  failIf (!c.commonRsvd false || c.num 24 4 / 2 ^ 28 != 0 || c.num 28 36 != 0) .badOperand 0x04 ++
    failIf (s.tileCount ≤ c.tile) .badOperand 0x05 ++ failIf (s.frameOf c).isNone .badOperand 0x02 ++
    failIf (s.addr c g (c.num 24 4 % 2 ^ 28) 262144).isNone .badOperand 0x01

/-- R269: the bytes of tile memory that a commit of tile `t` reads at an address: the pixels within the canvas. -/
def State.commitReads (s : State) (t a : Nat) : List (Nat × Nat) :=
  let w := min 256 (s.canvasW - t % max 1 s.columns * 256)
  let h := min 256 (s.canvasH - t / max 1 s.columns * 256)
  (List.range h).map fun y => (a + 1024 * y, 4 * w)

/-- R53: the pixels of a tile are in the canvas buffer. -/
def State.markCommitted (s : State) (step : Option Nat) (tile : Nat) : State :=
  match step.bind fun u => s.group? u tile with
  | some g => s.putGroup { g with committed := true }
  | none => s

/-- R268, R269: a commit reads its tile over the route from its die, and moves it into the canvas buffer, or into a free tile store slot;
without either, or while the route holds its flits (R292), it waits. -/
def State.commit (s : State) (c : Cmd) (f a : Nat) : State :=
  let rows := s.tileRows c.tile a
  let route := s.hubRoute (s.engineOf c / 2)
  let t := (s.starts c).correctReads .disp 0 (s.commitReads c.tile a)
  if route == 0 then (s.starts c).endCmd c.uid .link 0x21
  else if route == 1 then s
  else match (s.commitReads c.tile a).findSome? fun r => s.firstBad r.1 r.2, s.freeStoreSlot with
  | some w, _ => (s.starts c).faultCmd c.uid .ecc 0x30 w
  | none, k =>
    if s.directPath f then ((t.writeTile f c.tile rows).markCommitted c.step c.tile).endCmd c.uid .ok 0
    else match k with
    | none => s
    | some k =>
      let u := t.putAll (((List.range rows.length).zip rows).map fun r => (s.slotAt k + 1024 * r.1, r.2))
      let x : StoredTile := ⟨k, f, c.tile⟩
      { u with disp := { u.disp with store := u.disp.store ++ [x] } }.endCmd c.uid .ok 0

/-- DISP_COMMIT (R269). -/
def execDispCommit (uid : Nat) (s : State) : Out :=
  match s.cmd? uid with
  | none => .next s
  | some c =>
    let g := s.engineOf c
    if !(c.opcode == 0x7003 && c.place == .queued .display) || s.fenced c || !s.stepReady c || !s.groupTurn c || !s.waitMet c ||
        (s.page .disp 0).faulted then .next s
    else if s.waitPoisoned c then .next (s.endCmd uid .ecc 0)
    else match lowestCause (s.commitFails c g), s.frameOf c, s.addr c g (c.num 24 4 % 2 ^ 28) 262144 with
      | some f, _, _ => .next (s.endCmd uid f.1 f.2)
      | none, some f, some a => .next (s.commit c f a)
      | none, _, _ => .next s

/-- R269, R67: a stored tile is in its canvas buffer: its group's tile is settled. -/
def State.settleStored (s : State) (f t : Nat) : State :=
  match (s.boundStep f).bind s.step? with
  | none => s
  | some x => (s.markCommitted (some x.uid) t).reviewGroup x t

/-- R269: the DRAM that a store copy of tile `t` reads in its slot, with the place in the canvas buffer of frame `f` of each row. -/
def State.copyRows (s : State) (slot f t : Nat) : List ((Nat × Nat) × Nat) :=
  ((List.range 256).zip (s.commitReads t (s.slotAt slot))).map fun r => (r.2, s.canvasAt f t r.1)

/-- R269, R274, R283: a stored tile is copied. The copy corrects single-bit errors; an uncorrectable word is recorded, and makes one of
its copy (DEDUCED, assumption 69). -/
def State.copyTile (s : State) (slot f t : Nat) : State :=
  let rows := s.copyRows slot f t
  let u := (s.writeTile f t (s.tileRows t (s.slotAt slot))).correctReads .disp 0 (rows.map (·.1))
  let v := { u with badWords := rows.foldl (fun ws r => copyWords ws r.1.1 r.2 r.1.2) u.badWords }
  match rows.findSome? fun r => s.firstBad r.1.1 r.1.2 with
  | some w => v.err .disp 0 2 0 w
  | none => v

/-- TILE_STORE_COPY (R269): a stored tile goes to its canvas buffer once the scan-out of frame G - B + 1 has ended. -/
def execTileStoreCopy (slot : Nat) (s : State) : Out :=
  match s.disp.store.find? fun x => x.slot == slot with
  | none => .next s
  | some x =>
    if !s.directPath x.frame || s.disp.hold then .next s
    else
      let t := s.copyTile slot x.frame x.tile
      let u := { t with disp := { t.disp with store := t.disp.store.filter fun y => y.slot != slot } }
      .next (u.settleStored x.frame x.tile)

/-! ### Scan-out (R258 to R261) -/

/-- The addresses of the 64 B blocks that a pixel is read from, and its code when none of them holds an uncorrectable word. -/
def State.bufPixel (s : State) (b x y : Nat) : List Nat × Nat :=
  let a := s.canvasBase + b * s.bufStride + y * s.canvasPitch + 4 * x
  ([a / 64 * 64], s.devNat a 4)

/-- R71: pixel (x, y) of a canvas of `cw` by `ch` from a frame of `w` by `h` scaled to it, component codes read by `code`. The exact value
is rounded once to a UN10 code, to nearest with ties to even; the spec states no rounding (DESIGN CHOICE, assumption 67). -/
def scaledPixel (code : Nat → Nat → Nat → Nat) (w h cw ch x y : Nat) : Nat :=
  let d := 2 * cw * ch
  let px : Int := ((2 * x + 1) * w * ch : Nat)
  let py : Int := ((2 * y + 1) * h * cw : Nat)
  let chan := fun k => roundFrac (bilinear (code k) w h px py d) (4 * d * d)
  chan 0 * 2 ^ 20 + chan 1 * 2 ^ 10 + chan 2

/-- The texels that a scaled pixel reads. -/
def scaledTexels (w h cw ch x y : Nat) : List (Nat × Nat) :=
  let d : Int := (2 * cw * ch : Nat)
  let i := (2 * ((2 * x + 1) * w * ch : Nat) - d) / (2 * d)
  let j := (2 * ((2 * y + 1) * h * cw : Nat) - d) / (2 * d)
  [(texel i w, texel j h), (texel (i + 1) w, texel j h), (texel i w, texel (j + 1) h), (texel (i + 1) w, texel (j + 1) h)]

/-- R71: a pixel of the stand-in source frame scaled to the canvas, as the header named that frame at the deadline of the pixel's row
(R69). -/
def State.sourcePixel (s : State) (x y : Nat) : List Nat × Nat :=
  let q := s.disp.rowSrc.get (y / 256) ⟨0, 0, 0, 0⟩
  let at_ := fun (k i j : Nat) => q.addr + k * q.pitch * q.h + j * q.pitch + 2 * i
  ([0, 1, 2].flatMap fun k => (scaledTexels q.w q.h s.canvasW s.canvasH x y).map fun p => at_ k p.1 p.2 / 64 * 64,
    scaledPixel (fun k i j => s.devNat (at_ k i j) 2 % 1024) q.w q.h s.canvasW s.canvasH x y)

/-- R71: canvas pixel (x, y) of frame `f` in a stand-in tile of a kind: shifted, the previous frame's, the source's, or
zero. -/
def State.standInPixel (s : State) (f x y kind : Nat) (dx dy : Int) : List Nat × Nat :=
  let prev := (f + s.buffers - 1) % s.buffers
  match kind with
  | 1 => s.bufPixel prev (min ((x : Int) - dx).toNat (s.canvasW - 1)) (min ((y : Int) - dy).toNat (s.canvasH - 1))
  | 2 => s.bufPixel prev x y
  | 3 => s.sourcePixel x y
  | _ => ([], 0)

/-- R71: canvas pixel (x, y) of frame `f` as it is shown. -/
def State.shownPixel (s : State) (f x y : Nat) : List Nat × Nat :=
  let e := s.entry f (y / 256 * s.columns + x / 256)
  if entryState e == 9 then s.bufPixel (f % s.buffers) x y
  else s.standInPixel f x y (bits e 59 56) (svRound (svX e)) (svRound (svY e))

/-- R270: canvas pixel (x, y) of the frame being scanned. -/
def State.scanRead (s : State) (f x y : Nat) : List Nat × Nat :=
  if s.disp.held then
    (match s.disp.holdBuf with
     | some b => s.bufPixel b x y
     | none => ([], 0))
  else s.shownPixel f x y

/-- R260, R295: a pixel that needs a block with an uncorrectable word shows code 0, and is answered with the block's address. -/
def State.scanPixel (s : State) (f x y : Nat) : Nat × Option Nat :=
  let q := s.scanRead f x y
  match q.1.find? fun a => s.badIn a 64 with
  | some a => (0, some a)
  | none => (q.2, none)

/-- R261: the component codes of a canvas pixel on output `i`. -/
def State.convert (s : State) (i px : Nat) : List Nat :=
  let v := (pxCodes 0 px).map fun c => fdiv (Val.ofNat c) (Val.ofNat 1023)
  let m := fun k => val32 (s.ocsc i k)
  let at_ := fun k => v.getD k .zero
  let fmt := if bits (s.ocfg i 0x048) 3 0 == 12 then Fmt.un12 else Fmt.un10
  [0, 1, 2].map fun j =>
    let y := fadd (fadd (fadd (fmul (m (3 * j)) (at_ 0)) (fmul (m (3 * j + 1)) (at_ 1))) (fmul (m (3 * j + 2)) (at_ 2))) (m (9 + j))
    (fmt.narrow 0 y).code

/-- R258: LOW_WM, 2 to 12. -/
def State.lowWm (s : State) : Nat := max 2 (min 12 (bits (s.dcfg 0x084) 3 0))

/-- R248, R258: the fetch stream of an output: one for all in the CLONE layout. -/
def State.streamOf (s : State) (i : Nat) : Nat := if s.windowLayout then i else 0

/-- R259, R480: the bound of an URGENT request's latency in ns, 1,103 lengthened by the spread of DRAM_PLL: 1 / (1 - s), with s of 0.25 % and
0.5 %. -/
def State.urgentBound (s : State) : Nat :=
  match s.pins.dramSsc with
  | 0 => 1103
  | 1 => 1106
  | _ => 1109

/-- R259, R303: every port has served URGENT requests: the longest latency is a free value within its bound. -/
def State.urgentServed (s : State) : State :=
  (List.range (Config.ports s.variant)).foldl (fun (t : State) p =>
    let f := t.free
    f.2.setReg .memc p 0x05C (max (f.2.reg .memc p 0x05C) (f.1 % (t.urgentBound + 1)))) s

/-- R258: a stream enters URGENT below LOW_WM complete lines and leaves it at LOW_WM + 4. -/
def State.urgency (s : State) (k level : Nat) : State :=
  if level < s.lowWm then
    (if s.disp.urgent.contains k then s
     else (({ s with disp := { s.disp with urgent := k :: s.disp.urgent } }.edge .disp 0 0x20 (!s.disp.urgent.isEmpty) none).bump .disp 0 0x0D0 1).irq .disp 0 0b100).urgentServed
  else if s.lowWm + 4 ≤ level then { s with disp := { s.disp with urgent := s.disp.urgent.filter (· != k) } }
  else s

/-- R260: a line with missing pixels is counted. -/
def State.underrun (s : State) (i : Nat) : State :=
  (((s.bump .dptx i 0x070 1).pulse .disp 0 0x11 1 none).irq .dptx i 0b10000).irq .disp 0 0b10

/-- R275, R295: the single-bit errors that the fetch of `n` pixels of a line meets are corrected and counted. -/
def State.correctLine (s : State) (f x y n : Nat) : State :=
  if s.softWords.isEmpty then s
  else s.correctReads .disp 0 ((((List.range n).flatMap fun k => (s.scanRead f (x + k) y).1).dedup).map fun a => (a, 64))

/-- R263: what the link carries of a line with DSC on: the coded line, of the target bits per pixel. The standard's encoder is not part of
the spec: a free value (DESIGN CHOICE, assumption 70). -/
def State.codeLine (s : State) (i n : Nat) : State :=
  if (s.out i).dsc then
    let f := s.free
    f.2.putOut i { f.2.out i with coded := some (f.1 % 2 ^ ceilDiv (bits (s.ocfg i 0x054) 29 20 * n) 16) }
  else s.putOut i { s.out i with coded := none }

/-- R260, R315: line `y` of the stream of output `i` of frame `f` is kept as it is sent to the converters, with zeros for what is not
buffered. -/
def State.keepLine (s : State) (i y buffered f : Nat) : State :=
  let k := s.lineKey i y
  if !s.recordsFrame f || (s.cairn.lines.find? k).isSome then s
  else
    let o := s.origin i
    let n := s.hActive
    let px := ((List.range (min n buffered)).map fun x => (s.scanPixel f (o.1 + x) (o.2 + y)).1) ++ List.replicate (n - buffered) 0
    { s with cairn := { s.cairn with lines := s.cairn.lines.set k px } }

/-- R260, R261, R263, R267: line `y` of output `i`, of which `buffered` pixels are in the line buffer. -/
def State.sendLine (s : State) (i y buffered f : Nat) : State :=
  let o := s.origin i
  let n := s.hActive
  let px := (List.range (min n buffered)).map fun x => s.scanPixel f (o.1 + x) (o.2 + y)
  let blocked := (s.out i).blocked
  let codes := (px.flatMap fun p => if blocked || p.2.isSome then [0, 0, 0] else s.convert i p.1) ++
    List.replicate (3 * (n - buffered)) 0
  let t := ((s.putOut i { s.out i with line := codes }).codeLine i n).correctLine f o.1 (o.2 + y) (min n buffered)
  match px.findSome? (·.2) with
  | some a => (t.underrun i).err .disp 0 2 0 a
  | none => if buffered < n then t.underrun i else t

/-- R68: the rows of canvas that output `i` needs for its line `y` have been acted on. -/
def State.lineKnown (s : State) (i y : Nat) : Bool :=
  s.disp.held || ((s.origin i).2 + y) / 256 < s.disp.rowsDone

/-- LINE_SCAN (R260): line `y` of output `out` is due; `buffered` of its pixels are in the line buffer, which then holds
`level` complete lines. -/
def execLineScan (out y buffered level : Nat) (s : State) : Out :=
  match s.curFrame with
  | none => .next s
  | some f =>
    match s.plan f with
    | none => .next s
    | some e =>
      if !(s.disp.running && s.disp.scanBegun && s.outputs.contains out && y < s.vActive && s.lineKnown out y) then .next s
      else
        let t := s.at ((e.num * s.lineDen + y * s.lineNum * e.den) / (e.den * s.lineDen))
        let u := (t.urgency (t.streamOf out) level).keepLine out y buffered f
        .next (if (u.out out).streaming then u.sendLine out y buffered f else u)

/-! ### The record of a frame (R314 to R317) -/

/-- R314: D_SRC and the hint digest of a source frame; the spec states none for a frame that was not hashed. -/
def State.sourceDigests (s : State) (seq k : Nat) : List Byte × List Byte :=
  let free := fun i => leBytes 32 (Config.freeValue (s.freeCount + k + i))
  match (s.ingest.frames ++ s.ingest.cur.toList).find? fun x => x.seq.toNat == seq with
  | some x => (if x.dSrc.isEmpty then free 0 else x.dSrc, x.dHint)
  | none => (free 0, free 1)

/-- R316: CANON: the canvas job has no adapter directory, or its ADAPT_JOB used only the canonical tree. -/
def State.canonical (s : State) : Bool :=
  let j := s.canvasJob
  match (s.job j).adaptDir, s.dirBase j with
  | true, some d => !(s.job (s.devNat (d + 0x1000 + 6) 1 % 64)).placed
  | _, _ => true

/-- R316: the KIND nibble of a tile: 0 when shown. -/
def State.kindNibble (s : State) (f t : Nat) : Nat :=
  if t < s.tileCount && entryState (s.entry f t) != 9 then bits (s.entry f t) 59 56 else 0

/-- R313: D_WEIGHTS of a job at an epoch; without directories it is the digest of D_STATIC. -/
def Job.dWeightsAt (j : Job) (epoch : Nat) : List Byte :=
  if j.scaleDir || j.adaptDir then j.weightsOf epoch else sha256 j.weights

/-- R315 to R317: what the cairn record of frame `f` holds, taken at the end of its scan-out. -/
def State.cairnDue (s : State) (f : Nat) (e : CalEntry) : CairnDue :=
  let h := s.table f
  let j := s.job s.canvasJob
  let fl := s.head f 27 1
  let step := (s.boundStep f).bind s.step?
  let a := s.sourceDigests (s.head f 16 4) 0
  let b := s.sourceDigests (s.head f 20 4) 2
  let epoch := (step.map (·.epoch)).getD 0
  let flags := fl % 8 + 8 * b2n (fl.testBit 4) + 16 * b2n ((step.map (·.isVariable)).getD false) +
    32 * b2n s.canonical + 64 * b2n (!(j.progSealed && j.weightsSealed))
  { frame := f
    front := leBytes 2 0x000E ++ leBytes 2 1536 ++ leBytes 1 s.canvasJob ++ s.devGet (h + 26) 1 ++ leBytes 1 flags ++
      leBytes 1 (bits (s.reg .sec 0 0x040) 26 26) ++ leBytes 8 0 ++ leBytes 8 f ++ leBytes 8 e.scanStart ++
      leBytes 4 ((step.map (·.stepId)).getD 0) ++ s.devGet (h + 16) 8 ++ s.devGet (h + 24) 2 ++
      leBytes 2 s.tileCount ++ s.devGet (h + 28) 4 ++ leBytes 4 epoch ++ leBytes 8 0
    digests := [j.prog, j.dWeightsAt epoch, a.1, b.1, sha256 (a.2 ++ b.2),
      (step.map (·.aux)).getD (List.replicate 32 0)]
    kinds := (List.range 1024).map fun k =>
      BitVec.ofNat 8 (s.kindNibble f (2 * k) + 16 * s.kindNibble f (2 * k + 1))
    tiles := none }

/-- R317: a frame scanned while CAIRN_EN is set, and not in HOLD, is due a record. -/
def State.captureCairn (s : State) (f : Nat) (e : CalEntry) : State :=
  if s.recordsFrame f then
    { s with cairn := { s.cairn with due := s.cairn.due ++ [s.cairnDue f e] }, freeCount := s.freeCount + 4 }
  else s

/-- R254, R270: the rows of the frame being fetched have all been acted on. -/
def State.rowsOver (s : State) : Bool := s.disp.held || s.rows ≤ s.disp.rowsDone

/-- SCAN_OUT_END (R254): the last active line of the frame being fetched has been fetched. -/
def execScanOutEnd (s : State) : Out :=
  match s.curFrame with
  | none => .next s
  | some f =>
    match s.plan f with
    | none => .next s
    | some e =>
      if !(s.disp.running && s.disp.scanned == f && s.rowsOver) then .next s
      else
        let last := (e.num * s.lineDen + (s.vActive - 17) * s.lineNum * e.den) / (e.den * s.lineDen)
        let t := (s.at last).bump .disp 0 0x0BC 1
        let t := t.captureCairn f e
        let u := { t with disp := { t.disp with scanned := f + 1 } }.tidySteps
        .next u.pumpDisplay

/-! ### Genlock (R256, R257) -/

/-- R256: the planned frame whose scan start lies nearest a tick. -/
def State.nearest (s : State) (t : Nat) : Option CalEntry :=
  s.disp.entries.foldl (fun acc e =>
    let d := fun (x : CalEntry) => (timeFrom t x.scanStart).natAbs
    match acc with
    | none => some e
    | some b => if d e < d b then some e else some b) none

/-- R256: corrections of the frames from `k` on, in lines: they move later scan starts only. -/
def State.adjFrom (s : State) (k : Nat) : Int :=
  ((s.disp.entries.filter fun e => k ≤ e.frame).map fun e => (e.vTotal : Int) - (s.vTotal : Int)).sum

/-- R257: SYNC_STATE at an edge, from the state before, the residual's size in lines times `den`, and the count of edges
within one line. -/
def syncNext (old : Nat) (size den good : Nat) : Nat :=
  match old with
  | 2 => if 2 * den < size then 1 else 2
  | 3 => 1
  | _ => if 8 ≤ good then 2 else 1

/-- FRAME_SYNC_EDGE (R256): an edge of the selected polarity, past the glitch filter, at the present time; R483 takes
the filter time off it. -/
def execFrameSyncEdge (s : State) : Out :=
  if !(s.disp.running && s.genlocked) then .next s
  else
    let edge := ticksSince s.now (s.filterTicks .sync)
    let offset := bits (s.dcfg 0x080) 13 0
    match s.nearest (edge + offset * s.lineNum / s.lineDen) with
    | none => .next s
    | some k =>
      let n := s.lineNum
      let r : Int := timeFrom edge k.scanStart * (s.lineDen : Int) - (offset * n : Nat) + s.adjFrom k.frame * (n : Int)
      let g := s.disp.genlock
      let good := if r.natAbs ≤ n then g.good + 1 else 0
      let st := syncNext g.sync r.natAbs n good
      let err := roundInt (r < 0) (16 * r.natAbs) n 0
      let t := { s with disp := { s.disp with genlock := ⟨st, r, err, good, s.now⟩ } }
      .next (if st == 2 && g.sync != 2 then t.irq .disp 0 0b1000
        else if st != 2 && g.sync == 2 then t.irq .disp 0 0b10000 else t)

/-- GENLOCK_HOLDOVER (R257): no edge within 2 × SYNC_DIV frame periods. -/
def execGenlockHoldover (s : State) : Out :=
  let g := s.disp.genlock
  if !(s.disp.running && s.genlocked) || g.sync == 3 then .next s
  else
    let due := g.lastEdge + 2 * s.syncDiv * s.vTotal * s.lineNum / s.lineDen
    let t := { s.at due with disp := { s.disp with genlock := { g with sync := 3, good := 0 } } }
    .next (if g.sync == 2 then t.irq .disp 0 0b10000 else t)

/-! ### Configuration commits (R247 to R250, R264, R271) -/

/-- A register of the shadow set as a number. -/
def shadowOf (m : SMap Word) (b : Blk) (i off : Nat) : Nat := (m.get (b.base i + off) 0).toNat

/-- R263: payload of a link on 4 lanes by rate code, in units of 10 Mbit/s. -/
def payload10 (rate : Nat) : Nat := [518, 864, 1728, 2592, 3879, 5236, 7758].getD rate 0

/-- R264, R276: a configuration fits an output. -/
def outputFits (m : SMap Word) (i ht ha vt va khz : Nat) : Bool :=
  let link := shadowOf m .dptx i 0x044
  let fmt := shadowOf m .dptx i 0x048
  let dsc := shadowOf m .dptx i 0x054
  let bpc := bits fmt 3 0
  let on := dsc.testBit 31
  let x16 := if on then bits dsc 29 20 else 48 * bpc
  let lanes := 2 ^ bits link 4 3
  let slices := bits dsc 19 15
  let sliceH := bits dsc 14 0
  (bpc == 10 || bpc == 12) && bits link 7 5 ≤ 6 && bits link 4 3 ≤ 2 &&
    x16 * ha * va * khz * 1000 * 400 ≤ 96 * payload10 (bits link 7 5) * 10000000 * lanes * 16 * ht * vt &&
    (!on || (128 ≤ x16 && x16 ≤ 48 * bpc && 1 ≤ slices && slices ≤ 16 && ha % slices == 0 && 1 ≤ sliceH && va % sliceH == 0 &&
      ceilDiv (ha * khz) (ht * 1000000) ≤ slices))

/-- R247 to R250, R264, R271: the reason that a shadow set fails its check, with the output for reason 5. -/
def State.cfgReason (s : State) (m : SMap Word) : Option Nat :=
  let d := shadowOf m .disp 0
  let w := bits (d 0x04C) 31 16
  let h := bits (d 0x04C) 15 0
  let ctrl := d 0x050
  let pitch := d 0x05C
  let stride := d 0x060
  let ht := bits (d 0x06C) 31 16
  let ha := bits (d 0x06C) 15 0
  let vt := bits (d 0x070) 31 16
  let va := bits (d 0x070) 15 0
  let khz := d 0x07C
  let window := ctrl.testBit 4
  let canvas := 256 ≤ w && w ≤ 15360 && w % 8 == 0 && 256 ≤ h && h ≤ 8640 && ceilDiv w 256 * ceilDiv h 256 ≤ 2040 &&
    pitch % 64 == 0 && 4 * w ≤ pitch && stride % 65536 == 0 && pitch * h ≤ stride && (bits ctrl 2 0 == 3 || bits ctrl 2 0 == 4)
  let streams := if window then s.outputs.length else 1
  let budget := ha * va * khz * 1000 * streams ≤ 8000000000 * ht * vt && ha * khz * 1000 * streams ≤ 9600000000 * ht
  let inside := if window then s.outputs.all fun i =>
      let o := d (0x090 + 4 * i)
      bits o 13 0 % 8 == 0 && bits o 13 0 + ha ≤ w && bits o 29 16 + va ≤ h
    else ha == w && va == h
  let timing := 640 ≤ ha && ha ≤ 15360 && ha % 8 == 0 && ha + 80 ≤ ht && 480 ≤ va && va ≤ 8640 && va + 24 ≤ vt &&
    khz ≤ 16000000 && khz * 1000 ≤ 240 * ht * vt
  let j := s.job (bits ctrl 13 8)
  let bad := s.outputs.find? fun i => !outputFits m i ht ha vt va khz
  if !canvas then some 1
  else if !budget then some 2
  else if !inside then some 3
  else if !timing then some 4
  else match bad with
    | some i => some (5 + i * 256)
    | none => if ctrl.testBit 14 && j.valid && j.ceiling != 0 then some 6 else none

/-- CFG_COMMIT (R271): a write of 1 to COMMIT; ignored while a commit awaits effect. -/
def State.cfgCommit (s : State) : State :=
  if s.disp.committed.isSome then s
  else
    let m := s.shadowSet
    match s.cfgReason m with
    | some r =>
      let t := (s.err .disp 0 1 r 0).irq .disp 0 0b10000000
      -- R276: the output that reason 5 names
      if r % 256 == 5 then t.err .dptx (r / 256) 1 0 0 else t
    | none => { s with disp := { s.disp with committed := some m } }

/-- CFG_COMMIT (R271). -/
def execCfgCommit (s : State) : Out := if s.hostWrites .disp 0 then .next s.cfgCommit else .next s

/-- R265, R271: the link of an enabled output is trained anew. -/
def State.retrain (s : State) (i : Nat) : State :=
  let o := s.out i
  if o.hpd then s.putOut i { o with trained := false, training := true, streaming := false, hdcp := 0 } else s

/-- R271: a committed set with the registers that take effect at the next frame as they are in force by now. -/
def State.settled (s : State) (m : SMap Word) : SMap Word :=
  let keys := frameShadow.map (Blk.disp.base 0 + ·) ++ (List.range (Config.outputs s.variant)).map fun i => Blk.dptx.base i + 0x058
  keys.foldl (fun (n : SMap Word) k => match s.disp.active.find? k with
    | some v => n.set k v
    | none => n) m

/-- CFG_TAKE_EFFECT (R271): at the end of the last published frame the committed set takes effect. -/
def State.takeEffect (s : State) (m : SMap Word) : State :=
  let old := s.disp.active
  let start := match s.disp.entries.getLast? with
    | some e => addFrac (e.num, e.den) (e.vTotal * s.lineNum, s.lineDen)
    | none => s.disp.anchor
  let t := { s.sealCairn with disp := { s.disp with active := s.settled m, committed := none, entries := [], cal := [], anchor := start } }
  let u := t.freeTables.irq .disp 0 0b1000000
  let changed := fun i => dptxShadow.any fun o =>
    SMap.get old (Blk.dptx.base i + o) (BitVec.ofNat 32 (s.resetValue .dptx i o)) != m.get (Blk.dptx.base i + o) 0
  (u.outputs.filter changed).foldl State.retrain u

/-- CFG_TAKE_EFFECT (R271). -/
def execCfgTakeEffect (s : State) : Out :=
  match s.disp.committed with
  | none => .next s
  | some m =>
    if !s.disp.running || (s.disp.scanned == s.disp.begun && s.nextFrame == s.disp.begun) then .next (s.takeEffect m) else .next s

/-! ### HOLD, start and stop (R270, R272) -/

/-- R270: the display engine enters HOLD: stored tiles are discarded and queued commits complete FAILED_POWER_STOP. -/
def State.holdDisplay (s : State) : State :=
  if s.disp.hold then s
  else
    let t := { s with disp := { s.disp with hold := true, holdFrom := s.disp.begun, store := [] } }
    (t.endAll (fun c => c.opcode == 0x7003 && c.place == .queued .display) .powerStop 0).irq .disp 0 0b100000

/-- R270: the display engine leaves HOLD: every table is reset to FREE, and publication resumes. -/
def State.resumeDisplay (s : State) : State :=
  if !s.disp.hold then s
  else { s with disp := { s.disp with hold := false } }.freeTables.irq .disp 0 0b100000

/-- R272: DISP ENABLE is set: timing starts at frame 0 with every table FREE. The spec does not say when the first scan
start falls: a free value past the first deadline. -/
def State.startDisplay (s : State) : State :=
  if s.disp.running then s
  else
    let f := s.free
    let t := f.2
    let u : State := { t with disp := { t.disp with
      running := true, stopping := false, begun := 0, entries := [], cal := [], scanned := 0, rowsDone := 0
      scanBegun := false, held := false, holdFrom := 0
      anchor := (t.now * t.lineDen + 16 * t.lineNum + f.1, t.lineDen)
      genlock := ⟨if t.genlocked then 1 else 0, 0, 0, 0, t.now⟩ } }
    let v := { u with cairn := { u.cairn with firstFrame := 0 } }.latchFrame.freeTables
    -- R257: leaving LOCKED sets LOCK_LOST
    if s.disp.genlock.sync == 2 then v.irq .disp 0 0b10000 else v

/-- R272: DISP ENABLE is cleared: the frame in progress is finished first. -/
def State.stopDisplay (s : State) : State :=
  if s.disp.running then { s with disp := { s.disp with stopping := true } } else s

/-- DISP_TIMING_STOP (R272): the frame in progress has ended: timing stops. -/
def execDispTimingStop (s : State) : Out :=
  if !(s.disp.running && s.disp.stopping && s.disp.scanned == s.disp.begun) then .next s
  else
    let t := { s.sealCairn with disp := { s.disp with
      running := false, stopping := false, entries := [], scanBegun := false, held := false, store := [], bound := [] } }.tidySteps
    let u := t.endAll (fun c => c.place == .queued .display) .unitDisabled 0
    let v := { u with outs := u.outs.map fun (p : Nat × DpOut) => (p.1, { p.2 with streaming := false, blocked := false, encrypting := false }) }
    .next ((v.putPage .disp 0 { v.page .disp 0 with disabling := false }).track)

end Sys2Proof.Machine
end

