-- ==== Sys2Proof/Machine/Deadline.lean ====
section
/-!
DEFINITION. Deadline guards and row deadlines (R45, R47, R48, R68).
-/

-- One declaration at a time: the threads of a parallel elaboration take memory together.
set_option Elab.async false

namespace Sys2Proof.Machine

/-! ### GUARD_FIRE (R45) -/

/-- GUARD_FIRE (R45): GUARD_US before the deadline of row `row` of an open step that has an unfinished tile group there. -/
def execGuardFire (step row : Nat) (s : State) : Out :=
  match s.step? step with
  | none => .next s
  | some x =>
    if x.opened && !x.closed && row ≤ x.lastRow && !x.guardRows.contains row && !x.lateRows.contains row &&
        s.rowUnfinished x row then
      .next ((s.at (x.rowDeadline row + 2 ^ 64 - s.guardTicks)).fireGuard x row).track
    else .next s

/-- R47: the deadline of a row of a step has not been acted on. -/
def Step.rowOpen (x : Step) (r : Nat) : Bool := r ≤ x.lastRow && !x.lateRows.contains r

/-- R47: the scheduler's part of a row deadline, if it is still to come. A closed step that is kept for its frame has one: a tile group
whose last command completed in the deadline's tick counts as cancelled (R68). -/
def State.stepRow (s : State) (x : Step) (r : Nat) : State := if x.rowOpen r then (s.at (x.rowDeadline r)).lateRow x r else s

/-- What follows a change of tile states: the raster engine's items, stalls and the engines' times are brought up to
date. -/
def State.afterRow (s : State) : State := s.settleRaster.resumeStalled.track

/-- The row deadline of a step that is bound to planned frame `f` (R68): the scheduler's part and the display engine's fall in one
tick. In HOLD the display engine takes no part. -/
def State.boundRow (s : State) (x : Step) (f r : Nat) : State :=
  match (s.stepRow x r).dispRow f r with
  | some t => t.afterRow
  | none => if s.disp.held || (s.disp.hold && s.disp.holdFrom ≤ f) then (s.stepRow x r).afterRow else s

/-- ROW_DEADLINE (R47, R68) of row `row` of a step, or, without a step, of the next frame that has none bound. -/
def execRowDeadline (step : Option Nat) (row : Nat) (s : State) : Out :=
  match step with
  | none =>
    let f := if row == 0 then s.disp.begun else s.disp.begun - 1
    if (s.boundStep f).isSome then .next s
    else (match s.dispRow f row with
      | some t => .next t.afterRow
      | none => .next s)
  | some u =>
    match s.step? u with
    | none => .next s
    | some x =>
      match x.frame.bind s.plan with
      | some e => .next (s.boundRow x e.frame row)
      | none => if x.rowOpen row then .next (s.stepRow x row).afterRow else .next s

end Sys2Proof.Machine
end

