-- ==== Sys2Proof/Machine/DpLink.lean ====
section
/-!
DEFINITION. The DP links of the outputs (R263 to R267, R276): hot plug, link training, host AUX transactions and HDCP.
-/

-- One declaration at a time: the threads of a parallel elaboration take memory together.
set_option Elab.async false

namespace Sys2Proof.Machine

/-- R265: output `i` loses its link: LINK_LOSS, and the stream stops. -/
def State.loseOutLink (s : State) (i : Nat) : State :=
  let o := s.out i
  let t := s.putOut i { o with
    trained := false, training := false, streaming := false, resumes := false, hdcp := 0, encrypting := false }
  (t.bump .dptx i 0x074 1).irq .dptx i 0b10

/-- HPD_CHANGE (R265): a loss stops the stream of an output; a return starts link training with its current settings. -/
def execHpdChange (out : Nat) (present : Bool) (s : State) : Out :=
  let o := s.out out
  if !(out < Config.outputs s.variant) || o.hpd == present then .next s
  else
    let t := ((s.filtered .hpd out).putOut out { o with hpd := present }).irq .dptx out 0b1
    .next (if present then t.retrain out else t.loseOutLink out)

/-- DP_LINK_FAIL (R265): the link of an output fails while HPD stays asserted. -/
def execDpLinkFail (out : Nat) (s : State) : Out :=
  let o := s.out out
  if out < Config.outputs s.variant && o.hpd && o.trained then .next (s.loseOutLink out) else .next s

/-- DP_LINK_TRAIN_END (R265): training ends; a trained output sends video again from the next frame on. -/
def execDpLinkTrainEnd (out : Nat) (ok : Bool) (s : State) : Out :=
  let o := s.out out
  if !(out < Config.outputs s.variant && o.hpd && o.training) then .next s
  else if ok then
    let link := s.ocfg out 0x044
    let t := s.putOut out { o with
      training := false, trained := true, resumes := true
      rate := bits link 7 5, lanes := bits link 4 3, dsc := (s.ocfg out 0x054).testBit 31, ssc := link.testBit 2
      -- R263: 8b/10b rates with DSC; R267: authentication starts (DESIGN CHOICE, assumption 70)
      fec := (s.ocfg out 0x054).testBit 31 && bits link 7 5 ≤ 3
      hdcp := if s.dbg.isOpen then 0 else 1 }
    .next (t.irq .dptx out 0b100)
  else
    let t := s.putOut out { o with training := false }
    .next ((t.err .dptx out 2 0 0).irq .dptx out 0b1000)

/-- DPTX_RETRAIN (R276): a write of RETRAIN. -/
def execDptxRetrain (out : Nat) (s : State) : Out :=
  .next (s.host .dptx out fun t => t.retrain out)

/-- HDCP_REAUTH (R276): authentication starts again; with debug access OPEN it is refused (R463). -/
def State.reauth (s : State) (i : Nat) : State :=
  let t := s.putOut i { s.out i with hdcp := if s.dbg.isOpen then 0 else 1, encrypting := false }
  if (t.out i).streaming then t.guardOut i else t

/-- HDCP_REAUTH (R276). -/
def execHdcpReauth (out : Nat) (s : State) : Out :=
  .next (s.host .dptx out fun t => t.reauth out)

/-- HDCP_AUTH_END (R267): authentication ends: 2 for Type 0, 3 for Type 1, anything else a failure, as every one is
while debug access is OPEN (R463); `ids` are the receiver IDs that the output's sink has reported. A protected frame that an output may
now show, or no longer may, is judged anew. -/
def execHdcpAuthEnd (out result : Nat) (ids : List Nat) (s : State) : Out :=
  let o := s.out out
  if !(out < Config.outputs s.variant && o.trained) then .next s
  else
    let ok := (result == 2 || result == 3) && !s.dbg.isOpen
    let t := s.putOut out { o with hdcp := if ok then result else 0, ids := if ok then ids else [] }
    let u := t.irq .dptx out (if ok then 0b100000 else 0b1000000)
    .next (if (u.out out).streaming then u.guardOut out else u)

/-- R267: the receiver ID list that the hub firmware passes upstream: what the authenticated outputs have reported. -/
def State.receiverIds (s : State) : List Nat :=
  (List.range (Config.outputs s.variant)).flatMap fun i => if 2 ≤ (s.out i).hdcp then (s.out i).ids else []

/-! ### AUX (R266, R276) -/

/-- The commands of a host AUX transaction; others NACK without one. -/
def auxCmd (c : Nat) : Bool := c == 0 || c == 1 || c == 4 || c == 5

/-- AUX_START (R266): a write of AUX_CTRL with START; while BUSY it is ignored. -/
def State.auxStart (s : State) (i v : Nat) : State :=
  let o := s.out i
  if o.auxBusy then s
  else
    let t := s.setReg .dptx i 0x05C (v % 2 ^ 28)
    if auxCmd (bits v 23 20) && !s.fwPaused then t.putOut i { o with auxBusy := true }
    else t.putOut i { o with auxResult := 1 }

/-- R441: while firmware pauses, host AUX transactions are NACKed. -/
def State.nackAux (s : State) : State :=
  { s with outs := s.outs.map fun (p : Nat × DpOut) => (p.1, if p.2.auxBusy then { p.2 with auxBusy := false, auxResult := 1 } else p.2) }

/-- AUX_START (R266), with the value written to AUX_CTRL. -/
def execAuxStart (out value : Nat) (s : State) : Out :=
  .next (s.host .dptx out fun t => t.auxStart out value)

/-- Bytes written over the AUX_DATA registers of an output. -/
def State.auxData (s : State) (i : Nat) (bs : List Byte) : State :=
  let old := (List.range 4).flatMap fun k => leBytes 4 (s.reg .dptx i (0x060 + 4 * k))
  let new := bs ++ old.drop bs.length
  (List.range 4).foldl (fun t k => t.setReg .dptx i (0x060 + 4 * k) (leNat ((new.drop (4 * k)).take 4))) s

/-- AUX_REPLY (R266): a host transaction ends with a result (0 ACK, 1 NACK, 2 DEFER limit) and, for a read, its bytes;
without a reply it ends with RESULT 3 after 3 ms. -/
def execAuxReply (out : Nat) (reply : Option (Nat × List Byte)) (s : State) : Out :=
  let o := s.out out
  if !o.auxBusy then .next s
  else
    let ctrl := s.reg .dptx out 0x05C
    match reply with
    | some r =>
      let t := s.putOut out { o with auxBusy := false, auxResult := min r.1 2 }
      .next (if r.1 == 0 && ctrl.testBit 20 then t.auxData out (r.2.take (bits ctrl 27 24 + 1)) else t)
    | none => .next ((s.putOut out { o with auxBusy := false, auxResult := 3 }).err .dptx out 3 0 0)

end Sys2Proof.Machine
end

