-- ==== Sys2Proof/Machine/Hold.lean ====
section
/-!
DEFINITION. HOLD (R379 to R381): its causes, its entry and its exit.
-/

-- One declaration at a time: the threads of a parallel elaboration take memory together.
set_option Elab.async false

namespace Sys2Proof.Machine

/-- The bits of HOLD_CAUSE (R381). -/
def causeCoolant : Nat := 1
def causeThermal : Nat := 2
def causeLink : Nat := 4
def causeHost : Nat := 8

/-- R379: the commands that do not run in HOLD. -/
def Cmd.stopsInHold (c : Cmd) : Bool :=
  match c.unit with
  | some .ne | some .ve | some .xp | some .post | some .me | some .raster => true
  | _ => false

/-- R380, R381: a HOLD cause arises. In HOLD it only sets its bit. -/
def State.enterHold (s : State) (cause : Nat) : State :=
  let t := { s with holdCauses := s.holdCauses ||| cause }
  if s.devState == 5 then t
  else if s.devState == 3 || s.devState == 4 then
    let u := ((t.setDevState 5).endAll Cmd.stopsInHold .powerStop 0).meDrop
    let v := { u with cairn := { u.cairn with afterHold := true } }
    v.holdDisplay.track
  else s

/-- R381: a HOLD cause clears. -/
def State.clearCause (s : State) (cause : Nat) : State :=
  { s with holdCauses := s.holdCauses - (s.holdCauses &&& cause) }

/-- R381: a write of RESUME leaves HOLD when every cause is clear, and is ignored with BUSY while one is set. -/
def State.resumeHold (s : State) : State :=
  if s.holdCauses != 0 then s.err .sec 0 4 0 0
  else if s.devState == 5 then ((s.setDevState (if s.busy then 4 else 3)).resumeDisplay).track
  else s

/-- STATE_CTRL (R381, R401) written: HOLD acts before RESUME. -/
def State.stateCtrlWrite (s : State) (v : Nat) : State :=
  let t := s.setReg .sec 0 0x05C (v &&& 0b101)
  let u := if v.testBit 0 then t.enterHold causeHost else t.clearCause causeHost
  if v.testBit 1 then u.resumeHold else u

/-- STATE_CTRL_HOLD_SET (R381): a write of STATE_CTRL that sets or clears HOLD. -/
def execStateCtrlHoldSet (hold : Bool) (s : State) : Out :=
  .next (s.host .sec 0 fun t => t.stateCtrlWrite ((t.reg .sec 0 0x05C &&& 0b100) + b2n hold))

/-- HOLD_RESUME (R381): a write of STATE_CTRL with RESUME set, HOLD and RELOAD as they stand. -/
def execHoldResume (s : State) : Out :=
  .next (s.host .sec 0 fun t => t.stateCtrlWrite (t.reg .sec 0 0x05C &&& 0b101 ||| 0b010))

end Sys2Proof.Machine
end

