-- ==== Sys2Proof/Machine/HostLink.lean ====
section
/-!
DEFINITION. The host link and what the host writes in the CFE and HIF pages (R324 to R339, R353, R354): link loss and
reconnection, BAR4, apertures, rings and the masks of MSI-X.
-/

-- One declaration at a time: the threads of a parallel elaboration take memory together.
set_option Elab.async false

namespace Sys2Proof.Machine

/-! ### Link loss and reconnection (R353, R354) -/

/-- R353: the records that wait go to the backlog, in production order, when there is one. -/
def State.backlogWaiting (s : State) : State :=
  s.backlogBase.elim (if pairAddr (s.reg .hif 0 0x048) (s.reg .hif 0 0x04C) != 0 then s.err .hif 0 2 0 0 else s)
    fun a => s.waiting.foldl (fun (u : State) r => u.logBack a r) { s with waiting := [] }

/-- R353: an outage begins. -/
def State.startBacklog (s : State) : State := { s with link := { s.link with toBacklog := true } }.backlogWaiting

/-- R353: the link, or only the PCIe tunnel, goes down, and the DP tunnel with it. -/
def State.linkDown (s : State) (whole : Bool) : State :=
  let dp := s.link.dpUp
  let t := { s with link := { s.link with
    state := if whole then 0 else s.link.state
    pcieUp := false, dpUp := false, resumed := false, downAt := s.now } }
  let u := ((t.bump .hif 0 0x054 1).irq .hif 0 (if dp then 0b1001 else 0b0001)).startBacklog
  let v := if dp then u.loseStream else u
  if (v.reg .hif 0 0x044).testBit 0 then v.enterHold causeLink else v

/-- USB4_LINK_DOWN (R353): `whole` tells the loss of the USB4 link from that of the PCIe tunnel alone. -/
def execUsb4LinkDown (whole : Bool) (s : State) : Out :=
  if s.link.pcieUp then .next (s.linkDown whole)
  else if whole && s.link.state != 0 then .next { s with link := { s.link with state := 0 } }
  else .next s

/-- R354, R356: the link and the PCIe tunnel come up in a mode, with the DP tunnel or without. The configuration space is at its reset
values. -/
def State.linkUp (s : State) (mode : Nat) (dp : Bool) : State :=
  let l := s.link
  let t := { s with
    link := { l with state := 2, mode := mode, pcieUp := true, dpUp := dp, session := (l.session + 1) % 2 ^ 16 }
    msix := { s.msix with fmask := false } }
  let u := if l.resumed then t else t.setReg .hif 0 0x058 (min (ticksSince s.now l.downAt / usTicks) (2 ^ 32 - 1))
  u.irq .hif 0 (if dp then 0b1010 else 0b0010)

/-- R356: the DP tunnel comes up while the PCIe tunnel is up. -/
def State.dpTunnelUp (s : State) : State := { s with link := { s.link with dpUp := true } }.irq .hif 0 0b1000

/-- USB4_LINK_UP (R354, R356): the link starts training; or it and the PCIe tunnel come up in a mode, with the DP tunnel or without; or,
where they are up, the DP tunnel alone comes up. -/
def execUsb4LinkUp (training : Bool) (mode : Nat) (dp : Bool) (s : State) : Out :=
  if s.devState < 2 then .next s
  else if training then .next (if s.link.state == 0 then { s with link := { s.link with state := 1 } } else s)
  else if s.link.pcieUp then .next (if dp && !s.link.dpUp then s.dpTunnelUp else s)
  else if 2 < mode || (mode == 2 && !(s.reg .hif 0 0x044).testBit 1) then .next s
  else .next (s.linkUp mode dp)

/-- R339: a mask of vector `v` clears: its pending message is sent if it is still due. -/
def State.unmaskVector (s : State) (v : Nat) : State :=
  if !s.msix.pba.getLsbD v || s.vectorMasked v then s
  else if 2 ≤ v && v < 18 || s.vectorLevel v then s.sendMessage v
  else { s with msix := { s.msix with pba := s.msix.pba &&& ~~~((1 : Word) <<< v) } }

/-- Every vector, after a mask that covers all of them has cleared. -/
def State.unmaskAll (s : State) : State := (List.range 32).foldl State.unmaskVector s

/-- R354: a write of RESUME: the backlog drains into the rings ahead of new records, every credit count is written, and the LINK
cause of HOLD clears (R381). -/
def State.linkResume (s : State) : State :=
  let t := { s with link := { s.link with resumed := true, toBacklog := false } }.clearCause causeLink
  let u := (List.range 16).foldl State.pumpRing t
  ((List.range 16).foldl State.writeCredit u).unmaskAll

/-- LINK_RESUME (R354). -/
def execLinkResume (s : State) : Out :=
  .next (s.host .hif 0 State.linkResume)

/-! ### BAR4 (R327) -/

/-- DRAM port 0 is ready (R303); all ports train together. -/
def State.dramReady (s : State) : Bool := bits (s.reg .memc 0 0x040) 31 30 == 2

/-- R327: a read of BAR4. An uncorrectable word reads as free values; so does DRAM that is not ready. -/
def State.bar4Read (s : State) (off n : Nat) : State :=
  if s.dramBytes < off + n then ({ s with readData := List.replicate n 0 }.err .hif 0 1 0 off)
  else if s.protectedHeld && s.inFrameBuffer off n then { s with readData := List.replicate n 0 }
  else if !s.dramReady || s.badIn off n then
    let f := s.free
    { f.2 with readData := leBytes n f.1 }
  else { s.correctReads .hif 0 [(off, n)] with readData := s.devGet off n }

/-- R327: a write of BAR4. -/
def State.bar4Write (s : State) (off : Nat) (bs : List Byte) : State :=
  if s.dramBytes < off + bs.length then s.err .hif 0 1 0 off
  else if s.dramReady then s.devPut off bs else s

/-- R328: reads of BAR2 return zeros. -/
def State.bar2Read (s : State) (n : Nat) : State := { s with readData := List.replicate n 0 }

/-- BAR4_ACCESS (R327, R328): a write or a read at a BAR4 offset, or a read of BAR2. -/
def execBar4Access (off : Nat) (access : BarAccess) (s : State) : Out :=
  if !s.link.pcieUp then .next s
  else match access with
    | .write bs => .next (s.bar4Write off bs)
    | .read n => .next (s.bar4Read off n)
    | .readBar2 n => .next (s.bar2Read n)

/-! ### Apertures (R334) -/

/-- `CFE.APT_SEL`. -/
def State.aptSel (s : State) : Nat := s.reg .cfe 0 0x040 % 16

/-- R334: clearing EN discards the slots that have landed. -/
def State.disableApt (s : State) (n : Nat) : State :=
  let t := s.putApt n { s.apt n with en := false, heldSince := none }
  { t with aptSlots := SMap.dropKeys t.aptSlots fun k => k / 1024 == n }

/-- APT_CTRL (R334) written for an aperture. -/
def State.aptCtrlWrite (s : State) (n v : Nat) : State :=
  let a := s.apt n
  let en := v.testBit 31
  let ring := bits v 19 16
  if a.en then
    let t := if en then s else s.disableApt n
    if ring != a.ring then t.err .cfe 0 4 0 0 else t
  else s.putApt n { a with en := en, ring := ring }

/-- APT_CTRL_WRITE (R334). -/
def execAptCtrlWrite (value : Nat) (s : State) : Out :=
  .next (s.host .cfe 0 fun t => t.aptCtrlWrite t.aptSel value)

/-- APT_CONSUMED (R334) written for an aperture. -/
def State.aptConsumedWrite (s : State) (n v : Nat) : State :=
  let a := s.apt n
  if a.en then s.err .cfe 0 4 0 0
  else s.putApt n { a with consumed := BitVec.ofNat 32 v, credWritten := BitVec.ofNat 32 v, advancedAt := none }

/-- APT_CONSUMED_WRITE (R334). -/
def execAptConsumedWrite (value : Nat) (s : State) : Out :=
  .next (s.host .cfe 0 fun t => t.aptConsumedWrite t.aptSel value)

/-! ### Rings (R336, R337) -/

/-- RING_CONS (R337) written for a ring. -/
def State.ringConsWrite (s : State) (m v : Nat) : State :=
  (s.putRing m { s.ring m with cons := BitVec.ofNat 32 v }).pumpRing m

/-- RING_CONS_WRITE (R337). -/
def execRingConsWrite (value : Nat) (s : State) : Out :=
  .next (s.host .cfe 0 fun t => t.ringConsWrite t.aptSel value)

/-- RING_CTRL (R336, R357) written for a ring: once EN is set its records leave. -/
def State.ringCtrlWrite (s : State) (m v : Nat) : State :=
  (s.putRing m { s.ring m with ctrl := BitVec.ofNat 32 v &&& 0x801FFFFF }).pumpRing m

/-- RING_CTRL_WRITE (R336). -/
def execRingCtrlWrite (value : Nat) (s : State) : Out :=
  .next (s.host .cfe 0 fun t => t.ringCtrlWrite t.aptSel value)

/-- RING_PROD (R357) written for a ring: writable while EN is 0. -/
def State.ringProdWrite (s : State) (m v : Nat) : State :=
  let r := s.ring m
  if r.en then s else s.putRing m { r with prod := BitVec.ofNat 32 v }

/-! ### MSI-X (R338, R339) -/

/-- A word of the MSI-X table written; the vector's mask may clear. -/
def State.msixWrite (s : State) (k v : Nat) : State :=
  let w := if k % 4 == 3 then v % 2 else v
  { s with msix := { s.msix with table := s.msix.table.set k (BitVec.ofNat 32 w) } }.unmaskVector (k / 4)

/-- MSIX_VECTOR_UNMASK (R339): the mask of a vector clears, or with none the function's. -/
def execMsixVectorUnmask (vector : Option Nat) (s : State) : Out :=
  if !s.link.pcieUp then .next s
  else match vector with
    | some v => if v < 32 && s.answers .hif 0 then .next (s.msixWrite (4 * v + 3) 0) else .next s
    | none => .next ({ s with msix := { s.msix with fmask := false } }.unmaskAll)

end Sys2Proof.Machine
end

