-- ==== Sys2Proof/Machine/Faults.lean ====
section
/-!
DEFINITION. Faults and containment (R93, R428 to R444): watchdogs, disabled and FAULTED blocks, the move of tile groups, the loss
of a die, and hub faults.
-/

-- One declaration at a time: the threads of a parallel elaboration take memory together.
set_option Elab.async false

namespace Sys2Proof.Machine

/-! ### Moving a tile group (R435) -/

/-- The tile of a group is in a state from which it moves; a group of an unbound step has no tile states. -/
def State.movable (s : State) (x : Step) (g : Group) : Bool :=
  match x.frame with
  | none => true
  | some f => !s.boundHeader f || (let e := entryState (s.entry f g.tile); e == 2 || e == 3 || e == 4)

/-- A command of a tile group. -/
def Group.has (g : Group) (c : Cmd) : Bool := c.tiled && c.step == some g.step && c.tile == g.tile

/-- The commands of a group that have ended and have no record yet. -/
def State.endedOf (s : State) (g : Group) : List Cmd :=
  s.cmds.filter fun c => g.has c && (match c.place with | .ended _ _ => true | _ => false)

/-- The records of the commands of a group that have ended are produced (R435: such a command receives its record first). -/
def State.finishGroup (s : State) (g : Group) : State :=
  (s.endedOf g).foldl (fun (t : State) c =>
    match t.cmd? c.uid with
    | some d => (match d.place with
      | .ended st cause => if d.replay then t.endReplay d st else t.produce d st cause
      | _ => t)
    | none => t) s

/-- A command of a moved group: one that completed OK is replayed, and an incomplete one starts again. -/
def Cmd.again (c : Cmd) : Cmd :=
  match c.place with
  | .recorded _ => { c with place := .pending, replay := true, fetched := false, turn := 0 }
  | .queued _ => { c with place := .pending, fetched := false, turn := 0 }
  | _ => { c with fetched := false }

/-- R435: a group goes to engine `e`. -/
def State.regroup (s : State) (x : Step) (g : Group) (e : Nat) : State :=
  let landing := if (s.job x.job).landEn && s.slotsInWindow x.job e then s.freeLanding x.job e else none
  let s1 := s.putGroup { g with engine := e, slot := landing, live := true, moved := true, committed := false }
  let s2 := { s1 with cmds := s1.cmds.map fun (c : Cmd) => if g.has c then c.again else c }
  let s3 := s2.wake e
  match x.frame with
  | some f => if s3.boundHeader f then s3.putEntry f g.tile (setBits (setBits (s3.entry f g.tile) 63 60 2) 45 42 e) else s3
  | none => s3

/-- R33, R435: the engine that a group moves to; none when no engine of ENGINE_MASK qualifies. The one that it leaves is disabled, FAULTED
or on a lost die. -/
def State.newEngine (s : State) (x : Step) (g : Group) : Option Nat :=
  let able := (s.jobEngines x.job).filter fun e => e != g.engine && s.canHost x.job e
  s.firstChoice able ((s.groupCompiled x.uid g.tile).getD g.engine)

/-- The incomplete commands of a group end with a status; one that waited for more commands to come leaves its engine. -/
def State.failGroup (s : State) (g : Group) (st : Status) : State :=
  let t := s.endAll g.has st 0
  t.putGroup { (t.group? g.step g.tile).getD g with failed := if g.failed == 0 then st.code else g.failed }

/-- R433, R435, R437: a group leaves its engine: it moves, or its incomplete commands end with `st`. Answers whether it moved. -/
def State.moveGroup (s : State) (st : Status) (g0 : Group) : State × Bool :=
  let s1 := s.finishGroup g0
  match s1.group? g0.step g0.tile, s1.step? g0.step with
  | some g, some x =>
    if !g.live then (s1, false)
    else if g.balance && g.failed == 0 && !g.cancelled && s1.movable x g then
      (match s1.newEngine x g with
       | some e => (s1.regroup x g e, true)
       | none => (s1.failGroup g st, false))
    else if s1.movable x g then (s1.failGroup g st, false)
    else (s1, false)
  | _, _ => (s1, false)

/-- The live groups of an engine leave it; how many moved. -/
def State.moveFrom (s : State) (e : Nat) (st : Status) : State × Nat :=
  (s.groups.filter fun g => g.live && g.engine == e).foldl (fun (acc : State × Nat) g =>
    let r := acc.1.moveGroup st g
    (r.1, acc.2 + b2n r.2)) (s, 0)

/-! ### Disabling a block (R367, R433) -/

/-- A command is queued at a block. -/
def State.heldBy (s : State) (b : Blk) (i : Nat) (c : Cmd) : Bool :=
  match c.place with
  | .queued q =>
    (match b, q with
     | .ne, .context g _ => g == i
     | .post, .post d => d == i
     | .me, .me => true
     | .raster, .raster => true
     | .dma, .dma _ => true
     | .disp, .display => true
     | _, _ => false)
  | .ended _ _ => c.block (s.engineOf c) == some (b, i) && c.entry != .none && c.turn != 0
  | _ => false

/-- A block holds a command: one that it has admitted, until its record is produced. -/
def State.blockHolds (s : State) (b : Blk) (i : Nat) : Bool := s.cmds.any (s.heldBy b i)

/-- R367: a command of a disabled block completes FAILED_UNIT_DISABLED, but for one of a group that has moved. R212: the ME finishes
its running command. -/
def State.disableQueued (s : State) (b : Blk) (i : Nat) : State :=
  s.endAll (fun c => c.place != .pending && s.heldBy b i c && s.me.uid != some c.uid) .unitDisabled 0

/-- R242: every open pass is discarded, and the engine rests. -/
def State.discardPasses (s : State) : State :=
  { s with raster := { s.raster with passes := [], tiles := [], stalled := [], parked := [], draws := [] } }.rasterRest

/-- R367, R433: ENABLE of a block is cleared. Answers how many tile groups moved. -/
def State.clearEnable (s : State) (b : Blk) (i : Nat) : State × Nat :=
  let s1 := s.putPage b i { s.page b i with enable := false, disabling := true }
  let r := if b == .ne then s1.moveFrom i .unitDisabled else (s1, 0)
  let s2 := if b == .disp then r.1.stopDisplay else r.1.disableQueued b i
  let s3 := if b == .raster then s2.discardPasses else s2
  (s3.bump .fault 0 0x08C r.2, r.2)

/-! ### Watchdogs and block faults (R93, R433) -/

/-- The meaning of a queued command's operation. -/
def State.runQueued (s : State) (c : Cmd) : Out :=
  match c.opcode with
  | 0x1001 => execNeGemm c.uid s
  | 0x1002 => execNeAccClear c.uid s
  | 0x1003 => execNeAccDrain c.uid s
  | 0x1004 => execNeAccStore c.uid s
  | 0x1005 => execNeAccLoad c.uid s
  | 0x2001 => execVeEwise c.uid s
  | 0x2002 => execVeFunc c.uid s
  | 0x2003 => execVeReduce c.uid s
  | 0x2004 => execVeKsel c.uid s
  | 0x2005 => execVeDwconv c.uid s
  | 0x2006 => execVeMerge c.uid s
  | 0x2007 => execVeOptim c.uid s
  | 0x2008 => execVeXreduce c.uid s
  | 0x3001 => execXpExpand c.uid s
  | 0x3002 => execXpS2c c.uid s
  | 0x3003 => execXpC2s c.uid s
  | 0x3004 => execXpUpsample c.uid s
  | 0x3005 => execXpCopy c.uid s
  | 0x2801 => execPostDecode c.uid s
  | 0x2802 => execPostSuppress c.uid s
  | 0x4001 => execDmaCopy c.uid s
  | _ => .next s

/-- The cells of `new` below an address, and those of `old` from it on. -/
def Memory.mixed (old new : Memory) (cut : Nat) : Memory :=
  (new.takeWhile fun x => x.1 < cut) ++ (old.dropWhile fun x => x.1 < cut)

/-- The rows of an engine after a command that wrote only those below a number. -/
def Engine.mixed (old new : Engine) (cut : Nat) : Engine :=
  { old with acc := (new.acc.takeWhile fun x => x.1 < cut) ++ (old.acc.dropWhile fun x => x.1 < cut) }

/-- R92, R431: what a stopped command has written: of the bytes and rows that it would have written, those below free values. -/
def State.partly (s t : State) (g : Nat) : State :=
  let f := s.free
  let h := f.2.free
  { (h.2.putEngine g ((s.engine g).mixed (t.engine g) (f.1 % 2048))) with
    mem := Memory.mixed s.mem t.mem h.1
    hostMem := Memory.mixed s.hostMem t.hostMem h.1 }

/-- R241: the bin item of a raster command that ran too long, with its core: which of those that can be running is a free value. -/
def State.stuckItem (s : State) (uid : Nat) : Option (Nat × ItemKey) :=
  let xs := s.cmdItems uid
  xs[s.free.1 % xs.length]?

/-- What a command that is stopped while it runs leaves of its output. A POST command writes no header (R164). A DMA_COPY has moved as many
bytes as a free value says, and its channel counts them (R343, R358). -/
def State.stoppedOutput (s : State) (c : Cmd) : State :=
  match c.opcode with
  | 0x4001 =>
    let f := s.free
    (match c.place with
     | .queued (.dma k) => f.2.listPart c.job k (c.num 8 8) ((c.num 19 1).testBit 0) 0 f.1 (c.num 16 2)
     | _ => s)
  | 0x2801 => s.postPart (s.decodeWork c)
  | 0x2802 => s.postPart (s.suppressWork c)
  | 0x6003 | 0x6004 =>
    (match s.stuckItem c.uid with
     | some i => s.free.2.partly (s.runItem i.2) (s.engineOf c)
     | none => s)
  | 0x6005 =>
    (match s.stuckItem c.uid, s.tileWork c.uid with
     | some i, some w =>
       let f := s.free.2.free
       f.2.maskWrite c (MaskDesc.of w.desc) i.2.bin (some f.1)
     | _, _ => s)
  | _ =>
    match s.runQueued c with
    | .next t => s.partly t (s.engineOf c)
    | _ => s

/-- R41, R91, R93: the operation of a queued command begins its datapath now: it is its unit's to run, and the command passes its checks. A
VE_XREDUCE may do so without ending, since it joins its collective. -/
def State.datapath (s : State) (c : Cmd) : Bool :=
  match s.runQueued c with
  | .next t => (match t.cmd? c.uid with
    | some d => (match d.place with
      | .ended .ok _ => true
      | .ended .ecc cause => 0x30 ≤ cause && (s.badDesc c (s.engineOf c)).isNone
      | .ended .link _ => true
      | _ => d.progress != c.progress)
    | none => false)
  | _ => false

/-- A queued command may be the running one of its unit. The watchdog of the ME does not count its waits (R210). -/
def State.mayRun (s : State) (c : Cmd) : Bool :=
  match c.place with
  | .queued (.context _ _) | .queued (.post _) | .queued (.dma _) => s.datapath c
  | .queued .me => s.me.uid == some c.uid && s.me.stallFrom.isNone
  | .queued .raster => !(s.cmdItems c.uid).isEmpty
  | _ => false

/-- The page whose unit runs a command, and what BLK_ERR_INFO of a watchdog stop says: the slot or the core or the channel,
and the job. -/
def State.wdogInfo (s : State) (c : Cmd) : Nat :=
  let low := match c.place with
    | .queued (.context g j) => (match (s.engine g).slotOf j with | some k => k.slot | none => 0)
    | .queued (.dma k) => k
    | .queued .raster => ((s.stuckItem c.uid).map (·.1)).getD 0
    | _ => 0
  low + 256 * c.job

/-- A unit drops its running command `c`, which ends with a status. -/
def State.dropRunning (s : State) (c : Cmd) (st : Status) (cause : Nat) : State :=
  let t := s.endCmd c.uid st cause
  if c.unit == some .me then t.meDrop else t

/-- R110, R112, R166, R215, R245, R343: the limit of the watchdog of a command's unit, in ticks. -/
def State.wdogTicks (s : State) (c : Cmd) : Nat :=
  let u := s.unitBlock c
  let n := bits (s.reg u.1 u.2 (if u.1 == .dma then 0x050 else 0x044)) 15 0
  match u.1 with
  | .ne | .ve | .xp => max 17 n * usTicks
  | .post => max 30 n * usTicks
  | .raster => max 20 n * usTicks
  | .me => max 12 n * msTicks
  | _ => max 1 n * msTicks

/-- A running command is cut short: its START is traced, unless its unit has traced it before (R457), and part of its output is written. -/
def State.cutShort (s : State) (c : Cmd) : State :=
  match c.unit with
  | some .me => s
  | some .raster => s.stoppedOutput c
  | _ => (s.starts c).stoppedOutput c

/-- UNIT_WATCHDOG_EXPIRY (R93): a command that runs past its unit's limit is stopped, and may have written part of its output. The limit
counts from now, since an operation starts when it runs (assumption 8). -/
def execUnitWatchdogExpiry (uid : Nat) (s : State) : Out :=
  match s.cmd? uid with
  | none => .next s
  | some c =>
    if !s.mayRun c then .next s
    else
      let u := s.unitBlock c
      let info := s.wdogInfo c
      let t := ((s.cutShort c).at (s.now + s.wdogTicks c)).faultCmd c.uid .timeout 0x40 0
      let t1 := if c.unit == some .me then t.meDrop else t
      .next ((t1.irq u.1 u.2 0b1).err u.1 u.2 1 info 0).track

/-- R444: the records that a fault has produced so far and will produce: the commands that it ended. -/
def State.endedCount (s t : State) : Nat :=
  (t.cmds.filter fun c => match c.place with
    | .ended _ _ => (match s.cmd? c.uid with
      | some d => d.unstarted
      | none => false)
    | _ => false).length

/-- R29, R433: the blocks that BLOCK_FAULT can put in FAULTED, for a queue of their own. DISP runs no watchdog. -/
def Blk.canFault (b : Blk) (watchdog : Bool) : Bool :=
  match b with
  | .ne | .post | .me | .raster | .dma => true
  | .disp => !watchdog
  | _ => false

/-- R109, R111, R166, R215, R245, R274, R358: the interrupt bit of a block's fault; DISP has none for an error. -/
def Blk.faultIrq (b : Blk) (watchdog : Bool) : Word := if b == .disp then 0 else if watchdog then 0b1 else 0b100

/-- R433: the block enters FAULTED, with the running command, if any, abandoned. -/
def State.faultBlock (s : State) (b : Blk) (i : Nat) (watchdog : Bool) (run : Option Cmd) : State :=
  let s1 := match run with
    | some c => if watchdog then (s.cutShort c).dropRunning c .timeout 0x40 else (s.cutShort c).dropRunning c .ecc 0
    | none => s
  let s2 := s1.putPage b i { s1.page b i with faulted := true }
  let s3 := s2.err b i (if watchdog then 1 else 2) (match run with | some c => s.wdogInfo c | none => 0) 0
  s3.irq b i (b.faultIrq watchdog)

/-- BLOCK_FAULT (R433): a unit that does not stop within 10 µs of its watchdog, or an error in its state; `running` is the command it
runs. With AUTO_DISABLE the fault manager clears the block's ENABLE. -/
def execBlockFault (b : Blk) (i : Nat) (watchdog : Bool) (running : Option Nat) (s : State) : Out :=
  if !(b.canFault watchdog && s.blockPresent b i) || (s.page b i).faulted || s.blockOff b i then .next s
  else
    let run := if b == .me then s.meCmd
      else (running.bind s.cmd?).bind fun c => if s.mayRun c && c.block (s.engineOf c) == some (b, i) then some c else none
    let t := s.faultBlock b i watchdog run
    let f := t.free
    if (t.reg .fault 0 0x044).testBit 0 then
      let r := f.2.clearEnable b i
      .next (r.1.logFault b i 2 4 0 (s.endedCount r.1) r.2 (f.1 % 2 ^ 32)).track
    else .next (f.2.logFault b i 2 3 0 (s.endedCount f.2) 0 (f.1 % 2 ^ 32)).track

/-! ### Loss of a die (R436 to R438) -/

/-- A command belongs to compute die `n`: it is queued at an engine or the POST of the die, or lands there. -/
def State.onDie (s : State) (n : Nat) (c : Cmd) : Bool :=
  match c.place with
  | .queued (.context g _) => g / 2 == n
  | .queued (.post d) => d == n
  | .queued .raster => c.opcode == 0x6004 && s.engineOf c / 2 == n
  | .queued .display => c.opcode == 0x7003 && s.engineOf c / 2 == n
  | _ => false

/-- R437 step 4: a transfer that a command waits for reads or lands in the tile memory of die `n`. -/
def State.fetchOn (s : State) (n : Nat) (c : Cmd) : Bool :=
  s.fetches.any fun f => f.job == c.job && (s.target f.src 1 == some (.tmem n) || f.engine / 2 == n) &&
    (match s.fetchDesc c (s.engineOf c) with
     | some d => d.flag == f.flag && d.gen == f.gen
     | none => false)

/-- A command that is to advance flag `f`: by its ADV, as a FLAG_ADVANCE, or as an ME command (R27, R44, R201). -/
def Cmd.advances (c : Cmd) (f : Nat) : Bool :=
  c.adv == some f || (c.opcode == 3 && c.num 8 2 % 4096 == f) || (c.unit == some .me && c.num 24 2 % 4096 == f)

/-- R437 steps 3 and 4: a command of the lost die: one that the loss has ended, or one that ends so as it reaches admission. A group that
BALANCE 1 has yet to place is none. -/
def State.ofLostDie (s : State) (d : Cmd) : Bool :=
  match d.place with
  | .ended st _ => st == .dieLost
  | .pending => s.turnedAway d (s.engineOf d) == some .dieLost &&
      !(d.tiled && (s.job d.job).balance && (match s.groupOf d with | some g => !g.live | none => true))
  | _ => false

/-- R437 step 4: a command's wait names a flag that only commands of the lost die advance. -/
def State.waitsOnLost (s : State) (c : Cmd) : Bool :=
  match c.wait with
  | none => false
  | some (f, gen) =>
    !s.flagReached f gen && (s.cmds.any fun d => d.advances f && s.ofLostDie d) &&
      !(s.cmds.any fun d => d.advances f && d.unstarted && !s.ofLostDie d)

/-- R437 steps 3 to 5: the commands that end with the die. -/
def State.endOnDie (s : State) (n : Nat) : State :=
  let s1 := s.endAll (fun c => s.onDie n c || s.fetchOn n c ||
    (c.opcode == 0x2008 && c.place != .pending && ((c.num 58 2).testBit (2 * n) || (c.num 58 2).testBit (2 * n + 1)))) .dieLost 0
  s1.endAll s1.waitsOnLost .dieLost 0

/-- R437: what the die held is lost with it. -/
def State.clearDie (s : State) (n : Nat) : State :=
  let s1 := s.devClear (tmemBase n) 0x10000000
  let lose := fun (e : Engine) => { Engine.fresh with lost := e.known }
  let s2 := (s1.putEngine (2 * n) (lose (s1.engine (2 * n)))).putEngine (2 * n + 1) (lose (s1.engine (2 * n + 1)))
  { s2 with fetches := s2.fetches.filter fun f => f.engine / 2 != n && s.target f.src 1 != some (.tmem n) }

/-- DIE_STATUS.STATE of a die set (R374). -/
def State.setDieState (s : State) (b : Blk) (i st : Nat) : State :=
  s.setReg b i 0x040 (setBits (s.reg b i 0x040) 31 30 st)

/-- R437: compute die `n` is lost. -/
def State.loseCd (s : State) (n : Nat) : State :=
  let s1 : State := { (s.setDieState .cdSys n 0) with
    cdLost := s.cdLost ||| 2 ^ n, pins := { s.pins with vrEn := s.pins.vrEn - (s.pins.vrEn &&& 2 ^ n) } }
  let r1 := s1.moveFrom (2 * n) .dieLost
  let r2 := r1.1.moveFrom (2 * n + 1) .dieLost
  let s2 := ((r2.1.endOnDie n).clearDie n).bump .fault 0 0x08C (r1.2 + r2.2)
  let f := s2.free
  -- R440: the interruption that INT_10US holds is not timed here
  let s3 := f.2.logFault .cdSys n 4 5 0 (s.endedCount s2) (r1.2 + r2.2) (f.1 % 2 ^ 32)
  (s3.irq .hubSys 0 0b10).track

/-- R438: the matching die is lost. -/
def State.loseMd (s : State) : State :=
  let s1 : State := { (s.setDieState .mdSys 0 0) with
    mdLost := true, pins := { s.pins with vrEn := s.pins.vrEn - (s.pins.vrEn &&& 2 ^ 8) } }
  let s2 := (s1.endAll (fun c => c.place == .queued .me) .dieLost 0).meDrop
  let f := s2.free
  ((f.2.logFault .mdSys 0 4 5 0 (s.endedCount s2) 0 (f.1 % 2 ^ 32)).irq .hubSys 0 0b10).track

/-- R436: a die is lost; 8 is the matching die. A die that is absent or lost stays as it is. -/
def State.loseDie (s : State) (n : Nat) : State :=
  if n < 8 then (if s.dieUsable n then s.loseCd n else s)
  else if s.mdUsable then s.loseMd else s

/-- R109, R214: the unit whose sequencer has failed records MICROCODE: a neural engine of the die, or the matching engine. -/
def State.microcode (s : State) (die : Nat) (unit : Option Nat) : State :=
  match unit with
  | some k => if die < 8 then s.err .ne (2 * die + k % 2) 3 0 0 else s.err .me 0 3 0 0
  | none => s

/-- DIE_LOSS (R436, R437): the sequencer of a die, or that of one of its units, reports a fault; 8 is the matching die. -/
def execDieLoss (die : Nat) (unit : Option Nat) (s : State) : Out :=
  if die < 8 then
    .next (if s.dieUsable die then (((s.microcode die unit).err .cdSys die 1 0 0).irq .cdSys die 0b1).loseDie die else s)
  else .next (if s.mdUsable then (((s.microcode 8 unit).err .mdSys 0 1 0 0).irq .mdSys 0 0b1).loseDie 8 else s)

/-- R436, R447: HB_US, 20 to 200 µs. -/
def State.heartbeatUs (s : State) : Nat := max 20 (min 200 (bits (s.reg .fault 0 0x044) 23 16))

/-- HEARTBEAT_TIMEOUT (R436): the sequencer of a die is silent for HB_US since tick `since`. -/
def execHeartbeatTimeout (die since : Nat) (s : State) : Out :=
  .next ((s.at (since + s.heartbeatUs * usTicks)).loseDie die)

/-- RETIRE (R436, R447) written. -/
def State.retireWrite (s : State) (v : Nat) : State :=
  if bits v 31 16 != 0xD1E5 then s.err .fault 0 1 0 0
  else ((List.range 9).filter v.testBit).foldl State.loseDie s

/-- RETIRE (R436). -/
def execRetire (value : Nat) (s : State) : Out :=
  if s.hostWrites .fault 0 then .next (s.retireWrite value) else .next s

/-! ### Hub faults (R441, R442) -/

/-- R442: a FATAL fault, reported by a block. -/
def State.fatal (s : State) (b : Blk) (i : Nat) : State :=
  let s1 := { (s.endAll (fun _ => true) .unitDisabled 0).meDrop with stopped := true }
  let s2 := s1.setReg .fault 0 0x040 (s1.reg .fault 0 0x040 % 2 ^ 31 + 2 ^ 31)
  let f := s2.free
  (f.2.logFault b i 6 8 0 (s.endedCount s1) 0 (f.1 % 2 ^ 32)).track

/-- FATAL_FAULT (R442), of a device that is neither OFF nor in BASECAMP, where no such block is powered: an uncorrectable error in the control state of SCHED or CFE, or with a port one whose DRAM does not
answer for 1 ms. -/
def execFatalFault (b : Blk) (port : Nat) (s : State) : Out :=
  if s.devState < 2 then .next s
  else match b with
    | .sched => .next (s.fatal .sched 0)
    | .cfe => .next (s.fatal .cfe 0)
    | .memc => if s.blockPresent .memc port then .next (s.fatal .memc port) else .next s
    | _ => .next s

/-- R441: a restart of the management cores interrupts the firmware functions (`fwPaused`). -/
def State.fwRestart (s : State) : State := { s.nackAux with lastFw := some s.now }

/-- HUB_FW_WATCHDOG (R441): the watchdog of a management core expires: the cores restart, or after an expiry within 1 s the fault is
FATAL. The watchdog of a core that debug holds halted is paused (R463). -/
def execHubFwWatchdog (core : Nat) (s : State) : Out :=
  if s.devState < 2 || !s.boot.fwOk || 2 ≤ core || s.dbg.halted.contains core then .next s
  else
    let again := match s.lastFw with
      | some t => timeReached (t + 1000 * msTicks) s.now
      | none => false
    if again then .next (s.fatal .hubSys 0)
    else
      let f := s.fwRestart.free
      .next (f.2.logFault .hubSys 0 5 7 0 0 0 (f.1 % 2001))

end Sys2Proof.Machine
end

