-- ==== Sys2Proof/Machine/Fabric.lean ====
section
/-!
DEFINITION. Tile memory, hub SRAM, flags, the Welt fabric and DRAM (R277 to R303, R432, R439).
-/

-- One declaration at a time: the threads of a parallel elaboration take memory together.
set_option Elab.async false

namespace Sys2Proof.Machine

/-! ### The flag table (R286 to R289, R432) -/

/-- R27, R41, R90: a command waits on flag `f`: by its WAIT, or for the landing of its fetch. A group that has moved does not wait on its
landing flags (R435). -/
def State.waitsForFlag (s : State) (f : Nat) (c : Cmd) : Bool :=
  let late := fun (h : Nat) (gen : Word) => h == f && !s.flagReached h gen
  (match c.wait with | some (h, gen) => late h gen | none => false) ||
    (match s.fetchDesc c (s.engineOf c) with | some d => late d.flag d.gen && !s.hasMoved c | none => false)

/-- The next commands of the units of an engine, one list to a unit. -/
def State.engineHeads (s : State) (g : Nat) : List (List Cmd) :=
  [OpUnit.ne, .ve, .xp].map fun u => (s.engine g).slots.filterMap fun k => s.classHead g k.job u

/-- The next commands of the units that run a queue in order; the channels of the DMA block and the raster engine pass a waiting command by,
so that each of theirs is a next one. -/
def State.queueHeads (s : State) : List (List Cmd) :=
  ((List.range (Config.dies s.variant)).map fun d => (s.fifo (.post d)).head?.toList) ++
    ((List.range 8).map fun k => s.inQueue (.dma k)) ++
    [s.inQueue .raster, (s.fifo .display).head?.toList, s.cmds.filter fun c => c.opcode == 2 && c.place == .pending && !c.rejected]

/-- R201: the matching engine waits for return credit on flag `f`, which follows the fill flag of its running command. -/
def State.meAwaits (s : State) (f : Nat) : Bool :=
  s.me.waitSince.isSome && (match s.meCmd with | some c => c.num 24 2 % 4096 + 1 == f | none => false)

/-- R301: WAITERS: the units that wait on a flag: those of the engines, the POSTs, the channels of the DMA block, the raster, display and
matching engines, and the scheduler with its FLAG_WAITs. -/
def State.waiters (s : State) (f : Nat) : Nat :=
  let heads := (List.range (Config.engines s.variant)).flatMap s.engineHeads ++ s.queueHeads
  min 0xFFFF ((heads.filter fun cs => cs.any (s.waitsForFlag f)).length + b2n (s.meAwaits f))

/-- R432: the commands that wait on a flag at their units, which its poison ends. -/
def State.flagVictims (s : State) (f : Nat) : Nat :=
  (s.cmds.filter fun c => s.waitsForFlag f c && (match c.place with
    | .queued _ => true
    | .pending => c.opcode == 2 && !c.rejected
    | _ => false)).length

/-- FLAG_ECC_POISON (R432): the flag is poisoned, and the fault log names it. Commands that wait on it end FAILED_ECC as each
comes to its turn. -/
def State.flagEccPoison (s : State) (f : Nat) : State :=
  let n := s.flagVictims f
  let r := (s.poisonFlag f).free
  (r.2.logFault .flags 0 1 2 f n 0 (r.1 % 2 ^ 32)).track

/-- FLAG_ECC_POISON (R432). -/
def execFlagEccPoison (flag : Nat) (s : State) : Out :=
  .next (if flag < 4096 && !(s.flag flag).poison then s.flagEccPoison flag else s)

/-- R288, R301: FLAG_GEN written, for the flag in FLAG_SEL. -/
def State.flagGenWrite (s : State) (v : Nat) : State :=
  let f := s.reg .flags 0 0x040 % 4096
  let t := if s.waiters f == 0 then s else s.irq .flags 0 0b1
  (t.writeFlag f (BitVec.ofNat 32 v)).track

/-- FLAG_GEN_WRITE (R288). -/
def execFlagGenWrite (value : Nat) (s : State) : Out := .next (s.host .flags 0 fun t => t.flagGenWrite value)

/-! ### Windows (R281, R282) -/

/-- R281, R282: a window register of the job in JOB_SEL written; `which` is 0 EWIN0, 1 EWIN1, 2 DWIN. -/
def State.windowWrite (s : State) (die which v : Nat) : State :=
  let job := s.reg .tmem die 0x040 % 64
  if (s.job job).valid then s.err .tmem die 4 0 0
  else if 1024 < bits v 9 0 + bits v 20 10 then s.err .tmem die 2 0 0
  else { s with windows := s.windows.set (die * 256 + job * 4 + which) (BitVec.ofNat 32 (v &&& 0x801FFFFF)) }

/-- TMEM_WINDOW_WRITE (R281). -/
def execTmemWindowWrite (die which value : Nat) (s : State) : Out :=
  .next (if which < 3 && die < 8 then s.host .tmem die fun t => t.windowWrite die which value else s)

/-! ### The scrubbers (R283, R295) -/

/-- R283: the word at `a` becomes one that SECDED cannot correct. -/
def State.spoil (s : State) (a : Nat) : State :=
  if s.badWords.contains (a / 8) then s else { s with badWords := a / 8 :: s.badWords }

/-- R283: the word at `a` takes a single-bit error, unless it is past correction already. -/
def State.soften (s : State) (a : Nat) : State :=
  if s.badWords.contains (a / 8) || s.softWords.contains (a / 8) then s else { s with softWords := a / 8 :: s.softWords }

/-- The word at `a` is one that ECC checks: all but DRAM outside its protected part (R294, R295). -/
def State.eccChecked (s : State) (a : Nat) : Bool := s.checkedIn a 1 (a / 8)

/-- An error arises in the word at `a`: of `kind` 1 in one bit, 2 past correction. What an unprotected word of DRAM then reads as is a
free value (R295). The table has no row for the arising of an error, so the scrub read brings it (DESIGN CHOICE, assumption 69). -/
def State.plant (s : State) (a kind : Nat) : State :=
  if kind == 1 then (if s.eccChecked a then s.soften a else s)
  else if kind == 2 then
    (if s.eccChecked a then s.spoil a
     else
       let f := s.free
       f.2.devPut (a / 8 * 8) (leBytes 8 f.1))
  else s

/-- What the scrubber of a block finds in the word at `a`: an uncorrectable error is counted and recorded, a single-bit one corrected. -/
def State.scrubbed (s : State) (b : Blk) (i uncorr irq code a : Nat) : State :=
  if s.badWords.contains (a / 8) then ((s.bump b i uncorr 1).irq b i (1 <<< irq)).err b i code 0 a
  else if s.softWords.contains (a / 8) then s.correctWord (a / 8)
  else s

/-- One scrub read of the word at address `a` of a memory, where that memory's scrubber runs. -/
def State.scrubIn (s : State) (a : Nat) (m : Target) : State :=
  let hit := b2n (!s.badWords.contains (a / 8) && s.softWords.contains (a / 8))
  match m with
  | .tmem d =>
    if !s.dieUsable d || !(s.reg .tmem d 0x050).testBit 31 then s
    else (((s.pulse .tmem d 0x10 1 none).pulse .tmem d 0x11 1 none).pulse .tmem d 0x12 hit none).scrubbed .tmem d 0x058 1 1 a
  | .dram =>
    let p := s.portOf a
    if s.eccChecked a && bits (s.reg .memc p 0x040) 31 30 == 2 then
      (s.pulse .memc p 0x10 1 none).scrubbed .memc p 0x054 2 2 a
    else s
  | .hubSram | .staging => ((s.pulse .hsram 0 0x10 1 none).pulse .hsram 0 0x12 hit none).scrubbed .hsram 0 0x048 1 1 a

/-- One scrub read of the word at address `a`, in the memory that it lies in. -/
def State.scrubAt (s : State) (a : Nat) : State := (s.target a 1).elim s (s.scrubIn a)

/-- R283, R298: one scrub read of the word at a device address, with the error found there. -/
def State.scrubWord (s : State) (a kind : Nat) : State := if (s.target a 1).isNone then s else (s.plant a kind).scrubAt a

/-- R84, R109: an error in accumulator memory: a single-bit one is corrected and counted, another poisons its row. -/
def State.accError (s : State) (g slot r kind : Nat) : State :=
  if !s.dieUsable (g / 2) then s
  else if kind == 1 then (s.unitCorr .ne g).logFault .ne g 0 0 (accAddr slot r) 0 0 0
  else if kind == 2 then
    let e := s.engine g
    ((s.putEngine g (e.putRow slot r { e.row slot r with poison := true })).irq .ne g 0b100).err .ne g 2 0 (accAddr slot r)
  else s

/-- R284: an error in a part of hub SRAM that has no device address is corrected and counted, or counted and recorded. -/
def State.hubError (s : State) (off kind : Nat) : State :=
  if kind == 1 then ((s.bump .hsram 0 0x044 1).irq .hsram 0 0b1).logFault .hsram 0 0 0 off 0 0 0
  else if kind == 2 then ((s.bump .hsram 0 0x048 1).irq .hsram 0 0b10).err .hsram 0 1 0 off
  else s

/-- R284, R429: the bytes of command SRAM that hold the apertures, and those below the completion buffer. -/
def aptSram : Nat := 2 ^ 20
def storeSram : Nat := aptSram + 896 * 1024

/-- R23, R27: a STEP_OPEN that ends unread opens no step: its commands belong to none. -/
def State.loseStep (s : State) (uid : Nat) : State :=
  match s.step? uid with
  | none => s
  | some x =>
    if x.opened then s
    else
      let t := s.dropStep uid
      { t with
        cmds := t.cmds.map fun (c : Cmd) => if c.step == some uid then { c with step := none } else c
        disp := { t.disp with bound := t.disp.bound.filter fun b => b.2 != uid } }

/-- R283, R284: the command in entry `k` of the pending store cannot be read: it ends FAILED_ECC. -/
def State.loseEntry (s : State) (k off : Nat) : State :=
  match s.cmds.find? fun c => c.heldEntry && c.store == k && c.place == .pending with
  | some c =>
    let t := s.faultCmd c.uid .ecc 0x30 off
    if c.opcode == 1 then t.loseStep c.uid else t
  | none => s

/-- R429: record `k` of the completion buffer cannot be read: it is rebuilt from a good copy of its tag, which does not hold TIME. -/
def State.rebuildRecord (s : State) (k : Nat) : State :=
  match s.waiting[k]? with
  | some r =>
    let f := s.free
    { f.2 with waiting := f.2.waiting.set k { r with status := Status.ecc.code, cause := 0, time := f.1 % 2 ^ 64 } }
  | none => s

/-- R284: the packet in an aperture slot holds an uncorrectable word. -/
def State.spoilSlot (s : State) (k : Nat) : State :=
  match s.aptSlots.find? k with
  | some x => if x.landed then { s with aptSlots := s.aptSlots.set k { x with bad := true } } else s
  | none => s

/-- R283, R284, R429: an uncorrectable word of command SRAM: in an aperture slot, in the pending store, or in the completion buffer, whose
records are numbered in the order of their production (assumption 69). -/
def State.storeError (s : State) (off : Nat) : State :=
  if off < aptSram then s.spoilSlot (off / 65536 * 1024 + off % 65536 / 64)
  else if off < storeSram then (s.loseEntry ((off - aptSram) / 64) off).track
  else s.rebuildRecord ((off - storeSram) / 16)

/-- R241, R284: an error in a chunk of bin memory: the raster engine counts a corrected one; the reader of a bad chunk fails. -/
def State.binError (s : State) (chunk kind : Nat) : State :=
  let t := s.hubError (chunk * 4096) kind
  if kind == 1 then t.unitCorr .raster 0
  else if kind == 2 then { t with raster := { t.raster with badChunks := chunk :: t.raster.badChunks.filter (· != chunk) } }
  else t

/-- R208, R214: an error in match memory: a corrected one is counted, another ends the running ME command. -/
def State.matchError (s : State) (off kind : Nat) : State :=
  if !s.mdUsable then s
  else if kind == 1 then (s.unitCorr .me 0).logFault .me 0 0 0 off 0 0 0
  else if kind == 2 then
    let t := match s.me.uid with
      | some u => (s.faultCmd u .ecc 0x33 off).meDrop
      | none => s
    (t.irq .me 0 0b100).err .me 0 2 0 off
  else s

/-- SCRUB_READ (R283): a place is read, with what is found there: 0 nothing, 1 an error that is corrected, 2 one that is not. In DRAM
transfers, a corrected link error (R295). -/
def State.scrubRead (s : State) (site : EccSite) (kind : Nat) : State :=
  match site with
  | .word a => s.scrubWord a kind
  | .acc g slot r => s.accError g slot r kind
  | .bin chunk => s.binError chunk kind
  | .line off => if kind == 1 then (s.hubError off 1).unitCorr .disp 0 else s.hubError off kind
  | .store off => if kind == 2 then (s.hubError off 2).storeError off else s.hubError off kind
  | .matchMem off => (s.matchError off kind).track
  | .link p =>
    if kind == 1 && s.blockPresent .memc p then (s.bump .memc p 0x058 1).logFault .memc p 0 0 0 0 0 0 else s

/-- SCRUB_READ (R283). -/
def execScrubRead (site : EccSite) (kind : Nat) (s : State) : Out := .next (s.scrubRead site kind)

/-! ### The Welt fabric (R290 to R292, R302, R436, R439) -/

/-- R302: LIMIT; 0 acts as 1. -/
def State.replayLimit (s : State) (m : Nat) : Nat := max 1 (bits (s.reg .welt m 0x048) 7 0)

/-- R292: a module retrains, with its flits held. -/
def State.weltRetrain (s : State) (m : Nat) : State :=
  let t := (s.edge .welt m 0x20 ((s.module m).state != 2) none).putModule m { s.module m with state := 1, since := s.now }
  ((t.bump .welt m 0x054 1).irq .welt m 0b0100).track

/-- R292: a flit with a CRC error is replayed; `held` flits were held, of at most 64. -/
def State.weltCrcError (s : State) (m : Nat) (ok : Bool) (held : Nat) : State :=
  let s1 := ((s.bump .welt m 0x04C 1).bump .welt m 0x050 1).bumpMax .welt m 0x058 (min held 64) 0xFFFFFFFF
  let s2 := ((s1.pulse .welt m 0x12 1 none).pulse .welt m 0x13 1 none).irq .welt m 0b0010
  if ok then (s2.putModule m { s2.module m with fails := 0 }).logFault .welt m 0 0 0 0 0 0
  else
    let n := (s2.module m).fails + 1
    let s3 := s2.putModule m { s2.module m with fails := n }
    if s3.replayLimit m ≤ n then s3.weltRetrain m else s3

/-- WELT_CRC_ERROR (R292): `ok` tells that the replay arrived whole. -/
def execWeltCrcError (module : Nat) (ok : Bool) (held : Nat) (s : State) : Out :=
  .next (if s.modulePresent module && (s.module module).state == 2 then s.weltCrcError module ok held else s)

/-- WELT_RETRAIN (R302): RETRAIN is written. -/
def execWeltRetrain (module : Nat) (s : State) : Out :=
  .next (if s.modulePresent module then s.hostWo .welt module fun t =>
      (t.putModule module { t.module module with fails := 0 }).weltRetrain module else s)

/-- R439: a die that was cut off comes back: its contexts that wait are rewound, and it has every flag's value. -/
def State.stateRestore (s : State) (die : Nat) : State := ((s.rewind (2 * die) 4).rewind (2 * die + 1) 4).track

/-- R292, R436: a module is DOWN after a failed retrain. -/
def State.weltDown (s : State) (m : Nat) (exhausted : Bool) : State :=
  let s1 := (s.edge .welt m 0x20 ((s.module m).state != 2) none).putModule m { s.module m with state := 0, fails := 0 }
  let s2 := (s1.irq .welt m 0b1000).err .welt m (if exhausted then 2 else 1) 0 0
  let die := m / 2
  if m < 16 && (s2.module (2 * die)).state == 0 && (s2.module (2 * die + 1)).state == 0 then s2.loseDie die
  else if m == 24 then s2.loseDie 8
  else if (s.module m).fails == 0 then s2
  else
    let r := s2.free
    r.2.logFaultAt (s.module m).since .welt m 3 0 0 0 0 (r.1 % 2 ^ 32)

/-- R292, R439: a module is UP again, with lanes repaired. -/
def State.weltUp (s : State) (m repaired : Nat) : State :=
  let x := s.module m
  let s1 := s.putModule m { x with state := 2, fails := 0, repaired := repaired }
  let s2 := if x.repaired < repaired then s1.irq .welt m 0b0001 else s1
  let s3 := if m < 16 && s.dieCut (m / 2) then s2.stateRestore (m / 2) else s2
  if x.fails == 0 then s3
  else
    let r := s3.free
    r.2.logFaultAt x.since .welt m 3 6 0 0 0 (r.1 % 2 ^ 32)

/-- WELT_RETRAIN_END (R292): the retrain of a module ends UP, with `repaired` lanes mapped onto redundant ones, or DOWN. -/
def execWeltRetrainEnd (module : Nat) (up : Bool) (repaired : Nat) (exhausted : Bool) (s : State) : Out :=
  .next (if s.modulePresent module && s.training module then
      (if up then s.weltUp module (repaired % 256) else s.weltDown module exhausted).track
    else s)

/-! ### DRAM (R296, R297) -/

/-- A DRAM port has been trained and is not in self-refresh. -/
def State.portReady (s : State) (p : Nat) : Bool := s.blockPresent .memc p && bits (s.reg .memc p 0x040) 31 30 == 2

/-- R296: a refresh of a channel falls due; with an URGENT request waiting it is postponed, up to 8 times. -/
def State.dramRefresh (s : State) (ch : Nat) (urgent : Bool) : State :=
  let n := s.refresh.get ch 0
  if urgent && n < 8 then { s with refresh := s.refresh.set ch (n + 1) }
  else if urgent then s.pulse .memc (ch / 2) 0x13 1 none
  else { s.pulse .memc (ch / 2) 0x13 (n + 1) none with refresh := s.refresh.erase ch }

/-- DRAM_REFRESH (R296). -/
def execDramRefresh (channel : Nat) (urgent : Bool) (s : State) : Out :=
  .next (if s.portReady (channel / 2) then s.dramRefresh channel urgent else s)

/-- R296, R303: the refresh rate that the DRAM asks for is read. -/
def State.dramTcrRead (s : State) (p rate : Nat) : State :=
  let old := s.reg .memc p 0x04C
  let t := s.setReg .memc p 0x04C (setBits old 1 0 rate)
  if bits old 1 0 < rate then t.irq .memc p 0b1000 else t

/-- DRAM_TCR_READ (R296): 0 for 1×, 1 for 2×, 2 for 4×. -/
def execDramTcrRead (port rate : Nat) (s : State) : Out :=
  .next (if s.portReady port && (s.reg .memc port 0x04C).testBit 31 then s.dramTcrRead port (min rate 2) else s)

/-- DRAM_WCK_OSC_READ (R297): the controller adjusts its delays. Traffic goes on, and no register shows the delays. -/
def execDramWckOscRead (_port : Nat) (s : State) : Out := .next s

end Sys2Proof.Machine
end

