-- ==== Sys2Proof/Machine/Audit.lean ====
section
/-!
DEFINITION. Measurements, cairn records and quotes (R312 to R323, R397).
-/

-- One declaration at a time: the threads of a parallel elaboration take memory together.
set_option Elab.async false

namespace Sys2Proof.Machine

/-! ### The audit queue (R312) -/

/-- R312: the audit command that runs next: the audit queue is served in order. -/
def State.auditHead (s : State) (uid op : Nat) : Option Cmd :=
  match (s.fifo .audit).head? with
  | some c => if c.uid == uid && c.opcode == op && !s.fenced c && s.stepReady c && !s.stopped then some c else none
  | none => none

/-! ### AUDIT_MEASURE (R312) -/

/-- A target that is sealed. -/
def Job.sealedTarget (j : Job) : Nat → Bool
  | 0 => j.progSealed
  | 1 => j.weightsSealed
  | _ => false

/-- The failing checks of an AUDIT_MEASURE (R312, R277, R91). -/
def State.measureFails (s : State) (c : Cmd) : List (Status × Nat) :=
  let a := c.num 8 8
  let n := c.num 16 4
  let target := c.num 20 1 % 4
  failIf (a % 64 != 0 || (s.target a n).isNone) .badOperand 0x01 ++
    failIf (n % 64 != 0 || n < 64 || 2 ^ 28 < n || target == 3 || (target == 2 && c.step.isNone)) .badOperand 0x02 ++
    failIf (bits (c.num 20 1) 5 2 != 0 || c.num 21 43 != 0) .badOperand 0x04 ++
    failIf ((s.job c.job).sealedTarget target) .badOperand 0x60

/-- R312: a measurement of a job extended, and sealed. -/
def Job.measured (j : Job) (target : Nat) (x : List Byte) (sealIt : Bool) : Job :=
  if target == 0 then { j with prog := extend j.prog x, progSealed := sealIt }
  else { j with weights := extend j.weights x, weightsSealed := sealIt }

/-- R312: the region is hashed and its digest extends the target. CLEAR makes the digest 33 bytes long (`extend`). -/
def State.measure (s : State) (c : Cmd) : State :=
  let flags := c.num 20 1
  let target := flags % 4
  let x := sha256 (s.devGet (c.num 8 8) (c.num 16 4)) ++ if flags.testBit 6 then [1] else []
  if target == 2 then
    (match c.step with
     | some u => s.extendAux u c.uid x
     | none => s)
  else s.putJob c.job ((s.job c.job).measured target x (flags.testBit 7))

/-- AUDIT_MEASURE (R312). -/
def State.auditMeasure (s : State) (c : Cmd) : State :=
  let t := s.starts c
  match lowestCause (s.measureFails c) with
  | some f => t.endCmd c.uid f.1 f.2
  | none =>
    if s.onLostDie (c.num 8 8) (c.num 16 4) then t.endCmd c.uid .dieLost 0
    else match s.firstBad (c.num 8 8) (c.num 16 4) with
    | some w => t.faultCmd c.uid .ecc (eccCause (c.num 8 8)) w
    | none => ((t.correctReads .sec 0 [(c.num 8 8, c.num 16 4)]).measure c).endCmd c.uid .ok 0

/-- AUDIT_MEASURE (R312). -/
def execAuditMeasure (uid : Nat) (s : State) : Out :=
  match s.auditHead uid 0x9001 with
  | some c => .next (s.auditMeasure c).track
  | none => .next s

/-! ### AUDIT_QUOTE (R321, R397) -/

/-- R321: the state of the policy and UNTESTED_PAIR, from `SEC.BOOT_STATUS` (R401). -/
def State.policy (s : State) : Nat := bits (s.reg .sec 0 0x040) 25 25
def State.untested (s : State) : Nat := bits (s.reg .sec 0 0x040) 26 26

/-- R321: D_WEIGHTS of a job for its newest epoch. -/
def Job.newestWeights (j : Job) : List Byte :=
  if j.scaleDir || j.adaptDir then ((j.dWeights.head?).map (·.2)).getD (List.replicate 32 0) else sha256 j.weights

/-- R321: RECORD_SEQ of the newest written record. -/
def State.newestSeq (s : State) : Nat := if s.cairn.seq == 0 then 2 ^ 64 - 1 else s.cairn.seq - 1

/-- R321: bytes 0 to 639 of a quote. -/
def State.quoteBody (s : State) (c : Cmd) : List Byte :=
  let j := s.job c.job
  let zeros := List.replicate 32 (0 : Byte)
  let d := fun k => s.boot.plan.digests.getD k zeros
  let flags := s.untested + 2 * b2n (j.valid && j.repro) + 4 * b2n s.cairnEn + 8 * b2n s.dbg.isOpen
  leBytes 2 0x000F ++ leBytes 2 1024 ++ leBytes 1 s.devState ++ leBytes 1 s.policy ++ leBytes 1 flags ++
    leBytes 1 (c.job % 64) ++ leBytes 32 (c.num 16 32) ++ leBytes 8 s.now ++ leBytes 8 s.newestSeq ++
    leBytes 8 s.part.serial ++ d 0 ++ d 1 ++ d 2 ++ d 3 ++ d 4 ++ d 5 ++
    (if j.valid then j.prog ++ j.newestWeights else zeros ++ zeros) ++
    (if s.cairn.seq == 0 then zeros else s.cairn.newest) ++ List.replicate 288 0

/-- R321: a quote. -/
def State.quote (s : State) (c : Cmd) : List Byte :=
  let b := s.quoteBody c
  b ++ (Config.signature b ++ List.replicate 384 0).take 384

/-- R312, R397: where a quote can be written. -/
def State.quoteOut (s : State) (a : Nat) : Bool :=
  a % 64 == 0 && (match s.target a 1024 with
    | none => false
    | some .hubSram => true
    | some .dram => s.devState != 6 || s.dramReady
    | some _ => s.devState != 6)

/-- AUDIT_QUOTE (R312, R321, R397): every quote is also left in `SEC.QUOTE`. -/
def State.auditQuote (s : State) (c : Cmd) : State :=
  let a := c.num 8 8
  let q := s.quote c
  let t := s.starts c
  let u := { t with boot := { t.boot with quote := q } }
  match lowestCause (failIf (!s.quoteOut a) .badOperand 0x01 ++ failIf (c.num 48 16 != 0) .badOperand 0x04) with
  | some f => (if s.devState == 6 && f.2 == 1 then u else t).endCmd c.uid f.1 f.2
  | none => if s.onLostDie a 1024 then u.endCmd c.uid .dieLost 0 else (u.devPut a q).endCmd c.uid .ok 0

/-- AUDIT_QUOTE (R321). -/
def execAuditQuote (uid : Nat) (s : State) : Out :=
  match s.auditHead uid 0x9002 with
  | some c => .next (s.auditQuote c).track
  | none => .next s

/-! ### Cairn records (R316 to R319) -/

/-- R323: LOG2, 4 to 12. -/
def State.cairnLog (s : State) : Nat := max 4 (min 12 (bits (s.reg .sec 0 0x10C) 3 0))
def State.cairnBase (s : State) : Nat := pairAddr (s.reg .sec 0 0x104) (s.reg .sec 0 0x108)
def State.tileDigBase (s : State) : Nat := pairAddr (s.reg .sec 0 0x11C) (s.reg .sec 0 0x120)

/-- R315: the tile digests of a frame whose record is written. -/
def CairnDue.tileDigests (d : CairnDue) : List Byte := (d.tiles.getD []).flatten

/-- R316: bytes 0 to 319 of the record of a frame; the last of them are D_OUT. -/
def State.recordHead (s : State) (d : CairnDue) : List Byte :=
  let f := d.front
  let c := s.cairn
  let flags := (f.getD 6 0) ||| BitVec.ofNat 8 (128 * b2n c.gap)
  let st := (f.getD 7 0) ||| BitVec.ofNat 8 (2 * b2n c.afterHold)
  let prev := if c.seq == 0 then List.replicate 32 0 else c.newest
  f.take 6 ++ [flags, st] ++ leBytes 8 c.seq ++ f.drop 16 ++ prev ++ d.digests.flatten ++ sha256 d.tileDigests

/-- A write of the audit unit to a device address; one that names nothing has no effect. -/
def State.auditPut (s : State) (a : Nat) (bs : List Byte) : State :=
  if (s.target a bs.length).isSome then s.devPut a bs else s

/-- R317: the digest of the record of a frame: of its bytes 0 to 319 and its KIND map. -/
def State.recordDigest (s : State) (d : CairnDue) : List Byte := sha256 (s.recordHead d ++ d.kinds)

/-- R316, R317: the bytes of a record of a frame, and then PRODUCED, are stored. -/
def State.storeCairn (s : State) (d : CairnDue) : State :=
  let k := s.cairn.seq % 2 ^ s.cairnLog
  let s1 := if (s.reg .sec 0 0x100).testBit 30 then s.auditPut (s.tileDigBase + k * 65536) d.tileDigests else s
  (s1.auditPut (s.cairnBase + 64 + k * 1536) (s.recordHead d ++ s.recordDigest d ++ List.replicate 160 0 ++ d.kinds)).auditPut
    s.cairnBase (leBytes 4 (s.cairn.seq + 1) ++ List.replicate 60 0)

/-- R316, R317: the record of a frame is written; the next one chains to its digest. -/
def State.writeCairn (s : State) (d : CairnDue) : State :=
  { s.storeCairn d with
    cairn := { s.cairn with seq := s.cairn.seq + 1, newest := s.recordDigest d, gap := false, afterHold := false } }

/-- R318: the ring holds as many records as it has slots. -/
def State.cairnFull (s : State) : Bool := 2 ^ s.cairnLog ≤ (s.cairn.seq + 2 ^ 32 - s.reg .sec 0 0x110) % 2 ^ 32

/-- R317, R318: the oldest record that is due is written, or dropped for a full ring. -/
def State.cairnStep (s : State) : State :=
  match s.cairn.due with
  | [] => s
  | d :: rest =>
    let t := { s with cairn := { s.cairn with due := rest } }
    if s.cairnFull then { t with cairn := { t.cairn with gap := true } }.bump .sec 0 0x118 1 else t.writeCairn d

/-- CAIRN_RECORD_WRITE (R317, R318): the oldest record that is due is written, or dropped for a full ring. One whose frame has lines still
to be sent waits for their digests (R315). In HOLD no record is written (R322): one that is due waits, and the first one after HOLD carries
AFTER_HOLD. -/
def execCairnRecordWrite (s : State) : Out :=
  match s.cairn.due with
  | [] => .next s
  | d :: _ =>
    if s.devState == 5 || (d.tiles.isNone && !s.linesSent) then .next s
    else .next (if d.tiles.isNone then s.sealCairn else s).cairnStep

/-- R319, R317: AUDIT_CTRL written. Setting CAIRN_EN from 0 to 1 starts a chain: PRODUCED, in the header of the ring too, is 0. -/
def State.auditCtrlWrite (s : State) (v : Nat) : State :=
  let t := s.setReg .sec 0 0x100 (v &&& 0xE0000000)
  if v.testBit 31 && !s.cairnEn then
    let u := t.setReg .sec 0 0x110 0
    { u.auditPut u.cairnBase (List.replicate 64 0) with
      -- R316, R322: frames scanned in HOLD are not recorded
      cairn := { t.cairn with seq := 0, newest := List.replicate 32 0, gap := false, afterHold := t.devState == 5 || t.disp.held, due := []
                              firstFrame := t.disp.begun, lines := [] } }
  else t

/-- CAIRN_ENABLE (R319): a write of AUDIT_CTRL. -/
def execCairnEnable (value : Nat) (s : State) : Out := .next (s.host .sec 0 fun t => t.auditCtrlWrite value)

/-- R319: a write of CAIRN_BASE, CAIRN_LEN or TILE_DIG_BASE, of which software can set the bits `rw`. -/
def State.cairnRegWrite (s : State) (off rw v : Nat) : State :=
  if s.cairnEn then s.err .sec 0 4 0 0 else s.setReg .sec 0 off (v &&& rw)

end Sys2Proof.Machine
end

