-- ==== Sys2Proof/Machine/Reset.lean ====
section
/-!
DEFINITION. What a reset leaves (R373, R416, R427, R443, R461, R475).
-/

-- One declaration at a time: the threads of a parallel elaboration take memory together.
set_option Elab.async false

namespace Sys2Proof.Machine

/-- A register or page that a reset of the device leaves: those of BASECAMP, `HUB_SYS.SCRATCH` and, up to a cold path, `PERF.DBG_OPENS`
(R373, R427, R466). -/
def keptOffset (a : Nat) : Bool := a / 0x1000 == 1 || a == 0x064 || a == 0xE0AC

/-- R427: what the Insole records gave the registers of BASECAMP stands in them over a reset of the others. -/
def State.keptRegs (s : State) : SMap Word :=
  (s.insole.filter fun e => e.1 / 0x1000 == 1).foldl (fun m e => if (m.find? e.1).isSome then m else m.set e.1 e.2)
    (s.regs.filter fun e => keptOffset e.1)

/-- R398: a device reset aborts an update operation in progress. The sectors that an erasure or a program was to change are undefined: free
values. -/
def State.abortUpd (s : State) : State :=
  match s.boot.upd with
  | some u =>
    if u.op == 2 || u.op == 3 then
      let f := s.free
      let a := u.addr / 0x10000
      let n := (u.addr + u.bytes - 1) / 0x10000 + 1 - a
      { f.2 with boot := { f.2.boot with flash := f.2.boot.flash.writeRun 0xFF (0x10000 * a) (leBytes (0x10000 * n) f.1) } }
    else s
  | none => s

/-- R373: what a reset of every block but BASECAMP, the link layer and the PCIe configuration space leaves. DRAM keeps its contents; other
memory does not. Debug access is LOCKED (R461). The Insole records are applied again by the boot that follows. -/
def State.wiped (s : State) : State :=
  { State.reset with
    pending := s.pending
    part := s.part
    now := s.now
    freeCount := s.freeCount
    devState := s.devState
    nextUid := s.nextUid
    link := s.link
    msix := ⟨[], s.msix.fmask, 0, 0, s.msix.sent⟩
    pages := s.pages.filter fun e => keptOffset e.1
    regs := s.keptRegs
    mem := s.mem.takeWhile fun c => c.1 < hubSramBase
    badWords := s.badWords.filter fun w => 8 * w < hubSramBase
    softWords := s.softWords.filter fun w => 8 * w < hubSramBase
    hostMem := s.hostMem
    protEff := s.protEff
    timeFrac := s.timeFrac
    outs := s.outs.map fun (p : Nat × DpOut) => (p.1, { DpOut.fresh with hpd := p.2.hpd })
    pins := { s.pins with alert := false }
    bw := s.bw
    boot := { s.boot with
      identOk := false
      fwOk := false
      updResult := 0
      upd := none
      window := Boot.reset.window
      quote := Boot.reset.quote } }

/-- R373, R401: the reset; RELOAD is kept until the boot that it asks for. -/
def State.wipe (s : State) : State :=
  let t := s.abortUpd.wiped
  if (s.reg .sec 0 0x05C).testBit 2 then t.setReg .sec 0 0x05C 4 else t

/-- R416, R468, R471, R475: nothing runs and nothing leaves the device; DRAM does not keep its contents. The rail enables are high and those of
the dies low. BASECAMP's registers are reset but for TRIP when `all` is set. The change of the state asserts SMB_ALERT_N (R481), which stays so
until BW_STATUS is read. -/
def State.halt (s : State) (all : Bool) : State :=
  let t := s.wipe
  let trip := s.reg .basecamp 0 0x040 &&& 0x80000000
  let u := { t with
    mem := []
    badWords := []
    softWords := []
    devState := 0
    link := Link.reset
    msix := ⟨[], false, 0, 0, s.msix.sent⟩
    pins := { t.pins with
      vrEn := 0, coreEn := true, dramEn := true, retEn := true, edges := [], smbAlert := s.pins.smbAlert || s.devState != 0 }
    boot := { t.boot with kept := false, path := none } }
  if all then { u with pages := [], regs := [], now := 0, timeFrac := 0 }.setReg .basecamp 0 0x040 trip else u

/-- R461: debug access is LOCKED again: the management cores that it holds run on. -/
def State.dbgClose (s : State) : State :=
  if s.dbg.isOpen then
    { s with dbg := { s.dbg with isOpen := false, cust := false, scope := 0, halted := [] } }.irq .perf 0x40 0b1000
  else s

end Sys2Proof.Machine
end

