-- ==== Sys2Proof/Machine/Power.lean ====
section
/-!
DEFINITION. Power, current, temperature and coolant (R402 to R422), and phase hints (R408).
-/

-- One declaration at a time: the threads of a parallel elaboration take memory together.
set_option Elab.async false

namespace Sys2Proof.Machine

/-! ### Settings (R426) -/

/-- A value held within limits. -/
def clampNat (lo hi x : Nat) : Nat := max lo (min hi x)

/-- R426: CAP in mW, within the variant's range. -/
def State.capMw (s : State) : Nat :=
  let c := bits (s.reg .pwr 0 0x044) 15 0
  1000 * (match s.variant with
    | .h8a => clampNat 200 420 c
    | .h4a => clampNat 110 220 c
    | .h4 => clampNat 90 200 c
    | .h2 => clampNat 45 110 c)

/-- R426: WINDOW_S, 1 to 10 s; GAIN in 1/256, of which 0 acts as 1. -/
def State.windowS (s : State) : Nat := clampNat 1 10 (bits (s.reg .pwr 0 0x044) 27 24)
def State.capGain (s : State) : Nat := max 1 (bits (s.reg .pwr 0 0x044) 23 16)

/-- R426: the domain at a position of SHARE_ORDER: 0 MEMORY, 1 LINKS, 2 DISPLAY, 3 COMPUTE. -/
def State.shareAt (s : State) (k : Nat) : Nat := bits (s.reg .pwr 0 0x048) (2 * k + 1) (2 * k)

def State.fallPct (s : State) : Nat := clampNat 5 50 (bits (s.reg .pwr 0 0x04C) 7 0)
def State.throttleC (s : State) : Nat := clampNat 70 100 (bits (s.reg .pwr 0 0x054) 7 0)
def State.restoreMs (s : State) : Nat := max 1 (bits (s.reg .pwr 0 0x058) 31 16)
def State.debounceMs (s : State) : Nat := clampNat 1 10 (bits (s.reg .pwr 0 0x058) 7 0)

/-- The value that a register shows for a quantity: the quantity itself, or one of its two neighbours where it is no whole number. -/
def shown (q : Rat) : Nat := (q.floor + if q.den == 1 then 0 else (b2n (Config.powerRound q) : Int)).toNat

/-! ### Dies and operating points (R407) -/

/-- A die that is present, not lost, and up. -/
def State.dieUp (s : State) (k : Nat) : Bool := (if k < 8 then s.dieUsable k else s.mdUsable) && s.dieState k == 2

/-- The page of a die. -/
def diePageOf (k : Nat) : Blk × Nat := if k < 8 then (.cdSys, k) else (.mdSys, 0)

/-- R382, R407: an operating point of a die: mV, I_MAX in A, and VALID. -/
def State.point (s : State) (die k : Nat) : Nat × Nat × Bool :=
  let x := leNat (s.boot.nor.readRun 0 (160 + 32 * die + 4 * k) 4)
  (bits x 15 0, bits x 23 16, x.testBit 24)

/-- The valid points of a die, lowest first. -/
def State.validPoints (s : State) (die : Nat) : List Nat := (List.range 8).filter fun k => (s.point die k).2.2

/-- R408: LEVEL, clamped to the highest valid point of the die. -/
def State.clampPoint (s : State) (die level : Nat) : Nat := min level ((s.validPoints die).getLast?.getD 0)

/-- R474: the highest point that the boot voltage of 0.80 V supports. -/
def State.bootPoint (s : State) (die : Nat) : Nat :=
  ((s.validPoints die).filter fun k => (s.point die k).1 ≤ 800).getLast?.getD ((s.validPoints die).head?.getD 0)

def State.diePower (s : State) (k : Nat) : DiePower :=
  s.pwr.dies.get k ⟨s.bootPoint k, none, none, [], 0, 0, 0, 0, (0, 0)⟩

/-- R402, R474: the voltage in force of a die in mV: the confirmed one, 0.80 V until the first AVSBus command is confirmed. -/
def State.dieMv (s : State) (k : Nat) : Nat :=
  match (s.diePower k).confirmed with
  | some p => (s.point k p).1
  | none => 800

def State.putDiePower (s : State) (k : Nat) (d : DiePower) : State :=
  { s with pwr := { s.pwr with dies := s.pwr.dies.set k d } }

/-- R408: a hint is in force. -/
def State.hintOn (s : State) (h : Hint) : Bool := timeReached s.now h.start && !timeReached s.now h.finish

/-- R408: the hints in force for a die. -/
def State.hintsOn (s : State) (die : Nat) : List Hint :=
  s.pwr.hints.filter fun h => h.dies.testBit die && s.hintOn h

/-- R407: the point that the power manager chooses for a die that draws `ma`. -/
def State.choosePoint (s : State) (die : Nat) (ma : Rat) : Nat :=
  let least := (s.hintsOn die).foldl (fun m h => max m (s.clampPoint die h.level)) 0
  let good := (s.validPoints die).filter fun k => least ≤ k && 11 * ma ≤ 10000 * ((s.point die k).2.1 : Rat)
  good.head?.getD ((s.validPoints die).getLast?.getD 0)

/-- R407: the point in force after a choice: up at once, down after 100 µs in which a lower point has sufficed. -/
def DiePower.moveTo (d : DiePower) (now k : Nat) : DiePower :=
  if d.opp < k then { d with opp := k, lowSince := none }
  else if k < d.opp then
    (match d.lowSince with
     | none => { d with lowSince := some now }
     | some t => if timeReached now (t + 100 * usTicks) then { d with opp := k, lowSince := none } else d)
  else { d with lowSince := none }

/-- R407, R474: b_ramp of a die that draws `ma`. -/
def State.rampOf (s : State) (die : Nat) (confirmed : Option Nat) (ma : Rat) : Rat :=
  let top : Rat := 1000 * ((s.point die (confirmed.getD (s.bootPoint die))).2.1 : Rat)
  if top < ma then 1 - top / ma else 0

/-! ### Collectives (R411) -/

/-- The dies of a mask of engines. -/
def diesOf (mask : Nat) : List Nat := (List.range 8).filter fun k => mask.testBit (2 * k) || mask.testBit (2 * k + 1)

/-- R411, R421: the reasons, as a mask, of the throttle that a die is at: 1 THERMAL and 2 RAMP of its own, or those that a collective gave
it. CAP and HOST_THROTTLE are the device's. -/
def State.throttleFor (s : State) (k : Nat) : Nat :=
  match s.pwr.dies.find? k with
  | none => 0
  | some d =>
    if s.ownThrottle k < d.coll then d.collFor
    else
      let at_ := fun (x : Rat) => x != 0 && min (9 / 10) x == s.ownThrottle k
      2 * b2n (at_ ((d.therm : Rat) / 16)) + 4 * b2n (at_ d.ramp)

/-- R411: the throttle that the active collectives ask of a die, with its reasons. -/
def State.collThrottle (s : State) (k : Nat) : Rat × Nat :=
  ((s.colls.filter fun x => !x.joined.isEmpty && (diesOf x.peers).contains k).flatMap fun x => diesOf x.peers).foldl
    (fun (m : Rat × Nat) j =>
      let b := s.throttle j
      if m.1 < b then (b, s.throttleFor j) else if m.1 == b then (b, m.2 ||| s.throttleFor j) else m) (0, 0)

/-- R411: every die of a collective is raised to the highest throttle among its dies. -/
def State.collSync (s : State) : State :=
  (List.range (Config.dies s.variant)).foldl (fun (t : State) k =>
    if (s.colls.isEmpty && (s.diePower k).coll == 0) || !s.dieUp k then t
    else t.putDiePower k { s.diePower k with coll := (s.collThrottle k).1, collFor := (s.collThrottle k).2 }) s

/-! ### The estimate (R402, R403, R407, R409, R421, R422) -/

/-- An F32 code as an exact number. -/
def ratOf32 (c : Nat) : Rat :=
  match val32 c with
  | .fin neg n d e =>
    let m : Rat := (n : Rat) / (d : Rat) * (if e < 0 then 1 / (2 : Rat) ^ e.natAbs else (2 : Rat) ^ e.natAbs)
    if neg then -m else m
  | _ => Config.weight c

/-- R382, R403: the F32 code of activity weight `k` of a compute die. -/
def State.weightCode (s : State) (die k : Nat) : Nat := leNat (s.boot.nor.readRun 0 (448 + 64 * die + 4 * k) 4)

/-- R402: (V / 0.75 V)^X for a voltage in mV and the F32 code of X: exact at 0.75 V, and where X is a whole number. -/
def leakFactor (mv x : Nat) : Rat :=
  let e := ratOf32 x
  let q : Rat := (mv : Rat) / 750
  if mv == 750 then 1
  else if e.den == 1 then (if e.num < 0 then 1 / q ^ e.num.natAbs else q ^ e.num.natAbs)
  else Config.leakage mv x

/-- R402: the leakage of a compute die in mW. -/
def State.leakMw (s : State) (die : Nat) : Rat :=
  let temp : Rat := ((s.pwr.temps.get die 0 : Int) : Rat) / 16
  1000 * (ratOf32 (s.weightCode die 12) * leakFactor (s.dieMv die) (s.weightCode die 14) *
    (1 + ratOf32 (s.weightCode die 13) * (temp - 85)))

/-- R402: the power of a compute die in mW without stitch, from its activity counts over 2 µs. A pJ in 2 µs is half a µW. -/
def State.workMw (s : State) (die : Nat) (counts : List Nat) : Rat :=
  (((List.range 12).filter (· != 4)).map fun k => ratOf32 (s.weightCode die k) * ((counts.getD k 0 : Nat) : Rat)).sum / 2000 + s.leakMw die

/-- The current in mA that a power in mW is at a voltage in mV. -/
def currentOf (mw : Rat) (mv : Nat) : Rat := 1000 * mw / (max 1 mv : Nat)

/-- R409: the floor of the rail current of a die in mA: the share of its value 10 µs earlier that it may not fall below. -/
def State.floorMa (s : State) (k : Nat) : Rat :=
  match (s.diePower k).amps[4]? with
  | none => 0
  | some old => (1 - (s.fallPct : Rat) / 100) * old

/-- R93, R403, R409: a sixteenth of the array in stitch, in mW: 800 MHz of stitch cycles of the weight's pJ, by 16. -/
def State.stitchMw (s : State) (die : Nat) : Rat := ratOf32 (s.weightCode die 4) / 20

/-- R409: the sixteenths of stitch that hold a compute die's current at its floor, on those of its engines that run no command; none once the
floor has come down to the idle current. -/
def State.stitchSteps (s : State) (k : Nat) (work : Rat) : Nat × Nat :=
  let mv := s.dieMv k
  let lack := s.floorMa k - currentOf work mv
  let step := currentOf (s.stitchMw k) mv
  if lack ≤ 0 || s.floorMa k ≤ currentOf (s.leakMw k) mv || step ≤ 0 then (0, 0)
  else
    let n := (lack / step).ceil.toNat
    let a := if s.engineRuns (2 * k) then 0 else min 16 n
    (a, if s.engineRuns (2 * k + 1) then 0 else min 16 (n - a))

/-- R402, R409: the power of a die in mW and the stitch that runs on it, from its activity counts or, of the matching die, from its power. -/
def State.diePowerMw (s : State) (k md : Nat) (counts : List Nat) : Rat × Nat × Nat :=
  if 8 ≤ k then ((md : Rat), 0, 0)
  else
    let work := s.workMw k counts
    let n := s.stitchSteps k work
    (work + ((n.1 + n.2 : Nat) : Rat) * s.stitchMw k, n)

/-- R407, R409: one die's part of an estimate. The rail current is held at or above its floor. -/
def State.estimateDie (s : State) (k : Nat) (x : Rat × Nat × Nat) : State :=
  let d := s.diePower k
  let ma := max (s.floorMa k) (currentOf x.1 (s.dieMv k))
  let e := d.moveTo s.now (s.choosePoint k ma)
  let ramp := s.rampOf k e.confirmed ma
  let t := s.putDiePower k { e with amps := (ma :: d.amps).take 5, ramp := ramp, stitch := x.2 }
  let p := diePageOf k
  let u := t.setReg p.1 p.2 0x040 (setBits (t.reg p.1 p.2 0x040) 18 16 e.opp)
  if d.ramp == 0 && ramp != 0 then u.irq .pwr 0 0b1 else u

/-- R406: the issue accounts gain over 2 µs: 1,600 cycles of 800 MHz, and 2,000 of the POSTs' 1.0 GHz. -/
def State.gainAll (s : State) : State :=
  let s1 := (List.range (Config.engines s.variant)).foldl (fun (t : State) g => t.gainIssue g (g / 2) 1600) s
  let s2 := (List.range (Config.dies s.variant)).foldl (fun (t : State) d => t.gainIssue (postAccount d) d 2000) s1
  if Config.hasMe s.variant then s2.gainIssue meAccount 8 1600 else s2

/-- R411, R421: the reasons that accrue; the time that a collective holds a die is booked to the reasons that it was raised for. -/
def State.reasonsNow (s : State) : List Bool :=
  let dies := (List.range 9).filter s.dieUp
  let held := fun (r : Nat) => dies.any fun k => (s.diePower k).coll != 0 && (s.diePower k).collFor.testBit r
  [s.bCap != 0, (dies.any fun k => (s.diePower k).therm != 0) || s.holdCauses.testBit 1 || held 1,
    (dies.any fun k => (s.diePower k).ramp != 0) || held 2,
    s.holdCauses.testBit 0, s.hostLevel != 0, s.pwr.sticky && s.bCap != 0 && s.pwr.est < s.pwr.meas]

/-- R421: `us` microseconds pass. -/
def State.accrue (s : State) (us : Nat) : State :=
  let on := s.reasonsNow
  { s with pwr := { s.pwr with reasons := (List.range 6).map fun k =>
      (s.pwr.reasons.getD k 0 + if on.getD k false then us else 0) % 2 ^ 64 } }

/-- R402: an estimate: MEMORY, LINKS and DISPLAY in mW, the matching die in mW, and the activity counts of the compute dies. -/
def State.powerEstimate (s : State) (hub : List Nat) (md : Nat) (counts : List (List Nat)) : State :=
  let power := fun (k : Nat) => if s.dieUp k then s.diePowerMw k md (counts.getD k []) else (0, 0, 0)
  let compute := ((List.range 9).map fun k => (power k).1).sum
  let dom := ((List.range 3).map fun k => ((hub.getD k 0 : Nat) : Rat)) ++ [compute]
  let t := (List.range 9).foldl (fun (u : State) k => if s.dieUp k then u.estimateDie k (power k) else u) s
  let v : State := { t with pwr := { t.pwr with
    acc := (List.range 4).map fun k => t.pwr.acc.getD k 0 + dom.getD k 0
    samples := t.pwr.samples + 1
    energy := t.pwr.energy + 2 * dom.sum
    hints := t.pwr.hints.filter fun h => !timeReached t.now h.finish } }
  v.collSync.gainAll.accrue 2

/-- POWER_ESTIMATE (R402): every 2 µs. -/
def execPowerEstimate (hub : List Nat) (md : Nat) (counts : List (List Nat)) (s : State) : Out :=
  if !s.powered then .next s
  else
    let t := s.at (s.pwr.lastEst + 2 * usTicks)
    .next ({ t with pwr := { t.pwr with lastEst := t.now } }.powerEstimate hub md counts).track

/-- VR_VOLTAGE_CONFIRMED (R407): the regulator of a die reports the voltage of the point in force; 8 is the matching die. -/
def execVrVoltageConfirmed (die : Nat) (s : State) : Out :=
  if !(die < 9 && s.dieUp die) then .next s
  else
    let d := s.diePower die
    .next (s.putDiePower die { d with confirmed := some d.opp, ramp := 0 }).collSync

/-! ### The cap (R404, R405, R412, R413) -/

/-- R405: the largest throttle fraction of a domain. -/
def maxFraction (dom : Nat) : Rat := if dom == 3 then 9 / 10 else 3 / 4

/-- R405: P_u of a domain: its last 1 ms power without its throttle. -/
def State.unthrottled (s : State) (dom : Nat) : Rat := s.pwr.dom.getD dom 0 / (1 - s.pwr.frac.getD dom 0)

/-- R405: `rest` is shed by the domains of a list, in its order: the fractions by domain. -/
def State.shareShed (s : State) : List Nat → Rat → List Rat → List Rat
  | [], _, f => f
  | k :: ks, rest, f =>
    let p := s.unthrottled k
    let x := if p ≤ 0 then 0 else min (maxFraction k) (rest / p)
    s.shareShed ks (rest - x * p) (f.set k x)

/-- R408: what the hints in their lead time add to the window mean. -/
def State.hintLead (s : State) (p1 : Rat) : Rat :=
  ((s.pwr.hints.filter fun h => timeReached s.now h.acceptedAt && !timeReached s.now h.leadEnd).map fun h =>
    max 0 ((h.energy : Rat) - p1 * (h.length : Rat) / 1000000) / (s.windowS : Rat)).sum

/-- R412: VR_CFG of an entry of the VR table. What the Insole image gives the register is entry 0, which it shows at reset. -/
def State.vrCfg (s : State) (k : Nat) : Nat :=
  match s.pwr.vr.find? k with
  | some v => v.toNat
  | none => if k == 0 then s.resetValue .pwr 0 0x060 else 0

/-- R412: the regulators in use. -/
def State.regulators (s : State) : List Nat := (List.range 16).filter fun k => (s.vrCfg k).testBit 31

/-- R412: a PMBus sample: the output power of each entry in mW, none for a read that fails. -/
def State.pmbusSample (s : State) (xs : List (Option Nat)) : State × Bool :=
  let on := s.regulators
  match on.find? fun k => (xs.getD k none).isNone with
  | none =>
    if s.fwPaused then (s, false)
    else
      let sum := (on.map fun k => (xs.getD k none).getD 0).sum
      ({ s with pwr := { s.pwr with
        meas := sum, invalid := 0, pmbusOk := true, energyMeas := (s.pwr.energyMeas + sum) % 2 ^ 64 } }, true)
  | some _ => (s, false)

/-- R412: a run of invalid samples. -/
def State.pmbusInvalid (s : State) (xs : List (Option Nat)) : State :=
  let n := s.pwr.invalid + 1
  let t := { s with pwr := { s.pwr with invalid := n } }
  if n == 100 then
    (({ t with pwr := { t.pwr with pmbusOk := false } }.irq .pwr 0 0b1000000).err .pwr 0 1
      ((s.regulators.find? fun k => (xs.getD k none).isNone).getD 0) 0)
  else t

/-- R413: estimate and measurement are compared over a valid sample. -/
def State.disagree (s : State) : State :=
  let diff : Rat := |s.pwr.est - s.pwr.meas|
  let n := if (s.capMw : Rat) / 5 < diff then s.pwr.differ + 1 else 0
  let t := { s with pwr := { s.pwr with differ := n, diffMax := max s.pwr.diffMax (diff / 1000) } }
  if n == 100 && !t.pwr.sticky then { t with pwr := { t.pwr with sticky := true } }.irq .pwr 0 0b1000 else t

/-- R404, R405: D follows the window mean, and is shared among the domains. -/
def State.capStep (s : State) : State :=
  let p1 := if s.pwr.sticky && s.pwr.pmbusOk then max s.pwr.est s.pwr.meas else s.pwr.est
  let ring := (p1 :: s.pwr.ring).take (1000 * s.windowS)
  let mean := ring.sum / (ring.length : Rat)
  let top := ((List.range 4).map fun k => maxFraction k * s.unthrottled k).sum
  let d := max 0 (min top (s.pwr.shed + (s.capGain : Rat) / 256 * (mean + s.hintLead p1 - (s.capMw : Rat))))
  let frac := s.shareShed ((List.range 4).map fun k => s.shareAt (3 - k)) d [0, 0, 0, 0]
  let t := { s with pwr := { s.pwr with ring := ring, avg := mean, shed := d, frac := frac } }
  if s.pwr.shed == 0 && d != 0 then t.irq .pwr 0 0b10 else t

/-- R404: the interval of 1 ms ends: its mean power by domain. -/
def State.closeInterval (s : State) : State :=
  if s.pwr.samples == 0 then { s with pwr := { s.pwr with est := s.pwr.dom.sum } }
  else
    let dom := s.pwr.acc.map fun x => x / (s.pwr.samples : Rat)
    { s with pwr := { s.pwr with dom := dom, est := dom.sum, acc := [0, 0, 0, 0], samples := 0 } }

/-- R404, R412, R413: the update of 1 ms. -/
def State.capUpdate (s : State) (xs : List (Option Nat)) : State :=
  let s1 := s.closeInterval
  let r := s1.pmbusSample xs
  let s2 := if r.2 then r.1.disagree else r.1.pmbusInvalid xs
  s2.capStep.collSync

/-- CAP_UPDATE (R404): every 1 ms. The operand holds the power that each regulator reports. -/
def execCapUpdate (samples : List (Option Nat)) (s : State) : Out :=
  if !s.powered then .next s
  else
    let t := s.at (s.pwr.lastCap + msTicks)
    .next ({ t with pwr := { t.pwr with lastCap := t.now } }.capUpdate samples)

/-! ### Phase hints (R408) -/

/-- The failing checks of a HINT_PHASE. -/
def Cmd.hintFails (c : Cmd) : List (Status × Nat) :=
  failIf (7 < c.num 10 1 || c.num 16 4 == 0 || 10000 < c.num 12 4 || 1000000 < c.num 16 4) .badOperand 0x02 ++
    failIf (c.num 11 1 != 0 || c.num 24 40 != 0) .badOperand 0x04

/-- The hint that a HINT_PHASE gives. -/
def Cmd.hint (c : Cmd) : Hint :=
  let lead := c.num 12 4
  { dies := (diesOf (c.num 8 2)).foldl (fun m k => m ||| 2 ^ k) 0, level := c.num 10 1, acceptedAt := c.acceptedAt
    start := c.acceptedAt + (lead - 25) * usTicks, finish := c.acceptedAt + (lead + c.num 16 4) * usTicks
    leadEnd := c.acceptedAt + lead * usTicks, energy := c.num 20 4, length := c.num 16 4 }

/-- R408: a hint takes effect, but not in HOLD. Dies that hold only absent engines are ignored. -/
def State.applyHint (s : State) (c : Cmd) : State :=
  if s.devState == 5 then s
  else
    let h := c.hint
    { s with pwr := { s.pwr with hints := s.pwr.hints ++ [{ h with dies := h.dies % 2 ^ Config.dies s.variant }] } }

/-- R408: an earlier hint of the aperture is still to be executed. -/
def State.hintBefore (s : State) (c : Cmd) : Bool :=
  s.cmds.any fun d => d.apt == c.apt && d.opcode == 0x8001 && d.place == .pending && d.uid < c.uid

/-- HINT_PHASE (R408): executed at acceptance, waiting for nothing but the hints before it. -/
def State.hintPhase (s : State) (c : Cmd) (e : Entry) : State :=
  let t := s.at (c.acceptedAt + 10)
  if s.devState == 6 then t.putCmd { c with place := .ended .version 0, entry := e }
  else match lowestCause c.hintFails with
    | some f => t.putCmd { c with place := .ended f.1 f.2, entry := e }
    | none => (t.applyHint c).putCmd { c with place := .ended .ok 0, entry := e }

/-- HINT_PHASE (R408). -/
def execHintPhase (uid : Nat) (s : State) : Out :=
  match s.cmd? uid with
  | none => .next s
  | some c =>
    if !(c.opcode == 0x8001 && c.place == .pending) || s.stopped || s.hintBefore c then .next s
    else match s.freeEntry c.ring with
      | none => .next s
      | some e => .next (s.hintPhase c e)

/-! ### Stops (R416, R418, R419) -/

/-- The dies of the package, 8 for the matching die. -/
def State.packageDies (s : State) : List Nat :=
  (List.range 9).filter fun k => if k < 8 then s.dieUsable k else s.mdUsable

/-- R367: a block goes OFF, and is no longer FAULTED. -/
def State.unfault (s : State) (b : Blk) (i : Nat) : State := s.putPage b i { s.page b i with faulted := false, disabling := false }

/-- R367: the blocks of a die go OFF. -/
def State.unfaultDie (s : State) (k : Nat) : State :=
  if k < 8 then ((s.unfault .ne (2 * k)).unfault .ne (2 * k + 1)).unfault .post k else s.unfault .me 0

/-- R418: a die stops its clocks, and what it held is lost. -/
def State.stopDie (s : State) (k : Nat) : State :=
  let p := diePageOf k
  let t := (s.setDieState p.1 p.2 3).unfaultDie k
  let u := if k < 8 then t.clearDie k else t.meDrop
  u.putDiePower k { u.diePower k with amps := [], stitch := (0, 0), ramp := 0 }

/-- R418: a stop with a cause. -/
def State.powerStop (s : State) (cause : Nat) (irqMask : Word) : State :=
  let t := ((s.enterHold cause).irq .pwr 0 irqMask).bump .pwr 0 0x098 1
  let u := if t.pwr.diesStopped then t else
    t.packageDies.foldl (fun (v : State) k => if v.dieUp k then v.stopDie k else v) t
  ({ u with pwr := { u.pwr with diesStopped := true } }.endAll Cmd.stopsInHold .powerStop 0).track

/-- R419: a stopped die starts again with its microcode and registers, and tile memory of zeros. -/
def State.startDie (s : State) (k : Nat) : State :=
  let p := diePageOf k
  if s.dieState k != 3 then s
  else if k < 8 then (s.setDieState p.1 p.2 2).devClear (tmemBase k) 0x10000000
  else s.setDieState p.1 p.2 2

/-- R419: since when the cause of a stop has been clear, THERMAL or COOLANT. -/
def State.clearSince (s : State) (thermal : Bool) : Option Nat := if thermal then s.pwr.cooled else s.pwr.coolBack

/-- R419: a cause keeps the dies stopped: its bit is set, and it has not been clear for RESTORE_MS. -/
def State.stillStopped (s : State) (thermal : Bool) : Bool :=
  s.holdCauses.testBit (b2n thermal) && !((s.clearSince thermal).any fun t => timeReached s.now (t + s.restoreMs * msTicks))

/-- R381, R419: the dies restart, and then the bits of the causes that stopped them clear. -/
def State.restored (s : State) : State :=
  let u := s.packageDies.foldl (fun (v : State) k => v.startDie k) s
  let v := { u with pins := { u.pins with dieSsc := min 2 (bits (u.bw.get 3 0x0A).toNat 1 0) } }
  (({ v with pwr := { v.pwr with diesStopped := false } }.clearCause (causeCoolant + causeThermal)).irq .pwr 0 0b10000000).track

/-- DIE_RESTART (R419): `thermal` names the cause that has been clear for RESTORE_MS; while the other keeps the dies stopped nothing else
happens. -/
def execDieRestart (thermal : Bool) (s : State) : Out :=
  match s.clearSince thermal with
  | none => .next s
  | some t =>
    if s.devState == 5 && s.holdCauses.testBit (b2n thermal) then
      let u := s.at (t + s.restoreMs * msTicks)
      .next (if u.stillStopped (!thermal) then u else u.restored)
    else .next s

/-- R418: the COOLANT stop is due: a low has lasted for DEBOUNCE_MS. -/
def State.coolantStop (s : State) (since : Nat) : State :=
  if s.powered && !s.holdCauses.testBit 0 then
    ({ (s.at (since + s.debounceMs * msTicks)) with pwr := { s.pwr with coolBack := none } }.powerStop causeCoolant 0b10000)
  else s

/-- COOLANT_STOP (R418). -/
def execCoolantStop (s : State) : Out :=
  match s.pwr.coolLow with
  | some t => .next (if !s.pins.coolOk then s.coolantStop t else s)
  | none => .next s

/-- COOL_FLOW_OK_FALL (R418): the filtered level falls. -/
def execCoolFlowOkFall (s : State) : Out :=
  if s.pins.coolOk then
    let t := s.filtered .cool 0
    .next { t with pins := { t.pins with coolOk := false }, pwr := { t.pwr with coolLow := some t.now, coolBack := none } }
  else .next s

/-- COOL_FLOW_OK_RISE (R418, R419): the filtered level rises. A low shorter than DEBOUNCE_MS only counts. -/
def execCoolFlowOkRise (s : State) : Out :=
  if s.pins.coolOk then .next s
  else
    let s := s.filtered .cool 0
    let since := s.pwr.coolLow.getD s.now
    let short := !timeReached s.now (since + s.debounceMs * msTicks)
    let t := if short then s.bump .pwr 0 0x094 1
      else if s.holdCauses.testBit 0 then s else s.coolantStop since
    .next { t with
      pins := { t.pins with coolOk := true }
      pwr := { t.pwr with coolLow := none, coolBack := if t.holdCauses.testBit 0 then some t.now else none } }

/-! ### Temperatures (R416) -/

/-- R416: b_therm in 1/16 of a die after 1 ms at or above the throttle point, or 2 °C below it. -/
def thermStep (old : Nat) (hot cool : Bool) : Nat := if hot then min 16 (old + 1) else if cool then old - 1 else old

/-- R374: the sensor of a die, its highest value, and THERM. -/
def State.dieSensor (s : State) (k : Nat) (temp old : Int) : State :=
  let limit : Int := 16 * (s.throttleC : Int)
  let p := diePageOf k
  let max0 := signed 16 (bits (s.reg p.1 p.2 0x048) 15 0)
  let t := s.setReg p.1 p.2 0x048 (toCode 16 (max max0 temp))
  if limit ≤ temp && old < limit then (t.irq p.1 p.2 0b10).err p.1 p.2 2 0 0 else t

/-- R416: the thermal tick of 1 ms: temperatures in 1/16 °C of compute dies 0 to 7, the matching die, and the hub. -/
def State.thermalTick (s : State) (temps : List Int) : State :=
  let limit : Int := 16 * (s.throttleC : Int)
  let dies := s.packageDies
  let at_ := fun (k : Nat) => temps.getD k 0
  let hubHot := limit ≤ at_ 9
  let hubCool := at_ 9 < limit - 32
  let s1 := dies.foldl (fun (t : State) k => t.dieSensor k (at_ k) (t.pwr.temps.get k 0)) s
  let s2 := dies.foldl (fun (t : State) k =>
    let d := t.diePower k
    let hot := limit ≤ at_ k || (k < 8 && hubHot)
    let cool := at_ k < limit - 32 && (8 ≤ k || hubCool)
    t.putDiePower k { d with therm := thermStep d.therm hot cool }) s1
  let all := dies ++ [9]
  let hot := all.any fun k => limit ≤ at_ k
  let cold := all.all fun k => at_ k < limit - 32
  let alert := hot || (s.pins.alert && !cold)
  let cooled := if all.all fun k => at_ k < limit - 160 then some (s.pwr.cooled.getD s.now) else none
  let s3 : State := { s2 with
    pins := { s2.pins with alert := alert, smbAlert := s2.pins.smbAlert || alert != s.pins.alert }
    pwr := { s2.pwr with temps := all.foldl (fun (m : SMap Int) k => m.set k (at_ k)) s2.pwr.temps, cooled := cooled } }
  let s4 := if hot && !s.pins.alert then s3.irq .pwr 0 0b100 else s3
  let s5 := if s4.powered && (all.any fun k => 1680 ≤ at_ k) && !s4.holdCauses.testBit 1 then s4.powerStop causeThermal 0b100000 else s4
  s5.collSync

/-- THERMAL_TICK (R416): every 1 ms. -/
def execThermalTick (temps : List Int) (s : State) : Out :=
  if !s.powered then .next s
  else
    let t := s.at (s.pwr.lastTherm + msTicks)
    .next ({ t with pwr := { t.pwr with lastTherm := t.now } }.thermalTick temps).track

/-- CRITICAL_TRIP (R380, R416): a die reaches 115 °C: in any state the device goes OFF, and no record leaves it. -/
def execCriticalTrip (s : State) : Out :=
  if s.devState == 0 then .next s
  else
    let t := s.halt false
    .next ({ t with pins := { t.pins with trip := true, smbAlert := true } }.setReg .basecamp 0 0x040
      (t.reg .basecamp 0 0x040 % 2 ^ 31 + if t.pins.bc then 2 ^ 31 else 0))

/-! ### Register writes (R413, R426) -/

/-- R413: DISAGREE written: writing 1 to STICKY clears it and DIFF_MAX. -/
def State.disagreeWrite (s : State) (v : Nat) : State :=
  if v.testBit 31 then { s with pwr := { s.pwr with sticky := false, diffMax := 0, differ := 0 } } else s

/-- DISAGREE_CLEAR (R413). -/
def execDisagreeClear (s : State) : Out := .next (s.hostWo .pwr 0 fun t => t.disagreeWrite (2 ^ 31))

/-- R425, R426: SHARE_ORDER written; one that is no permutation is ignored. -/
def State.shareOrderWrite (s : State) (v : Nat) : State :=
  if ((List.range 4).map fun k => bits v (2 * k + 1) (2 * k)).Nodup then s.setReg .pwr 0 0x048 (v % 256) else s.err .pwr 0 2 0 0

/-- SHARE_ORDER_WRITE (R425). -/
def execShareOrderWrite (value : Nat) (s : State) : Out := .next (s.host .pwr 0 fun t => t.shareOrderWrite value)

end Sys2Proof.Machine
end

