-- ==== Sys2Proof/Machine/Firmware.lean ====
section
/-!
DEFINITION. Signatures, the package identity record, flash images, the Insole image and the version decision (R382 to R396).
-/

-- One declaration at a time: the threads of a parallel elaboration take memory together.
set_option Elab.async false

namespace Sys2Proof.Machine

/-! ### RSASSA-PSS (R382) -/

/-- `b ^ e mod n`, over the low `k` bits of the exponent. -/
def powMod (n b e : Nat) : Nat → Nat
  | 0 => 1 % n
  | k + 1 =>
    let h := powMod n (b * b % n) (e / 2) k
    if e % 2 == 1 then b * h % n else h

/-- The number that big-endian bytes spell. -/
def beNat (bs : List Byte) : Nat := leNat bs.reverse

/-- MGF1 with SHA-256: `n` blocks of 32 bytes. -/
def mgf1 (seed : List Byte) (n : Nat) : List Byte := (List.range n).flatMap fun k => sha256 (seed ++ beBytes 4 k)

/-- R382: RSASSA-PSS with SHA-256, MGF1 with SHA-256 and a 32 B salt, under an RSA-3072 key. -/
def pssVerify (n e : Nat) (msg sig : List Byte) : Bool :=
  let x := beNat sig
  if n < 2 ^ 3071 || n ≤ x || sig.length != 384 then false
  else
    let em := beBytes 384 (powMod n x e 32)
    let masked := em.take 351
    let h := (em.drop 351).take 32
    let db0 := (masked.zip (mgf1 h 11)).map fun p => p.1 ^^^ p.2
    let db := match db0 with
      | [] => []
      | b :: bs => (b &&& 0x7F) :: bs
    let salt := db.drop 319
    em.getLast? == some 0xBC && (masked.headD 0).toNat < 128 && db.take 319 == List.replicate 318 0 ++ [1] &&
      sha256 (List.replicate 8 0 ++ sha256 msg ++ salt) == h

/-- A signature under a key of the layout of R387: the modulus is big-endian, the exponent little-endian as R5 has every other field. -/
def keyVerify (modulus expo msg sig : List Byte) : Bool := pssVerify (beNat modulus) (leNat expo) msg sig

/-! ### The package identity record (R382, R383) -/

/-- The record as secure NOR holds it. -/
def Boot.identity (b : Boot) : List Byte := b.nor.readRun 0 0 4096

/-- R383: the checks of the boot ROM. -/
def Boot.identityGood (b : Boot) : Bool :=
  let r := b.identity
  leNat (r.take 2) == 0x0011 && leNat ((r.drop 2).take 2) == 4096 && sha256 ((r.drop 2560).take 388) == b.romKey &&
    keyVerify ((r.drop 2560).take 384) ((r.drop 2944).take 4) (r.take 3712) (r.drop 3712)

/-- R383: what the record tells of the part. The DRAM density is the board's. -/
def Boot.partOf (b : Boot) (p : Part) : Part :=
  let r := b.identity
  let num := fun (off n : Nat) => leNat ((r.drop off).take n)
  { variant := (Config.ofCode (num 4 1)).getD p.variant, grade := num 5 1, pkgRev := num 6 1, serial := num 8 8
    uids := ((List.range 9).map fun k => num (64 + 8 * k) 8) ++ [num 56 8], dense := p.dense
    cds := num 16 1, md := num 17 1, ports := num 18 1, outputs := num 19 1 }

/-- R382: FW_KEY_HASH. -/
def Boot.fwKeyHash (b : Boot) : List Byte := b.nor.readRun 0 24 32

/-! ### Slots and images (R385 to R388) -/

def Boot.flashRun (b : Boot) (a n : Nat) : List Byte := b.flash.readRun 0xFF a n
def Boot.flashNum (b : Boot) (a n : Nat) : Nat := leNat (b.flashRun a n)

/-- R385: where a slot begins. -/
def slotBase (k : Nat) : Nat := k * 0xC00000

/-- R386: the directory of a slot is valid. -/
def Boot.directoryGood (b : Boot) (k : Nat) : Bool :=
  let d := b.flashRun (slotBase k) 80
  leNat (d.take 2) == 0x0014 && crc32 (d.take 8 ++ [0, 0, 0, 0] ++ d.drop 12) == leNat ((d.drop 8).take 4)

/-- R386: GEN of a slot. -/
def Boot.slotGen (b : Boot) (k : Nat) : Word := BitVec.ofNat 32 (b.flashNum (slotBase k + 4) 4)

/-- R8, R386: which of two generations is tried or used first: the second one only when it is after the first. -/
def laterSecond (a b : Word) : Bool := (b - a).toNat != 0 && (b - a).toNat < 2 ^ 31

/-- R386: the valid slots, in the order in which they are tried. -/
def Boot.slotOrder (b : Boot) : List Nat :=
  match b.directoryGood 0, b.directoryGood 1 with
  | true, true => if laterSecond (b.slotGen 0) (b.slotGen 1) then [1, 0] else [0, 1]
  | true, false => [0]
  | false, true => [1]
  | false, false => []

/-- R386: the entry of an image type in a slot's directory: its flash address and its LENGTH. -/
def Boot.imageAt (b : Boot) (k type : Nat) : Option (Nat × Nat) :=
  ((List.range 4).map fun i => slotBase k + 16 + 16 * i).findSome? fun a =>
    let off := b.flashNum (a + 4) 4
    let len := b.flashNum (a + 8) 4
    if b.flashNum a 1 == type && len != 0 && off % 64 == 0 && off + len ≤ 0xC00000 then some (slotBase k + off, len) else none

/-- R387: the largest body of a type. -/
def bodyLimit : Nat → Nat
  | 1 => 4 * 2 ^ 20
  | 2 => 2 ^ 20
  | 3 => 512 * 1024
  | _ => 64 * 1024

/-- R388: an image is accepted. -/
def Boot.imageGood (b : Boot) (type a len : Nat) : Bool :=
  let h := b.flashRun a 1024
  let num := fun (off n : Nat) => leNat ((h.drop off).take n)
  let body := num 12 4
  num 0 2 == 0x0012 && num 2 1 == type && body + 1024 == len && body ≤ bodyLimit type &&
    sha256 ((h.drop 64).take 388) == b.fwKeyHash &&
    keyVerify ((h.drop 64).take 384) ((h.drop 448).take 4) (h.take 640) (h.drop 640) &&
    sha256 (b.flashRun (a + 1024) body) == (h.drop 16).take 32 && b.minSvn ≤ num 8 4

/-- R388: the accepted image of a type in a slot. -/
def Boot.image (b : Boot) (k type : Nat) : Option Nat :=
  match b.imageAt k type with
  | some (a, len) => if b.imageGood type a len then some a else none
  | none => none

/-- R387: LEVEL, BUILD and the digest of the image at an address. -/
def Boot.levelAt (b : Boot) (a : Nat) : Nat := b.flashNum (a + 4) 2
def Boot.buildAt (b : Boot) (a : Nat) : Nat := b.flashNum (a + 6) 2
def Boot.digestAt (b : Boot) (a : Nat) : List Byte := sha256 (b.flashRun a 640)
/-- LEVEL and BUILD as a version register holds them. -/
def Boot.verAt (b : Boot) (a : Nat) : Nat := b.levelAt a * 2 ^ 16 + b.buildAt a

/-! ### The Insole image (R391 to R393) -/

/-- The bits of a register that this manual marks as overridable by the Insole image; of ENABLE where it can be written. -/
def Blk.overridable (b : Blk) (off : Nat) : Nat :=
  match b, off with
  | .ne, 0x00C => 0x9
  | .sched, 0x040 => 0xFFFF
  | .sched, 0x044 => 0x3F
  | .sched, 0x048 => 0xFFFF
  | .ne, 0x044 => 0xFFFF
  | .ne, 0x058 => 0xFFFF
  | .ve, 0x044 => 0xFFFF
  | .xp, 0x044 => 0xFFFF
  | .post, 0x044 => 0xFFFF
  | .me, 0x044 => 0xFFFF
  | .me, 0x048 => 0xFFFFFFFF
  | .me, 0x04C => 0x8000000F
  | .raster, 0x044 => 0xFFFF
  | .raster, 0x048 => 0x3F01
  | .tmem, 0x050 => 0x80000000
  | .hsram, 0x040 => 0x1F00
  | .welt, 0x048 => 0xFF
  | .memc, 0x044 => 0x80000007
  | .memc, 0x048 => 0xFF
  | .memc, 0x04C => 0x80000000
  | .sec, 0x100 => 0xE0000000
  | .hif, 0x044 => 0x3
  | .dma, 0x050 => 0xFFFF
  | .pwr, 0x044 => 0x0F00FFFF
  | .pwr, 0x048 => 0xFF
  | .pwr, 0x04C => 0xFF
  | .pwr, 0x054 => 0xFF
  | .pwr, 0x058 => 0xFFFF0000
  | .pwr, 0x060 => 0x8FFF00FF
  | .basecamp, 0x044 => 0x6
  | .basecamp, 0x048 => 0x7
  | .fault, 0x044 => 0x00FF0003
  | .perf, 0x0A8 => 0x1
  | .dptx, 0x044 => 0xFC
  | .dptx, 0x048 => 0xFF3F
  | .dptx, 0x054 => 0xBFFFFFFF
  | .disp, o =>
    if [0x04C, 0x050, 0x06C, 0x070, 0x074, 0x078, 0x07C, 0x080, 0x084, 0x088, 0x08C].contains o then
      (match Blk.disp.regAt o with
       | some d => d.rw
       | none => 0)
    else if o == 0x00C then 0x1 else 0
  | b, 0x00C => if b.enableWritable then 1 else 0
  | _, _ => 0

/-- R392: a record's MASK lies within what can be overridden. IECC_CTRL exists at port 0 only, and LOCKOUT in the hub's page. -/
def recordGood (addr mask : Nat) : Bool :=
  match pageAt addr with
  | some (b, i) =>
    addr % 4 == 0 && mask &&& b.overridable (addr % 0x1000) == mask &&
      !(b == .memc && addr % 0x1000 == 0x044 && i != 0 && mask != 0) && !(b == .perf && i != 0x40 && mask != 0)
  | none => addr % 4 == 0 && mask == 0

/-- R385: where an Insole copy lies. -/
def copyBase (k : Nat) : Nat := 0x1800000 + k * 0x10000

/-- R391: a copy's fields. -/
def Boot.copyNum (b : Boot) (k off n : Nat) : Nat := b.flashNum (copyBase k + off) n
def Boot.copySigned (b : Boot) (k : Nat) : Bool := (b.copyNum k 9 1).testBit 0
def Boot.copyGen (b : Boot) (k : Nat) : Word := BitVec.ofNat 32 (b.copyNum k 4 4)

/-- A copy's record: ADDR, VALUE and MASK. -/
def Boot.copyRecord (b : Boot) (k i : Nat) : Nat × Nat × Nat :=
  let x := b.flashRun (copyBase k + 64 + 12 * i) 12
  (leNat (x.take 4), leNat ((x.drop 4).take 4), leNat (x.drop 8))

/-- R392: the first record that overrides what it may not. -/
def Boot.badRecord (b : Boot) (k : Nat) : Option Nat :=
  (List.range (b.copyNum k 2 2)).find? fun i =>
    let r := b.copyRecord k i
    !recordGood r.1 r.2.2

/-- A copy that is erased holds no byte but 0xFF. -/
def Boot.copyErased (b : Boot) (k : Nat) : Bool := !(b.flash.any fun c => copyBase k ≤ c.1 && c.1 < copyBase k + 0x10000)

/-- R392, R401: why a copy is not valid, with the record of REASON 5. -/
def Boot.copyReason (b : Boot) (k : Nat) : Option (Nat × Nat) :=
  let n := b.copyNum k 2 2
  let size := 64 + 12 * n
  let sig := b.flashRun (copyBase k + size) 1024
  let head := b.flashRun (copyBase k) size
  if b.copyErased k then some (6, 0)
  else if b.copyNum k 0 2 != 0x0013 || 5000 < n || 65536 < size + (if b.copySigned k then 1024 else 0) then some (2, 0)
  else if crc32 (head.take 12 ++ [0, 0, 0, 0] ++ head.drop 16) != b.copyNum k 12 4 then some (1, 0)
  else if b.copySigned k && !keyVerify (sig.take 384) ((sig.drop 384).take 4) (head ++ sig.take 388) (sig.drop 640) then some (3, 0)
  else match b.custKey with
    | some h =>
      if !b.copySigned k then some (4, 0)
      else if sha256 (sig.take 388) != h then some (3, 0)
      else (b.badRecord k).map fun i => (5, i)
    | none => (b.badRecord k).map fun i => (5, i)

/-- R392: the copy in use. -/
def Boot.chosenCopy (b : Boot) : Option Nat :=
  match b.copyReason 0, b.copyReason 1 with
  | none, none => some (b2n (laterSecond (b.copyGen 0) (b.copyGen 1)))
  | none, some _ => some 0
  | some _, none => some 1
  | some _, some _ => none

/-- R401: INSOLE_STATUS. With no valid copy it tells of copy A, or of copy B when A is erased. -/
def Boot.insoleStatus (b : Boot) : Nat :=
  match b.chosenCopy with
  | some k => 2 ^ 31 + b2n (b.copySigned k) * 2 ^ 30 + b.copyNum k 2 2
  | none =>
    let r := (if b.copyErased 0 then b.copyReason 1 else b.copyReason 0).getD (0, 0)
    r.1 * 2 ^ 24 + r.2

/-- R321: D_INSOLE: the SHA-256 of a copy's image, its records and its signature block (DEDUCED, assumption 40). -/
def Boot.insoleDigest (b : Boot) (k : Nat) : List Byte :=
  sha256 (b.flashRun (copyBase k) (64 + 12 * b.copyNum k 2 2 + if b.copySigned k then 1024 else 0))

/-- R366, R393: a record has been applied to a page that is held already: it shows so unless software has written to it. A record of BLK_CTRL
gives the page its ENABLE and, of an NE, GATE_EN. -/
def State.markInsole (s : State) (b : Blk) (i : Nat) (ctrl : Option Nat) : State :=
  match s.pages.find? (b.base i) with
  | some p =>
    let q := { p with src := max p.src 1 }
    s.putPage b i (match ctrl with
      | some v => { q with enable := if b.enableWritable then v.testBit 0 else q.enable, extra := BitVec.ofNat 32 v &&& 8 }
      | none => q)
  | none => s

/-- R393: a record acts on the result of those before it. A register takes the record's result whatever it holds. -/
def State.applyRecord (s : State) (r : Nat × Nat × Nat) : State :=
  match pageAt r.1 with
  | none => s
  | some (b, i) =>
    if !s.blockPresent b i then s
    else
      let off := r.1 % 0x1000
      let old := if off == 0x00C then
          (match s.insole.find? r.1 with
           | some v => v.toNat
           | none => b2n b.enableReset + if b == .ne then 8 else 0)
        else s.resetValue b i off
      let v := old - (old &&& r.2.2) + (r.2.1 &&& r.2.2)
      { s with
        insole := s.insole.set r.1 (BitVec.ofNat 32 v)
        regs := if r.2.2 == 0 then s.regs else s.regs.erase r.1 }.markInsole b i (if off == 0x00C then some v else none)

/-- R389: the records of a copy that a boot applies: at step 6 those of hub pages, with `dies` at steps 7 and 8 the others too. -/
def Boot.recordsOf (b : Boot) (k : Nat) (dies : Bool) : List (Nat × Nat × Nat) :=
  ((List.range (b.copyNum k 2 2)).map (b.copyRecord k)).filter fun r => dies || r.1 < 0x400000

/-- R393: the records of the copy in use are applied, in order. -/
def State.applyInsole (s : State) (copy : Option Nat) (dies : Bool) : State :=
  let t := { s with insole := [] }
  match copy with
  | none => t
  | some k => (s.boot.recordsOf k dies).foldl State.applyRecord t

/-! ### Interface levels (R394, R395) -/

/-- R394: `n` U16 values of a manifest body at an address. -/
def Boot.levels (b : Boot) (a n : Nat) : List Nat := (List.range n).map fun i => b.flashNum (a + 2 * i) 2

/-- R394: a set's level matches one of an entry; none stands for any level. -/
def levelMatches (x : Option Nat) (y : Nat) : Bool := y == 0xFFFF || x.all (· == y)

/-- R394, R395: the set is equal to a tested entry of the manifest at `a`. -/
def Boot.tested (b : Boot) (a : Nat) (set : List (Option Nat)) : Bool :=
  (List.range (b.flashNum (a + 1024) 2)).any fun i =>
    ((set.zip (b.levels (a + 1024 + 64 + 8 * i) 4)).all fun p => levelMatches p.1 p.2)

/-- R394, R395: the set is inside one range entry. -/
def Boot.inRange (b : Boot) (a : Nat) (set : List (Option Nat)) : Bool :=
  let t := b.flashNum (a + 1024) 2
  (List.range (b.flashNum (a + 1026) 2)).any fun i =>
    let xs := b.levels (a + 1024 + 64 + 8 * t + 16 * i) 8
    (List.range 4).all fun j => (set.getD j none).all fun l => xs.getD (2 * j) 0 ≤ l && l ≤ xs.getD (2 * j + 1) 0

/-- R395: the decision on a set: whether it runs, and whether UNTESTED_PAIR is set. -/
def Boot.decide (b : Boot) (a policy : Nat) (set : List (Option Nat)) : Option Bool :=
  if b.tested a set then some false
  else if b.inRange a set && policy == 1 then some true
  else none

/-! ### What a cold boot finds (R386, R389, R395, R396) -/

/-- What the boot of a slot comes to: the plan and, where it does not run, RECOVERY_CAUSE; whether the hub firmware was accepted. -/
structure SlotResult where
  plan : BootPlan
  cause : Nat
  fwOk : Bool
  deriving DecidableEq, Repr

/-- R397: the digest of the image of a type in a slot, accepted or not; zeros where the slot has none. -/
def Boot.foundDigest (b : Boot) (k type : Nat) : List Byte :=
  match b.imageAt k type with
  | some x => b.digestAt x.1
  | none => List.replicate 32 0

/-- R389 steps 3 to 8, for one slot: hub firmware, manifest, Insole, decision, engine and matching microcode. -/
def Boot.bootSlot (b : Boot) (md : Bool) (k : Nat) : SlotResult :=
  let zeros := List.replicate 32 (0 : Byte)
  let ident := sha256 b.identity
  match b.image k 1 with
  | none => ⟨{ BootPlan.none with slot := k, digests := [b.foundDigest k 1, zeros, zeros, zeros, zeros, ident] }, 2, false⟩
  | some fw =>
    let p0 : BootPlan := { BootPlan.none with
      slot := k, fwVer := b.verAt fw, svn := b.flashNum (fw + 8) 4
      digests := [b.digestAt fw, zeros, zeros, zeros, b.foundDigest k 4, ident] }
    match b.image k 4 with
    | none => ⟨p0, 6, true⟩
    | some man =>
      let copy := b.chosenCopy
      let policy := match copy with
        | some c => b2n (b.copyNum c 8 1 == 1)
        | none => 0
      let eng := b.image k 2
      let mat := if md then b.image k 3 else none
      let p1 : BootPlan := { p0 with
        copy := copy, policy := policy, manifestVer := b.buildAt man, insoleStatus := b.insoleStatus
        insoleVer := match copy with
          | some c => b.copyNum c 10 2 * 2 ^ 16 + b.copyNum c 4 2
          | none => 0
        engineVer := (eng.map b.verAt).getD 0, matchVer := (mat.map b.verAt).getD 0
        digests := [b.digestAt fw, b.foundDigest k 2, if md then b.foundDigest k 3 else zeros,
          (copy.map fun c => b.insoleDigest c).getD zeros, b.digestAt man, ident] }
      let level := fun (type : Nat) => (b.imageAt k type).map fun x => b.levelAt x.1
      let set := fun (m : Option Nat) => [some (b.levelAt fw), level 2, m, copy.map fun c => b.copyNum c 10 2]
      let bad := md && mat.isNone
      let mlevel := if md && !bad then level 3 else none
      let cause := if eng.isNone then 4 else 0
      match b.decide man policy (set mlevel), b.decide man policy (set none) with
      | some u, _ => ⟨{ p1 with untested := u, meIncompat := bad }, cause, true⟩
      | none, some u => ⟨{ p1 with untested := u, meIncompat := true }, cause, true⟩
      -- R401: no copy has been applied
      | none, none => ⟨{ p1 with insoleStatus := if copy.isSome then 0 else b.insoleStatus }, 3, true⟩

/-- R386: the slots are tried in order; the next one only after a hub firmware that fails or rejects the set. -/
def Boot.bootSlots (b : Boot) (md : Bool) : List Nat → SlotResult → SlotResult
  | [], last => last
  | k :: ks, _ =>
    let r := b.bootSlot md k
    if r.cause == 2 || r.cause == 3 then b.bootSlots md ks r else r

/-- R386: what a cold boot comes to. With no valid slot it ends with CODE 2. -/
def Boot.coldPlan (b : Boot) (md : Bool) : SlotResult :=
  b.bootSlots md b.slotOrder ⟨{ BootPlan.none with digests := (List.replicate 5 (List.replicate 32 0)) ++ [sha256 b.identity] }, 2, false⟩

end Sys2Proof.Machine
end

