-- ==== Sys2Proof/Machine/Boot.lean ====
section
/-!
DEFINITION. Reset, boot, wake, sleep and field update (R373, R378 to R401, R423, R424, R443, R475).
-/

-- One declaration at a time: the threads of a parallel elaboration take memory together.
set_option Elab.async false

namespace Sys2Proof.Machine

/-! ### The end of all work (R423, R443) -/

/-- The record of a command is produced now, whatever entry it can have. -/
def State.recordNow (s : State) (uid : Nat) : State :=
  match s.cmd? uid with
  | none => s
  | some c =>
    match c.place with
    | .ended st cause =>
      let t := if c.replay then s.endReplay c st else s.produce ((s.withEntry c).getD c) st cause
      (match t.step? uid with
       | some x => if c.opcode == 1 then t.closeStep x else t
       | none => t)
    | _ => s

/-- Every accepted command that has no record ends with a status. -/
def State.endWork (s : State) (st : Status) : State :=
  let t := s.endAll (fun _ => true) st 0
  { t.meDrop with stopped := true }

/-- R423: every record and every credit count is written. -/
def State.flushRecords (s : State) : State :=
  let t := (s.cmds.map (·.uid)).foldl State.recordNow s
  (List.range 16).foldl (fun (u : State) k => if (u.apt k).consumed == (u.apt k).credWritten then u else u.writeCredit k) t

/-! ### Device reset (R373, R443) -/

/-- R373, R443: DEV_RESET written. -/
def State.devResetWrite (s : State) (v : Nat) : State :=
  if bits v 31 16 != 0xB007 then s.err .hubSys 0 1 0 0
  else if v.testBit 0 then ({ s.endWork .unitDisabled with resetPending := true }).track
  else s

/-- DEV_RESET (R443). -/
def execDevReset (value : Nat) (s : State) : Out := .next (s.hostWo .hubSys 0 fun t => t.devResetWrite value)

/-- R443: every record is in its completion ring. -/
def State.recordsOut (s : State) : Bool := !(s.cmds.any Cmd.live) && s.waiting.isEmpty && s.backlog.isEmpty

/-- R373: the device reset acts. -/
def State.deviceReset (s : State) : State :=
  let reload := (s.reg .sec 0 0x05C).testBit 2
  let t := s.wipe
  { t with
    boot := { t.boot with path := some (if reload then 0 else 2), timeZero := s.now, waitGood := false } }.setDevState 2

/-- DEVICE_RESET_ACT (R373). -/
def execDeviceResetAct (s : State) : Out := .next (if s.resetPending && s.recordsOut then s.deviceReset else s)

/-! ### The end of a boot (R389, R390, R395 to R397, R401) -/

/-- R401: BOOT_STATUS of a plan; BOOT_TIME to the nearest 100 µs. -/
def BootPlan.status (p : BootPlan) (path ticks : Nat) : Nat :=
  path * 2 ^ 30 + p.slot * 2 ^ 29 + (p.copy.getD 2) * 2 ^ 27 + b2n p.untested * 2 ^ 26 + p.policy * 2 ^ 25 +
    b2n p.meIncompat * 2 ^ 24 + min 0xFFFF ((ticks + 5000) / 10000)

/-- R401: what the registers of SEC show of a boot. -/
def State.showPlan (s : State) (path ticks : Nat) : State :=
  let p := s.boot.plan
  ((((s.setReg .sec 0 0x040 (p.status path ticks)).setReg .sec 0 0x048 p.insoleStatus).setReg .sec 0 0x04C p.fwVer).setReg
    .sec 0 0x050 p.manifestVer).setReg .sec 0 0x054 p.insoleVer

/-- R401: BOOT_COUNT after a boot by `path`: boots and wakes since the last cold path. -/
def Boot.countBoot (b : Boot) (path : Nat) : Nat := if path == 0 then 0 else satAdd 32 b.boots 1

/-- R392, R395: IRQ UNTESTED_PAIR and IRQ INSOLE_INVALID of a boot that has come to the Insole copies and the decision. -/
def State.planIrqs (s : State) : State :=
  let p := s.boot.plan
  let t := if p.untested then s.irq .sec 0 0b001 else s
  if p.copy.isNone then t.irq .sec 0 0b010 else t

/-- R380, R397: the boot ends in RECOVERY with a code. Nothing that a wake could use is retained, and debug access is LOCKED (R461). -/
def State.recover (s : State) (path ticks code : Nat) : State :=
  let t := ((s.showPlan path ticks).setReg .sec 0 0x044 code).dbgClose
  let t := if 3 ≤ code && code ≤ 5 then t.planIrqs else t
  { t with boot := { t.boot with path := none, kept := false, boots := t.boot.countBoot path } }.setDevState 6

/-- R389, R374: a die is powered and its microcode loaded. -/
def State.loadDie (s : State) (k : Nat) (ucOk : Bool) (ver : Nat) : State :=
  let p := diePageOf k
  let opp := s.bootPoint k
  let t := s.setReg p.1 p.2 0x040 (2 * 2 ^ 30 + b2n ucOk * 2 ^ 29 + opp * 2 ^ 16 + if k < 8 then 3 else 1)
  { t.setReg p.1 p.2 0x04C ver with pins := { t.pins with vrEn := t.pins.vrEn ||| 2 ^ k } }

/-- R389 steps 7 and 8: the dies, but those that are lost (R371); `ucFail` is the mask of dies whose microcode load fails. -/
def State.loadDies (s : State) (ucFail : Nat) : State :=
  let p := s.boot.plan
  let t := ((List.range (Config.dies s.variant)).filter s.dieUsable).foldl (fun (u : State) k =>
    u.loadDie k (!ucFail.testBit k) p.engineVer) s
  if s.mdUsable then t.loadDie 8 (!ucFail.testBit 8 && !p.meIncompat) p.matchVer else t

/-- R290: the modules of the package are UP. -/
def State.weltUpAll (s : State) : State :=
  { s with welt := ((List.range 25).filter s.modulePresent).map fun m => (m, ⟨2, (s.module m).repaired, 0, 0⟩) }

/-- R293, R303: the ports are ready. -/
def State.portsReady (s : State) : State :=
  (List.range (Config.ports s.variant)).foldl (fun (u : State) p =>
    u.setReg .memc p 0x040 (2 * 2 ^ 30 + b2n s.part.dense * 2 ^ 20)) s

/-- R303: the present ports of a mask fail training. -/
def State.trainFail (s : State) (bad : Nat) : State :=
  ((List.range (Config.ports s.variant)).filter bad.testBit).foldl (fun (u : State) p => (u.irq .memc p 0b1).err .memc p 1 0 0) s

/-- R480: the spread settings that a PLL takes at a lock: `SSC_CTRL` of the board window, of which 3 acts as 2. -/
def State.lockPlls (s : State) (dram : Bool) : State :=
  let c := (s.bw.get 3 0x0A).toNat
  let f := fun (lo : Nat) => min 2 (bits c (lo + 1) lo)
  { s with pins := { s.pins with
    coreSsc := f 0, dieSsc := f 0, tmgSsc := f 2, dramSsc := if dram then f 4 else s.pins.dramSsc } }

/-- R401: the records that the copy in use applies: those of present pages (R393). -/
def State.recordsApplied (s : State) (k : Nat) (dies : Bool) : Nat :=
  ((s.boot.recordsOf k dies).filter fun r => (pageAt r.1).any fun p => s.blockPresent p.1 p.2).length

/-- R389 step 9, R390, R378: the device enters READY, or LIVE where the Insole image enables DISP, with debug access LOCKED (R461). `bad` is the mask of dies that fail again. -/
def State.enterReady (s : State) (path ticks ucFail bad : Nat) : State :=
  let t2 := (((s.loadDies ucFail).weltUpAll).showPlan path ticks).planIrqs.dbgClose
  let t3 : State := { t2 with
    boot := { t2.boot with path := none, kept := true, boots := t2.boot.countBoot path }
    dbg := { t2.dbg with lockout := t2.dbg.lockout || (t2.resetValue .perf 0x40 0x0A8).testBit 0 }
    pwr := { t2.pwr with coolLow := if t2.pins.coolOk then none else some t2.now, lastEst := t2.now, lastCap := t2.now
                         lastTherm := t2.now } }
  let t4 := t3.setDevState 3
  let t4 := (if (t4.page .disp 0).enable then t4.startDisplay else t4).settleState
  let t5 := ((List.range 9).filter bad.testBit).foldl State.loseDie t4
  if (t5.reg .sec 0 0x05C).testBit 0 then t5.enterHold causeHost else t5

/-! ### The cold path (R389) -/

/-- R401: INSOLE_STATUS counts the records applied. -/
def State.countRecords (s : State) (dies : Bool) : State :=
  match s.boot.plan.copy with
  | some k => { s with boot := { s.boot with plan := { s.boot.plan with
      insoleStatus := setBits s.boot.plan.insoleStatus 15 0 (s.recordsApplied k dies) } } }
  | none => s

/-- R389 steps 3 to 9, with the record accepted; `badPorts` are the DRAM ports that fail training, which runs alongside steps 7 and 8: where
it fails and the engine microcode too, the boot ends with CODE 5 (DESIGN CHOICE, assumption 47). -/
def State.coldImages (s : State) (ticks badPorts ucFail bad : Nat) : State :=
  let r := s.boot.coldPlan (Config.hasMe s.variant)
  let s1 := { s with boot := { s.boot with plan := r.plan, fwOk := r.fwOk } }
  if r.cause != 0 && r.cause != 4 then s1.recover 0 ticks r.cause
  else
    let s2 := (s1.applyInsole r.plan.copy false).countRecords false
    let fails := badPorts % 2 ^ Config.ports s2.variant
    if fails != 0 then (s2.trainFail fails).recover 0 ticks 5
    else
      let s3 := { s2 with protEff := s2.protOf, mem := [], badWords := [], softWords := [] }.portsReady
      if r.cause == 4 then s3.recover 0 ticks 4
      else ((s3.applyInsole r.plan.copy true).countRecords true).enterReady 0 ticks ucFail bad

/-- R383: the identity record is not accepted: what was planned from it is void. -/
def State.identLost (s : State) : State :=
  { s with boot := { s.boot with identOk := false, plan := BootPlan.none } }

/-- R382, R383: the identity record is accepted; `fw` tells that the firmware is the one already loaded (R390). -/
def State.identTaken (s : State) (fw : Bool) : State :=
  { s with part := s.boot.partOf s.part, boot := { s.boot with identOk := true, fwOk := s.boot.fwOk || fw } }

/-- R383, R389: the cold path, whose whole course takes `ticks`. -/
def State.coldBoot (s : State) (ticks : Nat) (temp : Int) (badPorts ucFail bad : Nat) : State :=
  let s1 := ({ s with boot := { s.boot with dramTemp := temp } }.at (s.boot.timeZero + ticks)).lockPlls true
  let s2 := (s1.setReg .sec 0 0x05C (s1.reg .sec 0 0x05C &&& 1)).setReg .perf 0x40 0x0AC 0
  if s2.boot.identityGood then (s2.identTaken false).coldImages ticks badPorts ucFail bad else s2.identLost.recover 0 ticks 1

/-- R380, R475: the device leaves reset by the cold path. Time zero is now. -/
def State.leaveReset (s : State) : State :=
  { s with
    devState := 2
    pins := { s.pins with smbAlert := true }
    boot := { s.boot with path := some 0, timeZero := s.now, waitGood := false } }

/-- R380, R475: reset is released with supplies good: WAKING by the cold path. -/
def State.releaseReset (s : State) : State :=
  if s.devState == 0 && !(s.pins.resetN && s.pins.pwrGood && s.pins.supply) then
    { s with pins := { s.pins with supply := true, bc := true, resetN := true, pwrGood := true } }.leaveReset
  else s

/-- COLD_BOOT (R389). The operands tell how long the boot takes, and as masks the DRAM ports that fail training, the dies whose
microcode load fails, and the dies that are lost during WAKING; `dramTemp` is the DRAM's temperature in °C as it is trained (R297). -/
def execColdBoot (ticks : Nat) (dramTemp : Int) (badPorts ucFail badDies : Nat) (s : State) : Out :=
  let t := s.releaseReset
  .next (if t.devState == 2 && t.boot.path == some 0 && !t.boot.waitGood then t.coldBoot ticks dramTemp badPorts ucFail badDies else t)

/-! ### The wake path (R390) -/

/-- R297: the DRAM temperature differs by more than 20 °C from that of the last training. -/
def State.retrainDue (s : State) (temp : Int) : Bool := 20 < (temp - s.boot.dramTemp).natAbs

/-- R390: the wake path past the identity record. -/
def State.wakePorts (s : State) (path ticks ucFail bad fails : Nat) : State :=
  if fails != 0 then ((s.applyInsole s.boot.plan.copy false).trainFail fails).recover path ticks 5
  else ((s.applyInsole s.boot.plan.copy true).portsReady).enterReady path ticks ucFail bad

/-- R297: the DRAM ports keep their training, or are trained anew at temperature `temp`. -/
def State.retrainDram (s : State) (temp : Int) : State :=
  if s.retrainDue temp then { s with boot := { s.boot with dramTemp := temp } } else s

/-- R390: the wake path with everything retained. The ports are trained anew where R297 asks for it. -/
def State.wakeBoot (s : State) (path ticks : Nat) (temp : Int) (badPorts ucFail bad : Nat) : State :=
  let s1 := (s.at (s.boot.timeZero + ticks)).lockPlls false
  if !s1.boot.identityGood then s1.identLost.recover path ticks 1
  else
    let s2 := s1.identTaken true
    (s2.retrainDram temp).wakePorts path ticks ucFail bad (if s2.retrainDue temp then badPorts % 2 ^ Config.ports s2.variant else 0)

/-- WAKE (R390): `mismatch` tells that a retained image is not what was accepted; then, and where not everything was retained,
the cold path follows. `dramTemp` is the DRAM's temperature in °C; where it asks for a new training (R297), `badPorts` are the ports that
fail it. -/
def execWake (ticks : Nat) (mismatch : Bool) (dramTemp : Int) (badPorts ucFail badDies : Nat) (s : State) : Out :=
  match s.boot.path with
  | some (p + 1) =>
    if s.devState != 2 || s.boot.waitGood then .next s
    else if mismatch || !s.boot.kept then .next { s with boot := { s.boot with path := some 0 } }
    else .next (s.wakeBoot (p + 1) ticks dramTemp badPorts ucFail badDies)
  | _ => .next s

/-! ### Sleep and wake sources (R423, R424, R471) -/

/-- R424: wake sources, [0] WAKE_N, [1] LINK, [2] ALARM: in BASECAMP those that are enabled start the wake. -/
def State.wakeFrom (s : State) (sources : Nat) : State :=
  let on := sources &&& s.reg .basecamp 0 0x048
  if s.devState != 1 || on == 0 then s
  else
    let t := (s.setReg .basecamp 0 0x040 (s.reg .basecamp 0 0x040 / 2 ^ 31 * 2 ^ 31 + on)).irq .basecamp 0 0b01
    { t with
      pins := { t.pins with coreEn := true, dramEn := true, retEn := true }
      boot := { t.boot with
        path := some (if (s.reg .sec 0 0x05C).testBit 2 then 0 else 1), timeZero := s.now, waitGood := !s.pins.pwrGood } }.setDevState 2

/-- R423 steps 3 to 6: the device enters BASECAMP, and the wake sources latched meanwhile act. The hub loses its supply, and with it SCRATCH
(R372); LOCKOUT, and the failures that lead to it, clear only at a device reset or power cycle (R461), and a lost die stays lost until one
(R371). -/
def State.sleepNow (s : State) (latched : Nat) : State :=
  let ctrl := s.reg .basecamp 0 0x044
  let sr := ctrl.testBit 2
  let fw := ctrl.testBit 1
  let t := s.wipe.bump .basecamp 0 0x054 1
  { t with
    regs := t.regs.erase 0x064
    cdLost := s.cdLost
    mdLost := s.mdLost
    dbg := { t.dbg with lockout := s.dbg.lockout, fails := s.dbg.fails }
    mem := if sr then t.mem else []
    badWords := if sr then t.badWords else []
    softWords := if sr then t.softWords else []
    devState := 1
    link := { Link.reset with session := s.link.session }
    pins := { t.pins with vrEn := 0, coreEn := false, dramEn := sr, retEn := fw, smbAlert := true }
    boot := { t.boot with kept := t.boot.kept && sr && fw, path := none } }.wakeFrom latched

/-- R423: BASECAMP is entered once every record and credit count is written, and an update operation has ended (DESIGN CHOICE, assumption
47): a full ring or a link that is down holds the entry. -/
def State.enterBasecamp (s : State) : State :=
  match s.sleeping with
  | some m => if s.recordsOut && s.boot.upd.isNone then s.sleepNow m else s
  | none => s

/-- R423 steps 1 and 2: the device goes to sleep. -/
def State.sleep (s : State) : State :=
  { (s.endWork .powerStop).flushRecords with sleeping := some (s.sleeping.getD 0) }.enterBasecamp

/-- R423, R427, R480: SLEEP_CTRL written. -/
def State.sleepCtrlWrite (s : State) (v : Nat) : State :=
  let t := s.setReg .basecamp 0 0x044 (v &&& 0b110)
  if !v.testBit 0 then t
  else if bits v 31 16 == 0x51EE && s.powered && s.pins.xtal32 then t.sleep
  else t.err .basecamp 0 4 0 0

/-- SLEEP (R423): SLEEP_CTRL is written. -/
def execSleep (value : Nat) (s : State) : Out := .next (s.host .basecamp 0 fun t => t.sleepCtrlWrite value)

/-- R423, R424: a wake source, 0 WAKE_N, 1 LINK, 2 ALARM. One that arrives during the entry to BASECAMP is latched. -/
def State.wakeBy (s : State) (source : Nat) : State :=
  match s.sleeping with
  | some m => { s with sleeping := some (m ||| 2 ^ source) }
  | none => s.wakeFrom (2 ^ source)

/-- WAKE_N_FALL (R424). -/
def execWakeNFall (s : State) : Out := .next ((s.filtered .wake 0).wakeBy 0)

/-- USB4_WAKE_SIGNAL (R424). -/
def execUsb4WakeSignal (s : State) : Out := .next (s.wakeBy 1)

/-- R427: ALARM. -/
def State.alarmTime (s : State) : Nat := s.reg .basecamp 0 0x04C + 2 ^ 32 * s.reg .basecamp 0 0x050

/-- ALARM (R424, R427): the time base reaches ALARM. -/
def execAlarm (s : State) : Out :=
  if s.devState == 0 || (timeReached s.now s.alarmTime && s.alarmTime != s.now) then .next s
  else .next (((s.at s.alarmTime).irq .basecamp 0 0b10).wakeBy 2)

/-- PWR_GOOD_RISE (R475): PWR_GOOD rises, with every supply good; the wake path goes on from there, and a device held in reset leaves it
when RESET_N is high. -/
def execPwrGoodRise (s : State) : Out :=
  if s.pins.pwrGood then .next s
  else if s.devState == 0 then
    let t := { s with pins := { s.pins with supply := true, bc := true, pwrGood := true } }
    .next (if t.pins.resetN then t.leaveReset else t)
  else .next { s with
    pins := { s.pins with pwrGood := true }
    boot := { s.boot with
      waitGood := false
      timeZero := if s.boot.waitGood then s.now else s.boot.timeZero } }

/-- XTAL32_START (R480): the crystal starts, which tells that VDDIO_BC and VDD_BC are up. -/
def execXtal32Start (s : State) : Out := .next { s with pins := { s.pins with xtal32 := true, bc := true } }

/-! ### Reset pins and supplies (R380, R468, R471, R475) -/

/-- R475: the device is held in reset. THERM_TRIP_N is released by RESET_N. -/
def State.resetHeld (s : State) (byPwrGood : Bool) : State :=
  let t := s.halt true
  { t with pins := { t.pins with
    resetN := s.pins.resetN && byPwrGood
    pwrGood := s.pins.pwrGood && !byPwrGood
    trip := s.pins.trip && byPwrGood } }

/-- RESET_ASSERT (R475): RESET_N falls, or with `byPwrGood` PWR_GOOD, which Base Camp ignores in BASECAMP and while a wake waits for it. -/
def execResetAssert (byPwrGood : Bool) (s : State) : Out :=
  if byPwrGood && (s.devState == 1 || s.boot.waitGood) then .next { s with pins := { s.pins with pwrGood := false } }
  else .next (s.resetHeld byPwrGood)

/-- SUPPLY_LOSS (R380, R475): the device is OFF. With `baseCamp` VDD_BC is lost too, and with it the board window, TRIP and the latch of
THERM_TRIP_N. -/
def execSupplyLoss (baseCamp : Bool) (s : State) : Out :=
  let t := s.halt true
  let u : State := { t with pins := { t.pins with supply := false, pwrGood := false } }
  .next (if baseCamp then
      { u with regs := [], bw := [], pins := { u.pins with bc := false, trip := false, xtal32 := false, smbAlert := false } }
    else u)

/-! ### Field update (R398) -/

/-- R401: LEN64 of a write of UPD_CMD in bytes; 0 acts as 32. -/
def updBytes (v : Nat) : Nat := 64 * (if v % 64 == 0 then 32 else min 32 (v % 64))

/-- R398: a sector lies in the slot or the Insole copy in use. -/
def State.sectorUsed (s : State) (a : Nat) : Bool :=
  s.devState != 6 && (a / 0xC00000 == s.boot.plan.slot && a < 0x1800000 ||
    (s.boot.plan.copy.any fun c => copyBase c ≤ a && a < copyBase c + 0x10000))

/-- R398: the RESULT with which an operation is rejected; 0 when it runs. -/
def State.updReject (s : State) (op a n : Nat) : Nat :=
  if s.fwPaused || s.devState < 3 then 4
  else match op with
    | 1 => if 0x2000000 < a + n then 2 else 0
    | 2 => if a % 0x10000 != 0 || 0x2000000 < a + 0x10000 then 2 else if s.sectorUsed a then 1 else 0
    | 3 => if a % 64 != 0 || 0x2000000 < a + n then 2 else if s.sectorUsed a || s.sectorUsed (a + n - 1) then 1 else 0
    | 4 => if 4096 < a + n then 2 else 0
    | 5 => if s.devState == 6 || !s.boot.fwOk then 4 else if s.boot.plan.svn ≤ s.boot.minSvn then 2 else 0
    | _ => if s.boot.custKey.isSome then 5 else 0

/-- The update window with its first bytes replaced. -/
def windowWith (w bs : List Byte) : List Byte := bs ++ w.drop bs.length

/-- R398: what an operation has done when it ends; with `fail` the flash device reports an error, and what it leaves is open. -/
def State.updRun (s : State) (u : UpdOp) : State :=
  let f := s.free
  let b := s.boot
  let a := u.addr
  let n := u.bytes
  let fail := u.fail
  match u.op with
  | 1 => if fail then { f.2 with boot := { b with window := windowWith b.window (leBytes n f.1) } }
    else { s with boot := { b with window := windowWith b.window (b.flashRun a n) } }
  | 2 => if fail then { f.2 with boot := { b with flash := b.flash.writeRun 0xFF a (leBytes 0x10000 f.1) } }
    else { s with boot := { b with flash := b.flash.clearRun a 0x10000 } }
  | 3 => if fail then { f.2 with boot := { b with flash := b.flash.writeRun 0xFF a (leBytes n f.1) } }
    else { s with boot := { b with flash := b.flash.writeRun 0xFF a (b.window.take n) } }
  | 4 => { s with boot := { b with window := windowWith b.window (b.nor.readRun 0 a n) } }
  | 5 => { s with boot := { b with minSvn := b.plan.svn } }
  | _ => { s with boot := { b with custKey := some (b.window.take 32) } }

/-- R398: an operation ends with a RESULT: IRQ UPD_DONE. -/
def State.updEnd (s : State) (result : Nat) : State := { s with boot := { s.boot with updResult := result } }.irq .sec 0 0b100

/-- R398, R401: UPD_CMD written. OP 0 and OPs that the table does not have start nothing, and OP is ignored while BUSY. -/
def State.updCmdWrite (s : State) (v : Nat) (fail : Bool) : State :=
  let op := bits v 27 24
  let a := s.reg .sec 0 0x068
  let n := updBytes v
  let t := s.setReg .sec 0 0x064 (v % 64)
  if op == 0 || 6 < op || s.boot.upd.isSome then t
  else
    let r := s.updReject op a n
    if r != 0 then (t.updEnd r).err .sec 0 1 op 0
    else { t with boot := { t.boot with upd := some ⟨op, a, if op == 2 then 0x10000 else n, fail && op ≤ 3⟩ } }

/-- R398: an operation in progress ends; it waits while the firmware pauses (R441). With RESULT 3 it counts in FLASH_ERRS. -/
def State.updFinish (s : State) : State :=
  match s.boot.upd with
  | none => s
  | some u =>
    if s.fwPaused then s
    else
      let t := { s with boot := { s.boot with upd := none } }.updRun u
      if u.fail then (t.bump .sec 0 0x070 1).updEnd 3 else t.updEnd 0

/-- A write of UPD_CMD with an OP and LEN64; `fail` tells that the flash device reports an error. -/
def State.updCommand (s : State) (op len : Nat) (fail : Bool) : State :=
  s.host .sec 0 fun t => t.updCmdWrite (op * 2 ^ 24 + len % 64) fail

/-- UPD_READ_FLASH (R398). -/
def execUpdReadFlash (len : Nat) (fail : Bool) (s : State) : Out := .next (s.updCommand 1 len fail)

/-- UPD_ERASE (R398). -/
def execUpdErase (len : Nat) (fail : Bool) (s : State) : Out := .next (s.updCommand 2 len fail)

/-- UPD_PROGRAM (R398). -/
def execUpdProgram (len : Nat) (fail : Bool) (s : State) : Out := .next (s.updCommand 3 len fail)

/-- UPD_READ_ID (R398). -/
def execUpdReadId (len : Nat) (s : State) : Out := .next (s.updCommand 4 len false)

/-- UPD_RAISE_SVN (R398). -/
def execUpdRaiseSvn (s : State) : Out := .next (s.updCommand 5 (s.reg .sec 0 0x064 % 64) false)

/-- UPD_SET_CUST_KEY (R398). -/
def execUpdSetCustKey (s : State) : Out := .next (s.updCommand 6 (s.reg .sec 0 0x064 % 64) false)

end Sys2Proof.Machine
end

