-- ==== Sys2Proof/Machine/Matching.lean ====
section
/-!
DEFINITION. The matching engine (R190 to R215, R502): the pyramid search, reserved codes, and the staging of rows.
-/

-- One declaration at a time: the threads of a parallel elaboration take memory together.
set_option Elab.async false

namespace Sys2Proof.Machine

/-! ### Pyramids and fields (R190, R192) -/

/-- A pyramid level: its UN10 codes, row by row. -/
structure Lvl where
  w : Nat
  h : Nat
  px : Array Nat

/-- A coordinate held within `0` to `n - 1`. -/
def edge (x : Int) (n : Nat) : Nat := min x.toNat (n - 1)

/-- A pixel of a level; outside the frame, the nearest edge pixel (R195). -/
def Lvl.at (l : Lvl) (x y : Int) : Int := (l.px.getD (edge y l.h * l.w + edge x l.w) 0 : Nat)

/-- A field of vectors, row by row. -/
structure Field where
  w : Nat
  h : Nat
  vs : Array (Int × Int)

/-- A vector of a field; outside it, the nearest one. -/
def Field.at (f : Field) (x y : Int) : Int × Int := f.vs.getD (edge y f.h * f.w + edge x f.w) (0, 0)

/-- A field given by a function of column and row. -/
def Field.of (w h : Nat) (f : Nat → Nat → Int × Int) : Field :=
  ⟨w, h, ((List.range h).flatMap fun y => (List.range w).map fun x => f x y).toArray⟩

/-! ### Costs and winners (R194, R195) -/

/-- The integers from `-n` to `n`. -/
def around (n : Nat) : List Int := (List.range (2 * n + 1)).map fun k => (k : Int) - (n : Int)

/-- R195: the cost of candidate `d` with predictor `v`, over the `n` by `n` pixels from `(x0, y0)`. -/
def matchCost (a b : Lvl) (x0 y0 : Int) (n lambda : Nat) (v d : Int × Int) : Nat :=
  let one := fun (k : Nat) =>
    let x := x0 + ((k % n : Nat) : Int)
    let y := y0 + ((k / n : Nat) : Int)
    (a.at x y - b.at (x + d.1) (y + d.2)).natAbs
  ((List.range (n * n)).map one).sum + lambda * ((d.1 - v.1).natAbs + (d.2 - v.2).natAbs)

/-- R195: a candidate with its cost goes before another: by cost, then |dx| + |dy|, then dy, then dx. -/
def winsOver (p q : Nat × (Int × Int)) : Bool :=
  let m := fun (d : Int × Int) => d.1.natAbs + d.2.natAbs
  if p.1 != q.1 then p.1 < q.1
  else if m p.2 != m q.2 then m p.2 < m q.2
  else if p.2.2 != q.2.2 then p.2.2 < q.2.2
  else p.2.1 < q.2.1

/-- The winner of a list of candidates. -/
def winner (cost : Int × Int → Nat) : List (Int × Int) → Int × Int
  | [] => (0, 0)
  | d :: ds => (ds.foldl (fun best e => let p := (cost e, e)
      if winsOver p best then p else best) (cost d, d)).2

/-- R194: the candidates around five predictors, two pixels on each axis, or on x alone. -/
def candidates (preds : List (Int × Int)) (disparity : Bool) : List (Int × Int) :=
  preds.flatMap fun p => (if disparity then [0] else around 2).flatMap fun dy =>
    (around 2).map fun dx => (p.1 + dx, if disparity then 0 else p.2 + dy)

/-- Twice a vector. -/
def twice (v : Int × Int) : Int × Int := (2 * v.1, 2 * v.2)

/-- R194: the predictors of a point, its own first: twice the vectors of its parent and of the parent's neighbours. -/
def predictors (parent : Field) (x y : Nat) : List (Int × Int) :=
  [(0, 0), (-1, 0), (1, 0), (0, -1), (0, 1)].map fun (o : Int × Int) => twice (parent.at (x + o.1) (y + o.2))

/-! ### The levels (R194) -/

/-- What a search is asked for (R207). -/
structure Search where
  disparity : Bool
  top : Nat
  lambda : Nat
  winX : Nat
  winY : Nat
  rangeX : Nat
  rangeY : Nat
  cons : Nat
  thresh : Nat
  deriving DecidableEq, Repr

/-- R194: the field of level TOP. -/
def Search.topField (p : Search) (a b : Lvl) : Field :=
  let ds := (around p.winY).flatMap fun dy => (around p.winX).map fun dx => (dx, dy)
  Field.of a.w a.h fun x y => winner (matchCost a b ((x : Int) - 2) ((y : Int) - 2) 5 p.lambda (0, 0)) ds

/-- R194: the field of points of a level below TOP, each with a window of `n` by `n` that starts at `off`. -/
def Search.field (p : Search) (a b : Lvl) (parent : Field) (w h n div : Nat) (start : Nat → Int) : Field :=
  Field.of w h fun x y =>
    let ps := predictors parent (x / div) (y / div)
    winner (matchCost a b (start x) (start y) n p.lambda (ps.headD (0, 0))) (candidates ps p.disparity)

/-- R194: the levels from TOP - 1 down to 2. -/
def Search.descend (p : Search) (a b : List Lvl) : Nat → Field → Field
  | 0, f => f
  | n + 1, f =>
    let x := a.getD (n + 2) ⟨0, 0, #[]⟩
    let y := b.getD (n + 2) ⟨0, 0, #[]⟩
    p.descend a b n (p.field x y f x.w x.h 5 2 fun k => (k : Int) - 2)

/-- The fields of one direction: level TOP, level 1 and level 0, the last two on the vector grid. -/
structure Fields where
  top : Field
  one : Field
  zero : Field

/-- R190, R194: the search of one direction, grid frame first. -/
def Search.run (p : Search) (gw gh : Nat) (a b : List Lvl) : Fields :=
  let l := fun (ls : List Lvl) k => ls.getD k ⟨0, 0, #[]⟩
  let t := p.topField (l a p.top) (l b p.top)
  let two := p.descend a b (p.top - 2) t
  let one := p.field (l a 1) (l b 1) two gw gh 6 1 fun k => 2 * (k : Int) - 2
  ⟨t, one, p.field (l a 0) (l b 0) one gw gh 8 1 fun k => 4 * (k : Int) - 2⟩

/-- R196: the offset on an axis in sixteenths, from the costs on either side and at the winner. -/
def subpixel (m z q : Nat) : Int :=
  let den : Int := (m : Int) - 2 * (z : Int) + (q : Int)
  if den ≤ 0 then 0
  else
    let num := 8 * ((m : Int) - (q : Int))
    max (-8) (min 8 (roundInt (num < 0) num.natAbs den.toNat 0))

/-- R196: the final vector of a grid point, in sixteenths of a pixel. -/
def Search.final (p : Search) (a b : Lvl) (f : Fields) (i j : Nat) : Int × Int :=
  let d := f.zero.at i j
  let v := twice (f.one.at i j)
  let c := matchCost a b (4 * (i : Int) - 2) (4 * (j : Int) - 2) 8 p.lambda v
  let z := c d
  let x := 16 * d.1 + subpixel (c (d.1 - 1, d.2)) z (c (d.1 + 1, d.2))
  let y := if p.disparity then 0 else 16 * d.2 + subpixel (c (d.1, d.2 - 1)) z (c (d.1, d.2 + 1))
  (x, y)

/-! ### Reserved codes (R197 to R199) -/

/-- R198: the gradient energy of a grid point. -/
def energy (a : Lvl) (i j : Nat) : Nat :=
  ((List.range 16).map fun k =>
    let x : Int := ((4 * i + k % 4 : Nat) : Int)
    let y : Int := ((4 * j + k / 4 : Nat) : Int)
    let gx := a.at (x + 1) y - a.at (x - 1) y
    let gy := a.at x (y + 1) - a.at x (y - 1)
    (gx * gx + gy * gy).toNat).sum

/-- R199: the consistency check of a grid point fails, given the level-1 fields of both directions. -/
def inconsistent (cons : Nat) (f g : Field) (i j : Nat) : Bool :=
  let v := twice (f.at i j)
  let q := fun (k : Nat) (d : Int) => let n := 4 * (k : Int) + d
    roundInt (n < 0) n.natAbs 4 0
  let qx := q i v.1
  let qy := q j v.2
  if qx < 0 || qy < 0 || (g.w : Int) ≤ qx || (g.h : Int) ≤ qy then false
  else
    let w := twice (g.at qx qy)
    cons < 16 * ((v.1 + w.1).natAbs + (v.2 + w.2).natAbs)

/-- R197: what is written for a grid point: its vector in sixteenths, or a reserved code. -/
def Search.verdict (p : Search) (a b : Lvl) (f : Fields) (other : Field) (i j : Nat) : (Int × Int) × Option Nat :=
  let v := p.final a b f i j
  let k := 2 ^ (p.top - 2)
  let t := f.top.at ((i / k : Nat) : Int) ((j / k : Nat) : Int)
  let out := t.1.natAbs == p.winX || (!p.disparity && p.winY != 0 && t.2.natAbs == p.winY) ||
    16 * p.rangeX < v.1.natAbs || (!p.disparity && 16 * p.rangeY < v.2.natAbs)
  let cx := 64 * (i : Int) + 24 + v.1
  let cy := 64 * (j : Int) + 24 + v.2
  let code :=
    if out then some 0x8002
    else if cx < 0 || cy < 0 || 16 * ((a.w : Int) - 1) < cx || 16 * ((a.h : Int) - 1) < cy then some 0x8003
    else if energy a i j < p.thresh then some 0x8000
    else if inconsistent p.cons f.one other i j then some 0x8001
    else none
  (v, code)

/-! ### The command (R207, R208) -/

def Cmd.isDisparity (c : Cmd) : Bool := c.opcode == 0x5002
def Cmd.fillFlag (c : Cmd) : Nat := c.num 24 2 % 4096
def Cmd.ringLo (c : Cmd) : Nat := c.num 26 2
def Cmd.ringLen (c : Cmd) : Nat := c.num 28 2

/-- R207: the search that a command asks for. -/
def State.search (s : State) (c : Cmd) : Search :=
  ⟨c.isDisparity, c.num 30 1 % 16, c.num 31 1, c.num 32 1, if c.isDisparity then 0 else c.num 33 1, c.num 34 2, c.num 36 2,
    c.num 38 2, s.reg .me 0 0x048⟩

/-- A pyramid record as its bytes spell it (R350). -/
structure PyrRec where
  layout : Nat
  w : Nat
  h : Nat
  fmt : Nat
  levels : Nat
  seq : Nat
  luma : Nat
  pitches : List Nat
  deriving DecidableEq, Repr

/-- The pyramid record at a device address. -/
def State.pyrRec (s : State) (a : Nat) : PyrRec :=
  ⟨s.devNat a 2, s.devNat (a + 2) 2, s.devNat (a + 4) 2, s.devNat (a + 6) 1, s.devNat (a + 7) 1, s.devNat (a + 8) 4,
    s.devNat (a + 40) 8, (List.range 5).map fun l => s.devNat (a + 48 + 2 * l) 2⟩

/-- R192, R350: width, height and pitch of level `l`, and where it starts. -/
def PyrRec.lw (r : PyrRec) (l : Nat) : Nat := ceilDiv r.w (2 ^ l)
def PyrRec.lh (r : PyrRec) (l : Nat) : Nat := ceilDiv r.h (2 ^ l)
def PyrRec.pitch (r : PyrRec) (l : Nat) : Nat := r.pitches.getD l 0
def PyrRec.start (r : PyrRec) (l : Nat) : Nat := r.luma + ((List.range l).map fun k => r.pitch k * r.lh k).sum

/-- R208: a record or a level that is misaligned or outside DRAM. -/
def State.badPyr (s : State) (a top : Nat) : Bool :=
  if a % 64 != 0 || s.target a 64 != some .dram then true
  else if s.badIn a 64 then false
  else
    let r := s.pyrRec a
    (List.range (min top 4 + 1)).any fun l =>
      r.start l % 64 != 0 || r.pitch l % 64 != 0 || s.target (r.start l) (r.pitch l * r.lh l) != some .dram

/-- R200: bytes per vector row, and of a staged row. -/
def stagePitch (w e : Nat) : Nat := ceilDiv (ceilDiv w 4 * e) 64 * 64

/-- Bytes of a vector: 4 for flow and 2 for disparity (R200). -/
def Cmd.vectorBytes (c : Cmd) : Nat := if c.isDisparity then 2 else 4

/-- R208: the pyramid records of an ME command can be read: aligned, in DRAM, and without an uncorrectable word. -/
def State.recsRead (s : State) (c : Cmd) : Bool :=
  [c.num 8 8, c.num 16 8].all fun a => a % 64 == 0 && s.target a 64 == some .dram && !s.badIn a 64

/-- R208, R289: the failing checks of an ME command. What a record holds is checked when the record can be read. -/
def State.meFails (s : State) (c : Cmd) : List (Status × Nat) :=
  let p := s.search c
  let a := s.pyrRec (c.num 8 8)
  let b := s.pyrRec (c.num 16 8)
  let recs := s.recsRead c
  let ring := c.ringLen == 0 || c.ringLen &&& (c.ringLen - 1) != 0 || c.ringLen < 2 || 512 < c.ringLen ||
    s.vslots < c.ringLo + c.ringLen || c.fillFlag == 4095
  let shape := p.top < 2 || 4 < p.top || p.winX == 0 || 64 < p.winX || (!p.disparity && 64 < c.num 33 1) ||
    p.rangeX == 0 || 2047 < p.rangeX || (!p.disparity && 2047 < p.rangeY) || p.cons == 0 || 32767 < p.cons
  let sizes := a.layout != 0x0010 || b.layout != 0x0010 || a.w != b.w || a.h != b.h || a.w < 64 || 7680 < a.w || a.h < 64 ||
    4320 < a.h || a.levels < p.top + 1 || b.levels < p.top + 1 ||
    s.slotBytes < 64 + 64 * stagePitch a.w c.vectorBytes
  failIf (s.badPyr (c.num 8 8) p.top || s.badPyr (c.num 16 8) p.top) .badOperand 0x01 ++
    failIf (ring || shape || (recs && sizes)) .badOperand 0x02 ++
    failIf (c.num 24 2 / 4096 != 0 || c.num 30 1 / 16 != 0 || c.num 40 24 != 0) .badOperand 0x04 ++
    failIf (recs && (a.fmt != 0x0B || b.fmt != 0x0B)) .format 0x10

/-- The levels 0 to TOP of a pyramid. -/
def State.levels (s : State) (r : PyrRec) (top : Nat) : List Lvl :=
  (List.range (top + 1)).map fun l =>
    let row := fun y => (Fmt.un10.unpack (s.devGet (r.start l + y * r.pitch l) (2 * r.lw l)) (r.lw l)).map (· % 1024)
    ⟨r.lw l, r.lh l, ((List.range (r.lh l)).flatMap row).toArray⟩

/-- R208: the DRAM ranges that an ME command reads: its pyramid records and their levels. -/
def State.pyrReads (s : State) (c : Cmd) : List (Nat × Nat) :=
  let top := (s.search c).top
  [c.num 8 8, c.num 16 8].flatMap fun a =>
    let r := s.pyrRec a
    (a, 64) :: (List.range (top + 1)).map fun l => (r.start l, r.pitch l * r.lh l)

/-- R208: the address of an uncorrectable word that an ME command reads: in a record, or else in a level. -/
def State.badPyramid (s : State) (c : Cmd) : Option Nat :=
  match [c.num 8 8, c.num 16 8].findSome? fun a => s.firstBad a 64 with
  | some w => some w
  | none => (s.pyrReads c).findSome? fun r => s.firstBad r.1 r.2

/-! ### Staged rows (R200) -/

/-- R190, R197: the bytes of a grid point. -/
def vectorCode (disparity : Bool) (x : (Int × Int) × Option Nat) : List Byte :=
  match x.2 with
  | some k => if disparity then leBytes 2 k else leBytes 2 k ++ leBytes 2 k
  | none => if disparity then leBytes 2 (toCode 16 x.1.1) else leBytes 2 (toCode 16 x.1.1) ++ leBytes 2 (toCode 16 x.1.2)

/-- R200: the runs of bytes of staged row `r` from the start of its slot: its header, with GEN zero, then its vector
rows. -/
def stagedRow (disparity : Bool) (seqA seqB gw gh pitch r : Nat) (fwd bwd : Nat → Nat → (Int × Int) × Option Nat) :
    List (Nat × List Byte) :=
  let rows := min 32 (gh - 32 * r)
  let plane := fun (g : Nat → Nat → (Int × Int) × Option Nat) =>
    (List.range rows).map fun k => (List.range gw).map fun i => g i (32 * r + k)
  let f := plane fwd
  let b := plane bwd
  let count := fun code => ((f ++ b).map fun row => (row.filter fun x => x.2 == some code).length).sum
  let header := leBytes 2 0x0009 ++ leBytes 1 (b2n disparity) ++ [0] ++ leBytes 4 seqA ++ leBytes 4 seqB ++ leBytes 2 r ++
    leBytes 2 rows ++ leBytes 2 gw ++ leBytes 2 pitch ++ leBytes 4 0 ++ leBytes 4 (count 0x8000) ++ leBytes 4 (count 0x8001) ++
    leBytes 4 (count 0x8002) ++ leBytes 4 (count 0x8003) ++ leBytes 1 (b2n (gh ≤ 32 * r + 32)) ++ leBytes 23 0
  let put := fun base (rs : List (List ((Int × Int) × Option Nat))) =>
    ((List.range rs.length).zip rs).map fun x => (base + x.1 * pitch, x.2.flatMap (vectorCode disparity))
  (0, header) :: (put 64 f ++ put (64 + 32 * pitch) b)

/-- R191 to R200: the staged rows of a command. -/
def State.meRows (s : State) (c : Cmd) : List (List (Nat × List Byte)) :=
  let p := s.search c
  let ra := s.pyrRec (c.num 8 8)
  let rb := s.pyrRec (c.num 16 8)
  let a := s.levels ra p.top
  let b := s.levels rb p.top
  let gw := ceilDiv ra.w 4
  let gh := ceilDiv ra.h 4
  let f := p.run gw gh a b
  let g := p.run gw gh b a
  let a0 := a.getD 0 ⟨0, 0, #[]⟩
  let b0 := b.getD 0 ⟨0, 0, #[]⟩
  (List.range (ceilDiv ra.h 128)).map fun r =>
    stagedRow p.disparity ra.seq rb.seq gw gh (stagePitch ra.w c.vectorBytes) r (p.verdict a0 b0 f g.one)
      (p.verdict b0 a0 g f.one)

/-! ### Running (R206, R209) -/

/-- R206: the queued command that the ME starts next. -/
def State.meNext (s : State) : Option Cmd :=
  if s.meCmd.isSome || (s.page .me 0).faulted || !s.mayIssue meAccount then none
  else s.bestOf ((s.fifo .me).filter fun c => !s.fenced c && s.stepReady c)

/-- An ME command that passes its checks starts, its fields computed from its pyramids (R191), or ends on an uncorrectable word or for
want of a route (R208). While its module is trained, its reads are held (R292). -/
def State.meBegin (s : State) (c : Cmd) : State :=
  if s.meRoute == 1 then s
  else if s.meRoute == 0 then (s.starts c).endCmd c.uid .link 0x21
  else
    let s1 := ((s.starts c).spendIssue meAccount 8).correctReads .me 0 (s.pyrReads c)
    match s.badPyramid c with
    | some a => ((s1.faultCmd c.uid .ecc 0x34 a).irq .me 0 0b100).err .me 0 2 0 a
    | none =>
      let s2 := s1.edge .me 0 0x20 false (some c.job)
      { s2 with me := { s2.me with
        uid := some c.uid, rows := s.meRows c, staged := 0, waitSince := none, stallFrom := none, late := false } }

/-- An ME command is checked and starts (R208). -/
def State.meStart (s : State) (uid op : Nat) : State :=
  match s.meNext with
  | none => s
  | some c =>
    if c.uid != uid || c.opcode != op then s
    else match lowestCause (s.meFails c) with
      | some f => s.endCmd uid f.1 f.2
      | none => s.meBegin c

/-- ME_FLOW (R207). -/
def execMeFlow (uid : Nat) (s : State) : Out := .next (s.meStart uid 0x5001).track

/-- ME_DISPARITY (R207). -/
def execMeDisparity (uid : Nat) (s : State) : Out := .next (s.meStart uid 0x5002).track

/-! ### Staging (R201, R203) -/

/-- R215: physical slots of the staging partition. -/
def State.pslots (s : State) : Nat := bits (s.reg .hsram 0 0x040) 12 8 * 2 ^ 20 / s.slotBytes

/-- R203: staged rows that hold a physical slot. -/
def State.slotsHeld (s : State) : Nat := (s.me.window.filter fun e => s.stageHeld e.2).length

/-- R203: `ME.STAGE_CTRL.SPILL_EN`. -/
def State.spillEn (s : State) : Bool := (s.reg .me 0 0x04C).testBit 31

/-- R203, R283: the row in virtual slot `v` is copied to its spill copy, which frees its physical slot. The copy corrects single-bit
errors, and an uncorrectable word of the row makes one of its copy. -/
def State.spill (s : State) (v : Nat) (r : StageRow) : State :=
  let n := s.slotBytes
  let a := stagingBase + v * n
  let s0 := s.correctRead .hsram 0 a n
  let s1 := { s0 with
    mem := s0.mem.copyRun a (s.spillBase + v * n) n
    badWords := copyWords s0.badWords a (s.spillBase + v * n) n
    softWords := keepOutside s0.softWords (s.spillBase + v * n) n
    me := { s0.me with window := s0.me.window.set v { r with spilled := true } } }
  (s1.bump .me 0 0x068 1).irq .me 0 0b10000

/-- R203: the unreturned row with the oldest fill time that holds a physical slot. -/
def State.oldestRow (s : State) : Option (Nat × StageRow) :=
  (s.me.window.filter fun e => s.stageHeld e.2).foldl (fun acc e =>
    match acc with
    | none => some e
    | some b => if e.2.filledAt < b.2.filledAt then some e else some b) none

/-- R201: the running command's next row has return credit. -/
def State.ringCredit (s : State) (c : Cmd) : Bool :=
  ((s.flag c.fillFlag).gen - (s.flag (c.fillFlag + 1)).gen).toNat < c.ringLen

/-- R200: the grid points of a staged row, of both directions, and those of them with a reserved code, as its header tells. -/
def rowCounts (row : List (Nat × List Byte)) : Nat × Nat :=
  let h := (row.head?.map (·.2)).getD []
  let at_ := fun (off n : Nat) => leNat ((h.drop off).take n)
  (2 * at_ 14 2 * at_ 16 2, at_ 24 4 + at_ 28 4 + at_ 32 4 + at_ 36 4)

/-- R201, R209: the next row of the running command is written, and its fill flag advances. -/
def State.stageRow (s : State) (c : Cmd) (row : List (Nat × List Byte)) : State :=
  let g := (s.flag c.fillFlag).gen
  let v := c.ringLo + g.toNat % c.ringLen
  let base := stagingBase + v * s.slotBytes
  let s1 := s.unstall
  let s2 : State := { s1 with me := { s1.me with
    staged := s1.me.staged + 1, window := s1.me.window.set v ⟨c.fillFlag, g + 1, s1.now, false⟩ } }
  let n := rowCounts row
  let s2 := (s2.pulse .me 0 0x10 n.1 (some c.job)).pulse .me 0 0x11 n.2 (some c.job)
  let s3 : State := (s2.putAll (row.map fun p => (base + p.1, p.2))).devPut (base + 20) (leBytes 4 (g + 1).toNat)
  let s4 : State := ((s3.pulse .me 0 0x12 1 (some c.job)).advance c.job c.fillFlag 1).putCmd { c with progress := s3.me.staged }
  if s4.me.late then (s4.endCmd c.uid .late 0).meDrop
  else if s4.me.rows.length ≤ s4.me.staged then
    let s5 := { s4 with me := { s4.me with uid := none, rows := [] } }
    (s5.bump .me 0 0x064 1).endCmd c.uid .ok 0
  else s4

/-- The ME waits (R201, R203); `credit` tells whether it waits for return credit. -/
def State.meWait (s : State) (credit : Bool) : State :=
  let s := s.edge .me 0 0x21 s.me.stallFrom.isSome (s.meCmd.map (·.job))
  { s with me := { s.me with
    waitSince := if credit then some (s.me.waitSince.getD s.now) else none
    stallFrom := some (s.me.stallFrom.getD s.now) } }

/-- ME_ROW_STAGE (R201). While the module of the matching die is trained, the row is held (R292). -/
def execMeRowStage (s : State) : Out :=
  match s.meCmd with
  | none => .next s
  | some c =>
    let row := s.me.rows.getD s.me.staged []
    if s.meRoute != 2 then .next s
    else if !s.ringCredit c then .next (s.meWait true)
    else if s.slotsHeld < s.pslots then .next (s.stageRow c row).track
    else if !s.spillEn then .next (s.meWait false)
    else match s.oldestRow with
      | some e => .next ((s.spill e.1 e.2).stageRow c row).track
      | none => .next (s.meWait false)

/-- R203: the output frame interval in ticks, 4,167 µs without timing. -/
def State.frameTicks (s : State) : Nat :=
  if s.disp.running then s.vTotal * s.lineNum / s.lineDen else 4167 * usTicks

/-- R215: RETAIN; 0 acts as 1. -/
def State.retain (s : State) : Nat := max 1 (s.reg .me 0 0x04C % 16)

/-- STAGING_RETENTION_SPILL (R203): a row not returned RETAIN output frame intervals after its fill. -/
def execStagingRetentionSpill (vslot : Nat) (s : State) : Out :=
  match s.me.window.find? vslot with
  | none => .next s
  | some r =>
    if s.spillEn && s.stageHeld r then .next ((s.at (r.filledAt + s.retain * s.frameTicks)).spill vslot r)
    else .next s

/-- The running command, when it waits for return credit, and since when. -/
def State.meWaiting (s : State) : Option (Cmd × Nat) :=
  match s.meCmd, s.me.waitSince with
  | some c, some t => if s.ringCredit c then none else some (c, t)
  | _, _ => none

/-- ME_RING_TIMEOUT (R208): the wait for return credit has lasted TIMEOUT_MS; 0 means no timeout. -/
def execMeRingTimeout (s : State) : Out :=
  let ms := bits (s.reg .sched 0 0x048) 15 0
  match s.meWaiting with
  | none => .next s
  | some (c, t) =>
    if ms == 0 then .next s
    else
      let s1 := (s.at (t + ms * msTicks)).unstall
      .next ({ s1 with me := { s1.me with uid := none, rows := [] } }.endCmd c.uid .timeout 0x41).track

/-- ME_RING_STALL (R212): the wait for return credit has exceeded 1 ms. -/
def execMeRingStall (s : State) : Out :=
  match s.meWaiting with
  | none => .next s
  | some (_, t) => .next ((s.at (t + msTicks + 1)).irq .me 0 0b01000)

end Sys2Proof.Machine
end

