-- ==== Sys2Proof/Machine/Perf.lean ====
section
/-!
DEFINITION. Performance counters, snapshots, trace control and the control of debug access (R448 to R466).
-/

-- One declaration at a time: the threads of a parallel elaboration take memory together.
set_option Elab.async false

namespace Sys2Proof.Machine

/-! ### Counters (R448 to R453) -/

/-- R448: the counted block of a page index on a die, by DIE code. -/
def countedBlock (die page : Nat) : Option (Blk × Nat) :=
  if die == 0x40 then
    (match hubPage page with
     | some (b, i) => if [Blk.cfe, .sched, .dma, .hsram, .raster, .disp, .ingest, .memc, .welt].contains b then some (b, i) else none
     | none => none)
  else if die == 0x80 then (if page == 1 then some (.me, 0) else none)
  else
    match diePage die page with
    | some (b, i) => if [Blk.tmem, .post, .ne, .ve, .xp].contains b then some (b, i) else none
    | none => none

/-- R448: a selection names a counted block of a present unit. -/
def State.counted (s : State) (die page : Nat) : Option (Blk × Nat) :=
  (countedBlock die page).bind fun p => if s.blockPresent p.1 p.2 then some p else none

/-- The value of a counter: what it has counted, or a free value; of a job that has run no command in the block since, 0 (R452). -/
def State.counterValue (s : State) (die page k : Nat) : Nat :=
  let key := ctrKey die page k
  let c := s.ctr key
  match countedBlock die page with
  | some (b, _) => if c.isOpen b && (!c.cfg.testBit 29 || c.count != 0) then Config.freeValue (s.freeCount + key) % ctrTop else c.count
  | none => 0

/-- The page index and the counter that CNT_SEL of a die selects. -/
def State.cntPage (s : State) (die : Nat) : Nat := bits (s.reg .perf die 0x040) 13 8
def State.cntIndex (s : State) (die : Nat) : Nat := bits (s.reg .perf die 0x040) 2 0
/-- Where the selected counter is kept. -/
def State.cntKey (s : State) (die : Nat) : Nat := ctrKey die (s.cntPage die) (s.cntIndex die)

/-- R449: CNT_CFG of a die written: the selected counter is zero. -/
def State.cntCfgWrite (s : State) (die v : Nat) : State :=
  if (s.counted die (s.cntPage die)).isNone then s
  else
    let key := s.cntKey die
    s.putCtr key { s.ctr key with cfg := v &&& 0xE03F00FF, count := 0, ovf := false }

/-- CNT_CFG_WRITE (R449). -/
def execCntCfgWrite (die value : Nat) (s : State) : Out := .next (s.host .perf die fun t => t.cntCfgWrite die value)

/-- R466: CNT_CLR of a die written: bit 1 ALL, bit 0 SEL. -/
def State.cntClrWrite (s : State) (die v : Nat) : State :=
  let clear := fun (c : Ctr) => { c with count := 0, ovf := false }
  let t := if v.testBit 1 then
      { s with ctrs := s.ctrs.map fun (p : Nat × Ctr) => if p.1 / 512 == die then (p.1, clear p.2) else p }
    else s
  if v.testBit 0 && (t.counted die (t.cntPage die)).isSome then t.putCtr (t.cntKey die) (clear (t.ctr (t.cntKey die))) else t

/-- CNT_CLR_ALL (R466). -/
def execCntClrAll (die : Nat) (s : State) : Out := .next (s.hostWo .perf die fun t => t.cntClrWrite die 2)

/-- CNT_CLR_SEL (R466). -/
def execCntClrSel (die : Nat) (s : State) : Out := .next (s.hostWo .perf die fun t => t.cntClrWrite die 1)

/-- COUNTER_SATURATE (R453): a counter that counts what the model does not reaches 2^48 - 1. -/
def execCounterSaturate (die page k : Nat) (s : State) : Out :=
  match s.counted die page with
  | none => .next s
  | some (b, _) => .next (if k < 8 && (s.ctr (ctrKey die page k)).isOpen b then s.saturate die (ctrKey die page k) else s)

/-! ### Snapshots (R454, R455) -/

/-- R454: the snapshot of a die: every counter and the time base. -/
def State.snapshot (s : State) (die : Nat) : State :=
  let take := fun (p : Nat × Ctr) =>
    if p.1 / 512 == die then (p.1, { p.2 with snap := s.counterValue die (p.1 / 8 % 64) (p.1 % 8), snapOvf := p.2.ovf }) else p
  let t : State := { s with ctrs := s.ctrs.map take, freeCount := s.freeCount + 2 ^ 17, snaps := s.snaps.erase die }
  ((t.setReg .perf die 0x05C (s.now % 2 ^ 32)).setReg .perf die 0x060 (s.now / 2 ^ 32)).irq .perf die 0b10

/-- A snapshot is armed on a die. -/
def State.snapBusy (s : State) (die : Nat) : Bool := (s.snaps.find? die).isSome

/-- R454: a snapshot of a die at a time, or at once when it has passed. -/
def State.armAt (s : State) (die time : Nat) : State :=
  if s.snapBusy die then s.err .perf die 4 0 0
  else if timeReached s.now time then s.snapshot die
  else { s with snaps := s.snaps.set die time }

/-- SNAP_TIME of a die. -/
def State.snapTime (s : State) (die : Nat) : Nat := s.reg .perf die 0x054 + 2 ^ 32 * s.reg .perf die 0x058

/-- R455: the present and usable dies, by DIE code. -/
def State.perfDies (s : State) : List Nat :=
  0x40 :: (List.range (Config.dies s.variant)).filter (fun k => s.blockPresent .perf k) ++
    (if s.blockPresent .perf 0x80 then [0x80] else [])

/-- R454, R455: SNAP_CTRL of a die written: bit 0 NOW, bit 1 ARM, and in the hub page bit 2 ALL. -/
def State.snapCtrlWrite (s : State) (die v : Nat) : State :=
  let t1 := if v.testBit 0 then (if s.snapBusy die then s.err .perf die 4 0 0 else s.snapshot die) else s
  let t2 := if v.testBit 1 then t1.armAt die (t1.snapTime die) else t1
  if v.testBit 2 && die == 0x40 then t2.perfDies.foldl (fun (u : State) d => u.armAt d (s.snapTime 0x40)) t2 else t2

/-- SNAP_NOW (R454). -/
def execSnapNow (die : Nat) (s : State) : Out := .next (s.hostWo .perf die fun t => t.snapCtrlWrite die 1)

/-- SNAP_ARM (R454). -/
def execSnapArm (die : Nat) (s : State) : Out := .next (s.hostWo .perf die fun t => t.snapCtrlWrite die 2)

/-- SNAP_ARM_ALL (R455). -/
def execSnapArmAll (s : State) : Out := .next (s.hostWo .perf 0x40 fun t => t.snapCtrlWrite 0x40 4)

/-- SNAP_FIRE (R454): the time base of a die reaches the time of its armed snapshot. A die that has been lost takes none (R455). -/
def execSnapFire (die : Nat) (s : State) : Out :=
  match s.snaps.find? die with
  | none => .next s
  | some t => .next (if s.blockPresent .perf die then (s.at t).snapshot die else s)

/-! ### Trace control (R459) -/

/-- R459: TRACE_CTRL written. LOG2 changes only while EN is 0; setting EN starts the ring anew. -/
def State.traceCtrlWrite (s : State) (v : Nat) : State :=
  let old := s.reg .perf 0x40 0x080
  let new := v &&& 0x9F00000F
  let held := old.testBit 31 && bits new 28 24 != bits old 28 24
  let t := s.setReg .perf 0x40 0x080 (if held then setBits new 28 24 (bits old 28 24) else new)
  let u := if held then t.err .perf 0x40 4 0 0 else t
  if new.testBit 31 && !old.testBit 31 then
    { ((u.setReg .perf 0x40 0x098 0).setReg .perf 0x40 0x09C 0).setReg .perf 0x40 0x0A0 0 with traceGap := false }
  else u

/-- TRACE_ENABLE (R459): a write of TRACE_CTRL. -/
def execTraceEnable (value : Nat) (s : State) : Out := .next (s.host .perf 0x40 fun t => t.traceCtrlWrite value)

/-- R459: TRACE_BASE written: ignored with BUSY while EN is 1. -/
def State.traceBaseWrite (s : State) (off rw v : Nat) : State :=
  if (s.reg .perf 0x40 0x080).testBit 31 then s.err .perf 0x40 4 0 0 else s.setReg .perf 0x40 off (v &&& rw)

/-! ### The control of debug access (R461) -/

/-- R461, R466: DBG_CTRL written: bit 1 CLOSE, bit 0 LOCKOUT. -/
def State.dbgCtrlWrite (s : State) (v : Nat) : State :=
  let t := if v.testBit 0 then { s with dbg := { s.dbg with lockout := true } } else s
  if v % 4 != 0 then t.dbgClose else t

/-- DBG_CTRL_CLOSE (R461). -/
def execDbgCtrlClose (s : State) : Out := .next (s.hostWo .perf 0x40 fun t => t.dbgCtrlWrite 2)

/-- DBG_CTRL_LOCKOUT (R461). -/
def execDbgCtrlLockout (s : State) : Out := .next (s.hostWo .perf 0x40 fun t => t.dbgCtrlWrite 1)

end Sys2Proof.Machine
end

