-- ==== Sys2Proof/Machine/RegRead.lean ====
section
/-!
DEFINITION. What a read of a register answers (R6, R360 to R376): the common header, the registers whose value follows from the
state of their block, and the pairs of which a read of _LO latches _HI (R362).
-/

-- One declaration at a time: the threads of a parallel elaboration take memory together.
set_option Elab.async false

namespace Sys2Proof.Machine

/-! ### The common header (R363, R367) -/

/-- The defined bits of the interrupt registers of a block (R50, R109, R112, R166, R214, R244, R274, R276, R300 to R303, R356 to R359,
R372, R374, R401, R426, R427, R446, R465). -/
def Blk.irqMask (b : Blk) (i : Nat) : Nat :=
  match b with
  | .sched => 0x1F
  | .ne => 0xF
  | .ve | .xp => 0x7
  | .post => 0xF
  | .me => 0x1F
  | .raster => 0x7F
  | .disp => 0xFF
  | .dptx => 0x7F
  | .tmem | .hsram => 0x3
  | .flags => 0x1
  | .welt | .memc => 0xF
  | .hif => 0xF
  | .cfe => 0x3
  | .dma => 0x7
  | .ingest => 0xF
  | .hubSys | .cdSys | .mdSys => 0x3
  | .sec => 0x7
  | .pwr => 0xFF
  | .basecamp => 0x3
  | .fault => 0x1F
  | .perf => if i == 0x40 then 0xF else 0x3

/-- `BLK_ID` (R363, R369, R376): a PERF page carries its compute die's number, or 0. -/
def Blk.ident (b : Blk) (i : Nat) : Nat :=
  let n := if b == .perf && 8 ≤ i then 0 else i
  b.code * 2 ^ 24 + n * 2 ^ 16 + b.dieCode i * 2 ^ 8

/-- `BLK_CAP`, on a variant (R50, R109, R112, R166, R214, R244, R274, R276, R372, R374, R401, R465). -/
def Blk.cap (b : Blk) (v : Variant) : Nat :=
  match b with
  | .sched => b2n (Config.hasMe v) * 2 ^ 16 + (2 ^ Config.engines v - 1)
  | .ne => 0x443CF
  | .ve => b2n (v == .h8a) * 2 ^ 16 + 0x7FFF
  | .xp => 0xF3FFF
  | .post => 4096 * 2 ^ 16 + 256
  | .me => 7680 * 2 ^ 16 + 0b110
  | .raster => 0x8408
  | .disp => (2 ^ Config.outputs v - 1) * 2 ^ 16 + 15360
  | .dptx => 0xE007F
  | .cdSys => 3
  | .mdSys => 1
  | .sec => 1
  | .perf => 0x800
  | _ => 0

/-- R367: a stream runs in the block. -/
def State.streams (s : State) (b : Blk) (i : Nat) : Bool :=
  match b with
  | .disp => s.disp.running
  | .dptx => (s.out i).streaming
  | .ingest => !s.ingestIdle
  | .raster => s.rasterBusy
  | _ => false

/-- R367: a command is queued or runs in the block, or a stream does. -/
def State.blockBusy (s : State) (b : Blk) (i : Nat) : Bool := s.blockHolds b i || s.streams b i

/-- `BLK_STATE` of a block whose ENABLE can be written (R367): 0 OFF, 1 IDLE, 2 LIVE, 3 DRAINING, 4 FAULTED, 5 ASLEEP. -/
def State.movingState (s : State) (b : Blk) (i : Nat) : Nat :=
  let p := s.page b i
  if s.blockOff b i then 0
  else if p.faulted && (p.enable || s.blockBusy b i) then 4
  else if s.blockBusy b i && (p.disabling || (p.drain && b.drainHonoured)) then 3
  -- R48: a gated engine sleeps though blocked contexts hold commands
  else if b == .ne && (s.engine i).gated then 5
  else if s.blockBusy b i then 2
  else 1

/-- `BLK_STATE`: VE and XP follow their NE (R367); a block whose ENABLE is fixed keeps the reset value. -/
def State.blkState (s : State) (b : Blk) (i : Nat) : Nat :=
  match b with
  | .ve | .xp => s.movingState .ne i
  | _ => if b.enableWritable then s.movingState b i else 0

/-- `BLK_CTRL`: VE and XP show their NE's ENABLE and DRAIN; a fixed ENABLE reads 1. -/
def State.blkCtrl (s : State) (b : Blk) (i : Nat) : Nat :=
  let q := if b == .ve || b == .xp then s.page .ne i else s.page b i
  let own := if b == .ne then q.extra.toNat &&& 8 else 0
  if b.enableWritable || b == .ve || b == .xp then own + b2n q.drain * 2 + b2n q.enable else 1

/-- A read of the common header of a page. -/
def State.headerRead (s : State) (b : Blk) (i off : Nat) : Nat :=
  let p := s.page b i
  match off with
  | 0x000 => b.ident i
  | 0x004 => 0x00010000
  | 0x008 => b.cap s.variant
  | 0x00C => s.blkCtrl b i
  | 0x010 => s.blkState b i
  | 0x014 => p.raw.toNat
  | 0x018 => p.irqEn.toNat
  | 0x01C => (p.raw &&& p.irqEn).toNat
  | 0x020 => b2n p.errValid * 2 ^ 31 + b2n p.errOver * 2 ^ 30 + p.errCode % 2 ^ 16
  | 0x024 => p.errInfo.toNat
  | 0x028 => p.errAddr % 2 ^ 32
  | 0x02C => p.errAddr / 2 ^ 32 % 2 ^ 32
  | 0x030 => p.src
  | _ => 0

/-! ### The blocks' registers -/

/-- R50: STATE of JOB_STATE. -/
def State.jobStateCode (s : State) (j : Nat) : Nat :=
  if !(s.job j).valid then 0
  else if s.steps.any fun x => x.job == j && x.opened && !x.closed && !x.guardRows.isEmpty then 3
  else if s.queuedOf j != 0 || s.openSteps j != 0 then 2
  else 1

/-- R50: the engines on which a job holds a resident context. -/
def State.residentMask (s : State) (j : Nat) : Nat :=
  ((List.range 16).map fun g => if ((s.engine g).slotOf j).isSome then 2 ^ g else 0).sum

/-- SCHED (R50). -/
def State.schedRead (s : State) (off : Nat) : Option Nat :=
  let j := s.jobSel
  match off with
  | 0x050 => some (s.job j).cfg.toNat
  | 0x054 => some (s.job j).apts.toNat
  | 0x058 => some (min 0xFFFF (s.queuedOf j) * 2 ^ 16 + s.openSteps j % 8 * 2 ^ 8 + s.jobStateCode j)
  | 0x05C => some (s.residentMask j)
  | 0x070 => some s.pendingFree
  | 0x078 => some (s.job j).land.toNat
  | _ => none

/-- The commands in the queue of a resident context. -/
def State.slotQueue (s : State) (g : Nat) (k : CtxSlot) : List Cmd := s.inQueue (.context g k.job)

/-- NE (R110). Commands run whole, so none is between its start and its end; RUNNING shows that the running context has commands
and is not blocked. -/
def State.neRead (s : State) (g off : Nat) : Option Nat :=
  let e := s.engine g
  let sum := fun (p : CtxSlot → Bool) => (e.slots.map fun k => if p k then 2 ^ k.slot else 0).sum
  match off with
  | 0x040 =>
    let run := e.slots.any fun k => e.running == some k.slot && k.blockedSince.isNone && !(s.slotQueue g k).isEmpty
    some (sum (fun _ => true) * 2 ^ 28 + sum (fun k => k.blockedSince.isSome) * 2 ^ 24 + e.running.getD 0 * 2 ^ 22 +
      b2n run * 2 ^ 21 + b2n e.planeOf.isSome * 2 ^ 20)
  | 0x04C => match e.slots.find? fun k => k.slot == s.reg .ne g 0x048 % 4 with
    | some k =>
      let cls := match s.slotBest g k with | some c => c.cls | none => 0
      some (2 ^ 31 + b2n k.blockedSince.isSome * 2 ^ 30 + k.job * 2 ^ 24 + cls * 2 ^ 22 + (s.slotQueue g k).length * 2 ^ 16)
    | none => some 0
  | 0x054 => some (s.saveBase.get (g / 2 * 64 + s.reg .ne g 0x050 % 64) 0).toNat
  | 0x064 =>
    let t := e.stat (s.reg .ne g 0x060 % 8)
    some (b2n t.conflict * 2 ^ 31 + b2n t.tagged * 2 ^ 30 + t.job * 2 ^ 24)
  | 0x068 => some (e.stat (s.reg .ne g 0x060 % 8)).count
  | 0x06C => some (e.stat (s.reg .ne g 0x060 % 8)).clips
  | 0x070 => some ((e.stat (s.reg .ne g 0x060 % 8)).sse % 2 ^ 32)
  | 0x074 => some ((e.stat (s.reg .ne g 0x060 % 8)).sse / 2 ^ 32)
  | _ => none

/-- VE_STATUS and XP_STATUS (R112). -/
def State.unitStatus (s : State) (g : Nat) (u : OpUnit) : Nat :=
  match s.unitRuns g u with
  | some k => 2 ^ 31 + k * 2 ^ 29
  | none => 0

/-- ME (R215). Commands run row by row: PHASE shows the coarse levels until the first row is staged (DESIGN CHOICE, assumption 70). -/
def State.meRead (s : State) (off : Nat) : Option Nat :=
  match off with
  | 0x040 =>
    let run := s.meCmd
    let phase := match run with
      | none => 0
      | some _ => if s.me.stallFrom.isSome then 3 else if s.me.staged == 0 then 1 else 2
    some (b2n run.isSome * 2 ^ 31 + (s.inQueue .me).length * 2 ^ 24 + (run.elim 0 (·.job)) * 2 ^ 18 + phase * 2 ^ 16 +
      s.me.staged % 64)
  | 0x050 => some ((s.pslots - s.slotsHeld) * 2 ^ 16 + s.pslots)
  -- R212: STALL_US grows while the ME waits
  | 0x06C => some (satAdd 32 (s.reg .me 0 0x06C) (match s.me.stallFrom with | some t => ticksSince s.now t / usTicks | none => 0))
  | 0x05C => some (stagingBase % 2 ^ 32)
  | 0x060 => some (stagingBase / 2 ^ 32)
  | _ => none

/-- RASTER (R245). -/
def State.rasterRead (s : State) (off : Nat) : Option Nat :=
  match off with
  | 0x040 => some (b2n s.rasterRuns * 2 ^ 31 + b2n (s.raster.stalled.any fun e => s.inRaster e.1) * 2 ^ 30 +
      b2n (s.raster.parked.any s.inRaster) * 2 ^ 29 + s.rpasses.length * 2 ^ 25 + (s.inQueue .raster).length)
  | 0x050 => some (s.chunks * 2 ^ 16 + (s.chunks - s.takenChunks.dedup.length))
  | 0x05C => some (s.raster.need % 256 * 2 ^ 8 + s.raster.pages.length)
  | _ => none

/-- DISP (R252, R257, R271, R275). -/
def State.dispRead (s : State) (off : Nat) : Option Nat :=
  let f := s.curFrame.getD 0
  let e := s.disp.cal.find? (s.reg .disp 0 0x0A0 % 4)
  match off with
  | 0x040 =>
    let on := ((List.range 4).map fun i => if (s.out i).streaming then 2 ^ i else 0).sum
    some (s.disp.genlock.sync % 4 * 2 ^ 30 + b2n s.disp.held * 2 ^ 29 + b2n s.disp.committed.isSome * 2 ^ 28 + on * 2 ^ 24 +
      toCode 16 s.disp.genlock.lastErr)
  | 0x044 => some (f % 2 ^ 32)
  | 0x048 => some (f / 2 ^ 32)
  | 0x0A4 => some (e.elim 0 fun x => x.frame % 2 ^ 32)
  | 0x0A8 => some (e.elim 0 fun x => x.frame / 2 ^ 32)
  | 0x0AC => some (e.elim 0 fun x => x.deadline % 2 ^ 32)
  | 0x0B0 => some (e.elim 0 fun x => x.deadline / 2 ^ 32)
  | 0x0B4 => some (e.elim 0 fun x => x.rowPitch % 2 ^ 32)
  | 0x0B8 => some (b2n s.disp.committed.isSome * 2 ^ 31)
  | _ => none

/-- DPTX (R276). -/
def State.dptxRead (s : State) (i off : Nat) : Option Nat :=
  let o := s.out i
  match off with
  | 0x040 => some (b2n o.hpd * 2 ^ 31 + b2n o.trained * 2 ^ 30 + o.rate % 8 * 2 ^ 27 + o.lanes % 4 * 2 ^ 25 +
      b2n (o.trained && o.dsc) * 2 ^ 24 + o.hdcp % 4 * 2 ^ 22 + b2n o.blocked * 2 ^ 21)
  | 0x050 =>
    let k := s.reg .dptx i 0x04C % 16
    some (if k < 12 then (o.cscEntry k).toNat else 0)
  | 0x05C => some (b2n o.auxBusy * 2 ^ 31 + o.auxResult % 4 * 2 ^ 28 + s.reg .dptx i 0x05C % 2 ^ 28)
  | _ => none

/-- CFE (R357). -/
def State.cfeRead (s : State) (off : Nat) : Option Nat :=
  let a := s.apt s.aptSel
  let r := s.ring s.aptSel
  match off with
  | 0x044 => some (b2n a.en * 2 ^ 31 + a.ring % 16 * 2 ^ 16)
  | 0x048 => some a.consumed.toNat
  | 0x04C => some a.credLo.toNat
  | 0x050 => some a.credHi.toNat
  | 0x054 => some r.baseLo.toNat
  | 0x058 => some r.baseHi.toNat
  | 0x05C => some r.ctrl.toNat
  | 0x060 => some r.prod.toNat
  | 0x064 => some r.cons.toNat
  | _ => none

/-- HIF (R338, R356). -/
def State.hifRead (s : State) (off : Nat) : Option Nat :=
  if 0x400 ≤ off && off < 0x600 then some (s.msixWord ((off - 0x400) / 16) ((off - 0x400) / 4 % 4)).toNat
  else match off with
    | 0x040 => some (s.link.state % 4 * 2 ^ 30 + s.link.mode % 4 * 2 ^ 28 + b2n s.link.pcieUp * 2 ^ 27 +
        b2n s.link.dpUp * 2 ^ 26 + s.link.session % 2 ^ 16)
    | 0x050 => some (b2n (!s.backlog.isEmpty) * 2 ^ 31 + min 65536 s.backlog.length)
    | 0x600 => some s.msix.pba.toNat
    | _ => none

/-- DMA (R358). -/
def State.dmaRead (s : State) (off : Nat) : Option Nat :=
  let k := s.reg .dma 0 0x040 % 8
  let c := s.channel k
  let run := s.dmaNext k
  match off with
  | 0x044 => some (b2n c.en * 2 ^ 31 + c.dramClass % 4)
  -- a command of a channel runs whole: the one that it would run next counts as running (DESIGN CHOICE, assumption 68)
  | 0x048 => some (b2n run.isSome * 2 ^ 31 + (s.inQueue (.dma k)).length * 2 ^ 24 + (run.elim 0 (·.job)) * 2 ^ 18)
  | 0x04C => some (min (c.bytes / 1024) (2 ^ 32 - 1))
  | _ => none

/-- INGEST (R359). -/
def State.ingestRead (s : State) (off : Nat) : Option Nat :=
  let n := s.ingest
  match off with
  | 0x040 => some (b2n n.locked * 2 ^ 31 + b2n n.prot * 2 ^ 30 + b2n n.ctype * 2 ^ 29 +
      (if n.locked then n.enc % 2 * 2 ^ 28 + n.bpc % 16 * 2 ^ 24 else 0))
  | 0x044 => some (if n.locked then n.w % 2 ^ 16 * 2 ^ 16 + n.h % 2 ^ 16 else 0)
  | 0x06C => some n.seq.toNat
  | _ => none

/-- HUB_SYS (R372). What the identity record gives reads zero when no record was accepted (R382). -/
def State.hubSysRead (s : State) (off : Nat) : Option Nat :=
  let known := fun (x : Nat) => some (if s.boot.identOk then x else 0)
  match off with
  | 0x040 => known (s.cdLost % 256 * 2 ^ 16 + b2n s.mdLost * 2 ^ 15 + s.part.md % 2 * 2 ^ 8 + s.part.cds % 256)
  | 0x044 => known (s.part.outputs % 16 * 2 ^ 8 + s.part.ports % 256)
  | 0x048 => known (s.part.pkgRev % 256 * 2 ^ 8 + s.part.grade % 4 * 2 ^ 4 + Config.code s.variant)
  | 0x04C => known (s.part.serial % 2 ^ 32)
  | 0x050 => known (s.part.serial / 2 ^ 32 % 2 ^ 32)
  | 0x054 => some (s.devState % 16)
  | 0x05C => some (s.now % 2 ^ 32)
  | 0x060 => some (s.now / 2 ^ 32 % 2 ^ 32)
  | _ => none

/-- CD_SYS, or MD_SYS for die 8 (R374). AWAKE follows from the die's state and the gating of its engines. -/
def State.dieRead (s : State) (k off : Nat) : Option Nat :=
  let p := diePageOf k
  let up := s.dieState k == 2
  match off with
  | 0x040 =>
    let awake := if !up then 0
      else if k < 8 then b2n (!(s.engine (2 * k)).gated) + 2 * b2n (!(s.engine (2 * k + 1)).gated) else 1
    some (s.reg p.1 p.2 0x040 / 4 * 4 + awake)
  | 0x044 => some (toCode 16 (s.pwr.temps.get k 0))
  | 0x050 => some (s.part.uids.getD k 0 % 2 ^ 32)
  | 0x054 => some (s.part.uids.getD k 0 / 2 ^ 32 % 2 ^ 32)
  | _ => none

/-- R421: the reason selected. -/
def State.reasonUs (s : State) : Nat := s.pwr.reasons.getD (s.reg .pwr 0 0x078 % 8) 0

/-- PWR (R426). -/
def State.pwrRead (s : State) (off : Nat) : Option Nat :=
  match off with
  | 0x040 =>
    let bMax := (s.packageDies.map fun k => s.throttle k).foldl max 0
    some (min 255 (shown (256 * s.bCap)) * 2 ^ 24 + min 255 (shown (256 * bMax)) * 2 ^ 16 + b2n s.pwr.pmbusOk * 2 ^ 15 +
      b2n (!(s.pwr.hints.filter s.hintOn).isEmpty) * 2 ^ 14)
  | 0x060 => some (s.vrCfg (s.reg .pwr 0 0x05C % 16))
  | 0x064 => some (shown s.pwr.est)
  | 0x068 => some (shown s.pwr.meas)
  | 0x06C => some (shown s.pwr.avg)
  | 0x070 => some (toCode 16 (s.pwr.temps.get 9 0))
  | 0x074 => some (b2n s.pwr.sticky * 2 ^ 31 + min 0xFFFF (shown s.pwr.diffMax))
  | 0x07C => some (s.reasonUs % 2 ^ 32)
  | 0x080 => some (s.reasonUs / 2 ^ 32 % 2 ^ 32)
  | 0x084 => some (shown (s.pwr.energy / 1000) % 2 ^ 32)
  | 0x088 => some (shown (s.pwr.energy / 1000) / 2 ^ 32 % 2 ^ 32)
  | 0x08C => some (s.pwr.energyMeas % 2 ^ 32)
  | 0x090 => some (s.pwr.energyMeas / 2 ^ 32 % 2 ^ 32)
  | _ => none

/-- The 32-bit word at a place of a run of bytes. -/
def wordOf (bs : List Byte) (k : Nat) : Nat := leNat ((bs.drop (4 * k)).take 4)

/-- SEC (R323, R401). -/
def State.secRead (s : State) (off : Nat) : Option Nat :=
  if 0x400 ≤ off && off < 0x800 then some (wordOf s.boot.quote ((off - 0x400) / 4))
  else if 0x800 ≤ off then some (wordOf s.boot.window ((off - 0x800) / 4))
  else match off with
    | 0x058 => some (b2n s.boot.custKey.isSome * 2 ^ 31 + s.boot.minSvn % 64)
    | 0x060 => some (s.holdCauses % 16)
    | 0x064 => some (b2n s.boot.upd.isSome * 2 ^ 31 + s.boot.updResult % 8 * 2 ^ 28 + s.reg .sec 0 0x064 % 64)
    | 0x06C => some (min s.boot.boots (2 ^ 32 - 1))
    | 0x114 => some (s.cairn.seq % 2 ^ 32)
    | _ => none

/-- FAULT (R446, R447): the selected log entry. -/
def State.faultRead (s : State) (off : Nat) : Option Nat :=
  if 0x054 ≤ off && off < 0x074 then
    some (wordOf (s.log.get (s.reg .fault 0 0x050 % 256) (List.replicate 32 0)) ((off - 0x054) / 4))
  else none

/-- R453, R466: OVF of a counter. -/
def State.ovfAt (s : State) (die page k : Nat) : Bool := (s.ctr (ctrKey die page k)).ovf

/-- R466: the counters of a page, and the pages of a die, that have OVF. -/
def State.ovfMap (s : State) (die page : Nat) : Nat :=
  ((List.range 8).map fun k => if s.ovfAt die page k then 2 ^ k else 0).sum
def State.ovfPages (s : State) (die : Nat) : Nat :=
  ((List.range 64).map fun p => if s.ovfMap die p != 0 then 2 ^ p else 0).sum

/-- DBG_STATUS (R466). -/
def State.dbgStatus (s : State) : Nat :=
  let d := s.dbg
  b2n d.isOpen * 2 ^ 31 + b2n d.lockout * 2 ^ 30 + b2n d.cust * 2 ^ 29 + d.scope % 4 * 2 ^ 27 + min 8 d.fails

/-- PERF (R466) of a die. -/
def State.perfRead (s : State) (die off : Nat) : Option Nat :=
  let page := s.cntPage die
  let k := s.cntIndex die
  let on := (s.counted die page).isSome
  let c := if on then s.ctr (ctrKey die page k) else Ctr.fresh
  let n := if on then s.counterValue die page k else 0
  match off with
  | 0x044 => some c.cfg
  | 0x048 => some (n % 2 ^ 32)
  | 0x04C => some (b2n c.ovf * 2 ^ 31 + n / 2 ^ 32 % 2 ^ 16)
  | 0x050 => some (b2n (s.snapBusy die) * 2 ^ 31)
  | 0x064 => some (c.snap % 2 ^ 32)
  | 0x068 => some (b2n c.snapOvf * 2 ^ 31 + c.snap / 2 ^ 32 % 2 ^ 16)
  | 0x06C => some (s.ovfMap die page)
  | 0x070 => some (s.ovfPages die % 2 ^ 32)
  | 0x074 => some (s.ovfPages die / 2 ^ 32)
  | 0x0A4 => some s.dbgStatus
  | 0x0A8 => some (b2n s.dbg.lockout)
  | _ => none

/-- The registers whose value follows from the state of their block. -/
def State.liveRead (s : State) (b : Blk) (i off : Nat) : Option Nat :=
  match b with
  | .sched => s.schedRead off
  | .ne => s.neRead i off
  | .post => if off == 0x040 then some (b2n (s.postRuns i) * 2 ^ 31 + (s.inQueue (.post i)).length) else none
  | .ve => if off == 0x040 then some (s.unitStatus i .ve) else none
  | .xp => if off == 0x040 then some (s.unitStatus i .xp) else none
  | .me => s.meRead off
  | .raster => s.rasterRead off
  | .disp => s.dispRead off
  | .dptx => s.dptxRead i off
  | .tmem =>
    if off == 0x044 || off == 0x048 || off == 0x04C then
      some (s.window i (s.reg .tmem i 0x040 % 64) ((off - 0x044) / 4)).toNat
    else none
  | .hsram => if off == 0x040 then some (s.generalBytes / 2 ^ 20 * 2 ^ 24 + (s.reg .hsram 0 0x040 &&& 0x1F00)) else none
  | .flags =>
    let f := s.reg .flags 0 0x040 % 4096
    if off == 0x044 then some (s.flag f).gen.toNat
    else if off == 0x048 then
      some (b2n (s.flag f).produced * 2 ^ 31 + (s.flag f).producer % 64 * 2 ^ 24 + s.waiters f)
    else none
  | .welt => if off == 0x040 then some ((s.module i).state % 4 * 2 ^ 30 + min 255 (s.module i).repaired * 2 ^ 16) else none
  | .sec => s.secRead off
  | .hif => s.hifRead off
  | .cfe => s.cfeRead off
  | .dma => s.dmaRead off
  | .ingest => s.ingestRead off
  | .hubSys => s.hubSysRead off
  | .cdSys => s.dieRead i off
  | .mdSys => s.dieRead 8 off
  | .pwr => s.pwrRead off
  | .fault => s.faultRead off
  | .perf => s.perfRead i off
  | .memc | .basecamp => none

/-- A register that the page does not have although other pages of its block do: IECC_CTRL past port 0 (R303), and the trace and debug
registers outside the hub (R465). -/
def Blk.lacks (b : Blk) (i off : Nat) : Bool :=
  (b == .memc && off == 0x044 && i != 0) || (b == .perf && 0x07C ≤ off && i != 0x40)

/-- The live value of the register at an offset of a page. -/
def State.readReg (s : State) (b : Blk) (i off : Nat) : Nat :=
  if off < 0x040 then s.headerRead b i off
  else if b.lacks i off then 0
  else match s.liveRead b i off with
    | some v => v % 2 ^ 32
    | none => match b.regAt off with
      | some _ => s.reg b i off
      | none => 0

/-! ### Reads over BAR0 (R361, R362) -/

/-- R362: the offset is that of the _LO register of a pair of RO registers. -/
def Blk.roPair (b : Blk) (i off : Nat) : Bool :=
  off == 0x028 ||
    (match b with
     | .ne => off == 0x070
     | .me => off == 0x05C
     | .disp => off == 0x044 || off == 0x0A4 || off == 0x0AC
     | .hubSys => off == 0x04C || off == 0x05C
     | .cdSys | .mdSys => off == 0x050
     | .pwr => off == 0x07C || off == 0x084 || off == 0x08C
     | .perf => off == 0x048 || off == 0x05C || off == 0x064 || (off == 0x070 && !b.lacks i off)
     | _ => false)

/-- R2, R360, R379: the value that the word at a BAR0 offset reads as, with its latch (R362), and the state after the read. -/
def State.readWord (s : State) (off : Nat) : Nat × State :=
  match pageAt off with
  | none => (0, s)
  | some (b, i) =>
    let o := off % 0x1000 / 4 * 4
    let key := b.base i + o
    if !s.answers b i then (0, s)
    else match s.latch.find? key with
      | some w => (w.toNat, { s with latch := s.latch.erase key })
      | none =>
        (s.readReg b i o, if b.roPair i o then { s with latch := s.latch.set (key + 4) (BitVec.ofNat 32 (s.readReg b i (o + 4))) } else s)

/-- The words from a BAR0 offset on, read in rising order. -/
def readWords : Nat → Nat → State → List Byte × State
  | 0, _, s => ([], s)
  | n + 1, off, s =>
    let r := s.readWord off
    let t := readWords n (off + 4) r.2
    (leBytes 4 r.1 ++ t.1, t.2)

/-- R361: a read of `n` bytes at a BAR0 offset answers the addressed bytes of the containing registers. -/
def State.readBar0 (s : State) (off n : Nat) : State :=
  let first := off / 4 * 4
  let r := readWords (ceilDiv (off + n - first) 4) first s
  { r.2 with readData := (r.1.drop (off - first)).take n }

end Sys2Proof.Machine
end

