-- ==== Sys2Proof/Machine/RegWrite.lean ====
section
/-!
DEFINITION. What a write of a register does (R360 to R368): the common header, ENABLE, DRAIN and SOFT_RESET, and the registers with a
behaviour of their own. Every other register stores the bits that software can write.
-/

-- One declaration at a time: the threads of a parallel elaboration take memory together.
set_option Elab.async false

namespace Sys2Proof.Machine

/-! ### Partitions and staging (R213, R246, R284, R285) -/

/-- R213: the ME is IDLE and every staged row has been returned. -/
def State.stageIdle (s : State) : Bool := s.blkState .me 0 == 1 && !(s.me.window.any fun e => s.unreturned e.2)

/-- STAGE_CTRL_WRITE (R213). -/
def State.stageCtrlWrite (s : State) (v : Nat) : State :=
  if s.stageIdle then s.setReg .me 0 0x04C (v &&& 0x8FFFFF0F) else s.err .me 0 4 0 0

/-- STAGE_CTRL_WRITE (R213). Without a matching die the page ignores writes. -/
def execStageCtrlWrite (value : Nat) (s : State) : Out := .next (s.host .me 0 fun t => t.stageCtrlWrite value)

/-- R285: the ME is IDLE or absent, and no staged row is unreturned. -/
def State.stagingQuiet (s : State) : Bool :=
  (!s.mdUsable || s.blkState .me 0 == 1) && !(s.me.window.any fun e => s.unreturned e.2)

/-- R284: the sizes of staging and bin memory leave 2 MiB of general partition. -/
def partitionOk (stage bin : Nat) : Bool := stage + bin + 2 ≤ 58

/-- R284, R285: PART_CTRL written. STAGE_MIB above 24 acts as 24 in the size of the partitions. -/
def State.partCtrlWrite (s : State) (v : Nat) : State :=
  if !s.stagingQuiet then s.err .hsram 0 4 0 0
  else if !partitionOk (bits v 12 8) (max 8 (min 32 (bits (s.reg .raster 0 0x048) 13 8))) then s.err .hsram 0 2 0 0
  else s.setReg .hsram 0 0x040 (v &&& 0x1F00)

/-- PART_CTRL_WRITE (R284). -/
def execPartCtrlWrite (value : Nat) (s : State) : Out := .next (s.host .hsram 0 fun t => t.partCtrlWrite value)


/-- BIN_CTRL_WRITE (R246, R284). -/
def State.binCtrlWrite (s : State) (v : Nat) : State :=
  if s.blkState .raster 0 != 1 then s.err .raster 0 4 0 0
  else if !partitionOk (bits (s.reg .hsram 0 0x040) 12 8) (max 8 (min 32 (bits v 13 8))) then s.err .hsram 0 2 0 0
  else s.setReg .raster 0 0x048 (v &&& 0x0FFF3F01)

/-- BIN_CTRL_WRITE (R246). -/
def execBinCtrlWrite (value : Nat) (s : State) : Out := .next (s.host .raster 0 fun t => t.binCtrlWrite value)

/-! ### The common header (R364, R365) -/

/-- R364: writing 1 to STAT bits clears RAW, enabled or not. -/
def State.statClear (s : State) (b : Blk) (i v : Nat) : State :=
  let p := s.page b i
  (s.putPage b i { p with raw := p.raw &&& ~~~(BitVec.ofNat 32 v) }).evalVector b.vector

/-- R364: the enables of the RAW bits. -/
def State.irqEnWrite (s : State) (b : Blk) (i v : Nat) : State :=
  (s.putPage b i { s.page b i with irqEn := BitVec.ofNat 32 (v &&& b.irqMask i) }).evalVector b.vector

/-- R365: writing 1 to VALID clears the error fields. -/
def State.errClear (s : State) (b : Blk) (i : Nat) : State :=
  s.putPage b i { s.page b i with errValid := false, errOver := false, errCode := 0, errInfo := 0, errAddr := 0 }

/-! ### ENABLE and DRAIN (R367) -/

/-- R367: a disabled block that holds no command and runs no stream any more is IDLE with ENABLE 0, and no longer FAULTED. -/
def State.drainEnd (s : State) (b : Blk) (i : Nat) : State :=
  let p := s.page b i
  if b.enableWritable && !p.enable && !s.blockBusy b i then s.putPage b i { p with disabling := false, faulted := false } else s

/-- What follows from ENABLE set: display timing starts at frame 0 (R272), SRC_SEQ counts from 0 (R349). -/
def State.started (s : State) (b : Blk) : State :=
  match b with
  | .disp => s.startDisplay
  | .ingest => { s with ingest := { s.ingest with seq := 0 } }
  | _ => s

/-- R367: ENABLE is set; while the block drains from a disable it is ignored, and BUSY is recorded. -/
def State.setEnable (s : State) (b : Blk) (i : Nat) : State :=
  let t := s.drainEnd b i
  let p := t.page b i
  if p.enable then t
  else if p.disabling && t.blockBusy b i then t.err b i 4 0 0
  else ((t.putPage b i { p with enable := true, disabling := false }).started b).settleState.track

/-- R265, R276: an output whose ENABLE is cleared sends no video. -/
def State.stopOutput (s : State) (i : Nat) : State :=
  s.putOut i { s.out i with streaming := false, blocked := false, encrypting := false }

/-- R367: software clears ENABLE. -/
def State.unsetEnable (s : State) (b : Blk) (i : Nat) : State :=
  if !(s.page b i).enable then s
  else
    let t := (s.clearEnable b i).1
    let u := if b == .dptx then t.stopOutput i else t
    (u.drainEnd b i).settleState.track

/-- R367: DRAIN. -/
def State.drainWrite (s : State) (b : Blk) (i : Nat) (v : Bool) : State :=
  (s.putPage b i { s.page b i with drain := v }).track

/-! ### SOFT_RESET (R368, R434) -/

/-- R434: what a soft reset does to the state that a block holds. -/
def State.clearHeld (s : State) (b : Blk) (i : Nat) : State :=
  match b with
  | .ne =>
    let e := s.engine i
    let gone := e.slots.map (·.job)
    { (s.putEngine i { e with
        slots := [], running := none, ousted := false, acc := [], planeOf := none, stats := []
        lost := gone ++ e.lost.filter fun j => !gone.contains j }) with
      saveBase := s.saveBase.dropKeys fun k => k / 64 == i / 2 }
  | .dma => { s with dma := [] }
  | .dptx => s.putOut i { DpOut.fresh with hpd := (s.out i).hpd }
  | .raster =>
    let t := { s with raster := { s.raster with passes := [], tiles := [], pages := [], need := 0, stalled := [], parked := [], draws := [] } }
    if s.raster.pages.isEmpty then t else t.irq .raster 0 0b1000000
  | .ingest => { s with ingest := { s.ingest with seq := 0 } }
  | .disp => { s with disp := { Disp.reset with hold := s.disp.hold, bound := s.disp.bound } }
  | _ => s

/-- R368: a soft reset: the page is at its factory values overlaid by the Insole records, and ENABLE takes its reset value. -/
def State.softReset (s : State) (b : Blk) (i : Nat) : State :=
  let inPage := fun (a : Nat) => a / 0x1000 == b.base i / 0x1000
  let was := (s.page b i).enable
  let t : State := { s with regs := s.regs.dropKeys inPage, latch := s.latch.dropKeys inPage }
  let u := ((t.putPage b i (t.pageReset b i)).evalVector b.vector).clearHeld b i
  let v := if (u.page b i).enable && !was then u.started b else u
  v.settleState.track

/-- R368: SOFT_RESET acts when the block is IDLE or OFF, and records BUSY at any other time. -/
def State.softResetWrite (s : State) (b : Blk) (i : Nat) : State :=
  let t := s.drainEnd b i
  if t.blkState b i ≤ 1 then t.softReset b i else t.err b i 4 0 0

/-- `BLK_CTRL` written where ENABLE can be written (R367, R368): ENABLE acts first, then DRAIN, then SOFT_RESET. A write that clears
ENABLE does not set DRAIN. NE has GATE_EN in bit 3 (R109). -/
def State.enableWrite (s : State) (b : Blk) (i v : Nat) : State :=
  let p := s.page b i
  let t := if b == .ne then s.putPage b i { p with extra := BitVec.ofNat 32 (v &&& 8) } else s
  let u := if v.testBit 0 then t.setEnable b i else t.unsetEnable b i
  let cleared := p.enable && !v.testBit 0
  let d := v.testBit 1 && (!cleared || p.drain)
  let w := if d == p.drain then u else u.drainWrite b i d
  if v.testBit 2 then w.softResetWrite b i else w

/-- `BLK_CTRL` written: in a page of VE or XP only SOFT_RESET acts (R368); where ENABLE is fixed nothing does. -/
def State.ctrlWrite (s : State) (b : Blk) (i v : Nat) : State :=
  if b.enableWritable then s.enableWrite b i v
  else if (b == .ve || b == .xp) && v.testBit 2 then s.softResetWrite b i
  else s

/-- A write of the common header. -/
def State.headerWrite (s : State) (b : Blk) (i off v : Nat) : State :=
  match off with
  | 0x00C => s.ctrlWrite b i v
  | 0x018 => s.irqEnWrite b i v
  | 0x01C => s.statClear b i v
  | 0x020 => if v.testBit 31 then s.errClear b i else s
  | _ => s

/-! ### Counters that software clears -/

/-- The COUNT_CLR register of a block, and the counters that it sets to zero (R50, R166, R215, R245, R275, R276, R356 to R359, R401,
R426, R447). -/
def Blk.countClr (b : Blk) : Nat × List Nat :=
  match b with
  | .sched => (0x074, [0x060, 0x064, 0x068])
  | .post => (0x058, [0x048, 0x04C, 0x050])
  | .me => (0x074, [0x064, 0x068, 0x06C])
  | .raster => (0x078, [0x060, 0x064, 0x068, 0x06C, 0x070])
  | .disp => (0x0D8, [0x0BC, 0x0C0, 0x0C4, 0x0C8, 0x0CC, 0x0D0])
  | .dptx => (0x078, [0x070, 0x074])
  | .hif => (0x05C, [0x054])
  | .cfe => (0x06C, [0x068])
  | .dma => (0x054, [])
  | .ingest => (0x080, [0x070, 0x074, 0x078, 0x07C])
  | .sec => (0x074, [0x070])
  | .pwr => (0x09C, [0x094, 0x098])
  | .fault => (0x094, [0x07C, 0x080, 0x084, 0x088, 0x08C, 0x090])
  | _ => (0, [])

/-- COUNT_CLR.CLR is written. DMA's counters belong to its channels, and PWR's durations to its reasons. -/
def State.countClear (s : State) (b : Blk) (i : Nat) : State :=
  let t := b.countClr.2.foldl (fun (u : State) off => u.setReg b i off 0) s
  match b with
  | .dma => (List.range 8).foldl (fun (u : State) k => u.putChannel k { u.channel k with bytes := 0 }) t
  | .me => { t with me := { t.me with stallFrom := t.me.stallFrom.map fun _ => t.now } }
  | .pwr => { t with pwr := { t.pwr with reasons := Pwr.reset.reasons } }
  | _ => t

/-! ### Registers with a behaviour of their own -/

/-- R34, R50: JOB_LAND. Software must change it only while the job is not valid; whether another change takes is free (R9; assumption 11). -/
def State.jobLandWrite (s : State) (j v : Nat) : State :=
  let w := BitVec.ofNat 32 (v &&& 0x80000F3F)
  let put := fun (t : State) => t.putJob j { t.job j with land := w }
  if (s.job j).valid && w != (s.job j).land then s.mayTake put else put s

/-- R20, R50: JOB_APT. -/
def State.jobAptWrite (s : State) (j v : Nat) : State := s.putJob j { s.job j with apts := BitVec.ofNat 32 (v % 2 ^ 16) }

/-- R110, R111: SAVE_BASE of the selected job, in the table that both NE pages of a die show. Software must change it only while the job
is not valid; whether another change takes is free (R9; assumption 11). -/
def State.saveBaseWrite (s : State) (g v : Nat) : State :=
  let j := s.reg .ne g 0x050 % 64
  let key := g / 2 * 64 + j
  let w := BitVec.ofNat 32 (v &&& 0x8FFFF000)
  let put := fun (t : State) => { t with saveBase := t.saveBase.set key w }
  if (s.job j).valid && w != s.saveBase.get key 0 then s.mayTake put else put s

/-- R110: CTX_SAVE_CTRL. -/
def State.ctxSaveWrite (s : State) (g v : Nat) : State :=
  let t := s.setReg .ne g 0x048 (v % 4)
  if v.testBit 2 then (t.ctxSave g (v % 4)).track else t

/-- R110: MSE_CLR. -/
def State.mseClrWrite (s : State) (g v : Nat) : State :=
  let t := if v.testBit 1 then s.mseClearAll g else s
  if v.testBit 0 then t.mseClearSel g else t

/-- R276: LINK_CTRL of an output. -/
def State.dptxLinkWrite (s : State) (i v : Nat) : State :=
  let t := s.setReg .dptx i 0x044 (v &&& 0xFC)
  if v.testBit 31 then t.retrain i else t

/-- R276: CSC_DATA; indices 12 to 15 are ignored. -/
def State.cscWrite (s : State) (i v : Nat) : State :=
  let k := s.reg .dptx i 0x04C % 16
  if k < 12 then s.putOut i { s.out i with csc := SMap.set (s.out i).csc k (BitVec.ofNat 32 v) } else s

/-- R276: HDCP_CTRL. -/
def State.hdcpWrite (s : State) (i v : Nat) : State :=
  let t := s.setReg .dptx i 0x058 (v % 2)
  if v.testBit 1 then t.reauth i else t

/-- R266: AUX_CTRL. A START written while BUSY is ignored. -/
def State.auxCtrlWrite (s : State) (i v : Nat) : State :=
  if v.testBit 30 then s.auxStart i v else s.setReg .dptx i 0x05C (v % 2 ^ 28)

/-- R332: the credit address of an aperture. -/
def State.credWrite (s : State) (off v : Nat) : State :=
  let a := s.apt s.aptSel
  s.putApt s.aptSel (if off == 0x04C then { a with credLo := BitVec.ofNat 32 v &&& 0xFFFFFFFD } else { a with credHi := BitVec.ofNat 32 v })

/-- R336: the base of a ring. -/
def State.ringBaseWrite (s : State) (off v : Nat) : State :=
  let r := s.ring s.aptSel
  s.putRing s.aptSel (if off == 0x054 then { r with baseLo := BitVec.ofNat 32 v &&& 0xFFFFF000 } else { r with baseHi := BitVec.ofNat 32 v })

/-- R356: LINK_CTRL of HIF. -/
def State.hifLinkWrite (s : State) (v : Nat) : State :=
  let t := s.setReg .hif 0 0x044 (v % 4)
  if v.testBit 2 then t.linkResume else t

/-- R302: LINK_CTRL of a Welt module. -/
def State.weltLinkWrite (s : State) (m v : Nat) : State :=
  if v.testBit 31 then (s.putModule m { s.module m with fails := 0 }).weltRetrain m else s

/-- R427: BC_STATUS: writing 1 to TRIP clears it. -/
def State.bcStatusWrite (s : State) (v : Nat) : State :=
  if v.testBit 31 then s.setReg .basecamp 0 0x040 (s.reg .basecamp 0 0x040 % 2 ^ 31) else s

/-- R401: the update window, of which writes while BUSY are ignored. -/
def State.windowPut (s : State) (k v : Nat) : State :=
  if s.boot.upd.isSome then s
  else { s with boot := { s.boot with window := s.boot.window.take (4 * k) ++ leBytes 4 v ++ s.boot.window.drop (4 * k + 4) } }

/-- R374: DIE_TEMP_MAX of a die. -/
def State.tempMaxWrite (s : State) (b : Blk) (i v : Nat) : State := if v.testBit 31 then s.setReg b i 0x048 0 else s

/-- R213: SPILL_BASE changes only while the ME is IDLE and no staged row is unreturned. -/
def State.spillBaseWrite (s : State) (off v : Nat) : State := if s.stageIdle then s.setReg .me 0 off v else s.err .me 0 4 0 0

/-- R359: BUF_BASE, BUF_STRIDE, HINT_BASE and HINT_CTRL change only while ingest is IDLE. -/
def State.ingestRegWrite (s : State) (off v : Nat) : State :=
  if s.ingestIdle then s.setReg .ingest 0 off v else s.err .ingest 0 4 0 0

/-- R5: the bits of a stored register that software can write take the value written; the others stay. -/
def maskedWrite (old rw v : Nat) : Nat := (old ^^^ (old &&& rw)) ||| (v &&& rw)

/-- A register that stores what software writes. -/
def State.storeReg (s : State) (b : Blk) (i off v : Nat) : State :=
  match b.regAt off with
  | some d => if d.rw == 0 then s else s.setReg b i off (maskedWrite (s.reg b i off) d.rw v)
  | none => s

/-- The registers of SEC and HIF beyond their tables. -/
def State.rangeWrite (s : State) (b : Blk) (off v : Nat) : Option State :=
  match b with
  | .hif => if 0x400 ≤ off && off < 0x600 then some (s.msixWrite ((off - 0x400) / 4) v) else none
  | .sec => if 0x800 ≤ off then some (s.windowPut ((off - 0x800) / 4) v) else none
  | _ => none

/-- What a write does to a register with a behaviour of its own; `rw` are the bits that software can write. -/
def State.ownWrite (s : State) (b : Blk) (i off rw v : Nat) : Option State :=
  match b, off with
  | .sched, 0x050 => some (s.jobCfgWrite s.jobSel v)
  | .sched, 0x054 => some (s.jobAptWrite s.jobSel v)
  | .sched, 0x06C => some (if v.testBit 31 then s.setReg .sched 0 0x06C 0 else s)
  | .sched, 0x078 => some (s.jobLandWrite s.jobSel v)
  | .ne, 0x054 => some (s.saveBaseWrite i v)
  | .ne, 0x048 => some (s.ctxSaveWrite i v)
  | .ne, 0x078 => some (s.mseClrWrite i v)
  | .me, 0x04C => some (s.stageCtrlWrite v)
  | .me, 0x054 => some (s.spillBaseWrite 0x054 (v &&& rw))
  | .me, 0x058 => some (s.spillBaseWrite 0x058 (v &&& rw))
  | .raster, 0x048 => some (s.binCtrlWrite v)
  | .raster, 0x058 => some ((s.growPageAdd v).track)
  | .disp, 0x0B8 => some (if v.testBit 0 then s.cfgCommit else s)
  | .dptx, 0x044 => some (s.dptxLinkWrite i v)
  | .dptx, 0x050 => some (s.cscWrite i v)
  | .dptx, 0x058 => some (s.hdcpWrite i v)
  | .dptx, 0x05C => some (s.auxCtrlWrite i v)
  | .tmem, 0x044 => some (s.windowWrite i 0 v)
  | .tmem, 0x048 => some (s.windowWrite i 1 v)
  | .tmem, 0x04C => some (s.windowWrite i 2 v)
  | .hsram, 0x040 => some (s.partCtrlWrite v)
  | .flags, 0x044 => some (s.flagGenWrite v)
  | .welt, 0x044 => some (s.weltLinkWrite i v)
  | .sec, 0x05C => some (s.stateCtrlWrite v)
  | .sec, 0x064 => some (s.updCmdWrite v false)
  | .sec, 0x100 => some (s.auditCtrlWrite v)
  | .sec, 0x104 => some (s.cairnRegWrite off rw v)
  | .sec, 0x108 => some (s.cairnRegWrite off rw v)
  | .sec, 0x10C => some (s.cairnRegWrite off rw v)
  | .sec, 0x11C => some (s.cairnRegWrite off rw v)
  | .sec, 0x120 => some (s.cairnRegWrite off rw v)
  | .hif, 0x044 => some (s.hifLinkWrite v)
  | .cfe, 0x044 => some (s.aptCtrlWrite s.aptSel v)
  | .cfe, 0x048 => some (s.aptConsumedWrite s.aptSel v)
  | .cfe, 0x04C => some (s.credWrite off v)
  | .cfe, 0x050 => some (s.credWrite off v)
  | .cfe, 0x054 => some (s.ringBaseWrite off v)
  | .cfe, 0x058 => some (s.ringBaseWrite off v)
  | .cfe, 0x05C => some (s.ringCtrlWrite s.aptSel v)
  | .cfe, 0x060 => some (s.ringProdWrite s.aptSel v)
  | .cfe, 0x064 => some (s.ringConsWrite s.aptSel v)
  | .dma, 0x044 => some (s.channelCtrl (s.reg .dma 0 0x040 % 8) v)
  | .ingest, 0x048 => some (s.bufCtrlWrite v)
  | .ingest, 0x04C => some (s.ingestRegWrite off (v &&& rw))
  | .ingest, 0x050 => some (s.ingestRegWrite off (v &&& rw))
  | .ingest, 0x054 => some (s.ingestRegWrite off (v &&& rw))
  | .ingest, 0x058 => some (s.ingestRegWrite off (v &&& rw))
  | .ingest, 0x05C => some (s.ingestRegWrite off (v &&& rw))
  | .ingest, 0x060 => some (s.ingestRegWrite off (v &&& rw))
  | .ingest, 0x064 => some (s.hintProdWrite v)
  | .hubSys, 0x058 => some (s.devResetWrite v)
  | .cdSys, 0x048 => some (s.tempMaxWrite .cdSys i v)
  | .mdSys, 0x048 => some (s.tempMaxWrite .mdSys 0 v)
  | .pwr, 0x048 => some (s.shareOrderWrite v)
  | .pwr, 0x060 => some { s with pwr := { s.pwr with vr := s.pwr.vr.set (s.reg .pwr 0 0x05C % 16) (BitVec.ofNat 32 (v &&& rw)) } }
  | .pwr, 0x074 => some (s.disagreeWrite v)
  | .basecamp, 0x040 => some (s.bcStatusWrite v)
  | .basecamp, 0x044 => some (s.sleepCtrlWrite v)
  | .fault, 0x048 => some (s.retireWrite v)
  | .perf, 0x044 => some (s.cntCfgWrite i v)
  | .perf, 0x050 => some (s.snapCtrlWrite i v)
  | .perf, 0x078 => some (s.cntClrWrite i v)
  | .perf, 0x080 => some (s.traceCtrlWrite v)
  | .perf, 0x084 => some (s.traceBaseWrite off rw v)
  | .perf, 0x088 => some (s.traceBaseWrite off rw v)
  | .perf, 0x0A8 => some (s.dbgCtrlWrite v)
  | _, _ => if off == b.countClr.1 then some (if v.testBit 0 then s.countClear b i else s) else none

/-- A 32-bit write of the register at an offset of a page. -/
def State.writeReg (s : State) (b : Blk) (i off v : Nat) : State :=
  if off < 0x040 then s.headerWrite b i off v
  else if b.lacks i off then s
  else
    let rw := (b.regAt off).elim 0 (·.rw)
    -- R366: the update window and the MSI-X table are RW
    let soft := rw != 0 || (b == .sec && 0x800 ≤ off) || (b == .hif && 0x400 ≤ off && off < 0x600)
    let t := if soft then s.touch b i else s
    match t.rangeWrite b off v with
    | some u => u
    | none => (t.ownWrite b i off rw v).getD (t.storeReg b i off v)

/-- R2, R360, R379: a 32-bit write at a BAR0 offset that is a multiple of 4. -/
def State.writeWord (s : State) (off v : Nat) : State :=
  match pageAt off with
  | none => s
  | some (b, i) => if s.answers b i then s.writeReg b i (off % 0x1000) v else s

/-- R361: a write of `size` bytes: one of 8 bytes is two of 4, the lower address first; any other size or an address that is no multiple of
4 is ignored. -/
def State.writeBar0 (s : State) (off size v : Nat) : State :=
  if off % 4 != 0 then s
  else if size == 4 then s.writeWord off (v % 2 ^ 32)
  else if size == 8 then (s.writeWord off (v % 2 ^ 32)).writeWord (off + 4) (v / 2 ^ 32 % 2 ^ 32)
  else s

end Sys2Proof.Machine
end

