-- ==== Sys2Proof/Machine/Registers.lean ====
section
/-!
DEFINITION. The register commands of the host (R50, R361 to R368, R374): a write of a register, a read, and the writes of the common
header and of the counters that software clears.
-/

-- One declaration at a time: the threads of a parallel elaboration take memory together.
set_option Elab.async false

namespace Sys2Proof.Machine

/-- REGISTER_WRITE (R361): a BAR0 write of `size` bytes. -/
def execRegisterWrite (off size value : Nat) (s : State) : Out :=
  .next (if s.link.pcieUp then s.writeBar0 off size value else s)

/-- LO_READ_LATCH (R362): a BAR0 read of `size` bytes; of a _LO register it latches its _HI word, and of a latched _HI register it
releases the latch. -/
def execLoReadLatch (off size : Nat) (s : State) : Out := .next (if s.link.pcieUp then s.readBar0 off size else s)

/-- IRQ_STAT_CLEAR (R364): a write of `BLK_IRQ_STAT` of a page. -/
def execIrqStatClear (b : Blk) (i mask : Nat) (s : State) : Out := .next (s.hostWo b i fun t => t.statClear b i mask)

/-- ERR_VALID_CLEAR (R365): 1 is written to `BLK_ERR_CODE.VALID` of a page. -/
def execErrValidClear (b : Blk) (i : Nat) (s : State) : Out := .next (s.hostWo b i fun t => t.errClear b i)

/-- BLOCK_ENABLE_SET (R367): `BLK_CTRL` is written with ENABLE set and its other bits as they stand. -/
def execBlockEnableSet (b : Blk) (i : Nat) (s : State) : Out :=
  .next (s.hostWo b i fun t => t.ctrlWrite b i (t.blkCtrl b i / 2 * 2 + 1))

/-- BLOCK_ENABLE_CLEAR (R367): `BLK_CTRL` is written with ENABLE clear and its other bits as they stand. -/
def execBlockEnableClear (b : Blk) (i : Nat) (s : State) : Out :=
  .next (s.hostWo b i fun t => t.ctrlWrite b i (t.blkCtrl b i / 2 * 2))

/-- BLOCK_DRAIN_SET (R367): DRAIN is set. -/
def execBlockDrainSet (b : Blk) (i : Nat) (s : State) : Out :=
  .next (s.hostWo b i fun t => t.ctrlWrite b i (t.blkCtrl b i ||| 2))

/-- BLOCK_DRAIN_END (R367): every command of a disabled block is accounted for; a block drained by DRAIN is IDLE as soon as it
holds none. -/
def execBlockDrainEnd (b : Blk) (i : Nat) (s : State) : Out := .next (if s.answers b i then (s.drainEnd b i).track else s)

/-- SOFT_RESET (R368): `BLK_CTRL` is written with SOFT_RESET set and its other bits as they stand. -/
def execSoftReset (b : Blk) (i : Nat) (s : State) : Out :=
  .next (s.hostWo b i fun t => t.ctrlWrite b i (t.blkCtrl b i ||| 4))

/-- COUNT_CLR (R50): CLR of the COUNT_CLR register of a block is written. -/
def execCountClr (b : Blk) (i : Nat) (s : State) : Out := .next (s.hostWo b i fun t => t.countClear b i)

/-- PREEMPT_MAX_CLR (R50). -/
def execPreemptMaxClr (s : State) : Out := .next (s.hostWo .sched 0 fun t => t.setReg .sched 0 0x06C 0)

/-- DIE_TEMP_MAX_CLR (R374): of compute die `die`, or of the matching die for 8. -/
def execDieTempMaxClr (die : Nat) (s : State) : Out :=
  let p := diePageOf die
  .next (if die ≤ 8 then s.hostWo p.1 p.2 fun t => t.tempMaxWrite p.1 p.2 (2 ^ 31) else s)

/-- BLOCK_DRAIN_CLEAR (R367): DRAIN is cleared; commands that it held are admitted again. -/
def execBlockDrainClear (b : Blk) (i : Nat) (s : State) : Out :=
  .next (s.hostWo b i fun t => t.ctrlWrite b i (t.blkCtrl b i - (t.blkCtrl b i &&& 2)))

end Sys2Proof.Machine
end

