-- ==== Sys2Proof/Machine/Jtag.lean ====
section
/-!
DEFINITION. The JTAG port and debug access (R460 to R463).
-/

-- One declaration at a time: the threads of a parallel elaboration take memory together.
set_option Elab.async false

namespace Sys2Proof.Machine

/-- The instruction codes of R460. -/
def irExtest : Nat := 0x00
def irIdcode : Nat := 0x01
def irSample : Nat := 0x02
def irChallenge : Nat := 0x10
def irToken : Nat := 0x11
def irClose : Nat := 0x12
def irMem : Nat := 0x13
def irCore : Nat := 0x14
def irBypass : Nat := 0x3F

/-- An instruction is selected, and bytes are shifted out. -/
def State.shiftOut (s : State) (ir : Nat) (bs : List Byte) : State := { s with dbg := { s.dbg with ir := ir, tdo := bs } }

/-- R460: an instruction that is not allowed selects BYPASS. -/
def State.bypass (s : State) : State := s.shiftOut irBypass []

/-- R468, R470: the port answers: VDDIO is up, which it is not in BASECAMP. -/
def State.jtagUp (s : State) : Bool := s.pins.supply && s.devState != 1

/-- An instruction of the port, which must answer. -/
def State.jtag (s : State) (f : State → State) : State := if s.jtagUp then f s else s

/-- JTAG_BYPASS (R460). -/
def execJtagBypass (s : State) : Out := .next (s.jtag State.bypass)

/-- JTAG_IDCODE (R460). -/
def execJtagIdcode (s : State) : Out := .next (s.jtag fun t => t.shiftOut irIdcode (leBytes 4 0x1B80854F))

/-- What the boundary scan register samples: the spec gives it no layout, so free values. -/
def State.sampleScan (s : State) (ir : Nat) (data : List Byte) : State :=
  let f := s.free
  ({ f.2 with pins := { f.2.pins with scan := data } }).shiftOut ir (leBytes data.length f.1)

/-- JTAG_SAMPLE_PRELOAD (R460): the pins are sampled, and the boundary scan register is loaded with `data`. -/
def execJtagSamplePreload (data : List Byte) (s : State) : Out := .next (s.jtag fun t => t.sampleScan irSample data)

/-- JTAG_EXTEST (R460): the boundary scan register drives the outputs, while RESET_N is held low. -/
def execJtagExtest (data : List Byte) (s : State) : Out :=
  .next (s.jtag fun t => if t.pins.resetN then t.bypass else t.sampleScan irExtest data)

/-- DBG_CHALLENGE (R460, R462): a new challenge is read. -/
def execDbgChallenge (s : State) : Out :=
  .next (s.jtag fun t =>
    let f := t.free
    let c := leBytes 32 f.1
    { f.2 with dbg := { f.2.dbg with challenge := some c } }.shiftOut irChallenge c)

/-- R462: the checks of a token. -/
def State.tokenGood (s : State) (t : List Byte) : Bool :=
  let key := (t.drop 64).take 388
  t.length == 1024 && s.dbg.challenge == some (t.take 32) && leNat ((t.drop 32).take 8) == s.part.serial &&
    keyVerify (key.take 384) (key.drop 384) (t.take 640) (t.drop 640) &&
    sha256 key == s.boot.custKey.getD s.boot.fwKeyHash

/-- R463: the HDCP transmitters drop authentication. -/
def State.dropHdcp (s : State) : State :=
  (List.range (Config.outputs s.variant)).foldl (fun (t : State) i =>
    let u := t.putOut i { t.out i with hdcp := 0, encrypting := false }
    if (u.out i).streaming then u.guardOut i else u) s

/-- R461, R463: debug access opens, and the HDCP receiver and transmitters drop authentication. -/
def State.openDebug (s : State) (scope : Nat) : State :=
  let t := { s with ingest := { s.ingest with prot := false, ctype := false }, dbg := { s.dbg with isOpen := true, cust := s.boot.custKey.isSome, scope := scope } }
  ((t.bump .perf 0x40 0x0AC 1).irq .perf 0x40 0b1000).dropHdcp

/-- R461, R462: a token is shifted in while debug access is LOCKED; the challenge serves it alone. -/
def State.takeToken (s : State) (token : List Byte) : State :=
  let t := { s with dbg := { s.dbg with challenge := none } }.shiftOut irToken []
  if s.dbg.lockout then t
  else if s.tokenGood token then t.openDebug (bits (leNat ((token.drop 40).take 4)) 1 0)
  else
    let n := s.dbg.fails + 1
    { t with dbg := { t.dbg with fails := n, lockout := 8 ≤ n } }

/-- DBG_TOKEN (R461): allowed while debug access is LOCKED. In reset it stays LOCKED, and no token is taken (R475). -/
def execDbgToken (token : List Byte) (s : State) : Out :=
  .next (s.jtag fun t => if t.dbg.isOpen || t.devState == 0 then t.bypass else t.takeToken token)

/-- DBG_CLOSE (R461): allowed while debug access is OPEN. -/
def execDbgClose (s : State) : Out :=
  .next (s.jtag fun t => if t.dbg.isOpen then (t.shiftOut irClose []).dbgClose else t.bypass)

/-- R460: a 32-bit read at a device address that lies in a target; where the spec gives no value, a free one. An address of no memory, as
any that would stand for secure NOR or key material, reads zero (R463). -/
def State.readAt (s : State) (a : Nat) (place : Option Target) : State :=
  match place with
  | some .dram =>
    if s.dramReady && !s.badIn a 4 then (s.correctReads .sec 0 [(a, 4)]).shiftOut irMem (s.devGet a 4)
    else
      let f := s.free
      f.2.shiftOut irMem (leBytes 4 f.1)
  | some _ =>
    if s.badIn a 4 then
      let f := s.free
      f.2.shiftOut irMem (leBytes 4 f.1)
    else (s.correctReads .sec 0 [(a, 4)]).shiftOut irMem (s.devGet a 4)
  | none => s.shiftOut irMem (leBytes 4 0)

/-- R460: a 32-bit read of a device address. -/
def State.debugRead (s : State) (a : Nat) : State := s.readAt a (s.target a 4)

/-- R460: a 32-bit write at a device address that lies in a target. -/
def State.writeAt (s : State) (a v : Nat) (place : Option Target) : State :=
  let t := s.shiftOut irMem []
  match place with
  | some .dram => if s.dramReady then t.devPut a (leBytes 4 v) else t
  | some _ => t.devPut a (leBytes 4 v)
  | none => t

/-- R460: a 32-bit write of a device address. -/
def State.debugWrite (s : State) (a v : Nat) : State := s.writeAt a v (s.target a 4)

/-- DBG_MEM (R460): a read, or with `value` a write, of a BAR0 offset, or with `device` of a device address. Secure NOR and key
material have no BAR0 offset and no device address (R463). -/
def execDbgMem (device : Bool) (addr : Nat) (value : Option Nat) (s : State) : Out :=
  if !s.jtagUp then .next s
  else if !(s.dbg.isOpen && s.dbg.scope.testBit 0) then .next s.bypass
  else match device, value with
    | true, some v => .next (s.debugWrite addr v)
    | true, none => .next (s.debugRead addr)
    | false, some v => .next ((s.shiftOut irMem []).writeBar0 addr 4 v)
    | false, none =>
      let r := s.readWord addr
      .next (r.2.shiftOut irMem (leBytes 4 r.1))

/-- Where a register of a management core is kept. -/
def coreKey (core reg : Nat) : Nat := core * 4096 + reg % 4096

/-- R463, R441: an operation on a management core; while one is halted the firmware functions pause. The spec gives neither its registers nor its program: a register that DBG_CORE has not
written since the core was halted reads as a free value. -/
def State.coreOp (s : State) (core : Nat) (op : CoreOp) : State :=
  let t := s.shiftOut irCore []
  let forget := fun (m : SMap Word) => m.dropKeys fun k => k / 4096 == core
  match op with
  | .halt => { t with dbg := { t.dbg with halted := if t.dbg.halted.contains core then t.dbg.halted else core :: t.dbg.halted } }.nackAux
  | .resume => { t with dbg := { t.dbg with halted := t.dbg.halted.filter (· != core), coreRegs := forget t.dbg.coreRegs } }
  | .step => { t with dbg := { t.dbg with coreRegs := forget t.dbg.coreRegs } }
  | .read r =>
    (match t.dbg.coreRegs.find? (coreKey core r) with
     | some w => t.shiftOut irCore (leBytes 4 w.toNat)
     | none =>
       let f := t.free
       let u := f.2.shiftOut irCore (leBytes 4 f.1)
       if t.dbg.halted.contains core then
         { u with dbg := { u.dbg with coreRegs := u.dbg.coreRegs.set (coreKey core r) (BitVec.ofNat 32 f.1) } }
       else u)
  | .write r v =>
    if t.dbg.halted.contains core then
      { t with dbg := { t.dbg with coreRegs := t.dbg.coreRegs.set (coreKey core r) (BitVec.ofNat 32 v) } }
    else t

/-- DBG_CORE (R460, R463): the hub has two management cores (R10); an operation on another acts on nothing. -/
def execDbgCore (core : Nat) (op : CoreOp) (s : State) : Out :=
  .next (s.jtag fun t =>
    if !(t.dbg.isOpen && t.dbg.scope.testBit 1) then t.bypass
    else if core < 2 then t.coreOp core op
    else t.shiftOut irCore [])

end Sys2Proof.Machine
end

