-- ==== Sys2Proof/Machine/Pins.lean ====
section
/-!
DEFINITION. The board window that the board controller reaches over SMBus, and the GPIO balls (R480 to R485).
-/

-- One declaration at a time: the threads of a parallel elaboration take memory together.
set_option Elab.async false

namespace Sys2Proof.Machine

/-- R485: the bits of a board window register that can be written. -/
def bwMask : Nat → Nat
  | 0x03 => 0x3F
  | 0x04 => 0xFF
  | 0x05 => 0x1F1F1F1F
  | 0x06 => 0x1F1F
  | 0x07 => 0xFFFFFFFF
  | 0x08 => 0xFFFFFFFF
  | 0x09 => 0xFFFF
  | _ => 0

/-- BW_BLOCK_WRITE (R481): an SMBus block write of a register; one with a wrong PEC is NACKed and discarded. A new spread setting
applies at the next lock (R480), new slew settings and GPIO functions at once. -/
def execBwBlockWrite (code value : Nat) (pecOk : Bool) (s : State) : Out :=
  .next (if s.pins.bc && pecOk && bwMask code != 0 then
      { s with bw := s.bw.set code (BitVec.ofNat 32 (value &&& bwMask code)) }
    else s)

/-- R485: the function of GPIO `k`. -/
def State.gpioFunc (s : State) (k : Nat) : Nat := bits (s.bwReg (0x07 + k / 8)) (4 * (k % 8) + 3) (4 * (k % 8))

/-- R468, R485: the level of GPIO `k`: what its function drives, or what the board drives on an input, as every GPIO is in reset. -/
def State.gpioLevel (s : State) (k : Nat) : Bool :=
  match if s.devState == 0 then 0 else s.gpioFunc k with
  | 1 => (s.bwReg 0x09).testBit k
  | 2 => (match s.disp.frameOut with | some t => timeReached s.now t && !timeReached s.now (t + usTicks) | none => false)
  | 3 => s.devState == 3 || s.devState == 4
  | 4 => s.devState == 5
  | _ => s.pins.gpioIn.testBit k

/-- R485: GPIO_IN; VDDIO is off in BASECAMP and without supply. -/
def State.gpioLevels (s : State) : Nat :=
  if s.devState == 1 || !s.pins.supply then 0 else ((List.range 16).map fun k => if s.gpioLevel k then 2 ^ k else 0).sum

/-- The output balls of R468 whose state in reset it gives; `dram` stands for the DRAM balls other than RESET_N. -/
inductive Ball where
  | dramReset (port : Nat)
  | dram (port : Nat)
  | dp (out : Nat)
  | usb4
  | coreEn
  | dramEn
  | retEn
  | vrEn (die : Nat)
  | thermAlert
  | thermTrip
  | pmbus
  | avsClk
  | avsData
  | smbus
  | smbAlert
  | qspiCs
  | qspiClk
  | qspiIo
  | tdo
  | gpio (k : Nat)
  deriving DecidableEq, Repr

/-- What an output ball does. -/
inductive Drive where
  | low | high | released | input | highZ | idle
  deriving DecidableEq, Repr

/-- The level of a push-pull output, and that of an open-drain output that is asserted or not. -/
def Drive.level (b : Bool) : Drive := if b then .high else .low
def Drive.openDrain (asserted : Bool) : Drive := if asserted then .low else .released

/-- R468: what an output ball does while the device is held in reset. -/
def State.resetDrive (s : State) : Ball → Drive
  | .dramReset _ | .dram _ | .vrEn _ | .avsClk | .qspiClk => .low
  | .coreEn | .dramEn | .retEn | .qspiCs => .high
  | .dp _ | .usb4 => .idle
  | .thermTrip => .openDrain s.pins.trip
  | .thermAlert | .pmbus | .avsData | .smbus | .smbAlert => .released
  | .qspiIo | .gpio _ => .input
  | .tdo => .highZ

/-- R468, R471, R481, R485: what an output ball does; none where it carries transfers outside reset. -/
def State.drive (s : State) (b : Ball) : Option Drive :=
  if s.devState == 0 then some (s.resetDrive b)
  else match b with
    | .coreEn => some (.level s.pins.coreEn)
    | .dramEn => some (.level s.pins.dramEn)
    | .retEn => some (.level s.pins.retEn)
    | .vrEn k => some (.level (s.pins.vrEn.testBit k))
    | .thermAlert => some (.openDrain s.pins.alert)
    | .thermTrip => some (.openDrain s.pins.trip)
    | .smbAlert => some (.openDrain s.pins.smbAlert)
    | .gpio k => some (if 1 ≤ s.gpioFunc k && s.gpioFunc k ≤ 4 then .level (s.gpioLevel k) else .input)
    | _ => none

/-- R485: the hottest die in 1/16 °C, the hub among them, in READY, LIVE and HOLD. -/
def State.bwTemp (s : State) : Nat :=
  if s.powered then toCode 16 ((s.packageDies.map fun k => s.pwr.temps.get k 0).foldl max (s.pwr.temps.get 9 0)) else 0

/-- BW_STATUS (R485). -/
def State.bwStatus (s : State) : Nat :=
  s.devState % 16 * 2 ^ 28 + b2n s.pins.xtal32 * 2 ^ 27 + b2n s.pins.pwrGood * 2 ^ 26 + b2n s.pins.coolOk * 2 ^ 25 +
    b2n s.pins.alert * 2 ^ 24 + b2n ((s.reg .basecamp 0 0x040).testBit 31) * 2 ^ 23 + s.bwTemp

/-- A read of a board window register (R485). -/
def State.bwRead (s : State) (code : Nat) : Nat :=
  match code with
  | 0x01 => s.bwStatus
  | 0x02 => if s.powered then min 0xFFFF (shown (s.pwr.avg / 1000)) else 0
  | 0x0A => s.gpioLevels
  | _ => if code < 0x0B then s.bwReg code else 0

/-- BW_STATUS_READ (R481): an SMBus block read of a register, with the levels that the board drives on the GPIO balls; a read of BW_STATUS
releases SMB_ALERT_N. -/
def execBwStatusRead (code gpio : Nat) (s : State) : Out :=
  .next (if s.pins.bc then
      let u := if s.pins.gpioIn == gpio % 2 ^ 16 then s else s.filtered .gpio 0
      let t := { u with pins := { u.pins with gpioIn := gpio % 2 ^ 16 } }
      { t with
        readData := leBytes 4 (t.bwRead code)
        pins := if code == 0x01 then { t.pins with smbAlert := false } else t.pins }
    else s)

end Sys2Proof.Machine
end

