-- ==== Sys2Proof/Machine/Clock.lean ====
section
/-!
DEFINITION. The passing of time between commands (R8, R372): what the device does on an empty queue (assumption 2).
-/

-- One declaration at a time: the threads of a parallel elaboration take memory together.
set_option Elab.async false

namespace Sys2Proof.Machine

/-- A moment without a command. The time base counts one tick of 10 ns, in BASECAMP 100,000,000 / 32,768 = 390,625 / 128 of them with the
fraction carried (R424), and none while the device is in reset or without supply (R475). An update operation in progress ends (R398), and
an entry to BASECAMP that waited for its records goes on (R423). -/
def State.tick (s : State) : State :=
  if s.devState == 0 then s
  else if s.devState == 1 then
    let x := s.timeFrac + 390625
    { s with now := (s.now + x / 128) % 2 ^ 64, timeFrac := x % 128 }
  else ({ s with now := (s.now + 1) % 2 ^ 64 }.updFinish).enterBasecamp

end Sys2Proof.Machine
end

