-- ==== Sys2Proof/Machine/Dispatch.lean ====
section
/-!
DEFINITION. Which meaning each command has: one arm for each constructor of Instr.
-/

namespace Sys2Proof.Machine

def exec (i : Instr) (s : State) : Host.Outcome State Fault Refusal :=
  match i with
  | .apertureSlotWrite apt slot off bytes => Sys2Proof.Machine.execApertureSlotWrite apt slot off bytes s
  | .packetAccept apt => Sys2Proof.Machine.execPacketAccept apt s
  | .aptHeldTimeout apt => Sys2Proof.Machine.execAptHeldTimeout apt s
  | .commandAdmit uid => Sys2Proof.Machine.execCommandAdmit uid s
  | .tileDispatch step tile => Sys2Proof.Machine.execTileDispatch step tile s
  | .contextSwap engine job => Sys2Proof.Machine.execContextSwap engine job s
  | .preempt engine ticks => Sys2Proof.Machine.execPreempt engine ticks s
  | .blockedSwap engine => Sys2Proof.Machine.execBlockedSwap engine s
  | .engineGate engine => Sys2Proof.Machine.execEngineGate engine s
  | .stepOpen uid => Sys2Proof.Machine.execStepOpen uid s
  | .flagWait uid => Sys2Proof.Machine.execFlagWait uid s
  | .flagWaitTimeout uid => Sys2Proof.Machine.execFlagWaitTimeout uid s
  | .flagAdvance uid => Sys2Proof.Machine.execFlagAdvance uid s
  | .nop uid => Sys2Proof.Machine.execNop uid s
  | .neGemm uid => Sys2Proof.Machine.execNeGemm uid s
  | .fetchLanded uid ok => Sys2Proof.Machine.execFetchLanded uid ok s
  | .neAccClear uid => Sys2Proof.Machine.execNeAccClear uid s
  | .neAccDrain uid => Sys2Proof.Machine.execNeAccDrain uid s
  | .neAccStore uid => Sys2Proof.Machine.execNeAccStore uid s
  | .neAccLoad uid => Sys2Proof.Machine.execNeAccLoad uid s
  | .veEwise uid => Sys2Proof.Machine.execVeEwise uid s
  | .veFunc uid => Sys2Proof.Machine.execVeFunc uid s
  | .veReduce uid => Sys2Proof.Machine.execVeReduce uid s
  | .veKsel uid => Sys2Proof.Machine.execVeKsel uid s
  | .veDwconv uid => Sys2Proof.Machine.execVeDwconv uid s
  | .veMerge uid => Sys2Proof.Machine.execVeMerge uid s
  | .veOptim uid => Sys2Proof.Machine.execVeOptim uid s
  | .veXreduce uid => Sys2Proof.Machine.execVeXreduce uid s
  | .xpExpand uid => Sys2Proof.Machine.execXpExpand uid s
  | .xpS2c uid => Sys2Proof.Machine.execXpS2c uid s
  | .xpC2s uid => Sys2Proof.Machine.execXpC2s uid s
  | .xpUpsample uid => Sys2Proof.Machine.execXpUpsample uid s
  | .xpCopy uid => Sys2Proof.Machine.execXpCopy uid s
  | .postDecode uid => Sys2Proof.Machine.execPostDecode uid s
  | .postSuppress uid => Sys2Proof.Machine.execPostSuppress uid s
  | .dmaCopy uid => Sys2Proof.Machine.execDmaCopy uid s
  | .meFlow uid => Sys2Proof.Machine.execMeFlow uid s
  | .meDisparity uid => Sys2Proof.Machine.execMeDisparity uid s
  | .meRowStage => Sys2Proof.Machine.execMeRowStage s
  | .stagingRetentionSpill vslot => Sys2Proof.Machine.execStagingRetentionSpill vslot s
  | .meRingTimeout => Sys2Proof.Machine.execMeRingTimeout s
  | .meRingStall => Sys2Proof.Machine.execMeRingStall s
  | .rsPassOpen uid => Sys2Proof.Machine.execRsPassOpen uid s
  | .rsDraw uid => Sys2Proof.Machine.execRsDraw uid s
  | .growTimeout uid => Sys2Proof.Machine.execGrowTimeout uid s
  | .rasterUnpark uid => Sys2Proof.Machine.execRasterUnpark uid s
  | .rsPassClose uid => Sys2Proof.Machine.execRsPassClose uid s
  | .rsWarp uid => Sys2Proof.Machine.execRsWarp uid s
  | .rsMask uid => Sys2Proof.Machine.execRsMask uid s
  | .rasterBinItem core => Sys2Proof.Machine.execRasterBinItem core s
  | .dispMeta uid => Sys2Proof.Machine.execDispMeta uid s
  | .dispFrameWait uid => Sys2Proof.Machine.execDispFrameWait uid s
  | .dispCommit uid => Sys2Proof.Machine.execDispCommit uid s
  | .tileStoreCopy slot => Sys2Proof.Machine.execTileStoreCopy slot s
  | .hintPhase uid => Sys2Proof.Machine.execHintPhase uid s
  | .auditMeasure uid => Sys2Proof.Machine.execAuditMeasure uid s
  | .auditQuote uid => Sys2Proof.Machine.execAuditQuote uid s
  | .unitWatchdogExpiry uid => Sys2Proof.Machine.execUnitWatchdogExpiry uid s
  | .blockFault blk inst watchdog running => Sys2Proof.Machine.execBlockFault blk inst watchdog running s
  | .completionRecordWrite uid => Sys2Proof.Machine.execCompletionRecordWrite uid s
  | .ringFullTimeout ring => Sys2Proof.Machine.execRingFullTimeout ring s
  | .msixRingTimer ring => Sys2Proof.Machine.execMsixRingTimer ring s
  | .creditWriteback apt => Sys2Proof.Machine.execCreditWriteback apt s
  | .guardFire step row => Sys2Proof.Machine.execGuardFire step row s
  | .rowDeadline step row => Sys2Proof.Machine.execRowDeadline step row s
  | .calendarPublish => Sys2Proof.Machine.execCalendarPublish s
  | .frameBind frame => Sys2Proof.Machine.execFrameBind frame s
  | .frameScanStart => Sys2Proof.Machine.execFrameScanStart s
  | .lineScan output y buffered level => Sys2Proof.Machine.execLineScan output y buffered level s
  | .scanOutEnd => Sys2Proof.Machine.execScanOutEnd s
  | .cairnRecordWrite => Sys2Proof.Machine.execCairnRecordWrite s
  | .frameSyncEdge => Sys2Proof.Machine.execFrameSyncEdge s
  | .genlockHoldover => Sys2Proof.Machine.execGenlockHoldover s
  | .cfgTakeEffect => Sys2Proof.Machine.execCfgTakeEffect s
  | .dispTimingStop => Sys2Proof.Machine.execDispTimingStop s
  | .hpdChange output present => Sys2Proof.Machine.execHpdChange output present s
  | .dpLinkTrainEnd output ok => Sys2Proof.Machine.execDpLinkTrainEnd output ok s
  | .auxReply output reply => Sys2Proof.Machine.execAuxReply output reply s
  | .turn job => Sys2Proof.Machine.execTurn job s
  | .dpFrameStart bt2020 full sdps => Sys2Proof.Machine.execDpFrameStart bt2020 full sdps s
  | .ingestFrameComplete pixels => Sys2Proof.Machine.execIngestFrameComplete pixels s
  | .flagEccPoison flag => Sys2Proof.Machine.execFlagEccPoison flag s
  | .weltCrcError mod ok held => Sys2Proof.Machine.execWeltCrcError mod ok held s
  | .weltRetrainEnd mod up repaired exhausted => Sys2Proof.Machine.execWeltRetrainEnd mod up repaired exhausted s
  | .dieLoss die unit => Sys2Proof.Machine.execDieLoss die unit s
  | .heartbeatTimeout die since => Sys2Proof.Machine.execHeartbeatTimeout die since s
  | .hubFwWatchdog core => Sys2Proof.Machine.execHubFwWatchdog core s
  | .fatalFault blk port => Sys2Proof.Machine.execFatalFault blk port s
  | .powerEstimate hub md counts => Sys2Proof.Machine.execPowerEstimate hub md counts s
  | .vrVoltageConfirmed die => Sys2Proof.Machine.execVrVoltageConfirmed die s
  | .capUpdate samples => Sys2Proof.Machine.execCapUpdate samples s
  | .thermalTick temps => Sys2Proof.Machine.execThermalTick temps s
  | .criticalTrip => Sys2Proof.Machine.execCriticalTrip s
  | .coolFlowOkFall => Sys2Proof.Machine.execCoolFlowOkFall s
  | .coolantStop => Sys2Proof.Machine.execCoolantStop s
  | .coolFlowOkRise => Sys2Proof.Machine.execCoolFlowOkRise s
  | .dieRestart thermal => Sys2Proof.Machine.execDieRestart thermal s
  | .scrubRead site kind => Sys2Proof.Machine.execScrubRead site kind s
  | .dramRefresh channel urgent => Sys2Proof.Machine.execDramRefresh channel urgent s
  | .dramTcrRead port rate => Sys2Proof.Machine.execDramTcrRead port rate s
  | .dramWckOscRead port => Sys2Proof.Machine.execDramWckOscRead port s
  | .usb4LinkDown whole => Sys2Proof.Machine.execUsb4LinkDown whole s
  | .usb4LinkUp training mode dp => Sys2Proof.Machine.execUsb4LinkUp training mode dp s
  | .bar4Access off access => Sys2Proof.Machine.execBar4Access off access s
  | .registerWrite off size value => Sys2Proof.Machine.execRegisterWrite off size value s
  | .loReadLatch off size => Sys2Proof.Machine.execLoReadLatch off size s
  | .irqStatClear blk inst mask => Sys2Proof.Machine.execIrqStatClear blk inst mask s
  | .errValidClear blk inst => Sys2Proof.Machine.execErrValidClear blk inst s
  | .blockEnableSet blk inst => Sys2Proof.Machine.execBlockEnableSet blk inst s
  | .blockEnableClear blk inst => Sys2Proof.Machine.execBlockEnableClear blk inst s
  | .blockDrainSet blk inst => Sys2Proof.Machine.execBlockDrainSet blk inst s
  | .blockDrainEnd blk inst => Sys2Proof.Machine.execBlockDrainEnd blk inst s
  | .softReset blk inst => Sys2Proof.Machine.execSoftReset blk inst s
  | .countClr blk inst => Sys2Proof.Machine.execCountClr blk inst s
  | .preemptMaxClr => Sys2Proof.Machine.execPreemptMaxClr s
  | .dieTempMaxClr die => Sys2Proof.Machine.execDieTempMaxClr die s
  | .jobValidSet value => Sys2Proof.Machine.execJobValidSet value s
  | .jobValidClear value => Sys2Proof.Machine.execJobValidClear value s
  | .ctxSave engine slot => Sys2Proof.Machine.execCtxSave engine slot s
  | .mseClearAll engine => Sys2Proof.Machine.execMseClearAll engine s
  | .mseClearSel engine => Sys2Proof.Machine.execMseClearSel engine s
  | .flagGenWrite value => Sys2Proof.Machine.execFlagGenWrite value s
  | .tmemWindowWrite die which value => Sys2Proof.Machine.execTmemWindowWrite die which value s
  | .partCtrlWrite value => Sys2Proof.Machine.execPartCtrlWrite value s
  | .binCtrlWrite value => Sys2Proof.Machine.execBinCtrlWrite value s
  | .growPageAdd value => Sys2Proof.Machine.execGrowPageAdd value s
  | .stageCtrlWrite value => Sys2Proof.Machine.execStageCtrlWrite value s
  | .cfgCommit => Sys2Proof.Machine.execCfgCommit s
  | .dptxRetrain output => Sys2Proof.Machine.execDptxRetrain output s
  | .hdcpReauth output => Sys2Proof.Machine.execHdcpReauth output s
  | .auxStart output value => Sys2Proof.Machine.execAuxStart output value s
  | .weltRetrain mod => Sys2Proof.Machine.execWeltRetrain mod s
  | .aptCtrlWrite value => Sys2Proof.Machine.execAptCtrlWrite value s
  | .aptConsumedWrite value => Sys2Proof.Machine.execAptConsumedWrite value s
  | .ringConsWrite value => Sys2Proof.Machine.execRingConsWrite value s
  | .linkResume => Sys2Proof.Machine.execLinkResume s
  | .dmaChannelDisable channel => Sys2Proof.Machine.execDmaChannelDisable channel s
  | .hintProdWrite value => Sys2Proof.Machine.execHintProdWrite value s
  | .bufCtrlWrite value => Sys2Proof.Machine.execBufCtrlWrite value s
  | .devReset value => Sys2Proof.Machine.execDevReset value s
  | .deviceResetAct => Sys2Proof.Machine.execDeviceResetAct s
  | .stateCtrlHoldSet hold => Sys2Proof.Machine.execStateCtrlHoldSet hold s
  | .holdResume => Sys2Proof.Machine.execHoldResume s
  | .updReadFlash len fail => Sys2Proof.Machine.execUpdReadFlash len fail s
  | .updErase len fail => Sys2Proof.Machine.execUpdErase len fail s
  | .updProgram len fail => Sys2Proof.Machine.execUpdProgram len fail s
  | .updReadId len => Sys2Proof.Machine.execUpdReadId len s
  | .updRaiseSvn => Sys2Proof.Machine.execUpdRaiseSvn s
  | .updSetCustKey => Sys2Proof.Machine.execUpdSetCustKey s
  | .cairnEnable value => Sys2Proof.Machine.execCairnEnable value s
  | .disagreeClear => Sys2Proof.Machine.execDisagreeClear s
  | .shareOrderWrite value => Sys2Proof.Machine.execShareOrderWrite value s
  | .sleep value => Sys2Proof.Machine.execSleep value s
  | .retire value => Sys2Proof.Machine.execRetire value s
  | .cntCfgWrite die value => Sys2Proof.Machine.execCntCfgWrite die value s
  | .cntClrAll die => Sys2Proof.Machine.execCntClrAll die s
  | .cntClrSel die => Sys2Proof.Machine.execCntClrSel die s
  | .snapNow die => Sys2Proof.Machine.execSnapNow die s
  | .snapArm die => Sys2Proof.Machine.execSnapArm die s
  | .snapArmAll => Sys2Proof.Machine.execSnapArmAll s
  | .snapFire die => Sys2Proof.Machine.execSnapFire die s
  | .traceEnable value => Sys2Proof.Machine.execTraceEnable value s
  | .dbgCtrlClose => Sys2Proof.Machine.execDbgCtrlClose s
  | .dbgCtrlLockout => Sys2Proof.Machine.execDbgCtrlLockout s
  | .jtagBypass => Sys2Proof.Machine.execJtagBypass s
  | .jtagIdcode => Sys2Proof.Machine.execJtagIdcode s
  | .jtagSamplePreload data => Sys2Proof.Machine.execJtagSamplePreload data s
  | .jtagExtest data => Sys2Proof.Machine.execJtagExtest data s
  | .dbgChallenge => Sys2Proof.Machine.execDbgChallenge s
  | .dbgToken token => Sys2Proof.Machine.execDbgToken token s
  | .dbgClose => Sys2Proof.Machine.execDbgClose s
  | .dbgMem device addr value => Sys2Proof.Machine.execDbgMem device addr value s
  | .dbgCore core op => Sys2Proof.Machine.execDbgCore core op s
  | .bwBlockWrite code value pecOk => Sys2Proof.Machine.execBwBlockWrite code value pecOk s
  | .bwStatusRead code gpio => Sys2Proof.Machine.execBwStatusRead code gpio s
  | .resetAssert byPwrGood => Sys2Proof.Machine.execResetAssert byPwrGood s
  | .coldBoot ticks dramTemp badPorts ucFail badDies => Sys2Proof.Machine.execColdBoot ticks dramTemp badPorts ucFail badDies s
  | .wake ticks mismatch dramTemp badPorts ucFail badDies => Sys2Proof.Machine.execWake ticks mismatch dramTemp badPorts ucFail badDies s
  | .wakeNFall => Sys2Proof.Machine.execWakeNFall s
  | .usb4WakeSignal => Sys2Proof.Machine.execUsb4WakeSignal s
  | .alarm => Sys2Proof.Machine.execAlarm s
  | .supplyLoss baseCamp => Sys2Proof.Machine.execSupplyLoss baseCamp s
  | .ringCtrlWrite value => Sys2Proof.Machine.execRingCtrlWrite value s
  | .msixVectorUnmask vector => Sys2Proof.Machine.execMsixVectorUnmask vector s
  | .streamLock enc bpc w h rate progressive prot ctype => Sys2Proof.Machine.execStreamLock enc bpc w h rate progressive prot ctype s
  | .streamLost tunnel => Sys2Proof.Machine.execStreamLost tunnel s
  | .hdcpAuthEnd output result ids => Sys2Proof.Machine.execHdcpAuthEnd output result ids s
  | .dpLinkFail output => Sys2Proof.Machine.execDpLinkFail output s
  | .xtal32Start => Sys2Proof.Machine.execXtal32Start s
  | .pwrGoodRise => Sys2Proof.Machine.execPwrGoodRise s
  | .blockDrainClear blk inst => Sys2Proof.Machine.execBlockDrainClear blk inst s
  | .counterSaturate die page k => Sys2Proof.Machine.execCounterSaturate die page k s

end Sys2Proof.Machine
end

