-- ==== Sys2Proof/Safety.lean ====
section
/-!
DEFINITION. The terms of claims: a safe step and a safe run, what an operation leaves alone, and the canonical form of every memory.
-/

-- One declaration at a time: the threads of a parallel elaboration take memory together.
set_option Elab.async false

namespace Sys2Proof

open Machine

/-- A step from the state answers a next state. -/
def SafeStep (s : State) : Prop := ∃ t, step s = .next t

/-- `n` steps from the state all answer a next state. -/
def SafeRun : Nat → State → Prop
  | 0, _ => True
  | n + 1, s => ∃ t, step s = .next t ∧ SafeRun n t

end Sys2Proof

namespace Sys2Proof.Machine

/-- The fields of the state. -/
inductive StateField where
  | pending | part | now | freeCount | devState | holdCauses | cdLost | mdLost | cmds | nextUid | steps | groups | fetches | colls | jobs | engines | flags | windows | saveBase | apts | aptSlots | rings | waiting | backlog | link | msix | dma | stopped | resetPending | pages | regs | latch | mem | hostMem | badWords | softWords | insole | protEff | me | ingest | raster | disp | outs | traceGap | log | readData | pins | bw | pwr | boot | welt | refresh | cairn | ctrs | snaps | dbg | lastFw | traceFill | traceAt | sleeping | issue | timeFrac
  deriving DecidableEq, Repr

/-- The number of a field. -/
def StateField.idx : StateField → Nat
  | .pending => 0
  | .part => 1
  | .now => 2
  | .freeCount => 3
  | .devState => 4
  | .holdCauses => 5
  | .cdLost => 6
  | .mdLost => 7
  | .cmds => 8
  | .nextUid => 9
  | .steps => 10
  | .groups => 11
  | .fetches => 12
  | .colls => 13
  | .jobs => 14
  | .engines => 15
  | .flags => 16
  | .windows => 17
  | .saveBase => 18
  | .apts => 19
  | .aptSlots => 20
  | .rings => 21
  | .waiting => 22
  | .backlog => 23
  | .link => 24
  | .msix => 25
  | .dma => 26
  | .stopped => 27
  | .resetPending => 28
  | .pages => 29
  | .regs => 30
  | .latch => 31
  | .mem => 32
  | .hostMem => 33
  | .badWords => 34
  | .insole => 35
  | .protEff => 36
  | .me => 37
  | .ingest => 38
  | .raster => 39
  | .disp => 40
  | .outs => 41
  | .traceGap => 42
  | .log => 43
  | .readData => 44
  | .pins => 45
  | .bw => 46
  | .pwr => 47
  | .boot => 48
  | .welt => 49
  | .refresh => 50
  | .cairn => 51
  | .ctrs => 52
  | .snaps => 53
  | .dbg => 54
  | .lastFw => 55
  | .softWords => 56
  | .traceFill => 57
  | .traceAt => 58
  | .sleeping => 59
  | .issue => 60
  | .timeFrac => 61

/-- Two states hold the same in a field. -/
def StateField.same (s t : State) : StateField → Prop
  | .pending => t.pending = s.pending
  | .part => t.part = s.part
  | .now => t.now = s.now
  | .freeCount => t.freeCount = s.freeCount
  | .devState => t.devState = s.devState
  | .holdCauses => t.holdCauses = s.holdCauses
  | .cdLost => t.cdLost = s.cdLost
  | .mdLost => t.mdLost = s.mdLost
  | .cmds => t.cmds = s.cmds
  | .nextUid => t.nextUid = s.nextUid
  | .steps => t.steps = s.steps
  | .groups => t.groups = s.groups
  | .fetches => t.fetches = s.fetches
  | .colls => t.colls = s.colls
  | .jobs => t.jobs = s.jobs
  | .engines => t.engines = s.engines
  | .flags => t.flags = s.flags
  | .windows => t.windows = s.windows
  | .saveBase => t.saveBase = s.saveBase
  | .apts => t.apts = s.apts
  | .aptSlots => t.aptSlots = s.aptSlots
  | .rings => t.rings = s.rings
  | .waiting => t.waiting = s.waiting
  | .backlog => t.backlog = s.backlog
  | .link => t.link = s.link
  | .msix => t.msix = s.msix
  | .dma => t.dma = s.dma
  | .stopped => t.stopped = s.stopped
  | .resetPending => t.resetPending = s.resetPending
  | .pages => t.pages = s.pages
  | .regs => t.regs = s.regs
  | .latch => t.latch = s.latch
  | .mem => t.mem = s.mem
  | .hostMem => t.hostMem = s.hostMem
  | .badWords => t.badWords = s.badWords
  | .softWords => t.softWords = s.softWords
  | .insole => t.insole = s.insole
  | .protEff => t.protEff = s.protEff
  | .me => t.me = s.me
  | .ingest => t.ingest = s.ingest
  | .raster => t.raster = s.raster
  | .disp => t.disp = s.disp
  | .outs => t.outs = s.outs
  | .traceGap => t.traceGap = s.traceGap
  | .log => t.log = s.log
  | .readData => t.readData = s.readData
  | .pins => t.pins = s.pins
  | .bw => t.bw = s.bw
  | .pwr => t.pwr = s.pwr
  | .boot => t.boot = s.boot
  | .welt => t.welt = s.welt
  | .refresh => t.refresh = s.refresh
  | .cairn => t.cairn = s.cairn
  | .ctrs => t.ctrs = s.ctrs
  | .snaps => t.snaps = s.snaps
  | .dbg => t.dbg = s.dbg
  | .lastFw => t.lastFw = s.lastFw
  | .traceFill => t.traceFill = s.traceFill
  | .traceAt => t.traceAt = s.traceAt
  | .sleeping => t.sleeping = s.sleeping
  | .issue => t.issue = s.issue
  | .timeFrac => t.timeFrac = s.timeFrac

/-- Every field but those of a list. -/
def fieldsBut (fs : List StateField) : List StateField :=
  [.pending, .part, .now, .freeCount, .devState, .holdCauses, .cdLost, .mdLost, .cmds, .nextUid, .steps, .groups, .fetches, .colls, .jobs, .engines, .flags, .windows, .saveBase, .apts, .aptSlots, .rings, .waiting, .backlog, .link, .msix, .dma, .stopped, .resetPending, .pages, .regs, .latch, .mem, .hostMem, .badWords, .softWords, .insole, .protEff, .me, .ingest, .raster, .disp, .outs, .traceGap, .log, .readData, .pins, .bw, .pwr, .boot, .welt, .refresh, .cairn, .ctrs, .snaps, .dbg, .lastFw, .traceFill, .traceAt, .sleeping, .issue, .timeFrac].filter
    fun f => !fs.contains f

/-- A list of fields as a mask of bits. -/
def fieldMask (fs : List StateField) : Nat := fs.foldl (fun m f => m ||| 2 ^ f.idx) 0

/-- From `s` to `t` no field outside the list has changed. -/
def Only (fs : List StateField) (s t : State) : Prop := ∀ f : StateField, (fieldMask fs).testBit f.idx = false → f.same s t

end Sys2Proof.Machine
namespace Sys2Proof.Machine

/-- An outcome is no next state, or one in which no field outside the list has changed. -/
def OnlyOut (fs : List StateField) (s : State) : Out → Prop
  | .next t => Only fs s t
  | _ => True

/-- Every memory is in its canonical form (R277, R326). -/
def MemOk (s : State) : Prop :=
  s.mem.wf 0 = true ∧ s.hostMem.wf 0 = true ∧ s.boot.nor.wf 0 = true ∧ s.boot.flash.wf 0xFF = true

/-- An outcome is no next state, or one whose memories are in their canonical form. -/
def MemOkOut : Out → Prop
  | .next t => MemOk t
  | _ => True

end Sys2Proof.Machine
end

