-- ==== Sys2Proof/Certificates/Slice0/Obligations.lean ====
section
/-!
DEFINITION. The statements about the device, rule by rule.
-/

-- One declaration at a time: the threads of a parallel elaboration take memory together.
set_option Elab.async false

open Sys2Proof Sys2Proof.Machine

/-! ### The queue and the whole machine -/

/-- A step runs the command at the front of the queue with the queue's rest. -/
def Obligations.StepRunsFrontCommand : Prop :=
  ∀ (s : State) (c : Instr) (rest : List Instr), s.pending = c :: rest → step s = exec c { s with pending := rest }

/-- An empty queue: in reset nothing happens; in BASECAMP a step is one cycle of the 32.768 kHz clock, by which the 64-bit time base advances
100,000,000/32,768 ticks with the fraction carried (R424); elsewhere, with no update operation in progress and no sleep waiting for its records, it is one
tick. That a step on an empty queue is the passing of time is the model's own choice (assumption 2). -/
def Obligations.EmptyQueueTicks : Prop :=
  ∀ s : State, s.pending = [] →
    (s.devState = 0 → step s = .next s) ∧
    (s.devState = 1 → ∃ t, step s = .next t ∧ Only [.now, .timeFrac] s t ∧ t.timeFrac < 128 ∧
      ∃ ticks, t.now = (s.now + ticks) % 2 ^ 64 ∧ 128 * ticks + t.timeFrac = s.timeFrac + 128 * 100000000 / 32768) ∧
    (2 ≤ s.devState → s.boot.upd = none → s.sleeping = none → step s = .next { s with now := (s.now + 1) % 2 ^ 64 })

/-- Every command on every state answers a next state: none faults and none is refused. The model's own choice: a command that names nothing, or comes
when it cannot, does nothing (assumption 5, DESIGN CHOICE), and where software breaks a rule of R9 the device goes on with a free value (assumption 11,
DEDUCED). -/
def Obligations.EveryCommandAnswersANextState : Prop :=
  ∀ (i : Instr) (s : State), ∃ t, exec i s = .next t

/-- Every step keeps every memory in its canonical form: strictly rising addresses, and no byte listed that an unlisted address reads as
(assumption 4). -/
def Obligations.StepKeepsMemoriesCanonical : Prop :=
  ∀ s t : State, MemOk s → step s = .next t → MemOk t

/-- The memories of the state at reset are in their canonical form. -/
def Obligations.ResetMemoriesCanonical : Prop := MemOk State.reset

/-- A step takes the command at the front of the queue and no other, and never adds one. -/
def Obligations.StepTakesOneCommand : Prop :=
  ∀ s t : State, step s = .next t → t.pending = s.pending.tail

/-- The protected part of DRAM changes in a cold boot only (R294), and the identity of the part in a boot only. The Insole record in force changes in
a boot (R389), a sleep, a device reset, a loss of power or a register write only; the board window in an SMBus write or a loss of supply only (R475, R481,
R485); the window registers of the tile memories in their own write, another register write, a sleep, a device reset or a loss of power only (R281, R300). -/
def Obligations.BootOwnsItsConfiguration : Prop :=
  ∀ (i : Instr) (s t : State), exec i s = .next t →
    ((match i with | .coldBoot .. => False | _ => True) → t.protEff = s.protEff) ∧
    ((match i with | .coldBoot .. | .wake .. => False | _ => True) → t.part = s.part) ∧
    ((match i with
      | .coldBoot .. | .wake .. | .registerWrite .. | .dbgMem .. | .deviceResetAct | .sleep _ | .resetAssert _ | .supplyLoss _
      | .criticalTrip => False
      | _ => True) → t.insole = s.insole) ∧
    ((match i with | .bwBlockWrite .. | .supplyLoss _ => False | _ => True) → t.bw = s.bw) ∧
    ((match i with
      | .tmemWindowWrite .. | .registerWrite .. | .dbgMem .. | .deviceResetAct | .sleep _ | .resetAssert _ | .supplyLoss _
      | .criticalTrip => False
      | _ => True) → t.windows = s.windows)

/-! ### The command path -/

/-- APERTURE_SLOT_WRITE (R329), whose operands name the aperture, the slot and the offset within it. The slot of an enabled aperture takes the bytes, and it has
landed when the write covers its byte 63. No other slot changes. A write outside a slot, or of a disabled aperture, is ignored. What a slot that had landed holds after
another write the spec leaves open (R355): the model's reading of that is stated in LinkSessionsAndHoldFollowTheHost. -/
def Obligations.ApertureWriteFillsSlot : Prop :=
  ∀ (s : State) (apt slot off : Nat) (bs : List Byte),
    (apt < 16 → slot < 1024 → off + bs.length ≤ 64 → (s.apt apt).en = true →
      ∃ t, exec (.apertureSlotWrite apt slot off bs) s = .next t ∧
        ((s.aptSlot apt slot).landed = false →
          pktBytes (t.aptSlot apt slot).data =
            (pktBytes (s.aptSlot apt slot).data).take off ++ bs ++ (pktBytes (s.aptSlot apt slot).data).drop (off + bs.length) ∧
          ((t.aptSlot apt slot).landed = true ↔ off + bs.length = 64 ∧ bs ≠ []) ∧ t.freeCount = s.freeCount) ∧
        (∀ a k, k < 1024 → (a, k) ≠ (apt, slot) → t.aptSlot a k = s.aptSlot a k) ∧
        Only [.aptSlots, .freeCount] s t) ∧
    (16 ≤ apt ∨ 1024 ≤ slot ∨ 64 < off + bs.length ∨ (s.apt apt).en = false →
      exec (.apertureSlotWrite apt slot off bs) s = .next s)

/-- PACKET_ACCEPT (R330, R501). While the CFE runs, the landed slot at the consumed count of an enabled aperture that has its credits becomes
the last accepted command, with the next uid; the slot is free again and the consumed count advances. A packet that fails one of the
acceptance checks has ended at once: FAILED_BAD_OPERAND with that check's CAUSE, or in RECOVERY FAILED_VERSION. A STEP_OPEN that passes them and its own
operand checks begins its step, and one that fails those keeps the lowest CAUSE for its execution. A slot with an uncorrectable word of command SRAM ends the
packet FAILED_ECC 0x30 (R283, R284). Without a pending-store credit the aperture is held (R30, R48); a rejected packet that lacks only a completion entry waits, and
counts as no such hold (R31). -/
def Obligations.PacketAcceptTakesTheSlot : Prop :=
  ∀ (s : State) (apt : Nat), apt < 16 → s.cfeRuns = true → (s.apt apt).en = true →
    (s.aptSlot apt ((s.apt apt).consumed.toNat % 1024)).landed = true →
    (∀ e, s.acceptCredit apt (s.apt apt) (s.aptSlot apt ((s.apt apt).consumed.toNat % 1024)) = some e →
      ∃ t c l, exec (.packetAccept apt) s = .next t ∧
        t.cmds = l ++ [c] ∧ l.Sublist s.cmds ∧ (∀ d ∈ s.cmds, d.live = true → d ∈ l) ∧
        c.uid = s.nextUid ∧ c.apt = apt ∧ c.ring = (s.apt apt).ring ∧ c.acceptedAt = s.now ∧
        c.pkt = (s.aptSlot apt ((s.apt apt).consumed.toNat % 1024)).data ∧
        ((s.aptSlot apt ((s.apt apt).consumed.toNat % 1024)).bad = true → c.rejected = true ∧ c.place = .ended .ecc 0x30 ∧ c.entry = e) ∧
        (∀ cause, (s.aptSlot apt ((s.apt apt).consumed.toNat % 1024)).bad = false → s.rejection apt (s.apt apt).consumed c.pkt = some cause →
          c.rejected = true ∧ c.place = .ended (if cause = 0 then .version else .badOperand) cause ∧ c.entry = e) ∧
        ((s.aptSlot apt ((s.apt apt).consumed.toNat % 1024)).bad = false → s.rejection apt (s.apt apt).consumed c.pkt = none →
          c.rejected = false ∧ (c.place = .pending ∨ c.place = .ended .late 0) ∧
          (c.opcode = 1 → (lowestCause (s.stepOpenFails c) = none → ∃ x ∈ t.steps, x.uid = c.uid ∧ x.opened = false) ∧
            (∀ f, lowestCause (s.stepOpenFails c) = some f → c.progress = f.2))) ∧
        t.nextUid = s.nextUid + 1 ∧
        (t.apt apt).consumed = (s.apt apt).consumed + 1 ∧ (t.apt apt).en = true ∧ (t.apt apt).heldSince = none ∧
        (∀ a, a ≠ apt → t.apt a = s.apt a) ∧
        (∀ k, k < 1024 → k ≠ (s.apt apt).consumed.toNat % 1024 → t.aptSlot apt k = s.aptSlot apt k) ∧
        (t.aptSlot apt ((s.apt apt).consumed.toNat % 1024)).landed = false ∧
        Only [.aptSlots, .apts, .badWords, .cmds, .ctrs, .disp, .engines, .groups, .hostMem, .jobs, .log, .mem, .msix, .nextUid, .pages, .regs,
          .softWords, .steps, .traceAt, .traceFill, .traceGap] s t) ∧
    (s.pendingCredit apt = false →
      ∃ t, exec (.packetAccept apt) s = .next t ∧ t.apt apt = { s.apt apt with heldSince := some ((s.apt apt).heldSince.getD s.now) } ∧
        (∀ a, a ≠ apt → t.apt a = s.apt a) ∧ Only [.apts, .ctrs, .hostMem, .msix, .pages] s t) ∧
    (s.pendingCredit apt = true → s.acceptCredit apt (s.apt apt) (s.aptSlot apt ((s.apt apt).consumed.toNat % 1024)) = none →
      ∃ t, exec (.packetAccept apt) s = .next t ∧ t.apt apt = { s.apt apt with heldSince := none } ∧
        (∀ a, a ≠ apt → t.apt a = s.apt a) ∧ Only [.apts] s t)

/-- APT_HELD_TIMEOUT (R48), RING_FULL_TIMEOUT (R355) and ME_RING_STALL (R212): each sets its own interrupt bit at its due time, and changes
nothing else of any page. -/
def Obligations.TimeoutsRaiseTheirInterrupts : Prop :=
  ∀ (s : State),
    (∀ apt since, (s.apt apt).heldSince = some since →
      ∃ t, exec (.aptHeldTimeout apt) s = .next t ∧ t.now = laterTime s.now ((since + 100001) % 2 ^ 64) ∧
        t.page .sched 0 = { s.page .sched 0 with raw := (s.page .sched 0).raw ||| 8 } ∧
        (∀ b i, Blk.base b i ≠ Blk.base .sched 0 → t.page b i = s.page b i) ∧ Only [.hostMem, .msix, .now, .pages] s t) ∧
    (∀ ring since, (s.ring ring).fullSince = some since →
      ∃ t, exec (.ringFullTimeout ring) s = .next t ∧ t.now = laterTime s.now ((since + 100000) % 2 ^ 64) ∧
        t.page .cfe 0 = { s.page .cfe 0 with raw := (s.page .cfe 0).raw ||| 1 } ∧
        (∀ b i, Blk.base b i ≠ Blk.base .cfe 0 → t.page b i = s.page b i) ∧ Only [.hostMem, .msix, .now, .pages] s t) ∧
    (∀ c since, s.meWaiting = some (c, since) →
      ∃ t, exec .meRingStall s = .next t ∧ t.now = laterTime s.now ((since + 100001) % 2 ^ 64) ∧
        t.page .me 0 = { s.page .me 0 with raw := (s.page .me 0).raw ||| 8 } ∧
        (∀ b i, Blk.base b i ≠ Blk.base .me 0 → t.page b i = s.page b i) ∧ Only [.hostMem, .msix, .now, .pages] s t)

/-- COMMAND_ADMIT (R30, R31, R36, R37). A pending command that nothing holds back enters its queue, last in its order, and keeps its completion entry; one
that its unit turns away ends with that status instead, one for a disabled DMA channel FAILED_UNIT_DISABLED, and one whose landing slots lie outside the engine
window FAILED_BAD_OPERAND 0x01. One that admission holds, or that has no credit, stays. Every other command stays as it is. -/
def Obligations.CommandAdmitQueuesOrTurnsAway : Prop :=
  ∀ (s : State) (c : Cmd) (q : Queue) (e : Entry), s.cmd? c.uid = some c → s.queueOf c = some q → c.place = .pending → s.stopped = false →
    s.stepReady c = true → s.dispatched c = true → s.behindWait c = false → s.behindPeer c q = false →
    (if c.entry == .none && !c.replay then s.freeEntry c.ring else some c.entry) = some e →
    ∃ t, exec (.commandAdmit c.uid) s = .next t ∧
      (∀ st, s.turnedAway c (s.engineOf c) = some st →
        t.cmd? c.uid = some { c with place := .ended st 0, entry := e } ∧ Only [.cmds] s t) ∧
      (s.turnedAway c (s.engineOf c) = none → s.channelOff q = true →
        t.cmd? c.uid = some { c with place := .ended .unitDisabled 0, entry := e } ∧ Only [.cmds] s t) ∧
      (s.turnedAway c (s.engineOf c) = none → s.channelOff q = false → s.slotsOutside c = true →
        t.cmd? c.uid = some { c with place := .ended .badOperand 0x01, entry := e } ∧ Only [.cmds] s t) ∧
      (s.turnedAway c (s.engineOf c) = none → s.channelOff q = false → s.slotsOutside c = false →
        (s.admissionHeld c (s.engineOf c) = true ∨ s.residentFor q = false ∨ s.commitCredit c = false ∨ q.capacity ≤ (s.inQueue q).length) → t = s) ∧
      (s.turnedAway c (s.engineOf c) = none → s.channelOff q = false → s.slotsOutside c = false →
        s.admissionHeld c (s.engineOf c) = false → s.residentFor q = true → s.commitCredit c = true →
        (s.inQueue q).length < q.capacity →
        ∃ d, t.cmd? c.uid = some d ∧ d.place = .queued q ∧ d.entry = e ∧ d.turn = s.nextTurn ∧ d.pkt = c.pkt ∧ d.cls = c.cls) ∧
      (∀ v, v ≠ c.uid → t.cmd? v = s.cmd? v) ∧
      Only [.badWords, .cmds, .ctrs, .engines, .hostMem, .mem, .msix, .pages, .regs, .softWords, .traceAt, .traceFill, .traceGap] s t

/-- TILE_DISPATCH (R33, R34). The lowest waiting tile group of an open step goes to the engine that placement gives it: with BALANCE clear the
compiled one, with BALANCE set one of the job's ENGINE_MASK that can take it. Other groups stay, and so does every command. The entry of a bound tile takes state DISPATCHED and the engine, and no other byte of memory changes. -/
def Obligations.TileDispatchPlacesTheGroup : Prop :=
  ∀ (s : State) (x : Step) (tile cg g : Nat), MemOk s → s.step? x.uid = some x → x.opened = true →
    (∀ f, x.frame = some f → s.boundHeader f = true) → tile < x.tileCount → s.undispatched x.uid tile = true →
    s.lowestTile x tile = true → s.groupCompiled x.uid tile = some cg → s.placeGroup x.job cg = some g →
    ∃ t y, exec (.tileDispatch x.uid tile) s = .next t ∧
      t.group? x.uid tile = some y ∧ y.engine = g ∧ y.live = true ∧ y.placed = true ∧ y.cancelled = false ∧ y.balance = (s.job x.job).balance ∧
      ((s.job x.job).balance = false → g = cg) ∧
      ((s.job x.job).balance = true → g ∈ s.jobEngines x.job ∧ s.canHost x.job g = true) ∧
      (∀ u k, (u, k) ≠ (x.uid, tile) → t.group? u k = s.group? u k) ∧ t.cmds = s.cmds ∧
      (x.frame = none → t.mem = s.mem) ∧
      (∀ f, x.frame = some f →
        t.mem.readRun 0 (s.table f + 64 + 8 * tile) 8 = leBytes 8 (setBits (setBits (s.entry f tile) 63 60 2) 45 42 g) ∧
        ∀ a, a < s.table f + 64 + 8 * tile ∨ s.table f + 72 + 8 * tile ≤ a → t.mem.read 0 a = s.mem.read 0 a) ∧
      Only [.badWords, .engines, .groups, .mem, .softWords] s t

/-- STEP_OPEN (R16, R23, R27). A STEP_OPEN that passed its checks and that no fence holds opens its step once no earlier step of its job is unopened, fewer than
four are open, and no turn is owed; its command stays pending, with its completion entry, for the step's record. One that failed a check at its acceptance ends
FAILED_BAD_OPERAND with the CAUSE kept then, or in RECOVERY FAILED_VERSION. -/
def Obligations.StepOpenOpensItsStep : Prop :=
  ∀ (s : State) (c : Cmd) (e : Entry), s.cmd? c.uid = some c → c.opcode = 1 → c.place = .pending → s.fenced c = false →
    s.stopped = false → s.freeEntry c.ring = some e →
    (∀ x, s.step? c.uid = some x → x.opened = false →
      (s.steps.any fun y => y.job == x.job && y.uid < x.uid && !y.opened) = false → s.openSteps x.job < 4 →
      (s.job x.job).turnOwed x.number = false →
      ∃ t y, exec (.stepOpen c.uid) s = .next t ∧ t.step? c.uid = some y ∧ y.opened = true ∧
        y.deadline = x.deadline ∧ y.tileCount = x.tileCount ∧ y.job = x.job ∧
        (c.step = none → ∃ d, t.cmd? c.uid = some d ∧ d.place = .pending ∧ d.entry = e ∧ d.heldEntry = false ∧ d.pkt = c.pkt) ∧
        (t.job c.job).lastEpoch = x.epoch ∧ (∀ j, j ≠ c.job → t.job j = s.job j) ∧
        Only [.badWords, .cmds, .ctrs, .engines, .groups, .hostMem, .jobs, .me, .mem, .msix, .pages, .regs, .softWords, .steps] s t) ∧
    (s.step? c.uid = none →
      ∃ t, exec (.stepOpen c.uid) s = .next t ∧
        t.cmd? c.uid = some { c with place := if s.devState = 6 then .ended .version 0 else .ended .badOperand c.progress, entry := e } ∧
        (∀ v, v ≠ c.uid → t.cmd? v = s.cmd? v) ∧ Only [.cmds] s t)

/-- FLAG_WAIT, FLAG_WAIT_TIMEOUT, FLAG_ADVANCE and NOP (R27). A pending control command whose operands pass, that no fence or wait holds back and that
finds a completion entry, ends OK: a FLAG_WAIT once its flag is at or after its generation, or FAILED_ECC when that flag is poisoned. One with a failing operand
ends FAILED_BAD_OPERAND with the lowest CAUSE. A FLAG_WAIT unmet TIMEOUT_MS after its acceptance (the model's choice of the moment, assumption 66) ends
FAILED_TIMEOUT. Nothing but that command and the time changes: the flag itself waits for the record. -/
def Obligations.ControlCommandsEnd : Prop :=
  ∀ (s : State) (c : Cmd) (e : Entry), s.cmd? c.uid = some c → c.place = .pending → s.behindWait c = false → s.stopped = false →
    s.freeEntry c.ring = some e → s.fenced c = false → s.stepReady c = true → s.devState ≠ 6 →
    (c.opcode = 2 → (s.flag (c.num 8 2)).poison = false → c.num 8 2 < 4096 → c.num 10 2 = 0 → c.num 16 48 = 0 →
      s.flagReached (c.num 8 2) (BitVec.ofNat 32 (c.num 12 4)) = true →
      exec (.flagWait c.uid) s = .next (s.putCmd { c with place := .ended .ok 0, entry := e })) ∧
    (c.opcode = 2 → (s.flag (c.num 8 2)).poison = true → c.num 8 2 < 4096 → c.num 10 2 = 0 → c.num 16 48 = 0 →
      exec (.flagWait c.uid) s = .next (s.putCmd { c with place := .ended .ecc 0, entry := e })) ∧
    (c.opcode = 2 → 4096 ≤ c.num 8 2 ∨ c.num 10 2 ≠ 0 ∨ c.num 16 48 ≠ 0 →
      exec (.flagWait c.uid) s = .next (s.putCmd { c with place := .ended .badOperand 4, entry := e })) ∧
    (c.opcode = 3 → c.num 8 2 < 4096 → c.num 10 2 = 0 → c.num 16 48 = 0 → 1 ≤ c.num 12 4 → c.num 12 4 < 2 ^ 31 →
      exec (.flagAdvance c.uid) s = .next (s.putCmd { c with place := .ended .ok 0, entry := e })) ∧
    (c.opcode = 3 → c.num 12 4 = 0 ∨ 2 ^ 31 ≤ c.num 12 4 →
      exec (.flagAdvance c.uid) s = .next (s.putCmd { c with place := .ended .badOperand 2, entry := e })) ∧
    (c.opcode = 3 → 1 ≤ c.num 12 4 → c.num 12 4 < 2 ^ 31 → 4096 ≤ c.num 8 2 ∨ c.num 10 2 ≠ 0 ∨ c.num 16 48 ≠ 0 →
      exec (.flagAdvance c.uid) s = .next (s.putCmd { c with place := .ended .badOperand 4, entry := e })) ∧
    (c.opcode = 4 → c.num 8 56 = 0 → exec (.nop c.uid) s = .next (s.putCmd { c with place := .ended .ok 0, entry := e })) ∧
    (c.opcode = 4 → c.num 8 56 ≠ 0 → exec (.nop c.uid) s = .next (s.putCmd { c with place := .ended .badOperand 4, entry := e })) ∧
    (c.opcode = 2 → (s.flag (c.num 8 2)).poison = false → c.num 8 2 < 4096 → c.num 10 2 = 0 → c.num 16 48 = 0 →
      s.flagReached (c.num 8 2) (BitVec.ofNat 32 (c.num 12 4)) = false → bits (s.reg .sched 0 0x048) 15 0 ≠ 0 →
      ∃ t, exec (.flagWaitTimeout c.uid) s = .next t ∧ t.cmds = (s.putCmd { c with place := .ended .timeout 0, entry := e }).cmds ∧
        t.now = laterTime s.now ((c.acceptedAt + bits (s.reg .sched 0 0x048) 15 0 * 100000) % 2 ^ 64) ∧ Only [.cmds, .now] s t)

/-- COMPLETION_RECORD_WRITE (R26, R44, R80, R286, R335, R336). The record of an ended command that none of its context comes before: the flag of its ADV, or of its
FLAG_ADVANCE, advances by what the command says, unless it is poisoned, and no other flag changes. With the link up and room in its ring, and no record waiting before it there, the
16 bytes of the record land at the ring's base + (PROD mod 2^LOG2) × 16 with the ring's PHASE, RING_PROD advances by 1, and no other ring changes (unless a message of a vector lands on those
very bytes); while the link turns records to a backlog that is not
configured, the record waits with the command's SEQ, aperture, job, STATUS and CAUSE. The command is live no more and every other live command stays. A STEP_OPEN whose step has closed
leaves its record with the step's verdict, and a command that ran again after its tile group moved (R435) leaves no second one. -/
def Obligations.CompletionRecordAdvancesFlags : Prop :=
  ∀ (s : State) (c : Cmd), s.cmd? c.uid = some c → c.entry ≠ .none →
    (∀ st cause, c.place = .ended st cause → c.replay = false → s.behindContext c = false →
      ∃ t, exec (.completionRecordWrite c.uid) s = .next t ∧ (∀ d ∈ t.cmds, d.uid = c.uid → d.live = false) ∧
        (c.step = none → t.cmd? c.uid = none) ∧
        (∀ f n, s.owedFlags c st = [(f, n)] → (s.flag f).poison = false →
          (t.flag f).gen = (s.flag f).gen + BitVec.ofNat 32 n ∧ (t.flag f).producer = c.job) ∧
        (∀ f, (s.flag f).poison = true → t.flag f = s.flag f) ∧
        (∀ f, f ∉ (s.owedFlags c st).map (·.1) → t.flag f = s.flag f) ∧
        (s.link.toBacklog = true → s.backlogBase = none →
          t.waiting = s.waiting ++ [⟨c.ring, c.seq, c.apt, c.job, st.code, cause, s.now, c.entry⟩]) ∧
        (∀ (r : Ring) (a : Nat), r = s.ring c.ring → a = r.base + r.prod.toNat % 2 ^ r.log2 * 16 → MemOk s →
          s.link.toBacklog = false → s.hostOk = true → r.hasRoom = true → (∀ x ∈ s.backlog ++ s.waiting, x.ring ≠ c.ring) →
          (t.ring c.ring).prod = r.prod + 1 ∧ (∀ m, m ≠ c.ring → t.ring m = s.ring m) ∧ t.waiting = s.waiting ∧ t.backlog = s.backlog ∧
          ((∀ v, s.vectorMasked v = true ∨ (s.msixWord v 0).toNat + 2 ^ 32 * (s.msixWord v 1).toNat + 4 ≤ a ∨
              a + 16 ≤ (s.msixWord v 0).toNat + 2 ^ 32 * (s.msixWord v 1).toNat) →
            t.hostGet a 16 = leBytes 4 c.seq.toNat ++ leBytes 1 (c.apt + if r.prod.toNat.testBit r.log2 then 0 else 128) ++
              leBytes 1 c.job ++ leBytes 1 st.code ++ leBytes 1 cause ++ leBytes 8 s.now)) ∧
        (∀ d ∈ s.cmds, d.uid ≠ c.uid → d.live = true → d ∈ t.cmds) ∧
        Only [.backlog, .badWords, .cmds, .colls, .ctrs, .engines, .flags, .groups, .hostMem, .log, .me, .mem, .msix, .pages, .raster, .regs, .rings,
          .softWords, .steps, .traceAt, .traceFill, .traceGap, .waiting] s t) ∧
    (∀ x, c.place = .pending → c.opcode = 1 → s.step? c.uid = some x → s.stepClosed x = true → x.closed = false →
      ∃ t, exec (.completionRecordWrite c.uid) s = .next t ∧ (∀ d ∈ t.cmds, d.uid = c.uid → d.live = false) ∧
        (s.link.toBacklog = true → s.backlogBase = none →
          t.waiting = s.waiting ++ [⟨c.ring, c.seq, c.apt, c.job, x.verdict.1.code, x.verdict.2, s.now, c.entry⟩]) ∧
        ((x.cancelled ≠ 0 → x.verdict = (.late, min x.cancelled 0xFFFF)) ∧ (x.cancelled = 0 → x.verdict = (Status.ofCode x.worst, 0)))) ∧
    (∀ st cause, c.place = .ended st cause → c.replay = true → s.behindContext c = false →
      ∃ t, exec (.completionRecordWrite c.uid) s = .next t ∧ (∀ d ∈ t.cmds, d.uid = c.uid → d.live = false) ∧
        (∀ d ∈ s.cmds, d.uid ≠ c.uid → d.live = true → d ∈ t.cmds) ∧
        Only [.badWords, .cmds, .engines, .groups, .hostMem, .log, .mem, .msix, .pages, .regs, .softWords] s t)

/-- MSIX_RING_TIMER (R339) and CREDIT_WRITEBACK (R332). The timer clears the ring's count of unreported records and signals its vector once: the
message goes to host memory at its table entry's address, or the vector's pending bit is set while it is masked. The credit write puts the consumed count at the
address that the aperture names, and nothing else of host memory changes; without that address enabled, or without the link, nothing is written. -/
def Obligations.RingTimerAndCreditReport : Prop :=
  ∀ (s : State),
    (∀ ring since, (s.ring ring).firstAt = some since →
      ∃ t, exec (.msixRingTimer ring) s = .next t ∧ (t.ring ring).unreported = 0 ∧ (t.ring ring).firstAt = none ∧
        (t.ring ring).prod = (s.ring ring).prod ∧ (∀ r, r ≠ ring → t.ring r = s.ring r) ∧
        t.now = laterTime s.now ((since + (s.ring ring).timerUs * 100) % 2 ^ 64) ∧
        (s.vectorMasked (2 + ring) = true → t.msix.pba = s.msix.pba ||| (1 <<< (2 + ring)) ∧ t.hostMem = s.hostMem) ∧
        (s.vectorMasked (2 + ring) = false → t.msix.sent = s.msix.sent + 1 ∧
          t.hostMem = s.hostMem.writeRun 0 ((s.msixWord (2 + ring) 0).toNat + 2 ^ 32 * (s.msixWord (2 + ring) 1).toNat)
            (leBytes 4 (s.msixWord (2 + ring) 2).toNat)) ∧ Only [.hostMem, .msix, .now, .rings] s t) ∧
    (∀ apt, MemOk s → (s.apt apt).consumed ≠ (s.apt apt).credWritten → (s.apt apt).credLo.getLsbD 0 = true → s.hostOk = true →
      ∃ t, exec (.creditWriteback apt) s = .next t ∧ (t.apt apt).credWritten = (s.apt apt).consumed ∧
        (t.apt apt).consumed = (s.apt apt).consumed ∧ (∀ a, a ≠ apt → t.apt a = s.apt a) ∧
        t.hostGet ((s.apt apt).credLo.toNat / 4 * 4 + 2 ^ 32 * (s.apt apt).credHi.toNat) 4 = leBytes 4 (s.apt apt).consumed.toNat ∧
        (∀ a, a < (s.apt apt).credLo.toNat / 4 * 4 + 2 ^ 32 * (s.apt apt).credHi.toNat ∨
          (s.apt apt).credLo.toNat / 4 * 4 + 2 ^ 32 * (s.apt apt).credHi.toNat + 4 ≤ a → t.hostMem.read 0 a = s.hostMem.read 0 a) ∧
        Only [.apts, .hostMem] s t) ∧
    (∀ apt, ((s.apt apt).consumed = (s.apt apt).credWritten ∨ (s.apt apt).credLo.getLsbD 0 = false ∨ s.hostOk = false) →
      exec (.creditWriteback apt) s = .next s)

/-! ### Contexts, deadlines and turns -/

/-- CONTEXT_SWAP (R39). The context of a job that has a next command for the engine becomes resident: while a slot is free, in the lowest free one, and
the residents keep their slots and accumulator rows and every command its place; with none free, in the slot of the resident that R39 makes leave, whose commands
leave its queue. When no resident leaves, every slot keeps its job. Rows of other engines stay. -/
def Obligations.ContextSwapFillsAFreeSlot : Prop :=
  ∀ (s : State) (g job : Nat) (c : Cmd), ((s.engine g).slotOf job) = none → s.dieUsable (g / 2) = true → (s.page .ne g).faulted = false →
    s.bestOf (s.wantHeads g job) = some c →
    (∀ k, (s.engine g).freeSlot = some k →
      ∃ t, exec (.contextSwap g job) s = .next t ∧
        (∃ x ∈ (t.engine g).slots, x.slot = k ∧ x.job = job) ∧
        (∀ x ∈ (s.engine g).slots, ∃ y ∈ (t.engine g).slots, y.slot = x.slot ∧ y.job = x.job) ∧
        (∀ m r, r < 512 → m ≠ k → (t.engine g).row m r = (s.engine g).row m r) ∧
        (∀ e m r, e ≠ g → (t.engine e).row m r = (s.engine e).row m r) ∧
        t.cmds = s.cmds ∧ Only [.badWords, .engines, .mem, .softWords] s t) ∧
    (∀ k, (s.engine g).freeSlot = none → s.leaver g c = some k →
      ∃ t, exec (.contextSwap g job) s = .next t ∧
        (∃ x ∈ (t.engine g).slots, x.slot = k.slot ∧ x.job = job) ∧ (∀ x ∈ (t.engine g).slots, x.slot = k.slot → x.job = job) ∧
        (∀ d ∈ t.cmds, d.place ≠ .queued (.context g k.job)) ∧
        (∀ m r, r < 512 → m ≠ k.slot → (t.engine g).row m r = (s.engine g).row m r) ∧
        (∀ e m r, e ≠ g → (t.engine e).row m r = (s.engine e).row m r) ∧
        Only [.badWords, .cmds, .ctrs, .engines, .freeCount, .hostMem, .mem, .msix, .pages, .softWords] s t) ∧
    ((s.engine g).freeSlot = none → s.leaver g c = none →
      ∃ t, exec (.contextSwap g job) s = .next t ∧
        (t.engine g).slots.map (fun x => (x.slot, x.job)) = (s.engine g).slots.map (fun x => (x.slot, x.job)) ∧ Only [.engines] s t)

/-- PREEMPT (R40, R50). An engine whose chosen context is to run in place of the running one, or of one that a swap has taken out for it, turns to it; PREEMPT_MAX
keeps the largest delay, and a delay above 20 µs (2,000 ticks) sets the interrupt and the error of the scheduler. -/
def Obligations.PreemptTurnsToTheChosenContext : Prop :=
  ∀ (s : State) (g ticks : Nat) (k : CtxSlot), s.chosen g = some k →
    ((∃ r, (s.engine g).running = some r ∧ r ≠ k.slot) ∨ ((s.engine g).running = none ∧ (s.engine g).ousted = true)) →
    ∃ t, exec (.preempt g ticks) s = .next t ∧ (t.engine g).running = some k.slot ∧ (t.engine g).ousted = false ∧
      t.reg .sched 0 0x06C = max (s.reg .sched 0 0x06C) (min ticks 0xFFFF) ∧
      (2000 < ticks → (t.page .sched 0).raw.getLsbD 4 = true ∧ (t.page .sched 0).errValid = true ∧
        (t.page .sched 0).errCode = 2 ∧ (t.page .sched 0).errInfo = BitVec.ofNat 32 g) ∧
      (∀ o, o ≠ 0x406C → t.regs.find? o = s.regs.find? o) ∧
      (∀ e m x, (t.engine e).row m x = (s.engine e).row m x) ∧
      Only [.ctrs, .engines, .hostMem, .msix, .pages, .regs] s t

/-- BLOCKED_SWAP (R43). With every resident blocked since a moment and a runnable context waiting, DELAY_US after that moment a resident that may leave, one that waits on
a flag of the waiting job where there is one, gives its slot to that job, and its commands leave its queue; the swap is counted and sets its interrupt. -/
def Obligations.BlockedSwapBringsTheRunnableContext : Prop :=
  ∀ (s : State) (g since : Nat) (c : Cmd), (s.engine g).allBlockedSince = some since → s.swapCandidate g = some c →
    (∃ x ∈ (s.engine g).slots, s.mayLeave g x = true) →
    ∃ t k, exec (.blockedSwap g) s = .next t ∧ t.now = laterTime s.now ((since + s.swapTicks) % 2 ^ 64) ∧
      k ∈ (s.engine g).slots ∧ s.mayLeave g k = true ∧
      ((∃ x ∈ (s.engine g).slots, s.mayLeave g x = true ∧ s.waitsOn g c.job x = true) → s.waitsOn g c.job k = true) ∧
      (∃ x ∈ (t.engine g).slots, x.slot = k.slot ∧ x.job = c.job) ∧ (∀ x ∈ (t.engine g).slots, x.slot = k.slot → x.job = c.job) ∧
      (∀ d ∈ t.cmds, d.place ≠ .queued (.context g k.job)) ∧
      t.reg .sched 0 0x068 = min (s.reg .sched 0 0x068 + 1) (2 ^ 32 - 1) ∧
      (t.page .sched 0).raw.getLsbD 2 = true ∧
      (∀ o, o ≠ 0x4068 → t.regs.find? o = s.regs.find? o) ∧
      Only [.badWords, .cmds, .ctrs, .engines, .freeCount, .hostMem, .mem, .msix, .now, .pages, .regs, .softWords] s t

/-- ENGINE_GATE (R107, R409), MSE_CLEAR_ALL and MSE_CLEAR_SEL (R110). An engine idle for DELAY_US that no open step holds gates its power, with
GATE_EN set and stitch not needed. The statistic slots are cleared, all or the one that MSE_SEL names; accumulator rows are untouched. -/
def Obligations.EngineGateAndStatisticClears : Prop :=
  ∀ (s : State) (g : Nat),
    (∀ since, (s.engine g).idleSince = some since → (s.page .ne g).extra.getLsbD 3 = true → (s.engine g).gated = false →
      s.stepHolds g = false → s.dieUsable (g / 2) = true → (s.page .ne g).faulted = false →
      (∀ d, s.pwr.dies.find? (g / 2) = some d → (if g % 2 = 0 then d.stitch.1 else d.stitch.2) = 0) →
      ∃ t, exec (.engineGate g) s = .next t ∧ (t.engine g).gated = true ∧ (t.engine g).planeOf = none ∧
        t.now = laterTime s.now ((since + bits (s.reg .ne g 0x058) 15 0 * 100) % 2 ^ 64) ∧
        (∀ m x, (t.engine g).row m x = (s.engine g).row m x) ∧ (∀ e, e ≠ g → t.engine e = s.engine e) ∧ Only [.engines, .now] s t) ∧
    (s.hostWrites .ne g = true →
      (∃ t, exec (.mseClearAll g) s = .next t ∧ (∀ k, (t.engine g).stat k = StatSlot.fresh) ∧
        (∀ m x, (t.engine g).row m x = (s.engine g).row m x) ∧ (∀ e, e ≠ g → t.engine e = s.engine e) ∧ Only [.engines] s t) ∧
      (∃ t, exec (.mseClearSel g) s = .next t ∧ (t.engine g).stat (s.reg .ne g 0x060 % 8) = StatSlot.fresh ∧
        (∀ k, k ≠ s.reg .ne g 0x060 % 8 → (t.engine g).stat k = (s.engine g).stat k) ∧
        (∀ m x, (t.engine g).row m x = (s.engine g).row m x) ∧ (∀ e, e ≠ g → t.engine e = s.engine e) ∧ Only [.engines] s t)) ∧
    (s.hostWrites .ne g = false → exec (.mseClearAll g) s = .next s ∧ exec (.mseClearSel g) s = .next s)

/-- FETCH_LANDED (R90, R283, R292, R437). A transfer whose route is UP, and whose source holds no uncorrectable word, lands: its bytes are at its destination, a
single-bit error that it meets is corrected, and the fetch flag advances by 1 unless it is poisoned; where it meets none, nothing else of memory changes. An uncorrectable word
ends the commands that wait for it FAILED_ECC, a source that is gone FAILED_DIE_LOST, and a failure without any route FAILED_LINK, and nothing lands. While the route is
being trained the transfer stays in flight. -/
def Obligations.FetchLandedDeliversItsBytes : Prop :=
  ∀ (s : State) (f : Fetch), MemOk s → s.fetches.find? (fun x => x.uid == f.uid) = some f →
    (s.sourceLost f = false → s.fetchRoute f = 2 → s.badIn f.src f.length = false →
      ∃ t, exec (.fetchLanded f.uid true) s = .next t ∧
        t.mem.readRun 0 f.dst (s.devGet f.src f.length).length = s.devGet f.src f.length ∧
        (s.meets s.softWords f.src f.length = [] →
          ∀ a, a < f.dst ∨ f.dst + (s.devGet f.src f.length).length ≤ a → t.mem.read 0 a = s.mem.read 0 a) ∧
        (∀ w ∈ t.softWords, w ∈ s.softWords ∧ w ∉ s.meets s.softWords f.src f.length) ∧
        (f.again = false → t.cmds = s.cmds ∧
          ((s.flag f.flag).poison = false → (t.flag f.flag).gen = (s.flag f.flag).gen + 1 ∧ (t.flag f.flag).producer = f.job) ∧
          ((s.flag f.flag).poison = true → t.flags = s.flags)) ∧
        (f.again = true → t.flags = s.flags ∧ ∀ d ∈ t.cmds, d.uid = f.uid → d.fetched = true) ∧
        (∀ k, k ≠ f.flag → t.flag k = s.flag k) ∧ t.fetches = s.fetches.erase f ∧
        Only [.badWords, .cmds, .ctrs, .engines, .fetches, .flags, .hostMem, .log, .me, .mem, .msix, .pages, .regs, .softWords] s t) ∧
    (∀ ok st cause, ((s.sourceLost f = true ∧ st = .dieLost ∧ cause = 0) ∨
        (s.sourceLost f = false ∧ ok = true ∧ s.fetchRoute f = 2 ∧ s.badIn f.src f.length = true ∧ st = .ecc ∧
          cause = if s.target f.src f.length = some .dram then 0x34 else 0x30) ∨
        (s.sourceLost f = false ∧ ok = false ∧ s.fetchRoute f = 0 ∧ st = .link ∧ cause = 0x21)) →
      ∃ t, exec (.fetchLanded f.uid ok) s = .next t ∧ t.fetches = s.fetches.erase f ∧
        (∀ c ∈ s.cmds, c.unstarted = true → s.waitsFor f c = true →
          ∃ d ∈ t.cmds, d = { c with place := .ended st cause, fault := d.fault } ∧ (st ≠ .ecc → d.fault = c.fault)) ∧
        (∀ c ∈ s.cmds, (c.unstarted = false ∨ s.waitsFor f c = false) → (∀ d ∈ s.cmds, d.uid = c.uid → d = c) → c ∈ t.cmds) ∧
        Only [.cmds, .engines, .fetches] s t) ∧
    (s.sourceLost f = false → s.fetchRoute f = 1 → ∀ ok, ∃ t, exec (.fetchLanded f.uid ok) s = .next t ∧ Only [.engines] s t)

/-- CTX_SAVE (R39, R105, R110). On an engine that is IDLE or DRAINING, the context in the slot that is written leaves it, if it may: its job has a save base or it has no
command (R39). Its slot is free, its queued commands wait again in the pending store, and SLOT holds what was written; rows of other slots stay. That each of them takes an entry of
the pending store again, also with the store full, is the model's reading (assumption 18, DEDUCED). For a context that may not leave, an empty slot, and in any other state of the engine, only
SLOT is written. -/
def Obligations.CtxSaveFreesTheSlot : Prop :=
  ∀ (s : State) (g slot : Nat), g < 16 → slot < 4 → s.hostWrites .ne g = true →
    (∀ k, (s.neState g = 1 ∨ s.neState g = 3) → (s.engine g).slots.find? (fun x => x.slot == slot) = some k → s.mayLeave g k = true →
      ∃ t, exec (.ctxSave g slot) s = .next t ∧ (∀ x ∈ (t.engine g).slots, x.slot ≠ slot) ∧
        t.reg .ne g 0x048 = slot ∧ (∀ o, o ≠ Blk.base .ne g + 0x048 → t.regs.find? o = s.regs.find? o) ∧
        (∀ c ∈ t.cmds, c.place ≠ .queued (.context g k.job)) ∧
        (∀ c, s.cmd? c.uid = some c → c.place = .queued (.context g k.job) →
          ∃ d, t.cmd? c.uid = some d ∧ d.place = .pending ∧ d.heldEntry = true ∧ d.pkt = c.pkt) ∧
        (∀ m x, x < 512 → m ≠ slot → (t.engine g).row m x = (s.engine g).row m x) ∧
        Only [.badWords, .cmds, .ctrs, .engines, .freeCount, .hostMem, .mem, .msix, .pages, .regs, .softWords] s t) ∧
    (((s.neState g ≠ 1 ∧ s.neState g ≠ 3) ∨ (s.engine g).slots.find? (fun x => x.slot == slot) = none ∨
        ∃ k, (s.engine g).slots.find? (fun x => x.slot == slot) = some k ∧ s.mayLeave g k = false) →
      ∃ t, exec (.ctxSave g slot) s = .next t ∧ t.reg .ne g 0x048 = slot ∧
        (∀ o, o ≠ Blk.base .ne g + 0x048 → t.regs.find? o = s.regs.find? o) ∧ Only [.engines, .pages, .regs] s t)

/-- GUARD_FIRE (R45, R206). The guard of a row with an unfinished tile group: the row's waiting commands run from then on as class DISPLAY, and at the step's first
guard those outside a tile as well, but for those of the ME; the row's groups are guarded, GUARD_COUNT counts and the interrupt is set. Of a frame of row pitch 0 all rows go together. -/
def Obligations.GuardFireLiftsTheRow : Prop :=
  ∀ (s : State) (x : Step) (row : Nat), s.step? x.uid = some x → x.opened = true → x.closed = false → row ≤ x.lastRow →
    row ∉ x.guardRows → row ∉ x.lateRows → s.rowUnfinished x row = true →
    ∃ t, exec (.guardFire x.uid row) s = .next t ∧
      t.step? x.uid = some { x with guardRows := x.guardRows ++ x.rowsWith row } ∧
      (∀ c ∈ t.cmds, c.step = some x.uid → c.unstarted = true → c.unit ≠ some .me → c.tile ≠ 0xFFFF → c.tile < x.tileCount →
        x.rowOf c.tile ∈ x.rowsWith row → c.cls = 0) ∧
      (x.guardRows = [] → ∀ c ∈ t.cmds, c.step = some x.uid → c.unstarted = true → c.unit ≠ some .me → c.tile = 0xFFFF → c.cls = 0) ∧
      (∀ c ∈ s.cmds, (c.unit = some .me ∨ c.step ≠ some x.uid) → c ∈ t.cmds) ∧
      (∀ g ∈ t.groups, g.step = x.uid → x.rowOf g.tile ∈ x.rowsWith row → g.guarded = true) ∧
      t.reg .sched 0 0x064 = min (s.reg .sched 0 0x064 + 1) (2 ^ 32 - 1) ∧
      (∀ o, o ≠ 0x4064 → t.regs.find? o = s.regs.find? o) ∧
      (t.page .sched 0).raw.getLsbD 1 = true ∧
      t.now = laterTime s.now ((x.rowDeadline row + 2 ^ 64 - s.guardTicks) % 2 ^ 64) ∧
      Only [.cmds, .ctrs, .engines, .groups, .hostMem, .msix, .now, .pages, .regs, .steps] s t

/-- ROW_DEADLINE (R47, R68). Of a row of a step that no planned frame is bound to: the row's incomplete tile groups are cancelled and counted, and the
interrupt is set where there is one; their commands that had not ended have ended, but for the ME's running one. Of a planned frame, with or without a bound step, row 0 begins the fetch of the frame; a later row in its turn drops the
tiles of it that still wait in the tile store, and counts as done. Of a frame that is not held, every canvas tile of the row that is READY then becomes SHOWN, and
every other one STANDIN with its kind of R70, where the table lies below the staging window and no draw is stalled. -/
def Obligations.RowDeadlineCancelsTheRow : Prop :=
  ∀ (s : State) (row : Nat),
    (∀ (x : Step) (tiles : List Nat), s.step? x.uid = some x → x.frame.bind s.plan = none → x.rowOpen row = true →
      tiles = (x.tilesOf row).filter (fun k => s.incompleteAt x k (x.rowDeadline row)) →
      ∃ t, exec (.rowDeadline (some x.uid) row) s = .next t ∧
        t.step? x.uid = some { x with lateRows := x.lateRows ++ x.rowsWith row, cancelled := x.cancelled + tiles.length } ∧
        (∀ k ∈ tiles, ∃ g, t.group? x.uid k = some g ∧ g.cancelled = true) ∧
        (∀ d ∈ t.cmds, d.step = some x.uid → d.tile ∈ tiles → s.me.uid ≠ some d.uid → d.unstarted = false) ∧
        (∀ u k, u ≠ x.uid → t.group? u k = s.group? u k) ∧
        (x.lastRow ∉ x.rowsWith row → ∀ k, k ∉ tiles → t.group? x.uid k = s.group? x.uid k) ∧
        t.reg .sched 0 0x060 = min (s.reg .sched 0 0x060 + tiles.length) (2 ^ 32 - 1) ∧
        (tiles ≠ [] → (t.page .sched 0).raw.getLsbD 0 = true) ∧
        t.now = laterTime s.now (x.rowDeadline row % 2 ^ 64) ∧
        Only [.badWords, .cmds, .ctrs, .engines, .freeCount, .groups, .hostMem, .log, .me, .mem, .msix, .now, .pages, .raster, .regs, .softWords,
          .steps] s t) ∧
    (∀ (arg : Option Nat) (f : Nat) (e : CalEntry), s.plan f = some e →
      ((arg = none ∧ s.boundStep f = none ∧ f = if row = 0 then s.disp.begun else s.disp.begun - 1) ∨
        ∃ x, arg = some x.uid ∧ s.step? x.uid = some x ∧ x.frame = some f) →
      (row = 0 → s.canBegin f = true → ∃ t, exec (.rowDeadline arg row) s = .next t ∧ t.disp.begun = f + 1 ∧ t.disp.scanBegun = false ∧
        t.disp.held = (s.disp.hold && decide (s.disp.holdFrom ≤ f)) ∧ (t.disp.held = false → t.disp.rowsDone = 1) ∧
        (t.page .disp 0).raw.getLsbD 0 = true) ∧
      (1 ≤ row → f + 1 = s.disp.begun → s.disp.rowsDone = row → s.disp.held = false → row < s.rows →
        ∃ t, exec (.rowDeadline arg row) s = .next t ∧ t.disp = { s.disp with
            store := s.disp.store.filter fun y => !(y.frame == f && s.rowOf y.tile == row)
            rowsDone := row + 1, rowSrc := t.disp.rowSrc }) ∧
      ((row = 0 ∧ s.canBegin f = true) ∨ (1 ≤ row ∧ f + 1 = s.disp.begun ∧ s.disp.rowsDone = row ∧ s.disp.held = false ∧ row < s.rows) → MemOk s →
        ∀ u v : State, u = (match arg.bind s.step? with | some x => s.stepRow x row | none => s) →
          v = (if row = 0 then u.beginFetch f e else u) → v.disp.held = false → v.raster.stalled = [] →
          v.tileCount ≤ 2040 → (row + 1) * v.columns ≤ 2040 → v.stateBase + 65536 ≤ stagingBase →
          ∃ t, exec (.rowDeadline arg row) s = .next t ∧ ∀ k ∈ v.canvasRow row,
            (entryState (v.entry f k) = 6 → t.entry f k = setBits (v.entry f k) 63 60 9) ∧
            (entryState (v.entry f k) ≠ 6 → t.entry f k = setBits (setBits (v.entry f k) 63 60 10) 59 56 (v.standInKind f k))))

/-- TURN (R136 to R138, R183, R185 to R187). The pending turn of a job whose commands of the epoch before have completed: it is done, the job's directory shows the
next epoch and one turn more when the job has one copy of it, the statistic slots of its AUTO entries, of the parity of the epoch before, are cleared on the engines of
its mask and no other, and no other job changes. While such a command has not completed, or the firmware functions pause (R441), nothing happens. That a turn without a
directory only counts is the model's reading (assumption 29, DEDUCED).
For a job with one copy of its directory, of one entry that names one table with one replica: a table with COPIES 1 gives ERR 0x02; an AUTO entry changes OUT_SCALE and OUT_INV as
R138 says in the free copy, or gives ERR 0x03 or 0x01, or stays as it is below N_MIN; a staged update of a LEARNED entry takes the free copy first (R137). A table that changes has
FROM = E + 1 and CUR turned over, and its other bytes stay.
For one with an adapter directory of one entry: a verdict that arrives keeps the candidate, or rolls it back, or finds none (R186); one that does not come in time rolls back
(R187); with none on probation a staged candidate comes into force and goes on probation (R183). -/
def Obligations.TurnAdvancesTheEpoch : Prop :=
  ∀ (s : State) (job e : Nat), MemOk s → (s.job job).turnPending = some e →
    (s.fwPaused = true → exec (.turn job) s = .next s) ∧
    (∀ d, s.fwPaused = false → s.dirBase job = some d → s.latchedBefore job e = true → exec (.turn job) s = .next s) ∧
    (∀ d, s.fwPaused = false → s.dirBase job = some d → s.latchedBefore job e = false →
      ∃ t, exec (.turn job) s = .next t ∧ (t.job job).turnsDone = e + 1 ∧ (t.job job).turnPending = none ∧
        (∀ j, j ≠ job → t.job j = s.job j) ∧
        (s.dirBases job = [d] → t.devNat (d + 12) 4 = (e + 1) % 2 ^ 32 ∧ t.devNat (d + 8) 4 = (s.devNat (d + 8) 4 + 1) % 2 ^ 32) ∧
        (∀ g k, (1 ≤ e ∧ g ∈ s.jobEngines job ∧ ∃ y ∈ s.dirEntries d, y.auto = true ∧ k = y.slot / 2 * 2 + (e + 1) % 2) →
          (t.engine g).stat k = StatSlot.fresh) ∧
        (∀ g k, ¬ (1 ≤ e ∧ g ∈ s.jobEngines job ∧ ∃ y ∈ s.dirEntries d, y.auto = true ∧ k = y.slot / 2 * 2 + (e + 1) % 2) →
          (t.engine g).stat k = (s.engine g).stat k) ∧
        (∀ g m r, (t.engine g).row m r = (s.engine g).row m r) ∧
        Only [.badWords, .engines, .flags, .jobs, .me, .mem, .softWords] s t) ∧
    (s.fwPaused = false → s.dirBase job = none →
      ∃ t, exec (.turn job) s = .next t ∧ (t.job job).turnsDone = e + 1 ∧ (t.job job).turnPending = none ∧
        (∀ j, j ≠ job → t.job j = s.job j) ∧ Only [.jobs] s t) ∧
    (∀ (d w a : Nat) (y : DirEntry) (T : Table), s.fwPaused = false → s.dirBase job = some d → s.dirBases job = [d] → s.latchedBefore job e = false →
      (s.job job).adaptDir = false → s.dirEntries d = [y] → y.table = some w → y.links = [] → s.replicas job w 64 = [a] → T = s.tableAt a →
      T.cur ≤ 1 → 8 ≤ T.body → T.body ≤ T.stride → (a + T.copyOff 2 + T.body ≤ d ∨ d + 0x2000 ≤ a) → farBehind e T.since = false →
      ∃ t, exec (.turn job) s = .next t ∧
        (∀ stays changes : Prop,
          (stays ↔ ∀ b, a ≤ b → b < a + T.copyOff 2 + T.body → t.mem.read 0 b = s.mem.read 0 b) →
          (changes ↔ t.devNat (a + 8) 4 = (e + 1) % 2 ^ 32 ∧ t.devNat (a + 12) 1 = 1 - T.cur ∧
            ∀ b, a ≤ b → b < a + T.copyOff 2 + T.body → (b < a + 8 ∨ a + 16 ≤ b) →
              (b < a + T.copyOff (1 - T.cur) ∨ a + T.copyOff (1 - T.cur) + T.body ≤ b) → t.mem.read 0 b = s.mem.read 0 b) →
          (y.auto = true ∨ y.learned = true → T.copies ≠ 2 → t.devNat (d + 16) 2 = 2 ∧ t.devNat (d + 18) 2 = 0 ∧ stays) ∧
          (y.learned = true → T.copies = 2 → s.staged y = true →
            t.devGet (a + T.copyOff (1 - T.cur)) T.body = s.copyBytes T 2 ∧ t.devNat (d + 108) 4 = (s.flag y.stage).gen.toNat ∧
            ((s.flag (y.stage + 1)).poison = false → (t.flag (y.stage + 1)).gen = (s.flag (y.stage + 1)).gen + 1) ∧ changes) ∧
          (∀ (x : SlotSum) (old : Nat) (was raw new : Val), y.auto = true → (y.learned = false ∨ s.staged y = false) → T.copies = 2 → 1 ≤ e →
            x = s.slotSum job (y.slot / 2 * 2 + (e + 1) % 2) → old = s.devNat (a + T.copyOff T.cur) 4 → was = val32 old →
            raw = (if y.clipHi * x.count < x.clips * 2 ^ 32 ∨ y.mseHi * x.count < x.sse then fmul was (.fin false 9 8 0)
              else if x.clips * 2 ^ 32 < y.clipLo * x.count ∧ x.sse ≤ y.mseHi * x.count then fmul was (.fin false 15 16 0)
              else was) →
            new = fmin (fmax raw (val32 y.sMin)) (val32 y.sMax) →
            (x.conflict = true → t.devNat (d + 16) 2 = 3 ∧ t.devNat (d + 18) 2 = 0 ∧ stays) ∧
            (x.conflict = false → x.saturated = true → t.devNat (d + 16) 2 = 1 ∧ t.devNat (d + 18) 2 = 0 ∧ stays) ∧
            (x.conflict = false → x.saturated = false → x.count < max y.nMin 1 ∨ new.code32 = old → stays) ∧
            (x.conflict = false → x.saturated = false → max y.nMin 1 ≤ x.count → new.code32 ≠ old →
              t.devNat (a + T.copyOff (1 - T.cur)) 4 = new.code32 ∧
              t.devNat (a + T.copyOff (1 - T.cur) + 4) 4 = (fdiv (Val.ofNat 1) new).code32 ∧
              t.devGet (a + T.copyOff (1 - T.cur) + 8) (T.body - 8) = s.devGet (a + T.copyOff T.cur + 8) (T.body - 8) ∧ changes)))) ∧
    (∀ (d a w b q r flag : Nat) (y : DirEntry) (x : AdaptEntry) (T : Table) (p : Probe), s.fwPaused = false → s.dirBase job = some d →
      s.dirBases job = [d] → s.latchedBefore job e = false → (s.job job).adaptDir = true → a = d + 0x1000 → s.dirEntries d = [y] → y.auto = false →
      y.structs = [w] → s.adaptEntries a = [x] → x.scale = y.index → s.replicas job w 64 = [b] → T = s.tableAt b → T.cur ≤ 1 → T.copies = 2 →
      T.body ≤ T.stride → s.replicas job x.base (3 * x.stride) = [q] → x.bytes ≤ x.stride → s.replicas job (s.devNat (a + 16) 4 % 2 ^ 28) 64 = [r] →
      (b + T.copyOff 2 + T.body ≤ d ∨ d + 0x2000 ≤ b) → (q + 3 * x.stride ≤ d ∨ d + 0x2000 ≤ q) → (r + 64 ≤ d ∨ d + 0x2000 ≤ r) →
      (q + 3 * x.stride ≤ b ∨ b + T.copyOff 2 + T.body ≤ q) → (r + 64 ≤ b ∨ b + T.copyOff 2 + T.body ≤ r) → (r + 64 ≤ q ∨ q + 3 * x.stride ≤ r) →
      farBehind e T.since = false → farBehind e x.since = false → flag = s.devNat (a + 12) 2 % 4096 → y.stage < 4095 → flag < 4095 →
      p = s.probe a e →
      ∃ t, exec (.turn job) s = .next t ∧
        (∀ turned same served : Prop,
          (turned ↔ t.devNat (a + 72) 4 = (e + 1) % 2 ^ 32 ∧ t.devNat (a + 76) 1 = 1 - x.cur ∧ t.devNat (b + 8) 4 = (e + 1) % 2 ^ 32 ∧
            t.devNat (b + 12) 1 = 1 - T.cur ∧ t.devNat (a + 20) 1 = 0 ∧ t.devNat (a + 32) 4 = (s.devNat (a + 32) 4 + 1) % 2 ^ 32) →
          (same ↔ t.devGet b 64 = s.devGet b 64) →
          (served ↔ t.devNat (a + 21) 1 = 0 ∧ t.devNat (a + 44) 4 = (s.flag flag).gen.toNat ∧
            ((s.flag (flag + 1)).poison = false → (t.flag (flag + 1)).gen = (s.flag (flag + 1)).gen + 1)) →
          (∀ keep : Bool,
            keep = (p.probation && !p.taint && decide (1 ≤ s.devNat (r + 2) 2) && s.devNat (r + 4) 4 == s.devNat (a + 40) 4 && p.due &&
              (val32 (s.devNat (r + 12) 4)).le (fmul (val32 (s.devNat (r + 8) 4)) (fadd (Val.ofNat 1) (val32 (s.devNat (a + 8) 4))))) →
            p.arrived = true → (p.probation = false ∨ p.due = true) →
            (keep = true → x.probe = true → t.devNat (r + 16) 4 = 0x3F800000 ∧ t.devNat (a + 76) 1 = x.cur ∧ t.devNat (a + 20) 1 = 0 ∧
              t.devNat (a + 28) 4 = (s.devNat (a + 28) 4 + 1) % 2 ^ 32 ∧ same ∧ served) ∧
            (keep = false → x.probe = true → p.probation = true → t.devNat (r + 16) 4 = 0 ∧ turned ∧ served) ∧
            (p.probation = false → t.devNat (r + 16) 4 = 0 ∧ t.devNat (a + 20) 1 = s.devNat (a + 20) 1 ∧ same ∧ served ∧
              (s.devNat r 2 = 8 → p.taint = false → t.devNat (a + 22) 1 = 4)) ∧
            (s.devNat r 2 ≠ 8 → p.taint = false → t.devNat (a + 22) 1 = 5) ∧ (p.taint = true → t.devNat (a + 22) 1 = 3)) ∧
          ((p.arrived = false ∨ (p.probation = true ∧ p.due = false)) → p.probation = true → p.overdue = true → x.probe = true →
            t.devNat (a + 21) 1 = 1 ∧ t.devNat (a + 22) 1 = 2 ∧ turned) ∧
          (p.arrived = false → p.probation = false → p.taint = false → s.staged y = true →
            t.devGet (q + (1 - x.cur) * x.stride) x.bytes = s.devGet (q + 2 * x.stride) x.bytes ∧
            t.devGet (b + T.copyOff (1 - T.cur)) T.body = s.copyBytes T 2 ∧ t.devNat (b + 8) 4 = (e + 1) % 2 ^ 32 ∧ t.devNat (b + 12) 1 = 1 - T.cur ∧
            t.devNat (a + 72) 4 = (e + 1) % 2 ^ 32 ∧ t.devNat (a + 76) 1 = 3 - x.cur ∧ t.devNat (a + 20) 1 = 1 ∧
            t.devNat (a + 24) 4 = (s.devNat (a + 24) 4 + 1) % 2 ^ 32 ∧ t.devNat (a + 36) 4 = (e + 1) % 2 ^ 32 ∧
            t.devNat (a + 40) 4 = (s.flag y.stage).gen.toNat ∧
            ((s.flag (y.stage + 1)).poison = false → (t.flag (y.stage + 1)).gen = (s.flag (y.stage + 1)).gen + 1))))

/-! ### The engines' operations and the units of the dies and the hub -/

/-- The five NE, seven VE and five XP operations of one engine (R90 to R100, R102, R103, R128, R140, R143, R147, R149, R153, R432). Of the command that its unit
can start: on a poisoned wait, or a poisoned landing flag, it ends FAILED_ECC, and on a fetch descriptor with an uncorrectable word FAILED_ECC 0x30 (R283); one whose fetch passes its check, has not
landed and is not in flight issues it. With a failing check the command ends with that of the
lowest CAUSE, and no row changes and no byte is written; with none, it ends FAILED_ECC when a row it reads is poisoned or a word uncorrectable, and else OK,
and then leaves in its context exactly the accumulator rows and in memory exactly the bytes that its work gives. Rows of other slots and engines, and all other
bytes but a trace record's, a corrected error's log entry and, of a bound frame, its tile entry's, stay. One whose tile index is not its step's is never
ranked, and ends with the lowest CAUSE of its checks. That a poisoned row gives CAUSE 0x31 also where a word is uncorrectable, and that the first bad range and its lowest word decide
between several, is the model's reading (assumption 19, DEDUCED). -/
def Obligations.EngineOperationsComplete : Prop :=
  ∀ (i : Nat → Instr) (op : Nat) (work : State → Cmd → Nat → Nat → Work),
    (i, op, work) ∈ [(Instr.neGemm, 0x1001, State.gemmWork), (.neAccClear, 0x1002, State.accClearWork), (.neAccDrain, 0x1003, State.accDrainWork),
      (.neAccStore, 0x1004, State.accStoreWork), (.neAccLoad, 0x1005, State.accLoadWork), (.veEwise, 0x2001, State.ewiseWork),
      (.veFunc, 0x2002, State.funcWork), (.veReduce, 0x2003, State.reduceWork), (.veKsel, 0x2004, State.kselWork),
      (.veDwconv, 0x2005, State.dwconvWork), (.veMerge, 0x2006, State.mergeWork), (.veOptim, 0x2007, State.optimWork),
      (.xpExpand, 0x3001, State.expandWork), (.xpS2c, 0x3002, State.s2cWork), (.xpC2s, 0x3003, State.c2sWork),
      (.xpUpsample, 0x3004, State.upsampleWork), (.xpCopy, 0x3005, State.xpCopyWork)] →
    ∀ (s : State) (uid : Nat),
      (∀ (c : Cmd) (g k : Nat) (w : Work), s.startable uid op = some (c, g, k) → w = work s c g k →
        (s.waitPoisoned c = true ∨ (s.landed c g = true ∧ s.fetchPoisoned c g = true) →
          (s.waitPoisoned c = false → s.badDesc c g = none) →
          ∃ t, exec (i uid) s = .next t ∧ t.cmd? uid = some { c with place := .ended .ecc 0 } ∧
            Only [.cmds, .ctrs, .engines, .hostMem, .msix, .now, .pages] s t) ∧
        (∀ a, s.waitPoisoned c = false → s.badDesc c g = some a →
          ∃ t d, exec (i uid) s = .next t ∧ t.cmd? uid = some { c with place := .ended .ecc 0x30, fault := some d } ∧ d.addr = a ∧ d.commands = 1 ∧
            Only [.cmds, .ctrs, .engines, .hostMem, .msix, .now, .pages] s t) ∧
        (s.waitPoisoned c = false → s.badDesc c g = none → s.landed c g = false → s.fetchFails c g = [] →
          ∃ t d a, s.fetchDesc c g = some d ∧ s.addr c g d.dst d.length = some a ∧ exec (i uid) s = .next t ∧
            t.fetches = s.fetches ++ [⟨g, c.job, d.flag, d.gen, c.uid, d.src, a, d.length, s.hasMoved c⟩] ∧
            Only [.badWords, .ctrs, .engines, .fetches, .hostMem, .log, .mem, .msix, .now, .pages, .regs, .softWords] s t) ∧
        (s.waitPoisoned c = false → s.badDesc c g = none →
          (s.landed c g = true ∧ s.fetchPoisoned c g = false) ∨ (s.landed c g = false ∧ s.fetchFails c g ≠ []) →
          (∀ f, lowestCause (s.commonFails c g ++ w.fails) = some f →
            ∃ t, exec (i uid) s = .next t ∧ t.cmd? uid = some { c with place := .ended f.1 f.2 } ∧ (∀ v, v ≠ uid → t.cmd? v = s.cmd? v) ∧
              (∀ h m r, (t.engine h).row m r = (s.engine h).row m r) ∧ Only [.cmds, .ctrs, .engines, .hostMem, .msix, .now, .pages] s t) ∧
          (lowestCause (s.commonFails c g ++ w.fails) = none → (w.rowsRead.any fun r => ((s.engine g).row k r).poison) = true →
            ∃ t d, exec (i uid) s = .next t ∧ t.cmd? uid = some { c with place := .ended .ecc 0x31, fault := some d } ∧
              (∀ h m r, (t.engine h).row m r = (s.engine h).row m r)) ∧
          (∀ b, lowestCause (s.commonFails c g ++ w.fails) = none → (w.rowsRead.any fun r => ((s.engine g).row k r).poison) = false →
            s.badRead w.reads = some b →
            ∃ t d, exec (i uid) s = .next t ∧ t.cmd? uid = some { c with place := .ended .ecc b.1, fault := some d } ∧ d.addr = b.2) ∧
          (lowestCause (s.commonFails c g ++ w.fails) = none → (w.rowsRead.any fun r => ((s.engine g).row k r).poison) = false →
            s.badRead w.reads = none →
            ∃ t, exec (i uid) s = .next t ∧ t.cmd? uid = some { c with place := .ended .ok 0 } ∧ (∀ v, v ≠ uid → t.cmd? v = s.cmd? v) ∧
              (∀ m r, (t.engine g).row m r = ((s.engine g).putRows k w.rows).row m r) ∧
              (∀ h m r, h ≠ g → (t.engine h).row m r = (s.engine h).row m r) ∧
              t.mem = (((((((s.select g k).starts c).spendIssue g (g / 2)).synth c).loadAhead c g).correctWork c g w.reads).putAll w.writes).mem ∧
              ((s.reg .perf 0x40 0x080).testBit 31 = false → s.softWords = [] → (∀ x, s.stepOf c = some x → x.frame = none) →
                t.mem = (s.putAll w.writes).mem) ∧
              Only [.badWords, .cmds, .ctrs, .engines, .freeCount, .hostMem, .issue, .log, .mem, .msix, .now, .pages, .regs, .softWords, .traceAt,
                .traceFill, .traceGap] s t))) ∧
      (∀ (c : Cmd) (g : Nat), s.startable uid op = none → s.unranked uid op = some (c, g) →
        (s.waitPoisoned c = true →
          ∃ t, exec (i uid) s = .next t ∧ t.cmd? uid = some { c with place := .ended .ecc 0 } ∧ Only [.cmds, .engines] s t) ∧
        (s.waitPoisoned c = false → ∃ t f, lowestCause (s.commonFails c g ++ (work s c g 0).fails) = some f ∧ exec (i uid) s = .next t ∧
          t.cmd? uid = some { c with place := .ended f.1 f.2 } ∧ Only [.cmds, .engines] s t))

/-- NE_ACC_CLEAR (R98, R84). The rows from ROW0 on become zero in every column, take the type of the command, and lose their poison; every other row
of the context is as it was, and memory holds nothing new but a trace record and, of a bound frame, the tile entry.
And the values that the numbers and the operations of an engine have. A finite value n/d is narrowed to an integer format to the nearest integer, ties to even, held to the format's
range, with a clip where it lies outside (R118); infinities saturate and a NaN is 0; an integer of the format has its own code. A code of a float format that is no NaN is what its value narrows to (R114, R118). A sum, a
difference and a product of integers is the exact one, rounded once (R78). VE_EWISE on F32 operands without a scale tensor writes the function of its elements, one by one (R100). An NE_GEMM of one pass in the I8 format with
CLEAR leaves in column n of the row of vector j the sum of (input − zero point) × weight, held to 32 bits (R78, R94, R121, R122). XP_S2C moves element (c, Y × F_y + dy, X × F_x + dx) to (Y, X)
of channel c × F_x × F_y + dy × F_x + dx (R103, R147). -/
def Obligations.AccumulatorRowsAndValuesFollowTheirRules : Prop :=
  (∀ (s : State) (uid : Nat) (c : Cmd) (g k : Nat), s.startable uid 0x1002 = some (c, g, k) → s.waitPoisoned c = false → s.badDesc c g = none →
    s.landed c g = true → s.fetchPoisoned c g = false → s.commonFails c g = [] →
    c.rsvdZero [(24, 0xFFFFFFFF), (28, 0xFF)] = true → 1 ≤ c.num 26 2 → c.num 24 2 + c.num 26 2 ≤ 256 → c.num 28 1 ≤ 1 →
    ∃ t, exec (.neAccClear uid) s = .next t ∧ t.cmd? uid = some { c with place := .ended .ok 0 } ∧
      (∀ r, c.num 24 2 ≤ r → r < c.num 24 2 + c.num 26 2 →
        (∀ n, ((t.engine g).row k r).cell n = 0) ∧ ((t.engine g).row k r).float = (c.num 28 1 == 1) ∧ ((t.engine g).row k r).poison = false) ∧
      (∀ m r, r < 512 → (m ≠ k ∨ r < c.num 24 2 ∨ c.num 24 2 + c.num 26 2 ≤ r) → (t.engine g).row m r = (s.engine g).row m r) ∧
      t.mem = ((((s.select g k).starts c).spendIssue g (g / 2)).synth c).mem ∧
      Only [.badWords, .cmds, .ctrs, .engines, .freeCount, .hostMem, .issue, .mem, .msix, .now, .pages, .regs, .softWords, .traceAt, .traceFill,
        .traceGap] s t) ∧
  (∀ (f : Fmt) (lo hi : Int), f.intRange = some (lo, hi) →
    (∀ (neg : Bool) (n d m : Nat) (x : Int), 0 < d →
      (2 * ((n : Int) - m * d).natAbs < d ∨ (2 * ((n : Int) - m * d).natAbs = d ∧ m % 2 = 0)) → x = (if neg then -(m : Int) else m) →
      (f.narrow 0 (.fin neg n d 0)).code = toCode f.bits (max lo (min hi x)) ∧ ((f.narrow 0 (.fin neg n d 0)).clip = true ↔ x < lo ∨ hi < x)) ∧
    (∀ neg : Bool, (f.narrow 0 (.inf neg)).code = toCode f.bits (if neg then lo else hi) ∧ (f.narrow 0 (.inf neg)).clip = true) ∧
    (f.narrow 0 .nan).code = 0 ∧ (f.narrow 0 .nan).clip = true ∧
    (∀ x : Int, lo ≤ x → x ≤ hi → f.value (toCode f.bits x) = Val.ofInt x)) ∧
  (∀ ff ∈ [f8a, f8b, f16, bf16, f32], ∀ code, code < 2 ^ ff.width → (ff.decode code).isNan = false → ff.narrow (ff.decode code) = (code, false)) ∧
  (∀ a b : Int, fadd (Val.ofInt a) (Val.ofInt b) = (Val.ofInt (a + b)).r32 ∧
    (a ≠ b → fsub (Val.ofInt a) (Val.ofInt b) = (Val.ofInt (a - b)).r32) ∧
    (a * b ≠ 0 → fmul (Val.ofInt a) (Val.ofInt b) = (Val.ofInt (a * b)).r32)) ∧
  (∀ (s : State) (c : Cmd) (g k : Nat) (x y z : Nat → Val),
    c.fmtField 24 = 0xA → c.fmtField 28 = 0xA → (c.opfn % 8 = 3 → c.fmtField 32 = 0xA) → c.fmtField 36 = 0xA → c.veScale = 0 → c.opfn % 8 < 6 →
    (s.ewiseWork c g k).fails = [] →
    (∀ n, x n = val32 (s.devNat (s.place c g (c.addrField 24) 1 + 4 * n) 4)) → (∀ n, y n = val32 (s.devNat (s.place c g (c.addrField 28) 1 + 4 * n) 4)) →
    (∀ n, z n = val32 (s.devNat (s.place c g (c.addrField 32) 1 + 4 * n) 4)) →
    (s.ewiseWork c g k).writes = [(s.place c g (c.addrField 36) 1, (List.range c.veCount).flatMap fun n => leBytes 4 (Val.code32
      (if c.opfn % 8 = 0 then fadd (x n) (y n) else if c.opfn % 8 = 1 then fsub (x n) (y n) else if c.opfn % 8 = 2 then fmul (x n) (y n)
       else if c.opfn % 8 = 3 then ffma (x n) (y n) (z n) else if c.opfn % 8 = 4 then fmax (x n) (y n) else fmin (x n) (y n))))]) ∧
  (∀ (s : State) (c : Cmd) (g k : Nat) (x : Gemm) (st : Table), x = c.gemm → x.inFmt = 0x2 → x.wFmt = 0x2 → x.kpass = 1 → x.clear = true → x.drain = false →
    x.transpose = false → (s.job c.job).adaptDir = false → s.table? c g x.scale = some st → (s.gemmWork c g k).fails = [] →
    ∀ j, j < x.vectors → ∃ row, (x.accBase + j, row) ∈ (s.gemmWork c g k).rows ∧ row.float = false ∧ row.poison = false ∧
      ∀ n, n < x.n → row.cell n = toCode 32 (max (-2147483648) (min 2147483647
        ((List.range x.kLast).map fun e =>
          (signed 8 (s.devNat (s.place c g x.inAddr 1 + j * x.inPitch + e) 1) - max (-128) (min 127 (s.scaleEntry st c.epoch (st.index j)).2)) *
            signed 8 (s.devNat (s.place c g x.wAddr 1 + n * 512 + e) 1)).sum))) ∧
  (∀ (s : State) (c : Cmd) (g k : Nat) (x : Xp), x = c.xp → x.fmt = 0x3 → x.dstFmt = 0x3 → (s.s2cWork c g k).fails = [] →
    (s.s2cWork c g k).writes.length = x.c * x.factorX * x.factorY * (x.h / x.factorY) ∧
    ∀ ch row dy col dx, ch < x.c → row < x.h / x.factorY → dy < x.factorY → col < x.w / x.factorX → dx < x.factorX →
      ∃ bs, (s.place c g x.dst 1 + ((ch * x.factorX * x.factorY + dy * x.factorX + dx) * (x.h / x.factorY) + row) * x.dstPitch, bs) ∈
          (s.s2cWork c g k).writes ∧
        bs.length = x.w / x.factorX ∧
        (bs.getD col 0).toNat = s.devNat (s.place c g x.src 1 + (ch * x.h + row * x.factorY + dy) * x.srcPitch + col * x.factorX + dx) 1)

/-- VE_XREDUCE (R100, R306 to R309, R316, R437). A command that passes its checks joins its collective with its leaves, and waits while a peer that it names has not joined; one with a failing
check ends with the lowest CAUSE, one whose fetch descriptor cannot be read FAILED_ECC 0x30, and one with a peer on a lost die FAILED_DIE_LOST. With the last peer the collective has its sum: of leaves whose
indices are 0 to L − 1 with L at most 64, and of one COUNT and one DST format, and otherwise it fails with CAUSE 0x02 (R306). The sum takes the canonical tree, whose node i of the next level is node 2i + node
(2i + 1), or node 2i alone (R307); on an H8A outside REPRO mode, and with ORDER 1 and V set at every peer, it takes the placement order (R308, R309). A command whose collective has its sum ends OK and counts in XRED_COUNT, with the sum narrowed to
DST, and marks its job where the sum took the placement order; one whose collective has failed ends with that failure and writes nothing. -/
def Obligations.XreduceEndsWithItsCollective : Prop :=
  (∀ (s : State) (uid : Nat) (c : Cmd) (g k : Nat), s.startable uid 0x2008 = some (c, g, k) → s.waitPoisoned c = false → s.landed c g = true →
    (∀ x, s.colls.find? (fun y => y.joined.any fun p => p.uid == c.uid) = some x →
      (∀ v, x.fail = none → x.sum = some v →
        ∃ t, exec (.veXreduce uid) s = .next t ∧
          t.cmd? uid = some { c with place := .ended .ok 0, progress := if x.placed then 2 else c.progress } ∧
          (∀ u, u ≠ uid → t.cmd? u = s.cmd? u) ∧ t.mem = (s.putAll (s.xreducePut c g v).writes).mem ∧
          (∀ h m r, (t.engine h).row m r = (s.engine h).row m r) ∧
          t.reg .ve g 0x04C = min (s.reg .ve g 0x04C + 1) (2 ^ 32 - 1) ∧ (x.placed = true → (t.job c.job).placed = true) ∧
          (x.placed = false → t.jobs = s.jobs) ∧
          Only [.badWords, .cmds, .colls, .ctrs, .engines, .hostMem, .jobs, .mem, .msix, .now, .pages, .regs, .softWords] s t) ∧
      (∀ f, x.fail = some f →
        ∃ t, exec (.veXreduce uid) s = .next t ∧ t.cmd? uid = some { c with place := .ended f.1 f.2 } ∧ (∀ u, u ≠ uid → t.cmd? u = s.cmd? u) ∧
          Only [.cmds, .colls, .ctrs, .engines, .hostMem, .msix, .now, .pages] s t)) ∧
    (∀ a, s.colls.find? (fun y => y.joined.any fun p => p.uid == c.uid) = none → s.badDesc c g = some a →
      ∃ t d, exec (.veXreduce uid) s = .next t ∧ t.cmd? uid = some { c with place := .ended .ecc 0x30, fault := some d } ∧ d.addr = a ∧
        Only [.cmds, .ctrs, .engines, .hostMem, .msix, .now, .pages] s t) ∧
    (s.colls.find? (fun y => y.joined.any fun p => p.uid == c.uid) = none → s.badDesc c g = none → s.fetchPoisoned c g = false →
      (∀ f, lowestCause (s.commonFails c g ++ s.xreduceFails c g) = some f →
        ∃ t, exec (.veXreduce uid) s = .next t ∧ t.cmd? uid = some { c with place := .ended f.1 f.2 } ∧
          Only [.cmds, .ctrs, .engines, .hostMem, .msix, .now, .pages] s t) ∧
      (lowestCause (s.commonFails c g ++ s.xreduceFails c g) = none →
        ((s.collPeers c).any fun e => !s.dieUsable (e / 2)) = true →
        ∃ t, exec (.veXreduce uid) s = .next t ∧ t.cmd? uid = some { c with place := .ended .dieLost 0 } ∧
          Only [.cmds, .ctrs, .engines, .hostMem, .msix, .now, .pages] s t) ∧
      (lowestCause (s.commonFails c g ++ s.xreduceFails c g) = none → (∀ e ∈ s.collPeers c, s.dieUsable (e / 2) = true) →
        s.badRead (s.leafReads c g) = none → (∀ x, s.collFor c g (s.collMask c) = some x → x.fail = none ∧ x.sum = none ∧ x.placed = false) →
        ∀ (S : State) (ps : List CollPeer) (ls : List (Nat × List Nat)),
          S = (((s.select g k).starts c).spendIssue g (g / 2)).correctWork c g (s.leafReads c g) →
          ps = ((s.collFor c g (s.collMask c)).elim [] Coll.joined) ++
            [⟨g, c.uid, c.veCount, c.fmtField 36, c.num 57 1 == 1 && c.vFlag, S.leavesOf c g⟩] →
          ls = ps.flatMap CollPeer.leaves →
          ((∃ e ∈ s.collPeers c, ∀ p ∈ ps, p.engine ≠ e) →
            ∃ t, exec (.veXreduce uid) s = .next t ∧ t.cmd? uid = some { c with progress := 1 } ∧
              (∃ x ∈ t.colls, x.job = c.job ∧ x.joined = ps ∧ x.sum = none ∧ x.fail = none) ∧
              Only [.badWords, .cmds, .colls, .ctrs, .engines, .freeCount, .hostMem, .issue, .log, .mem, .msix, .now, .pages, .regs, .softWords, .traceAt,
                .traceFill, .traceGap] s t) ∧
          ((∀ e ∈ s.collPeers c, ∃ p ∈ ps, p.engine = e) →
            (leavesSound ls = true → (∀ p ∈ ps, p.count = c.veCount ∧ p.dst = c.fmtField 36) →
              ∃ t d, exec (.veXreduce uid) s = .next t ∧ t.cmd? uid = some d ∧ d.place = .ended .ok 0 ∧ d.pkt = c.pkt ∧
                (s.variant = .h8a ∧ (s.job c.job).repro = false ∧ (∀ p ∈ ps, p.placed = true) →
                  t.mem = (S.putAll (s.xreducePut c g (placement ps)).writes).mem ∧ (t.job c.job).placed = true) ∧
                (s.variant ≠ .h8a ∨ (s.job c.job).repro = true ∨ (∃ p ∈ ps, p.placed = false) →
                  t.mem = (S.putAll (s.xreducePut c g (canonical ((List.range ls.length).map (leafAt ls)))).writes).mem ∧ t.jobs = s.jobs)) ∧
            (leavesSound ls = false ∨ (∃ p ∈ ps, ∃ q ∈ ps, p.count ≠ q.count ∨ p.dst ≠ q.dst) →
              ∃ t d, exec (.veXreduce uid) s = .next t ∧ t.cmd? uid = some d ∧ d.place = .ended .badOperand 0x02 ∧ t.mem = S.mem))))) ∧
  (∀ a, canonical [a] = a) ∧
  (∀ xs : List (List Nat), 2 ≤ xs.length →
    ∃ ys : List (List Nat), ys.length = (xs.length + 1) / 2 ∧ canonical xs = canonical ys ∧
      ∀ i, i < ys.length → ys[i]? = (match xs[2 * i]?, xs[2 * i + 1]? with
        | some a, some b => some (List.zipWith (fun x y => (fadd (val32 x) (val32 y)).code32) a b)
        | a, _ => a))

/-- POST_DECODE and POST_SUPPRESS (R157, R158, R161 to R164, R166, R292). Of the command at the head of its die's queue: on a poisoned wait or landing flag it ends FAILED_ECC, on a
fetch descriptor with an uncorrectable word FAILED_ECC 0x30, and one whose fetch passes its check and has not landed issues it. With a failing check it ends with the lowest CAUSE and writes nothing. With none, a write to the hub
waits while its modules are trained and ends FAILED_LINK without a route; an uncorrectable word among what it reads ends it FAILED_ECC; else it ends OK, its list is written, its header last, and
CAND_COUNT, BOX_COUNT and, when the list is truncated, TRUNC_COUNT count. -/
def Obligations.PostOperationsComplete : Prop :=
  ∀ (i : Nat → Instr) (op : Nat) (work : State → Cmd → PostWork),
    (i, op, work) ∈ [(Instr.postDecode, 0x2801, State.decodeWork), (.postSuppress, 0x2802, State.suppressWork)] →
    ∀ (s : State) (uid : Nat) (c : Cmd) (w : PostWork), s.postHead uid op = some c → w = work s c →
      (s.waitPoisoned c = true ∨ (s.landed c c.compiledEngine = true ∧ s.fetchPoisoned c c.compiledEngine = true) →
        (s.waitPoisoned c = false → s.badDesc c c.compiledEngine = none) →
        ∃ t, exec (i uid) s = .next t ∧ t.cmd? uid = some { c with place := .ended .ecc 0 } ∧ Only [.cmds] s t) ∧
      (∀ a, s.waitPoisoned c = false → s.badDesc c c.compiledEngine = some a →
        ∃ t d, exec (i uid) s = .next t ∧ t.cmd? uid = some { c with place := .ended .ecc 0x30, fault := some d } ∧ d.addr = a ∧ d.commands = 1 ∧
          Only [.cmds, .hostMem, .msix, .pages] s t) ∧
      (s.waitPoisoned c = false → s.badDesc c c.compiledEngine = none → s.landed c c.compiledEngine = false → s.fetchFails c c.compiledEngine = [] →
        ∃ t d a, s.fetchDesc c c.compiledEngine = some d ∧ s.addr c c.compiledEngine d.dst d.length = some a ∧ exec (i uid) s = .next t ∧
          t.fetches = s.fetches ++ [⟨c.compiledEngine, c.job, d.flag, d.gen, c.uid, d.src, a, d.length, s.hasMoved c⟩] ∧
          Only [.badWords, .ctrs, .fetches, .hostMem, .log, .mem, .msix, .pages, .regs, .softWords] s t) ∧
      (s.waitPoisoned c = false → s.badDesc c c.compiledEngine = none →
        (s.landed c c.compiledEngine = true ∧ s.fetchPoisoned c c.compiledEngine = false) ∨
          (s.landed c c.compiledEngine = false ∧ s.fetchFails c c.compiledEngine ≠ []) →
        (∀ f, lowestCause (s.commonFails c c.compiledEngine ++ w.fails) = some f →
          ∃ t, exec (i uid) s = .next t ∧ t.cmd? uid = some { c with place := .ended f.1 f.2 } ∧ (∀ v, v ≠ uid → t.cmd? v = s.cmd? v) ∧
            Only [.cmds] s t) ∧
        (lowestCause (s.commonFails c c.compiledEngine ++ w.fails) = none →
          (s.postRoute c = 1 → exec (i uid) s = .next s) ∧
          (s.postRoute c = 0 → ∃ t, exec (i uid) s = .next t ∧ t.cmd? uid = some { c with place := .ended .link 0x21 }) ∧
          (∀ b, 2 ≤ s.postRoute c → s.badRead w.reads = some b →
            ∃ t d, exec (i uid) s = .next t ∧ t.cmd? uid = some { c with place := .ended .ecc b.1, fault := some d } ∧ d.addr = b.2) ∧
          (2 ≤ s.postRoute c → s.badRead w.reads = none →
            ∃ t, exec (i uid) s = .next t ∧ t.cmd? uid = some { c with place := .ended .ok 0 } ∧ (∀ v, v ≠ uid → t.cmd? v = s.cmd? v) ∧
              t.mem = ((((s.starts c).spendIssue (postAccount c.postDie) c.postDie).correctReads .post c.postDie
                (w.reads.map fun r => (r.1, r.2.1))).putAll (w.body ++ w.header)).mem ∧
              ((s.reg .perf 0x40 0x080).testBit 31 = false → s.softWords = [] →
                t.mem = (s.putAll (w.body ++ w.header)).mem ∧
                t.reg .post c.postDie 0x048 = min (s.reg .post c.postDie 0x048 + w.cands) (2 ^ 32 - 1) ∧
                t.reg .post c.postDie 0x04C = min (s.reg .post c.postDie 0x04C + w.boxes) (2 ^ 32 - 1) ∧
                t.reg .post c.postDie 0x050 = min (s.reg .post c.postDie 0x050 + (if w.trunc then 1 else 0)) (2 ^ 32 - 1) ∧
                (∀ o, o ∉ [Blk.base .post c.postDie + 0x048, Blk.base .post c.postDie + 0x04C, Blk.base .post c.postDie + 0x050] →
                  t.regs.find? o = s.regs.find? o)) ∧
              Only [.badWords, .cmds, .ctrs, .freeCount, .hostMem, .issue, .log, .mem, .msix, .pages, .regs, .softWords, .traceAt, .traceFill,
                .traceGap] s t)))

/-- DMA_COPY and DMA_CHANNEL_DISABLE (R292, R340, R341, R358, R432). The command that its channel runs next: on a poisoned wait it ends FAILED_ECC; with a failing check it ends with the
lowest CAUSE; while a route that it needs is held it waits; else it ends as its list of descriptors does, OK when every one has run. A list of one descriptor of one row between
device addresses, without an error in its way, leaves the source's bytes at the destination, changes no other byte, and the channel counts them. Disabling an enabled channel ends
its queued commands FAILED_UNIT_DISABLED. -/
def Obligations.DmaCopyMovesItsBytes : Prop :=
  ∀ (s : State),
    (∀ (c : Cmd) (k : Nat), s.cmd? c.uid = some c → c.place = .queued (.dma k) → s.dmaNext k = some c →
      (s.waitPoisoned c = true →
        ∃ t, exec (.dmaCopy c.uid) s = .next t ∧ t.cmd? c.uid = some { c with place := .ended .ecc 0 } ∧ Only [.cmds, .engines] s t) ∧
      (∀ f, s.waitPoisoned c = false → lowestCause (s.dmaCopyFails c) = some f →
        ∃ t, exec (.dmaCopy c.uid) s = .next t ∧ t.cmd? c.uid = some { c with place := .ended f.1 f.2 } ∧ Only [.cmds, .engines] s t) ∧
      (s.waitPoisoned c = false → s.dmaCopyFails c = [] → s.dmaHeld c = true →
        ∃ t, exec (.dmaCopy c.uid) s = .next t ∧ t.cmds = s.cmds ∧ Only [.engines] s t) ∧
      (s.waitPoisoned c = false → s.dmaCopyFails c = [] → s.dmaHeld c = false →
        ∃ t, exec (.dmaCopy c.uid) s = .next t ∧
          (∃ d, t.cmd? c.uid = some d ∧ d.pkt = c.pkt ∧
            d.place = match ((s.starts c).runList c.job k (c.num 8 8) ((c.num 19 1).testBit 0) 0 (c.num 16 2)).2 with
              | some f => .ended f.1 f.2
              | none => .ended .ok 0) ∧
          (∀ v, v ≠ c.uid → t.cmd? v = s.cmd? v) ∧
          (∀ d : DmaDesc, MemOk s → (s.reg .perf 0x40 0x080).testBit 31 = false → s.softWords = [] → c.num 16 2 = 1 →
            (c.num 19 1).testBit 0 = false → s.listGone (c.num 8 8) false = none → s.badIn (c.num 8 8) 32 = false → dmaDesc (s.devGet (c.num 8 8) 32) = d → s.dmaFails d = [] →
            d.rows = 1 → d.fill = false → d.srcHost = false → d.dstHost = false → s.onLostDie d.src d.length = false →
            s.onLostDie d.dst d.length = false → s.descRoute d ≠ 0 → s.badIn d.src d.length = false →
            t.cmd? c.uid = some { c with place := .ended .ok 0 } ∧
            t.mem.readRun 0 d.dst (s.devGet d.src d.length).length = s.devGet d.src d.length ∧
            (∀ a, a < d.dst ∨ d.dst + (s.devGet d.src d.length).length ≤ a → t.mem.read 0 a = s.mem.read 0 a) ∧
            (t.channel k).bytes = (s.channel k).bytes + d.length) ∧
          Only [.badWords, .cmds, .ctrs, .dma, .engines, .freeCount, .hostMem, .log, .mem, .msix, .pages, .regs, .softWords, .traceAt, .traceFill,
            .traceGap] s t)) ∧
    (∀ k, k < 8 → s.hostWrites .dma 0 = true → (s.channel k).en = true →
      ∃ t, exec (.dmaChannelDisable k) s = .next t ∧ (t.channel k).en = false ∧ (∀ j, j ≠ k → t.channel j = s.channel j) ∧
        (∀ c ∈ s.cmds, c.place = .queued (.dma k) → { c with place := .ended .unitDisabled 0 } ∈ t.cmds) ∧
        (∀ c ∈ t.cmds, c.place ≠ .queued (.dma k)) ∧ Only [.cmds, .dma, .engines, .pages] s t) ∧
    (∀ k, 8 ≤ k ∨ s.hostWrites .dma 0 = false → exec (.dmaChannelDisable k) s = .next s)

/-- HINT_PHASE (R408). Executed at acceptance, in the SEQ order of its aperture and waiting for nothing else: a pending hint with its completion entry ends 0.1 µs after its
acceptance. With a LEVEL above 7, a LENGTH_US of 0 or another field outside its range it ends with CAUSE 0x02, with a nonzero RSVD byte with 0x04, in RECOVERY FAILED_VERSION,
and it is not in force then; else it ends OK, and outside HOLD it is in force for the present dies it names: while it is, the point that the power manager chooses for such a
die is at least its LEVEL, clamped to the highest valid point, and during its lead time its energy and length enter the window mean of R404. Without an entry, or behind an
earlier hint of its aperture, it waits. -/
def Obligations.HintPhaseTakesEffectAtOnce : Prop :=
  ∀ (s : State) (c : Cmd), s.cmd? c.uid = some c → c.opcode = 0x8001 → c.place = .pending → s.stopped = false →
    ((s.freeEntry c.ring = none ∨ s.hintBefore c = true) → exec (.hintPhase c.uid) s = .next s) ∧
    (∀ e, s.freeEntry c.ring = some e → s.hintBefore c = false →
      ∃ t, exec (.hintPhase c.uid) s = .next t ∧ (∀ v, v ≠ c.uid → t.cmd? v = s.cmd? v) ∧
        t.now = laterTime s.now ((c.acceptedAt + 10) % 2 ^ 64) ∧
        (s.devState = 6 → t.cmd? c.uid = some { c with place := .ended .version 0, entry := e } ∧ t.pwr = s.pwr) ∧
        (s.devState ≠ 6 → (7 < c.num 10 1 ∨ c.num 16 4 = 0 ∨ 10000 < c.num 12 4 ∨ 1000000 < c.num 16 4) →
          t.cmd? c.uid = some { c with place := .ended .badOperand 0x02, entry := e } ∧ t.pwr = s.pwr) ∧
        (s.devState ≠ 6 → c.num 10 1 ≤ 7 → 1 ≤ c.num 16 4 → c.num 12 4 ≤ 10000 → c.num 16 4 ≤ 1000000 →
          ((c.num 11 1 ≠ 0 ∨ c.num 24 40 ≠ 0) → t.cmd? c.uid = some { c with place := .ended .badOperand 0x04, entry := e } ∧ t.pwr = s.pwr) ∧
          (c.num 11 1 = 0 → c.num 24 40 = 0 → t.cmd? c.uid = some { c with place := .ended .ok 0, entry := e } ∧
            (s.devState = 5 → t.pwr = s.pwr) ∧
            (s.devState ≠ 5 → ∃ h : Hint, t.pwr = { s.pwr with hints := s.pwr.hints ++ [h] } ∧ h.level = c.num 10 1 ∧ h.energy = c.num 20 4 ∧
              h.length = c.num 16 4 ∧ (∀ d, h.dies.testBit d = true ↔ d < Config.dies s.variant ∧ ((c.num 8 2).testBit (2 * d) || (c.num 8 2).testBit (2 * d + 1)) = true) ∧
              h.acceptedAt = c.acceptedAt ∧ h.leadEnd = c.acceptedAt + c.num 12 4 * 100 ∧
              h.start = c.acceptedAt + (c.num 12 4 - 25) * 100 ∧ h.finish = c.acceptedAt + (c.num 12 4 + c.num 16 4) * 100 ∧
              (∀ (u : State) (d : Nat) (ma : Rat), h ∈ u.pwr.hints → h.dies.testBit d = true → timeReached u.now h.start = true →
                timeReached u.now h.finish = false → u.clampPoint d h.level ≤ u.choosePoint d ma) ∧
              (∀ (u v : State) (p1 : Rat), u.pwr.hints = s.pwr.hints ++ [h] → v = { u with pwr := { u.pwr with hints := s.pwr.hints } } →
                timeReached u.now h.acceptedAt = true → timeReached u.now h.leadEnd = false →
                u.hintLead p1 = v.hintLead p1 + max 0 ((h.energy : Rat) - p1 * (h.length : Rat) / 1000000) / (u.windowS : Rat))))) ∧
        Only [.cmds, .now, .pwr] s t)

/-- AUDIT_MEASURE and AUDIT_QUOTE (R312, R321, R397, R437). The audit command at the head of its queue with a failing check ends with the lowest CAUSE. A measurement of a region on a lost
die, or with an uncorrectable word, fails; else the digest of the region extends PROG or WEIGHTS of its job, sealed as the command says, or AUX of its step, and it ends OK; no other job
changes. A quote is left in the quote window and at its address. That one for a lost die is left in the window alone and ends FAILED_DIE_LOST (R437), and that a bad address outside RECOVERY
leaves none, is the model's reading (assumption 46, DEDUCED): the statuses of R312 name neither. -/
def Obligations.AuditMeasuresAndQuotes : Prop :=
  ∀ (s : State) (uid : Nat) (c : Cmd), s.cmd? uid = some c →
    (s.auditHead uid 0x9001 = some c →
      (∀ f, lowestCause (s.measureFails c) = some f →
        ∃ t, exec (.auditMeasure uid) s = .next t ∧ t.cmd? uid = some { c with place := .ended f.1 f.2 } ∧ t.jobs = s.jobs ∧ t.steps = s.steps) ∧
      (s.measureFails c = [] → s.onLostDie (c.num 8 8) (c.num 16 4) = true →
        ∃ t, exec (.auditMeasure uid) s = .next t ∧ t.cmd? uid = some { c with place := .ended .dieLost 0 } ∧ t.jobs = s.jobs ∧ t.steps = s.steps) ∧
      (s.measureFails c = [] → s.onLostDie (c.num 8 8) (c.num 16 4) = false → s.badIn (c.num 8 8) (c.num 16 4) = true →
        ∃ t d, exec (.auditMeasure uid) s = .next t ∧ t.cmd? uid = some { c with place := .ended .ecc (eccCause (c.num 8 8)), fault := some d } ∧
          some d.addr = s.firstBad (c.num 8 8) (c.num 16 4) ∧ t.jobs = s.jobs ∧ t.steps = s.steps) ∧
      (∀ x, s.measureFails c = [] → s.onLostDie (c.num 8 8) (c.num 16 4) = false → s.badIn (c.num 8 8) (c.num 16 4) = false →
        (s.reg .perf 0x40 0x080).testBit 31 = false → s.softWords = [] →
        x = sha256 (s.devGet (c.num 8 8) (c.num 16 4)) ++ (if (c.num 20 1).testBit 6 then [1] else []) →
        ∃ t, exec (.auditMeasure uid) s = .next t ∧ t.cmd? uid = some { c with place := .ended .ok 0 } ∧
          (c.num 20 1 % 4 ≠ 2 → t.job c.job = (s.job c.job).measured (c.num 20 1 % 4) x ((c.num 20 1).testBit 7) ∧ t.steps = s.steps) ∧
          (c.num 20 1 % 4 = 2 → t.jobs = s.jobs ∧ ∃ u, c.step = some u ∧ t.steps = (s.extendAux u c.uid x).steps) ∧
          (∀ j, j ≠ c.job → t.job j = s.job j) ∧ (∀ v, v ≠ uid → t.cmd? v = s.cmd? v) ∧
          Only [.cmds, .ctrs, .engines, .hostMem, .jobs, .msix, .pages, .steps] s t)) ∧
    (s.auditHead uid 0x9002 = some c →
      (∀ f, lowestCause (failIf (!s.quoteOut (c.num 8 8)) .badOperand 0x01 ++ failIf (c.num 48 16 != 0) .badOperand 0x04) = some f →
        ∃ t, exec (.auditQuote uid) s = .next t ∧ t.cmd? uid = some { c with place := .ended f.1 f.2 } ∧
          (s.devState = 6 ∧ f.2 = 1 → t.boot = { s.boot with quote := s.quote c }) ∧ (s.devState ≠ 6 ∨ f.2 ≠ 1 → t.boot = s.boot)) ∧
      (s.quoteOut (c.num 8 8) = true → c.num 48 16 = 0 →
        ∃ t, exec (.auditQuote uid) s = .next t ∧ t.boot = { s.boot with quote := s.quote c } ∧ (∀ v, v ≠ uid → t.cmd? v = s.cmd? v) ∧
          (s.onLostDie (c.num 8 8) 1024 = true → t.cmd? uid = some { c with place := .ended .dieLost 0 } ∧ t.mem = (s.starts c).mem) ∧
          (s.onLostDie (c.num 8 8) 1024 = false → t.cmd? uid = some { c with place := .ended .ok 0 } ∧
            t.mem = ((s.starts c).devPut (c.num 8 8) (s.quote c)).mem) ∧
          Only [.badWords, .boot, .cmds, .ctrs, .engines, .hostMem, .mem, .msix, .pages, .regs, .softWords, .traceAt, .traceFill, .traceGap] s t))

/-! ### The matching engine and its staging memory, and cairn records -/

/-- ME_FLOW and ME_DISPARITY (R190, R200, R206 to R208, R292). The command that the ME starts next: with a failing check it ends with the lowest CAUSE; while the matching die's module is trained
it waits, and without the route it ends FAILED_LINK; an uncorrectable word in its pyramids ends it FAILED_ECC; else it runs, with the rows that its search gives, none of them staged. That all
rows are computed at its start, and that a bad word anywhere in the pyramids ends it before any row is staged (R209 keeps the rows staged before), is the model's reading (assumption 51, DEDUCED). -/
def Obligations.MatchingStartsItsSearch : Prop :=
  ∀ (i : Nat → Instr) (op : Nat), (i, op) ∈ [(Instr.meFlow, 0x5001), (.meDisparity, 0x5002)] →
    ∀ (s : State) (c : Cmd), s.cmd? c.uid = some c → s.meNext = some c → c.opcode = op →
      (∀ f, lowestCause (s.meFails c) = some f → ∃ t, exec (i c.uid) s = .next t ∧ t.cmd? c.uid = some { c with place := .ended f.1 f.2 } ∧
        (∀ v, v ≠ c.uid → t.cmd? v = s.cmd? v) ∧ Only [.cmds, .engines] s t) ∧
      (s.meFails c = [] → s.meRoute = 1 → ∃ t, exec (i c.uid) s = .next t ∧ Only [.engines] s t) ∧
      (s.meFails c = [] → s.meRoute = 0 → ∃ t, exec (i c.uid) s = .next t ∧ t.cmd? c.uid = some { c with place := .ended .link 0x21 } ∧
        t.me = s.me) ∧
      (∀ a, s.meFails c = [] → 2 ≤ s.meRoute → s.badPyramid c = some a →
        ∃ t d, exec (i c.uid) s = .next t ∧ t.cmd? c.uid = some { c with place := .ended .ecc 0x34, fault := some d } ∧ d.addr = a ∧ t.me = s.me ∧
          (t.page .me 0).errValid = true ∧ (t.page .me 0).errCode = 2 ∧ (t.page .me 0).errAddr = a) ∧
      (s.meFails c = [] → 2 ≤ s.meRoute → s.badPyramid c = none →
        ∃ t, exec (i c.uid) s = .next t ∧ t.me = { s.me with
            uid := some c.uid, rows := s.meRows c, staged := 0, waitSince := none, stallFrom := none, late := false } ∧
          t.cmds = s.cmds ∧ t.mem = (((s.starts c).spendIssue meAccount 8).correctReads .me 0 (s.pyrReads c)).mem ∧
          ((s.reg .perf 0x40 0x080).testBit 31 = false → s.softWords = [] → t.mem = s.mem) ∧
          (∀ g m r, (t.engine g).row m r = (s.engine g).row m r) ∧
          Only [.badWords, .ctrs, .engines, .freeCount, .hostMem, .issue, .log, .me, .mem, .msix, .pages, .regs, .softWords, .traceAt, .traceFill,
            .traceGap] s t)

/-- ME_ROW_STAGE (R200, R201, R203, R206). A running command without return credit waits, and so does one with credit that finds no free physical slot and no row to spill. With credit and a free slot, or
once the oldest row is spilled, its next row is staged: it is written into the virtual slot of its fill flag's value, GEN last, the fill flag advances by one, the window names the row beside those that their
return flags have not passed, and no byte outside the row changes; the
last row ends the command OK, and a cancelled one ends after the row FAILED_LATE. While the module of the matching die is not up, the row is held. -/
def Obligations.RowStagingAdvancesTheFillFlag : Prop :=
  ∀ (s : State) (c : Cmd), s.meCmd = some c →
    (s.meRoute ≠ 2 → exec .meRowStage s = .next s) ∧
    (s.meRoute = 2 → s.ringCredit c = false → ∃ t, exec .meRowStage s = .next t ∧
      t.me = { s.me with waitSince := some (s.me.waitSince.getD s.now), stallFrom := some (s.me.stallFrom.getD s.now) } ∧
      Only [.ctrs, .hostMem, .me, .msix, .pages] s t) ∧
    (s.meRoute = 2 → s.ringCredit c = true → s.pslots ≤ s.slotsHeld → (s.spillEn = false ∨ s.oldestRow = none) →
      ∃ t, exec .meRowStage s = .next t ∧
        t.me = { s.me with waitSince := none, stallFrom := some (s.me.stallFrom.getD s.now) } ∧ Only [.ctrs, .hostMem, .me, .msix, .pages] s t) ∧
    (∀ e, s.meRoute = 2 → s.ringCredit c = true → s.pslots ≤ s.slotsHeld → s.spillEn = true → s.oldestRow = some e →
      ∃ t, exec .meRowStage s = .next t ∧ (s.me.late = false → t.me.staged = s.me.staged + 1) ∧
        (∀ w, w = (s.me.window.set e.1 { e.2 with spilled := true }).set (c.ringLo + (s.flag c.fillFlag).gen.toNat % c.ringLen)
            ⟨c.fillFlag, (s.flag c.fillFlag).gen + 1, s.now, false⟩ →
          t.me.window = if (s.flag c.fillFlag).poison then w else w.filter fun r => t.unreturned r.2) ∧
        ((s.flag c.fillFlag).poison = false → (t.flag c.fillFlag).gen = (s.flag c.fillFlag).gen + 1)) ∧
    (s.meRoute = 2 → s.ringCredit c = true → s.slotsHeld < s.pslots → s.me.stallFrom = none → MemOk s →
      ∀ (g : Word) (v base : Nat) (row : List (Nat × List Byte)), g = (s.flag c.fillFlag).gen → v = c.ringLo + g.toNat % c.ringLen →
        base = stagingBase + v * s.slotBytes → row = s.me.rows.getD s.me.staged [] →
        ∃ t, exec .meRowStage s = .next t ∧ ((s.flag c.fillFlag).poison = false → (t.flag c.fillFlag).gen = g + 1) ∧
          ((s.flag c.fillFlag).poison = true → t.flags = s.flags) ∧ (∀ f, f ≠ c.fillFlag → t.flag f = s.flag f) ∧
          (∀ w, w = s.me.window.set v ⟨c.fillFlag, g + 1, s.now, false⟩ →
            t.me.window = if (s.flag c.fillFlag).poison then w else w.filter fun r => t.unreturned r.2) ∧
          t.mem.readRun 0 (base + 20) 4 = leBytes 4 (g + 1).toNat ∧
          (∀ a, (∀ p ∈ row, a < base + p.1 ∨ base + p.1 + p.2.length ≤ a) → (a < base + 20 ∨ base + 24 ≤ a) →
            t.mem.read 0 a = s.mem.read 0 a) ∧
          (s.me.late = true → t.cmd? c.uid = some { c with progress := s.me.staged + 1, place := .ended .late 0 } ∧
            t.me.uid = none ∧ t.regs = s.regs) ∧
          (s.me.late = false → s.me.rows.length ≤ s.me.staged + 1 →
            t.cmd? c.uid = some { c with progress := s.me.staged + 1, place := .ended .ok 0 } ∧
            t.me.uid = none ∧ t.reg .me 0 0x064 = min (s.reg .me 0 0x064 + 1) (2 ^ 32 - 1)) ∧
          (s.me.late = false → s.me.staged + 1 < s.me.rows.length →
            t.cmd? c.uid = some { c with progress := s.me.staged + 1 } ∧ t.me.uid = s.me.uid ∧ t.me.staged = s.me.staged + 1 ∧
            t.regs = s.regs) ∧
          (∀ u, u ≠ c.uid → t.cmd? u = s.cmd? u) ∧
          Only [.badWords, .cmds, .ctrs, .engines, .flags, .hostMem, .me, .mem, .msix, .pages, .regs, .softWords] s t)

/-- STAGING_RETENTION_SPILL, ME_RING_TIMEOUT and STAGE_CTRL_WRITE (R203, R208, R213). A row held too long is copied to its spill address and gives up its
physical slot; a command that waits TIMEOUT_MS for return credit ends FAILED_TIMEOUT 0x41; STAGE_CTRL is written only while the ME is idle and every row
has been returned, else the write is dropped with BUSY, and so is one of SPILL_BASE. -/
def Obligations.StagingSpillsTimesOutAndRefusesWrites : Prop :=
  ∀ (s : State),
    (∀ (v : Nat) (r : StageRow), s.me.window.find? v = some r → s.spillEn = true → s.stageHeld r = true → MemOk s →
      ∃ t, exec (.stagingRetentionSpill v) s = .next t ∧ t.me = { s.me with window := s.me.window.set v { r with spilled := true } } ∧
        (s.softWords = [] →
          t.mem.readRun 0 (s.spillBase + v * s.slotBytes) s.slotBytes = s.mem.readRun 0 (stagingBase + v * s.slotBytes) s.slotBytes ∧
          (∀ a, a < s.spillBase + v * s.slotBytes ∨ s.spillBase + (v + 1) * s.slotBytes ≤ a → t.mem.read 0 a = s.mem.read 0 a)) ∧
        t.now = laterTime s.now ((r.filledAt + s.retain * s.frameTicks) % 2 ^ 64) ∧ (t.page .me 0).raw = (s.page .me 0).raw ||| 0b10000 ∧
        t.reg .me 0 0x068 = min (s.reg .me 0 0x068 + 1) (2 ^ 32 - 1) ∧
        Only [.badWords, .ctrs, .hostMem, .log, .me, .mem, .msix, .now, .pages, .regs, .softWords] s t) ∧
    (∀ (c : Cmd) (since : Nat), s.meWaiting = some (c, since) → bits (s.reg .sched 0 0x048) 15 0 ≠ 0 →
      ∃ t, exec .meRingTimeout s = .next t ∧ t.cmd? c.uid = some { c with place := .ended .timeout 0x41 } ∧
        (∀ v, v ≠ c.uid → t.cmd? v = s.cmd? v) ∧ t.me.uid = none ∧ t.me.window = s.me.window ∧
        t.now = laterTime s.now ((since + bits (s.reg .sched 0 0x048) 15 0 * msTicks) % 2 ^ 64) ∧ (∀ o, o ≠ Blk.base .me 0 + 0x06C → t.regs.find? o = s.regs.find? o) ∧
        Only [.cmds, .engines, .me, .now, .regs] s t) ∧
    (∀ v, s.hostWrites .me 0 = true → s.stageIdle = true → ∃ t, exec (.stageCtrlWrite v) s = .next t ∧
      t.reg .me 0 0x04C = v &&& 0x8FFFFF0F ∧ (∀ o, o ≠ Blk.base .me 0 + 0x04C → t.regs.find? o = s.regs.find? o) ∧
      (t.page .me 0).src = 2 ∧ Only [.pages, .regs] s t) ∧
    (∀ v, s.hostWrites .me 0 = true → s.stageIdle = false → ∃ t, exec (.stageCtrlWrite v) s = .next t ∧
      (t.page .me 0).errValid = true ∧ (t.page .me 0).errCode = 4 ∧ Only [.pages] s t) ∧
    (∀ v off, (off = 0x2801054 ∨ off = 0x2801058) → s.hostWrites .me 0 = true → s.stageIdle = false → ∃ t, exec (.registerWrite off 4 v) s = .next t ∧
      (t.page .me 0).errValid = true ∧ (t.page .me 0).errCode = 4 ∧ Only [.pages] s t) ∧
    (∀ v, s.hostWrites .me 0 = false → exec (.stageCtrlWrite v) s = .next s)

/-- CAIRN_RECORD_WRITE and CAIRN_ENABLE (R315 to R319, R322). The oldest due record goes to its slot of the ring, chained by its digest, and then PRODUCED counts
it; a full ring drops it and sets the gap. In HOLD it waits, and so does one whose frame has lines still to be sent. Setting CAIRN_EN from 0 starts a new chain, with PRODUCED 0 in the ring's header. -/
def Obligations.CairnRecordsAreWrittenInOrder : Prop :=
  ∀ (s : State),
    (∀ (u : State) (d0 d : CairnDue) (rest : List CairnDue), s.devState ≠ 5 → s.cairn.due.head? = some d0 → (d0.tiles = none → s.linesSent = true) →
      u = (if d0.tiles = none then s.sealCairn else s) → u.cairn.due = d :: rest → s.cairnFull = false →
      ∃ t, exec .cairnRecordWrite s = .next t ∧
        t.cairn = { u.cairn with due := rest, seq := s.cairn.seq + 1, newest := s.recordDigest d, gap := false, afterHold := false } ∧
        ((s.reg .sec 0 0x100).testBit 30 = false →
          t.mem = ((s.auditPut (s.cairnBase + 64 + (s.cairn.seq % 2 ^ s.cairnLog) * 1536)
            (s.recordHead d ++ s.recordDigest d ++ List.replicate 160 0 ++ d.kinds)).auditPut s.cairnBase
            (leBytes 4 (s.cairn.seq + 1) ++ List.replicate 60 0)).mem) ∧
        Only [.badWords, .cairn, .mem, .softWords] s t) ∧
    (∀ (u : State) (d0 d : CairnDue) (rest : List CairnDue), s.devState ≠ 5 → s.cairn.due.head? = some d0 → (d0.tiles = none → s.linesSent = true) →
      u = (if d0.tiles = none then s.sealCairn else s) → u.cairn.due = d :: rest → s.cairnFull = true →
      ∃ t, exec .cairnRecordWrite s = .next t ∧ t.cairn = { u.cairn with due := rest, gap := true } ∧
        t.reg .sec 0 0x118 = min (s.reg .sec 0 0x118 + 1) (2 ^ 32 - 1) ∧
        (∀ o, o ≠ Blk.base .sec 0 + 0x118 → t.regs.find? o = s.regs.find? o) ∧ Only [.cairn, .regs] s t) ∧
    (s.cairn.due = [] ∨ s.devState = 5 ∨ (∃ d ∈ s.cairn.due.head?, d.tiles = none ∧ s.linesSent = false) →
      exec .cairnRecordWrite s = .next s) ∧
    (∀ v, s.hostWrites .sec 0 = true → ∃ t, exec (.cairnEnable v) s = .next t ∧ t.reg .sec 0 0x100 = v &&& 0xE0000000 ∧
      (t.page .sec 0).src = 2 ∧
      (v.testBit 31 = true → s.cairnEn = false → t.reg .sec 0 0x110 = 0 ∧ t.cairn = { s.cairn with
        seq := 0, newest := List.replicate 32 0, gap := false, afterHold := s.devState == 5 || s.disp.held, due := [], firstFrame := s.disp.begun
        lines := [] } ∧
        t.mem = (s.auditPut s.cairnBase (List.replicate 64 0)).mem) ∧
      (v.testBit 31 = false ∨ s.cairnEn = true → t.cairn = s.cairn ∧ t.mem = s.mem) ∧
      (∀ o, o ≠ Blk.base .sec 0 + 0x100 → o ≠ Blk.base .sec 0 + 0x110 → t.regs.find? o = s.regs.find? o) ∧ Only [.badWords, .cairn, .mem, .pages, .regs, .softWords] s t) ∧
    (∀ v, s.hostWrites .sec 0 = false → exec (.cairnEnable v) s = .next s)

/-! ### The raster engine -/

/-- The raster commands (R216, R220, R241, R432). The command that the geometry stage takes next, and that it has not begun, ends FAILED_ECC on a poisoned wait; one that fails a check ends with the lowest CAUSE. It
writes nothing then: no byte of memory, no stored register and no other command changes. -/
def Obligations.RasterChecksEndTheirCommand : Prop :=
  ∀ (i : Nat → Instr) (op : Nat) (fails : State → Cmd → List (Status × Nat)),
    (i, op, fails) ∈ [(Instr.rsPassOpen, 0x6001, State.passOpenFails), (.rsDraw, 0x6002, State.drawFails), (.rsPassClose, 0x6003, State.passCloseFails),
      (.rsWarp, 0x6004, State.warpFails), (.rsMask, 0x6005, State.maskFails)] →
    ∀ (s : State) (c : Cmd), s.cmd? c.uid = some c → (∀ d ∈ s.cmds, d.uid = c.uid → d = c) → s.rasterHead c.uid op = some c → s.begun c.uid = false →
      (s.waitPoisoned c = true → ∃ t, exec (i c.uid) s = .next t ∧ t.cmd? c.uid = some { c with place := .ended .ecc 0 } ∧
        (∀ v, v ≠ c.uid → t.cmd? v = s.cmd? v) ∧ Only [.cmds, .engines, .hostMem, .msix, .pages, .raster] s t) ∧
      (∀ f, s.waitPoisoned c = false → lowestCause (fails s c) = some f →
        ∃ t, exec (i c.uid) s = .next t ∧ t.cmd? c.uid = some { c with place := .ended f.1 f.2 } ∧ (∀ v, v ≠ c.uid → t.cmd? v = s.cmd? v) ∧
          (∀ g m r, (t.engine g).row m r = (s.engine g).row m r) ∧ Only [.cmds, .engines, .hostMem, .msix, .pages, .raster] s t)

/-- RS_PASS_OPEN and RS_PASS_CLOSE (R223, R234, R241). An open that could open its pass waits while 8 are open; else it adds the pass of its descriptor to those that are open, and ends OK, or FAILED_ECC where the
descriptor holds an uncorrectable word. A close of a pass that has failed ends FAILED_ECC with the CAUSE of that failure and drops the pass; one of a pass of no frame whose
bins are all written or discarded ends OK and drops it; before that it stays queued as the pass's close, without bins where the pass is a canvas pass. The close of a pass of a frame first marks the frame's
table OSD_BINNED and makes its drawn tiles READY. -/
def Obligations.RasterPassesOpenAndClose : Prop :=
  ∀ (s : State) (c : Cmd), s.cmd? c.uid = some c → (∀ d ∈ s.cmds, d.uid = c.uid → d = c) →
    (c.opcode = 0x6001 → s.waitsForPass c = true → exec (.rsPassOpen c.uid) s = .next s) ∧
    (s.waitPoisoned c = false → s.rasterHead c.uid 0x6001 = some c → s.passOpenFails c = [] →
      (s.badIn (c.num 24 8) 64 = true → ∃ t, exec (.rsPassOpen c.uid) s = .next t ∧
        (∃ a, t.cmd? c.uid = some { c with place := .ended .ecc (eccCause (c.num 24 8)), fault := some ⟨s.now, a, 1⟩ }) ∧
        t.raster.passes = s.rpasses) ∧
      (s.badIn (c.num 24 8) 64 = false → s.passFailed (s.passAt c (c.num 24 8)) = false →
        ∃ t, exec (.rsPassOpen c.uid) s = .next t ∧ t.cmd? c.uid = some { c with place := .ended .ok 0 } ∧
          t.raster.passes = s.rpasses ++ [s.passAt c (c.num 24 8)] ∧ (∀ v, v ≠ c.uid → t.cmd? v = s.cmd? v) ∧
          t.mem = ((s.starts c).correctReads .raster 0 [(c.num 24 8, 64)]).mem ∧
          Only [.badWords, .cmds, .ctrs, .engines, .hostMem, .log, .mem, .msix, .pages, .raster, .regs, .softWords, .traceAt, .traceFill, .traceGap] s t)) ∧
    (∀ p q, s.waitPoisoned c = false → s.rasterHead c.uid 0x6003 = some c → s.passCloseFails c = [] → s.openPass c.job c.apt = some p →
      q = { p with closer := some c.uid, bins := if p.canvas && p.frame.isNone then BinLists.fresh else p.bins } →
      (∀ f, p.frame = some f → exec (.rsPassClose c.uid) s =
        .next (((((((s.starts c).putPass q).markBinned f).readyTiles f).endPass q).resumeStalled).rasterRest).track) ∧
      (p.frame = none → s.raster.stalled = [] → (∀ x ∈ s.raster.passes, x.uid = p.uid → x = p) →
        (∀ f, p.fail = some f → ∃ t, exec (.rsPassClose c.uid) s = .next t ∧ t.cmd? c.uid = some { c with place := .ended .ecc f.1, fault := some f.2 } ∧
          (∀ x ∈ t.raster.passes, x.uid ≠ p.uid)) ∧
        (p.fail = none → s.passDone q = true → ∃ t, exec (.rsPassClose c.uid) s = .next t ∧ t.cmd? c.uid = some { c with place := .ended .ok 0 } ∧
          t.raster.passes = s.rpasses.filter (fun x => x.uid != p.uid) ∧ (∀ v, v ≠ c.uid → t.cmd? v = s.cmd? v) ∧
          t.mem = (s.starts c).mem ∧
          Only [.badWords, .cmds, .ctrs, .engines, .hostMem, .mem, .msix, .pages, .raster, .regs, .softWords, .traceAt, .traceFill, .traceGap] s t) ∧
        (p.fail = none → s.passDone q = false → ∃ t, exec (.rsPassClose c.uid) s = .next t ∧ t.cmds = s.cmds ∧
          t.raster.passes = s.rpasses.map (fun x => if x.uid == p.uid then q else x) ∧
          t.mem = (s.starts c).mem ∧
          Only [.badWords, .ctrs, .engines, .hostMem, .mem, .msix, .pages, .raster, .regs, .softWords, .traceAt, .traceFill, .traceGap] s t)))

/-- RS_DRAW (R220, R222, R225, R227), RASTER_UNPARK (R228) and GROW_TIMEOUT (R229). A good record that touches one bin is put at the head of that bin's
references, and those before it stay; a record that is skipped counts in 0x06C and draws nothing; a draw of one record then ends OK. A draw whose records hold an uncorrectable word ends FAILED_ECC. A parked command goes on
once a chunk is free, unless the engine is FAULTED (R433), and ends OK when no record is left. A command that no page has come for within TIMEOUT_US counts, raises
its interrupt and, where its next reference still finds no room and nothing can be flushed, is parked. -/
def Obligations.RasterDrawsBinTheirRecords : Prop :=
  ∀ (s : State) (c : Cmd), s.cmd? c.uid = some c → (∀ d ∈ s.cmds, d.uid = c.uid → d = c) →
    (∀ e, s.rasterHead c.uid 0x6002 = some c → s.waitPoisoned c = false → s.drawFails c = [] → s.itemError [] (s.recordReads c) = some e →
      (s.reg .perf 0x40 0x080).testBit 31 = false →
      ∃ t, exec (.rsDraw c.uid) s = .next t ∧ t.cmd? c.uid = some { c with place := .ended .ecc e.1, fault := some ⟨s.now, e.2, 1⟩ } ∧
        (∀ v, v ≠ c.uid → t.cmd? v = s.cmd? v)) ∧
    (∀ (p : RPass) (x : Packet), s.rasterHead c.uid 0x6002 = some c → s.waitPoisoned c = false → s.drawFails c = [] →
      s.badIn (c.num 24 8) 64 = false → (s.reg .perf 0x40 0x080).testBit 31 = false → s.softWords = [] → s.drawn c.uid = (0, 0) → c.num 32 4 = 1 →
      x = BitVec.ofNat 512 (s.devNat (c.num 24 8) 64) → s.openPass c.job c.apt = some p →
      (badRecord p.texCount x = true → ∃ t, exec (.rsDraw c.uid) s = .next t ∧ t.cmd? c.uid = some { c with place := .ended .ok 0 } ∧
        t.reg .raster 0 0x06C = min (s.reg .raster 0 0x06C + 1) (2 ^ 32 - 1) ∧ t.raster.passes = s.rpasses ∧
        (∀ v, v ≠ c.uid → t.cmd? v = s.cmd? v) ∧ Only [.cmds, .ctrs, .engines, .hostMem, .msix, .pages, .raster, .regs] s t) ∧
      (∀ b, badRecord p.texCount x = false → ((triOf x).map fun y => y.bins p.w p.h) = some [b] → 2 ≤ s.freeChunks → p.canvas = false →
        (∀ y ∈ s.raster.passes, y.uid = p.uid → y = p) →
        ∃ t q, exec (.rsDraw c.uid) s = .next t ∧ t.cmd? c.uid = some { c with place := .ended .ok 0 } ∧
          t.raster.passes = s.rpasses.map (fun y => if y.uid == p.uid then q else y) ∧
          (∃ ref, ref.record = x ∧ q.refs (b.2 * p.columns + b.1) = ref :: SMap.get (s.heldBins p) (b.2 * p.columns + b.1) []) ∧
          (∀ k, k ≠ b.2 * p.columns + b.1 → q.refs k = SMap.get (s.heldBins p) k []) ∧ q.flushed = p.flushed ∧
          t.reg .raster 0 0x060 = min (s.reg .raster 0 0x060 + 1) (2 ^ 32 - 1) ∧ (∀ v, v ≠ c.uid → t.cmd? v = s.cmd? v) ∧
          Only [.cmds, .ctrs, .engines, .hostMem, .msix, .pages, .raster, .regs] s t)) ∧
    (s.inRaster c.uid = true → s.raster.parked.contains c.uid = true →
      (s.freeChunks = 0 ∨ (s.page .raster 0).faulted = true → exec (.rasterUnpark c.uid) s = .next s) ∧
      (0 < s.freeChunks → (s.page .raster 0).faulted = false → exec (.rasterUnpark c.uid) s = .next (s.drawOn c).track) ∧
      (0 < s.freeChunks → (s.page .raster 0).faulted = false → c.num 32 4 ≤ (s.drawn c.uid).1 → s.badWords = [] → s.softWords = [] →
        ∃ t, exec (.rasterUnpark c.uid) s = .next t ∧ t.cmd? c.uid = some { c with place := .ended .ok 0 } ∧ c.uid ∉ t.raster.parked ∧
          t.raster.passes = s.raster.passes ∧ (∀ v, v ≠ c.uid → t.cmd? v = s.cmd? v) ∧ Only [.cmds, .engines, .raster] s t)) ∧
    ((s.page .raster 0).faulted = true → exec (.growTimeout c.uid) s = .next s) ∧
    (∀ e u, (s.page .raster 0).faulted = false → s.inRaster c.uid = true → (s.raster.stalled.find? fun x => x.1 == c.uid) = some e →
      u = ((s.at (e.2 + max 1 (bits (s.reg .raster 0 0x04C) 15 0) * usTicks)).bump .raster 0 0x068 1).irq .raster 0 0b100000 →
      (∃ t, exec (.growTimeout c.uid) s = .next t ∧ t.now = laterTime s.now ((e.2 + max 1 (bits (s.reg .raster 0 0x04C) 15 0) * usTicks) % 2 ^ 64) ∧
        Only [.badWords, .cmds, .ctrs, .engines, .freeCount, .hostMem, .log, .mem, .msix, .now, .pages, .raster, .regs, .softWords] s t) ∧
      (∀ (p : RPass) (x : Packet) (bs : List (Nat × Nat)) (b d : Nat × Nat), s.softWords = [] → (s.raster.stalled.all fun y => y.1 == c.uid) = true →
        d = s.drawn c.uid → u.itemError [] (u.recordReads c) = none → d.1 < c.num 32 4 →
        x = BitVec.ofNat 512 (s.devNat (c.num 24 8 + 64 * d.1) 64) → u.openPass c.job c.apt = some p → badRecord p.texCount x = false →
        ((triOf x).map fun y => y.bins p.w p.h) = some bs → bs[d.2]? = some b → (u.refInto c x (d.2, b.2 * p.columns + b.1)).2 = false →
        (∀ q ∈ u.rpasses, u.flushable q = []) →
        ∃ t, exec (.growTimeout c.uid) s = .next t ∧ t.raster.stalled = [] ∧ t.raster.draws = s.raster.draws ∧
          t.raster.parked = c.uid :: s.raster.parked.filter (· != c.uid) ∧
          t.reg .raster 0 0x068 = min (s.reg .raster 0 0x068 + 1) (2 ^ 32 - 1) ∧ (t.page .raster 0).raw = (s.page .raster 0).raw ||| 0b100000 ∧
          t.cmds = s.cmds ∧ t.mem = s.mem))

/-- RASTER_BIN_ITEM of a pass (R220, R226, R241), GROW_PAGE_ADD (R229) and BIN_CTRL_WRITE (R246, R284). A core's next item writes the rows of pixels of its bin and no other
byte; with an uncorrectable word in its way it writes nothing, and the close of its pass ends. Without an item the core does nothing but what follows from changed tile states. A page is added up to 64, and is dropped with its
error after that. BIN_CTRL is written while BLK_STATE reads IDLE and the partition holds, else the write is dropped with the error of its kind. -/
def Obligations.RasterItemsPagesAndControl : Prop :=
  ∀ (s : State),
    (∀ (core : Nat) (u : State), u = s.settleRaster →
      ((u.page .raster 0).faulted = true → exec (.rasterBinItem core) s = .next u) ∧
      ((u.page .raster 0).faulted = false → u.nextItem core = none → exec (.rasterBinItem core) s = .next u.resumeStalled.track) ∧
      (∀ (i : ItemKey) (id : Nat) (p : RPass), (u.page .raster 0).faulted = false → u.nextItem core = some i → i.pass = some id →
        (u.rpasses.find? fun q => q.uid == id) = some p → p.frame = none → u.raster.stalled = [] →
        (u.binFail p i.bin = none → s.softWords = [] →
          ∃ t, exec (.rasterBinItem core) s = .next t ∧ t.mem = (s.putAll (u.binWork p i.bin).rows).mem ∧
            (∀ q ∈ t.raster.passes, q.uid = p.uid → q.refs i.bin = []) ∧
            Only [.badWords, .cmds, .engines, .hostMem, .mem, .msix, .pages, .raster, .softWords] s t) ∧
        (∀ e, u.binFail p i.bin = some e →
          ∃ t, exec (.rasterBinItem core) s = .next t ∧ t.mem = s.mem ∧ (∀ d ∈ t.cmds, p.closer = some d.uid → d.unstarted = false) ∧
            (∀ d ∈ u.cmds, d.unstarted = true → p.closer = some d.uid → p.fail = none →
              { d with place := .ended .ecc e.1, fault := some ⟨s.now, e.2, 1⟩ } ∈ t.cmds) ∧
            Only [.cmds, .engines, .hostMem, .msix, .pages, .raster] s t))) ∧
    (∀ v, s.hostWrites .raster 0 = true →
      (s.raster.pages.length < 64 → exec (.growPageAdd v) s = .next ({ s with raster := { s.raster with
          pages := s.raster.pages ++ [bits (s.reg .raster 0 0x054) 31 16 * 2 ^ 16 + bits v 15 0 * 2 ^ 32] } }.resumeStalled.track)) ∧
      (s.raster.pages.length < 64 → s.raster.stalled = [] →
        ∃ t, exec (.growPageAdd v) s = .next t ∧ t.raster = { s.raster with
          pages := s.raster.pages ++ [bits (s.reg .raster 0 0x054) 31 16 * 2 ^ 16 + bits v 15 0 * 2 ^ 32] } ∧ Only [.engines, .raster] s t) ∧
      (64 ≤ s.raster.pages.length →
        ∃ t, exec (.growPageAdd v) s = .next t ∧ (t.page .raster 0).errValid = true ∧ (t.page .raster 0).errCode = 5 ∧ t.raster = s.raster ∧
          Only [.engines, .pages] s t)) ∧
    (∀ v, s.hostWrites .raster 0 = true →
      (s.blkState .raster 0 = 1 → partitionOk (bits (s.reg .hsram 0 0x040) 12 8) (max 8 (min 32 (bits v 13 8))) = true →
        ∃ t, exec (.binCtrlWrite v) s = .next t ∧ t.reg .raster 0 0x048 = v &&& 0x0FFF3F01 ∧
          (∀ o, o ≠ Blk.base .raster 0 + 0x048 → t.regs.find? o = s.regs.find? o) ∧ (t.page .raster 0).src = 2 ∧ Only [.pages, .regs] s t) ∧
      (s.blkState .raster 0 = 1 → partitionOk (bits (s.reg .hsram 0 0x040) 12 8) (max 8 (min 32 (bits v 13 8))) = false →
        ∃ t, exec (.binCtrlWrite v) s = .next t ∧ (t.page .hsram 0).errValid = true ∧ (t.page .hsram 0).errCode = 2 ∧ Only [.pages] s t) ∧
      (s.blkState .raster 0 ≠ 1 → ∃ t, exec (.binCtrlWrite v) s = .next t ∧ (t.page .raster 0).errValid = true ∧ (t.page .raster 0).errCode = 4 ∧
        Only [.pages] s t)) ∧
    (∀ v, s.hostWrites .raster 0 = false → exec (.growPageAdd v) s = .next s ∧ exec (.binCtrlWrite v) s = .next s)

/-- RS_WARP and RS_MASK (R231, R237, R239, R241, R292). A command that passes its checks and meets no uncorrectable word begins: a warp of an empty tile is in its last round at once, with all 32 items of its two candidates to
run, and any other goes on to bin its triangles; a mask has its 16 items to run. Such an item, run by RASTER_BIN_ITEM, writes its rows into the landing slot granted to its group, or its elements from the mask's address on, and no other byte; the last item ends
the command OK. An item on an uncorrectable word ends it FAILED_ECC, and a warp's without a route to its die FAILED_LINK. -/
def Obligations.WarpAndMaskWriteTheirTile : Prop :=
  ∀ (s : State),
    (∀ (c : Cmd), s.cmd? c.uid = some c → (∀ d ∈ s.cmds, d.uid = c.uid → d = c) → s.waitPoisoned c = false → s.badWords = [] →
      (s.rasterHead c.uid 0x6004 = some c → s.warpFails c = [] → s.tileWork c.uid = none →
        ∃ t w, exec (.rsWarp c.uid) s = .next t ∧ t.cmds = s.cmds ∧ t.tileWork c.uid = some w ∧ w.mask = false ∧ w.desc = s.devPacket (c.num 24 8) ∧
          ((c.num 32 1).testBit 0 = true → w.last = true ∧ w.todo = List.range 32 ∧ w.bins = BinLists.fresh) ∧
          (s.softWords = [] → t.mem = (s.starts c).mem) ∧
          Only [.badWords, .ctrs, .engines, .hostMem, .log, .mem, .msix, .pages, .raster, .regs, .softWords, .traceAt, .traceFill, .traceGap] s t) ∧
      (∀ w, s.rasterHead c.uid 0x6004 = some c → s.tileWork c.uid = some w →
        exec (.rsWarp c.uid) s = .next (s.warpOn c w).rasterRest.track) ∧
      (s.rasterHead c.uid 0x6005 = some c → s.maskFails c = [] → s.begun c.uid = false →
        ∃ t w, exec (.rsMask c.uid) s = .next t ∧ t.cmds = s.cmds ∧ t.tileWork c.uid = some w ∧ w.mask = true ∧ w.desc = s.devPacket (c.num 24 8) ∧
          w.todo = List.range 16 ∧ (s.softWords = [] → t.mem = (s.starts c).mem) ∧
          Only [.badWords, .ctrs, .engines, .hostMem, .log, .mem, .msix, .pages, .raster, .regs, .softWords, .traceAt, .traceFill, .traceGap] s t)) ∧
    (∀ (core : Nat) (u : State) (i : ItemKey) (w : RTile) (c : Cmd), u = s.settleRaster → (u.page .raster 0).faulted = false →
      u.nextItem core = some i → i.pass = none → u.tileWork i.cmd = some w → u.cmd? i.cmd = some c → (∀ d ∈ u.cmds, d.uid = i.cmd → d = c) →
      u.raster.stalled = [] → s.softWords = [] →
      (∀ base, w.mask = false → u.warpSlot c = some base →
        (u.hubRoute (u.engineOf c / 2) = 0 → ∃ t, exec (.rasterBinItem core) s = .next t ∧
          t.cmd? i.cmd = some { c with place := .ended .link 0x21 } ∧ t.mem = s.mem) ∧
        (∀ e, u.hubRoute (u.engineOf c / 2) ≠ 0 → u.itemError (w.bins.refs i.bin) (u.warpWork c w i.bin).reads = some e →
          ∃ t, exec (.rasterBinItem core) s = .next t ∧ t.cmd? i.cmd = some { c with place := .ended .ecc e.1, fault := some ⟨s.now, e.2, 1⟩ } ∧
            t.mem = s.mem) ∧
        (u.hubRoute (u.engineOf c / 2) ≠ 0 → u.itemError (w.bins.refs i.bin) (u.warpWork c w i.bin).reads = none →
          ∃ t, exec (.rasterBinItem core) s = .next t ∧ t.mem = (s.putAll ((u.warpWork c w i.bin).runs.map fun r => (base + r.1, r.2))).mem ∧
            (w.last = true → (∀ k ∈ w.todo, k = i.bin) → t.cmd? i.cmd = some { c with place := .ended .ok 0 }) ∧
            ((w.last = false ∨ ∃ k ∈ w.todo, k ≠ i.bin) → t.cmd? i.cmd = some c ∧
              ∃ v, t.tileWork i.cmd = some v ∧ v.todo = w.todo.filter (· != i.bin)))) ∧
      (w.mask = true →
        (∀ e, u.itemError [] (u.maskItemReads c (MaskDesc.of w.desc) i.bin) = some e →
          ∃ t, exec (.rasterBinItem core) s = .next t ∧ t.cmd? i.cmd = some { c with place := .ended .ecc e.1, fault := some ⟨s.now, e.2, 1⟩ } ∧
            t.mem = s.mem) ∧
        (∀ rows, u.itemError [] (u.maskItemReads c (MaskDesc.of w.desc) i.bin) = none → rows = u.maskRows c (MaskDesc.of w.desc) i.bin →
          ∃ t, exec (.rasterBinItem core) s = .next t ∧
            (((u.stepOf c).bind (·.frame) = none ∨ ∀ r ∈ rows, ∀ x ∈ r, BitVec.ofNat 8 x = 0) →
              t.mem = (s.putAll (((List.range 32).zip rows).map fun r =>
                (c.num 32 8 + 128 * (32 * (i.bin / 4) + r.1) + 32 * (i.bin % 4), r.2.map fun x => BitVec.ofNat 8 x))).mem) ∧
            ((∀ k ∈ w.todo, k = i.bin) → t.cmd? i.cmd = some { c with place := .ended .ok 0 }) ∧
            ((∃ k ∈ w.todo, k ≠ i.bin) → t.cmd? i.cmd = some c))))

/-! ### The display engine -/

/-- The frames of the display engine (R251 to R262, R267, R316): CALENDAR_PUBLISH, FRAME_BIND, FRAME_SCAN_START, LINE_SCAN, SCAN_OUT_END, FRAME_SYNC_EDGE and
GENLOCK_HOLDOVER. A planned frame goes to its calendar entry; a bound frame's table takes the frame's number and BOUND; at the scan start the SDPs of the frame are
sent and each enabled output streams or not; a line of a blocked output is all zeros, and one without errors is its converted pixels; with cairn recording on the line's pixels are kept for the tile
digests (R315); the end of scan-out counts, and with cairn recording on a record of the frame is due; an edge moves the genlock state, and
without edges it is HOLDOVER. -/
def Obligations.DisplayFramesRunTheirCourse : Prop :=
  ∀ (s : State), MemOk s → s.disp.running = true →
    (s.disp.stopping = false → s.disp.committed = none → s.nextFrame < s.disp.begun + 4 →
      ∃ t e, exec .calendarPublish s = .next t ∧ t.disp.entries = s.disp.entries ++ [e] ∧ e.frame = s.nextFrame ∧
        (s.disp.hold = true → t.mem = s.mem) ∧
        (s.disp.hold = false → t.mem = s.mem.writeRun 0 (s.stateBase + s.buffers * 16384 + e.frame % 4 * 32)
          (leBytes 8 e.frame ++ leBytes 8 e.deadline ++ leBytes 8 e.scanStart ++ leBytes 4 e.rowPitch ++ leBytes 4 e.vTotal)) ∧
        Only [.badWords, .disp, .mem, .softWords] s t) ∧
    (∀ f u e, s.boundStep f = some u → s.plan f = some e → s.disp.hold = false → s.directPath f = true → s.boundHeader f = false →
      SMap.find? s.raster.marks f = none → (∀ g ∈ s.groups, g.step = u → g.cancelled = true → g.tile < s.tileCount) →
      ∃ t, exec (.frameBind f) s = .next t ∧ t.mem.readRun 0 (s.table f) 8 = leBytes 8 f ∧
        (t.mem.read 0 (s.table f + 27)).getLsbD 4 = true ∧
        (∀ a, a < s.table f ∨ s.table f + 64 + 8 * s.tileCount ≤ a → t.mem.read 0 a = s.mem.read 0 a) ∧
        Only [.badWords, .mem, .softWords] s t) ∧
    (∀ f e, s.curFrame = some f → s.plan f = some e → s.disp.scanBegun = false →
      ∃ t, exec .frameScanStart s = .next t ∧
        t.disp = { s.disp with scanBegun := true, sent := s.metaFor f, frameOut := some e.scanStart } ∧
        t.now = laterTime s.now (e.scanStart % 2 ^ 64) ∧
        (∀ i ∈ s.outputs, (t.out i).streaming = ((s.out i).trained && (s.out i).hpd)) ∧ (∀ i, i ∉ s.outputs → t.out i = s.out i) ∧
        Only [.cmds, .disp, .hostMem, .msix, .now, .outs, .pages] s t) ∧
    (∀ f e i y buffered level, s.curFrame = some f → s.plan f = some e → s.disp.scanBegun = true → s.outputs.contains i = true → y < s.vActive →
      s.lineKnown i y = true →
      ∃ t, exec (.lineScan i y buffered level) s = .next t ∧
        t.now = laterTime s.now (((e.num * s.lineDen + y * s.lineNum * e.den) / (e.den * s.lineDen)) % 2 ^ 64) ∧
        (level < s.lowWm → s.streamOf i ∈ t.disp.urgent) ∧ (s.lowWm + 4 ≤ level → s.streamOf i ∉ t.disp.urgent) ∧
        ((s.out i).streaming = false → t.outs = s.outs) ∧
        ((s.out i).streaming = true → (s.out i).blocked = true → (t.out i).line = List.replicate (3 * s.hActive) 0) ∧
        ((s.out i).streaming = true → (s.out i).blocked = false → s.badWords = [] → s.hActive ≤ buffered →
          (t.out i).line = (List.range s.hActive).flatMap (fun x => s.convert i (s.scanPixel f ((s.origin i).1 + x) ((s.origin i).2 + y)).1)) ∧
        (∀ j, j ≠ i → t.out j = s.out j) ∧
        (s.recordsFrame f = false → t.cairn = s.cairn) ∧
        (s.recordsFrame f = true → s.cairn.lines.find? (s.lineKey i y) = none → s.hActive ≤ buffered → t.cairn = { s.cairn with
          lines := s.cairn.lines.set (s.lineKey i y)
            ((List.range s.hActive).map fun x => (s.scanPixel f ((s.origin i).1 + x) ((s.origin i).2 + y)).1) }) ∧
        Only [.badWords, .cairn, .ctrs, .disp, .freeCount, .hostMem, .log, .mem, .msix, .now, .outs, .pages, .regs, .softWords] s t) ∧
    (∀ f e, s.curFrame = some f → s.plan f = some e → s.disp.scanned = f → s.rowsOver = true →
      ∃ t, exec .scanOutEnd s = .next t ∧ t.disp = { s.disp with scanned := f + 1, bound := s.disp.bound.filter fun b => f + 1 ≤ b.1 } ∧
        t.reg .disp 0 0x0BC = min (s.reg .disp 0 0x0BC + 1) (2 ^ 32 - 1) ∧ (∀ o, o ≠ Blk.base .disp 0 + 0x0BC → t.regs.find? o = s.regs.find? o) ∧
        (s.cairnEn = true → s.cairn.firstFrame ≤ f → s.disp.held = false → s.devState ≠ 5 →
          ∃ d, t.cairn = { s.cairn with due := s.cairn.due ++ [d] } ∧ d.frame = f ∧ d.tiles = none) ∧
        (s.cairnEn = false ∨ f < s.cairn.firstFrame ∨ s.disp.held = true ∨ s.devState = 5 → t.cairn = s.cairn) ∧
        Only [.cairn, .cmds, .disp, .freeCount, .groups, .now, .regs, .steps] s t) ∧
    (∀ k r good, s.genlocked = true →
      s.nearest (ticksSince s.now (s.filterTicks .sync) + bits (s.dcfg 0x080) 13 0 * s.lineNum / s.lineDen) = some k →
      r = timeFrom (ticksSince s.now (s.filterTicks .sync)) k.scanStart * (s.lineDen : Int) - (bits (s.dcfg 0x080) 13 0 * s.lineNum : Nat) +
        s.adjFrom k.frame * (s.lineNum : Int) →
      good = (if r.natAbs ≤ s.lineNum then s.disp.genlock.good + 1 else 0) →
      ∃ t, exec .frameSyncEdge s = .next t ∧ t.disp.genlock.sync = syncNext s.disp.genlock.sync r.natAbs s.lineNum good ∧
        t.disp.genlock.residual = r ∧ t.disp.genlock.lastEdge = s.now ∧ t.disp.genlock.good = good ∧ Only [.disp, .hostMem, .msix, .pages] s t) ∧
    (s.genlocked = true → s.disp.genlock.sync ≠ 3 → ∃ t, exec .genlockHoldover s = .next t ∧
      t.disp = { s.disp with genlock := { s.disp.genlock with sync := 3, good := 0 } } ∧
      t.now = laterTime s.now ((s.disp.genlock.lastEdge + 2 * s.syncDiv * s.vTotal * s.lineNum / s.lineDen) % 2 ^ 64) ∧
      (s.disp.genlock.sync = 2 → (t.page .disp 0).raw = (s.page .disp 0).raw ||| 0b10000) ∧
      (s.disp.genlock.sync ≠ 2 → t.pages = s.pages) ∧ Only [.disp, .hostMem, .msix, .now, .pages] s t)

/-- The display commands and the configuration (R262, R268, R269, R271, R272, R274, R276, R283, R292): DISP_META, DISP_FRAME_WAIT, DISP_COMMIT, TILE_STORE_COPY, CFG_COMMIT, CFG_TAKE_EFFECT
and DISP_TIMING_STOP. A block of metadata that passes its checks counts from its acceptance on, and its command ends OK once it has been sent, FAILED_LATE for a frame whose fetch had begun, FAILED_ECC on an uncorrectable word, which is
recorded at its acceptance, and FAILED_BAD_OPERAND on a failed check; a wait is over once its frame's scan-out has ended; a commit
writes its tile to the canvas buffer, or to a free store slot, or waits, and fails without a route or on an uncorrectable word; a stored tile follows when its buffer is free; a shadow set that passes its
check is committed, and takes effect with empty calendar and tables; a stop leaves no frame, no stream and no display command. -/
def Obligations.DisplayCommandsAndConfiguration : Prop :=
  ∀ (s : State),
    (∀ apt c e, apt < 16 → s.cfeRuns = true → (s.apt apt).en = true → (s.aptSlot apt ((s.apt apt).consumed.toNat % 1024)).landed = true →
      s.acceptCredit apt (s.apt apt) (s.aptSlot apt ((s.apt apt).consumed.toNat % 1024)) = some e →
      c = s.newCmd apt (s.apt apt) (s.aptSlot apt ((s.apt apt).consumed.toNat % 1024)).data →
      s.refusal apt (s.apt apt).consumed (s.aptSlot apt ((s.apt apt).consumed.toNat % 1024)) = none →
      c.opcode = 0x7001 → s.cmd? c.uid = none → (∀ x, s.unsealed c.job c.apt = some x → x.lateTile c.tile = false) →
      (c.progress = 0 → ∃ t, exec (.packetAccept apt) s = .next t ∧
        t.disp = { s.disp with metas := s.disp.metas ++ [⟨c.num 16 8, metaRecords c.data⟩] }) ∧
      (c.progress % 16 = 3 → ∃ t, exec (.packetAccept apt) s = .next t ∧ t.disp = s.disp ∧ (t.page .disp 0).errValid = true)) ∧
    (∀ c, s.dispHead = some c → s.cmd? c.uid = some c → (∀ d ∈ s.cmds, d.uid = c.uid → d = c) → c.progress ≠ 2 →
      (c.opcode = 0x7001 →
        (c.progress = 0 → ∃ t, exec (.dispMeta c.uid) s = .next t ∧
          t.cmd? c.uid = some { c with progress := 2, place := if s.metaSent c then .ended .ok 0 else c.place } ∧ t.mem = (s.starts c).mem ∧
          Only [.badWords, .cmds, .ctrs, .hostMem, .mem, .msix, .pages, .regs, .softWords, .traceAt, .traceFill, .traceGap] s t) ∧
        (c.progress = 1 → ∃ t, exec (.dispMeta c.uid) s = .next t ∧ t.cmd? c.uid = some { c with place := .ended .late 0 } ∧ Only [.cmds] s t) ∧
        (c.progress % 16 = 3 → ∃ t, exec (.dispMeta c.uid) s = .next t ∧
          t.cmd? c.uid = some { c with place := .ended .ecc 0x34, fault := some ⟨c.acceptedAt, c.progress / 16, 1⟩ } ∧ Only [.cmds] s t) ∧
        (c.progress ≠ 0 → c.progress ≠ 1 → c.progress % 16 ≠ 3 → ∃ t, exec (.dispMeta c.uid) s = .next t ∧
          t.cmd? c.uid = some { c with place := .ended .badOperand (c.progress / 16) } ∧ Only [.cmds] s t)) ∧
      (c.opcode = 0x7002 →
        (c.num 8 8 ≠ 0 ∨ c.num 24 40 ≠ 0 → ∃ t, exec (.dispFrameWait c.uid) s = .next t ∧
          t.cmd? c.uid = some { c with place := .ended .badOperand 0x04 } ∧ Only [.cmds] s t) ∧
        (c.num 8 8 = 0 → c.num 24 40 = 0 → ∃ t, exec (.dispFrameWait c.uid) s = .next t ∧
          t.cmd? c.uid = some { c with progress := 2, place := if s.scanEnded (c.num 16 8 : Nat) then .ended .ok 0 else c.place } ∧
          Only [.badWords, .cmds, .ctrs, .hostMem, .mem, .msix, .pages, .regs, .softWords, .traceAt, .traceFill, .traceGap] s t))) ∧
    (∀ c, s.cmd? c.uid = some c → c.opcode = 0x7003 → c.place = .queued .display → s.fenced c = false → s.stepReady c = true → s.groupTurn c = true →
      s.waitMet c = true → (s.page .disp 0).faulted = false →
      (s.waitPoisoned c = true → ∃ t, exec (.dispCommit c.uid) s = .next t ∧ t.cmd? c.uid = some { c with place := .ended .ecc 0 } ∧ Only [.cmds] s t) ∧
      (∀ x, s.waitPoisoned c = false → lowestCause (s.commitFails c (s.engineOf c)) = some x →
        ∃ t, exec (.dispCommit c.uid) s = .next t ∧ t.cmd? c.uid = some { c with place := .ended x.1 x.2 } ∧ Only [.cmds] s t) ∧
      (∀ f a, s.waitPoisoned c = false → s.commitFails c (s.engineOf c) = [] → s.frameOf c = some f →
        s.addr c (s.engineOf c) (c.num 24 4 % 2 ^ 28) 262144 = some a →
        (s.hubRoute (s.engineOf c / 2) = 0 → ∃ t, exec (.dispCommit c.uid) s = .next t ∧ t.cmd? c.uid = some { c with place := .ended .link 0x21 } ∧
          t.disp = s.disp) ∧
        (s.hubRoute (s.engineOf c / 2) = 1 → exec (.dispCommit c.uid) s = .next s) ∧
        (∀ w, 2 ≤ s.hubRoute (s.engineOf c / 2) → ((s.commitReads c.tile a).findSome? fun r => s.firstBad r.1 r.2) = some w →
          ∃ t, exec (.dispCommit c.uid) s = .next t ∧ t.cmd? c.uid = some { c with place := .ended .ecc 0x30, fault := some ⟨s.now, w, 1⟩ } ∧
            t.disp = s.disp) ∧
        (2 ≤ s.hubRoute (s.engineOf c / 2) → ((s.commitReads c.tile a).findSome? fun r => s.firstBad r.1 r.2) = none →
          (s.directPath f = true → ∃ t, exec (.dispCommit c.uid) s = .next t ∧ t.cmd? c.uid = some { c with place := .ended .ok 0 } ∧
            t.mem = (((s.starts c).correctReads .disp 0 (s.commitReads c.tile a)).writeTile f c.tile (s.tileRows c.tile a)).mem ∧
            ((s.reg .perf 0x40 0x080).testBit 31 = false → s.softWords = [] → t.mem = (s.writeTile f c.tile (s.tileRows c.tile a)).mem) ∧
            (∀ u g, c.step = some u → s.group? u c.tile = some g → t.group? u c.tile = some { g with committed := true }) ∧
            t.disp = s.disp ∧ (∀ v, v ≠ c.uid → t.cmd? v = s.cmd? v) ∧
            Only [.badWords, .cmds, .ctrs, .groups, .hostMem, .log, .mem, .msix, .pages, .regs, .softWords, .traceAt, .traceFill, .traceGap] s t) ∧
          (∀ k, s.directPath f = false → s.freeStoreSlot = some k → ∃ t, exec (.dispCommit c.uid) s = .next t ∧
            t.cmd? c.uid = some { c with place := .ended .ok 0 } ∧ t.disp = { s.disp with store := s.disp.store ++ [⟨k, f, c.tile⟩] } ∧
            (∀ v, v ≠ c.uid → t.cmd? v = s.cmd? v) ∧
            Only [.badWords, .cmds, .ctrs, .disp, .hostMem, .log, .mem, .msix, .pages, .regs, .softWords, .traceAt, .traceFill, .traceGap] s t) ∧
          (s.directPath f = false → s.freeStoreSlot = none → exec (.dispCommit c.uid) s = .next s)))) ∧
    (∀ slot x, (s.disp.store.find? fun y => y.slot == slot) = some x →
      (s.directPath x.frame = false ∨ s.disp.hold = true → exec (.tileStoreCopy slot) s = .next s) ∧
      (s.directPath x.frame = true → s.disp.hold = false → ∀ u : State, u = { s.copyTile slot x.frame x.tile with
          disp := { s.disp with store := s.disp.store.filter fun y => y.slot != slot } } →
        exec (.tileStoreCopy slot) s = .next (u.settleStored x.frame x.tile) ∧
        (s.boundStep x.frame = none → exec (.tileStoreCopy slot) s = .next u) ∧
        (s.softWords = [] → u.mem = (s.writeTile x.frame x.tile (s.tileRows x.tile (s.slotAt slot))).mem) ∧
        (∀ w, ((s.copyRows slot x.frame x.tile).findSome? fun r => s.firstBad r.1.1 r.1.2) = some w → (u.page .disp 0).errValid = true))) ∧
    (s.hostWrites .disp 0 = true →
      (s.disp.committed ≠ none → exec .cfgCommit s = .next s) ∧
      (s.disp.committed = none → s.cfgReason s.shadowSet = none → ∃ t, exec .cfgCommit s = .next t ∧
        t.disp = { s.disp with committed := some s.shadowSet } ∧ Only [.disp] s t) ∧
      (∀ r, s.disp.committed = none → s.cfgReason s.shadowSet = some r → ∃ t, exec .cfgCommit s = .next t ∧ (t.page .disp 0).errCode = 1 ∧
        (t.page .disp 0).errInfo = BitVec.ofNat 32 r ∧ (t.page .disp 0).raw = (s.page .disp 0).raw ||| 0b10000000 ∧ t.disp = s.disp ∧
        (r % 256 = 5 → (t.page .dptx (r / 256)).errValid = true ∧ (t.page .dptx (r / 256)).errCode = 1) ∧
        Only [.hostMem, .msix, .pages] s t)) ∧
    (s.hostWrites .disp 0 = false → exec .cfgCommit s = .next s) ∧
    (∀ m, s.disp.committed = some m → s.disp.running = false ∨ (s.disp.scanned = s.disp.begun ∧ s.nextFrame = s.disp.begun) →
      ∃ t, exec .cfgTakeEffect s = .next t ∧ t.disp.active = s.settled m ∧ t.disp.committed = none ∧ t.disp.entries = [] ∧ t.disp.bound = [] ∧
        (t.page .disp 0).raw = (s.page .disp 0).raw ||| 0b1000000 ∧
        Only [.badWords, .cairn, .disp, .groups, .hostMem, .mem, .msix, .outs, .pages, .softWords, .steps] s t) ∧
    (s.disp.running = true → s.disp.stopping = true → s.disp.scanned = s.disp.begun → ∃ t, exec .dispTimingStop s = .next t ∧
      t.disp.running = false ∧ t.disp.entries = [] ∧ t.disp.bound = [] ∧ t.disp.store = [] ∧ (∀ c ∈ t.cmds, c.place ≠ .queued .display) ∧
      (∀ i, (t.out i).streaming = false) ∧ (t.page .disp 0).disabling = false ∧ t.mem = s.mem ∧
      Only [.cairn, .cmds, .disp, .engines, .groups, .outs, .pages, .steps] s t)

/-! ### DP links and ingest -/

/-- The DP links of the outputs (R263 to R267, R276): HPD_CHANGE, DP_LINK_FAIL, DP_LINK_TRAIN_END, DPTX_RETRAIN, HDCP_REAUTH and HDCP_AUTH_END. HPD changes no
earlier than its filter time after its last change (R483). A loss of HPD or of the link stops the output's stream and counts; a return of HPD and RETRAIN start link training; training ends with the rate, the lanes,
the coding and the spread of the configuration in force, with FEC where an 8b/10b rate carries a coded stream, and with authentication under way (the model's choice, assumption 70), or with error 2; authentication starts again, and ends with the
type that it reached and the receiver IDs that the sink reported. That a retrain or a loss of the link leaves HDCP in state 0, and that every result but Type 0
and Type 1 is a failure, is the model's reading (DEDUCED, assumption 42). A write of a page that does not answer does nothing. No other output changes. -/
def Obligations.DpLinksTrainAndAuthenticate : Prop :=
  ∀ (s : State) (i : Nat) (o : DpOut), i < Config.outputs s.variant → o = s.out i →
    (o.hpd = false → ∃ t, exec (.hpdChange i true) s = .next t ∧
      t.out i = { o with hpd := true, trained := false, training := true, streaming := false, hdcp := 0 } ∧
      (t.page .dptx i).raw = (s.page .dptx i).raw ||| 0b1 ∧ (∀ j, j ≠ i → t.out j = s.out j) ∧ t.now = (s.filtered .hpd i).now ∧
      t.pins = (s.filtered .hpd i).pins ∧ Only [.hostMem, .msix, .now, .outs, .pages, .pins] s t) ∧
    (o.hpd = true → ∃ t, exec (.hpdChange i false) s = .next t ∧
      t.out i = { o with hpd := false, trained := false, training := false, streaming := false, resumes := false, hdcp := 0, encrypting := false } ∧
      t.reg .dptx i 0x074 = min (s.reg .dptx i 0x074 + 1) (2 ^ 32 - 1) ∧ (∀ k, k ≠ Blk.base .dptx i + 0x074 → t.regs.find? k = s.regs.find? k) ∧
      (t.page .dptx i).raw = (s.page .dptx i).raw ||| 0b1 ||| 0b10 ∧ (∀ j, j ≠ i → t.out j = s.out j) ∧ t.now = (s.filtered .hpd i).now ∧
      t.pins = (s.filtered .hpd i).pins ∧ Only [.hostMem, .msix, .now, .outs, .pages, .pins, .regs] s t) ∧
    (o.hpd = true → o.trained = true → ∃ t, exec (.dpLinkFail i) s = .next t ∧
      t.out i = { o with trained := false, training := false, streaming := false, resumes := false, hdcp := 0, encrypting := false } ∧
      t.reg .dptx i 0x074 = min (s.reg .dptx i 0x074 + 1) (2 ^ 32 - 1) ∧ (∀ k, k ≠ Blk.base .dptx i + 0x074 → t.regs.find? k = s.regs.find? k) ∧
      (t.page .dptx i).raw = (s.page .dptx i).raw ||| 0b10 ∧ (∀ j, j ≠ i → t.out j = s.out j) ∧ Only [.hostMem, .msix, .outs, .pages, .regs] s t) ∧
    (o.hpd = true → o.training = true →
      (∃ t, exec (.dpLinkTrainEnd i true) s = .next t ∧
        t.out i = { o with
          training := false, trained := true, resumes := true
          rate := bits (s.ocfg i 0x044) 7 5, lanes := bits (s.ocfg i 0x044) 4 3, dsc := (s.ocfg i 0x054).testBit 31
          ssc := (s.ocfg i 0x044).testBit 2, fec := (s.ocfg i 0x054).testBit 31 && decide (bits (s.ocfg i 0x044) 7 5 ≤ 3)
          hdcp := if s.dbg.isOpen then 0 else 1 } ∧
        (t.page .dptx i).raw = (s.page .dptx i).raw ||| 0b100 ∧ (∀ j, j ≠ i → t.out j = s.out j) ∧ Only [.hostMem, .msix, .outs, .pages] s t) ∧
      (∃ t, exec (.dpLinkTrainEnd i false) s = .next t ∧ t.out i = { o with training := false } ∧ (t.page .dptx i).errCode = 2 ∧
        (t.page .dptx i).errValid = true ∧ (t.page .dptx i).raw = (s.page .dptx i).raw ||| 0b1000 ∧ (∀ j, j ≠ i → t.out j = s.out j) ∧
        Only [.hostMem, .msix, .outs, .pages] s t)) ∧
    (s.hostWrites .dptx i = false → exec (.dptxRetrain i) s = .next s ∧ exec (.hdcpReauth i) s = .next s) ∧
    (s.hostWrites .dptx i = true →
      (∃ t, exec (.dptxRetrain i) s = .next t ∧
        (o.hpd = true → t.out i = { o with trained := false, training := true, streaming := false, hdcp := 0 }) ∧ (o.hpd = false → t.outs = s.outs) ∧
        t.page .dptx i = { s.page .dptx i with src := 2 } ∧ (∀ j, j ≠ i → t.out j = s.out j) ∧ Only [.outs, .pages] s t) ∧
      (∃ t, exec (.hdcpReauth i) s = .next t ∧ (t.out i).hdcp = (if s.dbg.isOpen then 0 else 1) ∧ (t.out i).encrypting = false ∧
        (o.streaming = true → (t.out i).blocked = s.frameProt.1) ∧ (o.streaming = false → (t.out i).blocked = o.blocked) ∧
        (∀ j, j ≠ i → t.out j = s.out j) ∧ Only [.hostMem, .msix, .outs, .pages] s t)) ∧
    (∀ result ids, o.trained = true → ∃ t, exec (.hdcpAuthEnd i result ids) s = .next t ∧
      ((result = 2 ∨ result = 3) → s.dbg.isOpen = false → (t.out i).hdcp = result ∧ (t.out i).ids = ids ∧
        (o.streaming = false → (t.page .dptx i).raw = (s.page .dptx i).raw ||| 0b100000)) ∧
      ((result ≠ 2 ∧ result ≠ 3) ∨ s.dbg.isOpen = true → (t.out i).hdcp = 0 ∧ (t.out i).ids = [] ∧
        (o.streaming = false → (t.page .dptx i).raw = (s.page .dptx i).raw ||| 0b1000000)) ∧
      (∀ j, j ≠ i → t.out j = s.out j) ∧ Only [.hostMem, .msix, .outs, .pages] s t)

/-- Host AUX transactions (R266, R276): AUX_START and AUX_REPLY. A write with START while BUSY is ignored; otherwise AUX_CTRL is stored and the transaction
runs, or ends with NACK at once when its command is none of the four, or while the firmware that runs it pauses (R441). A reply ends it with its result; the bytes of an acknowledged read go to AUX_DATA,
over what was there; without a reply RESULT is 3 and error 3 is recorded. -/
def Obligations.AuxTransactionsRunOneAtATime : Prop :=
  ∀ (s : State) (i : Nat),
    (∀ v, s.hostWrites .dptx i = false → exec (.auxStart i v) s = .next s) ∧
    (∀ v, s.hostWrites .dptx i = true → ∃ t, exec (.auxStart i v) s = .next t ∧
      ((s.out i).auxBusy = true → t.outs = s.outs ∧ t.regs = s.regs) ∧
      ((s.out i).auxBusy = false → t.reg .dptx i 0x05C = v % 2 ^ 28 ∧ (∀ k, k ≠ Blk.base .dptx i + 0x05C → t.regs.find? k = s.regs.find? k) ∧
        (bits v 23 20 ∈ [0, 1, 4, 5] → s.fwPaused = false → t.out i = { s.out i with auxBusy := true }) ∧
        (bits v 23 20 ∉ [0, 1, 4, 5] ∨ s.fwPaused = true → t.out i = { s.out i with auxResult := 1 })) ∧
      (∀ j, j ≠ i → t.out j = s.out j) ∧ Only [.outs, .pages, .regs] s t) ∧
    ((s.out i).auxBusy = false → ∀ r, exec (.auxReply i r) s = .next s) ∧
    ((s.out i).auxBusy = true →
      (∀ res bs new, new = (if res = 0 ∧ (s.reg .dptx i 0x05C).testBit 20 = true then bs.take (bits (s.reg .dptx i 0x05C) 27 24 + 1) else []) →
        ∃ t, exec (.auxReply i (some (res, bs))) s = .next t ∧ t.out i = { s.out i with auxBusy := false, auxResult := min res 2 } ∧
          (List.range 4).flatMap (fun k => leBytes 4 (t.reg .dptx i (0x060 + 4 * k))) =
            new ++ ((List.range 4).flatMap fun k => leBytes 4 (s.reg .dptx i (0x060 + 4 * k))).drop new.length ∧
          (∀ k, (∀ n < 4, k ≠ Blk.base .dptx i + (0x060 + 4 * n)) → t.regs.find? k = s.regs.find? k) ∧
          (∀ j, j ≠ i → t.out j = s.out j) ∧ Only [.outs, .regs] s t) ∧
      (∃ t, exec (.auxReply i none) s = .next t ∧ t.out i = { s.out i with auxBusy := false, auxResult := 3 } ∧ (t.page .dptx i).errCode = 3 ∧
        (t.page .dptx i).errValid = true ∧ (∀ j, j ≠ i → t.out j = s.out j) ∧ Only [.outs, .pages] s t))

/-- Ingest (R345 to R352, R359): STREAM_LOCK, STREAM_LOST, DP_FRAME_START, INGEST_FRAME_COMPLETE, BUF_CTRL_WRITE and HINT_PROD_WRITE. A stream locks
with its format, or with error 1 outside the table, and is protected only while debug access is not OPEN (R463); one that goes away discards the frame in progress. A frame starts in the buffer of its fill value when
one is free, and is discarded and counted otherwise; a frame
of which every pixel has come is in its buffer with its planes, keeps the valid parts of its hint descriptor, and the source frame flag advances; one of which pixels are still to come is not complete (R15). Writes of a page that does not answer do nothing. -/
def Obligations.IngestFramesComeAndGo : Prop :=
  ∀ (s : State),
    (∀ enc bpc w h rate p prot ct, (s.page .ingest 0).enable = true → s.link.dpUp = true →
      ∃ t, exec (.streamLock enc bpc w h rate p prot ct) s = .next t ∧
        t.ingest = { s.ingest with
          locked := true, supported := streamSupported enc bpc w h rate p
          prot := prot && !s.dbg.isOpen, ctype := prot && !s.dbg.isOpen && ct, enc := enc, bpc := bpc, w := w, h := h } ∧
        (t.page .ingest 0).raw = (s.page .ingest 0).raw ||| 0b0001 ∧ (streamSupported enc bpc w h rate p = false → (t.page .ingest 0).errCode = 1) ∧
        (streamSupported enc bpc w h rate p = true → (t.page .ingest 0).errCode = (s.page .ingest 0).errCode) ∧
        Only [.ctrs, .hostMem, .ingest, .msix, .pages] s t) ∧
    (∀ tunnel, (s.ingest.locked = true ∨ (tunnel = true ∧ s.link.dpUp = true)) → ∃ t, exec (.streamLost tunnel) s = .next t ∧
      t.ingest = { s.ingest with locked := false, prot := false, ctype := false, cur := none } ∧
      t.link = (if tunnel then { s.link with dpUp := false } else s.link) ∧
      (s.ingest.cur = none → t.regs = s.regs) ∧ (s.ingest.cur ≠ none → t.reg .ingest 0 0x074 = min (s.reg .ingest 0 0x074 + 1) (2 ^ 32 - 1)) ∧
      (t.page .ingest 0).raw.getLsbD 1 = true ∧ Only [.ctrs, .hostMem, .ingest, .link, .msix, .pages, .regs] s t) ∧
    (∀ bt full sdps g, (s.page .ingest 0).enable = true → s.ingest.locked = true → s.ingest.cur = none → g = (s.flag s.srcFlag).gen →
      (s.ingest.supported = true → (g - (s.flag (s.srcFlag + 1)).gen).toNat < s.srcCount →
        ∃ t f, exec (.dpFrameStart bt full sdps) s = .next t ∧ t.ingest.cur = some f ∧ f.seq = s.ingest.seq ∧ f.gen = g ∧ f.buf = g.toNat % s.srcCount ∧
          f.w = s.ingest.w ∧ f.h = s.ingest.h ∧ f.prot = s.ingest.prot ∧ f.ctype = s.ingest.ctype ∧ f.sdps = (notVsc sdps).take 8 ∧ f.time = s.now ∧
          t.ingest.seq = s.ingest.seq + 1 ∧
          t.reg .ingest 0 0x07C = min (s.reg .ingest 0 0x07C + ((notVsc sdps).length - 8)) (2 ^ 32 - 1) ∧
          (∀ k, k ≠ Blk.base .ingest 0 + 0x07C → t.regs.find? k = s.regs.find? k) ∧ Only [.ingest, .regs] s t) ∧
      (s.ingest.supported = false ∨ s.srcCount ≤ (g - (s.flag (s.srcFlag + 1)).gen).toNat →
        ∃ t, exec (.dpFrameStart bt full sdps) s = .next t ∧ t.ingest = { s.ingest with seq := s.ingest.seq + 1 } ∧
          t.reg .ingest 0 0x074 = min (s.reg .ingest 0 0x074 + 1) (2 ^ 32 - 1) ∧ (t.page .ingest 0).raw.getLsbD 2 = true ∧
          Only [.ctrs, .hostMem, .ingest, .msix, .pages, .regs] s t)) ∧
    (∀ px, s.ingest.cur = none → exec (.ingestFrameComplete px) s = .next s) ∧
    (∀ f px, s.ingest.cur = some f → px.length ≠ f.w * f.h → exec (.ingestFrameComplete px) s = .next s) ∧
    (∀ f px, s.ingest.cur = some f → px.length = f.w * f.h → ∃ t g, exec (.ingestFrameComplete px) s = .next t ∧ t.ingest.cur = none ∧ t.ingest.frames = g :: s.ingest.frames ∧
      g.seq = f.seq ∧ g.buf = f.buf ∧ g.gen = f.gen ∧ g.complete = true ∧ g.hint = ((s.frameWritten f px).hintsOf f.seq).bind hintKept ∧
      t.mem = (s.putAll (s.frameBytes f px).1).mem ∧
      ((s.flag s.srcFlag).poison = false → (t.flag s.srcFlag).gen = (s.flag s.srcFlag).gen + 1) ∧ (∀ k, k ≠ s.srcFlag → t.flag k = s.flag k) ∧
      Only [.badWords, .ctrs, .engines, .flags, .hostMem, .ingest, .me, .mem, .msix, .pages, .regs, .softWords] s t) ∧
    (∀ v, s.hostWrites .ingest 0 = false → exec (.hintProdWrite v) s = .next s ∧ exec (.bufCtrlWrite v) s = .next s) ∧
    (∀ v, s.hostWrites .ingest 0 = true →
      (∃ t, exec (.hintProdWrite v) s = .next t ∧ t.reg .ingest 0 0x064 = v % 2 ^ 32 ∧ (∀ k, k ≠ Blk.base .ingest 0 + 0x064 → t.regs.find? k = s.regs.find? k) ∧
        Only [.pages, .regs] s t) ∧
      (s.ingestIdle = false → ∃ t, exec (.bufCtrlWrite v) s = .next t ∧ t.regs = s.regs ∧ (t.page .ingest 0).errCode = 4 ∧
        (t.page .ingest 0).errValid = true ∧ Only [.pages] s t) ∧
      (s.ingestIdle = true → ∃ t, exec (.bufCtrlWrite v) s = .next t ∧
        t.reg .ingest 0 0x048 = (if bits v 27 16 = 4095 then s.srcFlag else bits v 27 16) * 2 ^ 16 + bits v 4 0 ∧
        (bits v 27 16 = 4095 → (t.page .ingest 0).errCode = 2 ∧ (t.page .ingest 0).errValid = true) ∧
        (bits v 27 16 ≠ 4095 → t.page .ingest 0 = { s.page .ingest 0 with src := 2 }) ∧
        (∀ k, k ≠ Blk.base .ingest 0 + 0x048 → t.regs.find? k = s.regs.find? k) ∧ Only [.pages, .regs] s t))

/-! ### Faults, dies, flags and the fabric -/

/-- UNIT_WATCHDOG_EXPIRY (R93) and BLOCK_FAULT (R433). The command that runs past its unit's limit (counted from now, the model's choice of assumption 8) ends FAILED_TIMEOUT with CAUSE 0x40, and its unit records
error 1; no other command changes. A block that is not OFF becomes FAULTED with its error, its running command has ended where no tile group is there to move, and the fault log's newest class is 2;
with AUTO_DISABLE its ENABLE is cleared as well. A command that cannot be running does not expire, and a block that is OFF, absent or FAULTED stays as it is. -/
def Obligations.WatchdogsAndBlockFaultsStopTheirUnit : Prop :=
  ∀ (s : State),
    (∀ uid, (∀ c, s.cmd? uid = some c → s.mayRun c = false) → exec (.unitWatchdogExpiry uid) s = .next s) ∧
    (∀ uid c, s.cmd? uid = some c → s.mayRun c = true → ∃ t, exec (.unitWatchdogExpiry uid) s = .next t ∧
      t.cmd? uid = some { c with
        place := .ended .timeout 0x40, fault := some ⟨laterTime s.now ((s.now + s.wdogTicks c) % 2 ^ 64), 0, 1⟩ } ∧ (∀ v, v ≠ uid → t.cmd? v = s.cmd? v) ∧
      t.now = laterTime s.now ((s.now + s.wdogTicks c) % 2 ^ 64) ∧
      (t.page (s.unitBlock c).1 (s.unitBlock c).2).errCode = 1 ∧ (t.page (s.unitBlock c).1 (s.unitBlock c).2).errInfo = BitVec.ofNat 32 (s.wdogInfo c) ∧
      (t.page (s.unitBlock c).1 (s.unitBlock c).2).errValid = true ∧ (t.page (s.unitBlock c).1 (s.unitBlock c).2).raw.getLsbD 0 = true ∧
      Only [.badWords, .cmds, .ctrs, .dma, .engines, .freeCount, .hostMem, .log, .me, .mem, .msix, .now, .pages, .regs, .softWords, .traceAt,
        .traceFill, .traceGap] s t) ∧
    (∀ b i wd run, b.canFault wd = false ∨ s.blockPresent b i = false ∨ (s.page b i).faulted = true ∨ s.blockOff b i = true →
      exec (.blockFault b i wd run) s = .next s) ∧
    (∀ b i wd run, b.canFault wd = true → s.blockPresent b i = true → (s.page b i).faulted = false → s.blockOff b i = false →
      ((s.reg .fault 0 0x044).testBit 0 = false ∨ b ≠ .ne ∨ ∀ g ∈ s.groups, g.live = true → g.engine ≠ i) →
      ∃ t, exec (.blockFault b i wd run) s = .next t ∧ (t.page b i).faulted = true ∧ (t.page b i).errValid = true ∧
        (t.page b i).errCode = (if wd then 1 else 2) ∧ ((s.reg .fault 0 0x044).testBit 0 = true → (t.page b i).enable = false) ∧
        ((s.reg .fault 0 0x044).testBit 0 = false → (t.page b i).enable = (s.page b i).enable) ∧
        (∀ uid c, run = some uid → s.cmd? uid = some c → s.mayRun c = true → c.block (s.engineOf c) = some (b, i) →
          ∀ d ∈ t.cmds, d.uid = uid → d.unstarted = false) ∧
        (∀ c, b = .me → s.meCmd = some c → ∀ d ∈ t.cmds, d.uid = c.uid → d.unstarted = false) ∧
        bits (t.reg .fault 0 0x040) 7 0 = 2 ∧
        Only [.backlog, .badWords, .cmds, .colls, .ctrs, .disp, .dma, .engines, .fetches, .flags, .freeCount, .groups, .hostMem, .jobs, .log, .me, .mem, .msix,
          .now, .pages, .raster, .regs, .rings, .softWords, .steps, .traceAt, .traceFill, .traceGap, .waiting] s t)

/-- The loss of a die (R436 to R438): DIE_LOSS, HEARTBEAT_TIMEOUT and RETIRE. A compute die that is lost is marked lost, its VR is off, its engines hold no
context and no row, no command is left in their queues, and the fault log's newest class is 4; a matching die that is lost leaves no command at the ME. A unit whose sequencer has failed records MICROCODE.
RETIRE takes every die that its value names, and with a wrong key only records error 1. A die that is absent or lost already stays as it is. -/
def Obligations.LostDiesLeaveTheirWork : Prop :=
  ∀ (s : State),
    (∀ n since, n < 8 → s.dieUsable n = true → ∀ unit, ∀ i ∈ [Instr.dieLoss n unit, .heartbeatTimeout n since],
      ∃ t, exec i s = .next t ∧ t.cdLost = s.cdLost ||| 2 ^ n ∧ t.dieUsable n = false ∧ t.mdLost = s.mdLost ∧
        t.pins.vrEn = s.pins.vrEn - (s.pins.vrEn &&& 2 ^ n) ∧
        (∀ g, g / 2 = n → (t.engine g).slots = [] ∧ (t.engine g).acc = []) ∧ (∀ c ∈ t.cmds, ∀ g j, c.place = .queued (.context g j) → g / 2 ≠ n) ∧
        bits (t.reg .fault 0 0x040) 7 0 = 4 ∧
        (i = .heartbeatTimeout n since → t.now = laterTime s.now ((since + s.heartbeatUs * usTicks) % 2 ^ 64)) ∧ (i = .dieLoss n unit → t.now = s.now ∧
          ∀ k, unit = some k → (t.page .ne (2 * n + k % 2)).errCode = 3 ∧ (t.page .ne (2 * n + k % 2)).errValid = true) ∧
        Only [.backlog, .badWords, .cdLost, .cmds, .colls, .ctrs, .engines, .fetches, .flags, .freeCount, .groups, .hostMem, .log, .me, .mem, .msix, .now,
          .pages, .pins, .raster, .regs, .rings, .softWords, .steps, .traceAt, .traceFill, .traceGap, .waiting] s t) ∧
    (∀ since, s.mdUsable = true → ∀ unit, ∀ i ∈ [Instr.dieLoss 8 unit, .heartbeatTimeout 8 since],
      ∃ t, exec i s = .next t ∧ t.mdLost = true ∧ t.mdUsable = false ∧ t.cdLost = s.cdLost ∧ t.me.uid = none ∧ (∀ c ∈ t.cmds, c.place ≠ .queued .me) ∧
        bits (t.reg .fault 0 0x040) 7 0 = 4 ∧
        (i = .heartbeatTimeout 8 since → t.now = laterTime s.now ((since + s.heartbeatUs * usTicks) % 2 ^ 64)) ∧
        (i = .dieLoss 8 unit → t.now = s.now ∧ ∀ k, unit = some k → (t.page .me 0).errCode = 3 ∧ (t.page .me 0).errValid = true) ∧
        Only [.badWords, .cmds, .engines, .freeCount, .hostMem, .log, .mdLost, .me, .mem, .msix, .now, .pages, .pins, .regs, .softWords] s t) ∧
    (∀ n since, (if n < 8 then s.dieUsable n else s.mdUsable) = false → (∀ unit, exec (.dieLoss n unit) s = .next s) ∧
      ∃ t, exec (.heartbeatTimeout n since) s = .next t ∧ t.now = laterTime s.now ((since + s.heartbeatUs * usTicks) % 2 ^ 64) ∧ Only [.now] s t) ∧
    (∀ v, s.hostWrites .fault 0 = false → exec (.retire v) s = .next s) ∧
    (∀ v, s.hostWrites .fault 0 = true →
      (bits v 31 16 ≠ 0xD1E5 → ∃ t, exec (.retire v) s = .next t ∧ (t.page .fault 0).errCode = 1 ∧ (t.page .fault 0).errValid = true ∧ Only [.pages] s t) ∧
      (bits v 31 16 = 0xD1E5 → ∃ t, exec (.retire v) s = .next t ∧ (∀ n, n < 8 → v.testBit n = true → t.dieUsable n = false) ∧
        (v.testBit 8 = true → t.mdUsable = false) ∧ (∀ n, n < 8 → v.testBit n = false → t.dieUsable n = s.dieUsable n) ∧
        (v.testBit 8 = false → t.mdUsable = s.mdUsable)))

/-- Hub faults and flags (R286 to R288, R432, R441, R442): FATAL_FAULT, HUB_FW_WATCHDOG, FLAG_ECC_POISON and FLAG_GEN_WRITE. A FATAL fault of a powered device
stops it: no command is left waiting and the status register shows it; the expiry of the watchdog of one of the two management cores restarts them, NACKs host AUX transactions and is remembered, and a
second within 1 s is FATAL; the watchdog of a core that debug holds halted is paused (R463); a
flag's uncorrectable error poisons it and is logged; a write of FLAG_GEN sets the selected flag and clears its poison. No other flag changes. -/
def Obligations.HubFaultsAndFlagRepairs : Prop :=
  ∀ (s : State),
    (∀ b p, 2 ≤ s.devState → (b = .sched ∨ b = .cfe ∨ (b = .memc ∧ s.blockPresent .memc p = true)) →
      ∃ t, exec (.fatalFault b p) s = .next t ∧ t.stopped = true ∧ (∀ c ∈ t.cmds, c.unstarted = false) ∧ t.me.uid = none ∧
        2 ^ 31 ≤ t.reg .fault 0 0x040 ∧ bits (t.reg .fault 0 0x040) 7 0 = 6 ∧
        Only [.badWords, .cmds, .engines, .freeCount, .hostMem, .log, .me, .mem, .msix, .pages, .regs, .softWords, .stopped] s t) ∧
    (∀ b p, s.devState < 2 ∨ (b ≠ .sched ∧ b ≠ .cfe ∧ (b = .memc → s.blockPresent .memc p = false)) → exec (.fatalFault b p) s = .next s) ∧
    (∀ core, s.devState < 2 ∨ s.boot.fwOk = false ∨ 2 ≤ core ∨ core ∈ s.dbg.halted → exec (.hubFwWatchdog core) s = .next s) ∧
    (∀ core, 2 ≤ s.devState → s.boot.fwOk = true → core < 2 → core ∉ s.dbg.halted →
      ((∀ x, s.lastFw = some x → timeReached (x + 1000 * msTicks) s.now = false) →
        ∃ t, exec (.hubFwWatchdog core) s = .next t ∧ t.lastFw = some s.now ∧
        (∀ i, (s.out i).auxBusy = true → t.out i = { s.out i with auxBusy := false, auxResult := 1 }) ∧
        (∀ i, (s.out i).auxBusy = false → t.out i = s.out i) ∧ bits (t.reg .fault 0 0x040) 7 0 = 5 ∧
        Only [.badWords, .freeCount, .hostMem, .lastFw, .log, .mem, .msix, .outs, .pages, .regs, .softWords] s t) ∧
      (∀ x, s.lastFw = some x → timeReached (x + 1000 * msTicks) s.now = true → ∃ t, exec (.hubFwWatchdog core) s = .next t ∧
        t.stopped = true ∧ (∀ c ∈ t.cmds, c.unstarted = false) ∧ t.me.uid = none ∧ 2 ^ 31 ≤ t.reg .fault 0 0x040 ∧
        bits (t.reg .fault 0 0x040) 7 0 = 6 ∧
        Only [.badWords, .cmds, .engines, .freeCount, .hostMem, .log, .me, .mem, .msix, .pages, .regs, .softWords, .stopped] s t)) ∧
    (∀ f, f < 4096 → (s.flag f).poison = false → ∃ t, exec (.flagEccPoison f) s = .next t ∧ t.flag f = { s.flag f with poison := true } ∧
      (∀ k, k ≠ f → t.flag k = s.flag k) ∧ t.reg .fault 0 0x04C = (s.reg .fault 0 0x04C + 1) % 2 ^ 32 ∧ bits (t.reg .fault 0 0x040) 7 0 = 1 ∧
      Only [.badWords, .engines, .flags, .freeCount, .hostMem, .log, .mem, .msix, .pages, .regs, .softWords] s t) ∧
    (∀ f, 4096 ≤ f ∨ (s.flag f).poison = true → exec (.flagEccPoison f) s = .next s) ∧
    (∀ v, s.hostWrites .flags 0 = false → exec (.flagGenWrite v) s = .next s) ∧
    (∀ v f, s.hostWrites .flags 0 = true → f = s.reg .flags 0 0x040 % 4096 → ∃ t, exec (.flagGenWrite v) s = .next t ∧
      (t.flag f).gen = BitVec.ofNat 32 v ∧ (t.flag f).poison = false ∧ (∀ k, k ≠ f → t.flag k = s.flag k) ∧
      (s.waiters f ≠ 0 → (t.page .flags 0).raw = (s.page .flags 0).raw ||| 0b1) ∧ (s.waiters f = 0 → (t.page .flags 0).raw = (s.page .flags 0).raw) ∧
      t.me = { s.me with window := s.me.window.filter fun r => t.unreturned r.2 } ∧
      Only [.engines, .flags, .hostMem, .me, .msix, .pages] s t)

/-- Windows, partitions, scrubbing, the Welt fabric and DRAM (R281 to R285, R290 to R298): TMEM_WINDOW_WRITE, PART_CTRL_WRITE, SCRUB_READ, WELT_CRC_ERROR,
WELT_RETRAIN, WELT_RETRAIN_END, DRAM_REFRESH, DRAM_TCR_READ and DRAM_WCK_OSC_READ. A scrub read corrects and counts a single-bit error, and counts and
records one past correction, with what it is lost of the command SRAM: a packet of an aperture, a command of the pending store, or a record, which is written
all the same (R283, R284, R429). The same command brings the error (the model's choice, assumption 69). That DRAM_WCK_OSC_READ changes nothing that is seen, and
that at most 8 refreshes are postponed and one refresh makes up for all, is the model's reading (DEDUCED, assumption 44). Commands for what does not answer, or is
in another state, do nothing. -/
def Obligations.WindowsScrubbingFabricAndDram : Prop :=
  ∀ (s : State),
    (∀ d w v, 3 ≤ w ∨ 8 ≤ d ∨ s.hostWrites .tmem d = false → exec (.tmemWindowWrite d w v) s = .next s) ∧
    (∀ d w v j, w < 3 → d < 8 → s.hostWrites .tmem d = true → j = s.reg .tmem d 0x040 % 64 →
      ((s.job j).valid = true → ∃ t, exec (.tmemWindowWrite d w v) s = .next t ∧ (t.page .tmem d).errCode = 4 ∧ Only [.pages] s t) ∧
      ((s.job j).valid = false → 1024 < bits v 9 0 + bits v 20 10 → ∃ t, exec (.tmemWindowWrite d w v) s = .next t ∧ (t.page .tmem d).errCode = 2 ∧
        Only [.pages] s t) ∧
      ((s.job j).valid = false → bits v 9 0 + bits v 20 10 ≤ 1024 → ∃ t, exec (.tmemWindowWrite d w v) s = .next t ∧
        t.window d j w = BitVec.ofNat 32 (v &&& 0x801FFFFF) ∧ (∀ e k x, k < 64 → x < 4 → (e, k, x) ≠ (d, j, w) → t.window e k x = s.window e k x) ∧
        Only [.pages, .windows] s t)) ∧
    (∀ v, s.hostWrites .hsram 0 = false → exec (.partCtrlWrite v) s = .next s) ∧
    (∀ v, s.hostWrites .hsram 0 = true →
      (s.stagingQuiet = false → ∃ t, exec (.partCtrlWrite v) s = .next t ∧ (t.page .hsram 0).errCode = 4 ∧ Only [.pages] s t) ∧
      (s.stagingQuiet = true → partitionOk (bits v 12 8) (max 8 (min 32 (bits (s.reg .raster 0 0x048) 13 8))) = false →
        ∃ t, exec (.partCtrlWrite v) s = .next t ∧ (t.page .hsram 0).errCode = 2 ∧ Only [.pages] s t) ∧
      (s.stagingQuiet = true → partitionOk (bits v 12 8) (max 8 (min 32 (bits (s.reg .raster 0 0x048) 13 8))) = true →
        ∃ t, exec (.partCtrlWrite v) s = .next t ∧ t.reg .hsram 0 0x040 = v &&& 0x1F00 ∧
          (∀ k, k ≠ Blk.base .hsram 0 + 0x040 → t.regs.find? k = s.regs.find? k) ∧ Only [.pages, .regs] s t)) ∧
    -- a word of tile memory, of the protected part of DRAM, or of hub SRAM
    (∀ a kind b i corr uncorr cirq uirq code,
      (∃ d, s.target a 1 = some (.tmem d) ∧ s.dieUsable d = true ∧ (s.reg .tmem d 0x050).testBit 31 = true ∧
        (b, i, corr, uncorr, cirq, uirq, code) = (Blk.tmem, d, 0x054, 0x058, 0, 1, 1)) ∨
      (s.target a 1 = some .dram ∧ s.eccChecked a = true ∧ bits (s.reg .memc (s.portOf a) 0x040) 31 30 = 2 ∧
        (b, i, corr, uncorr, cirq, uirq, code) = (Blk.memc, s.portOf a, 0x050, 0x054, 1, 2, 2)) ∨
      ((s.target a 1 = some .hubSram ∨ s.target a 1 = some .staging) ∧
        (b, i, corr, uncorr, cirq, uirq, code) = (Blk.hsram, 0, 0x044, 0x048, 0, 1, 1)) →
      (s.badWords.contains (a / 8) = false → kind = 1 ∨ (kind ≠ 2 ∧ s.softWords.contains (a / 8) = true) →
        ∃ t, exec (.scrubRead (.word a) kind) s = .next t ∧ t.reg b i corr = min (s.reg b i corr + 1) (2 ^ 32 - 1) ∧
          (t.page b i).raw.getLsbD cirq = true ∧ t.softWords.contains (a / 8) = false ∧ (∀ w ∈ t.badWords, w ∈ s.badWords) ∧
          Only [.badWords, .ctrs, .hostMem, .log, .mem, .msix, .pages, .regs, .softWords] s t) ∧
      (s.badWords.contains (a / 8) = true ∨ kind = 2 →
        ∃ t, exec (.scrubRead (.word a) kind) s = .next t ∧ t.badWords = (s.spoil a).badWords ∧
          t.reg b i uncorr = min (s.reg b i uncorr + 1) (2 ^ 32 - 1) ∧ (t.page b i).errCode = code ∧ (t.page b i).errAddr = a ∧
          (t.page b i).errValid = true ∧ (t.page b i).raw.getLsbD uirq = true ∧ (kind ≠ 1 → t.softWords = s.softWords) ∧
          Only [.badWords, .ctrs, .hostMem, .msix, .pages, .regs, .softWords] s t) ∧
      (kind = 0 → s.badWords.contains (a / 8) = false → s.softWords.contains (a / 8) = false →
        ∃ t, exec (.scrubRead (.word a) kind) s = .next t ∧ Only [.ctrs, .hostMem, .msix, .pages] s t)) ∧
    (∀ a d, s.target a 1 = some (.tmem d) → s.dieUsable d = true → (s.reg .tmem d 0x050).testBit 31 = false →
      exec (.scrubRead (.word a) 0) s = .next s ∧ exec (.scrubRead (.word a) 1) s = .next (s.soften a) ∧
      exec (.scrubRead (.word a) 2) s = .next (s.spoil a)) ∧
    (∀ a kind, s.target a 1 = none → exec (.scrubRead (.word a) kind) s = .next s) ∧
    -- accumulator rows, bin memory, line buffers, match memory and DRAM links
    (∀ g slot r, s.dieUsable (g / 2) = true →
      (∃ t, exec (.scrubRead (.acc g slot r) 1) s = .next t ∧ t.reg .ne g 0x07C = min (s.reg .ne g 0x07C + 1) (2 ^ 32 - 1) ∧
        (t.page .ne g).raw.getLsbD 1 = true ∧ t.engines = s.engines) ∧
      (∃ t, exec (.scrubRead (.acc g slot r) 2) s = .next t ∧ ((t.engine g).row slot r).poison = true ∧ (t.page .ne g).errCode = 2 ∧
        (t.page .ne g).errAddr = accAddr slot r ∧ (t.page .ne g).raw.getLsbD 2 = true ∧ (∀ h, h ≠ g → t.engine h = s.engine h) ∧
        Only [.engines, .hostMem, .msix, .pages] s t)) ∧
    (∀ chunk, ∃ t, exec (.scrubRead (.bin chunk) 2) s = .next t ∧ chunk ∈ t.raster.badChunks ∧
      t.reg .hsram 0 0x048 = min (s.reg .hsram 0 0x048 + 1) (2 ^ 32 - 1) ∧ Only [.hostMem, .msix, .pages, .raster, .regs] s t) ∧
    (∀ off, ∃ t, exec (.scrubRead (.line off) 1) s = .next t ∧ t.reg .disp 0 0x0D4 = min (s.reg .disp 0 0x0D4 + 1) (2 ^ 32 - 1) ∧
      t.reg .hsram 0 0x044 = min (s.reg .hsram 0 0x044 + 1) (2 ^ 32 - 1) ∧
      Only [.badWords, .hostMem, .log, .mem, .msix, .pages, .regs, .softWords] s t) ∧
    (∀ off c, s.mdUsable = true → s.me.uid = some c.uid → s.cmd? c.uid = some c → c.unstarted = true →
      ∃ t, exec (.scrubRead (.matchMem off) 2) s = .next t ∧ t.cmd? c.uid = some { c with
          place := .ended .ecc 0x33, fault := some ⟨s.now, off, 1⟩ } ∧ t.me.uid = none ∧
        (t.page .me 0).errCode = 2 ∧ (t.page .me 0).errAddr = off ∧ Only [.cmds, .engines, .hostMem, .me, .msix, .pages, .regs] s t) ∧
    (∀ off, (∃ t, exec (.scrubRead (.store off) 1) s = .next t ∧ t.reg .hsram 0 0x044 = min (s.reg .hsram 0 0x044 + 1) (2 ^ 32 - 1) ∧
        (t.page .hsram 0).raw.getLsbD 0 = true ∧ Only [.badWords, .hostMem, .log, .mem, .msix, .pages, .regs, .softWords] s t) ∧
      (∃ t, exec (.scrubRead (.store off) 2) s = .next t ∧ t.reg .hsram 0 0x048 = min (s.reg .hsram 0 0x048 + 1) (2 ^ 32 - 1) ∧
        (t.page .hsram 0).errCode = 1 ∧ (t.page .hsram 0).errAddr = off ∧ (t.page .hsram 0).raw.getLsbD 1 = true ∧
        (∀ k x, off < aptSram → k = off / 65536 * 1024 + off % 65536 / 64 → s.aptSlots.find? k = some x → x.landed = true →
          t.aptSlots = s.aptSlots.set k { x with bad := true } ∧ t.cmds = s.cmds ∧ t.waiting = s.waiting) ∧
        (∀ c, aptSram ≤ off → off < storeSram → s.cmd? c.uid = some c →
          (s.cmds.find? fun d => d.heldEntry && d.store == (off - aptSram) / 64 && d.place == .pending) = some c → c.opcode ≠ 1 →
          t.cmd? c.uid = some { c with place := .ended .ecc 0x30, fault := some ⟨s.now, off, 1⟩ } ∧ t.aptSlots = s.aptSlots ∧ t.waiting = s.waiting) ∧
        (∀ r, storeSram ≤ off → s.waiting[(off - storeSram) / 16]? = some r →
          (∃ x, t.waiting = s.waiting.set ((off - storeSram) / 16) { r with status := Status.ecc.code, cause := 0, time := x }) ∧
          t.cmds = s.cmds ∧ t.aptSlots = s.aptSlots))) ∧
    (∀ p, s.blockPresent .memc p = true → ∃ t, exec (.scrubRead (.link p) 1) s = .next t ∧
      t.reg .memc p 0x058 = min (s.reg .memc p 0x058 + 1) (2 ^ 32 - 1) ∧
      Only [.badWords, .hostMem, .log, .mem, .msix, .pages, .regs, .softWords] s t) ∧
    (∀ m, s.modulePresent m = false ∨ (s.module m).state ≠ 2 → ∀ ok held, exec (.weltCrcError m ok held) s = .next s) ∧
    (∀ m, s.modulePresent m = false ∨ s.training m = false → ∀ up lanes x, exec (.weltRetrainEnd m up lanes x) s = .next s) ∧
    (∀ m, s.modulePresent m = false ∨ s.hostWrites .welt m = false → exec (.weltRetrain m) s = .next s) ∧
    (∀ m, s.modulePresent m = true →
      ((s.module m).state = 2 → ∀ held, (∃ t, exec (.weltCrcError m true held) s = .next t ∧ (t.module m).fails = 0 ∧ (t.module m).state = 2 ∧
          (∀ k, k ≠ m → t.module k = s.module k)) ∧
        ((s.module m).fails + 1 < s.replayLimit m → ∃ t, exec (.weltCrcError m false held) s = .next t ∧
          t.module m = { s.module m with fails := (s.module m).fails + 1 } ∧ (∀ k, k ≠ m → t.module k = s.module k)) ∧
        (s.replayLimit m ≤ (s.module m).fails + 1 → ∃ t, exec (.weltCrcError m false held) s = .next t ∧
          (t.module m).state = 1 ∧ (∀ k, k ≠ m → t.module k = s.module k))) ∧
      (s.hostWrites .welt m = true → ∃ t, exec (.weltRetrain m) s = .next t ∧ t.module m = { s.module m with state := 1, fails := 0, since := s.now } ∧
        t.reg .welt m 0x054 = min (s.reg .welt m 0x054 + 1) (2 ^ 32 - 1) ∧ (∀ o, o ≠ Blk.base .welt m + 0x054 → t.regs.find? o = s.regs.find? o) ∧
        (∀ k, k ≠ m → t.module k = s.module k) ∧ Only [.ctrs, .engines, .hostMem, .msix, .pages, .regs, .welt] s t) ∧
      (s.training m = true → (∀ lanes x, ∃ t, exec (.weltRetrainEnd m true lanes x) s = .next t ∧
          t.module m = { s.module m with state := 2, fails := 0, repaired := lanes % 256 } ∧ (∀ k, k ≠ m → t.module k = s.module k)) ∧
        (∀ lanes x, ∃ t, exec (.weltRetrainEnd m false lanes x) s = .next t ∧ (t.module m).state = 0 ∧ (t.module m).fails = 0 ∧
          (∀ k, k ≠ m → t.module k = s.module k)))) ∧
    (∀ ch u, s.portReady (ch / 2) = false → exec (.dramRefresh ch u) s = .next s) ∧
    (∀ ch, s.portReady (ch / 2) = true →
      (s.refresh.get ch 0 < 8 → ∃ t, exec (.dramRefresh ch true) s = .next t ∧ t.refresh.get ch 0 = s.refresh.get ch 0 + 1 ∧ Only [.refresh] s t) ∧
      (8 ≤ s.refresh.get ch 0 → ∃ t, exec (.dramRefresh ch true) s = .next t ∧ t.refresh = s.refresh ∧ Only [.ctrs, .hostMem, .msix, .pages] s t) ∧
      (∃ t, exec (.dramRefresh ch false) s = .next t ∧ t.refresh = s.refresh.erase ch ∧ Only [.ctrs, .hostMem, .msix, .pages, .refresh] s t)) ∧
    (∀ p rate, s.portReady p = false ∨ (s.reg .memc p 0x04C).testBit 31 = false → exec (.dramTcrRead p rate) s = .next s) ∧
    (∀ p rate, s.portReady p = true → (s.reg .memc p 0x04C).testBit 31 = true → ∃ t, exec (.dramTcrRead p rate) s = .next t ∧
      bits (t.reg .memc p 0x04C) 1 0 = min rate 2 ∧ t.reg .memc p 0x04C / 4 = s.reg .memc p 0x04C / 4 ∧
      (∀ o, o ≠ Blk.base .memc p + 0x04C → t.regs.find? o = s.regs.find? o) ∧
      (bits (s.reg .memc p 0x04C) 1 0 < min rate 2 → (t.page .memc p).raw = (s.page .memc p).raw ||| 0b1000) ∧
      Only [.hostMem, .msix, .pages, .regs] s t) ∧
    (∀ p, exec (.dramWckOscRead p) s = .next s)

/-! ### Power, coolant and temperature -/

/-- Power, its estimate and its cap (R402 to R407, R412, R413, R425): POWER_ESTIMATE, VR_VOLTAGE_CONFIRMED, CAP_UPDATE, DISAGREE_CLEAR and SHARE_ORDER_WRITE.
An estimate adds the power of each domain, keeps the current of each compute die at or above its floor (R409), with the stitch that takes, and leaves the throttle alone; a confirmed voltage ends the die's ramp; an update closes the interval of 1 ms, holds
D at or above zero and shares it within each domain's largest fraction; a share order that is no permutation is refused. A sample counts when every regulator in use
reports and the firmware that reads them does not pause. Without power, and for a page that does not answer, nothing happens. -/
def Obligations.PowerFollowsItsEstimateAndCap : Prop :=
  ∀ (s : State),
    (∀ hub (md : Nat) counts compute (u : State), s.powered = true → u.now = laterTime s.now ((s.pwr.lastEst + 2 * usTicks) % 2 ^ 64) →
      u = { s with now := u.now, pwr := { s.pwr with lastEst := u.now } } →
      compute = ((List.range 9).map fun k => if !s.dieUp k then (0 : Rat) else (u.diePowerMw k md (counts.getD k [])).1).sum →
      ∃ t, exec (.powerEstimate hub md counts) s = .next t ∧ t.now = laterTime s.now ((s.pwr.lastEst + 2 * usTicks) % 2 ^ 64) ∧ t.pwr.lastEst = t.now ∧
        t.pwr.samples = s.pwr.samples + 1 ∧ (∀ k, k < 3 → t.pwr.acc.getD k 0 = s.pwr.acc.getD k 0 + ((hub.getD k 0 : Nat) : Rat)) ∧
        t.pwr.acc.getD 3 0 = s.pwr.acc.getD 3 0 + compute ∧
        t.pwr.energy = s.pwr.energy + 2 * (((hub.getD 0 0 : Nat) : Rat) + ((hub.getD 1 0 : Nat) : Rat) + ((hub.getD 2 0 : Nat) : Rat) + compute) ∧
        (∀ k, k < 9 → s.dieUp k = true → (t.diePower k).stitch = (u.diePowerMw k md (counts.getD k [])).2 ∧ (t.diePower k).amps =
          (max (u.floorMa k) (currentOf (u.diePowerMw k md (counts.getD k [])).1 (u.dieMv k)) :: (u.diePower k).amps).take 5) ∧
        t.pwr.frac = s.pwr.frac ∧ t.pwr.shed = s.pwr.shed ∧ t.pwr.est = s.pwr.est ∧ t.pwr.dom = s.pwr.dom ∧ t.pwr.temps = s.pwr.temps ∧
        Only [.engines, .hostMem, .issue, .msix, .now, .pages, .pwr, .regs] s t) ∧
    (s.powered = false → (∀ hub md counts, exec (.powerEstimate hub md counts) s = .next s) ∧ ∀ xs, exec (.capUpdate xs) s = .next s) ∧
    (∀ die, 9 ≤ die ∨ s.dieUp die = false → exec (.vrVoltageConfirmed die) s = .next s) ∧
    (∀ die, die < 9 → s.dieUp die = true → ∃ t, exec (.vrVoltageConfirmed die) s = .next t ∧
      (∃ c f, t.diePower die = { s.diePower die with confirmed := some (s.diePower die).opp, ramp := 0, coll := c, collFor := f }) ∧
      (∀ k, k ≠ die → ∃ c f, t.diePower k = { s.diePower k with coll := c, collFor := f }) ∧ Only [.pwr] s t) ∧
    (∀ samples, s.powered = true → ∃ t, exec (.capUpdate samples) s = .next t ∧ t.now = laterTime s.now ((s.pwr.lastCap + msTicks) % 2 ^ 64) ∧ t.pwr.lastCap = t.now ∧
      (s.pwr.samples ≠ 0 → t.pwr.dom = s.pwr.acc.map (fun x => x / (s.pwr.samples : Rat)) ∧ t.pwr.acc = [0, 0, 0, 0] ∧ t.pwr.samples = 0) ∧
      (s.pwr.samples = 0 → t.pwr.dom = s.pwr.dom ∧ t.pwr.acc = s.pwr.acc ∧ t.pwr.samples = 0) ∧ t.pwr.est = t.pwr.dom.sum ∧
      t.pwr.ring = ((if t.pwr.sticky && t.pwr.pmbusOk then max t.pwr.est t.pwr.meas else t.pwr.est) :: s.pwr.ring).take (1000 * s.windowS) ∧
      t.pwr.avg = t.pwr.ring.sum / (t.pwr.ring.length : Rat) ∧ 0 ≤ t.pwr.shed ∧
      (∀ k, k < 4 → 0 ≤ t.pwr.frac.getD k 0 ∧ t.pwr.frac.getD k 0 ≤ maxFraction k) ∧
      (s.pwr.shed = 0 → t.pwr.shed ≠ 0 → (t.page .pwr 0).raw.getLsbD 1 = true) ∧
      ((∀ k ∈ s.regulators, (samples.getD k none).isSome = true) →
        { s with now := laterTime s.now ((s.pwr.lastCap + msTicks) % 2 ^ 64) }.fwPaused = false →
        t.pwr.meas = (s.regulators.map fun k => (samples.getD k none).getD 0).sum ∧ t.pwr.pmbusOk = true ∧ t.pwr.invalid = 0) ∧
      (((∃ k ∈ s.regulators, samples.getD k none = none) ∨ { s with now := laterTime s.now ((s.pwr.lastCap + msTicks) % 2 ^ 64) }.fwPaused = true) → t.pwr.meas = s.pwr.meas ∧ t.pwr.invalid = s.pwr.invalid + 1 ∧
        (t.pwr.invalid = 100 → t.pwr.pmbusOk = false ∧ (t.page .pwr 0).raw.getLsbD 6 = true)) ∧
      t.pwr.energy = s.pwr.energy ∧ t.pwr.temps = s.pwr.temps ∧ Only [.hostMem, .msix, .now, .pages, .pwr] s t) ∧
    (s.hostWrites .pwr 0 = false → exec .disagreeClear s = .next s ∧ ∀ v, exec (.shareOrderWrite v) s = .next s) ∧
    (s.hostWrites .pwr 0 = true → exec .disagreeClear s = .next { s with pwr := { s.pwr with sticky := false, diffMax := 0, differ := 0 } } ∧
      (∀ v, ((List.range 4).map fun k => bits v (2 * k + 1) (2 * k)).Nodup → ∃ t, exec (.shareOrderWrite v) s = .next t ∧
        t.reg .pwr 0 0x048 = v % 256 ∧ (∀ o, o ≠ Blk.base .pwr 0 + 0x048 → t.regs.find? o = s.regs.find? o) ∧ Only [.pages, .regs] s t) ∧
      (∀ v, ¬ ((List.range 4).map fun k => bits v (2 * k + 1) (2 * k)).Nodup → ∃ t, exec (.shareOrderWrite v) s = .next t ∧
        (t.page .pwr 0).errCode = 2 ∧ (t.page .pwr 0).errValid = true ∧ Only [.pages] s t))

/-- Coolant and heat (R416 to R419): COOL_FLOW_OK_FALL, COOL_FLOW_OK_RISE, COOLANT_STOP, DIE_RESTART, THERMAL_TICK and CRITICAL_TRIP. A low COOL_FLOW_OK
that lasts takes the device to HOLD and stops the clocks of every die; when a cause has been clear for long enough and no other keeps them stopped,
the dies start again, with tile memory of zeros, and the bits of both causes clear; COOL_FLOW_OK changes no earlier than its filter time after its last change (R483); a
tick records each temperature and moves each die's throttle; 115 °C turns the device off in every state. -/
def Obligations.CoolantAndHeatStopTheDies : Prop :=
  ∀ (s : State),
    (∀ u : State, u = s.filtered .cool 0 → s.pins.coolOk = true → ∃ t, exec .coolFlowOkFall s = .next t ∧
      t.pins = { u.pins with coolOk := false } ∧ t.now = u.now ∧
      t.pwr = { s.pwr with coolLow := some u.now, coolBack := none } ∧ Only [.now, .pins, .pwr] s t) ∧
    (∀ (u : State) since, u = s.filtered .cool 0 → s.pins.coolOk = false → since = s.pwr.coolLow.getD u.now →
      timeReached u.now (since + s.debounceMs * msTicks) = false →
      ∃ t, exec .coolFlowOkRise s = .next t ∧ t.pins = { u.pins with coolOk := true } ∧ t.now = u.now ∧
        t.pwr = { s.pwr with coolLow := none, coolBack := if s.holdCauses.testBit 0 then some u.now else none } ∧
        t.reg .pwr 0 0x094 = min (s.reg .pwr 0 0x094 + 1) (2 ^ 32 - 1) ∧ (∀ o, o ≠ Blk.base .pwr 0 + 0x094 → t.regs.find? o = s.regs.find? o) ∧
        Only [.now, .pins, .pwr, .regs] s t) ∧
    (∀ (u v : State) since, u = s.filtered .cool 0 → s.pins.coolOk = false → s.pwr.coolLow = some since →
      timeReached u.now (since + s.debounceMs * msTicks) = true → s.holdCauses.testBit 0 = false → exec .coolantStop u = .next v →
      exec .coolFlowOkRise s = .next { v with
        pins := { v.pins with coolOk := true }
        pwr := { v.pwr with coolLow := none, coolBack := if v.holdCauses.testBit 0 then some v.now else none } }) ∧
    (s.pins.coolOk = true → exec .coolFlowOkRise s = .next s ∧ exec .coolantStop s = .next s) ∧
    (s.pins.coolOk = false → exec .coolFlowOkFall s = .next s) ∧
    (s.powered = false ∨ s.holdCauses.testBit 0 = true ∨ s.pwr.coolLow = none → exec .coolantStop s = .next s) ∧
    (∀ (u : State) since, u = s.filtered .cool 0 → s.pins.coolOk = false → since = s.pwr.coolLow.getD u.now →
      timeReached u.now (since + s.debounceMs * msTicks) = true → s.holdCauses.testBit 0 = true → ∃ t, exec .coolFlowOkRise s = .next t ∧
      t.pins = { u.pins with coolOk := true } ∧ t.now = u.now ∧
      t.pwr = { s.pwr with coolLow := none, coolBack := some u.now } ∧ Only [.now, .pins, .pwr] s t) ∧
    (∀ since, s.pins.coolOk = false → s.pwr.coolLow = some since → s.powered = true → s.holdCauses.testBit 0 = false →
      ∃ t, exec .coolantStop s = .next t ∧ t.now = laterTime s.now ((since + s.debounceMs * msTicks) % 2 ^ 64) ∧ t.devState = 5 ∧ t.holdCauses = s.holdCauses ||| 1 ∧
        t.pwr.diesStopped = true ∧ (t.page .pwr 0).raw.getLsbD 4 = true ∧ (∀ c ∈ t.cmds, c.stopsInHold = true → c.unstarted = false) ∧
        (s.pwr.diesStopped = false → ∀ k, k < 9 → t.dieUp k = false) ∧
        Only [.badWords, .cairn, .cmds, .devState, .disp, .engines, .fetches, .holdCauses, .hostMem, .me, .mem, .msix, .now, .pages, .pins, .pwr, .regs, .softWords] s t) ∧
    (∀ thermal since u, s.clearSince thermal = some since → s.devState = 5 → s.holdCauses.testBit (b2n thermal) = true →
      u = { s with now := laterTime s.now ((since + s.restoreMs * msTicks) % 2 ^ 64) } →
      (u.stillStopped (!thermal) = true → exec (.dieRestart thermal) s = .next u) ∧
      (u.stillStopped (!thermal) = false → ∃ t, exec (.dieRestart thermal) s = .next t ∧ t.now = u.now ∧
        t.holdCauses = s.holdCauses - (s.holdCauses &&& 3) ∧ t.pwr = { s.pwr with diesStopped := false } ∧
        (t.page .pwr 0).raw.getLsbD 7 = true ∧ (∀ k ∈ s.packageDies, t.dieState k = if s.dieState k = 3 then 2 else s.dieState k) ∧
        (MemOk s → ∀ k ∈ s.packageDies, k < 8 → s.dieState k = 3 → ∀ a, tmemBase k ≤ a → a < tmemBase k + 0x10000000 → t.mem.read 0 a = 0) ∧
        (∀ a, MemOk s → (∀ k ∈ s.packageDies, k < 8 → s.dieState k = 3 → a < tmemBase k ∨ tmemBase k + 0x10000000 ≤ a) → t.mem.read 0 a = s.mem.read 0 a) ∧
        Only [.badWords, .engines, .holdCauses, .hostMem, .mem, .msix, .now, .pages, .pins, .pwr, .regs, .softWords] s t)) ∧
    (∀ thermal, s.clearSince thermal = none ∨ s.devState ≠ 5 ∨ s.holdCauses.testBit (b2n thermal) = false →
      exec (.dieRestart thermal) s = .next s) ∧
    (∀ temps, s.powered = false → exec (.thermalTick temps) s = .next s) ∧
    (∀ temps limit, s.powered = true → limit = (16 : Int) * s.throttleC → ∃ t, exec (.thermalTick temps) s = .next t ∧
      t.now = laterTime s.now ((s.pwr.lastTherm + msTicks) % 2 ^ 64) ∧ t.pwr.lastTherm = t.now ∧
      (∀ k ∈ s.packageDies, t.pwr.temps.get k 0 = temps.getD k 0 ∧ (t.diePower k).therm =
        thermStep (s.diePower k).therm (limit ≤ temps.getD k 0 || (k < 8 && limit ≤ temps.getD 9 0))
          (temps.getD k 0 < limit - 32 && (8 ≤ k || temps.getD 9 0 < limit - 32))) ∧
      t.pwr.temps.get 9 0 = temps.getD 9 0 ∧
      ((∃ k ∈ s.packageDies ++ [9], 1680 ≤ temps.getD k 0) → s.holdCauses.testBit 1 = false → t.devState = 5 ∧ t.holdCauses = s.holdCauses ||| 2 ∧
        t.pwr.diesStopped = true ∧ (t.page .pwr 0).raw.getLsbD 5 = true) ∧
      ((∀ k ∈ s.packageDies ++ [9], temps.getD k 0 < 1680) → t.devState = s.devState ∧ t.holdCauses = s.holdCauses ∧ t.cmds = s.cmds ∧
        t.pwr.diesStopped = s.pwr.diesStopped) ∧
      Only [.badWords, .cairn, .cmds, .devState, .disp, .engines, .fetches, .holdCauses, .hostMem, .me, .mem, .msix, .now, .pages, .pins, .pwr, .regs, .softWords] s t) ∧
    (s.devState = 0 → exec .criticalTrip s = .next s) ∧
    (s.devState ≠ 0 → ∃ t, exec .criticalTrip s = .next t ∧ t.devState = 0 ∧ t.pins.trip = true ∧ t.pins.smbAlert = true ∧ t.cmds = [] ∧ t.mem = [] ∧
      (s.pins.bc = true → 2 ^ 31 ≤ t.reg .basecamp 0 0x040) ∧
      (s.boot.upd = none → t.freeCount = s.freeCount ∧ t.boot.flash = s.boot.flash) ∧
      Only (fieldsBut [.pending, .part, .nextUid, .hostMem, .protEff, .bw]) s t)

/-! ### Reset, sleep, boot and field update -/

/-- Reset, sleep and wake sources (R372, R373, R380, R423, R424, R427, R443, R461, R475, R480): DEV_RESET, DEVICE_RESET_ACT, SLEEP, WAKE_N_FALL, USB4_WAKE_SIGNAL,
ALARM, PWR_GOOD_RISE, XTAL32_START, RESET_ASSERT and SUPPLY_LOSS. A reset ends all work and acts once every record is out; it aborts an update operation, of which
only the sectors that it changes are open then (R398). A sleep with its key ends all work, enters BASECAMP once every record is out, and keeps DRAM only when it
refreshes itself; it loses SCRATCH (R372's table) and keeps LOCKOUT and the count FAILS (DEDUCED from R461, assumption 71), and waits for an update operation to end
(DESIGN CHOICE, assumption 47). A wake source that is enabled starts the wake, and one that arrives during the entry is latched; the reset pin and a lost supply leave nothing
running. -/
def Obligations.ResetSleepAndWakeMoveTheDevice : Prop :=
  ∀ (s : State),
    (∀ v, s.hostWrites .hubSys 0 = false → exec (.devReset v) s = .next s) ∧
    (∀ v, s.hostWrites .hubSys 0 = true →
      (bits v 31 16 ≠ 0xB007 → ∃ t, exec (.devReset v) s = .next t ∧ (t.page .hubSys 0).errCode = 1 ∧ (t.page .hubSys 0).errValid = true ∧ Only [.pages] s t) ∧
      (bits v 31 16 = 0xB007 → v.testBit 0 = false → exec (.devReset v) s = .next s) ∧
      (bits v 31 16 = 0xB007 → v.testBit 0 = true → ∃ t, exec (.devReset v) s = .next t ∧ t.resetPending = true ∧ t.stopped = true ∧ t.me.uid = none ∧
        (∀ c ∈ t.cmds, c.unstarted = false) ∧ Only [.cmds, .engines, .me, .regs, .resetPending, .stopped] s t)) ∧
    (s.resetPending = true → s.recordsOut = true → ∃ t, exec .deviceResetAct s = .next t ∧ t.devState = 2 ∧ t.resetPending = false ∧ t.cmds = [] ∧ t.jobs = [] ∧ t.insole = [] ∧
      t.boot.path = some (if (s.reg .sec 0 0x05C).testBit 2 then 0 else 2) ∧ t.boot.timeZero = s.now ∧ t.boot.waitGood = false ∧
      t.mem = s.mem.takeWhile (fun c => c.1 < hubSramBase) ∧ t.dbg = State.reset.dbg ∧ t.boot.upd = none ∧ t.boot.updResult = 0 ∧
      (s.boot.upd = none → t.freeCount = s.freeCount ∧ t.boot.flash = s.boot.flash) ∧
      (∀ u a, s.boot.upd = some u → s.boot.flash.wf 0xFF = true →
        a < u.addr / 0x10000 * 0x10000 ∨ ((u.addr + u.bytes - 1) / 0x10000 + 1) * 0x10000 ≤ a →
        t.boot.flash.read 0xFF a = s.boot.flash.read 0xFF a) ∧
      Only (fieldsBut [.pending, .part, .now, .nextUid, .link, .protEff, .bw]) s t) ∧
    (s.resetPending = false ∨ s.recordsOut = false → exec .deviceResetAct s = .next s) ∧
    (∀ v, s.hostWrites .basecamp 0 = false → exec (.sleep v) s = .next s) ∧
    (∀ v, s.hostWrites .basecamp 0 = true →
      (v.testBit 0 = false → ∃ t, exec (.sleep v) s = .next t ∧ t.reg .basecamp 0 0x044 = v &&& 0b110 ∧
        (∀ o, o ≠ Blk.base .basecamp 0 + 0x044 → t.regs.find? o = s.regs.find? o) ∧ Only [.pages, .regs] s t) ∧
      (v.testBit 0 = true → ¬ (bits v 31 16 = 0x51EE ∧ s.powered = true ∧ s.pins.xtal32 = true) → ∃ t, exec (.sleep v) s = .next t ∧
        (t.page .basecamp 0).errCode = 4 ∧ t.reg .basecamp 0 0x044 = v &&& 0b110 ∧ Only [.pages, .regs] s t) ∧
      (v.testBit 0 = true → bits v 31 16 = 0x51EE → s.powered = true → s.pins.xtal32 = true → s.sleeping = none → ∃ t, exec (.sleep v) s = .next t ∧
        (t.devState = 1 ∨ (t.sleeping = some 0 ∧ t.devState = s.devState ∧ t.stopped = true ∧ (∀ c ∈ t.cmds, c.unstarted = false) ∧ t.me.uid = none ∧
          (t.recordsOut = false ∨ t.boot.upd ≠ none)))) ∧
      (v.testBit 0 = true → bits v 31 16 = 0x51EE → s.powered = true → s.pins.xtal32 = true → s.sleeping = none → s.cmds = [] → s.waiting = [] →
        s.backlog = [] → s.boot.upd = none → ∃ t, exec (.sleep v) s = .next t ∧ t.devState = 1 ∧ t.cmds = [] ∧ t.sleeping = none ∧
        t.cdLost = s.cdLost ∧ t.mdLost = s.mdLost ∧ t.jobs = [] ∧ t.pins.coreEn = false ∧ t.pins.dramEn = v.testBit 2 ∧ t.pins.retEn = v.testBit 1 ∧ (v.testBit 2 = false → t.mem = []) ∧
        (v.testBit 2 = true → v.testBit 1 = true → t.boot.kept = s.boot.kept) ∧ ((v.testBit 2 && v.testBit 1) = false → t.boot.kept = false) ∧
        t.link = { Link.reset with session := s.link.session } ∧ t.dbg = { State.reset.dbg with lockout := s.dbg.lockout, fails := s.dbg.fails } ∧
        t.regs.find? 0x064 = none ∧
        Only (fieldsBut [.pending, .part, .now, .freeCount, .nextUid, .protEff, .bw]) s t)) ∧
    (∀ (source : Nat) (i : Instr) (u : State), (source = 0 ∧ i = .wakeNFall ∧ u = s.filtered .wake 0 ∨ source = 1 ∧ i = .usb4WakeSignal ∧ u = s) →
      (∀ m, s.sleeping = some m → exec i s = .next { u with sleeping := some (m ||| 2 ^ source) }) ∧
      (s.sleeping = none → s.devState = 1 → (s.reg .basecamp 0 0x048).testBit source = true → ∃ t, exec i s = .next t ∧ t.devState = 2 ∧ t.now = u.now ∧
        t.reg .basecamp 0 0x040 % 2 ^ 31 = 2 ^ source ∧ (t.page .basecamp 0).raw.getLsbD 0 = true ∧ t.boot.timeZero = u.now ∧
        t.boot.path = some (if (s.reg .sec 0 0x05C).testBit 2 then 0 else 1) ∧ t.boot.waitGood = (!s.pins.pwrGood) ∧
        t.pins = { u.pins with coreEn := true, dramEn := true, retEn := true, smbAlert := true } ∧
        Only [.boot, .devState, .hostMem, .msix, .now, .pages, .pins, .regs] s t) ∧
      (s.sleeping = none → (s.devState ≠ 1 ∨ (s.reg .basecamp 0 0x048).testBit source = false) → exec i s = .next u)) ∧
    (s.devState = 0 ∨ (timeReached s.now s.alarmTime = true ∧ s.alarmTime ≠ s.now) → exec .alarm s = .next s) ∧
    (s.devState ≠ 0 → timeReached s.now s.alarmTime = false ∨ s.alarmTime = s.now → ∃ t, exec .alarm s = .next t ∧ t.now = s.alarmTime ∧ (t.page .basecamp 0).raw.getLsbD 1 = true ∧
      (s.sleeping = none → s.devState = 1 → (s.reg .basecamp 0 0x048).testBit 2 = true →
        t.devState = 2 ∧ t.reg .basecamp 0 0x040 % 2 ^ 31 = 4 ∧ t.boot.timeZero = s.alarmTime) ∧
      (s.sleeping = none → (s.devState ≠ 1 ∨ (s.reg .basecamp 0 0x048).testBit 2 = false) → Only [.hostMem, .msix, .now, .pages] s t) ∧
      (∀ m, s.sleeping = some m → t.sleeping = some (m ||| 4) ∧ Only [.hostMem, .msix, .now, .pages, .sleeping] s t) ∧
      Only [.boot, .devState, .hostMem, .msix, .now, .pages, .pins, .regs, .sleeping] s t) ∧
    (s.pins.pwrGood = false → s.devState ≠ 0 → ∃ t, exec .pwrGoodRise s = .next t ∧ t.pins = { s.pins with pwrGood := true } ∧ t.boot.waitGood = false ∧
      t.boot.timeZero = (if s.boot.waitGood then s.now else s.boot.timeZero) ∧ Only [.boot, .pins] s t) ∧
    (s.pins.pwrGood = false → s.devState = 0 → s.pins.resetN = false →
      exec .pwrGoodRise s = .next { s with pins := { s.pins with supply := true, bc := true, pwrGood := true } }) ∧
    (s.pins.pwrGood = false → s.devState = 0 → s.pins.resetN = true → ∃ t, exec .pwrGoodRise s = .next t ∧ t.devState = 2 ∧
      t.pins = { s.pins with supply := true, bc := true, pwrGood := true, smbAlert := true } ∧
      t.boot = { s.boot with path := some 0, timeZero := s.now, waitGood := false } ∧ Only [.boot, .devState, .pins] s t) ∧
    (s.pins.pwrGood = true → exec .pwrGoodRise s = .next s) ∧
    (∃ t, exec .xtal32Start s = .next t ∧ t.pins = { s.pins with xtal32 := true, bc := true } ∧ Only [.pins] s t) ∧
    (∀ byGood, ((byGood = true ∧ (s.devState = 1 ∨ s.boot.waitGood = true)) → ∃ t, exec (.resetAssert byGood) s = .next t ∧
        t.pins = { s.pins with pwrGood := false } ∧ Only [.pins] s t) ∧
      (¬ (byGood = true ∧ (s.devState = 1 ∨ s.boot.waitGood = true)) → ∃ t, exec (.resetAssert byGood) s = .next t ∧ t.devState = 0 ∧ t.now = 0 ∧ t.cmds = [] ∧
        t.mem = [] ∧ t.boot.path = none ∧ t.boot.kept = false ∧ t.pins.resetN = (s.pins.resetN && byGood) ∧ t.pins.pwrGood = (s.pins.pwrGood && !byGood) ∧
        t.pins.vrEn = 0 ∧ t.pins.coreEn = true ∧ t.pins.dramEn = true ∧ t.pins.retEn = true ∧ t.dbg = State.reset.dbg ∧
        (s.boot.upd = none → t.freeCount = s.freeCount ∧ t.boot.flash = s.boot.flash) ∧
        Only (fieldsBut [.pending, .part, .nextUid, .hostMem, .protEff, .bw]) s t)) ∧
    (∀ baseCamp, ∃ t, exec (.supplyLoss baseCamp) s = .next t ∧ t.devState = 0 ∧ t.pins.supply = false ∧ t.pins.pwrGood = false ∧ t.now = 0 ∧ t.cmds = [] ∧
      t.mem = [] ∧ (baseCamp = true → t.bw = [] ∧ t.regs = [] ∧ t.pins.trip = false) ∧ t.pins.bc = (s.pins.bc && !baseCamp) ∧ (baseCamp = false → t.bw = s.bw) ∧
      (s.boot.upd = none → t.freeCount = s.freeCount ∧ t.boot.flash = s.boot.flash) ∧
      Only (fieldsBut [.pending, .part, .nextUid, .hostMem, .protEff]) s t)

/-- Boot (R297, R383, R386, R389, R390, R397, R401, R461, R468): COLD_BOOT and WAKE. In reset every output ball does what R468 says. A package identity record that fails its
checks, a set of images that does not run, and a DRAM port that fails training each end in RECOVERY with its cause; otherwise the device is READY, LIVE or in HOLD; debug access
is not OPEN, nothing of the earlier path is left, and a wake keeps what DRAM holds and trains its ports only where the temperature has moved by more than 20 °C. That COLD_BOOT
on a device held in reset releases its pins first, that the cold path leaves DRAM empty, and that a training failure comes before code 4, is the model's reading (DEDUCED and
DESIGN CHOICE, assumption 47), and so is that a cold path leaves a count of no wakes (DEDUCED, assumption 71). -/
def Obligations.BootReachesReadyOrRecovery : Prop :=
  ∀ (s : State) (ticks : Nat) (temp : Int) (badPorts ucFail bad : Nat),
    (∀ b : Ball, s.devState = 0 → s.drive b = some (s.resetDrive b)) ∧
    (s.devState = 0 → (s.pins.resetN && s.pins.pwrGood && s.pins.supply) = false →
      exec (.coldBoot ticks temp badPorts ucFail bad) s = exec (.coldBoot ticks temp badPorts ucFail bad) s.releaseReset ∧
      s.releaseReset.devState = 2 ∧ s.releaseReset.boot.path = some 0 ∧ s.releaseReset.boot.waitGood = false) ∧
    ((s.devState ≠ 0 ∨ (s.pins.resetN && s.pins.pwrGood && s.pins.supply) = true) → s.devState ≠ 2 ∨ s.boot.path ≠ some 0 ∨ s.boot.waitGood = true →
      exec (.coldBoot ticks temp badPorts ucFail bad) s = .next s) ∧
    (s.devState = 2 → s.boot.path = some 0 → s.boot.waitGood = false →
      (∃ t, exec (.coldBoot ticks temp badPorts ucFail bad) s = .next t ∧ t.now = laterTime s.now ((s.boot.timeZero + ticks) % 2 ^ 64) ∧
        t.boot.dramTemp = temp ∧ t.dbg.isOpen = false ∧
        (s.boot.identityGood = false → t.devState = 6 ∧ t.boot.path = none ∧ t.boot.kept = false ∧ t.boot.identOk = false ∧
          t.boot.plan = BootPlan.none ∧ t.reg .sec 0 0x044 = 1) ∧
        (s.boot.identityGood = true → ∀ r part, part = s.boot.partOf s.part → r = ({ s.boot with identOk := true }).coldPlan (Config.hasMe part.variant) →
          t.part = part ∧ t.boot.path = none ∧ (∃ n, t.boot.plan = { r.plan with insoleStatus := n }) ∧ t.boot.fwOk = r.fwOk ∧ t.boot.identOk = true ∧
          (r.cause ≠ 0 → r.cause ≠ 4 → t.devState = 6 ∧ t.boot.kept = false ∧ t.boot.plan = r.plan ∧ t.reg .sec 0 0x044 = r.cause % 2 ^ 32) ∧
          (r.cause = 4 → badPorts % 2 ^ Config.ports part.variant = 0 → t.devState = 6 ∧ t.boot.kept = false ∧ t.reg .sec 0 0x044 = 4) ∧
          (r.cause = 0 ∨ r.cause = 4 → badPorts % 2 ^ Config.ports part.variant ≠ 0 → t.devState = 6 ∧ t.boot.kept = false ∧ t.reg .sec 0 0x044 = 5) ∧
          (r.cause = 0 → badPorts % 2 ^ Config.ports part.variant = 0 → (t.devState = 3 ∨ t.devState = 4 ∨ t.devState = 5) ∧ t.boot.kept = true ∧
            t.boot.boots = 0 ∧
            (bad = 0 → (t.page .disp 0).enable = false → (∀ e ∈ s.jobs, e.2.valid = false) →
              t.mem = [] ∧ t.devState = (if (s.reg .sec 0 0x05C).testBit 0 then 5 else 3)))))) ∧
    (∀ mismatch, s.devState ≠ 2 ∨ s.boot.path = none ∨ s.boot.path = some 0 ∨ s.boot.waitGood = true →
      exec (.wake ticks mismatch temp badPorts ucFail bad) s = .next s) ∧
    (∀ p mismatch, s.devState = 2 → s.boot.path = some (p + 1) → s.boot.waitGood = false →
      ((mismatch = true ∨ s.boot.kept = false) →
        exec (.wake ticks mismatch temp badPorts ucFail bad) s = .next { s with boot := { s.boot with path := some 0 } }) ∧
      (mismatch = false → s.boot.kept = true → ∃ t, exec (.wake ticks mismatch temp badPorts ucFail bad) s = .next t ∧
        t.now = laterTime s.now ((s.boot.timeZero + ticks) % 2 ^ 64) ∧ t.boot.path = none ∧ t.dbg.isOpen = false ∧
        (s.boot.identityGood = false → t.devState = 6 ∧ t.boot.kept = false ∧ t.boot.identOk = false ∧ t.boot.plan = BootPlan.none ∧
          t.reg .sec 0 0x044 = 1) ∧
        (s.boot.identityGood = true → ∀ part fails, part = s.boot.partOf s.part →
          fails = (if s.retrainDue temp then badPorts % 2 ^ Config.ports part.variant else 0) → t.part = part ∧ t.boot.plan = s.boot.plan ∧
          t.boot.dramTemp = (if s.retrainDue temp then temp else s.boot.dramTemp) ∧
          (fails ≠ 0 → t.devState = 6 ∧ t.boot.kept = false ∧ t.reg .sec 0 0x044 = 5) ∧
          (fails = 0 → (t.devState = 3 ∨ t.devState = 4 ∨ t.devState = 5) ∧ t.boot.kept = true ∧ t.boot.boots = satAdd 32 s.boot.boots 1 ∧
            (bad = 0 → (t.page .disp 0).enable = false → t.mem = s.mem)))))

/-- Field update (R398, R401, R441): UPD_READ_FLASH, UPD_ERASE, UPD_PROGRAM, UPD_READ_ID, UPD_RAISE_SVN and UPD_SET_CUST_KEY. A write that names an operation while none is in progress
starts it, or rejects it with its RESULT and error 1; while BUSY it is ignored. The operation ends in the next step without a command in which the firmware that runs it does not pause (the
model's timing, DESIGN CHOICE, assumption 48), with its whole effect on the window, on flash or on the fuses and on nothing else, with RESULT 0; that PROGRAM replaces bytes that were
not erased is the model's reading (DEDUCED, assumption 48). One that the flash device fails has RESULT 3 and counts. Each raises UPD_DONE. A page that does not answer leaves everything as it is. -/
def Obligations.FieldUpdateRunsOrRejects : Prop :=
  ∀ (s : State),
    (s.hostWrites .sec 0 = false → ∀ len fail, ∀ i ∈ [Instr.updReadFlash len fail, .updErase len fail, .updProgram len fail, .updReadId len,
      .updRaiseSvn, .updSetCustKey], exec i s = .next s) ∧
    (s.hostWrites .sec 0 = true → ∀ (len a r : Nat) (fail : Bool) (x : Instr × UpdOp), a = s.reg .sec 0 0x068 →
      x ∈ [(Instr.updReadFlash len fail, ⟨1, a, updBytes (len % 64), fail⟩), (.updErase len fail, ⟨2, a, 0x10000, fail⟩),
        (.updProgram len fail, ⟨3, a, updBytes (len % 64), fail⟩), (.updReadId len, ⟨4, a, updBytes (len % 64), false⟩),
        (.updRaiseSvn, ⟨5, a, updBytes (s.reg .sec 0 0x064 % 64), false⟩), (.updSetCustKey, ⟨6, a, updBytes (s.reg .sec 0 0x064 % 64), false⟩)] →
      r = s.updReject x.2.op x.2.addr x.2.bytes →
      (s.boot.upd = none → r ≠ 0 → ∃ t, exec x.1 s = .next t ∧ t.boot = { s.boot with updResult := r } ∧ (t.page .sec 0).errCode = 1 ∧
        (t.page .sec 0).raw.getLsbD 2 = true ∧ Only [.boot, .hostMem, .msix, .pages, .regs] s t) ∧
      (s.boot.upd = none → r = 0 → ∃ t, exec x.1 s = .next t ∧ t.boot = { s.boot with upd := some x.2 } ∧ (t.page .sec 0).raw = (s.page .sec 0).raw ∧
        Only [.boot, .pages, .regs] s t) ∧
      (s.boot.upd ≠ none → ∃ t, exec x.1 s = .next t ∧ t.boot = s.boot ∧ (t.page .sec 0).raw = (s.page .sec 0).raw ∧ Only [.pages, .regs] s t)) ∧
    (∀ (u : UpdOp) (v : State), s.pending = [] → 2 ≤ s.devState → s.sleeping = none → s.boot.upd = some u → v = { s with now := (s.now + 1) % 2 ^ 64 } →
      (v.fwPaused = true → step s = .next v) ∧
      (v.fwPaused = false → u.fail = false → ∀ b : Boot, (u.op = 1 ∧ b = { s.boot with window := windowWith s.boot.window (s.boot.flashRun u.addr u.bytes) } ∨
          u.op = 2 ∧ b = { s.boot with flash := s.boot.flash.clearRun u.addr 0x10000 } ∨
          u.op = 3 ∧ b = { s.boot with flash := s.boot.flash.writeRun 0xFF u.addr (s.boot.window.take u.bytes) } ∨
          u.op = 4 ∧ b = { s.boot with window := windowWith s.boot.window (s.boot.nor.readRun 0 u.addr u.bytes) } ∨
          u.op = 5 ∧ b = { s.boot with minSvn := s.boot.plan.svn } ∨ u.op = 6 ∧ b = { s.boot with custKey := some (s.boot.window.take 32) }) →
        ∃ t, step s = .next t ∧ t.boot = { b with upd := none, updResult := 0 } ∧ t.now = v.now ∧ (t.page .sec 0).raw.getLsbD 2 = true ∧
          Only [.boot, .hostMem, .msix, .now, .pages] s t) ∧
      (v.fwPaused = false → u.fail = true → u.op = 1 ∨ u.op = 2 ∨ u.op = 3 →
        ∃ t, step s = .next t ∧ t.boot.upd = none ∧ t.boot.updResult = 3 ∧ t.reg .sec 0 0x070 = min (s.reg .sec 0 0x070 + 1) (2 ^ 32 - 1) ∧
          (t.page .sec 0).raw.getLsbD 2 = true ∧ t.boot.minSvn = s.boot.minSvn ∧ t.boot.custKey = s.boot.custKey ∧ t.boot.nor = s.boot.nor ∧
          (u.op = 1 → t.boot.flash = s.boot.flash) ∧ (u.op ≠ 1 → t.boot.window = s.boot.window) ∧
          Only [.boot, .freeCount, .hostMem, .msix, .now, .pages, .regs] s t))

/-! ### The host link and HOLD -/

/-- The host link (R327, R328, R334, R336 to R339, R353 to R357): USB4_LINK_DOWN, USB4_LINK_UP, LINK_RESUME, BAR4_ACCESS, APT_CTRL_WRITE, APT_CONSUMED_WRITE,
RING_CONS_WRITE, RING_CTRL_WRITE and MSIX_VECTOR_UNMASK; and HOLD (R379 to R381): STATE_CTRL_HOLD_SET and HOLD_RESUME. A lost link drops its tunnels, counts and
turns records to the backlog; a link that comes up is a new session; RESUME clears the LINK cause; an aperture or ring that is enabled keeps what it has, with
BUSY; HOLD is entered with its cause and left when no cause is set. A link that trains shows so; the DP tunnel may come up alone. Reads of BAR2 return zeros (R328). What does not
answer leaves everything as it is. The model's choices: a BAR4 write of DRAM that is not ready is lost, a read of it or of an uncorrectable word gives free
values, and an access that passes the end is outside as a whole (assumption 38); HOLD acts before RESUME (assumptions 21, 63); a slot that has landed and is written
again, which software must not do (R9, R355), stays landed, and by a free value takes the bytes or keeps those it had (assumption 10, DEDUCED); an uncorrectable word of a
slot is gone once all of the slot is written (assumption 69). -/
def Obligations.LinkSessionsAndHoldFollowTheHost : Prop :=
  ∀ (s : State),
    (∀ whole, s.link.pcieUp = true → ∃ t, exec (.usb4LinkDown whole) s = .next t ∧
      t.link = { s.link with
        state := if whole then 0 else s.link.state
        pcieUp := false, dpUp := false, resumed := false, downAt := s.now, toBacklog := true } ∧
      (s.link.dpUp = false → t.reg .hif 0 0x054 = min (s.reg .hif 0 0x054 + 1) (2 ^ 32 - 1)) ∧ (s.backlogBase ≠ none → t.waiting = []) ∧
      (s.powered = true → (s.reg .hif 0 0x044).testBit 0 = true → t.devState = 5 ∧ t.holdCauses = s.holdCauses ||| 4) ∧
      ((s.reg .hif 0 0x044).testBit 0 = false → t.devState = s.devState ∧ t.holdCauses = s.holdCauses ∧ t.cmds = s.cmds) ∧
      Only [.backlog, .badWords, .cairn, .cmds, .ctrs, .devState, .disp, .engines, .holdCauses, .hostMem, .ingest, .link, .me, .mem, .msix, .pages,
        .pins, .regs, .softWords, .waiting] s t) ∧
    (∀ whole, s.link.pcieUp = false → exec (.usb4LinkDown whole) s = .next { s with link := { s.link with
      state := if whole then 0 else s.link.state } }) ∧
    (∀ training mode dp, s.devState < 2 → exec (.usb4LinkUp training mode dp) s = .next s) ∧
    (∀ mode dp, 2 ≤ s.devState → exec (.usb4LinkUp true mode dp) s = .next { s with link := { s.link with
      state := if s.link.state = 0 then 1 else s.link.state } }) ∧
    (∀ mode, s.link.pcieUp = true → 2 ≤ s.devState → exec (.usb4LinkUp false mode false) s = .next s ∧
      (s.link.dpUp = true → exec (.usb4LinkUp false mode true) s = .next s) ∧
      (s.link.dpUp = false → ∃ t, exec (.usb4LinkUp false mode true) s = .next t ∧ t.link = { s.link with dpUp := true } ∧
        (t.page .hif 0).raw.getLsbD 3 = true ∧ Only [.hostMem, .link, .msix, .pages] s t)) ∧
    (∀ mode dp, s.link.pcieUp = false → 2 ≤ s.devState → 2 < mode ∨ (mode = 2 ∧ (s.reg .hif 0 0x044).testBit 1 = false) →
      exec (.usb4LinkUp false mode dp) s = .next s) ∧
    (∀ mode dp, s.link.pcieUp = false → 2 ≤ s.devState → mode ≤ 2 → (mode = 2 → (s.reg .hif 0 0x044).testBit 1 = true) →
      ∃ t, exec (.usb4LinkUp false mode dp) s = .next t ∧
        t.link = { s.link with state := 2, mode := mode, pcieUp := true, dpUp := dp, session := (s.link.session + 1) % 2 ^ 16 } ∧
        t.msix.fmask = false ∧ (t.page .hif 0).raw.getLsbD 1 = true ∧ (dp = true → (t.page .hif 0).raw.getLsbD 3 = true) ∧
        (s.link.resumed = false → t.reg .hif 0 0x058 = min (ticksSince s.now s.link.downAt / usTicks) (2 ^ 32 - 1)) ∧
        Only [.hostMem, .link, .msix, .pages, .regs] s t) ∧
    (s.hostWrites .hif 0 = false → exec .linkResume s = .next s) ∧
    (s.hostWrites .hif 0 = true → ∃ t, exec .linkResume s = .next t ∧ t.link = { s.link with resumed := true, toBacklog := false } ∧
      t.holdCauses = s.holdCauses - (s.holdCauses &&& 4) ∧
      Only [.apts, .backlog, .holdCauses, .hostMem, .link, .msix, .pages, .rings, .waiting] s t) ∧
    (s.link.pcieUp = true →
      (∀ off bs, off + bs.length ≤ s.dramBytes → s.dramReady = true → s.mem.wf 0 = true → ∃ t, exec (.bar4Access off (.write bs)) s = .next t ∧
        (∀ a, t.mem.read 0 a = if off ≤ a ∧ a < off + bs.length then bs.getD (a - off) 0 else s.mem.read 0 a) ∧
        Only [.badWords, .mem, .softWords] s t) ∧
      (∀ off bs, off + bs.length ≤ s.dramBytes → s.dramReady = false → exec (.bar4Access off (.write bs)) s = .next s) ∧
      (∀ off len, off + len ≤ s.dramBytes → (s.protectedHeld && s.inFrameBuffer off len) = false →
        (s.dramReady = true → s.badIn off len = false → exec (.bar4Access off (.read len)) s =
          .next { s.correctReads .hif 0 [(off, len)] with readData := s.devGet off len }) ∧
        (s.dramReady = true → s.badIn off len = false → s.softWords = [] →
          exec (.bar4Access off (.read len)) s = .next { s with readData := s.devGet off len }) ∧
        (s.dramReady = false ∨ s.badIn off len = true → ∃ t, exec (.bar4Access off (.read len)) s = .next t ∧ t.readData.length = len ∧
          Only [.freeCount, .readData] s t)) ∧
      (∀ off len, off + len ≤ s.dramBytes → s.protectedHeld = true → s.inFrameBuffer off len = true →
        exec (.bar4Access off (.read len)) s = .next { s with readData := List.replicate len 0 }) ∧
      (∀ off bs len, (∀ x, (x = .write bs ∧ s.dramBytes < off + bs.length ∨ x = .read len ∧ s.dramBytes < off + len) →
        ∃ t, exec (.bar4Access off x) s = .next t ∧ (t.page .hif 0).errCode = 1 ∧ (t.page .hif 0).errAddr = off ∧ t.mem = s.mem ∧
          (x = .read len → t.readData = List.replicate len 0) ∧ Only [.pages, .readData] s t)) ∧
      (∀ off len, exec (.bar4Access off (.readBar2 len)) s = .next { s with readData := List.replicate len 0 })) ∧
    (s.link.pcieUp = false → (∀ off x, exec (.bar4Access off x) s = .next s) ∧ ∀ v, exec (.msixVectorUnmask v) s = .next s) ∧
    (∀ apt slot off bs, apt < 16 → slot < 1024 → off + bs.length ≤ 64 → (s.apt apt).en = true → ∃ t, exec (.apertureSlotWrite apt slot off bs) s = .next t ∧
      ((s.aptSlot apt slot).landed = false → ((t.aptSlot apt slot).bad = true ↔ (s.aptSlot apt slot).bad = true ∧ bs.length ≠ 64)) ∧
      ((s.aptSlot apt slot).landed = true → t.freeCount = s.freeCount + 1 ∧ (t.aptSlot apt slot).landed = true ∧
        (t.aptSlot apt slot = s.aptSlot apt slot ∨
          pktBytes (t.aptSlot apt slot).data =
            (pktBytes (s.aptSlot apt slot).data).take off ++ bs ++ (pktBytes (s.aptSlot apt slot).data).drop (off + bs.length)))) ∧
    (∀ v, s.hostWrites .cfe 0 = false → ∀ i ∈ [Instr.aptCtrlWrite v, .aptConsumedWrite v, .ringConsWrite v, .ringCtrlWrite v], exec i s = .next s) ∧
    (∀ v n, s.hostWrites .cfe 0 = true → n = s.aptSel →
      ((s.apt n).en = false → ∃ t, exec (.aptCtrlWrite v) s = .next t ∧ t.apt n = { s.apt n with en := v.testBit 31, ring := bits v 19 16 } ∧
        (∀ k, k ≠ n → t.apt k = s.apt k) ∧ Only [.apts, .pages] s t) ∧
      ((s.apt n).en = true → v.testBit 31 = true → ∃ t, exec (.aptCtrlWrite v) s = .next t ∧ t.apts = s.apts ∧
        (bits v 19 16 ≠ (s.apt n).ring → (t.page .cfe 0).errCode = 4 ∧ (t.page .cfe 0).errValid = true) ∧ Only [.pages] s t) ∧
      ((s.apt n).en = true → v.testBit 31 = false → ∃ t, exec (.aptCtrlWrite v) s = .next t ∧ t.apt n = { s.apt n with en := false, heldSince := none } ∧
        (∀ k, k ≠ n → t.apt k = s.apt k) ∧ t.aptSlots = SMap.dropKeys s.aptSlots (fun k => k / 1024 == n) ∧ Only [.aptSlots, .apts, .pages] s t) ∧
      ((s.apt n).en = false → ∃ t, exec (.aptConsumedWrite v) s = .next t ∧
        t.apt n = { s.apt n with consumed := BitVec.ofNat 32 v, credWritten := BitVec.ofNat 32 v, advancedAt := none } ∧
        (∀ k, k ≠ n → t.apt k = s.apt k) ∧ Only [.apts, .pages] s t) ∧
      ((s.apt n).en = true → ∃ t, exec (.aptConsumedWrite v) s = .next t ∧ (t.page .cfe 0).errCode = 4 ∧ (t.page .cfe 0).errValid = true ∧ Only [.pages] s t) ∧
      (∃ t, exec (.ringConsWrite v) s = .next t ∧ (t.ring n).cons = BitVec.ofNat 32 v ∧ (t.ring n).ctrl = (s.ring n).ctrl ∧
        Only [.backlog, .hostMem, .msix, .pages, .rings, .waiting] s t) ∧
      (∃ t, exec (.ringCtrlWrite v) s = .next t ∧ (t.ring n).ctrl = BitVec.ofNat 32 v &&& 0x801FFFFF ∧ (t.ring n).cons = (s.ring n).cons ∧
        Only [.backlog, .hostMem, .msix, .pages, .rings, .waiting] s t)) ∧
    (s.link.pcieUp = true →
      (∀ v, 32 ≤ v ∨ s.answers .hif 0 = false → exec (.msixVectorUnmask (some v)) s = .next s) ∧
      (∀ v, v < 32 → s.answers .hif 0 = true → ∃ t, exec (.msixVectorUnmask (some v)) s = .next t ∧ t.msixWord v 3 = 0 ∧
        (s.msix.fmask = false → s.hostOk = true → t.msix.pba.getLsbD v = false) ∧ t.msix.fmask = s.msix.fmask ∧ Only [.hostMem, .msix] s t) ∧
      (∃ t, exec (.msixVectorUnmask none) s = .next t ∧ t.msix.fmask = false ∧ t.msix.table = s.msix.table ∧ Only [.hostMem, .msix] s t)) ∧
    (s.hostWrites .sec 0 = false → (∀ h, exec (.stateCtrlHoldSet h) s = .next s) ∧ exec .holdResume s = .next s) ∧
    (s.hostWrites .sec 0 = true →
      (s.powered = false → ∃ t, exec (.stateCtrlHoldSet true) s = .next t ∧ t.devState = s.devState ∧ t.holdCauses = s.holdCauses ∧
        Only [.pages, .regs] s t) ∧
      (s.powered = true → ∃ t, exec (.stateCtrlHoldSet true) s = .next t ∧ t.devState = 5 ∧ t.holdCauses = s.holdCauses ||| 8 ∧
        (t.reg .sec 0 0x05C).testBit 0 = true ∧
        Only [.cairn, .cmds, .devState, .disp, .engines, .holdCauses, .hostMem, .me, .msix, .pages, .pins, .regs] s t) ∧
      (∃ t, exec (.stateCtrlHoldSet false) s = .next t ∧ t.holdCauses = s.holdCauses - (s.holdCauses &&& 8) ∧ (t.reg .sec 0 0x05C).testBit 0 = false ∧
        Only [.holdCauses, .pages, .regs] s t) ∧
      ((s.reg .sec 0 0x05C).testBit 0 = false → s.holdCauses - (s.holdCauses &&& 8) = 0 → s.devState = 5 → ∃ t, exec .holdResume s = .next t ∧
        t.devState = (if s.busy then 4 else 3) ∧ t.holdCauses = 0 ∧
        Only [.badWords, .devState, .disp, .engines, .groups, .holdCauses, .hostMem, .mem, .msix, .pages, .pins, .regs, .softWords, .steps] s t) ∧
      ((s.reg .sec 0 0x05C).testBit 0 = false → s.holdCauses - (s.holdCauses &&& 8) = 0 → s.devState ≠ 5 → ∃ t, exec .holdResume s = .next t ∧
        t.devState = s.devState ∧ t.holdCauses = 0 ∧ Only [.holdCauses, .pages, .regs] s t) ∧
      ((s.reg .sec 0 0x05C).testBit 0 = true → s.powered = true → ∃ t, exec .holdResume s = .next t ∧
        t.devState = 5 ∧ t.holdCauses = s.holdCauses ||| 8 ∧ (t.page .sec 0).errCode = 4) ∧
      ((s.reg .sec 0 0x05C).testBit 0 = false → s.holdCauses - (s.holdCauses &&& 8) ≠ 0 → ∃ t, exec .holdResume s = .next t ∧
        t.devState = s.devState ∧ t.holdCauses = s.holdCauses - (s.holdCauses &&& 8) ∧ (t.page .sec 0).errCode = 4 ∧ Only [.holdCauses, .pages, .regs] s t))

/-! ### Counters, snapshots, trace and debug access -/

/-- Counters (R449, R453 to R455, R466), trace (R459) and the control of debug access (R461): CNT_CFG_WRITE, CNT_CLR_ALL, CNT_CLR_SEL, COUNTER_SATURATE, SNAP_NOW,
SNAP_ARM, SNAP_ARM_ALL, SNAP_FIRE, TRACE_ENABLE, DBG_CTRL_CLOSE and DBG_CTRL_LOCKOUT. A configuration starts its counter at zero; a clear clears what it names and
nothing else; a counter whose EN is 0 counts no event, and one stays at its top; a snapshot holds every counter of its die and the time base; a trace ring starts anew; debug access is LOCKED again.
A die that does not answer leaves everything as it is. That a snapshot takes `counterValue`, a free value for an event that no step of the model stands for, and
that COUNTER_SATURATE acts on such counters alone, is the model's choice (assumption 59). -/
def Obligations.CountersSnapshotsAndTraceFollowTheirControls : Prop :=
  ∀ (s : State),
    (∀ die v, s.hostWrites .perf die = false → ∀ i ∈ [Instr.cntCfgWrite die v, .cntClrAll die, .cntClrSel die, .snapNow die, .snapArm die], exec i s = .next s) ∧
    (s.hostWrites .perf 0x40 = false → exec .snapArmAll s = .next s ∧ (∀ v, exec (.traceEnable v) s = .next s) ∧ exec .dbgCtrlClose s = .next s ∧
      exec .dbgCtrlLockout s = .next s) ∧
    (∀ die v key, s.hostWrites .perf die = true → key = s.cntKey die →
      ((s.counted die (s.cntPage die)).isSome = true →
        (∃ t, exec (.cntCfgWrite die v) s = .next t ∧ t.ctr key = { s.ctr key with cfg := v &&& 0xE03F00FF, count := 0, ovf := false } ∧
          (∀ k, k ≠ key → t.ctr k = s.ctr k) ∧ Only [.ctrs, .pages] s t) ∧
        (∃ t, exec (.cntClrSel die) s = .next t ∧ t.ctr key = { s.ctr key with count := 0, ovf := false } ∧
          (∀ k, k ≠ key → t.ctr k = s.ctr k) ∧ Only [.ctrs] s t)) ∧
      ((s.counted die (s.cntPage die)).isSome = false →
        (∃ t, exec (.cntCfgWrite die v) s = .next t ∧ Only [.pages] s t) ∧ exec (.cntClrSel die) s = .next s) ∧
      (∃ t, exec (.cntClrAll die) s = .next t ∧ (∀ k, k / 512 = die → t.ctr k = { s.ctr k with count := 0, ovf := false }) ∧
        (∀ k, k / 512 ≠ die → t.ctr k = s.ctr k) ∧ Only [.ctrs] s t)) ∧
    (∀ die page k p, s.counted die page = some p → k < 8 → (s.ctr (ctrKey die page k)).isOpen p.1 = true → ∃ t, exec (.counterSaturate die page k) s = .next t ∧
      t.ctr (ctrKey die page k) = { s.ctr (ctrKey die page k) with count := ctrTop, ovf := true } ∧ (∀ j, j ≠ ctrKey die page k → t.ctr j = s.ctr j) ∧
      (t.page .perf die).raw.getLsbD 0 = true ∧ Only [.ctrs, .hostMem, .msix, .pages] s t) ∧
    (∀ die page k, s.counted die page = none ∨ 8 ≤ k ∨ (∀ p, s.counted die page = some p → (s.ctr (ctrKey die page k)).isOpen p.1 = false) →
      exec (.counterSaturate die page k) s = .next s) ∧
    (∀ die i due, (i = Instr.snapNow die ∧ due = s.now ∧ s.snapBusy die = false ∧ s.hostWrites .perf die = true ∨
        i = .snapArm die ∧ due = s.now ∧ s.snapBusy die = false ∧ timeReached s.now (s.snapTime die) = true ∧ s.hostWrites .perf die = true ∨
        i = .snapFire die ∧ s.blockPresent .perf die = true ∧ ∃ x, s.snaps.find? die = some x ∧ due = laterTime s.now (x % 2 ^ 64)) →
      ∃ t, exec i s = .next t ∧ t.now = due ∧ t.snaps.find? die = none ∧ (t.page .perf die).raw.getLsbD 1 = true ∧
        t.reg .perf die 0x05C = due % 2 ^ 32 ∧ t.reg .perf die 0x060 = due / 2 ^ 32 % 2 ^ 32 ∧
        (∀ k, k / 512 = die → t.ctr k = { s.ctr k with snap := s.counterValue die (k / 8 % 64) (k % 8), snapOvf := (s.ctr k).ovf }) ∧
        (∀ k, k / 512 ≠ die → t.ctr k = s.ctr k) ∧ Only [.ctrs, .freeCount, .hostMem, .msix, .now, .pages, .regs, .snaps] s t) ∧
    (∀ die i, s.hostWrites .perf die = true → (i = Instr.snapNow die ∨ i = .snapArm die) → s.snapBusy die = true → ∃ t, exec i s = .next t ∧
      (t.page .perf die).errCode = 4 ∧ (t.page .perf die).errValid = true ∧ Only [.pages] s t) ∧
    (∀ die, s.hostWrites .perf die = true → s.snapBusy die = false → timeReached s.now (s.snapTime die) = false → ∃ t, exec (.snapArm die) s = .next t ∧
      t.snaps.find? die = some (s.snapTime die) ∧ (∀ d, d ≠ die → t.snaps.find? d = s.snaps.find? d) ∧ Only [.snaps] s t) ∧
    (∀ die, s.snaps.find? die = none ∨ s.blockPresent .perf die = false → exec (.snapFire die) s = .next s) ∧
    (s.hostWrites .perf 0x40 = true → exec .snapArmAll s =
      .next (s.perfDies.foldl (fun (u : State) d => u.armAt d (s.snapTime 0x40)) s)) ∧
    (s.hostWrites .perf 0x40 = true → (∀ d ∈ s.perfDies, s.snapBusy d = false) → timeReached s.now (s.snapTime 0x40) = false → ∃ t, exec .snapArmAll s = .next t ∧
      (∀ d ∈ s.perfDies, t.snaps.find? d = some (s.snapTime 0x40)) ∧ (∀ d, d ∉ s.perfDies → t.snaps.find? d = s.snaps.find? d) ∧ Only [.snaps] s t) ∧
    (∀ v old new, s.hostWrites .perf 0x40 = true → old = s.reg .perf 0x40 0x080 → new = v &&& 0x9F00000F →
      (old.testBit 31 = false → ∃ t, exec (.traceEnable v) s = .next t ∧ t.reg .perf 0x40 0x080 = new ∧
        (new.testBit 31 = true → t.reg .perf 0x40 0x098 = 0 ∧ t.reg .perf 0x40 0x09C = 0 ∧ t.reg .perf 0x40 0x0A0 = 0 ∧ t.traceGap = false) ∧
        Only [.pages, .regs, .traceGap] s t) ∧
      (old.testBit 31 = true → bits new 28 24 = bits old 28 24 → ∃ t, exec (.traceEnable v) s = .next t ∧ t.reg .perf 0x40 0x080 = new ∧ Only [.pages, .regs] s t) ∧
      (old.testBit 31 = true → bits new 28 24 ≠ bits old 28 24 → ∃ t, exec (.traceEnable v) s = .next t ∧
        t.reg .perf 0x40 0x080 = setBits new 28 24 (bits old 28 24) % 2 ^ 32 ∧ (t.page .perf 0x40).errCode = 4 ∧ Only [.pages, .regs] s t)) ∧
    (s.hostWrites .perf 0x40 = true →
      (s.dbg.isOpen = true → ∃ t, exec .dbgCtrlClose s = .next t ∧ t.dbg = { s.dbg with isOpen := false, cust := false, scope := 0, halted := [] } ∧
        (t.page .perf 0x40).raw.getLsbD 3 = true ∧ Only [.dbg, .hostMem, .msix, .pages] s t) ∧
      (s.dbg.isOpen = false → exec .dbgCtrlClose s = .next s) ∧
      (∃ t, exec .dbgCtrlLockout s = .next t ∧ t.dbg.lockout = true ∧ t.dbg.isOpen = false ∧
        (s.dbg.isOpen = true → t.dbg.halted = [] ∧ t.dbg.scope = 0 ∧ (t.page .perf 0x40).raw.getLsbD 3 = true) ∧
        Only [.dbg, .hostMem, .msix, .pages] s t)) ∧
    (∀ b i event n job key, (s.ctr key).cfg.testBit 31 = false → (s.pulse b i event n job).ctr key = s.ctr key)

/-! ### Registers, jobs and the control of blocks -/

/-- The commands that act on registers: REGISTER_WRITE and LO_READ_LATCH (R361, R362), IRQ_STAT_CLEAR (R364), ERR_VALID_CLEAR (R365), COUNT_CLR and
PREEMPT_MAX_CLR (R50), DIE_TEMP_MAX_CLR (R374), JOB_VALID_SET and JOB_VALID_CLEAR (R19, R21, R22), BLOCK_ENABLE_SET, BLOCK_ENABLE_CLEAR, BLOCK_DRAIN_SET,
BLOCK_DRAIN_CLEAR and BLOCK_DRAIN_END (R367), and SOFT_RESET (R368). An access that reaches no register, or that R361 rules out, changes nothing; a register without a
behaviour of its own stores the bits that software writes, and a read-only one nothing; a read answers the addressed bytes, and of a _LO register latches its
_HI word; a clear clears what it names; a job comes and goes with VALID, where a change of CLASS or ENGINE_MASK leaves the two fields free values (R9), and the device goes on; ENABLE, DRAIN and a soft reset act
on their page, or record BUSY. The model's choices: that a changed CLASS or ENGINE_MASK is a free value and the job goes on is assumption 11, and what a new job
starts from is assumption 30. -/
def Obligations.RegistersJobsAndBlocksAreControlled : Prop :=
  ∀ (s : State),
    (∀ off size v, s.link.pcieUp = false → exec (.registerWrite off size v) s = .next s ∧ exec (.loReadLatch off size) s = .next s) ∧
    (∀ off size v, (off % 4 ≠ 0 ∨ size ≠ 4 ∧ size ≠ 8) → exec (.registerWrite off size v) s = .next s) ∧
    (∀ off v, s.link.pcieUp = true → off % 4 = 0 → exec (.registerWrite off 8 v) s =
      (match exec (.registerWrite off 4 (v % 2 ^ 32)) s with
       | .next t => .next (t.writeWord (off + 4) (v / 2 ^ 32 % 2 ^ 32))
       | o => o)) ∧
    (∀ off v, (pageAt off = none ∨ ∃ b i, pageAt off = some (b, i) ∧ s.answers b i = false) → exec (.registerWrite off 4 v) s = .next s) ∧
    (∀ off v b i o d, s.link.pcieUp = true → off % 4 = 0 → pageAt off = some (b, i) → s.answers b i = true → o = off % 0x1000 → 0x040 ≤ o → b.lacks i o = false →
      b.regAt o = some d → v < 2 ^ 32 →
      (∀ u : State, u.rangeWrite b o v = none ∧ u.ownWrite b i o d.rw v = none) →
      (d.rw = 0 → ¬ (b = .sec ∧ 0x800 ≤ o) → ¬ (b = .hif ∧ 0x400 ≤ o ∧ o < 0x600) → exec (.registerWrite off 4 v) s = .next s) ∧
      (d.rw ≠ 0 → ∃ t, exec (.registerWrite off 4 v) s = .next t ∧ t.reg b i o = maskedWrite (s.reg b i o) d.rw v % 2 ^ 32 ∧ (t.page b i).src = 2 ∧
        (∀ k, k ≠ b.base i + o → t.regs.find? k = s.regs.find? k) ∧ Only [.pages, .regs] s t)) ∧
    (∀ off n, s.link.pcieUp = true → exec (.loReadLatch off n) s = .next (s.readBar0 off n)) ∧
    (∀ off n b i o, s.link.pcieUp = true → 1 ≤ n → off % 4 + n ≤ 4 → pageAt off = some (b, i) → s.answers b i = true → o = off % 0x1000 / 4 * 4 →
      ∃ t, exec (.loReadLatch off n) s = .next t ∧ Only [.latch, .readData] s t ∧
        (∀ w, s.latch.find? (b.base i + o) = some w → t.readData = ((leBytes 4 w.toNat).drop (off % 4)).take n ∧ t.latch = s.latch.erase (b.base i + o)) ∧
        (s.latch.find? (b.base i + o) = none → t.readData = ((leBytes 4 (s.readReg b i o)).drop (off % 4)).take n ∧
          t.latch = if b.roPair i o then s.latch.set (b.base i + o + 4) (BitVec.ofNat 32 (s.readReg b i (o + 4))) else s.latch)) ∧
    (∀ b i mask, s.hostWrites b i = false → ∀ x ∈ [Instr.irqStatClear b i mask, .errValidClear b i, .countClr b i, .blockEnableSet b i, .blockEnableClear b i,
      .blockDrainSet b i, .blockDrainClear b i, .softReset b i], exec x s = .next s) ∧
    (∀ b i, s.hostWrites b i = true →
      (∀ mask, ∃ t, exec (.irqStatClear b i mask) s = .next t ∧ (t.page b i).raw = (s.page b i).raw &&& ~~~(BitVec.ofNat 32 mask) ∧
        Only [.hostMem, .msix, .pages] s t) ∧
      (∃ t, exec (.errValidClear b i) s = .next t ∧
        t.page b i = { s.page b i with errValid := false, errOver := false, errCode := 0, errInfo := 0, errAddr := 0 } ∧ Only [.pages] s t) ∧
      (∃ t, exec (.countClr b i) s = .next t ∧ (∀ o ∈ b.countClr.2, t.reg b i o = 0) ∧ (b = .dma → ∀ k, k < 8 → (t.channel k).bytes = 0) ∧
        (b = .pwr → t.pwr.reasons = Pwr.reset.reasons) ∧ (b ≠ .me → t.me = s.me) ∧ Only [.dma, .me, .pwr, .regs] s t)) ∧
    (∀ v, s.hostWrites .sched 0 = false → exec .preemptMaxClr s = .next s ∧ exec (.jobValidSet v) s = .next s ∧ exec (.jobValidClear v) s = .next s) ∧
    (s.hostWrites .sched 0 = true → ∃ t, exec .preemptMaxClr s = .next t ∧ t.reg .sched 0 0x06C = 0 ∧ Only [.regs] s t) ∧
    (∀ die, 8 < die ∨ s.hostWrites (diePageOf die).1 (diePageOf die).2 = false → exec (.dieTempMaxClr die) s = .next s) ∧
    (∀ die, die ≤ 8 → s.hostWrites (diePageOf die).1 (diePageOf die).2 = true → ∃ t, exec (.dieTempMaxClr die) s = .next t ∧
      t.reg (diePageOf die).1 (diePageOf die).2 0x048 = 0 ∧ Only [.regs] s t) ∧
    (∀ v j new, s.hostWrites .sched 0 = true → j = s.jobSel →
      (new = (v ||| 2 ^ 31) &&& 0xF000FFFF →
        ((s.job j).valid = false → ∃ t, exec (.jobValidSet v) s = .next t ∧ (t.job j).cfg = BitVec.ofNat 32 new ∧ (t.job j).apts = (s.job j).apts ∧
          (t.job j).land = (s.job j).land ∧ (t.job j).steps = 0 ∧ (t.job j).repro = s.reproNow ∧ (∀ k, k ≠ j → t.job k = s.job k) ∧
          Only [.badWords, .devState, .engines, .hostMem, .jobs, .mem, .msix, .pages, .pins, .softWords] s t) ∧
        ((s.job j).valid = true → new.testBit 31 = true →
          (bits new 29 28 = bits (s.job j).cfg.toNat 29 28 ∧ bits new 15 0 = bits (s.job j).cfg.toNat 15 0 → ∃ t, exec (.jobValidSet v) s = .next t ∧
            t.job j = { s.job j with cfg := BitVec.ofNat 32 new } ∧ (∀ k, k ≠ j → t.job k = s.job k) ∧ Only [.jobs, .pages] s t) ∧
          (bits new 29 28 ≠ bits (s.job j).cfg.toNat 29 28 ∨ bits new 15 0 ≠ bits (s.job j).cfg.toNat 15 0 →
            ∃ t w, exec (.jobValidSet v) s = .next t ∧ t.job j = { s.job j with cfg := w } ∧ w.getLsbD 31 = true ∧ (∀ k, k ≠ j → t.job k = s.job k) ∧
              Only [.freeCount, .jobs, .pages] s t))) ∧
      (new = (v % 2 ^ 31) &&& 0xF000FFFF →
        ((s.job j).valid = false → ∃ t, exec (.jobValidClear v) s = .next t ∧ t.job j = { s.job j with cfg := BitVec.ofNat 32 new } ∧
          (∀ k, k ≠ j → t.job k = s.job k) ∧ Only [.jobs, .pages] s t) ∧
        ((s.job j).valid = true → s.queuedOf j ≠ 0 → ∃ t, exec (.jobValidClear v) s = .next t ∧ (t.page .sched 0).errCode = 1 ∧
          (t.page .sched 0).errInfo = BitVec.ofNat 32 j ∧ Only [.pages] s t) ∧
        ((s.job j).valid = true → s.queuedOf j = 0 → ∃ t, exec (.jobValidClear v) s = .next t ∧
          t.job j = { s.job j with cfg := BitVec.ofNat 32 new, turnSteps := 0, turnPending := none, scaleDir := false, adaptDir := false } ∧
          (∀ k, k ≠ j → t.job k = s.job k) ∧ Only [.devState, .engines, .hostMem, .jobs, .msix, .pages, .pins] s t))) ∧
    (∀ b i, b.enableWritable = true → s.hostWrites b i = true →
      ((s.page b i).enable = false → (s.page b i).disabling = true → s.blockBusy b i = true → ∃ t, exec (.blockEnableSet b i) s = .next t ∧
        (t.page b i).enable = false ∧ (t.page b i).errValid = true ∧ (t.page b i).errCode = 4 ∧ Only [.pages] s t) ∧
      ((s.page b i).enable = false → ((s.page b i).disabling = false ∨ s.blockBusy b i = false) → ∃ t, exec (.blockEnableSet b i) s = .next t ∧
        (t.page b i).enable = true ∧ (t.page b i).disabling = false ∧ (t.page b i).drain = (s.page b i).drain ∧ (b = .ingest → t.ingest.seq = 0) ∧
        (b = .disp → t.disp.running = true) ∧
        Only [.badWords, .cairn, .devState, .disp, .engines, .freeCount, .groups, .hostMem, .ingest, .mem, .msix, .pages, .pins, .softWords, .steps] s t) ∧
      ((s.page b i).enable = true → ∃ t, exec (.blockEnableSet b i) s = .next t ∧ (t.page b i).enable = true ∧ Only [.pages] s t) ∧
      ((s.page b i).enable = false → ∃ t, exec (.blockEnableClear b i) s = .next t ∧ (t.page b i).enable = false ∧ Only [.pages] s t) ∧
      ((s.page b i).enable = true → (b ≠ .ne ∨ ∀ g ∈ s.groups, g.live = true → g.engine ≠ i) → ∃ t, exec (.blockEnableClear b i) s = .next t ∧
        (t.page b i).enable = false ∧ (t.page b i).drain = (s.page b i).drain ∧
        t.cmds = (if b = .disp then s.cmds else
          s.cmds.map fun c => if c.unstarted && (c.place != .pending && s.heldBy b i c && s.me.uid != some c.uid) then { c with place := .ended .unitDisabled 0 } else c) ∧
        (b = .disp → s.disp.running = true → t.disp.stopping = true) ∧ (b = .dptx → (t.out i).streaming = false) ∧
        Only [.cmds, .devState, .disp, .engines, .hostMem, .msix, .outs, .pages, .pins, .raster, .regs] s t) ∧
      ((s.page b i).enable = true → ∃ t, exec (.blockEnableClear b i) s = .next t ∧ (t.page b i).enable = false) ∧
      (∃ t, exec (.blockDrainSet b i) s = .next t ∧ (t.page b i).drain = true ∧ (t.page b i).enable = (s.page b i).enable ∧ Only [.engines, .pages] s t) ∧
      (∃ t, exec (.blockDrainClear b i) s = .next t ∧ (t.page b i).drain = false ∧ (t.page b i).enable = (s.page b i).enable ∧ Only [.engines, .pages] s t) ∧
      (1 < s.blkState b i → ∃ t, exec (.softReset b i) s = .next t ∧ (t.page b i).errValid = true ∧ (t.page b i).errCode = 4 ∧ Only [.pages] s t) ∧
      (s.blkState b i ≤ 1 → ∃ t, exec (.softReset b i) s = .next t ∧
        (t.page b i).enable = (s.pageReset b i).enable ∧ (t.page b i).drain = false ∧ (t.page b i).irqEn = 0 ∧ (t.page b i).errValid = false ∧
        (∀ k, t.regs.find? k = if k / 0x1000 == b.base i / 0x1000 then none else s.regs.find? k) ∧
        Only [.badWords, .cairn, .devState, .disp, .dma, .engines, .freeCount, .groups, .hostMem, .ingest, .latch, .mem, .msix, .outs, .pages, .pins, .raster,
          .regs, .saveBase, .softWords, .steps] s t)) ∧
    (∀ b i, b.enableWritable = false → s.hostWrites b i = true →
      (∀ x ∈ [Instr.blockEnableSet b i, .blockEnableClear b i, .blockDrainSet b i, .blockDrainClear b i], exec x s = .next s) ∧
      (b ≠ .ve → b ≠ .xp → exec (.softReset b i) s = .next s) ∧
      (b = .ve ∨ b = .xp →
        (1 < s.blkState b i → ∃ t, exec (.softReset b i) s = .next t ∧ (t.page b i).errValid = true ∧ (t.page b i).errCode = 4 ∧ Only [.pages] s t) ∧
        (s.blkState b i ≤ 1 → ∃ t, exec (.softReset b i) s = .next t ∧ (t.page b i).irqEn = 0 ∧ (t.page b i).errValid = false ∧
          (∀ k, t.regs.find? k = if k / 0x1000 == b.base i / 0x1000 then none else s.regs.find? k) ∧ t.engines.map (·.1) = s.engines.map (·.1) ∧
          Only [.devState, .engines, .hostMem, .latch, .msix, .pages, .pins, .regs] s t))) ∧
    (∀ b i, s.answers b i = false → exec (.blockDrainEnd b i) s = .next s) ∧
    (∀ b i, b.enableWritable = true → s.answers b i = true → ∃ t, exec (.blockDrainEnd b i) s = .next t ∧ Only [.engines, .pages] s t ∧
      ((s.page b i).enable = false → s.blockBusy b i = false → (t.page b i).disabling = false ∧ (t.page b i).faulted = false) ∧
      ((s.page b i).enable = true ∨ s.blockBusy b i = true → t.pages = s.pages))

/-! ### The JTAG port, debug access and the board window -/

/-- The JTAG port (R460, R470): JTAG_BYPASS, JTAG_IDCODE, JTAG_SAMPLE_PRELOAD and JTAG_EXTEST; debug access (R461 to R463): DBG_CHALLENGE, DBG_TOKEN, DBG_CLOSE, DBG_MEM and
DBG_CORE; and the board window (R481, R485): BW_BLOCK_WRITE and BW_STATUS_READ. Without its supply, which is off in BASECAMP for the port, none has an effect. An instruction that is not allowed selects
BYPASS, as a token in reset does (R475); a challenge serves one token; a good token opens debug access, a bad one counts and the eighth locks debug access out; closing clears what was open;
a block write stores the bits that can be written, and one with a wrong PEC nothing; a read of BW_STATUS releases SMB_ALERT_N. A core that debug holds halted pauses the firmware functions, and host AUX transactions
are NACKed; the hub has two cores. A change of the GPIO levels passes its filter (R483). What a boundary scan samples, a
challenge, and a core register that was never written are free values. The model's choices: either halted core pauses the firmware functions (assumption 71); a token under
LOCKOUT spends the challenge, and a step forgets the registers of its core (assumption 52). -/
def Obligations.DebugPortAndBoardWindow : Prop :=
  ∀ (s : State),
    (s.pins.supply = false ∨ s.devState = 1 → ∀ i, (i = Instr.jtagBypass ∨ i = .jtagIdcode ∨ (∃ d, i = .jtagSamplePreload d) ∨ (∃ d, i = .jtagExtest d) ∨ i = .dbgChallenge ∨
        (∃ k, i = .dbgToken k) ∨ i = .dbgClose ∨ (∃ dev a v, i = .dbgMem dev a v) ∨ (∃ c o, i = .dbgCore c o)) → exec i s = .next s) ∧
    (s.pins.bc = false → (∀ c v p, exec (.bwBlockWrite c v p) s = .next s) ∧ ∀ c g, exec (.bwStatusRead c g) s = .next s) ∧
    (s.pins.bc = true →
      (∀ code v, bwMask code ≠ 0 → ∃ t, exec (.bwBlockWrite code v true) s = .next t ∧ t.bwReg code = v % 2 ^ 32 &&& bwMask code ∧
        (∀ k, k ≠ code → t.bwReg k = s.bwReg k) ∧ Only [.bw] s t) ∧
      (∀ code v p, (bwMask code = 0 ∨ p = false) → exec (.bwBlockWrite code v p) s = .next s) ∧
      (∀ code g u, u = (if s.pins.gpioIn = g % 2 ^ 16 then s else s.filtered .gpio 0) → ∃ t, exec (.bwStatusRead code g) s = .next t ∧
        t.readData = leBytes 4 (State.bwRead { u with pins := { u.pins with gpioIn := g % 2 ^ 16 } } code) ∧ t.now = u.now ∧
        t.pins = { u.pins with gpioIn := g % 2 ^ 16, smbAlert := if code = 0x01 then false else s.pins.smbAlert } ∧ Only [.now, .pins, .readData] s t)) ∧
    (s.pins.supply = true → s.devState ≠ 1 →
      exec .jtagBypass s = .next { s with dbg := { s.dbg with ir := 0x3F, tdo := [] } } ∧
      exec .jtagIdcode s = .next { s with dbg := { s.dbg with ir := 0x01, tdo := leBytes 4 0x1B80854F } } ∧
      (∀ d i ir, (i = Instr.jtagSamplePreload d ∧ ir = 0x02 ∨ i = .jtagExtest d ∧ ir = 0x00 ∧ s.pins.resetN = false) → ∃ t, exec i s = .next t ∧
        t.dbg = { s.dbg with ir := ir, tdo := t.dbg.tdo } ∧ t.dbg.tdo.length = d.length ∧ t.pins = { s.pins with scan := d } ∧ Only [.dbg, .freeCount, .pins] s t) ∧
      (∃ t, exec .dbgChallenge s = .next t ∧ t.dbg = { s.dbg with ir := 0x10, tdo := t.dbg.tdo, challenge := some t.dbg.tdo } ∧ t.dbg.tdo.length = 32 ∧
        Only [.dbg, .freeCount] s t) ∧
      (∀ i, ((∃ d, i = Instr.jtagExtest d) ∧ s.pins.resetN = true ∨ (∃ k, i = .dbgToken k) ∧ (s.dbg.isOpen = true ∨ s.devState = 0) ∨ i = .dbgClose ∧ s.dbg.isOpen = false ∨
          (∃ dev a v, i = .dbgMem dev a v) ∧ (s.dbg.isOpen = false ∨ s.dbg.scope.testBit 0 = false) ∨
          (∃ c o, i = .dbgCore c o) ∧ (s.dbg.isOpen = false ∨ s.dbg.scope.testBit 1 = false)) →
        exec i s = .next { s with dbg := { s.dbg with ir := 0x3F, tdo := [] } }) ∧
      (∀ k, s.dbg.isOpen = false → s.devState ≠ 0 → ∃ t, exec (.dbgToken k) s = .next t ∧ t.dbg.challenge = none ∧ t.dbg.ir = 0x11 ∧ t.dbg.tdo = [] ∧
        (s.dbg.lockout = true → t.dbg.isOpen = false ∧ t.dbg.lockout = true ∧ t.dbg.fails = s.dbg.fails ∧ Only [.dbg] s t) ∧
        (s.dbg.lockout = false → s.tokenGood k = false → t.dbg.isOpen = false ∧ t.dbg.fails = s.dbg.fails + 1 ∧ t.dbg.lockout = decide (8 ≤ s.dbg.fails + 1) ∧
          Only [.dbg] s t) ∧
        (s.dbg.lockout = false → s.tokenGood k = true → t.dbg.isOpen = true ∧ t.dbg.scope = bits (leNat ((k.drop 40).take 4)) 1 0 ∧
          t.dbg.cust = s.boot.custKey.isSome ∧ (t.page .perf 0x40).raw.getLsbD 3 = true ∧ t.reg .perf 0x40 0x0AC = min (s.reg .perf 0x40 0x0AC + 1) (2 ^ 32 - 1) ∧
          (∀ n, n < Config.outputs s.variant → (t.out n).hdcp = 0 ∧ (t.out n).encrypting = false) ∧
          t.ingest = { s.ingest with prot := false, ctype := false } ∧ Only [.dbg, .hostMem, .ingest, .msix, .outs, .pages, .regs] s t)) ∧
      (s.dbg.isOpen = true → ∃ t, exec .dbgClose s = .next t ∧
        t.dbg = { s.dbg with ir := 0x12, tdo := [], isOpen := false, cust := false, scope := 0, halted := [] } ∧ (t.page .perf 0x40).raw.getLsbD 3 = true ∧
        Only [.dbg, .hostMem, .msix, .pages] s t) ∧
      (s.dbg.isOpen = true → s.dbg.scope.testBit 0 = true → ∀ a,
        (∀ v, exec (.dbgMem false a (some v)) s = .next ((s.shiftOut 0x13 []).writeBar0 a 4 v)) ∧
        (∃ t, exec (.dbgMem false a none) s = .next t ∧ t.dbg = { s.dbg with ir := 0x13, tdo := leBytes 4 (s.readWord a).1 } ∧ Only [.dbg, .latch] s t) ∧
        (∀ place, s.target a 4 = some place → (place = .dram → s.dramReady = true) →
          (∀ v, exec (.dbgMem true a (some v)) s = .next ((s.shiftOut 0x13 []).devPut a (leBytes 4 v))) ∧
          (s.badIn a 4 = false → exec (.dbgMem true a none) s = .next ((s.correctReads .sec 0 [(a, 4)]).shiftOut 0x13 (s.devGet a 4)) ∧
            (s.softWords = [] → exec (.dbgMem true a none) s = .next (s.shiftOut 0x13 (s.devGet a 4))))) ∧
        (s.target a 4 = none → (∀ v, exec (.dbgMem true a (some v)) s = .next (s.shiftOut 0x13 [])) ∧
          exec (.dbgMem true a none) s = .next (s.shiftOut 0x13 (leBytes 4 0))) ∧
        (s.target a 4 = some .dram → s.dramReady = false → (∀ v, exec (.dbgMem true a (some v)) s = .next (s.shiftOut 0x13 [])) ∧
          ∃ t, exec (.dbgMem true a none) s = .next t ∧ t.dbg = { s.dbg with ir := 0x13, tdo := t.dbg.tdo } ∧ t.dbg.tdo.length = 4 ∧ Only [.dbg, .freeCount] s t) ∧
        (s.badIn a 4 = true → ∃ t, exec (.dbgMem true a none) s = .next t ∧ t.dbg = { s.dbg with ir := 0x13, tdo := t.dbg.tdo } ∧ t.dbg.tdo.length = 4 ∧
          Only [.dbg, .freeCount] s t)) ∧
      (s.dbg.isOpen = true → s.dbg.scope.testBit 1 = true → ∀ c op, 2 ≤ c → exec (.dbgCore c op) s = .next (s.shiftOut 0x14 [])) ∧
      (s.dbg.isOpen = true → s.dbg.scope.testBit 1 = true → ∀ c, c < 2 →
        (∃ t, exec (.dbgCore c .halt) s = .next t ∧ c ∈ t.dbg.halted ∧ (∀ k, k ≠ c → (k ∈ t.dbg.halted ↔ k ∈ s.dbg.halted)) ∧
          t.fwPaused = true ∧ (∀ n, (s.out n).auxBusy = true → t.out n = { s.out n with auxBusy := false, auxResult := 1 }) ∧
          (∀ n, (s.out n).auxBusy = false → t.out n = s.out n) ∧ Only [.dbg, .outs] s t) ∧
        (∃ t, exec (.dbgCore c .resume) s = .next t ∧ c ∉ t.dbg.halted ∧ (∀ k, k ≠ c → (k ∈ t.dbg.halted ↔ k ∈ s.dbg.halted)) ∧ Only [.dbg] s t) ∧
        (∃ t, exec (.dbgCore c .step) s = .next t ∧ t.dbg.halted = s.dbg.halted ∧ (∀ r, t.dbg.coreRegs.find? (coreKey c r) = none) ∧ Only [.dbg] s t) ∧
        (∀ r v, c ∉ s.dbg.halted → exec (.dbgCore c (.write r v)) s = .next (s.shiftOut 0x14 [])) ∧
        (∀ r v, c ∈ s.dbg.halted → ∃ t, exec (.dbgCore c (.write r v)) s = .next t ∧ t.dbg.coreRegs.find? (coreKey c r) = some (BitVec.ofNat 32 v) ∧
          t.dbg.halted = s.dbg.halted ∧ Only [.dbg] s t) ∧
        (∀ r, ∃ t, exec (.dbgCore c (.read r)) s = .next t ∧ t.dbg.ir = 0x14 ∧ t.dbg.halted = s.dbg.halted ∧ Only [.dbg, .freeCount] s t ∧
          (∀ w, s.dbg.coreRegs.find? (coreKey c r) = some w → t.dbg.tdo = leBytes 4 w.toNat))))

/-! ### The state at reset -/

/-- What registers read as at reset, as the field tables give it: of the scheduler (R50), a neural engine (R110), a post-processing unit (R166), the matching
engine (R215), the raster engine (R245), the display engine (R275), tile memory (R300), hub SRAM (R301), a DRAM port (R303), the host interface (R356), DMA (R358), ingest (R359), the power manager of an
H8A (R426; that the part is an H8A is the model's choice, assumption 1), and the fault manager (R447). No job is valid, no flag has advanced, and debug access is closed. -/
def Obligations.ResetRegistersHoldTheirTableValues : Prop :=
  (let r := State.reset.readReg
   r .sched 0 0x040 = 300 ∧ r .sched 0 0x044 = 20 ∧ r .sched 0 0x048 = 100 ∧ r .sched 0 0x050 = 2 * 2 ^ 28 ∧ r .sched 0 0x070 = 14336 ∧
   r .ne 0 0x044 = 20 ∧ r .post 0 0x044 = 50 ∧ r .me 0 0x044 = 20 ∧ r .me 0 0x048 = 2048 ∧ r .raster 0 0x044 = 100 ∧
   r .disp 0 0x04C = 3840 * 2 ^ 16 + 2160 ∧ r .disp 0 0x05C = 15360 ∧ r .disp 0 0x07C = 594000 ∧ r .tmem 0 0x050 = 2 ^ 31 + 24 ∧
   r .hsram 0 0x040 = 0x1A001000 ∧ r .memc 0 0x05C = 0 ∧ r .hif 0 0x044 = 2 ∧ r .dma 0 0x050 = 100 ∧ r .dma 0 0x044 = 2 ^ 31 + 2 ∧ r .ingest 0 0x048 = 4 ∧ r .pwr 0 0x048 = 228 ∧
   r .pwr 0 0x044 = 71303488 ∧ r .fault 0 0x044 = 3276801) ∧
  (∀ j, (State.reset.job j).valid = false) ∧ (∀ f, (State.reset.flag f).gen = 0) ∧ State.reset.dbg.isOpen = false
end

