-- ==== Sys2Proof/Laws/Frame.lean ====
section
/-!
SUPPORT. The relation that only the fields of a list may differ: it composes, and an update of fields changes no other.
-/

-- One proof at a time: the proofs of this file are many, and run together they take many threads at once.
set_option Elab.async false

namespace Sys2Proof.Machine

theorem StateField.same_refl (s : State) (f : StateField) : f.same s s := by cases f <;> rfl

theorem StateField.same_trans {s t u : State} {f : StateField} (h1 : f.same s t) (h2 : f.same t u) : f.same s u := by
  cases f <;> exact Eq.trans h2 h1

theorem Only.refl (fs : List StateField) (s : State) : Only fs s s := fun f _ => f.same_refl s

theorem mask_le {a b i : Nat} (h : a &&& b = a) (hb : b.testBit i = false) : a.testBit i = false := by
  rw [← h, Nat.testBit_and, hb, Bool.and_false]

/-- After a state that differs from `s` in fields of `gs` only, an operation that changes fields of a smaller list. -/
theorem Only.step {fs gs : List StateField} {s x y : State} (h : Only fs x y)
    (hs : fieldMask fs &&& fieldMask gs = fieldMask fs) (hx : Only gs s x) : Only gs s y :=
  fun f hf => StateField.same_trans (hx f hf) (h f (mask_le hs hf))

theorem Only.put {gs : List StateField} {s x y : State} (h : ∀ f : StateField, (fieldMask gs).testBit f.idx = false → f.same x y)
    (hx : Only gs s x) : Only gs s y := fun f hf => StateField.same_trans (hx f hf) (h f hf)

theorem Only.ite {gs : List StateField} {s x y : State} {c : Prop} [Decidable c] (hx : Only gs s x) (hy : Only gs s y) :
    Only gs s (if c then x else y) := by split <;> assumption

theorem Only.foldl {α : Type} {gs : List StateField} {s : State} {g : State → α → State} {l : List α} {x : State}
    (hg : ∀ y a, Only gs s y → Only gs s (g y a)) (hx : Only gs s x) : Only gs s (l.foldl g x) := by
  induction l generalizing x with
  | nil => exact hx
  | cons a l ih => exact ih (hg x a hx)

theorem OnlyOut.next {fs : List StateField} {s t : State} (h : Only fs s t) : OnlyOut fs s (.next t) := h

theorem OnlyOut.ite {fs : List StateField} {s : State} {x y : Out} {c : Prop} [Decidable c] (hx : OnlyOut fs s x)
    (hy : OnlyOut fs s y) : OnlyOut fs s (if c then x else y) := by split <;> assumption

theorem OnlyOut.step {fs gs : List StateField} {s x : State} {o : Out} (h : OnlyOut fs x o)
    (hs : fieldMask fs &&& fieldMask gs = fieldMask fs) (hx : Only gs s x) : OnlyOut gs s o := by
  cases o with
  | next t => exact Only.step h hs hx
  | fault _ => exact trivial
  | refused _ => exact trivial

theorem Only.foldl_fst {α β : Type} {gs : List StateField} {s : State} {g : State × β → α → State × β} {l : List α}
    {x : State × β} (hg : ∀ y a r, g y a = r → Only gs s y.1 → Only gs s r.1) (hx : Only gs s x.1) :
    Only gs s (l.foldl g x).1 := by
  induction l generalizing x with
  | nil => exact hx
  | cons a l ih => exact ih (hg x a _ rfl hx)

theorem Only.elim {α : Type} {gs : List StateField} {s x : State} {o : Option α} {f : α → State} (hx : Only gs s x)
    (hf : ∀ a, Only gs s (f a)) : Only gs s (o.elim x f) := by
  cases o with
  | none => exact hx
  | some a => exact hf a

theorem Only.runAll {α : Type} {gs : List StateField} {s : State} {f : State → α → State × Bool} {xs : List α} {x : State × Bool}
    (hf : ∀ y a r, f y a = r → Only gs s y → Only gs s r.1) (hx : Only gs s x.1) : Only gs s (Machine.runAll f xs x).1 := by
  unfold Machine.runAll
  refine Only.foldl_fst ?_ hx
  intro y a r hr hy
  subst hr
  show Only gs s (f y.1 a).1
  exact hf _ _ _ rfl hy

theorem Only.getD {gs : List StateField} {s d : State} {o : Option State} (ho : ∀ y, o = some y → Only gs s y) (hd : Only gs s d) :
    Only gs s (o.getD d) := by
  cases o with
  | none => exact hd
  | some y => exact ho y rfl

theorem Only.set_aptSlots {x : State} {v0} : Only [.aptSlots] x { x with aptSlots := v0 } := by
  intro f hf; cases f <;> first | exact rfl | exact absurd hf (by decide)
theorem Only.set_apts {x : State} {v0} : Only [.apts] x { x with apts := v0 } := by
  intro f hf; cases f <;> first | exact rfl | exact absurd hf (by decide)
theorem Only.set_backlog {x : State} {v0} : Only [.backlog] x { x with backlog := v0 } := by
  intro f hf; cases f <;> first | exact rfl | exact absurd hf (by decide)
theorem Only.set_badWords {x : State} {v0} : Only [.badWords] x { x with badWords := v0 } := by
  intro f hf; cases f <;> first | exact rfl | exact absurd hf (by decide)
theorem Only.set_boot {x : State} {v0} : Only [.boot] x { x with boot := v0 } := by
  intro f hf; cases f <;> first | exact rfl | exact absurd hf (by decide)
theorem Only.set_bw {x : State} {v0} : Only [.bw] x { x with bw := v0 } := by
  intro f hf; cases f <;> first | exact rfl | exact absurd hf (by decide)
theorem Only.set_cairn {x : State} {v0} : Only [.cairn] x { x with cairn := v0 } := by
  intro f hf; cases f <;> first | exact rfl | exact absurd hf (by decide)
theorem Only.set_cdLost_pins {x : State} {v0 v1} : Only [.cdLost, .pins] x { x with cdLost := v0, pins := v1 } := by
  intro f hf; cases f <;> first | exact rfl | exact absurd hf (by decide)
theorem Only.set_cmds {x : State} {v0} : Only [.cmds] x { x with cmds := v0 } := by
  intro f hf; cases f <;> first | exact rfl | exact absurd hf (by decide)
theorem Only.set_cmds_disp {x : State} {v0 v1} : Only [.cmds, .disp] x { x with cmds := v0, disp := v1 } := by
  intro f hf; cases f <;> first | exact rfl | exact absurd hf (by decide)
theorem Only.set_cmds_groups {x : State} {v0 v1} : Only [.cmds, .groups] x { x with cmds := v0, groups := v1 } := by
  intro f hf; cases f <;> first | exact rfl | exact absurd hf (by decide)
theorem Only.set_cmds_steps_disp {x : State} {v0 v1 v2} : Only [.cmds, .steps, .disp] x { x with cmds := v0, steps := v1, disp := v2 } := by
  intro f hf; cases f <;> first | exact rfl | exact absurd hf (by decide)
theorem Only.set_colls {x : State} {v0} : Only [.colls] x { x with colls := v0 } := by
  intro f hf; cases f <;> first | exact rfl | exact absurd hf (by decide)
theorem Only.set_ctrs {x : State} {v0} : Only [.ctrs] x { x with ctrs := v0 } := by
  intro f hf; cases f <;> first | exact rfl | exact absurd hf (by decide)
theorem Only.set_dbg {x : State} {v0} : Only [.dbg] x { x with dbg := v0 } := by
  intro f hf; cases f <;> first | exact rfl | exact absurd hf (by decide)
theorem Only.set_devState_cdLost_mdLost_link_regs_mem_badWords_softWords_pins_boot_dbg {x : State} {v0 v1 v2 v3 v4 v5 v6 v7 v8 v9 v10} : Only [.devState, .cdLost, .mdLost, .link, .regs, .mem, .badWords, .pins, .boot, .dbg, .softWords] x { x with devState := v0, cdLost := v1, mdLost := v2, link := v3, regs := v4, mem := v5, badWords := v6, softWords := v7, pins := v8, boot := v9, dbg := v10 } := by
  intro f hf; cases f <;> first | exact rfl | exact absurd hf (by decide)
theorem Only.set_devState_link_msix_mem_badWords_softWords_boot_pins {x : State} {v0 v1 v2 v3 v4 v5 v6 v7} : Only [.devState, .link, .msix, .mem, .badWords, .pins, .boot, .softWords] x { x with devState := v0, link := v1, msix := v2, mem := v3, badWords := v4, softWords := v5, boot := v6, pins := v7 } := by
  intro f hf; cases f <;> first | exact rfl | exact absurd hf (by decide)
theorem Only.set_devState_link_msix_mem_badWords_softWords_pins_boot {x : State} {v0 v1 v2 v3 v4 v5 v6 v7} : Only [.devState, .link, .msix, .mem, .badWords, .pins, .boot, .softWords] x { x with devState := v0, link := v1, msix := v2, mem := v3, badWords := v4, softWords := v5, pins := v6, boot := v7 } := by
  intro f hf; cases f <;> first | exact rfl | exact absurd hf (by decide)
theorem Only.set_devState_link_regs_mem_badWords_softWords_pins_boot_dbg {x : State} {v0 v1 v2 v3 v4 v5 v6 v7 v8} : Only [.devState, .link, .regs, .mem, .badWords, .pins, .boot, .dbg, .softWords] x { x with devState := v0, link := v1, regs := v2, mem := v3, badWords := v4, softWords := v5, pins := v6, boot := v7, dbg := v8 } := by
  intro f hf; cases f <;> first | exact rfl | exact absurd hf (by decide)
theorem Only.set_devState_pins {x : State} {v0 v1} : Only [.devState, .pins] x { x with devState := v0, pins := v1 } := by
  intro f hf; cases f <;> first | exact rfl | exact absurd hf (by decide)
theorem Only.set_devState_pins_boot {x : State} {v0 v1 v2} : Only [.devState, .pins, .boot] x { x with devState := v0, pins := v1, boot := v2 } := by
  intro f hf; cases f <;> first | exact rfl | exact absurd hf (by decide)
theorem Only.set_disp {x : State} {v0} : Only [.disp] x { x with disp := v0 } := by
  intro f hf; cases f <;> first | exact rfl | exact absurd hf (by decide)
theorem Only.set_disp_cairn {x : State} {v0 v1} : Only [.disp, .cairn] x { x with disp := v0, cairn := v1 } := by
  intro f hf; cases f <;> first | exact rfl | exact absurd hf (by decide)
theorem Only.set_dma {x : State} {v0} : Only [.dma] x { x with dma := v0 } := by
  intro f hf; cases f <;> first | exact rfl | exact absurd hf (by decide)
theorem Only.set_engines {x : State} {v0} : Only [.engines] x { x with engines := v0 } := by
  intro f hf; cases f <;> first | exact rfl | exact absurd hf (by decide)
theorem Only.set_fetches {x : State} {v0} : Only [.fetches] x { x with fetches := v0 } := by
  intro f hf; cases f <;> first | exact rfl | exact absurd hf (by decide)
theorem Only.set_flags {x : State} {v0} : Only [.flags] x { x with flags := v0 } := by
  intro f hf; cases f <;> first | exact rfl | exact absurd hf (by decide)
theorem Only.set_flags_me {x : State} {v0 v1} : Only [.flags, .me] x { x with flags := v0, me := v1 } := by
  intro f hf; cases f <;> first | exact rfl | exact absurd hf (by decide)
theorem Only.set_freeCount {x : State} {v0} : Only [.freeCount] x { x with freeCount := v0 } := by
  intro f hf; cases f <;> first | exact rfl | exact absurd hf (by decide)
theorem Only.set_freeCount_cairn {x : State} {v0 v1} : Only [.freeCount, .cairn] x { x with freeCount := v0, cairn := v1 } := by
  intro f hf; cases f <;> first | exact rfl | exact absurd hf (by decide)
theorem Only.set_freeCount_ctrs_snaps {x : State} {v0 v1 v2} : Only [.freeCount, .ctrs, .snaps] x { x with freeCount := v0, ctrs := v1, snaps := v2 } := by
  intro f hf; cases f <;> first | exact rfl | exact absurd hf (by decide)
theorem Only.set_groups {x : State} {v0} : Only [.groups] x { x with groups := v0 } := by
  intro f hf; cases f <;> first | exact rfl | exact absurd hf (by decide)
theorem Only.set_holdCauses {x : State} {v0} : Only [.holdCauses] x { x with holdCauses := v0 } := by
  intro f hf; cases f <;> first | exact rfl | exact absurd hf (by decide)
theorem Only.set_holdCauses_pins_pwr {x : State} {v0 v1 v2} : Only [.holdCauses, .pins, .pwr] x { x with holdCauses := v0, pins := v1, pwr := v2 } := by
  intro f hf; cases f <;> first | exact rfl | exact absurd hf (by decide)
theorem Only.set_hostMem {x : State} {v0} : Only [.hostMem] x { x with hostMem := v0 } := by
  intro f hf; cases f <;> first | exact rfl | exact absurd hf (by decide)
theorem Only.set_ingest {x : State} {v0} : Only [.ingest] x { x with ingest := v0 } := by
  intro f hf; cases f <;> first | exact rfl | exact absurd hf (by decide)
theorem Only.set_ingest_dbg {x : State} {v0 v1} : Only [.ingest, .dbg] x { x with ingest := v0, dbg := v1 } := by
  intro f hf; cases f <;> first | exact rfl | exact absurd hf (by decide)
theorem Only.set_insole {x : State} {v0} : Only [.insole] x { x with insole := v0 } := by
  intro f hf; cases f <;> first | exact rfl | exact absurd hf (by decide)
theorem Only.set_issue {x : State} {v0} : Only [.issue] x { x with issue := v0 } := by
  intro f hf; cases f <;> first | exact rfl | exact absurd hf (by decide)
theorem Only.set_jobs {x : State} {v0} : Only [.jobs] x { x with jobs := v0 } := by
  intro f hf; cases f <;> first | exact rfl | exact absurd hf (by decide)
theorem Only.set_lastFw {x : State} {v0} : Only [.lastFw] x { x with lastFw := v0 } := by
  intro f hf; cases f <;> first | exact rfl | exact absurd hf (by decide)
theorem Only.set_latch {x : State} {v0} : Only [.latch] x { x with latch := v0 } := by
  intro f hf; cases f <;> first | exact rfl | exact absurd hf (by decide)
theorem Only.set_link {x : State} {v0} : Only [.link] x { x with link := v0 } := by
  intro f hf; cases f <;> first | exact rfl | exact absurd hf (by decide)
theorem Only.set_link_msix {x : State} {v0 v1} : Only [.link, .msix] x { x with link := v0, msix := v1 } := by
  intro f hf; cases f <;> first | exact rfl | exact absurd hf (by decide)
theorem Only.set_log {x : State} {v0} : Only [.log] x { x with log := v0 } := by
  intro f hf; cases f <;> first | exact rfl | exact absurd hf (by decide)
theorem Only.set_mdLost_pins {x : State} {v0 v1} : Only [.mdLost, .pins] x { x with mdLost := v0, pins := v1 } := by
  intro f hf; cases f <;> first | exact rfl | exact absurd hf (by decide)
theorem Only.set_me {x : State} {v0} : Only [.me] x { x with me := v0 } := by
  intro f hf; cases f <;> first | exact rfl | exact absurd hf (by decide)
theorem Only.set_mem_badWords_softWords {x : State} {v0 v1 v2} : Only [.mem, .badWords, .softWords] x { x with mem := v0, badWords := v1, softWords := v2 } := by
  intro f hf; cases f <;> first | exact rfl | exact absurd hf (by decide)
theorem Only.set_mem_badWords_softWords_me {x : State} {v0 v1 v2 v3} : Only [.mem, .badWords, .me, .softWords] x { x with mem := v0, badWords := v1, softWords := v2, me := v3 } := by
  intro f hf; cases f <;> first | exact rfl | exact absurd hf (by decide)
theorem Only.set_mem_badWords_softWords_protEff {x : State} {v0 v1 v2 v3} : Only [.mem, .badWords, .protEff, .softWords] x { x with mem := v0, badWords := v1, softWords := v2, protEff := v3 } := by
  intro f hf; cases f <;> first | exact rfl | exact absurd hf (by decide)
theorem Only.set_mem_hostMem {x : State} {v0 v1} : Only [.mem, .hostMem] x { x with mem := v0, hostMem := v1 } := by
  intro f hf; cases f <;> first | exact rfl | exact absurd hf (by decide)
theorem Only.set_msix {x : State} {v0} : Only [.msix] x { x with msix := v0 } := by
  intro f hf; cases f <;> first | exact rfl | exact absurd hf (by decide)
theorem Only.set_msix_pages_regs_mem_badWords_softWords_outs_pins_boot {x : State} {v0 v1 v2 v3 v4 v5 v6 v7 v8} : Only [.msix, .pages, .regs, .mem, .badWords, .outs, .pins, .boot, .softWords] x { x with msix := v0, pages := v1, regs := v2, mem := v3, badWords := v4, softWords := v5, outs := v6, pins := v7, boot := v8 } := by
  intro f hf; cases f <;> first | exact rfl | exact absurd hf (by decide)
theorem Only.set_nextUid_aptSlots {x : State} {v0 v1} : Only [.nextUid, .aptSlots] x { x with nextUid := v0, aptSlots := v1 } := by
  intro f hf; cases f <;> first | exact rfl | exact absurd hf (by decide)
theorem Only.set_now {x : State} {v0} : Only [.now] x { x with now := v0 } := by
  intro f hf; cases f <;> first | exact rfl | exact absurd hf (by decide)
theorem Only.set_now_devState_link_msix_pages_regs_mem_badWords_softWords_boot_pins_timeFrac {x : State} {v0 v1 v2 v3 v4 v5 v6 v7 v8 v9 v10 v11} : Only [.now, .devState, .link, .msix, .pages, .regs, .mem, .badWords, .pins, .boot, .softWords, .timeFrac] x { x with now := v0, devState := v1, link := v2, msix := v3, pages := v4, regs := v5, mem := v6, badWords := v7, softWords := v8, boot := v9, pins := v10, timeFrac := v11 } := by
  intro f hf; cases f <;> first | exact rfl | exact absurd hf (by decide)
theorem Only.set_now_pages_regs_timeFrac {x : State} {v0 v1 v2 v3} : Only [.now, .pages, .regs, .timeFrac] x { x with now := v0, pages := v1, regs := v2, timeFrac := v3 } := by
  intro f hf; cases f <;> first | exact rfl | exact absurd hf (by decide)
theorem Only.set_now_timeFrac {x : State} {v0 v1} : Only [.now, .timeFrac] x { x with now := v0, timeFrac := v1 } := by
  intro f hf; cases f <;> first | exact rfl | exact absurd hf (by decide)
theorem Only.set_outs {x : State} {v0} : Only [.outs] x { x with outs := v0 } := by
  intro f hf; cases f <;> first | exact rfl | exact absurd hf (by decide)
theorem Only.set_pages {x : State} {v0} : Only [.pages] x { x with pages := v0 } := by
  intro f hf; cases f <;> first | exact rfl | exact absurd hf (by decide)
theorem Only.set_part_boot {x : State} {v0 v1} : Only [.part, .boot] x { x with part := v0, boot := v1 } := by
  intro f hf; cases f <;> first | exact rfl | exact absurd hf (by decide)
theorem Only.set_pins {x : State} {v0} : Only [.pins] x { x with pins := v0 } := by
  intro f hf; cases f <;> first | exact rfl | exact absurd hf (by decide)
theorem Only.set_pins_boot {x : State} {v0 v1} : Only [.pins, .boot] x { x with pins := v0, boot := v1 } := by
  intro f hf; cases f <;> first | exact rfl | exact absurd hf (by decide)
theorem Only.set_pins_pwr {x : State} {v0 v1} : Only [.pins, .pwr] x { x with pins := v0, pwr := v1 } := by
  intro f hf; cases f <;> first | exact rfl | exact absurd hf (by decide)
theorem Only.set_pwr {x : State} {v0} : Only [.pwr] x { x with pwr := v0 } := by
  intro f hf; cases f <;> first | exact rfl | exact absurd hf (by decide)
theorem Only.set_pwr_boot_dbg {x : State} {v0 v1 v2} : Only [.pwr, .boot, .dbg] x { x with pwr := v0, boot := v1, dbg := v2 } := by
  intro f hf; cases f <;> first | exact rfl | exact absurd hf (by decide)
theorem Only.set_raster {x : State} {v0} : Only [.raster] x { x with raster := v0 } := by
  intro f hf; cases f <;> first | exact rfl | exact absurd hf (by decide)
theorem Only.set_readData {x : State} {v0} : Only [.readData] x { x with readData := v0 } := by
  intro f hf; cases f <;> first | exact rfl | exact absurd hf (by decide)
theorem Only.set_readData_pins {x : State} {v0 v1} : Only [.readData, .pins] x { x with readData := v0, pins := v1 } := by
  intro f hf; cases f <;> first | exact rfl | exact absurd hf (by decide)
theorem Only.set_refresh {x : State} {v0} : Only [.refresh] x { x with refresh := v0 } := by
  intro f hf; cases f <;> first | exact rfl | exact absurd hf (by decide)
theorem Only.set_regs {x : State} {v0} : Only [.regs] x { x with regs := v0 } := by
  intro f hf; cases f <;> first | exact rfl | exact absurd hf (by decide)
theorem Only.set_regs_insole {x : State} {v0 v1} : Only [.regs, .insole] x { x with regs := v0, insole := v1 } := by
  intro f hf; cases f <;> first | exact rfl | exact absurd hf (by decide)
theorem Only.set_regs_latch {x : State} {v0 v1} : Only [.regs, .latch] x { x with regs := v0, latch := v1 } := by
  intro f hf; cases f <;> first | exact rfl | exact absurd hf (by decide)
theorem Only.set_regs_pins_bw {x : State} {v0 v1 v2} : Only [.regs, .pins, .bw] x { x with regs := v0, pins := v1, bw := v2 } := by
  intro f hf; cases f <;> first | exact rfl | exact absurd hf (by decide)
theorem Only.set_resetPending {x : State} {v0} : Only [.resetPending] x { x with resetPending := v0 } := by
  intro f hf; cases f <;> first | exact rfl | exact absurd hf (by decide)
theorem Only.set_rings {x : State} {v0} : Only [.rings] x { x with rings := v0 } := by
  intro f hf; cases f <;> first | exact rfl | exact absurd hf (by decide)
theorem Only.set_saveBase {x : State} {v0} : Only [.saveBase] x { x with saveBase := v0 } := by
  intro f hf; cases f <;> first | exact rfl | exact absurd hf (by decide)
theorem Only.set_sleeping {x : State} {v0} : Only [.sleeping] x { x with sleeping := v0 } := by
  intro f hf; cases f <;> first | exact rfl | exact absurd hf (by decide)
theorem Only.set_snaps {x : State} {v0} : Only [.snaps] x { x with snaps := v0 } := by
  intro f hf; cases f <;> first | exact rfl | exact absurd hf (by decide)
theorem Only.set_softWords {x : State} {v0} : Only [.softWords] x { x with softWords := v0 } := by
  intro f hf; cases f <;> first | exact rfl | exact absurd hf (by decide)
theorem Only.set_steps {x : State} {v0} : Only [.steps] x { x with steps := v0 } := by
  intro f hf; cases f <;> first | exact rfl | exact absurd hf (by decide)
theorem Only.set_steps_groups {x : State} {v0 v1} : Only [.steps, .groups] x { x with steps := v0, groups := v1 } := by
  intro f hf; cases f <;> first | exact rfl | exact absurd hf (by decide)
theorem Only.set_stopped {x : State} {v0} : Only [.stopped] x { x with stopped := v0 } := by
  intro f hf; cases f <;> first | exact rfl | exact absurd hf (by decide)
theorem Only.set_traceGap {x : State} {v0} : Only [.traceGap] x { x with traceGap := v0 } := by
  intro f hf; cases f <;> first | exact rfl | exact absurd hf (by decide)
theorem Only.set_traceGap_traceFill_traceAt {x : State} {v0 v1 v2} : Only [.traceGap, .traceFill, .traceAt] x { x with traceGap := v0, traceFill := v1, traceAt := v2 } := by
  intro f hf; cases f <;> first | exact rfl | exact absurd hf (by decide)
theorem Only.set_waiting {x : State} {v0} : Only [.waiting] x { x with waiting := v0 } := by
  intro f hf; cases f <;> first | exact rfl | exact absurd hf (by decide)
theorem Only.set_welt {x : State} {v0} : Only [.welt] x { x with welt := v0 } := by
  intro f hf; cases f <;> first | exact rfl | exact absurd hf (by decide)
theorem Only.set_windows {x : State} {v0} : Only [.windows] x { x with windows := v0 } := by
  intro f hf; cases f <;> first | exact rfl | exact absurd hf (by decide)

end Sys2Proof.Machine
end

