-- ==== Sys2Proof/Laws/FrameCommand.lean ====
section
/-!
SUPPORT. Which fields of the state each operation can change: the shared operations, the flags, the scheduler and the command path.
-/

-- One proof at a time: the proofs of this file are many, and run together they take many threads at once.
set_option Elab.async false

set_option linter.unusedTactic false
set_option linter.unreachableTactic false

namespace Sys2Proof.Machine

theorem State.setReg_only (s : State) (b : Blk) (i off v : Nat) : Only [.regs] s (State.setReg s b i off v) := by
  unfold State.setReg
  try dsimp only
  repeat' (first
   | with_reducible exact Only.refl _ _
   | with_reducible assumption
   | with_reducible apply Only.ite
   | (with_reducible apply Only.step Only.set_regs; decide)
   | dsimp only)

theorem State.bump_only (s : State) (b : Blk) (i off n : Nat) : Only [.regs] s (State.bump s b i off n) := by
  unfold State.bump
  try dsimp only
  repeat' (first
   | with_reducible exact Only.refl _ _
   | with_reducible assumption
   | (with_reducible apply Only.step (State.setReg_only _ _ _ _ _); decide)
   | with_reducible apply Only.ite
   | dsimp only)

theorem State.bumpMax_only (s : State) (b : Blk) (i off v top : Nat) : Only [.regs] s (State.bumpMax s b i off v top) := by
  unfold State.bumpMax
  try dsimp only
  repeat' (first
   | with_reducible exact Only.refl _ _
   | with_reducible assumption
   | (with_reducible apply Only.step (State.setReg_only _ _ _ _ _); decide)
   | with_reducible apply Only.ite
   | dsimp only)

theorem State.putPage_only (s : State) (b : Blk) (i : Nat) (p : Page) : Only [.pages] s (State.putPage s b i p) := by
  unfold State.putPage
  try dsimp only
  repeat' (first
   | with_reducible exact Only.refl _ _
   | with_reducible assumption
   | with_reducible apply Only.ite
   | (with_reducible apply Only.step Only.set_pages; decide)
   | dsimp only)

theorem State.hostPut_only (s : State) (a : Nat) (bs : List Byte) : Only [.hostMem] s (State.hostPut s a bs) := by
  unfold State.hostPut
  try dsimp only
  repeat' (first
   | with_reducible exact Only.refl _ _
   | with_reducible assumption
   | with_reducible apply Only.ite
   | (with_reducible apply Only.step Only.set_hostMem; decide)
   | dsimp only)

theorem State.sendMessage_only (s : State) (v : Nat) : Only [.msix, .hostMem] s (State.sendMessage s v) := by
  unfold State.sendMessage
  try dsimp only
  repeat' (first
   | with_reducible exact Only.refl _ _
   | with_reducible assumption
   | (with_reducible apply Only.step (State.hostPut_only _ _ _); decide)
   | with_reducible apply Only.ite
   | (with_reducible apply Only.step Only.set_msix; decide)
   | dsimp only)

theorem State.signal_only (s : State) (v : Nat) : Only [.msix, .hostMem] s (State.signal s v) := by
  unfold State.signal
  try dsimp only
  repeat' (first
   | with_reducible exact Only.refl _ _
   | with_reducible assumption
   | (with_reducible apply Only.step (State.sendMessage_only _ _); decide)
   | with_reducible apply Only.ite
   | split
   | (with_reducible apply Only.step Only.set_msix; decide)
   | dsimp only)

theorem State.evalVector_only (s : State) (v : Nat) : Only [.msix, .hostMem] s (State.evalVector s v) := by
  unfold State.evalVector
  try dsimp only
  repeat' (first
   | with_reducible exact Only.refl _ _
   | with_reducible assumption
   | (with_reducible apply Only.step (State.signal_only _ _); decide)
   | with_reducible apply Only.ite
   | split
   | (with_reducible apply Only.step Only.set_msix; decide)
   | dsimp only)

theorem State.irq_only (s : State) (b : Blk) (i : Nat) (mask : Word) : Only [.msix, .pages, .hostMem] s (State.irq s b i mask) := by
  unfold State.irq
  try dsimp only
  repeat' (first
   | with_reducible exact Only.refl _ _
   | with_reducible assumption
   | (with_reducible apply Only.step (State.evalVector_only _ _); decide)
   | (with_reducible apply Only.step (State.putPage_only _ _ _ _); decide)
   | with_reducible apply Only.ite
   | dsimp only)

theorem State.err_only (s : State) (b : Blk) (i code info addr : Nat) : Only [.pages] s (State.err s b i code info addr) := by
  unfold State.err
  try dsimp only
  repeat' (first
   | with_reducible exact Only.refl _ _
   | with_reducible assumption
   | (with_reducible apply Only.step (State.putPage_only _ _ _ _); decide)
   | with_reducible apply Only.ite
   | dsimp only)

theorem State.devPut_only (s : State) (a : Nat) (bs : List Byte) : Only [.mem, .badWords, .softWords] s (State.devPut s a bs) := by
  unfold State.devPut
  try dsimp only
  repeat' (first
   | with_reducible exact Only.refl _ _
   | with_reducible assumption
   | with_reducible apply Only.ite
   | (with_reducible apply Only.step Only.set_mem_badWords_softWords; decide)
   | dsimp only)

theorem State.devClear_only (s : State) (a n : Nat) : Only [.mem, .badWords, .softWords] s (State.devClear s a n) := by
  unfold State.devClear
  try dsimp only
  repeat' (first
   | with_reducible exact Only.refl _ _
   | with_reducible assumption
   | with_reducible apply Only.ite
   | (with_reducible apply Only.step Only.set_mem_badWords_softWords; decide)
   | dsimp only)

theorem State.putJob_only (s : State) (j : Nat) (x : Job) : Only [.jobs] s (State.putJob s j x) := by
  unfold State.putJob
  try dsimp only
  repeat' (first
   | with_reducible exact Only.refl _ _
   | with_reducible assumption
   | with_reducible apply Only.ite
   | (with_reducible apply Only.step Only.set_jobs; decide)
   | dsimp only)

theorem State.putEngine_only (s : State) (g : Nat) (e : Engine) : Only [.engines] s (State.putEngine s g e) := by
  unfold State.putEngine
  try dsimp only
  repeat' (first
   | with_reducible exact Only.refl _ _
   | with_reducible assumption
   | with_reducible apply Only.ite
   | (with_reducible apply Only.step Only.set_engines; decide)
   | dsimp only)

theorem State.setDevState_only (s : State) (d : Nat) : Only [.devState, .msix, .pages, .hostMem, .pins] s (State.setDevState s d) := by
  unfold State.setDevState
  try dsimp only
  repeat' (first
   | with_reducible exact Only.refl _ _
   | with_reducible assumption
   | (with_reducible apply Only.step (State.irq_only _ _ _ _); decide)
   | with_reducible apply Only.ite
   | split
   | (with_reducible apply Only.step Only.set_devState_pins; decide)
   | dsimp only)

theorem State.settleState_only (s : State) : Only [.devState, .msix, .pages, .hostMem, .pins] s (State.settleState s) := by
  unfold State.settleState
  try dsimp only
  repeat' (first
   | with_reducible exact Only.refl _ _
   | with_reducible assumption
   | (with_reducible apply Only.step (State.setDevState_only _ _); decide)
   | with_reducible apply Only.ite
   | split
   | dsimp only)

theorem State.touch_only (s : State) (b : Blk) (i : Nat) : Only [.pages] s (State.touch s b i) := by
  unfold State.touch
  try dsimp only
  repeat' (first
   | with_reducible exact Only.refl _ _
   | with_reducible assumption
   | (with_reducible apply Only.step (State.putPage_only _ _ _ _); decide)
   | with_reducible apply Only.ite
   | dsimp only)

theorem Only.host {gs : List StateField} {s x : State} {b : Blk} {i : Nat} {f : State → State}
    (hm : fieldMask [.pages] &&& fieldMask gs = fieldMask [.pages]) (hf : ∀ y, Only gs s y → Only gs s (f y))
    (hx : Only gs s x) : Only gs s (x.host b i f) := by
  unfold State.host
  split
  · exact hf _ (Only.step (State.touch_only x b i) hm hx)
  · exact hx

theorem Only.hostWo {gs : List StateField} {s x : State} {b : Blk} {i : Nat} {f : State → State}
    (hf : ∀ y, Only gs s y → Only gs s (f y)) (hx : Only gs s x) : Only gs s (x.hostWo b i f) := by
  unfold State.hostWo
  split
  · exact hf _ hx
  · exact hx

theorem State.putModule_only (s : State) (m : Nat) (x : WeltModule) : Only [.welt] s (State.putModule s m x) := by
  unfold State.putModule
  try dsimp only
  repeat' (first
   | with_reducible exact Only.refl _ _
   | with_reducible assumption
   | with_reducible apply Only.ite
   | (with_reducible apply Only.step Only.set_welt; decide)
   | dsimp only)

theorem State.putCtr_only (s : State) (key : Nat) (c : Ctr) : Only [.ctrs] s (State.putCtr s key c) := by
  unfold State.putCtr
  try dsimp only
  repeat' (first
   | with_reducible exact Only.refl _ _
   | with_reducible assumption
   | with_reducible apply Only.ite
   | (with_reducible apply Only.step Only.set_ctrs; decide)
   | dsimp only)

theorem State.saturate_only (s : State) (die key : Nat) : Only [.msix, .pages, .hostMem, .ctrs] s (State.saturate s die key) := by
  unfold State.saturate
  try dsimp only
  repeat' (first
   | with_reducible exact Only.refl _ _
   | with_reducible assumption
   | (with_reducible apply Only.step (State.irq_only _ _ _ _); decide)
   | (with_reducible apply Only.step (State.putCtr_only _ _ _); decide)
   | with_reducible apply Only.ite
   | dsimp only)

theorem State.pulse_only (s : State) (b : Blk) (i event n : Nat) (job : Option Nat) : Only [.msix, .pages, .hostMem, .ctrs] s (State.pulse s b i event n job) := by
  unfold State.pulse
  try dsimp only
  repeat' (first
   | with_reducible exact Only.refl _ _
   | with_reducible assumption
   | (with_reducible apply Only.step (State.putCtr_only _ _ _); decide)
   | (with_reducible apply Only.step (State.saturate_only _ _ _); decide)
   | with_reducible apply Only.ite
   | (with_reducible apply Only.foldl; intro y a hy)
   | split
   | dsimp only)

theorem State.edge_only (s : State) (b : Blk) (i event : Nat) (before : Bool) (job : Option Nat) : Only [.msix, .pages, .hostMem, .ctrs] s (State.edge s b i event before job) := by
  unfold State.edge
  try dsimp only
  repeat' (first
   | with_reducible exact Only.refl _ _
   | with_reducible assumption
   | (with_reducible apply Only.step (State.pulse_only _ _ _ _ _ _); decide)
   | with_reducible apply Only.ite
   | split
   | dsimp only)

theorem State.ranFor_only (s : State) (b : Blk) (i job : Nat) : Only [.ctrs] s (State.ranFor s b i job) := by
  unfold State.ranFor
  try dsimp only
  repeat' (first
   | with_reducible exact Only.refl _ _
   | with_reducible assumption
   | (with_reducible apply Only.step (State.putCtr_only _ _ _); decide)
   | with_reducible apply Only.ite
   | (with_reducible apply Only.foldl; intro y a hy)
   | split
   | dsimp only)

theorem State.free_only (s : State) : Only [.freeCount] s s.free.2 := by
  unfold State.free
  exact Only.set_freeCount

theorem Only.mayTake {gs : List StateField} {s x : State} {f : State → State}
    (hm : fieldMask [.freeCount] &&& fieldMask gs = fieldMask [.freeCount]) (hf : ∀ y, Only gs s y → Only gs s (f y))
    (hx : Only gs s x) : Only gs s (x.mayTake f) := by
  have h : Only gs s x.free.2 := Only.step (Only.step (State.free_only x) (by decide) (Only.refl _ _)) hm hx
  unfold State.mayTake
  extract_lets r
  split
  · exact hf _ h
  · exact h

theorem State.putFlag_only (s : State) (f : Nat) (e : FlagEntry) : Only [.flags, .me] s (State.putFlag s f e) := by
  unfold State.putFlag
  try dsimp only
  repeat' (first
   | with_reducible exact Only.refl _ _
   | with_reducible assumption
   | with_reducible apply Only.ite
   | (with_reducible apply Only.step Only.set_flags; decide)
   | (with_reducible apply Only.step Only.set_flags_me; decide)
   | (with_reducible apply Only.step Only.set_me; decide)
   | dsimp only)

theorem State.advance_only (s : State) (job f n : Nat) : Only [.flags, .me] s (State.advance s job f n) := by
  unfold State.advance
  try dsimp only
  repeat' (first
   | with_reducible exact Only.refl _ _
   | with_reducible assumption
   | (with_reducible apply Only.step (State.putFlag_only _ _ _); decide)
   | with_reducible apply Only.ite
   | split
   | dsimp only)

theorem State.writeFlag_only (s : State) (f : Nat) (v : Word) : Only [.flags, .me] s (State.writeFlag s f v) := by
  unfold State.writeFlag
  try dsimp only
  repeat' (first
   | with_reducible exact Only.refl _ _
   | with_reducible assumption
   | (with_reducible apply Only.step (State.putFlag_only _ _ _); decide)
   | with_reducible apply Only.ite
   | dsimp only)

theorem State.poisonFlag_only (s : State) (f : Nat) : Only [.flags] s (State.poisonFlag s f) := by
  unfold State.poisonFlag
  try dsimp only
  repeat' (first
   | with_reducible exact Only.refl _ _
   | with_reducible assumption
   | with_reducible apply Only.ite
   | (with_reducible apply Only.step Only.set_flags; decide)
   | dsimp only)

theorem State.putHead_only (s : State) (f off n v : Nat) : Only [.mem, .badWords, .softWords] s (State.putHead s f off n v) := by
  unfold State.putHead
  try dsimp only
  repeat' (first
   | with_reducible exact Only.refl _ _
   | with_reducible assumption
   | (with_reducible apply Only.step (State.devPut_only _ _ _); decide)
   | with_reducible apply Only.ite
   | dsimp only)

theorem State.putEntry_only (s : State) (f t v : Nat) : Only [.mem, .badWords, .softWords] s (State.putEntry s f t v) := by
  unfold State.putEntry
  try dsimp only
  repeat' (first
   | with_reducible exact Only.refl _ _
   | with_reducible assumption
   | (with_reducible apply Only.step (State.devPut_only _ _ _); decide)
   | with_reducible apply Only.ite
   | dsimp only)

theorem State.setTileState_only (s : State) (f t st : Nat) : Only [.mem, .badWords, .softWords] s (State.setTileState s f t st) := by
  unfold State.setTileState
  try dsimp only
  repeat' (first
   | with_reducible exact Only.refl _ _
   | with_reducible assumption
   | (with_reducible apply Only.step (State.putEntry_only _ _ _ _); decide)
   | with_reducible apply Only.ite
   | dsimp only)

theorem State.trace_only (s : State) (c : Cmd) (kind status cause : Nat) : Only [.msix, .pages, .regs, .mem, .hostMem, .badWords, .traceGap, .softWords, .traceFill, .traceAt] s (State.trace s c kind status cause) := by
  unfold State.trace
  try dsimp only
  repeat' (first
   | with_reducible exact Only.refl _ _
   | with_reducible assumption
   | (with_reducible apply Only.step (State.bump_only _ _ _ _ _); decide)
   | (with_reducible apply Only.step (State.devPut_only _ _ _); decide)
   | (with_reducible apply Only.step (State.irq_only _ _ _ _); decide)
   | (with_reducible apply Only.step (State.setReg_only _ _ _ _ _); decide)
   | with_reducible apply Only.ite
   | split
   | (with_reducible apply Only.step Only.set_traceGap; decide)
   | (with_reducible apply Only.step Only.set_traceGap_traceFill_traceAt; decide)
   | dsimp only)

theorem State.starts_only (s : State) (c : Cmd) : Only [.msix, .pages, .regs, .mem, .hostMem, .badWords, .traceGap, .ctrs, .softWords, .traceFill, .traceAt] s (State.starts s c) := by
  unfold State.starts
  try dsimp only
  repeat' (first
   | with_reducible exact Only.refl _ _
   | with_reducible assumption
   | (with_reducible apply Only.step (State.ranFor_only _ _ _ _); decide)
   | (with_reducible apply Only.step (State.trace_only _ _ _ _ _); decide)
   | with_reducible apply Only.ite
   | dsimp only)

theorem State.logFaultAt_only (s : State) (time : Nat) (b : Blk) (i cls action addr commands moved us : Nat) : Only [.msix, .pages, .regs, .mem, .hostMem, .badWords, .log, .softWords] s (State.logFaultAt s time b i cls action addr commands moved us) := by
  unfold State.logFaultAt
  try dsimp only
  repeat' (first
   | with_reducible exact Only.refl _ _
   | with_reducible assumption
   | (with_reducible apply Only.step (State.bump_only _ _ _ _ _); decide)
   | (with_reducible apply Only.step (State.bumpMax_only _ _ _ _ _ _); decide)
   | (with_reducible apply Only.step (State.devPut_only _ _ _); decide)
   | (with_reducible apply Only.step (State.irq_only _ _ _ _); decide)
   | (with_reducible apply Only.step (State.setReg_only _ _ _ _ _); decide)
   | with_reducible apply Only.ite
   | split
   | (with_reducible apply Only.step Only.set_log; decide)
   | dsimp only)

theorem State.logFault_only (s : State) (b : Blk) (i cls action addr commands moved us : Nat) : Only [.msix, .pages, .regs, .mem, .hostMem, .badWords, .log, .softWords] s (State.logFault s b i cls action addr commands moved us) := by
  unfold State.logFault
  try dsimp only
  repeat' (first
   | with_reducible exact Only.refl _ _
   | with_reducible assumption
   | (with_reducible apply Only.step (State.logFaultAt_only _ _ _ _ _ _ _ _ _ _); decide)
   | with_reducible apply Only.ite
   | dsimp only)

theorem State.correctWord_only (s : State) (w : Nat) : Only [.msix, .pages, .regs, .mem, .hostMem, .badWords, .log, .ctrs, .softWords] s (State.correctWord s w) := by
  unfold State.correctWord
  try dsimp only
  repeat' (first
   | with_reducible exact Only.refl _ _
   | with_reducible assumption
   | (with_reducible apply Only.step (State.bump_only _ _ _ _ _); decide)
   | (with_reducible apply Only.step (State.irq_only _ _ _ _); decide)
   | (with_reducible apply Only.step (State.logFault_only _ _ _ _ _ _ _ _ _); decide)
   | (with_reducible apply Only.step (State.pulse_only _ _ _ _ _ _); decide)
   | with_reducible apply Only.ite
   | (with_reducible refine Only.elim ?_ fun a => ?_)
   | split
   | (with_reducible apply Only.step Only.set_softWords; decide)
   | dsimp only)

theorem State.unitCorr_only (s : State) (b : Blk) (i : Nat) : Only [.msix, .pages, .regs, .hostMem] s (State.unitCorr s b i) := by
  unfold State.unitCorr
  try dsimp only
  repeat' (first
   | with_reducible exact Only.refl _ _
   | with_reducible assumption
   | (with_reducible apply Only.step (State.bump_only _ _ _ _ _); decide)
   | (with_reducible apply Only.step (State.irq_only _ _ _ _); decide)
   | with_reducible apply Only.ite
   | split
   | dsimp only)

theorem State.correctRead_only (s : State) (b : Blk) (i a n : Nat) : Only [.msix, .pages, .regs, .mem, .hostMem, .badWords, .log, .ctrs, .softWords] s (State.correctRead s b i a n) := by
  unfold State.correctRead
  try dsimp only
  repeat' (first
   | with_reducible exact Only.refl _ _
   | with_reducible assumption
   | (with_reducible apply Only.step (State.correctWord_only _ _); decide)
   | (with_reducible apply Only.step (State.unitCorr_only _ _ _); decide)
   | with_reducible apply Only.ite
   | (with_reducible apply Only.foldl; intro y a hy)
   | dsimp only)

theorem State.correctReads_only (s : State) (b : Blk) (i : Nat) (rs : List (Nat × Nat)) : Only [.msix, .pages, .regs, .mem, .hostMem, .badWords, .log, .ctrs, .softWords] s (State.correctReads s b i rs) := by
  unfold State.correctReads
  try dsimp only
  repeat' (first
   | with_reducible exact Only.refl _ _
   | with_reducible assumption
   | (with_reducible apply Only.step (State.correctRead_only _ _ _ _ _); decide)
   | with_reducible apply Only.ite
   | (with_reducible apply Only.foldl; intro y a hy)
   | dsimp only)

theorem State.putDir_only (s : State) (job off : Nat) (bs : List Byte) : Only [.mem, .badWords, .softWords] s (State.putDir s job off bs) := by
  unfold State.putDir
  try dsimp only
  repeat' (first
   | with_reducible exact Only.refl _ _
   | with_reducible assumption
   | (with_reducible apply Only.step (State.devPut_only _ _ _); decide)
   | with_reducible apply Only.ite
   | (with_reducible apply Only.foldl; intro y a hy)
   | dsimp only)

theorem State.taint_only (s : State) (job : Nat) : Only [.mem, .badWords, .softWords] s (State.taint s job) := by
  unfold State.taint
  try dsimp only
  repeat' (first
   | with_reducible exact Only.refl _ _
   | with_reducible assumption
   | (with_reducible apply Only.step (State.putDir_only _ _ _ _); decide)
   | with_reducible apply Only.ite
   | (with_reducible apply Only.foldl; intro y a hy)
   | split
   | dsimp only)

theorem State.putCmd_only (s : State) (c : Cmd) : Only [.cmds] s (State.putCmd s c) := by
  unfold State.putCmd
  try dsimp only
  repeat' (first
   | with_reducible exact Only.refl _ _
   | with_reducible assumption
   | with_reducible apply Only.ite
   | split
   | (with_reducible apply Only.step Only.set_cmds; decide)
   | dsimp only)

theorem State.putStep_only (s : State) (x : Step) : Only [.steps] s (State.putStep s x) := by
  unfold State.putStep
  try dsimp only
  repeat' (first
   | with_reducible exact Only.refl _ _
   | with_reducible assumption
   | with_reducible apply Only.ite
   | split
   | (with_reducible apply Only.step Only.set_steps; decide)
   | dsimp only)

theorem State.putGroup_only (s : State) (g : Machine.Group) : Only [.groups] s (State.putGroup s g) := by
  unfold State.putGroup
  try dsimp only
  repeat' (first
   | with_reducible exact Only.refl _ _
   | with_reducible assumption
   | with_reducible apply Only.ite
   | (with_reducible apply Only.step Only.set_groups; decide)
   | dsimp only)

theorem State.hold_only (s : State) (uid : Nat) : Only [.cmds] s (State.hold s uid) := by
  unfold State.hold
  try dsimp only
  repeat' (first
   | with_reducible exact Only.refl _ _
   | with_reducible assumption
   | (with_reducible apply Only.step (State.putCmd_only _ _); decide)
   | with_reducible apply Only.ite
   | split
   | dsimp only)

theorem State.endCmd_only (s : State) (uid : Nat) (st : Status) (cause : Nat) : Only [.cmds] s (State.endCmd s uid st cause) := by
  unfold State.endCmd
  try dsimp only
  repeat' (first
   | with_reducible exact Only.refl _ _
   | with_reducible assumption
   | with_reducible apply Only.ite
   | split
   | (with_reducible apply Only.step Only.set_cmds; decide)
   | dsimp only)

theorem State.endAll_only (s : State) (p : Cmd → Bool) (st : Status) (cause : Nat) : Only [.cmds] s (State.endAll s p st cause) := by
  unfold State.endAll
  try dsimp only
  repeat' (first
   | with_reducible exact Only.refl _ _
   | with_reducible assumption
   | with_reducible apply Only.ite
   | split
   | (with_reducible apply Only.step Only.set_cmds; decide)
   | dsimp only)

theorem State.faultWith_only (s : State) (uid : Nat) (st : Status) (cause : Nat) (note : FaultNote) : Only [.cmds] s (State.faultWith s uid st cause note) := by
  unfold State.faultWith
  try dsimp only
  repeat' (first
   | with_reducible exact Only.refl _ _
   | with_reducible assumption
   | with_reducible apply Only.ite
   | split
   | (with_reducible apply Only.step Only.set_cmds; decide)
   | dsimp only)

theorem State.faultCmd_only (s : State) (uid : Nat) (st : Status) (cause addr : Nat) : Only [.cmds] s (State.faultCmd s uid st cause addr) := by
  unfold State.faultCmd
  try dsimp only
  repeat' (first
   | with_reducible exact Only.refl _ _
   | with_reducible assumption
   | (with_reducible apply Only.step (State.faultWith_only _ _ _ _ _); decide)
   | with_reducible apply Only.ite
   | dsimp only)

theorem State.faultAll_only (s : State) (p : Cmd → Bool) (st : Status) (cause addr : Nat) : Only [.cmds] s (State.faultAll s p st cause addr) := by
  unfold State.faultAll
  try dsimp only
  repeat' (first
   | with_reducible exact Only.refl _ _
   | with_reducible assumption
   | (with_reducible apply Only.step (State.endAll_only _ _ _ _); decide)
   | with_reducible apply Only.ite
   | split
   | (with_reducible apply Only.step Only.set_cmds; decide)
   | dsimp only)

theorem State.track_only (s : State) : Only [.engines] s (State.track s) := by
  unfold State.track
  try dsimp only
  repeat' (first
   | with_reducible exact Only.refl _ _
   | with_reducible assumption
   | with_reducible apply Only.ite
   | (with_reducible apply Only.step Only.set_engines; decide)
   | dsimp only)

theorem State.putRing_only (s : State) (m : Nat) (r : Machine.Ring) : Only [.rings] s (State.putRing s m r) := by
  unfold State.putRing
  try dsimp only
  repeat' (first
   | with_reducible exact Only.refl _ _
   | with_reducible assumption
   | with_reducible apply Only.ite
   | (with_reducible apply Only.step Only.set_rings; decide)
   | dsimp only)

theorem State.writeRec_only (s : State) (r : Rec) : Only [.rings, .msix, .hostMem] s (State.writeRec s r) := by
  unfold State.writeRec
  try dsimp only
  repeat' (first
   | with_reducible exact Only.refl _ _
   | with_reducible assumption
   | (with_reducible apply Only.step (State.hostPut_only _ _ _); decide)
   | (with_reducible apply Only.step (State.putRing_only _ _ _); decide)
   | (with_reducible apply Only.step (State.signal_only _ _); decide)
   | with_reducible apply Only.ite
   | split
   | dsimp only)

theorem State.trackFull_only (s : State) (m : Nat) : Only [.rings] s (State.trackFull s m) := by
  unfold State.trackFull
  try dsimp only
  repeat' (first
   | with_reducible exact Only.refl _ _
   | with_reducible assumption
   | (with_reducible apply Only.step (State.putRing_only _ _ _); decide)
   | with_reducible apply Only.ite
   | split
   | dsimp only)

theorem State.takeRec_only (s : State) (m : Nat) : ∀ y, State.takeRec s m = some y → Only [.waiting, .backlog] s y.1 := by
  intro y hy
  unfold State.takeRec at hy
  try dsimp only at hy
  repeat' (first
   | (simp only [reduceCtorEq] at hy; done)
   | (obtain rfl := Option.some.inj hy)
   | split at hy
   | with_reducible exact Only.refl _ _
   | with_reducible assumption
   | with_reducible apply Only.ite
   | split
   | (with_reducible apply Only.step Only.set_backlog; decide)
   | (with_reducible apply Only.step Only.set_waiting; decide)
   | dsimp only)

theorem State.drainRing_only (m n : Nat) (s : State) : Only [.rings, .waiting, .backlog, .msix, .hostMem] s (State.drainRing m n s) := by
  induction n generalizing s with
  | zero => exact Only.refl _ _
  | succ n ih =>
    unfold State.drainRing
    split
    · exact Only.refl _ _
    · rename_i p hp
      split
      · exact Only.step (ih _) rfl (Only.step (State.writeRec_only _ _) (by decide) (Only.step (State.takeRec_only _ _ p hp) (by decide) (Only.refl _ _)))
      · exact Only.refl _ _

theorem State.pumpRing_only (s : State) (m : Nat) : Only [.rings, .waiting, .backlog, .msix, .hostMem] s (State.pumpRing s m) := by
  unfold State.pumpRing
  try dsimp only
  repeat' (first
   | with_reducible exact Only.refl _ _
   | with_reducible assumption
   | (with_reducible apply Only.step (State.drainRing_only _ _ _); decide)
   | (with_reducible apply Only.step (State.trackFull_only _ _); decide)
   | with_reducible apply Only.ite
   | dsimp only)

theorem State.logBack_only (s : State) (a : Nat) (r : Rec) : Only [.backlog, .msix, .pages, .mem, .hostMem, .badWords, .softWords] s (State.logBack s a r) := by
  unfold State.logBack
  try dsimp only
  repeat' (first
   | with_reducible exact Only.refl _ _
   | with_reducible assumption
   | (with_reducible apply Only.step (State.devPut_only _ _ _); decide)
   | (with_reducible apply Only.step (State.irq_only _ _ _ _); decide)
   | with_reducible apply Only.ite
   | split
   | (with_reducible apply Only.step Only.set_backlog; decide)
   | dsimp only)

theorem State.deliver_only (s : State) (r : Rec) : Only [.rings, .waiting, .backlog, .msix, .pages, .mem, .hostMem, .badWords, .softWords] s (State.deliver s r) := by
  unfold State.deliver
  try dsimp only
  repeat' (first
   | with_reducible exact Only.refl _ _
   | with_reducible assumption
   | (with_reducible apply Only.step (State.logBack_only _ _ _); decide)
   | (with_reducible apply Only.step (State.pumpRing_only _ _); decide)
   | with_reducible apply Only.ite
   | split
   | (with_reducible apply Only.step Only.set_waiting; decide)
   | dsimp only)

theorem State.advanceAll_only (s : State) (job : Nat) (fs : List (Nat × Nat)) : Only [.flags, .me] s (State.advanceAll s job fs) := by
  unfold State.advanceAll
  try dsimp only
  repeat' (first
   | with_reducible exact Only.refl _ _
   | with_reducible assumption
   | (with_reducible apply Only.step (State.advance_only _ _ _ _); decide)
   | with_reducible apply Only.ite
   | (with_reducible apply Only.foldl; intro y a hy)
   | dsimp only)

theorem State.extendAux_only (s : State) (step uid : Nat) (x : List Byte) : Only [.steps] s (State.extendAux s step uid x) := by
  unfold State.extendAux
  try dsimp only
  repeat' (first
   | with_reducible exact Only.refl _ _
   | with_reducible assumption
   | (with_reducible apply Only.step (State.putStep_only _ _); decide)
   | with_reducible apply Only.ite
   | split
   | dsimp only)

theorem State.settleAux_only (s : State) (step : Nat) : Only [.steps] s (State.settleAux s step) := by
  unfold State.settleAux
  try dsimp only
  repeat' (first
   | with_reducible exact Only.refl _ _
   | with_reducible assumption
   | (with_reducible apply Only.step (State.putStep_only _ _); decide)
   | with_reducible apply Only.ite
   | split
   | dsimp only)

theorem State.settleTile_only (s : State) (x : Step) (g : Machine.Group) : Only [.mem, .badWords, .softWords] s (State.settleTile s x g) := by
  unfold State.settleTile
  try dsimp only
  repeat' (first
   | with_reducible exact Only.refl _ _
   | with_reducible assumption
   | (with_reducible apply Only.step (State.putEntry_only _ _ _ _); decide)
   | (with_reducible apply Only.step (State.setTileState_only _ _ _ _); decide)
   | with_reducible apply Only.ite
   | split
   | dsimp only)

theorem State.endGroup_only (s : State) (x : Step) (tile : Nat) : Only [.cmds, .groups] s (State.endGroup s x tile) := by
  unfold State.endGroup
  try dsimp only
  repeat' (first
   | with_reducible exact Only.refl _ _
   | with_reducible assumption
   | (with_reducible apply Only.step (State.putGroup_only _ _); decide)
   | with_reducible apply Only.ite
   | split
   | (with_reducible apply Only.step Only.set_cmds; decide)
   | dsimp only)

theorem State.reviewGroup_only (s : State) (x : Step) (tile : Nat) : Only [.cmds, .groups, .mem, .badWords, .softWords] s (State.reviewGroup s x tile) := by
  unfold State.reviewGroup
  try dsimp only
  repeat' (first
   | with_reducible exact Only.refl _ _
   | with_reducible assumption
   | (with_reducible apply Only.step (State.endGroup_only _ _ _); decide)
   | (with_reducible apply Only.step (State.settleTile_only _ _ _); decide)
   | with_reducible apply Only.ite
   | split
   | dsimp only)

theorem State.reviewStep_only (s : State) (step : Nat) : Only [.cmds, .groups, .mem, .badWords, .softWords] s (State.reviewStep s step) := by
  unfold State.reviewStep
  try dsimp only
  repeat' (first
   | with_reducible exact Only.refl _ _
   | with_reducible assumption
   | (with_reducible apply Only.step (State.reviewGroup_only _ _ _); decide)
   | with_reducible apply Only.ite
   | (with_reducible apply Only.foldl; intro y a hy)
   | split
   | dsimp only)

theorem State.settleGroup_only (s : State) (c : Cmd) (st : Status) : Only [.cmds, .groups, .mem, .badWords, .softWords] s (State.settleGroup s c st) := by
  unfold State.settleGroup
  try dsimp only
  repeat' (first
   | with_reducible exact Only.refl _ _
   | with_reducible assumption
   | (with_reducible apply Only.step (State.putGroup_only _ _); decide)
   | (with_reducible apply Only.step (State.reviewGroup_only _ _ _); decide)
   | with_reducible apply Only.ite
   | split
   | dsimp only)

theorem State.retire_only (s : State) (c : Cmd) (st : Status) : Only [.cmds] s (State.retire s c st) := by
  unfold State.retire
  try dsimp only
  repeat' (first
   | with_reducible exact Only.refl _ _
   | with_reducible assumption
   | (with_reducible apply Only.step (State.putCmd_only _ _); decide)
   | with_reducible apply Only.ite
   | split
   | (with_reducible apply Only.step Only.set_cmds; decide)
   | dsimp only)

theorem State.collOver_only (s : State) (x : Coll) (g n : Nat) : Only [.colls] s (State.collOver s x g n) := by
  unfold State.collOver
  try dsimp only
  repeat' (first
   | with_reducible exact Only.refl _ _
   | with_reducible assumption
   | with_reducible apply Only.ite
   | split
   | (with_reducible apply Only.step Only.set_colls; decide)
   | dsimp only)

theorem State.collRefuse_only (s : State) (c : Cmd) (st : Status) : Only [.colls] s (State.collRefuse s c st) := by
  unfold State.collRefuse
  try dsimp only
  repeat' (first
   | with_reducible exact Only.refl _ _
   | with_reducible assumption
   | (with_reducible apply Only.step (State.collOver_only _ _ _ _); decide)
   | with_reducible apply Only.ite
   | split
   | (with_reducible apply Only.step Only.set_colls; decide)
   | dsimp only)

theorem State.rasterRest_only (s : State) : Only [.msix, .pages, .hostMem, .raster] s (State.rasterRest s) := by
  unfold State.rasterRest
  try dsimp only
  repeat' (first
   | with_reducible exact Only.refl _ _
   | with_reducible assumption
   | (with_reducible apply Only.step (State.irq_only _ _ _ _); decide)
   | with_reducible apply Only.ite
   | split
   | (with_reducible apply Only.step Only.set_raster; decide)
   | dsimp only)

theorem State.warped_only (s : State) (c : Cmd) (st : Status) : Only [.mem, .badWords, .softWords] s (State.warped s c st) := by
  unfold State.warped
  try dsimp only
  repeat' (first
   | with_reducible exact Only.refl _ _
   | with_reducible assumption
   | (with_reducible apply Only.step (State.setTileState_only _ _ _ _); decide)
   | with_reducible apply Only.ite
   | split
   | dsimp only)

theorem State.logNote_only (s : State) (c : Cmd) : Only [.msix, .pages, .regs, .mem, .hostMem, .badWords, .log, .softWords] s (State.logNote s c) := by
  unfold State.logNote
  try dsimp only
  repeat' (first
   | with_reducible exact Only.refl _ _
   | with_reducible assumption
   | (with_reducible apply Only.step (State.logFaultAt_only _ _ _ _ _ _ _ _ _ _); decide)
   | with_reducible apply Only.ite
   | split
   | dsimp only)

theorem State.produce_only (s : State) (c : Cmd) (st : Status) (cause : Nat) : Only [.cmds, .steps, .groups, .colls, .engines, .flags, .rings, .waiting, .backlog, .msix, .pages, .regs, .mem, .hostMem, .badWords, .me, .raster, .traceGap, .log, .ctrs, .softWords, .traceFill, .traceAt] s (State.produce s c st cause) := by
  unfold State.produce
  extract_lets r s0 s1 s2 s3 s4 s5 s6 u s7 s8
  have hs0 : Only [.cmds, .steps, .groups, .colls, .engines, .flags, .rings, .waiting, .backlog, .msix, .pages, .regs, .mem, .hostMem, .badWords, .me, .raster, .traceGap, .log, .ctrs, .softWords, .traceFill, .traceAt] s s0 := by
    unfold s0
    repeat' (first
     | with_reducible exact Only.refl _ _
     | with_reducible assumption
     | (with_reducible apply Only.step (State.advanceAll_only _ _ _); decide)
     | (with_reducible apply Only.step (State.collRefuse_only _ _ _); decide)
     | (with_reducible apply Only.step (State.deliver_only _ _); decide)
     | (with_reducible apply Only.step (State.extendAux_only _ _ _ _); decide)
     | (with_reducible apply Only.step (State.logNote_only _ _); decide)
     | (with_reducible apply Only.step (State.pulse_only _ _ _ _ _ _); decide)
     | (with_reducible apply Only.step (State.putStep_only _ _); decide)
     | (with_reducible apply Only.step (State.rasterRest_only _); decide)
     | (with_reducible apply Only.step (State.retire_only _ _ _); decide)
     | (with_reducible apply Only.step (State.settleAux_only _ _); decide)
     | (with_reducible apply Only.step (State.settleGroup_only _ _ _); decide)
     | (with_reducible apply Only.step (State.taint_only _ _); decide)
     | (with_reducible apply Only.step (State.trace_only _ _ _ _ _); decide)
     | (with_reducible apply Only.step (State.track_only _); decide)
     | (with_reducible apply Only.step (State.warped_only _ _ _); decide)
     | with_reducible apply Only.ite
     | split
     | dsimp only)
  have hs1 : Only [.cmds, .steps, .groups, .colls, .engines, .flags, .rings, .waiting, .backlog, .msix, .pages, .regs, .mem, .hostMem, .badWords, .me, .raster, .traceGap, .log, .ctrs, .softWords, .traceFill, .traceAt] s s1 := by
    unfold s1
    repeat' (first
     | with_reducible exact Only.refl _ _
     | with_reducible assumption
     | (with_reducible apply Only.step (State.advanceAll_only _ _ _); decide)
     | (with_reducible apply Only.step (State.collRefuse_only _ _ _); decide)
     | (with_reducible apply Only.step (State.deliver_only _ _); decide)
     | (with_reducible apply Only.step (State.extendAux_only _ _ _ _); decide)
     | (with_reducible apply Only.step (State.logNote_only _ _); decide)
     | (with_reducible apply Only.step (State.pulse_only _ _ _ _ _ _); decide)
     | (with_reducible apply Only.step (State.putStep_only _ _); decide)
     | (with_reducible apply Only.step (State.rasterRest_only _); decide)
     | (with_reducible apply Only.step (State.retire_only _ _ _); decide)
     | (with_reducible apply Only.step (State.settleAux_only _ _); decide)
     | (with_reducible apply Only.step (State.settleGroup_only _ _ _); decide)
     | (with_reducible apply Only.step (State.taint_only _ _); decide)
     | (with_reducible apply Only.step (State.trace_only _ _ _ _ _); decide)
     | (with_reducible apply Only.step (State.track_only _); decide)
     | (with_reducible apply Only.step (State.warped_only _ _ _); decide)
     | with_reducible apply Only.ite
     | split
     | dsimp only)
  have hs2 : Only [.cmds, .steps, .groups, .colls, .engines, .flags, .rings, .waiting, .backlog, .msix, .pages, .regs, .mem, .hostMem, .badWords, .me, .raster, .traceGap, .log, .ctrs, .softWords, .traceFill, .traceAt] s s2 := by
    unfold s2
    repeat' (first
     | with_reducible exact Only.refl _ _
     | with_reducible assumption
     | (with_reducible apply Only.step (State.advanceAll_only _ _ _); decide)
     | (with_reducible apply Only.step (State.collRefuse_only _ _ _); decide)
     | (with_reducible apply Only.step (State.deliver_only _ _); decide)
     | (with_reducible apply Only.step (State.extendAux_only _ _ _ _); decide)
     | (with_reducible apply Only.step (State.logNote_only _ _); decide)
     | (with_reducible apply Only.step (State.pulse_only _ _ _ _ _ _); decide)
     | (with_reducible apply Only.step (State.putStep_only _ _); decide)
     | (with_reducible apply Only.step (State.rasterRest_only _); decide)
     | (with_reducible apply Only.step (State.retire_only _ _ _); decide)
     | (with_reducible apply Only.step (State.settleAux_only _ _); decide)
     | (with_reducible apply Only.step (State.settleGroup_only _ _ _); decide)
     | (with_reducible apply Only.step (State.taint_only _ _); decide)
     | (with_reducible apply Only.step (State.trace_only _ _ _ _ _); decide)
     | (with_reducible apply Only.step (State.track_only _); decide)
     | (with_reducible apply Only.step (State.warped_only _ _ _); decide)
     | with_reducible apply Only.ite
     | split
     | dsimp only)
  have hs3 : Only [.cmds, .steps, .groups, .colls, .engines, .flags, .rings, .waiting, .backlog, .msix, .pages, .regs, .mem, .hostMem, .badWords, .me, .raster, .traceGap, .log, .ctrs, .softWords, .traceFill, .traceAt] s s3 := by
    unfold s3
    repeat' (first
     | with_reducible exact Only.refl _ _
     | with_reducible assumption
     | (with_reducible apply Only.step (State.advanceAll_only _ _ _); decide)
     | (with_reducible apply Only.step (State.collRefuse_only _ _ _); decide)
     | (with_reducible apply Only.step (State.deliver_only _ _); decide)
     | (with_reducible apply Only.step (State.extendAux_only _ _ _ _); decide)
     | (with_reducible apply Only.step (State.logNote_only _ _); decide)
     | (with_reducible apply Only.step (State.pulse_only _ _ _ _ _ _); decide)
     | (with_reducible apply Only.step (State.putStep_only _ _); decide)
     | (with_reducible apply Only.step (State.rasterRest_only _); decide)
     | (with_reducible apply Only.step (State.retire_only _ _ _); decide)
     | (with_reducible apply Only.step (State.settleAux_only _ _); decide)
     | (with_reducible apply Only.step (State.settleGroup_only _ _ _); decide)
     | (with_reducible apply Only.step (State.taint_only _ _); decide)
     | (with_reducible apply Only.step (State.trace_only _ _ _ _ _); decide)
     | (with_reducible apply Only.step (State.track_only _); decide)
     | (with_reducible apply Only.step (State.warped_only _ _ _); decide)
     | with_reducible apply Only.ite
     | split
     | dsimp only)
  have hs4 : Only [.cmds, .steps, .groups, .colls, .engines, .flags, .rings, .waiting, .backlog, .msix, .pages, .regs, .mem, .hostMem, .badWords, .me, .raster, .traceGap, .log, .ctrs, .softWords, .traceFill, .traceAt] s s4 := by
    unfold s4
    repeat' (first
     | with_reducible exact Only.refl _ _
     | with_reducible assumption
     | (with_reducible apply Only.step (State.advanceAll_only _ _ _); decide)
     | (with_reducible apply Only.step (State.collRefuse_only _ _ _); decide)
     | (with_reducible apply Only.step (State.deliver_only _ _); decide)
     | (with_reducible apply Only.step (State.extendAux_only _ _ _ _); decide)
     | (with_reducible apply Only.step (State.logNote_only _ _); decide)
     | (with_reducible apply Only.step (State.pulse_only _ _ _ _ _ _); decide)
     | (with_reducible apply Only.step (State.putStep_only _ _); decide)
     | (with_reducible apply Only.step (State.rasterRest_only _); decide)
     | (with_reducible apply Only.step (State.retire_only _ _ _); decide)
     | (with_reducible apply Only.step (State.settleAux_only _ _); decide)
     | (with_reducible apply Only.step (State.settleGroup_only _ _ _); decide)
     | (with_reducible apply Only.step (State.taint_only _ _); decide)
     | (with_reducible apply Only.step (State.trace_only _ _ _ _ _); decide)
     | (with_reducible apply Only.step (State.track_only _); decide)
     | (with_reducible apply Only.step (State.warped_only _ _ _); decide)
     | with_reducible apply Only.ite
     | split
     | dsimp only)
  have hs5 : Only [.cmds, .steps, .groups, .colls, .engines, .flags, .rings, .waiting, .backlog, .msix, .pages, .regs, .mem, .hostMem, .badWords, .me, .raster, .traceGap, .log, .ctrs, .softWords, .traceFill, .traceAt] s s5 := by
    unfold s5
    repeat' (first
     | with_reducible exact Only.refl _ _
     | with_reducible assumption
     | (with_reducible apply Only.step (State.advanceAll_only _ _ _); decide)
     | (with_reducible apply Only.step (State.collRefuse_only _ _ _); decide)
     | (with_reducible apply Only.step (State.deliver_only _ _); decide)
     | (with_reducible apply Only.step (State.extendAux_only _ _ _ _); decide)
     | (with_reducible apply Only.step (State.logNote_only _ _); decide)
     | (with_reducible apply Only.step (State.pulse_only _ _ _ _ _ _); decide)
     | (with_reducible apply Only.step (State.putStep_only _ _); decide)
     | (with_reducible apply Only.step (State.rasterRest_only _); decide)
     | (with_reducible apply Only.step (State.retire_only _ _ _); decide)
     | (with_reducible apply Only.step (State.settleAux_only _ _); decide)
     | (with_reducible apply Only.step (State.settleGroup_only _ _ _); decide)
     | (with_reducible apply Only.step (State.taint_only _ _); decide)
     | (with_reducible apply Only.step (State.trace_only _ _ _ _ _); decide)
     | (with_reducible apply Only.step (State.track_only _); decide)
     | (with_reducible apply Only.step (State.warped_only _ _ _); decide)
     | with_reducible apply Only.ite
     | split
     | dsimp only)
  have hs6 : Only [.cmds, .steps, .groups, .colls, .engines, .flags, .rings, .waiting, .backlog, .msix, .pages, .regs, .mem, .hostMem, .badWords, .me, .raster, .traceGap, .log, .ctrs, .softWords, .traceFill, .traceAt] s s6 := by
    unfold s6
    repeat' (first
     | with_reducible exact Only.refl _ _
     | with_reducible assumption
     | (with_reducible apply Only.step (State.advanceAll_only _ _ _); decide)
     | (with_reducible apply Only.step (State.collRefuse_only _ _ _); decide)
     | (with_reducible apply Only.step (State.deliver_only _ _); decide)
     | (with_reducible apply Only.step (State.extendAux_only _ _ _ _); decide)
     | (with_reducible apply Only.step (State.logNote_only _ _); decide)
     | (with_reducible apply Only.step (State.pulse_only _ _ _ _ _ _); decide)
     | (with_reducible apply Only.step (State.putStep_only _ _); decide)
     | (with_reducible apply Only.step (State.rasterRest_only _); decide)
     | (with_reducible apply Only.step (State.retire_only _ _ _); decide)
     | (with_reducible apply Only.step (State.settleAux_only _ _); decide)
     | (with_reducible apply Only.step (State.settleGroup_only _ _ _); decide)
     | (with_reducible apply Only.step (State.taint_only _ _); decide)
     | (with_reducible apply Only.step (State.trace_only _ _ _ _ _); decide)
     | (with_reducible apply Only.step (State.track_only _); decide)
     | (with_reducible apply Only.step (State.warped_only _ _ _); decide)
     | with_reducible apply Only.ite
     | split
     | dsimp only)
  have hs7 : Only [.cmds, .steps, .groups, .colls, .engines, .flags, .rings, .waiting, .backlog, .msix, .pages, .regs, .mem, .hostMem, .badWords, .me, .raster, .traceGap, .log, .ctrs, .softWords, .traceFill, .traceAt] s s7 := by
    unfold s7
    repeat' (first
     | with_reducible exact Only.refl _ _
     | with_reducible assumption
     | (with_reducible apply Only.step (State.advanceAll_only _ _ _); decide)
     | (with_reducible apply Only.step (State.collRefuse_only _ _ _); decide)
     | (with_reducible apply Only.step (State.deliver_only _ _); decide)
     | (with_reducible apply Only.step (State.extendAux_only _ _ _ _); decide)
     | (with_reducible apply Only.step (State.logNote_only _ _); decide)
     | (with_reducible apply Only.step (State.pulse_only _ _ _ _ _ _); decide)
     | (with_reducible apply Only.step (State.putStep_only _ _); decide)
     | (with_reducible apply Only.step (State.rasterRest_only _); decide)
     | (with_reducible apply Only.step (State.retire_only _ _ _); decide)
     | (with_reducible apply Only.step (State.settleAux_only _ _); decide)
     | (with_reducible apply Only.step (State.settleGroup_only _ _ _); decide)
     | (with_reducible apply Only.step (State.taint_only _ _); decide)
     | (with_reducible apply Only.step (State.trace_only _ _ _ _ _); decide)
     | (with_reducible apply Only.step (State.track_only _); decide)
     | (with_reducible apply Only.step (State.warped_only _ _ _); decide)
     | with_reducible apply Only.ite
     | split
     | dsimp only)
  have hs8 : Only [.cmds, .steps, .groups, .colls, .engines, .flags, .rings, .waiting, .backlog, .msix, .pages, .regs, .mem, .hostMem, .badWords, .me, .raster, .traceGap, .log, .ctrs, .softWords, .traceFill, .traceAt] s s8 := by
    unfold s8
    repeat' (first
     | with_reducible exact Only.refl _ _
     | with_reducible assumption
     | (with_reducible apply Only.step (State.advanceAll_only _ _ _); decide)
     | (with_reducible apply Only.step (State.collRefuse_only _ _ _); decide)
     | (with_reducible apply Only.step (State.deliver_only _ _); decide)
     | (with_reducible apply Only.step (State.extendAux_only _ _ _ _); decide)
     | (with_reducible apply Only.step (State.logNote_only _ _); decide)
     | (with_reducible apply Only.step (State.pulse_only _ _ _ _ _ _); decide)
     | (with_reducible apply Only.step (State.putStep_only _ _); decide)
     | (with_reducible apply Only.step (State.rasterRest_only _); decide)
     | (with_reducible apply Only.step (State.retire_only _ _ _); decide)
     | (with_reducible apply Only.step (State.settleAux_only _ _); decide)
     | (with_reducible apply Only.step (State.settleGroup_only _ _ _); decide)
     | (with_reducible apply Only.step (State.taint_only _ _); decide)
     | (with_reducible apply Only.step (State.trace_only _ _ _ _ _); decide)
     | (with_reducible apply Only.step (State.track_only _); decide)
     | (with_reducible apply Only.step (State.warped_only _ _ _); decide)
     | with_reducible apply Only.ite
     | split
     | dsimp only)
  repeat' (first
   | with_reducible exact Only.refl _ _
   | with_reducible assumption
   | (with_reducible apply Only.step (State.advanceAll_only _ _ _); decide)
   | (with_reducible apply Only.step (State.collRefuse_only _ _ _); decide)
   | (with_reducible apply Only.step (State.deliver_only _ _); decide)
   | (with_reducible apply Only.step (State.extendAux_only _ _ _ _); decide)
   | (with_reducible apply Only.step (State.logNote_only _ _); decide)
   | (with_reducible apply Only.step (State.pulse_only _ _ _ _ _ _); decide)
   | (with_reducible apply Only.step (State.putStep_only _ _); decide)
   | (with_reducible apply Only.step (State.rasterRest_only _); decide)
   | (with_reducible apply Only.step (State.retire_only _ _ _); decide)
   | (with_reducible apply Only.step (State.settleAux_only _ _); decide)
   | (with_reducible apply Only.step (State.settleGroup_only _ _ _); decide)
   | (with_reducible apply Only.step (State.taint_only _ _); decide)
   | (with_reducible apply Only.step (State.trace_only _ _ _ _ _); decide)
   | (with_reducible apply Only.step (State.track_only _); decide)
   | (with_reducible apply Only.step (State.warped_only _ _ _); decide)
   | with_reducible apply Only.ite
   | split
   | dsimp only)

theorem State.endReplay_only (s : State) (c : Cmd) (st : Status) : Only [.cmds, .groups, .engines, .msix, .pages, .regs, .mem, .hostMem, .badWords, .log, .softWords] s (State.endReplay s c st) := by
  unfold State.endReplay
  try dsimp only
  repeat' (first
   | with_reducible exact Only.refl _ _
   | with_reducible assumption
   | (with_reducible apply Only.step (State.logNote_only _ _); decide)
   | (with_reducible apply Only.step (State.putCmd_only _ _); decide)
   | (with_reducible apply Only.step (State.settleGroup_only _ _ _); decide)
   | (with_reducible apply Only.step (State.track_only _); decide)
   | with_reducible apply Only.ite
   | dsimp only)

theorem State.spendIssue_only (s : State) (k die : Nat) : Only [.freeCount, .issue] s (State.spendIssue s k die) := by
  unfold State.spendIssue
  try dsimp only
  repeat' (first
   | with_reducible exact Only.refl _ _
   | with_reducible assumption
   | (with_reducible apply Only.step (State.free_only _); decide)
   | with_reducible apply Only.ite
   | split
   | (with_reducible apply Only.step Only.set_issue; decide)
   | dsimp only)

theorem State.gainIssue_only (s : State) (k die cycles : Nat) : Only [.issue] s (State.gainIssue s k die cycles) := by
  unfold State.gainIssue
  try dsimp only
  repeat' (first
   | with_reducible exact Only.refl _ _
   | with_reducible assumption
   | with_reducible apply Only.ite
   | (with_reducible apply Only.step Only.set_issue; decide)
   | dsimp only)

theorem State.at_only (s : State) (due : Nat) : Only [.now] s (State.at s due) := by
  unfold State.at
  try dsimp only
  repeat' (first
   | with_reducible exact Only.refl _ _
   | with_reducible assumption
   | with_reducible apply Only.ite
   | split
   | (with_reducible apply Only.step Only.set_now; decide)
   | dsimp only)

theorem State.filtered_only (s : State) (g : FilterGroup) (input : Nat) : Only [.now, .pins] s (State.filtered s g input) := by
  unfold State.filtered
  try dsimp only
  repeat' (first
   | with_reducible exact Only.refl _ _
   | with_reducible assumption
   | (with_reducible apply Only.step (State.at_only _ _); decide)
   | with_reducible apply Only.ite
   | split
   | (with_reducible apply Only.step Only.set_pins; decide)
   | dsimp only)

theorem State.unstall_only (s : State) : Only [.regs, .me] s (State.unstall s) := by
  unfold State.unstall
  try dsimp only
  repeat' (first
   | with_reducible exact Only.refl _ _
   | with_reducible assumption
   | (with_reducible apply Only.step (State.bump_only _ _ _ _ _); decide)
   | with_reducible apply Only.ite
   | split
   | (with_reducible apply Only.step Only.set_me; decide)
   | dsimp only)

theorem State.meDrop_only (s : State) : Only [.regs, .me] s (State.meDrop s) := by
  unfold State.meDrop
  try dsimp only
  repeat' (first
   | with_reducible exact Only.refl _ _
   | with_reducible assumption
   | (with_reducible apply Only.step (State.unstall_only _); decide)
   | with_reducible apply Only.ite
   | (with_reducible apply Only.step Only.set_me; decide)
   | dsimp only)

theorem State.putApt_only (s : State) (n : Nat) (a : Aperture) : Only [.apts] s (State.putApt s n a) := by
  unfold State.putApt
  try dsimp only
  repeat' (first
   | with_reducible exact Only.refl _ _
   | with_reducible assumption
   | with_reducible apply Only.ite
   | (with_reducible apply Only.step Only.set_apts; decide)
   | dsimp only)

theorem State.slotWrite_only (s : State) (apt slot off : Nat) (bs : List Byte) : Only [.freeCount, .aptSlots] s (State.slotWrite s apt slot off bs) := by
  unfold State.slotWrite
  try dsimp only
  repeat' (first
   | with_reducible exact Only.refl _ _
   | with_reducible assumption
   | with_reducible apply Only.ite
   | (with_reducible apply Only.mayTake (by decide); intro y hy)
   | split
   | (with_reducible apply Only.step Only.set_aptSlots; decide)
   | dsimp only)

theorem execApertureSlotWrite_only (apt slot off : Nat) (bs : List Byte) (s : State) : OnlyOut [.freeCount, .aptSlots] s (execApertureSlotWrite apt slot off bs s) := by
  unfold execApertureSlotWrite
  try dsimp only
  repeat' (first
   | with_reducible exact Only.refl _ _
   | with_reducible assumption
   | with_reducible apply OnlyOut.next
   | (with_reducible apply Only.step (State.slotWrite_only _ _ _ _ _); decide)
   | with_reducible apply Only.ite
   | with_reducible apply OnlyOut.ite
   | split
   | dsimp only)

theorem State.wake_only (s : State) (g : Nat) : Only [.engines] s (State.wake s g) := by
  unfold State.wake
  try dsimp only
  repeat' (first
   | with_reducible exact Only.refl _ _
   | with_reducible assumption
   | (with_reducible apply Only.step (State.putEngine_only _ _ _); decide)
   | with_reducible apply Only.ite
   | split
   | dsimp only)

theorem State.wakeAll_only (s : State) (gs : List Nat) : Only [.engines] s (State.wakeAll s gs) := by
  unfold State.wakeAll
  try dsimp only
  repeat' (first
   | with_reducible exact Only.refl _ _
   | with_reducible assumption
   | (with_reducible apply Only.step (State.wake_only _ _); decide)
   | with_reducible apply Only.ite
   | (with_reducible apply Only.foldl; intro y a hy)
   | dsimp only)

theorem State.newStep_only (s : State) (c : Cmd) : Only [.cmds, .steps, .jobs, .disp] s (State.newStep s c) := by
  unfold State.newStep
  try dsimp only
  repeat' (first
   | with_reducible exact Only.refl _ _
   | with_reducible assumption
   | (with_reducible apply Only.step (State.putJob_only _ _ _); decide)
   | with_reducible apply Only.ite
   | split
   | (with_reducible apply Only.step Only.set_cmds_steps_disp; decide)
   | dsimp only)

theorem State.startGroup_only (s : State) (x : Step) (c : Cmd) : Only [.groups] s (State.startGroup s x c) := by
  unfold State.startGroup
  try dsimp only
  repeat' (first
   | with_reducible exact Only.refl _ _
   | with_reducible assumption
   | (with_reducible apply Only.step (State.putGroup_only _ _); decide)
   | with_reducible apply Only.ite
   | split
   | dsimp only)

theorem State.joinStep_only (s : State) (c : Cmd) : Only [.cmds, .steps, .groups, .mem, .badWords, .softWords] s (State.joinStep s c) := by
  unfold State.joinStep
  try dsimp only
  repeat' (first
   | with_reducible exact Only.refl _ _
   | with_reducible assumption
   | (with_reducible apply Only.step (State.putStep_only _ _); decide)
   | (with_reducible apply Only.step (State.reviewStep_only _ _); decide)
   | (with_reducible apply Only.step (State.startGroup_only _ _ _); decide)
   | with_reducible apply Only.ite
   | split
   | (with_reducible apply Only.step Only.set_cmds; decide)
   | dsimp only)

theorem State.takeMeta_only (s : State) (c : Cmd) : Only [.msix, .pages, .regs, .mem, .hostMem, .badWords, .disp, .log, .ctrs, .softWords] s (State.takeMeta s c) := by
  unfold State.takeMeta
  try dsimp only
  repeat' (first
   | with_reducible exact Only.refl _ _
   | with_reducible assumption
   | (with_reducible apply Only.step (State.correctReads_only _ _ _ _); decide)
   | (with_reducible apply Only.step (State.err_only _ _ _ _ _ _); decide)
   | with_reducible apply Only.ite
   | split
   | (with_reducible apply Only.step Only.set_disp; decide)
   | dsimp only)

theorem State.enter_only (s : State) (c : Cmd) : Only [.cmds, .steps, .groups, .jobs, .engines, .msix, .pages, .regs, .mem, .hostMem, .badWords, .disp, .traceGap, .log, .ctrs, .softWords, .traceFill, .traceAt] s (State.enter s c) := by
  unfold State.enter
  try dsimp only
  repeat' (first
   | with_reducible exact Only.refl _ _
   | with_reducible assumption
   | (with_reducible apply Only.step (State.bump_only _ _ _ _ _); decide)
   | (with_reducible apply Only.step (State.joinStep_only _ _); decide)
   | (with_reducible apply Only.step (State.newStep_only _ _); decide)
   | (with_reducible apply Only.step (State.ranFor_only _ _ _ _); decide)
   | (with_reducible apply Only.step (State.takeMeta_only _ _); decide)
   | (with_reducible apply Only.step (State.trace_only _ _ _ _ _); decide)
   | (with_reducible apply Only.step (State.wake_only _ _); decide)
   | (with_reducible apply Only.step (State.wakeAll_only _ _); decide)
   | with_reducible apply Only.ite
   | split
   | dsimp only)

theorem State.consume_only (s : State) (apt : Nat) (a : Aperture) (x : AptSlot) (e : Entry) : Only [.cmds, .nextUid, .steps, .groups, .jobs, .engines, .apts, .aptSlots, .msix, .pages, .regs, .mem, .hostMem, .badWords, .disp, .traceGap, .log, .ctrs, .softWords, .traceFill, .traceAt] s (State.consume s apt a x e) := by
  unfold State.consume
  try dsimp only
  repeat' (first
   | with_reducible exact Only.refl _ _
   | with_reducible assumption
   | (with_reducible apply Only.step (State.bump_only _ _ _ _ _); decide)
   | (with_reducible apply Only.step (State.enter_only _ _); decide)
   | (with_reducible apply Only.step (State.irq_only _ _ _ _); decide)
   | (with_reducible apply Only.step (State.pulse_only _ _ _ _ _ _); decide)
   | (with_reducible apply Only.step (State.putApt_only _ _ _); decide)
   | (with_reducible apply Only.step (State.trace_only _ _ _ _ _); decide)
   | with_reducible apply Only.ite
   | split
   | (with_reducible apply Only.step Only.set_cmds; decide)
   | (with_reducible apply Only.step Only.set_nextUid_aptSlots; decide)
   | dsimp only)

theorem execPacketAccept_only (apt : Nat) (s : State) : OnlyOut [.cmds, .nextUid, .steps, .groups, .jobs, .engines, .apts, .aptSlots, .msix, .pages, .regs, .mem, .hostMem, .badWords, .disp, .traceGap, .log, .ctrs, .softWords, .traceFill, .traceAt] s (execPacketAccept apt s) := by
  unfold execPacketAccept
  try dsimp only
  repeat' (first
   | with_reducible exact Only.refl _ _
   | with_reducible assumption
   | with_reducible apply OnlyOut.next
   | (with_reducible apply Only.step (State.consume_only _ _ _ _ _); decide)
   | (with_reducible apply Only.step (State.edge_only _ _ _ _ _ _); decide)
   | (with_reducible apply Only.step (State.putApt_only _ _ _); decide)
   | (with_reducible apply Only.step (State.track_only _); decide)
   | with_reducible apply Only.ite
   | with_reducible apply OnlyOut.ite
   | split
   | dsimp only)

theorem execAptHeldTimeout_only (apt : Nat) (s : State) : OnlyOut [.now, .msix, .pages, .hostMem] s (execAptHeldTimeout apt s) := by
  unfold execAptHeldTimeout
  try dsimp only
  repeat' (first
   | with_reducible exact Only.refl _ _
   | with_reducible assumption
   | with_reducible apply OnlyOut.next
   | (with_reducible apply Only.step (State.at_only _ _); decide)
   | (with_reducible apply Only.step (State.irq_only _ _ _ _); decide)
   | with_reducible apply Only.ite
   | with_reducible apply OnlyOut.ite
   | split
   | dsimp only)

theorem State.takeIn_only (s : State) (c : Cmd) (q : Queue) (e : Entry) : Only [.cmds, .engines, .msix, .pages, .regs, .mem, .hostMem, .badWords, .traceGap, .ctrs, .softWords, .traceFill, .traceAt] s (State.takeIn s c q e) := by
  unfold State.takeIn
  try dsimp only
  repeat' (first
   | with_reducible exact Only.refl _ _
   | with_reducible assumption
   | (with_reducible apply Only.step (State.pulse_only _ _ _ _ _ _); decide)
   | (with_reducible apply Only.step (State.putCmd_only _ _); decide)
   | (with_reducible apply Only.step (State.trace_only _ _ _ _ _); decide)
   | (with_reducible apply Only.step (State.track_only _); decide)
   | (with_reducible apply Only.step (State.wake_only _ _); decide)
   | with_reducible apply Only.ite
   | split
   | dsimp only)

theorem execCommandAdmit_only (uid : Nat) (s : State) : OnlyOut [.cmds, .engines, .msix, .pages, .regs, .mem, .hostMem, .badWords, .traceGap, .ctrs, .softWords, .traceFill, .traceAt] s (execCommandAdmit uid s) := by
  unfold execCommandAdmit
  try dsimp only
  repeat' (first
   | with_reducible exact Only.refl _ _
   | with_reducible assumption
   | with_reducible apply OnlyOut.next
   | (with_reducible apply Only.step (State.takeIn_only _ _ _ _); decide)
   | with_reducible apply Only.ite
   | with_reducible apply OnlyOut.ite
   | split
   | dsimp only)

theorem State.dispatch_only (s : State) (x : Step) (tile g : Nat) : Only [.groups, .engines, .mem, .badWords, .softWords] s (State.dispatch s x tile g) := by
  unfold State.dispatch
  try dsimp only
  repeat' (first
   | with_reducible exact Only.refl _ _
   | with_reducible assumption
   | (with_reducible apply Only.step (State.putEntry_only _ _ _ _); decide)
   | (with_reducible apply Only.step (State.putGroup_only _ _); decide)
   | (with_reducible apply Only.step (State.wake_only _ _); decide)
   | with_reducible apply Only.ite
   | split
   | dsimp only)

theorem execTileDispatch_only (step tile : Nat) (s : State) : OnlyOut [.groups, .engines, .mem, .badWords, .softWords] s (execTileDispatch step tile s) := by
  unfold execTileDispatch
  try dsimp only
  repeat' (first
   | with_reducible exact Only.refl _ _
   | with_reducible assumption
   | with_reducible apply OnlyOut.next
   | (with_reducible apply Only.step (State.dispatch_only _ _ _ _); decide)
   | (with_reducible apply Only.step (State.track_only _); decide)
   | with_reducible apply Only.ite
   | with_reducible apply OnlyOut.ite
   | split
   | dsimp only)

theorem State.fireGuard_only (s : State) (x : Step) (r : Nat) : Only [.cmds, .steps, .groups, .msix, .pages, .regs, .hostMem, .ctrs] s (State.fireGuard s x r) := by
  unfold State.fireGuard
  try dsimp only
  repeat' (first
   | with_reducible exact Only.refl _ _
   | with_reducible assumption
   | (with_reducible apply Only.step (State.bump_only _ _ _ _ _); decide)
   | (with_reducible apply Only.step (State.irq_only _ _ _ _); decide)
   | (with_reducible apply Only.step (State.pulse_only _ _ _ _ _ _); decide)
   | (with_reducible apply Only.step (State.putStep_only _ _); decide)
   | with_reducible apply Only.ite
   | split
   | (with_reducible apply Only.step Only.set_cmds_groups; decide)
   | dsimp only)

theorem State.pastGuards_only (s : State) (uid : Nat) : Only [.cmds, .steps, .groups, .msix, .pages, .regs, .hostMem, .ctrs] s (State.pastGuards s uid) := by
  unfold State.pastGuards
  try dsimp only
  repeat' (first
   | with_reducible exact Only.refl _ _
   | with_reducible assumption
   | (with_reducible apply Only.step (State.fireGuard_only _ _ _); decide)
   | with_reducible apply Only.ite
   | (with_reducible apply Only.foldl; intro y a hy)
   | split
   | dsimp only)

theorem State.endLate_only (s : State) (p : Cmd → Bool) : Only [.cmds, .regs, .me] s (State.endLate s p) := by
  unfold State.endLate
  try dsimp only
  repeat' (first
   | with_reducible exact Only.refl _ _
   | with_reducible assumption
   | (with_reducible apply Only.step (State.endAll_only _ _ _ _); decide)
   | (with_reducible apply Only.step (State.meDrop_only _); decide)
   | with_reducible apply Only.ite
   | split
   | (with_reducible apply Only.step Only.set_me; decide)
   | dsimp only)

theorem State.cancelGroup_only (s : State) (x : Step) (t : Nat) : Only [.cmds, .groups, .msix, .pages, .regs, .mem, .hostMem, .badWords, .me, .ctrs, .softWords] s (State.cancelGroup s x t) := by
  unfold State.cancelGroup
  try dsimp only
  repeat' (first
   | with_reducible exact Only.refl _ _
   | with_reducible assumption
   | (with_reducible apply Only.step (State.bump_only _ _ _ _ _); decide)
   | (with_reducible apply Only.step (State.endGroup_only _ _ _); decide)
   | (with_reducible apply Only.step (State.endLate_only _ _); decide)
   | (with_reducible apply Only.step (State.pulse_only _ _ _ _ _ _); decide)
   | (with_reducible apply Only.step (State.putEntry_only _ _ _ _); decide)
   | (with_reducible apply Only.step (State.putGroup_only _ _); decide)
   | with_reducible apply Only.ite
   | split
   | dsimp only)

theorem State.putLateCount_only (s : State) (x : Step) (n : Nat) : Only [.mem, .badWords, .softWords] s (State.putLateCount s x n) := by
  unfold State.putLateCount
  try dsimp only
  repeat' (first
   | with_reducible exact Only.refl _ _
   | with_reducible assumption
   | (with_reducible apply Only.step (State.putHead_only _ _ _ _ _); decide)
   | with_reducible apply Only.ite
   | split
   | dsimp only)

theorem State.lateRow_only (s : State) (x : Step) (r : Nat) : Only [.cmds, .steps, .groups, .msix, .pages, .regs, .mem, .hostMem, .badWords, .me, .ctrs, .softWords] s (State.lateRow s x r) := by
  unfold State.lateRow
  try dsimp only
  repeat' (first
   | with_reducible exact Only.refl _ _
   | with_reducible assumption
   | (with_reducible apply Only.step (State.cancelGroup_only _ _ _); decide)
   | (with_reducible apply Only.step (State.endLate_only _ _); decide)
   | (with_reducible apply Only.step (State.irq_only _ _ _ _); decide)
   | (with_reducible apply Only.step (State.putLateCount_only _ _ _); decide)
   | (with_reducible apply Only.step (State.putStep_only _ _); decide)
   | (with_reducible apply Only.step (State.reviewStep_only _ _); decide)
   | with_reducible apply Only.ite
   | (with_reducible apply Only.foldl; intro y a hy)
   | split
   | dsimp only)

theorem State.pastRows_only (s : State) (uid : Nat) : Only [.cmds, .steps, .groups, .msix, .pages, .regs, .mem, .hostMem, .badWords, .me, .ctrs, .softWords] s (State.pastRows s uid) := by
  unfold State.pastRows
  try dsimp only
  repeat' (first
   | with_reducible exact Only.refl _ _
   | with_reducible assumption
   | (with_reducible apply Only.step (State.lateRow_only _ _ _); decide)
   | with_reducible apply Only.ite
   | (with_reducible apply Only.foldl; intro y a hy)
   | split
   | dsimp only)

theorem State.openStep_only (s : State) (c : Cmd) (x : Step) (e : Entry) : Only [.cmds, .steps, .groups, .jobs, .engines, .msix, .pages, .regs, .mem, .hostMem, .badWords, .me, .ctrs, .softWords] s (State.openStep s c x e) := by
  unfold State.openStep
  try dsimp only
  repeat' (first
   | with_reducible exact Only.refl _ _
   | with_reducible assumption
   | (with_reducible apply Only.step (State.pastGuards_only _ _); decide)
   | (with_reducible apply Only.step (State.pastRows_only _ _); decide)
   | (with_reducible apply Only.step (State.putCmd_only _ _); decide)
   | (with_reducible apply Only.step (State.putJob_only _ _ _); decide)
   | (with_reducible apply Only.step (State.putStep_only _ _); decide)
   | (with_reducible apply Only.step (State.track_only _); decide)
   | with_reducible apply Only.ite
   | split
   | dsimp only)

theorem State.turnLate_only (s : State) (job : Nat) : Only [.mem, .badWords, .softWords] s (State.turnLate s job) := by
  unfold State.turnLate
  try dsimp only
  repeat' (first
   | with_reducible exact Only.refl _ _
   | with_reducible assumption
   | (with_reducible apply Only.step (State.putDir_only _ _ _ _); decide)
   | with_reducible apply Only.ite
   | dsimp only)

theorem execStepOpen_only (uid : Nat) (s : State) : OnlyOut [.cmds, .steps, .groups, .jobs, .engines, .msix, .pages, .regs, .mem, .hostMem, .badWords, .me, .ctrs, .softWords] s (execStepOpen uid s) := by
  unfold execStepOpen
  try dsimp only
  repeat' (first
   | with_reducible exact Only.refl _ _
   | with_reducible assumption
   | with_reducible apply OnlyOut.next
   | (with_reducible apply Only.step (State.openStep_only _ _ _ _); decide)
   | (with_reducible apply Only.step (State.putCmd_only _ _); decide)
   | (with_reducible apply Only.step (State.putStep_only _ _); decide)
   | (with_reducible apply Only.step (State.turnLate_only _ _); decide)
   | with_reducible apply Only.ite
   | with_reducible apply OnlyOut.ite
   | split
   | dsimp only)

theorem State.controlAs_only (s : State) (uid op : Nat) (fails : Cmd → List (Status × Nat)) (go : Cmd → Bool) (st : Status) : Only [.cmds] s (State.controlAs s uid op fails go st) := by
  unfold State.controlAs
  try dsimp only
  repeat' (first
   | with_reducible exact Only.refl _ _
   | with_reducible assumption
   | (with_reducible apply Only.step (State.putCmd_only _ _); decide)
   | with_reducible apply Only.ite
   | split
   | dsimp only)

theorem State.control_only (s : State) (uid op : Nat) (fails : Cmd → List (Status × Nat)) (go : Cmd → Bool) : Only [.cmds] s (State.control s uid op fails go) := by
  unfold State.control
  try dsimp only
  repeat' (first
   | with_reducible exact Only.refl _ _
   | with_reducible assumption
   | (with_reducible apply Only.step (State.controlAs_only _ _ _ _ _ _); decide)
   | with_reducible apply Only.ite
   | dsimp only)

theorem execFlagWait_only (uid : Nat) (s : State) : OnlyOut [.cmds] s (execFlagWait uid s) := by
  unfold execFlagWait
  try dsimp only
  repeat' (first
   | with_reducible exact Only.refl _ _
   | with_reducible assumption
   | with_reducible apply OnlyOut.next
   | (with_reducible apply Only.step (State.control_only _ _ _ _ _); decide)
   | with_reducible apply Only.ite
   | with_reducible apply OnlyOut.ite
   | dsimp only)

theorem execFlagWaitTimeout_only (uid : Nat) (s : State) : OnlyOut [.now, .cmds] s (execFlagWaitTimeout uid s) := by
  unfold execFlagWaitTimeout
  try dsimp only
  repeat' (first
   | with_reducible exact Only.refl _ _
   | with_reducible assumption
   | with_reducible apply OnlyOut.next
   | (with_reducible apply Only.step (State.at_only _ _); decide)
   | (with_reducible apply Only.step (State.controlAs_only _ _ _ _ _ _); decide)
   | with_reducible apply Only.ite
   | with_reducible apply OnlyOut.ite
   | split
   | dsimp only)

theorem execFlagAdvance_only (uid : Nat) (s : State) : OnlyOut [.cmds] s (execFlagAdvance uid s) := by
  unfold execFlagAdvance
  try dsimp only
  repeat' (first
   | with_reducible exact Only.refl _ _
   | with_reducible assumption
   | with_reducible apply OnlyOut.next
   | (with_reducible apply Only.step (State.control_only _ _ _ _ _); decide)
   | with_reducible apply Only.ite
   | with_reducible apply OnlyOut.ite
   | dsimp only)

theorem execNop_only (uid : Nat) (s : State) : OnlyOut [.cmds] s (execNop uid s) := by
  unfold execNop
  try dsimp only
  repeat' (first
   | with_reducible exact Only.refl _ _
   | with_reducible assumption
   | with_reducible apply OnlyOut.next
   | (with_reducible apply Only.step (State.control_only _ _ _ _ _); decide)
   | with_reducible apply Only.ite
   | with_reducible apply OnlyOut.ite
   | dsimp only)

theorem State.dropStep_only (s : State) (uid : Nat) : Only [.steps, .groups] s (State.dropStep s uid) := by
  unfold State.dropStep
  try dsimp only
  repeat' (first
   | with_reducible exact Only.refl _ _
   | with_reducible assumption
   | with_reducible apply Only.ite
   | (with_reducible apply Only.step Only.set_steps_groups; decide)
   | dsimp only)

theorem State.closeStep_only (s : State) (x : Step) : Only [.steps, .groups] s (State.closeStep s x) := by
  unfold State.closeStep
  try dsimp only
  repeat' (first
   | with_reducible exact Only.refl _ _
   | with_reducible assumption
   | (with_reducible apply Only.step (State.dropStep_only _ _); decide)
   | (with_reducible apply Only.step (State.putStep_only _ _); decide)
   | with_reducible apply Only.ite
   | split
   | dsimp only)

theorem execCompletionRecordWrite_only (uid : Nat) (s : State) : OnlyOut [.cmds, .steps, .groups, .colls, .engines, .flags, .rings, .waiting, .backlog, .msix, .pages, .regs, .mem, .hostMem, .badWords, .me, .raster, .traceGap, .log, .ctrs, .softWords, .traceFill, .traceAt] s (execCompletionRecordWrite uid s) := by
  unfold execCompletionRecordWrite
  try dsimp only
  repeat' (first
   | with_reducible exact Only.refl _ _
   | with_reducible assumption
   | with_reducible apply OnlyOut.next
   | (with_reducible apply Only.step (State.closeStep_only _ _); decide)
   | (with_reducible apply Only.step (State.endReplay_only _ _ _); decide)
   | (with_reducible apply Only.step (State.produce_only _ _ _ _); decide)
   | with_reducible apply Only.ite
   | with_reducible apply OnlyOut.ite
   | split
   | dsimp only)

theorem execRingFullTimeout_only (ring : Nat) (s : State) : OnlyOut [.now, .msix, .pages, .hostMem] s (execRingFullTimeout ring s) := by
  unfold execRingFullTimeout
  try dsimp only
  repeat' (first
   | with_reducible exact Only.refl _ _
   | with_reducible assumption
   | with_reducible apply OnlyOut.next
   | (with_reducible apply Only.step (State.at_only _ _); decide)
   | (with_reducible apply Only.step (State.irq_only _ _ _ _); decide)
   | with_reducible apply Only.ite
   | with_reducible apply OnlyOut.ite
   | split
   | dsimp only)

theorem execMsixRingTimer_only (ring : Nat) (s : State) : OnlyOut [.now, .rings, .msix, .hostMem] s (execMsixRingTimer ring s) := by
  unfold execMsixRingTimer
  try dsimp only
  repeat' (first
   | with_reducible exact Only.refl _ _
   | with_reducible assumption
   | with_reducible apply OnlyOut.next
   | (with_reducible apply Only.step (State.at_only _ _); decide)
   | (with_reducible apply Only.step (State.putRing_only _ _ _); decide)
   | (with_reducible apply Only.step (State.signal_only _ _); decide)
   | with_reducible apply Only.ite
   | with_reducible apply OnlyOut.ite
   | split
   | dsimp only)

theorem State.writeCredit_only (s : State) (n : Nat) : Only [.apts, .hostMem] s (State.writeCredit s n) := by
  unfold State.writeCredit
  try dsimp only
  repeat' (first
   | with_reducible exact Only.refl _ _
   | with_reducible assumption
   | (with_reducible apply Only.step (State.hostPut_only _ _ _); decide)
   | (with_reducible apply Only.step (State.putApt_only _ _ _); decide)
   | with_reducible apply Only.ite
   | split
   | dsimp only)

theorem execCreditWriteback_only (apt : Nat) (s : State) : OnlyOut [.apts, .hostMem] s (execCreditWriteback apt s) := by
  unfold execCreditWriteback
  try dsimp only
  repeat' (first
   | with_reducible exact Only.refl _ _
   | with_reducible assumption
   | with_reducible apply OnlyOut.next
   | (with_reducible apply Only.step (State.writeCredit_only _ _); decide)
   | with_reducible apply Only.ite
   | with_reducible apply OnlyOut.ite
   | split
   | dsimp only)

end Sys2Proof.Machine
end

