-- ==== Sys2Proof/Laws/FrameEngine.lean ====
section
/-!
SUPPORT. Which fields of the state each operation can change: the engines, their contexts and their operations.
-/

-- One proof at a time: the proofs of this file are many, and run together they take many threads at once.
set_option Elab.async false

set_option linter.unusedTactic false
set_option linter.unreachableTactic false

namespace Sys2Proof.Machine

theorem State.putAll_only (s : State) (ws : List (Nat × List Byte)) : Only [.mem, .badWords, .softWords] s (State.putAll s ws) := by
  unfold State.putAll
  try dsimp only
  repeat' (first
   | with_reducible exact Only.refl _ _
   | with_reducible assumption
   | (with_reducible apply Only.step (State.devPut_only _ _ _); decide)
   | with_reducible apply Only.ite
   | (with_reducible apply Only.foldl; intro y a hy)
   | dsimp only)

theorem State.addStats_only (s : State) (c : Cmd) (g off : Nat) (x : Stats) : Only [.engines, .msix, .pages, .hostMem] s (State.addStats s c g off x) := by
  unfold State.addStats
  try dsimp only
  repeat' (first
   | with_reducible exact Only.refl _ _
   | with_reducible assumption
   | (with_reducible apply Only.step (State.irq_only _ _ _ _); decide)
   | (with_reducible apply Only.step (State.putEngine_only _ _ _); decide)
   | with_reducible apply Only.ite
   | split
   | dsimp only)

theorem State.applyWork_only (s : State) (c : Cmd) (g slot : Nat) (w : Work) : Only [.engines, .msix, .pages, .mem, .hostMem, .badWords, .ctrs, .softWords] s (State.applyWork s c g slot w) := by
  unfold State.applyWork
  try dsimp only
  repeat' (first
   | with_reducible exact Only.refl _ _
   | with_reducible assumption
   | (with_reducible apply Only.step (State.addStats_only _ _ _ _ _); decide)
   | (with_reducible apply Only.step (State.pulse_only _ _ _ _ _ _); decide)
   | (with_reducible apply Only.step (State.putAll_only _ _); decide)
   | (with_reducible apply Only.step (State.putEngine_only _ _ _); decide)
   | with_reducible apply Only.ite
   | split
   | dsimp only)

theorem State.applyPart_only (s : State) (c : Cmd) (g slot : Nat) (w : Work) : Only [.freeCount, .engines, .msix, .pages, .mem, .hostMem, .badWords, .ctrs, .softWords] s (State.applyPart s c g slot w) := by
  unfold State.applyPart
  try dsimp only
  repeat' (first
   | with_reducible exact Only.refl _ _
   | with_reducible assumption
   | (with_reducible apply Only.step (State.applyWork_only _ _ _ _ _); decide)
   | (with_reducible apply Only.step (State.free_only _); decide)
   | with_reducible apply Only.ite
   | dsimp only)

theorem State.correctWork_only (s : State) (c : Cmd) (g : Nat) (reads : List (Nat × Nat × Nat)) : Only [.msix, .pages, .regs, .mem, .hostMem, .badWords, .log, .ctrs, .softWords] s (State.correctWork s c g reads) := by
  unfold State.correctWork
  try dsimp only
  repeat' (first
   | with_reducible exact Only.refl _ _
   | with_reducible assumption
   | (with_reducible apply Only.step (State.correctReads_only _ _ _ _); decide)
   | with_reducible apply Only.ite
   | dsimp only)

theorem State.synth_only (s : State) (c : Cmd) : Only [.mem, .badWords, .softWords] s (State.synth s c) := by
  unfold State.synth
  try dsimp only
  repeat' (first
   | with_reducible exact Only.refl _ _
   | with_reducible assumption
   | (with_reducible apply Only.step (State.setTileState_only _ _ _ _); decide)
   | with_reducible apply Only.ite
   | split
   | dsimp only)

theorem State.issueFetch_only (s : State) (c : Cmd) (g : Nat) : Only [.fetches, .msix, .pages, .regs, .mem, .hostMem, .badWords, .log, .ctrs, .softWords] s (State.issueFetch s c g) := by
  unfold State.issueFetch
  try dsimp only
  repeat' (first
   | with_reducible exact Only.refl _ _
   | with_reducible assumption
   | (with_reducible apply Only.step (State.correctWork_only _ _ _ _); decide)
   | with_reducible apply Only.ite
   | split
   | (with_reducible apply Only.step Only.set_fetches; decide)
   | dsimp only)

theorem State.unitBad_only (s : State) (c : Cmd) (g cause addr : Nat) : Only [.msix, .pages, .hostMem] s (State.unitBad s c g cause addr) := by
  unfold State.unitBad
  try dsimp only
  repeat' (first
   | with_reducible exact Only.refl _ _
   | with_reducible assumption
   | (with_reducible apply Only.step (State.err_only _ _ _ _ _ _); decide)
   | (with_reducible apply Only.step (State.irq_only _ _ _ _); decide)
   | with_reducible apply Only.ite
   | split
   | dsimp only)

theorem State.endBadDesc_only (s : State) (c : Cmd) (g a : Nat) : Only [.cmds, .msix, .pages, .hostMem] s (State.endBadDesc s c g a) := by
  unfold State.endBadDesc
  try dsimp only
  repeat' (first
   | with_reducible exact Only.refl _ _
   | with_reducible assumption
   | (with_reducible apply Only.step (State.faultCmd_only _ _ _ _ _); decide)
   | (with_reducible apply Only.step (State.unitBad_only _ _ _ _ _); decide)
   | with_reducible apply Only.ite
   | dsimp only)

theorem State.loadAhead_only (s : State) (c : Cmd) (g : Nat) : Only [.engines] s (State.loadAhead s c g) := by
  unfold State.loadAhead
  try dsimp only
  repeat' (first
   | with_reducible exact Only.refl _ _
   | with_reducible assumption
   | (with_reducible apply Only.step (State.putEngine_only _ _ _); decide)
   | with_reducible apply Only.ite
   | split
   | dsimp only)

theorem State.dropAhead_only (s : State) (c : Cmd) (g : Nat) : Only [.engines] s (State.dropAhead s c g) := by
  unfold State.dropAhead
  try dsimp only
  repeat' (first
   | with_reducible exact Only.refl _ _
   | with_reducible assumption
   | (with_reducible apply Only.step (State.putEngine_only _ _ _); decide)
   | with_reducible apply Only.ite
   | split
   | dsimp only)

theorem State.runWork_only (s : State) (c : Cmd) (g slot : Nat) (w : Work) : Only [.freeCount, .cmds, .engines, .msix, .pages, .regs, .mem, .hostMem, .badWords, .traceGap, .log, .ctrs, .softWords, .traceFill, .traceAt, .issue] s (State.runWork s c g slot w) := by
  unfold State.runWork
  try dsimp only
  repeat' (first
   | with_reducible exact Only.refl _ _
   | with_reducible assumption
   | (with_reducible apply Only.step (State.applyPart_only _ _ _ _ _); decide)
   | (with_reducible apply Only.step (State.applyWork_only _ _ _ _ _); decide)
   | (with_reducible apply Only.step (State.correctWork_only _ _ _ _); decide)
   | (with_reducible apply Only.step (State.dropAhead_only _ _ _); decide)
   | (with_reducible apply Only.step (State.endCmd_only _ _ _ _); decide)
   | (with_reducible apply Only.step (State.err_only _ _ _ _ _ _); decide)
   | (with_reducible apply Only.step (State.faultCmd_only _ _ _ _ _); decide)
   | (with_reducible apply Only.step (State.irq_only _ _ _ _); decide)
   | (with_reducible apply Only.step (State.loadAhead_only _ _ _); decide)
   | (with_reducible apply Only.step (State.spendIssue_only _ _ _); decide)
   | (with_reducible apply Only.step (State.starts_only _ _); decide)
   | (with_reducible apply Only.step (State.synth_only _ _); decide)
   | (with_reducible apply Only.step (State.unitBad_only _ _ _ _ _); decide)
   | with_reducible apply Only.ite
   | split
   | dsimp only)

theorem State.select_only (s : State) (g slot : Nat) : Only [.now, .engines, .msix, .pages, .hostMem, .ctrs] s (State.select s g slot) := by
  unfold State.select
  try dsimp only
  repeat' (first
   | with_reducible exact Only.refl _ _
   | with_reducible assumption
   | (with_reducible apply Only.step (State.at_only _ _); decide)
   | (with_reducible apply Only.step (State.edge_only _ _ _ _ _ _); decide)
   | (with_reducible apply Only.step (State.putEngine_only _ _ _); decide)
   | (with_reducible apply Only.step (State.wake_only _ _); decide)
   | with_reducible apply Only.ite
   | split
   | dsimp only)

theorem State.waitingOp_only (s : State) (uid op : Nat) : Only [.cmds, .fetches, .msix, .pages, .regs, .mem, .hostMem, .badWords, .log, .ctrs, .softWords] s (State.waitingOp s uid op) := by
  unfold State.waitingOp
  try dsimp only
  repeat' (first
   | with_reducible exact Only.refl _ _
   | with_reducible assumption
   | (with_reducible apply Only.step (State.endBadDesc_only _ _ _ _); decide)
   | (with_reducible apply Only.step (State.issueFetch_only _ _ _); decide)
   | with_reducible apply Only.ite
   | split
   | dsimp only)

theorem State.endUnranked_only (s : State) (c : Cmd) (g : Nat) (fails : List (Status × Nat)) : Only [.cmds] s (State.endUnranked s c g fails) := by
  unfold State.endUnranked
  try dsimp only
  repeat' (first
   | with_reducible exact Only.refl _ _
   | with_reducible assumption
   | (with_reducible apply Only.step (State.endCmd_only _ _ _ _); decide)
   | with_reducible apply Only.ite
   | split
   | dsimp only)

theorem State.beforeRun_only (s t : State) (c : Cmd) (g : Nat) : ∀ y, State.beforeRun s t c g = some y → Only [.cmds, .fetches, .msix, .pages, .regs, .mem, .hostMem, .badWords, .log, .ctrs, .softWords] t y := by
  intro y hy
  unfold State.beforeRun at hy
  try dsimp only at hy
  repeat' (first
   | (simp only [reduceCtorEq] at hy; done)
   | (obtain rfl := Option.some.inj hy)
   | split at hy
   | with_reducible exact Only.refl _ _
   | with_reducible assumption
   | (with_reducible apply Only.step (State.endBadDesc_only _ _ _ _); decide)
   | (with_reducible apply Only.step (State.endCmd_only _ _ _ _); decide)
   | (with_reducible apply Only.step (State.issueFetch_only _ _ _); decide)
   | with_reducible apply Only.ite
   | split
   | dsimp only)

theorem State.engineOp_only (s : State) (uid op : Nat) (work : State → Cmd → Nat → Nat → Work) : Only [.now, .freeCount, .cmds, .fetches, .engines, .msix, .pages, .regs, .mem, .hostMem, .badWords, .traceGap, .log, .ctrs, .softWords, .traceFill, .traceAt, .issue] s (State.engineOp s uid op work) := by
  unfold State.engineOp
  try dsimp only
  repeat' (first
   | with_reducible exact Only.refl _ _
   | with_reducible assumption
   | (with_reducible apply Only.step (State.beforeRun_only _ _ _ _ _ ‹_›); decide)
   | (with_reducible apply Only.step (State.endUnranked_only _ _ _ _); decide)
   | (with_reducible apply Only.step (State.runWork_only _ _ _ _ _); decide)
   | (with_reducible apply Only.step (State.select_only _ _ _); decide)
   | (with_reducible apply Only.step (State.track_only _); decide)
   | (with_reducible apply Only.step (State.waitingOp_only _ _ _); decide)
   | with_reducible apply Only.ite
   | split
   | (cases ‹none = some _›; done)
   | (with_reducible apply Only.getD; intro y hy)
   | dsimp only [Option.getD_none]
   | dsimp only)

theorem execNeGemm_only (uid : Nat) (s : State) : OnlyOut [.now, .freeCount, .cmds, .fetches, .engines, .msix, .pages, .regs, .mem, .hostMem, .badWords, .traceGap, .log, .ctrs, .softWords, .traceFill, .traceAt, .issue] s (execNeGemm uid s) := by
  unfold execNeGemm
  try dsimp only
  repeat' (first
   | with_reducible exact Only.refl _ _
   | with_reducible assumption
   | with_reducible apply OnlyOut.next
   | (with_reducible apply Only.step (State.engineOp_only _ _ _ _); decide)
   | with_reducible apply Only.ite
   | with_reducible apply OnlyOut.ite
   | dsimp only)

theorem execNeAccClear_only (uid : Nat) (s : State) : OnlyOut [.now, .freeCount, .cmds, .fetches, .engines, .msix, .pages, .regs, .mem, .hostMem, .badWords, .traceGap, .log, .ctrs, .softWords, .traceFill, .traceAt, .issue] s (execNeAccClear uid s) := by
  unfold execNeAccClear
  try dsimp only
  repeat' (first
   | with_reducible exact Only.refl _ _
   | with_reducible assumption
   | with_reducible apply OnlyOut.next
   | (with_reducible apply Only.step (State.engineOp_only _ _ _ _); decide)
   | with_reducible apply Only.ite
   | with_reducible apply OnlyOut.ite
   | dsimp only)

theorem execNeAccDrain_only (uid : Nat) (s : State) : OnlyOut [.now, .freeCount, .cmds, .fetches, .engines, .msix, .pages, .regs, .mem, .hostMem, .badWords, .traceGap, .log, .ctrs, .softWords, .traceFill, .traceAt, .issue] s (execNeAccDrain uid s) := by
  unfold execNeAccDrain
  try dsimp only
  repeat' (first
   | with_reducible exact Only.refl _ _
   | with_reducible assumption
   | with_reducible apply OnlyOut.next
   | (with_reducible apply Only.step (State.engineOp_only _ _ _ _); decide)
   | with_reducible apply Only.ite
   | with_reducible apply OnlyOut.ite
   | dsimp only)

theorem execNeAccStore_only (uid : Nat) (s : State) : OnlyOut [.now, .freeCount, .cmds, .fetches, .engines, .msix, .pages, .regs, .mem, .hostMem, .badWords, .traceGap, .log, .ctrs, .softWords, .traceFill, .traceAt, .issue] s (execNeAccStore uid s) := by
  unfold execNeAccStore
  try dsimp only
  repeat' (first
   | with_reducible exact Only.refl _ _
   | with_reducible assumption
   | with_reducible apply OnlyOut.next
   | (with_reducible apply Only.step (State.engineOp_only _ _ _ _); decide)
   | with_reducible apply Only.ite
   | with_reducible apply OnlyOut.ite
   | dsimp only)

theorem execNeAccLoad_only (uid : Nat) (s : State) : OnlyOut [.now, .freeCount, .cmds, .fetches, .engines, .msix, .pages, .regs, .mem, .hostMem, .badWords, .traceGap, .log, .ctrs, .softWords, .traceFill, .traceAt, .issue] s (execNeAccLoad uid s) := by
  unfold execNeAccLoad
  try dsimp only
  repeat' (first
   | with_reducible exact Only.refl _ _
   | with_reducible assumption
   | with_reducible apply OnlyOut.next
   | (with_reducible apply Only.step (State.engineOp_only _ _ _ _); decide)
   | with_reducible apply Only.ite
   | with_reducible apply OnlyOut.ite
   | dsimp only)

theorem State.saveContext_only (s : State) (g area : Nat) (k : CtxSlot) : Only [.freeCount, .msix, .pages, .mem, .hostMem, .badWords, .ctrs, .softWords] s (State.saveContext s g area k) := by
  unfold State.saveContext
  try dsimp only
  repeat' (first
   | with_reducible exact Only.refl _ _
   | with_reducible assumption
   | (with_reducible apply Only.step (State.devClear_only _ _ _); decide)
   | (with_reducible apply Only.step (State.devPut_only _ _ _); decide)
   | (with_reducible apply Only.step (State.free_only _); decide)
   | (with_reducible apply Only.step (State.pulse_only _ _ _ _ _ _); decide)
   | (with_reducible apply Only.step (State.putAll_only _ _); decide)
   | with_reducible apply Only.ite
   | dsimp only)

theorem State.swapOut_only (s : State) (g : Nat) (k : CtxSlot) : Only [.freeCount, .cmds, .engines, .msix, .pages, .mem, .hostMem, .badWords, .ctrs, .softWords] s (State.swapOut s g k) := by
  unfold State.swapOut
  try dsimp only
  repeat' (first
   | with_reducible exact Only.refl _ _
   | with_reducible assumption
   | (with_reducible apply Only.step (State.hold_only _ _); decide)
   | (with_reducible apply Only.step (State.putEngine_only _ _ _); decide)
   | (with_reducible apply Only.step (State.saveContext_only _ _ _ _); decide)
   | with_reducible apply Only.ite
   | (with_reducible apply Only.foldl; intro y a hy)
   | split
   | (with_reducible apply Only.step Only.set_cmds; decide)
   | dsimp only)

theorem State.swapIn_only (s : State) (g job slot : Nat) : Only [.engines, .msix, .pages, .regs, .mem, .hostMem, .badWords, .log, .ctrs, .softWords] s (State.swapIn s g job slot) := by
  unfold State.swapIn
  try dsimp only
  repeat' (first
   | with_reducible exact Only.refl _ _
   | with_reducible assumption
   | (with_reducible apply Only.step (State.correctReads_only _ _ _ _); decide)
   | (with_reducible apply Only.step (State.devPut_only _ _ _); decide)
   | (with_reducible apply Only.step (State.putEngine_only _ _ _); decide)
   | with_reducible apply Only.ite
   | split
   | dsimp only)

theorem State.oust_only (s : State) (g : Nat) (k : CtxSlot) : Only [.freeCount, .cmds, .engines, .msix, .pages, .mem, .hostMem, .badWords, .ctrs, .softWords] s (State.oust s g k) := by
  unfold State.oust
  try dsimp only
  repeat' (first
   | with_reducible exact Only.refl _ _
   | with_reducible assumption
   | (with_reducible apply Only.step (State.putEngine_only _ _ _); decide)
   | (with_reducible apply Only.step (State.swapOut_only _ _ _); decide)
   | with_reducible apply Only.ite
   | split
   | dsimp only)

theorem State.contextSwap_only (s : State) (g job : Nat) : Only [.freeCount, .cmds, .engines, .msix, .pages, .regs, .mem, .hostMem, .badWords, .log, .ctrs, .softWords] s (State.contextSwap s g job) := by
  unfold State.contextSwap
  try dsimp only
  repeat' (first
   | with_reducible exact Only.refl _ _
   | with_reducible assumption
   | (with_reducible apply Only.step (State.oust_only _ _ _); decide)
   | (with_reducible apply Only.step (State.swapIn_only _ _ _ _); decide)
   | with_reducible apply Only.ite
   | split
   | dsimp only)

theorem execContextSwap_only (engine job : Nat) (s : State) : OnlyOut [.freeCount, .cmds, .engines, .msix, .pages, .regs, .mem, .hostMem, .badWords, .log, .ctrs, .softWords] s (execContextSwap engine job s) := by
  unfold execContextSwap
  try dsimp only
  repeat' (first
   | with_reducible exact Only.refl _ _
   | with_reducible assumption
   | with_reducible apply OnlyOut.next
   | (with_reducible apply Only.step (State.contextSwap_only _ _ _); decide)
   | (with_reducible apply Only.step (State.track_only _); decide)
   | with_reducible apply Only.ite
   | with_reducible apply OnlyOut.ite
   | dsimp only)

theorem State.rewind_only (s : State) (g keep : Nat) : Only [.engines, .msix, .pages, .hostMem, .ctrs] s (State.rewind s g keep) := by
  unfold State.rewind
  try dsimp only
  repeat' (first
   | with_reducible exact Only.refl _ _
   | with_reducible assumption
   | (with_reducible apply Only.step (State.pulse_only _ _ _ _ _ _); decide)
   | (with_reducible apply Only.step (State.putEngine_only _ _ _); decide)
   | with_reducible apply Only.ite
   | (with_reducible apply Only.foldl; intro y a hy)
   | split
   | dsimp only)

theorem State.preempt_only (s : State) (g ticks : Nat) : Only [.engines, .msix, .pages, .regs, .hostMem, .ctrs] s (State.preempt s g ticks) := by
  unfold State.preempt
  try dsimp only
  repeat' (first
   | with_reducible exact Only.refl _ _
   | with_reducible assumption
   | (with_reducible apply Only.step (State.bumpMax_only _ _ _ _ _ _); decide)
   | (with_reducible apply Only.step (State.err_only _ _ _ _ _ _); decide)
   | (with_reducible apply Only.step (State.irq_only _ _ _ _); decide)
   | (with_reducible apply Only.step (State.pulse_only _ _ _ _ _ _); decide)
   | (with_reducible apply Only.step (State.putEngine_only _ _ _); decide)
   | (with_reducible apply Only.step (State.rewind_only _ _ _); decide)
   | with_reducible apply Only.ite
   | split
   | dsimp only)

theorem execPreempt_only (engine ticks : Nat) (s : State) : OnlyOut [.engines, .msix, .pages, .regs, .hostMem, .ctrs] s (execPreempt engine ticks s) := by
  unfold execPreempt
  try dsimp only
  repeat' (first
   | with_reducible exact Only.refl _ _
   | with_reducible assumption
   | with_reducible apply OnlyOut.next
   | (with_reducible apply Only.step (State.preempt_only _ _ _); decide)
   | with_reducible apply Only.ite
   | with_reducible apply OnlyOut.ite
   | dsimp only)

theorem State.blockedSwap_only (s : State) (g : Nat) : Only [.now, .freeCount, .cmds, .engines, .msix, .pages, .regs, .mem, .hostMem, .badWords, .log, .ctrs, .softWords] s (State.blockedSwap s g) := by
  unfold State.blockedSwap
  try dsimp only
  repeat' (first
   | with_reducible exact Only.refl _ _
   | with_reducible assumption
   | (with_reducible apply Only.step (State.at_only _ _); decide)
   | (with_reducible apply Only.step (State.bump_only _ _ _ _ _); decide)
   | (with_reducible apply Only.step (State.irq_only _ _ _ _); decide)
   | (with_reducible apply Only.step (State.pulse_only _ _ _ _ _ _); decide)
   | (with_reducible apply Only.step (State.putEngine_only _ _ _); decide)
   | (with_reducible apply Only.step (State.swapIn_only _ _ _ _); decide)
   | (with_reducible apply Only.step (State.swapOut_only _ _ _); decide)
   | with_reducible apply Only.ite
   | split
   | dsimp only)

theorem execBlockedSwap_only (engine : Nat) (s : State) : OnlyOut [.now, .freeCount, .cmds, .engines, .msix, .pages, .regs, .mem, .hostMem, .badWords, .log, .ctrs, .softWords] s (execBlockedSwap engine s) := by
  unfold execBlockedSwap
  try dsimp only
  repeat' (first
   | with_reducible exact Only.refl _ _
   | with_reducible assumption
   | with_reducible apply OnlyOut.next
   | (with_reducible apply Only.step (State.blockedSwap_only _ _); decide)
   | (with_reducible apply Only.step (State.track_only _); decide)
   | with_reducible apply Only.ite
   | with_reducible apply OnlyOut.ite
   | dsimp only)

theorem State.engineGate_only (s : State) (g : Nat) : Only [.now, .engines] s (State.engineGate s g) := by
  unfold State.engineGate
  try dsimp only
  repeat' (first
   | with_reducible exact Only.refl _ _
   | with_reducible assumption
   | (with_reducible apply Only.step (State.at_only _ _); decide)
   | (with_reducible apply Only.step (State.putEngine_only _ _ _); decide)
   | with_reducible apply Only.ite
   | split
   | dsimp only)

theorem execEngineGate_only (engine : Nat) (s : State) : OnlyOut [.now, .engines] s (execEngineGate engine s) := by
  unfold execEngineGate
  try dsimp only
  repeat' (first
   | with_reducible exact Only.refl _ _
   | with_reducible assumption
   | with_reducible apply OnlyOut.next
   | (with_reducible apply Only.step (State.engineGate_only _ _); decide)
   | with_reducible apply Only.ite
   | with_reducible apply OnlyOut.ite
   | dsimp only)

theorem State.markFetched_only (s : State) (uid : Nat) : Only [.cmds] s (State.markFetched s uid) := by
  unfold State.markFetched
  try dsimp only
  repeat' (first
   | with_reducible exact Only.refl _ _
   | with_reducible assumption
   | with_reducible apply Only.ite
   | split
   | (with_reducible apply Only.step Only.set_cmds; decide)
   | dsimp only)

theorem State.landFetch_only (s : State) (f : Fetch) : Only [.cmds, .flags, .msix, .pages, .regs, .mem, .hostMem, .badWords, .me, .log, .ctrs, .softWords] s (State.landFetch s f) := by
  unfold State.landFetch
  try dsimp only
  repeat' (first
   | with_reducible exact Only.refl _ _
   | with_reducible assumption
   | (with_reducible apply Only.step (State.advance_only _ _ _ _); decide)
   | (with_reducible apply Only.step (State.correctRead_only _ _ _ _ _); decide)
   | (with_reducible apply Only.step (State.devPut_only _ _ _); decide)
   | (with_reducible apply Only.step (State.markFetched_only _ _); decide)
   | with_reducible apply Only.ite
   | split
   | dsimp only)

theorem State.arrive_only (s : State) (f : Fetch) : Only [.cmds, .flags, .msix, .pages, .regs, .mem, .hostMem, .badWords, .me, .log, .ctrs, .softWords] s (State.arrive s f) := by
  unfold State.arrive
  try dsimp only
  repeat' (first
   | with_reducible exact Only.refl _ _
   | with_reducible assumption
   | (with_reducible apply Only.step (State.faultAll_only _ _ _ _ _); decide)
   | (with_reducible apply Only.step (State.landFetch_only _ _); decide)
   | with_reducible apply Only.ite
   | split
   | dsimp only)

theorem State.fetchLanded_only (s : State) (uid : Nat) (ok : Bool) : Only [.cmds, .fetches, .flags, .msix, .pages, .regs, .mem, .hostMem, .badWords, .me, .log, .ctrs, .softWords] s (State.fetchLanded s uid ok) := by
  unfold State.fetchLanded
  try dsimp only
  repeat' (first
   | with_reducible exact Only.refl _ _
   | with_reducible assumption
   | (with_reducible apply Only.step (State.arrive_only _ _); decide)
   | (with_reducible apply Only.step (State.endAll_only _ _ _ _); decide)
   | with_reducible apply Only.ite
   | split
   | (with_reducible apply Only.step Only.set_fetches; decide)
   | dsimp only)

theorem execFetchLanded_only (uid : Nat) (ok : Bool) (s : State) : OnlyOut [.cmds, .fetches, .engines, .flags, .msix, .pages, .regs, .mem, .hostMem, .badWords, .me, .log, .ctrs, .softWords] s (execFetchLanded uid ok s) := by
  unfold execFetchLanded
  try dsimp only
  repeat' (first
   | with_reducible exact Only.refl _ _
   | with_reducible assumption
   | with_reducible apply OnlyOut.next
   | (with_reducible apply Only.step (State.fetchLanded_only _ _ _); decide)
   | (with_reducible apply Only.step (State.track_only _); decide)
   | with_reducible apply Only.ite
   | with_reducible apply OnlyOut.ite
   | dsimp only)

theorem State.ctxSave_only (s : State) (g slot : Nat) : Only [.freeCount, .cmds, .engines, .msix, .pages, .mem, .hostMem, .badWords, .ctrs, .softWords] s (State.ctxSave s g slot) := by
  unfold State.ctxSave
  try dsimp only
  repeat' (first
   | with_reducible exact Only.refl _ _
   | with_reducible assumption
   | (with_reducible apply Only.step (State.swapOut_only _ _ _); decide)
   | with_reducible apply Only.ite
   | split
   | dsimp only)

theorem execCtxSave_only (engine slot : Nat) (s : State) : OnlyOut [.freeCount, .cmds, .engines, .msix, .pages, .regs, .mem, .hostMem, .badWords, .ctrs, .softWords] s (execCtxSave engine slot s) := by
  unfold execCtxSave
  try dsimp only
  repeat' (first
   | with_reducible exact Only.refl _ _
   | with_reducible assumption
   | with_reducible apply OnlyOut.next
   | (with_reducible apply Only.step (State.ctxSave_only _ _ _); decide)
   | (with_reducible apply Only.step (State.setReg_only _ _ _ _ _); decide)
   | (with_reducible apply Only.step (State.track_only _); decide)
   | with_reducible apply Only.ite
   | with_reducible apply OnlyOut.ite
   | (with_reducible apply Only.host (by decide); intro y hy)
   | dsimp only)

theorem State.mseClearAll_only (s : State) (g : Nat) : Only [.engines] s (State.mseClearAll s g) := by
  unfold State.mseClearAll
  try dsimp only
  repeat' (first
   | with_reducible exact Only.refl _ _
   | with_reducible assumption
   | (with_reducible apply Only.step (State.putEngine_only _ _ _); decide)
   | with_reducible apply Only.ite
   | dsimp only)

theorem execMseClearAll_only (engine : Nat) (s : State) : OnlyOut [.engines] s (execMseClearAll engine s) := by
  unfold execMseClearAll
  try dsimp only
  repeat' (first
   | with_reducible exact Only.refl _ _
   | with_reducible assumption
   | with_reducible apply OnlyOut.next
   | (with_reducible apply Only.step (State.mseClearAll_only _ _); decide)
   | with_reducible apply Only.ite
   | with_reducible apply OnlyOut.ite
   | split
   | dsimp only)

theorem State.mseClearSel_only (s : State) (g : Nat) : Only [.engines] s (State.mseClearSel s g) := by
  unfold State.mseClearSel
  try dsimp only
  repeat' (first
   | with_reducible exact Only.refl _ _
   | with_reducible assumption
   | (with_reducible apply Only.step (State.putEngine_only _ _ _); decide)
   | with_reducible apply Only.ite
   | dsimp only)

theorem execMseClearSel_only (engine : Nat) (s : State) : OnlyOut [.engines] s (execMseClearSel engine s) := by
  unfold execMseClearSel
  try dsimp only
  repeat' (first
   | with_reducible exact Only.refl _ _
   | with_reducible assumption
   | with_reducible apply OnlyOut.next
   | (with_reducible apply Only.step (State.mseClearSel_only _ _); decide)
   | with_reducible apply Only.ite
   | with_reducible apply OnlyOut.ite
   | split
   | dsimp only)

theorem execVeEwise_only (uid : Nat) (s : State) : OnlyOut [.now, .freeCount, .cmds, .fetches, .engines, .msix, .pages, .regs, .mem, .hostMem, .badWords, .traceGap, .log, .ctrs, .softWords, .traceFill, .traceAt, .issue] s (execVeEwise uid s) := by
  unfold execVeEwise
  try dsimp only
  repeat' (first
   | with_reducible exact Only.refl _ _
   | with_reducible assumption
   | with_reducible apply OnlyOut.next
   | (with_reducible apply Only.step (State.engineOp_only _ _ _ _); decide)
   | with_reducible apply Only.ite
   | with_reducible apply OnlyOut.ite
   | dsimp only)

theorem execVeFunc_only (uid : Nat) (s : State) : OnlyOut [.now, .freeCount, .cmds, .fetches, .engines, .msix, .pages, .regs, .mem, .hostMem, .badWords, .traceGap, .log, .ctrs, .softWords, .traceFill, .traceAt, .issue] s (execVeFunc uid s) := by
  unfold execVeFunc
  try dsimp only
  repeat' (first
   | with_reducible exact Only.refl _ _
   | with_reducible assumption
   | with_reducible apply OnlyOut.next
   | (with_reducible apply Only.step (State.engineOp_only _ _ _ _); decide)
   | with_reducible apply Only.ite
   | with_reducible apply OnlyOut.ite
   | dsimp only)

theorem execVeReduce_only (uid : Nat) (s : State) : OnlyOut [.now, .freeCount, .cmds, .fetches, .engines, .msix, .pages, .regs, .mem, .hostMem, .badWords, .traceGap, .log, .ctrs, .softWords, .traceFill, .traceAt, .issue] s (execVeReduce uid s) := by
  unfold execVeReduce
  try dsimp only
  repeat' (first
   | with_reducible exact Only.refl _ _
   | with_reducible assumption
   | with_reducible apply OnlyOut.next
   | (with_reducible apply Only.step (State.engineOp_only _ _ _ _); decide)
   | with_reducible apply Only.ite
   | with_reducible apply OnlyOut.ite
   | dsimp only)

theorem execVeKsel_only (uid : Nat) (s : State) : OnlyOut [.now, .freeCount, .cmds, .fetches, .engines, .msix, .pages, .regs, .mem, .hostMem, .badWords, .traceGap, .log, .ctrs, .softWords, .traceFill, .traceAt, .issue] s (execVeKsel uid s) := by
  unfold execVeKsel
  try dsimp only
  repeat' (first
   | with_reducible exact Only.refl _ _
   | with_reducible assumption
   | with_reducible apply OnlyOut.next
   | (with_reducible apply Only.step (State.engineOp_only _ _ _ _); decide)
   | with_reducible apply Only.ite
   | with_reducible apply OnlyOut.ite
   | dsimp only)

theorem execVeDwconv_only (uid : Nat) (s : State) : OnlyOut [.now, .freeCount, .cmds, .fetches, .engines, .msix, .pages, .regs, .mem, .hostMem, .badWords, .traceGap, .log, .ctrs, .softWords, .traceFill, .traceAt, .issue] s (execVeDwconv uid s) := by
  unfold execVeDwconv
  try dsimp only
  repeat' (first
   | with_reducible exact Only.refl _ _
   | with_reducible assumption
   | with_reducible apply OnlyOut.next
   | (with_reducible apply Only.step (State.engineOp_only _ _ _ _); decide)
   | with_reducible apply Only.ite
   | with_reducible apply OnlyOut.ite
   | dsimp only)

theorem execVeMerge_only (uid : Nat) (s : State) : OnlyOut [.now, .freeCount, .cmds, .fetches, .engines, .msix, .pages, .regs, .mem, .hostMem, .badWords, .traceGap, .log, .ctrs, .softWords, .traceFill, .traceAt, .issue] s (execVeMerge uid s) := by
  unfold execVeMerge
  try dsimp only
  repeat' (first
   | with_reducible exact Only.refl _ _
   | with_reducible assumption
   | with_reducible apply OnlyOut.next
   | (with_reducible apply Only.step (State.engineOp_only _ _ _ _); decide)
   | with_reducible apply Only.ite
   | with_reducible apply OnlyOut.ite
   | dsimp only)

theorem execVeOptim_only (uid : Nat) (s : State) : OnlyOut [.now, .freeCount, .cmds, .fetches, .engines, .msix, .pages, .regs, .mem, .hostMem, .badWords, .traceGap, .log, .ctrs, .softWords, .traceFill, .traceAt, .issue] s (execVeOptim uid s) := by
  unfold execVeOptim
  try dsimp only
  repeat' (first
   | with_reducible exact Only.refl _ _
   | with_reducible assumption
   | with_reducible apply OnlyOut.next
   | (with_reducible apply Only.step (State.engineOp_only _ _ _ _); decide)
   | with_reducible apply Only.ite
   | with_reducible apply OnlyOut.ite
   | dsimp only)

theorem State.joinColl_only (s : State) (c : Cmd) (g : Nat) : Only [.cmds, .colls, .msix, .pages, .hostMem, .ctrs] s (State.joinColl s c g) := by
  unfold State.joinColl
  try dsimp only
  repeat' (first
   | with_reducible exact Only.refl _ _
   | with_reducible assumption
   | (with_reducible apply Only.step (State.edge_only _ _ _ _ _ _); decide)
   | (with_reducible apply Only.step (State.putCmd_only _ _); decide)
   | with_reducible apply Only.ite
   | split
   | (with_reducible apply Only.step Only.set_colls; decide)
   | dsimp only)

theorem State.finishColl_only (s : State) (c : Cmd) (g slot : Nat) (x : Coll) : Only [.cmds, .colls, .jobs, .engines, .msix, .pages, .regs, .mem, .hostMem, .badWords, .ctrs, .softWords] s (State.finishColl s c g slot x) := by
  unfold State.finishColl
  try dsimp only
  repeat' (first
   | with_reducible exact Only.refl _ _
   | with_reducible assumption
   | (with_reducible apply Only.step (State.applyWork_only _ _ _ _ _); decide)
   | (with_reducible apply Only.step (State.bump_only _ _ _ _ _); decide)
   | (with_reducible apply Only.step (State.collOver_only _ _ _ _); decide)
   | (with_reducible apply Only.step (State.endCmd_only _ _ _ _); decide)
   | (with_reducible apply Only.step (State.putCmd_only _ _); decide)
   | (with_reducible apply Only.step (State.putJob_only _ _ _); decide)
   | with_reducible apply Only.ite
   | split
   | dsimp only)

theorem State.xreduceRun_only (s : State) (c : Cmd) (g slot : Nat) : Only [.freeCount, .cmds, .colls, .jobs, .engines, .msix, .pages, .regs, .mem, .hostMem, .badWords, .traceGap, .log, .ctrs, .softWords, .traceFill, .traceAt, .issue] s (State.xreduceRun s c g slot) := by
  unfold State.xreduceRun
  try dsimp only
  repeat' (first
   | with_reducible exact Only.refl _ _
   | with_reducible assumption
   | (with_reducible apply Only.step (State.correctWork_only _ _ _ _); decide)
   | (with_reducible apply Only.step (State.endCmd_only _ _ _ _); decide)
   | (with_reducible apply Only.step (State.faultCmd_only _ _ _ _ _); decide)
   | (with_reducible apply Only.step (State.finishColl_only _ _ _ _ _); decide)
   | (with_reducible apply Only.step (State.joinColl_only _ _ _); decide)
   | (with_reducible apply Only.step (State.spendIssue_only _ _ _); decide)
   | (with_reducible apply Only.step (State.starts_only _ _); decide)
   | (with_reducible apply Only.step (State.unitBad_only _ _ _ _ _); decide)
   | with_reducible apply Only.ite
   | split
   | dsimp only)

theorem State.xreduce_only (s : State) (uid : Nat) : Only [.now, .freeCount, .cmds, .fetches, .colls, .jobs, .engines, .msix, .pages, .regs, .mem, .hostMem, .badWords, .traceGap, .log, .ctrs, .softWords, .traceFill, .traceAt, .issue] s (State.xreduce s uid) := by
  unfold State.xreduce
  try dsimp only
  repeat' (first
   | with_reducible exact Only.refl _ _
   | with_reducible assumption
   | (with_reducible apply Only.step (State.beforeRun_only _ _ _ _ _ ‹_›); decide)
   | (with_reducible apply Only.step (State.endUnranked_only _ _ _ _); decide)
   | (with_reducible apply Only.step (State.select_only _ _ _); decide)
   | (with_reducible apply Only.step (State.track_only _); decide)
   | (with_reducible apply Only.step (State.waitingOp_only _ _ _); decide)
   | (with_reducible apply Only.step (State.xreduceRun_only _ _ _ _); decide)
   | with_reducible apply Only.ite
   | split
   | (cases ‹none = some _›; done)
   | (with_reducible apply Only.getD; intro y hy)
   | dsimp only [Option.getD_none]
   | dsimp only)

theorem execVeXreduce_only (uid : Nat) (s : State) : OnlyOut [.now, .freeCount, .cmds, .fetches, .colls, .jobs, .engines, .msix, .pages, .regs, .mem, .hostMem, .badWords, .traceGap, .log, .ctrs, .softWords, .traceFill, .traceAt, .issue] s (execVeXreduce uid s) := by
  unfold execVeXreduce
  try dsimp only
  repeat' (first
   | with_reducible exact Only.refl _ _
   | with_reducible assumption
   | with_reducible apply OnlyOut.next
   | (with_reducible apply Only.step (State.xreduce_only _ _); decide)
   | with_reducible apply Only.ite
   | with_reducible apply OnlyOut.ite
   | dsimp only)

theorem execXpExpand_only (uid : Nat) (s : State) : OnlyOut [.now, .freeCount, .cmds, .fetches, .engines, .msix, .pages, .regs, .mem, .hostMem, .badWords, .traceGap, .log, .ctrs, .softWords, .traceFill, .traceAt, .issue] s (execXpExpand uid s) := by
  unfold execXpExpand
  try dsimp only
  repeat' (first
   | with_reducible exact Only.refl _ _
   | with_reducible assumption
   | with_reducible apply OnlyOut.next
   | (with_reducible apply Only.step (State.engineOp_only _ _ _ _); decide)
   | with_reducible apply Only.ite
   | with_reducible apply OnlyOut.ite
   | dsimp only)

theorem execXpS2c_only (uid : Nat) (s : State) : OnlyOut [.now, .freeCount, .cmds, .fetches, .engines, .msix, .pages, .regs, .mem, .hostMem, .badWords, .traceGap, .log, .ctrs, .softWords, .traceFill, .traceAt, .issue] s (execXpS2c uid s) := by
  unfold execXpS2c
  try dsimp only
  repeat' (first
   | with_reducible exact Only.refl _ _
   | with_reducible assumption
   | with_reducible apply OnlyOut.next
   | (with_reducible apply Only.step (State.engineOp_only _ _ _ _); decide)
   | with_reducible apply Only.ite
   | with_reducible apply OnlyOut.ite
   | dsimp only)

theorem execXpC2s_only (uid : Nat) (s : State) : OnlyOut [.now, .freeCount, .cmds, .fetches, .engines, .msix, .pages, .regs, .mem, .hostMem, .badWords, .traceGap, .log, .ctrs, .softWords, .traceFill, .traceAt, .issue] s (execXpC2s uid s) := by
  unfold execXpC2s
  try dsimp only
  repeat' (first
   | with_reducible exact Only.refl _ _
   | with_reducible assumption
   | with_reducible apply OnlyOut.next
   | (with_reducible apply Only.step (State.engineOp_only _ _ _ _); decide)
   | with_reducible apply Only.ite
   | with_reducible apply OnlyOut.ite
   | dsimp only)

theorem execXpUpsample_only (uid : Nat) (s : State) : OnlyOut [.now, .freeCount, .cmds, .fetches, .engines, .msix, .pages, .regs, .mem, .hostMem, .badWords, .traceGap, .log, .ctrs, .softWords, .traceFill, .traceAt, .issue] s (execXpUpsample uid s) := by
  unfold execXpUpsample
  try dsimp only
  repeat' (first
   | with_reducible exact Only.refl _ _
   | with_reducible assumption
   | with_reducible apply OnlyOut.next
   | (with_reducible apply Only.step (State.engineOp_only _ _ _ _); decide)
   | with_reducible apply Only.ite
   | with_reducible apply OnlyOut.ite
   | dsimp only)

theorem execXpCopy_only (uid : Nat) (s : State) : OnlyOut [.now, .freeCount, .cmds, .fetches, .engines, .msix, .pages, .regs, .mem, .hostMem, .badWords, .traceGap, .log, .ctrs, .softWords, .traceFill, .traceAt, .issue] s (execXpCopy uid s) := by
  unfold execXpCopy
  try dsimp only
  repeat' (first
   | with_reducible exact Only.refl _ _
   | with_reducible assumption
   | with_reducible apply OnlyOut.next
   | (with_reducible apply Only.step (State.engineOp_only _ _ _ _); decide)
   | with_reducible apply Only.ite
   | with_reducible apply OnlyOut.ite
   | dsimp only)

theorem State.postPart_only (s : State) (w : PostWork) : Only [.freeCount, .mem, .badWords, .softWords] s (State.postPart s w) := by
  unfold State.postPart
  try dsimp only
  repeat' (first
   | with_reducible exact Only.refl _ _
   | with_reducible assumption
   | (with_reducible apply Only.step (State.free_only _); decide)
   | (with_reducible apply Only.step (State.putAll_only _ _); decide)
   | with_reducible apply Only.ite
   | dsimp only)

theorem State.postRun_only (s : State) (c : Cmd) (w : PostWork) : Only [.freeCount, .cmds, .msix, .pages, .regs, .mem, .hostMem, .badWords, .traceGap, .log, .ctrs, .softWords, .traceFill, .traceAt, .issue] s (State.postRun s c w) := by
  unfold State.postRun
  try dsimp only
  repeat' (first
   | with_reducible exact Only.refl _ _
   | with_reducible assumption
   | (with_reducible apply Only.step (State.bump_only _ _ _ _ _); decide)
   | (with_reducible apply Only.step (State.correctReads_only _ _ _ _); decide)
   | (with_reducible apply Only.step (State.endCmd_only _ _ _ _); decide)
   | (with_reducible apply Only.step (State.faultCmd_only _ _ _ _ _); decide)
   | (with_reducible apply Only.step (State.irq_only _ _ _ _); decide)
   | (with_reducible apply Only.step (State.postPart_only _ _); decide)
   | (with_reducible apply Only.step (State.pulse_only _ _ _ _ _ _); decide)
   | (with_reducible apply Only.step (State.putAll_only _ _); decide)
   | (with_reducible apply Only.step (State.spendIssue_only _ _ _); decide)
   | (with_reducible apply Only.step (State.starts_only _ _); decide)
   | (with_reducible apply Only.step (State.unitBad_only _ _ _ _ _); decide)
   | with_reducible apply Only.ite
   | split
   | dsimp only)

theorem State.postOp_only (s : State) (uid op : Nat) (work : State → Cmd → PostWork) : Only [.freeCount, .cmds, .fetches, .msix, .pages, .regs, .mem, .hostMem, .badWords, .traceGap, .log, .ctrs, .softWords, .traceFill, .traceAt, .issue] s (State.postOp s uid op work) := by
  unfold State.postOp
  try dsimp only
  repeat' (first
   | with_reducible exact Only.refl _ _
   | with_reducible assumption
   | (with_reducible apply Only.step (State.beforeRun_only _ _ _ _ _ ‹_›); decide)
   | (with_reducible apply Only.step (State.postRun_only _ _ _); decide)
   | with_reducible apply Only.ite
   | split
   | (cases ‹none = some _›; done)
   | (with_reducible apply Only.getD; intro y hy)
   | dsimp only [Option.getD_none]
   | dsimp only)

theorem execPostDecode_only (uid : Nat) (s : State) : OnlyOut [.freeCount, .cmds, .fetches, .msix, .pages, .regs, .mem, .hostMem, .badWords, .traceGap, .log, .ctrs, .softWords, .traceFill, .traceAt, .issue] s (execPostDecode uid s) := by
  unfold execPostDecode
  try dsimp only
  repeat' (first
   | with_reducible exact Only.refl _ _
   | with_reducible assumption
   | with_reducible apply OnlyOut.next
   | (with_reducible apply Only.step (State.postOp_only _ _ _ _); decide)
   | with_reducible apply Only.ite
   | with_reducible apply OnlyOut.ite
   | dsimp only)

theorem execPostSuppress_only (uid : Nat) (s : State) : OnlyOut [.freeCount, .cmds, .fetches, .msix, .pages, .regs, .mem, .hostMem, .badWords, .traceGap, .log, .ctrs, .softWords, .traceFill, .traceAt, .issue] s (execPostSuppress uid s) := by
  unfold execPostSuppress
  try dsimp only
  repeat' (first
   | with_reducible exact Only.refl _ _
   | with_reducible assumption
   | with_reducible apply OnlyOut.next
   | (with_reducible apply Only.step (State.postOp_only _ _ _ _); decide)
   | with_reducible apply Only.ite
   | with_reducible apply OnlyOut.ite
   | dsimp only)

end Sys2Proof.Machine
end

