-- ==== Sys2Proof/Laws/FrameUnits.lean ====
section
/-!
SUPPORT. Which fields of the state each operation can change: ingest, DMA, turns, the matching engine and the raster engine.
-/

-- One proof at a time: the proofs of this file are many, and run together they take many threads at once.
set_option Elab.async false

set_option linter.unusedTactic false
set_option linter.unreachableTactic false

namespace Sys2Proof.Machine

theorem State.meBegin_only (s : State) (c : Cmd) : Only [.freeCount, .cmds, .msix, .pages, .regs, .mem, .hostMem, .badWords, .me, .traceGap, .log, .ctrs, .softWords, .traceFill, .traceAt, .issue] s (State.meBegin s c) := by
  unfold State.meBegin
  try dsimp only
  repeat' (first
   | with_reducible exact Only.refl _ _
   | with_reducible assumption
   | (with_reducible apply Only.step (State.correctReads_only _ _ _ _); decide)
   | (with_reducible apply Only.step (State.edge_only _ _ _ _ _ _); decide)
   | (with_reducible apply Only.step (State.endCmd_only _ _ _ _); decide)
   | (with_reducible apply Only.step (State.err_only _ _ _ _ _ _); decide)
   | (with_reducible apply Only.step (State.faultCmd_only _ _ _ _ _); decide)
   | (with_reducible apply Only.step (State.irq_only _ _ _ _); decide)
   | (with_reducible apply Only.step (State.spendIssue_only _ _ _); decide)
   | (with_reducible apply Only.step (State.starts_only _ _); decide)
   | with_reducible apply Only.ite
   | split
   | (with_reducible apply Only.step Only.set_me; decide)
   | dsimp only)

theorem State.meStart_only (s : State) (uid op : Nat) : Only [.freeCount, .cmds, .msix, .pages, .regs, .mem, .hostMem, .badWords, .me, .traceGap, .log, .ctrs, .softWords, .traceFill, .traceAt, .issue] s (State.meStart s uid op) := by
  unfold State.meStart
  try dsimp only
  repeat' (first
   | with_reducible exact Only.refl _ _
   | with_reducible assumption
   | (with_reducible apply Only.step (State.endCmd_only _ _ _ _); decide)
   | (with_reducible apply Only.step (State.meBegin_only _ _); decide)
   | with_reducible apply Only.ite
   | split
   | dsimp only)

theorem execMeFlow_only (uid : Nat) (s : State) : OnlyOut [.freeCount, .cmds, .engines, .msix, .pages, .regs, .mem, .hostMem, .badWords, .me, .traceGap, .log, .ctrs, .softWords, .traceFill, .traceAt, .issue] s (execMeFlow uid s) := by
  unfold execMeFlow
  try dsimp only
  repeat' (first
   | with_reducible exact Only.refl _ _
   | with_reducible assumption
   | with_reducible apply OnlyOut.next
   | (with_reducible apply Only.step (State.meStart_only _ _ _); decide)
   | (with_reducible apply Only.step (State.track_only _); decide)
   | with_reducible apply Only.ite
   | with_reducible apply OnlyOut.ite
   | dsimp only)

theorem execMeDisparity_only (uid : Nat) (s : State) : OnlyOut [.freeCount, .cmds, .engines, .msix, .pages, .regs, .mem, .hostMem, .badWords, .me, .traceGap, .log, .ctrs, .softWords, .traceFill, .traceAt, .issue] s (execMeDisparity uid s) := by
  unfold execMeDisparity
  try dsimp only
  repeat' (first
   | with_reducible exact Only.refl _ _
   | with_reducible assumption
   | with_reducible apply OnlyOut.next
   | (with_reducible apply Only.step (State.meStart_only _ _ _); decide)
   | (with_reducible apply Only.step (State.track_only _); decide)
   | with_reducible apply Only.ite
   | with_reducible apply OnlyOut.ite
   | dsimp only)

theorem State.spill_only (s : State) (v : Nat) (r : StageRow) : Only [.msix, .pages, .regs, .mem, .hostMem, .badWords, .me, .log, .ctrs, .softWords] s (State.spill s v r) := by
  unfold State.spill
  try dsimp only
  repeat' (first
   | with_reducible exact Only.refl _ _
   | with_reducible assumption
   | (with_reducible apply Only.step (State.bump_only _ _ _ _ _); decide)
   | (with_reducible apply Only.step (State.correctRead_only _ _ _ _ _); decide)
   | (with_reducible apply Only.step (State.irq_only _ _ _ _); decide)
   | with_reducible apply Only.ite
   | (with_reducible apply Only.step Only.set_mem_badWords_softWords_me; decide)
   | dsimp only)

theorem State.stageRow_only (s : State) (c : Cmd) (row : List (Nat × List Byte)) : Only [.cmds, .flags, .msix, .pages, .regs, .mem, .hostMem, .badWords, .me, .ctrs, .softWords] s (State.stageRow s c row) := by
  unfold State.stageRow
  try dsimp only
  repeat' (first
   | with_reducible exact Only.refl _ _
   | with_reducible assumption
   | (with_reducible apply Only.step (State.advance_only _ _ _ _); decide)
   | (with_reducible apply Only.step (State.bump_only _ _ _ _ _); decide)
   | (with_reducible apply Only.step (State.devPut_only _ _ _); decide)
   | (with_reducible apply Only.step (State.endCmd_only _ _ _ _); decide)
   | (with_reducible apply Only.step (State.meDrop_only _); decide)
   | (with_reducible apply Only.step (State.pulse_only _ _ _ _ _ _); decide)
   | (with_reducible apply Only.step (State.putAll_only _ _); decide)
   | (with_reducible apply Only.step (State.putCmd_only _ _); decide)
   | (with_reducible apply Only.step (State.unstall_only _); decide)
   | with_reducible apply Only.ite
   | split
   | (with_reducible apply Only.step Only.set_me; decide)
   | dsimp only)

theorem State.meWait_only (s : State) (credit : Bool) : Only [.msix, .pages, .hostMem, .me, .ctrs] s (State.meWait s credit) := by
  unfold State.meWait
  try dsimp only
  repeat' (first
   | with_reducible exact Only.refl _ _
   | with_reducible assumption
   | (with_reducible apply Only.step (State.edge_only _ _ _ _ _ _); decide)
   | with_reducible apply Only.ite
   | split
   | (with_reducible apply Only.step Only.set_me; decide)
   | dsimp only)

theorem execMeRowStage_only (s : State) : OnlyOut [.cmds, .engines, .flags, .msix, .pages, .regs, .mem, .hostMem, .badWords, .me, .log, .ctrs, .softWords] s (execMeRowStage s) := by
  unfold execMeRowStage
  try dsimp only
  repeat' (first
   | with_reducible exact Only.refl _ _
   | with_reducible assumption
   | with_reducible apply OnlyOut.next
   | (with_reducible apply Only.step (State.meWait_only _ _); decide)
   | (with_reducible apply Only.step (State.spill_only _ _ _); decide)
   | (with_reducible apply Only.step (State.stageRow_only _ _ _); decide)
   | (with_reducible apply Only.step (State.track_only _); decide)
   | with_reducible apply Only.ite
   | with_reducible apply OnlyOut.ite
   | split
   | dsimp only)

theorem execStagingRetentionSpill_only (vslot : Nat) (s : State) : OnlyOut [.now, .msix, .pages, .regs, .mem, .hostMem, .badWords, .me, .log, .ctrs, .softWords] s (execStagingRetentionSpill vslot s) := by
  unfold execStagingRetentionSpill
  try dsimp only
  repeat' (first
   | with_reducible exact Only.refl _ _
   | with_reducible assumption
   | with_reducible apply OnlyOut.next
   | (with_reducible apply Only.step (State.at_only _ _); decide)
   | (with_reducible apply Only.step (State.spill_only _ _ _); decide)
   | with_reducible apply Only.ite
   | with_reducible apply OnlyOut.ite
   | split
   | dsimp only)

theorem execMeRingTimeout_only (s : State) : OnlyOut [.now, .cmds, .engines, .regs, .me] s (execMeRingTimeout s) := by
  unfold execMeRingTimeout
  try dsimp only
  repeat' (first
   | with_reducible exact Only.refl _ _
   | with_reducible assumption
   | with_reducible apply OnlyOut.next
   | (with_reducible apply Only.step (State.at_only _ _); decide)
   | (with_reducible apply Only.step (State.endCmd_only _ _ _ _); decide)
   | (with_reducible apply Only.step (State.track_only _); decide)
   | (with_reducible apply Only.step (State.unstall_only _); decide)
   | with_reducible apply Only.ite
   | with_reducible apply OnlyOut.ite
   | split
   | (with_reducible apply Only.step Only.set_me; decide)
   | dsimp only)

theorem execMeRingStall_only (s : State) : OnlyOut [.now, .msix, .pages, .hostMem] s (execMeRingStall s) := by
  unfold execMeRingStall
  try dsimp only
  repeat' (first
   | with_reducible exact Only.refl _ _
   | with_reducible assumption
   | with_reducible apply OnlyOut.next
   | (with_reducible apply Only.step (State.at_only _ _); decide)
   | (with_reducible apply Only.step (State.irq_only _ _ _ _); decide)
   | with_reducible apply Only.ite
   | with_reducible apply OnlyOut.ite
   | split
   | dsimp only)

theorem execStreamLock_only (enc bpc w h rate : Nat) (progressive prot ctype : Bool) (s : State) : OnlyOut [.msix, .pages, .hostMem, .ingest, .ctrs] s (execStreamLock enc bpc w h rate progressive prot ctype s) := by
  unfold execStreamLock
  try dsimp only
  repeat' (first
   | with_reducible exact Only.refl _ _
   | with_reducible assumption
   | with_reducible apply OnlyOut.next
   | (with_reducible apply Only.step (State.edge_only _ _ _ _ _ _); decide)
   | (with_reducible apply Only.step (State.err_only _ _ _ _ _ _); decide)
   | (with_reducible apply Only.step (State.irq_only _ _ _ _); decide)
   | with_reducible apply Only.ite
   | with_reducible apply OnlyOut.ite
   | split
   | (with_reducible apply Only.step Only.set_ingest; decide)
   | dsimp only)

theorem State.discardFrame_only (s : State) : Only [.msix, .pages, .regs, .hostMem, .ctrs] s (State.discardFrame s) := by
  unfold State.discardFrame
  try dsimp only
  repeat' (first
   | with_reducible exact Only.refl _ _
   | with_reducible assumption
   | (with_reducible apply Only.step (State.bump_only _ _ _ _ _); decide)
   | (with_reducible apply Only.step (State.irq_only _ _ _ _); decide)
   | (with_reducible apply Only.step (State.pulse_only _ _ _ _ _ _); decide)
   | with_reducible apply Only.ite
   | dsimp only)

theorem State.loseStream_only (s : State) : Only [.msix, .pages, .regs, .hostMem, .ingest, .ctrs] s (State.loseStream s) := by
  unfold State.loseStream
  try dsimp only
  repeat' (first
   | with_reducible exact Only.refl _ _
   | with_reducible assumption
   | (with_reducible apply Only.step (State.discardFrame_only _); decide)
   | (with_reducible apply Only.step (State.irq_only _ _ _ _); decide)
   | with_reducible apply Only.ite
   | split
   | (with_reducible apply Only.step Only.set_ingest; decide)
   | dsimp only)

theorem execStreamLost_only (tunnel : Bool) (s : State) : OnlyOut [.link, .msix, .pages, .regs, .hostMem, .ingest, .ctrs] s (execStreamLost tunnel s) := by
  unfold execStreamLost
  try dsimp only
  repeat' (first
   | with_reducible exact Only.refl _ _
   | with_reducible assumption
   | with_reducible apply OnlyOut.next
   | (with_reducible apply Only.step (State.irq_only _ _ _ _); decide)
   | (with_reducible apply Only.step (State.loseStream_only _); decide)
   | with_reducible apply Only.ite
   | with_reducible apply OnlyOut.ite
   | split
   | (with_reducible apply Only.step Only.set_link; decide)
   | dsimp only)

theorem State.beginFrame_only (s : State) (g : Word) (bt2020 full : Bool) (sdps : List (List Byte)) : Only [.regs, .ingest] s (State.beginFrame s g bt2020 full sdps) := by
  unfold State.beginFrame
  try dsimp only
  repeat' (first
   | with_reducible exact Only.refl _ _
   | with_reducible assumption
   | (with_reducible apply Only.step (State.bump_only _ _ _ _ _); decide)
   | with_reducible apply Only.ite
   | split
   | (with_reducible apply Only.step Only.set_ingest; decide)
   | dsimp only)

theorem execDpFrameStart_only (bt2020 full : Bool) (sdps : List (List Byte)) (s : State) : OnlyOut [.msix, .pages, .regs, .hostMem, .ingest, .ctrs] s (execDpFrameStart bt2020 full sdps s) := by
  unfold execDpFrameStart
  try dsimp only
  repeat' (first
   | with_reducible exact Only.refl _ _
   | with_reducible assumption
   | with_reducible apply OnlyOut.next
   | (with_reducible apply Only.step (State.beginFrame_only _ _ _ _ _); decide)
   | (with_reducible apply Only.step (State.discardFrame_only _); decide)
   | with_reducible apply Only.ite
   | with_reducible apply OnlyOut.ite
   | split
   | (with_reducible apply Only.step Only.set_ingest; decide)
   | dsimp only)

theorem State.discardHint_only (s : State) : Only [.msix, .pages, .regs, .hostMem, .ctrs] s (State.discardHint s) := by
  unfold State.discardHint
  try dsimp only
  repeat' (first
   | with_reducible exact Only.refl _ _
   | with_reducible assumption
   | (with_reducible apply Only.step (State.bump_only _ _ _ _ _); decide)
   | (with_reducible apply Only.step (State.irq_only _ _ _ _); decide)
   | (with_reducible apply Only.step (State.pulse_only _ _ _ _ _ _); decide)
   | with_reducible apply Only.ite
   | dsimp only)

theorem State.bindHint_only (s : State) (seq : Word) (found : Bool) (n : Nat) : Only [.msix, .pages, .regs, .hostMem, .ctrs] s (State.bindHint s seq found n) := by
  induction n generalizing s with
  | zero => exact Only.refl _ _
  | succ n ih =>
    unfold State.bindHint
    extract_lets p d q s1 b
    have h1 : Only [.msix, .pages, .regs, .hostMem, .ctrs] s s1 := Only.step (State.setReg_only _ _ _ _ _) (by decide) (Only.refl _ _)
    split
    · split
      · exact Only.step (State.discardHint_only _) (by decide) h1
      · exact h1
    · split
      · exact Only.step (ih _) (by decide) (Only.step (State.discardHint_only _) (by decide) h1)
      · exact Only.refl _ _

theorem State.takeHint_only (s : State) (seq : Word) : Only [.msix, .pages, .regs, .hostMem, .ctrs] s (State.takeHint s seq) := by
  unfold State.takeHint
  try dsimp only
  repeat' (first
   | with_reducible exact Only.refl _ _
   | with_reducible assumption
   | (with_reducible apply Only.step (State.bindHint_only _ _ _ _); decide)
   | with_reducible apply Only.ite
   | dsimp only)

theorem State.frameWritten_only (s : State) (f : SrcFrame) (pixels : List (Nat × Nat × Nat)) : Only [.msix, .pages, .regs, .mem, .hostMem, .badWords, .ctrs, .softWords] s (State.frameWritten s f pixels) := by
  unfold State.frameWritten
  try dsimp only
  repeat' (first
   | with_reducible exact Only.refl _ _
   | with_reducible assumption
   | (with_reducible apply Only.step (State.bump_only _ _ _ _ _); decide)
   | (with_reducible apply Only.step (State.devPut_only _ _ _); decide)
   | (with_reducible apply Only.step (State.pulse_only _ _ _ _ _ _); decide)
   | with_reducible apply Only.ite
   | (with_reducible apply Only.foldl; intro y a hy)
   | dsimp only)

theorem State.completeFrame_only (s : State) (f : SrcFrame) (pixels : List (Nat × Nat × Nat)) : Only [.flags, .msix, .pages, .regs, .mem, .hostMem, .badWords, .me, .ingest, .ctrs, .softWords] s (State.completeFrame s f pixels) := by
  unfold State.completeFrame
  extract_lets s1 raw b g s2
  have hs1 : Only [.flags, .msix, .pages, .regs, .mem, .hostMem, .badWords, .me, .ingest, .ctrs, .softWords] s s1 := by
    unfold s1
    repeat' (first
     | with_reducible exact Only.refl _ _
     | with_reducible assumption
     | (with_reducible apply Only.step (State.advance_only _ _ _ _); decide)
     | (with_reducible apply Only.step (State.frameWritten_only _ _ _); decide)
     | (with_reducible apply Only.step (State.takeHint_only _ _); decide)
     | with_reducible apply Only.ite
     | split
     | (with_reducible apply Only.step Only.set_ingest; decide)
     | dsimp only)
  have hs2 : Only [.flags, .msix, .pages, .regs, .mem, .hostMem, .badWords, .me, .ingest, .ctrs, .softWords] s s2 := by
    unfold s2
    repeat' (first
     | with_reducible exact Only.refl _ _
     | with_reducible assumption
     | (with_reducible apply Only.step (State.advance_only _ _ _ _); decide)
     | (with_reducible apply Only.step (State.frameWritten_only _ _ _); decide)
     | (with_reducible apply Only.step (State.takeHint_only _ _); decide)
     | with_reducible apply Only.ite
     | split
     | (with_reducible apply Only.step Only.set_ingest; decide)
     | dsimp only)
  repeat' (first
   | with_reducible exact Only.refl _ _
   | with_reducible assumption
   | (with_reducible apply Only.step (State.advance_only _ _ _ _); decide)
   | (with_reducible apply Only.step (State.frameWritten_only _ _ _); decide)
   | (with_reducible apply Only.step (State.takeHint_only _ _); decide)
   | with_reducible apply Only.ite
   | split
   | (with_reducible apply Only.step Only.set_ingest; decide)
   | dsimp only)

theorem execIngestFrameComplete_only (pixels : List (Nat × Nat × Nat)) (s : State) : OnlyOut [.engines, .flags, .msix, .pages, .regs, .mem, .hostMem, .badWords, .me, .ingest, .ctrs, .softWords] s (execIngestFrameComplete pixels s) := by
  unfold execIngestFrameComplete
  try dsimp only
  repeat' (first
   | with_reducible exact Only.refl _ _
   | with_reducible assumption
   | with_reducible apply OnlyOut.next
   | (with_reducible apply Only.step (State.completeFrame_only _ _ _); decide)
   | (with_reducible apply Only.step (State.track_only _); decide)
   | with_reducible apply Only.ite
   | with_reducible apply OnlyOut.ite
   | split
   | dsimp only)

theorem State.bufCtrlWrite_only (s : State) (v : Nat) : Only [.pages, .regs] s (State.bufCtrlWrite s v) := by
  unfold State.bufCtrlWrite
  try dsimp only
  repeat' (first
   | with_reducible exact Only.refl _ _
   | with_reducible assumption
   | (with_reducible apply Only.step (State.err_only _ _ _ _ _ _); decide)
   | (with_reducible apply Only.step (State.setReg_only _ _ _ _ _); decide)
   | with_reducible apply Only.ite
   | split
   | dsimp only)

theorem execBufCtrlWrite_only (value : Nat) (s : State) : OnlyOut [.pages, .regs] s (execBufCtrlWrite value s) := by
  unfold execBufCtrlWrite
  try dsimp only
  repeat' (first
   | with_reducible exact Only.refl _ _
   | with_reducible assumption
   | with_reducible apply OnlyOut.next
   | (with_reducible apply Only.step (State.bufCtrlWrite_only _ _); decide)
   | with_reducible apply Only.ite
   | with_reducible apply OnlyOut.ite
   | (with_reducible apply Only.host (by decide); intro y hy)
   | dsimp only)

theorem State.hintProdWrite_only (s : State) (v : Nat) : Only [.regs] s (State.hintProdWrite s v) := by
  unfold State.hintProdWrite
  try dsimp only
  repeat' (first
   | with_reducible exact Only.refl _ _
   | with_reducible assumption
   | (with_reducible apply Only.step (State.setReg_only _ _ _ _ _); decide)
   | with_reducible apply Only.ite
   | dsimp only)

theorem execHintProdWrite_only (value : Nat) (s : State) : OnlyOut [.pages, .regs] s (execHintProdWrite value s) := by
  unfold execHintProdWrite
  try dsimp only
  repeat' (first
   | with_reducible exact Only.refl _ _
   | with_reducible assumption
   | with_reducible apply OnlyOut.next
   | (with_reducible apply Only.step (State.hintProdWrite_only _ _); decide)
   | with_reducible apply Only.ite
   | with_reducible apply OnlyOut.ite
   | (with_reducible apply Only.host (by decide); intro y hy)
   | dsimp only)

theorem State.putChannel_only (s : State) (k : Nat) (c : DmaChannel) : Only [.dma] s (State.putChannel s k c) := by
  unfold State.putChannel
  try dsimp only
  repeat' (first
   | with_reducible exact Only.refl _ _
   | with_reducible assumption
   | with_reducible apply Only.ite
   | (with_reducible apply Only.step Only.set_dma; decide)
   | dsimp only)

theorem State.moveRow_only (s : State) (d : DmaDesc) (r n : Nat) : Only [.mem, .hostMem, .badWords, .softWords] s (State.moveRow s d r n) := by
  unfold State.moveRow
  try dsimp only
  repeat' (first
   | with_reducible exact Only.refl _ _
   | with_reducible assumption
   | (with_reducible apply Only.step (State.devPut_only _ _ _); decide)
   | (with_reducible apply Only.step (State.hostPut_only _ _ _); decide)
   | with_reducible apply Only.ite
   | split
   | dsimp only)

theorem State.moveBytes_only (s : State) (d : DmaDesc) (n : Nat) : Only [.mem, .hostMem, .badWords, .softWords] s (State.moveBytes s d n) := by
  unfold State.moveBytes
  try dsimp only
  repeat' (first
   | with_reducible exact Only.refl _ _
   | with_reducible assumption
   | (with_reducible apply Only.step (State.moveRow_only _ _ _ _); decide)
   | with_reducible apply Only.ite
   | (with_reducible apply Only.foldl; intro y a hy)
   | split
   | dsimp only)

theorem State.countMoved_only (s : State) (job k n : Nat) : Only [.msix, .dma, .pages, .hostMem, .ctrs] s (State.countMoved s job k n) := by
  unfold State.countMoved
  try dsimp only
  repeat' (first
   | with_reducible exact Only.refl _ _
   | with_reducible assumption
   | (with_reducible apply Only.step (State.pulse_only _ _ _ _ _ _); decide)
   | (with_reducible apply Only.step (State.putChannel_only _ _ _); decide)
   | with_reducible apply Only.ite
   | dsimp only)

theorem State.runDesc_only (s : State) (job k : Nat) (d : DmaDesc) : Only [.freeCount, .msix, .dma, .pages, .regs, .mem, .hostMem, .badWords, .log, .ctrs, .softWords] s (State.runDesc s job k d).1 := by
  unfold State.runDesc
  try dsimp only
  repeat' (first
   | with_reducible exact Only.refl _ _
   | with_reducible assumption
   | (with_reducible apply Only.step (State.correctReads_only _ _ _ _); decide)
   | (with_reducible apply Only.step (State.countMoved_only _ _ _ _); decide)
   | (with_reducible apply Only.step (State.err_only _ _ _ _ _ _); decide)
   | (with_reducible apply Only.step (State.free_only _); decide)
   | (with_reducible apply Only.step (State.irq_only _ _ _ _); decide)
   | (with_reducible apply Only.step (State.moveBytes_only _ _ _); decide)
   | with_reducible apply Only.ite
   | split
   | dsimp only)

theorem State.runList_only (s : State) (job k list : Nat) (host : Bool) (i n : Nat) : Only [.freeCount, .msix, .dma, .pages, .regs, .mem, .hostMem, .badWords, .log, .ctrs, .softWords] s (State.runList s job k list host i n).1 := by
  induction n generalizing s i with
  | zero => exact Only.refl _ _
  | succ n ih =>
    unfold State.runList
    extract_lets a t r
    have ht : Only [.freeCount, .msix, .dma, .pages, .regs, .mem, .hostMem, .badWords, .log, .ctrs, .softWords] s t := by
      unfold t
      split
      · exact Only.refl _ _
      · exact Only.step (State.correctReads_only _ _ _ _) (by decide) (Only.refl _ _)
    have hr : Only [.freeCount, .msix, .dma, .pages, .regs, .mem, .hostMem, .badWords, .log, .ctrs, .softWords] s r.1 := Only.step (State.runDesc_only _ _ _ _) (by decide) ht
    split
    · dsimp only
      split
      · exact Only.step (State.irq_only _ _ _ _) (by decide) (Only.refl _ _)
      · exact Only.refl _ _
    · split
      · exact Only.step (State.irq_only _ _ _ _) (by decide) (Only.step (State.err_only _ _ _ _ _ _) (by decide) (Only.refl _ _))
      · split
        · exact hr
        · exact Only.step (ih _ _) (by decide) (Only.step (State.pulse_only _ _ _ _ _ _) (by decide) hr)

theorem State.listPart_only (s : State) (job k list : Nat) (host : Bool) (i budget n : Nat) :
    Only [.freeCount, .msix, .dma, .pages, .regs, .mem, .hostMem, .badWords, .log, .ctrs, .softWords] s (State.listPart s job k list host i budget n) := by
  induction n generalizing s i budget with
  | zero => exact Only.refl _ _
  | succ n ih =>
    have hr : ∀ d, Only [.freeCount, .msix, .dma, .pages, .regs, .mem, .hostMem, .badWords, .log, .ctrs, .softWords] s (s.runDesc job k d).1 := fun d => Only.step (State.runDesc_only _ _ _ _) (by decide) (Only.refl _ _)
    unfold State.listPart
    extract_lets a d m
    clear_value d m
    split
    · rename_i t h
      have ht : Only [.freeCount, .msix, .dma, .pages, .regs, .mem, .hostMem, .badWords, .log, .ctrs, .softWords] s t := by have := hr d; rw [h] at this; exact this
      split
      · exact Only.step (State.countMoved_only _ _ _ _) (by decide) (Only.step (State.moveBytes_only _ _ _) (by decide) (Only.refl _ _))
      · exact Only.step (ih _ _ _) (by decide) ht
    · exact Only.refl _ _

theorem State.dmaRun_only (s : State) (c : Cmd) (k : Nat) : Only [.freeCount, .cmds, .msix, .dma, .pages, .regs, .mem, .hostMem, .badWords, .traceGap, .log, .ctrs, .softWords, .traceFill, .traceAt] s (State.dmaRun s c k) := by
  unfold State.dmaRun
  try dsimp only
  repeat' (first
   | with_reducible exact Only.refl _ _
   | with_reducible assumption
   | (with_reducible apply Only.step (State.endCmd_only _ _ _ _); decide)
   | (with_reducible apply Only.step (State.faultCmd_only _ _ _ _ _); decide)
   | (with_reducible apply Only.step (State.runList_only _ _ _ _ _ _ _); decide)
   | (with_reducible apply Only.step (State.starts_only _ _); decide)
   | with_reducible apply Only.ite
   | split
   | dsimp only)

theorem execDmaCopy_only (uid : Nat) (s : State) : OnlyOut [.freeCount, .cmds, .engines, .msix, .dma, .pages, .regs, .mem, .hostMem, .badWords, .traceGap, .log, .ctrs, .softWords, .traceFill, .traceAt] s (execDmaCopy uid s) := by
  unfold execDmaCopy
  try dsimp only
  repeat' (first
   | with_reducible exact Only.refl _ _
   | with_reducible assumption
   | with_reducible apply OnlyOut.next
   | (with_reducible apply Only.step (State.dmaRun_only _ _ _); decide)
   | (with_reducible apply Only.step (State.track_only _); decide)
   | with_reducible apply Only.ite
   | with_reducible apply OnlyOut.ite
   | split
   | dsimp only)

theorem State.channelCtrl_only (s : State) (k v : Nat) : Only [.cmds, .engines, .dma] s (State.channelCtrl s k v) := by
  unfold State.channelCtrl
  try dsimp only
  repeat' (first
   | with_reducible exact Only.refl _ _
   | with_reducible assumption
   | (with_reducible apply Only.step (State.endAll_only _ _ _ _); decide)
   | (with_reducible apply Only.step (State.putChannel_only _ _ _); decide)
   | (with_reducible apply Only.step (State.track_only _); decide)
   | with_reducible apply Only.ite
   | split
   | dsimp only)

theorem execDmaChannelDisable_only (channel : Nat) (s : State) : OnlyOut [.cmds, .engines, .dma, .pages] s (execDmaChannelDisable channel s) := by
  unfold execDmaChannelDisable
  try dsimp only
  repeat' (first
   | with_reducible exact Only.refl _ _
   | with_reducible assumption
   | with_reducible apply OnlyOut.next
   | (with_reducible apply Only.step (State.channelCtrl_only _ _ _); decide)
   | with_reducible apply Only.ite
   | with_reducible apply OnlyOut.ite
   | (with_reducible apply Only.host (by decide); intro y hy)
   | split
   | dsimp only)

theorem State.putPass_only (s : State) (p : RPass) : Only [.raster] s (State.putPass s p) := by
  unfold State.putPass
  try dsimp only
  repeat' (first
   | with_reducible exact Only.refl _ _
   | with_reducible assumption
   | with_reducible apply Only.ite
   | split
   | (with_reducible apply Only.step Only.set_raster; decide)
   | dsimp only)

theorem State.dropPass_only (s : State) (uid : Nat) : Only [.raster] s (State.dropPass s uid) := by
  unfold State.dropPass
  try dsimp only
  repeat' (first
   | with_reducible exact Only.refl _ _
   | with_reducible assumption
   | with_reducible apply Only.ite
   | (with_reducible apply Only.step Only.set_raster; decide)
   | dsimp only)

theorem State.freshChunks_only (s : State) (used : List Nat) (b : BinLists) : Only [.raster] s (State.freshChunks s used b) := by
  unfold State.freshChunks
  try dsimp only
  repeat' (first
   | with_reducible exact Only.refl _ _
   | with_reducible assumption
   | with_reducible apply Only.ite
   | (with_reducible apply Only.step Only.set_raster; decide)
   | dsimp only)

theorem State.chunkError_only (s : State) (e : Nat × Nat) : Only [.msix, .pages, .hostMem] s (State.chunkError s e) := by
  unfold State.chunkError
  try dsimp only
  repeat' (first
   | with_reducible exact Only.refl _ _
   | with_reducible assumption
   | (with_reducible apply Only.step (State.err_only _ _ _ _ _ _); decide)
   | (with_reducible apply Only.step (State.irq_only _ _ _ _); decide)
   | with_reducible apply Only.ite
   | split
   | dsimp only)

theorem State.markOsd_only (s : State) (p : RPass) (k : Nat) : Only [.mem, .badWords, .raster, .softWords] s (State.markOsd s p k) := by
  unfold State.markOsd
  try dsimp only
  repeat' (first
   | with_reducible exact Only.refl _ _
   | with_reducible assumption
   | (with_reducible apply Only.step (State.putEntry_only _ _ _ _); decide)
   | with_reducible apply Only.ite
   | split
   | (with_reducible apply Only.step Only.set_raster; decide)
   | dsimp only)

theorem State.markBinned_only (s : State) (f : Nat) : Only [.mem, .badWords, .raster, .softWords] s (State.markBinned s f) := by
  unfold State.markBinned
  try dsimp only
  repeat' (first
   | with_reducible exact Only.refl _ _
   | with_reducible assumption
   | (with_reducible apply Only.step (State.putHead_only _ _ _ _ _); decide)
   | with_reducible apply Only.ite
   | split
   | (with_reducible apply Only.step Only.set_raster; decide)
   | dsimp only)

theorem State.readyTile_only (s : State) (f t : Nat) : Only [.mem, .badWords, .softWords] s (State.readyTile s f t) := by
  unfold State.readyTile
  try dsimp only
  repeat' (first
   | with_reducible exact Only.refl _ _
   | with_reducible assumption
   | (with_reducible apply Only.step (State.setTileState_only _ _ _ _); decide)
   | with_reducible apply Only.ite
   | split
   | dsimp only)

theorem State.readyTiles_only (s : State) (f : Nat) : Only [.mem, .badWords, .softWords] s (State.readyTiles s f) := by
  unfold State.readyTiles
  try dsimp only
  repeat' (first
   | with_reducible exact Only.refl _ _
   | with_reducible assumption
   | (with_reducible apply Only.step (State.readyTile_only _ _ _); decide)
   | with_reducible apply Only.ite
   | (with_reducible apply Only.foldl; intro y a hy)
   | dsimp only)

theorem State.endPass_only (s : State) (p : RPass) : Only [.cmds, .msix, .pages, .hostMem, .raster] s (State.endPass s p) := by
  unfold State.endPass
  try dsimp only
  repeat' (first
   | with_reducible exact Only.refl _ _
   | with_reducible assumption
   | (with_reducible apply Only.step (State.dropPass_only _ _); decide)
   | (with_reducible apply Only.step (State.endCmd_only _ _ _ _); decide)
   | (with_reducible apply Only.step (State.faultWith_only _ _ _ _ _); decide)
   | (with_reducible apply Only.step (State.rasterRest_only _); decide)
   | with_reducible apply Only.ite
   | split
   | dsimp only)

theorem State.dropDead_only (s : State) : Only [.raster] s (State.dropDead s) := by
  unfold State.dropDead
  try dsimp only
  repeat' (first
   | with_reducible exact Only.refl _ _
   | with_reducible assumption
   | with_reducible apply Only.ite
   | (with_reducible apply Only.step Only.set_raster; decide)
   | dsimp only)

theorem State.settleRaster_only (s : State) : Only [.cmds, .msix, .pages, .hostMem, .raster] s (State.settleRaster s) := by
  unfold State.settleRaster
  try dsimp only
  repeat' (first
   | with_reducible exact Only.refl _ _
   | with_reducible assumption
   | (with_reducible apply Only.step (State.dropDead_only _); decide)
   | (with_reducible apply Only.step (State.endPass_only _ _); decide)
   | with_reducible apply Only.ite
   | (with_reducible apply Only.foldl; intro y a hy)
   | dsimp only)

theorem State.flushBin_only (s : State) (uid k : Nat) : Only [.msix, .pages, .regs, .mem, .hostMem, .badWords, .raster, .log, .ctrs, .softWords] s (State.flushBin s uid k) := by
  unfold State.flushBin
  try dsimp only
  repeat' (first
   | with_reducible exact Only.refl _ _
   | with_reducible assumption
   | (with_reducible apply Only.step (State.bump_only _ _ _ _ _); decide)
   | (with_reducible apply Only.step (State.chunkError_only _ _); decide)
   | (with_reducible apply Only.step (State.correctReads_only _ _ _ _); decide)
   | (with_reducible apply Only.step (State.devPut_only _ _ _); decide)
   | (with_reducible apply Only.step (State.pulse_only _ _ _ _ _ _); decide)
   | (with_reducible apply Only.step (State.putAll_only _ _); decide)
   | (with_reducible apply Only.step (State.putPass_only _ _); decide)
   | (with_reducible apply Only.step (State.readyTile_only _ _ _); decide)
   | with_reducible apply Only.ite
   | split
   | dsimp only)

theorem State.partialFlush_only (s : State) : Only [.cmds, .msix, .pages, .regs, .mem, .hostMem, .badWords, .raster, .log, .ctrs, .softWords] s (State.partialFlush s) := by
  unfold State.partialFlush
  try dsimp only
  repeat' (first
   | with_reducible exact Only.refl _ _
   | with_reducible assumption
   | (with_reducible apply Only.step (State.flushBin_only _ _ _); decide)
   | (with_reducible apply Only.step (State.irq_only _ _ _ _); decide)
   | (with_reducible apply Only.step (State.settleRaster_only _); decide)
   | with_reducible apply Only.ite
   | (with_reducible apply Only.foldl; intro y a hy)
   | split
   | dsimp only)

theorem State.addRef_only (s : State) (p : RPass) (x : Packet) (k : Nat) (fresh : Bool) : Only [.mem, .badWords, .raster, .softWords] s (State.addRef s p x k fresh).1 := by
  unfold State.addRef
  try dsimp only
  repeat' (first
   | with_reducible exact Only.refl _ _
   | with_reducible assumption
   | (with_reducible apply Only.step (State.freshChunks_only _ _ _); decide)
   | (with_reducible apply Only.step (State.markOsd_only _ _ _); decide)
   | (with_reducible apply Only.step (State.putPass_only _ _); decide)
   | with_reducible apply Only.ite
   | split
   | dsimp only)

theorem State.setDrawn_only (s : State) (uid : Nat) (d : Nat × Nat) : Only [.raster] s (State.setDrawn s uid d) := by
  unfold State.setDrawn
  try dsimp only
  repeat' (first
   | with_reducible exact Only.refl _ _
   | with_reducible assumption
   | with_reducible apply Only.ite
   | (with_reducible apply Only.step Only.set_raster; decide)
   | dsimp only)

theorem State.park_only (s : State) (uid : Nat) : Only [.msix, .pages, .hostMem, .raster, .ctrs] s (State.park s uid) := by
  unfold State.park
  try dsimp only
  repeat' (first
   | with_reducible exact Only.refl _ _
   | with_reducible assumption
   | (with_reducible apply Only.step (State.edge_only _ _ _ _ _ _); decide)
   | with_reducible apply Only.ite
   | (with_reducible apply Only.step Only.set_raster; decide)
   | dsimp only)

theorem State.growFault_only (s : State) (uid : Nat) : Only [.freeCount, .msix, .pages, .hostMem, .raster, .ctrs] s (State.growFault s uid) := by
  unfold State.growFault
  try dsimp only
  repeat' (first
   | with_reducible exact Only.refl _ _
   | with_reducible assumption
   | (with_reducible apply Only.step (State.edge_only _ _ _ _ _ _); decide)
   | (with_reducible apply Only.step (State.free_only _); decide)
   | (with_reducible apply Only.step (State.irq_only _ _ _ _); decide)
   | with_reducible apply Only.ite
   | (with_reducible apply Only.step Only.set_raster; decide)
   | dsimp only)

theorem State.refInto_only (s : State) (c : Cmd) (x : Packet) (e : Nat × Nat) : Only [.mem, .badWords, .raster, .softWords] s (State.refInto s c x e).1 := by
  unfold State.refInto
  try dsimp only
  repeat' (first
   | with_reducible exact Only.refl _ _
   | with_reducible assumption
   | (with_reducible apply Only.step (State.addRef_only _ _ _ _ _); decide)
   | with_reducible apply Only.ite
   | split
   | dsimp only)

theorem State.refOne_only (c : Cmd) (late : Option (Nat × Nat)) (x : Packet) (acc : State × Bool) (e : Nat × Nat) : Only [.freeCount, .cmds, .msix, .pages, .regs, .mem, .hostMem, .badWords, .raster, .log, .ctrs, .softWords] acc.1 (State.refOne c late x acc e).1 := by
  unfold State.refOne
  try dsimp only
  repeat' (first
   | with_reducible exact Only.refl _ _
   | with_reducible assumption
   | (with_reducible apply Only.step (State.growFault_only _ _); decide)
   | (with_reducible apply Only.step (State.park_only _ _); decide)
   | (with_reducible apply Only.step (State.partialFlush_only _); decide)
   | (with_reducible apply Only.step (State.refInto_only _ _ _ _); decide)
   | (with_reducible apply Only.step (State.setDrawn_only _ _ _); decide)
   | with_reducible apply Only.ite
   | split
   | dsimp only)

theorem State.recordOne_only (c : Cmd) (late : Option (Nat × Nat)) (acc : State × Bool) (x : Packet) : Only [.freeCount, .cmds, .msix, .pages, .regs, .mem, .hostMem, .badWords, .raster, .log, .ctrs, .softWords] acc.1 (State.recordOne c late acc x).1 := by
  unfold State.recordOne
  try dsimp only
  repeat' (first
   | with_reducible exact Only.refl _ _
   | with_reducible assumption
   | (with_reducible apply Only.step (State.bump_only _ _ _ _ _); decide)
   | (with_reducible apply Only.step (State.pulse_only _ _ _ _ _ _); decide)
   | (with_reducible apply Only.step (State.refOne_only _ _ _ _ _); decide)
   | (with_reducible apply Only.step (State.setDrawn_only _ _ _); decide)
   | with_reducible apply Only.ite
   | (with_reducible apply Only.foldl_fst; intro y a r hr hy; subst hr)
   | split
   | dsimp only)

theorem State.drawLate_only (s : State) (c : Cmd) (late : Option (Nat × Nat)) : Only [.freeCount, .cmds, .msix, .pages, .regs, .mem, .hostMem, .badWords, .raster, .log, .ctrs, .softWords] s (State.drawLate s c late) := by
  unfold State.drawLate
  try dsimp only
  repeat' (first
   | with_reducible exact Only.refl _ _
   | with_reducible assumption
   | (with_reducible apply Only.step (State.correctReads_only _ _ _ _); decide)
   | (with_reducible apply Only.step (State.endCmd_only _ _ _ _); decide)
   | (with_reducible apply Only.step (State.faultCmd_only _ _ _ _ _); decide)
   | (with_reducible apply Only.step (State.recordOne_only _ _ _ _); decide)
   | with_reducible apply Only.ite
   | (with_reducible apply Only.foldl_fst; intro y a r hr hy; subst hr)
   | split
   | (with_reducible apply Only.step Only.set_raster; decide)
   | dsimp only)

theorem State.drawOn_only (s : State) (c : Cmd) : Only [.freeCount, .cmds, .msix, .pages, .regs, .mem, .hostMem, .badWords, .raster, .log, .ctrs, .softWords] s (State.drawOn s c) := by
  unfold State.drawOn
  try dsimp only
  repeat' (first
   | with_reducible exact Only.refl _ _
   | with_reducible assumption
   | (with_reducible apply Only.step (State.drawLate_only _ _ _); decide)
   | with_reducible apply Only.ite
   | dsimp only)

theorem Only.rasterOp {gs : List StateField} {s x : State} {uid op : Nat} {fails : State → Cmd → List (Status × Nat)}
    {go : State → Cmd → State} (hm : fieldMask [.cmds, .engines, .msix, .pages, .hostMem, .raster] &&& fieldMask gs = fieldMask [.cmds, .engines, .msix, .pages, .hostMem, .raster])
    (hgo : ∀ y c, Only gs s y → Only gs s (go y c)) (hx : Only gs s x) : Only gs s (x.rasterOp uid op fails go) := by
  have key : ∀ y, Only gs s y → Only gs s y.rasterRest.track := fun y hy =>
    Only.step (fs := [.cmds, .engines, .msix, .pages, .hostMem, .raster]) (Only.step (State.track_only _) (by decide) (Only.step (State.rasterRest_only _) (by decide) (Only.refl _ _))) hm hy
  have hend : ∀ st k, Only gs s (x.endCmd uid st k) := fun st k =>
    Only.step (fs := [.cmds, .engines, .msix, .pages, .hostMem, .raster]) (Only.step (State.endCmd_only _ _ _ _) (by decide) (Only.refl _ _)) hm hx
  unfold State.rasterOp
  split
  · exact hx
  · refine key _ ?_
    split
    · exact hgo _ _ hx
    · split
      · exact hend _ _
      · split
        · exact hend _ _
        · exact hgo _ _ hx

theorem State.passOpen_only (s : State) (c : Cmd) : Only [.cmds, .msix, .pages, .regs, .mem, .hostMem, .badWords, .raster, .traceGap, .log, .ctrs, .softWords, .traceFill, .traceAt] s (State.passOpen s c) := by
  unfold State.passOpen
  try dsimp only
  repeat' (first
   | with_reducible exact Only.refl _ _
   | with_reducible assumption
   | (with_reducible apply Only.step (State.correctReads_only _ _ _ _); decide)
   | (with_reducible apply Only.step (State.endCmd_only _ _ _ _); decide)
   | (with_reducible apply Only.step (State.faultCmd_only _ _ _ _ _); decide)
   | (with_reducible apply Only.step (State.starts_only _ _); decide)
   | with_reducible apply Only.ite
   | split
   | (with_reducible apply Only.step Only.set_raster; decide)
   | dsimp only)

theorem execRsPassOpen_only (uid : Nat) (s : State) : OnlyOut [.cmds, .engines, .msix, .pages, .regs, .mem, .hostMem, .badWords, .raster, .traceGap, .log, .ctrs, .softWords, .traceFill, .traceAt] s (execRsPassOpen uid s) := by
  unfold execRsPassOpen
  try dsimp only
  repeat' (first
   | with_reducible exact Only.refl _ _
   | with_reducible assumption
   | with_reducible apply OnlyOut.next
   | (with_reducible apply Only.step (State.passOpen_only _ _); decide)
   | with_reducible apply Only.ite
   | with_reducible apply OnlyOut.ite
   | (with_reducible apply Only.rasterOp (by decide); intro y c hy)
   | dsimp only)

theorem State.drawStart_only (s : State) (c : Cmd) : Only [.freeCount, .cmds, .msix, .pages, .regs, .mem, .hostMem, .badWords, .raster, .traceGap, .log, .ctrs, .softWords, .traceFill, .traceAt] s (State.drawStart s c) := by
  unfold State.drawStart
  try dsimp only
  repeat' (first
   | with_reducible exact Only.refl _ _
   | with_reducible assumption
   | (with_reducible apply Only.step (State.drawOn_only _ _); decide)
   | (with_reducible apply Only.step (State.starts_only _ _); decide)
   | with_reducible apply Only.ite
   | split
   | dsimp only)

theorem execRsDraw_only (uid : Nat) (s : State) : OnlyOut [.freeCount, .cmds, .engines, .msix, .pages, .regs, .mem, .hostMem, .badWords, .raster, .traceGap, .log, .ctrs, .softWords, .traceFill, .traceAt] s (execRsDraw uid s) := by
  unfold execRsDraw
  try dsimp only
  repeat' (first
   | with_reducible exact Only.refl _ _
   | with_reducible assumption
   | with_reducible apply OnlyOut.next
   | (with_reducible apply Only.step (State.drawStart_only _ _); decide)
   | with_reducible apply Only.ite
   | with_reducible apply OnlyOut.ite
   | (with_reducible apply Only.rasterOp (by decide); intro y c hy)
   | dsimp only)

theorem State.resumeStalled_only (s : State) : Only [.freeCount, .cmds, .msix, .pages, .regs, .mem, .hostMem, .badWords, .raster, .log, .ctrs, .softWords] s (State.resumeStalled s) := by
  unfold State.resumeStalled
  try dsimp only
  repeat' (first
   | with_reducible exact Only.refl _ _
   | with_reducible assumption
   | (with_reducible apply Only.step (State.drawOn_only _ _); decide)
   | with_reducible apply Only.ite
   | (with_reducible apply Only.foldl; intro y a hy)
   | split
   | dsimp only)

theorem execGrowTimeout_only (uid : Nat) (s : State) : OnlyOut [.now, .freeCount, .cmds, .engines, .msix, .pages, .regs, .mem, .hostMem, .badWords, .raster, .log, .ctrs, .softWords] s (execGrowTimeout uid s) := by
  unfold execGrowTimeout
  try dsimp only
  repeat' (first
   | with_reducible exact Only.refl _ _
   | with_reducible assumption
   | with_reducible apply OnlyOut.next
   | (with_reducible apply Only.step (State.at_only _ _); decide)
   | (with_reducible apply Only.step (State.bump_only _ _ _ _ _); decide)
   | (with_reducible apply Only.step (State.drawLate_only _ _ _); decide)
   | (with_reducible apply Only.step (State.irq_only _ _ _ _); decide)
   | (with_reducible apply Only.step (State.resumeStalled_only _); decide)
   | (with_reducible apply Only.step (State.track_only _); decide)
   | with_reducible apply Only.ite
   | with_reducible apply OnlyOut.ite
   | split
   | dsimp only)

theorem execRasterUnpark_only (uid : Nat) (s : State) : OnlyOut [.freeCount, .cmds, .engines, .msix, .pages, .regs, .mem, .hostMem, .badWords, .raster, .log, .ctrs, .softWords] s (execRasterUnpark uid s) := by
  unfold execRasterUnpark
  try dsimp only
  repeat' (first
   | with_reducible exact Only.refl _ _
   | with_reducible assumption
   | with_reducible apply OnlyOut.next
   | (with_reducible apply Only.step (State.drawOn_only _ _); decide)
   | (with_reducible apply Only.step (State.track_only _); decide)
   | with_reducible apply Only.ite
   | with_reducible apply OnlyOut.ite
   | split
   | dsimp only)

theorem State.passClose_only (s : State) (c : Cmd) : Only [.freeCount, .cmds, .msix, .pages, .regs, .mem, .hostMem, .badWords, .raster, .traceGap, .log, .ctrs, .softWords, .traceFill, .traceAt] s (State.passClose s c) := by
  unfold State.passClose
  try dsimp only
  repeat' (first
   | with_reducible exact Only.refl _ _
   | with_reducible assumption
   | (with_reducible apply Only.step (State.endPass_only _ _); decide)
   | (with_reducible apply Only.step (State.markBinned_only _ _); decide)
   | (with_reducible apply Only.step (State.putPass_only _ _); decide)
   | (with_reducible apply Only.step (State.readyTiles_only _ _); decide)
   | (with_reducible apply Only.step (State.resumeStalled_only _); decide)
   | (with_reducible apply Only.step (State.starts_only _ _); decide)
   | with_reducible apply Only.ite
   | split
   | dsimp only)

theorem execRsPassClose_only (uid : Nat) (s : State) : OnlyOut [.freeCount, .cmds, .engines, .msix, .pages, .regs, .mem, .hostMem, .badWords, .raster, .traceGap, .log, .ctrs, .softWords, .traceFill, .traceAt] s (execRsPassClose uid s) := by
  unfold execRsPassClose
  try dsimp only
  repeat' (first
   | with_reducible exact Only.refl _ _
   | with_reducible assumption
   | with_reducible apply OnlyOut.next
   | (with_reducible apply Only.step (State.passClose_only _ _); decide)
   | with_reducible apply Only.ite
   | with_reducible apply OnlyOut.ite
   | (with_reducible apply Only.rasterOp (by decide); intro y c hy)
   | dsimp only)

theorem State.growPageAdd_only (s : State) (hi : Nat) : Only [.freeCount, .cmds, .msix, .pages, .regs, .mem, .hostMem, .badWords, .raster, .log, .ctrs, .softWords] s (State.growPageAdd s hi) := by
  unfold State.growPageAdd
  try dsimp only
  repeat' (first
   | with_reducible exact Only.refl _ _
   | with_reducible assumption
   | (with_reducible apply Only.step (State.err_only _ _ _ _ _ _); decide)
   | (with_reducible apply Only.step (State.resumeStalled_only _); decide)
   | with_reducible apply Only.ite
   | split
   | (with_reducible apply Only.step Only.set_raster; decide)
   | dsimp only)

theorem execGrowPageAdd_only (value : Nat) (s : State) : OnlyOut [.freeCount, .cmds, .engines, .msix, .pages, .regs, .mem, .hostMem, .badWords, .raster, .log, .ctrs, .softWords] s (execGrowPageAdd value s) := by
  unfold execGrowPageAdd
  try dsimp only
  repeat' (first
   | with_reducible exact Only.refl _ _
   | with_reducible assumption
   | with_reducible apply OnlyOut.next
   | (with_reducible apply Only.step (State.growPageAdd_only _ _); decide)
   | (with_reducible apply Only.step (State.track_only _); decide)
   | with_reducible apply Only.ite
   | with_reducible apply OnlyOut.ite
   | (with_reducible apply Only.hostWo; intro y hy)
   | dsimp only)

theorem State.putTile_only (s : State) (w : RTile) : Only [.raster] s (State.putTile s w) := by
  unfold State.putTile
  try dsimp only
  repeat' (first
   | with_reducible exact Only.refl _ _
   | with_reducible assumption
   | with_reducible apply Only.ite
   | split
   | (with_reducible apply Only.step Only.set_raster; decide)
   | dsimp only)

theorem State.addTile_only (s : State) (w : RTile) : Only [.raster] s (State.addTile s w) := by
  unfold State.addTile
  try dsimp only
  repeat' (first
   | with_reducible exact Only.refl _ _
   | with_reducible assumption
   | with_reducible apply Only.ite
   | (with_reducible apply Only.step Only.set_raster; decide)
   | dsimp only)

theorem State.dropTile_only (s : State) (uid : Nat) : Only [.raster] s (State.dropTile s uid) := by
  unfold State.dropTile
  try dsimp only
  repeat' (first
   | with_reducible exact Only.refl _ _
   | with_reducible assumption
   | with_reducible apply Only.ite
   | (with_reducible apply Only.step Only.set_raster; decide)
   | dsimp only)

theorem State.endTile_only (s : State) (uid : Nat) (st : Status) (cause : Nat) : Only [.cmds, .raster] s (State.endTile s uid st cause) := by
  unfold State.endTile
  try dsimp only
  repeat' (first
   | with_reducible exact Only.refl _ _
   | with_reducible assumption
   | (with_reducible apply Only.step (State.dropTile_only _ _); decide)
   | (with_reducible apply Only.step (State.endCmd_only _ _ _ _); decide)
   | with_reducible apply Only.ite
   | dsimp only)

theorem State.failTile_only (s : State) (uid : Nat) (e : Nat × Nat) : Only [.cmds, .msix, .pages, .hostMem, .raster] s (State.failTile s uid e) := by
  unfold State.failTile
  try dsimp only
  repeat' (first
   | with_reducible exact Only.refl _ _
   | with_reducible assumption
   | (with_reducible apply Only.step (State.chunkError_only _ _); decide)
   | (with_reducible apply Only.step (State.dropTile_only _ _); decide)
   | (with_reducible apply Only.step (State.faultCmd_only _ _ _ _ _); decide)
   | with_reducible apply Only.ite
   | dsimp only)

theorem State.meshRef_only (uid : Nat) (x : Packet) (acc : State × Bool) (e : Nat × Nat) : Only [.raster] acc.1 (State.meshRef uid x acc e).1 := by
  unfold State.meshRef
  try dsimp only
  repeat' (first
   | with_reducible exact Only.refl _ _
   | with_reducible assumption
   | (with_reducible apply Only.step (State.freshChunks_only _ _ _); decide)
   | (with_reducible apply Only.step (State.putTile_only _ _); decide)
   | with_reducible apply Only.ite
   | split
   | dsimp only)

theorem State.meshOne_only (c : Cmd) (d : WarpDesc) (acc : State × Bool) (t : Nat × (Nat × Nat) × Bool) : Only [.msix, .pages, .regs, .hostMem, .raster, .ctrs] acc.1 (State.meshOne c d acc t).1 := by
  unfold State.meshOne
  try dsimp only
  repeat' (first
   | with_reducible exact Only.refl _ _
   | with_reducible assumption
   | (with_reducible apply Only.step (State.bump_only _ _ _ _ _); decide)
   | (with_reducible apply Only.step (State.meshRef_only _ _ _ _); decide)
   | (with_reducible apply Only.step (State.pulse_only _ _ _ _ _ _); decide)
   | (with_reducible apply Only.step (State.putTile_only _ _); decide)
   | with_reducible apply Only.ite
   | (with_reducible apply Only.foldl_fst; intro y a r hr hy; subst hr)
   | split
   | dsimp only)

theorem State.warpOn_only (s : State) (c : Cmd) (w : RTile) : Only [.cmds, .msix, .pages, .regs, .mem, .hostMem, .badWords, .raster, .log, .ctrs, .softWords] s (State.warpOn s c w) := by
  unfold State.warpOn
  try dsimp only
  repeat' (first
   | with_reducible exact Only.refl _ _
   | with_reducible assumption
   | (with_reducible apply Only.step (State.correctReads_only _ _ _ _); decide)
   | (with_reducible apply Only.step (State.failTile_only _ _ _); decide)
   | (with_reducible apply Only.step (State.meshOne_only _ _ _ _); decide)
   | (with_reducible apply Only.step (State.putTile_only _ _); decide)
   | with_reducible apply Only.ite
   | (with_reducible apply Only.foldl_fst; intro y a r hr hy; subst hr)
   | split
   | dsimp only)

theorem State.warp_only (s : State) (c : Cmd) : Only [.cmds, .msix, .pages, .regs, .mem, .hostMem, .badWords, .raster, .traceGap, .log, .ctrs, .softWords, .traceFill, .traceAt] s (State.warp s c) := by
  unfold State.warp
  try dsimp only
  repeat' (first
   | with_reducible exact Only.refl _ _
   | with_reducible assumption
   | (with_reducible apply Only.step (State.addTile_only _ _); decide)
   | (with_reducible apply Only.step (State.correctReads_only _ _ _ _); decide)
   | (with_reducible apply Only.step (State.faultCmd_only _ _ _ _ _); decide)
   | (with_reducible apply Only.step (State.starts_only _ _); decide)
   | (with_reducible apply Only.step (State.warpOn_only _ _ _); decide)
   | with_reducible apply Only.ite
   | split
   | dsimp only)

theorem State.warpItem_only (s : State) (c : Cmd) (w : RTile) (k : Nat) : Only [.cmds, .msix, .pages, .regs, .mem, .hostMem, .badWords, .raster, .log, .ctrs, .softWords] s (State.warpItem s c w k) := by
  unfold State.warpItem
  try dsimp only
  repeat' (first
   | with_reducible exact Only.refl _ _
   | with_reducible assumption
   | (with_reducible apply Only.step (State.correctReads_only _ _ _ _); decide)
   | (with_reducible apply Only.step (State.endTile_only _ _ _ _); decide)
   | (with_reducible apply Only.step (State.failTile_only _ _ _); decide)
   | (with_reducible apply Only.step (State.putAll_only _ _); decide)
   | (with_reducible apply Only.step (State.putTile_only _ _); decide)
   | with_reducible apply Only.ite
   | split
   | dsimp only)

theorem execRsWarp_only (uid : Nat) (s : State) : OnlyOut [.cmds, .engines, .msix, .pages, .regs, .mem, .hostMem, .badWords, .raster, .traceGap, .log, .ctrs, .softWords, .traceFill, .traceAt] s (execRsWarp uid s) := by
  unfold execRsWarp
  try dsimp only
  repeat' (first
   | with_reducible exact Only.refl _ _
   | with_reducible assumption
   | with_reducible apply OnlyOut.next
   | (with_reducible apply Only.step (State.warp_only _ _); decide)
   | with_reducible apply Only.ite
   | with_reducible apply OnlyOut.ite
   | (with_reducible apply Only.rasterOp (by decide); intro y c hy)
   | dsimp only)

theorem State.markProt_only (s : State) (c : Cmd) : Only [.mem, .badWords, .softWords] s (State.markProt s c) := by
  unfold State.markProt
  try dsimp only
  repeat' (first
   | with_reducible exact Only.refl _ _
   | with_reducible assumption
   | (with_reducible apply Only.step (State.putEntry_only _ _ _ _); decide)
   | with_reducible apply Only.ite
   | split
   | dsimp only)

theorem State.mask_only (s : State) (c : Cmd) : Only [.cmds, .msix, .pages, .regs, .mem, .hostMem, .badWords, .raster, .traceGap, .log, .ctrs, .softWords, .traceFill, .traceAt] s (State.mask s c) := by
  unfold State.mask
  try dsimp only
  repeat' (first
   | with_reducible exact Only.refl _ _
   | with_reducible assumption
   | (with_reducible apply Only.step (State.addTile_only _ _); decide)
   | (with_reducible apply Only.step (State.bump_only _ _ _ _ _); decide)
   | (with_reducible apply Only.step (State.correctReads_only _ _ _ _); decide)
   | (with_reducible apply Only.step (State.faultCmd_only _ _ _ _ _); decide)
   | (with_reducible apply Only.step (State.starts_only _ _); decide)
   | with_reducible apply Only.ite
   | split
   | dsimp only)

theorem State.maskWrite_only (s : State) (c : Cmd) (d : MaskDesc) (k : Nat) (cut : Option Nat) : Only [.msix, .pages, .regs, .mem, .hostMem, .badWords, .log, .ctrs, .softWords] s (State.maskWrite s c d k cut) := by
  unfold State.maskWrite
  try dsimp only
  repeat' (first
   | with_reducible exact Only.refl _ _
   | with_reducible assumption
   | (with_reducible apply Only.step (State.correctReads_only _ _ _ _); decide)
   | (with_reducible apply Only.step (State.markProt_only _ _); decide)
   | (with_reducible apply Only.step (State.putAll_only _ _); decide)
   | with_reducible apply Only.ite
   | split
   | dsimp only)

theorem State.maskItem_only (s : State) (c : Cmd) (w : RTile) (k : Nat) : Only [.cmds, .msix, .pages, .regs, .mem, .hostMem, .badWords, .raster, .log, .ctrs, .softWords] s (State.maskItem s c w k) := by
  unfold State.maskItem
  try dsimp only
  repeat' (first
   | with_reducible exact Only.refl _ _
   | with_reducible assumption
   | (with_reducible apply Only.step (State.endTile_only _ _ _ _); decide)
   | (with_reducible apply Only.step (State.failTile_only _ _ _); decide)
   | (with_reducible apply Only.step (State.maskWrite_only _ _ _ _ _); decide)
   | (with_reducible apply Only.step (State.putTile_only _ _); decide)
   | with_reducible apply Only.ite
   | split
   | dsimp only)

theorem execRsMask_only (uid : Nat) (s : State) : OnlyOut [.cmds, .engines, .msix, .pages, .regs, .mem, .hostMem, .badWords, .raster, .traceGap, .log, .ctrs, .softWords, .traceFill, .traceAt] s (execRsMask uid s) := by
  unfold execRsMask
  try dsimp only
  repeat' (first
   | with_reducible exact Only.refl _ _
   | with_reducible assumption
   | with_reducible apply OnlyOut.next
   | (with_reducible apply Only.step (State.mask_only _ _); decide)
   | with_reducible apply Only.ite
   | with_reducible apply OnlyOut.ite
   | (with_reducible apply Only.rasterOp (by decide); intro y c hy)
   | dsimp only)

theorem State.runBin_only (s : State) (uid k : Nat) : Only [.cmds, .msix, .pages, .regs, .mem, .hostMem, .badWords, .raster, .log, .ctrs, .softWords] s (State.runBin s uid k) := by
  unfold State.runBin
  try dsimp only
  repeat' (first
   | with_reducible exact Only.refl _ _
   | with_reducible assumption
   | (with_reducible apply Only.step (State.chunkError_only _ _); decide)
   | (with_reducible apply Only.step (State.correctReads_only _ _ _ _); decide)
   | (with_reducible apply Only.step (State.endPass_only _ _); decide)
   | (with_reducible apply Only.step (State.putAll_only _ _); decide)
   | (with_reducible apply Only.step (State.putPass_only _ _); decide)
   | (with_reducible apply Only.step (State.readyTile_only _ _ _); decide)
   | with_reducible apply Only.ite
   | split
   | dsimp only)

theorem State.runItem_only (s : State) (i : ItemKey) : Only [.cmds, .msix, .pages, .regs, .mem, .hostMem, .badWords, .raster, .log, .ctrs, .softWords] s (State.runItem s i) := by
  unfold State.runItem
  try dsimp only
  repeat' (first
   | with_reducible exact Only.refl _ _
   | with_reducible assumption
   | (with_reducible apply Only.step (State.maskItem_only _ _ _ _); decide)
   | (with_reducible apply Only.step (State.runBin_only _ _ _); decide)
   | (with_reducible apply Only.step (State.warpItem_only _ _ _ _); decide)
   | with_reducible apply Only.ite
   | split
   | dsimp only)

theorem execRasterBinItem_only (core : Nat) (s : State) : OnlyOut [.freeCount, .cmds, .engines, .msix, .pages, .regs, .mem, .hostMem, .badWords, .raster, .log, .ctrs, .softWords] s (execRasterBinItem core s) := by
  unfold execRasterBinItem
  try dsimp only
  repeat' (first
   | with_reducible exact Only.refl _ _
   | with_reducible assumption
   | with_reducible apply OnlyOut.next
   | (with_reducible apply Only.step (State.rasterRest_only _); decide)
   | (with_reducible apply Only.step (State.resumeStalled_only _); decide)
   | (with_reducible apply Only.step (State.runItem_only _ _); decide)
   | (with_reducible apply Only.step (State.settleRaster_only _); decide)
   | (with_reducible apply Only.step (State.track_only _); decide)
   | with_reducible apply Only.ite
   | with_reducible apply OnlyOut.ite
   | split
   | dsimp only)

theorem State.putReplicas_only (s : State) (job w off : Nat) (bs : List Byte) : Only [.mem, .badWords, .softWords] s (State.putReplicas s job w off bs) := by
  unfold State.putReplicas
  try dsimp only
  repeat' (first
   | with_reducible exact Only.refl _ _
   | with_reducible assumption
   | (with_reducible apply Only.step (State.devPut_only _ _ _); decide)
   | with_reducible apply Only.ite
   | (with_reducible apply Only.foldl; intro y a hy)
   | dsimp only)

theorem State.keepWeights_only (s : State) (job epoch : Nat) : Only [.jobs] s (State.keepWeights s job epoch) := by
  unfold State.keepWeights
  try dsimp only
  repeat' (first
   | with_reducible exact Only.refl _ _
   | with_reducible assumption
   | (with_reducible apply Only.step (State.putJob_only _ _ _); decide)
   | with_reducible apply Only.ite
   | dsimp only)

theorem State.readScaleDir_only (s : State) (job : Nat) : Only [.jobs, .mem, .badWords, .softWords] s (State.readScaleDir s job) := by
  unfold State.readScaleDir
  try dsimp only
  repeat' (first
   | with_reducible exact Only.refl _ _
   | with_reducible assumption
   | (with_reducible apply Only.step (State.putDir_only _ _ _ _); decide)
   | (with_reducible apply Only.step (State.putJob_only _ _ _); decide)
   | with_reducible apply Only.ite
   | split
   | dsimp only)

theorem State.readAdaptDir_only (s : State) (job : Nat) : Only [.jobs, .mem, .badWords, .softWords] s (State.readAdaptDir s job) := by
  unfold State.readAdaptDir
  try dsimp only
  repeat' (first
   | with_reducible exact Only.refl _ _
   | with_reducible assumption
   | (with_reducible apply Only.step (State.putDir_only _ _ _ _); decide)
   | (with_reducible apply Only.step (State.putJob_only _ _ _); decide)
   | with_reducible apply Only.ite
   | split
   | dsimp only)

theorem State.forgetJob_only (s : State) (job : Nat) : Only [.engines] s (State.forgetJob s job) := by
  unfold State.forgetJob
  try dsimp only
  repeat' (first
   | with_reducible exact Only.refl _ _
   | with_reducible assumption
   | with_reducible apply Only.ite
   | (with_reducible apply Only.step Only.set_engines; decide)
   | dsimp only)

theorem State.createJob_only (s : State) (job v : Nat) : Only [.jobs, .engines, .mem, .badWords, .softWords] s (State.createJob s job v) := by
  unfold State.createJob
  try dsimp only
  repeat' (first
   | with_reducible exact Only.refl _ _
   | with_reducible assumption
   | (with_reducible apply Only.step (State.forgetJob_only _ _); decide)
   | (with_reducible apply Only.step (State.keepWeights_only _ _ _); decide)
   | (with_reducible apply Only.step (State.putJob_only _ _ _); decide)
   | (with_reducible apply Only.step (State.readAdaptDir_only _ _); decide)
   | (with_reducible apply Only.step (State.readScaleDir_only _ _); decide)
   | with_reducible apply Only.ite
   | dsimp only)

theorem State.removeJob_only (s : State) (job v : Nat) : Only [.jobs, .engines] s (State.removeJob s job v) := by
  unfold State.removeJob
  try dsimp only
  repeat' (first
   | with_reducible exact Only.refl _ _
   | with_reducible assumption
   | (with_reducible apply Only.step (State.forgetJob_only _ _); decide)
   | (with_reducible apply Only.step (State.putJob_only _ _ _); decide)
   | with_reducible apply Only.ite
   | dsimp only)

theorem State.brokenCfg_only (s : State) (job v : Nat) : Only [.freeCount, .jobs] s (State.brokenCfg s job v) := by
  unfold State.brokenCfg
  try dsimp only
  repeat' (first
   | with_reducible exact Only.refl _ _
   | with_reducible assumption
   | (with_reducible apply Only.step (State.free_only _); decide)
   | (with_reducible apply Only.step (State.putJob_only _ _ _); decide)
   | with_reducible apply Only.ite
   | dsimp only)

theorem State.jobCfgWrite_only (s : State) (job value : Nat) : Only [.freeCount, .devState, .jobs, .engines, .msix, .pages, .mem, .hostMem, .badWords, .pins, .softWords] s (State.jobCfgWrite s job value) := by
  unfold State.jobCfgWrite
  try dsimp only
  repeat' (first
   | with_reducible exact Only.refl _ _
   | with_reducible assumption
   | (with_reducible apply Only.step (State.brokenCfg_only _ _ _); decide)
   | (with_reducible apply Only.step (State.createJob_only _ _ _); decide)
   | (with_reducible apply Only.step (State.err_only _ _ _ _ _ _); decide)
   | (with_reducible apply Only.step (State.putJob_only _ _ _); decide)
   | (with_reducible apply Only.step (State.removeJob_only _ _ _); decide)
   | (with_reducible apply Only.step (State.settleState_only _); decide)
   | (with_reducible apply Only.step (State.track_only _); decide)
   | with_reducible apply Only.ite
   | split
   | dsimp only)

theorem execJobValidSet_only (value : Nat) (s : State) : OnlyOut [.freeCount, .devState, .jobs, .engines, .msix, .pages, .mem, .hostMem, .badWords, .pins, .softWords] s (execJobValidSet value s) := by
  unfold execJobValidSet
  try dsimp only
  repeat' (first
   | with_reducible exact Only.refl _ _
   | with_reducible assumption
   | with_reducible apply OnlyOut.next
   | (with_reducible apply Only.step (State.jobCfgWrite_only _ _ _); decide)
   | with_reducible apply Only.ite
   | with_reducible apply OnlyOut.ite
   | (with_reducible apply Only.host (by decide); intro y hy)
   | dsimp only)

theorem execJobValidClear_only (value : Nat) (s : State) : OnlyOut [.freeCount, .devState, .jobs, .engines, .msix, .pages, .mem, .hostMem, .badWords, .pins, .softWords] s (execJobValidClear value s) := by
  unfold execJobValidClear
  try dsimp only
  repeat' (first
   | with_reducible exact Only.refl _ _
   | with_reducible assumption
   | with_reducible apply OnlyOut.next
   | (with_reducible apply Only.step (State.jobCfgWrite_only _ _ _); decide)
   | with_reducible apply Only.ite
   | with_reducible apply OnlyOut.ite
   | (with_reducible apply Only.host (by decide); intro y hy)
   | dsimp only)

theorem State.clearSlot_only (s : State) (job k : Nat) : Only [.engines] s (State.clearSlot s job k) := by
  unfold State.clearSlot
  try dsimp only
  repeat' (first
   | with_reducible exact Only.refl _ _
   | with_reducible assumption
   | (with_reducible apply Only.step (State.putEngine_only _ _ _); decide)
   | with_reducible apply Only.ite
   | (with_reducible apply Only.foldl; intro y a hy)
   | dsimp only)

theorem State.putHeader_only (s : State) (job w since cur : Nat) : Only [.mem, .badWords, .softWords] s (State.putHeader s job w since cur) := by
  unfold State.putHeader
  try dsimp only
  repeat' (first
   | with_reducible exact Only.refl _ _
   | with_reducible assumption
   | (with_reducible apply Only.step (State.putReplicas_only _ _ _ _ _); decide)
   | with_reducible apply Only.ite
   | dsimp only)

theorem State.putCopy_only (s : State) (job w : Nat) (t : Table) (bs : List Byte) : Only [.mem, .badWords, .softWords] s (State.putCopy s job w t bs) := by
  unfold State.putCopy
  try dsimp only
  repeat' (first
   | with_reducible exact Only.refl _ _
   | with_reducible assumption
   | (with_reducible apply Only.step (State.putReplicas_only _ _ _ _ _); decide)
   | with_reducible apply Only.ite
   | dsimp only)

theorem State.flip_only (s : State) (job epoch : Nat) (ws : List Nat) : Only [.mem, .badWords, .softWords] s (State.flip s job epoch ws) := by
  unfold State.flip
  try dsimp only
  repeat' (first
   | with_reducible exact Only.refl _ _
   | with_reducible assumption
   | (with_reducible apply Only.step (State.putHeader_only _ _ _ _ _); decide)
   | with_reducible apply Only.ite
   | (with_reducible apply Only.foldl; intro y a hy)
   | split
   | dsimp only)

theorem State.rescaleEntry_only (s : State) (job : Nat) (e : DirEntry) (sc : Val) : Only [.mem, .badWords, .softWords] s (State.rescaleEntry s job e sc) := by
  unfold State.rescaleEntry
  try dsimp only
  repeat' (first
   | with_reducible exact Only.refl _ _
   | with_reducible assumption
   | (with_reducible apply Only.step (State.putCopy_only _ _ _ _ _); decide)
   | with_reducible apply Only.ite
   | (with_reducible apply Only.foldl; intro y a hy)
   | split
   | dsimp only)

theorem State.dirErr_only (s : State) (job code entry : Nat) : Only [.mem, .badWords, .softWords] s (State.dirErr s job code entry) := by
  unfold State.dirErr
  try dsimp only
  repeat' (first
   | with_reducible exact Only.refl _ _
   | with_reducible assumption
   | (with_reducible apply Only.step (State.putDir_only _ _ _ _); decide)
   | with_reducible apply Only.ite
   | dsimp only)

theorem State.autoEntry_only (s : State) (job : Nat) (e : DirEntry) (x : SlotSum) : Only [.mem, .badWords, .softWords] s (State.autoEntry s job e x).1 := by
  unfold State.autoEntry
  try dsimp only
  repeat' (first
   | with_reducible exact Only.refl _ _
   | with_reducible assumption
   | (with_reducible apply Only.step (State.dirErr_only _ _ _ _); decide)
   | (with_reducible apply Only.step (State.rescaleEntry_only _ _ _ _); decide)
   | with_reducible apply Only.ite
   | split
   | dsimp only)

theorem State.applyStaged_only (s : State) (job : Nat) (e : DirEntry) : Only [.mem, .badWords, .softWords] s (State.applyStaged s job e) := by
  unfold State.applyStaged
  try dsimp only
  repeat' (first
   | with_reducible exact Only.refl _ _
   | with_reducible assumption
   | (with_reducible apply Only.step (State.putCopy_only _ _ _ _ _); decide)
   | (with_reducible apply Only.step (State.putDir_only _ _ _ _); decide)
   | with_reducible apply Only.ite
   | (with_reducible apply Only.foldl; intro y a hy)
   | split
   | dsimp only)

theorem State.applyAdapter_only (s : State) (job epoch : Nat) (x : AdaptEntry) : Only [.mem, .badWords, .softWords] s (State.applyAdapter s job epoch x) := by
  unfold State.applyAdapter
  try dsimp only
  repeat' (first
   | with_reducible exact Only.refl _ _
   | with_reducible assumption
   | (with_reducible apply Only.step (State.devPut_only _ _ _); decide)
   | (with_reducible apply Only.step (State.putDir_only _ _ _ _); decide)
   | with_reducible apply Only.ite
   | (with_reducible apply Only.foldl; intro y a hy)
   | dsimp only)

theorem State.bumpDir_only (s : State) (job a off : Nat) : Only [.mem, .badWords, .softWords] s (State.bumpDir s job a off) := by
  unfold State.bumpDir
  try dsimp only
  repeat' (first
   | with_reducible exact Only.refl _ _
   | with_reducible assumption
   | (with_reducible apply Only.step (State.putDir_only _ _ _ _); decide)
   | with_reducible apply Only.ite
   | dsimp only)

theorem State.rollBack_only (s : State) (job epoch d : Nat) : Only [.mem, .badWords, .softWords] s (State.rollBack s job epoch d) := by
  unfold State.rollBack
  try dsimp only
  repeat' (first
   | with_reducible exact Only.refl _ _
   | with_reducible assumption
   | (with_reducible apply Only.step (State.bumpDir_only _ _ _ _); decide)
   | (with_reducible apply Only.step (State.putDir_only _ _ _ _); decide)
   | with_reducible apply Only.ite
   | (with_reducible apply Only.foldl; intro y a hy)
   | dsimp only)

theorem State.keepCandidate_only (s : State) (job a : Nat) : Only [.mem, .badWords, .softWords] s (State.keepCandidate s job a) := by
  unfold State.keepCandidate
  try dsimp only
  repeat' (first
   | with_reducible exact Only.refl _ _
   | with_reducible assumption
   | (with_reducible apply Only.step (State.bumpDir_only _ _ _ _); decide)
   | (with_reducible apply Only.step (State.putDir_only _ _ _ _); decide)
   | with_reducible apply Only.ite
   | (with_reducible apply Only.foldl; intro y a hy)
   | dsimp only)

theorem State.verdictErrs_only (s : State) (job r : Nat) (p : Probe) : Only [.mem, .badWords, .softWords] s (State.verdictErrs s job r p) := by
  unfold State.verdictErrs
  try dsimp only
  repeat' (first
   | with_reducible exact Only.refl _ _
   | with_reducible assumption
   | (with_reducible apply Only.step (State.putDir_only _ _ _ _); decide)
   | with_reducible apply Only.ite
   | split
   | dsimp only)

theorem State.takeVerdict_only (s : State) (job epoch d : Nat) (p : Probe) : Only [.flags, .mem, .badWords, .me, .softWords] s (State.takeVerdict s job epoch d p).state := by
  unfold State.takeVerdict
  try dsimp only
  repeat' (first
   | with_reducible exact Only.refl _ _
   | with_reducible assumption
   | (with_reducible apply Only.step (State.advance_only _ _ _ _); decide)
   | (with_reducible apply Only.step (State.keepCandidate_only _ _ _); decide)
   | (with_reducible apply Only.step (State.putDir_only _ _ _ _); decide)
   | (with_reducible apply Only.step (State.putReplicas_only _ _ _ _ _); decide)
   | (with_reducible apply Only.step (State.rollBack_only _ _ _ _); decide)
   | (with_reducible apply Only.step (State.verdictErrs_only _ _ _ _); decide)
   | with_reducible apply Only.ite
   | split
   | dsimp only)

theorem State.verdictLate_only (s : State) (job epoch d : Nat) : Only [.mem, .badWords, .softWords] s (State.verdictLate s job epoch d).state := by
  unfold State.verdictLate
  try dsimp only
  repeat' (first
   | with_reducible exact Only.refl _ _
   | with_reducible assumption
   | (with_reducible apply Only.step (State.putDir_only _ _ _ _); decide)
   | (with_reducible apply Only.step (State.rollBack_only _ _ _ _); decide)
   | with_reducible apply Only.ite
   | dsimp only)

theorem State.applyCandidate_only (s : State) (job epoch d : Nat) : Only [.flags, .mem, .badWords, .me, .softWords] s (State.applyCandidate s job epoch d).state := by
  unfold State.applyCandidate
  try dsimp only
  repeat' (first
   | with_reducible exact Only.refl _ _
   | with_reducible assumption
   | (with_reducible apply Only.step (State.advance_only _ _ _ _); decide)
   | (with_reducible apply Only.step (State.applyAdapter_only _ _ _ _); decide)
   | (with_reducible apply Only.step (State.applyStaged_only _ _ _); decide)
   | (with_reducible apply Only.step (State.bumpDir_only _ _ _ _); decide)
   | (with_reducible apply Only.step (State.putDir_only _ _ _ _); decide)
   | with_reducible apply Only.ite
   | (with_reducible apply Only.foldl; intro y a hy)
   | split
   | dsimp only)

theorem State.adaptTurn_only (s : State) (job epoch d : Nat) : Only [.flags, .mem, .badWords, .me, .softWords] s (State.adaptTurn s job epoch d).state := by
  unfold State.adaptTurn
  try dsimp only
  repeat' (first
   | with_reducible exact Only.refl _ _
   | with_reducible assumption
   | (with_reducible apply Only.step (State.applyCandidate_only _ _ _ _); decide)
   | (with_reducible apply Only.step (State.takeVerdict_only _ _ _ _ _); decide)
   | (with_reducible apply Only.step (State.verdictLate_only _ _ _ _); decide)
   | with_reducible apply Only.ite
   | split
   | dsimp only)

theorem State.turnEntry_only (s : State) (job : Nat) (e : DirEntry) (x : Option SlotSum) : Only [.flags, .mem, .badWords, .me, .softWords] s (State.turnEntry s job e x).1 := by
  unfold State.turnEntry
  try dsimp only
  repeat' (first
   | with_reducible exact Only.refl _ _
   | with_reducible assumption
   | (with_reducible apply Only.step (State.advance_only _ _ _ _); decide)
   | (with_reducible apply Only.step (State.applyStaged_only _ _ _); decide)
   | (with_reducible apply Only.step (State.autoEntry_only _ _ _ _); decide)
   | (with_reducible apply Only.step (State.dirErr_only _ _ _ _); decide)
   | with_reducible apply Only.ite
   | split
   | dsimp only)

theorem State.boundEntry_only (s : State) (job : Nat) (e : DirEntry) : Only [.mem, .badWords, .softWords] s (State.boundEntry s job e) := by
  unfold State.boundEntry
  try dsimp only
  repeat' (first
   | with_reducible exact Only.refl _ _
   | with_reducible assumption
   | (with_reducible apply Only.step (State.dirErr_only _ _ _ _); decide)
   | with_reducible apply Only.ite
   | split
   | dsimp only)

theorem State.refreshEntry_only (s : State) (job epoch : Nat) (e : DirEntry) : Only [.mem, .badWords, .softWords] s (State.refreshEntry s job epoch e).1 := by
  unfold State.refreshEntry
  try dsimp only
  repeat' (first
   | with_reducible exact Only.refl _ _
   | with_reducible assumption
   | (with_reducible apply Only.step (State.putHeader_only _ _ _ _ _); decide)
   | with_reducible apply Only.ite
   | (with_reducible apply Only.foldl_fst; intro y a r hr hy; subst hr)
   | split
   | dsimp only)

theorem State.refreshAdapter_only (s : State) (job epoch : Nat) (x : AdaptEntry) : Only [.mem, .badWords, .softWords] s (State.refreshAdapter s job epoch x).1 := by
  unfold State.refreshAdapter
  try dsimp only
  repeat' (first
   | with_reducible exact Only.refl _ _
   | with_reducible assumption
   | (with_reducible apply Only.step (State.putDir_only _ _ _ _); decide)
   | with_reducible apply Only.ite
   | split
   | dsimp only)

theorem State.turnEntries_only (s : State) (job : Nat) (es : List DirEntry) (sums : List (Nat × SlotSum)) (skip : List Nat) : Only [.flags, .mem, .badWords, .me, .softWords] s (State.turnEntries s job es sums skip).1 := by
  unfold State.turnEntries
  try dsimp only
  repeat' (first
   | with_reducible exact Only.refl _ _
   | with_reducible assumption
   | (with_reducible apply Only.step (State.boundEntry_only _ _ _); decide)
   | (with_reducible apply Only.step (State.turnEntry_only _ _ _ _); decide)
   | with_reducible apply Only.ite
   | (with_reducible apply Only.foldl_fst; intro y a r hr hy; subst hr)
   | split
   | dsimp only)

theorem State.turn_only (s : State) (job epoch d : Nat) : Only [.jobs, .engines, .flags, .mem, .badWords, .me, .softWords] s (State.turn s job epoch d) := by
  unfold State.turn
  extract_lets es k autos sums s1 r1 r2 flips r3 r4 s2 j s3
  have h1 : Only [.jobs, .engines, .flags, .mem, .badWords, .me, .softWords] s s1 :=
    Only.foldl (fun y a hy => Only.step (State.clearSlot_only _ _ _) (by decide) hy) (Only.refl _ _)
  have hr1 : Only [.jobs, .engines, .flags, .mem, .badWords, .me, .softWords] s r1.state := Only.step (State.adaptTurn_only _ _ _ _) (by decide) h1
  have hr2 : Only [.jobs, .engines, .flags, .mem, .badWords, .me, .softWords] s r2.1 := Only.step (State.turnEntries_only _ _ _ _ _) (by decide) hr1
  have hr3 : Only [.jobs, .engines, .flags, .mem, .badWords, .me, .softWords] s r3.1 := Only.runAll (fun y a r hr hy => hr ▸ Only.step (State.refreshEntry_only _ _ _ _) (by decide) hy)
    (Only.step (State.flip_only _ _ _ _) (by decide) hr2)
  have hr4 : Only [.jobs, .engines, .flags, .mem, .badWords, .me, .softWords] s r4.1 := Only.runAll (fun y a r hr hy => hr ▸ Only.step (State.refreshAdapter_only _ _ _ _) (by decide) hy) hr3
  have h3 : Only [.jobs, .engines, .flags, .mem, .badWords, .me, .softWords] s s3 := Only.step (State.putJob_only _ _ _) (by decide) (Only.step (State.putDir_only _ _ _ _) (by decide) hr4)
  split
  · exact Only.step (State.keepWeights_only _ _ _) (by decide) h3
  · exact h3

theorem execTurn_only (job : Nat) (s : State) : OnlyOut [.jobs, .engines, .flags, .mem, .badWords, .me, .softWords] s (execTurn job s) := by
  unfold execTurn
  try dsimp only
  repeat' (first
   | with_reducible exact Only.refl _ _
   | with_reducible assumption
   | with_reducible apply OnlyOut.next
   | (with_reducible apply Only.step (State.putJob_only _ _ _); decide)
   | (with_reducible apply Only.step (State.track_only _); decide)
   | (with_reducible apply Only.step (State.turn_only _ _ _ _); decide)
   | with_reducible apply Only.ite
   | with_reducible apply OnlyOut.ite
   | split
   | dsimp only)

end Sys2Proof.Machine
end

