-- ==== Sys2Proof/Laws/FrameDisplay.lean ====
section
/-!
SUPPORT. Which fields of the state each operation can change: the display, deadlines, DP outputs, HOLD and the host link.
-/

-- One proof at a time: the proofs of this file are many, and run together they take many threads at once.
set_option Elab.async false

set_option linter.unusedTactic false
set_option linter.unreachableTactic false

namespace Sys2Proof.Machine

theorem State.putOut_only (s : State) (i : Nat) (o : DpOut) : Only [.outs] s (State.putOut s i o) := by
  unfold State.putOut
  try dsimp only
  repeat' (first
   | with_reducible exact Only.refl _ _
   | with_reducible assumption
   | with_reducible apply Only.ite
   | (with_reducible apply Only.step Only.set_outs; decide)
   | dsimp only)

theorem State.latchFrame_only (s : State) : Only [.msix, .pages, .hostMem, .disp] s (State.latchFrame s) := by
  unfold State.latchFrame
  try dsimp only
  repeat' (first
   | with_reducible exact Only.refl _ _
   | with_reducible assumption
   | (with_reducible apply Only.step (State.irq_only _ _ _ _); decide)
   | with_reducible apply Only.ite
   | split
   | (with_reducible apply Only.step Only.set_disp; decide)
   | dsimp only)

theorem State.writeCal_only (s : State) (e : CalEntry) : Only [.mem, .badWords, .softWords] s (State.writeCal s e) := by
  unfold State.writeCal
  try dsimp only
  repeat' (first
   | with_reducible exact Only.refl _ _
   | with_reducible assumption
   | (with_reducible apply Only.step (State.devPut_only _ _ _); decide)
   | with_reducible apply Only.ite
   | dsimp only)

theorem State.planFrame_only (s : State) : Only [.mem, .badWords, .disp, .softWords] s (State.planFrame s) := by
  unfold State.planFrame
  try dsimp only
  repeat' (first
   | with_reducible exact Only.refl _ _
   | with_reducible assumption
   | (with_reducible apply Only.step (State.writeCal_only _ _); decide)
   | with_reducible apply Only.ite
   | split
   | (with_reducible apply Only.step Only.set_disp; decide)
   | dsimp only)

theorem execCalendarPublish_only (s : State) : OnlyOut [.mem, .badWords, .disp, .softWords] s (execCalendarPublish s) := by
  unfold execCalendarPublish
  try dsimp only
  repeat' (first
   | with_reducible exact Only.refl _ _
   | with_reducible assumption
   | with_reducible apply OnlyOut.next
   | (with_reducible apply Only.step (State.planFrame_only _); decide)
   | with_reducible apply Only.ite
   | with_reducible apply OnlyOut.ite
   | split
   | dsimp only)

theorem State.applyMarks_only (s : State) (f : Nat) : Only [.mem, .badWords, .raster, .softWords] s (State.applyMarks s f) := by
  unfold State.applyMarks
  try dsimp only
  repeat' (first
   | with_reducible exact Only.refl _ _
   | with_reducible assumption
   | (with_reducible apply Only.step (State.putEntry_only _ _ _ _); decide)
   | (with_reducible apply Only.step (State.putHead_only _ _ _ _ _); decide)
   | with_reducible apply Only.ite
   | (with_reducible apply Only.foldl; intro y a hy)
   | split
   | (with_reducible apply Only.step Only.set_raster; decide)
   | dsimp only)

theorem State.enterLate_only (s : State) (f step : Nat) : Only [.mem, .badWords, .softWords] s (State.enterLate s f step) := by
  unfold State.enterLate
  try dsimp only
  repeat' (first
   | with_reducible exact Only.refl _ _
   | with_reducible assumption
   | (with_reducible apply Only.step (State.putEntry_only _ _ _ _); decide)
   | with_reducible apply Only.ite
   | (with_reducible apply Only.foldl; intro y a hy)
   | dsimp only)

theorem State.bindFrame_only (s : State) (f step : Nat) (e : CalEntry) : Only [.mem, .badWords, .raster, .softWords] s (State.bindFrame s f step e) := by
  unfold State.bindFrame
  try dsimp only
  repeat' (first
   | with_reducible exact Only.refl _ _
   | with_reducible assumption
   | (with_reducible apply Only.step (State.applyMarks_only _ _); decide)
   | (with_reducible apply Only.step (State.enterLate_only _ _ _); decide)
   | (with_reducible apply Only.step (State.putEntry_only _ _ _ _); decide)
   | (with_reducible apply Only.step (State.putHead_only _ _ _ _ _); decide)
   | with_reducible apply Only.ite
   | (with_reducible apply Only.foldl; intro y a hy)
   | split
   | dsimp only)

theorem execFrameBind_only (frame : Nat) (s : State) : OnlyOut [.mem, .badWords, .raster, .softWords] s (execFrameBind frame s) := by
  unfold execFrameBind
  try dsimp only
  repeat' (first
   | with_reducible exact Only.refl _ _
   | with_reducible assumption
   | with_reducible apply OnlyOut.next
   | (with_reducible apply Only.step (State.bindFrame_only _ _ _ _); decide)
   | with_reducible apply Only.ite
   | with_reducible apply OnlyOut.ite
   | split
   | dsimp only)

theorem State.prepareUnbound_only (s : State) (f : Nat) (e : CalEntry) : Only [.mem, .badWords, .softWords] s (State.prepareUnbound s f e) := by
  unfold State.prepareUnbound
  try dsimp only
  repeat' (first
   | with_reducible exact Only.refl _ _
   | with_reducible assumption
   | (with_reducible apply Only.step (State.devPut_only _ _ _); decide)
   | (with_reducible apply Only.step (State.putEntry_only _ _ _ _); decide)
   | with_reducible apply Only.ite
   | (with_reducible apply Only.foldl; intro y a hy)
   | split
   | dsimp only)

theorem State.tidySteps_only (s : State) : Only [.steps, .groups, .disp] s (State.tidySteps s) := by
  unfold State.tidySteps
  try dsimp only
  repeat' (first
   | with_reducible exact Only.refl _ _
   | with_reducible assumption
   | (with_reducible apply Only.step (State.dropStep_only _ _); decide)
   | with_reducible apply Only.ite
   | (with_reducible apply Only.foldl; intro y a hy)
   | (with_reducible apply Only.step Only.set_disp; decide)
   | dsimp only)

theorem State.freeTables_only (s : State) : Only [.steps, .groups, .mem, .badWords, .disp, .softWords] s (State.freeTables s) := by
  unfold State.freeTables
  try dsimp only
  repeat' (first
   | with_reducible exact Only.refl _ _
   | with_reducible assumption
   | (with_reducible apply Only.step (State.devClear_only _ _ _); decide)
   | (with_reducible apply Only.step (State.devPut_only _ _ _); decide)
   | (with_reducible apply Only.step (State.tidySteps_only _); decide)
   | with_reducible apply Only.ite
   | (with_reducible apply Only.foldl; intro y a hy)
   | (with_reducible apply Only.step Only.set_disp; decide)
   | dsimp only)

theorem State.showTile_only (s : State) (f t : Nat) : Only [.msix, .pages, .regs, .mem, .hostMem, .badWords, .ctrs, .softWords] s (State.showTile s f t) := by
  unfold State.showTile
  try dsimp only
  repeat' (first
   | with_reducible exact Only.refl _ _
   | with_reducible assumption
   | (with_reducible apply Only.step (State.bump_only _ _ _ _ _); decide)
   | (with_reducible apply Only.step (State.pulse_only _ _ _ _ _ _); decide)
   | (with_reducible apply Only.step (State.putEntry_only _ _ _ _); decide)
   | (with_reducible apply Only.step (State.putHead_only _ _ _ _ _); decide)
   | (with_reducible apply Only.step (State.setTileState_only _ _ _ _); decide)
   | with_reducible apply Only.ite
   | split
   | dsimp only)

theorem State.dropStored_only (s : State) (f r : Nat) : Only [.disp] s (State.dropStored s f r) := by
  unfold State.dropStored
  try dsimp only
  repeat' (first
   | with_reducible exact Only.refl _ _
   | with_reducible assumption
   | with_reducible apply Only.ite
   | (with_reducible apply Only.step Only.set_disp; decide)
   | dsimp only)

theorem State.showRow_only (s : State) (f r : Nat) : Only [.msix, .pages, .regs, .mem, .hostMem, .badWords, .disp, .ctrs, .softWords] s (State.showRow s f r) := by
  unfold State.showRow
  try dsimp only
  repeat' (first
   | with_reducible exact Only.refl _ _
   | with_reducible assumption
   | (with_reducible apply Only.step (State.dropStored_only _ _ _); decide)
   | (with_reducible apply Only.step (State.showTile_only _ _ _); decide)
   | with_reducible apply Only.ite
   | (with_reducible apply Only.foldl; intro y a hy)
   | (with_reducible apply Only.step Only.set_disp; decide)
   | dsimp only)

theorem State.sealCairn_only (s : State) : Only [.cairn] s (State.sealCairn s) := by
  unfold State.sealCairn
  try dsimp only
  repeat' (first
   | with_reducible exact Only.refl _ _
   | with_reducible assumption
   | with_reducible apply Only.ite
   | split
   | (with_reducible apply Only.step Only.set_cairn; decide)
   | dsimp only)

theorem State.beginFetch_only (s : State) (f : Nat) (e : CalEntry) : Only [.now, .msix, .pages, .mem, .hostMem, .badWords, .raster, .disp, .cairn, .softWords] s (State.beginFetch s f e) := by
  unfold State.beginFetch
  try dsimp only
  repeat' (first
   | with_reducible exact Only.refl _ _
   | with_reducible assumption
   | (with_reducible apply Only.step (State.at_only _ _); decide)
   | (with_reducible apply Only.step (State.bindFrame_only _ _ _ _); decide)
   | (with_reducible apply Only.step (State.irq_only _ _ _ _); decide)
   | (with_reducible apply Only.step (State.latchFrame_only _); decide)
   | (with_reducible apply Only.step (State.prepareUnbound_only _ _ _); decide)
   | (with_reducible apply Only.step (State.sealCairn_only _); decide)
   | with_reducible apply Only.ite
   | (with_reducible refine Only.elim ?_ fun a => ?_)
   | split
   | (with_reducible apply Only.step Only.set_disp; decide)
   | dsimp only)

theorem State.dispRow_only (s : State) (f r : Nat) : ∀ y, State.dispRow s f r = some y → Only [.now, .msix, .pages, .regs, .mem, .hostMem, .badWords, .raster, .disp, .cairn, .ctrs, .softWords] s y := by
  intro y hy
  unfold State.dispRow at hy
  try dsimp only at hy
  repeat' (first
   | (simp only [reduceCtorEq] at hy; done)
   | (obtain rfl := Option.some.inj hy)
   | split at hy
   | with_reducible exact Only.refl _ _
   | with_reducible assumption
   | (with_reducible apply Only.step (State.at_only _ _); decide)
   | (with_reducible apply Only.step (State.beginFetch_only _ _ _); decide)
   | (with_reducible apply Only.step (State.showRow_only _ _ _); decide)
   | with_reducible apply Only.ite
   | split
   | dsimp only)

theorem State.guardOut_only (s : State) (i : Nat) : Only [.msix, .pages, .hostMem, .outs] s (State.guardOut s i) := by
  unfold State.guardOut
  try dsimp only
  repeat' (first
   | with_reducible exact Only.refl _ _
   | with_reducible assumption
   | (with_reducible apply Only.step (State.irq_only _ _ _ _); decide)
   | (with_reducible apply Only.step (State.putOut_only _ _ _); decide)
   | with_reducible apply Only.ite
   | split
   | dsimp only)

theorem State.startOut_only (s : State) (i : Nat) : Only [.msix, .pages, .hostMem, .outs] s (State.startOut s i) := by
  unfold State.startOut
  try dsimp only
  repeat' (first
   | with_reducible exact Only.refl _ _
   | with_reducible assumption
   | (with_reducible apply Only.step (State.guardOut_only _ _); decide)
   | (with_reducible apply Only.step (State.putOut_only _ _ _); decide)
   | with_reducible apply Only.ite
   | split
   | dsimp only)

theorem State.pumpDisp_only (n : Nat) (s : State) : Only [.cmds] s (State.pumpDisp n s) := by
  induction n generalizing s with
  | zero => exact Only.refl _ _
  | succ n ih =>
    unfold State.pumpDisp
    split
    · split
      · exact Only.step (ih _) (by decide) (Only.step (State.endCmd_only _ _ _ _) (by decide) (Only.refl _ _))
      · exact Only.refl _ _
    · exact Only.refl _ _

theorem State.pumpDisplay_only (s : State) : Only [.cmds] s (State.pumpDisplay s) := by
  unfold State.pumpDisplay
  try dsimp only
  repeat' (first
   | with_reducible exact Only.refl _ _
   | with_reducible assumption
   | (with_reducible apply Only.step (State.pumpDisp_only _ _); decide)
   | with_reducible apply Only.ite
   | dsimp only)

theorem Only.dispOp {gs : List StateField} {s x : State} {uid op : Nat} {go : State → Cmd → State}
    (hm : fieldMask [.cmds] &&& fieldMask gs = fieldMask [.cmds])
    (hgo : ∀ y c, Only gs s y → Only gs s (go y c)) (hx : Only gs s x) : Only gs s (x.dispOp uid op go) := by
  have key : ∀ y, Only gs s y → Only gs s y.pumpDisplay := fun y hy =>
    Only.step (fs := [.cmds]) (Only.step (State.pumpDisplay_only _) (by decide) (Only.refl _ _)) hm hy
  unfold State.dispOp
  split
  · exact hx
  · split
    · exact key _ hx
    · exact key _ (hgo _ _ hx)

theorem State.dispWaits_only (s : State) (c : Cmd) : Only [.cmds, .msix, .pages, .regs, .mem, .hostMem, .badWords, .traceGap, .ctrs, .softWords, .traceFill, .traceAt] s (State.dispWaits s c) := by
  unfold State.dispWaits
  try dsimp only
  repeat' (first
   | with_reducible exact Only.refl _ _
   | with_reducible assumption
   | (with_reducible apply Only.step (State.putCmd_only _ _); decide)
   | (with_reducible apply Only.step (State.starts_only _ _); decide)
   | with_reducible apply Only.ite
   | dsimp only)

theorem State.metaOp_only (s : State) (c : Cmd) : Only [.cmds, .msix, .pages, .regs, .mem, .hostMem, .badWords, .traceGap, .ctrs, .softWords, .traceFill, .traceAt] s (State.metaOp s c) := by
  unfold State.metaOp
  try dsimp only
  repeat' (first
   | with_reducible exact Only.refl _ _
   | with_reducible assumption
   | (with_reducible apply Only.step (State.dispWaits_only _ _); decide)
   | (with_reducible apply Only.step (State.endCmd_only _ _ _ _); decide)
   | (with_reducible apply Only.step (State.faultWith_only _ _ _ _ _); decide)
   | with_reducible apply Only.ite
   | split
   | dsimp only)

theorem execDispMeta_only (uid : Nat) (s : State) : OnlyOut [.cmds, .msix, .pages, .regs, .mem, .hostMem, .badWords, .traceGap, .ctrs, .softWords, .traceFill, .traceAt] s (execDispMeta uid s) := by
  unfold execDispMeta
  try dsimp only
  repeat' (first
   | with_reducible exact Only.refl _ _
   | with_reducible assumption
   | with_reducible apply OnlyOut.next
   | (with_reducible apply Only.step (State.metaOp_only _ _); decide)
   | with_reducible apply Only.ite
   | with_reducible apply OnlyOut.ite
   | (with_reducible apply Only.dispOp (by decide); intro y c hy)
   | dsimp only)

theorem State.frameWaitOp_only (s : State) (c : Cmd) : Only [.cmds, .msix, .pages, .regs, .mem, .hostMem, .badWords, .traceGap, .ctrs, .softWords, .traceFill, .traceAt] s (State.frameWaitOp s c) := by
  unfold State.frameWaitOp
  try dsimp only
  repeat' (first
   | with_reducible exact Only.refl _ _
   | with_reducible assumption
   | (with_reducible apply Only.step (State.dispWaits_only _ _); decide)
   | (with_reducible apply Only.step (State.endCmd_only _ _ _ _); decide)
   | with_reducible apply Only.ite
   | split
   | dsimp only)

theorem execDispFrameWait_only (uid : Nat) (s : State) : OnlyOut [.cmds, .msix, .pages, .regs, .mem, .hostMem, .badWords, .traceGap, .ctrs, .softWords, .traceFill, .traceAt] s (execDispFrameWait uid s) := by
  unfold execDispFrameWait
  try dsimp only
  repeat' (first
   | with_reducible exact Only.refl _ _
   | with_reducible assumption
   | with_reducible apply OnlyOut.next
   | (with_reducible apply Only.step (State.frameWaitOp_only _ _); decide)
   | with_reducible apply Only.ite
   | with_reducible apply OnlyOut.ite
   | (with_reducible apply Only.dispOp (by decide); intro y c hy)
   | dsimp only)

theorem execFrameScanStart_only (s : State) : OnlyOut [.now, .cmds, .msix, .pages, .hostMem, .disp, .outs] s (execFrameScanStart s) := by
  unfold execFrameScanStart
  try dsimp only
  repeat' (first
   | with_reducible exact Only.refl _ _
   | with_reducible assumption
   | with_reducible apply OnlyOut.next
   | (with_reducible apply Only.step (State.at_only _ _); decide)
   | (with_reducible apply Only.step (State.pumpDisplay_only _); decide)
   | (with_reducible apply Only.step (State.startOut_only _ _); decide)
   | with_reducible apply Only.ite
   | with_reducible apply OnlyOut.ite
   | (with_reducible apply Only.foldl; intro y a hy)
   | split
   | (with_reducible apply Only.step Only.set_disp; decide)
   | dsimp only)

theorem State.writeTile_only (s : State) (f t : Nat) (rows : List (List Byte)) : Only [.mem, .badWords, .softWords] s (State.writeTile s f t rows) := by
  unfold State.writeTile
  try dsimp only
  repeat' (first
   | with_reducible exact Only.refl _ _
   | with_reducible assumption
   | (with_reducible apply Only.step (State.putAll_only _ _); decide)
   | with_reducible apply Only.ite
   | dsimp only)

theorem State.markCommitted_only (s : State) (step : Option Nat) (tile : Nat) : Only [.groups] s (State.markCommitted s step tile) := by
  unfold State.markCommitted
  try dsimp only
  repeat' (first
   | with_reducible exact Only.refl _ _
   | with_reducible assumption
   | (with_reducible apply Only.step (State.putGroup_only _ _); decide)
   | with_reducible apply Only.ite
   | split
   | dsimp only)

theorem State.commit_only (s : State) (c : Cmd) (f a : Nat) : Only [.cmds, .groups, .msix, .pages, .regs, .mem, .hostMem, .badWords, .disp, .traceGap, .log, .ctrs, .softWords, .traceFill, .traceAt] s (State.commit s c f a) := by
  unfold State.commit
  try dsimp only
  repeat' (first
   | with_reducible exact Only.refl _ _
   | with_reducible assumption
   | (with_reducible apply Only.step (State.correctReads_only _ _ _ _); decide)
   | (with_reducible apply Only.step (State.endCmd_only _ _ _ _); decide)
   | (with_reducible apply Only.step (State.faultCmd_only _ _ _ _ _); decide)
   | (with_reducible apply Only.step (State.markCommitted_only _ _ _); decide)
   | (with_reducible apply Only.step (State.putAll_only _ _); decide)
   | (with_reducible apply Only.step (State.starts_only _ _); decide)
   | (with_reducible apply Only.step (State.writeTile_only _ _ _ _); decide)
   | with_reducible apply Only.ite
   | split
   | (with_reducible apply Only.step Only.set_disp; decide)
   | dsimp only)

theorem execDispCommit_only (uid : Nat) (s : State) : OnlyOut [.cmds, .groups, .msix, .pages, .regs, .mem, .hostMem, .badWords, .disp, .traceGap, .log, .ctrs, .softWords, .traceFill, .traceAt] s (execDispCommit uid s) := by
  unfold execDispCommit
  try dsimp only
  repeat' (first
   | with_reducible exact Only.refl _ _
   | with_reducible assumption
   | with_reducible apply OnlyOut.next
   | (with_reducible apply Only.step (State.commit_only _ _ _ _); decide)
   | (with_reducible apply Only.step (State.endCmd_only _ _ _ _); decide)
   | with_reducible apply Only.ite
   | with_reducible apply OnlyOut.ite
   | split
   | dsimp only)

theorem State.settleStored_only (s : State) (f t : Nat) : Only [.cmds, .groups, .mem, .badWords, .softWords] s (State.settleStored s f t) := by
  unfold State.settleStored
  try dsimp only
  repeat' (first
   | with_reducible exact Only.refl _ _
   | with_reducible assumption
   | (with_reducible apply Only.step (State.markCommitted_only _ _ _); decide)
   | (with_reducible apply Only.step (State.reviewGroup_only _ _ _); decide)
   | with_reducible apply Only.ite
   | split
   | dsimp only)

theorem State.copyTile_only (s : State) (slot f t : Nat) : Only [.msix, .pages, .regs, .mem, .hostMem, .badWords, .log, .ctrs, .softWords] s (State.copyTile s slot f t) := by
  unfold State.copyTile
  try dsimp only
  repeat' (first
   | with_reducible exact Only.refl _ _
   | with_reducible assumption
   | (with_reducible apply Only.step (State.correctReads_only _ _ _ _); decide)
   | (with_reducible apply Only.step (State.err_only _ _ _ _ _ _); decide)
   | (with_reducible apply Only.step (State.writeTile_only _ _ _ _); decide)
   | with_reducible apply Only.ite
   | split
   | (with_reducible apply Only.step Only.set_badWords; decide)
   | dsimp only)

theorem execTileStoreCopy_only (slot : Nat) (s : State) : OnlyOut [.cmds, .groups, .msix, .pages, .regs, .mem, .hostMem, .badWords, .disp, .log, .ctrs, .softWords] s (execTileStoreCopy slot s) := by
  unfold execTileStoreCopy
  try dsimp only
  repeat' (first
   | with_reducible exact Only.refl _ _
   | with_reducible assumption
   | with_reducible apply OnlyOut.next
   | (with_reducible apply Only.step (State.copyTile_only _ _ _ _); decide)
   | (with_reducible apply Only.step (State.settleStored_only _ _ _); decide)
   | with_reducible apply Only.ite
   | with_reducible apply OnlyOut.ite
   | split
   | (with_reducible apply Only.step Only.set_disp; decide)
   | dsimp only)

theorem State.urgentServed_only (s : State) : Only [.freeCount, .regs] s (State.urgentServed s) := by
  unfold State.urgentServed
  try dsimp only
  repeat' (first
   | with_reducible exact Only.refl _ _
   | with_reducible assumption
   | (with_reducible apply Only.step (State.free_only _); decide)
   | (with_reducible apply Only.step (State.setReg_only _ _ _ _ _); decide)
   | with_reducible apply Only.ite
   | (with_reducible apply Only.foldl; intro y a hy)
   | dsimp only)

theorem State.urgency_only (s : State) (k level : Nat) : Only [.freeCount, .msix, .pages, .regs, .hostMem, .disp, .ctrs] s (State.urgency s k level) := by
  unfold State.urgency
  try dsimp only
  repeat' (first
   | with_reducible exact Only.refl _ _
   | with_reducible assumption
   | (with_reducible apply Only.step (State.bump_only _ _ _ _ _); decide)
   | (with_reducible apply Only.step (State.edge_only _ _ _ _ _ _); decide)
   | (with_reducible apply Only.step (State.irq_only _ _ _ _); decide)
   | (with_reducible apply Only.step (State.urgentServed_only _); decide)
   | with_reducible apply Only.ite
   | split
   | (with_reducible apply Only.step Only.set_disp; decide)
   | dsimp only)

theorem State.underrun_only (s : State) (i : Nat) : Only [.msix, .pages, .regs, .hostMem, .ctrs] s (State.underrun s i) := by
  unfold State.underrun
  try dsimp only
  repeat' (first
   | with_reducible exact Only.refl _ _
   | with_reducible assumption
   | (with_reducible apply Only.step (State.bump_only _ _ _ _ _); decide)
   | (with_reducible apply Only.step (State.irq_only _ _ _ _); decide)
   | (with_reducible apply Only.step (State.pulse_only _ _ _ _ _ _); decide)
   | with_reducible apply Only.ite
   | dsimp only)

theorem State.correctLine_only (s : State) (f x y n : Nat) : Only [.msix, .pages, .regs, .mem, .hostMem, .badWords, .log, .ctrs, .softWords] s (State.correctLine s f x y n) := by
  unfold State.correctLine
  try dsimp only
  repeat' (first
   | with_reducible exact Only.refl _ _
   | with_reducible assumption
   | (with_reducible apply Only.step (State.correctReads_only _ _ _ _); decide)
   | with_reducible apply Only.ite
   | split
   | dsimp only)

theorem State.codeLine_only (s : State) (i n : Nat) : Only [.freeCount, .outs] s (State.codeLine s i n) := by
  unfold State.codeLine
  try dsimp only
  repeat' (first
   | with_reducible exact Only.refl _ _
   | with_reducible assumption
   | (with_reducible apply Only.step (State.free_only _); decide)
   | (with_reducible apply Only.step (State.putOut_only _ _ _); decide)
   | with_reducible apply Only.ite
   | split
   | dsimp only)

theorem State.keepLine_only (s : State) (i y buffered f : Nat) : Only [.cairn] s (State.keepLine s i y buffered f) := by
  unfold State.keepLine
  try dsimp only
  repeat' (first
   | with_reducible exact Only.refl _ _
   | with_reducible assumption
   | with_reducible apply Only.ite
   | split
   | (with_reducible apply Only.step Only.set_cairn; decide)
   | dsimp only)

theorem State.sendLine_only (s : State) (i y buffered f : Nat) : Only [.freeCount, .msix, .pages, .regs, .mem, .hostMem, .badWords, .outs, .log, .ctrs, .softWords] s (State.sendLine s i y buffered f) := by
  unfold State.sendLine
  try dsimp only
  repeat' (first
   | with_reducible exact Only.refl _ _
   | with_reducible assumption
   | (with_reducible apply Only.step (State.codeLine_only _ _ _); decide)
   | (with_reducible apply Only.step (State.correctLine_only _ _ _ _ _); decide)
   | (with_reducible apply Only.step (State.err_only _ _ _ _ _ _); decide)
   | (with_reducible apply Only.step (State.putOut_only _ _ _); decide)
   | (with_reducible apply Only.step (State.underrun_only _ _); decide)
   | with_reducible apply Only.ite
   | split
   | dsimp only)

theorem execLineScan_only (out y buffered level : Nat) (s : State) : OnlyOut [.now, .freeCount, .msix, .pages, .regs, .mem, .hostMem, .badWords, .disp, .outs, .log, .cairn, .ctrs, .softWords] s (execLineScan out y buffered level s) := by
  unfold execLineScan
  try dsimp only
  repeat' (first
   | with_reducible exact Only.refl _ _
   | with_reducible assumption
   | with_reducible apply OnlyOut.next
   | (with_reducible apply Only.step (State.at_only _ _); decide)
   | (with_reducible apply Only.step (State.keepLine_only _ _ _ _ _); decide)
   | (with_reducible apply Only.step (State.sendLine_only _ _ _ _ _); decide)
   | (with_reducible apply Only.step (State.urgency_only _ _ _); decide)
   | with_reducible apply Only.ite
   | with_reducible apply OnlyOut.ite
   | split
   | dsimp only)

theorem State.captureCairn_only (s : State) (f : Nat) (e : CalEntry) : Only [.freeCount, .cairn] s (State.captureCairn s f e) := by
  unfold State.captureCairn
  try dsimp only
  repeat' (first
   | with_reducible exact Only.refl _ _
   | with_reducible assumption
   | with_reducible apply Only.ite
   | split
   | (with_reducible apply Only.step Only.set_freeCount_cairn; decide)
   | dsimp only)

theorem execScanOutEnd_only (s : State) : OnlyOut [.now, .freeCount, .cmds, .steps, .groups, .regs, .disp, .cairn] s (execScanOutEnd s) := by
  unfold execScanOutEnd
  try dsimp only
  repeat' (first
   | with_reducible exact Only.refl _ _
   | with_reducible assumption
   | with_reducible apply OnlyOut.next
   | (with_reducible apply Only.step (State.at_only _ _); decide)
   | (with_reducible apply Only.step (State.bump_only _ _ _ _ _); decide)
   | (with_reducible apply Only.step (State.captureCairn_only _ _ _); decide)
   | (with_reducible apply Only.step (State.pumpDisplay_only _); decide)
   | (with_reducible apply Only.step (State.tidySteps_only _); decide)
   | with_reducible apply Only.ite
   | with_reducible apply OnlyOut.ite
   | split
   | (with_reducible apply Only.step Only.set_disp; decide)
   | dsimp only)

theorem execFrameSyncEdge_only (s : State) : OnlyOut [.msix, .pages, .hostMem, .disp] s (execFrameSyncEdge s) := by
  unfold execFrameSyncEdge
  try dsimp only
  repeat' (first
   | with_reducible exact Only.refl _ _
   | with_reducible assumption
   | with_reducible apply OnlyOut.next
   | (with_reducible apply Only.step (State.irq_only _ _ _ _); decide)
   | with_reducible apply Only.ite
   | with_reducible apply OnlyOut.ite
   | split
   | (with_reducible apply Only.step Only.set_disp; decide)
   | dsimp only)

theorem execGenlockHoldover_only (s : State) : OnlyOut [.now, .msix, .pages, .hostMem, .disp] s (execGenlockHoldover s) := by
  unfold execGenlockHoldover
  try dsimp only
  repeat' (first
   | with_reducible exact Only.refl _ _
   | with_reducible assumption
   | with_reducible apply OnlyOut.next
   | (with_reducible apply Only.step (State.at_only _ _); decide)
   | (with_reducible apply Only.step (State.irq_only _ _ _ _); decide)
   | with_reducible apply Only.ite
   | with_reducible apply OnlyOut.ite
   | split
   | (with_reducible apply Only.step Only.set_disp; decide)
   | dsimp only)

theorem State.cfgCommit_only (s : State) : Only [.msix, .pages, .hostMem, .disp] s (State.cfgCommit s) := by
  unfold State.cfgCommit
  try dsimp only
  repeat' (first
   | with_reducible exact Only.refl _ _
   | with_reducible assumption
   | (with_reducible apply Only.step (State.err_only _ _ _ _ _ _); decide)
   | (with_reducible apply Only.step (State.irq_only _ _ _ _); decide)
   | with_reducible apply Only.ite
   | split
   | (with_reducible apply Only.step Only.set_disp; decide)
   | dsimp only)

theorem execCfgCommit_only (s : State) : OnlyOut [.msix, .pages, .hostMem, .disp] s (execCfgCommit s) := by
  unfold execCfgCommit
  try dsimp only
  repeat' (first
   | with_reducible exact Only.refl _ _
   | with_reducible assumption
   | with_reducible apply OnlyOut.next
   | (with_reducible apply Only.step (State.cfgCommit_only _); decide)
   | with_reducible apply Only.ite
   | with_reducible apply OnlyOut.ite
   | split
   | dsimp only)

theorem State.retrain_only (s : State) (i : Nat) : Only [.outs] s (State.retrain s i) := by
  unfold State.retrain
  try dsimp only
  repeat' (first
   | with_reducible exact Only.refl _ _
   | with_reducible assumption
   | (with_reducible apply Only.step (State.putOut_only _ _ _); decide)
   | with_reducible apply Only.ite
   | split
   | dsimp only)

theorem State.takeEffect_only (s : State) (m : Machine.SMap Word) : Only [.steps, .groups, .msix, .pages, .mem, .hostMem, .badWords, .disp, .outs, .cairn, .softWords] s (State.takeEffect s m) := by
  unfold State.takeEffect
  try dsimp only
  repeat' (first
   | with_reducible exact Only.refl _ _
   | with_reducible assumption
   | (with_reducible apply Only.step (State.freeTables_only _); decide)
   | (with_reducible apply Only.step (State.irq_only _ _ _ _); decide)
   | (with_reducible apply Only.step (State.retrain_only _ _); decide)
   | (with_reducible apply Only.step (State.sealCairn_only _); decide)
   | with_reducible apply Only.ite
   | (with_reducible apply Only.foldl; intro y a hy)
   | split
   | (with_reducible apply Only.step Only.set_disp; decide)
   | dsimp only)

theorem execCfgTakeEffect_only (s : State) : OnlyOut [.steps, .groups, .msix, .pages, .mem, .hostMem, .badWords, .disp, .outs, .cairn, .softWords] s (execCfgTakeEffect s) := by
  unfold execCfgTakeEffect
  try dsimp only
  repeat' (first
   | with_reducible exact Only.refl _ _
   | with_reducible assumption
   | with_reducible apply OnlyOut.next
   | (with_reducible apply Only.step (State.takeEffect_only _ _); decide)
   | with_reducible apply Only.ite
   | with_reducible apply OnlyOut.ite
   | split
   | dsimp only)

theorem State.holdDisplay_only (s : State) : Only [.cmds, .msix, .pages, .hostMem, .disp] s (State.holdDisplay s) := by
  unfold State.holdDisplay
  try dsimp only
  repeat' (first
   | with_reducible exact Only.refl _ _
   | with_reducible assumption
   | (with_reducible apply Only.step (State.endAll_only _ _ _ _); decide)
   | (with_reducible apply Only.step (State.irq_only _ _ _ _); decide)
   | with_reducible apply Only.ite
   | split
   | (with_reducible apply Only.step Only.set_disp; decide)
   | dsimp only)

theorem State.resumeDisplay_only (s : State) : Only [.steps, .groups, .msix, .pages, .mem, .hostMem, .badWords, .disp, .softWords] s (State.resumeDisplay s) := by
  unfold State.resumeDisplay
  try dsimp only
  repeat' (first
   | with_reducible exact Only.refl _ _
   | with_reducible assumption
   | (with_reducible apply Only.step (State.freeTables_only _); decide)
   | (with_reducible apply Only.step (State.irq_only _ _ _ _); decide)
   | with_reducible apply Only.ite
   | split
   | (with_reducible apply Only.step Only.set_disp; decide)
   | dsimp only)

theorem State.startDisplay_only (s : State) : Only [.freeCount, .steps, .groups, .msix, .pages, .mem, .hostMem, .badWords, .disp, .cairn, .softWords] s (State.startDisplay s) := by
  unfold State.startDisplay
  try dsimp only
  repeat' (first
   | with_reducible exact Only.refl _ _
   | with_reducible assumption
   | (with_reducible apply Only.step (State.free_only _); decide)
   | (with_reducible apply Only.step (State.freeTables_only _); decide)
   | (with_reducible apply Only.step (State.irq_only _ _ _ _); decide)
   | (with_reducible apply Only.step (State.latchFrame_only _); decide)
   | with_reducible apply Only.ite
   | split
   | (with_reducible apply Only.step Only.set_cairn; decide)
   | (with_reducible apply Only.step Only.set_disp; decide)
   | (with_reducible apply Only.step Only.set_disp_cairn; decide)
   | dsimp only)

theorem State.stopDisplay_only (s : State) : Only [.disp] s (State.stopDisplay s) := by
  unfold State.stopDisplay
  try dsimp only
  repeat' (first
   | with_reducible exact Only.refl _ _
   | with_reducible assumption
   | with_reducible apply Only.ite
   | split
   | (with_reducible apply Only.step Only.set_disp; decide)
   | dsimp only)

theorem execDispTimingStop_only (s : State) : OnlyOut [.cmds, .steps, .groups, .engines, .pages, .disp, .outs, .cairn] s (execDispTimingStop s) := by
  unfold execDispTimingStop
  try dsimp only
  repeat' (first
   | with_reducible exact Only.refl _ _
   | with_reducible assumption
   | with_reducible apply OnlyOut.next
   | (with_reducible apply Only.step (State.endAll_only _ _ _ _); decide)
   | (with_reducible apply Only.step (State.putPage_only _ _ _ _); decide)
   | (with_reducible apply Only.step (State.sealCairn_only _); decide)
   | (with_reducible apply Only.step (State.tidySteps_only _); decide)
   | (with_reducible apply Only.step (State.track_only _); decide)
   | with_reducible apply Only.ite
   | with_reducible apply OnlyOut.ite
   | split
   | (with_reducible apply Only.step Only.set_disp; decide)
   | (with_reducible apply Only.step Only.set_outs; decide)
   | dsimp only)

theorem execGuardFire_only (step row : Nat) (s : State) : OnlyOut [.now, .cmds, .steps, .groups, .engines, .msix, .pages, .regs, .hostMem, .ctrs] s (execGuardFire step row s) := by
  unfold execGuardFire
  try dsimp only
  repeat' (first
   | with_reducible exact Only.refl _ _
   | with_reducible assumption
   | with_reducible apply OnlyOut.next
   | (with_reducible apply Only.step (State.at_only _ _); decide)
   | (with_reducible apply Only.step (State.fireGuard_only _ _ _); decide)
   | (with_reducible apply Only.step (State.track_only _); decide)
   | with_reducible apply Only.ite
   | with_reducible apply OnlyOut.ite
   | split
   | dsimp only)

theorem State.stepRow_only (s : State) (x : Step) (r : Nat) : Only [.now, .cmds, .steps, .groups, .msix, .pages, .regs, .mem, .hostMem, .badWords, .me, .ctrs, .softWords] s (State.stepRow s x r) := by
  unfold State.stepRow
  try dsimp only
  repeat' (first
   | with_reducible exact Only.refl _ _
   | with_reducible assumption
   | (with_reducible apply Only.step (State.at_only _ _); decide)
   | (with_reducible apply Only.step (State.lateRow_only _ _ _); decide)
   | with_reducible apply Only.ite
   | split
   | dsimp only)

theorem State.afterRow_only (s : State) : Only [.freeCount, .cmds, .engines, .msix, .pages, .regs, .mem, .hostMem, .badWords, .raster, .log, .ctrs, .softWords] s (State.afterRow s) := by
  unfold State.afterRow
  try dsimp only
  repeat' (first
   | with_reducible exact Only.refl _ _
   | with_reducible assumption
   | (with_reducible apply Only.step (State.resumeStalled_only _); decide)
   | (with_reducible apply Only.step (State.settleRaster_only _); decide)
   | (with_reducible apply Only.step (State.track_only _); decide)
   | with_reducible apply Only.ite
   | dsimp only)

theorem State.boundRow_only (s : State) (x : Step) (f r : Nat) : Only [.now, .freeCount, .cmds, .steps, .groups, .engines, .msix, .pages, .regs, .mem, .hostMem, .badWords, .me, .raster, .disp, .log, .cairn, .ctrs, .softWords] s (State.boundRow s x f r) := by
  unfold State.boundRow
  try dsimp only
  repeat' (first
   | with_reducible exact Only.refl _ _
   | with_reducible assumption
   | (with_reducible apply Only.step (State.afterRow_only _); decide)
   | (with_reducible apply Only.step (State.dispRow_only _ _ _ _ ‹_›); decide)
   | (with_reducible apply Only.step (State.stepRow_only _ _ _); decide)
   | with_reducible apply Only.ite
   | split
   | (cases ‹none = some _›; done)
   | (with_reducible apply Only.getD; intro y hy)
   | dsimp only [Option.getD_none]
   | dsimp only)

theorem execRowDeadline_only (step : Option Nat) (row : Nat) (s : State) : OnlyOut [.now, .freeCount, .cmds, .steps, .groups, .engines, .msix, .pages, .regs, .mem, .hostMem, .badWords, .me, .raster, .disp, .log, .cairn, .ctrs, .softWords] s (execRowDeadline step row s) := by
  unfold execRowDeadline
  try dsimp only
  repeat' (first
   | with_reducible exact Only.refl _ _
   | with_reducible assumption
   | with_reducible apply OnlyOut.next
   | (with_reducible apply Only.step (State.afterRow_only _); decide)
   | (with_reducible apply Only.step (State.boundRow_only _ _ _ _); decide)
   | (with_reducible apply Only.step (State.dispRow_only _ _ _ _ ‹_›); decide)
   | (with_reducible apply Only.step (State.stepRow_only _ _ _); decide)
   | with_reducible apply Only.ite
   | with_reducible apply OnlyOut.ite
   | split
   | (cases ‹none = some _›; done)
   | (with_reducible apply Only.getD; intro y hy)
   | dsimp only [Option.getD_none]
   | dsimp only)

theorem State.loseOutLink_only (s : State) (i : Nat) : Only [.msix, .pages, .regs, .hostMem, .outs] s (State.loseOutLink s i) := by
  unfold State.loseOutLink
  try dsimp only
  repeat' (first
   | with_reducible exact Only.refl _ _
   | with_reducible assumption
   | (with_reducible apply Only.step (State.bump_only _ _ _ _ _); decide)
   | (with_reducible apply Only.step (State.irq_only _ _ _ _); decide)
   | (with_reducible apply Only.step (State.putOut_only _ _ _); decide)
   | with_reducible apply Only.ite
   | dsimp only)

theorem execHpdChange_only (out : Nat) (present : Bool) (s : State) : OnlyOut [.now, .msix, .pages, .regs, .hostMem, .outs, .pins] s (execHpdChange out present s) := by
  unfold execHpdChange
  try dsimp only
  repeat' (first
   | with_reducible exact Only.refl _ _
   | with_reducible assumption
   | with_reducible apply OnlyOut.next
   | (with_reducible apply Only.step (State.filtered_only _ _ _); decide)
   | (with_reducible apply Only.step (State.irq_only _ _ _ _); decide)
   | (with_reducible apply Only.step (State.loseOutLink_only _ _); decide)
   | (with_reducible apply Only.step (State.putOut_only _ _ _); decide)
   | (with_reducible apply Only.step (State.retrain_only _ _); decide)
   | with_reducible apply Only.ite
   | with_reducible apply OnlyOut.ite
   | split
   | dsimp only)

theorem execDpLinkFail_only (out : Nat) (s : State) : OnlyOut [.msix, .pages, .regs, .hostMem, .outs] s (execDpLinkFail out s) := by
  unfold execDpLinkFail
  try dsimp only
  repeat' (first
   | with_reducible exact Only.refl _ _
   | with_reducible assumption
   | with_reducible apply OnlyOut.next
   | (with_reducible apply Only.step (State.loseOutLink_only _ _); decide)
   | with_reducible apply Only.ite
   | with_reducible apply OnlyOut.ite
   | split
   | dsimp only)

theorem execDpLinkTrainEnd_only (out : Nat) (ok : Bool) (s : State) : OnlyOut [.msix, .pages, .hostMem, .outs] s (execDpLinkTrainEnd out ok s) := by
  unfold execDpLinkTrainEnd
  try dsimp only
  repeat' (first
   | with_reducible exact Only.refl _ _
   | with_reducible assumption
   | with_reducible apply OnlyOut.next
   | (with_reducible apply Only.step (State.err_only _ _ _ _ _ _); decide)
   | (with_reducible apply Only.step (State.irq_only _ _ _ _); decide)
   | (with_reducible apply Only.step (State.putOut_only _ _ _); decide)
   | with_reducible apply Only.ite
   | with_reducible apply OnlyOut.ite
   | split
   | dsimp only)

theorem execDptxRetrain_only (out : Nat) (s : State) : OnlyOut [.pages, .outs] s (execDptxRetrain out s) := by
  unfold execDptxRetrain
  try dsimp only
  repeat' (first
   | with_reducible exact Only.refl _ _
   | with_reducible assumption
   | with_reducible apply OnlyOut.next
   | (with_reducible apply Only.step (State.retrain_only _ _); decide)
   | with_reducible apply Only.ite
   | with_reducible apply OnlyOut.ite
   | (with_reducible apply Only.host (by decide); intro y hy)
   | dsimp only)

theorem State.reauth_only (s : State) (i : Nat) : Only [.msix, .pages, .hostMem, .outs] s (State.reauth s i) := by
  unfold State.reauth
  try dsimp only
  repeat' (first
   | with_reducible exact Only.refl _ _
   | with_reducible assumption
   | (with_reducible apply Only.step (State.guardOut_only _ _); decide)
   | (with_reducible apply Only.step (State.putOut_only _ _ _); decide)
   | with_reducible apply Only.ite
   | split
   | dsimp only)

theorem execHdcpReauth_only (out : Nat) (s : State) : OnlyOut [.msix, .pages, .hostMem, .outs] s (execHdcpReauth out s) := by
  unfold execHdcpReauth
  try dsimp only
  repeat' (first
   | with_reducible exact Only.refl _ _
   | with_reducible assumption
   | with_reducible apply OnlyOut.next
   | (with_reducible apply Only.step (State.reauth_only _ _); decide)
   | with_reducible apply Only.ite
   | with_reducible apply OnlyOut.ite
   | (with_reducible apply Only.host (by decide); intro y hy)
   | dsimp only)

theorem execHdcpAuthEnd_only (out result : Nat) (ids : List Nat) (s : State) : OnlyOut [.msix, .pages, .hostMem, .outs] s (execHdcpAuthEnd out result ids s) := by
  unfold execHdcpAuthEnd
  try dsimp only
  repeat' (first
   | with_reducible exact Only.refl _ _
   | with_reducible assumption
   | with_reducible apply OnlyOut.next
   | (with_reducible apply Only.step (State.guardOut_only _ _); decide)
   | (with_reducible apply Only.step (State.irq_only _ _ _ _); decide)
   | (with_reducible apply Only.step (State.putOut_only _ _ _); decide)
   | with_reducible apply Only.ite
   | with_reducible apply OnlyOut.ite
   | split
   | dsimp only)

theorem State.auxStart_only (s : State) (i v : Nat) : Only [.regs, .outs] s (State.auxStart s i v) := by
  unfold State.auxStart
  try dsimp only
  repeat' (first
   | with_reducible exact Only.refl _ _
   | with_reducible assumption
   | (with_reducible apply Only.step (State.putOut_only _ _ _); decide)
   | (with_reducible apply Only.step (State.setReg_only _ _ _ _ _); decide)
   | with_reducible apply Only.ite
   | split
   | dsimp only)

theorem State.nackAux_only (s : State) : Only [.outs] s (State.nackAux s) := by
  unfold State.nackAux
  try dsimp only
  repeat' (first
   | with_reducible exact Only.refl _ _
   | with_reducible assumption
   | with_reducible apply Only.ite
   | split
   | (with_reducible apply Only.step Only.set_outs; decide)
   | dsimp only)

theorem execAuxStart_only (out value : Nat) (s : State) : OnlyOut [.pages, .regs, .outs] s (execAuxStart out value s) := by
  unfold execAuxStart
  try dsimp only
  repeat' (first
   | with_reducible exact Only.refl _ _
   | with_reducible assumption
   | with_reducible apply OnlyOut.next
   | (with_reducible apply Only.step (State.auxStart_only _ _ _); decide)
   | with_reducible apply Only.ite
   | with_reducible apply OnlyOut.ite
   | (with_reducible apply Only.host (by decide); intro y hy)
   | dsimp only)

theorem State.auxData_only (s : State) (i : Nat) (bs : List Byte) : Only [.regs] s (State.auxData s i bs) := by
  unfold State.auxData
  try dsimp only
  repeat' (first
   | with_reducible exact Only.refl _ _
   | with_reducible assumption
   | (with_reducible apply Only.step (State.setReg_only _ _ _ _ _); decide)
   | with_reducible apply Only.ite
   | (with_reducible apply Only.foldl; intro y a hy)
   | dsimp only)

theorem execAuxReply_only (out : Nat) (reply : Option (Nat × List Byte)) (s : State) : OnlyOut [.pages, .regs, .outs] s (execAuxReply out reply s) := by
  unfold execAuxReply
  try dsimp only
  repeat' (first
   | with_reducible exact Only.refl _ _
   | with_reducible assumption
   | with_reducible apply OnlyOut.next
   | (with_reducible apply Only.step (State.auxData_only _ _ _); decide)
   | (with_reducible apply Only.step (State.err_only _ _ _ _ _ _); decide)
   | (with_reducible apply Only.step (State.putOut_only _ _ _); decide)
   | with_reducible apply Only.ite
   | with_reducible apply OnlyOut.ite
   | split
   | dsimp only)

theorem State.enterHold_only (s : State) (cause : Nat) : Only [.devState, .holdCauses, .cmds, .engines, .msix, .pages, .regs, .hostMem, .me, .disp, .pins, .cairn] s (State.enterHold s cause) := by
  unfold State.enterHold
  try dsimp only
  repeat' (first
   | with_reducible exact Only.refl _ _
   | with_reducible assumption
   | (with_reducible apply Only.step (State.endAll_only _ _ _ _); decide)
   | (with_reducible apply Only.step (State.holdDisplay_only _); decide)
   | (with_reducible apply Only.step (State.meDrop_only _); decide)
   | (with_reducible apply Only.step (State.setDevState_only _ _); decide)
   | (with_reducible apply Only.step (State.track_only _); decide)
   | with_reducible apply Only.ite
   | split
   | (with_reducible apply Only.step Only.set_cairn; decide)
   | (with_reducible apply Only.step Only.set_holdCauses; decide)
   | dsimp only)

theorem State.clearCause_only (s : State) (cause : Nat) : Only [.holdCauses] s (State.clearCause s cause) := by
  unfold State.clearCause
  try dsimp only
  repeat' (first
   | with_reducible exact Only.refl _ _
   | with_reducible assumption
   | with_reducible apply Only.ite
   | (with_reducible apply Only.step Only.set_holdCauses; decide)
   | dsimp only)

theorem State.resumeHold_only (s : State) : Only [.devState, .steps, .groups, .engines, .msix, .pages, .mem, .hostMem, .badWords, .disp, .pins, .softWords] s (State.resumeHold s) := by
  unfold State.resumeHold
  try dsimp only
  repeat' (first
   | with_reducible exact Only.refl _ _
   | with_reducible assumption
   | (with_reducible apply Only.step (State.err_only _ _ _ _ _ _); decide)
   | (with_reducible apply Only.step (State.resumeDisplay_only _); decide)
   | (with_reducible apply Only.step (State.setDevState_only _ _); decide)
   | (with_reducible apply Only.step (State.track_only _); decide)
   | with_reducible apply Only.ite
   | split
   | dsimp only)

theorem State.stateCtrlWrite_only (s : State) (v : Nat) : Only [.devState, .holdCauses, .cmds, .steps, .groups, .engines, .msix, .pages, .regs, .mem, .hostMem, .badWords, .me, .disp, .pins, .cairn, .softWords] s (State.stateCtrlWrite s v) := by
  unfold State.stateCtrlWrite
  try dsimp only
  repeat' (first
   | with_reducible exact Only.refl _ _
   | with_reducible assumption
   | (with_reducible apply Only.step (State.clearCause_only _ _); decide)
   | (with_reducible apply Only.step (State.enterHold_only _ _); decide)
   | (with_reducible apply Only.step (State.resumeHold_only _); decide)
   | (with_reducible apply Only.step (State.setReg_only _ _ _ _ _); decide)
   | with_reducible apply Only.ite
   | split
   | dsimp only)

theorem execStateCtrlHoldSet_only (hold : Bool) (s : State) : OnlyOut [.devState, .holdCauses, .cmds, .steps, .groups, .engines, .msix, .pages, .regs, .mem, .hostMem, .badWords, .me, .disp, .pins, .cairn, .softWords] s (execStateCtrlHoldSet hold s) := by
  unfold execStateCtrlHoldSet
  try dsimp only
  repeat' (first
   | with_reducible exact Only.refl _ _
   | with_reducible assumption
   | with_reducible apply OnlyOut.next
   | (with_reducible apply Only.step (State.stateCtrlWrite_only _ _); decide)
   | with_reducible apply Only.ite
   | with_reducible apply OnlyOut.ite
   | (with_reducible apply Only.host (by decide); intro y hy)
   | dsimp only)

theorem execHoldResume_only (s : State) : OnlyOut [.devState, .holdCauses, .cmds, .steps, .groups, .engines, .msix, .pages, .regs, .mem, .hostMem, .badWords, .me, .disp, .pins, .cairn, .softWords] s (execHoldResume s) := by
  unfold execHoldResume
  try dsimp only
  repeat' (first
   | with_reducible exact Only.refl _ _
   | with_reducible assumption
   | with_reducible apply OnlyOut.next
   | (with_reducible apply Only.step (State.stateCtrlWrite_only _ _); decide)
   | with_reducible apply Only.ite
   | with_reducible apply OnlyOut.ite
   | (with_reducible apply Only.host (by decide); intro y hy)
   | dsimp only)

theorem State.backlogWaiting_only (s : State) : Only [.waiting, .backlog, .msix, .pages, .mem, .hostMem, .badWords, .softWords] s (State.backlogWaiting s) := by
  unfold State.backlogWaiting
  refine Only.elim ?_ fun a => ?_
  · split
    · exact Only.step (State.err_only _ _ _ _ _ _) (by decide) (Only.refl _ _)
    · exact Only.refl _ _
  · exact Only.foldl (fun y a hy => Only.step (State.logBack_only _ _ _) (by decide) hy) (Only.step Only.set_waiting (by decide) (Only.refl _ _))

theorem State.startBacklog_only (s : State) : Only [.waiting, .backlog, .link, .msix, .pages, .mem, .hostMem, .badWords, .softWords] s (State.startBacklog s) := by
  unfold State.startBacklog
  try dsimp only
  repeat' (first
   | with_reducible exact Only.refl _ _
   | with_reducible assumption
   | (with_reducible apply Only.step (State.backlogWaiting_only _); decide)
   | with_reducible apply Only.ite
   | (with_reducible apply Only.step Only.set_link; decide)
   | dsimp only)

theorem State.linkDown_only (s : State) (whole : Bool) : Only [.devState, .holdCauses, .cmds, .engines, .waiting, .backlog, .link, .msix, .pages, .regs, .mem, .hostMem, .badWords, .me, .ingest, .disp, .pins, .cairn, .ctrs, .softWords] s (State.linkDown s whole) := by
  unfold State.linkDown
  try dsimp only
  repeat' (first
   | with_reducible exact Only.refl _ _
   | with_reducible assumption
   | (with_reducible apply Only.step (State.bump_only _ _ _ _ _); decide)
   | (with_reducible apply Only.step (State.enterHold_only _ _); decide)
   | (with_reducible apply Only.step (State.irq_only _ _ _ _); decide)
   | (with_reducible apply Only.step (State.loseStream_only _); decide)
   | (with_reducible apply Only.step (State.startBacklog_only _); decide)
   | with_reducible apply Only.ite
   | split
   | (with_reducible apply Only.step Only.set_link; decide)
   | dsimp only)

theorem execUsb4LinkDown_only (whole : Bool) (s : State) : OnlyOut [.devState, .holdCauses, .cmds, .engines, .waiting, .backlog, .link, .msix, .pages, .regs, .mem, .hostMem, .badWords, .me, .ingest, .disp, .pins, .cairn, .ctrs, .softWords] s (execUsb4LinkDown whole s) := by
  unfold execUsb4LinkDown
  try dsimp only
  repeat' (first
   | with_reducible exact Only.refl _ _
   | with_reducible assumption
   | with_reducible apply OnlyOut.next
   | (with_reducible apply Only.step (State.linkDown_only _ _); decide)
   | with_reducible apply Only.ite
   | with_reducible apply OnlyOut.ite
   | split
   | (with_reducible apply Only.step Only.set_link; decide)
   | dsimp only)

theorem State.linkUp_only (s : State) (mode : Nat) (dp : Bool) : Only [.link, .msix, .pages, .regs, .hostMem] s (State.linkUp s mode dp) := by
  unfold State.linkUp
  try dsimp only
  repeat' (first
   | with_reducible exact Only.refl _ _
   | with_reducible assumption
   | (with_reducible apply Only.step (State.irq_only _ _ _ _); decide)
   | (with_reducible apply Only.step (State.setReg_only _ _ _ _ _); decide)
   | with_reducible apply Only.ite
   | split
   | (with_reducible apply Only.step Only.set_link_msix; decide)
   | dsimp only)

theorem State.dpTunnelUp_only (s : State) : Only [.link, .msix, .pages, .hostMem] s (State.dpTunnelUp s) := by
  unfold State.dpTunnelUp
  try dsimp only
  repeat' (first
   | with_reducible exact Only.refl _ _
   | with_reducible assumption
   | (with_reducible apply Only.step (State.irq_only _ _ _ _); decide)
   | with_reducible apply Only.ite
   | (with_reducible apply Only.step Only.set_link; decide)
   | dsimp only)

theorem execUsb4LinkUp_only (training : Bool) (mode : Nat) (dp : Bool) (s : State) : OnlyOut [.link, .msix, .pages, .regs, .hostMem] s (execUsb4LinkUp training mode dp s) := by
  unfold execUsb4LinkUp
  try dsimp only
  repeat' (first
   | with_reducible exact Only.refl _ _
   | with_reducible assumption
   | with_reducible apply OnlyOut.next
   | (with_reducible apply Only.step (State.dpTunnelUp_only _); decide)
   | (with_reducible apply Only.step (State.linkUp_only _ _ _); decide)
   | with_reducible apply Only.ite
   | with_reducible apply OnlyOut.ite
   | split
   | (with_reducible apply Only.step Only.set_link; decide)
   | dsimp only)

theorem State.unmaskVector_only (s : State) (v : Nat) : Only [.msix, .hostMem] s (State.unmaskVector s v) := by
  unfold State.unmaskVector
  try dsimp only
  repeat' (first
   | with_reducible exact Only.refl _ _
   | with_reducible assumption
   | (with_reducible apply Only.step (State.sendMessage_only _ _); decide)
   | with_reducible apply Only.ite
   | split
   | (with_reducible apply Only.step Only.set_msix; decide)
   | dsimp only)

theorem State.unmaskAll_only (s : State) : Only [.msix, .hostMem] s (State.unmaskAll s) := by
  unfold State.unmaskAll
  try dsimp only
  repeat' (first
   | with_reducible exact Only.refl _ _
   | with_reducible assumption
   | (with_reducible apply Only.step (State.unmaskVector_only _ _); decide)
   | with_reducible apply Only.ite
   | (with_reducible apply Only.foldl; intro y a hy)
   | dsimp only)

theorem State.linkResume_only (s : State) : Only [.holdCauses, .apts, .rings, .waiting, .backlog, .link, .msix, .hostMem] s (State.linkResume s) := by
  unfold State.linkResume
  try dsimp only
  repeat' (first
   | with_reducible exact Only.refl _ _
   | with_reducible assumption
   | (with_reducible apply Only.step (State.clearCause_only _ _); decide)
   | (with_reducible apply Only.step (State.pumpRing_only _ _); decide)
   | (with_reducible apply Only.step (State.unmaskAll_only _); decide)
   | (with_reducible apply Only.step (State.writeCredit_only _ _); decide)
   | with_reducible apply Only.ite
   | (with_reducible apply Only.foldl; intro y a hy)
   | (with_reducible apply Only.step Only.set_link; decide)
   | dsimp only)

theorem execLinkResume_only (s : State) : OnlyOut [.holdCauses, .apts, .rings, .waiting, .backlog, .link, .msix, .pages, .hostMem] s (execLinkResume s) := by
  unfold execLinkResume
  try dsimp only
  repeat' (first
   | with_reducible exact Only.refl _ _
   | with_reducible assumption
   | with_reducible apply OnlyOut.next
   | (with_reducible apply Only.step (State.linkResume_only _); decide)
   | with_reducible apply Only.ite
   | with_reducible apply OnlyOut.ite
   | (with_reducible apply Only.host (by decide); intro y hy)
   | dsimp only)

theorem State.bar4Read_only (s : State) (off n : Nat) : Only [.freeCount, .msix, .pages, .regs, .mem, .hostMem, .badWords, .log, .readData, .ctrs, .softWords] s (State.bar4Read s off n) := by
  unfold State.bar4Read
  try dsimp only
  repeat' (first
   | with_reducible exact Only.refl _ _
   | with_reducible assumption
   | (with_reducible apply Only.step (State.correctReads_only _ _ _ _); decide)
   | (with_reducible apply Only.step (State.err_only _ _ _ _ _ _); decide)
   | (with_reducible apply Only.step (State.free_only _); decide)
   | with_reducible apply Only.ite
   | split
   | (with_reducible apply Only.step Only.set_readData; decide)
   | dsimp only)

theorem State.bar4Write_only (s : State) (off : Nat) (bs : List Byte) : Only [.pages, .mem, .badWords, .softWords] s (State.bar4Write s off bs) := by
  unfold State.bar4Write
  try dsimp only
  repeat' (first
   | with_reducible exact Only.refl _ _
   | with_reducible assumption
   | (with_reducible apply Only.step (State.devPut_only _ _ _); decide)
   | (with_reducible apply Only.step (State.err_only _ _ _ _ _ _); decide)
   | with_reducible apply Only.ite
   | split
   | dsimp only)

theorem State.bar2Read_only (s : State) (n : Nat) : Only [.readData] s (State.bar2Read s n) := by
  unfold State.bar2Read
  try dsimp only
  repeat' (first
   | with_reducible exact Only.refl _ _
   | with_reducible assumption
   | with_reducible apply Only.ite
   | (with_reducible apply Only.step Only.set_readData; decide)
   | dsimp only)

theorem execBar4Access_only (off : Nat) (access : BarAccess) (s : State) : OnlyOut [.freeCount, .msix, .pages, .regs, .mem, .hostMem, .badWords, .log, .readData, .ctrs, .softWords] s (execBar4Access off access s) := by
  unfold execBar4Access
  try dsimp only
  repeat' (first
   | with_reducible exact Only.refl _ _
   | with_reducible assumption
   | with_reducible apply OnlyOut.next
   | (with_reducible apply Only.step (State.bar2Read_only _ _); decide)
   | (with_reducible apply Only.step (State.bar4Read_only _ _ _); decide)
   | (with_reducible apply Only.step (State.bar4Write_only _ _ _); decide)
   | with_reducible apply Only.ite
   | with_reducible apply OnlyOut.ite
   | split
   | dsimp only)

theorem State.disableApt_only (s : State) (n : Nat) : Only [.apts, .aptSlots] s (State.disableApt s n) := by
  unfold State.disableApt
  try dsimp only
  repeat' (first
   | with_reducible exact Only.refl _ _
   | with_reducible assumption
   | (with_reducible apply Only.step (State.putApt_only _ _ _); decide)
   | with_reducible apply Only.ite
   | (with_reducible apply Only.step Only.set_aptSlots; decide)
   | dsimp only)

theorem State.aptCtrlWrite_only (s : State) (n v : Nat) : Only [.apts, .aptSlots, .pages] s (State.aptCtrlWrite s n v) := by
  unfold State.aptCtrlWrite
  try dsimp only
  repeat' (first
   | with_reducible exact Only.refl _ _
   | with_reducible assumption
   | (with_reducible apply Only.step (State.disableApt_only _ _); decide)
   | (with_reducible apply Only.step (State.err_only _ _ _ _ _ _); decide)
   | (with_reducible apply Only.step (State.putApt_only _ _ _); decide)
   | with_reducible apply Only.ite
   | split
   | dsimp only)

theorem execAptCtrlWrite_only (value : Nat) (s : State) : OnlyOut [.apts, .aptSlots, .pages] s (execAptCtrlWrite value s) := by
  unfold execAptCtrlWrite
  try dsimp only
  repeat' (first
   | with_reducible exact Only.refl _ _
   | with_reducible assumption
   | with_reducible apply OnlyOut.next
   | (with_reducible apply Only.step (State.aptCtrlWrite_only _ _ _); decide)
   | with_reducible apply Only.ite
   | with_reducible apply OnlyOut.ite
   | (with_reducible apply Only.host (by decide); intro y hy)
   | dsimp only)

theorem State.aptConsumedWrite_only (s : State) (n v : Nat) : Only [.apts, .pages] s (State.aptConsumedWrite s n v) := by
  unfold State.aptConsumedWrite
  try dsimp only
  repeat' (first
   | with_reducible exact Only.refl _ _
   | with_reducible assumption
   | (with_reducible apply Only.step (State.err_only _ _ _ _ _ _); decide)
   | (with_reducible apply Only.step (State.putApt_only _ _ _); decide)
   | with_reducible apply Only.ite
   | split
   | dsimp only)

theorem execAptConsumedWrite_only (value : Nat) (s : State) : OnlyOut [.apts, .pages] s (execAptConsumedWrite value s) := by
  unfold execAptConsumedWrite
  try dsimp only
  repeat' (first
   | with_reducible exact Only.refl _ _
   | with_reducible assumption
   | with_reducible apply OnlyOut.next
   | (with_reducible apply Only.step (State.aptConsumedWrite_only _ _ _); decide)
   | with_reducible apply Only.ite
   | with_reducible apply OnlyOut.ite
   | (with_reducible apply Only.host (by decide); intro y hy)
   | dsimp only)

theorem State.ringConsWrite_only (s : State) (m v : Nat) : Only [.rings, .waiting, .backlog, .msix, .hostMem] s (State.ringConsWrite s m v) := by
  unfold State.ringConsWrite
  try dsimp only
  repeat' (first
   | with_reducible exact Only.refl _ _
   | with_reducible assumption
   | (with_reducible apply Only.step (State.pumpRing_only _ _); decide)
   | (with_reducible apply Only.step (State.putRing_only _ _ _); decide)
   | with_reducible apply Only.ite
   | dsimp only)

theorem execRingConsWrite_only (value : Nat) (s : State) : OnlyOut [.rings, .waiting, .backlog, .msix, .pages, .hostMem] s (execRingConsWrite value s) := by
  unfold execRingConsWrite
  try dsimp only
  repeat' (first
   | with_reducible exact Only.refl _ _
   | with_reducible assumption
   | with_reducible apply OnlyOut.next
   | (with_reducible apply Only.step (State.ringConsWrite_only _ _ _); decide)
   | with_reducible apply Only.ite
   | with_reducible apply OnlyOut.ite
   | (with_reducible apply Only.host (by decide); intro y hy)
   | dsimp only)

theorem State.ringCtrlWrite_only (s : State) (m v : Nat) : Only [.rings, .waiting, .backlog, .msix, .hostMem] s (State.ringCtrlWrite s m v) := by
  unfold State.ringCtrlWrite
  try dsimp only
  repeat' (first
   | with_reducible exact Only.refl _ _
   | with_reducible assumption
   | (with_reducible apply Only.step (State.pumpRing_only _ _); decide)
   | (with_reducible apply Only.step (State.putRing_only _ _ _); decide)
   | with_reducible apply Only.ite
   | dsimp only)

theorem execRingCtrlWrite_only (value : Nat) (s : State) : OnlyOut [.rings, .waiting, .backlog, .msix, .pages, .hostMem] s (execRingCtrlWrite value s) := by
  unfold execRingCtrlWrite
  try dsimp only
  repeat' (first
   | with_reducible exact Only.refl _ _
   | with_reducible assumption
   | with_reducible apply OnlyOut.next
   | (with_reducible apply Only.step (State.ringCtrlWrite_only _ _ _); decide)
   | with_reducible apply Only.ite
   | with_reducible apply OnlyOut.ite
   | (with_reducible apply Only.host (by decide); intro y hy)
   | dsimp only)

theorem State.ringProdWrite_only (s : State) (m v : Nat) : Only [.rings] s (State.ringProdWrite s m v) := by
  unfold State.ringProdWrite
  try dsimp only
  repeat' (first
   | with_reducible exact Only.refl _ _
   | with_reducible assumption
   | (with_reducible apply Only.step (State.putRing_only _ _ _); decide)
   | with_reducible apply Only.ite
   | split
   | dsimp only)

theorem State.msixWrite_only (s : State) (k v : Nat) : Only [.msix, .hostMem] s (State.msixWrite s k v) := by
  unfold State.msixWrite
  try dsimp only
  repeat' (first
   | with_reducible exact Only.refl _ _
   | with_reducible assumption
   | (with_reducible apply Only.step (State.unmaskVector_only _ _); decide)
   | with_reducible apply Only.ite
   | split
   | (with_reducible apply Only.step Only.set_msix; decide)
   | dsimp only)

theorem execMsixVectorUnmask_only (vector : Option Nat) (s : State) : OnlyOut [.msix, .hostMem] s (execMsixVectorUnmask vector s) := by
  unfold execMsixVectorUnmask
  try dsimp only
  repeat' (first
   | with_reducible exact Only.refl _ _
   | with_reducible assumption
   | with_reducible apply OnlyOut.next
   | (with_reducible apply Only.step (State.msixWrite_only _ _ _); decide)
   | (with_reducible apply Only.step (State.unmaskAll_only _); decide)
   | with_reducible apply Only.ite
   | with_reducible apply OnlyOut.ite
   | split
   | (with_reducible apply Only.step Only.set_msix; decide)
   | dsimp only)

end Sys2Proof.Machine
end

