-- ==== Sys2Proof/Laws/FrameSystem.lean ====
section
/-!
SUPPORT. Which fields of the state each operation can change: faults, the fabric, audit, power and boot.
-/

-- One proof at a time: the proofs of this file are many, and run together they take many threads at once.
set_option Elab.async false

set_option linter.unusedTactic false
set_option linter.unreachableTactic false

namespace Sys2Proof.Machine

theorem State.finishGroup_only (s : State) (g : Machine.Group) : Only [.cmds, .steps, .groups, .colls, .engines, .flags, .rings, .waiting, .backlog, .msix, .pages, .regs, .mem, .hostMem, .badWords, .me, .raster, .traceGap, .log, .ctrs, .softWords, .traceFill, .traceAt] s (State.finishGroup s g) := by
  unfold State.finishGroup
  try dsimp only
  repeat' (first
   | with_reducible exact Only.refl _ _
   | with_reducible assumption
   | (with_reducible apply Only.step (State.endReplay_only _ _ _); decide)
   | (with_reducible apply Only.step (State.produce_only _ _ _ _); decide)
   | with_reducible apply Only.ite
   | (with_reducible apply Only.foldl; intro y a hy)
   | split
   | dsimp only)

theorem State.regroup_only (s : State) (x : Step) (g : Machine.Group) (e : Nat) : Only [.cmds, .groups, .engines, .mem, .badWords, .softWords] s (State.regroup s x g e) := by
  unfold State.regroup
  try dsimp only
  repeat' (first
   | with_reducible exact Only.refl _ _
   | with_reducible assumption
   | (with_reducible apply Only.step (State.putEntry_only _ _ _ _); decide)
   | (with_reducible apply Only.step (State.putGroup_only _ _); decide)
   | (with_reducible apply Only.step (State.wake_only _ _); decide)
   | with_reducible apply Only.ite
   | split
   | (with_reducible apply Only.step Only.set_cmds; decide)
   | dsimp only)

theorem State.failGroup_only (s : State) (g : Machine.Group) (st : Status) : Only [.cmds, .groups] s (State.failGroup s g st) := by
  unfold State.failGroup
  try dsimp only
  repeat' (first
   | with_reducible exact Only.refl _ _
   | with_reducible assumption
   | (with_reducible apply Only.step (State.endAll_only _ _ _ _); decide)
   | (with_reducible apply Only.step (State.putGroup_only _ _); decide)
   | with_reducible apply Only.ite
   | split
   | dsimp only)

theorem State.moveGroup_only (s : State) (st : Status) (g0 : Machine.Group) : Only [.cmds, .steps, .groups, .colls, .engines, .flags, .rings, .waiting, .backlog, .msix, .pages, .regs, .mem, .hostMem, .badWords, .me, .raster, .traceGap, .log, .ctrs, .softWords, .traceFill, .traceAt] s (State.moveGroup s st g0).1 := by
  unfold State.moveGroup
  try dsimp only
  repeat' (first
   | with_reducible exact Only.refl _ _
   | with_reducible assumption
   | (with_reducible apply Only.step (State.failGroup_only _ _ _); decide)
   | (with_reducible apply Only.step (State.finishGroup_only _ _); decide)
   | (with_reducible apply Only.step (State.regroup_only _ _ _ _); decide)
   | with_reducible apply Only.ite
   | split
   | dsimp only)

theorem State.moveFrom_only (s : State) (e : Nat) (st : Status) : Only [.cmds, .steps, .groups, .colls, .engines, .flags, .rings, .waiting, .backlog, .msix, .pages, .regs, .mem, .hostMem, .badWords, .me, .raster, .traceGap, .log, .ctrs, .softWords, .traceFill, .traceAt] s (State.moveFrom s e st).1 := by
  unfold State.moveFrom
  try dsimp only
  repeat' (first
   | with_reducible exact Only.refl _ _
   | with_reducible assumption
   | (with_reducible apply Only.step (State.moveGroup_only _ _ _); decide)
   | with_reducible apply Only.ite
   | (with_reducible apply Only.foldl_fst; intro y a r hr hy; subst hr)
   | dsimp only)

theorem State.disableQueued_only (s : State) (b : Blk) (i : Nat) : Only [.cmds] s (State.disableQueued s b i) := by
  unfold State.disableQueued
  try dsimp only
  repeat' (first
   | with_reducible exact Only.refl _ _
   | with_reducible assumption
   | (with_reducible apply Only.step (State.endAll_only _ _ _ _); decide)
   | with_reducible apply Only.ite
   | dsimp only)

theorem State.discardPasses_only (s : State) : Only [.msix, .pages, .hostMem, .raster] s (State.discardPasses s) := by
  unfold State.discardPasses
  try dsimp only
  repeat' (first
   | with_reducible exact Only.refl _ _
   | with_reducible assumption
   | (with_reducible apply Only.step (State.rasterRest_only _); decide)
   | with_reducible apply Only.ite
   | (with_reducible apply Only.step Only.set_raster; decide)
   | dsimp only)

theorem State.clearEnable_only (s : State) (b : Blk) (i : Nat) : Only [.cmds, .steps, .groups, .colls, .engines, .flags, .rings, .waiting, .backlog, .msix, .pages, .regs, .mem, .hostMem, .badWords, .me, .raster, .disp, .traceGap, .log, .ctrs, .softWords, .traceFill, .traceAt] s (State.clearEnable s b i).1 := by
  unfold State.clearEnable
  try dsimp only
  repeat' (first
   | with_reducible exact Only.refl _ _
   | with_reducible assumption
   | (with_reducible apply Only.step (State.bump_only _ _ _ _ _); decide)
   | (with_reducible apply Only.step (State.disableQueued_only _ _ _); decide)
   | (with_reducible apply Only.step (State.discardPasses_only _); decide)
   | (with_reducible apply Only.step (State.moveFrom_only _ _ _); decide)
   | (with_reducible apply Only.step (State.putPage_only _ _ _ _); decide)
   | (with_reducible apply Only.step (State.stopDisplay_only _); decide)
   | with_reducible apply Only.ite
   | split
   | dsimp only)

theorem State.runQueued_only (s : State) (c : Cmd) : OnlyOut [.now, .freeCount, .cmds, .fetches, .colls, .jobs, .engines, .msix, .dma, .pages, .regs, .mem, .hostMem, .badWords, .traceGap, .log, .ctrs, .softWords, .traceFill, .traceAt, .issue] s (State.runQueued s c) := by
  unfold State.runQueued
  try dsimp only
  repeat' (first
   | with_reducible exact Only.refl _ _
   | with_reducible assumption
   | with_reducible apply OnlyOut.next
   | (with_reducible apply OnlyOut.step (execDmaCopy_only _ _); decide)
   | (with_reducible apply OnlyOut.step (execNeAccClear_only _ _); decide)
   | (with_reducible apply OnlyOut.step (execNeAccDrain_only _ _); decide)
   | (with_reducible apply OnlyOut.step (execNeAccLoad_only _ _); decide)
   | (with_reducible apply OnlyOut.step (execNeAccStore_only _ _); decide)
   | (with_reducible apply OnlyOut.step (execNeGemm_only _ _); decide)
   | (with_reducible apply OnlyOut.step (execPostDecode_only _ _); decide)
   | (with_reducible apply OnlyOut.step (execPostSuppress_only _ _); decide)
   | (with_reducible apply OnlyOut.step (execVeDwconv_only _ _); decide)
   | (with_reducible apply OnlyOut.step (execVeEwise_only _ _); decide)
   | (with_reducible apply OnlyOut.step (execVeFunc_only _ _); decide)
   | (with_reducible apply OnlyOut.step (execVeKsel_only _ _); decide)
   | (with_reducible apply OnlyOut.step (execVeMerge_only _ _); decide)
   | (with_reducible apply OnlyOut.step (execVeOptim_only _ _); decide)
   | (with_reducible apply OnlyOut.step (execVeReduce_only _ _); decide)
   | (with_reducible apply OnlyOut.step (execVeXreduce_only _ _); decide)
   | (with_reducible apply OnlyOut.step (execXpC2s_only _ _); decide)
   | (with_reducible apply OnlyOut.step (execXpCopy_only _ _); decide)
   | (with_reducible apply OnlyOut.step (execXpExpand_only _ _); decide)
   | (with_reducible apply OnlyOut.step (execXpS2c_only _ _); decide)
   | (with_reducible apply OnlyOut.step (execXpUpsample_only _ _); decide)
   | with_reducible apply Only.ite
   | with_reducible apply OnlyOut.ite
   | split
   | dsimp only)

theorem State.partly_only (s t : State) (g : Nat) : Only [.freeCount, .engines, .mem, .hostMem] s (State.partly s t g) := by
  unfold State.partly
  exact Only.step Only.set_mem_hostMem (by decide) (Only.step (State.putEngine_only _ _ _) (by decide)
    (Only.step (State.free_only _) (by decide) (Only.step (State.free_only _) (by decide) (Only.refl _ _))))

theorem State.stoppedOutput_only (s : State) (c : Cmd) : Only [.now, .freeCount, .cmds, .fetches, .colls, .jobs, .engines, .msix, .dma, .pages, .regs, .mem, .hostMem, .badWords, .raster, .traceGap, .log, .ctrs, .softWords, .traceFill, .traceAt, .issue] s (State.stoppedOutput s c) := by
  unfold State.stoppedOutput
  try dsimp only
  repeat' (first
   | with_reducible exact Only.refl _ _
   | with_reducible assumption
   | (with_reducible apply Only.step (State.free_only _); decide)
   | (with_reducible apply Only.step (State.listPart_only _ _ _ _ _ _ _ _); decide)
   | (with_reducible apply Only.step (State.maskWrite_only _ _ _ _ _); decide)
   | (with_reducible apply Only.step (State.partly_only _ _ _); decide)
   | (with_reducible apply Only.step (State.postPart_only _ _); decide)
   | (with_reducible apply Only.step (State.runItem_only _ _); decide)
   | (with_reducible apply OnlyOut.step (State.runQueued_only _ _); decide)
   | with_reducible apply Only.ite
   | split
   | dsimp only)

theorem State.dropRunning_only (s : State) (c : Cmd) (st : Status) (cause : Nat) : Only [.cmds, .regs, .me] s (State.dropRunning s c st cause) := by
  unfold State.dropRunning
  try dsimp only
  repeat' (first
   | with_reducible exact Only.refl _ _
   | with_reducible assumption
   | (with_reducible apply Only.step (State.endCmd_only _ _ _ _); decide)
   | (with_reducible apply Only.step (State.meDrop_only _); decide)
   | with_reducible apply Only.ite
   | split
   | dsimp only)

theorem State.cutShort_only (s : State) (c : Cmd) : Only [.now, .freeCount, .cmds, .fetches, .colls, .jobs, .engines, .msix, .dma, .pages, .regs, .mem, .hostMem, .badWords, .raster, .traceGap, .log, .ctrs, .softWords, .traceFill, .traceAt, .issue] s (State.cutShort s c) := by
  unfold State.cutShort
  try dsimp only
  repeat' (first
   | with_reducible exact Only.refl _ _
   | with_reducible assumption
   | (with_reducible apply Only.step (State.starts_only _ _); decide)
   | (with_reducible apply Only.step (State.stoppedOutput_only _ _); decide)
   | with_reducible apply Only.ite
   | split
   | dsimp only)

theorem execUnitWatchdogExpiry_only (uid : Nat) (s : State) : OnlyOut [.now, .freeCount, .cmds, .fetches, .colls, .jobs, .engines, .msix, .dma, .pages, .regs, .mem, .hostMem, .badWords, .me, .raster, .traceGap, .log, .ctrs, .softWords, .traceFill, .traceAt, .issue] s (execUnitWatchdogExpiry uid s) := by
  unfold execUnitWatchdogExpiry
  try dsimp only
  repeat' (first
   | with_reducible exact Only.refl _ _
   | with_reducible assumption
   | with_reducible apply OnlyOut.next
   | (with_reducible apply Only.step (State.at_only _ _); decide)
   | (with_reducible apply Only.step (State.cutShort_only _ _); decide)
   | (with_reducible apply Only.step (State.err_only _ _ _ _ _ _); decide)
   | (with_reducible apply Only.step (State.faultCmd_only _ _ _ _ _); decide)
   | (with_reducible apply Only.step (State.irq_only _ _ _ _); decide)
   | (with_reducible apply Only.step (State.meDrop_only _); decide)
   | (with_reducible apply Only.step (State.track_only _); decide)
   | with_reducible apply Only.ite
   | with_reducible apply OnlyOut.ite
   | split
   | dsimp only)

theorem State.faultBlock_only (s : State) (b : Blk) (i : Nat) (watchdog : Bool) (run : Option Cmd) : Only [.now, .freeCount, .cmds, .fetches, .colls, .jobs, .engines, .msix, .dma, .pages, .regs, .mem, .hostMem, .badWords, .me, .raster, .traceGap, .log, .ctrs, .softWords, .traceFill, .traceAt, .issue] s (State.faultBlock s b i watchdog run) := by
  unfold State.faultBlock
  try dsimp only
  repeat' (first
   | with_reducible exact Only.refl _ _
   | with_reducible assumption
   | (with_reducible apply Only.step (State.cutShort_only _ _); decide)
   | (with_reducible apply Only.step (State.dropRunning_only _ _ _ _); decide)
   | (with_reducible apply Only.step (State.err_only _ _ _ _ _ _); decide)
   | (with_reducible apply Only.step (State.irq_only _ _ _ _); decide)
   | (with_reducible apply Only.step (State.putPage_only _ _ _ _); decide)
   | with_reducible apply Only.ite
   | split
   | dsimp only)

theorem execBlockFault_only (b : Blk) (i : Nat) (watchdog : Bool) (running : Option Nat) (s : State) : OnlyOut (fieldsBut [.pending, .part, .devState, .holdCauses, .cdLost, .mdLost, .nextUid, .windows, .saveBase, .apts, .aptSlots, .link, .stopped, .resetPending, .latch, .insole, .protEff, .ingest, .outs, .readData, .pins, .bw, .pwr, .boot, .welt, .refresh, .cairn, .snaps, .dbg, .lastFw, .sleeping, .timeFrac]) s (execBlockFault b i watchdog running s) := by
  unfold execBlockFault
  try dsimp only
  repeat' (first
   | with_reducible exact Only.refl _ _
   | with_reducible assumption
   | with_reducible apply OnlyOut.next
   | (with_reducible apply Only.step (State.clearEnable_only _ _ _); decide)
   | (with_reducible apply Only.step (State.faultBlock_only _ _ _ _ _); decide)
   | (with_reducible apply Only.step (State.free_only _); decide)
   | (with_reducible apply Only.step (State.logFault_only _ _ _ _ _ _ _ _ _); decide)
   | (with_reducible apply Only.step (State.track_only _); decide)
   | with_reducible apply Only.ite
   | with_reducible apply OnlyOut.ite
   | split
   | dsimp only)

theorem State.endOnDie_only (s : State) (n : Nat) : Only [.cmds] s (State.endOnDie s n) := by
  unfold State.endOnDie
  try dsimp only
  repeat' (first
   | with_reducible exact Only.refl _ _
   | with_reducible assumption
   | (with_reducible apply Only.step (State.endAll_only _ _ _ _); decide)
   | with_reducible apply Only.ite
   | dsimp only)

theorem State.clearDie_only (s : State) (n : Nat) : Only [.fetches, .engines, .mem, .badWords, .softWords] s (State.clearDie s n) := by
  unfold State.clearDie
  try dsimp only
  repeat' (first
   | with_reducible exact Only.refl _ _
   | with_reducible assumption
   | (with_reducible apply Only.step (State.devClear_only _ _ _); decide)
   | (with_reducible apply Only.step (State.putEngine_only _ _ _); decide)
   | with_reducible apply Only.ite
   | (with_reducible apply Only.step Only.set_fetches; decide)
   | dsimp only)

theorem State.setDieState_only (s : State) (b : Blk) (i st : Nat) : Only [.regs] s (State.setDieState s b i st) := by
  unfold State.setDieState
  try dsimp only
  repeat' (first
   | with_reducible exact Only.refl _ _
   | with_reducible assumption
   | (with_reducible apply Only.step (State.setReg_only _ _ _ _ _); decide)
   | with_reducible apply Only.ite
   | dsimp only)

theorem State.loseCd_only (s : State) (n : Nat) : Only [.freeCount, .cdLost, .cmds, .steps, .groups, .fetches, .colls, .engines, .flags, .rings, .waiting, .backlog, .msix, .pages, .regs, .mem, .hostMem, .badWords, .me, .raster, .traceGap, .log, .pins, .ctrs, .softWords, .traceFill, .traceAt] s (State.loseCd s n) := by
  unfold State.loseCd
  try dsimp only
  repeat' (first
   | with_reducible exact Only.refl _ _
   | with_reducible assumption
   | (with_reducible apply Only.step (State.bump_only _ _ _ _ _); decide)
   | (with_reducible apply Only.step (State.clearDie_only _ _); decide)
   | (with_reducible apply Only.step (State.endOnDie_only _ _); decide)
   | (with_reducible apply Only.step (State.free_only _); decide)
   | (with_reducible apply Only.step (State.irq_only _ _ _ _); decide)
   | (with_reducible apply Only.step (State.logFault_only _ _ _ _ _ _ _ _ _); decide)
   | (with_reducible apply Only.step (State.moveFrom_only _ _ _); decide)
   | (with_reducible apply Only.step (State.setDieState_only _ _ _ _); decide)
   | (with_reducible apply Only.step (State.track_only _); decide)
   | with_reducible apply Only.ite
   | (with_reducible apply Only.step Only.set_cdLost_pins; decide)
   | dsimp only)

theorem State.loseMd_only (s : State) : Only [.freeCount, .mdLost, .cmds, .engines, .msix, .pages, .regs, .mem, .hostMem, .badWords, .me, .log, .pins, .softWords] s (State.loseMd s) := by
  unfold State.loseMd
  try dsimp only
  repeat' (first
   | with_reducible exact Only.refl _ _
   | with_reducible assumption
   | (with_reducible apply Only.step (State.endAll_only _ _ _ _); decide)
   | (with_reducible apply Only.step (State.free_only _); decide)
   | (with_reducible apply Only.step (State.irq_only _ _ _ _); decide)
   | (with_reducible apply Only.step (State.logFault_only _ _ _ _ _ _ _ _ _); decide)
   | (with_reducible apply Only.step (State.meDrop_only _); decide)
   | (with_reducible apply Only.step (State.setDieState_only _ _ _ _); decide)
   | (with_reducible apply Only.step (State.track_only _); decide)
   | with_reducible apply Only.ite
   | (with_reducible apply Only.step Only.set_mdLost_pins; decide)
   | dsimp only)

theorem State.loseDie_only (s : State) (n : Nat) : Only [.freeCount, .cdLost, .mdLost, .cmds, .steps, .groups, .fetches, .colls, .engines, .flags, .rings, .waiting, .backlog, .msix, .pages, .regs, .mem, .hostMem, .badWords, .me, .raster, .traceGap, .log, .pins, .ctrs, .softWords, .traceFill, .traceAt] s (State.loseDie s n) := by
  unfold State.loseDie
  try dsimp only
  repeat' (first
   | with_reducible exact Only.refl _ _
   | with_reducible assumption
   | (with_reducible apply Only.step (State.loseCd_only _ _); decide)
   | (with_reducible apply Only.step (State.loseMd_only _); decide)
   | with_reducible apply Only.ite
   | split
   | dsimp only)

theorem State.microcode_only (s : State) (die : Nat) (unit : Option Nat) : Only [.pages] s (State.microcode s die unit) := by
  unfold State.microcode
  try dsimp only
  repeat' (first
   | with_reducible exact Only.refl _ _
   | with_reducible assumption
   | (with_reducible apply Only.step (State.err_only _ _ _ _ _ _); decide)
   | with_reducible apply Only.ite
   | split
   | dsimp only)

theorem execDieLoss_only (die : Nat) (unit : Option Nat) (s : State) : OnlyOut [.freeCount, .cdLost, .mdLost, .cmds, .steps, .groups, .fetches, .colls, .engines, .flags, .rings, .waiting, .backlog, .msix, .pages, .regs, .mem, .hostMem, .badWords, .me, .raster, .traceGap, .log, .pins, .ctrs, .softWords, .traceFill, .traceAt] s (execDieLoss die unit s) := by
  unfold execDieLoss
  try dsimp only
  repeat' (first
   | with_reducible exact Only.refl _ _
   | with_reducible assumption
   | with_reducible apply OnlyOut.next
   | (with_reducible apply Only.step (State.err_only _ _ _ _ _ _); decide)
   | (with_reducible apply Only.step (State.irq_only _ _ _ _); decide)
   | (with_reducible apply Only.step (State.loseDie_only _ _); decide)
   | (with_reducible apply Only.step (State.microcode_only _ _ _); decide)
   | with_reducible apply Only.ite
   | with_reducible apply OnlyOut.ite
   | split
   | dsimp only)

theorem execHeartbeatTimeout_only (die since : Nat) (s : State) : OnlyOut (fieldsBut [.pending, .part, .devState, .holdCauses, .nextUid, .jobs, .windows, .saveBase, .apts, .aptSlots, .link, .dma, .stopped, .resetPending, .latch, .insole, .protEff, .ingest, .disp, .outs, .readData, .bw, .pwr, .boot, .welt, .refresh, .cairn, .snaps, .dbg, .lastFw, .sleeping, .issue, .timeFrac]) s (execHeartbeatTimeout die since s) := by
  unfold execHeartbeatTimeout
  try dsimp only
  repeat' (first
   | with_reducible exact Only.refl _ _
   | with_reducible assumption
   | with_reducible apply OnlyOut.next
   | (with_reducible apply Only.step (State.at_only _ _); decide)
   | (with_reducible apply Only.step (State.loseDie_only _ _); decide)
   | with_reducible apply Only.ite
   | with_reducible apply OnlyOut.ite
   | dsimp only)

theorem State.retireWrite_only (s : State) (v : Nat) : Only [.freeCount, .cdLost, .mdLost, .cmds, .steps, .groups, .fetches, .colls, .engines, .flags, .rings, .waiting, .backlog, .msix, .pages, .regs, .mem, .hostMem, .badWords, .me, .raster, .traceGap, .log, .pins, .ctrs, .softWords, .traceFill, .traceAt] s (State.retireWrite s v) := by
  unfold State.retireWrite
  try dsimp only
  repeat' (first
   | with_reducible exact Only.refl _ _
   | with_reducible assumption
   | (with_reducible apply Only.step (State.err_only _ _ _ _ _ _); decide)
   | (with_reducible apply Only.step (State.loseDie_only _ _); decide)
   | with_reducible apply Only.ite
   | (with_reducible apply Only.foldl; intro y a hy)
   | split
   | dsimp only)

theorem execRetire_only (value : Nat) (s : State) : OnlyOut [.freeCount, .cdLost, .mdLost, .cmds, .steps, .groups, .fetches, .colls, .engines, .flags, .rings, .waiting, .backlog, .msix, .pages, .regs, .mem, .hostMem, .badWords, .me, .raster, .traceGap, .log, .pins, .ctrs, .softWords, .traceFill, .traceAt] s (execRetire value s) := by
  unfold execRetire
  try dsimp only
  repeat' (first
   | with_reducible exact Only.refl _ _
   | with_reducible assumption
   | with_reducible apply OnlyOut.next
   | (with_reducible apply Only.step (State.retireWrite_only _ _); decide)
   | with_reducible apply Only.ite
   | with_reducible apply OnlyOut.ite
   | split
   | dsimp only)

theorem State.fatal_only (s : State) (b : Blk) (i : Nat) : Only [.freeCount, .cmds, .engines, .msix, .stopped, .pages, .regs, .mem, .hostMem, .badWords, .me, .log, .softWords] s (State.fatal s b i) := by
  unfold State.fatal
  try dsimp only
  repeat' (first
   | with_reducible exact Only.refl _ _
   | with_reducible assumption
   | (with_reducible apply Only.step (State.endAll_only _ _ _ _); decide)
   | (with_reducible apply Only.step (State.free_only _); decide)
   | (with_reducible apply Only.step (State.logFault_only _ _ _ _ _ _ _ _ _); decide)
   | (with_reducible apply Only.step (State.meDrop_only _); decide)
   | (with_reducible apply Only.step (State.setReg_only _ _ _ _ _); decide)
   | (with_reducible apply Only.step (State.track_only _); decide)
   | with_reducible apply Only.ite
   | (with_reducible apply Only.step Only.set_stopped; decide)
   | dsimp only)

theorem execFatalFault_only (b : Blk) (port : Nat) (s : State) : OnlyOut [.freeCount, .cmds, .engines, .msix, .stopped, .pages, .regs, .mem, .hostMem, .badWords, .me, .log, .softWords] s (execFatalFault b port s) := by
  unfold execFatalFault
  try dsimp only
  repeat' (first
   | with_reducible exact Only.refl _ _
   | with_reducible assumption
   | with_reducible apply OnlyOut.next
   | (with_reducible apply Only.step (State.fatal_only _ _ _); decide)
   | with_reducible apply Only.ite
   | with_reducible apply OnlyOut.ite
   | split
   | dsimp only)

theorem State.fwRestart_only (s : State) : Only [.outs, .lastFw] s (State.fwRestart s) := by
  unfold State.fwRestart
  try dsimp only
  repeat' (first
   | with_reducible exact Only.refl _ _
   | with_reducible assumption
   | (with_reducible apply Only.step (State.nackAux_only _); decide)
   | with_reducible apply Only.ite
   | (with_reducible apply Only.step Only.set_lastFw; decide)
   | dsimp only)

theorem execHubFwWatchdog_only (core : Nat) (s : State) : OnlyOut [.freeCount, .cmds, .engines, .msix, .stopped, .pages, .regs, .mem, .hostMem, .badWords, .me, .outs, .log, .lastFw, .softWords] s (execHubFwWatchdog core s) := by
  unfold execHubFwWatchdog
  try dsimp only
  repeat' (first
   | with_reducible exact Only.refl _ _
   | with_reducible assumption
   | with_reducible apply OnlyOut.next
   | (with_reducible apply Only.step (State.fatal_only _ _ _); decide)
   | (with_reducible apply Only.step (State.free_only _); decide)
   | (with_reducible apply Only.step (State.fwRestart_only _); decide)
   | (with_reducible apply Only.step (State.logFault_only _ _ _ _ _ _ _ _ _); decide)
   | with_reducible apply Only.ite
   | with_reducible apply OnlyOut.ite
   | split
   | dsimp only)

theorem State.flagEccPoison_only (s : State) (f : Nat) : Only [.freeCount, .engines, .flags, .msix, .pages, .regs, .mem, .hostMem, .badWords, .log, .softWords] s (State.flagEccPoison s f) := by
  unfold State.flagEccPoison
  try dsimp only
  repeat' (first
   | with_reducible exact Only.refl _ _
   | with_reducible assumption
   | (with_reducible apply Only.step (State.free_only _); decide)
   | (with_reducible apply Only.step (State.logFault_only _ _ _ _ _ _ _ _ _); decide)
   | (with_reducible apply Only.step (State.poisonFlag_only _ _); decide)
   | (with_reducible apply Only.step (State.track_only _); decide)
   | with_reducible apply Only.ite
   | dsimp only)

theorem execFlagEccPoison_only (flag : Nat) (s : State) : OnlyOut [.freeCount, .engines, .flags, .msix, .pages, .regs, .mem, .hostMem, .badWords, .log, .softWords] s (execFlagEccPoison flag s) := by
  unfold execFlagEccPoison
  try dsimp only
  repeat' (first
   | with_reducible exact Only.refl _ _
   | with_reducible assumption
   | with_reducible apply OnlyOut.next
   | (with_reducible apply Only.step (State.flagEccPoison_only _ _); decide)
   | with_reducible apply Only.ite
   | with_reducible apply OnlyOut.ite
   | split
   | dsimp only)

theorem State.flagGenWrite_only (s : State) (v : Nat) : Only [.engines, .flags, .msix, .pages, .hostMem, .me] s (State.flagGenWrite s v) := by
  unfold State.flagGenWrite
  try dsimp only
  repeat' (first
   | with_reducible exact Only.refl _ _
   | with_reducible assumption
   | (with_reducible apply Only.step (State.irq_only _ _ _ _); decide)
   | (with_reducible apply Only.step (State.track_only _); decide)
   | (with_reducible apply Only.step (State.writeFlag_only _ _ _); decide)
   | with_reducible apply Only.ite
   | split
   | dsimp only)

theorem execFlagGenWrite_only (value : Nat) (s : State) : OnlyOut [.engines, .flags, .msix, .pages, .hostMem, .me] s (execFlagGenWrite value s) := by
  unfold execFlagGenWrite
  try dsimp only
  repeat' (first
   | with_reducible exact Only.refl _ _
   | with_reducible assumption
   | with_reducible apply OnlyOut.next
   | (with_reducible apply Only.step (State.flagGenWrite_only _ _); decide)
   | with_reducible apply Only.ite
   | with_reducible apply OnlyOut.ite
   | (with_reducible apply Only.host (by decide); intro y hy)
   | dsimp only)

theorem State.windowWrite_only (s : State) (die which v : Nat) : Only [.windows, .pages] s (State.windowWrite s die which v) := by
  unfold State.windowWrite
  try dsimp only
  repeat' (first
   | with_reducible exact Only.refl _ _
   | with_reducible assumption
   | (with_reducible apply Only.step (State.err_only _ _ _ _ _ _); decide)
   | with_reducible apply Only.ite
   | split
   | (with_reducible apply Only.step Only.set_windows; decide)
   | dsimp only)

theorem execTmemWindowWrite_only (die which value : Nat) (s : State) : OnlyOut [.windows, .pages] s (execTmemWindowWrite die which value s) := by
  unfold execTmemWindowWrite
  try dsimp only
  repeat' (first
   | with_reducible exact Only.refl _ _
   | with_reducible assumption
   | with_reducible apply OnlyOut.next
   | (with_reducible apply Only.step (State.windowWrite_only _ _ _ _); decide)
   | with_reducible apply Only.ite
   | with_reducible apply OnlyOut.ite
   | (with_reducible apply Only.host (by decide); intro y hy)
   | split
   | dsimp only)

theorem State.spoil_only (s : State) (a : Nat) : Only [.badWords] s (State.spoil s a) := by
  unfold State.spoil
  try dsimp only
  repeat' (first
   | with_reducible exact Only.refl _ _
   | with_reducible assumption
   | with_reducible apply Only.ite
   | split
   | (with_reducible apply Only.step Only.set_badWords; decide)
   | dsimp only)

theorem State.soften_only (s : State) (a : Nat) : Only [.softWords] s (State.soften s a) := by
  unfold State.soften
  try dsimp only
  repeat' (first
   | with_reducible exact Only.refl _ _
   | with_reducible assumption
   | with_reducible apply Only.ite
   | split
   | (with_reducible apply Only.step Only.set_softWords; decide)
   | dsimp only)

theorem State.plant_only (s : State) (a kind : Nat) : Only [.freeCount, .mem, .badWords, .softWords] s (State.plant s a kind) := by
  unfold State.plant
  try dsimp only
  repeat' (first
   | with_reducible exact Only.refl _ _
   | with_reducible assumption
   | (with_reducible apply Only.step (State.devPut_only _ _ _); decide)
   | (with_reducible apply Only.step (State.free_only _); decide)
   | (with_reducible apply Only.step (State.soften_only _ _); decide)
   | (with_reducible apply Only.step (State.spoil_only _ _); decide)
   | with_reducible apply Only.ite
   | split
   | dsimp only)

theorem State.scrubbed_only (s : State) (b : Blk) (i uncorr irq code a : Nat) : Only [.msix, .pages, .regs, .mem, .hostMem, .badWords, .log, .ctrs, .softWords] s (State.scrubbed s b i uncorr irq code a) := by
  unfold State.scrubbed
  try dsimp only
  repeat' (first
   | with_reducible exact Only.refl _ _
   | with_reducible assumption
   | (with_reducible apply Only.step (State.bump_only _ _ _ _ _); decide)
   | (with_reducible apply Only.step (State.correctWord_only _ _); decide)
   | (with_reducible apply Only.step (State.err_only _ _ _ _ _ _); decide)
   | (with_reducible apply Only.step (State.irq_only _ _ _ _); decide)
   | with_reducible apply Only.ite
   | split
   | dsimp only)

theorem State.scrubIn_only (s : State) (a : Nat) (m : Target) : Only [.msix, .pages, .regs, .mem, .hostMem, .badWords, .log, .ctrs, .softWords] s (State.scrubIn s a m) := by
  unfold State.scrubIn
  try dsimp only
  repeat' (first
   | with_reducible exact Only.refl _ _
   | with_reducible assumption
   | (with_reducible apply Only.step (State.pulse_only _ _ _ _ _ _); decide)
   | (with_reducible apply Only.step (State.scrubbed_only _ _ _ _ _ _ _); decide)
   | with_reducible apply Only.ite
   | split
   | dsimp only)

theorem State.scrubAt_only (s : State) (a : Nat) : Only [.msix, .pages, .regs, .mem, .hostMem, .badWords, .log, .ctrs, .softWords] s (State.scrubAt s a) := by
  unfold State.scrubAt
  try dsimp only
  repeat' (first
   | with_reducible exact Only.refl _ _
   | with_reducible assumption
   | (with_reducible apply Only.step (State.scrubIn_only _ _ _); decide)
   | with_reducible apply Only.ite
   | (with_reducible refine Only.elim ?_ fun a => ?_)
   | split
   | dsimp only)

theorem State.scrubWord_only (s : State) (a kind : Nat) : Only [.freeCount, .msix, .pages, .regs, .mem, .hostMem, .badWords, .log, .ctrs, .softWords] s (State.scrubWord s a kind) := by
  unfold State.scrubWord
  try dsimp only
  repeat' (first
   | with_reducible exact Only.refl _ _
   | with_reducible assumption
   | (with_reducible apply Only.step (State.plant_only _ _ _); decide)
   | (with_reducible apply Only.step (State.scrubAt_only _ _); decide)
   | with_reducible apply Only.ite
   | split
   | dsimp only)

theorem State.accError_only (s : State) (g slot r kind : Nat) : Only [.engines, .msix, .pages, .regs, .mem, .hostMem, .badWords, .log, .softWords] s (State.accError s g slot r kind) := by
  unfold State.accError
  try dsimp only
  repeat' (first
   | with_reducible exact Only.refl _ _
   | with_reducible assumption
   | (with_reducible apply Only.step (State.err_only _ _ _ _ _ _); decide)
   | (with_reducible apply Only.step (State.irq_only _ _ _ _); decide)
   | (with_reducible apply Only.step (State.logFault_only _ _ _ _ _ _ _ _ _); decide)
   | (with_reducible apply Only.step (State.putEngine_only _ _ _); decide)
   | (with_reducible apply Only.step (State.unitCorr_only _ _ _); decide)
   | with_reducible apply Only.ite
   | split
   | dsimp only)

theorem State.hubError_only (s : State) (off kind : Nat) : Only [.msix, .pages, .regs, .mem, .hostMem, .badWords, .log, .softWords] s (State.hubError s off kind) := by
  unfold State.hubError
  try dsimp only
  repeat' (first
   | with_reducible exact Only.refl _ _
   | with_reducible assumption
   | (with_reducible apply Only.step (State.bump_only _ _ _ _ _); decide)
   | (with_reducible apply Only.step (State.err_only _ _ _ _ _ _); decide)
   | (with_reducible apply Only.step (State.irq_only _ _ _ _); decide)
   | (with_reducible apply Only.step (State.logFault_only _ _ _ _ _ _ _ _ _); decide)
   | with_reducible apply Only.ite
   | split
   | dsimp only)

theorem State.loseStep_only (s : State) (uid : Nat) : Only [.cmds, .steps, .groups, .disp] s (State.loseStep s uid) := by
  unfold State.loseStep
  try dsimp only
  repeat' (first
   | with_reducible exact Only.refl _ _
   | with_reducible assumption
   | (with_reducible apply Only.step (State.dropStep_only _ _); decide)
   | with_reducible apply Only.ite
   | split
   | (with_reducible apply Only.step Only.set_cmds_disp; decide)
   | dsimp only)

theorem State.loseEntry_only (s : State) (k off : Nat) : Only [.cmds, .steps, .groups, .disp] s (State.loseEntry s k off) := by
  unfold State.loseEntry
  try dsimp only
  repeat' (first
   | with_reducible exact Only.refl _ _
   | with_reducible assumption
   | (with_reducible apply Only.step (State.faultCmd_only _ _ _ _ _); decide)
   | (with_reducible apply Only.step (State.loseStep_only _ _); decide)
   | with_reducible apply Only.ite
   | split
   | dsimp only)

theorem State.rebuildRecord_only (s : State) (k : Nat) : Only [.freeCount, .waiting] s (State.rebuildRecord s k) := by
  unfold State.rebuildRecord
  try dsimp only
  repeat' (first
   | with_reducible exact Only.refl _ _
   | with_reducible assumption
   | (with_reducible apply Only.step (State.free_only _); decide)
   | with_reducible apply Only.ite
   | split
   | (with_reducible apply Only.step Only.set_waiting; decide)
   | dsimp only)

theorem State.spoilSlot_only (s : State) (k : Nat) : Only [.aptSlots] s (State.spoilSlot s k) := by
  unfold State.spoilSlot
  try dsimp only
  repeat' (first
   | with_reducible exact Only.refl _ _
   | with_reducible assumption
   | with_reducible apply Only.ite
   | split
   | (with_reducible apply Only.step Only.set_aptSlots; decide)
   | dsimp only)

theorem State.storeError_only (s : State) (off : Nat) : Only [.freeCount, .cmds, .steps, .groups, .engines, .aptSlots, .waiting, .disp] s (State.storeError s off) := by
  unfold State.storeError
  try dsimp only
  repeat' (first
   | with_reducible exact Only.refl _ _
   | with_reducible assumption
   | (with_reducible apply Only.step (State.loseEntry_only _ _ _); decide)
   | (with_reducible apply Only.step (State.rebuildRecord_only _ _); decide)
   | (with_reducible apply Only.step (State.spoilSlot_only _ _); decide)
   | (with_reducible apply Only.step (State.track_only _); decide)
   | with_reducible apply Only.ite
   | split
   | dsimp only)

theorem State.binError_only (s : State) (chunk kind : Nat) : Only [.msix, .pages, .regs, .mem, .hostMem, .badWords, .raster, .log, .softWords] s (State.binError s chunk kind) := by
  unfold State.binError
  try dsimp only
  repeat' (first
   | with_reducible exact Only.refl _ _
   | with_reducible assumption
   | (with_reducible apply Only.step (State.hubError_only _ _ _); decide)
   | (with_reducible apply Only.step (State.unitCorr_only _ _ _); decide)
   | with_reducible apply Only.ite
   | split
   | (with_reducible apply Only.step Only.set_raster; decide)
   | dsimp only)

theorem State.matchError_only (s : State) (off kind : Nat) : Only [.cmds, .msix, .pages, .regs, .mem, .hostMem, .badWords, .me, .log, .softWords] s (State.matchError s off kind) := by
  unfold State.matchError
  try dsimp only
  repeat' (first
   | with_reducible exact Only.refl _ _
   | with_reducible assumption
   | (with_reducible apply Only.step (State.err_only _ _ _ _ _ _); decide)
   | (with_reducible apply Only.step (State.faultCmd_only _ _ _ _ _); decide)
   | (with_reducible apply Only.step (State.irq_only _ _ _ _); decide)
   | (with_reducible apply Only.step (State.logFault_only _ _ _ _ _ _ _ _ _); decide)
   | (with_reducible apply Only.step (State.meDrop_only _); decide)
   | (with_reducible apply Only.step (State.unitCorr_only _ _ _); decide)
   | with_reducible apply Only.ite
   | split
   | dsimp only)

theorem State.scrubRead_only (s : State) (site : EccSite) (kind : Nat) : Only [.freeCount, .cmds, .steps, .groups, .engines, .aptSlots, .waiting, .msix, .pages, .regs, .mem, .hostMem, .badWords, .me, .raster, .disp, .log, .ctrs, .softWords] s (State.scrubRead s site kind) := by
  unfold State.scrubRead
  try dsimp only
  repeat' (first
   | with_reducible exact Only.refl _ _
   | with_reducible assumption
   | (with_reducible apply Only.step (State.accError_only _ _ _ _ _); decide)
   | (with_reducible apply Only.step (State.binError_only _ _ _); decide)
   | (with_reducible apply Only.step (State.bump_only _ _ _ _ _); decide)
   | (with_reducible apply Only.step (State.hubError_only _ _ _); decide)
   | (with_reducible apply Only.step (State.logFault_only _ _ _ _ _ _ _ _ _); decide)
   | (with_reducible apply Only.step (State.matchError_only _ _ _); decide)
   | (with_reducible apply Only.step (State.scrubWord_only _ _ _); decide)
   | (with_reducible apply Only.step (State.storeError_only _ _); decide)
   | (with_reducible apply Only.step (State.track_only _); decide)
   | (with_reducible apply Only.step (State.unitCorr_only _ _ _); decide)
   | with_reducible apply Only.ite
   | split
   | dsimp only)

theorem execScrubRead_only (site : EccSite) (kind : Nat) (s : State) : OnlyOut [.freeCount, .cmds, .steps, .groups, .engines, .aptSlots, .waiting, .msix, .pages, .regs, .mem, .hostMem, .badWords, .me, .raster, .disp, .log, .ctrs, .softWords] s (execScrubRead site kind s) := by
  unfold execScrubRead
  try dsimp only
  repeat' (first
   | with_reducible exact Only.refl _ _
   | with_reducible assumption
   | with_reducible apply OnlyOut.next
   | (with_reducible apply Only.step (State.scrubRead_only _ _ _); decide)
   | with_reducible apply Only.ite
   | with_reducible apply OnlyOut.ite
   | dsimp only)

theorem State.weltRetrain_only (s : State) (m : Nat) : Only [.engines, .msix, .pages, .regs, .hostMem, .welt, .ctrs] s (State.weltRetrain s m) := by
  unfold State.weltRetrain
  try dsimp only
  repeat' (first
   | with_reducible exact Only.refl _ _
   | with_reducible assumption
   | (with_reducible apply Only.step (State.bump_only _ _ _ _ _); decide)
   | (with_reducible apply Only.step (State.edge_only _ _ _ _ _ _); decide)
   | (with_reducible apply Only.step (State.irq_only _ _ _ _); decide)
   | (with_reducible apply Only.step (State.putModule_only _ _ _); decide)
   | (with_reducible apply Only.step (State.track_only _); decide)
   | with_reducible apply Only.ite
   | dsimp only)

theorem State.weltCrcError_only (s : State) (m : Nat) (ok : Bool) (held : Nat) : Only [.engines, .msix, .pages, .regs, .mem, .hostMem, .badWords, .log, .welt, .ctrs, .softWords] s (State.weltCrcError s m ok held) := by
  unfold State.weltCrcError
  try dsimp only
  repeat' (first
   | with_reducible exact Only.refl _ _
   | with_reducible assumption
   | (with_reducible apply Only.step (State.bump_only _ _ _ _ _); decide)
   | (with_reducible apply Only.step (State.bumpMax_only _ _ _ _ _ _); decide)
   | (with_reducible apply Only.step (State.irq_only _ _ _ _); decide)
   | (with_reducible apply Only.step (State.logFault_only _ _ _ _ _ _ _ _ _); decide)
   | (with_reducible apply Only.step (State.pulse_only _ _ _ _ _ _); decide)
   | (with_reducible apply Only.step (State.putModule_only _ _ _); decide)
   | (with_reducible apply Only.step (State.weltRetrain_only _ _); decide)
   | with_reducible apply Only.ite
   | split
   | dsimp only)

theorem execWeltCrcError_only (module : Nat) (ok : Bool) (held : Nat) (s : State) : OnlyOut [.engines, .msix, .pages, .regs, .mem, .hostMem, .badWords, .log, .welt, .ctrs, .softWords] s (execWeltCrcError module ok held s) := by
  unfold execWeltCrcError
  try dsimp only
  repeat' (first
   | with_reducible exact Only.refl _ _
   | with_reducible assumption
   | with_reducible apply OnlyOut.next
   | (with_reducible apply Only.step (State.weltCrcError_only _ _ _ _); decide)
   | with_reducible apply Only.ite
   | with_reducible apply OnlyOut.ite
   | split
   | dsimp only)

theorem execWeltRetrain_only (module : Nat) (s : State) : OnlyOut [.engines, .msix, .pages, .regs, .hostMem, .welt, .ctrs] s (execWeltRetrain module s) := by
  unfold execWeltRetrain
  try dsimp only
  repeat' (first
   | with_reducible exact Only.refl _ _
   | with_reducible assumption
   | with_reducible apply OnlyOut.next
   | (with_reducible apply Only.step (State.putModule_only _ _ _); decide)
   | (with_reducible apply Only.step (State.weltRetrain_only _ _); decide)
   | with_reducible apply Only.ite
   | with_reducible apply OnlyOut.ite
   | (with_reducible apply Only.hostWo; intro y hy)
   | split
   | dsimp only)

theorem State.stateRestore_only (s : State) (die : Nat) : Only [.engines, .msix, .pages, .hostMem, .ctrs] s (State.stateRestore s die) := by
  unfold State.stateRestore
  try dsimp only
  repeat' (first
   | with_reducible exact Only.refl _ _
   | with_reducible assumption
   | (with_reducible apply Only.step (State.rewind_only _ _ _); decide)
   | (with_reducible apply Only.step (State.track_only _); decide)
   | with_reducible apply Only.ite
   | dsimp only)

theorem State.weltDown_only (s : State) (m : Nat) (exhausted : Bool) : Only (fieldsBut [.pending, .part, .now, .devState, .holdCauses, .nextUid, .jobs, .windows, .saveBase, .apts, .aptSlots, .link, .dma, .stopped, .resetPending, .latch, .insole, .protEff, .ingest, .disp, .outs, .readData, .bw, .pwr, .boot, .refresh, .cairn, .snaps, .dbg, .lastFw, .sleeping, .issue, .timeFrac]) s (State.weltDown s m exhausted) := by
  unfold State.weltDown
  try dsimp only
  repeat' (first
   | with_reducible exact Only.refl _ _
   | with_reducible assumption
   | (with_reducible apply Only.step (State.edge_only _ _ _ _ _ _); decide)
   | (with_reducible apply Only.step (State.err_only _ _ _ _ _ _); decide)
   | (with_reducible apply Only.step (State.free_only _); decide)
   | (with_reducible apply Only.step (State.irq_only _ _ _ _); decide)
   | (with_reducible apply Only.step (State.logFaultAt_only _ _ _ _ _ _ _ _ _ _); decide)
   | (with_reducible apply Only.step (State.loseDie_only _ _); decide)
   | (with_reducible apply Only.step (State.putModule_only _ _ _); decide)
   | with_reducible apply Only.ite
   | split
   | dsimp only)

theorem State.weltUp_only (s : State) (m repaired : Nat) : Only [.freeCount, .engines, .msix, .pages, .regs, .mem, .hostMem, .badWords, .log, .welt, .ctrs, .softWords] s (State.weltUp s m repaired) := by
  unfold State.weltUp
  try dsimp only
  repeat' (first
   | with_reducible exact Only.refl _ _
   | with_reducible assumption
   | (with_reducible apply Only.step (State.free_only _); decide)
   | (with_reducible apply Only.step (State.irq_only _ _ _ _); decide)
   | (with_reducible apply Only.step (State.logFaultAt_only _ _ _ _ _ _ _ _ _ _); decide)
   | (with_reducible apply Only.step (State.putModule_only _ _ _); decide)
   | (with_reducible apply Only.step (State.stateRestore_only _ _); decide)
   | with_reducible apply Only.ite
   | split
   | dsimp only)

theorem execWeltRetrainEnd_only (module : Nat) (up : Bool) (repaired : Nat) (exhausted : Bool) (s : State) : OnlyOut (fieldsBut [.pending, .part, .now, .devState, .holdCauses, .nextUid, .jobs, .windows, .saveBase, .apts, .aptSlots, .link, .dma, .stopped, .resetPending, .latch, .insole, .protEff, .ingest, .disp, .outs, .readData, .bw, .pwr, .boot, .refresh, .cairn, .snaps, .dbg, .lastFw, .sleeping, .issue, .timeFrac]) s (execWeltRetrainEnd module up repaired exhausted s) := by
  unfold execWeltRetrainEnd
  try dsimp only
  repeat' (first
   | with_reducible exact Only.refl _ _
   | with_reducible assumption
   | with_reducible apply OnlyOut.next
   | (with_reducible apply Only.step (State.track_only _); decide)
   | (with_reducible apply Only.step (State.weltDown_only _ _ _); decide)
   | (with_reducible apply Only.step (State.weltUp_only _ _ _); decide)
   | with_reducible apply Only.ite
   | with_reducible apply OnlyOut.ite
   | split
   | dsimp only)

theorem State.dramRefresh_only (s : State) (ch : Nat) (urgent : Bool) : Only [.msix, .pages, .hostMem, .refresh, .ctrs] s (State.dramRefresh s ch urgent) := by
  unfold State.dramRefresh
  try dsimp only
  repeat' (first
   | with_reducible exact Only.refl _ _
   | with_reducible assumption
   | (with_reducible apply Only.step (State.pulse_only _ _ _ _ _ _); decide)
   | with_reducible apply Only.ite
   | split
   | (with_reducible apply Only.step Only.set_refresh; decide)
   | dsimp only)

theorem execDramRefresh_only (channel : Nat) (urgent : Bool) (s : State) : OnlyOut [.msix, .pages, .hostMem, .refresh, .ctrs] s (execDramRefresh channel urgent s) := by
  unfold execDramRefresh
  try dsimp only
  repeat' (first
   | with_reducible exact Only.refl _ _
   | with_reducible assumption
   | with_reducible apply OnlyOut.next
   | (with_reducible apply Only.step (State.dramRefresh_only _ _ _); decide)
   | with_reducible apply Only.ite
   | with_reducible apply OnlyOut.ite
   | split
   | dsimp only)

theorem State.dramTcrRead_only (s : State) (p rate : Nat) : Only [.msix, .pages, .regs, .hostMem] s (State.dramTcrRead s p rate) := by
  unfold State.dramTcrRead
  try dsimp only
  repeat' (first
   | with_reducible exact Only.refl _ _
   | with_reducible assumption
   | (with_reducible apply Only.step (State.irq_only _ _ _ _); decide)
   | (with_reducible apply Only.step (State.setReg_only _ _ _ _ _); decide)
   | with_reducible apply Only.ite
   | split
   | dsimp only)

theorem execDramTcrRead_only (port rate : Nat) (s : State) : OnlyOut [.msix, .pages, .regs, .hostMem] s (execDramTcrRead port rate s) := by
  unfold execDramTcrRead
  try dsimp only
  repeat' (first
   | with_reducible exact Only.refl _ _
   | with_reducible assumption
   | with_reducible apply OnlyOut.next
   | (with_reducible apply Only.step (State.dramTcrRead_only _ _ _); decide)
   | with_reducible apply Only.ite
   | with_reducible apply OnlyOut.ite
   | split
   | dsimp only)

theorem execDramWckOscRead_only (_port : Nat) (s : State) : OnlyOut [] s (execDramWckOscRead _port s) := by
  unfold execDramWckOscRead
  try dsimp only
  repeat' (first
   | with_reducible exact Only.refl _ _
   | with_reducible assumption
   | with_reducible apply OnlyOut.next
   | with_reducible apply Only.ite
   | with_reducible apply OnlyOut.ite
   | dsimp only)

theorem State.measure_only (s : State) (c : Cmd) : Only [.steps, .jobs] s (State.measure s c) := by
  unfold State.measure
  try dsimp only
  repeat' (first
   | with_reducible exact Only.refl _ _
   | with_reducible assumption
   | (with_reducible apply Only.step (State.extendAux_only _ _ _ _); decide)
   | (with_reducible apply Only.step (State.putJob_only _ _ _); decide)
   | with_reducible apply Only.ite
   | split
   | dsimp only)

theorem State.auditMeasure_only (s : State) (c : Cmd) : Only [.cmds, .steps, .jobs, .msix, .pages, .regs, .mem, .hostMem, .badWords, .traceGap, .log, .ctrs, .softWords, .traceFill, .traceAt] s (State.auditMeasure s c) := by
  unfold State.auditMeasure
  try dsimp only
  repeat' (first
   | with_reducible exact Only.refl _ _
   | with_reducible assumption
   | (with_reducible apply Only.step (State.correctReads_only _ _ _ _); decide)
   | (with_reducible apply Only.step (State.endCmd_only _ _ _ _); decide)
   | (with_reducible apply Only.step (State.faultCmd_only _ _ _ _ _); decide)
   | (with_reducible apply Only.step (State.measure_only _ _); decide)
   | (with_reducible apply Only.step (State.starts_only _ _); decide)
   | with_reducible apply Only.ite
   | split
   | dsimp only)

theorem execAuditMeasure_only (uid : Nat) (s : State) : OnlyOut [.cmds, .steps, .jobs, .engines, .msix, .pages, .regs, .mem, .hostMem, .badWords, .traceGap, .log, .ctrs, .softWords, .traceFill, .traceAt] s (execAuditMeasure uid s) := by
  unfold execAuditMeasure
  try dsimp only
  repeat' (first
   | with_reducible exact Only.refl _ _
   | with_reducible assumption
   | with_reducible apply OnlyOut.next
   | (with_reducible apply Only.step (State.auditMeasure_only _ _); decide)
   | (with_reducible apply Only.step (State.track_only _); decide)
   | with_reducible apply Only.ite
   | with_reducible apply OnlyOut.ite
   | split
   | dsimp only)

theorem State.auditQuote_only (s : State) (c : Cmd) : Only [.cmds, .msix, .pages, .regs, .mem, .hostMem, .badWords, .traceGap, .boot, .ctrs, .softWords, .traceFill, .traceAt] s (State.auditQuote s c) := by
  unfold State.auditQuote
  try dsimp only
  repeat' (first
   | with_reducible exact Only.refl _ _
   | with_reducible assumption
   | (with_reducible apply Only.step (State.devPut_only _ _ _); decide)
   | (with_reducible apply Only.step (State.endCmd_only _ _ _ _); decide)
   | (with_reducible apply Only.step (State.starts_only _ _); decide)
   | with_reducible apply Only.ite
   | split
   | (with_reducible apply Only.step Only.set_boot; decide)
   | dsimp only)

theorem execAuditQuote_only (uid : Nat) (s : State) : OnlyOut [.cmds, .engines, .msix, .pages, .regs, .mem, .hostMem, .badWords, .traceGap, .boot, .ctrs, .softWords, .traceFill, .traceAt] s (execAuditQuote uid s) := by
  unfold execAuditQuote
  try dsimp only
  repeat' (first
   | with_reducible exact Only.refl _ _
   | with_reducible assumption
   | with_reducible apply OnlyOut.next
   | (with_reducible apply Only.step (State.auditQuote_only _ _); decide)
   | (with_reducible apply Only.step (State.track_only _); decide)
   | with_reducible apply Only.ite
   | with_reducible apply OnlyOut.ite
   | split
   | dsimp only)

theorem State.auditPut_only (s : State) (a : Nat) (bs : List Byte) : Only [.mem, .badWords, .softWords] s (State.auditPut s a bs) := by
  unfold State.auditPut
  try dsimp only
  repeat' (first
   | with_reducible exact Only.refl _ _
   | with_reducible assumption
   | (with_reducible apply Only.step (State.devPut_only _ _ _); decide)
   | with_reducible apply Only.ite
   | split
   | dsimp only)

theorem State.storeCairn_only (s : State) (d : CairnDue) : Only [.mem, .badWords, .softWords] s (State.storeCairn s d) := by
  unfold State.storeCairn
  try dsimp only
  repeat' (first
   | with_reducible exact Only.refl _ _
   | with_reducible assumption
   | (with_reducible apply Only.step (State.auditPut_only _ _ _); decide)
   | with_reducible apply Only.ite
   | split
   | dsimp only)

theorem State.writeCairn_only (s : State) (d : CairnDue) : Only [.mem, .badWords, .cairn, .softWords] s (State.writeCairn s d) := by
  unfold State.writeCairn
  try dsimp only
  repeat' (first
   | with_reducible exact Only.refl _ _
   | with_reducible assumption
   | (with_reducible apply Only.step (State.storeCairn_only _ _); decide)
   | with_reducible apply Only.ite
   | (with_reducible apply Only.step Only.set_cairn; decide)
   | dsimp only)

theorem State.cairnStep_only (s : State) : Only [.regs, .mem, .badWords, .cairn, .softWords] s (State.cairnStep s) := by
  unfold State.cairnStep
  try dsimp only
  repeat' (first
   | with_reducible exact Only.refl _ _
   | with_reducible assumption
   | (with_reducible apply Only.step (State.bump_only _ _ _ _ _); decide)
   | (with_reducible apply Only.step (State.writeCairn_only _ _); decide)
   | with_reducible apply Only.ite
   | split
   | (with_reducible apply Only.step Only.set_cairn; decide)
   | dsimp only)

theorem execCairnRecordWrite_only (s : State) : OnlyOut [.regs, .mem, .badWords, .cairn, .softWords] s (execCairnRecordWrite s) := by
  unfold execCairnRecordWrite
  try dsimp only
  repeat' (first
   | with_reducible exact Only.refl _ _
   | with_reducible assumption
   | with_reducible apply OnlyOut.next
   | (with_reducible apply Only.step (State.cairnStep_only _); decide)
   | (with_reducible apply Only.step (State.sealCairn_only _); decide)
   | with_reducible apply Only.ite
   | with_reducible apply OnlyOut.ite
   | split
   | dsimp only)

theorem State.auditCtrlWrite_only (s : State) (v : Nat) : Only [.regs, .mem, .badWords, .cairn, .softWords] s (State.auditCtrlWrite s v) := by
  unfold State.auditCtrlWrite
  try dsimp only
  repeat' (first
   | with_reducible exact Only.refl _ _
   | with_reducible assumption
   | (with_reducible apply Only.step (State.auditPut_only _ _ _); decide)
   | (with_reducible apply Only.step (State.setReg_only _ _ _ _ _); decide)
   | with_reducible apply Only.ite
   | split
   | (with_reducible apply Only.step Only.set_cairn; decide)
   | dsimp only)

theorem execCairnEnable_only (value : Nat) (s : State) : OnlyOut [.pages, .regs, .mem, .badWords, .cairn, .softWords] s (execCairnEnable value s) := by
  unfold execCairnEnable
  try dsimp only
  repeat' (first
   | with_reducible exact Only.refl _ _
   | with_reducible assumption
   | with_reducible apply OnlyOut.next
   | (with_reducible apply Only.step (State.auditCtrlWrite_only _ _); decide)
   | with_reducible apply Only.ite
   | with_reducible apply OnlyOut.ite
   | (with_reducible apply Only.host (by decide); intro y hy)
   | dsimp only)

theorem State.cairnRegWrite_only (s : State) (off rw v : Nat) : Only [.pages, .regs] s (State.cairnRegWrite s off rw v) := by
  unfold State.cairnRegWrite
  try dsimp only
  repeat' (first
   | with_reducible exact Only.refl _ _
   | with_reducible assumption
   | (with_reducible apply Only.step (State.err_only _ _ _ _ _ _); decide)
   | (with_reducible apply Only.step (State.setReg_only _ _ _ _ _); decide)
   | with_reducible apply Only.ite
   | split
   | dsimp only)

theorem State.abortUpd_only (s : State) : Only [.freeCount, .boot] s (State.abortUpd s) := by
  unfold State.abortUpd
  try dsimp only
  repeat' (first
   | with_reducible exact Only.refl _ _
   | with_reducible assumption
   | (with_reducible apply Only.step (State.free_only _); decide)
   | with_reducible apply Only.ite
   | split
   | (with_reducible apply Only.step Only.set_boot; decide)
   | dsimp only)

theorem State.wiped_only (s : State) : Only (fieldsBut [.pending, .part, .now, .freeCount, .devState, .nextUid, .link, .hostMem, .protEff, .bw, .timeFrac]) s (State.wiped s) := by
  intro f hf
  cases f <;> first | exact absurd hf (by decide) | rfl

theorem State.wipe_only (s : State) : Only (fieldsBut [.pending, .part, .now, .devState, .nextUid, .link, .hostMem, .protEff, .bw, .timeFrac]) s (State.wipe s) := by
  unfold State.wipe
  try dsimp only
  repeat' (first
   | with_reducible exact Only.refl _ _
   | with_reducible assumption
   | (with_reducible apply Only.step (State.abortUpd_only _); decide)
   | (with_reducible apply Only.step (State.setReg_only _ _ _ _ _); decide)
   | (with_reducible apply Only.step (State.wiped_only _); decide)
   | with_reducible apply Only.ite
   | split
   | dsimp only)

theorem State.halt_only (s : State) (all : Bool) : Only (fieldsBut [.pending, .part, .nextUid, .hostMem, .protEff, .bw]) s (State.halt s all) := by
  unfold State.halt
  try dsimp only
  repeat' (first
   | with_reducible exact Only.refl _ _
   | with_reducible assumption
   | (with_reducible apply Only.step (State.setReg_only _ _ _ _ _); decide)
   | (with_reducible apply Only.step (State.wipe_only _); decide)
   | with_reducible apply Only.ite
   | split
   | (with_reducible apply Only.step Only.set_devState_link_msix_mem_badWords_softWords_boot_pins; decide)
   | (with_reducible apply Only.step Only.set_devState_link_msix_mem_badWords_softWords_pins_boot; decide)
   | (with_reducible apply Only.step Only.set_now_devState_link_msix_pages_regs_mem_badWords_softWords_boot_pins_timeFrac; decide)
   | (with_reducible apply Only.step Only.set_now_pages_regs_timeFrac; decide)
   | dsimp only)

theorem State.dbgClose_only (s : State) : Only [.msix, .pages, .hostMem, .dbg] s (State.dbgClose s) := by
  unfold State.dbgClose
  try dsimp only
  repeat' (first
   | with_reducible exact Only.refl _ _
   | with_reducible assumption
   | (with_reducible apply Only.step (State.irq_only _ _ _ _); decide)
   | with_reducible apply Only.ite
   | split
   | (with_reducible apply Only.step Only.set_dbg; decide)
   | dsimp only)

theorem State.putDiePower_only (s : State) (k : Nat) (d : DiePower) : Only [.pwr] s (State.putDiePower s k d) := by
  unfold State.putDiePower
  try dsimp only
  repeat' (first
   | with_reducible exact Only.refl _ _
   | with_reducible assumption
   | with_reducible apply Only.ite
   | (with_reducible apply Only.step Only.set_pwr; decide)
   | dsimp only)

theorem State.collSync_only (s : State) : Only [.pwr] s (State.collSync s) := by
  unfold State.collSync
  try dsimp only
  repeat' (first
   | with_reducible exact Only.refl _ _
   | with_reducible assumption
   | (with_reducible apply Only.step (State.putDiePower_only _ _ _); decide)
   | with_reducible apply Only.ite
   | (with_reducible apply Only.foldl; intro y a hy)
   | split
   | dsimp only)

theorem State.estimateDie_only (s : State) (k : Nat) (x : ℚ × Nat × Nat) : Only [.msix, .pages, .regs, .hostMem, .pwr] s (State.estimateDie s k x) := by
  unfold State.estimateDie
  try dsimp only
  repeat' (first
   | with_reducible exact Only.refl _ _
   | with_reducible assumption
   | (with_reducible apply Only.step (State.irq_only _ _ _ _); decide)
   | (with_reducible apply Only.step (State.putDiePower_only _ _ _); decide)
   | (with_reducible apply Only.step (State.setReg_only _ _ _ _ _); decide)
   | with_reducible apply Only.ite
   | split
   | dsimp only)

theorem State.gainAll_only (s : State) : Only [.issue] s (State.gainAll s) := by
  unfold State.gainAll
  try dsimp only
  repeat' (first
   | with_reducible exact Only.refl _ _
   | with_reducible assumption
   | (with_reducible apply Only.step (State.gainIssue_only _ _ _ _); decide)
   | with_reducible apply Only.ite
   | (with_reducible apply Only.foldl; intro y a hy)
   | split
   | dsimp only)

theorem State.accrue_only (s : State) (us : Nat) : Only [.pwr] s (State.accrue s us) := by
  unfold State.accrue
  try dsimp only
  repeat' (first
   | with_reducible exact Only.refl _ _
   | with_reducible assumption
   | with_reducible apply Only.ite
   | split
   | (with_reducible apply Only.step Only.set_pwr; decide)
   | dsimp only)

theorem State.powerEstimate_only (s : State) (hub : List Nat) (md : Nat) (counts : List (List Nat)) : Only [.msix, .pages, .regs, .hostMem, .pwr, .issue] s (State.powerEstimate s hub md counts) := by
  unfold State.powerEstimate
  try dsimp only
  repeat' (first
   | with_reducible exact Only.refl _ _
   | with_reducible assumption
   | (with_reducible apply Only.step (State.accrue_only _ _); decide)
   | (with_reducible apply Only.step (State.collSync_only _); decide)
   | (with_reducible apply Only.step (State.estimateDie_only _ _ _); decide)
   | (with_reducible apply Only.step (State.gainAll_only _); decide)
   | with_reducible apply Only.ite
   | (with_reducible apply Only.foldl; intro y a hy)
   | split
   | (with_reducible apply Only.step Only.set_pwr; decide)
   | dsimp only)

theorem execPowerEstimate_only (hub : List Nat) (md : Nat) (counts : List (List Nat)) (s : State) : OnlyOut [.now, .engines, .msix, .pages, .regs, .hostMem, .pwr, .issue] s (execPowerEstimate hub md counts s) := by
  unfold execPowerEstimate
  try dsimp only
  repeat' (first
   | with_reducible exact Only.refl _ _
   | with_reducible assumption
   | with_reducible apply OnlyOut.next
   | (with_reducible apply Only.step (State.at_only _ _); decide)
   | (with_reducible apply Only.step (State.powerEstimate_only _ _ _ _); decide)
   | (with_reducible apply Only.step (State.track_only _); decide)
   | with_reducible apply Only.ite
   | with_reducible apply OnlyOut.ite
   | split
   | (with_reducible apply Only.step Only.set_pwr; decide)
   | dsimp only)

theorem execVrVoltageConfirmed_only (die : Nat) (s : State) : OnlyOut [.pwr] s (execVrVoltageConfirmed die s) := by
  unfold execVrVoltageConfirmed
  try dsimp only
  repeat' (first
   | with_reducible exact Only.refl _ _
   | with_reducible assumption
   | with_reducible apply OnlyOut.next
   | (with_reducible apply Only.step (State.collSync_only _); decide)
   | (with_reducible apply Only.step (State.putDiePower_only _ _ _); decide)
   | with_reducible apply Only.ite
   | with_reducible apply OnlyOut.ite
   | split
   | dsimp only)

theorem State.pmbusSample_only (s : State) (xs : List (Option Nat)) : Only [.pwr] s (State.pmbusSample s xs).1 := by
  unfold State.pmbusSample
  try dsimp only
  repeat' (first
   | with_reducible exact Only.refl _ _
   | with_reducible assumption
   | with_reducible apply Only.ite
   | split
   | (with_reducible apply Only.step Only.set_pwr; decide)
   | dsimp only)

theorem State.pmbusInvalid_only (s : State) (xs : List (Option Nat)) : Only [.msix, .pages, .hostMem, .pwr] s (State.pmbusInvalid s xs) := by
  unfold State.pmbusInvalid
  try dsimp only
  repeat' (first
   | with_reducible exact Only.refl _ _
   | with_reducible assumption
   | (with_reducible apply Only.step (State.err_only _ _ _ _ _ _); decide)
   | (with_reducible apply Only.step (State.irq_only _ _ _ _); decide)
   | with_reducible apply Only.ite
   | split
   | (with_reducible apply Only.step Only.set_pwr; decide)
   | dsimp only)

theorem State.disagree_only (s : State) : Only [.msix, .pages, .hostMem, .pwr] s (State.disagree s) := by
  unfold State.disagree
  try dsimp only
  repeat' (first
   | with_reducible exact Only.refl _ _
   | with_reducible assumption
   | (with_reducible apply Only.step (State.irq_only _ _ _ _); decide)
   | with_reducible apply Only.ite
   | split
   | (with_reducible apply Only.step Only.set_pwr; decide)
   | dsimp only)

theorem State.capStep_only (s : State) : Only [.msix, .pages, .hostMem, .pwr] s (State.capStep s) := by
  unfold State.capStep
  try dsimp only
  repeat' (first
   | with_reducible exact Only.refl _ _
   | with_reducible assumption
   | (with_reducible apply Only.step (State.irq_only _ _ _ _); decide)
   | with_reducible apply Only.ite
   | split
   | (with_reducible apply Only.step Only.set_pwr; decide)
   | dsimp only)

theorem State.closeInterval_only (s : State) : Only [.pwr] s (State.closeInterval s) := by
  unfold State.closeInterval
  try dsimp only
  repeat' (first
   | with_reducible exact Only.refl _ _
   | with_reducible assumption
   | with_reducible apply Only.ite
   | split
   | (with_reducible apply Only.step Only.set_pwr; decide)
   | dsimp only)

theorem State.capUpdate_only (s : State) (xs : List (Option Nat)) : Only [.msix, .pages, .hostMem, .pwr] s (State.capUpdate s xs) := by
  unfold State.capUpdate
  try dsimp only
  repeat' (first
   | with_reducible exact Only.refl _ _
   | with_reducible assumption
   | (with_reducible apply Only.step (State.capStep_only _); decide)
   | (with_reducible apply Only.step (State.closeInterval_only _); decide)
   | (with_reducible apply Only.step (State.collSync_only _); decide)
   | (with_reducible apply Only.step (State.disagree_only _); decide)
   | (with_reducible apply Only.step (State.pmbusInvalid_only _ _); decide)
   | (with_reducible apply Only.step (State.pmbusSample_only _ _); decide)
   | with_reducible apply Only.ite
   | split
   | dsimp only)

theorem execCapUpdate_only (samples : List (Option Nat)) (s : State) : OnlyOut [.now, .msix, .pages, .hostMem, .pwr] s (execCapUpdate samples s) := by
  unfold execCapUpdate
  try dsimp only
  repeat' (first
   | with_reducible exact Only.refl _ _
   | with_reducible assumption
   | with_reducible apply OnlyOut.next
   | (with_reducible apply Only.step (State.at_only _ _); decide)
   | (with_reducible apply Only.step (State.capUpdate_only _ _); decide)
   | with_reducible apply Only.ite
   | with_reducible apply OnlyOut.ite
   | split
   | (with_reducible apply Only.step Only.set_pwr; decide)
   | dsimp only)

theorem State.applyHint_only (s : State) (c : Cmd) : Only [.pwr] s (State.applyHint s c) := by
  unfold State.applyHint
  try dsimp only
  repeat' (first
   | with_reducible exact Only.refl _ _
   | with_reducible assumption
   | with_reducible apply Only.ite
   | split
   | (with_reducible apply Only.step Only.set_pwr; decide)
   | dsimp only)

theorem State.hintPhase_only (s : State) (c : Cmd) (e : Entry) : Only [.now, .cmds, .pwr] s (State.hintPhase s c e) := by
  unfold State.hintPhase
  try dsimp only
  repeat' (first
   | with_reducible exact Only.refl _ _
   | with_reducible assumption
   | (with_reducible apply Only.step (State.applyHint_only _ _); decide)
   | (with_reducible apply Only.step (State.at_only _ _); decide)
   | (with_reducible apply Only.step (State.putCmd_only _ _); decide)
   | with_reducible apply Only.ite
   | split
   | dsimp only)

theorem execHintPhase_only (uid : Nat) (s : State) : OnlyOut [.now, .cmds, .pwr] s (execHintPhase uid s) := by
  unfold execHintPhase
  try dsimp only
  repeat' (first
   | with_reducible exact Only.refl _ _
   | with_reducible assumption
   | with_reducible apply OnlyOut.next
   | (with_reducible apply Only.step (State.hintPhase_only _ _ _); decide)
   | with_reducible apply Only.ite
   | with_reducible apply OnlyOut.ite
   | split
   | dsimp only)

theorem State.unfault_only (s : State) (b : Blk) (i : Nat) : Only [.pages] s (State.unfault s b i) := by
  unfold State.unfault
  try dsimp only
  repeat' (first
   | with_reducible exact Only.refl _ _
   | with_reducible assumption
   | (with_reducible apply Only.step (State.putPage_only _ _ _ _); decide)
   | with_reducible apply Only.ite
   | dsimp only)

theorem State.unfaultDie_only (s : State) (k : Nat) : Only [.pages] s (State.unfaultDie s k) := by
  unfold State.unfaultDie
  try dsimp only
  repeat' (first
   | with_reducible exact Only.refl _ _
   | with_reducible assumption
   | (with_reducible apply Only.step (State.unfault_only _ _ _); decide)
   | with_reducible apply Only.ite
   | split
   | dsimp only)

theorem State.stopDie_only (s : State) (k : Nat) : Only [.fetches, .engines, .pages, .regs, .mem, .badWords, .me, .pwr, .softWords] s (State.stopDie s k) := by
  unfold State.stopDie
  try dsimp only
  repeat' (first
   | with_reducible exact Only.refl _ _
   | with_reducible assumption
   | (with_reducible apply Only.step (State.clearDie_only _ _); decide)
   | (with_reducible apply Only.step (State.meDrop_only _); decide)
   | (with_reducible apply Only.step (State.putDiePower_only _ _ _); decide)
   | (with_reducible apply Only.step (State.setDieState_only _ _ _ _); decide)
   | (with_reducible apply Only.step (State.unfaultDie_only _ _); decide)
   | with_reducible apply Only.ite
   | split
   | dsimp only)

theorem State.powerStop_only (s : State) (cause : Nat) (irqMask : Word) : Only [.devState, .holdCauses, .cmds, .fetches, .engines, .msix, .pages, .regs, .mem, .hostMem, .badWords, .me, .disp, .pins, .pwr, .cairn, .softWords] s (State.powerStop s cause irqMask) := by
  unfold State.powerStop
  try dsimp only
  repeat' (first
   | with_reducible exact Only.refl _ _
   | with_reducible assumption
   | (with_reducible apply Only.step (State.bump_only _ _ _ _ _); decide)
   | (with_reducible apply Only.step (State.endAll_only _ _ _ _); decide)
   | (with_reducible apply Only.step (State.enterHold_only _ _); decide)
   | (with_reducible apply Only.step (State.irq_only _ _ _ _); decide)
   | (with_reducible apply Only.step (State.stopDie_only _ _); decide)
   | (with_reducible apply Only.step (State.track_only _); decide)
   | with_reducible apply Only.ite
   | (with_reducible apply Only.foldl; intro y a hy)
   | split
   | (with_reducible apply Only.step Only.set_pwr; decide)
   | dsimp only)

theorem State.startDie_only (s : State) (k : Nat) : Only [.regs, .mem, .badWords, .softWords] s (State.startDie s k) := by
  unfold State.startDie
  try dsimp only
  repeat' (first
   | with_reducible exact Only.refl _ _
   | with_reducible assumption
   | (with_reducible apply Only.step (State.devClear_only _ _ _); decide)
   | (with_reducible apply Only.step (State.setDieState_only _ _ _ _); decide)
   | with_reducible apply Only.ite
   | split
   | dsimp only)

theorem State.restored_only (s : State) : Only [.holdCauses, .engines, .msix, .pages, .regs, .mem, .hostMem, .badWords, .pins, .pwr, .softWords] s (State.restored s) := by
  unfold State.restored
  try dsimp only
  repeat' (first
   | with_reducible exact Only.refl _ _
   | with_reducible assumption
   | (with_reducible apply Only.step (State.clearCause_only _ _); decide)
   | (with_reducible apply Only.step (State.irq_only _ _ _ _); decide)
   | (with_reducible apply Only.step (State.startDie_only _ _); decide)
   | (with_reducible apply Only.step (State.track_only _); decide)
   | with_reducible apply Only.ite
   | (with_reducible apply Only.foldl; intro y a hy)
   | (with_reducible apply Only.step Only.set_holdCauses_pins_pwr; decide)
   | (with_reducible apply Only.step Only.set_pins; decide)
   | (with_reducible apply Only.step Only.set_pins_pwr; decide)
   | (with_reducible apply Only.step Only.set_pwr; decide)
   | dsimp only)

theorem execDieRestart_only (thermal : Bool) (s : State) : OnlyOut [.now, .holdCauses, .engines, .msix, .pages, .regs, .mem, .hostMem, .badWords, .pins, .pwr, .softWords] s (execDieRestart thermal s) := by
  unfold execDieRestart
  try dsimp only
  repeat' (first
   | with_reducible exact Only.refl _ _
   | with_reducible assumption
   | with_reducible apply OnlyOut.next
   | (with_reducible apply Only.step (State.at_only _ _); decide)
   | (with_reducible apply Only.step (State.restored_only _); decide)
   | with_reducible apply Only.ite
   | with_reducible apply OnlyOut.ite
   | split
   | dsimp only)

theorem State.coolantStop_only (s : State) (since : Nat) : Only [.now, .devState, .holdCauses, .cmds, .fetches, .engines, .msix, .pages, .regs, .mem, .hostMem, .badWords, .me, .disp, .pins, .pwr, .cairn, .softWords] s (State.coolantStop s since) := by
  unfold State.coolantStop
  try dsimp only
  repeat' (first
   | with_reducible exact Only.refl _ _
   | with_reducible assumption
   | (with_reducible apply Only.step (State.at_only _ _); decide)
   | (with_reducible apply Only.step (State.powerStop_only _ _ _); decide)
   | with_reducible apply Only.ite
   | split
   | (with_reducible apply Only.step Only.set_pwr; decide)
   | dsimp only)

theorem execCoolantStop_only (s : State) : OnlyOut [.now, .devState, .holdCauses, .cmds, .fetches, .engines, .msix, .pages, .regs, .mem, .hostMem, .badWords, .me, .disp, .pins, .pwr, .cairn, .softWords] s (execCoolantStop s) := by
  unfold execCoolantStop
  try dsimp only
  repeat' (first
   | with_reducible exact Only.refl _ _
   | with_reducible assumption
   | with_reducible apply OnlyOut.next
   | (with_reducible apply Only.step (State.coolantStop_only _ _); decide)
   | with_reducible apply Only.ite
   | with_reducible apply OnlyOut.ite
   | split
   | dsimp only)

theorem execCoolFlowOkFall_only (s : State) : OnlyOut [.now, .pins, .pwr] s (execCoolFlowOkFall s) := by
  unfold execCoolFlowOkFall
  try dsimp only
  repeat' (first
   | with_reducible exact Only.refl _ _
   | with_reducible assumption
   | with_reducible apply OnlyOut.next
   | (with_reducible apply Only.step (State.filtered_only _ _ _); decide)
   | with_reducible apply Only.ite
   | with_reducible apply OnlyOut.ite
   | split
   | (with_reducible apply Only.step Only.set_pins_pwr; decide)
   | dsimp only)

theorem execCoolFlowOkRise_only (s : State) : OnlyOut [.now, .devState, .holdCauses, .cmds, .fetches, .engines, .msix, .pages, .regs, .mem, .hostMem, .badWords, .me, .disp, .pins, .pwr, .cairn, .softWords] s (execCoolFlowOkRise s) := by
  unfold execCoolFlowOkRise
  try dsimp only
  repeat' (first
   | with_reducible exact Only.refl _ _
   | with_reducible assumption
   | with_reducible apply OnlyOut.next
   | (with_reducible apply Only.step (State.bump_only _ _ _ _ _); decide)
   | (with_reducible apply Only.step (State.coolantStop_only _ _); decide)
   | (with_reducible apply Only.step (State.filtered_only _ _ _); decide)
   | with_reducible apply Only.ite
   | with_reducible apply OnlyOut.ite
   | split
   | (with_reducible apply Only.step Only.set_pins_pwr; decide)
   | dsimp only)

theorem State.dieSensor_only (s : State) (k : Nat) (temp old : Int) : Only [.msix, .pages, .regs, .hostMem] s (State.dieSensor s k temp old) := by
  unfold State.dieSensor
  try dsimp only
  repeat' (first
   | with_reducible exact Only.refl _ _
   | with_reducible assumption
   | (with_reducible apply Only.step (State.err_only _ _ _ _ _ _); decide)
   | (with_reducible apply Only.step (State.irq_only _ _ _ _); decide)
   | (with_reducible apply Only.step (State.setReg_only _ _ _ _ _); decide)
   | with_reducible apply Only.ite
   | split
   | dsimp only)

theorem State.thermalTick_only (s : State) (temps : List Int) : Only [.devState, .holdCauses, .cmds, .fetches, .engines, .msix, .pages, .regs, .mem, .hostMem, .badWords, .me, .disp, .pins, .pwr, .cairn, .softWords] s (State.thermalTick s temps) := by
  unfold State.thermalTick
  try dsimp only
  repeat' (first
   | with_reducible exact Only.refl _ _
   | with_reducible assumption
   | (with_reducible apply Only.step (State.collSync_only _); decide)
   | (with_reducible apply Only.step (State.dieSensor_only _ _ _ _); decide)
   | (with_reducible apply Only.step (State.irq_only _ _ _ _); decide)
   | (with_reducible apply Only.step (State.powerStop_only _ _ _); decide)
   | (with_reducible apply Only.step (State.putDiePower_only _ _ _); decide)
   | with_reducible apply Only.ite
   | (with_reducible apply Only.foldl; intro y a hy)
   | split
   | (with_reducible apply Only.step Only.set_pins_pwr; decide)
   | dsimp only)

theorem execThermalTick_only (temps : List Int) (s : State) : OnlyOut [.now, .devState, .holdCauses, .cmds, .fetches, .engines, .msix, .pages, .regs, .mem, .hostMem, .badWords, .me, .disp, .pins, .pwr, .cairn, .softWords] s (execThermalTick temps s) := by
  unfold execThermalTick
  try dsimp only
  repeat' (first
   | with_reducible exact Only.refl _ _
   | with_reducible assumption
   | with_reducible apply OnlyOut.next
   | (with_reducible apply Only.step (State.at_only _ _); decide)
   | (with_reducible apply Only.step (State.thermalTick_only _ _); decide)
   | (with_reducible apply Only.step (State.track_only _); decide)
   | with_reducible apply Only.ite
   | with_reducible apply OnlyOut.ite
   | split
   | (with_reducible apply Only.step Only.set_pwr; decide)
   | dsimp only)

theorem execCriticalTrip_only (s : State) : OnlyOut (fieldsBut [.pending, .part, .nextUid, .hostMem, .protEff, .bw]) s (execCriticalTrip s) := by
  unfold execCriticalTrip
  try dsimp only
  repeat' (first
   | with_reducible exact Only.refl _ _
   | with_reducible assumption
   | with_reducible apply OnlyOut.next
   | (with_reducible apply Only.step (State.halt_only _ _); decide)
   | (with_reducible apply Only.step (State.setReg_only _ _ _ _ _); decide)
   | with_reducible apply Only.ite
   | with_reducible apply OnlyOut.ite
   | split
   | (with_reducible apply Only.step Only.set_pins; decide)
   | dsimp only)

theorem State.disagreeWrite_only (s : State) (v : Nat) : Only [.pwr] s (State.disagreeWrite s v) := by
  unfold State.disagreeWrite
  try dsimp only
  repeat' (first
   | with_reducible exact Only.refl _ _
   | with_reducible assumption
   | with_reducible apply Only.ite
   | split
   | (with_reducible apply Only.step Only.set_pwr; decide)
   | dsimp only)

theorem execDisagreeClear_only (s : State) : OnlyOut [.pwr] s (execDisagreeClear s) := by
  unfold execDisagreeClear
  try dsimp only
  repeat' (first
   | with_reducible exact Only.refl _ _
   | with_reducible assumption
   | with_reducible apply OnlyOut.next
   | (with_reducible apply Only.step (State.disagreeWrite_only _ _); decide)
   | with_reducible apply Only.ite
   | with_reducible apply OnlyOut.ite
   | (with_reducible apply Only.hostWo; intro y hy)
   | dsimp only)

theorem State.shareOrderWrite_only (s : State) (v : Nat) : Only [.pages, .regs] s (State.shareOrderWrite s v) := by
  unfold State.shareOrderWrite
  try dsimp only
  repeat' (first
   | with_reducible exact Only.refl _ _
   | with_reducible assumption
   | (with_reducible apply Only.step (State.err_only _ _ _ _ _ _); decide)
   | (with_reducible apply Only.step (State.setReg_only _ _ _ _ _); decide)
   | with_reducible apply Only.ite
   | split
   | dsimp only)

theorem execShareOrderWrite_only (value : Nat) (s : State) : OnlyOut [.pages, .regs] s (execShareOrderWrite value s) := by
  unfold execShareOrderWrite
  try dsimp only
  repeat' (first
   | with_reducible exact Only.refl _ _
   | with_reducible assumption
   | with_reducible apply OnlyOut.next
   | (with_reducible apply Only.step (State.shareOrderWrite_only _ _); decide)
   | with_reducible apply Only.ite
   | with_reducible apply OnlyOut.ite
   | (with_reducible apply Only.host (by decide); intro y hy)
   | dsimp only)

theorem State.markInsole_only (s : State) (b : Blk) (i : Nat) (ctrl : Option Nat) : Only [.pages] s (State.markInsole s b i ctrl) := by
  unfold State.markInsole
  try dsimp only
  repeat' (first
   | with_reducible exact Only.refl _ _
   | with_reducible assumption
   | (with_reducible apply Only.step (State.putPage_only _ _ _ _); decide)
   | with_reducible apply Only.ite
   | split
   | dsimp only)

theorem State.applyRecord_only (s : State) (r : Nat × Nat × Nat) : Only [.pages, .regs, .insole] s (State.applyRecord s r) := by
  unfold State.applyRecord
  try dsimp only
  repeat' (first
   | with_reducible exact Only.refl _ _
   | with_reducible assumption
   | (with_reducible apply Only.step (State.markInsole_only _ _ _ _); decide)
   | with_reducible apply Only.ite
   | split
   | (with_reducible apply Only.step Only.set_regs_insole; decide)
   | dsimp only)

theorem State.applyInsole_only (s : State) (copy : Option Nat) (dies : Bool) : Only [.pages, .regs, .insole] s (State.applyInsole s copy dies) := by
  unfold State.applyInsole
  try dsimp only
  repeat' (first
   | with_reducible exact Only.refl _ _
   | with_reducible assumption
   | (with_reducible apply Only.step (State.applyRecord_only _ _); decide)
   | with_reducible apply Only.ite
   | (with_reducible apply Only.foldl; intro y a hy)
   | split
   | (with_reducible apply Only.step Only.set_insole; decide)
   | dsimp only)

theorem State.recordNow_only (s : State) (uid : Nat) : Only [.cmds, .steps, .groups, .colls, .engines, .flags, .rings, .waiting, .backlog, .msix, .pages, .regs, .mem, .hostMem, .badWords, .me, .raster, .traceGap, .log, .ctrs, .softWords, .traceFill, .traceAt] s (State.recordNow s uid) := by
  unfold State.recordNow
  try dsimp only
  repeat' (first
   | with_reducible exact Only.refl _ _
   | with_reducible assumption
   | (with_reducible apply Only.step (State.closeStep_only _ _); decide)
   | (with_reducible apply Only.step (State.endReplay_only _ _ _); decide)
   | (with_reducible apply Only.step (State.produce_only _ _ _ _); decide)
   | with_reducible apply Only.ite
   | split
   | dsimp only)

theorem State.endWork_only (s : State) (st : Status) : Only [.cmds, .stopped, .regs, .me] s (State.endWork s st) := by
  unfold State.endWork
  try dsimp only
  repeat' (first
   | with_reducible exact Only.refl _ _
   | with_reducible assumption
   | (with_reducible apply Only.step (State.endAll_only _ _ _ _); decide)
   | (with_reducible apply Only.step (State.meDrop_only _); decide)
   | with_reducible apply Only.ite
   | (with_reducible apply Only.step Only.set_stopped; decide)
   | dsimp only)

theorem State.flushRecords_only (s : State) : Only [.cmds, .steps, .groups, .colls, .engines, .flags, .apts, .rings, .waiting, .backlog, .msix, .pages, .regs, .mem, .hostMem, .badWords, .me, .raster, .traceGap, .log, .ctrs, .softWords, .traceFill, .traceAt] s (State.flushRecords s) := by
  unfold State.flushRecords
  try dsimp only
  repeat' (first
   | with_reducible exact Only.refl _ _
   | with_reducible assumption
   | (with_reducible apply Only.step (State.recordNow_only _ _); decide)
   | (with_reducible apply Only.step (State.writeCredit_only _ _); decide)
   | with_reducible apply Only.ite
   | (with_reducible apply Only.foldl; intro y a hy)
   | split
   | dsimp only)

theorem State.devResetWrite_only (s : State) (v : Nat) : Only [.cmds, .engines, .stopped, .resetPending, .pages, .regs, .me] s (State.devResetWrite s v) := by
  unfold State.devResetWrite
  try dsimp only
  repeat' (first
   | with_reducible exact Only.refl _ _
   | with_reducible assumption
   | (with_reducible apply Only.step (State.endWork_only _ _); decide)
   | (with_reducible apply Only.step (State.err_only _ _ _ _ _ _); decide)
   | (with_reducible apply Only.step (State.track_only _); decide)
   | with_reducible apply Only.ite
   | split
   | (with_reducible apply Only.step Only.set_resetPending; decide)
   | dsimp only)

theorem execDevReset_only (value : Nat) (s : State) : OnlyOut [.cmds, .engines, .stopped, .resetPending, .pages, .regs, .me] s (execDevReset value s) := by
  unfold execDevReset
  try dsimp only
  repeat' (first
   | with_reducible exact Only.refl _ _
   | with_reducible assumption
   | with_reducible apply OnlyOut.next
   | (with_reducible apply Only.step (State.devResetWrite_only _ _); decide)
   | with_reducible apply Only.ite
   | with_reducible apply OnlyOut.ite
   | (with_reducible apply Only.hostWo; intro y hy)
   | dsimp only)

theorem State.deviceReset_only (s : State) : Only (fieldsBut [.pending, .part, .now, .nextUid, .link, .protEff, .bw, .timeFrac]) s (State.deviceReset s) := by
  unfold State.deviceReset
  try dsimp only
  repeat' (first
   | with_reducible exact Only.refl _ _
   | with_reducible assumption
   | (with_reducible apply Only.step (State.setDevState_only _ _); decide)
   | (with_reducible apply Only.step (State.wipe_only _); decide)
   | with_reducible apply Only.ite
   | split
   | (with_reducible apply Only.step Only.set_boot; decide)
   | dsimp only)

theorem execDeviceResetAct_only (s : State) : OnlyOut (fieldsBut [.pending, .part, .now, .nextUid, .link, .protEff, .bw, .timeFrac]) s (execDeviceResetAct s) := by
  unfold execDeviceResetAct
  try dsimp only
  repeat' (first
   | with_reducible exact Only.refl _ _
   | with_reducible assumption
   | with_reducible apply OnlyOut.next
   | (with_reducible apply Only.step (State.deviceReset_only _); decide)
   | with_reducible apply Only.ite
   | with_reducible apply OnlyOut.ite
   | split
   | dsimp only)

theorem State.showPlan_only (s : State) (path ticks : Nat) : Only [.regs] s (State.showPlan s path ticks) := by
  unfold State.showPlan
  try dsimp only
  repeat' (first
   | with_reducible exact Only.refl _ _
   | with_reducible assumption
   | (with_reducible apply Only.step (State.setReg_only _ _ _ _ _); decide)
   | with_reducible apply Only.ite
   | dsimp only)

theorem State.planIrqs_only (s : State) : Only [.msix, .pages, .hostMem] s (State.planIrqs s) := by
  unfold State.planIrqs
  try dsimp only
  repeat' (first
   | with_reducible exact Only.refl _ _
   | with_reducible assumption
   | (with_reducible apply Only.step (State.irq_only _ _ _ _); decide)
   | with_reducible apply Only.ite
   | split
   | dsimp only)

theorem State.recover_only (s : State) (path ticks code : Nat) : Only [.devState, .msix, .pages, .regs, .hostMem, .pins, .boot, .dbg] s (State.recover s path ticks code) := by
  unfold State.recover
  try dsimp only
  repeat' (first
   | with_reducible exact Only.refl _ _
   | with_reducible assumption
   | (with_reducible apply Only.step (State.dbgClose_only _); decide)
   | (with_reducible apply Only.step (State.planIrqs_only _); decide)
   | (with_reducible apply Only.step (State.setDevState_only _ _); decide)
   | (with_reducible apply Only.step (State.setReg_only _ _ _ _ _); decide)
   | (with_reducible apply Only.step (State.showPlan_only _ _ _); decide)
   | with_reducible apply Only.ite
   | split
   | (with_reducible apply Only.step Only.set_boot; decide)
   | dsimp only)

theorem State.loadDie_only (s : State) (k : Nat) (ucOk : Bool) (ver : Nat) : Only [.regs, .pins] s (State.loadDie s k ucOk ver) := by
  unfold State.loadDie
  try dsimp only
  repeat' (first
   | with_reducible exact Only.refl _ _
   | with_reducible assumption
   | (with_reducible apply Only.step (State.setReg_only _ _ _ _ _); decide)
   | with_reducible apply Only.ite
   | split
   | (with_reducible apply Only.step Only.set_pins; decide)
   | dsimp only)

theorem State.loadDies_only (s : State) (ucFail : Nat) : Only [.regs, .pins] s (State.loadDies s ucFail) := by
  unfold State.loadDies
  try dsimp only
  repeat' (first
   | with_reducible exact Only.refl _ _
   | with_reducible assumption
   | (with_reducible apply Only.step (State.loadDie_only _ _ _ _); decide)
   | with_reducible apply Only.ite
   | (with_reducible apply Only.foldl; intro y a hy)
   | split
   | dsimp only)

theorem State.weltUpAll_only (s : State) : Only [.welt] s (State.weltUpAll s) := by
  unfold State.weltUpAll
  try dsimp only
  repeat' (first
   | with_reducible exact Only.refl _ _
   | with_reducible assumption
   | with_reducible apply Only.ite
   | (with_reducible apply Only.step Only.set_welt; decide)
   | dsimp only)

theorem State.portsReady_only (s : State) : Only [.regs] s (State.portsReady s) := by
  unfold State.portsReady
  try dsimp only
  repeat' (first
   | with_reducible exact Only.refl _ _
   | with_reducible assumption
   | (with_reducible apply Only.step (State.setReg_only _ _ _ _ _); decide)
   | with_reducible apply Only.ite
   | (with_reducible apply Only.foldl; intro y a hy)
   | dsimp only)

theorem State.trainFail_only (s : State) (bad : Nat) : Only [.msix, .pages, .hostMem] s (State.trainFail s bad) := by
  unfold State.trainFail
  try dsimp only
  repeat' (first
   | with_reducible exact Only.refl _ _
   | with_reducible assumption
   | (with_reducible apply Only.step (State.err_only _ _ _ _ _ _); decide)
   | (with_reducible apply Only.step (State.irq_only _ _ _ _); decide)
   | with_reducible apply Only.ite
   | (with_reducible apply Only.foldl; intro y a hy)
   | dsimp only)

theorem State.lockPlls_only (s : State) (dram : Bool) : Only [.pins] s (State.lockPlls s dram) := by
  unfold State.lockPlls
  try dsimp only
  repeat' (first
   | with_reducible exact Only.refl _ _
   | with_reducible assumption
   | with_reducible apply Only.ite
   | split
   | (with_reducible apply Only.step Only.set_pins; decide)
   | dsimp only)

theorem State.enterReady_only (s : State) (path ticks ucFail bad : Nat) : Only (fieldsBut [.pending, .part, .now, .nextUid, .jobs, .windows, .saveBase, .apts, .aptSlots, .link, .dma, .stopped, .resetPending, .latch, .insole, .protEff, .ingest, .outs, .readData, .bw, .refresh, .snaps, .lastFw, .sleeping, .issue, .timeFrac]) s (State.enterReady s path ticks ucFail bad) := by
  unfold State.enterReady
  try dsimp only
  repeat' (first
   | with_reducible exact Only.refl _ _
   | with_reducible assumption
   | (with_reducible apply Only.step (State.dbgClose_only _); decide)
   | (with_reducible apply Only.step (State.enterHold_only _ _); decide)
   | (with_reducible apply Only.step (State.loadDies_only _ _); decide)
   | (with_reducible apply Only.step (State.loseDie_only _ _); decide)
   | (with_reducible apply Only.step (State.planIrqs_only _); decide)
   | (with_reducible apply Only.step (State.setDevState_only _ _); decide)
   | (with_reducible apply Only.step (State.settleState_only _); decide)
   | (with_reducible apply Only.step (State.showPlan_only _ _ _); decide)
   | (with_reducible apply Only.step (State.startDisplay_only _); decide)
   | (with_reducible apply Only.step (State.weltUpAll_only _); decide)
   | with_reducible apply Only.ite
   | (with_reducible apply Only.foldl; intro y a hy)
   | split
   | (with_reducible apply Only.step Only.set_pwr_boot_dbg; decide)
   | dsimp only)

theorem State.countRecords_only (s : State) (dies : Bool) : Only [.boot] s (State.countRecords s dies) := by
  unfold State.countRecords
  try dsimp only
  repeat' (first
   | with_reducible exact Only.refl _ _
   | with_reducible assumption
   | with_reducible apply Only.ite
   | split
   | (with_reducible apply Only.step Only.set_boot; decide)
   | dsimp only)

theorem State.coldImages_only (s : State) (ticks badPorts ucFail bad : Nat) : Only (fieldsBut [.pending, .part, .now, .nextUid, .jobs, .windows, .saveBase, .apts, .aptSlots, .link, .dma, .stopped, .resetPending, .latch, .ingest, .outs, .readData, .bw, .refresh, .snaps, .lastFw, .sleeping, .issue, .timeFrac]) s (State.coldImages s ticks badPorts ucFail bad) := by
  unfold State.coldImages
  try dsimp only
  repeat' (first
   | with_reducible exact Only.refl _ _
   | with_reducible assumption
   | (with_reducible apply Only.step (State.applyInsole_only _ _ _); decide)
   | (with_reducible apply Only.step (State.countRecords_only _ _); decide)
   | (with_reducible apply Only.step (State.enterReady_only _ _ _ _ _); decide)
   | (with_reducible apply Only.step (State.portsReady_only _); decide)
   | (with_reducible apply Only.step (State.recover_only _ _ _ _); decide)
   | (with_reducible apply Only.step (State.trainFail_only _ _); decide)
   | with_reducible apply Only.ite
   | split
   | (with_reducible apply Only.step Only.set_boot; decide)
   | (with_reducible apply Only.step Only.set_mem_badWords_softWords_protEff; decide)
   | dsimp only)

theorem State.identLost_only (s : State) : Only [.boot] s (State.identLost s) := by
  unfold State.identLost
  try dsimp only
  repeat' (first
   | with_reducible exact Only.refl _ _
   | with_reducible assumption
   | with_reducible apply Only.ite
   | (with_reducible apply Only.step Only.set_boot; decide)
   | dsimp only)

theorem State.identTaken_only (s : State) (fw : Bool) : Only [.part, .boot] s (State.identTaken s fw) := by
  unfold State.identTaken
  try dsimp only
  repeat' (first
   | with_reducible exact Only.refl _ _
   | with_reducible assumption
   | with_reducible apply Only.ite
   | (with_reducible apply Only.step Only.set_part_boot; decide)
   | dsimp only)

theorem State.coldBoot_only (s : State) (ticks : Nat) (temp : Int) (badPorts ucFail bad : Nat) : Only (fieldsBut [.pending, .nextUid, .jobs, .windows, .saveBase, .apts, .aptSlots, .link, .dma, .stopped, .resetPending, .latch, .ingest, .outs, .readData, .bw, .refresh, .snaps, .lastFw, .sleeping, .issue, .timeFrac]) s (State.coldBoot s ticks temp badPorts ucFail bad) := by
  unfold State.coldBoot
  try dsimp only
  repeat' (first
   | with_reducible exact Only.refl _ _
   | with_reducible assumption
   | (with_reducible apply Only.step (State.at_only _ _); decide)
   | (with_reducible apply Only.step (State.coldImages_only _ _ _ _ _); decide)
   | (with_reducible apply Only.step (State.identLost_only _); decide)
   | (with_reducible apply Only.step (State.identTaken_only _ _); decide)
   | (with_reducible apply Only.step (State.lockPlls_only _ _); decide)
   | (with_reducible apply Only.step (State.recover_only _ _ _ _); decide)
   | (with_reducible apply Only.step (State.setReg_only _ _ _ _ _); decide)
   | with_reducible apply Only.ite
   | split
   | (with_reducible apply Only.step Only.set_boot; decide)
   | dsimp only)

theorem State.leaveReset_only (s : State) : Only [.devState, .pins, .boot] s (State.leaveReset s) := by
  unfold State.leaveReset
  try dsimp only
  repeat' (first
   | with_reducible exact Only.refl _ _
   | with_reducible assumption
   | with_reducible apply Only.ite
   | (with_reducible apply Only.step Only.set_devState_pins_boot; decide)
   | dsimp only)

theorem State.releaseReset_only (s : State) : Only [.devState, .pins, .boot] s (State.releaseReset s) := by
  unfold State.releaseReset
  try dsimp only
  repeat' (first
   | with_reducible exact Only.refl _ _
   | with_reducible assumption
   | (with_reducible apply Only.step (State.leaveReset_only _); decide)
   | with_reducible apply Only.ite
   | split
   | (with_reducible apply Only.step Only.set_pins; decide)
   | dsimp only)

theorem execColdBoot_only (ticks : Nat) (dramTemp : Int) (badPorts ucFail badDies : Nat) (s : State) : OnlyOut (fieldsBut [.pending, .nextUid, .jobs, .windows, .saveBase, .apts, .aptSlots, .link, .dma, .stopped, .resetPending, .latch, .ingest, .outs, .readData, .bw, .refresh, .snaps, .lastFw, .sleeping, .issue, .timeFrac]) s (execColdBoot ticks dramTemp badPorts ucFail badDies s) := by
  unfold execColdBoot
  try dsimp only
  repeat' (first
   | with_reducible exact Only.refl _ _
   | with_reducible assumption
   | with_reducible apply OnlyOut.next
   | (with_reducible apply Only.step (State.coldBoot_only _ _ _ _ _ _); decide)
   | (with_reducible apply Only.step (State.releaseReset_only _); decide)
   | with_reducible apply Only.ite
   | with_reducible apply OnlyOut.ite
   | split
   | dsimp only)

theorem State.wakePorts_only (s : State) (path ticks ucFail bad fails : Nat) : Only (fieldsBut [.pending, .part, .now, .nextUid, .jobs, .windows, .saveBase, .apts, .aptSlots, .link, .dma, .stopped, .resetPending, .latch, .protEff, .ingest, .outs, .readData, .bw, .refresh, .snaps, .lastFw, .sleeping, .issue, .timeFrac]) s (State.wakePorts s path ticks ucFail bad fails) := by
  unfold State.wakePorts
  try dsimp only
  repeat' (first
   | with_reducible exact Only.refl _ _
   | with_reducible assumption
   | (with_reducible apply Only.step (State.applyInsole_only _ _ _); decide)
   | (with_reducible apply Only.step (State.enterReady_only _ _ _ _ _); decide)
   | (with_reducible apply Only.step (State.portsReady_only _); decide)
   | (with_reducible apply Only.step (State.recover_only _ _ _ _); decide)
   | (with_reducible apply Only.step (State.trainFail_only _ _); decide)
   | with_reducible apply Only.ite
   | split
   | dsimp only)

theorem State.retrainDram_only (s : State) (temp : Int) : Only [.boot] s (State.retrainDram s temp) := by
  unfold State.retrainDram
  try dsimp only
  repeat' (first
   | with_reducible exact Only.refl _ _
   | with_reducible assumption
   | with_reducible apply Only.ite
   | split
   | (with_reducible apply Only.step Only.set_boot; decide)
   | dsimp only)

theorem State.wakeBoot_only (s : State) (path ticks : Nat) (temp : Int) (badPorts ucFail bad : Nat) : Only (fieldsBut [.pending, .nextUid, .jobs, .windows, .saveBase, .apts, .aptSlots, .link, .dma, .stopped, .resetPending, .latch, .protEff, .ingest, .outs, .readData, .bw, .refresh, .snaps, .lastFw, .sleeping, .issue, .timeFrac]) s (State.wakeBoot s path ticks temp badPorts ucFail bad) := by
  unfold State.wakeBoot
  try dsimp only
  repeat' (first
   | with_reducible exact Only.refl _ _
   | with_reducible assumption
   | (with_reducible apply Only.step (State.at_only _ _); decide)
   | (with_reducible apply Only.step (State.identLost_only _); decide)
   | (with_reducible apply Only.step (State.identTaken_only _ _); decide)
   | (with_reducible apply Only.step (State.lockPlls_only _ _); decide)
   | (with_reducible apply Only.step (State.recover_only _ _ _ _); decide)
   | (with_reducible apply Only.step (State.retrainDram_only _ _); decide)
   | (with_reducible apply Only.step (State.wakePorts_only _ _ _ _ _ _); decide)
   | with_reducible apply Only.ite
   | split
   | dsimp only)

theorem execWake_only (ticks : Nat) (mismatch : Bool) (dramTemp : Int) (badPorts ucFail badDies : Nat) (s : State) : OnlyOut (fieldsBut [.pending, .nextUid, .jobs, .windows, .saveBase, .apts, .aptSlots, .link, .dma, .stopped, .resetPending, .latch, .protEff, .ingest, .outs, .readData, .bw, .refresh, .snaps, .lastFw, .sleeping, .issue, .timeFrac]) s (execWake ticks mismatch dramTemp badPorts ucFail badDies s) := by
  unfold execWake
  try dsimp only
  repeat' (first
   | with_reducible exact Only.refl _ _
   | with_reducible assumption
   | with_reducible apply OnlyOut.next
   | (with_reducible apply Only.step (State.wakeBoot_only _ _ _ _ _ _ _); decide)
   | with_reducible apply Only.ite
   | with_reducible apply OnlyOut.ite
   | split
   | (with_reducible apply Only.step Only.set_boot; decide)
   | dsimp only)

theorem State.wakeFrom_only (s : State) (sources : Nat) : Only [.devState, .msix, .pages, .regs, .hostMem, .pins, .boot] s (State.wakeFrom s sources) := by
  unfold State.wakeFrom
  try dsimp only
  repeat' (first
   | with_reducible exact Only.refl _ _
   | with_reducible assumption
   | (with_reducible apply Only.step (State.irq_only _ _ _ _); decide)
   | (with_reducible apply Only.step (State.setDevState_only _ _); decide)
   | (with_reducible apply Only.step (State.setReg_only _ _ _ _ _); decide)
   | with_reducible apply Only.ite
   | split
   | (with_reducible apply Only.step Only.set_pins_boot; decide)
   | dsimp only)

theorem State.sleepNow_only (s : State) (latched : Nat) : Only (fieldsBut [.pending, .part, .now, .nextUid, .protEff, .bw, .timeFrac]) s (State.sleepNow s latched) := by
  unfold State.sleepNow
  try dsimp only
  repeat' (first
   | with_reducible exact Only.refl _ _
   | with_reducible assumption
   | (with_reducible apply Only.step (State.bump_only _ _ _ _ _); decide)
   | (with_reducible apply Only.step (State.wakeFrom_only _ _); decide)
   | (with_reducible apply Only.step (State.wipe_only _); decide)
   | with_reducible apply Only.ite
   | split
   | (with_reducible apply Only.step Only.set_devState_cdLost_mdLost_link_regs_mem_badWords_softWords_pins_boot_dbg; decide)
   | (with_reducible apply Only.step Only.set_devState_link_regs_mem_badWords_softWords_pins_boot_dbg; decide)
   | dsimp only)

theorem State.enterBasecamp_only (s : State) : Only (fieldsBut [.pending, .part, .now, .nextUid, .protEff, .bw, .timeFrac]) s (State.enterBasecamp s) := by
  unfold State.enterBasecamp
  try dsimp only
  repeat' (first
   | with_reducible exact Only.refl _ _
   | with_reducible assumption
   | (with_reducible apply Only.step (State.sleepNow_only _ _); decide)
   | with_reducible apply Only.ite
   | split
   | dsimp only)

theorem State.sleep_only (s : State) : Only (fieldsBut [.pending, .part, .now, .nextUid, .protEff, .bw, .timeFrac]) s (State.sleep s) := by
  unfold State.sleep
  try dsimp only
  repeat' (first
   | with_reducible exact Only.refl _ _
   | with_reducible assumption
   | (with_reducible apply Only.step (State.endWork_only _ _); decide)
   | (with_reducible apply Only.step (State.enterBasecamp_only _); decide)
   | (with_reducible apply Only.step (State.flushRecords_only _); decide)
   | with_reducible apply Only.ite
   | (with_reducible apply Only.step Only.set_sleeping; decide)
   | dsimp only)

theorem State.sleepCtrlWrite_only (s : State) (v : Nat) : Only (fieldsBut [.pending, .part, .now, .nextUid, .protEff, .bw, .timeFrac]) s (State.sleepCtrlWrite s v) := by
  unfold State.sleepCtrlWrite
  try dsimp only
  repeat' (first
   | with_reducible exact Only.refl _ _
   | with_reducible assumption
   | (with_reducible apply Only.step (State.err_only _ _ _ _ _ _); decide)
   | (with_reducible apply Only.step (State.setReg_only _ _ _ _ _); decide)
   | (with_reducible apply Only.step (State.sleep_only _); decide)
   | with_reducible apply Only.ite
   | split
   | dsimp only)

theorem execSleep_only (value : Nat) (s : State) : OnlyOut (fieldsBut [.pending, .part, .now, .nextUid, .protEff, .bw, .timeFrac]) s (execSleep value s) := by
  unfold execSleep
  try dsimp only
  repeat' (first
   | with_reducible exact Only.refl _ _
   | with_reducible assumption
   | with_reducible apply OnlyOut.next
   | (with_reducible apply Only.step (State.sleepCtrlWrite_only _ _); decide)
   | with_reducible apply Only.ite
   | with_reducible apply OnlyOut.ite
   | (with_reducible apply Only.host (by decide); intro y hy)
   | dsimp only)

theorem State.wakeBy_only (s : State) (source : Nat) : Only [.devState, .msix, .pages, .regs, .hostMem, .pins, .boot, .sleeping] s (State.wakeBy s source) := by
  unfold State.wakeBy
  try dsimp only
  repeat' (first
   | with_reducible exact Only.refl _ _
   | with_reducible assumption
   | (with_reducible apply Only.step (State.wakeFrom_only _ _); decide)
   | with_reducible apply Only.ite
   | split
   | (with_reducible apply Only.step Only.set_sleeping; decide)
   | dsimp only)

theorem execWakeNFall_only (s : State) : OnlyOut [.now, .devState, .msix, .pages, .regs, .hostMem, .pins, .boot, .sleeping] s (execWakeNFall s) := by
  unfold execWakeNFall
  try dsimp only
  repeat' (first
   | with_reducible exact Only.refl _ _
   | with_reducible assumption
   | with_reducible apply OnlyOut.next
   | (with_reducible apply Only.step (State.filtered_only _ _ _); decide)
   | (with_reducible apply Only.step (State.wakeBy_only _ _); decide)
   | with_reducible apply Only.ite
   | with_reducible apply OnlyOut.ite
   | dsimp only)

theorem execUsb4WakeSignal_only (s : State) : OnlyOut [.devState, .msix, .pages, .regs, .hostMem, .pins, .boot, .sleeping] s (execUsb4WakeSignal s) := by
  unfold execUsb4WakeSignal
  try dsimp only
  repeat' (first
   | with_reducible exact Only.refl _ _
   | with_reducible assumption
   | with_reducible apply OnlyOut.next
   | (with_reducible apply Only.step (State.wakeBy_only _ _); decide)
   | with_reducible apply Only.ite
   | with_reducible apply OnlyOut.ite
   | dsimp only)

theorem execAlarm_only (s : State) : OnlyOut [.now, .devState, .msix, .pages, .regs, .hostMem, .pins, .boot, .sleeping] s (execAlarm s) := by
  unfold execAlarm
  try dsimp only
  repeat' (first
   | with_reducible exact Only.refl _ _
   | with_reducible assumption
   | with_reducible apply OnlyOut.next
   | (with_reducible apply Only.step (State.at_only _ _); decide)
   | (with_reducible apply Only.step (State.irq_only _ _ _ _); decide)
   | (with_reducible apply Only.step (State.wakeBy_only _ _); decide)
   | with_reducible apply Only.ite
   | with_reducible apply OnlyOut.ite
   | split
   | dsimp only)

theorem execPwrGoodRise_only (s : State) : OnlyOut [.devState, .pins, .boot] s (execPwrGoodRise s) := by
  unfold execPwrGoodRise
  try dsimp only
  repeat' (first
   | with_reducible exact Only.refl _ _
   | with_reducible assumption
   | with_reducible apply OnlyOut.next
   | (with_reducible apply Only.step (State.leaveReset_only _); decide)
   | with_reducible apply Only.ite
   | with_reducible apply OnlyOut.ite
   | split
   | (with_reducible apply Only.step Only.set_pins; decide)
   | (with_reducible apply Only.step Only.set_pins_boot; decide)
   | dsimp only)

theorem execXtal32Start_only (s : State) : OnlyOut [.pins] s (execXtal32Start s) := by
  unfold execXtal32Start
  try dsimp only
  repeat' (first
   | with_reducible exact Only.refl _ _
   | with_reducible assumption
   | with_reducible apply OnlyOut.next
   | with_reducible apply Only.ite
   | with_reducible apply OnlyOut.ite
   | (with_reducible apply Only.step Only.set_pins; decide)
   | dsimp only)

theorem State.resetHeld_only (s : State) (byPwrGood : Bool) : Only (fieldsBut [.pending, .part, .nextUid, .hostMem, .protEff, .bw]) s (State.resetHeld s byPwrGood) := by
  unfold State.resetHeld
  try dsimp only
  repeat' (first
   | with_reducible exact Only.refl _ _
   | with_reducible assumption
   | (with_reducible apply Only.step (State.halt_only _ _); decide)
   | with_reducible apply Only.ite
   | (with_reducible apply Only.step Only.set_pins; decide)
   | dsimp only)

theorem execResetAssert_only (byPwrGood : Bool) (s : State) : OnlyOut (fieldsBut [.pending, .part, .nextUid, .hostMem, .protEff, .bw]) s (execResetAssert byPwrGood s) := by
  unfold execResetAssert
  try dsimp only
  repeat' (first
   | with_reducible exact Only.refl _ _
   | with_reducible assumption
   | with_reducible apply OnlyOut.next
   | (with_reducible apply Only.step (State.resetHeld_only _ _); decide)
   | with_reducible apply Only.ite
   | with_reducible apply OnlyOut.ite
   | split
   | (with_reducible apply Only.step Only.set_pins; decide)
   | dsimp only)

theorem execSupplyLoss_only (baseCamp : Bool) (s : State) : OnlyOut (fieldsBut [.pending, .part, .nextUid, .hostMem, .protEff]) s (execSupplyLoss baseCamp s) := by
  unfold execSupplyLoss
  try dsimp only
  repeat' (first
   | with_reducible exact Only.refl _ _
   | with_reducible assumption
   | with_reducible apply OnlyOut.next
   | (with_reducible apply Only.step (State.halt_only _ _); decide)
   | with_reducible apply Only.ite
   | with_reducible apply OnlyOut.ite
   | split
   | (with_reducible apply Only.step Only.set_pins; decide)
   | (with_reducible apply Only.step Only.set_regs_pins_bw; decide)
   | dsimp only)

theorem State.updRun_only (s : State) (u : UpdOp) : Only [.freeCount, .boot] s (State.updRun s u) := by
  unfold State.updRun
  try dsimp only
  repeat' (first
   | with_reducible exact Only.refl _ _
   | with_reducible assumption
   | (with_reducible apply Only.step (State.free_only _); decide)
   | with_reducible apply Only.ite
   | split
   | (with_reducible apply Only.step Only.set_boot; decide)
   | dsimp only)

theorem State.updEnd_only (s : State) (result : Nat) : Only [.msix, .pages, .hostMem, .boot] s (State.updEnd s result) := by
  unfold State.updEnd
  try dsimp only
  repeat' (first
   | with_reducible exact Only.refl _ _
   | with_reducible assumption
   | (with_reducible apply Only.step (State.irq_only _ _ _ _); decide)
   | with_reducible apply Only.ite
   | (with_reducible apply Only.step Only.set_boot; decide)
   | dsimp only)

theorem State.updCmdWrite_only (s : State) (v : Nat) (fail : Bool) : Only [.msix, .pages, .regs, .hostMem, .boot] s (State.updCmdWrite s v fail) := by
  unfold State.updCmdWrite
  try dsimp only
  repeat' (first
   | with_reducible exact Only.refl _ _
   | with_reducible assumption
   | (with_reducible apply Only.step (State.err_only _ _ _ _ _ _); decide)
   | (with_reducible apply Only.step (State.setReg_only _ _ _ _ _); decide)
   | (with_reducible apply Only.step (State.updEnd_only _ _); decide)
   | with_reducible apply Only.ite
   | split
   | (with_reducible apply Only.step Only.set_boot; decide)
   | dsimp only)

theorem State.updFinish_only (s : State) : Only [.freeCount, .msix, .pages, .regs, .hostMem, .boot] s (State.updFinish s) := by
  unfold State.updFinish
  try dsimp only
  repeat' (first
   | with_reducible exact Only.refl _ _
   | with_reducible assumption
   | (with_reducible apply Only.step (State.bump_only _ _ _ _ _); decide)
   | (with_reducible apply Only.step (State.updEnd_only _ _); decide)
   | (with_reducible apply Only.step (State.updRun_only _ _); decide)
   | with_reducible apply Only.ite
   | split
   | (with_reducible apply Only.step Only.set_boot; decide)
   | dsimp only)

theorem State.updCommand_only (s : State) (op len : Nat) (fail : Bool) : Only [.msix, .pages, .regs, .hostMem, .boot] s (State.updCommand s op len fail) := by
  unfold State.updCommand
  try dsimp only
  repeat' (first
   | with_reducible exact Only.refl _ _
   | with_reducible assumption
   | (with_reducible apply Only.step (State.updCmdWrite_only _ _ _); decide)
   | with_reducible apply Only.ite
   | (with_reducible apply Only.host (by decide); intro y hy)
   | dsimp only)

theorem execUpdReadFlash_only (len : Nat) (fail : Bool) (s : State) : OnlyOut [.msix, .pages, .regs, .hostMem, .boot] s (execUpdReadFlash len fail s) := by
  unfold execUpdReadFlash
  try dsimp only
  repeat' (first
   | with_reducible exact Only.refl _ _
   | with_reducible assumption
   | with_reducible apply OnlyOut.next
   | (with_reducible apply Only.step (State.updCommand_only _ _ _ _); decide)
   | with_reducible apply Only.ite
   | with_reducible apply OnlyOut.ite
   | dsimp only)

theorem execUpdErase_only (len : Nat) (fail : Bool) (s : State) : OnlyOut [.msix, .pages, .regs, .hostMem, .boot] s (execUpdErase len fail s) := by
  unfold execUpdErase
  try dsimp only
  repeat' (first
   | with_reducible exact Only.refl _ _
   | with_reducible assumption
   | with_reducible apply OnlyOut.next
   | (with_reducible apply Only.step (State.updCommand_only _ _ _ _); decide)
   | with_reducible apply Only.ite
   | with_reducible apply OnlyOut.ite
   | dsimp only)

theorem execUpdProgram_only (len : Nat) (fail : Bool) (s : State) : OnlyOut [.msix, .pages, .regs, .hostMem, .boot] s (execUpdProgram len fail s) := by
  unfold execUpdProgram
  try dsimp only
  repeat' (first
   | with_reducible exact Only.refl _ _
   | with_reducible assumption
   | with_reducible apply OnlyOut.next
   | (with_reducible apply Only.step (State.updCommand_only _ _ _ _); decide)
   | with_reducible apply Only.ite
   | with_reducible apply OnlyOut.ite
   | dsimp only)

theorem execUpdReadId_only (len : Nat) (s : State) : OnlyOut [.msix, .pages, .regs, .hostMem, .boot] s (execUpdReadId len s) := by
  unfold execUpdReadId
  try dsimp only
  repeat' (first
   | with_reducible exact Only.refl _ _
   | with_reducible assumption
   | with_reducible apply OnlyOut.next
   | (with_reducible apply Only.step (State.updCommand_only _ _ _ _); decide)
   | with_reducible apply Only.ite
   | with_reducible apply OnlyOut.ite
   | dsimp only)

theorem execUpdRaiseSvn_only (s : State) : OnlyOut [.msix, .pages, .regs, .hostMem, .boot] s (execUpdRaiseSvn s) := by
  unfold execUpdRaiseSvn
  try dsimp only
  repeat' (first
   | with_reducible exact Only.refl _ _
   | with_reducible assumption
   | with_reducible apply OnlyOut.next
   | (with_reducible apply Only.step (State.updCommand_only _ _ _ _); decide)
   | with_reducible apply Only.ite
   | with_reducible apply OnlyOut.ite
   | dsimp only)

theorem execUpdSetCustKey_only (s : State) : OnlyOut [.msix, .pages, .regs, .hostMem, .boot] s (execUpdSetCustKey s) := by
  unfold execUpdSetCustKey
  try dsimp only
  repeat' (first
   | with_reducible exact Only.refl _ _
   | with_reducible assumption
   | with_reducible apply OnlyOut.next
   | (with_reducible apply Only.step (State.updCommand_only _ _ _ _); decide)
   | with_reducible apply Only.ite
   | with_reducible apply OnlyOut.ite
   | dsimp only)

end Sys2Proof.Machine
end

