-- ==== Sys2Proof/Laws/FrameRegs.lean ====
section
/-!
SUPPORT. Which fields of the state each operation can change: counters, registers, JTAG and pins.
-/

-- One proof at a time: the proofs of this file are many, and run together they take many threads at once.
set_option Elab.async false

set_option linter.unusedTactic false
set_option linter.unreachableTactic false

namespace Sys2Proof.Machine

theorem State.cntCfgWrite_only (s : State) (die v : Nat) : Only [.ctrs] s (State.cntCfgWrite s die v) := by
  unfold State.cntCfgWrite
  try dsimp only
  repeat' (first
   | with_reducible exact Only.refl _ _
   | with_reducible assumption
   | (with_reducible apply Only.step (State.putCtr_only _ _ _); decide)
   | with_reducible apply Only.ite
   | split
   | dsimp only)

theorem execCntCfgWrite_only (die value : Nat) (s : State) : OnlyOut [.pages, .ctrs] s (execCntCfgWrite die value s) := by
  unfold execCntCfgWrite
  try dsimp only
  repeat' (first
   | with_reducible exact Only.refl _ _
   | with_reducible assumption
   | with_reducible apply OnlyOut.next
   | (with_reducible apply Only.step (State.cntCfgWrite_only _ _ _); decide)
   | with_reducible apply Only.ite
   | with_reducible apply OnlyOut.ite
   | (with_reducible apply Only.host (by decide); intro y hy)
   | dsimp only)

theorem State.cntClrWrite_only (s : State) (die v : Nat) : Only [.ctrs] s (State.cntClrWrite s die v) := by
  unfold State.cntClrWrite
  try dsimp only
  repeat' (first
   | with_reducible exact Only.refl _ _
   | with_reducible assumption
   | (with_reducible apply Only.step (State.putCtr_only _ _ _); decide)
   | with_reducible apply Only.ite
   | split
   | (with_reducible apply Only.step Only.set_ctrs; decide)
   | dsimp only)

theorem execCntClrAll_only (die : Nat) (s : State) : OnlyOut [.ctrs] s (execCntClrAll die s) := by
  unfold execCntClrAll
  try dsimp only
  repeat' (first
   | with_reducible exact Only.refl _ _
   | with_reducible assumption
   | with_reducible apply OnlyOut.next
   | (with_reducible apply Only.step (State.cntClrWrite_only _ _ _); decide)
   | with_reducible apply Only.ite
   | with_reducible apply OnlyOut.ite
   | (with_reducible apply Only.hostWo; intro y hy)
   | dsimp only)

theorem execCntClrSel_only (die : Nat) (s : State) : OnlyOut [.ctrs] s (execCntClrSel die s) := by
  unfold execCntClrSel
  try dsimp only
  repeat' (first
   | with_reducible exact Only.refl _ _
   | with_reducible assumption
   | with_reducible apply OnlyOut.next
   | (with_reducible apply Only.step (State.cntClrWrite_only _ _ _); decide)
   | with_reducible apply Only.ite
   | with_reducible apply OnlyOut.ite
   | (with_reducible apply Only.hostWo; intro y hy)
   | dsimp only)

theorem execCounterSaturate_only (die page k : Nat) (s : State) : OnlyOut [.msix, .pages, .hostMem, .ctrs] s (execCounterSaturate die page k s) := by
  unfold execCounterSaturate
  try dsimp only
  repeat' (first
   | with_reducible exact Only.refl _ _
   | with_reducible assumption
   | with_reducible apply OnlyOut.next
   | (with_reducible apply Only.step (State.saturate_only _ _ _); decide)
   | with_reducible apply Only.ite
   | with_reducible apply OnlyOut.ite
   | split
   | dsimp only)

theorem State.snapshot_only (s : State) (die : Nat) : Only [.freeCount, .msix, .pages, .regs, .hostMem, .ctrs, .snaps] s (State.snapshot s die) := by
  unfold State.snapshot
  try dsimp only
  repeat' (first
   | with_reducible exact Only.refl _ _
   | with_reducible assumption
   | (with_reducible apply Only.step (State.irq_only _ _ _ _); decide)
   | (with_reducible apply Only.step (State.setReg_only _ _ _ _ _); decide)
   | with_reducible apply Only.ite
   | split
   | (with_reducible apply Only.step Only.set_freeCount_ctrs_snaps; decide)
   | dsimp only)

theorem State.armAt_only (s : State) (die time : Nat) : Only [.freeCount, .msix, .pages, .regs, .hostMem, .ctrs, .snaps] s (State.armAt s die time) := by
  unfold State.armAt
  try dsimp only
  repeat' (first
   | with_reducible exact Only.refl _ _
   | with_reducible assumption
   | (with_reducible apply Only.step (State.err_only _ _ _ _ _ _); decide)
   | (with_reducible apply Only.step (State.snapshot_only _ _); decide)
   | with_reducible apply Only.ite
   | split
   | (with_reducible apply Only.step Only.set_snaps; decide)
   | dsimp only)

theorem State.snapCtrlWrite_only (s : State) (die v : Nat) : Only [.freeCount, .msix, .pages, .regs, .hostMem, .ctrs, .snaps] s (State.snapCtrlWrite s die v) := by
  unfold State.snapCtrlWrite
  try dsimp only
  repeat' (first
   | with_reducible exact Only.refl _ _
   | with_reducible assumption
   | (with_reducible apply Only.step (State.armAt_only _ _ _); decide)
   | (with_reducible apply Only.step (State.err_only _ _ _ _ _ _); decide)
   | (with_reducible apply Only.step (State.snapshot_only _ _); decide)
   | with_reducible apply Only.ite
   | (with_reducible apply Only.foldl; intro y a hy)
   | split
   | dsimp only)

theorem execSnapNow_only (die : Nat) (s : State) : OnlyOut [.freeCount, .msix, .pages, .regs, .hostMem, .ctrs, .snaps] s (execSnapNow die s) := by
  unfold execSnapNow
  try dsimp only
  repeat' (first
   | with_reducible exact Only.refl _ _
   | with_reducible assumption
   | with_reducible apply OnlyOut.next
   | (with_reducible apply Only.step (State.snapCtrlWrite_only _ _ _); decide)
   | with_reducible apply Only.ite
   | with_reducible apply OnlyOut.ite
   | (with_reducible apply Only.hostWo; intro y hy)
   | dsimp only)

theorem execSnapArm_only (die : Nat) (s : State) : OnlyOut [.freeCount, .msix, .pages, .regs, .hostMem, .ctrs, .snaps] s (execSnapArm die s) := by
  unfold execSnapArm
  try dsimp only
  repeat' (first
   | with_reducible exact Only.refl _ _
   | with_reducible assumption
   | with_reducible apply OnlyOut.next
   | (with_reducible apply Only.step (State.snapCtrlWrite_only _ _ _); decide)
   | with_reducible apply Only.ite
   | with_reducible apply OnlyOut.ite
   | (with_reducible apply Only.hostWo; intro y hy)
   | dsimp only)

theorem execSnapArmAll_only (s : State) : OnlyOut [.freeCount, .msix, .pages, .regs, .hostMem, .ctrs, .snaps] s (execSnapArmAll s) := by
  unfold execSnapArmAll
  try dsimp only
  repeat' (first
   | with_reducible exact Only.refl _ _
   | with_reducible assumption
   | with_reducible apply OnlyOut.next
   | (with_reducible apply Only.step (State.snapCtrlWrite_only _ _ _); decide)
   | with_reducible apply Only.ite
   | with_reducible apply OnlyOut.ite
   | (with_reducible apply Only.hostWo; intro y hy)
   | dsimp only)

theorem execSnapFire_only (die : Nat) (s : State) : OnlyOut [.now, .freeCount, .msix, .pages, .regs, .hostMem, .ctrs, .snaps] s (execSnapFire die s) := by
  unfold execSnapFire
  try dsimp only
  repeat' (first
   | with_reducible exact Only.refl _ _
   | with_reducible assumption
   | with_reducible apply OnlyOut.next
   | (with_reducible apply Only.step (State.at_only _ _); decide)
   | (with_reducible apply Only.step (State.snapshot_only _ _); decide)
   | with_reducible apply Only.ite
   | with_reducible apply OnlyOut.ite
   | split
   | dsimp only)

theorem State.traceCtrlWrite_only (s : State) (v : Nat) : Only [.pages, .regs, .traceGap] s (State.traceCtrlWrite s v) := by
  unfold State.traceCtrlWrite
  try dsimp only
  repeat' (first
   | with_reducible exact Only.refl _ _
   | with_reducible assumption
   | (with_reducible apply Only.step (State.err_only _ _ _ _ _ _); decide)
   | (with_reducible apply Only.step (State.setReg_only _ _ _ _ _); decide)
   | with_reducible apply Only.ite
   | split
   | (with_reducible apply Only.step Only.set_traceGap; decide)
   | dsimp only)

theorem execTraceEnable_only (value : Nat) (s : State) : OnlyOut [.pages, .regs, .traceGap] s (execTraceEnable value s) := by
  unfold execTraceEnable
  try dsimp only
  repeat' (first
   | with_reducible exact Only.refl _ _
   | with_reducible assumption
   | with_reducible apply OnlyOut.next
   | (with_reducible apply Only.step (State.traceCtrlWrite_only _ _); decide)
   | with_reducible apply Only.ite
   | with_reducible apply OnlyOut.ite
   | (with_reducible apply Only.host (by decide); intro y hy)
   | dsimp only)

theorem State.traceBaseWrite_only (s : State) (off rw v : Nat) : Only [.pages, .regs] s (State.traceBaseWrite s off rw v) := by
  unfold State.traceBaseWrite
  try dsimp only
  repeat' (first
   | with_reducible exact Only.refl _ _
   | with_reducible assumption
   | (with_reducible apply Only.step (State.err_only _ _ _ _ _ _); decide)
   | (with_reducible apply Only.step (State.setReg_only _ _ _ _ _); decide)
   | with_reducible apply Only.ite
   | split
   | dsimp only)

theorem State.dbgCtrlWrite_only (s : State) (v : Nat) : Only [.msix, .pages, .hostMem, .dbg] s (State.dbgCtrlWrite s v) := by
  unfold State.dbgCtrlWrite
  try dsimp only
  repeat' (first
   | with_reducible exact Only.refl _ _
   | with_reducible assumption
   | (with_reducible apply Only.step (State.dbgClose_only _); decide)
   | with_reducible apply Only.ite
   | split
   | (with_reducible apply Only.step Only.set_dbg; decide)
   | dsimp only)

theorem execDbgCtrlClose_only (s : State) : OnlyOut [.msix, .pages, .hostMem, .dbg] s (execDbgCtrlClose s) := by
  unfold execDbgCtrlClose
  try dsimp only
  repeat' (first
   | with_reducible exact Only.refl _ _
   | with_reducible assumption
   | with_reducible apply OnlyOut.next
   | (with_reducible apply Only.step (State.dbgCtrlWrite_only _ _); decide)
   | with_reducible apply Only.ite
   | with_reducible apply OnlyOut.ite
   | (with_reducible apply Only.hostWo; intro y hy)
   | dsimp only)

theorem execDbgCtrlLockout_only (s : State) : OnlyOut [.msix, .pages, .hostMem, .dbg] s (execDbgCtrlLockout s) := by
  unfold execDbgCtrlLockout
  try dsimp only
  repeat' (first
   | with_reducible exact Only.refl _ _
   | with_reducible assumption
   | with_reducible apply OnlyOut.next
   | (with_reducible apply Only.step (State.dbgCtrlWrite_only _ _); decide)
   | with_reducible apply Only.ite
   | with_reducible apply OnlyOut.ite
   | (with_reducible apply Only.hostWo; intro y hy)
   | dsimp only)

theorem State.readWord_only (s : State) (off : Nat) : Only [.latch] s (State.readWord s off).2 := by
  unfold State.readWord
  try dsimp only
  repeat' (first
   | with_reducible exact Only.refl _ _
   | with_reducible assumption
   | with_reducible apply Only.ite
   | split
   | (with_reducible apply Only.step Only.set_latch; decide)
   | dsimp only)

theorem readWords_only (n off : Nat) (s : State) : Only [.latch] s (readWords n off s).2 := by
  induction n generalizing off s with
  | zero => exact Only.refl _ _
  | succ n ih => exact Only.step (ih _ _) (by decide) (Only.step (State.readWord_only _ _) (by decide) (Only.refl _ _))

theorem State.readBar0_only (s : State) (off n : Nat) : Only [.latch, .readData] s (State.readBar0 s off n) := by
  unfold State.readBar0
  try dsimp only
  repeat' (first
   | with_reducible exact Only.refl _ _
   | with_reducible assumption
   | (with_reducible apply Only.step (readWords_only _ _ _); decide)
   | with_reducible apply Only.ite
   | (with_reducible apply Only.step Only.set_readData; decide)
   | dsimp only)

theorem State.stageCtrlWrite_only (s : State) (v : Nat) : Only [.pages, .regs] s (State.stageCtrlWrite s v) := by
  unfold State.stageCtrlWrite
  try dsimp only
  repeat' (first
   | with_reducible exact Only.refl _ _
   | with_reducible assumption
   | (with_reducible apply Only.step (State.err_only _ _ _ _ _ _); decide)
   | (with_reducible apply Only.step (State.setReg_only _ _ _ _ _); decide)
   | with_reducible apply Only.ite
   | split
   | dsimp only)

theorem execStageCtrlWrite_only (value : Nat) (s : State) : OnlyOut [.pages, .regs] s (execStageCtrlWrite value s) := by
  unfold execStageCtrlWrite
  try dsimp only
  repeat' (first
   | with_reducible exact Only.refl _ _
   | with_reducible assumption
   | with_reducible apply OnlyOut.next
   | (with_reducible apply Only.step (State.stageCtrlWrite_only _ _); decide)
   | with_reducible apply Only.ite
   | with_reducible apply OnlyOut.ite
   | (with_reducible apply Only.host (by decide); intro y hy)
   | dsimp only)

theorem State.partCtrlWrite_only (s : State) (v : Nat) : Only [.pages, .regs] s (State.partCtrlWrite s v) := by
  unfold State.partCtrlWrite
  try dsimp only
  repeat' (first
   | with_reducible exact Only.refl _ _
   | with_reducible assumption
   | (with_reducible apply Only.step (State.err_only _ _ _ _ _ _); decide)
   | (with_reducible apply Only.step (State.setReg_only _ _ _ _ _); decide)
   | with_reducible apply Only.ite
   | split
   | dsimp only)

theorem execPartCtrlWrite_only (value : Nat) (s : State) : OnlyOut [.pages, .regs] s (execPartCtrlWrite value s) := by
  unfold execPartCtrlWrite
  try dsimp only
  repeat' (first
   | with_reducible exact Only.refl _ _
   | with_reducible assumption
   | with_reducible apply OnlyOut.next
   | (with_reducible apply Only.step (State.partCtrlWrite_only _ _); decide)
   | with_reducible apply Only.ite
   | with_reducible apply OnlyOut.ite
   | (with_reducible apply Only.host (by decide); intro y hy)
   | dsimp only)

theorem State.binCtrlWrite_only (s : State) (v : Nat) : Only [.pages, .regs] s (State.binCtrlWrite s v) := by
  unfold State.binCtrlWrite
  try dsimp only
  repeat' (first
   | with_reducible exact Only.refl _ _
   | with_reducible assumption
   | (with_reducible apply Only.step (State.err_only _ _ _ _ _ _); decide)
   | (with_reducible apply Only.step (State.setReg_only _ _ _ _ _); decide)
   | with_reducible apply Only.ite
   | split
   | dsimp only)

theorem execBinCtrlWrite_only (value : Nat) (s : State) : OnlyOut [.pages, .regs] s (execBinCtrlWrite value s) := by
  unfold execBinCtrlWrite
  try dsimp only
  repeat' (first
   | with_reducible exact Only.refl _ _
   | with_reducible assumption
   | with_reducible apply OnlyOut.next
   | (with_reducible apply Only.step (State.binCtrlWrite_only _ _); decide)
   | with_reducible apply Only.ite
   | with_reducible apply OnlyOut.ite
   | (with_reducible apply Only.host (by decide); intro y hy)
   | dsimp only)

theorem State.statClear_only (s : State) (b : Blk) (i v : Nat) : Only [.msix, .pages, .hostMem] s (State.statClear s b i v) := by
  unfold State.statClear
  try dsimp only
  repeat' (first
   | with_reducible exact Only.refl _ _
   | with_reducible assumption
   | (with_reducible apply Only.step (State.evalVector_only _ _); decide)
   | (with_reducible apply Only.step (State.putPage_only _ _ _ _); decide)
   | with_reducible apply Only.ite
   | dsimp only)

theorem State.irqEnWrite_only (s : State) (b : Blk) (i v : Nat) : Only [.msix, .pages, .hostMem] s (State.irqEnWrite s b i v) := by
  unfold State.irqEnWrite
  try dsimp only
  repeat' (first
   | with_reducible exact Only.refl _ _
   | with_reducible assumption
   | (with_reducible apply Only.step (State.evalVector_only _ _); decide)
   | (with_reducible apply Only.step (State.putPage_only _ _ _ _); decide)
   | with_reducible apply Only.ite
   | dsimp only)

theorem State.errClear_only (s : State) (b : Blk) (i : Nat) : Only [.pages] s (State.errClear s b i) := by
  unfold State.errClear
  try dsimp only
  repeat' (first
   | with_reducible exact Only.refl _ _
   | with_reducible assumption
   | (with_reducible apply Only.step (State.putPage_only _ _ _ _); decide)
   | with_reducible apply Only.ite
   | dsimp only)

theorem State.drainEnd_only (s : State) (b : Blk) (i : Nat) : Only [.pages] s (State.drainEnd s b i) := by
  unfold State.drainEnd
  try dsimp only
  repeat' (first
   | with_reducible exact Only.refl _ _
   | with_reducible assumption
   | (with_reducible apply Only.step (State.putPage_only _ _ _ _); decide)
   | with_reducible apply Only.ite
   | split
   | dsimp only)

theorem State.started_only (s : State) (b : Blk) : Only [.freeCount, .steps, .groups, .msix, .pages, .mem, .hostMem, .badWords, .ingest, .disp, .cairn, .softWords] s (State.started s b) := by
  unfold State.started
  try dsimp only
  repeat' (first
   | with_reducible exact Only.refl _ _
   | with_reducible assumption
   | (with_reducible apply Only.step (State.startDisplay_only _); decide)
   | with_reducible apply Only.ite
   | split
   | (with_reducible apply Only.step Only.set_ingest; decide)
   | dsimp only)

theorem State.setEnable_only (s : State) (b : Blk) (i : Nat) : Only [.freeCount, .devState, .steps, .groups, .engines, .msix, .pages, .mem, .hostMem, .badWords, .ingest, .disp, .pins, .cairn, .softWords] s (State.setEnable s b i) := by
  unfold State.setEnable
  try dsimp only
  repeat' (first
   | with_reducible exact Only.refl _ _
   | with_reducible assumption
   | (with_reducible apply Only.step (State.drainEnd_only _ _ _); decide)
   | (with_reducible apply Only.step (State.err_only _ _ _ _ _ _); decide)
   | (with_reducible apply Only.step (State.putPage_only _ _ _ _); decide)
   | (with_reducible apply Only.step (State.settleState_only _); decide)
   | (with_reducible apply Only.step (State.started_only _ _); decide)
   | (with_reducible apply Only.step (State.track_only _); decide)
   | with_reducible apply Only.ite
   | split
   | dsimp only)

theorem State.stopOutput_only (s : State) (i : Nat) : Only [.outs] s (State.stopOutput s i) := by
  unfold State.stopOutput
  try dsimp only
  repeat' (first
   | with_reducible exact Only.refl _ _
   | with_reducible assumption
   | (with_reducible apply Only.step (State.putOut_only _ _ _); decide)
   | with_reducible apply Only.ite
   | dsimp only)

theorem State.unsetEnable_only (s : State) (b : Blk) (i : Nat) : Only [.devState, .cmds, .steps, .groups, .colls, .engines, .flags, .rings, .waiting, .backlog, .msix, .pages, .regs, .mem, .hostMem, .badWords, .me, .raster, .disp, .outs, .traceGap, .log, .pins, .ctrs, .softWords, .traceFill, .traceAt] s (State.unsetEnable s b i) := by
  unfold State.unsetEnable
  try dsimp only
  repeat' (first
   | with_reducible exact Only.refl _ _
   | with_reducible assumption
   | (with_reducible apply Only.step (State.clearEnable_only _ _ _); decide)
   | (with_reducible apply Only.step (State.drainEnd_only _ _ _); decide)
   | (with_reducible apply Only.step (State.settleState_only _); decide)
   | (with_reducible apply Only.step (State.stopOutput_only _ _); decide)
   | (with_reducible apply Only.step (State.track_only _); decide)
   | with_reducible apply Only.ite
   | split
   | dsimp only)

theorem State.drainWrite_only (s : State) (b : Blk) (i : Nat) (v : Bool) : Only [.engines, .pages] s (State.drainWrite s b i v) := by
  unfold State.drainWrite
  try dsimp only
  repeat' (first
   | with_reducible exact Only.refl _ _
   | with_reducible assumption
   | (with_reducible apply Only.step (State.putPage_only _ _ _ _); decide)
   | (with_reducible apply Only.step (State.track_only _); decide)
   | with_reducible apply Only.ite
   | dsimp only)

theorem State.clearHeld_only (s : State) (b : Blk) (i : Nat) : Only [.engines, .saveBase, .msix, .dma, .pages, .hostMem, .ingest, .raster, .disp, .outs] s (State.clearHeld s b i) := by
  unfold State.clearHeld
  try dsimp only
  repeat' (first
   | with_reducible exact Only.refl _ _
   | with_reducible assumption
   | (with_reducible apply Only.step (State.irq_only _ _ _ _); decide)
   | (with_reducible apply Only.step (State.putEngine_only _ _ _); decide)
   | (with_reducible apply Only.step (State.putOut_only _ _ _); decide)
   | with_reducible apply Only.ite
   | split
   | (with_reducible apply Only.step Only.set_disp; decide)
   | (with_reducible apply Only.step Only.set_dma; decide)
   | (with_reducible apply Only.step Only.set_ingest; decide)
   | (with_reducible apply Only.step Only.set_raster; decide)
   | (with_reducible apply Only.step Only.set_saveBase; decide)
   | dsimp only)

theorem State.softReset_only (s : State) (b : Blk) (i : Nat) : Only [.freeCount, .devState, .steps, .groups, .engines, .saveBase, .msix, .dma, .pages, .regs, .latch, .mem, .hostMem, .badWords, .ingest, .raster, .disp, .outs, .pins, .cairn, .softWords] s (State.softReset s b i) := by
  unfold State.softReset
  try dsimp only
  repeat' (first
   | with_reducible exact Only.refl _ _
   | with_reducible assumption
   | (with_reducible apply Only.step (State.clearHeld_only _ _ _); decide)
   | (with_reducible apply Only.step (State.evalVector_only _ _); decide)
   | (with_reducible apply Only.step (State.putPage_only _ _ _ _); decide)
   | (with_reducible apply Only.step (State.settleState_only _); decide)
   | (with_reducible apply Only.step (State.started_only _ _); decide)
   | (with_reducible apply Only.step (State.track_only _); decide)
   | with_reducible apply Only.ite
   | split
   | (with_reducible apply Only.step Only.set_regs_latch; decide)
   | dsimp only)

theorem State.softResetWrite_only (s : State) (b : Blk) (i : Nat) : Only [.freeCount, .devState, .steps, .groups, .engines, .saveBase, .msix, .dma, .pages, .regs, .latch, .mem, .hostMem, .badWords, .ingest, .raster, .disp, .outs, .pins, .cairn, .softWords] s (State.softResetWrite s b i) := by
  unfold State.softResetWrite
  try dsimp only
  repeat' (first
   | with_reducible exact Only.refl _ _
   | with_reducible assumption
   | (with_reducible apply Only.step (State.drainEnd_only _ _ _); decide)
   | (with_reducible apply Only.step (State.err_only _ _ _ _ _ _); decide)
   | (with_reducible apply Only.step (State.softReset_only _ _ _); decide)
   | with_reducible apply Only.ite
   | split
   | dsimp only)

theorem State.enableWrite_only (s : State) (b : Blk) (i v : Nat) : Only (fieldsBut [.pending, .part, .now, .holdCauses, .cdLost, .mdLost, .nextUid, .fetches, .jobs, .windows, .apts, .aptSlots, .link, .stopped, .resetPending, .insole, .protEff, .readData, .bw, .pwr, .boot, .welt, .refresh, .snaps, .dbg, .lastFw, .sleeping, .issue, .timeFrac]) s (State.enableWrite s b i v) := by
  unfold State.enableWrite
  try dsimp only
  repeat' (first
   | with_reducible exact Only.refl _ _
   | with_reducible assumption
   | (with_reducible apply Only.step (State.drainWrite_only _ _ _ _); decide)
   | (with_reducible apply Only.step (State.putPage_only _ _ _ _); decide)
   | (with_reducible apply Only.step (State.setEnable_only _ _ _); decide)
   | (with_reducible apply Only.step (State.softResetWrite_only _ _ _); decide)
   | (with_reducible apply Only.step (State.unsetEnable_only _ _ _); decide)
   | with_reducible apply Only.ite
   | split
   | dsimp only)

theorem State.ctrlWrite_only (s : State) (b : Blk) (i v : Nat) : Only (fieldsBut [.pending, .part, .now, .holdCauses, .cdLost, .mdLost, .nextUid, .fetches, .jobs, .windows, .apts, .aptSlots, .link, .stopped, .resetPending, .insole, .protEff, .readData, .bw, .pwr, .boot, .welt, .refresh, .snaps, .dbg, .lastFw, .sleeping, .issue, .timeFrac]) s (State.ctrlWrite s b i v) := by
  unfold State.ctrlWrite
  try dsimp only
  repeat' (first
   | with_reducible exact Only.refl _ _
   | with_reducible assumption
   | (with_reducible apply Only.step (State.enableWrite_only _ _ _ _); decide)
   | (with_reducible apply Only.step (State.softResetWrite_only _ _ _); decide)
   | with_reducible apply Only.ite
   | split
   | dsimp only)

theorem State.headerWrite_only (s : State) (b : Blk) (i off v : Nat) : Only (fieldsBut [.pending, .part, .now, .holdCauses, .cdLost, .mdLost, .nextUid, .fetches, .jobs, .windows, .apts, .aptSlots, .link, .stopped, .resetPending, .insole, .protEff, .readData, .bw, .pwr, .boot, .welt, .refresh, .snaps, .dbg, .lastFw, .sleeping, .issue, .timeFrac]) s (State.headerWrite s b i off v) := by
  unfold State.headerWrite
  try dsimp only
  repeat' (first
   | with_reducible exact Only.refl _ _
   | with_reducible assumption
   | (with_reducible apply Only.step (State.ctrlWrite_only _ _ _ _); decide)
   | (with_reducible apply Only.step (State.errClear_only _ _ _); decide)
   | (with_reducible apply Only.step (State.irqEnWrite_only _ _ _ _); decide)
   | (with_reducible apply Only.step (State.statClear_only _ _ _ _); decide)
   | with_reducible apply Only.ite
   | split
   | dsimp only)

theorem State.countClear_only (s : State) (b : Blk) (i : Nat) : Only [.dma, .regs, .me, .pwr] s (State.countClear s b i) := by
  unfold State.countClear
  try dsimp only
  repeat' (first
   | with_reducible exact Only.refl _ _
   | with_reducible assumption
   | (with_reducible apply Only.step (State.putChannel_only _ _ _); decide)
   | (with_reducible apply Only.step (State.setReg_only _ _ _ _ _); decide)
   | with_reducible apply Only.ite
   | (with_reducible apply Only.foldl; intro y a hy)
   | split
   | (with_reducible apply Only.step Only.set_me; decide)
   | (with_reducible apply Only.step Only.set_pwr; decide)
   | dsimp only)

theorem State.jobLandWrite_only (s : State) (j v : Nat) : Only [.freeCount, .jobs] s (State.jobLandWrite s j v) := by
  unfold State.jobLandWrite
  try dsimp only
  repeat' (first
   | with_reducible exact Only.refl _ _
   | with_reducible assumption
   | (with_reducible apply Only.step (State.putJob_only _ _ _); decide)
   | with_reducible apply Only.ite
   | (with_reducible apply Only.mayTake (by decide); intro y hy)
   | split
   | dsimp only)

theorem State.jobAptWrite_only (s : State) (j v : Nat) : Only [.jobs] s (State.jobAptWrite s j v) := by
  unfold State.jobAptWrite
  try dsimp only
  repeat' (first
   | with_reducible exact Only.refl _ _
   | with_reducible assumption
   | (with_reducible apply Only.step (State.putJob_only _ _ _); decide)
   | with_reducible apply Only.ite
   | dsimp only)

theorem State.saveBaseWrite_only (s : State) (g v : Nat) : Only [.freeCount, .saveBase] s (State.saveBaseWrite s g v) := by
  unfold State.saveBaseWrite
  try dsimp only
  repeat' (first
   | with_reducible exact Only.refl _ _
   | with_reducible assumption
   | with_reducible apply Only.ite
   | (with_reducible apply Only.mayTake (by decide); intro y hy)
   | split
   | (with_reducible apply Only.step Only.set_saveBase; decide)
   | dsimp only)

theorem State.ctxSaveWrite_only (s : State) (g v : Nat) : Only [.freeCount, .cmds, .engines, .msix, .pages, .regs, .mem, .hostMem, .badWords, .ctrs, .softWords] s (State.ctxSaveWrite s g v) := by
  unfold State.ctxSaveWrite
  try dsimp only
  repeat' (first
   | with_reducible exact Only.refl _ _
   | with_reducible assumption
   | (with_reducible apply Only.step (State.ctxSave_only _ _ _); decide)
   | (with_reducible apply Only.step (State.setReg_only _ _ _ _ _); decide)
   | (with_reducible apply Only.step (State.track_only _); decide)
   | with_reducible apply Only.ite
   | split
   | dsimp only)

theorem State.mseClrWrite_only (s : State) (g v : Nat) : Only [.engines] s (State.mseClrWrite s g v) := by
  unfold State.mseClrWrite
  try dsimp only
  repeat' (first
   | with_reducible exact Only.refl _ _
   | with_reducible assumption
   | (with_reducible apply Only.step (State.mseClearAll_only _ _); decide)
   | (with_reducible apply Only.step (State.mseClearSel_only _ _); decide)
   | with_reducible apply Only.ite
   | split
   | dsimp only)

theorem State.dptxLinkWrite_only (s : State) (i v : Nat) : Only [.regs, .outs] s (State.dptxLinkWrite s i v) := by
  unfold State.dptxLinkWrite
  try dsimp only
  repeat' (first
   | with_reducible exact Only.refl _ _
   | with_reducible assumption
   | (with_reducible apply Only.step (State.retrain_only _ _); decide)
   | (with_reducible apply Only.step (State.setReg_only _ _ _ _ _); decide)
   | with_reducible apply Only.ite
   | split
   | dsimp only)

theorem State.cscWrite_only (s : State) (i v : Nat) : Only [.outs] s (State.cscWrite s i v) := by
  unfold State.cscWrite
  try dsimp only
  repeat' (first
   | with_reducible exact Only.refl _ _
   | with_reducible assumption
   | (with_reducible apply Only.step (State.putOut_only _ _ _); decide)
   | with_reducible apply Only.ite
   | split
   | dsimp only)

theorem State.hdcpWrite_only (s : State) (i v : Nat) : Only [.msix, .pages, .regs, .hostMem, .outs] s (State.hdcpWrite s i v) := by
  unfold State.hdcpWrite
  try dsimp only
  repeat' (first
   | with_reducible exact Only.refl _ _
   | with_reducible assumption
   | (with_reducible apply Only.step (State.reauth_only _ _); decide)
   | (with_reducible apply Only.step (State.setReg_only _ _ _ _ _); decide)
   | with_reducible apply Only.ite
   | split
   | dsimp only)

theorem State.auxCtrlWrite_only (s : State) (i v : Nat) : Only [.regs, .outs] s (State.auxCtrlWrite s i v) := by
  unfold State.auxCtrlWrite
  try dsimp only
  repeat' (first
   | with_reducible exact Only.refl _ _
   | with_reducible assumption
   | (with_reducible apply Only.step (State.auxStart_only _ _ _); decide)
   | (with_reducible apply Only.step (State.setReg_only _ _ _ _ _); decide)
   | with_reducible apply Only.ite
   | split
   | dsimp only)

theorem State.credWrite_only (s : State) (off v : Nat) : Only [.apts] s (State.credWrite s off v) := by
  unfold State.credWrite
  try dsimp only
  repeat' (first
   | with_reducible exact Only.refl _ _
   | with_reducible assumption
   | (with_reducible apply Only.step (State.putApt_only _ _ _); decide)
   | with_reducible apply Only.ite
   | split
   | dsimp only)

theorem State.ringBaseWrite_only (s : State) (off v : Nat) : Only [.rings] s (State.ringBaseWrite s off v) := by
  unfold State.ringBaseWrite
  try dsimp only
  repeat' (first
   | with_reducible exact Only.refl _ _
   | with_reducible assumption
   | (with_reducible apply Only.step (State.putRing_only _ _ _); decide)
   | with_reducible apply Only.ite
   | split
   | dsimp only)

theorem State.hifLinkWrite_only (s : State) (v : Nat) : Only [.holdCauses, .apts, .rings, .waiting, .backlog, .link, .msix, .regs, .hostMem] s (State.hifLinkWrite s v) := by
  unfold State.hifLinkWrite
  try dsimp only
  repeat' (first
   | with_reducible exact Only.refl _ _
   | with_reducible assumption
   | (with_reducible apply Only.step (State.linkResume_only _); decide)
   | (with_reducible apply Only.step (State.setReg_only _ _ _ _ _); decide)
   | with_reducible apply Only.ite
   | split
   | dsimp only)

theorem State.weltLinkWrite_only (s : State) (m v : Nat) : Only [.engines, .msix, .pages, .regs, .hostMem, .welt, .ctrs] s (State.weltLinkWrite s m v) := by
  unfold State.weltLinkWrite
  try dsimp only
  repeat' (first
   | with_reducible exact Only.refl _ _
   | with_reducible assumption
   | (with_reducible apply Only.step (State.putModule_only _ _ _); decide)
   | (with_reducible apply Only.step (State.weltRetrain_only _ _); decide)
   | with_reducible apply Only.ite
   | split
   | dsimp only)

theorem State.bcStatusWrite_only (s : State) (v : Nat) : Only [.regs] s (State.bcStatusWrite s v) := by
  unfold State.bcStatusWrite
  try dsimp only
  repeat' (first
   | with_reducible exact Only.refl _ _
   | with_reducible assumption
   | (with_reducible apply Only.step (State.setReg_only _ _ _ _ _); decide)
   | with_reducible apply Only.ite
   | split
   | dsimp only)

theorem State.windowPut_only (s : State) (k v : Nat) : Only [.boot] s (State.windowPut s k v) := by
  unfold State.windowPut
  try dsimp only
  repeat' (first
   | with_reducible exact Only.refl _ _
   | with_reducible assumption
   | with_reducible apply Only.ite
   | split
   | (with_reducible apply Only.step Only.set_boot; decide)
   | dsimp only)

theorem State.tempMaxWrite_only (s : State) (b : Blk) (i v : Nat) : Only [.regs] s (State.tempMaxWrite s b i v) := by
  unfold State.tempMaxWrite
  try dsimp only
  repeat' (first
   | with_reducible exact Only.refl _ _
   | with_reducible assumption
   | (with_reducible apply Only.step (State.setReg_only _ _ _ _ _); decide)
   | with_reducible apply Only.ite
   | split
   | dsimp only)

theorem State.spillBaseWrite_only (s : State) (off v : Nat) : Only [.pages, .regs] s (State.spillBaseWrite s off v) := by
  unfold State.spillBaseWrite
  try dsimp only
  repeat' (first
   | with_reducible exact Only.refl _ _
   | with_reducible assumption
   | (with_reducible apply Only.step (State.err_only _ _ _ _ _ _); decide)
   | (with_reducible apply Only.step (State.setReg_only _ _ _ _ _); decide)
   | with_reducible apply Only.ite
   | split
   | dsimp only)

theorem State.ingestRegWrite_only (s : State) (off v : Nat) : Only [.pages, .regs] s (State.ingestRegWrite s off v) := by
  unfold State.ingestRegWrite
  try dsimp only
  repeat' (first
   | with_reducible exact Only.refl _ _
   | with_reducible assumption
   | (with_reducible apply Only.step (State.err_only _ _ _ _ _ _); decide)
   | (with_reducible apply Only.step (State.setReg_only _ _ _ _ _); decide)
   | with_reducible apply Only.ite
   | split
   | dsimp only)

theorem State.storeReg_only (s : State) (b : Blk) (i off v : Nat) : Only [.regs] s (State.storeReg s b i off v) := by
  unfold State.storeReg
  try dsimp only
  repeat' (first
   | with_reducible exact Only.refl _ _
   | with_reducible assumption
   | (with_reducible apply Only.step (State.setReg_only _ _ _ _ _); decide)
   | with_reducible apply Only.ite
   | split
   | dsimp only)

theorem State.rangeWrite_only (s : State) (b : Blk) (off v : Nat) : ∀ y, State.rangeWrite s b off v = some y → Only [.msix, .hostMem, .boot] s y := by
  intro y hy
  unfold State.rangeWrite at hy
  try dsimp only at hy
  repeat' (first
   | (simp only [reduceCtorEq] at hy; done)
   | (obtain rfl := Option.some.inj hy)
   | split at hy
   | with_reducible exact Only.refl _ _
   | with_reducible assumption
   | (with_reducible apply Only.step (State.msixWrite_only _ _ _); decide)
   | (with_reducible apply Only.step (State.windowPut_only _ _ _); decide)
   | with_reducible apply Only.ite
   | split
   | dsimp only)

theorem State.ownWrite_only (s : State) (b : Blk) (i off rw v : Nat) : ∀ y, State.ownWrite s b i off rw v = some y → Only (fieldsBut [.pending, .part, .now, .nextUid, .protEff, .bw, .timeFrac]) s y := by
  intro y hy
  unfold State.ownWrite at hy
  try dsimp only at hy
  repeat' (first
   | (simp only [reduceCtorEq] at hy; done)
   | (obtain rfl := Option.some.inj hy)
   | split at hy
   | with_reducible exact Only.refl _ _
   | with_reducible assumption
   | (with_reducible apply Only.step (State.aptConsumedWrite_only _ _ _); decide)
   | (with_reducible apply Only.step (State.aptCtrlWrite_only _ _ _); decide)
   | (with_reducible apply Only.step (State.auditCtrlWrite_only _ _); decide)
   | (with_reducible apply Only.step (State.auxCtrlWrite_only _ _ _); decide)
   | (with_reducible apply Only.step (State.bcStatusWrite_only _ _); decide)
   | (with_reducible apply Only.step (State.binCtrlWrite_only _ _); decide)
   | (with_reducible apply Only.step (State.bufCtrlWrite_only _ _); decide)
   | (with_reducible apply Only.step (State.cairnRegWrite_only _ _ _ _); decide)
   | (with_reducible apply Only.step (State.cfgCommit_only _); decide)
   | (with_reducible apply Only.step (State.channelCtrl_only _ _ _); decide)
   | (with_reducible apply Only.step (State.cntCfgWrite_only _ _ _); decide)
   | (with_reducible apply Only.step (State.cntClrWrite_only _ _ _); decide)
   | (with_reducible apply Only.step (State.countClear_only _ _ _); decide)
   | (with_reducible apply Only.step (State.credWrite_only _ _ _); decide)
   | (with_reducible apply Only.step (State.cscWrite_only _ _ _); decide)
   | (with_reducible apply Only.step (State.ctxSaveWrite_only _ _ _); decide)
   | (with_reducible apply Only.step (State.dbgCtrlWrite_only _ _); decide)
   | (with_reducible apply Only.step (State.devResetWrite_only _ _); decide)
   | (with_reducible apply Only.step (State.disagreeWrite_only _ _); decide)
   | (with_reducible apply Only.step (State.dptxLinkWrite_only _ _ _); decide)
   | (with_reducible apply Only.step (State.flagGenWrite_only _ _); decide)
   | (with_reducible apply Only.step (State.growPageAdd_only _ _); decide)
   | (with_reducible apply Only.step (State.hdcpWrite_only _ _ _); decide)
   | (with_reducible apply Only.step (State.hifLinkWrite_only _ _); decide)
   | (with_reducible apply Only.step (State.hintProdWrite_only _ _); decide)
   | (with_reducible apply Only.step (State.ingestRegWrite_only _ _ _); decide)
   | (with_reducible apply Only.step (State.jobAptWrite_only _ _ _); decide)
   | (with_reducible apply Only.step (State.jobCfgWrite_only _ _ _); decide)
   | (with_reducible apply Only.step (State.jobLandWrite_only _ _ _); decide)
   | (with_reducible apply Only.step (State.mseClrWrite_only _ _ _); decide)
   | (with_reducible apply Only.step (State.partCtrlWrite_only _ _); decide)
   | (with_reducible apply Only.step (State.retireWrite_only _ _); decide)
   | (with_reducible apply Only.step (State.ringBaseWrite_only _ _ _); decide)
   | (with_reducible apply Only.step (State.ringConsWrite_only _ _ _); decide)
   | (with_reducible apply Only.step (State.ringCtrlWrite_only _ _ _); decide)
   | (with_reducible apply Only.step (State.ringProdWrite_only _ _ _); decide)
   | (with_reducible apply Only.step (State.saveBaseWrite_only _ _ _); decide)
   | (with_reducible apply Only.step (State.setReg_only _ _ _ _ _); decide)
   | (with_reducible apply Only.step (State.shareOrderWrite_only _ _); decide)
   | (with_reducible apply Only.step (State.sleepCtrlWrite_only _ _); decide)
   | (with_reducible apply Only.step (State.snapCtrlWrite_only _ _ _); decide)
   | (with_reducible apply Only.step (State.spillBaseWrite_only _ _ _); decide)
   | (with_reducible apply Only.step (State.stageCtrlWrite_only _ _); decide)
   | (with_reducible apply Only.step (State.stateCtrlWrite_only _ _); decide)
   | (with_reducible apply Only.step (State.tempMaxWrite_only _ _ _ _); decide)
   | (with_reducible apply Only.step (State.traceBaseWrite_only _ _ _ _); decide)
   | (with_reducible apply Only.step (State.traceCtrlWrite_only _ _); decide)
   | (with_reducible apply Only.step (State.track_only _); decide)
   | (with_reducible apply Only.step (State.updCmdWrite_only _ _ _); decide)
   | (with_reducible apply Only.step (State.weltLinkWrite_only _ _ _); decide)
   | (with_reducible apply Only.step (State.windowWrite_only _ _ _ _); decide)
   | with_reducible apply Only.ite
   | split
   | (with_reducible apply Only.step Only.set_pwr; decide)
   | dsimp only)

theorem State.writeReg_only (s : State) (b : Blk) (i off v : Nat) : Only (fieldsBut [.pending, .part, .now, .nextUid, .protEff, .bw, .timeFrac]) s (State.writeReg s b i off v) := by
  unfold State.writeReg
  split
  · exact Only.step (State.headerWrite_only _ _ _ _ _) (by decide) (Only.refl _ _)
  · split
    · exact Only.refl _ _
    · extract_lets rw soft t
      have ht : Only (fieldsBut [.pending, .part, .now, .nextUid, .protEff, .bw, .timeFrac]) s t := by
        unfold t
        split
        · exact Only.step (State.touch_only _ _ _) (by decide) (Only.refl _ _)
        · exact Only.refl _ _
      clear_value t
      split
      · rename_i u hu
        exact Only.step (State.rangeWrite_only _ _ _ _ u hu) (by decide) ht
      · cases h : t.ownWrite b i off rw v with
        | none => exact Only.step (State.storeReg_only _ _ _ _ _) (by decide) ht
        | some u => exact Only.step (State.ownWrite_only _ _ _ _ _ _ u h) (by decide) ht

theorem State.writeWord_only (s : State) (off v : Nat) : Only (fieldsBut [.pending, .part, .now, .nextUid, .protEff, .bw, .timeFrac]) s (State.writeWord s off v) := by
  unfold State.writeWord
  try dsimp only
  repeat' (first
   | with_reducible exact Only.refl _ _
   | with_reducible assumption
   | (with_reducible apply Only.step (State.writeReg_only _ _ _ _ _); decide)
   | with_reducible apply Only.ite
   | split
   | dsimp only)

theorem State.writeBar0_only (s : State) (off size v : Nat) : Only (fieldsBut [.pending, .part, .now, .nextUid, .protEff, .bw, .timeFrac]) s (State.writeBar0 s off size v) := by
  unfold State.writeBar0
  try dsimp only
  repeat' (first
   | with_reducible exact Only.refl _ _
   | with_reducible assumption
   | (with_reducible apply Only.step (State.writeWord_only _ _ _); decide)
   | with_reducible apply Only.ite
   | split
   | dsimp only)

theorem execRegisterWrite_only (off size value : Nat) (s : State) : OnlyOut (fieldsBut [.pending, .part, .now, .nextUid, .protEff, .bw, .timeFrac]) s (execRegisterWrite off size value s) := by
  unfold execRegisterWrite
  try dsimp only
  repeat' (first
   | with_reducible exact Only.refl _ _
   | with_reducible assumption
   | with_reducible apply OnlyOut.next
   | (with_reducible apply Only.step (State.writeBar0_only _ _ _ _); decide)
   | with_reducible apply Only.ite
   | with_reducible apply OnlyOut.ite
   | split
   | dsimp only)

theorem execLoReadLatch_only (off size : Nat) (s : State) : OnlyOut [.latch, .readData] s (execLoReadLatch off size s) := by
  unfold execLoReadLatch
  try dsimp only
  repeat' (first
   | with_reducible exact Only.refl _ _
   | with_reducible assumption
   | with_reducible apply OnlyOut.next
   | (with_reducible apply Only.step (State.readBar0_only _ _ _); decide)
   | with_reducible apply Only.ite
   | with_reducible apply OnlyOut.ite
   | split
   | dsimp only)

theorem execIrqStatClear_only (b : Blk) (i mask : Nat) (s : State) : OnlyOut [.msix, .pages, .hostMem] s (execIrqStatClear b i mask s) := by
  unfold execIrqStatClear
  try dsimp only
  repeat' (first
   | with_reducible exact Only.refl _ _
   | with_reducible assumption
   | with_reducible apply OnlyOut.next
   | (with_reducible apply Only.step (State.statClear_only _ _ _ _); decide)
   | with_reducible apply Only.ite
   | with_reducible apply OnlyOut.ite
   | (with_reducible apply Only.hostWo; intro y hy)
   | dsimp only)

theorem execErrValidClear_only (b : Blk) (i : Nat) (s : State) : OnlyOut [.pages] s (execErrValidClear b i s) := by
  unfold execErrValidClear
  try dsimp only
  repeat' (first
   | with_reducible exact Only.refl _ _
   | with_reducible assumption
   | with_reducible apply OnlyOut.next
   | (with_reducible apply Only.step (State.errClear_only _ _ _); decide)
   | with_reducible apply Only.ite
   | with_reducible apply OnlyOut.ite
   | (with_reducible apply Only.hostWo; intro y hy)
   | dsimp only)

theorem execBlockEnableSet_only (b : Blk) (i : Nat) (s : State) : OnlyOut (fieldsBut [.pending, .part, .now, .holdCauses, .cdLost, .mdLost, .nextUid, .fetches, .jobs, .windows, .apts, .aptSlots, .link, .stopped, .resetPending, .insole, .protEff, .readData, .bw, .pwr, .boot, .welt, .refresh, .snaps, .dbg, .lastFw, .sleeping, .issue, .timeFrac]) s (execBlockEnableSet b i s) := by
  unfold execBlockEnableSet
  try dsimp only
  repeat' (first
   | with_reducible exact Only.refl _ _
   | with_reducible assumption
   | with_reducible apply OnlyOut.next
   | (with_reducible apply Only.step (State.ctrlWrite_only _ _ _ _); decide)
   | with_reducible apply Only.ite
   | with_reducible apply OnlyOut.ite
   | (with_reducible apply Only.hostWo; intro y hy)
   | dsimp only)

theorem execBlockEnableClear_only (b : Blk) (i : Nat) (s : State) : OnlyOut (fieldsBut [.pending, .part, .now, .holdCauses, .cdLost, .mdLost, .nextUid, .fetches, .jobs, .windows, .apts, .aptSlots, .link, .stopped, .resetPending, .insole, .protEff, .readData, .bw, .pwr, .boot, .welt, .refresh, .snaps, .dbg, .lastFw, .sleeping, .issue, .timeFrac]) s (execBlockEnableClear b i s) := by
  unfold execBlockEnableClear
  try dsimp only
  repeat' (first
   | with_reducible exact Only.refl _ _
   | with_reducible assumption
   | with_reducible apply OnlyOut.next
   | (with_reducible apply Only.step (State.ctrlWrite_only _ _ _ _); decide)
   | with_reducible apply Only.ite
   | with_reducible apply OnlyOut.ite
   | (with_reducible apply Only.hostWo; intro y hy)
   | dsimp only)

theorem execBlockDrainSet_only (b : Blk) (i : Nat) (s : State) : OnlyOut (fieldsBut [.pending, .part, .now, .holdCauses, .cdLost, .mdLost, .nextUid, .fetches, .jobs, .windows, .apts, .aptSlots, .link, .stopped, .resetPending, .insole, .protEff, .readData, .bw, .pwr, .boot, .welt, .refresh, .snaps, .dbg, .lastFw, .sleeping, .issue, .timeFrac]) s (execBlockDrainSet b i s) := by
  unfold execBlockDrainSet
  try dsimp only
  repeat' (first
   | with_reducible exact Only.refl _ _
   | with_reducible assumption
   | with_reducible apply OnlyOut.next
   | (with_reducible apply Only.step (State.ctrlWrite_only _ _ _ _); decide)
   | with_reducible apply Only.ite
   | with_reducible apply OnlyOut.ite
   | (with_reducible apply Only.hostWo; intro y hy)
   | dsimp only)

theorem execBlockDrainEnd_only (b : Blk) (i : Nat) (s : State) : OnlyOut [.engines, .pages] s (execBlockDrainEnd b i s) := by
  unfold execBlockDrainEnd
  try dsimp only
  repeat' (first
   | with_reducible exact Only.refl _ _
   | with_reducible assumption
   | with_reducible apply OnlyOut.next
   | (with_reducible apply Only.step (State.drainEnd_only _ _ _); decide)
   | (with_reducible apply Only.step (State.track_only _); decide)
   | with_reducible apply Only.ite
   | with_reducible apply OnlyOut.ite
   | split
   | dsimp only)

theorem execSoftReset_only (b : Blk) (i : Nat) (s : State) : OnlyOut (fieldsBut [.pending, .part, .now, .holdCauses, .cdLost, .mdLost, .nextUid, .fetches, .jobs, .windows, .apts, .aptSlots, .link, .stopped, .resetPending, .insole, .protEff, .readData, .bw, .pwr, .boot, .welt, .refresh, .snaps, .dbg, .lastFw, .sleeping, .issue, .timeFrac]) s (execSoftReset b i s) := by
  unfold execSoftReset
  try dsimp only
  repeat' (first
   | with_reducible exact Only.refl _ _
   | with_reducible assumption
   | with_reducible apply OnlyOut.next
   | (with_reducible apply Only.step (State.ctrlWrite_only _ _ _ _); decide)
   | with_reducible apply Only.ite
   | with_reducible apply OnlyOut.ite
   | (with_reducible apply Only.hostWo; intro y hy)
   | dsimp only)

theorem execCountClr_only (b : Blk) (i : Nat) (s : State) : OnlyOut [.dma, .regs, .me, .pwr] s (execCountClr b i s) := by
  unfold execCountClr
  try dsimp only
  repeat' (first
   | with_reducible exact Only.refl _ _
   | with_reducible assumption
   | with_reducible apply OnlyOut.next
   | (with_reducible apply Only.step (State.countClear_only _ _ _); decide)
   | with_reducible apply Only.ite
   | with_reducible apply OnlyOut.ite
   | (with_reducible apply Only.hostWo; intro y hy)
   | dsimp only)

theorem execPreemptMaxClr_only (s : State) : OnlyOut [.regs] s (execPreemptMaxClr s) := by
  unfold execPreemptMaxClr
  try dsimp only
  repeat' (first
   | with_reducible exact Only.refl _ _
   | with_reducible assumption
   | with_reducible apply OnlyOut.next
   | (with_reducible apply Only.step (State.setReg_only _ _ _ _ _); decide)
   | with_reducible apply Only.ite
   | with_reducible apply OnlyOut.ite
   | (with_reducible apply Only.hostWo; intro y hy)
   | dsimp only)

theorem execDieTempMaxClr_only (die : Nat) (s : State) : OnlyOut [.regs] s (execDieTempMaxClr die s) := by
  unfold execDieTempMaxClr
  try dsimp only
  repeat' (first
   | with_reducible exact Only.refl _ _
   | with_reducible assumption
   | with_reducible apply OnlyOut.next
   | (with_reducible apply Only.step (State.tempMaxWrite_only _ _ _ _); decide)
   | with_reducible apply Only.ite
   | with_reducible apply OnlyOut.ite
   | (with_reducible apply Only.hostWo; intro y hy)
   | split
   | dsimp only)

theorem execBlockDrainClear_only (b : Blk) (i : Nat) (s : State) : OnlyOut (fieldsBut [.pending, .part, .now, .holdCauses, .cdLost, .mdLost, .nextUid, .fetches, .jobs, .windows, .apts, .aptSlots, .link, .stopped, .resetPending, .insole, .protEff, .readData, .bw, .pwr, .boot, .welt, .refresh, .snaps, .dbg, .lastFw, .sleeping, .issue, .timeFrac]) s (execBlockDrainClear b i s) := by
  unfold execBlockDrainClear
  try dsimp only
  repeat' (first
   | with_reducible exact Only.refl _ _
   | with_reducible assumption
   | with_reducible apply OnlyOut.next
   | (with_reducible apply Only.step (State.ctrlWrite_only _ _ _ _); decide)
   | with_reducible apply Only.ite
   | with_reducible apply OnlyOut.ite
   | (with_reducible apply Only.hostWo; intro y hy)
   | dsimp only)

theorem State.shiftOut_only (s : State) (ir : Nat) (bs : List Byte) : Only [.dbg] s (State.shiftOut s ir bs) := by
  unfold State.shiftOut
  try dsimp only
  repeat' (first
   | with_reducible exact Only.refl _ _
   | with_reducible assumption
   | with_reducible apply Only.ite
   | (with_reducible apply Only.step Only.set_dbg; decide)
   | dsimp only)

theorem State.bypass_only (s : State) : Only [.dbg] s (State.bypass s) := by
  unfold State.bypass
  try dsimp only
  repeat' (first
   | with_reducible exact Only.refl _ _
   | with_reducible assumption
   | (with_reducible apply Only.step (State.shiftOut_only _ _ _); decide)
   | with_reducible apply Only.ite
   | dsimp only)

theorem Only.jtag {gs : List StateField} {s x : State} {f : State → State}
    (hf : ∀ y, Only gs s y → Only gs s (f y)) (hx : Only gs s x) : Only gs s (x.jtag f) := by
  unfold State.jtag
  split
  · exact hf _ hx
  · exact hx

theorem execJtagBypass_only (s : State) : OnlyOut [.dbg] s (execJtagBypass s) := by
  unfold execJtagBypass
  try dsimp only
  repeat' (first
   | with_reducible exact Only.refl _ _
   | with_reducible assumption
   | with_reducible apply OnlyOut.next
   | (with_reducible apply Only.step (State.bypass_only _); decide)
   | with_reducible apply Only.ite
   | with_reducible apply OnlyOut.ite
   | (with_reducible apply Only.jtag; intro y hy)
   | dsimp only)

theorem execJtagIdcode_only (s : State) : OnlyOut [.dbg] s (execJtagIdcode s) := by
  unfold execJtagIdcode
  try dsimp only
  repeat' (first
   | with_reducible exact Only.refl _ _
   | with_reducible assumption
   | with_reducible apply OnlyOut.next
   | (with_reducible apply Only.step (State.shiftOut_only _ _ _); decide)
   | with_reducible apply Only.ite
   | with_reducible apply OnlyOut.ite
   | (with_reducible apply Only.jtag; intro y hy)
   | dsimp only)

theorem State.sampleScan_only (s : State) (ir : Nat) (data : List Byte) : Only [.freeCount, .pins, .dbg] s (State.sampleScan s ir data) := by
  unfold State.sampleScan
  try dsimp only
  repeat' (first
   | with_reducible exact Only.refl _ _
   | with_reducible assumption
   | (with_reducible apply Only.step (State.free_only _); decide)
   | (with_reducible apply Only.step (State.shiftOut_only _ _ _); decide)
   | with_reducible apply Only.ite
   | (with_reducible apply Only.step Only.set_pins; decide)
   | dsimp only)

theorem execJtagSamplePreload_only (data : List Byte) (s : State) : OnlyOut [.freeCount, .pins, .dbg] s (execJtagSamplePreload data s) := by
  unfold execJtagSamplePreload
  try dsimp only
  repeat' (first
   | with_reducible exact Only.refl _ _
   | with_reducible assumption
   | with_reducible apply OnlyOut.next
   | (with_reducible apply Only.step (State.sampleScan_only _ _ _); decide)
   | with_reducible apply Only.ite
   | with_reducible apply OnlyOut.ite
   | (with_reducible apply Only.jtag; intro y hy)
   | dsimp only)

theorem execJtagExtest_only (data : List Byte) (s : State) : OnlyOut [.freeCount, .pins, .dbg] s (execJtagExtest data s) := by
  unfold execJtagExtest
  try dsimp only
  repeat' (first
   | with_reducible exact Only.refl _ _
   | with_reducible assumption
   | with_reducible apply OnlyOut.next
   | (with_reducible apply Only.step (State.bypass_only _); decide)
   | (with_reducible apply Only.step (State.sampleScan_only _ _ _); decide)
   | with_reducible apply Only.ite
   | with_reducible apply OnlyOut.ite
   | (with_reducible apply Only.jtag; intro y hy)
   | split
   | dsimp only)

theorem execDbgChallenge_only (s : State) : OnlyOut [.freeCount, .dbg] s (execDbgChallenge s) := by
  unfold execDbgChallenge
  try dsimp only
  repeat' (first
   | with_reducible exact Only.refl _ _
   | with_reducible assumption
   | with_reducible apply OnlyOut.next
   | (with_reducible apply Only.step (State.free_only _); decide)
   | (with_reducible apply Only.step (State.shiftOut_only _ _ _); decide)
   | with_reducible apply Only.ite
   | with_reducible apply OnlyOut.ite
   | (with_reducible apply Only.jtag; intro y hy)
   | (with_reducible apply Only.step Only.set_dbg; decide)
   | dsimp only)

theorem State.dropHdcp_only (s : State) : Only [.msix, .pages, .hostMem, .outs] s (State.dropHdcp s) := by
  unfold State.dropHdcp
  try dsimp only
  repeat' (first
   | with_reducible exact Only.refl _ _
   | with_reducible assumption
   | (with_reducible apply Only.step (State.guardOut_only _ _); decide)
   | (with_reducible apply Only.step (State.putOut_only _ _ _); decide)
   | with_reducible apply Only.ite
   | (with_reducible apply Only.foldl; intro y a hy)
   | split
   | dsimp only)

theorem State.openDebug_only (s : State) (scope : Nat) : Only [.msix, .pages, .regs, .hostMem, .ingest, .outs, .dbg] s (State.openDebug s scope) := by
  unfold State.openDebug
  try dsimp only
  repeat' (first
   | with_reducible exact Only.refl _ _
   | with_reducible assumption
   | (with_reducible apply Only.step (State.bump_only _ _ _ _ _); decide)
   | (with_reducible apply Only.step (State.dropHdcp_only _); decide)
   | (with_reducible apply Only.step (State.irq_only _ _ _ _); decide)
   | with_reducible apply Only.ite
   | (with_reducible apply Only.step Only.set_ingest_dbg; decide)
   | dsimp only)

theorem State.takeToken_only (s : State) (token : List Byte) : Only [.msix, .pages, .regs, .hostMem, .ingest, .outs, .dbg] s (State.takeToken s token) := by
  unfold State.takeToken
  try dsimp only
  repeat' (first
   | with_reducible exact Only.refl _ _
   | with_reducible assumption
   | (with_reducible apply Only.step (State.openDebug_only _ _); decide)
   | (with_reducible apply Only.step (State.shiftOut_only _ _ _); decide)
   | with_reducible apply Only.ite
   | split
   | (with_reducible apply Only.step Only.set_dbg; decide)
   | dsimp only)

theorem execDbgToken_only (token : List Byte) (s : State) : OnlyOut [.msix, .pages, .regs, .hostMem, .ingest, .outs, .dbg] s (execDbgToken token s) := by
  unfold execDbgToken
  try dsimp only
  repeat' (first
   | with_reducible exact Only.refl _ _
   | with_reducible assumption
   | with_reducible apply OnlyOut.next
   | (with_reducible apply Only.step (State.bypass_only _); decide)
   | (with_reducible apply Only.step (State.takeToken_only _ _); decide)
   | with_reducible apply Only.ite
   | with_reducible apply OnlyOut.ite
   | (with_reducible apply Only.jtag; intro y hy)
   | split
   | dsimp only)

theorem execDbgClose_only (s : State) : OnlyOut [.msix, .pages, .hostMem, .dbg] s (execDbgClose s) := by
  unfold execDbgClose
  try dsimp only
  repeat' (first
   | with_reducible exact Only.refl _ _
   | with_reducible assumption
   | with_reducible apply OnlyOut.next
   | (with_reducible apply Only.step (State.bypass_only _); decide)
   | (with_reducible apply Only.step (State.dbgClose_only _); decide)
   | (with_reducible apply Only.step (State.shiftOut_only _ _ _); decide)
   | with_reducible apply Only.ite
   | with_reducible apply OnlyOut.ite
   | (with_reducible apply Only.jtag; intro y hy)
   | split
   | dsimp only)

theorem State.readAt_only (s : State) (a : Nat) (place : Option Target) : Only [.freeCount, .msix, .pages, .regs, .mem, .hostMem, .badWords, .log, .ctrs, .dbg, .softWords] s (State.readAt s a place) := by
  unfold State.readAt
  try dsimp only
  repeat' (first
   | with_reducible exact Only.refl _ _
   | with_reducible assumption
   | (with_reducible apply Only.step (State.correctReads_only _ _ _ _); decide)
   | (with_reducible apply Only.step (State.free_only _); decide)
   | (with_reducible apply Only.step (State.shiftOut_only _ _ _); decide)
   | with_reducible apply Only.ite
   | split
   | dsimp only)

theorem State.debugRead_only (s : State) (a : Nat) : Only [.freeCount, .msix, .pages, .regs, .mem, .hostMem, .badWords, .log, .ctrs, .dbg, .softWords] s (State.debugRead s a) := by
  unfold State.debugRead
  try dsimp only
  repeat' (first
   | with_reducible exact Only.refl _ _
   | with_reducible assumption
   | (with_reducible apply Only.step (State.readAt_only _ _ _); decide)
   | with_reducible apply Only.ite
   | dsimp only)

theorem State.writeAt_only (s : State) (a v : Nat) (place : Option Target) : Only [.mem, .badWords, .dbg, .softWords] s (State.writeAt s a v place) := by
  unfold State.writeAt
  try dsimp only
  repeat' (first
   | with_reducible exact Only.refl _ _
   | with_reducible assumption
   | (with_reducible apply Only.step (State.devPut_only _ _ _); decide)
   | (with_reducible apply Only.step (State.shiftOut_only _ _ _); decide)
   | with_reducible apply Only.ite
   | split
   | dsimp only)

theorem State.debugWrite_only (s : State) (a v : Nat) : Only [.mem, .badWords, .dbg, .softWords] s (State.debugWrite s a v) := by
  unfold State.debugWrite
  try dsimp only
  repeat' (first
   | with_reducible exact Only.refl _ _
   | with_reducible assumption
   | (with_reducible apply Only.step (State.writeAt_only _ _ _ _); decide)
   | with_reducible apply Only.ite
   | dsimp only)

theorem execDbgMem_only (device : Bool) (addr : Nat) (value : Option Nat) (s : State) : OnlyOut (fieldsBut [.pending, .part, .now, .nextUid, .protEff, .bw, .timeFrac]) s (execDbgMem device addr value s) := by
  unfold execDbgMem
  try dsimp only
  repeat' (first
   | with_reducible exact Only.refl _ _
   | with_reducible assumption
   | with_reducible apply OnlyOut.next
   | (with_reducible apply Only.step (State.bypass_only _); decide)
   | (with_reducible apply Only.step (State.debugRead_only _ _); decide)
   | (with_reducible apply Only.step (State.debugWrite_only _ _ _); decide)
   | (with_reducible apply Only.step (State.readWord_only _ _); decide)
   | (with_reducible apply Only.step (State.shiftOut_only _ _ _); decide)
   | (with_reducible apply Only.step (State.writeBar0_only _ _ _ _); decide)
   | with_reducible apply Only.ite
   | with_reducible apply OnlyOut.ite
   | split
   | dsimp only)

theorem State.coreOp_only (s : State) (core : Nat) (op : CoreOp) : Only [.freeCount, .outs, .dbg] s (State.coreOp s core op) := by
  unfold State.coreOp
  try dsimp only
  repeat' (first
   | with_reducible exact Only.refl _ _
   | with_reducible assumption
   | (with_reducible apply Only.step (State.free_only _); decide)
   | (with_reducible apply Only.step (State.nackAux_only _); decide)
   | (with_reducible apply Only.step (State.shiftOut_only _ _ _); decide)
   | with_reducible apply Only.ite
   | split
   | (with_reducible apply Only.step Only.set_dbg; decide)
   | dsimp only)

theorem execDbgCore_only (core : Nat) (op : CoreOp) (s : State) : OnlyOut [.freeCount, .outs, .dbg] s (execDbgCore core op s) := by
  unfold execDbgCore
  try dsimp only
  repeat' (first
   | with_reducible exact Only.refl _ _
   | with_reducible assumption
   | with_reducible apply OnlyOut.next
   | (with_reducible apply Only.step (State.bypass_only _); decide)
   | (with_reducible apply Only.step (State.coreOp_only _ _ _); decide)
   | (with_reducible apply Only.step (State.shiftOut_only _ _ _); decide)
   | with_reducible apply Only.ite
   | with_reducible apply OnlyOut.ite
   | (with_reducible apply Only.jtag; intro y hy)
   | split
   | dsimp only)

theorem execBwBlockWrite_only (code value : Nat) (pecOk : Bool) (s : State) : OnlyOut [.bw] s (execBwBlockWrite code value pecOk s) := by
  unfold execBwBlockWrite
  try dsimp only
  repeat' (first
   | with_reducible exact Only.refl _ _
   | with_reducible assumption
   | with_reducible apply OnlyOut.next
   | with_reducible apply Only.ite
   | with_reducible apply OnlyOut.ite
   | split
   | (with_reducible apply Only.step Only.set_bw; decide)
   | dsimp only)

theorem execBwStatusRead_only (code gpio : Nat) (s : State) : OnlyOut [.now, .readData, .pins] s (execBwStatusRead code gpio s) := by
  unfold execBwStatusRead
  try dsimp only
  repeat' (first
   | with_reducible exact Only.refl _ _
   | with_reducible assumption
   | with_reducible apply OnlyOut.next
   | (with_reducible apply Only.step (State.filtered_only _ _ _); decide)
   | with_reducible apply Only.ite
   | with_reducible apply OnlyOut.ite
   | split
   | (with_reducible apply Only.step Only.set_pins; decide)
   | (with_reducible apply Only.step Only.set_readData_pins; decide)
   | dsimp only)

theorem State.tick_only (s : State) : Only (fieldsBut [.pending, .part, .nextUid, .protEff, .bw]) s (State.tick s) := by
  unfold State.tick
  try dsimp only
  repeat' (first
   | with_reducible exact Only.refl _ _
   | with_reducible assumption
   | (with_reducible apply Only.step (State.enterBasecamp_only _); decide)
   | (with_reducible apply Only.step (State.updFinish_only _); decide)
   | with_reducible apply Only.ite
   | split
   | (with_reducible apply Only.step Only.set_now; decide)
   | (with_reducible apply Only.step Only.set_now_timeFrac; decide)
   | dsimp only)

end Sys2Proof.Machine
end

