-- ==== Sys2Proof/Laws/Mem.lean ====
section
/-!
SUPPORT. The memory operations keep the canonical form, and a read after a write gives what was written.
-/

-- One proof at a time: the proofs of this file are many, and run together they take many threads at once.
set_option Elab.async false

namespace Sys2Proof.Machine

theorem Memory.wfFrom_mono {d : Byte} {lo lo' : Nat} {m : Memory} (h : lo' ≤ lo)
    (w : m.wfFrom d lo = true) : m.wfFrom d lo' = true := by
  cases m with
  | nil => rfl
  | cons c rest =>
    simp only [wfFrom, Bool.and_eq_true, decide_eq_true_eq] at w ⊢
    exact ⟨⟨le_trans h w.1.1, w.1.2⟩, w.2⟩

theorem Memory.wfFrom_dropWhile {d : Byte} {m : Memory} {lo x : Nat} (w : m.wfFrom d lo = true) :
    Memory.wfFrom d (max lo x) (m.dropWhile fun c => c.1 < x) = true := by
  induction m generalizing lo with
  | nil => rfl
  | cons c rest ih =>
    have hw := w
    simp only [wfFrom, Bool.and_eq_true, decide_eq_true_eq] at w
    by_cases hc : c.1 < x
    · simp only [List.dropWhile, hc, decide_true]
      refine Memory.wfFrom_mono ?_ (ih w.2)
      omega
    · simp only [List.dropWhile, hc, decide_false, wfFrom, Bool.and_eq_true, decide_eq_true_eq]
      exact ⟨⟨by omega, w.1.2⟩, w.2⟩

theorem Memory.wfFrom_takeWhile_append {d : Byte} {m t : Memory} {lo x : Nat}
    (w : m.wfFrom d lo = true) (ht : t.wfFrom d (max lo x) = true) :
    Memory.wfFrom d lo ((m.takeWhile fun c => c.1 < x) ++ t) = true := by
  induction m generalizing lo with
  | nil => exact Memory.wfFrom_mono (by omega) ht
  | cons c rest ih =>
    simp only [wfFrom, Bool.and_eq_true, decide_eq_true_eq] at w
    by_cases hc : c.1 < x
    · simp only [List.takeWhile, hc, decide_true, List.cons_append, wfFrom, Bool.and_eq_true,
        decide_eq_true_eq]
      exact ⟨w.1, ih w.2 (Memory.wfFrom_mono (by omega) ht)⟩
    · simp only [List.takeWhile, hc, decide_false, List.nil_append]
      exact Memory.wfFrom_mono (by omega) ht

theorem cellsOf_append_wf {d : Byte} {bs : List Byte} {t : Memory} {a : Nat}
    (ht : t.wfFrom d (a + bs.length) = true) : Memory.wfFrom d a (cellsOf d a bs ++ t) = true := by
  induction bs generalizing a with
  | nil => simpa [cellsOf] using ht
  | cons b bs ih =>
    have h := ih (a := a + 1) (by simpa [Nat.add_assoc, Nat.add_comm 1] using ht)
    by_cases hb : b == d
    · simp only [cellsOf, hb, if_true]
      exact Memory.wfFrom_mono (by omega) h
    · have hb' : b ≠ d := by simpa using hb
      simp only [cellsOf, hb, List.cons_append, Bool.false_eq_true, if_false]
      unfold Memory.wfFrom
      simp [hb', h]

/-- A write keeps the canonical form. -/
theorem Memory.writeRun_wf {d : Byte} {m : Memory} (a : Nat) (bs : List Byte) (w : m.wf d = true) :
    (m.writeRun d a bs).wf d = true := by
  unfold Memory.wf at w ⊢
  rw [Memory.writeRun, List.append_assoc]
  refine Memory.wfFrom_takeWhile_append w (Memory.wfFrom_mono (lo := a) (by omega) ?_)
  exact cellsOf_append_wf (Memory.wfFrom_mono (by omega)
    (Memory.wfFrom_dropWhile (x := a + bs.length) w))

/-- A write of one byte keeps the canonical form. -/
theorem Memory.write_wf {d : Byte} {m : Memory} (a : Nat) (b : Byte) (w : m.wf d = true) :
    (m.write d a b).wf d = true := Memory.writeRun_wf a [b] w

/-- Clearing a run keeps the canonical form. -/
theorem Memory.clearRun_wf {d : Byte} {m : Memory} (a n : Nat) (w : m.wf d = true) :
    (m.clearRun a n).wf d = true := by
  unfold Memory.wf at w ⊢
  rw [Memory.clearRun]
  refine Memory.wfFrom_takeWhile_append w (Memory.wfFrom_mono ?_
    (Memory.wfFrom_dropWhile (x := a + n) w))
  omega

theorem movedCells_append_wf {d : Byte} {m t : Memory} {src dst n lo : Nat}
    (w : m.wfFrom d (max lo src) = true) (ht : t.wfFrom d (dst + n) = true) :
    Memory.wfFrom d (dst + (max lo src - src)) (((m.takeWhile fun c => c.1 < src + n).map
      fun c => (c.1 - src + dst, c.2)) ++ t) = true ∨ src + n < max lo src := by
  induction m generalizing lo with
  | nil =>
    by_cases h : src + n < max lo src
    · exact .inr h
    · exact .inl (Memory.wfFrom_mono (lo := dst + n) (by omega) (by simpa using ht))
  | cons c rest ih =>
    simp only [Memory.wfFrom, Bool.and_eq_true, decide_eq_true_eq] at w
    by_cases h : src + n < max lo src
    · exact .inr h
    refine .inl ?_
    by_cases hc : c.1 < src + n
    · simp only [List.takeWhile, hc, decide_true, List.map_cons, List.cons_append, Memory.wfFrom,
        Bool.and_eq_true, decide_eq_true_eq]
      refine ⟨⟨by omega, w.1.2⟩, ?_⟩
      have h2 := ih (lo := c.1 + 1) (Memory.wfFrom_mono (by omega) w.2)
      rcases h2 with h2 | h2
      · exact Memory.wfFrom_mono (by omega) h2
      · omega
    · simp only [List.takeWhile, hc, decide_false, List.map_nil, List.nil_append]
      exact Memory.wfFrom_mono (by omega) ht

/-- Copying a run keeps the canonical form. -/
theorem Memory.copyRun_wf {d : Byte} {m : Memory} (src dst n : Nat) (w : m.wf d = true) :
    (m.copyRun src dst n).wf d = true := by
  unfold Memory.wf at w ⊢
  rw [Memory.copyRun, List.append_assoc]
  have h1 := Memory.wfFrom_dropWhile (x := src) w
  have h2 : Memory.wfFrom d (dst + n) (m.dropWhile fun c => c.1 < dst + n) = true :=
    Memory.wfFrom_mono (by omega) (Memory.wfFrom_dropWhile (x := dst + n) w)
  rcases movedCells_append_wf (lo := 0) (src := src) (n := n) (dst := dst) h1 h2 with h | h
  · exact Memory.wfFrom_takeWhile_append w (Memory.wfFrom_mono (by omega) h)
  · omega

theorem Memory.read_of_lt {d : Byte} {m : Memory} {lo x : Nat} (w : m.wfFrom d lo = true)
    (h : x < lo) : m.read d x = d := by
  induction m generalizing lo with
  | nil => rfl
  | cons c rest ih =>
    simp only [wfFrom, Bool.and_eq_true, decide_eq_true_eq] at w
    have hne : (c.1 == x) = false := by simp only [beq_eq_false_iff_ne]; omega
    rw [show c :: rest = (c.1, c.2) :: rest from rfl, Memory.read, hne]
    exact ih w.2 (by omega)

theorem Memory.read_takeWhile_append {d : Byte} {m t : Memory} {lo a x : Nat}
    (w : m.wfFrom d lo = true) (hx : x < a) (ht : t.read d x = d) :
    Memory.read d ((m.takeWhile fun c => c.1 < a) ++ t) x = m.read d x := by
  induction m generalizing lo with
  | nil => simpa [Memory.read] using ht
  | cons c rest ih =>
    simp only [wfFrom, Bool.and_eq_true, decide_eq_true_eq] at w
    by_cases hc : c.1 < a
    · simp only [List.takeWhile, hc, decide_true, List.cons_append, Memory.read]
      rw [ih w.2]
    · simp only [List.takeWhile, hc, decide_false, List.nil_append]
      rw [ht]
      exact (Memory.read_of_lt (lo := c.1) (x := x) (by
        simp only [wfFrom, Bool.and_eq_true, decide_eq_true_eq]; exact ⟨⟨le_refl _, w.1.2⟩, w.2⟩)
        (by omega)).symm

theorem Memory.read_dropWhile {d : Byte} {m : Memory} {a x : Nat} (hx : a ≤ x) :
    Memory.read d (m.dropWhile fun c => c.1 < a) x = m.read d x := by
  induction m with
  | nil => rfl
  | cons c rest ih =>
    by_cases hc : c.1 < a
    · simp only [List.dropWhile, hc, decide_true]
      rw [ih]
      have hne : (c.1 == x) = false := by simp only [beq_eq_false_iff_ne]; omega
      rw [show c :: rest = (c.1, c.2) :: rest from rfl, Memory.read, hne]
      rfl
    · simp only [List.dropWhile, hc, decide_false]

theorem Memory.read_takeWhile_skip {d : Byte} {m t : Memory} {a x : Nat} (hx : a ≤ x) :
    Memory.read d ((m.takeWhile fun c => c.1 < a) ++ t) x = t.read d x := by
  induction m with
  | nil => rfl
  | cons c rest ih =>
    by_cases hc : c.1 < a
    · simp only [List.takeWhile, hc, decide_true, List.cons_append, Memory.read]
      have hne : (c.1 == x) = false := by simp only [beq_eq_false_iff_ne]; omega
      rw [hne]; exact ih
    · simp only [List.takeWhile, hc, decide_false, List.nil_append]

theorem Memory.read_cellsOf_append {d : Byte} {bs : List Byte} {t : Memory} {a x : Nat} :
    Memory.read d (cellsOf d a bs ++ t) x =
      if a ≤ x ∧ x < a + bs.length ∧ bs.getD (x - a) d ≠ d then bs.getD (x - a) d
      else t.read d x := by
  induction bs generalizing a with
  | nil => simp [cellsOf]
  | cons b bs ih =>
    by_cases hb : b == d
    · have hb' : b = d := by simpa using hb
      simp only [cellsOf, hb, if_true, ih]
      rcases Nat.lt_trichotomy x a with h | h | h
      · simp [show ¬ a ≤ x by omega, show ¬ a + 1 ≤ x by omega]
      · subst h; simp [hb']
      · have e : x - a = (x - (a + 1)) + 1 := by omega
        simp only [e, List.getD_cons_succ, List.length_cons]
        simp only [show a + 1 ≤ x by omega, show a ≤ x by omega, true_and,
          show (x < a + 1 + bs.length) = (x < a + (bs.length + 1)) by
            rw [Nat.add_assoc, Nat.add_comm 1]]
    · have hb' : b ≠ d := by simpa using hb
      simp only [cellsOf, hb, List.cons_append, Memory.read, Bool.false_eq_true, if_false]
      rcases Nat.lt_trichotomy x a with h | h | h
      · have hne : (a == x) = false := by simp only [beq_eq_false_iff_ne]; omega
        rw [hne]; simp only [Bool.false_eq_true, if_false, ih]
        simp [show ¬ a ≤ x by omega, show ¬ a + 1 ≤ x by omega]
      · subst h; simp [hb']
      · have hne : (a == x) = false := by simp only [beq_eq_false_iff_ne]; omega
        rw [hne]; simp only [Bool.false_eq_true, if_false, ih]
        have e : x - a = (x - (a + 1)) + 1 := by omega
        simp only [e, List.getD_cons_succ, List.length_cons]
        simp only [show a + 1 ≤ x by omega, show a ≤ x by omega, true_and,
          show (x < a + 1 + bs.length) = (x < a + (bs.length + 1)) by
            rw [Nat.add_assoc, Nat.add_comm 1]]

/-- A write gives its bytes to the addresses it covers and leaves every other address alone. -/
theorem Memory.read_writeRun {d : Byte} {m : Memory} (a : Nat) (bs : List Byte) (x : Nat)
    (w : m.wf d = true) :
    (m.writeRun d a bs).read d x =
      if a ≤ x ∧ x < a + bs.length then bs.getD (x - a) d else m.read d x := by
  rw [Memory.writeRun, List.append_assoc]
  by_cases hx : x < a
  · rw [if_neg (by omega), Memory.read_takeWhile_append w hx]
    rw [Memory.read_cellsOf_append, if_neg (by omega)]
    exact Memory.read_of_lt (Memory.wfFrom_dropWhile (x := a + bs.length) w) (by omega)
  · rw [Memory.read_takeWhile_skip (by omega), Memory.read_cellsOf_append]
    by_cases hin : x < a + bs.length
    · rw [if_pos (show a ≤ x ∧ x < a + bs.length from ⟨by omega, hin⟩)]
      split
      · rfl
      · rename_i hn
        have : bs.getD (x - a) d = d := by
          by_contra hne; exact hn ⟨by omega, hin, hne⟩
        rw [this]
        exact Memory.read_of_lt (Memory.wfFrom_dropWhile (x := a + bs.length) w) (by omega)
    · rw [if_neg (by omega), if_neg (by omega), Memory.read_dropWhile (by omega)]

theorem Memory.wfFrom_tail {d : Byte} {lo : Nat} {c : Host.Cell} {m : Memory} (w : Memory.wfFrom d lo (c :: m) = true) :
    Memory.wfFrom d (c.1 + 1) m = true := by
  obtain ⟨a, b⟩ := c
  simp only [Memory.wfFrom, Bool.and_eq_true] at w
  exact w.2

/-- A run of bytes is the bytes one by one. -/
theorem Memory.runFrom_eq_map {d : Byte} (n : Nat) : ∀ (m : Memory) (a : Nat), Memory.wfFrom d a m = true →
    Memory.runFrom d m a n = (List.range n).map fun i => Memory.read d m (a + i) := by
  induction n with
  | zero => intro m a _; cases m <;> rfl
  | succ n ih =>
    intro m a w
    rw [List.range_succ_eq_map, List.map_cons, List.map_map]
    cases m with
    | nil => 
      simp only [Memory.runFrom, Memory.read, Function.comp_def]
      rw [List.replicate_succ]
      congr 1
      simp
    | cons c m =>
      obtain ⟨x, b⟩ := c
      have wt := Memory.wfFrom_tail w
      have hx : a ≤ x := by simp [Memory.wfFrom] at w; exact w.1.1
      by_cases e : x = a
      · subst e
        simp only [Memory.runFrom, beq_self_eq_true, if_true, Memory.read, Nat.add_zero]
        rw [ih m (x + 1) wt]
        congr 1
        apply List.map_congr_left
        intro i _
        show _ = (if (x == x + (i + 1)) = true then b else _)
        rw [if_neg (by simp), show x + (i + 1) = x + 1 + i by omega]
      · have e2 : (x == a) = false := by simpa using e
        have w2 : Memory.wfFrom d (a + 1) ((x, b) :: m) = true := by
          simp only [Memory.wfFrom, Bool.and_eq_true, decide_eq_true_eq] at w ⊢
          exact ⟨⟨by omega, w.1.2⟩, w.2⟩
        simp only [Memory.runFrom, e2, Bool.false_eq_true, if_false, Nat.add_zero]
        rw [ih _ (a + 1) w2, Memory.read_of_lt w2 (by omega)]
        congr 1
        apply List.map_congr_left
        intro i _
        show _ = Memory.read d _ (a + (i + 1))
        rw [show a + (i + 1) = a + 1 + i by omega]

theorem Memory.readRun_eq_map {d : Byte} {m : Memory} (a n : Nat) (w : m.wf d = true) :
    m.readRun d a n = (List.range n).map fun i => m.read d (a + i) := by
  unfold Memory.readRun
  rw [Memory.runFrom_eq_map n _ a (Memory.wfFrom_dropWhile w)]
  apply List.map_congr_left
  intro i _
  exact Memory.read_dropWhile (by omega)

/-- What was written reads back. -/
theorem Memory.readRun_writeRun_same {d : Byte} {m : Memory} (a : Nat) (bs : List Byte) (w : m.wf d = true) :
    (m.writeRun d a bs).readRun d a bs.length = bs := by
  rw [Memory.readRun_eq_map a _ (Memory.writeRun_wf a bs w)]
  apply List.ext_getElem
  · simp
  · intro i h1 h2
    simp only [List.getElem_map, List.getElem_range]
    rw [Memory.read_writeRun a bs _ w, if_pos (by omega), Nat.add_sub_cancel_left, List.getD_eq_getElem _ _ h2]

/-- A run of bytes outside what was written is as before. -/
theorem Memory.readRun_writeRun_other {d : Byte} {m : Memory} (a x n : Nat) (bs : List Byte) (w : m.wf d = true)
    (h : x + n ≤ a ∨ a + bs.length ≤ x) : (m.writeRun d a bs).readRun d x n = m.readRun d x n := by
  rw [Memory.readRun_eq_map x n (Memory.writeRun_wf a bs w), Memory.readRun_eq_map x n w]
  apply List.map_congr_left
  intro i hi
  rw [Memory.read_writeRun a bs _ w, if_neg (by simp at hi; omega)]
/-- Clearing a run makes it read as the default, and nothing else changes. -/
theorem Memory.read_clearRun {d : Byte} {m : Memory} (a n x : Nat) (w : m.wf d = true) :
    (m.clearRun a n).read d x = if a ≤ x ∧ x < a + n then d else m.read d x := by
  unfold Memory.wf at w
  have h2 := Memory.wfFrom_dropWhile (x := a + n) w
  rw [Memory.clearRun]
  by_cases h : x < a
  · rw [Memory.read_takeWhile_append w h (Memory.read_of_lt h2 (by omega)), if_neg (by omega)]
  · rw [Memory.read_takeWhile_skip (by omega)]
    by_cases hx : x < a + n
    · rw [Memory.read_of_lt h2 (by omega), if_pos (by omega)]
    · rw [Memory.read_dropWhile (by omega), if_neg (by omega)]

theorem Memory.read_moved {d : Byte} {m t : Memory} {src dst n lo x : Nat} (w : m.wfFrom d lo = true) (hs : src ≤ lo)
    (h1 : dst ≤ x) (h2 : x < dst + n) (ht : t.read d x = d) :
    Memory.read d (((m.takeWhile fun c => c.1 < src + n).map fun c => (c.1 - src + dst, c.2)) ++ t) x =
      m.read d (x - dst + src) := by
  induction m generalizing lo with
  | nil => exact ht
  | cons c rest ih =>
    have hw := w
    simp only [wfFrom, Bool.and_eq_true, decide_eq_true_eq] at w
    by_cases hc : c.1 < src + n
    · simp only [List.takeWhile, hc, decide_true, List.map_cons, List.cons_append]
      rw [show c :: rest = (c.1, c.2) :: rest from rfl, Memory.read, Memory.read]
      by_cases hx : c.1 - src + dst = x
      · rw [if_pos (by simpa using hx), if_pos (by simp; omega)]
      · rw [if_neg (by simpa using hx), if_neg (by simp; omega)]
        exact ih w.2 (by omega)
    · simp only [List.takeWhile, hc, decide_false, List.map_nil, List.nil_append]
      rw [ht, show c :: rest = (c.1, c.2) :: rest from rfl, Memory.read, if_neg (by simp; omega)]
      exact (Memory.read_of_lt w.2 (by omega)).symm

theorem Memory.read_moved_skip {d : Byte} {m t : Memory} {src dst n x : Nat} (h : dst + n ≤ x) (hm : ∀ c ∈ m, src ≤ c.1) :
    Memory.read d (((m.takeWhile fun c => c.1 < src + n).map fun c => (c.1 - src + dst, c.2)) ++ t) x = t.read d x := by
  induction m with
  | nil => rfl
  | cons c rest ih =>
    by_cases hc : c.1 < src + n
    · simp only [List.takeWhile, hc, decide_true, List.map_cons, List.cons_append]
      have := hm c (by simp)
      rw [Memory.read, if_neg (by simp; omega)]
      exact ih fun e he => hm e (by simp [he])
    · simp only [List.takeWhile, hc, decide_false, List.map_nil, List.nil_append]

theorem Memory.wfFrom_ge {d : Byte} {m : Memory} {lo : Nat} (w : m.wfFrom d lo = true) : ∀ c ∈ m, lo ≤ c.1 := by
  induction m generalizing lo with
  | nil => simp
  | cons c rest ih =>
    simp only [wfFrom, Bool.and_eq_true, decide_eq_true_eq] at w
    intro e he
    rcases List.mem_cons.mp he with rfl | he
    · exact w.1.1
    · have := ih w.2 e he; omega

/-- A copied run reads as its source did, and nothing else changes. -/
theorem Memory.read_copyRun {d : Byte} {m : Memory} (src dst n x : Nat) (w : m.wf d = true) :
    (m.copyRun src dst n).read d x = if dst ≤ x ∧ x < dst + n then m.read d (x - dst + src) else m.read d x := by
  have wc := Memory.copyRun_wf src dst n w
  unfold Memory.wf at w
  have h1 := Memory.wfFrom_dropWhile (x := src) w
  have h2 := Memory.wfFrom_dropWhile (x := dst + n) w
  rw [Memory.copyRun, List.append_assoc]
  by_cases h : x < dst
  · rw [if_neg (by omega)]
    refine Memory.read_takeWhile_append w h ?_
    rcases movedCells_append_wf (lo := 0) (src := src) (n := n) (dst := dst) h1 (Memory.wfFrom_mono (by omega) h2) with h3 | h3
    · exact Memory.read_of_lt h3 (by omega)
    · omega
  · rw [Memory.read_takeWhile_skip (by omega)]
    by_cases hx : x < dst + n
    · rw [if_pos (by omega), Memory.read_moved h1 (by omega) (by omega) hx (Memory.read_of_lt h2 (by omega)),
        Memory.read_dropWhile (by omega)]
    · rw [if_neg (by omega), Memory.read_moved_skip (by omega) (fun c hc => by have := Memory.wfFrom_ge h1 c hc; omega),
        Memory.read_dropWhile (by omega)]

/-- The bytes of a copied run are those of its source. -/
theorem Memory.readRun_copyRun {d : Byte} {m : Memory} (src dst n : Nat) (w : m.wf d = true) :
    (m.copyRun src dst n).readRun d dst n = m.readRun d src n := by
  rw [Memory.readRun_eq_map _ _ (Memory.copyRun_wf src dst n w), Memory.readRun_eq_map _ _ w]
  apply List.map_congr_left
  intro i hi
  rw [Memory.read_copyRun _ _ _ _ w, if_pos (by simp at hi; omega)]
  congr 1; omega

theorem SMap.find?_set_same {α : Type} (m : SMap α) (x : Nat) (v : α) :
    (m.set x v).find? x = some v := by
  induction m with
  | nil => simp [SMap.set, SMap.find?]
  | cons p rest ih =>
    obtain ⟨k, u⟩ := p
    unfold SMap.set
    split
    · simp [SMap.find?]
    · split
      · simp [SMap.find?]
      · rename_i h1 h2
        simp only [beq_iff_eq] at h2
        have : (k == x) = false := by simp only [beq_eq_false_iff_ne]; omega
        simp only [SMap.find?, this, Bool.false_eq_true, if_false]
        exact ih

theorem SMap.find?_set_other {α : Type} (m : SMap α) (x y : Nat) (v : α) (h : y ≠ x) :
    (m.set x v).find? y = m.find? y := by
  induction m with
  | nil => simp [SMap.set, SMap.find?, Ne.symm h]
  | cons p rest ih =>
    obtain ⟨k, u⟩ := p
    have hxy : (x == y) = false := by simp only [beq_eq_false_iff_ne]; exact Ne.symm h
    unfold SMap.set
    split
    · simp [SMap.find?, hxy]
    · split
      · rename_i h1 h2
        simp only [beq_iff_eq] at h2
        subst h2
        simp [SMap.find?, hxy]
      · simp only [SMap.find?, ih]

/-- A map holds at a key what was last set there. -/
@[simp] theorem SMap.get_set_same {α : Type} (m : SMap α) (x : Nat) (v d : α) :
    (m.set x v).get x d = v := by simp [SMap.get, SMap.find?_set_same]

/-- Setting one key leaves every other. -/
theorem SMap.get_set_other {α : Type} (m : SMap α) (x y : Nat) (v d : α) (h : y ≠ x) :
    (m.set x v).get y d = m.get y d := by simp [SMap.get, SMap.find?_set_other m x y v h]

end Sys2Proof.Machine
end

