-- ==== Sys2Proof/Laws/Canonical.lean ====
section
/-!
SUPPORT. The canonical form of every memory: an operation that changes no memory keeps it, and how it passes through the shapes of the model.
-/

-- One proof at a time: the proofs of this file are many, and run together they take many threads at once.
set_option Elab.async false

namespace Sys2Proof.Machine

theorem MemOk.of_only {fs : List StateField} {s t : State} (h : Only fs s t)
    (hm : ((fieldMask fs).testBit StateField.mem.idx || (fieldMask fs).testBit StateField.hostMem.idx ||
      (fieldMask fs).testBit StateField.boot.idx) = false) (hs : MemOk s) : MemOk t := by
  simp only [Bool.or_eq_false_iff] at hm
  have h1 := h .mem hm.1.1
  have h2 := h .hostMem hm.1.2
  have h3 := h .boot hm.2
  simp only [StateField.same] at h1 h2 h3
  unfold MemOk
  rw [h1, h2, h3]
  exact hs

theorem MemOkOut.next {t : State} (h : MemOk t) : MemOkOut (.next t) := h

theorem MemOkOut.of_only {fs : List StateField} {s : State} {o : Out} (h : OnlyOut fs s o)
    (hm : ((fieldMask fs).testBit StateField.mem.idx || (fieldMask fs).testBit StateField.hostMem.idx ||
      (fieldMask fs).testBit StateField.boot.idx) = false) (hs : MemOk s) : MemOkOut o := by
  cases o with
  | next t => exact MemOk.of_only h hm hs
  | fault _ => exact trivial
  | refused _ => exact trivial

theorem MemOk.ite {x y : State} {c : Prop} [Decidable c] (hx : MemOk x) (hy : MemOk y) : MemOk (if c then x else y) := by
  split <;> assumption

theorem MemOkOut.ite {x y : Out} {c : Prop} [Decidable c] (hx : MemOkOut x) (hy : MemOkOut y) :
    MemOkOut (if c then x else y) := by
  split <;> assumption

theorem MemOk.foldl {α : Type} {g : State → α → State} {l : List α} {x : State}
    (hg : ∀ y a, MemOk y → MemOk (g y a)) (hx : MemOk x) : MemOk (l.foldl g x) := by
  induction l generalizing x with
  | nil => exact hx
  | cons a l ih => exact ih (hg x a hx)

theorem MemOk.foldl_fst {α β : Type} {g : State × β → α → State × β} {l : List α} {x : State × β}
    (hg : ∀ y a r, g y a = r → MemOk y.1 → MemOk r.1) (hx : MemOk x.1) : MemOk (l.foldl g x).1 := by
  induction l generalizing x with
  | nil => exact hx
  | cons a l ih => exact ih (hg x a _ rfl hx)

theorem MemOk.elim {α : Type} {x : State} {o : Option α} {f : α → State} (hx : MemOk x)
    (hf : ∀ a, MemOk (f a)) : MemOk (o.elim x f) := by
  cases o with
  | none => exact hx
  | some a => exact hf a

theorem MemOk.getD {d : State} {o : Option State} (ho : ∀ y, o = some y → MemOk y) (hd : MemOk d) : MemOk (o.getD d) := by
  cases o with
  | none => exact hd
  | some y => exact ho y rfl

theorem MemOk.set_boot {x : State} {v0} (hn : Boot.nor v0 = x.boot.nor) (hf : Boot.flash v0 = x.boot.flash)
    (h : MemOk x) : MemOk { x with boot := v0 } :=
  ⟨h.1, h.2.1, hn ▸ h.2.2.1, hf ▸ h.2.2.2⟩

theorem MemOk.set_devState_pins_boot {x : State} {v0 v1 v2} (hn : Boot.nor v2 = x.boot.nor) (hf : Boot.flash v2 = x.boot.flash)
    (h : MemOk x) : MemOk { x with devState := v0, pins := v1, boot := v2 } :=
  ⟨h.1, h.2.1, hn ▸ h.2.2.1, hf ▸ h.2.2.2⟩

theorem MemOk.set_part_boot {x : State} {v0 v1} (hn : Boot.nor v1 = x.boot.nor) (hf : Boot.flash v1 = x.boot.flash)
    (h : MemOk x) : MemOk { x with part := v0, boot := v1 } :=
  ⟨h.1, h.2.1, hn ▸ h.2.2.1, hf ▸ h.2.2.2⟩

theorem MemOk.set_pins_boot {x : State} {v0 v1} (hn : Boot.nor v1 = x.boot.nor) (hf : Boot.flash v1 = x.boot.flash)
    (h : MemOk x) : MemOk { x with pins := v0, boot := v1 } :=
  ⟨h.1, h.2.1, hn ▸ h.2.2.1, hf ▸ h.2.2.2⟩

theorem MemOk.set_pwr_boot_dbg {x : State} {v0 v1 v2} (hn : Boot.nor v1 = x.boot.nor) (hf : Boot.flash v1 = x.boot.flash)
    (h : MemOk x) : MemOk { x with pwr := v0, boot := v1, dbg := v2 } :=
  ⟨h.1, h.2.1, hn ▸ h.2.2.1, hf ▸ h.2.2.2⟩

theorem MemOk.host {x : State} {b : Blk} {i : Nat} {f : State → State} (hf : ∀ y, MemOk y → MemOk (f y)) (hx : MemOk x) :
    MemOk (x.host b i f) := by
  unfold State.host
  split
  · exact hf _ (MemOk.of_only (State.touch_only x b i) (by decide) hx)
  · exact hx

theorem MemOk.hostWo {x : State} {b : Blk} {i : Nat} {f : State → State} (hf : ∀ y, MemOk y → MemOk (f y)) (hx : MemOk x) :
    MemOk (x.hostWo b i f) := by
  unfold State.hostWo
  split
  · exact hf _ hx
  · exact hx

theorem MemOk.jtag {x : State} {f : State → State} (hf : ∀ y, MemOk y → MemOk (f y)) (hx : MemOk x) : MemOk (x.jtag f) := by
  unfold State.jtag
  split
  · exact hf _ hx
  · exact hx

theorem MemOk.runAll {α : Type} {f : State → α → State × Bool} {xs : List α} {x : State × Bool}
    (hf : ∀ y a r, f y a = r → MemOk y → MemOk r.1) (hx : MemOk x.1) : MemOk (Machine.runAll f xs x).1 := by
  unfold Machine.runAll
  refine MemOk.foldl_fst ?_ hx
  intro y a r hr hy
  subst hr
  show MemOk (f y.1 a).1
  exact hf _ _ _ rfl hy

end Sys2Proof.Machine
end

