-- ==== Sys2Proof/Laws/CanonicalCommand.lean ====
section
/-!
SUPPORT. Each operation keeps the canonical form of every memory: the shared operations, the flags, the scheduler and the command path.
-/

-- One proof at a time: the proofs of this file are many, and run together they take many threads at once.
set_option Elab.async false

set_option linter.unusedTactic false
set_option linter.unreachableTactic false

namespace Sys2Proof.Machine

theorem State.hostPut_memOk (s : State) (a : Nat) (bs : List Byte) (h : MemOk s) : MemOk (State.hostPut s a bs) :=
  ⟨h.1, Memory.writeRun_wf _ _ h.2.1, h.2.2⟩

theorem State.sendMessage_memOk (s : State) (v : Nat) (hok : MemOk s) : MemOk (State.sendMessage s v) := by
  unfold State.sendMessage
  try dsimp only
  repeat' (first
   | with_reducible assumption
   | with_reducible apply State.hostPut_memOk
   | with_reducible apply MemOk.ite
   | (with_reducible apply MemOk.of_only Only.set_msix (by decide))
   | dsimp only)

theorem State.signal_memOk (s : State) (v : Nat) (hok : MemOk s) : MemOk (State.signal s v) := by
  unfold State.signal
  try dsimp only
  repeat' (first
   | with_reducible assumption
   | with_reducible apply State.sendMessage_memOk
   | with_reducible apply MemOk.ite
   | split
   | (with_reducible apply MemOk.of_only Only.set_msix (by decide))
   | dsimp only)

theorem State.evalVector_memOk (s : State) (v : Nat) (hok : MemOk s) : MemOk (State.evalVector s v) := by
  unfold State.evalVector
  try dsimp only
  repeat' (first
   | with_reducible assumption
   | with_reducible apply State.signal_memOk
   | with_reducible apply MemOk.ite
   | split
   | (with_reducible apply MemOk.of_only Only.set_msix (by decide))
   | dsimp only)

theorem State.irq_memOk (s : State) (b : Blk) (i : Nat) (mask : Word) (hok : MemOk s) : MemOk (State.irq s b i mask) := by
  unfold State.irq
  try dsimp only
  repeat' (first
   | with_reducible assumption
   | with_reducible apply State.evalVector_memOk
   | (with_reducible apply MemOk.of_only (State.putPage_only _ _ _ _) (by decide))
   | with_reducible apply MemOk.ite
   | dsimp only)

theorem State.devPut_memOk (s : State) (a : Nat) (bs : List Byte) (h : MemOk s) : MemOk (State.devPut s a bs) :=
  ⟨Memory.writeRun_wf _ _ h.1, h.2⟩

theorem State.devClear_memOk (s : State) (a n : Nat) (h : MemOk s) : MemOk (State.devClear s a n) :=
  ⟨Memory.clearRun_wf _ _ h.1, h.2⟩

theorem State.setDevState_memOk (s : State) (d : Nat) (hok : MemOk s) : MemOk (State.setDevState s d) := by
  unfold State.setDevState
  try dsimp only
  repeat' (first
   | with_reducible assumption
   | with_reducible apply State.irq_memOk
   | with_reducible apply MemOk.ite
   | split
   | (with_reducible apply MemOk.of_only Only.set_devState_pins (by decide))
   | dsimp only)

theorem State.settleState_memOk (s : State) (hok : MemOk s) : MemOk (State.settleState s) := by
  unfold State.settleState
  try dsimp only
  repeat' (first
   | with_reducible assumption
   | with_reducible apply State.setDevState_memOk
   | with_reducible apply MemOk.ite
   | split
   | dsimp only)

theorem State.saturate_memOk (s : State) (die key : Nat) (hok : MemOk s) : MemOk (State.saturate s die key) := by
  unfold State.saturate
  try dsimp only
  repeat' (first
   | with_reducible assumption
   | with_reducible apply State.irq_memOk
   | (with_reducible apply MemOk.of_only (State.putCtr_only _ _ _) (by decide))
   | with_reducible apply MemOk.ite
   | dsimp only)

theorem State.pulse_memOk (s : State) (b : Blk) (i event n : Nat) (job : Option Nat) (hok : MemOk s) : MemOk (State.pulse s b i event n job) := by
  unfold State.pulse
  try dsimp only
  repeat' (first
   | with_reducible assumption
   | (with_reducible apply MemOk.of_only (State.putCtr_only _ _ _) (by decide))
   | with_reducible apply State.saturate_memOk
   | with_reducible apply MemOk.ite
   | (with_reducible apply MemOk.foldl; intro y a hy)
   | split
   | dsimp only)

theorem State.edge_memOk (s : State) (b : Blk) (i event : Nat) (before : Bool) (job : Option Nat) (hok : MemOk s) : MemOk (State.edge s b i event before job) := by
  unfold State.edge
  try dsimp only
  repeat' (first
   | with_reducible assumption
   | with_reducible apply State.pulse_memOk
   | with_reducible apply MemOk.ite
   | split
   | dsimp only)

theorem MemOk.mayTake {x : State} {f : State → State} (hf : ∀ y, MemOk y → MemOk (f y)) (hx : MemOk x) : MemOk (x.mayTake f) := by
  have h : MemOk x.free.2 := MemOk.of_only (State.free_only x) (by decide) hx
  unfold State.mayTake
  extract_lets r
  split
  · exact hf _ h
  · exact h

theorem State.putHead_memOk (s : State) (f off n v : Nat) (hok : MemOk s) : MemOk (State.putHead s f off n v) := by
  unfold State.putHead
  try dsimp only
  repeat' (first
   | with_reducible assumption
   | with_reducible apply State.devPut_memOk
   | with_reducible apply MemOk.ite
   | dsimp only)

theorem State.putEntry_memOk (s : State) (f t v : Nat) (hok : MemOk s) : MemOk (State.putEntry s f t v) := by
  unfold State.putEntry
  try dsimp only
  repeat' (first
   | with_reducible assumption
   | with_reducible apply State.devPut_memOk
   | with_reducible apply MemOk.ite
   | dsimp only)

theorem State.setTileState_memOk (s : State) (f t st : Nat) (hok : MemOk s) : MemOk (State.setTileState s f t st) := by
  unfold State.setTileState
  try dsimp only
  repeat' (first
   | with_reducible assumption
   | with_reducible apply State.putEntry_memOk
   | with_reducible apply MemOk.ite
   | dsimp only)

theorem State.trace_memOk (s : State) (c : Cmd) (kind status cause : Nat) (hok : MemOk s) : MemOk (State.trace s c kind status cause) := by
  unfold State.trace
  try dsimp only
  repeat' (first
   | with_reducible assumption
   | (with_reducible apply MemOk.of_only (State.bump_only _ _ _ _ _) (by decide))
   | with_reducible apply State.devPut_memOk
   | with_reducible apply State.irq_memOk
   | (with_reducible apply MemOk.of_only (State.setReg_only _ _ _ _ _) (by decide))
   | with_reducible apply MemOk.ite
   | split
   | (with_reducible apply MemOk.of_only Only.set_traceGap (by decide))
   | (with_reducible apply MemOk.of_only Only.set_traceGap_traceFill_traceAt (by decide))
   | dsimp only)

theorem State.starts_memOk (s : State) (c : Cmd) (hok : MemOk s) : MemOk (State.starts s c) := by
  unfold State.starts
  try dsimp only
  repeat' (first
   | with_reducible assumption
   | (with_reducible apply MemOk.of_only (State.ranFor_only _ _ _ _) (by decide))
   | with_reducible apply State.trace_memOk
   | with_reducible apply MemOk.ite
   | dsimp only)

theorem State.logFaultAt_memOk (s : State) (time : Nat) (b : Blk) (i cls action addr commands moved us : Nat) (hok : MemOk s) : MemOk (State.logFaultAt s time b i cls action addr commands moved us) := by
  unfold State.logFaultAt
  try dsimp only
  repeat' (first
   | with_reducible assumption
   | (with_reducible apply MemOk.of_only (State.bump_only _ _ _ _ _) (by decide))
   | (with_reducible apply MemOk.of_only (State.bumpMax_only _ _ _ _ _ _) (by decide))
   | with_reducible apply State.devPut_memOk
   | with_reducible apply State.irq_memOk
   | (with_reducible apply MemOk.of_only (State.setReg_only _ _ _ _ _) (by decide))
   | with_reducible apply MemOk.ite
   | split
   | (with_reducible apply MemOk.of_only Only.set_log (by decide))
   | dsimp only)

theorem State.logFault_memOk (s : State) (b : Blk) (i cls action addr commands moved us : Nat) (hok : MemOk s) : MemOk (State.logFault s b i cls action addr commands moved us) := by
  unfold State.logFault
  try dsimp only
  repeat' (first
   | with_reducible assumption
   | with_reducible apply State.logFaultAt_memOk
   | with_reducible apply MemOk.ite
   | dsimp only)

theorem State.correctWord_memOk (s : State) (w : Nat) (hok : MemOk s) : MemOk (State.correctWord s w) := by
  unfold State.correctWord
  try dsimp only
  repeat' (first
   | with_reducible assumption
   | (with_reducible apply MemOk.of_only (State.bump_only _ _ _ _ _) (by decide))
   | with_reducible apply State.irq_memOk
   | with_reducible apply State.logFault_memOk
   | with_reducible apply State.pulse_memOk
   | with_reducible apply MemOk.ite
   | (with_reducible refine MemOk.elim ?_ fun a => ?_)
   | split
   | (with_reducible apply MemOk.of_only Only.set_softWords (by decide))
   | dsimp only)

theorem State.unitCorr_memOk (s : State) (b : Blk) (i : Nat) (hok : MemOk s) : MemOk (State.unitCorr s b i) := by
  unfold State.unitCorr
  try dsimp only
  repeat' (first
   | with_reducible assumption
   | (with_reducible apply MemOk.of_only (State.bump_only _ _ _ _ _) (by decide))
   | with_reducible apply State.irq_memOk
   | with_reducible apply MemOk.ite
   | split
   | dsimp only)

theorem State.correctRead_memOk (s : State) (b : Blk) (i a n : Nat) (hok : MemOk s) : MemOk (State.correctRead s b i a n) := by
  unfold State.correctRead
  try dsimp only
  repeat' (first
   | with_reducible assumption
   | with_reducible apply State.correctWord_memOk
   | with_reducible apply State.unitCorr_memOk
   | with_reducible apply MemOk.ite
   | (with_reducible apply MemOk.foldl; intro y a hy)
   | dsimp only)

theorem State.correctReads_memOk (s : State) (b : Blk) (i : Nat) (rs : List (Nat × Nat)) (hok : MemOk s) : MemOk (State.correctReads s b i rs) := by
  unfold State.correctReads
  try dsimp only
  repeat' (first
   | with_reducible assumption
   | with_reducible apply State.correctRead_memOk
   | with_reducible apply MemOk.ite
   | (with_reducible apply MemOk.foldl; intro y a hy)
   | dsimp only)

theorem State.putDir_memOk (s : State) (job off : Nat) (bs : List Byte) (hok : MemOk s) : MemOk (State.putDir s job off bs) := by
  unfold State.putDir
  try dsimp only
  repeat' (first
   | with_reducible assumption
   | with_reducible apply State.devPut_memOk
   | with_reducible apply MemOk.ite
   | (with_reducible apply MemOk.foldl; intro y a hy)
   | dsimp only)

theorem State.taint_memOk (s : State) (job : Nat) (hok : MemOk s) : MemOk (State.taint s job) := by
  unfold State.taint
  try dsimp only
  repeat' (first
   | with_reducible assumption
   | with_reducible apply State.putDir_memOk
   | with_reducible apply MemOk.ite
   | (with_reducible apply MemOk.foldl; intro y a hy)
   | split
   | dsimp only)

theorem State.writeRec_memOk (s : State) (r : Rec) (hok : MemOk s) : MemOk (State.writeRec s r) := by
  unfold State.writeRec
  try dsimp only
  repeat' (first
   | with_reducible assumption
   | with_reducible apply State.hostPut_memOk
   | (with_reducible apply MemOk.of_only (State.putRing_only _ _ _) (by decide))
   | with_reducible apply State.signal_memOk
   | with_reducible apply MemOk.ite
   | split
   | dsimp only)

theorem State.drainRing_memOk (m n : Nat) (s : State) (h : MemOk s) : MemOk (State.drainRing m n s) := by
  induction n generalizing s with
  | zero => exact h
  | succ n ih =>
    unfold State.drainRing
    split
    · exact h
    · rename_i p hp
      split
      · exact ih _ (State.writeRec_memOk _ _ (MemOk.of_only (State.takeRec_only _ _ p hp) (by decide) h))
      · exact h

theorem State.pumpRing_memOk (s : State) (m : Nat) (hok : MemOk s) : MemOk (State.pumpRing s m) := by
  unfold State.pumpRing
  try dsimp only
  repeat' (first
   | with_reducible assumption
   | with_reducible apply State.drainRing_memOk
   | (with_reducible apply MemOk.of_only (State.trackFull_only _ _) (by decide))
   | with_reducible apply MemOk.ite
   | dsimp only)

theorem State.logBack_memOk (s : State) (a : Nat) (r : Rec) (hok : MemOk s) : MemOk (State.logBack s a r) := by
  unfold State.logBack
  try dsimp only
  repeat' (first
   | with_reducible assumption
   | with_reducible apply State.devPut_memOk
   | with_reducible apply State.irq_memOk
   | with_reducible apply MemOk.ite
   | split
   | (with_reducible apply MemOk.of_only Only.set_backlog (by decide))
   | dsimp only)

theorem State.deliver_memOk (s : State) (r : Rec) (hok : MemOk s) : MemOk (State.deliver s r) := by
  unfold State.deliver
  try dsimp only
  repeat' (first
   | with_reducible assumption
   | with_reducible apply State.logBack_memOk
   | with_reducible apply State.pumpRing_memOk
   | with_reducible apply MemOk.ite
   | split
   | (with_reducible apply MemOk.of_only Only.set_waiting (by decide))
   | dsimp only)

theorem State.settleTile_memOk (s : State) (x : Step) (g : Machine.Group) (hok : MemOk s) : MemOk (State.settleTile s x g) := by
  unfold State.settleTile
  try dsimp only
  repeat' (first
   | with_reducible assumption
   | with_reducible apply State.putEntry_memOk
   | with_reducible apply State.setTileState_memOk
   | with_reducible apply MemOk.ite
   | split
   | dsimp only)

theorem State.reviewGroup_memOk (s : State) (x : Step) (tile : Nat) (hok : MemOk s) : MemOk (State.reviewGroup s x tile) := by
  unfold State.reviewGroup
  try dsimp only
  repeat' (first
   | with_reducible assumption
   | (with_reducible apply MemOk.of_only (State.endGroup_only _ _ _) (by decide))
   | with_reducible apply State.settleTile_memOk
   | with_reducible apply MemOk.ite
   | split
   | dsimp only)

theorem State.reviewStep_memOk (s : State) (step : Nat) (hok : MemOk s) : MemOk (State.reviewStep s step) := by
  unfold State.reviewStep
  try dsimp only
  repeat' (first
   | with_reducible assumption
   | with_reducible apply State.reviewGroup_memOk
   | with_reducible apply MemOk.ite
   | (with_reducible apply MemOk.foldl; intro y a hy)
   | split
   | dsimp only)

theorem State.settleGroup_memOk (s : State) (c : Cmd) (st : Status) (hok : MemOk s) : MemOk (State.settleGroup s c st) := by
  unfold State.settleGroup
  try dsimp only
  repeat' (first
   | with_reducible assumption
   | (with_reducible apply MemOk.of_only (State.putGroup_only _ _) (by decide))
   | with_reducible apply State.reviewGroup_memOk
   | with_reducible apply MemOk.ite
   | split
   | dsimp only)

theorem State.rasterRest_memOk (s : State) (hok : MemOk s) : MemOk (State.rasterRest s) := by
  unfold State.rasterRest
  try dsimp only
  repeat' (first
   | with_reducible assumption
   | with_reducible apply State.irq_memOk
   | with_reducible apply MemOk.ite
   | split
   | (with_reducible apply MemOk.of_only Only.set_raster (by decide))
   | dsimp only)

theorem State.warped_memOk (s : State) (c : Cmd) (st : Status) (hok : MemOk s) : MemOk (State.warped s c st) := by
  unfold State.warped
  try dsimp only
  repeat' (first
   | with_reducible assumption
   | with_reducible apply State.setTileState_memOk
   | with_reducible apply MemOk.ite
   | split
   | dsimp only)

theorem State.logNote_memOk (s : State) (c : Cmd) (hok : MemOk s) : MemOk (State.logNote s c) := by
  unfold State.logNote
  try dsimp only
  repeat' (first
   | with_reducible assumption
   | with_reducible apply State.logFaultAt_memOk
   | with_reducible apply MemOk.ite
   | split
   | dsimp only)

theorem State.produce_memOk (s : State) (c : Cmd) (st : Status) (cause : Nat) (hok : MemOk s) : MemOk (State.produce s c st cause) := by
  unfold State.produce
  extract_lets r s0 s1 s2 s3 s4 s5 s6 u s7 s8
  have hs0 : MemOk s0 := by
    unfold s0
    repeat' (first
     | with_reducible assumption
     | (with_reducible apply MemOk.of_only (State.advanceAll_only _ _ _) (by decide))
     | (with_reducible apply MemOk.of_only (State.collRefuse_only _ _ _) (by decide))
     | with_reducible apply State.deliver_memOk
     | (with_reducible apply MemOk.of_only (State.extendAux_only _ _ _ _) (by decide))
     | with_reducible apply State.logNote_memOk
     | with_reducible apply State.pulse_memOk
     | (with_reducible apply MemOk.of_only (State.putStep_only _ _) (by decide))
     | with_reducible apply State.rasterRest_memOk
     | (with_reducible apply MemOk.of_only (State.retire_only _ _ _) (by decide))
     | (with_reducible apply MemOk.of_only (State.settleAux_only _ _) (by decide))
     | with_reducible apply State.settleGroup_memOk
     | with_reducible apply State.taint_memOk
     | with_reducible apply State.trace_memOk
     | (with_reducible apply MemOk.of_only (State.track_only _) (by decide))
     | with_reducible apply State.warped_memOk
     | with_reducible apply MemOk.ite
     | split
     | dsimp only)
  have hs1 : MemOk s1 := by
    unfold s1
    repeat' (first
     | with_reducible assumption
     | (with_reducible apply MemOk.of_only (State.advanceAll_only _ _ _) (by decide))
     | (with_reducible apply MemOk.of_only (State.collRefuse_only _ _ _) (by decide))
     | with_reducible apply State.deliver_memOk
     | (with_reducible apply MemOk.of_only (State.extendAux_only _ _ _ _) (by decide))
     | with_reducible apply State.logNote_memOk
     | with_reducible apply State.pulse_memOk
     | (with_reducible apply MemOk.of_only (State.putStep_only _ _) (by decide))
     | with_reducible apply State.rasterRest_memOk
     | (with_reducible apply MemOk.of_only (State.retire_only _ _ _) (by decide))
     | (with_reducible apply MemOk.of_only (State.settleAux_only _ _) (by decide))
     | with_reducible apply State.settleGroup_memOk
     | with_reducible apply State.taint_memOk
     | with_reducible apply State.trace_memOk
     | (with_reducible apply MemOk.of_only (State.track_only _) (by decide))
     | with_reducible apply State.warped_memOk
     | with_reducible apply MemOk.ite
     | split
     | dsimp only)
  have hs2 : MemOk s2 := by
    unfold s2
    repeat' (first
     | with_reducible assumption
     | (with_reducible apply MemOk.of_only (State.advanceAll_only _ _ _) (by decide))
     | (with_reducible apply MemOk.of_only (State.collRefuse_only _ _ _) (by decide))
     | with_reducible apply State.deliver_memOk
     | (with_reducible apply MemOk.of_only (State.extendAux_only _ _ _ _) (by decide))
     | with_reducible apply State.logNote_memOk
     | with_reducible apply State.pulse_memOk
     | (with_reducible apply MemOk.of_only (State.putStep_only _ _) (by decide))
     | with_reducible apply State.rasterRest_memOk
     | (with_reducible apply MemOk.of_only (State.retire_only _ _ _) (by decide))
     | (with_reducible apply MemOk.of_only (State.settleAux_only _ _) (by decide))
     | with_reducible apply State.settleGroup_memOk
     | with_reducible apply State.taint_memOk
     | with_reducible apply State.trace_memOk
     | (with_reducible apply MemOk.of_only (State.track_only _) (by decide))
     | with_reducible apply State.warped_memOk
     | with_reducible apply MemOk.ite
     | split
     | dsimp only)
  have hs3 : MemOk s3 := by
    unfold s3
    repeat' (first
     | with_reducible assumption
     | (with_reducible apply MemOk.of_only (State.advanceAll_only _ _ _) (by decide))
     | (with_reducible apply MemOk.of_only (State.collRefuse_only _ _ _) (by decide))
     | with_reducible apply State.deliver_memOk
     | (with_reducible apply MemOk.of_only (State.extendAux_only _ _ _ _) (by decide))
     | with_reducible apply State.logNote_memOk
     | with_reducible apply State.pulse_memOk
     | (with_reducible apply MemOk.of_only (State.putStep_only _ _) (by decide))
     | with_reducible apply State.rasterRest_memOk
     | (with_reducible apply MemOk.of_only (State.retire_only _ _ _) (by decide))
     | (with_reducible apply MemOk.of_only (State.settleAux_only _ _) (by decide))
     | with_reducible apply State.settleGroup_memOk
     | with_reducible apply State.taint_memOk
     | with_reducible apply State.trace_memOk
     | (with_reducible apply MemOk.of_only (State.track_only _) (by decide))
     | with_reducible apply State.warped_memOk
     | with_reducible apply MemOk.ite
     | split
     | dsimp only)
  have hs4 : MemOk s4 := by
    unfold s4
    repeat' (first
     | with_reducible assumption
     | (with_reducible apply MemOk.of_only (State.advanceAll_only _ _ _) (by decide))
     | (with_reducible apply MemOk.of_only (State.collRefuse_only _ _ _) (by decide))
     | with_reducible apply State.deliver_memOk
     | (with_reducible apply MemOk.of_only (State.extendAux_only _ _ _ _) (by decide))
     | with_reducible apply State.logNote_memOk
     | with_reducible apply State.pulse_memOk
     | (with_reducible apply MemOk.of_only (State.putStep_only _ _) (by decide))
     | with_reducible apply State.rasterRest_memOk
     | (with_reducible apply MemOk.of_only (State.retire_only _ _ _) (by decide))
     | (with_reducible apply MemOk.of_only (State.settleAux_only _ _) (by decide))
     | with_reducible apply State.settleGroup_memOk
     | with_reducible apply State.taint_memOk
     | with_reducible apply State.trace_memOk
     | (with_reducible apply MemOk.of_only (State.track_only _) (by decide))
     | with_reducible apply State.warped_memOk
     | with_reducible apply MemOk.ite
     | split
     | dsimp only)
  have hs5 : MemOk s5 := by
    unfold s5
    repeat' (first
     | with_reducible assumption
     | (with_reducible apply MemOk.of_only (State.advanceAll_only _ _ _) (by decide))
     | (with_reducible apply MemOk.of_only (State.collRefuse_only _ _ _) (by decide))
     | with_reducible apply State.deliver_memOk
     | (with_reducible apply MemOk.of_only (State.extendAux_only _ _ _ _) (by decide))
     | with_reducible apply State.logNote_memOk
     | with_reducible apply State.pulse_memOk
     | (with_reducible apply MemOk.of_only (State.putStep_only _ _) (by decide))
     | with_reducible apply State.rasterRest_memOk
     | (with_reducible apply MemOk.of_only (State.retire_only _ _ _) (by decide))
     | (with_reducible apply MemOk.of_only (State.settleAux_only _ _) (by decide))
     | with_reducible apply State.settleGroup_memOk
     | with_reducible apply State.taint_memOk
     | with_reducible apply State.trace_memOk
     | (with_reducible apply MemOk.of_only (State.track_only _) (by decide))
     | with_reducible apply State.warped_memOk
     | with_reducible apply MemOk.ite
     | split
     | dsimp only)
  have hs6 : MemOk s6 := by
    unfold s6
    repeat' (first
     | with_reducible assumption
     | (with_reducible apply MemOk.of_only (State.advanceAll_only _ _ _) (by decide))
     | (with_reducible apply MemOk.of_only (State.collRefuse_only _ _ _) (by decide))
     | with_reducible apply State.deliver_memOk
     | (with_reducible apply MemOk.of_only (State.extendAux_only _ _ _ _) (by decide))
     | with_reducible apply State.logNote_memOk
     | with_reducible apply State.pulse_memOk
     | (with_reducible apply MemOk.of_only (State.putStep_only _ _) (by decide))
     | with_reducible apply State.rasterRest_memOk
     | (with_reducible apply MemOk.of_only (State.retire_only _ _ _) (by decide))
     | (with_reducible apply MemOk.of_only (State.settleAux_only _ _) (by decide))
     | with_reducible apply State.settleGroup_memOk
     | with_reducible apply State.taint_memOk
     | with_reducible apply State.trace_memOk
     | (with_reducible apply MemOk.of_only (State.track_only _) (by decide))
     | with_reducible apply State.warped_memOk
     | with_reducible apply MemOk.ite
     | split
     | dsimp only)
  have hs7 : MemOk s7 := by
    unfold s7
    repeat' (first
     | with_reducible assumption
     | (with_reducible apply MemOk.of_only (State.advanceAll_only _ _ _) (by decide))
     | (with_reducible apply MemOk.of_only (State.collRefuse_only _ _ _) (by decide))
     | with_reducible apply State.deliver_memOk
     | (with_reducible apply MemOk.of_only (State.extendAux_only _ _ _ _) (by decide))
     | with_reducible apply State.logNote_memOk
     | with_reducible apply State.pulse_memOk
     | (with_reducible apply MemOk.of_only (State.putStep_only _ _) (by decide))
     | with_reducible apply State.rasterRest_memOk
     | (with_reducible apply MemOk.of_only (State.retire_only _ _ _) (by decide))
     | (with_reducible apply MemOk.of_only (State.settleAux_only _ _) (by decide))
     | with_reducible apply State.settleGroup_memOk
     | with_reducible apply State.taint_memOk
     | with_reducible apply State.trace_memOk
     | (with_reducible apply MemOk.of_only (State.track_only _) (by decide))
     | with_reducible apply State.warped_memOk
     | with_reducible apply MemOk.ite
     | split
     | dsimp only)
  have hs8 : MemOk s8 := by
    unfold s8
    repeat' (first
     | with_reducible assumption
     | (with_reducible apply MemOk.of_only (State.advanceAll_only _ _ _) (by decide))
     | (with_reducible apply MemOk.of_only (State.collRefuse_only _ _ _) (by decide))
     | with_reducible apply State.deliver_memOk
     | (with_reducible apply MemOk.of_only (State.extendAux_only _ _ _ _) (by decide))
     | with_reducible apply State.logNote_memOk
     | with_reducible apply State.pulse_memOk
     | (with_reducible apply MemOk.of_only (State.putStep_only _ _) (by decide))
     | with_reducible apply State.rasterRest_memOk
     | (with_reducible apply MemOk.of_only (State.retire_only _ _ _) (by decide))
     | (with_reducible apply MemOk.of_only (State.settleAux_only _ _) (by decide))
     | with_reducible apply State.settleGroup_memOk
     | with_reducible apply State.taint_memOk
     | with_reducible apply State.trace_memOk
     | (with_reducible apply MemOk.of_only (State.track_only _) (by decide))
     | with_reducible apply State.warped_memOk
     | with_reducible apply MemOk.ite
     | split
     | dsimp only)
  repeat' (first
   | with_reducible assumption
   | (with_reducible apply MemOk.of_only (State.advanceAll_only _ _ _) (by decide))
   | (with_reducible apply MemOk.of_only (State.collRefuse_only _ _ _) (by decide))
   | with_reducible apply State.deliver_memOk
   | (with_reducible apply MemOk.of_only (State.extendAux_only _ _ _ _) (by decide))
   | with_reducible apply State.logNote_memOk
   | with_reducible apply State.pulse_memOk
   | (with_reducible apply MemOk.of_only (State.putStep_only _ _) (by decide))
   | with_reducible apply State.rasterRest_memOk
   | (with_reducible apply MemOk.of_only (State.retire_only _ _ _) (by decide))
   | (with_reducible apply MemOk.of_only (State.settleAux_only _ _) (by decide))
   | with_reducible apply State.settleGroup_memOk
   | with_reducible apply State.taint_memOk
   | with_reducible apply State.trace_memOk
   | (with_reducible apply MemOk.of_only (State.track_only _) (by decide))
   | with_reducible apply State.warped_memOk
   | with_reducible apply MemOk.ite
   | split
   | dsimp only)

theorem State.endReplay_memOk (s : State) (c : Cmd) (st : Status) (hok : MemOk s) : MemOk (State.endReplay s c st) := by
  unfold State.endReplay
  try dsimp only
  repeat' (first
   | with_reducible assumption
   | with_reducible apply State.logNote_memOk
   | (with_reducible apply MemOk.of_only (State.putCmd_only _ _) (by decide))
   | with_reducible apply State.settleGroup_memOk
   | (with_reducible apply MemOk.of_only (State.track_only _) (by decide))
   | with_reducible apply MemOk.ite
   | dsimp only)

theorem State.joinStep_memOk (s : State) (c : Cmd) (hok : MemOk s) : MemOk (State.joinStep s c) := by
  unfold State.joinStep
  try dsimp only
  repeat' (first
   | with_reducible assumption
   | (with_reducible apply MemOk.of_only (State.putStep_only _ _) (by decide))
   | with_reducible apply State.reviewStep_memOk
   | (with_reducible apply MemOk.of_only (State.startGroup_only _ _ _) (by decide))
   | with_reducible apply MemOk.ite
   | split
   | (with_reducible apply MemOk.of_only Only.set_cmds (by decide))
   | dsimp only)

theorem State.takeMeta_memOk (s : State) (c : Cmd) (hok : MemOk s) : MemOk (State.takeMeta s c) := by
  unfold State.takeMeta
  try dsimp only
  repeat' (first
   | with_reducible assumption
   | with_reducible apply State.correctReads_memOk
   | (with_reducible apply MemOk.of_only (State.err_only _ _ _ _ _ _) (by decide))
   | with_reducible apply MemOk.ite
   | split
   | (with_reducible apply MemOk.of_only Only.set_disp (by decide))
   | dsimp only)

theorem State.enter_memOk (s : State) (c : Cmd) (hok : MemOk s) : MemOk (State.enter s c) := by
  unfold State.enter
  try dsimp only
  repeat' (first
   | with_reducible assumption
   | (with_reducible apply MemOk.of_only (State.bump_only _ _ _ _ _) (by decide))
   | with_reducible apply State.joinStep_memOk
   | (with_reducible apply MemOk.of_only (State.newStep_only _ _) (by decide))
   | (with_reducible apply MemOk.of_only (State.ranFor_only _ _ _ _) (by decide))
   | with_reducible apply State.takeMeta_memOk
   | with_reducible apply State.trace_memOk
   | (with_reducible apply MemOk.of_only (State.wake_only _ _) (by decide))
   | (with_reducible apply MemOk.of_only (State.wakeAll_only _ _) (by decide))
   | with_reducible apply MemOk.ite
   | split
   | dsimp only)

theorem State.consume_memOk (s : State) (apt : Nat) (a : Aperture) (x : AptSlot) (e : Entry) (hok : MemOk s) : MemOk (State.consume s apt a x e) := by
  unfold State.consume
  try dsimp only
  repeat' (first
   | with_reducible assumption
   | (with_reducible apply MemOk.of_only (State.bump_only _ _ _ _ _) (by decide))
   | with_reducible apply State.enter_memOk
   | with_reducible apply State.irq_memOk
   | with_reducible apply State.pulse_memOk
   | (with_reducible apply MemOk.of_only (State.putApt_only _ _ _) (by decide))
   | with_reducible apply State.trace_memOk
   | with_reducible apply MemOk.ite
   | split
   | (with_reducible apply MemOk.of_only Only.set_cmds (by decide))
   | (with_reducible apply MemOk.of_only Only.set_nextUid_aptSlots (by decide))
   | dsimp only)

theorem execPacketAccept_memOk (apt : Nat) (s : State) (hok : MemOk s) : MemOkOut (execPacketAccept apt s) := by
  unfold execPacketAccept
  try dsimp only
  repeat' (first
   | with_reducible assumption
   | with_reducible apply MemOkOut.next
   | with_reducible apply State.consume_memOk
   | with_reducible apply State.edge_memOk
   | (with_reducible apply MemOk.of_only (State.putApt_only _ _ _) (by decide))
   | (with_reducible apply MemOk.of_only (State.track_only _) (by decide))
   | with_reducible apply MemOk.ite
   | with_reducible apply MemOkOut.ite
   | split
   | dsimp only)

theorem execAptHeldTimeout_memOk (apt : Nat) (s : State) (hok : MemOk s) : MemOkOut (execAptHeldTimeout apt s) := by
  unfold execAptHeldTimeout
  try dsimp only
  repeat' (first
   | with_reducible assumption
   | with_reducible apply MemOkOut.next
   | (with_reducible apply MemOk.of_only (State.at_only _ _) (by decide))
   | with_reducible apply State.irq_memOk
   | with_reducible apply MemOk.ite
   | with_reducible apply MemOkOut.ite
   | split
   | dsimp only)

theorem State.takeIn_memOk (s : State) (c : Cmd) (q : Queue) (e : Entry) (hok : MemOk s) : MemOk (State.takeIn s c q e) := by
  unfold State.takeIn
  try dsimp only
  repeat' (first
   | with_reducible assumption
   | with_reducible apply State.pulse_memOk
   | (with_reducible apply MemOk.of_only (State.putCmd_only _ _) (by decide))
   | with_reducible apply State.trace_memOk
   | (with_reducible apply MemOk.of_only (State.track_only _) (by decide))
   | (with_reducible apply MemOk.of_only (State.wake_only _ _) (by decide))
   | with_reducible apply MemOk.ite
   | split
   | dsimp only)

theorem execCommandAdmit_memOk (uid : Nat) (s : State) (hok : MemOk s) : MemOkOut (execCommandAdmit uid s) := by
  unfold execCommandAdmit
  try dsimp only
  repeat' (first
   | with_reducible assumption
   | with_reducible apply MemOkOut.next
   | with_reducible apply State.takeIn_memOk
   | with_reducible apply MemOk.ite
   | with_reducible apply MemOkOut.ite
   | split
   | dsimp only)

theorem State.dispatch_memOk (s : State) (x : Step) (tile g : Nat) (hok : MemOk s) : MemOk (State.dispatch s x tile g) := by
  unfold State.dispatch
  try dsimp only
  repeat' (first
   | with_reducible assumption
   | with_reducible apply State.putEntry_memOk
   | (with_reducible apply MemOk.of_only (State.putGroup_only _ _) (by decide))
   | (with_reducible apply MemOk.of_only (State.wake_only _ _) (by decide))
   | with_reducible apply MemOk.ite
   | split
   | dsimp only)

theorem execTileDispatch_memOk (step tile : Nat) (s : State) (hok : MemOk s) : MemOkOut (execTileDispatch step tile s) := by
  unfold execTileDispatch
  try dsimp only
  repeat' (first
   | with_reducible assumption
   | with_reducible apply MemOkOut.next
   | with_reducible apply State.dispatch_memOk
   | (with_reducible apply MemOk.of_only (State.track_only _) (by decide))
   | with_reducible apply MemOk.ite
   | with_reducible apply MemOkOut.ite
   | split
   | dsimp only)

theorem State.fireGuard_memOk (s : State) (x : Step) (r : Nat) (hok : MemOk s) : MemOk (State.fireGuard s x r) := by
  unfold State.fireGuard
  try dsimp only
  repeat' (first
   | with_reducible assumption
   | (with_reducible apply MemOk.of_only (State.bump_only _ _ _ _ _) (by decide))
   | with_reducible apply State.irq_memOk
   | with_reducible apply State.pulse_memOk
   | (with_reducible apply MemOk.of_only (State.putStep_only _ _) (by decide))
   | with_reducible apply MemOk.ite
   | split
   | (with_reducible apply MemOk.of_only Only.set_cmds_groups (by decide))
   | dsimp only)

theorem State.pastGuards_memOk (s : State) (uid : Nat) (hok : MemOk s) : MemOk (State.pastGuards s uid) := by
  unfold State.pastGuards
  try dsimp only
  repeat' (first
   | with_reducible assumption
   | with_reducible apply State.fireGuard_memOk
   | with_reducible apply MemOk.ite
   | (with_reducible apply MemOk.foldl; intro y a hy)
   | split
   | dsimp only)

theorem State.cancelGroup_memOk (s : State) (x : Step) (t : Nat) (hok : MemOk s) : MemOk (State.cancelGroup s x t) := by
  unfold State.cancelGroup
  try dsimp only
  repeat' (first
   | with_reducible assumption
   | (with_reducible apply MemOk.of_only (State.bump_only _ _ _ _ _) (by decide))
   | (with_reducible apply MemOk.of_only (State.endGroup_only _ _ _) (by decide))
   | (with_reducible apply MemOk.of_only (State.endLate_only _ _) (by decide))
   | with_reducible apply State.pulse_memOk
   | with_reducible apply State.putEntry_memOk
   | (with_reducible apply MemOk.of_only (State.putGroup_only _ _) (by decide))
   | with_reducible apply MemOk.ite
   | split
   | dsimp only)

theorem State.putLateCount_memOk (s : State) (x : Step) (n : Nat) (hok : MemOk s) : MemOk (State.putLateCount s x n) := by
  unfold State.putLateCount
  try dsimp only
  repeat' (first
   | with_reducible assumption
   | with_reducible apply State.putHead_memOk
   | with_reducible apply MemOk.ite
   | split
   | dsimp only)

theorem State.lateRow_memOk (s : State) (x : Step) (r : Nat) (hok : MemOk s) : MemOk (State.lateRow s x r) := by
  unfold State.lateRow
  try dsimp only
  repeat' (first
   | with_reducible assumption
   | with_reducible apply State.cancelGroup_memOk
   | (with_reducible apply MemOk.of_only (State.endLate_only _ _) (by decide))
   | with_reducible apply State.irq_memOk
   | with_reducible apply State.putLateCount_memOk
   | (with_reducible apply MemOk.of_only (State.putStep_only _ _) (by decide))
   | with_reducible apply State.reviewStep_memOk
   | with_reducible apply MemOk.ite
   | (with_reducible apply MemOk.foldl; intro y a hy)
   | split
   | dsimp only)

theorem State.pastRows_memOk (s : State) (uid : Nat) (hok : MemOk s) : MemOk (State.pastRows s uid) := by
  unfold State.pastRows
  try dsimp only
  repeat' (first
   | with_reducible assumption
   | with_reducible apply State.lateRow_memOk
   | with_reducible apply MemOk.ite
   | (with_reducible apply MemOk.foldl; intro y a hy)
   | split
   | dsimp only)

theorem State.openStep_memOk (s : State) (c : Cmd) (x : Step) (e : Entry) (hok : MemOk s) : MemOk (State.openStep s c x e) := by
  unfold State.openStep
  try dsimp only
  repeat' (first
   | with_reducible assumption
   | with_reducible apply State.pastGuards_memOk
   | with_reducible apply State.pastRows_memOk
   | (with_reducible apply MemOk.of_only (State.putCmd_only _ _) (by decide))
   | (with_reducible apply MemOk.of_only (State.putJob_only _ _ _) (by decide))
   | (with_reducible apply MemOk.of_only (State.putStep_only _ _) (by decide))
   | (with_reducible apply MemOk.of_only (State.track_only _) (by decide))
   | with_reducible apply MemOk.ite
   | split
   | dsimp only)

theorem State.turnLate_memOk (s : State) (job : Nat) (hok : MemOk s) : MemOk (State.turnLate s job) := by
  unfold State.turnLate
  try dsimp only
  repeat' (first
   | with_reducible assumption
   | with_reducible apply State.putDir_memOk
   | with_reducible apply MemOk.ite
   | dsimp only)

theorem execStepOpen_memOk (uid : Nat) (s : State) (hok : MemOk s) : MemOkOut (execStepOpen uid s) := by
  unfold execStepOpen
  try dsimp only
  repeat' (first
   | with_reducible assumption
   | with_reducible apply MemOkOut.next
   | with_reducible apply State.openStep_memOk
   | (with_reducible apply MemOk.of_only (State.putCmd_only _ _) (by decide))
   | (with_reducible apply MemOk.of_only (State.putStep_only _ _) (by decide))
   | with_reducible apply State.turnLate_memOk
   | with_reducible apply MemOk.ite
   | with_reducible apply MemOkOut.ite
   | split
   | dsimp only)

theorem execCompletionRecordWrite_memOk (uid : Nat) (s : State) (hok : MemOk s) : MemOkOut (execCompletionRecordWrite uid s) := by
  unfold execCompletionRecordWrite
  try dsimp only
  repeat' (first
   | with_reducible assumption
   | with_reducible apply MemOkOut.next
   | (with_reducible apply MemOk.of_only (State.closeStep_only _ _) (by decide))
   | with_reducible apply State.endReplay_memOk
   | with_reducible apply State.produce_memOk
   | with_reducible apply MemOk.ite
   | with_reducible apply MemOkOut.ite
   | split
   | dsimp only)

theorem execRingFullTimeout_memOk (ring : Nat) (s : State) (hok : MemOk s) : MemOkOut (execRingFullTimeout ring s) := by
  unfold execRingFullTimeout
  try dsimp only
  repeat' (first
   | with_reducible assumption
   | with_reducible apply MemOkOut.next
   | (with_reducible apply MemOk.of_only (State.at_only _ _) (by decide))
   | with_reducible apply State.irq_memOk
   | with_reducible apply MemOk.ite
   | with_reducible apply MemOkOut.ite
   | split
   | dsimp only)

theorem execMsixRingTimer_memOk (ring : Nat) (s : State) (hok : MemOk s) : MemOkOut (execMsixRingTimer ring s) := by
  unfold execMsixRingTimer
  try dsimp only
  repeat' (first
   | with_reducible assumption
   | with_reducible apply MemOkOut.next
   | (with_reducible apply MemOk.of_only (State.at_only _ _) (by decide))
   | (with_reducible apply MemOk.of_only (State.putRing_only _ _ _) (by decide))
   | with_reducible apply State.signal_memOk
   | with_reducible apply MemOk.ite
   | with_reducible apply MemOkOut.ite
   | split
   | dsimp only)

theorem State.writeCredit_memOk (s : State) (n : Nat) (hok : MemOk s) : MemOk (State.writeCredit s n) := by
  unfold State.writeCredit
  try dsimp only
  repeat' (first
   | with_reducible assumption
   | with_reducible apply State.hostPut_memOk
   | (with_reducible apply MemOk.of_only (State.putApt_only _ _ _) (by decide))
   | with_reducible apply MemOk.ite
   | split
   | dsimp only)

theorem execCreditWriteback_memOk (apt : Nat) (s : State) (hok : MemOk s) : MemOkOut (execCreditWriteback apt s) := by
  unfold execCreditWriteback
  try dsimp only
  repeat' (first
   | with_reducible assumption
   | with_reducible apply MemOkOut.next
   | with_reducible apply State.writeCredit_memOk
   | with_reducible apply MemOk.ite
   | with_reducible apply MemOkOut.ite
   | split
   | dsimp only)

end Sys2Proof.Machine
end

