-- ==== Sys2Proof/Laws/CanonicalEngine.lean ====
section
/-!
SUPPORT. Each operation keeps the canonical form of every memory: the engines, their contexts and their operations.
-/

-- One proof at a time: the proofs of this file are many, and run together they take many threads at once.
set_option Elab.async false

set_option linter.unusedTactic false
set_option linter.unreachableTactic false

namespace Sys2Proof.Machine

theorem State.putAll_memOk (s : State) (ws : List (Nat × List Byte)) (hok : MemOk s) : MemOk (State.putAll s ws) := by
  unfold State.putAll
  try dsimp only
  repeat' (first
   | with_reducible assumption
   | with_reducible apply State.devPut_memOk
   | with_reducible apply MemOk.ite
   | (with_reducible apply MemOk.foldl; intro y a hy)
   | dsimp only)

theorem State.addStats_memOk (s : State) (c : Cmd) (g off : Nat) (x : Stats) (hok : MemOk s) : MemOk (State.addStats s c g off x) := by
  unfold State.addStats
  try dsimp only
  repeat' (first
   | with_reducible assumption
   | with_reducible apply State.irq_memOk
   | (with_reducible apply MemOk.of_only (State.putEngine_only _ _ _) (by decide))
   | with_reducible apply MemOk.ite
   | split
   | dsimp only)

theorem State.applyWork_memOk (s : State) (c : Cmd) (g slot : Nat) (w : Work) (hok : MemOk s) : MemOk (State.applyWork s c g slot w) := by
  unfold State.applyWork
  try dsimp only
  repeat' (first
   | with_reducible assumption
   | with_reducible apply State.addStats_memOk
   | with_reducible apply State.pulse_memOk
   | with_reducible apply State.putAll_memOk
   | (with_reducible apply MemOk.of_only (State.putEngine_only _ _ _) (by decide))
   | with_reducible apply MemOk.ite
   | split
   | dsimp only)

theorem State.applyPart_memOk (s : State) (c : Cmd) (g slot : Nat) (w : Work) (hok : MemOk s) : MemOk (State.applyPart s c g slot w) := by
  unfold State.applyPart
  try dsimp only
  repeat' (first
   | with_reducible assumption
   | with_reducible apply State.applyWork_memOk
   | (with_reducible apply MemOk.of_only (State.free_only _) (by decide))
   | with_reducible apply MemOk.ite
   | dsimp only)

theorem State.correctWork_memOk (s : State) (c : Cmd) (g : Nat) (reads : List (Nat × Nat × Nat)) (hok : MemOk s) : MemOk (State.correctWork s c g reads) := by
  unfold State.correctWork
  try dsimp only
  repeat' (first
   | with_reducible assumption
   | with_reducible apply State.correctReads_memOk
   | with_reducible apply MemOk.ite
   | dsimp only)

theorem State.synth_memOk (s : State) (c : Cmd) (hok : MemOk s) : MemOk (State.synth s c) := by
  unfold State.synth
  try dsimp only
  repeat' (first
   | with_reducible assumption
   | with_reducible apply State.setTileState_memOk
   | with_reducible apply MemOk.ite
   | split
   | dsimp only)

theorem State.issueFetch_memOk (s : State) (c : Cmd) (g : Nat) (hok : MemOk s) : MemOk (State.issueFetch s c g) := by
  unfold State.issueFetch
  try dsimp only
  repeat' (first
   | with_reducible assumption
   | with_reducible apply State.correctWork_memOk
   | with_reducible apply MemOk.ite
   | split
   | (with_reducible apply MemOk.of_only Only.set_fetches (by decide))
   | dsimp only)

theorem State.unitBad_memOk (s : State) (c : Cmd) (g cause addr : Nat) (hok : MemOk s) : MemOk (State.unitBad s c g cause addr) := by
  unfold State.unitBad
  try dsimp only
  repeat' (first
   | with_reducible assumption
   | (with_reducible apply MemOk.of_only (State.err_only _ _ _ _ _ _) (by decide))
   | with_reducible apply State.irq_memOk
   | with_reducible apply MemOk.ite
   | split
   | dsimp only)

theorem State.endBadDesc_memOk (s : State) (c : Cmd) (g a : Nat) (hok : MemOk s) : MemOk (State.endBadDesc s c g a) := by
  unfold State.endBadDesc
  try dsimp only
  repeat' (first
   | with_reducible assumption
   | (with_reducible apply MemOk.of_only (State.faultCmd_only _ _ _ _ _) (by decide))
   | with_reducible apply State.unitBad_memOk
   | with_reducible apply MemOk.ite
   | dsimp only)

theorem State.runWork_memOk (s : State) (c : Cmd) (g slot : Nat) (w : Work) (hok : MemOk s) : MemOk (State.runWork s c g slot w) := by
  unfold State.runWork
  try dsimp only
  repeat' (first
   | with_reducible assumption
   | with_reducible apply State.applyPart_memOk
   | with_reducible apply State.applyWork_memOk
   | with_reducible apply State.correctWork_memOk
   | (with_reducible apply MemOk.of_only (State.dropAhead_only _ _ _) (by decide))
   | (with_reducible apply MemOk.of_only (State.endCmd_only _ _ _ _) (by decide))
   | (with_reducible apply MemOk.of_only (State.err_only _ _ _ _ _ _) (by decide))
   | (with_reducible apply MemOk.of_only (State.faultCmd_only _ _ _ _ _) (by decide))
   | with_reducible apply State.irq_memOk
   | (with_reducible apply MemOk.of_only (State.loadAhead_only _ _ _) (by decide))
   | (with_reducible apply MemOk.of_only (State.spendIssue_only _ _ _) (by decide))
   | with_reducible apply State.starts_memOk
   | with_reducible apply State.synth_memOk
   | with_reducible apply State.unitBad_memOk
   | with_reducible apply MemOk.ite
   | split
   | dsimp only)

theorem State.select_memOk (s : State) (g slot : Nat) (hok : MemOk s) : MemOk (State.select s g slot) := by
  unfold State.select
  try dsimp only
  repeat' (first
   | with_reducible assumption
   | (with_reducible apply MemOk.of_only (State.at_only _ _) (by decide))
   | with_reducible apply State.edge_memOk
   | (with_reducible apply MemOk.of_only (State.putEngine_only _ _ _) (by decide))
   | (with_reducible apply MemOk.of_only (State.wake_only _ _) (by decide))
   | with_reducible apply MemOk.ite
   | split
   | dsimp only)

theorem State.waitingOp_memOk (s : State) (uid op : Nat) (hok : MemOk s) : MemOk (State.waitingOp s uid op) := by
  unfold State.waitingOp
  try dsimp only
  repeat' (first
   | with_reducible assumption
   | with_reducible apply State.endBadDesc_memOk
   | with_reducible apply State.issueFetch_memOk
   | with_reducible apply MemOk.ite
   | split
   | dsimp only)

theorem State.beforeRun_memOk (s t : State) (c : Cmd) (g : Nat) (hok : MemOk t) : ∀ y, State.beforeRun s t c g = some y → MemOk y := by
  intro y hy
  unfold State.beforeRun at hy
  try dsimp only at hy
  repeat' (first
   | (simp only [reduceCtorEq] at hy; done)
   | (obtain rfl := Option.some.inj hy)
   | split at hy
   | with_reducible assumption
   | with_reducible apply State.endBadDesc_memOk
   | (with_reducible apply MemOk.of_only (State.endCmd_only _ _ _ _) (by decide))
   | with_reducible apply State.issueFetch_memOk
   | with_reducible apply MemOk.ite
   | split
   | dsimp only)

theorem State.engineOp_memOk (s : State) (uid op : Nat) (work : State → Cmd → Nat → Nat → Work) (hok : MemOk s) : MemOk (State.engineOp s uid op work) := by
  unfold State.engineOp
  try dsimp only
  repeat' (first
   | with_reducible assumption
   | (with_reducible refine State.beforeRun_memOk _ _ _ _ ?_ _ ‹_›)
   | (with_reducible apply MemOk.of_only (State.endUnranked_only _ _ _ _) (by decide))
   | with_reducible apply State.runWork_memOk
   | with_reducible apply State.select_memOk
   | (with_reducible apply MemOk.of_only (State.track_only _) (by decide))
   | with_reducible apply State.waitingOp_memOk
   | with_reducible apply MemOk.ite
   | split
   | (cases ‹none = some _›; done)
   | (with_reducible apply MemOk.getD; intro y hy)
   | dsimp only [Option.getD_none]
   | dsimp only)

theorem execNeGemm_memOk (uid : Nat) (s : State) (hok : MemOk s) : MemOkOut (execNeGemm uid s) := by
  unfold execNeGemm
  try dsimp only
  repeat' (first
   | with_reducible assumption
   | with_reducible apply MemOkOut.next
   | with_reducible apply State.engineOp_memOk
   | with_reducible apply MemOk.ite
   | with_reducible apply MemOkOut.ite
   | dsimp only)

theorem execNeAccClear_memOk (uid : Nat) (s : State) (hok : MemOk s) : MemOkOut (execNeAccClear uid s) := by
  unfold execNeAccClear
  try dsimp only
  repeat' (first
   | with_reducible assumption
   | with_reducible apply MemOkOut.next
   | with_reducible apply State.engineOp_memOk
   | with_reducible apply MemOk.ite
   | with_reducible apply MemOkOut.ite
   | dsimp only)

theorem execNeAccDrain_memOk (uid : Nat) (s : State) (hok : MemOk s) : MemOkOut (execNeAccDrain uid s) := by
  unfold execNeAccDrain
  try dsimp only
  repeat' (first
   | with_reducible assumption
   | with_reducible apply MemOkOut.next
   | with_reducible apply State.engineOp_memOk
   | with_reducible apply MemOk.ite
   | with_reducible apply MemOkOut.ite
   | dsimp only)

theorem execNeAccStore_memOk (uid : Nat) (s : State) (hok : MemOk s) : MemOkOut (execNeAccStore uid s) := by
  unfold execNeAccStore
  try dsimp only
  repeat' (first
   | with_reducible assumption
   | with_reducible apply MemOkOut.next
   | with_reducible apply State.engineOp_memOk
   | with_reducible apply MemOk.ite
   | with_reducible apply MemOkOut.ite
   | dsimp only)

theorem execNeAccLoad_memOk (uid : Nat) (s : State) (hok : MemOk s) : MemOkOut (execNeAccLoad uid s) := by
  unfold execNeAccLoad
  try dsimp only
  repeat' (first
   | with_reducible assumption
   | with_reducible apply MemOkOut.next
   | with_reducible apply State.engineOp_memOk
   | with_reducible apply MemOk.ite
   | with_reducible apply MemOkOut.ite
   | dsimp only)

theorem State.saveContext_memOk (s : State) (g area : Nat) (k : CtxSlot) (hok : MemOk s) : MemOk (State.saveContext s g area k) := by
  unfold State.saveContext
  try dsimp only
  repeat' (first
   | with_reducible assumption
   | with_reducible apply State.devClear_memOk
   | with_reducible apply State.devPut_memOk
   | (with_reducible apply MemOk.of_only (State.free_only _) (by decide))
   | with_reducible apply State.pulse_memOk
   | with_reducible apply State.putAll_memOk
   | with_reducible apply MemOk.ite
   | dsimp only)

theorem State.swapOut_memOk (s : State) (g : Nat) (k : CtxSlot) (hok : MemOk s) : MemOk (State.swapOut s g k) := by
  unfold State.swapOut
  try dsimp only
  repeat' (first
   | with_reducible assumption
   | (with_reducible apply MemOk.of_only (State.hold_only _ _) (by decide))
   | (with_reducible apply MemOk.of_only (State.putEngine_only _ _ _) (by decide))
   | with_reducible apply State.saveContext_memOk
   | with_reducible apply MemOk.ite
   | (with_reducible apply MemOk.foldl; intro y a hy)
   | split
   | (with_reducible apply MemOk.of_only Only.set_cmds (by decide))
   | dsimp only)

theorem State.swapIn_memOk (s : State) (g job slot : Nat) (hok : MemOk s) : MemOk (State.swapIn s g job slot) := by
  unfold State.swapIn
  try dsimp only
  repeat' (first
   | with_reducible assumption
   | with_reducible apply State.correctReads_memOk
   | with_reducible apply State.devPut_memOk
   | (with_reducible apply MemOk.of_only (State.putEngine_only _ _ _) (by decide))
   | with_reducible apply MemOk.ite
   | split
   | dsimp only)

theorem State.oust_memOk (s : State) (g : Nat) (k : CtxSlot) (hok : MemOk s) : MemOk (State.oust s g k) := by
  unfold State.oust
  try dsimp only
  repeat' (first
   | with_reducible assumption
   | (with_reducible apply MemOk.of_only (State.putEngine_only _ _ _) (by decide))
   | with_reducible apply State.swapOut_memOk
   | with_reducible apply MemOk.ite
   | split
   | dsimp only)

theorem State.contextSwap_memOk (s : State) (g job : Nat) (hok : MemOk s) : MemOk (State.contextSwap s g job) := by
  unfold State.contextSwap
  try dsimp only
  repeat' (first
   | with_reducible assumption
   | with_reducible apply State.oust_memOk
   | with_reducible apply State.swapIn_memOk
   | with_reducible apply MemOk.ite
   | split
   | dsimp only)

theorem execContextSwap_memOk (engine job : Nat) (s : State) (hok : MemOk s) : MemOkOut (execContextSwap engine job s) := by
  unfold execContextSwap
  try dsimp only
  repeat' (first
   | with_reducible assumption
   | with_reducible apply MemOkOut.next
   | with_reducible apply State.contextSwap_memOk
   | (with_reducible apply MemOk.of_only (State.track_only _) (by decide))
   | with_reducible apply MemOk.ite
   | with_reducible apply MemOkOut.ite
   | dsimp only)

theorem State.rewind_memOk (s : State) (g keep : Nat) (hok : MemOk s) : MemOk (State.rewind s g keep) := by
  unfold State.rewind
  try dsimp only
  repeat' (first
   | with_reducible assumption
   | with_reducible apply State.pulse_memOk
   | (with_reducible apply MemOk.of_only (State.putEngine_only _ _ _) (by decide))
   | with_reducible apply MemOk.ite
   | (with_reducible apply MemOk.foldl; intro y a hy)
   | split
   | dsimp only)

theorem State.preempt_memOk (s : State) (g ticks : Nat) (hok : MemOk s) : MemOk (State.preempt s g ticks) := by
  unfold State.preempt
  try dsimp only
  repeat' (first
   | with_reducible assumption
   | (with_reducible apply MemOk.of_only (State.bumpMax_only _ _ _ _ _ _) (by decide))
   | (with_reducible apply MemOk.of_only (State.err_only _ _ _ _ _ _) (by decide))
   | with_reducible apply State.irq_memOk
   | with_reducible apply State.pulse_memOk
   | (with_reducible apply MemOk.of_only (State.putEngine_only _ _ _) (by decide))
   | with_reducible apply State.rewind_memOk
   | with_reducible apply MemOk.ite
   | split
   | dsimp only)

theorem execPreempt_memOk (engine ticks : Nat) (s : State) (hok : MemOk s) : MemOkOut (execPreempt engine ticks s) := by
  unfold execPreempt
  try dsimp only
  repeat' (first
   | with_reducible assumption
   | with_reducible apply MemOkOut.next
   | with_reducible apply State.preempt_memOk
   | with_reducible apply MemOk.ite
   | with_reducible apply MemOkOut.ite
   | dsimp only)

theorem State.blockedSwap_memOk (s : State) (g : Nat) (hok : MemOk s) : MemOk (State.blockedSwap s g) := by
  unfold State.blockedSwap
  try dsimp only
  repeat' (first
   | with_reducible assumption
   | (with_reducible apply MemOk.of_only (State.at_only _ _) (by decide))
   | (with_reducible apply MemOk.of_only (State.bump_only _ _ _ _ _) (by decide))
   | with_reducible apply State.irq_memOk
   | with_reducible apply State.pulse_memOk
   | (with_reducible apply MemOk.of_only (State.putEngine_only _ _ _) (by decide))
   | with_reducible apply State.swapIn_memOk
   | with_reducible apply State.swapOut_memOk
   | with_reducible apply MemOk.ite
   | split
   | dsimp only)

theorem execBlockedSwap_memOk (engine : Nat) (s : State) (hok : MemOk s) : MemOkOut (execBlockedSwap engine s) := by
  unfold execBlockedSwap
  try dsimp only
  repeat' (first
   | with_reducible assumption
   | with_reducible apply MemOkOut.next
   | with_reducible apply State.blockedSwap_memOk
   | (with_reducible apply MemOk.of_only (State.track_only _) (by decide))
   | with_reducible apply MemOk.ite
   | with_reducible apply MemOkOut.ite
   | dsimp only)

theorem State.landFetch_memOk (s : State) (f : Fetch) (hok : MemOk s) : MemOk (State.landFetch s f) := by
  unfold State.landFetch
  try dsimp only
  repeat' (first
   | with_reducible assumption
   | (with_reducible apply MemOk.of_only (State.advance_only _ _ _ _) (by decide))
   | with_reducible apply State.correctRead_memOk
   | with_reducible apply State.devPut_memOk
   | (with_reducible apply MemOk.of_only (State.markFetched_only _ _) (by decide))
   | with_reducible apply MemOk.ite
   | split
   | dsimp only)

theorem State.arrive_memOk (s : State) (f : Fetch) (hok : MemOk s) : MemOk (State.arrive s f) := by
  unfold State.arrive
  try dsimp only
  repeat' (first
   | with_reducible assumption
   | (with_reducible apply MemOk.of_only (State.faultAll_only _ _ _ _ _) (by decide))
   | with_reducible apply State.landFetch_memOk
   | with_reducible apply MemOk.ite
   | split
   | dsimp only)

theorem State.fetchLanded_memOk (s : State) (uid : Nat) (ok : Bool) (hok : MemOk s) : MemOk (State.fetchLanded s uid ok) := by
  unfold State.fetchLanded
  try dsimp only
  repeat' (first
   | with_reducible assumption
   | with_reducible apply State.arrive_memOk
   | (with_reducible apply MemOk.of_only (State.endAll_only _ _ _ _) (by decide))
   | with_reducible apply MemOk.ite
   | split
   | (with_reducible apply MemOk.of_only Only.set_fetches (by decide))
   | dsimp only)

theorem execFetchLanded_memOk (uid : Nat) (ok : Bool) (s : State) (hok : MemOk s) : MemOkOut (execFetchLanded uid ok s) := by
  unfold execFetchLanded
  try dsimp only
  repeat' (first
   | with_reducible assumption
   | with_reducible apply MemOkOut.next
   | with_reducible apply State.fetchLanded_memOk
   | (with_reducible apply MemOk.of_only (State.track_only _) (by decide))
   | with_reducible apply MemOk.ite
   | with_reducible apply MemOkOut.ite
   | dsimp only)

theorem State.ctxSave_memOk (s : State) (g slot : Nat) (hok : MemOk s) : MemOk (State.ctxSave s g slot) := by
  unfold State.ctxSave
  try dsimp only
  repeat' (first
   | with_reducible assumption
   | with_reducible apply State.swapOut_memOk
   | with_reducible apply MemOk.ite
   | split
   | dsimp only)

theorem execCtxSave_memOk (engine slot : Nat) (s : State) (hok : MemOk s) : MemOkOut (execCtxSave engine slot s) := by
  unfold execCtxSave
  try dsimp only
  repeat' (first
   | with_reducible assumption
   | with_reducible apply MemOkOut.next
   | with_reducible apply State.ctxSave_memOk
   | (with_reducible apply MemOk.of_only (State.setReg_only _ _ _ _ _) (by decide))
   | (with_reducible apply MemOk.of_only (State.track_only _) (by decide))
   | with_reducible apply MemOk.ite
   | with_reducible apply MemOkOut.ite
   | (with_reducible apply MemOk.host; intro y hy)
   | dsimp only)

theorem execVeEwise_memOk (uid : Nat) (s : State) (hok : MemOk s) : MemOkOut (execVeEwise uid s) := by
  unfold execVeEwise
  try dsimp only
  repeat' (first
   | with_reducible assumption
   | with_reducible apply MemOkOut.next
   | with_reducible apply State.engineOp_memOk
   | with_reducible apply MemOk.ite
   | with_reducible apply MemOkOut.ite
   | dsimp only)

theorem execVeFunc_memOk (uid : Nat) (s : State) (hok : MemOk s) : MemOkOut (execVeFunc uid s) := by
  unfold execVeFunc
  try dsimp only
  repeat' (first
   | with_reducible assumption
   | with_reducible apply MemOkOut.next
   | with_reducible apply State.engineOp_memOk
   | with_reducible apply MemOk.ite
   | with_reducible apply MemOkOut.ite
   | dsimp only)

theorem execVeReduce_memOk (uid : Nat) (s : State) (hok : MemOk s) : MemOkOut (execVeReduce uid s) := by
  unfold execVeReduce
  try dsimp only
  repeat' (first
   | with_reducible assumption
   | with_reducible apply MemOkOut.next
   | with_reducible apply State.engineOp_memOk
   | with_reducible apply MemOk.ite
   | with_reducible apply MemOkOut.ite
   | dsimp only)

theorem execVeKsel_memOk (uid : Nat) (s : State) (hok : MemOk s) : MemOkOut (execVeKsel uid s) := by
  unfold execVeKsel
  try dsimp only
  repeat' (first
   | with_reducible assumption
   | with_reducible apply MemOkOut.next
   | with_reducible apply State.engineOp_memOk
   | with_reducible apply MemOk.ite
   | with_reducible apply MemOkOut.ite
   | dsimp only)

theorem execVeDwconv_memOk (uid : Nat) (s : State) (hok : MemOk s) : MemOkOut (execVeDwconv uid s) := by
  unfold execVeDwconv
  try dsimp only
  repeat' (first
   | with_reducible assumption
   | with_reducible apply MemOkOut.next
   | with_reducible apply State.engineOp_memOk
   | with_reducible apply MemOk.ite
   | with_reducible apply MemOkOut.ite
   | dsimp only)

theorem execVeMerge_memOk (uid : Nat) (s : State) (hok : MemOk s) : MemOkOut (execVeMerge uid s) := by
  unfold execVeMerge
  try dsimp only
  repeat' (first
   | with_reducible assumption
   | with_reducible apply MemOkOut.next
   | with_reducible apply State.engineOp_memOk
   | with_reducible apply MemOk.ite
   | with_reducible apply MemOkOut.ite
   | dsimp only)

theorem execVeOptim_memOk (uid : Nat) (s : State) (hok : MemOk s) : MemOkOut (execVeOptim uid s) := by
  unfold execVeOptim
  try dsimp only
  repeat' (first
   | with_reducible assumption
   | with_reducible apply MemOkOut.next
   | with_reducible apply State.engineOp_memOk
   | with_reducible apply MemOk.ite
   | with_reducible apply MemOkOut.ite
   | dsimp only)

theorem State.joinColl_memOk (s : State) (c : Cmd) (g : Nat) (hok : MemOk s) : MemOk (State.joinColl s c g) := by
  unfold State.joinColl
  try dsimp only
  repeat' (first
   | with_reducible assumption
   | with_reducible apply State.edge_memOk
   | (with_reducible apply MemOk.of_only (State.putCmd_only _ _) (by decide))
   | with_reducible apply MemOk.ite
   | split
   | (with_reducible apply MemOk.of_only Only.set_colls (by decide))
   | dsimp only)

theorem State.finishColl_memOk (s : State) (c : Cmd) (g slot : Nat) (x : Coll) (hok : MemOk s) : MemOk (State.finishColl s c g slot x) := by
  unfold State.finishColl
  try dsimp only
  repeat' (first
   | with_reducible assumption
   | with_reducible apply State.applyWork_memOk
   | (with_reducible apply MemOk.of_only (State.bump_only _ _ _ _ _) (by decide))
   | (with_reducible apply MemOk.of_only (State.collOver_only _ _ _ _) (by decide))
   | (with_reducible apply MemOk.of_only (State.endCmd_only _ _ _ _) (by decide))
   | (with_reducible apply MemOk.of_only (State.putCmd_only _ _) (by decide))
   | (with_reducible apply MemOk.of_only (State.putJob_only _ _ _) (by decide))
   | with_reducible apply MemOk.ite
   | split
   | dsimp only)

theorem State.xreduceRun_memOk (s : State) (c : Cmd) (g slot : Nat) (hok : MemOk s) : MemOk (State.xreduceRun s c g slot) := by
  unfold State.xreduceRun
  try dsimp only
  repeat' (first
   | with_reducible assumption
   | with_reducible apply State.correctWork_memOk
   | (with_reducible apply MemOk.of_only (State.endCmd_only _ _ _ _) (by decide))
   | (with_reducible apply MemOk.of_only (State.faultCmd_only _ _ _ _ _) (by decide))
   | with_reducible apply State.finishColl_memOk
   | with_reducible apply State.joinColl_memOk
   | (with_reducible apply MemOk.of_only (State.spendIssue_only _ _ _) (by decide))
   | with_reducible apply State.starts_memOk
   | with_reducible apply State.unitBad_memOk
   | with_reducible apply MemOk.ite
   | split
   | dsimp only)

theorem State.xreduce_memOk (s : State) (uid : Nat) (hok : MemOk s) : MemOk (State.xreduce s uid) := by
  unfold State.xreduce
  try dsimp only
  repeat' (first
   | with_reducible assumption
   | (with_reducible refine State.beforeRun_memOk _ _ _ _ ?_ _ ‹_›)
   | (with_reducible apply MemOk.of_only (State.endUnranked_only _ _ _ _) (by decide))
   | with_reducible apply State.select_memOk
   | (with_reducible apply MemOk.of_only (State.track_only _) (by decide))
   | with_reducible apply State.waitingOp_memOk
   | with_reducible apply State.xreduceRun_memOk
   | with_reducible apply MemOk.ite
   | split
   | (cases ‹none = some _›; done)
   | (with_reducible apply MemOk.getD; intro y hy)
   | dsimp only [Option.getD_none]
   | dsimp only)

theorem execVeXreduce_memOk (uid : Nat) (s : State) (hok : MemOk s) : MemOkOut (execVeXreduce uid s) := by
  unfold execVeXreduce
  try dsimp only
  repeat' (first
   | with_reducible assumption
   | with_reducible apply MemOkOut.next
   | with_reducible apply State.xreduce_memOk
   | with_reducible apply MemOk.ite
   | with_reducible apply MemOkOut.ite
   | dsimp only)

theorem execXpExpand_memOk (uid : Nat) (s : State) (hok : MemOk s) : MemOkOut (execXpExpand uid s) := by
  unfold execXpExpand
  try dsimp only
  repeat' (first
   | with_reducible assumption
   | with_reducible apply MemOkOut.next
   | with_reducible apply State.engineOp_memOk
   | with_reducible apply MemOk.ite
   | with_reducible apply MemOkOut.ite
   | dsimp only)

theorem execXpS2c_memOk (uid : Nat) (s : State) (hok : MemOk s) : MemOkOut (execXpS2c uid s) := by
  unfold execXpS2c
  try dsimp only
  repeat' (first
   | with_reducible assumption
   | with_reducible apply MemOkOut.next
   | with_reducible apply State.engineOp_memOk
   | with_reducible apply MemOk.ite
   | with_reducible apply MemOkOut.ite
   | dsimp only)

theorem execXpC2s_memOk (uid : Nat) (s : State) (hok : MemOk s) : MemOkOut (execXpC2s uid s) := by
  unfold execXpC2s
  try dsimp only
  repeat' (first
   | with_reducible assumption
   | with_reducible apply MemOkOut.next
   | with_reducible apply State.engineOp_memOk
   | with_reducible apply MemOk.ite
   | with_reducible apply MemOkOut.ite
   | dsimp only)

theorem execXpUpsample_memOk (uid : Nat) (s : State) (hok : MemOk s) : MemOkOut (execXpUpsample uid s) := by
  unfold execXpUpsample
  try dsimp only
  repeat' (first
   | with_reducible assumption
   | with_reducible apply MemOkOut.next
   | with_reducible apply State.engineOp_memOk
   | with_reducible apply MemOk.ite
   | with_reducible apply MemOkOut.ite
   | dsimp only)

theorem execXpCopy_memOk (uid : Nat) (s : State) (hok : MemOk s) : MemOkOut (execXpCopy uid s) := by
  unfold execXpCopy
  try dsimp only
  repeat' (first
   | with_reducible assumption
   | with_reducible apply MemOkOut.next
   | with_reducible apply State.engineOp_memOk
   | with_reducible apply MemOk.ite
   | with_reducible apply MemOkOut.ite
   | dsimp only)

theorem State.postPart_memOk (s : State) (w : PostWork) (hok : MemOk s) : MemOk (State.postPart s w) := by
  unfold State.postPart
  try dsimp only
  repeat' (first
   | with_reducible assumption
   | (with_reducible apply MemOk.of_only (State.free_only _) (by decide))
   | with_reducible apply State.putAll_memOk
   | with_reducible apply MemOk.ite
   | dsimp only)

theorem State.postRun_memOk (s : State) (c : Cmd) (w : PostWork) (hok : MemOk s) : MemOk (State.postRun s c w) := by
  unfold State.postRun
  try dsimp only
  repeat' (first
   | with_reducible assumption
   | (with_reducible apply MemOk.of_only (State.bump_only _ _ _ _ _) (by decide))
   | with_reducible apply State.correctReads_memOk
   | (with_reducible apply MemOk.of_only (State.endCmd_only _ _ _ _) (by decide))
   | (with_reducible apply MemOk.of_only (State.faultCmd_only _ _ _ _ _) (by decide))
   | with_reducible apply State.irq_memOk
   | with_reducible apply State.postPart_memOk
   | with_reducible apply State.pulse_memOk
   | with_reducible apply State.putAll_memOk
   | (with_reducible apply MemOk.of_only (State.spendIssue_only _ _ _) (by decide))
   | with_reducible apply State.starts_memOk
   | with_reducible apply State.unitBad_memOk
   | with_reducible apply MemOk.ite
   | split
   | dsimp only)

theorem State.postOp_memOk (s : State) (uid op : Nat) (work : State → Cmd → PostWork) (hok : MemOk s) : MemOk (State.postOp s uid op work) := by
  unfold State.postOp
  try dsimp only
  repeat' (first
   | with_reducible assumption
   | (with_reducible refine State.beforeRun_memOk _ _ _ _ ?_ _ ‹_›)
   | with_reducible apply State.postRun_memOk
   | with_reducible apply MemOk.ite
   | split
   | (cases ‹none = some _›; done)
   | (with_reducible apply MemOk.getD; intro y hy)
   | dsimp only [Option.getD_none]
   | dsimp only)

theorem execPostDecode_memOk (uid : Nat) (s : State) (hok : MemOk s) : MemOkOut (execPostDecode uid s) := by
  unfold execPostDecode
  try dsimp only
  repeat' (first
   | with_reducible assumption
   | with_reducible apply MemOkOut.next
   | with_reducible apply State.postOp_memOk
   | with_reducible apply MemOk.ite
   | with_reducible apply MemOkOut.ite
   | dsimp only)

theorem execPostSuppress_memOk (uid : Nat) (s : State) (hok : MemOk s) : MemOkOut (execPostSuppress uid s) := by
  unfold execPostSuppress
  try dsimp only
  repeat' (first
   | with_reducible assumption
   | with_reducible apply MemOkOut.next
   | with_reducible apply State.postOp_memOk
   | with_reducible apply MemOk.ite
   | with_reducible apply MemOkOut.ite
   | dsimp only)

end Sys2Proof.Machine
end

