-- ==== Sys2Proof/Laws/CanonicalUnits.lean ====
section
/-!
SUPPORT. Each operation keeps the canonical form of every memory: ingest, DMA, turns, the matching engine and the raster engine.
-/

-- One proof at a time: the proofs of this file are many, and run together they take many threads at once.
set_option Elab.async false

set_option linter.unusedTactic false
set_option linter.unreachableTactic false

namespace Sys2Proof.Machine

theorem State.meBegin_memOk (s : State) (c : Cmd) (hok : MemOk s) : MemOk (State.meBegin s c) := by
  unfold State.meBegin
  try dsimp only
  repeat' (first
   | with_reducible assumption
   | with_reducible apply State.correctReads_memOk
   | with_reducible apply State.edge_memOk
   | (with_reducible apply MemOk.of_only (State.endCmd_only _ _ _ _) (by decide))
   | (with_reducible apply MemOk.of_only (State.err_only _ _ _ _ _ _) (by decide))
   | (with_reducible apply MemOk.of_only (State.faultCmd_only _ _ _ _ _) (by decide))
   | with_reducible apply State.irq_memOk
   | (with_reducible apply MemOk.of_only (State.spendIssue_only _ _ _) (by decide))
   | with_reducible apply State.starts_memOk
   | with_reducible apply MemOk.ite
   | split
   | (with_reducible apply MemOk.of_only Only.set_me (by decide))
   | dsimp only)

theorem State.meStart_memOk (s : State) (uid op : Nat) (hok : MemOk s) : MemOk (State.meStart s uid op) := by
  unfold State.meStart
  try dsimp only
  repeat' (first
   | with_reducible assumption
   | (with_reducible apply MemOk.of_only (State.endCmd_only _ _ _ _) (by decide))
   | with_reducible apply State.meBegin_memOk
   | with_reducible apply MemOk.ite
   | split
   | dsimp only)

theorem execMeFlow_memOk (uid : Nat) (s : State) (hok : MemOk s) : MemOkOut (execMeFlow uid s) := by
  unfold execMeFlow
  try dsimp only
  repeat' (first
   | with_reducible assumption
   | with_reducible apply MemOkOut.next
   | with_reducible apply State.meStart_memOk
   | (with_reducible apply MemOk.of_only (State.track_only _) (by decide))
   | with_reducible apply MemOk.ite
   | with_reducible apply MemOkOut.ite
   | dsimp only)

theorem execMeDisparity_memOk (uid : Nat) (s : State) (hok : MemOk s) : MemOkOut (execMeDisparity uid s) := by
  unfold execMeDisparity
  try dsimp only
  repeat' (first
   | with_reducible assumption
   | with_reducible apply MemOkOut.next
   | with_reducible apply State.meStart_memOk
   | (with_reducible apply MemOk.of_only (State.track_only _) (by decide))
   | with_reducible apply MemOk.ite
   | with_reducible apply MemOkOut.ite
   | dsimp only)

theorem State.spill_memOk (s : State) (v : Nat) (r : StageRow) (h : MemOk s) : MemOk (State.spill s v r) := by
  unfold State.spill
  extract_lets n a s0 s1
  have h0 : MemOk s0 := State.correctRead_memOk _ _ _ _ _ h
  exact State.irq_memOk _ _ _ _ (MemOk.of_only (State.bump_only _ _ _ _ _) (by decide) ⟨Memory.copyRun_wf _ _ _ h0.1, h0.2⟩)

theorem State.stageRow_memOk (s : State) (c : Cmd) (row : List (Nat × List Byte)) (hok : MemOk s) : MemOk (State.stageRow s c row) := by
  unfold State.stageRow
  try dsimp only
  repeat' (first
   | with_reducible assumption
   | (with_reducible apply MemOk.of_only (State.advance_only _ _ _ _) (by decide))
   | (with_reducible apply MemOk.of_only (State.bump_only _ _ _ _ _) (by decide))
   | with_reducible apply State.devPut_memOk
   | (with_reducible apply MemOk.of_only (State.endCmd_only _ _ _ _) (by decide))
   | (with_reducible apply MemOk.of_only (State.meDrop_only _) (by decide))
   | with_reducible apply State.pulse_memOk
   | with_reducible apply State.putAll_memOk
   | (with_reducible apply MemOk.of_only (State.putCmd_only _ _) (by decide))
   | (with_reducible apply MemOk.of_only (State.unstall_only _) (by decide))
   | with_reducible apply MemOk.ite
   | split
   | (with_reducible apply MemOk.of_only Only.set_me (by decide))
   | dsimp only)

theorem State.meWait_memOk (s : State) (credit : Bool) (hok : MemOk s) : MemOk (State.meWait s credit) := by
  unfold State.meWait
  try dsimp only
  repeat' (first
   | with_reducible assumption
   | with_reducible apply State.edge_memOk
   | with_reducible apply MemOk.ite
   | split
   | (with_reducible apply MemOk.of_only Only.set_me (by decide))
   | dsimp only)

theorem execMeRowStage_memOk (s : State) (hok : MemOk s) : MemOkOut (execMeRowStage s) := by
  unfold execMeRowStage
  try dsimp only
  repeat' (first
   | with_reducible assumption
   | with_reducible apply MemOkOut.next
   | with_reducible apply State.meWait_memOk
   | with_reducible apply State.spill_memOk
   | with_reducible apply State.stageRow_memOk
   | (with_reducible apply MemOk.of_only (State.track_only _) (by decide))
   | with_reducible apply MemOk.ite
   | with_reducible apply MemOkOut.ite
   | split
   | dsimp only)

theorem execStagingRetentionSpill_memOk (vslot : Nat) (s : State) (hok : MemOk s) : MemOkOut (execStagingRetentionSpill vslot s) := by
  unfold execStagingRetentionSpill
  try dsimp only
  repeat' (first
   | with_reducible assumption
   | with_reducible apply MemOkOut.next
   | (with_reducible apply MemOk.of_only (State.at_only _ _) (by decide))
   | with_reducible apply State.spill_memOk
   | with_reducible apply MemOk.ite
   | with_reducible apply MemOkOut.ite
   | split
   | dsimp only)

theorem execMeRingStall_memOk (s : State) (hok : MemOk s) : MemOkOut (execMeRingStall s) := by
  unfold execMeRingStall
  try dsimp only
  repeat' (first
   | with_reducible assumption
   | with_reducible apply MemOkOut.next
   | (with_reducible apply MemOk.of_only (State.at_only _ _) (by decide))
   | with_reducible apply State.irq_memOk
   | with_reducible apply MemOk.ite
   | with_reducible apply MemOkOut.ite
   | split
   | dsimp only)

theorem execStreamLock_memOk (enc bpc w h rate : Nat) (progressive prot ctype : Bool) (s : State) (hok : MemOk s) : MemOkOut (execStreamLock enc bpc w h rate progressive prot ctype s) := by
  unfold execStreamLock
  try dsimp only
  repeat' (first
   | with_reducible assumption
   | with_reducible apply MemOkOut.next
   | with_reducible apply State.edge_memOk
   | (with_reducible apply MemOk.of_only (State.err_only _ _ _ _ _ _) (by decide))
   | with_reducible apply State.irq_memOk
   | with_reducible apply MemOk.ite
   | with_reducible apply MemOkOut.ite
   | split
   | (with_reducible apply MemOk.of_only Only.set_ingest (by decide))
   | dsimp only)

theorem State.discardFrame_memOk (s : State) (hok : MemOk s) : MemOk (State.discardFrame s) := by
  unfold State.discardFrame
  try dsimp only
  repeat' (first
   | with_reducible assumption
   | (with_reducible apply MemOk.of_only (State.bump_only _ _ _ _ _) (by decide))
   | with_reducible apply State.irq_memOk
   | with_reducible apply State.pulse_memOk
   | with_reducible apply MemOk.ite
   | dsimp only)

theorem State.loseStream_memOk (s : State) (hok : MemOk s) : MemOk (State.loseStream s) := by
  unfold State.loseStream
  try dsimp only
  repeat' (first
   | with_reducible assumption
   | with_reducible apply State.discardFrame_memOk
   | with_reducible apply State.irq_memOk
   | with_reducible apply MemOk.ite
   | split
   | (with_reducible apply MemOk.of_only Only.set_ingest (by decide))
   | dsimp only)

theorem execStreamLost_memOk (tunnel : Bool) (s : State) (hok : MemOk s) : MemOkOut (execStreamLost tunnel s) := by
  unfold execStreamLost
  try dsimp only
  repeat' (first
   | with_reducible assumption
   | with_reducible apply MemOkOut.next
   | with_reducible apply State.irq_memOk
   | with_reducible apply State.loseStream_memOk
   | with_reducible apply MemOk.ite
   | with_reducible apply MemOkOut.ite
   | split
   | (with_reducible apply MemOk.of_only Only.set_link (by decide))
   | dsimp only)

theorem execDpFrameStart_memOk (bt2020 full : Bool) (sdps : List (List Byte)) (s : State) (hok : MemOk s) : MemOkOut (execDpFrameStart bt2020 full sdps s) := by
  unfold execDpFrameStart
  try dsimp only
  repeat' (first
   | with_reducible assumption
   | with_reducible apply MemOkOut.next
   | (with_reducible apply MemOk.of_only (State.beginFrame_only _ _ _ _ _) (by decide))
   | with_reducible apply State.discardFrame_memOk
   | with_reducible apply MemOk.ite
   | with_reducible apply MemOkOut.ite
   | split
   | (with_reducible apply MemOk.of_only Only.set_ingest (by decide))
   | dsimp only)

theorem State.discardHint_memOk (s : State) (hok : MemOk s) : MemOk (State.discardHint s) := by
  unfold State.discardHint
  try dsimp only
  repeat' (first
   | with_reducible assumption
   | (with_reducible apply MemOk.of_only (State.bump_only _ _ _ _ _) (by decide))
   | with_reducible apply State.irq_memOk
   | with_reducible apply State.pulse_memOk
   | with_reducible apply MemOk.ite
   | dsimp only)

theorem State.bindHint_memOk (s : State) (seq : Word) (found : Bool) (n : Nat) (h : MemOk s) : MemOk (State.bindHint s seq found n) := by
  induction n generalizing s with
  | zero => exact h
  | succ n ih =>
    unfold State.bindHint
    extract_lets p d q s1 b
    have h1 : MemOk s1 := MemOk.of_only (State.setReg_only _ _ _ _ _) (by decide) h
    split
    · split
      · exact State.discardHint_memOk _ h1
      · exact h1
    · split
      · exact ih _ (State.discardHint_memOk _ h1)
      · exact h

theorem State.takeHint_memOk (s : State) (seq : Word) (hok : MemOk s) : MemOk (State.takeHint s seq) := by
  unfold State.takeHint
  try dsimp only
  repeat' (first
   | with_reducible assumption
   | with_reducible apply State.bindHint_memOk
   | with_reducible apply MemOk.ite
   | dsimp only)

theorem State.frameWritten_memOk (s : State) (f : SrcFrame) (pixels : List (Nat × Nat × Nat)) (hok : MemOk s) : MemOk (State.frameWritten s f pixels) := by
  unfold State.frameWritten
  try dsimp only
  repeat' (first
   | with_reducible assumption
   | (with_reducible apply MemOk.of_only (State.bump_only _ _ _ _ _) (by decide))
   | with_reducible apply State.devPut_memOk
   | with_reducible apply State.pulse_memOk
   | with_reducible apply MemOk.ite
   | (with_reducible apply MemOk.foldl; intro y a hy)
   | dsimp only)

theorem State.completeFrame_memOk (s : State) (f : SrcFrame) (pixels : List (Nat × Nat × Nat)) (hok : MemOk s) : MemOk (State.completeFrame s f pixels) := by
  unfold State.completeFrame
  extract_lets s1 raw b g s2
  have hs1 : MemOk s1 := by
    unfold s1
    repeat' (first
     | with_reducible assumption
     | (with_reducible apply MemOk.of_only (State.advance_only _ _ _ _) (by decide))
     | with_reducible apply State.frameWritten_memOk
     | with_reducible apply State.takeHint_memOk
     | with_reducible apply MemOk.ite
     | split
     | (with_reducible apply MemOk.of_only Only.set_ingest (by decide))
     | dsimp only)
  have hs2 : MemOk s2 := by
    unfold s2
    repeat' (first
     | with_reducible assumption
     | (with_reducible apply MemOk.of_only (State.advance_only _ _ _ _) (by decide))
     | with_reducible apply State.frameWritten_memOk
     | with_reducible apply State.takeHint_memOk
     | with_reducible apply MemOk.ite
     | split
     | (with_reducible apply MemOk.of_only Only.set_ingest (by decide))
     | dsimp only)
  repeat' (first
   | with_reducible assumption
   | (with_reducible apply MemOk.of_only (State.advance_only _ _ _ _) (by decide))
   | with_reducible apply State.frameWritten_memOk
   | with_reducible apply State.takeHint_memOk
   | with_reducible apply MemOk.ite
   | split
   | (with_reducible apply MemOk.of_only Only.set_ingest (by decide))
   | dsimp only)

theorem execIngestFrameComplete_memOk (pixels : List (Nat × Nat × Nat)) (s : State) (hok : MemOk s) : MemOkOut (execIngestFrameComplete pixels s) := by
  unfold execIngestFrameComplete
  try dsimp only
  repeat' (first
   | with_reducible assumption
   | with_reducible apply MemOkOut.next
   | with_reducible apply State.completeFrame_memOk
   | (with_reducible apply MemOk.of_only (State.track_only _) (by decide))
   | with_reducible apply MemOk.ite
   | with_reducible apply MemOkOut.ite
   | split
   | dsimp only)

theorem State.moveRow_memOk (s : State) (d : DmaDesc) (r n : Nat) (hok : MemOk s) : MemOk (State.moveRow s d r n) := by
  unfold State.moveRow
  try dsimp only
  repeat' (first
   | with_reducible assumption
   | with_reducible apply State.devPut_memOk
   | with_reducible apply State.hostPut_memOk
   | with_reducible apply MemOk.ite
   | split
   | dsimp only)

theorem State.moveBytes_memOk (s : State) (d : DmaDesc) (n : Nat) (hok : MemOk s) : MemOk (State.moveBytes s d n) := by
  unfold State.moveBytes
  try dsimp only
  repeat' (first
   | with_reducible assumption
   | with_reducible apply State.moveRow_memOk
   | with_reducible apply MemOk.ite
   | (with_reducible apply MemOk.foldl; intro y a hy)
   | split
   | dsimp only)

theorem State.countMoved_memOk (s : State) (job k n : Nat) (hok : MemOk s) : MemOk (State.countMoved s job k n) := by
  unfold State.countMoved
  try dsimp only
  repeat' (first
   | with_reducible assumption
   | with_reducible apply State.pulse_memOk
   | (with_reducible apply MemOk.of_only (State.putChannel_only _ _ _) (by decide))
   | with_reducible apply MemOk.ite
   | dsimp only)

theorem State.runDesc_memOk (s : State) (job k : Nat) (d : DmaDesc) (hok : MemOk s) : MemOk (State.runDesc s job k d).1 := by
  unfold State.runDesc
  try dsimp only
  repeat' (first
   | with_reducible assumption
   | with_reducible apply State.correctReads_memOk
   | with_reducible apply State.countMoved_memOk
   | (with_reducible apply MemOk.of_only (State.err_only _ _ _ _ _ _) (by decide))
   | (with_reducible apply MemOk.of_only (State.free_only _) (by decide))
   | with_reducible apply State.irq_memOk
   | with_reducible apply State.moveBytes_memOk
   | with_reducible apply MemOk.ite
   | split
   | dsimp only)

theorem State.runList_memOk (s : State) (job k list : Nat) (host : Bool) (i n : Nat) (h : MemOk s) :
    MemOk (State.runList s job k list host i n).1 := by
  induction n generalizing s i with
  | zero => exact h
  | succ n ih =>
    unfold State.runList
    extract_lets a t r
    have ht : MemOk t := by
      unfold t
      split
      · exact h
      · exact State.correctReads_memOk _ _ _ _ h
    have hr : MemOk r.1 := State.runDesc_memOk _ _ _ _ ht
    split
    · dsimp only
      split
      · exact State.irq_memOk _ _ _ _ h
      · exact h
    · split
      · exact State.irq_memOk _ _ _ _ (MemOk.of_only (State.err_only _ _ _ _ _ _) (by decide) h)
      · split
        · exact hr
        · exact ih _ _ (State.pulse_memOk _ _ _ _ _ _ hr)

theorem State.listPart_memOk (s : State) (job k list : Nat) (host : Bool) (i budget n : Nat) (hok : MemOk s) :
    MemOk (State.listPart s job k list host i budget n) := by
  induction n generalizing s i budget with
  | zero => exact hok
  | succ n ih =>
    have hr : ∀ d, MemOk (s.runDesc job k d).1 := fun d => State.runDesc_memOk _ _ _ _ hok
    unfold State.listPart
    extract_lets a d m
    clear_value d m
    split
    · rename_i t h
      have ht : MemOk t := by have := hr d; rw [h] at this; exact this
      split
      · exact State.countMoved_memOk _ _ _ _ (State.moveBytes_memOk _ _ _ hok)
      · exact ih _ _ _ ht
    · exact hok

theorem State.dmaRun_memOk (s : State) (c : Cmd) (k : Nat) (hok : MemOk s) : MemOk (State.dmaRun s c k) := by
  unfold State.dmaRun
  try dsimp only
  repeat' (first
   | with_reducible assumption
   | (with_reducible apply MemOk.of_only (State.endCmd_only _ _ _ _) (by decide))
   | (with_reducible apply MemOk.of_only (State.faultCmd_only _ _ _ _ _) (by decide))
   | with_reducible apply State.runList_memOk
   | with_reducible apply State.starts_memOk
   | with_reducible apply MemOk.ite
   | split
   | dsimp only)

theorem execDmaCopy_memOk (uid : Nat) (s : State) (hok : MemOk s) : MemOkOut (execDmaCopy uid s) := by
  unfold execDmaCopy
  try dsimp only
  repeat' (first
   | with_reducible assumption
   | with_reducible apply MemOkOut.next
   | with_reducible apply State.dmaRun_memOk
   | (with_reducible apply MemOk.of_only (State.track_only _) (by decide))
   | with_reducible apply MemOk.ite
   | with_reducible apply MemOkOut.ite
   | split
   | dsimp only)

theorem State.chunkError_memOk (s : State) (e : Nat × Nat) (hok : MemOk s) : MemOk (State.chunkError s e) := by
  unfold State.chunkError
  try dsimp only
  repeat' (first
   | with_reducible assumption
   | (with_reducible apply MemOk.of_only (State.err_only _ _ _ _ _ _) (by decide))
   | with_reducible apply State.irq_memOk
   | with_reducible apply MemOk.ite
   | split
   | dsimp only)

theorem State.markOsd_memOk (s : State) (p : RPass) (k : Nat) (hok : MemOk s) : MemOk (State.markOsd s p k) := by
  unfold State.markOsd
  try dsimp only
  repeat' (first
   | with_reducible assumption
   | with_reducible apply State.putEntry_memOk
   | with_reducible apply MemOk.ite
   | split
   | (with_reducible apply MemOk.of_only Only.set_raster (by decide))
   | dsimp only)

theorem State.markBinned_memOk (s : State) (f : Nat) (hok : MemOk s) : MemOk (State.markBinned s f) := by
  unfold State.markBinned
  try dsimp only
  repeat' (first
   | with_reducible assumption
   | with_reducible apply State.putHead_memOk
   | with_reducible apply MemOk.ite
   | split
   | (with_reducible apply MemOk.of_only Only.set_raster (by decide))
   | dsimp only)

theorem State.readyTile_memOk (s : State) (f t : Nat) (hok : MemOk s) : MemOk (State.readyTile s f t) := by
  unfold State.readyTile
  try dsimp only
  repeat' (first
   | with_reducible assumption
   | with_reducible apply State.setTileState_memOk
   | with_reducible apply MemOk.ite
   | split
   | dsimp only)

theorem State.readyTiles_memOk (s : State) (f : Nat) (hok : MemOk s) : MemOk (State.readyTiles s f) := by
  unfold State.readyTiles
  try dsimp only
  repeat' (first
   | with_reducible assumption
   | with_reducible apply State.readyTile_memOk
   | with_reducible apply MemOk.ite
   | (with_reducible apply MemOk.foldl; intro y a hy)
   | dsimp only)

theorem State.endPass_memOk (s : State) (p : RPass) (hok : MemOk s) : MemOk (State.endPass s p) := by
  unfold State.endPass
  try dsimp only
  repeat' (first
   | with_reducible assumption
   | (with_reducible apply MemOk.of_only (State.dropPass_only _ _) (by decide))
   | (with_reducible apply MemOk.of_only (State.endCmd_only _ _ _ _) (by decide))
   | (with_reducible apply MemOk.of_only (State.faultWith_only _ _ _ _ _) (by decide))
   | with_reducible apply State.rasterRest_memOk
   | with_reducible apply MemOk.ite
   | split
   | dsimp only)

theorem State.settleRaster_memOk (s : State) (hok : MemOk s) : MemOk (State.settleRaster s) := by
  unfold State.settleRaster
  try dsimp only
  repeat' (first
   | with_reducible assumption
   | (with_reducible apply MemOk.of_only (State.dropDead_only _) (by decide))
   | with_reducible apply State.endPass_memOk
   | with_reducible apply MemOk.ite
   | (with_reducible apply MemOk.foldl; intro y a hy)
   | dsimp only)

theorem State.flushBin_memOk (s : State) (uid k : Nat) (hok : MemOk s) : MemOk (State.flushBin s uid k) := by
  unfold State.flushBin
  try dsimp only
  repeat' (first
   | with_reducible assumption
   | (with_reducible apply MemOk.of_only (State.bump_only _ _ _ _ _) (by decide))
   | with_reducible apply State.chunkError_memOk
   | with_reducible apply State.correctReads_memOk
   | with_reducible apply State.devPut_memOk
   | with_reducible apply State.pulse_memOk
   | with_reducible apply State.putAll_memOk
   | (with_reducible apply MemOk.of_only (State.putPass_only _ _) (by decide))
   | with_reducible apply State.readyTile_memOk
   | with_reducible apply MemOk.ite
   | split
   | dsimp only)

theorem State.partialFlush_memOk (s : State) (hok : MemOk s) : MemOk (State.partialFlush s) := by
  unfold State.partialFlush
  try dsimp only
  repeat' (first
   | with_reducible assumption
   | with_reducible apply State.flushBin_memOk
   | with_reducible apply State.irq_memOk
   | with_reducible apply State.settleRaster_memOk
   | with_reducible apply MemOk.ite
   | (with_reducible apply MemOk.foldl; intro y a hy)
   | split
   | dsimp only)

theorem State.addRef_memOk (s : State) (p : RPass) (x : Packet) (k : Nat) (fresh : Bool) (hok : MemOk s) : MemOk (State.addRef s p x k fresh).1 := by
  unfold State.addRef
  try dsimp only
  repeat' (first
   | with_reducible assumption
   | (with_reducible apply MemOk.of_only (State.freshChunks_only _ _ _) (by decide))
   | with_reducible apply State.markOsd_memOk
   | (with_reducible apply MemOk.of_only (State.putPass_only _ _) (by decide))
   | with_reducible apply MemOk.ite
   | split
   | dsimp only)

theorem State.park_memOk (s : State) (uid : Nat) (hok : MemOk s) : MemOk (State.park s uid) := by
  unfold State.park
  try dsimp only
  repeat' (first
   | with_reducible assumption
   | with_reducible apply State.edge_memOk
   | with_reducible apply MemOk.ite
   | (with_reducible apply MemOk.of_only Only.set_raster (by decide))
   | dsimp only)

theorem State.growFault_memOk (s : State) (uid : Nat) (hok : MemOk s) : MemOk (State.growFault s uid) := by
  unfold State.growFault
  try dsimp only
  repeat' (first
   | with_reducible assumption
   | with_reducible apply State.edge_memOk
   | (with_reducible apply MemOk.of_only (State.free_only _) (by decide))
   | with_reducible apply State.irq_memOk
   | with_reducible apply MemOk.ite
   | (with_reducible apply MemOk.of_only Only.set_raster (by decide))
   | dsimp only)

theorem State.refInto_memOk (s : State) (c : Cmd) (x : Packet) (e : Nat × Nat) (hok : MemOk s) : MemOk (State.refInto s c x e).1 := by
  unfold State.refInto
  try dsimp only
  repeat' (first
   | with_reducible assumption
   | with_reducible apply State.addRef_memOk
   | with_reducible apply MemOk.ite
   | split
   | dsimp only)

theorem State.refOne_memOk (c : Cmd) (late : Option (Nat × Nat)) (x : Packet) (acc : State × Bool) (e : Nat × Nat) (hok : MemOk acc.1) : MemOk (State.refOne c late x acc e).1 := by
  unfold State.refOne
  try dsimp only
  repeat' (first
   | with_reducible assumption
   | with_reducible apply State.growFault_memOk
   | with_reducible apply State.park_memOk
   | with_reducible apply State.partialFlush_memOk
   | with_reducible apply State.refInto_memOk
   | (with_reducible apply MemOk.of_only (State.setDrawn_only _ _ _) (by decide))
   | with_reducible apply MemOk.ite
   | split
   | dsimp only)

theorem State.recordOne_memOk (c : Cmd) (late : Option (Nat × Nat)) (acc : State × Bool) (x : Packet) (hok : MemOk acc.1) : MemOk (State.recordOne c late acc x).1 := by
  unfold State.recordOne
  try dsimp only
  repeat' (first
   | with_reducible assumption
   | (with_reducible apply MemOk.of_only (State.bump_only _ _ _ _ _) (by decide))
   | with_reducible apply State.pulse_memOk
   | with_reducible apply State.refOne_memOk
   | (with_reducible apply MemOk.of_only (State.setDrawn_only _ _ _) (by decide))
   | with_reducible apply MemOk.ite
   | (with_reducible apply MemOk.foldl_fst; intro y a r hr hy; subst hr)
   | split
   | dsimp only)

theorem State.drawLate_memOk (s : State) (c : Cmd) (late : Option (Nat × Nat)) (hok : MemOk s) : MemOk (State.drawLate s c late) := by
  unfold State.drawLate
  try dsimp only
  repeat' (first
   | with_reducible assumption
   | with_reducible apply State.correctReads_memOk
   | (with_reducible apply MemOk.of_only (State.endCmd_only _ _ _ _) (by decide))
   | (with_reducible apply MemOk.of_only (State.faultCmd_only _ _ _ _ _) (by decide))
   | with_reducible apply State.recordOne_memOk
   | with_reducible apply MemOk.ite
   | (with_reducible apply MemOk.foldl_fst; intro y a r hr hy; subst hr)
   | split
   | (with_reducible apply MemOk.of_only Only.set_raster (by decide))
   | dsimp only)

theorem State.drawOn_memOk (s : State) (c : Cmd) (hok : MemOk s) : MemOk (State.drawOn s c) := by
  unfold State.drawOn
  try dsimp only
  repeat' (first
   | with_reducible assumption
   | with_reducible apply State.drawLate_memOk
   | with_reducible apply MemOk.ite
   | dsimp only)

theorem MemOk.rasterOp {x : State} {uid op : Nat} {fails : State → Cmd → List (Status × Nat)} {go : State → Cmd → State}
    (hgo : ∀ y c, MemOk y → MemOk (go y c)) (hx : MemOk x) : MemOk (x.rasterOp uid op fails go) := by
  have key : ∀ y, MemOk y → MemOk y.rasterRest.track := fun y hy =>
    MemOk.of_only (State.track_only _) (by decide) (State.rasterRest_memOk _ hy)
  have hend : ∀ st k, MemOk (x.endCmd uid st k) := fun st k => MemOk.of_only (State.endCmd_only _ _ _ _) (by decide) hx
  unfold State.rasterOp
  split
  · exact hx
  · refine key _ ?_
    split
    · exact hgo _ _ hx
    · split
      · exact hend _ _
      · split
        · exact hend _ _
        · exact hgo _ _ hx

theorem State.passOpen_memOk (s : State) (c : Cmd) (hok : MemOk s) : MemOk (State.passOpen s c) := by
  unfold State.passOpen
  try dsimp only
  repeat' (first
   | with_reducible assumption
   | with_reducible apply State.correctReads_memOk
   | (with_reducible apply MemOk.of_only (State.endCmd_only _ _ _ _) (by decide))
   | (with_reducible apply MemOk.of_only (State.faultCmd_only _ _ _ _ _) (by decide))
   | with_reducible apply State.starts_memOk
   | with_reducible apply MemOk.ite
   | split
   | (with_reducible apply MemOk.of_only Only.set_raster (by decide))
   | dsimp only)

theorem execRsPassOpen_memOk (uid : Nat) (s : State) (hok : MemOk s) : MemOkOut (execRsPassOpen uid s) := by
  unfold execRsPassOpen
  try dsimp only
  repeat' (first
   | with_reducible assumption
   | with_reducible apply MemOkOut.next
   | with_reducible apply State.passOpen_memOk
   | with_reducible apply MemOk.ite
   | with_reducible apply MemOkOut.ite
   | (with_reducible apply MemOk.rasterOp; intro y c hy)
   | dsimp only)

theorem State.drawStart_memOk (s : State) (c : Cmd) (hok : MemOk s) : MemOk (State.drawStart s c) := by
  unfold State.drawStart
  try dsimp only
  repeat' (first
   | with_reducible assumption
   | with_reducible apply State.drawOn_memOk
   | with_reducible apply State.starts_memOk
   | with_reducible apply MemOk.ite
   | split
   | dsimp only)

theorem execRsDraw_memOk (uid : Nat) (s : State) (hok : MemOk s) : MemOkOut (execRsDraw uid s) := by
  unfold execRsDraw
  try dsimp only
  repeat' (first
   | with_reducible assumption
   | with_reducible apply MemOkOut.next
   | with_reducible apply State.drawStart_memOk
   | with_reducible apply MemOk.ite
   | with_reducible apply MemOkOut.ite
   | (with_reducible apply MemOk.rasterOp; intro y c hy)
   | dsimp only)

theorem State.resumeStalled_memOk (s : State) (hok : MemOk s) : MemOk (State.resumeStalled s) := by
  unfold State.resumeStalled
  try dsimp only
  repeat' (first
   | with_reducible assumption
   | with_reducible apply State.drawOn_memOk
   | with_reducible apply MemOk.ite
   | (with_reducible apply MemOk.foldl; intro y a hy)
   | split
   | dsimp only)

theorem execGrowTimeout_memOk (uid : Nat) (s : State) (hok : MemOk s) : MemOkOut (execGrowTimeout uid s) := by
  unfold execGrowTimeout
  try dsimp only
  repeat' (first
   | with_reducible assumption
   | with_reducible apply MemOkOut.next
   | (with_reducible apply MemOk.of_only (State.at_only _ _) (by decide))
   | (with_reducible apply MemOk.of_only (State.bump_only _ _ _ _ _) (by decide))
   | with_reducible apply State.drawLate_memOk
   | with_reducible apply State.irq_memOk
   | with_reducible apply State.resumeStalled_memOk
   | (with_reducible apply MemOk.of_only (State.track_only _) (by decide))
   | with_reducible apply MemOk.ite
   | with_reducible apply MemOkOut.ite
   | split
   | dsimp only)

theorem execRasterUnpark_memOk (uid : Nat) (s : State) (hok : MemOk s) : MemOkOut (execRasterUnpark uid s) := by
  unfold execRasterUnpark
  try dsimp only
  repeat' (first
   | with_reducible assumption
   | with_reducible apply MemOkOut.next
   | with_reducible apply State.drawOn_memOk
   | (with_reducible apply MemOk.of_only (State.track_only _) (by decide))
   | with_reducible apply MemOk.ite
   | with_reducible apply MemOkOut.ite
   | split
   | dsimp only)

theorem State.passClose_memOk (s : State) (c : Cmd) (hok : MemOk s) : MemOk (State.passClose s c) := by
  unfold State.passClose
  try dsimp only
  repeat' (first
   | with_reducible assumption
   | with_reducible apply State.endPass_memOk
   | with_reducible apply State.markBinned_memOk
   | (with_reducible apply MemOk.of_only (State.putPass_only _ _) (by decide))
   | with_reducible apply State.readyTiles_memOk
   | with_reducible apply State.resumeStalled_memOk
   | with_reducible apply State.starts_memOk
   | with_reducible apply MemOk.ite
   | split
   | dsimp only)

theorem execRsPassClose_memOk (uid : Nat) (s : State) (hok : MemOk s) : MemOkOut (execRsPassClose uid s) := by
  unfold execRsPassClose
  try dsimp only
  repeat' (first
   | with_reducible assumption
   | with_reducible apply MemOkOut.next
   | with_reducible apply State.passClose_memOk
   | with_reducible apply MemOk.ite
   | with_reducible apply MemOkOut.ite
   | (with_reducible apply MemOk.rasterOp; intro y c hy)
   | dsimp only)

theorem State.growPageAdd_memOk (s : State) (hi : Nat) (hok : MemOk s) : MemOk (State.growPageAdd s hi) := by
  unfold State.growPageAdd
  try dsimp only
  repeat' (first
   | with_reducible assumption
   | (with_reducible apply MemOk.of_only (State.err_only _ _ _ _ _ _) (by decide))
   | with_reducible apply State.resumeStalled_memOk
   | with_reducible apply MemOk.ite
   | split
   | (with_reducible apply MemOk.of_only Only.set_raster (by decide))
   | dsimp only)

theorem execGrowPageAdd_memOk (value : Nat) (s : State) (hok : MemOk s) : MemOkOut (execGrowPageAdd value s) := by
  unfold execGrowPageAdd
  try dsimp only
  repeat' (first
   | with_reducible assumption
   | with_reducible apply MemOkOut.next
   | with_reducible apply State.growPageAdd_memOk
   | (with_reducible apply MemOk.of_only (State.track_only _) (by decide))
   | with_reducible apply MemOk.ite
   | with_reducible apply MemOkOut.ite
   | (with_reducible apply MemOk.hostWo; intro y hy)
   | dsimp only)

theorem State.failTile_memOk (s : State) (uid : Nat) (e : Nat × Nat) (hok : MemOk s) : MemOk (State.failTile s uid e) := by
  unfold State.failTile
  try dsimp only
  repeat' (first
   | with_reducible assumption
   | with_reducible apply State.chunkError_memOk
   | (with_reducible apply MemOk.of_only (State.dropTile_only _ _) (by decide))
   | (with_reducible apply MemOk.of_only (State.faultCmd_only _ _ _ _ _) (by decide))
   | with_reducible apply MemOk.ite
   | dsimp only)

theorem State.meshOne_memOk (c : Cmd) (d : WarpDesc) (acc : State × Bool) (t : Nat × (Nat × Nat) × Bool) (hok : MemOk acc.1) : MemOk (State.meshOne c d acc t).1 := by
  unfold State.meshOne
  try dsimp only
  repeat' (first
   | with_reducible assumption
   | (with_reducible apply MemOk.of_only (State.bump_only _ _ _ _ _) (by decide))
   | (with_reducible apply MemOk.of_only (State.meshRef_only _ _ _ _) (by decide))
   | with_reducible apply State.pulse_memOk
   | (with_reducible apply MemOk.of_only (State.putTile_only _ _) (by decide))
   | with_reducible apply MemOk.ite
   | (with_reducible apply MemOk.foldl_fst; intro y a r hr hy; subst hr)
   | split
   | dsimp only)

theorem State.warpOn_memOk (s : State) (c : Cmd) (w : RTile) (hok : MemOk s) : MemOk (State.warpOn s c w) := by
  unfold State.warpOn
  try dsimp only
  repeat' (first
   | with_reducible assumption
   | with_reducible apply State.correctReads_memOk
   | with_reducible apply State.failTile_memOk
   | with_reducible apply State.meshOne_memOk
   | (with_reducible apply MemOk.of_only (State.putTile_only _ _) (by decide))
   | with_reducible apply MemOk.ite
   | (with_reducible apply MemOk.foldl_fst; intro y a r hr hy; subst hr)
   | split
   | dsimp only)

theorem State.warp_memOk (s : State) (c : Cmd) (hok : MemOk s) : MemOk (State.warp s c) := by
  unfold State.warp
  try dsimp only
  repeat' (first
   | with_reducible assumption
   | (with_reducible apply MemOk.of_only (State.addTile_only _ _) (by decide))
   | with_reducible apply State.correctReads_memOk
   | (with_reducible apply MemOk.of_only (State.faultCmd_only _ _ _ _ _) (by decide))
   | with_reducible apply State.starts_memOk
   | with_reducible apply State.warpOn_memOk
   | with_reducible apply MemOk.ite
   | split
   | dsimp only)

theorem State.warpItem_memOk (s : State) (c : Cmd) (w : RTile) (k : Nat) (hok : MemOk s) : MemOk (State.warpItem s c w k) := by
  unfold State.warpItem
  try dsimp only
  repeat' (first
   | with_reducible assumption
   | with_reducible apply State.correctReads_memOk
   | (with_reducible apply MemOk.of_only (State.endTile_only _ _ _ _) (by decide))
   | with_reducible apply State.failTile_memOk
   | with_reducible apply State.putAll_memOk
   | (with_reducible apply MemOk.of_only (State.putTile_only _ _) (by decide))
   | with_reducible apply MemOk.ite
   | split
   | dsimp only)

theorem execRsWarp_memOk (uid : Nat) (s : State) (hok : MemOk s) : MemOkOut (execRsWarp uid s) := by
  unfold execRsWarp
  try dsimp only
  repeat' (first
   | with_reducible assumption
   | with_reducible apply MemOkOut.next
   | with_reducible apply State.warp_memOk
   | with_reducible apply MemOk.ite
   | with_reducible apply MemOkOut.ite
   | (with_reducible apply MemOk.rasterOp; intro y c hy)
   | dsimp only)

theorem State.markProt_memOk (s : State) (c : Cmd) (hok : MemOk s) : MemOk (State.markProt s c) := by
  unfold State.markProt
  try dsimp only
  repeat' (first
   | with_reducible assumption
   | with_reducible apply State.putEntry_memOk
   | with_reducible apply MemOk.ite
   | split
   | dsimp only)

theorem State.mask_memOk (s : State) (c : Cmd) (hok : MemOk s) : MemOk (State.mask s c) := by
  unfold State.mask
  try dsimp only
  repeat' (first
   | with_reducible assumption
   | (with_reducible apply MemOk.of_only (State.addTile_only _ _) (by decide))
   | (with_reducible apply MemOk.of_only (State.bump_only _ _ _ _ _) (by decide))
   | with_reducible apply State.correctReads_memOk
   | (with_reducible apply MemOk.of_only (State.faultCmd_only _ _ _ _ _) (by decide))
   | with_reducible apply State.starts_memOk
   | with_reducible apply MemOk.ite
   | split
   | dsimp only)

theorem State.maskWrite_memOk (s : State) (c : Cmd) (d : MaskDesc) (k : Nat) (cut : Option Nat) (hok : MemOk s) : MemOk (State.maskWrite s c d k cut) := by
  unfold State.maskWrite
  try dsimp only
  repeat' (first
   | with_reducible assumption
   | with_reducible apply State.correctReads_memOk
   | with_reducible apply State.markProt_memOk
   | with_reducible apply State.putAll_memOk
   | with_reducible apply MemOk.ite
   | split
   | dsimp only)

theorem State.maskItem_memOk (s : State) (c : Cmd) (w : RTile) (k : Nat) (hok : MemOk s) : MemOk (State.maskItem s c w k) := by
  unfold State.maskItem
  try dsimp only
  repeat' (first
   | with_reducible assumption
   | (with_reducible apply MemOk.of_only (State.endTile_only _ _ _ _) (by decide))
   | with_reducible apply State.failTile_memOk
   | with_reducible apply State.maskWrite_memOk
   | (with_reducible apply MemOk.of_only (State.putTile_only _ _) (by decide))
   | with_reducible apply MemOk.ite
   | split
   | dsimp only)

theorem execRsMask_memOk (uid : Nat) (s : State) (hok : MemOk s) : MemOkOut (execRsMask uid s) := by
  unfold execRsMask
  try dsimp only
  repeat' (first
   | with_reducible assumption
   | with_reducible apply MemOkOut.next
   | with_reducible apply State.mask_memOk
   | with_reducible apply MemOk.ite
   | with_reducible apply MemOkOut.ite
   | (with_reducible apply MemOk.rasterOp; intro y c hy)
   | dsimp only)

theorem State.runBin_memOk (s : State) (uid k : Nat) (hok : MemOk s) : MemOk (State.runBin s uid k) := by
  unfold State.runBin
  try dsimp only
  repeat' (first
   | with_reducible assumption
   | with_reducible apply State.chunkError_memOk
   | with_reducible apply State.correctReads_memOk
   | with_reducible apply State.endPass_memOk
   | with_reducible apply State.putAll_memOk
   | (with_reducible apply MemOk.of_only (State.putPass_only _ _) (by decide))
   | with_reducible apply State.readyTile_memOk
   | with_reducible apply MemOk.ite
   | split
   | dsimp only)

theorem State.runItem_memOk (s : State) (i : ItemKey) (hok : MemOk s) : MemOk (State.runItem s i) := by
  unfold State.runItem
  try dsimp only
  repeat' (first
   | with_reducible assumption
   | with_reducible apply State.maskItem_memOk
   | with_reducible apply State.runBin_memOk
   | with_reducible apply State.warpItem_memOk
   | with_reducible apply MemOk.ite
   | split
   | dsimp only)

theorem execRasterBinItem_memOk (core : Nat) (s : State) (hok : MemOk s) : MemOkOut (execRasterBinItem core s) := by
  unfold execRasterBinItem
  try dsimp only
  repeat' (first
   | with_reducible assumption
   | with_reducible apply MemOkOut.next
   | with_reducible apply State.rasterRest_memOk
   | with_reducible apply State.resumeStalled_memOk
   | with_reducible apply State.runItem_memOk
   | with_reducible apply State.settleRaster_memOk
   | (with_reducible apply MemOk.of_only (State.track_only _) (by decide))
   | with_reducible apply MemOk.ite
   | with_reducible apply MemOkOut.ite
   | split
   | dsimp only)

theorem State.putReplicas_memOk (s : State) (job w off : Nat) (bs : List Byte) (hok : MemOk s) : MemOk (State.putReplicas s job w off bs) := by
  unfold State.putReplicas
  try dsimp only
  repeat' (first
   | with_reducible assumption
   | with_reducible apply State.devPut_memOk
   | with_reducible apply MemOk.ite
   | (with_reducible apply MemOk.foldl; intro y a hy)
   | dsimp only)

theorem State.readScaleDir_memOk (s : State) (job : Nat) (hok : MemOk s) : MemOk (State.readScaleDir s job) := by
  unfold State.readScaleDir
  try dsimp only
  repeat' (first
   | with_reducible assumption
   | with_reducible apply State.putDir_memOk
   | (with_reducible apply MemOk.of_only (State.putJob_only _ _ _) (by decide))
   | with_reducible apply MemOk.ite
   | split
   | dsimp only)

theorem State.readAdaptDir_memOk (s : State) (job : Nat) (hok : MemOk s) : MemOk (State.readAdaptDir s job) := by
  unfold State.readAdaptDir
  try dsimp only
  repeat' (first
   | with_reducible assumption
   | with_reducible apply State.putDir_memOk
   | (with_reducible apply MemOk.of_only (State.putJob_only _ _ _) (by decide))
   | with_reducible apply MemOk.ite
   | split
   | dsimp only)

theorem State.createJob_memOk (s : State) (job v : Nat) (hok : MemOk s) : MemOk (State.createJob s job v) := by
  unfold State.createJob
  try dsimp only
  repeat' (first
   | with_reducible assumption
   | (with_reducible apply MemOk.of_only (State.forgetJob_only _ _) (by decide))
   | (with_reducible apply MemOk.of_only (State.keepWeights_only _ _ _) (by decide))
   | (with_reducible apply MemOk.of_only (State.putJob_only _ _ _) (by decide))
   | with_reducible apply State.readAdaptDir_memOk
   | with_reducible apply State.readScaleDir_memOk
   | with_reducible apply MemOk.ite
   | dsimp only)

theorem State.jobCfgWrite_memOk (s : State) (job value : Nat) (hok : MemOk s) : MemOk (State.jobCfgWrite s job value) := by
  unfold State.jobCfgWrite
  try dsimp only
  repeat' (first
   | with_reducible assumption
   | (with_reducible apply MemOk.of_only (State.brokenCfg_only _ _ _) (by decide))
   | with_reducible apply State.createJob_memOk
   | (with_reducible apply MemOk.of_only (State.err_only _ _ _ _ _ _) (by decide))
   | (with_reducible apply MemOk.of_only (State.putJob_only _ _ _) (by decide))
   | (with_reducible apply MemOk.of_only (State.removeJob_only _ _ _) (by decide))
   | with_reducible apply State.settleState_memOk
   | (with_reducible apply MemOk.of_only (State.track_only _) (by decide))
   | with_reducible apply MemOk.ite
   | split
   | dsimp only)

theorem execJobValidSet_memOk (value : Nat) (s : State) (hok : MemOk s) : MemOkOut (execJobValidSet value s) := by
  unfold execJobValidSet
  try dsimp only
  repeat' (first
   | with_reducible assumption
   | with_reducible apply MemOkOut.next
   | with_reducible apply State.jobCfgWrite_memOk
   | with_reducible apply MemOk.ite
   | with_reducible apply MemOkOut.ite
   | (with_reducible apply MemOk.host; intro y hy)
   | dsimp only)

theorem execJobValidClear_memOk (value : Nat) (s : State) (hok : MemOk s) : MemOkOut (execJobValidClear value s) := by
  unfold execJobValidClear
  try dsimp only
  repeat' (first
   | with_reducible assumption
   | with_reducible apply MemOkOut.next
   | with_reducible apply State.jobCfgWrite_memOk
   | with_reducible apply MemOk.ite
   | with_reducible apply MemOkOut.ite
   | (with_reducible apply MemOk.host; intro y hy)
   | dsimp only)

theorem State.putHeader_memOk (s : State) (job w since cur : Nat) (hok : MemOk s) : MemOk (State.putHeader s job w since cur) := by
  unfold State.putHeader
  try dsimp only
  repeat' (first
   | with_reducible assumption
   | with_reducible apply State.putReplicas_memOk
   | with_reducible apply MemOk.ite
   | dsimp only)

theorem State.putCopy_memOk (s : State) (job w : Nat) (t : Table) (bs : List Byte) (hok : MemOk s) : MemOk (State.putCopy s job w t bs) := by
  unfold State.putCopy
  try dsimp only
  repeat' (first
   | with_reducible assumption
   | with_reducible apply State.putReplicas_memOk
   | with_reducible apply MemOk.ite
   | dsimp only)

theorem State.flip_memOk (s : State) (job epoch : Nat) (ws : List Nat) (hok : MemOk s) : MemOk (State.flip s job epoch ws) := by
  unfold State.flip
  try dsimp only
  repeat' (first
   | with_reducible assumption
   | with_reducible apply State.putHeader_memOk
   | with_reducible apply MemOk.ite
   | (with_reducible apply MemOk.foldl; intro y a hy)
   | split
   | dsimp only)

theorem State.rescaleEntry_memOk (s : State) (job : Nat) (e : DirEntry) (sc : Val) (hok : MemOk s) : MemOk (State.rescaleEntry s job e sc) := by
  unfold State.rescaleEntry
  try dsimp only
  repeat' (first
   | with_reducible assumption
   | with_reducible apply State.putCopy_memOk
   | with_reducible apply MemOk.ite
   | (with_reducible apply MemOk.foldl; intro y a hy)
   | split
   | dsimp only)

theorem State.dirErr_memOk (s : State) (job code entry : Nat) (hok : MemOk s) : MemOk (State.dirErr s job code entry) := by
  unfold State.dirErr
  try dsimp only
  repeat' (first
   | with_reducible assumption
   | with_reducible apply State.putDir_memOk
   | with_reducible apply MemOk.ite
   | dsimp only)

theorem State.autoEntry_memOk (s : State) (job : Nat) (e : DirEntry) (x : SlotSum) (hok : MemOk s) : MemOk (State.autoEntry s job e x).1 := by
  unfold State.autoEntry
  try dsimp only
  repeat' (first
   | with_reducible assumption
   | with_reducible apply State.dirErr_memOk
   | with_reducible apply State.rescaleEntry_memOk
   | with_reducible apply MemOk.ite
   | split
   | dsimp only)

theorem State.applyStaged_memOk (s : State) (job : Nat) (e : DirEntry) (hok : MemOk s) : MemOk (State.applyStaged s job e) := by
  unfold State.applyStaged
  try dsimp only
  repeat' (first
   | with_reducible assumption
   | with_reducible apply State.putCopy_memOk
   | with_reducible apply State.putDir_memOk
   | with_reducible apply MemOk.ite
   | (with_reducible apply MemOk.foldl; intro y a hy)
   | split
   | dsimp only)

theorem State.applyAdapter_memOk (s : State) (job epoch : Nat) (x : AdaptEntry) (hok : MemOk s) : MemOk (State.applyAdapter s job epoch x) := by
  unfold State.applyAdapter
  try dsimp only
  repeat' (first
   | with_reducible assumption
   | with_reducible apply State.devPut_memOk
   | with_reducible apply State.putDir_memOk
   | with_reducible apply MemOk.ite
   | (with_reducible apply MemOk.foldl; intro y a hy)
   | dsimp only)

theorem State.bumpDir_memOk (s : State) (job a off : Nat) (hok : MemOk s) : MemOk (State.bumpDir s job a off) := by
  unfold State.bumpDir
  try dsimp only
  repeat' (first
   | with_reducible assumption
   | with_reducible apply State.putDir_memOk
   | with_reducible apply MemOk.ite
   | dsimp only)

theorem State.rollBack_memOk (s : State) (job epoch d : Nat) (hok : MemOk s) : MemOk (State.rollBack s job epoch d) := by
  unfold State.rollBack
  try dsimp only
  repeat' (first
   | with_reducible assumption
   | with_reducible apply State.bumpDir_memOk
   | with_reducible apply State.putDir_memOk
   | with_reducible apply MemOk.ite
   | (with_reducible apply MemOk.foldl; intro y a hy)
   | dsimp only)

theorem State.keepCandidate_memOk (s : State) (job a : Nat) (hok : MemOk s) : MemOk (State.keepCandidate s job a) := by
  unfold State.keepCandidate
  try dsimp only
  repeat' (first
   | with_reducible assumption
   | with_reducible apply State.bumpDir_memOk
   | with_reducible apply State.putDir_memOk
   | with_reducible apply MemOk.ite
   | (with_reducible apply MemOk.foldl; intro y a hy)
   | dsimp only)

theorem State.verdictErrs_memOk (s : State) (job r : Nat) (p : Probe) (hok : MemOk s) : MemOk (State.verdictErrs s job r p) := by
  unfold State.verdictErrs
  try dsimp only
  repeat' (first
   | with_reducible assumption
   | with_reducible apply State.putDir_memOk
   | with_reducible apply MemOk.ite
   | split
   | dsimp only)

theorem State.takeVerdict_memOk (s : State) (job epoch d : Nat) (p : Probe) (hok : MemOk s) : MemOk (State.takeVerdict s job epoch d p).state := by
  unfold State.takeVerdict
  try dsimp only
  repeat' (first
   | with_reducible assumption
   | (with_reducible apply MemOk.of_only (State.advance_only _ _ _ _) (by decide))
   | with_reducible apply State.keepCandidate_memOk
   | with_reducible apply State.putDir_memOk
   | with_reducible apply State.putReplicas_memOk
   | with_reducible apply State.rollBack_memOk
   | with_reducible apply State.verdictErrs_memOk
   | with_reducible apply MemOk.ite
   | split
   | dsimp only)

theorem State.verdictLate_memOk (s : State) (job epoch d : Nat) (hok : MemOk s) : MemOk (State.verdictLate s job epoch d).state := by
  unfold State.verdictLate
  try dsimp only
  repeat' (first
   | with_reducible assumption
   | with_reducible apply State.putDir_memOk
   | with_reducible apply State.rollBack_memOk
   | with_reducible apply MemOk.ite
   | dsimp only)

theorem State.applyCandidate_memOk (s : State) (job epoch d : Nat) (hok : MemOk s) : MemOk (State.applyCandidate s job epoch d).state := by
  unfold State.applyCandidate
  try dsimp only
  repeat' (first
   | with_reducible assumption
   | (with_reducible apply MemOk.of_only (State.advance_only _ _ _ _) (by decide))
   | with_reducible apply State.applyAdapter_memOk
   | with_reducible apply State.applyStaged_memOk
   | with_reducible apply State.bumpDir_memOk
   | with_reducible apply State.putDir_memOk
   | with_reducible apply MemOk.ite
   | (with_reducible apply MemOk.foldl; intro y a hy)
   | split
   | dsimp only)

theorem State.adaptTurn_memOk (s : State) (job epoch d : Nat) (hok : MemOk s) : MemOk (State.adaptTurn s job epoch d).state := by
  unfold State.adaptTurn
  try dsimp only
  repeat' (first
   | with_reducible assumption
   | with_reducible apply State.applyCandidate_memOk
   | with_reducible apply State.takeVerdict_memOk
   | with_reducible apply State.verdictLate_memOk
   | with_reducible apply MemOk.ite
   | split
   | dsimp only)

theorem State.turnEntry_memOk (s : State) (job : Nat) (e : DirEntry) (x : Option SlotSum) (hok : MemOk s) : MemOk (State.turnEntry s job e x).1 := by
  unfold State.turnEntry
  try dsimp only
  repeat' (first
   | with_reducible assumption
   | (with_reducible apply MemOk.of_only (State.advance_only _ _ _ _) (by decide))
   | with_reducible apply State.applyStaged_memOk
   | with_reducible apply State.autoEntry_memOk
   | with_reducible apply State.dirErr_memOk
   | with_reducible apply MemOk.ite
   | split
   | dsimp only)

theorem State.boundEntry_memOk (s : State) (job : Nat) (e : DirEntry) (hok : MemOk s) : MemOk (State.boundEntry s job e) := by
  unfold State.boundEntry
  try dsimp only
  repeat' (first
   | with_reducible assumption
   | with_reducible apply State.dirErr_memOk
   | with_reducible apply MemOk.ite
   | split
   | dsimp only)

theorem State.refreshEntry_memOk (s : State) (job epoch : Nat) (e : DirEntry) (hok : MemOk s) : MemOk (State.refreshEntry s job epoch e).1 := by
  unfold State.refreshEntry
  try dsimp only
  repeat' (first
   | with_reducible assumption
   | with_reducible apply State.putHeader_memOk
   | with_reducible apply MemOk.ite
   | (with_reducible apply MemOk.foldl_fst; intro y a r hr hy; subst hr)
   | split
   | dsimp only)

theorem State.refreshAdapter_memOk (s : State) (job epoch : Nat) (x : AdaptEntry) (hok : MemOk s) : MemOk (State.refreshAdapter s job epoch x).1 := by
  unfold State.refreshAdapter
  try dsimp only
  repeat' (first
   | with_reducible assumption
   | with_reducible apply State.putDir_memOk
   | with_reducible apply MemOk.ite
   | split
   | dsimp only)

theorem State.turnEntries_memOk (s : State) (job : Nat) (es : List DirEntry) (sums : List (Nat × SlotSum)) (skip : List Nat) (hok : MemOk s) : MemOk (State.turnEntries s job es sums skip).1 := by
  unfold State.turnEntries
  try dsimp only
  repeat' (first
   | with_reducible assumption
   | with_reducible apply State.boundEntry_memOk
   | with_reducible apply State.turnEntry_memOk
   | with_reducible apply MemOk.ite
   | (with_reducible apply MemOk.foldl_fst; intro y a r hr hy; subst hr)
   | split
   | dsimp only)

theorem State.turn_memOk (s : State) (job epoch d : Nat) (h : MemOk s) : MemOk (State.turn s job epoch d) := by
  unfold State.turn
  extract_lets es k autos sums s1 r1 r2 flips r3 r4 s2 j s3
  have h1 : MemOk s1 := MemOk.foldl (fun y a hy => MemOk.of_only (State.clearSlot_only _ _ _) (by decide) hy) h
  have hr1 : MemOk r1.state := State.adaptTurn_memOk _ _ _ _ h1
  have hr2 : MemOk r2.1 := State.turnEntries_memOk _ _ _ _ _ hr1
  have hr3 : MemOk r3.1 := MemOk.runAll (fun y a r hr hy => hr ▸ State.refreshEntry_memOk _ _ _ _ hy) (State.flip_memOk _ _ _ _ hr2)
  have hr4 : MemOk r4.1 := MemOk.runAll (fun y a r hr hy => hr ▸ State.refreshAdapter_memOk _ _ _ _ hy) hr3
  have h3 : MemOk s3 := MemOk.of_only (State.putJob_only _ _ _) (by decide) (State.putDir_memOk _ _ _ _ hr4)
  split
  · exact MemOk.of_only (State.keepWeights_only _ _ _) (by decide) h3
  · exact h3

theorem execTurn_memOk (job : Nat) (s : State) (hok : MemOk s) : MemOkOut (execTurn job s) := by
  unfold execTurn
  try dsimp only
  repeat' (first
   | with_reducible assumption
   | with_reducible apply MemOkOut.next
   | (with_reducible apply MemOk.of_only (State.putJob_only _ _ _) (by decide))
   | (with_reducible apply MemOk.of_only (State.track_only _) (by decide))
   | with_reducible apply State.turn_memOk
   | with_reducible apply MemOk.ite
   | with_reducible apply MemOkOut.ite
   | split
   | dsimp only)

end Sys2Proof.Machine
end

