-- ==== Sys2Proof/Laws/CanonicalDisplay.lean ====
section
/-!
SUPPORT. Each operation keeps the canonical form of every memory: the display, deadlines, DP outputs, HOLD and the host link.
-/

-- One proof at a time: the proofs of this file are many, and run together they take many threads at once.
set_option Elab.async false

set_option linter.unusedTactic false
set_option linter.unreachableTactic false

namespace Sys2Proof.Machine

theorem State.latchFrame_memOk (s : State) (hok : MemOk s) : MemOk (State.latchFrame s) := by
  unfold State.latchFrame
  try dsimp only
  repeat' (first
   | with_reducible assumption
   | with_reducible apply State.irq_memOk
   | with_reducible apply MemOk.ite
   | split
   | (with_reducible apply MemOk.of_only Only.set_disp (by decide))
   | dsimp only)

theorem State.writeCal_memOk (s : State) (e : CalEntry) (hok : MemOk s) : MemOk (State.writeCal s e) := by
  unfold State.writeCal
  try dsimp only
  repeat' (first
   | with_reducible assumption
   | with_reducible apply State.devPut_memOk
   | with_reducible apply MemOk.ite
   | dsimp only)

theorem State.planFrame_memOk (s : State) (hok : MemOk s) : MemOk (State.planFrame s) := by
  unfold State.planFrame
  try dsimp only
  repeat' (first
   | with_reducible assumption
   | with_reducible apply State.writeCal_memOk
   | with_reducible apply MemOk.ite
   | split
   | (with_reducible apply MemOk.of_only Only.set_disp (by decide))
   | dsimp only)

theorem execCalendarPublish_memOk (s : State) (hok : MemOk s) : MemOkOut (execCalendarPublish s) := by
  unfold execCalendarPublish
  try dsimp only
  repeat' (first
   | with_reducible assumption
   | with_reducible apply MemOkOut.next
   | with_reducible apply State.planFrame_memOk
   | with_reducible apply MemOk.ite
   | with_reducible apply MemOkOut.ite
   | split
   | dsimp only)

theorem State.applyMarks_memOk (s : State) (f : Nat) (hok : MemOk s) : MemOk (State.applyMarks s f) := by
  unfold State.applyMarks
  try dsimp only
  repeat' (first
   | with_reducible assumption
   | with_reducible apply State.putEntry_memOk
   | with_reducible apply State.putHead_memOk
   | with_reducible apply MemOk.ite
   | (with_reducible apply MemOk.foldl; intro y a hy)
   | split
   | (with_reducible apply MemOk.of_only Only.set_raster (by decide))
   | dsimp only)

theorem State.enterLate_memOk (s : State) (f step : Nat) (hok : MemOk s) : MemOk (State.enterLate s f step) := by
  unfold State.enterLate
  try dsimp only
  repeat' (first
   | with_reducible assumption
   | with_reducible apply State.putEntry_memOk
   | with_reducible apply MemOk.ite
   | (with_reducible apply MemOk.foldl; intro y a hy)
   | dsimp only)

theorem State.bindFrame_memOk (s : State) (f step : Nat) (e : CalEntry) (hok : MemOk s) : MemOk (State.bindFrame s f step e) := by
  unfold State.bindFrame
  try dsimp only
  repeat' (first
   | with_reducible assumption
   | with_reducible apply State.applyMarks_memOk
   | with_reducible apply State.enterLate_memOk
   | with_reducible apply State.putEntry_memOk
   | with_reducible apply State.putHead_memOk
   | with_reducible apply MemOk.ite
   | (with_reducible apply MemOk.foldl; intro y a hy)
   | split
   | dsimp only)

theorem execFrameBind_memOk (frame : Nat) (s : State) (hok : MemOk s) : MemOkOut (execFrameBind frame s) := by
  unfold execFrameBind
  try dsimp only
  repeat' (first
   | with_reducible assumption
   | with_reducible apply MemOkOut.next
   | with_reducible apply State.bindFrame_memOk
   | with_reducible apply MemOk.ite
   | with_reducible apply MemOkOut.ite
   | split
   | dsimp only)

theorem State.prepareUnbound_memOk (s : State) (f : Nat) (e : CalEntry) (hok : MemOk s) : MemOk (State.prepareUnbound s f e) := by
  unfold State.prepareUnbound
  try dsimp only
  repeat' (first
   | with_reducible assumption
   | with_reducible apply State.devPut_memOk
   | with_reducible apply State.putEntry_memOk
   | with_reducible apply MemOk.ite
   | (with_reducible apply MemOk.foldl; intro y a hy)
   | split
   | dsimp only)

theorem State.freeTables_memOk (s : State) (hok : MemOk s) : MemOk (State.freeTables s) := by
  unfold State.freeTables
  try dsimp only
  repeat' (first
   | with_reducible assumption
   | with_reducible apply State.devClear_memOk
   | with_reducible apply State.devPut_memOk
   | (with_reducible apply MemOk.of_only (State.tidySteps_only _) (by decide))
   | with_reducible apply MemOk.ite
   | (with_reducible apply MemOk.foldl; intro y a hy)
   | (with_reducible apply MemOk.of_only Only.set_disp (by decide))
   | dsimp only)

theorem State.showTile_memOk (s : State) (f t : Nat) (hok : MemOk s) : MemOk (State.showTile s f t) := by
  unfold State.showTile
  try dsimp only
  repeat' (first
   | with_reducible assumption
   | (with_reducible apply MemOk.of_only (State.bump_only _ _ _ _ _) (by decide))
   | with_reducible apply State.pulse_memOk
   | with_reducible apply State.putEntry_memOk
   | with_reducible apply State.putHead_memOk
   | with_reducible apply State.setTileState_memOk
   | with_reducible apply MemOk.ite
   | split
   | dsimp only)

theorem State.showRow_memOk (s : State) (f r : Nat) (hok : MemOk s) : MemOk (State.showRow s f r) := by
  unfold State.showRow
  try dsimp only
  repeat' (first
   | with_reducible assumption
   | (with_reducible apply MemOk.of_only (State.dropStored_only _ _ _) (by decide))
   | with_reducible apply State.showTile_memOk
   | with_reducible apply MemOk.ite
   | (with_reducible apply MemOk.foldl; intro y a hy)
   | (with_reducible apply MemOk.of_only Only.set_disp (by decide))
   | dsimp only)

theorem State.beginFetch_memOk (s : State) (f : Nat) (e : CalEntry) (hok : MemOk s) : MemOk (State.beginFetch s f e) := by
  unfold State.beginFetch
  try dsimp only
  repeat' (first
   | with_reducible assumption
   | (with_reducible apply MemOk.of_only (State.at_only _ _) (by decide))
   | with_reducible apply State.bindFrame_memOk
   | with_reducible apply State.irq_memOk
   | with_reducible apply State.latchFrame_memOk
   | with_reducible apply State.prepareUnbound_memOk
   | (with_reducible apply MemOk.of_only (State.sealCairn_only _) (by decide))
   | with_reducible apply MemOk.ite
   | (with_reducible refine MemOk.elim ?_ fun a => ?_)
   | split
   | (with_reducible apply MemOk.of_only Only.set_disp (by decide))
   | dsimp only)

theorem State.dispRow_memOk (s : State) (f r : Nat) (hok : MemOk s) : ∀ y, State.dispRow s f r = some y → MemOk y := by
  intro y hy
  unfold State.dispRow at hy
  try dsimp only at hy
  repeat' (first
   | (simp only [reduceCtorEq] at hy; done)
   | (obtain rfl := Option.some.inj hy)
   | split at hy
   | with_reducible assumption
   | (with_reducible apply MemOk.of_only (State.at_only _ _) (by decide))
   | with_reducible apply State.beginFetch_memOk
   | with_reducible apply State.showRow_memOk
   | with_reducible apply MemOk.ite
   | split
   | dsimp only)

theorem State.guardOut_memOk (s : State) (i : Nat) (hok : MemOk s) : MemOk (State.guardOut s i) := by
  unfold State.guardOut
  try dsimp only
  repeat' (first
   | with_reducible assumption
   | with_reducible apply State.irq_memOk
   | (with_reducible apply MemOk.of_only (State.putOut_only _ _ _) (by decide))
   | with_reducible apply MemOk.ite
   | split
   | dsimp only)

theorem State.startOut_memOk (s : State) (i : Nat) (hok : MemOk s) : MemOk (State.startOut s i) := by
  unfold State.startOut
  try dsimp only
  repeat' (first
   | with_reducible assumption
   | with_reducible apply State.guardOut_memOk
   | (with_reducible apply MemOk.of_only (State.putOut_only _ _ _) (by decide))
   | with_reducible apply MemOk.ite
   | split
   | dsimp only)

theorem MemOk.dispOp {x : State} {uid op : Nat} {go : State → Cmd → State} (hgo : ∀ y c, MemOk y → MemOk (go y c)) (hx : MemOk x) :
    MemOk (x.dispOp uid op go) := by
  have key : ∀ y, MemOk y → MemOk y.pumpDisplay := fun y hy => MemOk.of_only (State.pumpDisplay_only _) (by decide) hy
  unfold State.dispOp
  split
  · exact hx
  · split
    · exact key _ hx
    · exact key _ (hgo _ _ hx)

theorem State.dispWaits_memOk (s : State) (c : Cmd) (hok : MemOk s) : MemOk (State.dispWaits s c) := by
  unfold State.dispWaits
  try dsimp only
  repeat' (first
   | with_reducible assumption
   | (with_reducible apply MemOk.of_only (State.putCmd_only _ _) (by decide))
   | with_reducible apply State.starts_memOk
   | with_reducible apply MemOk.ite
   | dsimp only)

theorem State.metaOp_memOk (s : State) (c : Cmd) (hok : MemOk s) : MemOk (State.metaOp s c) := by
  unfold State.metaOp
  try dsimp only
  repeat' (first
   | with_reducible assumption
   | with_reducible apply State.dispWaits_memOk
   | (with_reducible apply MemOk.of_only (State.endCmd_only _ _ _ _) (by decide))
   | (with_reducible apply MemOk.of_only (State.faultWith_only _ _ _ _ _) (by decide))
   | with_reducible apply MemOk.ite
   | split
   | dsimp only)

theorem execDispMeta_memOk (uid : Nat) (s : State) (hok : MemOk s) : MemOkOut (execDispMeta uid s) := by
  unfold execDispMeta
  try dsimp only
  repeat' (first
   | with_reducible assumption
   | with_reducible apply MemOkOut.next
   | with_reducible apply State.metaOp_memOk
   | with_reducible apply MemOk.ite
   | with_reducible apply MemOkOut.ite
   | (with_reducible apply MemOk.dispOp; intro y c hy)
   | dsimp only)

theorem State.frameWaitOp_memOk (s : State) (c : Cmd) (hok : MemOk s) : MemOk (State.frameWaitOp s c) := by
  unfold State.frameWaitOp
  try dsimp only
  repeat' (first
   | with_reducible assumption
   | with_reducible apply State.dispWaits_memOk
   | (with_reducible apply MemOk.of_only (State.endCmd_only _ _ _ _) (by decide))
   | with_reducible apply MemOk.ite
   | split
   | dsimp only)

theorem execDispFrameWait_memOk (uid : Nat) (s : State) (hok : MemOk s) : MemOkOut (execDispFrameWait uid s) := by
  unfold execDispFrameWait
  try dsimp only
  repeat' (first
   | with_reducible assumption
   | with_reducible apply MemOkOut.next
   | with_reducible apply State.frameWaitOp_memOk
   | with_reducible apply MemOk.ite
   | with_reducible apply MemOkOut.ite
   | (with_reducible apply MemOk.dispOp; intro y c hy)
   | dsimp only)

theorem execFrameScanStart_memOk (s : State) (hok : MemOk s) : MemOkOut (execFrameScanStart s) := by
  unfold execFrameScanStart
  try dsimp only
  repeat' (first
   | with_reducible assumption
   | with_reducible apply MemOkOut.next
   | (with_reducible apply MemOk.of_only (State.at_only _ _) (by decide))
   | (with_reducible apply MemOk.of_only (State.pumpDisplay_only _) (by decide))
   | with_reducible apply State.startOut_memOk
   | with_reducible apply MemOk.ite
   | with_reducible apply MemOkOut.ite
   | (with_reducible apply MemOk.foldl; intro y a hy)
   | split
   | (with_reducible apply MemOk.of_only Only.set_disp (by decide))
   | dsimp only)

theorem State.writeTile_memOk (s : State) (f t : Nat) (rows : List (List Byte)) (hok : MemOk s) : MemOk (State.writeTile s f t rows) := by
  unfold State.writeTile
  try dsimp only
  repeat' (first
   | with_reducible assumption
   | with_reducible apply State.putAll_memOk
   | with_reducible apply MemOk.ite
   | dsimp only)

theorem State.commit_memOk (s : State) (c : Cmd) (f a : Nat) (hok : MemOk s) : MemOk (State.commit s c f a) := by
  unfold State.commit
  try dsimp only
  repeat' (first
   | with_reducible assumption
   | with_reducible apply State.correctReads_memOk
   | (with_reducible apply MemOk.of_only (State.endCmd_only _ _ _ _) (by decide))
   | (with_reducible apply MemOk.of_only (State.faultCmd_only _ _ _ _ _) (by decide))
   | (with_reducible apply MemOk.of_only (State.markCommitted_only _ _ _) (by decide))
   | with_reducible apply State.putAll_memOk
   | with_reducible apply State.starts_memOk
   | with_reducible apply State.writeTile_memOk
   | with_reducible apply MemOk.ite
   | split
   | (with_reducible apply MemOk.of_only Only.set_disp (by decide))
   | dsimp only)

theorem execDispCommit_memOk (uid : Nat) (s : State) (hok : MemOk s) : MemOkOut (execDispCommit uid s) := by
  unfold execDispCommit
  try dsimp only
  repeat' (first
   | with_reducible assumption
   | with_reducible apply MemOkOut.next
   | with_reducible apply State.commit_memOk
   | (with_reducible apply MemOk.of_only (State.endCmd_only _ _ _ _) (by decide))
   | with_reducible apply MemOk.ite
   | with_reducible apply MemOkOut.ite
   | split
   | dsimp only)

theorem State.settleStored_memOk (s : State) (f t : Nat) (hok : MemOk s) : MemOk (State.settleStored s f t) := by
  unfold State.settleStored
  try dsimp only
  repeat' (first
   | with_reducible assumption
   | (with_reducible apply MemOk.of_only (State.markCommitted_only _ _ _) (by decide))
   | with_reducible apply State.reviewGroup_memOk
   | with_reducible apply MemOk.ite
   | split
   | dsimp only)

theorem State.copyTile_memOk (s : State) (slot f t : Nat) (hok : MemOk s) : MemOk (State.copyTile s slot f t) := by
  unfold State.copyTile
  try dsimp only
  repeat' (first
   | with_reducible assumption
   | with_reducible apply State.correctReads_memOk
   | (with_reducible apply MemOk.of_only (State.err_only _ _ _ _ _ _) (by decide))
   | with_reducible apply State.writeTile_memOk
   | with_reducible apply MemOk.ite
   | split
   | (with_reducible apply MemOk.of_only Only.set_badWords (by decide))
   | dsimp only)

theorem execTileStoreCopy_memOk (slot : Nat) (s : State) (hok : MemOk s) : MemOkOut (execTileStoreCopy slot s) := by
  unfold execTileStoreCopy
  try dsimp only
  repeat' (first
   | with_reducible assumption
   | with_reducible apply MemOkOut.next
   | with_reducible apply State.copyTile_memOk
   | with_reducible apply State.settleStored_memOk
   | with_reducible apply MemOk.ite
   | with_reducible apply MemOkOut.ite
   | split
   | (with_reducible apply MemOk.of_only Only.set_disp (by decide))
   | dsimp only)

theorem State.urgency_memOk (s : State) (k level : Nat) (hok : MemOk s) : MemOk (State.urgency s k level) := by
  unfold State.urgency
  try dsimp only
  repeat' (first
   | with_reducible assumption
   | (with_reducible apply MemOk.of_only (State.bump_only _ _ _ _ _) (by decide))
   | with_reducible apply State.edge_memOk
   | with_reducible apply State.irq_memOk
   | (with_reducible apply MemOk.of_only (State.urgentServed_only _) (by decide))
   | with_reducible apply MemOk.ite
   | split
   | (with_reducible apply MemOk.of_only Only.set_disp (by decide))
   | dsimp only)

theorem State.underrun_memOk (s : State) (i : Nat) (hok : MemOk s) : MemOk (State.underrun s i) := by
  unfold State.underrun
  try dsimp only
  repeat' (first
   | with_reducible assumption
   | (with_reducible apply MemOk.of_only (State.bump_only _ _ _ _ _) (by decide))
   | with_reducible apply State.irq_memOk
   | with_reducible apply State.pulse_memOk
   | with_reducible apply MemOk.ite
   | dsimp only)

theorem State.correctLine_memOk (s : State) (f x y n : Nat) (hok : MemOk s) : MemOk (State.correctLine s f x y n) := by
  unfold State.correctLine
  try dsimp only
  repeat' (first
   | with_reducible assumption
   | with_reducible apply State.correctReads_memOk
   | with_reducible apply MemOk.ite
   | split
   | dsimp only)

theorem State.sendLine_memOk (s : State) (i y buffered f : Nat) (hok : MemOk s) : MemOk (State.sendLine s i y buffered f) := by
  unfold State.sendLine
  try dsimp only
  repeat' (first
   | with_reducible assumption
   | (with_reducible apply MemOk.of_only (State.codeLine_only _ _ _) (by decide))
   | with_reducible apply State.correctLine_memOk
   | (with_reducible apply MemOk.of_only (State.err_only _ _ _ _ _ _) (by decide))
   | (with_reducible apply MemOk.of_only (State.putOut_only _ _ _) (by decide))
   | with_reducible apply State.underrun_memOk
   | with_reducible apply MemOk.ite
   | split
   | dsimp only)

theorem execLineScan_memOk (out y buffered level : Nat) (s : State) (hok : MemOk s) : MemOkOut (execLineScan out y buffered level s) := by
  unfold execLineScan
  try dsimp only
  repeat' (first
   | with_reducible assumption
   | with_reducible apply MemOkOut.next
   | (with_reducible apply MemOk.of_only (State.at_only _ _) (by decide))
   | (with_reducible apply MemOk.of_only (State.keepLine_only _ _ _ _ _) (by decide))
   | with_reducible apply State.sendLine_memOk
   | with_reducible apply State.urgency_memOk
   | with_reducible apply MemOk.ite
   | with_reducible apply MemOkOut.ite
   | split
   | dsimp only)

theorem execFrameSyncEdge_memOk (s : State) (hok : MemOk s) : MemOkOut (execFrameSyncEdge s) := by
  unfold execFrameSyncEdge
  try dsimp only
  repeat' (first
   | with_reducible assumption
   | with_reducible apply MemOkOut.next
   | with_reducible apply State.irq_memOk
   | with_reducible apply MemOk.ite
   | with_reducible apply MemOkOut.ite
   | split
   | (with_reducible apply MemOk.of_only Only.set_disp (by decide))
   | dsimp only)

theorem execGenlockHoldover_memOk (s : State) (hok : MemOk s) : MemOkOut (execGenlockHoldover s) := by
  unfold execGenlockHoldover
  try dsimp only
  repeat' (first
   | with_reducible assumption
   | with_reducible apply MemOkOut.next
   | (with_reducible apply MemOk.of_only (State.at_only _ _) (by decide))
   | with_reducible apply State.irq_memOk
   | with_reducible apply MemOk.ite
   | with_reducible apply MemOkOut.ite
   | split
   | (with_reducible apply MemOk.of_only Only.set_disp (by decide))
   | dsimp only)

theorem State.cfgCommit_memOk (s : State) (hok : MemOk s) : MemOk (State.cfgCommit s) := by
  unfold State.cfgCommit
  try dsimp only
  repeat' (first
   | with_reducible assumption
   | (with_reducible apply MemOk.of_only (State.err_only _ _ _ _ _ _) (by decide))
   | with_reducible apply State.irq_memOk
   | with_reducible apply MemOk.ite
   | split
   | (with_reducible apply MemOk.of_only Only.set_disp (by decide))
   | dsimp only)

theorem execCfgCommit_memOk (s : State) (hok : MemOk s) : MemOkOut (execCfgCommit s) := by
  unfold execCfgCommit
  try dsimp only
  repeat' (first
   | with_reducible assumption
   | with_reducible apply MemOkOut.next
   | with_reducible apply State.cfgCommit_memOk
   | with_reducible apply MemOk.ite
   | with_reducible apply MemOkOut.ite
   | split
   | dsimp only)

theorem State.takeEffect_memOk (s : State) (m : Machine.SMap Word) (hok : MemOk s) : MemOk (State.takeEffect s m) := by
  unfold State.takeEffect
  try dsimp only
  repeat' (first
   | with_reducible assumption
   | with_reducible apply State.freeTables_memOk
   | with_reducible apply State.irq_memOk
   | (with_reducible apply MemOk.of_only (State.retrain_only _ _) (by decide))
   | (with_reducible apply MemOk.of_only (State.sealCairn_only _) (by decide))
   | with_reducible apply MemOk.ite
   | (with_reducible apply MemOk.foldl; intro y a hy)
   | split
   | (with_reducible apply MemOk.of_only Only.set_disp (by decide))
   | dsimp only)

theorem execCfgTakeEffect_memOk (s : State) (hok : MemOk s) : MemOkOut (execCfgTakeEffect s) := by
  unfold execCfgTakeEffect
  try dsimp only
  repeat' (first
   | with_reducible assumption
   | with_reducible apply MemOkOut.next
   | with_reducible apply State.takeEffect_memOk
   | with_reducible apply MemOk.ite
   | with_reducible apply MemOkOut.ite
   | split
   | dsimp only)

theorem State.holdDisplay_memOk (s : State) (hok : MemOk s) : MemOk (State.holdDisplay s) := by
  unfold State.holdDisplay
  try dsimp only
  repeat' (first
   | with_reducible assumption
   | (with_reducible apply MemOk.of_only (State.endAll_only _ _ _ _) (by decide))
   | with_reducible apply State.irq_memOk
   | with_reducible apply MemOk.ite
   | split
   | (with_reducible apply MemOk.of_only Only.set_disp (by decide))
   | dsimp only)

theorem State.resumeDisplay_memOk (s : State) (hok : MemOk s) : MemOk (State.resumeDisplay s) := by
  unfold State.resumeDisplay
  try dsimp only
  repeat' (first
   | with_reducible assumption
   | with_reducible apply State.freeTables_memOk
   | with_reducible apply State.irq_memOk
   | with_reducible apply MemOk.ite
   | split
   | (with_reducible apply MemOk.of_only Only.set_disp (by decide))
   | dsimp only)

theorem State.startDisplay_memOk (s : State) (hok : MemOk s) : MemOk (State.startDisplay s) := by
  unfold State.startDisplay
  try dsimp only
  repeat' (first
   | with_reducible assumption
   | (with_reducible apply MemOk.of_only (State.free_only _) (by decide))
   | with_reducible apply State.freeTables_memOk
   | with_reducible apply State.irq_memOk
   | with_reducible apply State.latchFrame_memOk
   | with_reducible apply MemOk.ite
   | split
   | (with_reducible apply MemOk.of_only Only.set_cairn (by decide))
   | (with_reducible apply MemOk.of_only Only.set_disp (by decide))
   | (with_reducible apply MemOk.of_only Only.set_disp_cairn (by decide))
   | dsimp only)

theorem execGuardFire_memOk (step row : Nat) (s : State) (hok : MemOk s) : MemOkOut (execGuardFire step row s) := by
  unfold execGuardFire
  try dsimp only
  repeat' (first
   | with_reducible assumption
   | with_reducible apply MemOkOut.next
   | (with_reducible apply MemOk.of_only (State.at_only _ _) (by decide))
   | with_reducible apply State.fireGuard_memOk
   | (with_reducible apply MemOk.of_only (State.track_only _) (by decide))
   | with_reducible apply MemOk.ite
   | with_reducible apply MemOkOut.ite
   | split
   | dsimp only)

theorem State.stepRow_memOk (s : State) (x : Step) (r : Nat) (hok : MemOk s) : MemOk (State.stepRow s x r) := by
  unfold State.stepRow
  try dsimp only
  repeat' (first
   | with_reducible assumption
   | (with_reducible apply MemOk.of_only (State.at_only _ _) (by decide))
   | with_reducible apply State.lateRow_memOk
   | with_reducible apply MemOk.ite
   | split
   | dsimp only)

theorem State.afterRow_memOk (s : State) (hok : MemOk s) : MemOk (State.afterRow s) := by
  unfold State.afterRow
  try dsimp only
  repeat' (first
   | with_reducible assumption
   | with_reducible apply State.resumeStalled_memOk
   | with_reducible apply State.settleRaster_memOk
   | (with_reducible apply MemOk.of_only (State.track_only _) (by decide))
   | with_reducible apply MemOk.ite
   | dsimp only)

theorem State.boundRow_memOk (s : State) (x : Step) (f r : Nat) (hok : MemOk s) : MemOk (State.boundRow s x f r) := by
  unfold State.boundRow
  try dsimp only
  repeat' (first
   | with_reducible assumption
   | with_reducible apply State.afterRow_memOk
   | (with_reducible refine State.dispRow_memOk _ _ _ ?_ _ ‹_›)
   | with_reducible apply State.stepRow_memOk
   | with_reducible apply MemOk.ite
   | split
   | (cases ‹none = some _›; done)
   | (with_reducible apply MemOk.getD; intro y hy)
   | dsimp only [Option.getD_none]
   | dsimp only)

theorem execRowDeadline_memOk (step : Option Nat) (row : Nat) (s : State) (hok : MemOk s) : MemOkOut (execRowDeadline step row s) := by
  unfold execRowDeadline
  try dsimp only
  repeat' (first
   | with_reducible assumption
   | with_reducible apply MemOkOut.next
   | with_reducible apply State.afterRow_memOk
   | with_reducible apply State.boundRow_memOk
   | (with_reducible refine State.dispRow_memOk _ _ _ ?_ _ ‹_›)
   | with_reducible apply State.stepRow_memOk
   | with_reducible apply MemOk.ite
   | with_reducible apply MemOkOut.ite
   | split
   | (cases ‹none = some _›; done)
   | (with_reducible apply MemOk.getD; intro y hy)
   | dsimp only [Option.getD_none]
   | dsimp only)

theorem State.loseOutLink_memOk (s : State) (i : Nat) (hok : MemOk s) : MemOk (State.loseOutLink s i) := by
  unfold State.loseOutLink
  try dsimp only
  repeat' (first
   | with_reducible assumption
   | (with_reducible apply MemOk.of_only (State.bump_only _ _ _ _ _) (by decide))
   | with_reducible apply State.irq_memOk
   | (with_reducible apply MemOk.of_only (State.putOut_only _ _ _) (by decide))
   | with_reducible apply MemOk.ite
   | dsimp only)

theorem execHpdChange_memOk (out : Nat) (present : Bool) (s : State) (hok : MemOk s) : MemOkOut (execHpdChange out present s) := by
  unfold execHpdChange
  try dsimp only
  repeat' (first
   | with_reducible assumption
   | with_reducible apply MemOkOut.next
   | (with_reducible apply MemOk.of_only (State.filtered_only _ _ _) (by decide))
   | with_reducible apply State.irq_memOk
   | with_reducible apply State.loseOutLink_memOk
   | (with_reducible apply MemOk.of_only (State.putOut_only _ _ _) (by decide))
   | (with_reducible apply MemOk.of_only (State.retrain_only _ _) (by decide))
   | with_reducible apply MemOk.ite
   | with_reducible apply MemOkOut.ite
   | split
   | dsimp only)

theorem execDpLinkFail_memOk (out : Nat) (s : State) (hok : MemOk s) : MemOkOut (execDpLinkFail out s) := by
  unfold execDpLinkFail
  try dsimp only
  repeat' (first
   | with_reducible assumption
   | with_reducible apply MemOkOut.next
   | with_reducible apply State.loseOutLink_memOk
   | with_reducible apply MemOk.ite
   | with_reducible apply MemOkOut.ite
   | split
   | dsimp only)

theorem execDpLinkTrainEnd_memOk (out : Nat) (ok : Bool) (s : State) (hok : MemOk s) : MemOkOut (execDpLinkTrainEnd out ok s) := by
  unfold execDpLinkTrainEnd
  try dsimp only
  repeat' (first
   | with_reducible assumption
   | with_reducible apply MemOkOut.next
   | (with_reducible apply MemOk.of_only (State.err_only _ _ _ _ _ _) (by decide))
   | with_reducible apply State.irq_memOk
   | (with_reducible apply MemOk.of_only (State.putOut_only _ _ _) (by decide))
   | with_reducible apply MemOk.ite
   | with_reducible apply MemOkOut.ite
   | split
   | dsimp only)

theorem State.reauth_memOk (s : State) (i : Nat) (hok : MemOk s) : MemOk (State.reauth s i) := by
  unfold State.reauth
  try dsimp only
  repeat' (first
   | with_reducible assumption
   | with_reducible apply State.guardOut_memOk
   | (with_reducible apply MemOk.of_only (State.putOut_only _ _ _) (by decide))
   | with_reducible apply MemOk.ite
   | split
   | dsimp only)

theorem execHdcpReauth_memOk (out : Nat) (s : State) (hok : MemOk s) : MemOkOut (execHdcpReauth out s) := by
  unfold execHdcpReauth
  try dsimp only
  repeat' (first
   | with_reducible assumption
   | with_reducible apply MemOkOut.next
   | with_reducible apply State.reauth_memOk
   | with_reducible apply MemOk.ite
   | with_reducible apply MemOkOut.ite
   | (with_reducible apply MemOk.host; intro y hy)
   | dsimp only)

theorem execHdcpAuthEnd_memOk (out result : Nat) (ids : List Nat) (s : State) (hok : MemOk s) : MemOkOut (execHdcpAuthEnd out result ids s) := by
  unfold execHdcpAuthEnd
  try dsimp only
  repeat' (first
   | with_reducible assumption
   | with_reducible apply MemOkOut.next
   | with_reducible apply State.guardOut_memOk
   | with_reducible apply State.irq_memOk
   | (with_reducible apply MemOk.of_only (State.putOut_only _ _ _) (by decide))
   | with_reducible apply MemOk.ite
   | with_reducible apply MemOkOut.ite
   | split
   | dsimp only)

theorem State.enterHold_memOk (s : State) (cause : Nat) (hok : MemOk s) : MemOk (State.enterHold s cause) := by
  unfold State.enterHold
  try dsimp only
  repeat' (first
   | with_reducible assumption
   | (with_reducible apply MemOk.of_only (State.endAll_only _ _ _ _) (by decide))
   | with_reducible apply State.holdDisplay_memOk
   | (with_reducible apply MemOk.of_only (State.meDrop_only _) (by decide))
   | with_reducible apply State.setDevState_memOk
   | (with_reducible apply MemOk.of_only (State.track_only _) (by decide))
   | with_reducible apply MemOk.ite
   | split
   | (with_reducible apply MemOk.of_only Only.set_cairn (by decide))
   | (with_reducible apply MemOk.of_only Only.set_holdCauses (by decide))
   | dsimp only)

theorem State.resumeHold_memOk (s : State) (hok : MemOk s) : MemOk (State.resumeHold s) := by
  unfold State.resumeHold
  try dsimp only
  repeat' (first
   | with_reducible assumption
   | (with_reducible apply MemOk.of_only (State.err_only _ _ _ _ _ _) (by decide))
   | with_reducible apply State.resumeDisplay_memOk
   | with_reducible apply State.setDevState_memOk
   | (with_reducible apply MemOk.of_only (State.track_only _) (by decide))
   | with_reducible apply MemOk.ite
   | split
   | dsimp only)

theorem State.stateCtrlWrite_memOk (s : State) (v : Nat) (hok : MemOk s) : MemOk (State.stateCtrlWrite s v) := by
  unfold State.stateCtrlWrite
  try dsimp only
  repeat' (first
   | with_reducible assumption
   | (with_reducible apply MemOk.of_only (State.clearCause_only _ _) (by decide))
   | with_reducible apply State.enterHold_memOk
   | with_reducible apply State.resumeHold_memOk
   | (with_reducible apply MemOk.of_only (State.setReg_only _ _ _ _ _) (by decide))
   | with_reducible apply MemOk.ite
   | split
   | dsimp only)

theorem execStateCtrlHoldSet_memOk (hold : Bool) (s : State) (hok : MemOk s) : MemOkOut (execStateCtrlHoldSet hold s) := by
  unfold execStateCtrlHoldSet
  try dsimp only
  repeat' (first
   | with_reducible assumption
   | with_reducible apply MemOkOut.next
   | with_reducible apply State.stateCtrlWrite_memOk
   | with_reducible apply MemOk.ite
   | with_reducible apply MemOkOut.ite
   | (with_reducible apply MemOk.host; intro y hy)
   | dsimp only)

theorem execHoldResume_memOk (s : State) (hok : MemOk s) : MemOkOut (execHoldResume s) := by
  unfold execHoldResume
  try dsimp only
  repeat' (first
   | with_reducible assumption
   | with_reducible apply MemOkOut.next
   | with_reducible apply State.stateCtrlWrite_memOk
   | with_reducible apply MemOk.ite
   | with_reducible apply MemOkOut.ite
   | (with_reducible apply MemOk.host; intro y hy)
   | dsimp only)

theorem State.backlogWaiting_memOk (s : State) (h : MemOk s) : MemOk (State.backlogWaiting s) := by
  unfold State.backlogWaiting
  refine MemOk.elim ?_ fun a => ?_
  · split
    · exact MemOk.of_only (State.err_only _ _ _ _ _ _) (by decide) h
    · exact h
  · exact MemOk.foldl (fun y a hy => State.logBack_memOk _ _ _ hy) (MemOk.of_only Only.set_waiting (by decide) h)

theorem State.startBacklog_memOk (s : State) (hok : MemOk s) : MemOk (State.startBacklog s) := by
  unfold State.startBacklog
  try dsimp only
  repeat' (first
   | with_reducible assumption
   | with_reducible apply State.backlogWaiting_memOk
   | with_reducible apply MemOk.ite
   | (with_reducible apply MemOk.of_only Only.set_link (by decide))
   | dsimp only)

theorem State.linkDown_memOk (s : State) (whole : Bool) (hok : MemOk s) : MemOk (State.linkDown s whole) := by
  unfold State.linkDown
  try dsimp only
  repeat' (first
   | with_reducible assumption
   | (with_reducible apply MemOk.of_only (State.bump_only _ _ _ _ _) (by decide))
   | with_reducible apply State.enterHold_memOk
   | with_reducible apply State.irq_memOk
   | with_reducible apply State.loseStream_memOk
   | with_reducible apply State.startBacklog_memOk
   | with_reducible apply MemOk.ite
   | split
   | (with_reducible apply MemOk.of_only Only.set_link (by decide))
   | dsimp only)

theorem execUsb4LinkDown_memOk (whole : Bool) (s : State) (hok : MemOk s) : MemOkOut (execUsb4LinkDown whole s) := by
  unfold execUsb4LinkDown
  try dsimp only
  repeat' (first
   | with_reducible assumption
   | with_reducible apply MemOkOut.next
   | with_reducible apply State.linkDown_memOk
   | with_reducible apply MemOk.ite
   | with_reducible apply MemOkOut.ite
   | split
   | (with_reducible apply MemOk.of_only Only.set_link (by decide))
   | dsimp only)

theorem State.linkUp_memOk (s : State) (mode : Nat) (dp : Bool) (hok : MemOk s) : MemOk (State.linkUp s mode dp) := by
  unfold State.linkUp
  try dsimp only
  repeat' (first
   | with_reducible assumption
   | with_reducible apply State.irq_memOk
   | (with_reducible apply MemOk.of_only (State.setReg_only _ _ _ _ _) (by decide))
   | with_reducible apply MemOk.ite
   | split
   | (with_reducible apply MemOk.of_only Only.set_link_msix (by decide))
   | dsimp only)

theorem State.dpTunnelUp_memOk (s : State) (hok : MemOk s) : MemOk (State.dpTunnelUp s) := by
  unfold State.dpTunnelUp
  try dsimp only
  repeat' (first
   | with_reducible assumption
   | with_reducible apply State.irq_memOk
   | with_reducible apply MemOk.ite
   | (with_reducible apply MemOk.of_only Only.set_link (by decide))
   | dsimp only)

theorem execUsb4LinkUp_memOk (training : Bool) (mode : Nat) (dp : Bool) (s : State) (hok : MemOk s) : MemOkOut (execUsb4LinkUp training mode dp s) := by
  unfold execUsb4LinkUp
  try dsimp only
  repeat' (first
   | with_reducible assumption
   | with_reducible apply MemOkOut.next
   | with_reducible apply State.dpTunnelUp_memOk
   | with_reducible apply State.linkUp_memOk
   | with_reducible apply MemOk.ite
   | with_reducible apply MemOkOut.ite
   | split
   | (with_reducible apply MemOk.of_only Only.set_link (by decide))
   | dsimp only)

theorem State.unmaskVector_memOk (s : State) (v : Nat) (hok : MemOk s) : MemOk (State.unmaskVector s v) := by
  unfold State.unmaskVector
  try dsimp only
  repeat' (first
   | with_reducible assumption
   | with_reducible apply State.sendMessage_memOk
   | with_reducible apply MemOk.ite
   | split
   | (with_reducible apply MemOk.of_only Only.set_msix (by decide))
   | dsimp only)

theorem State.unmaskAll_memOk (s : State) (hok : MemOk s) : MemOk (State.unmaskAll s) := by
  unfold State.unmaskAll
  try dsimp only
  repeat' (first
   | with_reducible assumption
   | with_reducible apply State.unmaskVector_memOk
   | with_reducible apply MemOk.ite
   | (with_reducible apply MemOk.foldl; intro y a hy)
   | dsimp only)

theorem State.linkResume_memOk (s : State) (hok : MemOk s) : MemOk (State.linkResume s) := by
  unfold State.linkResume
  try dsimp only
  repeat' (first
   | with_reducible assumption
   | (with_reducible apply MemOk.of_only (State.clearCause_only _ _) (by decide))
   | with_reducible apply State.pumpRing_memOk
   | with_reducible apply State.unmaskAll_memOk
   | with_reducible apply State.writeCredit_memOk
   | with_reducible apply MemOk.ite
   | (with_reducible apply MemOk.foldl; intro y a hy)
   | (with_reducible apply MemOk.of_only Only.set_link (by decide))
   | dsimp only)

theorem execLinkResume_memOk (s : State) (hok : MemOk s) : MemOkOut (execLinkResume s) := by
  unfold execLinkResume
  try dsimp only
  repeat' (first
   | with_reducible assumption
   | with_reducible apply MemOkOut.next
   | with_reducible apply State.linkResume_memOk
   | with_reducible apply MemOk.ite
   | with_reducible apply MemOkOut.ite
   | (with_reducible apply MemOk.host; intro y hy)
   | dsimp only)

theorem State.bar4Read_memOk (s : State) (off n : Nat) (hok : MemOk s) : MemOk (State.bar4Read s off n) := by
  unfold State.bar4Read
  try dsimp only
  repeat' (first
   | with_reducible assumption
   | with_reducible apply State.correctReads_memOk
   | (with_reducible apply MemOk.of_only (State.err_only _ _ _ _ _ _) (by decide))
   | (with_reducible apply MemOk.of_only (State.free_only _) (by decide))
   | with_reducible apply MemOk.ite
   | split
   | (with_reducible apply MemOk.of_only Only.set_readData (by decide))
   | dsimp only)

theorem State.bar4Write_memOk (s : State) (off : Nat) (bs : List Byte) (hok : MemOk s) : MemOk (State.bar4Write s off bs) := by
  unfold State.bar4Write
  try dsimp only
  repeat' (first
   | with_reducible assumption
   | with_reducible apply State.devPut_memOk
   | (with_reducible apply MemOk.of_only (State.err_only _ _ _ _ _ _) (by decide))
   | with_reducible apply MemOk.ite
   | split
   | dsimp only)

theorem execBar4Access_memOk (off : Nat) (access : BarAccess) (s : State) (hok : MemOk s) : MemOkOut (execBar4Access off access s) := by
  unfold execBar4Access
  try dsimp only
  repeat' (first
   | with_reducible assumption
   | with_reducible apply MemOkOut.next
   | (with_reducible apply MemOk.of_only (State.bar2Read_only _ _) (by decide))
   | with_reducible apply State.bar4Read_memOk
   | with_reducible apply State.bar4Write_memOk
   | with_reducible apply MemOk.ite
   | with_reducible apply MemOkOut.ite
   | split
   | dsimp only)

theorem State.ringConsWrite_memOk (s : State) (m v : Nat) (hok : MemOk s) : MemOk (State.ringConsWrite s m v) := by
  unfold State.ringConsWrite
  try dsimp only
  repeat' (first
   | with_reducible assumption
   | with_reducible apply State.pumpRing_memOk
   | (with_reducible apply MemOk.of_only (State.putRing_only _ _ _) (by decide))
   | with_reducible apply MemOk.ite
   | dsimp only)

theorem execRingConsWrite_memOk (value : Nat) (s : State) (hok : MemOk s) : MemOkOut (execRingConsWrite value s) := by
  unfold execRingConsWrite
  try dsimp only
  repeat' (first
   | with_reducible assumption
   | with_reducible apply MemOkOut.next
   | with_reducible apply State.ringConsWrite_memOk
   | with_reducible apply MemOk.ite
   | with_reducible apply MemOkOut.ite
   | (with_reducible apply MemOk.host; intro y hy)
   | dsimp only)

theorem State.ringCtrlWrite_memOk (s : State) (m v : Nat) (hok : MemOk s) : MemOk (State.ringCtrlWrite s m v) := by
  unfold State.ringCtrlWrite
  try dsimp only
  repeat' (first
   | with_reducible assumption
   | with_reducible apply State.pumpRing_memOk
   | (with_reducible apply MemOk.of_only (State.putRing_only _ _ _) (by decide))
   | with_reducible apply MemOk.ite
   | dsimp only)

theorem execRingCtrlWrite_memOk (value : Nat) (s : State) (hok : MemOk s) : MemOkOut (execRingCtrlWrite value s) := by
  unfold execRingCtrlWrite
  try dsimp only
  repeat' (first
   | with_reducible assumption
   | with_reducible apply MemOkOut.next
   | with_reducible apply State.ringCtrlWrite_memOk
   | with_reducible apply MemOk.ite
   | with_reducible apply MemOkOut.ite
   | (with_reducible apply MemOk.host; intro y hy)
   | dsimp only)

theorem State.msixWrite_memOk (s : State) (k v : Nat) (hok : MemOk s) : MemOk (State.msixWrite s k v) := by
  unfold State.msixWrite
  try dsimp only
  repeat' (first
   | with_reducible assumption
   | with_reducible apply State.unmaskVector_memOk
   | with_reducible apply MemOk.ite
   | split
   | (with_reducible apply MemOk.of_only Only.set_msix (by decide))
   | dsimp only)

theorem execMsixVectorUnmask_memOk (vector : Option Nat) (s : State) (hok : MemOk s) : MemOkOut (execMsixVectorUnmask vector s) := by
  unfold execMsixVectorUnmask
  try dsimp only
  repeat' (first
   | with_reducible assumption
   | with_reducible apply MemOkOut.next
   | with_reducible apply State.msixWrite_memOk
   | with_reducible apply State.unmaskAll_memOk
   | with_reducible apply MemOk.ite
   | with_reducible apply MemOkOut.ite
   | split
   | (with_reducible apply MemOk.of_only Only.set_msix (by decide))
   | dsimp only)

end Sys2Proof.Machine
end

