-- ==== Sys2Proof/Laws/CanonicalSystem.lean ====
section
/-!
SUPPORT. Each operation keeps the canonical form of every memory: faults, the fabric, audit, power and boot.
-/

-- One proof at a time: the proofs of this file are many, and run together they take many threads at once.
set_option Elab.async false

set_option linter.unusedTactic false
set_option linter.unreachableTactic false

namespace Sys2Proof.Machine

theorem State.finishGroup_memOk (s : State) (g : Machine.Group) (hok : MemOk s) : MemOk (State.finishGroup s g) := by
  unfold State.finishGroup
  try dsimp only
  repeat' (first
   | with_reducible assumption
   | with_reducible apply State.endReplay_memOk
   | with_reducible apply State.produce_memOk
   | with_reducible apply MemOk.ite
   | (with_reducible apply MemOk.foldl; intro y a hy)
   | split
   | dsimp only)

theorem State.regroup_memOk (s : State) (x : Step) (g : Machine.Group) (e : Nat) (hok : MemOk s) : MemOk (State.regroup s x g e) := by
  unfold State.regroup
  try dsimp only
  repeat' (first
   | with_reducible assumption
   | with_reducible apply State.putEntry_memOk
   | (with_reducible apply MemOk.of_only (State.putGroup_only _ _) (by decide))
   | (with_reducible apply MemOk.of_only (State.wake_only _ _) (by decide))
   | with_reducible apply MemOk.ite
   | split
   | (with_reducible apply MemOk.of_only Only.set_cmds (by decide))
   | dsimp only)

theorem State.moveGroup_memOk (s : State) (st : Status) (g0 : Machine.Group) (hok : MemOk s) : MemOk (State.moveGroup s st g0).1 := by
  unfold State.moveGroup
  try dsimp only
  repeat' (first
   | with_reducible assumption
   | (with_reducible apply MemOk.of_only (State.failGroup_only _ _ _) (by decide))
   | with_reducible apply State.finishGroup_memOk
   | with_reducible apply State.regroup_memOk
   | with_reducible apply MemOk.ite
   | split
   | dsimp only)

theorem State.moveFrom_memOk (s : State) (e : Nat) (st : Status) (hok : MemOk s) : MemOk (State.moveFrom s e st).1 := by
  unfold State.moveFrom
  try dsimp only
  repeat' (first
   | with_reducible assumption
   | with_reducible apply State.moveGroup_memOk
   | with_reducible apply MemOk.ite
   | (with_reducible apply MemOk.foldl_fst; intro y a r hr hy; subst hr)
   | dsimp only)

theorem State.discardPasses_memOk (s : State) (hok : MemOk s) : MemOk (State.discardPasses s) := by
  unfold State.discardPasses
  try dsimp only
  repeat' (first
   | with_reducible assumption
   | with_reducible apply State.rasterRest_memOk
   | with_reducible apply MemOk.ite
   | (with_reducible apply MemOk.of_only Only.set_raster (by decide))
   | dsimp only)

theorem State.clearEnable_memOk (s : State) (b : Blk) (i : Nat) (hok : MemOk s) : MemOk (State.clearEnable s b i).1 := by
  unfold State.clearEnable
  try dsimp only
  repeat' (first
   | with_reducible assumption
   | (with_reducible apply MemOk.of_only (State.bump_only _ _ _ _ _) (by decide))
   | (with_reducible apply MemOk.of_only (State.disableQueued_only _ _ _) (by decide))
   | with_reducible apply State.discardPasses_memOk
   | with_reducible apply State.moveFrom_memOk
   | (with_reducible apply MemOk.of_only (State.putPage_only _ _ _ _) (by decide))
   | (with_reducible apply MemOk.of_only (State.stopDisplay_only _) (by decide))
   | with_reducible apply MemOk.ite
   | split
   | dsimp only)

theorem State.runQueued_memOk (s : State) (c : Cmd) (hok : MemOk s) : MemOkOut (State.runQueued s c) := by
  unfold State.runQueued
  try dsimp only
  repeat' (first
   | with_reducible assumption
   | with_reducible apply MemOkOut.next
   | with_reducible apply execDmaCopy_memOk
   | with_reducible apply execNeAccClear_memOk
   | with_reducible apply execNeAccDrain_memOk
   | with_reducible apply execNeAccLoad_memOk
   | with_reducible apply execNeAccStore_memOk
   | with_reducible apply execNeGemm_memOk
   | with_reducible apply execPostDecode_memOk
   | with_reducible apply execPostSuppress_memOk
   | with_reducible apply execVeDwconv_memOk
   | with_reducible apply execVeEwise_memOk
   | with_reducible apply execVeFunc_memOk
   | with_reducible apply execVeKsel_memOk
   | with_reducible apply execVeMerge_memOk
   | with_reducible apply execVeOptim_memOk
   | with_reducible apply execVeReduce_memOk
   | with_reducible apply execVeXreduce_memOk
   | with_reducible apply execXpC2s_memOk
   | with_reducible apply execXpCopy_memOk
   | with_reducible apply execXpExpand_memOk
   | with_reducible apply execXpS2c_memOk
   | with_reducible apply execXpUpsample_memOk
   | with_reducible apply MemOk.ite
   | with_reducible apply MemOkOut.ite
   | split
   | dsimp only)

theorem Memory.mixed_wf {old new : Memory} (cut : Nat) (ho : Memory.wf 0 old = true) (hn : Memory.wf 0 new = true) :
    Memory.wf 0 (Memory.mixed old new cut) = true := by
  unfold Memory.mixed
  exact Memory.wfFrom_takeWhile_append hn (Memory.wfFrom_dropWhile ho)

theorem State.partly_memOk (s t : State) (g : Nat) (hs : MemOk s) (ht : MemOk t) : MemOk (State.partly s t g) :=
  ⟨Memory.mixed_wf _ hs.1 ht.1, Memory.mixed_wf _ hs.2.1 ht.2.1, hs.2.2⟩

theorem State.stoppedOutput_memOk (s : State) (c : Cmd) (h : MemOk s) : MemOk (State.stoppedOutput s c) := by
  have hf : MemOk s.free.2 := MemOk.of_only (State.free_only s) (by decide) h
  have hi : ∀ i, MemOk (s.free.2.partly (s.runItem i) (s.engineOf c)) := fun i =>
    State.partly_memOk _ _ _ hf (State.runItem_memOk _ _ h)
  have hp : ∀ w, MemOk (s.postPart w) := fun w => State.postPart_memOk _ _ h
  unfold State.stoppedOutput
  split
  · dsimp only
    split
    · exact State.listPart_memOk _ _ _ _ _ _ _ _ hf
    · exact h
  · exact hp _
  · exact hp _
  · split <;> first | exact hi _ | exact h
  · split <;> first | exact hi _ | exact h
  · split
    · exact State.maskWrite_memOk _ _ _ _ _ (MemOk.of_only (State.free_only _) (by decide) hf)
    · exact h
  · split
    · rename_i t ht
      have hq := State.runQueued_memOk s c h
      rw [ht] at hq
      exact State.partly_memOk _ _ _ h hq
    · exact h

theorem State.cutShort_memOk (s : State) (c : Cmd) (hok : MemOk s) : MemOk (State.cutShort s c) := by
  unfold State.cutShort
  try dsimp only
  repeat' (first
   | with_reducible assumption
   | with_reducible apply State.starts_memOk
   | with_reducible apply State.stoppedOutput_memOk
   | with_reducible apply MemOk.ite
   | split
   | dsimp only)

theorem execUnitWatchdogExpiry_memOk (uid : Nat) (s : State) (hok : MemOk s) : MemOkOut (execUnitWatchdogExpiry uid s) := by
  unfold execUnitWatchdogExpiry
  try dsimp only
  repeat' (first
   | with_reducible assumption
   | with_reducible apply MemOkOut.next
   | (with_reducible apply MemOk.of_only (State.at_only _ _) (by decide))
   | with_reducible apply State.cutShort_memOk
   | (with_reducible apply MemOk.of_only (State.err_only _ _ _ _ _ _) (by decide))
   | (with_reducible apply MemOk.of_only (State.faultCmd_only _ _ _ _ _) (by decide))
   | with_reducible apply State.irq_memOk
   | (with_reducible apply MemOk.of_only (State.meDrop_only _) (by decide))
   | (with_reducible apply MemOk.of_only (State.track_only _) (by decide))
   | with_reducible apply MemOk.ite
   | with_reducible apply MemOkOut.ite
   | split
   | dsimp only)

theorem State.faultBlock_memOk (s : State) (b : Blk) (i : Nat) (watchdog : Bool) (run : Option Cmd) (hok : MemOk s) : MemOk (State.faultBlock s b i watchdog run) := by
  unfold State.faultBlock
  try dsimp only
  repeat' (first
   | with_reducible assumption
   | with_reducible apply State.cutShort_memOk
   | (with_reducible apply MemOk.of_only (State.dropRunning_only _ _ _ _) (by decide))
   | (with_reducible apply MemOk.of_only (State.err_only _ _ _ _ _ _) (by decide))
   | with_reducible apply State.irq_memOk
   | (with_reducible apply MemOk.of_only (State.putPage_only _ _ _ _) (by decide))
   | with_reducible apply MemOk.ite
   | split
   | dsimp only)

theorem execBlockFault_memOk (b : Blk) (i : Nat) (watchdog : Bool) (running : Option Nat) (s : State) (hok : MemOk s) : MemOkOut (execBlockFault b i watchdog running s) := by
  unfold execBlockFault
  try dsimp only
  repeat' (first
   | with_reducible assumption
   | with_reducible apply MemOkOut.next
   | with_reducible apply State.clearEnable_memOk
   | with_reducible apply State.faultBlock_memOk
   | (with_reducible apply MemOk.of_only (State.free_only _) (by decide))
   | with_reducible apply State.logFault_memOk
   | (with_reducible apply MemOk.of_only (State.track_only _) (by decide))
   | with_reducible apply MemOk.ite
   | with_reducible apply MemOkOut.ite
   | split
   | dsimp only)

theorem State.clearDie_memOk (s : State) (n : Nat) (hok : MemOk s) : MemOk (State.clearDie s n) := by
  unfold State.clearDie
  try dsimp only
  repeat' (first
   | with_reducible assumption
   | with_reducible apply State.devClear_memOk
   | (with_reducible apply MemOk.of_only (State.putEngine_only _ _ _) (by decide))
   | with_reducible apply MemOk.ite
   | (with_reducible apply MemOk.of_only Only.set_fetches (by decide))
   | dsimp only)

theorem State.loseCd_memOk (s : State) (n : Nat) (hok : MemOk s) : MemOk (State.loseCd s n) := by
  unfold State.loseCd
  try dsimp only
  repeat' (first
   | with_reducible assumption
   | (with_reducible apply MemOk.of_only (State.bump_only _ _ _ _ _) (by decide))
   | with_reducible apply State.clearDie_memOk
   | (with_reducible apply MemOk.of_only (State.endOnDie_only _ _) (by decide))
   | (with_reducible apply MemOk.of_only (State.free_only _) (by decide))
   | with_reducible apply State.irq_memOk
   | with_reducible apply State.logFault_memOk
   | with_reducible apply State.moveFrom_memOk
   | (with_reducible apply MemOk.of_only (State.setDieState_only _ _ _ _) (by decide))
   | (with_reducible apply MemOk.of_only (State.track_only _) (by decide))
   | with_reducible apply MemOk.ite
   | (with_reducible apply MemOk.of_only Only.set_cdLost_pins (by decide))
   | dsimp only)

theorem State.loseMd_memOk (s : State) (hok : MemOk s) : MemOk (State.loseMd s) := by
  unfold State.loseMd
  try dsimp only
  repeat' (first
   | with_reducible assumption
   | (with_reducible apply MemOk.of_only (State.endAll_only _ _ _ _) (by decide))
   | (with_reducible apply MemOk.of_only (State.free_only _) (by decide))
   | with_reducible apply State.irq_memOk
   | with_reducible apply State.logFault_memOk
   | (with_reducible apply MemOk.of_only (State.meDrop_only _) (by decide))
   | (with_reducible apply MemOk.of_only (State.setDieState_only _ _ _ _) (by decide))
   | (with_reducible apply MemOk.of_only (State.track_only _) (by decide))
   | with_reducible apply MemOk.ite
   | (with_reducible apply MemOk.of_only Only.set_mdLost_pins (by decide))
   | dsimp only)

theorem State.loseDie_memOk (s : State) (n : Nat) (hok : MemOk s) : MemOk (State.loseDie s n) := by
  unfold State.loseDie
  try dsimp only
  repeat' (first
   | with_reducible assumption
   | with_reducible apply State.loseCd_memOk
   | with_reducible apply State.loseMd_memOk
   | with_reducible apply MemOk.ite
   | split
   | dsimp only)

theorem execDieLoss_memOk (die : Nat) (unit : Option Nat) (s : State) (hok : MemOk s) : MemOkOut (execDieLoss die unit s) := by
  unfold execDieLoss
  try dsimp only
  repeat' (first
   | with_reducible assumption
   | with_reducible apply MemOkOut.next
   | (with_reducible apply MemOk.of_only (State.err_only _ _ _ _ _ _) (by decide))
   | with_reducible apply State.irq_memOk
   | with_reducible apply State.loseDie_memOk
   | (with_reducible apply MemOk.of_only (State.microcode_only _ _ _) (by decide))
   | with_reducible apply MemOk.ite
   | with_reducible apply MemOkOut.ite
   | split
   | dsimp only)

theorem execHeartbeatTimeout_memOk (die since : Nat) (s : State) (hok : MemOk s) : MemOkOut (execHeartbeatTimeout die since s) := by
  unfold execHeartbeatTimeout
  try dsimp only
  repeat' (first
   | with_reducible assumption
   | with_reducible apply MemOkOut.next
   | (with_reducible apply MemOk.of_only (State.at_only _ _) (by decide))
   | with_reducible apply State.loseDie_memOk
   | with_reducible apply MemOk.ite
   | with_reducible apply MemOkOut.ite
   | dsimp only)

theorem State.retireWrite_memOk (s : State) (v : Nat) (hok : MemOk s) : MemOk (State.retireWrite s v) := by
  unfold State.retireWrite
  try dsimp only
  repeat' (first
   | with_reducible assumption
   | (with_reducible apply MemOk.of_only (State.err_only _ _ _ _ _ _) (by decide))
   | with_reducible apply State.loseDie_memOk
   | with_reducible apply MemOk.ite
   | (with_reducible apply MemOk.foldl; intro y a hy)
   | split
   | dsimp only)

theorem execRetire_memOk (value : Nat) (s : State) (hok : MemOk s) : MemOkOut (execRetire value s) := by
  unfold execRetire
  try dsimp only
  repeat' (first
   | with_reducible assumption
   | with_reducible apply MemOkOut.next
   | with_reducible apply State.retireWrite_memOk
   | with_reducible apply MemOk.ite
   | with_reducible apply MemOkOut.ite
   | split
   | dsimp only)

theorem State.fatal_memOk (s : State) (b : Blk) (i : Nat) (hok : MemOk s) : MemOk (State.fatal s b i) := by
  unfold State.fatal
  try dsimp only
  repeat' (first
   | with_reducible assumption
   | (with_reducible apply MemOk.of_only (State.endAll_only _ _ _ _) (by decide))
   | (with_reducible apply MemOk.of_only (State.free_only _) (by decide))
   | with_reducible apply State.logFault_memOk
   | (with_reducible apply MemOk.of_only (State.meDrop_only _) (by decide))
   | (with_reducible apply MemOk.of_only (State.setReg_only _ _ _ _ _) (by decide))
   | (with_reducible apply MemOk.of_only (State.track_only _) (by decide))
   | with_reducible apply MemOk.ite
   | (with_reducible apply MemOk.of_only Only.set_stopped (by decide))
   | dsimp only)

theorem execFatalFault_memOk (b : Blk) (port : Nat) (s : State) (hok : MemOk s) : MemOkOut (execFatalFault b port s) := by
  unfold execFatalFault
  try dsimp only
  repeat' (first
   | with_reducible assumption
   | with_reducible apply MemOkOut.next
   | with_reducible apply State.fatal_memOk
   | with_reducible apply MemOk.ite
   | with_reducible apply MemOkOut.ite
   | split
   | dsimp only)

theorem execHubFwWatchdog_memOk (core : Nat) (s : State) (hok : MemOk s) : MemOkOut (execHubFwWatchdog core s) := by
  unfold execHubFwWatchdog
  try dsimp only
  repeat' (first
   | with_reducible assumption
   | with_reducible apply MemOkOut.next
   | with_reducible apply State.fatal_memOk
   | (with_reducible apply MemOk.of_only (State.free_only _) (by decide))
   | (with_reducible apply MemOk.of_only (State.fwRestart_only _) (by decide))
   | with_reducible apply State.logFault_memOk
   | with_reducible apply MemOk.ite
   | with_reducible apply MemOkOut.ite
   | split
   | dsimp only)

theorem State.flagEccPoison_memOk (s : State) (f : Nat) (hok : MemOk s) : MemOk (State.flagEccPoison s f) := by
  unfold State.flagEccPoison
  try dsimp only
  repeat' (first
   | with_reducible assumption
   | (with_reducible apply MemOk.of_only (State.free_only _) (by decide))
   | with_reducible apply State.logFault_memOk
   | (with_reducible apply MemOk.of_only (State.poisonFlag_only _ _) (by decide))
   | (with_reducible apply MemOk.of_only (State.track_only _) (by decide))
   | with_reducible apply MemOk.ite
   | dsimp only)

theorem execFlagEccPoison_memOk (flag : Nat) (s : State) (hok : MemOk s) : MemOkOut (execFlagEccPoison flag s) := by
  unfold execFlagEccPoison
  try dsimp only
  repeat' (first
   | with_reducible assumption
   | with_reducible apply MemOkOut.next
   | with_reducible apply State.flagEccPoison_memOk
   | with_reducible apply MemOk.ite
   | with_reducible apply MemOkOut.ite
   | split
   | dsimp only)

theorem State.flagGenWrite_memOk (s : State) (v : Nat) (hok : MemOk s) : MemOk (State.flagGenWrite s v) := by
  unfold State.flagGenWrite
  try dsimp only
  repeat' (first
   | with_reducible assumption
   | with_reducible apply State.irq_memOk
   | (with_reducible apply MemOk.of_only (State.track_only _) (by decide))
   | (with_reducible apply MemOk.of_only (State.writeFlag_only _ _ _) (by decide))
   | with_reducible apply MemOk.ite
   | split
   | dsimp only)

theorem execFlagGenWrite_memOk (value : Nat) (s : State) (hok : MemOk s) : MemOkOut (execFlagGenWrite value s) := by
  unfold execFlagGenWrite
  try dsimp only
  repeat' (first
   | with_reducible assumption
   | with_reducible apply MemOkOut.next
   | with_reducible apply State.flagGenWrite_memOk
   | with_reducible apply MemOk.ite
   | with_reducible apply MemOkOut.ite
   | (with_reducible apply MemOk.host; intro y hy)
   | dsimp only)

theorem State.plant_memOk (s : State) (a kind : Nat) (hok : MemOk s) : MemOk (State.plant s a kind) := by
  unfold State.plant
  try dsimp only
  repeat' (first
   | with_reducible assumption
   | with_reducible apply State.devPut_memOk
   | (with_reducible apply MemOk.of_only (State.free_only _) (by decide))
   | (with_reducible apply MemOk.of_only (State.soften_only _ _) (by decide))
   | (with_reducible apply MemOk.of_only (State.spoil_only _ _) (by decide))
   | with_reducible apply MemOk.ite
   | split
   | dsimp only)

theorem State.scrubbed_memOk (s : State) (b : Blk) (i uncorr irq code a : Nat) (hok : MemOk s) : MemOk (State.scrubbed s b i uncorr irq code a) := by
  unfold State.scrubbed
  try dsimp only
  repeat' (first
   | with_reducible assumption
   | (with_reducible apply MemOk.of_only (State.bump_only _ _ _ _ _) (by decide))
   | with_reducible apply State.correctWord_memOk
   | (with_reducible apply MemOk.of_only (State.err_only _ _ _ _ _ _) (by decide))
   | with_reducible apply State.irq_memOk
   | with_reducible apply MemOk.ite
   | split
   | dsimp only)

theorem State.scrubIn_memOk (s : State) (a : Nat) (m : Target) (hok : MemOk s) : MemOk (State.scrubIn s a m) := by
  unfold State.scrubIn
  try dsimp only
  repeat' (first
   | with_reducible assumption
   | with_reducible apply State.pulse_memOk
   | with_reducible apply State.scrubbed_memOk
   | with_reducible apply MemOk.ite
   | split
   | dsimp only)

theorem State.scrubAt_memOk (s : State) (a : Nat) (hok : MemOk s) : MemOk (State.scrubAt s a) := by
  unfold State.scrubAt
  try dsimp only
  repeat' (first
   | with_reducible assumption
   | with_reducible apply State.scrubIn_memOk
   | with_reducible apply MemOk.ite
   | (with_reducible refine MemOk.elim ?_ fun a => ?_)
   | split
   | dsimp only)

theorem State.scrubWord_memOk (s : State) (a kind : Nat) (hok : MemOk s) : MemOk (State.scrubWord s a kind) := by
  unfold State.scrubWord
  try dsimp only
  repeat' (first
   | with_reducible assumption
   | with_reducible apply State.plant_memOk
   | with_reducible apply State.scrubAt_memOk
   | with_reducible apply MemOk.ite
   | split
   | dsimp only)

theorem State.accError_memOk (s : State) (g slot r kind : Nat) (hok : MemOk s) : MemOk (State.accError s g slot r kind) := by
  unfold State.accError
  try dsimp only
  repeat' (first
   | with_reducible assumption
   | (with_reducible apply MemOk.of_only (State.err_only _ _ _ _ _ _) (by decide))
   | with_reducible apply State.irq_memOk
   | with_reducible apply State.logFault_memOk
   | (with_reducible apply MemOk.of_only (State.putEngine_only _ _ _) (by decide))
   | with_reducible apply State.unitCorr_memOk
   | with_reducible apply MemOk.ite
   | split
   | dsimp only)

theorem State.hubError_memOk (s : State) (off kind : Nat) (hok : MemOk s) : MemOk (State.hubError s off kind) := by
  unfold State.hubError
  try dsimp only
  repeat' (first
   | with_reducible assumption
   | (with_reducible apply MemOk.of_only (State.bump_only _ _ _ _ _) (by decide))
   | (with_reducible apply MemOk.of_only (State.err_only _ _ _ _ _ _) (by decide))
   | with_reducible apply State.irq_memOk
   | with_reducible apply State.logFault_memOk
   | with_reducible apply MemOk.ite
   | split
   | dsimp only)

theorem State.binError_memOk (s : State) (chunk kind : Nat) (hok : MemOk s) : MemOk (State.binError s chunk kind) := by
  unfold State.binError
  try dsimp only
  repeat' (first
   | with_reducible assumption
   | with_reducible apply State.hubError_memOk
   | with_reducible apply State.unitCorr_memOk
   | with_reducible apply MemOk.ite
   | split
   | (with_reducible apply MemOk.of_only Only.set_raster (by decide))
   | dsimp only)

theorem State.matchError_memOk (s : State) (off kind : Nat) (hok : MemOk s) : MemOk (State.matchError s off kind) := by
  unfold State.matchError
  try dsimp only
  repeat' (first
   | with_reducible assumption
   | (with_reducible apply MemOk.of_only (State.err_only _ _ _ _ _ _) (by decide))
   | (with_reducible apply MemOk.of_only (State.faultCmd_only _ _ _ _ _) (by decide))
   | with_reducible apply State.irq_memOk
   | with_reducible apply State.logFault_memOk
   | (with_reducible apply MemOk.of_only (State.meDrop_only _) (by decide))
   | with_reducible apply State.unitCorr_memOk
   | with_reducible apply MemOk.ite
   | split
   | dsimp only)

theorem State.scrubRead_memOk (s : State) (site : EccSite) (kind : Nat) (hok : MemOk s) : MemOk (State.scrubRead s site kind) := by
  unfold State.scrubRead
  try dsimp only
  repeat' (first
   | with_reducible assumption
   | with_reducible apply State.accError_memOk
   | with_reducible apply State.binError_memOk
   | (with_reducible apply MemOk.of_only (State.bump_only _ _ _ _ _) (by decide))
   | with_reducible apply State.hubError_memOk
   | with_reducible apply State.logFault_memOk
   | with_reducible apply State.matchError_memOk
   | with_reducible apply State.scrubWord_memOk
   | (with_reducible apply MemOk.of_only (State.storeError_only _ _) (by decide))
   | (with_reducible apply MemOk.of_only (State.track_only _) (by decide))
   | with_reducible apply State.unitCorr_memOk
   | with_reducible apply MemOk.ite
   | split
   | dsimp only)

theorem execScrubRead_memOk (site : EccSite) (kind : Nat) (s : State) (hok : MemOk s) : MemOkOut (execScrubRead site kind s) := by
  unfold execScrubRead
  try dsimp only
  repeat' (first
   | with_reducible assumption
   | with_reducible apply MemOkOut.next
   | with_reducible apply State.scrubRead_memOk
   | with_reducible apply MemOk.ite
   | with_reducible apply MemOkOut.ite
   | dsimp only)

theorem State.weltRetrain_memOk (s : State) (m : Nat) (hok : MemOk s) : MemOk (State.weltRetrain s m) := by
  unfold State.weltRetrain
  try dsimp only
  repeat' (first
   | with_reducible assumption
   | (with_reducible apply MemOk.of_only (State.bump_only _ _ _ _ _) (by decide))
   | with_reducible apply State.edge_memOk
   | with_reducible apply State.irq_memOk
   | (with_reducible apply MemOk.of_only (State.putModule_only _ _ _) (by decide))
   | (with_reducible apply MemOk.of_only (State.track_only _) (by decide))
   | with_reducible apply MemOk.ite
   | dsimp only)

theorem State.weltCrcError_memOk (s : State) (m : Nat) (ok : Bool) (held : Nat) (hok : MemOk s) : MemOk (State.weltCrcError s m ok held) := by
  unfold State.weltCrcError
  try dsimp only
  repeat' (first
   | with_reducible assumption
   | (with_reducible apply MemOk.of_only (State.bump_only _ _ _ _ _) (by decide))
   | (with_reducible apply MemOk.of_only (State.bumpMax_only _ _ _ _ _ _) (by decide))
   | with_reducible apply State.irq_memOk
   | with_reducible apply State.logFault_memOk
   | with_reducible apply State.pulse_memOk
   | (with_reducible apply MemOk.of_only (State.putModule_only _ _ _) (by decide))
   | with_reducible apply State.weltRetrain_memOk
   | with_reducible apply MemOk.ite
   | split
   | dsimp only)

theorem execWeltCrcError_memOk (module : Nat) (ok : Bool) (held : Nat) (s : State) (hok : MemOk s) : MemOkOut (execWeltCrcError module ok held s) := by
  unfold execWeltCrcError
  try dsimp only
  repeat' (first
   | with_reducible assumption
   | with_reducible apply MemOkOut.next
   | with_reducible apply State.weltCrcError_memOk
   | with_reducible apply MemOk.ite
   | with_reducible apply MemOkOut.ite
   | split
   | dsimp only)

theorem execWeltRetrain_memOk (module : Nat) (s : State) (hok : MemOk s) : MemOkOut (execWeltRetrain module s) := by
  unfold execWeltRetrain
  try dsimp only
  repeat' (first
   | with_reducible assumption
   | with_reducible apply MemOkOut.next
   | (with_reducible apply MemOk.of_only (State.putModule_only _ _ _) (by decide))
   | with_reducible apply State.weltRetrain_memOk
   | with_reducible apply MemOk.ite
   | with_reducible apply MemOkOut.ite
   | (with_reducible apply MemOk.hostWo; intro y hy)
   | split
   | dsimp only)

theorem State.stateRestore_memOk (s : State) (die : Nat) (hok : MemOk s) : MemOk (State.stateRestore s die) := by
  unfold State.stateRestore
  try dsimp only
  repeat' (first
   | with_reducible assumption
   | with_reducible apply State.rewind_memOk
   | (with_reducible apply MemOk.of_only (State.track_only _) (by decide))
   | with_reducible apply MemOk.ite
   | dsimp only)

theorem State.weltDown_memOk (s : State) (m : Nat) (exhausted : Bool) (hok : MemOk s) : MemOk (State.weltDown s m exhausted) := by
  unfold State.weltDown
  try dsimp only
  repeat' (first
   | with_reducible assumption
   | with_reducible apply State.edge_memOk
   | (with_reducible apply MemOk.of_only (State.err_only _ _ _ _ _ _) (by decide))
   | (with_reducible apply MemOk.of_only (State.free_only _) (by decide))
   | with_reducible apply State.irq_memOk
   | with_reducible apply State.logFaultAt_memOk
   | with_reducible apply State.loseDie_memOk
   | (with_reducible apply MemOk.of_only (State.putModule_only _ _ _) (by decide))
   | with_reducible apply MemOk.ite
   | split
   | dsimp only)

theorem State.weltUp_memOk (s : State) (m repaired : Nat) (hok : MemOk s) : MemOk (State.weltUp s m repaired) := by
  unfold State.weltUp
  try dsimp only
  repeat' (first
   | with_reducible assumption
   | (with_reducible apply MemOk.of_only (State.free_only _) (by decide))
   | with_reducible apply State.irq_memOk
   | with_reducible apply State.logFaultAt_memOk
   | (with_reducible apply MemOk.of_only (State.putModule_only _ _ _) (by decide))
   | with_reducible apply State.stateRestore_memOk
   | with_reducible apply MemOk.ite
   | split
   | dsimp only)

theorem execWeltRetrainEnd_memOk (module : Nat) (up : Bool) (repaired : Nat) (exhausted : Bool) (s : State) (hok : MemOk s) : MemOkOut (execWeltRetrainEnd module up repaired exhausted s) := by
  unfold execWeltRetrainEnd
  try dsimp only
  repeat' (first
   | with_reducible assumption
   | with_reducible apply MemOkOut.next
   | (with_reducible apply MemOk.of_only (State.track_only _) (by decide))
   | with_reducible apply State.weltDown_memOk
   | with_reducible apply State.weltUp_memOk
   | with_reducible apply MemOk.ite
   | with_reducible apply MemOkOut.ite
   | split
   | dsimp only)

theorem State.dramRefresh_memOk (s : State) (ch : Nat) (urgent : Bool) (hok : MemOk s) : MemOk (State.dramRefresh s ch urgent) := by
  unfold State.dramRefresh
  try dsimp only
  repeat' (first
   | with_reducible assumption
   | with_reducible apply State.pulse_memOk
   | with_reducible apply MemOk.ite
   | split
   | (with_reducible apply MemOk.of_only Only.set_refresh (by decide))
   | dsimp only)

theorem execDramRefresh_memOk (channel : Nat) (urgent : Bool) (s : State) (hok : MemOk s) : MemOkOut (execDramRefresh channel urgent s) := by
  unfold execDramRefresh
  try dsimp only
  repeat' (first
   | with_reducible assumption
   | with_reducible apply MemOkOut.next
   | with_reducible apply State.dramRefresh_memOk
   | with_reducible apply MemOk.ite
   | with_reducible apply MemOkOut.ite
   | split
   | dsimp only)

theorem State.dramTcrRead_memOk (s : State) (p rate : Nat) (hok : MemOk s) : MemOk (State.dramTcrRead s p rate) := by
  unfold State.dramTcrRead
  try dsimp only
  repeat' (first
   | with_reducible assumption
   | with_reducible apply State.irq_memOk
   | (with_reducible apply MemOk.of_only (State.setReg_only _ _ _ _ _) (by decide))
   | with_reducible apply MemOk.ite
   | split
   | dsimp only)

theorem execDramTcrRead_memOk (port rate : Nat) (s : State) (hok : MemOk s) : MemOkOut (execDramTcrRead port rate s) := by
  unfold execDramTcrRead
  try dsimp only
  repeat' (first
   | with_reducible assumption
   | with_reducible apply MemOkOut.next
   | with_reducible apply State.dramTcrRead_memOk
   | with_reducible apply MemOk.ite
   | with_reducible apply MemOkOut.ite
   | split
   | dsimp only)

theorem State.auditMeasure_memOk (s : State) (c : Cmd) (hok : MemOk s) : MemOk (State.auditMeasure s c) := by
  unfold State.auditMeasure
  try dsimp only
  repeat' (first
   | with_reducible assumption
   | with_reducible apply State.correctReads_memOk
   | (with_reducible apply MemOk.of_only (State.endCmd_only _ _ _ _) (by decide))
   | (with_reducible apply MemOk.of_only (State.faultCmd_only _ _ _ _ _) (by decide))
   | (with_reducible apply MemOk.of_only (State.measure_only _ _) (by decide))
   | with_reducible apply State.starts_memOk
   | with_reducible apply MemOk.ite
   | split
   | dsimp only)

theorem execAuditMeasure_memOk (uid : Nat) (s : State) (hok : MemOk s) : MemOkOut (execAuditMeasure uid s) := by
  unfold execAuditMeasure
  try dsimp only
  repeat' (first
   | with_reducible assumption
   | with_reducible apply MemOkOut.next
   | with_reducible apply State.auditMeasure_memOk
   | (with_reducible apply MemOk.of_only (State.track_only _) (by decide))
   | with_reducible apply MemOk.ite
   | with_reducible apply MemOkOut.ite
   | split
   | dsimp only)

theorem State.auditQuote_memOk (s : State) (c : Cmd) (hok : MemOk s) : MemOk (State.auditQuote s c) := by
  unfold State.auditQuote
  try dsimp only
  repeat' (first
   | with_reducible assumption
   | with_reducible apply State.devPut_memOk
   | (with_reducible apply MemOk.of_only (State.endCmd_only _ _ _ _) (by decide))
   | with_reducible apply State.starts_memOk
   | with_reducible apply MemOk.ite
   | split
   | (with_reducible apply MemOk.set_boot; exact rfl; exact rfl)
   | dsimp only)

theorem execAuditQuote_memOk (uid : Nat) (s : State) (hok : MemOk s) : MemOkOut (execAuditQuote uid s) := by
  unfold execAuditQuote
  try dsimp only
  repeat' (first
   | with_reducible assumption
   | with_reducible apply MemOkOut.next
   | with_reducible apply State.auditQuote_memOk
   | (with_reducible apply MemOk.of_only (State.track_only _) (by decide))
   | with_reducible apply MemOk.ite
   | with_reducible apply MemOkOut.ite
   | split
   | dsimp only)

theorem State.auditPut_memOk (s : State) (a : Nat) (bs : List Byte) (hok : MemOk s) : MemOk (State.auditPut s a bs) := by
  unfold State.auditPut
  try dsimp only
  repeat' (first
   | with_reducible assumption
   | with_reducible apply State.devPut_memOk
   | with_reducible apply MemOk.ite
   | split
   | dsimp only)

theorem State.storeCairn_memOk (s : State) (d : CairnDue) (hok : MemOk s) : MemOk (State.storeCairn s d) := by
  unfold State.storeCairn
  try dsimp only
  repeat' (first
   | with_reducible assumption
   | with_reducible apply State.auditPut_memOk
   | with_reducible apply MemOk.ite
   | split
   | dsimp only)

theorem State.writeCairn_memOk (s : State) (d : CairnDue) (hok : MemOk s) : MemOk (State.writeCairn s d) := by
  unfold State.writeCairn
  exact MemOk.of_only Only.set_cairn (by decide) (State.storeCairn_memOk s d hok)

theorem State.cairnStep_memOk (s : State) (hok : MemOk s) : MemOk (State.cairnStep s) := by
  unfold State.cairnStep
  try dsimp only
  repeat' (first
   | with_reducible assumption
   | (with_reducible apply MemOk.of_only (State.bump_only _ _ _ _ _) (by decide))
   | with_reducible apply State.writeCairn_memOk
   | with_reducible apply MemOk.ite
   | split
   | (with_reducible apply MemOk.of_only Only.set_cairn (by decide))
   | dsimp only)

theorem execCairnRecordWrite_memOk (s : State) (hok : MemOk s) : MemOkOut (execCairnRecordWrite s) := by
  unfold execCairnRecordWrite
  try dsimp only
  repeat' (first
   | with_reducible assumption
   | with_reducible apply MemOkOut.next
   | with_reducible apply State.cairnStep_memOk
   | (with_reducible apply MemOk.of_only (State.sealCairn_only _) (by decide))
   | with_reducible apply MemOk.ite
   | with_reducible apply MemOkOut.ite
   | split
   | dsimp only)

theorem State.auditCtrlWrite_memOk (s : State) (v : Nat) (hok : MemOk s) : MemOk (State.auditCtrlWrite s v) := by
  unfold State.auditCtrlWrite
  try dsimp only
  repeat' (first
   | with_reducible assumption
   | with_reducible apply State.auditPut_memOk
   | (with_reducible apply MemOk.of_only (State.setReg_only _ _ _ _ _) (by decide))
   | with_reducible apply MemOk.ite
   | split
   | (with_reducible apply MemOk.of_only Only.set_cairn (by decide))
   | dsimp only)

theorem execCairnEnable_memOk (value : Nat) (s : State) (hok : MemOk s) : MemOkOut (execCairnEnable value s) := by
  unfold execCairnEnable
  try dsimp only
  repeat' (first
   | with_reducible assumption
   | with_reducible apply MemOkOut.next
   | with_reducible apply State.auditCtrlWrite_memOk
   | with_reducible apply MemOk.ite
   | with_reducible apply MemOkOut.ite
   | (with_reducible apply MemOk.host; intro y hy)
   | dsimp only)

theorem State.abortUpd_memOk (s : State) (h : MemOk s) : MemOk (State.abortUpd s) := by
  unfold State.abortUpd
  split
  · split
    · exact ⟨h.1, h.2.1, h.2.2.1, Memory.writeRun_wf _ _ h.2.2.2⟩
    · exact h
  · exact h

theorem State.wiped_memOk (s : State) (h : MemOk s) : MemOk (State.wiped s) := by
  refine ⟨?_, h.2⟩
  have := Memory.wfFrom_takeWhile_append (t := []) (x := hubSramBase) h.1 rfl
  rw [List.append_nil] at this
  exact this

theorem State.wipe_memOk (s : State) (hok : MemOk s) : MemOk (State.wipe s) := by
  unfold State.wipe
  try dsimp only
  repeat' (first
   | with_reducible assumption
   | with_reducible apply State.abortUpd_memOk
   | (with_reducible apply MemOk.of_only (State.setReg_only _ _ _ _ _) (by decide))
   | with_reducible apply State.wiped_memOk
   | with_reducible apply MemOk.ite
   | split
   | dsimp only)

theorem State.halt_memOk (s : State) (all : Bool) (h : MemOk s) : MemOk (State.halt s all) := by
  have ht : MemOk s.wipe := State.wipe_memOk s h
  unfold State.halt
  extract_lets t trip p b u
  have hu : MemOk u := ⟨rfl, ht.2⟩
  split
  · exact MemOk.of_only (State.setReg_only _ _ _ _ _) (by decide) (show MemOk { u with pages := [], regs := [], now := 0, timeFrac := 0 } from hu)
  · exact hu

theorem State.dbgClose_memOk (s : State) (hok : MemOk s) : MemOk (State.dbgClose s) := by
  unfold State.dbgClose
  try dsimp only
  repeat' (first
   | with_reducible assumption
   | with_reducible apply State.irq_memOk
   | with_reducible apply MemOk.ite
   | split
   | (with_reducible apply MemOk.of_only Only.set_dbg (by decide))
   | dsimp only)

theorem State.estimateDie_memOk (s : State) (k : Nat) (x : ℚ × Nat × Nat) (hok : MemOk s) : MemOk (State.estimateDie s k x) := by
  unfold State.estimateDie
  try dsimp only
  repeat' (first
   | with_reducible assumption
   | with_reducible apply State.irq_memOk
   | (with_reducible apply MemOk.of_only (State.putDiePower_only _ _ _) (by decide))
   | (with_reducible apply MemOk.of_only (State.setReg_only _ _ _ _ _) (by decide))
   | with_reducible apply MemOk.ite
   | split
   | dsimp only)

theorem State.powerEstimate_memOk (s : State) (hub : List Nat) (md : Nat) (counts : List (List Nat)) (hok : MemOk s) : MemOk (State.powerEstimate s hub md counts) := by
  unfold State.powerEstimate
  try dsimp only
  repeat' (first
   | with_reducible assumption
   | (with_reducible apply MemOk.of_only (State.accrue_only _ _) (by decide))
   | (with_reducible apply MemOk.of_only (State.collSync_only _) (by decide))
   | with_reducible apply State.estimateDie_memOk
   | (with_reducible apply MemOk.of_only (State.gainAll_only _) (by decide))
   | with_reducible apply MemOk.ite
   | (with_reducible apply MemOk.foldl; intro y a hy)
   | split
   | (with_reducible apply MemOk.of_only Only.set_pwr (by decide))
   | dsimp only)

theorem execPowerEstimate_memOk (hub : List Nat) (md : Nat) (counts : List (List Nat)) (s : State) (hok : MemOk s) : MemOkOut (execPowerEstimate hub md counts s) := by
  unfold execPowerEstimate
  try dsimp only
  repeat' (first
   | with_reducible assumption
   | with_reducible apply MemOkOut.next
   | (with_reducible apply MemOk.of_only (State.at_only _ _) (by decide))
   | with_reducible apply State.powerEstimate_memOk
   | (with_reducible apply MemOk.of_only (State.track_only _) (by decide))
   | with_reducible apply MemOk.ite
   | with_reducible apply MemOkOut.ite
   | split
   | (with_reducible apply MemOk.of_only Only.set_pwr (by decide))
   | dsimp only)

theorem State.pmbusInvalid_memOk (s : State) (xs : List (Option Nat)) (hok : MemOk s) : MemOk (State.pmbusInvalid s xs) := by
  unfold State.pmbusInvalid
  try dsimp only
  repeat' (first
   | with_reducible assumption
   | (with_reducible apply MemOk.of_only (State.err_only _ _ _ _ _ _) (by decide))
   | with_reducible apply State.irq_memOk
   | with_reducible apply MemOk.ite
   | split
   | (with_reducible apply MemOk.of_only Only.set_pwr (by decide))
   | dsimp only)

theorem State.disagree_memOk (s : State) (hok : MemOk s) : MemOk (State.disagree s) := by
  unfold State.disagree
  try dsimp only
  repeat' (first
   | with_reducible assumption
   | with_reducible apply State.irq_memOk
   | with_reducible apply MemOk.ite
   | split
   | (with_reducible apply MemOk.of_only Only.set_pwr (by decide))
   | dsimp only)

theorem State.capStep_memOk (s : State) (hok : MemOk s) : MemOk (State.capStep s) := by
  unfold State.capStep
  try dsimp only
  repeat' (first
   | with_reducible assumption
   | with_reducible apply State.irq_memOk
   | with_reducible apply MemOk.ite
   | split
   | (with_reducible apply MemOk.of_only Only.set_pwr (by decide))
   | dsimp only)

theorem State.capUpdate_memOk (s : State) (xs : List (Option Nat)) (hok : MemOk s) : MemOk (State.capUpdate s xs) := by
  unfold State.capUpdate
  try dsimp only
  repeat' (first
   | with_reducible assumption
   | with_reducible apply State.capStep_memOk
   | (with_reducible apply MemOk.of_only (State.closeInterval_only _) (by decide))
   | (with_reducible apply MemOk.of_only (State.collSync_only _) (by decide))
   | with_reducible apply State.disagree_memOk
   | with_reducible apply State.pmbusInvalid_memOk
   | (with_reducible apply MemOk.of_only (State.pmbusSample_only _ _) (by decide))
   | with_reducible apply MemOk.ite
   | split
   | dsimp only)

theorem execCapUpdate_memOk (samples : List (Option Nat)) (s : State) (hok : MemOk s) : MemOkOut (execCapUpdate samples s) := by
  unfold execCapUpdate
  try dsimp only
  repeat' (first
   | with_reducible assumption
   | with_reducible apply MemOkOut.next
   | (with_reducible apply MemOk.of_only (State.at_only _ _) (by decide))
   | with_reducible apply State.capUpdate_memOk
   | with_reducible apply MemOk.ite
   | with_reducible apply MemOkOut.ite
   | split
   | (with_reducible apply MemOk.of_only Only.set_pwr (by decide))
   | dsimp only)

theorem State.stopDie_memOk (s : State) (k : Nat) (hok : MemOk s) : MemOk (State.stopDie s k) := by
  unfold State.stopDie
  try dsimp only
  repeat' (first
   | with_reducible assumption
   | with_reducible apply State.clearDie_memOk
   | (with_reducible apply MemOk.of_only (State.meDrop_only _) (by decide))
   | (with_reducible apply MemOk.of_only (State.putDiePower_only _ _ _) (by decide))
   | (with_reducible apply MemOk.of_only (State.setDieState_only _ _ _ _) (by decide))
   | (with_reducible apply MemOk.of_only (State.unfaultDie_only _ _) (by decide))
   | with_reducible apply MemOk.ite
   | split
   | dsimp only)

theorem State.powerStop_memOk (s : State) (cause : Nat) (irqMask : Word) (hok : MemOk s) : MemOk (State.powerStop s cause irqMask) := by
  unfold State.powerStop
  try dsimp only
  repeat' (first
   | with_reducible assumption
   | (with_reducible apply MemOk.of_only (State.bump_only _ _ _ _ _) (by decide))
   | (with_reducible apply MemOk.of_only (State.endAll_only _ _ _ _) (by decide))
   | with_reducible apply State.enterHold_memOk
   | with_reducible apply State.irq_memOk
   | with_reducible apply State.stopDie_memOk
   | (with_reducible apply MemOk.of_only (State.track_only _) (by decide))
   | with_reducible apply MemOk.ite
   | (with_reducible apply MemOk.foldl; intro y a hy)
   | split
   | (with_reducible apply MemOk.of_only Only.set_pwr (by decide))
   | dsimp only)

theorem State.startDie_memOk (s : State) (k : Nat) (hok : MemOk s) : MemOk (State.startDie s k) := by
  unfold State.startDie
  try dsimp only
  repeat' (first
   | with_reducible assumption
   | with_reducible apply State.devClear_memOk
   | (with_reducible apply MemOk.of_only (State.setDieState_only _ _ _ _) (by decide))
   | with_reducible apply MemOk.ite
   | split
   | dsimp only)

theorem State.restored_memOk (s : State) (hok : MemOk s) : MemOk (State.restored s) := by
  unfold State.restored
  try dsimp only
  repeat' (first
   | with_reducible assumption
   | (with_reducible apply MemOk.of_only (State.clearCause_only _ _) (by decide))
   | with_reducible apply State.irq_memOk
   | with_reducible apply State.startDie_memOk
   | (with_reducible apply MemOk.of_only (State.track_only _) (by decide))
   | with_reducible apply MemOk.ite
   | (with_reducible apply MemOk.foldl; intro y a hy)
   | (with_reducible apply MemOk.of_only Only.set_holdCauses_pins_pwr (by decide))
   | (with_reducible apply MemOk.of_only Only.set_pins (by decide))
   | (with_reducible apply MemOk.of_only Only.set_pins_pwr (by decide))
   | (with_reducible apply MemOk.of_only Only.set_pwr (by decide))
   | dsimp only)

theorem execDieRestart_memOk (thermal : Bool) (s : State) (hok : MemOk s) : MemOkOut (execDieRestart thermal s) := by
  unfold execDieRestart
  try dsimp only
  repeat' (first
   | with_reducible assumption
   | with_reducible apply MemOkOut.next
   | (with_reducible apply MemOk.of_only (State.at_only _ _) (by decide))
   | with_reducible apply State.restored_memOk
   | with_reducible apply MemOk.ite
   | with_reducible apply MemOkOut.ite
   | split
   | dsimp only)

theorem State.coolantStop_memOk (s : State) (since : Nat) (hok : MemOk s) : MemOk (State.coolantStop s since) := by
  unfold State.coolantStop
  try dsimp only
  repeat' (first
   | with_reducible assumption
   | (with_reducible apply MemOk.of_only (State.at_only _ _) (by decide))
   | with_reducible apply State.powerStop_memOk
   | with_reducible apply MemOk.ite
   | split
   | (with_reducible apply MemOk.of_only Only.set_pwr (by decide))
   | dsimp only)

theorem execCoolantStop_memOk (s : State) (hok : MemOk s) : MemOkOut (execCoolantStop s) := by
  unfold execCoolantStop
  try dsimp only
  repeat' (first
   | with_reducible assumption
   | with_reducible apply MemOkOut.next
   | with_reducible apply State.coolantStop_memOk
   | with_reducible apply MemOk.ite
   | with_reducible apply MemOkOut.ite
   | split
   | dsimp only)

theorem execCoolFlowOkRise_memOk (s : State) (hok : MemOk s) : MemOkOut (execCoolFlowOkRise s) := by
  unfold execCoolFlowOkRise
  try dsimp only
  repeat' (first
   | with_reducible assumption
   | with_reducible apply MemOkOut.next
   | (with_reducible apply MemOk.of_only (State.bump_only _ _ _ _ _) (by decide))
   | with_reducible apply State.coolantStop_memOk
   | (with_reducible apply MemOk.of_only (State.filtered_only _ _ _) (by decide))
   | with_reducible apply MemOk.ite
   | with_reducible apply MemOkOut.ite
   | split
   | (with_reducible apply MemOk.of_only Only.set_pins_pwr (by decide))
   | dsimp only)

theorem State.dieSensor_memOk (s : State) (k : Nat) (temp old : Int) (hok : MemOk s) : MemOk (State.dieSensor s k temp old) := by
  unfold State.dieSensor
  try dsimp only
  repeat' (first
   | with_reducible assumption
   | (with_reducible apply MemOk.of_only (State.err_only _ _ _ _ _ _) (by decide))
   | with_reducible apply State.irq_memOk
   | (with_reducible apply MemOk.of_only (State.setReg_only _ _ _ _ _) (by decide))
   | with_reducible apply MemOk.ite
   | split
   | dsimp only)

theorem State.thermalTick_memOk (s : State) (temps : List Int) (hok : MemOk s) : MemOk (State.thermalTick s temps) := by
  unfold State.thermalTick
  try dsimp only
  repeat' (first
   | with_reducible assumption
   | (with_reducible apply MemOk.of_only (State.collSync_only _) (by decide))
   | with_reducible apply State.dieSensor_memOk
   | with_reducible apply State.irq_memOk
   | with_reducible apply State.powerStop_memOk
   | (with_reducible apply MemOk.of_only (State.putDiePower_only _ _ _) (by decide))
   | with_reducible apply MemOk.ite
   | (with_reducible apply MemOk.foldl; intro y a hy)
   | split
   | (with_reducible apply MemOk.of_only Only.set_pins_pwr (by decide))
   | dsimp only)

theorem execThermalTick_memOk (temps : List Int) (s : State) (hok : MemOk s) : MemOkOut (execThermalTick temps s) := by
  unfold execThermalTick
  try dsimp only
  repeat' (first
   | with_reducible assumption
   | with_reducible apply MemOkOut.next
   | (with_reducible apply MemOk.of_only (State.at_only _ _) (by decide))
   | with_reducible apply State.thermalTick_memOk
   | (with_reducible apply MemOk.of_only (State.track_only _) (by decide))
   | with_reducible apply MemOk.ite
   | with_reducible apply MemOkOut.ite
   | split
   | (with_reducible apply MemOk.of_only Only.set_pwr (by decide))
   | dsimp only)

theorem execCriticalTrip_memOk (s : State) (hok : MemOk s) : MemOkOut (execCriticalTrip s) := by
  unfold execCriticalTrip
  try dsimp only
  repeat' (first
   | with_reducible assumption
   | with_reducible apply MemOkOut.next
   | with_reducible apply State.halt_memOk
   | (with_reducible apply MemOk.of_only (State.setReg_only _ _ _ _ _) (by decide))
   | with_reducible apply MemOk.ite
   | with_reducible apply MemOkOut.ite
   | split
   | (with_reducible apply MemOk.of_only Only.set_pins (by decide))
   | dsimp only)

theorem State.recordNow_memOk (s : State) (uid : Nat) (hok : MemOk s) : MemOk (State.recordNow s uid) := by
  unfold State.recordNow
  try dsimp only
  repeat' (first
   | with_reducible assumption
   | (with_reducible apply MemOk.of_only (State.closeStep_only _ _) (by decide))
   | with_reducible apply State.endReplay_memOk
   | with_reducible apply State.produce_memOk
   | with_reducible apply MemOk.ite
   | split
   | dsimp only)

theorem State.flushRecords_memOk (s : State) (hok : MemOk s) : MemOk (State.flushRecords s) := by
  unfold State.flushRecords
  try dsimp only
  repeat' (first
   | with_reducible assumption
   | with_reducible apply State.recordNow_memOk
   | with_reducible apply State.writeCredit_memOk
   | with_reducible apply MemOk.ite
   | (with_reducible apply MemOk.foldl; intro y a hy)
   | split
   | dsimp only)

theorem State.deviceReset_memOk (s : State) (hok : MemOk s) : MemOk (State.deviceReset s) := by
  unfold State.deviceReset
  try dsimp only
  repeat' (first
   | with_reducible assumption
   | with_reducible apply State.setDevState_memOk
   | with_reducible apply State.wipe_memOk
   | with_reducible apply MemOk.ite
   | split
   | (with_reducible apply MemOk.set_boot; exact rfl; exact rfl)
   | dsimp only)

theorem execDeviceResetAct_memOk (s : State) (hok : MemOk s) : MemOkOut (execDeviceResetAct s) := by
  unfold execDeviceResetAct
  try dsimp only
  repeat' (first
   | with_reducible assumption
   | with_reducible apply MemOkOut.next
   | with_reducible apply State.deviceReset_memOk
   | with_reducible apply MemOk.ite
   | with_reducible apply MemOkOut.ite
   | split
   | dsimp only)

theorem State.planIrqs_memOk (s : State) (hok : MemOk s) : MemOk (State.planIrqs s) := by
  unfold State.planIrqs
  try dsimp only
  repeat' (first
   | with_reducible assumption
   | with_reducible apply State.irq_memOk
   | with_reducible apply MemOk.ite
   | split
   | dsimp only)

theorem State.recover_memOk (s : State) (path ticks code : Nat) (hok : MemOk s) : MemOk (State.recover s path ticks code) := by
  unfold State.recover
  try dsimp only
  repeat' (first
   | with_reducible assumption
   | with_reducible apply State.dbgClose_memOk
   | with_reducible apply State.planIrqs_memOk
   | with_reducible apply State.setDevState_memOk
   | (with_reducible apply MemOk.of_only (State.setReg_only _ _ _ _ _) (by decide))
   | (with_reducible apply MemOk.of_only (State.showPlan_only _ _ _) (by decide))
   | with_reducible apply MemOk.ite
   | split
   | (with_reducible apply MemOk.set_boot; exact rfl; exact rfl)
   | dsimp only)

theorem State.trainFail_memOk (s : State) (bad : Nat) (hok : MemOk s) : MemOk (State.trainFail s bad) := by
  unfold State.trainFail
  try dsimp only
  repeat' (first
   | with_reducible assumption
   | (with_reducible apply MemOk.of_only (State.err_only _ _ _ _ _ _) (by decide))
   | with_reducible apply State.irq_memOk
   | with_reducible apply MemOk.ite
   | (with_reducible apply MemOk.foldl; intro y a hy)
   | dsimp only)

theorem State.enterReady_memOk (s : State) (path ticks ucFail bad : Nat) (hok : MemOk s) : MemOk (State.enterReady s path ticks ucFail bad) := by
  unfold State.enterReady
  try dsimp only
  repeat' (first
   | with_reducible assumption
   | with_reducible apply State.dbgClose_memOk
   | with_reducible apply State.enterHold_memOk
   | (with_reducible apply MemOk.of_only (State.loadDies_only _ _) (by decide))
   | with_reducible apply State.loseDie_memOk
   | with_reducible apply State.planIrqs_memOk
   | with_reducible apply State.setDevState_memOk
   | with_reducible apply State.settleState_memOk
   | (with_reducible apply MemOk.of_only (State.showPlan_only _ _ _) (by decide))
   | with_reducible apply State.startDisplay_memOk
   | (with_reducible apply MemOk.of_only (State.weltUpAll_only _) (by decide))
   | with_reducible apply MemOk.ite
   | (with_reducible apply MemOk.foldl; intro y a hy)
   | split
   | (with_reducible apply MemOk.set_pwr_boot_dbg; exact rfl; exact rfl)
   | dsimp only)

theorem State.countRecords_memOk (s : State) (dies : Bool) (hok : MemOk s) : MemOk (State.countRecords s dies) := by
  unfold State.countRecords
  try dsimp only
  repeat' (first
   | with_reducible assumption
   | with_reducible apply MemOk.ite
   | split
   | (with_reducible apply MemOk.set_boot; exact rfl; exact rfl)
   | dsimp only)

theorem State.coldImages_memOk (s : State) (ticks badPorts ucFail bad : Nat) (h : MemOk s) :
    MemOk (State.coldImages s ticks badPorts ucFail bad) := by
  unfold State.coldImages
  extract_lets r b s1 s2 fails s3
  have h1 : MemOk s1 := h
  have h2 : MemOk s2 := State.countRecords_memOk _ _ (MemOk.of_only (State.applyInsole_only _ _ _) (by decide) h1)
  have h3 : MemOk s3 := MemOk.of_only (State.portsReady_only _) (by decide)
    (show MemOk { s2 with protEff := s2.protOf, mem := [], badWords := [], softWords := [] } from ⟨rfl, h2.2⟩)
  split
  · exact State.recover_memOk _ _ _ _ h1
  · split
    · exact State.recover_memOk _ _ _ _ (State.trainFail_memOk _ _ h2)
    · split
      · exact State.recover_memOk _ _ _ _ h3
      · exact State.enterReady_memOk _ _ _ _ _ (State.countRecords_memOk _ _ (MemOk.of_only (State.applyInsole_only _ _ _) (by decide) h3))

theorem State.identLost_memOk (s : State) (hok : MemOk s) : MemOk (State.identLost s) := by
  unfold State.identLost
  try dsimp only
  repeat' (first
   | with_reducible assumption
   | with_reducible apply MemOk.ite
   | (with_reducible apply MemOk.set_boot; exact rfl; exact rfl)
   | dsimp only)

theorem State.identTaken_memOk (s : State) (fw : Bool) (hok : MemOk s) : MemOk (State.identTaken s fw) := by
  unfold State.identTaken
  try dsimp only
  repeat' (first
   | with_reducible assumption
   | with_reducible apply MemOk.ite
   | (with_reducible apply MemOk.set_part_boot; exact rfl; exact rfl)
   | dsimp only)

theorem State.coldBoot_memOk (s : State) (ticks : Nat) (temp : Int) (badPorts ucFail bad : Nat) (hok : MemOk s) : MemOk (State.coldBoot s ticks temp badPorts ucFail bad) := by
  unfold State.coldBoot
  try dsimp only
  repeat' (first
   | with_reducible assumption
   | (with_reducible apply MemOk.of_only (State.at_only _ _) (by decide))
   | with_reducible apply State.coldImages_memOk
   | with_reducible apply State.identLost_memOk
   | with_reducible apply State.identTaken_memOk
   | (with_reducible apply MemOk.of_only (State.lockPlls_only _ _) (by decide))
   | with_reducible apply State.recover_memOk
   | (with_reducible apply MemOk.of_only (State.setReg_only _ _ _ _ _) (by decide))
   | with_reducible apply MemOk.ite
   | split
   | (with_reducible apply MemOk.set_boot; exact rfl; exact rfl)
   | dsimp only)

theorem State.leaveReset_memOk (s : State) (hok : MemOk s) : MemOk (State.leaveReset s) := by
  unfold State.leaveReset
  try dsimp only
  repeat' (first
   | with_reducible assumption
   | with_reducible apply MemOk.ite
   | (with_reducible apply MemOk.set_devState_pins_boot; exact rfl; exact rfl)
   | dsimp only)

theorem State.releaseReset_memOk (s : State) (hok : MemOk s) : MemOk (State.releaseReset s) := by
  unfold State.releaseReset
  try dsimp only
  repeat' (first
   | with_reducible assumption
   | with_reducible apply State.leaveReset_memOk
   | with_reducible apply MemOk.ite
   | split
   | (with_reducible apply MemOk.of_only Only.set_pins (by decide))
   | dsimp only)

theorem execColdBoot_memOk (ticks : Nat) (dramTemp : Int) (badPorts ucFail badDies : Nat) (s : State) (hok : MemOk s) : MemOkOut (execColdBoot ticks dramTemp badPorts ucFail badDies s) := by
  unfold execColdBoot
  try dsimp only
  repeat' (first
   | with_reducible assumption
   | with_reducible apply MemOkOut.next
   | with_reducible apply State.coldBoot_memOk
   | with_reducible apply State.releaseReset_memOk
   | with_reducible apply MemOk.ite
   | with_reducible apply MemOkOut.ite
   | split
   | dsimp only)

theorem State.wakePorts_memOk (s : State) (path ticks ucFail bad fails : Nat) (hok : MemOk s) : MemOk (State.wakePorts s path ticks ucFail bad fails) := by
  unfold State.wakePorts
  try dsimp only
  repeat' (first
   | with_reducible assumption
   | (with_reducible apply MemOk.of_only (State.applyInsole_only _ _ _) (by decide))
   | with_reducible apply State.enterReady_memOk
   | (with_reducible apply MemOk.of_only (State.portsReady_only _) (by decide))
   | with_reducible apply State.recover_memOk
   | with_reducible apply State.trainFail_memOk
   | with_reducible apply MemOk.ite
   | split
   | dsimp only)

theorem State.retrainDram_memOk (s : State) (temp : Int) (hok : MemOk s) : MemOk (State.retrainDram s temp) := by
  unfold State.retrainDram
  try dsimp only
  repeat' (first
   | with_reducible assumption
   | with_reducible apply MemOk.ite
   | split
   | (with_reducible apply MemOk.set_boot; exact rfl; exact rfl)
   | dsimp only)

theorem State.wakeBoot_memOk (s : State) (path ticks : Nat) (temp : Int) (badPorts ucFail bad : Nat) (hok : MemOk s) : MemOk (State.wakeBoot s path ticks temp badPorts ucFail bad) := by
  unfold State.wakeBoot
  try dsimp only
  repeat' (first
   | with_reducible assumption
   | (with_reducible apply MemOk.of_only (State.at_only _ _) (by decide))
   | with_reducible apply State.identLost_memOk
   | with_reducible apply State.identTaken_memOk
   | (with_reducible apply MemOk.of_only (State.lockPlls_only _ _) (by decide))
   | with_reducible apply State.recover_memOk
   | with_reducible apply State.retrainDram_memOk
   | with_reducible apply State.wakePorts_memOk
   | with_reducible apply MemOk.ite
   | split
   | dsimp only)

theorem execWake_memOk (ticks : Nat) (mismatch : Bool) (dramTemp : Int) (badPorts ucFail badDies : Nat) (s : State) (hok : MemOk s) : MemOkOut (execWake ticks mismatch dramTemp badPorts ucFail badDies s) := by
  unfold execWake
  try dsimp only
  repeat' (first
   | with_reducible assumption
   | with_reducible apply MemOkOut.next
   | with_reducible apply State.wakeBoot_memOk
   | with_reducible apply MemOk.ite
   | with_reducible apply MemOkOut.ite
   | split
   | (with_reducible apply MemOk.set_boot; exact rfl; exact rfl)
   | dsimp only)

theorem State.wakeFrom_memOk (s : State) (sources : Nat) (hok : MemOk s) : MemOk (State.wakeFrom s sources) := by
  unfold State.wakeFrom
  try dsimp only
  repeat' (first
   | with_reducible assumption
   | with_reducible apply State.irq_memOk
   | with_reducible apply State.setDevState_memOk
   | (with_reducible apply MemOk.of_only (State.setReg_only _ _ _ _ _) (by decide))
   | with_reducible apply MemOk.ite
   | split
   | (with_reducible apply MemOk.set_pins_boot; exact rfl; exact rfl)
   | dsimp only)

theorem State.sleepNow_memOk (s : State) (latched : Nat) (h : MemOk s) : MemOk (State.sleepNow s latched) := by
  unfold State.sleepNow
  extract_lets ctrl sr fw t
  have ht : MemOk t := MemOk.of_only (State.bump_only _ _ _ _ _) (by decide) (State.wipe_memOk _ h)
  refine State.wakeFrom_memOk _ _ ⟨?_, ht.2⟩
  show Memory.wf 0 (if sr then t.mem else []) = true
  split
  · exact ht.1
  · rfl

theorem State.enterBasecamp_memOk (s : State) (hok : MemOk s) : MemOk (State.enterBasecamp s) := by
  unfold State.enterBasecamp
  try dsimp only
  repeat' (first
   | with_reducible assumption
   | with_reducible apply State.sleepNow_memOk
   | with_reducible apply MemOk.ite
   | split
   | dsimp only)

theorem State.sleep_memOk (s : State) (hok : MemOk s) : MemOk (State.sleep s) := by
  unfold State.sleep
  try dsimp only
  repeat' (first
   | with_reducible assumption
   | (with_reducible apply MemOk.of_only (State.endWork_only _ _) (by decide))
   | with_reducible apply State.enterBasecamp_memOk
   | with_reducible apply State.flushRecords_memOk
   | with_reducible apply MemOk.ite
   | (with_reducible apply MemOk.of_only Only.set_sleeping (by decide))
   | dsimp only)

theorem State.sleepCtrlWrite_memOk (s : State) (v : Nat) (hok : MemOk s) : MemOk (State.sleepCtrlWrite s v) := by
  unfold State.sleepCtrlWrite
  try dsimp only
  repeat' (first
   | with_reducible assumption
   | (with_reducible apply MemOk.of_only (State.err_only _ _ _ _ _ _) (by decide))
   | (with_reducible apply MemOk.of_only (State.setReg_only _ _ _ _ _) (by decide))
   | with_reducible apply State.sleep_memOk
   | with_reducible apply MemOk.ite
   | split
   | dsimp only)

theorem execSleep_memOk (value : Nat) (s : State) (hok : MemOk s) : MemOkOut (execSleep value s) := by
  unfold execSleep
  try dsimp only
  repeat' (first
   | with_reducible assumption
   | with_reducible apply MemOkOut.next
   | with_reducible apply State.sleepCtrlWrite_memOk
   | with_reducible apply MemOk.ite
   | with_reducible apply MemOkOut.ite
   | (with_reducible apply MemOk.host; intro y hy)
   | dsimp only)

theorem State.wakeBy_memOk (s : State) (source : Nat) (hok : MemOk s) : MemOk (State.wakeBy s source) := by
  unfold State.wakeBy
  try dsimp only
  repeat' (first
   | with_reducible assumption
   | with_reducible apply State.wakeFrom_memOk
   | with_reducible apply MemOk.ite
   | split
   | (with_reducible apply MemOk.of_only Only.set_sleeping (by decide))
   | dsimp only)

theorem execWakeNFall_memOk (s : State) (hok : MemOk s) : MemOkOut (execWakeNFall s) := by
  unfold execWakeNFall
  try dsimp only
  repeat' (first
   | with_reducible assumption
   | with_reducible apply MemOkOut.next
   | (with_reducible apply MemOk.of_only (State.filtered_only _ _ _) (by decide))
   | with_reducible apply State.wakeBy_memOk
   | with_reducible apply MemOk.ite
   | with_reducible apply MemOkOut.ite
   | dsimp only)

theorem execUsb4WakeSignal_memOk (s : State) (hok : MemOk s) : MemOkOut (execUsb4WakeSignal s) := by
  unfold execUsb4WakeSignal
  try dsimp only
  repeat' (first
   | with_reducible assumption
   | with_reducible apply MemOkOut.next
   | with_reducible apply State.wakeBy_memOk
   | with_reducible apply MemOk.ite
   | with_reducible apply MemOkOut.ite
   | dsimp only)

theorem execAlarm_memOk (s : State) (hok : MemOk s) : MemOkOut (execAlarm s) := by
  unfold execAlarm
  try dsimp only
  repeat' (first
   | with_reducible assumption
   | with_reducible apply MemOkOut.next
   | (with_reducible apply MemOk.of_only (State.at_only _ _) (by decide))
   | with_reducible apply State.irq_memOk
   | with_reducible apply State.wakeBy_memOk
   | with_reducible apply MemOk.ite
   | with_reducible apply MemOkOut.ite
   | split
   | dsimp only)

theorem execPwrGoodRise_memOk (s : State) (hok : MemOk s) : MemOkOut (execPwrGoodRise s) := by
  unfold execPwrGoodRise
  try dsimp only
  repeat' (first
   | with_reducible assumption
   | with_reducible apply MemOkOut.next
   | with_reducible apply State.leaveReset_memOk
   | with_reducible apply MemOk.ite
   | with_reducible apply MemOkOut.ite
   | split
   | (with_reducible apply MemOk.of_only Only.set_pins (by decide))
   | (with_reducible apply MemOk.set_pins_boot; exact rfl; exact rfl)
   | dsimp only)

theorem State.resetHeld_memOk (s : State) (byPwrGood : Bool) (hok : MemOk s) : MemOk (State.resetHeld s byPwrGood) := by
  unfold State.resetHeld
  try dsimp only
  repeat' (first
   | with_reducible assumption
   | with_reducible apply State.halt_memOk
   | with_reducible apply MemOk.ite
   | (with_reducible apply MemOk.of_only Only.set_pins (by decide))
   | dsimp only)

theorem execResetAssert_memOk (byPwrGood : Bool) (s : State) (hok : MemOk s) : MemOkOut (execResetAssert byPwrGood s) := by
  unfold execResetAssert
  try dsimp only
  repeat' (first
   | with_reducible assumption
   | with_reducible apply MemOkOut.next
   | with_reducible apply State.resetHeld_memOk
   | with_reducible apply MemOk.ite
   | with_reducible apply MemOkOut.ite
   | split
   | (with_reducible apply MemOk.of_only Only.set_pins (by decide))
   | dsimp only)

theorem execSupplyLoss_memOk (baseCamp : Bool) (s : State) (hok : MemOk s) : MemOkOut (execSupplyLoss baseCamp s) := by
  unfold execSupplyLoss
  try dsimp only
  repeat' (first
   | with_reducible assumption
   | with_reducible apply MemOkOut.next
   | with_reducible apply State.halt_memOk
   | with_reducible apply MemOk.ite
   | with_reducible apply MemOkOut.ite
   | split
   | (with_reducible apply MemOk.of_only Only.set_pins (by decide))
   | (with_reducible apply MemOk.of_only Only.set_regs_pins_bw (by decide))
   | dsimp only)

theorem State.updRun_memOk (s : State) (u : UpdOp) (h : MemOk s) : MemOk (State.updRun s u) := by
  unfold State.updRun
  extract_lets f b a n fail
  split
  · split <;> exact h
  · split
    · exact ⟨h.1, h.2.1, h.2.2.1, Memory.writeRun_wf _ _ h.2.2.2⟩
    · exact ⟨h.1, h.2.1, h.2.2.1, Memory.clearRun_wf _ _ h.2.2.2⟩
  · split
    · exact ⟨h.1, h.2.1, h.2.2.1, Memory.writeRun_wf _ _ h.2.2.2⟩
    · exact ⟨h.1, h.2.1, h.2.2.1, Memory.writeRun_wf _ _ h.2.2.2⟩
  · exact h
  · exact h
  · exact h

theorem State.updEnd_memOk (s : State) (result : Nat) (hok : MemOk s) : MemOk (State.updEnd s result) := by
  unfold State.updEnd
  try dsimp only
  repeat' (first
   | with_reducible assumption
   | with_reducible apply State.irq_memOk
   | with_reducible apply MemOk.ite
   | (with_reducible apply MemOk.set_boot; exact rfl; exact rfl)
   | dsimp only)

theorem State.updCmdWrite_memOk (s : State) (v : Nat) (fail : Bool) (hok : MemOk s) : MemOk (State.updCmdWrite s v fail) := by
  unfold State.updCmdWrite
  try dsimp only
  repeat' (first
   | with_reducible assumption
   | (with_reducible apply MemOk.of_only (State.err_only _ _ _ _ _ _) (by decide))
   | (with_reducible apply MemOk.of_only (State.setReg_only _ _ _ _ _) (by decide))
   | with_reducible apply State.updEnd_memOk
   | with_reducible apply MemOk.ite
   | split
   | (with_reducible apply MemOk.set_boot; exact rfl; exact rfl)
   | dsimp only)

theorem State.updFinish_memOk (s : State) (hok : MemOk s) : MemOk (State.updFinish s) := by
  unfold State.updFinish
  try dsimp only
  repeat' (first
   | with_reducible assumption
   | (with_reducible apply MemOk.of_only (State.bump_only _ _ _ _ _) (by decide))
   | with_reducible apply State.updEnd_memOk
   | with_reducible apply State.updRun_memOk
   | with_reducible apply MemOk.ite
   | split
   | (with_reducible apply MemOk.set_boot; exact rfl; exact rfl)
   | dsimp only)

theorem State.updCommand_memOk (s : State) (op len : Nat) (fail : Bool) (hok : MemOk s) : MemOk (State.updCommand s op len fail) := by
  unfold State.updCommand
  try dsimp only
  repeat' (first
   | with_reducible assumption
   | with_reducible apply State.updCmdWrite_memOk
   | with_reducible apply MemOk.ite
   | (with_reducible apply MemOk.host; intro y hy)
   | dsimp only)

theorem execUpdReadFlash_memOk (len : Nat) (fail : Bool) (s : State) (hok : MemOk s) : MemOkOut (execUpdReadFlash len fail s) := by
  unfold execUpdReadFlash
  try dsimp only
  repeat' (first
   | with_reducible assumption
   | with_reducible apply MemOkOut.next
   | with_reducible apply State.updCommand_memOk
   | with_reducible apply MemOk.ite
   | with_reducible apply MemOkOut.ite
   | dsimp only)

theorem execUpdErase_memOk (len : Nat) (fail : Bool) (s : State) (hok : MemOk s) : MemOkOut (execUpdErase len fail s) := by
  unfold execUpdErase
  try dsimp only
  repeat' (first
   | with_reducible assumption
   | with_reducible apply MemOkOut.next
   | with_reducible apply State.updCommand_memOk
   | with_reducible apply MemOk.ite
   | with_reducible apply MemOkOut.ite
   | dsimp only)

theorem execUpdProgram_memOk (len : Nat) (fail : Bool) (s : State) (hok : MemOk s) : MemOkOut (execUpdProgram len fail s) := by
  unfold execUpdProgram
  try dsimp only
  repeat' (first
   | with_reducible assumption
   | with_reducible apply MemOkOut.next
   | with_reducible apply State.updCommand_memOk
   | with_reducible apply MemOk.ite
   | with_reducible apply MemOkOut.ite
   | dsimp only)

theorem execUpdReadId_memOk (len : Nat) (s : State) (hok : MemOk s) : MemOkOut (execUpdReadId len s) := by
  unfold execUpdReadId
  try dsimp only
  repeat' (first
   | with_reducible assumption
   | with_reducible apply MemOkOut.next
   | with_reducible apply State.updCommand_memOk
   | with_reducible apply MemOk.ite
   | with_reducible apply MemOkOut.ite
   | dsimp only)

theorem execUpdRaiseSvn_memOk (s : State) (hok : MemOk s) : MemOkOut (execUpdRaiseSvn s) := by
  unfold execUpdRaiseSvn
  try dsimp only
  repeat' (first
   | with_reducible assumption
   | with_reducible apply MemOkOut.next
   | with_reducible apply State.updCommand_memOk
   | with_reducible apply MemOk.ite
   | with_reducible apply MemOkOut.ite
   | dsimp only)

theorem execUpdSetCustKey_memOk (s : State) (hok : MemOk s) : MemOkOut (execUpdSetCustKey s) := by
  unfold execUpdSetCustKey
  try dsimp only
  repeat' (first
   | with_reducible assumption
   | with_reducible apply MemOkOut.next
   | with_reducible apply State.updCommand_memOk
   | with_reducible apply MemOk.ite
   | with_reducible apply MemOkOut.ite
   | dsimp only)

end Sys2Proof.Machine
end

