-- ==== Sys2Proof/Laws/CanonicalRegs.lean ====
section
/-!
SUPPORT. Each operation keeps the canonical form of every memory: counters, registers, JTAG and pins.
-/

-- One proof at a time: the proofs of this file are many, and run together they take many threads at once.
set_option Elab.async false

set_option linter.unusedTactic false
set_option linter.unreachableTactic false

namespace Sys2Proof.Machine

theorem execCounterSaturate_memOk (die page k : Nat) (s : State) (hok : MemOk s) : MemOkOut (execCounterSaturate die page k s) := by
  unfold execCounterSaturate
  try dsimp only
  repeat' (first
   | with_reducible assumption
   | with_reducible apply MemOkOut.next
   | with_reducible apply State.saturate_memOk
   | with_reducible apply MemOk.ite
   | with_reducible apply MemOkOut.ite
   | split
   | dsimp only)

theorem State.snapshot_memOk (s : State) (die : Nat) (hok : MemOk s) : MemOk (State.snapshot s die) := by
  unfold State.snapshot
  try dsimp only
  repeat' (first
   | with_reducible assumption
   | with_reducible apply State.irq_memOk
   | (with_reducible apply MemOk.of_only (State.setReg_only _ _ _ _ _) (by decide))
   | with_reducible apply MemOk.ite
   | split
   | (with_reducible apply MemOk.of_only Only.set_freeCount_ctrs_snaps (by decide))
   | dsimp only)

theorem State.armAt_memOk (s : State) (die time : Nat) (hok : MemOk s) : MemOk (State.armAt s die time) := by
  unfold State.armAt
  try dsimp only
  repeat' (first
   | with_reducible assumption
   | (with_reducible apply MemOk.of_only (State.err_only _ _ _ _ _ _) (by decide))
   | with_reducible apply State.snapshot_memOk
   | with_reducible apply MemOk.ite
   | split
   | (with_reducible apply MemOk.of_only Only.set_snaps (by decide))
   | dsimp only)

theorem State.snapCtrlWrite_memOk (s : State) (die v : Nat) (hok : MemOk s) : MemOk (State.snapCtrlWrite s die v) := by
  unfold State.snapCtrlWrite
  try dsimp only
  repeat' (first
   | with_reducible assumption
   | with_reducible apply State.armAt_memOk
   | (with_reducible apply MemOk.of_only (State.err_only _ _ _ _ _ _) (by decide))
   | with_reducible apply State.snapshot_memOk
   | with_reducible apply MemOk.ite
   | (with_reducible apply MemOk.foldl; intro y a hy)
   | split
   | dsimp only)

theorem execSnapNow_memOk (die : Nat) (s : State) (hok : MemOk s) : MemOkOut (execSnapNow die s) := by
  unfold execSnapNow
  try dsimp only
  repeat' (first
   | with_reducible assumption
   | with_reducible apply MemOkOut.next
   | with_reducible apply State.snapCtrlWrite_memOk
   | with_reducible apply MemOk.ite
   | with_reducible apply MemOkOut.ite
   | (with_reducible apply MemOk.hostWo; intro y hy)
   | dsimp only)

theorem execSnapArm_memOk (die : Nat) (s : State) (hok : MemOk s) : MemOkOut (execSnapArm die s) := by
  unfold execSnapArm
  try dsimp only
  repeat' (first
   | with_reducible assumption
   | with_reducible apply MemOkOut.next
   | with_reducible apply State.snapCtrlWrite_memOk
   | with_reducible apply MemOk.ite
   | with_reducible apply MemOkOut.ite
   | (with_reducible apply MemOk.hostWo; intro y hy)
   | dsimp only)

theorem execSnapArmAll_memOk (s : State) (hok : MemOk s) : MemOkOut (execSnapArmAll s) := by
  unfold execSnapArmAll
  try dsimp only
  repeat' (first
   | with_reducible assumption
   | with_reducible apply MemOkOut.next
   | with_reducible apply State.snapCtrlWrite_memOk
   | with_reducible apply MemOk.ite
   | with_reducible apply MemOkOut.ite
   | (with_reducible apply MemOk.hostWo; intro y hy)
   | dsimp only)

theorem execSnapFire_memOk (die : Nat) (s : State) (hok : MemOk s) : MemOkOut (execSnapFire die s) := by
  unfold execSnapFire
  try dsimp only
  repeat' (first
   | with_reducible assumption
   | with_reducible apply MemOkOut.next
   | (with_reducible apply MemOk.of_only (State.at_only _ _) (by decide))
   | with_reducible apply State.snapshot_memOk
   | with_reducible apply MemOk.ite
   | with_reducible apply MemOkOut.ite
   | split
   | dsimp only)

theorem State.dbgCtrlWrite_memOk (s : State) (v : Nat) (hok : MemOk s) : MemOk (State.dbgCtrlWrite s v) := by
  unfold State.dbgCtrlWrite
  try dsimp only
  repeat' (first
   | with_reducible assumption
   | with_reducible apply State.dbgClose_memOk
   | with_reducible apply MemOk.ite
   | split
   | (with_reducible apply MemOk.of_only Only.set_dbg (by decide))
   | dsimp only)

theorem execDbgCtrlClose_memOk (s : State) (hok : MemOk s) : MemOkOut (execDbgCtrlClose s) := by
  unfold execDbgCtrlClose
  try dsimp only
  repeat' (first
   | with_reducible assumption
   | with_reducible apply MemOkOut.next
   | with_reducible apply State.dbgCtrlWrite_memOk
   | with_reducible apply MemOk.ite
   | with_reducible apply MemOkOut.ite
   | (with_reducible apply MemOk.hostWo; intro y hy)
   | dsimp only)

theorem execDbgCtrlLockout_memOk (s : State) (hok : MemOk s) : MemOkOut (execDbgCtrlLockout s) := by
  unfold execDbgCtrlLockout
  try dsimp only
  repeat' (first
   | with_reducible assumption
   | with_reducible apply MemOkOut.next
   | with_reducible apply State.dbgCtrlWrite_memOk
   | with_reducible apply MemOk.ite
   | with_reducible apply MemOkOut.ite
   | (with_reducible apply MemOk.hostWo; intro y hy)
   | dsimp only)

theorem State.statClear_memOk (s : State) (b : Blk) (i v : Nat) (hok : MemOk s) : MemOk (State.statClear s b i v) := by
  unfold State.statClear
  try dsimp only
  repeat' (first
   | with_reducible assumption
   | with_reducible apply State.evalVector_memOk
   | (with_reducible apply MemOk.of_only (State.putPage_only _ _ _ _) (by decide))
   | with_reducible apply MemOk.ite
   | dsimp only)

theorem State.irqEnWrite_memOk (s : State) (b : Blk) (i v : Nat) (hok : MemOk s) : MemOk (State.irqEnWrite s b i v) := by
  unfold State.irqEnWrite
  try dsimp only
  repeat' (first
   | with_reducible assumption
   | with_reducible apply State.evalVector_memOk
   | (with_reducible apply MemOk.of_only (State.putPage_only _ _ _ _) (by decide))
   | with_reducible apply MemOk.ite
   | dsimp only)

theorem State.started_memOk (s : State) (b : Blk) (hok : MemOk s) : MemOk (State.started s b) := by
  unfold State.started
  try dsimp only
  repeat' (first
   | with_reducible assumption
   | with_reducible apply State.startDisplay_memOk
   | with_reducible apply MemOk.ite
   | split
   | (with_reducible apply MemOk.of_only Only.set_ingest (by decide))
   | dsimp only)

theorem State.setEnable_memOk (s : State) (b : Blk) (i : Nat) (hok : MemOk s) : MemOk (State.setEnable s b i) := by
  unfold State.setEnable
  try dsimp only
  repeat' (first
   | with_reducible assumption
   | (with_reducible apply MemOk.of_only (State.drainEnd_only _ _ _) (by decide))
   | (with_reducible apply MemOk.of_only (State.err_only _ _ _ _ _ _) (by decide))
   | (with_reducible apply MemOk.of_only (State.putPage_only _ _ _ _) (by decide))
   | with_reducible apply State.settleState_memOk
   | with_reducible apply State.started_memOk
   | (with_reducible apply MemOk.of_only (State.track_only _) (by decide))
   | with_reducible apply MemOk.ite
   | split
   | dsimp only)

theorem State.unsetEnable_memOk (s : State) (b : Blk) (i : Nat) (hok : MemOk s) : MemOk (State.unsetEnable s b i) := by
  unfold State.unsetEnable
  try dsimp only
  repeat' (first
   | with_reducible assumption
   | with_reducible apply State.clearEnable_memOk
   | (with_reducible apply MemOk.of_only (State.drainEnd_only _ _ _) (by decide))
   | with_reducible apply State.settleState_memOk
   | (with_reducible apply MemOk.of_only (State.stopOutput_only _ _) (by decide))
   | (with_reducible apply MemOk.of_only (State.track_only _) (by decide))
   | with_reducible apply MemOk.ite
   | split
   | dsimp only)

theorem State.clearHeld_memOk (s : State) (b : Blk) (i : Nat) (hok : MemOk s) : MemOk (State.clearHeld s b i) := by
  unfold State.clearHeld
  try dsimp only
  repeat' (first
   | with_reducible assumption
   | with_reducible apply State.irq_memOk
   | (with_reducible apply MemOk.of_only (State.putEngine_only _ _ _) (by decide))
   | (with_reducible apply MemOk.of_only (State.putOut_only _ _ _) (by decide))
   | with_reducible apply MemOk.ite
   | split
   | (with_reducible apply MemOk.of_only Only.set_disp (by decide))
   | (with_reducible apply MemOk.of_only Only.set_dma (by decide))
   | (with_reducible apply MemOk.of_only Only.set_ingest (by decide))
   | (with_reducible apply MemOk.of_only Only.set_raster (by decide))
   | (with_reducible apply MemOk.of_only Only.set_saveBase (by decide))
   | dsimp only)

theorem State.softReset_memOk (s : State) (b : Blk) (i : Nat) (hok : MemOk s) : MemOk (State.softReset s b i) := by
  unfold State.softReset
  try dsimp only
  repeat' (first
   | with_reducible assumption
   | with_reducible apply State.clearHeld_memOk
   | with_reducible apply State.evalVector_memOk
   | (with_reducible apply MemOk.of_only (State.putPage_only _ _ _ _) (by decide))
   | with_reducible apply State.settleState_memOk
   | with_reducible apply State.started_memOk
   | (with_reducible apply MemOk.of_only (State.track_only _) (by decide))
   | with_reducible apply MemOk.ite
   | split
   | (with_reducible apply MemOk.of_only Only.set_regs_latch (by decide))
   | dsimp only)

theorem State.softResetWrite_memOk (s : State) (b : Blk) (i : Nat) (hok : MemOk s) : MemOk (State.softResetWrite s b i) := by
  unfold State.softResetWrite
  try dsimp only
  repeat' (first
   | with_reducible assumption
   | (with_reducible apply MemOk.of_only (State.drainEnd_only _ _ _) (by decide))
   | (with_reducible apply MemOk.of_only (State.err_only _ _ _ _ _ _) (by decide))
   | with_reducible apply State.softReset_memOk
   | with_reducible apply MemOk.ite
   | split
   | dsimp only)

theorem State.enableWrite_memOk (s : State) (b : Blk) (i v : Nat) (hok : MemOk s) : MemOk (State.enableWrite s b i v) := by
  unfold State.enableWrite
  try dsimp only
  repeat' (first
   | with_reducible assumption
   | (with_reducible apply MemOk.of_only (State.drainWrite_only _ _ _ _) (by decide))
   | (with_reducible apply MemOk.of_only (State.putPage_only _ _ _ _) (by decide))
   | with_reducible apply State.setEnable_memOk
   | with_reducible apply State.softResetWrite_memOk
   | with_reducible apply State.unsetEnable_memOk
   | with_reducible apply MemOk.ite
   | split
   | dsimp only)

theorem State.ctrlWrite_memOk (s : State) (b : Blk) (i v : Nat) (hok : MemOk s) : MemOk (State.ctrlWrite s b i v) := by
  unfold State.ctrlWrite
  try dsimp only
  repeat' (first
   | with_reducible assumption
   | with_reducible apply State.enableWrite_memOk
   | with_reducible apply State.softResetWrite_memOk
   | with_reducible apply MemOk.ite
   | split
   | dsimp only)

theorem State.headerWrite_memOk (s : State) (b : Blk) (i off v : Nat) (hok : MemOk s) : MemOk (State.headerWrite s b i off v) := by
  unfold State.headerWrite
  try dsimp only
  repeat' (first
   | with_reducible assumption
   | with_reducible apply State.ctrlWrite_memOk
   | (with_reducible apply MemOk.of_only (State.errClear_only _ _ _) (by decide))
   | with_reducible apply State.irqEnWrite_memOk
   | with_reducible apply State.statClear_memOk
   | with_reducible apply MemOk.ite
   | split
   | dsimp only)

theorem State.ctxSaveWrite_memOk (s : State) (g v : Nat) (hok : MemOk s) : MemOk (State.ctxSaveWrite s g v) := by
  unfold State.ctxSaveWrite
  try dsimp only
  repeat' (first
   | with_reducible assumption
   | with_reducible apply State.ctxSave_memOk
   | (with_reducible apply MemOk.of_only (State.setReg_only _ _ _ _ _) (by decide))
   | (with_reducible apply MemOk.of_only (State.track_only _) (by decide))
   | with_reducible apply MemOk.ite
   | split
   | dsimp only)

theorem State.hdcpWrite_memOk (s : State) (i v : Nat) (hok : MemOk s) : MemOk (State.hdcpWrite s i v) := by
  unfold State.hdcpWrite
  try dsimp only
  repeat' (first
   | with_reducible assumption
   | with_reducible apply State.reauth_memOk
   | (with_reducible apply MemOk.of_only (State.setReg_only _ _ _ _ _) (by decide))
   | with_reducible apply MemOk.ite
   | split
   | dsimp only)

theorem State.hifLinkWrite_memOk (s : State) (v : Nat) (hok : MemOk s) : MemOk (State.hifLinkWrite s v) := by
  unfold State.hifLinkWrite
  try dsimp only
  repeat' (first
   | with_reducible assumption
   | with_reducible apply State.linkResume_memOk
   | (with_reducible apply MemOk.of_only (State.setReg_only _ _ _ _ _) (by decide))
   | with_reducible apply MemOk.ite
   | split
   | dsimp only)

theorem State.weltLinkWrite_memOk (s : State) (m v : Nat) (hok : MemOk s) : MemOk (State.weltLinkWrite s m v) := by
  unfold State.weltLinkWrite
  try dsimp only
  repeat' (first
   | with_reducible assumption
   | (with_reducible apply MemOk.of_only (State.putModule_only _ _ _) (by decide))
   | with_reducible apply State.weltRetrain_memOk
   | with_reducible apply MemOk.ite
   | split
   | dsimp only)

theorem State.windowPut_memOk (s : State) (k v : Nat) (hok : MemOk s) : MemOk (State.windowPut s k v) := by
  unfold State.windowPut
  try dsimp only
  repeat' (first
   | with_reducible assumption
   | with_reducible apply MemOk.ite
   | split
   | (with_reducible apply MemOk.set_boot; exact rfl; exact rfl)
   | dsimp only)

theorem State.rangeWrite_memOk (s : State) (b : Blk) (off v : Nat) (hok : MemOk s) : ∀ y, State.rangeWrite s b off v = some y → MemOk y := by
  intro y hy
  unfold State.rangeWrite at hy
  try dsimp only at hy
  repeat' (first
   | (simp only [reduceCtorEq] at hy; done)
   | (obtain rfl := Option.some.inj hy)
   | split at hy
   | with_reducible assumption
   | with_reducible apply State.msixWrite_memOk
   | with_reducible apply State.windowPut_memOk
   | with_reducible apply MemOk.ite
   | split
   | dsimp only)

theorem State.ownWrite_memOk (s : State) (b : Blk) (i off rw v : Nat) (hok : MemOk s) : ∀ y, State.ownWrite s b i off rw v = some y → MemOk y := by
  intro y hy
  unfold State.ownWrite at hy
  try dsimp only at hy
  repeat' (first
   | (simp only [reduceCtorEq] at hy; done)
   | (obtain rfl := Option.some.inj hy)
   | split at hy
   | with_reducible assumption
   | (with_reducible apply MemOk.of_only (State.aptConsumedWrite_only _ _ _) (by decide))
   | (with_reducible apply MemOk.of_only (State.aptCtrlWrite_only _ _ _) (by decide))
   | with_reducible apply State.auditCtrlWrite_memOk
   | (with_reducible apply MemOk.of_only (State.auxCtrlWrite_only _ _ _) (by decide))
   | (with_reducible apply MemOk.of_only (State.bcStatusWrite_only _ _) (by decide))
   | (with_reducible apply MemOk.of_only (State.binCtrlWrite_only _ _) (by decide))
   | (with_reducible apply MemOk.of_only (State.bufCtrlWrite_only _ _) (by decide))
   | (with_reducible apply MemOk.of_only (State.cairnRegWrite_only _ _ _ _) (by decide))
   | with_reducible apply State.cfgCommit_memOk
   | (with_reducible apply MemOk.of_only (State.channelCtrl_only _ _ _) (by decide))
   | (with_reducible apply MemOk.of_only (State.cntCfgWrite_only _ _ _) (by decide))
   | (with_reducible apply MemOk.of_only (State.cntClrWrite_only _ _ _) (by decide))
   | (with_reducible apply MemOk.of_only (State.countClear_only _ _ _) (by decide))
   | (with_reducible apply MemOk.of_only (State.credWrite_only _ _ _) (by decide))
   | (with_reducible apply MemOk.of_only (State.cscWrite_only _ _ _) (by decide))
   | with_reducible apply State.ctxSaveWrite_memOk
   | with_reducible apply State.dbgCtrlWrite_memOk
   | (with_reducible apply MemOk.of_only (State.devResetWrite_only _ _) (by decide))
   | (with_reducible apply MemOk.of_only (State.disagreeWrite_only _ _) (by decide))
   | (with_reducible apply MemOk.of_only (State.dptxLinkWrite_only _ _ _) (by decide))
   | with_reducible apply State.flagGenWrite_memOk
   | with_reducible apply State.growPageAdd_memOk
   | with_reducible apply State.hdcpWrite_memOk
   | with_reducible apply State.hifLinkWrite_memOk
   | (with_reducible apply MemOk.of_only (State.hintProdWrite_only _ _) (by decide))
   | (with_reducible apply MemOk.of_only (State.ingestRegWrite_only _ _ _) (by decide))
   | (with_reducible apply MemOk.of_only (State.jobAptWrite_only _ _ _) (by decide))
   | with_reducible apply State.jobCfgWrite_memOk
   | (with_reducible apply MemOk.of_only (State.jobLandWrite_only _ _ _) (by decide))
   | (with_reducible apply MemOk.of_only (State.mseClrWrite_only _ _ _) (by decide))
   | (with_reducible apply MemOk.of_only (State.partCtrlWrite_only _ _) (by decide))
   | with_reducible apply State.retireWrite_memOk
   | (with_reducible apply MemOk.of_only (State.ringBaseWrite_only _ _ _) (by decide))
   | with_reducible apply State.ringConsWrite_memOk
   | with_reducible apply State.ringCtrlWrite_memOk
   | (with_reducible apply MemOk.of_only (State.ringProdWrite_only _ _ _) (by decide))
   | (with_reducible apply MemOk.of_only (State.saveBaseWrite_only _ _ _) (by decide))
   | (with_reducible apply MemOk.of_only (State.setReg_only _ _ _ _ _) (by decide))
   | (with_reducible apply MemOk.of_only (State.shareOrderWrite_only _ _) (by decide))
   | with_reducible apply State.sleepCtrlWrite_memOk
   | with_reducible apply State.snapCtrlWrite_memOk
   | (with_reducible apply MemOk.of_only (State.spillBaseWrite_only _ _ _) (by decide))
   | (with_reducible apply MemOk.of_only (State.stageCtrlWrite_only _ _) (by decide))
   | with_reducible apply State.stateCtrlWrite_memOk
   | (with_reducible apply MemOk.of_only (State.tempMaxWrite_only _ _ _ _) (by decide))
   | (with_reducible apply MemOk.of_only (State.traceBaseWrite_only _ _ _ _) (by decide))
   | (with_reducible apply MemOk.of_only (State.traceCtrlWrite_only _ _) (by decide))
   | (with_reducible apply MemOk.of_only (State.track_only _) (by decide))
   | with_reducible apply State.updCmdWrite_memOk
   | with_reducible apply State.weltLinkWrite_memOk
   | (with_reducible apply MemOk.of_only (State.windowWrite_only _ _ _ _) (by decide))
   | with_reducible apply MemOk.ite
   | split
   | (with_reducible apply MemOk.of_only Only.set_pwr (by decide))
   | dsimp only)

theorem State.writeReg_memOk (s : State) (b : Blk) (i off v : Nat) (h : MemOk s) : MemOk (State.writeReg s b i off v) := by
  unfold State.writeReg
  split
  · exact State.headerWrite_memOk _ _ _ _ _ h
  · split
    · exact h
    · extract_lets rw soft t
      have ht : MemOk t := by
        unfold t
        split
        · exact MemOk.of_only (State.touch_only _ _ _) (by decide) h
        · exact h
      clear_value t
      split
      · rename_i u hu
        exact State.rangeWrite_memOk _ _ _ _ ht u hu
      · cases hw : t.ownWrite b i off rw v with
        | none => exact MemOk.of_only (State.storeReg_only _ _ _ _ _) (by decide) ht
        | some u => exact State.ownWrite_memOk _ _ _ _ _ _ ht u hw

theorem State.writeWord_memOk (s : State) (off v : Nat) (hok : MemOk s) : MemOk (State.writeWord s off v) := by
  unfold State.writeWord
  try dsimp only
  repeat' (first
   | with_reducible assumption
   | with_reducible apply State.writeReg_memOk
   | with_reducible apply MemOk.ite
   | split
   | dsimp only)

theorem State.writeBar0_memOk (s : State) (off size v : Nat) (hok : MemOk s) : MemOk (State.writeBar0 s off size v) := by
  unfold State.writeBar0
  try dsimp only
  repeat' (first
   | with_reducible assumption
   | with_reducible apply State.writeWord_memOk
   | with_reducible apply MemOk.ite
   | split
   | dsimp only)

theorem execRegisterWrite_memOk (off size value : Nat) (s : State) (hok : MemOk s) : MemOkOut (execRegisterWrite off size value s) := by
  unfold execRegisterWrite
  try dsimp only
  repeat' (first
   | with_reducible assumption
   | with_reducible apply MemOkOut.next
   | with_reducible apply State.writeBar0_memOk
   | with_reducible apply MemOk.ite
   | with_reducible apply MemOkOut.ite
   | split
   | dsimp only)

theorem execIrqStatClear_memOk (b : Blk) (i mask : Nat) (s : State) (hok : MemOk s) : MemOkOut (execIrqStatClear b i mask s) := by
  unfold execIrqStatClear
  try dsimp only
  repeat' (first
   | with_reducible assumption
   | with_reducible apply MemOkOut.next
   | with_reducible apply State.statClear_memOk
   | with_reducible apply MemOk.ite
   | with_reducible apply MemOkOut.ite
   | (with_reducible apply MemOk.hostWo; intro y hy)
   | dsimp only)

theorem execBlockEnableSet_memOk (b : Blk) (i : Nat) (s : State) (hok : MemOk s) : MemOkOut (execBlockEnableSet b i s) := by
  unfold execBlockEnableSet
  try dsimp only
  repeat' (first
   | with_reducible assumption
   | with_reducible apply MemOkOut.next
   | with_reducible apply State.ctrlWrite_memOk
   | with_reducible apply MemOk.ite
   | with_reducible apply MemOkOut.ite
   | (with_reducible apply MemOk.hostWo; intro y hy)
   | dsimp only)

theorem execBlockEnableClear_memOk (b : Blk) (i : Nat) (s : State) (hok : MemOk s) : MemOkOut (execBlockEnableClear b i s) := by
  unfold execBlockEnableClear
  try dsimp only
  repeat' (first
   | with_reducible assumption
   | with_reducible apply MemOkOut.next
   | with_reducible apply State.ctrlWrite_memOk
   | with_reducible apply MemOk.ite
   | with_reducible apply MemOkOut.ite
   | (with_reducible apply MemOk.hostWo; intro y hy)
   | dsimp only)

theorem execBlockDrainSet_memOk (b : Blk) (i : Nat) (s : State) (hok : MemOk s) : MemOkOut (execBlockDrainSet b i s) := by
  unfold execBlockDrainSet
  try dsimp only
  repeat' (first
   | with_reducible assumption
   | with_reducible apply MemOkOut.next
   | with_reducible apply State.ctrlWrite_memOk
   | with_reducible apply MemOk.ite
   | with_reducible apply MemOkOut.ite
   | (with_reducible apply MemOk.hostWo; intro y hy)
   | dsimp only)

theorem execSoftReset_memOk (b : Blk) (i : Nat) (s : State) (hok : MemOk s) : MemOkOut (execSoftReset b i s) := by
  unfold execSoftReset
  try dsimp only
  repeat' (first
   | with_reducible assumption
   | with_reducible apply MemOkOut.next
   | with_reducible apply State.ctrlWrite_memOk
   | with_reducible apply MemOk.ite
   | with_reducible apply MemOkOut.ite
   | (with_reducible apply MemOk.hostWo; intro y hy)
   | dsimp only)

theorem execBlockDrainClear_memOk (b : Blk) (i : Nat) (s : State) (hok : MemOk s) : MemOkOut (execBlockDrainClear b i s) := by
  unfold execBlockDrainClear
  try dsimp only
  repeat' (first
   | with_reducible assumption
   | with_reducible apply MemOkOut.next
   | with_reducible apply State.ctrlWrite_memOk
   | with_reducible apply MemOk.ite
   | with_reducible apply MemOkOut.ite
   | (with_reducible apply MemOk.hostWo; intro y hy)
   | dsimp only)

theorem State.dropHdcp_memOk (s : State) (hok : MemOk s) : MemOk (State.dropHdcp s) := by
  unfold State.dropHdcp
  try dsimp only
  repeat' (first
   | with_reducible assumption
   | with_reducible apply State.guardOut_memOk
   | (with_reducible apply MemOk.of_only (State.putOut_only _ _ _) (by decide))
   | with_reducible apply MemOk.ite
   | (with_reducible apply MemOk.foldl; intro y a hy)
   | split
   | dsimp only)

theorem State.openDebug_memOk (s : State) (scope : Nat) (hok : MemOk s) : MemOk (State.openDebug s scope) := by
  unfold State.openDebug
  try dsimp only
  repeat' (first
   | with_reducible assumption
   | (with_reducible apply MemOk.of_only (State.bump_only _ _ _ _ _) (by decide))
   | with_reducible apply State.dropHdcp_memOk
   | with_reducible apply State.irq_memOk
   | with_reducible apply MemOk.ite
   | (with_reducible apply MemOk.of_only Only.set_ingest_dbg (by decide))
   | dsimp only)

theorem State.takeToken_memOk (s : State) (token : List Byte) (hok : MemOk s) : MemOk (State.takeToken s token) := by
  unfold State.takeToken
  try dsimp only
  repeat' (first
   | with_reducible assumption
   | with_reducible apply State.openDebug_memOk
   | (with_reducible apply MemOk.of_only (State.shiftOut_only _ _ _) (by decide))
   | with_reducible apply MemOk.ite
   | split
   | (with_reducible apply MemOk.of_only Only.set_dbg (by decide))
   | dsimp only)

theorem execDbgToken_memOk (token : List Byte) (s : State) (hok : MemOk s) : MemOkOut (execDbgToken token s) := by
  unfold execDbgToken
  try dsimp only
  repeat' (first
   | with_reducible assumption
   | with_reducible apply MemOkOut.next
   | (with_reducible apply MemOk.of_only (State.bypass_only _) (by decide))
   | with_reducible apply State.takeToken_memOk
   | with_reducible apply MemOk.ite
   | with_reducible apply MemOkOut.ite
   | (with_reducible apply MemOk.jtag; intro y hy)
   | split
   | dsimp only)

theorem execDbgClose_memOk (s : State) (hok : MemOk s) : MemOkOut (execDbgClose s) := by
  unfold execDbgClose
  try dsimp only
  repeat' (first
   | with_reducible assumption
   | with_reducible apply MemOkOut.next
   | (with_reducible apply MemOk.of_only (State.bypass_only _) (by decide))
   | with_reducible apply State.dbgClose_memOk
   | (with_reducible apply MemOk.of_only (State.shiftOut_only _ _ _) (by decide))
   | with_reducible apply MemOk.ite
   | with_reducible apply MemOkOut.ite
   | (with_reducible apply MemOk.jtag; intro y hy)
   | split
   | dsimp only)

theorem State.readAt_memOk (s : State) (a : Nat) (place : Option Target) (hok : MemOk s) : MemOk (State.readAt s a place) := by
  unfold State.readAt
  try dsimp only
  repeat' (first
   | with_reducible assumption
   | with_reducible apply State.correctReads_memOk
   | (with_reducible apply MemOk.of_only (State.free_only _) (by decide))
   | (with_reducible apply MemOk.of_only (State.shiftOut_only _ _ _) (by decide))
   | with_reducible apply MemOk.ite
   | split
   | dsimp only)

theorem State.debugRead_memOk (s : State) (a : Nat) (hok : MemOk s) : MemOk (State.debugRead s a) := by
  unfold State.debugRead
  try dsimp only
  repeat' (first
   | with_reducible assumption
   | with_reducible apply State.readAt_memOk
   | with_reducible apply MemOk.ite
   | dsimp only)

theorem State.writeAt_memOk (s : State) (a v : Nat) (place : Option Target) (hok : MemOk s) : MemOk (State.writeAt s a v place) := by
  unfold State.writeAt
  try dsimp only
  repeat' (first
   | with_reducible assumption
   | with_reducible apply State.devPut_memOk
   | (with_reducible apply MemOk.of_only (State.shiftOut_only _ _ _) (by decide))
   | with_reducible apply MemOk.ite
   | split
   | dsimp only)

theorem State.debugWrite_memOk (s : State) (a v : Nat) (hok : MemOk s) : MemOk (State.debugWrite s a v) := by
  unfold State.debugWrite
  try dsimp only
  repeat' (first
   | with_reducible assumption
   | with_reducible apply State.writeAt_memOk
   | with_reducible apply MemOk.ite
   | dsimp only)

theorem execDbgMem_memOk (device : Bool) (addr : Nat) (value : Option Nat) (s : State) (hok : MemOk s) : MemOkOut (execDbgMem device addr value s) := by
  unfold execDbgMem
  try dsimp only
  repeat' (first
   | with_reducible assumption
   | with_reducible apply MemOkOut.next
   | (with_reducible apply MemOk.of_only (State.bypass_only _) (by decide))
   | with_reducible apply State.debugRead_memOk
   | with_reducible apply State.debugWrite_memOk
   | (with_reducible apply MemOk.of_only (State.readWord_only _ _) (by decide))
   | (with_reducible apply MemOk.of_only (State.shiftOut_only _ _ _) (by decide))
   | with_reducible apply State.writeBar0_memOk
   | with_reducible apply MemOk.ite
   | with_reducible apply MemOkOut.ite
   | split
   | dsimp only)

theorem State.tick_memOk (s : State) (hok : MemOk s) : MemOk (State.tick s) := by
  unfold State.tick
  try dsimp only
  repeat' (first
   | with_reducible assumption
   | with_reducible apply State.enterBasecamp_memOk
   | with_reducible apply State.updFinish_memOk
   | with_reducible apply MemOk.ite
   | split
   | (with_reducible apply MemOk.of_only Only.set_now (by decide))
   | (with_reducible apply MemOk.of_only Only.set_now_timeFrac (by decide))
   | dsimp only)

end Sys2Proof.Machine
end

