-- ==== Sys2Proof/Laws/Ops.lean ====
section
/-!
SUPPORT. What the shared operations do: pages, registers, interrupts and errors, commands and their ends, and reads that only depend on some fields.
-/

-- One proof at a time: the proofs of this file are many, and run together they take many threads at once.
set_option Elab.async false

namespace Sys2Proof.Machine

/-! ### Reads that depend on some fields only -/

theorem State.page_congr {s t : State} (hp : t.pages = s.pages) (hi : t.insole = s.insole) (b : Blk) (i : Nat) :
    t.page b i = s.page b i := by
  unfold State.page State.pageReset
  rw [hp, hi]

theorem State.reg_congr {s t : State} (hr : t.regs = s.regs) (hi : t.insole = s.insole) (hp : t.part = s.part) (b : Blk)
    (i o : Nat) : t.reg b i o = s.reg b i o := by
  unfold State.reg State.resetValue State.variant
  rw [hr, hi, hp]

theorem State.cmd?_congr {s t : State} (h : t.cmds = s.cmds) (uid : Nat) : t.cmd? uid = s.cmd? uid := by
  simp [State.cmd?, h]

theorem State.engine_congr {s t : State} (h : t.engines = s.engines) (g : Nat) : t.engine g = s.engine g := by
  simp [State.engine, h]

theorem State.flag_congr {s t : State} (h : t.flags = s.flags) (f : Nat) : t.flag f = s.flag f := by
  simp [State.flag, h]

/-! ### Pages -/

theorem State.page_putPage (s : State) (b : Blk) (i : Nat) (p : Page) : (s.putPage b i p).page b i = p := by
  simp [State.page, State.putPage, SMap.get_set_same]

theorem State.page_putPage_other (s : State) (b c : Blk) (i j : Nat) (p : Page) (h : c.base j ≠ b.base i) :
    (s.putPage b i p).page c j = s.page c j := by
  show (s.pages.set _ p).get _ (s.pageReset c j) = _
  rw [SMap.get_set_other _ _ _ _ _ h]
  rfl

/-- An interrupt sets its RAW bits and changes nothing else of its page (R364). -/
theorem State.irq_page (s : State) (b : Blk) (i : Nat) (m : Word) :
    (s.irq b i m).page b i = { s.page b i with raw := (s.page b i).raw ||| m } := by
  have h := State.evalVector_only (s.putPage b i { s.page b i with raw := (s.page b i).raw ||| m }) b.vector
  unfold State.irq
  rw [State.page_congr (h .pages rfl) (h .insole rfl), State.page_putPage]

/-- An interrupt leaves every other page alone. -/
theorem State.irq_page_other (s : State) (b c : Blk) (i j : Nat) (m : Word) (hne : c.base j ≠ b.base i) :
    (s.irq b i m).page c j = s.page c j := by
  have h := State.evalVector_only (s.putPage b i { s.page b i with raw := (s.page b i).raw ||| m }) b.vector
  unfold State.irq
  rw [State.page_congr (h .pages rfl) (h .insole rfl), State.page_putPage_other _ _ _ _ _ _ hne]

/-- An error is what the page shows of its block (R365). -/
theorem State.err_page (s : State) (b : Blk) (i code info addr : Nat) :
    (s.err b i code info addr).page b i = { s.page b i with
      errValid := true
      errOver := (s.page b i).errOver || (s.page b i).errValid
      errCode := code
      errInfo := BitVec.ofNat 32 info
      errAddr := addr } := by
  unfold State.err
  rw [State.page_putPage]

/-! ### Registers -/

theorem State.reg_setReg (s : State) (b : Blk) (i o v : Nat) : (s.setReg b i o v).reg b i o = v % 2 ^ 32 := by
  simp [State.reg, State.setReg, SMap.find?_set_same]

theorem State.find?_setReg_other (s : State) (b : Blk) (i o v k : Nat) (h : k ≠ b.base i + o) :
    (s.setReg b i o v).regs.find? k = s.regs.find? k := by
  simp [State.setReg, SMap.find?_set_other _ _ _ _ h]

/-! ### Commands -/

theorem find?_map_same {α : Type} (l : List α) (p : α → Bool) (f : α → α) (h : ∀ a, p (f a) = p a) :
    (l.map f).find? p = (l.find? p).map f := by
  induction l with
  | nil => rfl
  | cons a l ih => simp only [List.map_cons, List.find?_cons, h]; split <;> simp [ih]

/-- A command that has not ended yet has ended afterwards (R430). -/
theorem State.endCmd_cmd? (s : State) (uid : Nat) (st : Status) (cause : Nat) :
    (s.endCmd uid st cause).cmd? uid =
      (s.cmd? uid).map fun c => if c.unstarted then { c with place := .ended st cause } else c := by
  unfold State.endCmd State.cmd?
  simp only
  rw [find?_map_same]
  · cases h : s.cmds.find? fun c => c.uid == uid with
    | none => rfl
    | some c =>
      have := List.find?_some h
      simp only [Option.map_some, this, Bool.true_and]
  · intro a; split <;> rfl

/-- Every other command is as it was. -/
theorem State.endCmd_cmd?_other (s : State) (uid v : Nat) (st : Status) (cause : Nat) (hne : v ≠ uid) :
    (s.endCmd uid st cause).cmd? v = s.cmd? v := by
  unfold State.endCmd State.cmd?
  simp only
  rw [find?_map_same]
  · cases h : s.cmds.find? fun c => c.uid == v with
    | none => rfl
    | some c =>
      have h2 := List.find?_some h
      have : c.uid ≠ uid := by simp at h2; omega
      simp [this]
  · intro a; split <;> rfl

theorem State.putCmd_find (s : State) (c : Cmd) (v : Nat) :
    (s.putCmd c).cmd? v = (s.cmd? v).map fun d => if d.uid == c.uid then c else d := by
  unfold State.putCmd State.cmd?
  simp only
  rw [find?_map_same]
  intro a
  by_cases e : (a.uid == c.uid) = true
  · rw [if_pos e, show a.uid = c.uid by simpa using e]
  · rw [if_neg e]

/-- A command put back is the one found by its uid. -/
theorem State.putCmd_cmd? (s : State) (c : Cmd) (h : (s.cmd? c.uid).isSome) : (s.putCmd c).cmd? c.uid = some c := by
  rw [State.putCmd_find]
  obtain ⟨d, hd⟩ := Option.isSome_iff_exists.mp h
  rw [hd, Option.map_some, if_pos (List.find?_some hd)]

theorem State.putCmd_cmd?_other (s : State) (c : Cmd) (v : Nat) (hne : v ≠ c.uid) : (s.putCmd c).cmd? v = s.cmd? v := by
  rw [State.putCmd_find]
  cases h : s.cmd? v with
  | none => rfl
  | some d =>
    have h2 : d.uid = v := by simpa using List.find?_some h
    rw [Option.map_some, if_neg (by simp; omega)]

end Sys2Proof.Machine
end

