-- ==== Sys2Proof/Laws/PerInstr.lean ====
section
/-!
SUPPORT. Statements for every command, one lemma a constructor. Family Operands: a well-formed command names no page that the page index
does not list (R375, R376).
-/

-- One proof at a time: the proofs of this file are many, and run together they take many threads at once.
set_option Elab.async false

namespace Sys2Proof.Laws

/-- The page that a command names by its operands. -/
def pageNamed (i : Instr) : Option (Machine.Blk × Nat) :=
  match i with
  | .apertureSlotWrite _ _ _ _ => none
  | .packetAccept _ => none
  | .aptHeldTimeout _ => none
  | .commandAdmit _ => none
  | .tileDispatch _ _ => none
  | .contextSwap engine _ => some (.ne, engine)
  | .preempt engine _ => some (.ne, engine)
  | .blockedSwap engine => some (.ne, engine)
  | .engineGate engine => some (.ne, engine)
  | .stepOpen _ => none
  | .flagWait _ => none
  | .flagWaitTimeout _ => none
  | .flagAdvance _ => none
  | .nop _ => none
  | .neGemm _ => none
  | .fetchLanded _ _ => none
  | .neAccClear _ => none
  | .neAccDrain _ => none
  | .neAccStore _ => none
  | .neAccLoad _ => none
  | .veEwise _ => none
  | .veFunc _ => none
  | .veReduce _ => none
  | .veKsel _ => none
  | .veDwconv _ => none
  | .veMerge _ => none
  | .veOptim _ => none
  | .veXreduce _ => none
  | .xpExpand _ => none
  | .xpS2c _ => none
  | .xpC2s _ => none
  | .xpUpsample _ => none
  | .xpCopy _ => none
  | .postDecode _ => none
  | .postSuppress _ => none
  | .dmaCopy _ => none
  | .meFlow _ => none
  | .meDisparity _ => none
  | .meRowStage => none
  | .stagingRetentionSpill _ => none
  | .meRingTimeout => none
  | .meRingStall => none
  | .rsPassOpen _ => none
  | .rsDraw _ => none
  | .growTimeout _ => none
  | .rasterUnpark _ => none
  | .rsPassClose _ => none
  | .rsWarp _ => none
  | .rsMask _ => none
  | .rasterBinItem _ => none
  | .dispMeta _ => none
  | .dispFrameWait _ => none
  | .dispCommit _ => none
  | .tileStoreCopy _ => none
  | .hintPhase _ => none
  | .auditMeasure _ => none
  | .auditQuote _ => none
  | .unitWatchdogExpiry _ => none
  | .blockFault blk inst _ _ => some (blk, inst)
  | .completionRecordWrite _ => none
  | .ringFullTimeout _ => none
  | .msixRingTimer _ => none
  | .creditWriteback _ => none
  | .guardFire _ _ => none
  | .rowDeadline _ _ => none
  | .calendarPublish => none
  | .frameBind _ => none
  | .frameScanStart => none
  | .lineScan _ _ _ _ => none
  | .scanOutEnd => none
  | .cairnRecordWrite => none
  | .frameSyncEdge => none
  | .genlockHoldover => none
  | .cfgTakeEffect => none
  | .dispTimingStop => none
  | .hpdChange output _ => some (.dptx, output)
  | .dpLinkTrainEnd output _ => some (.dptx, output)
  | .auxReply output _ => some (.dptx, output)
  | .turn _ => none
  | .dpFrameStart _ _ _ => none
  | .ingestFrameComplete _ => none
  | .flagEccPoison _ => none
  | .weltCrcError mod _ _ => some (.welt, mod)
  | .weltRetrainEnd mod _ _ _ => some (.welt, mod)
  | .dieLoss _ _ => none
  | .heartbeatTimeout _ _ => none
  | .hubFwWatchdog _ => none
  | .fatalFault _ _ => none
  | .powerEstimate _ _ _ => none
  | .vrVoltageConfirmed _ => none
  | .capUpdate _ => none
  | .thermalTick _ => none
  | .criticalTrip => none
  | .coolFlowOkFall => none
  | .coolantStop => none
  | .coolFlowOkRise => none
  | .dieRestart _ => none
  | .scrubRead _ _ => none
  | .dramRefresh _ _ => none
  | .dramTcrRead port _ => some (.memc, port)
  | .dramWckOscRead port => some (.memc, port)
  | .usb4LinkDown _ => none
  | .usb4LinkUp _ _ _ => none
  | .bar4Access _ _ => none
  | .registerWrite _ _ _ => none
  | .loReadLatch _ _ => none
  | .irqStatClear blk inst _ => some (blk, inst)
  | .errValidClear blk inst => some (blk, inst)
  | .blockEnableSet blk inst => some (blk, inst)
  | .blockEnableClear blk inst => some (blk, inst)
  | .blockDrainSet blk inst => some (blk, inst)
  | .blockDrainEnd blk inst => some (blk, inst)
  | .softReset blk inst => some (blk, inst)
  | .countClr blk inst => some (blk, inst)
  | .preemptMaxClr => none
  | .dieTempMaxClr _ => none
  | .jobValidSet _ => none
  | .jobValidClear _ => none
  | .ctxSave engine _ => some (.ne, engine)
  | .mseClearAll engine => some (.ne, engine)
  | .mseClearSel engine => some (.ne, engine)
  | .flagGenWrite _ => none
  | .tmemWindowWrite die _ _ => some (.tmem, die)
  | .partCtrlWrite _ => none
  | .binCtrlWrite _ => none
  | .growPageAdd _ => none
  | .stageCtrlWrite _ => none
  | .cfgCommit => none
  | .dptxRetrain output => some (.dptx, output)
  | .hdcpReauth output => some (.dptx, output)
  | .auxStart output _ => some (.dptx, output)
  | .weltRetrain mod => some (.welt, mod)
  | .aptCtrlWrite _ => none
  | .aptConsumedWrite _ => none
  | .ringConsWrite _ => none
  | .linkResume => none
  | .dmaChannelDisable _ => none
  | .hintProdWrite _ => none
  | .bufCtrlWrite _ => none
  | .devReset _ => none
  | .deviceResetAct => none
  | .stateCtrlHoldSet _ => none
  | .holdResume => none
  | .updReadFlash _ _ => none
  | .updErase _ _ => none
  | .updProgram _ _ => none
  | .updReadId _ => none
  | .updRaiseSvn => none
  | .updSetCustKey => none
  | .cairnEnable _ => none
  | .disagreeClear => none
  | .shareOrderWrite _ => none
  | .sleep _ => none
  | .retire _ => none
  | .cntCfgWrite die _ => some (.perf, die)
  | .cntClrAll die => some (.perf, die)
  | .cntClrSel die => some (.perf, die)
  | .snapNow die => some (.perf, die)
  | .snapArm die => some (.perf, die)
  | .snapArmAll => none
  | .snapFire die => some (.perf, die)
  | .traceEnable _ => none
  | .dbgCtrlClose => none
  | .dbgCtrlLockout => none
  | .jtagBypass => none
  | .jtagIdcode => none
  | .jtagSamplePreload _ => none
  | .jtagExtest _ => none
  | .dbgChallenge => none
  | .dbgToken _ => none
  | .dbgClose => none
  | .dbgMem _ _ _ => none
  | .dbgCore _ _ => none
  | .bwBlockWrite _ _ _ => none
  | .bwStatusRead _ _ => none
  | .resetAssert _ => none
  | .coldBoot _ _ _ _ _ => none
  | .wake _ _ _ _ _ _ => none
  | .wakeNFall => none
  | .usb4WakeSignal => none
  | .alarm => none
  | .supplyLoss _ => none
  | .ringCtrlWrite _ => none
  | .msixVectorUnmask _ => none
  | .streamLock _ _ _ _ _ _ _ _ => none
  | .streamLost _ => none
  | .hdcpAuthEnd output _ _ => some (.dptx, output)
  | .dpLinkFail output => some (.dptx, output)
  | .xtal32Start => none
  | .pwrGoodRise => none
  | .blockDrainClear blk inst => some (blk, inst)
  | .counterSaturate die _ _ => some (.perf, die)

/-- The page that a well-formed command names is listed. -/
def Operands.Statement (i : Instr) : Prop := i.wellFormed = true → ∀ p, pageNamed i = some p → pageOk p.1 p.2 = true

/-- A command that names no page meets its statement. -/
theorem operands_of_none {i : Instr} (h : pageNamed i = none) : Operands.Statement i :=
  fun _ p hp => absurd (h.symm.trans hp) (Option.some_ne_none p).symm

/-- A command that names a page meets its statement when its well-formedness says that the page is listed. -/
theorem operands_of_some {i : Instr} {q : Machine.Blk × Nat} (h : pageNamed i = some q)
    (hw : i.wellFormed = true → pageOk q.1 q.2 = true) : Operands.Statement i := by
  intro w p hp
  rw [h, Option.some.injEq] at hp
  exact hp ▸ hw w

theorem pageOk_ne : ∀ n < 16, pageOk .ne n = true := by decide

theorem pageOk_tmem : ∀ n < 8, pageOk .tmem n = true := by decide

theorem pageOk_dptx : ∀ n < 4, pageOk .dptx n = true := by decide

theorem pageOk_welt : ∀ n < 25, pageOk .welt n = true := by decide

theorem pageOk_memc : ∀ n < 8, pageOk .memc n = true := by decide

theorem Operands.apertureSlotWrite apt slot off bytes : Operands.Statement (.apertureSlotWrite apt slot off bytes) := operands_of_none rfl

theorem Operands.packetAccept apt : Operands.Statement (.packetAccept apt) := operands_of_none rfl

theorem Operands.aptHeldTimeout apt : Operands.Statement (.aptHeldTimeout apt) := operands_of_none rfl

theorem Operands.commandAdmit uid : Operands.Statement (.commandAdmit uid) := operands_of_none rfl

theorem Operands.tileDispatch step tile : Operands.Statement (.tileDispatch step tile) := operands_of_none rfl

theorem Operands.contextSwap engine job : Operands.Statement (.contextSwap engine job) :=
  operands_of_some rfl fun w => pageOk_ne engine (by simp [Instr.wellFormed, unitOk] at w; omega)

theorem Operands.preempt engine ticks : Operands.Statement (.preempt engine ticks) :=
  operands_of_some rfl fun w => pageOk_ne engine (by simp [Instr.wellFormed, unitOk] at w; omega)

theorem Operands.blockedSwap engine : Operands.Statement (.blockedSwap engine) :=
  operands_of_some rfl fun w => pageOk_ne engine (by simp [Instr.wellFormed, unitOk] at w; omega)

theorem Operands.engineGate engine : Operands.Statement (.engineGate engine) :=
  operands_of_some rfl fun w => pageOk_ne engine (by simp [Instr.wellFormed, unitOk] at w; omega)

theorem Operands.stepOpen uid : Operands.Statement (.stepOpen uid) := operands_of_none rfl

theorem Operands.flagWait uid : Operands.Statement (.flagWait uid) := operands_of_none rfl

theorem Operands.flagWaitTimeout uid : Operands.Statement (.flagWaitTimeout uid) := operands_of_none rfl

theorem Operands.flagAdvance uid : Operands.Statement (.flagAdvance uid) := operands_of_none rfl

theorem Operands.nop uid : Operands.Statement (.nop uid) := operands_of_none rfl

theorem Operands.neGemm uid : Operands.Statement (.neGemm uid) := operands_of_none rfl

theorem Operands.fetchLanded uid ok : Operands.Statement (.fetchLanded uid ok) := operands_of_none rfl

theorem Operands.neAccClear uid : Operands.Statement (.neAccClear uid) := operands_of_none rfl

theorem Operands.neAccDrain uid : Operands.Statement (.neAccDrain uid) := operands_of_none rfl

theorem Operands.neAccStore uid : Operands.Statement (.neAccStore uid) := operands_of_none rfl

theorem Operands.neAccLoad uid : Operands.Statement (.neAccLoad uid) := operands_of_none rfl

theorem Operands.veEwise uid : Operands.Statement (.veEwise uid) := operands_of_none rfl

theorem Operands.veFunc uid : Operands.Statement (.veFunc uid) := operands_of_none rfl

theorem Operands.veReduce uid : Operands.Statement (.veReduce uid) := operands_of_none rfl

theorem Operands.veKsel uid : Operands.Statement (.veKsel uid) := operands_of_none rfl

theorem Operands.veDwconv uid : Operands.Statement (.veDwconv uid) := operands_of_none rfl

theorem Operands.veMerge uid : Operands.Statement (.veMerge uid) := operands_of_none rfl

theorem Operands.veOptim uid : Operands.Statement (.veOptim uid) := operands_of_none rfl

theorem Operands.veXreduce uid : Operands.Statement (.veXreduce uid) := operands_of_none rfl

theorem Operands.xpExpand uid : Operands.Statement (.xpExpand uid) := operands_of_none rfl

theorem Operands.xpS2c uid : Operands.Statement (.xpS2c uid) := operands_of_none rfl

theorem Operands.xpC2s uid : Operands.Statement (.xpC2s uid) := operands_of_none rfl

theorem Operands.xpUpsample uid : Operands.Statement (.xpUpsample uid) := operands_of_none rfl

theorem Operands.xpCopy uid : Operands.Statement (.xpCopy uid) := operands_of_none rfl

theorem Operands.postDecode uid : Operands.Statement (.postDecode uid) := operands_of_none rfl

theorem Operands.postSuppress uid : Operands.Statement (.postSuppress uid) := operands_of_none rfl

theorem Operands.dmaCopy uid : Operands.Statement (.dmaCopy uid) := operands_of_none rfl

theorem Operands.meFlow uid : Operands.Statement (.meFlow uid) := operands_of_none rfl

theorem Operands.meDisparity uid : Operands.Statement (.meDisparity uid) := operands_of_none rfl

theorem Operands.meRowStage : Operands.Statement (.meRowStage) := operands_of_none rfl

theorem Operands.stagingRetentionSpill vslot : Operands.Statement (.stagingRetentionSpill vslot) := operands_of_none rfl

theorem Operands.meRingTimeout : Operands.Statement (.meRingTimeout) := operands_of_none rfl

theorem Operands.meRingStall : Operands.Statement (.meRingStall) := operands_of_none rfl

theorem Operands.rsPassOpen uid : Operands.Statement (.rsPassOpen uid) := operands_of_none rfl

theorem Operands.rsDraw uid : Operands.Statement (.rsDraw uid) := operands_of_none rfl

theorem Operands.growTimeout uid : Operands.Statement (.growTimeout uid) := operands_of_none rfl

theorem Operands.rasterUnpark uid : Operands.Statement (.rasterUnpark uid) := operands_of_none rfl

theorem Operands.rsPassClose uid : Operands.Statement (.rsPassClose uid) := operands_of_none rfl

theorem Operands.rsWarp uid : Operands.Statement (.rsWarp uid) := operands_of_none rfl

theorem Operands.rsMask uid : Operands.Statement (.rsMask uid) := operands_of_none rfl

theorem Operands.rasterBinItem core : Operands.Statement (.rasterBinItem core) := operands_of_none rfl

theorem Operands.dispMeta uid : Operands.Statement (.dispMeta uid) := operands_of_none rfl

theorem Operands.dispFrameWait uid : Operands.Statement (.dispFrameWait uid) := operands_of_none rfl

theorem Operands.dispCommit uid : Operands.Statement (.dispCommit uid) := operands_of_none rfl

theorem Operands.tileStoreCopy slot : Operands.Statement (.tileStoreCopy slot) := operands_of_none rfl

theorem Operands.hintPhase uid : Operands.Statement (.hintPhase uid) := operands_of_none rfl

theorem Operands.auditMeasure uid : Operands.Statement (.auditMeasure uid) := operands_of_none rfl

theorem Operands.auditQuote uid : Operands.Statement (.auditQuote uid) := operands_of_none rfl

theorem Operands.unitWatchdogExpiry uid : Operands.Statement (.unitWatchdogExpiry uid) := operands_of_none rfl

theorem Operands.blockFault blk inst watchdog running : Operands.Statement (.blockFault blk inst watchdog running) := operands_of_some rfl (by simp_all [Instr.wellFormed, pageOk])

theorem Operands.completionRecordWrite uid : Operands.Statement (.completionRecordWrite uid) := operands_of_none rfl

theorem Operands.ringFullTimeout ring : Operands.Statement (.ringFullTimeout ring) := operands_of_none rfl

theorem Operands.msixRingTimer ring : Operands.Statement (.msixRingTimer ring) := operands_of_none rfl

theorem Operands.creditWriteback apt : Operands.Statement (.creditWriteback apt) := operands_of_none rfl

theorem Operands.guardFire step row : Operands.Statement (.guardFire step row) := operands_of_none rfl

theorem Operands.rowDeadline step row : Operands.Statement (.rowDeadline step row) := operands_of_none rfl

theorem Operands.calendarPublish : Operands.Statement (.calendarPublish) := operands_of_none rfl

theorem Operands.frameBind frame : Operands.Statement (.frameBind frame) := operands_of_none rfl

theorem Operands.frameScanStart : Operands.Statement (.frameScanStart) := operands_of_none rfl

theorem Operands.lineScan output y buffered level : Operands.Statement (.lineScan output y buffered level) := operands_of_none rfl

theorem Operands.scanOutEnd : Operands.Statement (.scanOutEnd) := operands_of_none rfl

theorem Operands.cairnRecordWrite : Operands.Statement (.cairnRecordWrite) := operands_of_none rfl

theorem Operands.frameSyncEdge : Operands.Statement (.frameSyncEdge) := operands_of_none rfl

theorem Operands.genlockHoldover : Operands.Statement (.genlockHoldover) := operands_of_none rfl

theorem Operands.cfgTakeEffect : Operands.Statement (.cfgTakeEffect) := operands_of_none rfl

theorem Operands.dispTimingStop : Operands.Statement (.dispTimingStop) := operands_of_none rfl

theorem Operands.hpdChange output present : Operands.Statement (.hpdChange output present) :=
  operands_of_some rfl fun w => pageOk_dptx output (by simp [Instr.wellFormed, unitOk] at w; omega)

theorem Operands.dpLinkTrainEnd output ok : Operands.Statement (.dpLinkTrainEnd output ok) :=
  operands_of_some rfl fun w => pageOk_dptx output (by simp [Instr.wellFormed, unitOk] at w; omega)

theorem Operands.auxReply output reply : Operands.Statement (.auxReply output reply) :=
  operands_of_some rfl fun w => pageOk_dptx output (by simp [Instr.wellFormed, unitOk] at w; omega)

theorem Operands.turn job : Operands.Statement (.turn job) := operands_of_none rfl

theorem Operands.dpFrameStart bt2020 full sdps : Operands.Statement (.dpFrameStart bt2020 full sdps) := operands_of_none rfl

theorem Operands.ingestFrameComplete pixels : Operands.Statement (.ingestFrameComplete pixels) := operands_of_none rfl

theorem Operands.flagEccPoison flag : Operands.Statement (.flagEccPoison flag) := operands_of_none rfl

theorem Operands.weltCrcError mod ok held : Operands.Statement (.weltCrcError mod ok held) :=
  operands_of_some rfl fun w => pageOk_welt mod (by simp [Instr.wellFormed, unitOk] at w; omega)

theorem Operands.weltRetrainEnd mod up repaired exhausted : Operands.Statement (.weltRetrainEnd mod up repaired exhausted) :=
  operands_of_some rfl fun w => pageOk_welt mod (by simp [Instr.wellFormed, unitOk] at w; omega)

theorem Operands.dieLoss die unit : Operands.Statement (.dieLoss die unit) := operands_of_none rfl

theorem Operands.heartbeatTimeout die since : Operands.Statement (.heartbeatTimeout die since) := operands_of_none rfl

theorem Operands.hubFwWatchdog core : Operands.Statement (.hubFwWatchdog core) := operands_of_none rfl

theorem Operands.fatalFault blk port : Operands.Statement (.fatalFault blk port) := operands_of_none rfl

theorem Operands.powerEstimate hub md counts : Operands.Statement (.powerEstimate hub md counts) := operands_of_none rfl

theorem Operands.vrVoltageConfirmed die : Operands.Statement (.vrVoltageConfirmed die) := operands_of_none rfl

theorem Operands.capUpdate samples : Operands.Statement (.capUpdate samples) := operands_of_none rfl

theorem Operands.thermalTick temps : Operands.Statement (.thermalTick temps) := operands_of_none rfl

theorem Operands.criticalTrip : Operands.Statement (.criticalTrip) := operands_of_none rfl

theorem Operands.coolFlowOkFall : Operands.Statement (.coolFlowOkFall) := operands_of_none rfl

theorem Operands.coolantStop : Operands.Statement (.coolantStop) := operands_of_none rfl

theorem Operands.coolFlowOkRise : Operands.Statement (.coolFlowOkRise) := operands_of_none rfl

theorem Operands.dieRestart thermal : Operands.Statement (.dieRestart thermal) := operands_of_none rfl

theorem Operands.scrubRead site kind : Operands.Statement (.scrubRead site kind) := operands_of_none rfl

theorem Operands.dramRefresh channel urgent : Operands.Statement (.dramRefresh channel urgent) := operands_of_none rfl

theorem Operands.dramTcrRead port rate : Operands.Statement (.dramTcrRead port rate) :=
  operands_of_some rfl fun w => pageOk_memc port (by simp [Instr.wellFormed, unitOk] at w; omega)

theorem Operands.dramWckOscRead port : Operands.Statement (.dramWckOscRead port) :=
  operands_of_some rfl fun w => pageOk_memc port (by simp [Instr.wellFormed, unitOk] at w; omega)

theorem Operands.usb4LinkDown whole : Operands.Statement (.usb4LinkDown whole) := operands_of_none rfl

theorem Operands.usb4LinkUp training mode dp : Operands.Statement (.usb4LinkUp training mode dp) := operands_of_none rfl

theorem Operands.bar4Access off access : Operands.Statement (.bar4Access off access) := operands_of_none rfl

theorem Operands.registerWrite off size value : Operands.Statement (.registerWrite off size value) := operands_of_none rfl

theorem Operands.loReadLatch off size : Operands.Statement (.loReadLatch off size) := operands_of_none rfl

theorem Operands.irqStatClear blk inst mask : Operands.Statement (.irqStatClear blk inst mask) := operands_of_some rfl (by simp_all [Instr.wellFormed, pageOk])

theorem Operands.errValidClear blk inst : Operands.Statement (.errValidClear blk inst) := operands_of_some rfl (by simp_all [Instr.wellFormed, pageOk])

theorem Operands.blockEnableSet blk inst : Operands.Statement (.blockEnableSet blk inst) := operands_of_some rfl (by simp_all [Instr.wellFormed, pageOk])

theorem Operands.blockEnableClear blk inst : Operands.Statement (.blockEnableClear blk inst) := operands_of_some rfl (by simp_all [Instr.wellFormed, pageOk])

theorem Operands.blockDrainSet blk inst : Operands.Statement (.blockDrainSet blk inst) := operands_of_some rfl (by simp_all [Instr.wellFormed, pageOk])

theorem Operands.blockDrainEnd blk inst : Operands.Statement (.blockDrainEnd blk inst) := operands_of_some rfl (by simp_all [Instr.wellFormed, pageOk])

theorem Operands.softReset blk inst : Operands.Statement (.softReset blk inst) := operands_of_some rfl (by simp_all [Instr.wellFormed, pageOk])

theorem Operands.countClr blk inst : Operands.Statement (.countClr blk inst) := operands_of_some rfl (by simp_all [Instr.wellFormed, pageOk])

theorem Operands.preemptMaxClr : Operands.Statement (.preemptMaxClr) := operands_of_none rfl

theorem Operands.dieTempMaxClr die : Operands.Statement (.dieTempMaxClr die) := operands_of_none rfl

theorem Operands.jobValidSet value : Operands.Statement (.jobValidSet value) := operands_of_none rfl

theorem Operands.jobValidClear value : Operands.Statement (.jobValidClear value) := operands_of_none rfl

theorem Operands.ctxSave engine slot : Operands.Statement (.ctxSave engine slot) :=
  operands_of_some rfl fun w => pageOk_ne engine (by simp [Instr.wellFormed, unitOk] at w; omega)

theorem Operands.mseClearAll engine : Operands.Statement (.mseClearAll engine) :=
  operands_of_some rfl fun w => pageOk_ne engine (by simp [Instr.wellFormed, unitOk] at w; omega)

theorem Operands.mseClearSel engine : Operands.Statement (.mseClearSel engine) :=
  operands_of_some rfl fun w => pageOk_ne engine (by simp [Instr.wellFormed, unitOk] at w; omega)

theorem Operands.flagGenWrite value : Operands.Statement (.flagGenWrite value) := operands_of_none rfl

theorem Operands.tmemWindowWrite die which value : Operands.Statement (.tmemWindowWrite die which value) :=
  operands_of_some rfl fun w => pageOk_tmem die (by simp [Instr.wellFormed, unitOk] at w; omega)

theorem Operands.partCtrlWrite value : Operands.Statement (.partCtrlWrite value) := operands_of_none rfl

theorem Operands.binCtrlWrite value : Operands.Statement (.binCtrlWrite value) := operands_of_none rfl

theorem Operands.growPageAdd value : Operands.Statement (.growPageAdd value) := operands_of_none rfl

theorem Operands.stageCtrlWrite value : Operands.Statement (.stageCtrlWrite value) := operands_of_none rfl

theorem Operands.cfgCommit : Operands.Statement (.cfgCommit) := operands_of_none rfl

theorem Operands.dptxRetrain output : Operands.Statement (.dptxRetrain output) :=
  operands_of_some rfl fun w => pageOk_dptx output (by simp [Instr.wellFormed, unitOk] at w; omega)

theorem Operands.hdcpReauth output : Operands.Statement (.hdcpReauth output) :=
  operands_of_some rfl fun w => pageOk_dptx output (by simp [Instr.wellFormed, unitOk] at w; omega)

theorem Operands.auxStart output value : Operands.Statement (.auxStart output value) :=
  operands_of_some rfl fun w => pageOk_dptx output (by simp [Instr.wellFormed, unitOk] at w; omega)

theorem Operands.weltRetrain mod : Operands.Statement (.weltRetrain mod) :=
  operands_of_some rfl fun w => pageOk_welt mod (by simp [Instr.wellFormed, unitOk] at w; omega)

theorem Operands.aptCtrlWrite value : Operands.Statement (.aptCtrlWrite value) := operands_of_none rfl

theorem Operands.aptConsumedWrite value : Operands.Statement (.aptConsumedWrite value) := operands_of_none rfl

theorem Operands.ringConsWrite value : Operands.Statement (.ringConsWrite value) := operands_of_none rfl

theorem Operands.linkResume : Operands.Statement (.linkResume) := operands_of_none rfl

theorem Operands.dmaChannelDisable channel : Operands.Statement (.dmaChannelDisable channel) := operands_of_none rfl

theorem Operands.hintProdWrite value : Operands.Statement (.hintProdWrite value) := operands_of_none rfl

theorem Operands.bufCtrlWrite value : Operands.Statement (.bufCtrlWrite value) := operands_of_none rfl

theorem Operands.devReset value : Operands.Statement (.devReset value) := operands_of_none rfl

theorem Operands.deviceResetAct : Operands.Statement (.deviceResetAct) := operands_of_none rfl

theorem Operands.stateCtrlHoldSet hold : Operands.Statement (.stateCtrlHoldSet hold) := operands_of_none rfl

theorem Operands.holdResume : Operands.Statement (.holdResume) := operands_of_none rfl

theorem Operands.updReadFlash len fail : Operands.Statement (.updReadFlash len fail) := operands_of_none rfl

theorem Operands.updErase len fail : Operands.Statement (.updErase len fail) := operands_of_none rfl

theorem Operands.updProgram len fail : Operands.Statement (.updProgram len fail) := operands_of_none rfl

theorem Operands.updReadId len : Operands.Statement (.updReadId len) := operands_of_none rfl

theorem Operands.updRaiseSvn : Operands.Statement (.updRaiseSvn) := operands_of_none rfl

theorem Operands.updSetCustKey : Operands.Statement (.updSetCustKey) := operands_of_none rfl

theorem Operands.cairnEnable value : Operands.Statement (.cairnEnable value) := operands_of_none rfl

theorem Operands.disagreeClear : Operands.Statement (.disagreeClear) := operands_of_none rfl

theorem Operands.shareOrderWrite value : Operands.Statement (.shareOrderWrite value) := operands_of_none rfl

theorem Operands.sleep value : Operands.Statement (.sleep value) := operands_of_none rfl

theorem Operands.retire value : Operands.Statement (.retire value) := operands_of_none rfl

theorem Operands.cntCfgWrite die value : Operands.Statement (.cntCfgWrite die value) := operands_of_some rfl (by simp_all [Instr.wellFormed, pageOk])

theorem Operands.cntClrAll die : Operands.Statement (.cntClrAll die) := operands_of_some rfl (by simp_all [Instr.wellFormed, pageOk])

theorem Operands.cntClrSel die : Operands.Statement (.cntClrSel die) := operands_of_some rfl (by simp_all [Instr.wellFormed, pageOk])

theorem Operands.snapNow die : Operands.Statement (.snapNow die) := operands_of_some rfl (by simp_all [Instr.wellFormed, pageOk])

theorem Operands.snapArm die : Operands.Statement (.snapArm die) := operands_of_some rfl (by simp_all [Instr.wellFormed, pageOk])

theorem Operands.snapArmAll : Operands.Statement (.snapArmAll) := operands_of_none rfl

theorem Operands.snapFire die : Operands.Statement (.snapFire die) := operands_of_some rfl (by simp_all [Instr.wellFormed, pageOk])

theorem Operands.traceEnable value : Operands.Statement (.traceEnable value) := operands_of_none rfl

theorem Operands.dbgCtrlClose : Operands.Statement (.dbgCtrlClose) := operands_of_none rfl

theorem Operands.dbgCtrlLockout : Operands.Statement (.dbgCtrlLockout) := operands_of_none rfl

theorem Operands.jtagBypass : Operands.Statement (.jtagBypass) := operands_of_none rfl

theorem Operands.jtagIdcode : Operands.Statement (.jtagIdcode) := operands_of_none rfl

theorem Operands.jtagSamplePreload data : Operands.Statement (.jtagSamplePreload data) := operands_of_none rfl

theorem Operands.jtagExtest data : Operands.Statement (.jtagExtest data) := operands_of_none rfl

theorem Operands.dbgChallenge : Operands.Statement (.dbgChallenge) := operands_of_none rfl

theorem Operands.dbgToken token : Operands.Statement (.dbgToken token) := operands_of_none rfl

theorem Operands.dbgClose : Operands.Statement (.dbgClose) := operands_of_none rfl

theorem Operands.dbgMem device addr value : Operands.Statement (.dbgMem device addr value) := operands_of_none rfl

theorem Operands.dbgCore core op : Operands.Statement (.dbgCore core op) := operands_of_none rfl

theorem Operands.bwBlockWrite code value pecOk : Operands.Statement (.bwBlockWrite code value pecOk) := operands_of_none rfl

theorem Operands.bwStatusRead code gpio : Operands.Statement (.bwStatusRead code gpio) := operands_of_none rfl

theorem Operands.resetAssert byPwrGood : Operands.Statement (.resetAssert byPwrGood) := operands_of_none rfl

theorem Operands.coldBoot ticks dramTemp badPorts ucFail badDies : Operands.Statement (.coldBoot ticks dramTemp badPorts ucFail badDies) := operands_of_none rfl

theorem Operands.wake ticks mismatch dramTemp badPorts ucFail badDies : Operands.Statement (.wake ticks mismatch dramTemp badPorts ucFail badDies) := operands_of_none rfl

theorem Operands.wakeNFall : Operands.Statement (.wakeNFall) := operands_of_none rfl

theorem Operands.usb4WakeSignal : Operands.Statement (.usb4WakeSignal) := operands_of_none rfl

theorem Operands.alarm : Operands.Statement (.alarm) := operands_of_none rfl

theorem Operands.supplyLoss baseCamp : Operands.Statement (.supplyLoss baseCamp) := operands_of_none rfl

theorem Operands.ringCtrlWrite value : Operands.Statement (.ringCtrlWrite value) := operands_of_none rfl

theorem Operands.msixVectorUnmask vector : Operands.Statement (.msixVectorUnmask vector) := operands_of_none rfl

theorem Operands.streamLock enc bpc w h rate progressive prot ctype : Operands.Statement (.streamLock enc bpc w h rate progressive prot ctype) := operands_of_none rfl

theorem Operands.streamLost tunnel : Operands.Statement (.streamLost tunnel) := operands_of_none rfl

theorem Operands.hdcpAuthEnd output result ids : Operands.Statement (.hdcpAuthEnd output result ids) :=
  operands_of_some rfl fun w => pageOk_dptx output (by simp [Instr.wellFormed, unitOk] at w; omega)

theorem Operands.dpLinkFail output : Operands.Statement (.dpLinkFail output) :=
  operands_of_some rfl fun w => pageOk_dptx output (by simp [Instr.wellFormed, unitOk] at w; omega)

theorem Operands.xtal32Start : Operands.Statement (.xtal32Start) := operands_of_none rfl

theorem Operands.pwrGoodRise : Operands.Statement (.pwrGoodRise) := operands_of_none rfl

theorem Operands.blockDrainClear blk inst : Operands.Statement (.blockDrainClear blk inst) := operands_of_some rfl (by simp_all [Instr.wellFormed, pageOk])

theorem Operands.counterSaturate die page k : Operands.Statement (.counterSaturate die page k) := operands_of_some rfl (by simp_all [Instr.wellFormed, pageOk])

end Sys2Proof.Laws
end

