-- ==== Sys2Proof/Laws/State.lean ====
section
/-!
SUPPORT. The fields that each named update of the state leaves as they are, one lemma a field.
-/

-- One proof at a time: the proofs of this file are many, and run together they take many threads at once.
set_option Elab.async false

namespace Sys2Proof.Machine

/-! `setReg` -/

@[simp] theorem State.setReg_pending (s : State) (b : Blk) (i off v : Nat) : (s.setReg b i off v).pending = s.pending := rfl
@[simp] theorem State.setReg_part (s : State) (b : Blk) (i off v : Nat) : (s.setReg b i off v).part = s.part := rfl
@[simp] theorem State.setReg_now (s : State) (b : Blk) (i off v : Nat) : (s.setReg b i off v).now = s.now := rfl
@[simp] theorem State.setReg_freeCount (s : State) (b : Blk) (i off v : Nat) : (s.setReg b i off v).freeCount = s.freeCount := rfl
@[simp] theorem State.setReg_devState (s : State) (b : Blk) (i off v : Nat) : (s.setReg b i off v).devState = s.devState := rfl
@[simp] theorem State.setReg_holdCauses (s : State) (b : Blk) (i off v : Nat) : (s.setReg b i off v).holdCauses = s.holdCauses := rfl
@[simp] theorem State.setReg_cdLost (s : State) (b : Blk) (i off v : Nat) : (s.setReg b i off v).cdLost = s.cdLost := rfl
@[simp] theorem State.setReg_mdLost (s : State) (b : Blk) (i off v : Nat) : (s.setReg b i off v).mdLost = s.mdLost := rfl
@[simp] theorem State.setReg_cmds (s : State) (b : Blk) (i off v : Nat) : (s.setReg b i off v).cmds = s.cmds := rfl
@[simp] theorem State.setReg_nextUid (s : State) (b : Blk) (i off v : Nat) : (s.setReg b i off v).nextUid = s.nextUid := rfl
@[simp] theorem State.setReg_steps (s : State) (b : Blk) (i off v : Nat) : (s.setReg b i off v).steps = s.steps := rfl
@[simp] theorem State.setReg_groups (s : State) (b : Blk) (i off v : Nat) : (s.setReg b i off v).groups = s.groups := rfl
@[simp] theorem State.setReg_fetches (s : State) (b : Blk) (i off v : Nat) : (s.setReg b i off v).fetches = s.fetches := rfl
@[simp] theorem State.setReg_colls (s : State) (b : Blk) (i off v : Nat) : (s.setReg b i off v).colls = s.colls := rfl
@[simp] theorem State.setReg_jobs (s : State) (b : Blk) (i off v : Nat) : (s.setReg b i off v).jobs = s.jobs := rfl
@[simp] theorem State.setReg_engines (s : State) (b : Blk) (i off v : Nat) : (s.setReg b i off v).engines = s.engines := rfl
@[simp] theorem State.setReg_flags (s : State) (b : Blk) (i off v : Nat) : (s.setReg b i off v).flags = s.flags := rfl
@[simp] theorem State.setReg_windows (s : State) (b : Blk) (i off v : Nat) : (s.setReg b i off v).windows = s.windows := rfl
@[simp] theorem State.setReg_saveBase (s : State) (b : Blk) (i off v : Nat) : (s.setReg b i off v).saveBase = s.saveBase := rfl
@[simp] theorem State.setReg_apts (s : State) (b : Blk) (i off v : Nat) : (s.setReg b i off v).apts = s.apts := rfl
@[simp] theorem State.setReg_aptSlots (s : State) (b : Blk) (i off v : Nat) : (s.setReg b i off v).aptSlots = s.aptSlots := rfl
@[simp] theorem State.setReg_rings (s : State) (b : Blk) (i off v : Nat) : (s.setReg b i off v).rings = s.rings := rfl
@[simp] theorem State.setReg_waiting (s : State) (b : Blk) (i off v : Nat) : (s.setReg b i off v).waiting = s.waiting := rfl
@[simp] theorem State.setReg_backlog (s : State) (b : Blk) (i off v : Nat) : (s.setReg b i off v).backlog = s.backlog := rfl
@[simp] theorem State.setReg_link (s : State) (b : Blk) (i off v : Nat) : (s.setReg b i off v).link = s.link := rfl
@[simp] theorem State.setReg_msix (s : State) (b : Blk) (i off v : Nat) : (s.setReg b i off v).msix = s.msix := rfl
@[simp] theorem State.setReg_dma (s : State) (b : Blk) (i off v : Nat) : (s.setReg b i off v).dma = s.dma := rfl
@[simp] theorem State.setReg_stopped (s : State) (b : Blk) (i off v : Nat) : (s.setReg b i off v).stopped = s.stopped := rfl
@[simp] theorem State.setReg_resetPending (s : State) (b : Blk) (i off v : Nat) : (s.setReg b i off v).resetPending = s.resetPending := rfl
@[simp] theorem State.setReg_pages (s : State) (b : Blk) (i off v : Nat) : (s.setReg b i off v).pages = s.pages := rfl
@[simp] theorem State.setReg_latch (s : State) (b : Blk) (i off v : Nat) : (s.setReg b i off v).latch = s.latch := rfl
@[simp] theorem State.setReg_mem (s : State) (b : Blk) (i off v : Nat) : (s.setReg b i off v).mem = s.mem := rfl
@[simp] theorem State.setReg_hostMem (s : State) (b : Blk) (i off v : Nat) : (s.setReg b i off v).hostMem = s.hostMem := rfl
@[simp] theorem State.setReg_badWords (s : State) (b : Blk) (i off v : Nat) : (s.setReg b i off v).badWords = s.badWords := rfl
@[simp] theorem State.setReg_softWords (s : State) (b : Blk) (i off v : Nat) : (s.setReg b i off v).softWords = s.softWords := rfl
@[simp] theorem State.setReg_insole (s : State) (b : Blk) (i off v : Nat) : (s.setReg b i off v).insole = s.insole := rfl
@[simp] theorem State.setReg_protEff (s : State) (b : Blk) (i off v : Nat) : (s.setReg b i off v).protEff = s.protEff := rfl
@[simp] theorem State.setReg_me (s : State) (b : Blk) (i off v : Nat) : (s.setReg b i off v).me = s.me := rfl
@[simp] theorem State.setReg_ingest (s : State) (b : Blk) (i off v : Nat) : (s.setReg b i off v).ingest = s.ingest := rfl
@[simp] theorem State.setReg_raster (s : State) (b : Blk) (i off v : Nat) : (s.setReg b i off v).raster = s.raster := rfl
@[simp] theorem State.setReg_disp (s : State) (b : Blk) (i off v : Nat) : (s.setReg b i off v).disp = s.disp := rfl
@[simp] theorem State.setReg_outs (s : State) (b : Blk) (i off v : Nat) : (s.setReg b i off v).outs = s.outs := rfl
@[simp] theorem State.setReg_traceGap (s : State) (b : Blk) (i off v : Nat) : (s.setReg b i off v).traceGap = s.traceGap := rfl
@[simp] theorem State.setReg_log (s : State) (b : Blk) (i off v : Nat) : (s.setReg b i off v).log = s.log := rfl
@[simp] theorem State.setReg_readData (s : State) (b : Blk) (i off v : Nat) : (s.setReg b i off v).readData = s.readData := rfl
@[simp] theorem State.setReg_pins (s : State) (b : Blk) (i off v : Nat) : (s.setReg b i off v).pins = s.pins := rfl
@[simp] theorem State.setReg_bw (s : State) (b : Blk) (i off v : Nat) : (s.setReg b i off v).bw = s.bw := rfl
@[simp] theorem State.setReg_pwr (s : State) (b : Blk) (i off v : Nat) : (s.setReg b i off v).pwr = s.pwr := rfl
@[simp] theorem State.setReg_boot (s : State) (b : Blk) (i off v : Nat) : (s.setReg b i off v).boot = s.boot := rfl
@[simp] theorem State.setReg_welt (s : State) (b : Blk) (i off v : Nat) : (s.setReg b i off v).welt = s.welt := rfl
@[simp] theorem State.setReg_refresh (s : State) (b : Blk) (i off v : Nat) : (s.setReg b i off v).refresh = s.refresh := rfl
@[simp] theorem State.setReg_cairn (s : State) (b : Blk) (i off v : Nat) : (s.setReg b i off v).cairn = s.cairn := rfl
@[simp] theorem State.setReg_ctrs (s : State) (b : Blk) (i off v : Nat) : (s.setReg b i off v).ctrs = s.ctrs := rfl
@[simp] theorem State.setReg_snaps (s : State) (b : Blk) (i off v : Nat) : (s.setReg b i off v).snaps = s.snaps := rfl
@[simp] theorem State.setReg_dbg (s : State) (b : Blk) (i off v : Nat) : (s.setReg b i off v).dbg = s.dbg := rfl
@[simp] theorem State.setReg_lastFw (s : State) (b : Blk) (i off v : Nat) : (s.setReg b i off v).lastFw = s.lastFw := rfl
@[simp] theorem State.setReg_traceFill (s : State) (b : Blk) (i off v : Nat) : (s.setReg b i off v).traceFill = s.traceFill := rfl
@[simp] theorem State.setReg_traceAt (s : State) (b : Blk) (i off v : Nat) : (s.setReg b i off v).traceAt = s.traceAt := rfl
@[simp] theorem State.setReg_sleeping (s : State) (b : Blk) (i off v : Nat) : (s.setReg b i off v).sleeping = s.sleeping := rfl
@[simp] theorem State.setReg_issue (s : State) (b : Blk) (i off v : Nat) : (s.setReg b i off v).issue = s.issue := rfl
@[simp] theorem State.setReg_timeFrac (s : State) (b : Blk) (i off v : Nat) : (s.setReg b i off v).timeFrac = s.timeFrac := rfl

/-! `putPage` -/

@[simp] theorem State.putPage_pending (s : State) (b : Blk) (i : Nat) (p : Page) : (s.putPage b i p).pending = s.pending := rfl
@[simp] theorem State.putPage_part (s : State) (b : Blk) (i : Nat) (p : Page) : (s.putPage b i p).part = s.part := rfl
@[simp] theorem State.putPage_now (s : State) (b : Blk) (i : Nat) (p : Page) : (s.putPage b i p).now = s.now := rfl
@[simp] theorem State.putPage_freeCount (s : State) (b : Blk) (i : Nat) (p : Page) : (s.putPage b i p).freeCount = s.freeCount := rfl
@[simp] theorem State.putPage_devState (s : State) (b : Blk) (i : Nat) (p : Page) : (s.putPage b i p).devState = s.devState := rfl
@[simp] theorem State.putPage_holdCauses (s : State) (b : Blk) (i : Nat) (p : Page) : (s.putPage b i p).holdCauses = s.holdCauses := rfl
@[simp] theorem State.putPage_cdLost (s : State) (b : Blk) (i : Nat) (p : Page) : (s.putPage b i p).cdLost = s.cdLost := rfl
@[simp] theorem State.putPage_mdLost (s : State) (b : Blk) (i : Nat) (p : Page) : (s.putPage b i p).mdLost = s.mdLost := rfl
@[simp] theorem State.putPage_cmds (s : State) (b : Blk) (i : Nat) (p : Page) : (s.putPage b i p).cmds = s.cmds := rfl
@[simp] theorem State.putPage_nextUid (s : State) (b : Blk) (i : Nat) (p : Page) : (s.putPage b i p).nextUid = s.nextUid := rfl
@[simp] theorem State.putPage_steps (s : State) (b : Blk) (i : Nat) (p : Page) : (s.putPage b i p).steps = s.steps := rfl
@[simp] theorem State.putPage_groups (s : State) (b : Blk) (i : Nat) (p : Page) : (s.putPage b i p).groups = s.groups := rfl
@[simp] theorem State.putPage_fetches (s : State) (b : Blk) (i : Nat) (p : Page) : (s.putPage b i p).fetches = s.fetches := rfl
@[simp] theorem State.putPage_colls (s : State) (b : Blk) (i : Nat) (p : Page) : (s.putPage b i p).colls = s.colls := rfl
@[simp] theorem State.putPage_jobs (s : State) (b : Blk) (i : Nat) (p : Page) : (s.putPage b i p).jobs = s.jobs := rfl
@[simp] theorem State.putPage_engines (s : State) (b : Blk) (i : Nat) (p : Page) : (s.putPage b i p).engines = s.engines := rfl
@[simp] theorem State.putPage_flags (s : State) (b : Blk) (i : Nat) (p : Page) : (s.putPage b i p).flags = s.flags := rfl
@[simp] theorem State.putPage_windows (s : State) (b : Blk) (i : Nat) (p : Page) : (s.putPage b i p).windows = s.windows := rfl
@[simp] theorem State.putPage_saveBase (s : State) (b : Blk) (i : Nat) (p : Page) : (s.putPage b i p).saveBase = s.saveBase := rfl
@[simp] theorem State.putPage_apts (s : State) (b : Blk) (i : Nat) (p : Page) : (s.putPage b i p).apts = s.apts := rfl
@[simp] theorem State.putPage_aptSlots (s : State) (b : Blk) (i : Nat) (p : Page) : (s.putPage b i p).aptSlots = s.aptSlots := rfl
@[simp] theorem State.putPage_rings (s : State) (b : Blk) (i : Nat) (p : Page) : (s.putPage b i p).rings = s.rings := rfl
@[simp] theorem State.putPage_waiting (s : State) (b : Blk) (i : Nat) (p : Page) : (s.putPage b i p).waiting = s.waiting := rfl
@[simp] theorem State.putPage_backlog (s : State) (b : Blk) (i : Nat) (p : Page) : (s.putPage b i p).backlog = s.backlog := rfl
@[simp] theorem State.putPage_link (s : State) (b : Blk) (i : Nat) (p : Page) : (s.putPage b i p).link = s.link := rfl
@[simp] theorem State.putPage_msix (s : State) (b : Blk) (i : Nat) (p : Page) : (s.putPage b i p).msix = s.msix := rfl
@[simp] theorem State.putPage_dma (s : State) (b : Blk) (i : Nat) (p : Page) : (s.putPage b i p).dma = s.dma := rfl
@[simp] theorem State.putPage_stopped (s : State) (b : Blk) (i : Nat) (p : Page) : (s.putPage b i p).stopped = s.stopped := rfl
@[simp] theorem State.putPage_resetPending (s : State) (b : Blk) (i : Nat) (p : Page) : (s.putPage b i p).resetPending = s.resetPending := rfl
@[simp] theorem State.putPage_regs (s : State) (b : Blk) (i : Nat) (p : Page) : (s.putPage b i p).regs = s.regs := rfl
@[simp] theorem State.putPage_latch (s : State) (b : Blk) (i : Nat) (p : Page) : (s.putPage b i p).latch = s.latch := rfl
@[simp] theorem State.putPage_mem (s : State) (b : Blk) (i : Nat) (p : Page) : (s.putPage b i p).mem = s.mem := rfl
@[simp] theorem State.putPage_hostMem (s : State) (b : Blk) (i : Nat) (p : Page) : (s.putPage b i p).hostMem = s.hostMem := rfl
@[simp] theorem State.putPage_badWords (s : State) (b : Blk) (i : Nat) (p : Page) : (s.putPage b i p).badWords = s.badWords := rfl
@[simp] theorem State.putPage_softWords (s : State) (b : Blk) (i : Nat) (p : Page) : (s.putPage b i p).softWords = s.softWords := rfl
@[simp] theorem State.putPage_insole (s : State) (b : Blk) (i : Nat) (p : Page) : (s.putPage b i p).insole = s.insole := rfl
@[simp] theorem State.putPage_protEff (s : State) (b : Blk) (i : Nat) (p : Page) : (s.putPage b i p).protEff = s.protEff := rfl
@[simp] theorem State.putPage_me (s : State) (b : Blk) (i : Nat) (p : Page) : (s.putPage b i p).me = s.me := rfl
@[simp] theorem State.putPage_ingest (s : State) (b : Blk) (i : Nat) (p : Page) : (s.putPage b i p).ingest = s.ingest := rfl
@[simp] theorem State.putPage_raster (s : State) (b : Blk) (i : Nat) (p : Page) : (s.putPage b i p).raster = s.raster := rfl
@[simp] theorem State.putPage_disp (s : State) (b : Blk) (i : Nat) (p : Page) : (s.putPage b i p).disp = s.disp := rfl
@[simp] theorem State.putPage_outs (s : State) (b : Blk) (i : Nat) (p : Page) : (s.putPage b i p).outs = s.outs := rfl
@[simp] theorem State.putPage_traceGap (s : State) (b : Blk) (i : Nat) (p : Page) : (s.putPage b i p).traceGap = s.traceGap := rfl
@[simp] theorem State.putPage_log (s : State) (b : Blk) (i : Nat) (p : Page) : (s.putPage b i p).log = s.log := rfl
@[simp] theorem State.putPage_readData (s : State) (b : Blk) (i : Nat) (p : Page) : (s.putPage b i p).readData = s.readData := rfl
@[simp] theorem State.putPage_pins (s : State) (b : Blk) (i : Nat) (p : Page) : (s.putPage b i p).pins = s.pins := rfl
@[simp] theorem State.putPage_bw (s : State) (b : Blk) (i : Nat) (p : Page) : (s.putPage b i p).bw = s.bw := rfl
@[simp] theorem State.putPage_pwr (s : State) (b : Blk) (i : Nat) (p : Page) : (s.putPage b i p).pwr = s.pwr := rfl
@[simp] theorem State.putPage_boot (s : State) (b : Blk) (i : Nat) (p : Page) : (s.putPage b i p).boot = s.boot := rfl
@[simp] theorem State.putPage_welt (s : State) (b : Blk) (i : Nat) (p : Page) : (s.putPage b i p).welt = s.welt := rfl
@[simp] theorem State.putPage_refresh (s : State) (b : Blk) (i : Nat) (p : Page) : (s.putPage b i p).refresh = s.refresh := rfl
@[simp] theorem State.putPage_cairn (s : State) (b : Blk) (i : Nat) (p : Page) : (s.putPage b i p).cairn = s.cairn := rfl
@[simp] theorem State.putPage_ctrs (s : State) (b : Blk) (i : Nat) (p : Page) : (s.putPage b i p).ctrs = s.ctrs := rfl
@[simp] theorem State.putPage_snaps (s : State) (b : Blk) (i : Nat) (p : Page) : (s.putPage b i p).snaps = s.snaps := rfl
@[simp] theorem State.putPage_dbg (s : State) (b : Blk) (i : Nat) (p : Page) : (s.putPage b i p).dbg = s.dbg := rfl
@[simp] theorem State.putPage_lastFw (s : State) (b : Blk) (i : Nat) (p : Page) : (s.putPage b i p).lastFw = s.lastFw := rfl
@[simp] theorem State.putPage_traceFill (s : State) (b : Blk) (i : Nat) (p : Page) : (s.putPage b i p).traceFill = s.traceFill := rfl
@[simp] theorem State.putPage_traceAt (s : State) (b : Blk) (i : Nat) (p : Page) : (s.putPage b i p).traceAt = s.traceAt := rfl
@[simp] theorem State.putPage_sleeping (s : State) (b : Blk) (i : Nat) (p : Page) : (s.putPage b i p).sleeping = s.sleeping := rfl
@[simp] theorem State.putPage_issue (s : State) (b : Blk) (i : Nat) (p : Page) : (s.putPage b i p).issue = s.issue := rfl
@[simp] theorem State.putPage_timeFrac (s : State) (b : Blk) (i : Nat) (p : Page) : (s.putPage b i p).timeFrac = s.timeFrac := rfl

/-! `touch` -/

@[simp] theorem State.touch_pending (s : State) (b : Blk) (i : Nat) : (s.touch b i).pending = s.pending := rfl
@[simp] theorem State.touch_part (s : State) (b : Blk) (i : Nat) : (s.touch b i).part = s.part := rfl
@[simp] theorem State.touch_now (s : State) (b : Blk) (i : Nat) : (s.touch b i).now = s.now := rfl
@[simp] theorem State.touch_freeCount (s : State) (b : Blk) (i : Nat) : (s.touch b i).freeCount = s.freeCount := rfl
@[simp] theorem State.touch_devState (s : State) (b : Blk) (i : Nat) : (s.touch b i).devState = s.devState := rfl
@[simp] theorem State.touch_holdCauses (s : State) (b : Blk) (i : Nat) : (s.touch b i).holdCauses = s.holdCauses := rfl
@[simp] theorem State.touch_cdLost (s : State) (b : Blk) (i : Nat) : (s.touch b i).cdLost = s.cdLost := rfl
@[simp] theorem State.touch_mdLost (s : State) (b : Blk) (i : Nat) : (s.touch b i).mdLost = s.mdLost := rfl
@[simp] theorem State.touch_cmds (s : State) (b : Blk) (i : Nat) : (s.touch b i).cmds = s.cmds := rfl
@[simp] theorem State.touch_nextUid (s : State) (b : Blk) (i : Nat) : (s.touch b i).nextUid = s.nextUid := rfl
@[simp] theorem State.touch_steps (s : State) (b : Blk) (i : Nat) : (s.touch b i).steps = s.steps := rfl
@[simp] theorem State.touch_groups (s : State) (b : Blk) (i : Nat) : (s.touch b i).groups = s.groups := rfl
@[simp] theorem State.touch_fetches (s : State) (b : Blk) (i : Nat) : (s.touch b i).fetches = s.fetches := rfl
@[simp] theorem State.touch_colls (s : State) (b : Blk) (i : Nat) : (s.touch b i).colls = s.colls := rfl
@[simp] theorem State.touch_jobs (s : State) (b : Blk) (i : Nat) : (s.touch b i).jobs = s.jobs := rfl
@[simp] theorem State.touch_engines (s : State) (b : Blk) (i : Nat) : (s.touch b i).engines = s.engines := rfl
@[simp] theorem State.touch_flags (s : State) (b : Blk) (i : Nat) : (s.touch b i).flags = s.flags := rfl
@[simp] theorem State.touch_windows (s : State) (b : Blk) (i : Nat) : (s.touch b i).windows = s.windows := rfl
@[simp] theorem State.touch_saveBase (s : State) (b : Blk) (i : Nat) : (s.touch b i).saveBase = s.saveBase := rfl
@[simp] theorem State.touch_apts (s : State) (b : Blk) (i : Nat) : (s.touch b i).apts = s.apts := rfl
@[simp] theorem State.touch_aptSlots (s : State) (b : Blk) (i : Nat) : (s.touch b i).aptSlots = s.aptSlots := rfl
@[simp] theorem State.touch_rings (s : State) (b : Blk) (i : Nat) : (s.touch b i).rings = s.rings := rfl
@[simp] theorem State.touch_waiting (s : State) (b : Blk) (i : Nat) : (s.touch b i).waiting = s.waiting := rfl
@[simp] theorem State.touch_backlog (s : State) (b : Blk) (i : Nat) : (s.touch b i).backlog = s.backlog := rfl
@[simp] theorem State.touch_link (s : State) (b : Blk) (i : Nat) : (s.touch b i).link = s.link := rfl
@[simp] theorem State.touch_msix (s : State) (b : Blk) (i : Nat) : (s.touch b i).msix = s.msix := rfl
@[simp] theorem State.touch_dma (s : State) (b : Blk) (i : Nat) : (s.touch b i).dma = s.dma := rfl
@[simp] theorem State.touch_stopped (s : State) (b : Blk) (i : Nat) : (s.touch b i).stopped = s.stopped := rfl
@[simp] theorem State.touch_resetPending (s : State) (b : Blk) (i : Nat) : (s.touch b i).resetPending = s.resetPending := rfl
@[simp] theorem State.touch_regs (s : State) (b : Blk) (i : Nat) : (s.touch b i).regs = s.regs := rfl
@[simp] theorem State.touch_latch (s : State) (b : Blk) (i : Nat) : (s.touch b i).latch = s.latch := rfl
@[simp] theorem State.touch_mem (s : State) (b : Blk) (i : Nat) : (s.touch b i).mem = s.mem := rfl
@[simp] theorem State.touch_hostMem (s : State) (b : Blk) (i : Nat) : (s.touch b i).hostMem = s.hostMem := rfl
@[simp] theorem State.touch_badWords (s : State) (b : Blk) (i : Nat) : (s.touch b i).badWords = s.badWords := rfl
@[simp] theorem State.touch_softWords (s : State) (b : Blk) (i : Nat) : (s.touch b i).softWords = s.softWords := rfl
@[simp] theorem State.touch_insole (s : State) (b : Blk) (i : Nat) : (s.touch b i).insole = s.insole := rfl
@[simp] theorem State.touch_protEff (s : State) (b : Blk) (i : Nat) : (s.touch b i).protEff = s.protEff := rfl
@[simp] theorem State.touch_me (s : State) (b : Blk) (i : Nat) : (s.touch b i).me = s.me := rfl
@[simp] theorem State.touch_ingest (s : State) (b : Blk) (i : Nat) : (s.touch b i).ingest = s.ingest := rfl
@[simp] theorem State.touch_raster (s : State) (b : Blk) (i : Nat) : (s.touch b i).raster = s.raster := rfl
@[simp] theorem State.touch_disp (s : State) (b : Blk) (i : Nat) : (s.touch b i).disp = s.disp := rfl
@[simp] theorem State.touch_outs (s : State) (b : Blk) (i : Nat) : (s.touch b i).outs = s.outs := rfl
@[simp] theorem State.touch_traceGap (s : State) (b : Blk) (i : Nat) : (s.touch b i).traceGap = s.traceGap := rfl
@[simp] theorem State.touch_log (s : State) (b : Blk) (i : Nat) : (s.touch b i).log = s.log := rfl
@[simp] theorem State.touch_readData (s : State) (b : Blk) (i : Nat) : (s.touch b i).readData = s.readData := rfl
@[simp] theorem State.touch_pins (s : State) (b : Blk) (i : Nat) : (s.touch b i).pins = s.pins := rfl
@[simp] theorem State.touch_bw (s : State) (b : Blk) (i : Nat) : (s.touch b i).bw = s.bw := rfl
@[simp] theorem State.touch_pwr (s : State) (b : Blk) (i : Nat) : (s.touch b i).pwr = s.pwr := rfl
@[simp] theorem State.touch_boot (s : State) (b : Blk) (i : Nat) : (s.touch b i).boot = s.boot := rfl
@[simp] theorem State.touch_welt (s : State) (b : Blk) (i : Nat) : (s.touch b i).welt = s.welt := rfl
@[simp] theorem State.touch_refresh (s : State) (b : Blk) (i : Nat) : (s.touch b i).refresh = s.refresh := rfl
@[simp] theorem State.touch_cairn (s : State) (b : Blk) (i : Nat) : (s.touch b i).cairn = s.cairn := rfl
@[simp] theorem State.touch_ctrs (s : State) (b : Blk) (i : Nat) : (s.touch b i).ctrs = s.ctrs := rfl
@[simp] theorem State.touch_snaps (s : State) (b : Blk) (i : Nat) : (s.touch b i).snaps = s.snaps := rfl
@[simp] theorem State.touch_dbg (s : State) (b : Blk) (i : Nat) : (s.touch b i).dbg = s.dbg := rfl
@[simp] theorem State.touch_lastFw (s : State) (b : Blk) (i : Nat) : (s.touch b i).lastFw = s.lastFw := rfl
@[simp] theorem State.touch_traceFill (s : State) (b : Blk) (i : Nat) : (s.touch b i).traceFill = s.traceFill := rfl
@[simp] theorem State.touch_traceAt (s : State) (b : Blk) (i : Nat) : (s.touch b i).traceAt = s.traceAt := rfl
@[simp] theorem State.touch_sleeping (s : State) (b : Blk) (i : Nat) : (s.touch b i).sleeping = s.sleeping := rfl
@[simp] theorem State.touch_issue (s : State) (b : Blk) (i : Nat) : (s.touch b i).issue = s.issue := rfl
@[simp] theorem State.touch_timeFrac (s : State) (b : Blk) (i : Nat) : (s.touch b i).timeFrac = s.timeFrac := rfl

/-! `err` -/

@[simp] theorem State.err_pending (s : State) (b : Blk) (i code info addr : Nat) : (s.err b i code info addr).pending = s.pending := rfl
@[simp] theorem State.err_part (s : State) (b : Blk) (i code info addr : Nat) : (s.err b i code info addr).part = s.part := rfl
@[simp] theorem State.err_now (s : State) (b : Blk) (i code info addr : Nat) : (s.err b i code info addr).now = s.now := rfl
@[simp] theorem State.err_freeCount (s : State) (b : Blk) (i code info addr : Nat) : (s.err b i code info addr).freeCount = s.freeCount := rfl
@[simp] theorem State.err_devState (s : State) (b : Blk) (i code info addr : Nat) : (s.err b i code info addr).devState = s.devState := rfl
@[simp] theorem State.err_holdCauses (s : State) (b : Blk) (i code info addr : Nat) : (s.err b i code info addr).holdCauses = s.holdCauses := rfl
@[simp] theorem State.err_cdLost (s : State) (b : Blk) (i code info addr : Nat) : (s.err b i code info addr).cdLost = s.cdLost := rfl
@[simp] theorem State.err_mdLost (s : State) (b : Blk) (i code info addr : Nat) : (s.err b i code info addr).mdLost = s.mdLost := rfl
@[simp] theorem State.err_cmds (s : State) (b : Blk) (i code info addr : Nat) : (s.err b i code info addr).cmds = s.cmds := rfl
@[simp] theorem State.err_nextUid (s : State) (b : Blk) (i code info addr : Nat) : (s.err b i code info addr).nextUid = s.nextUid := rfl
@[simp] theorem State.err_steps (s : State) (b : Blk) (i code info addr : Nat) : (s.err b i code info addr).steps = s.steps := rfl
@[simp] theorem State.err_groups (s : State) (b : Blk) (i code info addr : Nat) : (s.err b i code info addr).groups = s.groups := rfl
@[simp] theorem State.err_fetches (s : State) (b : Blk) (i code info addr : Nat) : (s.err b i code info addr).fetches = s.fetches := rfl
@[simp] theorem State.err_colls (s : State) (b : Blk) (i code info addr : Nat) : (s.err b i code info addr).colls = s.colls := rfl
@[simp] theorem State.err_jobs (s : State) (b : Blk) (i code info addr : Nat) : (s.err b i code info addr).jobs = s.jobs := rfl
@[simp] theorem State.err_engines (s : State) (b : Blk) (i code info addr : Nat) : (s.err b i code info addr).engines = s.engines := rfl
@[simp] theorem State.err_flags (s : State) (b : Blk) (i code info addr : Nat) : (s.err b i code info addr).flags = s.flags := rfl
@[simp] theorem State.err_windows (s : State) (b : Blk) (i code info addr : Nat) : (s.err b i code info addr).windows = s.windows := rfl
@[simp] theorem State.err_saveBase (s : State) (b : Blk) (i code info addr : Nat) : (s.err b i code info addr).saveBase = s.saveBase := rfl
@[simp] theorem State.err_apts (s : State) (b : Blk) (i code info addr : Nat) : (s.err b i code info addr).apts = s.apts := rfl
@[simp] theorem State.err_aptSlots (s : State) (b : Blk) (i code info addr : Nat) : (s.err b i code info addr).aptSlots = s.aptSlots := rfl
@[simp] theorem State.err_rings (s : State) (b : Blk) (i code info addr : Nat) : (s.err b i code info addr).rings = s.rings := rfl
@[simp] theorem State.err_waiting (s : State) (b : Blk) (i code info addr : Nat) : (s.err b i code info addr).waiting = s.waiting := rfl
@[simp] theorem State.err_backlog (s : State) (b : Blk) (i code info addr : Nat) : (s.err b i code info addr).backlog = s.backlog := rfl
@[simp] theorem State.err_link (s : State) (b : Blk) (i code info addr : Nat) : (s.err b i code info addr).link = s.link := rfl
@[simp] theorem State.err_msix (s : State) (b : Blk) (i code info addr : Nat) : (s.err b i code info addr).msix = s.msix := rfl
@[simp] theorem State.err_dma (s : State) (b : Blk) (i code info addr : Nat) : (s.err b i code info addr).dma = s.dma := rfl
@[simp] theorem State.err_stopped (s : State) (b : Blk) (i code info addr : Nat) : (s.err b i code info addr).stopped = s.stopped := rfl
@[simp] theorem State.err_resetPending (s : State) (b : Blk) (i code info addr : Nat) : (s.err b i code info addr).resetPending = s.resetPending := rfl
@[simp] theorem State.err_regs (s : State) (b : Blk) (i code info addr : Nat) : (s.err b i code info addr).regs = s.regs := rfl
@[simp] theorem State.err_latch (s : State) (b : Blk) (i code info addr : Nat) : (s.err b i code info addr).latch = s.latch := rfl
@[simp] theorem State.err_mem (s : State) (b : Blk) (i code info addr : Nat) : (s.err b i code info addr).mem = s.mem := rfl
@[simp] theorem State.err_hostMem (s : State) (b : Blk) (i code info addr : Nat) : (s.err b i code info addr).hostMem = s.hostMem := rfl
@[simp] theorem State.err_badWords (s : State) (b : Blk) (i code info addr : Nat) : (s.err b i code info addr).badWords = s.badWords := rfl
@[simp] theorem State.err_softWords (s : State) (b : Blk) (i code info addr : Nat) : (s.err b i code info addr).softWords = s.softWords := rfl
@[simp] theorem State.err_insole (s : State) (b : Blk) (i code info addr : Nat) : (s.err b i code info addr).insole = s.insole := rfl
@[simp] theorem State.err_protEff (s : State) (b : Blk) (i code info addr : Nat) : (s.err b i code info addr).protEff = s.protEff := rfl
@[simp] theorem State.err_me (s : State) (b : Blk) (i code info addr : Nat) : (s.err b i code info addr).me = s.me := rfl
@[simp] theorem State.err_ingest (s : State) (b : Blk) (i code info addr : Nat) : (s.err b i code info addr).ingest = s.ingest := rfl
@[simp] theorem State.err_raster (s : State) (b : Blk) (i code info addr : Nat) : (s.err b i code info addr).raster = s.raster := rfl
@[simp] theorem State.err_disp (s : State) (b : Blk) (i code info addr : Nat) : (s.err b i code info addr).disp = s.disp := rfl
@[simp] theorem State.err_outs (s : State) (b : Blk) (i code info addr : Nat) : (s.err b i code info addr).outs = s.outs := rfl
@[simp] theorem State.err_traceGap (s : State) (b : Blk) (i code info addr : Nat) : (s.err b i code info addr).traceGap = s.traceGap := rfl
@[simp] theorem State.err_log (s : State) (b : Blk) (i code info addr : Nat) : (s.err b i code info addr).log = s.log := rfl
@[simp] theorem State.err_readData (s : State) (b : Blk) (i code info addr : Nat) : (s.err b i code info addr).readData = s.readData := rfl
@[simp] theorem State.err_pins (s : State) (b : Blk) (i code info addr : Nat) : (s.err b i code info addr).pins = s.pins := rfl
@[simp] theorem State.err_bw (s : State) (b : Blk) (i code info addr : Nat) : (s.err b i code info addr).bw = s.bw := rfl
@[simp] theorem State.err_pwr (s : State) (b : Blk) (i code info addr : Nat) : (s.err b i code info addr).pwr = s.pwr := rfl
@[simp] theorem State.err_boot (s : State) (b : Blk) (i code info addr : Nat) : (s.err b i code info addr).boot = s.boot := rfl
@[simp] theorem State.err_welt (s : State) (b : Blk) (i code info addr : Nat) : (s.err b i code info addr).welt = s.welt := rfl
@[simp] theorem State.err_refresh (s : State) (b : Blk) (i code info addr : Nat) : (s.err b i code info addr).refresh = s.refresh := rfl
@[simp] theorem State.err_cairn (s : State) (b : Blk) (i code info addr : Nat) : (s.err b i code info addr).cairn = s.cairn := rfl
@[simp] theorem State.err_ctrs (s : State) (b : Blk) (i code info addr : Nat) : (s.err b i code info addr).ctrs = s.ctrs := rfl
@[simp] theorem State.err_snaps (s : State) (b : Blk) (i code info addr : Nat) : (s.err b i code info addr).snaps = s.snaps := rfl
@[simp] theorem State.err_dbg (s : State) (b : Blk) (i code info addr : Nat) : (s.err b i code info addr).dbg = s.dbg := rfl
@[simp] theorem State.err_lastFw (s : State) (b : Blk) (i code info addr : Nat) : (s.err b i code info addr).lastFw = s.lastFw := rfl
@[simp] theorem State.err_traceFill (s : State) (b : Blk) (i code info addr : Nat) : (s.err b i code info addr).traceFill = s.traceFill := rfl
@[simp] theorem State.err_traceAt (s : State) (b : Blk) (i code info addr : Nat) : (s.err b i code info addr).traceAt = s.traceAt := rfl
@[simp] theorem State.err_sleeping (s : State) (b : Blk) (i code info addr : Nat) : (s.err b i code info addr).sleeping = s.sleeping := rfl
@[simp] theorem State.err_issue (s : State) (b : Blk) (i code info addr : Nat) : (s.err b i code info addr).issue = s.issue := rfl
@[simp] theorem State.err_timeFrac (s : State) (b : Blk) (i code info addr : Nat) : (s.err b i code info addr).timeFrac = s.timeFrac := rfl

/-! `bump` -/

@[simp] theorem State.bump_pending (s : State) (b : Blk) (i off n : Nat) : (s.bump b i off n).pending = s.pending := rfl
@[simp] theorem State.bump_part (s : State) (b : Blk) (i off n : Nat) : (s.bump b i off n).part = s.part := rfl
@[simp] theorem State.bump_now (s : State) (b : Blk) (i off n : Nat) : (s.bump b i off n).now = s.now := rfl
@[simp] theorem State.bump_freeCount (s : State) (b : Blk) (i off n : Nat) : (s.bump b i off n).freeCount = s.freeCount := rfl
@[simp] theorem State.bump_devState (s : State) (b : Blk) (i off n : Nat) : (s.bump b i off n).devState = s.devState := rfl
@[simp] theorem State.bump_holdCauses (s : State) (b : Blk) (i off n : Nat) : (s.bump b i off n).holdCauses = s.holdCauses := rfl
@[simp] theorem State.bump_cdLost (s : State) (b : Blk) (i off n : Nat) : (s.bump b i off n).cdLost = s.cdLost := rfl
@[simp] theorem State.bump_mdLost (s : State) (b : Blk) (i off n : Nat) : (s.bump b i off n).mdLost = s.mdLost := rfl
@[simp] theorem State.bump_cmds (s : State) (b : Blk) (i off n : Nat) : (s.bump b i off n).cmds = s.cmds := rfl
@[simp] theorem State.bump_nextUid (s : State) (b : Blk) (i off n : Nat) : (s.bump b i off n).nextUid = s.nextUid := rfl
@[simp] theorem State.bump_steps (s : State) (b : Blk) (i off n : Nat) : (s.bump b i off n).steps = s.steps := rfl
@[simp] theorem State.bump_groups (s : State) (b : Blk) (i off n : Nat) : (s.bump b i off n).groups = s.groups := rfl
@[simp] theorem State.bump_fetches (s : State) (b : Blk) (i off n : Nat) : (s.bump b i off n).fetches = s.fetches := rfl
@[simp] theorem State.bump_colls (s : State) (b : Blk) (i off n : Nat) : (s.bump b i off n).colls = s.colls := rfl
@[simp] theorem State.bump_jobs (s : State) (b : Blk) (i off n : Nat) : (s.bump b i off n).jobs = s.jobs := rfl
@[simp] theorem State.bump_engines (s : State) (b : Blk) (i off n : Nat) : (s.bump b i off n).engines = s.engines := rfl
@[simp] theorem State.bump_flags (s : State) (b : Blk) (i off n : Nat) : (s.bump b i off n).flags = s.flags := rfl
@[simp] theorem State.bump_windows (s : State) (b : Blk) (i off n : Nat) : (s.bump b i off n).windows = s.windows := rfl
@[simp] theorem State.bump_saveBase (s : State) (b : Blk) (i off n : Nat) : (s.bump b i off n).saveBase = s.saveBase := rfl
@[simp] theorem State.bump_apts (s : State) (b : Blk) (i off n : Nat) : (s.bump b i off n).apts = s.apts := rfl
@[simp] theorem State.bump_aptSlots (s : State) (b : Blk) (i off n : Nat) : (s.bump b i off n).aptSlots = s.aptSlots := rfl
@[simp] theorem State.bump_rings (s : State) (b : Blk) (i off n : Nat) : (s.bump b i off n).rings = s.rings := rfl
@[simp] theorem State.bump_waiting (s : State) (b : Blk) (i off n : Nat) : (s.bump b i off n).waiting = s.waiting := rfl
@[simp] theorem State.bump_backlog (s : State) (b : Blk) (i off n : Nat) : (s.bump b i off n).backlog = s.backlog := rfl
@[simp] theorem State.bump_link (s : State) (b : Blk) (i off n : Nat) : (s.bump b i off n).link = s.link := rfl
@[simp] theorem State.bump_msix (s : State) (b : Blk) (i off n : Nat) : (s.bump b i off n).msix = s.msix := rfl
@[simp] theorem State.bump_dma (s : State) (b : Blk) (i off n : Nat) : (s.bump b i off n).dma = s.dma := rfl
@[simp] theorem State.bump_stopped (s : State) (b : Blk) (i off n : Nat) : (s.bump b i off n).stopped = s.stopped := rfl
@[simp] theorem State.bump_resetPending (s : State) (b : Blk) (i off n : Nat) : (s.bump b i off n).resetPending = s.resetPending := rfl
@[simp] theorem State.bump_pages (s : State) (b : Blk) (i off n : Nat) : (s.bump b i off n).pages = s.pages := rfl
@[simp] theorem State.bump_latch (s : State) (b : Blk) (i off n : Nat) : (s.bump b i off n).latch = s.latch := rfl
@[simp] theorem State.bump_mem (s : State) (b : Blk) (i off n : Nat) : (s.bump b i off n).mem = s.mem := rfl
@[simp] theorem State.bump_hostMem (s : State) (b : Blk) (i off n : Nat) : (s.bump b i off n).hostMem = s.hostMem := rfl
@[simp] theorem State.bump_badWords (s : State) (b : Blk) (i off n : Nat) : (s.bump b i off n).badWords = s.badWords := rfl
@[simp] theorem State.bump_softWords (s : State) (b : Blk) (i off n : Nat) : (s.bump b i off n).softWords = s.softWords := rfl
@[simp] theorem State.bump_insole (s : State) (b : Blk) (i off n : Nat) : (s.bump b i off n).insole = s.insole := rfl
@[simp] theorem State.bump_protEff (s : State) (b : Blk) (i off n : Nat) : (s.bump b i off n).protEff = s.protEff := rfl
@[simp] theorem State.bump_me (s : State) (b : Blk) (i off n : Nat) : (s.bump b i off n).me = s.me := rfl
@[simp] theorem State.bump_ingest (s : State) (b : Blk) (i off n : Nat) : (s.bump b i off n).ingest = s.ingest := rfl
@[simp] theorem State.bump_raster (s : State) (b : Blk) (i off n : Nat) : (s.bump b i off n).raster = s.raster := rfl
@[simp] theorem State.bump_disp (s : State) (b : Blk) (i off n : Nat) : (s.bump b i off n).disp = s.disp := rfl
@[simp] theorem State.bump_outs (s : State) (b : Blk) (i off n : Nat) : (s.bump b i off n).outs = s.outs := rfl
@[simp] theorem State.bump_traceGap (s : State) (b : Blk) (i off n : Nat) : (s.bump b i off n).traceGap = s.traceGap := rfl
@[simp] theorem State.bump_log (s : State) (b : Blk) (i off n : Nat) : (s.bump b i off n).log = s.log := rfl
@[simp] theorem State.bump_readData (s : State) (b : Blk) (i off n : Nat) : (s.bump b i off n).readData = s.readData := rfl
@[simp] theorem State.bump_pins (s : State) (b : Blk) (i off n : Nat) : (s.bump b i off n).pins = s.pins := rfl
@[simp] theorem State.bump_bw (s : State) (b : Blk) (i off n : Nat) : (s.bump b i off n).bw = s.bw := rfl
@[simp] theorem State.bump_pwr (s : State) (b : Blk) (i off n : Nat) : (s.bump b i off n).pwr = s.pwr := rfl
@[simp] theorem State.bump_boot (s : State) (b : Blk) (i off n : Nat) : (s.bump b i off n).boot = s.boot := rfl
@[simp] theorem State.bump_welt (s : State) (b : Blk) (i off n : Nat) : (s.bump b i off n).welt = s.welt := rfl
@[simp] theorem State.bump_refresh (s : State) (b : Blk) (i off n : Nat) : (s.bump b i off n).refresh = s.refresh := rfl
@[simp] theorem State.bump_cairn (s : State) (b : Blk) (i off n : Nat) : (s.bump b i off n).cairn = s.cairn := rfl
@[simp] theorem State.bump_ctrs (s : State) (b : Blk) (i off n : Nat) : (s.bump b i off n).ctrs = s.ctrs := rfl
@[simp] theorem State.bump_snaps (s : State) (b : Blk) (i off n : Nat) : (s.bump b i off n).snaps = s.snaps := rfl
@[simp] theorem State.bump_dbg (s : State) (b : Blk) (i off n : Nat) : (s.bump b i off n).dbg = s.dbg := rfl
@[simp] theorem State.bump_lastFw (s : State) (b : Blk) (i off n : Nat) : (s.bump b i off n).lastFw = s.lastFw := rfl
@[simp] theorem State.bump_traceFill (s : State) (b : Blk) (i off n : Nat) : (s.bump b i off n).traceFill = s.traceFill := rfl
@[simp] theorem State.bump_traceAt (s : State) (b : Blk) (i off n : Nat) : (s.bump b i off n).traceAt = s.traceAt := rfl
@[simp] theorem State.bump_sleeping (s : State) (b : Blk) (i off n : Nat) : (s.bump b i off n).sleeping = s.sleeping := rfl
@[simp] theorem State.bump_issue (s : State) (b : Blk) (i off n : Nat) : (s.bump b i off n).issue = s.issue := rfl
@[simp] theorem State.bump_timeFrac (s : State) (b : Blk) (i off n : Nat) : (s.bump b i off n).timeFrac = s.timeFrac := rfl

/-! `bumpMax` -/

@[simp] theorem State.bumpMax_pending (s : State) (b : Blk) (i off v top : Nat) : (s.bumpMax b i off v top).pending = s.pending := rfl
@[simp] theorem State.bumpMax_part (s : State) (b : Blk) (i off v top : Nat) : (s.bumpMax b i off v top).part = s.part := rfl
@[simp] theorem State.bumpMax_now (s : State) (b : Blk) (i off v top : Nat) : (s.bumpMax b i off v top).now = s.now := rfl
@[simp] theorem State.bumpMax_freeCount (s : State) (b : Blk) (i off v top : Nat) : (s.bumpMax b i off v top).freeCount = s.freeCount := rfl
@[simp] theorem State.bumpMax_devState (s : State) (b : Blk) (i off v top : Nat) : (s.bumpMax b i off v top).devState = s.devState := rfl
@[simp] theorem State.bumpMax_holdCauses (s : State) (b : Blk) (i off v top : Nat) : (s.bumpMax b i off v top).holdCauses = s.holdCauses := rfl
@[simp] theorem State.bumpMax_cdLost (s : State) (b : Blk) (i off v top : Nat) : (s.bumpMax b i off v top).cdLost = s.cdLost := rfl
@[simp] theorem State.bumpMax_mdLost (s : State) (b : Blk) (i off v top : Nat) : (s.bumpMax b i off v top).mdLost = s.mdLost := rfl
@[simp] theorem State.bumpMax_cmds (s : State) (b : Blk) (i off v top : Nat) : (s.bumpMax b i off v top).cmds = s.cmds := rfl
@[simp] theorem State.bumpMax_nextUid (s : State) (b : Blk) (i off v top : Nat) : (s.bumpMax b i off v top).nextUid = s.nextUid := rfl
@[simp] theorem State.bumpMax_steps (s : State) (b : Blk) (i off v top : Nat) : (s.bumpMax b i off v top).steps = s.steps := rfl
@[simp] theorem State.bumpMax_groups (s : State) (b : Blk) (i off v top : Nat) : (s.bumpMax b i off v top).groups = s.groups := rfl
@[simp] theorem State.bumpMax_fetches (s : State) (b : Blk) (i off v top : Nat) : (s.bumpMax b i off v top).fetches = s.fetches := rfl
@[simp] theorem State.bumpMax_colls (s : State) (b : Blk) (i off v top : Nat) : (s.bumpMax b i off v top).colls = s.colls := rfl
@[simp] theorem State.bumpMax_jobs (s : State) (b : Blk) (i off v top : Nat) : (s.bumpMax b i off v top).jobs = s.jobs := rfl
@[simp] theorem State.bumpMax_engines (s : State) (b : Blk) (i off v top : Nat) : (s.bumpMax b i off v top).engines = s.engines := rfl
@[simp] theorem State.bumpMax_flags (s : State) (b : Blk) (i off v top : Nat) : (s.bumpMax b i off v top).flags = s.flags := rfl
@[simp] theorem State.bumpMax_windows (s : State) (b : Blk) (i off v top : Nat) : (s.bumpMax b i off v top).windows = s.windows := rfl
@[simp] theorem State.bumpMax_saveBase (s : State) (b : Blk) (i off v top : Nat) : (s.bumpMax b i off v top).saveBase = s.saveBase := rfl
@[simp] theorem State.bumpMax_apts (s : State) (b : Blk) (i off v top : Nat) : (s.bumpMax b i off v top).apts = s.apts := rfl
@[simp] theorem State.bumpMax_aptSlots (s : State) (b : Blk) (i off v top : Nat) : (s.bumpMax b i off v top).aptSlots = s.aptSlots := rfl
@[simp] theorem State.bumpMax_rings (s : State) (b : Blk) (i off v top : Nat) : (s.bumpMax b i off v top).rings = s.rings := rfl
@[simp] theorem State.bumpMax_waiting (s : State) (b : Blk) (i off v top : Nat) : (s.bumpMax b i off v top).waiting = s.waiting := rfl
@[simp] theorem State.bumpMax_backlog (s : State) (b : Blk) (i off v top : Nat) : (s.bumpMax b i off v top).backlog = s.backlog := rfl
@[simp] theorem State.bumpMax_link (s : State) (b : Blk) (i off v top : Nat) : (s.bumpMax b i off v top).link = s.link := rfl
@[simp] theorem State.bumpMax_msix (s : State) (b : Blk) (i off v top : Nat) : (s.bumpMax b i off v top).msix = s.msix := rfl
@[simp] theorem State.bumpMax_dma (s : State) (b : Blk) (i off v top : Nat) : (s.bumpMax b i off v top).dma = s.dma := rfl
@[simp] theorem State.bumpMax_stopped (s : State) (b : Blk) (i off v top : Nat) : (s.bumpMax b i off v top).stopped = s.stopped := rfl
@[simp] theorem State.bumpMax_resetPending (s : State) (b : Blk) (i off v top : Nat) : (s.bumpMax b i off v top).resetPending = s.resetPending := rfl
@[simp] theorem State.bumpMax_pages (s : State) (b : Blk) (i off v top : Nat) : (s.bumpMax b i off v top).pages = s.pages := rfl
@[simp] theorem State.bumpMax_latch (s : State) (b : Blk) (i off v top : Nat) : (s.bumpMax b i off v top).latch = s.latch := rfl
@[simp] theorem State.bumpMax_mem (s : State) (b : Blk) (i off v top : Nat) : (s.bumpMax b i off v top).mem = s.mem := rfl
@[simp] theorem State.bumpMax_hostMem (s : State) (b : Blk) (i off v top : Nat) : (s.bumpMax b i off v top).hostMem = s.hostMem := rfl
@[simp] theorem State.bumpMax_badWords (s : State) (b : Blk) (i off v top : Nat) : (s.bumpMax b i off v top).badWords = s.badWords := rfl
@[simp] theorem State.bumpMax_softWords (s : State) (b : Blk) (i off v top : Nat) : (s.bumpMax b i off v top).softWords = s.softWords := rfl
@[simp] theorem State.bumpMax_insole (s : State) (b : Blk) (i off v top : Nat) : (s.bumpMax b i off v top).insole = s.insole := rfl
@[simp] theorem State.bumpMax_protEff (s : State) (b : Blk) (i off v top : Nat) : (s.bumpMax b i off v top).protEff = s.protEff := rfl
@[simp] theorem State.bumpMax_me (s : State) (b : Blk) (i off v top : Nat) : (s.bumpMax b i off v top).me = s.me := rfl
@[simp] theorem State.bumpMax_ingest (s : State) (b : Blk) (i off v top : Nat) : (s.bumpMax b i off v top).ingest = s.ingest := rfl
@[simp] theorem State.bumpMax_raster (s : State) (b : Blk) (i off v top : Nat) : (s.bumpMax b i off v top).raster = s.raster := rfl
@[simp] theorem State.bumpMax_disp (s : State) (b : Blk) (i off v top : Nat) : (s.bumpMax b i off v top).disp = s.disp := rfl
@[simp] theorem State.bumpMax_outs (s : State) (b : Blk) (i off v top : Nat) : (s.bumpMax b i off v top).outs = s.outs := rfl
@[simp] theorem State.bumpMax_traceGap (s : State) (b : Blk) (i off v top : Nat) : (s.bumpMax b i off v top).traceGap = s.traceGap := rfl
@[simp] theorem State.bumpMax_log (s : State) (b : Blk) (i off v top : Nat) : (s.bumpMax b i off v top).log = s.log := rfl
@[simp] theorem State.bumpMax_readData (s : State) (b : Blk) (i off v top : Nat) : (s.bumpMax b i off v top).readData = s.readData := rfl
@[simp] theorem State.bumpMax_pins (s : State) (b : Blk) (i off v top : Nat) : (s.bumpMax b i off v top).pins = s.pins := rfl
@[simp] theorem State.bumpMax_bw (s : State) (b : Blk) (i off v top : Nat) : (s.bumpMax b i off v top).bw = s.bw := rfl
@[simp] theorem State.bumpMax_pwr (s : State) (b : Blk) (i off v top : Nat) : (s.bumpMax b i off v top).pwr = s.pwr := rfl
@[simp] theorem State.bumpMax_boot (s : State) (b : Blk) (i off v top : Nat) : (s.bumpMax b i off v top).boot = s.boot := rfl
@[simp] theorem State.bumpMax_welt (s : State) (b : Blk) (i off v top : Nat) : (s.bumpMax b i off v top).welt = s.welt := rfl
@[simp] theorem State.bumpMax_refresh (s : State) (b : Blk) (i off v top : Nat) : (s.bumpMax b i off v top).refresh = s.refresh := rfl
@[simp] theorem State.bumpMax_cairn (s : State) (b : Blk) (i off v top : Nat) : (s.bumpMax b i off v top).cairn = s.cairn := rfl
@[simp] theorem State.bumpMax_ctrs (s : State) (b : Blk) (i off v top : Nat) : (s.bumpMax b i off v top).ctrs = s.ctrs := rfl
@[simp] theorem State.bumpMax_snaps (s : State) (b : Blk) (i off v top : Nat) : (s.bumpMax b i off v top).snaps = s.snaps := rfl
@[simp] theorem State.bumpMax_dbg (s : State) (b : Blk) (i off v top : Nat) : (s.bumpMax b i off v top).dbg = s.dbg := rfl
@[simp] theorem State.bumpMax_lastFw (s : State) (b : Blk) (i off v top : Nat) : (s.bumpMax b i off v top).lastFw = s.lastFw := rfl
@[simp] theorem State.bumpMax_traceFill (s : State) (b : Blk) (i off v top : Nat) : (s.bumpMax b i off v top).traceFill = s.traceFill := rfl
@[simp] theorem State.bumpMax_traceAt (s : State) (b : Blk) (i off v top : Nat) : (s.bumpMax b i off v top).traceAt = s.traceAt := rfl
@[simp] theorem State.bumpMax_sleeping (s : State) (b : Blk) (i off v top : Nat) : (s.bumpMax b i off v top).sleeping = s.sleeping := rfl
@[simp] theorem State.bumpMax_issue (s : State) (b : Blk) (i off v top : Nat) : (s.bumpMax b i off v top).issue = s.issue := rfl
@[simp] theorem State.bumpMax_timeFrac (s : State) (b : Blk) (i off v top : Nat) : (s.bumpMax b i off v top).timeFrac = s.timeFrac := rfl

/-! `hostPut` -/

@[simp] theorem State.hostPut_pending (s : State) (a : Nat) (bs : List Byte) : (s.hostPut a bs).pending = s.pending := rfl
@[simp] theorem State.hostPut_part (s : State) (a : Nat) (bs : List Byte) : (s.hostPut a bs).part = s.part := rfl
@[simp] theorem State.hostPut_now (s : State) (a : Nat) (bs : List Byte) : (s.hostPut a bs).now = s.now := rfl
@[simp] theorem State.hostPut_freeCount (s : State) (a : Nat) (bs : List Byte) : (s.hostPut a bs).freeCount = s.freeCount := rfl
@[simp] theorem State.hostPut_devState (s : State) (a : Nat) (bs : List Byte) : (s.hostPut a bs).devState = s.devState := rfl
@[simp] theorem State.hostPut_holdCauses (s : State) (a : Nat) (bs : List Byte) : (s.hostPut a bs).holdCauses = s.holdCauses := rfl
@[simp] theorem State.hostPut_cdLost (s : State) (a : Nat) (bs : List Byte) : (s.hostPut a bs).cdLost = s.cdLost := rfl
@[simp] theorem State.hostPut_mdLost (s : State) (a : Nat) (bs : List Byte) : (s.hostPut a bs).mdLost = s.mdLost := rfl
@[simp] theorem State.hostPut_cmds (s : State) (a : Nat) (bs : List Byte) : (s.hostPut a bs).cmds = s.cmds := rfl
@[simp] theorem State.hostPut_nextUid (s : State) (a : Nat) (bs : List Byte) : (s.hostPut a bs).nextUid = s.nextUid := rfl
@[simp] theorem State.hostPut_steps (s : State) (a : Nat) (bs : List Byte) : (s.hostPut a bs).steps = s.steps := rfl
@[simp] theorem State.hostPut_groups (s : State) (a : Nat) (bs : List Byte) : (s.hostPut a bs).groups = s.groups := rfl
@[simp] theorem State.hostPut_fetches (s : State) (a : Nat) (bs : List Byte) : (s.hostPut a bs).fetches = s.fetches := rfl
@[simp] theorem State.hostPut_colls (s : State) (a : Nat) (bs : List Byte) : (s.hostPut a bs).colls = s.colls := rfl
@[simp] theorem State.hostPut_jobs (s : State) (a : Nat) (bs : List Byte) : (s.hostPut a bs).jobs = s.jobs := rfl
@[simp] theorem State.hostPut_engines (s : State) (a : Nat) (bs : List Byte) : (s.hostPut a bs).engines = s.engines := rfl
@[simp] theorem State.hostPut_flags (s : State) (a : Nat) (bs : List Byte) : (s.hostPut a bs).flags = s.flags := rfl
@[simp] theorem State.hostPut_windows (s : State) (a : Nat) (bs : List Byte) : (s.hostPut a bs).windows = s.windows := rfl
@[simp] theorem State.hostPut_saveBase (s : State) (a : Nat) (bs : List Byte) : (s.hostPut a bs).saveBase = s.saveBase := rfl
@[simp] theorem State.hostPut_apts (s : State) (a : Nat) (bs : List Byte) : (s.hostPut a bs).apts = s.apts := rfl
@[simp] theorem State.hostPut_aptSlots (s : State) (a : Nat) (bs : List Byte) : (s.hostPut a bs).aptSlots = s.aptSlots := rfl
@[simp] theorem State.hostPut_rings (s : State) (a : Nat) (bs : List Byte) : (s.hostPut a bs).rings = s.rings := rfl
@[simp] theorem State.hostPut_waiting (s : State) (a : Nat) (bs : List Byte) : (s.hostPut a bs).waiting = s.waiting := rfl
@[simp] theorem State.hostPut_backlog (s : State) (a : Nat) (bs : List Byte) : (s.hostPut a bs).backlog = s.backlog := rfl
@[simp] theorem State.hostPut_link (s : State) (a : Nat) (bs : List Byte) : (s.hostPut a bs).link = s.link := rfl
@[simp] theorem State.hostPut_msix (s : State) (a : Nat) (bs : List Byte) : (s.hostPut a bs).msix = s.msix := rfl
@[simp] theorem State.hostPut_dma (s : State) (a : Nat) (bs : List Byte) : (s.hostPut a bs).dma = s.dma := rfl
@[simp] theorem State.hostPut_stopped (s : State) (a : Nat) (bs : List Byte) : (s.hostPut a bs).stopped = s.stopped := rfl
@[simp] theorem State.hostPut_resetPending (s : State) (a : Nat) (bs : List Byte) : (s.hostPut a bs).resetPending = s.resetPending := rfl
@[simp] theorem State.hostPut_pages (s : State) (a : Nat) (bs : List Byte) : (s.hostPut a bs).pages = s.pages := rfl
@[simp] theorem State.hostPut_regs (s : State) (a : Nat) (bs : List Byte) : (s.hostPut a bs).regs = s.regs := rfl
@[simp] theorem State.hostPut_latch (s : State) (a : Nat) (bs : List Byte) : (s.hostPut a bs).latch = s.latch := rfl
@[simp] theorem State.hostPut_mem (s : State) (a : Nat) (bs : List Byte) : (s.hostPut a bs).mem = s.mem := rfl
@[simp] theorem State.hostPut_badWords (s : State) (a : Nat) (bs : List Byte) : (s.hostPut a bs).badWords = s.badWords := rfl
@[simp] theorem State.hostPut_softWords (s : State) (a : Nat) (bs : List Byte) : (s.hostPut a bs).softWords = s.softWords := rfl
@[simp] theorem State.hostPut_insole (s : State) (a : Nat) (bs : List Byte) : (s.hostPut a bs).insole = s.insole := rfl
@[simp] theorem State.hostPut_protEff (s : State) (a : Nat) (bs : List Byte) : (s.hostPut a bs).protEff = s.protEff := rfl
@[simp] theorem State.hostPut_me (s : State) (a : Nat) (bs : List Byte) : (s.hostPut a bs).me = s.me := rfl
@[simp] theorem State.hostPut_ingest (s : State) (a : Nat) (bs : List Byte) : (s.hostPut a bs).ingest = s.ingest := rfl
@[simp] theorem State.hostPut_raster (s : State) (a : Nat) (bs : List Byte) : (s.hostPut a bs).raster = s.raster := rfl
@[simp] theorem State.hostPut_disp (s : State) (a : Nat) (bs : List Byte) : (s.hostPut a bs).disp = s.disp := rfl
@[simp] theorem State.hostPut_outs (s : State) (a : Nat) (bs : List Byte) : (s.hostPut a bs).outs = s.outs := rfl
@[simp] theorem State.hostPut_traceGap (s : State) (a : Nat) (bs : List Byte) : (s.hostPut a bs).traceGap = s.traceGap := rfl
@[simp] theorem State.hostPut_log (s : State) (a : Nat) (bs : List Byte) : (s.hostPut a bs).log = s.log := rfl
@[simp] theorem State.hostPut_readData (s : State) (a : Nat) (bs : List Byte) : (s.hostPut a bs).readData = s.readData := rfl
@[simp] theorem State.hostPut_pins (s : State) (a : Nat) (bs : List Byte) : (s.hostPut a bs).pins = s.pins := rfl
@[simp] theorem State.hostPut_bw (s : State) (a : Nat) (bs : List Byte) : (s.hostPut a bs).bw = s.bw := rfl
@[simp] theorem State.hostPut_pwr (s : State) (a : Nat) (bs : List Byte) : (s.hostPut a bs).pwr = s.pwr := rfl
@[simp] theorem State.hostPut_boot (s : State) (a : Nat) (bs : List Byte) : (s.hostPut a bs).boot = s.boot := rfl
@[simp] theorem State.hostPut_welt (s : State) (a : Nat) (bs : List Byte) : (s.hostPut a bs).welt = s.welt := rfl
@[simp] theorem State.hostPut_refresh (s : State) (a : Nat) (bs : List Byte) : (s.hostPut a bs).refresh = s.refresh := rfl
@[simp] theorem State.hostPut_cairn (s : State) (a : Nat) (bs : List Byte) : (s.hostPut a bs).cairn = s.cairn := rfl
@[simp] theorem State.hostPut_ctrs (s : State) (a : Nat) (bs : List Byte) : (s.hostPut a bs).ctrs = s.ctrs := rfl
@[simp] theorem State.hostPut_snaps (s : State) (a : Nat) (bs : List Byte) : (s.hostPut a bs).snaps = s.snaps := rfl
@[simp] theorem State.hostPut_dbg (s : State) (a : Nat) (bs : List Byte) : (s.hostPut a bs).dbg = s.dbg := rfl
@[simp] theorem State.hostPut_lastFw (s : State) (a : Nat) (bs : List Byte) : (s.hostPut a bs).lastFw = s.lastFw := rfl
@[simp] theorem State.hostPut_traceFill (s : State) (a : Nat) (bs : List Byte) : (s.hostPut a bs).traceFill = s.traceFill := rfl
@[simp] theorem State.hostPut_traceAt (s : State) (a : Nat) (bs : List Byte) : (s.hostPut a bs).traceAt = s.traceAt := rfl
@[simp] theorem State.hostPut_sleeping (s : State) (a : Nat) (bs : List Byte) : (s.hostPut a bs).sleeping = s.sleeping := rfl
@[simp] theorem State.hostPut_issue (s : State) (a : Nat) (bs : List Byte) : (s.hostPut a bs).issue = s.issue := rfl
@[simp] theorem State.hostPut_timeFrac (s : State) (a : Nat) (bs : List Byte) : (s.hostPut a bs).timeFrac = s.timeFrac := rfl

/-! `devPut` -/

@[simp] theorem State.devPut_pending (s : State) (a : Nat) (bs : List Byte) : (s.devPut a bs).pending = s.pending := rfl
@[simp] theorem State.devPut_part (s : State) (a : Nat) (bs : List Byte) : (s.devPut a bs).part = s.part := rfl
@[simp] theorem State.devPut_now (s : State) (a : Nat) (bs : List Byte) : (s.devPut a bs).now = s.now := rfl
@[simp] theorem State.devPut_freeCount (s : State) (a : Nat) (bs : List Byte) : (s.devPut a bs).freeCount = s.freeCount := rfl
@[simp] theorem State.devPut_devState (s : State) (a : Nat) (bs : List Byte) : (s.devPut a bs).devState = s.devState := rfl
@[simp] theorem State.devPut_holdCauses (s : State) (a : Nat) (bs : List Byte) : (s.devPut a bs).holdCauses = s.holdCauses := rfl
@[simp] theorem State.devPut_cdLost (s : State) (a : Nat) (bs : List Byte) : (s.devPut a bs).cdLost = s.cdLost := rfl
@[simp] theorem State.devPut_mdLost (s : State) (a : Nat) (bs : List Byte) : (s.devPut a bs).mdLost = s.mdLost := rfl
@[simp] theorem State.devPut_cmds (s : State) (a : Nat) (bs : List Byte) : (s.devPut a bs).cmds = s.cmds := rfl
@[simp] theorem State.devPut_nextUid (s : State) (a : Nat) (bs : List Byte) : (s.devPut a bs).nextUid = s.nextUid := rfl
@[simp] theorem State.devPut_steps (s : State) (a : Nat) (bs : List Byte) : (s.devPut a bs).steps = s.steps := rfl
@[simp] theorem State.devPut_groups (s : State) (a : Nat) (bs : List Byte) : (s.devPut a bs).groups = s.groups := rfl
@[simp] theorem State.devPut_fetches (s : State) (a : Nat) (bs : List Byte) : (s.devPut a bs).fetches = s.fetches := rfl
@[simp] theorem State.devPut_colls (s : State) (a : Nat) (bs : List Byte) : (s.devPut a bs).colls = s.colls := rfl
@[simp] theorem State.devPut_jobs (s : State) (a : Nat) (bs : List Byte) : (s.devPut a bs).jobs = s.jobs := rfl
@[simp] theorem State.devPut_engines (s : State) (a : Nat) (bs : List Byte) : (s.devPut a bs).engines = s.engines := rfl
@[simp] theorem State.devPut_flags (s : State) (a : Nat) (bs : List Byte) : (s.devPut a bs).flags = s.flags := rfl
@[simp] theorem State.devPut_windows (s : State) (a : Nat) (bs : List Byte) : (s.devPut a bs).windows = s.windows := rfl
@[simp] theorem State.devPut_saveBase (s : State) (a : Nat) (bs : List Byte) : (s.devPut a bs).saveBase = s.saveBase := rfl
@[simp] theorem State.devPut_apts (s : State) (a : Nat) (bs : List Byte) : (s.devPut a bs).apts = s.apts := rfl
@[simp] theorem State.devPut_aptSlots (s : State) (a : Nat) (bs : List Byte) : (s.devPut a bs).aptSlots = s.aptSlots := rfl
@[simp] theorem State.devPut_rings (s : State) (a : Nat) (bs : List Byte) : (s.devPut a bs).rings = s.rings := rfl
@[simp] theorem State.devPut_waiting (s : State) (a : Nat) (bs : List Byte) : (s.devPut a bs).waiting = s.waiting := rfl
@[simp] theorem State.devPut_backlog (s : State) (a : Nat) (bs : List Byte) : (s.devPut a bs).backlog = s.backlog := rfl
@[simp] theorem State.devPut_link (s : State) (a : Nat) (bs : List Byte) : (s.devPut a bs).link = s.link := rfl
@[simp] theorem State.devPut_msix (s : State) (a : Nat) (bs : List Byte) : (s.devPut a bs).msix = s.msix := rfl
@[simp] theorem State.devPut_dma (s : State) (a : Nat) (bs : List Byte) : (s.devPut a bs).dma = s.dma := rfl
@[simp] theorem State.devPut_stopped (s : State) (a : Nat) (bs : List Byte) : (s.devPut a bs).stopped = s.stopped := rfl
@[simp] theorem State.devPut_resetPending (s : State) (a : Nat) (bs : List Byte) : (s.devPut a bs).resetPending = s.resetPending := rfl
@[simp] theorem State.devPut_pages (s : State) (a : Nat) (bs : List Byte) : (s.devPut a bs).pages = s.pages := rfl
@[simp] theorem State.devPut_regs (s : State) (a : Nat) (bs : List Byte) : (s.devPut a bs).regs = s.regs := rfl
@[simp] theorem State.devPut_latch (s : State) (a : Nat) (bs : List Byte) : (s.devPut a bs).latch = s.latch := rfl
@[simp] theorem State.devPut_hostMem (s : State) (a : Nat) (bs : List Byte) : (s.devPut a bs).hostMem = s.hostMem := rfl
@[simp] theorem State.devPut_insole (s : State) (a : Nat) (bs : List Byte) : (s.devPut a bs).insole = s.insole := rfl
@[simp] theorem State.devPut_protEff (s : State) (a : Nat) (bs : List Byte) : (s.devPut a bs).protEff = s.protEff := rfl
@[simp] theorem State.devPut_me (s : State) (a : Nat) (bs : List Byte) : (s.devPut a bs).me = s.me := rfl
@[simp] theorem State.devPut_ingest (s : State) (a : Nat) (bs : List Byte) : (s.devPut a bs).ingest = s.ingest := rfl
@[simp] theorem State.devPut_raster (s : State) (a : Nat) (bs : List Byte) : (s.devPut a bs).raster = s.raster := rfl
@[simp] theorem State.devPut_disp (s : State) (a : Nat) (bs : List Byte) : (s.devPut a bs).disp = s.disp := rfl
@[simp] theorem State.devPut_outs (s : State) (a : Nat) (bs : List Byte) : (s.devPut a bs).outs = s.outs := rfl
@[simp] theorem State.devPut_traceGap (s : State) (a : Nat) (bs : List Byte) : (s.devPut a bs).traceGap = s.traceGap := rfl
@[simp] theorem State.devPut_log (s : State) (a : Nat) (bs : List Byte) : (s.devPut a bs).log = s.log := rfl
@[simp] theorem State.devPut_readData (s : State) (a : Nat) (bs : List Byte) : (s.devPut a bs).readData = s.readData := rfl
@[simp] theorem State.devPut_pins (s : State) (a : Nat) (bs : List Byte) : (s.devPut a bs).pins = s.pins := rfl
@[simp] theorem State.devPut_bw (s : State) (a : Nat) (bs : List Byte) : (s.devPut a bs).bw = s.bw := rfl
@[simp] theorem State.devPut_pwr (s : State) (a : Nat) (bs : List Byte) : (s.devPut a bs).pwr = s.pwr := rfl
@[simp] theorem State.devPut_boot (s : State) (a : Nat) (bs : List Byte) : (s.devPut a bs).boot = s.boot := rfl
@[simp] theorem State.devPut_welt (s : State) (a : Nat) (bs : List Byte) : (s.devPut a bs).welt = s.welt := rfl
@[simp] theorem State.devPut_refresh (s : State) (a : Nat) (bs : List Byte) : (s.devPut a bs).refresh = s.refresh := rfl
@[simp] theorem State.devPut_cairn (s : State) (a : Nat) (bs : List Byte) : (s.devPut a bs).cairn = s.cairn := rfl
@[simp] theorem State.devPut_ctrs (s : State) (a : Nat) (bs : List Byte) : (s.devPut a bs).ctrs = s.ctrs := rfl
@[simp] theorem State.devPut_snaps (s : State) (a : Nat) (bs : List Byte) : (s.devPut a bs).snaps = s.snaps := rfl
@[simp] theorem State.devPut_dbg (s : State) (a : Nat) (bs : List Byte) : (s.devPut a bs).dbg = s.dbg := rfl
@[simp] theorem State.devPut_lastFw (s : State) (a : Nat) (bs : List Byte) : (s.devPut a bs).lastFw = s.lastFw := rfl
@[simp] theorem State.devPut_traceFill (s : State) (a : Nat) (bs : List Byte) : (s.devPut a bs).traceFill = s.traceFill := rfl
@[simp] theorem State.devPut_traceAt (s : State) (a : Nat) (bs : List Byte) : (s.devPut a bs).traceAt = s.traceAt := rfl
@[simp] theorem State.devPut_sleeping (s : State) (a : Nat) (bs : List Byte) : (s.devPut a bs).sleeping = s.sleeping := rfl
@[simp] theorem State.devPut_issue (s : State) (a : Nat) (bs : List Byte) : (s.devPut a bs).issue = s.issue := rfl
@[simp] theorem State.devPut_timeFrac (s : State) (a : Nat) (bs : List Byte) : (s.devPut a bs).timeFrac = s.timeFrac := rfl

/-! `devClear` -/

@[simp] theorem State.devClear_pending (s : State) (a n : Nat) : (s.devClear a n).pending = s.pending := rfl
@[simp] theorem State.devClear_part (s : State) (a n : Nat) : (s.devClear a n).part = s.part := rfl
@[simp] theorem State.devClear_now (s : State) (a n : Nat) : (s.devClear a n).now = s.now := rfl
@[simp] theorem State.devClear_freeCount (s : State) (a n : Nat) : (s.devClear a n).freeCount = s.freeCount := rfl
@[simp] theorem State.devClear_devState (s : State) (a n : Nat) : (s.devClear a n).devState = s.devState := rfl
@[simp] theorem State.devClear_holdCauses (s : State) (a n : Nat) : (s.devClear a n).holdCauses = s.holdCauses := rfl
@[simp] theorem State.devClear_cdLost (s : State) (a n : Nat) : (s.devClear a n).cdLost = s.cdLost := rfl
@[simp] theorem State.devClear_mdLost (s : State) (a n : Nat) : (s.devClear a n).mdLost = s.mdLost := rfl
@[simp] theorem State.devClear_cmds (s : State) (a n : Nat) : (s.devClear a n).cmds = s.cmds := rfl
@[simp] theorem State.devClear_nextUid (s : State) (a n : Nat) : (s.devClear a n).nextUid = s.nextUid := rfl
@[simp] theorem State.devClear_steps (s : State) (a n : Nat) : (s.devClear a n).steps = s.steps := rfl
@[simp] theorem State.devClear_groups (s : State) (a n : Nat) : (s.devClear a n).groups = s.groups := rfl
@[simp] theorem State.devClear_fetches (s : State) (a n : Nat) : (s.devClear a n).fetches = s.fetches := rfl
@[simp] theorem State.devClear_colls (s : State) (a n : Nat) : (s.devClear a n).colls = s.colls := rfl
@[simp] theorem State.devClear_jobs (s : State) (a n : Nat) : (s.devClear a n).jobs = s.jobs := rfl
@[simp] theorem State.devClear_engines (s : State) (a n : Nat) : (s.devClear a n).engines = s.engines := rfl
@[simp] theorem State.devClear_flags (s : State) (a n : Nat) : (s.devClear a n).flags = s.flags := rfl
@[simp] theorem State.devClear_windows (s : State) (a n : Nat) : (s.devClear a n).windows = s.windows := rfl
@[simp] theorem State.devClear_saveBase (s : State) (a n : Nat) : (s.devClear a n).saveBase = s.saveBase := rfl
@[simp] theorem State.devClear_apts (s : State) (a n : Nat) : (s.devClear a n).apts = s.apts := rfl
@[simp] theorem State.devClear_aptSlots (s : State) (a n : Nat) : (s.devClear a n).aptSlots = s.aptSlots := rfl
@[simp] theorem State.devClear_rings (s : State) (a n : Nat) : (s.devClear a n).rings = s.rings := rfl
@[simp] theorem State.devClear_waiting (s : State) (a n : Nat) : (s.devClear a n).waiting = s.waiting := rfl
@[simp] theorem State.devClear_backlog (s : State) (a n : Nat) : (s.devClear a n).backlog = s.backlog := rfl
@[simp] theorem State.devClear_link (s : State) (a n : Nat) : (s.devClear a n).link = s.link := rfl
@[simp] theorem State.devClear_msix (s : State) (a n : Nat) : (s.devClear a n).msix = s.msix := rfl
@[simp] theorem State.devClear_dma (s : State) (a n : Nat) : (s.devClear a n).dma = s.dma := rfl
@[simp] theorem State.devClear_stopped (s : State) (a n : Nat) : (s.devClear a n).stopped = s.stopped := rfl
@[simp] theorem State.devClear_resetPending (s : State) (a n : Nat) : (s.devClear a n).resetPending = s.resetPending := rfl
@[simp] theorem State.devClear_pages (s : State) (a n : Nat) : (s.devClear a n).pages = s.pages := rfl
@[simp] theorem State.devClear_regs (s : State) (a n : Nat) : (s.devClear a n).regs = s.regs := rfl
@[simp] theorem State.devClear_latch (s : State) (a n : Nat) : (s.devClear a n).latch = s.latch := rfl
@[simp] theorem State.devClear_hostMem (s : State) (a n : Nat) : (s.devClear a n).hostMem = s.hostMem := rfl
@[simp] theorem State.devClear_insole (s : State) (a n : Nat) : (s.devClear a n).insole = s.insole := rfl
@[simp] theorem State.devClear_protEff (s : State) (a n : Nat) : (s.devClear a n).protEff = s.protEff := rfl
@[simp] theorem State.devClear_me (s : State) (a n : Nat) : (s.devClear a n).me = s.me := rfl
@[simp] theorem State.devClear_ingest (s : State) (a n : Nat) : (s.devClear a n).ingest = s.ingest := rfl
@[simp] theorem State.devClear_raster (s : State) (a n : Nat) : (s.devClear a n).raster = s.raster := rfl
@[simp] theorem State.devClear_disp (s : State) (a n : Nat) : (s.devClear a n).disp = s.disp := rfl
@[simp] theorem State.devClear_outs (s : State) (a n : Nat) : (s.devClear a n).outs = s.outs := rfl
@[simp] theorem State.devClear_traceGap (s : State) (a n : Nat) : (s.devClear a n).traceGap = s.traceGap := rfl
@[simp] theorem State.devClear_log (s : State) (a n : Nat) : (s.devClear a n).log = s.log := rfl
@[simp] theorem State.devClear_readData (s : State) (a n : Nat) : (s.devClear a n).readData = s.readData := rfl
@[simp] theorem State.devClear_pins (s : State) (a n : Nat) : (s.devClear a n).pins = s.pins := rfl
@[simp] theorem State.devClear_bw (s : State) (a n : Nat) : (s.devClear a n).bw = s.bw := rfl
@[simp] theorem State.devClear_pwr (s : State) (a n : Nat) : (s.devClear a n).pwr = s.pwr := rfl
@[simp] theorem State.devClear_boot (s : State) (a n : Nat) : (s.devClear a n).boot = s.boot := rfl
@[simp] theorem State.devClear_welt (s : State) (a n : Nat) : (s.devClear a n).welt = s.welt := rfl
@[simp] theorem State.devClear_refresh (s : State) (a n : Nat) : (s.devClear a n).refresh = s.refresh := rfl
@[simp] theorem State.devClear_cairn (s : State) (a n : Nat) : (s.devClear a n).cairn = s.cairn := rfl
@[simp] theorem State.devClear_ctrs (s : State) (a n : Nat) : (s.devClear a n).ctrs = s.ctrs := rfl
@[simp] theorem State.devClear_snaps (s : State) (a n : Nat) : (s.devClear a n).snaps = s.snaps := rfl
@[simp] theorem State.devClear_dbg (s : State) (a n : Nat) : (s.devClear a n).dbg = s.dbg := rfl
@[simp] theorem State.devClear_lastFw (s : State) (a n : Nat) : (s.devClear a n).lastFw = s.lastFw := rfl
@[simp] theorem State.devClear_traceFill (s : State) (a n : Nat) : (s.devClear a n).traceFill = s.traceFill := rfl
@[simp] theorem State.devClear_traceAt (s : State) (a n : Nat) : (s.devClear a n).traceAt = s.traceAt := rfl
@[simp] theorem State.devClear_sleeping (s : State) (a n : Nat) : (s.devClear a n).sleeping = s.sleeping := rfl
@[simp] theorem State.devClear_issue (s : State) (a n : Nat) : (s.devClear a n).issue = s.issue := rfl
@[simp] theorem State.devClear_timeFrac (s : State) (a n : Nat) : (s.devClear a n).timeFrac = s.timeFrac := rfl

/-! `putJob` -/

@[simp] theorem State.putJob_pending (s : State) (j : Nat) (x : Job) : (s.putJob j x).pending = s.pending := rfl
@[simp] theorem State.putJob_part (s : State) (j : Nat) (x : Job) : (s.putJob j x).part = s.part := rfl
@[simp] theorem State.putJob_now (s : State) (j : Nat) (x : Job) : (s.putJob j x).now = s.now := rfl
@[simp] theorem State.putJob_freeCount (s : State) (j : Nat) (x : Job) : (s.putJob j x).freeCount = s.freeCount := rfl
@[simp] theorem State.putJob_devState (s : State) (j : Nat) (x : Job) : (s.putJob j x).devState = s.devState := rfl
@[simp] theorem State.putJob_holdCauses (s : State) (j : Nat) (x : Job) : (s.putJob j x).holdCauses = s.holdCauses := rfl
@[simp] theorem State.putJob_cdLost (s : State) (j : Nat) (x : Job) : (s.putJob j x).cdLost = s.cdLost := rfl
@[simp] theorem State.putJob_mdLost (s : State) (j : Nat) (x : Job) : (s.putJob j x).mdLost = s.mdLost := rfl
@[simp] theorem State.putJob_cmds (s : State) (j : Nat) (x : Job) : (s.putJob j x).cmds = s.cmds := rfl
@[simp] theorem State.putJob_nextUid (s : State) (j : Nat) (x : Job) : (s.putJob j x).nextUid = s.nextUid := rfl
@[simp] theorem State.putJob_steps (s : State) (j : Nat) (x : Job) : (s.putJob j x).steps = s.steps := rfl
@[simp] theorem State.putJob_groups (s : State) (j : Nat) (x : Job) : (s.putJob j x).groups = s.groups := rfl
@[simp] theorem State.putJob_fetches (s : State) (j : Nat) (x : Job) : (s.putJob j x).fetches = s.fetches := rfl
@[simp] theorem State.putJob_colls (s : State) (j : Nat) (x : Job) : (s.putJob j x).colls = s.colls := rfl
@[simp] theorem State.putJob_engines (s : State) (j : Nat) (x : Job) : (s.putJob j x).engines = s.engines := rfl
@[simp] theorem State.putJob_flags (s : State) (j : Nat) (x : Job) : (s.putJob j x).flags = s.flags := rfl
@[simp] theorem State.putJob_windows (s : State) (j : Nat) (x : Job) : (s.putJob j x).windows = s.windows := rfl
@[simp] theorem State.putJob_saveBase (s : State) (j : Nat) (x : Job) : (s.putJob j x).saveBase = s.saveBase := rfl
@[simp] theorem State.putJob_apts (s : State) (j : Nat) (x : Job) : (s.putJob j x).apts = s.apts := rfl
@[simp] theorem State.putJob_aptSlots (s : State) (j : Nat) (x : Job) : (s.putJob j x).aptSlots = s.aptSlots := rfl
@[simp] theorem State.putJob_rings (s : State) (j : Nat) (x : Job) : (s.putJob j x).rings = s.rings := rfl
@[simp] theorem State.putJob_waiting (s : State) (j : Nat) (x : Job) : (s.putJob j x).waiting = s.waiting := rfl
@[simp] theorem State.putJob_backlog (s : State) (j : Nat) (x : Job) : (s.putJob j x).backlog = s.backlog := rfl
@[simp] theorem State.putJob_link (s : State) (j : Nat) (x : Job) : (s.putJob j x).link = s.link := rfl
@[simp] theorem State.putJob_msix (s : State) (j : Nat) (x : Job) : (s.putJob j x).msix = s.msix := rfl
@[simp] theorem State.putJob_dma (s : State) (j : Nat) (x : Job) : (s.putJob j x).dma = s.dma := rfl
@[simp] theorem State.putJob_stopped (s : State) (j : Nat) (x : Job) : (s.putJob j x).stopped = s.stopped := rfl
@[simp] theorem State.putJob_resetPending (s : State) (j : Nat) (x : Job) : (s.putJob j x).resetPending = s.resetPending := rfl
@[simp] theorem State.putJob_pages (s : State) (j : Nat) (x : Job) : (s.putJob j x).pages = s.pages := rfl
@[simp] theorem State.putJob_regs (s : State) (j : Nat) (x : Job) : (s.putJob j x).regs = s.regs := rfl
@[simp] theorem State.putJob_latch (s : State) (j : Nat) (x : Job) : (s.putJob j x).latch = s.latch := rfl
@[simp] theorem State.putJob_mem (s : State) (j : Nat) (x : Job) : (s.putJob j x).mem = s.mem := rfl
@[simp] theorem State.putJob_hostMem (s : State) (j : Nat) (x : Job) : (s.putJob j x).hostMem = s.hostMem := rfl
@[simp] theorem State.putJob_badWords (s : State) (j : Nat) (x : Job) : (s.putJob j x).badWords = s.badWords := rfl
@[simp] theorem State.putJob_softWords (s : State) (j : Nat) (x : Job) : (s.putJob j x).softWords = s.softWords := rfl
@[simp] theorem State.putJob_insole (s : State) (j : Nat) (x : Job) : (s.putJob j x).insole = s.insole := rfl
@[simp] theorem State.putJob_protEff (s : State) (j : Nat) (x : Job) : (s.putJob j x).protEff = s.protEff := rfl
@[simp] theorem State.putJob_me (s : State) (j : Nat) (x : Job) : (s.putJob j x).me = s.me := rfl
@[simp] theorem State.putJob_ingest (s : State) (j : Nat) (x : Job) : (s.putJob j x).ingest = s.ingest := rfl
@[simp] theorem State.putJob_raster (s : State) (j : Nat) (x : Job) : (s.putJob j x).raster = s.raster := rfl
@[simp] theorem State.putJob_disp (s : State) (j : Nat) (x : Job) : (s.putJob j x).disp = s.disp := rfl
@[simp] theorem State.putJob_outs (s : State) (j : Nat) (x : Job) : (s.putJob j x).outs = s.outs := rfl
@[simp] theorem State.putJob_traceGap (s : State) (j : Nat) (x : Job) : (s.putJob j x).traceGap = s.traceGap := rfl
@[simp] theorem State.putJob_log (s : State) (j : Nat) (x : Job) : (s.putJob j x).log = s.log := rfl
@[simp] theorem State.putJob_readData (s : State) (j : Nat) (x : Job) : (s.putJob j x).readData = s.readData := rfl
@[simp] theorem State.putJob_pins (s : State) (j : Nat) (x : Job) : (s.putJob j x).pins = s.pins := rfl
@[simp] theorem State.putJob_bw (s : State) (j : Nat) (x : Job) : (s.putJob j x).bw = s.bw := rfl
@[simp] theorem State.putJob_pwr (s : State) (j : Nat) (x : Job) : (s.putJob j x).pwr = s.pwr := rfl
@[simp] theorem State.putJob_boot (s : State) (j : Nat) (x : Job) : (s.putJob j x).boot = s.boot := rfl
@[simp] theorem State.putJob_welt (s : State) (j : Nat) (x : Job) : (s.putJob j x).welt = s.welt := rfl
@[simp] theorem State.putJob_refresh (s : State) (j : Nat) (x : Job) : (s.putJob j x).refresh = s.refresh := rfl
@[simp] theorem State.putJob_cairn (s : State) (j : Nat) (x : Job) : (s.putJob j x).cairn = s.cairn := rfl
@[simp] theorem State.putJob_ctrs (s : State) (j : Nat) (x : Job) : (s.putJob j x).ctrs = s.ctrs := rfl
@[simp] theorem State.putJob_snaps (s : State) (j : Nat) (x : Job) : (s.putJob j x).snaps = s.snaps := rfl
@[simp] theorem State.putJob_dbg (s : State) (j : Nat) (x : Job) : (s.putJob j x).dbg = s.dbg := rfl
@[simp] theorem State.putJob_lastFw (s : State) (j : Nat) (x : Job) : (s.putJob j x).lastFw = s.lastFw := rfl
@[simp] theorem State.putJob_traceFill (s : State) (j : Nat) (x : Job) : (s.putJob j x).traceFill = s.traceFill := rfl
@[simp] theorem State.putJob_traceAt (s : State) (j : Nat) (x : Job) : (s.putJob j x).traceAt = s.traceAt := rfl
@[simp] theorem State.putJob_sleeping (s : State) (j : Nat) (x : Job) : (s.putJob j x).sleeping = s.sleeping := rfl
@[simp] theorem State.putJob_issue (s : State) (j : Nat) (x : Job) : (s.putJob j x).issue = s.issue := rfl
@[simp] theorem State.putJob_timeFrac (s : State) (j : Nat) (x : Job) : (s.putJob j x).timeFrac = s.timeFrac := rfl

/-! `putEngine` -/

@[simp] theorem State.putEngine_pending (s : State) (g : Nat) (e : Engine) : (s.putEngine g e).pending = s.pending := rfl
@[simp] theorem State.putEngine_part (s : State) (g : Nat) (e : Engine) : (s.putEngine g e).part = s.part := rfl
@[simp] theorem State.putEngine_now (s : State) (g : Nat) (e : Engine) : (s.putEngine g e).now = s.now := rfl
@[simp] theorem State.putEngine_freeCount (s : State) (g : Nat) (e : Engine) : (s.putEngine g e).freeCount = s.freeCount := rfl
@[simp] theorem State.putEngine_devState (s : State) (g : Nat) (e : Engine) : (s.putEngine g e).devState = s.devState := rfl
@[simp] theorem State.putEngine_holdCauses (s : State) (g : Nat) (e : Engine) : (s.putEngine g e).holdCauses = s.holdCauses := rfl
@[simp] theorem State.putEngine_cdLost (s : State) (g : Nat) (e : Engine) : (s.putEngine g e).cdLost = s.cdLost := rfl
@[simp] theorem State.putEngine_mdLost (s : State) (g : Nat) (e : Engine) : (s.putEngine g e).mdLost = s.mdLost := rfl
@[simp] theorem State.putEngine_cmds (s : State) (g : Nat) (e : Engine) : (s.putEngine g e).cmds = s.cmds := rfl
@[simp] theorem State.putEngine_nextUid (s : State) (g : Nat) (e : Engine) : (s.putEngine g e).nextUid = s.nextUid := rfl
@[simp] theorem State.putEngine_steps (s : State) (g : Nat) (e : Engine) : (s.putEngine g e).steps = s.steps := rfl
@[simp] theorem State.putEngine_groups (s : State) (g : Nat) (e : Engine) : (s.putEngine g e).groups = s.groups := rfl
@[simp] theorem State.putEngine_fetches (s : State) (g : Nat) (e : Engine) : (s.putEngine g e).fetches = s.fetches := rfl
@[simp] theorem State.putEngine_colls (s : State) (g : Nat) (e : Engine) : (s.putEngine g e).colls = s.colls := rfl
@[simp] theorem State.putEngine_jobs (s : State) (g : Nat) (e : Engine) : (s.putEngine g e).jobs = s.jobs := rfl
@[simp] theorem State.putEngine_flags (s : State) (g : Nat) (e : Engine) : (s.putEngine g e).flags = s.flags := rfl
@[simp] theorem State.putEngine_windows (s : State) (g : Nat) (e : Engine) : (s.putEngine g e).windows = s.windows := rfl
@[simp] theorem State.putEngine_saveBase (s : State) (g : Nat) (e : Engine) : (s.putEngine g e).saveBase = s.saveBase := rfl
@[simp] theorem State.putEngine_apts (s : State) (g : Nat) (e : Engine) : (s.putEngine g e).apts = s.apts := rfl
@[simp] theorem State.putEngine_aptSlots (s : State) (g : Nat) (e : Engine) : (s.putEngine g e).aptSlots = s.aptSlots := rfl
@[simp] theorem State.putEngine_rings (s : State) (g : Nat) (e : Engine) : (s.putEngine g e).rings = s.rings := rfl
@[simp] theorem State.putEngine_waiting (s : State) (g : Nat) (e : Engine) : (s.putEngine g e).waiting = s.waiting := rfl
@[simp] theorem State.putEngine_backlog (s : State) (g : Nat) (e : Engine) : (s.putEngine g e).backlog = s.backlog := rfl
@[simp] theorem State.putEngine_link (s : State) (g : Nat) (e : Engine) : (s.putEngine g e).link = s.link := rfl
@[simp] theorem State.putEngine_msix (s : State) (g : Nat) (e : Engine) : (s.putEngine g e).msix = s.msix := rfl
@[simp] theorem State.putEngine_dma (s : State) (g : Nat) (e : Engine) : (s.putEngine g e).dma = s.dma := rfl
@[simp] theorem State.putEngine_stopped (s : State) (g : Nat) (e : Engine) : (s.putEngine g e).stopped = s.stopped := rfl
@[simp] theorem State.putEngine_resetPending (s : State) (g : Nat) (e : Engine) : (s.putEngine g e).resetPending = s.resetPending := rfl
@[simp] theorem State.putEngine_pages (s : State) (g : Nat) (e : Engine) : (s.putEngine g e).pages = s.pages := rfl
@[simp] theorem State.putEngine_regs (s : State) (g : Nat) (e : Engine) : (s.putEngine g e).regs = s.regs := rfl
@[simp] theorem State.putEngine_latch (s : State) (g : Nat) (e : Engine) : (s.putEngine g e).latch = s.latch := rfl
@[simp] theorem State.putEngine_mem (s : State) (g : Nat) (e : Engine) : (s.putEngine g e).mem = s.mem := rfl
@[simp] theorem State.putEngine_hostMem (s : State) (g : Nat) (e : Engine) : (s.putEngine g e).hostMem = s.hostMem := rfl
@[simp] theorem State.putEngine_badWords (s : State) (g : Nat) (e : Engine) : (s.putEngine g e).badWords = s.badWords := rfl
@[simp] theorem State.putEngine_softWords (s : State) (g : Nat) (e : Engine) : (s.putEngine g e).softWords = s.softWords := rfl
@[simp] theorem State.putEngine_insole (s : State) (g : Nat) (e : Engine) : (s.putEngine g e).insole = s.insole := rfl
@[simp] theorem State.putEngine_protEff (s : State) (g : Nat) (e : Engine) : (s.putEngine g e).protEff = s.protEff := rfl
@[simp] theorem State.putEngine_me (s : State) (g : Nat) (e : Engine) : (s.putEngine g e).me = s.me := rfl
@[simp] theorem State.putEngine_ingest (s : State) (g : Nat) (e : Engine) : (s.putEngine g e).ingest = s.ingest := rfl
@[simp] theorem State.putEngine_raster (s : State) (g : Nat) (e : Engine) : (s.putEngine g e).raster = s.raster := rfl
@[simp] theorem State.putEngine_disp (s : State) (g : Nat) (e : Engine) : (s.putEngine g e).disp = s.disp := rfl
@[simp] theorem State.putEngine_outs (s : State) (g : Nat) (e : Engine) : (s.putEngine g e).outs = s.outs := rfl
@[simp] theorem State.putEngine_traceGap (s : State) (g : Nat) (e : Engine) : (s.putEngine g e).traceGap = s.traceGap := rfl
@[simp] theorem State.putEngine_log (s : State) (g : Nat) (e : Engine) : (s.putEngine g e).log = s.log := rfl
@[simp] theorem State.putEngine_readData (s : State) (g : Nat) (e : Engine) : (s.putEngine g e).readData = s.readData := rfl
@[simp] theorem State.putEngine_pins (s : State) (g : Nat) (e : Engine) : (s.putEngine g e).pins = s.pins := rfl
@[simp] theorem State.putEngine_bw (s : State) (g : Nat) (e : Engine) : (s.putEngine g e).bw = s.bw := rfl
@[simp] theorem State.putEngine_pwr (s : State) (g : Nat) (e : Engine) : (s.putEngine g e).pwr = s.pwr := rfl
@[simp] theorem State.putEngine_boot (s : State) (g : Nat) (e : Engine) : (s.putEngine g e).boot = s.boot := rfl
@[simp] theorem State.putEngine_welt (s : State) (g : Nat) (e : Engine) : (s.putEngine g e).welt = s.welt := rfl
@[simp] theorem State.putEngine_refresh (s : State) (g : Nat) (e : Engine) : (s.putEngine g e).refresh = s.refresh := rfl
@[simp] theorem State.putEngine_cairn (s : State) (g : Nat) (e : Engine) : (s.putEngine g e).cairn = s.cairn := rfl
@[simp] theorem State.putEngine_ctrs (s : State) (g : Nat) (e : Engine) : (s.putEngine g e).ctrs = s.ctrs := rfl
@[simp] theorem State.putEngine_snaps (s : State) (g : Nat) (e : Engine) : (s.putEngine g e).snaps = s.snaps := rfl
@[simp] theorem State.putEngine_dbg (s : State) (g : Nat) (e : Engine) : (s.putEngine g e).dbg = s.dbg := rfl
@[simp] theorem State.putEngine_lastFw (s : State) (g : Nat) (e : Engine) : (s.putEngine g e).lastFw = s.lastFw := rfl
@[simp] theorem State.putEngine_traceFill (s : State) (g : Nat) (e : Engine) : (s.putEngine g e).traceFill = s.traceFill := rfl
@[simp] theorem State.putEngine_traceAt (s : State) (g : Nat) (e : Engine) : (s.putEngine g e).traceAt = s.traceAt := rfl
@[simp] theorem State.putEngine_sleeping (s : State) (g : Nat) (e : Engine) : (s.putEngine g e).sleeping = s.sleeping := rfl
@[simp] theorem State.putEngine_issue (s : State) (g : Nat) (e : Engine) : (s.putEngine g e).issue = s.issue := rfl
@[simp] theorem State.putEngine_timeFrac (s : State) (g : Nat) (e : Engine) : (s.putEngine g e).timeFrac = s.timeFrac := rfl

/-! `putModule` -/

@[simp] theorem State.putModule_pending (s : State) (m : Nat) (x : WeltModule) : (s.putModule m x).pending = s.pending := rfl
@[simp] theorem State.putModule_part (s : State) (m : Nat) (x : WeltModule) : (s.putModule m x).part = s.part := rfl
@[simp] theorem State.putModule_now (s : State) (m : Nat) (x : WeltModule) : (s.putModule m x).now = s.now := rfl
@[simp] theorem State.putModule_freeCount (s : State) (m : Nat) (x : WeltModule) : (s.putModule m x).freeCount = s.freeCount := rfl
@[simp] theorem State.putModule_devState (s : State) (m : Nat) (x : WeltModule) : (s.putModule m x).devState = s.devState := rfl
@[simp] theorem State.putModule_holdCauses (s : State) (m : Nat) (x : WeltModule) : (s.putModule m x).holdCauses = s.holdCauses := rfl
@[simp] theorem State.putModule_cdLost (s : State) (m : Nat) (x : WeltModule) : (s.putModule m x).cdLost = s.cdLost := rfl
@[simp] theorem State.putModule_mdLost (s : State) (m : Nat) (x : WeltModule) : (s.putModule m x).mdLost = s.mdLost := rfl
@[simp] theorem State.putModule_cmds (s : State) (m : Nat) (x : WeltModule) : (s.putModule m x).cmds = s.cmds := rfl
@[simp] theorem State.putModule_nextUid (s : State) (m : Nat) (x : WeltModule) : (s.putModule m x).nextUid = s.nextUid := rfl
@[simp] theorem State.putModule_steps (s : State) (m : Nat) (x : WeltModule) : (s.putModule m x).steps = s.steps := rfl
@[simp] theorem State.putModule_groups (s : State) (m : Nat) (x : WeltModule) : (s.putModule m x).groups = s.groups := rfl
@[simp] theorem State.putModule_fetches (s : State) (m : Nat) (x : WeltModule) : (s.putModule m x).fetches = s.fetches := rfl
@[simp] theorem State.putModule_colls (s : State) (m : Nat) (x : WeltModule) : (s.putModule m x).colls = s.colls := rfl
@[simp] theorem State.putModule_jobs (s : State) (m : Nat) (x : WeltModule) : (s.putModule m x).jobs = s.jobs := rfl
@[simp] theorem State.putModule_engines (s : State) (m : Nat) (x : WeltModule) : (s.putModule m x).engines = s.engines := rfl
@[simp] theorem State.putModule_flags (s : State) (m : Nat) (x : WeltModule) : (s.putModule m x).flags = s.flags := rfl
@[simp] theorem State.putModule_windows (s : State) (m : Nat) (x : WeltModule) : (s.putModule m x).windows = s.windows := rfl
@[simp] theorem State.putModule_saveBase (s : State) (m : Nat) (x : WeltModule) : (s.putModule m x).saveBase = s.saveBase := rfl
@[simp] theorem State.putModule_apts (s : State) (m : Nat) (x : WeltModule) : (s.putModule m x).apts = s.apts := rfl
@[simp] theorem State.putModule_aptSlots (s : State) (m : Nat) (x : WeltModule) : (s.putModule m x).aptSlots = s.aptSlots := rfl
@[simp] theorem State.putModule_rings (s : State) (m : Nat) (x : WeltModule) : (s.putModule m x).rings = s.rings := rfl
@[simp] theorem State.putModule_waiting (s : State) (m : Nat) (x : WeltModule) : (s.putModule m x).waiting = s.waiting := rfl
@[simp] theorem State.putModule_backlog (s : State) (m : Nat) (x : WeltModule) : (s.putModule m x).backlog = s.backlog := rfl
@[simp] theorem State.putModule_link (s : State) (m : Nat) (x : WeltModule) : (s.putModule m x).link = s.link := rfl
@[simp] theorem State.putModule_msix (s : State) (m : Nat) (x : WeltModule) : (s.putModule m x).msix = s.msix := rfl
@[simp] theorem State.putModule_dma (s : State) (m : Nat) (x : WeltModule) : (s.putModule m x).dma = s.dma := rfl
@[simp] theorem State.putModule_stopped (s : State) (m : Nat) (x : WeltModule) : (s.putModule m x).stopped = s.stopped := rfl
@[simp] theorem State.putModule_resetPending (s : State) (m : Nat) (x : WeltModule) : (s.putModule m x).resetPending = s.resetPending := rfl
@[simp] theorem State.putModule_pages (s : State) (m : Nat) (x : WeltModule) : (s.putModule m x).pages = s.pages := rfl
@[simp] theorem State.putModule_regs (s : State) (m : Nat) (x : WeltModule) : (s.putModule m x).regs = s.regs := rfl
@[simp] theorem State.putModule_latch (s : State) (m : Nat) (x : WeltModule) : (s.putModule m x).latch = s.latch := rfl
@[simp] theorem State.putModule_mem (s : State) (m : Nat) (x : WeltModule) : (s.putModule m x).mem = s.mem := rfl
@[simp] theorem State.putModule_hostMem (s : State) (m : Nat) (x : WeltModule) : (s.putModule m x).hostMem = s.hostMem := rfl
@[simp] theorem State.putModule_badWords (s : State) (m : Nat) (x : WeltModule) : (s.putModule m x).badWords = s.badWords := rfl
@[simp] theorem State.putModule_softWords (s : State) (m : Nat) (x : WeltModule) : (s.putModule m x).softWords = s.softWords := rfl
@[simp] theorem State.putModule_insole (s : State) (m : Nat) (x : WeltModule) : (s.putModule m x).insole = s.insole := rfl
@[simp] theorem State.putModule_protEff (s : State) (m : Nat) (x : WeltModule) : (s.putModule m x).protEff = s.protEff := rfl
@[simp] theorem State.putModule_me (s : State) (m : Nat) (x : WeltModule) : (s.putModule m x).me = s.me := rfl
@[simp] theorem State.putModule_ingest (s : State) (m : Nat) (x : WeltModule) : (s.putModule m x).ingest = s.ingest := rfl
@[simp] theorem State.putModule_raster (s : State) (m : Nat) (x : WeltModule) : (s.putModule m x).raster = s.raster := rfl
@[simp] theorem State.putModule_disp (s : State) (m : Nat) (x : WeltModule) : (s.putModule m x).disp = s.disp := rfl
@[simp] theorem State.putModule_outs (s : State) (m : Nat) (x : WeltModule) : (s.putModule m x).outs = s.outs := rfl
@[simp] theorem State.putModule_traceGap (s : State) (m : Nat) (x : WeltModule) : (s.putModule m x).traceGap = s.traceGap := rfl
@[simp] theorem State.putModule_log (s : State) (m : Nat) (x : WeltModule) : (s.putModule m x).log = s.log := rfl
@[simp] theorem State.putModule_readData (s : State) (m : Nat) (x : WeltModule) : (s.putModule m x).readData = s.readData := rfl
@[simp] theorem State.putModule_pins (s : State) (m : Nat) (x : WeltModule) : (s.putModule m x).pins = s.pins := rfl
@[simp] theorem State.putModule_bw (s : State) (m : Nat) (x : WeltModule) : (s.putModule m x).bw = s.bw := rfl
@[simp] theorem State.putModule_pwr (s : State) (m : Nat) (x : WeltModule) : (s.putModule m x).pwr = s.pwr := rfl
@[simp] theorem State.putModule_boot (s : State) (m : Nat) (x : WeltModule) : (s.putModule m x).boot = s.boot := rfl
@[simp] theorem State.putModule_refresh (s : State) (m : Nat) (x : WeltModule) : (s.putModule m x).refresh = s.refresh := rfl
@[simp] theorem State.putModule_cairn (s : State) (m : Nat) (x : WeltModule) : (s.putModule m x).cairn = s.cairn := rfl
@[simp] theorem State.putModule_ctrs (s : State) (m : Nat) (x : WeltModule) : (s.putModule m x).ctrs = s.ctrs := rfl
@[simp] theorem State.putModule_snaps (s : State) (m : Nat) (x : WeltModule) : (s.putModule m x).snaps = s.snaps := rfl
@[simp] theorem State.putModule_dbg (s : State) (m : Nat) (x : WeltModule) : (s.putModule m x).dbg = s.dbg := rfl
@[simp] theorem State.putModule_lastFw (s : State) (m : Nat) (x : WeltModule) : (s.putModule m x).lastFw = s.lastFw := rfl
@[simp] theorem State.putModule_traceFill (s : State) (m : Nat) (x : WeltModule) : (s.putModule m x).traceFill = s.traceFill := rfl
@[simp] theorem State.putModule_traceAt (s : State) (m : Nat) (x : WeltModule) : (s.putModule m x).traceAt = s.traceAt := rfl
@[simp] theorem State.putModule_sleeping (s : State) (m : Nat) (x : WeltModule) : (s.putModule m x).sleeping = s.sleeping := rfl
@[simp] theorem State.putModule_issue (s : State) (m : Nat) (x : WeltModule) : (s.putModule m x).issue = s.issue := rfl
@[simp] theorem State.putModule_timeFrac (s : State) (m : Nat) (x : WeltModule) : (s.putModule m x).timeFrac = s.timeFrac := rfl

/-! `putCtr` -/

@[simp] theorem State.putCtr_pending (s : State) (key : Nat) (c : Ctr) : (s.putCtr key c).pending = s.pending := rfl
@[simp] theorem State.putCtr_part (s : State) (key : Nat) (c : Ctr) : (s.putCtr key c).part = s.part := rfl
@[simp] theorem State.putCtr_now (s : State) (key : Nat) (c : Ctr) : (s.putCtr key c).now = s.now := rfl
@[simp] theorem State.putCtr_freeCount (s : State) (key : Nat) (c : Ctr) : (s.putCtr key c).freeCount = s.freeCount := rfl
@[simp] theorem State.putCtr_devState (s : State) (key : Nat) (c : Ctr) : (s.putCtr key c).devState = s.devState := rfl
@[simp] theorem State.putCtr_holdCauses (s : State) (key : Nat) (c : Ctr) : (s.putCtr key c).holdCauses = s.holdCauses := rfl
@[simp] theorem State.putCtr_cdLost (s : State) (key : Nat) (c : Ctr) : (s.putCtr key c).cdLost = s.cdLost := rfl
@[simp] theorem State.putCtr_mdLost (s : State) (key : Nat) (c : Ctr) : (s.putCtr key c).mdLost = s.mdLost := rfl
@[simp] theorem State.putCtr_cmds (s : State) (key : Nat) (c : Ctr) : (s.putCtr key c).cmds = s.cmds := rfl
@[simp] theorem State.putCtr_nextUid (s : State) (key : Nat) (c : Ctr) : (s.putCtr key c).nextUid = s.nextUid := rfl
@[simp] theorem State.putCtr_steps (s : State) (key : Nat) (c : Ctr) : (s.putCtr key c).steps = s.steps := rfl
@[simp] theorem State.putCtr_groups (s : State) (key : Nat) (c : Ctr) : (s.putCtr key c).groups = s.groups := rfl
@[simp] theorem State.putCtr_fetches (s : State) (key : Nat) (c : Ctr) : (s.putCtr key c).fetches = s.fetches := rfl
@[simp] theorem State.putCtr_colls (s : State) (key : Nat) (c : Ctr) : (s.putCtr key c).colls = s.colls := rfl
@[simp] theorem State.putCtr_jobs (s : State) (key : Nat) (c : Ctr) : (s.putCtr key c).jobs = s.jobs := rfl
@[simp] theorem State.putCtr_engines (s : State) (key : Nat) (c : Ctr) : (s.putCtr key c).engines = s.engines := rfl
@[simp] theorem State.putCtr_flags (s : State) (key : Nat) (c : Ctr) : (s.putCtr key c).flags = s.flags := rfl
@[simp] theorem State.putCtr_windows (s : State) (key : Nat) (c : Ctr) : (s.putCtr key c).windows = s.windows := rfl
@[simp] theorem State.putCtr_saveBase (s : State) (key : Nat) (c : Ctr) : (s.putCtr key c).saveBase = s.saveBase := rfl
@[simp] theorem State.putCtr_apts (s : State) (key : Nat) (c : Ctr) : (s.putCtr key c).apts = s.apts := rfl
@[simp] theorem State.putCtr_aptSlots (s : State) (key : Nat) (c : Ctr) : (s.putCtr key c).aptSlots = s.aptSlots := rfl
@[simp] theorem State.putCtr_rings (s : State) (key : Nat) (c : Ctr) : (s.putCtr key c).rings = s.rings := rfl
@[simp] theorem State.putCtr_waiting (s : State) (key : Nat) (c : Ctr) : (s.putCtr key c).waiting = s.waiting := rfl
@[simp] theorem State.putCtr_backlog (s : State) (key : Nat) (c : Ctr) : (s.putCtr key c).backlog = s.backlog := rfl
@[simp] theorem State.putCtr_link (s : State) (key : Nat) (c : Ctr) : (s.putCtr key c).link = s.link := rfl
@[simp] theorem State.putCtr_msix (s : State) (key : Nat) (c : Ctr) : (s.putCtr key c).msix = s.msix := rfl
@[simp] theorem State.putCtr_dma (s : State) (key : Nat) (c : Ctr) : (s.putCtr key c).dma = s.dma := rfl
@[simp] theorem State.putCtr_stopped (s : State) (key : Nat) (c : Ctr) : (s.putCtr key c).stopped = s.stopped := rfl
@[simp] theorem State.putCtr_resetPending (s : State) (key : Nat) (c : Ctr) : (s.putCtr key c).resetPending = s.resetPending := rfl
@[simp] theorem State.putCtr_pages (s : State) (key : Nat) (c : Ctr) : (s.putCtr key c).pages = s.pages := rfl
@[simp] theorem State.putCtr_regs (s : State) (key : Nat) (c : Ctr) : (s.putCtr key c).regs = s.regs := rfl
@[simp] theorem State.putCtr_latch (s : State) (key : Nat) (c : Ctr) : (s.putCtr key c).latch = s.latch := rfl
@[simp] theorem State.putCtr_mem (s : State) (key : Nat) (c : Ctr) : (s.putCtr key c).mem = s.mem := rfl
@[simp] theorem State.putCtr_hostMem (s : State) (key : Nat) (c : Ctr) : (s.putCtr key c).hostMem = s.hostMem := rfl
@[simp] theorem State.putCtr_badWords (s : State) (key : Nat) (c : Ctr) : (s.putCtr key c).badWords = s.badWords := rfl
@[simp] theorem State.putCtr_softWords (s : State) (key : Nat) (c : Ctr) : (s.putCtr key c).softWords = s.softWords := rfl
@[simp] theorem State.putCtr_insole (s : State) (key : Nat) (c : Ctr) : (s.putCtr key c).insole = s.insole := rfl
@[simp] theorem State.putCtr_protEff (s : State) (key : Nat) (c : Ctr) : (s.putCtr key c).protEff = s.protEff := rfl
@[simp] theorem State.putCtr_me (s : State) (key : Nat) (c : Ctr) : (s.putCtr key c).me = s.me := rfl
@[simp] theorem State.putCtr_ingest (s : State) (key : Nat) (c : Ctr) : (s.putCtr key c).ingest = s.ingest := rfl
@[simp] theorem State.putCtr_raster (s : State) (key : Nat) (c : Ctr) : (s.putCtr key c).raster = s.raster := rfl
@[simp] theorem State.putCtr_disp (s : State) (key : Nat) (c : Ctr) : (s.putCtr key c).disp = s.disp := rfl
@[simp] theorem State.putCtr_outs (s : State) (key : Nat) (c : Ctr) : (s.putCtr key c).outs = s.outs := rfl
@[simp] theorem State.putCtr_traceGap (s : State) (key : Nat) (c : Ctr) : (s.putCtr key c).traceGap = s.traceGap := rfl
@[simp] theorem State.putCtr_log (s : State) (key : Nat) (c : Ctr) : (s.putCtr key c).log = s.log := rfl
@[simp] theorem State.putCtr_readData (s : State) (key : Nat) (c : Ctr) : (s.putCtr key c).readData = s.readData := rfl
@[simp] theorem State.putCtr_pins (s : State) (key : Nat) (c : Ctr) : (s.putCtr key c).pins = s.pins := rfl
@[simp] theorem State.putCtr_bw (s : State) (key : Nat) (c : Ctr) : (s.putCtr key c).bw = s.bw := rfl
@[simp] theorem State.putCtr_pwr (s : State) (key : Nat) (c : Ctr) : (s.putCtr key c).pwr = s.pwr := rfl
@[simp] theorem State.putCtr_boot (s : State) (key : Nat) (c : Ctr) : (s.putCtr key c).boot = s.boot := rfl
@[simp] theorem State.putCtr_welt (s : State) (key : Nat) (c : Ctr) : (s.putCtr key c).welt = s.welt := rfl
@[simp] theorem State.putCtr_refresh (s : State) (key : Nat) (c : Ctr) : (s.putCtr key c).refresh = s.refresh := rfl
@[simp] theorem State.putCtr_cairn (s : State) (key : Nat) (c : Ctr) : (s.putCtr key c).cairn = s.cairn := rfl
@[simp] theorem State.putCtr_snaps (s : State) (key : Nat) (c : Ctr) : (s.putCtr key c).snaps = s.snaps := rfl
@[simp] theorem State.putCtr_dbg (s : State) (key : Nat) (c : Ctr) : (s.putCtr key c).dbg = s.dbg := rfl
@[simp] theorem State.putCtr_lastFw (s : State) (key : Nat) (c : Ctr) : (s.putCtr key c).lastFw = s.lastFw := rfl
@[simp] theorem State.putCtr_traceFill (s : State) (key : Nat) (c : Ctr) : (s.putCtr key c).traceFill = s.traceFill := rfl
@[simp] theorem State.putCtr_traceAt (s : State) (key : Nat) (c : Ctr) : (s.putCtr key c).traceAt = s.traceAt := rfl
@[simp] theorem State.putCtr_sleeping (s : State) (key : Nat) (c : Ctr) : (s.putCtr key c).sleeping = s.sleeping := rfl
@[simp] theorem State.putCtr_issue (s : State) (key : Nat) (c : Ctr) : (s.putCtr key c).issue = s.issue := rfl
@[simp] theorem State.putCtr_timeFrac (s : State) (key : Nat) (c : Ctr) : (s.putCtr key c).timeFrac = s.timeFrac := rfl

/-! `putCmd` -/

@[simp] theorem State.putCmd_pending (s : State) (c : Cmd) : (s.putCmd c).pending = s.pending := rfl
@[simp] theorem State.putCmd_part (s : State) (c : Cmd) : (s.putCmd c).part = s.part := rfl
@[simp] theorem State.putCmd_now (s : State) (c : Cmd) : (s.putCmd c).now = s.now := rfl
@[simp] theorem State.putCmd_freeCount (s : State) (c : Cmd) : (s.putCmd c).freeCount = s.freeCount := rfl
@[simp] theorem State.putCmd_devState (s : State) (c : Cmd) : (s.putCmd c).devState = s.devState := rfl
@[simp] theorem State.putCmd_holdCauses (s : State) (c : Cmd) : (s.putCmd c).holdCauses = s.holdCauses := rfl
@[simp] theorem State.putCmd_cdLost (s : State) (c : Cmd) : (s.putCmd c).cdLost = s.cdLost := rfl
@[simp] theorem State.putCmd_mdLost (s : State) (c : Cmd) : (s.putCmd c).mdLost = s.mdLost := rfl
@[simp] theorem State.putCmd_nextUid (s : State) (c : Cmd) : (s.putCmd c).nextUid = s.nextUid := rfl
@[simp] theorem State.putCmd_steps (s : State) (c : Cmd) : (s.putCmd c).steps = s.steps := rfl
@[simp] theorem State.putCmd_groups (s : State) (c : Cmd) : (s.putCmd c).groups = s.groups := rfl
@[simp] theorem State.putCmd_fetches (s : State) (c : Cmd) : (s.putCmd c).fetches = s.fetches := rfl
@[simp] theorem State.putCmd_colls (s : State) (c : Cmd) : (s.putCmd c).colls = s.colls := rfl
@[simp] theorem State.putCmd_jobs (s : State) (c : Cmd) : (s.putCmd c).jobs = s.jobs := rfl
@[simp] theorem State.putCmd_engines (s : State) (c : Cmd) : (s.putCmd c).engines = s.engines := rfl
@[simp] theorem State.putCmd_flags (s : State) (c : Cmd) : (s.putCmd c).flags = s.flags := rfl
@[simp] theorem State.putCmd_windows (s : State) (c : Cmd) : (s.putCmd c).windows = s.windows := rfl
@[simp] theorem State.putCmd_saveBase (s : State) (c : Cmd) : (s.putCmd c).saveBase = s.saveBase := rfl
@[simp] theorem State.putCmd_apts (s : State) (c : Cmd) : (s.putCmd c).apts = s.apts := rfl
@[simp] theorem State.putCmd_aptSlots (s : State) (c : Cmd) : (s.putCmd c).aptSlots = s.aptSlots := rfl
@[simp] theorem State.putCmd_rings (s : State) (c : Cmd) : (s.putCmd c).rings = s.rings := rfl
@[simp] theorem State.putCmd_waiting (s : State) (c : Cmd) : (s.putCmd c).waiting = s.waiting := rfl
@[simp] theorem State.putCmd_backlog (s : State) (c : Cmd) : (s.putCmd c).backlog = s.backlog := rfl
@[simp] theorem State.putCmd_link (s : State) (c : Cmd) : (s.putCmd c).link = s.link := rfl
@[simp] theorem State.putCmd_msix (s : State) (c : Cmd) : (s.putCmd c).msix = s.msix := rfl
@[simp] theorem State.putCmd_dma (s : State) (c : Cmd) : (s.putCmd c).dma = s.dma := rfl
@[simp] theorem State.putCmd_stopped (s : State) (c : Cmd) : (s.putCmd c).stopped = s.stopped := rfl
@[simp] theorem State.putCmd_resetPending (s : State) (c : Cmd) : (s.putCmd c).resetPending = s.resetPending := rfl
@[simp] theorem State.putCmd_pages (s : State) (c : Cmd) : (s.putCmd c).pages = s.pages := rfl
@[simp] theorem State.putCmd_regs (s : State) (c : Cmd) : (s.putCmd c).regs = s.regs := rfl
@[simp] theorem State.putCmd_latch (s : State) (c : Cmd) : (s.putCmd c).latch = s.latch := rfl
@[simp] theorem State.putCmd_mem (s : State) (c : Cmd) : (s.putCmd c).mem = s.mem := rfl
@[simp] theorem State.putCmd_hostMem (s : State) (c : Cmd) : (s.putCmd c).hostMem = s.hostMem := rfl
@[simp] theorem State.putCmd_badWords (s : State) (c : Cmd) : (s.putCmd c).badWords = s.badWords := rfl
@[simp] theorem State.putCmd_softWords (s : State) (c : Cmd) : (s.putCmd c).softWords = s.softWords := rfl
@[simp] theorem State.putCmd_insole (s : State) (c : Cmd) : (s.putCmd c).insole = s.insole := rfl
@[simp] theorem State.putCmd_protEff (s : State) (c : Cmd) : (s.putCmd c).protEff = s.protEff := rfl
@[simp] theorem State.putCmd_me (s : State) (c : Cmd) : (s.putCmd c).me = s.me := rfl
@[simp] theorem State.putCmd_ingest (s : State) (c : Cmd) : (s.putCmd c).ingest = s.ingest := rfl
@[simp] theorem State.putCmd_raster (s : State) (c : Cmd) : (s.putCmd c).raster = s.raster := rfl
@[simp] theorem State.putCmd_disp (s : State) (c : Cmd) : (s.putCmd c).disp = s.disp := rfl
@[simp] theorem State.putCmd_outs (s : State) (c : Cmd) : (s.putCmd c).outs = s.outs := rfl
@[simp] theorem State.putCmd_traceGap (s : State) (c : Cmd) : (s.putCmd c).traceGap = s.traceGap := rfl
@[simp] theorem State.putCmd_log (s : State) (c : Cmd) : (s.putCmd c).log = s.log := rfl
@[simp] theorem State.putCmd_readData (s : State) (c : Cmd) : (s.putCmd c).readData = s.readData := rfl
@[simp] theorem State.putCmd_pins (s : State) (c : Cmd) : (s.putCmd c).pins = s.pins := rfl
@[simp] theorem State.putCmd_bw (s : State) (c : Cmd) : (s.putCmd c).bw = s.bw := rfl
@[simp] theorem State.putCmd_pwr (s : State) (c : Cmd) : (s.putCmd c).pwr = s.pwr := rfl
@[simp] theorem State.putCmd_boot (s : State) (c : Cmd) : (s.putCmd c).boot = s.boot := rfl
@[simp] theorem State.putCmd_welt (s : State) (c : Cmd) : (s.putCmd c).welt = s.welt := rfl
@[simp] theorem State.putCmd_refresh (s : State) (c : Cmd) : (s.putCmd c).refresh = s.refresh := rfl
@[simp] theorem State.putCmd_cairn (s : State) (c : Cmd) : (s.putCmd c).cairn = s.cairn := rfl
@[simp] theorem State.putCmd_ctrs (s : State) (c : Cmd) : (s.putCmd c).ctrs = s.ctrs := rfl
@[simp] theorem State.putCmd_snaps (s : State) (c : Cmd) : (s.putCmd c).snaps = s.snaps := rfl
@[simp] theorem State.putCmd_dbg (s : State) (c : Cmd) : (s.putCmd c).dbg = s.dbg := rfl
@[simp] theorem State.putCmd_lastFw (s : State) (c : Cmd) : (s.putCmd c).lastFw = s.lastFw := rfl
@[simp] theorem State.putCmd_traceFill (s : State) (c : Cmd) : (s.putCmd c).traceFill = s.traceFill := rfl
@[simp] theorem State.putCmd_traceAt (s : State) (c : Cmd) : (s.putCmd c).traceAt = s.traceAt := rfl
@[simp] theorem State.putCmd_sleeping (s : State) (c : Cmd) : (s.putCmd c).sleeping = s.sleeping := rfl
@[simp] theorem State.putCmd_issue (s : State) (c : Cmd) : (s.putCmd c).issue = s.issue := rfl
@[simp] theorem State.putCmd_timeFrac (s : State) (c : Cmd) : (s.putCmd c).timeFrac = s.timeFrac := rfl

/-! `putStep` -/

@[simp] theorem State.putStep_pending (s : State) (x : Step) : (s.putStep x).pending = s.pending := rfl
@[simp] theorem State.putStep_part (s : State) (x : Step) : (s.putStep x).part = s.part := rfl
@[simp] theorem State.putStep_now (s : State) (x : Step) : (s.putStep x).now = s.now := rfl
@[simp] theorem State.putStep_freeCount (s : State) (x : Step) : (s.putStep x).freeCount = s.freeCount := rfl
@[simp] theorem State.putStep_devState (s : State) (x : Step) : (s.putStep x).devState = s.devState := rfl
@[simp] theorem State.putStep_holdCauses (s : State) (x : Step) : (s.putStep x).holdCauses = s.holdCauses := rfl
@[simp] theorem State.putStep_cdLost (s : State) (x : Step) : (s.putStep x).cdLost = s.cdLost := rfl
@[simp] theorem State.putStep_mdLost (s : State) (x : Step) : (s.putStep x).mdLost = s.mdLost := rfl
@[simp] theorem State.putStep_cmds (s : State) (x : Step) : (s.putStep x).cmds = s.cmds := rfl
@[simp] theorem State.putStep_nextUid (s : State) (x : Step) : (s.putStep x).nextUid = s.nextUid := rfl
@[simp] theorem State.putStep_groups (s : State) (x : Step) : (s.putStep x).groups = s.groups := rfl
@[simp] theorem State.putStep_fetches (s : State) (x : Step) : (s.putStep x).fetches = s.fetches := rfl
@[simp] theorem State.putStep_colls (s : State) (x : Step) : (s.putStep x).colls = s.colls := rfl
@[simp] theorem State.putStep_jobs (s : State) (x : Step) : (s.putStep x).jobs = s.jobs := rfl
@[simp] theorem State.putStep_engines (s : State) (x : Step) : (s.putStep x).engines = s.engines := rfl
@[simp] theorem State.putStep_flags (s : State) (x : Step) : (s.putStep x).flags = s.flags := rfl
@[simp] theorem State.putStep_windows (s : State) (x : Step) : (s.putStep x).windows = s.windows := rfl
@[simp] theorem State.putStep_saveBase (s : State) (x : Step) : (s.putStep x).saveBase = s.saveBase := rfl
@[simp] theorem State.putStep_apts (s : State) (x : Step) : (s.putStep x).apts = s.apts := rfl
@[simp] theorem State.putStep_aptSlots (s : State) (x : Step) : (s.putStep x).aptSlots = s.aptSlots := rfl
@[simp] theorem State.putStep_rings (s : State) (x : Step) : (s.putStep x).rings = s.rings := rfl
@[simp] theorem State.putStep_waiting (s : State) (x : Step) : (s.putStep x).waiting = s.waiting := rfl
@[simp] theorem State.putStep_backlog (s : State) (x : Step) : (s.putStep x).backlog = s.backlog := rfl
@[simp] theorem State.putStep_link (s : State) (x : Step) : (s.putStep x).link = s.link := rfl
@[simp] theorem State.putStep_msix (s : State) (x : Step) : (s.putStep x).msix = s.msix := rfl
@[simp] theorem State.putStep_dma (s : State) (x : Step) : (s.putStep x).dma = s.dma := rfl
@[simp] theorem State.putStep_stopped (s : State) (x : Step) : (s.putStep x).stopped = s.stopped := rfl
@[simp] theorem State.putStep_resetPending (s : State) (x : Step) : (s.putStep x).resetPending = s.resetPending := rfl
@[simp] theorem State.putStep_pages (s : State) (x : Step) : (s.putStep x).pages = s.pages := rfl
@[simp] theorem State.putStep_regs (s : State) (x : Step) : (s.putStep x).regs = s.regs := rfl
@[simp] theorem State.putStep_latch (s : State) (x : Step) : (s.putStep x).latch = s.latch := rfl
@[simp] theorem State.putStep_mem (s : State) (x : Step) : (s.putStep x).mem = s.mem := rfl
@[simp] theorem State.putStep_hostMem (s : State) (x : Step) : (s.putStep x).hostMem = s.hostMem := rfl
@[simp] theorem State.putStep_badWords (s : State) (x : Step) : (s.putStep x).badWords = s.badWords := rfl
@[simp] theorem State.putStep_softWords (s : State) (x : Step) : (s.putStep x).softWords = s.softWords := rfl
@[simp] theorem State.putStep_insole (s : State) (x : Step) : (s.putStep x).insole = s.insole := rfl
@[simp] theorem State.putStep_protEff (s : State) (x : Step) : (s.putStep x).protEff = s.protEff := rfl
@[simp] theorem State.putStep_me (s : State) (x : Step) : (s.putStep x).me = s.me := rfl
@[simp] theorem State.putStep_ingest (s : State) (x : Step) : (s.putStep x).ingest = s.ingest := rfl
@[simp] theorem State.putStep_raster (s : State) (x : Step) : (s.putStep x).raster = s.raster := rfl
@[simp] theorem State.putStep_disp (s : State) (x : Step) : (s.putStep x).disp = s.disp := rfl
@[simp] theorem State.putStep_outs (s : State) (x : Step) : (s.putStep x).outs = s.outs := rfl
@[simp] theorem State.putStep_traceGap (s : State) (x : Step) : (s.putStep x).traceGap = s.traceGap := rfl
@[simp] theorem State.putStep_log (s : State) (x : Step) : (s.putStep x).log = s.log := rfl
@[simp] theorem State.putStep_readData (s : State) (x : Step) : (s.putStep x).readData = s.readData := rfl
@[simp] theorem State.putStep_pins (s : State) (x : Step) : (s.putStep x).pins = s.pins := rfl
@[simp] theorem State.putStep_bw (s : State) (x : Step) : (s.putStep x).bw = s.bw := rfl
@[simp] theorem State.putStep_pwr (s : State) (x : Step) : (s.putStep x).pwr = s.pwr := rfl
@[simp] theorem State.putStep_boot (s : State) (x : Step) : (s.putStep x).boot = s.boot := rfl
@[simp] theorem State.putStep_welt (s : State) (x : Step) : (s.putStep x).welt = s.welt := rfl
@[simp] theorem State.putStep_refresh (s : State) (x : Step) : (s.putStep x).refresh = s.refresh := rfl
@[simp] theorem State.putStep_cairn (s : State) (x : Step) : (s.putStep x).cairn = s.cairn := rfl
@[simp] theorem State.putStep_ctrs (s : State) (x : Step) : (s.putStep x).ctrs = s.ctrs := rfl
@[simp] theorem State.putStep_snaps (s : State) (x : Step) : (s.putStep x).snaps = s.snaps := rfl
@[simp] theorem State.putStep_dbg (s : State) (x : Step) : (s.putStep x).dbg = s.dbg := rfl
@[simp] theorem State.putStep_lastFw (s : State) (x : Step) : (s.putStep x).lastFw = s.lastFw := rfl
@[simp] theorem State.putStep_traceFill (s : State) (x : Step) : (s.putStep x).traceFill = s.traceFill := rfl
@[simp] theorem State.putStep_traceAt (s : State) (x : Step) : (s.putStep x).traceAt = s.traceAt := rfl
@[simp] theorem State.putStep_sleeping (s : State) (x : Step) : (s.putStep x).sleeping = s.sleeping := rfl
@[simp] theorem State.putStep_issue (s : State) (x : Step) : (s.putStep x).issue = s.issue := rfl
@[simp] theorem State.putStep_timeFrac (s : State) (x : Step) : (s.putStep x).timeFrac = s.timeFrac := rfl

/-! `putGroup` -/

@[simp] theorem State.putGroup_pending (s : State) (x : Group) : (s.putGroup x).pending = s.pending := rfl
@[simp] theorem State.putGroup_part (s : State) (x : Group) : (s.putGroup x).part = s.part := rfl
@[simp] theorem State.putGroup_now (s : State) (x : Group) : (s.putGroup x).now = s.now := rfl
@[simp] theorem State.putGroup_freeCount (s : State) (x : Group) : (s.putGroup x).freeCount = s.freeCount := rfl
@[simp] theorem State.putGroup_devState (s : State) (x : Group) : (s.putGroup x).devState = s.devState := rfl
@[simp] theorem State.putGroup_holdCauses (s : State) (x : Group) : (s.putGroup x).holdCauses = s.holdCauses := rfl
@[simp] theorem State.putGroup_cdLost (s : State) (x : Group) : (s.putGroup x).cdLost = s.cdLost := rfl
@[simp] theorem State.putGroup_mdLost (s : State) (x : Group) : (s.putGroup x).mdLost = s.mdLost := rfl
@[simp] theorem State.putGroup_cmds (s : State) (x : Group) : (s.putGroup x).cmds = s.cmds := rfl
@[simp] theorem State.putGroup_nextUid (s : State) (x : Group) : (s.putGroup x).nextUid = s.nextUid := rfl
@[simp] theorem State.putGroup_steps (s : State) (x : Group) : (s.putGroup x).steps = s.steps := rfl
@[simp] theorem State.putGroup_fetches (s : State) (x : Group) : (s.putGroup x).fetches = s.fetches := rfl
@[simp] theorem State.putGroup_colls (s : State) (x : Group) : (s.putGroup x).colls = s.colls := rfl
@[simp] theorem State.putGroup_jobs (s : State) (x : Group) : (s.putGroup x).jobs = s.jobs := rfl
@[simp] theorem State.putGroup_engines (s : State) (x : Group) : (s.putGroup x).engines = s.engines := rfl
@[simp] theorem State.putGroup_flags (s : State) (x : Group) : (s.putGroup x).flags = s.flags := rfl
@[simp] theorem State.putGroup_windows (s : State) (x : Group) : (s.putGroup x).windows = s.windows := rfl
@[simp] theorem State.putGroup_saveBase (s : State) (x : Group) : (s.putGroup x).saveBase = s.saveBase := rfl
@[simp] theorem State.putGroup_apts (s : State) (x : Group) : (s.putGroup x).apts = s.apts := rfl
@[simp] theorem State.putGroup_aptSlots (s : State) (x : Group) : (s.putGroup x).aptSlots = s.aptSlots := rfl
@[simp] theorem State.putGroup_rings (s : State) (x : Group) : (s.putGroup x).rings = s.rings := rfl
@[simp] theorem State.putGroup_waiting (s : State) (x : Group) : (s.putGroup x).waiting = s.waiting := rfl
@[simp] theorem State.putGroup_backlog (s : State) (x : Group) : (s.putGroup x).backlog = s.backlog := rfl
@[simp] theorem State.putGroup_link (s : State) (x : Group) : (s.putGroup x).link = s.link := rfl
@[simp] theorem State.putGroup_msix (s : State) (x : Group) : (s.putGroup x).msix = s.msix := rfl
@[simp] theorem State.putGroup_dma (s : State) (x : Group) : (s.putGroup x).dma = s.dma := rfl
@[simp] theorem State.putGroup_stopped (s : State) (x : Group) : (s.putGroup x).stopped = s.stopped := rfl
@[simp] theorem State.putGroup_resetPending (s : State) (x : Group) : (s.putGroup x).resetPending = s.resetPending := rfl
@[simp] theorem State.putGroup_pages (s : State) (x : Group) : (s.putGroup x).pages = s.pages := rfl
@[simp] theorem State.putGroup_regs (s : State) (x : Group) : (s.putGroup x).regs = s.regs := rfl
@[simp] theorem State.putGroup_latch (s : State) (x : Group) : (s.putGroup x).latch = s.latch := rfl
@[simp] theorem State.putGroup_mem (s : State) (x : Group) : (s.putGroup x).mem = s.mem := rfl
@[simp] theorem State.putGroup_hostMem (s : State) (x : Group) : (s.putGroup x).hostMem = s.hostMem := rfl
@[simp] theorem State.putGroup_badWords (s : State) (x : Group) : (s.putGroup x).badWords = s.badWords := rfl
@[simp] theorem State.putGroup_softWords (s : State) (x : Group) : (s.putGroup x).softWords = s.softWords := rfl
@[simp] theorem State.putGroup_insole (s : State) (x : Group) : (s.putGroup x).insole = s.insole := rfl
@[simp] theorem State.putGroup_protEff (s : State) (x : Group) : (s.putGroup x).protEff = s.protEff := rfl
@[simp] theorem State.putGroup_me (s : State) (x : Group) : (s.putGroup x).me = s.me := rfl
@[simp] theorem State.putGroup_ingest (s : State) (x : Group) : (s.putGroup x).ingest = s.ingest := rfl
@[simp] theorem State.putGroup_raster (s : State) (x : Group) : (s.putGroup x).raster = s.raster := rfl
@[simp] theorem State.putGroup_disp (s : State) (x : Group) : (s.putGroup x).disp = s.disp := rfl
@[simp] theorem State.putGroup_outs (s : State) (x : Group) : (s.putGroup x).outs = s.outs := rfl
@[simp] theorem State.putGroup_traceGap (s : State) (x : Group) : (s.putGroup x).traceGap = s.traceGap := rfl
@[simp] theorem State.putGroup_log (s : State) (x : Group) : (s.putGroup x).log = s.log := rfl
@[simp] theorem State.putGroup_readData (s : State) (x : Group) : (s.putGroup x).readData = s.readData := rfl
@[simp] theorem State.putGroup_pins (s : State) (x : Group) : (s.putGroup x).pins = s.pins := rfl
@[simp] theorem State.putGroup_bw (s : State) (x : Group) : (s.putGroup x).bw = s.bw := rfl
@[simp] theorem State.putGroup_pwr (s : State) (x : Group) : (s.putGroup x).pwr = s.pwr := rfl
@[simp] theorem State.putGroup_boot (s : State) (x : Group) : (s.putGroup x).boot = s.boot := rfl
@[simp] theorem State.putGroup_welt (s : State) (x : Group) : (s.putGroup x).welt = s.welt := rfl
@[simp] theorem State.putGroup_refresh (s : State) (x : Group) : (s.putGroup x).refresh = s.refresh := rfl
@[simp] theorem State.putGroup_cairn (s : State) (x : Group) : (s.putGroup x).cairn = s.cairn := rfl
@[simp] theorem State.putGroup_ctrs (s : State) (x : Group) : (s.putGroup x).ctrs = s.ctrs := rfl
@[simp] theorem State.putGroup_snaps (s : State) (x : Group) : (s.putGroup x).snaps = s.snaps := rfl
@[simp] theorem State.putGroup_dbg (s : State) (x : Group) : (s.putGroup x).dbg = s.dbg := rfl
@[simp] theorem State.putGroup_lastFw (s : State) (x : Group) : (s.putGroup x).lastFw = s.lastFw := rfl
@[simp] theorem State.putGroup_traceFill (s : State) (x : Group) : (s.putGroup x).traceFill = s.traceFill := rfl
@[simp] theorem State.putGroup_traceAt (s : State) (x : Group) : (s.putGroup x).traceAt = s.traceAt := rfl
@[simp] theorem State.putGroup_sleeping (s : State) (x : Group) : (s.putGroup x).sleeping = s.sleeping := rfl
@[simp] theorem State.putGroup_issue (s : State) (x : Group) : (s.putGroup x).issue = s.issue := rfl
@[simp] theorem State.putGroup_timeFrac (s : State) (x : Group) : (s.putGroup x).timeFrac = s.timeFrac := rfl

/-! `putApt` -/

@[simp] theorem State.putApt_pending (s : State) (n : Nat) (a : Aperture) : (s.putApt n a).pending = s.pending := rfl
@[simp] theorem State.putApt_part (s : State) (n : Nat) (a : Aperture) : (s.putApt n a).part = s.part := rfl
@[simp] theorem State.putApt_now (s : State) (n : Nat) (a : Aperture) : (s.putApt n a).now = s.now := rfl
@[simp] theorem State.putApt_freeCount (s : State) (n : Nat) (a : Aperture) : (s.putApt n a).freeCount = s.freeCount := rfl
@[simp] theorem State.putApt_devState (s : State) (n : Nat) (a : Aperture) : (s.putApt n a).devState = s.devState := rfl
@[simp] theorem State.putApt_holdCauses (s : State) (n : Nat) (a : Aperture) : (s.putApt n a).holdCauses = s.holdCauses := rfl
@[simp] theorem State.putApt_cdLost (s : State) (n : Nat) (a : Aperture) : (s.putApt n a).cdLost = s.cdLost := rfl
@[simp] theorem State.putApt_mdLost (s : State) (n : Nat) (a : Aperture) : (s.putApt n a).mdLost = s.mdLost := rfl
@[simp] theorem State.putApt_cmds (s : State) (n : Nat) (a : Aperture) : (s.putApt n a).cmds = s.cmds := rfl
@[simp] theorem State.putApt_nextUid (s : State) (n : Nat) (a : Aperture) : (s.putApt n a).nextUid = s.nextUid := rfl
@[simp] theorem State.putApt_steps (s : State) (n : Nat) (a : Aperture) : (s.putApt n a).steps = s.steps := rfl
@[simp] theorem State.putApt_groups (s : State) (n : Nat) (a : Aperture) : (s.putApt n a).groups = s.groups := rfl
@[simp] theorem State.putApt_fetches (s : State) (n : Nat) (a : Aperture) : (s.putApt n a).fetches = s.fetches := rfl
@[simp] theorem State.putApt_colls (s : State) (n : Nat) (a : Aperture) : (s.putApt n a).colls = s.colls := rfl
@[simp] theorem State.putApt_jobs (s : State) (n : Nat) (a : Aperture) : (s.putApt n a).jobs = s.jobs := rfl
@[simp] theorem State.putApt_engines (s : State) (n : Nat) (a : Aperture) : (s.putApt n a).engines = s.engines := rfl
@[simp] theorem State.putApt_flags (s : State) (n : Nat) (a : Aperture) : (s.putApt n a).flags = s.flags := rfl
@[simp] theorem State.putApt_windows (s : State) (n : Nat) (a : Aperture) : (s.putApt n a).windows = s.windows := rfl
@[simp] theorem State.putApt_saveBase (s : State) (n : Nat) (a : Aperture) : (s.putApt n a).saveBase = s.saveBase := rfl
@[simp] theorem State.putApt_aptSlots (s : State) (n : Nat) (a : Aperture) : (s.putApt n a).aptSlots = s.aptSlots := rfl
@[simp] theorem State.putApt_rings (s : State) (n : Nat) (a : Aperture) : (s.putApt n a).rings = s.rings := rfl
@[simp] theorem State.putApt_waiting (s : State) (n : Nat) (a : Aperture) : (s.putApt n a).waiting = s.waiting := rfl
@[simp] theorem State.putApt_backlog (s : State) (n : Nat) (a : Aperture) : (s.putApt n a).backlog = s.backlog := rfl
@[simp] theorem State.putApt_link (s : State) (n : Nat) (a : Aperture) : (s.putApt n a).link = s.link := rfl
@[simp] theorem State.putApt_msix (s : State) (n : Nat) (a : Aperture) : (s.putApt n a).msix = s.msix := rfl
@[simp] theorem State.putApt_dma (s : State) (n : Nat) (a : Aperture) : (s.putApt n a).dma = s.dma := rfl
@[simp] theorem State.putApt_stopped (s : State) (n : Nat) (a : Aperture) : (s.putApt n a).stopped = s.stopped := rfl
@[simp] theorem State.putApt_resetPending (s : State) (n : Nat) (a : Aperture) : (s.putApt n a).resetPending = s.resetPending := rfl
@[simp] theorem State.putApt_pages (s : State) (n : Nat) (a : Aperture) : (s.putApt n a).pages = s.pages := rfl
@[simp] theorem State.putApt_regs (s : State) (n : Nat) (a : Aperture) : (s.putApt n a).regs = s.regs := rfl
@[simp] theorem State.putApt_latch (s : State) (n : Nat) (a : Aperture) : (s.putApt n a).latch = s.latch := rfl
@[simp] theorem State.putApt_mem (s : State) (n : Nat) (a : Aperture) : (s.putApt n a).mem = s.mem := rfl
@[simp] theorem State.putApt_hostMem (s : State) (n : Nat) (a : Aperture) : (s.putApt n a).hostMem = s.hostMem := rfl
@[simp] theorem State.putApt_badWords (s : State) (n : Nat) (a : Aperture) : (s.putApt n a).badWords = s.badWords := rfl
@[simp] theorem State.putApt_softWords (s : State) (n : Nat) (a : Aperture) : (s.putApt n a).softWords = s.softWords := rfl
@[simp] theorem State.putApt_insole (s : State) (n : Nat) (a : Aperture) : (s.putApt n a).insole = s.insole := rfl
@[simp] theorem State.putApt_protEff (s : State) (n : Nat) (a : Aperture) : (s.putApt n a).protEff = s.protEff := rfl
@[simp] theorem State.putApt_me (s : State) (n : Nat) (a : Aperture) : (s.putApt n a).me = s.me := rfl
@[simp] theorem State.putApt_ingest (s : State) (n : Nat) (a : Aperture) : (s.putApt n a).ingest = s.ingest := rfl
@[simp] theorem State.putApt_raster (s : State) (n : Nat) (a : Aperture) : (s.putApt n a).raster = s.raster := rfl
@[simp] theorem State.putApt_disp (s : State) (n : Nat) (a : Aperture) : (s.putApt n a).disp = s.disp := rfl
@[simp] theorem State.putApt_outs (s : State) (n : Nat) (a : Aperture) : (s.putApt n a).outs = s.outs := rfl
@[simp] theorem State.putApt_traceGap (s : State) (n : Nat) (a : Aperture) : (s.putApt n a).traceGap = s.traceGap := rfl
@[simp] theorem State.putApt_log (s : State) (n : Nat) (a : Aperture) : (s.putApt n a).log = s.log := rfl
@[simp] theorem State.putApt_readData (s : State) (n : Nat) (a : Aperture) : (s.putApt n a).readData = s.readData := rfl
@[simp] theorem State.putApt_pins (s : State) (n : Nat) (a : Aperture) : (s.putApt n a).pins = s.pins := rfl
@[simp] theorem State.putApt_bw (s : State) (n : Nat) (a : Aperture) : (s.putApt n a).bw = s.bw := rfl
@[simp] theorem State.putApt_pwr (s : State) (n : Nat) (a : Aperture) : (s.putApt n a).pwr = s.pwr := rfl
@[simp] theorem State.putApt_boot (s : State) (n : Nat) (a : Aperture) : (s.putApt n a).boot = s.boot := rfl
@[simp] theorem State.putApt_welt (s : State) (n : Nat) (a : Aperture) : (s.putApt n a).welt = s.welt := rfl
@[simp] theorem State.putApt_refresh (s : State) (n : Nat) (a : Aperture) : (s.putApt n a).refresh = s.refresh := rfl
@[simp] theorem State.putApt_cairn (s : State) (n : Nat) (a : Aperture) : (s.putApt n a).cairn = s.cairn := rfl
@[simp] theorem State.putApt_ctrs (s : State) (n : Nat) (a : Aperture) : (s.putApt n a).ctrs = s.ctrs := rfl
@[simp] theorem State.putApt_snaps (s : State) (n : Nat) (a : Aperture) : (s.putApt n a).snaps = s.snaps := rfl
@[simp] theorem State.putApt_dbg (s : State) (n : Nat) (a : Aperture) : (s.putApt n a).dbg = s.dbg := rfl
@[simp] theorem State.putApt_lastFw (s : State) (n : Nat) (a : Aperture) : (s.putApt n a).lastFw = s.lastFw := rfl
@[simp] theorem State.putApt_traceFill (s : State) (n : Nat) (a : Aperture) : (s.putApt n a).traceFill = s.traceFill := rfl
@[simp] theorem State.putApt_traceAt (s : State) (n : Nat) (a : Aperture) : (s.putApt n a).traceAt = s.traceAt := rfl
@[simp] theorem State.putApt_sleeping (s : State) (n : Nat) (a : Aperture) : (s.putApt n a).sleeping = s.sleeping := rfl
@[simp] theorem State.putApt_issue (s : State) (n : Nat) (a : Aperture) : (s.putApt n a).issue = s.issue := rfl
@[simp] theorem State.putApt_timeFrac (s : State) (n : Nat) (a : Aperture) : (s.putApt n a).timeFrac = s.timeFrac := rfl

/-! `putRing` -/

@[simp] theorem State.putRing_pending (s : State) (m : Nat) (r : Ring) : (s.putRing m r).pending = s.pending := rfl
@[simp] theorem State.putRing_part (s : State) (m : Nat) (r : Ring) : (s.putRing m r).part = s.part := rfl
@[simp] theorem State.putRing_now (s : State) (m : Nat) (r : Ring) : (s.putRing m r).now = s.now := rfl
@[simp] theorem State.putRing_freeCount (s : State) (m : Nat) (r : Ring) : (s.putRing m r).freeCount = s.freeCount := rfl
@[simp] theorem State.putRing_devState (s : State) (m : Nat) (r : Ring) : (s.putRing m r).devState = s.devState := rfl
@[simp] theorem State.putRing_holdCauses (s : State) (m : Nat) (r : Ring) : (s.putRing m r).holdCauses = s.holdCauses := rfl
@[simp] theorem State.putRing_cdLost (s : State) (m : Nat) (r : Ring) : (s.putRing m r).cdLost = s.cdLost := rfl
@[simp] theorem State.putRing_mdLost (s : State) (m : Nat) (r : Ring) : (s.putRing m r).mdLost = s.mdLost := rfl
@[simp] theorem State.putRing_cmds (s : State) (m : Nat) (r : Ring) : (s.putRing m r).cmds = s.cmds := rfl
@[simp] theorem State.putRing_nextUid (s : State) (m : Nat) (r : Ring) : (s.putRing m r).nextUid = s.nextUid := rfl
@[simp] theorem State.putRing_steps (s : State) (m : Nat) (r : Ring) : (s.putRing m r).steps = s.steps := rfl
@[simp] theorem State.putRing_groups (s : State) (m : Nat) (r : Ring) : (s.putRing m r).groups = s.groups := rfl
@[simp] theorem State.putRing_fetches (s : State) (m : Nat) (r : Ring) : (s.putRing m r).fetches = s.fetches := rfl
@[simp] theorem State.putRing_colls (s : State) (m : Nat) (r : Ring) : (s.putRing m r).colls = s.colls := rfl
@[simp] theorem State.putRing_jobs (s : State) (m : Nat) (r : Ring) : (s.putRing m r).jobs = s.jobs := rfl
@[simp] theorem State.putRing_engines (s : State) (m : Nat) (r : Ring) : (s.putRing m r).engines = s.engines := rfl
@[simp] theorem State.putRing_flags (s : State) (m : Nat) (r : Ring) : (s.putRing m r).flags = s.flags := rfl
@[simp] theorem State.putRing_windows (s : State) (m : Nat) (r : Ring) : (s.putRing m r).windows = s.windows := rfl
@[simp] theorem State.putRing_saveBase (s : State) (m : Nat) (r : Ring) : (s.putRing m r).saveBase = s.saveBase := rfl
@[simp] theorem State.putRing_apts (s : State) (m : Nat) (r : Ring) : (s.putRing m r).apts = s.apts := rfl
@[simp] theorem State.putRing_aptSlots (s : State) (m : Nat) (r : Ring) : (s.putRing m r).aptSlots = s.aptSlots := rfl
@[simp] theorem State.putRing_waiting (s : State) (m : Nat) (r : Ring) : (s.putRing m r).waiting = s.waiting := rfl
@[simp] theorem State.putRing_backlog (s : State) (m : Nat) (r : Ring) : (s.putRing m r).backlog = s.backlog := rfl
@[simp] theorem State.putRing_link (s : State) (m : Nat) (r : Ring) : (s.putRing m r).link = s.link := rfl
@[simp] theorem State.putRing_msix (s : State) (m : Nat) (r : Ring) : (s.putRing m r).msix = s.msix := rfl
@[simp] theorem State.putRing_dma (s : State) (m : Nat) (r : Ring) : (s.putRing m r).dma = s.dma := rfl
@[simp] theorem State.putRing_stopped (s : State) (m : Nat) (r : Ring) : (s.putRing m r).stopped = s.stopped := rfl
@[simp] theorem State.putRing_resetPending (s : State) (m : Nat) (r : Ring) : (s.putRing m r).resetPending = s.resetPending := rfl
@[simp] theorem State.putRing_pages (s : State) (m : Nat) (r : Ring) : (s.putRing m r).pages = s.pages := rfl
@[simp] theorem State.putRing_regs (s : State) (m : Nat) (r : Ring) : (s.putRing m r).regs = s.regs := rfl
@[simp] theorem State.putRing_latch (s : State) (m : Nat) (r : Ring) : (s.putRing m r).latch = s.latch := rfl
@[simp] theorem State.putRing_mem (s : State) (m : Nat) (r : Ring) : (s.putRing m r).mem = s.mem := rfl
@[simp] theorem State.putRing_hostMem (s : State) (m : Nat) (r : Ring) : (s.putRing m r).hostMem = s.hostMem := rfl
@[simp] theorem State.putRing_badWords (s : State) (m : Nat) (r : Ring) : (s.putRing m r).badWords = s.badWords := rfl
@[simp] theorem State.putRing_softWords (s : State) (m : Nat) (r : Ring) : (s.putRing m r).softWords = s.softWords := rfl
@[simp] theorem State.putRing_insole (s : State) (m : Nat) (r : Ring) : (s.putRing m r).insole = s.insole := rfl
@[simp] theorem State.putRing_protEff (s : State) (m : Nat) (r : Ring) : (s.putRing m r).protEff = s.protEff := rfl
@[simp] theorem State.putRing_me (s : State) (m : Nat) (r : Ring) : (s.putRing m r).me = s.me := rfl
@[simp] theorem State.putRing_ingest (s : State) (m : Nat) (r : Ring) : (s.putRing m r).ingest = s.ingest := rfl
@[simp] theorem State.putRing_raster (s : State) (m : Nat) (r : Ring) : (s.putRing m r).raster = s.raster := rfl
@[simp] theorem State.putRing_disp (s : State) (m : Nat) (r : Ring) : (s.putRing m r).disp = s.disp := rfl
@[simp] theorem State.putRing_outs (s : State) (m : Nat) (r : Ring) : (s.putRing m r).outs = s.outs := rfl
@[simp] theorem State.putRing_traceGap (s : State) (m : Nat) (r : Ring) : (s.putRing m r).traceGap = s.traceGap := rfl
@[simp] theorem State.putRing_log (s : State) (m : Nat) (r : Ring) : (s.putRing m r).log = s.log := rfl
@[simp] theorem State.putRing_readData (s : State) (m : Nat) (r : Ring) : (s.putRing m r).readData = s.readData := rfl
@[simp] theorem State.putRing_pins (s : State) (m : Nat) (r : Ring) : (s.putRing m r).pins = s.pins := rfl
@[simp] theorem State.putRing_bw (s : State) (m : Nat) (r : Ring) : (s.putRing m r).bw = s.bw := rfl
@[simp] theorem State.putRing_pwr (s : State) (m : Nat) (r : Ring) : (s.putRing m r).pwr = s.pwr := rfl
@[simp] theorem State.putRing_boot (s : State) (m : Nat) (r : Ring) : (s.putRing m r).boot = s.boot := rfl
@[simp] theorem State.putRing_welt (s : State) (m : Nat) (r : Ring) : (s.putRing m r).welt = s.welt := rfl
@[simp] theorem State.putRing_refresh (s : State) (m : Nat) (r : Ring) : (s.putRing m r).refresh = s.refresh := rfl
@[simp] theorem State.putRing_cairn (s : State) (m : Nat) (r : Ring) : (s.putRing m r).cairn = s.cairn := rfl
@[simp] theorem State.putRing_ctrs (s : State) (m : Nat) (r : Ring) : (s.putRing m r).ctrs = s.ctrs := rfl
@[simp] theorem State.putRing_snaps (s : State) (m : Nat) (r : Ring) : (s.putRing m r).snaps = s.snaps := rfl
@[simp] theorem State.putRing_dbg (s : State) (m : Nat) (r : Ring) : (s.putRing m r).dbg = s.dbg := rfl
@[simp] theorem State.putRing_lastFw (s : State) (m : Nat) (r : Ring) : (s.putRing m r).lastFw = s.lastFw := rfl
@[simp] theorem State.putRing_traceFill (s : State) (m : Nat) (r : Ring) : (s.putRing m r).traceFill = s.traceFill := rfl
@[simp] theorem State.putRing_traceAt (s : State) (m : Nat) (r : Ring) : (s.putRing m r).traceAt = s.traceAt := rfl
@[simp] theorem State.putRing_sleeping (s : State) (m : Nat) (r : Ring) : (s.putRing m r).sleeping = s.sleeping := rfl
@[simp] theorem State.putRing_issue (s : State) (m : Nat) (r : Ring) : (s.putRing m r).issue = s.issue := rfl
@[simp] theorem State.putRing_timeFrac (s : State) (m : Nat) (r : Ring) : (s.putRing m r).timeFrac = s.timeFrac := rfl

/-! `putOut` -/

@[simp] theorem State.putOut_pending (s : State) (i : Nat) (o : DpOut) : (s.putOut i o).pending = s.pending := rfl
@[simp] theorem State.putOut_part (s : State) (i : Nat) (o : DpOut) : (s.putOut i o).part = s.part := rfl
@[simp] theorem State.putOut_now (s : State) (i : Nat) (o : DpOut) : (s.putOut i o).now = s.now := rfl
@[simp] theorem State.putOut_freeCount (s : State) (i : Nat) (o : DpOut) : (s.putOut i o).freeCount = s.freeCount := rfl
@[simp] theorem State.putOut_devState (s : State) (i : Nat) (o : DpOut) : (s.putOut i o).devState = s.devState := rfl
@[simp] theorem State.putOut_holdCauses (s : State) (i : Nat) (o : DpOut) : (s.putOut i o).holdCauses = s.holdCauses := rfl
@[simp] theorem State.putOut_cdLost (s : State) (i : Nat) (o : DpOut) : (s.putOut i o).cdLost = s.cdLost := rfl
@[simp] theorem State.putOut_mdLost (s : State) (i : Nat) (o : DpOut) : (s.putOut i o).mdLost = s.mdLost := rfl
@[simp] theorem State.putOut_cmds (s : State) (i : Nat) (o : DpOut) : (s.putOut i o).cmds = s.cmds := rfl
@[simp] theorem State.putOut_nextUid (s : State) (i : Nat) (o : DpOut) : (s.putOut i o).nextUid = s.nextUid := rfl
@[simp] theorem State.putOut_steps (s : State) (i : Nat) (o : DpOut) : (s.putOut i o).steps = s.steps := rfl
@[simp] theorem State.putOut_groups (s : State) (i : Nat) (o : DpOut) : (s.putOut i o).groups = s.groups := rfl
@[simp] theorem State.putOut_fetches (s : State) (i : Nat) (o : DpOut) : (s.putOut i o).fetches = s.fetches := rfl
@[simp] theorem State.putOut_colls (s : State) (i : Nat) (o : DpOut) : (s.putOut i o).colls = s.colls := rfl
@[simp] theorem State.putOut_jobs (s : State) (i : Nat) (o : DpOut) : (s.putOut i o).jobs = s.jobs := rfl
@[simp] theorem State.putOut_engines (s : State) (i : Nat) (o : DpOut) : (s.putOut i o).engines = s.engines := rfl
@[simp] theorem State.putOut_flags (s : State) (i : Nat) (o : DpOut) : (s.putOut i o).flags = s.flags := rfl
@[simp] theorem State.putOut_windows (s : State) (i : Nat) (o : DpOut) : (s.putOut i o).windows = s.windows := rfl
@[simp] theorem State.putOut_saveBase (s : State) (i : Nat) (o : DpOut) : (s.putOut i o).saveBase = s.saveBase := rfl
@[simp] theorem State.putOut_apts (s : State) (i : Nat) (o : DpOut) : (s.putOut i o).apts = s.apts := rfl
@[simp] theorem State.putOut_aptSlots (s : State) (i : Nat) (o : DpOut) : (s.putOut i o).aptSlots = s.aptSlots := rfl
@[simp] theorem State.putOut_rings (s : State) (i : Nat) (o : DpOut) : (s.putOut i o).rings = s.rings := rfl
@[simp] theorem State.putOut_waiting (s : State) (i : Nat) (o : DpOut) : (s.putOut i o).waiting = s.waiting := rfl
@[simp] theorem State.putOut_backlog (s : State) (i : Nat) (o : DpOut) : (s.putOut i o).backlog = s.backlog := rfl
@[simp] theorem State.putOut_link (s : State) (i : Nat) (o : DpOut) : (s.putOut i o).link = s.link := rfl
@[simp] theorem State.putOut_msix (s : State) (i : Nat) (o : DpOut) : (s.putOut i o).msix = s.msix := rfl
@[simp] theorem State.putOut_dma (s : State) (i : Nat) (o : DpOut) : (s.putOut i o).dma = s.dma := rfl
@[simp] theorem State.putOut_stopped (s : State) (i : Nat) (o : DpOut) : (s.putOut i o).stopped = s.stopped := rfl
@[simp] theorem State.putOut_resetPending (s : State) (i : Nat) (o : DpOut) : (s.putOut i o).resetPending = s.resetPending := rfl
@[simp] theorem State.putOut_pages (s : State) (i : Nat) (o : DpOut) : (s.putOut i o).pages = s.pages := rfl
@[simp] theorem State.putOut_regs (s : State) (i : Nat) (o : DpOut) : (s.putOut i o).regs = s.regs := rfl
@[simp] theorem State.putOut_latch (s : State) (i : Nat) (o : DpOut) : (s.putOut i o).latch = s.latch := rfl
@[simp] theorem State.putOut_mem (s : State) (i : Nat) (o : DpOut) : (s.putOut i o).mem = s.mem := rfl
@[simp] theorem State.putOut_hostMem (s : State) (i : Nat) (o : DpOut) : (s.putOut i o).hostMem = s.hostMem := rfl
@[simp] theorem State.putOut_badWords (s : State) (i : Nat) (o : DpOut) : (s.putOut i o).badWords = s.badWords := rfl
@[simp] theorem State.putOut_softWords (s : State) (i : Nat) (o : DpOut) : (s.putOut i o).softWords = s.softWords := rfl
@[simp] theorem State.putOut_insole (s : State) (i : Nat) (o : DpOut) : (s.putOut i o).insole = s.insole := rfl
@[simp] theorem State.putOut_protEff (s : State) (i : Nat) (o : DpOut) : (s.putOut i o).protEff = s.protEff := rfl
@[simp] theorem State.putOut_me (s : State) (i : Nat) (o : DpOut) : (s.putOut i o).me = s.me := rfl
@[simp] theorem State.putOut_ingest (s : State) (i : Nat) (o : DpOut) : (s.putOut i o).ingest = s.ingest := rfl
@[simp] theorem State.putOut_raster (s : State) (i : Nat) (o : DpOut) : (s.putOut i o).raster = s.raster := rfl
@[simp] theorem State.putOut_disp (s : State) (i : Nat) (o : DpOut) : (s.putOut i o).disp = s.disp := rfl
@[simp] theorem State.putOut_traceGap (s : State) (i : Nat) (o : DpOut) : (s.putOut i o).traceGap = s.traceGap := rfl
@[simp] theorem State.putOut_log (s : State) (i : Nat) (o : DpOut) : (s.putOut i o).log = s.log := rfl
@[simp] theorem State.putOut_readData (s : State) (i : Nat) (o : DpOut) : (s.putOut i o).readData = s.readData := rfl
@[simp] theorem State.putOut_pins (s : State) (i : Nat) (o : DpOut) : (s.putOut i o).pins = s.pins := rfl
@[simp] theorem State.putOut_bw (s : State) (i : Nat) (o : DpOut) : (s.putOut i o).bw = s.bw := rfl
@[simp] theorem State.putOut_pwr (s : State) (i : Nat) (o : DpOut) : (s.putOut i o).pwr = s.pwr := rfl
@[simp] theorem State.putOut_boot (s : State) (i : Nat) (o : DpOut) : (s.putOut i o).boot = s.boot := rfl
@[simp] theorem State.putOut_welt (s : State) (i : Nat) (o : DpOut) : (s.putOut i o).welt = s.welt := rfl
@[simp] theorem State.putOut_refresh (s : State) (i : Nat) (o : DpOut) : (s.putOut i o).refresh = s.refresh := rfl
@[simp] theorem State.putOut_cairn (s : State) (i : Nat) (o : DpOut) : (s.putOut i o).cairn = s.cairn := rfl
@[simp] theorem State.putOut_ctrs (s : State) (i : Nat) (o : DpOut) : (s.putOut i o).ctrs = s.ctrs := rfl
@[simp] theorem State.putOut_snaps (s : State) (i : Nat) (o : DpOut) : (s.putOut i o).snaps = s.snaps := rfl
@[simp] theorem State.putOut_dbg (s : State) (i : Nat) (o : DpOut) : (s.putOut i o).dbg = s.dbg := rfl
@[simp] theorem State.putOut_lastFw (s : State) (i : Nat) (o : DpOut) : (s.putOut i o).lastFw = s.lastFw := rfl
@[simp] theorem State.putOut_traceFill (s : State) (i : Nat) (o : DpOut) : (s.putOut i o).traceFill = s.traceFill := rfl
@[simp] theorem State.putOut_traceAt (s : State) (i : Nat) (o : DpOut) : (s.putOut i o).traceAt = s.traceAt := rfl
@[simp] theorem State.putOut_sleeping (s : State) (i : Nat) (o : DpOut) : (s.putOut i o).sleeping = s.sleeping := rfl
@[simp] theorem State.putOut_issue (s : State) (i : Nat) (o : DpOut) : (s.putOut i o).issue = s.issue := rfl
@[simp] theorem State.putOut_timeFrac (s : State) (i : Nat) (o : DpOut) : (s.putOut i o).timeFrac = s.timeFrac := rfl

/-! `putChannel` -/

@[simp] theorem State.putChannel_pending (s : State) (k : Nat) (c : DmaChannel) : (s.putChannel k c).pending = s.pending := rfl
@[simp] theorem State.putChannel_part (s : State) (k : Nat) (c : DmaChannel) : (s.putChannel k c).part = s.part := rfl
@[simp] theorem State.putChannel_now (s : State) (k : Nat) (c : DmaChannel) : (s.putChannel k c).now = s.now := rfl
@[simp] theorem State.putChannel_freeCount (s : State) (k : Nat) (c : DmaChannel) : (s.putChannel k c).freeCount = s.freeCount := rfl
@[simp] theorem State.putChannel_devState (s : State) (k : Nat) (c : DmaChannel) : (s.putChannel k c).devState = s.devState := rfl
@[simp] theorem State.putChannel_holdCauses (s : State) (k : Nat) (c : DmaChannel) : (s.putChannel k c).holdCauses = s.holdCauses := rfl
@[simp] theorem State.putChannel_cdLost (s : State) (k : Nat) (c : DmaChannel) : (s.putChannel k c).cdLost = s.cdLost := rfl
@[simp] theorem State.putChannel_mdLost (s : State) (k : Nat) (c : DmaChannel) : (s.putChannel k c).mdLost = s.mdLost := rfl
@[simp] theorem State.putChannel_cmds (s : State) (k : Nat) (c : DmaChannel) : (s.putChannel k c).cmds = s.cmds := rfl
@[simp] theorem State.putChannel_nextUid (s : State) (k : Nat) (c : DmaChannel) : (s.putChannel k c).nextUid = s.nextUid := rfl
@[simp] theorem State.putChannel_steps (s : State) (k : Nat) (c : DmaChannel) : (s.putChannel k c).steps = s.steps := rfl
@[simp] theorem State.putChannel_groups (s : State) (k : Nat) (c : DmaChannel) : (s.putChannel k c).groups = s.groups := rfl
@[simp] theorem State.putChannel_fetches (s : State) (k : Nat) (c : DmaChannel) : (s.putChannel k c).fetches = s.fetches := rfl
@[simp] theorem State.putChannel_colls (s : State) (k : Nat) (c : DmaChannel) : (s.putChannel k c).colls = s.colls := rfl
@[simp] theorem State.putChannel_jobs (s : State) (k : Nat) (c : DmaChannel) : (s.putChannel k c).jobs = s.jobs := rfl
@[simp] theorem State.putChannel_engines (s : State) (k : Nat) (c : DmaChannel) : (s.putChannel k c).engines = s.engines := rfl
@[simp] theorem State.putChannel_flags (s : State) (k : Nat) (c : DmaChannel) : (s.putChannel k c).flags = s.flags := rfl
@[simp] theorem State.putChannel_windows (s : State) (k : Nat) (c : DmaChannel) : (s.putChannel k c).windows = s.windows := rfl
@[simp] theorem State.putChannel_saveBase (s : State) (k : Nat) (c : DmaChannel) : (s.putChannel k c).saveBase = s.saveBase := rfl
@[simp] theorem State.putChannel_apts (s : State) (k : Nat) (c : DmaChannel) : (s.putChannel k c).apts = s.apts := rfl
@[simp] theorem State.putChannel_aptSlots (s : State) (k : Nat) (c : DmaChannel) : (s.putChannel k c).aptSlots = s.aptSlots := rfl
@[simp] theorem State.putChannel_rings (s : State) (k : Nat) (c : DmaChannel) : (s.putChannel k c).rings = s.rings := rfl
@[simp] theorem State.putChannel_waiting (s : State) (k : Nat) (c : DmaChannel) : (s.putChannel k c).waiting = s.waiting := rfl
@[simp] theorem State.putChannel_backlog (s : State) (k : Nat) (c : DmaChannel) : (s.putChannel k c).backlog = s.backlog := rfl
@[simp] theorem State.putChannel_link (s : State) (k : Nat) (c : DmaChannel) : (s.putChannel k c).link = s.link := rfl
@[simp] theorem State.putChannel_msix (s : State) (k : Nat) (c : DmaChannel) : (s.putChannel k c).msix = s.msix := rfl
@[simp] theorem State.putChannel_stopped (s : State) (k : Nat) (c : DmaChannel) : (s.putChannel k c).stopped = s.stopped := rfl
@[simp] theorem State.putChannel_resetPending (s : State) (k : Nat) (c : DmaChannel) : (s.putChannel k c).resetPending = s.resetPending := rfl
@[simp] theorem State.putChannel_pages (s : State) (k : Nat) (c : DmaChannel) : (s.putChannel k c).pages = s.pages := rfl
@[simp] theorem State.putChannel_regs (s : State) (k : Nat) (c : DmaChannel) : (s.putChannel k c).regs = s.regs := rfl
@[simp] theorem State.putChannel_latch (s : State) (k : Nat) (c : DmaChannel) : (s.putChannel k c).latch = s.latch := rfl
@[simp] theorem State.putChannel_mem (s : State) (k : Nat) (c : DmaChannel) : (s.putChannel k c).mem = s.mem := rfl
@[simp] theorem State.putChannel_hostMem (s : State) (k : Nat) (c : DmaChannel) : (s.putChannel k c).hostMem = s.hostMem := rfl
@[simp] theorem State.putChannel_badWords (s : State) (k : Nat) (c : DmaChannel) : (s.putChannel k c).badWords = s.badWords := rfl
@[simp] theorem State.putChannel_softWords (s : State) (k : Nat) (c : DmaChannel) : (s.putChannel k c).softWords = s.softWords := rfl
@[simp] theorem State.putChannel_insole (s : State) (k : Nat) (c : DmaChannel) : (s.putChannel k c).insole = s.insole := rfl
@[simp] theorem State.putChannel_protEff (s : State) (k : Nat) (c : DmaChannel) : (s.putChannel k c).protEff = s.protEff := rfl
@[simp] theorem State.putChannel_me (s : State) (k : Nat) (c : DmaChannel) : (s.putChannel k c).me = s.me := rfl
@[simp] theorem State.putChannel_ingest (s : State) (k : Nat) (c : DmaChannel) : (s.putChannel k c).ingest = s.ingest := rfl
@[simp] theorem State.putChannel_raster (s : State) (k : Nat) (c : DmaChannel) : (s.putChannel k c).raster = s.raster := rfl
@[simp] theorem State.putChannel_disp (s : State) (k : Nat) (c : DmaChannel) : (s.putChannel k c).disp = s.disp := rfl
@[simp] theorem State.putChannel_outs (s : State) (k : Nat) (c : DmaChannel) : (s.putChannel k c).outs = s.outs := rfl
@[simp] theorem State.putChannel_traceGap (s : State) (k : Nat) (c : DmaChannel) : (s.putChannel k c).traceGap = s.traceGap := rfl
@[simp] theorem State.putChannel_log (s : State) (k : Nat) (c : DmaChannel) : (s.putChannel k c).log = s.log := rfl
@[simp] theorem State.putChannel_readData (s : State) (k : Nat) (c : DmaChannel) : (s.putChannel k c).readData = s.readData := rfl
@[simp] theorem State.putChannel_pins (s : State) (k : Nat) (c : DmaChannel) : (s.putChannel k c).pins = s.pins := rfl
@[simp] theorem State.putChannel_bw (s : State) (k : Nat) (c : DmaChannel) : (s.putChannel k c).bw = s.bw := rfl
@[simp] theorem State.putChannel_pwr (s : State) (k : Nat) (c : DmaChannel) : (s.putChannel k c).pwr = s.pwr := rfl
@[simp] theorem State.putChannel_boot (s : State) (k : Nat) (c : DmaChannel) : (s.putChannel k c).boot = s.boot := rfl
@[simp] theorem State.putChannel_welt (s : State) (k : Nat) (c : DmaChannel) : (s.putChannel k c).welt = s.welt := rfl
@[simp] theorem State.putChannel_refresh (s : State) (k : Nat) (c : DmaChannel) : (s.putChannel k c).refresh = s.refresh := rfl
@[simp] theorem State.putChannel_cairn (s : State) (k : Nat) (c : DmaChannel) : (s.putChannel k c).cairn = s.cairn := rfl
@[simp] theorem State.putChannel_ctrs (s : State) (k : Nat) (c : DmaChannel) : (s.putChannel k c).ctrs = s.ctrs := rfl
@[simp] theorem State.putChannel_snaps (s : State) (k : Nat) (c : DmaChannel) : (s.putChannel k c).snaps = s.snaps := rfl
@[simp] theorem State.putChannel_dbg (s : State) (k : Nat) (c : DmaChannel) : (s.putChannel k c).dbg = s.dbg := rfl
@[simp] theorem State.putChannel_lastFw (s : State) (k : Nat) (c : DmaChannel) : (s.putChannel k c).lastFw = s.lastFw := rfl
@[simp] theorem State.putChannel_traceFill (s : State) (k : Nat) (c : DmaChannel) : (s.putChannel k c).traceFill = s.traceFill := rfl
@[simp] theorem State.putChannel_traceAt (s : State) (k : Nat) (c : DmaChannel) : (s.putChannel k c).traceAt = s.traceAt := rfl
@[simp] theorem State.putChannel_sleeping (s : State) (k : Nat) (c : DmaChannel) : (s.putChannel k c).sleeping = s.sleeping := rfl
@[simp] theorem State.putChannel_issue (s : State) (k : Nat) (c : DmaChannel) : (s.putChannel k c).issue = s.issue := rfl
@[simp] theorem State.putChannel_timeFrac (s : State) (k : Nat) (c : DmaChannel) : (s.putChannel k c).timeFrac = s.timeFrac := rfl

/-! `endCmd` -/

@[simp] theorem State.endCmd_pending (s : State) (uid : Nat) (st : Status) (cause : Nat) : (s.endCmd uid st cause).pending = s.pending := rfl
@[simp] theorem State.endCmd_part (s : State) (uid : Nat) (st : Status) (cause : Nat) : (s.endCmd uid st cause).part = s.part := rfl
@[simp] theorem State.endCmd_now (s : State) (uid : Nat) (st : Status) (cause : Nat) : (s.endCmd uid st cause).now = s.now := rfl
@[simp] theorem State.endCmd_freeCount (s : State) (uid : Nat) (st : Status) (cause : Nat) : (s.endCmd uid st cause).freeCount = s.freeCount := rfl
@[simp] theorem State.endCmd_devState (s : State) (uid : Nat) (st : Status) (cause : Nat) : (s.endCmd uid st cause).devState = s.devState := rfl
@[simp] theorem State.endCmd_holdCauses (s : State) (uid : Nat) (st : Status) (cause : Nat) : (s.endCmd uid st cause).holdCauses = s.holdCauses := rfl
@[simp] theorem State.endCmd_cdLost (s : State) (uid : Nat) (st : Status) (cause : Nat) : (s.endCmd uid st cause).cdLost = s.cdLost := rfl
@[simp] theorem State.endCmd_mdLost (s : State) (uid : Nat) (st : Status) (cause : Nat) : (s.endCmd uid st cause).mdLost = s.mdLost := rfl
@[simp] theorem State.endCmd_nextUid (s : State) (uid : Nat) (st : Status) (cause : Nat) : (s.endCmd uid st cause).nextUid = s.nextUid := rfl
@[simp] theorem State.endCmd_steps (s : State) (uid : Nat) (st : Status) (cause : Nat) : (s.endCmd uid st cause).steps = s.steps := rfl
@[simp] theorem State.endCmd_groups (s : State) (uid : Nat) (st : Status) (cause : Nat) : (s.endCmd uid st cause).groups = s.groups := rfl
@[simp] theorem State.endCmd_fetches (s : State) (uid : Nat) (st : Status) (cause : Nat) : (s.endCmd uid st cause).fetches = s.fetches := rfl
@[simp] theorem State.endCmd_colls (s : State) (uid : Nat) (st : Status) (cause : Nat) : (s.endCmd uid st cause).colls = s.colls := rfl
@[simp] theorem State.endCmd_jobs (s : State) (uid : Nat) (st : Status) (cause : Nat) : (s.endCmd uid st cause).jobs = s.jobs := rfl
@[simp] theorem State.endCmd_engines (s : State) (uid : Nat) (st : Status) (cause : Nat) : (s.endCmd uid st cause).engines = s.engines := rfl
@[simp] theorem State.endCmd_flags (s : State) (uid : Nat) (st : Status) (cause : Nat) : (s.endCmd uid st cause).flags = s.flags := rfl
@[simp] theorem State.endCmd_windows (s : State) (uid : Nat) (st : Status) (cause : Nat) : (s.endCmd uid st cause).windows = s.windows := rfl
@[simp] theorem State.endCmd_saveBase (s : State) (uid : Nat) (st : Status) (cause : Nat) : (s.endCmd uid st cause).saveBase = s.saveBase := rfl
@[simp] theorem State.endCmd_apts (s : State) (uid : Nat) (st : Status) (cause : Nat) : (s.endCmd uid st cause).apts = s.apts := rfl
@[simp] theorem State.endCmd_aptSlots (s : State) (uid : Nat) (st : Status) (cause : Nat) : (s.endCmd uid st cause).aptSlots = s.aptSlots := rfl
@[simp] theorem State.endCmd_rings (s : State) (uid : Nat) (st : Status) (cause : Nat) : (s.endCmd uid st cause).rings = s.rings := rfl
@[simp] theorem State.endCmd_waiting (s : State) (uid : Nat) (st : Status) (cause : Nat) : (s.endCmd uid st cause).waiting = s.waiting := rfl
@[simp] theorem State.endCmd_backlog (s : State) (uid : Nat) (st : Status) (cause : Nat) : (s.endCmd uid st cause).backlog = s.backlog := rfl
@[simp] theorem State.endCmd_link (s : State) (uid : Nat) (st : Status) (cause : Nat) : (s.endCmd uid st cause).link = s.link := rfl
@[simp] theorem State.endCmd_msix (s : State) (uid : Nat) (st : Status) (cause : Nat) : (s.endCmd uid st cause).msix = s.msix := rfl
@[simp] theorem State.endCmd_dma (s : State) (uid : Nat) (st : Status) (cause : Nat) : (s.endCmd uid st cause).dma = s.dma := rfl
@[simp] theorem State.endCmd_stopped (s : State) (uid : Nat) (st : Status) (cause : Nat) : (s.endCmd uid st cause).stopped = s.stopped := rfl
@[simp] theorem State.endCmd_resetPending (s : State) (uid : Nat) (st : Status) (cause : Nat) : (s.endCmd uid st cause).resetPending = s.resetPending := rfl
@[simp] theorem State.endCmd_pages (s : State) (uid : Nat) (st : Status) (cause : Nat) : (s.endCmd uid st cause).pages = s.pages := rfl
@[simp] theorem State.endCmd_regs (s : State) (uid : Nat) (st : Status) (cause : Nat) : (s.endCmd uid st cause).regs = s.regs := rfl
@[simp] theorem State.endCmd_latch (s : State) (uid : Nat) (st : Status) (cause : Nat) : (s.endCmd uid st cause).latch = s.latch := rfl
@[simp] theorem State.endCmd_mem (s : State) (uid : Nat) (st : Status) (cause : Nat) : (s.endCmd uid st cause).mem = s.mem := rfl
@[simp] theorem State.endCmd_hostMem (s : State) (uid : Nat) (st : Status) (cause : Nat) : (s.endCmd uid st cause).hostMem = s.hostMem := rfl
@[simp] theorem State.endCmd_badWords (s : State) (uid : Nat) (st : Status) (cause : Nat) : (s.endCmd uid st cause).badWords = s.badWords := rfl
@[simp] theorem State.endCmd_softWords (s : State) (uid : Nat) (st : Status) (cause : Nat) : (s.endCmd uid st cause).softWords = s.softWords := rfl
@[simp] theorem State.endCmd_insole (s : State) (uid : Nat) (st : Status) (cause : Nat) : (s.endCmd uid st cause).insole = s.insole := rfl
@[simp] theorem State.endCmd_protEff (s : State) (uid : Nat) (st : Status) (cause : Nat) : (s.endCmd uid st cause).protEff = s.protEff := rfl
@[simp] theorem State.endCmd_me (s : State) (uid : Nat) (st : Status) (cause : Nat) : (s.endCmd uid st cause).me = s.me := rfl
@[simp] theorem State.endCmd_ingest (s : State) (uid : Nat) (st : Status) (cause : Nat) : (s.endCmd uid st cause).ingest = s.ingest := rfl
@[simp] theorem State.endCmd_raster (s : State) (uid : Nat) (st : Status) (cause : Nat) : (s.endCmd uid st cause).raster = s.raster := rfl
@[simp] theorem State.endCmd_disp (s : State) (uid : Nat) (st : Status) (cause : Nat) : (s.endCmd uid st cause).disp = s.disp := rfl
@[simp] theorem State.endCmd_outs (s : State) (uid : Nat) (st : Status) (cause : Nat) : (s.endCmd uid st cause).outs = s.outs := rfl
@[simp] theorem State.endCmd_traceGap (s : State) (uid : Nat) (st : Status) (cause : Nat) : (s.endCmd uid st cause).traceGap = s.traceGap := rfl
@[simp] theorem State.endCmd_log (s : State) (uid : Nat) (st : Status) (cause : Nat) : (s.endCmd uid st cause).log = s.log := rfl
@[simp] theorem State.endCmd_readData (s : State) (uid : Nat) (st : Status) (cause : Nat) : (s.endCmd uid st cause).readData = s.readData := rfl
@[simp] theorem State.endCmd_pins (s : State) (uid : Nat) (st : Status) (cause : Nat) : (s.endCmd uid st cause).pins = s.pins := rfl
@[simp] theorem State.endCmd_bw (s : State) (uid : Nat) (st : Status) (cause : Nat) : (s.endCmd uid st cause).bw = s.bw := rfl
@[simp] theorem State.endCmd_pwr (s : State) (uid : Nat) (st : Status) (cause : Nat) : (s.endCmd uid st cause).pwr = s.pwr := rfl
@[simp] theorem State.endCmd_boot (s : State) (uid : Nat) (st : Status) (cause : Nat) : (s.endCmd uid st cause).boot = s.boot := rfl
@[simp] theorem State.endCmd_welt (s : State) (uid : Nat) (st : Status) (cause : Nat) : (s.endCmd uid st cause).welt = s.welt := rfl
@[simp] theorem State.endCmd_refresh (s : State) (uid : Nat) (st : Status) (cause : Nat) : (s.endCmd uid st cause).refresh = s.refresh := rfl
@[simp] theorem State.endCmd_cairn (s : State) (uid : Nat) (st : Status) (cause : Nat) : (s.endCmd uid st cause).cairn = s.cairn := rfl
@[simp] theorem State.endCmd_ctrs (s : State) (uid : Nat) (st : Status) (cause : Nat) : (s.endCmd uid st cause).ctrs = s.ctrs := rfl
@[simp] theorem State.endCmd_snaps (s : State) (uid : Nat) (st : Status) (cause : Nat) : (s.endCmd uid st cause).snaps = s.snaps := rfl
@[simp] theorem State.endCmd_dbg (s : State) (uid : Nat) (st : Status) (cause : Nat) : (s.endCmd uid st cause).dbg = s.dbg := rfl
@[simp] theorem State.endCmd_lastFw (s : State) (uid : Nat) (st : Status) (cause : Nat) : (s.endCmd uid st cause).lastFw = s.lastFw := rfl
@[simp] theorem State.endCmd_traceFill (s : State) (uid : Nat) (st : Status) (cause : Nat) : (s.endCmd uid st cause).traceFill = s.traceFill := rfl
@[simp] theorem State.endCmd_traceAt (s : State) (uid : Nat) (st : Status) (cause : Nat) : (s.endCmd uid st cause).traceAt = s.traceAt := rfl
@[simp] theorem State.endCmd_sleeping (s : State) (uid : Nat) (st : Status) (cause : Nat) : (s.endCmd uid st cause).sleeping = s.sleeping := rfl
@[simp] theorem State.endCmd_issue (s : State) (uid : Nat) (st : Status) (cause : Nat) : (s.endCmd uid st cause).issue = s.issue := rfl
@[simp] theorem State.endCmd_timeFrac (s : State) (uid : Nat) (st : Status) (cause : Nat) : (s.endCmd uid st cause).timeFrac = s.timeFrac := rfl

/-! `endAll` -/

@[simp] theorem State.endAll_pending (s : State) (p : Cmd → Bool) (st : Status) (cause : Nat) : (s.endAll p st cause).pending = s.pending := rfl
@[simp] theorem State.endAll_part (s : State) (p : Cmd → Bool) (st : Status) (cause : Nat) : (s.endAll p st cause).part = s.part := rfl
@[simp] theorem State.endAll_now (s : State) (p : Cmd → Bool) (st : Status) (cause : Nat) : (s.endAll p st cause).now = s.now := rfl
@[simp] theorem State.endAll_freeCount (s : State) (p : Cmd → Bool) (st : Status) (cause : Nat) : (s.endAll p st cause).freeCount = s.freeCount := rfl
@[simp] theorem State.endAll_devState (s : State) (p : Cmd → Bool) (st : Status) (cause : Nat) : (s.endAll p st cause).devState = s.devState := rfl
@[simp] theorem State.endAll_holdCauses (s : State) (p : Cmd → Bool) (st : Status) (cause : Nat) : (s.endAll p st cause).holdCauses = s.holdCauses := rfl
@[simp] theorem State.endAll_cdLost (s : State) (p : Cmd → Bool) (st : Status) (cause : Nat) : (s.endAll p st cause).cdLost = s.cdLost := rfl
@[simp] theorem State.endAll_mdLost (s : State) (p : Cmd → Bool) (st : Status) (cause : Nat) : (s.endAll p st cause).mdLost = s.mdLost := rfl
@[simp] theorem State.endAll_nextUid (s : State) (p : Cmd → Bool) (st : Status) (cause : Nat) : (s.endAll p st cause).nextUid = s.nextUid := rfl
@[simp] theorem State.endAll_steps (s : State) (p : Cmd → Bool) (st : Status) (cause : Nat) : (s.endAll p st cause).steps = s.steps := rfl
@[simp] theorem State.endAll_groups (s : State) (p : Cmd → Bool) (st : Status) (cause : Nat) : (s.endAll p st cause).groups = s.groups := rfl
@[simp] theorem State.endAll_fetches (s : State) (p : Cmd → Bool) (st : Status) (cause : Nat) : (s.endAll p st cause).fetches = s.fetches := rfl
@[simp] theorem State.endAll_colls (s : State) (p : Cmd → Bool) (st : Status) (cause : Nat) : (s.endAll p st cause).colls = s.colls := rfl
@[simp] theorem State.endAll_jobs (s : State) (p : Cmd → Bool) (st : Status) (cause : Nat) : (s.endAll p st cause).jobs = s.jobs := rfl
@[simp] theorem State.endAll_engines (s : State) (p : Cmd → Bool) (st : Status) (cause : Nat) : (s.endAll p st cause).engines = s.engines := rfl
@[simp] theorem State.endAll_flags (s : State) (p : Cmd → Bool) (st : Status) (cause : Nat) : (s.endAll p st cause).flags = s.flags := rfl
@[simp] theorem State.endAll_windows (s : State) (p : Cmd → Bool) (st : Status) (cause : Nat) : (s.endAll p st cause).windows = s.windows := rfl
@[simp] theorem State.endAll_saveBase (s : State) (p : Cmd → Bool) (st : Status) (cause : Nat) : (s.endAll p st cause).saveBase = s.saveBase := rfl
@[simp] theorem State.endAll_apts (s : State) (p : Cmd → Bool) (st : Status) (cause : Nat) : (s.endAll p st cause).apts = s.apts := rfl
@[simp] theorem State.endAll_aptSlots (s : State) (p : Cmd → Bool) (st : Status) (cause : Nat) : (s.endAll p st cause).aptSlots = s.aptSlots := rfl
@[simp] theorem State.endAll_rings (s : State) (p : Cmd → Bool) (st : Status) (cause : Nat) : (s.endAll p st cause).rings = s.rings := rfl
@[simp] theorem State.endAll_waiting (s : State) (p : Cmd → Bool) (st : Status) (cause : Nat) : (s.endAll p st cause).waiting = s.waiting := rfl
@[simp] theorem State.endAll_backlog (s : State) (p : Cmd → Bool) (st : Status) (cause : Nat) : (s.endAll p st cause).backlog = s.backlog := rfl
@[simp] theorem State.endAll_link (s : State) (p : Cmd → Bool) (st : Status) (cause : Nat) : (s.endAll p st cause).link = s.link := rfl
@[simp] theorem State.endAll_msix (s : State) (p : Cmd → Bool) (st : Status) (cause : Nat) : (s.endAll p st cause).msix = s.msix := rfl
@[simp] theorem State.endAll_dma (s : State) (p : Cmd → Bool) (st : Status) (cause : Nat) : (s.endAll p st cause).dma = s.dma := rfl
@[simp] theorem State.endAll_stopped (s : State) (p : Cmd → Bool) (st : Status) (cause : Nat) : (s.endAll p st cause).stopped = s.stopped := rfl
@[simp] theorem State.endAll_resetPending (s : State) (p : Cmd → Bool) (st : Status) (cause : Nat) : (s.endAll p st cause).resetPending = s.resetPending := rfl
@[simp] theorem State.endAll_pages (s : State) (p : Cmd → Bool) (st : Status) (cause : Nat) : (s.endAll p st cause).pages = s.pages := rfl
@[simp] theorem State.endAll_regs (s : State) (p : Cmd → Bool) (st : Status) (cause : Nat) : (s.endAll p st cause).regs = s.regs := rfl
@[simp] theorem State.endAll_latch (s : State) (p : Cmd → Bool) (st : Status) (cause : Nat) : (s.endAll p st cause).latch = s.latch := rfl
@[simp] theorem State.endAll_mem (s : State) (p : Cmd → Bool) (st : Status) (cause : Nat) : (s.endAll p st cause).mem = s.mem := rfl
@[simp] theorem State.endAll_hostMem (s : State) (p : Cmd → Bool) (st : Status) (cause : Nat) : (s.endAll p st cause).hostMem = s.hostMem := rfl
@[simp] theorem State.endAll_badWords (s : State) (p : Cmd → Bool) (st : Status) (cause : Nat) : (s.endAll p st cause).badWords = s.badWords := rfl
@[simp] theorem State.endAll_softWords (s : State) (p : Cmd → Bool) (st : Status) (cause : Nat) : (s.endAll p st cause).softWords = s.softWords := rfl
@[simp] theorem State.endAll_insole (s : State) (p : Cmd → Bool) (st : Status) (cause : Nat) : (s.endAll p st cause).insole = s.insole := rfl
@[simp] theorem State.endAll_protEff (s : State) (p : Cmd → Bool) (st : Status) (cause : Nat) : (s.endAll p st cause).protEff = s.protEff := rfl
@[simp] theorem State.endAll_me (s : State) (p : Cmd → Bool) (st : Status) (cause : Nat) : (s.endAll p st cause).me = s.me := rfl
@[simp] theorem State.endAll_ingest (s : State) (p : Cmd → Bool) (st : Status) (cause : Nat) : (s.endAll p st cause).ingest = s.ingest := rfl
@[simp] theorem State.endAll_raster (s : State) (p : Cmd → Bool) (st : Status) (cause : Nat) : (s.endAll p st cause).raster = s.raster := rfl
@[simp] theorem State.endAll_disp (s : State) (p : Cmd → Bool) (st : Status) (cause : Nat) : (s.endAll p st cause).disp = s.disp := rfl
@[simp] theorem State.endAll_outs (s : State) (p : Cmd → Bool) (st : Status) (cause : Nat) : (s.endAll p st cause).outs = s.outs := rfl
@[simp] theorem State.endAll_traceGap (s : State) (p : Cmd → Bool) (st : Status) (cause : Nat) : (s.endAll p st cause).traceGap = s.traceGap := rfl
@[simp] theorem State.endAll_log (s : State) (p : Cmd → Bool) (st : Status) (cause : Nat) : (s.endAll p st cause).log = s.log := rfl
@[simp] theorem State.endAll_readData (s : State) (p : Cmd → Bool) (st : Status) (cause : Nat) : (s.endAll p st cause).readData = s.readData := rfl
@[simp] theorem State.endAll_pins (s : State) (p : Cmd → Bool) (st : Status) (cause : Nat) : (s.endAll p st cause).pins = s.pins := rfl
@[simp] theorem State.endAll_bw (s : State) (p : Cmd → Bool) (st : Status) (cause : Nat) : (s.endAll p st cause).bw = s.bw := rfl
@[simp] theorem State.endAll_pwr (s : State) (p : Cmd → Bool) (st : Status) (cause : Nat) : (s.endAll p st cause).pwr = s.pwr := rfl
@[simp] theorem State.endAll_boot (s : State) (p : Cmd → Bool) (st : Status) (cause : Nat) : (s.endAll p st cause).boot = s.boot := rfl
@[simp] theorem State.endAll_welt (s : State) (p : Cmd → Bool) (st : Status) (cause : Nat) : (s.endAll p st cause).welt = s.welt := rfl
@[simp] theorem State.endAll_refresh (s : State) (p : Cmd → Bool) (st : Status) (cause : Nat) : (s.endAll p st cause).refresh = s.refresh := rfl
@[simp] theorem State.endAll_cairn (s : State) (p : Cmd → Bool) (st : Status) (cause : Nat) : (s.endAll p st cause).cairn = s.cairn := rfl
@[simp] theorem State.endAll_ctrs (s : State) (p : Cmd → Bool) (st : Status) (cause : Nat) : (s.endAll p st cause).ctrs = s.ctrs := rfl
@[simp] theorem State.endAll_snaps (s : State) (p : Cmd → Bool) (st : Status) (cause : Nat) : (s.endAll p st cause).snaps = s.snaps := rfl
@[simp] theorem State.endAll_dbg (s : State) (p : Cmd → Bool) (st : Status) (cause : Nat) : (s.endAll p st cause).dbg = s.dbg := rfl
@[simp] theorem State.endAll_lastFw (s : State) (p : Cmd → Bool) (st : Status) (cause : Nat) : (s.endAll p st cause).lastFw = s.lastFw := rfl
@[simp] theorem State.endAll_traceFill (s : State) (p : Cmd → Bool) (st : Status) (cause : Nat) : (s.endAll p st cause).traceFill = s.traceFill := rfl
@[simp] theorem State.endAll_traceAt (s : State) (p : Cmd → Bool) (st : Status) (cause : Nat) : (s.endAll p st cause).traceAt = s.traceAt := rfl
@[simp] theorem State.endAll_sleeping (s : State) (p : Cmd → Bool) (st : Status) (cause : Nat) : (s.endAll p st cause).sleeping = s.sleeping := rfl
@[simp] theorem State.endAll_issue (s : State) (p : Cmd → Bool) (st : Status) (cause : Nat) : (s.endAll p st cause).issue = s.issue := rfl
@[simp] theorem State.endAll_timeFrac (s : State) (p : Cmd → Bool) (st : Status) (cause : Nat) : (s.endAll p st cause).timeFrac = s.timeFrac := rfl

/-! `track` -/

@[simp] theorem State.track_pending (s : State) : (s.track).pending = s.pending := rfl
@[simp] theorem State.track_part (s : State) : (s.track).part = s.part := rfl
@[simp] theorem State.track_now (s : State) : (s.track).now = s.now := rfl
@[simp] theorem State.track_freeCount (s : State) : (s.track).freeCount = s.freeCount := rfl
@[simp] theorem State.track_devState (s : State) : (s.track).devState = s.devState := rfl
@[simp] theorem State.track_holdCauses (s : State) : (s.track).holdCauses = s.holdCauses := rfl
@[simp] theorem State.track_cdLost (s : State) : (s.track).cdLost = s.cdLost := rfl
@[simp] theorem State.track_mdLost (s : State) : (s.track).mdLost = s.mdLost := rfl
@[simp] theorem State.track_cmds (s : State) : (s.track).cmds = s.cmds := rfl
@[simp] theorem State.track_nextUid (s : State) : (s.track).nextUid = s.nextUid := rfl
@[simp] theorem State.track_steps (s : State) : (s.track).steps = s.steps := rfl
@[simp] theorem State.track_groups (s : State) : (s.track).groups = s.groups := rfl
@[simp] theorem State.track_fetches (s : State) : (s.track).fetches = s.fetches := rfl
@[simp] theorem State.track_colls (s : State) : (s.track).colls = s.colls := rfl
@[simp] theorem State.track_jobs (s : State) : (s.track).jobs = s.jobs := rfl
@[simp] theorem State.track_flags (s : State) : (s.track).flags = s.flags := rfl
@[simp] theorem State.track_windows (s : State) : (s.track).windows = s.windows := rfl
@[simp] theorem State.track_saveBase (s : State) : (s.track).saveBase = s.saveBase := rfl
@[simp] theorem State.track_apts (s : State) : (s.track).apts = s.apts := rfl
@[simp] theorem State.track_aptSlots (s : State) : (s.track).aptSlots = s.aptSlots := rfl
@[simp] theorem State.track_rings (s : State) : (s.track).rings = s.rings := rfl
@[simp] theorem State.track_waiting (s : State) : (s.track).waiting = s.waiting := rfl
@[simp] theorem State.track_backlog (s : State) : (s.track).backlog = s.backlog := rfl
@[simp] theorem State.track_link (s : State) : (s.track).link = s.link := rfl
@[simp] theorem State.track_msix (s : State) : (s.track).msix = s.msix := rfl
@[simp] theorem State.track_dma (s : State) : (s.track).dma = s.dma := rfl
@[simp] theorem State.track_stopped (s : State) : (s.track).stopped = s.stopped := rfl
@[simp] theorem State.track_resetPending (s : State) : (s.track).resetPending = s.resetPending := rfl
@[simp] theorem State.track_pages (s : State) : (s.track).pages = s.pages := rfl
@[simp] theorem State.track_regs (s : State) : (s.track).regs = s.regs := rfl
@[simp] theorem State.track_latch (s : State) : (s.track).latch = s.latch := rfl
@[simp] theorem State.track_mem (s : State) : (s.track).mem = s.mem := rfl
@[simp] theorem State.track_hostMem (s : State) : (s.track).hostMem = s.hostMem := rfl
@[simp] theorem State.track_badWords (s : State) : (s.track).badWords = s.badWords := rfl
@[simp] theorem State.track_softWords (s : State) : (s.track).softWords = s.softWords := rfl
@[simp] theorem State.track_insole (s : State) : (s.track).insole = s.insole := rfl
@[simp] theorem State.track_protEff (s : State) : (s.track).protEff = s.protEff := rfl
@[simp] theorem State.track_me (s : State) : (s.track).me = s.me := rfl
@[simp] theorem State.track_ingest (s : State) : (s.track).ingest = s.ingest := rfl
@[simp] theorem State.track_raster (s : State) : (s.track).raster = s.raster := rfl
@[simp] theorem State.track_disp (s : State) : (s.track).disp = s.disp := rfl
@[simp] theorem State.track_outs (s : State) : (s.track).outs = s.outs := rfl
@[simp] theorem State.track_traceGap (s : State) : (s.track).traceGap = s.traceGap := rfl
@[simp] theorem State.track_log (s : State) : (s.track).log = s.log := rfl
@[simp] theorem State.track_readData (s : State) : (s.track).readData = s.readData := rfl
@[simp] theorem State.track_pins (s : State) : (s.track).pins = s.pins := rfl
@[simp] theorem State.track_bw (s : State) : (s.track).bw = s.bw := rfl
@[simp] theorem State.track_pwr (s : State) : (s.track).pwr = s.pwr := rfl
@[simp] theorem State.track_boot (s : State) : (s.track).boot = s.boot := rfl
@[simp] theorem State.track_welt (s : State) : (s.track).welt = s.welt := rfl
@[simp] theorem State.track_refresh (s : State) : (s.track).refresh = s.refresh := rfl
@[simp] theorem State.track_cairn (s : State) : (s.track).cairn = s.cairn := rfl
@[simp] theorem State.track_ctrs (s : State) : (s.track).ctrs = s.ctrs := rfl
@[simp] theorem State.track_snaps (s : State) : (s.track).snaps = s.snaps := rfl
@[simp] theorem State.track_dbg (s : State) : (s.track).dbg = s.dbg := rfl
@[simp] theorem State.track_lastFw (s : State) : (s.track).lastFw = s.lastFw := rfl
@[simp] theorem State.track_traceFill (s : State) : (s.track).traceFill = s.traceFill := rfl
@[simp] theorem State.track_traceAt (s : State) : (s.track).traceAt = s.traceAt := rfl
@[simp] theorem State.track_sleeping (s : State) : (s.track).sleeping = s.sleeping := rfl
@[simp] theorem State.track_issue (s : State) : (s.track).issue = s.issue := rfl
@[simp] theorem State.track_timeFrac (s : State) : (s.track).timeFrac = s.timeFrac := rfl

/-! `at` -/

@[simp] theorem State.at_pending (s : State) (due : Nat) : (s.at due).pending = s.pending := by unfold State.at; split <;> rfl
@[simp] theorem State.at_part (s : State) (due : Nat) : (s.at due).part = s.part := by unfold State.at; split <;> rfl
@[simp] theorem State.at_freeCount (s : State) (due : Nat) : (s.at due).freeCount = s.freeCount := by unfold State.at; split <;> rfl
@[simp] theorem State.at_devState (s : State) (due : Nat) : (s.at due).devState = s.devState := by unfold State.at; split <;> rfl
@[simp] theorem State.at_holdCauses (s : State) (due : Nat) : (s.at due).holdCauses = s.holdCauses := by unfold State.at; split <;> rfl
@[simp] theorem State.at_cdLost (s : State) (due : Nat) : (s.at due).cdLost = s.cdLost := by unfold State.at; split <;> rfl
@[simp] theorem State.at_mdLost (s : State) (due : Nat) : (s.at due).mdLost = s.mdLost := by unfold State.at; split <;> rfl
@[simp] theorem State.at_cmds (s : State) (due : Nat) : (s.at due).cmds = s.cmds := by unfold State.at; split <;> rfl
@[simp] theorem State.at_nextUid (s : State) (due : Nat) : (s.at due).nextUid = s.nextUid := by unfold State.at; split <;> rfl
@[simp] theorem State.at_steps (s : State) (due : Nat) : (s.at due).steps = s.steps := by unfold State.at; split <;> rfl
@[simp] theorem State.at_groups (s : State) (due : Nat) : (s.at due).groups = s.groups := by unfold State.at; split <;> rfl
@[simp] theorem State.at_fetches (s : State) (due : Nat) : (s.at due).fetches = s.fetches := by unfold State.at; split <;> rfl
@[simp] theorem State.at_colls (s : State) (due : Nat) : (s.at due).colls = s.colls := by unfold State.at; split <;> rfl
@[simp] theorem State.at_jobs (s : State) (due : Nat) : (s.at due).jobs = s.jobs := by unfold State.at; split <;> rfl
@[simp] theorem State.at_engines (s : State) (due : Nat) : (s.at due).engines = s.engines := by unfold State.at; split <;> rfl
@[simp] theorem State.at_flags (s : State) (due : Nat) : (s.at due).flags = s.flags := by unfold State.at; split <;> rfl
@[simp] theorem State.at_windows (s : State) (due : Nat) : (s.at due).windows = s.windows := by unfold State.at; split <;> rfl
@[simp] theorem State.at_saveBase (s : State) (due : Nat) : (s.at due).saveBase = s.saveBase := by unfold State.at; split <;> rfl
@[simp] theorem State.at_apts (s : State) (due : Nat) : (s.at due).apts = s.apts := by unfold State.at; split <;> rfl
@[simp] theorem State.at_aptSlots (s : State) (due : Nat) : (s.at due).aptSlots = s.aptSlots := by unfold State.at; split <;> rfl
@[simp] theorem State.at_rings (s : State) (due : Nat) : (s.at due).rings = s.rings := by unfold State.at; split <;> rfl
@[simp] theorem State.at_waiting (s : State) (due : Nat) : (s.at due).waiting = s.waiting := by unfold State.at; split <;> rfl
@[simp] theorem State.at_backlog (s : State) (due : Nat) : (s.at due).backlog = s.backlog := by unfold State.at; split <;> rfl
@[simp] theorem State.at_link (s : State) (due : Nat) : (s.at due).link = s.link := by unfold State.at; split <;> rfl
@[simp] theorem State.at_msix (s : State) (due : Nat) : (s.at due).msix = s.msix := by unfold State.at; split <;> rfl
@[simp] theorem State.at_dma (s : State) (due : Nat) : (s.at due).dma = s.dma := by unfold State.at; split <;> rfl
@[simp] theorem State.at_stopped (s : State) (due : Nat) : (s.at due).stopped = s.stopped := by unfold State.at; split <;> rfl
@[simp] theorem State.at_resetPending (s : State) (due : Nat) : (s.at due).resetPending = s.resetPending := by unfold State.at; split <;> rfl
@[simp] theorem State.at_pages (s : State) (due : Nat) : (s.at due).pages = s.pages := by unfold State.at; split <;> rfl
@[simp] theorem State.at_regs (s : State) (due : Nat) : (s.at due).regs = s.regs := by unfold State.at; split <;> rfl
@[simp] theorem State.at_latch (s : State) (due : Nat) : (s.at due).latch = s.latch := by unfold State.at; split <;> rfl
@[simp] theorem State.at_mem (s : State) (due : Nat) : (s.at due).mem = s.mem := by unfold State.at; split <;> rfl
@[simp] theorem State.at_hostMem (s : State) (due : Nat) : (s.at due).hostMem = s.hostMem := by unfold State.at; split <;> rfl
@[simp] theorem State.at_badWords (s : State) (due : Nat) : (s.at due).badWords = s.badWords := by unfold State.at; split <;> rfl
@[simp] theorem State.at_softWords (s : State) (due : Nat) : (s.at due).softWords = s.softWords := by unfold State.at; split <;> rfl
@[simp] theorem State.at_insole (s : State) (due : Nat) : (s.at due).insole = s.insole := by unfold State.at; split <;> rfl
@[simp] theorem State.at_protEff (s : State) (due : Nat) : (s.at due).protEff = s.protEff := by unfold State.at; split <;> rfl
@[simp] theorem State.at_me (s : State) (due : Nat) : (s.at due).me = s.me := by unfold State.at; split <;> rfl
@[simp] theorem State.at_ingest (s : State) (due : Nat) : (s.at due).ingest = s.ingest := by unfold State.at; split <;> rfl
@[simp] theorem State.at_raster (s : State) (due : Nat) : (s.at due).raster = s.raster := by unfold State.at; split <;> rfl
@[simp] theorem State.at_disp (s : State) (due : Nat) : (s.at due).disp = s.disp := by unfold State.at; split <;> rfl
@[simp] theorem State.at_outs (s : State) (due : Nat) : (s.at due).outs = s.outs := by unfold State.at; split <;> rfl
@[simp] theorem State.at_traceGap (s : State) (due : Nat) : (s.at due).traceGap = s.traceGap := by unfold State.at; split <;> rfl
@[simp] theorem State.at_log (s : State) (due : Nat) : (s.at due).log = s.log := by unfold State.at; split <;> rfl
@[simp] theorem State.at_readData (s : State) (due : Nat) : (s.at due).readData = s.readData := by unfold State.at; split <;> rfl
@[simp] theorem State.at_pins (s : State) (due : Nat) : (s.at due).pins = s.pins := by unfold State.at; split <;> rfl
@[simp] theorem State.at_bw (s : State) (due : Nat) : (s.at due).bw = s.bw := by unfold State.at; split <;> rfl
@[simp] theorem State.at_pwr (s : State) (due : Nat) : (s.at due).pwr = s.pwr := by unfold State.at; split <;> rfl
@[simp] theorem State.at_boot (s : State) (due : Nat) : (s.at due).boot = s.boot := by unfold State.at; split <;> rfl
@[simp] theorem State.at_welt (s : State) (due : Nat) : (s.at due).welt = s.welt := by unfold State.at; split <;> rfl
@[simp] theorem State.at_refresh (s : State) (due : Nat) : (s.at due).refresh = s.refresh := by unfold State.at; split <;> rfl
@[simp] theorem State.at_cairn (s : State) (due : Nat) : (s.at due).cairn = s.cairn := by unfold State.at; split <;> rfl
@[simp] theorem State.at_ctrs (s : State) (due : Nat) : (s.at due).ctrs = s.ctrs := by unfold State.at; split <;> rfl
@[simp] theorem State.at_snaps (s : State) (due : Nat) : (s.at due).snaps = s.snaps := by unfold State.at; split <;> rfl
@[simp] theorem State.at_dbg (s : State) (due : Nat) : (s.at due).dbg = s.dbg := by unfold State.at; split <;> rfl
@[simp] theorem State.at_lastFw (s : State) (due : Nat) : (s.at due).lastFw = s.lastFw := by unfold State.at; split <;> rfl
@[simp] theorem State.at_traceFill (s : State) (due : Nat) : (s.at due).traceFill = s.traceFill := by unfold State.at; split <;> rfl
@[simp] theorem State.at_traceAt (s : State) (due : Nat) : (s.at due).traceAt = s.traceAt := by unfold State.at; split <;> rfl
@[simp] theorem State.at_sleeping (s : State) (due : Nat) : (s.at due).sleeping = s.sleeping := by unfold State.at; split <;> rfl
@[simp] theorem State.at_issue (s : State) (due : Nat) : (s.at due).issue = s.issue := by unfold State.at; split <;> rfl
@[simp] theorem State.at_timeFrac (s : State) (due : Nat) : (s.at due).timeFrac = s.timeFrac := by unfold State.at; split <;> rfl

/-! `shiftOut` -/

@[simp] theorem State.shiftOut_pending (s : State) (ir : Nat) (bs : List Byte) : (s.shiftOut ir bs).pending = s.pending := rfl
@[simp] theorem State.shiftOut_part (s : State) (ir : Nat) (bs : List Byte) : (s.shiftOut ir bs).part = s.part := rfl
@[simp] theorem State.shiftOut_now (s : State) (ir : Nat) (bs : List Byte) : (s.shiftOut ir bs).now = s.now := rfl
@[simp] theorem State.shiftOut_freeCount (s : State) (ir : Nat) (bs : List Byte) : (s.shiftOut ir bs).freeCount = s.freeCount := rfl
@[simp] theorem State.shiftOut_devState (s : State) (ir : Nat) (bs : List Byte) : (s.shiftOut ir bs).devState = s.devState := rfl
@[simp] theorem State.shiftOut_holdCauses (s : State) (ir : Nat) (bs : List Byte) : (s.shiftOut ir bs).holdCauses = s.holdCauses := rfl
@[simp] theorem State.shiftOut_cdLost (s : State) (ir : Nat) (bs : List Byte) : (s.shiftOut ir bs).cdLost = s.cdLost := rfl
@[simp] theorem State.shiftOut_mdLost (s : State) (ir : Nat) (bs : List Byte) : (s.shiftOut ir bs).mdLost = s.mdLost := rfl
@[simp] theorem State.shiftOut_cmds (s : State) (ir : Nat) (bs : List Byte) : (s.shiftOut ir bs).cmds = s.cmds := rfl
@[simp] theorem State.shiftOut_nextUid (s : State) (ir : Nat) (bs : List Byte) : (s.shiftOut ir bs).nextUid = s.nextUid := rfl
@[simp] theorem State.shiftOut_steps (s : State) (ir : Nat) (bs : List Byte) : (s.shiftOut ir bs).steps = s.steps := rfl
@[simp] theorem State.shiftOut_groups (s : State) (ir : Nat) (bs : List Byte) : (s.shiftOut ir bs).groups = s.groups := rfl
@[simp] theorem State.shiftOut_fetches (s : State) (ir : Nat) (bs : List Byte) : (s.shiftOut ir bs).fetches = s.fetches := rfl
@[simp] theorem State.shiftOut_colls (s : State) (ir : Nat) (bs : List Byte) : (s.shiftOut ir bs).colls = s.colls := rfl
@[simp] theorem State.shiftOut_jobs (s : State) (ir : Nat) (bs : List Byte) : (s.shiftOut ir bs).jobs = s.jobs := rfl
@[simp] theorem State.shiftOut_engines (s : State) (ir : Nat) (bs : List Byte) : (s.shiftOut ir bs).engines = s.engines := rfl
@[simp] theorem State.shiftOut_flags (s : State) (ir : Nat) (bs : List Byte) : (s.shiftOut ir bs).flags = s.flags := rfl
@[simp] theorem State.shiftOut_windows (s : State) (ir : Nat) (bs : List Byte) : (s.shiftOut ir bs).windows = s.windows := rfl
@[simp] theorem State.shiftOut_saveBase (s : State) (ir : Nat) (bs : List Byte) : (s.shiftOut ir bs).saveBase = s.saveBase := rfl
@[simp] theorem State.shiftOut_apts (s : State) (ir : Nat) (bs : List Byte) : (s.shiftOut ir bs).apts = s.apts := rfl
@[simp] theorem State.shiftOut_aptSlots (s : State) (ir : Nat) (bs : List Byte) : (s.shiftOut ir bs).aptSlots = s.aptSlots := rfl
@[simp] theorem State.shiftOut_rings (s : State) (ir : Nat) (bs : List Byte) : (s.shiftOut ir bs).rings = s.rings := rfl
@[simp] theorem State.shiftOut_waiting (s : State) (ir : Nat) (bs : List Byte) : (s.shiftOut ir bs).waiting = s.waiting := rfl
@[simp] theorem State.shiftOut_backlog (s : State) (ir : Nat) (bs : List Byte) : (s.shiftOut ir bs).backlog = s.backlog := rfl
@[simp] theorem State.shiftOut_link (s : State) (ir : Nat) (bs : List Byte) : (s.shiftOut ir bs).link = s.link := rfl
@[simp] theorem State.shiftOut_msix (s : State) (ir : Nat) (bs : List Byte) : (s.shiftOut ir bs).msix = s.msix := rfl
@[simp] theorem State.shiftOut_dma (s : State) (ir : Nat) (bs : List Byte) : (s.shiftOut ir bs).dma = s.dma := rfl
@[simp] theorem State.shiftOut_stopped (s : State) (ir : Nat) (bs : List Byte) : (s.shiftOut ir bs).stopped = s.stopped := rfl
@[simp] theorem State.shiftOut_resetPending (s : State) (ir : Nat) (bs : List Byte) : (s.shiftOut ir bs).resetPending = s.resetPending := rfl
@[simp] theorem State.shiftOut_pages (s : State) (ir : Nat) (bs : List Byte) : (s.shiftOut ir bs).pages = s.pages := rfl
@[simp] theorem State.shiftOut_regs (s : State) (ir : Nat) (bs : List Byte) : (s.shiftOut ir bs).regs = s.regs := rfl
@[simp] theorem State.shiftOut_latch (s : State) (ir : Nat) (bs : List Byte) : (s.shiftOut ir bs).latch = s.latch := rfl
@[simp] theorem State.shiftOut_mem (s : State) (ir : Nat) (bs : List Byte) : (s.shiftOut ir bs).mem = s.mem := rfl
@[simp] theorem State.shiftOut_hostMem (s : State) (ir : Nat) (bs : List Byte) : (s.shiftOut ir bs).hostMem = s.hostMem := rfl
@[simp] theorem State.shiftOut_badWords (s : State) (ir : Nat) (bs : List Byte) : (s.shiftOut ir bs).badWords = s.badWords := rfl
@[simp] theorem State.shiftOut_softWords (s : State) (ir : Nat) (bs : List Byte) : (s.shiftOut ir bs).softWords = s.softWords := rfl
@[simp] theorem State.shiftOut_insole (s : State) (ir : Nat) (bs : List Byte) : (s.shiftOut ir bs).insole = s.insole := rfl
@[simp] theorem State.shiftOut_protEff (s : State) (ir : Nat) (bs : List Byte) : (s.shiftOut ir bs).protEff = s.protEff := rfl
@[simp] theorem State.shiftOut_me (s : State) (ir : Nat) (bs : List Byte) : (s.shiftOut ir bs).me = s.me := rfl
@[simp] theorem State.shiftOut_ingest (s : State) (ir : Nat) (bs : List Byte) : (s.shiftOut ir bs).ingest = s.ingest := rfl
@[simp] theorem State.shiftOut_raster (s : State) (ir : Nat) (bs : List Byte) : (s.shiftOut ir bs).raster = s.raster := rfl
@[simp] theorem State.shiftOut_disp (s : State) (ir : Nat) (bs : List Byte) : (s.shiftOut ir bs).disp = s.disp := rfl
@[simp] theorem State.shiftOut_outs (s : State) (ir : Nat) (bs : List Byte) : (s.shiftOut ir bs).outs = s.outs := rfl
@[simp] theorem State.shiftOut_traceGap (s : State) (ir : Nat) (bs : List Byte) : (s.shiftOut ir bs).traceGap = s.traceGap := rfl
@[simp] theorem State.shiftOut_log (s : State) (ir : Nat) (bs : List Byte) : (s.shiftOut ir bs).log = s.log := rfl
@[simp] theorem State.shiftOut_readData (s : State) (ir : Nat) (bs : List Byte) : (s.shiftOut ir bs).readData = s.readData := rfl
@[simp] theorem State.shiftOut_pins (s : State) (ir : Nat) (bs : List Byte) : (s.shiftOut ir bs).pins = s.pins := rfl
@[simp] theorem State.shiftOut_bw (s : State) (ir : Nat) (bs : List Byte) : (s.shiftOut ir bs).bw = s.bw := rfl
@[simp] theorem State.shiftOut_pwr (s : State) (ir : Nat) (bs : List Byte) : (s.shiftOut ir bs).pwr = s.pwr := rfl
@[simp] theorem State.shiftOut_boot (s : State) (ir : Nat) (bs : List Byte) : (s.shiftOut ir bs).boot = s.boot := rfl
@[simp] theorem State.shiftOut_welt (s : State) (ir : Nat) (bs : List Byte) : (s.shiftOut ir bs).welt = s.welt := rfl
@[simp] theorem State.shiftOut_refresh (s : State) (ir : Nat) (bs : List Byte) : (s.shiftOut ir bs).refresh = s.refresh := rfl
@[simp] theorem State.shiftOut_cairn (s : State) (ir : Nat) (bs : List Byte) : (s.shiftOut ir bs).cairn = s.cairn := rfl
@[simp] theorem State.shiftOut_ctrs (s : State) (ir : Nat) (bs : List Byte) : (s.shiftOut ir bs).ctrs = s.ctrs := rfl
@[simp] theorem State.shiftOut_snaps (s : State) (ir : Nat) (bs : List Byte) : (s.shiftOut ir bs).snaps = s.snaps := rfl
@[simp] theorem State.shiftOut_lastFw (s : State) (ir : Nat) (bs : List Byte) : (s.shiftOut ir bs).lastFw = s.lastFw := rfl
@[simp] theorem State.shiftOut_traceFill (s : State) (ir : Nat) (bs : List Byte) : (s.shiftOut ir bs).traceFill = s.traceFill := rfl
@[simp] theorem State.shiftOut_traceAt (s : State) (ir : Nat) (bs : List Byte) : (s.shiftOut ir bs).traceAt = s.traceAt := rfl
@[simp] theorem State.shiftOut_sleeping (s : State) (ir : Nat) (bs : List Byte) : (s.shiftOut ir bs).sleeping = s.sleeping := rfl
@[simp] theorem State.shiftOut_issue (s : State) (ir : Nat) (bs : List Byte) : (s.shiftOut ir bs).issue = s.issue := rfl
@[simp] theorem State.shiftOut_timeFrac (s : State) (ir : Nat) (bs : List Byte) : (s.shiftOut ir bs).timeFrac = s.timeFrac := rfl

/-! `clearCause` -/

@[simp] theorem State.clearCause_pending (s : State) (cause : Nat) : (s.clearCause cause).pending = s.pending := rfl
@[simp] theorem State.clearCause_part (s : State) (cause : Nat) : (s.clearCause cause).part = s.part := rfl
@[simp] theorem State.clearCause_now (s : State) (cause : Nat) : (s.clearCause cause).now = s.now := rfl
@[simp] theorem State.clearCause_freeCount (s : State) (cause : Nat) : (s.clearCause cause).freeCount = s.freeCount := rfl
@[simp] theorem State.clearCause_devState (s : State) (cause : Nat) : (s.clearCause cause).devState = s.devState := rfl
@[simp] theorem State.clearCause_cdLost (s : State) (cause : Nat) : (s.clearCause cause).cdLost = s.cdLost := rfl
@[simp] theorem State.clearCause_mdLost (s : State) (cause : Nat) : (s.clearCause cause).mdLost = s.mdLost := rfl
@[simp] theorem State.clearCause_cmds (s : State) (cause : Nat) : (s.clearCause cause).cmds = s.cmds := rfl
@[simp] theorem State.clearCause_nextUid (s : State) (cause : Nat) : (s.clearCause cause).nextUid = s.nextUid := rfl
@[simp] theorem State.clearCause_steps (s : State) (cause : Nat) : (s.clearCause cause).steps = s.steps := rfl
@[simp] theorem State.clearCause_groups (s : State) (cause : Nat) : (s.clearCause cause).groups = s.groups := rfl
@[simp] theorem State.clearCause_fetches (s : State) (cause : Nat) : (s.clearCause cause).fetches = s.fetches := rfl
@[simp] theorem State.clearCause_colls (s : State) (cause : Nat) : (s.clearCause cause).colls = s.colls := rfl
@[simp] theorem State.clearCause_jobs (s : State) (cause : Nat) : (s.clearCause cause).jobs = s.jobs := rfl
@[simp] theorem State.clearCause_engines (s : State) (cause : Nat) : (s.clearCause cause).engines = s.engines := rfl
@[simp] theorem State.clearCause_flags (s : State) (cause : Nat) : (s.clearCause cause).flags = s.flags := rfl
@[simp] theorem State.clearCause_windows (s : State) (cause : Nat) : (s.clearCause cause).windows = s.windows := rfl
@[simp] theorem State.clearCause_saveBase (s : State) (cause : Nat) : (s.clearCause cause).saveBase = s.saveBase := rfl
@[simp] theorem State.clearCause_apts (s : State) (cause : Nat) : (s.clearCause cause).apts = s.apts := rfl
@[simp] theorem State.clearCause_aptSlots (s : State) (cause : Nat) : (s.clearCause cause).aptSlots = s.aptSlots := rfl
@[simp] theorem State.clearCause_rings (s : State) (cause : Nat) : (s.clearCause cause).rings = s.rings := rfl
@[simp] theorem State.clearCause_waiting (s : State) (cause : Nat) : (s.clearCause cause).waiting = s.waiting := rfl
@[simp] theorem State.clearCause_backlog (s : State) (cause : Nat) : (s.clearCause cause).backlog = s.backlog := rfl
@[simp] theorem State.clearCause_link (s : State) (cause : Nat) : (s.clearCause cause).link = s.link := rfl
@[simp] theorem State.clearCause_msix (s : State) (cause : Nat) : (s.clearCause cause).msix = s.msix := rfl
@[simp] theorem State.clearCause_dma (s : State) (cause : Nat) : (s.clearCause cause).dma = s.dma := rfl
@[simp] theorem State.clearCause_stopped (s : State) (cause : Nat) : (s.clearCause cause).stopped = s.stopped := rfl
@[simp] theorem State.clearCause_resetPending (s : State) (cause : Nat) : (s.clearCause cause).resetPending = s.resetPending := rfl
@[simp] theorem State.clearCause_pages (s : State) (cause : Nat) : (s.clearCause cause).pages = s.pages := rfl
@[simp] theorem State.clearCause_regs (s : State) (cause : Nat) : (s.clearCause cause).regs = s.regs := rfl
@[simp] theorem State.clearCause_latch (s : State) (cause : Nat) : (s.clearCause cause).latch = s.latch := rfl
@[simp] theorem State.clearCause_mem (s : State) (cause : Nat) : (s.clearCause cause).mem = s.mem := rfl
@[simp] theorem State.clearCause_hostMem (s : State) (cause : Nat) : (s.clearCause cause).hostMem = s.hostMem := rfl
@[simp] theorem State.clearCause_badWords (s : State) (cause : Nat) : (s.clearCause cause).badWords = s.badWords := rfl
@[simp] theorem State.clearCause_softWords (s : State) (cause : Nat) : (s.clearCause cause).softWords = s.softWords := rfl
@[simp] theorem State.clearCause_insole (s : State) (cause : Nat) : (s.clearCause cause).insole = s.insole := rfl
@[simp] theorem State.clearCause_protEff (s : State) (cause : Nat) : (s.clearCause cause).protEff = s.protEff := rfl
@[simp] theorem State.clearCause_me (s : State) (cause : Nat) : (s.clearCause cause).me = s.me := rfl
@[simp] theorem State.clearCause_ingest (s : State) (cause : Nat) : (s.clearCause cause).ingest = s.ingest := rfl
@[simp] theorem State.clearCause_raster (s : State) (cause : Nat) : (s.clearCause cause).raster = s.raster := rfl
@[simp] theorem State.clearCause_disp (s : State) (cause : Nat) : (s.clearCause cause).disp = s.disp := rfl
@[simp] theorem State.clearCause_outs (s : State) (cause : Nat) : (s.clearCause cause).outs = s.outs := rfl
@[simp] theorem State.clearCause_traceGap (s : State) (cause : Nat) : (s.clearCause cause).traceGap = s.traceGap := rfl
@[simp] theorem State.clearCause_log (s : State) (cause : Nat) : (s.clearCause cause).log = s.log := rfl
@[simp] theorem State.clearCause_readData (s : State) (cause : Nat) : (s.clearCause cause).readData = s.readData := rfl
@[simp] theorem State.clearCause_pins (s : State) (cause : Nat) : (s.clearCause cause).pins = s.pins := rfl
@[simp] theorem State.clearCause_bw (s : State) (cause : Nat) : (s.clearCause cause).bw = s.bw := rfl
@[simp] theorem State.clearCause_pwr (s : State) (cause : Nat) : (s.clearCause cause).pwr = s.pwr := rfl
@[simp] theorem State.clearCause_boot (s : State) (cause : Nat) : (s.clearCause cause).boot = s.boot := rfl
@[simp] theorem State.clearCause_welt (s : State) (cause : Nat) : (s.clearCause cause).welt = s.welt := rfl
@[simp] theorem State.clearCause_refresh (s : State) (cause : Nat) : (s.clearCause cause).refresh = s.refresh := rfl
@[simp] theorem State.clearCause_cairn (s : State) (cause : Nat) : (s.clearCause cause).cairn = s.cairn := rfl
@[simp] theorem State.clearCause_ctrs (s : State) (cause : Nat) : (s.clearCause cause).ctrs = s.ctrs := rfl
@[simp] theorem State.clearCause_snaps (s : State) (cause : Nat) : (s.clearCause cause).snaps = s.snaps := rfl
@[simp] theorem State.clearCause_dbg (s : State) (cause : Nat) : (s.clearCause cause).dbg = s.dbg := rfl
@[simp] theorem State.clearCause_lastFw (s : State) (cause : Nat) : (s.clearCause cause).lastFw = s.lastFw := rfl
@[simp] theorem State.clearCause_traceFill (s : State) (cause : Nat) : (s.clearCause cause).traceFill = s.traceFill := rfl
@[simp] theorem State.clearCause_traceAt (s : State) (cause : Nat) : (s.clearCause cause).traceAt = s.traceAt := rfl
@[simp] theorem State.clearCause_sleeping (s : State) (cause : Nat) : (s.clearCause cause).sleeping = s.sleeping := rfl
@[simp] theorem State.clearCause_issue (s : State) (cause : Nat) : (s.clearCause cause).issue = s.issue := rfl
@[simp] theorem State.clearCause_timeFrac (s : State) (cause : Nat) : (s.clearCause cause).timeFrac = s.timeFrac := rfl

end Sys2Proof.Machine
end

