-- ==== Sys2Proof/Tests/Slice0.lean ====
section
/-!
SUPPORT. The model's own tests: an ill-formed command that each check refuses, one step of each family, and for the statements that
have hypotheses a state and operands that meet them, clause by clause. Expected values come from the rules that are cited.
-/

set_option Elab.async false
set_option maxRecDepth 4000

namespace Sys2Proof.Tests

open Sys2Proof Sys2Proof.Machine

/-! ### Ill-formed commands are refused, well-formed ones at the bound are not -/

theorem test_ill_formed : ([Instr.apertureSlotWrite 16 0 0 [], .apertureSlotWrite 0 1024 0 [], .apertureSlotWrite 0 0 64 [], .apertureSlotWrite 0 0 63 [1, 2],
    .contextSwap 16 0, .contextSwap 0 64, .lineScan 4 0 0 0, .lineScan 0 4320 0 0, .flagEccPoison 4096, .weltRetrainEnd 0 true 256 false, .dieLoss 9 none,
    .dieLoss 0 (some 2), .dieLoss 8 (some 1), .scrubRead (.word (2 ^ 48)) 0, .scrubRead (.acc 0 0 512) 0, .scrubRead (.bin 65536) 0, .scrubRead (.line (2 ^ 22)) 0,
    .scrubRead (.store (2 ^ 21)) 0, .scrubRead (.matchMem (2 ^ 32)) 0, .scrubRead (.link 8) 0, .scrubRead (.word 0) 3, .dramTcrRead 0 3, .hubFwWatchdog 2,
    .usb4LinkUp false 3 true, .registerWrite 0x4000000 4 0, .registerWrite 0 9 0, .registerWrite 0 4 (2 ^ 32), .irqStatClear .memc 8 0, .irqStatClear .dptx 4 0,
    .irqStatClear .welt 25 0, .irqStatClear .ne 16 0, .irqStatClear .perf 9 0, .irqStatClear .sched 1 0, .irqStatClear .sched 0 (2 ^ 32), .cntClrAll 0x41,
    .dbgToken [], .dbgMem true 0 (some (2 ^ 32)), .dbgCore 2 .resume, .bwStatusRead 256 0, .msixVectorUnmask (some 32), .counterSaturate 0 64 0,
    .counterSaturate 0 0 8, .hdcpAuthEnd 0 4 []].all fun i => !i.wellFormed) = true := by
  decide +kernel

theorem test_well_formed : ([Instr.apertureSlotWrite 15 1023 63 [1], .contextSwap 15 63, .lineScan 3 4319 0 0, .flagEccPoison 4095, .weltRetrainEnd 24 true 255 false,
    .dieLoss 8 (some 0), .dieLoss 7 (some 1), .scrubRead (.word (2 ^ 48 - 1)) 2, .scrubRead (.acc 15 3 511) 2, .scrubRead (.link 7) 2, .hubFwWatchdog 1,
    .registerWrite 0x3FFFFFF 8 (2 ^ 64 - 1), .irqStatClear .perf 0x80 (2 ^ 32 - 1), .cntClrAll 0x40, .dbgCore 1 .resume,
    .bwStatusRead 255 0xFFFF, .msixVectorUnmask (some 31), .counterSaturate 7 63 7].all fun i => i.wellFormed) = true := by decide +kernel

theorem test_decode_table_spells_nothing : decodeTableWord 16 0x1001 = none ∧ State.reset.withFetchWord 16 0x1001 = State.reset := by decide +kernel

/-! ### The states that the tests begin from -/

/-- A packet with the given fields: the byte a field starts at, and its value. -/
def tPkt (fields : List (Nat × Nat)) : Packet := BitVec.ofNat 512 (fields.map fun p => p.2 * 2 ^ (8 * p.1)).sum

/-- A packet of class 2 and job 5. -/
def tPacket (op : Nat) (fields : List (Nat × Nat)) : Packet := tPkt ((0, op) :: (2, 2 * 64 + 5) :: fields)

/-- A command of job 5 in aperture 1, in no step. -/
def tCmd (uid op : Nat) (fields : List (Nat × Nat)) (place : Place) : Cmd :=
  { uid := uid, apt := 1, ring := 3, seq := 0, pkt := tPacket op fields, job := 5, cls := 2, step := none, rejected := false
    place := place, entry := .none, heldEntry := true, epoch := 0, acceptedAt := 0, turn := if place = .pending then 0 else 1, store := 0
    replay := false, fetched := false, progress := 0, data := [], fault := none }

/-- Job 5: valid, ceiling class 2, engine 0 only, and aperture 1. -/
def tJob : Job := { Job.fresh with cfg := BitVec.ofNat 32 (2 ^ 31 + 2 * 2 ^ 28 + 1), apts := 2 }

/-- A device that has booted, with its link and its Welt modules up, job 5 set up, and the microcontrollers of compute die 0 and of the matching die
running. -/
def tBase : State :=
  let s := { State.reset with
    devState := 3
    link := { Link.reset with state := 2, pcieUp := true, dpUp := true }
    boot := { Boot.reset with path := none, fwOk := true, identOk := true }
    jobs := SMap.set [] 5 tJob
    welt := (List.range 25).foldl (fun m k => m.set k ⟨2, 0, 0, 0⟩) [] }
  (s.setReg .cdSys 0 0x040 (2 * 2 ^ 30 + 2 ^ 29)).setReg .mdSys 0 0x040 (2 * 2 ^ 30 + 2 ^ 29)

/-- The device with one accepted command. -/
def tWith (c : Cmd) : State := { tBase with cmds := [c], nextUid := 8 }

/-- The context of job 5 in slot 1. -/
def tSlot : CtxSlot := ⟨1, 5, none, none, false⟩

/-- An engine with that context. -/
def tEngine : Engine := { Engine.fresh with slots := [tSlot] }

/-- A command in the queue of job 5 on engine 0. -/
def tOp (op : Nat) (fields : List (Nat × Nat)) : Cmd := tCmd 7 op ((8, 0xFFFF) :: fields) (.queued (.context 0 5))

/-- The device with that command. -/
def tOn (op : Nat) (fields : List (Nat × Nat)) : State := { tWith (tOp op fields) with engines := SMap.set [] 0 tEngine }

/-- The step of job 5 that command 6 opened: two tiles in one row. -/
def tStep : Step :=
  { uid := 6, job := 5, apt := 1, opened := true, isSealed := false, closed := false, deadline := 5000000, rowPitch := 0, tileCount := 2
    stepId := 9, number := 0, epoch := 0, guardRows := [], lateRows := [], cancelled := 0, worst := 0, frame := none, columns := 2
    aux := [], auxWait := [], turnHeld := false, isVariable := false }

/-- The group of tile 0 of that step on engine 0, with a landing slot. -/
def tGroup : Group :=
  { step := 6, tile := 0, engine := 0, slot := some 0, live := true, cancelled := false, guarded := false, moved := false, failed := 0
    placed := true, balance := false, endedAt := none, committed := false }

/-- Whether an outcome is a next state of which `p` holds. -/
def tNext (o : Out) (p : State → Bool) : Bool :=
  match o with
  | .next t => p t
  | _ => false

/-- The place of a command. -/
def tPlace (s : State) (uid : Nat) : Option Place := (s.cmd? uid).map (·.place)

/-- Memory with some bytes listed keeps its canonical form. -/
theorem memOk_of {s : State} (h : s.mem.wf 0 = true ∧ s.hostMem.wf 0 = true ∧ s.boot.nor.wf 0 = true ∧ s.boot.flash.wf 0xFF = true) : MemOk s := h

/-! ### The queue -/

theorem wit_step_front : ({ tBase with pending := [.alarm, .calendarPublish] } : State).pending = .alarm :: [.calendarPublish] := by decide +kernel

theorem wit_step_empty : tBase.pending = [] ∧ 2 ≤ tBase.devState ∧ tBase.boot.upd = none ∧ tBase.sleeping = none ∧
    ({ tBase with devState := 0 } : State).devState = 0 ∧ ({ tBase with devState := 1 } : State).devState = 1 := by decide +kernel

theorem test_idle_ticks : tNext (step tBase) (fun t => t.now == 1) = true ∧ tNext (step { tBase with now := 2 ^ 64 - 1 }) (fun t => t.now == 0) = true := by
  decide +kernel

/-- A state in its canonical form that a step takes to another one, for the statements about every state. -/
theorem wit_step_next : MemOk tBase ∧ step { tBase with pending := [.jtagIdcode] } = exec .jtagIdcode tBase := ⟨memOk_of (by decide +kernel), rfl⟩

/-! ### The command path -/

/-- An enabled aperture whose slot 0 holds a landed packet. -/
def tApt (p : Packet) : State :=
  { tBase with
    apts := SMap.set [] 1 { Aperture.fresh with en := true, ring := 3, heldSince := some 4, credLo := 0x1001 }
    aptSlots := SMap.set [] 1024 ⟨p, true, false⟩ }

theorem wit_slot_write : (tApt 0).apt 1 = { Aperture.fresh with en := true, ring := 3, heldSince := some 4, credLo := 0x1001 } ∧
    ((tApt 0).aptSlot 1 1023).landed = false ∧ ((tApt 0).aptSlot 1 0).landed = true ∧ ((tApt 0).apt 0).en = false := by decide +kernel

theorem test_slot_lands : tNext (exec (.apertureSlotWrite 1 1023 60 [1, 2, 3, 4]) (tApt 0)) (fun t => (t.aptSlot 1 1023).landed) = true ∧
    tNext (exec (.apertureSlotWrite 1 1023 0 [1, 2, 3, 4]) (tApt 0)) (fun t => !(t.aptSlot 1 1023).landed) = true := by decide +kernel

/-- The device with every completion entry of ring 3 taken by a record that waits. -/
def tNoEntry (s : State) : State :=
  { s with waiting := List.replicate 256 ⟨3, 0, 1, 5, 0, 0, 0, .own⟩ ++ List.replicate 4096 ⟨0, 0, 1, 5, 0, 0, 0, .shared⟩ }

theorem wit_accept : (tApt (tPacket 4 [])).cfeRuns = true ∧ ((tApt (tPacket 4 [])).apt 1).en = true ∧
    ((tApt (tPacket 4 [])).aptSlot 1 0).landed = true ∧
    (tApt (tPacket 4 [])).acceptCredit 1 ((tApt (tPacket 4 [])).apt 1) ((tApt (tPacket 4 [])).aptSlot 1 0) = some .none ∧
    (tApt (tPacket 4 [])).rejection 1 0 (tPacket 4 []) = none ∧
    (tApt (tPacket 5 [])).rejection 1 0 (tPacket 5 []) = some 0x06 ∧
    (tApt (tPacket 5 [])).acceptCredit 1 ((tApt (tPacket 5 [])).apt 1) ((tApt (tPacket 5 [])).aptSlot 1 0) = some .own ∧
    (tApt (tPacket 1 [(20, 2)])).rejection 1 0 (tPacket 1 [(20, 2)]) = none ∧
    lowestCause ((tApt 0).stepOpenFails (tCmd 0 1 [(20, 2)] .pending)) = none ∧
    lowestCause ((tApt 0).stepOpenFails (tCmd 0 1 [(28, 1)] .pending)) = some (.badOperand, 2) := by decide +kernel

/-- An aperture whose landed slot has an uncorrectable word. -/
def tAptBad : State := { tApt 0 with aptSlots := SMap.set [] 1024 ⟨tPacket 4 [], true, true⟩ }

theorem wit_accept_bad_slot : tAptBad.cfeRuns = true ∧ (tAptBad.apt 1).en = true ∧ (tAptBad.aptSlot 1 0).landed = true ∧ (tAptBad.aptSlot 1 0).bad = true ∧
    tAptBad.acceptCredit 1 (tAptBad.apt 1) (tAptBad.aptSlot 1 0) = some .own := by decide +kernel

/-- The device with every entry of the pending store taken. -/
def tStoreFull : State := { tApt (tPacket 4 []) with cmds := List.replicate 13856 (tCmd 7 4 [] .pending) }

theorem wit_accept_no_credit : tStoreFull.pendingCredit 1 = false ∧ tStoreFull.cfeRuns = true ∧ (tStoreFull.apt 1).en = true ∧
    (tStoreFull.aptSlot 1 0).landed = true := by
  refine ⟨?_, by decide +kernel⟩
  have h (a : Nat) : tStoreFull.pendingOf a = if a = 1 then 13856 else 0 := by
    have e : ((tCmd 7 4 [] .pending).heldEntry && (tCmd 7 4 [] .pending).apt == a) = (1 == a) := rfl
    rw [State.pendingOf, show tStoreFull.cmds = List.replicate 13856 (tCmd 7 4 [] .pending) from rfl, List.filter_replicate, e]
    by_cases ha : a = 1
    · rw [ha, if_pos (beq_self_eq_true 1), if_pos rfl, List.length_replicate]
    · rw [if_neg (by simpa using fun h : 1 = a => ha h.symm), if_neg ha]; rfl
  simp only [State.pendingCredit, State.pendingShared, h]
  decide +kernel

theorem wit_accept_held : let s := tNoEntry (tApt (tPacket 5 []))
    s.cfeRuns = true ∧ (s.aptSlot 1 0).landed = true ∧ s.pendingCredit 1 = true ∧ s.acceptCredit 1 (s.apt 1) (s.aptSlot 1 0) = none := by decide +kernel

theorem test_accept_reject : tNext (exec (.packetAccept 1) (tApt (tPacket 4 [(4, 1)]))) (fun t => tPlace t 0 == some (.ended .badOperand 0x70) &&
      (t.apt 1).consumed == 1) = true ∧
    tNext (exec (.packetAccept 1) (tApt (tPacket 4 []))) (fun t => tPlace t 0 == some .pending && !(t.aptSlot 1 0).landed) = true := by decide +kernel

/-- In RECOVERY every command but AUDIT_QUOTE ends FAILED_VERSION (R379). -/
theorem test_accept_in_recovery : tNext (exec (.packetAccept 1) { tApt (tPacket 4 []) with devState := 6, jobs := [] })
    (fun t => tPlace t 0 == some (.ended .version 0)) = true := by decide +kernel

/-- The matching engine's queue command, running and waiting for the return of a row since tick 40. -/
def tMeWaits : State := { tWith (tCmd 7 0x5001 [] (.queued .me)) with me := { MeState.reset with uid := some 7, waitSince := some 40 } }

theorem wit_timeouts : ((tApt 0).apt 1).heldSince = some 4 ∧
    (({ tBase with rings := SMap.set [] 3 { Ring.fresh with fullSince := some 4 } } : State).ring 3).fullSince = some 4 ∧
    tMeWaits.meWaiting = some (tCmd 7 0x5001 [] (.queued .me), 40) := by decide +kernel

/-- A pending command for engine 0. -/
def tPend : Cmd := tCmd 7 0x1002 [(8, 0xFFFF)] .pending

/-- The device with that command and the context of its job resident. -/
def tAdmit : State := { tWith tPend with engines := SMap.set [] 0 tEngine }

theorem wit_admit : tAdmit.cmd? 7 = some tPend ∧ tAdmit.queueOf tPend = some (.context 0 5) ∧ tAdmit.stopped = false ∧ tAdmit.stepReady tPend = true ∧
    tAdmit.dispatched tPend = true ∧ tAdmit.behindWait tPend = false ∧ tAdmit.behindPeer tPend (.context 0 5) = false ∧ tAdmit.freeEntry 3 = some .own ∧
    tAdmit.turnedAway tPend 0 = none ∧ tAdmit.channelOff (.context 0 5) = false ∧ tAdmit.slotsOutside tPend = false ∧ tAdmit.admissionHeld tPend 0 = false ∧
    tAdmit.residentFor (.context 0 5) = true ∧ tAdmit.commitCredit tPend = true ∧ (tAdmit.inQueue (.context 0 5)).length < Queue.capacity (.context 0 5) := by
  decide +kernel

theorem wit_admit_away : let c := tCmd 7 0x1002 [(8, 0xFFFF), (10, 2)] .pending
    (tWith c).queueOf c = some (.context 2 5) ∧ (tWith c).stepReady c = true ∧ (tWith c).dispatched c = true ∧ (tWith c).behindWait c = false ∧
      (tWith c).behindPeer c (.context 2 5) = false ∧ (tWith c).turnedAway c 2 = some .version ∧
      (tWith tPend).turnedAway tPend 0 = none ∧ (tWith tPend).channelOff (.context 0 5) = false ∧ (tWith tPend).slotsOutside tPend = false ∧
      (tWith tPend).residentFor (.context 0 5) = false := by decide +kernel

theorem wit_admit_channel_off : let c := tCmd 7 0x4001 [(18, 3)] .pending
    let s := { tWith c with dma := SMap.set [] 3 ⟨false, 2, 0⟩ }
    s.queueOf c = some (.dma 3) ∧ s.stepReady c = true ∧ s.dispatched c = true ∧ s.behindWait c = false ∧ s.behindPeer c (.dma 3) = false ∧
      s.turnedAway c 0 = none ∧ s.channelOff (.dma 3) = true := by decide +kernel

/-- The device with a pending command of tile 0 of an open step, whose group waits to be dispatched. -/
def tTiled : State :=
  { tWith { tCmd 7 0x1002 [] .pending with step := some 6 } with steps := [tStep], groups := [Group.fresh 6 0] }

/-- The same with the group dispatched while the landing slots of its job lie outside the engine window. -/
def tOutside : State :=
  { tTiled with
    groups := [{ tGroup with slot := none }], engines := SMap.set [] 0 tEngine
    jobs := SMap.set [] 5 { tJob with land := BitVec.ofNat 32 (2 ^ 31 + 2 ^ 8) } }

theorem wit_admit_outside : let c : Cmd := { tCmd 7 0x1002 [] .pending with step := some 6 }
    tOutside.cmd? 7 = some c ∧ tOutside.queueOf c = some (.context 0 5) ∧ tOutside.stepReady c = true ∧ tOutside.dispatched c = true ∧
      tOutside.behindWait c = false ∧ tOutside.behindPeer c (.context 0 5) = false ∧ tOutside.turnedAway c 0 = none ∧
      tOutside.channelOff (.context 0 5) = false ∧ tOutside.slotsOutside c = true := by decide +kernel

theorem test_admit : tNext (exec (.commandAdmit 7) tAdmit) (fun t => tPlace t 7 == some (.queued (.context 0 5))) = true := by decide +kernel

theorem wit_dispatch : MemOk tTiled ∧ tTiled.step? 6 = some tStep ∧ tStep.opened = true ∧ tStep.frame = none ∧ 0 < tStep.tileCount ∧
    tTiled.undispatched 6 0 = true ∧ tTiled.lowestTile tStep 0 = true ∧ tTiled.groupCompiled 6 0 = some 0 ∧ tTiled.placeGroup 5 0 = some 0 ∧
    (tTiled.job 5).balance = false := ⟨memOk_of (by decide +kernel), by decide +kernel⟩

/-- The same for a job with BALANCE whose group is compiled for an engine outside its ENGINE_MASK. -/
def tBalanced : State :=
  { tTiled with
    jobs := SMap.set [] 5 { tJob with cfg := BitVec.ofNat 32 (2 ^ 31 + 2 ^ 30 + 2 * 2 ^ 28 + 2) }
    cmds := [{ tCmd 7 0x1002 [] .pending with step := some 6 }] }

theorem wit_dispatch_balanced : tBalanced.undispatched 6 0 = true ∧ tBalanced.lowestTile tStep 0 = true ∧ tBalanced.groupCompiled 6 0 = some 0 ∧
    tBalanced.placeGroup 5 0 = some 1 ∧ (tBalanced.job 5).balance = true := by decide +kernel

/-- The same for a step whose frame has a bound header. -/
def tTiledBound : State :=
  (({ tTiled with steps := [{ tStep with frame := some 4 }], disp := { Disp.reset with bound := [(4, 6)] } } : State).putHead 4 0 8 4).putHead 4 27 1 0x10

theorem wit_dispatch_bound : let x := { tStep with frame := some 4 }
    MemOk tTiledBound ∧ tTiledBound.step? 6 = some x ∧ tTiledBound.boundHeader 4 = true ∧ tTiledBound.undispatched 6 0 = true ∧
      tTiledBound.lowestTile x 0 = true ∧ tTiledBound.groupCompiled 6 0 = some 0 ∧ tTiledBound.placeGroup 5 0 = some 0 :=
  ⟨memOk_of (by decide +kernel), by decide +kernel⟩

theorem test_dispatch : tNext (exec (.tileDispatch 6 0) tTiled) (fun t => (t.group? 6 0).map (·.engine) == some 0) = true := by decide +kernel

/-- The device with the STEP_OPEN of a step that has not opened. -/
def tUnopened : State := { tWith (tCmd 6 1 [(20, 2)] .pending) with steps := [{ tStep with opened := false }] }

theorem wit_step_open : let c := tCmd 6 1 [(20, 2)] .pending
    let x := { tStep with opened := false }
    let s := tUnopened
    s.cmd? 6 = some c ∧ c.opcode = 1 ∧ s.fenced c = false ∧ s.stopped = false ∧ s.freeEntry 3 = some .own ∧ s.step? 6 = some x ∧ x.opened = false ∧
      (s.steps.any fun y => y.job == x.job && y.uid < x.uid && !y.opened) = false ∧ s.openSteps 5 < 4 ∧ (s.job 5).turnOwed 0 = false ∧ c.step = none := by
  decide +kernel

/-- A STEP_OPEN that failed a check as it was accepted, and keeps the CAUSE. -/
def tBadOpen : Cmd := { tCmd 6 1 [(20, 2041), (28, 1)] .pending with progress := 2 }

theorem wit_step_open_fails : (tWith tBadOpen).cmd? 6 = some tBadOpen ∧ tBadOpen.opcode = 1 ∧ (tWith tBadOpen).fenced tBadOpen = false ∧
    (tWith tBadOpen).freeEntry 3 = some .own ∧ (tWith tBadOpen).step? 6 = none := by decide +kernel

theorem test_step_open : tNext (exec (.stepOpen 6) tUnopened) (fun t => (t.step? 6).map (·.opened) == some true) = true ∧
    tNext (exec (.stepOpen 6) (tWith tBadOpen)) (fun t => tPlace t 6 == some (.ended .badOperand 2)) = true := by decide +kernel

/-- A FLAG_WAIT on the last flag. -/
def tWait : Cmd := tCmd 7 2 [(8, 4095), (12, 1)] .pending

theorem wit_control : let s := { tWith tWait with flags := SMap.set [] 4095 ⟨1, true, 5, false⟩ }
    s.cmd? 7 = some tWait ∧ s.behindWait tWait = false ∧ s.freeEntry 3 = some .own ∧ s.fenced tWait = false ∧ s.stepReady tWait = true ∧ s.devState ≠ 6 ∧
      tWait.opcode = 2 ∧ (s.flag 4095).poison = false ∧ tWait.num 8 2 = 4095 ∧ tWait.num 10 2 = 0 ∧ tWait.num 16 48 = 0 ∧ s.flagReached 4095 1 = true := by
  decide +kernel

theorem wit_control_waits : (tWith tWait).cmd? 7 = some tWait ∧ (tWith tWait).flagReached 4095 1 = false ∧ ((tWith tWait).flag 4095).poison = false ∧
    bits ((tWith tWait).reg .sched 0 0x048) 15 0 = 100 ∧
    (({ tWith tWait with flags := SMap.set [] 4095 ⟨1, true, 5, true⟩ } : State).flag 4095).poison = true ∧
    (tCmd 7 2 [(8, 4096)] .pending).num 8 2 = 4096 ∧ (tCmd 7 2 [(10, 1)] .pending).num 10 2 ≠ 0 := by decide +kernel

theorem wit_control_advance : (tCmd 7 3 [(8, 4095), (12, 2 ^ 31 - 1)] .pending).opcode = 3 ∧ (tCmd 7 3 [(8, 4095), (12, 2 ^ 31 - 1)] .pending).num 8 2 = 4095 ∧
    (tCmd 7 3 [(8, 4095), (12, 2 ^ 31 - 1)] .pending).num 12 4 = 2 ^ 31 - 1 ∧ (tCmd 7 3 [(8, 4095), (12, 2 ^ 31 - 1)] .pending).num 10 2 = 0 ∧
    (tCmd 7 3 [(8, 4095), (12, 2 ^ 31 - 1)] .pending).num 16 48 = 0 ∧ (tCmd 7 3 [(8, 4096), (12, 1)] .pending).num 8 2 = 4096 ∧
    (tCmd 7 3 [(8, 4095), (12, 2 ^ 31)] .pending).num 12 4 = 2 ^ 31 ∧ (tCmd 7 3 [] .pending).num 12 4 = 0 ∧ (tCmd 7 4 [] .pending).num 8 56 = 0 ∧
    (tCmd 7 4 [(63, 1)] .pending).num 8 56 ≠ 0 := by decide +kernel

theorem test_control : tNext (exec (.nop 7) (tWith (tCmd 7 4 [] .pending))) (fun t => tPlace t 7 == some (.ended .ok 0)) = true ∧
    tNext (exec (.nop 7) (tWith (tCmd 7 4 [(63, 1)] .pending))) (fun t => tPlace t 7 == some (.ended .badOperand 4)) = true ∧
    tNext (exec (.flagAdvance 7) (tWith (tCmd 7 3 [] .pending))) (fun t => tPlace t 7 == some (.ended .badOperand 2)) = true ∧
    tNext (exec (.flagWait 7) (tWith (tCmd 7 2 [(12, 1)] .pending))) (fun t => tPlace t 7 == some .pending) = true := by decide +kernel

theorem test_wait_timeout : tNext (exec (.flagWaitTimeout 7) (tWith tWait)) (fun t => tPlace t 7 == some (.ended .timeout 0) && t.now == 10000000) = true ∧
    tNext (exec (.flagWaitTimeout 7) (tWith (tCmd 7 2 [(8, 4095), (12, 1), (16, 1)] .pending))) (fun t => tPlace t 7 == some (.ended .badOperand 4)) = true := by
  decide +kernel

/-- A FLAG_ADVANCE that has ended, with its completion entry. -/
def tEnded : Cmd := { tCmd 7 3 [(8, 4095), (12, 2 ^ 31 - 1)] (.ended .ok 0) with entry := .own }

theorem wit_record : let s := { tWith tEnded with link := { tBase.link with toBacklog := true } }
    s.cmd? 7 = some tEnded ∧ tEnded.entry ≠ .none ∧ tEnded.replay = false ∧ tEnded.step = none ∧ s.behindContext tEnded = false ∧
      s.owedFlags tEnded .ok = [(4095, 2 ^ 31 - 1)] ∧ (s.flag 4095).poison = false ∧ s.link.toBacklog = true ∧ s.backlogBase = none ∧
      (({ s with flags := SMap.set [] 9 ⟨1, true, 5, true⟩ } : State).flag 9).poison = true := by decide +kernel

/-- The STEP_OPEN of an open step that took its last command, with all of them recorded. -/
def tClosing (cancelled : Nat) : State :=
  { tWith { tCmd 6 1 [(20, 2)] .pending with entry := .own } with steps := [{ tStep with isSealed := true, cancelled := cancelled, worst := 1 }] }

/-- The same with the link up and ring 3 enabled, its PROD about to wrap its 2^10 entries. -/
def tRinged : State :=
  { tWith tEnded with rings := SMap.set [] 3 { Ring.fresh with ctrl := 0x800A0A10, prod := 1023, cons := 1020, baseLo := 0x10000 } }

theorem wit_record_lands : tRinged.cmd? 7 = some tEnded ∧ tRinged.behindContext tEnded = false ∧ MemOk tRinged ∧ tRinged.link.toBacklog = false ∧ tRinged.hostOk = true ∧
    (tRinged.ring 3).hasRoom = true ∧ (∀ x ∈ tRinged.backlog ++ tRinged.waiting, x.ring ≠ 3) ∧ (∀ v, v < 32 → tRinged.vectorMasked v = true) :=
  ⟨by decide +kernel, by decide +kernel, memOk_of (by decide +kernel), by decide +kernel⟩

theorem test_record_lands : tNext (exec (.completionRecordWrite 7) tRinged) (fun t => (t.ring 3).prod == 1024 &&
    t.hostGet (0x10000 + 16 * 1023) 8 == [0, 0, 0, 0, 129, 5, 0, 0]) = true := by decide +kernel

theorem wit_record_step : let x : Step := { tStep with isSealed := true, cancelled := 3, worst := 1 }
    let c : Cmd := { tCmd 6 1 [(20, 2)] .pending with entry := .own }
    (tClosing 3).cmd? 6 = some c ∧ c.entry ≠ .none ∧ c.place = .pending ∧ c.opcode = 1 ∧ (tClosing 3).step? 6 = some x ∧
      (tClosing 3).stepClosed x = true ∧ x.closed = false ∧ x.cancelled ≠ 0 ∧ (tClosing 0).stepClosed { tStep with isSealed := true, worst := 1 } = true := by
  decide +kernel

theorem wit_record_again : let c : Cmd := { tEnded with replay := true, entry := .own }
    (tWith c).cmd? 7 = some c ∧ c.entry ≠ .none ∧ c.place = .ended .ok 0 ∧ c.replay = true ∧ (tWith c).behindContext c = false := by decide +kernel

theorem test_record_advances : tNext (exec (.completionRecordWrite 7) (tWith { tCmd 7 3 [(8, 4095), (12, 9)] (.ended .ok 0) with entry := .own }))
    (fun t => (t.flag 4095).gen == 9 && t.cmd? 7 == none) = true ∧
    tNext (exec (.completionRecordWrite 6) (tClosing 3)) (fun t => t.cmd? 6 == none && t.step? 6 == none) = true := by decide +kernel

theorem wit_ring_timer : let s := { tBase with rings := SMap.set [] 3 { Ring.fresh with unreported := 2, firstAt := some 6 } }
    (s.ring 3).firstAt = some 6 ∧ s.vectorMasked 5 = true ∧ ({ s with msix := ⟨SMap.set [] 23 0, false, 0, 0, 0⟩ } : State).vectorMasked 5 = false := by
  decide +kernel

theorem wit_credit : let s := { tBase with apts := SMap.set [] 1 { Aperture.fresh with en := true, consumed := 1, credLo := 0x1001 } }
    MemOk s ∧ (s.apt 1).consumed ≠ (s.apt 1).credWritten ∧ (s.apt 1).credLo.getLsbD 0 = true ∧ s.hostOk = true ∧
      (s.apt 0).consumed = (s.apt 0).credWritten := ⟨memOk_of (by decide +kernel), by decide +kernel⟩

theorem test_ring_timer_and_credit : tNext (exec (.creditWriteback 1) { tBase with apts := SMap.set [] 1 { Aperture.fresh with en := true, consumed := 7, credLo := 0x1001 } })
      (fun t => t.hostMem == [(0x1000, 7)]) = true ∧
    tNext (exec (.msixRingTimer 3) { tBase with rings := SMap.set [] 3 { Ring.fresh with unreported := 2, firstAt := some 6 } })
      (fun t => t.msix.pba == 32 && t.now == 1006) = true := by decide +kernel

/-! ### Contexts, guards, deadlines and turns -/

theorem wit_context_swap : ((tWith tPend).engine 0).slotOf 5 = none ∧ (tWith tPend).dieUsable 0 = true ∧ ((tWith tPend).page .ne 0).faulted = false ∧
    (tWith tPend).bestOf ((tWith tPend).wantHeads 0 5) = some tPend ∧ ((tWith tPend).engine 0).freeSlot = some 0 := by decide +kernel

/-- Engine 0 with four residents of other jobs, the one in slot 2 empty for the longest time, or each with a command of class `cls`. -/
def tFull4 (cls : Option Nat) : State :=
  { tWith tPend with
    engines := SMap.set [] 0 { Engine.fresh with slots := (List.range 4).map fun k => ⟨k, 10 + k, none, some (if k = 2 then 0 else 1), false⟩ }
    cmds := tPend :: cls.elim [] fun n => (List.range 4).map fun k =>
      { tCmd (20 + k) 0x1002 [(8, 0xFFFF)] (.queued (.context 0 (10 + k))) with job := 10 + k, cls := n }
    saveBase := if cls.isSome then SMap.set [] 13 (BitVec.ofNat 32 (2 ^ 31)) else [] }

theorem wit_context_swap_full : ((tFull4 none).engine 0).slotOf 5 = none ∧ (tFull4 none).bestOf ((tFull4 none).wantHeads 0 5) = some tPend ∧
    ((tFull4 none).engine 0).freeSlot = none ∧ ((tFull4 none).leaver 0 tPend).map (·.slot) = some 2 ∧
    ((tFull4 (some 3)).leaver 0 tPend).map (·.slot) = some 3 ∧ ((tFull4 (some 2)).engine 0).freeSlot = none ∧
    (tFull4 (some 2)).bestOf ((tFull4 (some 2)).wantHeads 0 5) = some tPend ∧ (tFull4 (some 2)).leaver 0 tPend = none := by decide +kernel

theorem test_context_swap : tNext (exec (.contextSwap 0 5) (tWith tPend)) (fun t => ((t.engine 0).slotOf 5).isSome) = true ∧
    tNext (exec (.contextSwap 0 5) (tFull4 (some 3))) (fun t => ((t.engine 0).slotOf 5).map (·.slot) == some 3 && tPlace t 23 == some .pending) = true := by
  decide +kernel

theorem wit_preempt : let s := { tOn 0x1002 [] with engines := SMap.set [] 0 { tEngine with running := some 3 } }
    s.chosen 0 = some tSlot ∧ (s.engine 0).running = some 3 ∧
    (let u := { tOn 0x1002 [] with engines := SMap.set [] 0 { tEngine with ousted := true } }
     u.chosen 0 = some tSlot ∧ (u.engine 0).running = none ∧ (u.engine 0).ousted = true) := by decide +kernel

theorem test_preempt : tNext (exec (.preempt 0 2001) { tOn 0x1002 [] with engines := SMap.set [] 0 { tEngine with running := some 3 } })
    (fun t => (t.engine 0).running == some 1 && t.reg .sched 0 0x06C == 2001 && (t.page .sched 0).errCode == 2) = true := by decide +kernel

/-- Engine 0 with its one resident blocked since tick 9, and a command of job 6 that could run. -/
def tBlocked : State :=
  { tWith { tPend with job := 6 } with engines := SMap.set [] 0 { tEngine with slots := [{ tSlot with blockedSince := some 9 }] } }

theorem wit_blocked_swap : (tBlocked.engine 0).allBlockedSince = some 9 ∧ tBlocked.swapCandidate 0 = some { tPend with job := 6 } ∧
    ∃ x ∈ (tBlocked.engine 0).slots, tBlocked.mayLeave 0 x = true := by decide +kernel

theorem test_blocked_swap : tNext (exec (.blockedSwap 0) tBlocked) (fun t => ((t.engine 0).slotOf 6).isSome && t.reg .sched 0 0x068 == 1) = true := by
  decide +kernel

theorem wit_engine_gate : (tBase.engine 0).idleSince = some 0 ∧ (tBase.page .ne 0).extra.getLsbD 3 = true ∧ (tBase.engine 0).gated = false ∧
    tBase.stepHolds 0 = false ∧ tBase.dieUsable 0 = true ∧ (tBase.page .ne 0).faulted = false ∧ tBase.pwr.dies.find? 0 = none ∧
    tBase.hostWrites .ne 0 = true ∧ State.reset.hostWrites .ne 0 = false := by decide +kernel

/-- A transfer of 64 bytes from DRAM to engine 0; `again` of a moved group. -/
def tFetch (again : Bool) (src : Nat) : Fetch := ⟨0, 5, 12, 1, 7, src, 0x20000000000, 64, again⟩

theorem wit_fetch : let s := { tBase with fetches := [tFetch false 0x1000] }
    MemOk s ∧ s.fetches.find? (fun x => x.uid == 7) = some (tFetch false 0x1000) ∧ s.sourceLost (tFetch false 0x1000) = false ∧
      s.fetchRoute (tFetch false 0x1000) = 2 ∧ s.badIn 0x1000 64 = false ∧ (s.flag 12).poison = false ∧ (s.meets s.softWords 0x1000 64) = [] ∧
      (({ s with flags := SMap.set [] 12 ⟨0, true, 5, true⟩ } : State).flag 12).poison = true ∧ (tFetch true 0x1000).again = true :=
  ⟨memOk_of (by decide +kernel), by decide +kernel⟩

theorem wit_fetch_fails : let s := { tBase with fetches := [tFetch false 0x1000], badWords := [0x1008 / 8], protEff := 1 }
    let d := { tBase with fetches := [tFetch false 0x20000004000], badWords := [0x20000004000 / 8] }
    let r := { tBase with fetches := [tFetch false 0x1000], welt := [] }
    let h := { tBase with fetches := [tFetch false 0x1000], welt := (List.range 25).foldl (fun m k => m.set k ⟨1, 0, 0, 0⟩) [] }
    let l := { tBase with fetches := [tFetch false 0x20010000000], cdLost := 2 }
    s.badIn 0x1000 64 = true ∧ s.sourceLost (tFetch false 0x1000) = false ∧ s.fetchRoute (tFetch false 0x1000) = 2 ∧
      s.target 0x1000 64 = some .dram ∧ d.sourceLost (tFetch false 0x20000004000) = false ∧ d.fetchRoute (tFetch false 0x20000004000) = 2 ∧
      d.badIn 0x20000004000 64 = true ∧ d.target 0x20000004000 64 ≠ some .dram ∧ r.sourceLost (tFetch false 0x1000) = false ∧ r.fetchRoute (tFetch false 0x1000) = 0 ∧
      h.fetchRoute (tFetch false 0x1000) = 1 ∧ h.sourceLost (tFetch false 0x1000) = false ∧
      l.sourceLost (tFetch false 0x20010000000) = true := by decide +kernel

theorem test_fetch : tNext (exec (.fetchLanded 7 true) { tBase with fetches := [tFetch false 0x1000], mem := [(0x1003, 9)] })
    (fun t => t.mem.read 0 0x20000000003 == 9 && (t.flag 12).gen == 1) = true := by decide +kernel

theorem wit_ctx_save : let s := { tBase with engines := SMap.set [] 0 tEngine }
    s.hostWrites .ne 0 = true ∧ s.neState 0 = 1 ∧ (s.engine 0).slots.find? (fun x => x.slot == 1) = some tSlot ∧
      s.mayLeave 0 tSlot = true ∧ (tOn 0x1002 []).neState 0 = 2 ∧ (tOn 0x1002 []).hostWrites .ne 0 = true ∧ (tOn 0x1002 []).mayLeave 0 tSlot = false ∧
      ((tOn 0x1002 []).engine 0).slots.find? (fun x => x.slot == 1) = some tSlot ∧ (s.engine 0).slots.find? (fun x => x.slot == 2) = none := by decide +kernel

/-- A draining engine whose context has a command and a save area. -/
def tDraining : State :=
  { tOn 0x1002 [] with
    pages := SMap.set [] (Blk.base .ne 0) { tBase.page .ne 0 with drain := true }, saveBase := SMap.set [] 5 (BitVec.ofNat 32 (2 ^ 31)) }

theorem wit_ctx_save_draining : tDraining.neState 0 = 3 ∧ (tDraining.engine 0).slots.find? (fun x => x.slot == 1) = some tSlot ∧
    tDraining.mayLeave 0 tSlot = true ∧ tDraining.cmd? 7 = some (tOp 0x1002 []) ∧ (tOp 0x1002 []).place = .queued (.context 0 5) := by decide +kernel

theorem test_ctx_save : tNext (exec (.ctxSave 0 1) tDraining) (fun t => (t.engine 0).slots == [] && tPlace t 7 == some .pending) = true := by decide +kernel

theorem wit_guard : tTiled.step? 6 = some tStep ∧ tStep.opened = true ∧ tStep.closed = false ∧ 0 ≤ tStep.lastRow ∧ 0 ∉ tStep.guardRows ∧ 0 ∉ tStep.lateRows ∧
    tTiled.rowUnfinished tStep 0 = true := by decide +kernel

theorem wit_row_deadline : tTiled.step? 6 = some tStep ∧ tStep.frame.bind tTiled.plan = none ∧ tStep.rowOpen 0 = true ∧
    (tStep.tilesOf 0).filter (fun k => tTiled.incompleteAt tStep k (tStep.rowDeadline 0)) = [0, 1] := by decide +kernel

theorem test_guard_and_deadline : tNext (exec (.guardFire 6 0) tTiled) (fun t => (t.cmd? 7).map (·.cls) == some 0) = true ∧
    tNext (exec (.rowDeadline (some 6) 0) tTiled) (fun t => tPlace t 7 == some (.ended .late 0) && t.now == 5000000) = true := by decide +kernel

/-- Job 5 with a pending turn, and with die windows of 64 KiB or without. -/
def tTurn (win : Bool) : State :=
  { tBase with
    jobs := SMap.set [] 5 { tJob with turnSteps := 1, turnPending := some 1 }
    windows := if win then SMap.set [] (5 * 4 + 2) (BitVec.ofNat 32 (2 ^ 31 + 2 ^ 10)) else [] }

theorem wit_turn : MemOk (tTurn true) ∧ ((tTurn true).job 5).turnPending = some 1 ∧ (tTurn true).fwPaused = false ∧ (tTurn true).dirBase 5 = some 0x20008000000 ∧
    (tTurn true).dirBases 5 = [0x20008000000] ∧ (tTurn true).latchedBefore 5 1 = false ∧ (tTurn false).dirBase 5 = none ∧ (tTurn false).fwPaused = false ∧
    ({ tTurn true with dbg := { Debug.reset with halted := [1] } } : State).fwPaused = true ∧
    ({ tTurn true with cmds := [tOp 0x1002 []] } : State).latchedBefore 5 1 = true := ⟨memOk_of (by decide +kernel), by decide +kernel⟩

theorem test_turn : tNext (exec (.turn 5) (tTurn true)) (fun t => (t.job 5).turnsDone == 2 && t.devNat 0x2000800000C 4 == 2) = true := by decide +kernel

/-! A job with a directory: the statement about turns has a case for each of its outcomes. -/

/-- The scale directory of one entry with flags `fl` that names the table at 0x4000 of the die window, whose COPIES is `copies`; `hi` and `nMin` as given (R125, R133). -/
def tDirBytes (fl copies hi nMin : Nat) : List (Nat × Nat × Nat) :=
  [(0, 2, 4), (2, 2, 1), (64, 4, 0x8004000), (68, 4, 0xFFFFFFFF), (72, 4, 0xFFFFFFFF), (76, 4, 0xFFFFFFFF), (80, 1, fl), (81, 1, 2), (82, 2, 30), (84, 4, hi),
    (92, 4, 0x7FFFFFFF), (96, 4, 0x3C000000), (100, 4, 0x44000000), (104, 4, nMin),
    (0x4000, 2, 2), (0x4002, 2, 1), (0x4004, 1, copies), (0x4010, 4, 64), (0x4040, 4, 0x3F800000)]

/-- Job 5 at its turn of epoch 1 with that directory, and statistic slot 2 of engine 0. -/
def tDir (runs : List (Nat × Nat × Nat)) (stat : StatSlot) (adapt : Bool) : State :=
  { tTurn true with
    jobs := SMap.set [] 5 { tJob with turnSteps := 1, turnPending := some 1, scaleDir := true, adaptDir := adapt }
    engines := SMap.set [] 0 { Engine.fresh with stats := SMap.set [] 2 stat }
    flags := SMap.set [] 30 ⟨3, true, 5, false⟩
    mem := runs.foldl (fun m r => m.writeRun 0 (0x20008000000 + r.1) (leBytes r.2.1 r.2.2)) [] }

/-- What every case about a table of one copy of the directory asks. -/
def tTableCase (s : State) : Bool :=
  let y := s.dirEntry 0x20008000000 0
  let T := s.tableAt 0x20008004000
  (s.job 5).turnPending == some 1 && !s.fwPaused && s.dirBase 5 == some 0x20008000000 && s.dirBases 5 == [0x20008000000] && !s.latchedBefore 5 1 &&
    !(s.job 5).adaptDir && s.dirEntries 0x20008000000 == [y] && y.table == some 0x8004000 && y.links == [] && s.replicas 5 0x8004000 64 == [0x20008004000] &&
    T.cur ≤ 1 && 8 ≤ T.body && T.body ≤ T.stride && 0x20008002000 ≤ 0x20008004000 && !farBehind 1 T.since

/-- Slot 2 with 10 counts of 4 clips, of the job or of another, or at its top. -/
def tStat (job count : Nat) : StatSlot := ⟨true, job, false, count, 4, 0⟩

theorem wit_turn_tables : ([tDir (tDirBytes 1 1 0x10000 1) (tStat 5 10) false, tDir (tDirBytes 2 2 0 0) (tStat 5 10) false, tDir (tDirBytes 1 2 0x10000 1) (tStat 5 10) false,
      tDir (tDirBytes 1 2 0x10000 1) (tStat 6 10) false, tDir (tDirBytes 1 2 0x10000 1) (tStat 5 (2 ^ 32 - 1)) false,
      tDir (tDirBytes 1 2 0x10000 11) (tStat 5 10) false].all tTableCase) = true ∧
    MemOk (tDir (tDirBytes 1 2 0x10000 1) (tStat 5 10) false) ∧ MemOk (tDir (tDirBytes 2 2 0 0) (tStat 5 10) false) ∧
    MemOk (tDir (tDirBytes 1 1 0x10000 1) (tStat 5 10) false) :=
  ⟨by decide +kernel, memOk_of (by decide +kernel), memOk_of (by decide +kernel), memOk_of (by decide +kernel)⟩

theorem wit_turn_outcomes : let y := fun (s : State) => s.dirEntry 0x20008000000 0
    let x := fun (s : State) => s.slotSum 5 2
    let T := fun (s : State) => s.tableAt 0x20008004000
    let one := tDir (tDirBytes 1 1 0x10000 1) (tStat 5 10) false
    let stage := tDir (tDirBytes 2 2 0 0) (tStat 5 10) false
    let chg := tDir (tDirBytes 1 2 0x10000 1) (tStat 5 10) false
    let few := tDir (tDirBytes 1 2 0x10000 11) (tStat 5 10) false
    (y one).auto = true ∧ (T one).copies ≠ 2 ∧ (y stage).learned = true ∧ (T stage).copies = 2 ∧ stage.staged (y stage) = true ∧
      (stage.flag ((y stage).stage + 1)).poison = false ∧ (y chg).auto = true ∧ (y chg).learned = false ∧ (T chg).copies = 2 ∧
      (x (tDir (tDirBytes 1 2 0x10000 1) (tStat 6 10) false)).conflict = true ∧ (x chg).conflict = false ∧ (x chg).saturated = false ∧
      (x (tDir (tDirBytes 1 2 0x10000 1) (tStat 5 (2 ^ 32 - 1)) false)).saturated = true ∧ (x few).count < max (y few).nMin 1 ∧ max (y chg).nMin 1 ≤ (x chg).count ∧
      (y chg).clipHi * (x chg).count < (x chg).clips * 2 ^ 32 ∧ (fmul (val32 0x3F800000) (.fin false 9 8 0)).code32 ≠ 0x3F800000 := by decide +kernel

theorem test_turn_changes_the_scale : tNext (exec (.turn 5) (tDir (tDirBytes 1 2 0x10000 1) (tStat 5 10) false))
    (fun t => t.devNat 0x20008004080 4 == 0x3F900000 && t.devNat 0x2000800400C 1 == 1 && (t.engine 0).stat 2 == StatSlot.fresh) = true := by decide +kernel

/-- An adapter directory of one entry, whose scale entry 0 is LEARNED; its probe record is at 0x8000, its copies at 0x6000 of the die window (R171, R185). -/
def tAdaptBytes (probation taint since seen status : Nat) : List (Nat × Nat × Nat) :=
  tDirBytes 2 2 0 0 ++ [(108, 4, 3), (0x1000, 2, 7), (0x1002, 2, 1), (0x1004, 1, 4), (0x1005, 1, 2), (0x100C, 2, 40), (0x1010, 4, 0x8008000), (0x1014, 1, probation),
    (0x1015, 1, taint), (0x1024, 4, since), (0x102C, 4, seen), (0x1040, 4, 0x8006000), (0x1044, 4, 64), (0x104C, 1, 2), (0x1050, 4, 64),
    (0x8000, 2, status), (0x8002, 2, 1)]

/-- The turn of that job with the verdict flag at `verdict` and the stage flag past what was seen, or not. -/
def tAdapt (probation taint since verdict status : Nat) (staged : Bool) : State :=
  { tDir (tAdaptBytes probation taint since 0 status) (tStat 5 10) true with
    flags := (SMap.set [] 30 ⟨if staged then 4 else 3, true, 5, false⟩).set 40 ⟨BitVec.ofNat 32 verdict, true, 5, false⟩ }

/-- What every case about an adapter directory of one entry asks. -/
def tAdaptCase (s : State) : Bool :=
  let d := 0x20008000000
  let y := s.dirEntry d 0
  let x := s.adaptEntry (d + 0x1000) 0
  let T := s.tableAt (d + 0x4000)
  (s.job 5).turnPending == some 1 && !s.fwPaused && s.dirBase 5 == some d && s.dirBases 5 == [d] && !s.latchedBefore 5 1 && (s.job 5).adaptDir &&
    s.dirEntries d == [y] && !y.auto && y.structs == [0x8004000] && s.adaptEntries (d + 0x1000) == [x] && x.scale == y.index &&
    s.replicas 5 0x8004000 64 == [d + 0x4000] && T.cur ≤ 1 && T.copies == 2 && T.body ≤ T.stride && s.replicas 5 x.base (3 * x.stride) == [d + 0x6000] &&
    x.bytes ≤ x.stride && s.replicas 5 (s.devNat (d + 0x1010) 4 % 2 ^ 28) 64 == [d + 0x8000] && T.copyOff 2 + T.body ≤ 0x2000 && 3 * x.stride ≤ 0x2000 &&
    !farBehind 1 T.since && !farBehind 1 x.since && y.stage < 4095 && s.devNat (d + 0x100C) 2 % 4096 < 4095

theorem wit_turn_adapters : ([tAdapt 1 0 (2 ^ 32 - 2) 1 8 false, tAdapt 1 1 (2 ^ 32 - 2) 1 8 false, tAdapt 0 0 0 1 8 false, tAdapt 1 0 (2 ^ 32 - 2) 1 9 false,
      tAdapt 1 0 (2 ^ 32 - 20) 0 8 false, tAdapt 0 0 0 0 8 true].all tAdaptCase) = true ∧ MemOk (tAdapt 1 0 (2 ^ 32 - 2) 1 8 false) :=
  ⟨by decide +kernel, memOk_of (by decide +kernel)⟩

theorem wit_turn_probes : (tAdapt 1 0 (2 ^ 32 - 2) 1 8 false).probe 0x20008001000 1 = ⟨true, false, true, false, true⟩ ∧
    (tAdapt 1 1 (2 ^ 32 - 2) 1 8 false).probe 0x20008001000 1 = ⟨true, true, true, false, true⟩ ∧
    (tAdapt 0 0 0 1 8 false).probe 0x20008001000 1 = ⟨false, false, false, false, true⟩ ∧
    (tAdapt 1 0 (2 ^ 32 - 20) 0 8 false).probe 0x20008001000 1 = ⟨true, false, true, true, false⟩ ∧
    (tAdapt 0 0 0 0 8 true).probe 0x20008001000 1 = ⟨false, false, false, false, false⟩ ∧
    (tAdapt 0 0 0 0 8 true).staged ((tAdapt 0 0 0 0 8 true).dirEntry 0x20008000000 0) = true ∧
    ((tAdapt 0 0 0 0 8 true).adaptEntry 0x20008001000 0).probe = true ∧
    (val32 0).le (fmul (val32 0) (fadd (Val.ofNat 1) (val32 0))) = true ∧ (tAdapt 1 0 (2 ^ 32 - 2) 1 8 false).devNat 0x20008008004 4 = 0 := by decide +kernel

theorem test_turn_keeps_a_candidate : tNext (exec (.turn 5) (tAdapt 1 0 (2 ^ 32 - 2) 1 8 false))
    (fun t => t.devNat 0x20008008010 4 == 0x3F800000 && t.devNat 0x20008001014 1 == 0 && t.devNat 0x2000800101C 4 == 1) = true := by decide +kernel

/-- Where engine window 0 of job 5 on die 0 begins. -/
def tW : Nat := 0x20000000000

/-- Memory with some runs of bytes, given as numbers: offset in the window, bytes and value. -/
def tMem (runs : List (Nat × Nat × Nat)) : Memory := runs.foldl (fun m r => m.writeRun 0 (tW + r.1) (leBytes r.2.1 r.2.2)) []

/-- A scale tensor for I8 at 0x100 (R123), a rescale table of two channels at 0x200 (R125): every factor 1.0. -/
def tTables : List (Nat × Nat × Nat) :=
  [(0x100, 2, 2), (0x102, 2, 1), (0x104, 1, 1), (0x105, 1, 0xFF), (0x106, 1, 2), (0x140, 4, 0x3F800000),
   (0x200, 2, 3), (0x202, 2, 2), (0x204, 1, 1), (0x244, 4, 0x3F800000), (0x280, 4, 0x3F800000), (0x290, 4, 0x3F800000)]

/-- The device with one command for engine 0, a window of 1 MiB, accumulator row 3 holding 7 and 9, and data in the window. -/
def tEng (op : Nat) (fields : List (Nat × Nat)) (runs : List (Nat × Nat × Nat)) : State :=
  { tOn op fields with
    windows := SMap.set [] 20 (BitVec.ofNat 32 (2 ^ 31 + 16 * 2 ^ 10))
    engines := SMap.set [] 0 { tEngine with acc := [(512 + 3, ⟨false, false, [(0, 7), (1, 9)]⟩)] }
    mem := tMem (tTables ++ runs) }

/-- What a run of a command leaves: its place, and `n` bytes of the window. -/
def tAfter (i : Instr) (s : State) (a n : Nat) : Option Place × Nat :=
  match exec i s with
  | .next t => (tPlace t 7, leNat (t.devGet (tW + a) n))
  | _ => (none, 0)

def tF (fmt addr : Nat) : Nat := fmt * 2 ^ 28 + addr

/-! ### One run of each operation of an engine (R78, R98, R100, R103, R126, R128, R143, R147, R149, R153, R178, R307) -/

theorem test_ne_acc_clear : tAfter (.neAccClear 7) (tEng 0x1002 [(26, 256)] []) 0 4 =
    (some (.ended .ok 0), 0) := by decide +kernel

theorem test_ne_gemm : tNext (exec (.neGemm 7) (tEng 0x1001 [(24, tF 2 0x1000), (28, tF 2 0x10000), (32, tF 5 0), (36, 0x100), (44, 1), (46, 1), (48, 1), (50, 2), (52, 1), (54, 0x8000), (56, 1)] [(0x1000, 2, 0x0403), (0x10000, 2, 0x0605)]))
    (fun t => tPlace t 7 == some (.ended .ok 0) && ((t.engine 0).row 1 0).cell 0 == 39) = true := by decide +kernel

theorem test_ne_acc_drain : tAfter (.neAccDrain 7) (tEng 0x1003 [(32, tF 2 0x2000), (40, 0x200), (44, 1), (52, 2), (54, 3), (58, 1)] []) 0x2000 4 =
    (some (.ended .ok 0), 0x907) := by decide +kernel

theorem test_ne_acc_store : tAfter (.neAccStore 7) (tEng 0x1004 [(32, tF 5 0x2000), (44, 1), (52, 2), (54, 3), (58, 1)] []) 0x2000 8 =
    (some (.ended .ok 0), 38654705671) := by decide +kernel

theorem test_ne_acc_load : tNext (exec (.neAccLoad 7) (tEng 0x1005 [(24, tF 5 0x1000), (44, 1), (52, 2), (54, 9), (56, 1)] [(0x1004, 4, 77)]))
    (fun t => tPlace t 7 == some (.ended .ok 0) && ((t.engine 0).row 1 9).cell 1 == 77) = true := by decide +kernel

theorem test_ve_ewise : tAfter (.veEwise 7) (tEng 0x2001 [(24, tF 10 0x1000), (28, tF 10 0x1040), (36, tF 10 0x2000), (40, 1)] [(0x1000, 4, 0x3F800000), (0x1040, 4, 0x40000000)]) 0x2000 4 =
    (some (.ended .ok 0), 0x40400000) := by decide +kernel

theorem test_ve_func : tAfter (.veFunc 7) (tEng 0x2002 [(24, tF 10 0x1000), (36, tF 10 0x2000), (40, 1), (44, 7)] [(0x1000, 4, 0xBF800000)]) 0x2000 4 =
    (some (.ended .ok 0), 0x3f800000) := by decide +kernel

theorem test_ve_reduce : tAfter (.veReduce 7) (tEng 0x2003 [(24, tF 10 0x1000), (36, tF 10 0x2000), (40, 2), (44, 1), (46, 2)] [(0x1000, 4, 0x3F800000), (0x1004, 4, 0x40000000)]) 0x2000 4 =
    (some (.ended .ok 0), 0x40000000) := by decide +kernel

theorem test_ve_ksel : tAfter (.veKsel 7) (tEng 0x2004 [(24, tF 4 0x1000), (36, tF 4 0x2000), (40, 3), (46, 3)] [(0x1000, 2, 9), (0x1002, 2, 0xFFFF), (0x1004, 2, 5)]) 0x2000 2 =
    (some (.ended .ok 0), 5) := by decide +kernel

theorem test_ve_dwconv : tAfter (.veDwconv 7) (tEng 0x2005 [(24, tF 10 0x1000), (28, tF 10 0x1040), (36, tF 10 0x2000), (40, 0x1002), (44, 1), (46, 1)] [(0x1000, 4, 0x3F800000), (0x1004, 4, 0x40000000), (0x1040, 4, 0x40000000)]) 0x2000 8 =
    (some (.ended .ok 0), 0x4080000040000000) := by decide +kernel

theorem test_ve_merge : tAfter (.veMerge 7) (tEng 0x2006 [(24, tF 10 0x1000), (28, tF 4 0x1040), (36, tF 10 0x2000), (40, 1), (46, 1), (48, 0x200), (52, 64)] [(0x28A, 1, 1), (0x1000, 4, 0x40000000)]) 0x2000 4 =
    (some (.ended .ok 0), 0x40000000) := by decide +kernel

theorem test_ve_optim : tAfter (.veOptim 7) (tEng 0x2007 [(24, tF 7 0x1000), (28, tF 2 0x1040), (32, tF 0 0x1100), (36, tF 9 0x2000), (40, 1), (44, 0x41), (46, 1)] [(0x1100, 4, 0x3F800000), (0x1108, 4, 0x3F800000), (0x1040, 1, 2), (0x2000, 2, 0x3F80)]) 0x1040 1 =
    (some (.ended .ok 0), 1) := by decide +kernel

theorem test_ve_xreduce : tAfter (.veXreduce 7) (tEng 0x2008 [(24, tF 10 0x1000), (36, tF 10 0x2000), (40, 1), (44, 0x40), (46, 2), (58, 1)] [(0x1000, 4, 0x3F800000), (0x1040, 4, 0x40000000)]) 0x2000 4 =
    (some (.ended .ok 0), 0x40400000) := by decide +kernel

theorem test_xp_expand : tAfter (.xpExpand 7) (tEng 0x3001 [(24, tF 2 0x1000), (28, tF 2 0x2000), (32, 2), (34, 2), (36, 1), (38, 1), (40, 2), (41, 2), (42, 0x11), (43, 0x11), (52, 1)] [(0x1000, 2, 0x0201), (0x1040, 2, 0x0403)]) 0x2000 8 =
    (some (.ended .ok 0), 0x4030201) := by decide +kernel

theorem test_xp_s2c : tAfter (.xpS2c 7) (tEng 0x3002 [(24, tF 2 0x1000), (28, tF 2 0x2000), (32, 2), (34, 2), (36, 1), (38, 1), (47, 0x22), (52, 1)] [(0x1000, 2, 0x0201), (0x1040, 2, 0x0403)]) 0x20C0 1 =
    (some (.ended .ok 0), 4) := by decide +kernel

theorem test_xp_c2s : tAfter (.xpC2s 7) (tEng 0x3003 [(24, tF 2 0x1000), (28, tF 2 0x2000), (32, 1), (34, 1), (36, 4), (38, 1), (47, 0x22), (52, 1)] [(0x1000, 1, 1), (0x1040, 1, 2), (0x1080, 1, 3), (0x10C0, 1, 4)]) 0x2040 2 =
    (some (.ended .ok 0), 0x403) := by decide +kernel

theorem test_xp_upsample : tAfter (.xpUpsample 7) (tEng 0x3004 [(24, tF 2 0x1000), (28, tF 2 0x2000), (32, 1), (34, 1), (36, 1), (38, 1), (47, 0x22), (52, 1)] [(0x1000, 1, 7)]) 0x2040 2 =
    (some (.ended .ok 0), 0x707) := by decide +kernel

theorem test_xp_copy : tAfter (.xpCopy 7) (tEng 0x3005 [(24, tF 2 0x1000), (28, tF 2 0x2000), (32, 2), (34, 2), (36, 1), (38, 1), (52, 1), (54, 2)] [(0x1000, 2, 0x0201), (0x1040, 2, 0x0403)]) 0x2040 2 =
    (some (.ended .ok 0), 0x402) := by decide +kernel

/-- The drain of two rows that the tests run. -/
def tDrain : Nat × List (Nat × Nat) := (0x1003, [(32, tF 2 0x2000), (40, 0x200), (44, 1), (52, 2), (54, 3), (58, 1)])

theorem wit_engine_operation : let s := tEng tDrain.1 tDrain.2 []
    let c := tOp tDrain.1 tDrain.2
    s.startable 7 0x1003 = some (c, 0, 1) ∧ s.waitPoisoned c = false ∧ s.badDesc c 0 = none ∧ s.landed c 0 = true ∧ s.fetchPoisoned c 0 = false ∧
      lowestCause (s.commonFails c 0 ++ (s.accDrainWork c 0 1).fails) = none ∧
      ((s.accDrainWork c 0 1).rowsRead.any fun r => ((s.engine 0).row 1 r).poison) = false ∧ s.badRead (s.accDrainWork c 0 1).reads = none ∧
      (s.reg .perf 0x40 0x080).testBit 31 = false ∧ s.softWords = [] ∧ s.stepOf c = none := by decide +kernel

theorem wit_engine_operation_reads_badly : let c := tOp tDrain.1 tDrain.2
    let p := { tEng tDrain.1 tDrain.2 [] with engines := SMap.set [] 0 { tEngine with acc := [(512 + 3, ⟨false, true, []⟩)] } }
    let b := { tEng tDrain.1 tDrain.2 [] with badWords := [(tW + 0x248) / 8] }
    lowestCause (p.commonFails c 0 ++ (p.accDrainWork c 0 1).fails) = none ∧ p.startable 7 0x1003 = some (c, 0, 1) ∧
      ((p.accDrainWork c 0 1).rowsRead.any fun r => ((p.engine 0).row 1 r).poison) = true ∧ b.startable 7 0x1003 = some (c, 0, 1) ∧
      lowestCause (b.commonFails c 0 ++ (b.accDrainWork c 0 1).fails) = none ∧
      ((b.accDrainWork c 0 1).rowsRead.any fun r => ((b.engine 0).row 1 r).poison) = false ∧ (b.badRead (b.accDrainWork c 0 1).reads).isSome = true := by
  decide +kernel

theorem wit_engine_check : let s := tEng 0x1002 [] []
    let c := tOp 0x1002 []
    s.startable 7 0x1002 = some (c, 0, 1) ∧ s.waitPoisoned c = false ∧ s.landed c 0 = true ∧ s.fetchPoisoned c 0 = false ∧
      lowestCause (s.commonFails c 0 ++ (s.accClearWork c 0 1).fails) = some (.badOperand, 2) := by decide +kernel

/-- An NE_ACC_CLEAR of one row that waits for flag 12, and the same with a fetch of 64 bytes from DRAM to the window. -/
def tWaits : List (Nat × Nat) := [(12, 2 ^ 15 + 12), (16, 1), (26, 1)]
def tFetches : List (Nat × Nat) := [(20, 2 ^ 31 + 0x400), (26, 1)]
def tFetchData (len : Nat) : List (Nat × Nat × Nat) := [(0x400, 8, 0x1000), (0x408, 4, 0x3000), (0x40C, 4, len), (0x410, 2, 12), (0x414, 4, 1)]

theorem wit_engine_waits : let p := { tEng 0x1002 tWaits [] with flags := SMap.set [] 12 ⟨0, true, 5, true⟩ }
    let f := tEng 0x1002 tFetches (tFetchData 64)
    let q := { f with flags := SMap.set [] 12 ⟨1, true, 5, true⟩ }
    let b := tEng 0x1002 tFetches (tFetchData 65)
    p.startable 7 0x1002 = some (tOp 0x1002 tWaits, 0, 1) ∧ p.waitPoisoned (tOp 0x1002 tWaits) = true ∧
      f.startable 7 0x1002 = some (tOp 0x1002 tFetches, 0, 1) ∧ f.waitPoisoned (tOp 0x1002 tFetches) = false ∧ f.landed (tOp 0x1002 tFetches) 0 = false ∧
      f.fetchFails (tOp 0x1002 tFetches) 0 = [] ∧ q.startable 7 0x1002 = some (tOp 0x1002 tFetches, 0, 1) ∧ q.landed (tOp 0x1002 tFetches) 0 = true ∧
      q.fetchPoisoned (tOp 0x1002 tFetches) 0 = true ∧ b.startable 7 0x1002 = some (tOp 0x1002 tFetches, 0, 1) ∧
      b.landed (tOp 0x1002 tFetches) 0 = false ∧ b.fetchFails (tOp 0x1002 tFetches) 0 ≠ [] ∧ f.badDesc (tOp 0x1002 tFetches) 0 = none ∧
      q.badDesc (tOp 0x1002 tFetches) 0 = none ∧ b.badDesc (tOp 0x1002 tFetches) 0 = none ∧
      (let d := { f with badWords := [(tW + 0x408) / 8] }
       d.startable 7 0x1002 = some (tOp 0x1002 tFetches, 0, 1) ∧ d.waitPoisoned (tOp 0x1002 tFetches) = false ∧
         d.badDesc (tOp 0x1002 tFetches) 0 = some (tW + 0x408)) := by decide +kernel

theorem test_issue_fetch : tNext (exec (.neAccClear 7) (tEng 0x1002 tFetches (tFetchData 64)))
    (fun t => t.fetches == [⟨0, 5, 12, 1, 7, 0x1000, tW + 0x3000, 64, false⟩] && tPlace t 7 == some (.queued (.context 0 5))) = true := by decide +kernel

/-- A command of tile 9 of the step of two tiles, which is never ranked. -/
def tNoTile (wait : List (Nat × Nat)) : Cmd := { tCmd 7 0x1002 ((8, 9) :: (26, 1) :: wait) (.queued (.context 0 5)) with step := some 6 }

def tUnranked (wait : List (Nat × Nat)) (poison : Bool) : State :=
  { tWith (tNoTile wait) with engines := SMap.set [] 0 tEngine, steps := [tStep], flags := SMap.set [] 12 ⟨1, true, 5, poison⟩ }

theorem wit_unranked : (tUnranked [] false).startable 7 0x1002 = none ∧ (tUnranked [] false).unranked 7 0x1002 = some (tNoTile [], 0) ∧
    (tUnranked [] false).waitPoisoned (tNoTile []) = false ∧ (tUnranked [(12, 2 ^ 15 + 12)] true).startable 7 0x1002 = none ∧
    (tUnranked [(12, 2 ^ 15 + 12)] true).unranked 7 0x1002 = some (tNoTile [(12, 2 ^ 15 + 12)], 0) ∧
    (tUnranked [(12, 2 ^ 15 + 12)] true).waitPoisoned (tNoTile [(12, 2 ^ 15 + 12)]) = true := by decide +kernel

theorem test_unranked : tNext (exec (.neAccClear 7) (tUnranked [] false)) (fun t => tPlace t 7 == some (.ended .badOperand 5)) = true := by decide +kernel

theorem wit_accumulator_clear : let s := tEng 0x1002 [(24, 255), (26, 1), (28, 1)] []
    let c := tOp 0x1002 [(24, 255), (26, 1), (28, 1)]
    s.startable 7 0x1002 = some (c, 0, 1) ∧ s.waitPoisoned c = false ∧ s.badDesc c 0 = none ∧ s.landed c 0 = true ∧ s.fetchPoisoned c 0 = false ∧
      s.commonFails c 0 = [] ∧ c.rsvdZero [(24, 0xFFFFFFFF), (28, 0xFF)] = true ∧ 1 ≤ c.num 26 2 ∧ c.num 24 2 + c.num 26 2 ≤ 256 ∧ c.num 28 1 ≤ 1 := by decide +kernel

/-- An NE_GEMM of one vector and one column, a VE_EWISE of one element, and an XP_S2C of bytes. -/
def tGemm : List (Nat × Nat) :=
  [(24, tF 2 0x1000), (28, tF 2 0x10000), (32, tF 5 0), (36, 0x100), (44, 1), (46, 1), (48, 1), (50, 2), (52, 1), (54, 0x8000), (56, 1)]
def tEwise (op : Nat) : List (Nat × Nat) := [(24, tF 10 0x1000), (28, tF 10 0x1040), (32, tF 10 0x1080), (36, tF 10 0x2000), (40, 1), (44, op)]
def tS2c : List (Nat × Nat) := [(24, tF 3 0x1000), (28, tF 3 0x2000), (32, 2), (34, 2), (36, 1), (38, 1), (47, 0x22), (52, 1)]

theorem wit_values : (Fmt.i8).intRange = some (-128, 127) ∧ 2 * ((5 : Int) - (2 : Nat) * (2 : Nat)).natAbs = 2 ∧ 2 % 2 = 0 ∧ 5 < 2 ^ f8a.width ∧ (f8a.decode 5).isNan = false ∧
    (let c := tOp 0x1001 tGemm
     let s := tEng 0x1001 tGemm []
     c.gemm.inFmt = 2 ∧ c.gemm.wFmt = 2 ∧ c.gemm.kpass = 1 ∧ c.gemm.clear = true ∧ c.gemm.drain = false ∧ c.gemm.transpose = false ∧ (s.job 5).adaptDir = false ∧
       (s.table? c 0 c.gemm.scale).isSome = true ∧ (s.gemmWork c 0 1).fails = [] ∧ 0 < c.gemm.vectors ∧ 0 < c.gemm.n) ∧
    (let c := tOp 0x3002 tS2c
     c.xp.fmt = 3 ∧ c.xp.dstFmt = 3 ∧ ((tEng 0x3002 tS2c []).s2cWork c 0 1).fails = [] ∧ 0 < c.xp.c ∧ 0 < c.xp.h / c.xp.factorY ∧ 0 < c.xp.w / c.xp.factorX) := by
  decide +kernel

theorem wit_ewise_values : ∀ op ∈ [0, 1, 2, 3, 4, 5], (tOp 0x2001 (tEwise op)).opfn % 8 = op ∧ (tOp 0x2001 (tEwise op)).veScale = 0 ∧
    (tOp 0x2001 (tEwise op)).fmtField 24 = 0xA ∧ (tOp 0x2001 (tEwise op)).fmtField 28 = 0xA ∧ (tOp 0x2001 (tEwise op)).fmtField 36 = 0xA ∧
    (op = 3 → (tOp 0x2001 (tEwise op)).fmtField 32 = 0xA) ∧ (op = 3 → ((tEng 0x2001 (tEwise op) []).ewiseWork (tOp 0x2001 (tEwise op)) 0 1).fails = []) ∧
    ((tEng 0x2001 [(24, tF 10 0x1000), (28, tF 10 0x1040), (36, tF 10 0x2000), (40, 1)] []).ewiseWork
      (tOp 0x2001 [(24, tF 10 0x1000), (28, tF 10 0x1040), (36, tF 10 0x2000), (40, 1)]) 0 1).fails = [] := by decide +kernel

/-- A collective of engine 0 alone that command 7 has joined, failed or with its sum. -/
def tColl (failed placed : Bool) : Coll :=
  ⟨5, 1, [⟨0, 7, 1, 10, false, []⟩], [], if failed then some (.badOperand, 2) else none, if failed then none else some [0x40400000], placed⟩

/-- The VE_XREDUCE of one element and two leaves for the engines of `peers`. -/
def tXred (peers : Nat) : List (Nat × Nat) := [(24, tF 10 0x1000), (36, tF 10 0x2000), (40, 1), (44, 0x40), (46, 2), (58, peers)]

def tReduce (failed placed : Bool) : State := { tEng 0x2008 (tXred 1) [] with colls := [tColl failed placed] }

theorem wit_xreduce : let c := tOp 0x2008 (tXred 1)
    (tReduce false true).startable 7 0x2008 = some (c, 0, 1) ∧ (tReduce false true).waitPoisoned c = false ∧ (tReduce false true).landed c 0 = true ∧
      ((tReduce false true).colls.find? fun y => y.joined.any fun p => p.uid == 7) = some (tColl false true) ∧ (tColl false true).fail = none ∧
      (tColl false true).sum = some [0x40400000] ∧ (tColl false true).placed = true ∧ (tReduce false false).startable 7 0x2008 = some (c, 0, 1) ∧
      (tColl false false).placed = false ∧ (tReduce true false).startable 7 0x2008 = some (c, 0, 1) ∧
      ((tReduce true false).colls.find? fun y => y.joined.any fun p => p.uid == 7) = some (tColl true false) ∧
      (tColl true false).fail = some (.badOperand, 2) := by decide +kernel

theorem wit_xreduce_joins : let c := tOp 0x2008 (tXred 3)
    let s := tEng 0x2008 (tXred 3) []
    let l := { s with cdLost := 2 }
    s.startable 7 0x2008 = some (c, 0, 1) ∧ s.waitPoisoned c = false ∧ s.landed c 0 = true ∧ s.fetchPoisoned c 0 = false ∧ s.colls = [] ∧
      lowestCause (s.commonFails c 0 ++ s.xreduceFails c 0) = none ∧ (s.collPeers c).all (fun e => s.dieUsable (e / 2)) = true ∧
      s.badRead (s.leafReads c 0) = none ∧ s.collPeers c = [0, 1] ∧
      (tEng 0x2008 (tXred 2) []).startable 7 0x2008 = some (tOp 0x2008 (tXred 2), 0, 1) ∧
      lowestCause ((tEng 0x2008 (tXred 2) []).commonFails (tOp 0x2008 (tXred 2)) 0 ++ (tEng 0x2008 (tXred 2) []).xreduceFails (tOp 0x2008 (tXred 2)) 0) =
        some (.badOperand, 2) ∧
      l.cdLost = 2 := by decide +kernel

/-- The last peer, alone in its collective: with sound leaves, in the placement order or not, and with leaves 0 and 2. -/
def tLast (stride order : Nat) : List (Nat × Nat) :=
  [(3, order), (24, tF 10 0x1000), (36, tF 10 0x2000), (40, 1), (44, stride * 64), (46, 2), (57, order), (58, 1)]

/-- The peers of that collective once the command has joined it. -/
def tPeers (stride order : Nat) : List CollPeer :=
  let c := tOp 0x2008 (tLast stride order)
  let s := tEng 0x2008 (tLast stride order) []
  [⟨0, 7, c.veCount, c.fmtField 36, c.num 57 1 == 1 && c.vFlag,
    State.leavesOf ((((s.select 0 1).starts c).spendIssue 0 0).correctWork c 0 (s.leafReads c 0)) c 0⟩]

theorem wit_xreduce_last : (∀ x ∈ [(1, 0), (1, 1), (2, 0)], (tEng 0x2008 (tLast x.1 x.2) []).startable 7 0x2008 = some (tOp 0x2008 (tLast x.1 x.2), 0, 1) ∧
      (tEng 0x2008 (tLast x.1 x.2) []).badDesc (tOp 0x2008 (tLast x.1 x.2)) 0 = none ∧
      lowestCause ((tEng 0x2008 (tLast x.1 x.2) []).commonFails (tOp 0x2008 (tLast x.1 x.2)) 0 ++
        (tEng 0x2008 (tLast x.1 x.2) []).xreduceFails (tOp 0x2008 (tLast x.1 x.2)) 0) = none ∧
      (tEng 0x2008 (tLast x.1 x.2) []).collPeers (tOp 0x2008 (tLast x.1 x.2)) = [0] ∧
      (tEng 0x2008 (tLast x.1 x.2) []).badRead ((tEng 0x2008 (tLast x.1 x.2) []).leafReads (tOp 0x2008 (tLast x.1 x.2)) 0) = none ∧
      (tEng 0x2008 (tLast x.1 x.2) []).collFor (tOp 0x2008 (tLast x.1 x.2)) 0 ((tEng 0x2008 (tLast x.1 x.2) []).collMask (tOp 0x2008 (tLast x.1 x.2))) = none) ∧
    leavesSound ((tPeers 1 0).flatMap CollPeer.leaves) = true ∧ leavesSound ((tPeers 1 1).flatMap CollPeer.leaves) = true ∧
    leavesSound ((tPeers 2 0).flatMap CollPeer.leaves) = false ∧ ((tPeers 1 1).all (·.placed)) = true ∧ ((tPeers 1 0).all (·.placed)) = false ∧
    (tEng 0x2008 (tLast 1 1) []).variant = .h8a ∧ ((tEng 0x2008 (tLast 1 1) []).job 5).repro = false := by decide +kernel

theorem wit_xreduce_unreadable : let f := (20, 2 ^ 31 + 0x400) :: tXred 1
    let s := { tEng 0x2008 f (tFetchData 64) with badWords := [(tW + 0x408) / 8] }
    s.colls = [] ∧ s.badDesc (tOp 0x2008 f) 0 = some (tW + 0x408) ∧ s.waitPoisoned (tOp 0x2008 f) = false := by decide +kernel

theorem wit_xreduce_lost : let c := tOp 0x2008 (tXred 5)
    let s := { tEng 0x2008 (tXred 5) [] with cdLost := 2 }
    s.startable 7 0x2008 = some (c, 0, 1) ∧ s.waitPoisoned c = false ∧ s.landed c 0 = true ∧ s.fetchPoisoned c 0 = false ∧ s.colls = [] ∧
      lowestCause (s.commonFails c 0 ++ s.xreduceFails c 0) = none ∧ ((s.collPeers c).any fun e => !s.dieUsable (e / 2)) = true := by decide +kernel

/-! ### POST, DMA, hints and audit -/

/-- A command for the POST unit of die 0. -/
def tPost (op : Nat) (fields : List (Nat × Nat)) : Cmd := tCmd 7 op ((8, 0xFFFF) :: fields) (.queued (.post 0))

/-- The device with that command and data in engine window 0. -/
def tPostOn (op : Nat) (fields : List (Nat × Nat)) (runs : List (Nat × Nat × Nat)) : State :=
  { tWith (tPost op fields) with windows := SMap.set [] 20 (BitVec.ofNat 32 (2 ^ 31 + 16 * 2 ^ 10)), mem := tMem runs }

/-- One anchor of 10 by 10 at (20, 20), one class with score 1.0, and a threshold of 0.5. -/
def tDecode : List (Nat × Nat) := [(24, tF 10 0x1000), (28, tF 10 0x1040), (32, 0x1080), (36, 0x2000), (40, 1), (42, 1), (44, 0x3F000000),
  (48, 0x3F800000), (52, 0x3F800000), (56, 100), (58, 100), (60, 0xFFFF)]

def tDecodeData : List (Nat × Nat × Nat) :=
  [(0x1040, 4, 0x3F800000), (0x1080, 4, 0x41A00000), (0x1084, 4, 0x41A00000), (0x1088, 4, 0x41200000), (0x108C, 4, 0x41200000)]

theorem test_post_decode : tAfter (.postDecode 7) (tPostOn 0x2801 tDecode tDecodeData) 0x2000 4 = (some (.ended .ok 0), 0x00010005) := by decide +kernel

theorem test_post_decode_box : tAfter (.postDecode 7) (tPostOn 0x2801 tDecode tDecodeData) 0x2040 4 = (some (.ended .ok 0), 0x41700000) := by decide +kernel

/-- A POST_SUPPRESS of an empty list at 0x1000 into 0x4000 of DRAM, by modules in state `welt`. -/
def tSuppress (welt : Nat) : State :=
  { tPostOn 0x2802 [(24, 0x1000), (28, 0x4000), (36, 0x3F000000), (40, 256)] [(0x1000, 4, 5)] with
    welt := (List.range 25).foldl (fun m k => m.set k ⟨welt, 0, 0, 0⟩) [] }

def tSuppressCmd : Cmd := tPost 0x2802 [(24, 0x1000), (28, 0x4000), (36, 0x3F000000), (40, 256)]

theorem test_post_suppress : tNext (exec (.postSuppress 7) (tSuppress 2))
    (fun t => tPlace t 7 == some (.ended .ok 0) && t.devNat 0x4000 4 == 6) = true := by decide +kernel

theorem wit_post : let s := tPostOn 0x2801 tDecode tDecodeData
    let c := tPost 0x2801 tDecode
    s.postHead 7 0x2801 = some c ∧ s.waitPoisoned c = false ∧ s.badDesc c 0 = none ∧ s.landed c 0 = true ∧ s.fetchPoisoned c 0 = false ∧
      lowestCause (s.commonFails c 0 ++ (s.decodeWork c).fails) = none ∧ 2 ≤ s.postRoute c ∧ s.badRead (s.decodeWork c).reads = none ∧
      (s.reg .perf 0x40 0x080).testBit 31 = false ∧ s.softWords = [] ∧
      (tPostOn 0x2801 [] []).postHead 7 0x2801 = some (tPost 0x2801 []) ∧
      lowestCause ((tPostOn 0x2801 [] []).commonFails (tPost 0x2801 []) 0 ++ ((tPostOn 0x2801 [] []).decodeWork (tPost 0x2801 [])).fails) =
        some (.badOperand, 2) := by decide +kernel

theorem wit_post_routes : (tSuppress 1).postHead 7 0x2802 = some tSuppressCmd ∧ (tSuppress 1).waitPoisoned tSuppressCmd = false ∧
    (tSuppress 1).landed tSuppressCmd 0 = true ∧ (tSuppress 1).fetchPoisoned tSuppressCmd 0 = false ∧
    lowestCause ((tSuppress 1).commonFails tSuppressCmd 0 ++ ((tSuppress 1).suppressWork tSuppressCmd).fails) = none ∧ (tSuppress 1).postRoute tSuppressCmd = 1 ∧
    (tSuppress 0).postHead 7 0x2802 = some tSuppressCmd ∧ (tSuppress 0).postRoute tSuppressCmd = 0 ∧
    lowestCause ((tSuppress 0).commonFails tSuppressCmd 0 ++ ((tSuppress 0).suppressWork tSuppressCmd).fails) = none := by decide +kernel

theorem wit_post_waits : let w := (12, 2 ^ 15 + 12) :: (16, 1) :: tDecode
    let f := (20, 2 ^ 31 + 0x400) :: tDecode
    let p := { tPostOn 0x2801 w tDecodeData with flags := SMap.set [] 12 ⟨0, true, 5, true⟩ }
    let q := tPostOn 0x2801 f (tDecodeData ++ tFetchData 64)
    let b := { tPostOn 0x2801 tDecode tDecodeData with badWords := [(tW + 0x1040) / 8] }
    p.postHead 7 0x2801 = some (tPost 0x2801 w) ∧ p.waitPoisoned (tPost 0x2801 w) = true ∧ q.postHead 7 0x2801 = some (tPost 0x2801 f) ∧
      q.waitPoisoned (tPost 0x2801 f) = false ∧ q.landed (tPost 0x2801 f) 0 = false ∧ q.fetchFails (tPost 0x2801 f) 0 = [] ∧
      q.badDesc (tPost 0x2801 f) 0 = none ∧ ({ q with badWords := [(tW + 0x408) / 8] } : State).badDesc (tPost 0x2801 f) 0 = some (tW + 0x408) ∧
      b.postHead 7 0x2801 = some (tPost 0x2801 tDecode) ∧ (b.badRead (b.decodeWork (tPost 0x2801 tDecode)).reads).isSome = true ∧
      lowestCause (b.commonFails (tPost 0x2801 tDecode) 0 ++ (b.decodeWork (tPost 0x2801 tDecode)).fails) = none := by decide +kernel

/-- A DMA_COPY of `n` descriptors in channel 7. -/
def tDma (n : Nat) : Cmd := tCmd 7 0x4001 [(8, 0x1000), (16, n), (18, 7)] (.queued (.dma 7))

/-- A descriptor at 0x1000: 4 bytes from 0x2000 to 0x3000. -/
def tDmaOn (n : Nat) : State := { tWith (tDma n) with
  mem := ((Memory.writeRun 0 [] 0x1000 (leBytes 8 0x2000 ++ leBytes 8 0x3000 ++ leBytes 4 4 ++ leBytes 2 1)).writeRun 0 0x2000 [1, 2, 3, 4]) }

theorem wit_dma : let s := tDmaOn 1
    let c := tDma 1
    let d : DmaDesc := ⟨0x2000, 0x3000, 4, 1, false, false, false, true, 0, 0⟩
    MemOk s ∧ s.cmd? 7 = some c ∧ c.place = .queued (.dma 7) ∧ s.dmaNext 7 = some c ∧ s.waitPoisoned c = false ∧ s.dmaCopyFails c = [] ∧
      s.dmaHeld c = false ∧ (s.reg .perf 0x40 0x080).testBit 31 = false ∧ s.softWords = [] ∧
      c.num 16 2 = 1 ∧ (c.num 19 1).testBit 0 = false ∧ s.listGone 0x1000 false = none ∧ s.badIn 0x1000 32 = false ∧ dmaDesc (s.devGet 0x1000 32) = d ∧ s.dmaFails d = [] ∧
      s.onLostDie 0x2000 4 = false ∧ s.onLostDie 0x3000 4 = false ∧ s.descRoute d ≠ 0 ∧ s.badIn 0x2000 4 = false ∧
      lowestCause ((tDmaOn 0).dmaCopyFails (tDma 0)) = some (.badOperand, 2) ∧ s.hostWrites .dma 0 = true ∧ (s.channel 7).en = true ∧
      State.reset.hostWrites .dma 0 = false := ⟨memOk_of (by decide +kernel), by decide +kernel⟩

theorem wit_dma_waits : let c := tCmd 7 0x4001 [(8, 0x1000), (16, 1), (18, 7), (20, 2 ^ 15 + 12), (24, 1)] (.queued (.dma 7))
    let p := { tWith c with flags := SMap.set [] 12 ⟨0, true, 5, true⟩ }
    let d := tCmd 7 0x4001 [(8, tW + 0x1000), (16, 1), (18, 7)] (.queued (.dma 7))
    let h := { tWith d with welt := (List.range 25).foldl (fun m k => m.set k ⟨1, 0, 0, 0⟩) [] }
    p.dmaNext 7 = some c ∧ p.waitPoisoned c = true ∧ h.dmaNext 7 = some d ∧ h.waitPoisoned d = false ∧ h.dmaCopyFails d = [] ∧ h.dmaHeld d = true := by
  decide +kernel

theorem test_dma : tNext (exec (.dmaCopy 7) (tDmaOn 1)) (fun t => t.devNat 0x3000 4 == 0x04030201 && (t.channel 7).bytes == 4) = true := by decide +kernel

theorem wit_hint : let c := tCmd 7 0x8001 [(8, 0x0C), (10, 7), (12, 10000), (16, 1000000)] .pending
    (tWith c).cmd? 7 = some c ∧ c.opcode = 0x8001 ∧ (tWith c).stopped = false ∧ (tWith c).freeEntry 3 = some .own ∧ (tWith c).devState = 3 ∧
      (tWith c).hintBefore c = false ∧ c.num 10 1 = 7 ∧ c.num 16 4 = 1000000 ∧ c.num 12 4 = 10000 ∧ c.num 11 1 = 0 ∧ c.num 24 40 = 0 ∧
      ({ tWith c with cmds := [{ c with uid := 6 }, c] } : State).hintBefore c = true ∧ (tCmd 7 0x8001 [(10, 8), (16, 1)] .pending).num 10 1 = 8 ∧
      (tCmd 7 0x8001 [(10, 8)] .pending).num 16 4 = 0 ∧ (tCmd 7 0x8001 [(12, 10001), (16, 1000001)] .pending).num 12 4 = 10001 ∧
      (tCmd 7 0x8001 [(12, 10001), (16, 1000001)] .pending).num 16 4 = 1000001 ∧ (tCmd 7 0x8001 [(11, 1), (16, 1), (63, 1)] .pending).num 11 1 ≠ 0 ∧
      (tCmd 7 0x8001 [(11, 1), (16, 1), (63, 1)] .pending).num 24 40 ≠ 0 ∧
      (tNoEntry (tWith c)).cmd? 7 = some c ∧ (tNoEntry (tWith c)).freeEntry 3 = none ∧ ({ tWith c with devState := 6 } : State).devState = 6 := by decide +kernel

theorem test_hint : tNext (exec (.hintPhase 7) (tWith (tCmd 7 0x8001 [(8, 0x0C), (10, 7), (12, 10000), (16, 1000000)] .pending)))
    (fun t => tPlace t 7 == some (.ended .ok 0) && (t.pwr.hints.map (·.level)) == [7]) = true := by decide +kernel

/-- An audit command at the head of its queue. -/
def tAudit (op : Nat) (fields : List (Nat × Nat)) : Cmd := tCmd 7 op fields (.queued .audit)

theorem wit_audit : let m := tAudit 0x9001 [(8, 0x1000), (16, 64), (20, 0xC1)]
    let q := tAudit 0x9002 [(8, 0x1000)]
    (tWith m).cmd? 7 = some m ∧ (tWith m).auditHead 7 0x9001 = some m ∧ (tWith m).onLostDie 0x1000 64 = false ∧ (tWith m).onLostDie 0x1000 1024 = false ∧
      (tWith m).measureFails m = [] ∧ (tWith m).badIn 0x1000 64 = false ∧ m.num 20 1 % 4 ≠ 2 ∧ ((tWith m).reg .perf 0x40 0x080).testBit 31 = false ∧
      (tWith m).softWords = [] ∧ (tWith q).auditHead 7 0x9002 = some q ∧ (tWith q).quoteOut 0x1000 = true ∧ q.num 48 16 = 0 := by decide +kernel

theorem wit_audit_fails : let m := tAudit 0x9001 [(8, 0x1000), (16, 64), (20, 3)]
    let l := tAudit 0x9001 [(8, 0x20010000000), (16, 64), (20, 1)]
    let b := tAudit 0x9001 [(8, tW), (16, 64), (20, 1)]
    let a : Cmd := { tAudit 0x9001 [(8, 0x1000), (16, 64), (20, 2)] with step := some 6 }
    let q := tAudit 0x9002 [(8, 0x1001)]
    let k := tAudit 0x9002 [(8, 0x20010000000)]
    lowestCause ((tWith m).measureFails m) = some (.badOperand, 2) ∧ (tWith m).auditHead 7 0x9001 = some m ∧
      ({ tWith l with cdLost := 2 } : State).auditHead 7 0x9001 = some l ∧ ({ tWith l with cdLost := 2 } : State).measureFails l = [] ∧
      ({ tWith l with cdLost := 2 } : State).onLostDie 0x20010000000 64 = true ∧
      ({ tWith b with badWords := [tW / 8] } : State).measureFails b = [] ∧ ({ tWith b with badWords := [tW / 8] } : State).onLostDie tW 64 = false ∧
      ({ tWith b with badWords := [tW / 8] } : State).badIn tW 64 = true ∧ ({ tWith b with badWords := [tW / 8] } : State).auditHead 7 0x9001 = some b ∧
      ({ tWith a with steps := [tStep] } : State).auditHead 7 0x9001 = some a ∧ ({ tWith a with steps := [tStep] } : State).measureFails a = [] ∧
      a.num 20 1 % 4 = 2 ∧ (tWith q).auditHead 7 0x9002 = some q ∧
      lowestCause (failIf (!(tWith q).quoteOut 0x1001) .badOperand 0x01 ++ failIf (q.num 48 16 != 0) .badOperand 0x04) = some (.badOperand, 1) ∧
      ({ tWith k with cdLost := 2 } : State).quoteOut 0x20010000000 = true ∧ ({ tWith k with cdLost := 2 } : State).onLostDie 0x20010000000 1024 = true ∧
      ({ tWith k with cdLost := 2 } : State).auditHead 7 0x9002 = some k := by decide +kernel

theorem test_measure_seals : tNext (exec (.auditMeasure 7) (tWith (tAudit 0x9001 [(8, 0x1000), (16, 64), (20, 0xC1)])))
    (fun t => (t.job 5).weightsSealed && !(t.job 5).progSealed && tPlace t 7 == some (.ended .ok 0)) = true := by decide +kernel

/-! ### The matching engine, its staging memory, and cairn records -/

/-- A pyramid record of a 64 by 64 frame with three levels (R350). -/
def tPyr (luma : Nat) : List Byte :=
  leBytes 2 0x10 ++ leBytes 2 64 ++ leBytes 2 64 ++ [0x0B, 3] ++ leBytes 32 0 ++ leBytes 8 luma ++ leBytes 2 128 ++ leBytes 2 64 ++ leBytes 2 64 ++ leBytes 10 0

/-- A command for the ME: ring 0 to 1, TOP 2, a window of 1 by 1 and a range of 1. -/
def tMeCmd (op top : Nat) : Cmd :=
  tCmd 7 op [(8, 0x1000), (16, 0x1040), (24, 16), (28, 2), (30, top), (32, 1), (33, 1), (34, 1), (36, 1), (38, 1)] (.queued .me)

def tMe (op top : Nat) : State := { tWith (tMeCmd op top) with mem := Memory.writeRun 0 [] 0x1000 (tPyr 0x4000 ++ tPyr 0x8000) }

/-- The same with the Welt module of the matching die in a state. -/
def tMeWelt (welt : Nat) : State := { tMe 0x5001 2 with welt := SMap.set tBase.welt 24 ⟨welt, 0, 0, 0⟩ }

theorem wit_matching : (tMe 0x5001 2).cmd? 7 = some (tMeCmd 0x5001 2) ∧ (tMe 0x5001 2).meNext = some (tMeCmd 0x5001 2) ∧
    (tMe 0x5001 2).meFails (tMeCmd 0x5001 2) = [] ∧ 2 ≤ (tMe 0x5001 2).meRoute ∧ (tMe 0x5001 2).badPyramid (tMeCmd 0x5001 2) = none ∧
    ((tMe 0x5001 2).reg .perf 0x40 0x080).testBit 31 = false ∧ (tMe 0x5001 2).softWords = [] ∧
    (tMe 0x5002 1).meNext = some (tMeCmd 0x5002 1) ∧ lowestCause ((tMe 0x5002 1).meFails (tMeCmd 0x5002 1)) = some (.badOperand, 2) := by decide +kernel

theorem wit_matching_routes : (tMeWelt 1).meNext = some (tMeCmd 0x5001 2) ∧ (tMeWelt 1).meFails (tMeCmd 0x5001 2) = [] ∧ (tMeWelt 1).meRoute = 1 ∧
    (tMeWelt 0).meNext = some (tMeCmd 0x5001 2) ∧ (tMeWelt 0).meFails (tMeCmd 0x5001 2) = [] ∧ (tMeWelt 0).meRoute = 0 ∧
    (let s := { tMe 0x5001 2 with badWords := [0x1040 / 8], protEff := 1 }
     s.meNext = some (tMeCmd 0x5001 2) ∧ s.meFails (tMeCmd 0x5001 2) = [] ∧ 2 ≤ s.meRoute ∧ s.badPyramid (tMeCmd 0x5001 2) = some 0x1040) := by decide +kernel

theorem test_subpixel : subpixel 10 0 10 = 0 ∧ subpixel 20 0 4 = 5 ∧ subpixel 1 0 100 = -8 ∧ subpixel 5 5 5 = 0 := by decide +kernel

theorem test_winner_ties : winner (fun _ => 0) [(1, 0), (0, 1), (0, -1), (-1, 0)] = (0, -1) := by decide +kernel

/-- The ME with a command that runs, two rows, `gen` rows filled, and the ring's window. -/
def tStage (gen staged : Nat) (window : SMap StageRow) : State :=
  { tMe 0x5001 2 with
    me := { MeState.reset with
      uid := some 7, rows := [[(0, [9])], [(64, [8])]], staged := staged, waitSince := if gen = 2 then some 40 else none, window := window }
    flags := SMap.set [] 16 ⟨BitVec.ofNat 32 gen, true, 5, false⟩ }

theorem wit_row_stage : MemOk (tStage 0 0 []) ∧ (tStage 0 0 []).meCmd = some (tMeCmd 0x5001 2) ∧ (tStage 0 0 []).meRoute = 2 ∧
    (tStage 0 0 []).ringCredit (tMeCmd 0x5001 2) = true ∧ (tStage 0 0 []).slotsHeld < (tStage 0 0 []).pslots ∧ (tStage 0 0 []).me.stallFrom = none ∧
    (tStage 0 0 []).me.late = false ∧ 0 + 1 < (tStage 0 0 []).me.rows.length ∧ ((tStage 0 0 []).flag 16).poison = false ∧
    (tStage 2 0 []).meCmd = some (tMeCmd 0x5001 2) ∧ (tStage 2 0 []).ringCredit (tMeCmd 0x5001 2) = false ∧
    (tStage 1 1 []).ringCredit (tMeCmd 0x5001 2) = true ∧ (tStage 1 1 []).slotsHeld < (tStage 1 1 []).pslots ∧
    (tStage 1 1 []).me.rows.length ≤ 1 + 1 ∧ (({ tStage 1 1 [] with me := { (tStage 1 1 []).me with late := true } } : State).me.late = true) ∧
    (({ tStage 0 0 [] with welt := [] } : State).meRoute ≠ 2) ∧
    (({ tStage 0 0 [] with flags := SMap.set [] 16 ⟨0, true, 5, true⟩ } : State).flag 16).poison = true :=
  ⟨memOk_of (by decide +kernel), by decide +kernel⟩

theorem test_row_stage : tNext (exec .meRowStage (tStage 0 0 [])) (fun t => (t.flag 16).gen == 1 && t.devNat (stagingBase + 20) 4 == 1 && t.devNat stagingBase 1 == 9) = true ∧
    tNext (exec .meRowStage (tStage 1 1 [])) (fun t => tPlace t 7 == some (.ended .ok 0)) = true := by decide +kernel

/-- Staging memory whose 16 physical slots of the largest size are held by rows of another ring, with spilling enabled or not. -/
def tNoSlot (spill : Bool) : State :=
  (tStage 0 0 ((List.range 16).map fun k => (32 + k, ⟨100, 1, 50 + k, false⟩))).setReg .me 0 0x04C (b2n spill * 2 ^ 31 + 64 * 2 ^ 16 + 255 * 256)

theorem wit_row_stage_full : (tNoSlot false).meCmd = some (tMeCmd 0x5001 2) ∧ (tNoSlot false).meRoute = 2 ∧ (tNoSlot false).ringCredit (tMeCmd 0x5001 2) = true ∧
    (tNoSlot false).pslots ≤ (tNoSlot false).slotsHeld ∧ (tNoSlot false).spillEn = false ∧ (tNoSlot true).meCmd = some (tMeCmd 0x5001 2) ∧
    (tNoSlot true).ringCredit (tMeCmd 0x5001 2) = true ∧ (tNoSlot true).pslots ≤ (tNoSlot true).slotsHeld ∧ (tNoSlot true).spillEn = true ∧
    (tNoSlot true).oldestRow = some (32, ⟨100, 1, 50, false⟩) ∧ (tNoSlot true).me.late = false := by decide +kernel

/-- A staged row of the ring that has not been returned, with spilling enabled. -/
def tSpill : State := (tStage 2 0 [(3, ⟨16, 1, 100, false⟩)]).setReg .me 0 0x04C (2 ^ 31 + 64 * 2 ^ 16 + 16 * 256)

theorem wit_spill : MemOk tSpill ∧ tSpill.me.window.find? 3 = some ⟨16, 1, 100, false⟩ ∧ tSpill.spillEn = true ∧ tSpill.stageHeld ⟨16, 1, 100, false⟩ = true ∧
    tSpill.softWords = [] ∧ tSpill.meWaiting = some (tMeCmd 0x5001 2, 40) ∧ bits (tSpill.reg .sched 0 0x048) 15 0 ≠ 0 ∧ tSpill.hostWrites .me 0 = true ∧
    tSpill.stageIdle = false ∧ tBase.hostWrites .me 0 = true ∧ tBase.stageIdle = true ∧ State.reset.hostWrites .me 0 = false :=
  ⟨memOk_of (by decide +kernel), by decide +kernel⟩

theorem test_ring_timeout : tNext (exec .meRingTimeout tSpill) (fun t => tPlace t 7 == some (.ended .timeout 0x41)) = true := by decide +kernel

/-- A due record, with `seq` records written before it. -/
def tCairn (seq : Nat) (due : List CairnDue) : State := { tBase with cairn := { Cairn.reset with seq := seq, due := due } }

theorem wit_cairn : let d : CairnDue := ⟨0, [], [], [], some []⟩
    (tCairn 15 [d]).devState ≠ 5 ∧ (tCairn 15 [d]).cairn.due = d :: [] ∧ (tCairn 15 [d]).cairnFull = false ∧ (tCairn 4096 [d]).cairn.due = d :: [] ∧
      (tCairn 4096 [d]).cairnFull = true ∧ (tCairn 0 []).cairn.due = [] ∧ ({ tCairn 0 [d] with devState := 5 } : State).devState = 5 ∧
      (tCairn 15 [⟨0, [], [], [], none⟩]).linesSent = true ∧ ((tCairn 15 [⟨0, [], [], [], none⟩]).sealCairn.cairn.due.head?).isSome = true ∧
      ((tCairn 15 [d]).reg .sec 0 0x100).testBit 30 = false ∧ tBase.hostWrites .sec 0 = true ∧ tBase.cairnEn = false ∧
      (tBase.setReg .sec 0 0x100 (2 ^ 31)).cairnEn = true ∧ (2 ^ 31 : Nat).testBit 31 = true ∧ State.reset.hostWrites .sec 0 = false := by decide +kernel

theorem test_cairn_drop : tNext (exec .cairnRecordWrite (tCairn 4096 [⟨0, [], [], [], some []⟩])) (fun t => t.cairn.gap && t.reg .sec 0 0x118 == 1) = true := by
  decide +kernel

/-! ### The raster engine -/

/-- A command in the raster queue. -/
def tRas (op : Nat) (fields : List (Nat × Nat)) : Cmd := tCmd 7 op ((8, 0xFFFF) :: fields) (.queued .raster)

/-- A pass of 64 by 64 pixels at 0x100000, its depth at 0x200000 (R224). -/
def tPassBytes : List Byte :=
  leBytes 2 0x0C ++ [0, 0] ++ leBytes 4 7 ++ leBytes 4 0x3F800000 ++ leBytes 2 64 ++ leBytes 2 64 ++ leBytes 8 0x100000 ++ leBytes 4 256 ++ leBytes 4 0 ++
    leBytes 8 0x200000 ++ leBytes 8 0 ++ leBytes 16 0

/-- That pass, opened by command 4. -/
def tPass : RPass :=
  { uid := 4, job := 5, apt := 1, step := none, canvas := false, frame := none, load := false, fmt := 0, clear := 7, clearZ := 0x3F800000
    w := 64, h := 64, target := 0x100000, pitch := 256, spill := 0x200000, tex := 0, texCount := 0, bins := BinLists.fresh, flushed := []
    closer := none, doneBins := [], fail := none }

/-- A record of a triangle at the origin with sides of 10 (R225); `tex` is its texture index. -/
def tRecord (tex : Nat) : List Byte :=
  leBytes 12 0 ++ leBytes 4 0x41200000 ++ leBytes 8 0 ++ leBytes 4 0 ++ leBytes 4 0x41200000 ++ leBytes 4 0 ++ leBytes 12 0 ++ leBytes 4 0 ++ leBytes 2 tex ++ leBytes 10 0

/-- The device with one raster command, the passes and the record. -/
def tRaster (c : Cmd) (passes : List RPass) (tex : Nat) : State :=
  { tWith c with
    raster := { Raster.reset with passes := passes }
    mem := ((Memory.writeRun 0 [] 0x1000 tPassBytes).writeRun 0 0x2000 (tRecord tex)) }

def tOpen : Cmd := tRas 0x6001 [(24, 0x1000)]
def tDraw : Cmd := tRas 0x6002 [(24, 0x2000), (32, 1)]
def tClose : Cmd := tRas 0x6003 []

theorem wit_raster_checks : (tRaster tDraw [] 0xFFFF).cmd? 7 = some tDraw ∧ (∀ d ∈ (tRaster tDraw [] 0xFFFF).cmds, d.uid = 7 → d = tDraw) ∧
    (tRaster tDraw [] 0xFFFF).rasterHead 7 0x6002 = some tDraw ∧ (tRaster tDraw [] 0xFFFF).begun 7 = false ∧ (tRaster tDraw [] 0xFFFF).waitPoisoned tDraw = false ∧
    lowestCause ((tRaster tDraw [] 0xFFFF).drawFails tDraw) = some (.badOperand, 0x50) := by decide +kernel

theorem wit_raster_waits : let c := tRas 0x6003 [(12, 2 ^ 15 + 12), (16, 1)]
    let s := { tRaster c [] 0xFFFF with flags := SMap.set [] 12 ⟨0, true, 5, true⟩ }
    s.cmd? 7 = some c ∧ (∀ d ∈ s.cmds, d.uid = 7 → d = c) ∧ s.rasterHead 7 0x6003 = some c ∧ s.begun 7 = false ∧ s.waitPoisoned c = true := by decide +kernel

/-- Eight open passes of other jobs. -/
def tEight : List RPass := (List.range 8).map fun k => { tPass with uid := 10 + k, job := 20 + k }

theorem wit_pass_open : (tRaster tOpen [] 0xFFFF).rasterHead 7 0x6001 = some tOpen ∧ (tRaster tOpen [] 0xFFFF).passOpenFails tOpen = [] ∧
    (tRaster tOpen [] 0xFFFF).waitPoisoned tOpen = false ∧ (tRaster tOpen [] 0xFFFF).badIn 0x1000 64 = false ∧
    (tRaster tOpen [] 0xFFFF).passFailed ((tRaster tOpen [] 0xFFFF).passAt tOpen 0x1000) = false ∧ tOpen.opcode = 0x6001 ∧
    (tRaster tOpen tEight 0xFFFF).waitsForPass tOpen = true ∧ (∀ d ∈ (tRaster tOpen [] 0xFFFF).cmds, d.uid = 7 → d = tOpen) ∧
    (let s := { tRaster tOpen [] 0xFFFF with badWords := [0x1008 / 8], protEff := 1 }
     s.rasterHead 7 0x6001 = some tOpen ∧ s.passOpenFails tOpen = [] ∧ s.badIn 0x1000 64 = true) := by decide +kernel

/-- The pass of frame 4, and one that has failed. -/
def tFramePass : RPass := { tPass with canvas := true, frame := some 4, step := some 6 }
def tFailedPass : RPass := { tPass with fail := some (0x35, ⟨0, 0, 1⟩) }

theorem wit_pass_close : let p := { tPass with doneBins := [0] }
    let s := tRaster tClose [p] 0xFFFF
    s.rasterHead 7 0x6003 = some tClose ∧ s.waitPoisoned tClose = false ∧ s.passCloseFails tClose = [] ∧ s.openPass 5 1 = some p ∧ tPass.frame = none ∧
      tPass.fail = none ∧ s.raster.stalled = [] ∧ (∀ q ∈ s.raster.passes, q.uid = 4 → q = p) ∧
      s.passDone { p with closer := some 7 } = true ∧ (tRaster tClose [tPass] 0xFFFF).passDone { tPass with closer := some 7 } = false ∧
      (tRaster tClose [tPass] 0xFFFF).openPass 5 1 = some tPass ∧ (tRaster tClose [tPass] 0xFFFF).rasterHead 7 0x6003 = some tClose ∧
      (tRaster tClose [tFailedPass] 0xFFFF).openPass 5 1 = some tFailedPass ∧ (tRaster tClose [tFailedPass] 0xFFFF).rasterHead 7 0x6003 = some tClose ∧
      tFailedPass.fail = some (0x35, ⟨0, 0, 1⟩) ∧ ({ tRaster tClose [tFramePass] 0xFFFF with steps := [tStep] } : State).openPass 5 1 = some tFramePass ∧
      ({ tRaster tClose [tFramePass] 0xFFFF with steps := [tStep] } : State).rasterHead 7 0x6003 = some tClose ∧ tFramePass.frame = some 4 := by decide +kernel

theorem test_pass_close : tNext (exec (.rsPassClose 7) (tRaster tClose [{ tPass with doneBins := [0] }] 0xFFFF))
    (fun t => tPlace t 7 == some (.ended .ok 0) && t.raster.passes == []) = true := by decide +kernel

theorem wit_draw : let s := tRaster tDraw [tPass] 0xFFFF
    let x : Packet := BitVec.ofNat 512 (s.devNat 0x2000 64)
    s.rasterHead 7 0x6002 = some tDraw ∧ s.waitPoisoned tDraw = false ∧ s.drawFails tDraw = [] ∧ s.badIn 0x2000 64 = false ∧ tDraw.num 32 4 = 1 ∧
      (s.reg .perf 0x40 0x080).testBit 31 = false ∧ s.softWords = [] ∧ s.drawn 7 = (0, 0) ∧ s.openPass 5 1 = some tPass ∧ badRecord 0 x = false ∧
      ((triOf x).map fun y => y.bins 64 64) = some [(0, 0)] ∧ 2 ≤ s.freeChunks ∧ tPass.canvas = false ∧ (∀ y ∈ s.raster.passes, y.uid = 4 → y = tPass) ∧
      badRecord 0 (BitVec.ofNat 512 ((tRaster tDraw [tPass] 0).devNat 0x2000 64)) = true ∧
      (let b := { s with badWords := [0x2000 / 8], protEff := 1 }
       b.rasterHead 7 0x6002 = some tDraw ∧ b.drawFails tDraw = [] ∧ (b.itemError [] (b.recordReads tDraw)).isSome = true) := by decide +kernel

/-- A parked draw that has binned its one record, and one that a grow fault stalls. -/
def tParked : State :=
  { tRaster tDraw [tPass] 0xFFFF with raster := { Raster.reset with passes := [tPass], parked := [7], draws := [(7, (1, 0))] } }

def tStalled : State := { tRaster tDraw [tPass] 0xFFFF with raster := { Raster.reset with passes := [tPass], stalled := [(7, 30)] } }

/-- Bin memory of 8 MiB, a quarter of it kept for warps, and all else taken by a canvas pass of another job. -/
def tFull : State :=
  { (tRaster tDraw [] 0xFFFF).setReg .raster 0 0x048 (512 * 2 ^ 16 + 8 * 2 ^ 8) with
    raster := { Raster.reset with
      passes := [tPass, { tPass with
        uid := 3, job := 6, canvas := true, w := 3840, h := 2160
        bins := ⟨(List.range 768).map fun k => (k, [⟨0, 512 + 2 * k, 513 + 2 * k⟩]), 0, 0, none⟩ }]
      stalled := [(7, 30)] } }

theorem wit_draw_held : tParked.cmd? 7 = some tDraw ∧ tParked.inRaster 7 = true ∧ tParked.raster.parked.contains 7 = true ∧ 0 < tParked.freeChunks ∧
    tDraw.num 32 4 ≤ (tParked.drawn 7).1 ∧ tParked.badWords = [] ∧ tParked.softWords = [] ∧ tStalled.inRaster 7 = true ∧
    (tStalled.raster.stalled.find? fun x => x.1 == 7) = some (7, 30) ∧ (tParked.page .raster 0).faulted = false ∧ (tStalled.page .raster 0).faulted = false ∧
    (({ tParked with pages := SMap.set [] (Blk.base .raster 0) { tBase.page .raster 0 with faulted := true } } : State).page .raster 0).faulted = true := by
  decide +kernel

/-- That state at the time at which its page has not come. -/
def tFullDue : State :=
  ((tFull.at (30 + max 1 (bits (tFull.reg .raster 0 0x04C) 15 0) * usTicks)).bump .raster 0 0x068 1).irq .raster 0 0b100000

/-- The same command parked. -/
def tFullParked : State := { tFull with raster := { tFull.raster with stalled := [], parked := [7] } }

theorem wit_full_taken : tFullDue.takenChunks = List.range' 512 1536 := by decide +kernel
theorem wit_parked_taken : tFullParked.takenChunks = List.range' 512 1536 := by decide +kernel

theorem freeChunks_of_range {s : State} (h : s.takenChunks = List.range' 512 1536) (hc : s.chunks - s.warpReserve = 1536) (hw : s.warpReserve = 512) :
    s.freeChunks = 0 := by
  rw [State.freeChunks, h, (List.nodup_range' ..).dedup, hc, hw]
  decide +kernel

theorem firstFree_eq_none {used : List Nat} : ∀ (n k : Nat), (∀ j, k ≤ j → j < k + n → used.contains j = true) → firstFree used n k = none := by
  intro n
  induction n with
  | zero => intro k _; rfl
  | succ n ih =>
    intro k h
    rw [firstFree, if_pos (h k (Nat.le_refl k) (by omega))]
    exact ih (k + 1) fun j h1 h2 => h j (by omega) (by omega)

theorem add_eq_false {b : BinLists} {used : List Nat} {low top k : Nat} {x : Packet} {new : Bool} (hl : b.lists = []) (ha : b.ahead = none)
    (h : firstFree used (top - low) low = none) : (b.add used low top x k new).2 = false := by
  simp [BinLists.add, BinLists.recordChunk, hl, ha, h]

theorem refInto_eq_false {s : State} {c : Cmd} {x : Packet} {e : Nat × Nat} {p : RPass} (hp : s.openPass c.job c.apt = some p)
    (h : ((s.heldLists p).add s.takenChunks s.warpReserve s.chunks x e.2 (e.1 == 0)).2 = false) : (s.refInto c x e).2 = false := by
  rw [State.refInto, hp]
  exact h

theorem wit_full_pass : tFullDue.openPass tDraw.job tDraw.apt = some tPass ∧ (tFullDue.heldLists tPass).lists = [] ∧ (tFullDue.heldLists tPass).ahead = none ∧
    tFullDue.warpReserve = 512 ∧ tFullDue.chunks = 2048 := by decide +kernel

theorem wit_no_chunk (x : Packet) : (tFullDue.refInto tDraw x (0, 0)).2 = false := by
  obtain ⟨hp, hl, ha, hw, hc⟩ := wit_full_pass
  refine refInto_eq_false hp (add_eq_false hl ha (firstFree_eq_none _ _ fun j h1 h2 => ?_))
  rw [wit_full_taken, List.contains_iff_mem, List.mem_range'_1]
  rw [hw] at h1
  rw [hw, hc] at h2
  omega

theorem wit_grow_parks : tFull.softWords = [] ∧ (tFull.raster.stalled.all fun y => y.1 == 7) = true ∧ tFull.drawn 7 = (0, 0) ∧
    tFullDue.itemError [] (tFullDue.recordReads tDraw) = none ∧ 0 < tDraw.num 32 4 ∧
    badRecord 0 (BitVec.ofNat 512 (tFull.devNat 0x2000 64)) = false ∧
    ((triOf (BitVec.ofNat 512 (tFull.devNat 0x2000 64))).map fun y => y.bins 64 64) = some [(0, 0)] := by decide +kernel

theorem wit_unpark_full : tFullParked.freeChunks = 0 ∧ tFullParked.inRaster 7 = true ∧ tFullParked.raster.parked.contains 7 = true :=
  ⟨freeChunks_of_range wit_parked_taken (by decide +kernel) (by decide +kernel), by decide +kernel⟩

theorem wit_grow_timeout : (tFullDue.rpasses.all fun p => (tFullDue.flushable p).isEmpty) = true ∧
    (tFull.raster.stalled.find? fun x => x.1 == 7) = some (7, 30) ∧ tFull.cmd? 7 = some tDraw ∧ tFull.inRaster 7 = true := by decide +kernel

theorem test_grow_timeout : tNext (exec (.growTimeout 7) tStalled) (fun t => tPlace t 7 == some (.ended .ok 0) && t.reg .raster 0 0x068 == 1) = true := by
  decide +kernel

theorem test_draw_then_bin : tNext (exec (.rsDraw 7) (tRaster tDraw [tPass] 0xFFFF)) (fun t => tPlace t 7 == some (.ended .ok 0) &&
    t.reg .raster 0 0x060 == 1) = true := by decide +kernel

theorem test_draw_skips : tNext (exec (.rsDraw 7) (tRaster tDraw [tPass] 0)) (fun t => tPlace t 7 == some (.ended .ok 0) && t.reg .raster 0 0x06C == 1) = true := by
  decide +kernel

/-- A closing pass of one bin without references, and one whose bin holds a reference in a chunk with an error. -/
def tClosing1 : RPass := { tPass with closer := some 7 }
def tItem : State := { tRaster tClose [tClosing1] 0xFFFF with now := 5 }
def tBadPass : RPass := { tClosing1 with bins := ⟨[(0, [⟨0, 9, 10⟩])], 9, 1, none⟩ }
def tBadItem : State :=
  { tRaster tClose [tBadPass] 0xFFFF with raster := { Raster.reset with passes := [tBadPass], badChunks := [9] } }

theorem wit_bin_item : (tItem.settleRaster.page .raster 0).faulted = false ∧ tItem.settleRaster.nextItem 0 = some ⟨2, none, 7, some 4, 0⟩ ∧
    (tItem.settleRaster.rpasses.find? fun q => q.uid == 4) = some tClosing1 ∧ tClosing1.frame = none ∧ tItem.settleRaster.raster.stalled = [] ∧
    tItem.softWords = [] ∧ tItem.settleRaster.nextItem 1 = none ∧
    (({ tItem with pages := SMap.set [] (Blk.base .raster 0) { tBase.page .raster 0 with faulted := true } } : State).settleRaster.page .raster 0).faulted = true := by
  decide +kernel

theorem wit_bin_item_reads : tItem.settleRaster.binFail tClosing1 0 = none := by decide +kernel

theorem wit_bin_item_fails : tBadItem.settleRaster.nextItem 0 = some ⟨2, none, 7, some 4, 0⟩ ∧ (tBadItem.settleRaster.page .raster 0).faulted = false ∧
    (tBadItem.settleRaster.rpasses.find? fun q => q.uid == 4) = some tBadPass ∧ tBadItem.settleRaster.raster.stalled = [] ∧
    (tBadItem.settleRaster.binFail tBadPass 0).map (·.1) = some 0x35 ∧ tBadPass.closer = some 7 ∧ tBadPass.fail = none ∧
    tBadItem.settleRaster.cmds = [tClose] ∧ tClose.unstarted = true := by decide +kernel

theorem wit_pages_and_bin_ctrl : tBase.hostWrites .raster 0 = true ∧ tBase.raster.pages.length < 64 ∧ tBase.raster.stalled = [] ∧
    64 ≤ ({ tBase with raster := { Raster.reset with pages := List.replicate 64 0 } } : State).raster.pages.length ∧ tBase.blkState .raster 0 = 1 ∧
    partitionOk (bits (tBase.reg .hsram 0 0x040) 12 8) (max 8 (min 32 (bits 0x800 13 8))) = true ∧
    partitionOk (bits ((tBase.setReg .hsram 0 0x040 (31 * 2 ^ 8)).reg .hsram 0 0x040) 12 8) (max 8 (min 32 (bits 0x2000 13 8))) =
      false ∧ tItem.blkState .raster 0 ≠ 1 ∧ State.reset.hostWrites .raster 0 = false := by decide +kernel

/-- A warp descriptor of a mesh of one cell (R235), and a mask descriptor that omits every input (R238). -/
def tWarpBytes : List Byte :=
  leBytes 2 0x0A ++ leBytes 2 0 ++ leBytes 4 0x3F800000 ++ leBytes 8 0x10000 ++ leBytes 8 0x10000 ++ leBytes 8 0x20000 ++ leBytes 8 0x20000 ++ leBytes 8 0x30000 ++
    leBytes 2 2 ++ leBytes 2 2 ++ leBytes 2 64 ++ leBytes 2 64 ++ leBytes 4 64 ++ leBytes 4 128

def tMaskBytes : List Byte := leBytes 2 0x0B ++ leBytes 62 0

/-- An RS_WARP, of an empty tile or not, and an RS_MASK. -/
def tWarp (empty : Nat) : Cmd := { tRas 0x6004 [] with step := some 6, pkt := tPacket 0x6004 [(24, 0x1000), (32, empty)] }
def tMask : Cmd := { tRas 0x6005 [] with step := some 6, pkt := tPacket 0x6005 [(24, 0x1040), (32, 0x8000)] }

/-- A raster command of tile 0, whose group has landing slot 0 of engine 0. -/
def tTile (c : Cmd) (tiles : List RTile) : State :=
  { tWith c with
    jobs := SMap.set [] 5 { tJob with land := BitVec.ofNat 32 (2 ^ 31 + 2 ^ 8) }
    steps := [tStep], groups := [tGroup]
    windows := SMap.set [] 20 (BitVec.ofNat 32 (2 ^ 31 + 16 * 2 ^ 10))
    raster := { Raster.reset with tiles := tiles }
    mem := Memory.writeRun 0 [] 0x1000 (tWarpBytes ++ tMaskBytes) }

/-- What command 7 has begun: a warp with its items of a round, or a mask. -/
def tWork (mask last : Bool) (todo : List Nat) (bins : BinLists) : RTile :=
  { uid := 7, turn := 1, mask := mask, desc := (tTile tMask []).devPacket (if mask then 0x1040 else 0x1000), range := 0, taken := (0, 0), bins := bins
    todo := todo, last := last, depth := [] }

theorem wit_warp_and_mask : (tTile (tWarp 0) []).cmd? 7 = some (tWarp 0) ∧ (tTile (tWarp 0) []).rasterHead 7 0x6004 = some (tWarp 0) ∧
    (tTile (tWarp 0) []).warpFails (tWarp 0) = [] ∧ (tTile (tWarp 0) []).waitPoisoned (tWarp 0) = false ∧ (tTile (tWarp 0) []).badWords = [] ∧
    (tTile (tWarp 0) []).softWords = [] ∧ (tTile (tWarp 0) []).tileWork 7 = none ∧ (tTile (tWarp 1) []).rasterHead 7 0x6004 = some (tWarp 1) ∧
    (tTile (tWarp 1) []).warpFails (tWarp 1) = [] ∧ ((tWarp 1).num 32 1).testBit 0 = true ∧
    (tTile (tWarp 0) [tWork false false [] BinLists.fresh]).rasterHead 7 0x6004 = some (tWarp 0) ∧
    ((tTile (tWarp 0) [tWork false false [] BinLists.fresh]).tileWork 7).isSome = true ∧ (tTile tMask []).rasterHead 7 0x6005 = some tMask ∧
    (tTile tMask []).maskFails tMask = [] ∧ (tTile tMask []).begun 7 = false ∧ (tTile tMask []).badWords = [] ∧
    (∀ d ∈ (tTile tMask []).cmds, d.uid = 7 → d = tMask) ∧ (∀ d ∈ (tTile (tWarp 0) []).cmds, d.uid = 7 → d = tWarp 0) := by decide +kernel

/-- A warp of an empty tile in its last round, with one item left or two, by modules in state `welt`. -/
def tWarping (todo : List Nat) (welt : Nat) : State :=
  { tTile (tWarp 1) [tWork false true todo BinLists.fresh] with welt := (List.range 25).foldl (fun m k => m.set k ⟨welt, 0, 0, 0⟩) [] }

theorem wit_warp_items : let w := tWork false true [0] BinLists.fresh
    let u := (tWarping [0] 2).settleRaster
    (u.page .raster 0).faulted = false ∧ u.nextItem 0 = some ⟨2, some 5000000, 7, none, 0⟩ ∧ u.tileWork 7 = some w ∧ u.cmd? 7 = some (tWarp 1) ∧
      (∀ d ∈ u.cmds, d.uid = 7 → d = tWarp 1) ∧ u.raster.stalled = [] ∧ (tWarping [0] 2).softWords = [] ∧ u.warpSlot (tWarp 1) = some tW ∧
      u.hubRoute (u.engineOf (tWarp 1) / 2) ≠ 0 ∧ w.last = true ∧ (∀ k ∈ w.todo, k = 0) ∧
      (tWarping [0, 1] 2).settleRaster.nextItem 0 = some ⟨2, some 5000000, 7, none, 0⟩ ∧
      (tWarping [0, 1] 2).settleRaster.tileWork 7 = some (tWork false true [0, 1] BinLists.fresh) ∧
      (tWarping [0] 0).settleRaster.nextItem 0 = some ⟨2, some 5000000, 7, none, 0⟩ ∧ (tWarping [0] 0).settleRaster.warpSlot (tWarp 1) = some tW ∧
      (tWarping [0] 0).settleRaster.hubRoute 0 = 0 := by decide +kernel

theorem wit_warp_item_reads : let u := (tWarping [0] 2).settleRaster
    u.itemError ((tWork false true [0] BinLists.fresh).bins.refs 0) (u.warpWork (tWarp 1) (tWork false true [0] BinLists.fresh) 0).reads = none := by
  decide +kernel

/-- A round of a warp whose bin 0 refers to a chunk with an error. -/
def tBadWarp : State :=
  let s := tTile (tWarp 0) [tWork false false [0] ⟨[(0, [⟨0, 9, 10⟩])], 9, 1, none⟩]
  { s with raster := { s.raster with badChunks := [9] } }

theorem wit_warp_item_fails : let w := tWork false false [0] ⟨[(0, [⟨0, 9, 10⟩])], 9, 1, none⟩
    let u := tBadWarp.settleRaster
    (u.page .raster 0).faulted = false ∧ u.nextItem 0 = some ⟨2, some 5000000, 7, none, 0⟩ ∧ u.tileWork 7 = some w ∧ u.cmd? 7 = some (tWarp 0) ∧
      u.raster.stalled = [] ∧ tBadWarp.softWords = [] ∧ u.warpSlot (tWarp 0) = some tW ∧ u.hubRoute (u.engineOf (tWarp 0) / 2) ≠ 0 ∧
      (u.badChunk (w.bins.refs 0)) = some 9 := by decide +kernel

/-- A begun mask with its items left. -/
def tMasking (todo : List Nat) : State := tTile tMask [tWork true true todo BinLists.fresh]

theorem wit_mask_items : let u := (tMasking [0, 1]).settleRaster
    (u.page .raster 0).faulted = false ∧ u.nextItem 0 = some ⟨2, some 5000000, 7, none, 0⟩ ∧ u.tileWork 7 = some (tWork true true [0, 1] BinLists.fresh) ∧
      u.cmd? 7 = some tMask ∧ (∀ d ∈ u.cmds, d.uid = 7 → d = tMask) ∧ u.raster.stalled = [] ∧ (tMasking [0, 1]).softWords = [] ∧
      u.itemError [] (u.maskItemReads tMask (MaskDesc.of (tWork true true [0, 1] BinLists.fresh).desc) 0) = none ∧ (u.stepOf tMask).bind (·.frame) = none ∧
      (tMasking [0]).settleRaster.tileWork 7 = some (tWork true true [0] BinLists.fresh) ∧
      (tMasking [0]).settleRaster.nextItem 0 = some ⟨2, some 5000000, 7, none, 0⟩ := by decide +kernel

/-- A mask that reads an interface mask plane with an uncorrectable word. -/
def tMaskBad : State :=
  let w : RTile := { tWork true true [0, 1] BinLists.fresh with
    desc := BitVec.ofNat 512 (leNat (leBytes 2 0x0B ++ leBytes 2 0 ++ leBytes 4 0x3F800000 ++ leBytes 8 0 ++ leBytes 8 0x40000 ++ leBytes 8 0 ++ leBytes 4 64 ++
      leBytes 4 64 ++ leBytes 2 64 ++ leBytes 2 64 ++ leBytes 20 0)) }
  { tTile tMask [w] with badWords := [0x40000 / 8], protEff := 1 }

theorem wit_mask_fails : let u := tMaskBad.settleRaster
    (u.page .raster 0).faulted = false ∧ u.nextItem 0 = some ⟨2, some 5000000, 7, none, 0⟩ ∧
      ((u.tileWork 7).bind fun w => u.itemError [] (u.maskItemReads tMask (MaskDesc.of w.desc) 0)).isSome = true := by decide +kernel

theorem test_mask_element : let box := (((Val.ofNat 4).r32, (Val.ofNat 5).r32), ((Val.ofNat 0).r32, (Val.ofNat 2).r32))
    let el := (tTile tMask []).maskElement ((MaskDesc.of ((tTile tMask []).devPacket 0x1040))) [box] 0 0
    el 2 0 = 255 ∧ el 1 0 = 0 ∧ el 3 0 = 0 ∧ el 2 1 = 0 := by decide +kernel

theorem test_mask_item : tNext (exec (.rasterBinItem 0) (tMasking [0])) (fun t => tPlace t 7 == some (.ended .ok 0)) = true := by decide +kernel

/-! ### The display engine -/

/-- A planned frame. -/
def tCal (f : Nat) : CalEntry := ⟨f, 900, 1000, 0, 2250, 1000, 1, true⟩

/-- The display engine after the fetch of frame 3 has begun, with output 0 enabled and trained, frames 3 and 4 planned, and step 6 bound to frame 4. -/
def tDisp : State :=
  { tBase with
    pages := SMap.set [] (Blk.base .dptx 0) { tBase.page .dptx 0 with enable := true }
    outs := SMap.set [] 0 { DpOut.fresh with hpd := true, trained := true, streaming := true }
    steps := [{ tStep with frame := some 4 }]
    disp := { Disp.reset with running := true, begun := 4, scanned := 3, entries := [tCal 3, tCal 4], bound := [(4, 6)], anchor := (1000, 1) } }

/-- The same with genlock on. -/
def tLock (sync : Nat) : State :=
  { tDisp with disp := { tDisp.disp with active := SMap.set [] (Blk.base .disp 0 + 0x080) (BitVec.ofNat 32 (2 ^ 31)), genlock := ⟨sync, 0, 0, 7, 0⟩ } }

theorem wit_frames : MemOk tDisp ∧ tDisp.disp.running = true ∧ tDisp.disp.stopping = false ∧ tDisp.disp.committed = none ∧ tDisp.nextFrame < tDisp.disp.begun + 4 ∧
    tDisp.disp.hold = false ∧ tDisp.boundStep 4 = some 6 ∧ tDisp.plan 4 = some (tCal 4) ∧ tDisp.directPath 4 = true ∧ tDisp.boundHeader 4 = false ∧
    SMap.find? tDisp.raster.marks 4 = none ∧ (∀ g ∈ tDisp.groups, g.step = 6 → g.cancelled = true → g.tile < tDisp.tileCount) ∧
    tDisp.curFrame = some 3 ∧ tDisp.plan 3 = some (tCal 3) ∧ tDisp.disp.scanBegun = false ∧ tDisp.outputs = [0] :=
  ⟨memOk_of (by decide +kernel), by decide +kernel⟩

/-- The frame being scanned, after its first line. -/
def tScan : State := { tDisp with disp := { tDisp.disp with scanBegun := true, rowsDone := 9 } }

theorem wit_lines : tScan.curFrame = some 3 ∧ tScan.plan 3 = some (tCal 3) ∧ tScan.outputs.contains 0 = true ∧ 2159 < tScan.vActive ∧ tScan.lineKnown 0 2159 = true ∧
    tScan.lowWm ≤ tScan.lowWm ∧ 0 < tScan.lowWm ∧ (tScan.out 0).streaming = true ∧ (tScan.out 0).blocked = false ∧ tScan.badWords = [] ∧ tScan.hActive ≤ 3840 ∧
    tScan.disp.scanned = 3 ∧ tScan.rowsOver = true ∧ tScan.cairnEn = false ∧ tScan.recordsFrame 3 = false ∧
    (tScan.setReg .sec 0 0x100 (2 ^ 31)).recordsFrame 3 = true ∧ (tScan.setReg .sec 0 0x100 (2 ^ 31)).cairn.lines.find? (tScan.lineKey 0 2159) = none ∧
    (({ tScan with outs := SMap.set [] 0 { tScan.out 0 with blocked := true } } : State).out 0).blocked = true ∧
    ((tScan.setReg .sec 0 0x100 (2 ^ 31)).cairnEn = true) ∧ (tScan.setReg .sec 0 0x100 (2 ^ 31)).cairn.firstFrame ≤ 3 ∧ tScan.disp.held = false ∧
    tScan.devState ≠ 5 := by decide +kernel

theorem wit_cairn_waits : ({ tDisp with cairn := { Cairn.reset with due := [⟨0, [], [], [], none⟩] } } : State).linesSent = false := by decide +kernel

theorem wit_genlock : (tLock 1).genlocked = true ∧
    ((tLock 1).nearest (ticksSince (tLock 1).now ((tLock 1).filterTicks .sync) + bits ((tLock 1).dcfg 0x080) 13 0 * (tLock 1).lineNum / (tLock 1).lineDen)).isSome = true ∧
    (tLock 2).disp.genlock.sync = 2 ∧ (tLock 1).disp.genlock.sync ≠ 2 ∧ (tLock 1).disp.genlock.sync ≠ 3 := by decide +kernel

theorem test_publish : tNext (exec .calendarPublish tDisp) (fun t => t.mem.readRun 0 (tDisp.stateBase + tDisp.buffers * 16384 + 32) 8 == leBytes 8 5) = true := by
  decide +kernel

theorem test_holdover : tNext (exec .genlockHoldover (tLock 2)) (fun t => t.disp.genlock.sync == 3 && (t.page .disp 0).raw.getLsbD 4) = true := by decide +kernel

theorem test_scan_start_and_end : tNext (exec .frameScanStart tDisp) (fun t => t.disp.scanBegun && t.now == 1000) = true ∧
    tNext (exec .scanOutEnd tScan) (fun t => t.disp.scanned == 4 && t.reg .disp 0 0x0BC == 1) = true := by decide +kernel

/-- The display engine at the deadline of frame 4, with a step bound to it or without, and in the course of frame 3. -/
def tDue (bound : Bool) : State := { tDisp with disp := { tDisp.disp with scanned := 4, bound := if bound then [(4, 6)] else [] } }
def tRow (rowsDone : Nat) : State := { tDisp with disp := { tDisp.disp with rowsDone := rowsDone } }

theorem wit_frame_deadline : (tDue true).plan 4 = some (tCal 4) ∧ (tDue true).step? 6 = some { tStep with frame := some 4 } ∧ (tDue true).canBegin 4 = true ∧
    (tDue false).plan 4 = some (tCal 4) ∧ (tDue false).boundStep 4 = none ∧ 4 = (tDue false).disp.begun ∧ (tDue false).canBegin 4 = true ∧
    (tRow 1).plan 3 = some (tCal 3) ∧ (tRow 1).boundStep 3 = none ∧ 3 = (tRow 1).disp.begun - 1 ∧ 3 + 1 = (tRow 1).disp.begun ∧
    (tRow 1).disp.rowsDone = 1 ∧ (tRow 1).disp.held = false ∧ 1 < (tRow 1).rows ∧ (tRow ((tRow 0).rows - 1)).disp.rowsDone = (tRow 0).rows - 1 := by
  decide +kernel

/-- What the tile states of a row ask of the state in which they are written. -/
def tRowShown (v : State) (row : Nat) : Bool :=
  !v.disp.held && v.raster.stalled == [] && v.tileCount ≤ 2040 && (row + 1) * v.columns ≤ 2040 && v.stateBase + 65536 ≤ stagingBase

theorem wit_frame_row_states : MemOk (tDue true) ∧ MemOk (tRow 1) ∧ tRowShown (((tDue true).stepRow { tStep with frame := some 4 } 0).beginFetch 4 (tCal 4)) 0 = true ∧
    tRowShown ((tDue false).beginFetch 4 (tCal 4)) 0 = true ∧ tRowShown (tRow 1) 1 = true ∧ (tDue true).step? 6 = some { tStep with frame := some 4 } :=
  ⟨memOk_of (by decide +kernel), memOk_of (by decide +kernel), by decide +kernel⟩

/-- A command of the display queue, of tile 0 of step 6. -/
def tDc (op : Nat) (fields : List (Nat × Nat)) (step : Option Nat) : Cmd := { tCmd 7 op fields (.queued .display) with step := step }

def tDispOn (c : Cmd) : State :=
  { tDisp with
    cmds := [c], nextUid := 8, groups := [tGroup]
    jobs := SMap.set [] 5 { tJob with land := BitVec.ofNat 32 (2 ^ 31 + 2 ^ 8) }
    windows := SMap.set [] 20 (BitVec.ofNat 32 (2 ^ 31 + 16 * 2 ^ 10)) }

/-- A DISP_META for frame 5 with an empty block, and what its acceptance found: 36 is CAUSE 0x02, 16 × a + 3 an uncorrectable word at a. -/
def tMeta (state : Nat) : Cmd :=
  { tDc 0x7001 [(8, 0x1000), (16, 5)] none with data := leBytes 2 0x0D ++ leBytes 574 0, progress := state }

theorem wit_display_meta : let s := fun k => (tDispOn (tMeta k)).setReg .disp 0 0x08C 0
    (s 0).dispHead = some (tMeta 0) ∧ (s 0).cmd? 7 = some (tMeta 0) ∧ (∀ d ∈ (s 0).cmds, d.uid = 7 → d = tMeta 0) ∧ (tMeta 0).opcode = 0x7001 ∧
      (s 1).dispHead = some (tMeta 1) ∧ (s 36).dispHead = some (tMeta 36) ∧ (tMeta 36).progress = 36 ∧
      (s (16 * 0x1008 + 3)).dispHead = some (tMeta (16 * 0x1008 + 3)) ∧ (tMeta (16 * 0x1008 + 3)).progress % 16 = 3 := by
  decide +kernel

/-- An aperture with a landed DISP_META for frame 5, whose block of DRAM is empty. -/
def tMetaSlot : State :=
  let s := (tApt (tPacket 0x7001 [(8, 0x1000), (16, 5)])).setReg .disp 0 0x08C 0
  { s with mem := Memory.writeRun 0 [] 0x1000 [0x0D] }

theorem wit_display_meta_accepted : let c := tMetaSlot.newCmd 1 (tMetaSlot.apt 1) (tMetaSlot.aptSlot 1 0).data
    tMetaSlot.cfeRuns = true ∧ (tMetaSlot.apt 1).en = true ∧ (tMetaSlot.aptSlot 1 0).landed = true ∧
      tMetaSlot.acceptCredit 1 (tMetaSlot.apt 1) (tMetaSlot.aptSlot 1 0) = some .none ∧ tMetaSlot.refusal 1 (tMetaSlot.apt 1).consumed (tMetaSlot.aptSlot 1 0) = none ∧
      c.opcode = 0x7001 ∧ c.progress = 0 ∧ tMetaSlot.cmd? c.uid = none ∧ tMetaSlot.unsealed c.job c.apt = none := by decide +kernel

/-- The same with an uncorrectable word in the block. -/
def tMetaBad : State := { tMetaSlot with badWords := [0x1008 / 8], protEff := 1 }

theorem wit_display_meta_unreadable : let c := tMetaBad.newCmd 1 (tMetaBad.apt 1) (tMetaBad.aptSlot 1 0).data
    tMetaBad.acceptCredit 1 (tMetaBad.apt 1) (tMetaBad.aptSlot 1 0) = some .none ∧ tMetaBad.refusal 1 (tMetaBad.apt 1).consumed (tMetaBad.aptSlot 1 0) = none ∧
      c.progress % 16 = 3 ∧ tMetaBad.cmd? c.uid = none ∧ tMetaBad.unsealed c.job c.apt = none := by decide +kernel

theorem wit_frame_wait : let c := tDc 0x7002 [(16, 5)] none
    (tDispOn c).dispHead = some c ∧ (tDispOn c).cmd? c.uid = some c ∧ c.opcode = 0x7002 ∧ c.progress ≠ 2 ∧ c.num 8 8 = 0 ∧ c.num 24 40 = 0 ∧
      (tDc 0x7002 [(8, 1)] none).num 8 8 ≠ 0 := by decide +kernel

theorem test_frame_wait : tNext (exec (.dispFrameWait 7) (tDispOn (tDc 0x7002 [(16, 5)] none))) (fun t => (t.cmd? 7).map (·.progress) == some 2) = true ∧
    tNext (exec (.dispFrameWait 7) (tDispOn (tDc 0x7002 [(16, 2)] none))) (fun t => tPlace t 7 == some (.ended .ok 0)) = true ∧
    tNext (exec (.dispFrameWait 7) (tDispOn (tDc 0x7002 [(8, 1), (16, 2)] none))) (fun t => tPlace t 7 == some (.ended .badOperand 4)) = true := by decide +kernel

/-- A commit of tile 0 from landing memory. -/
def tCommit : Cmd := tDc 0x7003 [] (some 6)

/-- The same while the direct path of frame 4 is not open. -/
def tCommitStored : State := { tDispOn tCommit with disp := { (tDispOn tCommit).disp with scanned := 0 } }

theorem wit_commit : let c := tCommit
    let s := tDispOn c
    s.cmd? c.uid = some c ∧ c.opcode = 0x7003 ∧ c.place = .queued .display ∧ s.fenced c = false ∧ s.stepReady c = true ∧ s.groupTurn c = true ∧
      s.waitMet c = true ∧ (s.page .disp 0).faulted = false ∧ s.waitPoisoned c = false ∧ s.commitFails c (s.engineOf c) = [] ∧ s.frameOf c = some 4 ∧
      s.addr c (s.engineOf c) (c.num 24 4 % 2 ^ 28) 262144 = some tW ∧ 2 ≤ s.hubRoute (s.engineOf c / 2) ∧
      ((s.commitReads c.tile tW).findSome? fun r => s.firstBad r.1 r.2) = none ∧ s.directPath 4 = true ∧ (s.reg .perf 0x40 0x080).testBit 31 = false ∧
      s.softWords = [] ∧ (s.group? 6 0) = some tGroup := by decide +kernel

theorem wit_commit_stored : let c := tCommit
    let r := tCommitStored
    let n : State := { r with disp := { r.disp with store := (List.range 256).map fun k => ⟨k, 5, 1⟩ } }
    r.cmd? c.uid = some c ∧ r.waitMet c = true ∧ r.commitFails c (r.engineOf c) = [] ∧ r.frameOf c = some 4 ∧ r.directPath 4 = false ∧
      r.freeStoreSlot = some 0 ∧ ((r.commitReads c.tile tW).findSome? fun x => r.firstBad x.1 x.2) = none ∧ n.directPath 4 = false ∧ n.freeStoreSlot = none ∧
      n.commitFails c (n.engineOf c) = [] := by decide +kernel

theorem wit_commit_fails : let c := tCommit
    let w := fun k => { tDispOn c with welt := (List.range 25).foldl (fun m j => m.set j ⟨k, 0, 0, 0⟩) [] }
    let b := { tDispOn c with badWords := [tW / 8] }
    let p := tDc 0x7003 [(12, 2 ^ 15 + 12), (16, 1)] (some 6)
    let q := { tDispOn p with flags := SMap.set [] 12 ⟨0, true, 5, true⟩ }
    let x := tDc 0x7003 [(8, 300)] (some 6)
    (w 0).commitFails c ((w 0).engineOf c) = [] ∧ (w 0).hubRoute 0 = 0 ∧ (w 1).commitFails c ((w 1).engineOf c) = [] ∧ (w 1).hubRoute 0 = 1 ∧
      b.commitFails c (b.engineOf c) = [] ∧ ((b.commitReads c.tile tW).findSome? fun r => b.firstBad r.1 r.2).isSome = true ∧ 2 ≤ b.hubRoute 0 ∧
      q.waitMet p = true ∧ q.waitPoisoned p = true ∧ q.stepReady p = true ∧ q.groupTurn p = true ∧
      (lowestCause ((tDispOn x).commitFails x ((tDispOn x).engineOf x))).isSome = true ∧ (tDispOn x).waitMet x = true := by decide +kernel

theorem wit_store_and_config : let s := { tDisp with disp := { tDisp.disp with store := [⟨2, 4, 1⟩], bound := [] } }
    let r := { tBase with disp := { Disp.reset with committed := some tBase.shadowSet } }
    let q := { tDisp with disp := { tDisp.disp with scanned := 4, stopping := true, committed := some tDisp.shadowSet, entries := [tCal 3] } }
    (s.disp.store.find? fun y => y.slot == 2) = some ⟨2, 4, 1⟩ ∧ s.softWords = [] ∧
      (let d := { s with badWords := [s.slotAt 2 / 8], protEff := 1 }
       ((d.copyRows 2 4 1).findSome? fun r => d.firstBad r.1.1 r.1.2).isSome = true) ∧ s.directPath 4 = true ∧ s.disp.hold = false ∧ s.boundStep 4 = none ∧
      ({ s with disp := { s.disp with hold := true } } : State).disp.hold = true ∧
      tDisp.hostWrites .disp 0 = true ∧ tDisp.disp.committed = none ∧ tDisp.cfgReason tDisp.shadowSet = none ∧ State.reset.hostWrites .disp 0 = false ∧
      (tDisp.setReg .disp 0 0x04C 0).cfgReason (tDisp.setReg .disp 0 0x04C 0).shadowSet = some 1 ∧ r.disp.running = false ∧
      r.disp.committed = some tBase.shadowSet ∧ q.disp.committed = some tDisp.shadowSet ∧ q.disp.scanned = q.disp.begun ∧ q.nextFrame = q.disp.begun ∧
      q.disp.running = true ∧ q.disp.stopping = true := by decide +kernel

/-- Output 0 does not fit its lanes at the slowest rate (reason 5). -/
theorem wit_config_does_not_fit : ((tDisp.setReg .dptx 0 0x044 1).cfgReason (tDisp.setReg .dptx 0 0x044 1).shadowSet).map (· % 256) = some 5 := by decide +kernel

theorem test_config : tNext (exec .cfgCommit (tDisp.setReg .disp 0 0x04C 0)) (fun t => (t.page .disp 0).errCode == 1 && (t.page .disp 0).errInfo == 1) = true ∧
    tNext (exec .cfgCommit tDisp) (fun t => t.disp.committed.isSome) = true := by decide +kernel

/-! ### DP links and ingest -/

/-- The device with output 0 in a state. -/
def tOut (o : DpOut) : State := { tBase with outs := SMap.set [] 0 o }

/-- Output 0 with a sink, and with a trained link. -/
def tSink : DpOut := { DpOut.fresh with hpd := true }
def tLinked : DpOut := { tSink with trained := true }

theorem wit_dp : 0 < Config.outputs tBase.variant ∧ (tOut DpOut.fresh).out 0 = DpOut.fresh ∧ DpOut.fresh.hpd = false ∧ DpOut.fresh.streaming = false ∧
    (tOut tSink).out 0 = tSink ∧ tSink.hpd = true ∧ tBase.hostWrites .dptx 0 = true ∧ State.reset.hostWrites .dptx 0 = false ∧ tBase.dbg.isOpen = false ∧
    ((tOut { tSink with training := true }).out 0).training = true ∧ ((tOut tLinked).out 0).trained = true ∧
    ((tOut { tLinked with streaming := true }).out 0).streaming = true ∧
    ({ tOut tLinked with dbg := { tBase.dbg with isOpen := true } } : State).dbg.isOpen = true := by decide +kernel

theorem test_dp : tNext (exec (.hpdChange 0 true) (tOut DpOut.fresh)) (fun t => (t.out 0).training && (t.page .dptx 0).raw == 1) = true ∧
    tNext (exec (.dpLinkTrainEnd 0 true) (tOut { tSink with training := true })) (fun t => (t.out 0).trained && (t.out 0).resumes && (t.out 0).hdcp == 1) = true ∧
    tNext (exec (.hdcpAuthEnd 0 2 [7]) (tOut tLinked)) (fun t => (t.out 0).hdcp == 2 && (t.out 0).ids == [7]) = true := by decide +kernel

theorem wit_aux : bits 0x900000 23 20 ∉ [0, 1, 4, 5] ∧ bits 0x500000 23 20 ∈ [0, 1, 4, 5] ∧ ((tOut tSink).out 0).auxBusy = false ∧
    ((tOut { tSink with auxBusy := true }).out 0).auxBusy = true ∧ tBase.fwPaused = false ∧ ((tBase.setReg .dptx 0 0x05C 0x1900000).reg .dptx 0 0x05C).testBit 20 = true ∧
    ({ tBase with dbg := { tBase.dbg with halted := [1] } } : State).fwPaused = true := by decide +kernel

theorem test_aux : let s := (tOut { tSink with auxBusy := true }).setReg .dptx 0 0x05C 0x1900000
    tNext (exec (.auxReply 0 (some (0, [7, 8, 9]))) s) (fun t => t.reg .dptx 0 0x060 == 0x0807 && !(t.out 0).auxBusy) = true ∧
      tNext (exec (.auxStart 0 0x200000) tBase) (fun t => (t.out 0).auxResult == 1) = true := by decide +kernel

/-- The device with a locked 1280 by 720 stream. -/
def tIn (cur : Option SrcFrame) : State :=
  { (tBase.setReg .ingest 0 0x048 (9 * 2 ^ 16 + 4)) with
    pages := SMap.set tBase.pages (Blk.base .ingest 0) { tBase.page .ingest 0 with enable := true }
    ingest := { Ingest.reset with locked := true, supported := true, w := 1280, h := 720, bpc := 10, cur := cur } }

/-- A source frame in buffer 0. -/
def tFrame : SrcFrame := ⟨1, 0, 0, 1280, 720, false, false, 5, false, false, [], none, [], [], [], false, false⟩

/-- The same with every buffer taken. -/
def tInFull : State := { tIn none with flags := SMap.set [] 9 ⟨4, false, 0, false⟩ }

theorem wit_ingest : ((tIn none).page .ingest 0).enable = true ∧ (tIn none).link.dpUp = true ∧ (tIn none).ingest.locked = true ∧ (tIn none).ingest.cur = none ∧
    (tIn none).ingest.supported = true ∧ (((tIn none).flag (tIn none).srcFlag).gen - ((tIn none).flag ((tIn none).srcFlag + 1)).gen).toNat < (tIn none).srcCount ∧
    tInFull.srcCount ≤ ((tInFull.flag tInFull.srcFlag).gen - (tInFull.flag (tInFull.srcFlag + 1)).gen).toNat ∧ tInFull.ingest.locked = true ∧
    (tInFull.page .ingest 0).enable = true ∧ tInFull.ingest.cur = none ∧
    ({ tIn none with ingest := { (tIn none).ingest with supported := false } } : State).ingest.supported = false ∧
    (tIn (some tFrame)).ingest.cur = some tFrame ∧ ((tIn none).flag (tIn none).srcFlag).poison = false ∧ tBase.hostWrites .ingest 0 = true ∧
    State.reset.hostWrites .ingest 0 = false ∧ (tIn none).ingestIdle = false ∧ (tIn none).hostWrites .ingest 0 = true ∧ tBase.ingestIdle = true ∧
    bits (4095 * 2 ^ 16) 27 16 = 4095 ∧ streamSupported 0 10 1280 720 60000 true = true ∧ streamSupported 0 10 1280 720 60000 false = false := by
  decide +kernel

theorem wit_ingest_pixels : (List.replicate (1280 * 720) ((0 : Nat), (0 : Nat), (0 : Nat))).length = tFrame.w * tFrame.h ∧
    ([] : List (Nat × Nat × Nat)).length ≠ tFrame.w * tFrame.h := ⟨List.length_replicate, by decide⟩

theorem test_ingest : tNext (exec (.dpFrameStart false false []) (tIn none)) (fun t => t.ingest.cur.isSome && t.ingest.seq == 1) = true ∧
    tNext (exec (.streamLost false) (tIn (some tFrame))) (fun t => t.ingest.cur == none && t.reg .ingest 0 0x074 == 1) = true ∧
    tNext (exec (.bufCtrlWrite 0) (tIn none)) (fun t => (t.page .ingest 0).errCode == 4) = true := by decide +kernel

/-! ### Faults, dies, flags and the fabric -/

theorem wit_watchdog : let c := tOp 0x1002 [(26, 1)]
    let s := tOn 0x1002 [(26, 1)]
    s.cmd? 7 = some c ∧ s.mayRun c = true ∧ (tOn 0x1002 []).mayRun (tOp 0x1002 []) = false ∧ s.unitBlock c = (.ne, 0) ∧ tBase.cmd? 7 = none ∧ (tWith (tCmd 7 4 [] .pending)).mayRun (tCmd 7 4 [] .pending) = false ∧
      Blk.canFault .ne true = true ∧ s.blockPresent .ne 0 = true ∧ (s.page .ne 0).faulted = false ∧ s.blockOff .ne 0 = false ∧
      (s.reg .fault 0 0x044).testBit 0 = true ∧ s.groups = [] ∧ c.block (s.engineOf c) = some (.ne, 0) := by decide +kernel

theorem wit_block_fault : ((tBase.setReg .fault 0 0x044 0).reg .fault 0 0x044).testBit 0 = false ∧ Blk.canFault .me true = true ∧ tBase.blockPresent .me 0 = true ∧
    ((tStage 0 0 []).page .me 0).faulted = false ∧ (tStage 0 0 []).blockOff .me 0 = false ∧ (tStage 0 0 []).meCmd = some (tMeCmd 0x5001 2) ∧
    Blk.canFault .disp false = true ∧ Blk.canFault .disp true = false ∧ tBase.blockPresent .disp 0 = true ∧ tDisp.blockOff .disp 0 = false ∧
    Blk.canFault .sched false = false ∧ tBase.blockPresent .ne 16 = false ∧ tBase.blockOff .ne 5 = true ∧
    (({ tBase with pages := SMap.set [] (Blk.base .dma 0) { tBase.page .dma 0 with faulted := true } } : State).page .dma 0).faulted = true := by decide +kernel

theorem test_watchdog : tNext (exec (.unitWatchdogExpiry 7) (tOn 0x1002 [(26, 1)])) (fun t => tPlace t 7 == some (.ended .timeout 0x40) &&
    (t.page .ne 0).errCode == 1) = true := by decide +kernel

theorem test_block_fault : tNext (exec (.blockFault .ne 0 false none) tBase) (fun t => (t.page .ne 0).faulted && (t.page .ne 0).errCode == 2 && !(t.page .ne 0).enable) = true ∧
    tNext (exec (.blockFault .ne 5 false none) tBase) (fun t => !(t.page .ne 5).faulted) = true := by decide +kernel

theorem wit_dies : tBase.dieUsable 0 = true ∧ tBase.mdUsable = true ∧ ({ tBase with cdLost := 1, mdLost := true } : State).dieUsable 0 = false ∧
    ({ tBase with cdLost := 1, mdLost := true } : State).mdUsable = false ∧ tBase.hostWrites .fault 0 = true ∧ State.reset.hostWrites .fault 0 = false ∧
    bits 0xD1E50101 31 16 = 0xD1E5 ∧ (0xD1E50101).testBit 0 = true ∧ (0xD1E50101).testBit 8 = true ∧ (0xD1E50101).testBit 1 = false ∧
    (0xD1E50001).testBit 8 = false ∧ bits 0x101 31 16 ≠ 0xD1E5 := by decide +kernel

theorem test_dies : tNext (exec (.dieLoss 0 (some 1)) (tOn 0x1002 [])) (fun t => t.cdLost == 1 && (t.engine 0).slots == [] && bits (t.reg .fault 0 0x040) 7 0 == 4 &&
      (t.page .ne 1).errCode == 3) = true ∧
    tNext (exec (.retire 0xD1E50000) tBase) (fun t => t.cdLost == 0) = true ∧ tNext (exec (.retire 0x100) tBase) (fun t => (t.page .fault 0).errCode == 1) = true := by
  decide +kernel

theorem wit_fatal : 2 ≤ tBase.devState ∧ 2 ≤ State.reset.devState ∧ 2 ≤ ({ tBase with devState := 6 } : State).devState ∧ tBase.blockPresent .memc 0 = true ∧
    tBase.blockPresent .memc 8 = false ∧ ({ tBase with devState := 1 } : State).devState < 2 := by decide +kernel

theorem wit_hub : 2 ≤ tBase.devState ∧ tBase.boot.fwOk = true ∧ tBase.dbg.halted = [] ∧ tBase.lastFw = none ∧ ({ tBase with devState := 1 } : State).devState < 2 ∧
    ({ tBase with boot := { tBase.boot with fwOk := false } } : State).boot.fwOk = false ∧
    1 ∈ ({ tBase with dbg := { tBase.dbg with halted := [1] } } : State).dbg.halted ∧
    timeReached (0 + 1000 * msTicks) (1000 * msTicks + 1) = false ∧ timeReached (0 + 1000 * msTicks) 1 = true ∧
    ({ tBase with lastFw := some 0, now := 1 } : State).lastFw = some 0 ∧ ((tOut { tSink with auxBusy := true }).out 0).auxBusy = true := by decide +kernel

theorem wit_flags : (tBase.flag 4095).poison = false ∧ (({ tBase with flags := SMap.set [] 9 ⟨0, false, 0, true⟩ } : State).flag 9).poison = true ∧
    tBase.hostWrites .flags 0 = true ∧ State.reset.hostWrites .flags 0 = false ∧ tBase.waiters 0 = 0 ∧ tBase.reg .flags 0 0x040 % 4096 = 0 ∧
    (tWith (tCmd 7 2 [(12, 2 ^ 15)] .pending)).waiters 0 ≠ 0 := by decide +kernel

theorem test_hub : tNext (exec (.flagEccPoison 9) tBase) (fun t => (t.flag 9).poison && t.reg .fault 0 0x04C == 1) = true ∧
    tNext (exec (.fatalFault .sched 0) (tWith (tCmd 7 4 [] .pending))) (fun t => t.stopped && !(t.cmds.any Cmd.unstarted)) = true ∧
    tNext (exec (.hubFwWatchdog 1) { tBase with lastFw := some 0, now := 1 }) (fun t => t.stopped) = true ∧
    tNext (exec (.flagGenWrite 77) tBase) (fun t => (t.flag 0).gen == 77) = true := by decide +kernel

/-- The window registers of job 0 while job 0 is valid. -/
def tJob0 : State := { tBase with jobs := SMap.set [] 0 tJob }

/-- Bin memory of 32 MiB. -/
def tBin32 : State := tBase.setReg .raster 0 0x048 (32 * 2 ^ 8)

theorem wit_windows : tBase.hostWrites .tmem 7 = true ∧ State.reset.hostWrites .tmem 7 = false ∧ (tBase.job (tBase.reg .tmem 7 0x040 % 64)).valid = false ∧
    tJob0.hostWrites .tmem 7 = true ∧ (tJob0.job (tJob0.reg .tmem 7 0x040 % 64)).valid = true ∧ 1024 < bits (1 + 1024 * 2 ^ 10) 9 0 + bits (1 + 1024 * 2 ^ 10) 20 10 ∧
    bits (1024 * 2 ^ 10) 9 0 + bits (1024 * 2 ^ 10) 20 10 ≤ 1024 ∧ tBase.hostWrites .hsram 0 = true ∧ State.reset.hostWrites .hsram 0 = false ∧
    tBase.stagingQuiet = true ∧ (tStage 0 0 []).hostWrites .hsram 0 = true ∧ (tStage 0 0 []).stagingQuiet = false ∧
    partitionOk (bits 0x800 12 8) (max 8 (min 32 (bits (tBase.reg .raster 0 0x048) 13 8))) = true ∧ tBin32.stagingQuiet = true ∧
    tBin32.hostWrites .hsram 0 = true ∧ partitionOk (bits 0x1F00 12 8) (max 8 (min 32 (bits (tBin32.reg .raster 0 0x048) 13 8))) = false := by decide +kernel

/-- The device with DRAM port 0 trained and in temperature tracking, and the first 8 GiB protected. -/
def tPort : State := { (tBase.setReg .memc 0 0x040 (2 * 2 ^ 30)).setReg .memc 0 0x04C (2 ^ 31) with protEff := 1 }

/-- The same with a word of memory bad or soft. -/
def tBadAt (a : Nat) : State := { tPort with badWords := [a / 8] }
def tSoftAt (a : Nat) : State := { tPort with softWords := [a / 8] }

theorem wit_scrub_word : tPort.target 0x20000000003 1 = some (.tmem 0) ∧ tPort.dieUsable 0 = true ∧ (tPort.reg .tmem 0 0x050).testBit 31 = true ∧
    tPort.target 0x1000 1 = some .dram ∧ tPort.eccChecked 0x1000 = true ∧ bits (tPort.reg .memc (tPort.portOf 0x1000) 0x040) 31 30 = 2 ∧
    tPort.target hubSramBase 1 = some .hubSram ∧ tPort.target stagingBase 1 = some .staging ∧ tPort.target (2 ^ 47) 1 = none ∧
    tPort.badWords = [] ∧ tPort.softWords = [] := by decide +kernel

theorem wit_scrub_bad : ([0x20000000003, 0x1000, hubSramBase].all fun a => (tBadAt a).badWords.contains (a / 8) && (tSoftAt a).softWords.contains (a / 8) &&
      !(tSoftAt a).badWords.contains (a / 8)) = true ∧
    ((tPort.setReg .tmem 0 0x050 0).reg .tmem 0 0x050).testBit 31 = false ∧ (tPort.setReg .tmem 0 0x050 0).target 0x20000000003 1 = some (.tmem 0) ∧
    (tPort.setReg .tmem 0 0x050 0).dieUsable 0 = true := by decide +kernel

theorem test_scrub : tNext (exec (.scrubRead (.word 0x20000000003) 1) tBase) (fun t => t.reg .tmem 0 0x054 == 1) = true ∧
    tNext (exec (.scrubRead (.word 0x20000000003) 2) tBase) (fun t => (t.page .tmem 0).errAddr == 0x20000000003 && t.badWords != []) = true := by decide +kernel

theorem wit_scrub_units : tBase.dieUsable (1 / 2) = true ∧ (tStage 0 0 []).mdUsable = true ∧ (tStage 0 0 []).me.uid = some (tMeCmd 0x5001 2).uid ∧
    (tStage 0 0 []).cmd? (tMeCmd 0x5001 2).uid = some (tMeCmd 0x5001 2) ∧ (tMeCmd 0x5001 2).unstarted = true ∧ tBase.blockPresent .memc 7 = true := by decide +kernel

theorem test_scrub_units : tNext (exec (.scrubRead (.acc 1 2 3) 2) tBase) (fun t => ((t.engine 1).row 2 3).poison && (t.page .ne 1).errAddr == (1024 + 3) * 2048) = true ∧
    tNext (exec (.scrubRead (.matchMem 64) 2) (tStage 0 0 [])) (fun t => tPlace t 7 == some (.ended .ecc 0x33)) = true := by decide +kernel

/-- A landed slot of aperture 1, a command of entry 3 of the pending store, and a record that waits. -/
def tStored : State :=
  { tApt 0 with cmds := [{ tPend with store := 3 }], waiting := [⟨3, 0, 1, 5, 0, 0, 0, .own⟩] }

theorem wit_scrub_store : (tStored.aptSlots.find? 1024 = some ⟨0, true, false⟩) ∧ 65536 < aptSram ∧ 65536 / 65536 * 1024 + 65536 % 65536 / 64 = 1024 ∧
    tStored.cmd? 7 = some { tPend with store := 3 } ∧ aptSram + 192 < storeSram ∧ (aptSram + 192 - aptSram) / 64 = 3 ∧
    (tStored.cmds.find? fun d => d.heldEntry && d.store == 3 && d.place == .pending) = some { tPend with store := 3 } ∧ tPend.opcode ≠ 1 ∧
    (tStored.waiting[(storeSram - storeSram) / 16]?).isSome = true := by decide +kernel

theorem test_scrub_store : tNext (exec (.scrubRead (.store (aptSram + 192)) 2) tStored) (fun t => tPlace t 7 == some (.ended .ecc 0x30)) = true ∧
    tNext (exec (.scrubRead (.store 65536) 2) tStored) (fun t => (t.aptSlot 1 0).bad) = true := by decide +kernel

/-- The device with WELT module 24 in a state. -/
def tWelt (state fails : Nat) : State := { tBase with welt := SMap.set [] 24 ⟨state, 0, fails, 0⟩ }

theorem wit_welt : tBase.modulePresent 24 = true ∧ tBase.modulePresent 25 = false ∧ ((tWelt 2 0).module 24).state = 2 ∧
    ((tWelt 2 0).module 24).fails + 1 < (tWelt 2 0).replayLimit 24 ∧
    (tWelt 2 254).replayLimit 24 ≤ ((tWelt 2 254).module 24).fails + 1 ∧ (tWelt 1 0).training 24 = true ∧ ((tWelt 1 0).module 24).state ≠ 2 ∧
    (tWelt 2 0).training 24 = false ∧ tBase.hostWrites .welt 24 = true ∧ State.reset.hostWrites .welt 24 = false := by decide +kernel

theorem test_welt : tNext (exec (.weltCrcError 24 false 1) (tWelt 2 254)) (fun t => (t.module 24).state == 1) = true ∧
    tNext (exec (.weltRetrainEnd 24 true 3 false) (tWelt 1 0)) (fun t => (t.module 24).state == 2 && (t.module 24).repaired == 3) = true := by decide +kernel

theorem wit_dram : tPort.portReady (1 / 2) = true ∧ tPort.portReady 8 = false ∧ tPort.refresh.get 1 0 < 8 ∧
    8 ≤ ({ tPort with refresh := SMap.set [] 1 8 } : State).refresh.get 1 0 ∧ (tPort.reg .memc 0 0x04C).testBit 31 = true ∧
    bits (tPort.reg .memc 0 0x04C) 1 0 < min 2 2 ∧ ((tPort.setReg .memc 0 0x04C 0).reg .memc 0 0x04C).testBit 31 = false := by decide +kernel

theorem test_dram : tNext (exec (.dramRefresh 1 true) tPort) (fun t => t.refresh.get 1 0 == 1) = true ∧
    tNext (exec (.dramTcrRead 0 2) tPort) (fun t => bits (t.reg .memc 0 0x04C) 1 0 == 2 && (t.page .memc 0).raw == 8) = true := by decide +kernel

/-! ### Power, coolant and temperature -/

/-- The device with a share of samples, and with a voltage regulator in use. -/
def tPwr (samples : Nat) : State := { tBase with pwr := { Pwr.reset with samples := samples, vr := SMap.set [] 3 (2 ^ 31) } }

theorem wit_power : tBase.powered = true ∧ ({ tBase with devState := 1 } : State).powered = false ∧ tBase.dieUp 0 = true ∧ tBase.dieUp 5 = false ∧
    tBase.pwr.samples = 0 ∧ (tPwr 3).pwr.samples ≠ 0 ∧ (tPwr 3).powered = true ∧ tBase.pwr.shed = 0 ∧ (tPwr 3).regulators = [3] ∧
    (∀ k ∈ (tPwr 3).regulators, (([none, none, none, some 5] : List (Option Nat)).getD k none).isSome = true) ∧
    (∃ k ∈ (tPwr 3).regulators, ([] : List (Option Nat)).getD k none = none) ∧
    ({ tBase with now := laterTime tBase.now ((tBase.pwr.lastCap + msTicks) % 2 ^ 64) } : State).fwPaused = false ∧
    ({ tBase with dbg := { tBase.dbg with halted := [1] }, now := laterTime tBase.now ((tBase.pwr.lastCap + msTicks) % 2 ^ 64) } : State).fwPaused = true ∧
    tBase.hostWrites .pwr 0 = true ∧ State.reset.hostWrites .pwr 0 = false ∧
    ((List.range 4).map fun k => bits 0xE4 (2 * k + 1) (2 * k)).Nodup ∧ ¬ ((List.range 4).map fun k => bits 0xE5 (2 * k + 1) (2 * k)).Nodup := by decide +kernel

theorem wit_power_stitch : let u := { tBase with now := laterTime tBase.now ((tBase.pwr.lastEst + 2 * usTicks) % 2 ^ 64) }
    u.dieUp 0 = true ∧ u.powered = true ∧ tBase.pwr.lastEst = 0 := by decide +kernel

theorem test_power : tNext (exec (.shareOrderWrite 0x1B) tBase) (fun t => t.reg .pwr 0 0x048 == 0x1B) = true ∧
    tNext (exec (.shareOrderWrite 0xE5) tBase) (fun t => (t.page .pwr 0).errCode == 2) = true ∧
    tNext (exec .disagreeClear { tBase with pwr := { Pwr.reset with sticky := true, differ := 9 } }) (fun t => !t.pwr.sticky && t.pwr.differ == 0) = true := by decide +kernel

/-- The device with COOL_FLOW_OK low since the start. -/
def tLow : State := { tBase with pins := { tBase.pins with coolOk := false }, pwr := { Pwr.reset with coolLow := some 0 } }

/-- The same when the debounce time has passed. -/
def tLowDue : State := { tLow with now := 1000 * msTicks }

/-- The device in HOLD with causes, with coolant back and temperatures low since the start, or not. -/
def tStopped (causes : Nat) (cooled : Option Nat) : State :=
  { tBase with devState := 5, holdCauses := causes, pwr := { Pwr.reset with diesStopped := true, coolBack := some 0, cooled := cooled } }

theorem wit_coolant : tBase.pins.coolOk = true ∧ tLow.pins.coolOk = false ∧ tLow.pwr.coolLow = some 0 ∧
    timeReached (tLow.filtered .cool 0).now (0 + tLow.debounceMs * msTicks) = false ∧ tLow.holdCauses.testBit 0 = false ∧ tLow.powered = true ∧
    tLowDue.pins.coolOk = false ∧ tLowDue.pwr.coolLow = some 0 ∧ timeReached (tLowDue.filtered .cool 0).now (0 + tLowDue.debounceMs * msTicks) = true ∧
    tLowDue.holdCauses.testBit 0 = false ∧ tNext (exec .coolantStop (tLowDue.filtered .cool 0)) (fun _ => true) = true ∧ tLow.pwr.diesStopped = false ∧
    ({ tLowDue with holdCauses := 1 } : State).holdCauses.testBit 0 = true ∧ ({ tLow with pwr := Pwr.reset } : State).pwr.coolLow = none ∧
    ({ tLow with devState := 1 } : State).powered = false := by decide +kernel

/-- R418: a low shorter than DEBOUNCE_MS counts in HOLD too; a longer one does not. -/
theorem test_glitch_in_hold :
    tNext (exec .coolFlowOkRise { tLow with holdCauses := 1 }) (fun t => t.reg .pwr 0 0x094 == 1 && t.pwr.coolBack == some tLow.now) = true ∧
    tNext (exec .coolFlowOkRise { tLowDue with holdCauses := 1 }) (fun t => t.reg .pwr 0 0x094 == 0 && t.pwr.coolBack == some tLowDue.now) = true := by
  decide +kernel

theorem wit_restart : let u := fun (s : State) => { s with now := laterTime s.now ((0 + s.restoreMs * msTicks) % 2 ^ 64) }
    (tStopped 3 none).clearSince false = some 0 ∧ (tStopped 3 none).devState = 5 ∧ (tStopped 3 none).holdCauses.testBit (b2n false) = true ∧
      (u (tStopped 3 none)).stillStopped true = true ∧ (tStopped 3 (some 0)).clearSince true = some 0 ∧
      (tStopped 3 (some 0)).holdCauses.testBit (b2n true) = true ∧ (u (tStopped 3 (some 0))).stillStopped false = false ∧
      (tStopped 3 none).clearSince true = none ∧ tBase.devState ≠ 5 ∧ (tStopped 1 none).holdCauses.testBit (b2n true) = false := by decide +kernel

/-- The same with die 0 stopped and a byte in its tile memory. -/
def tDieStopped : State := { (tStopped 1 none).setReg .cdSys 0 0x040 (3 * 2 ^ 30) with mem := [(tW, 7)] }

theorem wit_restart_clears : MemOk tDieStopped ∧ 0 ∈ tDieStopped.packageDies ∧ tDieStopped.dieState 0 = 3 ∧
    tNext (exec (.dieRestart false) tDieStopped) (fun t => t.mem == []) = true := ⟨memOk_of (by decide +kernel), by decide +kernel⟩

theorem wit_thermal : (∃ k ∈ tBase.packageDies ++ [9], 1680 ≤ (List.replicate 10 (1680 : Int)).getD k 0) ∧
    (∀ k ∈ tBase.packageDies ++ [9], (List.replicate 10 (1679 : Int)).getD k 0 < 1680) ∧ tBase.holdCauses.testBit 1 = false ∧ tBase.devState ≠ 0 ∧
    tBase.pins.bc = true ∧ ({ tBase with devState := 0 } : State).devState = 0 := by decide +kernel

theorem test_coolant : tNext (exec .coolantStop tLow) (fun t => t.devState == 5 && t.holdCauses == 1 && t.pwr.diesStopped) = true ∧
    tNext (exec (.dieRestart false) (tStopped 1 none)) (fun t => t.holdCauses == 0 && !t.pwr.diesStopped) = true ∧
    tNext (exec (.dieRestart false) (tStopped 3 none)) (fun t => t.holdCauses == 3 && t.pwr.diesStopped) = true ∧
    tNext (exec .criticalTrip tBase) (fun t => t.devState == 0 && t.pins.trip) = true := by decide +kernel

/-! ### Reset, sleep, boot and field update -/

/-- The device asleep, with the given wake sources enabled and an alarm set. -/
def tSleep (sources : Nat) : State :=
  { ((State.reset.setReg .basecamp 0 0x048 sources).setReg .basecamp 0 0x04C 50).setReg .basecamp 0 0x050 0 with devState := 1 }

/-- The device with its crystal running. -/
def tXtal : State := { tBase with pins := { tBase.pins with xtal32 := true }, mem := [(3, 7)] }

theorem wit_reset : tBase.hostWrites .hubSys 0 = true ∧ State.reset.hostWrites .hubSys 0 = false ∧ bits 0xB0070001 31 16 = 0xB007 ∧
    bits 0x00070001 31 16 ≠ 0xB007 ∧ (0xB0070001 : Nat).testBit 0 = true ∧ (0xB0070000 : Nat).testBit 0 = false ∧
    ({ tBase with resetPending := true } : State).resetPending = true ∧ tBase.recordsOut = true ∧ tBase.resetPending = false ∧
    (tWith (tCmd 7 4 [] .pending)).recordsOut = false := by decide +kernel

/-- The device with an ERASE in progress, and one that waits to sleep. -/
def tErasing : State := { tBase with boot := { tBase.boot with upd := some ⟨2, 0x1800000, 0x10000, false⟩ }, resetPending := true }
def tDrowsy : State := { tXtal with sleeping := some 0 }

theorem wit_reset_aborts : tErasing.resetPending = true ∧ tErasing.recordsOut = true ∧ tErasing.boot.upd ≠ none ∧ tErasing.boot.flash.wf 0xFF = true ∧
    tDrowsy.sleeping = some 0 ∧ tDrowsy.devState ≠ 0 ∧ timeReached tDrowsy.now tDrowsy.alarmTime = true := by decide +kernel

theorem test_wake_is_latched : tNext (exec .wakeNFall tDrowsy) (fun t => t.sleeping == some 1 && t.devState == 3) = true ∧
    tNext (step tDrowsy) (fun t => t.devState == 1) = true := by decide +kernel

theorem wit_sleep : tXtal.hostWrites .basecamp 0 = true ∧ State.reset.hostWrites .basecamp 0 = false ∧
    tXtal.powered = true ∧ tXtal.pins.xtal32 = true ∧ tBase.pins.xtal32 = false ∧ bits 0x51EE0007 31 16 = 0x51EE ∧ (0x51EE0007 : Nat).testBit 0 = true ∧
    (0x51EE0007 : Nat).testBit 1 = true ∧ (0x51EE0007 : Nat).testBit 2 = true ∧ (0x51EE0001 : Nat).testBit 2 = false ∧ (0x51EE0006 : Nat).testBit 0 = false ∧
    tXtal.sleeping = none ∧ tXtal.cmds = [] ∧ tXtal.waiting = [] ∧ tXtal.backlog = [] ∧ tXtal.boot.upd = none := by
  decide +kernel

theorem wit_wake : (tSleep 7).devState = 1 ∧ ((tSleep 7).reg .basecamp 0 0x048).testBit 0 = true ∧ ((tSleep 7).reg .basecamp 0 0x048).testBit 1 = true ∧
    ((tSleep 7).reg .basecamp 0 0x048).testBit 2 = true ∧ ((tSleep 0).reg .basecamp 0 0x048).testBit 0 = false ∧ ((tSleep 0).reg .basecamp 0 0x048).testBit 1 = false ∧
    ((tSleep 0).reg .basecamp 0 0x048).testBit 2 = false ∧ (tSleep 0).devState ≠ 0 ∧ timeReached (tSleep 0).now (tSleep 0).alarmTime = false ∧
    timeReached (({ tSleep 0 with now := 51 } : State).now) (tSleep 0).alarmTime = true ∧ (tSleep 0).alarmTime ≠ 51 ∧
    ({ tSleep 7 with now := 50 } : State).alarmTime = 50 ∧ ({ tSleep 7 with pins := { Pins.reset with pwrGood := false } } : State).pins.pwrGood = false ∧
    ({ tBase with boot := { tBase.boot with waitGood := true } } : State).boot.waitGood = true := by decide +kernel

theorem test_sleep : tNext (exec (.sleep 0x51EE0005) tXtal) (fun t => t.devState == 1 && t.mem == [(3, 7)] && t.pins.dramEn && !t.pins.retEn) = true ∧
    tNext (exec (.sleep 0x51EE0001) tXtal) (fun t => t.devState == 1 && t.mem == []) = true ∧
    tNext (exec (.sleep 0x51EE0005) tBase) (fun t => t.devState == 3 && (t.page .basecamp 0).errCode == 4) = true := by decide +kernel

theorem test_reset : tNext (exec (.devReset 0xB0070001) (tWith (tCmd 7 4 [] .pending))) (fun t => t.resetPending && t.stopped && !(t.cmds.any Cmd.unstarted)) = true ∧
    tNext (exec .deviceResetAct { tBase with resetPending := true }) (fun t => t.devState == 2 && t.boot.path == some 2) = true ∧
    tNext (exec .wakeNFall (tSleep 7)) (fun t => t.devState == 2 && t.boot.path == some 1) = true ∧
    tNext (exec .alarm (tSleep 7)) (fun t => t.devState == 2 && t.now == 50) = true ∧
    tNext (exec (.resetAssert false) tBase) (fun t => t.devState == 0 && !t.pins.resetN) = true ∧
    tNext (exec (.supplyLoss true) tBase) (fun t => t.devState == 0 && t.regs == []) = true := by decide +kernel

/-- The device in power-off with RESET_N low. -/
def tHeldReset : State := { State.reset with devState := 0, pins := { Pins.reset with resetN := false } }

/-- The same without PWR_GOOD, with RESET_N low or high. -/
def tNoGood (resetN : Bool) : State := { tHeldReset with pins := { Pins.reset with resetN := resetN, pwrGood := false } }

theorem wit_power_good : (tNoGood false).devState = 0 ∧ (tNoGood false).pins.pwrGood = false ∧ (tNoGood false).pins.resetN = false ∧
    (tNoGood true).pins.resetN = true ∧ (tNoGood true).devState = 0 := by decide +kernel

/-- The device on a wake path. -/
def tWaking (kept : Bool) : State := { State.reset with boot := { Boot.reset with path := some 2, kept := kept } }

theorem wit_boot : State.reset.devState = 2 ∧ State.reset.boot.path = some 0 ∧ State.reset.boot.waitGood = false ∧ State.reset.boot.identityGood = false ∧
    tHeldReset.devState = 0 ∧ (tHeldReset.pins.resetN && tHeldReset.pins.pwrGood && tHeldReset.pins.supply) = false ∧ tBase.devState ≠ 0 ∧ tBase.devState ≠ 2 ∧
    (tWaking true).devState = 2 ∧ (tWaking true).boot.path = some (1 + 1) ∧ (tWaking true).boot.waitGood = false ∧ (tWaking true).boot.kept = true ∧
    (tWaking false).boot.kept = false ∧ (tWaking true).boot.identityGood = false ∧ 0 % 2 ^ Config.ports tBase.variant = 0 ∧ 1 % 2 ^ Config.ports tBase.variant ≠ 0 := by
  decide +kernel

theorem test_boot : tNext (exec (.coldBoot 100 400 0 0 0) State.reset) (fun t => t.devState == 6 && t.reg .sec 0 0x044 == 1 && t.now == 100) = true ∧
    tNext (exec (.wake 100 true 400 0 0 0) (tWaking true)) (fun t => t.boot.path == some 0) = true := by
  decide +kernel

/-- The device with RECOVERY off, at an update address. -/
def tUpd (a : Nat) : State := tBase.setReg .sec 0 0x068 a

theorem wit_update : (tUpd 0x1800000).hostWrites .sec 0 = true ∧ State.reset.hostWrites .sec 0 = false ∧
    (tUpd 0x2000000).updReject 1 ((tUpd 0x2000000).reg .sec 0 0x068) (updBytes (0 % 64)) = 2 ∧
    (tUpd 0x1000001).updReject 2 0x1000001 64 = 2 ∧ (tUpd 0).updReject 3 0 64 = 1 ∧ (tUpd 4096).updReject 4 4096 64 = 2 ∧ (tUpd 0).updReject 5 0 0 = 2 ∧
    ({ tUpd 0 with boot := { tBase.boot with custKey := some [] } } : State).updReject 6 0 0 = 5 ∧
    (∀ op ∈ [1, 2, 3], (tUpd 0x1800000).updReject op 0x1800000 (updBytes (1 % 64)) = 0) ∧ (tUpd 0).updReject 4 0 (updBytes 1) = 0 ∧
    ({ tUpd 0 with boot := { tBase.boot with plan := { BootPlan.none with svn := 3 } } } : State).updReject 5 0 0 = 0 ∧ (tUpd 0).updReject 6 0 0 = 0 := by
  decide +kernel

theorem test_update : let s := { tUpd 0x1800000 with boot := { tBase.boot with window := leBytes 2048 0x1234, flash := [(0x1800002, 5)] } }
    let u := fun (op : Nat) => { s with boot := { s.boot with upd := some ⟨op, 0x1800000, 2048, false⟩ } }
    tNext (exec (.updProgram 1 false) s) (fun t => t.boot.upd.isSome && t.boot.flash == [(0x1800002, 5)]) = true ∧
      tNext (step (u 3)) (fun t => t.boot.flash.readRun 0xFF 0x1800000 3 == [0x34, 0x12, 0] && t.boot.updResult == 0 && t.boot.upd.isNone) = true ∧
      tNext (step (u 2)) (fun t => t.boot.flash == []) = true ∧ tNext (step (u 1)) (fun t => t.boot.window.take 3 == [0xFF, 0xFF, 5]) = true := by decide +kernel

theorem wit_update_runs : let s := fun (fail : Bool) => { tUpd 0 with boot := { tBase.boot with upd := some ⟨2, 0x1800000, 0x10000, fail⟩ } }
    (s true).pending = [] ∧ 2 ≤ (s true).devState ∧ (s true).sleeping = none ∧ (s true).boot.upd ≠ none ∧ (s true).hostWrites .sec 0 = true ∧
      ({ s true with now := ((s true).now + 1) % 2 ^ 64 } : State).fwPaused = false ∧ (tUpd 0).boot.upd = none ∧
      ({ s false with dbg := { tBase.dbg with halted := [1] }, now := ((s false).now + 1) % 2 ^ 64 } : State).fwPaused = true := by decide +kernel

/-! ### The host link and HOLD -/

/-- The device whose PCIe tunnel is down. -/
def tDown : State := { tBase with link := { Link.reset with resumed := false } }

/-- The device in HOLD by software. -/
def tHold (causes : Nat) : State := { tBase with devState := 5, holdCauses := causes }

/-- The device whose DP tunnel is down. -/
def tNoDp : State := { tBase with link := { tBase.link with dpUp := false } }

theorem wit_link : tBase.link.pcieUp = true ∧ tBase.link.dpUp = true ∧ tNoDp.link.dpUp = false ∧ tNoDp.link.pcieUp = true ∧
    (tBase.reg .hif 0 0x044).testBit 0 = false ∧ ((tBase.setReg .hif 0 0x044 3).reg .hif 0 0x044).testBit 0 = true ∧
    (tBase.setReg .hif 0 0x048 65536).backlogBase = some 65536 ∧ tBase.powered = true ∧ tDown.link.pcieUp = false ∧ 2 ≤ tDown.devState ∧ 2 ≤ tNoDp.devState ∧
    ({ tBase with devState := 1 } : State).devState < 2 ∧ (tDown.reg .hif 0 0x044).testBit 1 = true ∧
    ((tDown.setReg .hif 0 0x044 0).reg .hif 0 0x044).testBit 1 = false ∧ tDown.link.resumed = false ∧
    tBase.hostWrites .hif 0 = true ∧ State.reset.hostWrites .hif 0 = false := by decide +kernel

theorem test_link : tNext (exec (.usb4LinkDown true) (tBase.setReg .hif 0 0x044 3)) (fun t => t.devState == 5 && t.holdCauses == 4 && !t.link.pcieUp) = true ∧
    tNext (exec (.usb4LinkUp false 1 true) tDown) (fun t => t.link.pcieUp && t.link.session == 1) = true ∧
    tNext (exec (.usb4LinkUp true 1 true) tDown) (fun t => !t.link.pcieUp && t.link.state == 1) = true ∧
    tNext (exec .linkResume (tHold 4)) (fun t => t.holdCauses == 0 && t.link.resumed) = true := by decide +kernel

/-- The device with DRAM ready and a protected source frame held. -/
def tBar : State :=
  { tPort with ingest := { Ingest.reset with frames := [{ tFrame with prot := true, complete := true }] } }.setReg .ingest 0 0x054 (2 ^ 20)

theorem wit_bar4 : tPort.dramReady = true ∧ tBase.dramReady = false ∧ 0x1000 + 4 ≤ tBase.dramBytes ∧ tPort.mem.wf 0 = true ∧ 0x1000 + 4 ≤ tPort.dramBytes ∧
    tPort.badIn 0x1000 4 = false ∧ (tPort.protectedHeld && tPort.inFrameBuffer 0x1000 4) = false ∧ (tBase.protectedHeld && tBase.inFrameBuffer 0x1000 4) = false ∧
    (tBadAt 0x1000).badIn 0x1000 4 = true ∧ ((tBadAt 0x1000).protectedHeld && (tBadAt 0x1000).inFrameBuffer 0x1000 4) = false ∧ tBar.protectedHeld = true ∧
    tBar.inFrameBuffer 0x1000 4 = true ∧ 0x1000 + 4 ≤ tBar.dramBytes ∧ tPort.link.pcieUp = true ∧ tPort.dramBytes < tPort.dramBytes + 4 := by decide +kernel

theorem test_bar4 : tNext (exec (.bar4Access 0x1000 (.write [8, 9])) tPort) (fun t => t.mem == [(0x1000, 8), (0x1001, 9)]) = true ∧
    tNext (exec (.bar4Access 0x1000 (.read 3)) { tPort with mem := [(0x1001, 9)] }) (fun t => t.readData == [0, 9, 0]) = true ∧
    tNext (exec (.bar4Access 0 (.readBar2 2)) { tPort with mem := [(0, 9)] }) (fun t => t.readData == [0, 0]) = true ∧
    tNext (exec (.bar4Access tPort.dramBytes (.read 4)) tPort) (fun t => (t.page .hif 0).errCode == 1) = true := by decide +kernel

/-- The device whose aperture 0 is enabled. -/
def tEnabled : State := { tBase with apts := SMap.set [] 0 { Aperture.fresh with en := true } }

theorem wit_apertures : tBase.hostWrites .cfe 0 = true ∧ State.reset.hostWrites .cfe 0 = false ∧ tBase.aptSel = 0 ∧ (tBase.apt 0).en = false ∧
    (tEnabled.apt tEnabled.aptSel).en = true ∧ (2 ^ 31 : Nat).testBit 31 = true ∧ (5 : Nat).testBit 31 = false ∧
    bits (5 * 2 ^ 16) 19 16 ≠ (Aperture.fresh).ring ∧ tBase.answers .hif 0 = true ∧ ({ tBase with devState := 0 } : State).answers .hif 0 = false ∧
    tBase.msix.fmask = false ∧ tBase.hostOk = true := by decide +kernel

theorem test_apertures : tNext (exec (.aptCtrlWrite (2 ^ 31 + 5 * 2 ^ 16)) tBase) (fun t => (t.apt 0).en && (t.apt 0).ring == 5) = true ∧
    tNext (exec (.aptCtrlWrite (2 ^ 31 + 5 * 2 ^ 16)) tEnabled) (fun t => (t.page .cfe 0).errCode == 4) = true ∧
    tNext (exec (.ringCtrlWrite (2 ^ 31 + 3)) tBase) (fun t => (t.ring 0).ctrl == 0x80000003) = true := by decide +kernel

theorem wit_hold : tBase.hostWrites .sec 0 = true ∧ State.reset.hostWrites .sec 0 = false ∧ tBase.powered = true ∧ ({ tBase with devState := 6 } : State).hostWrites .sec 0 = true ∧
    ({ tBase with devState := 6 } : State).powered = false ∧
    ((tHold 8).reg .sec 0 0x05C).testBit 0 = false ∧ (((tHold 8).setReg .sec 0 0x05C 1).reg .sec 0 0x05C).testBit 0 = true ∧
    (tHold 8).holdCauses - ((tHold 8).holdCauses &&& 8) = 0 ∧ (tHold 8).devState = 5 ∧ tBase.holdCauses - (tBase.holdCauses &&& 8) = 0 ∧ tBase.devState ≠ 5 ∧
    (tHold 12).holdCauses - ((tHold 12).holdCauses &&& 8) ≠ 0 := by decide +kernel

theorem test_hold : tNext (exec (.stateCtrlHoldSet true) tBase) (fun t => t.devState == 5 && t.holdCauses == 8) = true ∧
    tNext (exec .holdResume (tHold 8)) (fun t => t.devState == 4 && t.holdCauses == 0) = true ∧
    tNext (exec .holdResume (tHold 12)) (fun t => t.devState == 5 && (t.page .sec 0).errCode == 4) = true := by decide +kernel

/-! ### Counters, snapshots, trace and debug access -/

/-- The device with counter 0 of the selected page of compute die 0 counting. -/
def tCount (page cfg : Nat) : State :=
  { (tBase.setReg .perf 0 0x040 (page * 2 ^ 8)).setReg .perf 0 0x054 90 with ctrs := SMap.set [] (ctrKey 0 page 0) ⟨cfg, 5, false, 0, false⟩ }

/-- The same with a snapshot armed. -/
def tArmed : State := { tCount 4 (2 ^ 31 + 0x10) with snaps := SMap.set [] 0 90 }

theorem wit_counters : let s := tCount 4 (2 ^ 31 + 0x10)
    s.hostWrites .perf 0 = true ∧ State.reset.hostWrites .perf 0 = false ∧ State.reset.hostWrites .perf 0x40 = false ∧ s.snapBusy 0 = false ∧
      timeReached s.now (s.snapTime 0) = false ∧ timeReached ({ s with now := 90 } : State).now (s.snapTime 0) = true ∧
      s.hostWrites .perf 0x40 = true ∧ (∀ d ∈ s.perfDies, s.snapBusy d = false) ∧ s.blockPresent .perf 0 = true ∧ s.blockPresent .perf 9 = false ∧
      s.snaps.find? 0 = none ∧ tArmed.snapBusy 0 = true ∧ tArmed.hostWrites .perf 0 = true ∧ tArmed.snaps.find? 0 = some 90 ∧
      timeReached (s.setReg .perf 0x40 0x054 90).now ((s.setReg .perf 0x40 0x054 90).snapTime 0x40) = false ∧ ((s.reg .perf 0x40 0x080).testBit 31) = false ∧
      ((s.setReg .perf 0x40 0x080 (2 ^ 31)).reg .perf 0x40 0x080).testBit 31 = true ∧ bits (2 ^ 31) 28 24 = bits ((2 ^ 31 + 5) &&& 0x9F00000F) 28 24 ∧
      bits (2 ^ 31) 28 24 ≠ bits ((2 ^ 31 + 2 ^ 24) &&& 0x9F00000F) 28 24 ∧ tBase.dbg.isOpen = false := by decide +kernel

theorem wit_counted : ((tCount 4 0).counted 0 ((tCount 4 0).cntPage 0)).isSome = true ∧ ((tCount 0x3F 0).counted 0 ((tCount 0x3F 0).cntPage 0)).isSome = false ∧
    (tCount 0x3F 0).hostWrites .perf 0 = true ∧ (tCount 4 (2 ^ 31 + 0x10)).counted 0 4 = some (.ne, 0) ∧
    ((tCount 4 (2 ^ 31 + 0x10)).ctr (ctrKey 0 4 0)).isOpen .ne = true ∧ ((tCount 4 0).ctr (ctrKey 0 4 0)).isOpen .ne = false ∧
    (tCount 0x3F 0).counted 0 0x3F = none ∧ ((tCount 4 0).ctr (ctrKey 0 4 0)).cfg.testBit 31 = false := by decide +kernel

theorem test_counters : tNext (exec (.cntClrSel 0) (tCount 4 7)) (fun t => (t.ctr (ctrKey 0 4 0)).count == 0 && (t.ctr (ctrKey 0 4 0)).cfg == 7) = true ∧
    tNext (exec (.cntCfgWrite 0 0xFFFFFFFF) (tCount 4 7)) (fun t => (t.ctr (ctrKey 0 4 0)).cfg == 0xE03F00FF) = true ∧
    tNext (exec (.counterSaturate 0 4 0) (tCount 4 (2 ^ 31 + 0x10))) (fun t => (t.ctr (ctrKey 0 4 0)).ovf) = true ∧
    tNext (exec (.snapArm 0) (tCount 4 0)) (fun t => t.snaps == [(0, 90)]) = true ∧
    tNext (exec (.snapFire 0) { tCount 4 0 with snaps := [(0, 90)] }) (fun t => t.snaps == [] && t.now == 90 && (t.ctr (ctrKey 0 4 0)).snap == 5) = true := by
  decide +kernel

theorem test_trace_and_debug_control : tNext (exec (.traceEnable (2 ^ 31 + 2 ^ 24)) tBase) (fun t => t.reg .perf 0x40 0x080 == 2 ^ 31 + 2 ^ 24) = true ∧
    tNext (exec (.traceEnable (2 ^ 31 + 2 ^ 24)) (tBase.setReg .perf 0x40 0x080 (2 ^ 31))) (fun t => (t.page .perf 0x40).errCode == 4) = true ∧
    tNext (exec .dbgCtrlLockout { tBase with dbg := { Debug.reset with isOpen := true, halted := [1] } }) (fun t => t.dbg.lockout && t.dbg.halted == []) = true := by
  decide +kernel

/-! ### Registers, jobs and the control of blocks -/

/-- The device with job 5 as JOB_SEL has it. -/
def tSel : State := tBase.setReg .sched 0 0x04C 5

/-- The same with a command of that job. -/
def tSelBusy : State := { tSel with cmds := [tCmd 7 4 [] .pending] }

/-- The DISP page of a device whose display engine finishes what it has begun. -/
def tEnding : State := { tBase with pages := SMap.set [] (Blk.base .disp 0) { tBase.page .disp 0 with disabling := true }, disp := { Disp.reset with running := true } }

theorem wit_registers : State.reset.link.pcieUp = false ∧ tBase.link.pcieUp = true ∧ pageAt 0x3FFFFFC = none ∧
    pageAt (Blk.base .ve 0 + 0x044) = some (.ve, 0) ∧ tBase.answers .ve 0 = true ∧ Blk.lacks .ve 0 0x044 = false ∧ (Blk.regAt .ve 0x044).map (·.rw) = some 0xFFFF ∧
    pageAt (Blk.base .hubSys 0 + 0x04C) = some (.hubSys, 0) ∧ tBase.answers .hubSys 0 = true ∧ Blk.lacks .hubSys 0 0x04C = false ∧
    (Blk.regAt .hubSys 0x04C).map (·.rw) = some 0 ∧
    pageAt (Blk.base .cdSys 3) = some (.cdSys, 3) ∧ ({ tBase with cdLost := 8 } : State).answers .cdSys 3 = false ∧
    Blk.roPair .perf 0x40 0x048 = true ∧ ({ tBase with latch := SMap.set [] 8 7 } : State).latch.find? 8 = some 7 ∧ tBase.hostWrites .perf 0x40 = true ∧
    tBase.hostWrites (diePageOf 8).1 (diePageOf 8).2 = true ∧ State.reset.hostWrites (diePageOf 8).1 (diePageOf 8).2 = false := by decide +kernel

theorem wit_register_without_behaviour (u : State) (v : Nat) : u.rangeWrite .ve 0x044 v = none ∧ u.ownWrite .ve 0 0x044 0xFFFF v = none ∧
    u.rangeWrite .hubSys 0x04C v = none ∧ u.ownWrite .hubSys 0 0x04C 0 v = none := by
  refine ⟨?_, ?_, ?_, ?_⟩ <;> rfl

theorem test_registers : tNext (exec (.registerWrite (Blk.base .ve 0 + 0x044) 4 0x70033) tBase) (fun t => t.reg .ve 0 0x044 == 0x33) = true ∧
    tNext (exec (.loReadLatch (Blk.base .sched 0 + 0x049) 1) tBase) (fun t => t.readData == [0]) = true ∧
    tNext (exec (.loReadLatch (Blk.base .sched 0 + 0x048) 2) tBase) (fun t => t.readData == [100, 0]) = true := by decide +kernel

theorem wit_job_control : tSel.hostWrites .sched 0 = true ∧ State.reset.hostWrites .sched 0 = false ∧ tSel.jobSel = 5 ∧ (tSel.job 5).valid = true ∧
    (tBase.job 0).valid = false ∧ tBase.jobSel = 0 ∧
    (let new := ((2 ^ 30 + 2 ^ 29 + 1) ||| 2 ^ 31) &&& 0xF000FFFF
     bits new 29 28 = bits (tSel.job 5).cfg.toNat 29 28 ∧ bits new 15 0 = bits (tSel.job 5).cfg.toNat 15 0 ∧ new.testBit 31 = true) ∧
    (let new := (3 ||| 2 ^ 31) &&& 0xF000FFFF
     bits new 29 28 ≠ bits (tSel.job 5).cfg.toNat 29 28 ∧ bits new 15 0 ≠ bits (tSel.job 5).cfg.toNat 15 0 ∧ new.testBit 31 = true) ∧
    tSel.queuedOf 5 = 0 ∧ tSelBusy.hostWrites .sched 0 = true ∧ tSelBusy.jobSel = 5 ∧ (tSelBusy.job 5).valid = true ∧ tSelBusy.queuedOf 5 ≠ 0 := by decide +kernel

theorem test_job_control : tNext (exec (.jobValidSet 1) tBase) (fun t => (t.job 0).cfg == 0x80000001 && t.devState == 4) = true ∧
    tNext (exec (.jobValidSet (2 ^ 30 + 3)) tSel) (fun t => t.freeCount != tSel.freeCount) = true ∧
    tNext (exec (.jobValidClear 0) tSel) (fun t => !(t.job 5).valid) = true := by decide +kernel

theorem wit_block_control : Blk.enableWritable .disp = true ∧ tEnding.hostWrites .disp 0 = true ∧ (tEnding.page .disp 0).enable = false ∧ (tEnding.page .disp 0).disabling = true ∧
    tEnding.blockBusy .disp 0 = true ∧ (tBase.page .disp 0).enable = false ∧ (tBase.page .disp 0).disabling = false ∧ (tBase.page .ne 0).enable = true ∧
    tBase.groups = [] ∧ 1 < tEnding.blkState .disp 0 ∧ tBase.blkState .disp 0 ≤ 1 ∧ tBase.blockBusy .disp 0 = false ∧ tBase.answers .disp 0 = true ∧
    State.reset.hostWrites .disp 0 = false ∧ ({ tBase with devState := 0 } : State).answers .disp 0 = false := by decide +kernel

theorem wit_unit_control : Blk.enableWritable .ve = false ∧ Blk.enableWritable .sched = false ∧ tBase.hostWrites .ve 0 = true ∧ tBase.blkState .ve 0 ≤ 1 ∧
    (tOn 0x2001 []).hostWrites .ve 0 = true ∧ 1 < (tOn 0x2001 []).blkState .ve 0 := by decide +kernel

theorem test_block_control : tNext (exec (.blockEnableClear .ne 0) (tOn 0x1002 [])) (fun t => tPlace t 7 == some (.ended .unitDisabled 0) && !(t.page .ne 0).enable) = true ∧
    tNext (exec (.softReset .disp 0) tEnding) (fun t => (t.page .disp 0).errCode == 4) = true ∧
    tNext (exec (.softReset .ve 0) (tBase.setReg .ve 0 0x044 77)) (fun t => t.reg .ve 0 0x044 == tBase.reg .ve 0 0x044) = true ∧
    tNext (exec (.blockDrainSet .ne 0) tBase) (fun t => (t.page .ne 0).drain) = true := by decide +kernel

/-! ### The JTAG port, debug access and the board window -/

/-- The device with debug access open and core 1 halted. -/
def tDebug (scope : Nat) : State :=
  { tPort with dbg := { Debug.reset with isOpen := true, scope := scope, halted := [1], coreRegs := SMap.set [] (coreKey 1 2) 0x1234 } }

/-- The device without its supply, and without Base Camp. -/
def tUnsupplied : State := { tBase with pins := { tBase.pins with supply := false } }
def tNoBaseCamp : State := { tBase with pins := { tBase.pins with bc := false } }

theorem wit_debug : tUnsupplied.pins.supply = false ∧ tBase.pins.supply = true ∧ tBase.pins.resetN = true ∧ tNoBaseCamp.pins.bc = false ∧ tBase.pins.bc = true ∧
    ({ tBase with pins := { tBase.pins with resetN := false } } : State).pins.resetN = false ∧ tBase.dbg.isOpen = false ∧ tBase.dbg.lockout = false ∧
    ({ tBase with dbg := { Debug.reset with lockout := true } } : State).dbg.lockout = true ∧ tBase.devState ≠ 0 ∧ tBase.devState ≠ 1 ∧
    ({ tBase with devState := 1 } : State).devState = 1 ∧ ({ tBase with devState := 0 } : State).pins.supply = true ∧ tBase.tokenGood [] = false ∧ (tDebug 3).dbg.isOpen = true ∧
    (tDebug 3).dbg.scope.testBit 0 = true ∧ (tDebug 3).dbg.scope.testBit 1 = true ∧ (tDebug 0).dbg.scope.testBit 0 = false ∧ (tDebug 0).dbg.scope.testBit 1 = false ∧
    1 ∈ (tDebug 3).dbg.halted ∧ 0 ∉ (tDebug 3).dbg.halted ∧ (tDebug 3).dbg.coreRegs.find? (coreKey 1 2) = some 0x1234 ∧ bwMask 0x09 ≠ 0 ∧ bwMask 0x02 = 0 := by
  decide +kernel

theorem wit_debug_memory : (tDebug 3).target 0x1000 4 = some .dram ∧ (tDebug 3).dramReady = true ∧ (tDebug 3).badIn 0x1000 4 = false ∧ (tDebug 3).softWords = [] ∧
    (tDebug 3).target (2 ^ 47) 4 = none ∧ ({ tDebug 3 with badWords := [0x1000 / 8] } : State).badIn 0x1000 4 = true ∧
    (let s := { tBase with dbg := (tDebug 3).dbg }
     s.target 0x1000 4 = some .dram ∧ s.dramReady = false ∧ s.dbg.isOpen = true ∧ s.dbg.scope.testBit 0 = true) := by decide +kernel

theorem test_debug : tNext (exec .jtagIdcode tBase) (fun t => t.dbg.tdo == [0x4F, 0x85, 0x80, 0x1B] && t.dbg.ir == 1) = true ∧
    tNext (exec (.dbgToken []) { tBase with dbg := { Debug.reset with fails := 7 } }) (fun t => t.dbg.lockout && t.dbg.fails == 8) = true ∧
    tNext (exec (.dbgMem true 0x1000 (some 0x0807)) (tDebug 3)) (fun t => t.mem == [(0x1000, 7), (0x1001, 8)]) = true ∧
    tNext (exec (.dbgMem true 0x1000 none) (tDebug 0)) (fun t => t.dbg.ir == 0x3F) = true ∧
    tNext (exec (.dbgCore 1 (.read 2)) (tDebug 3)) (fun t => t.dbg.tdo == [0x34, 0x12, 0, 0]) = true ∧
    tNext (exec (.dbgCore 1 .resume) (tDebug 3)) (fun t => t.dbg.halted == []) = true ∧ tNext (exec .dbgClose (tDebug 3)) (fun t => t.dbg.halted == [] && !t.dbg.isOpen) = true := by
  decide +kernel

theorem test_board_window : tNext (exec (.bwBlockWrite 0x05 0xFFFFFFFF true) tBase) (fun t => t.bwReg 0x05 == 0x1F1F1F1F) = true ∧
    tNext (exec (.bwBlockWrite 0x05 0xFFFFFFFF false) tBase) (fun t => t.bwReg 0x05 == tBase.bwReg 0x05) = true ∧
    tNext (exec (.bwStatusRead 0x01 0) { tBase with pins := { tBase.pins with smbAlert := true } }) (fun t => !t.pins.smbAlert) = true := by decide +kernel

/-! ### Images and records that are signed -/

/-- An RSA key of modulus 2^3072 - 1 and exponent 1: what it signs is the encoded message itself, here with a salt of zeros. -/
def tKey : List Byte := List.replicate 384 0xFF ++ [1, 0, 0, 0]

/-- The SHA-256 of that key. -/
def tKeyHash : List Byte := leBytes 32 0x6e29ee0c5c64e3b20f3222f0ff266a2f90f27e5f3b6cdfec41c18d7d60a8b1bb

/-- An image of a type, with its body, the body's digest and its signature (R387). -/
def tImage (type dig sig : Nat) (body : List Byte) : List Byte :=
  leBytes 2 0x12 ++ leBytes 1 type ++ leBytes 9 0 ++ leBytes 4 body.length ++ leBytes 32 dig ++ leBytes 16 0 ++ tKey ++ leBytes 188 0 ++ leBytes 384 sig ++ body

/-- A hub firmware. -/
def tFw : List Byte := tImage 1
  0x55b852781b9995a44c939b64e441ae2724b96f99c8f4fb9a141cfc9842c4b0e3
  0xbc3db433a5541035cc15c044d6112685123db00e001997be56c9e72ebd6d90562cc411d367c72e86ac9330987628dc6747d96a023a4ba01060cff1619929c0ef174c3a6facd4241b5557f181311dd185a41ad58d10fc97c8cf19e50eb7caca904fcdccc320465510b76e142bcb39b5d0078a1f4b9daf5100be2322ccbdb8535eeffbcdf29e10e8e887942634ef4434fbcb2a35badb306aa56de687a200d0be10f709812fefdd57ff658442b3ee9e2bb813b4d1865c7e3a5d14bf87bf0f70fa2631ac1eefd7dab03949395043c0609d2429475845d1b80e4b2f94dd7054e80d0cef520c9967baa8c7d4f1c60c6614ef49f921323e1b688e83a01db92d6bdab0b73fdb0e4818b6d8a7dbb3bbb6193c288f0d1f88b8283664346b30ffab8daa733463485cb40c560b23534363e15ce45ff2cb249e2766ebbc1a243ca64a44326f794e3806ea08504326347cc5ec2e450b8c1e66dc8a10a1b1c7bc139ef0273657046ef6822f7a48e9f6dfc64806388719bef277689d4e3f22f8386ef533f7cbd111
  []

/-- An engine microcode. -/
def tUc : List Byte := tImage 2
  0x55b852781b9995a44c939b64e441ae2724b96f99c8f4fb9a141cfc9842c4b0e3
  0xbc987fba4d498ff6cd2f95942b103cb00014d0e250c0313028f1125fb0d119f58406a443352a3ef117c2cfb947b6bdd3170414ca59ffb451b7ea58a99004c6c9e7d15aa0426f3c98ee7d894729ed55d7c3a3b3c031c2d963c670e6044f7c18f2647768850d66ddf5a3c43ee6270eec1b1a6e9516f099257f33af75c33f64b04fe29cc043b28cf67032b19a224bf4185b12ee31a8e0a6353844144f427cb8ad17721f3ad6eefdbedd7f81e4422aeff93a72eed7769f2482498720ab8aa096f4dfad9284bba573dc548c74d405e580447a88c73058e7a2692e399b27bbbd22371fdfd5d8ecc454f2fd0e713fdf4199877b1a264bc6ad44567bb7e45dce1b9223676d2276299fdd5457b0c4a37dd59252573bb16b2044f071b8d4829cee207f0ad2a1ccd2f51552ec0f11f0c4a665b766a830fd5985e5b4d3b240c4515d00cd59456a3a4bb2afcb500839c20af41fb7057cafaab33112858b5f3df8c0e74573e4ba0daf7af6e4e1e8e245d429f8d85897fee3d70bb20c1ae871502e60e1e6658348
  []

/-- A manifest whose one tested set is any set (R394). -/
def tManifest : List Byte := tImage 4
  0x78447375f396946be0a876d74249af2f38ca3519663e4e1ccbfafb4f02690618
  0xbcd701896f2153586d367852affc1d8acd3978bda86696b0b00d9c769e390a3f11de1333fc6c9d142a93f8d393823c7b7e72c21b5fd4a1bc3a102139bc33f2f4dc9e4fbdcc39d9c433de6dd1452614de609ead6401e371a583240ee3546c4924c4c3055fa8791123e5dd6156610b1b0d624130cd3110cd1ca2c77b386322ab3aea1e1dc31346180b5c718f59f210607f2977a6547135308ec9fce6d75a5c5ed546d5e4206fa29c5668e9a8b38c5e3728e8fbf61f7058697da6e7f2bf4b7cb1b449fc65177e1ff98758e374bd999f59da2e2acb75b00714764dcf94b33c263215f3cccc78513963da3c297e244c2eed932045617b786478437067c069da109c5a2b74ee839b4b0a13d51d8a5f820fe889c3061552e29374028c197be9a7dd02711824f4a307dd1f5b4913456adc799c8344480739c9ddcc433b183c2e77c0626de3c7ac899df39234331adaeefff6e41faf0bc80ade371599da2d5139f6392a362db18c98812b43abda58d829d96e50d721e9497e9dd636f9e5e32a28b9587827
  (leBytes 64 1 ++ leBytes 8 (2 ^ 64 - 1))

/-- Flash with these images in slot 0, and a directory of them (R386). -/
def tFlash : Memory :=
  Memory.writeRun 0xFF [] 0 (leBytes 8 0x14 ++ leBytes 4 0x37d2eebb ++ leBytes 4 0 ++ leBytes 4 1 ++ leBytes 4 128 ++ leBytes 8 1024 ++ leBytes 4 2 ++
    leBytes 4 1152 ++ leBytes 8 1024 ++ leBytes 4 4 ++ leBytes 4 2176 ++ leBytes 8 1096 ++ leBytes 64 0 ++ tFw ++ tUc ++ tManifest)

/-- A package identity record (R382). -/
def tIdentity : List Byte :=
  leBytes 2 0x11 ++ leBytes 2 4096 ++ leBytes 20 0 ++ tKeyHash ++ leBytes 2504 0 ++ tKey ++ leBytes 764 0 ++
  leBytes 384 0xbcde00224fca0adf6233a18e4d7c7ac11adbc74ec2fcd7ed3cd9ff009b0359c95345ffe5cfe659f4e059299fc514d14b751a822d3d3784d12c58ac4161ce29913beb76742672c23afbc6fa77fbc95715d218a668919c0d2f868977127c3b977f4838d5df1f0f9f19d31a308c47332d725d58b77e9c5ed364c929b91defaaa39a4017a74f659eedf723ca1aa76b4a60b6e7516cd7a1606b27603722877d81d27fcd62f6726797082abed2c2159691be13c8075ae27c0347dc76f94cf20911bebeb1c16c3af397aeebc1c8cf37b006cffc72fa062d40984455f6691ce6824acac4b9088c57d376927304d47c305154e9b16ffcf99c401c71add397587ecfb71cd6a3971b1f4ea18eb609b52e6db02d9e848da6b9948f2361593629202b5983f72c9e5c6c9eb760212618067af8107c67b73041cb07667ecaa7abea44f1955da66a2f3e547dc3217a0aa9815585233bb231a781a74e269c65ecb36fc496739cb839f98d8288695a5ce0dd013d1f83f2ce11ed3a2b7ed0ef302423b8614246c87443

/-- A debug token for the challenge of 32 bytes 7, of scope 3 (R462). -/
def tToken : List Byte :=
  List.replicate 32 7 ++ leBytes 8 0 ++ leBytes 24 3 ++ tKey ++ leBytes 188 0 ++
  leBytes 384 0xbc651974cbf305e3c78eb2929add6445346d32a567bbc02e6f30e29513042101e6757bde764a6eb36278c20dfef96f53d587936da7dbac400b5188ead5b849a7a4ea3be90075f93a7aaf44312cedbfa84bccfade822f601b528351001ea742c8ca3552d7c36c22ff31e93dc4199b9b29d3451f3741bb4946672269caf5fd445c1c9c4478240d87955ede8939d241106ad9c4977cb6122c656025a3cdd9591d9924f74c3dccd44ea363421e0a75b2637141e2ca68e8ed3e68ac0f90842973614b42baa5d4084ce57d7bf0646c90df897c8568e23639ca103cbd3458d20e6f9fe987c0ce631edf83822e0fd89b2cd25957dc22d09c865a02e491f3794b74a776c01ca63ac6492f3cd0d672f7f858d16fa1cd38e8e76ba0da9b9ecf9e847be38468c2c3c9328aaddaf772c14401e41235504ef8a3360d5b28c8226a7babb8b5176c287e8cad8454c012f00963ae37c129577bfe646b29eec80738e237e8f070a045067d7027ca0ac4261077ece02795b46f579d5030b0868a2d6dda8be0b9108d01

/-- The boot state of a part with that record, those images and that key. -/
def tBoot : Boot := { Boot.reset with romKey := tKeyHash, nor := Memory.writeRun 0 [] 0 tIdentity, flash := tFlash, custKey := some tKeyHash }

/-- The device at the start of its cold path, and of a wake path, with that part. -/
def tColdStart : State := { State.reset with boot := tBoot }
def tWakeStart : State := { State.reset with boot := { tBoot with path := some 2, kept := true, dramTemp := 640 } }

/-- What that record's signature covers, padded as SHA-256 pads it. -/
def tCovered : List Byte := tIdentity.take 3712 ++ ((0x80 : Byte) :: List.replicate 55 0) ++ beBytes 8 29696

theorem shaBlocks_add (m n : Nat) : ∀ (h : List Nat) (bs : List Byte), shaBlocks (m + n) h bs = shaBlocks n (shaBlocks m h bs) (bs.drop (64 * m)) := by
  induction m with
  | zero => intro h bs; simp [shaBlocks]
  | succ m ih =>
    intro h bs
    rw [Nat.add_right_comm, shaBlocks, ih, shaBlocks, List.drop_drop]
    congr 2
    omega

theorem wit_covered_a : shaBlocks 12 shaInit tCovered =
    [0xeee6ac85, 0xc4e8844d, 0xd2055d97, 0xe9a8e2ad, 0x6f0ab013, 0x893894bb, 0xe2ca7a56, 0xc8a4b8f1] := by decide +kernel
theorem wit_covered_b : shaBlocks 12 [0xeee6ac85, 0xc4e8844d, 0xd2055d97, 0xe9a8e2ad, 0x6f0ab013, 0x893894bb, 0xe2ca7a56, 0xc8a4b8f1] (tCovered.drop 768) =
    [0x3c3debb2, 0x3c4cd7fe, 0x14e887b5, 0x84ffd8a9, 0x9cfbf3ed, 0x7b0860f8, 0x9c44b09e, 0x072fe406] := by decide +kernel
theorem wit_covered_c : shaBlocks 12 [0x3c3debb2, 0x3c4cd7fe, 0x14e887b5, 0x84ffd8a9, 0x9cfbf3ed, 0x7b0860f8, 0x9c44b09e, 0x072fe406] (tCovered.drop 1536) =
    [0x9c9e30af, 0x8dfba7b9, 0xe4a71f10, 0x626fb008, 0xdb642aa7, 0x2003dc89, 0xf9ad83f2, 0xd3f3e955] := by decide +kernel
theorem wit_covered_d : shaBlocks 12 [0x9c9e30af, 0x8dfba7b9, 0xe4a71f10, 0x626fb008, 0xdb642aa7, 0x2003dc89, 0xf9ad83f2, 0xd3f3e955] (tCovered.drop 2304) =
    [0x6b4fcfe5, 0x8edb0da7, 0xd3861f93, 0x4de91692, 0x124e4009, 0x1d1458d9, 0x3404fb92, 0xd02acc3f] := by decide +kernel
theorem wit_covered_e : shaBlocks 11 [0x6b4fcfe5, 0x8edb0da7, 0xd3861f93, 0x4de91692, 0x124e4009, 0x1d1458d9, 0x3404fb92, 0xd02acc3f] (tCovered.drop 3072) =
    [0x5982b0cc, 0x99b9d6a3, 0x9f1e739e, 0x305357ce, 0xf0f3e43d, 0xfe413dfd, 0x5f9e9eed, 0xdabc029c] := by decide +kernel

theorem wit_covered : shaBlocks 59 shaInit tCovered =
    [0x5982b0cc, 0x99b9d6a3, 0x9f1e739e, 0x305357ce, 0xf0f3e43d, 0xfe413dfd, 0x5f9e9eed, 0xdabc029c] := by
  rw [show 59 = 12 + (12 + (12 + (12 + 11))) from rfl, shaBlocks_add, wit_covered_a, shaBlocks_add, wit_covered_b, List.drop_drop, shaBlocks_add, wit_covered_c,
    List.drop_drop, shaBlocks_add, wit_covered_d, List.drop_drop]
  exact wit_covered_e

theorem sha256_blocks (bs msg : List Byte) (n : Nat)
    (hm : msg = bs ++ ((0x80 : Byte) :: List.replicate ((119 - bs.length % 64) % 64) 0) ++ beBytes 8 (8 * bs.length))
    (hn : msg.length / 64 = n) : sha256 bs = (shaBlocks n shaInit msg).flatMap (beBytes 4) := by
  subst hm hn
  rfl

/-- The SHA-256 of what that record's signature covers, computed in runs of blocks. -/
theorem wit_identity_hash : sha256 (tIdentity.take 3712) = leBytes 32 0x9c02bcdaed9e9e5ffd3d41fe3de4f3f0ce5753309e731e9fa3d6b999ccb08259 := by
  have l : (tIdentity.take 3712).length = 3712 := by decide +kernel
  have e := sha256_blocks (tIdentity.take 3712) tCovered 59
    (by rw [l, show (119 - 3712 % 64) % 64 = 55 from rfl, show 8 * 3712 = 29696 from rfl, tCovered])
    (by rw [tCovered, List.length_append, List.length_append, l]; decide +kernel)
  rw [e, wit_covered]
  decide +kernel

theorem wit_identity_signed : keyVerify ((tIdentity.drop 2560).take 384) ((tIdentity.drop 2944).take 4) (tIdentity.take 3712) (tIdentity.drop 3712) = true := by
  rw [keyVerify, pssVerify, wit_identity_hash]
  decide +kernel

/-- What the boot ROM reads of the NOR is that record. -/
theorem wit_identity_read : tBoot.identity = tIdentity := by
  have l : tIdentity.length = 4096 := by decide +kernel
  have h := Memory.readRun_writeRun_same (d := 0) (m := []) 0 tIdentity rfl
  rwa [l] at h

theorem wit_identity_key : sha256 ((tIdentity.drop 2560).take 388) = tKeyHash := by decide +kernel

theorem wit_identity : tBoot.identityGood = true ∧ Boot.reset.identityGood = false := by
  refine ⟨?_, by decide +kernel⟩
  simp only [Boot.identityGood, wit_identity_read, wit_identity_signed, wit_identity_key]
  decide +kernel

/-- The boot state once the record is accepted. -/
def tAccepted : Boot := { tBoot with identOk := true }

theorem wit_image_fw : tAccepted.image 0 1 = some 128 := by decide +kernel
theorem wit_image_manifest : tAccepted.image 0 4 = some 2176 := by decide +kernel
theorem wit_image_uc : tAccepted.image 0 2 = some 1152 := by decide +kernel
theorem wit_slot_order : tAccepted.slotOrder = [0] := by decide +kernel

theorem wit_slot : (tAccepted.bootSlot (Config.hasMe (tBoot.partOf Part.reset).variant) 0).cause = 0 := by
  rw [Boot.bootSlot, wit_image_fw, wit_image_manifest, wit_image_uc]
  decide +kernel

theorem wit_cold_plan : (tAccepted.coldPlan (Config.hasMe (tBoot.partOf Part.reset).variant)).cause = 0 := by
  simp [Boot.coldPlan, wit_slot_order, Boot.bootSlots, wit_slot]

/-- The boot state of a part whose slot holds no engine microcode: cause 4. -/
def tNoMicrocode : Boot := { tAccepted with flash := tAccepted.flash.clearRun 1152 64 }

theorem wit_no_microcode_fw : tNoMicrocode.image 0 1 = some 128 := by decide +kernel
theorem wit_no_microcode_manifest : tNoMicrocode.image 0 4 = some 2176 := by decide +kernel
theorem wit_no_microcode_uc : tNoMicrocode.image 0 2 = none := by decide +kernel
theorem wit_no_microcode_order : tNoMicrocode.slotOrder = [0] := by decide +kernel

theorem wit_cold_plan_without_microcode : (tNoMicrocode.bootSlot false 0).cause = 4 := by
  rw [Boot.bootSlot, wit_no_microcode_fw, wit_no_microcode_manifest, wit_no_microcode_uc]
  decide +kernel

theorem wit_cold_plan_fails : (Boot.reset.coldPlan true).cause = 2 := by decide +kernel

theorem wit_cold_start : tColdStart.devState = 2 ∧ tColdStart.boot.path = some 0 ∧ tColdStart.boot.waitGood = false ∧ tColdStart.jobs = [] ∧
    tColdStart.part = Part.reset ∧ 1 % 2 ^ Config.ports (tBoot.partOf Part.reset).variant ≠ 0 := by decide +kernel

theorem wit_wake_start : tWakeStart.devState = 2 ∧ tWakeStart.boot.path = some (1 + 1) ∧ tWakeStart.boot.waitGood = false ∧ tWakeStart.boot.kept = true ∧
    tWakeStart.retrainDue 640 = false ∧ tWakeStart.retrainDue 1280 = true := by decide +kernel

/-- The end of the cold path past its images (R389); `wit_identity` and `wit_cold_plan` are the checks before it. -/
theorem test_cold_ready : ((tColdStart.identTaken false).portsReady.enterReady 0 100 0 0).devState = 3 ∧
    (((tColdStart.identTaken false).portsReady.enterReady 0 100 0 0).page .disp 0).enable = false := by decide +kernel

/-- The device with that boot state and an outstanding challenge. -/
def tChallenged : State := { tBase with boot := tBoot, dbg := { Debug.reset with challenge := some (List.replicate 32 7) } }

theorem wit_token : tChallenged.dbg.isOpen = false ∧ tChallenged.dbg.lockout = false ∧ tChallenged.tokenGood tToken = true := by decide +kernel

theorem wit_token_refused : tChallenged.tokenGood [] = false := by decide +kernel

end Sys2Proof.Tests
end

section
set_option Elab.async false
namespace Sys2Proof.Machine

/-! ### Frames and time -/

/-- A list of fields may be replaced by one that holds them all, in any order. -/
theorem Only.mono {fs gs : List StateField} {s t : State} (h : Only fs s t)
    (hs : fieldMask fs &&& fieldMask gs = fieldMask fs) : Only gs s t := h.step hs (Only.refl gs s)

theorem timeReached_mod (a b : Nat) : timeReached a (b % 2 ^ 64) = timeReached a b := by
  simp [timeReached]

/-- A timed event runs the time on to its due time and changes nothing else. -/
theorem State.at_eq (s : State) (due : Nat) : s.at due = { s with now := laterTime s.now (due % 2 ^ 64) } := by
  unfold State.at laterTime
  rw [timeReached_mod]
  split <;> rfl

/-- The same with the time left open, which keeps the kernel from evaluating it. -/
theorem State.at_exists (s : State) (due : Nat) : ∃ n, s.at due = { s with now := n } := ⟨_, State.at_eq s due⟩

theorem State.at_now (s : State) (due : Nat) : (s.at due).now = laterTime s.now (due % 2 ^ 64) := by rw [State.at_eq]

theorem State.irq_now (s : State) (b : Blk) (i : Nat) (m : Word) : (s.irq b i m).now = s.now :=
  State.irq_only s b i m .now rfl

theorem State.at_page (s : State) (due : Nat) (b : Blk) (i : Nat) : (s.at due).page b i = s.page b i :=
  State.page_congr (State.at_only s due .pages rfl) (State.at_only s due .insole rfl) b i

/-- A timed event that raises an interrupt: the time runs on to it, and the RAW bits are set in one page. -/
theorem State.at_irq (s : State) (due : Nat) (b : Blk) (i : Nat) (m : Word) :
    ((s.at due).irq b i m).now = laterTime s.now (due % 2 ^ 64) ∧
      ((s.at due).irq b i m).page b i = { s.page b i with raw := (s.page b i).raw ||| m } ∧
      (∀ c j, Blk.base c j ≠ Blk.base b i → ((s.at due).irq b i m).page c j = s.page c j) ∧
      Only [.hostMem, .msix, .now, .pages] s ((s.at due).irq b i m) := by
  refine ⟨?_, ?_, fun c j hne => ?_, ?_⟩
  · rw [State.irq_now, State.at_now]
  · rw [State.irq_page, State.at_page]
  · rw [State.irq_page_other _ _ _ _ _ _ hne, State.at_page]
  · exact (State.irq_only _ b i m).step (by decide) ((State.at_only s due).mono (by decide))


/-- Settles O10: each timeout is `State.at_irq` at its due time. -/
theorem timeoutsRaiseTheirInterrupts : Obligations.TimeoutsRaiseTheirInterrupts := by
  unfold Obligations.TimeoutsRaiseTheirInterrupts
  refine fun s => ⟨fun apt since h => ⟨(s.at (since + msTicks + 1)).irq .sched 0 0b01000, ?_, s.at_irq _ _ _ _⟩,
    fun ring since h => ⟨(s.at (since + msTicks)).irq .cfe 0 0b01, ?_, s.at_irq _ _ _ _⟩,
    fun c since h => ⟨(s.at (since + msTicks + 1)).irq .me 0 0b01000, ?_, s.at_irq _ _ _ _⟩⟩
  · show execAptHeldTimeout apt s = _
    rw [execAptHeldTimeout, h]
  · show execRingFullTimeout ring s = _
    rw [execRingFullTimeout, h]
  · show execMeRingStall s = _
    rw [execMeRingStall, h]


theorem State.job_reset_valid (j : Nat) : (State.reset.job j).valid = false := by
  show Job.fresh.valid = false
  decide

/-- Settles O60: the registers are read off the reset state, whose maps of jobs and flags are empty. -/
theorem resetRegistersHoldTheirTableValues : Obligations.ResetRegistersHoldTheirTableValues := by
  unfold Obligations.ResetRegistersHoldTheirTableValues
  exact ⟨by decide +kernel, State.job_reset_valid, fun f => rfl, rfl⟩

end Sys2Proof.Machine
end

section
set_option Elab.async false
namespace Sys2Proof.Machine

/-! ### Control commands (R27) -/

section
variable {s : State} {c : Cmd} {e : Entry} {op : Nat} {fails : Cmd → List (Status × Nat)} {go : Cmd → Bool} {st : Status}

/-- A control command that nothing holds back, outside RECOVERY, is decided by its checks, then by poison, then by its condition. -/
theorem State.controlAs_ready (hc : s.cmd? c.uid = some c) (hr : s.controlReady c op = true) (he : s.freeEntry c.ring = some e)
    (hd : s.devState ≠ 6) : s.controlAs c.uid op fails go st =
      match lowestCause (fails c) with
      | some f => s.putCmd { c with place := .ended f.1 f.2, entry := e }
      | none => if s.waitPoisoned c then s.putCmd { c with place := .ended .ecc 0, entry := e }
        else if go c then s.putCmd { c with place := .ended st 0, entry := e } else s := by
  simp only [State.controlAs, hc, hr, he, Bool.not_true, Bool.false_eq_true, if_false, beq_iff_eq, hd] <;> rfl

theorem State.controlAs_fails (hc : s.cmd? c.uid = some c) (hr : s.controlReady c op = true) (he : s.freeEntry c.ring = some e)
    (hd : s.devState ≠ 6) {f : Status × Nat} (hf : lowestCause (fails c) = some f) :
    s.controlAs c.uid op fails go st = s.putCmd { c with place := .ended f.1 f.2, entry := e } := by
  rw [State.controlAs_ready hc hr he hd, hf]

theorem State.controlAs_poisoned (hc : s.cmd? c.uid = some c) (hr : s.controlReady c op = true)
    (he : s.freeEntry c.ring = some e) (hd : s.devState ≠ 6) (hf : lowestCause (fails c) = none) (hp : s.waitPoisoned c = true) :
    s.controlAs c.uid op fails go st = s.putCmd { c with place := .ended .ecc 0, entry := e } := by
  rw [State.controlAs_ready hc hr he hd, hf]
  exact if_pos hp

theorem State.controlAs_goes (hc : s.cmd? c.uid = some c) (hr : s.controlReady c op = true) (he : s.freeEntry c.ring = some e)
    (hd : s.devState ≠ 6) (hf : lowestCause (fails c) = none) (hp : s.waitPoisoned c = false) (hg : go c = true) :
    s.controlAs c.uid op fails go st = s.putCmd { c with place := .ended st 0, entry := e } := by
  rw [State.controlAs_ready hc hr he hd, hf]
  exact (if_neg (by simp [hp])).trans (if_pos hg)

theorem State.controlReady_pending (ho : c.opcode = op) (hp : c.place = .pending) (hb : s.behindWait c = false)
    (hf : s.fenced c = false) (hr : s.stepReady c = true) (hs : s.stopped = false) : s.controlReady c op = true := by
  simp [State.controlReady, ho, hp, hb, hf, hr, hs]

end

@[simp] theorem failIf_true (st : Status) (k : Nat) : failIf true st k = [(st, k)] := rfl
@[simp] theorem failIf_false (st : Status) (k : Nat) : failIf false st k = [] := rfl

/-- A FLAG_WAIT waits on the flag of its operands (R27). -/
theorem State.waitPoisoned_flagWait (s : State) {c : Cmd} (ho : c.opcode = 2) :
    s.waitPoisoned c = (s.flag (c.num 8 2 % 4096)).poison := by
  simp [State.waitPoisoned, Cmd.wait, ho]

/-- A control command other than a FLAG_WAIT has no WAIT (R27). -/
theorem State.waitPoisoned_control (s : State) {c : Cmd} (ho : c.opcode = 3 ∨ c.opcode = 4) : s.waitPoisoned c = false := by
  have hu : c.unit = some .ctl := by rcases ho with h | h <;> simp [Cmd.unit, h, opUnit]
  have hw : c.wait = none := by rcases ho with h | h <;> simp [Cmd.wait, Cmd.waitOffset, Cmd.commonWait, hu, h]
  simp [State.waitPoisoned, hw]

theorem flagWaitFails_none {c : Cmd} (h8 : c.num 8 2 < 4096) (h10 : c.num 10 2 = 0) (h16 : c.num 16 48 = 0) :
    lowestCause (flagWaitFails c) = none := by
  simp [flagWaitFails, h8, h10, h16, failIf, lowestCause]

theorem flagWaitFails_some {c : Cmd} (h : 4096 ≤ c.num 8 2 ∨ c.num 10 2 ≠ 0 ∨ c.num 16 48 ≠ 0) :
    lowestCause (flagWaitFails c) = some (.badOperand, 4) := by
  have hb : (c.num 8 2 / 4096 != 0 || c.num 10 2 != 0 || c.num 16 48 != 0) = true := by
    simp only [Bool.or_eq_true, bne_iff_ne]
    omega
  rw [flagWaitFails, hb, failIf_true]
  rfl

theorem State.at_putCmd_cmds (s : State) (due : Nat) (c : Cmd) : ((s.at due).putCmd c).cmds = (s.putCmd c).cmds := by
  obtain ⟨n, hn⟩ := s.at_exists due
  rw [hn]
  rfl

/-- Settles O14: each ending is one case of `State.controlAs_ready`. -/
theorem controlCommandsEnd : Obligations.ControlCommandsEnd := by
  unfold Obligations.ControlCommandsEnd
  intro s c e hc hp hb hs he hf hr hd
  have ready {op : Nat} (ho : c.opcode = op) : s.controlReady c op = true := State.controlReady_pending ho hp hb hf hr hs
  refine ⟨?_, ?_, ?_, ?_, ?_, ?_, ?_, ?_, ?_⟩
  · intro ho hpoi h8 h10 h16 hreach
    have hm : c.num 8 2 % 4096 = c.num 8 2 := Nat.mod_eq_of_lt h8
    exact congrArg _ (State.controlAs_goes hc (ready ho) he hd (flagWaitFails_none h8 h10 h16)
      (by rw [State.waitPoisoned_flagWait s ho, hm, hpoi]) (by rw [State.flagWaitMet, hm, hreach]))
  · intro ho hpoi h8 h10 h16
    have hm : c.num 8 2 % 4096 = c.num 8 2 := Nat.mod_eq_of_lt h8
    exact congrArg _ (State.controlAs_poisoned hc (ready ho) he hd (flagWaitFails_none h8 h10 h16)
      (by rw [State.waitPoisoned_flagWait s ho, hm, hpoi]))
  · intro ho hbad
    exact congrArg _ (State.controlAs_fails hc (ready ho) he hd (flagWaitFails_some hbad))
  · intro ho h8 h10 h16 h1 h31
    refine congrArg _ (State.controlAs_goes hc (ready ho) he hd ?_ (State.waitPoisoned_control s (.inl ho)) rfl)
    have h31' : ¬ 2147483648 ≤ c.num 12 4 := by omega
    have h1' : c.num 12 4 ≠ 0 := by omega
    simp [failIf, h8, h10, h16, h1', h31', lowestCause]
  · intro ho hbad
    refine congrArg _ (State.controlAs_fails hc (ready ho) he hd (f := (.badOperand, 2)) ?_)
    have hb : (c.num 12 4 == 0 || decide (2 ^ 31 ≤ c.num 12 4)) = true := by simpa using hbad
    rw [hb]
    cases hk : (c.num 8 2 / 4096 != 0 || c.num 10 2 != 0 || c.num 16 48 != 0) <;> rfl
  · intro ho h1 h31 hbad
    refine congrArg _ (State.controlAs_fails hc (ready ho) he hd (f := (.badOperand, 4)) ?_)
    have hb : (c.num 12 4 == 0 || decide (2 ^ 31 ≤ c.num 12 4)) = false := by
      simp only [Bool.or_eq_false_iff, beq_eq_false_iff_ne, decide_eq_false_iff_not]
      omega
    rw [hb]
    exact flagWaitFails_some hbad
  · intro ho h8
    exact congrArg _ (State.controlAs_goes hc (ready ho) he hd (by simp [failIf, h8, lowestCause])
      (State.waitPoisoned_control s (.inr ho)) rfl)
  · intro ho h8
    exact congrArg _ (State.controlAs_fails hc (ready ho) he hd (f := (.badOperand, 4)) (by simp [failIf, h8, lowestCause]))
  · intro ho hpoi h8 h10 h16 hreach hms
    have hm : c.num 8 2 % 4096 = c.num 8 2 := Nat.mod_eq_of_lt h8
    have hunmet : s.flagWaitMet c = false := by rw [State.flagWaitMet, hm, hreach]
    have hms' : (bits (s.reg .sched 0 0x048) 15 0 == 0) = false := by simpa using hms
    have hend (due : Nat) : (s.at due).controlAs c.uid 2 flagWaitFails (fun _ => true) .timeout =
        (s.at due).putCmd { c with place := .ended .timeout 0, entry := e } := by
      obtain ⟨n, hn⟩ := s.at_exists due
      rw [hn]
      exact State.controlAs_goes hc (ready ho) he hd (flagWaitFails_none h8 h10 h16)
        ((State.waitPoisoned_flagWait _ ho).trans (by rw [hm]; exact hpoi)) rfl
    refine ⟨(s.at (c.acceptedAt + bits (s.reg .sched 0 0x048) 15 0 * msTicks)).putCmd { c with place := .ended .timeout 0, entry := e },
      ?_, State.at_putCmd_cmds _ _ _, (State.putCmd_now _ _).trans (State.at_now _ _), ?_⟩
    · show execFlagWaitTimeout c.uid s = _
      simp only [execFlagWaitTimeout, hc, ready ho, hunmet, hms', hend, Bool.not_true, Bool.or_false, Bool.false_eq_true, if_false]
    · exact (State.putCmd_only _ _).step (by decide) ((State.at_only s _).mono (by decide))

end Sys2Proof.Machine
end

section
set_option Elab.async false
namespace Sys2Proof.Machine

/-! ### A restored save area that holds a single-bit error (R39, R104, R283) -/

/-- The pending NE_ACC_CLEAR of job 5, which engine 0 would run, as command 7. -/
def restoringCmd : Cmd :=
  { uid := 7, apt := 1, ring := 3, seq := 0, pkt := BitVec.ofNat 512 (0x1002 + 5 * 2 ^ 16 + 0xFFFF * 2 ^ 64), job := 5, cls := 0, step := none
    rejected := false, place := .pending, entry := .none, heldEntry := true, epoch := 0, acceptedAt := 0, turn := 0, store := 0
    replay := false, fetched := false, progress := 0, data := [], fault := none }

/-- A device in READY whose engine 0 has the given slots and has saved the context of job 5, whose save area lies at the base of tile memory 0 and begins with a
word with a single-bit error. -/
def restoringState (slots : List CtxSlot) : State :=
  { State.reset with
    devState := 3
    cmds := [restoringCmd]
    engines := [(0, { Engine.fresh with slots := slots, saved := [5] })]
    saveBase := [(5, BitVec.ofNat 32 (2 ^ 31))]
    regs := [(Blk.base .cdSys 0 + 0x040, BitVec.ofNat 32 (2 * 2 ^ 30 + 2 ^ 29))]
    softWords := [tmemBase 0 / 8] }

/-- The correction counter of tile memory 0 (R283, R300). -/
def tileMemoryCorrections : Nat := Blk.base .tmem 0 + 0x054

theorem restoringState_no_corrections (slots : List CtxSlot) : (restoringState slots).regs.find? tileMemoryCorrections = none := by
  show SMap.find? [(Blk.base .cdSys 0 + 0x040, BitVec.ofNat 32 (2 * 2 ^ 30 + 2 ^ 29))] tileMemoryCorrections = none
  decide

theorem restoringState_free_slot : ((restoringState []).engine 0).slotOf 5 = none ∧ (restoringState []).dieUsable (0 / 2) = true ∧
    ((restoringState []).page .ne 0).faulted = false ∧
    (restoringState []).bestOf ((restoringState []).wantHeads 0 5) = some restoringCmd ∧
    ((restoringState []).engine 0).freeSlot = some 0 := by decide +kernel

theorem restoringState_swap_corrects :
    ((restoringState []).contextSwap 0 5).track.regs.find? tileMemoryCorrections = some 1 := by decide +kernel

/-- Refutes O17: a context that comes back from its save area into a free slot reads the area, and a single-bit error there is corrected and
counted (R283), so that `ECC_CORR_COUNT` of the tile memory changes, which the frame of the first clause excludes. -/
theorem not_contextSwapFillsAFreeSlot : ¬ Obligations.ContextSwapFillsAFreeSlot := by
  unfold Obligations.ContextSwapFillsAFreeSlot
  intro h
  obtain ⟨hslot, hdie, hpage, hbest, hfree⟩ := restoringState_free_slot
  obtain ⟨hswap, -, -⟩ := h (restoringState []) 0 5 restoringCmd hslot hdie hpage hbest
  obtain ⟨t, ht, -, -, -, -, -, honly⟩ := hswap 0 hfree
  have htrack : ((restoringState []).contextSwap 0 5).track = t := Host.Outcome.next.inj ht
  have hregs : t.regs = (restoringState []).regs := honly .regs rfl
  have hcorr := restoringState_swap_corrects
  rw [htrack, hregs, restoringState_no_corrections] at hcorr
  cases hcorr

/-- The one resident of the engine, of job 6, blocked since tick 0. -/
def blockedResident : CtxSlot := ⟨0, 6, some 0, some 0, false⟩

theorem restoringState_blocked : ((restoringState [blockedResident]).engine 0).allBlockedSince = some 0 ∧
    (restoringState [blockedResident]).swapCandidate 0 = some restoringCmd ∧
    (restoringState [blockedResident]).mayLeave 0 blockedResident = true := by decide +kernel

theorem restoringState_blockedSwap_corrects :
    ((restoringState [blockedResident]).blockedSwap 0).track.regs.find? tileMemoryCorrections = some 1 := by decide +kernel

/-- Refutes O19: the runnable context comes back from its save area, and a single-bit error there is corrected and counted (R283), so that a register
other than `SWAP_COUNT` changes. -/
theorem not_blockedSwapBringsTheRunnableContext : ¬ Obligations.BlockedSwapBringsTheRunnableContext := by
  unfold Obligations.BlockedSwapBringsTheRunnableContext
  intro h
  obtain ⟨hsince, hcand, hleave⟩ := restoringState_blocked
  obtain ⟨t, k, ht, -, -, -, -, -, -, -, -, -, hregs, -⟩ := h (restoringState [blockedResident]) 0 0 restoringCmd hsince hcand
    ⟨blockedResident, List.mem_singleton.mpr rfl, hleave⟩
  have htrack : ((restoringState [blockedResident]).blockedSwap 0).track = t := Host.Outcome.next.inj ht
  have hcorr := restoringState_blockedSwap_corrects
  rw [htrack, hregs tileMemoryCorrections (by decide), restoringState_no_corrections] at hcorr
  cases hcorr

end Sys2Proof.Machine
end

section
set_option Elab.async false
namespace Sys2Proof.Machine

/-! ### Bytes -/

@[simp] theorem leBytes_length (n x : Nat) : (leBytes n x).length = n := by
  induction n generalizing x with
  | zero => rfl
  | succ n ih => simp [leBytes, ih]

theorem leNat_leBytes (n x : Nat) : leNat (leBytes n x) = x % 256 ^ n := by
  induction n generalizing x with
  | zero => simp [leBytes, leNat, Nat.mod_one]
  | succ n ih =>
    have h := Nat.mod_mul (a := 256) (b := 256 ^ n) (x := x)
    simp only [leBytes, leNat, ih, BitVec.toNat_ofNat, pow_succ, Nat.mul_comm (256 ^ n)]
    omega

/-! ### Lists of named items -/

/-- The first of a list that `p` names, in the list where those that `p` names are replaced by one of them. -/
theorem find?_map_replace {α : Type} {l : List α} {p : α → Bool} {x : α} (hx : p x = true) (h : (l.find? p).isSome) :
    (l.map fun y => if p y then x else y).find? p = some x := by
  rw [find?_map_same]
  · obtain ⟨y, hy⟩ := Option.isSome_iff_exists.mp h
    rw [hy, Option.map_some, if_pos (List.find?_some hy)]
  · intro a
    split
    · next ha => rw [ha, hx]
    · rfl

/-- Where another item is looked for, the replacement is not seen. -/
theorem find?_map_replace_other {α : Type} {l : List α} {p q : α → Bool} {x : α} (hx : q x = false)
    (h : ∀ y, p y = true → q y = false) : (l.map fun y => if p y then x else y).find? q = l.find? q := by
  induction l with
  | nil => rfl
  | cons a l ih =>
    simp only [List.map_cons, List.find?_cons, ih]
    by_cases ha : p a = true
    · simp [ha, hx, h a ha]
    · simp [ha]

theorem State.step?_uid {s : State} {u : Nat} {x : Step} (h : s.step? u = some x) : x.uid = u := by
  simpa using List.find?_some h

theorem State.step?_congr {s t : State} (h : t.steps = s.steps) (u : Nat) : t.step? u = s.step? u := by
  simp [State.step?, h]

theorem State.group?_congr {s t : State} (h : t.groups = s.groups) (u k : Nat) : t.group? u k = s.group? u k := by
  simp [State.group?, h]

theorem State.putStep_step? {s : State} {x : Step} (h : (s.step? x.uid).isSome) : (s.putStep x).step? x.uid = some x :=
  find?_map_replace (by simp) h

theorem State.putStep_step?_other (s : State) {x : Step} {u : Nat} (h : u ≠ x.uid) : (s.putStep x).step? u = s.step? u :=
  find?_map_replace_other (by simpa using h.symm) fun y hy => by
    have hyx : y.uid = x.uid := by simpa using hy
    simpa [hyx] using h.symm

theorem State.putGroup_group? (s : State) (g : Group) : (s.putGroup g).group? g.step g.tile = some g := by
  simp [State.putGroup, State.group?]

theorem State.putGroup_group?_other (s : State) {g : Group} {u k : Nat} (h : (u, k) ≠ (g.step, g.tile)) :
    (s.putGroup g).group? u k = s.group? u k := by
  have hg : (g.step == u && g.tile == k) = false := by
    simp only [Bool.and_eq_false_iff, beq_eq_false_iff_ne]
    by_contra hc
    simp_all
  unfold State.putGroup State.group?
  rw [List.find?_cons_of_neg (by rw [hg]; exact Bool.false_ne_true), List.find?_filter]
  congr 1
  funext y
  by_cases hy : y.step = u ∧ y.tile = k
  · obtain ⟨rfl, rfl⟩ := hy
    have hne : y.step ≠ g.step ∨ y.tile ≠ g.tile := not_and_or.mp fun hc => h (by rw [hc.1, hc.2])
    simpa using hne
  · have : (y.step == u && y.tile == k) = false := by simpa using hy
    simp [this]

/-! ### Engines -/

theorem State.putEngine_engine (s : State) (g : Nat) (e : Engine) : (s.putEngine g e).engine g = e := by
  simp [State.engine, State.putEngine, SMap.get_set_same]

theorem State.putEngine_engine_other (s : State) {g h : Nat} (e : Engine) (hne : h ≠ g) :
    (s.putEngine g e).engine h = s.engine h := by
  simp [State.engine, State.putEngine, SMap.get_set_other _ _ _ _ _ hne]

theorem SMap.find?_map_snd {α : Type} (m : SMap α) (f : Nat → α → α) (k : Nat) :
    SMap.find? (m.map fun p => (p.1, f p.1 p.2)) k = (m.find? k).map (f k) := by
  induction m with
  | nil => rfl
  | cons p m ih =>
    simp only [List.map_cons, SMap.find?, ih]
    by_cases h : p.1 = k
    · simp [h]
    · simp [h]

/-- The engine after the block times have been brought up to date: one that the state lists is tracked. -/
theorem State.track_engine (s : State) (g : Nat) :
    s.track.engine g = s.engine g ∨ s.track.engine g = s.trackEngine g (s.engine g) := by
  unfold State.engine State.track SMap.get
  simp only [SMap.find?_map_snd s.engines s.trackEngine g]
  cases s.engines.find? g with
  | none => exact .inl rfl
  | some e => exact .inr rfl

/-- Block times touch no accumulator row. -/
theorem State.track_row (s : State) (g m r : Nat) : (s.track.engine g).row m r = (s.engine g).row m r := by
  rcases s.track_engine g with h | h
  · rw [h]
  · rw [h]
    rfl

theorem State.track_slot (s : State) (g : Nat) :
    (s.track.engine g).slots.map (fun x => (x.slot, x.job)) = (s.engine g).slots.map fun x => (x.slot, x.job) := by
  rcases s.track_engine g with h | h
  · rw [h]
  · rw [h]
    simp [State.trackEngine, Function.comp_def]

theorem Engine.row_congr {e f : Engine} (h : e.acc = f.acc) (m r : Nat) : e.row m r = f.row m r := by
  rw [Engine.row, Engine.row, h]

end Sys2Proof.Machine
end

section
set_option Elab.async false
namespace Sys2Proof.Machine

/-! ### Admission (R31) -/

/-- The command as it enters its queue. -/
def State.queuedCmd (s : State) (c : Cmd) (q : Queue) (e : Entry) : Cmd :=
  { c with
    place := .queued q
    entry := e
    heldEntry := c.heldEntry && (match s.groupOf c with | some x => x.balance | none => false)
    turn := s.nextTurn }

/-- The end of a command that its unit turns away. -/
def Cmd.endedWith (c : Cmd) (st : Status) (cause : Nat) (e : Entry) : Cmd := { c with place := .ended st cause, entry := e }

section
variable {s : State} {c : Cmd} {q : Queue} (e : Entry)

theorem State.takeIn_turnedAway {st : Status} (h : s.turnedAway c (s.engineOf c) = some st) :
    s.takeIn c q e = s.putCmd (c.endedWith st 0 e) := by
  simp only [State.takeIn, h]
  rfl

theorem State.takeIn_channelOff (h : s.turnedAway c (s.engineOf c) = none) (hq : s.channelOff q = true) :
    s.takeIn c q e = s.putCmd (c.endedWith .unitDisabled 0 e) := by
  simp only [State.takeIn, h, hq, if_true]
  rfl

theorem State.takeIn_slotsOutside (h : s.turnedAway c (s.engineOf c) = none) (hq : s.channelOff q = false)
    (ho : s.slotsOutside c = true) : s.takeIn c q e = s.putCmd (c.endedWith .badOperand 0x01 e) := by
  simp only [State.takeIn, h, hq, ho, Bool.false_eq_true, if_false, if_true]
  rfl

theorem State.takeIn_held (h : s.turnedAway c (s.engineOf c) = none) (hq : s.channelOff q = false) (ho : s.slotsOutside c = false)
    (hh : s.admissionHeld c (s.engineOf c) = true ∨ s.residentFor q = false ∨ s.commitCredit c = false ∨
      q.capacity ≤ (s.inQueue q).length) : s.takeIn c q e = s := by
  simp only [State.takeIn, h, hq, ho, Bool.false_eq_true, if_false]
  refine if_pos ?_
  simp only [Bool.or_eq_true, Bool.not_eq_true', decide_eq_true_eq]
  tauto

theorem State.takeIn_admitted (h : s.turnedAway c (s.engineOf c) = none) (hq : s.channelOff q = false)
    (ho : s.slotsOutside c = false) (ha : s.admissionHeld c (s.engineOf c) = false) (hr : s.residentFor q = true)
    (hm : s.commitCredit c = true) (hl : (s.inQueue q).length < q.capacity) :
    s.takeIn c q e =
      ((((s.putCmd (s.queuedCmd c q e)).trace c 1 0 0).wake (s.engineOf c)).pulse .sched 0 0x10 1 (some c.job)).track := by
  simp only [State.takeIn, h, hq, ho, ha, hr, hm, Nat.not_le.mpr hl, Bool.false_eq_true, if_false, Bool.not_true, Bool.or_false,
    decide_false]
  rfl

end

/-- What follows an admission leaves the commands alone. -/
theorem State.admission_cmds (s : State) (c : Cmd) (g : Nat) :
    ((((s.trace c 1 0 0).wake g).pulse .sched 0 0x10 1 (some c.job)).track).cmds = s.cmds := by
  have h := (((State.trace_only s c 1 0 0).step (gs := [.ctrs, .engines, .msix, .pages, .regs, .mem, .hostMem, .badWords, .traceGap, .softWords,
    .traceFill, .traceAt]) (by decide) (Only.refl _ s)))
  have h := (State.wake_only _ g).step (by decide) h
  have h := (State.pulse_only _ .sched 0 0x10 1 (some c.job)).step (by decide) h
  exact (State.track_only _).step (by decide) h .cmds rfl

theorem State.takeIn_cmd?_other (s : State) (c : Cmd) (q : Queue) (e : Entry) {v : Nat} (hv : v ≠ c.uid) :
    (s.takeIn c q e).cmd? v = s.cmd? v := by
  have hput (d : Cmd) (hd : d.uid = c.uid) : (s.putCmd d).cmd? v = s.cmd? v :=
    State.putCmd_cmd?_other s d v (by rw [hd]; exact hv)
  unfold State.takeIn
  dsimp only
  split
  · exact hput _ rfl
  · split_ifs
    · exact hput _ rfl
    · exact hput _ rfl
    · rfl
    · rw [State.cmd?_congr (State.admission_cmds _ c _)]
      exact hput _ rfl

/-- Settles O11: the branches of `State.takeIn`, one by one. -/
theorem commandAdmitQueuesOrTurnsAway : Obligations.CommandAdmitQueuesOrTurnsAway := by
  unfold Obligations.CommandAdmitQueuesOrTurnsAway
  intro s c q e hc hq hp hs hready hd hb hpeer he
  have hexec : exec (.commandAdmit c.uid) s = .next (s.takeIn c q e) := by
    show execCommandAdmit c.uid s = _
    simp only [execCommandAdmit, hc, hq, hp, hs, hready, hd, hb, hpeer, he, beq_self_eq_true, Bool.not_false, Bool.and_self, if_true]
  have hput (d : Cmd) (hd : d.uid = c.uid) : (s.putCmd d).cmd? c.uid = some d := by
    rw [← hd]
    exact State.putCmd_cmd? s d (by rw [hd, hc]; rfl)
  refine ⟨s.takeIn c q e, hexec, fun st h => ?_, fun h hoff => ?_, fun h hoff hout => ?_, fun h hoff hout hh => ?_,
    fun h hoff hout ha hr hm hl => ?_, fun v hv => State.takeIn_cmd?_other s c q e hv, (State.takeIn_only s c q e).mono (by decide)⟩
  · rw [State.takeIn_turnedAway e h]
    exact ⟨hput _ rfl, State.putCmd_only s _⟩
  · rw [State.takeIn_channelOff e h hoff]
    exact ⟨hput _ rfl, State.putCmd_only s _⟩
  · rw [State.takeIn_slotsOutside e h hoff hout]
    exact ⟨hput _ rfl, State.putCmd_only s _⟩
  · exact State.takeIn_held e h hoff hout hh
  · refine ⟨s.queuedCmd c q e, ?_, rfl, rfl, rfl, rfl, rfl⟩
    rw [State.takeIn_admitted e h hoff hout ha hr hm hl, State.cmd?_congr (State.admission_cmds _ c _)]
    exact hput _ rfl

/-! ### Dispatch of a tile group (R33, R34) -/

/-- The group of a tile as its dispatch to engine `g` leaves it. -/
def State.placedGroup (s : State) (x : Step) (tile g : Nat) : Group :=
  { (s.group? x.uid tile).getD (Group.fresh x.uid tile) with
    engine := g
    slot := if (s.job x.job).landEn && s.slotsInWindow x.job g then s.freeLanding x.job g else none
    live := true
    guarded := x.guardRows.contains (x.rowOf tile)
    placed := true
    balance := (s.job x.job).balance }

theorem State.dispatch_unbound {s : State} {x : Step} (hx : x.frame = none) (tile g : Nat) :
    s.dispatch x tile g = (s.putGroup (s.placedGroup x tile g)).wake g := by
  simp only [State.dispatch, hx]
  rfl

theorem State.wake_entry (s : State) (g f k : Nat) : (s.wake g).entry f k = s.entry f k := by
  unfold State.wake
  dsimp only
  split <;> rfl

theorem State.wake_table (s : State) (g f : Nat) : (s.wake g).table f = s.table f := by
  unfold State.wake
  dsimp only
  split <;> rfl

theorem State.dispatch_bound {s : State} {x : Step} {f : Nat} (hx : x.frame = some f) (tile g : Nat) :
    s.dispatch x tile g = ((s.putGroup (s.placedGroup x tile g)).wake g).putEntry f tile
      (setBits (setBits (s.entry f tile) 63 60 2) 45 42 g) := by
  have h : ((s.putGroup (s.placedGroup x tile g)).wake g).entry f tile = s.entry f tile := State.wake_entry _ _ _ _
  rw [← h]
  simp only [State.dispatch, hx]
  rfl

theorem State.dispatch_groups (s : State) (x : Step) (tile g : Nat) :
    (s.dispatch x tile g).groups = (s.putGroup (s.placedGroup x tile g)).groups := by
  cases hx : x.frame with
  | none => rw [State.dispatch_unbound hx, State.wake_only _ g .groups rfl]
  | some f => rw [State.dispatch_bound hx, State.putEntry_only _ f tile _ .groups rfl, State.wake_only _ g .groups rfl]

/-- The name that the placed group has: its step and its tile. -/
theorem State.placedGroup_name (s : State) (x : Step) (tile g : Nat) :
    (s.placedGroup x tile g).step = x.uid ∧ (s.placedGroup x tile g).tile = tile := by
  unfold State.placedGroup
  cases h : s.group? x.uid tile with
  | none => exact ⟨rfl, rfl⟩
  | some y => simpa using List.find?_some h

theorem State.placedGroup_cancelled {s : State} {x : Step} {tile : Nat} (h : s.undispatched x.uid tile = true) (g : Nat) :
    (s.placedGroup x tile g).cancelled = false := by
  unfold State.undispatched at h
  unfold State.placedGroup
  cases hg : s.group? x.uid tile with
  | none => rfl
  | some y => simp_all

/-- R33: with BALANCE clear a group goes where it was compiled to. -/
theorem State.placeGroup_compiled {s : State} {j cg g : Nat} (h : s.placeGroup j cg = some g) (hb : (s.job j).balance = false) :
    g = cg := by
  simp only [State.placeGroup, hb, Bool.false_eq_true, if_false] at h
  split at h
  · exact (Option.some.inj h).symm
  · cases h

/-- The least loaded of a list of engines is one of them. -/
theorem State.leastLoaded_mem {s : State} {gs : List Nat} {g : Nat} (h : s.leastLoaded gs = some g) : g ∈ gs := by
  have hfold (l : List Nat) (acc : Option (Nat × Nat)) (S : List Nat) (hacc : ∀ p, acc = some p → p.1 ∈ S) (hl : ∀ a ∈ l, a ∈ S) :
      ∀ p, l.foldl (fun (acc : Option (Nat × Nat)) g =>
        let n := s.groupsOn g
        match acc with
        | none => some (g, n)
        | some (g0, n0) => if n < n0 then some (g, n) else some (g0, n0)) acc = some p → p.1 ∈ S := by
    induction l generalizing acc with
    | nil => exact hacc
    | cons a l ih =>
      refine ih _ (fun p hp => ?_) fun b hb => hl b (List.mem_cons_of_mem _ hb)
      dsimp only at hp
      split at hp
      · cases hp
        exact hl a List.mem_cons_self
      · split at hp
        · cases hp
          exact hl a List.mem_cons_self
        · exact hacc p hp
  obtain ⟨p, hp, rfl⟩ := Option.map_eq_some_iff.mp h
  exact hfold gs none gs (fun _ h => by cases h) (fun _ ha => ha) p hp

/-- R33: with BALANCE set a group goes to an engine of the job's that can host it. -/
theorem State.placeGroup_balanced {s : State} {j cg g : Nat} (h : s.placeGroup j cg = some g) (hb : (s.job j).balance = true) :
    g ∈ s.jobEngines j ∧ s.canHost j g = true := by
  simp only [State.placeGroup, hb, if_true, State.firstChoice] at h
  suffices g ∈ (s.jobEngines j).filter (s.canHost j) from List.mem_filter.mp this
  split at h
  · next hmem =>
    cases h
    simpa using hmem
  · exact State.leastLoaded_mem h

/-- Settles O12. -/
theorem tileDispatchPlacesTheGroup : Obligations.TileDispatchPlacesTheGroup := by
  unfold Obligations.TileDispatchPlacesTheGroup
  intro s x tile cg g hmem hx ho hbound htile hun hlow hcg hg
  have hexec : exec (.tileDispatch x.uid tile) s = .next (s.dispatch x tile g).track := by
    show execTileDispatch x.uid tile s = _
    cases hf : x.frame with
    | none =>
      simp only [execTileDispatch, hx, hf, ho, htile, hun, hlow, hcg, hg, Option.bind_some, decide_true, Bool.and_self, Bool.not_true,
        Bool.false_eq_true, if_false]
    | some f =>
      simp only [execTileDispatch, hx, hf, ho, hbound f hf, htile, hun, hlow, hcg, hg, Option.bind_some, decide_true, Bool.and_self,
        Bool.not_true, Bool.false_eq_true, if_false]
  obtain ⟨hstep, htl⟩ := s.placedGroup_name x tile g
  have hgroups : (s.dispatch x tile g).track.groups = (s.putGroup (s.placedGroup x tile g)).groups := s.dispatch_groups x tile g
  have hframe := (State.track_only _).step (by decide) ((State.dispatch_only s x tile g).mono (gs := [.badWords, .engines, .groups, .mem, .softWords]) (by decide))
  refine ⟨_, s.placedGroup x tile g, hexec, ?_, rfl, rfl, rfl, s.placedGroup_cancelled hun g, rfl, State.placeGroup_compiled hg,
    State.placeGroup_balanced hg, fun u k hne => ?_, hframe .cmds rfl, fun hf => ?_, fun f hf => ?_, hframe⟩
  · rw [State.group?_congr hgroups]
    have h := State.putGroup_group? s (s.placedGroup x tile g)
    rwa [hstep, htl] at h
  · rw [State.group?_congr hgroups]
    exact State.putGroup_group?_other s (by rwa [hstep, htl])
  · rw [State.track_only _ .mem rfl, State.dispatch_unbound hf, State.wake_only _ g .mem rfl]
    rfl
  · have hput : (s.dispatch x tile g).track.mem = s.mem.writeRun 0 (s.table f + 64 + 8 * tile)
        (leBytes 8 (setBits (setBits (s.entry f tile) 63 60 2) 45 42 g)) := by
      rw [State.track_only _ .mem rfl, State.dispatch_bound hf]
      show Memory.writeRun 0 ((s.putGroup _).wake g).mem (((s.putGroup _).wake g).table f + 64 + 8 * tile) _ = _
      rw [State.wake_only _ g .mem rfl, State.wake_table]
      rfl
    rw [hput]
    refine ⟨?_, fun a ha => ?_⟩
    · have h := Memory.readRun_writeRun_same (d := 0) (s.table f + 64 + 8 * tile)
        (leBytes 8 (setBits (setBits (s.entry f tile) 63 60 2) 45 42 g)) hmem.1
      rwa [leBytes_length] at h
    · rw [Memory.read_writeRun _ _ _ hmem.1, if_neg (by rw [leBytes_length]; omega)]

end Sys2Proof.Machine
end

section
set_option Elab.async false
namespace Sys2Proof.Machine

/-! ### Registers -/

/-- A reset value of a list fits in a word. -/
def RegDef.fits (d : RegDef) : Bool := d.reset.all fun v => v < 2 ^ 32

theorem Blk.regs_fit (b : Blk) : b.regs.all RegDef.fits = true := by cases b <;> decide +kernel

theorem RegDef.resetOn_lt {d : RegDef} (h : d.fits = true) (v : Variant) : d.resetOn v < 2 ^ 32 := by
  simp only [RegDef.fits, List.all_eq_true, decide_eq_true_eq] at h
  unfold RegDef.resetOn
  split
  · next x hx => exact h x (by rw [hx]; exact List.mem_singleton.mpr rfl)
  · rw [List.getD_eq_getElem?_getD]
    cases hk : d.reset[Config.index v]? with
    | none => exact Nat.two_pow_pos 32
    | some x => exact h x (List.mem_of_getElem? hk)

theorem State.reg_lt (s : State) (b : Blk) (i off : Nat) : s.reg b i off < 2 ^ 32 := by
  unfold State.reg State.resetValue
  split
  · exact BitVec.isLt _
  · split
    · exact BitVec.isLt _
    · split
      · next d hd =>
        exact RegDef.resetOn_lt (List.all_eq_true.mp b.regs_fit d (List.mem_of_find?_eq_some hd)) _
      · exact Nat.two_pow_pos 32

theorem State.reg_bump (s : State) (b : Blk) (i off n : Nat) :
    (s.bump b i off n).reg b i off = min (s.reg b i off + n) (2 ^ 32 - 1) := by
  rw [State.bump, State.reg_setReg, satAdd]
  exact Nat.mod_eq_of_lt (by omega)

theorem State.reg_bumpMax (s : State) (b : Blk) (i off v : Nat) {top : Nat} (h : top < 2 ^ 32) :
    (s.bumpMax b i off v top).reg b i off = max (s.reg b i off) (min v top) := by
  have hr := s.reg_lt b i off
  rw [State.bumpMax, State.reg_setReg]
  exact Nat.mod_eq_of_lt (by omega)

theorem State.find?_bumpMax_other (s : State) (b : Blk) (i off v top : Nat) {k : Nat} (h : k ≠ b.base i + off) :
    (s.bumpMax b i off v top).regs.find? k = s.regs.find? k := State.find?_setReg_other _ _ _ _ _ _ h

theorem State.find?_bump_other (s : State) (b : Blk) (i off n : Nat) {k : Nat} (h : k ≠ b.base i + off) :
    (s.bump b i off n).regs.find? k = s.regs.find? k := State.find?_setReg_other _ _ _ _ _ _ h

/-! ### Pre-emption (R40) -/

/-- A rewind marks slots and counts; it touches no accumulator row. -/
theorem State.rewind_acc (s : State) (g keep h : Nat) : ((s.rewind g keep).engine h).acc = (s.engine h).acc := by
  have hfold (l : List CtxSlot) (t : State) :
      (l.foldl (fun (u : State) k => u.pulse .ne g 0x14 1 (some k.job)) t).engines = t.engines :=
    (Only.foldl (gs := [.msix, .pages, .hostMem, .ctrs]) (fun y a hy => (State.pulse_only y _ _ _ _ _).step (by decide) hy)
      (Only.refl _ t)) .engines rfl
  by_cases hh : h = g
  · subst hh
    simp only [State.rewind, State.putEngine_engine]
  · simp only [State.rewind, State.putEngine_engine_other _ _ hh]
    rw [State.engine_congr (hfold _ s)]

/-- The engine once it has turned to the context of slot `k`. -/
def State.turnTo (s : State) (g k : Nat) : State :=
  s.putEngine g { s.engine g with running := some k, planeOf := none, ousted := false, exempt := true }

theorem State.turnTo_acc (s : State) (g k h : Nat) : ((s.turnTo g k).engine h).acc = (s.engine h).acc := by
  by_cases hh : h = g
  · subst hh
    rw [State.turnTo, State.putEngine_engine]
  · rw [State.turnTo, State.putEngine_engine_other _ _ hh]

/-- A pre-emption up to its delay: the counts of R451 and the turn. -/
def State.preemptTurn (s : State) (g : Nat) (k : CtxSlot) : State :=
  (((s.rewind g k.slot).pulse .sched 0 0x11 1 (some k.job)).pulse .ne g 0x11 1 (some k.job)).turnTo g k.slot

theorem State.preemptTurn_only (s : State) (g : Nat) (k : CtxSlot) :
    Only [.ctrs, .engines, .hostMem, .msix, .pages] s (s.preemptTurn g k) := by
  have h := (State.rewind_only s g k.slot).mono (gs := [.ctrs, .engines, .hostMem, .msix, .pages]) (by decide)
  have h := (State.pulse_only _ .sched 0 0x11 1 (some k.job)).step (by decide) h
  have h := (State.pulse_only _ .ne g 0x11 1 (some k.job)).step (by decide) h
  exact (State.putEngine_only _ g _).step (by decide) h

theorem State.preemptTurn_acc (s : State) (g : Nat) (k : CtxSlot) (h : Nat) :
    ((s.preemptTurn g k).engine h).acc = (s.engine h).acc := by
  rw [State.preemptTurn, State.turnTo_acc, State.engine_congr (State.pulse_only _ _ _ _ _ _ .engines rfl),
    State.engine_congr (State.pulse_only _ _ _ _ _ _ .engines rfl), State.rewind_acc]

/-- What a delay leaves in PREEMPT_MAX, and above 20 µs in the interrupt and the error of the scheduler (R50). -/
def State.noteDelay (s : State) (g ticks : Nat) : State :=
  if 2000 < ticks then ((s.bumpMax .sched 0 0x06C ticks 0xFFFF).irq .sched 0 0b10000).err .sched 0 2 g 0
  else s.bumpMax .sched 0 0x06C ticks 0xFFFF

theorem State.noteDelay_regs (s : State) (g ticks : Nat) :
    (s.noteDelay g ticks).regs = (s.bumpMax .sched 0 0x06C ticks 0xFFFF).regs := by
  unfold State.noteDelay
  split
  · exact (State.irq_only _ .sched 0 0b10000) .regs rfl
  · rfl

theorem State.noteDelay_only (s : State) (g ticks : Nat) : Only [.hostMem, .msix, .pages, .regs] s (s.noteDelay g ticks) := by
  have h := (State.bumpMax_only s .sched 0 0x06C ticks 0xFFFF).mono (gs := [.hostMem, .msix, .pages, .regs]) (by decide)
  unfold State.noteDelay
  split
  · exact (State.err_only _ _ _ _ _ _).step (by decide) ((State.irq_only _ _ _ _).step (by decide) h)
  · exact h

theorem State.noteDelay_reg (s : State) (g ticks : Nat) :
    (s.noteDelay g ticks).reg .sched 0 0x06C = max (s.reg .sched 0 0x06C) (min ticks 0xFFFF) := by
  rw [← State.reg_bumpMax s .sched 0 0x06C ticks (by decide)]
  exact State.reg_congr (State.noteDelay_regs s g ticks) (State.noteDelay_only s g ticks .insole rfl)
    (State.noteDelay_only s g ticks .part rfl) _ _ _

/-- A long delay shows in the scheduler's page. -/
theorem State.noteDelay_page (s : State) (g : Nat) {ticks : Nat} (h : 2000 < ticks) :
    ((s.noteDelay g ticks).page .sched 0).raw.getLsbD 4 = true ∧ ((s.noteDelay g ticks).page .sched 0).errValid = true ∧
      ((s.noteDelay g ticks).page .sched 0).errCode = 2 ∧ ((s.noteDelay g ticks).page .sched 0).errInfo = BitVec.ofNat 32 g := by
  rw [State.noteDelay, if_pos h, State.err_page, State.irq_page]
  simp

theorem State.outruns_of_other {e : Engine} {k : Nat} (h : (∃ r, e.running = some r ∧ r ≠ k) ∨ (e.running = none ∧ e.ousted = true)) :
    e.outruns k = true := by
  rcases h with ⟨r, hr, hne⟩ | ⟨hr, ho⟩
  · simpa [Engine.outruns, hr] using hne.symm
  · simpa [Engine.outruns, hr] using ho

theorem State.preempt_eq {s : State} {g : Nat} {k : CtxSlot} (hk : s.chosen g = some k) (ho : (s.engine g).outruns k.slot = true)
    (ticks : Nat) : s.preempt g ticks = (s.preemptTurn g k).noteDelay g ticks := by
  simp only [State.preempt, hk, ho, Bool.not_true, Bool.false_eq_true, if_false]
  rfl

/-- Settles O18: the turn of `State.preemptTurn`, then the delay of `State.noteDelay`. -/
theorem preemptTurnsToTheChosenContext : Obligations.PreemptTurnsToTheChosenContext := by
  unfold Obligations.PreemptTurnsToTheChosenContext
  intro s g ticks k hk ho
  have hturn := s.preemptTurn_only g k
  have hnote := (s.preemptTurn g k).noteDelay_only g ticks
  have heng : ((s.preemptTurn g k).noteDelay g ticks).engines = (s.preemptTurn g k).engines := hnote .engines rfl
  have hg : ((s.preemptTurn g k).noteDelay g ticks).engine g = (s.preemptTurn g k).engine g := State.engine_congr heng g
  refine ⟨(s.preemptTurn g k).noteDelay g ticks, congrArg _ (State.preempt_eq hk (State.outruns_of_other ho) ticks), ?_, ?_, ?_,
    State.noteDelay_page _ g, fun o hne => ?_, fun e m x => ?_, hnote.step (by decide) (hturn.mono (by decide))⟩
  · rw [hg, State.preemptTurn, State.turnTo, State.putEngine_engine]
  · rw [hg, State.preemptTurn, State.turnTo, State.putEngine_engine]
  · rw [State.noteDelay_reg, State.reg_congr (hturn .regs rfl) (hturn .insole rfl) (hturn .part rfl)]
  · rw [State.noteDelay_regs, State.find?_bumpMax_other _ _ _ _ _ _ hne, hturn .regs rfl]
  · refine Engine.row_congr ?_ m x
    rw [State.engine_congr heng, State.preemptTurn_acc]

end Sys2Proof.Machine
end

section
set_option Elab.async false
namespace Sys2Proof.Machine

/-! ### Sparse maps without some keys -/

theorem SMap.find?_dropKeys {α : Type} (m : SMap α) (p : Nat → Bool) (k : Nat) :
    (m.dropKeys p).find? k = if p k then none else m.find? k := by
  induction m with
  | nil => simp [SMap.dropKeys, SMap.find?]
  | cons e m ih =>
    simp only [SMap.dropKeys] at ih
    by_cases he : p e.1 = true
    · simp only [SMap.dropKeys, List.filter_cons, he, Bool.not_true, Bool.false_eq_true, if_false, ih, SMap.find?]
      by_cases hk : e.1 = k
      · simp [← hk, he]
      · simp [hk]
    · simp only [SMap.dropKeys, List.filter_cons, he, Bool.not_false, if_true, SMap.find?, ih]
      by_cases hk : e.1 = k
      · simp [← hk, he]
      · simp [hk]

theorem State.reg_setReg_other (s : State) {b c : Blk} {i j o p : Nat} (v : Nat) (h : c.base j + p ≠ b.base i + o) :
    (s.setReg b i o v).reg c j p = s.reg c j p := by
  unfold State.reg
  rw [State.find?_setReg_other s b i o v _ h]
  rfl

/-! ### A context that leaves its slot (R39) -/

/-- A command takes a pending-store entry: it keeps its place and its packet, and holds the entry from then on. -/
theorem State.hold_cmd? {s : State} {v : Nat} {d : Cmd} (h : s.cmd? v = some d) (u : Nat) :
    ∃ d', (s.hold u).cmd? v = some d' ∧ d'.place = d.place ∧ d'.pkt = d.pkt ∧ (d.heldEntry = true ∨ u = v → d'.heldEntry = true) := by
  have hd : d.uid = v := by simpa using List.find?_some h
  unfold State.hold
  split
  · next c hc =>
    have hcu : c.uid = u := by simpa using List.find?_some hc
    by_cases huv : u = v
    · subst huv
      obtain rfl : c = d := Option.some.inj (hc.symm.trans h)
      split
      · next hh => exact ⟨c, h, rfl, rfl, fun _ => hh⟩
      · have hput := State.putCmd_cmd? s { c with heldEntry := true, store := s.freeStore } (by rw [hd, h]; rfl)
        exact ⟨{ c with heldEntry := true, store := s.freeStore }, (congrArg _ hd.symm).trans hput, rfl, rfl, fun _ => rfl⟩
    · refine ⟨d, ?_, rfl, rfl, fun ho => ho.resolve_right huv⟩
      split
      · exact h
      · exact (State.putCmd_cmd?_other s { c with heldEntry := true, store := s.freeStore } v (show v ≠ c.uid by omega)).trans h
  · next hc =>
    refine ⟨d, h, rfl, rfl, fun ho => ho.elim id fun huv => ?_⟩
    rw [huv, h] at hc
    cases hc

/-- The same for a list of commands, which then all hold an entry. -/
theorem State.holdAll_cmd? (l : List Cmd) {s : State} {v : Nat} {d : Cmd} (h : s.cmd? v = some d) :
    ∃ d', (l.foldl (fun (t : State) c => t.hold c.uid) s).cmd? v = some d' ∧ d'.place = d.place ∧ d'.pkt = d.pkt ∧
      (d.heldEntry = true ∨ (∃ c ∈ l, c.uid = v) → d'.heldEntry = true) := by
  induction l generalizing s d with
  | nil => exact ⟨d, h, rfl, rfl, fun ho => ho.elim id fun ⟨c, hc, _⟩ => (List.not_mem_nil hc).elim⟩
  | cons a l ih =>
    obtain ⟨d1, h1, hp1, hk1, hh1⟩ := State.hold_cmd? h a.uid
    obtain ⟨d2, h2, hp2, hk2, hh2⟩ := ih h1
    refine ⟨d2, h2, hp2.trans hp1, hk2.trans hk1, fun ho => hh2 ?_⟩
    rcases ho with ho | ⟨c, hc, hcv⟩
    · exact .inl (hh1 (.inl ho))
    · rcases List.mem_cons.mp hc with rfl | hc
      · exact .inl (hh1 (.inr hcv))
      · exact .inr ⟨c, hc, hcv⟩

/-- The state in which the commands of a context hold their entries again and its save area is written. -/
def State.savedOut (s : State) (g : Nat) (k : CtxSlot) : State :=
  let s0 := (s.inQueue (.context g k.job)).foldl (fun (t : State) c => t.hold c.uid) s
  match s.saveArea g k.job with
  | some a => s0.saveContext g a k
  | none => s0

/-- A command of the context that leaves waits in the pending store. -/
def Cmd.sentBack (q : Queue) (c : Cmd) : Cmd := if c.place == .queued q then { c with place := .pending, turn := 0 } else c

theorem State.holdAll_only (l : List Cmd) (s : State) : Only [.cmds] s (l.foldl (fun (t : State) c => t.hold c.uid) s) :=
  Only.foldl (fun y c hy => (State.hold_only y c.uid).step (by decide) hy) (Only.refl _ s)

theorem State.savedOut_cmds (s : State) (g : Nat) (k : CtxSlot) :
    (s.savedOut g k).cmds = ((s.inQueue (.context g k.job)).foldl (fun (t : State) c => t.hold c.uid) s).cmds := by
  unfold State.savedOut
  dsimp only
  split
  · exact State.saveContext_only _ g _ k .cmds rfl
  · rfl

theorem State.savedOut_engines (s : State) (g : Nat) (k : CtxSlot) : (s.savedOut g k).engines = s.engines := by
  unfold State.savedOut
  dsimp only
  split
  · exact (State.saveContext_only _ g _ k .engines rfl).trans (State.holdAll_only _ s .engines rfl)
  · exact State.holdAll_only _ s .engines rfl

theorem State.swapOut_cmds (s : State) (g : Nat) (k : CtxSlot) :
    (s.swapOut g k).cmds = (s.savedOut g k).cmds.map (Cmd.sentBack (.context g k.job)) := rfl

theorem State.swapOut_engine (s : State) (g : Nat) (k : CtxSlot) :
    ((s.swapOut g k).engine g).slots = (s.engine g).slots.filter (fun x => x.slot != k.slot) ∧
      ((s.swapOut g k).engine g).acc = SMap.dropKeys (s.engine g).acc fun r => r / 512 == k.slot := by
  obtain ⟨e, h, hslots, hacc⟩ : ∃ e, (s.swapOut g k).engine g = ((s.savedOut g k).putEngine g e).engine g ∧
      e.slots = ((s.savedOut g k).engine g).slots.filter (fun x => x.slot != k.slot) ∧
      e.acc = SMap.dropKeys ((s.savedOut g k).engine g).acc fun r => r / 512 == k.slot := ⟨_, rfl, rfl, rfl⟩
  rw [h, State.putEngine_engine, hslots, hacc, State.engine_congr (s.savedOut_engines g k)]
  exact ⟨rfl, rfl⟩

theorem State.swapOut_row (s : State) (g : Nat) (k : CtxSlot) {m x : Nat} (hx : x < 512) (hm : m ≠ k.slot) :
    ((s.swapOut g k).engine g).row m x = (s.engine g).row m x := by
  have hkey : (512 * m + x) / 512 ≠ k.slot := by omega
  unfold Engine.row SMap.get
  rw [(s.swapOut_engine g k).2, SMap.find?_dropKeys, if_neg (by simpa using hkey)]

/-- No command is left in the queue of a context that has left. -/
theorem State.swapOut_not_queued (s : State) (g : Nat) (k : CtxSlot) :
    ∀ c ∈ (s.swapOut g k).cmds, c.place ≠ .queued (.context g k.job) := by
  intro c hc
  rw [State.swapOut_cmds] at hc
  obtain ⟨d, -, rfl⟩ := List.mem_map.mp hc
  unfold Cmd.sentBack
  split
  · simp
  · next h => simpa using h

/-- A command of a context that has left waits, with its entry of the pending store. -/
theorem State.swapOut_pending {s : State} {g : Nat} {k : CtxSlot} {c : Cmd} (hc : s.cmd? c.uid = some c)
    (hq : c.place = .queued (.context g k.job)) :
    ∃ d, (s.swapOut g k).cmd? c.uid = some d ∧ d.place = .pending ∧ d.heldEntry = true ∧ d.pkt = c.pkt := by
  have hin : c ∈ s.inQueue (.context g k.job) :=
    List.mem_filter.mpr ⟨List.mem_of_find?_eq_some hc, by simp [hq]⟩
  obtain ⟨d, hd, hplace, hpkt, hheld⟩ := State.holdAll_cmd? (s.inQueue (.context g k.job)) hc
  refine ⟨Cmd.sentBack (.context g k.job) d, ?_, ?_, ?_, ?_⟩
  · unfold State.cmd?
    rw [State.swapOut_cmds, find?_map_same, State.savedOut_cmds]
    · exact congrArg (Option.map _) hd
    · intro a
      unfold Cmd.sentBack
      split <;> rfl
  all_goals rw [Cmd.sentBack, if_pos (by simp [hplace, hq])]
  · exact hheld (.inr ⟨c, hin, rfl⟩)
  · exact hpkt

/-! ### CTX_SAVE (R110) -/

/-- The state in which CTX_SAVE_CTRL.SLOT has been written. -/
def State.slotWritten (s : State) (g slot : Nat) : State := (s.touch .ne g).setReg .ne g 0x048 slot

theorem State.slotWritten_only (s : State) (g slot : Nat) : Only [.pages, .regs] s (s.slotWritten g slot) :=
  (State.setReg_only _ _ _ _ _).step (by decide) ((State.touch_only s .ne g).mono (by decide))

theorem State.slotWritten_page (s : State) (g slot : Nat) :
    (s.slotWritten g slot).page .ne g = { s.page .ne g with src := 2 } := State.page_putPage s .ne g _

theorem State.slotWritten_neState (s : State) (g slot : Nat) : (s.slotWritten g slot).neState g = s.neState g := by
  have hreg : (s.slotWritten g slot).reg .cdSys (g / 2) 0x040 = s.reg .cdSys (g / 2) 0x040 :=
    State.reg_setReg_other _ _ (by simp only [Blk.base]; omega)
  unfold State.neState
  rw [hreg, State.slotWritten_page]
  rfl

theorem State.slotWritten_reg (s : State) (g : Nat) {slot : Nat} (h : slot < 4) : (s.slotWritten g slot).reg .ne g 0x048 = slot := by
  rw [State.slotWritten, State.reg_setReg]
  omega

theorem State.slotWritten_find? (s : State) (g slot : Nat) {o : Nat} (h : o ≠ Blk.base .ne g + 0x048) :
    (s.slotWritten g slot).regs.find? o = s.regs.find? o := State.find?_setReg_other _ _ _ _ _ _ h

theorem execCtxSave_eq {s : State} {g slot : Nat} (hw : s.hostWrites .ne g = true) (hs : slot < 4) :
    exec (.ctxSave g slot) s = .next ((s.slotWritten g slot).ctxSave g slot).track := by
  show execCtxSave g slot s = _
  rw [execCtxSave, State.host, if_pos hw, Nat.mod_eq_of_lt hs]
  rfl

/-- The context in the slot leaves it in IDLE or DRAINING, if it may. -/
theorem State.ctxSave_leaves {s : State} {g slot : Nat} {k : CtxSlot} (hst : s.neState g = 1 ∨ s.neState g = 3)
    (hk : (s.engine g).slots.find? (fun x => x.slot == slot) = some k) (hm : s.mayLeave g k = true) :
    s.ctxSave g slot = s.swapOut g k := by
  have hb : (s.neState g != 1 && s.neState g != 3) = false := by rcases hst with h | h <;> simp [h]
  unfold State.ctxSave
  rw [hb, if_neg Bool.false_ne_true]
  simp only [hk, hm, if_true]

theorem State.ctxSave_stays {s : State} {g slot : Nat} (h : (s.neState g ≠ 1 ∧ s.neState g ≠ 3) ∨
    (s.engine g).slots.find? (fun x => x.slot == slot) = none ∨
    ∃ k, (s.engine g).slots.find? (fun x => x.slot == slot) = some k ∧ s.mayLeave g k = false) : s.ctxSave g slot = s := by
  unfold State.ctxSave
  split
  · rfl
  · next hn =>
    rcases h with h | h | ⟨k, hk, hm⟩
    · simp [h.1, h.2] at hn
    · simp only [h]
    · simp only [hk, hm, Bool.false_eq_true, if_false]

/-- Settles O22. -/
theorem ctxSaveFreesTheSlot : Obligations.CtxSaveFreesTheSlot := by
  unfold Obligations.CtxSaveFreesTheSlot
  intro s g slot _ hslot hw
  have hexec := execCtxSave_eq hw hslot
  have hwr := s.slotWritten_only g slot
  have hreg (t : State) (ht : t.regs = (s.slotWritten g slot).regs) (hi : t.insole = s.insole) (hp : t.part = s.part) :
      t.reg .ne g 0x048 = slot := by
    rw [State.reg_congr ht (hi.trans (hwr .insole rfl).symm) (hp.trans (hwr .part rfl).symm), State.slotWritten_reg s g hslot]
  refine ⟨fun k hst hk hm => ?_, fun h => ?_⟩
  · have hout : (s.slotWritten g slot).ctxSave g slot = (s.slotWritten g slot).swapOut g k :=
      State.ctxSave_leaves (by rwa [State.slotWritten_neState]) hk hm
    have hkslot : k.slot = slot := by simpa using List.find?_some hk
    have hsw := State.swapOut_only (s.slotWritten g slot) g k
    have hframe : Only [.badWords, .cmds, .ctrs, .engines, .freeCount, .hostMem, .mem, .msix, .pages, .regs, .softWords] s
        ((s.slotWritten g slot).swapOut g k).track :=
      (State.track_only _).step (by decide) (hsw.step (by decide) (hwr.mono (by decide)))
    have hregs : ((s.slotWritten g slot).swapOut g k).track.regs = (s.slotWritten g slot).regs := hsw .regs rfl
    rw [hexec, hout]
    refine ⟨_, rfl, fun x hx => ?_, hreg _ hregs (hframe .insole rfl) (hframe .part rfl), fun o ho => ?_,
      State.swapOut_not_queued _ g k, fun c hc hq => State.swapOut_pending hc hq, fun m x hx hm => ?_, hframe⟩
    · have hmem : (x.slot, x.job) ∈ (((s.slotWritten g slot).swapOut g k).engine g).slots.map fun y => (y.slot, y.job) := by
        rw [← State.track_slot]
        exact List.mem_map.mpr ⟨x, hx, rfl⟩
      obtain ⟨y, hy, hyx⟩ := List.mem_map.mp hmem
      rw [(State.swapOut_engine _ g k).1] at hy
      have hne : y.slot ≠ k.slot := by simpa using (List.mem_filter.mp hy).2
      rw [← (Prod.mk.inj hyx).1, ← hkslot]
      exact hne
    · rw [hregs, State.slotWritten_find? s g slot ho]
    · rw [State.track_row, State.swapOut_row _ g k hx (by rw [hkslot]; exact hm)]
      rfl
  · have hstay : (s.slotWritten g slot).ctxSave g slot = s.slotWritten g slot :=
      State.ctxSave_stays (by rwa [State.slotWritten_neState])
    rw [hexec, hstay]
    exact ⟨_, rfl, hreg _ rfl rfl rfl, fun o ho => State.slotWritten_find? s g slot ho,
      (State.track_only _).step (by decide) (hwr.mono (by decide))⟩

end Sys2Proof.Machine
end

section
set_option Elab.async false
namespace Sys2Proof.Machine

/-! ### The guard of a row (R45, R206) -/

/-- What the guard of row `r` of a step does to a command: one that waits, outside the ME, in the rows that go together, or outside a
tile at the step's first guard, runs as class DISPLAY. -/
def Cmd.lifted (x : Step) (r : Nat) (c : Cmd) : Cmd :=
  if c.step == some x.uid && c.unstarted && c.unit != some OpUnit.me &&
      ((c.tile != 0xFFFF && c.tile < x.tileCount && (x.rowsWith r).contains (x.rowOf c.tile)) || (x.guardRows.isEmpty && c.tile == 0xFFFF)) then
    { c with cls := 0 }
  else c

/-- What it does to a tile group. -/
def Group.guardedBy (x : Step) (r : Nat) (g : Group) : Group :=
  if g.step == x.uid && (x.rowsWith r).contains (x.rowOf g.tile) then { g with guarded := true } else g

theorem Cmd.lifted_fields (x : Step) (r : Nat) (c : Cmd) : c.lifted x r = { c with cls := (c.lifted x r).cls } := by
  unfold Cmd.lifted
  split <;> rfl

@[simp] theorem Cmd.lifted_uid (x : Step) (r : Nat) (c : Cmd) : (c.lifted x r).uid = c.uid := by rw [Cmd.lifted_fields]
@[simp] theorem Cmd.lifted_step (x : Step) (r : Nat) (c : Cmd) : (c.lifted x r).step = c.step := by rw [Cmd.lifted_fields]
@[simp] theorem Cmd.lifted_place (x : Step) (r : Nat) (c : Cmd) : (c.lifted x r).place = c.place := by rw [Cmd.lifted_fields]
@[simp] theorem Cmd.lifted_pkt (x : Step) (r : Nat) (c : Cmd) : (c.lifted x r).pkt = c.pkt := by rw [Cmd.lifted_fields]

/-- The unit, the tile and whether it waits come from the packet and the place of a command. -/
theorem Cmd.unstarted_congr {c d : Cmd} (h : d.place = c.place) : d.unstarted = c.unstarted := by rw [Cmd.unstarted, h]; rfl

theorem Cmd.unit_congr {c d : Cmd} (h : d.pkt = c.pkt) : d.unit = c.unit := by rw [Cmd.unit, Cmd.opcode, h]; rfl

theorem Cmd.tile_congr {c d : Cmd} (h : d.pkt = c.pkt) : d.tile = c.tile := by
  have hop : d.opcode = c.opcode := by rw [Cmd.opcode, h]; rfl
  rw [Cmd.tile, Cmd.commonWait, Cmd.unit_congr h, hop, Cmd.num, h]
  rfl

theorem Cmd.lifted_unstarted (x : Step) (r : Nat) (c : Cmd) : (c.lifted x r).unstarted = c.unstarted :=
  Cmd.unstarted_congr (Cmd.lifted_place x r c)

theorem Cmd.lifted_unit (x : Step) (r : Nat) (c : Cmd) : (c.lifted x r).unit = c.unit := Cmd.unit_congr (Cmd.lifted_pkt x r c)

theorem Cmd.lifted_tile (x : Step) (r : Nat) (c : Cmd) : (c.lifted x r).tile = c.tile := Cmd.tile_congr (Cmd.lifted_pkt x r c)

theorem Cmd.lifted_cls {x : Step} {r : Nat} {c : Cmd} (hstep : c.step = some x.uid) (hun : c.unstarted = true) (hme : c.unit ≠ some .me)
    (h : (c.tile ≠ 0xFFFF ∧ c.tile < x.tileCount ∧ x.rowOf c.tile ∈ x.rowsWith r) ∨ (x.guardRows = [] ∧ c.tile = 0xFFFF)) :
    (c.lifted x r).cls = 0 := by
  rw [Cmd.lifted, if_pos]
  rcases h with ⟨h1, h2, h3⟩ | ⟨h1, h2⟩
  · simp [hstep, hun, hme, h1, h2, h3]
  · simp [hstep, hun, hme, h1, h2]

theorem Cmd.lifted_other {x : Step} {r : Nat} {c : Cmd} (h : c.unit = some .me ∨ c.step ≠ some x.uid) : c.lifted x r = c := by
  rw [Cmd.lifted, if_neg]
  rcases h with h | h <;> simp [h]

/-- The state in which a guard has marked its step, the commands and the groups. -/
def State.guardMarks (s : State) (x : Step) (r : Nat) : State :=
  let s1 := s.putStep { x with guardRows := x.guardRows ++ x.rowsWith r }
  { s1 with cmds := s.cmds.map (Cmd.lifted x r), groups := s.groups.map (Group.guardedBy x r) }

theorem State.fireGuard_eq (s : State) (x : Step) (r : Nat) :
    s.fireGuard x r = (((s.guardMarks x r).bump .sched 0 0x064 1).pulse .sched 0 0x13 1 (some x.job)).irq .sched 0 0b00010 := rfl

theorem State.fireGuard_marks (s : State) (x : Step) (r : Nat) :
    Only [.msix, .pages, .hostMem, .ctrs] ((s.guardMarks x r).bump .sched 0 0x064 1) (s.fireGuard x r) := by
  rw [State.fireGuard_eq]
  exact (State.irq_only _ _ _ _).step (by decide) ((State.pulse_only _ _ _ _ _ _).mono (by decide))

theorem State.fireGuard_cmds (s : State) (x : Step) (r : Nat) : (s.fireGuard x r).cmds = s.cmds.map (Cmd.lifted x r) :=
  s.fireGuard_marks x r .cmds rfl

theorem State.fireGuard_groups (s : State) (x : Step) (r : Nat) : (s.fireGuard x r).groups = s.groups.map (Group.guardedBy x r) :=
  s.fireGuard_marks x r .groups rfl

theorem State.fireGuard_steps (s : State) (x : Step) (r : Nat) :
    (s.fireGuard x r).steps = (s.putStep { x with guardRows := x.guardRows ++ x.rowsWith r }).steps := s.fireGuard_marks x r .steps rfl

theorem State.fireGuard_step? {s : State} {x : Step} (r : Nat) (h : (s.step? x.uid).isSome) :
    (s.fireGuard x r).step? x.uid = some { x with guardRows := x.guardRows ++ x.rowsWith r } := by
  rw [State.step?_congr (s.fireGuard_steps x r)]
  exact State.putStep_step? h

theorem State.fireGuard_regs (s : State) (x : Step) (r : Nat) :
    (s.fireGuard x r).regs = ((s.guardMarks x r).bump .sched 0 0x064 1).regs := s.fireGuard_marks x r .regs rfl

theorem State.fireGuard_reg (s : State) (x : Step) (r : Nat) :
    (s.fireGuard x r).reg .sched 0 0x064 = min (s.reg .sched 0 0x064 + 1) (2 ^ 32 - 1) := by
  have hreg := State.reg_bump (s.guardMarks x r) .sched 0 0x064 1
  rw [State.reg_congr (s.fireGuard_regs x r) (s.fireGuard_marks x r .insole rfl) (s.fireGuard_marks x r .part rfl)]
  exact hreg

theorem State.fireGuard_raw (s : State) (x : Step) (r : Nat) : ((s.fireGuard x r).page .sched 0).raw.getLsbD 1 = true := by
  rw [State.fireGuard_eq, State.irq_page]
  simp

theorem execGuardFire_eq {s : State} {x : Step} {row : Nat} (hx : s.step? x.uid = some x) (hopen : x.opened = true)
    (hclosed : x.closed = false) (hlast : row ≤ x.lastRow) (hguard : row ∉ x.guardRows) (hlate : row ∉ x.lateRows)
    (hun : s.rowUnfinished x row = true) :
    exec (.guardFire x.uid row) s = .next ((s.at (x.rowDeadline row + 2 ^ 64 - s.guardTicks)).fireGuard x row).track := by
  show execGuardFire x.uid row s = _
  unfold execGuardFire
  simp only [hx]
  rw [if_pos (by simp [hopen, hclosed, hlast, hguard, hlate, hun])]

/-- Settles O23: the guard rewrites every command and group by one function each, and the rest is the count and the interrupt. -/
theorem guardFireLiftsTheRow : Obligations.GuardFireLiftsTheRow := by
  unfold Obligations.GuardFireLiftsTheRow
  intro s x row hx hopen hclosed hlast hguard hlate hun
  rw [execGuardFire_eq hx hopen hclosed hlast hguard hlate hun]
  have hnow := s.at_now (x.rowDeadline row + 2 ^ 64 - s.guardTicks)
  obtain ⟨n, hn⟩ := s.at_exists (x.rowDeadline row + 2 ^ 64 - s.guardTicks)
  rw [hn] at hnow ⊢
  have hfire := State.fireGuard_only { s with now := n } x row
  have hsome : (State.step? { s with now := n } x.uid).isSome := by
    rw [show State.step? { s with now := n } x.uid = s.step? x.uid from rfl, hx]
    rfl
  have hlift (d : Cmd) (hd : d ∈ (State.fireGuard { s with now := n } x row).track.cmds) : ∃ c ∈ s.cmds, c.lifted x row = d := by
    simpa [State.track_cmds, State.fireGuard_cmds] using hd
  refine ⟨_, rfl, State.fireGuard_step? row hsome, fun d hd hstep hu hme ht htc hrow => ?_, fun hfirst d hd hstep hu hme ht => ?_,
    fun c hc hcase => ?_, fun g hg hstep hrow => ?_, State.fireGuard_reg _ x row, fun o ho => ?_, State.fireGuard_raw _ x row, ?_, ?_⟩
  · obtain ⟨c, -, rfl⟩ := hlift d hd
    rw [Cmd.lifted_tile] at ht htc hrow
    exact Cmd.lifted_cls (by simpa using hstep) (by rwa [Cmd.lifted_unstarted] at hu) (by rwa [Cmd.lifted_unit] at hme)
      (.inl ⟨ht, htc, hrow⟩)
  · obtain ⟨c, -, rfl⟩ := hlift d hd
    rw [Cmd.lifted_tile] at ht
    exact Cmd.lifted_cls (by simpa using hstep) (by rwa [Cmd.lifted_unstarted] at hu) (by rwa [Cmd.lifted_unit] at hme)
      (.inr ⟨hfirst, ht⟩)
  · rw [State.track_cmds, State.fireGuard_cmds]
    exact List.mem_map.mpr ⟨c, hc, Cmd.lifted_other hcase⟩
  · obtain ⟨g0, -, rfl⟩ := List.mem_map.mp ((State.fireGuard_groups { s with now := n } x row) ▸ (show g ∈ (State.fireGuard _ x row).groups from hg))
    unfold Group.guardedBy at hstep hrow ⊢
    split
    · rfl
    · next hcond =>
      rw [if_neg hcond] at hstep hrow
      exact absurd (by simp [hstep, hrow]) hcond
  · exact (congrArg (fun m => m.find? o) (State.fireGuard_regs _ x row)).trans (State.find?_bump_other _ .sched 0 0x064 1 ho)
  · exact (hfire .now rfl).trans hnow
  · exact (State.track_only _).step (by decide) (hfire.step (by decide) (Only.set_now.mono (by decide)))

end Sys2Proof.Machine
end

section
set_option Elab.async false
namespace Sys2Proof.Machine

/-! ### What interrupts leave of pages and of the message table (R339, R364) -/

/-- From `s` to `t` RAW bits have at most been set, and the message table and its function mask are as they were. -/
structure RaisesOnly (s t : State) : Prop where
  raw : ∀ b i n, (s.page b i).raw.getLsbD n = true → (t.page b i).raw.getLsbD n = true
  table : t.msix.table = s.msix.table
  fmask : t.msix.fmask = s.msix.fmask

namespace RaisesOnly

theorem refl (s : State) : RaisesOnly s s := ⟨fun _ _ _ h => h, rfl, rfl⟩

theorem trans {s t u : State} (h : RaisesOnly s t) (k : RaisesOnly t u) : RaisesOnly s u :=
  ⟨fun b i n hr => k.raw b i n (h.raw b i n hr), k.table.trans h.table, k.fmask.trans h.fmask⟩

/-- An operation that changes no page, nothing of the message table and no Insole record raises nothing. -/
theorem of_only {fs : List StateField} {s t : State} (h : Only fs s t)
    (hd : [StateField.insole, .msix, .pages].all (fun f => !(fieldMask fs).testBit f.idx) = true) : RaisesOnly s t := by
  have hf : ∀ f ∈ [StateField.insole, .msix, .pages], (fieldMask fs).testBit f.idx = false := by
    simpa only [List.all_eq_true, Bool.not_eq_true'] using hd
  have hpages : t.pages = s.pages := h .pages (hf _ (by decide))
  have hinsole : t.insole = s.insole := h .insole (hf _ (by decide))
  have hmsix : t.msix = s.msix := h .msix (hf _ (by decide))
  exact ⟨fun b i n hr => by rwa [State.page_congr hpages hinsole], by rw [hmsix], by rw [hmsix]⟩

theorem foldl {α : Type} {s : State} {g : State → α → State} {l : List α} (hg : ∀ y a, RaisesOnly y (g y a)) :
    RaisesOnly s (l.foldl g s) := by
  induction l generalizing s with
  | nil => exact refl s
  | cons a l ih => exact (hg s a).trans ih

theorem ite {s t u : State} {c : Prop} [Decidable c] (ht : RaisesOnly s t) (hu : RaisesOnly s u) : RaisesOnly s (if c then t else u) := by
  split <;> assumption

end RaisesOnly

theorem State.pageReset_raw (s : State) (b : Blk) (i : Nat) : (s.pageReset b i).raw = 0 := by
  unfold State.pageReset
  dsimp only
  split <;> rfl

/-- A page keeps its RAW bits when a page, perhaps the same, takes a header with more of them. -/
theorem State.putPage_raises (s : State) (b : Blk) (i : Nat) {p : Page}
    (h : ∀ n, (s.page b i).raw.getLsbD n = true → p.raw.getLsbD n = true) : RaisesOnly s (s.putPage b i p) := by
  refine ⟨fun c j n hr => ?_, rfl, rfl⟩
  by_cases hb : c.base j = b.base i
  · have hpage : (s.putPage b i p).page c j = p := by
      unfold State.page State.putPage
      rw [hb, SMap.get_set_same]
    rw [hpage]
    refine h n ?_
    unfold State.page SMap.get at hr ⊢
    rw [hb] at hr
    revert hr
    cases s.pages.find? (b.base i) with
    | none => simp [State.pageReset_raw]
    | some q => exact id
  · rwa [State.page_putPage_other s b c i j p hb]

theorem State.signal_raises (s : State) (v : Nat) : RaisesOnly s (s.signal v) := by
  unfold State.signal
  split
  · exact ⟨fun _ _ _ h => h, rfl, rfl⟩
  · exact ⟨fun _ _ _ h => h, rfl, rfl⟩

theorem State.evalVector_raises (s : State) (v : Nat) : RaisesOnly s (s.evalVector v) := by
  unfold State.evalVector
  dsimp only
  split
  · exact RaisesOnly.refl s
  · refine RaisesOnly.trans (t := { s with msix := { s.msix with level := s.msix.level ^^^ (1 <<< v) } })
      ⟨fun _ _ _ h => h, rfl, rfl⟩ ?_
    split
    · exact State.signal_raises _ v
    · exact RaisesOnly.refl _

theorem State.irq_raises (s : State) (b : Blk) (i : Nat) (m : Word) : RaisesOnly s (s.irq b i m) := by
  unfold State.irq
  exact (s.putPage_raises b i fun n hn => by simp [hn]).trans (State.evalVector_raises _ _)

theorem State.pulse_raises (s : State) (b : Blk) (i event n : Nat) (job : Option Nat) : RaisesOnly s (s.pulse b i event n job) := by
  unfold State.pulse State.saturate
  dsimp only
  refine RaisesOnly.ite (RaisesOnly.refl s) (RaisesOnly.foldl fun y k => ?_)
  have hput (key : Nat) (c : Ctr) : RaisesOnly y (y.putCtr key c) := RaisesOnly.of_only (State.putCtr_only y key c) (by decide)
  refine RaisesOnly.ite (RaisesOnly.refl y) (RaisesOnly.ite ?_ (hput _ _))
  exact (hput _ _).trans (State.irq_raises _ _ _ _)

theorem State.rasterRest_raises (s : State) : RaisesOnly s s.rasterRest := by
  unfold State.rasterRest
  dsimp only
  refine RaisesOnly.ite (RaisesOnly.of_only Only.set_raster (by decide)) ?_
  exact (RaisesOnly.of_only Only.set_raster (by decide)).trans (State.irq_raises _ _ _ _)

/-! ### The fault log and the trace keep to their own registers (R444, R457) -/

/-- An entry of the fault log is either not written, or its writes end with the interrupt of its class. -/
theorem State.logFaultAt_cases (s : State) (time : Nat) (b : Blk) (i cls action addr commands moved us : Nat) :
    s.logFaultAt time b i cls action addr commands moved us = s ∨
      ∃ t, s.logFaultAt time b i cls action addr commands moved us = t.irq .fault 0 (classIrq cls) ∧
        Only [.badWords, .log, .mem, .regs, .softWords] s t ∧ ∀ o < 0xD000, t.regs.find? o = s.regs.find? o := by
  unfold State.logFaultAt
  split
  · exact .inl rfl
  · refine .inr ⟨_, rfl, (State.bumpMax_only _ _ _ _ _ _).step (by decide) ?_, fun o ho => ?_⟩
    · have hput (u : State) (hu : Only [.badWords, .log, .mem, .regs, .softWords] s u) (v w : Nat) :
          Only [.badWords, .log, .mem, .regs, .softWords] s ((u.setReg .fault 0 0x04C v).setReg .fault 0 0x040 w) :=
        (State.setReg_only _ _ _ _ _).step (by decide) ((State.setReg_only _ _ _ _ _).step (by decide) hu)
      have hlog (l : SMap (List Byte)) (bs : List Byte) (a : Nat) (c : Prop) [Decidable c] :
          Only [.badWords, .log, .mem, .regs, .softWords] s { (if c then s else s.devPut a bs) with log := l } :=
        Only.set_log.step (by decide) (Only.ite (Only.refl _ s) ((State.devPut_only s a bs).mono (by decide)))
      split
      · exact (State.bump_only _ _ _ _ _).step (by decide) (hput _ (hlog _ _ _ _) _ _)
      · exact hput _ (hlog _ _ _ _) _ _
    · have hb : Blk.base .fault 0 = 0xD000 := rfl
      refine (State.find?_bumpMax_other _ _ _ _ _ _ (by omega)).trans ?_
      have hput (u : State) (hu : u.regs = s.regs) (v w : Nat) :
          ((u.setReg .fault 0 0x04C v).setReg .fault 0 0x040 w).regs.find? o = s.regs.find? o := by
        rw [State.find?_setReg_other _ _ _ _ _ _ (by omega), State.find?_setReg_other _ _ _ _ _ _ (by omega), hu]
      have hlog (l : SMap (List Byte)) (bs : List Byte) (a : Nat) (c : Prop) [Decidable c] :
          State.regs { (if c then s else s.devPut a bs) with log := l } = s.regs :=
        (Only.set_log.step (gs := [.badWords, .log, .mem, .softWords]) (by decide)
          (Only.ite (Only.refl _ s) ((State.devPut_only s a bs).mono (by decide)))) .regs rfl
      split
      · exact (State.find?_bump_other _ _ _ _ _ (by omega)).trans (hput _ (hlog _ _ _ _) _ _)
      · exact hput _ (hlog _ _ _ _) _ _

theorem State.logFaultAt_raises (s : State) (time : Nat) (b : Blk) (i cls action addr commands moved us : Nat) :
    RaisesOnly s (s.logFaultAt time b i cls action addr commands moved us) := by
  rcases s.logFaultAt_cases time b i cls action addr commands moved us with h | ⟨t, h, ht, -⟩
  · rw [h]
    exact RaisesOnly.refl s
  · rw [h]
    exact (RaisesOnly.of_only ht (by decide)).trans (State.irq_raises _ _ _ _)

theorem State.logFaultAt_regs (s : State) (time : Nat) (b : Blk) (i cls action addr commands moved us : Nat) {o : Nat} (ho : o < 0xD000) :
    (s.logFaultAt time b i cls action addr commands moved us).regs.find? o = s.regs.find? o := by
  rcases s.logFaultAt_cases time b i cls action addr commands moved us with h | ⟨t, h, -, ht⟩
  · rw [h]
  · rw [h, show (t.irq .fault 0 (classIrq cls)).regs = t.regs from State.irq_only _ _ _ _ .regs rfl, ht o ho]

theorem State.logNote_raises (s : State) (c : Cmd) : RaisesOnly s (s.logNote c) := by
  unfold State.logNote
  cases c.fault with
  | none => exact RaisesOnly.refl s
  | some n => exact State.logFaultAt_raises _ _ _ _ _ _ _ _ _ _

theorem State.logNote_regs (s : State) (c : Cmd) {o : Nat} (ho : o < 0xD000) : (s.logNote c).regs.find? o = s.regs.find? o := by
  unfold State.logNote
  cases c.fault with
  | none => rfl
  | some n => exact State.logFaultAt_regs _ _ _ _ _ _ _ _ _ _ ho

/-- The trace takes an entry, or none, or counts a lost one with the interrupt. -/
theorem State.trace_cases (s : State) (c : Cmd) (kind status cause : Nat) :
    ∃ t, (s.trace c kind status cause = t ∨ s.trace c kind status cause = t.irq .perf 0x40 0b100) ∧
      Only [.badWords, .mem, .regs, .softWords, .traceAt, .traceFill, .traceGap] s t ∧ ∀ o < 0xD000, t.regs.find? o = s.regs.find? o := by
  have hb : Blk.base .perf 0x40 = 0xE000 := rfl
  unfold State.trace
  dsimp only
  split
  · exact ⟨s, .inl rfl, Only.refl _ s, fun _ _ => rfl⟩
  · split
    · exact ⟨_, .inr rfl, Only.set_traceGap.step (by decide) ((State.bump_only _ _ _ _ _).mono (by decide)),
        fun o ho => State.find?_bump_other _ _ _ _ _ (by omega)⟩
    · exact ⟨_, .inl rfl, Only.set_traceGap_traceFill_traceAt.step (by decide)
        ((State.setReg_only _ _ _ _ _).step (by decide) ((State.devPut_only _ _ _).mono (by decide))),
        fun o ho => State.find?_setReg_other _ _ _ _ _ _ (by omega)⟩

theorem State.trace_raises (s : State) (c : Cmd) (kind status cause : Nat) : RaisesOnly s (s.trace c kind status cause) := by
  obtain ⟨t, h, ht, -⟩ := s.trace_cases c kind status cause
  have hr : RaisesOnly s t := RaisesOnly.of_only ht (by decide)
  rcases h with h | h
  · rwa [h]
  · rw [h]
    exact hr.trans (State.irq_raises _ _ _ _)

theorem State.trace_regs (s : State) (c : Cmd) (kind status cause : Nat) {o : Nat} (ho : o < 0xD000) :
    (s.trace c kind status cause).regs.find? o = s.regs.find? o := by
  obtain ⟨t, h, -, ht⟩ := s.trace_cases c kind status cause
  rcases h with h | h
  · rw [h, ht o ho]
  · rw [h, show (t.irq .perf 0x40 0b100).regs = t.regs from State.irq_only _ _ _ _ .regs rfl, ht o ho]

/-! ### Flags (R44, R286) -/

theorem State.putFlag_flag (s : State) (f : Nat) (e : FlagEntry) : (s.putFlag f e).flag f = e := by
  unfold State.flag State.putFlag
  exact SMap.get_set_same _ _ _ _

theorem State.putFlag_flag_other (s : State) {f k : Nat} (e : FlagEntry) (h : k ≠ f) : (s.putFlag f e).flag k = s.flag k := by
  unfold State.flag State.putFlag
  exact SMap.get_set_other _ _ _ _ _ h

/-- An advance to a poisoned flag is discarded. -/
theorem State.advance_of_poison {s : State} {f : Nat} (job n : Nat) (h : (s.flag f).poison = true) : s.advance job f n = s := if_pos h

theorem State.advance_of_sound {s : State} {f : Nat} (job n : Nat) (h : (s.flag f).poison = false) :
    s.advance job f n = s.putFlag f ⟨(s.flag f).gen + BitVec.ofNat 32 n, true, job, false⟩ := if_neg (by simp [h])

theorem State.advance_flag {s : State} {f : Nat} (job n : Nat) (h : (s.flag f).poison = false) :
    (s.advance job f n).flag f = ⟨(s.flag f).gen + BitVec.ofNat 32 n, true, job, false⟩ := by
  rw [State.advance_of_sound job n h, State.putFlag_flag]

theorem State.advance_flag_other (s : State) (job n : Nat) {f k : Nat} (h : k ≠ f) : (s.advance job f n).flag k = s.flag k := by
  cases hp : (s.flag f).poison with
  | true => rw [State.advance_of_poison job n hp]
  | false => rw [State.advance_of_sound job n hp, State.putFlag_flag_other _ _ h]

theorem State.advance_flag_poisoned (s : State) (job f n : Nat) {k : Nat} (h : (s.flag k).poison = true) :
    (s.advance job f n).flag k = s.flag k := by
  by_cases hk : k = f
  · rw [State.advance_of_poison job n (hk ▸ h)]
  · exact s.advance_flag_other job n hk

theorem State.advanceAll_flag_poisoned (job : Nat) (fs : List (Nat × Nat)) {s : State} {k : Nat} (h : (s.flag k).poison = true) :
    (s.advanceAll job fs).flag k = s.flag k := by
  unfold State.advanceAll
  induction fs generalizing s with
  | nil => rfl
  | cons p fs ih =>
    have hp := s.advance_flag_poisoned job p.1 p.2 h
    exact (ih (by rwa [hp])).trans hp

theorem State.advanceAll_flag_other (job : Nat) {fs : List (Nat × Nat)} {s : State} {k : Nat} (h : k ∉ fs.map (·.1)) :
    (s.advanceAll job fs).flag k = s.flag k := by
  unfold State.advanceAll
  induction fs generalizing s with
  | nil => rfl
  | cons p fs ih =>
    simp only [List.map_cons, List.mem_cons, not_or] at h
    exact (ih h.2).trans (s.advance_flag_other job p.2 h.1)

/-! ### The live commands when a record is produced (R26, R30, R34) -/

/-- From `s` to `t` only commands whose record has been produced have been forgotten. -/
def State.KeepsLive (s t : State) : Prop := ∃ p : Cmd → Bool, (∀ d, d.live = true → p d = true) ∧ t.cmds = s.cmds.filter p

namespace State.KeepsLive

theorem of_cmds {s t : State} (h : t.cmds = s.cmds) : s.KeepsLive t := ⟨fun _ => true, fun _ _ => rfl, by simp [h]⟩

theorem trans {s t u : State} (h : s.KeepsLive t) (k : t.KeepsLive u) : s.KeepsLive u := by
  obtain ⟨p, hp, ht⟩ := h
  obtain ⟨q, hq, hu⟩ := k
  exact ⟨fun d => q d && p d, fun d hd => by simp [hp d hd, hq d hd], by rw [hu, ht, List.filter_filter]⟩

theorem mem {s t : State} (h : s.KeepsLive t) {d : Cmd} (hd : d ∈ s.cmds) (hl : d.live = true) : d ∈ t.cmds := by
  obtain ⟨p, hp, ht⟩ := h
  rw [ht]
  exact List.mem_filter.mpr ⟨hd, hp d hl⟩

theorem of_mem {s t : State} (h : s.KeepsLive t) {d : Cmd} (hd : d ∈ t.cmds) : d ∈ s.cmds := by
  obtain ⟨p, -, ht⟩ := h
  rw [ht] at hd
  exact (List.mem_filter.mp hd).1

/-- A live command is found as before. -/
theorem cmd? {s t : State} (h : s.KeepsLive t) {u : Nat} {d : Cmd} (hd : s.cmd? u = some d) (hl : d.live = true) : t.cmd? u = some d := by
  obtain ⟨p, hp, ht⟩ := h
  unfold State.cmd? at hd ⊢
  rw [ht, List.find?_filter]
  obtain ⟨hu, as, bs, hsplit, has⟩ := List.find?_eq_some_iff_append.mp hd
  refine List.find?_eq_some_iff_append.mpr ⟨by simp [hp d hl, hu], as, bs, hsplit, fun a ha => ?_⟩
  have := has a ha
  simp at this
  simp [this]

theorem foldl {α : Type} {s : State} {g : State → α → State} {l : List α} (hg : ∀ (y : State) a, y.KeepsLive (g y a)) :
    s.KeepsLive (l.foldl g s) := by
  induction l generalizing s with
  | nil => exact of_cmds rfl
  | cons a l ih => exact (hg s a).trans ih

end State.KeepsLive

theorem State.endGroup_keepsLive (s : State) (x : Step) (tile : Nat) : s.KeepsLive (s.endGroup x tile) := by
  unfold State.endGroup
  split
  · exact .of_cmds rfl
  · split
    · exact .of_cmds rfl
    · exact ⟨_, fun d hd => by simp [hd], rfl⟩

theorem State.reviewGroup_keepsLive (s : State) (x : Step) (tile : Nat) : s.KeepsLive (s.reviewGroup x tile) := by
  unfold State.reviewGroup
  split
  · exact .of_cmds rfl
  · exact (State.KeepsLive.of_cmds (State.settleTile_only s x _ .cmds rfl)).trans (State.endGroup_keepsLive _ x tile)

theorem State.reviewStep_keepsLive (s : State) (step : Nat) : s.KeepsLive (s.reviewStep step) := by
  unfold State.reviewStep
  split
  · exact .of_cmds rfl
  · exact .foldl fun y g => y.reviewGroup_keepsLive _ g.tile

theorem State.settleGroup_keepsLive (s : State) (c : Cmd) (st : Status) : s.KeepsLive (s.settleGroup c st) := by
  unfold State.settleGroup
  split
  · exact (State.KeepsLive.of_cmds rfl).trans (State.reviewGroup_keepsLive _ _ _)
  · exact .of_cmds rfl

theorem State.putCmd_mem_uid {s : State} {c d : Cmd} (hd : d ∈ (s.putCmd c).cmds) (hu : d.uid = c.uid) : d = c := by
  obtain ⟨e, -, rfl⟩ := List.mem_map.mp hd
  by_cases he : (e.uid == c.uid) = true
  · rw [if_pos he]
  · rw [if_neg he] at hu
    exact absurd (by simpa using hu) he

theorem State.putCmd_mem_other {s : State} {c d : Cmd} (hd : d ∈ s.cmds) (hu : d.uid ≠ c.uid) : d ∈ (s.putCmd c).cmds :=
  List.mem_map.mpr ⟨d, hd, if_neg (by simpa using hu)⟩

/-- After its record a command is live no more. -/
theorem State.retire_not_live (s : State) (c : Cmd) (st : Status) : ∀ d ∈ (s.retire c st).cmds, d.uid = c.uid → d.live = false := by
  intro d hd hu
  unfold State.retire at hd
  split at hd
  · rw [State.putCmd_mem_uid hd hu]
    rfl
  · simp [hu] at hd

theorem State.retire_mem (s : State) (c : Cmd) (st : Status) {d : Cmd} (hd : d ∈ s.cmds) (hu : d.uid ≠ c.uid) :
    d ∈ (s.retire c st).cmds := by
  unfold State.retire
  split
  · exact State.putCmd_mem_other hd hu
  · exact List.mem_filter.mpr ⟨hd, by simpa using hu⟩

theorem State.retire_cmd?_none {s : State} {c : Cmd} (st : Status) (h : c.step = none) : (s.retire c st).cmd? c.uid = none := by
  have hg : s.groupOf c = none := by
    rw [State.groupOf, h]
    split <;> rfl
  unfold State.retire State.cmd?
  rw [hg]
  simp

end Sys2Proof.Machine
end

section
set_option Elab.async false
namespace Sys2Proof.Machine

/-! ### Rings and messages (R336, R339) -/

theorem State.putRing_ring (s : State) (m : Nat) (r : Ring) : (s.putRing m r).ring m = r := by
  unfold State.ring State.putRing
  exact SMap.get_set_same _ _ _ _

theorem State.putRing_ring_other (s : State) {m k : Nat} (r : Ring) (h : k ≠ m) : (s.putRing m r).ring k = s.ring k := by
  unfold State.ring State.putRing
  exact SMap.get_set_other _ _ _ _ _ h

theorem State.ring_congr {s t : State} (h : t.rings = s.rings) (m : Nat) : t.ring m = s.ring m := by
  unfold State.ring
  rw [h]

/-- No message of a vector reaches the `n` bytes of host memory from `a` on: the vector is masked, or its message goes elsewhere. -/
def State.MessagesMiss (s : State) (a n : Nat) : Prop :=
  ∀ v, s.vectorMasked v = true ∨ (s.msixWord v 0).toNat + 2 ^ 32 * (s.msixWord v 1).toNat + 4 ≤ a ∨
    a + n ≤ (s.msixWord v 0).toNat + 2 ^ 32 * (s.msixWord v 1).toNat

theorem State.msixWord_congr {s t : State} (h : t.msix.table = s.msix.table) (v w : Nat) : t.msixWord v w = s.msixWord v w := by
  unfold State.msixWord
  rw [h]

theorem State.MessagesMiss.congr {s t : State} {a n : Nat} (h : s.MessagesMiss a n) (hr : RaisesOnly s t) (hl : t.link = s.link) :
    t.MessagesMiss a n := by
  intro v
  have hmask : t.vectorMasked v = s.vectorMasked v := by
    unfold State.vectorMasked State.hostOk
    rw [hr.fmask, State.msixWord_congr hr.table, hl]
  rw [hmask, State.msixWord_congr hr.table, State.msixWord_congr hr.table]
  exact h v

theorem State.signal_hostGet {s : State} {a n : Nat} (hok : MemOk s) (h : s.MessagesMiss a n) (v : Nat) :
    (s.signal v).hostGet a n = s.hostGet a n := by
  obtain ⟨-, hhost, -⟩ := hok
  unfold State.signal
  split
  · rfl
  · next hm =>
    refine Memory.readRun_writeRun_other _ _ _ _ hhost ?_
    rw [leBytes_length]
    have := (h v).resolve_left hm
    omega

theorem State.evalVector_hostGet {s : State} {a n : Nat} (hok : MemOk s) (h : s.MessagesMiss a n) (v : Nat) :
    (s.evalVector v).hostGet a n = s.hostGet a n := by
  unfold State.evalVector
  dsimp only
  split
  · rfl
  · split
    · have hset : RaisesOnly s { s with msix := { s.msix with level := s.msix.level ^^^ (1 <<< v) } } := ⟨fun _ _ _ h => h, rfl, rfl⟩
      exact State.signal_hostGet (s := { s with msix := { s.msix with level := s.msix.level ^^^ (1 <<< v) } }) hok (h.congr hset rfl) v
    · rfl

theorem State.irq_hostGet {s : State} {a n : Nat} (hok : MemOk s) (h : s.MessagesMiss a n) (b : Blk) (i : Nat) (m : Word) :
    (s.irq b i m).hostGet a n = s.hostGet a n := by
  have hput : RaisesOnly s (s.putPage b i { s.page b i with raw := (s.page b i).raw ||| m }) :=
    s.putPage_raises b i fun k hk => by simp [hk]
  exact State.evalVector_hostGet (MemOk.of_only (State.putPage_only _ _ _ _) (by decide) hok) (h.congr hput rfl) _

theorem State.rasterRest_hostGet {s : State} {a n : Nat} (hok : MemOk s) (h : s.MessagesMiss a n) :
    s.rasterRest.hostGet a n = s.hostGet a n := by
  have hset (r : Raster) : RaisesOnly s { s with raster := r } := RaisesOnly.of_only Only.set_raster (by decide)
  unfold State.rasterRest
  dsimp only
  split
  · rfl
  · rw [State.irq_hostGet]
    · rfl
    · exact MemOk.of_only Only.set_raster (by decide) hok
    · exact h.congr (hset _) rfl

/-! ### A record goes to its ring (R336) -/

/-- The ring that a record has been written to. -/
def Ring.written (g : Ring) (now : Nat) : Ring :=
  if g.thresh ≤ g.unreported + 1 || g.timerUs == 0 then { g with prod := g.prod + 1, unreported := 0, firstAt := none }
  else { g with prod := g.prod + 1, unreported := g.unreported + 1, firstAt := some (g.firstAt.getD now) }

theorem Ring.written_prod (g : Ring) (now : Nat) : (g.written now).prod = g.prod + 1 := by
  unfold Ring.written
  split <;> rfl

theorem State.writeRec_eq (s : State) (r : Rec) :
    s.writeRec r =
      let t := (s.hostPut ((s.ring r.ring).base + (s.ring r.ring).prod.toNat % 2 ^ (s.ring r.ring).log2 * 16)
        (r.bytes (!(s.ring r.ring).prod.toNat.testBit (s.ring r.ring).log2))).putRing r.ring ((s.ring r.ring).written s.now)
      if (s.ring r.ring).thresh ≤ (s.ring r.ring).unreported + 1 || (s.ring r.ring).timerUs == 0 then t.signal (2 + r.ring) else t := by
  unfold State.writeRec Ring.written
  dsimp only
  split <;> rfl

theorem State.writeRec_raises (s : State) (r : Rec) : RaisesOnly s (s.writeRec r) := by
  rw [State.writeRec_eq]
  refine RaisesOnly.ite (RaisesOnly.trans ?_ (State.signal_raises _ _)) ?_
  all_goals exact RaisesOnly.of_only ((State.putRing_only _ _ _).step (gs := [.hostMem, .rings]) (by decide)
    ((State.hostPut_only _ _ _).mono (by decide))) (by decide)

theorem State.writeRec_ring (s : State) (r : Rec) : (s.writeRec r).ring r.ring = (s.ring r.ring).written s.now := by
  rw [State.writeRec_eq]
  dsimp only
  split
  · rw [State.ring_congr (State.signal_only _ _ .rings rfl), State.putRing_ring]
  · rw [State.putRing_ring]

theorem State.writeRec_ring_other (s : State) (r : Rec) {m : Nat} (h : m ≠ r.ring) : (s.writeRec r).ring m = s.ring m := by
  rw [State.writeRec_eq]
  dsimp only
  split
  · rw [State.ring_congr (State.signal_only _ _ .rings rfl), State.putRing_ring_other _ _ h]
    rfl
  · rw [State.putRing_ring_other _ _ h]
    rfl

theorem Rec.bytes_length (r : Rec) (p : Bool) : (r.bytes p).length = 16 := by simp [Rec.bytes]

/-- The record's bytes lie in its ring, unless a message falls on them. -/
theorem State.writeRec_hostGet {s : State} (hok : MemOk s) (r : Rec) {a : Nat}
    (ha : a = (s.ring r.ring).base + (s.ring r.ring).prod.toNat % 2 ^ (s.ring r.ring).log2 * 16) (h : s.MessagesMiss a 16) :
    (s.writeRec r).hostGet a 16 = r.bytes (!(s.ring r.ring).prod.toNat.testBit (s.ring r.ring).log2) := by
  have hput (g : Ring) : ((s.hostPut a (r.bytes (!(s.ring r.ring).prod.toNat.testBit (s.ring r.ring).log2))).putRing r.ring g).hostGet a 16 =
      r.bytes (!(s.ring r.ring).prod.toNat.testBit (s.ring r.ring).log2) := by
    obtain ⟨-, hhost, -⟩ := hok
    have := Memory.readRun_writeRun_same a (r.bytes (!(s.ring r.ring).prod.toNat.testBit (s.ring r.ring).log2)) hhost
    rwa [Rec.bytes_length] at this
  rw [State.writeRec_eq, ← ha]
  dsimp only
  split
  · rw [State.signal_hostGet, hput]
    · exact MemOk.of_only (State.putRing_only _ _ _) (by decide) (State.hostPut_memOk _ _ _ hok)
    · exact h.congr (RaisesOnly.of_only ((State.putRing_only _ _ _).step (gs := [.hostMem, .rings]) (by decide)
        ((State.hostPut_only _ _ _).mono (by decide))) (by decide)) rfl
  · exact hput _

theorem erase_append_singleton {l : List Rec} {x : Rec} (h : ∀ y ∈ l, y ≠ x) : (l ++ [x]).erase x = l := by
  rw [List.erase_append_right _ fun hx => h x hx rfl]
  simp

/-- With no record of its ring before it, a record that is delivered is the one that is written next. -/
theorem State.takeRec_of_none {s : State} {r : Rec} (h : ∀ x ∈ s.backlog ++ s.waiting, x.ring ≠ r.ring) :
    State.takeRec { s with waiting := s.waiting ++ [r] } r.ring = some (s, r) := by
  have hback : (s.backlog.find? fun x => x.ring == r.ring) = none :=
    List.find?_eq_none.mpr fun x hx => by simpa using h x (List.mem_append_left _ hx)
  have hwait : ((s.waiting ++ [r]).find? fun x => x.ring == r.ring) = some r := by
    rw [List.find?_append, List.find?_eq_none.mpr fun x hx => by simpa using h x (List.mem_append_right _ hx)]
    simp
  have herase : (s.waiting ++ [r]).erase r = s.waiting :=
    erase_append_singleton fun y hy => fun he => h y (List.mem_append_right _ hy) (by rw [he])
  unfold State.takeRec
  simp only [hback, hwait, herase]

theorem State.takeRec_none {s : State} {m : Nat} (h : ∀ x ∈ s.backlog ++ s.waiting, x.ring ≠ m) : s.takeRec m = none := by
  have hback : (s.backlog.find? fun x => x.ring == m) = none :=
    List.find?_eq_none.mpr fun x hx => by simpa using h x (List.mem_append_left _ hx)
  have hwait : (s.waiting.find? fun x => x.ring == m) = none :=
    List.find?_eq_none.mpr fun x hx => by simpa using h x (List.mem_append_right _ hx)
  unfold State.takeRec
  simp only [hback, hwait]

theorem State.drainRing_of_none {s : State} {m : Nat} (h : s.takeRec m = none) (n : Nat) : State.drainRing m n s = s := by
  cases n with
  | zero => rfl
  | succ n => simp only [State.drainRing, h]

/-- With the link up and room in its ring, and no record of the ring before it, a record is written. -/
theorem State.deliver_writes {s : State} {r : Rec} (hlink : s.link.toBacklog = false) (hhost : s.hostOk = true)
    (hroom : (s.ring r.ring).hasRoom = true) (h : ∀ x ∈ s.backlog ++ s.waiting, x.ring ≠ r.ring) :
    s.deliver r = (s.writeRec r).trackFull r.ring := by
  have hdrain : State.drainRing r.ring ((s.waiting ++ [r]).length + s.backlog.length) { s with waiting := s.waiting ++ [r] } = s.writeRec r := by
    have hlen : (s.waiting ++ [r]).length + s.backlog.length = s.waiting.length + s.backlog.length + 1 := by
      rw [List.length_append, List.length_singleton]
      omega
    have hcond : (State.hostOk { s with waiting := s.waiting ++ [r] } && (State.ring { s with waiting := s.waiting ++ [r] } r.ring).hasRoom) = true := by
      rw [show State.hostOk { s with waiting := s.waiting ++ [r] } = true from hhost]
      exact hroom
    rw [hlen, State.drainRing, State.takeRec_of_none h]
    dsimp only
    rw [if_pos hcond]
    refine State.drainRing_of_none (State.takeRec_none ?_) _
    rwa [show (s.writeRec r).backlog = s.backlog from State.writeRec_only s r .backlog rfl,
      show (s.writeRec r).waiting = s.waiting from State.writeRec_only s r .waiting rfl]
  unfold State.deliver
  rw [hlink, if_neg Bool.false_ne_true]
  show State.trackFull _ _ = _
  rw [show State.drainRing r.ring _ _ = _ from hdrain]

theorem State.trackFull_ring (s : State) (m : Nat) : ((s.trackFull m).ring m).prod = (s.ring m).prod := by
  unfold State.trackFull
  dsimp only
  rw [State.putRing_ring]

theorem State.trackFull_ring_other (s : State) {m k : Nat} (h : k ≠ m) : (s.trackFull m).ring k = s.ring k :=
  State.putRing_ring_other _ _ h

/-- Turned to a backlog that is not configured, the record waits. -/
theorem State.deliver_waits {s : State} (r : Rec) (hlink : s.link.toBacklog = true) (hbase : s.backlogBase = none) :
    s.deliver r = { s with waiting := s.waiting ++ [r] } := by
  unfold State.deliver
  rw [hlink, if_pos rfl, hbase]

end Sys2Proof.Machine
end

section
set_option Elab.async false
namespace Sys2Proof.Machine

/-! ### A command's record is produced (R26, R44) -/

/-- The state in which a command that ends has advanced its flags. -/
def State.flagged (s : State) (c : Cmd) (st : Status) (cause : Nat) : State :=
  (((if c.unit == some .raster then s.rasterRest else s).trace c 3 st.code (cause % 256)).collRefuse c st).advanceAll c.job
    (s.owedFlags c st)

/-- The state in which it has been noted in its step, whose AUX it may extend; `s` is the state before. -/
def State.noted (s t : State) (c : Cmd) (st : Status) : State :=
  let t3 := match t.stepOf c with
    | some x => if c.rejected then t else t.putStep { x.note st with isVariable := x.isVariable || s.isVariable c st }
    | none => t
  match t3.auxStep c with
  | some u => if c.digest && !c.rejected then t3.extendAux u c.uid (sha256 (pktBytes c.pkt))
    else if c.opcode == 0x9001 then t3.settleAux u else t3
  | none => t3

/-- The counters of the unit count the completion. -/
def State.tallied (s t : State) (c : Cmd) : State :=
  if c.rejected then t else match c.unit with
    | some .ne => t.pulse .ne (s.unitBlock c).2 0x13 1 (some c.job)
    | some .ve => t.pulse .ve (s.unitBlock c).2 0x10 1 (some c.job)
    | some .xp => t.pulse .xp (s.unitBlock c).2 0x11 1 (some c.job)
    | _ => t

/-- The state in which its group has been settled, and a failure has tainted the job's adapter. -/
def State.groupSettled (t : State) (c : Cmd) (st : Status) : State :=
  let t5 := if c.rejected then t else t.settleGroup c st
  if st == .ok || c.rejected then t5 else t5.taint c.job

/-- The state in which the completion is counted and logged as well; `s` is the state before. -/
def State.accounted (s t : State) (c : Cmd) (st : Status) : State := (s.tallied (t.groupSettled c st) c).logNote c

/-- The state in which everything of a completion has happened but for the record's delivery. -/
def State.recorded (s : State) (c : Cmd) (st : Status) (cause : Nat) : State :=
  s.accounted (s.noted (((s.flagged c st cause).warped c st).retire c st) c st) c st

/-- The record of a command. -/
def Cmd.record (c : Cmd) (st : Status) (cause now : Nat) : Rec := ⟨c.ring, c.seq, c.apt, c.job, st.code, cause, now, c.entry⟩

/-- What follows the delivery. -/
def State.restFor (s : State) (c : Cmd) : State := (if c.unit == some .raster then s.rasterRest else s).track

theorem State.produce_eq (s : State) (c : Cmd) (st : Status) (cause : Nat) :
    s.produce c st cause = ((s.recorded c st cause).deliver (c.record st cause s.now)).restFor c := rfl

theorem State.noted_only (s t : State) (c : Cmd) (st : Status) : Only [.steps] t (s.noted t c st) := by
  have hput : Only [.steps] t (match t.stepOf c with
      | some x => if c.rejected then t else t.putStep { x.note st with isVariable := x.isVariable || s.isVariable c st }
      | none => t) := by
    split
    · exact Only.ite (Only.refl _ t) (State.putStep_only _ _)
    · exact Only.refl _ t
  unfold State.noted
  dsimp only
  split
  · exact Only.ite ((State.extendAux_only _ _ _ _).step (by decide) hput)
      (Only.ite ((State.settleAux_only _ _).step (by decide) hput) hput)
  · exact hput

theorem State.tallied_cases (s t : State) (c : Cmd) :
    s.tallied t c = t ∨ ∃ b i event, s.tallied t c = t.pulse b i event 1 (some c.job) := by
  unfold State.tallied
  split
  · exact .inl rfl
  · split
    · exact .inr ⟨_, _, _, rfl⟩
    · exact .inr ⟨_, _, _, rfl⟩
    · exact .inr ⟨_, _, _, rfl⟩
    · exact .inl rfl

theorem State.tallied_only (s t : State) (c : Cmd) : Only [.ctrs, .hostMem, .msix, .pages] t (s.tallied t c) := by
  rcases s.tallied_cases t c with h | ⟨b, i, event, h⟩ <;> rw [h]
  · exact Only.refl _ t
  · exact (State.pulse_only _ _ _ _ _ _).mono (by decide)

theorem State.tallied_raises (s t : State) (c : Cmd) : RaisesOnly t (s.tallied t c) := by
  rcases s.tallied_cases t c with h | ⟨b, i, event, h⟩ <;> rw [h]
  · exact RaisesOnly.refl t
  · exact State.pulse_raises _ _ _ _ _ _

theorem State.groupSettled_only (t : State) (c : Cmd) (st : Status) : Only [.badWords, .cmds, .groups, .mem, .softWords] t (t.groupSettled c st) := by
  have hgroup : Only [.badWords, .cmds, .groups, .mem, .softWords] t (if c.rejected then t else t.settleGroup c st) :=
    Only.ite (Only.refl _ t) ((State.settleGroup_only _ _ _).mono (by decide))
  exact Only.ite hgroup ((State.taint_only _ _).step (by decide) hgroup)

theorem State.groupSettled_keepsLive (t : State) (c : Cmd) (st : Status) : t.KeepsLive (t.groupSettled c st) := by
  have hgroup : t.KeepsLive (if c.rejected then t else t.settleGroup c st) := by
    split
    · exact .of_cmds rfl
    · exact State.settleGroup_keepsLive t c st
  unfold State.groupSettled
  dsimp only
  split
  · exact hgroup
  · exact hgroup.trans (.of_cmds (State.taint_only _ _ .cmds rfl))

theorem State.accounted_only (s t : State) (c : Cmd) (st : Status) :
    Only [.badWords, .cmds, .ctrs, .groups, .hostMem, .log, .mem, .msix, .pages, .regs, .softWords] t (s.accounted t c st) :=
  (State.logNote_only _ _).step (by decide) ((State.tallied_only _ _ _).step (by decide) ((t.groupSettled_only c st).mono (by decide)))

theorem State.accounted_raises (s t : State) (c : Cmd) (st : Status) : RaisesOnly t (s.accounted t c st) :=
  ((RaisesOnly.of_only (t.groupSettled_only c st) (by decide)).trans (State.tallied_raises _ _ _)).trans (State.logNote_raises _ _)

theorem State.accounted_keepsLive (s t : State) (c : Cmd) (st : Status) : t.KeepsLive (s.accounted t c st) :=
  ((t.groupSettled_keepsLive c st).trans (.of_cmds (State.tallied_only s _ c .cmds rfl))).trans (.of_cmds (State.logNote_only _ c .cmds rfl))

theorem State.accounted_regs (s t : State) (c : Cmd) (st : Status) {o : Nat} (ho : o < 0xD000) :
    (s.accounted t c st).regs.find? o = t.regs.find? o := by
  rw [State.accounted, State.logNote_regs _ _ ho, State.tallied_only s _ c .regs rfl, t.groupSettled_only c st .regs rfl]

/-! ### Before the flags advance -/

/-- The state in which a completion has been traced and its collective has heard of it. -/
def State.traced (s : State) (c : Cmd) (st : Status) (cause : Nat) : State :=
  ((if c.unit == some .raster then s.rasterRest else s).trace c 3 st.code (cause % 256)).collRefuse c st

theorem State.rasterStep_only (s : State) (c : Cmd) :
    Only [.hostMem, .msix, .pages, .raster] s (if c.unit == some .raster then s.rasterRest else s) :=
  Only.ite ((State.rasterRest_only s).mono (by decide)) (Only.refl _ s)

theorem State.traced_only (s : State) (c : Cmd) (st : Status) (cause : Nat) :
    Only [.badWords, .colls, .hostMem, .mem, .msix, .pages, .raster, .regs, .softWords, .traceAt, .traceFill, .traceGap] s
      (s.traced c st cause) :=
  (State.collRefuse_only _ _ _).step (by decide) ((State.trace_only _ _ _ _ _).step (by decide) ((s.rasterStep_only c).mono (by decide)))

theorem State.traced_raises (s : State) (c : Cmd) (st : Status) (cause : Nat) : RaisesOnly s (s.traced c st cause) :=
  ((RaisesOnly.ite (State.rasterRest_raises s) (RaisesOnly.refl s)).trans (State.trace_raises _ _ _ _ _)).trans
    (RaisesOnly.of_only (State.collRefuse_only _ _ _) (by decide))

theorem State.traced_regs (s : State) (c : Cmd) (st : Status) (cause : Nat) {o : Nat} (ho : o < 0xD000) :
    (s.traced c st cause).regs.find? o = s.regs.find? o := by
  rw [State.traced, State.collRefuse_only _ c st .regs rfl, State.trace_regs _ _ _ _ _ ho, s.rasterStep_only c .regs rfl]

/-! ### Up to the delivery -/

/-- The state in which the command has been retired. -/
def State.retired (s : State) (c : Cmd) (st : Status) (cause : Nat) : State := ((s.flagged c st cause).warped c st).retire c st

theorem State.retired_only (s : State) (c : Cmd) (st : Status) (cause : Nat) :
    Only [.badWords, .cmds, .colls, .flags, .hostMem, .me, .mem, .msix, .pages, .raster, .regs, .softWords, .traceAt, .traceFill, .traceGap] s
      (s.retired c st cause) :=
  (State.retire_only _ _ _).step (by decide) ((State.warped_only _ _ _).step (by decide)
    ((State.advanceAll_only _ _ _).step (by decide) ((s.traced_only c st cause).mono (by decide))))

theorem State.recorded_eq (s : State) (c : Cmd) (st : Status) (cause : Nat) :
    s.recorded c st cause = s.accounted (s.noted (s.retired c st cause) c st) c st := rfl

theorem State.recorded_only (s : State) (c : Cmd) (st : Status) (cause : Nat) :
    Only [.badWords, .cmds, .colls, .ctrs, .flags, .groups, .hostMem, .log, .me, .mem, .msix, .pages, .raster, .regs, .softWords, .steps,
      .traceAt, .traceFill, .traceGap] s (s.recorded c st cause) :=
  (State.accounted_only _ _ _ _).step (by decide) ((State.noted_only _ _ _ _).step (by decide) ((s.retired_only c st cause).mono (by decide)))

theorem State.recorded_raises (s : State) (c : Cmd) (st : Status) (cause : Nat) : RaisesOnly s (s.recorded c st cause) := by
  have hretired : RaisesOnly (s.traced c st cause) (s.retired c st cause) :=
    RaisesOnly.of_only (fs := [.badWords, .cmds, .flags, .me, .mem, .softWords]) ((State.retire_only _ _ _).step (by decide)
      ((State.warped_only _ _ _).step (by decide) ((State.advanceAll_only _ _ _).mono (by decide)))) (by decide)
  exact (((s.traced_raises c st cause).trans hretired).trans (RaisesOnly.of_only (State.noted_only _ _ _ _) (by decide))).trans
    (State.accounted_raises _ _ _ _)

theorem State.recorded_regs (s : State) (c : Cmd) (st : Status) (cause : Nat) {o : Nat} (ho : o < 0xD000) :
    (s.recorded c st cause).regs.find? o = s.regs.find? o := by
  rw [State.recorded_eq, State.accounted_regs _ _ _ _ ho, State.noted_only _ _ _ _ .regs rfl,
    show (s.retired c st cause).regs = (s.traced c st cause).regs from
      ((State.retire_only _ _ _).step (gs := [.badWords, .cmds, .flags, .me, .mem, .softWords]) (by decide)
        ((State.warped_only _ _ _).step (by decide) ((State.advanceAll_only _ _ _).mono (by decide)))) .regs rfl,
    State.traced_regs _ _ _ _ ho]

theorem State.recorded_flags (s : State) (c : Cmd) (st : Status) (cause : Nat) :
    (s.recorded c st cause).flags = ((s.traced c st cause).advanceAll c.job (s.owedFlags c st)).flags :=
  ((State.accounted_only _ _ _ _).step (gs := [.badWords, .cmds, .ctrs, .groups, .hostMem, .log, .mem, .msix, .pages, .regs, .softWords,
    .steps]) (by decide) ((State.noted_only _ _ _ _).step (by decide) ((State.retire_only _ _ _).step (by decide)
      ((State.warped_only _ _ _).mono (by decide))))) .flags rfl

/-- The commands when a record is produced: its own is retired, and others have at most been forgotten. -/
theorem State.recorded_keepsLive (s : State) (c : Cmd) (st : Status) (cause : Nat) :
    (s.retired c st cause).KeepsLive (s.recorded c st cause) :=
  (State.KeepsLive.of_cmds (State.noted_only s _ c st .cmds rfl)).trans (State.accounted_keepsLive _ _ _ _)

/-! ### What a completion record leaves (R26, R44, R336) -/

theorem State.restFor_only (s : State) (c : Cmd) : Only [.engines, .hostMem, .msix, .pages, .raster] s (s.restFor c) :=
  (State.track_only _).step (by decide) ((s.rasterStep_only c).mono (by decide))

theorem State.restFor_hostGet {s : State} {a n : Nat} (hok : MemOk s) (h : s.MessagesMiss a n) (c : Cmd) :
    (s.restFor c).hostGet a n = s.hostGet a n := by
  have htrack (t : State) : t.track.hostGet a n = t.hostGet a n := rfl
  rw [State.restFor, htrack]
  split
  · exact State.rasterRest_hostGet hok h
  · rfl

/-- What happens after the command is retired changes no flag and forgets no live command. -/
theorem State.produce_cmds (s : State) (c : Cmd) (st : Status) (cause : Nat) : (s.produce c st cause).cmds = (s.recorded c st cause).cmds := by
  rw [State.produce_eq, State.restFor_only _ c .cmds rfl, State.deliver_only _ _ .cmds rfl]

theorem State.produce_flags (s : State) (c : Cmd) (st : Status) (cause : Nat) :
    (s.produce c st cause).flags = ((s.traced c st cause).advanceAll c.job (s.owedFlags c st)).flags := by
  rw [State.produce_eq, State.restFor_only _ c .flags rfl, State.deliver_only _ _ .flags rfl, State.recorded_flags]

theorem State.produce_not_live (s : State) (c : Cmd) (st : Status) (cause : Nat) :
    ∀ d ∈ (s.produce c st cause).cmds, d.uid = c.uid → d.live = false := by
  intro d hd hu
  rw [State.produce_cmds] at hd
  exact State.retire_not_live _ c st d ((s.recorded_keepsLive c st cause).of_mem hd) hu

theorem State.produce_cmd?_none (s : State) {c : Cmd} (st : Status) (cause : Nat) (h : c.step = none) :
    (s.produce c st cause).cmd? c.uid = none := by
  have hret : (s.retired c st cause).cmd? c.uid = none := State.retire_cmd?_none st h
  refine List.find?_eq_none.mpr fun d hd => ?_
  rw [State.produce_cmds] at hd
  exact List.find?_eq_none.mp hret d ((s.recorded_keepsLive c st cause).of_mem hd)

theorem State.produce_mem {s : State} {c d : Cmd} (st : Status) (cause : Nat) (hd : d ∈ s.cmds) (hu : d.uid ≠ c.uid) (hl : d.live = true) :
    d ∈ (s.produce c st cause).cmds := by
  have hflagged : ((s.flagged c st cause).warped c st).cmds = s.cmds :=
    ((State.warped_only _ _ _).step (gs := [.badWords, .colls, .flags, .hostMem, .me, .mem, .msix, .pages, .raster, .regs, .softWords,
      .traceAt, .traceFill, .traceGap]) (by decide) ((State.advanceAll_only _ _ _).step (by decide)
        ((s.traced_only c st cause).mono (by decide)))) .cmds rfl
  rw [State.produce_cmds]
  exact (s.recorded_keepsLive c st cause).mem (State.retire_mem _ c st (by rwa [hflagged]) hu) hl

theorem State.produce_flag_advanced {s : State} {c : Cmd} {st : Status} (cause : Nat) {f n : Nat} (h : s.owedFlags c st = [(f, n)])
    (hp : (s.flag f).poison = false) :
    (s.produce c st cause).flag f = ⟨(s.flag f).gen + BitVec.ofNat 32 n, true, c.job, false⟩ := by
  have htraced : (s.traced c st cause).flag f = s.flag f := State.flag_congr (s.traced_only c st cause .flags rfl) f
  rw [State.flag_congr (s.produce_flags c st cause), h]
  show ((s.traced c st cause).advance c.job f n).flag f = _
  rw [State.advance_flag _ _ (by rwa [htraced]), htraced]

theorem State.produce_flag_poisoned {s : State} (c : Cmd) (st : Status) (cause : Nat) {f : Nat} (hp : (s.flag f).poison = true) :
    (s.produce c st cause).flag f = s.flag f := by
  have htraced : (s.traced c st cause).flag f = s.flag f := State.flag_congr (s.traced_only c st cause .flags rfl) f
  rw [State.flag_congr (s.produce_flags c st cause), State.advanceAll_flag_poisoned _ _ (by rwa [htraced]), htraced]

theorem State.produce_flag_other {s : State} {c : Cmd} {st : Status} (cause : Nat) {f : Nat} (h : f ∉ (s.owedFlags c st).map (·.1)) :
    (s.produce c st cause).flag f = s.flag f := by
  have htraced : (s.traced c st cause).flag f = s.flag f := State.flag_congr (s.traced_only c st cause .flags rfl) f
  rw [State.flag_congr (s.produce_flags c st cause), State.advanceAll_flag_other _ h, htraced]

/-- The backlog's base comes from two registers of HIF and from the size of DRAM. -/
theorem State.backlogBase_congr {s t : State} (hr : ∀ o < 0xD000, t.regs.find? o = s.regs.find? o) (hi : t.insole = s.insole)
    (hp : t.part = s.part) (he : t.protEff = s.protEff) : t.backlogBase = s.backlogBase := by
  have hreg (o : Nat) (ho : o < 0x100) : t.reg .hif 0 o = s.reg .hif 0 o := by
    unfold State.reg State.resetValue State.variant
    rw [hr _ (by simp only [Blk.base]; omega), hi, hp]
  unfold State.backlogBase State.dramBytes State.installedGiB State.variant
  rw [hreg _ (by decide), hreg _ (by decide), he, hp]

theorem State.recorded_backlogBase (s : State) (c : Cmd) (st : Status) (cause : Nat) :
    (s.recorded c st cause).backlogBase = s.backlogBase :=
  State.backlogBase_congr (fun _ ho => s.recorded_regs c st cause ho) (s.recorded_only c st cause .insole rfl)
    (s.recorded_only c st cause .part rfl) (s.recorded_only c st cause .protEff rfl)

theorem State.produce_waits {s : State} (c : Cmd) (st : Status) (cause : Nat) (hlink : s.link.toBacklog = true) (hbase : s.backlogBase = none) :
    (s.produce c st cause).waiting = s.waiting ++ [c.record st cause s.now] := by
  have hrec := s.recorded_only c st cause
  have hl : (s.recorded c st cause).link = s.link := hrec .link rfl
  have hw : (s.recorded c st cause).waiting = s.waiting := hrec .waiting rfl
  rw [State.produce_eq, State.restFor_only _ c .waiting rfl,
    State.deliver_waits _ (by rwa [hl]) (by rwa [State.recorded_backlogBase])]
  exact congrArg (· ++ _) hw

/-- The command's record is written at once: the link is up, its ring has room, and no record waits before it there. -/
structure State.WritesAtOnce (s : State) (c : Cmd) : Prop where
  link : s.link.toBacklog = false
  host : s.hostOk = true
  room : (s.ring c.ring).hasRoom = true
  first : ∀ x ∈ s.backlog ++ s.waiting, x.ring ≠ c.ring

theorem State.produce_written {s : State} {c : Cmd} (st : Status) (cause : Nat) (h : s.WritesAtOnce c) :
    s.produce c st cause =
      (((s.recorded c st cause).writeRec (c.record st cause s.now)).trackFull c.ring).restFor c := by
  have hrec := s.recorded_only c st cause
  have hl : (s.recorded c st cause).link = s.link := hrec .link rfl
  have hring : (s.recorded c st cause).ring c.ring = s.ring c.ring := State.ring_congr (hrec .rings rfl) _
  rw [State.produce_eq, State.deliver_writes (r := c.record st cause s.now) (by rw [hl]; exact h.link)]
  · rfl
  · rw [State.hostOk, hl]
    exact h.host
  · exact (congrArg Ring.hasRoom hring).trans h.room
  · rw [show (s.recorded c st cause).backlog = s.backlog from hrec .backlog rfl,
      show (s.recorded c st cause).waiting = s.waiting from hrec .waiting rfl]
    exact h.first

theorem State.produce_prod {s : State} {c : Cmd} (st : Status) (cause : Nat) (h : s.WritesAtOnce c) :
    ((s.produce c st cause).ring c.ring).prod = (s.ring c.ring).prod + 1 := by
  have hring : (s.recorded c st cause).ring c.ring = s.ring c.ring := State.ring_congr (s.recorded_only c st cause .rings rfl) _
  rw [State.produce_written st cause h, State.ring_congr (State.restFor_only _ c .rings rfl), State.trackFull_ring]
  refine (congrArg Ring.prod (State.writeRec_ring _ (c.record st cause s.now))).trans ?_
  rw [Ring.written_prod]
  exact congrArg (·.prod + 1) hring

theorem State.produce_ring_other {s : State} {c : Cmd} (st : Status) (cause : Nat) (h : s.WritesAtOnce c) {m : Nat} (hm : m ≠ c.ring) :
    (s.produce c st cause).ring m = s.ring m := by
  rw [State.produce_written st cause h, State.ring_congr (State.restFor_only _ c .rings rfl), State.trackFull_ring_other _ hm,
    State.writeRec_ring_other _ (c.record st cause s.now) hm, State.ring_congr (s.recorded_only c st cause .rings rfl)]

theorem State.produce_written_queues {s : State} {c : Cmd} (st : Status) (cause : Nat) (h : s.WritesAtOnce c) :
    (s.produce c st cause).waiting = s.waiting ∧ (s.produce c st cause).backlog = s.backlog := by
  rw [State.produce_written st cause h]
  have hall : Only [.badWords, .cmds, .colls, .ctrs, .engines, .flags, .groups, .hostMem, .log, .me, .mem, .msix, .pages, .raster, .regs,
      .rings, .softWords, .steps, .traceAt, .traceFill, .traceGap] s
      ((((s.recorded c st cause).writeRec (c.record st cause s.now)).trackFull c.ring).restFor c) :=
    (State.restFor_only _ c).step (by decide) ((State.trackFull_only _ _).step (by decide) ((State.writeRec_only _ _).step (by decide)
      ((s.recorded_only c st cause).mono (by decide))))
  exact ⟨hall .waiting rfl, hall .backlog rfl⟩

theorem State.groupSettled_memOk {t : State} (c : Cmd) (st : Status) (hok : MemOk t) : MemOk (t.groupSettled c st) := by
  have hgroup : MemOk (if c.rejected then t else t.settleGroup c st) := MemOk.ite hok (State.settleGroup_memOk _ _ _ hok)
  exact MemOk.ite hgroup (State.taint_memOk _ _ hgroup)

theorem State.tallied_memOk {t : State} (s : State) (c : Cmd) (hok : MemOk t) : MemOk (s.tallied t c) := by
  rcases s.tallied_cases t c with h | ⟨b, i, event, h⟩ <;> rw [h]
  · exact hok
  · exact State.pulse_memOk _ _ _ _ _ _ hok

theorem State.recorded_memOk {s : State} (c : Cmd) (st : Status) (cause : Nat) (hok : MemOk s) : MemOk (s.recorded c st cause) := by
  have htraced : MemOk (s.traced c st cause) :=
    MemOk.of_only (State.collRefuse_only _ _ _) (by decide)
      (State.trace_memOk _ _ _ _ _ (MemOk.ite (State.rasterRest_memOk s hok) hok))
  have hretired : MemOk (s.retired c st cause) :=
    MemOk.of_only (State.retire_only _ _ _) (by decide)
      (State.warped_memOk _ _ _ (MemOk.of_only (State.advanceAll_only _ _ _) (by decide) htraced))
  exact State.logNote_memOk _ _ (State.tallied_memOk _ _ (State.groupSettled_memOk _ _
    (MemOk.of_only (State.noted_only _ _ _ _) (by decide) hretired)))

/-- The record's bytes lie in its ring at the end, unless a message falls on them. -/
theorem State.produce_hostGet {s : State} {c : Cmd} (st : Status) (cause : Nat) (hok : MemOk s) (h : s.WritesAtOnce c) {a : Nat}
    (ha : a = (s.ring c.ring).base + (s.ring c.ring).prod.toNat % 2 ^ (s.ring c.ring).log2 * 16) (hm : s.MessagesMiss a 16) :
    (s.produce c st cause).hostGet a 16 = (c.record st cause s.now).bytes (!(s.ring c.ring).prod.toNat.testBit (s.ring c.ring).log2) := by
  have hrec := s.recorded_only c st cause
  have hring : (s.recorded c st cause).ring (c.record st cause s.now).ring = s.ring c.ring := State.ring_congr (hrec .rings rfl) _
  have hmrec : (s.recorded c st cause).MessagesMiss a 16 := hm.congr (s.recorded_raises c st cause) (hrec .link rfl)
  have hokrec : MemOk (s.recorded c st cause) := State.recorded_memOk c st cause hok
  have hwrite := (s.recorded c st cause).writeRec_only (c.record st cause s.now)
  have hfull := ((s.recorded c st cause).writeRec (c.record st cause s.now)).trackFull_only c.ring
  have hget : (((s.recorded c st cause).writeRec (c.record st cause s.now)).trackFull c.ring).hostGet a 16 =
      ((s.recorded c st cause).writeRec (c.record st cause s.now)).hostGet a 16 := rfl
  rw [State.produce_written st cause h, State.restFor_hostGet, hget, State.writeRec_hostGet hokrec _ (by rw [hring]; exact ha) hmrec, hring]
  · exact MemOk.of_only hfull (by decide) (State.writeRec_memOk _ _ hokrec)
  · exact (hmrec.congr (State.writeRec_raises _ _) (hwrite .link rfl)).congr (RaisesOnly.of_only hfull (by decide)) (hfull .link rfl)

/-! ### COMPLETION_RECORD_WRITE -/

/-- A command that has not had its record, with an entry for it, is the one that the operation takes up. -/
theorem State.withEntry_of_entry {s : State} {c : Cmd} (h : c.entry ≠ .none) : s.withEntry c = some c := by
  rw [State.withEntry, if_neg (by simp [h])]

theorem execCompletionRecordWrite_ended {s : State} {c : Cmd} {st : Status} {cause : Nat} (hc : s.cmd? c.uid = some c) (he : c.entry ≠ .none)
    (hp : c.place = .ended st cause) (hb : s.behindContext c = false) :
    exec (.completionRecordWrite c.uid) s = .next (if c.replay then s.endReplay c st else s.produce c st cause) := by
  have hlive : c.live = true := by rw [Cmd.live, hp]
  show execCompletionRecordWrite c.uid s = _
  unfold execCompletionRecordWrite
  simp only [hc, Option.bind_some, hlive, if_true, State.withEntry_of_entry he, hp, hb, Bool.false_eq_true, if_false]

theorem execCompletionRecordWrite_step {s : State} {c : Cmd} {x : Step} (hc : s.cmd? c.uid = some c) (he : c.entry ≠ .none)
    (hp : c.place = .pending) (hop : c.opcode = 1) (hx : s.step? c.uid = some x) (hclosed : s.stepClosed x = true) (hfirst : x.closed = false) :
    exec (.completionRecordWrite c.uid) s = .next ((s.produce c x.verdict.1 x.verdict.2).closeStep x) := by
  have hlive : c.live = true := by rw [Cmd.live, hp]
  show execCompletionRecordWrite c.uid s = _
  unfold execCompletionRecordWrite
  simp only [hc, Option.bind_some, hlive, if_true, State.withEntry_of_entry he, hp, hx, hop, hclosed, hfirst, Bool.not_false,
    BEq.rfl, Bool.and_self]

theorem State.endReplay_cmds (s : State) (c : Cmd) (st : Status) :
    (s.putCmd { c with place := .recorded st, replay := false, entry := .none }).KeepsLive (s.endReplay c st) :=
  (State.settleGroup_keepsLive _ c st).trans (.of_cmds (State.logNote_only _ c .cmds rfl))

/-- Settles O15: what happens between the flags' advance and the record's delivery moves neither. -/
theorem completionRecordAdvancesFlags : Obligations.CompletionRecordAdvancesFlags := by
  unfold Obligations.CompletionRecordAdvancesFlags
  intro s c hc he
  refine ⟨fun st cause hp hrep hb => ?_, fun x hp hop hx hclosed hfirst => ?_, fun st cause hp hrep hb => ?_⟩
  · rw [execCompletionRecordWrite_ended hc he hp hb, hrep, if_neg Bool.false_ne_true]
    refine ⟨_, rfl, s.produce_not_live c st cause, s.produce_cmd?_none st cause, fun f n hf hpo => ?_,
      fun f => State.produce_flag_poisoned c st cause, fun f => State.produce_flag_other cause, State.produce_waits c st cause,
      fun r a hr ha hok hlink hhost hroom hfree => ?_, fun d hd hu hl => State.produce_mem st cause hd hu hl,
      (s.produce_only c st cause).mono (by decide)⟩
    · rw [State.produce_flag_advanced cause hf hpo]
      exact ⟨rfl, rfl⟩
    · subst hr
      have hat : s.WritesAtOnce c := ⟨hlink, hhost, hroom, hfree⟩
      obtain ⟨hw, hbl⟩ := State.produce_written_queues st cause hat
      refine ⟨State.produce_prod st cause hat, fun m hm => State.produce_ring_other st cause hat hm, hw, hbl, fun hm => ?_⟩
      rw [State.produce_hostGet st cause hok hat ha hm]
      unfold Rec.bytes Cmd.record
      cases (s.ring c.ring).prod.toNat.testBit (s.ring c.ring).log2 <;> rfl
  · rw [execCompletionRecordWrite_step hc he hp hop hx hclosed hfirst]
    have hclose := State.closeStep_only (s.produce c x.verdict.1 x.verdict.2) x
    refine ⟨_, rfl, ?_, fun hlink hbase => ?_, fun hx => ?_, fun hx => ?_⟩
    · rw [hclose .cmds rfl]
      exact s.produce_not_live c _ _
    · rw [hclose .waiting rfl]
      exact State.produce_waits c _ _ hlink hbase
    · simp [Step.verdict, hx]
    · simp [Step.verdict, hx]
  · rw [execCompletionRecordWrite_ended hc he hp hb, hrep, if_pos rfl]
    have hkeep := s.endReplay_cmds c st
    refine ⟨_, rfl, fun d hd hu => ?_, fun d hd hu hl => hkeep.mem (State.putCmd_mem_other hd hu) hl,
      (s.endReplay_only c st).mono (by decide)⟩
    rw [State.putCmd_mem_uid (hkeep.of_mem hd) hu]
    rfl

end Sys2Proof.Machine
end

section
set_option Elab.async false
namespace Sys2Proof.Machine

/-! ### Jobs -/

theorem State.putJob_job (s : State) (j : Nat) (x : Job) : (s.putJob j x).job j = x := by
  unfold State.job State.putJob
  exact SMap.get_set_same _ _ _ _

theorem State.putJob_job_other (s : State) {j k : Nat} (x : Job) (h : k ≠ j) : (s.putJob j x).job k = s.job k := by
  unfold State.job State.putJob
  exact SMap.get_set_other _ _ _ _ _ h

theorem State.job_congr {s t : State} (h : t.jobs = s.jobs) (j : Nat) : t.job j = s.job j := by
  unfold State.job
  rw [h]

/-! ### Commands that an operation spares -/

/-- From `s` to `t` every command of a kind is found as it was. -/
def State.Spares (P : Cmd → Prop) (s t : State) : Prop := ∀ u d, s.cmd? u = some d → P d → t.cmd? u = some d

namespace State.Spares

theorem of_cmds {P : Cmd → Prop} {s t : State} (h : t.cmds = s.cmds) : Spares P s t := fun u d hd _ => by
  rwa [State.cmd?_congr h]

theorem trans {P : Cmd → Prop} {s t u : State} (h : Spares P s t) (k : Spares P t u) : Spares P s u := fun v d hd hp => k v d (h v d hd hp) hp

theorem foldl {α : Type} {P : Cmd → Prop} {s : State} {g : State → α → State} {l : List α} (hg : ∀ (y : State) a, Spares P y (g y a)) :
    Spares P s (l.foldl g s) := by
  induction l generalizing s with
  | nil => exact of_cmds rfl
  | cons a l ih => exact (hg s a).trans ih

theorem of_keepsLive {P : Cmd → Prop} {s t : State} (h : s.KeepsLive t) (hl : ∀ d, P d → d.live = true) : Spares P s t :=
  fun _ d hd hp => h.cmd? hd (hl d hp)

/-- A change of each command by itself that leaves its name spares those that it leaves alone. -/
theorem of_map {P : Cmd → Prop} {s t : State} {f : Cmd → Cmd} (h : t.cmds = s.cmds.map f) (huid : ∀ d, (f d).uid = d.uid)
    (hf : ∀ d, P d → f d = d) : Spares P s t := by
  intro u d hd hp
  unfold State.cmd? at hd ⊢
  rw [h, find?_map_same _ _ _ fun a => by rw [huid], hd, Option.map_some, hf d hp]

end State.Spares

theorem State.endAll_spares {P : Cmd → Prop} (s : State) {p : Cmd → Bool} (st : Status) (cause : Nat) (h : ∀ d, P d → p d = false) :
    State.Spares P s (s.endAll p st cause) := by
  refine .of_map rfl (fun d => ?_) fun d hd => ?_
  · split <;> rfl
  · rw [h d hd, Bool.and_false, if_neg Bool.false_ne_true]

/-! ### Cancellation (R47) -/

/-- Which commands a deadline ends: of those meant all but perhaps the ME's running one (R206). -/
theorem State.endLate_cmds (s : State) (p : Cmd → Bool) :
    ∃ q : Cmd → Bool, (s.endLate p).cmds = (s.endAll q .late 0).cmds ∧ (∀ d, q d = true → p d = true) ∧
      ∀ d, p d = true → q d = false → s.me.uid = some d.uid := by
  unfold State.endLate
  split
  · next c hc =>
    have huid : s.me.uid = some c.uid := by
      obtain ⟨hbind, -⟩ := Option.filter_eq_some_iff.mp (show (s.me.uid.bind s.cmd?).filter Cmd.unstarted = some c from hc)
      obtain ⟨u, hu, hcu⟩ := Option.bind_eq_some_iff.mp hbind
      rw [hu, show c.uid = u by simpa using List.find?_some hcu]
    split
    · exact ⟨p, rfl, fun _ h => h, fun d hp hq => absurd hp (by simp [hq])⟩
    · split
      · exact ⟨p, State.meDrop_only _ .cmds rfl, fun _ h => h, fun d hp hq => absurd hp (by simp [hq])⟩
      · refine ⟨fun d => p d && d.uid != c.uid, rfl, fun d h => (Bool.and_eq_true_iff.mp h).1, fun d hp hq => ?_⟩
        have : d.uid = c.uid := by simpa [hp] using hq
        rw [huid, this]
  · exact ⟨p, rfl, fun _ h => h, fun d hp hq => absurd hp (by simp [hq])⟩

theorem State.endLate_spares {P : Cmd → Prop} (s : State) {p : Cmd → Bool} (h : ∀ d, P d → p d = false) : State.Spares P s (s.endLate p) := by
  obtain ⟨q, hq, hsub, -⟩ := s.endLate_cmds p
  refine State.Spares.trans (s.endAll_spares .late 0 (p := q) fun d hd => ?_) (.of_cmds hq)
  cases hqd : q d with
  | false => rfl
  | true => exact absurd (hsub d hqd) (by simp [h d hd])

/-- The state in which a cancelled tile group is marked, in its table also, and its commands have ended. -/
def State.cancelMark (s : State) (x : Step) (t : Nat) : State :=
  let s2 := (((s.endLate fun c => c.step == some x.uid && c.tile == t).putGroup
    { (s.group? x.uid t).getD (Group.fresh x.uid t) with cancelled := true }).bump .sched 0 0x060 1).pulse .sched 0 0x14 1 (some x.job)
  match x.frame with
  | some f => if s2.boundHeader f then s2.putEntry f t (setBits (setBits (s2.entry f t) 63 60 7) 55 48 8) else s2
  | none => s2

theorem State.cancelGroup_eq (s : State) (x : Step) (t : Nat) : s.cancelGroup x t = (s.cancelMark x t).endGroup x t := rfl

/-- What the mark changes once the group and the count are written. -/
theorem State.cancelMark_only (s : State) (x : Step) (t : Nat) :
    Only [.badWords, .ctrs, .hostMem, .mem, .msix, .pages, .softWords]
      (((s.endLate fun c => c.step == some x.uid && c.tile == t).putGroup
        { (s.group? x.uid t).getD (Group.fresh x.uid t) with cancelled := true }).bump .sched 0 0x060 1) (s.cancelMark x t) := by
  have hpulse := State.pulse_only (((s.endLate fun c => c.step == some x.uid && c.tile == t).putGroup
    { (s.group? x.uid t).getD (Group.fresh x.uid t) with cancelled := true }).bump .sched 0 0x060 1) .sched 0 0x14 1 (some x.job)
  unfold State.cancelMark
  dsimp only
  split
  · exact Only.ite ((State.devPut_only _ _ _).step (by decide) (hpulse.mono (by decide))) (hpulse.mono (by decide))
  · exact hpulse.mono (by decide)

theorem State.cancelMark_cmds (s : State) (x : Step) (t : Nat) :
    (s.cancelMark x t).cmds = (s.endLate fun c => c.step == some x.uid && c.tile == t).cmds := s.cancelMark_only x t .cmds rfl

theorem State.cancelGroup_spares {P : Cmd → Prop} (s : State) (x : Step) (t : Nat) (h : ∀ d, P d → d.step ≠ some x.uid)
    (hl : ∀ d, P d → d.live = true) : State.Spares P s (s.cancelGroup x t) := by
  refine ((s.endLate_spares fun d hd => ?_).trans (.of_cmds (s.cancelMark_cmds x t))).trans
    (.of_keepsLive ((s.cancelMark x t).endGroup_keepsLive x t) hl)
  simp [h d hd]

/-- The tile groups that a row's deadline cancels. -/
def State.lateTiles (s : State) (x : Step) (r : Nat) : List Nat := (x.tilesOf r).filter fun t => s.incompleteAt x t (x.rowDeadline r)

/-- The step after the deadline of a row. -/
def State.lateStep (s : State) (x : Step) (r : Nat) : Step :=
  { x with lateRows := x.lateRows ++ x.rowsWith r, cancelled := x.cancelled + (s.lateTiles x r).length }

/-- The state in which the row's groups have been cancelled. -/
def State.lateGroups (s : State) (x : Step) (r : Nat) : State :=
  (s.lateTiles x r).foldl (fun t k => t.cancelGroup x k) (s.putStep (s.lateStep x r))

/-- The state in which, at the last row, every remaining command has ended too. -/
def State.lateRest (s : State) (x : Step) (r : Nat) : State :=
  let s2 := (s.lateGroups x r).putLateCount x (x.cancelled + (s.lateTiles x r).length)
  if (x.rowsWith r).contains x.lastRow then (s2.endLate fun c => c.step == some x.uid).reviewStep x.uid else s2

theorem State.lateRow_eq (s : State) (x : Step) (r : Nat) :
    s.lateRow x r = if (s.lateTiles x r).isEmpty then s.lateRest x r else (s.lateRest x r).irq .sched 0 0b1 := rfl

theorem State.lateGroups_only (s : State) (x : Step) (r : Nat) :
    Only [.badWords, .cmds, .ctrs, .groups, .hostMem, .me, .mem, .msix, .pages, .regs, .softWords] (s.putStep (s.lateStep x r))
      (s.lateGroups x r) :=
  Only.foldl (fun y k hy => (State.cancelGroup_only y x k).step (by decide) hy) (Only.refl _ _)

theorem State.lateRest_only (s : State) (x : Step) (r : Nat) :
    Only [.badWords, .cmds, .ctrs, .groups, .hostMem, .me, .mem, .msix, .pages, .regs, .softWords] (s.putStep (s.lateStep x r))
      (s.lateRest x r) := by
  have hcount := (State.putLateCount_only (s.lateGroups x r) x (x.cancelled + (s.lateTiles x r).length)).step (by decide)
    (s.lateGroups_only x r)
  exact Only.ite ((State.reviewStep_only _ _).step (by decide) ((State.endLate_only _ _).step (by decide) hcount)) hcount

theorem State.lateRow_steps (s : State) (x : Step) (r : Nat) : (s.lateRow x r).steps = (s.putStep (s.lateStep x r)).steps := by
  rw [State.lateRow_eq]
  split
  · exact s.lateRest_only x r .steps rfl
  · exact (State.irq_only _ _ _ _ .steps rfl).trans (s.lateRest_only x r .steps rfl)

theorem State.lateRow_spares {P : Cmd → Prop} (s : State) (x : Step) (r : Nat) (h : ∀ d, P d → d.step ≠ some x.uid)
    (hl : ∀ d, P d → d.live = true) : State.Spares P s (s.lateRow x r) := by
  have hgroups : State.Spares P s (s.lateGroups x r) :=
    State.Spares.trans (t := s.putStep (s.lateStep x r)) (.of_cmds rfl) (.foldl fun y k => y.cancelGroup_spares x k h hl)
  have hcount := hgroups.trans (.of_cmds (State.putLateCount_only (s.lateGroups x r) x (x.cancelled + (s.lateTiles x r).length) .cmds rfl))
  have hrest : State.Spares P s (s.lateRest x r) := by
    unfold State.lateRest
    dsimp only
    split
    · exact (hcount.trans (State.endLate_spares _ fun d hd => by simp [h d hd])).trans
        (.of_keepsLive (State.reviewStep_keepsLive _ _) hl)
    · exact hcount
  rw [State.lateRow_eq]
  split
  · exact hrest
  · exact hrest.trans (.of_cmds (State.irq_only _ _ _ _ .cmds rfl))

theorem State.fireGuard_spares {P : Cmd → Prop} (s : State) (x : Step) (r : Nat) (h : ∀ d, P d → d.step ≠ some x.uid) :
    State.Spares P s (s.fireGuard x r) :=
  .of_map (s.fireGuard_cmds x r) (Cmd.lifted_uid x r) fun d hd => Cmd.lifted_other (.inr (h d hd))

/-! ### A step that opens (R23, R48) -/

/-- From `s` to `t` step `u` has kept what says what it is and that it is open. -/
def State.KeepsStep (u : Nat) (s t : State) : Prop :=
  ∀ x, s.step? u = some x → ∃ y, t.step? u = some y ∧ y.opened = x.opened ∧ y.deadline = x.deadline ∧ y.tileCount = x.tileCount ∧ y.job = x.job

namespace State.KeepsStep

theorem of_steps {u : Nat} {s t : State} (h : t.steps = s.steps) : KeepsStep u s t := fun x hx =>
  ⟨x, by rwa [State.step?_congr h], rfl, rfl, rfl, rfl⟩

theorem trans {u : Nat} {s t v : State} (h : KeepsStep u s t) (k : KeepsStep u t v) : KeepsStep u s v := by
  intro x hx
  obtain ⟨y, hy, hy1, hy2, hy3, hy4⟩ := h x hx
  obtain ⟨z, hz, hz1, hz2, hz3, hz4⟩ := k y hy
  exact ⟨z, hz, hz1.trans hy1, hz2.trans hy2, hz3.trans hy3, hz4.trans hy4⟩

theorem foldl {α : Type} {u : Nat} {s : State} {g : State → α → State} {l : List α} (hg : ∀ (y : State) a, KeepsStep u y (g y a)) :
    KeepsStep u s (l.foldl g s) := by
  induction l generalizing s with
  | nil => exact of_steps rfl
  | cons a l ih => exact (hg s a).trans ih

end State.KeepsStep

theorem State.fireGuard_keepsStep {s : State} {u : Nat} {y : Step} (r : Nat) (hy : s.step? u = some y) :
    State.KeepsStep u s (s.fireGuard y r) := by
  intro x hx
  obtain rfl : y = x := Option.some.inj (hy.symm.trans hx)
  have huid := State.step?_uid hy
  subst huid
  exact ⟨_, State.fireGuard_step? r (by rw [hx]; rfl), rfl, rfl, rfl, rfl⟩

theorem State.lateRow_keepsStep {s : State} {u : Nat} {y : Step} (r : Nat) (hy : s.step? u = some y) :
    State.KeepsStep u s (s.lateRow y r) := by
  intro x hx
  obtain rfl : y = x := Option.some.inj (hy.symm.trans hx)
  have huid := State.step?_uid hy
  subst huid
  refine ⟨s.lateStep y r, ?_, rfl, rfl, rfl, rfl⟩
  rw [State.step?_congr (s.lateRow_steps y r)]
  exact State.putStep_step? (x := s.lateStep y r) (by rw [show (s.lateStep y r).uid = y.uid from rfl, hx]; rfl)

theorem State.pastGuards_keepsStep (s : State) (u : Nat) : State.KeepsStep u s (s.pastGuards u) := by
  unfold State.pastGuards
  split
  · exact .of_steps rfl
  · refine .foldl fun y r => ?_
    split
    · next z hz =>
      split
      · exact State.fireGuard_keepsStep r hz
      · exact .of_steps rfl
    · exact .of_steps rfl

theorem State.pastRows_keepsStep (s : State) (u : Nat) : State.KeepsStep u s (s.pastRows u) := by
  unfold State.pastRows
  split
  · exact .of_steps rfl
  · refine .foldl fun y r => ?_
    split
    · next z hz =>
      split
      · exact State.lateRow_keepsStep r hz
      · exact .of_steps rfl
    · exact .of_steps rfl

theorem State.pastGuards_spares {P : Cmd → Prop} (s : State) (u : Nat) (h : ∀ d, P d → d.step ≠ some u) :
    State.Spares P s (s.pastGuards u) := by
  unfold State.pastGuards
  split
  · exact .of_cmds rfl
  · refine .foldl fun y r => ?_
    split
    · next z hz =>
      split
      · exact y.fireGuard_spares z r (by rwa [State.step?_uid hz])
      · exact .of_cmds rfl
    · exact .of_cmds rfl

theorem State.pastRows_spares {P : Cmd → Prop} (s : State) (u : Nat) (h : ∀ d, P d → d.step ≠ some u) (hl : ∀ d, P d → d.live = true) :
    State.Spares P s (s.pastRows u) := by
  unfold State.pastRows
  split
  · exact .of_cmds rfl
  · refine .foldl fun y r => ?_
    split
    · next z hz =>
      split
      · exact y.lateRow_spares z r (by rwa [State.step?_uid hz]) hl
      · exact .of_cmds rfl
    · exact .of_cmds rfl

/-- The state in which a step is open and its STEP_OPEN holds the entry for its record. -/
def State.opening (s : State) (c : Cmd) (x : Step) (e : Entry) : State :=
  ((s.putStep { x with opened := true }).putCmd { c with entry := e, heldEntry := false }).putJob c.job
    { s.job c.job with
      lastEpoch := x.epoch
      turnPending := if (s.job c.job).turnSteps != 0 && x.number % (s.job c.job).turnSteps == 0 then
        some (x.number / (s.job c.job).turnSteps) else (s.job c.job).turnPending }

theorem State.openStep_past (s : State) (c : Cmd) (x : Step) (e : Entry) :
    Only [.badWords, .cmds, .ctrs, .engines, .groups, .hostMem, .me, .mem, .msix, .pages, .regs, .softWords, .steps] (s.opening c x e)
      (s.openStep c x e) :=
  (State.track_only _).step (by decide) ((State.pastRows_only _ _).step (by decide) ((State.pastGuards_only _ _).mono (by decide)))

theorem State.openStep_step? {s : State} {c : Cmd} {x : Step} (e : Entry) (hx : s.step? x.uid = some x) :
    ∃ y, (s.openStep c x e).step? x.uid = some y ∧ y.opened = true ∧ y.deadline = x.deadline ∧ y.tileCount = x.tileCount ∧ y.job = x.job :=
  have hopen : (s.opening c x e).step? x.uid = some { x with opened := true } :=
    State.putStep_step? (x := { x with opened := true }) (by rw [show ({ x with opened := true } : Step).uid = x.uid from rfl, hx]; rfl)
  ((State.pastGuards_keepsStep _ _).trans (State.pastRows_keepsStep _ _)) _ hopen

theorem State.openStep_cmd? {s : State} {c : Cmd} (x : Step) (e : Entry) (hc : s.cmd? c.uid = some c) (hp : c.place = .pending)
    (hstep : c.step = none) : (s.openStep c x e).cmd? c.uid = some { c with entry := e, heldEntry := false } := by
  have hopen : (s.opening c x e).cmd? c.uid = some { c with entry := e, heldEntry := false } :=
    State.putCmd_cmd? (s.putStep { x with opened := true }) { c with entry := e, heldEntry := false }
      (show (s.cmd? c.uid).isSome by rw [hc]; rfl)
  refine ((State.pastGuards_spares (P := fun d => d.step = none ∧ d.live = true) _ _ fun d hd => ?_).trans
    (State.pastRows_spares _ _ (fun d hd => ?_) fun d hd => hd.2)) _ _ hopen ⟨hstep, ?_⟩
  · rw [hd.1]
    exact nofun
  · rw [hd.1]
    exact nofun
  · show Cmd.live { c with entry := e, heldEntry := false } = true
    rw [Cmd.live]
    simp only [hp]

/-- Settles O13: what guards and deadlines already past do at the opening spares a command that is no command of the step. -/
theorem stepOpenOpensItsStep : Obligations.StepOpenOpensItsStep := by
  unfold Obligations.StepOpenOpensItsStep
  intro s c e hc hop hp hf hstop he
  have hready : (!(c.opcode == 1 && c.place == .pending) || s.fenced c || s.stopped) = false := by simp [hop, hp, hf, hstop]
  refine ⟨fun x hx hopen hfirst hfour hturn => ?_, fun hx => ?_⟩
  · have hexec : exec (.stepOpen c.uid) s = .next (s.openStep c x e) := by
      show execStepOpen c.uid s = _
      unfold execStepOpen
      simp only [hc, hready, he, hx, hopen, hfirst, hturn, Bool.false_eq_true, if_false, Bool.false_or, decide_eq_true_eq,
        Nat.not_le.mpr hfour]
    have huid := State.step?_uid hx
    rw [← huid] at hx ⊢
    obtain ⟨y, hy, hopened, hdead, htiles, hjob⟩ := State.openStep_step? (c := c) e hx
    have hpast := s.openStep_past c x e
    refine ⟨_, y, huid ▸ hexec, hy, hopened, hdead, htiles, hjob, fun hstep => ?_, ?_, fun j hj => ?_, (s.openStep_only c x e).mono (by decide)⟩
    · rw [huid]
      exact ⟨_, State.openStep_cmd? x e hc hp hstep, hp, rfl, rfl, rfl⟩
    · rw [State.job_congr (hpast .jobs rfl), State.opening, State.putJob_job]
    · rw [State.job_congr (hpast .jobs rfl), State.opening, State.putJob_job_other _ _ hj]
      rfl
  · have hexec : exec (.stepOpen c.uid) s =
        .next (s.putCmd { c with place := if s.devState = 6 then .ended .version 0 else .ended .badOperand c.progress, entry := e }) := by
      show execStepOpen c.uid s = _
      unfold execStepOpen
      simp only [hc, hready, he, hx, Bool.false_eq_true, if_false]
      by_cases hd : s.devState = 6 <;> simp [hd]
    refine ⟨_, hexec, ?_, fun v hv => ?_, State.putCmd_only _ _⟩
    · exact State.putCmd_cmd? s { c with place := if s.devState = 6 then .ended .version 0 else .ended .badOperand c.progress, entry := e }
        (by rw [show (Cmd.uid { c with place := if s.devState = 6 then .ended .version 0 else .ended .badOperand c.progress, entry := e }) = c.uid
              from rfl, hc]; rfl)
    · exact State.putCmd_cmd?_other s
        { c with place := if s.devState = 6 then .ended .version 0 else .ended .badOperand c.progress, entry := e } v hv

end Sys2Proof.Machine
end

section
set_option Elab.async false
namespace Sys2Proof.Machine

/-! ### What follows from a changed tile state (R229, R234) -/

theorem State.err_raises (s : State) (b : Blk) (i code info addr : Nat) : RaisesOnly s (s.err b i code info addr) :=
  s.putPage_raises b i fun _ hn => hn

theorem State.edge_raises (s : State) (b : Blk) (i event : Nat) (before : Bool) (job : Option Nat) : RaisesOnly s (s.edge b i event before job) := by
  unfold State.edge
  exact RaisesOnly.ite (RaisesOnly.refl s) (State.pulse_raises _ _ _ _ _ _)

/-- From `s` to `t` no command has begun to wait: one that waits is one that waited before. -/
def State.OnlyEnds (s t : State) : Prop :=
  ∀ d ∈ t.cmds, d.unstarted = true → ∃ c ∈ s.cmds, c.unstarted = true ∧ c.uid = d.uid ∧ c.pkt = d.pkt ∧ c.step = d.step

namespace State.OnlyEnds

theorem of_cmds {s t : State} (h : t.cmds = s.cmds) : s.OnlyEnds t := fun d hd hu => ⟨d, h ▸ hd, hu, rfl, rfl, rfl⟩

theorem trans {s t u : State} (h : s.OnlyEnds t) (k : t.OnlyEnds u) : s.OnlyEnds u := by
  intro d hd hu
  obtain ⟨c, hc, hcu, h1, h2, h3⟩ := k d hd hu
  obtain ⟨b, hb, hbu, k1, k2, k3⟩ := h c hc hcu
  exact ⟨b, hb, hbu, k1.trans h1, k2.trans h2, k3.trans h3⟩

/-- A change of each command by itself that ends some and leaves the others. -/
theorem of_map {s t : State} {f : Cmd → Cmd} (h : t.cmds = s.cmds.map f) (hf : ∀ d, f d = d ∨ (f d).unstarted = false) : s.OnlyEnds t := by
  intro d hd hu
  rw [h] at hd
  obtain ⟨c, hc, rfl⟩ := List.mem_map.mp hd
  rcases hf c with hcd | hcd
  · rw [hcd] at hu ⊢
    exact ⟨c, hc, hu, rfl, rfl, rfl⟩
  · rw [hcd] at hu
    cases hu

theorem of_keepsLive {s t : State} (h : s.KeepsLive t) : s.OnlyEnds t := fun d hd hu => ⟨d, h.of_mem hd, hu, rfl, rfl, rfl⟩

end State.OnlyEnds

theorem State.endCmd_onlyEnds (s : State) (uid : Nat) (st : Status) (cause : Nat) : s.OnlyEnds (s.endCmd uid st cause) := by
  refine .of_map rfl fun d => ?_
  split
  · exact .inr rfl
  · exact .inl rfl

theorem State.faultWith_onlyEnds (s : State) (uid : Nat) (st : Status) (cause : Nat) (note : FaultNote) :
    s.OnlyEnds (s.faultWith uid st cause note) := by
  refine .of_map rfl fun d => ?_
  split
  · exact .inr rfl
  · exact .inl rfl

theorem State.endAll_onlyEnds (s : State) (p : Cmd → Bool) (st : Status) (cause : Nat) : s.OnlyEnds (s.endAll p st cause) := by
  refine .of_map rfl fun d => ?_
  split
  · exact .inr rfl
  · exact .inl rfl

/-- What the raster engine's part after a row deadline may do that bears on the deadline: RAW bits are at most set, commands at most end,
and the scheduler's count of cancelled groups stays. -/
structure State.Follows (s t : State) : Prop where
  raises : RaisesOnly s t
  ends : s.OnlyEnds t
  count : t.regs.find? 0x4060 = s.regs.find? 0x4060

namespace State.Follows

theorem refl (s : State) : s.Follows s := ⟨RaisesOnly.refl s, .of_cmds rfl, rfl⟩

theorem trans {s t u : State} (h : s.Follows t) (k : t.Follows u) : s.Follows u :=
  ⟨h.raises.trans k.raises, h.ends.trans k.ends, k.count.trans h.count⟩

theorem ite {s t u : State} {c : Prop} [Decidable c] (ht : s.Follows t) (hu : s.Follows u) : s.Follows (if c then t else u) := by
  split <;> assumption

theorem of_raises {fs : List StateField} {s t : State} (hr : RaisesOnly s t) (h : Only fs s t)
    (hd : [StateField.cmds, .regs].all (fun f => !(fieldMask fs).testBit f.idx) = true) : s.Follows t := by
  have hf : ∀ f ∈ [StateField.cmds, .regs], (fieldMask fs).testBit f.idx = false := by
    simpa only [List.all_eq_true, Bool.not_eq_true'] using hd
  exact ⟨hr, .of_cmds (h .cmds (hf _ (by decide))), congrArg (·.find? 0x4060) (h .regs (hf _ (by decide)))⟩

theorem of_only {fs : List StateField} {s t : State} (h : Only fs s t)
    (hd : [StateField.cmds, .insole, .msix, .pages, .regs].all (fun f => !(fieldMask fs).testBit f.idx) = true) : s.Follows t := by
  have hf : ∀ f ∈ [StateField.cmds, .insole, .msix, .pages, .regs], (fieldMask fs).testBit f.idx = false := by
    simpa only [List.all_eq_true, Bool.not_eq_true'] using hd
  refine of_raises (RaisesOnly.of_only h ?_) h ?_
  all_goals
    simp only [List.all_eq_true, Bool.not_eq_true']
    intro f hm
    refine hf f ?_
    fin_cases hm <;> decide

theorem of_ends {s t : State} (he : s.OnlyEnds t) (h : Only [.cmds] s t) : s.Follows t :=
  ⟨RaisesOnly.of_only h (by decide), he, congrArg (·.find? 0x4060) (h .regs rfl)⟩

theorem foldl {α : Type} {s : State} {g : State → α → State} {l : List α} (hg : ∀ (y : State) a, y.Follows (g y a)) :
    s.Follows (l.foldl g s) := by
  induction l generalizing s with
  | nil => exact refl s
  | cons a l ih => exact (hg s a).trans ih

theorem foldl_fst {α β : Type} {g : State × β → α → State × β} {l : List α} {x : State × β} (hg : ∀ (y : State × β) a, y.1.Follows (g y a).1) :
    x.1.Follows (l.foldl g x).1 := by
  induction l generalizing x with
  | nil => exact refl x.1
  | cons a l ih => exact (hg x a).trans ih

end State.Follows

theorem State.irq_follows (s : State) (b : Blk) (i : Nat) (m : Word) : s.Follows (s.irq b i m) :=
  .of_raises (s.irq_raises b i m) (s.irq_only b i m) (by decide)

theorem State.pulse_follows (s : State) (b : Blk) (i event n : Nat) (job : Option Nat) : s.Follows (s.pulse b i event n job) :=
  .of_raises (s.pulse_raises b i event n job) (s.pulse_only b i event n job) (by decide)

theorem State.edge_follows (s : State) (b : Blk) (i event : Nat) (before : Bool) (job : Option Nat) : s.Follows (s.edge b i event before job) :=
  .of_raises (s.edge_raises b i event before job) (s.edge_only b i event before job) (by decide)

theorem State.rasterRest_follows (s : State) : s.Follows s.rasterRest := .of_raises s.rasterRest_raises s.rasterRest_only (by decide)

theorem State.bump_follows (s : State) (b : Blk) (i off n : Nat) (h : 0x4060 ≠ b.base i + off) : s.Follows (s.bump b i off n) :=
  ⟨RaisesOnly.of_only (s.bump_only b i off n) (by decide), .of_cmds (s.bump_only b i off n .cmds rfl), State.find?_bump_other s b i off n h⟩

/-- The counter of a memory's corrected errors (R283), by the memory that an address names. -/
def eccCounter (port : Nat) : Option Target → Option (Blk × Nat × Nat × Nat)
  | some (.tmem d) => some (.tmem, d, 0x054, 0)
  | some .hubSram | some .staging => some (.hsram, 0, 0x044, 0)
  | some .dram => some (.memc, port, 0x050, 1)
  | none => none

/-- Stated of the function first: with its arguments the kernel would evaluate the size of DRAM. -/
theorem State.eccHome_eq (s : State) (a : Nat) : s.eccHome a = eccCounter (s.portOf a) (s.target a 1) := by
  have h : ∀ f, f = @State.eccHome → f s a = eccCounter (s.portOf a) (s.target a 1) := by
    delta State.eccHome
    rintro _ rfl
    beta_reduce
    generalize s.target a 1 = t
    rcases t with _ | ⟨_ | _ | _ | d⟩ <;> rfl
  exact h _ rfl

theorem Blk.memc_apart (p : Nat) : 0x4060 ≠ Blk.base .memc p + 0x050 := by
  show 0x4060 ≠ 0x10000 + p * 0x1000 + 0x050
  omega

theorem Blk.tmem_apart (d : Nat) : 0x4060 ≠ Blk.base .tmem d + 0x054 := by
  show 0x4060 ≠ 0x400000 * (d + 1) + 0x1000 + 0x054
  omega

/-- No memory's corrected errors are counted where the scheduler counts its cancelled groups. -/
theorem State.eccHome_apart {s : State} {a : Nat} {e : Blk × Nat × Nat × Nat} (h : s.eccHome a = some e) :
    0x4060 ≠ e.1.base e.2.1 + e.2.2.1 := by
  rw [State.eccHome_eq] at h
  generalize s.portOf a = p at h
  generalize s.target a 1 = t at h
  rcases t with _ | ⟨_ | _ | _ | d⟩
  · cases h
  all_goals obtain rfl := Option.some.inj h
  · exact Blk.memc_apart p
  · decide
  · decide
  · exact Blk.tmem_apart d

theorem State.logFault_follows (s : State) (b : Blk) (i cls action addr commands moved us : Nat) :
    s.Follows (s.logFault b i cls action addr commands moved us) :=
  ⟨s.logFaultAt_raises _ _ _ _ _ _ _ _ _, .of_cmds (s.logFault_only _ _ _ _ _ _ _ _ .cmds rfl), s.logFaultAt_regs _ _ _ _ _ _ _ _ _ (by decide)⟩

theorem State.correctWord_follows (s : State) (w : Nat) : s.Follows (s.correctWord w) := by
  have hsoft : s.Follows { s with softWords := s.softWords.filter (· != w) } := .of_only Only.set_softWords (by decide)
  unfold State.correctWord
  cases hhome : s.eccHome (8 * w) with
  | none => exact hsoft
  | some e =>
    obtain ⟨b, i, off, irq⟩ := e
    have hpulse (u : State) : u.Follows (if b == .memc then u else u.pulse b i 0x12 1 none) := .ite (.refl u) (u.pulse_follows _ _ _ _ _)
    have hcount (u : State) : u.Follows ((u.bump b i off 1).irq b i (1 <<< irq)) :=
      (u.bump_follows b i off 1 (State.eccHome_apart hhome)).trans (State.irq_follows _ _ _ _)
    exact ((hsoft.trans (hpulse _)).trans (hcount _)).trans (State.logFault_follows _ _ _ _ _ _ _ _ _)

theorem State.unitCorr_raster (s : State) : s.unitCorr .raster 0 = (s.bump .raster 0 0x074 1).irq .raster 0 0b10 := rfl

theorem State.correctReads_follows (s : State) (rs : List (Nat × Nat)) : s.Follows (s.correctReads .raster 0 rs) := by
  have hcorr (t : State) : t.Follows (t.unitCorr .raster 0) := by
    rw [State.unitCorr_raster]
    exact (t.bump_follows .raster 0 0x074 1 (by decide)).trans (State.irq_follows _ _ _ _)
  unfold State.correctReads State.correctRead
  exact .foldl fun y r => .foldl fun z w => (z.correctWord_follows w).trans (hcorr _)

theorem State.chunkError_follows (s : State) (e : Nat × Nat) : s.Follows (s.chunkError e) :=
  .of_raises (RaisesOnly.ite ((s.irq_raises _ _ _).trans (State.err_raises _ _ _ _ _ _)) (RaisesOnly.refl s)) (s.chunkError_only e) (by decide)

theorem State.endPass_follows (s : State) (p : RPass) : s.Follows (s.endPass p) := by
  have hdrop (t : State) : t.Follows (t.dropPass p.uid).rasterRest :=
    (State.Follows.of_only (State.dropPass_only t p.uid) (by decide)).trans (State.rasterRest_follows _)
  unfold State.endPass
  split
  · exact .refl s
  · split
    · exact (State.Follows.of_ends (s.faultWith_onlyEnds _ _ _ _) (s.faultWith_only _ _ _ _)).trans (hdrop _)
    · exact .ite ((State.Follows.of_ends (s.endCmd_onlyEnds _ _ _) (s.endCmd_only _ _ _)).trans (hdrop _)) (.refl s)

theorem State.settleRaster_follows (s : State) : s.Follows s.settleRaster :=
  (State.Follows.of_only s.dropDead_only (by decide)).trans (.foldl fun y p => y.endPass_follows p)

theorem State.flushBin_follows (s : State) (uid k : Nat) : s.Follows (s.flushBin uid k) := by
  unfold State.flushBin
  split
  · exact .refl s
  · dsimp only
    split
    · exact (State.Follows.of_only (State.putPass_only _ _) (by decide)).trans (State.chunkError_follows _ _)
    · have hput (ws : List (Nat × List Byte)) (a : Nat) (bs : List Byte) (q : RPass) : s.Follows (((s.putAll ws).devPut a bs).putPass q) :=
        .of_only (fs := [.badWords, .mem, .raster, .softWords]) ((State.putPass_only _ q).step (by decide)
          ((State.devPut_only _ a bs).step (by decide) ((State.putAll_only s ws).mono (by decide)))) (by decide)
      have hcount (t : State) : t.Follows ((t.bump .raster 0 0x064 1).pulse .raster 0 0x12 1 none) :=
        (t.bump_follows .raster 0 0x064 1 (by decide)).trans (State.pulse_follows _ _ _ _ _ _)
      have hbin (ws : List (Nat × List Byte)) (a : Nat) (bs : List Byte) (q : RPass) (rs : List (Nat × Nat)) :
          s.Follows ((((((s.putAll ws).devPut a bs).putPass q).correctReads .raster 0 rs).bump .raster 0 0x064 1).pulse .raster 0 0x12 1 none) :=
        ((hput ws a bs q).trans (State.correctReads_follows _ rs)).trans (hcount _)
      split
      · exact (hbin _ _ _ _ _).trans (.of_only (State.readyTile_only _ _ _) (by decide))
      · exact hbin _ _ _ _ _

theorem State.partialFlush_follows (s : State) : s.Follows s.partialFlush := by
  have hbins (l : List (Nat × Nat)) : s.Follows (l.foldl (fun (t : State) e => t.flushBin e.1 e.2) s) :=
    .foldl fun y e => y.flushBin_follows e.1 e.2
  unfold State.partialFlush
  dsimp only
  split
  · exact .refl s
  · exact ((hbins _).trans (State.irq_follows _ _ _ _)).trans (State.settleRaster_follows _)

theorem State.refInto_follows (s : State) (c : Cmd) (x : Packet) (e : Nat × Nat) : s.Follows (s.refInto c x e).1 :=
  .of_only (s.refInto_only c x e) (by decide)

theorem State.growFault_follows (s : State) (uid : Nat) : s.Follows (s.growFault uid) :=
  ((s.edge_follows .raster 0 0x20 _ none).trans (.of_only (State.free_only _) (by decide))).trans
    (State.Follows.trans (.of_only Only.set_raster (by decide)) (State.irq_follows _ _ _ _))

theorem State.park_follows (s : State) (uid : Nat) : s.Follows (s.park uid) :=
  (s.edge_follows .raster 0 0x21 _ none).trans (.of_only Only.set_raster (by decide))

theorem State.refOne_follows (c : Cmd) (late : Option (Nat × Nat)) (x : Packet) (acc : State × Bool) (e : Nat × Nat) :
    acc.1.Follows (State.refOne c late x acc e).1 := by
  have hstep (t : State) (d : Nat × Nat) : t.Follows (t.setDrawn c.uid d) := .of_only (State.setDrawn_only t c.uid d) (by decide)
  have hinto := acc.1.refInto_follows c x e
  have hflush := (hinto.trans (State.partialFlush_follows _)).trans (State.refInto_follows (acc.1.refInto c x e).1.partialFlush c x e)
  unfold State.refOne
  dsimp only
  split
  · exact .refl _
  · split
    · exact hinto.trans (hstep _ _)
    · split
      · exact hinto.trans (State.growFault_follows _ _)
      · split
        · exact hflush.trans (hstep _ _)
        · exact hflush.trans (State.park_follows _ _)

theorem State.recordOne_follows (c : Cmd) (late : Option (Nat × Nat)) (acc : State × Bool) (x : Packet) :
    acc.1.Follows (State.recordOne c late acc x).1 := by
  have hdrawn (t : State) (d : Nat × Nat) : t.Follows (t.setDrawn c.uid d) := .of_only (State.setDrawn_only t c.uid d) (by decide)
  have hrefs (es : List (Nat × Nat)) : acc.1.Follows (es.foldl (State.refOne c late x) (acc.1, false)).1 :=
    State.Follows.foldl_fst (x := (acc.1, false)) fun y a => State.refOne_follows c late x y a
  unfold State.recordOne
  dsimp only
  split
  · exact .refl _
  · split
    · exact .refl _
    · split
      · exact (State.bump_follows _ .raster 0 0x06C 1 (by decide)).trans (hdrawn _ _)
      · split
        · exact hrefs _
        · refine ((hrefs _).trans (.ite (.refl _) ?_)).trans (hdrawn _ _)
          exact (State.bump_follows _ .raster 0 0x060 1 (by decide)).trans (State.pulse_follows _ _ _ _ _ _)

theorem State.drawOn_follows (s : State) (c : Cmd) : s.Follows (s.drawOn c) := by
  have hset (t : State) (r : Raster) : t.Follows { t with raster := r } := .of_only Only.set_raster (by decide)
  unfold State.drawOn State.drawLate
  dsimp only
  split
  · exact (hset s _).trans (.of_ends (State.faultWith_onlyEnds _ _ _ _ _) (State.faultWith_only _ _ _ _ _))
  · have hrecords (t : State) (xs : List Packet) : t.Follows (xs.foldl (State.recordOne c none) (t.correctReads .raster 0 (s.recordReads c), false)).1 :=
      (t.correctReads_follows _).trans (State.Follows.foldl_fst (x := (t.correctReads .raster 0 (s.recordReads c), false))
        fun y a => State.recordOne_follows c none y a)
    split
    · exact (hset s _).trans (hrecords _ _)
    · exact (((hset s _).trans (hrecords _ _)).trans (hset _ _)).trans (.of_ends (State.endCmd_onlyEnds _ _ _ _) (State.endCmd_only _ _ _ _))

theorem State.resumeStalled_follows (s : State) : s.Follows s.resumeStalled := by
  unfold State.resumeStalled
  refine .foldl fun y e => ?_
  split
  · exact .ite (y.drawOn_follows _) (.refl y)
  · exact .refl y

theorem State.afterRow_follows (s : State) : s.Follows s.afterRow :=
  (s.settleRaster_follows.trans (State.resumeStalled_follows _)).trans (.of_only (State.track_only _) (by decide))

end Sys2Proof.Machine
end

section
set_option Elab.async false
namespace Sys2Proof.Machine

/-! ### Tile groups at a deadline (R47) -/

theorem State.group?_key {s : State} {u k : Nat} {g : Group} (h : s.group? u k = some g) : g.step = u ∧ g.tile = k := by
  simpa using List.find?_some h

theorem State.putGroup_group?_of (s : State) {g : Group} {u k : Nat} (hstep : g.step = u) (htile : g.tile = k) :
    (s.putGroup g).group? u k = some g := by
  subst hstep htile
  exact s.putGroup_group? g

/-- A tile group that has ended. -/
def Group.over (g : Group) (now : Nat) : Group := { g with live := false, slot := none, endedAt := some (g.endedAt.getD now) }

theorem State.endGroup_groups (s : State) (x : Step) (tile : Nat) :
    (s.endGroup x tile).groups = s.groups ∨
      ∃ g, s.group? x.uid tile = some g ∧ (s.endGroup x tile).groups = (s.putGroup (g.over s.now)).groups := by
  unfold State.endGroup
  split
  · exact .inl rfl
  · next g hg =>
    split
    · exact .inl rfl
    · exact .inr ⟨g, hg, rfl⟩

theorem State.endGroup_group?_other (s : State) (x : Step) (tile : Nat) {u k : Nat} (h : (u, k) ≠ (x.uid, tile)) :
    (s.endGroup x tile).group? u k = s.group? u k := by
  rcases s.endGroup_groups x tile with hs | ⟨g, hg, hs⟩
  · exact State.group?_congr hs u k
  · obtain ⟨hstep, htile⟩ := State.group?_key hg
    rw [State.group?_congr hs, State.putGroup_group?_other s (g := g.over s.now)]
    rwa [show (g.over s.now).step = x.uid from hstep, show (g.over s.now).tile = tile from htile]

theorem State.endGroup_cancelled {s : State} {x : Step} {tile k : Nat} (h : ∃ g, s.group? x.uid k = some g ∧ g.cancelled = true) :
    ∃ g, (s.endGroup x tile).group? x.uid k = some g ∧ g.cancelled = true := by
  by_cases hk : k = tile
  · subst hk
    rcases s.endGroup_groups x k with hs | ⟨g, hg, hs⟩
    · rwa [State.group?_congr hs]
    · obtain ⟨hstep, htile⟩ := State.group?_key hg
      obtain ⟨g', hg', hc⟩ := h
      obtain rfl : g = g' := Option.some.inj (hg.symm.trans hg')
      rw [State.group?_congr hs, State.putGroup_group?_of s (g := g.over s.now) hstep htile]
      exact ⟨_, rfl, hc⟩
  · rwa [State.endGroup_group?_other s x tile (by simp [hk])]

/-- From `s` to `t` the groups of other steps are as they were, and the cancelled ones of step `u` are still cancelled. -/
structure State.KeepsCancelled (u : Nat) (s t : State) : Prop where
  other : ∀ v k, v ≠ u → t.group? v k = s.group? v k
  own : ∀ k, (∃ g, s.group? u k = some g ∧ g.cancelled = true) → ∃ g, t.group? u k = some g ∧ g.cancelled = true

namespace State.KeepsCancelled

theorem of_groups {u : Nat} {s t : State} (h : t.groups = s.groups) : KeepsCancelled u s t :=
  ⟨fun v k _ => State.group?_congr h v k, fun k hk => by rwa [State.group?_congr h]⟩

theorem trans {u : Nat} {s t v : State} (h : KeepsCancelled u s t) (k : KeepsCancelled u t v) : KeepsCancelled u s v :=
  ⟨fun w i hw => (k.other w i hw).trans (h.other w i hw), fun i hi => k.own i (h.own i hi)⟩

theorem foldl {α : Type} {u : Nat} {s : State} {g : State → α → State} {l : List α} (hg : ∀ (y : State) a, KeepsCancelled u y (g y a)) :
    KeepsCancelled u s (l.foldl g s) := by
  induction l generalizing s with
  | nil => exact of_groups rfl
  | cons a l ih => exact (hg s a).trans ih

end State.KeepsCancelled

theorem State.endGroup_keepsCancelled (s : State) (x : Step) (tile : Nat) : State.KeepsCancelled x.uid s (s.endGroup x tile) :=
  ⟨fun _ _ hv => s.endGroup_group?_other x tile (by simp [hv]), fun _ => State.endGroup_cancelled⟩

theorem State.reviewStep_keepsCancelled (s : State) (u : Nat) : State.KeepsCancelled u s (s.reviewStep u) := by
  unfold State.reviewStep
  split
  · exact .of_groups rfl
  · next x hx =>
    obtain rfl := State.step?_uid hx
    refine .foldl fun y g => ?_
    unfold State.reviewGroup
    split
    · exact .of_groups rfl
    · exact (State.KeepsCancelled.of_groups (State.settleTile_only y x _ .groups rfl)).trans (State.endGroup_keepsCancelled _ x _)

/-- The group that a cancellation marks. -/
theorem State.cancelMark_groups (s : State) (x : Step) (t : Nat) :
    (s.cancelMark x t).groups = ((s.endLate fun c => c.step == some x.uid && c.tile == t).putGroup
      { (s.group? x.uid t).getD (Group.fresh x.uid t) with cancelled := true }).groups := s.cancelMark_only x t .groups rfl

theorem State.groupOrFresh_key (s : State) (u t : Nat) :
    ((s.group? u t).getD (Group.fresh u t)).step = u ∧ ((s.group? u t).getD (Group.fresh u t)).tile = t := by
  cases h : s.group? u t with
  | none => exact ⟨rfl, rfl⟩
  | some g => exact State.group?_key h

theorem State.cancelMark_group? (s : State) (x : Step) (t : Nat) :
    ∃ g, (s.cancelMark x t).group? x.uid t = some g ∧ g.cancelled = true := by
  obtain ⟨hstep, htile⟩ := s.groupOrFresh_key x.uid t
  refine ⟨{ (s.group? x.uid t).getD (Group.fresh x.uid t) with cancelled := true }, ?_, rfl⟩
  have hput := (s.endLate fun c => c.step == some x.uid && c.tile == t).putGroup_group?
    { (s.group? x.uid t).getD (Group.fresh x.uid t) with cancelled := true }
  rw [hstep, htile] at hput
  rw [State.group?_congr (s.cancelMark_groups x t)]
  exact hput

theorem State.cancelMark_group?_other (s : State) (x : Step) (t : Nat) {u k : Nat} (h : (u, k) ≠ (x.uid, t)) :
    (s.cancelMark x t).group? u k = s.group? u k := by
  obtain ⟨hstep, htile⟩ := s.groupOrFresh_key x.uid t
  rw [State.group?_congr (s.cancelMark_groups x t),
    State.putGroup_group?_other _ (g := { (s.group? x.uid t).getD (Group.fresh x.uid t) with cancelled := true })
      (by rw [hstep, htile]; exact h),
    State.group?_congr (State.endLate_only s _ .groups rfl)]

theorem State.cancelGroup_cancelled (s : State) (x : Step) (t : Nat) :
    ∃ g, (s.cancelGroup x t).group? x.uid t = some g ∧ g.cancelled = true :=
  State.endGroup_cancelled (s.cancelMark_group? x t)

theorem State.cancelGroup_group?_other (s : State) (x : Step) (t : Nat) {u k : Nat} (h : (u, k) ≠ (x.uid, t)) :
    (s.cancelGroup x t).group? u k = s.group? u k := by
  rw [State.cancelGroup_eq, State.endGroup_group?_other _ x t h, State.cancelMark_group?_other s x t h]

theorem State.cancelGroup_keepsCancelled (s : State) (x : Step) (t : Nat) : State.KeepsCancelled x.uid s (s.cancelGroup x t) := by
  refine ⟨fun v k hv => s.cancelGroup_group?_other x t (by simp [hv]), fun k hk => ?_⟩
  by_cases ht : k = t
  · rw [ht]
    exact s.cancelGroup_cancelled x t
  · rwa [s.cancelGroup_group?_other x t (by simp [ht])]

theorem State.cancelGroups_cancelled (x : Step) {l : List Nat} {s : State} {k : Nat} (hk : k ∈ l) :
    ∃ g, (l.foldl (fun (t : State) j => t.cancelGroup x j) s).group? x.uid k = some g ∧ g.cancelled = true := by
  induction l generalizing s with
  | nil => cases hk
  | cons a l ih =>
    rcases List.mem_cons.mp hk with rfl | hk
    · have hrest : State.KeepsCancelled x.uid (s.cancelGroup x k) (l.foldl (fun (t : State) j => t.cancelGroup x j) (s.cancelGroup x k)) :=
        .foldl fun y j => y.cancelGroup_keepsCancelled x j
      exact hrest.own k (s.cancelGroup_cancelled x k)
    · exact ih hk

theorem State.cancelGroups_group?_other (x : Step) {l : List Nat} {s : State} {k : Nat} (hk : k ∉ l) :
    (l.foldl (fun (t : State) j => t.cancelGroup x j) s).group? x.uid k = s.group? x.uid k := by
  induction l generalizing s with
  | nil => rfl
  | cons a l ih =>
    simp only [List.mem_cons, not_or] at hk
    exact (ih hk.2).trans (s.cancelGroup_group?_other x a (by simp [hk.1]))

/-! ### The commands that a deadline ends (R47, R206) -/

theorem State.endLate_onlyEnds (s : State) (p : Cmd → Bool) : s.OnlyEnds (s.endLate p) := by
  obtain ⟨q, hq, -, -⟩ := s.endLate_cmds p
  exact (s.endAll_onlyEnds q .late 0).trans (.of_cmds hq)

/-- Of the commands meant only the ME's running one still waits. -/
theorem State.endLate_ended {s : State} {p : Cmd → Bool} {d : Cmd} (hd : d ∈ (s.endLate p).cmds) (hp : p d = true)
    (hplace : ∀ c : Cmd, c.pkt = d.pkt → c.step = d.step → p c = p d) (hu : d.unstarted = true) : s.me.uid = some d.uid := by
  obtain ⟨q, hq, -, hme⟩ := s.endLate_cmds p
  rw [hq] at hd
  obtain ⟨c, -, hc⟩ := List.mem_map.mp hd
  split at hc
  · rw [← hc] at hu
    cases hu
  · next hnot =>
    subst hc
    exact hme c hp (by simpa [hu] using hnot)

theorem State.endLate_me (s : State) (p : Cmd → Bool) : (s.endLate p).me.uid = s.me.uid ∨ (s.endLate p).me.uid = none := by
  unfold State.endLate
  split
  · split
    · exact .inl rfl
    · split
      · exact .inr rfl
      · exact .inl rfl
  · exact .inl rfl

theorem State.cancelGroup_me (s : State) (x : Step) (t : Nat) : (s.cancelGroup x t).me.uid = s.me.uid ∨ (s.cancelGroup x t).me.uid = none := by
  have hmark : (s.cancelGroup x t).me = (s.endLate fun c => c.step == some x.uid && c.tile == t).me := by
    rw [State.cancelGroup_eq, State.endGroup_only _ x t .me rfl, s.cancelMark_only x t .me rfl]
    rfl
  rw [hmark]
  exact s.endLate_me _

theorem State.cancelMark_onlyEnds (s : State) (x : Step) (t : Nat) : s.OnlyEnds (s.cancelMark x t) :=
  (s.endLate_onlyEnds _).trans (.of_cmds (s.cancelMark_cmds x t))

theorem State.cancelGroup_onlyEnds (s : State) (x : Step) (t : Nat) : s.OnlyEnds (s.cancelGroup x t) :=
  (s.cancelMark_onlyEnds x t).trans (.of_keepsLive ((s.cancelMark x t).endGroup_keepsLive x t))

theorem State.cancelGroups_onlyEnds (x : Step) (l : List Nat) (s : State) : s.OnlyEnds (l.foldl (fun (t : State) j => t.cancelGroup x j) s) := by
  induction l generalizing s with
  | nil => exact .of_cmds rfl
  | cons a l ih => exact (s.cancelGroup_onlyEnds x a).trans (ih _)

/-- Of the commands of a cancelled group only the ME's running one still waits. -/
theorem State.cancelGroup_ended {s : State} {x : Step} {t : Nat} {d : Cmd} (hd : d ∈ (s.cancelGroup x t).cmds) (hstep : d.step = some x.uid)
    (htile : d.tile = t) (hu : d.unstarted = true) : s.me.uid = some d.uid := by
  have hmark : d ∈ (s.cancelMark x t).cmds := ((s.cancelMark x t).endGroup_keepsLive x t).of_mem hd
  rw [State.cancelMark_cmds] at hmark
  exact State.endLate_ended hmark (by simp [hstep, htile]) (fun c hc hcs => by rw [hcs, Cmd.tile_congr hc]) hu

theorem State.cancelGroups_ended (x : Step) {l : List Nat} {s : State} {d : Cmd} (hd : d ∈ (l.foldl (fun (t : State) j => t.cancelGroup x j) s).cmds)
    (hstep : d.step = some x.uid) (htile : d.tile ∈ l) (hu : d.unstarted = true) : s.me.uid = some d.uid := by
  induction l generalizing s with
  | nil => cases htile
  | cons a l ih =>
    rcases List.mem_cons.mp htile with ht | ht
    · obtain ⟨c, hc, hcu, huid, hpkt, hcstep⟩ := State.cancelGroups_onlyEnds x l (s.cancelGroup x a) d hd hu
      rw [← huid]
      exact State.cancelGroup_ended hc (hcstep.trans hstep) ((Cmd.tile_congr hpkt.symm).symm.trans ht) hcu
    · have hme := ih hd ht
      rcases s.cancelGroup_me x a with h | h
      · rwa [h] at hme
      · rw [h] at hme
        cases hme

/-! ### The count of cancelled groups (R50) -/

theorem State.meDrop_count (s : State) : s.meDrop.regs.find? 0x4060 = s.regs.find? 0x4060 := by
  have hdrop : s.meDrop.regs = s.unstall.regs := rfl
  rw [hdrop]
  unfold State.unstall
  dsimp only
  split
  · exact State.find?_bump_other s .me 0 0x06C _ (by decide)
  · rfl

theorem State.endLate_count (s : State) (p : Cmd → Bool) : (s.endLate p).regs.find? 0x4060 = s.regs.find? 0x4060 := by
  unfold State.endLate
  split
  · split
    · rfl
    · split
      · exact State.meDrop_count (s.endAll p .late 0)
      · rfl
  · rfl

theorem State.reg_of_count {s t : State} (h : t.regs.find? 0x4060 = s.regs.find? 0x4060) (hi : t.insole = s.insole) (hp : t.part = s.part) :
    t.reg .sched 0 0x060 = s.reg .sched 0 0x060 := by
  unfold State.reg State.resetValue State.variant
  rw [show Blk.base .sched 0 + 0x060 = 0x4060 from rfl, h, hi, hp]

theorem State.cancelGroup_reg (s : State) (x : Step) (t : Nat) :
    (s.cancelGroup x t).reg .sched 0 0x060 = min (s.reg .sched 0 0x060 + 1) (2 ^ 32 - 1) := by
  have hmark := s.cancelMark_only x t
  have hend := (s.cancelMark x t).endGroup_only x t
  have hlate := s.endLate_only fun c => c.step == some x.uid && c.tile == t
  rw [State.cancelGroup_eq, State.reg_congr (hend .regs rfl) (hend .insole rfl) (hend .part rfl),
    State.reg_congr (hmark .regs rfl) (hmark .insole rfl) (hmark .part rfl), State.reg_bump]
  refine congrArg (fun n => min (n + 1) (2 ^ 32 - 1)) ?_
  exact State.reg_of_count (s.endLate_count _) (hlate .insole rfl) (hlate .part rfl)

theorem State.cancelGroups_reg (x : Step) (l : List Nat) (s : State) :
    (l.foldl (fun (t : State) j => t.cancelGroup x j) s).reg .sched 0 0x060 = min (s.reg .sched 0 0x060 + l.length) (2 ^ 32 - 1) := by
  induction l generalizing s with
  | nil =>
    have := s.reg_lt .sched 0 0x060
    simp only [List.foldl_nil, List.length_nil]
    omega
  | cons a l ih =>
    rw [List.foldl_cons, ih, State.cancelGroup_reg, List.length_cons]
    omega

/-! ### The scheduler's part of a row deadline -/

theorem State.lateTiles_now (s : State) (n : Nat) (x : Step) (r : Nat) : State.lateTiles { s with now := n } x r = s.lateTiles x r := rfl

/-- The state in which the row's groups are cancelled and counted in the frame's table. -/
def State.lateCounted (s : State) (x : Step) (r : Nat) : State :=
  (s.lateGroups x r).putLateCount x (x.cancelled + (s.lateTiles x r).length)

theorem State.lateRest_eq (s : State) (x : Step) (r : Nat) :
    s.lateRest x r = if (x.rowsWith r).contains x.lastRow then ((s.lateCounted x r).endLate fun c => c.step == some x.uid).reviewStep x.uid
      else s.lateCounted x r := rfl

theorem State.lateCounted_only (s : State) (x : Step) (r : Nat) : Only [.badWords, .mem, .softWords] (s.lateGroups x r) (s.lateCounted x r) :=
  (State.putLateCount_only _ _ _).mono (by decide)

theorem State.lateRow_rest (s : State) (x : Step) (r : Nat) : (s.lateRest x r).Follows (s.lateRow x r) := by
  rw [State.lateRow_eq]
  exact .ite (.refl _) (State.irq_follows _ _ _ _)

theorem State.lateRow_groups (s : State) (x : Step) (r : Nat) : (s.lateRow x r).groups = (s.lateRest x r).groups := by
  rw [State.lateRow_eq]
  split
  · rfl
  · exact State.irq_only _ _ _ _ .groups rfl

theorem State.lateRest_onlyEnds (s : State) (x : Step) (r : Nat) : (s.lateGroups x r).OnlyEnds (s.lateRest x r) := by
  have hcount : (s.lateGroups x r).OnlyEnds (s.lateCounted x r) := .of_cmds (s.lateCounted_only x r .cmds rfl)
  rw [State.lateRest_eq]
  split
  · exact (hcount.trans (State.endLate_onlyEnds _ _)).trans (.of_keepsLive (State.reviewStep_keepsLive _ _))
  · exact hcount

theorem State.lateRest_keepsCancelled (s : State) (x : Step) (r : Nat) : State.KeepsCancelled x.uid (s.lateGroups x r) (s.lateRest x r) := by
  have hcount : State.KeepsCancelled x.uid (s.lateGroups x r) (s.lateCounted x r) := .of_groups (s.lateCounted_only x r .groups rfl)
  rw [State.lateRest_eq]
  split
  · exact (hcount.trans (.of_groups (State.endLate_only _ _ .groups rfl))).trans (State.reviewStep_keepsCancelled _ _)
  · exact hcount

theorem State.lateRest_count (s : State) (x : Step) (r : Nat) : (s.lateRest x r).regs.find? 0x4060 = (s.lateGroups x r).regs.find? 0x4060 := by
  have hcount : (s.lateCounted x r).regs = (s.lateGroups x r).regs := s.lateCounted_only x r .regs rfl
  rw [State.lateRest_eq]
  split
  · rw [State.reviewStep_only _ _ .regs rfl, State.endLate_count, hcount]
  · rw [hcount]

theorem State.lateRow_reg (s : State) (x : Step) (r : Nat) :
    (s.lateRow x r).reg .sched 0 0x060 = min (s.reg .sched 0 0x060 + (s.lateTiles x r).length) (2 ^ 32 - 1) := by
  have hrow := s.lateRow_only x r
  have hgroups := s.lateGroups_only x r
  have hput : (s.putStep (s.lateStep x r)).reg .sched 0 0x060 = s.reg .sched 0 0x060 := State.reg_congr rfl rfl rfl _ _ _
  rw [State.reg_of_count (((s.lateRow_rest x r).count).trans (s.lateRest_count x r))
    ((hrow .insole rfl).trans (hgroups .insole rfl).symm) ((hrow .part rfl).trans (hgroups .part rfl).symm), State.lateGroups,
    State.cancelGroups_reg, hput]

theorem State.lateRow_group?_cancelled (s : State) (x : Step) (r : Nat) {k : Nat} (hk : k ∈ s.lateTiles x r) :
    ∃ g, (s.lateRow x r).group? x.uid k = some g ∧ g.cancelled = true := by
  rw [State.group?_congr (s.lateRow_groups x r)]
  exact (s.lateRest_keepsCancelled x r).own k (State.cancelGroups_cancelled x hk)

theorem State.lateRow_group?_other (s : State) (x : Step) (r : Nat) {u k : Nat} (hu : u ≠ x.uid) : (s.lateRow x r).group? u k = s.group? u k := by
  have hgroups : State.KeepsCancelled x.uid (s.putStep (s.lateStep x r)) (s.lateGroups x r) := .foldl fun y j => y.cancelGroup_keepsCancelled x j
  rw [State.group?_congr (s.lateRow_groups x r), (s.lateRest_keepsCancelled x r).other u k hu, hgroups.other u k hu]
  rfl

theorem State.lateRow_group?_kept (s : State) (x : Step) (r : Nat) {k : Nat} (hlast : x.lastRow ∉ x.rowsWith r) (hk : k ∉ s.lateTiles x r) :
    (s.lateRow x r).group? x.uid k = s.group? x.uid k := by
  have hrest : (s.lateRest x r).groups = (s.lateGroups x r).groups := by
    rw [State.lateRest_eq, if_neg (by simpa using hlast)]
    exact s.lateCounted_only x r .groups rfl
  rw [State.group?_congr (s.lateRow_groups x r), State.group?_congr hrest, State.lateGroups, State.cancelGroups_group?_other x hk]
  rfl

theorem State.lateRow_ended {s : State} {x : Step} {r : Nat} {d : Cmd} (hd : d ∈ (s.lateRow x r).cmds) (hstep : d.step = some x.uid)
    (htile : d.tile ∈ s.lateTiles x r) (hu : d.unstarted = true) : s.me.uid = some d.uid := by
  obtain ⟨c, hc, hcu, huid, hpkt, hcstep⟩ := ((s.lateRest_onlyEnds x r).trans (s.lateRow_rest x r).ends) d hd hu
  rw [← huid]
  exact State.cancelGroups_ended x (s := s.putStep (s.lateStep x r)) hc (hcstep.trans hstep) (by rwa [Cmd.tile_congr hpkt]) hcu

theorem State.lateRow_raw {s : State} {x : Step} {r : Nat} (h : s.lateTiles x r ≠ []) : ((s.lateRow x r).page .sched 0).raw.getLsbD 0 = true := by
  rw [State.lateRow_eq, if_neg (by simpa using h), State.irq_page]
  simp

/-! ### ROW_DEADLINE of a step that no planned frame is bound to -/

theorem execRowDeadline_unbound {s : State} {x : Step} {row : Nat} (hx : s.step? x.uid = some x) (hf : x.frame.bind s.plan = none)
    (ho : x.rowOpen row = true) : exec (.rowDeadline (some x.uid) row) s = .next ((s.at (x.rowDeadline row)).lateRow x row).afterRow := by
  show execRowDeadline (some x.uid) row s = _
  unfold execRowDeadline
  simp only [hx, hf, State.stepRow, ho, if_true]

/-- The scheduler's part of ROW_DEADLINE: what the raster engine does afterwards adds to none of it. -/
theorem rowDeadline_cancels {s : State} {row : Nat} {x : Step} {tiles : List Nat} (hx : s.step? x.uid = some x) (hf : x.frame.bind s.plan = none)
    (ho : x.rowOpen row = true) (ht : tiles = s.lateTiles x row) :
    ∃ t, exec (.rowDeadline (some x.uid) row) s = .next t ∧
      t.step? x.uid = some { x with lateRows := x.lateRows ++ x.rowsWith row, cancelled := x.cancelled + tiles.length } ∧
      (∀ k ∈ tiles, ∃ g, t.group? x.uid k = some g ∧ g.cancelled = true) ∧
      (∀ d ∈ t.cmds, d.step = some x.uid → d.tile ∈ tiles → s.me.uid ≠ some d.uid → d.unstarted = false) ∧
      (∀ u k, u ≠ x.uid → t.group? u k = s.group? u k) ∧
      (x.lastRow ∉ x.rowsWith row → ∀ k, k ∉ tiles → t.group? x.uid k = s.group? x.uid k) ∧
      t.reg .sched 0 0x060 = min (s.reg .sched 0 0x060 + tiles.length) (2 ^ 32 - 1) ∧
      (tiles ≠ [] → (t.page .sched 0).raw.getLsbD 0 = true) ∧
      t.now = laterTime s.now (x.rowDeadline row % 2 ^ 64) ∧
      Only [.badWords, .cmds, .ctrs, .engines, .freeCount, .groups, .hostMem, .log, .me, .mem, .msix, .now, .pages, .raster, .regs, .softWords,
        .steps] s t := by
  subst ht
  rw [execRowDeadline_unbound hx hf ho]
  have hnow := s.at_now (x.rowDeadline row)
  obtain ⟨n, hn⟩ := s.at_exists (x.rowDeadline row)
  rw [hn] at hnow ⊢
  rw [← s.lateTiles_now n]
  have hrow := State.lateRow_only { s with now := n } x row
  have hafter := (State.lateRow { s with now := n } x row).afterRow_only
  have hfollow := (State.lateRow { s with now := n } x row).afterRow_follows
  have hgroups (u k : Nat) := State.group?_congr (hafter .groups rfl) u k
  refine ⟨_, rfl, ?_, fun k hk => ?_, fun d hd hstep htile hme => ?_, fun u k hu => ?_, fun hlast k hk => ?_, ?_, fun hne => ?_,
    (hafter .now rfl).trans ((hrow .now rfl).trans hnow), hafter.step (by decide) (hrow.step (by decide) (Only.set_now.mono (by decide)))⟩
  · rw [State.step?_congr (hafter .steps rfl), State.step?_congr (State.lateRow_steps _ x row)]
    exact State.putStep_step? (x := State.lateStep { s with now := n } x row) (show (s.step? x.uid).isSome by rw [hx]; rfl)
  · rw [hgroups]
    exact State.lateRow_group?_cancelled _ x row hk
  · cases hu : d.unstarted with
    | false => rfl
    | true =>
      obtain ⟨c, hc, hcu, huid, hpkt, hcstep⟩ := hfollow.ends d hd hu
      refine absurd ?_ hme
      rw [← huid]
      exact State.lateRow_ended (s := { s with now := n }) hc (hcstep.trans hstep) (by rwa [Cmd.tile_congr hpkt]) hcu
  · rw [hgroups]
    exact State.lateRow_group?_other _ x row hu
  · rw [hgroups]
    exact State.lateRow_group?_kept _ x row hlast hk
  · rw [State.reg_of_count hfollow.count (hafter .insole rfl) (hafter .part rfl)]
    exact State.lateRow_reg _ x row
  · exact hfollow.raises.raw _ _ _ (State.lateRow_raw hne)

end Sys2Proof.Machine
end

section
set_option Elab.async false
namespace Sys2Proof.Machine

/-! ### Numbers in tile entries (R66) -/

theorem leNat_lt (bs : List Byte) : leNat bs < 256 ^ bs.length := by
  induction bs with
  | nil => simp [leNat]
  | cons b bs ih =>
    have hb : b.toNat < 256 := b.isLt
    simp only [leNat, List.length_cons, pow_succ]
    omega

theorem bits_eq (x hi lo : Nat) : bits x hi lo = x / 2 ^ lo % 2 ^ (hi + 1 - lo) := by rw [bits, Nat.shiftRight_eq_div_pow]

theorem setBits_state_lt {x : Nat} (v : Nat) (h : x < 2 ^ 64) : setBits x 63 60 v < 2 ^ 64 := by
  simp only [setBits, bits_eq, Nat.shiftLeft_eq]
  omega

theorem setBits_kind_lt {x : Nat} (v : Nat) (h : x < 2 ^ 64) : setBits x 59 56 v < 2 ^ 64 := by
  simp only [setBits, bits_eq, Nat.shiftLeft_eq]
  omega

/-! ### What the tile tables depend on (R66 to R70) -/

/-- Two states with the same canvas configuration in force. -/
structure State.SameCanvas (v w : State) : Prop where
  active : w.disp.active = v.disp.active
  noPrev : w.disp.noPrev = v.disp.noPrev
  insole : w.insole = v.insole
  part : w.part = v.part

namespace State.SameCanvas

variable {v w : State}

theorem of_only {fs : List StateField} (h : Only fs v w)
    (hd : [StateField.disp, .insole, .part].all (fun f => !(fieldMask fs).testBit f.idx) = true) : v.SameCanvas w := by
  have hf : ∀ f ∈ [StateField.disp, .insole, .part], (fieldMask fs).testBit f.idx = false := by
    simpa only [List.all_eq_true, Bool.not_eq_true'] using hd
  have hdisp : w.disp = v.disp := h .disp (hf _ (by decide))
  exact ⟨by rw [hdisp], by rw [hdisp], h .insole (hf _ (by decide)), h .part (hf _ (by decide))⟩

theorem refl (v : State) : v.SameCanvas v := ⟨rfl, rfl, rfl, rfl⟩

theorem trans {u : State} (h : v.SameCanvas w) (k : w.SameCanvas u) : v.SameCanvas u :=
  ⟨k.active.trans h.active, k.noPrev.trans h.noPrev, k.insole.trans h.insole, k.part.trans h.part⟩

theorem dcfg (h : v.SameCanvas w) (o : Nat) : w.dcfg o = v.dcfg o := by
  unfold State.dcfg State.resetValue State.variant
  rw [h.active, h.insole, h.part]

theorem table (h : v.SameCanvas w) (f : Nat) : w.table f = v.table f := by
  simp only [State.table, State.stateBase, State.buffers, h.dcfg]

theorem columns (h : v.SameCanvas w) : w.columns = v.columns := by simp only [State.columns, State.canvasW, h.dcfg]

theorem rowOf (h : v.SameCanvas w) (t : Nat) : w.rowOf t = v.rowOf t := by rw [State.rowOf, h.columns]; rfl

theorem canvasRow (h : v.SameCanvas w) (r : Nat) : w.canvasRow r = v.canvasRow r := by rw [State.canvasRow, h.columns]; rfl

end State.SameCanvas

/-- The tables of all buffers lie below the staging window. -/
def State.TablesFit (s : State) : Prop := s.stateBase + 65536 ≤ stagingBase

theorem State.table_le (s : State) (f : Nat) : s.table f + 16384 ≤ s.stateBase + 65536 := by
  have hb : s.buffers = 3 ∨ s.buffers = 4 := by
    unfold State.buffers
    split <;> simp
  have hm : f % s.buffers < 4 := by
    rcases hb with h | h <;> rw [h] <;> omega
  unfold State.table
  omega

/-- The tables of a frame and of the frame before it lie in different buffers. -/
theorem State.table_apart (s : State) {f : Nat} (hf : 0 < f) : s.table (f - 1) + 16384 ≤ s.table f ∨ s.table f + 16384 ≤ s.table (f - 1) := by
  have hb : s.buffers = 3 ∨ s.buffers = 4 := by
    unfold State.buffers
    split <;> simp
  have hne : f % s.buffers ≠ (f - 1) % s.buffers := by
    rcases hb with h | h <;> rw [h] <;> omega
  unfold State.table
  omega

/-- Below the staging window a device address is that of the memory. -/
theorem State.devGet_low {s : State} {a n : Nat} (h : a < stagingBase) : s.devGet a n = s.mem.readRun 0 a n := by
  have hin : inStaging a = false := by
    unfold inStaging
    rw [decide_eq_false (Nat.not_le.mpr h), Bool.false_and]
  unfold State.devGet
  rw [hin, if_neg Bool.false_ne_true]

/-- What tile `k`'s turn at its row's deadline writes in the table at `t`: STANDIN_COUNT and the tile's entry. -/
def tileBytes (t k a : Nat) : Prop := (t + 28 ≤ a ∧ a < t + 30) ∨ (t + 64 + 8 * k ≤ a ∧ a < t + 72 + 8 * k)

/-- Two states with the same configuration whose memories agree but for what the turns of the tiles `ks` of a table write. -/
structure State.AgreeBut (t : Nat) (ks : List Nat) (v w : State) : Prop where
  canvas : v.SameCanvas w
  okv : v.mem.wf 0 = true
  okw : w.mem.wf 0 = true
  read : ∀ a, (∀ k ∈ ks, ¬ tileBytes t k a) → w.mem.read 0 a = v.mem.read 0 a

theorem State.AgreeBut.trans {t : Nat} {ks ls : List Nat} {u v w : State} (h : State.AgreeBut t ks u v) (k : State.AgreeBut t ls v w) :
    State.AgreeBut t (ks ++ ls) u w :=
  ⟨h.canvas.trans k.canvas, h.okv, k.okw, fun a ha =>
    (k.read a fun i hi => ha i (List.mem_append_right _ hi)).trans (h.read a fun i hi => ha i (List.mem_append_left _ hi))⟩

theorem State.AgreeBut.devNat {t : Nat} {ks : List Nat} {v w : State} (h : State.AgreeBut t ks v w) {a n : Nat} (ha : a < stagingBase)
    (hout : ∀ i < n, ∀ k ∈ ks, ¬ tileBytes t k (a + i)) : w.devNat a n = v.devNat a n := by
  unfold State.devNat
  rw [State.devGet_low ha, State.devGet_low ha, Memory.readRun_eq_map a n h.okw, Memory.readRun_eq_map a n h.okv]
  congr 1
  apply List.map_congr_left
  intro i hi
  exact h.read _ (hout i (List.mem_range.mp hi))

section

variable {f : Nat} {ks : List Nat} {v w : State} (h : State.AgreeBut (v.table f) ks v w) (hfit : v.TablesFit) (hks : ∀ k ∈ ks, k < 2040)
include h hfit

/-- The entries of other tiles. -/
theorem State.AgreeBut.entry {j : Nat} (hj : j < 2040) (hne : j ∉ ks) : w.entry f j = v.entry f j := by
  have htab := v.table_le f
  unfold State.TablesFit at hfit
  unfold State.entry
  rw [h.canvas.table]
  refine h.devNat (by omega) fun i hi k hk hb => ?_
  have hkj : k ≠ j := fun hkj => hne (hkj ▸ hk)
  unfold tileBytes at hb
  omega

/-- The header but for STANDIN_COUNT. -/
theorem State.AgreeBut.head {off n : Nat} (ho : off + n ≤ 28 ∨ 30 ≤ off) (hn : off + n ≤ 64) : w.head f off n = v.head f off n := by
  have htab := v.table_le f
  unfold State.TablesFit at hfit
  unfold State.head
  rw [h.canvas.table]
  by_cases hz : n = 0
  · subst hz
    exact h.devNat (by omega) fun i hi => absurd hi (by omega)
  · refine h.devNat (by omega) fun i hi k hk hb => ?_
    unfold tileBytes at hb
    omega

include hks

/-- The whole table of the frame before. -/
theorem State.AgreeBut.before (hf : 0 < f) {off n : Nat} (hn : off + n ≤ 16384) (hz : 0 < n) :
    w.devNat (v.table (f - 1) + off) n = v.devNat (v.table (f - 1) + off) n := by
  have htab := v.table_le (f - 1)
  have hapart := v.table_apart hf
  unfold State.TablesFit at hfit
  refine h.devNat (by omega) fun i hi k hk hb => ?_
  have := hks k hk
  unfold tileBytes at hb
  omega

theorem State.AgreeBut.prevCounts : w.prevCounts f = v.prevCounts f := by
  unfold State.prevCounts
  by_cases hf : 0 < f
  · have hhead : w.head (f - 1) 0 8 = v.head (f - 1) 0 8 := by
      unfold State.head
      rw [h.canvas.table]
      exact State.AgreeBut.before h hfit hks hf (by omega) (by omega)
    rw [hhead, h.canvas.noPrev]
  · simp [hf]

theorem State.AgreeBut.prevShown {j : Nat} (hj : j < 2040) : w.prevShown f j = v.prevShown f j := by
  unfold State.prevShown
  rw [State.AgreeBut.prevCounts h hfit hks]
  by_cases hf : 0 < f
  · have hentry : w.entry (f - 1) j = v.entry (f - 1) j := by
      unfold State.entry
      rw [h.canvas.table, Nat.add_assoc]
      exact State.AgreeBut.before h hfit hks hf (by omega) (by omega)
    rw [hentry]
  · simp [State.prevCounts, hf]

end

/-- A tile that a shifted read touches is one of the table's. -/
theorem touched_lt {c r x y w h : Nat} (hc : c = ceilDiv w 256) (hr : r = ceilDiv h 256) (hx : x ≤ w - 1) (hy : y ≤ h - 1)
    (htiles : c * r ≤ 2040) (hcols : c ≤ 2040) : y / 256 * c + x / 256 < 2040 := by
  have hxc : w = 0 ∨ x / 256 < c := by
    rw [hc, ceilDiv]
    omega
  have hyr : h = 0 ∨ y / 256 < r := by
    rw [hr, ceilDiv]
    omega
  have hx0 : w = 0 → x / 256 = 0 ∧ c = 0 := fun hw => by
    rw [hc, ceilDiv]
    omega
  rcases hxc with hw | hxc
  · obtain ⟨hx0, hc0⟩ := hx0 hw
    rw [hx0, hc0]
    omega
  · rcases hyr with hh | hyr
    · have hy0 : y / 256 = 0 := by omega
      rw [hy0]
      omega
    · have hmul : (y / 256 + 1) * c ≤ r * c := Nat.mul_le_mul_right c hyr
      rw [Nat.add_mul, Nat.one_mul, Nat.mul_comm r c] at hmul
      omega

end Sys2Proof.Machine
end

section
set_option Elab.async false
namespace Sys2Proof.Machine

/-! ### The stand-in kind of a tile (R70, R71) -/

theorem shifted_le (lo hi n : Nat) (d : Int) : (shifted lo hi n d).1 ≤ n - 1 ∧ (shifted lo hi n d).2 ≤ n - 1 := by
  unfold shifted
  exact ⟨Nat.min_le_right _ _, Nat.min_le_right _ _⟩

section

variable {f : Nat} {ks : List Nat} {v w : State} (h : State.AgreeBut (v.table f) ks v w) (hfit : v.TablesFit) (hks : ∀ k ∈ ks, k < 2040)
  (htiles : v.tileCount ≤ 2040) (hcols : v.columns ≤ 2040)
include h hfit hks htiles hcols

theorem State.AgreeBut.shiftShown (t e : Nat) : w.shiftShown f t e = v.shiftShown f t e := by
  have hW : w.canvasW = v.canvasW := by rw [State.canvasW, h.canvas.dcfg]; rfl
  have hH : w.canvasH = v.canvasH := by rw [State.canvasH, h.canvas.dcfg]; rfl
  have htouch {i j : Nat} (hi : i ≤ v.canvasW - 1) (hj : j ≤ v.canvasH - 1) :
      w.prevShown f (j / 256 * v.columns + i / 256) = v.prevShown f (j / 256 * v.columns + i / 256) :=
    State.AgreeBut.prevShown h hfit hks (touched_lt (c := v.columns) (r := v.rows) rfl rfl hi hj htiles hcols)
  unfold State.shiftShown
  simp only [h.canvas.columns, hW, hH]
  obtain ⟨hx1, hx2⟩ := shifted_le (t % max 1 v.columns * 256) (min v.canvasW (t % max 1 v.columns * 256 + 256)) v.canvasW (svRound (svX e))
  obtain ⟨hy1, hy2⟩ := shifted_le (t / max 1 v.columns * 256) (min v.canvasH (t / max 1 v.columns * 256 + 256)) v.canvasH (svRound (svY e))
  simp only [List.all_cons, List.all_nil, htouch hx1 hy1, htouch hx2 hy1, htouch hx1 hy2, htouch hx2 hy2]

theorem State.AgreeBut.standInKind {t : Nat} (ht : t < 2040) (hne : t ∉ ks) : w.standInKind f t = v.standInKind f t := by
  unfold State.standInKind
  simp only [State.AgreeBut.entry h hfit ht hne, State.AgreeBut.head h hfit (off := 32) (n := 8) (by omega) (by omega),
    State.AgreeBut.head h hfit (off := 27) (n := 1) (by omega) (by omega), State.AgreeBut.prevShown h hfit hks ht,
    State.AgreeBut.shiftShown h hfit hks htiles hcols]

end

/-! ### The turn of one tile (R68, R70, R73) -/

/-- The entry of a tile after its row's deadline. -/
def State.shownEntry (s : State) (f t : Nat) : Nat :=
  if entryState (s.entry f t) == 6 then setBits (s.entry f t) 63 60 9
  else setBits (setBits (s.entry f t) 63 60 10) 59 56 (s.standInKind f t)

theorem State.entry_lt {s : State} (hok : s.mem.wf 0 = true) {f t : Nat} (ha : s.table f + 64 + 8 * t < stagingBase) : s.entry f t < 2 ^ 64 := by
  unfold State.entry State.devNat
  rw [State.devGet_low ha]
  have := leNat_lt (s.mem.readRun 0 (s.table f + 64 + 8 * t) 8)
  rwa [Memory.readRun_eq_map _ _ hok, List.length_map, List.length_range, ← Memory.readRun_eq_map _ _ hok] at this

theorem State.putEntry_entry {s : State} (hok : s.mem.wf 0 = true) {f t e : Nat} (ha : s.table f + 64 + 8 * t < stagingBase) (he : e < 2 ^ 64) :
    (s.putEntry f t e).entry f t = e := by
  have hrun := Memory.readRun_writeRun_same (s.table f + 64 + 8 * t) (leBytes 8 e) hok
  rw [leBytes_length] at hrun
  have hget : (s.putEntry f t e).devGet (s.table f + 64 + 8 * t) 8 = leBytes 8 e := by
    rw [State.devGet_low ha]
    exact hrun
  have htab : (s.putEntry f t e).table f = s.table f := rfl
  unfold State.entry State.devNat
  rw [htab, hget, leNat_leBytes]
  exact Nat.mod_eq_of_lt he

theorem State.putEntry_agree {s : State} (hok : s.mem.wf 0 = true) (f k e : Nat) : State.AgreeBut (s.table f) [k] s (s.putEntry f k e) := by
  refine ⟨.of_only (s.putEntry_only f k e) (by decide), hok, Memory.writeRun_wf _ _ hok, fun a ha => ?_⟩
  have := ha k List.mem_cons_self
  unfold tileBytes at this
  refine (Memory.read_writeRun (s.table f + 64 + 8 * k) (leBytes 8 e) a hok).trans (if_neg ?_)
  rw [leBytes_length]
  omega

theorem State.putCount_agree {s : State} (hok : s.mem.wf 0 = true) (f k n : Nat) : State.AgreeBut (s.table f) [k] s (s.putHead f 28 2 n) := by
  refine ⟨.of_only (s.putHead_only f 28 2 n) (by decide), hok, Memory.writeRun_wf _ _ hok, fun a ha => ?_⟩
  have := ha k List.mem_cons_self
  unfold tileBytes at this
  refine (Memory.read_writeRun (s.table f + 28) (leBytes 2 n) a hok).trans (if_neg ?_)
  rw [leBytes_length]
  omega

/-- The count of a stand-in tile changes no entry. -/
theorem State.putCount_entry {s : State} (hok : s.mem.wf 0 = true) {f k : Nat} (n : Nat) (ha : s.table f + 64 + 8 * k < stagingBase) :
    (s.putHead f 28 2 n).entry f k = s.entry f k := by
  have htab : (s.putHead f 28 2 n).table f = s.table f := rfl
  unfold State.entry State.devNat
  rw [htab, State.devGet_low ha, State.devGet_low ha]
  refine congrArg leNat (Memory.readRun_writeRun_other _ _ _ _ hok (.inr ?_))
  rw [leBytes_length]
  omega

/-- The state in which a tile that is not READY has its entry and is counted in its table. -/
def State.standIn (s : State) (f t : Nat) : State :=
  let u := s.putEntry f t (setBits (setBits (s.entry f t) 63 60 10) 59 56 (s.standInKind f t))
  u.putHead f 28 2 (min (u.head f 28 2 + 1) 0xFFFF)

theorem State.showTile_ready {s : State} {f t : Nat} (h : entryState (s.entry f t) = 6) :
    s.showTile f t = s.putEntry f t (setBits (s.entry f t) 63 60 9) := by
  unfold State.showTile
  simp only [h, BEq.rfl, if_true, State.setTileState]

theorem State.showTile_standIn {s : State} {f t : Nat} (h : entryState (s.entry f t) ≠ 6) :
    s.showTile f t = ((s.standIn f t).bump .disp 0 (0x0C0 + 4 * (s.standInKind f t - 1)) 1).pulse .disp 0 0x10 1 none := by
  unfold State.showTile State.standIn
  simp only [beq_eq_false_iff_ne.mpr h, Bool.false_eq_true, if_false]

theorem State.standIn_counted (s : State) (f t k : Nat) : Only [.ctrs, .hostMem, .msix, .pages, .regs] (s.standIn f t)
    (((s.standIn f t).bump .disp 0 (0x0C0 + 4 * (k - 1)) 1).pulse .disp 0 0x10 1 none) :=
  (State.pulse_only _ _ _ _ _ _).step (by decide) ((State.bump_only _ _ _ _ _).mono (by decide))

theorem State.showTile_raises (s : State) (f t : Nat) : RaisesOnly s (s.showTile f t) := by
  by_cases h : entryState (s.entry f t) = 6
  · rw [State.showTile_ready h]
    exact .of_only (s.putEntry_only _ _ _) (by decide)
  · rw [State.showTile_standIn h]
    have hstand : RaisesOnly s (s.standIn f t) :=
      .of_only (fs := [.badWords, .mem, .softWords]) ((State.putHead_only _ _ _ _ _).step (by decide) ((s.putEntry_only _ _ _).mono (by decide)))
        (by decide)
    exact (hstand.trans (.of_only (State.bump_only _ _ _ _ _) (by decide))).trans (State.pulse_raises _ _ _ _ _ _)

/-- States that agree but for the same tiles and whose memory the second leaves. -/
theorem State.AgreeBut.of_only {t : Nat} {ks : List Nat} {u v w : State} (h : State.AgreeBut t ks u v)
    (hw : Only [.ctrs, .hostMem, .msix, .pages, .regs] v w) : State.AgreeBut t ks u w := by
  have hmem : w.mem = v.mem := hw .mem rfl
  exact ⟨h.canvas.trans (.of_only hw (by decide)), h.okv, by rw [hmem]; exact h.okw, fun a ha => by rw [hmem]; exact h.read a ha⟩

theorem State.SameCanvas.entry {v w : State} (h : v.SameCanvas w) (hmem : w.mem = v.mem) {f t : Nat}
    (ha : v.table f + 64 + 8 * t < stagingBase) : w.entry f t = v.entry f t := by
  unfold State.entry State.devNat
  rw [h.table, State.devGet_low ha, State.devGet_low ha, hmem]

theorem State.showTile_entry {s : State} (hok : s.mem.wf 0 = true) {f t : Nat} (ha : s.table f + 64 + 8 * t < stagingBase) :
    (s.showTile f t).entry f t = s.shownEntry f t := by
  have hlt := s.entry_lt hok ha
  unfold State.shownEntry
  by_cases h : entryState (s.entry f t) = 6
  · rw [State.showTile_ready h, if_pos (by simp [h]), State.putEntry_entry hok ha (setBits_state_lt 9 hlt)]
  · have hput := State.putEntry_entry hok ha (setBits_kind_lt (s.standInKind f t) (setBits_state_lt 10 hlt))
    have hokput : (s.putEntry f t (setBits (setBits (s.entry f t) 63 60 10) 59 56 (s.standInKind f t))).mem.wf 0 = true :=
      Memory.writeRun_wf _ _ hok
    have hstand : (s.standIn f t).entry f t = setBits (setBits (s.entry f t) 63 60 10) 59 56 (s.standInKind f t) :=
      (State.putCount_entry hokput _ ha).trans hput
    have hcount := State.standIn_counted s f t (s.standInKind f t)
    rw [State.showTile_standIn h, if_neg (by simp [h]), ← hstand]
    exact State.SameCanvas.entry (.of_only hcount (by decide)) (hcount .mem rfl) ha

theorem State.showTile_agree {s : State} (hok : s.mem.wf 0 = true) (f t : Nat) : State.AgreeBut (s.table f) [t, t] s (s.showTile f t) := by
  by_cases h : entryState (s.entry f t) = 6
  · rw [State.showTile_ready h]
    have := s.putEntry_agree hok f t (setBits (s.entry f t) 63 60 9)
    exact ⟨this.canvas, this.okv, this.okw, fun a ha => this.read a fun k hk => ha k (List.mem_cons_of_mem _ hk)⟩
  · rw [State.showTile_standIn h]
    refine State.AgreeBut.of_only ?_ (State.standIn_counted s f t _)
    have hput := s.putEntry_agree hok f t (setBits (setBits (s.entry f t) 63 60 10) 59 56 (s.standInKind f t))
    have hcount := State.putCount_agree hput.okw f t (min ((s.putEntry f t (setBits (setBits (s.entry f t) 63 60 10) 59 56
      (s.standInKind f t))).head f 28 2 + 1) 0xFFFF)
    rw [hput.canvas.table] at hcount
    exact hput.trans hcount

/-! ### The turns of a row (R68) -/

section

variable {f : Nat} {ks : List Nat} {v w : State} (h : State.AgreeBut (v.table f) ks v w) (hfit : v.TablesFit) (hks : ∀ k ∈ ks, k < 2040)
  (htiles : v.tileCount ≤ 2040) (hcols : v.columns ≤ 2040)
include h hfit hks htiles hcols

theorem State.AgreeBut.shownEntry {t : Nat} (ht : t < 2040) (hne : t ∉ ks) : w.shownEntry f t = v.shownEntry f t := by
  unfold State.shownEntry
  rw [State.AgreeBut.entry h hfit ht hne, State.AgreeBut.standInKind h hfit hks htiles hcols ht hne]

end

theorem State.SameCanvas.fit {v w : State} (h : v.SameCanvas w) (hfit : v.TablesFit) : w.TablesFit := by
  unfold State.TablesFit State.stateBase at hfit ⊢
  rwa [h.dcfg, h.dcfg]

theorem State.SameCanvas.tileCount {v w : State} (h : v.SameCanvas w) : w.tileCount = v.tileCount := by
  rw [State.tileCount, h.columns, State.rows, State.canvasH, h.dcfg]
  rfl

theorem State.entry_low {s : State} (hfit : s.TablesFit) (f : Nat) {t : Nat} (ht : t < 2040) : s.table f + 64 + 8 * t < stagingBase := by
  have htab := s.table_le f
  unfold State.TablesFit at hfit
  omega

theorem State.showTiles_only (f : Nat) (l : List Nat) (s : State) :
    Only [.badWords, .ctrs, .hostMem, .mem, .msix, .pages, .regs, .softWords] s (l.foldl (fun (u : State) k => u.showTile f k) s) :=
  Only.foldl (fun y k hy => (y.showTile_only f k).step (by decide) hy) (Only.refl _ s)

/-- The turns of different tiles do not meet: each gives its tile the entry that it would get alone. -/
theorem State.showTiles_spec {f : Nat} {l : List Nat} (hl : l.Nodup) (hlt : ∀ k ∈ l, k < 2040) {s : State} (hok : s.mem.wf 0 = true)
    (hfit : s.TablesFit) (htiles : s.tileCount ≤ 2040) (hcols : s.columns ≤ 2040) :
    (∃ ks, (∀ k ∈ ks, k ∈ l) ∧ State.AgreeBut (s.table f) ks s (l.foldl (fun (u : State) k => u.showTile f k) s)) ∧
      ∀ k ∈ l, (l.foldl (fun (u : State) k => u.showTile f k) s).entry f k = s.shownEntry f k := by
  induction l generalizing s with
  | nil => exact ⟨⟨[], fun _ h => h, .refl s, hok, hok, fun _ _ => rfl⟩, fun k hk => absurd hk List.not_mem_nil⟩
  | cons a l ih =>
    obtain ⟨ha, hl⟩ := List.nodup_cons.mp hl
    have hone := s.showTile_agree hok f a
    have hfit1 : (s.showTile f a).TablesFit := hone.canvas.fit hfit
    obtain ⟨⟨ks, hks, hrest⟩, hent⟩ := ih hl (fun k hk => hlt k (List.mem_cons_of_mem _ hk)) hone.okw hfit1
      (by rwa [hone.canvas.tileCount]) (by rwa [hone.canvas.columns])
    refine ⟨⟨[a, a] ++ ks, fun k hk => ?_, hone.trans (by rwa [hone.canvas.table] at hrest)⟩, fun k hk => ?_⟩
    · rcases List.mem_append.mp hk with hk | hk
      · exact List.mem_cons.mpr (.inl (by simpa using hk))
      · exact List.mem_cons_of_mem _ (hks k hk)
    · have hk40 := hlt k hk
      rcases List.mem_cons.mp hk with rfl | hkl
      · exact (State.AgreeBut.entry hrest hfit1 hk40 fun hin => ha (hks k hin)).trans (State.showTile_entry hok (s.entry_low hfit f hk40))
      · refine (hent k hkl).trans (State.AgreeBut.shownEntry hone hfit (fun i hi => ?_) htiles hcols hk40 fun hin => ?_)
        · exact hlt i (List.mem_cons.mpr (.inl (by simpa using hi)))
        · have : k = a := by simpa using hin
          exact ha (this ▸ hkl)

/-- The state in which a row's turns begin: its stored tiles are discarded. -/
theorem State.dropStored_canvas (s : State) (f r : Nat) : s.SameCanvas (s.dropStored f r) := ⟨rfl, rfl, rfl, rfl⟩

/-- The state after the turns of a row's tiles. -/
def State.shownTiles (s : State) (f r : Nat) : State := (s.canvasRow r).foldl (fun (u : State) k => u.showTile f k) (s.dropStored f r)

theorem State.shownTiles_only (s : State) (f r : Nat) :
    Only [.badWords, .ctrs, .hostMem, .mem, .msix, .pages, .regs, .softWords] (s.dropStored f r) (s.shownTiles f r) :=
  State.showTiles_only f _ _

theorem State.showRow_disp (s : State) (f r : Nat) :
    (s.showRow f r).disp = { s.disp with
      store := s.disp.store.filter fun y => !(y.frame == f && s.rowOf y.tile == r)
      rowsDone := r + 1, rowSrc := (s.showRow f r).disp.rowSrc } := by
  have hdisp : (s.shownTiles f r).disp = (s.dropStored f r).disp := s.shownTiles_only f r .disp rfl
  have hrow : (s.showRow f r).disp = { (s.shownTiles f r).disp with rowsDone := r + 1, rowSrc := (s.showRow f r).disp.rowSrc } := rfl
  rw [hrow, hdisp]
  rfl

theorem State.showRow_raises (s : State) (f r : Nat) : RaisesOnly s (s.showRow f r) := by
  have hdrop : RaisesOnly s (s.dropStored f r) := .of_only (s.dropStored_only f r) (by decide)
  have htiles : RaisesOnly (s.dropStored f r) (s.shownTiles f r) := .foldl fun y k => y.showTile_raises f k
  exact (hdrop.trans htiles).trans (.of_only Only.set_disp (by decide))

theorem State.canvasRow_nodup (s : State) (r : Nat) : (s.canvasRow r).Nodup :=
  List.nodup_range.map fun a b h => by simpa using h

theorem State.canvasRow_lt {s : State} {r k : Nat} (h : (r + 1) * s.columns ≤ 2040) (hk : k ∈ s.canvasRow r) : k < 2040 := by
  obtain ⟨i, hi, rfl⟩ := List.mem_map.mp hk
  have := List.mem_range.mp hi
  rw [Nat.add_mul, Nat.one_mul] at h
  omega

/-- The entries after a row's turns. -/
theorem State.showRow_entry {s : State} {f r : Nat} (hok : s.mem.wf 0 = true) (hfit : s.TablesFit) (htiles : s.tileCount ≤ 2040)
    (hrow : (r + 1) * s.columns ≤ 2040) {k : Nat} (hk : k ∈ s.canvasRow r) : (s.showRow f r).entry f k = s.shownEntry f k := by
  have hcols : s.columns ≤ 2040 := by
    rw [Nat.add_mul, Nat.one_mul] at hrow
    omega
  have hlt : ∀ j ∈ s.canvasRow r, j < 2040 := fun j hj => State.canvasRow_lt hrow hj
  have hdrop := s.dropStored_canvas f r
  have hsame : State.AgreeBut (s.table f) [] s (s.dropStored f r) := ⟨hdrop, hok, hok, fun _ _ => rfl⟩
  obtain ⟨⟨ks, -, hagree⟩, hent⟩ := State.showTiles_spec (f := f) (s.canvasRow_nodup r) hlt (s := s.dropStored f r) hok (hdrop.fit hfit)
    (by rwa [hdrop.tileCount]) (by rwa [hdrop.columns])
  have hlast : (s.shownTiles f r).SameCanvas (s.showRow f r) := ⟨rfl, rfl, rfl, rfl⟩
  have hfit2 : (s.shownTiles f r).TablesFit := (hdrop.trans hagree.canvas).fit hfit
  rw [hlast.entry rfl (State.entry_low hfit2 f (hlt k hk))]
  exact (hent k hk).trans (State.AgreeBut.shownEntry hsame hfit (by simp) htiles hcols (hlt k hk) List.not_mem_nil)

/-! ### What follows a row's turns, with no draw stalled -/

theorem State.rasterRest_stalled {s : State} (h : s.raster.stalled = []) : s.rasterRest.raster.stalled = [] := by
  unfold State.rasterRest
  dsimp only
  split
  · simp [h]
  · rw [State.irq_only _ _ _ _ .raster rfl]
    simp [h]

theorem State.endPass_stalled {s : State} (p : RPass) (h : s.raster.stalled = []) : (s.endPass p).raster.stalled = [] := by
  unfold State.endPass
  split
  · exact h
  · split
    · exact State.rasterRest_stalled h
    · split
      · exact State.rasterRest_stalled h
      · exact h

theorem State.settleRaster_stalled {s : State} (h : s.raster.stalled = []) : s.settleRaster.raster.stalled = [] := by
  have hfold (l : List RPass) {t : State} (ht : t.raster.stalled = []) : (l.foldl (fun (u : State) p => u.endPass p) t).raster.stalled = [] := by
    induction l generalizing t with
    | nil => exact ht
    | cons p l ih => exact ih (State.endPass_stalled p ht)
  exact hfold _ (show s.dropDead.raster.stalled = [] from h)

theorem State.afterRow_of_stalled {s : State} (h : s.raster.stalled = []) : s.afterRow = s.settleRaster.track := by
  have hres : s.settleRaster.resumeStalled = s.settleRaster := by
    unfold State.resumeStalled
    rw [State.settleRaster_stalled h]
    rfl
  unfold State.afterRow
  rw [hres]

theorem State.afterRow_entry {s : State} (h : s.raster.stalled = []) {f t : Nat} (ha : s.table f + 64 + 8 * t < stagingBase) :
    s.afterRow.entry f t = s.entry f t := by
  have honly : Only [.cmds, .engines, .hostMem, .msix, .pages, .raster] s s.afterRow := by
    rw [State.afterRow_of_stalled h]
    exact (State.track_only _).step (by decide) (s.settleRaster_only.mono (by decide))
  exact State.SameCanvas.entry (.of_only honly (by decide)) (honly .mem rfl) ha

end Sys2Proof.Machine
end

section
set_option Elab.async false
namespace Sys2Proof.Machine

/-! ### The fetch of a frame begins (R251, R255) -/

/-- The state in which the display engine has taken up frame `f`. -/
def State.fetchStart (s : State) (f : Nat) (e : CalEntry) : State :=
  let s1 := (s.sealCairn.at e.deadline).latchFrame
  { s1 with disp := { s1.disp with
    begun := f + 1
    entries := s.disp.entries.filter fun x => f ≤ x.frame
    rowsDone := 0, scanBegun := false, rowSrc := [], held := s.disp.hold && s.disp.holdFrom ≤ f
    captured := s.newestCapture
    holdBuf := if (s.reg .disp 0 0x088).testBit 0 then none else s.holdBuffer } }

/-- After that only the frame's table changes. -/
theorem State.beginFetch_table (s : State) (f : Nat) (e : CalEntry) :
    Only [.badWords, .mem, .raster, .softWords] ((s.fetchStart f e).irq .disp 0 0b1) (s.beginFetch f e) := by
  unfold State.beginFetch
  dsimp only
  split
  · exact Only.refl _ _
  · refine Only.elim ((State.prepareUnbound_only _ _ _).mono (by decide)) fun step => ?_
    exact Only.ite (Only.refl _ _) ((State.bindFrame_only _ _ _ _).mono (by decide))

theorem State.beginFetch_disp (s : State) (f : Nat) (e : CalEntry) : (s.beginFetch f e).disp = (s.fetchStart f e).disp :=
  (s.beginFetch_table f e .disp rfl).trans (State.irq_only _ _ _ _ .disp rfl)

theorem State.beginFetch_raw (s : State) (f : Nat) (e : CalEntry) : ((s.beginFetch f e).page .disp 0).raw.getLsbD 0 = true := by
  have htab := s.beginFetch_table f e
  rw [State.page_congr (htab .pages rfl) (htab .insole rfl), State.irq_page]
  simp

/-! ### The display engine's part of a row deadline (R68) -/

/-- The state after the scheduler's part of a row deadline that comes with a step, or without one. -/
def State.scheduled (s : State) (arg : Option Nat) (row : Nat) : State :=
  match arg.bind s.step? with
  | some x => s.stepRow x row
  | none => s

theorem State.scheduled_only (s : State) (arg : Option Nat) (row : Nat) :
    Only [.badWords, .cmds, .ctrs, .groups, .hostMem, .me, .mem, .msix, .now, .pages, .regs, .softWords, .steps] s (s.scheduled arg row) := by
  unfold State.scheduled
  split
  · exact (s.stepRow_only _ _).mono (by decide)
  · exact Only.refl _ s

theorem State.scheduled_memOk {s : State} (arg : Option Nat) (row : Nat) (h : MemOk s) : MemOk (s.scheduled arg row) := by
  unfold State.scheduled
  split
  · exact s.stepRow_memOk _ _ h
  · exact h

theorem State.plan_frame {s : State} {f : Nat} {e : CalEntry} (h : s.plan f = some e) : e.frame = f := by
  simpa using List.find?_some h

theorem State.plan_congr {s t : State} (h : t.disp = s.disp) (f : Nat) : t.plan f = s.plan f := by
  unfold State.plan
  rw [h]

theorem State.canBegin_congr {s t : State} (h : t.disp = s.disp) (f : Nat) : t.canBegin f = s.canBegin f := by
  unfold State.canBegin
  rw [State.plan_congr h, h]

/-- A row deadline of a planned frame: with the step that is bound to it, or with none. -/
def State.RowOfFrame (s : State) (arg : Option Nat) (f row : Nat) : Prop :=
  (arg = none ∧ s.boundStep f = none ∧ f = if row = 0 then s.disp.begun else s.disp.begun - 1) ∨
    ∃ x, arg = some x.uid ∧ s.step? x.uid = some x ∧ x.frame = some f

/-- The display engine's part follows the scheduler's. -/
theorem execRowDeadline_frame {s t : State} {arg : Option Nat} {f row : Nat} {e : CalEntry} (hplan : s.plan f = some e)
    (harg : s.RowOfFrame arg f row) (ht : (s.scheduled arg row).dispRow f row = some t) :
    exec (.rowDeadline arg row) s = .next t.afterRow := by
  show execRowDeadline arg row s = _
  unfold execRowDeadline
  rcases harg with ⟨rfl, hbound, hf⟩ | ⟨x, rfl, hx, hframe⟩
  · have hd : s.dispRow f row = some t := ht
    have hf' : (if row == 0 then s.disp.begun else s.disp.begun - 1) = f := by
      rw [hf]
      by_cases h : row = 0 <;> simp [h]
    dsimp only
    rw [hf', hbound, hd]
    rfl
  · have hsched : s.scheduled (some x.uid) row = s.stepRow x row := by
      unfold State.scheduled
      rw [Option.bind_some, hx]
    have hpl : x.frame.bind s.plan = some e := by rw [hframe]; exact hplan
    rw [hsched] at ht
    simp only [hx, hpl, State.boundRow, State.plan_frame hplan, ht]

theorem State.dispRow_first {u : State} {f : Nat} {e : CalEntry} (hplan : u.plan f = some e) (hb : u.canBegin f = true) :
    u.dispRow f 0 = some (if (u.beginFetch f e).disp.held then u.beginFetch f e else (u.beginFetch f e).showRow f 0) := by
  unfold State.dispRow
  simp only [hplan, BEq.rfl, if_true, hb]

theorem State.dispRow_later {u : State} {f row : Nat} {e : CalEntry} (hplan : u.plan f = some e) (h1 : 1 ≤ row) (hf : f + 1 = u.disp.begun)
    (hdone : u.disp.rowsDone = row) (hheld : u.disp.held = false) (hrow : row < u.rows) :
    u.dispRow f row = some ((u.at (e.deadline + row * e.rowPitch / 16)).showRow f row) := by
  have hcond : (f + 1 == u.disp.begun && u.disp.rowsDone == row && !u.disp.held && decide (row < u.rows)) = true := by
    simp [hf, hdone, hheld, hrow]
  unfold State.dispRow
  simp only [hplan, beq_eq_false_iff_ne.mpr (show row ≠ 0 by omega), Bool.false_eq_true, if_false, hcond, if_true]

theorem State.afterRow_disp (s : State) : s.afterRow.disp = s.disp := s.afterRow_only .disp rfl

/-- Row 0 of a planned frame begins its fetch. -/
theorem rowDeadline_begins {s : State} {arg : Option Nat} {f : Nat} {e : CalEntry} (hplan : s.plan f = some e) (harg : s.RowOfFrame arg f 0)
    (hb : s.canBegin f = true) :
    ∃ t, exec (.rowDeadline arg 0) s = .next t ∧ t.disp.begun = f + 1 ∧ t.disp.scanBegun = false ∧
      t.disp.held = (s.disp.hold && decide (s.disp.holdFrom ≤ f)) ∧ (t.disp.held = false → t.disp.rowsDone = 1) ∧
      (t.page .disp 0).raw.getLsbD 0 = true := by
  have hdisp : (s.scheduled arg 0).disp = s.disp := s.scheduled_only arg 0 .disp rfl
  have hfirst := State.dispRow_first (by rwa [State.plan_congr hdisp]) (by rwa [State.canBegin_congr hdisp])
  refine ⟨_, execRowDeadline_frame hplan harg hfirst, ?_⟩
  have hstart := (s.scheduled arg 0).beginFetch_disp f e
  have hheld : ((s.scheduled arg 0).beginFetch f e).disp.held = (s.disp.hold && decide (s.disp.holdFrom ≤ f)) := by
    rw [hstart, ← hdisp]
    rfl
  have hraw := (s.scheduled arg 0).beginFetch_raw f e
  generalize (s.scheduled arg 0).beginFetch f e = v at hstart hheld hraw ⊢
  have hbegun : v.disp.begun = f + 1 := by rw [hstart]; rfl
  have hscan : v.disp.scanBegun = false := by rw [hstart]; rfl
  split
  · next hh =>
    rw [State.afterRow_disp]
    exact ⟨hbegun, hscan, hheld, fun hn => absurd hh (by simp [hn]), v.afterRow_follows.raises.raw _ _ _ hraw⟩
  · have hshow := v.showRow_disp f 0
    have hb' : (v.showRow f 0).disp.begun = v.disp.begun := by rw [hshow]
    have hs' : (v.showRow f 0).disp.scanBegun = v.disp.scanBegun := by rw [hshow]
    have hh' : (v.showRow f 0).disp.held = v.disp.held := by rw [hshow]
    rw [State.afterRow_disp]
    exact ⟨hb'.trans hbegun, hs'.trans hscan, hh'.trans hheld, fun _ => rfl,
      (v.showRow f 0).afterRow_follows.raises.raw _ _ _ ((v.showRow_raises f 0).raw _ _ _ hraw)⟩

/-- A later row is acted on in its turn. -/
theorem rowDeadline_acts {s : State} {arg : Option Nat} {f row : Nat} {e : CalEntry} (hplan : s.plan f = some e) (harg : s.RowOfFrame arg f row)
    (h1 : 1 ≤ row) (hf : f + 1 = s.disp.begun) (hdone : s.disp.rowsDone = row) (hheld : s.disp.held = false) (hrow : row < s.rows) :
    ∃ n, exec (.rowDeadline arg row) s = .next (State.showRow { s.scheduled arg row with now := n } f row).afterRow := by
  have honly := s.scheduled_only arg row
  have hdisp : (s.scheduled arg row).disp = s.disp := honly .disp rfl
  have hrows : (s.scheduled arg row).rows = s.rows := by
    have hsame : s.SameCanvas (s.scheduled arg row) := .of_only honly (by decide)
    rw [State.rows, State.canvasH, hsame.dcfg]
    rfl
  have hlater := State.dispRow_later (u := s.scheduled arg row) (by rwa [State.plan_congr hdisp]) h1 (by rwa [hdisp]) (by rwa [hdisp])
    (by rwa [hdisp]) (by rwa [hrows])
  obtain ⟨n, hn⟩ := (s.scheduled arg row).at_exists (e.deadline + row * e.rowPitch / 16)
  rw [hn] at hlater
  exact ⟨n, execRowDeadline_frame hplan harg hlater⟩

theorem rowDeadline_shows {s : State} {arg : Option Nat} {f row : Nat} {e : CalEntry} (hplan : s.plan f = some e) (harg : s.RowOfFrame arg f row)
    (h1 : 1 ≤ row) (hf : f + 1 = s.disp.begun) (hdone : s.disp.rowsDone = row) (hheld : s.disp.held = false) (hrow : row < s.rows) :
    ∃ t, exec (.rowDeadline arg row) s = .next t ∧ t.disp = { s.disp with
      store := s.disp.store.filter fun y => !(y.frame == f && s.rowOf y.tile == row)
      rowsDone := row + 1, rowSrc := t.disp.rowSrc } := by
  obtain ⟨n, hexec⟩ := rowDeadline_acts hplan harg h1 hf hdone hheld hrow
  have honly : Only [.badWords, .cmds, .ctrs, .groups, .hostMem, .me, .mem, .msix, .now, .pages, .regs, .softWords, .steps] s
      { s.scheduled arg row with now := n } := Only.set_now.step (by decide) (s.scheduled_only arg row)
  have hsame : s.SameCanvas { s.scheduled arg row with now := n } := .of_only honly (by decide)
  refine ⟨_, hexec, ?_⟩
  generalize { s.scheduled arg row with now := n } = u at honly hsame ⊢
  have hdisp : u.disp = s.disp := honly .disp rfl
  rw [State.afterRow_disp, State.showRow_disp, hdisp]
  simp only [hsame.rowOf]

/-- The entries of a row's tiles after the turns, in a state whose draws do not stall. -/
theorem State.showRow_afterRow_entry {v : State} {f row : Nat} (hok : MemOk v) (hst : v.raster.stalled = []) (htiles : v.tileCount ≤ 2040)
    (hrow : (row + 1) * v.columns ≤ 2040) (hfit : v.TablesFit) :
    ∀ k ∈ v.canvasRow row, (v.showRow f row).afterRow.entry f k = v.shownEntry f k := by
  intro k hk
  obtain ⟨hmem, -⟩ := hok
  have hraster : (v.showRow f row).raster = v.raster := v.showRow_only f row .raster rfl
  have htab : (v.showRow f row).table f = v.table f := by
    have hshow := v.showRow_disp f row
    have hsame : v.SameCanvas (v.showRow f row) := ⟨by rw [hshow], by rw [hshow], v.showRow_only f row .insole rfl, v.showRow_only f row .part rfl⟩
    exact hsame.table f
  rw [State.afterRow_entry (by rw [hraster]; exact hst) (by rw [htab]; exact v.entry_low hfit f (State.canvasRow_lt hrow hk)),
    State.showRow_entry hmem hfit htiles hrow hk]

/-- What the statement says of a shown entry. -/
theorem State.shownEntry_cases {v t : State} {f k : Nat} (h : t.entry f k = v.shownEntry f k) :
    (entryState (v.entry f k) = 6 → t.entry f k = setBits (v.entry f k) 63 60 9) ∧
      (entryState (v.entry f k) ≠ 6 → t.entry f k = setBits (setBits (v.entry f k) 63 60 10) 59 56 (v.standInKind f k)) := by
  unfold State.shownEntry at h
  exact ⟨fun h6 => by rw [h, if_pos (by simp [h6])], fun h6 => by rw [h, if_neg (by simp [h6])]⟩

/-- The tiles of a row of a frame that is not held are shown, or stand in. -/
theorem rowDeadline_entries {s v : State} {arg : Option Nat} {f row : Nat} {e : CalEntry} (hplan : s.plan f = some e) (harg : s.RowOfFrame arg f row)
    (hdue : (row = 0 ∧ s.canBegin f = true) ∨
      (1 ≤ row ∧ f + 1 = s.disp.begun ∧ s.disp.rowsDone = row ∧ s.disp.held = false ∧ row < s.rows)) (hok : MemOk s)
    (hv : v = if row = 0 then (s.scheduled arg row).beginFetch f e else s.scheduled arg row) (hheld : v.disp.held = false)
    (hst : v.raster.stalled = []) (htiles : v.tileCount ≤ 2040) (hrow : (row + 1) * v.columns ≤ 2040) (hfit : v.TablesFit) :
    ∃ t, exec (.rowDeadline arg row) s = .next t ∧ ∀ k ∈ v.canvasRow row, t.entry f k = v.shownEntry f k := by
  have hoks := State.scheduled_memOk arg row hok
  rcases hdue with ⟨rfl, hb⟩ | ⟨h1, hf, hdone, hh, hr⟩
  · have hdisp : (s.scheduled arg 0).disp = s.disp := s.scheduled_only arg 0 .disp rfl
    have hfirst := State.dispRow_first (e := e) (by rwa [State.plan_congr hdisp]) (by rwa [State.canBegin_congr hdisp])
    rw [if_pos rfl] at hv
    rw [← hv, hheld, if_neg Bool.false_ne_true] at hfirst
    refine ⟨_, execRowDeadline_frame hplan harg hfirst, State.showRow_afterRow_entry ?_ hst htiles hrow hfit⟩
    rw [hv]
    exact State.beginFetch_memOk _ _ _ hoks
  · rw [if_neg (by omega)] at hv
    obtain ⟨n, hexec⟩ := rowDeadline_acts hplan harg h1 hf hdone hh hr
    rw [← hv] at hexec hoks
    refine ⟨_, hexec, fun k hk => ?_⟩
    have hsame : v.SameCanvas { v with now := n } := ⟨rfl, rfl, rfl, rfl⟩
    have hagree : State.AgreeBut (v.table f) [] v { v with now := n } := ⟨hsame, hoks.1, hoks.1, fun _ _ => rfl⟩
    have hcols : v.columns ≤ 2040 := by
      rw [Nat.add_mul, Nat.one_mul] at hrow
      omega
    rw [State.showRow_afterRow_entry (v := { v with now := n }) hoks hst htiles hrow hfit k hk]
    exact State.AgreeBut.shownEntry hagree hfit (by simp) htiles hcols (State.canvasRow_lt hrow hk) List.not_mem_nil

/-- Settles O24: the scheduler's part and the display engine's, which one row deadline may have both. -/
theorem rowDeadlineCancelsTheRow : Obligations.RowDeadlineCancelsTheRow := by
  unfold Obligations.RowDeadlineCancelsTheRow
  intro s row
  refine ⟨fun x tiles hx hf ho ht => rowDeadline_cancels hx hf ho ht, fun arg f e hplan harg => ⟨fun h0 hb => ?_, fun h1 hf hdone hheld hrow => ?_,
    fun hdue hok u v hu hv hheld hst htiles hrow hfit => ?_⟩⟩
  · subst h0
    exact rowDeadline_begins hplan harg hb
  · exact rowDeadline_shows hplan harg h1 hf hdone hheld hrow
  · have hus : u = s.scheduled arg row := by
      refine hu.trans ?_
      unfold State.scheduled
      cases arg.bind s.step? <;> rfl
    subst hus
    obtain ⟨t, hexec, hent⟩ := rowDeadline_entries hplan harg hdue hok hv hheld hst htiles hrow hfit
    exact ⟨t, hexec, fun k hk => State.shownEntry_cases (hent k hk)⟩

end Sys2Proof.Machine
end

section
set_option Elab.async false
namespace Sys2Proof.Machine

/-! ### Writes of BAR0 (R361) -/

variable {s : State}

theorem execRegisterWrite_down (h : s.link.pcieUp = false) (off size v : Nat) : exec (.registerWrite off size v) s = .next s := by
  show execRegisterWrite off size v s = _
  unfold execRegisterWrite
  rw [h, if_neg Bool.false_ne_true]

theorem execLoReadLatch_down (h : s.link.pcieUp = false) (off size : Nat) : exec (.loReadLatch off size) s = .next s := by
  show execLoReadLatch off size s = _
  unfold execLoReadLatch
  rw [h, if_neg Bool.false_ne_true]

theorem execRegisterWrite_up (h : s.link.pcieUp = true) (off size v : Nat) :
    exec (.registerWrite off size v) s = .next (s.writeBar0 off size v) := by
  show execRegisterWrite off size v s = _
  unfold execRegisterWrite
  rw [if_pos h]

theorem execLoReadLatch_up (h : s.link.pcieUp = true) (off size : Nat) : exec (.loReadLatch off size) s = .next (s.readBar0 off size) := by
  show execLoReadLatch off size s = _
  unfold execLoReadLatch
  rw [if_pos h]

theorem State.writeBar0_ignored (s : State) {off size : Nat} (h : off % 4 ≠ 0 ∨ size ≠ 4 ∧ size ≠ 8) (v : Nat) : s.writeBar0 off size v = s := by
  unfold State.writeBar0
  rcases h with h | ⟨h4, h8⟩
  · rw [if_pos (by simp [h])]
  · rw [if_neg (c := (size == 4) = true) (by simpa using h4), if_neg (c := (size == 8) = true) (by simpa using h8), ite_self]

theorem State.writeBar0_four (s : State) {off : Nat} (h : off % 4 = 0) (v : Nat) : s.writeBar0 off 4 v = s.writeWord off (v % 2 ^ 32) := by
  unfold State.writeBar0
  rw [if_neg (by simp [h])]
  rfl

theorem State.writeBar0_eight (s : State) {off : Nat} (h : off % 4 = 0) (v : Nat) :
    s.writeBar0 off 8 v = (s.writeWord off (v % 2 ^ 32)).writeWord (off + 4) (v / 2 ^ 32 % 2 ^ 32) := by
  unfold State.writeBar0
  rw [if_neg (by simp [h])]
  rfl

theorem State.writeWord_page (s : State) {off : Nat} {b : Blk} {i : Nat} (hp : pageAt off = some (b, i)) (v : Nat) :
    s.writeWord off v = if s.answers b i then s.writeReg b i (off % 0x1000) v else s := by
  unfold State.writeWord
  rw [hp]

theorem State.writeWord_nowhere (s : State) {off : Nat} (h : pageAt off = none ∨ ∃ b i, pageAt off = some (b, i) ∧ s.answers b i = false)
    (v : Nat) : s.writeWord off v = s := by
  obtain h | ⟨b, i, hp, ha⟩ := h
  · unfold State.writeWord
    rw [h]
  · rw [s.writeWord_page hp, ha, if_neg Bool.false_ne_true]

theorem execRegisterWrite_ignored (s : State) {off size : Nat} (h : off % 4 ≠ 0 ∨ size ≠ 4 ∧ size ≠ 8) (v : Nat) :
    exec (.registerWrite off size v) s = .next s := by
  cases hup : s.link.pcieUp with
  | false => exact execRegisterWrite_down hup off size v
  | true => rw [execRegisterWrite_up hup, s.writeBar0_ignored h]

theorem execRegisterWrite_nowhere (s : State) {off : Nat} (h : pageAt off = none ∨ ∃ b i, pageAt off = some (b, i) ∧ s.answers b i = false)
    (v : Nat) : exec (.registerWrite off 4 v) s = .next s := by
  by_cases h4 : off % 4 = 0
  · cases hup : s.link.pcieUp with
    | false => exact execRegisterWrite_down hup off 4 v
    | true => rw [execRegisterWrite_up hup, s.writeBar0_four h4, s.writeWord_nowhere h]
  · exact execRegisterWrite_ignored s (.inl h4) v

theorem execRegisterWrite_eight (hup : s.link.pcieUp = true) {off : Nat} (h : off % 4 = 0) (v : Nat) :
    exec (.registerWrite off 8 v) s =
      (match exec (.registerWrite off 4 (v % 2 ^ 32)) s with
       | .next t => .next (t.writeWord (off + 4) (v / 2 ^ 32 % 2 ^ 32))
       | o => o) := by
  rw [execRegisterWrite_up hup, execRegisterWrite_up hup, s.writeBar0_eight h, s.writeBar0_four h, Nat.mod_mod]

/-! ### A register that stores what software writes (R5, R366) -/

/-- Outside the windows of SEC and HIF a register without a behaviour of its own is stored, after the page has noted a write of an RW
field. -/
theorem State.writeReg_stored {b : Blk} {i o v : Nat} {d : RegDef} (h40 : 0x040 ≤ o) (hl : b.lacks i o = false) (hd : b.regAt o = some d)
    (hown : ∀ u : State, u.rangeWrite b o v = none ∧ u.ownWrite b i o d.rw v = none) :
    s.writeReg b i o v =
      (if d.rw != 0 || (b == .sec && 0x800 ≤ o) || (b == .hif && 0x400 ≤ o && o < 0x600) then s.touch b i else s).storeReg b i o v := by
  unfold State.writeReg
  rw [if_neg (by omega), hl, if_neg Bool.false_ne_true, hd]
  dsimp only [Option.elim]
  rw [(hown _).1]
  dsimp only
  rw [(hown _).2, Option.getD_none]

theorem State.storeReg_ro (s : State) {b : Blk} {o : Nat} {d : RegDef} (hd : b.regAt o = some d) (h : d.rw = 0) (i v : Nat) :
    s.storeReg b i o v = s := by
  unfold State.storeReg
  rw [hd]
  simp [h]

theorem State.storeReg_rw (s : State) {b : Blk} {o : Nat} {d : RegDef} (hd : b.regAt o = some d) (h : d.rw ≠ 0) (i v : Nat) :
    s.storeReg b i o v = s.setReg b i o (maskedWrite (s.reg b i o) d.rw v) := by
  unfold State.storeReg
  rw [hd]
  simp [h]

theorem State.touch_reg (s : State) (b : Blk) (i : Nat) (c : Blk) (j o : Nat) : (s.touch b i).reg c j o = s.reg c j o := rfl

theorem State.touch_page (s : State) (b : Blk) (i : Nat) : (s.touch b i).page b i = { s.page b i with src := 2 } := State.page_putPage s b i _

/-- A write that reaches such a register. -/
theorem execRegisterWrite_stored {off v : Nat} {b : Blk} {i o : Nat} {d : RegDef} (hup : s.link.pcieUp = true) (h4 : off % 4 = 0)
    (hp : pageAt off = some (b, i)) (ha : s.answers b i = true) (ho : o = off % 0x1000) (h40 : 0x040 ≤ o) (hl : b.lacks i o = false)
    (hd : b.regAt o = some d) (hv : v < 2 ^ 32) (hown : ∀ u : State, u.rangeWrite b o v = none ∧ u.ownWrite b i o d.rw v = none) :
    (d.rw = 0 → ¬ (b = .sec ∧ 0x800 ≤ o) → ¬ (b = .hif ∧ 0x400 ≤ o ∧ o < 0x600) → exec (.registerWrite off 4 v) s = .next s) ∧
    (d.rw ≠ 0 → ∃ t, exec (.registerWrite off 4 v) s = .next t ∧ t.reg b i o = maskedWrite (s.reg b i o) d.rw v % 2 ^ 32 ∧ (t.page b i).src = 2 ∧
      (∀ k, k ≠ b.base i + o → t.regs.find? k = s.regs.find? k) ∧ Only [.pages, .regs] s t) := by
  have hexec : exec (.registerWrite off 4 v) s = .next ((if d.rw != 0 || (b == .sec && 0x800 ≤ o) || (b == .hif && 0x400 ≤ o && o < 0x600)
      then s.touch b i else s).storeReg b i o v) := by
    rw [execRegisterWrite_up hup, s.writeBar0_four h4, Nat.mod_eq_of_lt hv, s.writeWord_page hp, ha, if_pos rfl, ← ho,
      State.writeReg_stored h40 hl hd hown]
  refine ⟨fun hro hsec hhif => ?_, fun hrw => ?_⟩
  · rw [hexec, if_neg (by simp [hro, and_assoc] at hsec hhif ⊢; exact ⟨hsec, hhif⟩), s.storeReg_ro hd hro]
  · refine ⟨(s.touch b i).setReg b i o (maskedWrite (s.reg b i o) d.rw v), ?_, State.reg_setReg _ b i o _, ?_, fun k hk => ?_, ?_⟩
    · rw [hexec, if_pos (by simp [hrw]), State.storeReg_rw _ hd hrw, s.touch_reg]
    · show ((s.touch b i).page b i).src = 2
      rw [s.touch_page]
    · exact State.find?_setReg_other _ b i o _ k hk
    · exact (State.setReg_only _ b i o _).step (by decide) ((s.touch_only b i).mono (by decide))

/-! ### Reads of BAR0 (R361, R362) -/

/-- The page of a word is that of each of its bytes. -/
theorem pageAt_word (off : Nat) : pageAt (off / 4 * 4) = pageAt off := by
  have hregion : off / 4 * 4 / 0x400000 = off / 0x400000 := by omega
  have hslot : off / 4 * 4 % 0x400000 / 0x1000 = off % 0x400000 / 0x1000 := by omega
  unfold pageAt
  rw [hregion, hslot]

/-- A read within one word. -/
theorem State.readBar0_word (s : State) {off n : Nat} (hn : 1 ≤ n) (hw : off % 4 + n ≤ 4) :
    s.readBar0 off n =
      { (s.readWord (off / 4 * 4)).2 with readData := ((leBytes 4 (s.readWord (off / 4 * 4)).1).drop (off % 4)).take n } := by
  have hcount : ceilDiv (off + n - off / 4 * 4) 4 = 1 := by
    unfold ceilDiv
    omega
  have hfirst : off - off / 4 * 4 = off % 4 := by omega
  unfold State.readBar0
  dsimp only
  rw [hcount, hfirst]
  simp only [readWords, List.append_nil]

theorem State.readWord_latched {off : Nat} {b : Blk} {i o : Nat} (hp : pageAt off = some (b, i)) (ha : s.answers b i = true)
    (ho : off % 0x1000 / 4 * 4 = o) {w : Word} (hw : s.latch.find? (b.base i + o) = some w) :
    s.readWord off = (w.toNat, { s with latch := s.latch.erase (b.base i + o) }) := by
  unfold State.readWord
  rw [hp]
  dsimp only
  rw [ho, ha, hw]
  rfl

theorem State.readWord_live {off : Nat} {b : Blk} {i o : Nat} (hp : pageAt off = some (b, i)) (ha : s.answers b i = true)
    (ho : off % 0x1000 / 4 * 4 = o) (hw : s.latch.find? (b.base i + o) = none) :
    s.readWord off = (s.readReg b i o,
      { s with latch := if b.roPair i o then s.latch.set (b.base i + o + 4) (BitVec.ofNat 32 (s.readReg b i (o + 4))) else s.latch }) := by
  unfold State.readWord
  rw [hp]
  dsimp only
  rw [ho, ha, hw]
  dsimp only
  rw [if_neg (by simp)]
  split <;> rfl

/-- A read within one word answers the addressed bytes, of the latched word where there is one. -/
theorem execLoReadLatch_word {off n : Nat} {b : Blk} {i o : Nat} (hup : s.link.pcieUp = true) (hn : 1 ≤ n) (hw : off % 4 + n ≤ 4)
    (hp : pageAt off = some (b, i)) (ha : s.answers b i = true) (ho : o = off % 0x1000 / 4 * 4) :
    ∃ t, exec (.loReadLatch off n) s = .next t ∧ Only [.latch, .readData] s t ∧
      (∀ w, s.latch.find? (b.base i + o) = some w → t.readData = ((leBytes 4 w.toNat).drop (off % 4)).take n ∧ t.latch = s.latch.erase (b.base i + o)) ∧
      (s.latch.find? (b.base i + o) = none → t.readData = ((leBytes 4 (s.readReg b i o)).drop (off % 4)).take n ∧
        t.latch = if b.roPair i o then s.latch.set (b.base i + o + 4) (BitVec.ofNat 32 (s.readReg b i (o + 4))) else s.latch) := by
  have hpage : pageAt (off / 4 * 4) = some (b, i) := (pageAt_word off).trans hp
  have hoff : off / 4 * 4 % 0x1000 / 4 * 4 = o := by omega
  refine ⟨_, execLoReadLatch_up hup off n, ?_, fun w hl => ?_, fun hl => ?_⟩ <;> rw [s.readBar0_word hn hw]
  · exact Only.set_readData.step (by decide) ((State.readWord_only s _).mono (by decide))
  · rw [State.readWord_latched hpage ha hoff hl]
    exact ⟨rfl, rfl⟩
  · rw [State.readWord_live hpage ha hoff hl]
    exact ⟨rfl, rfl⟩

end Sys2Proof.Machine
end

section
set_option Elab.async false
namespace Sys2Proof.Machine

variable {s : State}

/-! ### A write of the host that reaches its page, or does not (R326) -/

theorem State.hostWo_reaches {b : Blk} {i : Nat} (h : s.hostWrites b i = true) (f : State → State) : s.hostWo b i f = f s := if_pos h

theorem State.hostWo_kept {b : Blk} {i : Nat} (h : s.hostWrites b i = false) (f : State → State) : s.hostWo b i f = s := by
  unfold State.hostWo
  rw [h, if_neg Bool.false_ne_true]

theorem State.host_reaches {b : Blk} {i : Nat} (h : s.hostWrites b i = true) (f : State → State) : s.host b i f = f (s.touch b i) := if_pos h

theorem State.host_kept {b : Blk} {i : Nat} (h : s.hostWrites b i = false) (f : State → State) : s.host b i f = s := by
  unfold State.host
  rw [h, if_neg Bool.false_ne_true]

/-- A command on a page that does not answer changes nothing (R379). -/
theorem exec_page_kept {b : Blk} {i : Nat} (h : s.hostWrites b i = false) (mask : Nat) :
    ∀ x ∈ [Instr.irqStatClear b i mask, .errValidClear b i, .countClr b i, .blockEnableSet b i, .blockEnableClear b i,
      .blockDrainSet b i, .blockDrainClear b i, .softReset b i], exec x s = .next s := by
  have kept (f : State → State) : (.next (s.hostWo b i f) : Out) = .next s := by rw [State.hostWo_kept h]
  simp only [List.forall_mem_cons, List.not_mem_nil, false_implies, implies_true, and_true]
  exact ⟨kept _, kept _, kept _, kept _, kept _, kept _, kept _, kept _⟩

/-! ### What a clear clears (R50, R364, R365, R374) -/

theorem State.statClear_page (s : State) (b : Blk) (i v : Nat) :
    ((s.statClear b i v).page b i).raw = (s.page b i).raw &&& ~~~(BitVec.ofNat 32 v) := by
  have h := State.evalVector_only (s.putPage b i { s.page b i with raw := (s.page b i).raw &&& ~~~(BitVec.ofNat 32 v) }) b.vector
  unfold State.statClear
  rw [State.page_congr (h .pages rfl) (h .insole rfl), State.page_putPage]

theorem State.errClear_page (s : State) (b : Blk) (i : Nat) :
    (s.errClear b i).page b i = { s.page b i with errValid := false, errOver := false, errCode := 0, errInfo := 0, errAddr := 0 } :=
  State.page_putPage s b i _

/-- Registers set to zero one after another. -/
def State.zeroed (s : State) (b : Blk) (i : Nat) (offs : List Nat) : State := offs.foldl (fun (u : State) off => u.setReg b i off 0) s

theorem State.setReg_zero_keeps {b : Blk} {i o : Nat} (h : s.reg b i o = 0) (off : Nat) : (s.setReg b i off 0).reg b i o = 0 := by
  by_cases he : off = o
  · rw [he]
    exact State.reg_setReg s b i o 0
  · rw [State.reg_setReg_other s 0 (by omega), h]

theorem State.zeroed_keeps {b : Blk} {i o : Nat} (offs : List Nat) (h : s.reg b i o = 0) : (s.zeroed b i offs).reg b i o = 0 := by
  induction offs generalizing s with
  | nil => exact h
  | cons a offs ih => exact ih (State.setReg_zero_keeps h a)

theorem State.zeroed_reg (s : State) (b : Blk) (i : Nat) {offs : List Nat} {o : Nat} (h : o ∈ offs) : (s.zeroed b i offs).reg b i o = 0 := by
  induction offs generalizing s with
  | nil => exact absurd h List.not_mem_nil
  | cons a offs ih =>
    rcases List.mem_cons.mp h with rfl | h
    · exact State.zeroed_keeps offs (State.reg_setReg s b i o 0)
    · exact ih (s.setReg b i a 0) h

theorem State.zeroed_only (s : State) (b : Blk) (i : Nat) (offs : List Nat) : Only [.regs] s (s.zeroed b i offs) :=
  .foldl (fun y a hy => (y.setReg_only b i a 0).step (by decide) hy) (.refl _ s)

/-- The bytes of DMA's channels set to zero one after another. -/
def State.channelsZeroed (s : State) (ks : List Nat) : State :=
  ks.foldl (fun (u : State) k => u.putChannel k { u.channel k with bytes := 0 }) s

theorem State.putChannel_zero_keeps {k : Nat} (h : (s.channel k).bytes = 0) (j : Nat) :
    ((s.putChannel j { s.channel j with bytes := 0 }).channel k).bytes = 0 := by
  unfold State.putChannel
  by_cases he : k = j
  · subst he
    show (SMap.get (s.dma.set k _) k _).bytes = 0
    rw [SMap.get_set_same]
  · show (SMap.get (s.dma.set j _) k _).bytes = 0
    rw [SMap.get_set_other _ _ _ _ _ he]
    exact h

theorem State.channelsZeroed_keeps {k : Nat} (ks : List Nat) (h : (s.channel k).bytes = 0) : ((s.channelsZeroed ks).channel k).bytes = 0 := by
  induction ks generalizing s with
  | nil => exact h
  | cons j ks ih => exact ih (State.putChannel_zero_keeps h j)

theorem State.channelsZeroed_bytes (s : State) {ks : List Nat} {k : Nat} (h : k ∈ ks) : ((s.channelsZeroed ks).channel k).bytes = 0 := by
  induction ks generalizing s with
  | nil => exact absurd h List.not_mem_nil
  | cons j ks ih =>
    rcases List.mem_cons.mp h with rfl | h
    · refine State.channelsZeroed_keeps ks ?_
      show (SMap.get (s.dma.set k _) k _).bytes = 0
      rw [SMap.get_set_same]
    · exact ih (s.putChannel j _) h

theorem State.channelsZeroed_only (s : State) (ks : List Nat) : Only [.dma] s (s.channelsZeroed ks) :=
  .foldl (fun y k hy => (y.putChannel_only k _).step (by decide) hy) (.refl _ s)

/-- COUNT_CLR leaves of its block's counters none but at zero. -/
theorem State.countClear_cleared (s : State) (b : Blk) (i : Nat) :
    (∀ o ∈ b.countClr.2, (s.countClear b i).reg b i o = 0) ∧ (b = .dma → ∀ k, k < 8 → ((s.countClear b i).channel k).bytes = 0) ∧
    (b = .pwr → (s.countClear b i).pwr.reasons = Pwr.reset.reasons) ∧ (b ≠ .me → (s.countClear b i).me = s.me) := by
  have hrest (c : Blk) : Only [.dma, .me, .pwr] (s.zeroed c i c.countClr.2) (s.countClear c i) := by
    cases c
    case dma => exact ((s.zeroed .dma i _).channelsZeroed_only (List.range 8)).mono (by decide)
    case me => exact Only.set_me.mono (by decide)
    case pwr => exact Only.set_pwr.mono (by decide)
    all_goals exact .refl _ _
  have hzero := s.zeroed_only b i b.countClr.2
  refine ⟨fun o ho => ?_, fun hb k hk => ?_, fun hb => ?_, fun hb => ?_⟩
  · rw [State.reg_congr (hrest b .regs rfl) (hrest b .insole rfl) (hrest b .part rfl)]
    exact s.zeroed_reg b i ho
  · subst hb
    exact (s.zeroed .dma i _).channelsZeroed_bytes (List.mem_range.mpr hk)
  · subst hb
    rfl
  · have hme : (s.countClear b i).me = (s.zeroed b i b.countClr.2).me := by
      cases b
      case me => exact absurd rfl hb
      case dma => exact ((s.zeroed .dma i _).channelsZeroed_only (List.range 8)) .me rfl
      all_goals rfl
    exact hme.trans (hzero .me rfl)

/-- The three clears of a page that answers. -/
theorem exec_clears {b : Blk} {i : Nat} (h : s.hostWrites b i = true) :
    (∀ mask, ∃ t, exec (.irqStatClear b i mask) s = .next t ∧ (t.page b i).raw = (s.page b i).raw &&& ~~~(BitVec.ofNat 32 mask) ∧
      Only [.hostMem, .msix, .pages] s t) ∧
    (∃ t, exec (.errValidClear b i) s = .next t ∧
      t.page b i = { s.page b i with errValid := false, errOver := false, errCode := 0, errInfo := 0, errAddr := 0 } ∧ Only [.pages] s t) ∧
    (∃ t, exec (.countClr b i) s = .next t ∧ (∀ o ∈ b.countClr.2, t.reg b i o = 0) ∧ (b = .dma → ∀ k, k < 8 → (t.channel k).bytes = 0) ∧
      (b = .pwr → t.pwr.reasons = Pwr.reset.reasons) ∧ (b ≠ .me → t.me = s.me) ∧ Only [.dma, .me, .pwr, .regs] s t) := by
  have reaches (f : State → State) : (.next (s.hostWo b i f) : Out) = .next (f s) := by rw [State.hostWo_reaches h]
  obtain ⟨hregs, hdma, hpwr, hme⟩ := s.countClear_cleared b i
  exact ⟨fun mask => ⟨_, reaches _, s.statClear_page b i mask, (s.statClear_only b i mask).mono (by decide)⟩,
    ⟨_, reaches _, s.errClear_page b i, s.errClear_only b i⟩,
    ⟨_, reaches _, hregs, hdma, hpwr, hme, (s.countClear_only b i).mono (by decide)⟩⟩

theorem exec_sched_kept (h : s.hostWrites .sched 0 = false) (v : Nat) :
    exec .preemptMaxClr s = .next s ∧ exec (.jobValidSet v) s = .next s ∧ exec (.jobValidClear v) s = .next s := by
  have kept (f : State → State) : (.next (s.host .sched 0 f) : Out) = .next s := by rw [State.host_kept h]
  have keptWo (f : State → State) : (.next (s.hostWo .sched 0 f) : Out) = .next s := by rw [State.hostWo_kept h]
  exact ⟨keptWo _, kept _, kept _⟩

theorem execPreemptMaxClr_clears (h : s.hostWrites .sched 0 = true) :
    ∃ t, exec .preemptMaxClr s = .next t ∧ t.reg .sched 0 0x06C = 0 ∧ Only [.regs] s t := by
  refine ⟨s.setReg .sched 0 0x06C 0, ?_, State.reg_setReg s _ _ _ _, s.setReg_only _ _ _ _⟩
  show execPreemptMaxClr s = _
  unfold execPreemptMaxClr
  rw [State.hostWo_reaches h]

theorem execDieTempMaxClr_kept {die : Nat} (h : 8 < die ∨ s.hostWrites (diePageOf die).1 (diePageOf die).2 = false) :
    exec (.dieTempMaxClr die) s = .next s := by
  show execDieTempMaxClr die s = _
  unfold execDieTempMaxClr
  dsimp only
  rcases h with h | h
  · rw [if_neg (by omega)]
  · rw [State.hostWo_kept h, ite_self]

theorem execDieTempMaxClr_clears {die : Nat} (hd : die ≤ 8) (h : s.hostWrites (diePageOf die).1 (diePageOf die).2 = true) :
    ∃ t, exec (.dieTempMaxClr die) s = .next t ∧ t.reg (diePageOf die).1 (diePageOf die).2 0x048 = 0 ∧ Only [.regs] s t := by
  refine ⟨s.setReg (diePageOf die).1 (diePageOf die).2 0x048 0, ?_, State.reg_setReg s _ _ _ _, s.setReg_only _ _ _ _⟩
  show execDieTempMaxClr die s = _
  unfold execDieTempMaxClr
  dsimp only
  rw [if_pos hd, State.hostWo_reaches h]
  rfl

end Sys2Proof.Machine
end

section
set_option Elab.async false
namespace Sys2Proof.Machine

variable {s : State}

/-! ### A job comes to exist (R19) -/

/-- From `s` to `t` no job is another but perhaps job `j`, and of that one nothing that JOB_VALID_SET says is. -/
structure State.KeepsJob (j : Nat) (s t : State) : Prop where
  cfg : (t.job j).cfg = (s.job j).cfg
  apts : (t.job j).apts = (s.job j).apts
  land : (t.job j).land = (s.job j).land
  steps : (t.job j).steps = (s.job j).steps
  repro : (t.job j).repro = (s.job j).repro
  others : ∀ k, k ≠ j → t.job k = s.job k

namespace State.KeepsJob

theorem of_jobs {j : Nat} {s t : State} (h : t.jobs = s.jobs) : KeepsJob j s t :=
  have hjob := State.job_congr h
  ⟨by rw [hjob], by rw [hjob], by rw [hjob], by rw [hjob], by rw [hjob], fun k _ => hjob k⟩

theorem of_only {j : Nat} {fs : List StateField} {s t : State} (h : Only fs s t) (hj : (fieldMask fs).testBit StateField.jobs.idx = false) :
    KeepsJob j s t := of_jobs (h .jobs hj)

theorem trans {j : Nat} {s t u : State} (h : KeepsJob j s t) (k : KeepsJob j t u) : KeepsJob j s u :=
  ⟨k.cfg.trans h.cfg, k.apts.trans h.apts, k.land.trans h.land, k.steps.trans h.steps, k.repro.trans h.repro,
    fun i hi => (k.others i hi).trans (h.others i hi)⟩

theorem of_putJob {j : Nat} {x : Job} (s : State) (hcfg : x.cfg = (s.job j).cfg) (hapts : x.apts = (s.job j).apts)
    (hland : x.land = (s.job j).land) (hsteps : x.steps = (s.job j).steps) (hrepro : x.repro = (s.job j).repro) :
    KeepsJob j s (s.putJob j x) := by
  have hjob := State.putJob_job s j x
  exact ⟨by rw [hjob, hcfg], by rw [hjob, hapts], by rw [hjob, hland], by rw [hjob, hsteps], by rw [hjob, hrepro],
    fun k hk => State.putJob_job_other s x hk⟩

end State.KeepsJob

theorem State.readScaleDir_keepsJob (s : State) (j : Nat) : State.KeepsJob j s (s.readScaleDir j) := by
  unfold State.readScaleDir
  split
  · exact .of_jobs rfl
  · split
    · exact .of_jobs rfl
    · split
      · exact .trans (.of_only (State.putDir_only _ j 16 _) rfl) (.of_only (State.putDir_only _ j 18 _) rfl)
      · exact .of_putJob s rfl rfl rfl rfl rfl

theorem State.readAdaptDir_keepsJob (s : State) (j : Nat) : State.KeepsJob j s (s.readAdaptDir j) := by
  unfold State.readAdaptDir
  split
  · exact .of_jobs rfl
  · dsimp only
    split
    · exact .of_jobs rfl
    · split
      · exact .trans (.of_only (State.putDir_only _ j _ _) rfl) (.of_only (State.putDir_only _ j _ _) rfl)
      · exact .of_putJob s rfl rfl rfl rfl rfl

theorem State.keepWeights_keepsJob (s : State) (j epoch : Nat) : State.KeepsJob j s (s.keepWeights j epoch) := .of_putJob s rfl rfl rfl rfl rfl

/-- What a new job starts from (R19, R20, R309). -/
def State.newJob (s : State) (j v : Nat) : Job :=
  { Job.fresh with cfg := BitVec.ofNat 32 v, apts := (s.job j).apts, land := (s.job j).land, repro := s.reproNow }

theorem State.createJob_keepsJob (s : State) (j v : Nat) : State.KeepsJob j ((s.forgetJob j).putJob j (s.newJob j v)) (s.createJob j v) :=
  .trans (State.readScaleDir_keepsJob _ j) (.trans (State.readAdaptDir_keepsJob _ j) (State.keepWeights_keepsJob _ j 0))

/-- The job that a write of JOB_CFG with VALID set makes. -/
theorem State.createJob_job (s : State) (j v : Nat) :
    ((s.createJob j v).job j).cfg = BitVec.ofNat 32 v ∧ ((s.createJob j v).job j).apts = (s.job j).apts ∧
    ((s.createJob j v).job j).land = (s.job j).land ∧ ((s.createJob j v).job j).steps = 0 ∧ ((s.createJob j v).job j).repro = s.reproNow ∧
    ∀ k, k ≠ j → (s.createJob j v).job k = s.job k := by
  have h := s.createJob_keepsJob j v
  have hnew := State.putJob_job (s.forgetJob j) j (s.newJob j v)
  refine ⟨?_, ?_, ?_, ?_, ?_, fun k hk => (h.others k hk).trans (State.putJob_job_other (s.forgetJob j) _ hk)⟩
  · rw [h.cfg, hnew]; rfl
  · rw [h.apts, hnew]; rfl
  · rw [h.land, hnew]; rfl
  · rw [h.steps, hnew]; rfl
  · rw [h.repro, hnew]; rfl

/-! ### What a write of JOB_CFG does (R19, R21, R22) -/

/-- What follows once a job has come or gone. -/
theorem State.track_settle_only (s : State) : Only [.devState, .engines, .hostMem, .msix, .pages, .pins] s s.track.settleState :=
  s.track.settleState_only.step (by decide) (s.track_only.mono (by decide))

variable {j v new : Nat}

theorem State.jobCfgWrite_creates (hv : (s.job j).valid = false) (h31 : (v &&& 0xF000FFFF).testBit 31 = true) :
    s.jobCfgWrite j v = (s.createJob j (v &&& 0xF000FFFF)).track.settleState := by
  unfold State.jobCfgWrite
  dsimp only
  rw [hv, h31]
  rfl

theorem State.jobCfgWrite_stays (hv : (s.job j).valid = false) (h31 : (v &&& 0xF000FFFF).testBit 31 = false) :
    s.jobCfgWrite j v = s.putJob j { s.job j with cfg := BitVec.ofNat 32 (v &&& 0xF000FFFF) } := by
  unfold State.jobCfgWrite
  dsimp only
  rw [hv, h31]
  rfl

theorem State.jobCfgWrite_refused (hv : (s.job j).valid = true) (h31 : (v &&& 0xF000FFFF).testBit 31 = false) (hq : s.queuedOf j ≠ 0) :
    s.jobCfgWrite j v = s.err .sched 0 1 j 0 := by
  unfold State.jobCfgWrite
  dsimp only
  rw [hv, h31, if_neg (by decide), if_pos (by decide), if_pos (by simpa using hq)]

theorem State.jobCfgWrite_removes (hv : (s.job j).valid = true) (h31 : (v &&& 0xF000FFFF).testBit 31 = false) (hq : s.queuedOf j = 0) :
    s.jobCfgWrite j v = (s.removeJob j (v &&& 0xF000FFFF)).track.settleState := by
  unfold State.jobCfgWrite
  dsimp only
  rw [hv, h31, if_neg (by decide), if_pos (by decide), if_neg (by simp [hq])]

theorem State.jobCfgWrite_changes (hv : (s.job j).valid = true) (h31 : (v &&& 0xF000FFFF).testBit 31 = true)
    (hsame : bits (v &&& 0xF000FFFF) 29 28 = bits (s.job j).cfg.toNat 29 28 ∧ bits (v &&& 0xF000FFFF) 15 0 = bits (s.job j).cfg.toNat 15 0) :
    s.jobCfgWrite j v = s.putJob j { s.job j with cfg := BitVec.ofNat 32 (v &&& 0xF000FFFF) } := by
  unfold State.jobCfgWrite
  dsimp only
  rw [hv, h31, if_neg (by decide), if_neg (by decide), if_neg (by simp [hsame])]

theorem State.jobCfgWrite_breaks (hv : (s.job j).valid = true) (h31 : (v &&& 0xF000FFFF).testBit 31 = true)
    (hother : bits (v &&& 0xF000FFFF) 29 28 ≠ bits (s.job j).cfg.toNat 29 28 ∨ bits (v &&& 0xF000FFFF) 15 0 ≠ bits (s.job j).cfg.toNat 15 0) :
    s.jobCfgWrite j v = s.brokenCfg j (v &&& 0xF000FFFF) := by
  unfold State.jobCfgWrite
  dsimp only
  rw [hv, h31, if_neg (by decide), if_neg (by decide), if_pos (by simpa using hother)]

/-- CLASS and ENGINE_MASK lie below VALID. -/
theorem setBits_valid {v : Nat} (a b : Nat) (h : v.testBit 31 = true) :
    (BitVec.ofNat 32 (setBits (setBits v 29 28 a) 15 0 b)).getLsbD 31 = true := by
  rw [BitVec.getLsbD_ofNat]
  simp only [Nat.testBit_eq_decide_div_mod_eq, decide_eq_true_eq, Bool.and_eq_true] at h ⊢
  refine ⟨by decide, ?_⟩
  simp only [setBits, bits, Nat.shiftLeft_eq, Nat.shiftRight_eq_div_pow]
  omega

/-! ### The two commands on the selected job -/

theorem execJobValidSet_eq (hw : s.hostWrites .sched 0 = true) (v : Nat) :
    exec (.jobValidSet v) s = .next ((s.touch .sched 0).jobCfgWrite s.jobSel (v ||| 2 ^ 31)) := by
  show execJobValidSet v s = _
  unfold execJobValidSet
  rw [State.host_reaches hw]
  rfl

theorem execJobValidClear_eq (hw : s.hostWrites .sched 0 = true) (v : Nat) :
    exec (.jobValidClear v) s = .next ((s.touch .sched 0).jobCfgWrite s.jobSel (v % 2 ^ 31)) := by
  show execJobValidClear v s = _
  unfold execJobValidClear
  rw [State.host_reaches hw]
  rfl

theorem cfg_set_valid (v : Nat) : ((v ||| 2 ^ 31) &&& 0xF000FFFF).testBit 31 = true := by
  rw [Nat.testBit_and, Nat.testBit_or, Nat.testBit_two_pow_self, Bool.or_true, Bool.true_and]
  decide

theorem cfg_clear_invalid (v : Nat) : ((v % 2 ^ 31) &&& 0xF000FFFF).testBit 31 = false := by
  rw [Nat.testBit_and, Nat.testBit_mod_two_pow]
  rfl

theorem execJobValidSet_sets (hw : s.hostWrites .sched 0 = true) (hj : j = s.jobSel) (hnew : new = (v ||| 2 ^ 31) &&& 0xF000FFFF) :
    ((s.job j).valid = false → ∃ t, exec (.jobValidSet v) s = .next t ∧ (t.job j).cfg = BitVec.ofNat 32 new ∧ (t.job j).apts = (s.job j).apts ∧
      (t.job j).land = (s.job j).land ∧ (t.job j).steps = 0 ∧ (t.job j).repro = s.reproNow ∧ (∀ k, k ≠ j → t.job k = s.job k) ∧
      Only [.badWords, .devState, .engines, .hostMem, .jobs, .mem, .msix, .pages, .pins, .softWords] s t) ∧
    ((s.job j).valid = true → new.testBit 31 = true →
      (bits new 29 28 = bits (s.job j).cfg.toNat 29 28 ∧ bits new 15 0 = bits (s.job j).cfg.toNat 15 0 → ∃ t, exec (.jobValidSet v) s = .next t ∧
        t.job j = { s.job j with cfg := BitVec.ofNat 32 new } ∧ (∀ k, k ≠ j → t.job k = s.job k) ∧ Only [.jobs, .pages] s t) ∧
      (bits new 29 28 ≠ bits (s.job j).cfg.toNat 29 28 ∨ bits new 15 0 ≠ bits (s.job j).cfg.toNat 15 0 →
        ∃ t w, exec (.jobValidSet v) s = .next t ∧ t.job j = { s.job j with cfg := w } ∧ w.getLsbD 31 = true ∧ (∀ k, k ≠ j → t.job k = s.job k) ∧
          Only [.freeCount, .jobs, .pages] s t)) := by
  have hexec := execJobValidSet_eq hw v
  have h31 := cfg_set_valid v
  rw [← hj] at hexec
  rw [hnew]
  have htouch := s.touch_only .sched 0
  refine ⟨fun hv => ?_, fun hv _ => ⟨fun hsame => ?_, fun hother => ?_⟩⟩
  · have hend := ((s.touch .sched 0).createJob j ((v ||| 2 ^ 31) &&& 0xF000FFFF)).track_settle_only
    obtain ⟨hcfg, hapts, hland, hsteps, hrepro, hothers⟩ := (s.touch .sched 0).createJob_job j ((v ||| 2 ^ 31) &&& 0xF000FFFF)
    have hjob := State.job_congr (hend .jobs rfl)
    refine ⟨_, hexec.trans (congrArg _ (State.jobCfgWrite_creates (s := s.touch .sched 0) hv h31)), ?_, ?_, ?_, ?_, ?_, fun k hk => ?_, ?_⟩
    · rw [hjob, hcfg]
    · rw [hjob, hapts]; rfl
    · rw [hjob, hland]; rfl
    · rw [hjob, hsteps]
    · rw [hjob, hrepro]; rfl
    · rw [hjob, hothers k hk]; rfl
    · exact hend.step (by decide) ((State.createJob_only _ j _).step (by decide) (htouch.mono (by decide)))
  · exact ⟨_, hexec.trans (congrArg _ (State.jobCfgWrite_changes (s := s.touch .sched 0) hv h31 hsame)), State.putJob_job _ j _,
      fun k hk => State.putJob_job_other (s.touch .sched 0) _ hk, (State.putJob_only _ j _).step (by decide) (htouch.mono (by decide))⟩
  · exact ⟨_, _, hexec.trans (congrArg _ (State.jobCfgWrite_breaks (s := s.touch .sched 0) hv h31 hother)), State.putJob_job _ j _,
      setBits_valid _ _ h31, fun k hk => State.putJob_job_other (s.touch .sched 0).free.2 _ hk,
      (State.brokenCfg_only _ j _).step (by decide) (htouch.mono (by decide))⟩

theorem execJobValidClear_clears (hw : s.hostWrites .sched 0 = true) (hj : j = s.jobSel) (hnew : new = (v % 2 ^ 31) &&& 0xF000FFFF) :
    ((s.job j).valid = false → ∃ t, exec (.jobValidClear v) s = .next t ∧ t.job j = { s.job j with cfg := BitVec.ofNat 32 new } ∧
      (∀ k, k ≠ j → t.job k = s.job k) ∧ Only [.jobs, .pages] s t) ∧
    ((s.job j).valid = true → s.queuedOf j ≠ 0 → ∃ t, exec (.jobValidClear v) s = .next t ∧ (t.page .sched 0).errCode = 1 ∧
      (t.page .sched 0).errInfo = BitVec.ofNat 32 j ∧ Only [.pages] s t) ∧
    ((s.job j).valid = true → s.queuedOf j = 0 → ∃ t, exec (.jobValidClear v) s = .next t ∧
      t.job j = { s.job j with cfg := BitVec.ofNat 32 new, turnSteps := 0, turnPending := none, scaleDir := false, adaptDir := false } ∧
      (∀ k, k ≠ j → t.job k = s.job k) ∧ Only [.devState, .engines, .hostMem, .jobs, .msix, .pages, .pins] s t) := by
  have hexec := execJobValidClear_eq hw v
  have h31 := cfg_clear_invalid v
  rw [← hj] at hexec
  rw [hnew]
  have htouch := s.touch_only .sched 0
  refine ⟨fun hv => ?_, fun hv hq => ?_, fun hv hq => ?_⟩
  · exact ⟨_, hexec.trans (congrArg _ (State.jobCfgWrite_stays (s := s.touch .sched 0) hv h31)), State.putJob_job _ j _,
      fun k hk => State.putJob_job_other (s.touch .sched 0) _ hk, (State.putJob_only _ j _).step (by decide) (htouch.mono (by decide))⟩
  · refine ⟨_, hexec.trans (congrArg _ (State.jobCfgWrite_refused (s := s.touch .sched 0) hv h31 hq)), ?_, ?_, (State.err_only _ _ _ _ _ _).step (by decide) htouch⟩
    · rw [State.err_page]
    · rw [State.err_page]
  · have hend := ((s.touch .sched 0).removeJob j ((v % 2 ^ 31) &&& 0xF000FFFF)).track_settle_only
    have hjob := State.job_congr (hend .jobs rfl)
    refine ⟨_, hexec.trans (congrArg _ (State.jobCfgWrite_removes (s := s.touch .sched 0) hv h31 hq)), ?_, fun k hk => ?_, ?_⟩
    · exact (hjob j).trans (State.putJob_job _ j _)
    · exact (hjob k).trans (State.putJob_job_other ((s.touch .sched 0).forgetJob j) _ hk)
    · exact hend.step (by decide) ((State.removeJob_only _ j _).step (by decide) (htouch.mono (by decide)))

end Sys2Proof.Machine
end

section
set_option Elab.async false
namespace Sys2Proof.Machine

/-! ### What leaves the headers of pages standing but for RAW (R363, R364) -/

/-- From `s` to `t` every stored header is as it was, but perhaps for its RAW bits. -/
def State.Stands (s t : State) : Prop :=
  ∀ k p, s.pages.find? k = some p → ∃ r, t.pages.find? k = some { p with raw := r }

namespace State.Stands

theorem of_pages {s t : State} (h : t.pages = s.pages) : s.Stands t := fun k p hp => ⟨p.raw, by rw [h, hp]⟩

theorem refl (s : State) : s.Stands s := of_pages rfl

theorem of_only {fs : List StateField} {s t : State} (h : Only fs s t) (hf : (fieldMask fs).testBit StateField.pages.idx = false) :
    s.Stands t := of_pages (h .pages hf)

theorem trans {s t u : State} (h : s.Stands t) (k : t.Stands u) : s.Stands u := fun o p hp => by
  obtain ⟨r, hr⟩ := h o p hp
  have hu := k o _ hr
  exact hu

theorem ite {s t u : State} {c : Prop} [Decidable c] (ht : s.Stands t) (hu : s.Stands u) : s.Stands (if c then t else u) := by
  split <;> assumption

theorem foldl {α : Type} {s : State} {g : State → α → State} {l : List α} (hg : ∀ (y : State) a, y.Stands (g y a)) : s.Stands (l.foldl g s) := by
  induction l generalizing s with
  | nil => exact refl s
  | cons a l ih => exact (hg s a).trans ih

theorem foldl_fst {α β : Type} {g : State × β → α → State × β} {l : List α} {x : State × β} (hg : ∀ (y : State × β) a, y.1.Stands (g y a).1) :
    x.1.Stands (l.foldl g x).1 := by
  induction l generalizing x with
  | nil => exact refl x.1
  | cons a l ih => exact (hg x a).trans ih

/-- The header of a page that is stored. -/
theorem page {s t : State} (h : s.Stands t) {b : Blk} {i : Nat} {p : Page} (hp : s.pages.find? (b.base i) = some p) :
    ∃ r, t.page b i = { p with raw := r } := by
  obtain ⟨r, hr⟩ := h _ p hp
  refine ⟨r, ?_⟩
  unfold State.page SMap.get
  rw [hr, Option.getD_some]

end State.Stands

theorem State.find?_putPage (s : State) (b : Blk) (i : Nat) (p : Page) : (s.putPage b i p).pages.find? (b.base i) = some p :=
  SMap.find?_set_same _ _ _

theorem State.page_of_find? {s : State} {b : Blk} {i : Nat} {p : Page} (h : s.pages.find? (b.base i) = some p) : s.page b i = p := by
  unfold State.page SMap.get
  rw [h, Option.getD_some]

theorem State.irq_stands (s : State) (b : Blk) (i : Nat) (m : Word) : s.Stands (s.irq b i m) := by
  intro k p hp
  have hpages : (s.irq b i m).pages = (s.putPage b i { s.page b i with raw := (s.page b i).raw ||| m }).pages :=
    State.evalVector_only _ b.vector .pages rfl
  rw [hpages]
  by_cases hk : k = b.base i
  · subst hk
    refine ⟨(s.page b i).raw ||| m, ?_⟩
    rw [State.find?_putPage, State.page_of_find? hp]
  · exact ⟨p.raw, (SMap.find?_set_other _ _ _ _ hk).trans hp⟩

theorem State.pulse_stands (s : State) (b : Blk) (i event n : Nat) (job : Option Nat) : s.Stands (s.pulse b i event n job) := by
  unfold State.pulse State.saturate
  dsimp only
  refine .ite (.refl s) (.foldl fun y k => ?_)
  have hput (key : Nat) (c : Ctr) : y.Stands (y.putCtr key c) := .of_only (State.putCtr_only y key c) rfl
  exact .ite (.refl y) (.ite ((hput _ _).trans (State.irq_stands _ _ _ _)) (hput _ _))

theorem State.rasterRest_stands (s : State) : s.Stands s.rasterRest := by
  unfold State.rasterRest
  dsimp only
  exact .ite (.of_only Only.set_raster rfl) (.trans (.of_only Only.set_raster rfl) (State.irq_stands _ _ _ _))

theorem State.logFaultAt_stands (s : State) (time : Nat) (b : Blk) (i cls action addr commands moved us : Nat) :
    s.Stands (s.logFaultAt time b i cls action addr commands moved us) := by
  rcases s.logFaultAt_cases time b i cls action addr commands moved us with h | ⟨t, h, ht, -⟩
  · rw [h]
    exact .refl s
  · rw [h]
    exact .trans (.of_only ht (by decide)) (State.irq_stands _ _ _ _)

theorem State.logNote_stands (s : State) (c : Cmd) : s.Stands (s.logNote c) := by
  unfold State.logNote
  cases c.fault with
  | none => exact .refl s
  | some n => exact State.logFaultAt_stands _ _ _ _ _ _ _ _ _ _

theorem State.trace_stands (s : State) (c : Cmd) (kind status cause : Nat) : s.Stands (s.trace c kind status cause) := by
  obtain ⟨t, h, ht, -⟩ := s.trace_cases c kind status cause
  have hr : s.Stands t := .of_only ht (by decide)
  rcases h with h | h
  · rwa [h]
  · rw [h]
    exact hr.trans (State.irq_stands _ _ _ _)

/-! ### A completion record and the end of a replay -/

theorem State.tallied_stands (s t : State) (c : Cmd) : t.Stands (s.tallied t c) := by
  rcases s.tallied_cases t c with h | ⟨b, i, event, h⟩ <;> rw [h]
  · exact .refl t
  · exact State.pulse_stands _ _ _ _ _ _

theorem State.recorded_stands (s : State) (c : Cmd) (st : Status) (cause : Nat) : s.Stands (s.recorded c st cause) := by
  have htraced : s.Stands (s.traced c st cause) :=
    .trans (.trans (.ite (State.rasterRest_stands s) (.refl s)) (State.trace_stands _ _ _ _ _)) (.of_only (State.collRefuse_only _ _ _) rfl)
  have hretired : (s.traced c st cause).Stands (s.retired c st cause) :=
    .trans (.of_only (State.advanceAll_only _ _ _) rfl) (.trans (.of_only (State.warped_only _ _ _) rfl) (.of_only (State.retire_only _ _ _) rfl))
  have hnoted := State.Stands.of_only (State.noted_only s (s.retired c st cause) c st) rfl
  have haccounted (t : State) : t.Stands (s.accounted t c st) :=
    .trans (.of_only (State.groupSettled_only t c st) (by decide)) (.trans (State.tallied_stands _ _ _) (State.logNote_stands _ _))
  exact htraced.trans (hretired.trans (hnoted.trans (haccounted _)))

theorem State.logBack_stands (s : State) (a : Nat) (r : Rec) : s.Stands (s.logBack a r) := by
  have hput (u : State) (hu : Only [.mem, .badWords, .softWords] s u) :
      s.Stands { u with backlog := s.backlog ++ [{ r with entry := .none }] } :=
    .trans (.of_only hu rfl) (.of_only Only.set_backlog rfl)
  have hdev := hput _ (s.devPut_only (a + 16 * s.backlog.length) (r.bytes false))
  exact .ite (hdev.trans (State.irq_stands _ _ _ _)) hdev

theorem State.deliver_stands (s : State) (r : Rec) : s.Stands (s.deliver r) := by
  unfold State.deliver
  split
  · split
    · exact s.logBack_stands _ r
    · exact .of_only Only.set_waiting rfl
  · exact .trans (.of_only Only.set_waiting rfl) (.of_only (State.pumpRing_only _ _) rfl)

theorem State.produce_stands (s : State) (c : Cmd) (st : Status) (cause : Nat) : s.Stands (s.produce c st cause) := by
  rw [State.produce_eq]
  have hrest (t : State) : t.Stands (t.restFor c) :=
    .trans (.ite (State.rasterRest_stands t) (.refl t)) (.of_only (State.track_only _) rfl)
  exact (State.recorded_stands s c st cause).trans ((State.deliver_stands _ _).trans (hrest _))

theorem State.endReplay_stands (s : State) (c : Cmd) (st : Status) : s.Stands (s.endReplay c st) := by
  unfold State.endReplay
  exact .trans (.of_only (State.putCmd_only s _) rfl) (.trans (.of_only (State.settleGroup_only _ c st) rfl)
    (.trans (State.logNote_stands _ c) (.of_only (State.track_only _) rfl)))

/-! ### Tile groups that leave their engine (R435) -/

theorem State.finishGroup_stands (s : State) (g : Group) : s.Stands (s.finishGroup g) := by
  unfold State.finishGroup
  refine .foldl fun t c => ?_
  split
  · split
    · exact .ite (State.endReplay_stands _ _ _) (State.produce_stands _ _ _ _)
    · exact .refl t
  · exact .refl t

theorem State.moveGroup_stands (s : State) (st : Status) (g : Group) : s.Stands (s.moveGroup st g).1 := by
  have hfinish := s.finishGroup_stands g
  have hregroup (x : Step) (y : Group) (e : Nat) : s.Stands ((s.finishGroup g).regroup x y e) :=
    hfinish.trans (.of_only (State.regroup_only _ x y e) rfl)
  have hfail (y : Group) : s.Stands ((s.finishGroup g).failGroup y st) := hfinish.trans (.of_only (State.failGroup_only _ y st) rfl)
  unfold State.moveGroup
  dsimp only
  split
  · split
    · exact hfinish
    · split
      · split
        · exact hregroup _ _ _
        · exact hfail _
      · split
        · exact hfail _
        · exact hfinish
  · exact hfinish

theorem State.moveFrom_stands (s : State) (e : Nat) (st : Status) : s.Stands (s.moveFrom e st).1 :=
  State.Stands.foldl_fst (x := (s, 0)) fun y g => y.1.moveGroup_stands st g

/-! ### What follows a change of ENABLE -/

theorem State.setDevState_stands (s : State) (d : Nat) : s.Stands (s.setDevState d) := by
  unfold State.setDevState
  exact .ite (.refl s) (.trans (.of_only Only.set_devState_pins rfl) (State.irq_stands _ _ _ _))

theorem State.settleState_stands (s : State) : s.Stands s.settleState := .ite (s.setDevState_stands _) (.refl s)

theorem State.settle_track_stands (s : State) : s.Stands s.settleState.track :=
  s.settleState_stands.trans (.of_only (State.track_only _) rfl)

theorem State.latchFrame_stands (s : State) : s.Stands s.latchFrame := by
  unfold State.latchFrame
  dsimp only
  exact .ite (.trans (.of_only Only.set_disp rfl) (State.irq_stands _ _ _ _)) (.of_only Only.set_disp rfl)

theorem State.startDisplay_stands (s : State) : s.Stands s.startDisplay := by
  have hend (u : State) (hu : u.pages = s.pages) :
      s.Stands (if s.disp.genlock.sync == 2 then u.latchFrame.freeTables.irq .disp 0 0b10000 else u.latchFrame.freeTables) := by
    have hfree : s.Stands u.latchFrame.freeTables :=
      .trans (.of_pages hu) (u.latchFrame_stands.trans (.of_only (State.freeTables_only _) rfl))
    exact .ite (hfree.trans (State.irq_stands _ _ _ _)) hfree
  unfold State.startDisplay
  dsimp only
  split
  · exact .refl s
  · exact hend _ rfl

theorem State.started_stands (s : State) (b : Blk) : s.Stands (s.started b) := by
  cases b
  case disp => exact s.startDisplay_stands
  all_goals exact .of_pages rfl

theorem State.discardPasses_stands (s : State) : s.Stands s.discardPasses :=
  .trans (.of_only Only.set_raster rfl) (State.rasterRest_stands _)

theorem State.clearHeld_stands (s : State) (b : Blk) (i : Nat) : s.Stands (s.clearHeld b i) := by
  cases b
  case raster => exact .ite (.of_only Only.set_raster rfl) (.trans (.of_only Only.set_raster rfl) (State.irq_stands _ _ _ _))
  all_goals exact .of_pages rfl

end Sys2Proof.Machine
end

section
set_option Elab.async false
namespace Sys2Proof.Machine

/-! ### The control word of a block (R367, R368) -/

/-- BLK_CTRL: GATE_EN of an engine, DRAIN and ENABLE. -/
def ctrlWord (gate drain enable : Bool) : Nat := b2n gate * 8 + b2n drain * 2 + b2n enable

theorem ctrlWord_enableSet : ∀ g d e : Bool, (ctrlWord g d e / 2 * 2 + 1).testBit 0 = true ∧ (ctrlWord g d e / 2 * 2 + 1).testBit 1 = d ∧
    (ctrlWord g d e / 2 * 2 + 1).testBit 2 = false := by decide

theorem ctrlWord_enableClear : ∀ g d e : Bool, (ctrlWord g d e / 2 * 2).testBit 0 = false ∧ (ctrlWord g d e / 2 * 2).testBit 1 = d ∧
    (ctrlWord g d e / 2 * 2).testBit 2 = false := by decide

theorem ctrlWord_drainSet : ∀ g d e : Bool, (ctrlWord g d e ||| 2).testBit 0 = e ∧ (ctrlWord g d e ||| 2).testBit 1 = true ∧
    (ctrlWord g d e ||| 2).testBit 2 = false := by decide

theorem ctrlWord_drainClear : ∀ g d e : Bool, (ctrlWord g d e - (ctrlWord g d e &&& 2)).testBit 0 = e ∧
    (ctrlWord g d e - (ctrlWord g d e &&& 2)).testBit 1 = false ∧ (ctrlWord g d e - (ctrlWord g d e &&& 2)).testBit 2 = false := by decide

theorem ctrlWord_softReset : ∀ g d e : Bool, (ctrlWord g d e ||| 4).testBit 0 = e ∧ (ctrlWord g d e ||| 4).testBit 1 = d ∧
    (ctrlWord g d e ||| 4).testBit 2 = true := by decide

section
variable {s : State} {b : Blk} {i : Nat}

theorem State.blkCtrl_writable (hb : b.enableWritable = true) : ∃ g, s.blkCtrl b i = ctrlWord g (s.page b i).drain (s.page b i).enable := by
  have hgate : (s.page b i).extra.toNat &&& 8 = b2n ((s.page b i).extra.toNat.testBit 3) * 8 := by
    rw [show 8 = 2 ^ 3 from rfl, Nat.and_two_pow]
    cases (s.page b i).extra.toNat.testBit 3 <;> rfl
  have hown : ∃ g, (if b == .ne then (s.page b i).extra.toNat &&& 8 else 0) = b2n g * 8 := by
    split
    · exact ⟨_, hgate⟩
    · exact ⟨false, rfl⟩
  obtain ⟨g, hg⟩ := hown
  have hve : b ≠ .ve := fun h => absurd (h ▸ hb) (by decide)
  have hxp : b ≠ .xp := fun h => absurd (h ▸ hb) (by decide)
  have hfollow : (b == .ve || b == .xp) = false := by simp [hve, hxp]
  refine ⟨g, ?_⟩
  unfold State.blkCtrl ctrlWord
  dsimp only
  rw [hfollow, hb, Bool.true_or, Bool.true_or, if_pos rfl, if_neg Bool.false_ne_true, hg]

/-- A page of VE or XP shows its NE's bits but not GATE_EN. -/
theorem State.blkCtrl_follows (hb : b = .ve ∨ b = .xp) : ∃ d e, s.blkCtrl b i = ctrlWord false d e := by
  rcases hb with rfl | rfl
  · exact ⟨(s.page .ne i).drain, (s.page .ne i).enable, rfl⟩
  · exact ⟨(s.page .ne i).drain, (s.page .ne i).enable, rfl⟩

/-- The state in which an engine has taken GATE_EN, which a write of BLK_CTRL does first (R109). -/
def State.gateKept (s : State) (b : Blk) (i v : Nat) : State :=
  if b == .ne then s.putPage b i { s.page b i with extra := BitVec.ofNat 32 (v &&& 8) } else s

theorem State.gateKept_page (s : State) (b : Blk) (i v : Nat) : ∃ x, (s.gateKept b i v).page b i = { s.page b i with extra := x } := by
  unfold State.gateKept
  split
  · exact ⟨_, State.page_putPage s b i _⟩
  · exact ⟨(s.page b i).extra, rfl⟩

theorem State.gateKept_only (s : State) (b : Blk) (i v : Nat) : Only [.pages] s (s.gateKept b i v) :=
  .ite (s.putPage_only b i _) (.refl _ s)

/-- Whether a block is busy does not depend on its header but for ENABLE. -/
theorem State.putPage_blockBusy {p : Page} (h : p.enable = (s.page b i).enable) : (s.putPage b i p).blockBusy b i = s.blockBusy b i := by
  cases b
  case ingest =>
    have hpage : (s.putPage .ingest i p).page .ingest 0 = p := State.page_putPage s .ingest i p
    have hbase : s.page .ingest i = s.page .ingest 0 := rfl
    have hidle : (s.putPage .ingest i p).ingestIdle = s.ingestIdle := by
      unfold State.ingestIdle
      rw [hpage, h, hbase]
      rfl
    show ((s.putPage .ingest i p).blockHolds .ingest i || !(s.putPage .ingest i p).ingestIdle) = _
    rw [hidle]
    rfl
  all_goals rfl

theorem State.gateKept_blockBusy (s : State) (b : Blk) (i v : Nat) : (s.gateKept b i v).blockBusy b i = s.blockBusy b i := by
  unfold State.gateKept
  split
  · exact State.putPage_blockBusy rfl
  · rfl

theorem State.ctrlWrite_writable (hb : b.enableWritable = true) (v : Nat) : s.ctrlWrite b i v = s.enableWrite b i v := if_pos hb

theorem State.setEnable_kept (h : (s.page b i).enable = true) : s.setEnable b i = s := by
  have hd : s.drainEnd b i = s := by
    unfold State.drainEnd
    dsimp only
    rw [h, Bool.not_true, Bool.and_false, Bool.false_and, if_neg Bool.false_ne_true]
  unfold State.setEnable
  dsimp only
  rw [hd, if_pos h]

theorem State.unsetEnable_kept (h : (s.page b i).enable = false) : s.unsetEnable b i = s := by
  unfold State.unsetEnable
  rw [h, Bool.not_false, if_pos rfl]

variable {v : Nat}

theorem State.enableWrite_sets (h0 : v.testBit 0 = true) (h1 : v.testBit 1 = (s.page b i).drain) (h2 : v.testBit 2 = false) :
    s.enableWrite b i v = (s.gateKept b i v).setEnable b i := by
  unfold State.enableWrite State.gateKept
  dsimp only
  rw [h0, h1, h2]
  simp

theorem State.enableWrite_clears (h0 : v.testBit 0 = false) (h1 : v.testBit 1 = (s.page b i).drain) (h2 : v.testBit 2 = false) :
    s.enableWrite b i v = (s.gateKept b i v).unsetEnable b i := by
  have hd : ((s.page b i).drain && (!((s.page b i).enable && !false) || (s.page b i).drain)) = (s.page b i).drain := by
    cases (s.page b i).drain <;> simp
  unfold State.enableWrite State.gateKept
  dsimp only
  rw [h0, h1, h2, hd]
  simp

/-- A write that leaves ENABLE as it is. -/
theorem State.enableWrite_stays (h0 : v.testBit 0 = (s.page b i).enable) :
    s.enableWrite b i v =
      (let t := s.gateKept b i v
       let w := if v.testBit 1 == (s.page b i).drain then t else t.drainWrite b i (v.testBit 1)
       if v.testBit 2 then w.softResetWrite b i else w) := by
  obtain ⟨x, hx⟩ := s.gateKept_page b i v
  have hu : (if v.testBit 0 then (s.gateKept b i v).setEnable b i else (s.gateKept b i v).unsetEnable b i) = s.gateKept b i v := by
    split
    · exact State.setEnable_kept (by rw [hx, ← h0]; assumption)
    · exact State.unsetEnable_kept (by rw [hx, ← h0]; exact Bool.eq_false_iff.mpr ‹_›)
  have hd : (v.testBit 1 && (!((s.page b i).enable && !v.testBit 0) || (s.page b i).drain)) = v.testBit 1 := by
    rw [h0]
    simp
  unfold State.enableWrite
  dsimp only
  rw [hd]
  exact congrArg (fun u : State => if v.testBit 2 then (if v.testBit 1 == (s.page b i).drain then u else u.drainWrite b i (v.testBit 1)).softResetWrite b i
    else if v.testBit 1 == (s.page b i).drain then u else u.drainWrite b i (v.testBit 1)) hu

end

end Sys2Proof.Machine
end

section
set_option Elab.async false
namespace Sys2Proof.Machine

section
variable {s : State} {b : Blk} {i v : Nat}

/-! ### The commands of BLK_CTRL are writes of its word -/

theorem execBlockEnableSet_eq (hw : s.hostWrites b i = true) :
    exec (.blockEnableSet b i) s = .next (s.ctrlWrite b i (s.blkCtrl b i / 2 * 2 + 1)) := by
  show execBlockEnableSet b i s = _
  unfold execBlockEnableSet
  rw [State.hostWo_reaches hw]

theorem execBlockEnableClear_eq (hw : s.hostWrites b i = true) :
    exec (.blockEnableClear b i) s = .next (s.ctrlWrite b i (s.blkCtrl b i / 2 * 2)) := by
  show execBlockEnableClear b i s = _
  unfold execBlockEnableClear
  rw [State.hostWo_reaches hw]

theorem execBlockDrainSet_eq (hw : s.hostWrites b i = true) : exec (.blockDrainSet b i) s = .next (s.ctrlWrite b i (s.blkCtrl b i ||| 2)) := by
  show execBlockDrainSet b i s = _
  unfold execBlockDrainSet
  rw [State.hostWo_reaches hw]

theorem execBlockDrainClear_eq (hw : s.hostWrites b i = true) :
    exec (.blockDrainClear b i) s = .next (s.ctrlWrite b i (s.blkCtrl b i - (s.blkCtrl b i &&& 2))) := by
  show execBlockDrainClear b i s = _
  unfold execBlockDrainClear
  rw [State.hostWo_reaches hw]

theorem execSoftReset_eq (hw : s.hostWrites b i = true) : exec (.softReset b i) s = .next (s.ctrlWrite b i (s.blkCtrl b i ||| 4)) := by
  show execSoftReset b i s = _
  unfold execSoftReset
  rw [State.hostWo_reaches hw]

/-! ### DRAIN (R367) -/

theorem State.drainWrite_page (s : State) (b : Blk) (i : Nat) (d : Bool) : (s.drainWrite b i d).page b i = { s.page b i with drain := d } :=
  State.page_putPage s b i _

/-- A write that leaves ENABLE as it is and asks for no reset sets DRAIN. -/
theorem State.enableWrite_drains (h0 : v.testBit 0 = (s.page b i).enable) (h2 : v.testBit 2 = false) :
    ((s.enableWrite b i v).page b i).drain = v.testBit 1 ∧ ((s.enableWrite b i v).page b i).enable = (s.page b i).enable ∧
      Only [.engines, .pages] s (s.enableWrite b i v) := by
  obtain ⟨x, hx⟩ := s.gateKept_page b i v
  have hgate := (s.gateKept_only b i v).mono (gs := [.engines, .pages]) (by decide)
  rw [State.enableWrite_stays h0]
  dsimp only
  rw [h2, if_neg Bool.false_ne_true]
  split
  · rename_i hd
    rw [hx]
    exact ⟨(eq_of_beq hd).symm, rfl, hgate⟩
  · rw [State.drainWrite_page, hx]
    exact ⟨rfl, rfl, (State.drainWrite_only _ b i _).step (by decide) hgate⟩

theorem exec_drains (hb : b.enableWritable = true) (hw : s.hostWrites b i = true) :
    (∃ t, exec (.blockDrainSet b i) s = .next t ∧ (t.page b i).drain = true ∧ (t.page b i).enable = (s.page b i).enable ∧ Only [.engines, .pages] s t) ∧
    (∃ t, exec (.blockDrainClear b i) s = .next t ∧ (t.page b i).drain = false ∧ (t.page b i).enable = (s.page b i).enable ∧ Only [.engines, .pages] s t) := by
  obtain ⟨g, hg⟩ := State.blkCtrl_writable (s := s) (i := i) hb
  rw [execBlockDrainSet_eq hw, execBlockDrainClear_eq hw, State.ctrlWrite_writable hb, State.ctrlWrite_writable hb, hg]
  obtain ⟨hset0, hset1, hset2⟩ := ctrlWord_drainSet g (s.page b i).drain (s.page b i).enable
  obtain ⟨hclear0, hclear1, hclear2⟩ := ctrlWord_drainClear g (s.page b i).drain (s.page b i).enable
  obtain ⟨hd, he, ho⟩ := State.enableWrite_drains hset0 hset2
  obtain ⟨hd', he', ho'⟩ := State.enableWrite_drains hclear0 hclear2
  exact ⟨⟨_, rfl, hd.trans hset1, he, ho⟩, ⟨_, rfl, hd'.trans hclear1, he', ho'⟩⟩

/-! ### The end of a drain (R367) -/

/-- A block that is not enabled and not busy has drained; no other is touched. -/
theorem State.drainEnd_drained (hb : b.enableWritable = true) (he : (s.page b i).enable = false) (hbusy : s.blockBusy b i = false) :
    s.drainEnd b i = s.putPage b i { s.page b i with disabling := false, faulted := false } := by
  unfold State.drainEnd
  dsimp only
  rw [hb, he, hbusy]
  rfl

theorem State.drainEnd_kept (h : (s.page b i).enable = true ∨ s.blockBusy b i = true) : s.drainEnd b i = s := by
  unfold State.drainEnd
  dsimp only
  rcases h with h | h
  · rw [h, Bool.not_true, Bool.and_false, Bool.false_and, if_neg Bool.false_ne_true]
  · rw [h, Bool.not_true, Bool.and_false, if_neg Bool.false_ne_true]

theorem State.drainEnd_fixed (hb : b.enableWritable = false) : s.drainEnd b i = s := by
  unfold State.drainEnd
  dsimp only
  rw [hb, Bool.false_and, Bool.false_and, if_neg Bool.false_ne_true]

/-- Every block is in one of the two cases. -/
theorem State.drained_or_kept (s : State) (b : Blk) (i : Nat) :
    (s.page b i).enable = false ∧ s.blockBusy b i = false ∨ (s.page b i).enable = true ∨ s.blockBusy b i = true := by
  cases (s.page b i).enable <;> cases s.blockBusy b i <;> decide

theorem execBlockDrainEnd_absent (h : s.answers b i = false) : exec (.blockDrainEnd b i) s = .next s := by
  show execBlockDrainEnd b i s = _
  unfold execBlockDrainEnd
  rw [h, if_neg Bool.false_ne_true]

theorem execBlockDrainEnd_ends (hb : b.enableWritable = true) (ha : s.answers b i = true) :
    ∃ t, exec (.blockDrainEnd b i) s = .next t ∧ Only [.engines, .pages] s t ∧
      ((s.page b i).enable = false → s.blockBusy b i = false → (t.page b i).disabling = false ∧ (t.page b i).faulted = false) ∧
      ((s.page b i).enable = true ∨ s.blockBusy b i = true → t.pages = s.pages) := by
  refine ⟨(s.drainEnd b i).track, ?_, (State.track_only _).step (by decide) ((s.drainEnd_only b i).mono (by decide)), fun he hbusy => ?_, fun h => ?_⟩
  · show execBlockDrainEnd b i s = _
    unfold execBlockDrainEnd
    rw [ha, if_pos rfl]
  · have hpage : (s.drainEnd b i).track.page b i = { s.page b i with disabling := false, faulted := false } := by
      rw [State.drainEnd_drained hb he hbusy]
      exact State.page_putPage s b i _
    rw [hpage]
    exact ⟨rfl, rfl⟩
  · rw [State.drainEnd_kept h]
    rfl

/-! ### ENABLE is set (R272, R349, R367) -/

/-- A block that still drains from a disable refuses. -/
theorem State.setEnable_refuses (he : (s.page b i).enable = false) (hd : (s.page b i).disabling = true) (hbusy : s.blockBusy b i = true) :
    s.setEnable b i = s.err b i 4 0 0 := by
  unfold State.setEnable
  dsimp only
  rw [State.drainEnd_kept (.inr hbusy), he, hd, hbusy, if_neg Bool.false_ne_true, Bool.true_and, if_pos rfl]

/-- What a page shows of an enabled block. -/
def Page.enabled (p : Page) : Page := { p with enable := true, disabling := false }

theorem State.setEnable_acts (hb : b.enableWritable = true) (he : (s.page b i).enable = false)
    (h : (s.page b i).disabling = false ∨ s.blockBusy b i = false) :
    ∃ u, Only [.pages] s u ∧ (u.page b i).drain = (s.page b i).drain ∧
      s.setEnable b i = ((u.putPage b i (u.page b i).enabled).started b).settleState.track := by
  refine ⟨s.drainEnd b i, s.drainEnd_only b i, ?_, ?_⟩
  · rcases s.drained_or_kept b i with ⟨-, hbusy⟩ | hk
    · rw [State.drainEnd_drained hb he hbusy, State.page_putPage]
    · rw [State.drainEnd_kept hk]
  · have hpage : ((s.drainEnd b i).page b i).enable = false ∧
        (((s.drainEnd b i).page b i).disabling && (s.drainEnd b i).blockBusy b i) = false := by
      rcases s.drained_or_kept b i with ⟨-, hbusy⟩ | hk
      · rw [State.drainEnd_drained hb he hbusy, State.page_putPage]
        exact ⟨he, rfl⟩
      · rw [State.drainEnd_kept hk]
        refine ⟨he, ?_⟩
        rcases h with h | h
        · rw [h, Bool.false_and]
        · rw [h, Bool.and_false]
    unfold State.setEnable
    dsimp only
    rw [hpage.1, hpage.2, if_neg Bool.false_ne_true, if_neg Bool.false_ne_true]
    rfl

/-- A run of operations that leave the display's own state leaves its timing. -/
theorem State.foldl_running {α : Type} {g : State → α → State} (hg : ∀ y a, Only [.badWords, .groups, .mem, .softWords, .steps] y (g y a))
    (l : List α) (s : State) : (l.foldl g s).disp.running = s.disp.running :=
  congrArg Disp.running (Only.foldl (gs := [.badWords, .groups, .mem, .softWords, .steps]) (fun y a hy => (hg y a).step (by decide) hy)
    (.refl _ s) .disp rfl)

theorem State.tidySteps_running (s : State) : s.tidySteps.disp.running = s.disp.running := by
  unfold State.tidySteps
  dsimp only
  rw [State.foldl_running fun y a => (y.dropStep_only a).mono (by decide)]

theorem State.freeTables_running (s : State) : s.freeTables.disp.running = s.disp.running := by
  unfold State.freeTables
  dsimp only
  rw [State.tidySteps_running]
  dsimp only
  rw [State.foldl_running fun y a => (State.devPut_only _ _ _).step (by decide) ((State.devClear_only y _ _).mono (by decide))]

theorem State.irq_disp (s : State) (b : Blk) (i : Nat) (m : Word) : (s.irq b i m).disp = s.disp := State.irq_only s b i m .disp rfl

theorem State.latchFrame_running (s : State) : s.latchFrame.disp.running = s.disp.running := by
  unfold State.latchFrame
  dsimp only
  split
  · rw [State.irq_disp]
  · rfl

theorem State.startDisplay_running (s : State) : s.startDisplay.disp.running = true := by
  have hend (u : State) (hu : u.disp.running = true) :
      (if s.disp.genlock.sync == 2 then u.latchFrame.freeTables.irq .disp 0 0b10000 else u.latchFrame.freeTables).disp.running = true := by
    have hfree : u.latchFrame.freeTables.disp.running = true := by rw [State.freeTables_running, State.latchFrame_running, hu]
    split
    · rw [State.irq_disp, hfree]
    · exact hfree
  unfold State.startDisplay
  dsimp only
  split
  · assumption
  · exact hend _ rfl

/-- From `s` on nothing of a page but RAW, and neither the display's timing nor ingest, changes once the block has started. -/
theorem State.setEnable_enables (hb : b.enableWritable = true) (he : (s.page b i).enable = false)
    (h : (s.page b i).disabling = false ∨ s.blockBusy b i = false) :
    ((s.setEnable b i).page b i).enable = true ∧ ((s.setEnable b i).page b i).disabling = false ∧
    ((s.setEnable b i).page b i).drain = (s.page b i).drain ∧ (b = .ingest → (s.setEnable b i).ingest.seq = 0) ∧
    (b = .disp → (s.setEnable b i).disp.running = true) := by
  obtain ⟨u, -, hdrain, heq⟩ := State.setEnable_acts hb he h
  have hset := u.find?_putPage b i (u.page b i).enabled
  obtain ⟨r, hr⟩ := ((State.started_stands _ b).trans (State.settle_track_stands _)).page hset
  have hend (w : State) : Only [.devState, .engines, .hostMem, .msix, .pages, .pins] w w.settleState.track :=
    w.settleState.track_only.step (by decide) (w.settleState_only.mono (by decide))
  rw [heq, hr]
  refine ⟨rfl, rfl, hdrain, fun hi => ?_, fun hd => ?_⟩
  · subst hi
    exact congrArg (·.seq) (hend _ .ingest rfl)
  · subst hd
    exact (congrArg Disp.running (hend _ .disp rfl)).trans (State.startDisplay_running _)

theorem execBlockEnableSet_acts (hb : b.enableWritable = true) (hw : s.hostWrites b i = true) :
    ((s.page b i).enable = false → (s.page b i).disabling = true → s.blockBusy b i = true → ∃ t, exec (.blockEnableSet b i) s = .next t ∧
      (t.page b i).enable = false ∧ (t.page b i).errValid = true ∧ (t.page b i).errCode = 4 ∧ Only [.pages] s t) ∧
    ((s.page b i).enable = false → ((s.page b i).disabling = false ∨ s.blockBusy b i = false) → ∃ t, exec (.blockEnableSet b i) s = .next t ∧
      (t.page b i).enable = true ∧ (t.page b i).disabling = false ∧ (t.page b i).drain = (s.page b i).drain ∧ (b = .ingest → t.ingest.seq = 0) ∧
      (b = .disp → t.disp.running = true) ∧
      Only [.badWords, .cairn, .devState, .disp, .engines, .freeCount, .groups, .hostMem, .ingest, .mem, .msix, .pages, .pins, .softWords, .steps] s t) ∧
    ((s.page b i).enable = true → ∃ t, exec (.blockEnableSet b i) s = .next t ∧ (t.page b i).enable = true ∧ Only [.pages] s t) := by
  obtain ⟨g, hg⟩ := State.blkCtrl_writable (s := s) (i := i) hb
  obtain ⟨h0, h1, h2⟩ := ctrlWord_enableSet g (s.page b i).drain (s.page b i).enable
  rw [execBlockEnableSet_eq hw, State.ctrlWrite_writable hb, hg, State.enableWrite_sets h0 h1 h2]
  obtain ⟨x, hx⟩ := s.gateKept_page b i (ctrlWord g (s.page b i).drain (s.page b i).enable / 2 * 2 + 1)
  have hbusy := s.gateKept_blockBusy b i (ctrlWord g (s.page b i).drain (s.page b i).enable / 2 * 2 + 1)
  have hgate := s.gateKept_only b i (ctrlWord g (s.page b i).drain (s.page b i).enable / 2 * 2 + 1)
  generalize s.gateKept b i (ctrlWord g (s.page b i).drain (s.page b i).enable / 2 * 2 + 1) = t at hx hbusy hgate
  refine ⟨fun he hd hbsy => ⟨_, rfl, ?_⟩, fun he h => ⟨_, rfl, ?_⟩, fun he => ⟨_, rfl, ?_⟩⟩
  · rw [State.setEnable_refuses (by rw [hx, he]) (by rw [hx, hd]) (hbusy.trans hbsy), State.err_page, hx]
    exact ⟨he, rfl, rfl, (t.err_only b i 4 0 0).step (by decide) hgate⟩
  · obtain ⟨hen, hdis, hdrain, hingest, hdisp⟩ :=
      State.setEnable_enables (s := t) hb (by rw [hx, he]) (by rw [hx, hbusy]; exact h)
    exact ⟨hen, hdis, by rw [hdrain, hx], hingest, hdisp, (t.setEnable_only b i).step (by decide) (hgate.mono (by decide))⟩
  · rw [State.setEnable_kept (by rw [hx, he]), hx]
    exact ⟨he, hgate⟩

end

end Sys2Proof.Machine
end

section
set_option Elab.async false
namespace Sys2Proof.Machine

section
variable {s : State} {b : Blk} {i v : Nat}

/-! ### ENABLE is cleared (R242, R265, R272, R367, R433) -/

/-- What a page shows of a block that software has disabled. -/
def Page.disabled (p : Page) : Page := { p with enable := false, disabling := true }

/-- The state in which only the page shows that a block is disabled. -/
def State.markedOff (s : State) (b : Blk) (i : Nat) : State := s.putPage b i (s.page b i).disabled

/-- The state in which the tile groups of a disabled engine have left it. -/
def State.groupsGone (s : State) (b : Blk) (i : Nat) : State :=
  (if b == .ne then (s.markedOff b i).moveFrom i .unitDisabled else (s.markedOff b i, 0)).1

/-- The state in which the commands and passes of a disabled block have ended; the display engine first finishes its frame. -/
def State.workEnded (s : State) (b : Blk) (i : Nat) : State :=
  let t := if b == .disp then s.stopDisplay else s.disableQueued b i
  if b == .raster then t.discardPasses else t

theorem State.clearEnable_eq (s : State) (b : Blk) (i : Nat) :
    ∃ n, (s.clearEnable b i).1 = ((s.groupsGone b i).workEnded b i).bump .fault 0 0x08C n := ⟨_, rfl⟩

theorem State.workEnded_stands (s : State) (b : Blk) (i : Nat) : s.Stands (s.workEnded b i) := by
  have hwork : s.Stands (if b == .disp then s.stopDisplay else s.disableQueued b i) :=
    .ite (.of_only s.stopDisplay_only rfl) (.of_only (s.disableQueued_only b i) rfl)
  unfold State.workEnded
  dsimp only
  exact .ite (hwork.trans (State.discardPasses_stands _)) hwork

theorem State.workEnded_only (s : State) (b : Blk) (i : Nat) : Only [.cmds, .disp, .hostMem, .msix, .pages, .raster] s (s.workEnded b i) := by
  have hwork : Only [.cmds, .disp, .hostMem, .msix, .pages, .raster] s (if b == .disp then s.stopDisplay else s.disableQueued b i) :=
    .ite (s.stopDisplay_only.mono (by decide)) ((s.disableQueued_only b i).mono (by decide))
  unfold State.workEnded
  dsimp only
  exact .ite ((State.discardPasses_only _).step (by decide) hwork) hwork

/-- The page of a block while its work ends. -/
theorem State.clearEnable_stands (s : State) (b : Blk) (i : Nat) : (s.markedOff b i).Stands (s.clearEnable b i).1 := by
  obtain ⟨n, hn⟩ := s.clearEnable_eq b i
  have hgone : (s.markedOff b i).Stands (s.groupsGone b i) := by
    unfold State.groupsGone
    split
    · exact State.moveFrom_stands _ _ _
    · exact .refl _
  rw [hn]
  exact hgone.trans ((State.workEnded_stands _ b i).trans (.of_only (State.bump_only _ _ _ _ n) rfl))

/-- The end of a drain leaves ENABLE and DRAIN of a stored header. -/
theorem State.drainEnd_find? {p : Page} (h : s.pages.find? (b.base i) = some p) :
    ∃ q, (s.drainEnd b i).pages.find? (b.base i) = some q ∧ q.enable = p.enable ∧ q.drain = p.drain := by
  unfold State.drainEnd
  dsimp only
  rw [State.page_of_find? h]
  split
  · exact ⟨_, State.find?_putPage _ b i _, rfl, rfl⟩
  · exact ⟨p, h, rfl, rfl⟩

/-- What the disable of an enabled block comes to. -/
theorem State.unsetEnable_eq (h : (s.page b i).enable = true) :
    s.unsetEnable b i =
      ((if b == .dptx then (s.clearEnable b i).1.stopOutput i else (s.clearEnable b i).1).drainEnd b i).settleState.track := by
  unfold State.unsetEnable
  rw [h, Bool.not_true, if_neg Bool.false_ne_true]

theorem State.unsetEnable_page (h : (s.page b i).enable = true) :
    ((s.unsetEnable b i).page b i).enable = false ∧ ((s.unsetEnable b i).page b i).drain = (s.page b i).drain := by
  have hout (t : State) : t.Stands (if b == .dptx then t.stopOutput i else t) := .ite (.of_only (t.stopOutput_only i) rfl) (.refl t)
  obtain ⟨r, hr⟩ := ((s.clearEnable_stands b i).trans (hout _)) _ _ (s.find?_putPage b i _)
  obtain ⟨q, hq, hen, hdrain⟩ := State.drainEnd_find? hr
  obtain ⟨r', hend⟩ := (State.settle_track_stands _).page hq
  rw [State.unsetEnable_eq h, hend]
  exact ⟨hen, hdrain⟩

/-- No live group is on a block that is no engine, or on an engine that holds none. -/
theorem State.groupsGone_none (h : b ≠ .ne ∨ ∀ g ∈ s.groups, g.live = true → g.engine ≠ i) : s.groupsGone b i = s.markedOff b i := by
  unfold State.groupsGone
  split
  · rename_i hb
    rcases h with h | h
    · exact absurd (eq_of_beq hb) h
    · have hnone : ((s.markedOff b i).groups.filter fun g => g.live && g.engine == i) = [] := by
        rw [List.filter_eq_nil_iff]
        intro g hg hl
        simp only [Bool.and_eq_true, beq_iff_eq] at hl
        exact h g hg hl.1 hl.2
      unfold State.moveFrom
      rw [hnone]
      rfl
  · rfl

/-- A command of the block that the disable ends (R212, R367). -/
def State.endsOff (s : State) (b : Blk) (i : Nat) (c : Cmd) : Cmd :=
  if c.unstarted && (c.place != .pending && s.heldBy b i c && s.me.uid != some c.uid) then { c with place := .ended .unitDisabled 0 } else c

theorem State.workEnded_cmds (s : State) (b : Blk) (i : Nat) :
    (s.workEnded b i).cmds = if b = .disp then s.cmds else s.cmds.map (s.endsOff b i) := by
  have hrest (t : State) : (if b == .raster then t.discardPasses else t).cmds = t.cmds := by
    split
    · exact t.discardPasses_only .cmds rfl
    · rfl
  unfold State.workEnded
  rw [hrest]
  by_cases hb : b = .disp
  · rw [if_pos (by simp [hb]), if_pos hb, s.stopDisplay_only .cmds rfl]
  · rw [if_neg (by simp [hb]), if_neg hb]
    rfl

theorem State.workEnded_stopping (h : s.disp.running = true) : (s.workEnded .disp i).disp.stopping = true := by
  show s.stopDisplay.disp.stopping = true
  unfold State.stopDisplay
  rw [if_pos h]

theorem State.stopOutput_streaming (s : State) (i : Nat) : ((s.stopOutput i).out i).streaming = false := by
  unfold State.stopOutput State.putOut State.out
  rw [SMap.get_set_same]

/-- The disable of a block that no group has to leave. -/
theorem State.unsetEnable_quiet (h : (s.page b i).enable = true) (hg : b ≠ .ne ∨ ∀ g ∈ s.groups, g.live = true → g.engine ≠ i) :
    (s.unsetEnable b i).cmds = (if b = .disp then s.cmds else s.cmds.map (s.endsOff b i)) ∧
    (b = .disp → s.disp.running = true → (s.unsetEnable b i).disp.stopping = true) ∧
    (b = .dptx → ((s.unsetEnable b i).out i).streaming = false) ∧
    Only [.cmds, .devState, .disp, .engines, .hostMem, .msix, .outs, .pages, .pins, .raster, .regs] s (s.unsetEnable b i) := by
  obtain ⟨n, hn⟩ := s.clearEnable_eq b i
  rw [State.groupsGone_none hg] at hn
  have hend (t : State) : Only [.devState, .engines, .hostMem, .msix, .pages, .pins] t (t.drainEnd b i).settleState.track :=
    (State.track_only _).step (by decide) ((State.settleState_only _).step (by decide) ((t.drainEnd_only b i).mono (by decide)))
  have hout (t : State) : Only [.outs] t (if b == .dptx then t.stopOutput i else t) := .ite (t.stopOutput_only i) (.refl _ t)
  have hbump := ((s.markedOff b i).workEnded b i).bump_only .fault 0 0x08C n
  have hwork := (s.markedOff b i).workEnded_only b i
  rw [State.unsetEnable_eq h, hn]
  refine ⟨?_, fun hb hr => ?_, fun hb => ?_, ?_⟩
  · rw [hend _ .cmds rfl, hout _ .cmds rfl, hbump .cmds rfl, State.workEnded_cmds]
    rfl
  · rw [hend _ .disp rfl, hout _ .disp rfl, hbump .disp rfl, hb]
    exact State.workEnded_stopping (s := s.markedOff .disp i) hr
  · subst hb
    unfold State.out
    rw [hend _ .outs rfl]
    exact State.stopOutput_streaming _ i
  · exact (hend _).step (by decide) ((hout _).step (by decide) (hbump.step (by decide) (hwork.step (by decide)
      ((s.putPage_only b i _).mono (by decide)))))

theorem execBlockEnableClear_acts (hb : b.enableWritable = true) (hw : s.hostWrites b i = true) :
    ((s.page b i).enable = false → ∃ t, exec (.blockEnableClear b i) s = .next t ∧ (t.page b i).enable = false ∧ Only [.pages] s t) ∧
    ((s.page b i).enable = true → (b ≠ .ne ∨ ∀ g ∈ s.groups, g.live = true → g.engine ≠ i) → ∃ t, exec (.blockEnableClear b i) s = .next t ∧
      (t.page b i).enable = false ∧ (t.page b i).drain = (s.page b i).drain ∧
      t.cmds = (if b = .disp then s.cmds else
        s.cmds.map fun c => if c.unstarted && (c.place != .pending && s.heldBy b i c && s.me.uid != some c.uid) then { c with place := .ended .unitDisabled 0 } else c) ∧
      (b = .disp → s.disp.running = true → t.disp.stopping = true) ∧ (b = .dptx → (t.out i).streaming = false) ∧
      Only [.cmds, .devState, .disp, .engines, .hostMem, .msix, .outs, .pages, .pins, .raster, .regs] s t) ∧
    ((s.page b i).enable = true → ∃ t, exec (.blockEnableClear b i) s = .next t ∧ (t.page b i).enable = false) := by
  obtain ⟨g, hg⟩ := State.blkCtrl_writable (s := s) (i := i) hb
  obtain ⟨h0, h1, h2⟩ := ctrlWord_enableClear g (s.page b i).drain (s.page b i).enable
  rw [execBlockEnableClear_eq hw, State.ctrlWrite_writable hb, hg, State.enableWrite_clears h0 h1 h2]
  obtain ⟨x, hx⟩ := s.gateKept_page b i (ctrlWord g (s.page b i).drain (s.page b i).enable / 2 * 2)
  have hgate := s.gateKept_only b i (ctrlWord g (s.page b i).drain (s.page b i).enable / 2 * 2)
  have hends : (s.gateKept b i (ctrlWord g (s.page b i).drain (s.page b i).enable / 2 * 2)).endsOff b i = s.endsOff b i := by
    unfold State.gateKept
    split <;> rfl
  generalize s.gateKept b i (ctrlWord g (s.page b i).drain (s.page b i).enable / 2 * 2) = t at hx hgate hends
  refine ⟨fun he => ⟨_, rfl, ?_⟩, fun he hq => ⟨_, rfl, ?_⟩, fun he => ⟨_, rfl, ?_⟩⟩
  · rw [State.unsetEnable_kept (by rw [hx, he]), hx]
    exact ⟨he, hgate⟩
  · have het : (t.page b i).enable = true := by rw [hx, he]
    obtain ⟨hoff, hdrain⟩ := State.unsetEnable_page het
    obtain ⟨hcmds, hstop, hstream, honly⟩ := State.unsetEnable_quiet het (by rw [hgate .groups rfl]; exact hq)
    rw [hends, hgate .cmds rfl] at hcmds
    rw [hgate .disp rfl] at hstop
    exact ⟨hoff, by rw [hdrain, hx], hcmds, hstop, hstream, honly.step (by decide) (hgate.mono (by decide))⟩
  · exact (State.unsetEnable_page (by rw [hx, he])).1

end

end Sys2Proof.Machine
end

section
set_option Elab.async false
namespace Sys2Proof.Machine

section
variable {s : State} {b : Blk} {i v : Nat}

/-! ### BLK_STATE while a reset is decided (R367, R368) -/

theorem State.blkState_writable (hb : b.enableWritable = true) : s.blkState b i = s.movingState b i := by
  cases b
  case ve => exact absurd hb (by decide)
  case xp => exact absurd hb (by decide)
  all_goals exact (if_pos hb : (if _ then s.movingState _ i else 0) = _)

/-- A header that is as enabled, as drained and as broken while the block is busy gives the same state. -/
theorem State.putPage_movingState {p : Page} (he : p.enable = (s.page b i).enable) (hd : p.drain = (s.page b i).drain)
    (hf : (p.faulted && (p.enable || s.blockBusy b i)) = ((s.page b i).faulted && ((s.page b i).enable || s.blockBusy b i)))
    (hs : (s.blockBusy b i && (p.disabling || p.drain && b.drainHonoured)) =
      (s.blockBusy b i && ((s.page b i).disabling || (s.page b i).drain && b.drainHonoured))) :
    (s.putPage b i p).movingState b i = s.movingState b i := by
  have hoff : (s.putPage b i p).blockOff b i = s.blockOff b i := by cases b <;> rfl
  have hengine : (s.putPage b i p).engine i = s.engine i := rfl
  unfold State.movingState
  dsimp only
  rw [State.page_putPage, State.putPage_blockBusy he, hoff, hf, hs, hengine]

theorem State.gateKept_blkState (hb : b.enableWritable = true) (v : Nat) : (s.gateKept b i v).blkState b i = s.blkState b i := by
  rw [State.blkState_writable hb, State.blkState_writable hb]
  unfold State.gateKept
  split
  · exact State.putPage_movingState rfl rfl rfl rfl
  · rfl

theorem State.drainEnd_blkState (hb : b.enableWritable = true) : (s.drainEnd b i).blkState b i = s.blkState b i := by
  rw [State.blkState_writable hb, State.blkState_writable hb]
  rcases s.drained_or_kept b i with ⟨he, hbusy⟩ | hk
  · rw [State.drainEnd_drained hb he hbusy]
    exact State.putPage_movingState rfl rfl (by simp [he, hbusy]) (by simp [hbusy])
  · rw [State.drainEnd_kept hk]

/-! ### SOFT_RESET (R368, R434) -/

theorem State.pageReset_congr {s t : State} (h : t.insole = s.insole) (b : Blk) (i : Nat) : t.pageReset b i = s.pageReset b i := by
  unfold State.pageReset
  rw [h]

theorem State.pageReset_header (s : State) (b : Blk) (i : Nat) :
    (s.pageReset b i).drain = false ∧ (s.pageReset b i).irqEn = 0 ∧ (s.pageReset b i).errValid = false := by
  unfold State.pageReset
  dsimp only
  split <;> exact ⟨rfl, rfl, rfl⟩

/-- The registers and latches of a page at their reset values. -/
def State.regsReset (s : State) (b : Blk) (i : Nat) : State :=
  { s with
    regs := s.regs.dropKeys fun a => a / 0x1000 == b.base i / 0x1000
    latch := s.latch.dropKeys fun a => a / 0x1000 == b.base i / 0x1000 }

/-- The state in which the page is at its reset values. -/
def State.pageCleared (s : State) (b : Blk) (i : Nat) : State :=
  ((s.regsReset b i).putPage b i (s.pageReset b i)).evalVector b.vector

/-- The state in which a block has been reset, and has started where its ENABLE is set anew. -/
def State.restarted (s : State) (b : Blk) (i : Nat) : State :=
  let u := (s.pageCleared b i).clearHeld b i
  if (u.page b i).enable && !(s.page b i).enable then u.started b else u

theorem State.softReset_eq (s : State) (b : Blk) (i : Nat) : s.softReset b i = (s.restarted b i).settleState.track := rfl

theorem State.pageCleared_stands (s : State) (b : Blk) (i : Nat) : ((s.regsReset b i).putPage b i (s.pageReset b i)).Stands (s.pageCleared b i) :=
  .of_pages (State.evalVector_only _ _ .pages rfl)

theorem State.softReset_page (s : State) (b : Blk) (i : Nat) : ∃ r, (s.softReset b i).page b i = { s.pageReset b i with raw := r } := by
  have hstart : (s.pageCleared b i).Stands (s.restarted b i) := by
    unfold State.restarted
    dsimp only
    exact .ite ((State.clearHeld_stands _ b i).trans (State.started_stands _ b)) (State.clearHeld_stands _ b i)
  rw [State.softReset_eq]
  exact ((s.pageCleared_stands b i).trans (hstart.trans (State.settle_track_stands _))).page ((s.regsReset b i).find?_putPage b i _)

theorem State.softReset_regs (s : State) (b : Blk) (i : Nat) (k : Nat) :
    (s.softReset b i).regs.find? k = if k / 0x1000 == b.base i / 0x1000 then none else s.regs.find? k := by
  have hheld : ((s.pageCleared b i).clearHeld b i).regs = (s.pageCleared b i).regs := State.clearHeld_only _ b i .regs rfl
  have hstart : (s.restarted b i).regs = (s.pageCleared b i).regs := by
    unfold State.restarted
    dsimp only
    split
    · exact (State.started_only _ b .regs rfl).trans hheld
    · exact hheld
  have hpage : (s.pageCleared b i).regs = (s.regsReset b i).regs := State.evalVector_only _ _ .regs rfl
  have hend : (s.softReset b i).regs = (s.restarted b i).regs := State.settleState_only _ .regs rfl
  rw [hend, hstart, hpage]
  exact SMap.find?_dropKeys s.regs (fun a => a / 0x1000 == b.base i / 0x1000) k

/-- What a reset does when the block is IDLE or OFF, and what it records otherwise. -/
theorem State.softResetWrite_acts (h : (s.drainEnd b i).blkState b i ≤ 1) : s.softResetWrite b i = (s.drainEnd b i).softReset b i := if_pos h

theorem State.softResetWrite_refuses (h : 1 < (s.drainEnd b i).blkState b i) : s.softResetWrite b i = (s.drainEnd b i).err b i 4 0 0 :=
  if_neg (by omega)

theorem execSoftReset_acts (hb : b.enableWritable = true) (hw : s.hostWrites b i = true) :
    (1 < s.blkState b i → ∃ t, exec (.softReset b i) s = .next t ∧ (t.page b i).errValid = true ∧ (t.page b i).errCode = 4 ∧ Only [.pages] s t) ∧
    (s.blkState b i ≤ 1 → ∃ t, exec (.softReset b i) s = .next t ∧
      (t.page b i).enable = (s.pageReset b i).enable ∧ (t.page b i).drain = false ∧ (t.page b i).irqEn = 0 ∧ (t.page b i).errValid = false ∧
      (∀ k, t.regs.find? k = if k / 0x1000 == b.base i / 0x1000 then none else s.regs.find? k) ∧
      Only [.badWords, .cairn, .devState, .disp, .dma, .engines, .freeCount, .groups, .hostMem, .ingest, .latch, .mem, .msix, .outs, .pages, .pins, .raster,
        .regs, .saveBase, .softWords, .steps] s t) := by
  obtain ⟨g, hg⟩ := State.blkCtrl_writable (s := s) (i := i) hb
  obtain ⟨h0, h1, h2⟩ := ctrlWord_softReset g (s.page b i).drain (s.page b i).enable
  have hexec : exec (.softReset b i) s = .next ((s.gateKept b i (s.blkCtrl b i ||| 4)).softResetWrite b i) := by
    rw [execSoftReset_eq hw, State.ctrlWrite_writable hb, hg, State.enableWrite_stays h0]
    dsimp only
    rw [h1, h2, if_pos rfl, if_pos (beq_self_eq_true _)]
  have hgate : Only [.pages] s ((s.gateKept b i (s.blkCtrl b i ||| 4)).drainEnd b i) :=
    (State.drainEnd_only _ b i).step (by decide) (s.gateKept_only b i _)
  have hstate : ((s.gateKept b i (s.blkCtrl b i ||| 4)).drainEnd b i).blkState b i = s.blkState b i :=
    (State.drainEnd_blkState hb).trans (State.gateKept_blkState hb _)
  refine ⟨fun h => ⟨_, hexec, ?_⟩, fun h => ⟨_, hexec, ?_⟩⟩
  · rw [State.softResetWrite_refuses (by rw [hstate]; exact h), State.err_page]
    exact ⟨rfl, rfl, (State.err_only _ b i 4 0 0).step (by decide) hgate⟩
  · rw [State.softResetWrite_acts (by rw [hstate]; exact h)]
    obtain ⟨r, hr⟩ := ((s.gateKept b i (s.blkCtrl b i ||| 4)).drainEnd b i).softReset_page b i
    obtain ⟨hdrain, hirq, herr⟩ := s.pageReset_header b i
    rw [hr, State.pageReset_congr (hgate .insole rfl)]
    refine ⟨rfl, hdrain, hirq, herr, fun k => ?_, (State.softReset_only _ b i).step (by decide) (hgate.mono (by decide))⟩
    rw [State.softReset_regs, hgate .regs rfl]

/-! ### Blocks whose ENABLE is fixed (R367, R368) -/

theorem State.ctrlWrite_fixed (hb : b.enableWritable = false) (h : (b = .ve ∨ b = .xp) → v.testBit 2 = false) : s.ctrlWrite b i v = s := by
  unfold State.ctrlWrite
  rw [hb, if_neg Bool.false_ne_true, if_neg]
  simp only [Bool.and_eq_true, Bool.or_eq_true, beq_iff_eq]
  rintro ⟨hf, h2⟩
  rw [h hf] at h2
  exact Bool.false_ne_true h2

theorem State.ctrlWrite_follows (hb : b = .ve ∨ b = .xp) (h : v.testBit 2 = true) : s.ctrlWrite b i v = s.softResetWrite b i := by
  unfold State.ctrlWrite
  rw [h]
  rcases hb with rfl | rfl <;> rfl

theorem exec_ctrl_fixed (hb : b.enableWritable = false) (hw : s.hostWrites b i = true) :
    ∀ x ∈ [Instr.blockEnableSet b i, .blockEnableClear b i, .blockDrainSet b i, .blockDrainClear b i], exec x s = .next s := by
  have hbit (f : Nat → Nat) (hf : ∀ d e : Bool, (f (ctrlWord false d e)).testBit 2 = false) :
      s.ctrlWrite b i (f (s.blkCtrl b i)) = s := by
    refine State.ctrlWrite_fixed hb fun hv => ?_
    obtain ⟨d, e, h⟩ := State.blkCtrl_follows (s := s) (i := i) hv
    rw [h, hf]
  simp only [List.forall_mem_cons, List.not_mem_nil, false_implies, implies_true, and_true]
  rw [execBlockEnableSet_eq hw, execBlockEnableClear_eq hw, execBlockDrainSet_eq hw, execBlockDrainClear_eq hw,
    hbit (fun w => w / 2 * 2 + 1) (fun d e => (ctrlWord_enableSet false d e).2.2),
    hbit (fun w => w / 2 * 2) (fun d e => (ctrlWord_enableClear false d e).2.2),
    hbit (fun w => w ||| 2) (fun d e => (ctrlWord_drainSet false d e).2.2),
    hbit (fun w => w - (w &&& 2)) (fun d e => (ctrlWord_drainClear false d e).2.2)]
  exact ⟨rfl, rfl, rfl, rfl⟩

theorem execSoftReset_fixed (hb : b.enableWritable = false) (hw : s.hostWrites b i = true) (hve : b ≠ .ve) (hxp : b ≠ .xp) :
    exec (.softReset b i) s = .next s := by
  rw [execSoftReset_eq hw, State.ctrlWrite_fixed hb fun h => (h.elim hve hxp).elim]

/-- A reset of a VE or XP page leaves its engine's contexts. -/
theorem State.softReset_follows (s : State) (i : Nat) (hb : b = .ve ∨ b = .xp) : s.softReset b i = (s.pageCleared b i).settleState.track := by
  have hheld : (s.pageCleared b i).clearHeld b i = s.pageCleared b i := by rcases hb with rfl | rfl <;> rfl
  have hstart (t : State) : t.started b = t := by rcases hb with rfl | rfl <;> rfl
  rw [State.softReset_eq]
  unfold State.restarted
  dsimp only
  rw [hheld, hstart, ite_self]

theorem State.track_engine_names (s : State) : s.track.engines.map (·.1) = s.engines.map (·.1) := by
  unfold State.track
  rw [List.map_map]
  rfl

theorem State.pageCleared_only (s : State) (b : Blk) (i : Nat) : Only [.hostMem, .latch, .msix, .pages, .regs] s (s.pageCleared b i) :=
  (State.evalVector_only _ _).step (by decide) ((State.putPage_only _ b i _).step (by decide) (Only.set_regs_latch.mono (by decide)))

theorem execSoftReset_follows (hv : b = .ve ∨ b = .xp) (hw : s.hostWrites b i = true) :
    (1 < s.blkState b i → ∃ t, exec (.softReset b i) s = .next t ∧ (t.page b i).errValid = true ∧ (t.page b i).errCode = 4 ∧ Only [.pages] s t) ∧
    (s.blkState b i ≤ 1 → ∃ t, exec (.softReset b i) s = .next t ∧ (t.page b i).irqEn = 0 ∧ (t.page b i).errValid = false ∧
      (∀ k, t.regs.find? k = if k / 0x1000 == b.base i / 0x1000 then none else s.regs.find? k) ∧ t.engines.map (·.1) = s.engines.map (·.1) ∧
      Only [.devState, .engines, .hostMem, .latch, .msix, .pages, .pins, .regs] s t) := by
  have hb : b.enableWritable = false := by rcases hv with rfl | rfl <;> rfl
  obtain ⟨d, e, hd⟩ := State.blkCtrl_follows (s := s) (i := i) hv
  have hexec : exec (.softReset b i) s = .next (s.softResetWrite b i) := by
    rw [execSoftReset_eq hw, hd, State.ctrlWrite_follows hv (ctrlWord_softReset false d e).2.2]
  have hkept := State.drainEnd_fixed (s := s) (i := i) hb
  refine ⟨fun h => ⟨_, hexec, ?_⟩, fun h => ⟨_, hexec, ?_⟩⟩
  · rw [State.softResetWrite_refuses (by rw [hkept]; exact h), hkept, State.err_page]
    exact ⟨rfl, rfl, s.err_only b i 4 0 0⟩
  · rw [State.softResetWrite_acts (by rw [hkept]; exact h), hkept]
    obtain ⟨r, hr⟩ := s.softReset_page b i
    obtain ⟨-, hirq, herr⟩ := s.pageReset_header b i
    have hcleared := s.pageCleared_only b i
    rw [hr]
    refine ⟨hirq, herr, s.softReset_regs b i, ?_, ?_⟩ <;> rw [s.softReset_follows i hv]
    · rw [State.track_engine_names, State.settleState_only _ .engines rfl, hcleared .engines rfl]
    · exact (State.track_only _).step (by decide) ((State.settleState_only _).step (by decide) (hcleared.mono (by decide)))

end

/-! ### The registers, the jobs and the blocks -/

/-- Settles O58: the accesses of BAR0 and the clears, the job in JOB_SEL, and ENABLE, DRAIN and SOFT_RESET of a block. -/
theorem registersJobsAndBlocksAreControlled : Obligations.RegistersJobsAndBlocksAreControlled := by
  unfold Obligations.RegistersJobsAndBlocksAreControlled
  intro s
  refine ⟨fun off size v hdown => ⟨execRegisterWrite_down hdown off size v, execLoReadLatch_down hdown off size⟩,
    fun off size v h => execRegisterWrite_ignored s h v, fun off v hup h4 => execRegisterWrite_eight hup h4 v,
    fun off v h => execRegisterWrite_nowhere s h v,
    fun off v b i o d hup h4 hp ha ho h40 hl hd hv hown => execRegisterWrite_stored hup h4 hp ha ho h40 hl hd hv hown,
    fun off n hup => execLoReadLatch_up hup off n, fun off n b i o hup hn hw hp ha ho => execLoReadLatch_word hup hn hw hp ha ho,
    fun b i mask h => exec_page_kept h mask, fun b i h => exec_clears h, fun v h => exec_sched_kept h v, execPreemptMaxClr_clears,
    fun die h => execDieTempMaxClr_kept h, fun die hd h => execDieTempMaxClr_clears hd h,
    fun v j new hw hj => ⟨execJobValidSet_sets hw hj, execJobValidClear_clears hw hj⟩, fun b i hb hw => ?_,
    fun b i hb hw => ⟨exec_ctrl_fixed hb hw, execSoftReset_fixed hb hw, fun hv => execSoftReset_follows hv hw⟩,
    fun b i h => execBlockDrainEnd_absent h, fun b i hb ha => execBlockDrainEnd_ends hb ha⟩
  obtain ⟨hrefuse, hset, hstay⟩ := execBlockEnableSet_acts hb hw
  obtain ⟨hoff, hquiet, hclear⟩ := execBlockEnableClear_acts hb hw
  obtain ⟨hdrain, hundrain⟩ := exec_drains hb hw
  obtain ⟨hbusy, hreset⟩ := execSoftReset_acts hb hw
  exact ⟨hrefuse, hset, hstay, hoff, hquiet, hclear, hdrain, hundrain, hbusy, hreset⟩

end Sys2Proof.Machine
end

section
set_option Elab.async false
namespace Sys2Proof.Machine

/-! ### Power gating and the statistic slots (R107, R110) -/

theorem SMap.find?_erase {α : Type} (m : SMap α) (x k : Nat) : (m.erase x).find? k = if k = x then none else m.find? k := by
  have h : m.erase x = m.dropKeys (· == x) := rfl
  rw [h, SMap.find?_dropKeys]
  simp

/-- What an update of one engine that spares its accumulator leaves of the accumulator rows and of the other engines. -/
theorem State.putEngine_spares (s : State) {g : Nat} {e : Engine} (h : e.acc = (s.engine g).acc) :
    (∀ m x, ((s.putEngine g e).engine g).row m x = (s.engine g).row m x) ∧
      (∀ f, f ≠ g → (s.putEngine g e).engine f = s.engine f) :=
  ⟨fun m x => by rw [State.putEngine_engine, Engine.row_congr h], fun _ hf => State.putEngine_engine_other s e hf⟩

/-- An engine whose page has GATE_EN, that is neither gated nor held, on a usable die and with stitch not needed, gates its power. -/
theorem State.engineGate_gates {s : State} {g since : Nat} (hidle : (s.engine g).idleSince = some since)
    (hen : (s.page .ne g).extra.getLsbD 3 = true) (hgated : (s.engine g).gated = false) (hheld : s.stepHolds g = false)
    (hdie : s.dieUsable (g / 2) = true) (hfault : (s.page .ne g).faulted = false)
    (hstitch : ∀ d, s.pwr.dies.find? (g / 2) = some d → (if g % 2 = 0 then d.stitch.1 else d.stitch.2) = 0) :
    s.engineGate g = (s.at (since + bits (s.reg .ne g 0x058) 15 0 * usTicks)).putEngine g
      { s.engine g with gated := true, planeOf := none } := by
  have hnone : ((s.pwr.dies.find? (g / 2)).any fun d => (if g % 2 == 0 then d.stitch.1 else d.stitch.2) != 0) = false := by
    cases hd : s.pwr.dies.find? (g / 2) with
    | none => rfl
    | some d => simpa using hstitch d hd
  simp only [State.engineGate, hidle, hen, hgated, hheld, hdie, hfault, hnone, Bool.not_false, Bool.and_self, if_true]

/-- Settles O20: each of the three is one update of one engine that spares its accumulator. -/
theorem engineGateAndStatisticClears : Obligations.EngineGateAndStatisticClears := by
  unfold Obligations.EngineGateAndStatisticClears
  refine fun s g => ⟨fun since hidle hen hgated hheld hdie hfault hstitch => ?_, fun hw => ⟨?_, ?_⟩, fun hw => ⟨?_, ?_⟩⟩
  · obtain ⟨hrow, hother⟩ := (s.at (since + bits (s.reg .ne g 0x058) 15 0 * usTicks)).putEngine_spares (g := g)
      (e := { s.engine g with gated := true, planeOf := none }) (by rw [State.engine_congr (State.at_engines s _)])
    have hexec : exec (.engineGate g) s = .next _ :=
      congrArg Host.Outcome.next (State.engineGate_gates hidle hen hgated hheld hdie hfault hstitch)
    refine ⟨_, hexec, ?_, ?_, ?_, fun m x => ?_, fun e he => ?_, (State.putEngine_only _ _ _).step (by decide) ((State.at_only s _).mono (by decide))⟩
    · rw [State.putEngine_engine]
    · rw [State.putEngine_engine]
    · exact (State.putEngine_now _ _ _).trans (State.at_now _ _)
    · rw [hrow, State.engine_congr (State.at_engines s _)]
    · rw [hother e he, State.engine_congr (State.at_engines s _)]
  · obtain ⟨hrow, hother⟩ := s.putEngine_spares (g := g) (e := { s.engine g with stats := [] }) rfl
    refine ⟨s.mseClearAll g, if_pos hw, fun k => ?_, hrow, hother, State.putEngine_only _ _ _⟩
    rw [State.mseClearAll, State.putEngine_engine]
    rfl
  · obtain ⟨hrow, hother⟩ := s.putEngine_spares (g := g)
      (e := { s.engine g with stats := SMap.erase (s.engine g).stats (s.reg .ne g 0x060 % 8) }) rfl
    refine ⟨s.mseClearSel g, if_pos hw, ?_, fun k hk => ?_, hrow, hother, State.putEngine_only _ _ _⟩
    · rw [State.mseClearSel, State.putEngine_engine, Engine.stat, SMap.get, SMap.find?_erase, if_pos rfl]
      rfl
    · rw [State.mseClearSel, State.putEngine_engine, Engine.stat, SMap.get, SMap.find?_erase, if_neg hk]
      rfl
  · exact if_neg (by simp [hw])
  · exact if_neg (by simp [hw])

end Sys2Proof.Machine
end

section
set_option Elab.async false
namespace Sys2Proof.Machine

/-! ### A command of the matching engine in the raster engine's queue (R433) -/

/-- An ME_FLOW of job 5 that waits in the queue of the raster engine. -/
def strayCmd : Cmd :=
  { uid := 7, apt := 1, ring := 3, seq := 0, pkt := BitVec.ofNat 512 (0x5001 + 5 * 2 ^ 16), job := 5, cls := 2, step := none
    rejected := false, place := .queued .raster, entry := .none, heldEntry := true, epoch := 0, acceptedAt := 0, turn := 1, store := 0
    replay := false, fetched := false, progress := 0, data := [], fault := none }

/-- A device in READY whose raster cores have an item of that command, while the matching engine, which is up, runs none. -/
def strayState : State :=
  { State.reset with
    devState := 3
    cmds := [strayCmd]
    regs := [(Blk.base .mdSys 0 + 0x040, BitVec.ofNat 32 (2 * 2 ^ 30 + 2 ^ 29))]
    raster := { Raster.reset with tiles := [⟨7, 1, true, 0, 0, (0, 0), BinLists.fresh, [0], true, []⟩] } }

theorem strayState_me_can_fault : Blk.canFault .me false = true ∧ strayState.blockPresent .me 0 = true ∧
    (strayState.page .me 0).faulted = false ∧ strayState.blockOff .me 0 = false := by decide +kernel

/-- By its queue the command counts as running, and by its operation as one of the matching engine. -/
theorem strayCmd_runs : strayState.cmd? 7 = some strayCmd ∧ strayState.mayRun strayCmd = true ∧
    strayCmd.block (strayState.engineOf strayCmd) = some (.me, 0) := by decide +kernel

/-- Whether an outcome is a next state in which a command of a uid still waits. -/
def leavesWaiting (uid : Nat) : Out → Bool
  | .next t => t.cmds.any fun d => d.uid == uid && d.unstarted
  | _ => false

theorem strayState_fault_spares : leavesWaiting 7 (exec (.blockFault .me 0 false (some 7)) strayState) = true := by decide +kernel

/-- Refutes O47: a BLOCK_FAULT of the matching engine ends the command that the engine itself runs, whichever the event names. The statement asks that
the named one has ended wherever it may be running and its operation is the engine's; in a state that no admission makes, which holds an ME_FLOW in
the raster engine's queue with an item on a raster core, it goes on waiting. -/
theorem not_watchdogsAndBlockFaultsStopTheirUnit : ¬ Obligations.WatchdogsAndBlockFaultsStopTheirUnit := by
  unfold Obligations.WatchdogsAndBlockFaultsStopTheirUnit
  intro h
  obtain ⟨-, -, -, hfault⟩ := h strayState
  obtain ⟨hcan, hpresent, hrests, hon⟩ := strayState_me_can_fault
  obtain ⟨hcmd, hruns, hblock⟩ := strayCmd_runs
  obtain ⟨t, ht, -, -, -, -, -, hended, -⟩ := hfault .me 0 false (some 7) hcan hpresent hrests hon (.inr (.inl (by decide)))
  have hwaits := strayState_fault_spares
  rw [ht] at hwaits
  obtain ⟨d, hd, hwait⟩ := List.any_eq_true.mp hwaits
  obtain ⟨huid, hunstarted⟩ := Bool.and_eq_true_iff.mp hwait
  exact Bool.false_ne_true ((hended 7 strayCmd rfl hcmd hruns hblock d hd (eq_of_beq huid)).symm.trans hunstarted)

end Sys2Proof.Machine
end

section
set_option Elab.async false
namespace Sys2Proof.Machine

/-! ### Corrected single-bit errors (R283) -/

theorem keepOutside_subset (ws : List Nat) (a n : Nat) : keepOutside ws a n ⊆ ws := List.filter_subset_self _

theorem State.logFault_softWords_subset (s : State) (b : Blk) (i cls action addr commands moved us : Nat) :
    (s.logFault b i cls action addr commands moved us).softWords ⊆ s.softWords := by
  have hlog (l : SMap (List Byte)) (bs : List Byte) (a : Nat) (c : Prop) [Decidable c] :
      State.softWords { (if c then s else s.devPut a bs) with log := l } ⊆ s.softWords := by
    split
    · exact List.Subset.refl _
    · exact keepOutside_subset _ _ _
  have hput (u : State) (hu : u.softWords ⊆ s.softWords) (v w : Nat) :
      ((u.setReg .fault 0 0x04C v).setReg .fault 0 0x040 w).softWords ⊆ s.softWords := hu
  unfold State.logFault State.logFaultAt
  split
  · exact List.Subset.refl _
  · dsimp only
    rw [(State.irq_only _ .fault 0 _) .softWords rfl, (State.bumpMax_only _ .fault 0 0x090 us 0xFFFFFFFF) .softWords rfl]
    split
    · rw [(State.bump_only _ .fault 0 _ 1) .softWords rfl]
      exact hput _ (hlog _ _ _ _) _ _
    · exact hput _ (hlog _ _ _ _) _ _

/-- The state in which a word's single-bit error has been corrected, and not yet counted. -/
def State.wordMended (s : State) (w : Nat) : State := { s with softWords := s.softWords.filter (· != w) }

/-- What counts a corrected error of a memory: its block's counters, its interrupt and the log. -/
def State.countCorrected (s : State) (w : Nat) (e : Blk × Nat × Nat × Nat) : State :=
  (((if e.1 == .memc then s else s.pulse e.1 e.2.1 0x12 1 none).bump e.1 e.2.1 e.2.2.1 1).irq e.1 e.2.1 (1 <<< e.2.2.2)).logFault
    e.1 e.2.1 0 0 (8 * w) 0 0 0

theorem State.correctWord_eq (s : State) (w : Nat) :
    s.correctWord w = (s.eccHome (8 * w)).elim (s.wordMended w) ((s.wordMended w).countCorrected w) := rfl

theorem State.countCorrected_softWords_subset (s : State) (w : Nat) (e : Blk × Nat × Nat × Nat) :
    (s.countCorrected w e).softWords ⊆ s.softWords := by
  intro v hv
  have hlogged := State.logFault_softWords_subset _ _ _ _ _ _ _ _ _ hv
  rw [(State.irq_only _ e.1 e.2.1 _) .softWords rfl, (State.bump_only _ e.1 e.2.1 e.2.2.1 1) .softWords rfl] at hlogged
  split at hlogged
  · exact hlogged
  · rwa [(State.pulse_only _ e.1 e.2.1 0x12 1 none) .softWords rfl] at hlogged

/-- A corrected word holds no single-bit error any more, and no word takes one. -/
theorem State.correctWord_softWords (s : State) (w : Nat) : ∀ v ∈ (s.correctWord w).softWords, v ∈ s.softWords ∧ v ≠ w := by
  have hmended : ∀ v ∈ (s.wordMended w).softWords, v ∈ s.softWords ∧ v ≠ w := fun v hv => by
    simpa [State.wordMended] using hv
  rw [State.correctWord_eq]
  generalize s.eccHome (8 * w) = home
  cases home with
  | none => exact hmended
  | some e => exact fun v hv => hmended v (State.countCorrected_softWords_subset _ w e hv)

/-- A list of words is corrected, each seen by a unit. -/
theorem State.correctWords_softWords (b : Blk) (i : Nat) (ws : List Nat) (s : State) :
    ∀ v ∈ (ws.foldl (fun (t : State) w => (t.correctWord w).unitCorr b i) s).softWords, v ∈ s.softWords ∧ v ∉ ws := by
  induction ws generalizing s with
  | nil => exact fun v hv => ⟨hv, List.not_mem_nil⟩
  | cons w ws ih =>
    intro v hv
    obtain ⟨hmem, hnot⟩ := ih _ v hv
    rw [State.unitCorr_only _ b i .softWords rfl] at hmem
    obtain ⟨hold, hne⟩ := s.correctWord_softWords w v hmem
    exact ⟨hold, List.not_mem_cons_of_ne_of_not_mem hne hnot⟩

theorem State.correctRead_softWords (s : State) (b : Blk) (i a n : Nat) :
    ∀ v ∈ (s.correctRead b i a n).softWords, v ∈ s.softWords ∧ v ∉ s.meets s.softWords a n :=
  State.correctWords_softWords b i _ s

/-- A read that meets no single-bit error corrects none. -/
theorem State.correctRead_of_meets_nil {s : State} {a n : Nat} (h : s.meets s.softWords a n = []) (b : Blk) (i : Nat) :
    s.correctRead b i a n = s := by
  unfold State.correctRead
  rw [h]
  rfl

/-! ### Uncorrectable words (R283) -/

theorem State.firstBad_eq_none_iff (s : State) (a n : Nat) : s.firstBad a n = none ↔ s.badIn a n = false := by
  unfold State.firstBad State.badIn
  simp

/-! ### The bytes of a transfer (R90) -/

/-- The state in which the bytes of a transfer lie at its destination, the single-bit errors of its source corrected. -/
def State.landedBytes (s : State) (f : Fetch) : State :=
  (s.correctRead .tmem (f.engine / 2) f.src f.length).devPut f.dst (s.devGet f.src f.length)

theorem State.landFetch_again {s : State} {f : Fetch} (h : f.again = true) : s.landFetch f = (s.landedBytes f).markFetched f.uid :=
  if_pos h

theorem State.landFetch_first {s : State} {f : Fetch} (h : f.again = false) :
    s.landFetch f = (s.landedBytes f).advance f.job f.flag 1 := if_neg (by simp [h])

/-- What is done to the flag and the commands of a transfer moves no byte. -/
theorem State.landFetch_bytes (s : State) (f : Fetch) :
    (s.landFetch f).mem = (s.landedBytes f).mem ∧ (s.landFetch f).softWords = (s.landedBytes f).softWords := by
  cases h : f.again with
  | true => exact State.landFetch_again h ▸ ⟨rfl, rfl⟩
  | false =>
    rw [State.landFetch_first h]
    exact ⟨State.advance_only _ _ _ _ .mem rfl, State.advance_only _ _ _ _ .softWords rfl⟩

theorem State.landedBytes_only (s : State) (f : Fetch) :
    Only [.badWords, .ctrs, .hostMem, .log, .mem, .msix, .pages, .regs, .softWords] s (s.landedBytes f) :=
  (State.devPut_only _ _ _).step (by decide) ((State.correctRead_only _ _ _ _ _).mono (by decide))

theorem State.landedBytes_read {s : State} (hok : MemOk s) (f : Fetch) :
    (s.landedBytes f).mem.readRun 0 f.dst (s.devGet f.src f.length).length = s.devGet f.src f.length := by
  obtain ⟨hmem, -⟩ := State.correctRead_memOk s .tmem (f.engine / 2) f.src f.length hok
  exact Memory.readRun_writeRun_same _ _ hmem

theorem State.landedBytes_read_other {s : State} (hok : MemOk s) {f : Fetch} (hsoft : s.meets s.softWords f.src f.length = [])
    {a : Nat} (ha : a < f.dst ∨ f.dst + (s.devGet f.src f.length).length ≤ a) : (s.landedBytes f).mem.read 0 a = s.mem.read 0 a := by
  unfold State.landedBytes
  rw [State.correctRead_of_meets_nil hsoft]
  exact (Memory.read_writeRun _ _ _ hok.1).trans (if_neg (by omega))

theorem State.landedBytes_softWords (s : State) (f : Fetch) :
    ∀ w ∈ (s.landedBytes f).softWords, w ∈ s.softWords ∧ w ∉ s.meets s.softWords f.src f.length :=
  fun w hw => s.correctRead_softWords _ _ _ _ w (keepOutside_subset _ _ _ hw)

/-! ### Commands that end together (R430, R444) -/

theorem State.endAll_ends {s : State} {p : Cmd → Bool} {c : Cmd} (hc : c ∈ s.cmds) (hu : c.unstarted = true) (hp : p c = true)
    (st : Status) (cause : Nat) : { c with place := .ended st cause } ∈ (s.endAll p st cause).cmds :=
  List.mem_map.mpr ⟨c, hc, if_pos (by rw [hu, hp]; rfl)⟩

theorem State.endAll_spares_mem {s : State} {p : Cmd → Bool} {c : Cmd} (hc : c ∈ s.cmds) (h : c.unstarted = false ∨ p c = false)
    (st : Status) (cause : Nat) : c ∈ (s.endAll p st cause).cmds :=
  List.mem_map.mpr ⟨c, hc, if_neg (by rcases h with h | h <;> simp [h])⟩

/-- With a command that ends, a fault ends all that its predicate names, and leaves its note with the first of them. -/
theorem State.faultAll_eq {s : State} {p : Cmd → Bool} {c : Cmd} (h : s.cmds.find? (fun d => d.unstarted && p d) = some c) (st : Status)
    (cause addr : Nat) :
    (s.faultAll p st cause addr).cmds = (s.endAll p st cause).cmds.map fun d =>
      if d.uid == c.uid then { d with fault := some ⟨s.now, addr, s.countLive p⟩ } else d := by
  unfold State.faultAll
  simp only [h]

theorem State.faultAll_none {s : State} {p : Cmd → Bool} (h : s.cmds.find? (fun d => d.unstarted && p d) = none) (st : Status)
    (cause addr : Nat) : s.faultAll p st cause addr = s := by
  unfold State.faultAll
  simp only [h]

theorem State.faultAll_ends {s : State} {p : Cmd → Bool} {c : Cmd} (hc : c ∈ s.cmds) (hu : c.unstarted = true) (hp : p c = true)
    (st : Status) (cause addr : Nat) :
    ∃ d ∈ (s.faultAll p st cause addr).cmds, d = { c with place := .ended st cause, fault := d.fault } := by
  have hsome : (s.cmds.find? fun d => d.unstarted && p d).isSome := List.find?_isSome.mpr ⟨c, hc, by rw [hu, hp]; rfl⟩
  obtain ⟨first, hfirst⟩ := Option.isSome_iff_exists.mp hsome
  rw [State.faultAll_eq hfirst]
  refine ⟨_, List.mem_map.mpr ⟨_, State.endAll_ends hc hu hp st cause, rfl⟩, ?_⟩
  split <;> rfl

/-- A command that is no part of a fault, and shares its uid with no other, is left alone. -/
theorem State.faultAll_spares {s : State} {p : Cmd → Bool} {c : Cmd} (hc : c ∈ s.cmds) (h : c.unstarted = false ∨ p c = false)
    (huid : ∀ d ∈ s.cmds, d.uid = c.uid → d = c) (st : Status) (cause addr : Nat) : c ∈ (s.faultAll p st cause addr).cmds := by
  cases hfirst : s.cmds.find? fun d => d.unstarted && p d with
  | none => rwa [State.faultAll_none hfirst]
  | some first =>
    rw [State.faultAll_eq hfirst]
    refine List.mem_map.mpr ⟨c, State.endAll_spares_mem hc h st cause, if_neg fun hsame => ?_⟩
    have hfc : first = c := huid first (List.mem_of_find?_eq_some hfirst) (eq_of_beq hsame).symm
    have hends := List.find?_some hfirst
    rw [hfc] at hends
    rcases h with h | h <;> simp [h] at hends

/-! ### FETCH_LANDED (R90, R292, R437) -/

/-- The state in which a transfer is no longer in flight. -/
def State.fetchDone (s : State) (f : Fetch) : State := { s with fetches := s.fetches.erase f }

theorem State.fetchDone_only (s : State) (f : Fetch) : Only [.fetches] s (s.fetchDone f) := Only.set_fetches

section
variable {s : State} {f : Fetch} (hf : s.fetches.find? (fun x => x.uid == f.uid) = some f)
include hf

theorem State.fetchLanded_lost (hl : s.sourceLost f = true) (ok : Bool) :
    s.fetchLanded f.uid ok = (s.fetchDone f).endAll (s.waitsFor f) .dieLost 0 := by
  simp only [State.fetchLanded, hf, hl, if_true]
  rfl

theorem State.fetchLanded_arrives (hl : s.sourceLost f = false) (hr : s.fetchRoute f = 2) :
    s.fetchLanded f.uid true = (s.fetchDone f).arrive f := by
  simp only [State.fetchLanded, hf, hl, hr, Bool.false_eq_true, if_false, if_true, BEq.rfl]
  rfl

theorem State.fetchLanded_lands (hl : s.sourceLost f = false) (hr : s.fetchRoute f = 2) (hb : s.badIn f.src f.length = false) :
    s.fetchLanded f.uid true = (s.fetchDone f).landFetch f := by
  have hnone : (s.fetchDone f).firstBad f.src f.length = none := (s.firstBad_eq_none_iff f.src f.length).mpr hb
  rw [State.fetchLanded_arrives hf hl hr, State.arrive, hnone]

theorem State.fetchLanded_meets_bad (hl : s.sourceLost f = false) (hr : s.fetchRoute f = 2) (hb : s.badIn f.src f.length = true) :
    ∃ a, s.fetchLanded f.uid true =
      (s.fetchDone f).faultAll (s.waitsFor f) .ecc (if s.target f.src f.length = some .dram then 0x34 else 0x30) a := by
  cases hbad : (s.fetchDone f).firstBad f.src f.length with
  | none => exact absurd ((s.firstBad_eq_none_iff f.src f.length).mp hbad) (by rw [hb]; decide)
  | some a =>
    refine ⟨a, ?_⟩
    rw [State.fetchLanded_arrives hf hl hr, State.arrive, hbad]
    simp only [beq_iff_eq]
    rfl

theorem State.fetchLanded_unrouted (hl : s.sourceLost f = false) (hr : s.fetchRoute f = 0) :
    s.fetchLanded f.uid false = (s.fetchDone f).endAll (s.waitsFor f) .link 0x21 := by
  simp only [State.fetchLanded, hf, hl, hr, Bool.false_eq_true, if_false, if_true, BEq.rfl]
  rfl

theorem State.fetchLanded_held (hl : s.sourceLost f = false) (hr : s.fetchRoute f = 1) (ok : Bool) : s.fetchLanded f.uid ok = s := by
  simp [State.fetchLanded, hf, hl, hr]

end

/-- Settles O21: a transfer either lands, by `State.landedBytes` and its flag, or ends the commands that wait for it together. -/
theorem fetchLandedDeliversItsBytes : Obligations.FetchLandedDeliversItsBytes := by
  unfold Obligations.FetchLandedDeliversItsBytes
  refine fun s f hok hf => ⟨fun hl hr hb => ?_, fun ok st cause hcase => ?_, fun hl hr ok => ?_⟩
  · have hexec : exec (.fetchLanded f.uid true) s = .next ((s.fetchDone f).landFetch f).track :=
      congrArg (fun t : State => Host.Outcome.next t.track) (State.fetchLanded_lands hf hl hr hb)
    obtain ⟨hmem, hsoft⟩ := (s.fetchDone f).landFetch_bytes f
    have hdone : MemOk (s.fetchDone f) := hok
    have hbytes := (s.fetchDone f).landedBytes_only f
    have hland := (s.fetchDone f).landFetch_only f
    have hflag (k : Nat) : ((s.fetchDone f).landedBytes f).flag k = s.flag k := State.flag_congr (hbytes .flags rfl) k
    refine ⟨_, hexec, ?_, fun hnone a ha => ?_, fun w hw => ?_, fun hfirst => ⟨?_, fun hp => ?_, fun hp => ?_⟩,
      fun hagain => ⟨?_, fun d hd hu => ?_⟩, fun k hk => ?_, ?_, ?_⟩
    · exact (congrArg (fun m => Memory.readRun 0 m f.dst _) hmem).trans (State.landedBytes_read hdone f)
    · exact (congrArg (fun m => Memory.read 0 m a) hmem).trans (State.landedBytes_read_other hdone hnone ha)
    · exact (s.fetchDone f).landedBytes_softWords f w (hsoft ▸ hw)
    · show ((s.fetchDone f).landFetch f).cmds = _
      rw [State.landFetch_first hfirst, State.advance_only _ _ _ _ .cmds rfl, hbytes .cmds rfl]
      rfl
    · show (((s.fetchDone f).landFetch f).flag f.flag).gen = _ ∧ (((s.fetchDone f).landFetch f).flag f.flag).producer = _
      rw [State.landFetch_first hfirst, State.advance_flag _ _ (by rw [hflag, hp]), hflag]
      exact ⟨rfl, rfl⟩
    · show ((s.fetchDone f).landFetch f).flags = _
      rw [State.landFetch_first hfirst, State.advance_of_poison _ _ (by rw [hflag, hp]), hbytes .flags rfl]
      rfl
    · show ((s.fetchDone f).landFetch f).flags = _
      rw [State.landFetch_again hagain]
      exact hbytes .flags rfl
    · have hd : d ∈ ((s.fetchDone f).landFetch f).cmds := hd
      rw [State.landFetch_again hagain] at hd
      obtain ⟨c, -, rfl⟩ := List.mem_map.mp hd
      by_cases hcu : (c.uid == f.uid) = true
      · rw [if_pos hcu]
      · rw [if_neg hcu] at hu
        exact absurd (beq_iff_eq.mpr hu) hcu
    · show ((s.fetchDone f).landFetch f).flag k = _
      cases hagain : f.again with
      | true => rw [State.landFetch_again hagain]; exact hflag k
      | false => rw [State.landFetch_first hagain, State.advance_flag_other _ _ _ hk]; exact hflag k
    · exact hland .fetches rfl
    · exact (State.track_only _).step (by decide) (hland.step (by decide) ((s.fetchDone_only f).mono (by decide)))
  · have hends (p : Cmd → Bool) : Only [.cmds, .engines, .fetches] s ((s.fetchDone f).endAll p st cause).track :=
      (State.track_only _).step (by decide) ((State.endAll_only _ _ _ _).step (by decide) ((s.fetchDone_only f).mono (by decide)))
    have hall (h : s.fetchLanded f.uid ok = (s.fetchDone f).endAll (s.waitsFor f) st cause) :
        ∃ t, exec (.fetchLanded f.uid ok) s = .next t ∧ t.fetches = s.fetches.erase f ∧
          (∀ c ∈ s.cmds, c.unstarted = true → s.waitsFor f c = true →
            ∃ d ∈ t.cmds, d = { c with place := .ended st cause, fault := d.fault } ∧ (st ≠ .ecc → d.fault = c.fault)) ∧
          (∀ c ∈ s.cmds, (c.unstarted = false ∨ s.waitsFor f c = false) → (∀ d ∈ s.cmds, d.uid = c.uid → d = c) → c ∈ t.cmds) ∧
          Only [.cmds, .engines, .fetches] s t :=
      ⟨_, congrArg (fun t : State => Host.Outcome.next t.track) h, rfl,
        fun c hc hu hw => ⟨_, State.endAll_ends (s := s.fetchDone f) hc hu hw st cause, rfl, fun _ => rfl⟩,
        fun c hc h _ => State.endAll_spares_mem (s := s.fetchDone f) hc h st cause, hends _⟩
    rcases hcase with ⟨hl, rfl, rfl⟩ | ⟨hl, rfl, hr, hb, rfl, rfl⟩ | ⟨hl, rfl, hr, rfl, rfl⟩
    · exact hall (State.fetchLanded_lost hf hl ok)
    · obtain ⟨a, ha⟩ := State.fetchLanded_meets_bad hf hl hr hb
      have hfault := (s.fetchDone f).faultAll_only (s.waitsFor f) .ecc (if s.target f.src f.length = some .dram then 0x34 else 0x30) a
      refine ⟨_, congrArg (fun t : State => Host.Outcome.next t.track) ha, hfault .fetches rfl, fun c hc hu hw => ?_,
        fun c hc h huid => State.faultAll_spares (s := s.fetchDone f) hc h huid _ _ _,
        (State.track_only _).step (by decide) (hfault.step (by decide) ((s.fetchDone_only f).mono (by decide)))⟩
      obtain ⟨d, hd, hdc⟩ := State.faultAll_ends (s := s.fetchDone f) hc hu hw .ecc
        (if s.target f.src f.length = some .dram then 0x34 else 0x30) a
      exact ⟨d, hd, hdc, fun h => absurd rfl h⟩
    · exact hall (State.fetchLanded_unrouted hf hl hr)
  · have hexec : exec (.fetchLanded f.uid ok) s = .next s.track :=
      congrArg (fun t : State => Host.Outcome.next t.track) (State.fetchLanded_held hf hl hr ok)
    exact ⟨_, hexec, State.track_only s⟩

end Sys2Proof.Machine
end

section
set_option Elab.async false
namespace Sys2Proof.Machine

/-! ### States that differ in some fields -/

/-- Two states that hold the same in every field are one. -/
theorem State.eq_of_same {s t : State} (h : ∀ f : StateField, f.same s t) : t = s := by
  cases s
  cases t
  simp only [State.mk.injEq]
  exact ⟨h .pending, h .part, h .now, h .freeCount, h .devState, h .holdCauses, h .cdLost, h .mdLost, h .cmds, h .nextUid, h .steps, h .groups,
    h .fetches, h .colls, h .jobs, h .engines, h .flags, h .windows, h .saveBase, h .apts, h .aptSlots, h .rings, h .waiting, h .backlog,
    h .link, h .msix, h .dma, h .stopped, h .resetPending, h .pages, h .regs, h .latch, h .mem, h .hostMem, h .badWords, h .softWords,
    h .insole, h .protEff, h .me, h .ingest, h .raster, h .disp, h .outs, h .traceGap, h .traceFill, h .traceAt, h .log, h .readData,
    h .pins, h .bw, h .pwr, h .boot, h .welt, h .refresh, h .cairn, h .ctrs, h .snaps, h .dbg, h .lastFw, h .sleeping, h .issue, h .timeFrac⟩

/-- What the choice of a context may change: the time, the engines, and what an event's count and its interrupt change. -/
theorem State.select_eq (s : State) (g k : Nat) : ∃ now engines msix pages hostMem ctrs, s.select g k =
    { s with now := now, engines := engines, msix := msix, pages := pages, hostMem := hostMem, ctrs := ctrs } := by
  refine ⟨(s.select g k).now, (s.select g k).engines, (s.select g k).msix, (s.select g k).pages, (s.select g k).hostMem, (s.select g k).ctrs,
    State.eq_of_same fun f => ?_⟩
  cases hf : (fieldMask [.now, .engines, .msix, .pages, .hostMem, .ctrs]).testBit f.idx with
  | true =>
    cases f
    case now | engines | msix | pages | hostMem | ctrs => rfl
    all_goals exact absurd hf (by decide)
  | false =>
    have h := s.select_only g k f hf
    cases f
    case now | engines | msix | pages | hostMem | ctrs => exact absurd hf (by decide)
    all_goals exact h

theorem State.select_fetchDesc (s : State) (g k : Nat) (c : Cmd) (e : Nat) : (s.select g k).fetchDesc c e = s.fetchDesc c e := by
  obtain ⟨_, _, _, _, _, _, h⟩ := s.select_eq g k
  rw [h]
  rfl

theorem State.select_addr (s : State) (g k : Nat) (c : Cmd) (e a n : Nat) : (s.select g k).addr c e a n = s.addr c e a n := by
  obtain ⟨_, _, _, _, _, _, h⟩ := s.select_eq g k
  rw [h]
  rfl

theorem State.select_hasMoved (s : State) (g k : Nat) (c : Cmd) : (s.select g k).hasMoved c = s.hasMoved c := by
  obtain ⟨_, _, _, _, _, _, h⟩ := s.select_eq g k
  rw [h]
  rfl

theorem State.select_badRead (s : State) (g k : Nat) (reads : List (Nat × Nat × Nat)) : (s.select g k).badRead reads = s.badRead reads := by
  obtain ⟨_, _, _, _, _, _, h⟩ := s.select_eq g k
  rw [h]
  rfl

theorem State.select_stepOf (s : State) (g k : Nat) (c : Cmd) : (s.select g k).stepOf c = s.stepOf c := by
  obtain ⟨_, _, _, _, _, _, h⟩ := s.select_eq g k
  rw [h]
  rfl

theorem State.select_cmd? (s : State) (g k u : Nat) : (s.select g k).cmd? u = s.cmd? u :=
  State.cmd?_congr (State.select_only s g k .cmds rfl) u

/-! ### Accumulator rows that an operation leaves alone (R81) -/

/-- From `s` to `t` no accumulator row has changed. -/
def State.SameRows (s t : State) : Prop := ∀ h m r, (t.engine h).row m r = (s.engine h).row m r

namespace State.SameRows

theorem of_engines {s t : State} (h : t.engines = s.engines) : s.SameRows t := fun g m r => by rw [State.engine_congr h]

theorem of_only {fs : List StateField} {s t : State} (h : Only fs s t) (hf : (fieldMask fs).testBit StateField.engines.idx = false) :
    s.SameRows t := of_engines (h .engines hf)

theorem refl (s : State) : s.SameRows s := of_engines rfl

theorem trans {s t u : State} (h : s.SameRows t) (k : t.SameRows u) : s.SameRows u := fun g m r => (k g m r).trans (h g m r)

/-- An engine is put back with the accumulator it had. -/
theorem putEngine (s : State) {g : Nat} {e : Engine} (h : e.acc = (s.engine g).acc) : s.SameRows (s.putEngine g e) := by
  intro f m r
  by_cases hf : f = g
  · subst hf
    rw [State.putEngine_engine, Engine.row_congr h]
  · rw [State.putEngine_engine_other s e hf]

theorem track (s : State) : s.SameRows s.track := s.track_row

end State.SameRows

theorem State.wake_sameRows (s : State) (g : Nat) : s.SameRows (s.wake g) := by
  unfold State.wake
  dsimp only
  split
  · exact .putEngine s rfl
  · exact .refl s

theorem State.select_sameRows (s : State) (g k : Nat) : s.SameRows (s.select g k) := by
  have hquiet (due : Nat) (before : Bool) (job : Option Nat) : ((((s.wake g).at due).edge .ne g 0x11 before job).engines) = (s.wake g).engines :=
    (State.edge_only _ .ne g 0x11 before job .engines rfl).trans (State.at_engines _ _)
  exact (s.wake_sameRows g).trans (.trans (.of_engines (hquiet _ _ _)) (.putEngine _ (by rw [State.engine_congr (hquiet _ _ _)])))

theorem State.loadAhead_sameRows (s : State) (c : Cmd) (g : Nat) : s.SameRows (s.loadAhead c g) := by
  unfold State.loadAhead
  split
  · exact .putEngine s rfl
  · exact .refl s

theorem State.dropAhead_sameRows (s : State) (c : Cmd) (g : Nat) : s.SameRows (s.dropAhead c g) := by
  unfold State.dropAhead
  dsimp only
  split
  · exact .putEngine s rfl
  · exact .refl s

theorem State.addStats_sameRows (s : State) (c : Cmd) (g off : Nat) (x : Stats) : s.SameRows (s.addStats c g off x) := by
  have hput (m : SMap StatSlot) : s.SameRows (s.putEngine g { s.engine g with stats := m }) := .putEngine s rfl
  unfold State.addStats
  dsimp only
  split
  · exact .refl s
  · split
    · exact (hput _).trans (.of_only (State.irq_only _ .ne g 0b1000) rfl)
    · split
      · exact .refl s
      · exact hput _

theorem Engine.putRow_row (e : Engine) (k r m x : Nat) (y : AccRow) :
    (e.putRow k r y).row m x = if 512 * m + x = 512 * k + r then y else e.row m x := by
  unfold Engine.putRow Engine.row
  split
  · next h => rw [h, SMap.get_set_same]
  · next h => rw [SMap.get_set_other _ _ _ _ _ h]

/-- Engines that show the same rows still do when the same rows are put into them. -/
theorem Engine.putRows_row_congr (k : Nat) (rows : List (Nat × AccRow)) {e f : Engine} (h : ∀ m r, e.row m r = f.row m r) :
    ∀ m r, (e.putRows k rows).row m r = (f.putRows k rows).row m r := by
  unfold Engine.putRows
  induction rows generalizing e f with
  | nil => exact h
  | cons p rows ih =>
    refine ih fun m r => ?_
    dsimp only
    split
    · rw [Engine.putRow_row, Engine.putRow_row, h]
    · exact h m r

/-! ### Bytes and single-bit errors -/

/-- The memory after a list of writes depends on the memory before them alone. -/
theorem State.putAll_mem_congr {s t : State} (h : t.mem = s.mem) (ws : List (Nat × List Byte)) : (t.putAll ws).mem = (s.putAll ws).mem := by
  unfold State.putAll
  induction ws generalizing s t with
  | nil => exact h
  | cons w ws ih => exact ih (congrArg (fun m => Memory.writeRun 0 m w.1 w.2) h)

theorem State.correctReads_of_no_soft {s : State} (h : s.softWords = []) (b : Blk) (i : Nat) (rs : List (Nat × Nat)) :
    s.correctReads b i rs = s := by
  unfold State.correctReads
  induction rs with
  | nil => rfl
  | cons r rs ih =>
    have hmeets : s.meets s.softWords r.1 r.2 = [] := by rw [h]; rfl
    rw [List.foldl_cons, State.correctRead_of_meets_nil hmeets]
    exact ih

theorem State.correctWork_of_no_soft {s : State} (h : s.softWords = []) (c : Cmd) (g : Nat) (reads : List (Nat × Nat × Nat)) :
    s.correctWork c g reads = s := by
  unfold State.correctWork
  dsimp only
  rw [State.correctReads_of_no_soft h, State.correctReads_of_no_soft h]

/-! ### A command that ends (R430) -/

theorem State.endCmd_ends {s : State} {u : Nat} {c : Cmd} (hc : s.cmd? u = some c) (hu : c.unstarted = true) (st : Status) (cause : Nat) :
    (s.endCmd u st cause).cmd? u = some { c with place := .ended st cause } := by
  rw [State.endCmd_cmd?, hc, Option.map_some, if_pos hu]

theorem State.faultCmd_ends {s : State} {u : Nat} {c : Cmd} (hc : s.cmd? u = some c) (hu : c.unstarted = true) (st : Status) (cause addr : Nat) :
    (s.faultCmd u st cause addr).cmd? u = some { c with place := .ended st cause, fault := some ⟨s.now, addr, 1⟩ } := by
  unfold State.faultCmd State.faultWith State.cmd?
  dsimp only
  rw [find?_map_same]
  · rw [show s.cmds.find? (fun c => c.uid == u) = some c from hc, Option.map_some, List.find?_some hc, Bool.true_and, if_pos hu]
  · intro d
    split <;> rfl

end Sys2Proof.Machine
end

section
set_option Elab.async false
namespace Sys2Proof.Machine

/-! ### A command that its unit can start (R38) -/

/-- What makes a command startable names it, and it waits in a context's queue. -/
theorem State.startable_cmd {s : State} {uid op g k : Nat} {c : Cmd} (h : s.startable uid op = some (c, g, k)) :
    s.cmd? uid = some c ∧ c.uid = uid ∧ c.unstarted = true := by
  unfold State.startable at h
  split at h
  · cases h
  · next d hd =>
    split at h
    · next e j hplace =>
      split at h
      · split at h
        · obtain ⟨rfl, rfl, rfl⟩ : d = c ∧ e = g ∧ _ = k := by simpa using h
          exact ⟨hd, by simpa using List.find?_some hd, by rw [Cmd.unstarted, hplace]⟩
        · cases h
      · cases h
    · cases h

/-- An unranked command is named likewise, and its tile index is not one of its step's. -/
theorem State.unranked_cmd {s : State} {uid op g : Nat} {c : Cmd} (h : s.unranked uid op = some (c, g)) :
    s.cmd? uid = some c ∧ c.uid = uid ∧ c.unstarted = true ∧ s.tileBad c = true := by
  unfold State.unranked at h
  split at h
  · cases h
  · next d hd =>
    split at h
    · next e j u hplace hunit =>
      split at h
      · next hcond =>
        obtain ⟨rfl, rfl⟩ : d = c ∧ e = g := by simpa using h
        simp only [Bool.and_eq_true] at hcond
        exact ⟨hd, by simpa using List.find?_some hd, by rw [Cmd.unstarted, hplace], hcond.1.1.1.2⟩
      · cases h
    · cases h

/-- The lowest CAUSE of a list of failing checks that is not empty. -/
theorem lowestCause_isSome {l : List (Status × Nat)} (h : l ≠ []) : ∃ f, lowestCause l = some f := by
  cases l with
  | nil => exact absurd rfl h
  | cons x xs =>
    unfold lowestCause
    split
    · exact ⟨x, rfl⟩
    · split
      · exact ⟨x, rfl⟩
      · exact ⟨_, rfl⟩

/-! ### What it does instead of running (R41, R90, R283, R432) -/

section
variable {s t : State} {c : Cmd} {g : Nat}

theorem State.beforeRun_poisoned (h : s.waitPoisoned c = true ∨ (s.landed c g = true ∧ s.fetchPoisoned c g = true))
    (hd : s.waitPoisoned c = false → s.badDesc c g = none) : s.beforeRun t c g = some (t.endCmd c.uid .ecc 0) := by
  unfold State.beforeRun
  cases hw : s.waitPoisoned c with
  | true => rfl
  | false =>
    obtain ⟨hl, hp⟩ := h.resolve_left (by rw [hw]; exact Bool.false_ne_true)
    simp only [hd hw, hl, hp, Bool.false_eq_true, if_false, Bool.not_true, Bool.false_and, Bool.and_self, if_true]

theorem State.beforeRun_badDesc {a : Nat} (hw : s.waitPoisoned c = false) (hd : s.badDesc c g = some a) :
    s.beforeRun t c g = some (t.endBadDesc c g a) := by
  simp only [State.beforeRun, hw, hd, Bool.false_eq_true, if_false]

theorem State.beforeRun_fetches (hw : s.waitPoisoned c = false) (hd : s.badDesc c g = none) (hl : s.landed c g = false)
    (hf : s.fetchFails c g = []) : s.beforeRun t c g = some (t.issueFetch c g) := by
  simp [State.beforeRun, hw, hd, hl, hf]

theorem State.beforeRun_runs (hw : s.waitPoisoned c = false) (hd : s.badDesc c g = none)
    (h : (s.landed c g = true ∧ s.fetchPoisoned c g = false) ∨ (s.landed c g = false ∧ s.fetchFails c g ≠ [])) :
    s.beforeRun t c g = none := by
  rcases h with ⟨hl, hp⟩ | ⟨hl, hf⟩
  · simp [State.beforeRun, hw, hd, hl, hp]
  · simp [State.beforeRun, hw, hd, hl, hf]

/-- A command whose data has not landed has a descriptor, and one that passes its check a place for the data. -/
theorem State.fetchDesc_of_sound (hl : s.landed c g = false) (hf : s.fetchFails c g = []) :
    ∃ d a, s.fetchDesc c g = some d ∧ s.addr c g d.dst d.length = some a := by
  cases hd : s.fetchDesc c g with
  | none => simp [State.landed, hd] at hl
  | some d =>
    cases hat : c.fetchAt with
    | none => simp [State.fetchDesc, State.descAt, hat] at hd
    | some at' =>
      cases ha : s.addr c g d.dst d.length with
      | none => simp [State.fetchFails, hat, hd, ha] at hf
      | some a => exact ⟨d, a, rfl, ha⟩

theorem State.issueFetch_fetches {d : FetchDesc} {a : Nat} (hd : s.fetchDesc c g = some d) (ha : s.addr c g d.dst d.length = some a) :
    (s.issueFetch c g).fetches = s.fetches ++ [⟨g, c.job, d.flag, d.gen, c.uid, d.src, a, d.length, s.hasMoved c⟩] := by
  simp only [State.issueFetch, hd, ha]
  rw [State.correctWork_only s c g _ .fetches rfl]

theorem State.endBadDesc_ends {a : Nat} (hc : s.cmd? c.uid = some c) (hu : c.unstarted = true) :
    (s.endBadDesc c g a).cmd? c.uid = some { c with place := .ended .ecc 0x30, fault := some ⟨s.now, a, 1⟩ } :=
  (State.cmd?_congr (State.unitBad_only _ c g 0x30 a .cmds rfl) c.uid).trans (State.faultCmd_ends hc hu .ecc 0x30 a)

end

/-! ### The operation runs (R91, R92, R283) -/

/-- The state in which an operation has passed its checks and its unit has begun: traced, paid for, its tile in SYNTH, its planes loaded and the
single-bit errors of what it reads corrected. -/
def State.begins (s : State) (c : Cmd) (g : Nat) (reads : List (Nat × Nat × Nat)) : State :=
  ((((s.starts c).spendIssue g (g / 2)).synth c).loadAhead c g).correctWork c g reads

theorem State.begins_only (s : State) (c : Cmd) (g : Nat) (reads : List (Nat × Nat × Nat)) :
    Only [.badWords, .ctrs, .engines, .freeCount, .hostMem, .issue, .log, .mem, .msix, .pages, .regs, .softWords, .traceAt, .traceFill, .traceGap] s
      (s.begins c g reads) :=
  (State.correctWork_only _ c g reads).step (by decide) ((State.loadAhead_only _ c g).step (by decide)
    ((State.synth_only _ c).step (by decide) ((State.spendIssue_only _ g (g / 2)).step (by decide) ((s.starts_only c).mono (by decide)))))

theorem State.begins_sameRows (s : State) (c : Cmd) (g : Nat) (reads : List (Nat × Nat × Nat)) : s.SameRows (s.begins c g reads) :=
  .trans (.of_only (s.starts_only c) rfl) (.trans (.of_only (State.spendIssue_only _ g (g / 2)) rfl)
    (.trans (.of_only (State.synth_only _ c) rfl) (.trans (State.loadAhead_sameRows _ c g) (.of_only (State.correctWork_only _ c g reads) rfl))))

/-- With no tracing, no single-bit error anywhere and no bound frame, the beginning of an operation moves no byte. -/
theorem State.begins_quiet {s : State} {c : Cmd} (g : Nat) (reads : List (Nat × Nat × Nat)) (htrace : (s.reg .perf 0x40 0x080).testBit 31 = false)
    (hsoft : s.softWords = []) (hframe : ∀ x, s.stepOf c = some x → x.frame = none) : (s.begins c g reads).mem = s.mem := by
  have hstart : Only [.ctrs] s (s.starts c) := by
    have htr : s.trace c 2 0 0 = s := by simp only [State.trace, htrace, Bool.not_false, Bool.true_or, if_true]
    unfold State.starts
    rw [htr]
    exact s.ranFor_only _ _ c.job
  have hpaid : Only [.ctrs, .freeCount, .issue] s ((s.starts c).spendIssue g (g / 2)) :=
    (State.spendIssue_only _ g (g / 2)).step (by decide) (hstart.mono (by decide))
  have hsynth : ((s.starts c).spendIssue g (g / 2)).synth c = (s.starts c).spendIssue g (g / 2) := by
    have hstep : ((s.starts c).spendIssue g (g / 2)).stepOf c = s.stepOf c := by
      unfold State.stepOf
      exact congrArg (c.step.bind ·) (funext fun u => State.step?_congr (hpaid .steps rfl) u)
    unfold State.synth
    rw [hstep]
    cases hx : s.stepOf c with
    | none => rfl
    | some x => simp only [hframe x hx]
  have hloaded : Only [.ctrs, .engines, .freeCount, .issue] s ((((s.starts c).spendIssue g (g / 2)).synth c).loadAhead c g) := by
    rw [hsynth]
    exact (State.loadAhead_only _ c g).step (by decide) (hpaid.mono (by decide))
  unfold State.begins
  rw [State.correctWork_of_no_soft ((hloaded .softWords rfl).trans hsoft), hloaded .mem rfl]

theorem State.applyWork_mem (s : State) (c : Cmd) (g k : Nat) (w : Work) : (s.applyWork c g k w).mem = (s.putAll w.writes).mem := by
  have hpulse (e : Engine) (n : Nat) : ((s.putEngine g e).pulse .xp g 0x10 n (some c.job)).mem = s.mem :=
    State.pulse_only _ .xp g 0x10 n (some c.job) .mem rfl
  unfold State.applyWork
  dsimp only
  rw [State.addStats_only _ c g c.statsAt w.stats .mem rfl]
  exact State.putAll_mem_congr (hpulse _ _) _

/-- The rows of an engine after an operation: those that its work gives, put into those before. -/
theorem State.applyWork_row (s : State) (c : Cmd) (g k : Nat) (w : Work) (m r : Nat) :
    ((s.applyWork c g k w).engine g).row m r = ((s.engine g).putRows k w.rows).row m r := by
  have hput (n : Nat) : ((((s.putEngine g ((s.engine g).putRows k w.rows)).pulse .xp g 0x10 n (some c.job)).putAll w.writes).engine g) =
      (s.engine g).putRows k w.rows :=
    (State.engine_congr ((State.putAll_only _ w.writes .engines rfl).trans (State.pulse_only _ .xp g 0x10 n (some c.job) .engines rfl)) g).trans
      (State.putEngine_engine _ _ _)
  unfold State.applyWork
  dsimp only
  rw [State.addStats_sameRows _ c g c.statsAt w.stats g m r, hput]

theorem State.applyWork_row_other (s : State) (c : Cmd) {g h : Nat} (hne : h ≠ g) (k : Nat) (w : Work) (m r : Nat) :
    ((s.applyWork c g k w).engine h).row m r = (s.engine h).row m r := by
  have hput (n : Nat) : ((((s.putEngine g ((s.engine g).putRows k w.rows)).pulse .xp g 0x10 n (some c.job)).putAll w.writes).engine h) =
      s.engine h :=
    (State.engine_congr ((State.putAll_only _ w.writes .engines rfl).trans (State.pulse_only _ .xp g 0x10 n (some c.job) .engines rfl)) h).trans
      (State.putEngine_engine_other _ _ hne)
  unfold State.applyWork
  dsimp only
  rw [State.addStats_sameRows _ c g c.statsAt w.stats h m r, hput]

section
variable {s : State} {c : Cmd} {g k : Nat} {w : Work}

theorem State.runWork_fails {f : Status × Nat} (hf : lowestCause w.fails = some f) :
    s.runWork c g k w = (s.dropAhead c g).endCmd c.uid f.1 f.2 := by
  simp only [State.runWork, hf]

theorem State.runWork_poisoned_row (hf : lowestCause w.fails = none) (hp : (w.rowsRead.any fun r => ((s.engine g).row k r).poison) = true) :
    ∃ a, s.runWork c g k w = (((s.begins c g w.reads).faultCmd c.uid .ecc 0x31 a).irq .ne g 0b100).err .ne g 2 0 a := by
  obtain ⟨r, hr⟩ := Option.isSome_iff_exists.mp (List.find?_isSome.mpr (List.any_eq_true.mp hp))
  refine ⟨accAddr k r, ?_⟩
  simp only [State.runWork, hf, hr]
  rfl

theorem State.rows_sound (hp : (w.rowsRead.any fun r => ((s.engine g).row k r).poison) = false) :
    (w.rowsRead.find? fun r => ((s.engine g).row k r).poison) = none := by
  rw [List.find?_eq_none]
  intro r hr hpoison
  exact Bool.false_ne_true (hp.symm.trans (List.any_eq_true.mpr ⟨r, hr, hpoison⟩))

theorem State.runWork_meets_bad {b : Nat × Nat} (hf : lowestCause w.fails = none)
    (hp : (w.rowsRead.any fun r => ((s.engine g).row k r).poison) = false) (hb : s.badRead w.reads = some b) :
    s.runWork c g k w = (((s.begins c g w.reads).applyPart c g k w).faultCmd c.uid .ecc b.1 b.2).unitBad c g b.1 b.2 := by
  simp only [State.runWork, hf, State.rows_sound hp, hb]
  rfl

theorem State.runWork_done (hf : lowestCause w.fails = none) (hp : (w.rowsRead.any fun r => ((s.engine g).row k r).poison) = false)
    (hb : s.badRead w.reads = none) : s.runWork c g k w = ((s.begins c g w.reads).applyWork c g k w).endCmd c.uid .ok 0 := by
  simp only [State.runWork, hf, State.rows_sound hp, hb]
  rfl

end

/-! ### The seventeen operations (R94 to R100, R102, R103, R128, R140, R143, R147, R149, R153) -/

theorem State.engineOp_startable {s : State} {uid op g k : Nat} {c : Cmd} (h : s.startable uid op = some (c, g, k))
    (work : State → Cmd → Nat → Nat → Work) : s.engineOp uid op work =
      ((s.beforeRun (s.select g k) c g).getD ((s.select g k).runWork c g k
        { work s c g k with fails := s.commonFails c g ++ (work s c g k).fails })).track := by
  simp only [State.engineOp, h]

theorem State.engineOp_unranked {s : State} {uid op g : Nat} {c : Cmd} (hs : s.startable uid op = none) (h : s.unranked uid op = some (c, g))
    (work : State → Cmd → Nat → Nat → Work) : s.engineOp uid op work = (s.endUnranked c g (work s c g 0).fails).track := by
  simp only [State.engineOp, hs, h]

/-- The operations of one engine: the command, its OPCODE and its work. -/
def engineOps : List ((Nat → Instr) × Nat × (State → Cmd → Nat → Nat → Work)) :=
  [(Instr.neGemm, 0x1001, State.gemmWork), (.neAccClear, 0x1002, State.accClearWork), (.neAccDrain, 0x1003, State.accDrainWork),
    (.neAccStore, 0x1004, State.accStoreWork), (.neAccLoad, 0x1005, State.accLoadWork), (.veEwise, 0x2001, State.ewiseWork),
    (.veFunc, 0x2002, State.funcWork), (.veReduce, 0x2003, State.reduceWork), (.veKsel, 0x2004, State.kselWork),
    (.veDwconv, 0x2005, State.dwconvWork), (.veMerge, 0x2006, State.mergeWork), (.veOptim, 0x2007, State.optimWork),
    (.xpExpand, 0x3001, State.expandWork), (.xpS2c, 0x3002, State.s2cWork), (.xpC2s, 0x3003, State.c2sWork),
    (.xpUpsample, 0x3004, State.upsampleWork), (.xpCopy, 0x3005, State.xpCopyWork)]

theorem exec_engineOp {i : Nat → Instr} {op : Nat} {work : State → Cmd → Nat → Nat → Work} (h : (i, op, work) ∈ engineOps) (uid : Nat) (s : State) :
    exec (i uid) s = .next (s.engineOp uid op work) := by
  simp only [engineOps, List.mem_cons, Prod.mk.injEq, List.not_mem_nil, or_false] at h
  rcases h with ⟨rfl, rfl, rfl⟩ | ⟨rfl, rfl, rfl⟩ | ⟨rfl, rfl, rfl⟩ | ⟨rfl, rfl, rfl⟩ | ⟨rfl, rfl, rfl⟩ | ⟨rfl, rfl, rfl⟩ |
    ⟨rfl, rfl, rfl⟩ | ⟨rfl, rfl, rfl⟩ | ⟨rfl, rfl, rfl⟩ | ⟨rfl, rfl, rfl⟩ | ⟨rfl, rfl, rfl⟩ | ⟨rfl, rfl, rfl⟩ | ⟨rfl, rfl, rfl⟩ |
    ⟨rfl, rfl, rfl⟩ | ⟨rfl, rfl, rfl⟩ | ⟨rfl, rfl, rfl⟩ | ⟨rfl, rfl, rfl⟩ <;> rfl

section
variable {s : State} {uid op g k : Nat} {c : Cmd} {work : State → Cmd → Nat → Nat → Work}

/-- A command that ends before its operation begins. -/
theorem State.engineOp_ends (hs : s.startable uid op = some (c, g, k)) {st : Status} {cause : Nat} {t : State}
    (ht : Only [.engines] (s.select g k) t) (hop : s.engineOp uid op work = (t.endCmd c.uid st cause).track) :
    (s.engineOp uid op work).cmd? uid = some { c with place := .ended st cause } ∧
      (∀ v, v ≠ uid → (s.engineOp uid op work).cmd? v = s.cmd? v) ∧
      Only [.cmds, .ctrs, .engines, .hostMem, .msix, .now, .pages] s (s.engineOp uid op work) := by
  obtain ⟨hc, rfl, hu⟩ := State.startable_cmd hs
  have hcmd (v : Nat) : t.cmd? v = s.cmd? v := (State.cmd?_congr (ht .cmds rfl) v).trans (s.select_cmd? g k v)
  rw [hop]
  exact ⟨State.endCmd_ends ((hcmd c.uid).trans hc) hu st cause, fun v hv => (State.endCmd_cmd?_other t c.uid v st cause hv).trans (hcmd v),
    (State.track_only _).step (by decide) ((t.endCmd_only c.uid st cause).step (by decide) (ht.step (by decide)
      ((s.select_only g k).mono (by decide))))⟩

theorem State.engineOp_badDesc (hs : s.startable uid op = some (c, g, k)) (hw : s.waitPoisoned c = false) {a : Nat}
    (hd : s.badDesc c g = some a) :
    ∃ d, (s.engineOp uid op work).cmd? uid = some { c with place := .ended .ecc 0x30, fault := some d } ∧ d.addr = a ∧ d.commands = 1 ∧
      Only [.cmds, .ctrs, .engines, .hostMem, .msix, .now, .pages] s (s.engineOp uid op work) := by
  obtain ⟨hc, rfl, hu⟩ := State.startable_cmd hs
  have hends := State.endBadDesc_ends (g := g) (a := a) ((s.select_cmd? g k c.uid).trans hc) hu
  rw [State.engineOp_startable hs, State.beforeRun_badDesc hw hd, Option.getD_some]
  exact ⟨_, hends, rfl, rfl, (State.track_only _).step (by decide) ((State.endBadDesc_only _ c g a).step (by decide)
    ((s.select_only g k).mono (by decide)))⟩

theorem State.engineOp_fetches (hs : s.startable uid op = some (c, g, k)) (hw : s.waitPoisoned c = false) (hd : s.badDesc c g = none)
    (hl : s.landed c g = false) (hf : s.fetchFails c g = []) :
    ∃ d a, s.fetchDesc c g = some d ∧ s.addr c g d.dst d.length = some a ∧
      (s.engineOp uid op work).fetches = s.fetches ++ [⟨g, c.job, d.flag, d.gen, c.uid, d.src, a, d.length, s.hasMoved c⟩] ∧
      Only [.badWords, .ctrs, .engines, .fetches, .hostMem, .log, .mem, .msix, .now, .pages, .regs, .softWords] s (s.engineOp uid op work) := by
  obtain ⟨d, a, hdesc, haddr⟩ := State.fetchDesc_of_sound hl hf
  have hissue := State.issueFetch_fetches ((s.select_fetchDesc g k c g).trans hdesc) ((s.select_addr g k c g d.dst d.length).trans haddr)
  rw [s.select_hasMoved g k c, s.select_only g k .fetches rfl] at hissue
  rw [State.engineOp_startable hs, State.beforeRun_fetches hw hd hl hf, Option.getD_some]
  exact ⟨d, a, hdesc, haddr, hissue, (State.track_only _).step (by decide) ((State.issueFetch_only _ c g).step (by decide)
    ((s.select_only g k).mono (by decide)))⟩

end

/-- An operation that nothing keeps from running is its work with the common checks added, on the engine that has chosen its context. -/
theorem State.engineOp_runs {s : State} {uid op g k : Nat} {c : Cmd} (hs : s.startable uid op = some (c, g, k)) (hw : s.waitPoisoned c = false)
    (hd : s.badDesc c g = none)
    (h : (s.landed c g = true ∧ s.fetchPoisoned c g = false) ∨ (s.landed c g = false ∧ s.fetchFails c g ≠ []))
    (work : State → Cmd → Nat → Nat → Work) : s.engineOp uid op work =
      ((s.select g k).runWork c g k { work s c g k with fails := s.commonFails c g ++ (work s c g k).fails }).track := by
  rw [State.engineOp_startable hs, State.beforeRun_runs hw hd h, Option.getD_none]

section
variable {s : State} {c : Cmd} {g k : Nat} {w : Work} (hc : s.cmd? c.uid = some c) (hu : c.unstarted = true)
include hc hu

/-- The operation as it runs ends FAILED_ECC on a poisoned row. -/
theorem State.run_poisoned_row (hf : lowestCause w.fails = none) (hp : (w.rowsRead.any fun r => ((s.engine g).row k r).poison) = true) :
    ∃ d, (s.runWork c g k w).cmd? c.uid = some { c with place := .ended .ecc 0x31, fault := some d } ∧ s.SameRows (s.runWork c g k w) := by
  obtain ⟨a, ha⟩ := State.runWork_poisoned_row (c := c) hf hp
  have hbegins := s.begins_only c g w.reads
  have hends := State.faultCmd_ends ((State.cmd?_congr (hbegins .cmds rfl) c.uid).trans hc) hu .ecc 0x31 a
  have hnoted : Only [.hostMem, .msix, .pages] ((s.begins c g w.reads).faultCmd c.uid .ecc 0x31 a)
      ((((s.begins c g w.reads).faultCmd c.uid .ecc 0x31 a).irq .ne g 0b100).err .ne g 2 0 a) :=
    (State.err_only _ .ne g 2 0 a).step (by decide) ((State.irq_only _ .ne g 0b100).mono (by decide))
  rw [ha]
  exact ⟨_, (State.cmd?_congr (hnoted .cmds rfl) c.uid).trans hends, (s.begins_sameRows c g w.reads).trans
    (.trans (.of_only (State.faultCmd_only _ c.uid .ecc 0x31 a) rfl) (.of_only hnoted rfl))⟩

theorem State.run_meets_bad {b : Nat × Nat} (hf : lowestCause w.fails = none)
    (hp : (w.rowsRead.any fun r => ((s.engine g).row k r).poison) = false) (hb : s.badRead w.reads = some b) :
    ∃ d, (s.runWork c g k w).cmd? c.uid = some { c with place := .ended .ecc b.1, fault := some d } ∧ d.addr = b.2 := by
  have hpart : Only [.badWords, .ctrs, .engines, .freeCount, .hostMem, .issue, .log, .mem, .msix, .pages, .regs, .softWords, .traceAt, .traceFill,
      .traceGap] s ((s.begins c g w.reads).applyPart c g k w) := (State.applyPart_only _ c g k w).step (by decide) (s.begins_only c g w.reads)
  have hends := State.faultCmd_ends ((State.cmd?_congr (hpart .cmds rfl) c.uid).trans hc) hu .ecc b.1 b.2
  rw [State.runWork_meets_bad hf hp hb]
  exact ⟨_, (State.cmd?_congr (State.unitBad_only _ c g b.1 b.2 .cmds rfl) c.uid).trans hends, rfl⟩

/-- The operation as it runs to its end leaves the rows and the bytes that its work gives, and nothing else of other engines and commands. -/
theorem State.run_done (hf : lowestCause w.fails = none) (hp : (w.rowsRead.any fun r => ((s.engine g).row k r).poison) = false)
    (hb : s.badRead w.reads = none) :
    (s.runWork c g k w).cmd? c.uid = some { c with place := .ended .ok 0 } ∧ (∀ v, v ≠ c.uid → (s.runWork c g k w).cmd? v = s.cmd? v) ∧
      (∀ m r, ((s.runWork c g k w).engine g).row m r = ((s.engine g).putRows k w.rows).row m r) ∧
      (∀ h m r, h ≠ g → ((s.runWork c g k w).engine h).row m r = (s.engine h).row m r) ∧
      (s.runWork c g k w).mem = ((s.begins c g w.reads).putAll w.writes).mem := by
  have hbegins := s.begins_only c g w.reads
  have happly := State.applyWork_only (s.begins c g w.reads) c g k w
  have hcmd (v : Nat) : ((s.begins c g w.reads).applyWork c g k w).cmd? v = s.cmd? v :=
    State.cmd?_congr ((happly .cmds rfl).trans (hbegins .cmds rfl)) v
  have hrows := s.begins_sameRows c g w.reads
  rw [State.runWork_done hf hp hb]
  refine ⟨State.endCmd_ends ((hcmd c.uid).trans hc) hu .ok 0, fun v hv => (State.endCmd_cmd?_other _ c.uid v .ok 0 hv).trans (hcmd v),
    fun m r => ?_, fun h m r hh => ?_, State.applyWork_mem _ c g k w⟩
  · exact (State.applyWork_row _ c g k w m r).trans (Engine.putRows_row_congr k w.rows (hrows g) m r)
  · exact (State.applyWork_row_other _ c hh k w m r).trans (hrows h m r)

end

/-- Settles O26: `State.engineOp` is one function of the seventeen works, and its branches are the statement's clauses. -/
theorem engineOperationsComplete : Obligations.EngineOperationsComplete := by
  unfold Obligations.EngineOperationsComplete
  intro i op work hop s uid
  have hexec : exec (i uid) s = .next (s.engineOp uid op work) := exec_engineOp hop uid s
  refine ⟨fun c g k w hs hw => ?_, fun c g hs hun => ?_⟩
  · subst hw
    obtain ⟨hc, huid, hu⟩ := State.startable_cmd hs
    have hSc : (s.select g k).cmd? c.uid = some c := by rw [huid, s.select_cmd?, hc]
    have hsel := s.select_only g k
    have hpoison : ((work s c g k).rowsRead.any fun r => (((s.select g k).engine g).row k r).poison) =
        ((work s c g k).rowsRead.any fun r => ((s.engine g).row k r).poison) :=
      congrArg (List.any _) (funext fun r => by rw [s.select_sameRows g k g k r])
    refine ⟨fun hp hd => ?_, fun a hw hd => ?_, fun hw hd hl hf => ?_, fun hw hd hrun => ⟨fun f hf => ?_, fun hf hp => ?_, fun b hf hp hb => ?_,
      fun hf hp hb => ?_⟩⟩
    · have hstops : s.engineOp uid op work = ((s.select g k).endCmd c.uid .ecc 0).track := by
        rw [State.engineOp_startable hs, State.beforeRun_poisoned hp hd, Option.getD_some]
      obtain ⟨hend, -, honly⟩ := State.engineOp_ends hs (Only.refl _ _) hstops
      exact ⟨_, hexec, hend, honly⟩
    · obtain ⟨d, hd⟩ := State.engineOp_badDesc hs hw hd
      exact ⟨_, d, hexec, hd⟩
    · obtain ⟨d, a, hdesc, haddr, hrest⟩ := State.engineOp_fetches hs hw hd hl hf
      exact ⟨_, d, a, hdesc, haddr, hexec, hrest⟩
    · have hruns := (State.engineOp_runs hs hw hd hrun work).trans (congrArg State.track (State.runWork_fails hf))
      have hdrop := (s.select g k).dropAhead_only c g
      obtain ⟨hend, hother, honly⟩ := State.engineOp_ends hs hdrop hruns
      refine ⟨_, hexec, hend, hother, ?_, honly⟩
      rw [hruns]
      exact ((s.select_sameRows g k).trans ((s.select g k).dropAhead_sameRows c g)).trans
        (.trans (.of_only (State.endCmd_only _ c.uid f.1 f.2) rfl) (.track _))
    · obtain ⟨d, hend, hrows⟩ := State.run_poisoned_row hSc hu
        (w := { work s c g k with fails := s.commonFails c g ++ (work s c g k).fails }) hf (hpoison.trans hp)
      rw [hexec, State.engineOp_runs hs hw hd hrun work]
      exact ⟨_, d, rfl, huid ▸ hend, ((s.select_sameRows g k).trans hrows).trans (.track _)⟩
    · obtain ⟨d, hend, haddr⟩ := State.run_meets_bad hSc hu
        (w := { work s c g k with fails := s.commonFails c g ++ (work s c g k).fails }) hf (hpoison.trans hp)
        ((s.select_badRead g k _).trans hb)
      rw [hexec, State.engineOp_runs hs hw hd hrun work]
      exact ⟨_, d, rfl, huid ▸ hend, haddr⟩
    · obtain ⟨hend, hother, hrow, hrows, hmem⟩ := State.run_done hSc hu
        (w := { work s c g k with fails := s.commonFails c g ++ (work s c g k).fails }) hf (hpoison.trans hp)
        ((s.select_badRead g k _).trans hb)
      rw [hexec, State.engineOp_runs hs hw hd hrun work]
      refine ⟨_, rfl, huid ▸ hend, fun v hv => (hother v (huid ▸ hv)).trans (s.select_cmd? g k v), fun m r => ?_, fun h m r hh => ?_, hmem,
        fun htrace hsoft hframe => ?_, (State.track_only _).step (by decide) ((State.runWork_only _ c g k _).step (by decide)
          (hsel.mono (by decide)))⟩
      · exact (State.track_row _ g m r).trans ((hrow m r).trans (Engine.putRows_row_congr k _ (s.select_sameRows g k g) m r))
      · exact (State.track_row _ h m r).trans ((hrows h m r hh).trans (s.select_sameRows g k h m r))
      · refine hmem.trans (State.putAll_mem_congr ((State.begins_quiet g _ ?_ ?_ ?_).trans (hsel .mem rfl)) _)
        · rwa [State.reg_congr (hsel .regs rfl) (hsel .insole rfl) (hsel .part rfl)]
        · rw [hsel .softWords rfl, hsoft]
        · rwa [s.select_stepOf]
  · obtain ⟨hc, rfl, hu, hbad⟩ := State.unranked_cmd hun
    have hrun := State.engineOp_unranked hs hun work
    refine ⟨fun hw => ?_, fun hw => ?_⟩
    · rw [hexec, hrun, State.endUnranked, if_pos hw]
      exact ⟨_, rfl, State.endCmd_ends hc hu .ecc 0, (State.track_only _).step (by decide) ((s.endCmd_only c.uid .ecc 0).mono (by decide))⟩
    · obtain ⟨f, hf⟩ := lowestCause_isSome (l := s.commonFails c g ++ (work s c g 0).fails) (by simp [State.commonFails, hbad])
      rw [hexec, hrun, State.endUnranked, hw, if_neg Bool.false_ne_true]
      simp only [hf]
      exact ⟨_, f, rfl, rfl, State.endCmd_ends hc hu f.1 f.2,
        (State.track_only _).step (by decide) ((s.endCmd_only c.uid f.1 f.2).mono (by decide))⟩

end Sys2Proof.Machine
end

section
set_option Elab.async false
namespace Sys2Proof.Machine

/-! ### The pairwise tree (R307) -/

section
variable {α : Type} (op : α → α → α)

/-- A node of the next level: the sum of its two, or the one that is left alone. -/
def treeNode (x y : Option α) : Option α :=
  match x, y with
  | some a, some b => some (op a b)
  | a, _ => a

theorem treePass_length (xs : List α) : (treePass op xs).length = (xs.length + 1) / 2 := by
  induction xs using treePass.induct with
  | case1 a b rest ih =>
    simp only [treePass, List.length_cons, ih]
    omega
  | case2 xs hshort =>
    match xs, hshort with
    | [], _ => simp [treePass]
    | [_], _ => simp [treePass]
    | a :: b :: rest, h => exact absurd rfl (h a b rest)

theorem treePass_getElem? (xs : List α) (i : Nat) : (treePass op xs)[i]? = treeNode op xs[2 * i]? xs[2 * i + 1]? := by
  induction xs using treePass.induct generalizing i with
  | case1 a b rest ih =>
    cases i with
    | zero => rfl
    | succ i =>
      rw [treePass, List.getElem?_cons_succ, ih, Nat.mul_succ, List.getElem?_cons_succ, List.getElem?_cons_succ, List.getElem?_cons_succ,
        List.getElem?_cons_succ]
  | case2 xs hshort =>
    match xs, hshort with
    | [], _ => rfl
    | [a], _ => cases i <;> rfl
    | a :: b :: rest, h => exact absurd rfl (h a b rest)

theorem treeReduce_succ {xs : List α} (h : 2 ≤ xs.length) (n : Nat) : treeReduce op (n + 1) xs = treeReduce op n (treePass op xs) := by
  match xs, h with
  | a :: b :: rest, _ => rfl

/-- Fuel for every level is enough, and more does not matter. -/
theorem treeReduce_fuel (n : Nat) : ∀ {m : Nat} {xs : List α}, xs.length ≤ n → xs.length ≤ m → treeReduce op n xs = treeReduce op m xs := by
  induction n with
  | zero =>
    intro m xs hn _
    rw [List.length_eq_zero_iff.mp (Nat.le_zero.mp hn), treeReduce, treeReduce]
  | succ n ih =>
    intro m xs hn hm
    match xs, m with
    | [], _ => rw [treeReduce, treeReduce]
    | [a], _ => rw [treeReduce, treeReduce]
    | a :: b :: rest, m + 1 =>
      have hlen := treePass_length op (a :: b :: rest)
      rw [List.length_cons, List.length_cons] at hlen hn hm
      rw [treeReduce_succ op (by simp) n, treeReduce_succ op (by simp) m]
      exact ih (by omega) (by omega)

end

theorem canonical_singleton (a : List Nat) : canonical [a] = a := rfl

theorem canonical_level {xs : List (List Nat)} (h : 2 ≤ xs.length) : canonical xs = canonical (treePass addLeaves xs) := by
  have hlen := treePass_length addLeaves xs
  obtain ⟨n, hn⟩ : ∃ n, xs.length = n + 1 := ⟨xs.length - 1, by omega⟩
  unfold canonical
  rw [hn, treeReduce_succ addLeaves h n, treeReduce_fuel addLeaves n (by omega) le_rfl]

/-! ### Where a command's operands lie (R34, R88) -/

/-- An operand's place depends on the windows, the tile groups and its job's landing area. -/
theorem State.place_congr {s t : State} {c : Cmd} (hwin : t.windows = s.windows) (hgroups : t.groups = s.groups)
    (hland : (t.job c.job).land = (s.job c.job).land) (g a n : Nat) : t.place c g a n = s.place c g a n := by
  have hgroup : t.groupOf c = s.groupOf c := by
    unfold State.groupOf
    exact congrArg (fun f => if c.tiled then c.step.bind f else none) (funext fun u => State.group?_congr hgroups u c.tile)
  have hres (a n : Nat) : t.resolve g c.job a n = s.resolve g c.job a n := by
    unfold State.resolve State.window
    rw [hwin]
  unfold State.place State.addr Job.landBase Job.landEn
  simp only [hgroup, hres, hland]

theorem State.xreducePut_congr {s t : State} {c : Cmd} (hwin : t.windows = s.windows) (hgroups : t.groups = s.groups)
    (hland : (t.job c.job).land = (s.job c.job).land) (g : Nat) (v : List Nat) : t.xreducePut c g v = s.xreducePut c g v := by
  unfold State.xreducePut
  rw [State.place_congr hwin hgroups hland]

/-! ### A collective that every peer has joined (R306 to R309) -/

/-- R306: the peers have one COUNT and one DST format. -/
def peersAgree : List CollPeer → Bool
  | [] => true
  | p :: ps => ps.all fun q => q.count == p.count && q.dst == p.dst

theorem peersAgree_of_forall {ps : List CollPeer} {n f : Nat} (h : ∀ p ∈ ps, p.count = n ∧ p.dst = f) : peersAgree ps = true := by
  cases ps with
  | nil => rfl
  | cons p ps =>
    obtain ⟨hn, hf⟩ := h p List.mem_cons_self
    refine List.all_eq_true.mpr fun q hq => ?_
    obtain ⟨hqn, hqf⟩ := h q (List.mem_cons_of_mem p hq)
    simp [hn, hf, hqn, hqf]

theorem peersAgree_eq_false {ps : List CollPeer} (h : ∃ p ∈ ps, ∃ q ∈ ps, p.count ≠ q.count ∨ p.dst ≠ q.dst) : peersAgree ps = false := by
  obtain ⟨p, hp, q, hq, hne⟩ := h
  cases ps with
  | nil => cases hp
  | cons a as =>
    cases hagree : peersAgree (a :: as) with
    | false => rfl
    | true =>
      have hall : ∀ x ∈ a :: as, x.count = a.count ∧ x.dst = a.dst := fun x hx => by
        rcases List.mem_cons.mp hx with rfl | hx
        · exact ⟨rfl, rfl⟩
        · simpa using List.all_eq_true.mp hagree x hx
      obtain ⟨hpn, hpf⟩ := hall p hp
      obtain ⟨hqn, hqf⟩ := hall q hq
      rcases hne with hne | hne
      · exact absurd (hpn.trans hqn.symm) hne
      · exact absurd (hpf.trans hqf.symm) hne

namespace Coll

theorem settle_eq (x : Coll) (placed : Bool) : x.settle placed =
    if !leavesSound (x.joined.flatMap (·.leaves)) || !peersAgree x.joined then { x with fail := some (.badOperand, 0x02) }
    else if placed && x.joined.all (·.placed) then { x with sum := some (placement x.joined), placed := true }
    else { x with sum := some (canonical ((List.range (x.joined.flatMap (·.leaves)).length).map (leafAt (x.joined.flatMap (·.leaves))))) } := by
  unfold Coll.settle
  cases h : x.joined <;> rfl

theorem settle_joined (x : Coll) (placed : Bool) : (x.settle placed).joined = x.joined := by
  rw [settle_eq]
  split
  · rfl
  · split <;> rfl

theorem settle_unsound {x : Coll} (placed : Bool)
    (h : leavesSound (x.joined.flatMap (·.leaves)) = false ∨ peersAgree x.joined = false) :
    x.settle placed = { x with fail := some (.badOperand, 0x02) } := by
  rw [settle_eq, if_pos]
  rcases h with h | h <;> simp [h]

theorem settle_placed {x : Coll} (hsound : leavesSound (x.joined.flatMap (·.leaves)) = true) (hagree : peersAgree x.joined = true)
    (h : (x.joined.all (·.placed)) = true) : x.settle true = { x with sum := some (placement x.joined), placed := true } := by
  rw [settle_eq, if_neg (by simp [hsound, hagree]), if_pos (by rw [h]; rfl)]

theorem settle_canonical {x : Coll} {placed : Bool} (hsound : leavesSound (x.joined.flatMap (·.leaves)) = true)
    (hagree : peersAgree x.joined = true) (h : (placed && x.joined.all (·.placed)) = false) : x.settle placed =
      { x with sum := some (canonical ((List.range (x.joined.flatMap (·.leaves)).length).map (leafAt (x.joined.flatMap (·.leaves))))) } := by
  rw [settle_eq, if_neg (by simp [hsound, hagree]), if_neg (by rw [h]; exact Bool.false_ne_true)]

end Coll

/-! ### A command whose collective is settled (R306, R309, R437) -/

/-- R309: the mark of a command, and of its job, whose sum took the placement order. -/
def State.markPlaced (s : State) (c : Cmd) (placed : Bool) : State :=
  if placed then (s.putCmd { c with progress := 2 }).putJob c.job { s.job c.job with placed := true } else s

theorem State.markPlaced_only (s : State) (c : Cmd) (placed : Bool) : Only [.cmds, .jobs] s (s.markPlaced c placed) := by
  unfold State.markPlaced
  split
  · exact (State.putJob_only _ _ _).step (by decide) ((s.putCmd_only _).mono (by decide))
  · exact Only.refl _ _

theorem State.markPlaced_land (s : State) (c : Cmd) (placed : Bool) : ((s.markPlaced c placed).job c.job).land = (s.job c.job).land := by
  unfold State.markPlaced
  split
  · rw [State.putJob_job]
  · rfl

theorem State.markPlaced_cmd? {s : State} {c d : Cmd} (hc : s.cmd? c.uid = some d) (placed : Bool) :
    (s.markPlaced c placed).cmd? c.uid = some (if placed then { c with progress := 2 } else d) := by
  unfold State.markPlaced
  split
  · exact State.putCmd_cmd? s { c with progress := 2 } (by rw [show s.cmd? c.uid = some d from hc]; rfl)
  · exact hc

theorem State.markPlaced_cmd?_other (s : State) {c : Cmd} {v : Nat} (hv : v ≠ c.uid) (placed : Bool) :
    (s.markPlaced c placed).cmd? v = s.cmd? v := by
  unfold State.markPlaced
  split
  · exact State.putCmd_cmd?_other s { c with progress := 2 } v hv
  · rfl

theorem State.finishColl_fail {x : Coll} {f : Status × Nat} (h : x.fail = some f) (s : State) (c : Cmd) (g k : Nat) :
    s.finishColl c g k x = (s.collOver x g (s.collPeers c).length).endCmd c.uid f.1 f.2 := by
  simp only [State.finishColl, h]

theorem State.finishColl_sum {x : Coll} {v : List Nat} (hf : x.fail = none) (hs : x.sum = some v) (s : State) (c : Cmd) (g k : Nat) :
    s.finishColl c g k x =
      (((((s.collOver x g (s.collPeers c).length).markPlaced c x.placed).applyWork c g k
        (((s.collOver x g (s.collPeers c).length).markPlaced c x.placed).xreducePut c g v))).bump .ve g 0x04C 1).endCmd c.uid .ok 0 := by
  simp only [State.finishColl, hf, hs]
  rfl

/-- The end of a command whose collective has its sum. -/
theorem State.finishColl_ok {s : State} {c d : Cmd} {x : Coll} {v : List Nat} (hf : x.fail = none) (hs : x.sum = some v)
    (hd : s.cmd? c.uid = some d) (hcu : c.unstarted = true) (hdu : d.unstarted = true) (g k : Nat) :
    (s.finishColl c g k x).cmd? c.uid = some { (if x.placed then { c with progress := 2 } else d) with place := .ended .ok 0 } ∧
      (∀ u, u ≠ c.uid → (s.finishColl c g k x).cmd? u = s.cmd? u) ∧
      (s.finishColl c g k x).mem = (s.putAll (s.xreducePut c g v).writes).mem ∧ s.SameRows (s.finishColl c g k x) ∧
      (s.finishColl c g k x).reg .ve g 0x04C = min (s.reg .ve g 0x04C + 1) (2 ^ 32 - 1) ∧
      (x.placed = true → ((s.finishColl c g k x).job c.job).placed = true) ∧ (x.placed = false → (s.finishColl c g k x).jobs = s.jobs) := by
  have hover := s.collOver_only x g (s.collPeers c).length
  generalize hs1 : s.collOver x g (s.collPeers c).length = s1 at hover
  have hmark := s1.markPlaced_only c x.placed
  have hput : (s1.markPlaced c x.placed).xreducePut c g v = s.xreducePut c g v :=
    State.xreducePut_congr ((hmark .windows rfl).trans (hover .windows rfl)) ((hmark .groups rfl).trans (hover .groups rfl))
      ((s1.markPlaced_land c x.placed).trans (congrArg Job.land (State.job_congr (hover .jobs rfl) c.job))) g v
  have hcmd (u : Nat) : s1.cmd? u = s.cmd? u := State.cmd?_congr (hover .cmds rfl) u
  have hmarked := State.markPlaced_cmd? ((hcmd c.uid).trans hd) x.placed
  have happly := (s1.markPlaced c x.placed).applyWork_only c g k (s.xreducePut c g v)
  rw [State.finishColl_sum hf hs, hs1, hput]
  refine ⟨?_, fun u hu => ?_, ?_, ?_, ?_, fun hp => ?_, fun hp => ?_⟩
  · refine State.endCmd_ends ((State.cmd?_congr (happly .cmds rfl) c.uid).trans hmarked) ?_ .ok 0
    split
    · exact hcu
    · exact hdu
  · exact (State.endCmd_cmd?_other _ c.uid u .ok 0 hu).trans ((State.cmd?_congr (happly .cmds rfl) u).trans
      ((s1.markPlaced_cmd?_other hu x.placed).trans (hcmd u)))
  · exact ((s1.markPlaced c x.placed).applyWork_mem c g k _).trans
      (State.putAll_mem_congr ((hmark .mem rfl).trans (hover .mem rfl)) _)
  · refine .trans (.of_only hover rfl) (.trans (.of_only hmark rfl) (.trans ?_ (.of_engines rfl)))
    intro h m r
    by_cases hh : h = g
    · rw [hh]
      exact State.applyWork_row _ c g k _ m r
    · exact State.applyWork_row_other _ c hh k _ m r
  · refine (State.reg_bump _ .ve g 0x04C 1).trans ?_
    rw [State.reg_congr ((happly .regs rfl).trans ((hmark .regs rfl).trans (hover .regs rfl)))
      ((happly .insole rfl).trans ((hmark .insole rfl).trans (hover .insole rfl)))
      ((happly .part rfl).trans ((hmark .part rfl).trans (hover .part rfl)))]
  · refine (congrArg Job.placed (State.job_congr (happly .jobs rfl) c.job)).trans ?_
    rw [hp, State.markPlaced, if_pos rfl, State.putJob_job]
  · refine (happly .jobs rfl).trans ?_
    rw [hp]
    exact hover .jobs rfl

/-! ### A command joins its collective (R306) -/

/-- R306: a peer of the collective is the command `uid`. -/
def Coll.has (uid : Nat) (x : Coll) : Bool := x.joined.any fun p => p.uid == uid

/-- The part of a command in its collective. -/
def State.peerOf (s : State) (c : Cmd) (g : Nat) : CollPeer :=
  ⟨g, c.uid, c.veCount, c.fmtField 36, c.num 57 1 == 1 && c.vFlag, s.leavesOf c g⟩

/-- The collective of a command with its part in it. -/
def State.collWith (s : State) (c : Cmd) (g : Nat) : Coll :=
  let x := (s.collFor c g (s.collMask c)).getD ⟨c.job, s.collMask c, [], [], none, none, false⟩
  { x with joined := x.joined ++ [s.peerOf c g] }

/-- Every peer that a command names has joined a collective. -/
def State.allJoined (s : State) (c : Cmd) (x : Coll) : Bool := (s.collPeers c).all fun e => x.joined.any fun q => q.engine == e

/-- The collective that a command leaves when it joins. -/
def State.collNext (s : State) (c : Cmd) (g : Nat) : Coll :=
  if (s.collWith c g).fail.isNone && s.allJoined c (s.collWith c g) then
    (s.collWith c g).settle (s.variant == .h8a && !(s.job c.job).repro)
  else s.collWith c g

theorem State.collWith_has (s : State) (c : Cmd) (g : Nat) : (s.collWith c g).has c.uid = true := by
  simp [Coll.has, State.collWith, State.peerOf]

theorem State.collNext_has (s : State) (c : Cmd) (g : Nat) : (s.collNext c g).has c.uid = true := by
  unfold State.collNext
  split
  · rw [Coll.has, Coll.settle_joined]
    exact s.collWith_has c g
  · exact s.collWith_has c g

theorem State.joinColl_colls (s : State) (c : Cmd) (g : Nat) : ∃ l, l ⊆ s.colls ∧ (s.joinColl c g).colls = l ++ [s.collNext c g] := by
  cases h : s.collFor c g (s.collMask c) with
  | none =>
    refine ⟨s.colls, List.Subset.refl _, ?_⟩
    simp only [State.joinColl, State.collNext, State.collWith, State.allJoined, State.peerOf, h]
  | some o =>
    refine ⟨s.colls.filter fun z => z != o, List.filter_sublist.subset, ?_⟩
    simp only [State.joinColl, State.collNext, State.collWith, State.allJoined, State.peerOf, h]

/-- A command that no collective had is found in the one that it has joined. -/
theorem State.joinColl_find? {s : State} {c : Cmd} (g : Nat) (h : s.colls.find? (fun x => x.joined.any fun p => p.uid == c.uid) = none) :
    (s.joinColl c g).colls.find? (fun x => x.joined.any fun p => p.uid == c.uid) = some (s.collNext c g) := by
  obtain ⟨l, hl, hcolls⟩ := s.joinColl_colls c g
  have hnone : l.find? (fun x => x.joined.any fun p => p.uid == c.uid) = none :=
    List.find?_eq_none.mpr fun x hx => List.find?_eq_none.mp h x (hl hx)
  rw [hcolls, List.find?_append, hnone, Option.none_or]
  exact List.find?_cons_of_pos (s.collNext_has c g)

theorem State.joinColl_cmd? {s : State} {c : Cmd} (hc : s.cmd? c.uid = some c) (g : Nat) :
    (s.joinColl c g).cmd? c.uid = some { c with progress := 1 } := by
  have hedge := s.edge_only .ve g 0x21 (s.engineRuns g) (some c.job)
  exact State.putCmd_cmd? _ { c with progress := 1 } (by rw [State.cmd?_congr (hedge .cmds rfl), show s.cmd? c.uid = some c from hc]; rfl)

/-! ### The branches of the operation -/

section
variable {s : State} {c : Cmd} {g k : Nat}

theorem State.xreduceRun_joined {x : Coll} (hx : s.colls.find? (fun y => y.joined.any fun p => p.uid == c.uid) = some x)
    (h : (x.fail.isSome || x.sum.isSome) = true) : s.xreduceRun c g k = s.finishColl c g k x := by
  simp only [State.xreduceRun, hx, h, if_true]

theorem State.xreduceRun_fails {f : Status × Nat} (hx : s.colls.find? (fun y => y.joined.any fun p => p.uid == c.uid) = none)
    (hf : lowestCause (s.commonFails c g ++ s.xreduceFails c g) = some f) : s.xreduceRun c g k = s.endCmd c.uid f.1 f.2 := by
  simp only [State.xreduceRun, hx, hf]

theorem State.xreduceRun_lost (hx : s.colls.find? (fun y => y.joined.any fun p => p.uid == c.uid) = none)
    (hf : lowestCause (s.commonFails c g ++ s.xreduceFails c g) = none)
    (hlost : ((s.collPeers c).any fun e => !s.dieUsable (e / 2)) = true) : s.xreduceRun c g k = s.endCmd c.uid .dieLost 0 := by
  simp only [State.xreduceRun, hx, hf, hlost, if_true]

/-- A command that joins goes on with the collective that it leaves. -/
theorem State.xreduceRun_joins (hx : s.colls.find? (fun y => y.joined.any fun p => p.uid == c.uid) = none)
    (hf : lowestCause (s.commonFails c g ++ s.xreduceFails c g) = none)
    (hlost : ((s.collPeers c).any fun e => !s.dieUsable (e / 2)) = false) (hbad : s.badRead (s.leafReads c g) = none) {S : State}
    (hS : S = ((s.starts c).spendIssue g (g / 2)).correctWork c g (s.leafReads c g)) (hcolls : S.colls = s.colls) :
    s.xreduceRun c g k =
      if (S.collNext c g).fail.isSome || (S.collNext c g).sum.isSome then (S.joinColl c g).finishColl c g k (S.collNext c g)
      else S.joinColl c g := by
  have hfind := State.joinColl_find? (s := S) g (by rw [hcolls]; exact hx)
  subst hS
  simp only [State.xreduceRun, hx, hf, hlost, hbad, hfind, Bool.false_eq_true, if_false]

end

end Sys2Proof.Machine
end

section
set_option Elab.async false
namespace Sys2Proof.Machine

/-! ### VE_XREDUCE as its engine starts it (R38, R90, R101) -/

theorem State.select_veFails (s : State) (g k : Nat) (c : Cmd) :
    (s.select g k).commonFails c g ++ (s.select g k).xreduceFails c g = s.commonFails c g ++ s.xreduceFails c g := by
  obtain ⟨_, _, _, _, _, _, h⟩ := s.select_eq g k
  rw [h]
  rfl

theorem State.select_lostPeer (s : State) (g k : Nat) (c : Cmd) :
    ((s.select g k).collPeers c).any (fun e => !(s.select g k).dieUsable (e / 2)) = (s.collPeers c).any fun e => !s.dieUsable (e / 2) := by
  obtain ⟨_, _, _, _, _, _, h⟩ := s.select_eq g k
  rw [h]
  rfl

theorem State.select_leafReads (s : State) (g k : Nat) (c : Cmd) : (s.select g k).leafReads c g = s.leafReads c g := by
  obtain ⟨_, _, _, _, _, _, h⟩ := s.select_eq g k
  rw [h]
  rfl

theorem State.select_xreducePut (s : State) (g k : Nat) (c : Cmd) (v : List Nat) : (s.select g k).xreducePut c g v = s.xreducePut c g v := by
  obtain ⟨_, _, _, _, _, _, h⟩ := s.select_eq g k
  rw [h]
  rfl

/-! ### The collective that a command finds (R306) -/

theorem State.collPeers_congr {s t : State} (h : t.part = s.part) (c : Cmd) : t.collPeers c = s.collPeers c := by
  unfold State.collPeers State.variant
  rw [h]

theorem State.collFor_congr {s t : State} (hp : t.part = s.part) (hc : t.colls = s.colls) (c : Cmd) (g : Nat) :
    t.collFor c g (t.collMask c) = s.collFor c g (s.collMask c) := by
  unfold State.collFor State.collMask
  rw [hc, State.collPeers_congr hp]

/-- A collective that a command joins is its job's, and the command comes last. -/
theorem State.collWith_fields (s : State) (c : Cmd) (g : Nat) : (s.collWith c g).job = c.job ∧
    (s.collWith c g).joined = (s.collFor c g (s.collMask c)).elim [] Coll.joined ++ [s.peerOf c g] := by
  unfold State.collWith
  cases h : s.collFor c g (s.collMask c) with
  | none => exact ⟨rfl, rfl⟩
  | some x =>
    have hx := List.find?_some h
    simp only [Bool.and_eq_true, beq_iff_eq] at hx
    exact ⟨hx.1.1.1, rfl⟩

theorem State.collWith_open {s : State} {c : Cmd} {g : Nat}
    (h : ∀ x, s.collFor c g (s.collMask c) = some x → x.fail = none ∧ x.sum = none ∧ x.placed = false) :
    (s.collWith c g).fail = none ∧ (s.collWith c g).sum = none ∧ (s.collWith c g).placed = false := by
  unfold State.collWith
  cases hx : s.collFor c g (s.collMask c) with
  | none => exact ⟨rfl, rfl, rfl⟩
  | some x => exact h x hx

theorem State.allJoined_iff (s : State) (c : Cmd) (x : Coll) :
    s.allJoined c x = true ↔ ∀ e ∈ s.collPeers c, ∃ p ∈ x.joined, p.engine = e := by
  simp [State.allJoined]

theorem State.collNext_waits {s : State} {c : Cmd} {g : Nat} (h : ∃ e ∈ s.collPeers c, ∀ p ∈ (s.collWith c g).joined, p.engine ≠ e) : s.collNext c g = s.collWith c g := by
  obtain ⟨e, he, hp⟩ := h
  refine if_neg fun hall => ?_
  obtain ⟨p, hpj, hpe⟩ := (s.allJoined_iff c _).mp (Bool.and_eq_true_iff.mp hall).2 e he
  exact hp p hpj hpe

theorem State.collNext_settles {s : State} {c : Cmd} {g : Nat} (hfail : (s.collWith c g).fail = none)
    (h : ∀ e ∈ s.collPeers c, ∃ p ∈ (s.collWith c g).joined, p.engine = e) :
    s.collNext c g = (s.collWith c g).settle (s.variant == .h8a && !(s.job c.job).repro) :=
  if_pos (by rw [hfail, (s.allJoined_iff c _).mpr h]; rfl)

/-! ### VE_XREDUCE that begins (R283, R306) -/

/-- The state in which a VE_XREDUCE has passed its checks: traced, paid for and the single-bit errors of its leaves corrected. -/
def State.reduceBegins (s : State) (c : Cmd) (g : Nat) : State :=
  ((s.starts c).spendIssue g (g / 2)).correctWork c g (s.leafReads c g)

theorem State.reduceBegins_only (s : State) (c : Cmd) (g : Nat) :
    Only [.badWords, .ctrs, .freeCount, .hostMem, .issue, .log, .mem, .msix, .pages, .regs, .softWords, .traceAt, .traceFill, .traceGap] s
      (s.reduceBegins c g) :=
  (State.correctWork_only _ c g _).step (by decide) ((State.spendIssue_only _ g (g / 2)).step (by decide) ((s.starts_only c).mono (by decide)))

section
variable {s : State} {uid g k : Nat} {c : Cmd} (hs : s.startable uid 0x2008 = some (c, g, k))
include hs

/-- A command that has joined is not held up by its fetch. -/
theorem State.xreduce_joined (hw : s.waitPoisoned c = false) {x : Coll}
    (hx : s.colls.find? (fun y => y.joined.any fun p => p.uid == uid) = some x) :
    s.xreduce uid = ((s.select g k).xreduceRun c g k).track := by
  obtain ⟨-, rfl, -⟩ := State.startable_cmd hs
  have hhas := List.find?_some hx
  have hjoined : (s.colls.any fun x => x.joined.any fun p => p.uid == c.uid) = true :=
    List.any_eq_true.mpr ⟨x, List.mem_of_find?_eq_some hx, hhas⟩
  simp only [State.xreduce, hs, hjoined, hw, Bool.not_false, Bool.and_self, if_true, Option.getD_none]

/-- One that has not may end, or fetch, before it runs. -/
theorem State.xreduce_fresh (hx : s.colls.find? (fun y => y.joined.any fun p => p.uid == uid) = none) :
    s.xreduce uid = ((s.beforeRun (s.select g k) c g).getD ((s.select g k).xreduceRun c g k)).track := by
  obtain ⟨-, rfl, -⟩ := State.startable_cmd hs
  have hjoined : (s.colls.any fun x => x.joined.any fun p => p.uid == c.uid) = false :=
    List.any_eq_false.mpr (List.find?_eq_none.mp hx)
  simp only [State.xreduce, hs, hjoined, Bool.false_and, Bool.false_eq_true, if_false]

/-- A command that ends without its work. -/
theorem State.xreduce_ends {t : State} (ht : t.cmds = s.cmds) {st : Status} {cause : Nat}
    (hrun : s.xreduce uid = (t.endCmd c.uid st cause).track) :
    (s.xreduce uid).cmd? uid = some { c with place := .ended st cause } ∧ ∀ u, u ≠ uid → (s.xreduce uid).cmd? u = s.cmd? u := by
  obtain ⟨hc, rfl, hu⟩ := State.startable_cmd hs
  rw [hrun]
  exact ⟨State.endCmd_ends ((State.cmd?_congr ht c.uid).trans hc) hu st cause,
    fun u hne => (State.endCmd_cmd?_other t c.uid u st cause hne).trans (State.cmd?_congr ht u)⟩

end

/-- A command that runs and whose collective nobody knows yet. -/
structure State.Joins (s : State) (uid g k : Nat) (c : Cmd) : Prop where
  starts : s.startable uid 0x2008 = some (c, g, k)
  wait : s.waitPoisoned c = false
  landed : s.landed c g = true
  fresh : s.colls.find? (fun y => y.joined.any fun p => p.uid == uid) = none
  desc : s.badDesc c g = none
  flag : s.fetchPoisoned c g = false

section
variable {s : State} {uid g k : Nat} {c : Cmd} (hj : s.Joins uid g k c)
include hj

theorem State.Joins.cmd : s.cmd? c.uid = some c ∧ c.uid = uid ∧ c.unstarted = true := by
  obtain ⟨hc, rfl, hu⟩ := State.startable_cmd hj.starts
  exact ⟨hc, rfl, hu⟩

theorem State.Joins.runs : s.xreduce uid = ((s.select g k).xreduceRun c g k).track := by
  rw [State.xreduce_fresh hj.starts hj.fresh, State.beforeRun_runs hj.wait hj.desc (.inl ⟨hj.landed, hj.flag⟩), Option.getD_none]

theorem State.Joins.unknown : (s.select g k).colls.find? (fun y => y.joined.any fun p => p.uid == c.uid) = none := by
  rw [s.select_only g k .colls rfl, hj.cmd.2.1]
  exact hj.fresh

/-- The command as it runs, when its checks pass. -/
theorem State.Joins.joins (hf : lowestCause (s.commonFails c g ++ s.xreduceFails c g) = none)
    (hlive : ∀ e ∈ s.collPeers c, s.dieUsable (e / 2) = true) (hbad : s.badRead (s.leafReads c g) = none) {S : State}
    (hS : S = (s.select g k).reduceBegins c g) :
    s.xreduce uid = (if (S.collNext c g).fail.isSome || (S.collNext c g).sum.isSome then (S.joinColl c g).finishColl c g k (S.collNext c g)
      else S.joinColl c g).track := by
  have hlost : (s.collPeers c).any (fun e => !s.dieUsable (e / 2)) = false := List.any_eq_false.mpr fun e he => by simp [hlive e he]
  rw [hj.runs, State.xreduceRun_joins hj.unknown ((s.select_veFails g k c).symm ▸ hf) ((s.select_lostPeer g k c).trans hlost)
    ((s.select_leafReads g k c).symm ▸ (s.select_badRead g k _).trans hbad) hS (by rw [hS]; exact State.reduceBegins_only _ c g .colls rfl)]

end

end Sys2Proof.Machine
end

section
set_option Elab.async false
namespace Sys2Proof.Machine

/-! ### The command that joins, and what becomes of it (R306 to R309) -/

section
variable {s : State} {uid g k : Nat} {c : Cmd} (hj : s.Joins uid g k c)
include hj

theorem State.Joins.begins_cmd? : ((s.select g k).reduceBegins c g).cmd? c.uid = some c :=
  (State.cmd?_congr (State.reduceBegins_only _ c g .cmds rfl) c.uid).trans ((s.select_cmd? g k c.uid).trans hj.cmd.1)

end

theorem State.selectBegins_only (s : State) (c : Cmd) (g k : Nat) :
    Only [.badWords, .ctrs, .engines, .freeCount, .hostMem, .issue, .log, .mem, .msix, .now, .pages, .regs, .softWords, .traceAt, .traceFill,
      .traceGap] s ((s.select g k).reduceBegins c g) :=
  (State.reduceBegins_only _ c g).step (by decide) ((s.select_only g k).mono (by decide))

/-- With the last peer the collective is settled. -/
theorem State.selectBegins_settles {s S : State} {c : Cmd} {g k : Nat} (hS : S = (s.select g k).reduceBegins c g)
    (hopen : ∀ x, s.collFor c g (s.collMask c) = some x → x.fail = none ∧ x.sum = none ∧ x.placed = false)
    (hall : ∀ e ∈ s.collPeers c, ∃ p ∈ (S.collWith c g).joined, p.engine = e) :
    S.collNext c g = (S.collWith c g).settle (s.variant == .h8a && !(s.job c.job).repro) ∧
      (S.collWith c g).fail = none ∧ (S.collWith c g).placed = false := by
  have hSonly := hS ▸ s.selectBegins_only c g k
  obtain ⟨hxf, -, hxp⟩ := State.collWith_open (s := S) (c := c) (g := g)
    ((State.collFor_congr (hSonly .part rfl) (hSonly .colls rfl) c g).symm ▸ hopen)
  have hset := State.collNext_settles hxf ((State.collPeers_congr (hSonly .part rfl) c).symm ▸ hall)
  rw [State.variant, hSonly .part rfl, State.job_congr (hSonly .jobs rfl)] at hset
  exact ⟨hset, hxf, hxp⟩

section
variable {s : State} {uid g k : Nat} {c : Cmd} (hj : s.Joins uid g k c) (hf : lowestCause (s.commonFails c g ++ s.xreduceFails c g) = none)
  (hlive : ∀ e ∈ s.collPeers c, s.dieUsable (e / 2) = true) (hbad : s.badRead (s.leafReads c g) = none)
  (hopen : ∀ x, s.collFor c g (s.collMask c) = some x → x.fail = none ∧ x.sum = none ∧ x.placed = false)
  {S : State} (hS : S = (s.select g k).reduceBegins c g)
include hj hf hlive hbad hopen hS

/-- A peer that has not joined yet is waited for. -/
theorem State.Joins.waits (h : ∃ e ∈ s.collPeers c, ∀ p ∈ (S.collWith c g).joined, p.engine ≠ e) :
    (s.xreduce uid).cmd? uid = some { c with progress := 1 } ∧
      (∃ x ∈ (s.xreduce uid).colls, x.job = c.job ∧ x.joined = (S.collWith c g).joined ∧ x.sum = none ∧ x.fail = none) ∧
      Only [.badWords, .cmds, .colls, .ctrs, .engines, .freeCount, .hostMem, .issue, .log, .mem, .msix, .now, .pages, .regs, .softWords, .traceAt,
        .traceFill, .traceGap] s (s.xreduce uid) := by
  obtain ⟨hc, rfl, hu⟩ := hj.cmd
  have hSonly : Only [.badWords, .ctrs, .engines, .freeCount, .hostMem, .issue, .log, .mem, .msix, .now, .pages, .regs, .softWords, .traceAt,
      .traceFill, .traceGap] s S := hS ▸ s.selectBegins_only c g k
  obtain ⟨hxf, hxs, -⟩ := State.collWith_open (s := S) (c := c) (g := g)
    ((State.collFor_congr (hSonly .part rfl) (hSonly .colls rfl) c g).symm ▸ hopen)
  have hnext : S.collNext c g = S.collWith c g := State.collNext_waits ((State.collPeers_congr (hSonly .part rfl) c).symm ▸ h)
  have hrun : s.xreduce c.uid = (S.joinColl c g).track := by
    rw [hj.joins hf hlive hbad hS, hnext, hxf, hxs]
    rfl
  obtain ⟨l, -, hl⟩ := S.joinColl_colls c g
  rw [hrun]
  refine ⟨State.joinColl_cmd? (hS ▸ hj.begins_cmd?) g, ⟨S.collWith c g, ?_, (S.collWith_fields c g).1, rfl, hxs, hxf⟩,
    (State.track_only _).step (by decide) ((S.joinColl_only c g).step (by decide) (hSonly.mono (by decide)))⟩
  rw [State.track_colls, hl, hnext]
  exact List.mem_append_right l List.mem_cons_self

omit hopen in
/-- A sound collective ends its last command OK, with the sum written. -/
theorem State.Joins.sums {v : List Nat} (hfail : (S.collNext c g).fail = none) (hsum : (S.collNext c g).sum = some v) :
    ∃ d, (s.xreduce uid).cmd? uid = some d ∧ d.place = .ended .ok 0 ∧ d.pkt = c.pkt ∧
      (s.xreduce uid).mem = (S.putAll (s.xreducePut c g v).writes).mem ∧
      ((S.collNext c g).placed = true → ((s.xreduce uid).job c.job).placed = true) ∧
      ((S.collNext c g).placed = false → (s.xreduce uid).jobs = s.jobs) := by
  obtain ⟨hc, rfl, hu⟩ := hj.cmd
  have hSonly := hS ▸ s.selectBegins_only c g k
  have hjoin := S.joinColl_only c g
  obtain ⟨hend, -, hmem, -, -, hplaced, hjobs⟩ := State.finishColl_ok (g := g) (k := k) hfail hsum
    (State.joinColl_cmd? (hS ▸ hj.begins_cmd?) g) hu (show Cmd.unstarted { c with progress := 1 } = true from hu)
  have hput : (S.joinColl c g).xreducePut c g v = s.xreducePut c g v :=
    State.xreducePut_congr ((hjoin .windows rfl).trans (hSonly .windows rfl)) ((hjoin .groups rfl).trans (hSonly .groups rfl))
      (congrArg Job.land (State.job_congr ((hjoin .jobs rfl).trans (hSonly .jobs rfl)) c.job)) g v
  rw [hj.joins hf hlive hbad hS, if_pos (by rw [hsum, Option.isSome_some, Bool.or_true])]
  refine ⟨_, hend, rfl, by dsimp only; split <;> rfl, ?_, hplaced, fun hp => (hjobs hp).trans ((hjoin .jobs rfl).trans (hSonly .jobs rfl))⟩
  rw [← hput]
  exact hmem.trans (State.putAll_mem_congr (hjoin .mem rfl) _)

section
variable (hall : ∀ e ∈ s.collPeers c, ∃ p ∈ (S.collWith c g).joined, p.engine = e)
include hall

/-- A collective of unsound leaves, or of commands that do not agree, fails. -/
theorem State.Joins.unsound (h : leavesSound ((S.collWith c g).joined.flatMap (·.leaves)) = false ∨ peersAgree (S.collWith c g).joined = false) :
    ∃ d, (s.xreduce uid).cmd? uid = some d ∧ d.place = .ended .badOperand 0x02 ∧ (s.xreduce uid).mem = S.mem := by
  obtain ⟨hc, rfl, hu⟩ := hj.cmd
  obtain ⟨hnext, -, -⟩ := State.selectBegins_settles hS hopen hall
  have hfail : (S.collNext c g).fail = some (.badOperand, 0x02) := by rw [hnext, Coll.settle_unsound _ h]
  have hcmd := State.joinColl_cmd? (hS ▸ hj.begins_cmd?) g
  have hover := (S.joinColl c g).collOver_only (S.collNext c g) g ((S.joinColl c g).collPeers c).length
  have hends := State.endCmd_ends ((State.cmd?_congr (hover .cmds rfl) c.uid).trans hcmd)
    (show Cmd.unstarted { c with progress := 1 } = true from hu) .badOperand 0x02
  rw [hj.joins hf hlive hbad hS, if_pos (by rw [hfail]; rfl), State.finishColl_fail hfail]
  exact ⟨_, hends, rfl, (hover .mem rfl).trans (S.joinColl_only c g .mem rfl)⟩

/-- A sound collective takes the placement order, or else the canonical tree. -/
theorem State.Joins.sound (hsound : leavesSound ((S.collWith c g).joined.flatMap (·.leaves)) = true)
    (hagree : peersAgree (S.collWith c g).joined = true) :
    ∃ t d, exec (.veXreduce uid) s = .next t ∧ t.cmd? uid = some d ∧ d.place = .ended .ok 0 ∧ d.pkt = c.pkt ∧
      (s.variant = .h8a ∧ (s.job c.job).repro = false ∧ (∀ p ∈ (S.collWith c g).joined, p.placed = true) →
        t.mem = (S.putAll (s.xreducePut c g (placement (S.collWith c g).joined)).writes).mem ∧ (t.job c.job).placed = true) ∧
      (s.variant ≠ .h8a ∨ (s.job c.job).repro = true ∨ (∃ p ∈ (S.collWith c g).joined, p.placed = false) →
        t.mem = (S.putAll (s.xreducePut c g (Machine.canonical ((List.range ((S.collWith c g).joined.flatMap (·.leaves)).length).map
          (leafAt ((S.collWith c g).joined.flatMap (·.leaves)))))).writes).mem ∧ t.jobs = s.jobs) := by
  obtain ⟨hnext, hxf, hxp⟩ := State.selectBegins_settles hS hopen hall
  cases hcond : (s.variant == .h8a && !(s.job c.job).repro) && (S.collWith c g).joined.all (·.placed) with
  | true =>
    obtain ⟨hmode, hplaced⟩ := Bool.and_eq_true_iff.mp hcond
    rw [hmode, Coll.settle_placed hsound hagree hplaced] at hnext
    obtain ⟨d, hd, hend, hpkt, hmem, hjob, -⟩ := hj.sums hf hlive hbad hS (by rw [hnext]; exact hxf) (by rw [hnext])
    simp only [Bool.and_eq_true, beq_iff_eq, Bool.not_eq_true'] at hmode
    refine ⟨_, d, rfl, hd, hend, hpkt, fun _ => ⟨hmem, hjob (by rw [hnext])⟩, ?_⟩
    rintro (hv | hr | ⟨p, hp, hpp⟩)
    · exact absurd hmode.1 hv
    · exact absurd (hmode.2.symm.trans hr) Bool.false_ne_true
    · exact absurd (hpp.symm.trans (List.all_eq_true.mp hplaced p hp)) Bool.false_ne_true
  | false =>
    rw [Coll.settle_canonical hsound hagree hcond] at hnext
    obtain ⟨d, hd, hend, hpkt, hmem, -, hjobs⟩ := hj.sums hf hlive hbad hS (by rw [hnext]; exact hxf) (by rw [hnext])
    refine ⟨_, d, rfl, hd, hend, hpkt, ?_, fun _ => ⟨hmem, hjobs (by rw [hnext]; exact hxp)⟩⟩
    rintro ⟨hv, hr, hp⟩
    rw [hv, hr, List.all_eq_true.mpr hp] at hcond
    cases hcond

end

end

/-! ### O28 -/

section
variable {s : State} {uid g k : Nat} {c : Cmd}

/-- A command whose collective has its sum. -/
theorem State.xreduce_summed (hs : s.startable uid 0x2008 = some (c, g, k)) (hw : s.waitPoisoned c = false) {x : Coll} {v : List Nat}
    (hx : s.colls.find? (fun y => y.joined.any fun p => p.uid == uid) = some x) (hf : x.fail = none) (hv : x.sum = some v) :
    (s.xreduce uid).cmd? uid = some { c with place := .ended .ok 0, progress := if x.placed then 2 else c.progress } ∧
      (∀ u, u ≠ uid → (s.xreduce uid).cmd? u = s.cmd? u) ∧ (s.xreduce uid).mem = (s.putAll (s.xreducePut c g v).writes).mem ∧
      s.SameRows (s.xreduce uid) ∧ (s.xreduce uid).reg .ve g 0x04C = min (s.reg .ve g 0x04C + 1) (2 ^ 32 - 1) ∧
      (x.placed = true → ((s.xreduce uid).job c.job).placed = true) ∧ (x.placed = false → (s.xreduce uid).jobs = s.jobs) ∧
      Only [.badWords, .cmds, .colls, .ctrs, .engines, .hostMem, .jobs, .mem, .msix, .now, .pages, .regs, .softWords] s (s.xreduce uid) := by
  obtain ⟨hc, rfl, hu⟩ := State.startable_cmd hs
  have hsel := s.select_only g k
  obtain ⟨hend, hother, hmem, hrows, hreg, hplaced, hjobs⟩ := State.finishColl_ok (g := g) (k := k) hf hv ((s.select_cmd? g k c.uid).trans hc) hu hu
  have hrun : s.xreduce c.uid = ((s.select g k).finishColl c g k x).track := by
    rw [State.xreduce_joined hs hw hx, State.xreduceRun_joined ((hsel .colls rfl).symm ▸ hx) (by rw [hv, Option.isSome_some, Bool.or_true])]
  rw [hrun]
  refine ⟨hend.trans ?_, fun u hne => (hother u hne).trans (s.select_cmd? g k u), ?_, .trans (s.select_sameRows g k) (.trans hrows (.track _)), ?_,
    hplaced, fun hp => (hjobs hp).trans (hsel .jobs rfl), (State.track_only _).step (by decide) ((State.finishColl_only _ c g k x).step (by decide)
      (hsel.mono (by decide)))⟩
  · cases x.placed <;> rfl
  · rw [← s.select_xreducePut g k c v]
    exact hmem.trans (State.putAll_mem_congr (hsel .mem rfl) _)
  · exact hreg.trans (by rw [State.reg_congr (hsel .regs rfl) (hsel .insole rfl) (hsel .part rfl)])

/-- A command whose collective has failed. -/
theorem State.xreduce_failed (hs : s.startable uid 0x2008 = some (c, g, k)) (hw : s.waitPoisoned c = false) {x : Coll} {f : Status × Nat}
    (hx : s.colls.find? (fun y => y.joined.any fun p => p.uid == uid) = some x) (hf : x.fail = some f) :
    (s.xreduce uid).cmd? uid = some { c with place := .ended f.1 f.2 } ∧ (∀ u, u ≠ uid → (s.xreduce uid).cmd? u = s.cmd? u) ∧
      Only [.cmds, .colls, .ctrs, .engines, .hostMem, .msix, .now, .pages] s (s.xreduce uid) := by
  have hsel := s.select_only g k
  have huid := (State.startable_cmd hs).2.1
  have hover := (s.select g k).collOver_only x g ((s.select g k).collPeers c).length
  have hrun : s.xreduce uid = (((s.select g k).collOver x g ((s.select g k).collPeers c).length).endCmd c.uid f.1 f.2).track := by
    rw [State.xreduce_joined hs hw hx, State.xreduceRun_joined (x := x) (by rw [hsel .colls rfl, huid]; exact hx) (by rw [hf]; rfl),
      State.finishColl_fail hf]
  obtain ⟨hend, hother⟩ := State.xreduce_ends hs ((hover .cmds rfl).trans (hsel .cmds rfl)) hrun
  refine ⟨hend, hother, ?_⟩
  rw [hrun]
  exact (State.track_only _).step (by decide) ((State.endCmd_only _ c.uid f.1 f.2).step (by decide) (hover.step (by decide)
    (hsel.mono (by decide))))

/-- A command that ends in its own state, before it joins. -/
theorem State.Joins.ends (hj : s.Joins uid g k c) {st : Status} {cause : Nat}
    (hrun : (s.select g k).xreduceRun c g k = (s.select g k).endCmd c.uid st cause) :
    (s.xreduce uid).cmd? uid = some { c with place := .ended st cause } ∧
      Only [.cmds, .ctrs, .engines, .hostMem, .msix, .now, .pages] s (s.xreduce uid) := by
  have hsel := s.select_only g k
  have hall := hj.runs.trans (congrArg State.track hrun)
  refine ⟨(State.xreduce_ends hj.starts (hsel .cmds rfl) hall).1, ?_⟩
  rw [hall]
  exact (State.track_only _).step (by decide) ((State.endCmd_only _ c.uid st cause).step (by decide) (hsel.mono (by decide)))

end

/-- A command whose fetch descriptor cannot be read. -/
theorem State.xreduce_badDesc {s : State} {uid g k : Nat} {c : Cmd} (hs : s.startable uid 0x2008 = some (c, g, k)) (hw : s.waitPoisoned c = false)
    {a : Nat} (hx : s.colls.find? (fun y => y.joined.any fun p => p.uid == uid) = none) (hd : s.badDesc c g = some a) :
    ∃ t d, exec (.veXreduce uid) s = .next t ∧ t.cmd? uid = some { c with place := .ended .ecc 0x30, fault := some d } ∧ d.addr = a ∧
      Only [.cmds, .ctrs, .engines, .hostMem, .msix, .now, .pages] s t := by
  obtain ⟨hc, rfl, hu⟩ := State.startable_cmd hs
  have hends := State.endBadDesc_ends (g := g) (a := a) ((s.select_cmd? g k c.uid).trans hc) hu
  have hrun : s.xreduce c.uid = ((s.select g k).endBadDesc c g a).track := by
    rw [State.xreduce_fresh hs hx, State.beforeRun_badDesc hw hd, Option.getD_some]
  exact ⟨((s.select g k).endBadDesc c g a).track, _, congrArg Host.Outcome.next hrun, hends, rfl, (State.track_only _).step (by decide) ((State.endBadDesc_only _ c g a).step (by decide)
    ((s.select_only g k).mono (by decide)))⟩

/-- Settles O28: a VE_XREDUCE finds its collective settled, or joins it, and with the last peer settles it. -/
theorem xreduceEndsWithItsCollective : Obligations.XreduceEndsWithItsCollective := by
  unfold Obligations.XreduceEndsWithItsCollective
  refine ⟨fun s uid c g k hs hw hl => ?_, canonical_singleton, fun xs hxs =>
    ⟨treePass addLeaves xs, treePass_length addLeaves xs, canonical_level hxs, fun i _ => ?_⟩⟩
  · obtain ⟨hc, rfl, hu⟩ := State.startable_cmd hs
    refine ⟨fun x hx => ⟨fun v hf hv => ⟨_, rfl, State.xreduce_summed hs hw hx hf hv⟩, fun f hf => ⟨_, rfl, State.xreduce_failed hs hw hx hf⟩⟩,
      fun a hx hd => State.xreduce_badDesc hs hw hx hd, fun hx hd hp => ?_⟩
    have hj : s.Joins c.uid g k c := ⟨hs, hw, hl, hx, hd, hp⟩
    have hfails := congrArg lowestCause (s.select_veFails g k c)
    refine ⟨fun f hf => ⟨_, rfl, hj.ends (State.xreduceRun_fails hj.unknown (hfails.trans hf))⟩,
      fun hf hlost => ⟨_, rfl, hj.ends (State.xreduceRun_lost hj.unknown (hfails.trans hf) ((s.select_lostPeer g k c).trans hlost))⟩,
      fun hf hlive hbad hopen S ps ls hS hps hls => ?_⟩
    have hSb : S = (s.select g k).reduceBegins c g := by rw [hS, State.reduceBegins, s.select_leafReads]
    have hps' : ps = (S.collWith c g).joined := by
      have hSonly := hSb ▸ s.selectBegins_only c g k
      rw [(S.collWith_fields c g).2, State.collFor_congr (hSonly .part rfl) (hSonly .colls rfl), hps]
      rfl
    subst hls hps'
    refine ⟨fun hsome => ⟨_, rfl, hj.waits hf hlive hbad hopen hSb hsome⟩, fun hall => ⟨fun hsound hagree => ?_, fun hun => ?_⟩⟩
    · exact hj.sound hf hlive hbad hopen hSb hall hsound (peersAgree_of_forall hagree)
    · obtain ⟨d, hd⟩ := hj.unsound hf hlive hbad hopen hSb hall (hun.imp_right peersAgree_eq_false)
      exact ⟨_, d, rfl, hd⟩
  · rw [treePass_getElem?]
    cases xs[2 * i]? <;> cases xs[2 * i + 1]? <;> rfl

end Sys2Proof.Machine
end

section
set_option Elab.async false
namespace Sys2Proof.Machine

/-! ### Elements read from a memory out of its canonical form (R100) -/

/-- A VE_EWISE ADD of two F32 elements: SRC_A at window address 0, SRC_B at 0x40, DST at 0x80. -/
def twinCmd : Cmd :=
  { strayCmd with
    pkt := BitVec.ofNat 512 (0x2001 + 0xA0000000 * 2 ^ 192 + 0xA0000040 * 2 ^ 224 + 0xA0000080 * 2 ^ 288 + 2 * 2 ^ 320)
    job := 0 }

/-- A window of 64 KiB for that command, and a memory that lists the first byte of SRC_A twice, then the last byte of its element 1. -/
def twinState : State :=
  { State.reset with
    windows := [(0, BitVec.ofNat 32 (2 ^ 31 + 2 ^ 10))]
    mem := [(tmemBase 0, 1), (tmemBase 0, 1), (tmemBase 0 + 7, 0x40)] }

theorem twinCmd_adds_f32 : twinCmd.fmtField 24 = 0xA ∧ twinCmd.fmtField 28 = 0xA ∧ twinCmd.fmtField 36 = 0xA ∧ twinCmd.veScale = 0 ∧
    twinCmd.opfn % 8 = 0 ∧ twinCmd.veCount = 2 := by decide +kernel

theorem twin_passes : (twinState.ewiseWork twinCmd 0 0).fails = [] := by decide +kernel

/-- The last byte that a list of writes gives. -/
def lastByte (ws : List (Nat × List Byte)) : Option Byte := (ws.flatMap (·.2)).getLast?

/-- SRC_A read as a whole shows nothing behind the byte that is listed twice: the command writes 0 + 0 for its element 1. -/
theorem twin_writes_zero : lastByte (twinState.ewiseWork twinCmd 0 0).writes = some 0 := by decide +kernel

/-- Element 1 of SRC_A read alone is 2.0, and so is its sum with that of SRC_B. -/
theorem twin_sum : (leBytes 4 (Val.code32 (fadd (val32 (twinState.devNat (twinState.place twinCmd 0 (twinCmd.addrField 24) 1 + 4 * 1) 4))
    (val32 (twinState.devNat (twinState.place twinCmd 0 (twinCmd.addrField 28) 1 + 4 * 1) 4))))).getLast? = some 0x40 := by decide +kernel

/-- Refutes O27: VE_EWISE reads an operand as one run of bytes, and the statement gives each element as a read of its own. In the canonical form
that every step keeps (O4) the two agree; in a state whose memory lists an address twice, which the statement does not exclude, they do not. -/
theorem not_accumulatorRowsAndValuesFollowTheirRules : ¬ Obligations.AccumulatorRowsAndValuesFollowTheirRules := by
  unfold Obligations.AccumulatorRowsAndValuesFollowTheirRules
  intro h
  obtain ⟨-, -, -, -, hewise, -⟩ := h
  obtain ⟨ha, hb, hdst, hscale, hadd, hcount⟩ := twinCmd_adds_f32
  have hwrites := hewise twinState twinCmd 0 0 _ _ _ ha hb (fun h3 => by omega) hdst hscale (by omega) twin_passes (fun _ => rfl) (fun _ => rfl)
    (fun _ => rfl)
  have hlast := twin_writes_zero
  rw [hwrites, hcount] at hlast
  simp only [hadd, if_true] at hlast
  rw [lastByte, List.flatMap_cons, List.flatMap_nil, List.append_nil, List.range_succ, List.flatMap_append, List.getLast?_append,
    List.flatMap_cons, List.flatMap_nil, List.append_nil, twin_sum] at hlast
  exact absurd hlast (by decide)

end Sys2Proof.Machine
end

section
set_option Elab.async false
namespace Sys2Proof.Machine

/-! ### Bytes after a list of writes -/

/-- The bytes `f` after writes of an address, a length and as many bytes, the last write first. -/
def written (f : Nat → Byte) : List (Nat × Nat × List Byte) → Nat → Byte
  | [], x => f x
  | (a, n, bs) :: ws, x => if a ≤ x ∧ x < a + n then bs.getD (x - a) 0 else written f ws x

/-- The `n` bytes of `f` from `a` on. -/
def bytesOf (f : Nat → Byte) (a n : Nat) : List Byte := (List.range n).map fun i => f (a + i)

/-- The number that these bytes spell. -/
def numOf (f : Nat → Byte) (a n : Nat) : Nat := leNat (bytesOf f a n)

/-- No write of the list touches the `n` bytes from `a` on. -/
def Apart (ws : List (Nat × Nat × List Byte)) (a n : Nat) : Prop := ∀ p ∈ ws, a + n ≤ p.1 ∨ p.1 + p.2.1 ≤ a

theorem apart_nil (a n : Nat) : Apart [] a n := fun _ h => absurd h List.not_mem_nil

theorem apart_cons {c m a n : Nat} {bs : List Byte} {ws : List (Nat × Nat × List Byte)} (h : a + n ≤ c ∨ c + m ≤ a) (hws : Apart ws a n) :
    Apart ((c, m, bs) :: ws) a n := fun p hp => by
  rcases List.mem_cons.mp hp with rfl | hp
  · exact h
  · exact hws p hp

/-- Of a list written out, one write at a time. -/
theorem apart_skip {c m a n : Nat} {bs : List Byte} {ws : List (Nat × Nat × List Byte)} (h : a + n ≤ c ∨ c + m ≤ a) :
    Apart ((c, m, bs) :: ws) a n ↔ Apart ws a n := List.forall_mem_cons.trans (and_iff_right h)

section
variable {f g : Nat → Byte} {ws : List (Nat × Nat × List Byte)} {a c n m x : Nat} {bs cs : List Byte}

theorem written_skip (h : x < c ∨ c + m ≤ x) : written f ((c, m, bs) :: ws) x = written f ws x := if_neg (by omega)

theorem written_apart (h : Apart ws a n) (h1 : a ≤ x) (h2 : x < a + n) : written f ws x = f x := by
  induction ws with
  | nil => rfl
  | cons p ws ih =>
    obtain ⟨c, m, bs⟩ := p
    have hp : a + n ≤ c ∨ c + m ≤ a := h _ List.mem_cons_self
    exact (written_skip (by omega)).trans (ih fun q hq => h q (List.mem_cons_of_mem _ hq))

theorem bytesOf_congr (h : ∀ x, a ≤ x → x < a + n → f x = g x) : bytesOf f a n = bytesOf g a n :=
  List.map_congr_left fun i hi => h _ (Nat.le_add_right a i) (by have := List.mem_range.mp hi; omega)

@[simp] theorem bytesOf_length (f : Nat → Byte) (a n : Nat) : (bytesOf f a n).length = n := by simp [bytesOf]

theorem bytesOf_skip (h : a + n ≤ c ∨ c + m ≤ a) : bytesOf (written f ((c, m, bs) :: ws)) a n = bytesOf (written f ws) a n :=
  bytesOf_congr fun _ _ _ => written_skip (by omega)

theorem bytesOf_apart (h : Apart ws a n) : bytesOf (written f ws) a n = bytesOf f a n := bytesOf_congr fun _ => written_apart h

theorem bytesOf_same (hc : c = a) (hn : bs.length = n) : bytesOf (written f ((c, n, bs) :: ws)) a n = bs := by
  subst hc
  refine List.ext_getElem (by simp [hn]) fun i h1 h2 => ?_
  simp only [bytesOf, List.getElem_map, List.getElem_range, written]
  rw [if_pos (by omega), Nat.add_sub_cancel_left, List.getD_eq_getElem _ _ h2]

theorem bytesOf_drop (f : Nat → Byte) (a n k : Nat) : (bytesOf f a n).drop k = bytesOf f (a + k) (n - k) := by
  refine List.ext_getElem (by simp) fun i h1 h2 => ?_
  simp [bytesOf, Nat.add_assoc]

theorem numOf_skip (h : a + n ≤ c ∨ c + m ≤ a) : numOf (written f ((c, m, bs) :: ws)) a n = numOf (written f ws) a n :=
  congrArg leNat (bytesOf_skip h)

theorem numOf_apart (h : Apart ws a n) : numOf (written f ws) a n = numOf f a n := congrArg leNat (bytesOf_apart h)

theorem numOf_same {v : Nat} (hc : c = a) (hv : v < 256 ^ n) : numOf (written f ((c, n, leBytes n v) :: ws)) a n = v := by
  rw [numOf, bytesOf_same hc (leBytes_length n v), leNat_leBytes, Nat.mod_eq_of_lt hv]

theorem numOf_lt (f : Nat → Byte) (a n : Nat) : numOf f a n < 256 ^ n := by
  simpa [numOf] using leNat_lt (bytesOf f a n)

/-- The bytes of the number that a list of bytes spells are that list. -/
theorem leBytes_leNat (hn : bs.length = n) : leBytes n (leNat bs) = bs := by
  subst hn
  induction bs with
  | nil => rfl
  | cons b bs ih =>
    have hb : b.toNat < 256 := b.isLt
    have h1 : (b.toNat + 256 * leNat bs) / 256 = leNat bs := by omega
    have h2 : BitVec.ofNat 8 (b.toNat + 256 * leNat bs) = b := BitVec.eq_of_toNat_eq (by rw [BitVec.toNat_ofNat]; omega)
    simp only [List.length_cons, leBytes, leNat, h1, h2, ih]

/-- A write of bytes in two parts is two writes. -/
theorem written_append (hn : bs.length = n) :
    written f ((a, n + m, bs ++ cs) :: ws) = written f ((a + n, m, cs) :: (a, n, bs) :: ws) := by
  funext x
  simp only [written]
  by_cases h1 : a + n ≤ x ∧ x < a + n + m
  · rw [if_pos h1, if_pos (by omega), List.getD_append_right _ _ _ _ (by omega), hn, Nat.sub_sub]
  · rw [if_neg h1]
    by_cases h2 : a ≤ x ∧ x < a + n
    · rw [if_pos h2, if_pos (by omega), List.getD_append _ _ _ _ (by omega)]
    · rw [if_neg h2, if_neg (by omega)]

/-- A write over one of the same bytes hides it. -/
theorem written_over : written f ((a, n, bs) :: (a, n, cs) :: ws) = written f ((a, n, bs) :: ws) := by
  funext x
  simp only [written]
  split <;> rfl

/-- Bytes that are written where they stand change nothing. -/
theorem written_own {vs : List (Nat × Nat × List Byte)} (hv : written f vs = written f ws) :
    written f ((a, n, bytesOf (written f ws) a n) :: vs) = written f ws := by
  funext x
  rw [written, hv]
  split
  · next h =>
    rw [List.getD_eq_getElem _ _ (by rw [bytesOf_length]; omega)]
    simp only [bytesOf, List.getElem_map, List.getElem_range]
    congr 1
    omega
  · rfl

theorem leBytes_numOf (f : Nat → Byte) (a n : Nat) : leBytes n (numOf f a n) = bytesOf f a n := leBytes_leNat (bytesOf_length f a n)

end

/-- The bytes that a header of a structure or of an adapter set takes: FROM, CUR and three of zero. -/
theorem written_header (f : Nat → Byte) (ws : List (Nat × Nat × List Byte)) (a since cur : Nat) :
    written f ((a, 8, leBytes 4 since ++ leBytes 1 cur ++ leBytes 3 0) :: ws) =
      written f ((a + 5, 3, leBytes 3 0) :: (a + 4, 1, leBytes 1 cur) :: (a, 4, leBytes 4 since) :: ws) := by
  rw [show (8 : Nat) = 5 + 3 from rfl, written_append (by simp)]
  funext x
  simp only [written]
  split
  · rfl
  · have h := congrFun (written_append (f := f) (ws := ws) (a := a) (n := 4) (m := 1) (bs := leBytes 4 since) (cs := leBytes 1 cur) (by simp)) x
    simpa only [written] using h

end Sys2Proof.Machine
end

section
set_option Elab.async false
namespace Sys2Proof.Machine

/-! ### Device memory after a list of writes (R136) -/

theorem State.devGet_high {s : State} {a n : Nat} (h : tmemBase 0 ≤ a) : s.devGet a n = s.mem.readRun 0 a n := by
  have hin : inStaging a = false := by
    unfold inStaging
    rw [decide_eq_false (Nat.not_lt.mpr h), Bool.and_false]
  unfold State.devGet
  rw [hin, if_neg Bool.false_ne_true]

theorem MemOk.devGet {s : State} (h : MemOk s) {a : Nat} (ha : tmemBase 0 ≤ a) (n : Nat) : s.devGet a n = bytesOf (s.mem.read 0) a n :=
  (State.devGet_high ha).trans (Memory.readRun_eq_map a n h.1)

theorem MemOk.devNat {s : State} (h : MemOk s) {a : Nat} (ha : tmemBase 0 ≤ a) (n : Nat) : s.devNat a n = numOf (s.mem.read 0) a n :=
  congrArg leNat (h.devGet ha n)

/-- The memory of `t` is that of `s` after some writes. -/
structure State.Holds (s t : State) (ws : List (Nat × Nat × List Byte)) : Prop where
  ok : MemOk t
  read : ∀ x, t.mem.read 0 x = written (s.mem.read 0) ws x

/-- So it is, and no field but a few has changed: the windows, the jobs and the dies stand, so directories and replicas lie where they did. -/
structure State.Wrote (s t : State) (ws : List (Nat × Nat × List Byte)) : Prop extends State.Holds s t ws where
  only : Only [.badWords, .engines, .flags, .me, .mem, .softWords] s t

section
variable {s t u : State} {ws vs : List (Nat × Nat × List Byte)} {a : Nat}

namespace State.Holds

theorem bytes (h : s.Holds t ws) (ha : tmemBase 0 ≤ a) (n : Nat) : t.devGet a n = bytesOf (written (s.mem.read 0) ws) a n := by
  rw [h.ok.devGet ha, funext h.read]

theorem num (h : s.Holds t ws) (ha : tmemBase 0 ≤ a) (n : Nat) : t.devNat a n = numOf (written (s.mem.read 0) ws) a n := congrArg leNat (h.bytes ha n)

theorem field (h : s.Holds t ws) (ha : tmemBase 0 ≤ a) {n v : Nat} (hv : numOf (written (s.mem.read 0) ws) a n = v) : t.devNat a n = v :=
  (h.num ha n).trans hv

/-- What the writes do not touch is as it was. -/
theorem num_apart (h : s.Holds t ws) (hs : MemOk s) (ha : tmemBase 0 ≤ a) {n : Nat} (hw : Apart ws a n) : t.devNat a n = s.devNat a n := by
  rw [h.num ha, hs.devNat ha, numOf_apart hw]

theorem bytes_apart (h : s.Holds t ws) (hs : MemOk s) (ha : tmemBase 0 ≤ a) {n : Nat} (hw : Apart ws a n) : t.devGet a n = s.devGet a n := by
  rw [h.bytes ha, hs.devGet ha, bytesOf_apart hw]

theorem of_mem (h : s.Holds t ws) (hm : MemOk u) (hmem : u.mem = t.mem) : s.Holds u ws := ⟨hm, fun x => by rw [hmem, h.read]⟩

end State.Holds

/-- Jobs, windows and dies decide where directories and replicas lie (R88, R134, R136). -/
theorem State.jobEngines_congr (hp : t.part = s.part) (hc : t.cdLost = s.cdLost) (hj : t.jobs = s.jobs) (job : Nat) :
    t.jobEngines job = s.jobEngines job := by
  unfold State.jobEngines State.dieUsable State.variant
  rw [hp, hc, State.job_congr hj]

theorem State.jobDies_congr (hp : t.part = s.part) (hc : t.cdLost = s.cdLost) (hj : t.jobs = s.jobs) (job : Nat) :
    t.jobDies job = s.jobDies job := by
  unfold State.jobDies State.variant
  rw [State.jobEngines_congr hp hc hj, hp]

theorem State.resolve_congr (hw : t.windows = s.windows) (g job a n : Nat) : t.resolve g job a n = s.resolve g job a n := by
  unfold State.resolve State.window
  rw [hw]

theorem State.resolve_high {g job w n : Nat} (h : s.resolve g job w n = some a) : tmemBase 0 ≤ a := by
  unfold State.resolve at h
  obtain ⟨-, hw⟩ := Option.ite_none_right_eq_some.mp h
  have := Option.some.inj hw
  simp only [tmemBase] at this ⊢
  omega

theorem State.replicas_high {job w n : Nat} (h : a ∈ s.replicas job w n) : tmemBase 0 ≤ a := by
  unfold State.replicas at h
  split at h
  all_goals
    obtain ⟨g, -, hg⟩ := List.mem_filterMap.mp h
    exact State.resolve_high hg

theorem State.dirBases_high {job : Nat} (h : a ∈ s.dirBases job) : tmemBase 0 ≤ a := by
  obtain ⟨g, -, hg⟩ := List.mem_filterMap.mp h
  exact State.resolve_high hg

namespace State.Wrote

theorem refl (hs : MemOk s) : s.Wrote s [] := ⟨⟨hs, fun _ => rfl⟩, Only.refl _ s⟩

theorem replicas (h : s.Wrote t ws) (job w n : Nat) : t.replicas job w n = s.replicas job w n := by
  have hp := h.only .part rfl
  have hc := h.only .cdLost rfl
  have hj := h.only .jobs rfl
  have hw := h.only .windows rfl
  unfold State.replicas
  simp only [State.jobEngines_congr hp hc hj, State.jobDies_congr hp hc hj, State.resolve_congr hw]

theorem dirBases (h : s.Wrote t ws) (job : Nat) : t.dirBases job = s.dirBases job := by
  unfold State.dirBases
  simp only [State.jobDies_congr (h.only .part rfl) (h.only .cdLost rfl) (h.only .jobs rfl), State.resolve_congr (h.only .windows rfl)]

theorem job (h : s.Wrote t ws) (j : Nat) : t.job j = s.job j := State.job_congr (h.only .jobs rfl) j

/-- A list of writes may be put another way. -/
theorem rewrite (h : s.Wrote t ws) (he : ∀ f, written f ws = written f vs) : s.Wrote t vs := ⟨⟨h.ok, fun x => by rw [h.read, he]⟩, h.only⟩

/-- What touches flags and engines only leaves the memory. -/
theorem quiet (h : s.Wrote t ws) (hu : Only [.engines, .flags, .me] t u) : s.Wrote u ws :=
  ⟨h.of_mem (MemOk.of_only hu (by decide) h.ok) (hu .mem rfl), hu.step (by decide) h.only⟩

theorem devPut (h : s.Wrote t ws) {bs : List Byte} {n : Nat} (hn : bs.length = n) : s.Wrote (t.devPut a bs) ((a, n, bs) :: ws) where
  ok := State.devPut_memOk t a bs h.ok
  read x := by
    subst hn
    rw [written, ← h.read]
    exact Memory.read_writeRun a bs x h.ok.1
  only := (State.devPut_only t a bs).step (by decide) h.only

theorem putDir (h : s.Wrote t ws) {job d : Nat} (hd : s.dirBases job = [d]) (off : Nat) {bs : List Byte} {n : Nat} (hn : bs.length = n) :
    s.Wrote (t.putDir job off bs) ((d + off, n, bs) :: ws) := by
  unfold State.putDir
  rw [h.dirBases, hd]
  exact h.devPut hn

theorem putReplicas (h : s.Wrote t ws) {job w : Nat} (hr : s.replicas job w 64 = [a]) (off : Nat) {bs : List Byte} {n : Nat} (hn : bs.length = n) :
    s.Wrote (t.putReplicas job w off bs) ((a + off, n, bs) :: ws) := by
  unfold State.putReplicas
  rw [h.replicas, hr]
  exact h.devPut hn

/-- A number written in the directory. -/
theorem putField (h : s.Wrote t ws) {job d : Nat} (hd : s.dirBases job = [d]) (off n v : Nat) :
    s.Wrote (t.putDir job off (leBytes n v)) ((d + off, n, leBytes n v) :: ws) := h.putDir hd off (leBytes_length n v)

/-- Two numbers written in the directory at once. -/
theorem putFields (h : s.Wrote t ws) {job d : Nat} (hd : s.dirBases job = [d]) (off n v m w : Nat) :
    s.Wrote (t.putDir job off (leBytes n v ++ leBytes m w)) ((d + off + n, m, leBytes m w) :: (d + off, n, leBytes n v) :: ws) :=
  (h.putDir hd off (n := n + m) (by simp)).rewrite fun _ => written_append (leBytes_length n v)

/-- FROM and CUR of an adapter set. -/
theorem putSet (h : s.Wrote t ws) {job d : Nat} (hd : s.dirBases job = [d]) (off since cur : Nat) :
    s.Wrote (t.putDir job off (leBytes 4 since ++ leBytes 1 cur ++ leBytes 3 0))
      ((d + off + 5, 3, leBytes 3 0) :: (d + off + 4, 1, leBytes 1 cur) :: (d + off, 4, leBytes 4 since) :: ws) :=
  (h.putDir hd off (n := 8) (by simp)).rewrite fun f => written_header f ws _ since cur

/-- FROM and CUR of a structure. -/
theorem putHeader (h : s.Wrote t ws) {job w : Nat} (hr : s.replicas job w 64 = [a]) (since cur : Nat) :
    s.Wrote (t.putHeader job w since cur) ((a + 8 + 5, 3, leBytes 3 0) :: (a + 8 + 4, 1, leBytes 1 cur) :: (a + 8, 4, leBytes 4 since) :: ws) :=
  (h.putReplicas hr 8 (n := 8) (by simp)).rewrite fun f => written_header f ws _ since cur

theorem structAt (h : s.Wrote t ws) {job w : Nat} (hr : s.replicas job w 64 = [a]) : t.structAt job w = some (t.tableAt a) := by
  unfold State.structAt
  rw [h.replicas, hr]
  rfl

/-- A header that the writes do not touch. -/
theorem tableAt (h : s.Wrote t ws) (hs : MemOk s) (ha : tmemBase 0 ≤ a) (hw : Apart ws a 20) : t.tableAt a = s.tableAt a := by
  have hf (o n : Nat) (hon : o + n ≤ 20) : t.devNat (a + o) n = s.devNat (a + o) n :=
    h.num_apart hs (by omega) fun p hp => by have := hw p hp; omega
  have h0 := hf 0 2 (by decide)
  rw [Nat.add_zero] at h0
  unfold State.tableAt
  rw [h0, hf 2 2 (by decide), hf 4 1 (by decide), hf 5 1 (by decide), hf 6 1 (by decide), hf 8 4 (by decide), hf 12 1 (by decide),
    hf 16 4 (by decide)]

end State.Wrote
end

end Sys2Proof.Machine
end

section
set_option Elab.async false
namespace Sys2Proof.Machine

/-! ### Statistic slots cleared at a turn (R136 step 2) -/

theorem SMap.get_erase {α : Type} (m : SMap α) (x y : Nat) (d : α) : (m.erase x).get y d = if y = x then d else m.get y d := by
  unfold SMap.get SMap.erase
  induction m with
  | nil => simp [SMap.find?]
  | cons p m ih =>
    by_cases hp : p.1 = x
    · rw [List.filter_cons_of_neg (by simpa using hp), ih]
      by_cases hy : y = x
      · simp only [if_pos hy]
      · simp only [if_neg hy, SMap.find?]
        rw [if_neg (by simpa [hp] using Ne.symm hy)]
    · rw [List.filter_cons_of_pos (by simpa using hp)]
      by_cases hpy : p.1 = y
      · have hyx : y ≠ x := fun h => hp (hpy.trans h)
        simp only [SMap.find?, hpy, beq_self_eq_true, if_true, if_neg hyx]
      · simpa only [SMap.find?, beq_iff_eq, hpy, if_false] using ih

/-- Slot `k` of an engine cleared. -/
def State.clearStat (s : State) (k g : Nat) : State := s.putEngine g { s.engine g with stats := SMap.erase (s.engine g).stats k }

theorem State.clearStats_engine (s : State) (k : Nat) (gs : List Nat) (g j : Nat) :
    ((gs.foldl (fun t h => t.clearStat k h) s).engine g).stat j = (if g ∈ gs ∧ j = k then StatSlot.fresh else (s.engine g).stat j) ∧
      ((gs.foldl (fun t h => t.clearStat k h) s).engine g).acc = (s.engine g).acc := by
  induction gs generalizing s with
  | nil => simp
  | cons h gs ih =>
    obtain ⟨hstat, hacc⟩ := ih (s.clearStat k h)
    rw [List.foldl_cons, hstat, hacc]
    by_cases hg : g = h
    · subst hg
      rw [State.clearStat, State.putEngine_engine]
      simp only [Engine.stat, SMap.get_erase, List.mem_cons, true_or, true_and, and_true]
      by_cases hj : j = k
      · simp only [hj, and_true, if_true, ite_self]
      · simp only [hj, and_false, if_false]
    · rw [State.clearStat, State.putEngine_engine_other s _ hg]
      simp only [List.mem_cons, hg, false_or, and_self]

theorem State.clearSlot_engine (s : State) (job k g j : Nat) :
    ((s.clearSlot job k).engine g).stat j = (if g ∈ s.jobEngines job ∧ j = k then StatSlot.fresh else (s.engine g).stat j) ∧
      ((s.clearSlot job k).engine g).acc = (s.engine g).acc := s.clearStats_engine k (s.jobEngines job) g j

theorem State.clearSlot_jobEngines (s : State) (job k : Nat) : (s.clearSlot job k).jobEngines job = s.jobEngines job :=
  have h := State.clearSlot_only s job k
  State.jobEngines_congr (h .part rfl) (h .cdLost rfl) (h .jobs rfl) job

theorem State.clearSlots_engine {α : Type} (s : State) (job : Nat) (slot : α → Nat) (ys : List α) (g j : Nat) :
    ((ys.foldl (fun t y => t.clearSlot job (slot y)) s).engine g).stat j =
        (if g ∈ s.jobEngines job ∧ ∃ y ∈ ys, j = slot y then StatSlot.fresh else (s.engine g).stat j) ∧
      ((ys.foldl (fun t y => t.clearSlot job (slot y)) s).engine g).acc = (s.engine g).acc := by
  induction ys generalizing s with
  | nil => simp
  | cons y ys ih =>
    obtain ⟨hstat, hacc⟩ := ih (s.clearSlot job (slot y))
    obtain ⟨hone, hrows⟩ := s.clearSlot_engine job (slot y) g j
    rw [List.foldl_cons, hstat, hacc, hrows, hone, State.clearSlot_jobEngines]
    refine ⟨?_, rfl⟩
    by_cases hg : g ∈ s.jobEngines job
    · by_cases hj : j = slot y
      · simp [hg, hj]
      · simp [hg, hj]
    · simp [hg]

/-! ### The parts of a turn (R136) -/

/-- The statistic slot of an AUTO entry, of the parity of the epoch before. -/
def turnSlot (epoch : Nat) (y : DirEntry) : Nat := y.slot / 2 * 2 + (epoch + 1) % 2

/-- The AUTO entries whose statistics a turn takes. -/
def State.turnAutos (s : State) (epoch d : Nat) : List DirEntry := if 1 ≤ epoch then (s.dirEntries d).filter (·.auto) else []

/-- Step 2: their slots are cleared. -/
def State.turnCleared (s : State) (job epoch d : Nat) : State :=
  (s.turnAutos epoch d).foldl (fun t y => t.clearSlot job (turnSlot epoch y)) s

/-- The sums of their slots, by index. -/
def State.turnSums (s : State) (job epoch d : Nat) : List (Nat × SlotSum) :=
  (s.turnAutos epoch d).map fun y => (y.index, s.slotSum job (turnSlot epoch y))

/-- Step 3: the adapter side, then the entries of the scale directory, and the structures that both change. -/
def State.turnFront (s : State) (job epoch d : Nat) : AdaptPart :=
  let s1 := s.turnCleared job epoch d
  let r1 := s1.adaptTurn job epoch d
  let r2 := r1.state.turnEntries job (s.dirEntries d) (s.turnSums job epoch d) (s1.boundEntries job d)
  ⟨r2.1, r1.flips ++ r2.2, r1.wrote⟩

/-- Step 5: what lies far behind is brought up. -/
def State.turnRefresh (s : State) (job epoch d : Nat) (r : State × Bool) : State × Bool :=
  let r3 := runAll (fun t y => t.refreshEntry job epoch y) (s.dirEntries d) r
  runAll (fun t x => t.refreshAdapter job epoch x) (s.refreshList job d r3) r3

/-- Steps 3 to 5. -/
def State.turnWork (s : State) (job epoch d : Nat) : State × Bool :=
  let r := s.turnFront job epoch d
  s.turnRefresh job epoch d (r.state.flip job epoch r.flips, r.wrote || !r.flips.isEmpty)

/-- Step 6: TURNS and the epoch in the directory, and the turn is done. -/
def State.turnEnd (s : State) (job epoch d : Nat) (r : State × Bool) : State :=
  let s2 := r.1.putDir job 8 (leBytes 4 ((s.devNat (d + 8) 4 + 1) % 2 ^ 32) ++ leBytes 4 ((epoch + 1) % 2 ^ 32))
  let s3 := s2.putJob job { s2.job job with turnPending := none, turnsDone := epoch + 1 }
  if r.2 then s3.keepWeights job ((epoch + 1) % 2 ^ 32) else s3

theorem State.turn_eq (s : State) (job epoch d : Nat) : s.turn job epoch d = s.turnEnd job epoch d (s.turnWork job epoch d) := rfl

theorem State.turnCleared_only (s : State) (job epoch d : Nat) : Only [.engines] s (s.turnCleared job epoch d) :=
  Only.foldl (fun _ _ hy => (State.clearSlot_only _ _ _).step (by decide) hy) (Only.refl _ s)

theorem State.turnFront_only (s : State) (job epoch d : Nat) :
    Only [.flags, .mem, .badWords, .me, .softWords] (s.turnCleared job epoch d) (s.turnFront job epoch d).state :=
  (State.turnEntries_only _ _ _ _ _).step (by decide) (State.adaptTurn_only _ _ _ _)

theorem State.turnRefresh_only (s : State) (job epoch d : Nat) (r : State × Bool) :
    Only [.mem, .badWords, .softWords] r.1 (s.turnRefresh job epoch d r).1 :=
  Only.runAll (fun _ _ _ hr hy => hr ▸ (State.refreshAdapter_only _ _ _ _).step (by decide) hy)
    (Only.runAll (fun _ _ _ hr hy => hr ▸ (State.refreshEntry_only _ _ _ _).step (by decide) hy) (Only.refl _ _))

theorem State.turnWork_only (s : State) (job epoch d : Nat) :
    Only [.flags, .mem, .badWords, .me, .softWords] (s.turnCleared job epoch d) (s.turnWork job epoch d).1 :=
  (s.turnRefresh_only job epoch d _).step (by decide) ((State.flip_only _ _ _ _).step (by decide) (s.turnFront_only job epoch d))

theorem State.turnWork_memOk {s : State} (h : MemOk s) (job epoch d : Nat) : MemOk (s.turnWork job epoch d).1 := by
  have hclear : MemOk (s.turnCleared job epoch d) := MemOk.of_only (s.turnCleared_only job epoch d) (by decide) h
  have hfront : MemOk (s.turnFront job epoch d).state := State.turnEntries_memOk _ _ _ _ _ (State.adaptTurn_memOk _ _ _ _ hclear)
  exact MemOk.runAll (fun _ _ _ hr hy => hr ▸ State.refreshAdapter_memOk _ _ _ _ hy)
    (MemOk.runAll (fun _ _ _ hr hy => hr ▸ State.refreshEntry_memOk _ _ _ _ hy) (State.flip_memOk _ _ _ _ hfront))

theorem State.turnEnd_only (s : State) (job epoch d : Nat) (r : State × Bool) :
    Only [.badWords, .jobs, .mem, .softWords] r.1 (s.turnEnd job epoch d r) := by
  have hput (x : Job) (bs : List Byte) : Only [.badWords, .jobs, .mem, .softWords] r.1 ((r.1.putDir job 8 bs).putJob job x) :=
    (State.putJob_only _ _ _).step (by decide) ((State.putDir_only _ _ _ _).mono (by decide))
  unfold State.turnEnd
  exact Only.ite ((State.keepWeights_only _ _ _).step (by decide) (hput _ _)) (hput _ _)

/-- Of the jobs only that of the turn has changed: the turn is done. -/
theorem State.turnEnd_job (s : State) (job epoch d : Nat) (r : State × Bool) :
    ((s.turnEnd job epoch d r).job job).turnsDone = epoch + 1 ∧ ((s.turnEnd job epoch d r).job job).turnPending = none ∧
      ∀ j, j ≠ job → (s.turnEnd job epoch d r).job j = r.1.job j := by
  have hdir (bs : List Byte) (j : Nat) : (r.1.putDir job 8 bs).job j = r.1.job j := State.job_congr (State.putDir_only _ _ _ _ .jobs rfl) j
  unfold State.turnEnd
  dsimp only
  split
  · simp only [State.keepWeights, State.putJob_job, true_and]
    exact fun j hj => by rw [State.putJob_job_other _ _ hj, State.putJob_job_other _ _ hj, hdir]
  · simp only [State.putJob_job, true_and]
    exact fun j hj => by rw [State.putJob_job_other _ _ hj, hdir]

/-- The same of the whole turn. -/
theorem State.turn_job (s : State) (job epoch d : Nat) :
    ((s.turn job epoch d).track.job job).turnsDone = epoch + 1 ∧ ((s.turn job epoch d).track.job job).turnPending = none ∧
      ∀ j, j ≠ job → (s.turn job epoch d).track.job j = s.job j := by
  obtain ⟨hdone, hnone, hjobs⟩ := s.turnEnd_job job epoch d (s.turnWork job epoch d)
  have htrack (j : Nat) : (s.turn job epoch d).track.job j = (s.turn job epoch d).job j := State.job_congr (State.track_jobs _) j
  have hwork : (s.turnWork job epoch d).1.jobs = s.jobs := (s.turnWork_only job epoch d .jobs rfl).trans (s.turnCleared_only job epoch d .jobs rfl)
  refine ⟨?_, ?_, fun j hj => ?_⟩
  · rw [htrack, State.turn_eq, hdone]
  · rw [htrack, State.turn_eq, hnone]
  · rw [htrack, State.turn_eq, hjobs j hj, State.job_congr hwork]

/-- The memory at the end of a turn: the next epoch and one turn more in the directory. -/
theorem State.Wrote.turnEnd {s : State} {r : State × Bool} {ws : List (Nat × Nat × List Byte)} (h : s.Wrote r.1 ws) {job d : Nat}
    (hd : s.dirBases job = [d]) (v : State) (epoch : Nat) :
    s.Holds (v.turnEnd job epoch d r).track ((d + 8 + 4, 4, leBytes 4 ((epoch + 1) % 2 ^ 32)) ::
      (d + 8, 4, leBytes 4 ((v.devNat (d + 8) 4 + 1) % 2 ^ 32)) :: ws) := by
  have hput := h.putFields hd 8 4 ((v.devNat (d + 8) 4 + 1) % 2 ^ 32) 4 ((epoch + 1) % 2 ^ 32)
  have honly : Only [.engines, .jobs] (r.1.putDir job 8 (leBytes 4 ((v.devNat (d + 8) 4 + 1) % 2 ^ 32) ++ leBytes 4 ((epoch + 1) % 2 ^ 32)))
      (v.turnEnd job epoch d r).track := by
    refine (State.track_only _).step (by decide) ?_
    unfold State.turnEnd
    exact Only.ite ((State.keepWeights_only _ _ _).step (by decide) ((State.putJob_only _ _ _).mono (by decide)))
      ((State.putJob_only _ _ _).mono (by decide))
  exact hput.of_mem (MemOk.of_only honly (by decide) hput.ok) (honly .mem rfl)

/-- Block times touch no statistic slot. -/
theorem State.track_stat (s : State) (g k : Nat) : (s.track.engine g).stat k = (s.engine g).stat k := by
  rcases s.track_engine g with h | h
  · rw [h]
  · rw [h]
    rfl

/-- The statistic slots that a turn clears. -/
theorem State.mem_turnAutos {s : State} {epoch d : Nat} {y : DirEntry} : y ∈ s.turnAutos epoch d ↔ 1 ≤ epoch ∧ y ∈ s.dirEntries d ∧ y.auto = true := by
  unfold State.turnAutos
  split
  · next h => simp [h]
  · next h => simp [h]

/-- After a turn an engine has its rows and its statistic slots, but for the slots that the turn clears. -/
theorem State.turn_engine (s : State) (job epoch d g : Nat) :
    (∀ k, ((s.turn job epoch d).track.engine g).stat k =
      if g ∈ s.jobEngines job ∧ ∃ y ∈ s.turnAutos epoch d, k = turnSlot epoch y then StatSlot.fresh else (s.engine g).stat k) ∧
    ∀ m r, ((s.turn job epoch d).track.engine g).row m r = (s.engine g).row m r := by
  have heng : (s.turn job epoch d).engines = (s.turnCleared job epoch d).engines := by
    rw [State.turn_eq]
    exact (s.turnEnd_only job epoch d _ .engines rfl).trans (s.turnWork_only job epoch d .engines rfl)
  have hclear := s.clearSlots_engine job (turnSlot epoch) (s.turnAutos epoch d) g
  refine ⟨fun k => ?_, fun m r => ?_⟩
  · rw [State.track_stat, State.engine_congr heng]
    exact (hclear k).1
  · rw [State.track_row, State.engine_congr heng]
    exact Engine.row_congr (hclear 0).2 m r

/-! ### TURN with a directory, and without (R136, R441) -/

theorem exec_turn_paused {s : State} (h : s.fwPaused = true) (job : Nat) : exec (.turn job) s = .next s := by
  show execTurn job s = _
  rw [execTurn, if_pos h]

section
variable {s : State} {job e : Nat} (hp : (s.job job).turnPending = some e) (hrun : s.fwPaused = false)
include hp hrun

theorem exec_turn_waits {d : Nat} (hd : s.dirBase job = some d) (hl : s.latchedBefore job e = true) : exec (.turn job) s = .next s := by
  show execTurn job s = _
  simp only [execTurn, hrun, hp, hd, hl, Bool.false_eq_true, if_false, if_true]

theorem exec_turn {d : Nat} (hd : s.dirBase job = some d) (hl : s.latchedBefore job e = false) :
    exec (.turn job) s = .next (s.turn job e d).track := by
  show execTurn job s = _
  simp only [execTurn, hrun, hp, hd, hl, Bool.false_eq_true, if_false]

theorem exec_turn_none (hd : s.dirBase job = none) :
    exec (.turn job) s = .next (s.putJob job { s.job job with turnPending := none, turnsDone := e + 1 }) := by
  show execTurn job s = _
  simp only [execTurn, hrun, hp, hd, Bool.false_eq_true, if_false]

end

/-- Whatever a turn finds, the directory's epoch and its count of turns move on. -/
theorem State.turn_dir {s : State} (hs : MemOk s) {job d : Nat} (hd : s.dirBases job = [d]) (e : Nat) :
    (s.turn job e d).track.devNat (d + 12) 4 = (e + 1) % 2 ^ 32 ∧
      (s.turn job e d).track.devNat (d + 8) 4 = (s.devNat (d + 8) 4 + 1) % 2 ^ 32 := by
  have hhigh : tmemBase 0 ≤ d := State.dirBases_high (s := s) (job := job) (by rw [hd]; exact List.mem_singleton_self d)
  have hw := s.turnWork_only job e d
  have hc := s.turnCleared_only job e d
  have hbase : (s.turnWork job e d).1.dirBases job = [d] := by
    have hsame : Only [.engines, .flags, .mem, .badWords, .me, .softWords] s (s.turnWork job e d).1 := hw.step (by decide) (hc.mono (by decide))
    unfold State.dirBases
    simp only [State.jobDies_congr (hsame .part rfl) (hsame .cdLost rfl) (hsame .jobs rfl), State.resolve_congr (hsame .windows rfl)]
    exact hd
  have hend := (State.Wrote.refl (State.turnWork_memOk hs job e d)).turnEnd hbase s e
  rw [State.turn_eq]
  constructor
  · rw [hend.num (by omega)]
    exact numOf_same (by omega) (Nat.mod_lt _ (by decide))
  · rw [hend.num (by omega), numOf_skip (by omega)]
    exact numOf_same rfl (Nat.mod_lt _ (by decide))

end Sys2Proof.Machine
end

section
set_option Elab.async false
namespace Sys2Proof.Machine

/-! ### A directory of one entry that names one structure with one replica (R133, R136) -/

/-- One copy of the directory of a job at `d`, of one entry `y`, that names the structure with header `T` at `w`, whose only replica is at `a`. -/
structure State.OneTable (s : State) (job e d a w : Nat) (y : DirEntry) (T : Table) : Prop where
  ok : MemOk s
  base : s.dirBases job = [d]
  entries : s.dirEntries d = [y]
  structs : y.structs = [w]
  reps : s.replicas job w 64 = [a]
  table : T = s.tableAt a
  cur : T.cur ≤ 1
  body : T.body ≤ T.stride
  apart : a + T.copyOff 2 + T.body ≤ d ∨ d + 0x2000 ≤ a
  near : farBehind e T.since = false

theorem farBehind_next (e : Nat) : farBehind e ((e + 1) % 2 ^ 32) = false := by
  have h : (e + 2 ^ 32 - (e + 1) % 2 ^ 32) % 2 ^ 32 = 2 ^ 32 - 1 := by omega
  unfold farBehind
  dsimp only
  rw [h]
  decide

theorem runAll_same {α : Type} {f : State → α → State × Bool} {v : State} {xs : List α} (h : ∀ x ∈ xs, f v x = (v, false)) (b : Bool) :
    runAll f xs (v, b) = (v, b) := by
  unfold runAll
  induction xs with
  | nil => rfl
  | cons x xs ih =>
    rw [List.foldl_cons]
    simp only [h x List.mem_cons_self, Bool.or_false]
    exact ih fun z hz => h z (List.mem_cons_of_mem x hz)

theorem Val.code32_lt (v : Val) : v.code32 < 2 ^ 32 := by
  have hs (b : Bool) : f32.signBit b ≤ 2 ^ 31 := by cases b <;> decide
  have hm : f32.maxCode = 0x7F7FFFFF := rfl
  unfold Val.code32
  cases v with
  | nan => decide
  | inf b => cases b <;> decide
  | fin b n k x =>
    have := hs b
    simp only [FloatFmt.narrow]
    split <;> dsimp only <;> omega

theorem State.turn_flags (s : State) (job e d : Nat) : (s.turn job e d).track.flags = (s.turnFront job e d).state.flags := by
  rw [State.turn_eq]
  exact (s.turnEnd_only job e d _ .flags rfl).trans
    ((s.turnRefresh_only job e d _ .flags rfl).trans (State.flip_only _ _ _ _ .flags rfl))

/-- An advance of a sound flag is one of its generation (R286). -/
theorem State.advance_gen {s : State} {f : Nat} (job : Nat) (h : (s.flag f).poison = false) :
    ((s.advance job f 1).flag f).gen = (s.flag f).gen + 1 := by rw [State.advance_flag job 1 h]; rfl

namespace State.OneTable

variable {s : State} {job e d a w : Nat} {y : DirEntry} {T : Table} (h : s.OneTable job e d a w y T)
include h

theorem dirHigh : tmemBase 0 ≤ d := State.dirBases_high (s := s) (job := job) (by rw [h.base]; exact List.mem_singleton_self d)

theorem high : tmemBase 0 ≤ a := State.replicas_high (s := s) (job := job) (w := w) (n := 64) (by rw [h.reps]; exact List.mem_singleton_self a)

theorem index : y.index = 0 := by
  have hy : y ∈ s.dirEntries d := by rw [h.entries]; exact List.mem_singleton_self y
  obtain ⟨i, hi, rfl⟩ := List.mem_map.mp hy
  have hlen : s.devNat (d + 2) 2 = 1 := by simpa [State.dirEntries] using congrArg List.length h.entries
  rw [hlen] at hi
  exact Nat.lt_one_iff.mp (List.mem_range.mp hi)

theorem tableBase : T.base = a := by rw [h.table]; rfl

/-- The free copy lies behind the header and before the staging copy. -/
theorem free : 64 ≤ T.copyOff (1 - T.cur) ∧ T.copyOff (1 - T.cur) + T.body ≤ T.copyOff 2 := by
  have hcur := h.cur
  have hbody := h.body
  simp only [Table.copyOff]
  rcases Nat.le_one_iff_eq_zero_or_eq_one.mp hcur with h0 | h1
  · rw [h0]; omega
  · rw [h1]; omega

theorem curMod : T.cur % 2 = T.cur := Nat.mod_eq_of_lt (Nat.lt_succ_of_le h.cur)

section
variable {t : State} {ws : List (Nat × Nat × List Byte)} (hw : s.Wrote t ws) (hhead : Apart ws a 20)
include hw hhead

theorem structAt : t.structAt job w = some T := by
  rw [hw.structAt h.reps, hw.tableAt h.ok h.high hhead, ← h.table]

theorem notDouble : t.notDouble job y = (T.copies != 2) := by
  unfold State.notDouble
  rw [h.structs, List.any_cons, List.any_nil, Bool.or_false, h.structAt hw hhead]

omit hhead in
/-- The free copy receives bytes (R136 step 3). -/
theorem putCopy {bs : List Byte} (hn : bs.length = T.body) :
    s.Wrote (t.putCopy job w T bs) ((a + T.copyOff (1 - T.cur), T.body, bs) :: ws) := by
  unfold State.putCopy
  rw [h.curMod]
  exact hw.putReplicas h.reps _ hn

/-- The other copy comes into force (R136 step 4). -/
theorem flip :
    s.Wrote (t.flip job e [w])
      ((a + 8 + 5, 3, leBytes 3 0) :: (a + 8 + 4, 1, leBytes 1 (1 - T.cur)) :: (a + 8, 4, leBytes 4 ((e + 1) % 2 ^ 32)) :: ws) := by
  have hflip : t.flip job e [w] = t.putHeader job w ((e + 1) % 2 ^ 32) (1 - T.cur % 2) := by
    unfold State.flip
    rw [show [w].eraseDups = [w] from rfl]
    simp only [List.foldl_cons, List.foldl_nil, h.structAt hw hhead]
  rw [hflip, h.curMod]
  exact hw.putHeader h.reps _ _

/-- The staging copy goes to the free one, and what was staged is recorded (R137). -/
theorem applyStaged (hstage : Apart ws (a + T.copyOff 2) T.body) :
    s.Wrote (t.applyStaged job y) ((d + 108, 4, leBytes 4 (t.flag y.stage).gen.toNat) ::
      (a + T.copyOff (1 - T.cur), T.body, s.copyBytes T 2) :: ws) := by
  have hbytes : t.copyBytes T 2 = s.copyBytes T 2 := by
    unfold State.copyBytes
    rw [h.tableBase]
    exact hw.bytes_apart h.ok (Nat.le_add_right_of_le h.high) hstage
  have hlen : (s.copyBytes T 2).length = T.body := by
    unfold State.copyBytes
    rw [h.tableBase, h.ok.devGet (Nat.le_add_right_of_le h.high), bytesOf_length]
  have hstaged : t.applyStaged job y = (t.putCopy job w T (s.copyBytes T 2)).putDir job 108 (leBytes 4 (t.flag y.stage).gen.toNat) := by
    unfold State.applyStaged
    rw [h.structs, h.index]
    simp only [List.foldl_cons, List.foldl_nil, h.structAt hw hhead, hbytes]
  rw [hstaged]
  exact (h.putCopy hw hlen).putField h.base 108 4 _

end

/-- A structure whose FROM is not far behind is left as it is (R136 step 5). -/
theorem refresh {v : State} {ws : List (Nat × Nat × List Byte)} (hw : s.Wrote v ws) (hnear : farBehind e (v.tableAt a).since = false)
    (hsets : (s.job job).adaptDir = true → ∀ x ∈ v.adaptEntries (d + 0x1000), farBehind e x.since = false) (b : Bool) :
    s.turnRefresh job e d (v, b) = (v, b) := by
  have hentry : ∀ z ∈ s.dirEntries d, v.refreshEntry job e z = (v, false) := by
    rw [h.entries]
    intro z hz
    obtain rfl := List.mem_singleton.mp hz
    unfold State.refreshEntry
    rw [h.structs]
    simp only [List.foldl_cons, List.foldl_nil, hw.structAt h.reps, hnear, Bool.false_eq_true, if_false]
  have hset : ∀ x ∈ s.refreshList job d (v, b), v.refreshAdapter job e x = (v, false) := by
    intro x hx
    unfold State.refreshList at hx
    split at hx
    · next ha => rw [State.refreshAdapter, hsets ha x hx, if_neg Bool.false_ne_true]
    · exact absurd hx List.not_mem_nil
  have hfirst : runAll (fun t z => t.refreshEntry job e z) (s.dirEntries d) (v, b) = (v, b) := runAll_same hentry b
  unfold State.turnRefresh
  rw [hfirst]
  exact runAll_same hset b

section
variable {ws : List (Nat × Nat × List Byte)} (hw : s.Wrote (s.turnFront job e d).state ws) (hhead : Apart ws a 20)
include hw hhead

/-- A turn that changes no structure. -/
theorem turn_same (hflips : (s.turnFront job e d).flips = [])
    (hsets : (s.job job).adaptDir = true → ∀ x ∈ (s.turnFront job e d).state.adaptEntries (d + 0x1000), farBehind e x.since = false) :
    s.Holds (s.turn job e d).track ((d + 8 + 4, 4, leBytes 4 ((e + 1) % 2 ^ 32)) ::
      (d + 8, 4, leBytes 4 ((s.devNat (d + 8) 4 + 1) % 2 ^ 32)) :: ws) := by
  have hnear : farBehind e ((s.turnFront job e d).state.tableAt a).since = false := by
    rw [hw.tableAt h.ok h.high hhead, ← h.table]
    exact h.near
  have hwork : s.turnWork job e d = ((s.turnFront job e d).state, (s.turnFront job e d).wrote || !(s.turnFront job e d).flips.isEmpty) := by
    unfold State.turnWork
    dsimp only
    rw [hflips]
    exact h.refresh hw hnear hsets _
  rw [State.turn_eq, hwork]
  exact State.Wrote.turnEnd (r := (_, _)) hw h.base s e

/-- A turn that changes the structure. -/
theorem turn_flip (hflips : (s.turnFront job e d).flips = [w])
    (hsets : (s.job job).adaptDir = true → ∀ x ∈ ((s.turnFront job e d).state.flip job e [w]).adaptEntries (d + 0x1000), farBehind e x.since = false) :
    s.Holds (s.turn job e d).track ((d + 8 + 4, 4, leBytes 4 ((e + 1) % 2 ^ 32)) ::
      (d + 8, 4, leBytes 4 ((s.devNat (d + 8) 4 + 1) % 2 ^ 32)) ::
      (a + 8 + 5, 3, leBytes 3 0) :: (a + 8 + 4, 1, leBytes 1 (1 - T.cur)) :: (a + 8, 4, leBytes 4 ((e + 1) % 2 ^ 32)) :: ws) := by
  have hv := h.flip hw hhead
  have hhigh := h.high
  have hnear : farBehind e (((s.turnFront job e d).state.flip job e [w]).tableAt a).since = false := by
    have hsince : (((s.turnFront job e d).state.flip job e [w]).tableAt a).since = (e + 1) % 2 ^ 32 := by
      show State.devNat _ (a + 8) 4 = _
      rw [hv.num (by omega), numOf_skip (by omega), numOf_skip (by omega)]
      exact numOf_same rfl (Nat.mod_lt _ (by decide))
    rw [hsince]
    exact farBehind_next e
  have hwork : s.turnWork job e d = ((s.turnFront job e d).state.flip job e [w], (s.turnFront job e d).wrote || !(s.turnFront job e d).flips.isEmpty) := by
    unfold State.turnWork
    dsimp only
    rw [hflips]
    exact h.refresh hv hnear hsets _
  rw [State.turn_eq, hwork]
  exact State.Wrote.turnEnd (r := (_, _)) hv h.base s e

end

end State.OneTable

end Sys2Proof.Machine
end

section
set_option Elab.async false
namespace Sys2Proof.Machine

/-! ### The scale directory at a turn (R136 to R138) -/

/-- From `s` to `t` the structure with header `T` at `a` and its copies stay as they are. -/
def Table.Stays (T : Table) (a : Nat) (s t : State) : Prop :=
  ∀ b, a ≤ b → b < a + T.copyOff 2 + T.body → t.mem.read 0 b = s.mem.read 0 b

/-- Its other copy comes into force, and outside FROM, CUR and that copy it stays as it is. -/
def Table.Changes (T : Table) (a e : Nat) (s t : State) : Prop :=
  t.devNat (a + 8) 4 = (e + 1) % 2 ^ 32 ∧ t.devNat (a + 12) 1 = 1 - T.cur ∧
    ∀ b, a ≤ b → b < a + T.copyOff 2 + T.body → (b < a + 8 ∨ a + 16 ≤ b) →
      (b < a + T.copyOff (1 - T.cur) ∨ a + T.copyOff (1 - T.cur) + T.body ≤ b) → t.mem.read 0 b = s.mem.read 0 b

theorem State.Holds.stays {s t : State} {ws : List (Nat × Nat × List Byte)} (hw : s.Holds t ws) {T : Table} {a : Nat}
    (hws : Apart ws a (T.copyOff 2 + T.body)) : T.Stays a s t := fun b h1 h2 => by rw [hw.read, written_apart hws h1 (by omega)]

theorem State.staged_congr {s t : State} (h : t.flags = s.flags) (y : DirEntry) : t.staged y = s.staged y := by
  unfold State.staged State.flagReached
  rw [State.flag_congr h]

/-- The new OUT_SCALE with its comparisons as propositions (R138). -/
theorem DirEntry.newScale_eq (y : DirEntry) (x : SlotSum) (was : Val) :
    y.newScale x was = fmin (fmax (if y.clipHi * x.count < x.clips * 2 ^ 32 ∨ y.mseHi * x.count < x.sse then fmul was (.fin false 9 8 0)
      else if x.clips * 2 ^ 32 < y.clipLo * x.count ∧ x.sse ≤ y.mseHi * x.count then fmul was (.fin false 15 16 0)
      else was) (val32 y.sMin)) (val32 y.sMax) := by
  simp only [DirEntry.newScale, Bool.or_eq_true, Bool.and_eq_true, decide_eq_true_eq]

namespace State.OneTable

variable {s : State} {job e d a w : Nat} {y : DirEntry} {T : Table} (h : s.OneTable job e d a w y T)
include h

theorem changes {t : State} {p q : Nat × Nat × List Byte} {ws : List (Nat × Nat × List Byte)}
    (hw : s.Holds t (p :: q :: (a + 8 + 5, 3, leBytes 3 0) :: (a + 8 + 4, 1, leBytes 1 (1 - T.cur)) :: (a + 8, 4, leBytes 4 ((e + 1) % 2 ^ 32)) :: ws))
    (hpq : Apart [p, q] a (T.copyOff 2 + T.body))
    (hws : ∀ b, a ≤ b → b < a + T.copyOff 2 + T.body →
      (b < a + T.copyOff (1 - T.cur) ∨ a + T.copyOff (1 - T.cur) + T.body ≤ b) → written (s.mem.read 0) ws b = s.mem.read 0 b) :
    T.Changes a e s t := by
  obtain ⟨p, m, bs⟩ := p
  obtain ⟨q, n, cs⟩ := q
  have hp : a + (T.copyOff 2 + T.body) ≤ p ∨ p + m ≤ a := hpq _ List.mem_cons_self
  have hq : a + (T.copyOff 2 + T.body) ≤ q ∨ q + n ≤ a := hpq _ (List.mem_cons_of_mem _ List.mem_cons_self)
  have hhigh := h.high
  obtain ⟨hfree, hbody⟩ := h.free
  refine ⟨?_, ?_, fun b h1 h2 h3 h4 => ?_⟩
  · exact hw.field (by omega) (by simp (disch := omega) only [numOf_skip, numOf_same])
  · exact hw.field (by omega) (by simp (disch := omega) only [numOf_skip, numOf_same])
  · rw [hw.read]
    simp (disch := omega) only [written_skip]
    exact hws b h1 h2 h4

/-- What the statistics of the entry add up to, from epoch 1 on. -/
theorem turnSums_find : ((s.turnSums job e d).find? fun p => p.1 == y.index).map (·.2) =
    if 1 ≤ e ∧ y.auto = true then some (s.slotSum job (turnSlot e y)) else none := by
  unfold State.turnSums State.turnAutos
  rw [h.entries]
  by_cases he : 1 ≤ e
  · cases hauto : y.auto <;> simp [he, hauto]
  · simp [he]

theorem cleared : s.Wrote (s.turnCleared job e d) [] := (State.Wrote.refl h.ok).quiet ((s.turnCleared_only job e d).mono (by decide))

/-- Without an adapter directory a turn treats the entry alone. -/
theorem turnFront_plain (hadapt : (s.job job).adaptDir = false) {r : State × List Nat}
    (hr : (s.turnCleared job e d).turnEntry job y (if 1 ≤ e ∧ y.auto = true then some (s.slotSum job (turnSlot e y)) else none) = r) :
    s.turnFront job e d = ⟨r.1, r.2, false⟩ := by
  have hjob : ((s.turnCleared job e d).job job).adaptDir = false := by rw [h.cleared.job, hadapt]
  have hturn : (s.turnCleared job e d).adaptTurn job e d = ⟨s.turnCleared job e d, [], false⟩ := by
    unfold State.adaptTurn
    rw [hjob]
    rfl
  have hbound : (s.turnCleared job e d).boundEntries job d = [] := by
    unfold State.boundEntries
    rw [hjob]
    rfl
  unfold State.turnFront
  dsimp only
  rw [hturn, hbound, h.entries]
  unfold State.turnEntries
  simp only [List.foldl_cons, List.foldl_nil, h.turnSums_find, hr, List.contains_nil, Bool.false_eq_true, if_false, List.nil_append]

section
variable (x : Option SlotSum)

theorem turnEntry_single (hkind : y.auto = true ∨ y.learned = true) (hc : T.copies ≠ 2) :
    (s.turnCleared job e d).turnEntry job y x = ((s.turnCleared job e d).dirErr job 2 y.index, []) := by
  unfold State.turnEntry
  rw [h.notDouble h.cleared (apart_nil a 20), if_pos (by simpa [hc] using hkind)]

theorem turnEntry_staged (hc : T.copies = 2) (hl : y.learned = true) (hst : s.staged y = true) :
    (s.turnCleared job e d).turnEntry job y x = (((s.turnCleared job e d).applyStaged job y).advance job (y.stage + 1) 1, [w]) := by
  unfold State.turnEntry
  rw [h.notDouble h.cleared (apart_nil a 20), if_neg (by simp [hc]), State.staged_congr (s.turnCleared_only job e d .flags rfl), hl, hst, h.structs]
  exact if_pos rfl

end

theorem turnEntry_auto (hc : T.copies = 2) (hns : y.learned = false ∨ s.staged y = false) (hauto : y.auto = true) (x : SlotSum) :
    (s.turnCleared job e d).turnEntry job y (some x) = (s.turnCleared job e d).autoEntry job y x := by
  have hno : (y.learned && s.staged y) = false := Bool.and_eq_false_iff.mpr hns
  unfold State.turnEntry
  rw [h.notDouble h.cleared (apart_nil a 20), if_neg (by simp [hc]), State.staged_congr (s.turnCleared_only job e d .flags rfl), hno, hauto]
  exact if_neg Bool.false_ne_true

/-- ERR and ERR_ENTRY of the directory are the only news of a turn that reports an error. -/
theorem turn_err {code : Nat} (hcode : code < 2 ^ 16)
    (hfront : s.turnFront job e d = ⟨(s.turnCleared job e d).dirErr job code y.index, [], false⟩) (hadapt : (s.job job).adaptDir = false) :
    (s.turn job e d).track.devNat (d + 16) 2 = code ∧ (s.turn job e d).track.devNat (d + 18) 2 = 0 ∧ T.Stays a s (s.turn job e d).track := by
  have herr : s.Wrote (s.turnFront job e d).state [(d + 16 + 2, 2, leBytes 2 0), (d + 16, 2, leBytes 2 code)] := by
    rw [hfront]
    unfold State.dirErr
    rw [h.index]
    exact h.cleared.putFields h.base 16 2 code 2 0
  have hdir := h.dirHigh
  have hlie := h.apart
  obtain ⟨hfree, hbody⟩ := h.free
  have hend := h.turn_same herr (apart_cons (by omega) (apart_cons (by omega) (apart_nil a 20))) (by rw [hfront])
    fun ha => absurd (hadapt.symm.trans ha) Bool.false_ne_true
  refine ⟨?_, ?_, hend.stays ?_⟩
  · exact hend.field (by omega) (by simp (disch := omega) only [numOf_skip, numOf_same])
  · exact hend.field (by omega) (by simp (disch := omega) only [numOf_skip, numOf_same])
  · exact apart_cons (by omega) (apart_cons (by omega) (apart_cons (by omega) (apart_cons (by omega) (apart_nil _ _))))

/-- A turn that finds nothing to do leaves the table. -/
theorem turn_idle (hfront : s.turnFront job e d = ⟨s.turnCleared job e d, [], false⟩) (hadapt : (s.job job).adaptDir = false) :
    T.Stays a s (s.turn job e d).track := by
  have hlie := h.apart
  obtain ⟨hfree, hbody⟩ := h.free
  have hend := h.turn_same (by rw [hfront]; exact h.cleared) (apart_nil a 20) (by rw [hfront])
    fun ha => absurd (hadapt.symm.trans ha) Bool.false_ne_true
  exact hend.stays (apart_cons (by omega) (apart_cons (by omega) (apart_nil _ _)))

theorem copyBytes_length (k : Nat) : (s.copyBytes T k).length = T.body := by
  unfold State.copyBytes
  rw [h.tableBase, h.ok.devGet (Nat.le_add_right_of_le h.high), bytesOf_length]

/-- R137: a staged update of a LEARNED entry. -/
theorem turn_staged (hadapt : (s.job job).adaptDir = false) (hl : y.learned = true) (hc : T.copies = 2) (hst : s.staged y = true) :
    (s.turn job e d).track.devGet (a + T.copyOff (1 - T.cur)) T.body = s.copyBytes T 2 ∧
    (s.turn job e d).track.devNat (d + 108) 4 = (s.flag y.stage).gen.toNat ∧
    ((s.flag (y.stage + 1)).poison = false → ((s.turn job e d).track.flag (y.stage + 1)).gen = (s.flag (y.stage + 1)).gen + 1) ∧
    T.Changes a e s (s.turn job e d).track := by
  have hfront : s.turnFront job e d = ⟨((s.turnCleared job e d).applyStaged job y).advance job (y.stage + 1) 1, [w], false⟩ :=
    h.turnFront_plain hadapt (r := (_, _)) (h.turnEntry_staged _ hc hl hst)
  have hflag (k : Nat) : ((s.turnCleared job e d).applyStaged job y).flag k = s.flag k :=
    State.flag_congr ((State.applyStaged_only _ _ _ .flags rfl).trans (s.turnCleared_only job e d .flags rfl)) k
  have hcopy := h.applyStaged h.cleared (apart_nil a 20) (apart_nil _ _)
  rw [State.flag_congr (s.turnCleared_only job e d .flags rfl)] at hcopy
  have hwork : s.Wrote (s.turnFront job e d).state
      [(d + 108, 4, leBytes 4 (s.flag y.stage).gen.toNat), (a + T.copyOff (1 - T.cur), T.body, s.copyBytes T 2)] := by
    rw [hfront]
    exact hcopy.quiet ((State.advance_only _ _ _ _).mono (by decide))
  have hdir := h.dirHigh
  have hhigh := h.high
  have hlie := h.apart
  obtain ⟨hfree, hbody⟩ := h.free
  have hend := h.turn_flip hwork (apart_cons (by omega) (apart_cons (by omega) (apart_nil a 20))) (by rw [hfront])
    fun ha => absurd (hadapt.symm.trans ha) Bool.false_ne_true
  refine ⟨?_, ?_, fun hp => ?_, h.changes hend (apart_cons (by omega) (apart_cons (by omega) (apart_nil _ _))) fun b h1 h2 h3 => ?_⟩
  · rw [hend.bytes (by omega)]
    simp (disch := omega) only [bytesOf_skip]
    exact bytesOf_same rfl (h.copyBytes_length 2)
  · exact hend.field (by omega) (by simp (disch := omega) only [numOf_skip, numOf_same])
  · rw [State.flag_congr (s.turn_flags job e d), hfront, State.advance_gen job (by rw [hflag, hp]), hflag]
  · rw [written_skip (by omega), written_skip (by omega)]
    rfl

section
variable (hadapt : (s.job job).adaptDir = false) (hauto : y.auto = true) (hns : y.learned = false ∨ s.staged y = false) (hc : T.copies = 2) (he : 1 ≤ e)
include hadapt hauto hns hc he

/-- R138: an AUTO entry is treated with the sums of its statistics. -/
theorem turnFront_auto {r : State × List Nat} (hr : (s.turnCleared job e d).autoEntry job y (s.slotSum job (turnSlot e y)) = r) :
    s.turnFront job e d = ⟨r.1, r.2, false⟩ :=
  h.turnFront_plain hadapt (by rw [if_pos ⟨he, hauto⟩, h.turnEntry_auto hc hns hauto, hr])

theorem turn_conflict (hx : (s.slotSum job (turnSlot e y)).conflict = true) :
    (s.turn job e d).track.devNat (d + 16) 2 = 3 ∧ (s.turn job e d).track.devNat (d + 18) 2 = 0 ∧ T.Stays a s (s.turn job e d).track :=
  h.turn_err (by decide) (h.turnFront_auto hadapt hauto hns hc he (r := ((s.turnCleared job e d).dirErr job 3 y.index, []))
    (by rw [State.autoEntry, if_pos hx])) hadapt

variable (hx : (s.slotSum job (turnSlot e y)).conflict = false)
include hx

theorem turn_saturated (hsat : (s.slotSum job (turnSlot e y)).saturated = true) :
    (s.turn job e d).track.devNat (d + 16) 2 = 1 ∧ (s.turn job e d).track.devNat (d + 18) 2 = 0 ∧ T.Stays a s (s.turn job e d).track :=
  h.turn_err (by decide) (h.turnFront_auto hadapt hauto hns hc he (r := ((s.turnCleared job e d).dirErr job 1 y.index, []))
    (by rw [State.autoEntry, if_neg (by rw [hx]; exact Bool.false_ne_true), if_pos hsat])) hadapt

variable (hsat : (s.slotSum job (turnSlot e y)).saturated = false) (htab : y.table = some w) {old : Nat} (hold : old = s.devNat (a + T.copyOff T.cur) 4)
  {new : Val} (hnew : y.newScale (s.slotSum job (turnSlot e y)) (val32 old) = new)
include hsat htab hold hnew

omit hadapt hauto hns hc he in
/-- R138: an AUTO entry whose sums are sound keeps its OUT_SCALE or takes the new one. -/
theorem autoEntry_sound : (s.turnCleared job e d).autoEntry job y (s.slotSum job (turnSlot e y)) =
    if (s.slotSum job (turnSlot e y)).count < max y.nMin 1 ∨ new.code32 = old then (s.turnCleared job e d, [])
    else ((s.turnCleared job e d).rescaleEntry job y new, [w]) := by
  have hread : (s.turnCleared job e d).devNat (T.base + T.copyOff T.cur) 4 = old := by
    rw [h.tableBase, hold]
    exact h.cleared.num_apart h.ok (Nat.le_add_right_of_le h.high) (apart_nil _ _)
  unfold State.autoEntry
  rw [if_neg (by rw [hx]; exact Bool.false_ne_true), if_neg (by rw [hsat]; exact Bool.false_ne_true), htab, Option.bind_some,
    h.structAt h.cleared (apart_nil a 20)]
  simp only [hread, hnew, h.structs, Bool.or_eq_true, decide_eq_true_eq, beq_iff_eq]

theorem turn_few (hfew : (s.slotSum job (turnSlot e y)).count < max y.nMin 1 ∨ new.code32 = old) : T.Stays a s (s.turn job e d).track :=
  h.turn_idle (h.turnFront_auto hadapt hauto hns hc he (r := (_, _))
    ((h.autoEntry_sound hx hsat htab hold hnew).trans (if_pos hfew))) hadapt

/-- R138: the free copy takes OUT_SCALE and OUT_INV, and the rest of the copy in force. -/
theorem turn_rescaled (hlinks : y.links = []) (hbody : 8 ≤ T.body) (hmany : max y.nMin 1 ≤ (s.slotSum job (turnSlot e y)).count) (hne : new.code32 ≠ old) :
    (s.turn job e d).track.devNat (a + T.copyOff (1 - T.cur)) 4 = new.code32 ∧
    (s.turn job e d).track.devNat (a + T.copyOff (1 - T.cur) + 4) 4 = (fdiv (Val.ofNat 1) new).code32 ∧
    (s.turn job e d).track.devGet (a + T.copyOff (1 - T.cur) + 8) (T.body - 8) = s.devGet (a + T.copyOff T.cur + 8) (T.body - 8) ∧
    T.Changes a e s (s.turn job e d).track := by
  have hdir := h.dirHigh
  have hhigh := h.high
  have hlie := h.apart
  obtain ⟨hfree, hstage⟩ := h.free
  have hfront : s.turnFront job e d = ⟨(s.turnCleared job e d).rescaleEntry job y new, [w], false⟩ :=
    h.turnFront_auto hadapt hauto hns hc he (r := (_, _))
      ((h.autoEntry_sound hx hsat htab hold hnew).trans (if_neg (by omega)))
  have hrest : ((s.turnCleared job e d).copyBytes T T.cur).drop 8 = s.devGet (a + T.copyOff T.cur + 8) (T.body - 8) := by
    unfold State.copyBytes
    rw [h.tableBase, h.cleared.bytes_apart h.ok (by omega) (apart_nil _ _), h.ok.devGet (by omega), bytesOf_drop, h.ok.devGet (by omega)]
  have hlen : (s.devGet (a + T.copyOff T.cur + 8) (T.body - 8)).length = T.body - 8 := by rw [h.ok.devGet (by omega), bytesOf_length]
  have hput : (s.turnCleared job e d).rescaleEntry job y new = (s.turnCleared job e d).putCopy job w T
      (leBytes 4 new.code32 ++ (leBytes 4 (fdiv (Val.ofNat 1) new).code32 ++ s.devGet (a + T.copyOff T.cur + 8) (T.body - 8))) := by
    unfold State.rescaleEntry
    simp only [htab, hlinks, List.foldl_nil, h.structAt h.cleared (apart_nil a 20), hrest, List.append_assoc]
  have hwork : s.Wrote (s.turnFront job e d).state [(a + T.copyOff (1 - T.cur) + 4 + 4, T.body - 8, s.devGet (a + T.copyOff T.cur + 8) (T.body - 8)),
      (a + T.copyOff (1 - T.cur) + 4, 4, leBytes 4 (fdiv (Val.ofNat 1) new).code32), (a + T.copyOff (1 - T.cur), 4, leBytes 4 new.code32)] := by
    rw [hfront, hput]
    refine (h.putCopy h.cleared (by simp only [List.length_append, leBytes_length, hlen]; omega)).rewrite fun f => ?_
    rw [show T.body = 4 + (4 + (T.body - 8)) by omega, written_append (leBytes_length _ _), written_append (leBytes_length _ _)]
    simp only [Nat.add_sub_cancel_left, ← Nat.add_assoc]
  have hend := h.turn_flip hwork (apart_cons (by omega) (apart_cons (by omega) (apart_cons (by omega) (apart_nil a 20)))) (by rw [hfront])
    fun ha => absurd (hadapt.symm.trans ha) Bool.false_ne_true
  have hcode := Val.code32_lt new
  have hinv := Val.code32_lt (fdiv (Val.ofNat 1) new)
  refine ⟨?_, ?_, ?_, h.changes hend (apart_cons (by omega) (apart_cons (by omega) (apart_nil _ _))) fun b h1 h2 h3 => ?_⟩
  · exact hend.field (by omega) (by simp (disch := omega) only [numOf_skip, numOf_same])
  · exact hend.field (by omega) (by simp (disch := omega) only [numOf_skip, numOf_same])
  · rw [hend.bytes (by omega)]
    simp (disch := omega) only [bytesOf_skip]
    exact bytesOf_same rfl hlen
  · rw [written_skip (by omega), written_skip (by omega), written_skip (by omega)]
    rfl

end

end State.OneTable

end Sys2Proof.Machine
end

section
set_option Elab.async false
namespace Sys2Proof.Machine

/-! ### The adapter directory at a turn (R183, R185 to R187) -/

/-- A directory of one entry whose adapter directory has one entry `x` too, bound to it: its only replica is at `q`, and that of the verdict record at `r`;
directory, structure, adapter set and record lie apart. -/
structure State.OneAdapter (s : State) (job e d b w q r : Nat) (y : DirEntry) (T : Table) (x : AdaptEntry) : Prop extends s.OneTable job e d b w y T where
  adapt : (s.job job).adaptDir = true
  manual : y.auto = false
  sets : s.adaptEntries (d + 0x1000) = [x]
  bound : x.scale = y.index
  copies : T.copies = 2
  setReps : s.replicas job x.base (3 * x.stride) = [q]
  bytes : x.bytes ≤ x.stride
  record : s.replicas job (s.devNat (d + 0x1000 + 16) 4 % 2 ^ 28) 64 = [r]
  setDir : q + 3 * x.stride ≤ d ∨ d + 0x2000 ≤ q
  recordDir : r + 64 ≤ d ∨ d + 0x2000 ≤ r
  setTable : q + 3 * x.stride ≤ b ∨ b + T.copyOff 2 + T.body ≤ q
  recordTable : r + 64 ≤ b ∨ b + T.copyOff 2 + T.body ≤ r
  recordSet : r + 64 ≤ q ∨ q + 3 * x.stride ≤ r
  setNear : farBehind e x.since = false

/-- The byte ERR of an adapter directory that held `old`, once a verdict has been taken (R187, R189). -/
def Probe.errCode (p : Probe) (status old : Nat) : Nat :=
  if p.taint then 3 else if status = 8 then (if p.probation then old else 4) else 5

/-- What a candidate that is turned back writes in the adapter directory. -/
def turnBackWrites (d count k v : Nat) (bs : List Byte) : List (Nat × Nat × List Byte) :=
  [(d + 0x1020, 4, leBytes 4 count), (d + 0x1014, 1, leBytes 1 0), (d + 0x104D, 3, bs), (d + 0x104C, 1, leBytes 1 k), (d + 0x1048, 4, leBytes 4 v)]

theorem numOf_append {f : Nat → Byte} {ps ws : List (Nat × Nat × List Byte)} {a n : Nat} (h : Apart ps a n) :
    numOf (written f (ps ++ ws)) a n = numOf (written f ws) a n := by
  induction ps with
  | nil => rfl
  | cons z ps ih =>
    obtain ⟨c, m, bs⟩ := z
    exact (numOf_skip (h _ List.mem_cons_self)).trans (ih fun z hz => h z (List.mem_cons_of_mem _ hz))

theorem Apart.within {ws : List (Nat × Nat × List Byte)} {a n c m : Nat} (h : Apart ws a n) (h1 : a ≤ c) (h2 : c + m ≤ a + n) : Apart ws c m :=
  fun p hp => by have := h p hp; omega

namespace State.OneAdapter

variable {s : State} {job e d b w q r : Nat} {y : DirEntry} {T : Table} {x : AdaptEntry} (h : s.OneAdapter job e d b w q r y T x)
include h

theorem setHigh : tmemBase 0 ≤ q :=
  State.replicas_high (s := s) (job := job) (w := x.base) (n := 3 * x.stride) (by rw [h.setReps]; exact List.mem_singleton_self q)

theorem recordHigh : tmemBase 0 ≤ r :=
  State.replicas_high (s := s) (job := job) (w := s.devNat (d + 0x1000 + 16) 4 % 2 ^ 28) (n := 64) (by rw [h.record]; exact List.mem_singleton_self r)

theorem setCount : s.devNat (d + 0x1000 + 2) 2 = 1 := by simpa [State.adaptEntries] using congrArg List.length h.sets

theorem setAt : s.adaptEntry (d + 0x1000) 0 = x := by
  have hsets := h.sets
  rw [State.adaptEntries, h.setCount] at hsets
  exact List.singleton_inj.mp hsets

theorem setIndex : x.index = 0 := by rw [← h.setAt]; rfl

theorem setCur : x.cur ≤ 1 := by
  rw [← h.setAt]
  exact Nat.lt_succ_iff.mp (Nat.mod_lt _ (by decide))

/-- Where everything lies. -/
theorem places : tmemBase 0 ≤ d ∧ tmemBase 0 ≤ b ∧ tmemBase 0 ≤ q ∧ tmemBase 0 ≤ r ∧ 64 ≤ T.copyOff (1 - T.cur) ∧
    T.copyOff (1 - T.cur) + T.body ≤ T.copyOff 2 ∧ (b + T.copyOff 2 + T.body ≤ d ∨ d + 0x2000 ≤ b) ∧ (r + 64 ≤ d ∨ d + 0x2000 ≤ r) ∧
    (r + 64 ≤ b ∨ b + T.copyOff 2 + T.body ≤ r) :=
  ⟨h.dirHigh, h.high, h.setHigh, h.recordHigh, h.free.1, h.free.2, h.apart, h.recordDir, h.recordTable⟩

theorem setSince : x.since = s.devNat (d + 0x1000 + 72) 4 := by
  rw [← h.setAt]
  simp only [State.adaptEntry, Nat.mul_zero, Nat.add_zero, Nat.add_assoc, Nat.reduceAdd]

section
variable {t : State} {ws : List (Nat × Nat × List Byte)} (hw : s.Wrote t ws) (hcount : Apart ws (d + 0x1000 + 2) 2)
include hw hcount

theorem sets_eq : t.adaptEntries (d + 0x1000) = [t.adaptEntry (d + 0x1000) 0] := by
  have hdir := h.dirHigh
  rw [State.adaptEntries, hw.num_apart h.ok (by omega) hcount, h.setCount]
  rfl

theorem sets_same (hset : Apart ws (d + 0x1000 + 64) 64) : t.adaptEntries (d + 0x1000) = [x] := by
  have hdir := h.dirHigh
  have hf (o n : Nat) (hon : o + n ≤ 64) : t.devNat (d + 0x1000 + 64 + o) n = s.devNat (d + 0x1000 + 64 + o) n :=
    hw.num_apart h.ok (by omega) (hset.within (by omega) (by omega))
  rw [h.sets_eq hw hcount, ← h.setAt]
  unfold State.adaptEntry
  simp only [Nat.mul_zero, Nat.add_zero, hf 4 4 (by decide), hf 8 4 (by decide), hf 12 1 (by decide), hf 16 4 (by decide), hf 20 1 (by decide)]
  rw [show t.devNat (d + 0x1000 + 64) 4 = s.devNat (d + 0x1000 + 64) 4 from hf 0 4 (by decide)]

/-- An adapter set whose FROM is not far behind is left as it is (R136 step 5). -/
theorem sets_near (hsince : farBehind e (t.devNat (d + 0x1000 + 72) 4) = false) : ∀ z ∈ t.adaptEntries (d + 0x1000), farBehind e z.since = false := by
  rw [h.sets_eq hw hcount]
  intro z hz
  obtain rfl := List.mem_singleton.mp hz
  simpa only [State.adaptEntry, Nat.mul_zero, Nat.add_zero, Nat.add_assoc, Nat.reduceAdd] using hsince

end

/-- No AUTO entry, so no statistic slot is cleared. -/
theorem turnCleared_eq : s.turnCleared job e d = s := by
  unfold State.turnCleared State.turnAutos
  rw [h.entries]
  simp [h.manual]

/-- The entry is bound to the adapter set: a turn leaves it to the adapter side. -/
theorem turnFront_eq {p : AdaptPart} {ws : List (Nat × Nat × List Byte)} (hp : s.adaptTurn job e d = p) (hw : s.Wrote p.state ws) (hhead : Apart ws b 20) :
    s.turnFront job e d = p := by
  have hbound : s.boundEntries job d = [y.index] := by
    unfold State.boundEntries
    rw [h.adapt, h.sets, ← h.bound]
    rfl
  have hskip : p.state.boundEntry job y = p.state := by
    unfold State.boundEntry
    rw [h.notDouble hw hhead, h.copies]
    simp
  unfold State.turnFront
  dsimp only
  rw [h.turnCleared_eq, hp, hbound, h.entries]
  unfold State.turnEntries
  simp only [List.foldl_cons, List.foldl_nil, List.contains_cons, beq_self_eq_true, Bool.true_or, if_true, hskip, List.append_nil]

/-- ERR once a verdict has been taken: what it holds stands where no code is written. -/
theorem verdictErrs (p : Probe) :
    s.Wrote (s.verdictErrs job r p) [(d + 0x1016, 1, leBytes 1 (p.errCode (s.devNat r 2) (s.devNat (d + 0x1016) 1)))] := by
  have hdir := h.dirHigh
  have hput {t : State} {c : Nat} (ht : s.Wrote t [(d + 0x1016, 1, leBytes 1 c)]) (v : Nat) :
      s.Wrote (t.putDir job (0x1000 + 22) (leBytes 1 v)) [(d + 0x1016, 1, leBytes 1 v)] :=
    (ht.putField h.base (0x1000 + 22) 1 v).rewrite fun _ => written_over
  have h0 : s.Wrote s [(d + 0x1016, 1, leBytes 1 (s.devNat (d + 0x1016) 1))] :=
    ⟨⟨h.ok, fun z => by rw [h.ok.devNat (by omega), leBytes_numOf]; exact (congrFun (written_own (ws := []) rfl) z).symm⟩, Only.refl _ s⟩
  have hone {t u : State} {c k : Nat} {P : Prop} [Decidable P] (ht : s.Wrote t [(d + 0x1016, 1, leBytes 1 c)])
      (hu : s.Wrote u [(d + 0x1016, 1, leBytes 1 k)]) : s.Wrote (if P then t else u) [(d + 0x1016, 1, leBytes 1 (if P then c else k))] := by
    split <;> assumption
  have h1 := hone (P := p.probation = true) h0 (hput h0 4)
  have h2 := hone (P := s.devNat r 2 = 8) h1 (hput h1 5)
  have h3 := hone (P := p.taint = true) (hput h2 3) h2
  unfold State.verdictErrs Probe.errCode
  simp only [beq_iff_eq]
  exact h3

section
variable {t : State} {ws : List (Nat × Nat × List Byte)} (hw : s.Wrote t ws)
include hw

theorem bumpDir {off : Nat} (hoff : Apart ws (d + 0x1000 + off) 4) : s.Wrote (t.bumpDir job (d + 0x1000) off)
    ((d + (0x1000 + off), 4, leBytes 4 ((s.devNat (d + 0x1000 + off) 4 + 1) % 2 ^ 32)) :: ws) := by
  have hdir := h.dirHigh
  unfold State.bumpDir
  rw [hw.num_apart h.ok (by omega) hoff]
  exact hw.putField h.base _ 4 _

variable (hcount : Apart ws (d + 0x1000 + 2) 2) (hset : Apart ws (d + 0x1000 + 64) 64)
include hcount hset

/-- R186: a kept candidate leaves probation; `k` is what the byte with CUR of the adapter set holds then. -/
theorem keepCandidate (hbump : Apart ws (d + 0x1000 + 28) 4) : ∃ k, (x.probe = true → k = x.cur) ∧
    s.Wrote (t.keepCandidate job (d + 0x1000)) ((d + 0x101C, 4, leBytes 4 ((s.devNat (d + 0x1000 + 28) 4 + 1) % 2 ^ 32)) ::
      (d + 0x1014, 1, leBytes 1 0) :: (d + 0x104C, 1, leBytes 1 k) :: ws) := by
  unfold State.keepCandidate
  rw [h.sets_same hw hcount hset]
  have hrest {u : State} {k : Nat} (hu : s.Wrote u ((d + 0x104C, 1, leBytes 1 k) :: ws)) :
      s.Wrote ((u.putDir job (0x1000 + 20) (leBytes 1 0)).bumpDir job (d + 0x1000) 28)
        ((d + 0x101C, 4, leBytes 4 ((s.devNat (d + 0x1000 + 28) 4 + 1) % 2 ^ 32)) ::
          (d + 0x1014, 1, leBytes 1 0) :: (d + 0x104C, 1, leBytes 1 k) :: ws) :=
    h.bumpDir (hu.putField h.base (0x1000 + 20) 1 0) (apart_cons (by omega) (apart_cons (by omega) hbump))
  cases hp : x.probe with
  | true =>
    refine ⟨x.cur, fun _ => rfl, ?_⟩
    simp only [List.filter_cons, List.filter_nil, hp, if_true, List.foldl_cons, List.foldl_nil, h.setIndex]
    exact hrest (hw.putField h.base (0x1000 + 64 + 64 * 0 + 12) 1 x.cur)
  | false =>
    refine ⟨numOf (written (s.mem.read 0) ws) (d + 0x104C) 1, fun hf => absurd hf Bool.false_ne_true, ?_⟩
    simp only [List.filter_cons, List.filter_nil, hp, Bool.false_eq_true, if_false, List.foldl_nil]
    refine hrest ⟨⟨hw.ok, fun z => ?_⟩, hw.only⟩
    rw [leBytes_numOf, written_own rfl, hw.read]

/-- R186: a candidate that is turned back; `v`, `k` and `bs` are what FROM, CUR and the bytes behind it hold then. -/
theorem rollBack (hbump : Apart ws (d + 0x1000 + 32) 4) : ∃ v k bs, v < 2 ^ 32 ∧ farBehind e v = false ∧
    (x.probe = true → v = (e + 1) % 2 ^ 32 ∧ k = 1 - x.cur) ∧
    s.Wrote (t.rollBack job e d) (turnBackWrites d ((s.devNat (d + 0x1000 + 32) 4 + 1) % 2 ^ 32) k v bs ++ ws) := by
  have hdir := h.dirHigh
  unfold State.rollBack
  dsimp only
  rw [h.sets_same hw hcount hset]
  have hrest {u : State} {v k : Nat} {bs : List Byte}
      (hu : s.Wrote u ((d + 0x104D, 3, bs) :: (d + 0x104C, 1, leBytes 1 k) :: (d + 0x1048, 4, leBytes 4 v) :: ws)) :
      s.Wrote ((u.putDir job (0x1000 + 20) (leBytes 1 0)).bumpDir job (d + 0x1000) 32)
        (turnBackWrites d ((s.devNat (d + 0x1000 + 32) 4 + 1) % 2 ^ 32) k v bs ++ ws) :=
    h.bumpDir (hu.putField h.base (0x1000 + 20) 1 0)
      (apart_cons (by omega) (apart_cons (by omega) (apart_cons (by omega) (apart_cons (by omega) hbump))))
  cases hp : x.probe with
  | true =>
    refine ⟨(e + 1) % 2 ^ 32, 1 - x.cur, leBytes 3 0, Nat.mod_lt _ (by decide), farBehind_next e, fun _ => ⟨rfl, rfl⟩, ?_⟩
    simp only [List.filter_cons, List.filter_nil, hp, if_true, List.foldl_cons, List.foldl_nil, h.setIndex]
    exact hrest (hw.putSet h.base (0x1000 + 64 + 64 * 0 + 8) _ _)
  | false =>
    have hsince : numOf (written (s.mem.read 0) ws) (d + 0x1048) 4 = x.since := by
      rw [numOf_apart (hset.within (by omega) (by omega)), h.setSince, h.ok.devNat (by omega)]
    refine ⟨numOf (written (s.mem.read 0) ws) (d + 0x1048) 4, numOf (written (s.mem.read 0) ws) (d + 0x104C) 1,
      bytesOf (written (s.mem.read 0) ws) (d + 0x104D) 3, numOf_lt _ _ 4, by rw [hsince]; exact h.setNear, fun hf => absurd hf Bool.false_ne_true, ?_⟩
    simp only [List.filter_cons, List.filter_nil, hp, Bool.false_eq_true, if_false, List.foldl_nil]
    refine hrest ⟨⟨hw.ok, fun z => ?_⟩, hw.only⟩
    rw [leBytes_numOf, leBytes_numOf, hw.read, written_own (written_own (written_own rfl))]

end

/-- R186: what a turn back does to the scale side: the structure of the entry turns over where its adapter set is on probation. -/
theorem probeStructs : s.probeStructs d = if x.probe = true then [w] else [] := by
  have hfind : ([y].find? fun z => z.index == x.scale) = some y := by rw [h.bound]; simp
  unfold State.probeStructs
  dsimp only
  rw [h.sets, h.entries]
  cases hp : x.probe with
  | true =>
    simp only [List.filter_cons, List.filter_nil, hp, if_true, List.flatMap_cons, List.flatMap_nil, hfind, Option.map_some, Option.getD_some, h.structs,
      List.append_nil]
  | false => simp [hp]

end State.OneAdapter

end Sys2Proof.Machine
end

section
set_option Elab.async false
namespace Sys2Proof.Machine

/-! ### Verdicts at a turn (R185 to R187) -/

/-- The end of a verdict: the record is answered with `val`, the verdict flag's generation is noted, TAINT is cleared, and the return flag advances. -/
def State.serveVerdict (s u : State) (job d val : Nat) : State :=
  (((u.putReplicas job (s.devNat (d + 0x1000 + 16) 4 % 2 ^ 28) 16 (leBytes 4 val)).putDir job (0x1000 + 44)
    (leBytes 4 (s.flag (s.devNat (d + 0x1000 + 12) 2 % 4096)).gen.toNat)).putDir job (0x1000 + 21) (leBytes 1 0)).advance job
      (s.devNat (d + 0x1000 + 12) 2 % 4096 + 1) 1

/-- What the end of a verdict writes. -/
def verdictWrites (d r gen val : Nat) : List (Nat × Nat × List Byte) :=
  [(d + 0x1015, 1, leBytes 1 0), (d + 0x102C, 4, leBytes 4 gen), (r + 16, 4, leBytes 4 val)]

/-- What a candidate that is turned back leaves in the adapter directory at `a`, and its structure's header at `b`. -/
def State.TurnedBack (s t : State) (e a b : Nat) (x : AdaptEntry) (T : Table) : Prop :=
  t.devNat (a + 72) 4 = (e + 1) % 2 ^ 32 ∧ t.devNat (a + 76) 1 = 1 - x.cur ∧ t.devNat (b + 8) 4 = (e + 1) % 2 ^ 32 ∧
    t.devNat (b + 12) 1 = 1 - T.cur ∧ t.devNat (a + 20) 1 = 0 ∧ t.devNat (a + 32) 4 = (s.devNat (a + 32) 4 + 1) % 2 ^ 32

/-- What every verdict leaves in the adapter directory at `a` and of the return flag. -/
def State.Served (s t : State) (a flag : Nat) : Prop :=
  t.devNat (a + 21) 1 = 0 ∧ t.devNat (a + 44) 4 = (s.flag flag).gen.toNat ∧
    ((s.flag (flag + 1)).poison = false → (t.flag (flag + 1)).gen = (s.flag (flag + 1)).gen + 1)

/-- What step 6 of a turn writes. -/
def State.endWrites (s : State) (e d : Nat) : List (Nat × Nat × List Byte) :=
  [(d + 8 + 4, 4, leBytes 4 ((e + 1) % 2 ^ 32)), (d + 8, 4, leBytes 4 ((s.devNat (d + 8) 4 + 1) % 2 ^ 32))]

/-- What step 4 writes of a structure with header `T` at `b`. -/
def Table.flipWrites (T : Table) (e b : Nat) : List (Nat × Nat × List Byte) :=
  [(b + 8 + 5, 3, leBytes 3 0), (b + 8 + 4, 1, leBytes 1 (1 - T.cur)), (b + 8, 4, leBytes 4 ((e + 1) % 2 ^ 32))]

namespace State.OneAdapter

variable {s : State} {job e d b w q r : Nat} {y : DirEntry} {T : Table} {x : AdaptEntry} (h : s.OneAdapter job e d b w q r y T x)
include h

theorem adaptTurn_eq : s.adaptTurn job e d =
    if (s.probe (d + 0x1000) e).takes then s.takeVerdict job e d (s.probe (d + 0x1000) e)
    else if (s.probe (d + 0x1000) e).late then s.verdictLate job e d
    else if !(s.probe (d + 0x1000) e).probation && !(s.probe (d + 0x1000) e).taint then s.applyCandidate job e d
    else ⟨s, [], false⟩ := by
  unfold State.adaptTurn
  rw [h.adapt]
  rfl

section
variable {p : Probe}

theorem takeVerdict_kept (hk : s.keeps (d + 0x1000) r p = true) : s.takeVerdict job e d p =
    ⟨s.serveVerdict ((s.verdictErrs job r p).keepCandidate job (d + 0x1000)) job d 0x3F800000, [], false⟩ := by
  unfold State.takeVerdict State.serveVerdict
  simp only [h.record, List.headD_cons, hk, if_true, Bool.not_true, Bool.false_and, Bool.false_eq_true, if_false]

theorem takeVerdict_back (hk : s.keeps (d + 0x1000) r p = false) (hp : p.probation = true) (hdue : p.due = true) : s.takeVerdict job e d p =
    ⟨s.serveVerdict ((s.verdictErrs job r p).rollBack job e d) job d 0, if x.probe = true then [w] else [], true⟩ := by
  unfold State.takeVerdict State.serveVerdict
  simp only [h.record, List.headD_cons, hk, hp, hdue, if_true, Bool.not_false, Bool.true_and, Bool.false_eq_true, if_false, h.probeStructs]

omit h in
theorem keeps_of_none (hp : p.probation = false) (a : Nat) : s.keeps a r p = false := by
  unfold State.keeps
  simp only [hp, Bool.false_and]

theorem takeVerdict_none (hp : p.probation = false) : s.takeVerdict job e d p =
    ⟨s.serveVerdict (s.verdictErrs job r p) job d 0, [], false⟩ := by
  unfold State.takeVerdict State.serveVerdict
  simp only [h.record, List.headD_cons, keeps_of_none hp, hp, Bool.not_false, Bool.true_and, Bool.false_and, Bool.false_eq_true, if_false]

end

section
variable {u : State} {ws : List (Nat × Nat × List Byte)} {val : Nat}

theorem serveVerdict (hu : s.Wrote u ws) (val : Nat) : s.Wrote (s.serveVerdict u job d val)
    (verdictWrites d r (s.flag (s.devNat (d + 0x1000 + 12) 2 % 4096)).gen.toNat val ++ ws) :=
  State.Wrote.quiet
    (((hu.putReplicas h.record 16 (leBytes_length 4 val)).putField h.base (0x1000 + 44) 4 _).putField h.base (0x1000 + 21) 1 0)
    ((State.advance_only _ _ _ _).mono (by decide))

omit h in
theorem serveVerdict_flag (hu : u.flags = s.flags) (hp : (s.flag (s.devNat (d + 0x1000 + 12) 2 % 4096 + 1)).poison = false) :
    ((s.serveVerdict u job d val).flag (s.devNat (d + 0x1000 + 12) 2 % 4096 + 1)).gen = (s.flag (s.devNat (d + 0x1000 + 12) 2 % 4096 + 1)).gen + 1 := by
  have hflag (bs cs ds : List Byte) (w k : Nat) :
      (((u.putReplicas job w 16 bs).putDir job (0x1000 + 44) cs).putDir job (0x1000 + 21) ds).flag k = s.flag k :=
    State.flag_congr (((State.putDir_only _ _ _ _ .flags rfl).trans ((State.putDir_only _ _ _ _ .flags rfl).trans
      (State.putReplicas_only u job w 16 bs .flags rfl))).trans hu) k
  unfold State.serveVerdict
  rw [State.advance_gen job (by rw [hflag]; exact hp), hflag]

/-- What every verdict leaves, whatever the rest of the turn writes elsewhere. -/
theorem served {t : State} {ps : List (Nat × Nat × List Byte)} (hval : val < 2 ^ 32)
    (hend : s.Holds t (ps ++ (verdictWrites d r (s.flag (s.devNat (d + 0x1000 + 12) 2 % 4096)).gen.toNat val ++ ws)))
    (hdir : Apart ps (d + 0x1000) 0x1000) (hrec : Apart ps r 64) (hu : u.flags = s.flags) (ht : t.flags = (s.serveVerdict u job d val).flags) :
    t.devNat (r + 16) 4 = val ∧ s.Served t (d + 0x1000) (s.devNat (d + 0x1000 + 12) 2 % 4096) := by
  have hd := h.dirHigh
  have hr := h.recordHigh
  have hlie := h.recordDir
  have hgen : (s.flag (s.devNat (d + 0x1000 + 12) 2 % 4096)).gen.toNat < 2 ^ 32 := BitVec.isLt _
  refine ⟨?_, ?_, ?_, fun hp => by rw [State.flag_congr ht, serveVerdict_flag hu hp]⟩
  · rw [hend.num (by omega), numOf_append (hrec.within (by omega) (by omega))]
    simp (disch := omega) only [verdictWrites, List.cons_append, List.nil_append, numOf_skip, numOf_same]
  · rw [hend.num (by omega), numOf_append (hdir.within (by omega) (by omega))]
    simp (disch := omega) only [verdictWrites, List.cons_append, List.nil_append, numOf_same]
  · rw [hend.num (by omega), numOf_append (hdir.within (by omega) (by omega))]
    simp (disch := omega) only [verdictWrites, List.cons_append, List.nil_append, numOf_skip, numOf_same]

end

end State.OneAdapter

end Sys2Proof.Machine
end

section
set_option Elab.async false
namespace Sys2Proof.Machine

namespace State.OneAdapter

variable {s : State} {job e d b w q r : Nat} {y : DirEntry} {T : Table} {x : AdaptEntry} (h : s.OneAdapter job e d b w q r y T x)
include h

/-- The end of a turn whose adapter side changes no structure. -/
theorem end_same {u : State} {wrote : Bool} {ws : List (Nat × Nat × List Byte)} (hp : s.adaptTurn job e d = ⟨u, [], wrote⟩) (hw : s.Wrote u ws)
    (hhead : Apart ws b 20) (hcount : Apart ws (d + 0x1000 + 2) 2)
    (hsince : farBehind e (numOf (written (s.mem.read 0) ws) (d + 0x1000 + 72) 4) = false) :
    s.Holds (s.turn job e d).track (s.endWrites e d ++ ws) ∧ (s.turn job e d).track.flags = u.flags := by
  have hd := h.dirHigh
  have hfront : s.turnFront job e d = _ := h.turnFront_eq hp hw hhead
  have hsets := h.sets_near hw hcount (by rw [hw.num (by omega)]; exact hsince)
  refine ⟨h.turn_same (by rw [hfront]; exact hw) hhead (by rw [hfront]) fun _ => by rw [hfront]; exact hsets, ?_⟩
  rw [s.turn_flags, hfront]

/-- The end of a turn whose adapter side changes the structure. -/
theorem end_flip {u : State} {wrote : Bool} {ws : List (Nat × Nat × List Byte)} (hp : s.adaptTurn job e d = ⟨u, [w], wrote⟩) (hw : s.Wrote u ws)
    (hhead : Apart ws b 20) (hcount : Apart ws (d + 0x1000 + 2) 2)
    (hsince : farBehind e (numOf (written (s.mem.read 0) ws) (d + 0x1000 + 72) 4) = false) :
    s.Holds (s.turn job e d).track (s.endWrites e d ++ (T.flipWrites e b ++ ws)) ∧ (s.turn job e d).track.flags = u.flags := by
  have hd := h.dirHigh
  have hlie := h.apart
  obtain ⟨hfree, hbody⟩ := h.free
  have hfront : s.turnFront job e d = _ := h.turnFront_eq hp hw hhead
  have hflip := h.flip hw hhead
  have hnum : farBehind e ((u.flip job e [w]).devNat (d + 0x1000 + 72) 4) = false := by
    rw [hflip.num (by omega), numOf_skip (by omega), numOf_skip (by omega), numOf_skip (by omega)]
    exact hsince
  have hsets := h.sets_near hflip (apart_cons (by omega) (apart_cons (by omega) (apart_cons (by omega) hcount))) hnum
  refine ⟨h.turn_flip (by rw [hfront]; exact hw) hhead (by rw [hfront]) fun _ => by rw [hfront]; exact hsets, ?_⟩
  rw [s.turn_flags, hfront]

/-- FROM of the adapter set where no write touches it. -/
theorem since_same {ws : List (Nat × Nat × List Byte)} (hw : Apart ws (d + 0x1000 + 72) 4) :
    farBehind e (numOf (written (s.mem.read 0) ws) (d + 0x1000 + 72) 4) = false := by
  have hd := h.dirHigh
  rw [numOf_apart hw, ← h.ok.devNat (by omega), ← h.setSince]
  exact h.setNear

/-- What is seen of a candidate that is turned back, whatever else is written elsewhere. -/
theorem turnedBack {t : State} {ms ws : List (Nat × Nat × List Byte)} {bs : List Byte}
    (hend : s.Holds t (s.endWrites e d ++ (T.flipWrites e b ++ (ms ++
      (turnBackWrites d ((s.devNat (d + 0x1000 + 32) 4 + 1) % 2 ^ 32) (1 - x.cur) ((e + 1) % 2 ^ 32) bs ++ ws)))))
    (h1 : Apart ms (d + 0x1014) 1) (h2 : Apart ms (d + 0x1020) 4) (h3 : Apart ms (d + 0x1048) 8) : s.TurnedBack t e (d + 0x1000) b x T := by
  obtain ⟨hd, hb, hq, hr, hfree, hbody, hlie, hrd, hrb⟩ := h.places
  have hcur := h.setCur
  have htab := h.cur
  simp only [State.endWrites, Table.flipWrites, turnBackWrites, List.cons_append, List.nil_append] at hend
  refine ⟨?_, ?_, ?_, ?_, ?_, ?_⟩
  · rw [hend.num (by omega)]
    simp (disch := omega) only [numOf_skip]
    rw [numOf_append (h3.within (by omega) (by omega))]
    simp (disch := omega) only [numOf_skip, numOf_same]
  · rw [hend.num (by omega)]
    simp (disch := omega) only [numOf_skip]
    rw [numOf_append (h3.within (by omega) (by omega))]
    simp (disch := omega) only [numOf_skip, numOf_same]
  · exact hend.field (by omega) (by simp (disch := omega) only [numOf_skip, numOf_same])
  · exact hend.field (by omega) (by simp (disch := omega) only [numOf_skip, numOf_same])
  · rw [hend.num (by omega)]
    simp (disch := omega) only [numOf_skip]
    rw [numOf_append (h1.within (by omega) (by omega))]
    simp (disch := omega) only [numOf_skip, numOf_same]
  · rw [hend.num (by omega)]
    simp (disch := omega) only [numOf_skip]
    rw [numOf_append (h2.within (by omega) (by omega))]
    simp (disch := omega) only [numOf_same]

theorem errOld_lt (p : Probe) : p.errCode (s.devNat r 2) (s.devNat (d + 0x1016) 1) < 256 := by
  have hd := h.dirHigh
  have hold : s.devNat (d + 0x1016) 1 < 256 := by
    rw [h.ok.devNat (by omega)]
    exact numOf_lt _ _ 1
  unfold Probe.errCode
  split
  · decide
  · split
    · split
      · exact hold
      · decide
    · decide

section
variable {p : Probe} (hp : p = s.probe (d + 0x1000) e)
include hp

section
variable (htakes : p.takes = true)
include htakes

theorem adaptTurn_takes : s.adaptTurn job e d = s.takeVerdict job e d p := by rw [h.adaptTurn_eq, ← hp, if_pos htakes]

/-- R186: a verdict that keeps the candidate. -/
theorem turn_kept (hk : s.keeps (d + 0x1000) r p = true) :
    (s.turn job e d).track.devNat (d + 0x1000 + 22) 1 = p.errCode (s.devNat r 2) (s.devNat (d + 0x1016) 1) ∧
    (x.probe = true → (s.turn job e d).track.devNat (r + 16) 4 = 0x3F800000 ∧ (s.turn job e d).track.devNat (d + 0x1000 + 76) 1 = x.cur ∧
      (s.turn job e d).track.devNat (d + 0x1000 + 20) 1 = 0 ∧
      (s.turn job e d).track.devNat (d + 0x1000 + 28) 4 = (s.devNat (d + 0x1000 + 28) 4 + 1) % 2 ^ 32 ∧
      (s.turn job e d).track.devGet b 64 = s.devGet b 64 ∧ s.Served (s.turn job e d).track (d + 0x1000) (s.devNat (d + 0x1000 + 12) 2 % 4096)) := by
  obtain ⟨hd, hb, hq, hr, hfree, hbody, hlie, hrd, hrb⟩ := h.places
  have hcur := h.setCur
  have hcode := h.errOld_lt p
  have hturn := (h.adaptTurn_takes hp htakes).trans (h.takeVerdict_kept hk)
  obtain ⟨k, hkcur, hkeep⟩ := h.keepCandidate (h.verdictErrs p) (apart_cons (by omega) (apart_nil _ _)) (apart_cons (by omega) (apart_nil _ _))
    (apart_cons (by omega) (apart_nil _ _))
  have hwork := h.serveVerdict hkeep 0x3F800000
  obtain ⟨hend, hflags⟩ := h.end_same hturn hwork
    (by simp (disch := omega) only [verdictWrites, List.cons_append, List.nil_append, apart_skip, apart_nil])
    (by simp (disch := omega) only [verdictWrites, List.cons_append, List.nil_append, apart_skip, apart_nil])
    (h.since_same (by simp (disch := omega) only [verdictWrites, List.cons_append, List.nil_append, apart_skip, apart_nil]))
  have hserved := h.served (by decide) hend (by simp (disch := omega) only [State.endWrites, apart_skip, apart_nil])
    (by simp (disch := omega) only [State.endWrites, apart_skip, apart_nil])
    ((State.keepCandidate_only _ _ _ .flags rfl).trans (State.verdictErrs_only _ _ _ _ .flags rfl)) hflags
  simp only [State.endWrites, verdictWrites, List.cons_append, List.nil_append] at hend
  refine ⟨?_, fun hprobe => ⟨hserved.1, ?_, ?_, ?_, ?_, hserved.2⟩⟩
  · exact hend.field (by omega) (by simp (disch := omega) only [numOf_skip, numOf_same])
  · rw [hend.num (by omega), hkcur hprobe]
    simp (disch := omega) only [numOf_skip, numOf_same]
  · exact hend.field (by omega) (by simp (disch := omega) only [numOf_skip, numOf_same])
  · exact hend.field (by omega) (by simp (disch := omega) only [numOf_skip, numOf_same])
  · exact hend.bytes_apart h.ok hb (by simp (disch := omega) only [apart_skip, apart_nil])

/-- R186: a verdict on no candidate. -/
theorem turn_none (hnone : p.probation = false) :
    (s.turn job e d).track.devNat (d + 0x1000 + 22) 1 = p.errCode (s.devNat r 2) (s.devNat (d + 0x1016) 1) ∧
    (s.turn job e d).track.devNat (r + 16) 4 = 0 ∧ (s.turn job e d).track.devNat (d + 0x1000 + 20) 1 = s.devNat (d + 0x1000 + 20) 1 ∧
    (s.turn job e d).track.devGet b 64 = s.devGet b 64 ∧ s.Served (s.turn job e d).track (d + 0x1000) (s.devNat (d + 0x1000 + 12) 2 % 4096) := by
  obtain ⟨hd, hb, hq, hr, hfree, hbody, hlie, hrd, hrb⟩ := h.places
  have hcode := h.errOld_lt p
  have hturn := (h.adaptTurn_takes hp htakes).trans (h.takeVerdict_none hnone)
  have hwork := h.serveVerdict (h.verdictErrs p) 0
  obtain ⟨hend, hflags⟩ := h.end_same hturn hwork
    (by simp (disch := omega) only [verdictWrites, List.cons_append, List.nil_append, apart_skip, apart_nil])
    (by simp (disch := omega) only [verdictWrites, List.cons_append, List.nil_append, apart_skip, apart_nil])
    (h.since_same (by simp (disch := omega) only [verdictWrites, List.cons_append, List.nil_append, apart_skip, apart_nil]))
  have hserved := h.served (by decide) hend (by simp (disch := omega) only [State.endWrites, apart_skip, apart_nil])
    (by simp (disch := omega) only [State.endWrites, apart_skip, apart_nil]) (State.verdictErrs_only _ _ _ _ .flags rfl) hflags
  simp only [State.endWrites, verdictWrites, List.cons_append, List.nil_append] at hend
  refine ⟨?_, hserved.1, ?_, ?_, hserved.2⟩
  · exact hend.field (by omega) (by simp (disch := omega) only [numOf_skip, numOf_same])
  · exact hend.num_apart h.ok (by omega) (by simp (disch := omega) only [apart_skip, apart_nil])
  · exact hend.bytes_apart h.ok hb (by simp (disch := omega) only [apart_skip, apart_nil])

section
variable (hk : s.keeps (d + 0x1000) r p = false) (hprob : p.probation = true) (hdue : p.due = true)
include hk hprob hdue

/-- R186: a verdict that turns the candidate back, whose adapter set is on probation. -/
theorem turn_back (hprobe : x.probe = true) :
    (s.turn job e d).track.devNat (d + 0x1000 + 22) 1 = p.errCode (s.devNat r 2) (s.devNat (d + 0x1016) 1) ∧
    (s.turn job e d).track.devNat (r + 16) 4 = 0 ∧ s.TurnedBack (s.turn job e d).track e (d + 0x1000) b x T ∧
    s.Served (s.turn job e d).track (d + 0x1000) (s.devNat (d + 0x1000 + 12) 2 % 4096) := by
  obtain ⟨hd, hb, hq, hr, hfree, hbody, hlie, hrd, hrb⟩ := h.places
  have hcode := h.errOld_lt p
  have hturn := (h.adaptTurn_takes hp htakes).trans (h.takeVerdict_back hk hprob hdue)
  rw [if_pos hprobe] at hturn
  obtain ⟨v, k, bs, -, -, hset, hroll⟩ := h.rollBack (h.verdictErrs p) (apart_cons (by omega) (apart_nil _ _)) (apart_cons (by omega) (apart_nil _ _))
    (apart_cons (by omega) (apart_nil _ _))
  obtain ⟨rfl, rfl⟩ := hset hprobe
  have hwork := h.serveVerdict hroll 0
  obtain ⟨hend, hflags⟩ := h.end_flip hturn hwork
    (by simp (disch := omega) only [verdictWrites, turnBackWrites, List.cons_append, List.nil_append, apart_skip, apart_nil])
    (by simp (disch := omega) only [verdictWrites, turnBackWrites, List.cons_append, List.nil_append, apart_skip, apart_nil])
    (by
      simp (disch := omega) only [verdictWrites, turnBackWrites, List.cons_append, List.nil_append, numOf_skip, numOf_same]
      exact farBehind_next e)
  have hserved := h.served (ps := s.endWrites e d ++ T.flipWrites e b) (by decide) (by rw [List.append_assoc]; exact hend)
    (by simp (disch := omega) only [State.endWrites, Table.flipWrites, List.cons_append, List.nil_append, apart_skip, apart_nil])
    (by simp (disch := omega) only [State.endWrites, Table.flipWrites, List.cons_append, List.nil_append, apart_skip, apart_nil])
    ((State.rollBack_only _ _ _ _ .flags rfl).trans (State.verdictErrs_only _ _ _ _ .flags rfl)) hflags
  have hback := h.turnedBack hend (by simp (disch := omega) only [verdictWrites, apart_skip, apart_nil])
    (by simp (disch := omega) only [verdictWrites, apart_skip, apart_nil]) (by simp (disch := omega) only [verdictWrites, apart_skip, apart_nil])
  refine ⟨hend.field (by omega) ?_, hserved.1, hback, hserved.2⟩
  simp (disch := omega) only [State.endWrites, Table.flipWrites, verdictWrites, turnBackWrites, List.cons_append, List.nil_append, numOf_skip, numOf_same]

/-- R186: a verdict that turns a candidate back without an adapter set on probation. -/
theorem turn_back_bare (hprobe : x.probe = false) :
    (s.turn job e d).track.devNat (d + 0x1000 + 22) 1 = p.errCode (s.devNat r 2) (s.devNat (d + 0x1016) 1) := by
  obtain ⟨hd, hb, hq, hr, hfree, hbody, hlie, hrd, hrb⟩ := h.places
  have hcode := h.errOld_lt p
  have hturn := (h.adaptTurn_takes hp htakes).trans (h.takeVerdict_back hk hprob hdue)
  rw [if_neg (by rw [hprobe]; exact Bool.false_ne_true)] at hturn
  obtain ⟨v, k, bs, hv, hnear, -, hroll⟩ := h.rollBack (h.verdictErrs p) (apart_cons (by omega) (apart_nil _ _)) (apart_cons (by omega) (apart_nil _ _))
    (apart_cons (by omega) (apart_nil _ _))
  obtain ⟨hend, -⟩ := h.end_same hturn (h.serveVerdict hroll 0)
    (by simp (disch := omega) only [verdictWrites, turnBackWrites, List.cons_append, List.nil_append, apart_skip, apart_nil])
    (by simp (disch := omega) only [verdictWrites, turnBackWrites, List.cons_append, List.nil_append, apart_skip, apart_nil])
    (by
      simp (disch := omega) only [verdictWrites, turnBackWrites, List.cons_append, List.nil_append, numOf_skip, numOf_same]
      exact hnear)
  refine hend.field (by omega) ?_
  simp (disch := omega) only [State.endWrites, verdictWrites, turnBackWrites, List.cons_append, List.nil_append, numOf_skip, numOf_same]

end

/-- ERR after a verdict, whatever the verdict is (R187, R189). -/
theorem turn_errCode : (s.turn job e d).track.devNat (d + 0x1000 + 22) 1 = p.errCode (s.devNat r 2) (s.devNat (d + 0x1016) 1) := by
  cases hprob : p.probation with
  | false => exact (h.turn_none hp htakes hprob).1
  | true =>
    have hdue : p.due = true := by
      have ht := htakes
      simp only [Probe.takes, hprob, Bool.not_true, Bool.false_or, Bool.and_eq_true] at ht
      exact ht.2
    cases hk : s.keeps (d + 0x1000) r p with
    | true => exact (h.turn_kept hp htakes hk).1
    | false =>
      cases hprobe : x.probe with
      | true => exact (h.turn_back hp htakes hk hprob hdue hprobe).1
      | false => exact h.turn_back_bare hp htakes hk hprob hdue hprobe

end
end

end State.OneAdapter

end Sys2Proof.Machine
end

section
set_option Elab.async false
namespace Sys2Proof.Machine

/-- The staged copies of a candidate in the free copies, and the candidate on probation (R183). -/
def State.onProbation (s : State) (job e d : Nat) (y : DirEntry) (x : AdaptEntry) : State :=
  ((((s.applyStaged job y).applyAdapter job e x).putDir job (0x1000 + 20) (leBytes 1 1)).putDir job (0x1000 + 36)
    (leBytes 4 ((e + 1) % 2 ^ 32) ++ leBytes 4 (s.flag y.stage).gen.toNat)).bumpDir job (d + 0x1000) 24

theorem State.onProbation_flag (s : State) (job e d : Nat) (y : DirEntry) (x : AdaptEntry) (k : Nat) : (s.onProbation job e d y x).flag k = s.flag k := by
  have honly : Only [.mem, .badWords, .softWords] s (s.onProbation job e d y x) :=
    (State.bumpDir_only _ _ _ _).step (by decide) ((State.putDir_only _ _ _ _).step (by decide) ((State.putDir_only _ _ _ _).step (by decide)
      ((State.applyAdapter_only _ _ _ _).step (by decide) (State.applyStaged_only _ _ _))))
  exact State.flag_congr (honly .flags rfl) k

namespace State.OneAdapter

variable {s : State} {job e d b w q r : Nat} {y : DirEntry} {T : Table} {x : AdaptEntry} (h : s.OneAdapter job e d b w q r y T x)
include h

section
variable {p : Probe} (hp : p = s.probe (d + 0x1000) e)
include hp

/-- R187: no verdict has come in time. -/
theorem turn_late (htakes : p.takes = false) (hprob : p.probation = true) (hover : p.overdue = true) (hprobe : x.probe = true) :
    (s.turn job e d).track.devNat (d + 0x1000 + 21) 1 = 1 ∧ (s.turn job e d).track.devNat (d + 0x1000 + 22) 1 = 2 ∧
      s.TurnedBack (s.turn job e d).track e (d + 0x1000) b x T := by
  obtain ⟨hd, hb, hq, hr, hfree, hbody, hlie, hrd, hrb⟩ := h.places
  have hturn : s.adaptTurn job e d = ⟨(s.rollBack job e d).putDir job (0x1000 + 21) (leBytes 1 1 ++ leBytes 1 2), [w], true⟩ := by
    have herr : leBytes 1 1 ++ leBytes 1 2 = leBytes 2 0x0201 := by decide
    have hlate : p.late = true := by simp only [Probe.late, htakes, hprob, hover, Bool.not_false, Bool.and_self]
    rw [h.adaptTurn_eq, ← hp, if_neg (by rw [htakes]; exact Bool.false_ne_true), if_pos hlate, State.verdictLate, h.probeStructs, if_pos hprobe, herr]
  obtain ⟨v, k, bs, -, -, hset, hroll⟩ := h.rollBack (State.Wrote.refl h.ok) (apart_nil _ _) (apart_nil _ _) (apart_nil _ _)
  obtain ⟨rfl, rfl⟩ := hset hprobe
  have hwork := hroll.putFields h.base (0x1000 + 21) 1 1 1 2
  obtain ⟨hend, -⟩ := h.end_flip hturn hwork
    (by simp (disch := omega) only [turnBackWrites, List.cons_append, List.nil_append, apart_skip, apart_nil])
    (by simp (disch := omega) only [turnBackWrites, List.cons_append, List.nil_append, apart_skip, apart_nil])
    (by
      simp (disch := omega) only [turnBackWrites, List.cons_append, List.nil_append, numOf_skip, numOf_same]
      exact farBehind_next e)
  refine ⟨?_, ?_, h.turnedBack (ms := [_, _]) hend (by simp (disch := omega) only [apart_skip, apart_nil])
    (by simp (disch := omega) only [apart_skip, apart_nil]) (by simp (disch := omega) only [apart_skip, apart_nil])⟩
  · exact hend.field (by omega) (by simp (disch := omega) only [State.endWrites, Table.flipWrites, List.cons_append, List.nil_append, numOf_skip, numOf_same])
  · exact hend.field (by omega) (by simp (disch := omega) only [State.endWrites, Table.flipWrites, List.cons_append, List.nil_append, numOf_skip, numOf_same])

end

/-! ### A staged candidate comes into force (R183) -/

omit h in
/-- The free copy of an adapter set lies before its staging copy. -/
theorem free_le (hcur : x.cur ≤ 1) : (1 - x.cur) * x.stride + x.stride ≤ 2 * x.stride := by
  rcases Nat.le_one_iff_eq_zero_or_eq_one.mp hcur with h0 | h1
  · rw [h0]; omega
  · rw [h1]; omega

/-- What a candidate that comes into force writes. -/
theorem applyAdapter {t : State} {ws : List (Nat × Nat × List Byte)} (hw : s.Wrote t ws) (hstage : Apart ws (q + 2 * x.stride) x.bytes) :
    s.Wrote (t.applyAdapter job e x) ((d + 0x104D, 3, leBytes 3 0) :: (d + 0x104C, 1, leBytes 1 (1 - x.cur + 2)) ::
      (d + 0x1048, 4, leBytes 4 ((e + 1) % 2 ^ 32)) :: (q + (1 - x.cur) * x.stride, x.bytes, s.devGet (q + 2 * x.stride) x.bytes) :: ws) := by
  have hq := h.setHigh
  unfold State.applyAdapter
  dsimp only
  rw [hw.replicas, h.setReps, List.foldl_cons, List.foldl_nil, hw.bytes_apart h.ok (by omega) hstage, h.setIndex]
  exact (hw.devPut (by rw [h.ok.devGet (by omega), bytesOf_length])).putSet h.base (0x1000 + 64 + 64 * 0 + 8) _ _

/-- The only candidate, where one is staged. -/
theorem applyCandidate_eq (hst : s.staged y = true) : s.applyCandidate job e d =
    ⟨(s.onProbation job e d y x).advance job (y.stage + 1) 1, [w], true⟩ := by
  have hfind : ([y].find? fun z => z.index == x.scale) = some y := by rw [h.bound]; simp
  have hdouble : s.notDouble job y = false := by
    rw [h.notDouble (State.Wrote.refl h.ok) (apart_nil b 20), h.copies]
    rfl
  unfold State.applyCandidate State.onProbation
  simp only [h.sets, h.entries, List.filterMap_cons, List.filterMap_nil, hfind, Option.map_some, List.filter_cons, List.filter_nil, hst, hdouble,
    Bool.not_false, Bool.and_self, if_true, List.head?_cons, List.foldl_cons, List.foldl_nil, List.flatMap_cons, List.flatMap_nil, h.structs,
    List.append_nil]

/-- R183: with no candidate on probation a staged one comes into force and goes on probation. -/
theorem turn_applied (harr : (s.probe (d + 0x1000) e).arrived = false) (hprob : (s.probe (d + 0x1000) e).probation = false)
    (htaint : (s.probe (d + 0x1000) e).taint = false) (hst : s.staged y = true) :
    (s.turn job e d).track.devGet (q + (1 - x.cur) * x.stride) x.bytes = s.devGet (q + 2 * x.stride) x.bytes ∧
    (s.turn job e d).track.devGet (b + T.copyOff (1 - T.cur)) T.body = s.copyBytes T 2 ∧
    (s.turn job e d).track.devNat (b + 8) 4 = (e + 1) % 2 ^ 32 ∧ (s.turn job e d).track.devNat (b + 12) 1 = 1 - T.cur ∧
    (s.turn job e d).track.devNat (d + 0x1000 + 72) 4 = (e + 1) % 2 ^ 32 ∧ (s.turn job e d).track.devNat (d + 0x1000 + 76) 1 = 3 - x.cur ∧
    (s.turn job e d).track.devNat (d + 0x1000 + 20) 1 = 1 ∧
    (s.turn job e d).track.devNat (d + 0x1000 + 24) 4 = (s.devNat (d + 0x1000 + 24) 4 + 1) % 2 ^ 32 ∧
    (s.turn job e d).track.devNat (d + 0x1000 + 36) 4 = (e + 1) % 2 ^ 32 ∧
    (s.turn job e d).track.devNat (d + 0x1000 + 40) 4 = (s.flag y.stage).gen.toNat ∧
    ((s.flag (y.stage + 1)).poison = false → ((s.turn job e d).track.flag (y.stage + 1)).gen = (s.flag (y.stage + 1)).gen + 1) := by
  obtain ⟨hd, hb, hq, -, hfree, hbody, hlie, -, -⟩ := h.places
  have hcur := h.setCur
  have htab := h.cur
  have hset := free_le hcur
  have hbytes := h.bytes
  have hqd := h.setDir
  have hqb := h.setTable
  have hgen : (s.flag y.stage).gen.toNat < 2 ^ 32 := BitVec.isLt _
  have hturn : s.adaptTurn job e d = ⟨(s.onProbation job e d y x).advance job (y.stage + 1) 1, [w], true⟩ := by
    rw [h.adaptTurn_eq, if_neg (by simp only [Probe.takes, harr, Bool.false_and, Bool.false_eq_true, not_false_eq_true]),
      if_neg (by simp only [Probe.late, hprob, Bool.and_false, Bool.false_and, Bool.false_eq_true, not_false_eq_true]),
      if_pos (by rw [hprob, htaint]; rfl), h.applyCandidate_eq hst]
  have hstaged := h.applyStaged (State.Wrote.refl h.ok) (apart_nil b 20) (apart_nil _ _)
  have hcandidate := h.applyAdapter hstaged (by simp (disch := omega) only [apart_skip, apart_nil])
  have hprobation := (hcandidate.putField h.base (0x1000 + 20) 1 1).putFields h.base (0x1000 + 36) 4 ((e + 1) % 2 ^ 32) 4 (s.flag y.stage).gen.toNat
  have hbumped := h.bumpDir (off := 24) hprobation (by simp (disch := omega) only [apart_skip, apart_nil])
  have hwork := hbumped.quiet ((State.advance_only _ job (y.stage + 1) 1).mono (by decide))
  obtain ⟨hend, hflags⟩ := h.end_flip hturn hwork (by simp (disch := omega) only [apart_skip, apart_nil])
    (by simp (disch := omega) only [apart_skip, apart_nil])
    (by
      simp (disch := omega) only [numOf_skip, numOf_same]
      exact farBehind_next e)
  simp only [State.endWrites, Table.flipWrites, List.cons_append, List.nil_append] at hend
  refine ⟨?_, ?_, ?_, ?_, ?_, ?_, ?_, ?_, ?_, ?_, fun hp => ?_⟩
  · rw [hend.bytes (by omega)]
    simp (disch := omega) only [bytesOf_skip]
    exact bytesOf_same rfl (by rw [h.ok.devGet (by omega), bytesOf_length])
  · rw [hend.bytes (by omega)]
    simp (disch := omega) only [bytesOf_skip]
    exact bytesOf_same rfl (h.copyBytes_length 2)
  · exact hend.field (by omega) (by simp (disch := omega) only [numOf_skip, numOf_same])
  · exact hend.field (by omega) (by simp (disch := omega) only [numOf_skip, numOf_same])
  · exact hend.field (by omega) (by simp (disch := omega) only [numOf_skip, numOf_same])
  · rw [hend.num (by omega)]
    simp (disch := omega) only [numOf_skip, numOf_same]
    omega
  · exact hend.field (by omega) (by simp (disch := omega) only [numOf_skip, numOf_same])
  · exact hend.field (by omega) (by simp (disch := omega) only [numOf_skip, numOf_same])
  · exact hend.field (by omega) (by simp (disch := omega) only [numOf_skip, numOf_same])
  · exact hend.field (by omega) (by simp (disch := omega) only [numOf_skip, numOf_same])
  · rw [State.flag_congr hflags, State.advance_gen job (by rw [State.onProbation_flag, hp]), State.onProbation_flag]

end State.OneAdapter

/-- Settles O25: `State.turn_engine` and `State.turn_dir` for every directory; for one table the outcomes of `State.OneTable`, and for an adapter set those
of `State.OneAdapter`. -/
theorem turnAdvancesTheEpoch : Obligations.TurnAdvancesTheEpoch := by
  unfold Obligations.TurnAdvancesTheEpoch
  intro s job e hok hpend
  refine ⟨fun h => exec_turn_paused h job, fun d hrun hd hl => exec_turn_waits hpend hrun hd hl, fun d hrun hd hl => ?_, fun hrun hd => ?_, ?_, ?_⟩
  · obtain ⟨hdone, hnone, hjobs⟩ := s.turn_job job e d
    have heng := s.turn_engine job e d
    have hslot (g k : Nat) : (g ∈ s.jobEngines job ∧ ∃ y ∈ s.turnAutos e d, k = turnSlot e y) ↔
        (1 ≤ e ∧ g ∈ s.jobEngines job ∧ ∃ y ∈ s.dirEntries d, y.auto = true ∧ k = y.slot / 2 * 2 + (e + 1) % 2) := by
      simp only [State.mem_turnAutos, turnSlot]
      exact ⟨fun ⟨hg, y, ⟨he, hy, ha⟩, hk⟩ => ⟨he, hg, y, hy, ha, hk⟩, fun ⟨he, hg, y, hy, ha, hk⟩ => ⟨hg, y, ⟨he, hy, ha⟩, hk⟩⟩
    refine ⟨(s.turn job e d).track, exec_turn hpend hrun hd hl, hdone, hnone, hjobs, fun hb => State.turn_dir hok hb e,
      fun g k hk => ?_, fun g k hk => ?_, fun g => (heng g).2, ?_⟩
    · rw [(heng g).1, if_pos ((hslot g k).mpr hk)]
    · rw [(heng g).1, if_neg fun hc => hk ((hslot g k).mp hc)]
    · exact (State.track_only _).step (by decide) ((State.turn_only s job e d).mono (by decide))
  · refine ⟨_, exec_turn_none hpend hrun hd, ?_, ?_, fun j hj => State.putJob_job_other _ _ hj, State.putJob_only _ _ _⟩
    · rw [State.putJob_job]
    · rw [State.putJob_job]
  · intro d w a y T hrun hd hbase hl hadapt hone htab hlinks hreps hT hcur hbody hstride hlie hnear
    have hstructs : y.structs = [w] := by rw [DirEntry.structs, htab, hlinks]; rfl
    have h : s.OneTable job e d a w y T := ⟨hok, hbase, hone, hstructs, hreps, hT, hcur, hstride, hlie, hnear⟩
    refine ⟨(s.turn job e d).track, exec_turn hpend hrun hd hl, fun stays changes hstays hchanges => ⟨fun hkind hc => ?_, fun hlearn hc hst => ?_, ?_⟩⟩
    · have hfront := h.turnFront_plain hadapt (h.turnEntry_single _ hkind hc)
      obtain ⟨hcode, hentry, hsame⟩ := h.turn_err (by decide) hfront hadapt
      exact ⟨hcode, hentry, hstays.mpr hsame⟩
    · obtain ⟨hcopy, hseen, hflag, hnew⟩ := h.turn_staged hadapt hlearn hc hst
      exact ⟨hcopy, hseen, hflag, hchanges.mpr hnew⟩
    · intro x old was raw new hauto hns hc he hx hold hwas hraw hnew
      subst hx hwas hraw
      have hscale : y.newScale (s.slotSum job (turnSlot e y)) (val32 old) = new := by rw [hnew, DirEntry.newScale_eq]; rfl
      refine ⟨fun hx => ?_, fun hx hsat => ?_, fun hx hsat hfew => hstays.mpr (h.turn_few hadapt hauto hns hc he hx hsat htab hold hscale hfew),
        fun hx hsat hmany hne => ?_⟩
      · obtain ⟨hcode, hentry, hsame⟩ := h.turn_conflict hadapt hauto hns hc he hx
        exact ⟨hcode, hentry, hstays.mpr hsame⟩
      · obtain ⟨hcode, hentry, hsame⟩ := h.turn_saturated hadapt hauto hns hc he hx hsat
        exact ⟨hcode, hentry, hstays.mpr hsame⟩
      · obtain ⟨hout, hinv, hrest, hchg⟩ := h.turn_rescaled hadapt hauto hns hc he hx hsat htab hold hscale hlinks hbody hmany hne
        exact ⟨hout, hinv, hrest, hchanges.mpr hchg⟩
  · intro d a w b q r flag y x T p hrun hd hbase hl hadapt ha hone hauto hstructs hsets hbound hreps hT hcur hc hstride hset hbytes hrec hbd hqd hrd hqb hrb hrq
      hnear hfar hflag hstage hlast hp
    subst hflag
    subst ha
    have h : s.OneAdapter job e d b w q r y T x :=
      ⟨⟨hok, hbase, hone, hstructs, hreps, hT, hcur, hstride, hbd, hnear⟩, hadapt, hauto, hsets, hbound, hc, hset, hbytes, hrec, hqd, hrd, hqb, hrb, hrq, hfar⟩
    refine ⟨(s.turn job e d).track, exec_turn hpend hrun hd hl, fun turned same served hturned hsame hserved => ⟨fun keep hkeep harr hdue => ?_,
      fun hno hprob hover hprobe => ?_, fun harr hprob htaint hst => ?_⟩⟩
    · have htakes : p.takes = true := by
        rw [Probe.takes, harr]
        rcases hdue with h0 | h1
        · rw [h0]; rfl
        · rw [h1, Bool.or_true]; rfl
      have hk : s.keeps (d + 0x1000) r p = keep := hkeep.symm
      have herr := h.turn_errCode hp htakes
      refine ⟨fun hyes hprobe => ?_, fun hno hprobe hprob => ?_, fun hprob => ?_, fun hst htaint => ?_, fun htaint => ?_⟩
      · obtain ⟨-, hkept⟩ := h.turn_kept hp htakes (hk.trans hyes)
        obtain ⟨hans, hcur, hprob, hcount, hhead, hdone⟩ := hkept hprobe
        exact ⟨hans, hcur, hprob, hcount, hsame.mpr hhead, hserved.mpr hdone⟩
      · obtain ⟨-, hans, hback, hdone⟩ := h.turn_back hp htakes (hk.trans hno) hprob (hdue.resolve_left (by rw [hprob]; decide)) hprobe
        exact ⟨hans, hturned.mpr hback, hserved.mpr hdone⟩
      · obtain ⟨-, hans, hstill, hhead, hdone⟩ := h.turn_none hp htakes hprob
        refine ⟨hans, hstill, hsame.mpr hhead, hserved.mpr hdone, fun hst htaint => ?_⟩
        rw [herr, Probe.errCode, htaint, hprob, if_neg Bool.false_ne_true, if_pos hst, if_neg Bool.false_ne_true]
      · rw [herr, Probe.errCode, htaint, if_neg Bool.false_ne_true, if_neg hst]
      · rw [herr, Probe.errCode, if_pos htaint]
    · have htakes : p.takes = false := by
        rw [Probe.takes]
        rcases hno with h0 | ⟨h1, h2⟩
        · rw [h0]; rfl
        · rw [h1, h2, Bool.not_true, Bool.or_false, Bool.and_false]
      obtain ⟨htaint, hcode, hback⟩ := h.turn_late hp htakes hprob hover hprobe
      exact ⟨htaint, hcode, hturned.mpr hback⟩
    · subst hp
      exact h.turn_applied harr hprob htaint hst

end Sys2Proof.Machine
end

section
set_option Elab.async false
namespace Sys2Proof.Machine

/-! ### The head of a POST queue (R157) -/

/-- What makes a command the head of its die's queue names it, and it waits there. -/
theorem State.postHead_cmd {s : State} {uid op : Nat} {c : Cmd} (h : s.postHead uid op = some c) :
    s.cmd? uid = some c ∧ c.uid = uid ∧ c.unstarted = true := by
  unfold State.postHead at h
  split at h
  · cases h
  · next d hd =>
    split at h
    · next hcond =>
      obtain rfl : d = c := by simpa using h
      have hplace : d.place = .queued (.post d.postDie) := by
        simp only [Bool.and_eq_true, beq_iff_eq] at hcond
        exact hcond.1.1.1.1.1.1.1.2
      exact ⟨hd, by simpa using List.find?_some hd, by rw [Cmd.unstarted, hplace]⟩
    · cases h

/-- The operations of the POST: the command, its OPCODE and its work. -/
def postOps : List ((Nat → Instr) × Nat × (State → Cmd → PostWork)) :=
  [(Instr.postDecode, 0x2801, State.decodeWork), (.postSuppress, 0x2802, State.suppressWork)]

theorem exec_postOp {i : Nat → Instr} {op : Nat} {work : State → Cmd → PostWork} (h : (i, op, work) ∈ postOps) (uid : Nat) (s : State) :
    exec (i uid) s = .next (s.postOp uid op work) := by
  simp only [postOps, List.mem_cons, Prod.mk.injEq, List.not_mem_nil, or_false] at h
  rcases h with ⟨rfl, rfl, rfl⟩ | ⟨rfl, rfl, rfl⟩ <;> rfl

/-- A POST operation with the checks common to the commands of an engine added (R28, R87, R91). -/
def State.postChecked (s : State) (c : Cmd) (w : PostWork) : PostWork := { w with fails := s.commonFails c c.compiledEngine ++ w.fails }

section
variable {s : State} {uid op : Nat} {c : Cmd} (hs : s.postHead uid op = some c) (work : State → Cmd → PostWork)
include hs

/-- What keeps the head from running is what it does instead. -/
theorem State.postOp_before {t : State} (h : s.beforeRun s c c.compiledEngine = some t) : s.postOp uid op work = t := by
  simp only [State.postOp, hs, h, Option.getD_some]

theorem State.postOp_runs (h : s.beforeRun s c c.compiledEngine = none) : s.postOp uid op work = s.postRun c (s.postChecked c (work s c)) := by
  simp only [State.postOp, hs, h, Option.getD_none]
  rfl

end

/-! ### What precedes the list (R283, R406, R457) -/

/-- The state in which the POST has begun: traced, paid for, and the single-bit errors of what it reads corrected. -/
def State.postBegins (s : State) (c : Cmd) (w : PostWork) : State :=
  ((s.starts c).spendIssue (postAccount c.postDie) c.postDie).correctReads .post c.postDie (w.reads.map fun r => (r.1, r.2.1))

theorem State.postBegins_only (s : State) (c : Cmd) (w : PostWork) :
    Only [.badWords, .ctrs, .freeCount, .hostMem, .issue, .log, .mem, .msix, .pages, .regs, .softWords, .traceAt, .traceFill, .traceGap] s
      (s.postBegins c w) :=
  (State.correctReads_only _ .post c.postDie _).step (by decide) ((State.spendIssue_only _ (postAccount c.postDie) c.postDie).step (by decide)
    ((s.starts_only c).mono (by decide)))

/-- A start that is not traced moves counters of its job alone. -/
theorem State.starts_untraced {s : State} {c : Cmd} (htrace : (s.reg .perf 0x40 0x080).testBit 31 = false) : Only [.ctrs] s (s.starts c) := by
  have hnone : s.trace c 2 0 0 = s := by simp only [State.trace, htrace, Bool.not_false, Bool.true_or, if_true]
  unfold State.starts
  rw [hnone]
  exact s.ranFor_only _ _ c.job

/-- With no tracing and no single-bit error anywhere, the POST begins without a change of memory or registers. -/
theorem State.postBegins_quiet {s : State} {c : Cmd} (w : PostWork) (htrace : (s.reg .perf 0x40 0x080).testBit 31 = false)
    (hsoft : s.softWords = []) : Only [.ctrs, .freeCount, .issue] s (s.postBegins c w) := by
  have hpaid : Only [.ctrs, .freeCount, .issue] s ((s.starts c).spendIssue (postAccount c.postDie) c.postDie) :=
    (State.spendIssue_only _ _ _).step (by decide) ((State.starts_untraced htrace).mono (by decide))
  rw [State.postBegins, State.correctReads_of_no_soft ((hpaid .softWords rfl).trans hsoft)]
  exact hpaid

/-! ### What the POST counts (R166) -/

/-- The candidates, the boxes and a truncated list counted on a die. -/
def State.postCounts (s : State) (d job : Nat) (w : PostWork) : State :=
  let u := (((s.bump .post d 0x048 w.cands).bump .post d 0x04C w.boxes).pulse .post d 0x10 w.cands (some job)).pulse .post d 0x11 w.boxes (some job)
  if w.trunc then (u.bump .post d 0x050 1).irq .post d 0b1000 else u

theorem State.postCounts_only (s : State) (d job : Nat) (w : PostWork) :
    Only [.ctrs, .hostMem, .msix, .pages, .regs] s (s.postCounts d job w) := by
  have hcounted := ((State.pulse_only (((s.bump .post d 0x048 w.cands).bump .post d 0x04C w.boxes).pulse .post d 0x10 w.cands (some job)) .post d
    0x11 w.boxes (some job)).step (gs := [.ctrs, .hostMem, .msix, .pages, .regs]) (by decide) ((State.pulse_only _ _ _ _ _ _).step (by decide)
      ((State.bump_only _ _ _ _ _).step (by decide) ((State.bump_only _ _ _ _ _).mono (by decide)))))
  exact Only.ite ((State.irq_only _ _ _ _).step (by decide) ((State.bump_only _ _ _ _ _).step (by decide) hcounted)) hcounted

theorem State.reg_bump_other (s : State) {b c : Blk} {i j o p : Nat} (n : Nat) (h : c.base j + p ≠ b.base i + o) :
    (s.bump b i o n).reg c j p = s.reg c j p := s.reg_setReg_other _ h

theorem State.irq_regs (s : State) (b : Blk) (i : Nat) (m : Word) : (s.irq b i m).regs = s.regs := s.irq_only b i m .regs rfl

theorem State.irq_reg (s : State) (b c : Blk) (i j o : Nat) (m : Word) : (s.irq b i m).reg c j o = s.reg c j o :=
  have h := s.irq_only b i m
  State.reg_congr (h .regs rfl) (h .insole rfl) (h .part rfl) c j o

theorem State.pulse_regs (s : State) (b : Blk) (i event n : Nat) (job : Option Nat) : (s.pulse b i event n job).regs = s.regs :=
  s.pulse_only b i event n job .regs rfl

theorem State.pulse_reg (s : State) (b c : Blk) (i j o event n : Nat) (job : Option Nat) : (s.pulse b i event n job).reg c j o = s.reg c j o :=
  have h := s.pulse_only b i event n job
  State.reg_congr (h .regs rfl) (h .insole rfl) (h .part rfl) c j o

section
variable (s : State) (d job : Nat) (w : PostWork)

theorem State.postCounts_cands : (s.postCounts d job w).reg .post d 0x048 = min (s.reg .post d 0x048 + w.cands) (2 ^ 32 - 1) := by
  rw [← State.reg_bump]
  cases h : w.trunc <;> simp [State.postCounts, h, State.irq_reg, State.pulse_reg, State.reg_bump_other]

theorem State.postCounts_boxes : (s.postCounts d job w).reg .post d 0x04C = min (s.reg .post d 0x04C + w.boxes) (2 ^ 32 - 1) := by
  cases h : w.trunc <;> simp [State.postCounts, h, State.irq_reg, State.pulse_reg, State.reg_bump_other, State.reg_bump]

theorem State.postCounts_trunc :
    (s.postCounts d job w).reg .post d 0x050 = min (s.reg .post d 0x050 + if w.trunc then 1 else 0) (2 ^ 32 - 1) := by
  have hlt := s.reg_lt .post d 0x050
  cases h : w.trunc with
  | true => simp [State.postCounts, h, State.irq_reg, State.pulse_reg, State.reg_bump_other, State.reg_bump]
  | false =>
    have hsame : (s.postCounts d job w).reg .post d 0x050 = s.reg .post d 0x050 := by
      simp [State.postCounts, h, State.pulse_reg, State.reg_bump_other]
    rw [hsame, if_neg Bool.false_ne_true]
    omega

theorem State.postCounts_other {o : Nat} (h : o ∉ [Blk.base .post d + 0x048, Blk.base .post d + 0x04C, Blk.base .post d + 0x050]) :
    (s.postCounts d job w).regs.find? o = s.regs.find? o := by
  simp only [List.mem_cons, List.not_mem_nil, or_false, not_or] at h
  obtain ⟨hcands, hboxes, htrunc⟩ := h
  cases ht : w.trunc <;> simp [State.postCounts, ht, State.irq_regs, State.pulse_regs, State.find?_bump_other, hcands, hboxes, htrunc]

end

/-! ### The operation runs (R163, R164, R292) -/

section
variable {s : State} {c : Cmd} {w : PostWork}

theorem State.postRun_fails {f : Status × Nat} (hf : lowestCause w.fails = some f) : s.postRun c w = s.endCmd c.uid f.1 f.2 := by
  simp only [State.postRun, hf]

/-- A route of state 2 or more is neither held nor missing. -/
theorem State.postRoute_open (hr : 2 ≤ s.postRoute c) : (s.postRoute c == 1) = false ∧ (s.postRoute c == 0) = false :=
  ⟨beq_false_of_ne (by omega), beq_false_of_ne (by omega)⟩

section
variable (hf : lowestCause w.fails = none)
include hf

theorem State.postRun_held (hr : s.postRoute c = 1) : s.postRun c w = s := by
  simp [State.postRun, hf, hr]

theorem State.postRun_noRoute (hr : s.postRoute c = 0) : s.postRun c w = ((s.starts c).postPart w).endCmd c.uid .link 0x21 := by
  simp [State.postRun, hf, hr]

section
variable (hr : 2 ≤ s.postRoute c)
include hr

theorem State.postRun_meets_bad {b : Nat × Nat} (hb : s.badRead w.reads = some b) :
    s.postRun c w = (((s.postBegins c w).postPart w).faultCmd c.uid .ecc b.1 b.2).unitBad c c.compiledEngine b.1 b.2 := by
  obtain ⟨hheld, hnone⟩ := State.postRoute_open hr
  simp only [State.postRun, hf, hheld, hnone, hb, Bool.false_eq_true, if_false]
  rfl

theorem State.postRun_done (hb : s.badRead w.reads = none) :
    s.postRun c w = (((s.postBegins c w).putAll (w.body ++ w.header)).postCounts c.postDie c.job w).endCmd c.uid .ok 0 := by
  obtain ⟨hheld, hnone⟩ := State.postRoute_open hr
  simp only [State.postRun, hf, hheld, hnone, hb, Bool.false_eq_true, if_false]
  rfl

end

section
variable (hc : s.cmd? c.uid = some c) (hu : c.unstarted = true)
include hc hu

/-- Without a route to the hub the command ends FAILED_LINK. -/
theorem State.post_unrouted (hr : s.postRoute c = 0) : (s.postRun c w).cmd? c.uid = some { c with place := .ended .link 0x21 } := by
  have hcmd : ((s.starts c).postPart w).cmd? c.uid = some c :=
    (State.cmd?_congr ((State.postPart_only _ w .cmds rfl).trans (s.starts_only c .cmds rfl)) c.uid).trans hc
  rw [State.postRun_noRoute hf hr]
  exact State.endCmd_ends hcmd hu .link 0x21

/-- On an uncorrectable word among what it reads the command ends FAILED_ECC. -/
theorem State.post_meets_bad (hr : 2 ≤ s.postRoute c) {b : Nat × Nat} (hb : s.badRead w.reads = some b) :
    ∃ d, (s.postRun c w).cmd? c.uid = some { c with place := .ended .ecc b.1, fault := some d } ∧ d.addr = b.2 := by
  have hcmd : ((s.postBegins c w).postPart w).cmd? c.uid = some c :=
    (State.cmd?_congr ((State.postPart_only _ w .cmds rfl).trans (s.postBegins_only c w .cmds rfl)) c.uid).trans hc
  rw [State.postRun_meets_bad hf hr hb]
  exact ⟨_, (State.cmd?_congr (State.unitBad_only _ c _ b.1 b.2 .cmds rfl) c.uid).trans (State.faultCmd_ends hcmd hu .ecc b.1 b.2), rfl⟩

/-- Else it ends OK, with its list in memory, the header last. -/
theorem State.post_done (hr : 2 ≤ s.postRoute c) (hb : s.badRead w.reads = none) :
    (s.postRun c w).cmd? c.uid = some { c with place := .ended .ok 0 } ∧ (∀ v, v ≠ c.uid → (s.postRun c w).cmd? v = s.cmd? v) ∧
      (s.postRun c w).mem = ((s.postBegins c w).putAll (w.body ++ w.header)).mem := by
  have hcounts := ((s.postBegins c w).putAll (w.body ++ w.header)).postCounts_only c.postDie c.job w
  have hcmd (v : Nat) : (((s.postBegins c w).putAll (w.body ++ w.header)).postCounts c.postDie c.job w).cmd? v = s.cmd? v :=
    State.cmd?_congr ((hcounts .cmds rfl).trans ((State.putAll_only _ _ .cmds rfl).trans (s.postBegins_only c w .cmds rfl))) v
  rw [State.postRun_done hf hr hb]
  exact ⟨State.endCmd_ends ((hcmd c.uid).trans hc) hu .ok 0, fun v hv => (State.endCmd_cmd?_other _ c.uid v .ok 0 hv).trans (hcmd v),
    hcounts .mem rfl⟩

end

/-- With no tracing and no single-bit error anywhere, an operation that ends OK changes the bytes of its list and its die's three counters
alone, of memory and registers. -/
theorem State.post_done_quiet (hr : 2 ≤ s.postRoute c) (hb : s.badRead w.reads = none)
    (htrace : (s.reg .perf 0x40 0x080).testBit 31 = false) (hsoft : s.softWords = []) :
    (s.postRun c w).mem = (s.putAll (w.body ++ w.header)).mem ∧
      (s.postRun c w).reg .post c.postDie 0x048 = min (s.reg .post c.postDie 0x048 + w.cands) (2 ^ 32 - 1) ∧
      (s.postRun c w).reg .post c.postDie 0x04C = min (s.reg .post c.postDie 0x04C + w.boxes) (2 ^ 32 - 1) ∧
      (s.postRun c w).reg .post c.postDie 0x050 = min (s.reg .post c.postDie 0x050 + if w.trunc then 1 else 0) (2 ^ 32 - 1) ∧
      (∀ o, o ∉ [Blk.base .post c.postDie + 0x048, Blk.base .post c.postDie + 0x04C, Blk.base .post c.postDie + 0x050] →
        (s.postRun c w).regs.find? o = s.regs.find? o) := by
  have hbegins := State.postBegins_quiet (c := c) w htrace hsoft
  have hlist : Only [.badWords, .ctrs, .freeCount, .issue, .mem, .softWords] s ((s.postBegins c w).putAll (w.body ++ w.header)) :=
    (State.putAll_only _ _).step (by decide) (hbegins.mono (by decide))
  have hreg (o : Nat) : ((s.postBegins c w).putAll (w.body ++ w.header)).reg .post c.postDie o = s.reg .post c.postDie o :=
    State.reg_congr (hlist .regs rfl) (hlist .insole rfl) (hlist .part rfl) .post c.postDie o
  rw [State.postRun_done hf hr hb, ← hreg 0x048, ← hreg 0x04C, ← hreg 0x050, ← hlist .regs rfl]
  exact ⟨(State.postCounts_only _ c.postDie c.job w .mem rfl).trans (State.putAll_mem_congr (hbegins .mem rfl) _),
    State.postCounts_cands _ c.postDie c.job w, State.postCounts_boxes _ c.postDie c.job w, State.postCounts_trunc _ c.postDie c.job w,
    fun _ ho => State.postCounts_other _ c.postDie c.job w ho⟩

end

end

/-- Settles O29: `State.postOp` is one function of the two works, and the branches of `State.beforeRun` and `State.postRun` are the statement's
clauses. -/
theorem postOperationsComplete : Obligations.PostOperationsComplete := by
  unfold Obligations.PostOperationsComplete
  intro i op work hop s uid c w hs hw
  subst hw
  obtain ⟨hc, rfl, hu⟩ := State.postHead_cmd hs
  rw [exec_postOp hop c.uid s]
  refine ⟨fun hp hd => ?_, fun a hw hd => ?_, fun hw hd hl hf => ?_, fun hw hd hrun => ?_⟩
  · rw [State.postOp_before hs work (State.beforeRun_poisoned hp hd)]
    exact ⟨_, rfl, State.endCmd_ends hc hu .ecc 0, s.endCmd_only c.uid .ecc 0⟩
  · rw [State.postOp_before hs work (State.beforeRun_badDesc hw hd)]
    exact ⟨_, _, rfl, State.endBadDesc_ends hc hu, rfl, rfl, (s.endBadDesc_only c _ a).mono (by decide)⟩
  · obtain ⟨d, a, hdesc, haddr⟩ := State.fetchDesc_of_sound hl hf
    rw [State.postOp_before hs work (State.beforeRun_fetches hw hd hl hf)]
    exact ⟨_, d, a, hdesc, haddr, rfl, State.issueFetch_fetches hdesc haddr, (s.issueFetch_only c _).mono (by decide)⟩
  · rw [State.postOp_runs hs work (State.beforeRun_runs hw hd hrun)]
    refine ⟨fun f hf => ?_, fun hf => ⟨fun hr => ?_, fun hr => ?_, fun b hr hb => ?_, fun hr hb => ?_⟩⟩
    · rw [State.postRun_fails hf]
      exact ⟨_, rfl, State.endCmd_ends hc hu f.1 f.2, fun v hv => s.endCmd_cmd?_other c.uid v f.1 f.2 hv, s.endCmd_only c.uid f.1 f.2⟩
    · rw [State.postRun_held hf hr]
    · exact ⟨_, rfl, State.post_unrouted hf hc hu hr⟩
    · obtain ⟨d, hend, haddr⟩ := State.post_meets_bad (w := s.postChecked c (work s c)) hf hc hu hr hb
      exact ⟨_, d, rfl, hend, haddr⟩
    · obtain ⟨hend, hother, hmem⟩ := State.post_done (w := s.postChecked c (work s c)) hf hc hu hr hb
      exact ⟨_, rfl, hend, hother, hmem, State.post_done_quiet hf hr hb, (s.postRun_only c _).mono (by decide)⟩

end Sys2Proof.Machine
end

section
set_option Elab.async false
namespace Sys2Proof.Machine

/-! ### Queues in the order of admission, and the best of a list (R38, R157) -/

theorem mem_insertTurn {c d : Cmd} {l : List Cmd} : d ∈ insertTurn c l ↔ d = c ∨ d ∈ l := by
  induction l with
  | nil => simp [insertTurn]
  | cons e es ih =>
    unfold insertTurn
    split
    · simp
    · rw [List.mem_cons, ih, List.mem_cons]
      exact or_left_comm

/-- The order of admission adds no command to a queue and leaves none out. -/
theorem State.mem_fifo {s : State} {q : Queue} {c : Cmd} : c ∈ s.fifo q ↔ c ∈ s.inQueue q := by
  have hfold (l acc : List Cmd) : c ∈ l.foldl (fun l d => insertTurn d l) acc ↔ c ∈ l ∨ c ∈ acc := by
    induction l generalizing acc with
    | nil => simp
    | cons d l ih => rw [List.foldl_cons, ih, mem_insertTurn, List.mem_cons, or_assoc, or_left_comm]
  rw [State.fifo, hfold]
  simp

theorem State.bestOf_mem {s : State} {l : List Cmd} {c : Cmd} (h : s.bestOf l = some c) : c ∈ l := by
  induction l generalizing c with
  | nil => cases h
  | cons d l ih =>
    unfold State.bestOf at h
    split at h
    · exact List.mem_cons.mpr (.inl (Option.some.inj h).symm)
    · next b hb =>
      split at h
      · exact List.mem_cons_of_mem _ (Option.some.inj h ▸ ih hb)
      · exact List.mem_cons.mpr (.inl (Option.some.inj h).symm)

/-- The command that the ME starts next waits in its queue. -/
theorem State.meNext_unstarted {s : State} {c : Cmd} (h : s.meNext = some c) : c.unstarted = true := by
  unfold State.meNext at h
  split at h
  · cases h
  · have hq : c ∈ s.inQueue .me := State.mem_fifo.mp (List.mem_filter.mp (State.bestOf_mem h)).1
    have hplace : c.place = .queued .me := by simpa using (List.mem_filter.mp hq).2
    rw [Cmd.unstarted, hplace]

/-! ### The start of a matching command (R206 to R208, R292) -/

/-- The commands of the ME with their OPCODEs. -/
def meOps : List ((Nat → Instr) × Nat) := [(Instr.meFlow, 0x5001), (.meDisparity, 0x5002)]

theorem exec_meOp {i : Nat → Instr} {op : Nat} (h : (i, op) ∈ meOps) (uid : Nat) (s : State) :
    exec (i uid) s = .next (s.meStart uid op).track := by
  simp only [meOps, List.mem_cons, Prod.mk.injEq, List.not_mem_nil, or_false] at h
  rcases h with ⟨rfl, rfl⟩ | ⟨rfl, rfl⟩ <;> rfl

/-- The state in which the ME has begun: traced, paid for, and the single-bit errors of the pyramids corrected. -/
def State.meBegins (s : State) (c : Cmd) : State := ((s.starts c).spendIssue meAccount 8).correctReads .me 0 (s.pyrReads c)

theorem State.meBegins_only (s : State) (c : Cmd) :
    Only [.badWords, .ctrs, .freeCount, .hostMem, .issue, .log, .mem, .msix, .pages, .regs, .softWords, .traceAt, .traceFill, .traceGap] s
      (s.meBegins c) :=
  (State.correctReads_only _ .me 0 _).step (by decide) ((State.spendIssue_only _ meAccount 8).step (by decide)
    ((s.starts_only c).mono (by decide)))

/-- With no tracing and no single-bit error anywhere, the ME begins without a change of memory. -/
theorem State.meBegins_quiet {s : State} {c : Cmd} (htrace : (s.reg .perf 0x40 0x080).testBit 31 = false) (hsoft : s.softWords = []) :
    (s.meBegins c).mem = s.mem := by
  have hpaid : Only [.ctrs, .freeCount, .issue] s ((s.starts c).spendIssue meAccount 8) :=
    (State.spendIssue_only _ _ _).step (by decide) ((State.starts_untraced htrace).mono (by decide))
  rw [State.meBegins, State.correctReads_of_no_soft ((hpaid .softWords rfl).trans hsoft)]
  exact hpaid .mem rfl

/-- The ME with a command that has just started. -/
def MeState.started (m : MeState) (uid : Nat) (rows : List (List (Nat × List Byte))) : MeState :=
  { m with uid := some uid, rows := rows, staged := 0, waitSince := none, stallFrom := none, late := false }

section
variable {s : State} {c : Cmd}

theorem State.meStart_fails {op : Nat} (hn : s.meNext = some c) (ho : c.opcode = op) {f : Status × Nat}
    (hf : lowestCause (s.meFails c) = some f) : s.meStart c.uid op = s.endCmd c.uid f.1 f.2 := by
  simp [State.meStart, hn, ho, hf]

theorem State.meStart_begins {op : Nat} (hn : s.meNext = some c) (ho : c.opcode = op) (hf : s.meFails c = []) :
    s.meStart c.uid op = s.meBegin c := by
  simp [State.meStart, hn, ho, hf, lowestCause]

theorem State.meBegin_held (hr : s.meRoute = 1) : s.meBegin c = s := by
  simp [State.meBegin, hr]

theorem State.meBegin_noRoute (hr : s.meRoute = 0) : s.meBegin c = (s.starts c).endCmd c.uid .link 0x21 := by
  simp [State.meBegin, hr]

section
variable (hr : 2 ≤ s.meRoute)
include hr

/-- A route of state 2 or more is neither held nor missing. -/
theorem State.meRoute_open : (s.meRoute == 1) = false ∧ (s.meRoute == 0) = false :=
  ⟨beq_false_of_ne (by omega), beq_false_of_ne (by omega)⟩

theorem State.meBegin_meets_bad {a : Nat} (hb : s.badPyramid c = some a) :
    s.meBegin c = (((s.meBegins c).faultCmd c.uid .ecc 0x34 a).irq .me 0 0b100).err .me 0 2 0 a := by
  obtain ⟨hheld, hnone⟩ := State.meRoute_open hr
  simp only [State.meBegin, hheld, hnone, hb, Bool.false_eq_true, if_false]
  rfl

theorem State.meBegin_runs (hb : s.badPyramid c = none) :
    s.meBegin c = { (s.meBegins c).edge .me 0 0x20 false (some c.job) with
      me := ((s.meBegins c).edge .me 0 0x20 false (some c.job)).me.started c.uid (s.meRows c) } := by
  obtain ⟨hheld, hnone⟩ := State.meRoute_open hr
  simp only [State.meBegin, hheld, hnone, hb, Bool.false_eq_true, if_false]
  rfl

/-- An uncorrectable word in its pyramids ends the command FAILED_ECC, with the error on the page of the ME. -/
theorem State.me_meets_bad (hc : s.cmd? c.uid = some c) (hu : c.unstarted = true) {a : Nat} (hb : s.badPyramid c = some a) :
    (∃ d, (s.meBegin c).cmd? c.uid = some { c with place := .ended .ecc 0x34, fault := some d } ∧ d.addr = a) ∧
      (s.meBegin c).me = s.me ∧ ((s.meBegin c).page .me 0).errValid = true ∧ ((s.meBegin c).page .me 0).errCode = 2 ∧
      ((s.meBegin c).page .me 0).errAddr = a := by
  have hcmd : (s.meBegins c).cmd? c.uid = some c := (State.cmd?_congr (s.meBegins_only c .cmds rfl) c.uid).trans hc
  have hflagged (u : State) : Only [.hostMem, .msix, .pages] u ((u.irq .me 0 0b100).err .me 0 2 0 a) :=
    (State.err_only _ .me 0 2 0 a).step (by decide) ((u.irq_only .me 0 0b100).mono (by decide))
  have hme : ((s.meBegins c).faultCmd c.uid .ecc 0x34 a).me = s.me :=
    (State.faultCmd_only _ c.uid .ecc 0x34 a .me rfl).trans (s.meBegins_only c .me rfl)
  rw [State.meBegin_meets_bad hr hb, State.err_page]
  exact ⟨⟨_, (State.cmd?_congr (hflagged _ .cmds rfl) c.uid).trans (State.faultCmd_ends hcmd hu .ecc 0x34 a), rfl⟩,
    (hflagged _ .me rfl).trans hme, rfl, rfl, rfl⟩

/-- Else it runs with the rows of its search. -/
theorem State.me_runs (hb : s.badPyramid c = none) :
    (s.meBegin c).me = s.me.started c.uid (s.meRows c) ∧ (s.meBegin c).mem = (s.meBegins c).mem ∧
      Only [.badWords, .ctrs, .freeCount, .hostMem, .issue, .log, .me, .mem, .msix, .pages, .regs, .softWords, .traceAt, .traceFill,
        .traceGap] s (s.meBegin c) := by
  have hedge := (s.meBegins c).edge_only .me 0 0x20 false (some c.job)
  rw [State.meBegin_runs hr hb]
  exact ⟨congrArg (·.started c.uid (s.meRows c)) ((hedge .me rfl).trans (s.meBegins_only c .me rfl)), hedge .mem rfl,
    Only.set_me.step (by decide) (hedge.step (by decide) ((s.meBegins_only c).mono (by decide)))⟩

end

end

/-- Settles O33: `State.meStart` is one function of both commands, and the branches of `State.meBegin` are the statement's clauses. -/
theorem matchingStartsItsSearch : Obligations.MatchingStartsItsSearch := by
  unfold Obligations.MatchingStartsItsSearch
  intro i op hop s c hc hn ho
  have hu := State.meNext_unstarted hn
  rw [exec_meOp hop c.uid s]
  have track (t : State) : Only [.engines] t t.track := t.track_only
  refine ⟨fun f hf => ?_, fun hf hr => ?_, fun hf hr => ?_, fun a hf hr hb => ?_, fun hf hr hb => ?_⟩
  · rw [State.meStart_fails hn ho hf]
    exact ⟨_, rfl, State.endCmd_ends hc hu f.1 f.2, fun v hv => s.endCmd_cmd?_other c.uid v f.1 f.2 hv,
      (track _).step (by decide) ((s.endCmd_only c.uid f.1 f.2).mono (by decide))⟩
  · rw [State.meStart_begins hn ho hf, State.meBegin_held hr]
    exact ⟨_, rfl, track s⟩
  · have hstarts := s.starts_only c
    rw [State.meStart_begins hn ho hf, State.meBegin_noRoute hr]
    exact ⟨_, rfl, State.endCmd_ends ((State.cmd?_congr (hstarts .cmds rfl) c.uid).trans hc) hu .link 0x21, hstarts .me rfl⟩
  · rw [State.meStart_begins hn ho hf]
    obtain ⟨⟨d, hend, haddr⟩, hme, hpage⟩ := State.me_meets_bad hr hc hu hb
    exact ⟨_, d, rfl, hend, haddr, hme, hpage⟩
  · rw [State.meStart_begins hn ho hf]
    obtain ⟨hme, hmem, honly⟩ := State.me_runs hr hb
    have hrow (g m r : Nat) : ((s.meBegin c).track.engine g).row m r = (s.engine g).row m r := by
      rw [State.track_row, State.engine_congr (honly .engines rfl)]
    exact ⟨_, rfl, hme, honly .cmds rfl, hmem, fun ht hs => hmem.trans (State.meBegins_quiet ht hs), hrow,
      (track _).step (by decide) (honly.mono (by decide))⟩

end Sys2Proof.Machine
end

section
set_option Elab.async false
namespace Sys2Proof.Machine

/-! ### The running command of the ME, and its waits (R201, R206, R212) -/

/-- The running command is the one that the ME names, and it has not ended. -/
theorem State.meCmd_cmd {s : State} {c : Cmd} (h : s.meCmd = some c) :
    s.me.uid = some c.uid ∧ s.cmd? c.uid = some c ∧ c.unstarted = true := by
  obtain ⟨hbind, hu⟩ := Option.filter_eq_some_iff.mp h
  obtain ⟨u, hme, hc⟩ := Option.bind_eq_some_iff.mp hbind
  obtain rfl : c.uid = u := by simpa using List.find?_some hc
  exact ⟨hme, hc, hu⟩

theorem State.unstall_me (s : State) : s.unstall.me = { s.me with waitSince := none, stallFrom := none } := by
  unfold State.unstall
  cases s.me.stallFrom <;> rfl

/-- The time of a stall is counted, and nothing else is written. -/
theorem State.unstall_regs_other (s : State) {o : Nat} (h : o ≠ Blk.base .me 0 + 0x06C) : s.unstall.regs.find? o = s.regs.find? o := by
  unfold State.unstall
  cases s.me.stallFrom with
  | none => rfl
  | some t => exact State.find?_bump_other _ _ _ _ _ h

/-- Without a stall there is no time to count. -/
theorem State.unstall_regs {s : State} (h : s.me.stallFrom = none) : s.unstall.regs = s.regs := by
  unfold State.unstall
  rw [h]

theorem State.meDrop_me (s : State) : s.meDrop.me = s.me.dropped := by
  show s.unstall.me.dropped = _
  rw [State.unstall_me]
  rfl

theorem State.meDrop_regs {s : State} (h : s.me.stallFrom = none) : s.meDrop.regs = s.regs := State.unstall_regs h

theorem State.meWait_me (s : State) (credit : Bool) : (s.meWait credit).me = { s.me with
    waitSince := if credit then some (s.me.waitSince.getD s.now) else none
    stallFrom := some (s.me.stallFrom.getD s.now) } := by
  have hedge := s.edge_only .me 0 0x21 s.me.stallFrom.isSome (s.meCmd.map (·.job))
  have hme : (s.edge .me 0 0x21 s.me.stallFrom.isSome (s.meCmd.map (·.job))).me = s.me := hedge .me rfl
  have hnow : (s.edge .me 0 0x21 s.me.stallFrom.isSome (s.meCmd.map (·.job))).now = s.now := hedge .now rfl
  unfold State.meWait
  dsimp only
  rw [hme, hnow]

/-! ### Rows that are returned (R203, R204) -/

theorem State.unreturned_congr {s t : State} (h : t.flags = s.flags) (r : StageRow) : t.unreturned r = s.unreturned r := by
  unfold State.unreturned
  rw [h]

/-- An advance takes the rows from the window that the flags it leaves have returned; one to a poisoned flag takes none. -/
theorem State.advance_me (s : State) (job f n : Nat) : (s.advance job f n).me = { s.me with
    window := if (s.flag f).poison then s.me.window else s.me.window.filter fun r => (s.advance job f n).unreturned r.2 } := by
  cases hp : (s.flag f).poison with
  | true => rw [State.advance_of_poison job n hp, if_pos rfl]
  | false =>
    rw [State.advance_of_sound job n hp, if_neg Bool.false_ne_true]
    rfl

/-! ### A row is staged (R200, R201) -/

/-- The virtual slot that the next row of a command goes to. -/
def State.nextSlot (s : State) (c : Cmd) : Nat := c.ringLo + (s.flag c.fillFlag).gen.toNat % c.ringLen

/-- The ME with its next row in the window. -/
def State.rowListed (s : State) (c : Cmd) : State :=
  { s.unstall with me := { s.unstall.me with
    staged := s.unstall.me.staged + 1
    window := s.unstall.me.window.set (s.nextSlot c) ⟨c.fillFlag, (s.flag c.fillFlag).gen + 1, s.unstall.now, false⟩ } }

/-- The vectors of a row and the reserved ones among them are counted. -/
def State.vectorsCounted (s : State) (job : Nat) (n : Nat × Nat) : State := (s.pulse .me 0 0x10 n.1 (some job)).pulse .me 0 0x11 n.2 (some job)

/-- A row is written from a base on, and its GEN last. -/
def State.rowPut (s : State) (base : Nat) (row : List (Nat × List Byte)) (gen : Word) : State :=
  (s.putAll (row.map fun p => (base + p.1, p.2))).devPut (base + 20) (leBytes 4 gen.toNat)

/-- The state in which the next row is written. -/
def State.rowWritten (s : State) (c : Cmd) (row : List (Nat × List Byte)) : State :=
  ((s.rowListed c).vectorsCounted c.job (rowCounts row)).rowPut (stagingBase + s.nextSlot c * s.slotBytes) row ((s.flag c.fillFlag).gen + 1)

/-- The state in which its fill flag has advanced. -/
def State.rowFilled (s : State) (c : Cmd) (row : List (Nat × List Byte)) : State :=
  (((s.rowWritten c row).pulse .me 0 0x12 1 (some c.job)).advance c.job c.fillFlag 1).putCmd
    { c with progress := (s.rowWritten c row).me.staged }

/-- What follows a filled row: the end of a cancelled command, or of one whose last row it was. -/
def State.afterFill (s : State) (c : Cmd) : State :=
  if s.me.late then (s.endCmd c.uid .late 0).meDrop
  else if s.me.rows.length ≤ s.me.staged then
    (({ s with me := { s.me with uid := none, rows := [] } }).bump .me 0 0x064 1).endCmd c.uid .ok 0
  else s

theorem State.stageRow_eq (s : State) (c : Cmd) (row : List (Nat × List Byte)) : s.stageRow c row = (s.rowFilled c row).afterFill c := rfl

theorem State.rowListed_only (s : State) (c : Cmd) : Only [.me, .regs] s (s.rowListed c) :=
  Only.set_me.step (by decide) (s.unstall_only.mono (by decide))

theorem State.rowListed_me (s : State) (c : Cmd) : (s.rowListed c).me = { s.me with
    waitSince := none, stallFrom := none, staged := s.me.staged + 1
    window := s.me.window.set (s.nextSlot c) ⟨c.fillFlag, (s.flag c.fillFlag).gen + 1, s.now, false⟩ } := by
  unfold State.rowListed
  dsimp only
  rw [State.unstall_me, s.unstall_only .now rfl]

theorem State.vectorsCounted_only (s : State) (job : Nat) (n : Nat × Nat) : Only [.ctrs, .hostMem, .msix, .pages] s (s.vectorsCounted job n) :=
  (State.pulse_only _ .me 0 0x11 n.2 (some job)).step (by decide) ((s.pulse_only .me 0 0x10 n.1 (some job)).mono (by decide))

theorem State.rowPut_only (s : State) (base : Nat) (row : List (Nat × List Byte)) (gen : Word) :
    Only [.badWords, .mem, .softWords] s (s.rowPut base row gen) :=
  (State.devPut_only _ _ _).step (by decide) ((State.putAll_only s _).mono (by decide))

theorem State.putAll_read_other {s : State} (hok : MemOk s) {ws : List (Nat × List Byte)} {a : Nat}
    (h : ∀ w ∈ ws, a < w.1 ∨ w.1 + w.2.length ≤ a) : (s.putAll ws).mem.read 0 a = s.mem.read 0 a := by
  unfold State.putAll
  induction ws generalizing s with
  | nil => rfl
  | cons w ws ih =>
    obtain ⟨hw, hws⟩ := List.forall_mem_cons.mp h
    rw [List.foldl_cons, ih (State.devPut_memOk s w.1 w.2 hok) hws]
    exact (Memory.read_writeRun _ _ _ hok.1).trans (if_neg (by omega))

/-- GEN, written last, is what the row shows of it. -/
theorem State.rowPut_gen {s : State} (hok : MemOk s) (base : Nat) (row : List (Nat × List Byte)) (gen : Word) :
    (s.rowPut base row gen).mem.readRun 0 (base + 20) 4 = leBytes 4 gen.toNat := by
  have h := Memory.readRun_writeRun_same (base + 20) (leBytes 4 gen.toNat) (State.putAll_memOk s (row.map fun p => (base + p.1, p.2)) hok).1
  rwa [leBytes_length] at h

/-- No byte outside the row and its GEN is written. -/
theorem State.rowPut_read_other {s : State} (hok : MemOk s) {base : Nat} {row : List (Nat × List Byte)} (gen : Word) {a : Nat}
    (hrow : ∀ p ∈ row, a < base + p.1 ∨ base + p.1 + p.2.length ≤ a) (hgen : a < base + 20 ∨ base + 24 ≤ a) :
    (s.rowPut base row gen).mem.read 0 a = s.mem.read 0 a := by
  have hput : (s.putAll (row.map fun p => (base + p.1, p.2))).mem.read 0 a = s.mem.read 0 a :=
    State.putAll_read_other hok fun w hw => by
      obtain ⟨p, hp, rfl⟩ := List.mem_map.mp hw
      exact hrow p hp
  rw [← hput]
  refine (Memory.read_writeRun _ _ _ (State.putAll_memOk s _ hok).1).trans (if_neg ?_)
  rw [leBytes_length]
  omega

section
variable (s : State) (c : Cmd) (row : List (Nat × List Byte))

theorem State.rowWritten_only : Only [.badWords, .ctrs, .hostMem, .me, .mem, .msix, .pages, .regs, .softWords] s (s.rowWritten c row) :=
  (State.rowPut_only _ _ row _).step (by decide) ((State.vectorsCounted_only _ c.job _).step (by decide) ((s.rowListed_only c).mono (by decide)))

/-- The written row is counted: the flags and the commands stay. -/
theorem State.rowWritten_pulsed : Only [.badWords, .ctrs, .hostMem, .me, .mem, .msix, .pages, .regs, .softWords] s
    ((s.rowWritten c row).pulse .me 0 0x12 1 (some c.job)) :=
  (State.pulse_only _ .me 0 0x12 1 (some c.job)).step (by decide) (s.rowWritten_only c row)

theorem State.rowWritten_me : (s.rowWritten c row).me = (s.rowListed c).me :=
  (State.rowPut_only _ _ row _ .me rfl).trans (State.vectorsCounted_only _ c.job _ .me rfl)

theorem State.rowFilled_only :
    Only [.badWords, .cmds, .ctrs, .flags, .hostMem, .me, .mem, .msix, .pages, .regs, .softWords] s (s.rowFilled c row) :=
  (State.putCmd_only _ _).step (by decide) ((State.advance_only _ c.job c.fillFlag 1).step (by decide)
    ((State.pulse_only _ .me 0 0x12 1 (some c.job)).step (by decide) ((s.rowWritten_only c row).mono (by decide))))

/-- The next row of a written one is counted, and its flag advances: memory and registers stay. -/
theorem State.rowFilled_after : Only [.cmds, .ctrs, .flags, .hostMem, .me, .msix, .pages] (s.rowWritten c row) (s.rowFilled c row) :=
  (State.putCmd_only _ _).step (by decide) ((State.advance_only _ c.job c.fillFlag 1).step (by decide)
    ((State.pulse_only _ .me 0 0x12 1 (some c.job)).mono (by decide)))

/-- The fill flag of a row advances by one (R201). -/
theorem State.rowFilled_flag (hp : (s.flag c.fillFlag).poison = false) :
    ((s.rowFilled c row).flag c.fillFlag).gen = (s.flag c.fillFlag).gen + 1 := by
  have hflag := State.flag_congr (s.rowWritten_pulsed c row .flags rfl) c.fillFlag
  have h := State.advance_flag c.job 1 (hflag ▸ hp)
  rw [hflag] at h
  exact congrArg FlagEntry.gen h

theorem State.rowFilled_flags_poisoned (hp : (s.flag c.fillFlag).poison = true) : (s.rowFilled c row).flags = s.flags := by
  have hflags := s.rowWritten_pulsed c row .flags rfl
  exact (congrArg State.flags (State.advance_of_poison c.job 1 (State.flag_congr hflags c.fillFlag ▸ hp))).trans hflags

theorem State.rowFilled_flag_other {f : Nat} (h : f ≠ c.fillFlag) : (s.rowFilled c row).flag f = s.flag f :=
  (State.advance_flag_other _ c.job 1 h).trans (State.flag_congr (s.rowWritten_pulsed c row .flags rfl) f)

theorem State.rowFilled_me : (s.rowFilled c row).me = { (s.rowListed c).me with
    window := if (s.flag c.fillFlag).poison then (s.rowListed c).me.window
      else (s.rowListed c).me.window.filter fun r => (s.rowFilled c row).unreturned r.2 } := by
  have hflag := State.flag_congr (s.rowWritten_pulsed c row .flags rfl) c.fillFlag
  have hme : ((s.rowWritten c row).pulse .me 0 0x12 1 (some c.job)).me = (s.rowListed c).me :=
    (State.pulse_only _ .me 0 0x12 1 (some c.job) .me rfl).trans (s.rowWritten_me c row)
  have h := State.advance_me ((s.rowWritten c row).pulse .me 0 0x12 1 (some c.job)) c.job c.fillFlag 1
  rw [hflag, hme] at h
  exact h

theorem State.rowFilled_cmd?_other {u : Nat} (hu : u ≠ c.uid) : (s.rowFilled c row).cmd? u = s.cmd? u :=
  (State.putCmd_cmd?_other _ { c with progress := (s.rowWritten c row).me.staged } u hu).trans (State.cmd?_congr
    ((State.advance_only _ c.job c.fillFlag 1 .cmds rfl).trans (s.rowWritten_pulsed c row .cmds rfl)) u)

end

section
variable {s : State} {c : Cmd} (row : List (Nat × List Byte))

/-- The command shows how many of its rows are staged. -/
theorem State.rowFilled_cmd? (hc : s.cmd? c.uid = some c) : (s.rowFilled c row).cmd? c.uid = some { c with progress := s.me.staged + 1 } := by
  have hcmds : (((s.rowWritten c row).pulse .me 0 0x12 1 (some c.job)).advance c.job c.fillFlag 1).cmds = s.cmds :=
    (State.advance_only _ c.job c.fillFlag 1 .cmds rfl).trans (s.rowWritten_pulsed c row .cmds rfl)
  have hstaged : (s.rowWritten c row).me.staged = s.me.staged + 1 := by rw [State.rowWritten_me, State.rowListed_me]
  have hfound := (State.cmd?_congr hcmds c.uid).trans hc
  rw [← hstaged]
  exact State.putCmd_cmd? _ { c with progress := (s.rowWritten c row).me.staged } (by rw [hfound]; rfl)

/-- A row staged without a stall before it writes no register. -/
theorem State.rowFilled_regs (hstall : s.me.stallFrom = none) : (s.rowFilled c row).regs = s.regs :=
  (s.rowFilled_after c row .regs rfl).trans ((State.rowPut_only _ _ row _ .regs rfl).trans
    ((State.vectorsCounted_only _ c.job _ .regs rfl).trans (State.unstall_regs hstall)))

/-- The row's GEN is in its slot, and no byte outside the row has changed. -/
theorem State.rowFilled_mem (hok : MemOk s) {base : Nat} (hbase : base = stagingBase + s.nextSlot c * s.slotBytes) :
    (s.rowFilled c row).mem.readRun 0 (base + 20) 4 = leBytes 4 ((s.flag c.fillFlag).gen + 1).toNat ∧
      ∀ a, (∀ p ∈ row, a < base + p.1 ∨ base + p.1 + p.2.length ≤ a) → (a < base + 20 ∨ base + 24 ≤ a) →
        (s.rowFilled c row).mem.read 0 a = s.mem.read 0 a := by
  subst hbase
  have hcounted : Only [.ctrs, .hostMem, .me, .msix, .pages, .regs] s ((s.rowListed c).vectorsCounted c.job (rowCounts row)) :=
    (State.vectorsCounted_only _ c.job _).step (by decide) ((s.rowListed_only c).mono (by decide))
  have hok' : MemOk ((s.rowListed c).vectorsCounted c.job (rowCounts row)) :=
    State.pulse_memOk _ _ _ _ _ _ (State.pulse_memOk _ _ _ _ _ _ (MemOk.of_only (s.rowListed_only c) (by decide) hok))
  rw [s.rowFilled_after c row .mem rfl]
  exact ⟨State.rowPut_gen hok' _ row _, fun a hrow hgen => (State.rowPut_read_other hok' _ hrow hgen).trans
    (congrArg (Memory.read 0 · a) (hcounted .mem rfl))⟩

end

/-! ### The end of a row (R201, R206) -/

section
variable (s : State) (c : Cmd)

theorem State.afterFill_only : Only [.cmds, .me, .regs] s (s.afterFill c) :=
  .ite ((State.meDrop_only _).step (by decide) ((s.endCmd_only c.uid .late 0).mono (by decide)))
    (.ite ((State.endCmd_only _ c.uid .ok 0).step (by decide) ((State.bump_only _ .me 0 0x064 1).step (by decide) (Only.set_me.mono (by decide))))
      (Only.refl _ s))

theorem State.afterFill_window : (s.afterFill c).me.window = s.me.window := by
  unfold State.afterFill
  split
  · rw [State.meDrop_me]
    rfl
  · split <;> rfl

theorem State.afterFill_cmd?_other {u : Nat} (hu : u ≠ c.uid) : (s.afterFill c).cmd? u = s.cmd? u := by
  unfold State.afterFill
  split
  · exact (State.cmd?_congr (State.meDrop_only _ .cmds rfl) u).trans (s.endCmd_cmd?_other c.uid u .late 0 hu)
  · split
    · exact State.endCmd_cmd?_other _ c.uid u .ok 0 hu
    · rfl

end

section
variable {s : State} {c d : Cmd} (hc : s.cmd? c.uid = some d) (hu : d.unstarted = true)

/-- A row that has been filled leaves the count of a command that goes on or ends OK as it is. -/
theorem State.afterFill_staged (hl : s.me.late = false) : (s.afterFill c).me.staged = s.me.staged := by
  unfold State.afterFill
  rw [hl, if_neg Bool.false_ne_true]
  split <;> rfl

theorem State.afterFill_goes (hl : s.me.late = false) (hrows : s.me.staged < s.me.rows.length) : s.afterFill c = s := by
  unfold State.afterFill
  rw [hl, if_neg Bool.false_ne_true, if_neg (by omega)]

include hc hu

theorem State.afterFill_late (hl : s.me.late = true) (hstall : s.me.stallFrom = none) :
    (s.afterFill c).cmd? c.uid = some { d with place := .ended .late 0 } ∧ (s.afterFill c).me.uid = none ∧ (s.afterFill c).regs = s.regs := by
  unfold State.afterFill
  rw [hl, if_pos rfl, State.meDrop_me]
  exact ⟨(State.cmd?_congr (State.meDrop_only _ .cmds rfl) c.uid).trans (State.endCmd_ends hc hu .late 0), rfl,
    State.meDrop_regs hstall⟩

theorem State.afterFill_last (hl : s.me.late = false) (hrows : s.me.rows.length ≤ s.me.staged) :
    (s.afterFill c).cmd? c.uid = some { d with place := .ended .ok 0 } ∧ (s.afterFill c).me.uid = none ∧
      (s.afterFill c).reg .me 0 0x064 = min (s.reg .me 0 0x064 + 1) (2 ^ 32 - 1) := by
  unfold State.afterFill
  rw [hl, if_neg Bool.false_ne_true, if_pos hrows]
  exact ⟨State.endCmd_ends hc hu .ok 0, rfl, State.reg_bump { s with me := { s.me with uid := none, rows := [] } } .me 0 0x064 1⟩

end

/-! ### What staging a row does to the window and the flag (R201, R203) -/

section
variable (s : State) (c : Cmd) (row : List (Nat × List Byte))

theorem State.stageRow_window : (s.stageRow c row).me.window =
    if (s.flag c.fillFlag).poison then s.me.window.set (s.nextSlot c) ⟨c.fillFlag, (s.flag c.fillFlag).gen + 1, s.now, false⟩
    else (s.me.window.set (s.nextSlot c) ⟨c.fillFlag, (s.flag c.fillFlag).gen + 1, s.now, false⟩).filter fun r =>
      (s.stageRow c row).unreturned r.2 := by
  have hret (r : StageRow) : (s.stageRow c row).unreturned r = (s.rowFilled c row).unreturned r :=
    State.unreturned_congr (State.afterFill_only _ c .flags rfl) r
  simp only [hret]
  rw [State.stageRow_eq, State.afterFill_window, State.rowFilled_me, State.rowListed_me]

theorem State.stageRow_flag (hp : (s.flag c.fillFlag).poison = false) :
    ((s.stageRow c row).flag c.fillFlag).gen = (s.flag c.fillFlag).gen + 1 := by
  rw [State.stageRow_eq, State.flag_congr (State.afterFill_only _ c .flags rfl), State.rowFilled_flag s c row hp]

theorem State.stageRow_flags_poisoned (hp : (s.flag c.fillFlag).poison = true) : (s.stageRow c row).flags = s.flags :=
  (State.afterFill_only _ c .flags rfl).trans (s.rowFilled_flags_poisoned c row hp)

theorem State.stageRow_flag_other {f : Nat} (h : f ≠ c.fillFlag) : (s.stageRow c row).flag f = s.flag f :=
  (State.flag_congr (State.afterFill_only _ c .flags rfl) f).trans (s.rowFilled_flag_other c row h)

theorem State.stageRow_cmd?_other {u : Nat} (hu : u ≠ c.uid) : (s.stageRow c row).cmd? u = s.cmd? u :=
  (State.afterFill_cmd?_other _ c hu).trans (s.rowFilled_cmd?_other c row hu)

theorem State.stageRow_staged (hl : s.me.late = false) : (s.stageRow c row).me.staged = s.me.staged + 1 := by
  have hme := s.rowFilled_me c row
  rw [State.rowListed_me] at hme
  have hlate : (s.rowFilled c row).me.late = false := by rw [hme, hl]
  rw [State.stageRow_eq, State.afterFill_staged hlate, hme]

end

section
variable {s : State} {c : Cmd} (row : List (Nat × List Byte))

/-- The row's GEN is in its slot, and no byte outside the row has changed. -/
theorem State.stageRow_mem (hok : MemOk s) {base : Nat} (hbase : base = stagingBase + s.nextSlot c * s.slotBytes) :
    (s.stageRow c row).mem.readRun 0 (base + 20) 4 = leBytes 4 ((s.flag c.fillFlag).gen + 1).toNat ∧
      ∀ a, (∀ p ∈ row, a < base + p.1 ∨ base + p.1 + p.2.length ≤ a) → (a < base + 20 ∨ base + 24 ≤ a) →
        (s.stageRow c row).mem.read 0 a = s.mem.read 0 a := by
  rw [State.stageRow_eq, State.afterFill_only _ c .mem rfl]
  exact State.rowFilled_mem row hok hbase

/-- A filled row leaves the ME its command, its rows and its cancellation, and counts one row more. -/
theorem State.rowFilled_me_fields : (s.rowFilled c row).me.uid = s.me.uid ∧ (s.rowFilled c row).me.rows = s.me.rows ∧
    (s.rowFilled c row).me.staged = s.me.staged + 1 ∧ (s.rowFilled c row).me.late = s.me.late ∧ (s.rowFilled c row).me.stallFrom = none := by
  rw [State.rowFilled_me, State.rowListed_me]
  exact ⟨rfl, rfl, rfl, rfl, rfl⟩

variable (hc : s.cmd? c.uid = some c) (hstall : s.me.stallFrom = none)
include hc hstall

/-- A row that is not the last leaves a command running that is not cancelled. -/
theorem State.stageRow_goes (hl : s.me.late = false) (hrows : s.me.staged + 1 < s.me.rows.length) :
    (s.stageRow c row).cmd? c.uid = some { c with progress := s.me.staged + 1 } ∧ (s.stageRow c row).me.uid = s.me.uid ∧
      (s.stageRow c row).me.staged = s.me.staged + 1 ∧ (s.stageRow c row).regs = s.regs := by
  obtain ⟨huid, hall, hstaged, hlate, -⟩ := State.rowFilled_me_fields (s := s) (c := c) row
  rw [State.stageRow_eq, State.afterFill_goes (hlate.trans hl) (by rw [hall, hstaged]; exact hrows)]
  exact ⟨State.rowFilled_cmd? row hc, huid, hstaged, State.rowFilled_regs row hstall⟩

variable (hu : c.unstarted = true)
include hu

/-- A cancelled command ends after its row (R206). -/
theorem State.stageRow_late (hl : s.me.late = true) :
    (s.stageRow c row).cmd? c.uid = some { c with progress := s.me.staged + 1, place := .ended .late 0 } ∧ (s.stageRow c row).me.uid = none ∧
      (s.stageRow c row).regs = s.regs := by
  obtain ⟨-, -, -, hlate, hnone⟩ := State.rowFilled_me_fields (s := s) (c := c) row
  obtain ⟨hend, huid, hregs⟩ := State.afterFill_late (State.rowFilled_cmd? row hc) hu (hlate.trans hl) hnone
  exact ⟨hend, huid, hregs.trans (State.rowFilled_regs row hstall)⟩

/-- The last row ends the command OK and counts its pair (R209). -/
theorem State.stageRow_last (hl : s.me.late = false) (hrows : s.me.rows.length ≤ s.me.staged + 1) :
    (s.stageRow c row).cmd? c.uid = some { c with progress := s.me.staged + 1, place := .ended .ok 0 } ∧ (s.stageRow c row).me.uid = none ∧
      (s.stageRow c row).reg .me 0 0x064 = min (s.reg .me 0 0x064 + 1) (2 ^ 32 - 1) := by
  obtain ⟨-, hall, hstaged, hlate, -⟩ := State.rowFilled_me_fields (s := s) (c := c) row
  have hfilled := s.rowFilled_only c row
  have h := State.afterFill_last (State.rowFilled_cmd? row hc) hu (hlate.trans hl) (by rw [hall, hstaged]; exact hrows)
  rwa [State.reg_congr (State.rowFilled_regs row hstall) (hfilled .insole rfl) (hfilled .part rfl)] at h

end

/-! ### A row is spilled (R203) -/

/-- The state in which a row is copied to its spill address and gives up its physical slot. -/
def State.rowCopied (s : State) (v : Nat) (r : StageRow) : State :=
  let s0 := s.correctRead .hsram 0 (stagingBase + v * s.slotBytes) s.slotBytes
  { s0 with
    mem := s0.mem.copyRun (stagingBase + v * s.slotBytes) (s.spillBase + v * s.slotBytes) s.slotBytes
    badWords := copyWords s0.badWords (stagingBase + v * s.slotBytes) (s.spillBase + v * s.slotBytes) s.slotBytes
    softWords := keepOutside s0.softWords (s.spillBase + v * s.slotBytes) s.slotBytes
    me := { s0.me with window := s0.me.window.set v { r with spilled := true } } }

section
variable (s : State) (v : Nat) (r : StageRow)

theorem State.spill_eq : s.spill v r = ((s.rowCopied v r).bump .me 0 0x068 1).irq .me 0 0b10000 := rfl

/-- The count and the interrupt of a spill. -/
theorem State.spill_after : Only [.hostMem, .msix, .pages, .regs] (s.rowCopied v r) (s.spill v r) :=
  (State.irq_only _ .me 0 0b10000).step (by decide) ((State.bump_only _ .me 0 0x068 1).mono (by decide))

theorem State.spill_me : (s.spill v r).me = { s.me with window := s.me.window.set v { r with spilled := true } } := by
  have hread : (s.correctRead .hsram 0 (stagingBase + v * s.slotBytes) s.slotBytes).me = s.me := State.correctRead_only _ _ _ _ _ .me rfl
  rw [s.spill_after v r .me rfl]
  unfold State.rowCopied
  dsimp only
  rw [hread]

end

/-! ### ME_ROW_STAGE (R201, R292) -/

section
variable {s : State} {c : Cmd} (hc : s.meCmd = some c)
include hc

theorem execMeRowStage_held (hr : s.meRoute ≠ 2) : exec .meRowStage s = .next s := by
  show execMeRowStage s = _
  simp [execMeRowStage, hc, hr]

section
variable (hr : s.meRoute = 2)
include hr

theorem execMeRowStage_waits (hcredit : s.ringCredit c = false) : exec .meRowStage s = .next (s.meWait true) := by
  show execMeRowStage s = _
  simp [execMeRowStage, hc, hr, hcredit]

variable (hcredit : s.ringCredit c = true)
include hcredit

theorem execMeRowStage_stages (hfree : s.slotsHeld < s.pslots) :
    exec .meRowStage s = .next (s.stageRow c (s.me.rows.getD s.me.staged [])).track := by
  show execMeRowStage s = _
  simp [execMeRowStage, hc, hr, hcredit, hfree]

variable (hfull : s.pslots ≤ s.slotsHeld)
include hfull

theorem execMeRowStage_full (hspill : s.spillEn = false ∨ s.oldestRow = none) : exec .meRowStage s = .next (s.meWait false) := by
  show execMeRowStage s = _
  have hnot : ¬s.slotsHeld < s.pslots := Nat.not_lt.mpr hfull
  rcases hspill with h | h
  · simp [execMeRowStage, hc, hr, hcredit, hnot, h]
  · cases hen : s.spillEn <;> simp [execMeRowStage, hc, hr, hcredit, hnot, h, hen]

theorem execMeRowStage_spills (hen : s.spillEn = true) {e : Nat × StageRow} (he : s.oldestRow = some e) :
    exec .meRowStage s = .next ((s.spill e.1 e.2).stageRow c (s.me.rows.getD s.me.staged [])).track := by
  show execMeRowStage s = _
  simp [execMeRowStage, hc, hr, hcredit, Nat.not_lt.mpr hfull, hen, he]

end

end

/-- Settles O34: each outcome is one of the cases of ME_ROW_STAGE, and a staged row is `State.rowFilled` and then `State.afterFill`. -/
theorem rowStagingAdvancesTheFillFlag : Obligations.RowStagingAdvancesTheFillFlag := by
  unfold Obligations.RowStagingAdvancesTheFillFlag
  intro s c hc
  obtain ⟨hme, hcmd, hu⟩ := State.meCmd_cmd hc
  refine ⟨fun hr => execMeRowStage_held hc hr, fun hr hcredit => ?_, fun hr hcredit hfull hspill => ?_,
    fun e hr hcredit hfull hen he => ?_, fun hr hcredit hfree hstall hok g v base row hg hv hbase hrow => ?_⟩
  · exact ⟨_, execMeRowStage_waits hc hr hcredit, s.meWait_me true, (s.meWait_only true).mono (by decide)⟩
  · exact ⟨_, execMeRowStage_full hc hr hcredit hfull hspill, s.meWait_me false, (s.meWait_only false).mono (by decide)⟩
  · have hspill := s.spill_only e.1 e.2
    have hflag := State.flag_congr (hspill .flags rfl) c.fillFlag
    have hwindow := (s.spill e.1 e.2).stageRow_window c (s.me.rows.getD s.me.staged [])
    have hstaged := (s.spill e.1 e.2).stageRow_staged c (s.me.rows.getD s.me.staged [])
    have hgen := (s.spill e.1 e.2).stageRow_flag c (s.me.rows.getD s.me.staged [])
    rw [State.nextSlot, hflag, hspill .now rfl, State.spill_me] at hwindow
    rw [State.spill_me] at hstaged
    rw [hflag] at hgen
    exact ⟨_, execMeRowStage_spills hc hr hcredit hfull hen he, hstaged, fun w hw => hw ▸ hwindow, hgen⟩
  · subst hg hv hbase hrow
    obtain ⟨hgen, hother⟩ := s.stageRow_mem (c := c) (s.me.rows.getD s.me.staged []) hok rfl
    exact ⟨_, execMeRowStage_stages hc hr hcredit hfree, s.stageRow_flag c _, s.stageRow_flags_poisoned c _, fun f hf => s.stageRow_flag_other c _ hf,
      fun w hw => hw ▸ s.stageRow_window c _, hgen, hother, State.stageRow_late _ hcmd hstall hu, State.stageRow_last _ hcmd hstall hu,
      fun hl hrows => hme ▸ State.stageRow_goes _ hcmd hstall hl hrows, fun u hne => s.stageRow_cmd?_other c _ hne,
      (State.track_only _).step (by decide) ((s.stageRow_only c _).mono (by decide))⟩

end Sys2Proof.Machine
end

section
set_option Elab.async false
namespace Sys2Proof.Machine

/-! ### Corrections of staging memory spare the page of the ME (R215, R283) -/

/-- From `s` to `t` the header of the ME's page and its count of spilled rows stay. -/
structure State.SparesMe (s t : State) : Prop where
  page : t.page .me 0 = s.page .me 0
  spills : t.regs.find? (Blk.base .me 0 + 0x068) = s.regs.find? (Blk.base .me 0 + 0x068)

namespace State.SparesMe

theorem refl (s : State) : s.SparesMe s := ⟨rfl, rfl⟩

theorem trans {s t u : State} (h : s.SparesMe t) (k : t.SparesMe u) : s.SparesMe u := ⟨k.page.trans h.page, k.spills.trans h.spills⟩

theorem ite {s t u : State} {c : Prop} [Decidable c] (ht : s.SparesMe t) (hu : s.SparesMe u) : s.SparesMe (if c then t else u) := by
  split <;> assumption

theorem foldl {α : Type} {s : State} {g : State → α → State} {l : List α} (hg : ∀ (y : State) a, y.SparesMe (g y a)) :
    s.SparesMe (l.foldl g s) := by
  induction l generalizing s with
  | nil => exact refl s
  | cons a l ih => exact (hg s a).trans ih

theorem of_only {fs : List StateField} {s t : State} (h : Only fs s t)
    (hd : [StateField.insole, .pages, .regs].all (fun f => !(fieldMask fs).testBit f.idx) = true) : s.SparesMe t := by
  have hf : ∀ f ∈ [StateField.insole, .pages, .regs], (fieldMask fs).testBit f.idx = false := by
    simpa only [List.all_eq_true, Bool.not_eq_true'] using hd
  have hregs : t.regs = s.regs := h .regs (hf _ (by decide))
  exact ⟨State.page_congr (h .pages (hf _ (by decide))) (h .insole (hf _ (by decide))) .me 0, by rw [hregs]⟩

end State.SparesMe

theorem State.irq_sparesMe (s : State) {b : Blk} {i : Nat} (m : Word) (h : Blk.base .me 0 ≠ b.base i) : s.SparesMe (s.irq b i m) :=
  ⟨s.irq_page_other b .me i 0 m h, by rw [State.irq_regs]⟩

theorem State.setReg_sparesMe (s : State) {b : Blk} {i off : Nat} (v : Nat) (h : Blk.base .me 0 + 0x068 ≠ b.base i + off) :
    s.SparesMe (s.setReg b i off v) := ⟨rfl, s.find?_setReg_other b i off v _ h⟩

theorem State.bump_sparesMe (s : State) {b : Blk} {i off : Nat} (n : Nat) (h : Blk.base .me 0 + 0x068 ≠ b.base i + off) :
    s.SparesMe (s.bump b i off n) := s.setReg_sparesMe _ h

theorem Blk.me_ne_perf (die : Nat) : Blk.base .me 0 ≠ Blk.base .perf die := by
  show 0x2801000 ≠ if die == 0x40 then 0xE000 else if die == 0x80 then 0x2802000 else 0x400000 * (die + 1) + 0x3000
  split
  · decide
  · split
    · decide
    · omega

/-- Performance counters raise the interrupt of PERF alone (R453). -/
theorem State.pulse_sparesMe (s : State) (b : Blk) (i event n : Nat) (job : Option Nat) : s.SparesMe (s.pulse b i event n job) := by
  have hput (y : State) (key : Nat) (c : Ctr) : y.SparesMe (y.putCtr key c) := .of_only (y.putCtr_only key c) (by decide)
  unfold State.pulse State.saturate
  exact .ite (.refl s) (.foldl fun y k => .ite (.refl y) (.ite ((hput y _ _).trans (State.irq_sparesMe _ _ (Blk.me_ne_perf _))) (hput y _ _)))

/-- A log entry of a corrected error writes registers of FAULT and raises its interrupt alone (R444). -/
theorem State.logFault_corrected_sparesMe (s : State) (b : Blk) (i action addr commands moved us : Nat) :
    s.SparesMe (s.logFault b i 0 action addr commands moved us) := by
  have hlog (l : SMap (List Byte)) (bs : List Byte) (a : Nat) (c : Prop) [Decidable c] :
      s.SparesMe { (if c then s else s.devPut a bs) with log := l } :=
    (State.SparesMe.ite (.refl s) (.of_only (s.devPut_only a bs) (by decide))).trans (.of_only Only.set_log (by decide))
  unfold State.logFault State.logFaultAt
  exact .ite (.refl s) ((((hlog _ _ _ _).trans (State.setReg_sparesMe _ _ (by decide))).trans (State.setReg_sparesMe _ _ (by decide))).trans
    ((State.setReg_sparesMe _ _ (by decide)).trans (State.irq_sparesMe _ _ (by decide))))

theorem Config.dies_le (v : Variant) : Config.dies v ≤ 8 := by cases v <;> decide

theorem Config.ports_pos (v : Variant) : 0 < Config.ports v ∧ Config.ports v ≤ 8 := by cases v <;> decide

/-- Tile memory is that of one of the dies. -/
theorem State.target_tmem_lt {s : State} {a n d : Nat} (h : s.target a n = some (.tmem d)) : d < 8 := by
  have hdies := Config.dies_le s.variant
  unfold State.target at h
  split at h
  · cases h
  · split at h
    · cases h
    · split at h
      · cases h
      · split at h
        · dsimp only at h
          split at h
          · next hd =>
            obtain rfl : _ = d := by simpa using h
            simp only [Bool.and_eq_true, decide_eq_true_eq] at hd
            omega
          · cases h
        · cases h

theorem State.portOf_lt (s : State) (a : Nat) : s.portOf a < 8 := by
  obtain ⟨hpos, hle⟩ := Config.ports_pos s.variant
  exact (Nat.mod_lt _ hpos).trans_le hle

/-- A corrected error is counted by a memory, and no memory's page is that of the ME. -/
theorem State.eccHome_outside_me {s : State} {a : Nat} {e : Blk × Nat × Nat × Nat} (h : s.eccHome a = some e) :
    Blk.base .me 0 ≠ e.1.base e.2.1 ∧ Blk.base .me 0 + 0x068 ≠ e.1.base e.2.1 + e.2.2.1 := by
  rw [State.eccHome_eq] at h
  have hport := s.portOf_lt a
  generalize s.portOf a = p at h hport
  have hdie (d : Nat) (hd : s.target a 1 = some (.tmem d)) : d < 8 := State.target_tmem_lt hd
  generalize s.target a 1 = t at h hdie
  rcases t with _ | ⟨_ | _ | _ | d⟩
  · cases h
  all_goals obtain rfl := Option.some.inj h
  · simp only [Blk.base]
    omega
  · decide
  · decide
  · have hd := hdie d rfl
    simp only [Blk.base, dieBase]
    omega

theorem State.correctWord_sparesMe (s : State) (w : Nat) : s.SparesMe (s.correctWord w) := by
  have hmended : s.SparesMe (s.wordMended w) := .of_only Only.set_softWords (by decide)
  rw [State.correctWord_eq]
  cases hhome : s.eccHome (8 * w) with
  | none => exact hmended
  | some e =>
    obtain ⟨hpage, hcount⟩ := State.eccHome_outside_me hhome
    have hpulse (u : State) : u.SparesMe (if e.1 == .memc then u else u.pulse e.1 e.2.1 0x12 1 none) := .ite (.refl u) (u.pulse_sparesMe _ _ _ _ _)
    exact hmended.trans ((hpulse _).trans ((State.bump_sparesMe _ 1 hcount).trans ((State.irq_sparesMe _ _ hpage).trans
      (State.logFault_corrected_sparesMe _ _ _ _ _ _ _ _))))

/-- The hub SRAM has no unit that counts what it sees of corrected errors. -/
theorem State.correctRead_sparesMe (s : State) (a n : Nat) : s.SparesMe (s.correctRead .hsram 0 a n) :=
  .foldl fun y w => y.correctWord_sparesMe w

/-! ### What a spill leaves (R203, R283) -/

theorem State.reg_of_find? {s t : State} {b : Blk} {i o : Nat} (h : t.regs.find? (b.base i + o) = s.regs.find? (b.base i + o))
    (hi : t.insole = s.insole) (hp : t.part = s.part) : t.reg b i o = s.reg b i o := by
  unfold State.reg State.resetValue State.variant
  rw [h, hi, hp]

section
variable {s : State} (v : Nat) (r : StageRow)

/-- The ME's page shows the spill, and counts it. -/
theorem State.spill_page : ((s.spill v r).page .me 0).raw = (s.page .me 0).raw ||| 0b10000 ∧
    (s.spill v r).reg .me 0 0x068 = min (s.reg .me 0 0x068 + 1) (2 ^ 32 - 1) := by
  have hread := s.correctRead_only .hsram 0 (stagingBase + v * s.slotBytes) s.slotBytes
  obtain ⟨hpage, hcount⟩ := s.correctRead_sparesMe (stagingBase + v * s.slotBytes) s.slotBytes
  have hreg : (s.rowCopied v r).reg .me 0 0x068 = s.reg .me 0 0x068 :=
    State.reg_of_find? hcount (hread .insole rfl) (hread .part rfl)
  rw [State.spill_eq, State.irq_page, State.irq_reg, State.reg_bump, hreg]
  exact ⟨congrArg (Page.raw · ||| 0b10000) hpage, rfl⟩

/-- The slot's bytes stand at its spill address, and no other byte has changed. -/
theorem State.spill_copies (hok : MemOk s) (hsoft : s.softWords = []) :
    (s.spill v r).mem.readRun 0 (s.spillBase + v * s.slotBytes) s.slotBytes = s.mem.readRun 0 (stagingBase + v * s.slotBytes) s.slotBytes ∧
      ∀ a, a < s.spillBase + v * s.slotBytes ∨ s.spillBase + (v + 1) * s.slotBytes ≤ a → (s.spill v r).mem.read 0 a = s.mem.read 0 a := by
  have hmeets : s.meets s.softWords (stagingBase + v * s.slotBytes) s.slotBytes = [] := by rw [hsoft]; rfl
  have hmem : (s.spill v r).mem = s.mem.copyRun (stagingBase + v * s.slotBytes) (s.spillBase + v * s.slotBytes) s.slotBytes := by
    rw [s.spill_after v r .mem rfl, State.rowCopied, State.correctRead_of_meets_nil hmeets]
  rw [hmem]
  refine ⟨Memory.readRun_copyRun _ _ _ hok.1, fun a ha => (Memory.read_copyRun _ _ _ _ hok.1).trans (if_neg ?_)⟩
  rw [Nat.add_one_mul] at ha
  omega

end

/-- The sizes and places of staging memory do not depend on the time. -/
theorem State.staging_congr {s t : State} (h : Only [.now] s t) : t.slotBytes = s.slotBytes ∧ t.spillBase = s.spillBase := by
  have hreg (o : Nat) : t.reg .me 0 o = s.reg .me 0 o := State.reg_congr (h .regs rfl) (h .insole rfl) (h .part rfl) .me 0 o
  unfold State.slotBytes State.spillBase
  rw [hreg, hreg, hreg]
  exact ⟨rfl, rfl⟩

theorem execStagingRetentionSpill_spills {s : State} {v : Nat} {r : StageRow} (hr : s.me.window.find? v = some r) (hen : s.spillEn = true)
    (hheld : s.stageHeld r = true) :
    exec (.stagingRetentionSpill v) s = .next ((s.at (r.filledAt + s.retain * s.frameTicks)).spill v r) := by
  show execStagingRetentionSpill v s = _
  simp [execStagingRetentionSpill, hr, hen, hheld]

/-! ### The wait for return credit runs out (R208) -/

/-- The ME without its running command, whose window stays. -/
def State.meFreed (s : State) : State := { s with me := { s.me with uid := none, rows := [] } }

/-- The command that waits for return credit ends, and the time it stalled counts. -/
def State.meTimedOut (s : State) (uid : Nat) : State := (s.unstall.meFreed.endCmd uid .timeout 0x41).track

theorem State.meWaiting_cmd {s : State} {c : Cmd} {since : Nat} (h : s.meWaiting = some (c, since)) : s.meCmd = some c := by
  unfold State.meWaiting at h
  split at h
  · next d t hd ht =>
    split at h
    · cases h
    · obtain ⟨rfl, -⟩ := Prod.mk.inj (Option.some.inj h)
      exact hd
  · cases h

theorem execMeRingTimeout_expires {s : State} {c : Cmd} {since : Nat} (hw : s.meWaiting = some (c, since))
    (hms : bits (s.reg .sched 0 0x048) 15 0 ≠ 0) : exec .meRingTimeout s =
      .next ((s.at (since + bits (s.reg .sched 0 0x048) 15 0 * msTicks)).meTimedOut c.uid) := by
  show execMeRingTimeout s = _
  simp only [execMeRingTimeout, hw, beq_false_of_ne hms, Bool.false_eq_true, if_false]
  rfl

theorem State.meTimedOut_only (s : State) (uid : Nat) : Only [.cmds, .engines, .me, .regs] s (s.meTimedOut uid) :=
  (State.track_only _).step (by decide) ((State.endCmd_only _ uid .timeout 0x41).step (by decide) (Only.set_me.step (by decide)
    (s.unstall_only.mono (by decide))))

theorem State.meTimedOut_me (s : State) (uid : Nat) : (s.meTimedOut uid).me =
    { s.me with uid := none, rows := [], waitSince := none, stallFrom := none } := by
  show { s.unstall.me with uid := none, rows := [] } = _
  rw [State.unstall_me]

section
variable {s u : State} (h : Only [.now] s u)
include h

/-- The timeout in a state `u` that differs from `s` in the time alone: the command ends FAILED_TIMEOUT, and no other. -/
theorem State.meTimedOut_ends {c : Cmd} (hc : s.cmd? c.uid = some c) (hu : c.unstarted = true) :
    (u.meTimedOut c.uid).cmd? c.uid = some { c with place := .ended .timeout 0x41 } ∧
      ∀ v, v ≠ c.uid → (u.meTimedOut c.uid).cmd? v = s.cmd? v := by
  have hcmds : u.unstall.meFreed.cmds = s.cmds := (u.unstall_only .cmds rfl).trans (h .cmds rfl)
  exact ⟨State.endCmd_ends ((State.cmd?_congr hcmds c.uid).trans hc) hu .timeout 0x41,
    fun v hv => (State.endCmd_cmd?_other _ c.uid v .timeout 0x41 hv).trans (State.cmd?_congr hcmds v)⟩

/-- The staging window stays, and of the registers the stall time alone moves. -/
theorem State.meTimedOut_leaves (uid : Nat) :
    (u.meTimedOut uid).me.uid = none ∧ (u.meTimedOut uid).me.window = s.me.window ∧ (u.meTimedOut uid).now = u.now ∧
      (∀ o, o ≠ Blk.base .me 0 + 0x06C → (u.meTimedOut uid).regs.find? o = s.regs.find? o) ∧
      Only [.cmds, .engines, .me, .now, .regs] s (u.meTimedOut uid) := by
  have htimed := u.meTimedOut_only uid
  rw [State.meTimedOut_me, h .me rfl]
  exact ⟨rfl, rfl, htimed .now rfl, fun o ho => (u.unstall_regs_other ho).trans (congrArg (·.find? o) (h .regs rfl)),
    htimed.step (by decide) (h.mono (by decide))⟩

end

/-! ### Writes of the staging registers (R213) -/

/-- Software's mark on the page leaves whether staging is idle as it is. -/
theorem State.touch_stageIdle (s : State) : (s.touch .me 0).stageIdle = s.stageIdle := by
  have hstate : (s.touch .me 0).blkState .me 0 = s.blkState .me 0 := by
    rw [State.blkState_writable rfl, State.blkState_writable rfl]
    exact State.putPage_movingState rfl rfl rfl rfl
  unfold State.stageIdle
  rw [hstate]
  rfl

section
variable {s : State} (hw : s.hostWrites .me 0 = true)
include hw

theorem execStageCtrlWrite_stores (hi : s.stageIdle = true) (v : Nat) :
    exec (.stageCtrlWrite v) s = .next ((s.touch .me 0).setReg .me 0 0x04C (v &&& 0x8FFFFF0F)) := by
  show execStageCtrlWrite v s = _
  rw [execStageCtrlWrite, State.host_reaches hw, State.stageCtrlWrite, State.touch_stageIdle, if_pos hi]

variable (hi : s.stageIdle = false)
include hi

theorem execStageCtrlWrite_refuses (v : Nat) : exec (.stageCtrlWrite v) s = .next ((s.touch .me 0).err .me 0 4 0 0) := by
  show execStageCtrlWrite v s = _
  rw [execStageCtrlWrite, State.host_reaches hw, State.stageCtrlWrite, State.touch_stageIdle, hi, if_neg Bool.false_ne_true]

/-- Neither half of SPILL_BASE is written while staging is busy. -/
theorem exec_spillBase_refuses {off : Nat} (ho : off = 0x2801054 ∨ off = 0x2801058) (v : Nat) :
    exec (.registerWrite off 4 v) s = .next ((s.touch .me 0).err .me 0 4 0 0) := by
  obtain ⟨hup, hanswers⟩ : s.link.pcieUp = true ∧ s.answers .me 0 = true := by simpa [State.hostWrites] using hw
  have hrefused (o x : Nat) : (s.touch .me 0).spillBaseWrite o x = (s.touch .me 0).err .me 0 4 0 0 := by
    rw [State.spillBaseWrite, State.touch_stageIdle, hi, if_neg Bool.false_ne_true]
  rw [execRegisterWrite_up hup]
  rcases ho with rfl | rfl
  · rw [s.writeBar0_four (by decide), s.writeWord_page (b := .me) (i := 0) (by decide), hanswers, if_pos rfl]
    exact congrArg Host.Outcome.next (hrefused 0x054 _)
  · rw [s.writeBar0_four (by decide), s.writeWord_page (b := .me) (i := 0) (by decide), hanswers, if_pos rfl]
    exact congrArg Host.Outcome.next (hrefused 0x058 _)

end

/-- A refused write leaves BUSY on the page and nothing else. -/
theorem State.touch_err (s : State) : (((s.touch .me 0).err .me 0 4 0 0).page .me 0).errValid = true ∧
    (((s.touch .me 0).err .me 0 4 0 0).page .me 0).errCode = 4 ∧ Only [.pages] s ((s.touch .me 0).err .me 0 4 0 0) := by
  rw [State.err_page]
  exact ⟨rfl, rfl, (State.err_only _ .me 0 4 0 0).step (by decide) (s.touch_only .me 0)⟩

/-- Settles O35: the spill is one copy with its count, the timeout one end, and both registers are written where `State.stageIdle` lets them. -/
theorem stagingSpillsTimesOutAndRefusesWrites : Obligations.StagingSpillsTimesOutAndRefusesWrites := by
  unfold Obligations.StagingSpillsTimesOutAndRefusesWrites
  intro s
  refine ⟨fun v r hr hen hheld hok => ?_, fun c since hwait hms => ?_, fun v hw hi => ?_, fun v hw hi => ?_, fun v off ho hw hi => ?_,
    fun v hw => ?_⟩
  · rw [execStagingRetentionSpill_spills hr hen hheld]
    have hat := s.at_only (r.filledAt + s.retain * s.frameTicks)
    have hnow := s.at_now (r.filledAt + s.retain * s.frameTicks)
    generalize s.at (r.filledAt + s.retain * s.frameTicks) = u at hat hnow
    have hspill := u.spill_only v r
    obtain ⟨hpage, hcount⟩ := State.spill_page (s := u) v r
    have hcopies := State.spill_copies (s := u) v r (MemOk.of_only hat (by decide) hok)
    obtain ⟨hbytes, hbase⟩ := State.staging_congr hat
    rw [hat .softWords rfl, hat .mem rfl, hbytes, hbase] at hcopies
    rw [State.page_congr (hat .pages rfl) (hat .insole rfl)] at hpage
    rw [State.reg_congr (hat .regs rfl) (hat .insole rfl) (hat .part rfl)] at hcount
    exact ⟨_, rfl, by rw [State.spill_me, hat .me rfl], hcopies, (hspill .now rfl).trans hnow, hpage, hcount,
      hspill.step (by decide) (hat.mono (by decide))⟩
  · obtain ⟨-, hc, hu⟩ := State.meCmd_cmd (State.meWaiting_cmd hwait)
    have hat := s.at_only (since + bits (s.reg .sched 0 0x048) 15 0 * msTicks)
    obtain ⟨hend, hother⟩ := State.meTimedOut_ends hat hc hu
    obtain ⟨huid, hwindow, hnow, hregs, honly⟩ := State.meTimedOut_leaves hat c.uid
    exact ⟨_, execMeRingTimeout_expires hwait hms, hend, hother, huid, hwindow, hnow.trans (s.at_now _), hregs, honly⟩
  · have hmask : v &&& 0x8FFFFF0F < 2 ^ 32 := Nat.and_lt_two_pow v (by decide)
    rw [execStageCtrlWrite_stores hw hi]
    refine ⟨_, rfl, ?_, fun o ho => State.find?_setReg_other _ .me 0 0x04C _ o ho, ?_,
      (State.setReg_only _ .me 0 0x04C _).step (by decide) ((s.touch_only .me 0).mono (by decide))⟩
    · rw [State.reg_setReg, Nat.mod_eq_of_lt hmask]
    · exact congrArg Page.src (s.touch_page .me 0)
  · exact ⟨_, execStageCtrlWrite_refuses hw hi v, s.touch_err⟩
  · exact ⟨_, exec_spillBase_refuses hw hi ho v, s.touch_err⟩
  · show execStageCtrlWrite v s = _
    rw [execStageCtrlWrite, State.host_kept hw]

end Sys2Proof.Machine
end

section
set_option Elab.async false
namespace Sys2Proof.Machine

/-! ### What the raster engine drops when a command has gone (R229) -/

theorem State.rasterRest_cmds (s : State) : s.rasterRest.cmds = s.cmds := s.rasterRest_only .cmds rfl

theorem State.rasterRest_mem (s : State) : s.rasterRest.mem = s.mem := s.rasterRest_only .mem rfl

theorem State.rasterRest_passes (s : State) : s.rasterRest.raster.passes = s.rpasses := by
  unfold State.rasterRest
  dsimp only
  split
  · rfl
  · rw [State.irq_only _ .raster 0 0b1000000 .raster rfl]

theorem State.rasterRest_tiles (s : State) : s.rasterRest.raster.tiles = s.rtiles := by
  unfold State.rasterRest
  dsimp only
  split
  · rfl
  · rw [State.irq_only _ .raster 0 0b1000000 .raster rfl]

theorem State.rasterRest_track_cmd? (s : State) (u : Nat) : s.rasterRest.track.cmd? u = s.cmd? u :=
  State.cmd?_congr ((State.track_only _ .cmds rfl).trans s.rasterRest_cmds) u

theorem State.rasterRest_track_mem (s : State) : s.rasterRest.track.mem = s.mem := (State.track_only _ .mem rfl).trans s.rasterRest_mem

theorem State.rasterRest_track_passes (s : State) : s.rasterRest.track.raster.passes = s.rpasses :=
  (congrArg Raster.passes (State.track_only _ .raster rfl)).trans s.rasterRest_passes

theorem State.rasterRest_track_only (s : State) : Only [.engines, .hostMem, .msix, .pages, .raster] s s.rasterRest.track :=
  (State.track_only _).step (by decide) (s.rasterRest_only.mono (by decide))

/-! ### The geometry stage takes a command (R220, R432) -/

/-- A command that waits in a queue has not started. -/
theorem State.inQueue_unstarted {s : State} {q : Queue} {c : Cmd} (h : c ∈ s.inQueue q) : c.unstarted = true := by
  have hplace : c.place = .queued q := by simpa using (List.mem_filter.mp h).2
  rw [Cmd.unstarted, hplace]

theorem State.rasterHeads_mem {s : State} {c : Cmd} (h : c ∈ s.rasterHeads) : c ∈ s.inQueue .raster ∧ s.passedOver c = false := by
  obtain ⟨hq, hgoes⟩ := List.mem_filter.mp h
  exact ⟨(List.mem_filter.mp hq).1, by simpa using (Bool.and_eq_true_iff.mp hgoes).1⟩

/-- The command that the geometry stage takes next waits in the raster engine's queue, with the OPCODE that is asked for. -/
theorem State.rasterHead_cmd {s : State} {uid op : Nat} {c : Cmd} (h : s.rasterHead uid op = some c) :
    c ∈ s.inQueue .raster ∧ c.uid = uid ∧ c.opcode = op ∧ c.unstarted = true := by
  unfold State.rasterHead at h
  dsimp only at h
  split at h
  · cases h
  · next d hd =>
    split at h
    · next hcond =>
      obtain rfl : d = c := Option.some.inj h
      have hq := (State.rasterHeads_mem (List.mem_of_find?_eq_some hd)).1
      have hop : d.opcode = op := by
        simp only [Bool.and_eq_true, beq_iff_eq] at hcond
        exact hcond.1.1
      exact ⟨hq, by simpa using List.find?_some hd, hop, State.inQueue_unstarted hq⟩
    · cases h

/-- The raster commands: the command, its OPCODE and its checks. -/
def rasterOps : List ((Nat → Instr) × Nat × (State → Cmd → List (Status × Nat))) :=
  [(Instr.rsPassOpen, 0x6001, State.passOpenFails), (.rsDraw, 0x6002, State.drawFails), (.rsPassClose, 0x6003, State.passCloseFails),
    (.rsWarp, 0x6004, State.warpFails), (.rsMask, 0x6005, State.maskFails)]

/-- Each of them is `State.rasterOp`, with a way of its own to go on. -/
theorem exec_rasterOp {i : Nat → Instr} {op : Nat} {fails : State → Cmd → List (Status × Nat)} (h : (i, op, fails) ∈ rasterOps) :
    ∃ go, ∀ uid s, exec (i uid) s = .next (s.rasterOp uid op fails go) := by
  simp only [rasterOps, List.mem_cons, Prod.mk.injEq, List.not_mem_nil, or_false] at h
  rcases h with ⟨rfl, rfl, rfl⟩ | ⟨rfl, rfl, rfl⟩ | ⟨rfl, rfl, rfl⟩ | ⟨rfl, rfl, rfl⟩ | ⟨rfl, rfl, rfl⟩ <;> exact ⟨_, fun _ _ => rfl⟩

section
variable {s : State} {uid op : Nat} {c : Cmd} (h : s.rasterHead uid op = some c) (fails : State → Cmd → List (Status × Nat))
  (go : State → Cmd → State)
include h

theorem State.rasterOp_begun (hb : s.begun uid = true) : s.rasterOp uid op fails go = (go s c).rasterRest.track := by
  simp only [State.rasterOp, h, hb, if_true]

theorem State.rasterOp_poisoned (hb : s.begun uid = false) (hw : s.waitPoisoned c = true) :
    s.rasterOp uid op fails go = (s.endCmd uid .ecc 0).rasterRest.track := by
  simp only [State.rasterOp, h, hb, hw, Bool.false_eq_true, if_false, if_true]

theorem State.rasterOp_fails (hb : s.begun uid = false) (hw : s.waitPoisoned c = false) {f : Status × Nat}
    (hf : lowestCause (fails s c) = some f) : s.rasterOp uid op fails go = (s.endCmd uid f.1 f.2).rasterRest.track := by
  simp only [State.rasterOp, h, hb, hw, hf, Bool.false_eq_true, if_false]

/-- A command that passes its checks goes on, whether it has begun before or not. -/
theorem State.rasterOp_goes (hw : s.waitPoisoned c = false) (hf : fails s c = []) : s.rasterOp uid op fails go = (go s c).rasterRest.track := by
  simp only [State.rasterOp, h, hw, hf, lowestCause, Bool.false_eq_true, if_false, ite_self]

end

/-- A command that ends before it has begun ends alone. -/
theorem State.rasterEnds {s : State} {c : Cmd} (hc : s.cmd? c.uid = some c) (hu : c.unstarted = true) (st : Status) (cause : Nat) :
    (s.endCmd c.uid st cause).rasterRest.track.cmd? c.uid = some { c with place := .ended st cause } ∧
      (∀ v, v ≠ c.uid → (s.endCmd c.uid st cause).rasterRest.track.cmd? v = s.cmd? v) ∧
      (∀ g m r, ((s.endCmd c.uid st cause).rasterRest.track.engine g).row m r = (s.engine g).row m r) ∧
      Only [.cmds, .engines, .hostMem, .msix, .pages, .raster] s (s.endCmd c.uid st cause).rasterRest.track := by
  refine ⟨?_, fun v hv => ?_, fun g m r => ?_, ?_⟩
  · rw [State.rasterRest_track_cmd?, State.endCmd_ends hc hu]
  · rw [State.rasterRest_track_cmd?, State.endCmd_cmd?_other s c.uid v st cause hv]
  · rw [State.track_row, State.engine_congr (State.rasterRest_only _ .engines rfl), State.engine_congr (s.endCmd_only _ _ _ .engines rfl)]
  · exact (State.rasterRest_track_only _).step (by decide) ((s.endCmd_only c.uid st cause).mono (by decide))

/-- Settles O37: `State.rasterOp` is one function of the five commands, and a command that stops before it has begun only ends. -/
theorem rasterChecksEndTheirCommand : Obligations.RasterChecksEndTheirCommand := by
  unfold Obligations.RasterChecksEndTheirCommand
  intro i op fails hop s c hc _ hhead hb
  obtain ⟨go, hgo⟩ := exec_rasterOp hop
  obtain ⟨-, -, -, hu⟩ := State.rasterHead_cmd hhead
  refine ⟨fun hw => ?_, fun f hw hf => ?_⟩
  · obtain ⟨hend, hother, -, honly⟩ := State.rasterEnds hc hu .ecc 0
    exact ⟨_, (hgo c.uid s).trans (congrArg _ (State.rasterOp_poisoned hhead fails go hb hw)), hend, hother, honly⟩
  · obtain ⟨hend, hother, hrows, honly⟩ := State.rasterEnds hc hu f.1 f.2
    exact ⟨_, (hgo c.uid s).trans (congrArg _ (State.rasterOp_fails hhead fails go hb hw hf)), hend, hother, hrows, honly⟩

end Sys2Proof.Machine
end

section
set_option Elab.async false
namespace Sys2Proof.Machine

/-! ### Passes whose close has failed (R241) -/

/-- `c` is an RS_PASS_CLOSE that ends a pass. -/
def RPass.closedBy (p : RPass) (c : Cmd) : Bool := c.opcode == 0x6003 && c.job == p.job && c.apt == p.apt && p.uid < c.uid && !c.rejected && c.live

/-- A command has ended with a status other than OK. -/
def Cmd.endedBadly (c : Cmd) : Bool :=
  match c.place with
  | .ended st _ => st != .ok
  | _ => false

theorem State.passFailed_eq (s : State) (p : RPass) : s.passFailed p = (s.cmds.find? p.closedBy).any Cmd.endedBadly := by
  unfold State.passFailed RPass.closedBy
  split
  · next c hc => rw [hc]; rfl
  · next hc => rw [hc]; rfl

/-- Whether a pass has failed is told by its number, its job and its aperture. -/
theorem State.passFailed_congr {s t : State} (h : t.cmds = s.cmds) {p q : RPass} (hu : q.uid = p.uid) (hj : q.job = p.job) (ha : q.apt = p.apt) :
    t.passFailed q = s.passFailed p := by
  rw [State.passFailed_eq, State.passFailed_eq, h]
  unfold RPass.closedBy
  rw [hu, hj, ha]

theorem State.rpasses_congr {s t : State} (h : t.cmds = s.cmds) (hp : t.raster.passes = s.raster.passes) : t.rpasses = s.rpasses := by
  unfold State.rpasses
  rw [hp]
  exact List.filter_congr fun p _ => congrArg (!·) (State.passFailed_congr h rfl rfl rfl)

/-- A change of commands that keeps which of them close a pass, and of those which have ended badly. -/
theorem State.passFailed_map {s t : State} {f : Cmd → Cmd} (h : t.cmds = s.cmds.map f) {p : RPass} (hf : ∀ d, p.closedBy (f d) = p.closedBy d)
    (hbad : ∀ d ∈ s.cmds, p.closedBy d = true → (f d).endedBadly = d.endedBadly) : t.passFailed p = s.passFailed p := by
  rw [State.passFailed_eq, State.passFailed_eq, h, find?_map_same _ _ _ hf]
  cases hd : s.cmds.find? p.closedBy with
  | none => rfl
  | some d => exact hbad d (List.mem_of_find?_eq_some hd) (List.find?_some hd)

theorem RPass.closedBy_ended {c : Cmd} (hu : c.unstarted = true) (p : RPass) (st : Status) (cause : Nat) (note : Option FaultNote) :
    p.closedBy { c with place := .ended st cause, fault := note } = p.closedBy c := by
  have hlive : c.live = true := by
    unfold Cmd.unstarted at hu
    unfold Cmd.live
    split at hu <;> simp_all
  unfold RPass.closedBy
  rw [hlive]
  rfl

theorem RPass.closedBy_opcode {p : RPass} {c : Cmd} (h : p.closedBy c = true) : c.opcode = 0x6003 := by
  simp only [RPass.closedBy, Bool.and_eq_true, beq_iff_eq] at h
  exact h.1.1.1.1.1

/-- A command that ends OK fails no pass. -/
theorem State.endCmd_ok_passFailed (s : State) (u cause : Nat) (p : RPass) : (s.endCmd u .ok cause).passFailed p = s.passFailed p := by
  refine State.passFailed_map rfl (fun d => ?_) fun d _ _ => ?_
  · split
    · next h => exact RPass.closedBy_ended (Bool.and_eq_true_iff.mp h).2 p .ok cause d.fault
    · rfl
  · split
    · next h =>
      have hu := (Bool.and_eq_true_iff.mp h).2
      unfold Cmd.unstarted at hu
      unfold Cmd.endedBadly
      split at hu <;> simp_all
    · rfl

/-- Nor does one that is no RS_PASS_CLOSE, however it ends. -/
theorem State.faultWith_passFailed {s : State} {c : Cmd} (hone : ∀ d ∈ s.cmds, d.uid = c.uid → d = c) (hop : c.opcode ≠ 0x6003) (st : Status)
    (cause : Nat) (note : FaultNote) (p : RPass) : (s.faultWith c.uid st cause note).passFailed p = s.passFailed p := by
  refine State.passFailed_map rfl (fun d => ?_) fun d hd hclose => ?_
  · split
    · next h => exact RPass.closedBy_ended (Bool.and_eq_true_iff.mp h).2 p st cause (some note)
    · rfl
  · split
    · next h =>
      have hdc := hone d hd (eq_of_beq (Bool.and_eq_true_iff.mp h).1)
      exact absurd (RPass.closedBy_opcode hclose) (hdc ▸ hop)
    · rfl

theorem State.rpasses_of_passFailed {s t : State} (h : ∀ p, t.passFailed p = s.passFailed p) :
    t.rpasses = t.raster.passes.filter fun p => !s.passFailed p := by
  unfold State.rpasses
  exact List.filter_congr fun p _ => congrArg (!·) (h p)

theorem State.rpasses_filter (s : State) : (s.rpasses.filter fun p => !s.passFailed p) = s.rpasses := by
  rw [State.rpasses, List.filter_filter]
  simp

/-- A pass put in the place of one of its number, job and aperture. -/
theorem State.filter_putPass {s : State} {p q : RPass} (hu : q.uid = p.uid) (hj : q.job = p.job) (ha : q.apt = p.apt)
    (hone : ∀ x ∈ s.raster.passes, x.uid = p.uid → x = p) :
    ((s.putPass q).raster.passes.filter fun x => !s.passFailed x) = s.rpasses.map fun x => if x.uid == p.uid then q else x := by
  unfold State.rpasses State.putPass
  rw [List.filter_map, hu]
  refine congrArg _ (List.filter_congr fun x hx => ?_)
  dsimp only [Function.comp]
  split
  · next h =>
    rw [hone x hx (eq_of_beq h)]
    exact congrArg (!·) (State.passFailed_congr rfl hu hj ha)
  · rfl

/-- The passes that are left when one goes that has just been changed. -/
theorem State.dropPass_putPass (s : State) {p q : RPass} (hu : q.uid = p.uid) :
    ((s.putPass q).dropPass p.uid).raster.passes = s.raster.passes.filter fun x => x.uid != p.uid := by
  unfold State.dropPass State.putPass
  dsimp only
  rw [List.filter_map, hu]
  have hkeep : ((fun x : RPass => x.uid != p.uid) ∘ fun x : RPass => if (x.uid == p.uid) = true then q else x) = fun x => x.uid != p.uid := by
    funext x
    dsimp only [Function.comp]
    split
    · next h => rw [hu, bne, bne, h]; simp
    · rfl
  rw [hkeep]
  refine (List.map_congr_left fun x hx => ?_).trans (List.map_id _)
  have hne : (x.uid == p.uid) = false := by simpa [bne] using (List.mem_filter.mp hx).2
  rw [hne]
  rfl

end Sys2Proof.Machine
end

section
set_option Elab.async false
namespace Sys2Proof.Machine

/-! ### Counts, interrupts and corrections do not look at the raster engine's own state -/

/-- The state with another raster engine. -/
def State.withRaster (s : State) (r : Raster) : State := { s with raster := r }

section
variable (s : State) (r : Raster)

theorem State.withRaster_ite {c : Prop} [Decidable c] (x y : State) :
    (if c then x else y).withRaster r = if c then x.withRaster r else y.withRaster r := apply_ite (State.withRaster · r) c x y

theorem State.withRaster_foldl {α : Type} {g : State → α → State} (hg : ∀ (t : State) a, g (t.withRaster r) a = (g t a).withRaster r) (l : List α) :
    l.foldl g (s.withRaster r) = (l.foldl g s).withRaster r := by
  induction l generalizing s with
  | nil => rfl
  | cons a l ih => rw [List.foldl_cons, List.foldl_cons, hg, ih]

theorem State.withRaster_evalVector (v : Nat) : (s.withRaster r).evalVector v = (s.evalVector v).withRaster r := by
  unfold State.evalVector State.signal
  simp only [State.withRaster_ite]
  rfl

theorem State.withRaster_irq (b : Blk) (i : Nat) (m : Word) : (s.withRaster r).irq b i m = (s.irq b i m).withRaster r :=
  State.withRaster_evalVector (s.putPage b i { s.page b i with raw := (s.page b i).raw ||| m }) r b.vector

theorem State.withRaster_bump (b : Blk) (i off n : Nat) : (s.withRaster r).bump b i off n = (s.bump b i off n).withRaster r := rfl

theorem State.withRaster_saturate (die key : Nat) : (s.withRaster r).saturate die key = (s.saturate die key).withRaster r :=
  State.withRaster_irq (s.putCtr key { s.ctr key with count := ctrTop, ovf := true }) r .perf die 0b01

theorem State.withRaster_pulse (b : Blk) (i event n : Nat) (job : Option Nat) :
    (s.withRaster r).pulse b i event n job = (s.pulse b i event n job).withRaster r := by
  unfold State.pulse
  simp only [State.withRaster_ite]
  rw [State.withRaster_foldl s r fun t k => ?_]
  · rfl
  · simp only [State.withRaster_ite, ← State.withRaster_saturate]
    rfl

theorem State.withRaster_logFault (b : Blk) (i cls action addr commands moved us : Nat) :
    (s.withRaster r).logFault b i cls action addr commands moved us = (s.logFault b i cls action addr commands moved us).withRaster r := by
  have hreg (o : Nat) : (s.withRaster r).reg .fault 0 o = s.reg .fault 0 o := rfl
  unfold State.logFault State.logFaultAt
  rw [State.withRaster_ite]
  refine if_congr Iff.rfl rfl ?_
  simp only [hreg, ← State.withRaster_irq]
  by_cases hbase : (pairAddr (s.reg .fault 0 0x074) (s.reg .fault 0 0x078) == 0) = true <;>
    simp only [hbase, if_true, if_false, Bool.false_eq_true] <;> cases classCounter cls <;> rfl

theorem State.withRaster_unitCorr (b : Blk) (i : Nat) : (s.withRaster r).unitCorr b i = (s.unitCorr b i).withRaster r := by
  unfold State.unitCorr
  split
  · rw [State.withRaster_ite, State.withRaster_bump, State.withRaster_irq]
  · rfl

theorem State.withRaster_countCorrected (w : Nat) (e : Blk × Nat × Nat × Nat) :
    (s.withRaster r).countCorrected w e = (s.countCorrected w e).withRaster r := by
  unfold State.countCorrected
  rw [State.withRaster_pulse, ← State.withRaster_ite, State.withRaster_bump, State.withRaster_irq, State.withRaster_logFault]

theorem State.withRaster_eccHome (a : Nat) : (s.withRaster r).eccHome a = s.eccHome a := by
  rw [State.eccHome_eq, State.eccHome_eq]
  rfl

theorem State.withRaster_correctWord (w : Nat) : (s.withRaster r).correctWord w = (s.correctWord w).withRaster r := by
  rw [State.correctWord_eq, State.correctWord_eq, State.withRaster_eccHome]
  cases s.eccHome (8 * w) with
  | none => rfl
  | some e => exact (s.wordMended w).withRaster_countCorrected r w e

theorem State.withRaster_correctRead (b : Blk) (i a n : Nat) : (s.withRaster r).correctRead b i a n = (s.correctRead b i a n).withRaster r := by
  unfold State.correctRead
  exact State.withRaster_foldl s r (fun t w => by rw [State.withRaster_correctWord, State.withRaster_unitCorr]) _

theorem State.withRaster_correctReads (b : Blk) (i : Nat) (rs : List (Nat × Nat)) :
    (s.withRaster r).correctReads b i rs = (s.correctReads b i rs).withRaster r :=
  State.withRaster_foldl s r (fun t x => t.withRaster_correctRead r b i x.1 x.2) rs

end

end Sys2Proof.Machine
end

section
set_option Elab.async false
namespace Sys2Proof.Machine

/-! ### What a command meets in memory (R241, R283) -/

theorem State.itemError_nil (s : State) (reads : List (Nat × Nat)) :
    s.itemError [] reads = s.badRead (reads.map fun r => (r.1, r.2, eccCause r.1)) := by
  have hnone : s.badChunk [] = none := List.find?_eq_none.mpr fun k _ => by simp
  unfold State.itemError
  rw [hnone]

theorem State.itemError_bad {s : State} {a n : Nat} (h : s.badIn a n = true) : ∃ x, s.itemError [] [(a, n)] = some (eccCause a, x) := by
  obtain ⟨x, hx⟩ : ∃ x, s.firstBad a n = some x :=
    Option.ne_none_iff_exists'.mp fun hnone => Bool.false_ne_true (((s.firstBad_eq_none_iff a n).mp hnone).symm.trans h)
  exact ⟨x, by simp [State.itemError_nil, State.badRead, hx]⟩

theorem State.itemError_sound {s : State} {a n : Nat} (h : s.badIn a n = false) : s.itemError [] [(a, n)] = none := by
  simp [State.itemError_nil, State.badRead, (s.firstBad_eq_none_iff a n).mpr h]

/-! ### RS_PASS_OPEN (R223) -/

/-- The start of a command leaves the passes as they are. -/
theorem State.starts_rpasses (s : State) (c : Cmd) : (s.starts c).rpasses = s.rpasses :=
  State.rpasses_congr (s.starts_only c .cmds rfl) (congrArg Raster.passes (s.starts_only c .raster rfl))

/-- A command that the geometry stage passes over is not the next one. -/
theorem State.rasterHead_passedOver {s : State} {c : Cmd} (hone : ∀ d ∈ s.cmds, d.uid = c.uid → d = c) (h : s.passedOver c = true) (op : Nat) :
    s.rasterHead c.uid op = none := by
  have hnone : s.rasterHeads.find? (fun d => d.uid == c.uid) = none := by
    refine List.find?_eq_none.mpr fun d hd hu => ?_
    obtain ⟨hq, hgoes⟩ := State.rasterHeads_mem hd
    rw [hone d (List.mem_of_mem_filter hq) (eq_of_beq hu), h] at hgoes
    cases hgoes
  simp only [State.rasterHead, hnone]

theorem execRsPassOpen_waits {s : State} {c : Cmd} (hone : ∀ d ∈ s.cmds, d.uid = c.uid → d = c) (h : s.waitsForPass c = true) :
    exec (.rsPassOpen c.uid) s = .next s := by
  have hover : s.passedOver c = true := by simp [State.passedOver, h]
  show Host.Outcome.next (s.rasterOp c.uid 0x6001 State.passOpenFails State.passOpen) = _
  simp only [State.rasterOp, State.rasterHead_passedOver hone hover]

section
variable {s : State} {c : Cmd} (hhead : s.rasterHead c.uid 0x6001 = some c) (hw : s.waitPoisoned c = false) (hf : s.passOpenFails c = [])
include hhead hw hf

theorem execRsPassOpen_meets_bad {e : Nat × Nat} (he : s.itemError [] [(c.num 24 8, 64)] = some e) :
    exec (.rsPassOpen c.uid) s = .next ((s.starts c).faultCmd c.uid .ecc e.1 e.2).rasterRest.track := by
  show Host.Outcome.next (s.rasterOp c.uid 0x6001 State.passOpenFails State.passOpen) = _
  rw [State.rasterOp_goes hhead _ _ hw hf]
  simp only [State.passOpen, he]

theorem execRsPassOpen_opens (he : s.itemError [] [(c.num 24 8, 64)] = none) :
    exec (.rsPassOpen c.uid) s = .next (((((s.starts c).correctReads .raster 0 [(c.num 24 8, 64)]).withRaster
      { s.raster with passes := s.rpasses ++ [s.passAt c (c.num 24 8)] }).endCmd c.uid .ok 0).rasterRest.track) := by
  show Host.Outcome.next (s.rasterOp c.uid 0x6001 State.passOpenFails State.passOpen) = _
  rw [State.rasterOp_goes hhead _ _ hw hf, ← State.withRaster_correctReads, ← s.starts_rpasses c, ← s.starts_only c .raster rfl]
  simp only [State.passOpen, he]
  rfl

end

/-- What a raster command that ends OK leaves, from a state that has changed no command. -/
theorem State.rasterDone {s t : State} {c : Cmd} (hc : s.cmd? c.uid = some c) (hu : c.unstarted = true) (ht : t.cmds = s.cmds) :
    (t.endCmd c.uid .ok 0).rasterRest.track.cmd? c.uid = some { c with place := .ended .ok 0 } ∧
      (∀ v, v ≠ c.uid → (t.endCmd c.uid .ok 0).rasterRest.track.cmd? v = s.cmd? v) ∧
      (t.endCmd c.uid .ok 0).rasterRest.track.raster.passes = t.raster.passes.filter (fun p => !s.passFailed p) ∧
      (t.endCmd c.uid .ok 0).rasterRest.track.mem = t.mem ∧
      Only [.cmds, .engines, .hostMem, .msix, .pages, .raster] t (t.endCmd c.uid .ok 0).rasterRest.track := by
  obtain ⟨hend, hother, -, honly⟩ := State.rasterEnds ((State.cmd?_congr ht c.uid).trans hc) hu .ok 0
  refine ⟨hend, fun v hv => (hother v hv).trans (State.cmd?_congr ht v), ?_, ?_, honly⟩
  · rw [State.rasterRest_track_passes]
    exact State.rpasses_of_passFailed fun p => (t.endCmd_ok_passFailed c.uid 0 p).trans (State.passFailed_congr ht rfl rfl rfl)
  · rw [State.rasterRest_track_mem]
    rfl

section
variable {s : State} {c : Cmd} (hc : s.cmd? c.uid = some c) (hhead : s.rasterHead c.uid 0x6001 = some c) (hw : s.waitPoisoned c = false)
  (hf : s.passOpenFails c = [])
include hc hhead hw hf

/-- A descriptor with an uncorrectable word opens no pass. -/
theorem rsPassOpen_meets_bad (hone : ∀ d ∈ s.cmds, d.uid = c.uid → d = c) (hbad : s.badIn (c.num 24 8) 64 = true) :
    ∃ t, exec (.rsPassOpen c.uid) s = .next t ∧
      (∃ a, t.cmd? c.uid = some { c with place := .ended .ecc (eccCause (c.num 24 8)), fault := some ⟨s.now, a, 1⟩ }) ∧
      t.raster.passes = s.rpasses := by
  obtain ⟨-, -, hop, hu⟩ := State.rasterHead_cmd hhead
  have hstarts := s.starts_only c
  have hone' : ∀ d ∈ (s.starts c).cmds, d.uid = c.uid → d = c := by rw [hstarts .cmds rfl]; exact hone
  obtain ⟨a, ha⟩ := State.itemError_bad hbad
  refine ⟨_, execRsPassOpen_meets_bad hhead hw hf ha, ⟨a, ?_⟩, ?_⟩
  · rw [State.rasterRest_track_cmd?, State.faultCmd_ends ((State.cmd?_congr (hstarts .cmds rfl) c.uid).trans hc) hu, hstarts .now rfl]
  · rw [State.rasterRest_track_passes]
    exact (State.rpasses_of_passFailed (State.faultWith_passFailed hone' (by omega) _ _ _)).trans (s.starts_rpasses c)

/-- Else the pass of the descriptor is open, and the command is done. -/
theorem rsPassOpen_opens (hgood : s.badIn (c.num 24 8) 64 = false) (hlives : s.passFailed (s.passAt c (c.num 24 8)) = false) :
    ∃ t, exec (.rsPassOpen c.uid) s = .next t ∧ t.cmd? c.uid = some { c with place := .ended .ok 0 } ∧
      t.raster.passes = s.rpasses ++ [s.passAt c (c.num 24 8)] ∧ (∀ v, v ≠ c.uid → t.cmd? v = s.cmd? v) ∧
      t.mem = ((s.starts c).correctReads .raster 0 [(c.num 24 8, 64)]).mem ∧
      Only [.badWords, .cmds, .ctrs, .engines, .hostMem, .log, .mem, .msix, .pages, .raster, .regs, .softWords, .traceAt, .traceFill, .traceGap] s t := by
  obtain ⟨-, -, -, hu⟩ := State.rasterHead_cmd hhead
  have hstarts := s.starts_only c
  have hcorrected := (s.starts c).correctReads_only .raster 0 [(c.num 24 8, 64)]
  obtain ⟨hend, hother, hpasses, hmem, honly⟩ := State.rasterDone
    (t := ((s.starts c).correctReads .raster 0 [(c.num 24 8, 64)]).withRaster { s.raster with passes := s.rpasses ++ [s.passAt c (c.num 24 8)] })
    hc hu ((hcorrected .cmds rfl).trans (hstarts .cmds rfl))
  refine ⟨_, execRsPassOpen_opens hhead hw hf (State.itemError_sound hgood), hend, hpasses.trans ?_, hother, hmem, ?_⟩
  · show (s.rpasses ++ [s.passAt c (c.num 24 8)]).filter _ = _
    rw [List.filter_append, s.rpasses_filter]
    simp [hlives]
  · exact honly.step (by decide) (Only.set_raster.step (by decide) (hcorrected.step (by decide) (hstarts.mono (by decide))))

end

end Sys2Proof.Machine
end

section
set_option Elab.async false
namespace Sys2Proof.Machine

/-! ### RS_PASS_CLOSE (R223, R234) -/

/-- With no stalled command, none resumes. -/
theorem State.resumeStalled_none {s : State} (h : s.raster.stalled = []) : s.resumeStalled = s := by
  unfold State.resumeStalled
  rw [h]
  rfl

/-- The bins of a pass that is no canvas pass of a frame are never discarded. -/
theorem State.deadBin_eq_false (s : State) {p : RPass} (h : p.canvas = false ∨ p.frame = none) (k : Nat) : s.deadBin p k = false := by
  unfold State.deadBin
  rcases h with h | h <;> simp [h]

theorem State.heldBins_kept (s : State) {p : RPass} (h : p.canvas = false ∨ p.frame = none) :
    s.heldBins p = p.bins.lists.filter fun e => !e.2.isEmpty := by
  unfold State.heldBins
  exact List.filter_congr fun e _ => by rw [s.deadBin_eq_false h, Bool.not_false, Bool.and_true]

theorem State.passDone_noFrame (s t : State) {p : RPass} (h : p.frame = none) : t.passDone p = s.passDone p := by
  unfold State.passDone
  rw [s.heldBins_kept (.inr h), t.heldBins_kept (.inr h)]

/-- A pass that the geometry stage has reached the close `u` of. -/
def RPass.closing (p : RPass) (u : Nat) : RPass :=
  { p with closer := some u, bins := if p.canvas && p.frame.isNone then BinLists.fresh else p.bins }

section
variable {s : State} {p : RPass} {u : Nat} (hcloser : p.closer = some u)
include hcloser

theorem State.endPass_failed {f : Nat × FaultNote} (hf : p.fail = some f) :
    s.endPass p = ((s.faultWith u .ecc f.1 f.2).dropPass p.uid).rasterRest := by
  simp only [State.endPass, hcloser, hf]

theorem State.endPass_done (hf : p.fail = none) (hd : s.passDone p = true) : s.endPass p = ((s.endCmd u .ok 0).dropPass p.uid).rasterRest := by
  simp only [State.endPass, hcloser, hf, hd, if_true]

theorem State.endPass_waits (hf : p.fail = none) (hd : s.passDone p = false) : s.endPass p = s := by
  simp only [State.endPass, hcloser, hf, hd, Bool.false_eq_true, if_false]

end

/-- What has gone stays gone. -/
theorem State.rasterRest_rpasses (s : State) : s.rasterRest.rpasses = s.rpasses := by
  rw [State.rpasses_of_passFailed fun p => State.passFailed_congr s.rasterRest_cmds rfl rfl rfl, s.rasterRest_passes, s.rpasses_filter]

theorem State.putPass_passes_congr {s t : State} (h : t.raster = s.raster) (q : RPass) :
    (t.putPass q).raster.passes = (s.putPass q).raster.passes := by
  unfold State.putPass
  rw [h]

theorem State.faultWith_ends {s : State} {u : Nat} {c : Cmd} (hc : s.cmd? u = some c) (hu : c.unstarted = true) (st : Status) (cause : Nat)
    (note : FaultNote) : (s.faultWith u st cause note).cmd? u = some { c with place := .ended st cause, fault := some note } := by
  unfold State.faultWith State.cmd?
  dsimp only
  rw [find?_map_same]
  · rw [show s.cmds.find? (fun c => c.uid == u) = some c from hc, Option.map_some, List.find?_some hc, Bool.true_and, if_pos hu]
  · intro d
    split <;> rfl

/-- What a command that ends OK leaves, where the raster engine looks twice at what has gone. -/
theorem State.rasterDone_twice {s t : State} {c : Cmd} (hc : s.cmd? c.uid = some c) (hu : c.unstarted = true) (ht : t.cmds = s.cmds) :
    (t.endCmd c.uid .ok 0).rasterRest.rasterRest.track.cmd? c.uid = some { c with place := .ended .ok 0 } ∧
      (∀ v, v ≠ c.uid → (t.endCmd c.uid .ok 0).rasterRest.rasterRest.track.cmd? v = s.cmd? v) ∧
      (t.endCmd c.uid .ok 0).rasterRest.rasterRest.track.raster.passes = t.raster.passes.filter (fun p => !s.passFailed p) ∧
      (t.endCmd c.uid .ok 0).rasterRest.rasterRest.track.mem = t.mem ∧
      Only [.cmds, .engines, .hostMem, .msix, .pages, .raster] t (t.endCmd c.uid .ok 0).rasterRest.rasterRest.track := by
  obtain ⟨hend, hother, hpasses, hmem, -⟩ := State.rasterDone hc hu ht
  have hcmd (v : Nat) : (t.endCmd c.uid .ok 0).rasterRest.rasterRest.track.cmd? v = (t.endCmd c.uid .ok 0).rasterRest.track.cmd? v := by
    rw [State.rasterRest_track_cmd?, State.rasterRest_track_cmd?, State.cmd?_congr (State.rasterRest_cmds _)]
  refine ⟨(hcmd _).trans hend, fun v hv => (hcmd v).trans (hother v hv), ?_, ?_, ?_⟩
  · rw [State.rasterRest_track_passes, State.rasterRest_rpasses, ← State.rasterRest_track_passes, hpasses]
  · rw [State.rasterRest_track_mem, State.rasterRest_mem, ← State.rasterRest_track_mem, hmem]
  · exact (State.rasterRest_track_only _).step (by decide) ((State.rasterRest_only _).step (by decide)
      ((t.endCmd_only c.uid .ok 0).mono (by decide)))

section
variable {s : State} {c : Cmd} {p : RPass} (hhead : s.rasterHead c.uid 0x6003 = some c) (hw : s.waitPoisoned c = false)
  (hf : s.passCloseFails c = []) (hp : s.openPass c.job c.apt = some p)
include hhead hw hf hp

/-- The close of a pass of a frame marks the frame's table first (R234). -/
theorem execRsPassClose_frame {f : Nat} (hframe : p.frame = some f) : exec (.rsPassClose c.uid) s =
    .next (((((((s.starts c).putPass (p.closing c.uid)).markBinned f).readyTiles f).endPass (p.closing c.uid)).resumeStalled).rasterRest).track := by
  show Host.Outcome.next (s.rasterOp c.uid 0x6003 State.passCloseFails State.passClose) = _
  rw [State.rasterOp_goes hhead _ _ hw hf]
  simp only [State.passClose, hp, hframe]
  simp only [RPass.closing, hframe]

variable (hframe : p.frame = none) (hstalled : s.raster.stalled = [])
include hframe hstalled

theorem execRsPassClose_noFrame : exec (.rsPassClose c.uid) s =
    .next (((s.starts c).putPass (p.closing c.uid)).endPass (p.closing c.uid)).rasterRest.track := by
  have hnone : (((s.starts c).putPass (p.closing c.uid)).endPass (p.closing c.uid)).raster.stalled = [] :=
    State.endPass_stalled _ ((congrArg Raster.stalled (s.starts_only c .raster rfl)).trans hstalled)
  show Host.Outcome.next (s.rasterOp c.uid 0x6003 State.passCloseFails State.passClose) = _
  rw [State.rasterOp_goes hhead _ _ hw hf]
  simp only [State.passClose, hp, hframe]
  rw [← hframe]
  exact congrArg (fun t : State => Host.Outcome.next t.rasterRest.track) (State.resumeStalled_none hnone)

/-- A pass that has failed is dropped, and its close ends with the failure. -/
theorem rsPassClose_failed (hc : s.cmd? c.uid = some c) {f : Nat × FaultNote} (hfail : p.fail = some f) :
    ∃ t, exec (.rsPassClose c.uid) s = .next t ∧ t.cmd? c.uid = some { c with place := .ended .ecc f.1, fault := some f.2 } ∧
      (∀ x ∈ t.raster.passes, x.uid ≠ p.uid) := by
  obtain ⟨-, -, -, hu⟩ := State.rasterHead_cmd hhead
  refine ⟨_, execRsPassClose_noFrame hhead hw hf hp hframe hstalled, ?_, fun x hx => ?_⟩
  · rw [State.rasterRest_track_cmd?, State.endPass_failed (p := p.closing c.uid) rfl hfail, State.cmd?_congr (State.rasterRest_cmds _),
      State.cmd?_congr (State.dropPass_only _ _ .cmds rfl)]
    exact State.faultWith_ends (s := (s.starts c).putPass (p.closing c.uid)) ((State.cmd?_congr (s.starts_only c .cmds rfl) c.uid).trans hc) hu .ecc f.1 f.2
  · rw [State.rasterRest_track_passes, State.endPass_failed (p := p.closing c.uid) rfl hfail] at hx
    have hin := List.mem_of_mem_filter hx
    rw [State.rasterRest_passes] at hin
    simpa [RPass.closing] using (List.mem_filter.mp (List.mem_of_mem_filter hin)).2

/-- One whose bins are all written or discarded is dropped, and its close ends OK. -/
theorem rsPassClose_done (hc : s.cmd? c.uid = some c) (hfail : p.fail = none) (hdone : s.passDone (p.closing c.uid) = true) :
    ∃ t, exec (.rsPassClose c.uid) s = .next t ∧ t.cmd? c.uid = some { c with place := .ended .ok 0 } ∧
      t.raster.passes = s.rpasses.filter (fun x => x.uid != p.uid) ∧ (∀ v, v ≠ c.uid → t.cmd? v = s.cmd? v) ∧
      t.mem = (s.starts c).mem ∧
      Only [.badWords, .cmds, .ctrs, .engines, .hostMem, .mem, .msix, .pages, .raster, .regs, .softWords, .traceAt, .traceFill, .traceGap] s t := by
  obtain ⟨-, -, -, hu⟩ := State.rasterHead_cmd hhead
  have hstarts := s.starts_only c
  have hends : ((s.starts c).putPass (p.closing c.uid)).endPass (p.closing c.uid) =
      ((((s.starts c).putPass (p.closing c.uid)).dropPass p.uid).endCmd c.uid .ok 0).rasterRest :=
    State.endPass_done (p := p.closing c.uid) rfl hfail ((State.passDone_noFrame s _ (p := p.closing c.uid) hframe).trans hdone)
  have hpasses : (((s.starts c).putPass (p.closing c.uid)).dropPass p.uid).raster.passes = s.raster.passes.filter fun x => x.uid != p.uid := by
    rw [State.dropPass_putPass (s.starts c) (p := p) (q := p.closing c.uid) rfl, hstarts .raster rfl]
  have honly : Only [.badWords, .ctrs, .hostMem, .mem, .msix, .pages, .raster, .regs, .softWords, .traceAt, .traceFill, .traceGap] s
      (((s.starts c).putPass (p.closing c.uid)).dropPass p.uid) :=
    (State.dropPass_only _ p.uid).step (by decide) ((State.putPass_only _ _).step (by decide) (hstarts.mono (by decide)))
  obtain ⟨hend, hother, hleft, hmem, hrest⟩ := State.rasterDone_twice hc hu (honly .cmds rfl)
  rw [execRsPassClose_noFrame hhead hw hf hp hframe hstalled, hends]
  exact ⟨_, rfl, hend, by rw [hleft, hpasses, State.rpasses, List.filter_comm], hother,
    hmem.trans ((State.dropPass_only _ p.uid .mem rfl).trans (State.putPass_only _ _ .mem rfl)), hrest.step (by decide) (honly.mono (by decide))⟩

/-- Before that it waits as the pass's close. -/
theorem rsPassClose_waits (hone : ∀ x ∈ s.raster.passes, x.uid = p.uid → x = p) (hfail : p.fail = none)
    (hwaits : s.passDone (p.closing c.uid) = false) :
    ∃ t, exec (.rsPassClose c.uid) s = .next t ∧ t.cmds = s.cmds ∧
      t.raster.passes = s.rpasses.map (fun x => if x.uid == p.uid then p.closing c.uid else x) ∧ t.mem = (s.starts c).mem ∧
      Only [.badWords, .ctrs, .engines, .hostMem, .mem, .msix, .pages, .raster, .regs, .softWords, .traceAt, .traceFill, .traceGap] s t := by
  have hstarts := s.starts_only c
  have hstays : ((s.starts c).putPass (p.closing c.uid)).endPass (p.closing c.uid) = (s.starts c).putPass (p.closing c.uid) :=
    State.endPass_waits (p := p.closing c.uid) rfl hfail ((State.passDone_noFrame s _ (p := p.closing c.uid) hframe).trans hwaits)
  rw [execRsPassClose_noFrame hhead hw hf hp hframe hstalled, hstays]
  refine ⟨_, rfl, ?_, ?_, State.rasterRest_track_mem _, ?_⟩
  · exact (State.track_only _ .cmds rfl).trans ((State.rasterRest_cmds _).trans (hstarts .cmds rfl))
  · have hfailed (x : RPass) : ((s.starts c).putPass (p.closing c.uid)).passFailed x = s.passFailed x :=
      State.passFailed_congr (hstarts .cmds rfl) rfl rfl rfl
    rw [State.rasterRest_track_passes, State.rpasses_of_passFailed hfailed, State.putPass_passes_congr (hstarts .raster rfl)]
    exact State.filter_putPass rfl rfl rfl hone
  · exact (State.rasterRest_track_only _).step (by decide) ((State.putPass_only _ _).step (by decide) (hstarts.mono (by decide)))

end

/-- Settles O38: the open adds `State.passAt`, and the close is what `State.endPass` makes of the pass that it closes. -/
theorem rasterPassesOpenAndClose : Obligations.RasterPassesOpenAndClose := by
  unfold Obligations.RasterPassesOpenAndClose
  intro s c hc hone
  refine ⟨fun _ hwaits => execRsPassOpen_waits hone hwaits, fun hw hhead hf => ⟨rsPassOpen_meets_bad hc hhead hw hf hone, rsPassOpen_opens hc hhead hw hf⟩,
    fun p q hw hhead hf hp hq => ?_⟩
  obtain rfl : q = p.closing c.uid := hq
  exact ⟨fun f => execRsPassClose_frame hhead hw hf hp, fun hframe hstalled hpass =>
    ⟨fun f => rsPassClose_failed hhead hw hf hp hframe hstalled hc, rsPassClose_done hhead hw hf hp hframe hstalled hc,
      rsPassClose_waits hhead hw hf hp hframe hstalled hpass⟩⟩

end Sys2Proof.Machine
end

section
set_option Elab.async false
namespace Sys2Proof.Machine

/-! ### A reference that finds no chunk (R227, R228) -/

/-- Every number of a range taken: none of them is free. -/
theorem firstFree_none_of_taken {used : List Nat} (n k : Nat) (h : ∀ j, k ≤ j → j < k + n → j ∈ used) : firstFree used n k = none := by
  induction n generalizing k with
  | zero => rfl
  | succ n ih =>
    rw [firstFree, if_pos (List.contains_iff_mem.mpr (h k (Nat.le_refl k) (by omega)))]
    exact ih (k + 1) fun j h1 h2 => h j (by omega) (by omega)

/-- A pass that holds nothing gets no reference while no chunk is free. -/
theorem BinLists.add_full {b : BinLists} {used : List Nat} {low top : Nat} (hl : b.lists = []) (ha : b.ahead = none)
    (h : firstFree used (top - low) low = none) (x : Packet) (k : Nat) (fresh : Bool) : b.add used low top x k fresh = (b, false) := by
  simp [BinLists.add, BinLists.recordChunk, hl, ha, h]

theorem State.refInto_full {s : State} {c : Cmd} {p : RPass} (hp : s.openPass c.job c.apt = some p) (hl : (s.heldLists p).lists = [])
    (ha : p.bins.ahead = none) (h : firstFree s.takenChunks (s.chunks - s.warpReserve) s.warpReserve = none) (x : Packet) (e : Nat × Nat) :
    s.refInto c x e = ((s.putPass { p with bins := s.heldLists p }).freshChunks s.takenChunks (s.heldLists p), false) := by
  have hadd := BinLists.add_full hl (show (s.heldLists p).ahead = none from ha) h x e.2 (e.1 == 0)
  rw [State.refInto, hp]
  simp only [State.addRef, hadd, Bool.false_and, Bool.false_eq_true, if_false]

/-! ### One record of one bin, of a draw whose page has not come (R228, R229) -/

section
variable {s : State} {c : Cmd} {x : Packet} {late : Option (Nat × Nat)}

/-- Out of GROW mode a reference without room is tried again after a partial flush. -/
theorem State.refOne_again {t v : State} {e : Nat × Nat} (h : s.refInto c x e = (t, false)) (hg : t.growMode = false)
    (hv : t.partialFlush.refInto c x e = (v, true)) :
    State.refOne c late x (s, false) e = (v.setDrawn c.uid ((v.drawn c.uid).1, e.1 + 1), false) := by
  simp only [State.refOne, h, hg, hv, Bool.false_and, Bool.false_eq_true, if_false, if_true]

theorem State.recordOne_single {t : State} {p : RPass} {b : Nat × Nat} {n : Nat} (hp : s.openPass c.job c.apt = some p)
    (hgood : badRecord p.texCount x = false) (hb : ((triOf x).map fun y => y.bins p.w p.h) = some [b]) (hd : s.drawn c.uid = (n, 0))
    (ht : State.refOne c late x (s, false) (0, b.2 * p.columns + b.1) = (t, false)) :
    State.recordOne c late (s, false) x = (((t.bump .raster 0 0x060 1).pulse .raster 0 0x10 1 (some c.job)).setDrawn c.uid (n + 1, 0), false) := by
  simp [State.recordOne, hp, hgood, hb, hd, ht]

/-- A draw without the marks of a stall or of parking. -/
def State.unheld (s : State) (uid : Nat) : State :=
  { s with raster := { s.raster with
    stalled := s.raster.stalled.filter fun (e : Nat × Nat) => e.1 != uid, parked := s.raster.parked.filter (· != uid) } }

theorem State.unheld_taken (s : State) (u : Nat) : (s.unheld u).takenChunks = s.takenChunks := rfl

theorem State.unheld_chunks (s : State) (u : Nat) : (s.unheld u).chunks = s.chunks := rfl

theorem State.unheld_warpReserve (s : State) (u : Nat) : (s.unheld u).warpReserve = s.warpReserve := rfl

theorem State.unheld_openPass (s : State) (u job apt : Nat) : (s.unheld u).openPass job apt = s.openPass job apt := rfl

theorem State.unheld_heldLists (s : State) (u : Nat) (p : RPass) : (s.unheld u).heldLists p = s.heldLists p := rfl

/-- A draw that bins its last record ends. -/
theorem State.drawLate_single {t : State} (he : s.itemError [] (s.recordReads c) = none) (hs : s.softWords = []) (hx : s.recordsLeft c = [x])
    (ht : State.recordOne c late (s.unheld c.uid, false) x = (t, false)) (hd : c.num 32 4 ≤ (t.drawn c.uid).1) :
    s.drawLate c late = { t with raster := { t.raster with draws := SMap.erase t.raster.draws c.uid } }.endCmd c.uid .ok 0 := by
  have hsoft : (s.unheld c.uid).correctReads .raster 0 (s.recordReads c) = s.unheld c.uid :=
    State.correctReads_of_no_soft (s := s.unheld c.uid) hs _ _ _
  have hleft : (s.unheld c.uid).recordsLeft c = [x] := hx
  rw [State.unheld] at hsoft hleft ht
  simp [State.drawLate, he, hsoft, hleft, ht, hd]

end

/-! ### Two passes of one number (R228) -/

/-- An RS_DRAW of the one record at 0x2000, in the raster queue. -/
def pairDraw : Cmd := { strayCmd with pkt := BitVec.ofNat 512 (0x6002 + 5 * 2 ^ 16 + 0x2000 * 2 ^ 192 + 2 ^ 256) }

/-- The pass that it draws in, of 64 by 64 pixels. -/
def pairPass : RPass :=
  { uid := 4, job := 5, apt := 1, step := none, canvas := false, frame := none, load := false, fmt := 0, clear := 0, clearZ := 0, w := 64, h := 64
    target := 0x100000, pitch := 256, spill := 0x200000, tex := 0, texCount := 0, bins := BinLists.fresh, flushed := [], closer := none
    doneBins := [], fail := none }

/-- A canvas pass of another job under the same number, which holds every chunk that a pass can take. -/
def pairHolder : RPass :=
  { pairPass with
    job := 6, canvas := true, w := 3840, h := 2160
    bins := ⟨(List.range 768).map fun k => (k, [⟨0, 512 + 2 * k, 513 + 2 * k⟩]), 0, 0, none⟩ }

/-- Bin memory of 8 MiB out of GROW mode with a quarter of it kept for warps, the draw stalled, and a triangle at the origin with sides of 10 as its
record. -/
def pairState : State :=
  { State.reset.setReg .raster 0 0x048 (512 * 2 ^ 16 + 8 * 2 ^ 8) with
    devState := 3
    cmds := [pairDraw]
    mem := [(0x200E, 0x20), (0x200F, 0x41), (0x201E, 0x20), (0x201F, 0x41), (0x2034, 0xFF), (0x2035, 0xFF)]
    raster := { Raster.reset with passes := [pairPass, pairHolder], stalled := [(7, 30)] } }

/-- That state at the time at which its page has not come. -/
def pairDue : State :=
  ((pairState.at (30 + max 1 (bits (pairState.reg .raster 0 0x04C) 15 0) * usTicks)).bump .raster 0 0x068 1).irq .raster 0 0b100000

/-- The record of the draw. -/
def pairRecord : Packet := BitVec.ofNat 512 (pairState.devNat 0x2000 64)

/-- The state after the first try: both passes of the number have become the one that is drawn in, and no chunk is held. -/
def pairFreed : State := (pairDue.unheld pairDraw.uid).withRaster { Raster.reset with passes := [pairPass, pairPass] }

/-- The reference that finds room at the second try. -/
def pairFilled : State := (pairFreed.partialFlush.refInto pairDraw pairRecord (0, 0)).1

theorem pair_stalls : pairState.cmd? pairDraw.uid = some pairDraw ∧ (∀ d ∈ pairState.cmds, d.uid = pairDraw.uid → d = pairDraw) ∧
    (pairState.page .raster 0).faulted = false ∧ pairState.inRaster pairDraw.uid = true ∧
    (pairState.raster.stalled.find? fun x => x.1 == pairDraw.uid) = some (7, 30) := by decide +kernel

theorem pair_draws : pairState.softWords = [] ∧ (pairState.raster.stalled.all fun y => y.1 == pairDraw.uid) = true ∧ pairState.drawn pairDraw.uid = (0, 0) ∧
    pairDue.itemError [] (pairDue.recordReads pairDraw) = none ∧ pairDraw.num 32 4 = 1 ∧ pairDraw.num 24 8 = 0x2000 ∧
    badRecord 0 pairRecord = false ∧ ((triOf pairRecord).map fun y => y.bins 64 64) = some [(0, 0)] := by decide +kernel

theorem pair_due_drawn : pairDue.drawn pairDraw.uid = (0, 0) := by decide +kernel

theorem pair_not_flushable : (pairDue.rpasses.all fun p => (pairDue.flushable p).isEmpty) = true := by decide +kernel

theorem pair_taken : pairDue.takenChunks = List.range' 512 1536 := by decide +kernel

theorem pair_memory : pairDue.chunks = 2048 ∧ pairDue.warpReserve = 512 ∧ pairDue.openPass pairDraw.job pairDraw.apt = some pairPass ∧
    pairDue.heldLists pairPass = BinLists.fresh := by decide +kernel

/-- No chunk is free at the first try. -/
theorem pair_full : firstFree pairDue.takenChunks (pairDue.chunks - pairDue.warpReserve) pairDue.warpReserve = none := by
  obtain ⟨hchunks, hreserve, -, -⟩ := pair_memory
  rw [pair_taken, hchunks, hreserve]
  exact firstFree_none_of_taken _ _ fun j h1 h2 => List.mem_range'_1.mpr ⟨h1, h2⟩

theorem pair_refInto (x : Packet) (e : Nat × Nat) : (pairDue.refInto pairDraw x e).2 = false := by
  obtain ⟨-, -, hopen, hheld⟩ := pair_memory
  rw [State.refInto_full hopen (by rw [hheld]; rfl) rfl pair_full]

theorem pair_unheld_refInto (x : Packet) (e : Nat × Nat) : (pairDue.unheld pairDraw.uid).refInto pairDraw x e = (pairFreed, false) := by
  obtain ⟨-, -, hopen, hheld⟩ := pair_memory
  rw [State.refInto_full (s := pairDue.unheld pairDraw.uid) ((State.unheld_openPass _ _ _ _).trans hopen)
    (by rw [State.unheld_heldLists, hheld]; rfl) rfl (by rw [State.unheld_taken, State.unheld_chunks, State.unheld_warpReserve, pair_full]),
    State.unheld_heldLists, State.unheld_taken, hheld]
  exact congrArg (fun r => ((pairDue.unheld pairDraw.uid).withRaster r, false)) (by decide +kernel)

theorem pair_second : pairFreed.growMode = false ∧ (pairFreed.partialFlush.refInto pairDraw pairRecord (0, 0)).2 = true ∧
    (pairFilled.drawn pairDraw.uid).1 = 0 ∧ (pairDue.unheld pairDraw.uid).drawn pairDraw.uid = (0, 0) ∧ pairDue.softWords = [] ∧
    pairDue.recordsLeft pairDraw = [pairRecord] ∧ pairDraw.num 32 4 = 1 := by decide +kernel

/-- The state in which the record is binned. -/
def pairBinned : State :=
  (((pairFilled.setDrawn pairDraw.uid (0, 1)).bump .raster 0 0x060 1).pulse .raster 0 0x10 1 (some pairDraw.job)).setDrawn pairDraw.uid (1, 0)

theorem pair_binned : (pairBinned.drawn pairDraw.uid).1 = 1 := by decide +kernel

/-- At the second try the draw goes on to its end. -/
theorem pair_draw_ends : pairDue.drawLate pairDraw (some (0, 0)) = { pairBinned with
    raster := { pairBinned.raster with draws := SMap.erase pairBinned.raster.draws pairDraw.uid } }.endCmd pairDraw.uid .ok 0 := by
  obtain ⟨-, -, -, hitem, -, -, hgood, hbins⟩ := pair_draws
  obtain ⟨-, -, hopen, -⟩ := pair_memory
  obtain ⟨hmode, hroom, hnone, hdrawn, hsoft, hleft, hcount⟩ := pair_second
  have href : State.refOne pairDraw (some (0, 0)) pairRecord (pairDue.unheld pairDraw.uid, false) (0, 0) =
      (pairFilled.setDrawn pairDraw.uid (0, 1), false) := by
    rw [State.refOne_again (v := pairFilled) (pair_unheld_refInto _ _) hmode (Prod.ext (by rw [pairFilled]) hroom), hnone]
  have hrecord : State.recordOne pairDraw (some (0, 0)) (pairDue.unheld pairDraw.uid, false) pairRecord = (pairBinned, false) :=
    State.recordOne_single (p := pairPass) ((State.unheld_openPass _ _ _ _).trans hopen) hgood hbins hdrawn href
  exact State.drawLate_single hitem hsoft hleft hrecord (by rw [hcount, pair_binned])

theorem pair_not_waiting : leavesWaiting pairDraw.uid (.next (pairDue.drawLate pairDraw (some (0, 0))).resumeStalled.track) = false := by
  rw [pair_draw_ends]
  decide +kernel

/-- GROW_TIMEOUT of a stalled draw: the draw tries again at the due time, with the reference that has waited (R229). -/
theorem execGrowTimeout_due {s : State} {c : Cmd} {e : Nat × Nat} (hc : s.cmd? c.uid = some c) (hin : s.inRaster c.uid = true)
    (hf : (s.page .raster 0).faulted = false) (he : (s.raster.stalled.find? fun x => x.1 == c.uid) = some e) {u : State}
    (hu : u = ((s.at (e.2 + max 1 (bits (s.reg .raster 0 0x04C) 15 0) * usTicks)).bump .raster 0 0x068 1).irq .raster 0 0b100000) :
    exec (.growTimeout c.uid) s = .next (u.drawLate c (some (u.drawn c.uid))).resumeStalled.track := by
  subst hu
  show execGrowTimeout c.uid s = _
  simp only [execGrowTimeout, he, hc, hin, hf, Bool.not_true, Bool.or_self, Bool.false_eq_true, if_false]

theorem pair_exec : exec (.growTimeout pairDraw.uid) pairState = .next (pairDue.drawLate pairDraw (some (0, 0))).resumeStalled.track := by
  obtain ⟨hcmd, -, hsound, hin, hstalled⟩ := pair_stalls
  have hexec := execGrowTimeout_due (u := pairDue) hcmd hin hsound hstalled (by rw [pairDue])
  rwa [pair_due_drawn] at hexec

/-- Refutes O39: the clause on GROW_TIMEOUT leaves out that no two passes have one number, which the clause on RS_DRAW asks for. A record that finds no
chunk is still put back into its pass by the pass's number (`State.putPass`); in a state that no open makes, where a full canvas pass of another
job has the same number, that frees the chunks of the other, so that the draw goes on where the statement has it parked. -/
theorem not_rasterDrawsBinTheirRecords : ¬ Obligations.RasterDrawsBinTheirRecords := by
  unfold Obligations.RasterDrawsBinTheirRecords
  intro h
  obtain ⟨hcmd, hone, hsound, hin, hstalled⟩ := pair_stalls
  obtain ⟨hsoft, hall, hdrawn, hitem, hcount, hat, hgood, hbins⟩ := pair_draws
  obtain ⟨-, -, hopen, -⟩ := pair_memory
  obtain ⟨-, -, -, -, hgrow⟩ := h pairState pairDraw hcmd hone
  obtain ⟨-, hparks⟩ := hgrow (7, 30) pairDue hsound hin hstalled (by rw [pairDue])
  have hflush : ∀ q ∈ pairDue.rpasses, pairDue.flushable q = [] := by simpa using pair_not_flushable
  obtain ⟨t, ht, -, -, -, -, -, hcmds, -⟩ := hparks pairPass pairRecord [(0, 0)] (0, 0) (0, 0) hsoft hall hdrawn.symm hitem (by rw [hcount]; exact Nat.one_pos)
    (by rw [hat]; rfl) hopen hgood hbins rfl (pair_refInto _ _) hflush
  have hgoes := pair_not_waiting
  rw [← pair_exec, ht, leavesWaiting, hcmds] at hgoes
  exact absurd hgoes (by decide)

end Sys2Proof.Machine
end

section
set_option Elab.async false
namespace Sys2Proof.Machine

/-! ### A raster core's next item (R220) -/

/-- Bytes written to a memory without single-bit errors leave it so. -/
theorem State.putAll_no_soft {s : State} (h : s.softWords = []) (ws : List (Nat × List Byte)) : (s.putAll ws).softWords = [] := by
  unfold State.putAll
  induction ws generalizing s with
  | nil => exact h
  | cons w ws ih => exact ih (List.subset_nil.mp (h ▸ keepOutside_subset s.softWords w.1 w.2.length))

section
variable {s : State} {core : Nat}

theorem execRasterBinItem_faulted (h : (s.settleRaster.page .raster 0).faulted = true) :
    exec (.rasterBinItem core) s = .next s.settleRaster := by
  show execRasterBinItem core s = _
  simp only [execRasterBinItem, h, if_true]

variable (hf : (s.settleRaster.page .raster 0).faulted = false)
include hf

theorem execRasterBinItem_none (hn : s.settleRaster.nextItem core = none) :
    exec (.rasterBinItem core) s = .next s.settleRaster.resumeStalled.track := by
  show execRasterBinItem core s = _
  simp only [execRasterBinItem, hf, hn, Bool.false_eq_true, if_false]

/-- With no stalled command, the item that runs is all that happens. -/
theorem execRasterBinItem_runs {i : ItemKey} {t : State} (hn : s.settleRaster.nextItem core = some i) (ht : s.settleRaster.runItem i = t)
    (hs : t.raster.stalled = []) : exec (.rasterBinItem core) s = .next t.rasterRest.track := by
  show execRasterBinItem core s = _
  simp only [execRasterBinItem, hf, hn, ht, Bool.false_eq_true, if_false]
  rw [State.resumeStalled_none (State.rasterRest_stalled hs)]

end

/-! ### An item of a pass (R226, R241) -/

/-- A pass whose bin `k` has been drawn. -/
def RPass.binDone (p : RPass) (k : Nat) : RPass := { p with bins := p.bins.erase k, doneBins := k :: p.doneBins }

theorem RPass.refs_binDone (p : RPass) (k : Nat) : (p.binDone k).refs k = [] :=
  (SMap.get_erase p.bins.lists k k []).trans (if_pos rfl)

section
variable {s : State} {id k : Nat} {p : RPass} (hp : (s.rpasses.find? fun q => q.uid == id) = some p)
include hp

theorem State.runBin_fails {e : Nat × Nat} (he : s.binFail p k = some e) : s.runBin id k = (s.chunkError e).endPass (s.noteBin p e) := by
  simp only [State.runBin, hp, he]

theorem State.runBin_draws (he : s.binFail p k = none) (hframe : p.frame = none) (hsoft : s.softWords = []) :
    s.runBin id k = ((s.putAll (s.binWork p k).rows).putPass (p.binDone k)).endPass (p.binDone k) := by
  have hkeep := State.correctReads_of_no_soft (s := (s.putAll (s.binWork p k).rows).putPass (p.binDone k))
    (s.putAll_no_soft hsoft (s.binWork p k).rows) .raster 0 (s.binWork p k).reads
  simp only [State.runBin, hp, he, hframe]
  rw [RPass.binDone] at hkeep ⊢
  rw [hframe] at hkeep ⊢
  rw [hkeep]

end

/-- The end of a pass adds none. -/
theorem State.endPass_passes (s : State) (p : RPass) : (s.endPass p).raster.passes ⊆ s.raster.passes := by
  have hdrop (t : State) (ht : t.raster = s.raster) : (t.dropPass p.uid).rasterRest.raster.passes ⊆ s.raster.passes := by
    rw [State.rasterRest_passes, ← ht]
    exact fun x hx => List.mem_of_mem_filter (List.mem_of_mem_filter hx)
  unfold State.endPass
  split
  · exact List.Subset.refl _
  · split
    · exact hdrop _ rfl
    · split
      · exact hdrop _ rfl
      · exact List.Subset.refl _

/-- The commands after the close of a pass that has failed. -/
theorem State.endPass_failed_cmds (s : State) {p : RPass} {f : Nat × FaultNote} (hf : p.fail = some f) :
    (s.endPass p).cmds = s.cmds.map fun d =>
      if p.closer = some d.uid ∧ d.unstarted = true then { d with place := .ended .ecc f.1, fault := some f.2 } else d := by
  cases hclose : p.closer with
  | none => simp [State.endPass, hclose]
  | some u =>
    rw [State.endPass_failed hclose hf, State.rasterRest_cmds, State.dropPass_only _ p.uid .cmds rfl]
    refine List.map_congr_left fun d _ => if_congr ?_ rfl rfl
    rw [Bool.and_eq_true, beq_iff_eq, Option.some.injEq, eq_comm]

section
variable {s : State} {core : Nat} {i : ItemKey} {id : Nat} {p : RPass} (hf : (s.settleRaster.page .raster 0).faulted = false)
  (hn : s.settleRaster.nextItem core = some i) (hi : i.pass = some id)
  (hp : (s.settleRaster.rpasses.find? fun q => q.uid == id) = some p) (hstalled : s.settleRaster.raster.stalled = [])
include hf hn hi hp hstalled

/-- An item without an uncorrectable word in its way writes the rows of its bin. -/
theorem rasterBinItem_draws (hframe : p.frame = none) (he : s.settleRaster.binFail p i.bin = none) (hsoft : s.softWords = []) :
    ∃ t, exec (.rasterBinItem core) s = .next t ∧ t.mem = (s.putAll (s.settleRaster.binWork p i.bin).rows).mem ∧
      (∀ q ∈ t.raster.passes, q.uid = p.uid → q.refs i.bin = []) ∧
      Only [.badWords, .cmds, .engines, .hostMem, .mem, .msix, .pages, .raster, .softWords] s t := by
  have hsettled := s.settleRaster_only
  have hsoft' : s.settleRaster.softWords = [] := (hsettled .softWords rfl).trans hsoft
  have hrun : s.settleRaster.runItem i = ((s.settleRaster.putAll (s.settleRaster.binWork p i.bin).rows).putPass (p.binDone i.bin)).endPass
      (p.binDone i.bin) := by
    rw [State.runItem, hi]
    exact State.runBin_draws hp he hframe hsoft'
  have hput := s.settleRaster.putAll_only (s.settleRaster.binWork p i.bin).rows
  have hmem := State.putAll_mem_congr (hsettled .mem rfl) (s.settleRaster.binWork p i.bin).rows
  have hpass := (s.settleRaster.putAll (s.settleRaster.binWork p i.bin).rows).putPass_only (p.binDone i.bin)
  have hend := State.endPass_only ((s.settleRaster.putAll (s.settleRaster.binWork p i.bin).rows).putPass (p.binDone i.bin)) (p.binDone i.bin)
  refine ⟨_, execRasterBinItem_runs hf hn hrun (State.endPass_stalled _ ?_), ?_, fun q hq hu => ?_, ?_⟩
  · exact (congrArg Raster.stalled (hput .raster rfl)).trans hstalled
  · rw [State.rasterRest_track_mem, hend .mem rfl, hpass .mem rfl, hmem]
  · rw [State.rasterRest_track_passes] at hq
    obtain ⟨x, -, rfl⟩ := List.mem_map.mp (State.endPass_passes _ _ (List.mem_of_mem_filter hq))
    by_cases hx : (x.uid == (p.binDone i.bin).uid) = true
    · rw [if_pos hx, p.refs_binDone i.bin]
    · rw [if_neg hx] at hu
      exact absurd (beq_iff_eq.mpr hu) hx
  · exact (State.rasterRest_track_only _).step (by decide) (hend.step (by decide) (hpass.step (by decide) (hput.step (by decide)
      (hsettled.mono (by decide)))))

/-- With one it writes nothing, and the close of its pass ends. -/
theorem rasterBinItem_fails {e : Nat × Nat} (he : s.settleRaster.binFail p i.bin = some e) :
    ∃ t, exec (.rasterBinItem core) s = .next t ∧ t.mem = s.mem ∧ (∀ d ∈ t.cmds, p.closer = some d.uid → d.unstarted = false) ∧
      (∀ d ∈ s.settleRaster.cmds, d.unstarted = true → p.closer = some d.uid → p.fail = none →
        { d with place := .ended .ecc e.1, fault := some ⟨s.now, e.2, 1⟩ } ∈ t.cmds) ∧
      Only [.cmds, .engines, .hostMem, .msix, .pages, .raster] s t := by
  have hsettled := s.settleRaster_only
  have hrun : s.settleRaster.runItem i = (s.settleRaster.chunkError e).endPass (s.settleRaster.noteBin p e) := by
    rw [State.runItem, hi]
    exact State.runBin_fails hp he
  have hchunk := s.settleRaster.chunkError_only e
  have hend := State.endPass_only (s.settleRaster.chunkError e) (s.settleRaster.noteBin p e)
  have honly : Only [.cmds, .engines, .hostMem, .msix, .pages, .raster] s
      ((s.settleRaster.chunkError e).endPass (s.settleRaster.noteBin p e)).rasterRest.track :=
    (State.rasterRest_track_only _).step (by decide) (hend.step (by decide) (hchunk.step (by decide) (hsettled.mono (by decide))))
  have hcmds : ((s.settleRaster.chunkError e).endPass (s.settleRaster.noteBin p e)).rasterRest.track.cmds = s.settleRaster.cmds.map fun d =>
      if p.closer = some d.uid ∧ d.unstarted = true then
        { d with place := .ended .ecc (p.fail.getD (e.1, ⟨s.now, e.2, 1⟩)).1, fault := some (p.fail.getD (e.1, ⟨s.now, e.2, 1⟩)).2 }
      else d := by
    rw [State.track_only _ .cmds rfl, State.rasterRest_cmds, State.endPass_failed_cmds _ (p := s.settleRaster.noteBin p e) rfl, hchunk .cmds rfl,
      hsettled .now rfl]
    rfl
  refine ⟨_, execRasterBinItem_runs hf hn hrun (State.endPass_stalled _ ?_), honly .mem rfl, fun d hd hclose => ?_,
    fun d hd hu hclose hnone => ?_, honly⟩
  · exact (congrArg Raster.stalled (hchunk .raster rfl)).trans hstalled
  · rw [hcmds] at hd
    obtain ⟨c, -, rfl⟩ := List.mem_map.mp hd
    by_cases hends : p.closer = some c.uid ∧ c.unstarted = true
    · rw [if_pos hends]
      rfl
    · rw [if_neg hends] at hclose ⊢
      simpa [hclose] using hends
  · rw [hcmds]
    exact List.mem_map.mpr ⟨d, hd, by rw [if_pos ⟨hclose, hu⟩, hnone]; rfl⟩

end

/-! ### GROW_PAGE_ADD (R229) -/

/-- The page that a write of GROW_PAGE_HI adds (R229). -/
def State.pageAdded (s : State) (hi : Nat) : State :=
  { s with raster := { s.raster with pages := s.raster.pages ++ [bits (s.reg .raster 0 0x054) 31 16 * 2 ^ 16 + bits hi 15 0 * 2 ^ 32] } }

section
variable {s : State} (hw : s.hostWrites .raster 0 = true)
include hw

theorem execGrowPageAdd_adds (h : s.raster.pages.length < 64) (v : Nat) :
    exec (.growPageAdd v) s = .next (s.pageAdded v).resumeStalled.track := by
  show execGrowPageAdd v s = _
  rw [execGrowPageAdd, State.hostWo_reaches hw, State.growPageAdd, if_neg (Nat.not_le.mpr h)]
  rfl

theorem execGrowPageAdd_full (h : 64 ≤ s.raster.pages.length) (v : Nat) : exec (.growPageAdd v) s = .next (s.err .raster 0 5 0 0).track := by
  show execGrowPageAdd v s = _
  rw [execGrowPageAdd, State.hostWo_reaches hw, State.growPageAdd, if_pos h]

end

/-! ### BIN_CTRL_WRITE (R246, R284) -/

/-- Software's mark on the page leaves the state of the block as it is. -/
theorem State.touch_blkState (s : State) : (s.touch .raster 0).blkState .raster 0 = s.blkState .raster 0 := by
  rw [State.blkState_writable rfl, State.blkState_writable rfl]
  exact State.putPage_movingState rfl rfl rfl rfl

section
variable {s : State} {v : Nat} (hw : s.hostWrites .raster 0 = true)
include hw

theorem execBinCtrlWrite_busy (hb : s.blkState .raster 0 ≠ 1) : exec (.binCtrlWrite v) s = .next ((s.touch .raster 0).err .raster 0 4 0 0) := by
  show execBinCtrlWrite v s = _
  rw [execBinCtrlWrite, State.host_reaches hw, State.binCtrlWrite, State.touch_blkState, if_pos (by simpa using hb)]

variable (hb : s.blkState .raster 0 = 1)
include hb

theorem execBinCtrlWrite_stores (hp : partitionOk (bits (s.reg .hsram 0 0x040) 12 8) (max 8 (min 32 (bits v 13 8))) = true) :
    exec (.binCtrlWrite v) s = .next ((s.touch .raster 0).setReg .raster 0 0x048 (v &&& 0x0FFF3F01)) := by
  have hreg : (s.touch .raster 0).reg .hsram 0 0x040 = s.reg .hsram 0 0x040 := rfl
  show execBinCtrlWrite v s = _
  rw [execBinCtrlWrite, State.host_reaches hw, State.binCtrlWrite, State.touch_blkState, if_neg (by simp [hb]), hreg, hp, Bool.not_true,
    if_neg Bool.false_ne_true]

theorem execBinCtrlWrite_tooLarge (hp : partitionOk (bits (s.reg .hsram 0 0x040) 12 8) (max 8 (min 32 (bits v 13 8))) = false) :
    exec (.binCtrlWrite v) s = .next ((s.touch .raster 0).err .hsram 0 2 0 0) := by
  have hreg : (s.touch .raster 0).reg .hsram 0 0x040 = s.reg .hsram 0 0x040 := rfl
  show execBinCtrlWrite v s = _
  rw [execBinCtrlWrite, State.host_reaches hw, State.binCtrlWrite, State.touch_blkState, if_neg (by simp [hb]), hreg, hp, Bool.not_false,
    if_pos rfl]

end

/-- Settles O40: an item of a pass is `State.runBin` on the settled engine, and both registers are written where the block lets them. -/
theorem rasterItemsPagesAndControl : Obligations.RasterItemsPagesAndControl := by
  unfold Obligations.RasterItemsPagesAndControl
  intro s
  refine ⟨?_, fun v hw => ⟨fun h => execGrowPageAdd_adds hw h v, fun h hstalled => ?_, fun h => ?_⟩,
    fun v hw => ⟨fun hb hp => ?_, fun hb hp => ?_, fun hb => ?_⟩, fun v hw => ⟨?_, ?_⟩⟩
  · rintro core u rfl
    exact ⟨execRasterBinItem_faulted, execRasterBinItem_none, fun i id p hf hn hi hp hframe hstalled =>
      ⟨rasterBinItem_draws hf hn hi hp hstalled hframe, fun e => rasterBinItem_fails hf hn hi hp hstalled⟩⟩
  · rw [execGrowPageAdd_adds hw h v, State.resumeStalled_none (s := s.pageAdded v) hstalled]
    exact ⟨_, rfl, State.track_only _ .raster rfl, (State.track_only _).step (by decide) (Only.set_raster.mono (by decide))⟩
  · rw [execGrowPageAdd_full hw h v]
    have hpage : (s.err .raster 0 5 0 0).track.page .raster 0 = (s.err .raster 0 5 0 0).page .raster 0 :=
      State.page_congr (State.track_only _ .pages rfl) (State.track_only _ .insole rfl) .raster 0
    rw [State.err_page] at hpage
    exact ⟨_, rfl, by rw [hpage], by rw [hpage], State.track_only _ .raster rfl,
      (State.track_only _).step (by decide) ((s.err_only .raster 0 5 0 0).mono (by decide))⟩
  · have hmask : v &&& 0x0FFF3F01 < 2 ^ 32 := Nat.and_lt_two_pow v (by decide)
    refine ⟨_, execBinCtrlWrite_stores hw hb hp, ?_, fun o ho => State.find?_setReg_other _ .raster 0 0x048 _ o ho, ?_,
      (State.setReg_only _ .raster 0 0x048 _).step (by decide) ((s.touch_only .raster 0).mono (by decide))⟩
    · rw [State.reg_setReg, Nat.mod_eq_of_lt hmask]
    · exact congrArg Page.src (s.touch_page .raster 0)
  · rw [execBinCtrlWrite_tooLarge hw hb hp]
    have hpage := State.err_page (s.touch .raster 0) .hsram 0 2 0 0
    exact ⟨_, rfl, by rw [hpage], by rw [hpage], (State.err_only _ .hsram 0 2 0 0).step (by decide) (s.touch_only .raster 0)⟩
  · rw [execBinCtrlWrite_busy hw hb]
    have hpage := State.err_page (s.touch .raster 0) .raster 0 4 0 0
    exact ⟨_, rfl, by rw [hpage], by rw [hpage], (State.err_only _ .raster 0 4 0 0).step (by decide) (s.touch_only .raster 0)⟩
  · show execGrowPageAdd v s = _
    rw [execGrowPageAdd, State.hostWo_kept hw]
  · show execBinCtrlWrite v s = _
    rw [execBinCtrlWrite, State.host_kept hw]

end Sys2Proof.Machine
end

section
set_option Elab.async false
namespace Sys2Proof.Machine

/-! ### No word takes an error (R283) -/

/-- From `s` to `t` no word has come to hold an error, uncorrectable or of a single bit. -/
structure State.NoWorse (s t : State) : Prop where
  bad : t.badWords ⊆ s.badWords
  soft : t.softWords ⊆ s.softWords

namespace State.NoWorse

theorem refl (s : State) : s.NoWorse s := ⟨List.Subset.refl _, List.Subset.refl _⟩

theorem trans {s t u : State} (h : s.NoWorse t) (k : t.NoWorse u) : s.NoWorse u := ⟨List.Subset.trans k.bad h.bad, List.Subset.trans k.soft h.soft⟩

theorem of_only {fs : List StateField} {s t : State} (h : Only fs s t)
    (hd : [StateField.badWords, .softWords].all (fun f => !(fieldMask fs).testBit f.idx) = true) : s.NoWorse t := by
  have hf : ∀ f ∈ [StateField.badWords, .softWords], (fieldMask fs).testBit f.idx = false := by
    simpa only [List.all_eq_true, Bool.not_eq_true'] using hd
  have hbad : t.badWords = s.badWords := h .badWords (hf _ (by decide))
  have hsoft : t.softWords = s.softWords := h .softWords (hf _ (by decide))
  exact ⟨hbad ▸ List.Subset.refl _, hsoft ▸ List.Subset.refl _⟩

theorem ite {s t u : State} {c : Prop} [Decidable c] (ht : s.NoWorse t) (hu : s.NoWorse u) : s.NoWorse (if c then t else u) := by
  split <;> assumption

theorem foldl {α : Type} {s : State} {g : State → α → State} {l : List α} (hg : ∀ (y : State) a, y.NoWorse (g y a)) : s.NoWorse (l.foldl g s) := by
  induction l generalizing s with
  | nil => exact refl s
  | cons a l ih => exact (hg s a).trans ih

theorem devPut (s : State) (a : Nat) (bs : List Byte) : s.NoWorse (s.devPut a bs) := ⟨keepOutside_subset _ _ _, keepOutside_subset _ _ _⟩

theorem none_bad {s t : State} (h : s.NoWorse t) (hs : s.badWords = []) : t.badWords = [] := List.subset_nil.mp (hs ▸ h.bad)

theorem none_soft {s t : State} (h : s.NoWorse t) (hs : s.softWords = []) : t.softWords = [] := List.subset_nil.mp (hs ▸ h.soft)

end State.NoWorse

theorem State.trace_noWorse (s : State) (c : Cmd) (kind status cause : Nat) : s.NoWorse (s.trace c kind status cause) := by
  unfold State.trace
  dsimp only
  split
  · exact .refl s
  · split
    · exact (State.NoWorse.of_only (Only.set_traceGap.step (by decide) ((State.bump_only s _ _ _ _).mono (gs := [.regs, .traceGap]) (by decide)))
        (by decide)).trans (.of_only (State.irq_only _ _ _ _) (by decide))
    · exact (State.NoWorse.devPut s _ _).trans (.of_only (Only.set_traceGap_traceFill_traceAt.step (by decide)
        ((State.setReg_only _ _ _ _ _).mono (gs := [.regs, .traceGap, .traceFill, .traceAt]) (by decide))) (by decide))

theorem State.starts_noWorse (s : State) (c : Cmd) : s.NoWorse (s.starts c) :=
  (s.trace_noWorse c 2 0 0).trans (.of_only (State.ranFor_only _ _ _ _) (by decide))

theorem State.logFault_noWorse (s : State) (b : Blk) (i cls action addr commands moved us : Nat) :
    s.NoWorse (s.logFault b i cls action addr commands moved us) := by
  have hlog (l : SMap (List Byte)) (bs : List Byte) (a : Nat) (c : Prop) [Decidable c] :
      s.NoWorse { (if c then s else s.devPut a bs) with log := l } :=
    (State.NoWorse.ite (.refl s) (.devPut s a bs)).trans (.of_only Only.set_log (by decide))
  have hput (u : State) (hu : s.NoWorse u) (v w : Nat) : s.NoWorse ((u.setReg .fault 0 0x04C v).setReg .fault 0 0x040 w) := ⟨hu.bad, hu.soft⟩
  have hend (u : State) (hu : s.NoWorse u) : s.NoWorse ((u.bumpMax .fault 0 0x090 us 0xFFFFFFFF).irq .fault 0 (classIrq cls)) :=
    (hu.trans (.of_only (u.bumpMax_only _ _ _ _ _) (by decide))).trans (.of_only (State.irq_only _ _ _ _) (by decide))
  unfold State.logFault State.logFaultAt
  split
  · exact .refl s
  · refine hend _ ?_
    split
    · exact (hput _ (hlog _ _ _ _) _ _).trans (.of_only (State.bump_only _ _ _ _ _) (by decide))
    · exact hput _ (hlog _ _ _ _) _ _

theorem State.correctWord_noWorse (s : State) (w : Nat) : s.NoWorse (s.correctWord w) := by
  have hmended : s.NoWorse (s.wordMended w) := ⟨List.Subset.refl _, List.filter_subset_self _⟩
  rw [State.correctWord_eq]
  generalize s.eccHome (8 * w) = home
  cases home with
  | none => exact hmended
  | some e =>
    have hpulse (u : State) : u.NoWorse (if e.1 == .memc then u else u.pulse e.1 e.2.1 0x12 1 none) :=
      .ite (.refl u) (.of_only (u.pulse_only _ _ _ _ _) (by decide))
    have hcount (u : State) : u.NoWorse ((u.bump e.1 e.2.1 e.2.2.1 1).irq e.1 e.2.1 (1 <<< e.2.2.2)) :=
      (State.NoWorse.of_only (u.bump_only _ _ _ _) (by decide)).trans (.of_only (State.irq_only _ _ _ _) (by decide))
    exact ((hmended.trans (hpulse _)).trans (hcount _)).trans (State.logFault_noWorse _ _ _ _ _ _ _ _ _)

theorem State.correctReads_noWorse (s : State) (b : Blk) (i : Nat) (rs : List (Nat × Nat)) : s.NoWorse (s.correctReads b i rs) := by
  unfold State.correctReads State.correctRead
  exact .foldl fun y r => .foldl fun z w => (z.correctWord_noWorse w).trans (.of_only (State.unitCorr_only _ b i) (by decide))

theorem State.itemError_no_bad {s : State} (h : s.badWords = []) (reads : List (Nat × Nat)) : s.itemError [] reads = none := by
  have hnone (a n : Nat) : s.firstBad a n = none := (s.firstBad_eq_none_iff a n).mpr (by unfold State.badIn State.meets; rw [h]; rfl)
  rw [State.itemError_nil, State.badRead, List.findSome?_eq_none_iff]
  exact fun r _ => by rw [hnone]; rfl

/-! ### The work of an RS_WARP or RS_MASK (R220, R231) -/

/-- A begun command of the raster engine waits there still, in the same admission. -/
theorem State.tileWork_queued {s : State} {uid : Nat} {w : RTile} (h : s.tileWork uid = some w) :
    w.uid = uid ∧ w ∈ s.raster.tiles ∧ ∃ c ∈ s.inQueue .raster, c.uid = w.uid ∧ c.turn = w.turn := by
  obtain ⟨hin, hq⟩ := List.mem_filter.mp (List.mem_of_find?_eq_some h)
  obtain ⟨c, hc, hcw⟩ := List.any_eq_true.mp hq
  exact ⟨by simpa using List.find?_some h, hin, c, hc, by simpa using hcw⟩

theorem State.inQueue_congr {s t : State} (h : t.cmds = s.cmds) (q : Queue) : t.inQueue q = s.inQueue q := by
  unfold State.inQueue
  rw [h]

theorem State.rtiles_congr {s t : State} (h : t.cmds = s.cmds) (hr : t.raster.tiles = s.raster.tiles) : t.rtiles = s.rtiles := by
  unfold State.rtiles
  rw [hr, State.inQueue_congr h]

theorem State.tileWork_congr {s t : State} (h : t.cmds = s.cmds) (hr : t.raster.tiles = s.raster.tiles) (uid : Nat) :
    t.tileWork uid = s.tileWork uid := by
  unfold State.tileWork
  rw [State.rtiles_congr h hr]

theorem State.rasterRest_track_tileWork (s : State) (uid : Nat) : s.rasterRest.track.tileWork uid = s.tileWork uid := by
  have hcmds : s.rasterRest.track.cmds = s.cmds := (State.track_only _ .cmds rfl).trans s.rasterRest_cmds
  have htiles : s.rasterRest.track.raster.tiles = s.rtiles := (congrArg Raster.tiles (State.track_only _ .raster rfl)).trans s.rasterRest_tiles
  have hkept : s.rasterRest.track.rtiles = s.rtiles := by
    rw [State.rtiles, htiles, State.inQueue_congr hcmds, State.rtiles, List.filter_filter]
    simp
  unfold State.tileWork
  rw [hkept]

/-- Work that is put back is the work that is found. -/
theorem State.putTile_tileWork {s : State} {uid : Nat} {w v : RTile} (h : s.tileWork uid = some w) (hu : v.uid = w.uid) (ht : v.turn = w.turn) :
    (s.putTile v).tileWork uid = some v := by
  obtain ⟨huid, hin, c, hc, hcu, hct⟩ := State.tileWork_queued h
  have hv : v ∈ (s.putTile v).rtiles := by
    refine List.mem_filter.mpr ⟨List.mem_map.mpr ⟨w, hin, if_pos (by simp [hu])⟩, List.any_eq_true.mpr ⟨c, hc, ?_⟩⟩
    simp [hcu, hct, hu, ht]
  have hfound : ((s.putTile v).tileWork uid).isSome = true := List.find?_isSome.mpr ⟨v, hv, by simp [hu, huid]⟩
  obtain ⟨y, hy⟩ := Option.isSome_iff_exists.mp hfound
  obtain ⟨hyu, hyin, -⟩ := State.tileWork_queued hy
  obtain ⟨x, -, rfl⟩ := List.mem_map.mp hyin
  rw [hy]
  by_cases hx : (x.uid == v.uid) = true
  · rw [if_pos hx]
  · rw [if_neg hx] at hyu
    exact absurd (beq_iff_eq.mpr (hyu.trans (huid.symm.trans hu.symm))) hx

/-- Work that begins is the work that is found. -/
theorem State.addTile_tileWork {s : State} {c : Cmd} {w : RTile} (hc : c ∈ s.inQueue .raster) (hu : w.uid = c.uid) (ht : w.turn = c.turn) :
    (s.addTile w).tileWork c.uid = some w := by
  have hw : w ∈ (s.addTile w).rtiles := by
    refine List.mem_filter.mpr ⟨List.mem_append_right _ (List.mem_singleton.mpr rfl), List.any_eq_true.mpr ⟨c, hc, ?_⟩⟩
    simp [hu, ht]
  have hfound : ((s.addTile w).tileWork c.uid).isSome = true := List.find?_isSome.mpr ⟨w, hw, by simp [hu]⟩
  obtain ⟨y, hy⟩ := Option.isSome_iff_exists.mp hfound
  obtain ⟨hyu, hyin, -⟩ := State.tileWork_queued hy
  rw [hy]
  rcases List.mem_append.mp hyin with hold | hnew
  · exact absurd (hyu.trans hu.symm) (by simpa using (List.mem_filter.mp hold).2)
  · rw [List.mem_singleton.mp hnew]

end Sys2Proof.Machine
end

section
set_option Elab.async false
namespace Sys2Proof.Machine

/-! ### An RS_WARP bins its triangles (R220, R231) -/

/-- Command `uid` has begun an RS_WARP or RS_MASK of a kind with a descriptor. -/
def State.Works (s : State) (uid : Nat) (mask : Bool) (desc : Packet) : Prop := ∃ w, s.tileWork uid = some w ∧ w.mask = mask ∧ w.desc = desc

namespace State.Works

variable {s t : State} {uid : Nat} {mask : Bool} {desc : Packet}

theorem congr (h : s.Works uid mask desc) (hc : t.cmds = s.cmds) (hr : t.raster.tiles = s.raster.tiles) : t.Works uid mask desc := by
  obtain ⟨w, hw, hrest⟩ := h
  exact ⟨w, (State.tileWork_congr hc hr uid).trans hw, hrest⟩

theorem putTile (h : s.Works uid mask desc) {w v : RTile} (hw : s.tileWork uid = some w) (hu : v.uid = w.uid) (ht : v.turn = w.turn)
    (hm : v.mask = w.mask) (hd : v.desc = w.desc) : (s.putTile v).Works uid mask desc := by
  obtain ⟨x, hx, hmask, hdesc⟩ := h
  obtain rfl : w = x := Option.some.inj (hw.symm.trans hx)
  exact ⟨v, State.putTile_tileWork hw hu ht, hm.trans hmask, hd.trans hdesc⟩

theorem freshChunks (h : s.Works uid mask desc) (used : List Nat) (b : BinLists) : (s.freshChunks used b).Works uid mask desc := h.congr rfl rfl

theorem foldl {α : Type} {g : State × Bool → α → State × Bool} (hg : ∀ (y : State × Bool) a, y.1.Works uid mask desc → (g y a).1.Works uid mask desc)
    (l : List α) {x : State × Bool} (hx : x.1.Works uid mask desc) : (l.foldl g x).1.Works uid mask desc := by
  induction l generalizing x with
  | nil => exact hx
  | cons a l ih => exact ih (hg x a hx)

end State.Works

section
variable {uid : Nat} {mask : Bool} {desc : Packet} {acc : State × Bool}

theorem State.meshRef_works (x : Packet) (e : Nat × Nat) (h : acc.1.Works uid mask desc) : (State.meshRef uid x acc e).1.Works uid mask desc := by
  unfold State.meshRef
  dsimp only
  split
  · exact h
  · split
    · exact h
    · next w hw =>
      refine State.Works.freshChunks ?_ _ _
      exact h.putTile hw rfl rfl rfl rfl

theorem State.meshOne_works (c : Cmd) (d : WarpDesc) (t : Nat × (Nat × Nat) × Bool) (h : acc.1.Works c.uid mask desc) :
    (State.meshOne c d acc t).1.Works c.uid mask desc := by
  have hcount (u : State) (hu : u.Works c.uid mask desc) : ((u.bump .raster 0 0x060 1).pulse .raster 0 0x10 1 (some c.job)).Works c.uid mask desc :=
    hu.congr (State.pulse_only _ _ _ _ _ _ .cmds rfl) (congrArg Raster.tiles (State.pulse_only _ _ _ _ _ _ .raster rfl))
  unfold State.meshOne
  dsimp only
  split
  · exact h
  · split
    · exact h
    · next w hw =>
      have hrefs := State.Works.foldl (fun y e hy => State.meshRef_works (acc.1.meshRecord d t) e hy)
        (((List.range (acc.1.meshItems c t.1 (d.triOf (acc.1.meshRecord d t))).length).zip
          (acc.1.meshItems c t.1 (d.triOf (acc.1.meshRecord d t)))).drop w.taken.2) h
      split
      · exact hrefs
      · split
        · split
          · next v hv => exact hrefs.putTile hv rfl rfl rfl rfl
          · exact hrefs
        · refine hcount _ ?_
          split
          · next v hv => exact hrefs.putTile hv rfl rfl rfl rfl
          · exact hrefs

end

/-- The triangles of a batch only add to the work. -/
theorem State.meshBatch_only (c : Cmd) (d : WarpDesc) (ts : List (Nat × (Nat × Nat) × Bool)) (x : State × Bool) :
    Only [.ctrs, .hostMem, .msix, .pages, .raster, .regs] x.1 (ts.foldl (State.meshOne c d) x).1 :=
  Only.foldl_fst (x := x) (fun y t r hr hy => hr ▸ (State.meshOne_only c d y t).step (by decide) hy) (Only.refl _ _)

/-- An RS_WARP that meets no uncorrectable word stays begun, and changes no command. -/
theorem State.warpOn_works {s : State} {c : Cmd} {w : RTile} {mask : Bool} {desc : Packet} (h : s.Works c.uid mask desc) (hb : s.badWords = []) :
    (s.warpOn c w).Works c.uid mask desc ∧ (s.warpOn c w).cmds = s.cmds ∧ (s.softWords = [] → (s.warpOn c w).mem = s.mem) := by
  unfold State.warpOn
  dsimp only
  rw [State.itemError_no_bad hb]
  dsimp only
  generalize (if (c.num 32 1).testBit 0 = true then [] else (WarpDesc.of w.desc).tris w.range) = all
  generalize (all.drop w.taken.1).take batchSize = ts
  generalize ts.flatMap (WarpDesc.of w.desc).vertexReads = reads
  have hcorr := s.correctReads_only .raster 0 reads
  have hstart : (s.correctReads .raster 0 reads).Works c.uid mask desc := h.congr (hcorr .cmds rfl) (congrArg Raster.tiles (hcorr .raster rfl))
  have hbatch := State.Works.foldl (fun y t hy => State.meshOne_works c (WarpDesc.of w.desc) t hy) ts (x := (s.correctReads .raster 0 reads, false))
    hstart
  have honly := State.meshBatch_only c (WarpDesc.of w.desc) ts (s.correctReads .raster 0 reads, false)
  have hcmds := (honly .cmds rfl).trans (hcorr .cmds rfl)
  have hmem (hs : s.softWords = []) : (ts.foldl (State.meshOne c (WarpDesc.of w.desc)) (s.correctReads .raster 0 reads, false)).1.mem = s.mem :=
    (honly .mem rfl).trans (by rw [State.correctReads_of_no_soft hs])
  generalize ts.foldl (State.meshOne c (WarpDesc.of w.desc)) (s.correctReads .raster 0 reads, false) = r at hbatch hcmds hmem
  split
  · exact ⟨hbatch, hcmds, hmem⟩
  · next v hv =>
    split
    · exact ⟨hbatch.putTile hv rfl rfl rfl rfl, hcmds, hmem⟩
    · split
      · exact ⟨hbatch.putTile hv rfl rfl rfl rfl, hcmds, hmem⟩
      · exact ⟨hbatch, hcmds, hmem⟩

/-- An RS_WARP of an empty tile is in its last round at once (R237). -/
theorem State.warpOn_empty {s : State} {c : Cmd} {w : RTile} (hw : s.tileWork c.uid = some w) (he : (c.num 32 1).testBit 0 = true) :
    s.warpOn c w = s.putTile { w with todo := List.range 32, last := true } := by
  unfold State.warpOn
  simp only [he, if_true, List.drop_nil, List.take_nil, List.flatMap_nil, List.foldl_nil]
  have hsound : s.itemError [] [] = none := s.itemError_nil []
  rw [hsound]
  have hsame : s.correctReads .raster 0 [] = s := rfl
  simp only [hsame, hw, Bool.false_eq_true, if_false, List.length_nil, Nat.zero_le, if_true]

end Sys2Proof.Machine
end

section
set_option Elab.async false
namespace Sys2Proof.Machine

/-! ### RS_WARP and RS_MASK begin (R231, R237, R239) -/

/-- Of the fields that may change, the commands have not. -/
theorem Only.keeps_cmds {fs gs : List StateField} {s t : State} (h : Only fs s t) (hc : t.cmds = s.cmds)
    (hs : fieldMask fs &&& (fieldMask gs ||| 2 ^ StateField.cmds.idx) = fieldMask fs) : Only gs s t := by
  intro f hf
  by_cases hcmds : StateField.cmds.idx = f.idx
  · obtain rfl : f = .cmds := by
      revert hcmds
      cases f <;> decide
    exact hc
  · exact h f (mask_le hs (by simp [hf, hcmds]))

/-- A command that starts and reads what it needs changes no command, and without single-bit errors it writes no byte but its trace record. -/
theorem State.starts_reading (s : State) (c : Cmd) (reads : List (Nat × Nat)) :
    ((s.starts c).correctReads .raster 0 reads).cmds = s.cmds ∧ s.NoWorse ((s.starts c).correctReads .raster 0 reads) ∧
      (s.softWords = [] → ((s.starts c).correctReads .raster 0 reads).mem = (s.starts c).mem) :=
  ⟨((s.starts c).correctReads_only .raster 0 reads .cmds rfl).trans (s.starts_only c .cmds rfl),
    (s.starts_noWorse c).trans ((s.starts c).correctReads_noWorse .raster 0 reads),
    fun h => by rw [State.correctReads_of_no_soft ((s.starts_noWorse c).none_soft h)]⟩

/-- The ranges that an RS_WARP reads as it begins. -/
def State.warpReads (s : State) (c : Cmd) : List (Nat × Nat) :=
  (c.num 24 8, 64) :: if (c.num 32 1).testBit 0 then [] else [((WarpDesc.of (s.devPacket (c.num 24 8))).ranges + 16 * c.tile, 16)]

/-- The work of an RS_WARP that begins. -/
def State.warpTile (s : State) (c : Cmd) : RTile :=
  ⟨c.uid, c.turn, false, s.devPacket (c.num 24 8), s.devNat ((WarpDesc.of (s.devPacket (c.num 24 8))).ranges + 16 * c.tile) 16, (0, 0),
    BinLists.fresh, [], false, []⟩

/-- The work of an RS_MASK that begins. -/
def State.maskTile (s : State) (c : Cmd) : RTile :=
  ⟨c.uid, c.turn, true, s.devPacket (c.num 24 8), 0, (0, 0), BinLists.fresh, List.range 16, true, []⟩

section
variable {s : State} {c : Cmd}

theorem State.warp_begun {w : RTile} (h : s.tileWork c.uid = some w) : s.warp c = s.warpOn c w := by
  simp only [State.warp, h]

theorem State.warp_begins (h : s.tileWork c.uid = none) (hb : s.badWords = []) :
    s.warp c = (((s.starts c).correctReads .raster 0 (s.warpReads c)).addTile (s.warpTile c)).warpOn c (s.warpTile c) := by
  unfold State.warp
  dsimp only
  rw [h]
  dsimp only
  rw [State.itemError_no_bad hb]
  rfl

/-- An RS_WARP without uncorrectable words in memory begins. -/
theorem State.warp_works (hq : c ∈ s.inQueue .raster) (h : s.tileWork c.uid = none) (hb : s.badWords = []) :
    (s.warp c).Works c.uid false (s.devPacket (c.num 24 8)) ∧ (s.warp c).cmds = s.cmds ∧
      (s.softWords = [] → (s.warp c).mem = (s.starts c).mem) := by
  rw [State.warp_begins h hb]
  obtain ⟨hcmds, hworse, hmem⟩ := s.starts_reading c (s.warpReads c)
  generalize (s.starts c).correctReads .raster 0 (s.warpReads c) = u at hcmds hworse hmem
  rw [← State.inQueue_congr hcmds] at hq
  have hwork : (u.addTile (s.warpTile c)).Works c.uid false (s.devPacket (c.num 24 8)) :=
    ⟨s.warpTile c, State.addTile_tileWork (w := s.warpTile c) hq rfl rfl, rfl, rfl⟩
  obtain ⟨hworks, hsame, hkept⟩ := State.warpOn_works (w := s.warpTile c) hwork (hworse.none_bad hb)
  exact ⟨hworks, hsame.trans hcmds, fun hs => (hkept (hworse.none_soft hs)).trans (hmem hs)⟩

/-- One of an empty tile is in its last round at once. -/
theorem State.warp_empty (hq : c ∈ s.inQueue .raster) (h : s.tileWork c.uid = none) (hb : s.badWords = []) (he : (c.num 32 1).testBit 0 = true) :
    (s.warp c).tileWork c.uid = some { s.warpTile c with todo := List.range 32, last := true } := by
  rw [State.warp_begins h hb]
  rw [← State.inQueue_congr (s.starts_reading c (s.warpReads c)).1] at hq
  have hw := State.addTile_tileWork (w := s.warpTile c) hq rfl rfl
  rw [State.warpOn_empty hw he]
  exact State.putTile_tileWork hw rfl rfl

/-- An RS_MASK without uncorrectable words in memory begins. -/
theorem State.mask_begins (hq : c ∈ s.inQueue .raster) (hb : s.badWords = []) :
    (s.mask c).tileWork c.uid = some (s.maskTile c) ∧ (s.mask c).cmds = s.cmds ∧ (s.softWords = [] → (s.mask c).mem = (s.starts c).mem) := by
  unfold State.mask
  dsimp only
  rw [State.itemError_no_bad hb]
  dsimp only
  generalize (c.num 24 8, 64) :: _ = reads
  obtain ⟨hcmds, -, hmem⟩ := s.starts_reading c reads
  generalize (s.starts c).correctReads .raster 0 reads = u at hcmds hmem
  have hcount (p : Bool) : Only [.regs] u (if p then u.bump .raster 0 0x070 1 else u) := .ite (u.bump_only .raster 0 0x070 1) (.refl _ _)
  refine ⟨State.addTile_tileWork (w := s.maskTile c) ?_ rfl rfl, (hcount _ .cmds rfl).trans hcmds, fun hs => (hcount _ .mem rfl).trans (hmem hs)⟩
  rwa [State.inQueue_congr ((hcount _ .cmds rfl).trans hcmds)]

/-- A begun RS_WARP or RS_MASK is one that has begun. -/
theorem State.begun_of_tileWork {uid : Nat} {w : RTile} (h : s.tileWork uid = some w) : s.begun uid = true := by
  simp [State.begun, h]

end

section
variable {s : State} {c : Cmd} (hw : s.waitPoisoned c = false) (hb : s.badWords = [])
include hw hb

theorem rsWarp_begins (hhead : s.rasterHead c.uid 0x6004 = some c) (hf : s.warpFails c = []) (h : s.tileWork c.uid = none) :
    ∃ t w, exec (.rsWarp c.uid) s = .next t ∧ t.cmds = s.cmds ∧ t.tileWork c.uid = some w ∧ w.mask = false ∧ w.desc = s.devPacket (c.num 24 8) ∧
      ((c.num 32 1).testBit 0 = true → w.last = true ∧ w.todo = List.range 32 ∧ w.bins = BinLists.fresh) ∧
      (s.softWords = [] → t.mem = (s.starts c).mem) ∧
      Only [.badWords, .ctrs, .engines, .hostMem, .log, .mem, .msix, .pages, .raster, .regs, .softWords, .traceAt, .traceFill, .traceGap] s t := by
  have hq := (State.rasterHead_cmd hhead).1
  obtain ⟨⟨w, hwork, hmask, hdesc⟩, hcmds, hmem⟩ := State.warp_works hq h hb
  have hexec : exec (.rsWarp c.uid) s = .next (s.warp c).rasterRest.track :=
    congrArg Host.Outcome.next (State.rasterOp_goes hhead State.warpFails State.warp hw hf)
  refine ⟨_, w, hexec, ?_, ?_, hmask, hdesc, fun he => ?_, fun hs => ?_, ?_⟩
  · rw [State.track_only _ .cmds rfl, State.rasterRest_cmds, hcmds]
  · rw [State.rasterRest_track_tileWork, hwork]
  · obtain rfl := Option.some.inj (hwork.symm.trans (State.warp_empty hq h hb he))
    exact ⟨rfl, rfl, rfl⟩
  · rw [State.rasterRest_track_mem, hmem hs]
  · exact (State.rasterRest_track_only _).step (by decide) ((s.warp_only c).keeps_cmds hcmds (by decide))

theorem rsMask_begins (hhead : s.rasterHead c.uid 0x6005 = some c) (hf : s.maskFails c = []) :
    ∃ t w, exec (.rsMask c.uid) s = .next t ∧ t.cmds = s.cmds ∧ t.tileWork c.uid = some w ∧ w.mask = true ∧ w.desc = s.devPacket (c.num 24 8) ∧
      w.todo = List.range 16 ∧ (s.softWords = [] → t.mem = (s.starts c).mem) ∧
      Only [.badWords, .ctrs, .engines, .hostMem, .log, .mem, .msix, .pages, .raster, .regs, .softWords, .traceAt, .traceFill, .traceGap] s t := by
  obtain ⟨hwork, hcmds, hmem⟩ := State.mask_begins (State.rasterHead_cmd hhead).1 hb
  have hexec : exec (.rsMask c.uid) s = .next (s.mask c).rasterRest.track :=
    congrArg Host.Outcome.next (State.rasterOp_goes hhead State.maskFails State.mask hw hf)
  refine ⟨_, s.maskTile c, hexec, ?_, ?_, rfl, rfl, rfl, fun hs => ?_, ?_⟩
  · rw [State.track_only _ .cmds rfl, State.rasterRest_cmds, hcmds]
  · rw [State.rasterRest_track_tileWork, hwork]
  · rw [State.rasterRest_track_mem, hmem hs]
  · exact (State.rasterRest_track_only _).step (by decide) ((s.mask_only c).keeps_cmds hcmds (by decide))

end

/-- A begun RS_WARP goes on. -/
theorem rsWarp_goes_on {s : State} {c : Cmd} {w : RTile} (hhead : s.rasterHead c.uid 0x6004 = some c) (h : s.tileWork c.uid = some w) :
    exec (.rsWarp c.uid) s = .next (s.warpOn c w).rasterRest.track := by
  have hgoes := State.rasterOp_begun hhead State.warpFails State.warp (State.begun_of_tileWork h)
  rw [State.warp_begun h] at hgoes
  exact congrArg Host.Outcome.next hgoes

end Sys2Proof.Machine
end

section
set_option Elab.async false
namespace Sys2Proof.Machine

/-! ### An item of an RS_WARP or RS_MASK (R231, R239, R241) -/

theorem State.endTile_ends {s : State} {c : Cmd} (hc : s.cmd? c.uid = some c) (hu : c.unstarted = true) (st : Status) (cause : Nat) :
    (s.endTile c.uid st cause).cmd? c.uid = some { c with place := .ended st cause } :=
  State.endCmd_ends (s := s.dropTile c.uid) hc hu st cause

theorem State.failTile_ends {s : State} {c : Cmd} (hc : s.cmd? c.uid = some c) (hu : c.unstarted = true) (e : Nat × Nat) :
    (s.failTile c.uid e).cmd? c.uid = some { c with place := .ended .ecc e.1, fault := some ⟨s.now, e.2, 1⟩ } := by
  have hchunk := (s.dropTile c.uid).chunkError_only e
  have hfound : ((s.dropTile c.uid).chunkError e).cmd? c.uid = some c := (State.cmd?_congr (hchunk .cmds rfl) c.uid).trans hc
  have hnow : ((s.dropTile c.uid).chunkError e).now = s.now := hchunk .now rfl
  rw [← hnow]
  exact State.faultCmd_ends hfound hu .ecc e.1 e.2

theorem State.failTile_stalled {s : State} (h : s.raster.stalled = []) (uid : Nat) (e : Nat × Nat) : (s.failTile uid e).raster.stalled = [] := by
  have hchunk : ((s.dropTile uid).chunkError e).raster = (s.dropTile uid).raster := (s.dropTile uid).chunkError_only e .raster rfl
  exact (congrArg Raster.stalled hchunk).trans h

/-- The work of an RS_WARP whose item `k` has been drawn. -/
def State.warpTileDone (s : State) (c : Cmd) (w : RTile) (k : Nat) : RTile :=
  { w with
    bins := w.bins.erase k, todo := w.todo.filter (· != k)
    depth := if w.last then SMap.erase w.depth k else SMap.set w.depth k (s.warpWork c w k).depth }

section
variable {s : State} {c : Cmd} {w : RTile} {k base : Nat} (hslot : s.warpSlot c = some base)
include hslot

theorem State.warpItem_no_route (hr : s.hubRoute (s.engineOf c / 2) = 0) : s.warpItem c w k = s.endTile c.uid .link 0x21 := by
  simp only [State.warpItem, hslot, hr, BEq.rfl, if_true]

variable (hr : s.hubRoute (s.engineOf c / 2) ≠ 0)
include hr

theorem State.warpItem_fails {e : Nat × Nat} (he : s.itemError (w.bins.refs k) (s.warpWork c w k).reads = some e) :
    s.warpItem c w k = s.failTile c.uid e := by
  simp only [State.warpItem, hslot, beq_eq_false_iff_ne.mpr hr, he, Bool.false_eq_true, if_false]

theorem State.warpItem_draws (he : s.itemError (w.bins.refs k) (s.warpWork c w k).reads = none) (hsoft : s.softWords = [])
    {t : State} (ht : (s.putAll ((s.warpWork c w k).runs.map fun r => (base + r.1, r.2))).putTile (s.warpTileDone c w k) = t) :
    s.warpItem c w k = if (w.last && (w.todo.filter (· != k)).isEmpty) = true then t.endTile c.uid .ok 0 else t := by
  simp only [State.warpItem, hslot, beq_eq_false_iff_ne.mpr hr, he, Bool.false_eq_true, if_false]
  rw [State.correctReads_of_no_soft (s.putAll_no_soft hsoft _), ← ht]
  rfl

end

section
variable {s : State} {c : Cmd} {w : RTile} {k : Nat}

theorem State.maskItem_fails {e : Nat × Nat} (he : s.itemError [] (s.maskItemReads c (MaskDesc.of w.desc) k) = some e) :
    s.maskItem c w k = s.failTile c.uid e := by
  simp only [State.maskItem, he]

theorem State.maskItem_writes (he : s.itemError [] (s.maskItemReads c (MaskDesc.of w.desc) k) = none)
    {t : State} (ht : (s.maskWrite c (MaskDesc.of w.desc) k none).putTile { w with todo := w.todo.filter (· != k) } = t) :
    s.maskItem c w k = if (w.todo.filter (· != k)).isEmpty = true then t.endTile c.uid .ok 0 else t := by
  simp only [State.maskItem, he, ht]

/-- No element of the item is nonzero, or no frame's table has the tile: PROT stays as it is, and the elements are all that is written. -/
theorem State.maskWrite_mem {d : MaskDesc} (hsoft : s.softWords = [])
    (h : (s.stepOf c).bind (·.frame) = none ∨ ∀ r ∈ s.maskRows c d k, ∀ x ∈ r, BitVec.ofNat 8 x = 0) :
    (s.maskWrite c d k none).mem = (s.putAll (((List.range 32).zip (s.maskRows c d k)).map fun r =>
      (c.num 32 8 + 128 * (32 * (k / 4) + r.1) + 32 * (k % 4), r.2.map fun x => BitVec.ofNat 8 x))).mem := by
  unfold State.maskWrite
  dsimp only
  rw [State.correctReads_of_no_soft (s.putAll_no_soft hsoft _)]
  split
  · next hany =>
    rcases h with hframe | hzero
    · have hstep (ws : List (Nat × List Byte)) : ((s.putAll ws).stepOf c).bind (·.frame) = none := by
        have hsteps : (s.putAll ws).stepOf c = s.stepOf c := by
          unfold State.stepOf State.step?
          rw [s.putAll_only ws .steps rfl]
        rw [hsteps, hframe]
      rw [State.markProt, hstep]
    · obtain ⟨r, hr, hbyte⟩ := List.any_eq_true.mp hany
      obtain ⟨q, hq, rfl⟩ := List.mem_map.mp hr
      obtain ⟨x, hx, hne⟩ := List.any_eq_true.mp hbyte
      obtain ⟨n, hn, rfl⟩ := List.mem_map.mp hx
      exact absurd (hzero q.2 (List.of_mem_zip hq).2 n hn) (by simpa using hne)
  · rfl

end

/-- An item of a begun RS_WARP or RS_MASK is one of that kind. -/
theorem State.runItem_tile {s : State} {i : ItemKey} {w : RTile} {c : Cmd} (hi : i.pass = none) (hw : s.tileWork i.cmd = some w)
    (hc : s.cmd? i.cmd = some c) : s.runItem i = if w.mask = true then s.maskItem c w i.bin else s.warpItem c w i.bin := by
  simp only [State.runItem, hi, hw, hc]

/-- A command whose work the engine has begun has not ended. -/
theorem State.tileWork_unstarted {s : State} {uid : Nat} {w : RTile} {c : Cmd} (hw : s.tileWork uid = some w)
    (hone : ∀ d ∈ s.cmds, d.uid = uid → d = c) : c.unstarted = true := by
  obtain ⟨hwu, -, d, hd, hdu, -⟩ := State.tileWork_queued hw
  obtain rfl := hone d (List.mem_of_mem_filter hd) (hdu.trans hwu)
  exact State.inQueue_unstarted hd

/-- An item was the last of those to run. -/
theorem filter_ne_isEmpty {todo : List Nat} {k : Nat} : (todo.filter (· != k)).isEmpty = true ↔ ∀ j ∈ todo, j = k := by
  simp [List.filter_eq_nil_iff]

section
variable {s : State} {core : Nat} {i : ItemKey} {w : RTile} {c : Cmd} (hf : (s.settleRaster.page .raster 0).faulted = false)
  (hn : s.settleRaster.nextItem core = some i) (hw : s.settleRaster.tileWork i.cmd = some w)
  (hc : s.settleRaster.cmd? i.cmd = some c) (hone : ∀ d ∈ s.settleRaster.cmds, d.uid = i.cmd → d = c)
  (hstalled : s.settleRaster.raster.stalled = [])
include hf hn hw hc hone hstalled

/-- An item that meets an uncorrectable word ends its command. -/
theorem rasterTileItem_fails {e : Nat × Nat} (hrun : s.settleRaster.runItem i = s.settleRaster.failTile c.uid e) :
    ∃ t, exec (.rasterBinItem core) s = .next t ∧ t.cmd? i.cmd = some { c with place := .ended .ecc e.1, fault := some ⟨s.now, e.2, 1⟩ } ∧
      t.mem = s.mem := by
  have hsettled := s.settleRaster_only
  have hu := State.tileWork_unstarted hw hone
  have huid : c.uid = i.cmd := by simpa using List.find?_some hc
  rw [← huid] at hc ⊢
  refine ⟨_, execRasterBinItem_runs hf hn hrun (State.failTile_stalled hstalled _ e), ?_, ?_⟩
  · rw [State.rasterRest_track_cmd?, State.failTile_ends hc hu, hsettled .now rfl]
  · rw [State.rasterRest_track_mem, State.failTile_only _ _ e .mem rfl, hsettled .mem rfl]

omit hstalled in
/-- An item that ends its command, once it has written what it writes. -/
theorem rasterTileItem_ends {t : State} {st : Status} {cause : Nat} (hrun : s.settleRaster.runItem i = t.endTile c.uid st cause)
    (hcmds : t.cmds = s.settleRaster.cmds) (hst : t.raster.stalled = []) :
    ∃ t', exec (.rasterBinItem core) s = .next t' ∧ t'.cmd? i.cmd = some { c with place := .ended st cause } ∧ t'.mem = t.mem := by
  have hu := State.tileWork_unstarted hw hone
  have huid : c.uid = i.cmd := by simpa using List.find?_some hc
  rw [← huid, ← State.cmd?_congr hcmds] at hc
  refine ⟨_, execRasterBinItem_runs hf hn hrun hst, ?_, ?_⟩
  · rw [State.rasterRest_track_cmd?, ← huid, State.endTile_ends hc hu]
  · rw [State.rasterRest_track_mem, State.endTile_only _ _ _ _ .mem rfl]

omit hw hone hstalled in
/-- An item that is not the last of its command. -/
theorem rasterTileItem_goes_on {t : State} (hrun : s.settleRaster.runItem i = t) (hcmds : t.cmds = s.settleRaster.cmds)
    (hst : t.raster.stalled = []) :
    ∃ t', exec (.rasterBinItem core) s = .next t' ∧ t'.cmd? i.cmd = some c ∧ t'.tileWork i.cmd = t.tileWork i.cmd ∧ t'.mem = t.mem :=
  ⟨_, execRasterBinItem_runs hf hn hrun hst, by rw [State.rasterRest_track_cmd?, State.cmd?_congr hcmds, hc], State.rasterRest_track_tileWork _ _,
    State.rasterRest_track_mem _⟩

variable (hi : i.pass = none) (hsoft : s.softWords = [])
include hi hsoft

/-- An item of an RS_WARP that meets no error writes its rows into the landing slot (R237). -/
theorem warpItem_draws (hmask : w.mask = false) {base : Nat} (hslot : s.settleRaster.warpSlot c = some base)
    (hr : s.settleRaster.hubRoute (s.settleRaster.engineOf c / 2) ≠ 0)
    (he : s.settleRaster.itemError (w.bins.refs i.bin) (s.settleRaster.warpWork c w i.bin).reads = none) :
    ∃ t, exec (.rasterBinItem core) s = .next t ∧
      t.mem = (s.putAll ((s.settleRaster.warpWork c w i.bin).runs.map fun r => (base + r.1, r.2))).mem ∧
      (w.last = true → (∀ k ∈ w.todo, k = i.bin) → t.cmd? i.cmd = some { c with place := .ended .ok 0 }) ∧
      ((w.last = false ∨ ∃ k ∈ w.todo, k ≠ i.bin) → t.cmd? i.cmd = some c ∧
        ∃ v, t.tileWork i.cmd = some v ∧ v.todo = w.todo.filter (· != i.bin)) := by
  have hsettled := s.settleRaster_only
  have hput := s.settleRaster.putAll_only ((s.settleRaster.warpWork c w i.bin).runs.map fun r => (base + r.1, r.2))
  have hmem := State.putAll_mem_congr (hsettled .mem rfl) ((s.settleRaster.warpWork c w i.bin).runs.map fun r => (base + r.1, r.2))
  have hst := (congrArg Raster.stalled (hput .raster rfl)).trans hstalled
  have hwork := (State.tileWork_congr (hput .cmds rfl) (congrArg Raster.tiles (hput .raster rfl)) i.cmd).trans hw
  have hfound := State.putTile_tileWork (v := s.settleRaster.warpTileDone c w i.bin) hwork rfl rfl
  have hrun := State.runItem_tile hi hw hc
  rw [if_neg (by simp [hmask]), State.warpItem_draws hslot hr he ((hsettled .softWords rfl).trans hsoft) rfl] at hrun
  by_cases hlast : (w.last && (w.todo.filter (· != i.bin)).isEmpty) = true
  · rw [if_pos hlast] at hrun
    obtain ⟨hround, hall⟩ := Bool.and_eq_true_iff.mp hlast
    rw [filter_ne_isEmpty] at hall
    obtain ⟨t, hexec, hend, hkept⟩ := rasterTileItem_ends hf hn hw hc hone hrun (hput .cmds rfl) hst
    refine ⟨t, hexec, hkept.trans hmem, fun _ _ => hend, fun hmore => ?_⟩
    rcases hmore with hround' | ⟨k, hk, hne⟩
    · rw [hround] at hround'
      cases hround'
    · exact absurd (hall k hk) hne
  · rw [if_neg hlast] at hrun
    obtain ⟨t, hexec, hstays, hwork', hkept⟩ := rasterTileItem_goes_on hf hn hc hrun (hput .cmds rfl) hst
    exact ⟨t, hexec, hkept.trans hmem, fun hround hall => absurd (Bool.and_eq_true_iff.mpr ⟨hround, filter_ne_isEmpty.mpr hall⟩) hlast,
      fun _ => ⟨hstays, _, hwork'.trans hfound, rfl⟩⟩

/-- An item of an RS_MASK that meets no error writes its elements (R239). -/
theorem maskItem_writes (hmask : w.mask = true)
    (he : s.settleRaster.itemError [] (s.settleRaster.maskItemReads c (MaskDesc.of w.desc) i.bin) = none) :
    ∃ t, exec (.rasterBinItem core) s = .next t ∧
      (((s.settleRaster.stepOf c).bind (·.frame) = none ∨
          ∀ r ∈ s.settleRaster.maskRows c (MaskDesc.of w.desc) i.bin, ∀ x ∈ r, BitVec.ofNat 8 x = 0) →
        t.mem = (s.putAll (((List.range 32).zip (s.settleRaster.maskRows c (MaskDesc.of w.desc) i.bin)).map fun r =>
          (c.num 32 8 + 128 * (32 * (i.bin / 4) + r.1) + 32 * (i.bin % 4), r.2.map fun x => BitVec.ofNat 8 x))).mem) ∧
      ((∀ k ∈ w.todo, k = i.bin) → t.cmd? i.cmd = some { c with place := .ended .ok 0 }) ∧
      ((∃ k ∈ w.todo, k ≠ i.bin) → t.cmd? i.cmd = some c) := by
  have hsettled := s.settleRaster_only
  have hwrite := s.settleRaster.maskWrite_only c (MaskDesc.of w.desc) i.bin none
  have hmem := State.maskWrite_mem (c := c) (d := MaskDesc.of w.desc) (k := i.bin) ((hsettled .softWords rfl).trans hsoft)
  rw [State.putAll_mem_congr (hsettled .mem rfl)] at hmem
  have hst := (congrArg Raster.stalled (hwrite .raster rfl)).trans hstalled
  have hrun := State.runItem_tile hi hw hc
  rw [if_pos hmask, State.maskItem_writes he rfl] at hrun
  by_cases hlast : (w.todo.filter (· != i.bin)).isEmpty = true
  · rw [if_pos hlast] at hrun
    obtain ⟨t, hexec, hend, hkept⟩ := rasterTileItem_ends hf hn hw hc hone hrun (hwrite .cmds rfl) hst
    exact ⟨t, hexec, fun h => hkept.trans (hmem h), fun _ => hend,
      fun ⟨k, hk, hne⟩ => absurd (filter_ne_isEmpty.mp hlast k hk) hne⟩
  · rw [if_neg hlast] at hrun
    obtain ⟨t, hexec, hstays, -, hkept⟩ := rasterTileItem_goes_on hf hn hc hrun (hwrite .cmds rfl) hst
    exact ⟨t, hexec, fun h => hkept.trans (hmem h), fun hall => absurd (filter_ne_isEmpty.mpr hall) hlast, fun _ => hstays⟩

end

/-- Settles O41: a command begins with `State.addTile`, and each of its items is a list of writes and an end or a smaller work. -/
theorem warpAndMaskWriteTheirTile : Obligations.WarpAndMaskWriteTheirTile := by
  unfold Obligations.WarpAndMaskWriteTheirTile
  refine fun s => ⟨fun c _ _ hw hb => ⟨rsWarp_begins hw hb, fun w => rsWarp_goes_on, fun hhead hfails _ => rsMask_begins hw hb hhead hfails⟩, ?_⟩
  rintro core u i w c rfl hf hn hi hw hc hone hstalled hsoft
  have hrun := State.runItem_tile hi hw hc
  refine ⟨fun base hmask hslot => ?_, fun hmask => ?_⟩
  · rw [if_neg (by simp [hmask])] at hrun
    refine ⟨fun hr => ?_, fun e hr he => ?_, warpItem_draws hf hn hw hc hone hstalled hi hsoft hmask hslot⟩
    · obtain ⟨t, hexec, hend, hmem⟩ :=
        rasterTileItem_ends hf hn hw hc hone (hrun.trans (State.warpItem_no_route hslot hr)) rfl hstalled
      exact ⟨t, hexec, hend, hmem.trans (s.settleRaster_only .mem rfl)⟩
    · exact rasterTileItem_fails hf hn hw hc hone hstalled (hrun.trans (State.warpItem_fails hslot hr he))
  · rw [if_pos hmask] at hrun
    refine ⟨fun e he => rasterTileItem_fails hf hn hw hc hone hstalled (hrun.trans (State.maskItem_fails he)), ?_⟩
    rintro rows he rfl
    exact maskItem_writes hf hn hw hc hone hstalled hi hsoft hmask he

end Sys2Proof.Machine
end

section
set_option Elab.async false
namespace Sys2Proof.Machine

/-! ### Outputs (R263, R267) -/

theorem State.putOut_out (s : State) (i : Nat) (o : DpOut) : (s.putOut i o).out i = o := SMap.get_set_same ..

theorem State.putOut_out_other (s : State) {i j : Nat} (o : DpOut) (h : j ≠ i) : (s.putOut i o).out j = s.out j :=
  SMap.get_set_other _ _ _ _ _ h

theorem State.out_congr {s t : State} (h : t.outs = s.outs) (i : Nat) : t.out i = s.out i := by
  unfold State.out
  rw [h]

theorem State.irq_out (s : State) (b : Blk) (k : Nat) (m : Word) (i : Nat) : (s.irq b k m).out i = s.out i :=
  State.out_congr (s.irq_only b k m .outs rfl) i

/-- What the judgement of the frame being scanned makes of an output (R267). -/
def State.guarded (s : State) (i : Nat) : DpOut :=
  { s.out i with
    blocked := s.frameProt.1 && !(s.out i).authFor s.frameProt.2
    encrypting := (s.out i).streaming && (s.out i).authFor s.frameProt.2 && (s.frameProt.1 || (s.ocfg i 0x058).testBit 0) }

theorem State.guardOut_outs (s : State) (i : Nat) : (s.guardOut i).outs = (s.putOut i (s.guarded i)).outs := by
  unfold State.guardOut
  dsimp only
  split
  · exact State.irq_only _ _ _ _ .outs rfl
  · rfl

theorem State.guardOut_out (s : State) (i : Nat) : (s.guardOut i).out i = s.guarded i :=
  (State.out_congr (s.guardOut_outs i) i).trans (s.putOut_out i _)

theorem State.guardOut_out_other (s : State) {i j : Nat} (h : j ≠ i) : (s.guardOut i).out j = s.out j :=
  (State.out_congr (s.guardOut_outs i) j).trans (s.putOut_out_other _ h)

theorem State.putOut_frameProt (s : State) (i : Nat) (o : DpOut) : (s.putOut i o).frameProt = s.frameProt := rfl

end Sys2Proof.Machine
end

section
set_option Elab.async false
namespace Sys2Proof.Machine

/-! ### Host AUX transactions (R266, R276) -/

theorem auxCmd_iff (c : Nat) : auxCmd c = true ↔ c ∈ [0, 1, 4, 5] := by simp [auxCmd, or_assoc]

section
variable {s : State} {i : Nat}

theorem execAuxStart_reaches (h : s.hostWrites .dptx i = true) (v : Nat) : exec (.auxStart i v) s = .next ((s.touch .dptx i).auxStart i v) :=
  congrArg Host.Outcome.next (State.host_reaches h fun t => t.auxStart i v)

theorem execAuxStart_kept (h : s.hostWrites .dptx i = false) (v : Nat) : exec (.auxStart i v) s = .next s :=
  congrArg Host.Outcome.next (State.host_kept h fun t => t.auxStart i v)

theorem State.auxStart_busy (h : (s.out i).auxBusy = true) (v : Nat) : s.auxStart i v = s := if_pos h

theorem State.auxStart_runs (h : (s.out i).auxBusy = false) {v : Nat} (hv : bits v 23 20 ∈ [0, 1, 4, 5]) (hf : s.fwPaused = false) :
    s.auxStart i v = (s.setReg .dptx i 0x05C (v % 2 ^ 28)).putOut i { s.out i with auxBusy := true } := by
  simp only [State.auxStart, h, (auxCmd_iff _).mpr hv, hf, Bool.false_eq_true, if_false, Bool.not_false, Bool.and_true, if_true]

theorem State.auxStart_nacks (h : (s.out i).auxBusy = false) {v : Nat} (hv : bits v 23 20 ∉ [0, 1, 4, 5] ∨ s.fwPaused = true) :
    s.auxStart i v = (s.setReg .dptx i 0x05C (v % 2 ^ 28)).putOut i { s.out i with auxResult := 1 } := by
  have hno : (auxCmd (bits v 23 20) && !s.fwPaused) = false := by
    rcases hv with hv | hv
    · rw [Bool.eq_false_iff.mpr (mt (auxCmd_iff _).mp hv), Bool.false_and]
    · rw [hv, Bool.not_true, Bool.and_false]
  simp only [State.auxStart, h, hno, Bool.false_eq_true, if_false]

/-- Whether the transaction runs or is NACKed, its control word is stored and no other output changes. -/
theorem State.auxStart_idle (h : (s.out i).auxBusy = false) (v : Nat) :
    ∃ o, s.auxStart i v = (s.setReg .dptx i 0x05C (v % 2 ^ 28)).putOut i o := by
  by_cases hv : bits v 23 20 ∈ [0, 1, 4, 5] ∧ s.fwPaused = false
  · exact ⟨_, State.auxStart_runs h hv.1 hv.2⟩
  · refine ⟨_, State.auxStart_nacks h ?_⟩
    rwa [not_and_or, Bool.not_eq_false] at hv

theorem auxStart_stores (h : (s.out i).auxBusy = false) (v : Nat) :
    (s.auxStart i v).reg .dptx i 0x05C = v % 2 ^ 28 ∧
      (∀ k, k ≠ Blk.base .dptx i + 0x05C → (s.auxStart i v).regs.find? k = s.regs.find? k) ∧
      (∀ j, j ≠ i → (s.auxStart i v).out j = s.out j) := by
  obtain ⟨o, ho⟩ := State.auxStart_idle h v
  rw [ho]
  refine ⟨?_, fun k hk => State.find?_setReg_other s _ _ _ _ k hk, fun j hj => State.putOut_out_other _ o hj⟩
  exact (s.reg_setReg .dptx i 0x05C _).trans (Nat.mod_eq_of_lt (by omega))

/-- A reply's transaction has ended with a result. -/
def State.auxEnded (s : State) (i result : Nat) : State := s.putOut i { s.out i with auxBusy := false, auxResult := result }

theorem execAuxReply_idle (h : (s.out i).auxBusy = false) (r : Option (Nat × List Byte)) : exec (.auxReply i r) s = .next s := by
  show execAuxReply i r s = _
  simp only [execAuxReply, h, Bool.not_false, if_true]

theorem execAuxReply_none (h : (s.out i).auxBusy = true) : exec (.auxReply i none) s = .next ((s.auxEnded i 3).err .dptx i 3 0 0) := by
  show execAuxReply i none s = _
  simp only [execAuxReply, h, Bool.not_true, Bool.false_eq_true, if_false]
  rfl

/-- The bytes that a reply brings to AUX_DATA. -/
def State.auxBytes (s : State) (i result : Nat) (bs : List Byte) : List Byte :=
  if result = 0 ∧ (s.reg .dptx i 0x05C).testBit 20 = true then bs.take (bits (s.reg .dptx i 0x05C) 27 24 + 1) else []

/-- What AUX_DATA holds. -/
def State.auxWords (s : State) (i : Nat) : List Byte := (List.range 4).flatMap fun k => leBytes 4 (s.reg .dptx i (0x060 + 4 * k))

theorem State.auxWords_length (s : State) (i : Nat) : (s.auxWords i).length = 16 := by
  simp [State.auxWords, List.length_flatMap, leBytes_length]

theorem State.auxBytes_length_le (s : State) (i result : Nat) (bs : List Byte) : (s.auxBytes i result bs).length ≤ 16 := by
  have hbits : bits (s.reg .dptx i 0x05C) 27 24 < 16 := by
    rw [bits_eq]
    omega
  unfold State.auxBytes
  split
  · rw [List.length_take]
    omega
  · exact Nat.zero_le _

/-- Successive parts of a list, in order, are the list. -/
theorem flatMap_parts {α : Type} (l : List α) (w n : Nat) : ((List.range n).flatMap fun k => (l.drop (w * k)).take w) = l.take (w * n) := by
  induction n with
  | zero => simp
  | succ n ih => rw [List.range_succ, List.flatMap_append, ih, Nat.mul_succ, List.take_add, List.flatMap_singleton]

/-- The bytes written over AUX_DATA. -/
def State.auxNew (s : State) (i : Nat) (bs : List Byte) : List Byte := bs ++ (s.auxWords i).drop bs.length

theorem State.auxNew_length {bs : List Byte} (h : bs.length ≤ 16) : (s.auxNew i bs).length = 16 := by
  rw [State.auxNew, List.length_append, List.length_drop, State.auxWords_length]
  omega

theorem State.auxData_eq (s : State) (i : Nat) (bs : List Byte) :
    s.auxData i bs = (List.range 4).foldl (fun t k => t.setReg .dptx i (0x060 + 4 * k) (leNat (((s.auxNew i bs).drop (4 * k)).take 4))) s := rfl

/-- Each word of AUX_DATA holds its part of the bytes. -/
theorem State.auxData_word {bs : List Byte} {k : Nat} (hk : k < 4) :
    (s.auxData i bs).reg .dptx i (0x060 + 4 * k) = leNat (((s.auxNew i bs).drop (4 * k)).take 4) % 2 ^ 32 := by
  have other {o p : Nat} (t : State) (v : Nat) (h : p ≠ o) : (t.setReg .dptx i o v).reg .dptx i p = t.reg .dptx i p :=
    t.reg_setReg_other v (by omega)
  rw [State.auxData_eq]
  simp only [List.range_succ, List.range_zero, List.nil_append, List.cons_append, List.foldl_cons, List.foldl_nil]
  obtain rfl | rfl | rfl | rfl : k = 0 ∨ k = 1 ∨ k = 2 ∨ k = 3 := by omega
  · rw [other _ _ (by decide), other _ _ (by decide), other _ _ (by decide), State.reg_setReg]
  · rw [other _ _ (by decide), other _ _ (by decide), State.reg_setReg]
  · rw [other _ _ (by decide), State.reg_setReg]
  · rw [State.reg_setReg]

theorem State.auxData_words {bs : List Byte} (h : bs.length ≤ 16) : (s.auxData i bs).auxWords i = s.auxNew i bs := by
  have hpart : ∀ k ∈ List.range 4, leBytes 4 ((s.auxData i bs).reg .dptx i (0x060 + 4 * k)) = ((s.auxNew i bs).drop (4 * k)).take 4 := by
    intro k hk
    have hk : k < 4 := List.mem_range.mp hk
    have hlen : (((s.auxNew i bs).drop (4 * k)).take 4).length = 4 := by
      rw [List.length_take, List.length_drop, State.auxNew_length h]
      omega
    have hlt := leNat_lt (((s.auxNew i bs).drop (4 * k)).take 4)
    rw [hlen] at hlt
    rw [State.auxData_word hk, Nat.mod_eq_of_lt (by omega), leBytes_leNat hlen]
  rw [State.auxWords, List.flatMap_congr hpart, flatMap_parts, List.take_of_length_le (Nat.le_of_eq (State.auxNew_length h))]

theorem State.auxData_other (s : State) (i : Nat) (bs : List Byte) {k : Nat} (h : ∀ n < 4, k ≠ Blk.base .dptx i + (0x060 + 4 * n)) :
    (s.auxData i bs).regs.find? k = s.regs.find? k := by
  rw [State.auxData_eq]
  simp only [List.range_succ, List.range_zero, List.nil_append, List.cons_append, List.foldl_cons, List.foldl_nil]
  rw [State.find?_setReg_other _ _ _ _ _ _ (h 3 (by decide)), State.find?_setReg_other _ _ _ _ _ _ (h 2 (by decide)),
    State.find?_setReg_other _ _ _ _ _ _ (h 1 (by decide)), State.find?_setReg_other _ _ _ _ _ _ (h 0 (by decide))]

theorem execAuxReply_some (h : (s.out i).auxBusy = true) (res : Nat) (bs : List Byte) :
    ∃ t, exec (.auxReply i (some (res, bs))) s = .next t ∧ t.outs = (s.auxEnded i (min res 2)).outs ∧
      t.auxWords i = s.auxNew i (s.auxBytes i res bs) ∧
      (∀ k, (∀ n < 4, k ≠ Blk.base .dptx i + (0x060 + 4 * n)) → t.regs.find? k = s.regs.find? k) ∧ Only [.outs, .regs] s t := by
  have hended : Only [.outs, .regs] s (s.auxEnded i (min res 2)) := (s.putOut_only i _).mono (by decide)
  have hexec : exec (.auxReply i (some (res, bs))) s = .next (if res == 0 && (s.reg .dptx i 0x05C).testBit 20 then
      (s.auxEnded i (min res 2)).auxData i (bs.take (bits (s.reg .dptx i 0x05C) 27 24 + 1)) else s.auxEnded i (min res 2)) := by
    show execAuxReply i (some (res, bs)) s = _
    simp only [execAuxReply, h, Bool.not_true, Bool.false_eq_true, if_false]
    rfl
  rw [hexec]
  have hle := s.auxBytes_length_le i res bs
  by_cases hread : res = 0 ∧ (s.reg .dptx i 0x05C).testBit 20 = true
  · rw [State.auxBytes, if_pos hread] at hle ⊢
    obtain ⟨rfl, hbit⟩ := hread
    rw [hbit]
    exact ⟨_, rfl, State.auxData_only _ i _ .outs rfl, State.auxData_words hle, fun k hk => State.auxData_other _ i _ hk,
      (State.auxData_only _ i _).step (by decide) hended⟩
  · rw [State.auxBytes, if_neg hread, if_neg (by simpa using hread)]
    exact ⟨_, rfl, rfl, rfl, fun _ _ => rfl, hended⟩

end

/-- Settles O45: AUX_START is its three cases, and a reply's bytes are written word by word over AUX_DATA. -/
theorem auxTransactionsRunOneAtATime : Obligations.AuxTransactionsRunOneAtATime := by
  unfold Obligations.AuxTransactionsRunOneAtATime
  refine fun s i => ⟨fun v h => execAuxStart_kept h v, fun v h => ⟨_, execAuxStart_reaches h v, fun hbusy => ?_, fun hidle => ?_, ?_, ?_⟩,
    execAuxReply_idle, fun hbusy => ⟨fun res bs new hnew => ?_, ?_⟩⟩
  · rw [State.auxStart_busy (s := s.touch .dptx i) hbusy]
    exact ⟨rfl, rfl⟩
  · obtain ⟨hreg, hother, -⟩ := auxStart_stores (s := s.touch .dptx i) hidle v
    refine ⟨hreg, hother, fun hv hf => ?_, fun hv => ?_⟩
    · rw [State.auxStart_runs (s := s.touch .dptx i) hidle hv hf, State.putOut_out]
      rfl
    · rw [State.auxStart_nacks (s := s.touch .dptx i) hidle hv, State.putOut_out]
      rfl
  · intro j hj
    cases hb : (s.out i).auxBusy
    · exact (auxStart_stores (s := s.touch .dptx i) hb v).2.2 j hj
    · rw [State.auxStart_busy (s := s.touch .dptx i) hb]
      rfl
  · exact (State.auxStart_only _ i v).step (by decide) ((s.touch_only .dptx i).mono (by decide))
  · obtain ⟨t, hexec, houts, hwords, hregs, honly⟩ := execAuxReply_some hbusy res bs
    rw [← State.auxBytes] at hnew
    subst hnew
    refine ⟨t, hexec, (State.out_congr houts i).trans (s.putOut_out i _), hwords, hregs, fun j hj => ?_, honly⟩
    exact (State.out_congr houts j).trans (s.putOut_out_other _ hj)
  · refine ⟨_, execAuxReply_none hbusy, s.putOut_out i _, ?_, ?_, fun j hj => s.putOut_out_other _ hj, ?_⟩
    · rw [State.err_page]
    · rw [State.err_page]
    · exact (State.err_only _ _ _ _ _ _).step (by decide) ((s.putOut_only i _).mono (by decide))

end Sys2Proof.Machine
end

section
set_option Elab.async false
namespace Sys2Proof.Machine

/-! ### The links of the outputs (R263 to R267) -/

/-- An output whose link is being trained anew. -/
def DpOut.retrained (o : DpOut) : DpOut := { o with trained := false, training := true, streaming := false, hdcp := 0 }

/-- An output whose link is lost. -/
def DpOut.unlinked (o : DpOut) : DpOut :=
  { o with trained := false, training := false, streaming := false, resumes := false, hdcp := 0, encrypting := false }

section
variable {s : State} {i : Nat}

theorem State.retrain_present (h : (s.out i).hpd = true) : s.retrain i = s.putOut i (s.out i).retrained := by
  unfold State.retrain
  rw [if_pos h]
  rfl

theorem State.retrain_absent (h : (s.out i).hpd = false) : s.retrain i = s := by
  unfold State.retrain
  rw [if_neg (by simp [h])]

theorem State.retrain_out_other (s : State) {i j : Nat} (h : j ≠ i) : (s.retrain i).out j = s.out j := by
  cases hp : (s.out i).hpd
  · rw [State.retrain_absent hp]
  · rw [State.retrain_present hp, State.putOut_out_other _ _ h]

/-- A lost link stops the output and counts, and raises LINK_LOSS. -/
theorem State.loseOutLink_loses (s : State) (i : Nat) :
    (s.loseOutLink i).out i = (s.out i).unlinked ∧ (∀ j, j ≠ i → (s.loseOutLink i).out j = s.out j) ∧
      (s.loseOutLink i).reg .dptx i 0x074 = min (s.reg .dptx i 0x074 + 1) (2 ^ 32 - 1) ∧
      (∀ k, k ≠ Blk.base .dptx i + 0x074 → (s.loseOutLink i).regs.find? k = s.regs.find? k) ∧
      ((s.loseOutLink i).page .dptx i).raw = (s.page .dptx i).raw ||| 0b10 ∧ Only [.hostMem, .msix, .outs, .pages, .regs] s (s.loseOutLink i) := by
  have hput : s.loseOutLink i = ((s.putOut i (s.out i).unlinked).bump .dptx i 0x074 1).irq .dptx i 0b10 := rfl
  rw [hput]
  refine ⟨?_, fun j hj => ?_, ?_, fun k hk => ?_, ?_, ?_⟩
  · rw [State.irq_out]
    exact s.putOut_out i _
  · rw [State.irq_out]
    exact s.putOut_out_other _ hj
  · rw [State.irq_reg, State.reg_bump]
    rfl
  · rw [State.irq_regs]
    exact State.find?_bump_other _ _ _ _ _ hk
  · rw [State.irq_page]
    rfl
  · exact (State.irq_only _ _ _ _).step (by decide) ((State.bump_only _ _ _ _ _).step (by decide) ((s.putOut_only i _).mono (by decide)))

/-- The level of HPD has changed, and HPD_CHANGE is raised. -/
def State.hpdMoved (s : State) (i : Nat) (present : Bool) : State :=
  ((s.filtered .hpd i).putOut i { s.out i with hpd := present }).irq .dptx i 0b1

theorem execHpdChange_moves (hi : i < Config.outputs s.variant) {present : Bool} (h : (s.out i).hpd ≠ present) :
    exec (.hpdChange i present) s = .next (if present then (s.hpdMoved i present).retrain i else (s.hpdMoved i present).loseOutLink i) := by
  show execHpdChange i present s = _
  simp only [execHpdChange, hi, decide_true, Bool.not_true, Bool.false_or, beq_eq_false_iff_ne.mpr h, Bool.false_eq_true, if_false]
  rfl

theorem State.hpdMoved_only (s : State) (i : Nat) (present : Bool) :
    Only [.hostMem, .msix, .now, .outs, .pages, .pins] s (s.hpdMoved i present) :=
  (State.irq_only _ _ _ _).step (by decide) ((State.putOut_only _ i _).step (by decide) ((s.filtered_only .hpd i).mono (by decide)))

theorem State.hpdMoved_out (s : State) (i : Nat) (present : Bool) : (s.hpdMoved i present).out i = { s.out i with hpd := present } := by
  unfold State.hpdMoved
  rw [State.irq_out, State.putOut_out]

theorem State.hpdMoved_out_other (s : State) (present : Bool) {i j : Nat} (h : j ≠ i) : (s.hpdMoved i present).out j = s.out j := by
  unfold State.hpdMoved
  rw [State.irq_out, State.putOut_out_other _ _ h, State.out_congr (s.filtered_only .hpd i .outs rfl)]

theorem State.hpdMoved_raw (s : State) (i : Nat) (present : Bool) :
    ((s.hpdMoved i present).page .dptx i).raw = (s.page .dptx i).raw ||| 0b1 := by
  have hpage := State.page_congr (s.filtered_only .hpd i .pages rfl) (s.filtered_only .hpd i .insole rfl) .dptx i
  unfold State.hpdMoved
  rw [State.irq_page, ← hpage]
  rfl

/-- The filter's time and its record of the change are those of the input (R483). -/
theorem State.hpdMoved_filtered (s : State) (i : Nat) (present : Bool) :
    (s.hpdMoved i present).now = (s.filtered .hpd i).now ∧ (s.hpdMoved i present).pins = (s.filtered .hpd i).pins :=
  ⟨State.irq_only _ _ _ _ .now rfl, State.irq_only _ _ _ _ .pins rfl⟩

theorem hpdChange_returns (hi : i < Config.outputs s.variant) (h : (s.out i).hpd = false) :
    ∃ t, exec (.hpdChange i true) s = .next t ∧ t.out i = { (s.out i).retrained with hpd := true } ∧
      (t.page .dptx i).raw = (s.page .dptx i).raw ||| 0b1 ∧ (∀ j, j ≠ i → t.out j = s.out j) ∧ t.now = (s.filtered .hpd i).now ∧
      t.pins = (s.filtered .hpd i).pins ∧ Only [.hostMem, .msix, .now, .outs, .pages, .pins] s t := by
  have hmoved := s.hpdMoved_out i true
  obtain ⟨hnow, hpins⟩ := s.hpdMoved_filtered i true
  have hpresent : ((s.hpdMoved i true).out i).hpd = true := by rw [hmoved]
  have hretrain := State.retrain_present hpresent
  refine ⟨_, execHpdChange_moves hi (by simp [h]), ?_⟩
  rw [if_pos rfl, hretrain]
  refine ⟨?_, s.hpdMoved_raw i true, fun j hj => ?_, hnow, hpins, (State.putOut_only _ i _).step (by decide) (s.hpdMoved_only i true)⟩
  · rw [State.putOut_out, hmoved]
    rfl
  · rw [State.putOut_out_other _ _ hj, State.hpdMoved_out_other s true hj]

theorem hpdChange_leaves (hi : i < Config.outputs s.variant) (h : (s.out i).hpd = true) :
    ∃ t, exec (.hpdChange i false) s = .next t ∧ t.out i = { (s.out i).unlinked with hpd := false } ∧
      t.reg .dptx i 0x074 = min (s.reg .dptx i 0x074 + 1) (2 ^ 32 - 1) ∧ (∀ k, k ≠ Blk.base .dptx i + 0x074 → t.regs.find? k = s.regs.find? k) ∧
      (t.page .dptx i).raw = (s.page .dptx i).raw ||| 0b1 ||| 0b10 ∧ (∀ j, j ≠ i → t.out j = s.out j) ∧ t.now = (s.filtered .hpd i).now ∧
      t.pins = (s.filtered .hpd i).pins ∧ Only [.hostMem, .msix, .now, .outs, .pages, .pins, .regs] s t := by
  obtain ⟨hout, hothers, hreg, hregs, hraw, honly⟩ := (s.hpdMoved i false).loseOutLink_loses i
  obtain ⟨hnow, hpins⟩ := s.hpdMoved_filtered i false
  have hmoved := s.hpdMoved_only i false
  refine ⟨_, execHpdChange_moves hi (by simp [h]), ?_⟩
  rw [if_neg Bool.false_ne_true]
  refine ⟨?_, ?_, fun k hk => ?_, ?_, fun j hj => ?_, (honly .now rfl).trans hnow, (honly .pins rfl).trans hpins,
    honly.step (by decide) (hmoved.mono (by decide))⟩
  · rw [hout, State.hpdMoved_out]
    rfl
  · rw [hreg, State.reg_congr (hmoved .regs rfl) (hmoved .insole rfl) (hmoved .part rfl)]
  · rw [hregs k hk, hmoved .regs rfl]
  · rw [hraw, State.hpdMoved_raw]
  · rw [hothers j hj, State.hpdMoved_out_other s false hj]

theorem execDpLinkFail_loses (hi : i < Config.outputs s.variant) (hh : (s.out i).hpd = true) (ht : (s.out i).trained = true) :
    exec (.dpLinkFail i) s = .next (s.loseOutLink i) := by
  show execDpLinkFail i s = _
  simp only [execDpLinkFail, hi, hh, ht, decide_true, Bool.and_self, if_true]

/-! ### The end of link training (R263, R265, R267) -/

/-- An output whose training has succeeded runs as the configuration in force says. -/
def State.trainedOut (s : State) (i : Nat) : DpOut :=
  { s.out i with
    training := false, trained := true, resumes := true
    rate := bits (s.ocfg i 0x044) 7 5, lanes := bits (s.ocfg i 0x044) 4 3, dsc := (s.ocfg i 0x054).testBit 31
    ssc := (s.ocfg i 0x044).testBit 2, fec := (s.ocfg i 0x054).testBit 31 && decide (bits (s.ocfg i 0x044) 7 5 ≤ 3)
    hdcp := if s.dbg.isOpen then 0 else 1 }

theorem execDpLinkTrainEnd_eq (hi : i < Config.outputs s.variant) (hh : (s.out i).hpd = true) (ht : (s.out i).training = true) (ok : Bool) :
    exec (.dpLinkTrainEnd i ok) s = .next (if ok then (s.putOut i (s.trainedOut i)).irq .dptx i 0b100
      else ((s.putOut i { s.out i with training := false }).err .dptx i 2 0 0).irq .dptx i 0b1000) := by
  show execDpLinkTrainEnd i ok s = _
  refine (if_neg (by simp [hi, hh, ht])).trans ?_
  cases ok <;> rfl

/-- A change of one output that raises an interrupt of its page. -/
theorem State.putOut_irq (s : State) (i : Nat) (o : DpOut) (m : Word) :
    ((s.putOut i o).irq .dptx i m).out i = o ∧ (((s.putOut i o).irq .dptx i m).page .dptx i).raw = (s.page .dptx i).raw ||| m ∧
      (∀ j, j ≠ i → ((s.putOut i o).irq .dptx i m).out j = s.out j) ∧ Only [.hostMem, .msix, .outs, .pages] s ((s.putOut i o).irq .dptx i m) := by
  refine ⟨?_, ?_, fun j hj => ?_, (State.irq_only _ _ _ _).step (by decide) ((s.putOut_only i o).mono (by decide))⟩
  · rw [State.irq_out, State.putOut_out]
  · rw [State.irq_page]
    rfl
  · rw [State.irq_out, State.putOut_out_other _ _ hj]

theorem dpLinkTrainEnd_fails (hi : i < Config.outputs s.variant) (hh : (s.out i).hpd = true) (ht : (s.out i).training = true) :
    ∃ t, exec (.dpLinkTrainEnd i false) s = .next t ∧ t.out i = { s.out i with training := false } ∧ (t.page .dptx i).errCode = 2 ∧
      (t.page .dptx i).errValid = true ∧ (t.page .dptx i).raw = (s.page .dptx i).raw ||| 0b1000 ∧ (∀ j, j ≠ i → t.out j = s.out j) ∧
      Only [.hostMem, .msix, .outs, .pages] s t := by
  refine ⟨_, execDpLinkTrainEnd_eq hi hh ht false, ?_⟩
  rw [if_neg Bool.false_ne_true]
  refine ⟨?_, ?_, ?_, ?_, fun j hj => ?_, ?_⟩
  · rw [State.irq_out]
    exact s.putOut_out i _
  · rw [State.irq_page, State.err_page]
  · rw [State.irq_page, State.err_page]
  · rw [State.irq_page, State.err_page]
    rfl
  · rw [State.irq_out]
    exact s.putOut_out_other _ hj
  · exact (State.irq_only _ _ _ _).step (by decide) ((State.err_only _ _ _ _ _ _).step (by decide) ((s.putOut_only i _).mono (by decide)))

/-! ### RETRAIN, REAUTH and the end of authentication (R267, R276, R463) -/

theorem dptxRetrain_retrains (h : s.hostWrites .dptx i = true) :
    ∃ t, exec (.dptxRetrain i) s = .next t ∧ ((s.out i).hpd = true → t.out i = (s.out i).retrained) ∧
      ((s.out i).hpd = false → t.outs = s.outs) ∧ t.page .dptx i = { s.page .dptx i with src := 2 } ∧ (∀ j, j ≠ i → t.out j = s.out j) ∧
      Only [.outs, .pages] s t := by
  have honly := (s.touch .dptx i).retrain_only i
  refine ⟨_, congrArg Host.Outcome.next (State.host_reaches h fun t => t.retrain i), fun hp => ?_, fun hp => ?_, ?_, fun j hj => ?_, ?_⟩
  · rw [State.retrain_present (s := s.touch .dptx i) hp]
    exact State.putOut_out _ i _
  · rw [State.retrain_absent (s := s.touch .dptx i) hp]
    rfl
  · rw [State.page_congr (honly .pages rfl) (honly .insole rfl), State.touch_page]
  · exact (s.touch .dptx i).retrain_out_other hj
  · exact honly.step (by decide) ((s.touch_only .dptx i).mono (by decide))

/-- An output that starts authentication again. -/
def State.reauthOut (s : State) (i : Nat) : DpOut := { s.out i with hdcp := if s.dbg.isOpen then 0 else 1, encrypting := false }

theorem State.reauth_streaming (h : (s.out i).streaming = true) : s.reauth i = (s.putOut i (s.reauthOut i)).guardOut i := by
  unfold State.reauth
  dsimp only
  rw [State.putOut_out, if_pos h]
  rfl

theorem State.reauth_quiet (h : (s.out i).streaming = false) : s.reauth i = s.putOut i (s.reauthOut i) := by
  unfold State.reauth
  dsimp only
  rw [State.putOut_out, if_neg (by simp [h])]
  rfl

/-- An output that authenticates may show no protected frame, of whichever type. -/
theorem DpOut.authFor_starting {o : DpOut} (isOpen : Bool) (h : o.hdcp = if isOpen then 0 else 1) (type1 : Bool) : o.authFor type1 = false := by
  unfold DpOut.authFor
  rw [h]
  cases isOpen <;> rfl

theorem State.reauth_out (s : State) (i : Nat) : ((s.reauth i).out i).hdcp = (if s.dbg.isOpen then 0 else 1) ∧
    ((s.reauth i).out i).encrypting = false ∧ ((s.out i).streaming = true → ((s.reauth i).out i).blocked = s.frameProt.1) ∧
    ((s.out i).streaming = false → ((s.reauth i).out i).blocked = (s.out i).blocked) ∧ (∀ j, j ≠ i → (s.reauth i).out j = s.out j) := by
  cases h : (s.out i).streaming
  · rw [State.reauth_quiet h, State.putOut_out]
    exact ⟨rfl, rfl, nofun, fun _ => rfl, fun j hj => State.putOut_out_other _ _ hj⟩
  · have hno := DpOut.authFor_starting (o := s.reauthOut i) s.dbg.isOpen rfl
    rw [State.reauth_streaming h, State.guardOut_out]
    unfold State.guarded
    rw [State.putOut_out, State.putOut_frameProt, hno]
    refine ⟨rfl, ?_, fun _ => ?_, nofun, fun j hj => ?_⟩
    · simp only [Bool.and_false, Bool.false_and]
    · simp only [Bool.not_false, Bool.and_true]
    · rw [State.guardOut_out_other _ hj, State.putOut_out_other _ _ hj]

theorem hdcpReauth_reauthenticates (h : s.hostWrites .dptx i = true) :
    ∃ t, exec (.hdcpReauth i) s = .next t ∧ (t.out i).hdcp = (if s.dbg.isOpen then 0 else 1) ∧ (t.out i).encrypting = false ∧
      ((s.out i).streaming = true → (t.out i).blocked = s.frameProt.1) ∧ ((s.out i).streaming = false → (t.out i).blocked = (s.out i).blocked) ∧
      (∀ j, j ≠ i → t.out j = s.out j) ∧ Only [.hostMem, .msix, .outs, .pages] s t := by
  obtain ⟨hhdcp, henc, hstream, hquiet, hothers⟩ := (s.touch .dptx i).reauth_out i
  exact ⟨_, congrArg Host.Outcome.next (State.host_reaches h fun t => t.reauth i), hhdcp, henc, hstream, hquiet, hothers,
    (State.reauth_only _ i).step (by decide) ((s.touch_only .dptx i).mono (by decide))⟩

/-- An output whose authentication has ended, with a type and the receiver IDs, or in a failure, and the interrupt that says so. -/
def State.authEnded (s : State) (i hdcp : Nat) (ids : List Nat) (m : Word) : State :=
  (s.putOut i { s.out i with hdcp := hdcp, ids := ids }).irq .dptx i m

/-- It is judged anew when it streams. -/
def State.judged (s : State) (i : Nat) : State := if (s.out i).streaming then s.guardOut i else s

theorem execHdcpAuthEnd_succeeds (hi : i < Config.outputs s.variant) (ht : (s.out i).trained = true) {result : Nat} (hr : result = 2 ∨ result = 3)
    (hd : s.dbg.isOpen = false) (ids : List Nat) :
    exec (.hdcpAuthEnd i result ids) s = .next ((s.authEnded i result ids 0b100000).judged i) := by
  have hok : (result == 2 || result == 3) = true := by simpa using hr
  show execHdcpAuthEnd i result ids s = _
  refine (if_neg (by simp [hi, ht])).trans ?_
  simp only [hok, hd, Bool.not_false, Bool.and_self, if_true]
  rfl

theorem execHdcpAuthEnd_fails (hi : i < Config.outputs s.variant) (ht : (s.out i).trained = true) {result : Nat}
    (h : (result ≠ 2 ∧ result ≠ 3) ∨ s.dbg.isOpen = true) (ids : List Nat) :
    exec (.hdcpAuthEnd i result ids) s = .next ((s.authEnded i 0 [] 0b1000000).judged i) := by
  have hno : ((result == 2 || result == 3) && !s.dbg.isOpen) = false := by
    rcases h with ⟨h2, h3⟩ | hd
    · simp [h2, h3]
    · simp [hd]
  show execHdcpAuthEnd i result ids s = _
  refine (if_neg (by simp [hi, ht])).trans ?_
  simp only [hno, Bool.false_eq_true, if_false]
  rfl

theorem State.judged_only (s : State) (i : Nat) : Only [.hostMem, .msix, .outs, .pages] s (s.judged i) :=
  Only.ite ((s.guardOut_only i).mono (by decide)) (Only.refl _ s)

theorem State.authEnded_judged (s : State) (i hdcp : Nat) (ids : List Nat) (m : Word) :
    (((s.authEnded i hdcp ids m).judged i).out i).hdcp = hdcp ∧ (((s.authEnded i hdcp ids m).judged i).out i).ids = ids ∧
      ((s.out i).streaming = false → (((s.authEnded i hdcp ids m).judged i).page .dptx i).raw = (s.page .dptx i).raw ||| m) ∧
      (∀ j, j ≠ i → ((s.authEnded i hdcp ids m).judged i).out j = s.out j) ∧
      Only [.hostMem, .msix, .outs, .pages] s ((s.authEnded i hdcp ids m).judged i) := by
  obtain ⟨hout, hraw, hothers, honly⟩ := s.putOut_irq i { s.out i with hdcp := hdcp, ids := ids } m
  have hframe := (State.judged_only (s.authEnded i hdcp ids m) i).step (by decide) honly
  have hsame : ((s.authEnded i hdcp ids m).out i).streaming = (s.out i).streaming := (congrArg DpOut.streaming hout :)
  unfold State.judged at hframe ⊢
  rw [hsame] at hframe ⊢
  cases h : (s.out i).streaming
  · rw [h, if_neg Bool.false_ne_true] at hframe
    rw [if_neg Bool.false_ne_true]
    exact ⟨congrArg DpOut.hdcp hout, congrArg DpOut.ids hout, fun _ => hraw, hothers, hframe⟩
  · rw [h, if_pos rfl] at hframe
    rw [if_pos rfl, State.guardOut_out]
    exact ⟨congrArg DpOut.hdcp hout, congrArg DpOut.ids hout, nofun, fun j hj => (State.guardOut_out_other _ hj).trans (hothers j hj), hframe⟩

theorem hdcpAuthEnd_ends (hi : i < Config.outputs s.variant) (ht : (s.out i).trained = true) (result : Nat) (ids : List Nat) :
    ∃ t, exec (.hdcpAuthEnd i result ids) s = .next t ∧
      ((result = 2 ∨ result = 3) → s.dbg.isOpen = false → (t.out i).hdcp = result ∧ (t.out i).ids = ids ∧
        ((s.out i).streaming = false → (t.page .dptx i).raw = (s.page .dptx i).raw ||| 0b100000)) ∧
      ((result ≠ 2 ∧ result ≠ 3) ∨ s.dbg.isOpen = true → (t.out i).hdcp = 0 ∧ (t.out i).ids = [] ∧
        ((s.out i).streaming = false → (t.page .dptx i).raw = (s.page .dptx i).raw ||| 0b1000000)) ∧
      (∀ j, j ≠ i → t.out j = s.out j) ∧ Only [.hostMem, .msix, .outs, .pages] s t := by
  by_cases hok : (result = 2 ∨ result = 3) ∧ s.dbg.isOpen = false
  · obtain ⟨hhdcp, hids, hraw, hothers, honly⟩ := s.authEnded_judged i result ids 0b100000
    refine ⟨_, execHdcpAuthEnd_succeeds hi ht hok.1 hok.2 ids, fun _ _ => ⟨hhdcp, hids, hraw⟩, fun hno => ?_, hothers, honly⟩
    rcases hno with ⟨h2, h3⟩ | hd
    · exact absurd hok.1 (not_or.mpr ⟨h2, h3⟩)
    · exact absurd hd (by simp [hok.2])
  · have hno : (result ≠ 2 ∧ result ≠ 3) ∨ s.dbg.isOpen = true := by rwa [not_and_or, not_or, Bool.not_eq_false] at hok
    obtain ⟨hhdcp, hids, hraw, hothers, honly⟩ := s.authEnded_judged i 0 [] 0b1000000
    exact ⟨_, execHdcpAuthEnd_fails hi ht hno ids, fun hr hd => absurd ⟨hr, hd⟩ hok, fun _ => ⟨hhdcp, hids, hraw⟩, hothers, honly⟩

end

/-- Settles O44: each command is one change of its output, with the interrupt that it raises. -/
theorem dpLinksTrainAndAuthenticate : Obligations.DpLinksTrainAndAuthenticate := by
  unfold Obligations.DpLinksTrainAndAuthenticate
  rintro s i o hi rfl
  refine ⟨hpdChange_returns hi, hpdChange_leaves hi, fun hh ht => ?_, fun hh ht => ⟨?_, dpLinkTrainEnd_fails hi hh ht⟩, fun h => ?_,
    fun h => ⟨dptxRetrain_retrains h, hdcpReauth_reauthenticates h⟩, fun result ids ht => hdcpAuthEnd_ends hi ht result ids⟩
  · obtain ⟨hout, hothers, hreg, hregs, hraw, honly⟩ := s.loseOutLink_loses i
    exact ⟨_, execDpLinkFail_loses hi hh ht, hout, hreg, hregs, hraw, hothers, honly⟩
  · exact ⟨_, execDpLinkTrainEnd_eq hi hh ht true, s.putOut_irq i (s.trainedOut i) 0b100⟩
  · exact ⟨congrArg Host.Outcome.next (State.host_kept h fun t => t.retrain i), congrArg Host.Outcome.next (State.host_kept h fun t => t.reauth i)⟩

end Sys2Proof.Machine
end

section
set_option Elab.async false
namespace Sys2Proof.Machine

/-! ### A queue whose commands change in other things than their turn (R268) -/

theorem insertTurn_map {f : Cmd → Cmd} (h : ∀ d, (f d).turn = d.turn) (c : Cmd) (l : List Cmd) :
    insertTurn (f c) (l.map f) = (insertTurn c l).map f := by
  induction l with
  | nil => rfl
  | cons d l ih =>
    simp only [List.map_cons, insertTurn, h, ih]
    split <;> rfl

theorem State.inQueue_map {s t : State} {f : Cmd → Cmd} (hc : t.cmds = s.cmds.map f) (h : ∀ d, (f d).place = d.place) (q : Queue) :
    t.inQueue q = (s.inQueue q).map f := by
  unfold State.inQueue
  rw [hc, List.filter_map]
  congr 1
  exact List.filter_congr fun d _ => by rw [Function.comp_apply, h]

theorem State.fifo_map {s t : State} {f : Cmd → Cmd} (hc : t.cmds = s.cmds.map f) (hplace : ∀ d, (f d).place = d.place)
    (hturn : ∀ d, (f d).turn = d.turn) (q : Queue) : t.fifo q = (s.fifo q).map f := by
  have hfold (l acc : List Cmd) :
      (l.map f).foldl (fun l c => insertTurn c l) (acc.map f) = (l.foldl (fun l c => insertTurn c l) acc).map f := by
    induction l generalizing acc with
    | nil => rfl
    | cons c l ih => rw [List.map_cons, List.foldl_cons, List.foldl_cons, insertTurn_map hturn, ih]
  unfold State.fifo
  rw [State.inQueue_map hc hplace]
  exact hfold _ []

/-! ### The head of the display queue (R268) -/

/-- The commands of the display queue but for commits, in order. -/
def State.dispQueue (s : State) : List Cmd := (s.fifo .display).filter fun c => c.opcode != 0x7003

/-- The head of the display queue does not wait. -/
def State.dispReady (s : State) (c : Cmd) : Bool := !(s.fenced c || !s.stepReady c || (s.page .disp 0).faulted)

theorem State.dispHead_empty {s : State} (h : s.dispQueue = []) : s.dispHead = none := by
  unfold State.dispQueue at h
  unfold State.dispHead
  rw [h]

theorem State.dispHead_front {s : State} {c : Cmd} {rest : List Cmd} (h : s.dispQueue = c :: rest) :
    s.dispHead = if s.dispReady c then some c else none := by
  unfold State.dispQueue at h
  unfold State.dispHead State.dispReady
  rw [h]
  dsimp only
  cases s.fenced c || !s.stepReady c || (s.page .disp 0).faulted <;> rfl

theorem State.dispHead_iff {s : State} {c : Cmd} : s.dispHead = some c ↔ (∃ rest, s.dispQueue = c :: rest) ∧ s.dispReady c = true := by
  cases h : s.dispQueue with
  | nil =>
    rw [State.dispHead_empty h]
    simp
  | cons d rest =>
    rw [State.dispHead_front h]
    constructor
    · intro hd
      split at hd
      · next hready =>
        obtain rfl := Option.some.inj hd
        exact ⟨⟨rest, rfl⟩, hready⟩
      · cases hd
    · rintro ⟨⟨rest', hrest⟩, hready⟩
      obtain ⟨rfl, rfl⟩ := List.cons.inj hrest
      rw [if_pos hready]

theorem State.dispHead_inQueue {s : State} {c : Cmd} (h : s.dispHead = some c) : c ∈ s.inQueue .display := by
  obtain ⟨⟨rest, hq⟩, -⟩ := State.dispHead_iff.mp h
  have hmem : c ∈ s.dispQueue := by
    rw [hq]
    exact List.mem_cons_self
  exact State.mem_fifo.mp (List.mem_of_mem_filter hmem)

theorem State.dispHead_unstarted {s : State} {c : Cmd} (h : s.dispHead = some c) : c.unstarted = true :=
  State.inQueue_unstarted (State.dispHead_inQueue h)

/-! ### The queue goes on (R268) -/

/-- What the command at the head waits for has happened. -/
def State.dispDone (s : State) (c : Cmd) : Bool :=
  (c.opcode == 0x7001 && c.progress == 2 && s.metaSent c) || (c.opcode == 0x7002 && c.progress == 2 && s.scanEnded (c.num 16 8 : Nat))

theorem State.pumpDisp_ends {s : State} {c : Cmd} (h : s.dispHead = some c) (hd : s.dispDone c = true) (n : Nat) :
    State.pumpDisp (n + 1) s = State.pumpDisp n (s.endCmd c.uid .ok 0) := by
  rw [State.pumpDisp, h]
  exact if_pos hd

theorem State.pumpDisp_waits {s : State} (h : ∀ c, s.dispHead = some c → s.dispDone c = false) (n : Nat) : State.pumpDisp n s = s := by
  cases n with
  | zero => rfl
  | succ n =>
    rw [State.pumpDisp]
    cases hc : s.dispHead with
    | none => rfl
    | some c => exact if_neg (Bool.eq_false_iff.mp (h c hc))

/-- A command that has ended stays as it is while others of the queue end. -/
theorem State.pumpDisp_cmd? {u : Nat} {d : Cmd} (hu : d.unstarted = false) (n : Nat) {s : State} (hd : s.cmd? u = some d) :
    (State.pumpDisp n s).cmd? u = some d := by
  induction n generalizing s with
  | zero => exact hd
  | succ n ih =>
    by_cases h : ∃ c, s.dispHead = some c ∧ s.dispDone c = true
    · obtain ⟨c, hc, hdone⟩ := h
      rw [State.pumpDisp_ends hc hdone]
      refine ih ?_
      by_cases hcu : u = c.uid
      · subst hcu
        rw [State.endCmd_cmd?, hd, Option.map_some, if_neg (Bool.eq_false_iff.mp hu)]
      · rw [State.endCmd_cmd?_other _ _ _ _ _ hcu, hd]
    · rw [State.pumpDisp_waits fun c hc => Bool.eq_false_iff.mpr fun hdone => h ⟨c, hc, hdone⟩]
      exact hd

theorem State.pumpDisplay_cmd? {s : State} {u : Nat} {d : Cmd} (hu : d.unstarted = false) (hd : s.cmd? u = some d) :
    s.pumpDisplay.cmd? u = some d := State.pumpDisp_cmd? hu _ hd

/-- The head stays until what it waits for has happened, and has ended then. -/
theorem State.pumpDisplay_head {s : State} {c : Cmd} (hh : s.dispHead = some c) (hc : s.cmd? c.uid = some c) :
    s.pumpDisplay.cmd? c.uid = some { c with place := if s.dispDone c then .ended .ok 0 else c.place } := by
  cases hd : s.dispDone c
  · have hstay : s.pumpDisplay = s := State.pumpDisp_waits (fun d h => by rwa [← Option.some.inj (hh.symm.trans h)]) _
    rw [hstay, hc]
    rfl
  · obtain ⟨n, hn⟩ : ∃ n, (s.inQueue .display).length = n + 1 :=
      Nat.exists_eq_succ_of_ne_zero (Nat.ne_of_gt (List.length_pos_of_mem (State.dispHead_inQueue hh)))
    unfold State.pumpDisplay
    rw [hn, State.pumpDisp_ends hh hd]
    exact State.pumpDisp_cmd? rfl n (State.endCmd_ends hc (State.dispHead_unstarted hh) .ok 0)

/-! ### A display command that has begun to wait (R268) -/

/-- The command of a uid waits for what completes it. -/
def Cmd.waiting (uid : Nat) (d : Cmd) : Cmd := { d with progress := if d.uid == uid then 2 else d.progress }

theorem State.starts_disp_page (s : State) (c : Cmd) : (s.starts c).page .disp 0 = s.page .disp 0 := by
  have hran := (s.trace c 2 0 0).ranFor_only (s.unitBlock c).1 (s.unitBlock c).2 c.job
  unfold State.starts
  dsimp only
  rw [State.page_congr (hran .pages rfl) (hran .insole rfl)]
  obtain ⟨t, h, honly, -⟩ := s.trace_cases c 2 0 0
  have hpage := State.page_congr (honly .pages rfl) (honly .insole rfl) .disp 0
  rcases h with h | h <;> rw [h]
  · exact hpage
  · rw [State.irq_page_other _ _ _ _ _ _ (by decide), hpage]

section
variable {s : State} {c : Cmd} (hone : ∀ d ∈ s.cmds, d.uid = c.uid → d = c)
include hone

theorem State.dispWaits_cmds : (s.dispWaits c).cmds = s.cmds.map (Cmd.waiting c.uid) := by
  have hstarts : (s.starts c).cmds = s.cmds := s.starts_only c .cmds rfl
  show (s.starts c).cmds.map (fun d => if d.uid == c.uid then { c with progress := 2 } else d) = _
  rw [hstarts]
  refine List.map_congr_left fun d hd => ?_
  unfold Cmd.waiting
  by_cases hu : d.uid = c.uid
  · rw [hone d hd hu, if_pos (by simp), if_pos (by simp)]
  · rw [if_neg (by simpa using hu), if_neg (by simpa using hu)]

omit hone in
theorem State.dispWaits_cmd? (hc : s.cmd? c.uid = some c) : (s.dispWaits c).cmd? c.uid = some { c with progress := 2 } := by
  have hstarts : (s.starts c).cmd? c.uid = some c := (State.cmd?_congr (s.starts_only c .cmds rfl) c.uid).trans hc
  exact State.putCmd_cmd? (s.starts c) { c with progress := 2 } (by rw [hstarts]; rfl)

theorem State.dispWaits_fenced : (s.dispWaits c).fenced { c with progress := 2 } = s.fenced c := by
  have hsteps : (s.dispWaits c).steps = s.steps := s.dispWaits_only c .steps rfl
  unfold State.fenced
  rw [State.dispWaits_cmds hone, List.any_map]
  congr 1
  funext d
  simp only [Function.comp_apply, State.incomplete, State.step?_congr hsteps]
  rfl

/-- A head that has begun to wait is the head still. -/
theorem State.dispWaits_head (h : s.dispHead = some c) : (s.dispWaits c).dispHead = some { c with progress := 2 } := by
  obtain ⟨⟨rest, hq⟩, hready⟩ := State.dispHead_iff.mp h
  have honly := s.dispWaits_only c
  have hsteps : (s.dispWaits c).steps = s.steps := honly .steps rfl
  refine State.dispHead_iff.mpr ⟨⟨rest.map (Cmd.waiting c.uid), ?_⟩, ?_⟩
  · have hmap : (s.dispWaits c).dispQueue = s.dispQueue.map (Cmd.waiting c.uid) := by
      unfold State.dispQueue
      rw [State.fifo_map (State.dispWaits_cmds hone) (fun _ => rfl) (fun _ => rfl), List.filter_map]
      rfl
    rw [hmap, hq, List.map_cons]
    simp only [Cmd.waiting, BEq.rfl, if_true]
  · have hpage : (s.dispWaits c).page .disp 0 = s.page .disp 0 := s.starts_disp_page c
    have hstep : (s.dispWaits c).stepReady { c with progress := 2 } = s.stepReady c := by
      unfold State.stepReady State.stepOf
      rw [show (s.dispWaits c).step? = s.step? from funext (State.step?_congr hsteps)]
    unfold State.dispReady at hready ⊢
    rw [State.dispWaits_fenced hone, hstep, hpage]
    exact hready

end

/-! ### DISP_META and DISP_FRAME_WAIT at the head (R268) -/

section
variable {s : State} {c : Cmd} (hhead : s.dispHead = some c)
include hhead

/-- An operation of the display queue runs for the head of its opcode that has not begun to wait. -/
theorem State.dispOp_runs {op : Nat} (ho : c.opcode = op) (hp : c.progress ≠ 2) (go : State → Cmd → State) :
    s.dispOp c.uid op go = (go s c).pumpDisplay := by
  unfold State.dispOp
  rw [hhead]
  exact if_neg (by simp [ho, hp])

variable (hc : s.cmd? c.uid = some c)
include hc

/-- A command that ends at the head has ended when the queue has gone on. -/
theorem State.dispEnds (st : Status) (cause : Nat) :
    (s.endCmd c.uid st cause).pumpDisplay.cmd? c.uid = some { c with place := .ended st cause } ∧
      Only [.cmds] s (s.endCmd c.uid st cause).pumpDisplay :=
  ⟨State.pumpDisplay_cmd? rfl (State.endCmd_ends hc (State.dispHead_unstarted hhead) st cause),
    (State.pumpDisplay_only _).step (by decide) (s.endCmd_only c.uid st cause)⟩

theorem State.dispFaults (st : Status) (cause : Nat) (note : FaultNote) :
    (s.faultWith c.uid st cause note).pumpDisplay.cmd? c.uid = some { c with place := .ended st cause, fault := some note } ∧
      Only [.cmds] s (s.faultWith c.uid st cause note).pumpDisplay :=
  ⟨State.pumpDisplay_cmd? rfl (State.faultWith_ends hc (State.dispHead_unstarted hhead) st cause note),
    (State.pumpDisplay_only _).step (by decide) (s.faultWith_only c.uid st cause note)⟩

/-- A command that begins to wait is over at once when what it waits for has happened. -/
theorem State.dispBegins (hone : ∀ d ∈ s.cmds, d.uid = c.uid → d = c) {done : Bool}
    (hdone : ∀ t : State, t.disp = s.disp → t.dispDone { c with progress := 2 } = done) :
    (s.dispWaits c).pumpDisplay.cmd? c.uid = some { c with progress := 2, place := if done then .ended .ok 0 else c.place } ∧
      (s.dispWaits c).pumpDisplay.mem = (s.starts c).mem ∧
      Only [.badWords, .cmds, .ctrs, .hostMem, .mem, .msix, .pages, .regs, .softWords, .traceAt, .traceFill, .traceGap] s (s.dispWaits c).pumpDisplay := by
  have honly := s.dispWaits_only c
  have hpump := (s.dispWaits c).pumpDisplay_only
  have hend := State.pumpDisplay_head (State.dispWaits_head hone hhead) (State.dispWaits_cmd? hc)
  rw [hdone _ (honly .disp rfl)] at hend
  exact ⟨hend, hpump .mem rfl, hpump.step (by decide) honly⟩

end

theorem State.dispDone_meta {s t : State} {c : Cmd} (ho : c.opcode = 0x7001) (h : t.disp = s.disp) :
    t.dispDone { c with progress := 2 } = s.metaSent c := by
  have ho' : ({ c with progress := 2 } : Cmd).opcode = 0x7001 := ho
  simp only [State.dispDone, ho', BEq.rfl, Bool.true_and, State.metaSent, h, show ((0x7001 : Nat) == 0x7002) = false from rfl, Bool.false_and,
    Bool.or_false]
  rfl

theorem State.dispDone_wait {s t : State} {c : Cmd} (ho : c.opcode = 0x7002) (h : t.disp = s.disp) :
    t.dispDone { c with progress := 2 } = s.scanEnded (c.num 16 8 : Nat) := by
  have ho' : ({ c with progress := 2 } : Cmd).opcode = 0x7002 := ho
  simp only [State.dispDone, ho', BEq.rfl, Bool.true_and, State.scanEnded, h, show ((0x7002 : Nat) == 0x7001) = false from rfl, Bool.false_and,
    Bool.false_or]
  rfl

section
variable {s : State} {c : Cmd}

theorem State.metaOp_waits (h : c.progress = 0) : s.metaOp c = s.dispWaits c := if_pos (by simp [h])

theorem State.metaOp_late (h : c.progress = 1) : s.metaOp c = s.endCmd c.uid .late 0 := by
  simp only [State.metaOp, h, Nat.one_ne_zero, beq_iff_eq, if_false, if_true]

theorem State.metaOp_meets_bad (h : c.progress % 16 = 3) : s.metaOp c = s.faultWith c.uid .ecc 0x34 ⟨c.acceptedAt, c.progress / 16, 1⟩ := by
  have h0 : c.progress ≠ 0 := by omega
  have h1 : c.progress ≠ 1 := by omega
  simp only [State.metaOp, h, h0, h1, beq_iff_eq, if_false, if_true]

theorem State.metaOp_fails (h0 : c.progress ≠ 0) (h1 : c.progress ≠ 1) (h3 : c.progress % 16 ≠ 3) :
    s.metaOp c = s.endCmd c.uid .badOperand (c.progress / 16) := by
  simp only [State.metaOp, h0, h1, h3, beq_iff_eq, if_false]

theorem State.frameWaitOp_fails (h : c.num 8 8 ≠ 0 ∨ c.num 24 40 ≠ 0) : s.frameWaitOp c = s.endCmd c.uid .badOperand 0x04 :=
  if_pos (by simpa using h)

theorem State.frameWaitOp_waits (h8 : c.num 8 8 = 0) (h24 : c.num 24 40 = 0) : s.frameWaitOp c = s.dispWaits c :=
  if_neg (by simp [h8, h24])

variable (hhead : s.dispHead = some c) (hp : c.progress ≠ 2)
include hhead hp

theorem execDispMeta_runs (ho : c.opcode = 0x7001) : exec (.dispMeta c.uid) s = .next (s.metaOp c).pumpDisplay :=
  congrArg Host.Outcome.next (State.dispOp_runs hhead ho hp State.metaOp)

theorem execDispFrameWait_runs (ho : c.opcode = 0x7002) : exec (.dispFrameWait c.uid) s = .next (s.frameWaitOp c).pumpDisplay :=
  congrArg Host.Outcome.next (State.dispOp_runs hhead ho hp State.frameWaitOp)

variable (hc : s.cmd? c.uid = some c) (hone : ∀ d ∈ s.cmds, d.uid = c.uid → d = c)
include hc hone

/-- DISP_META at the head of the display queue (R268). -/
theorem dispMeta_runs (ho : c.opcode = 0x7001) :
    (c.progress = 0 → ∃ t, exec (.dispMeta c.uid) s = .next t ∧
      t.cmd? c.uid = some { c with progress := 2, place := if s.metaSent c then .ended .ok 0 else c.place } ∧ t.mem = (s.starts c).mem ∧
      Only [.badWords, .cmds, .ctrs, .hostMem, .mem, .msix, .pages, .regs, .softWords, .traceAt, .traceFill, .traceGap] s t) ∧
    (c.progress = 1 → ∃ t, exec (.dispMeta c.uid) s = .next t ∧ t.cmd? c.uid = some { c with place := .ended .late 0 } ∧ Only [.cmds] s t) ∧
    (c.progress % 16 = 3 → ∃ t, exec (.dispMeta c.uid) s = .next t ∧
      t.cmd? c.uid = some { c with place := .ended .ecc 0x34, fault := some ⟨c.acceptedAt, c.progress / 16, 1⟩ } ∧ Only [.cmds] s t) ∧
    (c.progress ≠ 0 → c.progress ≠ 1 → c.progress % 16 ≠ 3 → ∃ t, exec (.dispMeta c.uid) s = .next t ∧
      t.cmd? c.uid = some { c with place := .ended .badOperand (c.progress / 16) } ∧ Only [.cmds] s t) := by
  rw [execDispMeta_runs hhead hp ho]
  refine ⟨fun h => ⟨_, rfl, ?_⟩, fun h => ⟨_, rfl, ?_⟩, fun h => ⟨_, rfl, ?_⟩, fun h0 h1 h3 => ⟨_, rfl, ?_⟩⟩
  · rw [State.metaOp_waits h]
    exact State.dispBegins hhead hc hone fun t ht => State.dispDone_meta ho ht
  · rw [State.metaOp_late h]
    exact State.dispEnds hhead hc .late 0
  · rw [State.metaOp_meets_bad h]
    exact State.dispFaults hhead hc .ecc 0x34 _
  · rw [State.metaOp_fails h0 h1 h3]
    exact State.dispEnds hhead hc .badOperand _

/-- DISP_FRAME_WAIT at the head of the display queue (R268). -/
theorem dispFrameWait_runs (ho : c.opcode = 0x7002) :
    (c.num 8 8 ≠ 0 ∨ c.num 24 40 ≠ 0 → ∃ t, exec (.dispFrameWait c.uid) s = .next t ∧
      t.cmd? c.uid = some { c with place := .ended .badOperand 0x04 } ∧ Only [.cmds] s t) ∧
    (c.num 8 8 = 0 → c.num 24 40 = 0 → ∃ t, exec (.dispFrameWait c.uid) s = .next t ∧
      t.cmd? c.uid = some { c with progress := 2, place := if s.scanEnded (c.num 16 8 : Nat) then .ended .ok 0 else c.place } ∧
      Only [.badWords, .cmds, .ctrs, .hostMem, .mem, .msix, .pages, .regs, .softWords, .traceAt, .traceFill, .traceGap] s t) := by
  rw [execDispFrameWait_runs hhead hp ho]
  refine ⟨fun h => ⟨_, rfl, ?_⟩, fun h8 h24 => ⟨_, rfl, ?_⟩⟩
  · rw [State.frameWaitOp_fails h]
    exact State.dispEnds hhead hc .badOperand 0x04
  · rw [State.frameWaitOp_waits h8 h24]
    obtain ⟨hend, -, honly⟩ := State.dispBegins hhead hc hone fun t ht => State.dispDone_wait ho ht
    exact ⟨hend, honly⟩

end

end Sys2Proof.Machine
end

section
set_option Elab.async false
namespace Sys2Proof.Machine

/-! ### A DISP_META is accepted (R262, R268, R274, R330) -/

section
variable {s : State} {c : Cmd}

theorem State.cmd?_appended {t : State} (ht : t.cmds = s.cmds ++ [c]) (h : s.cmd? c.uid = none) : t.cmd? c.uid = some c := by
  unfold State.cmd? at h ⊢
  rw [ht, List.find?_append, h, Option.none_or, List.find?_singleton, BEq.rfl]
  rfl

/-- The command as it joins its step: at the step's class, and pending. -/
def Cmd.joined (c : Cmd) (x : Step) : Cmd :=
  { c with
    step := some x.uid, epoch := x.epoch, place := .pending
    cls := if c.unit == some .me then c.cls else x.liftedClass c.tile c.cls }

/-- An accepted command whose row is not late waits to start, within its step or without one (R23). -/
theorem State.joinStep_waits (hnew : s.cmd? c.uid = none) (hp : c.place = .pending)
    (hlate : ∀ x, s.unsealed c.job c.apt = some x → x.lateTile c.tile = false) :
    ∃ d, (s.joinStep c).cmd? c.uid = some d ∧ d.unstarted = true := by
  unfold State.joinStep
  cases hx : s.unsealed c.job c.apt with
  | none =>
    refine ⟨c, State.cmd?_appended rfl hnew, ?_⟩
    unfold Cmd.unstarted
    rw [hp]
  | some x =>
    dsimp only
    rw [hlate x hx, if_neg Bool.false_ne_true]
    have hjoined (y : Step) : (({ s.putStep y with cmds := s.cmds ++ [c.joined x] } : State).startGroup x (c.joined x)).cmd? c.uid = some (c.joined x) :=
      State.cmd?_appended (c := c.joined x) (State.startGroup_only _ _ _ .cmds rfl) hnew
    refine ⟨c.joined x, ?_, rfl⟩
    split
    · exact (State.reviewStep_keepsLive _ x.uid).cmd? (hjoined _) rfl
    · exact hjoined _

/-- What the acceptance of a command of the display engine does before its metadata is taken. -/
theorem State.enter_takesMeta (ho : c.opcode = 0x7001) (hnew : s.cmd? c.uid = none) (hp : c.place = .pending)
    (hlate : ∀ x, s.unsealed c.job c.apt = some x → x.lateTile c.tile = false) :
    ∃ (t : State) (d : Cmd), s.enter c = t.takeMeta c ∧ t.disp = s.disp ∧ t.cmd? c.uid = some d ∧ d.unstarted = true := by
  obtain ⟨d, hd, hu⟩ := State.joinStep_waits hnew hp hlate
  have hwoken : Only [.engines] (s.joinStep c) (if c.onEngine then (s.joinStep c).wake c.compiledEngine else s.joinStep c) :=
    Only.ite ((State.wake_only _ _).mono (by decide)) (Only.refl _ _)
  have hraised := ((State.trace_only _ (((if c.onEngine then (s.joinStep c).wake c.compiledEngine else s.joinStep c).cmd? c.uid).getD c) 0 0 0).step
    (gs := [.badWords, .ctrs, .engines, .hostMem, .mem, .msix, .pages, .regs, .softWords, .traceAt, .traceFill, .traceGap]) (by decide)
    ((State.ranFor_only _ .sched 0 c.job).step (by decide) (hwoken.mono (by decide))))
  refine ⟨_, d, ?_, (hraised .disp rfl).trans (s.joinStep_only c .disp rfl), (State.cmd?_congr (hraised .cmds rfl) c.uid).trans hd, hu⟩
  unfold State.enter
  rw [ho]
  rfl

variable {d : Cmd} (ho : c.opcode = 0x7001) (hd : s.cmd? c.uid = some d) (hu : d.unstarted = true)
include ho hd hu

/-- The set of a block that passes its checks counts (R262, R268). -/
theorem State.takeMeta_counts (hp : c.progress = 0) :
    (s.takeMeta c).disp = { s.disp with metas := s.disp.metas ++ [⟨c.num 16 8, metaRecords c.data⟩] } := by
  simp only [State.takeMeta, ho, hd, hu, hp, bne_self_eq_false, Bool.not_true, Bool.or_self, Bool.false_eq_true, if_false, BEq.rfl, if_true]
  exact State.correctReads_only _ _ _ _ .disp rfl

/-- An uncorrectable word of the block is recorded (R274). -/
theorem State.takeMeta_records (hp : c.progress % 16 = 3) : s.takeMeta c = s.err .disp 0 2 0 (c.progress / 16) := by
  have h0 : (c.progress == 0) = false := beq_eq_false_iff_ne.mpr (by omega)
  simp only [State.takeMeta, ho, hd, hu, h0, hp, bne_self_eq_false, Bool.not_true, Bool.or_self, Bool.false_eq_true, if_false, BEq.rfl, if_true]

end

section
variable {s : State} {apt : Nat}

/-- The next slot of an aperture is consumed, and its packet is taken (R330). -/
def State.packetTaken (s : State) (apt : Nat) (a : Aperture) : State :=
  { (s.putApt apt { a with consumed := a.consumed + 1, heldSince := none, advancedAt := some s.now }) with
    aptSlots := s.aptSlots.erase (1024 * apt + a.consumed.toNat % 1024)
    nextUid := s.nextUid + 1 }.pulse .cfe 0 0x10 1 none

theorem State.packetTaken_only (s : State) (apt : Nat) (a : Aperture) :
    Only [.aptSlots, .apts, .ctrs, .hostMem, .msix, .nextUid, .pages] s (s.packetTaken apt a) :=
  (State.pulse_only _ .cfe 0 0x10 1 none).step (by decide) (Only.set_nextUid_aptSlots.step (by decide) ((State.putApt_only _ _ _).mono (by decide)))

theorem State.consume_enters {a : Aperture} {x : AptSlot} (h : s.refusal apt a.consumed x = none) (e : Entry) :
    s.consume apt a x e = (s.packetTaken apt a).enter (s.newCmd apt a x.data) := by
  unfold State.consume
  dsimp only
  rw [h]
  rfl

theorem execPacketAccept_consumes (hapt : apt < 16) (hcfe : s.cfeRuns = true) (hen : (s.apt apt).en = true) {x : AptSlot}
    (hx : s.aptSlot apt ((s.apt apt).consumed.toNat % 1024) = x) (hland : x.landed = true) {e : Entry}
    (he : s.acceptCredit apt (s.apt apt) x = some e) : exec (.packetAccept apt) s = .next (s.consume apt (s.apt apt) x e).track := by
  subst hx
  show execPacketAccept apt s = _
  unfold execPacketAccept
  dsimp only
  rw [hcfe, hen, hland, he, decide_eq_true hapt]
  rfl

/-- PACKET_ACCEPT of a DISP_META: its set counts, or the uncorrectable word that it met is recorded (R262, R268, R274). -/
theorem packetAccept_takesMeta {a : Aperture} {x : AptSlot} {c : Cmd} {e : Entry} (ha : s.apt apt = a) (hx : s.aptSlot apt (a.consumed.toNat % 1024) = x)
    (hapt : apt < 16) (hcfe : s.cfeRuns = true) (hen : a.en = true) (hland : x.landed = true) (he : s.acceptCredit apt a x = some e)
    (hc : c = s.newCmd apt a x.data) (hr : s.refusal apt a.consumed x = none) (ho : c.opcode = 0x7001) (hnew : s.cmd? c.uid = none)
    (hlate : ∀ y, s.unsealed c.job c.apt = some y → y.lateTile c.tile = false) :
    (c.progress = 0 → ∃ t, exec (.packetAccept apt) s = .next t ∧
      t.disp = { s.disp with metas := s.disp.metas ++ [⟨c.num 16 8, metaRecords c.data⟩] }) ∧
    (c.progress % 16 = 3 → ∃ t, exec (.packetAccept apt) s = .next t ∧ t.disp = s.disp ∧ (t.page .disp 0).errValid = true) := by
  subst ha
  have htaken := s.packetTaken_only apt (s.apt apt)
  have hpending : c.place = .pending := by
    rw [hc]
    rfl
  have hnew' : (s.packetTaken apt (s.apt apt)).cmd? c.uid = none := (State.cmd?_congr (htaken .cmds rfl) c.uid).trans hnew
  have hlate' : ∀ y, (s.packetTaken apt (s.apt apt)).unsealed c.job c.apt = some y → y.lateTile c.tile = false := by
    unfold State.unsealed
    rw [htaken .steps rfl]
    exact hlate
  obtain ⟨t, d, henter, hdisp, hd, hu⟩ := State.enter_takesMeta ho hnew' hpending hlate'
  have hexec : exec (.packetAccept apt) s = .next (t.takeMeta c).track := by
    rw [execPacketAccept_consumes hapt hcfe hen hx hland he, State.consume_enters hr, ← hc, henter]
  have hsame : t.disp = s.disp := hdisp.trans (htaken .disp rfl)
  have htrack := (t.takeMeta c).track_only
  refine ⟨fun hp => ⟨_, hexec, ?_⟩, fun hp => ⟨_, hexec, ?_, ?_⟩⟩
  · rw [htrack .disp rfl, State.takeMeta_counts ho hd hu hp, hsame]
  · rw [htrack .disp rfl, State.takeMeta_records ho hd hu hp]
    exact hsame
  · rw [State.page_congr (htrack .pages rfl) (htrack .insole rfl), State.takeMeta_records ho hd hu hp, State.err_page]

end

end Sys2Proof.Machine
end

section
set_option Elab.async false
namespace Sys2Proof.Machine

/-! ### DISP_COMMIT (R268, R269) -/

section
variable {s : State} {c : Cmd}

/-- A queued commit that nothing holds back. -/
structure State.Commits (s : State) (c : Cmd) : Prop where
  found : s.cmd? c.uid = some c
  opcode : c.opcode = 0x7003
  place : c.place = .queued .display
  fence : s.fenced c = false
  step : s.stepReady c = true
  group : s.groupTurn c = true
  wait : s.waitMet c = true
  page : (s.page .disp 0).faulted = false

theorem State.Commits.unstarted (h : s.Commits c) : c.unstarted = true := by
  unfold Cmd.unstarted
  rw [h.place]

/-- Nothing holds the commit back. -/
theorem State.Commits.ready (h : s.Commits c) : ¬ (!(c.opcode == 0x7003 && c.place == .queued .display) || s.fenced c || !s.stepReady c ||
    !s.groupTurn c || !s.waitMet c || (s.page .disp 0).faulted) = true := by
  simp only [h.opcode, h.place, h.fence, h.step, h.group, h.wait, h.page, BEq.rfl, Bool.and_self, Bool.not_true, Bool.or_self, Bool.false_eq_true,
    not_false_eq_true]

theorem State.Commits.poisoned (h : s.Commits c) (hp : s.waitPoisoned c = true) :
    exec (.dispCommit c.uid) s = .next (s.endCmd c.uid .ecc 0) := by
  show execDispCommit c.uid s = _
  unfold execDispCommit
  rw [h.found]
  exact (if_neg h.ready).trans (if_pos hp)

theorem State.Commits.fails (h : s.Commits c) (hp : s.waitPoisoned c = false) {x : Status × Nat}
    (hx : lowestCause (s.commitFails c (s.engineOf c)) = some x) : exec (.dispCommit c.uid) s = .next (s.endCmd c.uid x.1 x.2) := by
  show execDispCommit c.uid s = _
  unfold execDispCommit
  rw [h.found]
  refine (if_neg h.ready).trans ((if_neg (Bool.eq_false_iff.mp hp)).trans ?_)
  rw [hx]

theorem State.Commits.runs (h : s.Commits c) (hp : s.waitPoisoned c = false) (hx : s.commitFails c (s.engineOf c) = []) {f a : Nat}
    (hf : s.frameOf c = some f) (ha : s.addr c (s.engineOf c) (c.num 24 4 % 2 ^ 28) 262144 = some a) :
    exec (.dispCommit c.uid) s = .next (s.commit c f a) := by
  show execDispCommit c.uid s = _
  unfold execDispCommit
  rw [h.found]
  refine (if_neg h.ready).trans ((if_neg (Bool.eq_false_iff.mp hp)).trans ?_)
  rw [hx, hf, ha]
  rfl

/-- The first uncorrectable word that the commit of a tile meets. -/
def State.commitBad (s : State) (c : Cmd) (a : Nat) : Option Nat := (s.commitReads c.tile a).findSome? fun r => s.firstBad r.1 r.2

/-- What a commit leaves as it is when it has read its tile. -/
theorem State.commitRead_only (s : State) (c : Cmd) (rs : List (Nat × Nat)) :
    Only [.badWords, .ctrs, .hostMem, .log, .mem, .msix, .pages, .regs, .softWords, .traceAt, .traceFill, .traceGap] s
      ((s.starts c).correctReads .disp 0 rs) :=
  (State.correctReads_only _ _ _ _).step (by decide) ((s.starts_only c).mono (by decide))

/-- Untraced and with no single-bit error anywhere, a commit reads its tile without a change of memory. -/
theorem State.commitRead_mem (htrace : (s.reg .perf 0x40 0x080).testBit 31 = false) (hsoft : s.softWords = []) (rs : List (Nat × Nat)) :
    ((s.starts c).correctReads .disp 0 rs).mem = s.mem := by
  have hstarts : Only [.ctrs] s (s.starts c) := State.starts_untraced htrace
  rw [State.correctReads_of_no_soft ((hstarts .softWords rfl).trans hsoft), hstarts .mem rfl]

variable {f a : Nat}

theorem State.commit_noRoute (hr : s.hubRoute (s.engineOf c / 2) = 0) : s.commit c f a = (s.starts c).endCmd c.uid .link 0x21 := by
  unfold State.commit
  dsimp only
  rw [hr]
  rfl

theorem State.commit_held (hr : s.hubRoute (s.engineOf c / 2) = 1) : s.commit c f a = s := by
  unfold State.commit
  dsimp only
  rw [hr]
  rfl

/-- A route that is up is neither lost nor held. -/
theorem routeUp_ne {n : Nat} (h : 2 ≤ n) : ¬ (n == 0) = true ∧ ¬ (n == 1) = true := by
  simp only [beq_iff_eq]
  omega

variable (hr : 2 ≤ s.hubRoute (s.engineOf c / 2))
include hr

theorem State.commit_meets_bad {w : Nat} (hb : s.commitBad c a = some w) : s.commit c f a = (s.starts c).faultCmd c.uid .ecc 0x30 w := by
  obtain ⟨h0, h1⟩ := routeUp_ne hr
  unfold State.commitBad at hb
  unfold State.commit
  dsimp only
  rw [if_neg h0, if_neg h1, hb]

variable (hb : s.commitBad c a = none)
include hb

theorem State.commit_direct (hd : s.directPath f = true) {r : State} (hread : r = (s.starts c).correctReads .disp 0 (s.commitReads c.tile a)) :
    s.commit c f a = ((r.writeTile f c.tile (s.tileRows c.tile a)).markCommitted c.step c.tile).endCmd c.uid .ok 0 := by
  obtain ⟨h0, h1⟩ := routeUp_ne hr
  unfold State.commitBad at hb
  unfold State.commit
  dsimp only
  rw [if_neg h0, if_neg h1, hb, ← hread]
  dsimp only
  rw [if_pos hd]

theorem State.commit_waits (hd : s.directPath f = false) (hk : s.freeStoreSlot = none) : s.commit c f a = s := by
  obtain ⟨h0, h1⟩ := routeUp_ne hr
  unfold State.commitBad at hb
  unfold State.commit
  dsimp only
  rw [if_neg h0, if_neg h1, hb, hk]
  dsimp only
  rw [if_neg (Bool.eq_false_iff.mp hd)]

theorem State.commit_stores (hd : s.directPath f = false) {k : Nat} (hk : s.freeStoreSlot = some k) :
    ∃ u, s.commit c f a = { u with disp := { s.disp with store := s.disp.store ++ [(⟨k, f, c.tile⟩ : StoredTile)] } }.endCmd c.uid .ok 0 ∧
      Only [.badWords, .ctrs, .hostMem, .log, .mem, .msix, .pages, .regs, .softWords, .traceAt, .traceFill, .traceGap] s u := by
  obtain ⟨h0, h1⟩ := routeUp_ne hr
  unfold State.commitBad at hb
  unfold State.commit
  dsimp only
  rw [if_neg h0, if_neg h1, hb, hk]
  dsimp only
  rw [if_neg (Bool.eq_false_iff.mp hd)]
  have hput := (State.putAll_only ((s.starts c).correctReads .disp 0 (s.commitReads c.tile a))
    (((List.range (s.tileRows c.tile a).length).zip (s.tileRows c.tile a)).map fun r => (s.slotAt k + 1024 * r.1, r.2))).step (by decide)
    (s.commitRead_only c (s.commitReads c.tile a))
  refine ⟨_, ?_, hput⟩
  rw [hput .disp rfl]

end

/-- A state that differs from another in its canvas buffers' bytes, in bytes and errors alone, puts a tile's rows at the same places. -/
theorem State.canvasAt_congr {s t : State} (h : s.SameCanvas t) (f k y : Nat) : t.canvasAt f k y = s.canvasAt f k y := by
  simp only [State.canvasAt, State.canvasBase, State.buffers, State.bufStride, State.canvasPitch, State.columns, State.canvasW, h.dcfg]

theorem State.writeTile_mem_congr {s t : State} (h : s.SameCanvas t) (hm : t.mem = s.mem) (f k : Nat) (rows : List (List Byte)) :
    (t.writeTile f k rows).mem = (s.writeTile f k rows).mem := by
  unfold State.writeTile
  simp only [State.canvasAt_congr h]
  exact State.putAll_mem_congr hm _

/-- The group whose tile is committed is marked (R53). -/
theorem State.markCommitted_group? {s : State} {u k : Nat} {g : Group} (h : s.group? u k = some g) :
    (s.markCommitted (some u) k).group? u k = some { g with committed := true } := by
  obtain ⟨rfl, rfl⟩ := State.group?_key h
  unfold State.markCommitted
  rw [Option.bind_some, h]
  exact State.putGroup_group? s { g with committed := true }

/-- A commit ends: its group's tile is in the canvas buffer, and nothing but its group and its command has changed. -/
theorem State.markedEnd {w : State} {c : Cmd} (hfound : w.cmd? c.uid = some c) (hu : c.unstarted = true) {t : State}
    (ht : t = (w.markCommitted c.step c.tile).endCmd c.uid .ok 0 := by rfl) :
    t.cmd? c.uid = some { c with place := .ended .ok 0 } ∧ t.mem = w.mem ∧
    (∀ u g, c.step = some u → w.group? u c.tile = some g → t.group? u c.tile = some { g with committed := true }) ∧
    (∀ v, v ≠ c.uid → t.cmd? v = w.cmd? v) ∧ Only [.cmds, .groups] w t := by
  have hmark := w.markCommitted_only c.step c.tile
  have hend := (w.markCommitted c.step c.tile).endCmd_only c.uid .ok 0
  rw [← ht] at hend
  refine ⟨?_, (hend .mem rfl).trans (hmark .mem rfl), fun u g hstep hg => ?_, fun v hv => ?_, hend.step (by decide) (hmark.mono (by decide))⟩
  · rw [ht]
    exact State.endCmd_ends ((State.cmd?_congr (hmark .cmds rfl) c.uid).trans hfound) hu .ok 0
  · rw [State.group?_congr (hend .groups rfl), hstep]
    exact State.markCommitted_group? hg
  · rw [ht, State.endCmd_cmd?_other _ _ _ _ _ hv, State.cmd?_congr (hmark .cmds rfl)]

section
variable {s : State} {c : Cmd} (h : s.Commits c) (hp : s.waitPoisoned c = false) (hx : s.commitFails c (s.engineOf c) = []) {f a : Nat}
  (hf : s.frameOf c = some f) (ha : s.addr c (s.engineOf c) (c.num 24 4 % 2 ^ 28) 262144 = some a)
include h hp hx hf ha

theorem dispCommit_noRoute (hr : s.hubRoute (s.engineOf c / 2) = 0) : ∃ t, exec (.dispCommit c.uid) s = .next t ∧
    t.cmd? c.uid = some { c with place := .ended .link 0x21 } ∧ t.disp = s.disp := by
  have hfound : (s.starts c).cmd? c.uid = some c := (State.cmd?_congr (s.starts_only c .cmds rfl) c.uid).trans h.found
  refine ⟨_, h.runs hp hx hf ha, ?_⟩
  rw [State.commit_noRoute hr]
  exact ⟨State.endCmd_ends hfound h.unstarted _ _, s.starts_only c .disp rfl⟩

theorem dispCommit_held (hr : s.hubRoute (s.engineOf c / 2) = 1) : exec (.dispCommit c.uid) s = .next s := by
  rw [h.runs hp hx hf ha, State.commit_held hr]

variable (hr : 2 ≤ s.hubRoute (s.engineOf c / 2))
include hr

theorem dispCommit_meets_bad {w : Nat} (hb : s.commitBad c a = some w) : ∃ t, exec (.dispCommit c.uid) s = .next t ∧
    t.cmd? c.uid = some { c with place := .ended .ecc 0x30, fault := some ⟨s.now, w, 1⟩ } ∧ t.disp = s.disp := by
  have hstarts := s.starts_only c
  have hfound : (s.starts c).cmd? c.uid = some c := (State.cmd?_congr (hstarts .cmds rfl) c.uid).trans h.found
  have hnow : (s.starts c).now = s.now := hstarts .now rfl
  refine ⟨_, h.runs hp hx hf ha, ?_⟩
  rw [State.commit_meets_bad hr hb]
  refine ⟨?_, hstarts .disp rfl⟩
  rw [State.faultCmd_ends hfound h.unstarted, hnow]

variable (hb : s.commitBad c a = none)
include hb

theorem dispCommit_waits (hd : s.directPath f = false) (hk : s.freeStoreSlot = none) : exec (.dispCommit c.uid) s = .next s := by
  rw [h.runs hp hx hf ha, State.commit_waits hr hb hd hk]

theorem dispCommit_stores (hd : s.directPath f = false) {k : Nat} (hk : s.freeStoreSlot = some k) : ∃ t, exec (.dispCommit c.uid) s = .next t ∧
    t.cmd? c.uid = some { c with place := .ended .ok 0 } ∧ t.disp = { s.disp with store := s.disp.store ++ [⟨k, f, c.tile⟩] } ∧
    (∀ v, v ≠ c.uid → t.cmd? v = s.cmd? v) ∧
    Only [.badWords, .cmds, .ctrs, .disp, .hostMem, .log, .mem, .msix, .pages, .regs, .softWords, .traceAt, .traceFill, .traceGap] s t := by
  obtain ⟨u, hcommit, honly⟩ := State.commit_stores hr hb hd hk
  have hcmds (v : Nat) : u.cmd? v = s.cmd? v := State.cmd?_congr (honly .cmds rfl) v
  refine ⟨_, h.runs hp hx hf ha, ?_⟩
  rw [hcommit]
  refine ⟨State.endCmd_ends ((hcmds c.uid).trans h.found) h.unstarted .ok 0, rfl, fun v hv => ?_, ?_⟩
  · exact (State.endCmd_cmd?_other _ c.uid v .ok 0 hv).trans (hcmds v)
  · exact (State.endCmd_only _ _ _ _).step (by decide) (Only.set_disp.step (by decide) (honly.mono (by decide)))

theorem dispCommit_writes (hd : s.directPath f = true) {r : State} (hread : r = (s.starts c).correctReads .disp 0 (s.commitReads c.tile a)) :
    ∃ t, exec (.dispCommit c.uid) s = .next t ∧
    t.cmd? c.uid = some { c with place := .ended .ok 0 } ∧ t.mem = (r.writeTile f c.tile (s.tileRows c.tile a)).mem ∧
    ((s.reg .perf 0x40 0x080).testBit 31 = false → s.softWords = [] → t.mem = (s.writeTile f c.tile (s.tileRows c.tile a)).mem) ∧
    (∀ u g, c.step = some u → s.group? u c.tile = some g → t.group? u c.tile = some { g with committed := true }) ∧
    t.disp = s.disp ∧ (∀ v, v ≠ c.uid → t.cmd? v = s.cmd? v) ∧
    Only [.badWords, .cmds, .ctrs, .groups, .hostMem, .log, .mem, .msix, .pages, .regs, .softWords, .traceAt, .traceFill, .traceGap] s t := by
  have hronly := s.commitRead_only c (s.commitReads c.tile a)
  rw [← hread] at hronly
  have hwrite := (r.writeTile_only f c.tile (s.tileRows c.tile a)).step
    (gs := [.badWords, .ctrs, .hostMem, .log, .mem, .msix, .pages, .regs, .softWords, .traceAt, .traceFill, .traceGap]) (by decide) hronly
  have hcanvas : s.SameCanvas r := .of_only hronly (by decide)
  refine ⟨_, h.runs hp hx hf ha, ?_⟩
  rw [State.commit_direct hr hb hd hread]
  have hquiet (htrace : (s.reg .perf 0x40 0x080).testBit 31 = false) (hsoft : s.softWords = []) : r.mem = s.mem := by
    rw [hread, State.commitRead_mem htrace hsoft]
  have hmem (htrace : (s.reg .perf 0x40 0x080).testBit 31 = false) (hsoft : s.softWords = []) :=
    State.writeTile_mem_congr hcanvas (hquiet htrace hsoft) f c.tile (s.tileRows c.tile a)
  generalize r.writeTile f c.tile (s.tileRows c.tile a) = w at hwrite hmem ⊢
  obtain ⟨hend, hkept, hgroup, hothers, honly⟩ := State.markedEnd ((State.cmd?_congr (hwrite .cmds rfl) c.uid).trans h.found) h.unstarted
  refine ⟨hend, hkept, fun htrace hsoft => hkept.trans (hmem htrace hsoft), fun u g hu hg => ?_, (honly .disp rfl).trans (hwrite .disp rfl),
    fun v hv => (hothers v hv).trans (State.cmd?_congr (hwrite .cmds rfl) v), honly.step (by decide) (hwrite.mono (by decide))⟩
  exact hgroup u g hu ((State.group?_congr (hwrite .groups rfl) u c.tile).trans hg)

end

/-- DISP_COMMIT (R268, R269). -/
theorem dispCommit_runs {s : State} {c : Cmd} (h : s.Commits c) :
    (s.waitPoisoned c = true → ∃ t, exec (.dispCommit c.uid) s = .next t ∧ t.cmd? c.uid = some { c with place := .ended .ecc 0 } ∧ Only [.cmds] s t) ∧
    (∀ x, s.waitPoisoned c = false → lowestCause (s.commitFails c (s.engineOf c)) = some x →
      ∃ t, exec (.dispCommit c.uid) s = .next t ∧ t.cmd? c.uid = some { c with place := .ended x.1 x.2 } ∧ Only [.cmds] s t) :=
  ⟨fun hp => ⟨_, h.poisoned hp, State.endCmd_ends h.found h.unstarted _ _, s.endCmd_only _ _ _⟩,
    fun _ hp hx => ⟨_, h.fails hp hx, State.endCmd_ends h.found h.unstarted _ _, s.endCmd_only _ _ _⟩⟩

/-! ### TILE_STORE_COPY (R67, R269, R274, R283) -/

section
variable {s : State} {slot : Nat} {x : StoredTile} (hx : (s.disp.store.find? fun y => y.slot == slot) = some x)

/-- A stored tile has been copied, and its slot is free. -/
def State.storeCopied (s : State) (slot : Nat) (x : StoredTile) : State :=
  { s.copyTile slot x.frame x.tile with disp := { s.disp with store := s.disp.store.filter fun y => y.slot != slot } }

theorem State.storeCopied_only : Only [.disp] (s.copyTile slot x.frame x.tile) (s.storeCopied slot x) := Only.set_disp

include hx in
theorem execTileStoreCopy_waits (h : s.directPath x.frame = false ∨ s.disp.hold = true) : exec (.tileStoreCopy slot) s = .next s := by
  show execTileStoreCopy slot s = _
  unfold execTileStoreCopy
  rw [hx]
  refine if_pos ?_
  rcases h with h | h <;> simp [h]

include hx in
theorem execTileStoreCopy_copies (hd : s.directPath x.frame = true) (hh : s.disp.hold = false) :
    exec (.tileStoreCopy slot) s = .next ((s.storeCopied slot x).settleStored x.frame x.tile) := by
  have hdisp : (s.copyTile slot x.frame x.tile).disp = s.disp := s.copyTile_only slot x.frame x.tile .disp rfl
  show execTileStoreCopy slot s = _
  unfold execTileStoreCopy
  rw [hx]
  refine (if_neg (by simp [hd, hh])).trans ?_
  unfold State.storeCopied
  dsimp only
  rw [hdisp]

/-- A frame without a bound step has no group to settle. -/
theorem State.settleStored_unbound (h : s.boundStep x.frame = none) : (s.storeCopied slot x).settleStored x.frame x.tile = s.storeCopied slot x := by
  have hbound : (s.storeCopied slot x).boundStep x.frame = none := h
  unfold State.settleStored
  rw [hbound, Option.bind_none]

/-- The copy has corrected what it read, and has made the uncorrectable words of its copy. -/
def State.copiedWords (s : State) (slot f t : Nat) : State :=
  let u := (s.writeTile f t (s.tileRows t (s.slotAt slot))).correctReads .disp 0 ((s.copyRows slot f t).map (·.1))
  { u with badWords := (s.copyRows slot f t).foldl (fun ws r => copyWords ws r.1.1 r.2 r.1.2) u.badWords }

theorem State.copyTile_eq (s : State) (slot f t : Nat) : s.copyTile slot f t =
    match (s.copyRows slot f t).findSome? fun r => s.firstBad r.1.1 r.1.2 with
    | some w => (s.copiedWords slot f t).err .disp 0 2 0 w
    | none => s.copiedWords slot f t := rfl

theorem State.copyTile_mem (h : s.softWords = []) (slot f t : Nat) :
    (s.copyTile slot f t).mem = (s.writeTile f t (s.tileRows t (s.slotAt slot))).mem := by
  have hsoft : (s.writeTile f t (s.tileRows t (s.slotAt slot))).softWords = [] := State.putAll_no_soft h _
  have hwords : (s.copiedWords slot f t).mem = (s.writeTile f t (s.tileRows t (s.slotAt slot))).mem := by
    unfold State.copiedWords
    dsimp only
    rw [State.correctReads_of_no_soft hsoft]
  rw [State.copyTile_eq]
  split <;> exact hwords

/-- An uncorrectable word that the copy meets is recorded (R274). -/
theorem State.copyTile_records {f t w : Nat} (h : ((s.copyRows slot f t).findSome? fun r => s.firstBad r.1.1 r.1.2) = some w) :
    ((s.copyTile slot f t).page .disp 0).errValid = true := by
  rw [State.copyTile_eq, h]
  dsimp only
  rw [State.err_page]

include hx in
/-- TILE_STORE_COPY of a stored tile (R269). -/
theorem tileStoreCopy_runs :
    (s.directPath x.frame = false ∨ s.disp.hold = true → exec (.tileStoreCopy slot) s = .next s) ∧
    (s.directPath x.frame = true → s.disp.hold = false → ∀ u : State, u = s.storeCopied slot x →
      exec (.tileStoreCopy slot) s = .next (u.settleStored x.frame x.tile) ∧
      (s.boundStep x.frame = none → exec (.tileStoreCopy slot) s = .next u) ∧
      (s.softWords = [] → u.mem = (s.writeTile x.frame x.tile (s.tileRows x.tile (s.slotAt slot))).mem) ∧
      (∀ w, ((s.copyRows slot x.frame x.tile).findSome? fun r => s.firstBad r.1.1 r.1.2) = some w → (u.page .disp 0).errValid = true)) := by
  refine ⟨execTileStoreCopy_waits hx, ?_⟩
  rintro hd hh u rfl
  have hexec := execTileStoreCopy_copies hx hd hh
  refine ⟨hexec, fun hb => hexec.trans (by rw [State.settleStored_unbound hb]), fun hsoft => ?_,
    fun w hw => ?_⟩
  · rw [State.storeCopied_only .mem rfl]
    exact State.copyTile_mem hsoft slot x.frame x.tile
  · rw [State.page_congr (State.storeCopied_only .pages rfl) (State.storeCopied_only .insole rfl)]
    exact State.copyTile_records hw

end

end Sys2Proof.Machine
end

section
set_option Elab.async false
namespace Sys2Proof.Machine

/-! ### The shadow set (R276, R292) -/

theorem State.err_page_other (s : State) {b c : Blk} {i j : Nat} (code info addr : Nat) (h : c.base j ≠ b.base i) :
    (s.err b i code info addr).page c j = s.page c j := State.page_putPage_other s b c i j _ h

theorem Blk.dptx_base_ne_disp (i : Nat) : Blk.dptx.base i ≠ Blk.disp.base 0 := by
  simp only [Blk.base]
  omega

section
variable {s : State}

theorem execCfgCommit_reaches (h : s.hostWrites .disp 0 = true) : exec .cfgCommit s = .next s.cfgCommit := if_pos h

theorem execCfgCommit_kept (h : s.hostWrites .disp 0 = false) : exec .cfgCommit s = .next s := if_neg (by simp [h])

theorem State.cfgCommit_pending (h : s.disp.committed ≠ none) : s.cfgCommit = s := if_pos (Option.isSome_iff_ne_none.mpr h)

theorem State.cfgCommit_passes (h : s.disp.committed = none) (hr : s.cfgReason s.shadowSet = none) :
    s.cfgCommit = { s with disp := { s.disp with committed := some s.shadowSet } } := by
  refine (if_neg (by simp [h])).trans ?_
  dsimp only
  rw [hr]

/-- What a failed check of the shadow set raises. -/
def State.cfgFailed (s : State) (r : Nat) : State := (s.err .disp 0 1 r 0).irq .disp 0 0b10000000

theorem State.cfgCommit_fails {r : Nat} (h : s.disp.committed = none) (hr : s.cfgReason s.shadowSet = some r) :
    s.cfgCommit = if r % 256 == 5 then (s.cfgFailed r).err .dptx (r / 256) 1 0 0 else s.cfgFailed r := by
  refine (if_neg (by simp [h])).trans ?_
  dsimp only
  rw [hr]
  rfl

theorem State.cfgFailed_page (s : State) (r : Nat) : ((s.cfgFailed r).page .disp 0).errCode = 1 ∧
    ((s.cfgFailed r).page .disp 0).errInfo = BitVec.ofNat 32 r ∧
    ((s.cfgFailed r).page .disp 0).raw = (s.page .disp 0).raw ||| 0b10000000 := by
  unfold State.cfgFailed
  rw [State.irq_page, State.err_page]
  exact ⟨rfl, rfl, rfl⟩

theorem State.cfgFailed_only (s : State) (r : Nat) : Only [.hostMem, .msix, .pages] s (s.cfgFailed r) :=
  (State.irq_only _ _ _ _).step (by decide) ((s.err_only _ _ _ _ _).mono (by decide))

theorem cfgCommit_fails {r : Nat} (hw : s.hostWrites .disp 0 = true) (h : s.disp.committed = none) (hr : s.cfgReason s.shadowSet = some r) :
    ∃ t, exec .cfgCommit s = .next t ∧ (t.page .disp 0).errCode = 1 ∧ (t.page .disp 0).errInfo = BitVec.ofNat 32 r ∧
      (t.page .disp 0).raw = (s.page .disp 0).raw ||| 0b10000000 ∧ t.disp = s.disp ∧
      (r % 256 = 5 → (t.page .dptx (r / 256)).errValid = true ∧ (t.page .dptx (r / 256)).errCode = 1) ∧ Only [.hostMem, .msix, .pages] s t := by
  obtain ⟨hcode, hinfo, hraw⟩ := s.cfgFailed_page r
  have honly := s.cfgFailed_only r
  refine ⟨_, (execCfgCommit_reaches hw).trans (congrArg _ (State.cfgCommit_fails h hr)), ?_⟩
  by_cases h5 : r % 256 = 5
  · rw [if_pos (beq_iff_eq.mpr h5), State.err_page_other _ _ _ _ (Blk.dptx_base_ne_disp _).symm, State.err_page]
    exact ⟨hcode, hinfo, hraw, honly .disp rfl, fun _ => ⟨rfl, rfl⟩, (State.err_only _ _ _ _ _ _).step (by decide) honly⟩
  · rw [if_neg (mt beq_iff_eq.mp h5)]
    exact ⟨hcode, hinfo, hraw, honly .disp rfl, fun h => absurd h h5, honly⟩

end

/-! ### A committed set takes effect (R262, R283) -/

/-- A run of operations that leave the display's own state leaves it. -/
theorem State.foldl_disp {α : Type} {g : State → α → State} (hg : ∀ y a, Only [.badWords, .groups, .mem, .outs, .softWords, .steps] y (g y a))
    (l : List α) (s : State) : (l.foldl g s).disp = s.disp :=
  Only.foldl (gs := [.badWords, .groups, .mem, .outs, .softWords, .steps]) (fun y a hy => (hg y a).step (by decide) hy) (.refl _ s) .disp rfl

theorem State.tidySteps_disp (s : State) :
    s.tidySteps.disp = { s.disp with bound := s.disp.bound.filter fun b => s.disp.scanned ≤ b.1 } := by
  unfold State.tidySteps
  dsimp only
  rw [State.foldl_disp fun y a => (y.dropStep_only a).mono (by decide)]

theorem State.freeTables_disp (s : State) : s.freeTables.disp = { s.disp with bound := [], noPrev := some s.disp.begun } := by
  unfold State.freeTables
  dsimp only
  rw [State.tidySteps_disp]
  dsimp only
  rw [State.foldl_disp fun y a => (State.devPut_only _ _ _).step (by decide) ((State.devClear_only y _ _).mono (by decide))]
  rfl

/-- The display once its set has taken effect, before its tables are freed. -/
def State.settling (s : State) (m : SMap Word) (start : Nat × Nat) : State :=
  { s.sealCairn with disp := { s.disp with active := s.settled m, committed := none, entries := [], cal := [], anchor := start } }

theorem State.takeEffect_eq (s : State) (m : SMap Word) :
    ∃ (start : Nat × Nat) (l : List Nat),
      s.takeEffect m = l.foldl State.retrain ((s.settling m start).freeTables.irq .disp 0 0b1000000) := by
  unfold State.takeEffect
  exact ⟨_, _, rfl⟩

theorem State.settling_pages (s : State) (m : SMap Word) (start : Nat × Nat) : (s.settling m start).page .disp 0 = s.page .disp 0 := rfl

/-- The operations of a retrain touch no page. -/
theorem State.foldl_retrain_only (l : List Nat) (s : State) : Only [.outs] s (l.foldl State.retrain s) :=
  Only.foldl (fun y a hy => (y.retrain_only a).step (by decide) hy) (.refl _ s)

theorem State.takeEffect_settles (s : State) (m : SMap Word) :
    (s.takeEffect m).disp.active = s.settled m ∧ (s.takeEffect m).disp.committed = none ∧ (s.takeEffect m).disp.entries = [] ∧
      (s.takeEffect m).disp.bound = [] ∧ ((s.takeEffect m).page .disp 0).raw = (s.page .disp 0).raw ||| 0b1000000 := by
  obtain ⟨start, l, heq⟩ := s.takeEffect_eq m
  have hl := State.foldl_retrain_only l ((s.settling m start).freeTables.irq .disp 0 0b1000000)
  have hfree := (s.settling m start).freeTables_only
  rw [heq, hl .disp rfl, State.page_congr (hl .pages rfl) (hl .insole rfl), State.irq_disp, State.freeTables_disp, State.irq_page,
    State.page_congr (hfree .pages rfl) (hfree .insole rfl), State.settling_pages]
  exact ⟨rfl, rfl, rfl, rfl, rfl⟩

theorem execCfgTakeEffect_takes {s : State} {m : SMap Word} (hm : s.disp.committed = some m)
    (h : s.disp.running = false ∨ (s.disp.scanned = s.disp.begun ∧ s.nextFrame = s.disp.begun)) :
    exec .cfgTakeEffect s = .next (s.takeEffect m) := by
  show execCfgTakeEffect s = _
  unfold execCfgTakeEffect
  rw [hm]
  dsimp only
  refine if_pos ?_
  rcases h with h | ⟨hs, hn⟩
  · rw [h]
    rfl
  · rw [hs, hn, beq_self_eq_true, Bool.and_self, Bool.or_true]

/-! ### The timing stops (R262) -/

/-- An output whose stream has stopped. -/
def DpOut.silenced (o : DpOut) : DpOut := { o with streaming := false, blocked := false, encrypting := false }

/-- The display as its timing leaves it. -/
def Disp.timingStopped (d : Disp) : Disp :=
  { d with running := false, stopping := false, entries := [], scanBegun := false, held := false, store := [], bound := [] }

/-- The stop of the timing: the recording is sealed, no frame is left, and the commands of the queue end. -/
def State.timingStopped (s : State) : State :=
  let t : State := { s.sealCairn with disp := s.disp.timingStopped }
  t.tidySteps.endAll (fun c => c.place == .queued .display) .unitDisabled 0

/-- The outputs fall silent, and the engine is disabled. -/
def State.silenced (s : State) : State :=
  let v := { s with outs := s.outs.map fun (p : Nat × DpOut) => (p.1, p.2.silenced) }
  (v.putPage .disp 0 { v.page .disp 0 with disabling := false }).track

theorem State.timingStopped_only (s : State) : Only [.cairn, .cmds, .disp, .groups, .steps] s s.timingStopped :=
  (State.endAll_only _ _ _ _).step (by decide) ((State.tidySteps_only _).step (by decide)
    (Only.set_disp.step (by decide) (s.sealCairn_only.mono (by decide))))

theorem State.timingStopped_disp (s : State) : s.timingStopped.disp = s.disp.timingStopped := by
  unfold State.timingStopped
  rw [State.endAll_only _ _ _ _ .disp rfl, State.tidySteps_disp]
  rfl

theorem State.endAll_place {s : State} {p : Place} (h : ∀ c : Cmd, c.place = p → c.unstarted = true) (st : Status) (cause : Nat)
    (hp : p ≠ Place.ended st cause) : ∀ c ∈ (s.endAll (fun c => c.place == p) st cause).cmds, c.place ≠ p := by
  intro c hc
  obtain ⟨d, -, rfl⟩ := List.mem_map.mp hc
  by_cases hd : d.place = p
  · rw [if_pos (by simp [h d hd, hd])]
    exact hp.symm
  · rwa [if_neg (by simp [hd])]

theorem Cmd.unstarted_of_queued {c : Cmd} {q : Queue} (h : c.place = .queued q) : c.unstarted = true := by
  unfold Cmd.unstarted
  rw [h]

theorem State.timingStopped_unqueued (s : State) : ∀ c ∈ s.timingStopped.cmds, c.place ≠ .queued .display :=
  State.endAll_place (p := .queued .display) (fun _ => Cmd.unstarted_of_queued) _ _ (by simp)

theorem State.silenced_only (s : State) : Only [.engines, .outs, .pages] s s.silenced :=
  (State.track_only _).step (by decide) ((State.putPage_only _ _ _ _).step (by decide) (Only.set_outs.mono (by decide)))

theorem State.silenced_streaming (s : State) (i : Nat) : (s.silenced.out i).streaming = false := by
  have hfind : SMap.find? s.silenced.outs i = (s.outs.find? i).map DpOut.silenced :=
    (congrArg (SMap.find? · i) (State.track_only _ .outs rfl)).trans (SMap.find?_map_snd s.outs (fun _ => DpOut.silenced) i)
  unfold State.out SMap.get
  rw [hfind]
  cases s.outs.find? i <;> rfl

theorem State.silenced_disabling (s : State) : (s.silenced.page .disp 0).disabling = false := by
  unfold State.silenced
  dsimp only
  rw [State.page_congr (State.track_only _ .pages rfl) (State.track_only _ .insole rfl), State.page_putPage]

theorem execDispTimingStop_stops {s : State} (hr : s.disp.running = true) (hs : s.disp.stopping = true) (hb : s.disp.scanned = s.disp.begun) :
    exec .dispTimingStop s = .next s.timingStopped.silenced := by
  show execDispTimingStop s = _
  unfold execDispTimingStop
  rw [if_neg (by simp [hr, hs, hb])]
  rfl

theorem dispTimingStop_stops {s : State} (hr : s.disp.running = true) (hs : s.disp.stopping = true) (hb : s.disp.scanned = s.disp.begun) :
    ∃ t, exec .dispTimingStop s = .next t ∧ t.disp.running = false ∧ t.disp.entries = [] ∧ t.disp.bound = [] ∧ t.disp.store = [] ∧
      (∀ c ∈ t.cmds, c.place ≠ .queued .display) ∧ (∀ i, (t.out i).streaming = false) ∧ (t.page .disp 0).disabling = false ∧ t.mem = s.mem ∧
      Only [.cairn, .cmds, .disp, .engines, .groups, .outs, .pages, .steps] s t := by
  have hstop := s.timingStopped_only
  have hsil := s.timingStopped.silenced_only
  have hdisp : s.timingStopped.silenced.disp = s.disp.timingStopped := (hsil .disp rfl).trans s.timingStopped_disp
  refine ⟨_, execDispTimingStop_stops hr hs hb, ?_⟩
  rw [hdisp, hsil .cmds rfl, hsil .mem rfl, hstop .mem rfl]
  refine ⟨rfl, rfl, rfl, rfl, s.timingStopped_unqueued, State.silenced_streaming _,
    State.silenced_disabling _, rfl, hsil.step (by decide) (hstop.mono (by decide))⟩

/-! ### O43 -/

/-- Settles O43: the head of the display queue, the commits by their route and canvas table, and the configuration, each by its own case. -/
theorem displayCommandsAndConfiguration : Obligations.DisplayCommandsAndConfiguration := by
  unfold Obligations.DisplayCommandsAndConfiguration
  refine fun s => ⟨?_, ?_, ?_, fun slot x hx => tileStoreCopy_runs hx, fun hw => ⟨fun hc => ?_, fun hc hr => ?_, fun r hc hr => cfgCommit_fails hw hc hr⟩,
    execCfgCommit_kept, fun m hm h => ?_, dispTimingStop_stops⟩
  · intro apt c e hapt hcfe hen hland he hc hr ho hnew hlate
    exact packetAccept_takesMeta rfl rfl hapt hcfe hen hland he hc hr ho hnew hlate
  · intro c hhead hc hone hp
    exact ⟨dispMeta_runs hhead hp hc hone, dispFrameWait_runs hhead hp hc hone⟩
  · intro c hc ho hq hf hst hg hwt hpg
    have h : s.Commits c := ⟨hc, ho, hq, hf, hst, hg, hwt, hpg⟩
    obtain ⟨hpoisoned, hfails⟩ := dispCommit_runs h
    exact ⟨hpoisoned, hfails, fun f a hp hx hf ha => ⟨dispCommit_noRoute h hp hx hf ha, dispCommit_held h hp hx hf ha,
      fun w hr hb => dispCommit_meets_bad h hp hx hf ha hr hb, fun hr hb =>
        ⟨fun hd => dispCommit_writes h hp hx hf ha hr hb hd rfl, fun k hd hk => dispCommit_stores h hp hx hf ha hr hb hd hk,
          dispCommit_waits h hp hx hf ha hr hb⟩⟩⟩
  · rw [execCfgCommit_reaches hw, State.cfgCommit_pending hc]
  · exact ⟨_, (execCfgCommit_reaches hw).trans (congrArg _ (State.cfgCommit_passes hc hr)), rfl, Only.set_disp⟩
  · obtain ⟨hactive, hcommitted, hentries, hbound, hraw⟩ := s.takeEffect_settles m
    exact ⟨_, execCfgTakeEffect_takes hm h, hactive, hcommitted, hentries, hbound, hraw, (s.takeEffect_only m).mono (by decide)⟩

end Sys2Proof.Machine
end

section
set_option Elab.async false
namespace Sys2Proof.Machine

/-! ### The calendar (R251) -/

section
variable {s : State}

/-- The display once its next frame is planned. -/
def State.planned (s : State) : State :=
  { s with disp := { s.disp with
    entries := s.disp.entries ++ [s.nextEntry.1]
    cal := if s.nextEntry.1.published then s.disp.cal.set (s.nextEntry.1.frame % 4) s.nextEntry.1 else s.disp.cal
    genlock := { s.disp.genlock with residual := s.nextEntry.2 } } }

theorem State.planFrame_eq (s : State) : s.planFrame = if s.nextEntry.1.published then s.planned.writeCal s.nextEntry.1 else s.planned := rfl

theorem State.nextEntry_published (s : State) : s.nextEntry.1.published = !s.disp.hold := rfl

theorem State.nextEntry_frame (s : State) : s.nextEntry.1.frame = s.nextFrame := by
  unfold State.nextEntry State.nextFrame
  dsimp only

theorem State.planned_canvas (s : State) : s.SameCanvas s.planned := ⟨rfl, rfl, rfl, rfl⟩

theorem State.planFrame_entries (s : State) : s.planFrame.disp.entries = s.disp.entries ++ [s.nextEntry.1] := by
  rw [State.planFrame_eq]
  split
  · rw [State.writeCal_only _ _ .disp rfl]
    rfl
  · rfl

theorem State.planFrame_mem_held (h : s.disp.hold = true) : s.planFrame.mem = s.mem := by
  rw [State.planFrame_eq, State.nextEntry_published, h, if_neg (by decide)]
  rfl

/-- The bytes of a calendar entry. -/
def CalEntry.bytes (e : CalEntry) : List Byte :=
  leBytes 8 e.frame ++ leBytes 8 e.deadline ++ leBytes 8 e.scanStart ++ leBytes 4 e.rowPitch ++ leBytes 4 e.vTotal

theorem State.writeCal_eq (s : State) (e : CalEntry) :
    s.writeCal e = s.devPut (s.stateBase + s.buffers * 16384 + e.frame % 4 * 32) e.bytes := rfl

theorem State.devPut_mem (s : State) (a : Nat) (bs : List Byte) : (s.devPut a bs).mem = s.mem.writeRun 0 a bs := rfl

theorem State.planFrame_mem (h : s.disp.hold = false) :
    s.planFrame.mem = s.mem.writeRun 0 (s.stateBase + s.buffers * 16384 + s.nextEntry.1.frame % 4 * 32) s.nextEntry.1.bytes := by
  have hbase : s.planned.stateBase = s.stateBase := by simp only [State.stateBase, s.planned_canvas.dcfg]
  have hbuffers : s.planned.buffers = s.buffers := by simp only [State.buffers, s.planned_canvas.dcfg]
  rw [State.planFrame_eq, State.nextEntry_published, h, if_pos (by decide), State.writeCal_eq, State.devPut_mem, hbase, hbuffers]
  rfl

theorem calendarPublish_plans (hr : s.disp.running = true) (hs : s.disp.stopping = false) (hc : s.disp.committed = none)
    (hn : s.nextFrame < s.disp.begun + 4) :
    ∃ (t : State) (e : CalEntry), exec .calendarPublish s = .next t ∧ t.disp.entries = s.disp.entries ++ [e] ∧ e.frame = s.nextFrame ∧
      (s.disp.hold = true → t.mem = s.mem) ∧
      (s.disp.hold = false → t.mem = s.mem.writeRun 0 (s.stateBase + s.buffers * 16384 + e.frame % 4 * 32) e.bytes) ∧
      Only [.badWords, .disp, .mem, .softWords] s t :=
  ⟨_, _, if_pos (by simp [hr, hs, hc, hn]), s.planFrame_entries, s.nextEntry_frame, State.planFrame_mem_held, State.planFrame_mem,
    s.planFrame_only.mono (by decide)⟩

end

/-! ### The scan start (R256, R268) -/

theorem State.at_canvas (s : State) (due : Nat) : s.SameCanvas (s.at due) := .of_only (s.at_only due) (by decide)

theorem State.at_metaFor (s : State) (due f : Nat) : (s.at due).metaFor f = s.metaFor f := by
  unfold State.metaFor
  rw [(s.at_canvas due).dcfg, State.at_disp]

section
variable {s t : State}

theorem State.outputs_congr (h : Only [.now, .disp] s t) : t.outputs = s.outputs := by
  unfold State.outputs State.variant
  rw [h .part rfl]
  exact List.filter_congr fun i _ => by rw [State.page_congr (h .pages rfl) (h .insole rfl)]

/-- At a scan start an output with a trained link and a sink streams, and any other does not. -/
theorem State.startOut_out (s : State) (i : Nat) : ((s.startOut i).out i).streaming = ((s.out i).trained && (s.out i).hpd) ∧
    ((s.startOut i).out i).trained = (s.out i).trained ∧ ((s.startOut i).out i).hpd = (s.out i).hpd := by
  unfold State.startOut
  dsimp only
  rw [State.guardOut_out]
  unfold State.guarded
  rw [State.putOut_out]
  exact ⟨rfl, rfl, rfl⟩

theorem State.startOut_out_other (s : State) {i j : Nat} (h : j ≠ i) : (s.startOut i).out j = s.out j := by
  unfold State.startOut
  dsimp only
  rw [State.guardOut_out_other _ h, State.putOut_out_other _ _ h]

/-- The scan start neither trains a link nor changes HPD. -/
theorem State.startOut_link (s : State) (i j : Nat) :
    ((s.startOut i).out j).trained = (s.out j).trained ∧ ((s.startOut i).out j).hpd = (s.out j).hpd := by
  by_cases h : j = i
  · subst h
    exact (s.startOut_out j).2
  · rw [State.startOut_out_other s h]
    exact ⟨rfl, rfl⟩

theorem State.startOuts_other (l : List Nat) (s : State) {i : Nat} (h : i ∉ l) : (l.foldl State.startOut s).out i = s.out i := by
  induction l generalizing s with
  | nil => rfl
  | cons k l ih =>
    rw [List.mem_cons, not_or] at h
    rw [List.foldl_cons, ih _ h.2, State.startOut_out_other s h.1]

theorem State.startOuts_streaming (l : List Nat) (s : State) {i : Nat} (h : i ∈ l) :
    ((l.foldl State.startOut s).out i).streaming = ((s.out i).trained && (s.out i).hpd) := by
  induction l generalizing s with
  | nil => cases h
  | cons k l ih =>
    rw [List.foldl_cons]
    by_cases hl : i ∈ l
    · obtain ⟨htrained, hhpd⟩ := s.startOut_link k i
      rw [ih _ hl, htrained, hhpd]
    · obtain rfl : i = k := (List.mem_cons.mp h).resolve_right hl
      rw [State.startOuts_other l _ hl]
      exact (s.startOut_out i).1

theorem State.startOuts_only (l : List Nat) (s : State) : Only [.hostMem, .msix, .outs, .pages] s (l.foldl State.startOut s) :=
  Only.foldl (fun y a hy => (y.startOut_only a).step (by decide) hy) (.refl _ s)

/-- The scan-out of a frame has begun, before its outputs start. -/
def State.scanStarted (s : State) (f : Nat) (e : CalEntry) : State :=
  let t := s.at e.scanStart
  { t with disp := { t.disp with scanBegun := true, sent := t.metaFor f, frameOut := some e.scanStart } }

theorem State.scanStarted_only (s : State) (f : Nat) (e : CalEntry) : Only [.now, .disp] s (s.scanStarted f e) :=
  Only.set_disp.step (by decide) ((s.at_only _).mono (by decide))

theorem State.scanStarted_disp (s : State) (f : Nat) (e : CalEntry) :
    (s.scanStarted f e).disp = { s.disp with scanBegun := true, sent := s.metaFor f, frameOut := some e.scanStart } := by
  unfold State.scanStarted
  dsimp only
  rw [State.at_metaFor, State.at_disp]

theorem State.scanStarted_now (s : State) (f : Nat) (e : CalEntry) : (s.scanStarted f e).now = laterTime s.now (e.scanStart % 2 ^ 64) := by
  have hnow := s.at_now e.scanStart
  obtain ⟨n, hn⟩ := s.at_exists e.scanStart
  rw [hn] at hnow
  unfold State.scanStarted
  rw [hn]
  exact hnow

variable {f : Nat} {e : CalEntry}

theorem execFrameScanStart_starts (hf : s.curFrame = some f) (he : s.plan f = some e) (hr : s.disp.running = true) (hb : s.disp.scanBegun = false) :
    exec .frameScanStart s = .next (s.outputs.foldl State.startOut (s.scanStarted f e)).pumpDisplay := by
  rw [← State.outputs_congr (s.scanStarted_only f e)]
  show execFrameScanStart s = _
  unfold execFrameScanStart
  rw [hf]
  dsimp only
  rw [he]
  dsimp only
  rw [if_neg (by simp [hr, hb])]
  rfl

theorem frameScanStart_starts (hf : s.curFrame = some f) (he : s.plan f = some e) (hr : s.disp.running = true) (hb : s.disp.scanBegun = false) :
    ∃ t, exec .frameScanStart s = .next t ∧
      t.disp = { s.disp with scanBegun := true, sent := s.metaFor f, frameOut := some e.scanStart } ∧
      t.now = laterTime s.now (e.scanStart % 2 ^ 64) ∧
      (∀ i ∈ s.outputs, (t.out i).streaming = ((s.out i).trained && (s.out i).hpd)) ∧ (∀ i, i ∉ s.outputs → t.out i = s.out i) ∧
      Only [.cmds, .disp, .hostMem, .msix, .now, .outs, .pages] s t := by
  have hstart := s.scanStarted_only f e
  have houts := State.startOuts_only s.outputs (s.scanStarted f e)
  have hpump := (s.outputs.foldl State.startOut (s.scanStarted f e)).pumpDisplay_only
  have hout (i : Nat) : (s.scanStarted f e).out i = s.out i := State.out_congr (hstart .outs rfl) i
  refine ⟨_, execFrameScanStart_starts hf he hr hb, ?_, ?_, fun i hi => ?_, fun i hi => ?_,
    hpump.step (by decide) (houts.step (by decide) (hstart.mono (by decide)))⟩
  · rw [hpump .disp rfl, houts .disp rfl, State.scanStarted_disp]
  · rw [hpump .now rfl, houts .now rfl, State.scanStarted_now]
  · rw [State.out_congr (hpump .outs rfl), State.startOuts_streaming _ _ hi, hout]
  · rw [State.out_congr (hpump .outs rfl), State.startOuts_other _ _ hi, hout]

end

/-! ### Genlock (R252 to R254) -/

section
variable {s : State}

/-- The edge's own part of FRAME_SYNC_EDGE: the genlock state. -/
def State.syncEdge (s : State) (k : CalEntry) : Genlock :=
  let r : Int := timeFrom (ticksSince s.now (s.filterTicks .sync)) k.scanStart * (s.lineDen : Int) - (bits (s.dcfg 0x080) 13 0 * s.lineNum : Nat) +
    s.adjFrom k.frame * (s.lineNum : Int)
  let good := if r.natAbs ≤ s.lineNum then s.disp.genlock.good + 1 else 0
  ⟨syncNext s.disp.genlock.sync r.natAbs s.lineNum good, r, roundInt (r < 0) (16 * r.natAbs) s.lineNum 0, good, s.now⟩

/-- A state with another genlock state. -/
def State.withGenlock (s : State) (g : Genlock) : State := { s with disp := { s.disp with genlock := g } }

/-- LOCKED is reached or left (R254). -/
def State.syncRaised (s : State) (old : Nat) : State :=
  if s.disp.genlock.sync == 2 && old != 2 then s.irq .disp 0 0b1000
  else if s.disp.genlock.sync != 2 && old == 2 then s.irq .disp 0 0b10000 else s

theorem execFrameSyncEdge_moves {k : CalEntry} (hr : s.disp.running = true) (hg : s.genlocked = true)
    (hk : s.nearest (ticksSince s.now (s.filterTicks .sync) + bits (s.dcfg 0x080) 13 0 * s.lineNum / s.lineDen) = some k) :
    exec .frameSyncEdge s = .next ((s.withGenlock (s.syncEdge k)).syncRaised s.disp.genlock.sync) := by
  show execFrameSyncEdge s = _
  unfold execFrameSyncEdge
  rw [if_neg (by simp [hr, hg])]
  dsimp only
  rw [hk]
  rfl

theorem State.syncRaised_disp (s : State) (old : Nat) : (s.syncRaised old).disp = s.disp := by
  unfold State.syncRaised
  cases s.disp.genlock.sync == 2 && old != 2
  · cases s.disp.genlock.sync != 2 && old == 2
    · rfl
    · exact State.irq_disp _ _ _ _
  · exact State.irq_disp _ _ _ _

theorem frameSyncEdge_moves {k : CalEntry} {r : Int} {good : Nat} (hr : s.disp.running = true) (hg : s.genlocked = true)
    (hk : s.nearest (ticksSince s.now (s.filterTicks .sync) + bits (s.dcfg 0x080) 13 0 * s.lineNum / s.lineDen) = some k)
    (hres : r = timeFrom (ticksSince s.now (s.filterTicks .sync)) k.scanStart * (s.lineDen : Int) -
      (bits (s.dcfg 0x080) 13 0 * s.lineNum : Nat) + s.adjFrom k.frame * (s.lineNum : Int))
    (hgood : good = (if r.natAbs ≤ s.lineNum then s.disp.genlock.good + 1 else 0)) :
    ∃ t, exec .frameSyncEdge s = .next t ∧ t.disp.genlock.sync = syncNext s.disp.genlock.sync r.natAbs s.lineNum good ∧
      t.disp.genlock.residual = r ∧ t.disp.genlock.lastEdge = s.now ∧ t.disp.genlock.good = good ∧ Only [.disp, .hostMem, .msix, .pages] s t := by
  have hexec := execFrameSyncEdge_moves hr hg hk
  have honly := execFrameSyncEdge_only s
  rw [show execFrameSyncEdge s = _ from hexec] at honly
  subst hres hgood
  refine ⟨_, hexec, ?_⟩
  rw [State.syncRaised_disp]
  exact ⟨rfl, rfl, rfl, rfl, Only.mono honly (by decide)⟩

/-- Without edges: HOLDOVER from the moment at which two periods have passed. -/
def State.heldOver (s : State) : State :=
  { s.at (s.disp.genlock.lastEdge + 2 * s.syncDiv * s.vTotal * s.lineNum / s.lineDen) with
    disp := { s.disp with genlock := { s.disp.genlock with sync := 3, good := 0 } } }

theorem State.heldOver_only (s : State) : Only [.now, .disp] s s.heldOver :=
  Only.set_disp.step (by decide) ((s.at_only _).mono (by decide))

theorem State.heldOver_now (s : State) :
    s.heldOver.now = laterTime s.now ((s.disp.genlock.lastEdge + 2 * s.syncDiv * s.vTotal * s.lineNum / s.lineDen) % 2 ^ 64) := by
  have hnow := s.at_now (s.disp.genlock.lastEdge + 2 * s.syncDiv * s.vTotal * s.lineNum / s.lineDen)
  obtain ⟨n, hn⟩ := s.at_exists (s.disp.genlock.lastEdge + 2 * s.syncDiv * s.vTotal * s.lineNum / s.lineDen)
  rw [hn] at hnow
  unfold State.heldOver
  rw [hn]
  exact hnow

theorem State.heldOver_disp (s : State) : s.heldOver.disp = { s.disp with genlock := { s.disp.genlock with sync := 3, good := 0 } } := rfl

theorem execGenlockHoldover_holds (hr : s.disp.running = true) (hg : s.genlocked = true) (h3 : s.disp.genlock.sync ≠ 3) :
    exec .genlockHoldover s = .next (if s.disp.genlock.sync == 2 then s.heldOver.irq .disp 0 0b10000 else s.heldOver) := by
  show execGenlockHoldover s = _
  unfold execGenlockHoldover
  dsimp only
  rw [if_neg (by simp [hr, hg, h3])]
  rfl

theorem genlockHoldover_holds (hr : s.disp.running = true) (hg : s.genlocked = true) (h3 : s.disp.genlock.sync ≠ 3) :
    ∃ t, exec .genlockHoldover s = .next t ∧
      t.disp = { s.disp with genlock := { s.disp.genlock with sync := 3, good := 0 } } ∧
      t.now = laterTime s.now ((s.disp.genlock.lastEdge + 2 * s.syncDiv * s.vTotal * s.lineNum / s.lineDen) % 2 ^ 64) ∧
      (s.disp.genlock.sync = 2 → (t.page .disp 0).raw = (s.page .disp 0).raw ||| 0b10000) ∧
      (s.disp.genlock.sync ≠ 2 → t.pages = s.pages) ∧ Only [.disp, .hostMem, .msix, .now, .pages] s t := by
  have hheld := s.heldOver_only
  refine ⟨_, execGenlockHoldover_holds hr hg h3, ?_⟩
  by_cases h2 : s.disp.genlock.sync = 2
  · rw [if_pos (beq_iff_eq.mpr h2), State.irq_disp, State.irq_now, State.heldOver_disp, State.heldOver_now, State.irq_page, State.page_congr (hheld .pages rfl) (hheld .insole rfl)]
    exact ⟨rfl, rfl, fun _ => rfl, fun h => absurd h2 h, (State.irq_only _ _ _ _).step (by decide) (hheld.mono (by decide))⟩
  · rw [if_neg (mt beq_iff_eq.mp h2), State.heldOver_disp, State.heldOver_now]
    exact ⟨rfl, rfl, fun h => absurd h h2, fun _ => hheld .pages rfl, hheld.mono (by decide)⟩

end

end Sys2Proof.Machine
end

section
set_option Elab.async false
namespace Sys2Proof.Machine

/-! ### Writes to tile tables (R66) -/

/-- A state differs from another by writes to the addresses from `lo` to below `hi`. -/
structure State.WroteIn (lo hi : Nat) (v w : State) : Prop where
  only : Only [.badWords, .mem, .softWords] v w
  ok : w.mem.wf 0 = true
  read : ∀ a, a < lo ∨ hi ≤ a → w.mem.read 0 a = v.mem.read 0 a

namespace State.WroteIn

variable {lo hi lo' hi' : Nat} {u v w : State}

theorem refl (h : v.mem.wf 0 = true) : State.WroteIn lo hi v v := ⟨.refl _ v, h, fun _ _ => rfl⟩

theorem trans (h : State.WroteIn lo hi u v) (k : State.WroteIn lo hi v w) : State.WroteIn lo hi u w :=
  ⟨k.only.step (by decide) h.only, k.ok, fun a ha => (k.read a ha).trans (h.read a ha)⟩

theorem mono (h : State.WroteIn lo hi v w) (hlo : lo' ≤ lo) (hhi : hi ≤ hi') : State.WroteIn lo' hi' v w :=
  ⟨h.only, h.ok, fun a ha => h.read a (by omega)⟩

theorem canvas (h : State.WroteIn lo hi v w) : v.SameCanvas w := .of_only h.only (by decide)

theorem devPut (h : v.mem.wf 0 = true) (a : Nat) (bs : List Byte) : State.WroteIn a (a + bs.length) v (v.devPut a bs) := by
  refine ⟨(v.devPut_only a bs).mono (by decide), Memory.writeRun_wf a bs h, fun x hx => ?_⟩
  rw [State.devPut_mem, Memory.read_writeRun a bs x h, if_neg (by omega)]

theorem foldl {α : Type} {g : State → α → State} {l : List α} (hg : ∀ (y : State), ∀ a ∈ l, State.WroteIn lo hi u y → State.WroteIn lo hi y (g y a))
    (hu : State.WroteIn lo hi u v) : State.WroteIn lo hi u (l.foldl g v) := by
  induction l generalizing v with
  | nil => exact hu
  | cons a l ih =>
    exact ih (fun y b hb => hg y b (List.mem_cons_of_mem a hb)) (hu.trans (hg v a List.mem_cons_self hu))

end State.WroteIn

section
variable {s : State} (h : s.mem.wf 0 = true)
include h

theorem State.putHead_wrote (f off n v : Nat) : State.WroteIn (s.table f + off) (s.table f + off + n) s (s.putHead f off n v) :=
  (State.WroteIn.devPut h (s.table f + off) (leBytes n v)).mono (Nat.le_refl _) (by rw [leBytes_length])

theorem State.putEntry_wrote (f k v : Nat) : State.WroteIn (s.table f + 64 + 8 * k) (s.table f + 72 + 8 * k) s (s.putEntry f k v) :=
  (State.WroteIn.devPut h (s.table f + 64 + 8 * k) (leBytes 8 v)).mono (Nat.le_refl _) (by rw [leBytes_length]; omega)

theorem State.putHead_readRun (f off n v : Nat) : (s.putHead f off n v).mem.readRun 0 (s.table f + off) n = leBytes n v := by
  have hrun := Memory.readRun_writeRun_same (s.table f + off) (leBytes n v) h
  rwa [leBytes_length] at hrun

/-- A run of writes to the entries of tiles below a bound. -/
theorem State.putEntries_wrote {α : Type} (f : Nat) {n : Nat} (k : α → Nat) (v : State → α → Nat) {l : List α} (hk : ∀ a ∈ l, k a < n) :
    State.WroteIn (s.table f + 64) (s.table f + 64 + 8 * n) s (l.foldl (fun u a => u.putEntry f (k a) (v u a)) s) := by
  refine State.WroteIn.foldl (fun y a ha hy => ?_) (.refl h)
  have hlt := hk a ha
  have hput := State.putEntry_wrote hy.ok f (k a) (v y a)
  rw [hy.canvas.table] at hput
  exact hput.mono (by omega) (by omega)

end

/-- What a write of another range leaves of a run. -/
theorem State.WroteIn.readRun {lo hi a n : Nat} {v w : State} (h : State.WroteIn lo hi v w) (hv : v.mem.wf 0 = true) (ha : a + n ≤ lo ∨ hi ≤ a) :
    w.mem.readRun 0 a n = v.mem.readRun 0 a n := by
  rw [Memory.readRun_eq_map a n h.ok, Memory.readRun_eq_map a n hv]
  refine List.map_congr_left fun i hi => h.read _ ?_
  have := List.mem_range.mp hi
  omega

/-! ### A frame is bound (R67) -/

section
variable {s : State}

/-- The entries of a bound frame are opened. -/
def State.entriesOpened (s : State) (f : Nat) : State :=
  (List.range s.tileCount).foldl (fun (u : State) k => u.putEntry f k (openEntry f (u.entry f k))) s

/-- The header of a bound frame but for its number and its flags. -/
def State.headed (s : State) (f late scan id deadline : Nat) : State :=
  ((((s.putHead f 8 8 deadline).putHead f 28 2 0).putHead f 30 2 late).putHead f 48 8 scan).putHead f 56 4 id

theorem State.bindFrame_eq (s : State) (f step : Nat) (e : CalEntry) : ∃ late id v : Nat,
    s.bindFrame f step e =
      ((((((s.entriesOpened f).putHead f 0 8 f).headed f late e.scanStart id e.deadline).putHead f 27 1 (v ||| 0x10)).enterLate f step).applyMarks f) := by
  unfold State.bindFrame
  exact ⟨_, _, _, rfl⟩

theorem State.entriesOpened_wrote (h : s.mem.wf 0 = true) (f : Nat) :
    State.WroteIn (s.table f + 64) (s.table f + 64 + 8 * s.tileCount) s (s.entriesOpened f) :=
  State.putEntries_wrote h f id (fun u k => openEntry f (u.entry f k)) fun _ => List.mem_range.mp

theorem State.headed_wrote (h : s.mem.wf 0 = true) (f late scan id deadline : Nat) :
    State.WroteIn (s.table f + 8) (s.table f + 64) s (s.headed f late scan id deadline) := by
  have put {y : State} (hy : State.WroteIn (s.table f + 8) (s.table f + 64) s y) {off n : Nat} (v : Nat) (hoff : 8 ≤ off) (hn : off + n ≤ 64) :
      State.WroteIn (s.table f + 8) (s.table f + 64) s (y.putHead f off n v) := by
    have hput := State.putHead_wrote hy.ok f off n v
    rw [hy.canvas.table] at hput
    exact hy.trans (hput.mono (by omega) (by omega))
  exact put (put (put (put (put (.refl h) _ (by decide) (by decide)) _ (by decide) (by decide)) _ (by decide) (by decide)) _ (by decide)
    (by decide)) _ (by decide) (by decide)

theorem State.enterLate_wrote (h : s.mem.wf 0 = true) (f : Nat) {u n : Nat} (hg : ∀ g ∈ s.groups, g.step = u → g.cancelled = true → g.tile < n) :
    State.WroteIn (s.table f + 64) (s.table f + 64 + 8 * n) s (s.enterLate f u) := by
  refine State.putEntries_wrote h f Group.tile (fun y g => setBits (setBits (y.entry f g.tile) 63 60 7) 55 48 8) fun g hmem => ?_
  obtain ⟨hin, hlate⟩ := List.mem_filter.mp hmem
  rw [Bool.and_eq_true, beq_iff_eq] at hlate
  exact hg g hin hlate.1 hlate.2

theorem State.applyMarks_none {f : Nat} (h : SMap.find? s.raster.marks f = none) : s.applyMarks f = s := by
  unfold State.applyMarks
  rw [h]

/-- The byte of a header's flags has BOUND. -/
theorem flags_bound (v : Nat) : ∃ b : Byte, leBytes 1 (v ||| 0x10) = [b] ∧ b.getLsbD 4 = true := by
  refine ⟨BitVec.ofNat 8 (v ||| 0x10), ?_, ?_⟩
  · rfl
  · rw [BitVec.getLsbD_ofNat, Nat.testBit_or]
    simp only [show Nat.testBit 16 4 = true from rfl, Bool.or_true, Nat.reduceLT, decide_true, Bool.and_self]

theorem State.bindFrame_writes (h : s.mem.wf 0 = true) {f u : Nat} (e : CalEntry) (hm : SMap.find? s.raster.marks f = none)
    (hg : ∀ g ∈ s.groups, g.step = u → g.cancelled = true → g.tile < s.tileCount) :
    (s.bindFrame f u e).mem.readRun 0 (s.table f) 8 = leBytes 8 f ∧ ((s.bindFrame f u e).mem.read 0 (s.table f + 27)).getLsbD 4 = true ∧
      State.WroteIn (s.table f) (s.table f + 64 + 8 * s.tileCount) s (s.bindFrame f u e) := by
  obtain ⟨late, id, v, heq⟩ := s.bindFrame_eq f u e
  rw [heq]
  have hopen := State.entriesOpened_wrote h f
  generalize s.entriesOpened f = w0 at hopen ⊢
  have hnum := State.putHead_wrote hopen.ok f 0 8 f
  have hnumber := State.putHead_readRun hopen.ok f 0 8 f
  rw [hopen.canvas.table] at hnum hnumber
  rw [Nat.add_zero] at hnumber
  generalize w0.putHead f 0 8 f = w1 at hnum hnumber ⊢
  have h01 := (hopen.mono (lo' := s.table f) (by omega) (Nat.le_refl _)).trans (hnum.mono (by omega) (by omega))
  have hhead := State.headed_wrote hnum.ok f late e.scanStart id e.deadline
  rw [h01.canvas.table] at hhead
  generalize w1.headed f late e.scanStart id e.deadline = w2 at hhead ⊢
  have h02 := h01.trans (hhead.mono (by omega) (by omega))
  have hflags := State.putHead_wrote hhead.ok f 27 1 (v ||| 0x10)
  have hbound := State.putHead_readRun hhead.ok f 27 1 (v ||| 0x10)
  rw [h02.canvas.table] at hflags hbound
  generalize w2.putHead f 27 1 (v ||| 0x10) = w3 at hflags hbound ⊢
  have h03 := h02.trans (hflags.mono (by omega) (by omega))
  have hlate := State.enterLate_wrote (n := s.tileCount) (u := u) h03.ok f (by rwa [h03.only .groups rfl])
  rw [h03.canvas.table] at hlate
  have h04 := h03.trans (hlate.mono (by omega) (Nat.le_refl _))
  rw [State.applyMarks_none (by rwa [h04.only .raster rfl])]
  generalize w3.enterLate f u = w4 at hlate h04 ⊢
  refine ⟨?_, ?_, h04⟩
  · rw [hlate.readRun h03.ok (by omega), hflags.readRun hhead.ok (by omega), hhead.readRun hnum.ok (by omega)]
    exact hnumber
  · obtain ⟨b, hb, hbit⟩ := flags_bound v
    rw [Memory.readRun_eq_map _ _ h03.ok, hb, List.range_one, List.map_singleton, Nat.add_zero] at hbound
    rw [hlate.read _ (by omega), (List.cons.inj hbound).1, hbit]

theorem frameBind_binds (hok : MemOk s) (hr : s.disp.running = true) {f u : Nat} {e : CalEntry} (hu : s.boundStep f = some u) (he : s.plan f = some e)
    (hh : s.disp.hold = false) (hd : s.directPath f = true) (hb : s.boundHeader f = false) (hm : SMap.find? s.raster.marks f = none)
    (hg : ∀ g ∈ s.groups, g.step = u → g.cancelled = true → g.tile < s.tileCount) :
    ∃ t, exec (.frameBind f) s = .next t ∧ t.mem.readRun 0 (s.table f) 8 = leBytes 8 f ∧ (t.mem.read 0 (s.table f + 27)).getLsbD 4 = true ∧
      (∀ a, a < s.table f ∨ s.table f + 64 + 8 * s.tileCount ≤ a → t.mem.read 0 a = s.mem.read 0 a) ∧ Only [.badWords, .mem, .softWords] s t := by
  obtain ⟨hnum, hflag, hwrote⟩ := State.bindFrame_writes hok.1 e hm hg
  refine ⟨_, ?_, hnum, hflag, hwrote.read, hwrote.only⟩
  show execFrameBind f s = _
  unfold execFrameBind
  rw [hu, he]
  exact if_pos (by simp [hr, hh, hd, hb])

end

end Sys2Proof.Machine
end

section
set_option Elab.async false
namespace Sys2Proof.Machine

/-! ### What the pixels of a scan depend on (R258 to R260) -/

/-- Two states that show the same canvas: they differ in the urgent streams and in what no scan reads. -/
structure State.SameScan (s t : State) : Prop where
  disp : t.disp = { s.disp with urgent := t.disp.urgent }
  slotBytes : t.slotBytes = s.slotBytes
  spillBase : t.spillBase = s.spillBase
  cairnEn : t.cairnEn = s.cairnEn
  only : Only [.cairn, .ctrs, .disp, .freeCount, .hostMem, .msix, .now, .pages, .regs] s t

namespace State.SameScan

/-- A state that differs in what no scan reads, its registers and its display alike. -/
theorem of_only {s t : State} (h : Only [.cairn, .ctrs, .freeCount, .hostMem, .msix, .now, .pages] s t) : s.SameScan t := by
  have hreg := State.reg_congr (h .regs rfl) (h .insole rfl) (h .part rfl)
  refine ⟨by rw [h .disp rfl], ?_, ?_, ?_, h.mono (by decide)⟩
  · rw [State.slotBytes, hreg]
    rfl
  · rw [State.spillBase, hreg, hreg]
    rfl
  · rw [State.cairnEn, hreg]
    rfl

theorem trans {s t u : State} (h : s.SameScan t) (k : t.SameScan u) : s.SameScan u :=
  ⟨by rw [k.disp, h.disp], k.slotBytes.trans h.slotBytes, k.spillBase.trans h.spillBase, k.cairnEn.trans h.cairnEn,
    k.only.step (by decide) h.only⟩

section
variable {s t : State} (h : s.SameScan t)
include h

theorem canvas : s.SameCanvas t := ⟨by rw [h.disp], by rw [h.disp], h.only .insole rfl, h.only .part rfl⟩

theorem ocfg (i o : Nat) : t.ocfg i o = s.ocfg i o := by
  unfold State.ocfg State.resetValue State.variant
  rw [h.canvas.active, h.canvas.insole, h.canvas.part]

theorem ocsc (i k : Nat) : t.ocsc i k = s.ocsc i k := by rw [State.ocsc, h.canvas.active]; rfl

theorem convert (i px : Nat) : t.convert i px = s.convert i px := by simp only [State.convert, h.ocsc, h.ocfg]

theorem stagePlace (a : Nat) : t.stagePlace a = s.stagePlace a := by
  unfold State.stagePlace State.stageHeld State.unreturned
  rw [h.only .me rfl, h.slotBytes, h.spillBase, h.only .flags rfl]

theorem spans (a n : Nat) : t.spans a n = s.spans a n := by simp only [State.spans, h.stagePlace]

theorem badIn (a n : Nat) : t.badIn a n = s.badIn a n := by
  have hbad : t.badWords = s.badWords := h.only .badWords rfl
  have hprot : t.protEff = s.protEff := h.only .protEff rfl
  simp only [State.badIn, State.meets, State.checkedIn, h.spans, hbad, hprot]

theorem devNat (a n : Nat) : t.devNat a n = s.devNat a n := by
  have hmem : t.mem = s.mem := h.only .mem rfl
  unfold State.devNat State.devGet State.variant
  rw [hmem, h.canvas.part, h.spans]

theorem entry (f k : Nat) : t.entry f k = s.entry f k := by rw [State.entry, h.devNat, h.canvas.table]; rfl

theorem bufPixel (b x y : Nat) : t.bufPixel b x y = s.bufPixel b x y := by
  simp only [State.bufPixel, State.canvasBase, State.bufStride, State.canvasPitch, h.canvas.dcfg, h.devNat]

theorem sourcePixel (x y : Nat) : t.sourcePixel x y = s.sourcePixel x y := by
  have hsrc : t.disp.rowSrc = s.disp.rowSrc := by rw [h.disp]
  simp only [State.sourcePixel, State.canvasW, State.canvasH, hsrc, h.canvas.dcfg, h.devNat]

theorem standInPixel (f x y kind : Nat) (dx dy : Int) : t.standInPixel f x y kind dx dy = s.standInPixel f x y kind dx dy := by
  unfold State.standInPixel
  simp only [State.buffers, State.canvasW, State.canvasH, h.canvas.dcfg, h.bufPixel, h.sourcePixel]

theorem shownPixel (f x y : Nat) : t.shownPixel f x y = s.shownPixel f x y := by
  simp only [State.shownPixel, State.buffers, h.canvas.dcfg, h.canvas.columns, h.entry, h.bufPixel, h.standInPixel]

theorem scanRead (f x y : Nat) : t.scanRead f x y = s.scanRead f x y := by
  have hheld : t.disp.held = s.disp.held := by rw [h.disp]
  have hbuf : t.disp.holdBuf = s.disp.holdBuf := by rw [h.disp]
  unfold State.scanRead
  rw [hheld, hbuf, h.shownPixel]
  cases s.disp.holdBuf
  · rfl
  · dsimp only
    rw [h.bufPixel]

theorem scanPixel (f x y : Nat) : t.scanPixel f x y = s.scanPixel f x y := by
  unfold State.scanPixel
  simp only [h.scanRead, h.badIn]

theorem windowLayout : t.windowLayout = s.windowLayout := by rw [State.windowLayout, h.canvas.dcfg]; rfl

theorem origin (i : Nat) : t.origin i = s.origin i := by simp only [State.origin, h.windowLayout, h.canvas.dcfg]

theorem hActive : t.hActive = s.hActive := by rw [State.hActive, h.canvas.dcfg]; rfl

theorem lineKey (i y : Nat) : t.lineKey i y = s.lineKey i y := by rw [State.lineKey, h.windowLayout]; rfl

theorem streamOf (i : Nat) : t.streamOf i = s.streamOf i := by rw [State.streamOf, h.windowLayout]; rfl

theorem lowWm : t.lowWm = s.lowWm := by rw [State.lowWm, h.canvas.dcfg]; rfl

theorem recordsFrame (hc : t.cairn = s.cairn) (f : Nat) : t.recordsFrame f = s.recordsFrame f := by
  have hheld : t.disp.held = s.disp.held := by rw [h.disp]
  rw [State.recordsFrame, h.cairnEn, hc, hheld, h.only .devState rfl]
  rfl

end

end State.SameScan

/-- Without uncorrectable words every pixel is read. -/
theorem State.scanPixel_good {s : State} (h : s.badWords = []) (f x y : Nat) : (s.scanPixel f x y).2 = none := by
  have hgood (a : Nat) : s.badIn a 64 = false := by
    unfold State.badIn State.meets
    rw [h]
    rfl
  have hfind : ((s.scanRead f x y).1.find? fun a => s.badIn a 64) = none := List.find?_eq_none.mpr fun a _ => by simp [hgood a]
  unfold State.scanPixel
  dsimp only
  rw [hfind]

/-! ### Urgent streams (R259) -/

/-- The ports' counters of urgent accesses alone have moved. -/
theorem State.urgentServed_regs (s : State) {k : Nat} (h : k % 0x1000 ≠ 0x05C) : s.urgentServed.regs.find? k = s.regs.find? k := by
  have hport (t : State) (p : Nat) (v : Nat) : (t.free.2.setReg .memc p 0x05C v).regs.find? k = t.regs.find? k := by
    refine State.find?_setReg_other _ _ _ _ _ _ fun hk => h ?_
    rw [hk]
    simp only [Blk.base]
    omega
  unfold State.urgentServed
  generalize List.range (Config.ports s.variant) = l
  induction l generalizing s with
  | nil => rfl
  | cons p l ih => exact (ih _).trans (hport s p _)

/-- Two states whose registers differ only in what the urgent streams count show the same canvas. -/
theorem State.SameScan.of_regs {s t : State} (hdisp : t.disp = { s.disp with urgent := t.disp.urgent })
    (hregs : ∀ o, o % 0x1000 ≠ 0x05C → o ≠ Blk.base .disp 0 + 0x0D0 → t.regs.find? o = s.regs.find? o)
    (honly : Only [.ctrs, .disp, .freeCount, .hostMem, .msix, .pages, .regs] s t) : s.SameScan t := by
  have hreg {b : Blk} {i o : Nat} (h : (b.base i + o) % 0x1000 ≠ 0x05C) (hb : b.base i + o ≠ Blk.base .disp 0 + 0x0D0) :
      t.reg b i o = s.reg b i o :=
    State.reg_of_find? (hregs _ h hb) (honly .insole rfl) (honly .part rfl)
  refine ⟨hdisp, ?_, ?_, ?_, honly.mono (by decide)⟩
  · rw [State.slotBytes, hreg (by decide) (by decide)]
    rfl
  · rw [State.spillBase, hreg (by decide) (by decide), hreg (by decide) (by decide)]
    rfl
  · rw [State.cairnEn, hreg (by decide) (by decide)]
    rfl

theorem State.urgentServed_sameScan (s : State) : s.SameScan s.urgentServed := by
  have honly := s.urgentServed_only
  exact .of_regs (by rw [honly .disp rfl]) (fun o h _ => s.urgentServed_regs h) (honly.mono (by decide))

/-- A stream has become urgent. -/
def State.nowUrgent (s : State) (k : Nat) : State :=
  let t : State := { s with disp := { s.disp with urgent := k :: s.disp.urgent } }
  ((t.edge .disp 0 0x20 (!s.disp.urgent.isEmpty) none).bump .disp 0 0x0D0 1).irq .disp 0 0b100

theorem State.nowUrgent_disp (s : State) (k : Nat) : (s.nowUrgent k).disp = { s.disp with urgent := k :: s.disp.urgent } := by
  unfold State.nowUrgent
  dsimp only
  rw [State.irq_disp, State.bump_only _ _ _ _ _ .disp rfl, State.edge_only _ _ _ _ _ _ .disp rfl]

theorem State.nowUrgent_regs (s : State) (k : Nat) {o : Nat} (hb : o ≠ Blk.base .disp 0 + 0x0D0) :
    (s.nowUrgent k).regs.find? o = s.regs.find? o := by
  unfold State.nowUrgent
  dsimp only
  rw [State.irq_regs, State.find?_bump_other _ _ _ _ _ hb, State.edge_only _ _ _ _ _ _ .regs rfl]

theorem State.nowUrgent_only (s : State) (k : Nat) : Only [.ctrs, .disp, .hostMem, .msix, .pages, .regs] s (s.nowUrgent k) :=
  (State.irq_only _ _ _ _).step (by decide) ((State.bump_only _ _ _ _ _).step (by decide)
    ((State.edge_only _ _ _ _ _ _).step (by decide) (Only.set_disp.mono (by decide))))

theorem State.nowUrgent_sameScan (s : State) (k : Nat) : s.SameScan (s.nowUrgent k) :=
  .of_regs (by rw [s.nowUrgent_disp k]) (fun _ _ hb => s.nowUrgent_regs k hb) ((s.nowUrgent_only k).mono (by decide))

/-- What a level makes of a stream, before its accesses are served. -/
def State.urgentAt (s : State) (k : Nat) : State := if s.disp.urgent.contains k then s else s.nowUrgent k

theorem State.urgentAt_urgent (s : State) (k : Nat) : k ∈ (s.urgentAt k).disp.urgent := by
  unfold State.urgentAt
  by_cases hk : s.disp.urgent.contains k = true
  · rw [if_pos hk]
    exact List.contains_iff_mem.mp hk
  · rw [if_neg hk, State.nowUrgent_disp]
    exact List.mem_cons_self

theorem State.urgentAt_sameScan (s : State) (k : Nat) : s.SameScan (s.urgentAt k) := by
  unfold State.urgentAt
  split
  · exact .of_only (.refl _ s)
  · exact s.nowUrgent_sameScan k

theorem State.urgency_low {s : State} {level : Nat} (h : level < s.lowWm) (k : Nat) : s.urgency k level = (s.urgentAt k).urgentServed :=
  if_pos h

theorem State.urgency_high {s : State} {level : Nat} (h : s.lowWm + 4 ≤ level) (k : Nat) :
    s.urgency k level = { s with disp := { s.disp with urgent := s.disp.urgent.filter (· != k) } } :=
  (if_neg (by omega)).trans (if_pos h)

theorem State.urgency_between {s : State} {level : Nat} (hlow : ¬ level < s.lowWm) (hhigh : ¬ s.lowWm + 4 ≤ level) (k : Nat) :
    s.urgency k level = s := (if_neg hlow).trans (if_neg hhigh)

theorem State.urgency_becomes {s : State} {level : Nat} (h : level < s.lowWm) (k : Nat) : k ∈ (s.urgency k level).disp.urgent := by
  rw [State.urgency_low h, State.urgentServed_only _ .disp rfl]
  exact s.urgentAt_urgent k

theorem State.urgency_ends {s : State} {level : Nat} (h : s.lowWm + 4 ≤ level) (k : Nat) : k ∉ (s.urgency k level).disp.urgent := by
  rw [State.urgency_high h]
  simp

/-- Whatever becomes of a stream's urgency, the canvas is the same. -/
theorem State.urgency_sameScan (s : State) (k level : Nat) : s.SameScan (s.urgency k level) := by
  by_cases hlow : level < s.lowWm
  · rw [State.urgency_low hlow]
    exact (s.urgentAt_sameScan k).trans (State.urgentServed_sameScan _)
  · by_cases hhigh : s.lowWm + 4 ≤ level
    · rw [State.urgency_high hhigh]
      exact ⟨rfl, rfl, rfl, rfl, Only.set_disp.mono (by decide)⟩
    · rw [State.urgency_between hlow hhigh]
      exact .of_only (.refl _ s)

end Sys2Proof.Machine
end

section
set_option Elab.async false
namespace Sys2Proof.Machine

/-! ### A line is scanned (R258 to R260, R315) -/

section
variable {s : State} {i y buffered f : Nat}

theorem State.keepLine_unrecorded (h : s.recordsFrame f = false) : s.keepLine i y buffered f = s :=
  if_pos (by rw [h]; rfl)

theorem State.keepLine_records (h : s.recordsFrame f = true) (hk : s.cairn.lines.find? (s.lineKey i y) = none) (hb : s.hActive ≤ buffered) :
    (s.keepLine i y buffered f).cairn = { s.cairn with
      lines := s.cairn.lines.set (s.lineKey i y)
        ((List.range s.hActive).map fun x => (s.scanPixel f ((s.origin i).1 + x) ((s.origin i).2 + y)).1) } := by
  unfold State.keepLine
  dsimp only
  rw [if_neg (by rw [h, hk]; decide), Nat.min_eq_left hb, Nat.sub_eq_zero_of_le hb, List.replicate_zero, List.append_nil]

/-- The pixels of a line that have arrived. -/
def State.linePixels (s : State) (i y buffered f : Nat) : List (Nat × Option Nat) :=
  (List.range (min s.hActive buffered)).map fun x => s.scanPixel f ((s.origin i).1 + x) ((s.origin i).2 + y)

/-- The codes that a line is sent as. -/
def State.lineCodes (s : State) (i y buffered f : Nat) : List Nat :=
  ((s.linePixels i y buffered f).flatMap fun p => if (s.out i).blocked || p.2.isSome then [0, 0, 0] else s.convert i p.1) ++
    List.replicate (3 * (s.hActive - buffered)) 0

/-- The same code for every pixel. -/
theorem flatMap_zeros {α : Type} (l : List α) : (l.flatMap fun _ => [0, 0, 0]) = List.replicate (3 * l.length) 0 := by
  induction l with
  | nil => rfl
  | cons a l ih =>
    rw [List.flatMap_cons, ih, List.length_cons, Nat.mul_succ, Nat.add_comm, List.replicate_add]
    rfl

/-- A line of a blocked output is all zeros. -/
theorem State.lineCodes_blocked (h : (s.out i).blocked = true) : s.lineCodes i y buffered f = List.replicate (3 * s.hActive) 0 := by
  unfold State.lineCodes State.linePixels
  simp only [h, Bool.true_or, if_true]
  rw [flatMap_zeros, List.length_map, List.length_range, ← List.replicate_add]
  congr 1
  omega

/-- A line without errors is its converted pixels. -/
theorem State.lineCodes_good (h : (s.out i).blocked = false) (hw : s.badWords = []) (hb : s.hActive ≤ buffered) :
    s.lineCodes i y buffered f =
      (List.range s.hActive).flatMap fun x => s.convert i (s.scanPixel f ((s.origin i).1 + x) ((s.origin i).2 + y)).1 := by
  unfold State.lineCodes State.linePixels
  rw [Nat.min_eq_left hb, Nat.sub_eq_zero_of_le hb, List.replicate_zero, List.append_nil, List.flatMap_map]
  simp only [h, State.scanPixel_good hw, Option.isSome_none, Bool.or_self, Bool.false_eq_true, if_false]

theorem State.codeLine_out (s : State) (i n : Nat) : ((s.codeLine i n).out i).line = (s.out i).line ∧
    ∀ j, j ≠ i → (s.codeLine i n).out j = s.out j := by
  unfold State.codeLine
  split
  · dsimp only
    rw [State.putOut_out]
    exact ⟨rfl, fun j hj => State.putOut_out_other _ _ hj⟩
  · rw [State.putOut_out]
    exact ⟨rfl, fun j hj => State.putOut_out_other _ _ hj⟩

/-- The output whose line has been sent. -/
def State.lineSent (s : State) (i y buffered f : Nat) : State :=
  (s.putOut i { s.out i with line := s.lineCodes i y buffered f }).codeLine i s.hActive

/-- Errors and counts that follow a line leave the outputs. -/
theorem State.sendLine_outs (s : State) (i y buffered f : Nat) : (s.sendLine i y buffered f).outs = (s.lineSent i y buffered f).outs := by
  have hcorrect (x m : Nat) : ((s.lineSent i y buffered f).correctLine f x (m + y) (min s.hActive buffered)).outs =
      (s.lineSent i y buffered f).outs := State.correctLine_only _ _ _ _ _ .outs rfl
  have heq : ∃ t : State, t = (s.lineSent i y buffered f).correctLine f (s.origin i).1 ((s.origin i).2 + y) (min s.hActive buffered) ∧
      s.sendLine i y buffered f = match (s.linePixels i y buffered f).findSome? (·.2) with
        | some a => (t.underrun i).err .disp 0 2 0 a
        | none => if buffered < s.hActive then t.underrun i else t := ⟨_, rfl, rfl⟩
  obtain ⟨t, ht, hsend⟩ := heq
  have hunder : (t.underrun i).outs = t.outs := State.underrun_only _ _ .outs rfl
  rw [hsend, ← hcorrect (s.origin i).1 (s.origin i).2, ← ht]
  split
  · exact (State.err_only _ _ _ _ _ _ .outs rfl).trans hunder
  · split
    · exact hunder
    · rfl

theorem State.sendLine_out (s : State) (i y buffered f : Nat) : ((s.sendLine i y buffered f).out i).line = s.lineCodes i y buffered f ∧
    ∀ j, j ≠ i → (s.sendLine i y buffered f).out j = s.out j := by
  obtain ⟨hline, hother⟩ := State.codeLine_out (s.putOut i { s.out i with line := s.lineCodes i y buffered f }) i s.hActive
  have houts := s.sendLine_outs i y buffered f
  refine ⟨?_, fun j hj => ?_⟩
  · rw [State.out_congr houts, State.lineSent, hline, State.putOut_out]
  · rw [State.out_congr houts, State.lineSent, hother j hj, State.putOut_out_other _ _ hj]

/-- The codes of a line are those of any state that shows the same canvas. -/
theorem State.SameScan.lineCodes {s t : State} (h : s.SameScan t) (ho : t.outs = s.outs) (i y buffered f : Nat) :
    t.lineCodes i y buffered f = s.lineCodes i y buffered f := by
  simp only [State.lineCodes, State.linePixels, h.hActive, h.origin, h.scanPixel, h.convert, State.out_congr ho]

/-- A state whose line is kept and whose streams are judged, before the line is sent. -/
def State.lineKept (s : State) (due i y buffered level f : Nat) : State :=
  ((s.at due).urgency ((s.at due).streamOf i) level).keepLine i y buffered f

/-- The moment of a line (R251). -/
def State.lineDue (s : State) (e : CalEntry) (y : Nat) : Nat := (e.num * s.lineDen + y * s.lineNum * e.den) / (e.den * s.lineDen)

theorem State.at_sameScan (s : State) (due : Nat) : s.SameScan (s.at due) := .of_only ((s.at_only due).mono (by decide))

theorem execLineScan_scans {e : CalEntry} {level : Nat} (hf : s.curFrame = some f) (he : s.plan f = some e) (hr : s.disp.running = true)
    (hb : s.disp.scanBegun = true) (hi : s.outputs.contains i = true) (hy : y < s.vActive) (hk : s.lineKnown i y = true) :
    exec (.lineScan i y buffered level) s = .next (if ((s.lineKept (s.lineDue e y) i y buffered level f).out i).streaming then
      (s.lineKept (s.lineDue e y) i y buffered level f).sendLine i y buffered f else s.lineKept (s.lineDue e y) i y buffered level f) := by
  show execLineScan i y buffered level s = _
  unfold execLineScan
  rw [hf]
  dsimp only
  rw [he]
  dsimp only
  rw [if_neg (by simp [hr, hb, List.contains_iff_mem.mp hi, hy, hk])]
  rfl

end

end Sys2Proof.Machine
end

section
set_option Elab.async false
namespace Sys2Proof.Machine

/-! ### LINE_SCAN (R258 to R260, R315) -/

section
variable (s : State) (due i y buffered level f : Nat)

/-- A kept line changes neither the outputs nor the canvas. -/
theorem State.lineKept_sameScan : s.SameScan (s.lineKept due i y buffered level f) :=
  ((s.at_sameScan due).trans (State.urgency_sameScan _ _ _)).trans (.of_only ((State.keepLine_only _ _ _ _ _).mono (by decide)))

theorem State.lineKept_now : (s.lineKept due i y buffered level f).now = laterTime s.now (due % 2 ^ 64) := by
  unfold State.lineKept
  rw [State.keepLine_only _ _ _ _ _ .now rfl, State.urgency_only _ _ _ .now rfl, State.at_now]

theorem State.lineKept_disp :
    (s.lineKept due i y buffered level f).disp = ((s.at due).urgency (s.streamOf i) level).disp := by
  unfold State.lineKept
  rw [State.keepLine_only _ _ _ _ _ .disp rfl, (s.at_sameScan due).streamOf]

theorem State.lineKept_urgent :
    (level < s.lowWm → s.streamOf i ∈ (s.lineKept due i y buffered level f).disp.urgent) ∧
      (s.lowWm + 4 ≤ level → s.streamOf i ∉ (s.lineKept due i y buffered level f).disp.urgent) := by
  rw [State.lineKept_disp, ← (s.at_sameScan due).lowWm]
  exact ⟨fun h => State.urgency_becomes h _, fun h => State.urgency_ends h _⟩

/-- Cairn recording keeps the pixels of a line that it has not kept yet. -/
theorem State.lineKept_cairn :
    (s.recordsFrame f = false → (s.lineKept due i y buffered level f).cairn = s.cairn) ∧
      (s.recordsFrame f = true → s.cairn.lines.find? (s.lineKey i y) = none → s.hActive ≤ buffered →
        (s.lineKept due i y buffered level f).cairn = { s.cairn with
          lines := s.cairn.lines.set (s.lineKey i y)
            ((List.range s.hActive).map fun x => (s.scanPixel f ((s.origin i).1 + x) ((s.origin i).2 + y)).1) }) := by
  have hscan := (s.at_sameScan due).trans ((s.at due).urgency_sameScan ((s.at due).streamOf i) level)
  have hcairn : ((s.at due).urgency ((s.at due).streamOf i) level).cairn = s.cairn :=
    (State.urgency_only _ _ _ .cairn rfl).trans (s.at_cairn due)
  have hrecords := hscan.recordsFrame hcairn f
  unfold State.lineKept
  generalize (s.at due).urgency ((s.at due).streamOf i) level = u at hscan hcairn hrecords ⊢
  constructor
  · intro h
    rw [State.keepLine_unrecorded (hrecords.trans h), hcairn]
  · intro h hk hb
    rw [State.keepLine_records (hrecords.trans h) (by rw [hcairn, hscan.lineKey, hk]) (by rwa [hscan.hActive])]
    simp only [hcairn, hscan.hActive, hscan.origin, hscan.scanPixel, hscan.lineKey]

end

section
variable {s : State} {i y buffered level f : Nat} {e : CalEntry} (hf : s.curFrame = some f) (he : s.plan f = some e)
  (hr : s.disp.running = true) (hb : s.disp.scanBegun = true) (hi : s.outputs.contains i = true) (hy : y < s.vActive)
  (hk : s.lineKnown i y = true)
include hf he hr hb hi hy hk

theorem lineScan_scans : ∃ t, exec (.lineScan i y buffered level) s = .next t ∧
    t.now = laterTime s.now (s.lineDue e y % 2 ^ 64) ∧
    (level < s.lowWm → s.streamOf i ∈ t.disp.urgent) ∧ (s.lowWm + 4 ≤ level → s.streamOf i ∉ t.disp.urgent) ∧
    ((s.out i).streaming = false → t.outs = s.outs) ∧
    ((s.out i).streaming = true → (s.out i).blocked = true → (t.out i).line = List.replicate (3 * s.hActive) 0) ∧
    ((s.out i).streaming = true → (s.out i).blocked = false → s.badWords = [] → s.hActive ≤ buffered →
      (t.out i).line = (List.range s.hActive).flatMap (fun x => s.convert i (s.scanPixel f ((s.origin i).1 + x) ((s.origin i).2 + y)).1)) ∧
    (∀ j, j ≠ i → t.out j = s.out j) ∧
    (s.recordsFrame f = false → t.cairn = s.cairn) ∧
    (s.recordsFrame f = true → s.cairn.lines.find? (s.lineKey i y) = none → s.hActive ≤ buffered → t.cairn = { s.cairn with
      lines := s.cairn.lines.set (s.lineKey i y)
        ((List.range s.hActive).map fun x => (s.scanPixel f ((s.origin i).1 + x) ((s.origin i).2 + y)).1) }) ∧
    Only [.badWords, .cairn, .ctrs, .disp, .freeCount, .hostMem, .log, .mem, .msix, .now, .outs, .pages, .regs, .softWords] s t := by
  have hexec := execLineScan_scans (buffered := buffered) (level := level) hf he hr hb hi hy hk
  have hscan := s.lineKept_sameScan (s.lineDue e y) i y buffered level f
  have hnow := s.lineKept_now (s.lineDue e y) i y buffered level f
  obtain ⟨hlow, hhigh⟩ := s.lineKept_urgent (s.lineDue e y) i y buffered level f
  obtain ⟨hunrecorded, hrecords⟩ := s.lineKept_cairn (s.lineDue e y) i y buffered level f
  generalize s.lineKept (s.lineDue e y) i y buffered level f = v at hexec hscan hnow hlow hhigh hunrecorded hrecords
  have houts : v.outs = s.outs := hscan.only .outs rfl
  have hout := State.out_congr houts
  refine ⟨_, hexec, ?_⟩
  rw [hout i]
  by_cases hs : (s.out i).streaming = true
  · rw [if_pos hs]
    have hsend := v.sendLine_only i y buffered f
    obtain ⟨hline, hother⟩ := v.sendLine_out i y buffered f
    rw [hscan.lineCodes houts] at hline
    rw [hsend .now rfl, hsend .disp rfl, hsend .cairn rfl, hline]
    exact ⟨hnow, hlow, hhigh, fun h => absurd hs (by simp [h]), fun _ => State.lineCodes_blocked, fun _ => State.lineCodes_good,
      fun j hj => (hother j hj).trans (hout j), hunrecorded, hrecords, hsend.step (by decide) (hscan.only.mono (by decide))⟩
  · rw [if_neg hs]
    exact ⟨hnow, hlow, hhigh, fun _ => houts, fun h => absurd h hs, fun h => absurd h hs, fun j _ => hout j, hunrecorded, hrecords,
      hscan.only.mono (by decide)⟩

end

/-! ### SCAN_OUT_END (R262, R316) -/

section
variable {s : State} {f : Nat} {e : CalEntry}

/-- The scan-out is counted at its last line. -/
def State.scanCounted (s : State) (due : Nat) : State := (s.at due).bump .disp 0 0x0BC 1

theorem State.scanCounted_only (s : State) (due : Nat) : Only [.now, .regs] s (s.scanCounted due) :=
  (State.bump_only _ _ _ _ _).step (by decide) ((s.at_only due).mono (by decide))

theorem State.at_reg (s : State) (due : Nat) (b : Blk) (i o : Nat) : (s.at due).reg b i o = s.reg b i o :=
  State.reg_congr (s.at_regs due) (s.at_insole due) (s.at_part due) b i o

theorem State.scanCounted_reg (s : State) (due : Nat) : (s.scanCounted due).reg .disp 0 0x0BC = min (s.reg .disp 0 0x0BC + 1) (2 ^ 32 - 1) := by
  unfold State.scanCounted
  rw [State.reg_bump, State.at_reg]

theorem State.scanCounted_regs (s : State) (due : Nat) {o : Nat} (h : o ≠ Blk.base .disp 0 + 0x0BC) :
    (s.scanCounted due).regs.find? o = s.regs.find? o := by
  unfold State.scanCounted
  rw [State.find?_bump_other _ _ _ _ _ h, State.at_regs]

/-- Whether a frame is recorded, by the enable, the first frame, the hold and the device state (R315). -/
theorem State.recordsFrame_iff (s : State) (f : Nat) : s.recordsFrame f = true ↔
    s.cairnEn = true ∧ s.cairn.firstFrame ≤ f ∧ s.disp.held = false ∧ s.devState ≠ 5 := by
  unfold State.recordsFrame
  simp [and_assoc]

theorem State.scanCounted_recordsFrame (s : State) (due f : Nat) : (s.scanCounted due).recordsFrame f = s.recordsFrame f := by
  have honly := s.scanCounted_only due
  have hen : (s.scanCounted due).cairnEn = s.cairnEn := by
    have hreg := State.reg_of_find? (b := .sec) (i := 0) (o := 0x100) (s.scanCounted_regs due (by decide)) (honly .insole rfl) (honly .part rfl)
    rw [State.cairnEn, hreg]
    rfl
  rw [State.recordsFrame, hen, honly .cairn rfl, honly .disp rfl, honly .devState rfl]
  rfl

theorem State.captureCairn_off (h : s.recordsFrame f = false) (e : CalEntry) : s.captureCairn f e = s :=
  if_neg (Bool.eq_false_iff.mp h)

theorem State.captureCairn_cairn (h : s.recordsFrame f = true) (e : CalEntry) :
    (s.captureCairn f e).cairn = { s.cairn with due := s.cairn.due ++ [s.cairnDue f e] } := by
  unfold State.captureCairn
  rw [if_pos h]

theorem State.cairnDue_open (s : State) (f : Nat) (e : CalEntry) : (s.cairnDue f e).frame = f ∧ (s.cairnDue f e).tiles = none := ⟨rfl, rfl⟩

/-- The frame's scan-out has ended: its steps may go. -/
def State.scanOver (s : State) (f : Nat) : State :=
  let t : State := { s with disp := { s.disp with scanned := f + 1 } }
  t.tidySteps.pumpDisplay

theorem State.scanOver_disp (s : State) (f : Nat) :
    (s.scanOver f).disp = { s.disp with scanned := f + 1, bound := s.disp.bound.filter fun b => f + 1 ≤ b.1 } := by
  unfold State.scanOver
  dsimp only
  rw [State.pumpDisplay_only _ .disp rfl, State.tidySteps_disp]

theorem State.scanOver_only (s : State) (f : Nat) : Only [.cmds, .disp, .groups, .steps] s (s.scanOver f) :=
  (State.pumpDisplay_only _).step (by decide) ((State.tidySteps_only _).step (by decide) (Only.set_disp.mono (by decide)))

theorem execScanOutEnd_ends (hf : s.curFrame = some f) (he : s.plan f = some e) (hr : s.disp.running = true) (hs : s.disp.scanned = f)
    (ho : s.rowsOver = true) : ∃ due, exec .scanOutEnd s = .next (((s.scanCounted due).captureCairn f e).scanOver f) := by
  refine ⟨(e.num * s.lineDen + (s.vActive - 17) * s.lineNum * e.den) / (e.den * s.lineDen), ?_⟩
  show execScanOutEnd s = _
  unfold execScanOutEnd
  rw [hf]
  dsimp only
  rw [he]
  dsimp only
  rw [if_neg (by simp [hr, hs, ho])]
  rfl

theorem scanOutEnd_ends (hr : s.disp.running = true) (hf : s.curFrame = some f) (he : s.plan f = some e) (hs : s.disp.scanned = f)
    (ho : s.rowsOver = true) :
    ∃ t, exec .scanOutEnd s = .next t ∧ t.disp = { s.disp with scanned := f + 1, bound := s.disp.bound.filter fun b => f + 1 ≤ b.1 } ∧
      t.reg .disp 0 0x0BC = min (s.reg .disp 0 0x0BC + 1) (2 ^ 32 - 1) ∧ (∀ o, o ≠ Blk.base .disp 0 + 0x0BC → t.regs.find? o = s.regs.find? o) ∧
      (s.cairnEn = true → s.cairn.firstFrame ≤ f → s.disp.held = false → s.devState ≠ 5 →
        ∃ d : CairnDue, t.cairn = { s.cairn with due := s.cairn.due ++ [d] } ∧ d.frame = f ∧ d.tiles = none) ∧
      (s.cairnEn = false ∨ f < s.cairn.firstFrame ∨ s.disp.held = true ∨ s.devState = 5 → t.cairn = s.cairn) ∧
      Only [.cairn, .cmds, .disp, .freeCount, .groups, .now, .regs, .steps] s t := by
  obtain ⟨due, hexec⟩ := execScanOutEnd_ends hf he hr hs ho
  have hcount := s.scanCounted_only due
  have hreg := s.scanCounted_reg due
  have hregs := fun o => s.scanCounted_regs due (o := o)
  have hrecords := s.scanCounted_recordsFrame due f
  generalize s.scanCounted due = w at hexec hcount hreg hregs hrecords
  have hcapture := w.captureCairn_only f e
  have hover := (w.captureCairn f e).scanOver_only f
  refine ⟨_, hexec, ?_, ?_, fun o h => ?_, fun hen hfirst hheld hdev => ?_, fun h => ?_,
    hover.step (by decide) (hcapture.step (by decide) (hcount.mono (by decide)))⟩
  · rw [State.scanOver_disp, hcapture .disp rfl, hcount .disp rfl]
  · rw [State.reg_congr (hover .regs rfl) (hover .insole rfl) (hover .part rfl),
      State.reg_congr (hcapture .regs rfl) (hcapture .insole rfl) (hcapture .part rfl), hreg]
  · rw [hover .regs rfl, hcapture .regs rfl, hregs o h]
  · have hon : w.recordsFrame f = true := hrecords.trans ((s.recordsFrame_iff f).mpr ⟨hen, hfirst, hheld, hdev⟩)
    obtain ⟨hframe, htiles⟩ := w.cairnDue_open f e
    exact ⟨w.cairnDue f e, by rw [hover .cairn rfl, State.captureCairn_cairn hon, hcount .cairn rfl], hframe, htiles⟩
  · have hoff : w.recordsFrame f = false := by
      rw [hrecords, Bool.eq_false_iff, ne_eq, s.recordsFrame_iff]
      rintro ⟨hen, hfirst, hheld, hdev⟩
      rcases h with h | h | h | h
      · simp [h] at hen
      · omega
      · simp [h] at hheld
      · exact hdev h
    rw [hover .cairn rfl, State.captureCairn_off hoff, hcount .cairn rfl]

end

/-! ### O42 -/

/-- Settles O42: each command of a display frame by the state that it comes to, the table by its writes, the line by the canvas that its urgency
leaves alone. -/
theorem displayFramesRunTheirCourse : Obligations.DisplayFramesRunTheirCourse := by
  unfold Obligations.DisplayFramesRunTheirCourse
  refine fun s hok hr => ⟨fun hs hc hn => calendarPublish_plans hr hs hc hn, fun f u e hu he hh hd hb hm hg => frameBind_binds hok hr hu he hh hd hb hm hg,
    fun f e hf he hb => frameScanStart_starts hf he hr hb, fun f e i y buffered level hf he hb hi hy hk => lineScan_scans hf he hr hb hi hy hk,
    fun f e hf he hs ho => scanOutEnd_ends hr hf he hs ho, fun k r good hg hk hres hgood => frameSyncEdge_moves hr hg hk hres hgood,
    fun hg h3 => genlockHoldover_holds hr hg h3⟩

end Sys2Proof.Machine
end
